-- ==== Sys2Proof/Word.lean ====
section
/-! DEFINITION. The machine's words and the fixed-size files that hold them (00_scope.md R10, 01_words.md R13). -/

namespace Sys2Proof

/-- A word is 32 bits, a double 64, a quad 128 (R10); a v register is 1,024 bits (R13). -/
abbrev Byte := BitVec 8
abbrev Word := BitVec 32
abbrev Dbl := BitVec 64
abbrev Quad := BitVec 128
abbrev VReg := BitVec 1024

/-- Logical core index, 0 to 383 (R7). -/
abbrev CoreId := Fin 384
/-- Strand slot of a core (R1). -/
abbrev SlotId := Fin 16
/-- Cluster index, 0 to 23 (R7). -/
abbrev ClusterId := Fin 24
/-- Memory home, 0 to 15 (R9). -/
abbrev HomeId := Fin 16

/-- Entry `i` of a fixed-size file. -/
def rd {α : Type} {n : Nat} (v : Vector α n) (i : Fin n) : α := v[i.val]

/-- The file with entry `i` replaced. -/
def wr {α : Type} {n : Nat} (v : Vector α n) (i : Fin n) (x : α) : Vector α n := v.set i.val x

@[simp] theorem rd_wr_same {α : Type} {n : Nat} (v : Vector α n) (i : Fin n) (x : α) :
    rd (wr v i x) i = x := by simp [rd, wr]

@[simp] theorem rd_wr_ne {α : Type} {n : Nat} (v : Vector α n) {i j : Fin n} (x : α) (h : j ≠ i) :
    rd (wr v i x) j = rd v j := by
  have : i.val ≠ j.val := fun e => h (Fin.ext e.symm)
  simp [rd, wr, this]

/-- A function over every entry of a fixed-size file. -/
def vmap {α β : Type} {n : Nat} (f : α → β) (v : Vector α n) : Vector β n := ⟨⟨v.toList.map f⟩, by simp⟩

/-- The fixed-size file of a function's values. -/
def vofFn {α : Type} {n : Nat} (f : Fin n → α) : Vector α n := ⟨⟨(List.finRange n).map f⟩, by simp⟩

@[simp] theorem rd_vmap {α β : Type} {n : Nat} (f : α → β) (v : Vector α n) (i : Fin n) :
    rd (vmap f v) i = f (rd v i) := by simp [rd, vmap, Vector.getElem_mk]

@[simp] theorem rd_vofFn {α : Type} {n : Nat} (f : Fin n → α) (i : Fin n) : rd (vofFn f) i = f i := by
  simp [rd, vofFn, Vector.getElem_mk]

/-- The `n` low bits of `w` from bit `lo` up, as a number. -/
def fld (w lo n : Nat) : Nat := w / 2 ^ lo % 2 ^ n

end Sys2Proof
end

