-- ==== Sys2Proof/Types.lean ====
section
/-! DEFINITION. Shapes that instructions, events and the state share: capability values, address-event packets in
flight, close packets, and what arrives at the device's edges. -/

namespace Sys2Proof

/-- A c register: 128 bits plus the tag bit (01_words.md R13). -/
structure CVal where
  val : Quad
  tag : Bool
  deriving DecidableEq, Repr, Inhabited

/-- All 128 bits zero, tag clear: what c0 reads as (R14). -/
def CVal.null : CVal := { val := 0, tag := false }

/-- Plain data: 128 bits, tag clear. -/
def CVal.plain (v : Quad) : CVal := { val := v, tag := false }

/-- Who sends a packet (09 R224); cores keep sequence numbers and dictionaries per pair (R176, R275). -/
inductive Sender where
  | core (c : CoreId)
  | port (p : Fin 8)
  | window (k : Fin 32)
  | gpio (i : Fin 32)
  | can (c : Fin 4)
  | slotTimer (p : Fin 4)
  | housekeeping
  | engine (c : CoreId)
  | paging (q : ClusterId)
  deriving DecidableEq, Repr

/-- Who is told when a message has been accepted: a strand's piece of work that waits in a send, a bin whose sheet it
reports, or nobody: a message of a grid that a commit has issued, or one whose sender's grid has been ended, which is discarded
(07 R178; 09 R235; 16 R308; 19 R352). -/
inductive Waiter where
  | strand (wid : Nat)
  | sheet (q : ClusterId) (b : Fin 16) (seq : Word)
  | grid (g : Word)
  | discarded
  deriving DecidableEq, Repr

/-- A message in flight: its address-event packet, the words that travel, the decoded word count, the word type, its
pair's sequence number, its sender, and who waits for its acceptance (07 R176-R178, 13 R277). -/
structure Msg where
  aep : Quad
  stream : List Word
  count : Nat
  wtype : BitVec 2
  seq : Word
  sender : Sender
  waiter : Option Waiter
  deriving DecidableEq, Repr

/-- A close packet of a window before it is delivered, with the sources bound at the close (08 R212, 09 R230). -/
structure ClosePkt where
  win : Fin 32
  target : Word
  cause : BitVec 2
  time : Word
  lag : List (BitVec 16)
  srcs : List (BitVec 16)
  deriving DecidableEq, Repr

/-- An application-core access by physical address (22 R393). -/
structure AppAccess where
  addr : Nat
  size : Nat
  write : Bool
  data : Quad
  deriving DecidableEq, Repr

/-- A frame received by a CAN FD controller (22 R402). -/
structure CanFrame where
  ident : BitVec 29
  ext : Bool
  remote : Bool
  bad : Bool
  data : List Byte
  sof : Nat
  deriving DecidableEq, Repr

/-- A firmware image as it stands in SPI flash: its 5,376-byte header and its body (22 R406). -/
structure FirmwareImage where
  header : List Byte
  body : List Byte
  deriving DecidableEq, Repr

end Sys2Proof
end

