-- ==== Sys2Proof/Config.lean ====
section
/-! DEFINITION. What an implementation fixes and what the spec leaves open: constants without a body, so that nothing
can be proved of their values (log entries 11 and 13 to 15). -/

namespace Sys2Proof.Config

/-- Free values, one for each count of the state's counter `freshN` (log entry 13). -/
opaque freeValue : Nat → BitVec 1024

/-- Installed LPDDR-6 bytes of a die, fixed at assembly (22 R404; log entry 14). -/
opaque memsz : Fin 2 → BitVec 48

/-- Whether a peer package is linked over PCIe (22 R405; log entry 15). -/
opaque peerLinked : Bool

/-- SHAKE256 of FIPS 202 with 64 bytes of output (22 R406; log entry 11). -/
opaque shake256 : List Byte → List Byte

/-- ML-DSA-65 verification of FIPS 204: public key, message, signature (22 R406; log entry 11). -/
opaque mldsaVerify : List Byte → List Byte → List Byte → Bool

/-- The ML-DSA-65 signature made with the device identity key (22 R406; log entry 11). -/
opaque mldsaSign : List Byte → List Byte

/-- The device identity public key, 1,952 bytes (22 R395, R406). -/
opaque deviceKey : List Byte

/-- The 64-byte key digest fused for an image kind (22 R406). -/
opaque fusedDigest : Nat → List Byte

/-- The fused minimum version of an image kind (22 R406). -/
opaque fusedVersion : Nat → Nat

end Sys2Proof.Config
end

