-- ==== Sys2Proof/Syntax.lean ====
section
/-! DEFINITION. The instructions and events of the part: one constructor per row of spec/opcode_table.json. An
instruction word's fields stand in the word's order, high to low, after its guard `g` (01_words.md R18); a row with a
literal carries it last (R22); an event carries the unit it happens at. -/

namespace Sys2Proof

/-- Every row of the table of operations and events. -/
inductive Instr where
  -- events of the units (95_what_each_step_holds.md)
  | memoryUpcall (c : CoreId) (k : SlotId)
  | loadResponse (c : CoreId) (k : SlotId) (id : Nat)
  | storeAtHome (c : CoreId) (id : Nat)
  | postedErrorResponse (c : CoreId) (id : Nat)
  | amoAtHome (c : CoreId) (id : Nat)
  | xaddAtHome (c : CoreId) (id : Nat)
  | joinDecrement (c : CoreId) (asid : BitVec 16) (entry : Option Nat) (jo : CVal)
  | taskCommit (d : Fin 8)
  | taskIrrevocable (d : Fin 8)
  | versionRecordFreed (h : Fin 400)
  | messageArrival (c : CoreId) (m : Msg)
  | refusalCallback (c : CoreId) (ch : Fin 64)
  | messageResend (c : CoreId) (m : Msg)
  | sendAccepted (c : CoreId) (wid : Nat)
  | handlerChoice (c : CoreId)
  | continuationTake (c : CoreId)
  | stealRound (c : CoreId)
  | stealRetryTimeout (c : CoreId)
  | queuePushWait (q : ClusterId)
  | watermarkPublish (c : CoreId) (w : Word)
  | watermarkAtNi (c : CoreId) (src : BitVec 16) (w : Word)
  | watermarkAtWindowUnit (src : BitVec 16) (w : Word)
  | windowTargetPass (k : Fin 32)
  | windowTimeout (k : Fin 32)
  | detApplyAtHome (h : Fin 400) (k : Fin 32)
  | detReleaseAtQueue (q : ClusterId) (k : Fin 32)
  | closePacketsSend (k : Fin 32)
  | closePacketDelivery (c : CoreId) (p : ClosePkt)
  | sheetTimeout (q : ClusterId) (b : Fin 16)
  | sheetDone (q : ClusterId) (b : Fin 16)
  | leaseGrant (q : ClusterId)
  | arrayTurn (q : ClusterId)
  | arrayTurnEnd (q : ClusterId)
  | arrayCommandComplete (q : ClusterId)
  | arrayFillComplete (q : ClusterId) (id : Nat)
  | arraySpill (q : ClusterId) (l : Nat)
  | arrayRestore (q : ClusterId) (l : Nat)
  | readoutDrain (q : ClusterId) (id : Nat)
  | streamerPiece (id n : Nat)
  | granuleWrite (id n : Nat)
  | engineAck (id n : Nat)
  | engineHandBack (id : Nat)
  | quireUpdateAtHome (id : Nat)
  | walkArrival (id : Nat)
  | walkRule (id : Nat)
  | walkEnd (id : Nat)
  | prefetchTrigger (c : CoreId) (va : Nat) (asid : BitVec 16)
  | prefetchKernel (c : CoreId)
  | translationWalk (ni : Fin 400) (asid : BitVec 16) (va : Dbl)
  | tlbiAck (id : Nat) (ni : Fin 400)
  | bridgeResend (p : Fin 12)
  | preemptionSave (c : CoreId)
  | strandRestore (c : CoreId) (k : SlotId)
  | launchValidation (d : Fin 2)
  | launchHeadTake (d : Fin 2)
  | launchPortWrite (d : Fin 2) (addr : Dbl)
  | teamSliceExpiry (grid : Word) (u : Nat)
  | partitionPeriodStart (p : Fin 4)
  | partitionBudgetStart (p : Fin 4)
  | partitionBudgetEnd (p : Fin 4)
  | coreHardwareError (c : CoreId)
  | dieFatalFault (d : Fin 2)
  | gerrPop (d : Fin 2)
  | reset (img : FirmwareImage)
  | functionReady (b : Fin 78)
  | functionOutOfService (b : Fin 78)
  | throttleTick (power : BitVec 16)
  | overtemperature (temp : BitVec 8)
  | gptpSync (grand : BitVec 64)
  | csi2Packet (p : Fin 8) (dtype : BitVec 6) (crcOk : Bool) (words : List Dbl)
  | portWatermarkPeriod (p : Fin 8)
  | gpioEdge (i : Fin 32) (level : Bool) (edge held : Nat)
  | gpioTimerPeriod (i : Fin 32)
  | gpioWatermarkPeriod (i : Fin 32)
  | canFrameEvent (i : Fin 4) (f : CanFrame)
  | canWatermarkPeriod (i : Fin 4)
  | pagingFill (q : ClusterId)
  | pagingSpill (q : ClusterId)
  | pagingGrow (q : ClusterId)
  | pggrowPop (d : Fin 2)
  | protRegionEnable (c : CoreId) (i : Fin 16) (x : Quad)
  | protRegionDisable (c : CoreId) (i : Fin 16) (x : Quad)
  | wstReadClear (k : Fin 32)
  | quiesceRequest (c : CoreId)
  | quiesceComplete (c : CoreId)
  | debugHalt (c : CoreId)
  | debugRelease (c : CoreId)
  | snapshotPin
  | capabilityStore (addr : Dbl)
  | attestationRequest (addr : Dbl)
  | appCoreAccess (a : AppAccess)
  | pcieInboundWrite (addr : Nat) (bytes : List Byte) (relaxed : Bool)
  | registerWrite (c : CoreId) (n : Fin 1024) (x : CVal)
  | illegalInstruction (c : CoreId) (k : SlotId)
  | instructionFetchFailure (c : CoreId) (k : SlotId)
  | lockLost
  -- scalar integer (03 R69-R76)
  | add (g : Fin 8) (d a b : Fin 64)
  | sub (g : Fin 8) (d a b : Fin 64)
  | and (g : Fin 8) (d a b : Fin 64)
  | or (g : Fin 8) (d a b : Fin 64)
  | xor (g : Fin 8) (d a b : Fin 64)
  | andn (g : Fin 8) (d a b : Fin 64)
  | sll (g : Fin 8) (d a b : Fin 64)
  | srl (g : Fin 8) (d a b : Fin 64)
  | sra (g : Fin 8) (d a b : Fin 64)
  | rot (g : Fin 8) (d a b : Fin 64)
  | min (g : Fin 8) (d a b : Fin 64)
  | max (g : Fin 8) (d a b : Fin 64)
  | mul (g : Fin 8) (d a b : Fin 64)
  | mulh (g : Fin 8) (d a b : Fin 64)
  | mulhU (g : Fin 8) (d a b : Fin 64)
  | div (g : Fin 8) (d a b : Fin 64)
  | divU (g : Fin 8) (d a b : Fin 64)
  | rem (g : Fin 8) (d a b : Fin 64)
  | remU (g : Fin 8) (d a b : Fin 64)
  | clz (g : Fin 8) (d a : Fin 64)
  | popc (g : Fin 8) (d a : Fin 64)
  | mov (g : Fin 8) (d a : Fin 64)
  | sextB (g : Fin 8) (d a : Fin 64)
  | sextH (g : Fin 8) (d a : Fin 64)
  | sextW (g : Fin 8) (d a : Fin 64)
  | zextB (g : Fin 8) (d a : Fin 64)
  | zextH (g : Fin 8) (d a : Fin 64)
  | zextW (g : Fin 8) (d a : Fin 64)
  | addImm (g : Fin 8) (d a : Fin 64) (i : BitVec 10)
  | addImmLiteral (g : Fin 8) (d a : Fin 64) (lit : Word)
  | andImm (g : Fin 8) (d a : Fin 64) (i : BitVec 10)
  | andImmLiteral (g : Fin 8) (d a : Fin 64) (lit : Word)
  | orImm (g : Fin 8) (d a : Fin 64) (i : BitVec 10)
  | orImmLiteral (g : Fin 8) (d a : Fin 64) (lit : Word)
  | xorImm (g : Fin 8) (d a : Fin 64) (i : BitVec 10)
  | xorImmLiteral (g : Fin 8) (d a : Fin 64) (lit : Word)
  | sllImm (g : Fin 8) (d a : Fin 64) (i : BitVec 10)
  | srlImm (g : Fin 8) (d a : Fin 64) (i : BitVec 10)
  | sraImm (g : Fin 8) (d a : Fin 64) (i : BitVec 10)
  | rotImm (g : Fin 8) (d a : Fin 64) (i : BitVec 10)
  | li (g : Fin 8) (d : Fin 64) (i : BitVec 10)
  | liLiteral (g : Fin 8) (d : Fin 64) (lit : Word)
  | cmpi (g c h : Fin 8) (a : Fin 64) (i : BitVec 10)
  | cmpiLiteral (g c h : Fin 8) (a : Fin 64) (lit : Word)
  | cmp (g c h : Fin 8) (a b : Fin 64)
  | cmpAnd (g c h : Fin 8) (a b : Fin 64)
  | cmpOr (g c h : Fin 8) (a b : Fin 64)
  | gnot (g h j : Fin 8)
  | gand (g h j k : Fin 8)
  | gor (g h j k : Fin 8)
  | sel (g : Fin 8) (d a b : Fin 64) (h : Fin 8)
  -- scalar floating point (03 R77-R80)
  | fadd (g : Fin 8) (d a b : Fin 64)
  | fsub (g : Fin 8) (d a b : Fin 64)
  | fmul (g : Fin 8) (d a b : Fin 64)
  | fdiv (g : Fin 8) (d a b : Fin 64)
  | fmin (g : Fin 8) (d a b : Fin 64)
  | fmax (g : Fin 8) (d a b : Fin 64)
  | fsqrt (g : Fin 8) (d a : Fin 64)
  | ffma (g : Fin 8) (d a b : Fin 64)
  | ffmaN (g : Fin 8) (d a b : Fin 64)
  | fcmp (g c h : Fin 8) (a b : Fin 64)
  | fcvtF32I64 (g : Fin 8) (d a : Fin 64)
  | fcvtF32U64 (g : Fin 8) (d a : Fin 64)
  | fcvtI64F32 (g : Fin 8) (d a : Fin 64)
  | fcvtU64F32 (g : Fin 8) (d a : Fin 64)
  | fcvtBf16F32 (g : Fin 8) (d a : Fin 64)
  | fcvtF16F32 (g : Fin 8) (d a : Fin 64)
  | fcvtF32Bf16 (g : Fin 8) (d a : Fin 64)
  | fcvtF32F16 (g : Fin 8) (d a : Fin 64)
  -- capabilities (03 R82-R89)
  | cbnd (g : Fin 8) (d a b : Fin 64)
  | cinc (g : Fin 8) (d a b : Fin 64)
  | caddr (g : Fin 8) (d a b : Fin 64)
  | cperm (g : Fin 8) (d a b : Fin 64)
  | ctagc (g : Fin 8) (d a : Fin 64)
  | cgetBase (g : Fin 8) (d a : Fin 64)
  | cgetTop (g : Fin 8) (d a : Fin 64)
  | cgetLen (g : Fin 8) (d a : Fin 64)
  | cgetPerm (g : Fin 8) (d a : Fin 64)
  | cgetTag (g : Fin 8) (d a : Fin 64)
  | cincImm (g : Fin 8) (d a : Fin 64) (i : BitVec 10)
  | cincImmLiteral (g : Fin 8) (d a : Fin 64) (lit : Word)
  | cbndImm (g : Fin 8) (d a : Fin 64) (i : BitVec 10)
  | cbndImmLiteral (g : Fin 8) (d a : Fin 64) (lit : Word)
  -- control (03 R90-R98)
  | j (g : Fin 8) (o : Fin 4194304)
  | call (g : Fin 8) (o : Fin 4194304)
  | jr (g : Fin 8) (a : Fin 64)
  | ret (g : Fin 8)
  | bgF (g h : Fin 8) (o : Fin 262144)
  | bgT (g h : Fin 8) (o : Fin 262144)
  | rep (g : Fin 8) (l : Fin 64) (i : BitVec 10)
  | repLiteral (g : Fin 8) (l : Fin 64) (lit : Word)
  | repReg (g : Fin 8) (l a : Fin 64)
  | nop (g : Fin 8)
  | trap (g : Fin 8) (i : Fin 512)
  | suspend (g : Fin 8) (a b : Fin 64)
  | hend (g : Fin 8)
  -- scalar memory accesses (04 R107-R110)
  | ldB (g : Fin 8) (d b : Fin 64) (l : Fin 16) (o : Fin 64)
  | ldBLiteral (g : Fin 8) (d b : Fin 64) (l : Fin 16) (lit : Word)
  | ldH (g : Fin 8) (d b : Fin 64) (l : Fin 16) (o : Fin 64)
  | ldHLiteral (g : Fin 8) (d b : Fin 64) (l : Fin 16) (lit : Word)
  | ldW (g : Fin 8) (d b : Fin 64) (l : Fin 16) (o : Fin 64)
  | ldWLiteral (g : Fin 8) (d b : Fin 64) (l : Fin 16) (lit : Word)
  | ldD (g : Fin 8) (d b : Fin 64) (l : Fin 16) (o : Fin 64)
  | ldDLiteral (g : Fin 8) (d b : Fin 64) (l : Fin 16) (lit : Word)
  | ldQ (g : Fin 8) (d b : Fin 64) (l : Fin 16) (o : Fin 64)
  | ldQLiteral (g : Fin 8) (d b : Fin 64) (l : Fin 16) (lit : Word)
  | stB (g : Fin 8) (s b o : Fin 64)
  | stBLiteral (g : Fin 8) (s b : Fin 64) (lit : Word)
  | stH (g : Fin 8) (s b o : Fin 64)
  | stHLiteral (g : Fin 8) (s b : Fin 64) (lit : Word)
  | stW (g : Fin 8) (s b o : Fin 64)
  | stWLiteral (g : Fin 8) (s b : Fin 64) (lit : Word)
  | stD (g : Fin 8) (s b o : Fin 64)
  | stDLiteral (g : Fin 8) (s b : Fin 64) (lit : Word)
  | stQ (g : Fin 8) (s b o : Fin 64)
  | stQLiteral (g : Fin 8) (s b : Fin 64) (lit : Word)
  | ldc (g : Fin 8) (d b : Fin 64) (l : Fin 16) (o : Fin 64)
  | ldcLiteral (g : Fin 8) (d b : Fin 64) (l : Fin 16) (lit : Word)
  | stc (g : Fin 8) (s b o : Fin 64)
  | stcLiteral (g : Fin 8) (s b : Fin 64) (lit : Word)
  | ldq (g : Fin 8) (n : Fin 32) (b o : Fin 64)
  | ldqLiteral (g : Fin 8) (n : Fin 32) (b : Fin 64) (lit : Word)
  | stq (g : Fin 8) (n : Fin 32) (b o : Fin 64)
  | stqLiteral (g : Fin 8) (n : Fin 32) (b : Fin 64) (lit : Word)
  | ldm (g : Fin 8) (d a n : Fin 64)
  | stm (g : Fin 8) (d a n : Fin 64)
  -- vector accesses (04 R111, R112)
  | vld (g : Fin 8) (d : Fin 32) (b : Fin 64) (l : Fin 16) (o : Fin 64)
  | vldLiteral (g : Fin 8) (d : Fin 32) (b : Fin 64) (l : Fin 16) (lit : Word)
  | vst (g : Fin 8) (s : Fin 32) (b : Fin 64) (m : Fin 8) (o : Fin 64)
  | vstLiteral (g : Fin 8) (s : Fin 32) (b : Fin 64) (m : Fin 8) (lit : Word)
  | vlds (g : Fin 8) (d : Fin 32) (a b : Fin 64) (m : Fin 4)
  | vldx (g : Fin 8) (d : Fin 32) (a : Fin 64) (b : Fin 32) (m : Fin 4)
  | vsts (g : Fin 8) (d : Fin 32) (a b : Fin 64) (m : Fin 4)
  | vstx (g : Fin 8) (d : Fin 32) (a : Fin 64) (b : Fin 32) (m : Fin 4)
  -- atomics, fences and moves (04 R113-R121)
  | amoAdd (g : Fin 8) (d a b : Fin 64)
  | amoAnd (g : Fin 8) (d a b : Fin 64)
  | amoOr (g : Fin 8) (d a b : Fin 64)
  | amoXor (g : Fin 8) (d a b : Fin 64)
  | amoMin (g : Fin 8) (d a b : Fin 64)
  | amoMax (g : Fin 8) (d a b : Fin 64)
  | amoMinu (g : Fin 8) (d a b : Fin 64)
  | amoMaxu (g : Fin 8) (d a b : Fin 64)
  | amoSwap (g : Fin 8) (d a b : Fin 64)
  | amoCas (g : Fin 8) (d a b : Fin 64)
  | amoFadd (g : Fin 8) (d a b : Fin 64)
  | fenceAcq (g : Fin 8) (s : Fin 16)
  | fenceRel (g : Fin 8) (s : Fin 16)
  | fenceAr (g : Fin 8) (s : Fin 16)
  | afence (g : Fin 8) (a b : Fin 64)
  | pfx (g : Fin 8) (a : Fin 64)
  | touch (g : Fin 8) (a : Fin 64)
  | touchW (g : Fin 8) (a : Fin 64)
  | bar (g n : Fin 8)
  | get (g k : Fin 8) (a b : Fin 64)
  | give (g k : Fin 8) (a b : Fin 64)
  -- vector (05)
  | vaddInt (g : Fin 8) (w : Fin 4) (d a b : Fin 32) (m : Fin 8)
  | vsubInt (g : Fin 8) (w : Fin 4) (d a b : Fin 32) (m : Fin 8)
  | vmulInt (g : Fin 8) (w : Fin 4) (d a b : Fin 32) (m : Fin 8)
  | vminInt (g : Fin 8) (w : Fin 4) (d a b : Fin 32) (m : Fin 8)
  | vmaxInt (g : Fin 8) (w : Fin 4) (d a b : Fin 32) (m : Fin 8)
  | vand (g : Fin 8) (w : Fin 4) (d a b : Fin 32) (m : Fin 8)
  | vor (g : Fin 8) (w : Fin 4) (d a b : Fin 32) (m : Fin 8)
  | vxor (g : Fin 8) (w : Fin 4) (d a b : Fin 32) (m : Fin 8)
  | vshl (g : Fin 8) (w : Fin 4) (d a b : Fin 32) (m : Fin 8)
  | vshr (g : Fin 8) (w : Fin 4) (d a b : Fin 32) (m : Fin 8)
  | vshrA (g : Fin 8) (w : Fin 4) (d a b : Fin 32) (m : Fin 8)
  | vaddF32 (g : Fin 8) (d a b : Fin 32) (m : Fin 8)
  | vsubF32 (g : Fin 8) (d a b : Fin 32) (m : Fin 8)
  | vmulF32 (g : Fin 8) (d a b : Fin 32) (m : Fin 8)
  | vminF32 (g : Fin 8) (d a b : Fin 32) (m : Fin 8)
  | vmaxF32 (g : Fin 8) (d a b : Fin 32) (m : Fin 8)
  | vfmaF32 (g : Fin 8) (d a b : Fin 32) (m : Fin 8)
  | vaddF16 (g : Fin 8) (d a b : Fin 32) (m : Fin 8)
  | vsubF16 (g : Fin 8) (d a b : Fin 32) (m : Fin 8)
  | vmulF16 (g : Fin 8) (d a b : Fin 32) (m : Fin 8)
  | vminF16 (g : Fin 8) (d a b : Fin 32) (m : Fin 8)
  | vmaxF16 (g : Fin 8) (d a b : Fin 32) (m : Fin 8)
  | vfmaF16 (g : Fin 8) (d a b : Fin 32) (m : Fin 8)
  | vaddBf16 (g : Fin 8) (d a b : Fin 32) (m : Fin 8)
  | vsubBf16 (g : Fin 8) (d a b : Fin 32) (m : Fin 8)
  | vmulBf16 (g : Fin 8) (d a b : Fin 32) (m : Fin 8)
  | vminBf16 (g : Fin 8) (d a b : Fin 32) (m : Fin 8)
  | vmaxBf16 (g : Fin 8) (d a b : Fin 32) (m : Fin 8)
  | vfmaBf16 (g : Fin 8) (d a b : Fin 32) (m : Fin 8)
  | vcmp (g d : Fin 8) (a b : Fin 32) (m : Fin 8) (t : Fin 2) (c : Fin 8)
  | vsel (g : Fin 8) (d a b : Fin 32) (m : Fin 8)
  | vperm (g : Fin 8) (d a b : Fin 32) (m : Fin 8)
  | vmerge (g : Fin 8) (d a b : Fin 32) (o : Fin 8)
  | vcomp (g : Fin 8) (d a : Fin 32) (m : Fin 8)
  | vexpd (g : Fin 8) (d a : Fin 32) (m : Fin 8)
  | vbcast (g : Fin 8) (d : Fin 32) (c : Fin 64) (m : Fin 8)
  | vrnd (g : Fin 8) (d : Fin 32) (c : Fin 64) (m : Fin 8)
  | vrndf (g : Fin 8) (d : Fin 32) (c : Fin 64) (m : Fin 8)
  | nrns (g : Fin 8) (d a : Fin 32) (c : Fin 64) (m : Fin 8)
  | spkout (g : Fin 8) (a : Fin 32) (c : Fin 64) (m : Fin 8)
  | vbsum (g : Fin 8) (t a : Fin 32) (c : Fin 64) (m : Fin 8)
  | bsadd (g : Fin 8) (a : Fin 32) (c : Fin 64)
  | movVc (g : Fin 8) (d : Fin 32) (c : Fin 64) (q : Fin 8)
  | movCv (g : Fin 8) (a : Fin 32) (c : Fin 64) (q : Fin 8)
  | movMc (g d : Fin 8) (c : Fin 64)
  | movCm (g a : Fin 8) (c : Fin 64)
  | vred (g : Fin 8) (d a : Fin 32) (m : Fin 8) (l : Fin 16) (f : Fin 32)
  | vscan (g : Fin 8) (d a : Fin 32) (m : Fin 8) (l : Fin 16) (f : Fin 32)
  | vsqrt (g : Fin 8) (d a : Fin 32) (m : Fin 8) (l : Fin 16) (t : Fin 2)
  | vexp2 (g : Fin 8) (d a : Fin 32) (m : Fin 8) (l : Fin 16) (t : Fin 2)
  | vlog2 (g : Fin 8) (d a : Fin 32) (m : Fin 8) (l : Fin 16) (t : Fin 2)
  | vrcp (g : Fin 8) (d a : Fin 32) (m : Fin 8) (l : Fin 16) (t : Fin 2)
  | vdivF32 (g : Fin 8) (d a : Fin 32) (m : Fin 8) (l : Fin 16) (b : Fin 32)
  | vcvt (g : Fin 8) (d a : Fin 32) (m : Fin 8) (l : Fin 16) (f : Fin 32)
  | vdivF16 (g : Fin 8) (d a : Fin 32) (m : Fin 8) (l : Fin 16) (b : Fin 32)
  -- tiles (06 R150, R151)
  | trd (g t : Fin 8) (r : Fin 2) (i : Fin 64) (k v : Fin 32)
  | twr (g t : Fin 8) (r : Fin 2) (i : Fin 64) (k v : Fin 32)
  | tzero (g t : Fin 8)
  | ttrans (g t : Fin 8)
  | tclaim (g t : Fin 8)
  | tfree (g t : Fin 8)
  -- quires (06 R170-R175)
  | pld (g : Fin 8) (l : Fin 16) (a b : Fin 64)
  | pst (g k : Fin 8) (a b : Fin 64)
  | plupd (g k : Fin 8) (a b : Fin 64)
  | plaxpy (g k : Fin 8) (a b : Fin 64)
  | plhdr (g : Fin 8) (l : Fin 16) (a b : Fin 64)
  -- matrix (06 R152-R167)
  | mlease (g k : Fin 8) (a b : Fin 64)
  | mfree (g : Fin 8)
  | mgeo (g : Fin 8) (d a : Fin 64)
  | mgeor (g : Fin 8) (d a : Fin 64)
  | mstat (g : Fin 8) (d a : Fin 64)
  | mzero (g d : Fin 8)
  | mldb (g k : Fin 8) (a b : Fin 64)
  | mgath (g k : Fin 8) (a b : Fin 64)
  | mrd (g k : Fin 8) (l : Fin 16) (a b : Fin 64)
  | mma (g : Fin 8) (x : Fin 32) (a : Fin 8) (h : Fin 2) (w : Fin 8) (s : Fin 64)
  | mmaSet (g : Fin 8) (x : Fin 32) (a : Fin 8) (h : Fin 2) (w : Fin 8) (s : Fin 64)
  | mmaSub (g : Fin 8) (x : Fin 32) (a : Fin 8) (h : Fin 2) (w : Fin 8) (s : Fin 64)
  | mrun (g : Fin 8) (x : Fin 32) (a : Fin 8) (h : Fin 2) (w : Fin 8) (s : Fin 64)
  | mrunSet (g : Fin 8) (x : Fin 32) (a : Fin 8) (h : Fin 2) (w : Fin 8) (s : Fin 64)
  | mrunSub (g : Fin 8) (x : Fin 32) (a : Fin 8) (h : Fin 2) (w : Fin 8) (s : Fin 64)
  -- messages, windows and channels (07 R176-R188)
  | send (g : Fin 8) (a b : Fin 64)
  | sendi (g : Fin 8) (a b : Fin 64)
  | wmark (g : Fin 8) (a : Fin 64)
  | waitch (g : Fin 8) (a : Fin 64)
  | hmask (g : Fin 8) (d a b : Fin 64)
  | hset (g : Fin 8) (a b : Fin 64)
  | chcap (g : Fin 8) (a b : Fin 64)
  | wincfg (g : Fin 8) (a b : Fin 64)
  | winclose (g : Fin 8) (a : Fin 64)
  -- Deckle (07 R189-R192)
  | dkcfg (g : Fin 8) (a b : Fin 64)
  | dkflush (g : Fin 8) (a : Fin 64)
  | dkstat (g : Fin 8) (d a : Fin 64)
  -- copies and tokens (07 R193-R197)
  | xcopy (g k : Fin 8) (a b : Fin 64)
  | xresume (g : Fin 8) (b : Fin 64)
  | xgeo (g : Fin 8) (d a : Fin 64)
  | ttest (g : Fin 8) (d : Fin 64) (k : Fin 8) (b : Fin 64)
  | twait (g : Fin 8) (m : Fin 256)
  -- tasks and speculation (07 R198-R201)
  | spawn (g : Fin 8) (a b : Fin 64)
  | done (g : Fin 8)
  | doneJ (g : Fin 8) (a : Fin 64)
  | launch (g : Fin 8) (d a : Fin 64)
  | yield (g : Fin 8)
  | tspawn (g : Fin 8) (a b : Fin 64)
  | tdone (g : Fin 8)
  | tabort (g : Fin 8) (a b : Fin 64)
  | tfront (g : Fin 8) (d a : Fin 64)
  | twaitc (g : Fin 8) (a b : Fin 64)
  -- exact accumulators (07 R202)
  | xacq (g : Fin 8) (d a : Fin 64)
  | xadd (g : Fin 8) (a b : Fin 64)
  | xrd (g : Fin 8) (d a : Fin 64)
  | xrel (g : Fin 8) (a : Fin 64)
  -- walks and prefetch (14 R285, 13 R269)
  | pwalk (g k : Fin 8) (a b : Fin 64)
  | pfcfg (g : Fin 8) (a b : Fin 64)
  | pfstop (g : Fin 8) (a : Fin 64)
  -- system (07 R203-R207)
  | sysrd (g : Fin 8) (d : Fin 64) (n : Fin 1024)
  | syswr (g : Fin 8) (a : Fin 64) (n : Fin 1024)
  | uret (g : Fin 8) (a : Fin 64)
  | tret (g : Fin 8)
  | tlbi (g k : Fin 8) (a b : Fin 64)
  | snap (g : Fin 8) (a : Fin 64)
  | freeze (g : Fin 8) (a : Fin 64)
  | resumef (g : Fin 8) (a : Fin 64)
  deriving DecidableEq, Repr

end Sys2Proof
end

