-- ==== Sys2Proof/WellFormed.lean ====
section
/-! DEFINITION. Which instructions an encoding can carry: the field values that 01_words.md R24 and the entries refuse
at decode. An event is no word and is well formed as it stands. -/

namespace Sys2Proof

/-- The decode checks of R24 on the field values: the all-zero word; the immediates that escape to a literal (R22);
shift counts above 63 (R69); compare conditions (R73, R79, R131); burst ranges (R109); scopes (R115); the lane width 3
of the integer majors (R127); `vmerge` destinations (R134); reserved `vred`, `vscan` and `vbsum` types (R135, R144); a
masked conversion into a D format (R139); a count register 0 of `rep` (R33). -/
def Instr.wellFormed : Instr → Bool
  -- scalar integer (03 R69-R76)
  | .add g d a b => !(g.val == 0 && d.val == 0 && a.val == 0 && b.val == 0)
  | .sub .. => true
  | .and .. => true
  | .or .. => true
  | .xor .. => true
  | .andn .. => true
  | .sll .. => true
  | .srl .. => true
  | .sra .. => true
  | .rot .. => true
  | .min .. => true
  | .max .. => true
  | .mul .. => true
  | .mulh .. => true
  | .mulhU .. => true
  | .div .. => true
  | .divU .. => true
  | .rem .. => true
  | .remU .. => true
  | .clz .. => true
  | .popc .. => true
  | .mov .. => true
  | .sextB .. => true
  | .sextH .. => true
  | .sextW .. => true
  | .zextB .. => true
  | .zextH .. => true
  | .zextW .. => true
  | .addImm _ _ _ i => i != 0x200#10
  | .addImmLiteral .. => true
  | .andImm _ _ _ i => i != 0x200#10
  | .andImmLiteral .. => true
  | .orImm _ _ _ i => i != 0x200#10
  | .orImmLiteral .. => true
  | .xorImm _ _ _ i => i != 0x200#10
  | .xorImmLiteral .. => true
  | .sllImm _ _ _ i => decide (i.toNat < 64)
  | .srlImm _ _ _ i => decide (i.toNat < 64)
  | .sraImm _ _ _ i => decide (i.toNat < 64)
  | .rotImm _ _ _ i => decide (i.toNat < 64)
  | .li _ _ i => i != 0x200#10
  | .liLiteral .. => true
  | .cmpi _ c _ _ i => decide (c.val < 6) && i != 0x200#10
  | .cmpiLiteral _ c _ _ _ => decide (c.val < 6)
  | .cmp _ c _ _ _ => decide (c.val < 6)
  | .cmpAnd _ c _ _ _ => decide (c.val < 6)
  | .cmpOr _ c _ _ _ => decide (c.val < 6)
  | .gnot .. => true
  | .gand .. => true
  | .gor .. => true
  | .sel .. => true
  -- scalar floating point (03 R77-R80)
  | .fadd .. => true
  | .fsub .. => true
  | .fmul .. => true
  | .fdiv .. => true
  | .fmin .. => true
  | .fmax .. => true
  | .fsqrt .. => true
  | .ffma .. => true
  | .ffmaN .. => true
  | .fcmp _ c _ _ _ => decide (c.val < 6)
  | .fcvtF32I64 .. => true
  | .fcvtF32U64 .. => true
  | .fcvtI64F32 .. => true
  | .fcvtU64F32 .. => true
  | .fcvtBf16F32 .. => true
  | .fcvtF16F32 .. => true
  | .fcvtF32Bf16 .. => true
  | .fcvtF32F16 .. => true
  -- capabilities (03 R82-R89)
  | .cbnd .. => true
  | .cinc .. => true
  | .caddr .. => true
  | .cperm .. => true
  | .ctagc .. => true
  | .cgetBase .. => true
  | .cgetTop .. => true
  | .cgetLen .. => true
  | .cgetPerm .. => true
  | .cgetTag .. => true
  | .cincImm _ _ _ i => i != 0x200#10
  | .cincImmLiteral .. => true
  | .cbndImm _ _ _ i => i != 0x200#10
  | .cbndImmLiteral .. => true
  -- control (03 R90-R98)
  | .j .. => true
  | .call .. => true
  | .jr .. => true
  | .ret .. => true
  | .bgF .. => true
  | .bgT .. => true
  | .rep _ _ i => i != 0x200#10
  | .repLiteral .. => true
  | .repReg _ _ a => a.val != 0
  | .nop .. => true
  | .trap .. => true
  | .suspend .. => true
  | .hend .. => true
  -- scalar memory accesses (04 R107-R110)
  | .ldB _ _ _ _ o => o.val != 0x20
  | .ldBLiteral .. => true
  | .ldH _ _ _ _ o => o.val != 0x20
  | .ldHLiteral .. => true
  | .ldW _ _ _ _ o => o.val != 0x20
  | .ldWLiteral .. => true
  | .ldD _ _ _ _ o => o.val != 0x20
  | .ldDLiteral .. => true
  | .ldQ _ _ _ _ o => o.val != 0x20
  | .ldQLiteral .. => true
  | .stB _ _ _ o => o.val != 0x20
  | .stBLiteral .. => true
  | .stH _ _ _ o => o.val != 0x20
  | .stHLiteral .. => true
  | .stW _ _ _ o => o.val != 0x20
  | .stWLiteral .. => true
  | .stD _ _ _ o => o.val != 0x20
  | .stDLiteral .. => true
  | .stQ _ _ _ o => o.val != 0x20
  | .stQLiteral .. => true
  | .ldc _ _ _ _ o => o.val != 0x20
  | .ldcLiteral .. => true
  | .stc _ _ _ o => o.val != 0x20
  | .stcLiteral .. => true
  | .ldq _ _ _ o => o.val != 0x20
  | .ldqLiteral .. => true
  | .stq _ _ _ o => o.val != 0x20
  | .stqLiteral .. => true
  | .ldm _ d _ n => decide (d.val + n.val < 60) && !(d.val == 0 && n.val == 0)
  | .stm _ d _ n => decide (d.val + n.val < 60) && !(d.val == 0 && n.val == 0)
  -- vector accesses (04 R111, R112)
  | .vld _ _ _ _ o => o.val != 0x20
  | .vldLiteral .. => true
  | .vst _ _ _ _ o => o.val != 0x20
  | .vstLiteral .. => true
  | .vlds .. => true
  | .vldx .. => true
  | .vsts .. => true
  | .vstx .. => true
  -- atomics, fences and moves (04 R113-R121)
  | .amoAdd .. => true
  | .amoAnd .. => true
  | .amoOr .. => true
  | .amoXor .. => true
  | .amoMin .. => true
  | .amoMax .. => true
  | .amoMinu .. => true
  | .amoMaxu .. => true
  | .amoSwap .. => true
  | .amoCas .. => true
  | .amoFadd .. => true
  | .fenceAcq _ s => decide (s.val < 9)
  | .fenceRel _ s => decide (s.val < 9)
  | .fenceAr _ s => decide (s.val < 9)
  | .afence .. => true
  | .pfx .. => true
  | .touch .. => true
  | .touchW .. => true
  | .bar .. => true
  | .get .. => true
  | .give .. => true
  -- vector (05)
  | .vaddInt _ w _ _ _ _ => w.val != 3
  | .vsubInt _ w _ _ _ _ => w.val != 3
  | .vmulInt _ w _ _ _ _ => w.val != 3
  | .vminInt _ w _ _ _ _ => w.val != 3
  | .vmaxInt _ w _ _ _ _ => w.val != 3
  | .vand _ w _ _ _ _ => w.val != 3
  | .vor _ w _ _ _ _ => w.val != 3
  | .vxor _ w _ _ _ _ => w.val != 3
  | .vshl _ w _ _ _ _ => w.val != 3
  | .vshr _ w _ _ _ _ => w.val != 3
  | .vshrA _ w _ _ _ _ => w.val != 3
  | .vaddF32 .. => true
  | .vsubF32 .. => true
  | .vmulF32 .. => true
  | .vminF32 .. => true
  | .vmaxF32 .. => true
  | .vfmaF32 .. => true
  | .vaddF16 .. => true
  | .vsubF16 .. => true
  | .vmulF16 .. => true
  | .vminF16 .. => true
  | .vmaxF16 .. => true
  | .vfmaF16 .. => true
  | .vaddBf16 .. => true
  | .vsubBf16 .. => true
  | .vmulBf16 .. => true
  | .vminBf16 .. => true
  | .vmaxBf16 .. => true
  | .vfmaBf16 .. => true
  | .vcmp _ _ _ _ _ t c => if t.val = 0 then decide (c.val < 6) else c.val != 4 && c.val != 5 && c.val != 7
  | .vsel .. => true
  | .vperm .. => true
  | .vmerge _ d _ _ _ => d.val % 2 == 0 && decide (d.val ≤ 28)
  | .vcomp .. => true
  | .vexpd .. => true
  | .vbcast .. => true
  | .vrnd .. => true
  | .vrndf .. => true
  | .nrns .. => true
  | .spkout .. => true
  | .vbsum _ t _ _ _ => decide (t.val < 3)
  | .bsadd .. => true
  | .movVc .. => true
  | .movCv .. => true
  | .movMc .. => true
  | .movCm .. => true
  | .vred _ _ _ _ _ f => decide (f.val < 20)
  | .vscan _ _ _ _ _ f => decide (f.val < 20)
  | .vsqrt .. => true
  | .vexp2 .. => true
  | .vlog2 .. => true
  | .vrcp .. => true
  | .vdivF32 .. => true
  | .vcvt _ _ _ m _ f => !(decide (16 ≤ f.val) && decide (f.val < 20)) || m.val == 0
  | .vdivF16 .. => true
  -- tiles (06 R150, R151)
  | .trd .. => true
  | .twr .. => true
  | .tzero .. => true
  | .ttrans .. => true
  | .tclaim .. => true
  | .tfree .. => true
  -- quires (06 R170-R175)
  | .pld .. => true
  | .pst .. => true
  | .plupd .. => true
  | .plaxpy .. => true
  | .plhdr .. => true
  -- matrix (06 R152-R167)
  | .mlease .. => true
  | .mfree .. => true
  | .mgeo .. => true
  | .mgeor .. => true
  | .mstat .. => true
  | .mzero .. => true
  | .mldb .. => true
  | .mgath .. => true
  | .mrd .. => true
  | .mma .. => true
  | .mmaSet .. => true
  | .mmaSub .. => true
  | .mrun .. => true
  | .mrunSet .. => true
  | .mrunSub .. => true
  -- messages, windows and channels (07 R176-R188)
  | .send .. => true
  | .sendi .. => true
  | .wmark .. => true
  | .waitch .. => true
  | .hmask .. => true
  | .hset .. => true
  | .chcap .. => true
  | .wincfg .. => true
  | .winclose .. => true
  -- Deckle (07 R189-R192)
  | .dkcfg .. => true
  | .dkflush .. => true
  | .dkstat .. => true
  -- copies and tokens (07 R193-R197)
  | .xcopy .. => true
  | .xresume .. => true
  | .xgeo .. => true
  | .ttest .. => true
  | .twait .. => true
  -- tasks and speculation (07 R198-R201)
  | .spawn .. => true
  | .done .. => true
  | .doneJ .. => true
  | .launch .. => true
  | .yield .. => true
  | .tspawn .. => true
  | .tdone .. => true
  | .tabort .. => true
  | .tfront .. => true
  | .twaitc .. => true
  -- exact accumulators (07 R202)
  | .xacq .. => true
  | .xadd .. => true
  | .xrd .. => true
  | .xrel .. => true
  -- walks and prefetch (14 R285, 13 R269)
  | .pwalk .. => true
  | .pfcfg .. => true
  | .pfstop .. => true
  -- system (07 R203-R207)
  | .sysrd .. => true
  | .syswr .. => true
  | .uret .. => true
  | .tret .. => true
  | .tlbi .. => true
  | .snap .. => true
  | .freeze .. => true
  | .resumef .. => true
  -- events of the units (95_what_each_step_holds.md)
  | .memoryUpcall .. => true
  | .loadResponse .. => true
  | .storeAtHome .. => true
  | .postedErrorResponse .. => true
  | .amoAtHome .. => true
  | .xaddAtHome .. => true
  | .joinDecrement .. => true
  | .taskCommit .. => true
  | .taskIrrevocable .. => true
  | .versionRecordFreed .. => true
  | .messageArrival .. => true
  | .refusalCallback .. => true
  | .messageResend .. => true
  | .sendAccepted .. => true
  | .handlerChoice .. => true
  | .continuationTake .. => true
  | .stealRound .. => true
  | .stealRetryTimeout .. => true
  | .queuePushWait .. => true
  | .watermarkPublish .. => true
  | .watermarkAtNi .. => true
  | .watermarkAtWindowUnit .. => true
  | .windowTargetPass .. => true
  | .windowTimeout .. => true
  | .detApplyAtHome .. => true
  | .detReleaseAtQueue .. => true
  | .closePacketsSend .. => true
  | .closePacketDelivery .. => true
  | .sheetTimeout .. => true
  | .sheetDone .. => true
  | .leaseGrant .. => true
  | .arrayTurn .. => true
  | .arrayTurnEnd .. => true
  | .arrayCommandComplete .. => true
  | .arrayFillComplete .. => true
  | .arraySpill .. => true
  | .arrayRestore .. => true
  | .readoutDrain .. => true
  | .streamerPiece .. => true
  | .granuleWrite .. => true
  | .engineAck .. => true
  | .engineHandBack .. => true
  | .quireUpdateAtHome .. => true
  | .walkArrival .. => true
  | .walkRule .. => true
  | .walkEnd .. => true
  | .prefetchTrigger .. => true
  | .prefetchKernel .. => true
  | .translationWalk .. => true
  | .tlbiAck .. => true
  | .bridgeResend .. => true
  | .preemptionSave .. => true
  | .strandRestore .. => true
  | .launchValidation .. => true
  | .launchHeadTake .. => true
  | .launchPortWrite .. => true
  | .teamSliceExpiry .. => true
  | .partitionPeriodStart .. => true
  | .partitionBudgetStart .. => true
  | .partitionBudgetEnd .. => true
  | .coreHardwareError .. => true
  | .dieFatalFault .. => true
  | .gerrPop .. => true
  | .reset .. => true
  | .functionReady .. => true
  | .functionOutOfService .. => true
  | .throttleTick .. => true
  | .overtemperature .. => true
  | .gptpSync .. => true
  | .csi2Packet .. => true
  | .portWatermarkPeriod .. => true
  | .gpioEdge .. => true
  | .gpioTimerPeriod .. => true
  | .gpioWatermarkPeriod .. => true
  | .canFrameEvent .. => true
  | .canWatermarkPeriod .. => true
  | .pagingFill .. => true
  | .pagingSpill .. => true
  | .pagingGrow .. => true
  | .pggrowPop .. => true
  | .protRegionEnable .. => true
  | .protRegionDisable .. => true
  | .wstReadClear .. => true
  | .quiesceRequest .. => true
  | .quiesceComplete .. => true
  | .debugHalt .. => true
  | .debugRelease .. => true
  | .snapshotPin => true
  | .capabilityStore .. => true
  | .attestationRequest .. => true
  | .appCoreAccess .. => true
  | .pcieInboundWrite .. => true
  | .registerWrite .. => true
  | .illegalInstruction .. => true
  | .instructionFetchFailure .. => true
  | .lockLost => true

/-- An instruction word of the table, not an event of a unit. -/
def Instr.isWord : Instr → Bool
  | .add .. => true
  | .sub .. => true
  | .and .. => true
  | .or .. => true
  | .xor .. => true
  | .andn .. => true
  | .sll .. => true
  | .srl .. => true
  | .sra .. => true
  | .rot .. => true
  | .min .. => true
  | .max .. => true
  | .mul .. => true
  | .mulh .. => true
  | .mulhU .. => true
  | .div .. => true
  | .divU .. => true
  | .rem .. => true
  | .remU .. => true
  | .clz .. => true
  | .popc .. => true
  | .mov .. => true
  | .sextB .. => true
  | .sextH .. => true
  | .sextW .. => true
  | .zextB .. => true
  | .zextH .. => true
  | .zextW .. => true
  | .addImm .. => true
  | .addImmLiteral .. => true
  | .andImm .. => true
  | .andImmLiteral .. => true
  | .orImm .. => true
  | .orImmLiteral .. => true
  | .xorImm .. => true
  | .xorImmLiteral .. => true
  | .sllImm .. => true
  | .srlImm .. => true
  | .sraImm .. => true
  | .rotImm .. => true
  | .li .. => true
  | .liLiteral .. => true
  | .cmpi .. => true
  | .cmpiLiteral .. => true
  | .cmp .. => true
  | .cmpAnd .. => true
  | .cmpOr .. => true
  | .gnot .. => true
  | .gand .. => true
  | .gor .. => true
  | .sel .. => true
  | .fadd .. => true
  | .fsub .. => true
  | .fmul .. => true
  | .fdiv .. => true
  | .fmin .. => true
  | .fmax .. => true
  | .fsqrt .. => true
  | .ffma .. => true
  | .ffmaN .. => true
  | .fcmp .. => true
  | .fcvtF32I64 .. => true
  | .fcvtF32U64 .. => true
  | .fcvtI64F32 .. => true
  | .fcvtU64F32 .. => true
  | .fcvtBf16F32 .. => true
  | .fcvtF16F32 .. => true
  | .fcvtF32Bf16 .. => true
  | .fcvtF32F16 .. => true
  | .cbnd .. => true
  | .cinc .. => true
  | .caddr .. => true
  | .cperm .. => true
  | .ctagc .. => true
  | .cgetBase .. => true
  | .cgetTop .. => true
  | .cgetLen .. => true
  | .cgetPerm .. => true
  | .cgetTag .. => true
  | .cincImm .. => true
  | .cincImmLiteral .. => true
  | .cbndImm .. => true
  | .cbndImmLiteral .. => true
  | .j .. => true
  | .call .. => true
  | .jr .. => true
  | .ret .. => true
  | .bgF .. => true
  | .bgT .. => true
  | .rep .. => true
  | .repLiteral .. => true
  | .repReg .. => true
  | .nop .. => true
  | .trap .. => true
  | .suspend .. => true
  | .hend .. => true
  | .ldB .. => true
  | .ldBLiteral .. => true
  | .ldH .. => true
  | .ldHLiteral .. => true
  | .ldW .. => true
  | .ldWLiteral .. => true
  | .ldD .. => true
  | .ldDLiteral .. => true
  | .ldQ .. => true
  | .ldQLiteral .. => true
  | .stB .. => true
  | .stBLiteral .. => true
  | .stH .. => true
  | .stHLiteral .. => true
  | .stW .. => true
  | .stWLiteral .. => true
  | .stD .. => true
  | .stDLiteral .. => true
  | .stQ .. => true
  | .stQLiteral .. => true
  | .ldc .. => true
  | .ldcLiteral .. => true
  | .stc .. => true
  | .stcLiteral .. => true
  | .ldq .. => true
  | .ldqLiteral .. => true
  | .stq .. => true
  | .stqLiteral .. => true
  | .ldm .. => true
  | .stm .. => true
  | .vld .. => true
  | .vldLiteral .. => true
  | .vst .. => true
  | .vstLiteral .. => true
  | .vlds .. => true
  | .vldx .. => true
  | .vsts .. => true
  | .vstx .. => true
  | .amoAdd .. => true
  | .amoAnd .. => true
  | .amoOr .. => true
  | .amoXor .. => true
  | .amoMin .. => true
  | .amoMax .. => true
  | .amoMinu .. => true
  | .amoMaxu .. => true
  | .amoSwap .. => true
  | .amoCas .. => true
  | .amoFadd .. => true
  | .fenceAcq .. => true
  | .fenceRel .. => true
  | .fenceAr .. => true
  | .afence .. => true
  | .pfx .. => true
  | .touch .. => true
  | .touchW .. => true
  | .bar .. => true
  | .get .. => true
  | .give .. => true
  | .vaddInt .. => true
  | .vsubInt .. => true
  | .vmulInt .. => true
  | .vminInt .. => true
  | .vmaxInt .. => true
  | .vand .. => true
  | .vor .. => true
  | .vxor .. => true
  | .vshl .. => true
  | .vshr .. => true
  | .vshrA .. => true
  | .vaddF32 .. => true
  | .vsubF32 .. => true
  | .vmulF32 .. => true
  | .vminF32 .. => true
  | .vmaxF32 .. => true
  | .vfmaF32 .. => true
  | .vaddF16 .. => true
  | .vsubF16 .. => true
  | .vmulF16 .. => true
  | .vminF16 .. => true
  | .vmaxF16 .. => true
  | .vfmaF16 .. => true
  | .vaddBf16 .. => true
  | .vsubBf16 .. => true
  | .vmulBf16 .. => true
  | .vminBf16 .. => true
  | .vmaxBf16 .. => true
  | .vfmaBf16 .. => true
  | .vcmp .. => true
  | .vsel .. => true
  | .vperm .. => true
  | .vmerge .. => true
  | .vcomp .. => true
  | .vexpd .. => true
  | .vbcast .. => true
  | .vrnd .. => true
  | .vrndf .. => true
  | .nrns .. => true
  | .spkout .. => true
  | .vbsum .. => true
  | .bsadd .. => true
  | .movVc .. => true
  | .movCv .. => true
  | .movMc .. => true
  | .movCm .. => true
  | .vred .. => true
  | .vscan .. => true
  | .vsqrt .. => true
  | .vexp2 .. => true
  | .vlog2 .. => true
  | .vrcp .. => true
  | .vdivF32 .. => true
  | .vcvt .. => true
  | .vdivF16 .. => true
  | .trd .. => true
  | .twr .. => true
  | .tzero .. => true
  | .ttrans .. => true
  | .tclaim .. => true
  | .tfree .. => true
  | .pld .. => true
  | .pst .. => true
  | .plupd .. => true
  | .plaxpy .. => true
  | .plhdr .. => true
  | .mlease .. => true
  | .mfree .. => true
  | .mgeo .. => true
  | .mgeor .. => true
  | .mstat .. => true
  | .mzero .. => true
  | .mldb .. => true
  | .mgath .. => true
  | .mrd .. => true
  | .mma .. => true
  | .mmaSet .. => true
  | .mmaSub .. => true
  | .mrun .. => true
  | .mrunSet .. => true
  | .mrunSub .. => true
  | .send .. => true
  | .sendi .. => true
  | .wmark .. => true
  | .waitch .. => true
  | .hmask .. => true
  | .hset .. => true
  | .chcap .. => true
  | .wincfg .. => true
  | .winclose .. => true
  | .dkcfg .. => true
  | .dkflush .. => true
  | .dkstat .. => true
  | .xcopy .. => true
  | .xresume .. => true
  | .xgeo .. => true
  | .ttest .. => true
  | .twait .. => true
  | .spawn .. => true
  | .done .. => true
  | .doneJ .. => true
  | .launch .. => true
  | .yield .. => true
  | .tspawn .. => true
  | .tdone .. => true
  | .tabort .. => true
  | .tfront .. => true
  | .twaitc .. => true
  | .xacq .. => true
  | .xadd .. => true
  | .xrd .. => true
  | .xrel .. => true
  | .pwalk .. => true
  | .pfcfg .. => true
  | .pfstop .. => true
  | .sysrd .. => true
  | .syswr .. => true
  | .uret .. => true
  | .tret .. => true
  | .tlbi .. => true
  | .snap .. => true
  | .freeze .. => true
  | .resumef .. => true
  | .memoryUpcall .. => false
  | .loadResponse .. => false
  | .storeAtHome .. => false
  | .postedErrorResponse .. => false
  | .amoAtHome .. => false
  | .xaddAtHome .. => false
  | .joinDecrement .. => false
  | .taskCommit .. => false
  | .taskIrrevocable .. => false
  | .versionRecordFreed .. => false
  | .messageArrival .. => false
  | .refusalCallback .. => false
  | .messageResend .. => false
  | .sendAccepted .. => false
  | .handlerChoice .. => false
  | .continuationTake .. => false
  | .stealRound .. => false
  | .stealRetryTimeout .. => false
  | .queuePushWait .. => false
  | .watermarkPublish .. => false
  | .watermarkAtNi .. => false
  | .watermarkAtWindowUnit .. => false
  | .windowTargetPass .. => false
  | .windowTimeout .. => false
  | .detApplyAtHome .. => false
  | .detReleaseAtQueue .. => false
  | .closePacketsSend .. => false
  | .closePacketDelivery .. => false
  | .sheetTimeout .. => false
  | .sheetDone .. => false
  | .leaseGrant .. => false
  | .arrayTurn .. => false
  | .arrayTurnEnd .. => false
  | .arrayCommandComplete .. => false
  | .arrayFillComplete .. => false
  | .arraySpill .. => false
  | .arrayRestore .. => false
  | .readoutDrain .. => false
  | .streamerPiece .. => false
  | .granuleWrite .. => false
  | .engineAck .. => false
  | .engineHandBack .. => false
  | .quireUpdateAtHome .. => false
  | .walkArrival .. => false
  | .walkRule .. => false
  | .walkEnd .. => false
  | .prefetchTrigger .. => false
  | .prefetchKernel .. => false
  | .translationWalk .. => false
  | .tlbiAck .. => false
  | .bridgeResend .. => false
  | .preemptionSave .. => false
  | .strandRestore .. => false
  | .launchValidation .. => false
  | .launchHeadTake .. => false
  | .launchPortWrite .. => false
  | .teamSliceExpiry .. => false
  | .partitionPeriodStart .. => false
  | .partitionBudgetStart .. => false
  | .partitionBudgetEnd .. => false
  | .coreHardwareError .. => false
  | .dieFatalFault .. => false
  | .gerrPop .. => false
  | .reset .. => false
  | .functionReady .. => false
  | .functionOutOfService .. => false
  | .throttleTick .. => false
  | .overtemperature .. => false
  | .gptpSync .. => false
  | .csi2Packet .. => false
  | .portWatermarkPeriod .. => false
  | .gpioEdge .. => false
  | .gpioTimerPeriod .. => false
  | .gpioWatermarkPeriod .. => false
  | .canFrameEvent .. => false
  | .canWatermarkPeriod .. => false
  | .pagingFill .. => false
  | .pagingSpill .. => false
  | .pagingGrow .. => false
  | .pggrowPop .. => false
  | .protRegionEnable .. => false
  | .protRegionDisable .. => false
  | .wstReadClear .. => false
  | .quiesceRequest .. => false
  | .quiesceComplete .. => false
  | .debugHalt .. => false
  | .debugRelease .. => false
  | .snapshotPin => false
  | .capabilityStore .. => false
  | .attestationRequest .. => false
  | .appCoreAccess .. => false
  | .pcieInboundWrite .. => false
  | .registerWrite .. => false
  | .illegalInstruction .. => false
  | .instructionFetchFailure .. => false
  | .lockLost => false

end Sys2Proof
end

