-- ==== Sys2Proof/Decode.lean ====
section
/-! DEFINITION. The decoder and the encoder of instruction words, field by field as 01_words.md R18-R34 and the opcode
table lay them out. The decoder is total; a word it refuses is refused by name. -/

namespace Sys2Proof

/-- Why bytes are no instruction (R24), or are too few to hold one. -/
inductive DecodeError where
  | tooShort | zeroWord | unassignedMajor | reserved
  deriving DecidableEq, Repr

/-- The major opcode, bits 28:22 (R18). -/
def majorOf (w : Nat) : Nat := fld w 22 7

/-- The unassigned majors (R33). -/
def unassigned (m : Nat) : Bool :=
  m == 0x17 || (0x43 ≤ m && m ≤ 0x47) || (0x4B ≤ m && m ≤ 0x4F) || m == 0x5B || m == 0x5F

/-- Whether the word is followed by a literal (R22): imm10 = 0x200 in the I-format majors that allow it, off6 =
0b10_0000 in every M-format major. -/
def hasLiteral (w : Nat) : Bool :=
  match majorOf w with
  | 0x03 => fld w 0 10 == 0x200
  | 0x04 => fld w 0 10 == 0x200
  | 0x05 => fld w 0 10 == 0x200
  | 0x06 => fld w 0 10 == 0x200
  | 0x0B => fld w 0 10 == 0x200
  | 0x0C => fld w 0 10 == 0x200
  | 0x15 => fld w 0 10 == 0x200
  | 0x16 => fld w 0 10 == 0x200
  | 0x1C => fld w 10 6 == 0 && fld w 0 10 == 0x200
  | 0x20 => fld w 0 6 == 0x20
  | 0x21 => fld w 0 6 == 0x20
  | 0x22 => fld w 0 6 == 0x20
  | 0x23 => fld w 0 6 == 0x20
  | 0x24 => fld w 0 6 == 0x20
  | 0x25 => fld w 0 6 == 0x20
  | 0x26 => fld w 0 6 == 0x20
  | 0x27 => fld w 0 6 == 0x20
  | 0x28 => fld w 0 6 == 0x20
  | 0x29 => fld w 0 6 == 0x20
  | 0x2B => fld w 0 6 == 0x20
  | 0x2C => fld w 0 6 == 0x20
  | _ => false

/-- Major 0x00. -/
def dec00 (w : Nat) : Option Instr :=
  if fld w 0 4 = 0 then
    some (.add (Fin.ofNat 8 (w / 2 ^ 29)) (Fin.ofNat 64 (w / 2 ^ 16)) (Fin.ofNat 64 (w / 2 ^ 10)) (Fin.ofNat 64 (w / 2 ^ 4)))
  else if fld w 0 4 = 1 then
    some (.sub (Fin.ofNat 8 (w / 2 ^ 29)) (Fin.ofNat 64 (w / 2 ^ 16)) (Fin.ofNat 64 (w / 2 ^ 10)) (Fin.ofNat 64 (w / 2 ^ 4)))
  else if fld w 0 4 = 2 then
    some (.and (Fin.ofNat 8 (w / 2 ^ 29)) (Fin.ofNat 64 (w / 2 ^ 16)) (Fin.ofNat 64 (w / 2 ^ 10)) (Fin.ofNat 64 (w / 2 ^ 4)))
  else if fld w 0 4 = 3 then
    some (.or (Fin.ofNat 8 (w / 2 ^ 29)) (Fin.ofNat 64 (w / 2 ^ 16)) (Fin.ofNat 64 (w / 2 ^ 10)) (Fin.ofNat 64 (w / 2 ^ 4)))
  else if fld w 0 4 = 4 then
    some (.xor (Fin.ofNat 8 (w / 2 ^ 29)) (Fin.ofNat 64 (w / 2 ^ 16)) (Fin.ofNat 64 (w / 2 ^ 10)) (Fin.ofNat 64 (w / 2 ^ 4)))
  else if fld w 0 4 = 5 then
    some (.andn (Fin.ofNat 8 (w / 2 ^ 29)) (Fin.ofNat 64 (w / 2 ^ 16)) (Fin.ofNat 64 (w / 2 ^ 10)) (Fin.ofNat 64 (w / 2 ^ 4)))
  else if fld w 0 4 = 6 then
    some (.sll (Fin.ofNat 8 (w / 2 ^ 29)) (Fin.ofNat 64 (w / 2 ^ 16)) (Fin.ofNat 64 (w / 2 ^ 10)) (Fin.ofNat 64 (w / 2 ^ 4)))
  else if fld w 0 4 = 7 then
    some (.srl (Fin.ofNat 8 (w / 2 ^ 29)) (Fin.ofNat 64 (w / 2 ^ 16)) (Fin.ofNat 64 (w / 2 ^ 10)) (Fin.ofNat 64 (w / 2 ^ 4)))
  else if fld w 0 4 = 8 then
    some (.sra (Fin.ofNat 8 (w / 2 ^ 29)) (Fin.ofNat 64 (w / 2 ^ 16)) (Fin.ofNat 64 (w / 2 ^ 10)) (Fin.ofNat 64 (w / 2 ^ 4)))
  else if fld w 0 4 = 9 then
    some (.rot (Fin.ofNat 8 (w / 2 ^ 29)) (Fin.ofNat 64 (w / 2 ^ 16)) (Fin.ofNat 64 (w / 2 ^ 10)) (Fin.ofNat 64 (w / 2 ^ 4)))
  else if fld w 0 4 = 10 then
    some (.min (Fin.ofNat 8 (w / 2 ^ 29)) (Fin.ofNat 64 (w / 2 ^ 16)) (Fin.ofNat 64 (w / 2 ^ 10)) (Fin.ofNat 64 (w / 2 ^ 4)))
  else if fld w 0 4 = 11 then
    some (.max (Fin.ofNat 8 (w / 2 ^ 29)) (Fin.ofNat 64 (w / 2 ^ 16)) (Fin.ofNat 64 (w / 2 ^ 10)) (Fin.ofNat 64 (w / 2 ^ 4)))
  else none

/-- Major 0x01. -/
def dec01 (w : Nat) : Option Instr :=
  if fld w 0 4 = 0 then
    some (.mul (Fin.ofNat 8 (w / 2 ^ 29)) (Fin.ofNat 64 (w / 2 ^ 16)) (Fin.ofNat 64 (w / 2 ^ 10)) (Fin.ofNat 64 (w / 2 ^ 4)))
  else if fld w 0 4 = 1 then
    some (.mulh (Fin.ofNat 8 (w / 2 ^ 29)) (Fin.ofNat 64 (w / 2 ^ 16)) (Fin.ofNat 64 (w / 2 ^ 10)) (Fin.ofNat 64 (w / 2 ^ 4)))
  else if fld w 0 4 = 2 then
    some (.mulhU (Fin.ofNat 8 (w / 2 ^ 29)) (Fin.ofNat 64 (w / 2 ^ 16)) (Fin.ofNat 64 (w / 2 ^ 10)) (Fin.ofNat 64 (w / 2 ^ 4)))
  else if fld w 0 4 = 3 then
    some (.div (Fin.ofNat 8 (w / 2 ^ 29)) (Fin.ofNat 64 (w / 2 ^ 16)) (Fin.ofNat 64 (w / 2 ^ 10)) (Fin.ofNat 64 (w / 2 ^ 4)))
  else if fld w 0 4 = 4 then
    some (.divU (Fin.ofNat 8 (w / 2 ^ 29)) (Fin.ofNat 64 (w / 2 ^ 16)) (Fin.ofNat 64 (w / 2 ^ 10)) (Fin.ofNat 64 (w / 2 ^ 4)))
  else if fld w 0 4 = 5 then
    some (.rem (Fin.ofNat 8 (w / 2 ^ 29)) (Fin.ofNat 64 (w / 2 ^ 16)) (Fin.ofNat 64 (w / 2 ^ 10)) (Fin.ofNat 64 (w / 2 ^ 4)))
  else if fld w 0 4 = 6 then
    some (.remU (Fin.ofNat 8 (w / 2 ^ 29)) (Fin.ofNat 64 (w / 2 ^ 16)) (Fin.ofNat 64 (w / 2 ^ 10)) (Fin.ofNat 64 (w / 2 ^ 4)))
  else none

/-- Major 0x02. -/
def dec02 (w : Nat) : Option Instr :=
  if fld w 0 10 = 0 then
    some (.clz (Fin.ofNat 8 (w / 2 ^ 29)) (Fin.ofNat 64 (w / 2 ^ 16)) (Fin.ofNat 64 (w / 2 ^ 10)))
  else if fld w 0 10 = 1 then
    some (.popc (Fin.ofNat 8 (w / 2 ^ 29)) (Fin.ofNat 64 (w / 2 ^ 16)) (Fin.ofNat 64 (w / 2 ^ 10)))
  else if fld w 0 10 = 2 then
    some (.mov (Fin.ofNat 8 (w / 2 ^ 29)) (Fin.ofNat 64 (w / 2 ^ 16)) (Fin.ofNat 64 (w / 2 ^ 10)))
  else if fld w 0 10 = 3 then
    some (.sextB (Fin.ofNat 8 (w / 2 ^ 29)) (Fin.ofNat 64 (w / 2 ^ 16)) (Fin.ofNat 64 (w / 2 ^ 10)))
  else if fld w 0 10 = 4 then
    some (.sextH (Fin.ofNat 8 (w / 2 ^ 29)) (Fin.ofNat 64 (w / 2 ^ 16)) (Fin.ofNat 64 (w / 2 ^ 10)))
  else if fld w 0 10 = 5 then
    some (.sextW (Fin.ofNat 8 (w / 2 ^ 29)) (Fin.ofNat 64 (w / 2 ^ 16)) (Fin.ofNat 64 (w / 2 ^ 10)))
  else if fld w 0 10 = 6 then
    some (.zextB (Fin.ofNat 8 (w / 2 ^ 29)) (Fin.ofNat 64 (w / 2 ^ 16)) (Fin.ofNat 64 (w / 2 ^ 10)))
  else if fld w 0 10 = 7 then
    some (.zextH (Fin.ofNat 8 (w / 2 ^ 29)) (Fin.ofNat 64 (w / 2 ^ 16)) (Fin.ofNat 64 (w / 2 ^ 10)))
  else if fld w 0 10 = 8 then
    some (.zextW (Fin.ofNat 8 (w / 2 ^ 29)) (Fin.ofNat 64 (w / 2 ^ 16)) (Fin.ofNat 64 (w / 2 ^ 10)))
  else none

/-- Major 0x03. -/
def dec03 (w lit : Nat) : Option Instr :=
  if fld w 0 10 = 0x200 then some (.addImmLiteral (Fin.ofNat 8 (w / 2 ^ 29)) (Fin.ofNat 64 (w / 2 ^ 16)) (Fin.ofNat 64 (w / 2 ^ 10)) (BitVec.ofNat 32 lit)) else some (.addImm (Fin.ofNat 8 (w / 2 ^ 29)) (Fin.ofNat 64 (w / 2 ^ 16)) (Fin.ofNat 64 (w / 2 ^ 10)) (BitVec.ofNat 10 (w / 2 ^ 0)))

/-- Major 0x04. -/
def dec04 (w lit : Nat) : Option Instr :=
  if fld w 0 10 = 0x200 then some (.andImmLiteral (Fin.ofNat 8 (w / 2 ^ 29)) (Fin.ofNat 64 (w / 2 ^ 16)) (Fin.ofNat 64 (w / 2 ^ 10)) (BitVec.ofNat 32 lit)) else some (.andImm (Fin.ofNat 8 (w / 2 ^ 29)) (Fin.ofNat 64 (w / 2 ^ 16)) (Fin.ofNat 64 (w / 2 ^ 10)) (BitVec.ofNat 10 (w / 2 ^ 0)))

/-- Major 0x05. -/
def dec05 (w lit : Nat) : Option Instr :=
  if fld w 0 10 = 0x200 then some (.orImmLiteral (Fin.ofNat 8 (w / 2 ^ 29)) (Fin.ofNat 64 (w / 2 ^ 16)) (Fin.ofNat 64 (w / 2 ^ 10)) (BitVec.ofNat 32 lit)) else some (.orImm (Fin.ofNat 8 (w / 2 ^ 29)) (Fin.ofNat 64 (w / 2 ^ 16)) (Fin.ofNat 64 (w / 2 ^ 10)) (BitVec.ofNat 10 (w / 2 ^ 0)))

/-- Major 0x06. -/
def dec06 (w lit : Nat) : Option Instr :=
  if fld w 0 10 = 0x200 then some (.xorImmLiteral (Fin.ofNat 8 (w / 2 ^ 29)) (Fin.ofNat 64 (w / 2 ^ 16)) (Fin.ofNat 64 (w / 2 ^ 10)) (BitVec.ofNat 32 lit)) else some (.xorImm (Fin.ofNat 8 (w / 2 ^ 29)) (Fin.ofNat 64 (w / 2 ^ 16)) (Fin.ofNat 64 (w / 2 ^ 10)) (BitVec.ofNat 10 (w / 2 ^ 0)))

/-- Major 0x07. -/
def dec07 (w : Nat) : Option Instr :=
  some (.sllImm (Fin.ofNat 8 (w / 2 ^ 29)) (Fin.ofNat 64 (w / 2 ^ 16)) (Fin.ofNat 64 (w / 2 ^ 10)) (BitVec.ofNat 10 (w / 2 ^ 0)))

/-- Major 0x08. -/
def dec08 (w : Nat) : Option Instr :=
  some (.srlImm (Fin.ofNat 8 (w / 2 ^ 29)) (Fin.ofNat 64 (w / 2 ^ 16)) (Fin.ofNat 64 (w / 2 ^ 10)) (BitVec.ofNat 10 (w / 2 ^ 0)))

/-- Major 0x09. -/
def dec09 (w : Nat) : Option Instr :=
  some (.sraImm (Fin.ofNat 8 (w / 2 ^ 29)) (Fin.ofNat 64 (w / 2 ^ 16)) (Fin.ofNat 64 (w / 2 ^ 10)) (BitVec.ofNat 10 (w / 2 ^ 0)))

/-- Major 0x0A. -/
def dec0A (w : Nat) : Option Instr :=
  some (.rotImm (Fin.ofNat 8 (w / 2 ^ 29)) (Fin.ofNat 64 (w / 2 ^ 16)) (Fin.ofNat 64 (w / 2 ^ 10)) (BitVec.ofNat 10 (w / 2 ^ 0)))

/-- Major 0x0B. -/
def dec0B (w lit : Nat) : Option Instr :=
  if fld w 10 6 = 0 then
    if fld w 0 10 = 0x200 then some (.liLiteral (Fin.ofNat 8 (w / 2 ^ 29)) (Fin.ofNat 64 (w / 2 ^ 16)) (BitVec.ofNat 32 lit)) else some (.li (Fin.ofNat 8 (w / 2 ^ 29)) (Fin.ofNat 64 (w / 2 ^ 16)) (BitVec.ofNat 10 (w / 2 ^ 0)))
  else none

/-- Major 0x0C. -/
def dec0C (w lit : Nat) : Option Instr :=
  if fld w 0 10 = 0x200 then some (.cmpiLiteral (Fin.ofNat 8 (w / 2 ^ 29)) (Fin.ofNat 8 (w / 2 ^ 19)) (Fin.ofNat 8 (w / 2 ^ 16)) (Fin.ofNat 64 (w / 2 ^ 10)) (BitVec.ofNat 32 lit)) else some (.cmpi (Fin.ofNat 8 (w / 2 ^ 29)) (Fin.ofNat 8 (w / 2 ^ 19)) (Fin.ofNat 8 (w / 2 ^ 16)) (Fin.ofNat 64 (w / 2 ^ 10)) (BitVec.ofNat 10 (w / 2 ^ 0)))

/-- Major 0x0D. -/
def dec0D (w : Nat) : Option Instr :=
  if fld w 0 4 = 0 then
    some (.cmp (Fin.ofNat 8 (w / 2 ^ 29)) (Fin.ofNat 8 (w / 2 ^ 19)) (Fin.ofNat 8 (w / 2 ^ 16)) (Fin.ofNat 64 (w / 2 ^ 10)) (Fin.ofNat 64 (w / 2 ^ 4)))
  else if fld w 0 4 = 1 then
    some (.cmpAnd (Fin.ofNat 8 (w / 2 ^ 29)) (Fin.ofNat 8 (w / 2 ^ 19)) (Fin.ofNat 8 (w / 2 ^ 16)) (Fin.ofNat 64 (w / 2 ^ 10)) (Fin.ofNat 64 (w / 2 ^ 4)))
  else if fld w 0 4 = 2 then
    some (.cmpOr (Fin.ofNat 8 (w / 2 ^ 29)) (Fin.ofNat 8 (w / 2 ^ 19)) (Fin.ofNat 8 (w / 2 ^ 16)) (Fin.ofNat 64 (w / 2 ^ 10)) (Fin.ofNat 64 (w / 2 ^ 4)))
  else none

/-- Major 0x0E. -/
def dec0E (w : Nat) : Option Instr :=
  if fld w 0 10 = 0 ∧ fld w 13 3 = 0 ∧ fld w 19 3 = 0 then
    some (.gnot (Fin.ofNat 8 (w / 2 ^ 29)) (Fin.ofNat 8 (w / 2 ^ 16)) (Fin.ofNat 8 (w / 2 ^ 10)))
  else if fld w 0 4 = 1 ∧ fld w 7 3 = 0 ∧ fld w 13 3 = 0 ∧ fld w 19 3 = 0 then
    some (.gand (Fin.ofNat 8 (w / 2 ^ 29)) (Fin.ofNat 8 (w / 2 ^ 16)) (Fin.ofNat 8 (w / 2 ^ 10)) (Fin.ofNat 8 (w / 2 ^ 4)))
  else if fld w 0 4 = 2 ∧ fld w 7 3 = 0 ∧ fld w 13 3 = 0 ∧ fld w 19 3 = 0 then
    some (.gor (Fin.ofNat 8 (w / 2 ^ 29)) (Fin.ofNat 8 (w / 2 ^ 16)) (Fin.ofNat 8 (w / 2 ^ 10)) (Fin.ofNat 8 (w / 2 ^ 4)))
  else none

/-- Major 0x0F. -/
def dec0F (w : Nat) : Option Instr :=
  if fld w 3 1 = 0 then
    some (.sel (Fin.ofNat 8 (w / 2 ^ 29)) (Fin.ofNat 64 (w / 2 ^ 16)) (Fin.ofNat 64 (w / 2 ^ 10)) (Fin.ofNat 64 (w / 2 ^ 4)) (Fin.ofNat 8 (w / 2 ^ 0)))
  else none

/-- Major 0x10. -/
def dec10 (w : Nat) : Option Instr :=
  if fld w 0 4 = 0 then
    some (.fadd (Fin.ofNat 8 (w / 2 ^ 29)) (Fin.ofNat 64 (w / 2 ^ 16)) (Fin.ofNat 64 (w / 2 ^ 10)) (Fin.ofNat 64 (w / 2 ^ 4)))
  else if fld w 0 4 = 1 then
    some (.fsub (Fin.ofNat 8 (w / 2 ^ 29)) (Fin.ofNat 64 (w / 2 ^ 16)) (Fin.ofNat 64 (w / 2 ^ 10)) (Fin.ofNat 64 (w / 2 ^ 4)))
  else if fld w 0 4 = 2 then
    some (.fmul (Fin.ofNat 8 (w / 2 ^ 29)) (Fin.ofNat 64 (w / 2 ^ 16)) (Fin.ofNat 64 (w / 2 ^ 10)) (Fin.ofNat 64 (w / 2 ^ 4)))
  else if fld w 0 4 = 3 then
    some (.fdiv (Fin.ofNat 8 (w / 2 ^ 29)) (Fin.ofNat 64 (w / 2 ^ 16)) (Fin.ofNat 64 (w / 2 ^ 10)) (Fin.ofNat 64 (w / 2 ^ 4)))
  else if fld w 0 4 = 4 then
    some (.fmin (Fin.ofNat 8 (w / 2 ^ 29)) (Fin.ofNat 64 (w / 2 ^ 16)) (Fin.ofNat 64 (w / 2 ^ 10)) (Fin.ofNat 64 (w / 2 ^ 4)))
  else if fld w 0 4 = 5 then
    some (.fmax (Fin.ofNat 8 (w / 2 ^ 29)) (Fin.ofNat 64 (w / 2 ^ 16)) (Fin.ofNat 64 (w / 2 ^ 10)) (Fin.ofNat 64 (w / 2 ^ 4)))
  else if fld w 0 10 = 6 then
    some (.fsqrt (Fin.ofNat 8 (w / 2 ^ 29)) (Fin.ofNat 64 (w / 2 ^ 16)) (Fin.ofNat 64 (w / 2 ^ 10)))
  else none

/-- Major 0x11. -/
def dec11 (w : Nat) : Option Instr :=
  if fld w 0 4 = 0 then
    some (.ffma (Fin.ofNat 8 (w / 2 ^ 29)) (Fin.ofNat 64 (w / 2 ^ 16)) (Fin.ofNat 64 (w / 2 ^ 10)) (Fin.ofNat 64 (w / 2 ^ 4)))
  else if fld w 0 4 = 1 then
    some (.ffmaN (Fin.ofNat 8 (w / 2 ^ 29)) (Fin.ofNat 64 (w / 2 ^ 16)) (Fin.ofNat 64 (w / 2 ^ 10)) (Fin.ofNat 64 (w / 2 ^ 4)))
  else none

/-- Major 0x12. -/
def dec12 (w : Nat) : Option Instr :=
  if fld w 0 4 = 0 then
    some (.fcmp (Fin.ofNat 8 (w / 2 ^ 29)) (Fin.ofNat 8 (w / 2 ^ 19)) (Fin.ofNat 8 (w / 2 ^ 16)) (Fin.ofNat 64 (w / 2 ^ 10)) (Fin.ofNat 64 (w / 2 ^ 4)))
  else none

/-- Major 0x13. -/
def dec13 (w : Nat) : Option Instr :=
  if fld w 0 10 = 0 then
    some (.fcvtF32I64 (Fin.ofNat 8 (w / 2 ^ 29)) (Fin.ofNat 64 (w / 2 ^ 16)) (Fin.ofNat 64 (w / 2 ^ 10)))
  else if fld w 0 10 = 1 then
    some (.fcvtF32U64 (Fin.ofNat 8 (w / 2 ^ 29)) (Fin.ofNat 64 (w / 2 ^ 16)) (Fin.ofNat 64 (w / 2 ^ 10)))
  else if fld w 0 10 = 2 then
    some (.fcvtI64F32 (Fin.ofNat 8 (w / 2 ^ 29)) (Fin.ofNat 64 (w / 2 ^ 16)) (Fin.ofNat 64 (w / 2 ^ 10)))
  else if fld w 0 10 = 3 then
    some (.fcvtU64F32 (Fin.ofNat 8 (w / 2 ^ 29)) (Fin.ofNat 64 (w / 2 ^ 16)) (Fin.ofNat 64 (w / 2 ^ 10)))
  else if fld w 0 10 = 4 then
    some (.fcvtBf16F32 (Fin.ofNat 8 (w / 2 ^ 29)) (Fin.ofNat 64 (w / 2 ^ 16)) (Fin.ofNat 64 (w / 2 ^ 10)))
  else if fld w 0 10 = 5 then
    some (.fcvtF16F32 (Fin.ofNat 8 (w / 2 ^ 29)) (Fin.ofNat 64 (w / 2 ^ 16)) (Fin.ofNat 64 (w / 2 ^ 10)))
  else if fld w 0 10 = 6 then
    some (.fcvtF32Bf16 (Fin.ofNat 8 (w / 2 ^ 29)) (Fin.ofNat 64 (w / 2 ^ 16)) (Fin.ofNat 64 (w / 2 ^ 10)))
  else if fld w 0 10 = 7 then
    some (.fcvtF32F16 (Fin.ofNat 8 (w / 2 ^ 29)) (Fin.ofNat 64 (w / 2 ^ 16)) (Fin.ofNat 64 (w / 2 ^ 10)))
  else none

/-- Major 0x14. -/
def dec14 (w : Nat) : Option Instr :=
  if fld w 0 4 = 0 then
    some (.cbnd (Fin.ofNat 8 (w / 2 ^ 29)) (Fin.ofNat 64 (w / 2 ^ 16)) (Fin.ofNat 64 (w / 2 ^ 10)) (Fin.ofNat 64 (w / 2 ^ 4)))
  else if fld w 0 4 = 1 then
    some (.cinc (Fin.ofNat 8 (w / 2 ^ 29)) (Fin.ofNat 64 (w / 2 ^ 16)) (Fin.ofNat 64 (w / 2 ^ 10)) (Fin.ofNat 64 (w / 2 ^ 4)))
  else if fld w 0 4 = 2 then
    some (.caddr (Fin.ofNat 8 (w / 2 ^ 29)) (Fin.ofNat 64 (w / 2 ^ 16)) (Fin.ofNat 64 (w / 2 ^ 10)) (Fin.ofNat 64 (w / 2 ^ 4)))
  else if fld w 0 4 = 3 then
    some (.cperm (Fin.ofNat 8 (w / 2 ^ 29)) (Fin.ofNat 64 (w / 2 ^ 16)) (Fin.ofNat 64 (w / 2 ^ 10)) (Fin.ofNat 64 (w / 2 ^ 4)))
  else if fld w 0 10 = 4 then
    some (.ctagc (Fin.ofNat 8 (w / 2 ^ 29)) (Fin.ofNat 64 (w / 2 ^ 16)) (Fin.ofNat 64 (w / 2 ^ 10)))
  else if fld w 0 10 = 5 then
    some (.cgetBase (Fin.ofNat 8 (w / 2 ^ 29)) (Fin.ofNat 64 (w / 2 ^ 16)) (Fin.ofNat 64 (w / 2 ^ 10)))
  else if fld w 0 10 = 6 then
    some (.cgetTop (Fin.ofNat 8 (w / 2 ^ 29)) (Fin.ofNat 64 (w / 2 ^ 16)) (Fin.ofNat 64 (w / 2 ^ 10)))
  else if fld w 0 10 = 7 then
    some (.cgetLen (Fin.ofNat 8 (w / 2 ^ 29)) (Fin.ofNat 64 (w / 2 ^ 16)) (Fin.ofNat 64 (w / 2 ^ 10)))
  else if fld w 0 10 = 8 then
    some (.cgetPerm (Fin.ofNat 8 (w / 2 ^ 29)) (Fin.ofNat 64 (w / 2 ^ 16)) (Fin.ofNat 64 (w / 2 ^ 10)))
  else if fld w 0 10 = 9 then
    some (.cgetTag (Fin.ofNat 8 (w / 2 ^ 29)) (Fin.ofNat 64 (w / 2 ^ 16)) (Fin.ofNat 64 (w / 2 ^ 10)))
  else none

/-- Major 0x15. -/
def dec15 (w lit : Nat) : Option Instr :=
  if fld w 0 10 = 0x200 then some (.cincImmLiteral (Fin.ofNat 8 (w / 2 ^ 29)) (Fin.ofNat 64 (w / 2 ^ 16)) (Fin.ofNat 64 (w / 2 ^ 10)) (BitVec.ofNat 32 lit)) else some (.cincImm (Fin.ofNat 8 (w / 2 ^ 29)) (Fin.ofNat 64 (w / 2 ^ 16)) (Fin.ofNat 64 (w / 2 ^ 10)) (BitVec.ofNat 10 (w / 2 ^ 0)))

/-- Major 0x16. -/
def dec16 (w lit : Nat) : Option Instr :=
  if fld w 0 10 = 0x200 then some (.cbndImmLiteral (Fin.ofNat 8 (w / 2 ^ 29)) (Fin.ofNat 64 (w / 2 ^ 16)) (Fin.ofNat 64 (w / 2 ^ 10)) (BitVec.ofNat 32 lit)) else some (.cbndImm (Fin.ofNat 8 (w / 2 ^ 29)) (Fin.ofNat 64 (w / 2 ^ 16)) (Fin.ofNat 64 (w / 2 ^ 10)) (BitVec.ofNat 10 (w / 2 ^ 0)))

/-- Major 0x18. -/
def dec18 (w : Nat) : Option Instr :=
  some (.j (Fin.ofNat 8 (w / 2 ^ 29)) (Fin.ofNat 4194304 (w / 2 ^ 0)))

/-- Major 0x19. -/
def dec19 (w : Nat) : Option Instr :=
  some (.call (Fin.ofNat 8 (w / 2 ^ 29)) (Fin.ofNat 4194304 (w / 2 ^ 0)))

/-- Major 0x1A. -/
def dec1A (w : Nat) : Option Instr :=
  if fld w 0 10 = 0 ∧ fld w 16 6 = 0 then
    some (.jr (Fin.ofNat 8 (w / 2 ^ 29)) (Fin.ofNat 64 (w / 2 ^ 10)))
  else if fld w 0 22 = 1 then
    some (.ret (Fin.ofNat 8 (w / 2 ^ 29)))
  else none

/-- Major 0x1B. -/
def dec1B (w : Nat) : Option Instr :=
  if fld w 18 1 = 0 then
    some (.bgF (Fin.ofNat 8 (w / 2 ^ 29)) (Fin.ofNat 8 (w / 2 ^ 19)) (Fin.ofNat 262144 (w / 2 ^ 0)))
  else if fld w 18 1 = 1 then
    some (.bgT (Fin.ofNat 8 (w / 2 ^ 29)) (Fin.ofNat 8 (w / 2 ^ 19)) (Fin.ofNat 262144 (w / 2 ^ 0)))
  else none

/-- Major 0x1C. -/
def dec1C (w lit : Nat) : Option Instr :=
  if fld w 10 6 = 0 then if fld w 0 10 = 0x200 then some (.repLiteral (Fin.ofNat 8 (w / 2 ^ 29)) (Fin.ofNat 64 (w / 2 ^ 16)) (BitVec.ofNat 32 lit)) else some (.rep (Fin.ofNat 8 (w / 2 ^ 29)) (Fin.ofNat 64 (w / 2 ^ 16)) (BitVec.ofNat 10 (w / 2 ^ 0)))
  else if fld w 0 10 = 0 then some (.repReg (Fin.ofNat 8 (w / 2 ^ 29)) (Fin.ofNat 64 (w / 2 ^ 16)) (Fin.ofNat 64 (w / 2 ^ 10)))
  else none

/-- Major 0x1D. -/
def dec1D (w : Nat) : Option Instr :=
  if fld w 0 22 = 0 then
    some (.nop (Fin.ofNat 8 (w / 2 ^ 29)))
  else none

/-- Major 0x1E. -/
def dec1E (w : Nat) : Option Instr :=
  if fld w 9 13 = 0 then
    some (.trap (Fin.ofNat 8 (w / 2 ^ 29)) (Fin.ofNat 512 (w / 2 ^ 0)))
  else none

/-- Major 0x1F. -/
def dec1F (w : Nat) : Option Instr :=
  if fld w 0 4 = 0 ∧ fld w 16 6 = 0 then
    some (.suspend (Fin.ofNat 8 (w / 2 ^ 29)) (Fin.ofNat 64 (w / 2 ^ 10)) (Fin.ofNat 64 (w / 2 ^ 4)))
  else if fld w 0 22 = 1 then
    some (.hend (Fin.ofNat 8 (w / 2 ^ 29)))
  else none

/-- Major 0x20. -/
def dec20 (w lit : Nat) : Option Instr :=
  if fld w 0 6 = 0x20 then some (.ldBLiteral (Fin.ofNat 8 (w / 2 ^ 29)) (Fin.ofNat 64 (w / 2 ^ 16)) (Fin.ofNat 64 (w / 2 ^ 10)) (Fin.ofNat 16 (w / 2 ^ 6)) (BitVec.ofNat 32 lit)) else some (.ldB (Fin.ofNat 8 (w / 2 ^ 29)) (Fin.ofNat 64 (w / 2 ^ 16)) (Fin.ofNat 64 (w / 2 ^ 10)) (Fin.ofNat 16 (w / 2 ^ 6)) (Fin.ofNat 64 (w / 2 ^ 0)))

/-- Major 0x21. -/
def dec21 (w lit : Nat) : Option Instr :=
  if fld w 0 6 = 0x20 then some (.ldHLiteral (Fin.ofNat 8 (w / 2 ^ 29)) (Fin.ofNat 64 (w / 2 ^ 16)) (Fin.ofNat 64 (w / 2 ^ 10)) (Fin.ofNat 16 (w / 2 ^ 6)) (BitVec.ofNat 32 lit)) else some (.ldH (Fin.ofNat 8 (w / 2 ^ 29)) (Fin.ofNat 64 (w / 2 ^ 16)) (Fin.ofNat 64 (w / 2 ^ 10)) (Fin.ofNat 16 (w / 2 ^ 6)) (Fin.ofNat 64 (w / 2 ^ 0)))

/-- Major 0x22. -/
def dec22 (w lit : Nat) : Option Instr :=
  if fld w 0 6 = 0x20 then some (.ldWLiteral (Fin.ofNat 8 (w / 2 ^ 29)) (Fin.ofNat 64 (w / 2 ^ 16)) (Fin.ofNat 64 (w / 2 ^ 10)) (Fin.ofNat 16 (w / 2 ^ 6)) (BitVec.ofNat 32 lit)) else some (.ldW (Fin.ofNat 8 (w / 2 ^ 29)) (Fin.ofNat 64 (w / 2 ^ 16)) (Fin.ofNat 64 (w / 2 ^ 10)) (Fin.ofNat 16 (w / 2 ^ 6)) (Fin.ofNat 64 (w / 2 ^ 0)))

/-- Major 0x23. -/
def dec23 (w lit : Nat) : Option Instr :=
  if fld w 0 6 = 0x20 then some (.ldDLiteral (Fin.ofNat 8 (w / 2 ^ 29)) (Fin.ofNat 64 (w / 2 ^ 16)) (Fin.ofNat 64 (w / 2 ^ 10)) (Fin.ofNat 16 (w / 2 ^ 6)) (BitVec.ofNat 32 lit)) else some (.ldD (Fin.ofNat 8 (w / 2 ^ 29)) (Fin.ofNat 64 (w / 2 ^ 16)) (Fin.ofNat 64 (w / 2 ^ 10)) (Fin.ofNat 16 (w / 2 ^ 6)) (Fin.ofNat 64 (w / 2 ^ 0)))

/-- Major 0x24. -/
def dec24 (w lit : Nat) : Option Instr :=
  if fld w 0 6 = 0x20 then some (.ldQLiteral (Fin.ofNat 8 (w / 2 ^ 29)) (Fin.ofNat 64 (w / 2 ^ 16)) (Fin.ofNat 64 (w / 2 ^ 10)) (Fin.ofNat 16 (w / 2 ^ 6)) (BitVec.ofNat 32 lit)) else some (.ldQ (Fin.ofNat 8 (w / 2 ^ 29)) (Fin.ofNat 64 (w / 2 ^ 16)) (Fin.ofNat 64 (w / 2 ^ 10)) (Fin.ofNat 16 (w / 2 ^ 6)) (Fin.ofNat 64 (w / 2 ^ 0)))

/-- Major 0x25. -/
def dec25 (w lit : Nat) : Option Instr :=
  if fld w 6 4 = 0 then
    if fld w 0 6 = 0x20 then some (.stBLiteral (Fin.ofNat 8 (w / 2 ^ 29)) (Fin.ofNat 64 (w / 2 ^ 16)) (Fin.ofNat 64 (w / 2 ^ 10)) (BitVec.ofNat 32 lit)) else some (.stB (Fin.ofNat 8 (w / 2 ^ 29)) (Fin.ofNat 64 (w / 2 ^ 16)) (Fin.ofNat 64 (w / 2 ^ 10)) (Fin.ofNat 64 (w / 2 ^ 0)))
  else if fld w 6 4 = 1 then
    if fld w 0 6 = 0x20 then some (.stHLiteral (Fin.ofNat 8 (w / 2 ^ 29)) (Fin.ofNat 64 (w / 2 ^ 16)) (Fin.ofNat 64 (w / 2 ^ 10)) (BitVec.ofNat 32 lit)) else some (.stH (Fin.ofNat 8 (w / 2 ^ 29)) (Fin.ofNat 64 (w / 2 ^ 16)) (Fin.ofNat 64 (w / 2 ^ 10)) (Fin.ofNat 64 (w / 2 ^ 0)))
  else if fld w 6 4 = 2 then
    if fld w 0 6 = 0x20 then some (.stWLiteral (Fin.ofNat 8 (w / 2 ^ 29)) (Fin.ofNat 64 (w / 2 ^ 16)) (Fin.ofNat 64 (w / 2 ^ 10)) (BitVec.ofNat 32 lit)) else some (.stW (Fin.ofNat 8 (w / 2 ^ 29)) (Fin.ofNat 64 (w / 2 ^ 16)) (Fin.ofNat 64 (w / 2 ^ 10)) (Fin.ofNat 64 (w / 2 ^ 0)))
  else if fld w 6 4 = 3 then
    if fld w 0 6 = 0x20 then some (.stDLiteral (Fin.ofNat 8 (w / 2 ^ 29)) (Fin.ofNat 64 (w / 2 ^ 16)) (Fin.ofNat 64 (w / 2 ^ 10)) (BitVec.ofNat 32 lit)) else some (.stD (Fin.ofNat 8 (w / 2 ^ 29)) (Fin.ofNat 64 (w / 2 ^ 16)) (Fin.ofNat 64 (w / 2 ^ 10)) (Fin.ofNat 64 (w / 2 ^ 0)))
  else if fld w 6 4 = 4 then
    if fld w 0 6 = 0x20 then some (.stQLiteral (Fin.ofNat 8 (w / 2 ^ 29)) (Fin.ofNat 64 (w / 2 ^ 16)) (Fin.ofNat 64 (w / 2 ^ 10)) (BitVec.ofNat 32 lit)) else some (.stQ (Fin.ofNat 8 (w / 2 ^ 29)) (Fin.ofNat 64 (w / 2 ^ 16)) (Fin.ofNat 64 (w / 2 ^ 10)) (Fin.ofNat 64 (w / 2 ^ 0)))
  else none

/-- Major 0x26. -/
def dec26 (w lit : Nat) : Option Instr :=
  if fld w 0 6 = 0x20 then some (.ldcLiteral (Fin.ofNat 8 (w / 2 ^ 29)) (Fin.ofNat 64 (w / 2 ^ 16)) (Fin.ofNat 64 (w / 2 ^ 10)) (Fin.ofNat 16 (w / 2 ^ 6)) (BitVec.ofNat 32 lit)) else some (.ldc (Fin.ofNat 8 (w / 2 ^ 29)) (Fin.ofNat 64 (w / 2 ^ 16)) (Fin.ofNat 64 (w / 2 ^ 10)) (Fin.ofNat 16 (w / 2 ^ 6)) (Fin.ofNat 64 (w / 2 ^ 0)))

/-- Major 0x27. -/
def dec27 (w lit : Nat) : Option Instr :=
  if fld w 6 4 = 0 then
    if fld w 0 6 = 0x20 then some (.stcLiteral (Fin.ofNat 8 (w / 2 ^ 29)) (Fin.ofNat 64 (w / 2 ^ 16)) (Fin.ofNat 64 (w / 2 ^ 10)) (BitVec.ofNat 32 lit)) else some (.stc (Fin.ofNat 8 (w / 2 ^ 29)) (Fin.ofNat 64 (w / 2 ^ 16)) (Fin.ofNat 64 (w / 2 ^ 10)) (Fin.ofNat 64 (w / 2 ^ 0)))
  else none

/-- Major 0x28. -/
def dec28 (w lit : Nat) : Option Instr :=
  if fld w 6 4 = 0 ∧ fld w 21 1 = 0 then
    if fld w 0 6 = 0x20 then some (.ldqLiteral (Fin.ofNat 8 (w / 2 ^ 29)) (Fin.ofNat 32 (w / 2 ^ 16)) (Fin.ofNat 64 (w / 2 ^ 10)) (BitVec.ofNat 32 lit)) else some (.ldq (Fin.ofNat 8 (w / 2 ^ 29)) (Fin.ofNat 32 (w / 2 ^ 16)) (Fin.ofNat 64 (w / 2 ^ 10)) (Fin.ofNat 64 (w / 2 ^ 0)))
  else none

/-- Major 0x29. -/
def dec29 (w lit : Nat) : Option Instr :=
  if fld w 6 4 = 0 ∧ fld w 21 1 = 0 then
    if fld w 0 6 = 0x20 then some (.stqLiteral (Fin.ofNat 8 (w / 2 ^ 29)) (Fin.ofNat 32 (w / 2 ^ 16)) (Fin.ofNat 64 (w / 2 ^ 10)) (BitVec.ofNat 32 lit)) else some (.stq (Fin.ofNat 8 (w / 2 ^ 29)) (Fin.ofNat 32 (w / 2 ^ 16)) (Fin.ofNat 64 (w / 2 ^ 10)) (Fin.ofNat 64 (w / 2 ^ 0)))
  else none

/-- Major 0x2A. -/
def dec2A (w : Nat) : Option Instr :=
  if fld w 0 4 = 0 then
    some (.ldm (Fin.ofNat 8 (w / 2 ^ 29)) (Fin.ofNat 64 (w / 2 ^ 16)) (Fin.ofNat 64 (w / 2 ^ 10)) (Fin.ofNat 64 (w / 2 ^ 4)))
  else if fld w 0 4 = 1 then
    some (.stm (Fin.ofNat 8 (w / 2 ^ 29)) (Fin.ofNat 64 (w / 2 ^ 16)) (Fin.ofNat 64 (w / 2 ^ 10)) (Fin.ofNat 64 (w / 2 ^ 4)))
  else none

/-- Major 0x2B. -/
def dec2B (w lit : Nat) : Option Instr :=
  if fld w 21 1 = 0 then
    if fld w 0 6 = 0x20 then some (.vldLiteral (Fin.ofNat 8 (w / 2 ^ 29)) (Fin.ofNat 32 (w / 2 ^ 16)) (Fin.ofNat 64 (w / 2 ^ 10)) (Fin.ofNat 16 (w / 2 ^ 6)) (BitVec.ofNat 32 lit)) else some (.vld (Fin.ofNat 8 (w / 2 ^ 29)) (Fin.ofNat 32 (w / 2 ^ 16)) (Fin.ofNat 64 (w / 2 ^ 10)) (Fin.ofNat 16 (w / 2 ^ 6)) (Fin.ofNat 64 (w / 2 ^ 0)))
  else none

/-- Major 0x2C. -/
def dec2C (w lit : Nat) : Option Instr :=
  if fld w 9 1 = 0 ∧ fld w 21 1 = 0 then
    if fld w 0 6 = 0x20 then some (.vstLiteral (Fin.ofNat 8 (w / 2 ^ 29)) (Fin.ofNat 32 (w / 2 ^ 16)) (Fin.ofNat 64 (w / 2 ^ 10)) (Fin.ofNat 8 (w / 2 ^ 6)) (BitVec.ofNat 32 lit)) else some (.vst (Fin.ofNat 8 (w / 2 ^ 29)) (Fin.ofNat 32 (w / 2 ^ 16)) (Fin.ofNat 64 (w / 2 ^ 10)) (Fin.ofNat 8 (w / 2 ^ 6)) (Fin.ofNat 64 (w / 2 ^ 0)))
  else none

/-- Major 0x2D. -/
def dec2D (w : Nat) : Option Instr :=
  if fld w 0 2 = 0 ∧ fld w 21 1 = 0 then
    some (.vlds (Fin.ofNat 8 (w / 2 ^ 29)) (Fin.ofNat 32 (w / 2 ^ 16)) (Fin.ofNat 64 (w / 2 ^ 10)) (Fin.ofNat 64 (w / 2 ^ 4)) (Fin.ofNat 4 (w / 2 ^ 2)))
  else if fld w 0 2 = 1 ∧ fld w 9 1 = 0 ∧ fld w 21 1 = 0 then
    some (.vldx (Fin.ofNat 8 (w / 2 ^ 29)) (Fin.ofNat 32 (w / 2 ^ 16)) (Fin.ofNat 64 (w / 2 ^ 10)) (Fin.ofNat 32 (w / 2 ^ 4)) (Fin.ofNat 4 (w / 2 ^ 2)))
  else if fld w 0 2 = 2 ∧ fld w 21 1 = 0 then
    some (.vsts (Fin.ofNat 8 (w / 2 ^ 29)) (Fin.ofNat 32 (w / 2 ^ 16)) (Fin.ofNat 64 (w / 2 ^ 10)) (Fin.ofNat 64 (w / 2 ^ 4)) (Fin.ofNat 4 (w / 2 ^ 2)))
  else if fld w 0 2 = 3 ∧ fld w 9 1 = 0 ∧ fld w 21 1 = 0 then
    some (.vstx (Fin.ofNat 8 (w / 2 ^ 29)) (Fin.ofNat 32 (w / 2 ^ 16)) (Fin.ofNat 64 (w / 2 ^ 10)) (Fin.ofNat 32 (w / 2 ^ 4)) (Fin.ofNat 4 (w / 2 ^ 2)))
  else none

/-- Major 0x2E. -/
def dec2E (w : Nat) : Option Instr :=
  if fld w 0 4 = 0 then
    some (.amoAdd (Fin.ofNat 8 (w / 2 ^ 29)) (Fin.ofNat 64 (w / 2 ^ 16)) (Fin.ofNat 64 (w / 2 ^ 10)) (Fin.ofNat 64 (w / 2 ^ 4)))
  else if fld w 0 4 = 1 then
    some (.amoAnd (Fin.ofNat 8 (w / 2 ^ 29)) (Fin.ofNat 64 (w / 2 ^ 16)) (Fin.ofNat 64 (w / 2 ^ 10)) (Fin.ofNat 64 (w / 2 ^ 4)))
  else if fld w 0 4 = 2 then
    some (.amoOr (Fin.ofNat 8 (w / 2 ^ 29)) (Fin.ofNat 64 (w / 2 ^ 16)) (Fin.ofNat 64 (w / 2 ^ 10)) (Fin.ofNat 64 (w / 2 ^ 4)))
  else if fld w 0 4 = 3 then
    some (.amoXor (Fin.ofNat 8 (w / 2 ^ 29)) (Fin.ofNat 64 (w / 2 ^ 16)) (Fin.ofNat 64 (w / 2 ^ 10)) (Fin.ofNat 64 (w / 2 ^ 4)))
  else if fld w 0 4 = 4 then
    some (.amoMin (Fin.ofNat 8 (w / 2 ^ 29)) (Fin.ofNat 64 (w / 2 ^ 16)) (Fin.ofNat 64 (w / 2 ^ 10)) (Fin.ofNat 64 (w / 2 ^ 4)))
  else if fld w 0 4 = 5 then
    some (.amoMax (Fin.ofNat 8 (w / 2 ^ 29)) (Fin.ofNat 64 (w / 2 ^ 16)) (Fin.ofNat 64 (w / 2 ^ 10)) (Fin.ofNat 64 (w / 2 ^ 4)))
  else if fld w 0 4 = 6 then
    some (.amoMinu (Fin.ofNat 8 (w / 2 ^ 29)) (Fin.ofNat 64 (w / 2 ^ 16)) (Fin.ofNat 64 (w / 2 ^ 10)) (Fin.ofNat 64 (w / 2 ^ 4)))
  else if fld w 0 4 = 7 then
    some (.amoMaxu (Fin.ofNat 8 (w / 2 ^ 29)) (Fin.ofNat 64 (w / 2 ^ 16)) (Fin.ofNat 64 (w / 2 ^ 10)) (Fin.ofNat 64 (w / 2 ^ 4)))
  else if fld w 0 4 = 8 then
    some (.amoSwap (Fin.ofNat 8 (w / 2 ^ 29)) (Fin.ofNat 64 (w / 2 ^ 16)) (Fin.ofNat 64 (w / 2 ^ 10)) (Fin.ofNat 64 (w / 2 ^ 4)))
  else if fld w 0 4 = 9 then
    some (.amoCas (Fin.ofNat 8 (w / 2 ^ 29)) (Fin.ofNat 64 (w / 2 ^ 16)) (Fin.ofNat 64 (w / 2 ^ 10)) (Fin.ofNat 64 (w / 2 ^ 4)))
  else if fld w 0 4 = 10 then
    some (.amoFadd (Fin.ofNat 8 (w / 2 ^ 29)) (Fin.ofNat 64 (w / 2 ^ 16)) (Fin.ofNat 64 (w / 2 ^ 10)) (Fin.ofNat 64 (w / 2 ^ 4)))
  else none

/-- Major 0x2F. -/
noncomputable def dec2F (w : Nat) : Option Instr :=
  if fld w 0 16 = 0 ∧ fld w 20 2 = 1 then
    some (.fenceAcq (Fin.ofNat 8 (w / 2 ^ 29)) (Fin.ofNat 16 (w / 2 ^ 16)))
  else if fld w 0 16 = 0 ∧ fld w 20 2 = 2 then
    some (.fenceRel (Fin.ofNat 8 (w / 2 ^ 29)) (Fin.ofNat 16 (w / 2 ^ 16)))
  else if fld w 0 16 = 0 ∧ fld w 20 2 = 3 then
    some (.fenceAr (Fin.ofNat 8 (w / 2 ^ 29)) (Fin.ofNat 16 (w / 2 ^ 16)))
  else if fld w 0 4 = 1 ∧ fld w 16 6 = 0 then
    some (.afence (Fin.ofNat 8 (w / 2 ^ 29)) (Fin.ofNat 64 (w / 2 ^ 10)) (Fin.ofNat 64 (w / 2 ^ 4)))
  else if fld w 0 10 = 2 ∧ fld w 16 6 = 0 then
    some (.pfx (Fin.ofNat 8 (w / 2 ^ 29)) (Fin.ofNat 64 (w / 2 ^ 10)))
  else if fld w 0 10 = 3 ∧ fld w 16 6 = 0 then
    some (.touch (Fin.ofNat 8 (w / 2 ^ 29)) (Fin.ofNat 64 (w / 2 ^ 10)))
  else if fld w 0 10 = 3 ∧ fld w 16 6 = 1 then
    some (.touchW (Fin.ofNat 8 (w / 2 ^ 29)) (Fin.ofNat 64 (w / 2 ^ 10)))
  else if fld w 0 16 = 4 ∧ fld w 19 3 = 0 then
    some (.bar (Fin.ofNat 8 (w / 2 ^ 29)) (Fin.ofNat 8 (w / 2 ^ 16)))
  else if fld w 0 4 = 5 ∧ fld w 19 3 = 0 then
    some (.get (Fin.ofNat 8 (w / 2 ^ 29)) (Fin.ofNat 8 (w / 2 ^ 16)) (Fin.ofNat 64 (w / 2 ^ 10)) (Fin.ofNat 64 (w / 2 ^ 4)))
  else if fld w 0 4 = 6 ∧ fld w 19 3 = 0 then
    some (.give (Fin.ofNat 8 (w / 2 ^ 29)) (Fin.ofNat 8 (w / 2 ^ 16)) (Fin.ofNat 64 (w / 2 ^ 10)) (Fin.ofNat 64 (w / 2 ^ 4)))
  else none

/-- Major 0x30 to 0x32. -/
noncomputable def dec30 (w : Nat) : Option Instr :=
  if fld w 0 4 = 0 then
    some (.vaddInt (Fin.ofNat 8 (w / 2 ^ 29)) (Fin.ofNat 4 (w / 2 ^ 22)) (Fin.ofNat 32 (w / 2 ^ 17)) (Fin.ofNat 32 (w / 2 ^ 12)) (Fin.ofNat 32 (w / 2 ^ 7)) (Fin.ofNat 8 (w / 2 ^ 4)))
  else if fld w 0 4 = 1 then
    some (.vsubInt (Fin.ofNat 8 (w / 2 ^ 29)) (Fin.ofNat 4 (w / 2 ^ 22)) (Fin.ofNat 32 (w / 2 ^ 17)) (Fin.ofNat 32 (w / 2 ^ 12)) (Fin.ofNat 32 (w / 2 ^ 7)) (Fin.ofNat 8 (w / 2 ^ 4)))
  else if fld w 0 4 = 2 then
    some (.vmulInt (Fin.ofNat 8 (w / 2 ^ 29)) (Fin.ofNat 4 (w / 2 ^ 22)) (Fin.ofNat 32 (w / 2 ^ 17)) (Fin.ofNat 32 (w / 2 ^ 12)) (Fin.ofNat 32 (w / 2 ^ 7)) (Fin.ofNat 8 (w / 2 ^ 4)))
  else if fld w 0 4 = 3 then
    some (.vminInt (Fin.ofNat 8 (w / 2 ^ 29)) (Fin.ofNat 4 (w / 2 ^ 22)) (Fin.ofNat 32 (w / 2 ^ 17)) (Fin.ofNat 32 (w / 2 ^ 12)) (Fin.ofNat 32 (w / 2 ^ 7)) (Fin.ofNat 8 (w / 2 ^ 4)))
  else if fld w 0 4 = 4 then
    some (.vmaxInt (Fin.ofNat 8 (w / 2 ^ 29)) (Fin.ofNat 4 (w / 2 ^ 22)) (Fin.ofNat 32 (w / 2 ^ 17)) (Fin.ofNat 32 (w / 2 ^ 12)) (Fin.ofNat 32 (w / 2 ^ 7)) (Fin.ofNat 8 (w / 2 ^ 4)))
  else if fld w 0 4 = 5 then
    some (.vand (Fin.ofNat 8 (w / 2 ^ 29)) (Fin.ofNat 4 (w / 2 ^ 22)) (Fin.ofNat 32 (w / 2 ^ 17)) (Fin.ofNat 32 (w / 2 ^ 12)) (Fin.ofNat 32 (w / 2 ^ 7)) (Fin.ofNat 8 (w / 2 ^ 4)))
  else if fld w 0 4 = 6 then
    some (.vor (Fin.ofNat 8 (w / 2 ^ 29)) (Fin.ofNat 4 (w / 2 ^ 22)) (Fin.ofNat 32 (w / 2 ^ 17)) (Fin.ofNat 32 (w / 2 ^ 12)) (Fin.ofNat 32 (w / 2 ^ 7)) (Fin.ofNat 8 (w / 2 ^ 4)))
  else if fld w 0 4 = 7 then
    some (.vxor (Fin.ofNat 8 (w / 2 ^ 29)) (Fin.ofNat 4 (w / 2 ^ 22)) (Fin.ofNat 32 (w / 2 ^ 17)) (Fin.ofNat 32 (w / 2 ^ 12)) (Fin.ofNat 32 (w / 2 ^ 7)) (Fin.ofNat 8 (w / 2 ^ 4)))
  else if fld w 0 4 = 8 then
    some (.vshl (Fin.ofNat 8 (w / 2 ^ 29)) (Fin.ofNat 4 (w / 2 ^ 22)) (Fin.ofNat 32 (w / 2 ^ 17)) (Fin.ofNat 32 (w / 2 ^ 12)) (Fin.ofNat 32 (w / 2 ^ 7)) (Fin.ofNat 8 (w / 2 ^ 4)))
  else if fld w 0 4 = 9 then
    some (.vshr (Fin.ofNat 8 (w / 2 ^ 29)) (Fin.ofNat 4 (w / 2 ^ 22)) (Fin.ofNat 32 (w / 2 ^ 17)) (Fin.ofNat 32 (w / 2 ^ 12)) (Fin.ofNat 32 (w / 2 ^ 7)) (Fin.ofNat 8 (w / 2 ^ 4)))
  else if fld w 0 4 = 10 then
    some (.vshrA (Fin.ofNat 8 (w / 2 ^ 29)) (Fin.ofNat 4 (w / 2 ^ 22)) (Fin.ofNat 32 (w / 2 ^ 17)) (Fin.ofNat 32 (w / 2 ^ 12)) (Fin.ofNat 32 (w / 2 ^ 7)) (Fin.ofNat 8 (w / 2 ^ 4)))
  else none

/-- Major 0x33. -/
noncomputable def dec33 (w : Nat) : Option Instr :=
  if fld w 0 4 = 0 then
    some (.vaddF32 (Fin.ofNat 8 (w / 2 ^ 29)) (Fin.ofNat 32 (w / 2 ^ 17)) (Fin.ofNat 32 (w / 2 ^ 12)) (Fin.ofNat 32 (w / 2 ^ 7)) (Fin.ofNat 8 (w / 2 ^ 4)))
  else if fld w 0 4 = 1 then
    some (.vsubF32 (Fin.ofNat 8 (w / 2 ^ 29)) (Fin.ofNat 32 (w / 2 ^ 17)) (Fin.ofNat 32 (w / 2 ^ 12)) (Fin.ofNat 32 (w / 2 ^ 7)) (Fin.ofNat 8 (w / 2 ^ 4)))
  else if fld w 0 4 = 2 then
    some (.vmulF32 (Fin.ofNat 8 (w / 2 ^ 29)) (Fin.ofNat 32 (w / 2 ^ 17)) (Fin.ofNat 32 (w / 2 ^ 12)) (Fin.ofNat 32 (w / 2 ^ 7)) (Fin.ofNat 8 (w / 2 ^ 4)))
  else if fld w 0 4 = 3 then
    some (.vminF32 (Fin.ofNat 8 (w / 2 ^ 29)) (Fin.ofNat 32 (w / 2 ^ 17)) (Fin.ofNat 32 (w / 2 ^ 12)) (Fin.ofNat 32 (w / 2 ^ 7)) (Fin.ofNat 8 (w / 2 ^ 4)))
  else if fld w 0 4 = 4 then
    some (.vmaxF32 (Fin.ofNat 8 (w / 2 ^ 29)) (Fin.ofNat 32 (w / 2 ^ 17)) (Fin.ofNat 32 (w / 2 ^ 12)) (Fin.ofNat 32 (w / 2 ^ 7)) (Fin.ofNat 8 (w / 2 ^ 4)))
  else if fld w 0 4 = 5 then
    some (.vfmaF32 (Fin.ofNat 8 (w / 2 ^ 29)) (Fin.ofNat 32 (w / 2 ^ 17)) (Fin.ofNat 32 (w / 2 ^ 12)) (Fin.ofNat 32 (w / 2 ^ 7)) (Fin.ofNat 8 (w / 2 ^ 4)))
  else none

/-- Major 0x34. -/
noncomputable def dec34 (w : Nat) : Option Instr :=
  if fld w 0 4 = 0 then
    some (.vaddF16 (Fin.ofNat 8 (w / 2 ^ 29)) (Fin.ofNat 32 (w / 2 ^ 17)) (Fin.ofNat 32 (w / 2 ^ 12)) (Fin.ofNat 32 (w / 2 ^ 7)) (Fin.ofNat 8 (w / 2 ^ 4)))
  else if fld w 0 4 = 1 then
    some (.vsubF16 (Fin.ofNat 8 (w / 2 ^ 29)) (Fin.ofNat 32 (w / 2 ^ 17)) (Fin.ofNat 32 (w / 2 ^ 12)) (Fin.ofNat 32 (w / 2 ^ 7)) (Fin.ofNat 8 (w / 2 ^ 4)))
  else if fld w 0 4 = 2 then
    some (.vmulF16 (Fin.ofNat 8 (w / 2 ^ 29)) (Fin.ofNat 32 (w / 2 ^ 17)) (Fin.ofNat 32 (w / 2 ^ 12)) (Fin.ofNat 32 (w / 2 ^ 7)) (Fin.ofNat 8 (w / 2 ^ 4)))
  else if fld w 0 4 = 3 then
    some (.vminF16 (Fin.ofNat 8 (w / 2 ^ 29)) (Fin.ofNat 32 (w / 2 ^ 17)) (Fin.ofNat 32 (w / 2 ^ 12)) (Fin.ofNat 32 (w / 2 ^ 7)) (Fin.ofNat 8 (w / 2 ^ 4)))
  else if fld w 0 4 = 4 then
    some (.vmaxF16 (Fin.ofNat 8 (w / 2 ^ 29)) (Fin.ofNat 32 (w / 2 ^ 17)) (Fin.ofNat 32 (w / 2 ^ 12)) (Fin.ofNat 32 (w / 2 ^ 7)) (Fin.ofNat 8 (w / 2 ^ 4)))
  else if fld w 0 4 = 5 then
    some (.vfmaF16 (Fin.ofNat 8 (w / 2 ^ 29)) (Fin.ofNat 32 (w / 2 ^ 17)) (Fin.ofNat 32 (w / 2 ^ 12)) (Fin.ofNat 32 (w / 2 ^ 7)) (Fin.ofNat 8 (w / 2 ^ 4)))
  else none

/-- Major 0x35. -/
noncomputable def dec35 (w : Nat) : Option Instr :=
  if fld w 0 4 = 0 then
    some (.vaddBf16 (Fin.ofNat 8 (w / 2 ^ 29)) (Fin.ofNat 32 (w / 2 ^ 17)) (Fin.ofNat 32 (w / 2 ^ 12)) (Fin.ofNat 32 (w / 2 ^ 7)) (Fin.ofNat 8 (w / 2 ^ 4)))
  else if fld w 0 4 = 1 then
    some (.vsubBf16 (Fin.ofNat 8 (w / 2 ^ 29)) (Fin.ofNat 32 (w / 2 ^ 17)) (Fin.ofNat 32 (w / 2 ^ 12)) (Fin.ofNat 32 (w / 2 ^ 7)) (Fin.ofNat 8 (w / 2 ^ 4)))
  else if fld w 0 4 = 2 then
    some (.vmulBf16 (Fin.ofNat 8 (w / 2 ^ 29)) (Fin.ofNat 32 (w / 2 ^ 17)) (Fin.ofNat 32 (w / 2 ^ 12)) (Fin.ofNat 32 (w / 2 ^ 7)) (Fin.ofNat 8 (w / 2 ^ 4)))
  else if fld w 0 4 = 3 then
    some (.vminBf16 (Fin.ofNat 8 (w / 2 ^ 29)) (Fin.ofNat 32 (w / 2 ^ 17)) (Fin.ofNat 32 (w / 2 ^ 12)) (Fin.ofNat 32 (w / 2 ^ 7)) (Fin.ofNat 8 (w / 2 ^ 4)))
  else if fld w 0 4 = 4 then
    some (.vmaxBf16 (Fin.ofNat 8 (w / 2 ^ 29)) (Fin.ofNat 32 (w / 2 ^ 17)) (Fin.ofNat 32 (w / 2 ^ 12)) (Fin.ofNat 32 (w / 2 ^ 7)) (Fin.ofNat 8 (w / 2 ^ 4)))
  else if fld w 0 4 = 5 then
    some (.vfmaBf16 (Fin.ofNat 8 (w / 2 ^ 29)) (Fin.ofNat 32 (w / 2 ^ 17)) (Fin.ofNat 32 (w / 2 ^ 12)) (Fin.ofNat 32 (w / 2 ^ 7)) (Fin.ofNat 8 (w / 2 ^ 4)))
  else none

/-- Major 0x36. -/
noncomputable def dec36 (w : Nat) : Option Instr :=
  if fld w 20 2 = 0 then
    some (.vcmp (Fin.ofNat 8 (w / 2 ^ 29)) (Fin.ofNat 8 (w / 2 ^ 17)) (Fin.ofNat 32 (w / 2 ^ 12)) (Fin.ofNat 32 (w / 2 ^ 7)) (Fin.ofNat 8 (w / 2 ^ 4)) (Fin.ofNat 2 (w / 2 ^ 3)) (Fin.ofNat 8 (w / 2 ^ 0)))
  else none

/-- Major 0x37. -/
noncomputable def dec37 (w : Nat) : Option Instr :=
  if fld w 0 4 = 0 then
    some (.vsel (Fin.ofNat 8 (w / 2 ^ 29)) (Fin.ofNat 32 (w / 2 ^ 17)) (Fin.ofNat 32 (w / 2 ^ 12)) (Fin.ofNat 32 (w / 2 ^ 7)) (Fin.ofNat 8 (w / 2 ^ 4)))
  else if fld w 0 4 = 1 then
    some (.vperm (Fin.ofNat 8 (w / 2 ^ 29)) (Fin.ofNat 32 (w / 2 ^ 17)) (Fin.ofNat 32 (w / 2 ^ 12)) (Fin.ofNat 32 (w / 2 ^ 7)) (Fin.ofNat 8 (w / 2 ^ 4)))
  else if fld w 0 4 = 2 then
    some (.vmerge (Fin.ofNat 8 (w / 2 ^ 29)) (Fin.ofNat 32 (w / 2 ^ 17)) (Fin.ofNat 32 (w / 2 ^ 12)) (Fin.ofNat 32 (w / 2 ^ 7)) (Fin.ofNat 8 (w / 2 ^ 4)))
  else if fld w 0 4 = 3 ∧ fld w 7 5 = 0 then
    some (.vcomp (Fin.ofNat 8 (w / 2 ^ 29)) (Fin.ofNat 32 (w / 2 ^ 17)) (Fin.ofNat 32 (w / 2 ^ 12)) (Fin.ofNat 8 (w / 2 ^ 4)))
  else if fld w 0 4 = 4 ∧ fld w 7 5 = 0 then
    some (.vexpd (Fin.ofNat 8 (w / 2 ^ 29)) (Fin.ofNat 32 (w / 2 ^ 17)) (Fin.ofNat 32 (w / 2 ^ 12)) (Fin.ofNat 8 (w / 2 ^ 4)))
  else none

/-- Major 0x38. -/
noncomputable def dec38 (w : Nat) : Option Instr :=
  if fld w 0 3 = 0 ∧ fld w 12 5 = 0 then
    some (.vbcast (Fin.ofNat 8 (w / 2 ^ 29)) (Fin.ofNat 32 (w / 2 ^ 17)) (Fin.ofNat 64 (w / 2 ^ 6)) (Fin.ofNat 8 (w / 2 ^ 3)))
  else if fld w 0 3 = 1 ∧ fld w 12 5 = 0 then
    some (.vrnd (Fin.ofNat 8 (w / 2 ^ 29)) (Fin.ofNat 32 (w / 2 ^ 17)) (Fin.ofNat 64 (w / 2 ^ 6)) (Fin.ofNat 8 (w / 2 ^ 3)))
  else if fld w 0 3 = 2 ∧ fld w 12 5 = 0 then
    some (.vrndf (Fin.ofNat 8 (w / 2 ^ 29)) (Fin.ofNat 32 (w / 2 ^ 17)) (Fin.ofNat 64 (w / 2 ^ 6)) (Fin.ofNat 8 (w / 2 ^ 3)))
  else if fld w 0 3 = 3 then
    some (.nrns (Fin.ofNat 8 (w / 2 ^ 29)) (Fin.ofNat 32 (w / 2 ^ 17)) (Fin.ofNat 32 (w / 2 ^ 12)) (Fin.ofNat 64 (w / 2 ^ 6)) (Fin.ofNat 8 (w / 2 ^ 3)))
  else if fld w 0 3 = 4 ∧ fld w 17 5 = 0 then
    some (.spkout (Fin.ofNat 8 (w / 2 ^ 29)) (Fin.ofNat 32 (w / 2 ^ 12)) (Fin.ofNat 64 (w / 2 ^ 6)) (Fin.ofNat 8 (w / 2 ^ 3)))
  else if fld w 0 3 = 5 then
    some (.vbsum (Fin.ofNat 8 (w / 2 ^ 29)) (Fin.ofNat 32 (w / 2 ^ 17)) (Fin.ofNat 32 (w / 2 ^ 12)) (Fin.ofNat 64 (w / 2 ^ 6)) (Fin.ofNat 8 (w / 2 ^ 3)))
  else if fld w 0 6 = 6 ∧ fld w 17 5 = 0 then
    some (.bsadd (Fin.ofNat 8 (w / 2 ^ 29)) (Fin.ofNat 32 (w / 2 ^ 12)) (Fin.ofNat 64 (w / 2 ^ 6)))
  else none

/-- Major 0x39. -/
noncomputable def dec39 (w : Nat) : Option Instr :=
  if fld w 0 3 = 0 ∧ fld w 12 5 = 0 then
    some (.movVc (Fin.ofNat 8 (w / 2 ^ 29)) (Fin.ofNat 32 (w / 2 ^ 17)) (Fin.ofNat 64 (w / 2 ^ 6)) (Fin.ofNat 8 (w / 2 ^ 3)))
  else if fld w 0 3 = 1 ∧ fld w 17 5 = 0 then
    some (.movCv (Fin.ofNat 8 (w / 2 ^ 29)) (Fin.ofNat 32 (w / 2 ^ 12)) (Fin.ofNat 64 (w / 2 ^ 6)) (Fin.ofNat 8 (w / 2 ^ 3)))
  else if fld w 0 6 = 2 ∧ fld w 12 5 = 0 ∧ fld w 20 2 = 0 then
    some (.movMc (Fin.ofNat 8 (w / 2 ^ 29)) (Fin.ofNat 8 (w / 2 ^ 17)) (Fin.ofNat 64 (w / 2 ^ 6)))
  else if fld w 0 6 = 3 ∧ fld w 15 7 = 0 then
    some (.movCm (Fin.ofNat 8 (w / 2 ^ 29)) (Fin.ofNat 8 (w / 2 ^ 12)) (Fin.ofNat 64 (w / 2 ^ 6)))
  else none

/-- Major 0x3A. -/
noncomputable def dec3A (w : Nat) : Option Instr :=
  some (.vred (Fin.ofNat 8 (w / 2 ^ 29)) (Fin.ofNat 32 (w / 2 ^ 17)) (Fin.ofNat 32 (w / 2 ^ 12)) (Fin.ofNat 8 (w / 2 ^ 9)) (Fin.ofNat 16 (w / 2 ^ 5)) (Fin.ofNat 32 (w / 2 ^ 0)))

/-- Major 0x3B. -/
noncomputable def dec3B (w : Nat) : Option Instr :=
  some (.vscan (Fin.ofNat 8 (w / 2 ^ 29)) (Fin.ofNat 32 (w / 2 ^ 17)) (Fin.ofNat 32 (w / 2 ^ 12)) (Fin.ofNat 8 (w / 2 ^ 9)) (Fin.ofNat 16 (w / 2 ^ 5)) (Fin.ofNat 32 (w / 2 ^ 0)))

/-- Major 0x3C. -/
noncomputable def dec3C (w : Nat) : Option Instr :=
  if fld w 0 2 = 0 ∧ fld w 3 2 = 0 then
    some (.vsqrt (Fin.ofNat 8 (w / 2 ^ 29)) (Fin.ofNat 32 (w / 2 ^ 17)) (Fin.ofNat 32 (w / 2 ^ 12)) (Fin.ofNat 8 (w / 2 ^ 9)) (Fin.ofNat 16 (w / 2 ^ 5)) (Fin.ofNat 2 (w / 2 ^ 2)))
  else if fld w 0 2 = 1 ∧ fld w 3 2 = 0 then
    some (.vexp2 (Fin.ofNat 8 (w / 2 ^ 29)) (Fin.ofNat 32 (w / 2 ^ 17)) (Fin.ofNat 32 (w / 2 ^ 12)) (Fin.ofNat 8 (w / 2 ^ 9)) (Fin.ofNat 16 (w / 2 ^ 5)) (Fin.ofNat 2 (w / 2 ^ 2)))
  else if fld w 0 2 = 2 ∧ fld w 3 2 = 0 then
    some (.vlog2 (Fin.ofNat 8 (w / 2 ^ 29)) (Fin.ofNat 32 (w / 2 ^ 17)) (Fin.ofNat 32 (w / 2 ^ 12)) (Fin.ofNat 8 (w / 2 ^ 9)) (Fin.ofNat 16 (w / 2 ^ 5)) (Fin.ofNat 2 (w / 2 ^ 2)))
  else if fld w 0 2 = 3 ∧ fld w 3 2 = 0 then
    some (.vrcp (Fin.ofNat 8 (w / 2 ^ 29)) (Fin.ofNat 32 (w / 2 ^ 17)) (Fin.ofNat 32 (w / 2 ^ 12)) (Fin.ofNat 8 (w / 2 ^ 9)) (Fin.ofNat 16 (w / 2 ^ 5)) (Fin.ofNat 2 (w / 2 ^ 2)))
  else none

/-- Major 0x3D. -/
noncomputable def dec3D (w : Nat) : Option Instr :=
  some (.vdivF32 (Fin.ofNat 8 (w / 2 ^ 29)) (Fin.ofNat 32 (w / 2 ^ 17)) (Fin.ofNat 32 (w / 2 ^ 12)) (Fin.ofNat 8 (w / 2 ^ 9)) (Fin.ofNat 16 (w / 2 ^ 5)) (Fin.ofNat 32 (w / 2 ^ 0)))

/-- Major 0x3E. -/
noncomputable def dec3E (w : Nat) : Option Instr :=
  some (.vcvt (Fin.ofNat 8 (w / 2 ^ 29)) (Fin.ofNat 32 (w / 2 ^ 17)) (Fin.ofNat 32 (w / 2 ^ 12)) (Fin.ofNat 8 (w / 2 ^ 9)) (Fin.ofNat 16 (w / 2 ^ 5)) (Fin.ofNat 32 (w / 2 ^ 0)))

/-- Major 0x3F. -/
noncomputable def dec3F (w : Nat) : Option Instr :=
  some (.vdivF16 (Fin.ofNat 8 (w / 2 ^ 29)) (Fin.ofNat 32 (w / 2 ^ 17)) (Fin.ofNat 32 (w / 2 ^ 12)) (Fin.ofNat 8 (w / 2 ^ 9)) (Fin.ofNat 16 (w / 2 ^ 5)) (Fin.ofNat 32 (w / 2 ^ 0)))

/-- Major 0x40. -/
noncomputable def dec40 (w : Nat) : Option Instr :=
  if fld w 0 2 = 0 then
    some (.trd (Fin.ofNat 8 (w / 2 ^ 29)) (Fin.ofNat 8 (w / 2 ^ 19)) (Fin.ofNat 2 (w / 2 ^ 18)) (Fin.ofNat 64 (w / 2 ^ 12)) (Fin.ofNat 32 (w / 2 ^ 7)) (Fin.ofNat 32 (w / 2 ^ 2)))
  else if fld w 0 2 = 1 then
    some (.twr (Fin.ofNat 8 (w / 2 ^ 29)) (Fin.ofNat 8 (w / 2 ^ 19)) (Fin.ofNat 2 (w / 2 ^ 18)) (Fin.ofNat 64 (w / 2 ^ 12)) (Fin.ofNat 32 (w / 2 ^ 7)) (Fin.ofNat 32 (w / 2 ^ 2)))
  else if fld w 0 19 = 2 then
    some (.tzero (Fin.ofNat 8 (w / 2 ^ 29)) (Fin.ofNat 8 (w / 2 ^ 19)))
  else if fld w 0 19 = 3 then
    some (.ttrans (Fin.ofNat 8 (w / 2 ^ 29)) (Fin.ofNat 8 (w / 2 ^ 19)))
  else none

/-- Major 0x41. -/
noncomputable def dec41 (w : Nat) : Option Instr :=
  if fld w 0 16 = 0 ∧ fld w 19 3 = 0 then
    some (.tclaim (Fin.ofNat 8 (w / 2 ^ 29)) (Fin.ofNat 8 (w / 2 ^ 16)))
  else if fld w 0 16 = 1 ∧ fld w 19 3 = 0 then
    some (.tfree (Fin.ofNat 8 (w / 2 ^ 29)) (Fin.ofNat 8 (w / 2 ^ 16)))
  else none

/-- Major 0x42. -/
noncomputable def dec42 (w : Nat) : Option Instr :=
  if fld w 16 6 = 0 then
    some (.pld (Fin.ofNat 8 (w / 2 ^ 29)) (Fin.ofNat 16 (w / 2 ^ 12)) (Fin.ofNat 64 (w / 2 ^ 6)) (Fin.ofNat 64 (w / 2 ^ 0)))
  else if fld w 12 4 = 0 ∧ fld w 19 3 = 1 then
    some (.pst (Fin.ofNat 8 (w / 2 ^ 29)) (Fin.ofNat 8 (w / 2 ^ 16)) (Fin.ofNat 64 (w / 2 ^ 6)) (Fin.ofNat 64 (w / 2 ^ 0)))
  else if fld w 12 4 = 0 ∧ fld w 19 3 = 2 then
    some (.plupd (Fin.ofNat 8 (w / 2 ^ 29)) (Fin.ofNat 8 (w / 2 ^ 16)) (Fin.ofNat 64 (w / 2 ^ 6)) (Fin.ofNat 64 (w / 2 ^ 0)))
  else if fld w 12 4 = 0 ∧ fld w 19 3 = 3 then
    some (.plaxpy (Fin.ofNat 8 (w / 2 ^ 29)) (Fin.ofNat 8 (w / 2 ^ 16)) (Fin.ofNat 64 (w / 2 ^ 6)) (Fin.ofNat 64 (w / 2 ^ 0)))
  else if fld w 16 6 = 32 then
    some (.plhdr (Fin.ofNat 8 (w / 2 ^ 29)) (Fin.ofNat 16 (w / 2 ^ 12)) (Fin.ofNat 64 (w / 2 ^ 6)) (Fin.ofNat 64 (w / 2 ^ 0)))
  else none

/-- Major 0x48. -/
noncomputable def dec48 (w : Nat) : Option Instr :=
  if fld w 12 4 = 0 ∧ fld w 19 3 = 0 then
    some (.mlease (Fin.ofNat 8 (w / 2 ^ 29)) (Fin.ofNat 8 (w / 2 ^ 16)) (Fin.ofNat 64 (w / 2 ^ 6)) (Fin.ofNat 64 (w / 2 ^ 0)))
  else if fld w 0 22 = 524288 then
    some (.mfree (Fin.ofNat 8 (w / 2 ^ 29)))
  else none

/-- Major 0x49. -/
noncomputable def dec49 (w : Nat) : Option Instr :=
  if fld w 0 10 = 0 then
    some (.mgeo (Fin.ofNat 8 (w / 2 ^ 29)) (Fin.ofNat 64 (w / 2 ^ 16)) (Fin.ofNat 64 (w / 2 ^ 10)))
  else if fld w 0 10 = 1 then
    some (.mgeor (Fin.ofNat 8 (w / 2 ^ 29)) (Fin.ofNat 64 (w / 2 ^ 16)) (Fin.ofNat 64 (w / 2 ^ 10)))
  else if fld w 0 10 = 2 then
    some (.mstat (Fin.ofNat 8 (w / 2 ^ 29)) (Fin.ofNat 64 (w / 2 ^ 16)) (Fin.ofNat 64 (w / 2 ^ 10)))
  else if fld w 0 16 = 3 ∧ fld w 19 3 = 0 then
    some (.mzero (Fin.ofNat 8 (w / 2 ^ 29)) (Fin.ofNat 8 (w / 2 ^ 16)))
  else none

/-- Major 0x4A. -/
noncomputable def dec4A (w : Nat) : Option Instr :=
  if fld w 12 4 = 0 ∧ fld w 19 3 = 0 then
    some (.mldb (Fin.ofNat 8 (w / 2 ^ 29)) (Fin.ofNat 8 (w / 2 ^ 16)) (Fin.ofNat 64 (w / 2 ^ 6)) (Fin.ofNat 64 (w / 2 ^ 0)))
  else if fld w 12 4 = 0 ∧ fld w 19 3 = 1 then
    some (.mgath (Fin.ofNat 8 (w / 2 ^ 29)) (Fin.ofNat 8 (w / 2 ^ 16)) (Fin.ofNat 64 (w / 2 ^ 6)) (Fin.ofNat 64 (w / 2 ^ 0)))
  else if fld w 19 3 = 2 then
    some (.mrd (Fin.ofNat 8 (w / 2 ^ 29)) (Fin.ofNat 8 (w / 2 ^ 16)) (Fin.ofNat 16 (w / 2 ^ 12)) (Fin.ofNat 64 (w / 2 ^ 6)) (Fin.ofNat 64 (w / 2 ^ 0)))
  else none

/-- Major 0x50. -/
noncomputable def dec50 (w : Nat) : Option Instr :=
  if fld w 0 4 = 0 ∧ fld w 16 6 = 0 then
    some (.send (Fin.ofNat 8 (w / 2 ^ 29)) (Fin.ofNat 64 (w / 2 ^ 10)) (Fin.ofNat 64 (w / 2 ^ 4)))
  else if fld w 0 4 = 1 ∧ fld w 16 6 = 0 then
    some (.sendi (Fin.ofNat 8 (w / 2 ^ 29)) (Fin.ofNat 64 (w / 2 ^ 10)) (Fin.ofNat 64 (w / 2 ^ 4)))
  else if fld w 0 10 = 2 ∧ fld w 16 6 = 0 then
    some (.wmark (Fin.ofNat 8 (w / 2 ^ 29)) (Fin.ofNat 64 (w / 2 ^ 10)))
  else if fld w 0 10 = 3 ∧ fld w 16 6 = 0 then
    some (.waitch (Fin.ofNat 8 (w / 2 ^ 29)) (Fin.ofNat 64 (w / 2 ^ 10)))
  else if fld w 0 4 = 4 then
    some (.hmask (Fin.ofNat 8 (w / 2 ^ 29)) (Fin.ofNat 64 (w / 2 ^ 16)) (Fin.ofNat 64 (w / 2 ^ 10)) (Fin.ofNat 64 (w / 2 ^ 4)))
  else if fld w 0 4 = 5 ∧ fld w 16 6 = 0 then
    some (.hset (Fin.ofNat 8 (w / 2 ^ 29)) (Fin.ofNat 64 (w / 2 ^ 10)) (Fin.ofNat 64 (w / 2 ^ 4)))
  else if fld w 0 4 = 6 ∧ fld w 16 6 = 0 then
    some (.chcap (Fin.ofNat 8 (w / 2 ^ 29)) (Fin.ofNat 64 (w / 2 ^ 10)) (Fin.ofNat 64 (w / 2 ^ 4)))
  else none

/-- Major 0x51. -/
noncomputable def dec51 (w : Nat) : Option Instr :=
  if fld w 0 4 = 0 ∧ fld w 16 6 = 0 then
    some (.wincfg (Fin.ofNat 8 (w / 2 ^ 29)) (Fin.ofNat 64 (w / 2 ^ 10)) (Fin.ofNat 64 (w / 2 ^ 4)))
  else if fld w 0 10 = 1 ∧ fld w 16 6 = 0 then
    some (.winclose (Fin.ofNat 8 (w / 2 ^ 29)) (Fin.ofNat 64 (w / 2 ^ 10)))
  else none

/-- Major 0x52. -/
noncomputable def dec52 (w : Nat) : Option Instr :=
  if fld w 0 4 = 0 ∧ fld w 16 6 = 0 then
    some (.dkcfg (Fin.ofNat 8 (w / 2 ^ 29)) (Fin.ofNat 64 (w / 2 ^ 10)) (Fin.ofNat 64 (w / 2 ^ 4)))
  else if fld w 0 10 = 1 ∧ fld w 16 6 = 0 then
    some (.dkflush (Fin.ofNat 8 (w / 2 ^ 29)) (Fin.ofNat 64 (w / 2 ^ 10)))
  else if fld w 0 10 = 2 then
    some (.dkstat (Fin.ofNat 8 (w / 2 ^ 29)) (Fin.ofNat 64 (w / 2 ^ 16)) (Fin.ofNat 64 (w / 2 ^ 10)))
  else none

/-- Major 0x53. -/
noncomputable def dec53 (w : Nat) : Option Instr :=
  if fld w 12 4 = 0 ∧ fld w 19 3 = 0 then
    some (.xcopy (Fin.ofNat 8 (w / 2 ^ 29)) (Fin.ofNat 8 (w / 2 ^ 16)) (Fin.ofNat 64 (w / 2 ^ 6)) (Fin.ofNat 64 (w / 2 ^ 0)))
  else if fld w 6 16 = 8192 then
    some (.xresume (Fin.ofNat 8 (w / 2 ^ 29)) (Fin.ofNat 64 (w / 2 ^ 0)))
  else none

/-- Major 0x54. -/
noncomputable def dec54 (w : Nat) : Option Instr :=
  if fld w 0 10 = 0 then
    some (.xgeo (Fin.ofNat 8 (w / 2 ^ 29)) (Fin.ofNat 64 (w / 2 ^ 16)) (Fin.ofNat 64 (w / 2 ^ 10)))
  else if fld w 0 4 = 1 ∧ fld w 13 3 = 0 then
    some (.ttest (Fin.ofNat 8 (w / 2 ^ 29)) (Fin.ofNat 64 (w / 2 ^ 16)) (Fin.ofNat 8 (w / 2 ^ 10)) (Fin.ofNat 64 (w / 2 ^ 4)))
  else none

/-- Major 0x55. -/
noncomputable def dec55 (w : Nat) : Option Instr :=
  if fld w 8 14 = 0 then
    some (.twait (Fin.ofNat 8 (w / 2 ^ 29)) (Fin.ofNat 256 (w / 2 ^ 0)))
  else none

/-- Major 0x56. -/
noncomputable def dec56 (w : Nat) : Option Instr :=
  if fld w 0 4 = 0 ∧ fld w 16 6 = 0 then
    some (.spawn (Fin.ofNat 8 (w / 2 ^ 29)) (Fin.ofNat 64 (w / 2 ^ 10)) (Fin.ofNat 64 (w / 2 ^ 4)))
  else if fld w 0 22 = 1 then
    some (.done (Fin.ofNat 8 (w / 2 ^ 29)))
  else if fld w 0 10 = 2 ∧ fld w 16 6 = 0 then
    some (.doneJ (Fin.ofNat 8 (w / 2 ^ 29)) (Fin.ofNat 64 (w / 2 ^ 10)))
  else if fld w 0 10 = 3 then
    some (.launch (Fin.ofNat 8 (w / 2 ^ 29)) (Fin.ofNat 64 (w / 2 ^ 16)) (Fin.ofNat 64 (w / 2 ^ 10)))
  else if fld w 0 22 = 4 then
    some (.yield (Fin.ofNat 8 (w / 2 ^ 29)))
  else none

/-- Major 0x57. -/
noncomputable def dec57 (w : Nat) : Option Instr :=
  if fld w 0 4 = 0 ∧ fld w 16 6 = 0 then
    some (.tspawn (Fin.ofNat 8 (w / 2 ^ 29)) (Fin.ofNat 64 (w / 2 ^ 10)) (Fin.ofNat 64 (w / 2 ^ 4)))
  else if fld w 0 22 = 1 then
    some (.tdone (Fin.ofNat 8 (w / 2 ^ 29)))
  else if fld w 0 4 = 2 ∧ fld w 16 6 = 0 then
    some (.tabort (Fin.ofNat 8 (w / 2 ^ 29)) (Fin.ofNat 64 (w / 2 ^ 10)) (Fin.ofNat 64 (w / 2 ^ 4)))
  else if fld w 0 10 = 3 then
    some (.tfront (Fin.ofNat 8 (w / 2 ^ 29)) (Fin.ofNat 64 (w / 2 ^ 16)) (Fin.ofNat 64 (w / 2 ^ 10)))
  else if fld w 0 4 = 4 ∧ fld w 16 6 = 0 then
    some (.twaitc (Fin.ofNat 8 (w / 2 ^ 29)) (Fin.ofNat 64 (w / 2 ^ 10)) (Fin.ofNat 64 (w / 2 ^ 4)))
  else none

/-- Major 0x58. -/
noncomputable def dec58 (w : Nat) : Option Instr :=
  if fld w 0 10 = 0 then
    some (.xacq (Fin.ofNat 8 (w / 2 ^ 29)) (Fin.ofNat 64 (w / 2 ^ 16)) (Fin.ofNat 64 (w / 2 ^ 10)))
  else if fld w 0 4 = 1 ∧ fld w 16 6 = 0 then
    some (.xadd (Fin.ofNat 8 (w / 2 ^ 29)) (Fin.ofNat 64 (w / 2 ^ 10)) (Fin.ofNat 64 (w / 2 ^ 4)))
  else if fld w 0 10 = 2 then
    some (.xrd (Fin.ofNat 8 (w / 2 ^ 29)) (Fin.ofNat 64 (w / 2 ^ 16)) (Fin.ofNat 64 (w / 2 ^ 10)))
  else if fld w 0 10 = 3 ∧ fld w 16 6 = 0 then
    some (.xrel (Fin.ofNat 8 (w / 2 ^ 29)) (Fin.ofNat 64 (w / 2 ^ 10)))
  else none

/-- Major 0x59. -/
noncomputable def dec59 (w : Nat) : Option Instr :=
  if fld w 12 4 = 0 ∧ fld w 19 3 = 0 then
    some (.pwalk (Fin.ofNat 8 (w / 2 ^ 29)) (Fin.ofNat 8 (w / 2 ^ 16)) (Fin.ofNat 64 (w / 2 ^ 6)) (Fin.ofNat 64 (w / 2 ^ 0)))
  else none

/-- Major 0x5A. -/
noncomputable def dec5A (w : Nat) : Option Instr :=
  if fld w 0 4 = 0 ∧ fld w 16 6 = 0 then
    some (.pfcfg (Fin.ofNat 8 (w / 2 ^ 29)) (Fin.ofNat 64 (w / 2 ^ 10)) (Fin.ofNat 64 (w / 2 ^ 4)))
  else if fld w 0 10 = 1 ∧ fld w 16 6 = 0 then
    some (.pfstop (Fin.ofNat 8 (w / 2 ^ 29)) (Fin.ofNat 64 (w / 2 ^ 10)))
  else none

/-- Major 0x5C. -/
noncomputable def dec5C (w : Nat) : Option Instr :=
  if fld w 10 6 = 0 then
    some (.sysrd (Fin.ofNat 8 (w / 2 ^ 29)) (Fin.ofNat 64 (w / 2 ^ 16)) (Fin.ofNat 1024 (w / 2 ^ 0)))
  else none

/-- Major 0x5D. -/
noncomputable def dec5D (w : Nat) : Option Instr :=
  if fld w 16 6 = 0 then
    some (.syswr (Fin.ofNat 8 (w / 2 ^ 29)) (Fin.ofNat 64 (w / 2 ^ 10)) (Fin.ofNat 1024 (w / 2 ^ 0)))
  else none

/-- Major 0x5E. -/
noncomputable def dec5E (w : Nat) : Option Instr :=
  if fld w 0 10 = 0 ∧ fld w 16 6 = 0 then
    some (.uret (Fin.ofNat 8 (w / 2 ^ 29)) (Fin.ofNat 64 (w / 2 ^ 10)))
  else if fld w 0 22 = 1 then
    some (.tret (Fin.ofNat 8 (w / 2 ^ 29)))
  else if fld w 0 4 = 2 ∧ fld w 19 3 = 0 then
    some (.tlbi (Fin.ofNat 8 (w / 2 ^ 29)) (Fin.ofNat 8 (w / 2 ^ 16)) (Fin.ofNat 64 (w / 2 ^ 10)) (Fin.ofNat 64 (w / 2 ^ 4)))
  else if fld w 0 10 = 3 ∧ fld w 16 6 = 0 then
    some (.snap (Fin.ofNat 8 (w / 2 ^ 29)) (Fin.ofNat 64 (w / 2 ^ 10)))
  else if fld w 0 10 = 4 ∧ fld w 16 6 = 0 then
    some (.freeze (Fin.ofNat 8 (w / 2 ^ 29)) (Fin.ofNat 64 (w / 2 ^ 10)))
  else if fld w 0 10 = 5 ∧ fld w 16 6 = 0 then
    some (.resumef (Fin.ofNat 8 (w / 2 ^ 29)) (Fin.ofNat 64 (w / 2 ^ 10)))
  else none

/-- Major 0x60 to 0x7F. -/
noncomputable def dec60 (w : Nat) : Option Instr :=
  if fld w 0 6 = 0 ∧ fld w 16 3 = 0 then
    some (.mma (Fin.ofNat 8 (w / 2 ^ 29)) (Fin.ofNat 32 (w / 2 ^ 22)) (Fin.ofNat 8 (w / 2 ^ 19)) (Fin.ofNat 2 (w / 2 ^ 15)) (Fin.ofNat 8 (w / 2 ^ 12)) (Fin.ofNat 64 (w / 2 ^ 6)))
  else if fld w 0 6 = 8 ∧ fld w 16 3 = 0 then
    some (.mmaSet (Fin.ofNat 8 (w / 2 ^ 29)) (Fin.ofNat 32 (w / 2 ^ 22)) (Fin.ofNat 8 (w / 2 ^ 19)) (Fin.ofNat 2 (w / 2 ^ 15)) (Fin.ofNat 8 (w / 2 ^ 12)) (Fin.ofNat 64 (w / 2 ^ 6)))
  else if fld w 0 6 = 16 ∧ fld w 16 3 = 0 then
    some (.mmaSub (Fin.ofNat 8 (w / 2 ^ 29)) (Fin.ofNat 32 (w / 2 ^ 22)) (Fin.ofNat 8 (w / 2 ^ 19)) (Fin.ofNat 2 (w / 2 ^ 15)) (Fin.ofNat 8 (w / 2 ^ 12)) (Fin.ofNat 64 (w / 2 ^ 6)))
  else if fld w 0 6 = 24 ∧ fld w 16 3 = 0 then
    some (.mrun (Fin.ofNat 8 (w / 2 ^ 29)) (Fin.ofNat 32 (w / 2 ^ 22)) (Fin.ofNat 8 (w / 2 ^ 19)) (Fin.ofNat 2 (w / 2 ^ 15)) (Fin.ofNat 8 (w / 2 ^ 12)) (Fin.ofNat 64 (w / 2 ^ 6)))
  else if fld w 0 6 = 32 ∧ fld w 16 3 = 0 then
    some (.mrunSet (Fin.ofNat 8 (w / 2 ^ 29)) (Fin.ofNat 32 (w / 2 ^ 22)) (Fin.ofNat 8 (w / 2 ^ 19)) (Fin.ofNat 2 (w / 2 ^ 15)) (Fin.ofNat 8 (w / 2 ^ 12)) (Fin.ofNat 64 (w / 2 ^ 6)))
  else if fld w 0 6 = 40 ∧ fld w 16 3 = 0 then
    some (.mrunSub (Fin.ofNat 8 (w / 2 ^ 29)) (Fin.ofNat 32 (w / 2 ^ 22)) (Fin.ofNat 8 (w / 2 ^ 19)) (Fin.ofNat 2 (w / 2 ^ 15)) (Fin.ofNat 8 (w / 2 ^ 12)) (Fin.ofNat 64 (w / 2 ^ 6)))
  else none

/-- The instruction a word (with the word after it, for its literal) has in the map of R33 and R34, before the checks of
`Instr.wellFormed`. -/
noncomputable def decodeMajor (m w lit : Nat) : Option Instr :=
  if m = 0x00 then dec00 w
  else if m = 0x01 then dec01 w
  else if m = 0x02 then dec02 w
  else if m = 0x03 then dec03 w lit
  else if m = 0x04 then dec04 w lit
  else if m = 0x05 then dec05 w lit
  else if m = 0x06 then dec06 w lit
  else if m = 0x07 then dec07 w
  else if m = 0x08 then dec08 w
  else if m = 0x09 then dec09 w
  else if m = 0x0A then dec0A w
  else if m = 0x0B then dec0B w lit
  else if m = 0x0C then dec0C w lit
  else if m = 0x0D then dec0D w
  else if m = 0x0E then dec0E w
  else if m = 0x0F then dec0F w
  else if m = 0x10 then dec10 w
  else if m = 0x11 then dec11 w
  else if m = 0x12 then dec12 w
  else if m = 0x13 then dec13 w
  else if m = 0x14 then dec14 w
  else if m = 0x15 then dec15 w lit
  else if m = 0x16 then dec16 w lit
  else if m = 0x18 then dec18 w
  else if m = 0x19 then dec19 w
  else if m = 0x1A then dec1A w
  else if m = 0x1B then dec1B w
  else if m = 0x1C then dec1C w lit
  else if m = 0x1D then dec1D w
  else if m = 0x1E then dec1E w
  else if m = 0x1F then dec1F w
  else if m = 0x20 then dec20 w lit
  else if m = 0x21 then dec21 w lit
  else if m = 0x22 then dec22 w lit
  else if m = 0x23 then dec23 w lit
  else if m = 0x24 then dec24 w lit
  else if m = 0x25 then dec25 w lit
  else if m = 0x26 then dec26 w lit
  else if m = 0x27 then dec27 w lit
  else if m = 0x28 then dec28 w lit
  else if m = 0x29 then dec29 w lit
  else if m = 0x2A then dec2A w
  else if m = 0x2B then dec2B w lit
  else if m = 0x2C then dec2C w lit
  else if m = 0x2D then dec2D w
  else if m = 0x2E then dec2E w
  else if m = 0x2F then dec2F w
  else if 0x30 ≤ m ∧ m ≤ 0x32 then dec30 w
  else if m = 0x33 then dec33 w
  else if m = 0x34 then dec34 w
  else if m = 0x35 then dec35 w
  else if m = 0x36 then dec36 w
  else if m = 0x37 then dec37 w
  else if m = 0x38 then dec38 w
  else if m = 0x39 then dec39 w
  else if m = 0x3A then dec3A w
  else if m = 0x3B then dec3B w
  else if m = 0x3C then dec3C w
  else if m = 0x3D then dec3D w
  else if m = 0x3E then dec3E w
  else if m = 0x3F then dec3F w
  else if m = 0x40 then dec40 w
  else if m = 0x41 then dec41 w
  else if m = 0x42 then dec42 w
  else if m = 0x48 then dec48 w
  else if m = 0x49 then dec49 w
  else if m = 0x4A then dec4A w
  else if m = 0x50 then dec50 w
  else if m = 0x51 then dec51 w
  else if m = 0x52 then dec52 w
  else if m = 0x53 then dec53 w
  else if m = 0x54 then dec54 w
  else if m = 0x55 then dec55 w
  else if m = 0x56 then dec56 w
  else if m = 0x57 then dec57 w
  else if m = 0x58 then dec58 w
  else if m = 0x59 then dec59 w
  else if m = 0x5A then dec5A w
  else if m = 0x5C then dec5C w
  else if m = 0x5D then dec5D w
  else if m = 0x5E then dec5E w
  else if 0x60 ≤ m ∧ m ≤ 0x7F then dec60 w
  else none

/-- The instruction of a 32-bit word `w` whose next word is `lit`, or why it has none (R24). -/
noncomputable def decode (w lit : Nat) : Except DecodeError Instr :=
  if w = 0 then .error .zeroWord
  else if unassigned (majorOf w) then .error .unassignedMajor
  else
    match decodeMajor (majorOf w) w lit with
    | some i => if i.wellFormed then .ok i else .error .reserved
    | none => .error .reserved

/-- The instruction of a word of a major below 0x2F, before the checks of `Instr.wellFormed`. -/
def earlyMajor (m w lit : Nat) : Option Instr :=
  if m = 0x00 then dec00 w
  else if m = 0x01 then dec01 w
  else if m = 0x02 then dec02 w
  else if m = 0x03 then dec03 w lit
  else if m = 0x04 then dec04 w lit
  else if m = 0x05 then dec05 w lit
  else if m = 0x06 then dec06 w lit
  else if m = 0x07 then dec07 w
  else if m = 0x08 then dec08 w
  else if m = 0x09 then dec09 w
  else if m = 0x0A then dec0A w
  else if m = 0x0B then dec0B w lit
  else if m = 0x0C then dec0C w lit
  else if m = 0x0D then dec0D w
  else if m = 0x0E then dec0E w
  else if m = 0x0F then dec0F w
  else if m = 0x10 then dec10 w
  else if m = 0x11 then dec11 w
  else if m = 0x12 then dec12 w
  else if m = 0x13 then dec13 w
  else if m = 0x14 then dec14 w
  else if m = 0x15 then dec15 w lit
  else if m = 0x16 then dec16 w lit
  else if m = 0x18 then dec18 w
  else if m = 0x19 then dec19 w
  else if m = 0x1A then dec1A w
  else if m = 0x1B then dec1B w
  else if m = 0x1C then dec1C w lit
  else if m = 0x1D then dec1D w
  else if m = 0x1E then dec1E w
  else if m = 0x1F then dec1F w
  else if m = 0x20 then dec20 w lit
  else if m = 0x21 then dec21 w lit
  else if m = 0x22 then dec22 w lit
  else if m = 0x23 then dec23 w lit
  else if m = 0x24 then dec24 w lit
  else if m = 0x25 then dec25 w lit
  else if m = 0x26 then dec26 w lit
  else if m = 0x27 then dec27 w lit
  else if m = 0x28 then dec28 w lit
  else if m = 0x29 then dec29 w lit
  else if m = 0x2A then dec2A w
  else if m = 0x2B then dec2B w lit
  else if m = 0x2C then dec2C w lit
  else if m = 0x2D then dec2D w
  else if m = 0x2E then dec2E w
  else none

/-- Whether a word of a major from 0x2F up passes the checks of R24, without naming its instruction. -/
def lateFits (m w : Nat) : Bool :=
  if m = 0x2F then
    decide (fld w 0 16 = 0 ∧ 1 ≤ fld w 20 2 ∧ fld w 16 4 < 9 ∨ fld w 0 4 = 1 ∧ fld w 16 6 = 0 ∨
      fld w 0 10 = 2 ∧ fld w 16 6 = 0 ∨ fld w 0 10 = 3 ∧ fld w 16 6 ≤ 1 ∨ fld w 0 16 = 4 ∧ fld w 19 3 = 0 ∨
      (fld w 0 4 = 5 ∨ fld w 0 4 = 6) ∧ fld w 19 3 = 0)
  else if 0x30 ≤ m ∧ m ≤ 0x32 then
    decide (fld w 0 4 ≤ 10)
  else if m = 0x33 then
    decide (fld w 0 4 ≤ 5)
  else if m = 0x34 then
    decide (fld w 0 4 ≤ 5)
  else if m = 0x35 then
    decide (fld w 0 4 ≤ 5)
  else if m = 0x36 then
    decide (fld w 20 2 = 0 ∧ (if fld w 3 1 = 0 then fld w 0 3 < 6 else fld w 0 3 ≠ 4 ∧ fld w 0 3 ≠ 5 ∧ fld w 0 3 ≠ 7))
  else if m = 0x37 then
    decide (fld w 0 4 ≤ 1 ∨ fld w 0 4 = 2 ∧ fld w 17 5 % 2 = 0 ∧ fld w 17 5 ≤ 28 ∨ (fld w 0 4 = 3 ∨
      fld w 0 4 = 4) ∧ fld w 7 5 = 0)
  else if m = 0x38 then
    decide (fld w 0 3 ≤ 2 ∧ fld w 12 5 = 0 ∨ fld w 0 3 = 3 ∨ fld w 0 3 = 4 ∧ fld w 17 5 = 0 ∨
      fld w 0 3 = 5 ∧ fld w 17 5 < 3 ∨ fld w 0 6 = 6 ∧ fld w 17 5 = 0)
  else if m = 0x39 then
    decide (fld w 0 3 = 0 ∧ fld w 12 5 = 0 ∨ fld w 0 3 = 1 ∧ fld w 17 5 = 0 ∨
      fld w 0 6 = 2 ∧ fld w 12 5 = 0 ∧ fld w 20 2 = 0 ∨ fld w 0 6 = 3 ∧ fld w 15 7 = 0)
  else if m = 0x3A then
    decide (fld w 0 5 < 20)
  else if m = 0x3B then
    decide (fld w 0 5 < 20)
  else if m = 0x3C then
    decide (fld w 3 2 = 0)
  else if m = 0x3D then
    true
  else if m = 0x3E then
    decide (fld w 0 5 < 16 ∨ 20 ≤ fld w 0 5 ∨ fld w 9 3 = 0)
  else if m = 0x3F then
    true
  else if m = 0x40 then
    decide (fld w 0 2 ≤ 1 ∨ fld w 0 19 = 2 ∨ fld w 0 19 = 3)
  else if m = 0x41 then
    decide (fld w 0 16 = 0 ∧ fld w 19 3 = 0 ∨ fld w 0 16 = 1 ∧ fld w 19 3 = 0)
  else if m = 0x42 then
    decide (fld w 16 6 = 0 ∨ fld w 12 4 = 0 ∧ fld w 19 3 = 1 ∨ fld w 12 4 = 0 ∧ fld w 19 3 = 2 ∨
      fld w 12 4 = 0 ∧ fld w 19 3 = 3 ∨ fld w 16 6 = 32)
  else if m = 0x48 then
    decide (fld w 12 4 = 0 ∧ fld w 19 3 = 0 ∨ fld w 0 22 = 524288)
  else if m = 0x49 then
    decide (fld w 0 10 = 0 ∨ fld w 0 10 = 1 ∨ fld w 0 10 = 2 ∨ fld w 0 16 = 3 ∧ fld w 19 3 = 0)
  else if m = 0x4A then
    decide (fld w 12 4 = 0 ∧ fld w 19 3 = 0 ∨ fld w 12 4 = 0 ∧ fld w 19 3 = 1 ∨ fld w 19 3 = 2)
  else if m = 0x50 then
    decide (fld w 0 4 = 0 ∧ fld w 16 6 = 0 ∨ fld w 0 4 = 1 ∧ fld w 16 6 = 0 ∨ fld w 0 10 = 2 ∧ fld w 16 6 = 0 ∨
      fld w 0 10 = 3 ∧ fld w 16 6 = 0 ∨ fld w 0 4 = 4 ∨ fld w 0 4 = 5 ∧ fld w 16 6 = 0 ∨
      fld w 0 4 = 6 ∧ fld w 16 6 = 0)
  else if m = 0x51 then
    decide (fld w 0 4 = 0 ∧ fld w 16 6 = 0 ∨ fld w 0 10 = 1 ∧ fld w 16 6 = 0)
  else if m = 0x52 then
    decide (fld w 0 4 = 0 ∧ fld w 16 6 = 0 ∨ fld w 0 10 = 1 ∧ fld w 16 6 = 0 ∨ fld w 0 10 = 2)
  else if m = 0x53 then
    decide (fld w 12 4 = 0 ∧ fld w 19 3 = 0 ∨ fld w 6 16 = 8192)
  else if m = 0x54 then
    decide (fld w 0 10 = 0 ∨ fld w 0 4 = 1 ∧ fld w 13 3 = 0)
  else if m = 0x55 then
    decide (fld w 8 14 = 0)
  else if m = 0x56 then
    decide (fld w 0 4 = 0 ∧ fld w 16 6 = 0 ∨ fld w 0 22 = 1 ∨ fld w 0 10 = 2 ∧ fld w 16 6 = 0 ∨ fld w 0 10 = 3 ∨
      fld w 0 22 = 4)
  else if m = 0x57 then
    decide (fld w 0 4 = 0 ∧ fld w 16 6 = 0 ∨ fld w 0 22 = 1 ∨ fld w 0 4 = 2 ∧ fld w 16 6 = 0 ∨ fld w 0 10 = 3 ∨
      fld w 0 4 = 4 ∧ fld w 16 6 = 0)
  else if m = 0x58 then
    decide (fld w 0 10 = 0 ∨ fld w 0 4 = 1 ∧ fld w 16 6 = 0 ∨ fld w 0 10 = 2 ∨ fld w 0 10 = 3 ∧ fld w 16 6 = 0)
  else if m = 0x59 then
    decide (fld w 12 4 = 0 ∧ fld w 19 3 = 0)
  else if m = 0x5A then
    decide (fld w 0 4 = 0 ∧ fld w 16 6 = 0 ∨ fld w 0 10 = 1 ∧ fld w 16 6 = 0)
  else if m = 0x5C then
    decide (fld w 10 6 = 0)
  else if m = 0x5D then
    decide (fld w 16 6 = 0)
  else if m = 0x5E then
    decide (fld w 0 10 = 0 ∧ fld w 16 6 = 0 ∨ fld w 0 22 = 1 ∨ fld w 0 4 = 2 ∧ fld w 19 3 = 0 ∨
      fld w 0 10 = 3 ∧ fld w 16 6 = 0 ∨ fld w 0 10 = 4 ∧ fld w 16 6 = 0 ∨ fld w 0 10 = 5 ∧ fld w 16 6 = 0)
  else if 0x60 ≤ m ∧ m ≤ 0x7F then
    decide (fld w 0 6 % 8 = 0 ∧ fld w 0 6 ≤ 40 ∧ fld w 16 3 = 0)
  else false

/-- Whether a word decodes, whatever its literal (R24). -/
def fits (w : Nat) : Bool :=
  w != 0 && !unassigned (majorOf w) &&
    (if majorOf w < 0x2F then (earlyMajor (majorOf w) w 0).any Instr.wellFormed else lateFits (majorOf w) w)

/-- A little-endian word of four bytes (R10, R18). -/
def wordOfBytes (a b c d : Byte) : Nat := a.toNat + 2 ^ 8 * b.toNat + 2 ^ 16 * c.toNat + 2 ^ 24 * d.toNat

/-- The next instruction of a string of bytes, with the bytes after it; its literal is the next word (R22, R23). -/
noncomputable def decodeBytes : List Byte → Except DecodeError (Instr × List Byte)
  | a :: b :: c :: d :: rest =>
    let w := wordOfBytes a b c d
    if hasLiteral w then
      match rest with
      | e :: f :: g :: h :: rest' => (decode w (wordOfBytes e f g h)).map (fun i => (i, rest'))
      | _ => .error .tooShort
    else (decode w 0).map (fun i => (i, rest))
  | _ => .error .tooShort

/-- The four bytes of a word, lowest address first (R18). -/
def bytesOfWord (w : Nat) : List Byte :=
  [BitVec.ofNat 8 w, BitVec.ofNat 8 (w / 2 ^ 8), BitVec.ofNat 8 (w / 2 ^ 16), BitVec.ofNat 8 (w / 2 ^ 24)]

/-- The instruction whose bits are `w`, the first word lowest; bits above `nbits` are 0. -/
noncomputable def decodeTableWord (nbits w : Nat) : Option Instr :=
  let v := w % 2 ^ nbits
  match decodeBytes (bytesOfWord (v % 2 ^ 32) ++ bytesOfWord (v / 2 ^ 32 % 2 ^ 32)) with
  | .ok (i, _) => some i
  | .error _ => none

/-- A word from its fixed bits and its fields, each at its lowest bit. -/
def pack (fixed : Nat) (fields : List (Nat × Nat)) : Nat := fields.foldl (fun x f => x + f.1 * 2 ^ f.2) fixed

/-- The words of an instruction: its word, and its literal where it has one. An event has no words. -/
def encode : Instr → List Nat
  -- scalar integer (03 R69-R76)
  | .add g d a b => [pack 0x00000000 [(g.val, 29), (d.val, 16), (a.val, 10), (b.val, 4)]]
  | .sub g d a b => [pack 0x00000001 [(g.val, 29), (d.val, 16), (a.val, 10), (b.val, 4)]]
  | .and g d a b => [pack 0x00000002 [(g.val, 29), (d.val, 16), (a.val, 10), (b.val, 4)]]
  | .or g d a b => [pack 0x00000003 [(g.val, 29), (d.val, 16), (a.val, 10), (b.val, 4)]]
  | .xor g d a b => [pack 0x00000004 [(g.val, 29), (d.val, 16), (a.val, 10), (b.val, 4)]]
  | .andn g d a b => [pack 0x00000005 [(g.val, 29), (d.val, 16), (a.val, 10), (b.val, 4)]]
  | .sll g d a b => [pack 0x00000006 [(g.val, 29), (d.val, 16), (a.val, 10), (b.val, 4)]]
  | .srl g d a b => [pack 0x00000007 [(g.val, 29), (d.val, 16), (a.val, 10), (b.val, 4)]]
  | .sra g d a b => [pack 0x00000008 [(g.val, 29), (d.val, 16), (a.val, 10), (b.val, 4)]]
  | .rot g d a b => [pack 0x00000009 [(g.val, 29), (d.val, 16), (a.val, 10), (b.val, 4)]]
  | .min g d a b => [pack 0x0000000A [(g.val, 29), (d.val, 16), (a.val, 10), (b.val, 4)]]
  | .max g d a b => [pack 0x0000000B [(g.val, 29), (d.val, 16), (a.val, 10), (b.val, 4)]]
  | .mul g d a b => [pack 0x00400000 [(g.val, 29), (d.val, 16), (a.val, 10), (b.val, 4)]]
  | .mulh g d a b => [pack 0x00400001 [(g.val, 29), (d.val, 16), (a.val, 10), (b.val, 4)]]
  | .mulhU g d a b => [pack 0x00400002 [(g.val, 29), (d.val, 16), (a.val, 10), (b.val, 4)]]
  | .div g d a b => [pack 0x00400003 [(g.val, 29), (d.val, 16), (a.val, 10), (b.val, 4)]]
  | .divU g d a b => [pack 0x00400004 [(g.val, 29), (d.val, 16), (a.val, 10), (b.val, 4)]]
  | .rem g d a b => [pack 0x00400005 [(g.val, 29), (d.val, 16), (a.val, 10), (b.val, 4)]]
  | .remU g d a b => [pack 0x00400006 [(g.val, 29), (d.val, 16), (a.val, 10), (b.val, 4)]]
  | .clz g d a => [pack 0x00800000 [(g.val, 29), (d.val, 16), (a.val, 10)]]
  | .popc g d a => [pack 0x00800001 [(g.val, 29), (d.val, 16), (a.val, 10)]]
  | .mov g d a => [pack 0x00800002 [(g.val, 29), (d.val, 16), (a.val, 10)]]
  | .sextB g d a => [pack 0x00800003 [(g.val, 29), (d.val, 16), (a.val, 10)]]
  | .sextH g d a => [pack 0x00800004 [(g.val, 29), (d.val, 16), (a.val, 10)]]
  | .sextW g d a => [pack 0x00800005 [(g.val, 29), (d.val, 16), (a.val, 10)]]
  | .zextB g d a => [pack 0x00800006 [(g.val, 29), (d.val, 16), (a.val, 10)]]
  | .zextH g d a => [pack 0x00800007 [(g.val, 29), (d.val, 16), (a.val, 10)]]
  | .zextW g d a => [pack 0x00800008 [(g.val, 29), (d.val, 16), (a.val, 10)]]
  | .addImm g d a i => [pack 0x00C00000 [(g.val, 29), (d.val, 16), (a.val, 10), (i.toNat, 0)]]
  | .addImmLiteral g d a lit => [pack 0x00C00200 [(g.val, 29), (d.val, 16), (a.val, 10)], lit.toNat]
  | .andImm g d a i => [pack 0x01000000 [(g.val, 29), (d.val, 16), (a.val, 10), (i.toNat, 0)]]
  | .andImmLiteral g d a lit => [pack 0x01000200 [(g.val, 29), (d.val, 16), (a.val, 10)], lit.toNat]
  | .orImm g d a i => [pack 0x01400000 [(g.val, 29), (d.val, 16), (a.val, 10), (i.toNat, 0)]]
  | .orImmLiteral g d a lit => [pack 0x01400200 [(g.val, 29), (d.val, 16), (a.val, 10)], lit.toNat]
  | .xorImm g d a i => [pack 0x01800000 [(g.val, 29), (d.val, 16), (a.val, 10), (i.toNat, 0)]]
  | .xorImmLiteral g d a lit => [pack 0x01800200 [(g.val, 29), (d.val, 16), (a.val, 10)], lit.toNat]
  | .sllImm g d a i => [pack 0x01C00000 [(g.val, 29), (d.val, 16), (a.val, 10), (i.toNat, 0)]]
  | .srlImm g d a i => [pack 0x02000000 [(g.val, 29), (d.val, 16), (a.val, 10), (i.toNat, 0)]]
  | .sraImm g d a i => [pack 0x02400000 [(g.val, 29), (d.val, 16), (a.val, 10), (i.toNat, 0)]]
  | .rotImm g d a i => [pack 0x02800000 [(g.val, 29), (d.val, 16), (a.val, 10), (i.toNat, 0)]]
  | .li g d i => [pack 0x02C00000 [(g.val, 29), (d.val, 16), (i.toNat, 0)]]
  | .liLiteral g d lit => [pack 0x02C00200 [(g.val, 29), (d.val, 16)], lit.toNat]
  | .cmpi g c h a i => [pack 0x03000000 [(g.val, 29), (c.val, 19), (h.val, 16), (a.val, 10), (i.toNat, 0)]]
  | .cmpiLiteral g c h a lit => [pack 0x03000200 [(g.val, 29), (c.val, 19), (h.val, 16), (a.val, 10)], lit.toNat]
  | .cmp g c h a b => [pack 0x03400000 [(g.val, 29), (c.val, 19), (h.val, 16), (a.val, 10), (b.val, 4)]]
  | .cmpAnd g c h a b => [pack 0x03400001 [(g.val, 29), (c.val, 19), (h.val, 16), (a.val, 10), (b.val, 4)]]
  | .cmpOr g c h a b => [pack 0x03400002 [(g.val, 29), (c.val, 19), (h.val, 16), (a.val, 10), (b.val, 4)]]
  | .gnot g h j => [pack 0x03800000 [(g.val, 29), (h.val, 16), (j.val, 10)]]
  | .gand g h j k => [pack 0x03800001 [(g.val, 29), (h.val, 16), (j.val, 10), (k.val, 4)]]
  | .gor g h j k => [pack 0x03800002 [(g.val, 29), (h.val, 16), (j.val, 10), (k.val, 4)]]
  | .sel g d a b h => [pack 0x03C00000 [(g.val, 29), (d.val, 16), (a.val, 10), (b.val, 4), (h.val, 0)]]
  -- scalar floating point (03 R77-R80)
  | .fadd g d a b => [pack 0x04000000 [(g.val, 29), (d.val, 16), (a.val, 10), (b.val, 4)]]
  | .fsub g d a b => [pack 0x04000001 [(g.val, 29), (d.val, 16), (a.val, 10), (b.val, 4)]]
  | .fmul g d a b => [pack 0x04000002 [(g.val, 29), (d.val, 16), (a.val, 10), (b.val, 4)]]
  | .fdiv g d a b => [pack 0x04000003 [(g.val, 29), (d.val, 16), (a.val, 10), (b.val, 4)]]
  | .fmin g d a b => [pack 0x04000004 [(g.val, 29), (d.val, 16), (a.val, 10), (b.val, 4)]]
  | .fmax g d a b => [pack 0x04000005 [(g.val, 29), (d.val, 16), (a.val, 10), (b.val, 4)]]
  | .fsqrt g d a => [pack 0x04000006 [(g.val, 29), (d.val, 16), (a.val, 10)]]
  | .ffma g d a b => [pack 0x04400000 [(g.val, 29), (d.val, 16), (a.val, 10), (b.val, 4)]]
  | .ffmaN g d a b => [pack 0x04400001 [(g.val, 29), (d.val, 16), (a.val, 10), (b.val, 4)]]
  | .fcmp g c h a b => [pack 0x04800000 [(g.val, 29), (c.val, 19), (h.val, 16), (a.val, 10), (b.val, 4)]]
  | .fcvtF32I64 g d a => [pack 0x04C00000 [(g.val, 29), (d.val, 16), (a.val, 10)]]
  | .fcvtF32U64 g d a => [pack 0x04C00001 [(g.val, 29), (d.val, 16), (a.val, 10)]]
  | .fcvtI64F32 g d a => [pack 0x04C00002 [(g.val, 29), (d.val, 16), (a.val, 10)]]
  | .fcvtU64F32 g d a => [pack 0x04C00003 [(g.val, 29), (d.val, 16), (a.val, 10)]]
  | .fcvtBf16F32 g d a => [pack 0x04C00004 [(g.val, 29), (d.val, 16), (a.val, 10)]]
  | .fcvtF16F32 g d a => [pack 0x04C00005 [(g.val, 29), (d.val, 16), (a.val, 10)]]
  | .fcvtF32Bf16 g d a => [pack 0x04C00006 [(g.val, 29), (d.val, 16), (a.val, 10)]]
  | .fcvtF32F16 g d a => [pack 0x04C00007 [(g.val, 29), (d.val, 16), (a.val, 10)]]
  -- capabilities (03 R82-R89)
  | .cbnd g d a b => [pack 0x05000000 [(g.val, 29), (d.val, 16), (a.val, 10), (b.val, 4)]]
  | .cinc g d a b => [pack 0x05000001 [(g.val, 29), (d.val, 16), (a.val, 10), (b.val, 4)]]
  | .caddr g d a b => [pack 0x05000002 [(g.val, 29), (d.val, 16), (a.val, 10), (b.val, 4)]]
  | .cperm g d a b => [pack 0x05000003 [(g.val, 29), (d.val, 16), (a.val, 10), (b.val, 4)]]
  | .ctagc g d a => [pack 0x05000004 [(g.val, 29), (d.val, 16), (a.val, 10)]]
  | .cgetBase g d a => [pack 0x05000005 [(g.val, 29), (d.val, 16), (a.val, 10)]]
  | .cgetTop g d a => [pack 0x05000006 [(g.val, 29), (d.val, 16), (a.val, 10)]]
  | .cgetLen g d a => [pack 0x05000007 [(g.val, 29), (d.val, 16), (a.val, 10)]]
  | .cgetPerm g d a => [pack 0x05000008 [(g.val, 29), (d.val, 16), (a.val, 10)]]
  | .cgetTag g d a => [pack 0x05000009 [(g.val, 29), (d.val, 16), (a.val, 10)]]
  | .cincImm g d a i => [pack 0x05400000 [(g.val, 29), (d.val, 16), (a.val, 10), (i.toNat, 0)]]
  | .cincImmLiteral g d a lit => [pack 0x05400200 [(g.val, 29), (d.val, 16), (a.val, 10)], lit.toNat]
  | .cbndImm g d a i => [pack 0x05800000 [(g.val, 29), (d.val, 16), (a.val, 10), (i.toNat, 0)]]
  | .cbndImmLiteral g d a lit => [pack 0x05800200 [(g.val, 29), (d.val, 16), (a.val, 10)], lit.toNat]
  -- control (03 R90-R98)
  | .j g o => [pack 0x06000000 [(g.val, 29), (o.val, 0)]]
  | .call g o => [pack 0x06400000 [(g.val, 29), (o.val, 0)]]
  | .jr g a => [pack 0x06800000 [(g.val, 29), (a.val, 10)]]
  | .ret g => [pack 0x06800001 [(g.val, 29)]]
  | .bgF g h o => [pack 0x06C00000 [(g.val, 29), (h.val, 19), (o.val, 0)]]
  | .bgT g h o => [pack 0x06C40000 [(g.val, 29), (h.val, 19), (o.val, 0)]]
  | .rep g l i => [pack 0x07000000 [(g.val, 29), (l.val, 16), (i.toNat, 0)]]
  | .repLiteral g l lit => [pack 0x07000200 [(g.val, 29), (l.val, 16)], lit.toNat]
  | .repReg g l a => [pack 0x07000000 [(g.val, 29), (l.val, 16), (a.val, 10)]]
  | .nop g => [pack 0x07400000 [(g.val, 29)]]
  | .trap g i => [pack 0x07800000 [(g.val, 29), (i.val, 0)]]
  | .suspend g a b => [pack 0x07C00000 [(g.val, 29), (a.val, 10), (b.val, 4)]]
  | .hend g => [pack 0x07C00001 [(g.val, 29)]]
  -- scalar memory accesses (04 R107-R110)
  | .ldB g d b l o => [pack 0x08000000 [(g.val, 29), (d.val, 16), (b.val, 10), (l.val, 6), (o.val, 0)]]
  | .ldBLiteral g d b l lit => [pack 0x08000020 [(g.val, 29), (d.val, 16), (b.val, 10), (l.val, 6)], lit.toNat]
  | .ldH g d b l o => [pack 0x08400000 [(g.val, 29), (d.val, 16), (b.val, 10), (l.val, 6), (o.val, 0)]]
  | .ldHLiteral g d b l lit => [pack 0x08400020 [(g.val, 29), (d.val, 16), (b.val, 10), (l.val, 6)], lit.toNat]
  | .ldW g d b l o => [pack 0x08800000 [(g.val, 29), (d.val, 16), (b.val, 10), (l.val, 6), (o.val, 0)]]
  | .ldWLiteral g d b l lit => [pack 0x08800020 [(g.val, 29), (d.val, 16), (b.val, 10), (l.val, 6)], lit.toNat]
  | .ldD g d b l o => [pack 0x08C00000 [(g.val, 29), (d.val, 16), (b.val, 10), (l.val, 6), (o.val, 0)]]
  | .ldDLiteral g d b l lit => [pack 0x08C00020 [(g.val, 29), (d.val, 16), (b.val, 10), (l.val, 6)], lit.toNat]
  | .ldQ g d b l o => [pack 0x09000000 [(g.val, 29), (d.val, 16), (b.val, 10), (l.val, 6), (o.val, 0)]]
  | .ldQLiteral g d b l lit => [pack 0x09000020 [(g.val, 29), (d.val, 16), (b.val, 10), (l.val, 6)], lit.toNat]
  | .stB g s b o => [pack 0x09400000 [(g.val, 29), (s.val, 16), (b.val, 10), (o.val, 0)]]
  | .stBLiteral g s b lit => [pack 0x09400020 [(g.val, 29), (s.val, 16), (b.val, 10)], lit.toNat]
  | .stH g s b o => [pack 0x09400040 [(g.val, 29), (s.val, 16), (b.val, 10), (o.val, 0)]]
  | .stHLiteral g s b lit => [pack 0x09400060 [(g.val, 29), (s.val, 16), (b.val, 10)], lit.toNat]
  | .stW g s b o => [pack 0x09400080 [(g.val, 29), (s.val, 16), (b.val, 10), (o.val, 0)]]
  | .stWLiteral g s b lit => [pack 0x094000A0 [(g.val, 29), (s.val, 16), (b.val, 10)], lit.toNat]
  | .stD g s b o => [pack 0x094000C0 [(g.val, 29), (s.val, 16), (b.val, 10), (o.val, 0)]]
  | .stDLiteral g s b lit => [pack 0x094000E0 [(g.val, 29), (s.val, 16), (b.val, 10)], lit.toNat]
  | .stQ g s b o => [pack 0x09400100 [(g.val, 29), (s.val, 16), (b.val, 10), (o.val, 0)]]
  | .stQLiteral g s b lit => [pack 0x09400120 [(g.val, 29), (s.val, 16), (b.val, 10)], lit.toNat]
  | .ldc g d b l o => [pack 0x09800000 [(g.val, 29), (d.val, 16), (b.val, 10), (l.val, 6), (o.val, 0)]]
  | .ldcLiteral g d b l lit => [pack 0x09800020 [(g.val, 29), (d.val, 16), (b.val, 10), (l.val, 6)], lit.toNat]
  | .stc g s b o => [pack 0x09C00000 [(g.val, 29), (s.val, 16), (b.val, 10), (o.val, 0)]]
  | .stcLiteral g s b lit => [pack 0x09C00020 [(g.val, 29), (s.val, 16), (b.val, 10)], lit.toNat]
  | .ldq g n b o => [pack 0x0A000000 [(g.val, 29), (n.val, 16), (b.val, 10), (o.val, 0)]]
  | .ldqLiteral g n b lit => [pack 0x0A000020 [(g.val, 29), (n.val, 16), (b.val, 10)], lit.toNat]
  | .stq g n b o => [pack 0x0A400000 [(g.val, 29), (n.val, 16), (b.val, 10), (o.val, 0)]]
  | .stqLiteral g n b lit => [pack 0x0A400020 [(g.val, 29), (n.val, 16), (b.val, 10)], lit.toNat]
  | .ldm g d a n => [pack 0x0A800000 [(g.val, 29), (d.val, 16), (a.val, 10), (n.val, 4)]]
  | .stm g d a n => [pack 0x0A800001 [(g.val, 29), (d.val, 16), (a.val, 10), (n.val, 4)]]
  -- vector accesses (04 R111, R112)
  | .vld g d b l o => [pack 0x0AC00000 [(g.val, 29), (d.val, 16), (b.val, 10), (l.val, 6), (o.val, 0)]]
  | .vldLiteral g d b l lit => [pack 0x0AC00020 [(g.val, 29), (d.val, 16), (b.val, 10), (l.val, 6)], lit.toNat]
  | .vst g s b m o => [pack 0x0B000000 [(g.val, 29), (s.val, 16), (b.val, 10), (m.val, 6), (o.val, 0)]]
  | .vstLiteral g s b m lit => [pack 0x0B000020 [(g.val, 29), (s.val, 16), (b.val, 10), (m.val, 6)], lit.toNat]
  | .vlds g d a b m => [pack 0x0B400000 [(g.val, 29), (d.val, 16), (a.val, 10), (b.val, 4), (m.val, 2)]]
  | .vldx g d a b m => [pack 0x0B400001 [(g.val, 29), (d.val, 16), (a.val, 10), (b.val, 4), (m.val, 2)]]
  | .vsts g d a b m => [pack 0x0B400002 [(g.val, 29), (d.val, 16), (a.val, 10), (b.val, 4), (m.val, 2)]]
  | .vstx g d a b m => [pack 0x0B400003 [(g.val, 29), (d.val, 16), (a.val, 10), (b.val, 4), (m.val, 2)]]
  -- atomics, fences and moves (04 R113-R121)
  | .amoAdd g d a b => [pack 0x0B800000 [(g.val, 29), (d.val, 16), (a.val, 10), (b.val, 4)]]
  | .amoAnd g d a b => [pack 0x0B800001 [(g.val, 29), (d.val, 16), (a.val, 10), (b.val, 4)]]
  | .amoOr g d a b => [pack 0x0B800002 [(g.val, 29), (d.val, 16), (a.val, 10), (b.val, 4)]]
  | .amoXor g d a b => [pack 0x0B800003 [(g.val, 29), (d.val, 16), (a.val, 10), (b.val, 4)]]
  | .amoMin g d a b => [pack 0x0B800004 [(g.val, 29), (d.val, 16), (a.val, 10), (b.val, 4)]]
  | .amoMax g d a b => [pack 0x0B800005 [(g.val, 29), (d.val, 16), (a.val, 10), (b.val, 4)]]
  | .amoMinu g d a b => [pack 0x0B800006 [(g.val, 29), (d.val, 16), (a.val, 10), (b.val, 4)]]
  | .amoMaxu g d a b => [pack 0x0B800007 [(g.val, 29), (d.val, 16), (a.val, 10), (b.val, 4)]]
  | .amoSwap g d a b => [pack 0x0B800008 [(g.val, 29), (d.val, 16), (a.val, 10), (b.val, 4)]]
  | .amoCas g d a b => [pack 0x0B800009 [(g.val, 29), (d.val, 16), (a.val, 10), (b.val, 4)]]
  | .amoFadd g d a b => [pack 0x0B80000A [(g.val, 29), (d.val, 16), (a.val, 10), (b.val, 4)]]
  | .fenceAcq g s => [pack 0x0BD00000 [(g.val, 29), (s.val, 16)]]
  | .fenceRel g s => [pack 0x0BE00000 [(g.val, 29), (s.val, 16)]]
  | .fenceAr g s => [pack 0x0BF00000 [(g.val, 29), (s.val, 16)]]
  | .afence g a b => [pack 0x0BC00001 [(g.val, 29), (a.val, 10), (b.val, 4)]]
  | .pfx g a => [pack 0x0BC00002 [(g.val, 29), (a.val, 10)]]
  | .touch g a => [pack 0x0BC00003 [(g.val, 29), (a.val, 10)]]
  | .touchW g a => [pack 0x0BC10003 [(g.val, 29), (a.val, 10)]]
  | .bar g n => [pack 0x0BC00004 [(g.val, 29), (n.val, 16)]]
  | .get g k a b => [pack 0x0BC00005 [(g.val, 29), (k.val, 16), (a.val, 10), (b.val, 4)]]
  | .give g k a b => [pack 0x0BC00006 [(g.val, 29), (k.val, 16), (a.val, 10), (b.val, 4)]]
  -- vector (05)
  | .vaddInt g w d a b m => [pack 0x0C000000 [(g.val, 29), (w.val, 22), (d.val, 17), (a.val, 12), (b.val, 7), (m.val, 4)]]
  | .vsubInt g w d a b m => [pack 0x0C000001 [(g.val, 29), (w.val, 22), (d.val, 17), (a.val, 12), (b.val, 7), (m.val, 4)]]
  | .vmulInt g w d a b m => [pack 0x0C000002 [(g.val, 29), (w.val, 22), (d.val, 17), (a.val, 12), (b.val, 7), (m.val, 4)]]
  | .vminInt g w d a b m => [pack 0x0C000003 [(g.val, 29), (w.val, 22), (d.val, 17), (a.val, 12), (b.val, 7), (m.val, 4)]]
  | .vmaxInt g w d a b m => [pack 0x0C000004 [(g.val, 29), (w.val, 22), (d.val, 17), (a.val, 12), (b.val, 7), (m.val, 4)]]
  | .vand g w d a b m => [pack 0x0C000005 [(g.val, 29), (w.val, 22), (d.val, 17), (a.val, 12), (b.val, 7), (m.val, 4)]]
  | .vor g w d a b m => [pack 0x0C000006 [(g.val, 29), (w.val, 22), (d.val, 17), (a.val, 12), (b.val, 7), (m.val, 4)]]
  | .vxor g w d a b m => [pack 0x0C000007 [(g.val, 29), (w.val, 22), (d.val, 17), (a.val, 12), (b.val, 7), (m.val, 4)]]
  | .vshl g w d a b m => [pack 0x0C000008 [(g.val, 29), (w.val, 22), (d.val, 17), (a.val, 12), (b.val, 7), (m.val, 4)]]
  | .vshr g w d a b m => [pack 0x0C000009 [(g.val, 29), (w.val, 22), (d.val, 17), (a.val, 12), (b.val, 7), (m.val, 4)]]
  | .vshrA g w d a b m => [pack 0x0C00000A [(g.val, 29), (w.val, 22), (d.val, 17), (a.val, 12), (b.val, 7), (m.val, 4)]]
  | .vaddF32 g d a b m => [pack 0x0CC00000 [(g.val, 29), (d.val, 17), (a.val, 12), (b.val, 7), (m.val, 4)]]
  | .vsubF32 g d a b m => [pack 0x0CC00001 [(g.val, 29), (d.val, 17), (a.val, 12), (b.val, 7), (m.val, 4)]]
  | .vmulF32 g d a b m => [pack 0x0CC00002 [(g.val, 29), (d.val, 17), (a.val, 12), (b.val, 7), (m.val, 4)]]
  | .vminF32 g d a b m => [pack 0x0CC00003 [(g.val, 29), (d.val, 17), (a.val, 12), (b.val, 7), (m.val, 4)]]
  | .vmaxF32 g d a b m => [pack 0x0CC00004 [(g.val, 29), (d.val, 17), (a.val, 12), (b.val, 7), (m.val, 4)]]
  | .vfmaF32 g d a b m => [pack 0x0CC00005 [(g.val, 29), (d.val, 17), (a.val, 12), (b.val, 7), (m.val, 4)]]
  | .vaddF16 g d a b m => [pack 0x0D000000 [(g.val, 29), (d.val, 17), (a.val, 12), (b.val, 7), (m.val, 4)]]
  | .vsubF16 g d a b m => [pack 0x0D000001 [(g.val, 29), (d.val, 17), (a.val, 12), (b.val, 7), (m.val, 4)]]
  | .vmulF16 g d a b m => [pack 0x0D000002 [(g.val, 29), (d.val, 17), (a.val, 12), (b.val, 7), (m.val, 4)]]
  | .vminF16 g d a b m => [pack 0x0D000003 [(g.val, 29), (d.val, 17), (a.val, 12), (b.val, 7), (m.val, 4)]]
  | .vmaxF16 g d a b m => [pack 0x0D000004 [(g.val, 29), (d.val, 17), (a.val, 12), (b.val, 7), (m.val, 4)]]
  | .vfmaF16 g d a b m => [pack 0x0D000005 [(g.val, 29), (d.val, 17), (a.val, 12), (b.val, 7), (m.val, 4)]]
  | .vaddBf16 g d a b m => [pack 0x0D400000 [(g.val, 29), (d.val, 17), (a.val, 12), (b.val, 7), (m.val, 4)]]
  | .vsubBf16 g d a b m => [pack 0x0D400001 [(g.val, 29), (d.val, 17), (a.val, 12), (b.val, 7), (m.val, 4)]]
  | .vmulBf16 g d a b m => [pack 0x0D400002 [(g.val, 29), (d.val, 17), (a.val, 12), (b.val, 7), (m.val, 4)]]
  | .vminBf16 g d a b m => [pack 0x0D400003 [(g.val, 29), (d.val, 17), (a.val, 12), (b.val, 7), (m.val, 4)]]
  | .vmaxBf16 g d a b m => [pack 0x0D400004 [(g.val, 29), (d.val, 17), (a.val, 12), (b.val, 7), (m.val, 4)]]
  | .vfmaBf16 g d a b m => [pack 0x0D400005 [(g.val, 29), (d.val, 17), (a.val, 12), (b.val, 7), (m.val, 4)]]
  | .vcmp g d a b m t c => [pack 0x0D800000 [(g.val, 29), (d.val, 17), (a.val, 12), (b.val, 7), (m.val, 4), (t.val, 3), (c.val, 0)]]
  | .vsel g d a b m => [pack 0x0DC00000 [(g.val, 29), (d.val, 17), (a.val, 12), (b.val, 7), (m.val, 4)]]
  | .vperm g d a b m => [pack 0x0DC00001 [(g.val, 29), (d.val, 17), (a.val, 12), (b.val, 7), (m.val, 4)]]
  | .vmerge g d a b o => [pack 0x0DC00002 [(g.val, 29), (d.val, 17), (a.val, 12), (b.val, 7), (o.val, 4)]]
  | .vcomp g d a m => [pack 0x0DC00003 [(g.val, 29), (d.val, 17), (a.val, 12), (m.val, 4)]]
  | .vexpd g d a m => [pack 0x0DC00004 [(g.val, 29), (d.val, 17), (a.val, 12), (m.val, 4)]]
  | .vbcast g d c m => [pack 0x0E000000 [(g.val, 29), (d.val, 17), (c.val, 6), (m.val, 3)]]
  | .vrnd g d c m => [pack 0x0E000001 [(g.val, 29), (d.val, 17), (c.val, 6), (m.val, 3)]]
  | .vrndf g d c m => [pack 0x0E000002 [(g.val, 29), (d.val, 17), (c.val, 6), (m.val, 3)]]
  | .nrns g d a c m => [pack 0x0E000003 [(g.val, 29), (d.val, 17), (a.val, 12), (c.val, 6), (m.val, 3)]]
  | .spkout g a c m => [pack 0x0E000004 [(g.val, 29), (a.val, 12), (c.val, 6), (m.val, 3)]]
  | .vbsum g t a c m => [pack 0x0E000005 [(g.val, 29), (t.val, 17), (a.val, 12), (c.val, 6), (m.val, 3)]]
  | .bsadd g a c => [pack 0x0E000006 [(g.val, 29), (a.val, 12), (c.val, 6)]]
  | .movVc g d c q => [pack 0x0E400000 [(g.val, 29), (d.val, 17), (c.val, 6), (q.val, 3)]]
  | .movCv g a c q => [pack 0x0E400001 [(g.val, 29), (a.val, 12), (c.val, 6), (q.val, 3)]]
  | .movMc g d c => [pack 0x0E400002 [(g.val, 29), (d.val, 17), (c.val, 6)]]
  | .movCm g a c => [pack 0x0E400003 [(g.val, 29), (a.val, 12), (c.val, 6)]]
  | .vred g d a m l f => [pack 0x0E800000 [(g.val, 29), (d.val, 17), (a.val, 12), (m.val, 9), (l.val, 5), (f.val, 0)]]
  | .vscan g d a m l f => [pack 0x0EC00000 [(g.val, 29), (d.val, 17), (a.val, 12), (m.val, 9), (l.val, 5), (f.val, 0)]]
  | .vsqrt g d a m l t => [pack 0x0F000000 [(g.val, 29), (d.val, 17), (a.val, 12), (m.val, 9), (l.val, 5), (t.val, 2)]]
  | .vexp2 g d a m l t => [pack 0x0F000001 [(g.val, 29), (d.val, 17), (a.val, 12), (m.val, 9), (l.val, 5), (t.val, 2)]]
  | .vlog2 g d a m l t => [pack 0x0F000002 [(g.val, 29), (d.val, 17), (a.val, 12), (m.val, 9), (l.val, 5), (t.val, 2)]]
  | .vrcp g d a m l t => [pack 0x0F000003 [(g.val, 29), (d.val, 17), (a.val, 12), (m.val, 9), (l.val, 5), (t.val, 2)]]
  | .vdivF32 g d a m l b => [pack 0x0F400000 [(g.val, 29), (d.val, 17), (a.val, 12), (m.val, 9), (l.val, 5), (b.val, 0)]]
  | .vcvt g d a m l f => [pack 0x0F800000 [(g.val, 29), (d.val, 17), (a.val, 12), (m.val, 9), (l.val, 5), (f.val, 0)]]
  | .vdivF16 g d a m l b => [pack 0x0FC00000 [(g.val, 29), (d.val, 17), (a.val, 12), (m.val, 9), (l.val, 5), (b.val, 0)]]
  -- tiles (06 R150, R151)
  | .trd g t r i k v => [pack 0x10000000 [(g.val, 29), (t.val, 19), (r.val, 18), (i.val, 12), (k.val, 7), (v.val, 2)]]
  | .twr g t r i k v => [pack 0x10000001 [(g.val, 29), (t.val, 19), (r.val, 18), (i.val, 12), (k.val, 7), (v.val, 2)]]
  | .tzero g t => [pack 0x10000002 [(g.val, 29), (t.val, 19)]]
  | .ttrans g t => [pack 0x10000003 [(g.val, 29), (t.val, 19)]]
  | .tclaim g t => [pack 0x10400000 [(g.val, 29), (t.val, 16)]]
  | .tfree g t => [pack 0x10400001 [(g.val, 29), (t.val, 16)]]
  -- quires (06 R170-R175)
  | .pld g l a b => [pack 0x10800000 [(g.val, 29), (l.val, 12), (a.val, 6), (b.val, 0)]]
  | .pst g k a b => [pack 0x10880000 [(g.val, 29), (k.val, 16), (a.val, 6), (b.val, 0)]]
  | .plupd g k a b => [pack 0x10900000 [(g.val, 29), (k.val, 16), (a.val, 6), (b.val, 0)]]
  | .plaxpy g k a b => [pack 0x10980000 [(g.val, 29), (k.val, 16), (a.val, 6), (b.val, 0)]]
  | .plhdr g l a b => [pack 0x10A00000 [(g.val, 29), (l.val, 12), (a.val, 6), (b.val, 0)]]
  -- matrix (06 R152-R167)
  | .mlease g k a b => [pack 0x12000000 [(g.val, 29), (k.val, 16), (a.val, 6), (b.val, 0)]]
  | .mfree g => [pack 0x12080000 [(g.val, 29)]]
  | .mgeo g d a => [pack 0x12400000 [(g.val, 29), (d.val, 16), (a.val, 10)]]
  | .mgeor g d a => [pack 0x12400001 [(g.val, 29), (d.val, 16), (a.val, 10)]]
  | .mstat g d a => [pack 0x12400002 [(g.val, 29), (d.val, 16), (a.val, 10)]]
  | .mzero g d => [pack 0x12400003 [(g.val, 29), (d.val, 16)]]
  | .mldb g k a b => [pack 0x12800000 [(g.val, 29), (k.val, 16), (a.val, 6), (b.val, 0)]]
  | .mgath g k a b => [pack 0x12880000 [(g.val, 29), (k.val, 16), (a.val, 6), (b.val, 0)]]
  | .mrd g k l a b => [pack 0x12900000 [(g.val, 29), (k.val, 16), (l.val, 12), (a.val, 6), (b.val, 0)]]
  | .mma g x a h w s => [pack 0x18000000 [(g.val, 29), (x.val, 22), (a.val, 19), (h.val, 15), (w.val, 12), (s.val, 6)]]
  | .mmaSet g x a h w s => [pack 0x18000008 [(g.val, 29), (x.val, 22), (a.val, 19), (h.val, 15), (w.val, 12), (s.val, 6)]]
  | .mmaSub g x a h w s => [pack 0x18000010 [(g.val, 29), (x.val, 22), (a.val, 19), (h.val, 15), (w.val, 12), (s.val, 6)]]
  | .mrun g x a h w s => [pack 0x18000018 [(g.val, 29), (x.val, 22), (a.val, 19), (h.val, 15), (w.val, 12), (s.val, 6)]]
  | .mrunSet g x a h w s => [pack 0x18000020 [(g.val, 29), (x.val, 22), (a.val, 19), (h.val, 15), (w.val, 12), (s.val, 6)]]
  | .mrunSub g x a h w s => [pack 0x18000028 [(g.val, 29), (x.val, 22), (a.val, 19), (h.val, 15), (w.val, 12), (s.val, 6)]]
  -- messages, windows and channels (07 R176-R188)
  | .send g a b => [pack 0x14000000 [(g.val, 29), (a.val, 10), (b.val, 4)]]
  | .sendi g a b => [pack 0x14000001 [(g.val, 29), (a.val, 10), (b.val, 4)]]
  | .wmark g a => [pack 0x14000002 [(g.val, 29), (a.val, 10)]]
  | .waitch g a => [pack 0x14000003 [(g.val, 29), (a.val, 10)]]
  | .hmask g d a b => [pack 0x14000004 [(g.val, 29), (d.val, 16), (a.val, 10), (b.val, 4)]]
  | .hset g a b => [pack 0x14000005 [(g.val, 29), (a.val, 10), (b.val, 4)]]
  | .chcap g a b => [pack 0x14000006 [(g.val, 29), (a.val, 10), (b.val, 4)]]
  | .wincfg g a b => [pack 0x14400000 [(g.val, 29), (a.val, 10), (b.val, 4)]]
  | .winclose g a => [pack 0x14400001 [(g.val, 29), (a.val, 10)]]
  -- Deckle (07 R189-R192)
  | .dkcfg g a b => [pack 0x14800000 [(g.val, 29), (a.val, 10), (b.val, 4)]]
  | .dkflush g a => [pack 0x14800001 [(g.val, 29), (a.val, 10)]]
  | .dkstat g d a => [pack 0x14800002 [(g.val, 29), (d.val, 16), (a.val, 10)]]
  -- copies and tokens (07 R193-R197)
  | .xcopy g k a b => [pack 0x14C00000 [(g.val, 29), (k.val, 16), (a.val, 6), (b.val, 0)]]
  | .xresume g b => [pack 0x14C80000 [(g.val, 29), (b.val, 0)]]
  | .xgeo g d a => [pack 0x15000000 [(g.val, 29), (d.val, 16), (a.val, 10)]]
  | .ttest g d k b => [pack 0x15000001 [(g.val, 29), (d.val, 16), (k.val, 10), (b.val, 4)]]
  | .twait g m => [pack 0x15400000 [(g.val, 29), (m.val, 0)]]
  -- tasks and speculation (07 R198-R201)
  | .spawn g a b => [pack 0x15800000 [(g.val, 29), (a.val, 10), (b.val, 4)]]
  | .done g => [pack 0x15800001 [(g.val, 29)]]
  | .doneJ g a => [pack 0x15800002 [(g.val, 29), (a.val, 10)]]
  | .launch g d a => [pack 0x15800003 [(g.val, 29), (d.val, 16), (a.val, 10)]]
  | .yield g => [pack 0x15800004 [(g.val, 29)]]
  | .tspawn g a b => [pack 0x15C00000 [(g.val, 29), (a.val, 10), (b.val, 4)]]
  | .tdone g => [pack 0x15C00001 [(g.val, 29)]]
  | .tabort g a b => [pack 0x15C00002 [(g.val, 29), (a.val, 10), (b.val, 4)]]
  | .tfront g d a => [pack 0x15C00003 [(g.val, 29), (d.val, 16), (a.val, 10)]]
  | .twaitc g a b => [pack 0x15C00004 [(g.val, 29), (a.val, 10), (b.val, 4)]]
  -- exact accumulators (07 R202)
  | .xacq g d a => [pack 0x16000000 [(g.val, 29), (d.val, 16), (a.val, 10)]]
  | .xadd g a b => [pack 0x16000001 [(g.val, 29), (a.val, 10), (b.val, 4)]]
  | .xrd g d a => [pack 0x16000002 [(g.val, 29), (d.val, 16), (a.val, 10)]]
  | .xrel g a => [pack 0x16000003 [(g.val, 29), (a.val, 10)]]
  -- walks and prefetch (14 R285, 13 R269)
  | .pwalk g k a b => [pack 0x16400000 [(g.val, 29), (k.val, 16), (a.val, 6), (b.val, 0)]]
  | .pfcfg g a b => [pack 0x16800000 [(g.val, 29), (a.val, 10), (b.val, 4)]]
  | .pfstop g a => [pack 0x16800001 [(g.val, 29), (a.val, 10)]]
  -- system (07 R203-R207)
  | .sysrd g d n => [pack 0x17000000 [(g.val, 29), (d.val, 16), (n.val, 0)]]
  | .syswr g a n => [pack 0x17400000 [(g.val, 29), (a.val, 10), (n.val, 0)]]
  | .uret g a => [pack 0x17800000 [(g.val, 29), (a.val, 10)]]
  | .tret g => [pack 0x17800001 [(g.val, 29)]]
  | .tlbi g k a b => [pack 0x17800002 [(g.val, 29), (k.val, 16), (a.val, 10), (b.val, 4)]]
  | .snap g a => [pack 0x17800003 [(g.val, 29), (a.val, 10)]]
  | .freeze g a => [pack 0x17800004 [(g.val, 29), (a.val, 10)]]
  | .resumef g a => [pack 0x17800005 [(g.val, 29), (a.val, 10)]]
  -- events of the units (95_what_each_step_holds.md)
  | .memoryUpcall .. => []
  | .loadResponse .. => []
  | .storeAtHome .. => []
  | .postedErrorResponse .. => []
  | .amoAtHome .. => []
  | .xaddAtHome .. => []
  | .joinDecrement .. => []
  | .taskCommit .. => []
  | .taskIrrevocable .. => []
  | .versionRecordFreed .. => []
  | .messageArrival .. => []
  | .refusalCallback .. => []
  | .messageResend .. => []
  | .sendAccepted .. => []
  | .handlerChoice .. => []
  | .continuationTake .. => []
  | .stealRound .. => []
  | .stealRetryTimeout .. => []
  | .queuePushWait .. => []
  | .watermarkPublish .. => []
  | .watermarkAtNi .. => []
  | .watermarkAtWindowUnit .. => []
  | .windowTargetPass .. => []
  | .windowTimeout .. => []
  | .detApplyAtHome .. => []
  | .detReleaseAtQueue .. => []
  | .closePacketsSend .. => []
  | .closePacketDelivery .. => []
  | .sheetTimeout .. => []
  | .sheetDone .. => []
  | .leaseGrant .. => []
  | .arrayTurn .. => []
  | .arrayTurnEnd .. => []
  | .arrayCommandComplete .. => []
  | .arrayFillComplete .. => []
  | .arraySpill .. => []
  | .arrayRestore .. => []
  | .readoutDrain .. => []
  | .streamerPiece .. => []
  | .granuleWrite .. => []
  | .engineAck .. => []
  | .engineHandBack .. => []
  | .quireUpdateAtHome .. => []
  | .walkArrival .. => []
  | .walkRule .. => []
  | .walkEnd .. => []
  | .prefetchTrigger .. => []
  | .prefetchKernel .. => []
  | .translationWalk .. => []
  | .tlbiAck .. => []
  | .bridgeResend .. => []
  | .preemptionSave .. => []
  | .strandRestore .. => []
  | .launchValidation .. => []
  | .launchHeadTake .. => []
  | .launchPortWrite .. => []
  | .teamSliceExpiry .. => []
  | .partitionPeriodStart .. => []
  | .partitionBudgetStart .. => []
  | .partitionBudgetEnd .. => []
  | .coreHardwareError .. => []
  | .dieFatalFault .. => []
  | .gerrPop .. => []
  | .reset .. => []
  | .functionReady .. => []
  | .functionOutOfService .. => []
  | .throttleTick .. => []
  | .overtemperature .. => []
  | .gptpSync .. => []
  | .csi2Packet .. => []
  | .portWatermarkPeriod .. => []
  | .gpioEdge .. => []
  | .gpioTimerPeriod .. => []
  | .gpioWatermarkPeriod .. => []
  | .canFrameEvent .. => []
  | .canWatermarkPeriod .. => []
  | .pagingFill .. => []
  | .pagingSpill .. => []
  | .pagingGrow .. => []
  | .pggrowPop .. => []
  | .protRegionEnable .. => []
  | .protRegionDisable .. => []
  | .wstReadClear .. => []
  | .quiesceRequest .. => []
  | .quiesceComplete .. => []
  | .debugHalt .. => []
  | .debugRelease .. => []
  | .snapshotPin => []
  | .capabilityStore .. => []
  | .attestationRequest .. => []
  | .appCoreAccess .. => []
  | .pcieInboundWrite .. => []
  | .registerWrite .. => []
  | .illegalInstruction .. => []
  | .instructionFetchFailure .. => []
  | .lockLost => []

/-- How many bytes an instruction takes: 4, or 8 with a literal (R23). -/
def Instr.len (i : Instr) : Nat := 4 * (encode i).length

end Sys2Proof
end

