-- ==== Sys2Proof/Machine/State.lean ====
section
/-! DEFINITION. The state of the part as plain data: strands, cores with their network interfaces, clusters, memory
homes, the package units, memory, what is in flight, and the state after reset. INVENTORY.md lists every field with
the rule that names it; log entry 2 names the values that the spec leaves open at reset. -/

namespace Sys2Proof.Machine

/-! ### How a step can end other than in a next state -/

/-- Reasons for the machine to stop: none. Every trap, upcall and error the spec describes is a next state. -/
inductive Fault where
  deriving DecidableEq, Repr

/-- Reasons for the model to refuse a step. -/
inductive Refusal where
  /-- An arm of `exec` that has no meaning yet raises it, with the row's mnemonic; safe: the machine stops. -/
  | notModelled (mnemonic : String)
  deriving DecidableEq, Repr

/-! ### Strands -/

/-- The four states of a strand slot (09 R214). -/
inductive SlotSt where
  | dormant | running | waiting | halted
  deriving DecidableEq, Repr

/-- Synchronous traps (07 R204); `brk` carries the number of `trap n`. -/
inductive Trap where
  | ill | capb | capt | capp | align | qempty | xdie | lease | tile | spec
  | brk (n : Nat)
  deriving DecidableEq, Repr

/-- Cause of a memory upcall (21 R382). -/
inductive Cause where
  | translation | violation | uncorrectable
  deriving DecidableEq, Repr

/-- What a failed access reports (21 R382, R387): cause, write, spilled leaf, missing permission, the failing address
and the cause code of the violation log. -/
structure FaultInfo where
  cause : Cause
  write : Bool
  spilled : Bool
  perm : Bool
  va : Dbl
  log : Nat
  deriving DecidableEq, Repr

/-- A quire as its descriptor gives it (06 R168): split or packed, bytes between block records, the header capability
and the plane capabilities. -/
structure QuireSrc where
  split : Bool
  stride : Nat
  hdr : CVal
  planes : List CVal
  deriving DecidableEq, Repr

/-- The access that a pending-write record describes (01 R29): a load of `n` bytes, a capability load, a vector load, a
read of a quire's sub-block with `p` planes, a read of a block header, a read-out into a tile register, or nothing outside the core. -/
inductive AccKind where
  | load | loadCap | vector
  | quire (q : QuireSrc) (elem p : Nat) (rn : Bool)
  | quireHdr (q : QuireSrc) (elem : Nat)
  | readout | none
  deriving DecidableEq, Repr

/-- Who accesses, and where: capability (for LOCAL, LDCAP and a quire's descriptor), address and size. -/
structure Access where
  kind : AccKind
  cap : CVal
  va : Dbl
  n : Nat
  deriving DecidableEq, Repr

/-- Destination of a long-latency instruction (01 R27). -/
inductive WinDst where
  | c (d : Fin 64) | v (d : Fin 32) | t (d : Fin 8)
  deriving DecidableEq, Repr

/-- What has become of a long-latency instruction's access. -/
inductive WinRes where
  | pending
  | value (x : VReg) (tag : Bool) (fl : Nat)
  | rows (x : List VReg) (fl : Nat)
  | failed (f : FaultInfo)
  deriving DecidableEq, Repr

/-- A pending-write record (01 R29). `plsat` is set by a saturating quire read (06 R172). -/
structure Window where
  id : Nat
  dst : WinDst
  left : Nat
  pc : Dbl
  acc : Access
  res : WinRes
  plsat : Bool
  deriving DecidableEq, Repr

/-- Repeat state (01 R32): address of the body, address of its next instruction, its length, the position in it, and
the iterations left. `parked` says that a trap has set it aside until a `tret` reaches the saved position (03 R94). -/
structure Rep where
  start : Dbl
  next : Dbl
  len : Nat
  pos : Nat
  left : Nat
  parked : Bool
  deriving DecidableEq, Repr

/-- A token's status (07 R196) but for HBACK, which the hand-back entries give. -/
structure Token where
  out : Nat
  done : Nat
  oob : Nat
  errc : Nat
  err : Bool
  deriving DecidableEq, Repr

/-- A continuation record (07 R198): code, bytes 16-23, bytes 24-31, and the two argument capabilities. -/
structure ContRec where
  code : CVal
  flags : Dbl
  stamp : Dbl
  a4 : CVal
  a5 : CVal
  deriving DecidableEq, Repr

/-- The message a strand holds: its channel, inbox unit, and the payload words not yet popped (07 R177, 09 R218). -/
structure CurMsg where
  chan : Fin 64
  unit : Nat
  words : List Word
  deriving DecidableEq, Repr

/-- What a slot runs (07 R187, R198; 16 R303). -/
inductive WorkKind where
  | none | handler (ch : Fin 64) | inlineHandler (ch : Fin 64) | continuation
  deriving DecidableEq, Repr

/-- The work of a slot: its number, kind, the running record, the task-queue entry it holds, its grid, its issue role,
its place in a team, and its speculative task. -/
structure Work where
  wid : Nat
  kind : WorkKind
  crec : ContRec
  entry : Option Nat
  grid : Option Word
  role : BitVec 2
  member : Option Nat
  team : Option Nat
  task : Option Nat
  domain : Fin 8
  irrevocable : Bool
  deriving DecidableEq, Repr

/-- A row-gather copy that awaits its index capability (01 R15, 07 R194): the operation's number. -/
abbrev Await := Option Nat

/-- What a posted access does at its home (04 R106, R113, 07 R202). -/
inductive PKind where
  | store (parts : List (Dbl × List Byte)) (tagged : List Dbl)
  | amo (fn : Fin 16) (y : Dbl) (cmp : Dbl)
  | xadd (h : Quad) (x : Quad)
  deriving DecidableEq, Repr

/-- A posted access on its way: number, the strand and work that made it, its capability and address. -/
structure Posted where
  id : Nat
  slot : SlotId
  wid : Nat
  asid : BitVec 16
  cap : CVal
  va : Dbl
  kind : PKind
  deriving DecidableEq, Repr

/-- One strand slot (01 R13-R16, R27-R32; 07 R177, R187, R196, R203; 21 R380). `kept` holds the pending-write records that
a trap has set aside (R29, R204); `redo` the numbers of the posted accesses that a resumption performs again before the
strand goes on (04 R106); `took` those of the write-path entries whose values the strand's loads have returned (18 R324);
`upcalls` how many memory upcalls its work has taken (21 R382);
`amoErr` the failure of a parked atomic that the strand waits for; `ending` the operands of a `suspend` that has passed its
checks and waits (03 R97); `stalled` says that it has been found not ready in this cycle (09 R222); `chwait` the channels of a `waitch` that waits (17 R317). -/
structure Strand where
  st : SlotSt
  halt : Option SlotSt
  asid : BitVec 16
  pcc : CVal
  c : Vector CVal 64
  v : Vector VReg 32
  g : Vector Bool 8
  m : Vector Quad 8
  ldq : List Quad
  stq : List Quad
  engq : List Quad
  vldq : List VReg
  vstq : List VReg
  await : Await
  outbox : List Word
  msg : Option CurMsg
  wins : List Window
  kept : List Window
  rep : Option Rep
  fflags : Word
  srgen : Quad
  cvrm : Dbl
  novd : Dbl
  qstat : Word
  tvec : CVal
  epc : CVal
  tcause : Dbl
  taddr : Dbl
  tscr : CVal
  uvec : CVal
  uarea : CVal
  lvt : CVal
  geo : Vector Dbl 64
  xgeo : Vector Dbl 7
  tok : Vector Token 8
  held : List Posted
  redo : List Nat
  took : List Nat
  upcalls : Dbl
  postErr : Option FaultInfo
  amoErr : Option FaultInfo
  ending : Option (CVal × CVal)
  chwait : Option Dbl
  lease : Option Nat
  work : Work
  sendWait : Nat
  ticket : Option Nat
  answer : Option Dbl
  readyAt : Nat
  stalled : Bool
  barAt : Option (Nat × Nat)
  deriving DecidableEq, Repr

/-! ### Cores and their network interfaces -/

/-- A handler-table entry (07 R183). -/
structure Chan where
  code : CVal
  data : CVal
  stack : CVal
  ctl : Quad
  deriving DecidableEq, Repr

/-- A message in an inbox (09 R218): its unit, channel, packet, decoded words; parked by DET, or taken; when it could first
be taken (17 R317). -/
structure InMsg where
  unit : Nat
  chan : Fin 64
  aep : Quad
  words : List Word
  wtype : BitVec 2
  seq : Word
  parked : Bool
  taken : Bool
  since : Nat
  deriving DecidableEq, Repr

/-- A tile register with its claim (06 R150): holder's slot, last ASID, and the slots that wait for it. -/
structure Tile where
  rows : Vector VReg 32
  holder : Option SlotId
  asid : BitVec 16
  queue : List SlotId
  deriving DecidableEq, Repr

/-- Counters of CHST (09 R221). -/
structure ChCount where
  drops : Nat
  refused : Nat
  ovfc : Nat
  deriving DecidableEq, Repr

/-- A prefetch entry (13 R268). -/
structure PfEntry where
  code : CVal
  watch : CVal
  par : List CVal
  asid : BitVec 16
  deriving DecidableEq, Repr

/-- A prefetch trigger: entry, line address, and the 64 bytes the fill delivered (13 R270, R271). -/
structure PfTrig where
  entry : Fin 4
  line : Dbl
  data : List Byte
  deriving DecidableEq, Repr

/-- An entry of a violation log (21 R387), all 128 bits. -/
abbrev VlogEntry := Quad

/-- A hand-back entry (07 R197, 20 R364): its generation and the operation it holds. -/
structure HBack where
  gen : BitVec 16
  op : Option Nat
  deriving DecidableEq, Repr

/-- A translation held by a TLB (21 R373): page, size, frame, permissions, and the address of its PTE. -/
structure TlbEntry where
  asid : BitVec 16
  global : Bool
  va : Dbl
  size : Nat
  frame : Nat
  r : Bool
  w : Bool
  x : Bool
  cap : Bool
  det : Bool
  dirty : Bool
  pte : Nat
  deriving DecidableEq, Repr

/-- A line in an L0 (13 R270; 18 R322, R331, R336): its name, an ASID and a line number, the number of its line in memory,
and its 64 bytes as they were filled, each with its granule's tag. -/
structure L0Line where
  asid : BitVec 16
  line : Dbl
  phys : Nat
  data : List (Byte × Bool)
  deriving DecidableEq, Repr

/-- A strand's saved image (21 R384, 19 R346): where it lies, the slot it left, and the parts of it whose layout is the
hardware's own (log entry 9); `lost` says that a completion could not be written to the image's token field (R385, R408). -/
structure Saved where
  slot : SlotId
  image : CVal
  strand : Strand
  tiles : List (Fin 8)
  cocoon : Bool
  lost : Bool
  deriving DecidableEq, Repr

/-- An upcall record's parts whose layout is the hardware's own (21 R382; log entry 9), found again by the upcall count that
the record's bytes hold; `born` is the number that was next
when it was written, `win` the pending-write record that the upcall was taken for (01 R30). -/
structure UpRec where
  addr : Dbl
  wid : Nat
  count : Dbl
  born : Nat
  win : Option Nat
  strand : Strand
  deriving DecidableEq, Repr

/-- A message refused here, or held at its sender behind one that was, called back in this order (09 R219): the channel
it lands on, whether it has been judged late or not, and whether a bin may take it (R231). -/
structure Refused where
  chan : Fin 64
  msg : Msg
  judged : Bool
  nobin : Bool
  deriving DecidableEq, Repr

/-- A core, its slice's units and its network interface. `phase` says what of the cycle has been (09 R222): 2
where a waiting slot has been looked at, 1 where the access half has had its turn, 0 where the execute half has. -/
structure Core where
  strands : Vector Strand 16
  t : Vector Tile 8
  hage : Dbl
  iage : Dbl
  inldrop : Nat
  hmax : Nat
  dbgHalt : Bool
  dbgQuiesce : Bool
  quiesced : Bool
  chan : Vector Chan 64
  last : Fin 64
  runAt : Vector (Option Nat) 64
  inbox : List InMsg
  units : Nat
  refused : List Refused
  reorder : List Msg
  chst : Vector ChCount 64
  seqOut : List (Nat × Word)
  seqIn : List (Nat × Word)
  fresh : List Nat
  spawnCtr : BitVec 16
  wmark : Option Word
  wmAt : List (BitVec 16 × Word)
  closed : List (Fin 32 × Word)
  closeWait : List ClosePkt
  capN : Vector Nat 64
  capNew : Vector (Option Dbl) 64
  pf : Vector (Option PfEntry) 4
  pfPend : List PfTrig
  pfq : List PfTrig
  pfst : Vector Nat 4
  hback : Vector HBack 16
  uctxv : CVal
  uctxa : CVal
  uctxl : CVal
  uctxid : BitVec 16
  psave : CVal
  cec : Word
  prot : Vector Quad 16
  vlog : List VlogEntry
  vlogOvf : Nat
  tlb : List TlbEntry
  l0 : List L0Line
  wpath : List Posted
  saved : List Saved
  recs : List UpRec
  stealAt : Nat
  stealing : Bool
  preempt : Bool
  amoKey : List (Nat × Word)
  phase : Fin 3
  deriving DecidableEq, Repr

/-! ### Clusters -/

/-- An operand element as the array uses it (06 R157, R161; 02 R44-R47): NaN or infinite, or `val` times 2^`exp`. -/
structure OElem where
  special : Bool
  val : Int
  exp : Int
  deriving DecidableEq, Repr

/-- A slot or half of a lease (06 R160): the pair of its latest fill, how many fills have been issued for it, which of
them it holds (0 for none), that one's 64 rows or columns, and the row and K position of each uncorrectable word (R164). -/
structure Operand where
  pair : Nat
  issued : Nat
  landed : Nat
  elems : List (List OElem)
  bad : List (Nat × Nat)
  deriving DecidableEq, Repr

/-- One slab of a matrix command (06 R162): half and generation, slot and fill, position in the chain. -/
structure Slab where
  half : Fin 2
  gen : Nat
  slot : Fin 8
  fill : Nat
  j : Nat
  deriving DecidableEq, Repr

/-- A queued matrix command (06 R155, R161-R165): the slabs left of an `mma` or `mrun` with its number, pair, function,
accumulator and scale; an `mzero`; a read-out operation. -/
inductive Cmd where
  | mma (seq pair fn : Nat) (acc : Fin 8) (scale : CVal) (slabs : List Slab)
  | mzero (acc : Fin 8)
  | mrd (op : Nat) (acc : Fin 8)
  deriving DecidableEq, Repr

/-- States of a lease (11 R244). -/
inductive LeaseSt where
  | requested | resident (frame : Fin 2) | spilled
  deriving DecidableEq, Repr

/-- An accumulator tile: 4,096 elements and the tile exponent (06 R152, 02 R54). -/
structure AccTile where
  x : BitVec 16
  e : Vector Dbl 4096
  deriving DecidableEq, Repr

/-- A lease of a cluster's array (06 R153, 11 R244); `moving` says that its frame is being spilled, or, while it holds none,
that a frame is being emptied for it (R245, R247); `spill` is what its last spill wrote, by offset. -/
structure Lease where
  id : Nat
  pos : Fin 32
  core : CoreId
  wid : Nat
  bin : Option (Fin 16)
  asid : BitVec 16
  nacc : Nat
  grantq : Bool
  token : Option (Fin 8)
  save : CVal
  st : LeaseSt
  moving : Bool
  cmds : List Cmd
  acc : Vector AccTile 8
  slots : Vector Operand 8
  halves : Vector Operand 2
  mstat : Nat
  lastUse : Nat
  spill : List (Nat × List Byte)
  deriving DecidableEq, Repr

/-- A closed sheet that waits for its array work (09 R233-R236). -/
structure Sheet where
  seq : Word
  rows : Nat
  reason : Nat
  stage : Nat
  win : Option (Fin 32)
  deriving DecidableEq, Repr

/-- A Deckle bin (07 R189, 09 R233-R235); `due` is the reason of a close that has reached its place while the engines are
frozen (21 R390). -/
structure Bin where
  sheet : CVal
  out : CVal
  save : CVal
  bsrc : CVal
  ctl : BitVec 512
  asid : BitVec 16
  seq : Word
  srctr : Dbl
  drops : Nat
  rows : Nat
  openAt : Option Nat
  due : Option Nat
  sealed : List Sheet
  lease : Option Nat
  deriving DecidableEq, Repr

/-- A task-queue entry (14 R293): the record to run, the first record, and where its run stands; `avoid` is the core
whose error ended its last run (19 R351), `after` the work of that run, whose posted accesses come before the next (18 R319),
and `waiter` the work that waits in `spawn` until it has been pushed (R294). -/
structure TqEntry where
  id : Nat
  rec0 : ContRec
  crec : ContRec
  asid : BitVec 16
  grid : Option Word
  bound : Option CoreId
  member : Option Nat
  team : Option Nat
  taken : Bool
  parkedBy : Option (Fin 32)
  spawner : CoreId
  task : Option Nat
  retries : Nat
  order : Nat
  irrevocable : Bool
  avoid : Option CoreId
  after : Option Nat
  waiter : Option Nat
  deriving DecidableEq, Repr

/-- An exact accumulator (02 R58, 07 R202): sum, sticky bits, format, owner's ASID, grid and generation. -/
structure XAcc where
  used : Bool
  sum : BitVec 320
  nan : Bool
  pinf : Bool
  ninf : Bool
  fmt : BitVec 2
  asid : BitVec 16
  grid : Option Word
  gen : BitVec 16
  deriving DecidableEq, Repr

/-- A paging command (21 R376); `pte` is where a spill begun stored its PTE, and its page's
slice offset. -/
structure PgCmd where
  va : Dbl
  asid : BitVec 16
  op : Nat
  units : Nat
  reply : Nat
  tag : Nat
  pa : Dbl
  off : Nat
  keep : Bool
  bad : Bool
  core : CoreId
  pte : Option (Nat × Nat)
  deriving DecidableEq, Repr

/-- A page in a paging engine's overflow buffer (21 R378). -/
structure PgOvf where
  va : Dbl
  asid : BitVec 16
  bytes : List Byte
  tags : List Bool
  deriving DecidableEq, Repr

/-- A cluster's shared parts (00 R3). -/
structure Cluster where
  leases : List Lease
  frames : Vector (Option Nat) 2
  turn : Option Nat
  turnCmds : Nat
  turnAt : Nat
  ptr : Fin 32
  spills : Nat
  revokes : Nat
  ecc : List Dbl
  eccOvf : Nat
  bins : Vector Bin 16
  tq : List TqEntry
  tqWait : List TqEntry
  xacc : Vector XAcc 64
  pgq : List PgCmd
  pgOvf : List PgOvf
  deriving DecidableEq, Repr

/-! ### Memory homes, windows, domains, grids -/

/-- A memory home (00 R4). -/
structure Home where
  xacc : Vector XAcc 64
  vlog : List VlogEntry
  vlogOvf : Nat
  tlb : List TlbEntry
  deriving DecidableEq, Repr

/-- A window record (07 R181). -/
structure WinRec where
  ctl : Word
  t0 : Word
  period : Word
  timeout : Word
  mingap : BitVec 16
  srcs : List (BitVec 16)
  cores : BitVec 384
  deriving DecidableEq, Repr

/-- States of a window (09 R228). -/
inductive WinSt where
  | disabled | opened | armed | closing
  deriving DecidableEq, Repr

/-- A window of the window unit (09 R228-R232). -/
structure Win where
  r : WinRec
  pend : Option WinRec
  st : WinSt
  tgt : Word
  k : Nat
  openedAt : Nat
  passedAt : Nat
  closeT : Word
  cause : BitVec 2
  lag : List (BitVec 16)
  waitHomes : List (Fin 400)
  waitQueues : List ClusterId
  closes : Nat
  latec : Nat
  strc : Nat
  strt : Nat
  deriving DecidableEq, Repr

/-- States of a speculative task (16 R303). -/
inductive TaskSt where
  | queued | running | irrevocable | finished
  deriving DecidableEq, Repr

/-- An operation a speculative task deferred (16 R308), with its operands taken at issue. -/
inductive Deferred where
  | send (m : Msg) (words : List Word) (dest : CoreId)
  | op (id : Nat)
  | amo (p : Posted)
  deriving DecidableEq, Repr

/-- A speculative task of a domain (16 R303, R311). -/
structure STask where
  id : Nat
  ts : BitVec 48
  st : TaskSt
  parent : Option Nat
  cluster : ClusterId
  entry : Nat
  core : Option CoreId
  reruns : Nat
  defer : List Deferred
  deriving DecidableEq, Repr

/-- A speculation domain (15 R297, R298; 16 R312). -/
structure Domain where
  grid : Option Word
  tasks : List STask
  highest : Option (BitVec 48)
  commits : Nat
  cabort : Nat
  xabort : Nat
  rerun : Nat
  vstall : Nat
  irrev : Nat
  derr : Nat
  deriving DecidableEq, Repr

/-- A version record at a home (16 R305, R309): a line under one alias, the task, its bytes, tags and read mark; the ASID it
accesses under and, for a line of a slice, the tile-space line that its last store named, none where that store was LOCAL.
`plain` marks the bytes that a store wrote, not an atomic (14 R296). -/
structure VRec where
  home : Nat
  asid : BitVec 16
  line : Dbl
  sliceOf : Option CoreId
  task : Nat
  dom : Fin 8
  ts : BitVec 48
  bytes : List (Option Byte)
  tags : List (Option Bool)
  mark : Bool
  owner : BitVec 16
  tileVa : Option Dbl
  plain : BitVec 64
  deriving DecidableEq, Repr

/-- An atomic parked at a home (19 R354, R355). -/
structure ParkedAmo where
  home : Fin 400
  win : Fin 32
  core : CoreId
  key : Word
  wid : Nat
  grid : Option Word
  p : Posted
  d : Bool
  deriving DecidableEq, Repr

/-- A launch record (19 R339). -/
structure LaunchRec where
  start : CVal
  entry : CVal
  data : CVal
  stack : CVal
  cocoon : CVal
  levels : List Byte
  clu : Nat
  posm : Nat
  flags : Nat
  asid : BitVec 16
  sdoms : Nat
  nteam : Nat
  tslice : Nat
  rper : Nat
  rbud : Nat
  rt0 : Word
  rch : Nat
  deriving DecidableEq, Repr

/-- One arrival at a barrier (04 R121): level, team, generation and who has arrived. -/
structure Barrier where
  level : Nat
  team : Nat
  gen : Nat
  arrived : List Nat
  deriving DecidableEq, Repr

/-- A member of a grid (19 R343): its number, core, top-level team, whether it has ended. -/
structure Member where
  i : Nat
  core : CoreId
  team : Nat
  ended : Bool
  deriving DecidableEq, Repr

/-- A unit of a grid's top level: its cores, the resident team, when its slice began, the teams whose records have been
pushed, and whether the resident team is being cocooned (19 R343, R346, R347). -/
structure TeamUnit where
  cores : List CoreId
  resident : Option Nat
  since : Nat
  started : List Nat
  stopping : Bool
  deriving DecidableEq, Repr

/-- A grid (19 R339-R353). One that has ended stands while channel entries or bins that it installed do: work of their
handlers has its launch record (R187; log entry 35). -/
structure Grid where
  id : Word
  ended : Bool
  r : LaunchRec
  members : List Member
  units : List TeamUnit
  bars : List Barrier
  placed : Bool
  chans : List (CoreId × Fin 64)
  bins : List (ClusterId × Fin 16)
  digests : List Byte
  deriving DecidableEq, Repr

/-- A reserved partition (19 R348-R350). -/
structure Partition where
  grid : Word
  cores : List CoreId
  rper : Nat
  rbud : Nat
  rt0 : Word
  rch : Fin 64
  k : Nat
  active : Bool
  deriving DecidableEq, Repr

/-- A validation at a launch unit (19 R340, R342): the record's capability, or the address a launch port was given;
whether it has host authority or SYS; and the work that waits for the answer. -/
structure LaunchReq where
  cap : CVal
  host : Bool
  sys : Bool
  asid : BitVec 16
  core : CoreId
  wid : Nat
  deriving DecidableEq, Repr

/-- A die's launch unit (19 R342). -/
structure LaunchUnit where
  reqs : List LaunchReq
  q : Vector (List (Word × Nat)) 4
  lpstat : Dbl
  count : Nat
  deriving DecidableEq, Repr

/-! ### Engine operations -/

/-- The geometry of a copy, read at issue (07 R193, R194). -/
structure CopyGeo where
  xlen : Nat
  rows : Nat
  spitch : Int
  dpitch : Int
  mode : Nat
  swz : Nat
  oob1 : Bool
  tile : Option (Fin 8)
  rect : Nat
  trows : Nat
  deriving DecidableEq, Repr

/-- A piece of a copy (13 R261): destination row, first byte of the row, length. -/
structure Piece where
  row : Nat
  off : Nat
  len : Nat
  deriving DecidableEq, Repr

/-- The state of a walk (14 R281-R286); `slot` says that it holds a slot of its engine, `waitNo` its place among those that wait for one. -/
structure Walk where
  rules : List Dbl
  key : List Byte
  dst : CVal
  limit : Nat
  pol : Bool
  arena : CVal
  engine : Nat
  slot : Bool
  waitNo : Option Nat
  migrate : Bool
  rule : Nat
  p : Dbl
  steps : Nat
  idle : Nat
  result : Option Quad
  deriving DecidableEq, Repr

/-- A read-out's parameters (06 R165): where it goes, format, mode, generator state; whether it has been captured, and
the flags it raises. `win` is its window when its target is a tile with lookahead. -/
structure Readout where
  cluster : ClusterId
  lease : Nat
  acc : Fin 8
  fmt : Nat
  mode : Nat
  pitch : Dbl
  dst : CVal
  tile : Option (Fin 8)
  win : Option Nat
  rowh : Nat
  colh : Nat
  srgen : Quad
  zero : Bool
  captured : Bool
  rows : List VReg
  fl : Nat
  deriving DecidableEq, Repr

/-- Where a fill's row or column comes from (06 R158): zeros, bytes through a capability, or a quire's elements. -/
inductive FillRow where
  | zeros
  | plain (cap : CVal) (va : Dbl)
  | quire (q : QuireSrc) (elem : Nat)
  deriving DecidableEq, Repr

/-- A fill (06 R158): its lease and target, the fill's number there, pair, plane count, RN, first element, element
count, its rows, and the rows it has read. -/
structure FillJob where
  cluster : ClusterId
  lease : Nat
  slot : Bool
  target : Fin 8
  num : Nat
  pair : Nat
  planes : Nat
  rn : Bool
  koff : Nat
  k : Nat
  todo : List FillRow
  elems : List (List OElem)
  bad : List (Nat × Nat)
  deriving DecidableEq, Repr

/-- A line that an access names: the slice and offset, or the alias (R305). -/
structure LineKey where
  home : Nat
  asid : BitVec 16
  line : Dbl
  sliceOf : Option CoreId
  deriving DecidableEq, Repr

/-- A translated address: where the byte lies in the map of R393, its page's DET bit, whether tags are kept, the
network interface that serves it, and its line (R305). -/
structure Tr where
  phys : Nat
  det : Bool
  keep : Bool
  ni : Fin 400
  key : LineKey
  deriving DecidableEq, Repr

/-- What a quire store or update does with its block (06 R173, R174), with what it took at issue: a header and codes
to store, or lanes to add, scaled, in a rounding mode with a generator state; or, once a split block has been computed, the
FFLAGS and QSTAT bits to deliver when its parts, which the operation's buffer holds, have been written (R169). -/
inductive QuireWork where
  | put (hdr : List Byte) (codes : List Nat)
  | upd (mode : Nat) (alpha : Word) (lanes : List Word) (gen : Quad)
  | out (fl qs : Nat) (places : List (List (Tr × Dbl × Nat)))
  deriving DecidableEq, Repr

/-- A quire store or update of a block. -/
structure QuireJob where
  q : QuireSrc
  blk : Nat
  work : QuireWork
  deriving DecidableEq, Repr

/-- What an engine operation does. -/
inductive Job where
  | copy (g : CopyGeo) (src dst : CVal) (idxCap : Option CVal)
  | move (src dst : CVal) (n : Nat) (cross : Bool)
  | fill (f : FillJob)
  | readout (r : Readout)
  | walk (w : Walk)
  | quire (q : QuireJob)
  | tlbi (va : Dbl) (len : Dbl) (asid : BitVec 16) (all glob : Bool)
  | amo (p : Posted)
  | msg (m : Msg) (dest : CoreId)
  deriving DecidableEq, Repr

/-- An engine operation (04 R120, 13 R261, 07 R197): issuer, token, job, pieces to do, granules read and not yet
written (destination and bytes) with the piece they are of, pieces that faulted, and what it has counted. -/
structure Op where
  id : Nat
  core : CoreId
  wid : Nat
  grid : Option Word
  asid : BitVec 16
  token : Option (Fin 8)
  dom : Option (Fin 8)
  deferred : Bool
  job : Job
  todo : List Piece
  next : Nat
  buf : List (CVal × Dbl × List Byte)
  cur : Option Piece
  idx : List (Nat × Nat)
  bad : List (Piece × FaultInfo)
  handed : Option (Fin 16)
  logged : Bool
  failed : Bool
  deriving DecidableEq, Repr

/-! ### Device edges -/

/-- A sub-source's last timestamp and last watermark at an event port (22 R399). -/
structure SubSrc where
  last : Option Word
  wm : Option Word
  deriving DecidableEq, Repr

/-- An event port (22 R397-R400): its registers, running sensor time and anchor, sub-sources and counts. -/
structure EvPort where
  cfg : Dbl
  src : Vector Dbl 8
  st : BitVec 48
  anchor : Option (Word × BitVec 48)
  sub : Vector SubSrc 8
  drop : Nat
  back : Nat
  crce : Nat
  deriving DecidableEq, Repr

/-- A UCIe port's bridge (18 R332): what it has sent and not had acknowledged. -/
structure Bridge where
  sent : List (CoreId × Msg)
  failed : Bool
  deriving DecidableEq, Repr

/-- The capability store port and the attestation mailbox with the requests that wait on the bus (22 R396, R406); what the
last access from outside returned, and whether it met a bus error (R393); the interrupts that reports have raised (19 R353);
the inbound windows of PCIe, each the first physical address and the bytes it shows (R405). -/
structure HostPorts where
  cdata : Quad
  caddr : Dbl
  cstat : Dbl
  attest : Dbl
  answer : Quad
  busError : Bool
  interrupts : Nat
  waiting : List Dbl
  inbound : Vector (Nat × Nat) 8
  deriving DecidableEq, Repr

/-- Housekeeping, time and power (22 R391, R403, R407), snapshots (21 R389); `images` holds the digests of the images that have
been accepted, by kind (R406); `ecc` is what the housekeeping core has
received of the arrays' uncorrectable words (11 R256), `log` of the violation logs' events (21 R387). -/
structure House where
  inReset : Bool
  fault : Bool
  ready : Quad
  oos : Quad
  dtstat : Dbl
  dtepoch : Dbl
  pwrlim : Nat
  power : Nat
  temp : Nat
  level : Nat
  hot : Bool
  images : Vector (Option (List Byte)) 6
  snapctl : Dbl
  snapsel : Dbl
  snapid : BitVec 16
  snap : List (Nat × Nat × Dbl)
  frozen : Bool
  ecc : List (ClusterId × Dbl)
  log : List VlogEntry
  deriving DecidableEq, Repr

/-- What the next step of the model does, when it is chosen from outside (log entry 3): a strand's turn, an event, the
passing of time, a word that goes bad, an error corrected in a core's SRAM (21 R386), the overflow of a counter (21 R389),
the start of a frame on a CAN bus (22 R402), the restart of a core (13 R278), an image read from flash (22 R406), an inbound
window set, a read by a PCIe requester, a granule that a linked peer package reads or writes here (22 R405). -/
inductive Turn where
  | strand (c : CoreId) (k : SlotId)
  | event (i : Instr)
  | time (ns : Nat)
  | flip (word : Nat)
  | corrected (c : CoreId)
  | overflow
  | canStart (c : Fin 4)
  | restart (c : CoreId)
  | image (img : FirmwareImage)
  | inbound (i : Fin 8) (first bytes : Nat)
  | pcieRead (addr n : Nat)
  | peerRead (asid : BitVec 16) (va : Dbl) (n : Nat)
  | peerWrite (asid : BitVec 16) (va : Dbl) (bytes : List Byte)
  deriving DecidableEq, Repr

/-! ### The whole part -/

/-- The state of the part; `joined` lists the joins whose count has reached zero (14 R296); `dtSlew` is how far the rate of
device time stands from nominal, in ppm, and `dtFrac` the millionths of a nanosecond that have passed (22 R403). -/
structure State where
  cores : Vector Core 384
  clusters : Vector Cluster 24
  homes : Vector Home 16
  mem : List Host.Cell
  tags : List Nat
  poison : List Nat
  joined : List Nat
  wins : Vector Win 32
  wmarks : List (BitVec 16 × Word)
  wgrace : Word
  lage : Word
  atbase : Dbl
  pgarea : Vector Quad 2
  epcfg : Vector EvPort 8
  gpcfg : Vector Dbl 32
  gpNext : Vector Nat 32
  canev : Vector Dbl 4
  canflt : Vector Dbl 4
  canSof : Vector (Option Nat) 4
  doms : Vector Domain 8
  vers : List VRec
  vwait : List (Nat × Nat)
  detWin : List (Fin 400 × BitVec 16 × Fin 32)
  parked : List ParkedAmo
  launch : Vector LaunchUnit 2
  grids : List Grid
  parts : Vector (Option Partition) 4
  gerr : Vector (List Dbl) 2
  gerrOvf : Vector Bool 2
  pggrow : List Quad
  sysnc : Dbl
  ops : List Op
  bridges : Vector Bridge 12
  host : HostPorts
  house : House
  dt : Nat
  dtRate : Nat
  dtSlew : Int
  dtFrac : Nat
  cur : CoreId × SlotId
  nextId : Nat
  freshN : Nat
  agenda : List (Nat × Instr)
  sched : List Turn
  deriving DecidableEq, Repr

/-! ### Reset -/

/-- A token with nothing outstanding (07 R187, R196). -/
def Token.zero : Token := { out := 0, done := 0, oob := 0, errc := 0, err := false }

/-- A continuation record of zeros. -/
def ContRec.zero : ContRec := { code := .null, flags := 0, stamp := 0, a4 := .null, a5 := .null }

/-- No work. -/
def Work.none : Work :=
  { wid := 0, kind := .none, crec := .zero, entry := .none, grid := .none, role := 0, member := .none,
    team := .none, task := .none, domain := 0, irrevocable := false }

/-- Reset values of the matrix geometry registers (06 R156); the reserved registers 8–63 hold 0 (DESIGN CHOICE, log 2). -/
def geoReset : Vector Dbl 64 := (#v[0, 0, 256, 0, 0, 256, 0, 1] : Vector Dbl 8) ++ (Vector.replicate 56 0 : Vector Dbl 56)

/-- Reset values of the copy-geometry registers (07 R193). -/
def xgeoReset : Vector Dbl 7 := #v[0, 1, 0, 0, 0, 0, 0]

/-- A slot after reset: dormant (09 R214), its registers as log entry 2 names them. -/
def Strand.reset : Strand :=
  { st := .dormant, halt := .none, asid := 0, pcc := .null
    c := .replicate 64 .null, v := .replicate 32 0, g := .replicate 8 false, m := .replicate 8 0
    ldq := [], stq := [], engq := [], vldq := [], vstq := [], await := .none, outbox := [], msg := .none
    wins := [], kept := [], rep := .none, fflags := 0, srgen := 0, cvrm := 0, novd := 0, qstat := 0
    tvec := .null, epc := .null, tcause := 0, taddr := 0, tscr := .null, uvec := .null, uarea := .null, lvt := .null
    geo := geoReset, xgeo := xgeoReset, tok := .replicate 8 .zero, held := [], redo := [], took := [], upcalls := 0
    postErr := .none, amoErr := .none, ending := .none, chwait := .none, lease := .none
    work := .none, sendWait := 0, ticket := .none, answer := .none
    readyAt := 0, stalled := false, barAt := .none }

/-- A handler-table entry after reset (07 R183): disabled, MASK 1. -/
def Chan.reset : Chan := { code := .null, data := .null, stack := .null, ctl := 16 }

/-- A core after reset (07 R203, 09 R215, R217, 21 R368). -/
def Core.reset : Core :=
  { strands := .replicate 16 .reset
    t := .replicate 8 { rows := .replicate 32 0, holder := .none, asid := 0, queue := [] }
    hage := 1024, iage := 256, inldrop := 0, hmax := 16, dbgHalt := false, dbgQuiesce := false, quiesced := false
    chan := .replicate 64 .reset, last := 63, runAt := .replicate 64 .none, inbox := [], units := 0, refused := []
    reorder := [], chst := .replicate 64 { drops := 0, refused := 0, ovfc := 0 }, seqOut := [], seqIn := [], fresh := []
    spawnCtr := 0, wmark := .none, wmAt := [], closed := [], closeWait := []
    capN := .replicate 64 0, capNew := .replicate 64 .none
    pf := .replicate 4 .none, pfPend := [], pfq := [], pfst := .replicate 4 0
    hback := .replicate 16 { gen := 0, op := .none }
    uctxv := .null, uctxa := .null, uctxl := .null, uctxid := 0, psave := .null, cec := 0
    prot := .replicate 16 0, vlog := List.replicate 8 0, vlogOvf := 0, tlb := [], l0 := [], wpath := []
    saved := [], recs := [], stealAt := 0, stealing := false, preempt := false, amoKey := [], phase := 0 }

/-- A free exact accumulator. -/
def XAcc.free : XAcc :=
  { used := false, sum := 0, nan := false, pinf := false, ninf := false, fmt := 0, asid := 0, grid := .none, gen := 0 }

/-- Control word of a bin after reset (07 R189): ROWS 1, TMO 1, DONECH 4, the rest 0. -/
def binCtlReset : BitVec 512 := 2 ^ 84 ||| 2 ^ 97 ||| (4 <<< 138)

/-- A bin after reset. -/
def Bin.reset : Bin :=
  { sheet := .null, out := .null, save := .null, bsrc := .null, ctl := binCtlReset, asid := 0, seq := 0, srctr := 0
    drops := 0, rows := 0, openAt := .none, due := .none, sealed := [], lease := .none }

/-- A cluster after reset (11 R245, R251; 07 R189). -/
def Cluster.reset : Cluster :=
  { leases := [], frames := .replicate 2 .none, turn := .none, turnCmds := 0, turnAt := 0, ptr := 31, spills := 0
    revokes := 0, ecc := [], eccOvf := 0, bins := .replicate 16 .reset, tq := [], tqWait := []
    xacc := .replicate 64 .free, pgq := [], pgOvf := [] }

/-- A memory home after reset. -/
def Home.reset : Home := { xacc := .replicate 64 .free, vlog := List.replicate 8 0, vlogOvf := 0, tlb := [] }

/-- A window record of zeros. -/
def WinRec.zero : WinRec :=
  { ctl := 0, t0 := 0, period := 0, timeout := 0, mingap := 0, srcs := [], cores := 0 }

/-- A window after reset: disabled (09 R228, R232). -/
def Win.reset : Win :=
  { r := .zero, pend := .none, st := .disabled, tgt := 0, k := 0, openedAt := 0, passedAt := 0, closeT := 0
    cause := 0, lag := [], waitHomes := [], waitQueues := [], closes := 0, latec := 0, strc := 0, strt := 0 }

/-- A domain after reset: held by no grid (16 R312). -/
def Domain.reset : Domain :=
  { grid := .none, tasks := [], highest := .none, commits := 0, cabort := 0, xabort := 0, rerun := 0, vstall := 0
    irrev := 0, derr := 0 }

/-- A launch unit after reset (19 R342). -/
def LaunchUnit.reset : LaunchUnit := { reqs := [], q := .replicate 4 [], lpstat := 0, count := 0 }

/-- EPCFG after reset (22 R398): DTYPE 0x30, WMPER 100. -/
def epcfgReset : Dbl := (0x30 <<< 2) ||| (100 <<< 8)

/-- An event port after reset. -/
def EvPort.reset : EvPort :=
  { cfg := epcfgReset, src := .replicate 8 0, st := 0
    anchor := .none, sub := .replicate 8 { last := .none, wm := .none }, drop := 0, back := 0, crce := 0 }

/-- The part right after reset, when only the housekeeping core runs (22 R391). -/
def State.reset : State :=
  { cores := .replicate 384 .reset, clusters := .replicate 24 .reset, homes := .replicate 16 .reset
    mem := [], tags := [], poison := [], joined := []
    wins := .replicate 32 .reset, wmarks := [], wgrace := 20, lage := 10000, atbase := 0, pgarea := .replicate 2 0
    epcfg := .replicate 8 .reset, gpcfg := .replicate 32 0, gpNext := .replicate 32 0
    canev := .replicate 4 0, canflt := .replicate 4 0, canSof := .replicate 4 .none
    doms := .replicate 8 .reset, vers := [], vwait := [], detWin := [], parked := []
    launch := .replicate 2 .reset, grids := [], parts := .replicate 4 .none
    gerr := .replicate 2 [], gerrOvf := .replicate 2 false, pggrow := [], sysnc := 0, ops := []
    bridges := .replicate 12 { sent := [], failed := false }
    host := { cdata := 0, caddr := 0, cstat := 0, attest := 0, answer := 0, busError := false, interrupts := 0, waiting := []
              inbound := .replicate 8 (0, 0) }
    house := { inReset := true, fault := false, ready := 0, oos := 0, dtstat := 0, dtepoch := 0, pwrlim := 300
               power := 0, temp := 0, level := 0, hot := false, images := .replicate 6 .none, snapctl := 0, snapsel := 0, snapid := 0
               snap := [], frozen := false, ecc := [], log := [] }
    dt := 0, dtRate := 1, dtSlew := 0, dtFrac := 0, cur := (0, 0), nextId := 1, freshN := 0, agenda := [], sched := [] }

end Sys2Proof.Machine
end

