-- ==== Sys2Proof/Machine/Mem.lean ====
section
/-! DEFINITION. Bytes, little-endian numbers, memory in its canonical form, and granule tags (00 R10, 04 R103, R104).
A byte that nothing has written reads as 0 (log entry 1). -/

namespace Sys2Proof.Machine

/-- The number a string of bytes holds, lowest byte first (R10). -/
def ofBytes : List Byte → Nat
  | [] => 0
  | b :: bs => b.toNat + 256 * ofBytes bs

/-- The `n` low bytes of a number, lowest first (R10). -/
def toBytes : Nat → Nat → List Byte
  | 0, _ => []
  | n + 1, x => BitVec.ofNat 8 x :: toBytes n (x / 256)

/-- What an address that memory does not list reads as (log entry 1). -/
def unlisted : Byte := 0

/-- One byte of memory. -/
def memGet : List Host.Cell → Nat → Byte
  | [], _ => unlisted
  | (a, b) :: m, x => if x = a then b else memGet m x

/-- Memory with one byte written, in canonical form. -/
def memSet : List Host.Cell → Nat → Byte → List Host.Cell
  | [], x, v => if v = unlisted then [] else [(x, v)]
  | (a, b) :: m, x, v =>
    if x < a then (if v = unlisted then (a, b) :: m else (x, v) :: (a, b) :: m)
    else if x = a then (if v = unlisted then m else (a, v) :: m)
    else (a, b) :: memSet m x v

/-- Addresses strictly rising and every listed byte other than what an unlisted address reads as. -/
def Memory.wf : List Host.Cell → Bool
  | [] => true
  | [(_, b)] => b != unlisted
  | (a, b) :: (a', b') :: m => decide (a < a') && b != unlisted && Memory.wf ((a', b') :: m)

/-- `n` bytes from address `a` up. -/
def memRead (m : List Host.Cell) (a : Nat) : Nat → List Byte
  | 0 => []
  | n + 1 => memGet m a :: memRead m (a + 1) n

/-- Memory with a string of bytes written from address `a` up. -/
def memWrite (m : List Host.Cell) (a : Nat) : List Byte → List Host.Cell
  | [] => m
  | b :: bs => memWrite (memSet m a b) (a + 1) bs

/-- The number of `n` bytes at `a`. -/
def memNat (m : List Host.Cell) (a n : Nat) : Nat := ofBytes (memRead m a n)

/-- A sorted list of numbers with one put in. -/
def setIn : List Nat → Nat → List Nat
  | [], x => [x]
  | y :: l, x => if x < y then x :: y :: l else if x = y then y :: l else y :: setIn l x

/-- A list of numbers with one taken out. -/
def setOut (l : List Nat) (x : Nat) : List Nat := l.filter (· != x)

/-- The tag of the granule that holds byte `a` (R104). -/
def tagAt (tags : List Nat) (a : Nat) : Bool := tags.contains (a / 16)

/-- The tag of that granule written. -/
def tagSet (tags : List Nat) (a : Nat) (t : Bool) : List Nat :=
  if t then setIn tags (a / 16) else setOut tags (a / 16)

/-- The tags of every granule that `n` bytes at `a` touch, cleared (R104). -/
def tagsClear (tags : List Nat) (a n : Nat) : List Nat :=
  tags.filter (fun g => decide (g < a / 16) || decide ((a + n - 1) / 16 < g) || n == 0)

/-- Whether some 64-bit word of `n` bytes at `a` is uncorrectable (21 R386). -/
def poisoned (p : List Nat) (a n : Nat) : Bool :=
  p.any (fun w => decide (a / 8 ≤ w) && decide (w ≤ (a + n - 1) / 8) && n != 0)

/-- A list with entry `i` replaced. -/
def lset {α : Type} : List α → Nat → α → List α
  | [], _, _ => []
  | _ :: l, 0, x => x :: l
  | y :: l, i + 1, x => y :: lset l i x

/-- Two's complement reading of an `n`-bit code. -/
def sint (n c : Nat) : Int := let x := c % 2 ^ n; if 2 ^ (n - 1) ≤ x then (x : Int) - 2 ^ n else x

/-- A count that holds at `top`. -/
def hold (top n : Nat) : Nat := min top n

/-- Signed reading of a 64-bit address sum. -/
def addVa (a : Dbl) (i : Int) : Dbl := a + BitVec.ofInt 64 i

end Sys2Proof.Machine
end

