-- ==== Sys2Proof/Machine/Flags.lean ====
section
/-! DEFINITION. Flags: the bits of FFLAGS, how results set them, and the conditions that comparisons test
(02_numbers.md R53; 03_scalar_and_control.md R73, R78). -/

namespace Sys2Proof.Machine

/-- Bits of FFLAGS (R53). -/
def NX : Nat := 1
def UF : Nat := 2
def OF : Nat := 4
def DZ : Nat := 8
def NV : Nat := 16
def SAT : Nat := 32
def TERN : Nat := 64

/-- A flag set on a condition. -/
def flagIf (b : Bool) (f : Nat) : Nat := if b then f else 0

/-- Flags together. -/
def flags (l : List Nat) : Nat := l.foldl Nat.lor 0

/-- The integer condition of a code (R73). -/
def icond (cc : Nat) (x y : Dbl) : Bool :=
  match cc with
  | 0 => x == y
  | 1 => x != y
  | 2 => decide (x.toInt < y.toInt)
  | 3 => decide (y.toInt ≤ x.toInt)
  | 4 => decide (x.toNat < y.toNat)
  | _ => decide (y.toNat ≤ x.toNat)

end Sys2Proof.Machine
end

