-- ==== Sys2Proof/Machine/Caps.lean ====
section
/-! DEFINITION. Capabilities: fields, bounds, representable addresses, narrowing (03_scalar_and_control.md R82-R89). -/

namespace Sys2Proof

open Machine

/-- Bits hi:lo of a quad as a number. -/
def qf (q : Quad) (lo n : Nat) : Nat := fld q.toNat lo n

/-- Bits hi:lo of a double as a number. -/
def df (q : Dbl) (lo n : Nat) : Nat := fld q.toNat lo n

/-- The permission bits of R83, by number from bit 104. -/
inductive Perm where
  | ld | st | ldcap | stcap | exec | local | sys | eng | scale | quire
  deriving DecidableEq, Repr

/-- A permission's bit in a capability. -/
def Perm.bit : Perm → Nat
  | .ld => 104 | .st => 105 | .ldcap => 106 | .stcap => 107 | .exec => 108
  | .local => 109 | .sys => 110 | .eng => 111 | .scale => 112 | .quire => 113

/-- Whether a value carries a permission bit. -/
def CVal.has (c : CVal) (p : Perm) : Bool := c.val.getLsbD p.bit

/-- Whether a value carries every one of some permissions. -/
def CVal.hasAll (c : CVal) (ps : List Perm) : Bool := ps.all c.has

/-- The address field (R82). -/
def CVal.addr (c : CVal) : Dbl := c.val.setWidth 64

/-- The exponent, base and length fields (R82). -/
def CVal.e (c : CVal) : Nat := qf c.val 98 6
def CVal.b (c : CVal) : Nat := qf c.val 64 17
def CVal.l (c : CVal) : Nat := qf c.val 81 17

/-- Base of a capability, exact; negative only in the lowest block (R84). -/
def CVal.base (c : CVal) : Int :=
  if 48 ≤ c.e then 0
  else
    let a := c.addr.toNat
    let blk := 2 ^ (c.e + 17)
    let base := a / blk * blk + c.b * 2 ^ c.e
    if a < base then (base : Int) - blk else base

/-- Top of a capability, exact (R84). -/
def CVal.top (c : CVal) : Int :=
  if c.e = 63 then 2 ^ 64
  else if 48 ≤ c.e then 0
  else c.base + c.l * 2 ^ c.e

/-- An access of `n` bytes at `a` is in bounds (R84). A capability with L = 0 admits none. -/
def CVal.inBounds (c : CVal) (a n : Nat) : Bool :=
  decide (c.base ≤ a) && decide ((a : Int) + n ≤ c.top) && (c.e == 63 || c.l != 0)

/-- The addresses that give back the same bounds (R85). -/
def CVal.representable (c : CVal) (a : Dbl) : Bool :=
  if c.e = 63 then true
  else if 48 ≤ c.e then false
  else decide (c.base ≤ a.toNat) && decide ((a.toNat : Int) < c.base + 2 ^ (c.e + 17))

/-- The value with its address field replaced, tag unchanged. -/
def CVal.withAddr (c : CVal) (a : Dbl) : CVal :=
  { c with val := (c.val &&& (BitVec.allOnes 128 <<< 64)) ||| a.setWidth 128 }

/-- A capability written with a new address keeps its tag only when the address is representable (R86). -/
def CVal.setAddr (c : CVal) (a : Dbl) : CVal :=
  { c.withAddr a with tag := c.tag && c.representable a }

/-- A value of the given fields, permissions and upper bits as in `c` (R82). -/
def CVal.withBounds (c : CVal) (a : Dbl) (e b l : Nat) : CVal :=
  { val := (c.val &&& (BitVec.allOnes 128 <<< 104)) |||
      BitVec.ofNat 128 (a.toNat + 2 ^ 64 * (b % 2 ^ 17) + 2 ^ 81 * (l % 2 ^ 17) + 2 ^ 98 * (e % 64))
    tag := true }

/-- `x` rounded down and up to a multiple of `m`. -/
def alignDown (x m : Nat) : Nat := x / m * m
def alignUp (x m : Nat) : Nat := (x + m - 1) / m * m

/-- The smallest exponent up to 47 whose length field can hold the range (R87). -/
def boundsExp (nb nt : Nat) : Option Nat :=
  (List.range 48).find? (fun e => decide ((alignUp nt (2 ^ e) - alignDown nb (2 ^ e)) / 2 ^ e ≤ 2 ^ 17 - 1))

/-- `cbnd` to `len` bytes from the capability's address (R87). -/
def CVal.narrow (c : CVal) (len : Nat) : Except Trap CVal :=
  if !c.tag then .error .capt
  else
    let nb := c.addr.toNat
    let nt := nb + len
    if (nb : Int) < c.base ∨ c.top < nt then .error .capb
    else match boundsExp nb nt with
      | none => if c.e = 63 then .ok { c with tag := true } else .error .capb
      | some e =>
        let rb := alignDown nb (2 ^ e)
        let rt := alignUp nt (2 ^ e)
        if (rb : Int) < c.base ∨ c.top < rt then .error .capb
        else .ok (c.withBounds c.addr e (rb / 2 ^ e) ((rt - rb) / 2 ^ e))

/-- Permissions cut down to those of a mask, reserved bits forced to 0 (R89). -/
def CVal.cutPerms (c : CVal) (mask : Nat) : CVal :=
  { c with val := c.val &&&
      ~~~ (BitVec.ofNat 128 (2 ^ 16 - 1 - mask % 2 ^ 10) <<< 104) }

/-- The value with a permission taken away or kept. -/
def CVal.keepOnly (c : CVal) (ps : List Perm) : CVal :=
  c.cutPerms ((ps.map (fun p => 2 ^ (p.bit - 104))).foldl (· + ·) 0)

/-- The value with exactly some permissions, its other fields unchanged. -/
def CVal.withPerms (c : CVal) (ps : List Perm) : CVal :=
  { c with val := (c.val &&& ~~~ ((0xFFFF : Quad) <<< 104)) |||
      (BitVec.ofNat 128 ((ps.map (fun p => 2 ^ (p.bit - 104))).foldl (· + ·) 0) <<< 104) }

/-- A capability over `n` bytes at `a` with some permissions, as hardware builds one. -/
def CVal.make (a n : Nat) (ps : List Perm) : CVal :=
  let e := (boundsExp a (a + n)).getD 47
  let p := (ps.map (fun p => 2 ^ (p.bit - 104))).foldl (· + ·) 0
  { val := BitVec.ofNat 128 (a % 2 ^ 64 + 2 ^ 64 * (a / 2 ^ e % 2 ^ 17) +
      2 ^ 81 * ((alignUp (a + n) (2 ^ e) - alignDown a (2 ^ e)) / 2 ^ e % 2 ^ 17) + 2 ^ 98 * e + 2 ^ 104 * p)
    tag := true }

/-- Part `k` of 16 equal parts of a stack capability; the tag is cleared when its length is no multiple of 256
(07 R187). -/
def CVal.stackPart (c : CVal) (k : Nat) : CVal :=
  let len := (c.top - c.base).toNat
  if len % 256 = 0 ∧ c.tag then
    match (c.setAddr (BitVec.ofInt 64 (c.base + k * (len / 16 : Nat)))).narrow (len / 16) with
    | .ok p => p
    | .error _ => { c with tag := false }
  else { c with tag := false }

/-- Whether the address field lies in tile space or is a LOCAL offset: SRAM (04 R102). -/
def CVal.isSram (c : CVal) : Bool := c.has .local || df c.addr 56 8 == 1

/-- The die of an address without LOCAL: VA 47 in the global region, VA 55 in tile space (04 R102). -/
def dieOfVa (va : Dbl) : Nat := if df va 56 8 = 1 then df va 55 1 else df va 47 1

/-- The die of a core (00 R7). -/
def dieOf (c : CoreId) : Nat := c.val / 192

/-- Whether an address without LOCAL lies on the other die than a core's (04 R102). -/
def offDieAt (c : CoreId) (va : Dbl) : Bool := decide (df va 56 8 ≤ 1) && dieOfVa va != dieOf c

/-- Whether some byte of a range without LOCAL lies on the other die: its first, its last, or the first past a boundary of
VA 47 or VA 55 within it (04 R101, R102). -/
def offDieRange (c : CoreId) (va : Dbl) (n : Nat) : Bool :=
  offDieAt c va || decide (n ≠ 0) && offDieAt c (va + BitVec.ofNat 64 (n - 1)) ||
  [47, 55].any (fun k =>
    let b := (va.toNat / 2 ^ k + 1) * 2 ^ k
    decide (b < va.toNat + n) && offDieAt c (BitVec.ofNat 64 b))

/-- The tile identifier of a core (00 R8). -/
def tileOf (c : CoreId) : Nat := 256 * (c.val / 192) + c.val % 192

/-- The core that a tile identifier names, if it names one (00 R8). -/
def coreOfTile (t : Nat) : Option CoreId :=
  let i := 192 * (t / 256 % 2) + t % 256
  if t % 256 < 192 then (if h : i < 384 then some ⟨i, h⟩ else none) else none

/-- Row and column of a core on its die (00 R7). -/
def rowOf (c : CoreId) : Nat := c.val % 192 / 16
def colOf (c : CoreId) : Nat := c.val % 16

/-- The cluster of a core (00 R7). -/
def clusterOf (c : CoreId) : ClusterId :=
  Fin.ofNat 24 (12 * (c.val / 192) + 4 * (rowOf c / 4) + colOf c / 4)

/-- The quad number of a core within its cluster (00 R7). -/
def quadOf (c : CoreId) : Nat := 2 * (rowOf c % 4 / 2) + colOf c % 4 / 2

/-- Position of a core within its cluster (11 R244, 19 R339). -/
def posOf (c : CoreId) : Nat := 4 * (rowOf c % 4) + colOf c % 4

/-- The core at a position of a cluster. -/
def coreAt (q : ClusterId) (p : Nat) : CoreId :=
  Fin.ofNat 384 (192 * (q.val / 12) + 16 * (4 * (q.val % 12 / 4) + p / 4) + 4 * (q.val % 4) + p % 4)

end Sys2Proof
end

