-- ==== Sys2Proof/Machine/Base.lean ====
section
/-! DEFINITION. Access to the parts of the state, the agenda, device time, snapshots, logs, reports and notices. -/

namespace Sys2Proof.Machine

/-- What a meaning answers. -/
abbrev Out := Host.Outcome State Fault Refusal

/-! ### Parts of the state -/

def State.core (s : State) (c : CoreId) : Core := rd s.cores c
def State.setCore (s : State) (c : CoreId) (x : Core) : State := { s with cores := wr s.cores c x }
def State.updCore (s : State) (c : CoreId) (f : Core → Core) : State := s.setCore c (f (s.core c))
def Core.strand (x : Core) (k : SlotId) : Strand := rd x.strands k
def State.strand (s : State) (c : CoreId) (k : SlotId) : Strand := (s.core c).strand k
def State.setStrand (s : State) (c : CoreId) (k : SlotId) (x : Strand) : State :=
  s.updCore c (fun r => { r with strands := wr r.strands k x })
def State.updStrand (s : State) (c : CoreId) (k : SlotId) (f : Strand → Strand) : State :=
  s.setStrand c k (f (s.strand c k))
/-- The strand whose instruction executes. -/
def State.me (s : State) : Strand := s.strand s.cur.1 s.cur.2
def State.setMe (s : State) (x : Strand) : State := s.setStrand s.cur.1 s.cur.2 x
def State.updMe (s : State) (f : Strand → Strand) : State := s.setMe (f s.me)
def State.myCore (s : State) : Core := s.core s.cur.1
def State.cluster (s : State) (q : ClusterId) : Cluster := rd s.clusters q
def State.setCluster (s : State) (q : ClusterId) (x : Cluster) : State := { s with clusters := wr s.clusters q x }
def State.updCluster (s : State) (q : ClusterId) (f : Cluster → Cluster) : State := s.setCluster q (f (s.cluster q))
def State.updHome (s : State) (h : HomeId) (f : Home → Home) : State :=
  { s with homes := wr s.homes h (f (rd s.homes h)) }
def State.updWin (s : State) (k : Fin 32) (f : Win → Win) : State := { s with wins := wr s.wins k (f (rd s.wins k)) }
def State.updDom (s : State) (d : Fin 8) (f : Domain → Domain) : State := { s with doms := wr s.doms d (f (rd s.doms d)) }
def State.updHouse (s : State) (f : House → House) : State := { s with house := f s.house }

/-- The core and slot that run a piece of work, if it runs. -/
def State.slotOf (s : State) (c : CoreId) (wid : Nat) : Option SlotId :=
  (List.finRange 16).find? (fun k =>
    let x := s.strand c k
    x.work.wid == wid && decide (x.st ≠ .dormant))

/-- A change to a strand by its work's number: in its slot, or in its saved image. -/
def State.updWork (s : State) (c : CoreId) (wid : Nat) (f : Strand → Strand) : State :=
  match s.slotOf c wid with
  | some k => s.updStrand c k f
  | none => s.updCore c (fun r =>
      { r with saved := r.saved.map (fun v => if v.strand.work.wid = wid then { v with strand := f v.strand } else v) })

/-- The strand of a piece of work, in its slot or saved. -/
def State.workOf (s : State) (c : CoreId) (wid : Nat) : Option Strand :=
  match s.slotOf c wid with
  | some k => some (s.strand c k)
  | none => ((s.core c).saved.find? (fun v => v.strand.work.wid == wid)).map (·.strand)

/-- Whether some UCIe port is in service, so that requests reach the other die (22 R392). -/
def State.linked (s : State) : Bool := (List.range 12).any (fun r => s.house.ready.getLsbD (40 + r))

/-! ### Numbers, free values, agenda -/

/-- A number for something new, and the state that has given it. -/
def State.newId (s : State) : Nat × State := (s.nextId, { s with nextId := s.nextId + 1 })

/-- A value that the spec leaves open (log entry 13). -/
def State.free (s : State) : VReg × State := (Config.freeValue s.freshN, { s with freshN := s.freshN + 1 })

/-- An event put on the agenda, to happen `d` ns from now at the earliest. -/
def State.post (s : State) (d : Nat) (e : Instr) : State := { s with agenda := s.agenda ++ [(s.dt + max d 1, e)] }

/-- An event put on the agenda unless it stands there already. -/
def State.postOnce (s : State) (d : Nat) (e : Instr) : State :=
  if s.agenda.any (fun p => p.2 == e) then s else s.post d e

/-- An event put on the agenda unless it stands there for that time or an earlier one. -/
def State.postBy (s : State) (d : Nat) (e : Instr) : State :=
  if s.agenda.any (fun p => p.2 == e && decide (p.1 ≤ s.dt + max d 1)) then s else s.post d e

/-! ### Device time (09 R225) -/

/-- Cycles of 1.9 GHz in a time (00 R1). -/
def cyclesOf (ns : Nat) : Nat := ns * 19 / 10

/-- floor(DT / 1,000) mod 2^32. -/
def State.now (s : State) : Word := BitVec.ofNat 32 (s.dt / 1000)

/-- `a` is before `b`. -/
def tsLt (a b : Word) : Bool := let d := (b - a).toNat; decide (1 ≤ d) && decide (d < 2 ^ 31)

/-- `a` is `b` or before it. -/
def tsLe (a b : Word) : Bool := a == b || tsLt a b

/-- The later of two timestamps. -/
def tsMax (a b : Word) : Word := if tsLt a b then b else a

/-! ### Network interfaces: homes 0-15, then the cores' -/

def niOfHome (h : HomeId) : Fin 400 := ⟨h.val, by omega⟩
def niOfCore (c : CoreId) : Fin 400 := ⟨16 + c.val, by omega⟩
def coreOfNi (n : Fin 400) : Option CoreId := if h : 16 ≤ n.val then some ⟨n.val - 16, by omega⟩ else none
def homeOfNi (n : Fin 400) : Option HomeId := if h : n.val < 16 then some ⟨n.val, h⟩ else none
/-- The die of a network interface. -/
def dieOfNi (n : Fin 400) : Nat := match coreOfNi n with | some c => dieOf c | none => n.val / 8

/-! ### Snapshots (21 R389) -/

/-- Slot state as a snapshot shows it. -/
def SlotSt.code : SlotSt → Nat
  | .dormant => 0 | .running => 1 | .waiting => 2 | .halted => 3

/-- Array status of a cluster, ASTAT (11 R251). -/
def Cluster.astat (q : Cluster) : Nat :=
  let held := (q.leases.filter (fun l => decide (l.st ≠ .requested))).length
  let apos := match q.turn with
    | some i => ((q.leases.find? (fun l => l.id == i)).map (fun l => l.pos.val)).getD 0
    | none => 0
  held + 2 ^ 6 * (if q.turn.isSome then 1 else 0) + 2 ^ 7 * apos + 2 ^ 12 * q.ptr.val + 2 ^ 32 * q.spills +
    2 ^ 48 * q.revokes

/-- A window's state as WST shows it (09 R232). -/
def WinSt.code : WinSt → Nat
  | .disabled => 0 | .opened => 1 | .armed => 2 | .closing => 3

/-- Low half of WST (09 R232). -/
def Win.wstLo (w : Win) : Nat := w.tgt.toNat + 2 ^ 32 * w.st.code + 2 ^ 48 * (w.closes % 2 ^ 16)

/-- The words that one block latches. -/
def State.snapBlock (s : State) (b : Nat) : List Nat :=
  if h : b < 384 then
    let x := s.core ⟨b, h⟩
    s.dt :: ((List.finRange 16).map (fun k => (x.strand k).pcc.addr.toNat) ++
      (List.finRange 16).map (fun k => (x.strand k).st.code + 2 ^ 16 * (x.strand k).asid.toNat))
  else if b < 400 then
    [s.dt, (s.ops.filter (fun o => match o.job with | .walk w => w.engine == b - 384 && w.result.isNone | _ => false)).length,
      (rd s.homes (Fin.ofNat 16 (b - 384))).vlogOvf]
  else if b < 424 then [s.dt, (s.cluster (Fin.ofNat 24 (b - 400))).astat]
  else if b = 424 then s.dt :: (List.finRange 32).map (fun k => (rd s.wins k).wstLo)
  else []

/-- Every block latched, SNAPID written, the trigger disarmed. -/
def State.latch (s : State) (id : BitVec 16) : State :=
  let words := (List.range 425).flatMap (fun b =>
    (s.snapBlock b).zipIdx.map (fun p => (b, p.2, BitVec.ofNat 64 p.1)))
  s.updHouse (fun h => { h with snap := words, snapid := id, snapctl := (h.snapctl &&& 0xF) ||| 0x200 })

/-- A trigger of source `src`, absorbed while unarmed; `snap` and `freeze` need no enable. -/
def State.trigger (s : State) (src : Nat) (id : BitVec 16) (force : Bool) : State :=
  if s.house.snapctl.getLsbD 8 ∧ (force ∨ s.house.snapctl.getLsbD src) then s.latch id else s

/-! ### Violation logs (21 R387), reports (19 R353), notices (07 R184) -/

/-- An entry put into a log of eight, or its overflow count raised. -/
def logPut (log : List VlogEntry) (ovf : Nat) (x : VlogEntry) : List VlogEntry × Nat :=
  match log.findIdx? (fun e => !e.getLsbD 127) with
  | some i => (lset log i x, ovf)
  | none => (log, hold 0xFFFF (ovf + 1))

/-- A log entry's fields. -/
def vlogWord (va : Dbl) (asid : BitVec 16) (tile : Nat) (wr eng : Bool) (cause : Nat) (ts : Word) : VlogEntry :=
  BitVec.ofNat 128 (va.toNat + 2 ^ 64 * asid.toNat + 2 ^ 80 * (tile % 512) + (if wr then 2 ^ 89 else 0) +
    2 ^ 90 * (cause % 16) + (if eng then 2 ^ 94 else 0) + 2 ^ 95 * ts.toNat + 2 ^ 127)

/-- A logged event at a network interface; it is reported to the housekeeping core, and it may raise the snapshot trigger. -/
def State.logAt (s : State) (ni : Fin 400) (x : VlogEntry) : State :=
  let s1 := match homeOfNi ni, coreOfNi ni with
    | some h, _ => s.updHome h (fun r =>
        let p := logPut r.vlog r.vlogOvf x
        { r with vlog := p.1, vlogOvf := p.2 })
    | none, some c => s.updCore c (fun r =>
        let p := logPut r.vlog r.vlogOvf x
        { r with vlog := p.1, vlogOvf := p.2 })
    | none, none => s
  (s1.updHouse (fun h => { h with log := h.log ++ [x] })).trigger 2 0xFFFE false

/-- The packet of a control message: channel, source, time, ADDR, VAL (07 R176). -/
def mkAep (chan kind src flags : Nat) (ts addr val : Word) : Quad :=
  BitVec.ofNat 128 (src % 2 ^ 16 + flags + 2 ^ 24 * (kind % 4) + 2 ^ 26 * (chan % 64) + 2 ^ 32 * ts.toNat +
    2 ^ 64 * addr.toNat + 2 ^ 96 * val.toNat)

/-- A notice of the housekeeping core to the core SYSNC names for a die (07 R184). -/
def State.notice (s : State) (die code : Nat) (val : Word) : State :=
  let n := s.sysnc.toNat / 2 ^ (16 * (die % 2))
  if fld n 15 1 = 1 then
    s.post 100 (.messageArrival (Fin.ofNat 384 (n % 512))
      { aep := mkAep 0 3 0x1100 0 s.now (BitVec.ofNat 32 (code + 256 * die)) val
        stream := [], count := 0, wtype := 0, seq := 0, sender := .housekeeping, waiter := none })
  else s

/-- A report queued in GERR of a die, with the interrupt of the application cores and the notice that go with it (R353,
R184). -/
def State.report (s : State) (die : Fin 2) (grid : Word) (core slot cause retry : Nat) : State :=
  let q := rd s.gerr die
  let e := BitVec.ofNat 64 (grid.toNat + 2 ^ 32 * core + 2 ^ 41 * slot + 2 ^ 45 * cause + 2 ^ 48 * min retry 3 + 2 ^ 63)
  if q.length < 16 then
    ({ s with gerr := wr s.gerr die (q ++ [e]), host := { s.host with interrupts := s.host.interrupts + 1 } } : State).notice die.val 5 0
  else { s with gerrOvf := wr s.gerrOvf die true }

/-- The value that an access which the model builds for hardware carries: address and permissions over everything. -/
def CVal.whole (loc : Bool) (va : Dbl) : CVal :=
  { val := va.setWidth 128 ||| (63 <<< 98) ||| (if loc then 1 <<< 109 else 0), tag := true }

end Sys2Proof.Machine
end

