-- ==== Sys2Proof/Machine/Work.lean ====
section
/-! DEFINITION. What ends with a piece of work: tiles, leases, the message, the task-queue entry, team places, grids
(03 R97, R98; 14 R293; 19 R341, R343, R347; 09 R214, R215). -/

namespace Sys2Proof.Machine

/-- The NI looks for work for a dormant slot, and the cluster's queues for room (09 R215). -/
def State.offer (s : State) (c : CoreId) : State := s.postOnce 1 (.handlerChoice c)

/-- Every core of a cluster that has a dormant slot looks for work. -/
def State.offerCluster (s : State) (q : ClusterId) : State :=
  (List.range 16).foldl (fun s p => s.offer (coreAt q p)) s

/-- A unit of the inbox freed: refused senders are looked at again (09 R218, R219). -/
def State.freeUnit (s : State) (c : CoreId) (u : Nat) : State :=
  let x := s.core c
  let s1 := s.setCore c { x with inbox := x.inbox.filter (fun m => m.unit != u) }
  (x.refused.foldl (fun s r => s.postOnce 1 (.refusalCallback c r.chan)) s1).offer c

/-- A strand's current message ended and its unit freed (R98, 17 R316). -/
def State.endMsg (s : State) (c : CoreId) (k : SlotId) : State :=
  match (s.strand c k).msg with
  | some m => (s.updStrand c k (fun x => { x with msg := none })).freeUnit c m.unit
  | none => s

/-- Every tile a slot holds, released, and its place in the queues of others (06 R150). That a strand which a pre-emption
saves while it waits in `tclaim` loses its place, and asks anew once restored, is the model's choice (log entry 69). -/
def State.freeTiles (s : State) (c : CoreId) (k : SlotId) : State :=
  s.updCore c (fun x => { x with
    t := vmap (fun (t : Tile) =>
      { t with holder := (if t.holder = some k then none else t.holder), queue := t.queue.filter (· != k) }) x.t })

/-- A lease taken off a cluster's array with everything it holds (06 R154). -/
def State.dropLease (s : State) (q : ClusterId) (id : Nat) : State :=
  let s1 := s.updCluster q (fun x => { x with
    leases := x.leases.filter (fun l => l.id != id)
    frames := vmap (fun f => if f = some id then none else f) x.frames
    turn := if x.turn = some id then none else x.turn })
  let s2 := { s1 with ops := s1.ops.filter (fun o => match o.job with
    | .fill f => !(f.cluster == q && f.lease == id)
    | _ => true) }
  (s2.postOnce 1 (.leaseGrant q)).postOnce 1 (.arrayTurn q)

/-- A strand slot made dormant; its queues are emptied, its registers keep undefined values (09 R214, 07 R177). -/
def Strand.idle (x : Strand) : Strand :=
  { x with st := .dormant, halt := none, outbox := [], wins := [], kept := [], rep := none, await := none, held := [],
           redo := [], took := [], upcalls := 0, postErr := none, amoErr := none, ending := none, chwait := none, lease := none, work := .none, sendWait := 0, ticket := none, answer := none,
           barAt := none, ldq := [], stq := [], engq := [], vldq := [], vstq := [] }

/-- Whether an operation still owes a tile register of a piece of work a write; one that a task has deferred does not
before its commit (16 R308). -/
def Op.owesTile (o : Op) (c : CoreId) (wid : Nat) : Bool :=
  !o.deferred && o.core == c && o.wid == wid && (match o.job with
    | .copy g _ _ _ => g.tile.isSome
    | .readout r => r.tile.isSome
    | _ => false)

/-- What `hend`, `suspend`, `done` and their kin release, and the slot made dormant (R97, R98). -/
def State.release (s : State) (c : CoreId) (k : SlotId) : State :=
  let wid := (s.strand c k).work.wid
  let s0 : State := { s with
    ops := s.ops.filter (fun (o : Op) => !o.owesTile c wid), vwait := s.vwait.filter (fun p => p.2 != wid)
    clusters := vmap (fun (q : Cluster) => { q with tqWait := q.tqWait.filter (fun e => e.waiter != some wid) }) s.clusters }
  let s0 := (List.finRange 24).foldl (fun s1 q =>
    if (s.cluster q).tqWait.any (fun e => e.waiter == some wid) then s1.postOnce 1 (.queuePushWait q) else s1) s0
  let s1 := (s0.endMsg c k).freeTiles c k
  let s2 := match (s1.strand c k).lease with
    | some l => s1.dropLease (clusterOf c) l
    | none => s1
  (s2.updStrand c k Strand.idle).offer c

/-! ### Task-queue entries -/

/-- A change to a task-queue entry. -/
def State.updEntry (s : State) (q : ClusterId) (id : Nat) (f : TqEntry → TqEntry) : State :=
  s.updCluster q (fun x => { x with tq := x.tq.map (fun e => if e.id = id then f e else e) })

/-- An entry given up; waiting pushes are served (14 R293, R294). -/
def State.dropEntry (s : State) (q : ClusterId) (id : Nat) : State :=
  let s1 := s.updCluster q (fun x => { x with tq := x.tq.filter (fun e => e.id != id) })
  if (s.cluster q).tqWait.isEmpty then s1 else s1.postOnce 1 (.queuePushWait q)

/-- The cluster whose queue holds an entry. -/
def State.findEntry (s : State) (id : Nat) : Option (ClusterId × TqEntry) :=
  (List.finRange 24).findSome? (fun q => ((s.cluster q).tq.find? (fun e => e.id == id)).map (fun e => (q, e)))

/-! ### Grids -/

def State.grid (s : State) (g : Word) : Option Grid := s.grids.find? (fun x => x.id == g)

def State.updGrid (s : State) (g : Word) (f : Grid → Grid) : State :=
  { s with grids := s.grids.map (fun x => if x.id = g then f x else x) }

/-- The unit of a grid's top level that a team uses (R343). -/
def Grid.unitOfTeam (g : Grid) (t : Nat) : Option TeamUnit := g.units[t % g.units.length]?

/-- Whether an entry of a grid's records is held. -/
def State.gridQueued (s : State) (g : Grid) : Bool :=
  (List.finRange 24).any (fun q =>
    (s.cluster q).tq.any (fun e => e.grid == some g.id) || (s.cluster q).tqWait.any (fun e => e.grid == some g.id))

/-- Whether something that a grid installed stands. -/
def Grid.stands (g : Grid) : Bool := !g.chans.isEmpty || !g.bins.isEmpty

/-- Whether anything of a grid is still to run: it waits in its queue, a team's records are not pushed yet, an entry of
its records is held, or something that a configuration grid installed stands (R341). -/
def State.gridLive (s : State) (g : Grid) : Bool :=
  !g.placed ||
  g.members.any (fun m => !m.ended && (g.unitOfTeam m.team).any (fun u => !u.started.contains m.team)) ||
  s.gridQueued g || g.stands && !(g.r.start.tag || g.r.entry.tag)

/-- What the launch unit frees when a grid ends (R341; 07 R202; 15 R297; R348, R354), and the notice of it (07 R184). -/
def State.endGrid (s : State) (g : Grid) : State :=
  let free := fun (v : Vector XAcc 64) => vmap (fun (a : XAcc) => if a.grid = some g.id then { a with used := false, grid := none } else a) v
  let s1 : State := { s with
    grids := if g.stands then s.grids.map (fun x => if x.id = g.id then { x with ended := true } else x)
      else s.grids.filter (fun x => x.id != g.id)
    clusters := vmap (fun (q : Cluster) => { q with xacc := free q.xacc }) s.clusters
    homes := vmap (fun (h : Home) => { h with xacc := free h.xacc }) s.homes
    doms := vmap (fun (d : Domain) => if d.grid = some g.id then { d with grid := none, tasks := [], highest := none } else d) s.doms
    parts := vmap (fun (p : Option Partition) => match p with
      | some x => if x.grid = g.id then none else some x
      | none => none) s.parts
    detWin := if s.grids.any (fun x => !x.ended && x.id != g.id && x.r.asid == g.r.asid) then s.detWin
      else s.detWin.filter (fun w => w.2.1 != g.r.asid) }
  let cores := s.parts.toList.flatMap (fun p => match p with
    | some x => if x.grid = g.id then x.cores else []
    | none => [])
  let freed := fun (p : Fin 4) => (rd s.parts p).any (fun x => x.grid == g.id)
  let s1 : State := { s1 with agenda := s1.agenda.filter (fun e => match e.2 with
    | .partitionPeriodStart p | .partitionBudgetStart p | .partitionBudgetEnd p => !freed p
    | _ => true) }
  State.notice (cores.foldl State.offer s1) (if g.id.getLsbD 31 then 1 else 0) 3 g.id

/-- A grid is looked at once something of it has ended. -/
def State.gridCheck (s : State) (g : Option Word) : State :=
  match g with
  | none => s
  | some id => match s.grid id with
    | some x =>
      if x.ended then
        if s.gridQueued x || x.stands then s else { s with grids := s.grids.filter (fun y => y.id != id) }
      else if s.gridLive x then s else s.endGrid x
    | none => s

/-- A member has ended, or counts as ended (04 R121, 19 R347, R351). -/
def State.memberEnds (s : State) (g : Option Word) (i : Option Nat) : State :=
  match g, i with
  | some id, some i =>
    let s1 := s.updGrid id (fun x => { x with members := x.members.map (fun m => if m.i = i then { m with ended := true } else m) })
    match s1.grid id with
    | some x =>
      (List.range x.units.length).foldl (fun s u =>
        let dead := match x.units[u]? with
          | some y => match y.resident with
            | some t => x.members.all (fun m => m.team != t || m.ended)
            | none => false
          | none => false
        if dead then s.post 1 (.teamSliceExpiry id u) else s) s1
    | none => s1
  | _, _ => s

/-- A continuation's run has ended: its entry, its member place, its grid (R293, R341). -/
def State.entryEnds (s : State) (w : Work) : State :=
  match w.entry with
  | none => s
  | some id =>
    match s.findEntry id with
    | some (q, _) => ((s.dropEntry q id).memberEnds w.grid w.member).gridCheck w.grid
    | none => (s.memberEnds w.grid w.member).gridCheck w.grid

end Sys2Proof.Machine
end

