-- ==== Sys2Proof/Machine/Versions.lean ====
section
/-! DEFINITION. Speculative tasks: their lookup, the frontier, version records, conflicts and aborts
(15 R298; 16 R303-R306, R309, R311), and the end of work after a hardware error (19 R351). -/

namespace Sys2Proof.Machine

/-- A task and its domain, by the task's number. -/
def State.task (s : State) (id : Nat) : Option (Fin 8 × STask) :=
  (List.finRange 8).findSome? (fun d => ((rd s.doms d).tasks.find? (fun t => t.id == id)).map (fun t => (d, t)))

def State.updTask (s : State) (d : Fin 8) (id : Nat) (f : STask → STask) : State :=
  s.updDom d (fun x => { x with tasks := x.tasks.map (fun t => if t.id = id then f t else t) })

/-- The lowest timestamp among the tasks that have neither committed nor aborted (R298). -/
def Domain.frontier (d : Domain) : Option (BitVec 48) :=
  d.tasks.foldl (fun m t => match m with
    | none => some t.ts
    | some x => if t.ts < x then some t.ts else some x) none

/-- The task at the frontier. -/
def Domain.first (d : Domain) : Option STask := d.tasks.find? (fun t => d.frontier == some t.ts)

/-- The domain's frontier is looked at: a finished task commits, a waiting one becomes irrevocable (R307, R310). -/
def State.pokeDomain (s : State) (d : Fin 8) : State := (s.postOnce 1 (.taskCommit d)).postOnce 1 (.taskIrrevocable d)

/-- Whether two records lie on one line, taken per alias (R305). -/
def VRec.sameLine (v w : VRec) : Bool := v.sliceOf == w.sliceOf && v.line == w.line && (v.sliceOf.isSome || v.asid == w.asid)

/-- One round of the cascade of R306: children of the aborted, and later readers of lines they had versions of. -/
def State.cascadeStep (s : State) (d : Fin 8) (ids : List Nat) : List Nat :=
  (rd s.doms d).tasks.foldl (fun (acc : List Nat) (t : STask) =>
    if acc.contains t.id ∨ t.st = .irrevocable then acc
    else
      let child : Bool := match t.parent with | some p => acc.contains p | none => false
      let reads : Bool := s.vers.any (fun r => r.task == t.id && r.mark &&
        s.vers.any (fun v => acc.contains v.task && v.task != t.id && decide (v.ts < t.ts) && v.sameLine r &&
          v.bytes.any Option.isSome))
      if child ∨ reads then acc ++ [t.id] else acc) ids

/-- The tasks that fall with some tasks, transitively. -/
def State.cascade (s : State) (d : Fin 8) : Nat → List Nat → List Nat
  | 0, ids => ids
  | n + 1, ids => s.cascade d n (s.cascadeStep d ids)

/-- The slot or saved image that runs a task is stopped, and what it holds released. -/
def State.stopTask (s : State) (id : Nat) (c : CoreId) : State :=
  let s1 := match (List.finRange 16).find? (fun k => (s.strand c k).work.task == some id && decide ((s.strand c k).st ≠ .dormant)) with
    | some k => s.release c k
    | none => s
  let gone := ((s1.core c).saved.filter (fun v => v.strand.work.task == some id)).map (fun v => v.strand.work.wid)
  ({ s1 with vwait := s1.vwait.filter (fun p => !gone.contains p.2) } : State).updCore c (fun x =>
    { x with saved := x.saved.filter (fun v => v.strand.work.task != some id) })

/-- Why a task is aborted: a conflict or its cascade (R306), `tabort` (07 R201), a hardware error (R311, 19 R351). -/
inductive AbortWhy where
  | conflict | tabort | error
  deriving DecidableEq, Repr

/-- A count of a domain's status register that holds at 0xFFFF raised. -/
def up16 (n : Nat) : Nat := hold 0xFFFF (n + 1)

/-- One task aborted: its versions, marks and deferred operations discarded; re-run or discarded by R311. After a hardware
error the retry limit of 19 R351 decides instead. -/
def State.abortOne (s : State) (d : Fin 8) (id : Nat) (why : AbortWhy) (parentFell : Bool) : State :=
  match (rd s.doms d).tasks.find? (fun t => t.id == id) with
  | none => s
  | some t =>
    let s0 := match t.core with | some c => s.stopTask id c | none => s
    let s1 := { s0 with
      vers := s0.vers.filter (fun v => v.task != id)
      ops := s0.ops.filter (fun o => !t.defer.any (fun x => match x with | .op i => i == o.id | _ => false)) }
    let restart := ((s.findEntry t.entry).map (fun e => e.2.rec0.flags.getLsbD 7)).getD false
    let s2 := s1.updDom d (fun x => match why with
      | .tabort => { x with xabort := up16 x.xabort }
      | .conflict => { x with cabort := up16 x.cabort }
      | .error => x)
    if restart ∧ why ≠ .tabort ∧ !parentFell then
      let conflict := why == .conflict
      let s3 := s2.updDom d (fun x => if conflict then { x with rerun := up16 x.rerun } else x)
      let s4 := s3.updTask d id (fun t => { t with
        st := .queued, core := none, reruns := if conflict then t.reruns + 1 else t.reruns, defer := [] })
      (s4.updEntry t.cluster t.entry (fun e => { e with crec := e.rec0, taken := false })).offerCluster t.cluster
    else if why = .error then s2
    else
      let s3 := s2.updDom d (fun x => { x with tasks := x.tasks.filter (fun t => t.id != id) })
      let g := (s.findEntry t.entry).bind (fun e => e.2.grid)
      (s3.dropEntry t.cluster t.entry).gridCheck g

/-- Tasks of one domain aborted with everything of it that falls with them (R306); `gone` has been aborted already.
Answers the tasks that fell. -/
def State.abortIn (s : State) (d : Fin 8) (roots gone : List Nat) (why : AbortWhy) : List Nat × State :=
  let roots := roots.filter (fun i => (rd s.doms d).tasks.any (fun t => t.id == i && t.st != .irrevocable))
  if roots.isEmpty then ([], s)
  else
    let all := s.cascade d (rd s.doms d).tasks.length roots
    let fell := fun i => ((rd s.doms d).tasks.find? (fun t => t.id == i)).any (fun t =>
      match t.parent with | some p => all.contains p || gone.contains p | none => false)
    let homes := (s.vers.filter (fun v => all.contains v.task)).map (·.home)
    let s1 := all.foldl (fun s i => s.abortOne d i (if roots.contains i then why else .conflict) (fell i)) s
    let s2 := homes.foldl (fun s h => s.postOnce 1 (.versionRecordFreed (Fin.ofNat 400 h))) s1
    (all, s2.pokeDomain d)

/-- Tasks that aborted tasks spawned into other domains, aborted too. -/
def State.abortKids : Nat → List Nat → State → State
  | 0, _, s => s
  | n + 1, gone, s =>
    if gone.isEmpty then s
    else
      let r := (List.finRange 8).foldl (fun (r : List Nat × State) (d : Fin 8) =>
        let kids := ((rd r.2.doms d).tasks.filter (fun t => t.parent.any gone.contains)).map (fun (t : STask) => t.id)
        let q := r.2.abortIn d kids gone .conflict
        (r.1 ++ q.1, q.2)) ([], s)
      State.abortKids n r.1 r.2

/-- Tasks aborted with everything that falls with them (R306). -/
def State.abortTasks (s : State) (d : Fin 8) (roots : List Nat) (why : AbortWhy) : State :=
  let r := s.abortIn d roots [] why
  State.abortKids ((s.doms.toList.map (fun x => x.tasks.length)).foldl (· + ·) 8) r.1 r.2

/-- Whether a record lies on a line. -/
def VRec.on (v : VRec) (k : LineKey) : Bool :=
  v.sliceOf == k.sliceOf && v.line == k.line && (k.sliceOf.isSome || v.asid == k.asid)

/-- A write that becomes ordinary memory aborts every task with a read mark on the line (R306). -/
def State.ordinaryWrite (s : State) (k : LineKey) : State :=
  let hit := s.vers.filter (fun v => v.mark && v.on k)
  if hit.isEmpty then s
  else (List.finRange 8).foldl (fun s d =>
    s.abortTasks d ((hit.filter (fun v => v.dom == d)).map (·.task)) .conflict) s

/-- The commit of a task's version aborts the readers of the line in every other domain (R306). -/
def State.commitWrite (s : State) (d : Fin 8) (k : LineKey) : State :=
  let hit := s.vers.filter (fun v => v.mark && v.on k && v.dom != d)
  (List.finRange 8).foldl (fun s e =>
    let ids := (hit.filter (fun v => v.dom == e)).map (·.task)
    if ids.isEmpty then s else s.abortTasks e ids .conflict) s

/-- A speculative write aborts the later readers of the line in its own domain (R306). -/
def State.specWrite (s : State) (d : Fin 8) (ts : BitVec 48) (k : LineKey) : State :=
  s.abortTasks d ((s.vers.filter (fun v => v.mark && v.on k && v.dom == d && decide (ts < v.ts))).map (·.task)) .conflict

/-! ### Work that a hardware error ends (R351) -/

/-- The grid named in a report. -/
def gridNo (g : Option Word) : Word := g.getD 0

/-- A task that is not run again leaves its domain. -/
def State.dropTask (s : State) (w : Work) : State :=
  match w.task with
  | some id => (s.updDom w.domain (fun x => { x with tasks := x.tasks.filter (fun t => t.id != id) })).pokeDomain w.domain
  | none => s

/-- The work of a slot ended as after a hardware error on its core: run again, discarded, or ended, and reported (R351).
An irrevocable task, which is never aborted, is run again as it stands. -/
def State.hwEnd (s : State) (c : CoreId) (k : SlotId) : State :=
  let w := (s.strand c k).work
  let die : Fin 2 := Fin.ofNat 2 (dieOf c)
  match w.kind with
  | .none => s
  | .handler _ | .inlineHandler _ => (s.release c k).report die (gridNo w.grid) c.val k.val 4 0
  | .continuation =>
    let s1 := match w.task with
      | some id =>
        let a := s.abortTasks w.domain [id] .error
        if (a.strand c k).work.wid = w.wid ∧ (a.strand c k).st ≠ SlotSt.dormant then a.release c k else a
      | none => s.release c k
    match w.entry.bind s1.findEntry with
    | none => s1.report die (gridNo w.grid) c.val k.val 3 0
    | some (q, e) =>
      if e.crec.flags.getLsbD 7 = false then
        ((s1.dropTask w).entryEnds w).report die (gridNo w.grid) c.val k.val 3 e.retries
      else if e.retries < 2 then
        let away : Option CoreId := if e.bound.isNone then some c else none
        let s2 := s1.updEntry q e.id (fun x => { x with taken := false, retries := x.retries + 1, avoid := away, after := some w.wid })
        (s2.offerCluster q).report die (gridNo w.grid) c.val k.val 1 (e.retries + 1)
      else ((s1.dropTask w).entryEnds w).report die (gridNo w.grid) c.val k.val 2 e.retries

end Sys2Proof.Machine
end

