-- ==== Sys2Proof/Machine/Translate.lean ====
section
/-! DEFINITION. Homes, the protection unit, page tables, TLBs and walkers (21_translation_faults_preemption.md
R367-R374; 04 R102; 22 R392, R393, R404, R405). A walk is made inside the access that needs it (log entry 8). -/

namespace Sys2Proof.Machine

/-- Who makes an access: its core, its ASID, and whether an engine makes it. -/
structure Who where
  core : CoreId
  asid : BitVec 16
  eng : Bool
  deriving DecidableEq, Repr

/-- What an access does. -/
inductive Mode where
  | read | write | exec
  deriving DecidableEq, Repr

/-- First byte of the slices, and of a core's slice, in the map of R393. -/
def sliceBase : Nat := 2 ^ 48
def slicePhys (c : CoreId) (off : Nat) : Nat := sliceBase + 2 ^ 21 * tileOf c + off

/-- First offset of the reserved area of a slice (13 R274). -/
def sliceTop : Nat := 0x1FA000

/-- The fold of bits 46:12 (R367). -/
def fold3 (x : Nat) : Nat :=
  ((List.range 11).foldl (fun h i => Nat.xor h (fld x (12 + 3 * i) 3)) 0).xor (fld x 45 2)

/-- Home of a global address (R367). -/
def homeOfGlobal (va : Nat) : HomeId := Fin.ofNat 16 (8 * fld va 47 1 + fold3 va)

/-- A failure of an access. -/
def mkFault (cause : Cause) (m : Mode) (va : Dbl) (log : Nat) (spilled perm : Bool := false) : FaultInfo :=
  { cause := cause, write := m == .write, spilled := spilled, perm := perm, va := va, log := log }

/-- A failure that ends in an error response is logged at the home that refused (R387). -/
def State.logFault (s : State) (ni : Fin 400) (w : Who) (f : FaultInfo) : State :=
  s.logAt ni (vlogWord f.va w.asid (tileOf w.core) f.write w.eng f.log s.now)

/-- The interface that translates an address: its home's, or its tile's. -/
def niOfVa (va : Dbl) : Option (Fin 400) :=
  match df va 56 8 with
  | 0 => some (niOfHome (homeOfGlobal va.toNat))
  | 1 => (coreOfTile (df va 47 9)).map niOfCore
  | _ => none

/-- A translation fault that ends in an error response, logged where its address lives: a granule that crosses dies, or a
bin's own access (20 R365; 21 R387, R408). Every other failure was logged where it was met. -/
def State.logRefused (s : State) (w : Who) (f : FaultInfo) : State :=
  if f.cause = .translation then s.logFault ((niOfVa f.va).getD (niOfCore w.core)) w f else s

/-! ### Protection regions (R368, R369) -/

def protV (p : Quad) : Bool := p.getLsbD 32
def protCovers (p : Quad) (off : Nat) : Bool :=
  protV p && decide (qf p 0 9 ≤ off / 4096) && decide (off / 4096 ≤ qf p 16 9)
def protAsid (p : Quad) : BitVec 16 := BitVec.ofNat 16 (qf p 48 16)

/-- The lowest-numbered valid region that covers an offset. -/
def Core.region (x : Core) (off : Nat) : Option Quad :=
  ((List.finRange 16).map (fun i => rd x.prot i)).find? (fun p => protCovers p off)

/-- The bank key of an offset (R369, 18 R338). -/
def Core.bankKey (x : Core) (off : Nat) : Nat := ((x.region off).map (fun p => qf p 64 16)).getD 0

/-- The check of a LOCAL access at one offset: the violation's cause, or whether the region keeps tags. -/
def Core.protCheck (x : Core) (w : Who) (off : Nat) (m : Mode) : Except Nat Bool :=
  if sliceTop ≤ off ∧ off < 2 ^ 21 then .error 7
  else match x.region off with
    | none => .error 3
    | some p =>
      if protAsid p ≠ w.asid ∨ (m = .write ∧ p.getLsbD 34 = false) ∨ (m ≠ .write ∧ p.getLsbD 33 = false) ∨
         (w.eng ∧ p.getLsbD 36 = false) then .error 3
      else .ok (p.getLsbD 35)

/-! ### TLBs -/

def State.tlb (s : State) (ni : Fin 400) : List TlbEntry :=
  match homeOfNi ni, coreOfNi ni with
  | some h, _ => (rd s.homes h).tlb
  | none, some c => (s.core c).tlb
  | none, none => []

def State.setTlb (s : State) (ni : Fin 400) (t : List TlbEntry) : State :=
  match homeOfNi ni, coreOfNi ni with
  | some h, _ => s.updHome h (fun r => { r with tlb := t })
  | none, some c => s.updCore c (fun r => { r with tlb := t })
  | none, none => s

def TlbEntry.hit (e : TlbEntry) (asid : BitVec 16) (va : Dbl) : Bool :=
  (e.global || e.asid == asid) && decide (e.va.toNat ≤ va.toNat) && decide (va.toNat < e.va.toNat + e.size)

/-! ### The walk (R370-R374) -/

/-- Installed LPDDR-6 bytes of a die, at most 128 GiB (22 R404; 00 R1). -/
def installed (die : Nat) : Nat := min (Config.memsz (Fin.ofNat 2 die)).toNat (2 ^ 37)

/-- Installed bytes of a die that programs can use (22 R404; R372). -/
def usable (die : Nat) : Nat := let n := installed die; n - n / 128

/-- Whether `n` bytes at a physical LPDDR-6 address are installed and outside the tag carve-out (R372). -/
def backed (pa n : Nat) : Bool := decide (pa < 2 ^ 48) && decide (pa % 2 ^ 47 + n ≤ usable (pa / 2 ^ 47))

/-- Whether a frame touches the area of compressed frames of its die (R379). -/
def State.inPgArea (s : State) (pa n : Nat) : Bool :=
  let a := rd s.pgarea (Fin.ofNat 2 (pa / 2 ^ 47))
  let lo := 2 ^ 21 * qf a 21 27
  let hi := 2 ^ 21 * (qf a 85 27 + 1)
  a.getLsbD 0 && decide (lo < pa + n) && decide (pa < hi)

/-- Whether the home of an LPDDR-6 byte is ready (21 R386; 22 R392, R404). -/
def State.homeReady (s : State) (pa : Nat) : Bool := s.house.ready.getLsbD (24 + (homeOfGlobal pa).val)

/-- Whether every home that `n` bytes from a physical address lie at is ready; slices always are (R392). -/
def State.homesReady (s : State) (a n : Nat) : Bool :=
  decide (sliceBase ≤ a) || (List.range ((a + n + 4095) / 4096 - a / 4096)).all (fun i => s.homeReady (4096 * (a / 4096 + i)))

/-- Why a descent fails: an entry that is not valid, a walk error, an uncorrectable table word (R374), or a table word whose
home is not ready (R386). -/
inductive WalkErr where
  | absent | breach | bad | unready
  deriving DecidableEq, Repr

/-- The failure that a walk's error is to the access that needed it (R374, R386). -/
def WalkErr.fault (m : Mode) (va : Dbl) : WalkErr → FaultInfo
  | .absent => mkFault .translation m va 0
  | .breach => mkFault .violation m va 1
  | .bad => mkFault .uncorrectable m va 5
  | .unready => mkFault .violation m va 6

/-- A failure of a translation logged where it was met, at an interface, or in the requester's own tile where a home was not
ready; a translation fault is not logged (R386, R387). -/
def State.logMet (s : State) (ni : Fin 400) (w : Who) (f : FaultInfo) : State :=
  if f.cause = .translation then s else s.logFault (if f.log = 6 then niOfCore w.core else ni) w f

/-- A leaf found: address of its entry, the entry, its level. -/
structure Leaf where
  at' : Nat
  pte : Nat
  level : Nat
  deriving DecidableEq, Repr

/-- A table double at its home. -/
def State.tableWord (s : State) (pa : Nat) : Except WalkErr Nat :=
  if !backed pa 8 then .error .breach
  else if !s.homeReady pa then .error .unready
  else if poisoned s.poison pa 8 then .error .bad
  else .ok (memNat s.mem pa 8)

/-- A leaf's kind. Bits 15:12 are both the frame's and, in part, the kind's and the software's: bit 11 and the region tell
kinds 00 and 01, whose frames take bits 15:12 (R371, R372; log entry 34). -/
def pteKind (tile : Bool) (p : Nat) : Nat :=
  match fld p 11 2, tile with
  | 3, true => 1
  | 2, false => 0
  | k, _ => k

/-- The descent from a level's table to the leaf (R371); a level-0 leaf that names a compressed frame is found with V
clear (R372). -/
def State.descend (s : State) (x : Nat) : Nat → Nat → Except WalkErr Leaf
  | level, table =>
    let at' := table + 8 * fld x (12 + 9 * level) 9
    match s.tableWord at' with
    | .error e => .error e
    | .ok p =>
      if fld p 0 1 = 0 then
        if fld p 11 1 = 0 ∧ fld p 1 1 = 0 ∧ level = 0 ∧ fld p 12 39 ≠ 0 then .ok { at' := at', pte := p, level := level }
        else .error .absent
      else if fld p 52 12 ≠ 0 then .error .breach
      else if fld p 1 1 = 1 then
        match level with
        | 0 => .error .breach
        | l + 1 => s.descend x l (2 ^ 12 * fld p 12 40)
      else if level = 3 ∨ (level = 2 ∧ fld p 7 1 = 1) then .error .breach
      else .ok { at' := at', pte := p, level := level }

/-- Bytes a leaf maps (R371). -/
def Leaf.size (l : Leaf) : Nat := 2 ^ (12 + 9 * l.level) * (if fld l.pte 7 1 = 1 then 16 else 1)

/-- The walk of an address of an ASID to its leaf (R370, R371). -/
def State.walkLeaf (s : State) (asid : BitVec 16) (va : Dbl) : Except WalkErr Leaf :=
  if s.atbase.getLsbD 0 = false then .error .absent
  else
    let e := 2 ^ 12 * df s.atbase 12 36 + 16 * asid.toNat
    match s.tableWord e, s.tableWord (e + 8) with
    | .error x, _ | _, .error x => .error x
    | .ok lo, .ok hi =>
      if fld lo 0 1 = 0 then .error .absent
      else if hi ≠ 0 ∨ fld lo 1 11 ≠ 0 ∨ fld lo 48 16 ≠ 0 then .error .breach
      else
        let x := if df va 56 8 = 1 then df va 0 47 else df va 0 48
        s.descend x 3 (2 ^ 12 * fld lo 12 36)

/-- A spilled page's leaf: kind 10 at level 0 without C, in tile space; with V clear bit 12 is its frame's alone (R372; log
entry 34). -/
def Leaf.spilled (l : Leaf) (va : Dbl) : Bool :=
  (fld l.pte 11 2 == 2 || (fld l.pte 0 1 == 0 && fld l.pte 11 1 == 0)) && l.level == 0 && fld l.pte 7 1 == 0 &&
  fld l.pte 51 13 == 0 && df va 56 8 == 1

/-- The frame a leaf gives, as an address of R393, if the leaf meets R372. -/
def State.leafFrame (s : State) (va : Dbl) (l : Leaf) : Option Nat :=
  let size := l.size
  match pteKind (df va 56 8 == 1) l.pte with
  | 0 =>
    let pa := 2 ^ 12 * fld l.pte 12 36
    let pa := if fld l.pte 7 1 = 1 then alignDown pa size else pa
    if df va 56 8 = 0 ∧ fld l.pte 48 4 = 0 ∧ fld pa 47 1 = df va 47 1 ∧ pa % size = 0 ∧ backed pa size ∧
       !s.inPgArea pa size ∧ fold3 (alignDown pa size) = fold3 (alignDown (df va 0 47) size) then some pa else none
  | 1 =>
    let off := 2 ^ 12 * fld l.pte 12 9
    let off := alignDown off size
    match coreOfTile (df va 47 9) with
    | some c =>
      if df va 56 8 = 1 ∧ fld l.pte 21 31 = 0 ∧ l.level = 0 ∧ off + size ≤ sliceTop then some (slicePhys c off) else none
    | none => none
  | _ => none

/-- A TLB entry for a leaf (R372, R373). -/
def Leaf.entry (l : Leaf) (asid : BitVec 16) (va : Dbl) (frame : Nat) : TlbEntry :=
  { asid := asid, global := fld l.pte 8 1 = 1, va := BitVec.ofNat 64 (alignDown va.toNat l.size), size := l.size
    frame := frame, r := fld l.pte 2 1 = 1, w := fld l.pte 3 1 = 1, x := fld l.pte 4 1 = 1, cap := fld l.pte 5 1 = 1
    det := fld l.pte 6 1 = 1, dirty := fld l.pte 10 1 = 1, pte := l.at' }

/-- Copies of some lines in every L0 dropped. -/
def State.dropCopies (s : State) (f : L0Line → Bool) : State :=
  { s with cores := vmap (fun (x : Core) =>
      if x.l0.any f then { x with l0 := x.l0.filter (fun e => !f e) } else x) s.cores }

/-- The L0 copies of a line dropped under every name: a writer outside the cores names the line by its place in memory. -/
def State.dropLine (s : State) (line : Nat) : State := s.dropCopies (fun e => e.phys == line)

/-- A bit set in a PTE by an atomic at its home (R373), which recalls the copies of its line. -/
def State.pteOr (s : State) (at' bit : Nat) : State :=
  ({ s with mem := memWrite s.mem at' (toBytes 8 (Nat.lor (memNat s.mem at' 8) (2 ^ bit))) } : State).dropLine (at' / 64)

/-- A walk at a network interface: the installed entry, or the failure (R373, R374). -/
def State.walk (s : State) (ni : Fin 400) (asid : BitVec 16) (va : Dbl) (m : Mode) :
    Except FaultInfo TlbEntry × State :=
  match s.walkLeaf asid va with
  | .error e => (.error (e.fault m va), s)
  | .ok l =>
    if l.spilled va then (.error (mkFault .translation m va 0 true), s)
    else if fld l.pte 0 1 = 0 then (.error (mkFault .translation m va 0), s)
    else match s.leafFrame va l with
    | none => (.error (mkFault .violation m va 1), s)
    | some f =>
      let e := l.entry asid va f
      let s1 := if fld l.pte 9 1 = 0 then s.pteOr l.at' 9 else s
      (.ok e, s1.setTlb ni ((e :: s1.tlb ni).take 512))

/-- The entry of an address: from the TLB, or by a walk (R373). -/
def State.lookup (s : State) (ni : Fin 400) (asid : BitVec 16) (va : Dbl) (m : Mode) :
    Except FaultInfo TlbEntry × State :=
  match (s.tlb ni).find? (fun e => e.hit asid va) with
  | some e => (.ok e, s.setTlb ni (e :: (s.tlb ni).erase e))
  | none => s.walk ni asid va m

/-- Whether the entry admits the access (R374). -/
def TlbEntry.admits (e : TlbEntry) : Mode → Bool
  | .read => e.r | .write => e.w | .exec => e.x

/-- The first write through a clean entry sets D in the PTE, unless the PTE has changed meanwhile (R373);
a PTE that cannot be read fails the access as a walk's would (R374, R386). -/
def State.makeDirty (s : State) (ni : Fin 400) (va : Dbl) (e : TlbEntry) : Except FaultInfo Unit × State :=
  if e.dirty then (.ok (), s)
  else
    match s.tableWord e.pte with
    | .error x => (.error (x.fault .write va), s)
    | .ok p =>
    let same := fld p 0 1 = 1 ∧
      s.leafFrame va { at' := e.pte, pte := p, level := if e.size ≤ 2 ^ 16 then 0 else if e.size ≤ 2 ^ 25 then 1 else 2 } = some e.frame
    if same then
      let s1 := s.pteOr e.pte 10
      (.ok (), s1.setTlb ni ((s1.tlb ni).map (fun x => if x = e then { x with dirty := true } else x)))
    else
      (.error (mkFault .translation .write va 0), s.setTlb ni ((s.tlb ni).erase e))

/-- One address translated and checked where its data lives; failures that end in an error response are logged
(R102, R367-R374, R386, R387). -/
def State.translate (s : State) (w : Who) (loc : Bool) (va : Dbl) (m : Mode) : Except FaultInfo Tr × State :=
  if loc then
    let off := va.toNat
    let ni := niOfCore w.core
    match (s.core w.core).protCheck w off m with
    | .error c =>
      let f := mkFault .violation m va c
      (.error f, s.logFault ni w f)
    | .ok keep =>
      (.ok { phys := slicePhys w.core off, det := false, keep := keep, ni := ni,
             key := { home := ni.val, asid := 0, line := BitVec.ofNat 64 (off / 64), sliceOf := some w.core } }, s)
  else if df va 56 8 = 0 then
    let h := homeOfGlobal va.toNat
    let ni := niOfHome h
    if s.house.ready.getLsbD (24 + h.val) = false then
      let f := mkFault .violation m va 6
      (.error f, s.logFault (niOfCore w.core) w f)
    else match s.lookup ni w.asid va m with
      | (.error f, s1) => (.error f, s1.logMet ni w f)
      | (.ok e, s1) =>
        if !e.admits m then (.error (mkFault .translation m va 0 false true), s1)
        else
          let (d, s2) := if m = .write then s1.makeDirty ni va e else (.ok (), s1)
          match d with
          | .error f => (.error f, s2.logMet ni w f)
          | .ok () =>
            (.ok { phys := e.frame + (va.toNat - e.va.toNat), det := e.det, keep := e.cap, ni := ni,
                   key := { home := ni.val, asid := w.asid, line := BitVec.ofNat 64 (va.toNat / 64), sliceOf := none } }, s2)
  else if df va 56 8 = 1 then
    match coreOfTile (df va 47 9) with
    | none =>
      let f := mkFault .violation m va 2
      (.error f, s.logFault (niOfCore w.core) w f)
    | some c =>
      let ni := niOfCore c
      match s.lookup ni w.asid va m with
      | (.error f, s1) => (.error f, s1.logMet ni w f)
      | (.ok e, s1) =>
        if !e.admits m then (.error (mkFault .translation m va 0 false true), s1)
        else
          let phys := e.frame + (va.toNat - e.va.toNat)
          let off := phys % 2 ^ 21
          let other := match (s1.core c).region off with
            | some p => protAsid p != w.asid
            | none => false
          if other then
            let f := mkFault .violation m va 3
            (.error f, s1.logFault ni w f)
          else
            let (d, s2) := if m = .write then s1.makeDirty ni va e else (.ok (), s1)
            match d with
            | .error f => (.error f, s2.logMet ni w f)
            | .ok () =>
              (.ok { phys := phys, det := e.det, keep := e.cap, ni := ni,
                     key := { home := ni.val, asid := 0, line := BitVec.ofNat 64 (off / 64), sliceOf := some c } }, s2)
  else
    let f := mkFault .violation m va (if df va 56 8 = 2 then 4 else 2)
    (.error f, s.logFault (niOfCore w.core) w f)

end Sys2Proof.Machine
end

