-- ==== Sys2Proof/Machine/Access.lean ====
section
/-! DEFINITION. Reads and writes of memory as strands and engines make them: line by line, through translation, the
core's write path, and speculative versions (04 R101-R106; 16 R304-R309; 18 R320-R323). -/

namespace Sys2Proof.Machine

/-- How an instruction can end other than by completing: a trap with its faulting address, a memory upcall of its own
access or of an earlier one whose value it waits for (R30), a stall that leaves the strand running, or a wait. An upcall
and a wait carry what the attempt has already changed. -/
inductive Stop where
  | trap (t : Trap) (addr : Option Dbl)
  | upcall (f : FaultInfo) (s : State)
  | late (f : FaultInfo) (long : Dbl) (s : State)
  | stall
  | wait (s : State)

/-- A trap without a faulting address. -/
def Stop.t (t : Trap) : Stop := .trap t none

/-- The parts of `n` bytes at `va`, one for each 64-byte line; `fuel` bounds their number. -/
def lineParts : Nat → Dbl → Nat → List (Dbl × Nat)
  | 0, _, _ => []
  | fuel + 1, va, n =>
    if n = 0 then []
    else
      let k := min n (64 - va.toNat % 64)
      (va, k) :: lineParts fuel (va + BitVec.ofNat 64 k) (n - k)

/-- The line parts of a range. -/
def partsOf (va : Dbl) (n : Nat) : List (Dbl × Nat) := lineParts (n / 64 + 2) va n

/-- Every part of a range translated, or the first failure. -/
def State.translateAll (s : State) (w : Who) (loc : Bool) (m : Mode) :
    List (Dbl × Nat) → Except (FaultInfo × State) (List (Tr × Dbl × Nat) × State)
  | [] => .ok ([], s)
  | (va, n) :: ps =>
    match s.translate w loc va m with
    | (.error f, s1) => .error (f, s1)
    | (.ok t, s1) =>
      match s1.translateAll w loc m ps with
      | .error e => .error e
      | .ok (ts, s2) => .ok ((t, va, n) :: ts, s2)

/-- One byte as read: its value and whether its granule's tag is set and kept. -/
abbrev RByte := Byte × Bool

/-- Committed bytes at a physical address, with the tag of each byte's granule. -/
def State.physRead (s : State) (phys n : Nat) (keep : Bool) : List RByte :=
  (List.range n).map (fun i => (memGet s.mem (phys + i), keep && tagAt s.tags (phys + i)))

/-- Translated parts read, or an uncorrectable word met and logged (R105, 21 R386). -/
def State.readParts (s : State) (w : Who) (m : Mode) :
    List (Tr × Dbl × Nat) → Except (FaultInfo × State) (List RByte)
  | [] => .ok []
  | (t, va, n) :: ps =>
    if poisoned s.poison t.phys n then
      let f := mkFault .uncorrectable m va 5
      .error (f, s.logFault t.ni w f)
    else match s.readParts w m ps with
      | .error e => .error e
      | .ok bs => .ok (s.physRead t.phys n t.keep ++ bs)

/-- Bytes of memory as an engine, a walker or hardware reads them: at their home (18 R322). -/
def State.homeRead (s : State) (w : Who) (loc : Bool) (va : Dbl) (n : Nat) (m : Mode := .read) :
    Except (FaultInfo × State) (List RByte × State) :=
  match s.translateAll w loc m (partsOf va n) with
  | .error e => .error e
  | .ok (ts, s1) =>
    match s1.readParts w m ts with
    | .error e => .error e
    | .ok bs => .ok (bs, s1)

/-- Whether an L0 copy stands under the name of a line: its ASID and virtual line, or, of a slice, its place there, where
the owner's LOCAL name and a tile-space name are one (18 R320, R336). -/
def L0Line.under (e : L0Line) (k : LineKey) (line : Nat) : Bool :=
  if k.sliceOf.isSome then e.phys == line else e.asid == k.asid && e.line == k.line

/-- The L0 copies made under the name of a line that a home writes, dropped (18 R322, R336). -/
def State.dropL0 (s : State) (k : LineKey) (line : Nat) : State := s.dropCopies (fun e => e.under k line)

/-- Bytes written at a physical address: tags cleared, uncorrectable words there overwritten (R104), and a join whose count
they cover begun anew (14 R296). -/
def State.physWrite (s : State) (phys : Nat) (bs : List Byte) : State :=
  { s with
    mem := memWrite s.mem phys bs
    tags := tagsClear s.tags phys bs.length
    joined := s.joined.filter (fun j => !(decide (phys < j + 4) && decide (j < phys + bs.length)))
    poison := s.poison.filter (fun p => !(decide (phys ≤ 8 * p) && decide (8 * p + 8 ≤ phys + bs.length))) }

/-- Translated parts written; each becomes ordinary memory (16 R306). -/
def State.writeParts (s : State) (w : Who) : List (Tr × Dbl × Nat) → List Byte → State
  | [], _ => s
  | (t, _, n) :: ps, bs =>
    let s1 := (s.physWrite t.phys (bs.take n)).ordinaryWrite t.key
    (s1.dropL0 t.key (t.phys / 64)).writeParts w ps (bs.drop n)

/-- The granules of a write that get their tag set, where the page or region keeps tags (04 R107, R110). -/
def State.setTags (s : State) (ts : List (Tr × Dbl × Nat)) (tagged : List Dbl) : State :=
  ts.foldl (fun s p =>
    tagged.foldl (fun s g =>
      if p.1.keep ∧ p.2.1.toNat ≤ g.toNat ∧ g.toNat < p.2.1.toNat + p.2.2 then
        { s with tags := tagSet s.tags (p.1.phys + (g.toNat - p.2.1.toNat)) true }
      else s) s) s

/-- Several ranges translated for writing before any byte is written. -/
def State.translateRanges (s : State) (w : Who) (loc : Bool) :
    List (Dbl × List Byte) → Except (FaultInfo × State) (List (List (Tr × Dbl × Nat) × List Byte) × State)
  | [] => .ok ([], s)
  | (va, bs) :: rs =>
    match s.translateAll w loc .write (partsOf va bs.length) with
    | .error e => .error e
    | .ok (ts, s1) =>
      match s1.translateRanges w loc rs with
      | .error e => .error e
      | .ok (l, s2) => .ok ((ts, bs) :: l, s2)

/-- Ranges written at their homes, all or none (18 R322 step 2). -/
def State.homeWrite (s : State) (w : Who) (loc : Bool) (rs : List (Dbl × List Byte)) (tagged : List Dbl) :
    Except (FaultInfo × State) State :=
  match s.translateRanges w loc rs with
  | .error e => .error e
  | .ok (l, s1) =>
    let s2 := l.foldl (fun s p => s.writeParts w p.1 p.2) s1
    .ok (l.foldl (fun s p => s.setTags p.1 tagged) s2)

/-! ### The write path (18 R320, R322) -/

/-- What a store in the write path gives for the byte at `va` of a name: its last value there. -/
def Posted.byteAt (p : Posted) (va : Dbl) : Option Byte :=
  match p.kind with
  | .store parts _ => parts.foldl (fun r q =>
      let d := (va - q.1).toNat
      match q.2[d]? with
      | some b => some b
      | none => r) none
  | _ => none

/-- Whether a posted access touches some byte of a range under the same name. -/
def Posted.touches (p : Posted) (loc : Bool) (asid : BitVec 16) (va : Dbl) (n : Nat) : Bool :=
  (p.cap.has .local == loc && (loc || p.asid == asid)) &&
  match p.kind with
  | .store parts _ => parts.any (fun q =>
      let a := q.1.toNat; let b := va.toNat
      decide (a < b + n) && decide (b < a + q.2.length))
  | .amo fn _ _ => let a := p.va.toNat; decide (a < va.toNat + n) && decide (va.toNat < a + (if fn.val = 10 then 4 else 8))
  | .xadd _ _ => false

/-- An atomic. -/
def Posted.isAmo (p : Posted) : Bool := match p.kind with | .amo _ _ _ => true | _ => false

/-- Whether two posted accesses of a core touch a byte of one name. -/
def Posted.meets (p q : Posted) : Bool :=
  match q.kind with
  | .store parts _ => parts.any (fun r => p.touches (q.cap.has .local) q.asid r.1 r.2.length)
  | .amo fn _ _ => p.touches (q.cap.has .local) q.asid q.va (if fn.val = 10 then 4 else 8)
  | .xadd _ _ => false

/-- The homes that a posted access goes to, numbered by their network interfaces; an accumulator's unit follows them. -/
def Posted.homes (c : CoreId) (p : Posted) : List Nat :=
  let at' := fun (va : Dbl) => if p.cap.has .local then (niOfCore c).val else ((niOfVa va).getD (niOfCore c)).val
  match p.kind with
  | .store parts _ => parts.flatMap (fun q => (partsOf q.1 q.2.length).map (fun r => at' r.1))
  | .amo _ _ _ => [at' p.va]
  | .xadd h _ => [if h.getLsbD 6 then qf h 7 4 else 400 + qf h 11 5]

/-- Whether two posted accesses of a core go to a common home. -/
def Posted.sharesHome (c : CoreId) (p q : Posted) : Bool := (p.homes c).any (fun h => (q.homes c).contains h)

/-- Whether a posted access goes to the other die: through its capability, or to an accumulator there. -/
def Posted.crosses (c : CoreId) (p : Posted) : Bool :=
  match p.kind with
  | .xadd h _ => h.getLsbD 6 && qf h 7 4 / 8 != dieOf c
  | _ => !p.cap.has .local && offDieAt c p.va

/-- Whether posted access `q` of a core must be performed before the later `p`: one of the same strand, but for
an atomic of the other die, which nothing on this die waits for (R333), one that touches a byte that `p` touches under its
name, or one to the same home across the dies (18 R321, R332). -/
def Posted.ahead (c : CoreId) (p q : Posted) : Bool :=
  q.slot == p.slot && !(q.isAmo && q.crosses c && !p.crosses c) || q.meets p || q.crosses c && p.crosses c && q.sharesHome c p

/-- Whether a posted access comes after a load of slot `k` with number `id` in the program order of the strand. -/
def Posted.later (p : Posted) (k : SlotId) (wid id : Nat) : Bool := p.slot == k && p.wid == wid && decide (id ≤ p.id)

/-- A byte read from memory, taken from the write path where it stands there; a store there clears the tag unless it
set it. -/
def overlayByte (path : List Posted) (loc : Bool) (asid : BitVec 16) (va : Dbl) (b : RByte) : RByte :=
  path.foldl (fun r p =>
    if p.cap.has .local == loc && (loc || p.asid == asid) then
      match p.byteAt va, p.kind with
      | some x, .store _ tagged =>
        (x, tagged.any (fun g => decide (g.toNat / 16 = va.toNat / 16)))
      | some x, _ => (x, false)
      | none, .store parts _ =>
        if parts.any (fun q => decide (q.1.toNat / 16 ≤ va.toNat / 16) &&
            decide (va.toNat / 16 ≤ (q.1.toNat + q.2.length - 1) / 16) && !q.2.isEmpty) then (r.1, false) else r
      | none, _ => r
    else r) b

/-- What a load sees of a core's writes at the 16-byte granule of `va`: those before the first that comes after the load in
its own strand's program order; a write that stands behind that one is later in the coherence order (18 R321). -/
def seenAt (path : List Posted) (later : Posted → Bool) (loc : Bool) (asid : BitVec 16) (va : Dbl) : List Posted :=
  path.takeWhile (fun p => !(later p && p.touches loc asid (va - BitVec.ofNat 64 (va.toNat % 16)) 16))

/-- Bytes from `va` up with the write path laid over them. -/
def overlay (path : List Posted) (loc : Bool) (asid : BitVec 16) (va : Dbl) (bs : List RByte) : List RByte :=
  bs.zipIdx.map (fun p => overlayByte path loc asid (va + BitVec.ofNat 64 p.2) p.1)

/-! ### Speculative accesses (16 R304, R305, R309) -/

/-- The speculative task of a strand: its domain, timestamp and number, its work and ASID. -/
structure SpecCtx where
  dom : Fin 8
  ts : BitVec 48
  id : Nat
  wid : Nat
  asid : BitVec 16
  deriving DecidableEq, Repr

/-- A strand's speculative task, unless it runs irrevocably (R310). -/
def State.specOf (s : State) (x : Strand) : Option SpecCtx :=
  match x.work.task with
  | some id =>
    if x.work.irrevocable then none
    else match s.task id with
      | some (d, t) => some { dom := d, ts := t.ts, id := id, wid := x.work.wid, asid := x.asid }
      | none => none
  | none => none

/-- The task's record on a line, taken if it holds none; it waits while its home has none free (R309). -/
def State.takeRecord (s : State) (x : SpecCtx) (k : LineKey) : Except Stop State :=
  if s.vers.any (fun v => v.task == x.id && v.on k) then .ok s
  else
    let used := (s.vers.filter (fun v => v.home == k.home)).length
    let queue := s.vwait.filter (fun p => p.1 == k.home)
    let mine : Bool := match queue with | [] => true | p :: _ => p.2 == x.wid
    if used < 2048 ∧ mine then
      .ok { s with
        vwait := s.vwait.filter (fun p => p != (k.home, x.wid))
        vers := s.vers ++ [{ home := k.home, asid := k.asid, line := k.line, sliceOf := k.sliceOf, task := x.id,
                             dom := x.dom, ts := x.ts, bytes := List.replicate 64 none, tags := List.replicate 4 none,
                             mark := false, owner := x.asid, tileVa := none, plain := 0 }] }
    else
      let s1 := if s.vwait.contains (k.home, x.wid) then s
        else (({ s with vwait := s.vwait ++ [(k.home, x.wid)] } : State).updDom x.dom
          (fun d => { d with vstall := hold 0xFFFF (d.vstall + 1) }))
      .error (.wait (s1.pokeDomain x.dom))

/-- The newest version of a byte that a task of the domain may see (R305). -/
def State.versionByte (s : State) (x : SpecCtx) (k : LineKey) (i : Nat) : Option (BitVec 48 × Byte) :=
  s.vers.foldl (fun r v =>
    if v.on k && v.dom == x.dom && decide (v.ts ≤ x.ts) then
      match (v.bytes[i]?).join with
      | some b => match r with
        | some (t, _) => if t ≤ v.ts then some (v.ts, b) else r
        | none => some (v.ts, b)
      | none => r
    else r) none

/-- The tag a speculative reader sees for granule `g` of a line, where versions supply all of it (R305). -/
def State.versionTag (s : State) (x : SpecCtx) (k : LineKey) (g : Nat) (committed : Bool) : Bool :=
  let from' := (List.range 16).map (fun i => (s.versionByte x k (16 * g + i)).map (·.1))
  match from' with
  | [] => committed
  | f :: fs =>
    if fs.all (· == f) then
      match f with
      | none => committed
      | some t => (s.vers.find? (fun v => v.on k && v.dom == x.dom && v.ts == t)).any
          (fun v => ((v.tags[g]?).join).getD false)
    else false

/-- Parts of a speculative load, with read marks recorded (R305). -/
def State.specReadParts (s : State) (w : Who) (x : SpecCtx) :
    List (Tr × Dbl × Nat) → Except Stop (List RByte × State)
  | [] => .ok ([], s)
  | (t, va, n) :: ps =>
    if (List.range n).any (fun i => poisoned s.poison (t.phys + i) 1 &&
        (s.versionByte x t.key (va.toNat % 64 + i)).isNone) then
      let f := mkFault .uncorrectable .read va 5
      .error (.upcall f (s.logFault t.ni w f))
    else match s.takeRecord x t.key with
      | .error e => .error e
      | .ok s1 =>
        let s2 := { s1 with vers := s1.vers.map (fun (v : VRec) => if v.task == x.id && v.on t.key then { v with mark := true } else v) }
        let o := va.toNat % 64
        let bs := (s2.physRead t.phys n t.keep).zipIdx.map (fun p =>
          (((s2.versionByte x t.key (o + p.2)).map (·.2)).getD p.1.1,
           s2.versionTag x t.key ((o + p.2) / 16) p.1.2 && t.keep))
        match s2.specReadParts w x ps with
        | .error e => .error e
        | .ok (r, s3) => .ok (bs ++ r, s3)

/-- Bytes merged into a task's version of a line (R305): a granule's tag is kept where it is written in full; `amo` says that
an atomic writes them. -/
def VRec.merge (v : VRec) (o : Nat) (bs : List Byte) (tagged : List Nat) (amo : Bool) : VRec :=
  let bytes := (List.range 64).map (fun i =>
    if o ≤ i ∧ i < o + bs.length then (bs[i - o]?) else (v.bytes[i]?).join)
  let tags := (List.range 4).map (fun g =>
    let lo := 16 * g
    if o ≤ lo ∧ lo + 16 ≤ o + bs.length then some (tagged.contains g)
    else if lo < o + bs.length ∧ o < lo + 16 then some false
    else (v.tags[g]?).join)
  { v with bytes := bytes, tags := tags, plain := if amo then v.plain else v.plain ||| BitVec.ofNat 64 ((2 ^ bs.length - 1) * 2 ^ o) }

/-- Parts of a speculative store merged into the task's versions (R305). -/
def State.specMerge (s : State) (x : SpecCtx) (tagged : List Dbl) (amo : Bool) :
    List (Tr × Dbl × Nat) → List Byte → Except Stop State
  | [], _ => .ok s
  | (t, va, n) :: ps, bs =>
    match s.takeRecord x t.key with
    | .error e => .error e
    | .ok s1 =>
      let o := va.toNat % 64
      let base := va.toNat - o
      let tg := if t.keep then ((List.range 4).filter (fun g => tagged.any (fun a => decide (a.toNat = base + 16 * g)))) else []
      let name : Option Dbl := if df va 56 8 = 1 then some (va - BitVec.ofNat 64 o) else none
      let s2 := { s1 with vers := s1.vers.map (fun (v : VRec) =>
        if v.task == x.id && v.on t.key then { v.merge o (bs.take n) tg amo with tileVa := name } else v) }
      s2.specMerge x tagged amo ps (bs.drop n)

/-- A speculative store of some ranges, or an atomic's write: performed in full, then the tasks that it conflicts with fall
(R305, R306). -/
def State.specStore (s : State) (x : SpecCtx) (tagged : List Dbl) (l : List (List (Tr × Dbl × Nat) × List Byte))
    (amo : Bool := false) : Except Stop State :=
  match l.foldlM (fun (s : State) p => s.specMerge x tagged amo p.1 p.2) s with
  | .error e => .error e
  | .ok s1 => .ok ((l.flatMap (fun p => p.1)).foldl (fun s q => s.specWrite x.dom x.ts q.1.key) s1)

/-! ### Loads and stores of a strand -/

/-- Who the strand of a slot is as an accessing party. -/
def State.whoOf (s : State) (c : CoreId) (k : SlotId) : Who := { core := c, asid := (s.strand c k).asid, eng := false }

/-- The lowest prefetch entry that watches a line (13 R270). -/
def Core.pfMatch (x : Core) (va : Nat) (asid : BitVec 16) : Option (Fin 4) :=
  (List.finRange 4).find? (fun i => match rd x.pf i with
    | some e => e.asid == asid && e.watch.inBounds va 64
    | none => false)

/-- The trigger of a fill, if an entry watches the line then, with the bytes that the fill delivers (13 R270, R271). -/
def State.fillTrigger (s : State) (c : CoreId) (asid : BitVec 16) (t : Tr) (va : Dbl) : Option PfTrig :=
  let line : Dbl := BitVec.ofNat 64 (va.toNat / 64 * 64)
  ((s.core c).pfMatch line.toNat asid).map (fun i =>
    { entry := i, line := line, data := (s.physRead (t.phys / 64 * 64) 64 false).map (·.1) })

/-- The copy of a translated part's line in a core's L0, under the name the access uses (18 R336). -/
def Core.l0Copy (x : Core) (asid : BitVec 16) (t : Tr) (va : Dbl) : Option L0Line :=
  x.l0.find? (fun e => e.asid == asid && e.line == BitVec.ofNat 64 (va.toNat / 64) && e.phys == t.phys / 64)

/-- The bytes of a translated part as a load of the core finds them: in the L0 copy under the name it uses, which a write
through another alias leaves as it was, or else at their home (18 R331, R336). -/
def State.coreRead (s : State) (c : CoreId) (asid : BitVec 16) (t : Tr) (va : Dbl) (n : Nat) : List RByte :=
  match (s.core c).l0Copy asid t va with
  | some e => ((e.data.drop (va.toNat % 64)).take n).map (fun b => (b.1, b.2 && t.keep))
  | none => s.physRead t.phys n t.keep

/-- Lines that a demand access brings into the L0 (R117, 13 R270): lines of its die outside its own slice. A line that
holds uncorrectable data would answer with an error, so it is not filled. -/
def State.l0Fill (s : State) (c : CoreId) (asid : BitVec 16) (t : Tr) (va : Dbl) (demand : Bool) : State :=
  let line := BitVec.ofNat 64 (va.toNat / 64)
  let x := s.core c
  if t.key.sliceOf == some c ∨ dieOfNi t.ni ≠ dieOf c ∨ x.l0.any (fun e => e.asid == asid && e.line == line) ∨
     poisoned s.poison (t.phys / 64 * 64) 64 then s
  else
    let ts := if demand then (s.fillTrigger c asid t va).toList else []
    let s1 := s.setCore c { x with l0 := { asid := asid, line := line, phys := t.phys / 64, data := s.physRead (t.phys / 64 * 64) 64 true } :: x.l0, pfPend := x.pfPend ++ ts }
    if ts.isEmpty then s1 else s1.post 1 (.prefetchTrigger c (64 * line.toNat) asid)

/-- The posted accesses of a core that are held after an error: by its strands, in upcall records and in saves (R106). Those
that the work `own` has left in an upcall record are left out: `resumef` makes them anew, as accesses made then. -/
def Core.heldPosts (x : Core) (own : Option Nat) : List Posted :=
  (List.finRange 16).flatMap (fun k => (x.strand k).held) ++
    (x.recs.filter (fun u => own != some u.wid)).flatMap (fun u => u.strand.held) ++ x.saved.flatMap (fun v => v.strand.held)

/-- The posted accesses of a core that are not performed: in its write path, or held after an error. -/
def State.pendingPosts (s : State) (c : CoreId) : List Posted := (s.core c).wpath ++ (s.core c).heldPosts none

/-- The writes of a core that its strand in slot `k` sees before memory: those in the write path, and those held after an
error, which are performed after all of these (R106; 18 R322). -/
def State.shownPosts (s : State) (c : CoreId) (k : SlotId) : List Posted :=
  (s.core c).wpath ++ (s.core c).heldPosts (some (s.strand c k).work.wid)

/-- The first translated part of a read that would take uncorrectable data from its home: no store that the load sees
covers them, and the L0 holds no copy (R103, R105). -/
def State.badPart (s : State) (c : CoreId) (path : List Posted) (later : Posted → Bool) (loc : Bool) (asid : BitVec 16)
    (ts : List (Tr × Dbl × Nat)) : Option (Tr × Dbl × Nat) :=
  ts.find? (fun p => poisoned s.poison p.1.phys p.2.2 && ((s.core c).l0Copy asid p.1 p.2.1).isNone &&
    (List.range p.2.2).any (fun i =>
      let a := p.2.1 + BitVec.ofNat 64 i
      poisoned s.poison (p.1.phys + i) 1 &&
      !(seenAt path later loc asid a).any (fun q => q.cap.has .local == loc && (loc || q.asid == asid) && (q.byteAt a).isSome)))

/-- Whether a posted access still stands in a core's write path, or is held after an error (R106). -/
def State.unperformed (s : State) (c : CoreId) (id : Nat) : Bool := (s.pendingPosts c).any (fun p => p.id == id)

/-- A strand's note of the write-path entries whose values a load has returned (18 R324); nothing changes where there
are none. -/
def State.noteTaken (s : State) (c : CoreId) (k : SlotId) (ids : List Nat) : State :=
  if ids.isEmpty then s
  else s.updStrand c k (fun x => { x with
    took := x.took.filter (fun i => !ids.contains i && s.unperformed c i) ++ ids })

/-- Whether the running strand has taken a value from a store of its core that has not been performed at its home: what it
releases at quad or wider waits for that store too, which happens before the release (18 R324, R327). -/
def State.tookOpen (s : State) : Bool := s.me.took.any (fun i => s.unperformed s.cur.1 i)

/-- A strand's read of `n` bytes at `va` through a capability, with everything a load sees: own and shared write
path, versions, memory (R103, 18 R321, R322). It waits for the strand's own earlier atomics on these bytes, which have no
place in the write path's values. -/
def State.load (s : State) (c : CoreId) (k : SlotId) (id : Nat) (loc : Bool) (va : Dbl) (n : Nat) :
    Except Stop (List RByte × State) :=
  let w := s.whoOf c k
  match s.translateAll w loc .read (partsOf va n) with
  | .error (f, s1) => .error (.upcall f s1)
  | .ok (ts, s1) =>
    match s1.specOf (s1.strand c k) with
    | some x => s1.specReadParts w x ts
    | none =>
      let wid := (s1.strand c k).work.wid
      let path := (s1.shownPosts c k).filter (fun p => p.touches loc w.asid va n)
      let later := fun (p : Posted) => p.later k wid id
      if path.any (fun p => p.slot == k && p.wid == wid && p.isAmo && !later p) then .error (.wait s1)
      else match s1.badPart c path later loc w.asid ts with
        | some (t, a, _) =>
          let f := mkFault .uncorrectable .read a 5
          .error (.upcall f (s1.logFault t.ni w f))
        | none =>
          let bs := ts.flatMap (fun p => s1.coreRead c w.asid p.1 p.2.1 p.2.2)
          let s2 := ts.foldl (fun s p => s.l0Fill c w.asid p.1 p.2.1 true) s1
          let keeps := ts.flatMap (fun p => List.replicate p.2.2 p.1.keep)
          let seen := bs.zipIdx.map (fun p =>
            let a := va + BitVec.ofNat 64 p.2
            overlayByte (seenAt path later loc w.asid a) loc w.asid a p.1)
          .ok ((seen.zip keeps).map (fun p => (p.1.1, p.1.2 && p.2)),
            s2.noteTaken c k ((path.filter (fun p => !p.isAmo && !later p)).map (·.id)))

/-- Number of posted accesses a strand has outstanding (R106). -/
def State.outstanding (s : State) (c : CoreId) (k : SlotId) : Nat :=
  ((s.core c).wpath.filter (fun p => p.slot == k && p.wid == (s.strand c k).work.wid)).length

/-- Whether a release of the running strand has its stores: its own posted accesses are performed, and so are those whose
values it has taken (R106; 18 R324, R327). -/
def State.postsDone (s : State) : Bool := decide (s.outstanding s.cur.1 s.cur.2 = 0) && !s.tookOpen

/-- A posted access put into the core's write path, its event on the agenda; a strand with 16 stalls (R106). -/
def State.postAccess (s : State) (c : CoreId) (k : SlotId) (cap : CVal) (va : Dbl) (kind : PKind) : Except Stop State :=
  if 16 ≤ s.outstanding c k then .error .stall
  else
    let (id, s1) := s.newId
    let p : Posted := { id := id, slot := k, wid := (s.strand c k).work.wid, asid := (s.strand c k).asid, cap := cap, va := va, kind := kind }
    let s2 := s1.updCore c (fun x => { x with wpath := x.wpath ++ [p] })
    .ok (s2.post 100 (match kind with
      | .store _ _ => .storeAtHome c id
      | .amo _ _ _ => .amoAtHome c id
      | .xadd _ _ => .xaddAtHome c id))

/-- Every pending-write record of a strand: those a trap has set aside, then those of the code that runs. -/
def Strand.allWins (x : Strand) : List Window := x.kept ++ x.wins

/-- A change to every pending-write record of a strand. -/
def Strand.mapWins (x : Strand) (f : Window → Window) : Strand := { x with kept := x.kept.map f, wins := x.wins.map f }

/-- Whether a load of the strand has not been performed yet. -/
def Strand.loadsPending (x : Strand) : Bool := x.allWins.any (fun w => w.res == .pending && w.acc.kind != .readout)

/-- A strand's store of some ranges: posted, or merged into its task's versions (R106, R305). A speculative store that
fails is held as a posted access is. -/
def State.store (s : State) (c : CoreId) (k : SlotId) (cap : CVal) (va : Dbl) (parts : List (Dbl × List Byte))
    (tagged : List Dbl) : Except Stop State :=
  match s.specOf (s.strand c k) with
  | none => s.postAccess c k cap va (.store parts tagged)
  | some x =>
    let w := s.whoOf c k
    if (s.strand c k).loadsPending then .error .stall
    else match s.translateRanges w (cap.has .local) parts with
    | .error (f, s1) =>
      let (id, s2) := s1.newId
      .ok (s2.updStrand c k (fun y => { y with
        held := y.held ++ [{ id := id, slot := k, wid := y.work.wid, asid := y.asid, cap := cap, va := va, kind := .store parts tagged }]
        postErr := some (y.postErr.getD f) }))
    | .ok (l, s1) => s1.specStore x tagged l

end Sys2Proof.Machine
end

