-- ==== Sys2Proof/Machine/Operands.lean ====
section
/-! DEFINITION. Operand registers and their ports: what reading and writing a c, v, g or m register does, fixed
registers and queue ports included (01_words.md R13-R16, R26, R27). -/

namespace Sys2Proof.Machine

/-! ### Reads -/

/-- Guard `i`; g0 reads as true (R14). -/
def Strand.guard (x : Strand) (i : Fin 8) : Bool := i == 0 || rd x.g i

/-- Mask register `i`; m0 reads as all ones (R14). -/
def Strand.mask (x : Strand) (i : Fin 8) : Quad := if i = 0 then BitVec.allOnes 128 else rd x.m i

/-- A c register's stored value; c0 reads as null (R14). -/
def Strand.creg (x : Strand) (i : Fin 64) : CVal := if i = 0 then .null else rd x.c i

/-- The upcall record of a piece of work that was written first after number `id` was given, if it still stands: results
of what had been issued before it enter the queue it saved. -/
def State.upRecOf (s : State) (c : CoreId) (wid id : Nat) : Option UpRec :=
  (s.core c).recs.foldl (fun (r : Option UpRec) u =>
    if u.wid = wid ∧ id < u.born then
      match r with
      | some v => if u.born < v.born then some u else r
      | none => some u
    else r) none

/-- Room in the engine queue that the result of number `id` enters (R15, R16). -/
def State.engqRoom (s : State) (c : CoreId) (wid id : Nat) : Bool :=
  match s.upRecOf c wid id with
  | some u => decide (u.strand.engq.length < 16)
  | none => match s.workOf c wid with
    | some x => decide (x.engq.length < 16)
    | none => true

/-- A result of number `id` put into its strand's engine queue (R15, R16). -/
def State.pushEngq (s : State) (c : CoreId) (wid id : Nat) (q : Quad) : State :=
  let add := fun (x : Strand) => { x with engq := x.engq ++ [q] }
  match s.upRecOf c wid id with
  | some u => s.updCore c (fun (r : Core) =>
      { r with recs := r.recs.map (fun (v : UpRec) => if v = u then { v with strand := add v.strand } else v) })
  | none => s.updWork c wid add

/-- Whether an operation is one that will push a result to the strand's engine queue (R15, R16). -/
def State.owesEngq (s : State) (c : CoreId) (wid : Nat) : Bool :=
  let live := fun (id : Nat) => (s.upRecOf c wid id).isNone
  s.ops.any (fun o => o.core == c && o.wid == wid && live o.id && (match o.job with | .walk _ => true | _ => false)) ||
  (s.cluster (clusterOf c)).leases.any (fun l => l.core == c && l.wid == wid && live l.id && l.grantq && l.st == .requested)

/-- An operand read from a c register: ports pop (R15, R16). -/
def State.useC (s : State) (i : Fin 64) : Except Stop (CVal × State) :=
  let x := s.me
  if i.val = 60 then
    match x.ldq with
    | q :: qs => .ok (.plain q, s.setMe { x with ldq := qs })
    | [] => .error (.t .qempty)
  else if i.val = 61 then .error (.t .ill)
  else if i.val = 62 then
    match x.engq with
    | q :: qs => .ok (.plain q, s.setMe { x with engq := qs })
    | [] => if s.owesEngq s.cur.1 x.work.wid then .error (.wait s) else .error (.t .qempty)
  else if i.val = 63 then
    match x.msg with
    | some { chan := ch, unit := u, words := w :: ws } =>
      .ok (.plain (w.setWidth 128), s.setMe { x with msg := some { chan := ch, unit := u, words := ws } })
    | _ => .error (.t .qempty)
  else .ok (x.creg i, s)

/-- Bits 63:0 of a c operand. -/
def State.useX (s : State) (i : Fin 64) : Except Stop (Dbl × State) :=
  match s.useC i with
  | .ok (v, s1) => .ok (v.addr, s1)
  | .error e => .error e

/-- A v operand: v31 pops the vector load queue, an ordinary read of v30 traps (R15). -/
def State.useV (s : State) (i : Fin 32) : Except Stop (VReg × State) :=
  let x := s.me
  if i.val = 31 then
    match x.vldq with
    | q :: qs => .ok (q, s.setMe { x with vldq := qs })
    | [] => .error (.t .qempty)
  else if i.val = 30 then .error (.t .ill)
  else .ok (rd x.v i, s)

/-- A store's data from a c register: c61 pops the store-data queue (R15, 04 R107). -/
def State.useStoreC (s : State) (i : Fin 64) : Except Stop (CVal × State) :=
  if i.val = 61 then
    match s.me.stq with
    | q :: qs => .ok (.plain q, s.setMe { s.me with stq := qs })
    | [] => .error (.t .qempty)
  else s.useC i

/-- A store's data from a v register: v30 pops the vector store queue (R15, 04 R111). -/
def State.useStoreV (s : State) (i : Fin 32) : Except Stop (VReg × State) :=
  if i.val = 30 then
    match s.me.vstq with
    | q :: qs => .ok (q, s.setMe { s.me with vstq := qs })
    | [] => .error (.t .qempty)
  else s.useV i

/-! ### Writes -/

/-- Pending values of a destination discarded (R27). The flags of a discarded result of a VL instruction go with it: R125
sets flags as the result becomes visible and does not say what becomes of these, so it is the model's choice (log entry
69). -/
def Strand.dropWin (x : Strand) (d : WinDst) : Strand := { x with wins := x.wins.filter (fun w => w.dst != d) }

/-- A c register stored. -/
def Strand.setC (x : Strand) (i : Fin 64) (v : CVal) : Strand := { x with c := wr x.c i v }

/-- The copy that awaits its index capability takes it, and starts (07 R194, R195; 13 R267). -/
def State.handOver (s : State) (v : CVal) : Except Stop State :=
  match s.me.await with
  | none => .error (.t .ill)
  | some id =>
    match s.ops.find? (fun o => o.id == id) with
    | some o =>
      match o.job with
      | .copy g src dst _ =>
        let n := 4 * g.rows
        if !v.tag then .error (.t .capt)
        else if !v.hasAll [.ld, .eng] then .error (.t .capp)
        else if v.addr.toNat % 4 ≠ 0 then .error (.trap .align (some v.addr))
        else if !v.inBounds v.addr.toNat n then .error (.trap .capb (some v.addr))
        else if !v.has .local ∧ offDieRange s.cur.1 v.addr n then .error (.trap .xdie (some v.addr))
        else
          let s1 := { s with ops := s.ops.map (fun (p : Op) => if p.id == id then { p with job := .copy g src dst (some v) } else p) }
          let s2 := s1.updMe (fun x => { x with await := none })
          .ok (if o.deferred then s2 else s2.post 100 (.streamerPiece id 0))
      | _ => .error (.t .ill)
    | none => .error (.t .ill)

/-- A write of c62 while no copy of the strand awaits its operand traps when the instruction executes, whatever its access
would give (R15). -/
def State.portReady (s : State) (d : Fin 64) : Except Stop Unit :=
  if d.val = 62 ∧ s.me.await.isNone then .error (.t .ill) else .ok ()

/-- A value landing in a c register by a load: c60 takes it as a load's push (R15). -/
def State.landC (s : State) (i : Fin 64) (v : CVal) : Except Stop State :=
  let x := s.me
  if i.val = 0 then .ok s
  else if i.val = 60 then
    if x.ldq.length < 32 then .ok (s.setMe { x with ldq := x.ldq ++ [v.val] }) else .error .stall
  else if i.val = 61 then
    if x.stq.length < 32 then .ok (s.setMe { x with stq := x.stq ++ [v.val] }) else .error .stall
  else if i.val = 62 then s.handOver v
  else if i.val = 63 then
    if x.outbox.length < 60 then .ok (s.setMe { x with outbox := x.outbox ++ [v.val.setWidth 32] }) else .error (.t .qempty)
  else .ok (s.setMe (x.setC i v))

/-- A c register written by an ordinary instruction: c0 discards, c60 traps, the other ports push, and a pending value
for it is discarded (R14, R15, R27, 07 R177). -/
def State.putC (s : State) (i : Fin 64) (v : CVal) : Except Stop State :=
  if i.val = 60 then .error (.t .ill)
  else (s.setMe (s.me.dropWin (.c i))).landC i v

/-- A plain 64-bit result: bits 127:64 and the tag cleared (03 R65). -/
def State.putX (s : State) (i : Fin 64) (v : Dbl) : Except Stop State := s.putC i (.plain (v.setWidth 128))

/-- A value landing in a v register by a load: v31 and v30 push their queues (R15). -/
def State.landV (s : State) (i : Fin 32) (v : VReg) : Except Stop State :=
  let x := s.me
  if i.val = 31 then
    if x.vldq.length < 8 then .ok (s.setMe { x with vldq := x.vldq ++ [v] }) else .error .stall
  else if i.val = 30 then
    if x.vstq.length < 8 then .ok (s.setMe { x with vstq := x.vstq ++ [v] }) else .error .stall
  else .ok (s.setMe { x with v := wr x.v i v })

/-- A v register written by an ordinary instruction: v31 traps, v30 pushes the vector store queue (R15). -/
def State.putV (s : State) (i : Fin 32) (v : VReg) : Except Stop State :=
  if i.val = 31 then .error (.t .ill) else (s.setMe (s.me.dropWin (.v i))).landV i v

/-- A guard written; g0 discards (R14). -/
def State.putG (s : State) (i : Fin 8) (b : Bool) : State :=
  if i = 0 then s else s.updMe (fun x => { x with g := wr x.g i b })

/-- A mask written; m0 discards (R14). -/
def State.putM (s : State) (i : Fin 8) (q : Quad) : State :=
  if i = 0 then s else s.updMe (fun x => { x with m := wr x.m i q })

/-- FFLAGS bits set (02 R53). -/
def State.raise (s : State) (fl : Nat) : State :=
  s.updMe (fun x => { x with fflags := x.fflags ||| BitVec.ofNat 32 fl })

/-- A long-latency instruction's pending-write record opened; an earlier one of the destination is discarded (R27). -/
def State.openWin (s : State) (dst : WinDst) (n : Nat) (acc : Access) (res : WinRes) (plsat : Bool := false) :
    Nat × State :=
  let (id, s1) := s.newId
  let x := s1.me.dropWin dst
  let w : Window := { id := id, dst := dst, left := n, pc := x.pcc.addr, acc := acc, res := res, plsat := plsat }
  (id, s1.setMe { x with wins := x.wins ++ [w] })

end Sys2Proof.Machine
end

