-- ==== Sys2Proof/Machine/Ops.lean ====
section
/-! DEFINITION. What every instruction shares: fetching its word, passing or failing its guard, retiring, taking a
synchronous trap and returning from it, taking a memory upcall and returning from it, and lookahead windows
(01_words.md R22-R32; 03 R90; 04 R105, R106; 07 R204, R205; 21 R380-R383). -/

namespace Sys2Proof.Machine

/-! ### Fetch (03 R90) -/

/-- The code capability of an inline handler of `n` words; its payload stands at address 0 (07 R179; log entry 10). -/
def inlinePcc (n : Nat) : CVal := CVal.make 0 (4 * n) [.exec]

/-- The words of the inline handler that a strand runs, when PCC still names them. -/
def State.inlineWords (s : State) (c : CoreId) (k : SlotId) (pcc : CVal) : Option (List Word) :=
  let x := s.strand c k
  match x.work.kind, x.msg with
  | .inlineHandler _, some m =>
    match (s.core c).inbox.find? (fun i => i.unit == m.unit) with
    | some i => if pcc.val >>> 64 = (inlinePcc i.words.length).val >>> 64 then some i.words else none
    | none => none
  | _, _ => none

/-- The 4-byte word at an address of PCC, or the trap or upcall that its fetch meets. -/
def State.fetch (s : State) (c : CoreId) (k : SlotId) (pcc : CVal) (va : Dbl) : Except Stop (Nat × State) :=
  if !pcc.tag then .error (.trap .capt (some va))
  else if !pcc.has .exec then .error (.trap .capp (some va))
  else if !pcc.inBounds va.toNat 4 then .error (.trap .capb (some va))
  else match s.inlineWords c k pcc with
    | some ws => .ok (((ws[va.toNat / 4]?).getD 0).toNat, s)
    | none =>
      let loc := pcc.has .local
      if !loc ∧ df va 56 8 ≤ 1 ∧ dieOfVa va ≠ dieOf c then .error (.trap .xdie (some va))
      else match s.homeRead (s.whoOf c k) loc va 4 .exec with
        | .error (f, s1) => .error (.upcall f s1)
        | .ok (bs, s1) => .ok (ofBytes ((overlay (s1.shownPosts c k) loc (s.strand c k).asid va bs).map (·.1)), s1)

/-- An instruction's word and its literal, if it has one (R22, R23), with its length. -/
def State.fetchInstr (s : State) (c : CoreId) (k : SlotId) : Except Stop (Nat × Nat × Nat × State) :=
  let pcc := (s.strand c k).pcc
  match s.fetch c k pcc pcc.addr with
  | .error e => .error e
  | .ok (w, s1) =>
    if hasLiteral w then
      match s1.fetch c k pcc (pcc.addr + 4) with
      | .error e => .error e
      | .ok (l, s2) => .ok (w, l, 8, s2)
    else .ok (w, 0, 4, s1)

/-! ### Synchronous traps (07 R204) -/

/-- A trap's code. -/
def Trap.code : Trap → Nat
  | .ill => 1 | .capb => 2 | .capt => 3 | .capp => 4 | .align => 5 | .qempty => 6 | .xdie => 7 | .lease => 8
  | .tile => 9 | .spec => 10 | .brk _ => 11

/-- TCAUSE as a trap writes it: CODE, BRKN, TACT. -/
def Trap.cause (t : Trap) : Dbl :=
  BitVec.ofNat 64 (t.code + (match t with | .brk n => 2 ^ 8 * n | _ => 0) + 2 ^ 31)

/-- A synchronous trap of a strand: EPC, TCAUSE and TADDR written and PCC at the vector; without a vector, or within a
trap handler, the work ends as after a hardware error. TADDR of a trap that names no address is a free value. The open
windows and the repeat are set aside until `tret` (R29, R94). -/
def State.takeTrap (s : State) (c : CoreId) (k : SlotId) (t : Trap) (addr : Option Dbl) : State :=
  let x := s.strand c k
  if x.tcause.getLsbD 31 ∨ !x.tvec.tag ∨ !x.tvec.has .exec then s.hwEnd c k
  else
    let (f, s1) := s.free
    let a := match addr with | some a => a | none => f.setWidth 64
    s1.setStrand c k { x with
      st := .running, epc := x.pcc, tcause := t.cause, taddr := a, pcc := x.tvec, kept := x.allWins, wins := []
      rep := x.rep.map (fun (r : Rep) => { r with parked := true }) }

/-! ### Images and liveness (21 R382, R383; 01 R37) -/

/-- The registers that an image gives: masks of c, v, t, g, m. -/
structure Live where
  c : Nat
  v : Nat
  t : Nat
  g : Nat
  m : Nat
  deriving DecidableEq, Repr

/-- Every register. -/
def Live.all : Live := { c := 2 ^ 64 - 1, v := 2 ^ 32 - 1, t := 255, g := 255, m := 255 }

/-- An entry of a liveness table: start, length, masks, and whether its flags are 0 (R37). -/
structure LiveEntry where
  start : Nat
  len : Nat
  live : Live
  clean : Bool
  deriving DecidableEq, Repr

/-- Bytes read through LVT, or nothing where the read fails, with what the read leaves: an accessed bit, a TLB entry, a log
entry (R373, R387). -/
def State.lvtRead (s : State) (w : Who) (lvt : CVal) (off n : Nat) : Option (List Byte) × State :=
  let a := lvt.addr + BitVec.ofNat 64 off
  if !lvt.tag ∨ !lvt.has .ld ∨ !lvt.inBounds a.toNat n then (none, s)
  else match s.homeRead w (lvt.has .local) a n with
    | .ok (bs, s1) => (some (bs.map (·.1)), s1)
    | .error (_, s1) => (none, s1)

/-- Entry `i` of the table. -/
def State.liveEntry (s : State) (w : Who) (lvt : CVal) (i : Nat) : Option LiveEntry × State :=
  let r := s.lvtRead w lvt (16 + 24 * i) 24
  (r.1.map (fun b =>
    let x := ofBytes b
    { start := fld x 0 32, len := fld x 32 32, clean := fld x 184 8 = 0
      live := { c := fld x 64 64, v := fld x 128 32, t := fld x 160 8, g := fld x 168 8, m := fld x 176 8 } }), r.2)

/-- The search of R383: the entries it reads, the last first, and the index it ends at. -/
def State.liveSearch (s : State) (w : Who) (lvt : CVal) (off : Nat) :
    Nat → Nat → Nat → List (Nat × LiveEntry) → Option (List (Nat × LiveEntry) × Nat) × State
  | 0, lo, _, seen => (some (seen, lo), s)
  | fuel + 1, lo, hi, seen =>
    if hi - lo ≤ 1 then (some (seen, lo), s)
    else
      let mid := (lo + hi) / 2
      match s.liveEntry w lvt mid with
      | (none, s1) => (none, s1)
      | (some e, s1) =>
        if e.start ≤ off then s1.liveSearch w lvt off fuel mid hi ((mid, e) :: seen)
        else s1.liveSearch w lvt off fuel lo mid ((mid, e) :: seen)

/-- What the entries that a search has read say of an offset: the masks of entry `lo` where the table is in order and the
entry covers the offset; else every register (R383). -/
def liveOf (es : List (Nat × LiveEntry)) (lo off : Nat) : Live :=
  let unsorted := es.any (fun p => es.any (fun q => decide (p.1 < q.1) && decide (q.2.start < p.2.start + p.2.len)))
  match es.find? (fun p => p.1 == lo) with
  | some (_, e) =>
    if unsorted ∨ es.any (fun p => !p.2.clean) ∨ off < e.start ∨ e.start + e.len ≤ off then .all else e.live
  | none => .all

/-- The registers live at a saved program counter; every one where no entry covers it (R37, R383). -/
def State.liveAt (s : State) (w : Who) (lvt : CVal) (pc : Dbl) : Live × State :=
  match s.lvtRead w lvt 0 16 with
  | (none, s1) => (.all, s1)
  | (some h, s1) =>
    let va := ofBytes (h.take 8)
    let n := fld (ofBytes h) 64 32
    if n = 0 ∨ 4096 < n ∨ pc.toNat < va then (.all, s1)
    else
      let off := pc.toNat - va
      match s1.liveSearch w lvt off 13 0 n [] with
      | (none, s2) => (.all, s2)
      | (some (seen, lo), s2) =>
        if seen.any (fun p => p.1 == lo) then (liveOf seen lo off, s2)
        else match s2.liveEntry w lvt lo with
          | (none, s3) => (.all, s3)
          | (some e, s3) => (liveOf ((lo, e) :: seen) lo off, s3)

/-- Registers with a pending-write record are saved whatever the masks say (R37). -/
def Live.withWins (l : Live) (ws : List Window) : Live :=
  ws.foldl (fun l w => match w.dst with
    | .c d => { l with c := Nat.lor l.c (2 ^ d.val) }
    | .v d => { l with v := Nat.lor l.v (2 ^ d.val) }
    | .t d => { l with t := Nat.lor l.t (2 ^ d.val) }) l

/-- `n` bytes that the spec leaves open. -/
def freeBytes (f : VReg) (n : Nat) : List Byte := toBytes n (fld f.toNat 0 1024)

/-- A number's bits as a list of set positions below `n`. -/
def bitsOf (x n : Nat) : List Nat := (List.range n).filter (fun i => fld x i 1 == 1)

/-! The inner layout of an image's bytes 5,952-10,591, which R382 gives as parts with their sizes alone, is the model's
(DESIGN CHOICE, log entry 9): 32 bytes a pending-write record and 16 of repeat state; the entries of each queue from its
oldest, then the five counts; the outbox, then its count, the number of held accesses, and 32 bytes for each. -/

/-- Where a window's destination stands in the files: c, v, t. -/
def WinDst.code : WinDst → Nat
  | .c i => i.val
  | .v i => 64 + i.val
  | .t i => 128 + i.val

/-- The 32 bytes of a pending-write record: destination, whether it has answered, count left, code address, address and bytes
of the access. -/
def Window.word (w : Window) : Nat :=
  w.dst.code + 2 ^ 8 * (match w.res with | .pending => 1 | .value .. => 2 | .rows .. => 2 | .failed _ => 3) + 2 ^ 16 * (w.left % 2 ^ 16) +
  2 ^ 64 * w.pc.toNat + 2 ^ 128 * w.acc.va.toNat + 2 ^ 192 * (w.acc.n % 2 ^ 32)

/-- The 32 bytes of a held posted access: its address, and the size and first bytes of its data. -/
def Posted.word (p : Posted) : Nat :=
  let d : List Byte := match p.kind with
    | .store parts _ => parts.flatMap (fun q => q.2)
    | .amo _ y _ => toBytes 8 y.toNat
    | .xadd _ _ => []
  p.va.toNat + 2 ^ 64 * (d.length % 2 ^ 16) + 2 ^ 128 * ofBytes (d.take 16)

/-- Repeat state in 16 bytes, 0 for none. -/
def repWord : Option Rep → Nat
  | none => 0
  | some r => r.start.toNat + 2 ^ 64 * ((r.next - r.start).toNat % 2 ^ 16) + 2 ^ 80 * (r.len % 2 ^ 7) + 2 ^ 87 * (r.pos % 2 ^ 7) +
      2 ^ 94 * (r.left % 2 ^ 17) + (if r.parked then 2 ^ 111 else 0) + 2 ^ 112

/-- Repeat state read back. -/
def repOf (n : Nat) : Option Rep :=
  if fld n 112 1 = 0 then none
  else
    let start : Dbl := BitVec.ofNat 64 (fld n 0 64)
    some { start := start, next := start + BitVec.ofNat 64 (fld n 64 16), len := fld n 80 7, pos := fld n 87 7, left := fld n 94 17
           parked := fld n 111 1 = 1 }

/-- The bytes of the last part of each group: the five queues' counts; the outbox's, and that of the held accesses. -/
def Strand.queueCounts (x : Strand) : Nat :=
  x.ldq.length + 2 ^ 8 * x.stq.length + 2 ^ 16 * x.engq.length + 2 ^ 24 * x.vldq.length + 2 ^ 32 * x.vstq.length

/-- The fields of an image that a strand fills, by offset; `old` is the byte of the guards that the area holds, whose bits of
dead guards stay (01 R37, R382). -/
def Strand.imageParts (x : Strand) (l : Live) (old : Nat) : List (Nat × List Byte) :=
  [(56, toBytes 24 (2 ^ 64 * l.c + 2 ^ 128 * l.v + 2 ^ 160 * l.t + 2 ^ 168 * l.g + 2 ^ 176 * l.m)),
   (80, toBytes 16 x.srgen.toNat ++ toBytes 8 x.fflags.toNat ++ toBytes 8 x.cvrm.toNat ++ toBytes 8 x.novd.toNat ++
     toBytes 8 x.qstat.toNat)] ++
  (bitsOf l.c 64).map (fun i => (128 + 16 * i, toBytes 16 (x.creg (Fin.ofNat 64 i)).val.toNat)) ++
  (bitsOf l.v 32).map (fun i => (1152 + 128 * i, toBytes 128 (rd x.v (Fin.ofNat 32 i)).toNat)) ++
  (bitsOf l.m 8).map (fun i => (5248 + 16 * i, toBytes 16 (x.mask (Fin.ofNat 8 i)).toNat)) ++
  [(5376, [BitVec.ofNat 8 ((List.range 8).foldl (fun a i =>
     if (if fld l.g i 1 = 1 then x.guard (Fin.ofNat 8 i) else fld old i 1 == 1) then a + 2 ^ i else a) 0)]),
   (5384, (x.geo.toList ++ x.xgeo.toList).flatMap (fun g => toBytes 8 g.toNat)),
   (5952, ((x.allWins.take 16).flatMap (fun (w : Window) => toBytes 32 w.word) ++ List.replicate 512 0).take 512),
   (6464, toBytes 16 (repWord x.rep)),
   (6480, x.ldq.flatMap (fun q => toBytes 16 q.toNat)), (6992, x.stq.flatMap (fun q => toBytes 16 q.toNat)),
   (7504, x.engq.flatMap (fun q => toBytes 16 q.toNat)), (7760, x.vldq.flatMap (fun q => toBytes 128 q.toNat)),
   (8784, x.vstq.flatMap (fun q => toBytes 128 q.toNat)), (9808, toBytes 16 x.queueCounts),
   (9824, x.outbox.flatMap (fun q => toBytes 4 q.toNat)),
   (10064, toBytes 16 (x.outbox.length + 2 ^ 8 * x.held.length)),
   (10080, ((x.held.take 16).flatMap (fun (p : Posted) => toBytes 32 p.word) ++ List.replicate 512 0).take 512)]

/-- The byte of the guards that an area holds. -/
def State.oldGuards (s : State) (w : Who) (area : CVal) : Nat :=
  match s.homeRead w (area.has .local) (area.addr + 5376) 1 .write with
  | .ok (bs, _) => ofBytes (bs.map (·.1))
  | .error _ => 0

/-- The granules of an image whose tag is set: EPC and tagged live c registers. -/
def Strand.imageTags (x : Strand) (l : Live) (epc : CVal) (base : Dbl) : List Dbl :=
  (if epc.tag then [base + 32] else []) ++
  ((bitsOf l.c 64).filter (fun i => (x.creg (Fin.ofNat 64 i)).tag)).map (fun i => base + BitVec.ofNat 64 (128 + 16 * i))

/-- The 56 bytes that open an image (R382). -/
def imageHead (c : CoreId) (k : SlotId) (asid : BitVec 16) (count cause : Nat) (va : Dbl) (epc : CVal) (long : Dbl) :
    List Byte :=
  toBytes 2 c.val ++ toBytes 1 k.val ++ toBytes 1 1 ++ toBytes 2 asid.toNat ++ toBytes 2 0 ++ toBytes 8 count ++
  toBytes 8 cause ++ toBytes 8 va.toNat ++ toBytes 16 epc.val.toNat ++ toBytes 8 long.toNat

/-- An image's fields read back into a strand (R382, R205): its registers, repeat state, queues and outbox. -/
def Strand.fromImage (x : Strand) (img : List RByte) : Strand :=
  let num := fun o n => ofBytes ((img.drop o).take n |>.map (·.1))
  let cap := fun o => ({ val := BitVec.ofNat 128 (num o 16), tag := ((img[o]?).map (·.2)).getD false } : CVal)
  let quads := fun o n => (List.range n).map (fun (i : Nat) => BitVec.ofNat 128 (num (o + 16 * i) 16))
  let vregs := fun o n => (List.range n).map (fun (i : Nat) => BitVec.ofNat 1024 (num (o + 128 * i) 128))
  { x with
    pcc := cap 32
    srgen := BitVec.ofNat 128 (num 80 16), fflags := BitVec.ofNat 32 (num 96 4), cvrm := BitVec.ofNat 64 (num 104 8)
    novd := BitVec.ofNat 64 (num 112 8), qstat := BitVec.ofNat 32 (num 120 4)
    c := vofFn (fun i => cap (128 + 16 * i.val))
    v := vofFn (fun i => BitVec.ofNat 1024 (num (1152 + 128 * i.val) 128))
    m := vofFn (fun i => BitVec.ofNat 128 (num (5248 + 16 * i.val) 16))
    g := vofFn (fun i => fld (num 5376 1) i.val 1 == 1)
    geo := vofFn (fun i => BitVec.ofNat 64 (num (5384 + 8 * i.val) 8))
    xgeo := vofFn (fun i => BitVec.ofNat 64 (num (5896 + 8 * i.val) 8))
    rep := repOf (num 6464 16)
    ldq := quads 6480 (min 32 (num 9808 1)), stq := quads 6992 (min 32 (num 9809 1)), engq := quads 7504 (min 16 (num 9810 1))
    vldq := vregs 7760 (min 8 (num 9811 1)), vstq := vregs 8784 (min 8 (num 9812 1))
    outbox := (List.range (min 60 (num 10064 1))).map (fun i => BitVec.ofNat 32 (num (9824 + 4 * i) 4)) }

/-! ### Memory upcalls (R381) -/

/-- Cause code of an upcall. -/
def Cause.code : Cause → Nat
  | .translation => 0 | .violation => 1 | .uncorrectable => 2

/-- The cause word of an upcall (R382). -/
def FaultInfo.word (f : FaultInfo) (posted atEnd : Bool) : Nat :=
  f.cause.code + (if f.write then 4 else 0) + (if posted then 8 else 0) + (if atEnd then 16 else 0) +
  (if f.spilled then 32 else 0) + (if f.perm then 64 else 0)

/-- Bytes of an upcall record. -/
def recordSize : Nat := 16384

/-- The pending-write record that an upcall at a window's end is taken for: the first failed one of that instruction. -/
def Strand.failedWin (x : Strand) (atEnd : Bool) (long : Dbl) : Option Nat :=
  if atEnd then (x.allWins.find? (fun w => w.pc == long && (match w.res with | .failed _ => true | _ => false))).map (·.id)
  else none

/-- A strand without what an upcall sets aside, for a record whose hardware parts the strand no longer has. -/
def Strand.bare (x : Strand) : Strand :=
  { x with wins := [], kept := [], held := [], took := [], ticket := none, answer := none, barAt := none, sendWait := 0 }

/-- A memory upcall of a strand: the record written at UAREA, c56-c59 and PCC set; where the vector or the area does
not serve, or the record cannot be written, the work ends as after a hardware error (R381, R408). -/
def State.takeUpcall (s : State) (c : CoreId) (k : SlotId) (f : FaultInfo) (posted atEnd : Bool) (long : Dbl) : State :=
  let x := s.strand c k
  let base := x.uarea.addr
  if !x.uvec.tag ∨ !x.uvec.has .exec ∨ !x.uarea.tag ∨ base.toNat % 64 ≠ 0 ∨ !x.uarea.hasAll [.st, .stcap] ∨
     !x.uarea.inBounds base.toNat recordSize then s.hwEnd c k
  else
    let w := s.whoOf c k
    let (seen, s0) := s.liveAt w x.lvt x.pcc.addr
    let live := seen.withWins x.allWins
    let head := imageHead c k x.asid (x.upcalls + 1).toNat (f.word posted atEnd) f.va x.pcc long
    let parts := (0, head) :: x.imageParts { live with t := 0 } (s0.oldGuards w x.uarea) ++ [(10592, List.replicate 5792 0)]
    match s0.homeWrite w (x.uarea.has .local) (parts.map (fun p => (base + BitVec.ofNat 64 p.1, p.2)))
        (x.imageTags live x.pcc base) with
    | .error (_, s2) => s2.hwEnd c k
    | .ok s2 =>
      let cap := ((x.uarea.narrow recordSize).toOption.getD .null).withPerms
        ([.ld, .ldcap, .st, .stcap] ++ (if x.uarea.has .local then [.local] else []))
      let y : Strand := { x with
        st := .running, upcalls := x.upcalls + 1
        wins := [], kept := [], rep := none, engq := [], held := [], redo := [], postErr := none
        ticket := none, answer := none, amoErr := none, ending := none, chwait := none, barAt := none, sendWait := 0
        uarea := x.uarea.setAddr (base + BitVec.ofNat 64 recordSize), pcc := x.uvec }
      let z := (((y.setC 56 cap).setC 57 (.plain (BitVec.ofNat 128 (f.word posted atEnd)))).setC 58
        (.plain (f.va.setWidth 128))).setC 59 .null
      (s2.setStrand c k z).updCore c (fun r =>
        { r with recs := { addr := base, wid := x.work.wid, count := x.upcalls + 1, born := s2.nextId, win := x.failedWin atEnd long, strand := x } :: r.recs.filter (fun u => u.addr != base) })

/-! ### Retiring -/

/-- Where control goes after an instruction that completes: on, to a new PCC, or nowhere (its work has ended, or its
meaning has set the strand's PCC itself). -/
inductive Next where
  | seq | jump (pcc : CVal) | gone

/-- The windows that stood open before an instruction count one slot (R28). -/
def Strand.countDown (x : Strand) (before : Nat) : Strand :=
  { x with wins := x.wins.map (fun w => if w.id < before then { w with left := w.left - 1 } else w) }

/-- The state of a slot after an instruction: running, unless the instruction has ended the slot's own work (16 R306). -/
def Strand.goesOn (x : Strand) : SlotSt := if x.st = .dormant then .dormant else .running

/-- The strand after an instruction of `len` bytes that it has passed: program counter, repeat position, windows
(R23, R28, R32). `rep` is the repeat state at issue; one that a trap has set aside stands still (03 R94). -/
def Strand.pass (x : Strand) (pcc : CVal) (rep : Option Rep) (len before : Nat) : Strand :=
  let y := { x.countDown before with st := x.goesOn }
  let next := pcc.addr + BitVec.ofNat 64 len
  match rep with
  | none => { y with pcc := pcc.withAddr next }
  | some r =>
    if r.parked ∨ r.next ≠ pcc.addr then { y with pcc := pcc.withAddr next }
    else if r.pos + 1 < r.len then
      { y with pcc := pcc.withAddr next, rep := some { r with pos := r.pos + 1, next := next } }
    else if r.left ≤ 1 then { y with pcc := pcc.withAddr next, rep := none }
    else { y with pcc := pcc.withAddr r.start, rep := some { r with pos := 0, next := r.start, left := r.left - 1 } }

/-- The strand after a taken jump: one inside the body ends the repetition (R32). -/
def Strand.leap (x : Strand) (pcc : CVal) (rep : Option Rep) (here : Dbl) (before : Nat) : Strand :=
  let y := { x.countDown before with st := x.goesOn, pcc := pcc }
  match rep with
  | some r => if !r.parked ∧ r.next = here then { y with rep := none } else y
  | none => y

/-- A strand's ports as they stood, for an attempt that must be made again. -/
def Strand.ports (x y : Strand) : Strand :=
  { x with ldq := y.ldq, stq := y.stq, engq := y.engq, vldq := y.vldq, vstq := y.vstq, outbox := y.outbox
           msg := if x.msg.isNone then none else y.msg }

/-- One instruction of `len` bytes issued under guard `g`: guarded off it only counts (R26); else its effect `f`
happens and it retires, or it traps with nothing done, takes a memory upcall, stalls, or waits (R25; 09 R214); one that stalls was
not ready (09 R222). -/
def issueN (g : Fin 8) (len : Nat) (s : State) (f : State → Except Stop (State × Next)) : Out :=
  let x := s.me
  if x.guard g = false then .next (s.setMe (x.pass x.pcc x.rep len s.nextId))
  else match f s with
    | .ok (s1, .seq) => .next (s1.setMe (s1.me.pass x.pcc x.rep len s.nextId))
    | .ok (s1, .jump pcc) => .next (s1.setMe (s1.me.leap pcc x.rep x.pcc.addr s.nextId))
    | .ok (s1, .gone) => .next s1
    | .error (.trap t a) => .next (s.takeTrap s.cur.1 s.cur.2 t a)
    | .error (.upcall q s1) => .next ((s1.setMe x).takeUpcall s.cur.1 s.cur.2 q false false 0)
    | .error (.late q a s1) => .next ((s1.setMe x).takeUpcall s.cur.1 s.cur.2 q false true a)
    | .error .stall => .next (s.setMe { x with stalled := true })
    | .error (.wait s1) => .next (s1.setMe { s1.me.ports x with st := .waiting })

/-- An instruction that goes on to its successor. -/
def issue (g : Fin 8) (len : Nat) (s : State) (f : State → Except Stop State) : Out :=
  issueN g len s (fun s => match f s with | .ok s1 => .ok (s1, .seq) | .error e => .error e)

/-! ### Windows before an instruction (R27, R30) -/

/-- What the strand must do before its next instruction: go on, stall, take a memory upcall, or take the trap of a port that
does not accept a value, without its window. -/
inductive Settled where
  | go (s : State)
  | stall
  | upcall
  | trap (t : Trap) (addr : Option Dbl) (s : State)

/-- A strand without a pending-write record. -/
def Strand.closeWin (x : Strand) (id : Nat) : Strand :=
  { x with kept := x.kept.filter (fun w => w.id != id), wins := x.wins.filter (fun w => w.id != id) }

/-- Windows whose count has run out give their values, in order; one without its value stalls, one that failed asks
for the upcall. A load into a port has no window slots, so it lands here only when `resumef` has performed it again; that a
trap of the port is then taken here, at the next instruction, is the model's choice (01 R15, R30; log entry 70). -/
def State.settle (s : State) : List Window → Settled
  | [] => .go s
  | w :: ws =>
    if w.left ≠ 0 then s.settle ws
    else match w.res with
      | .pending => .stall
      | .failed _ => .upcall
      | .rows r fl =>
        let s1 := s.setMe (s.me.closeWin w.id)
        let s2 := s1.raise fl
        match w.dst with
        | .t d =>
          State.settle (s2.updCore s.cur.1 (fun (c : Core) =>
            { c with t := wr c.t d { rd c.t d with rows := vofFn (fun i => (r[i.val]?).getD 0) } })) ws
        | _ => s2.settle ws
      | .value v tag fl =>
        let s1 := s.setMe (s.me.closeWin w.id)
        let s2 := s1.raise fl
        let s3 := if w.plsat then s2.updMe (fun x => { x with qstat := x.qstat ||| 1 }) else s2
        match w.dst with
        | .c d => match s3.landC d { val := v.setWidth 128, tag := tag } with
          | .ok s4 => s4.settle ws
          | .error (.trap t a) => .trap t a s1
          | .error _ => .stall
        | .v d => match s3.landV d v with
          | .ok s4 => s4.settle ws
          | .error _ => .stall
        | .t _ => s3.settle ws

/-- The strand's due windows settled. -/
def State.settleMe (s : State) : Settled := s.settle s.me.wins

/-- The first window of a list whose access has failed. -/
def firstFailed : List Window → Option (FaultInfo × Dbl)
  | [] => none
  | w :: ws => match w.res with
    | .failed f => some (f, w.pc)
    | _ => firstFailed ws

/-- A wait for every lookahead window: a failed one is taken as an upcall here, a pending one holds the strand (R30). -/
def State.joinWins (s : State) : Except Stop State :=
  match firstFailed s.me.allWins with
  | some (f, a) => .error (.late f a s)
  | none =>
    match s.settle (s.me.allWins.map (fun (w : Window) => { w with left := 0 })) with
    | .go s1 => .ok s1
    | _ => .error (.wait s)

/-- A wait until the strand's posted accesses, and those whose values it has taken, are performed (04 R106; 18 R324, R327). -/
def State.joinPosted (s : State) : Except Stop State :=
  if s.postsDone then .ok s else .error (.wait s)

/-! ### Checks of an access at issue (04 R101, R102) -/

/-- Tag, permissions, alignment, bounds and die of an access of `n` bytes at `va` through `c`, in that order. -/
def State.checkAccess (s : State) (c : CVal) (ps : List Perm) (va : Dbl) (n al : Nat) (crosses : Bool := false) :
    Except Stop Unit :=
  if !c.tag then .error (.trap .capt (some va))
  else if !c.hasAll ps then .error (.trap .capp (some va))
  else if va.toNat % al ≠ 0 then .error (.trap .align (some va))
  else if !c.inBounds va.toNat n then .error (.trap .capb (some va))
  else if !crosses ∧ !c.has .local ∧ offDieRange s.cur.1 va n then .error (.trap .xdie (some va))
  else .ok ()

/-- PCC carries SYS (07 R203). -/
def State.mySys (s : State) : Bool := s.me.pcc.has .sys

/-- A trap unless a condition holds. -/
def need (b : Bool) (t : Trap) : Except Stop Unit := if b then .ok () else .error (.t t)

/-- A check made of every entry of a list, in order; the first that fails tells. -/
def allOk {α : Type} : List α → (α → Except Stop Unit) → Except Stop Unit
  | [], _ => .ok ()
  | x :: xs, f => match f x with
    | .error e => .error e
    | .ok _ => allOk xs f

/-- What a partial function gives for every entry of a list, in order, or the first failure. -/
def mapOk {α β : Type} : List α → (α → Except Stop β) → Except Stop (List β)
  | [], _ => .ok []
  | x :: xs, f => match f x with
    | .error e => .error e
    | .ok y => match mapOk xs f with
      | .error e => .error e
      | .ok ys => .ok (y :: ys)

/-- Instructions that trap `spec` in a speculative task. -/
def State.notSpec (s : State) : Except Stop Unit := need (s.me.work.task.isNone) .spec

/-- A speculative task that would hold more than 32 deferred operations waits before it defers `n` more (16 R309); it stands
in the list of waits at place 400, which is no home. -/
def State.deferRoomFor (s : State) (n : Nat) : Except Stop Unit :=
  match s.specOf s.me with
  | none => .ok ()
  | some x => match s.task x.id with
    | some (d, t) =>
      if n = 0 ∨ t.defer.length + n ≤ 32 then .ok ()
      else
        let w := (400, x.wid)
        let s1 := if s.vwait.contains w then s
          else ({ s with vwait := s.vwait ++ [w] } : State).updDom d (fun (y : Domain) => { y with vstall := up16 y.vstall })
        .error (.wait (s1.pokeDomain d))
    | none => .ok ()

/-- The same of one more operation. -/
def State.deferRoom (s : State) : Except Stop Unit := s.deferRoomFor 1

/-- A return from a trap: TACT cleared, PCC from EPC, past the word when CODE is `brk` (R204); a repeat goes on where EPC
is its saved position (03 R94). The windows set aside resume their count where it stopped, the word of a `trap n` counting
as one slot, and those whose access has failed make it again (R28-R30); the handler's own count its `tret`. -/
def State.trapReturn (s : State) : Except Stop State :=
  let x := s.me
  if !x.tcause.getLsbD 31 then .error (.t .ill)
  else
    let brk := decide (df x.tcause 0 8 = 11)
    let rep := x.rep.map (fun (r : Rep) => if r.next = x.epc.addr then { r with parked := false } else r)
    let own := (x.countDown s.nextId).wins
    let back := x.kept.map (fun (w : Window) =>
      { w with left := w.left - (if brk then 1 else 0), res := match w.res with | .failed _ => .pending | r => r })
    let y := if brk then { x with rep := rep }.pass x.epc rep 4 0 else { x with pcc := x.epc, rep := rep }
    let s1 := s.setMe { y with tcause := x.tcause &&& ~~~((1 : Dbl) <<< 31), kept := [], wins := back ++ own }
    .ok (x.kept.foldl (fun s w => match w.res with
      | .failed _ => s.post 100 (.loadResponse s.cur.1 s.cur.2 w.id)
      | _ => s) s1)

/-- A return from an upcall through the record at `c[a]` (R205): registers, repeat state, queues and outbox from the record,
the accesses of its windows and held posts as the hardware kept them, found by the record's upcall count (log entry 9); a parked atomic that failed is no longer waited for, so its
instruction is executed anew (R105). `again` performs the failed access and the held posted ones anew, in order, before the strand goes on
(`Strand.redo`); else both are discarded, and other pending-write records stand as they were (R30). The posted accesses of
the handler come first (04 R103). -/
def State.upcallReturn (s : State) (rec' : CVal) (again : Bool) : Except Stop State := do
  let va := rec'.addr
  s.checkAccess rec' [.ld, .ldcap] va recordSize 64
  let c := s.cur.1
  let k := s.cur.2
  let x := s.me
  let w := s.whoOf c k
  if (s.core c).wpath.any (fun p => p.slot == k) then throw (.wait s)
  match s.homeRead w (rec'.has .local) va recordSize with
  | .error (f, s1) => throw (.upcall f s1)
  | .ok (img, s1) =>
    let bytes := img.map (·.1)
    let num := fun o n => ofBytes ((bytes.drop o).take n)
    if num 3 1 ≠ 1 ∨ num 0 2 ≠ c.val ∨ num 2 1 ≠ k.val ∨ num 4 2 ≠ x.asid.toNat then throw (.t .ill)
    else match s1.homeWrite w (rec'.has .local) [(va + 3, [0])] [] with
      | .error (f, s2) => throw (.upcall f s2)
      | .ok s2 =>
        let u := (s2.core c).recs.find? (fun u => u.wid == x.work.wid && u.count.toNat == num 8 8)
        let old := (u.map (·.strand)).getD x.bare
        let win := u.bind (·.win)
        let back := fun (ws : List Window) =>
          if again then ws.map (fun w => if win = some w.id then { w with res := .pending } else w)
          else ws.filter (fun w => win != some w.id)
        let z := x.fromImage img
        let y : Strand := { z with
          kept := back old.kept, wins := back old.wins, took := old.took, redo := if again then old.held.map (·.id) else []
          engq := z.engq ++ x.engq, st := .running, ticket := if old.amoErr.isSome then none else old.ticket, answer := old.answer
          barAt := old.barAt, sendWait := old.sendWait }
        let s3 := (s2.setMe y).updCore c (fun r => { r with
          recs := match u with | some v => r.recs.erase v | none => r.recs })
        let s4 := y.allWins.foldl (fun s w => match w.res with
          | .pending => s.post 1 (.loadResponse c k w.id)
          | _ => s) s3
        if again then
          let s5 := s4.updCore c (fun r => { r with wpath := r.wpath ++ old.held })
          pure (old.held.foldl (fun s p => s.post 1 (match p.kind with
            | .store _ _ => .storeAtHome c p.id
            | .amo _ _ _ => .amoAtHome c p.id
            | .xadd _ _ => .xaddAtHome c p.id)) s5)
        else pure s4

end Sys2Proof.Machine
end

