-- ==== Sys2Proof/Machine/Scalar.lean ====
section
/-! DEFINITION. Scalar integer instructions (03_scalar_and_control.md R65-R76). -/

namespace Sys2Proof.Machine

/-! ### Shapes -/

/-- A 64-bit result of two c operands (R65). -/
def scalar2 (g : Fin 8) (d a b : Fin 64) (f : Dbl → Dbl → Dbl) (s : State) : Out := issue g 4 s fun s => do
  let (x, s) ← s.useX a
  let (y, s) ← s.useX b
  s.putX d (f x y)

/-- A 128-bit result of two c operands, tag cleared (R65). -/
def quad2 (g : Fin 8) (d a b : Fin 64) (f : Quad → Quad → Quad) (s : State) : Out := issue g 4 s fun s => do
  let (x, s) ← s.useC a
  let (y, s) ← s.useC b
  s.putC d (.plain (f x.val y.val))

/-- A 64-bit result of one c operand, in a word of `len` bytes. -/
def scalar1 (len : Nat) (g : Fin 8) (d a : Fin 64) (f : Dbl → Dbl) (s : State) : Out := issue g len s fun s => do
  let (x, s) ← s.useX a
  s.putX d (f x)

/-- A 128-bit result of one c operand, tag cleared, in a word of `len` bytes. -/
def quad1 (len : Nat) (g : Fin 8) (d a : Fin 64) (f : Quad → Quad) (s : State) : Out := issue g len s fun s => do
  let (x, s) ← s.useC a
  s.putC d (.plain (f x.val))

/-- A guard written from a condition on two c operands, combined with its old value by `h` (R73). -/
def compare2 (g c h : Fin 8) (a b : Fin 64) (k : Bool → Bool → Bool) (s : State) : Out := issue g 4 s fun s => do
  let (x, s) ← s.useX a
  let (y, s) ← s.useX b
  pure (s.putG h (k (s.me.guard h) (icond c.val x y)))

/-- A guard written from a condition on a c operand and an immediate. -/
def compareImm (len : Nat) (g c h : Fin 8) (a : Fin 64) (y : Dbl) (s : State) : Out := issue g len s fun s => do
  let (x, s) ← s.useX a
  pure (s.putG h (icond c.val x y))

/-- A guard written from guards (R74). -/
def guards (g h : Fin 8) (f : Strand → Bool) (s : State) : Out := issue g 4 s fun s => .ok (s.putG h (f s.me))

/-! ### Results -/

/-- Quotient and remainder; y = 0 gives all ones and x (R70). -/
def quotS (x y : Dbl) : Dbl := if y = 0 then BitVec.allOnes 64 else BitVec.ofInt 64 (Int.tdiv x.toInt y.toInt)
def quotU (x y : Dbl) : Dbl := if y = 0 then BitVec.allOnes 64 else BitVec.ofNat 64 (x.toNat / y.toNat)
def remS (x y : Dbl) : Dbl := if y = 0 then x else BitVec.ofInt 64 (Int.tmod x.toInt y.toInt)
def remU (x y : Dbl) : Dbl := if y = 0 then x else BitVec.ofNat 64 (x.toNat % y.toNat)

/-- Bits 127:64 of a product (R70). -/
def mulHighS (x y : Dbl) : Dbl := BitVec.ofInt 64 (x.toInt * y.toInt / 2 ^ 64)
def mulHighU (x y : Dbl) : Dbl := BitVec.ofNat 64 (x.toNat * y.toNat / 2 ^ 64)

/-- Leading zero bits, and one bits (R71). -/
def leadZeros (x : Dbl) : Dbl := BitVec.ofNat 64 (if x = 0 then 64 else 63 - Nat.log2 x.toNat)
def oneBits (x : Dbl) : Dbl := BitVec.ofNat 64 ((List.range 64).filter (fun i => x.getLsbD i)).length

/-- The low `n` bits, sign-extended (R71). -/
def sextLow (n : Nat) (x : Dbl) : Dbl := (x.setWidth n).signExtend 64
/-- The low `n` bits, zero-extended (R71). -/
def zextLow (n : Nat) (x : Dbl) : Dbl := (x.setWidth n).setWidth 64

/-- An I-format immediate or literal as 64 bits (R67). -/
def imm64 {n : Nat} (i : BitVec n) : Dbl := i.signExtend 64
/-- The same as 128 bits, for and, or and xor (R67). -/
def imm128 {n : Nat} (i : BitVec n) : Quad := i.signExtend 128

/-- A shift count from a register: its bits 5:0 (R69). -/
def shiftCount (y : Dbl) : Nat := y.toNat % 64

/-! ### Register forms (R69, R70) -/

/-- `add` (R69). -/
def execAdd (g : Fin 8) (d a b : Fin 64) (s : State) : Out := scalar2 g d a b (fun x y => x + y) s

/-- `sub` (R69). -/
def execSub (g : Fin 8) (d a b : Fin 64) (s : State) : Out := scalar2 g d a b (fun x y => x - y) s

/-- `sll` (R69). -/
def execSll (g : Fin 8) (d a b : Fin 64) (s : State) : Out := scalar2 g d a b (fun x y => x <<< shiftCount y) s

/-- `srl` (R69). -/
def execSrl (g : Fin 8) (d a b : Fin 64) (s : State) : Out := scalar2 g d a b (fun x y => x >>> shiftCount y) s

/-- `sra` (R69). -/
def execSra (g : Fin 8) (d a b : Fin 64) (s : State) : Out := scalar2 g d a b (fun x y => x.sshiftRight (shiftCount y)) s

/-- `rot` (R69). -/
def execRot (g : Fin 8) (d a b : Fin 64) (s : State) : Out := scalar2 g d a b (fun x y => x.rotateRight (shiftCount y)) s

/-- `min` (R69). -/
def execMin (g : Fin 8) (d a b : Fin 64) (s : State) : Out := scalar2 g d a b (fun x y => if x.toInt ≤ y.toInt then x else y) s

/-- `max` (R69). -/
def execMax (g : Fin 8) (d a b : Fin 64) (s : State) : Out := scalar2 g d a b (fun x y => if x.toInt ≤ y.toInt then y else x) s

/-- `and`, 128 bits (R65, R69). -/
def execAnd (g : Fin 8) (d a b : Fin 64) (s : State) : Out := quad2 g d a b (fun x y => x &&& y) s

/-- `or`, 128 bits (R65, R69). -/
def execOr (g : Fin 8) (d a b : Fin 64) (s : State) : Out := quad2 g d a b (fun x y => x ||| y) s

/-- `xor`, 128 bits (R65, R69). -/
def execXor (g : Fin 8) (d a b : Fin 64) (s : State) : Out := quad2 g d a b (fun x y => x ^^^ y) s

/-- `andn`, 128 bits (R65, R69). -/
def execAndn (g : Fin 8) (d a b : Fin 64) (s : State) : Out := quad2 g d a b (fun x y => x &&& ~~~y) s

/-- `mul` (R70). -/
def execMul (g : Fin 8) (d a b : Fin 64) (s : State) : Out := scalar2 g d a b (fun x y => x * y) s

/-- `mulh` (R70). -/
def execMulh (g : Fin 8) (d a b : Fin 64) (s : State) : Out := scalar2 g d a b mulHighS s

/-- `mulh.u` (R70). -/
def execMulhU (g : Fin 8) (d a b : Fin 64) (s : State) : Out := scalar2 g d a b mulHighU s

/-- `div` (R70). -/
def execDiv (g : Fin 8) (d a b : Fin 64) (s : State) : Out := scalar2 g d a b quotS s

/-- `div.u` (R70). -/
def execDivU (g : Fin 8) (d a b : Fin 64) (s : State) : Out := scalar2 g d a b quotU s

/-- `rem` (R70). -/
def execRem (g : Fin 8) (d a b : Fin 64) (s : State) : Out := scalar2 g d a b remS s

/-- `rem.u` (R70). -/
def execRemU (g : Fin 8) (d a b : Fin 64) (s : State) : Out := scalar2 g d a b remU s

/-! ### Unary forms (R71) and immediate forms (R67, R69, R72) -/

/-- `clz` (R71). -/
def execClz (g : Fin 8) (d a : Fin 64) (s : State) : Out := scalar1 4 g d a leadZeros s

/-- `popc` (R71). -/
def execPopc (g : Fin 8) (d a : Fin 64) (s : State) : Out := scalar1 4 g d a oneBits s

/-- `sext.b` (R71). -/
def execSextB (g : Fin 8) (d a : Fin 64) (s : State) : Out := scalar1 4 g d a (sextLow 8) s

/-- `sext.h` (R71). -/
def execSextH (g : Fin 8) (d a : Fin 64) (s : State) : Out := scalar1 4 g d a (sextLow 16) s

/-- `sext.w` (R71). -/
def execSextW (g : Fin 8) (d a : Fin 64) (s : State) : Out := scalar1 4 g d a (sextLow 32) s

/-- `zext.b` (R71). -/
def execZextB (g : Fin 8) (d a : Fin 64) (s : State) : Out := scalar1 4 g d a (zextLow 8) s

/-- `zext.h` (R71). -/
def execZextH (g : Fin 8) (d a : Fin 64) (s : State) : Out := scalar1 4 g d a (zextLow 16) s

/-- `zext.w` (R71). -/
def execZextW (g : Fin 8) (d a : Fin 64) (s : State) : Out := scalar1 4 g d a (zextLow 32) s

/-- `mov`, all 128 bits and the tag (R71). -/
def execMov (g : Fin 8) (d a : Fin 64) (s : State) : Out := issue g 4 s fun s => do
  let (x, s) ← s.useC a
  s.putC d x

/-- `add` with an immediate. -/
def execAddImm (g : Fin 8) (d a : Fin 64) (i : BitVec 10) (s : State) : Out := scalar1 4 g d a (fun x => x + imm64 i) s

/-- `add` with a literal. -/
def execAddImmLiteral (g : Fin 8) (d a : Fin 64) (lit : Word) (s : State) : Out := scalar1 8 g d a (fun x => x + imm64 lit) s

/-- `and` with an immediate, 128 bits. -/
def execAndImm (g : Fin 8) (d a : Fin 64) (i : BitVec 10) (s : State) : Out := quad1 4 g d a (fun x => x &&& imm128 i) s

/-- `and` with a literal, 128 bits. -/
def execAndImmLiteral (g : Fin 8) (d a : Fin 64) (lit : Word) (s : State) : Out := quad1 8 g d a (fun x => x &&& imm128 lit) s

/-- `or` with an immediate, 128 bits. -/
def execOrImm (g : Fin 8) (d a : Fin 64) (i : BitVec 10) (s : State) : Out := quad1 4 g d a (fun x => x ||| imm128 i) s

/-- `or` with a literal, 128 bits. -/
def execOrImmLiteral (g : Fin 8) (d a : Fin 64) (lit : Word) (s : State) : Out := quad1 8 g d a (fun x => x ||| imm128 lit) s

/-- `xor` with an immediate, 128 bits. -/
def execXorImm (g : Fin 8) (d a : Fin 64) (i : BitVec 10) (s : State) : Out := quad1 4 g d a (fun x => x ^^^ imm128 i) s

/-- `xor` with a literal, 128 bits. -/
def execXorImmLiteral (g : Fin 8) (d a : Fin 64) (lit : Word) (s : State) : Out := quad1 8 g d a (fun x => x ^^^ imm128 lit) s

/-- `sll` by an immediate (R69). -/
def execSllImm (g : Fin 8) (d a : Fin 64) (i : BitVec 10) (s : State) : Out := scalar1 4 g d a (fun x => x <<< i.toNat) s

/-- `srl` by an immediate (R69). -/
def execSrlImm (g : Fin 8) (d a : Fin 64) (i : BitVec 10) (s : State) : Out := scalar1 4 g d a (fun x => x >>> i.toNat) s

/-- `sra` by an immediate (R69). -/
def execSraImm (g : Fin 8) (d a : Fin 64) (i : BitVec 10) (s : State) : Out := scalar1 4 g d a (fun x => x.sshiftRight i.toNat) s

/-- `rot` by an immediate (R69). -/
def execRotImm (g : Fin 8) (d a : Fin 64) (i : BitVec 10) (s : State) : Out := scalar1 4 g d a (fun x => x.rotateRight i.toNat) s

/-- `li` (R72). -/
def execLi (g : Fin 8) (d : Fin 64) (i : BitVec 10) (s : State) : Out := issue g 4 s fun s => s.putX d (imm64 i)

/-- `li` with a literal (R72). -/
def execLiLiteral (g : Fin 8) (d : Fin 64) (lit : Word) (s : State) : Out := issue g 8 s fun s => s.putX d (imm64 lit)

/-! ### Compares, guards and select (R73-R75) -/

/-- `cmpi` (R73). -/
def execCmpi (g c h : Fin 8) (a : Fin 64) (i : BitVec 10) (s : State) : Out := compareImm 4 g c h a (imm64 i) s

/-- `cmpi` with a literal (R73). -/
def execCmpiLiteral (g c h : Fin 8) (a : Fin 64) (lit : Word) (s : State) : Out := compareImm 8 g c h a (imm64 lit) s

/-- `cmp` (R73). -/
def execCmp (g c h : Fin 8) (a b : Fin 64) (s : State) : Out := compare2 g c h a b (fun _ x => x) s

/-- `cmp.and` (R73). -/
def execCmpAnd (g c h : Fin 8) (a b : Fin 64) (s : State) : Out := compare2 g c h a b (fun o x => o && x) s

/-- `cmp.or` (R73). -/
def execCmpOr (g c h : Fin 8) (a b : Fin 64) (s : State) : Out := compare2 g c h a b (fun o x => o || x) s

/-- `gnot` (R74). -/
def execGnot (g h j : Fin 8) (s : State) : Out := guards g h (fun x => !x.guard j) s

/-- `gand` (R74). -/
def execGand (g h j k : Fin 8) (s : State) : Out := guards g h (fun x => x.guard j && x.guard k) s

/-- `gor` (R74). -/
def execGor (g h j k : Fin 8) (s : State) : Out := guards g h (fun x => x.guard j || x.guard k) s

/-- `sel`, 128 bits and the tag; both operands are read (R75). -/
def execSel (g : Fin 8) (d a b : Fin 64) (h : Fin 8) (s : State) : Out := issue g 4 s fun s => do
  let (x, s) ← s.useC a
  let (y, s) ← s.useC b
  s.putC d (if s.me.guard h then x else y)

end Sys2Proof.Machine
end

