-- ==== Sys2Proof/Machine/Capability.lean ====
section
/-! DEFINITION. Capability instructions (03_scalar_and_control.md R82-R89). -/

namespace Sys2Proof.Machine

/-- A capability narrowed to a length (R87). -/
def narrowTo (d : Fin 64) (x : CVal) (len : Nat) (s : State) : Except Stop State :=
  match x.narrow len with
  | .ok v => s.putC d v
  | .error t => .error (.t t)

/-- A result computed from one capability operand. -/
def capUnary (len : Nat) (g : Fin 8) (d a : Fin 64) (f : CVal → CVal) (s : State) : Out := issue g len s fun s => do
  let (x, s) ← s.useC a
  s.putC d (f x)

/-- A result computed from a capability operand and the low half of another. -/
def capBinary (g : Fin 8) (d a b : Fin 64) (f : CVal → Dbl → CVal) (s : State) : Out := issue g 4 s fun s => do
  let (x, s) ← s.useC a
  let (y, s) ← s.useX b
  s.putC d (f x y)

/-- `cbnd` (R87). -/
def execCbnd (g : Fin 8) (d a b : Fin 64) (s : State) : Out := issue g 4 s fun s => do
  let (x, s) ← s.useC a
  let (y, s) ← s.useX b
  narrowTo d x y.toNat s

/-- `cbnd` with an immediate, read unsigned (R67, R87). -/
def execCbndImm (g : Fin 8) (d a : Fin 64) (i : BitVec 10) (s : State) : Out := issue g 4 s fun s => do
  let (x, s) ← s.useC a
  narrowTo d x i.toNat s

/-- `cbnd` with a literal, read unsigned (R67, R87). -/
def execCbndImmLiteral (g : Fin 8) (d a : Fin 64) (lit : Word) (s : State) : Out := issue g 8 s fun s => do
  let (x, s) ← s.useC a
  narrowTo d x lit.toNat s

/-- `cinc` (R88). -/
def execCinc (g : Fin 8) (d a b : Fin 64) (s : State) : Out := capBinary g d a b (fun x y => x.setAddr (x.addr + y)) s

/-- `cinc` with an immediate (R88). -/
def execCincImm (g : Fin 8) (d a : Fin 64) (i : BitVec 10) (s : State) : Out :=
  capUnary 4 g d a (fun x => x.setAddr (x.addr + imm64 i)) s

/-- `cinc` with a literal (R88). -/
def execCincImmLiteral (g : Fin 8) (d a : Fin 64) (lit : Word) (s : State) : Out :=
  capUnary 8 g d a (fun x => x.setAddr (x.addr + imm64 lit)) s

/-- `caddr` (R88). -/
def execCaddr (g : Fin 8) (d a b : Fin 64) (s : State) : Out := capBinary g d a b (fun x y => x.setAddr y) s

/-- `cperm` (R89). -/
def execCperm (g : Fin 8) (d a b : Fin 64) (s : State) : Out := capBinary g d a b (fun x y => x.cutPerms y.toNat) s

/-- `ctagc` (R89). -/
def execCtagc (g : Fin 8) (d a : Fin 64) (s : State) : Out := capUnary 4 g d a (fun x => { x with tag := false }) s

/-- `cget.base`: the low 64 bits of the base (R84, R89). -/
def execCgetBase (g : Fin 8) (d a : Fin 64) (s : State) : Out :=
  capUnary 4 g d a (fun x => .plain ((BitVec.ofInt 64 x.base).setWidth 128)) s

/-- `cget.top`, 65 bits (R89). -/
def execCgetTop (g : Fin 8) (d a : Fin 64) (s : State) : Out :=
  capUnary 4 g d a (fun x => .plain ((BitVec.ofInt 65 x.top).setWidth 128)) s

/-- `cget.len`, 65 bits (R84, R89). -/
def execCgetLen (g : Fin 8) (d a : Fin 64) (s : State) : Out :=
  capUnary 4 g d a (fun x => .plain ((BitVec.ofInt 65 (x.top - x.base)).setWidth 128)) s

/-- `cget.perm` (R89). -/
def execCgetPerm (g : Fin 8) (d a : Fin 64) (s : State) : Out :=
  capUnary 4 g d a (fun x => .plain (BitVec.ofNat 128 (qf x.val 104 16))) s

/-- `cget.tag` (R89). -/
def execCgetTag (g : Fin 8) (d a : Fin 64) (s : State) : Out :=
  capUnary 4 g d a (fun x => .plain (if x.tag then 1 else 0)) s

end Sys2Proof.Machine
end

