-- ==== Sys2Proof/Machine/Control.lean ====
section
/-! DEFINITION. Control instructions (03_scalar_and_control.md R90-R96; 01_words.md R21, R32). -/

namespace Sys2Proof.Machine

/-- The target of a jump or branch with an offset field of `n` bits (R21). -/
def target (pcc : CVal) (n o : Nat) : Dbl := pcc.addr + BitVec.ofInt 64 (4 * sint n o)

/-- PCC at a jump's target, which must hold a word within its bounds (R91). -/
def jumpTo (pcc : CVal) (t : Dbl) : Except Stop CVal :=
  if pcc.inBounds t.toNat 4 then .ok (pcc.setAddr t) else .error (.trap .capb (some t))

/-- PCC loaded from a register (R92). -/
def loadPcc (v : CVal) : Except Stop CVal :=
  if !v.tag then .error (.trap .capt (some v.addr))
  else if !v.has .exec then .error (.trap .capp (some v.addr))
  else if v.addr.toNat % 4 ≠ 0 then .error (.trap .align (some v.addr))
  else if !v.inBounds v.addr.toNat 4 then .error (.trap .capb (some v.addr))
  else .ok v

/-- `j` (R91). -/
def execJ (g : Fin 8) (o : Fin 4194304) (s : State) : Out := issueN g 4 s fun s => do
  let p ← jumpTo s.me.pcc (target s.me.pcc 22 o.val)
  pure (s, .jump p)

/-- `call`: c1 takes PCC at the next word (R91). -/
def execCall (g : Fin 8) (o : Fin 4194304) (s : State) : Out := issueN g 4 s fun s => do
  let p ← jumpTo s.me.pcc (target s.me.pcc 22 o.val)
  let s ← s.putC 1 (s.me.pcc.setAddr (s.me.pcc.addr + 4))
  pure (s, .jump p)

/-- `jr` (R92). -/
def execJr (g : Fin 8) (a : Fin 64) (s : State) : Out := issueN g 4 s fun s => do
  let (v, s) ← s.useC a
  let p ← loadPcc v
  pure (s, .jump p)

/-- `ret`: `jr c1` (R92). -/
def execRet (g : Fin 8) (s : State) : Out := issueN g 4 s fun s => do
  let p ← loadPcc (s.me.creg 1)
  pure (s, .jump p)

/-- A branch on a guard: taken where the guard equals the sense (R93). -/
def branch (g h : Fin 8) (sense : Bool) (o : Fin 262144) (s : State) : Out := issueN g 4 s fun s =>
  if s.me.guard h = sense then do
    let p ← jumpTo s.me.pcc (target s.me.pcc 18 o.val)
    pure (s, .jump p)
  else .ok (s, .seq)

/-- `bg.f` (R93). -/
def execBgF (g h : Fin 8) (o : Fin 262144) (s : State) : Out := branch g h false o s

/-- `bg.t` (R93). -/
def execBgT (g h : Fin 8) (o : Fin 262144) (s : State) : Out := branch g h true o s

/-! ### Repeat (R32, R94) -/

/-- The address past `n` instructions from `va`; a word that cannot be fetched is where it ends (log entry 17). -/
def State.skipWords (s : State) : Nat → Dbl → Dbl
  | 0, va => va
  | n + 1, va =>
    match s.fetch s.cur.1 s.cur.2 s.me.pcc va with
    | .ok (w, _) => s.skipWords n (va + (if hasLiteral w then 8 else 4))
    | .error _ => va

/-- A repeat of `l + 1` instructions `n` times, by a word of `len` bytes (R32). -/
def repeatBody (g : Fin 8) (len : Nat) (l : Fin 64) (s : State) (count : State → Except Stop (Nat × State)) : Out :=
  issueN g len s fun s => do
    need s.me.rep.isNone .ill
    let (n, s) ← count s
    need (decide (n ≤ 65535)) .ill
    let start := s.me.pcc.addr + BitVec.ofNat 64 len
    if n = 0 then pure (s, .jump (s.me.pcc.withAddr (s.skipWords (l.val + 1) start)))
    else
      pure (s.updMe (fun x => { x with rep := some { start := start, next := start, len := l.val + 1, pos := 0, left := n, parked := false } }), .seq)

/-- `rep` with an immediate count (R94). -/
def execRep (g : Fin 8) (l : Fin 64) (i : BitVec 10) (s : State) : Out :=
  repeatBody g 4 l s (fun s => .ok (i.toNat, s))

/-- `rep` with a literal count (R94). -/
def execRepLiteral (g : Fin 8) (l : Fin 64) (lit : Word) (s : State) : Out :=
  repeatBody g 8 l s (fun s => .ok (lit.toNat, s))

/-- `rep` with a count register (R94). -/
def execRepReg (g : Fin 8) (l a : Fin 64) (s : State) : Out :=
  repeatBody g 4 l s (fun s => (s.useX a).map (fun p => (p.1.toNat, p.2)))

/-- `nop` (R95). -/
def execNop (g : Fin 8) (s : State) : Out := issue g 4 s (fun s => .ok s)

/-- `trap`: raises `brk` with its code (R96). -/
def execTrap (g : Fin 8) (i : Fin 512) (s : State) : Out := issue g 4 s (fun _ => .error (.t (.brk i.val)))

end Sys2Proof.Machine
end

