-- ==== Sys2Proof/Machine/Route.lean ====
section
/-! DEFINITION. The way of messages between the cores and over the bridges of the dies (13 R279; 18 R332; 22 R392). -/

namespace Sys2Proof.Machine

/-- The UCIe port of a row's messages: its own, or the next in service (R279). -/
def State.portOf (s : State) (row : Nat) : Option (Fin 12) :=
  ((List.range 12).map (fun i => Fin.ofNat 12 (row + i))).find? (fun (p : Fin 12) => s.house.ready.getLsbD (40 + p.val))

/-- The die and row that a sender attaches to: event port p beside row p of die 0, the window unit beside its row 0, and
with it GPIO and CAN, whose place the spec does not give (22 R397; log entry 69). Nothing for a sender whose packets begin
at their destination's die. -/
def senderPlace : Sender → Option (Nat × Nat)
  | .core c => some (dieOf c, rowOf c)
  | .port p => some (0, p.val)
  | .window _ | .gpio _ | .can _ => some (0, 0)
  | .paging q => some (q.val / 12, rowOf (coreAt q 0))
  | .slotTimer _ | .housekeeping | .engine _ => none

/-- Whether a sender's packets to a core cross the dies. -/
def senderCrosses (t : Sender) (c : CoreId) : Bool := (senderPlace t).any (fun p => p.1 != dieOf c)

/-- A message or watermark put on its way to a core: across the dies through a bridge, which keeps it until it has arrived
and holds it while no port is in service (R332; 22 R392). -/
def State.route (s : State) (dest : CoreId) (m : Msg) : State :=
  if senderCrosses m.sender dest then
    let row := ((senderPlace m.sender).map (·.2)).getD 0
    let keep := fun (s : State) (p : Fin 12) =>
      { s with bridges := wr s.bridges p { rd s.bridges p with sent := (rd s.bridges p).sent ++ [(dest, m)] } }
    match s.portOf row with
    | some p => (keep s p).post 100 (.messageArrival dest m)
    | none => keep s (Fin.ofNat 12 row)
  else s.post 100 (.messageArrival dest m)

end Sys2Proof.Machine
end

