-- ==== Sys2Proof/Machine/Num.lean ====
section
/-! DEFINITION. Numbers to the last bit: the formats, exact binary values, rounding with its flags, arithmetic, block
float, block sums, exact accumulators and the generator (02_numbers.md R38-R64). -/

namespace Sys2Proof.Machine

/-! ### Formats (R38) -/

/-- The twenty operand formats, and the integer targets that only read-outs and conversions name. -/
inductive Fmt where
  | f32 | f19 | bf16 | f16 | e4m3 | e5m2 | e3m2 | e2m3 | e2m1
  | i16 | i8 | i4 | n8 | n4 | t2 | b1 | d4 | d8 | d16 | d24 | i32 | raw
  deriving DecidableEq, Repr

/-- A floating-point format: exponent and mantissa widths, bias, whether it has infinities and NaNs, and the unused low
bits of its code. -/
structure FloatFmt where
  eb : Nat
  mb : Nat
  bias : Int
  inf : Bool
  nan : Bool
  pad : Nat
  deriving DecidableEq, Repr

/-- The layout of a floating-point format (R38). -/
def Fmt.float : Fmt → Option FloatFmt
  | .f32 => some ⟨8, 23, 127, true, true, 0⟩
  | .f19 => some ⟨8, 10, 127, true, true, 13⟩
  | .bf16 => some ⟨8, 7, 127, true, true, 0⟩
  | .f16 => some ⟨5, 10, 15, true, true, 0⟩
  | .e4m3 => some ⟨4, 3, 7, false, true, 0⟩
  | .e5m2 => some ⟨5, 2, 15, true, true, 0⟩
  | .e3m2 => some ⟨3, 2, 3, false, false, 0⟩
  | .e2m3 => some ⟨2, 3, 1, false, false, 0⟩
  | .e2m1 => some ⟨2, 1, 1, false, false, 0⟩
  | _ => none

/-- Bits of an element's code (R38). -/
def Fmt.bits : Fmt → Nat
  | .f32 => 32 | .f19 => 32 | .bf16 => 16 | .f16 => 16 | .e4m3 => 8 | .e5m2 => 8 | .e3m2 => 6 | .e2m3 => 6 | .e2m1 => 4
  | .i16 => 16 | .i8 => 8 | .i4 => 4 | .n8 => 8 | .n4 => 4 | .t2 => 2 | .b1 => 1
  | .d4 => 4 | .d8 => 8 | .d16 => 16 | .d24 => 24 | .i32 => 32 | .raw => 64

/-- Elements of a 192-byte slab (R38). -/
def Fmt.slab (f : Fmt) : Nat := 1536 / f.bits

/-- The E-formats saturate (R41). -/
def Fmt.isE : Fmt → Bool
  | .e4m3 | .e5m2 | .e3m2 | .e2m3 | .e2m1 => true
  | _ => false

/-- Magnitude bits of a D-format element (R47). -/
def Fmt.dBits : Fmt → Option Nat
  | .d4 => some 2 | .d8 => some 6 | .d16 => some 14 | .d24 => some 22 | _ => none

/-- The format of a 5-bit code (06 R157). -/
def Fmt.ofCode : Nat → Option Fmt
  | 0 => some .f32 | 1 => some .f19 | 2 => some .bf16 | 3 => some .f16 | 4 => some .e4m3 | 5 => some .e5m2
  | 6 => some .e3m2 | 7 => some .e2m3 | 8 => some .e2m1 | 9 => some .i16 | 10 => some .i8 | 11 => some .i4
  | 12 => some .n8 | 13 => some .n4 | 14 => some .t2 | 15 => some .b1 | 16 => some .d4 | 17 => some .d8
  | 18 => some .d16 | 19 => some .d24 | 20 => some .i32 | 21 => some .raw | _ => none

/-! ### Values and flags -/

/-- What a code stands for: NaN (signalling or not), an infinity, or (−1)^neg · mag · 2^e. -/
inductive FVal where
  | nan (sig : Bool)
  | inf (neg : Bool)
  | fin (neg : Bool) (mag : Nat) (e : Int)
  deriving DecidableEq, Repr

def FVal.zero : FVal := .fin false 0 0
def FVal.isNan : FVal → Bool | .nan _ => true | _ => false
def FVal.isSig : FVal → Bool | .nan s => s | _ => false
def FVal.isInf : FVal → Bool | .inf _ => true | _ => false
def FVal.isZero : FVal → Bool | .fin _ 0 _ => true | _ => false
def FVal.isNeg : FVal → Bool | .nan _ => false | .inf n => n | .fin n _ _ => n
def FVal.negate : FVal → FVal
  | .nan s => .nan s | .inf n => .inf (!n) | .fin n m e => .fin (!n) m e

/-- floor(log2 |x|) of a nonzero value (R48, R55). -/
def leadExp (mag : Nat) (e : Int) : Int := (Nat.log2 mag : Int) + e

/-- A signed value as an integer count of 2^e. -/
def FVal.int : FVal → Int × Int
  | .fin n m e => (if n then -(m : Int) else m, e)
  | _ => (0, 0)

/-- An exact value from an integer count of 2^e; zero takes the sign given. -/
def ofInt (x : Int) (e : Int) (zneg : Bool) : FVal :=
  if x = 0 then .fin zneg 0 0 else .fin (decide (x < 0)) x.natAbs e

/-! ### Decoding (R38, R47) -/

/-- The value of a floating-point code. A NaN of F16 or BF16 whose top mantissa bit is 0 counts as signalling, as one of F32
does: R77 defines the word for F32 alone, so that `fcvt.f32.bf16` and `.f32.f16` raise NV for one is the model's choice (log
entry 69). -/
def FloatFmt.decode (f : FloatFmt) (c : Nat) : FVal :=
  let m := fld c f.pad f.mb
  let e := fld c (f.pad + f.mb) f.eb
  let neg := fld c (f.pad + f.mb + f.eb) 1 == 1
  let top := 2 ^ f.eb - 1
  if f.nan ∧ f.inf ∧ e = top then (if m = 0 then .inf neg else .nan (fld m (f.mb - 1) 1 == 0))
  else if f.nan ∧ !f.inf ∧ e = top ∧ m = 2 ^ f.mb - 1 then .nan false
  else if e = 0 then .fin neg m (1 - f.bias - f.mb)
  else .fin neg (2 ^ f.mb + m) ((e : Int) - f.bias - f.mb)

/-- Value of an element that needs no block header; T2 code 0b10 reads as 0 with TERN (R42). -/
def Fmt.decode (f : Fmt) (c : Nat) : FVal × Nat :=
  match f.float with
  | some x => (x.decode c, 0)
  | none =>
    match f with
    | .n8 | .n4 | .b1 => (ofInt (c % 2 ^ f.bits : Nat) 0 false, 0)
    | .t2 => match c % 4 with
      | 1 => (ofInt 1 0 false, 0)
      | 3 => (ofInt (-1) 0 false, 0)
      | 2 => (.zero, TERN)
      | _ => (.zero, 0)
    | _ => (ofInt (sint f.bits c) 0 false, 0)

/-! ### Rounding (R51, R52) -/

/-- Rounding modes. -/
inductive RMode where
  | rne | rtz | rup | rdn | sr
  deriving DecidableEq, Repr

/-- The mode of a 3-bit code; 5-7 are reserved. -/
def RMode.ofCode : Nat → Option RMode
  | 0 => some .rne | 1 => some .rtz | 2 => some .rup | 3 => some .rdn | 4 => some .sr | _ => none

/-- A magnitude rounded to a multiple of 2^q: the count, and whether it was inexact. `u` is the 24-bit draw of SR. -/
def roundMag (mag : Nat) (e q : Int) (neg : Bool) (mode : RMode) (u : Nat) : Nat × Bool :=
  if q ≤ e then (mag * 2 ^ (e - q).toNat, false)
  else
    let k := (q - e).toNat
    let n := mag / 2 ^ k
    let r := mag % 2 ^ k
    let up : Bool := match mode with
      | .rne => decide (2 ^ k < 2 * r) || (decide (2 * r = 2 ^ k) && n % 2 == 1)
      | .rtz => false
      | .rup => r != 0 && !neg
      | .rdn => r != 0 && neg
      | .sr => decide (u * 2 ^ k < r * 2 ^ 24)
    ((if up then n + 1 else n), r != 0)

/-- Canonical NaN of a format (R43); formats without NaN give +0. -/
def Fmt.nanCode : Fmt → Nat
  | .f32 => 0x7FC00000 | .f19 => 0x7FC00000 | .bf16 => 0x7FC0 | .f16 => 0x7E00 | .e4m3 => 0x7F | .e5m2 => 0x7F | _ => 0

/-- Whether a format has a NaN code. -/
def Fmt.hasNan : Fmt → Bool
  | .f32 | .f19 | .bf16 | .f16 | .e4m3 | .e5m2 => true
  | _ => false

/-- Largest finite magnitude of a format as a code without sign. -/
def FloatFmt.maxCode (f : FloatFmt) : Nat :=
  (if f.inf then 2 ^ (f.eb + f.mb) - 2 ^ f.mb - 1
   else if f.nan then 2 ^ (f.eb + f.mb) - 2
   else 2 ^ (f.eb + f.mb) - 1) * 2 ^ f.pad

/-- Infinity as a code without sign. -/
def FloatFmt.infCode (f : FloatFmt) : Nat := (2 ^ (f.eb + f.mb) - 2 ^ f.mb) * 2 ^ f.pad

/-- A code with its sign bit. -/
def FloatFmt.signed (f : FloatFmt) (neg : Bool) (c : Nat) : Nat :=
  if neg then c + 2 ^ (f.pad + f.mb + f.eb) else c

/-- A finite value rounded into a floating-point format, saturating for the E-formats (R41, R51): code and flags. -/
def FloatFmt.round (f : FloatFmt) (sat : Bool) (neg : Bool) (mag : Nat) (e : Int) (mode : RMode) (u : Nat) : Nat × Nat :=
  if mag = 0 then (f.signed neg 0, 0)
  else
    let ex := leadExp mag e
    let emin := 1 - f.bias
    let q := (if ex < emin then emin else ex) - f.mb
    let (n, inx) := roundMag mag e q neg mode u
    let (n, q) := if n = 2 ^ (f.mb + 1) then (2 ^ f.mb, q + 1) else (n, q)
    let free := roundMag mag e (ex - f.mb) neg mode u
    let tiny := decide (leadExp free.1 (ex - f.mb) < emin)
    let code := if n < 2 ^ f.mb then n else ((q + f.mb + f.bias).toNat * 2 ^ f.mb + (n - 2 ^ f.mb))
    let big := decide (f.maxCode < code * 2 ^ f.pad)
    if big then
      if sat then (f.signed neg f.maxCode, flags [flagIf inx NX, SAT])
      else
        let toInf : Bool := match mode with
          | .rne => true | .sr => true | .rtz => false | .rup => !neg | .rdn => neg
        (f.signed neg (if toInf then f.infCode else f.maxCode), flags [NX, OF])
    else (f.signed neg (code * 2 ^ f.pad), flags [flagIf inx NX, flagIf (inx && tiny) UF])

/-- Limits of an integer format (R42). -/
def Fmt.limits : Fmt → Int × Int
  | .n8 => (0, 255) | .n4 => (0, 15) | .t2 => (-1, 1) | .b1 => (0, 1)
  | f => (-(2 ^ (f.bits - 1)), 2 ^ (f.bits - 1) - 1)

/-- An integer as an `n`-bit code. -/
def intCode (n : Nat) (x : Int) : Nat := (x % (2 ^ n : Int)).toNat

/-- A finite value rounded to an integer and clamped: the integer and flags (R42). -/
def roundInt (lo hi : Int) (neg : Bool) (mag : Nat) (e : Int) (mode : RMode) (u : Nat) : Int × Nat :=
  let (n, inx) := roundMag mag e 0 neg mode u
  let x : Int := if neg then -(n : Int) else n
  if x < lo then (lo, flags [flagIf inx NX, SAT])
  else if hi < x then (hi, flags [flagIf inx NX, SAT])
  else (x, flagIf inx NX)

/-- A value converted into a format other than the D-formats: code and flags (R41-R43, R51). -/
def roundTo (f : Fmt) (x : FVal) (mode : RMode) (u : Nat := 0) : Nat × Nat :=
  match f.float with
  | some ff =>
    match x with
    | .nan sig =>
      if f.isE then (f.nanCode, NV) else (f.nanCode, flagIf sig NV)
    | .inf neg => if ff.inf then (ff.signed neg ff.infCode, 0) else (ff.signed neg ff.maxCode, SAT)
    | .fin neg mag e => ff.round f.isE neg mag e mode u
  | none =>
    let (lo, hi) := f.limits
    match x with
    | .nan _ => (0, NV)
    | .inf neg => (intCode f.bits (if neg then lo else hi), SAT)
    | .fin neg mag e =>
      let (i, fl) := roundInt lo hi neg mag e mode u
      (intCode f.bits i, fl)

/-! ### Arithmetic, exact then rounded once (03 R77, R78; 05 R125, R128) -/

/-- Exact sum; an exact zero of opposite signs is +0, of equal signs keeps the sign. Invalid: ∞ − ∞. -/
def fAdd (a b : FVal) : FVal × Nat :=
  match a, b with
  | .nan s, .nan t => (.nan false, flagIf (s || t) NV)
  | .nan s, y => (.nan false, flagIf (s || y.isSig) NV)
  | x, .nan t => (.nan false, flagIf (t || x.isSig) NV)
  | .inf m, .inf n => if m = n then (.inf m, 0) else (.nan false, NV)
  | .inf m, _ => (.inf m, 0)
  | _, .inf n => (.inf n, 0)
  | .fin m x e, .fin n y e' =>
    let q : Int := min e e'
    let s : Int := (if m then -1 else 1) * ((x : Int) * 2 ^ (e - q).toNat) + (if n then -1 else 1) * ((y : Int) * 2 ^ (e' - q).toNat)
    (ofInt s q (m && n), 0)

/-- Exact product. Invalid: 0 · ∞. -/
def fMul (a b : FVal) : FVal × Nat :=
  match a, b with
  | .nan s, y => (.nan false, flagIf (s || y.isSig) NV)
  | x, .nan t => (.nan false, flagIf (t || x.isSig) NV)
  | .inf m, y => if y.isZero then (.nan false, NV) else (.inf (m != y.isNeg), 0)
  | x, .inf n => if x.isZero then (.nan false, NV) else (.inf (n != x.isNeg), 0)
  | .fin m x e, .fin n y e' => (.fin (m != n) (x * y) (e + e'), 0)

/-- Exact d + a·b, one invalid case found before another is looked for. -/
def fFma (d a b : FVal) : FVal × Nat :=
  let (p, f1) := fMul a b
  let (r, f2) := fAdd d p
  (r, flags [f1, f2])

/-- Quotient to far more places than any format keeps, with a sticky last bit. Division of a finite nonzero value by
zero sets DZ; 0/0 and ∞/∞ are invalid. -/
def fDiv (a b : FVal) : FVal × Nat :=
  match a, b with
  | .nan s, y => (.nan false, flagIf (s || y.isSig) NV)
  | x, .nan t => (.nan false, flagIf (t || x.isSig) NV)
  | .inf _, .inf _ => (.nan false, NV)
  | .inf m, y => (.inf (m != y.isNeg), 0)
  | x, .inf n => (.fin (x.isNeg != n) 0 0, 0)
  | .fin m x e, .fin n y e' =>
    if y = 0 then (if x = 0 then (.nan false, NV) else (.inf (m != n), DZ))
    else if x = 0 then (.fin (m != n) 0 0, 0)
    else
      let k : Nat := 256
      let q := x * 2 ^ k / y
      let r := x * 2 ^ k % y
      (.fin (m != n) (2 * q + (if r = 0 then 0 else 1)) (e - e' - k - 1), 0)

/-- Integer square root, by bits from the top. -/
def isqrt (n : Nat) : Nat → Nat → Nat
  | 0, r => r
  | k + 1, r => let t := r + 2 ^ k; isqrt n k (if t * t ≤ n then t else r)

/-- Square root with a sticky last bit. Invalid below zero; √(−0) = −0. -/
def fSqrt (a : FVal) : FVal × Nat :=
  match a with
  | .nan s => (.nan false, flagIf s NV)
  | .inf false => (.inf false, 0)
  | .inf true => (.nan false, NV)
  | .fin neg m e =>
    if m = 0 then (.fin neg 0 0, 0)
    else if neg then (.nan false, NV)
    else
      let (m, e) := if e % 2 = 0 then (m, e) else (2 * m, e - 1)
      let n := m * 2 ^ 128
      let r := isqrt n ((Nat.log2 n) / 2 + 1) 0
      (.fin false (2 * r + (if r * r = n then 0 else 1)) (e / 2 - 64 - 1), 0)

/-- Order of two values that are not NaN: a < b. -/
def fLt (a b : FVal) : Bool :=
  match a, b with
  | .inf true, .inf true => false
  | .inf true, _ => true
  | _, .inf true => false
  | .inf false, _ => false
  | _, .inf false => true
  | x, y =>
    let (i, e) := x.int
    let (j, e') := y.int
    let q : Int := min e e'
    decide (i * 2 ^ (e - q).toNat < j * 2 ^ (e' - q).toNat)

/-- Equality of two values that are not NaN; the zeros are equal. -/
def fEq (a b : FVal) : Bool := !a.isNan && !b.isNan && !fLt a b && !fLt b a

/-- Lesser or greater; −0 is less than +0; one NaN gives the other operand, two the canonical NaN (R77). -/
def fMinMax (isMax : Bool) (a b : FVal) : FVal × Nat :=
  let fl := flagIf (a.isSig || b.isSig) NV
  if a.isNan ∧ b.isNan then (.nan false, fl)
  else if a.isNan then (b, fl)
  else if b.isNan then (a, fl)
  else
    let aLess := fLt a b || (fEq a b && a.isNeg && !b.isNeg)
    (if aLess != isMax then a else b, fl)

/-- A value rounded into a floating format after an operation, with the operation's flags. -/
def finish (f : Fmt) (r : FVal × Nat) (mode : RMode := .rne) (u : Nat := 0) : Nat × Nat :=
  let (c, fl) := roundTo f r.1 mode u
  (c, flags [r.2, fl])

/-! ### Transcendentals, to far more places than F32 keeps (05 R130) -/

/-- Places of the fixed-point work. -/
def fixP : Nat := 400

/-- ln 2 in units of 2^-fixP: the sum of 1 / (k 2^k). -/
def ln2Fix : Nat → Nat
  | 0 => 0
  | k + 1 => ln2Fix k + 2 ^ fixP / ((k + 1) * 2 ^ (k + 1))

/-- The Taylor sum of e^y, `y` in units of 2^-fixP, from term `k` on. -/
def expFix (y : Nat) : Nat → Nat → Nat → Nat
  | 0, _, _ => 0
  | n + 1, k, term => term + expFix y n (k + 1) (term * y / 2 ^ fixP / (k + 1))

/-- 2^x, sticky. An integer x is exact; a result beyond any format's range is given a stand-in of the same effect. -/
def fExp2 (a : FVal) : FVal × Nat :=
  match a with
  | .nan s => (.nan false, flagIf s NV)
  | .inf true => (.zero, 0)
  | .inf false => (.inf false, 0)
  | .fin neg m e =>
    if m = 0 then (.fin false 1 0, 0)
    else if 12 ≤ leadExp m e then (if neg then (.fin false 3 (-2000), 0) else (.fin false 3 2000, 0))
    else
      let x : Int := (if neg then -1 else 1) * (m : Int)
      if 0 ≤ e then (.fin false 1 (x * 2 ^ e.toNat), 0)
      else
        let k := (-e).toNat
        let i := x / 2 ^ k
        let f := (x % 2 ^ k).toNat
        if f = 0 then (.fin false 1 i, 0)
        else
          let y := f * ln2Fix 420 / 2 ^ k
          let r := expFix y 120 0 (2 ^ fixP)
          (.fin false (2 * r + 1) (i - fixP - 1), 0)

/-- Binary digits of log2 of m / 2^fixP, 1 ≤ m / 2^fixP < 2. -/
def logBits : Nat → Nat → Nat → Nat
  | 0, _, acc => acc
  | n + 1, m, acc =>
    let y := m * m / 2 ^ fixP
    if 2 ^ (fixP + 1) ≤ y then logBits n (y / 2) (2 * acc + 1) else logBits n y (2 * acc)

/-- log2, sticky. −∞ with DZ at zero, invalid below zero. -/
def fLog2 (a : FVal) : FVal × Nat :=
  match a with
  | .nan s => (.nan false, flagIf s NV)
  | .inf true => (.nan false, NV)
  | .inf false => (.inf false, 0)
  | .fin neg m e =>
    if m = 0 then (.inf true, DZ)
    else if neg then (.nan false, NV)
    else
      let l := Nat.log2 m
      let i := (l : Int) + e
      if m = 2 ^ l then (ofInt i 0 false, 0)
      else
        let b := logBits 180 (m * 2 ^ fixP / 2 ^ l) 0
        (ofInt (2 * (i * 2 ^ 180 + b) + 1) (-181) false, 0)

/-! ### The generator (R62-R64) -/

/-- Lane `i` of a generator state. -/
def genLane (st : Quad) (i : Nat) : Word :=
  let key : Dbl := st.setWidth 64
  let ctr : Dbl := (st >>> 64).setWidth 64
  let round := fun (z : Dbl) =>
    let z := (z ^^^ (z >>> 30)) * 0xBF58476D1CE4E5B9
    let z := (z ^^^ (z >>> 27)) * 0x94D049BB133111EB
    z ^^^ (z >>> 31)
  let z := (ctr + BitVec.ofNat 64 i) * 0x9E3779B97F4A7C15 + key
  ((round (round (round z))) >>> 32).setWidth 32

/-- The 24-bit draw of a lane (R52). -/
def genDraw (st : Quad) (i : Nat) : Nat := (genLane st i).toNat / 256

/-- The state with its counter advanced by `k` (R63). -/
def genAdvance (st : Quad) (k : Nat) : Quad :=
  let ctr : Dbl := (st >>> 64).setWidth 64
  (st.setWidth 64).setWidth 128 ||| ((ctr + BitVec.ofNat 64 k).setWidth 128 <<< 64)

/-! ### Block float (R46-R50) -/

/-- A block header: S, and eA, eB of the eight sub-blocks; the version byte (R46). -/
structure DHdr where
  s : Nat
  ea : List Nat
  eb : List Nat
  ver : Nat
  deriving DecidableEq, Repr

/-- The 16 bytes of a header. -/
def DHdr.bytes (h : DHdr) : List Byte :=
  BitVec.ofNat 8 h.s :: ((List.range 8).map (fun k => BitVec.ofNat 8 ((h.ea[k]?).getD 0 + 16 * (h.eb[k]?).getD 0)) ++
    (BitVec.ofNat 8 h.ver :: List.replicate 6 0))

/-- A header read from its 16 bytes. -/
def DHdr.ofBytes (b : List Byte) : DHdr :=
  let at' := fun i => ((b[i]?).getD 0).toNat
  { s := at' 0, ea := (List.range 8).map (fun k => at' (k + 1) % 16), eb := (List.range 8).map (fun k => at' (k + 1) / 16)
    ver := at' 9 }

/-- The exponent an element of sub-block `k` uses (R47). -/
def DHdr.exp (h : DHdr) (k : Nat) (sel : Bool) : Int :=
  (h.s : Int) - 127 - ((if sel then h.eb[k]? else h.ea[k]?).getD 0 : Nat)

/-- Value of a D-format code of `n` magnitude bits in sub-block `k` (R47). -/
def dValue (h : DHdr) (k n c : Nat) : FVal :=
  if h.s = 255 then .nan false
  else .fin (fld c n 1 == 1) (fld c 0 n) (h.exp k (fld c (n + 1) 1 == 1) - ((n : Int) - 1))

/-- floor(log2 |x|) of the nonzero finite values of a list, at its largest. -/
def maxExp (xs : List FVal) : Option Int :=
  xs.foldl (fun r x => match x with
    | .fin _ m e => if m = 0 then r else
      let l := leadExp m e
      match r with | none => some l | some y => some (if y < l then l else y)
    | _ => r) none

/-- An offset clamped to 0-15 (R48). -/
def clampOff (x : Int) : Nat := if x < 0 then 0 else if 15 < x then 15 else x.toNat

/-- Whether |x| ≥ 2^q. -/
def atLeast (x : FVal) (q : Int) : Bool :=
  match x with | .fin _ m e => m != 0 && decide (q ≤ leadExp m e) | _ => true

/-- One element encoded with exponent `ex` (R48 step 6, 05 R140): code, flags. -/
def dElem (n : Nat) (x : FVal) (sel : Bool) (ex : Int) (mode : RMode) (u : Nat) : Nat × Nat :=
  match x with
  | .fin neg m e =>
    let (r, inx) := roundMag m e (ex - n + 1) neg mode u
    let carry := decide (2 ^ n ≤ r)
    let big := m != 0 && decide (ex + 1 ≤ leadExp m e)
    ((if carry then 2 ^ n - 1 else r) + (if neg then 2 ^ n else 0) + (if sel then 2 ^ (n + 1) else 0),
      flags [flagIf (inx || (carry && !big)) NX, flagIf big SAT])
  | _ => (0, 0)

/-- A sub-block encoded under S (R48 steps 3-6): eA, eB, codes and flags; `us` gives each element's draw. -/
def dSub (s n : Nat) (xs : List (FVal × Nat)) (mode : RMode) : Nat × Nat × List Nat × Nat :=
  let top := (s : Int) - 127
  let ea : Nat := match maxExp (xs.map (·.1)) with | none => 15 | some m => clampOff (top - m)
  let exA : Int := top - Int.ofNat ea
  let high := fun (x : FVal) => x.isZero || atLeast x (exA - 3)
  let eb : Nat := match maxExp ((xs.map (·.1)).filter (fun x => !high x)) with | none => 15 | some m => clampOff (top - m)
  let exB : Int := top - Int.ofNat eb
  let cs := xs.map (fun p => if high p.1 then dElem n p.1 false exA mode p.2 else dElem n p.1 true exB mode p.2)
  (ea, eb, cs.map (·.1), flags (cs.map (·.2)))

/-- A list in pieces of `n`. -/
def chunks {α : Type} (n : Nat) : Nat → List α → List (List α)
  | 0, _ => []
  | k + 1, l => l.take n :: chunks n k (l.drop n)

/-- Block scale of some values (R48 step 2). -/
def dScale (xs : List FVal) : Nat :=
  match maxExp xs with
  | none => 0
  | some m => let x := m + 127; if x < 0 then 0 else if 254 < x then 254 else x.toNat

/-- A NaN block: S = 255 and every other field 0. -/
def dNanHdr (ver : Nat) : DHdr := { s := 255, ea := List.replicate 8 0, eb := List.replicate 8 0, ver := ver }

/-- A block of 256 values encoded into a D-format of `n` magnitude bits: header, codes, flags (R48). -/
def dEncode (n : Nat) (xs : List (FVal × Nat)) (mode : RMode) : DHdr × List Nat × Nat :=
  if xs.any (fun p => p.1.isNan || p.1.isInf) then (dNanHdr 0, List.replicate 256 0, NV)
  else
    let s := dScale (xs.map (·.1))
    let subs := (chunks 32 8 xs).map (fun x => dSub s n x mode)
    ({ s := s, ea := subs.map (·.1), eb := subs.map (·.2.1), ver := 0 }, subs.flatMap (·.2.2.1), flags (subs.map (·.2.2.2)))

/-- A D24 code read at `p` planes in TR or RN mode: code, PLSAT (R49, R50). -/
def dPlanes (p : Nat) (rn : Bool) (c : Nat) : Nat × Bool :=
  let drop := match p with | 1 => 20 | 2 => 16 | 3 => 8 | _ => 0
  let code := c / 2 ^ drop
  let n := 22 - drop
  if !rn ∨ 4 ≤ p then (code, false)
  else
    let nb := if p = 1 then 4 else 8
    let h := fld c (drop - nb) nb
    let half := 2 ^ (nb - 1)
    let m := code % 2 ^ n
    let up := decide (half < h) || (decide (h = half) && m % 2 == 1)
    if up then (if m + 1 = 2 ^ n then (code, true) else (code + 1, false)) else (code, false)

/-! ### Block sums (R59, R60) and the exact accumulator (R58) -/

/-- The NaN marker of accumulators and block sums (R54). -/
def marker : Dbl := 0x8000000000000000

/-- floor(x / 2^q) of a finite value. -/
def floorAt (x : FVal) (q : Int) : Int :=
  let (i, e) := x.int
  if q ≤ e then i * 2 ^ (e - q).toNat else i / 2 ^ (q - e).toNat

/-- A clamp to ±(2^63 − 1), and whether it acted (R55, R60). -/
def clamp63 (x : Int) : Int × Bool :=
  if x < -(2 ^ 63 - 1) then (-(2 ^ 63 - 1), true) else if 2 ^ 63 - 1 < x then (2 ^ 63 - 1, true) else (x, false)

/-- `vbsum` of some lanes: the pair as 80 bits (R59). -/
def blockSum (xs : List FVal) : Quad :=
  if xs.any (fun x => x.isNan || x.isInf) then marker.setWidth 128
  else match maxExp xs with
    | none => BitVec.ofNat 128 (2 ^ 64 * 0x8000)
    | some m =>
      let e := m - 52
      let s := (xs.map (fun x => floorAt x e)).foldl (· + ·) 0
      BitVec.ofNat 128 (intCode 64 s + 2 ^ 64 * intCode 16 e)

/-- `bsadd` of a pair into a running pair: result and SAT (R60). -/
def blockAdd (run p : Quad) : Quad × Nat :=
  let a : Dbl := run.setWidth 64
  let s : Dbl := p.setWidth 64
  let x := sint 16 (fld run.toNat 64 16)
  let e := sint 16 (fld p.toNat 64 16)
  if a = marker ∨ s = marker then (marker.setWidth 128 ||| BitVec.ofNat 128 (2 ^ 64 * intCode 16 x), 0)
  else
    let (av, x) := if x < e then (a.toInt / 2 ^ (e - x).toNat, e) else (a.toInt, x)
    let (r, c) := clamp63 (av + s.toInt / 2 ^ (x - e).toNat)
    (BitVec.ofNat 128 (intCode 64 r + 2 ^ 64 * intCode 16 x), flagIf c SAT)

/-- A value added into an exact accumulator (R58). -/
def XAcc.add (a : XAcc) (v : FVal) : XAcc :=
  match v with
  | .nan _ => { a with nan := true }
  | .inf false => { a with pinf := true }
  | .inf true => { a with ninf := true }
  | .fin neg m e =>
    let k : Int := (m * 2 ^ (e + 149).toNat : Nat)
    let s := a.sum.toInt + (if neg then -k else k)
    if 2 ^ 319 - 1 < s then { a with sum := BitVec.ofInt 320 (2 ^ 319 - 1), pinf := true }
    else if s < -(2 ^ 319) then { a with sum := BitVec.ofInt 320 (-(2 ^ 319)), ninf := true }
    else { a with sum := BitVec.ofInt 320 s }

/-- An exact accumulator read in F32 (R58). -/
def XAcc.read (a : XAcc) : Nat × Nat :=
  if a.nan ∨ (a.pinf ∧ a.ninf) then (Fmt.f32.nanCode, 0)
  else if a.pinf then (0x7F800000, 0)
  else if a.ninf then (0xFF800000, 0)
  else roundTo .f32 (ofInt a.sum.toInt (-149) false) .rne

end Sys2Proof.Machine
end

