-- ==== Sys2Proof/Machine/Float.lean ====
section
/-! DEFINITION. Scalar floating point (03_scalar_and_control.md R77-R81). -/

namespace Sys2Proof.Machine

/-- The F32 value of bits 31:0 of a c operand (R14, R77). -/
def f32Of (x : Dbl) : FVal := (Fmt.f32.decode (x.toNat % 2 ^ 32)).1

/-- A code written with its flags (R14, R53, R81). -/
def State.putF (s : State) (d : Fin 64) (r : Nat × Nat) : Except Stop State :=
  (s.raise r.2).putX d (BitVec.ofNat 64 r.1)

/-- An F32 result of two operands, rounded by RNE. -/
def float2 (g : Fin 8) (d a b : Fin 64) (f : FVal → FVal → FVal × Nat) (s : State) : Out := issue g 4 s fun s => do
  let (x, s) ← s.useX a
  let (y, s) ← s.useX b
  s.putF d (finish .f32 (f (f32Of x) (f32Of y)))

/-- `d ± a·b`, rounded once (R78). -/
def floatFma (neg : Bool) (g : Fin 8) (d a b : Fin 64) (s : State) : Out := issue g 4 s fun s => do
  let (x, s) ← s.useX a
  let (y, s) ← s.useX b
  let (z, s) ← s.useX d
  let p := if neg then (f32Of x).negate else f32Of x
  s.putF d (finish .f32 (fFma (f32Of z) p (f32Of y)))

/-- A conversion of one operand (R80). -/
def convert (g : Fin 8) (d a : Fin 64) (f : Dbl → Nat × Nat) (s : State) : Out := issue g 4 s fun s => do
  let (x, s) ← s.useX a
  s.putF d (f x)

/-- A value clamped into a 64-bit integer (R42, R80). -/
def toInt64 (lo hi : Int) (x : FVal) : Nat × Nat :=
  match x with
  | .nan _ => (0, NV)
  | .inf neg => (intCode 64 (if neg then lo else hi), SAT)
  | .fin neg m e => let r := roundInt lo hi neg m e .rne 0; (intCode 64 r.1, r.2)

/-- Condition of `fcmp` and the vector compare, and its flag (R79). -/
def fcond (cc : Nat) (x y : FVal) : Bool × Nat :=
  let un := x.isNan || y.isNan
  let sig := flagIf (x.isSig || y.isSig) NV
  match cc with
  | 0 => (fEq x y, sig)
  | 1 => (!fEq x y, sig)
  | 2 => (!un && fLt x y, flagIf un NV)
  | 3 => (!un && !fLt y x, flagIf un NV)
  | 4 => (un, sig)
  | _ => (!un, sig)

/-- `fadd` (R77). -/
def execFadd (g : Fin 8) (d a b : Fin 64) (s : State) : Out := float2 g d a b fAdd s

/-- `fsub` (R77). -/
def execFsub (g : Fin 8) (d a b : Fin 64) (s : State) : Out := float2 g d a b (fun x y => fAdd x y.negate) s

/-- `fmul` (R77). -/
def execFmul (g : Fin 8) (d a b : Fin 64) (s : State) : Out := float2 g d a b fMul s

/-- `fdiv` (R77). -/
def execFdiv (g : Fin 8) (d a b : Fin 64) (s : State) : Out := float2 g d a b fDiv s

/-- `fmin` (R77). -/
def execFmin (g : Fin 8) (d a b : Fin 64) (s : State) : Out := float2 g d a b (fMinMax false) s

/-- `fmax` (R77). -/
def execFmax (g : Fin 8) (d a b : Fin 64) (s : State) : Out := float2 g d a b (fMinMax true) s

/-- `fsqrt` (R77). -/
def execFsqrt (g : Fin 8) (d a : Fin 64) (s : State) : Out := convert g d a (fun x => finish .f32 (fSqrt (f32Of x))) s

/-- `ffma` (R78). -/
def execFfma (g : Fin 8) (d a b : Fin 64) (s : State) : Out := floatFma false g d a b s

/-- `ffma.n` (R78). -/
def execFfmaN (g : Fin 8) (d a b : Fin 64) (s : State) : Out := floatFma true g d a b s

/-- `fcmp` (R79). -/
def execFcmp (g c h : Fin 8) (a b : Fin 64) (s : State) : Out := issue g 4 s fun s => do
  let (x, s) ← s.useX a
  let (y, s) ← s.useX b
  let r := fcond c.val (f32Of x) (f32Of y)
  pure ((s.raise r.2).putG h r.1)

/-- `fcvt.f32.i64` (R80). -/
def execFcvtF32I64 (g : Fin 8) (d a : Fin 64) (s : State) : Out := convert g d a (fun x => roundTo .f32 (ofInt x.toInt 0 false) .rne) s

/-- `fcvt.f32.u64` (R80). -/
def execFcvtF32U64 (g : Fin 8) (d a : Fin 64) (s : State) : Out := convert g d a (fun x => roundTo .f32 (ofInt x.toNat 0 false) .rne) s

/-- `fcvt.i64.f32` (R80). -/
def execFcvtI64F32 (g : Fin 8) (d a : Fin 64) (s : State) : Out := convert g d a (fun x => toInt64 (-(2 ^ 63)) (2 ^ 63 - 1) (f32Of x)) s

/-- `fcvt.u64.f32` (R80). -/
def execFcvtU64F32 (g : Fin 8) (d a : Fin 64) (s : State) : Out := convert g d a (fun x => toInt64 0 (2 ^ 64 - 1) (f32Of x)) s

/-- `fcvt.bf16.f32` (R80). -/
def execFcvtBf16F32 (g : Fin 8) (d a : Fin 64) (s : State) : Out := convert g d a (fun x => roundTo .bf16 (f32Of x) .rne) s

/-- `fcvt.f16.f32` (R80). -/
def execFcvtF16F32 (g : Fin 8) (d a : Fin 64) (s : State) : Out := convert g d a (fun x => roundTo .f16 (f32Of x) .rne) s

/-- `fcvt.f32.bf16` (R80). -/
def execFcvtF32Bf16 (g : Fin 8) (d a : Fin 64) (s : State) : Out := convert g d a (fun x => roundTo .f32 (Fmt.bf16.decode (x.toNat % 2 ^ 16)).1 .rne) s

/-- `fcvt.f32.f16` (R80). -/
def execFcvtF32F16 (g : Fin 8) (d a : Fin 64) (s : State) : Out := convert g d a (fun x => roundTo .f32 (Fmt.f16.decode (x.toNat % 2 ^ 16)).1 .rne) s

end Sys2Proof.Machine
end

