-- ==== Sys2Proof/Machine/MemoryAccess.lean ====
section
/-! DEFINITION. Loads and stores of scalar, queue, burst and vector data (04_memory_and_sync.md R100-R112). -/

namespace Sys2Proof.Machine

/-! ### Addresses (R100) -/

/-- A scaled 6-bit offset. -/
def off6 (o size : Nat) : Dbl := BitVec.ofInt 64 (sint 6 o * size)

/-- Lane `i` of a v register in 32-bit lanes (01 R13). -/
def lane32 (v : VReg) (i : Nat) : Word := (v >>> (32 * i)).setWidth 32

/-- A v register from 32-bit lanes. -/
def ofLanes32 (f : Nat → Word) : VReg := BitVec.ofNat 1024 (ofBytes ((List.range 32).flatMap (fun i => toBytes 4 (f i).toNat)))

/-- Lanes of a 32-lane access that a mask leaves on. -/
def onLanes (m : Quad) : List Nat := (List.range 32).filter (fun i => m.getLsbD i)

/-- A nonzero LA needs an ordinary destination (01 R27). -/
def laOk (l : Nat) (fixedDst : Bool) : Except Stop Unit := need (l == 0 || !fixedDst) .ill

/-- Whether a c register is fixed or a port. -/
def fixedC (d : Fin 64) : Bool := d == 0 || decide (60 ≤ d.val)

/-- Checks of R101 over every unmasked lane, each check over all lanes before the next; with no such lane nothing is
accessed and nothing checked (log entry 33). -/
def State.checkLanes (s : State) (c : CVal) (p : Perm) (vas : List Dbl) : Except Stop Unit :=
  if vas.isEmpty then .ok ()
  else if !c.tag then .error (.trap .capt (some c.addr))
  else if !c.has p then .error (.trap .capp (some c.addr))
  else match vas.find? (fun a => decide (a.toNat % 4 ≠ 0)) with
    | some a => .error (.trap .align (some a))
    | none => match vas.find? (fun a => !c.inBounds a.toNat 4) with
      | some a => .error (.trap .capb (some a))
      | none => match vas.find? (fun a => !c.has .local && offDieAt s.cur.1 a) with
        | some a => .error (.trap .xdie (some a))
        | none => .ok ()

/-! ### Scalar loads and stores (R107) -/

/-- A load performed in its own step, after the strand's earlier ones (log entry 36). -/
def State.loadNow (s : State) (c : CVal) (va : Dbl) (n : Nat) : Except Stop (List RByte × State) :=
  if s.me.loadsPending then .error .stall else s.load s.cur.1 s.cur.2 s.nextId (c.has .local) va n

/-- What a load with LA = 0 has given: its value, or a pending-write record of no slots whose access has failed, so that the
upcall is taken at the point of R30, before the next instruction (R105). -/
def orFailed (dst : WinDst) (acc : Access) (r : Except Stop (List RByte × State)) (land : List RByte → State → Except Stop State) :
    Except Stop State :=
  match r with
  | .ok (bs, s) => land bs s
  | .error (.upcall f s) => .ok (s.openWin dst 0 acc (.failed f)).2
  | .error e => .error e

/-- A load of `n` bytes into a c register in a window of `l` slots: checked at issue, its access then under way; with
LA = 0, as for every port, it is performed in its own step. -/
def scalarLoad (g : Fin 8) (len : Nat) (d b : Fin 64) (l : Nat) (off : Dbl) (n : Nat) (kind : AccKind) (s : State) : Out :=
  issue g len s fun s => do
    let (c, s) ← s.useC b
    laOk l (fixedC d)
    let va := c.addr + off
    s.checkAccess c [.ld] va n n
    s.portReady d
    let acc : Access := { kind := kind, cap := c, va := va, n := n }
    if l = 0 then
      return ← orFailed (.c d) acc (s.loadNow c va n) fun bs s =>
        let tag := kind == .loadCap && c.has .ldcap && ((bs[0]?).map (·.2)).getD false
        (s.setMe (s.me.dropWin (.c d))).landC d { val := BitVec.ofNat 128 (ofBytes (bs.map (·.1))), tag := tag }
    let w := s.openWin (.c d) l acc .pending
    pure (w.2.post 100 (.loadResponse s.cur.1 s.cur.2 w.1))

/-- A store of the low `n` bytes of a c register. -/
def scalarStore (g : Fin 8) (len : Nat) (src b : Fin 64) (off : Dbl) (n : Nat) (s : State) : Out :=
  issue g len s fun s => do
    let (c, s) ← s.useC b
    let (x, s) ← s.useStoreC src
    let va := c.addr + off
    s.checkAccess c [.st] va n n
    s.store s.cur.1 s.cur.2 c va [(va, toBytes n x.val.toNat)] []

/-- A store of a c register with its tag. -/
def capStore (g : Fin 8) (len : Nat) (src b : Fin 64) (off : Dbl) (s : State) : Out :=
  issue g len s fun s => do
    let (c, s) ← s.useC b
    let (x, s) ← s.useStoreC src
    let va := c.addr + off
    s.checkAccess c (if x.tag then [.st, .stcap] else [.st]) va 16 16
    s.store s.cur.1 s.cur.2 c va [(va, toBytes 16 x.val.toNat)] (if x.tag then [va] else [])

/-- `ld.b` (R107). -/
def execLdB (g : Fin 8) (d b : Fin 64) (l : Fin 16) (o : Fin 64) (s : State) : Out :=
  scalarLoad g 4 d b l.val (off6 o.val 1) 1 .load s

/-- `ld.b` with a literal offset (R100, R107). -/
def execLdBLiteral (g : Fin 8) (d b : Fin 64) (l : Fin 16) (lit : Word) (s : State) : Out :=
  scalarLoad g 8 d b l.val (imm64 lit) 1 .load s

/-- `ld.h` (R107). -/
def execLdH (g : Fin 8) (d b : Fin 64) (l : Fin 16) (o : Fin 64) (s : State) : Out :=
  scalarLoad g 4 d b l.val (off6 o.val 2) 2 .load s

/-- `ld.h` with a literal offset (R100, R107). -/
def execLdHLiteral (g : Fin 8) (d b : Fin 64) (l : Fin 16) (lit : Word) (s : State) : Out :=
  scalarLoad g 8 d b l.val (imm64 lit) 2 .load s

/-- `ld.w` (R107). -/
def execLdW (g : Fin 8) (d b : Fin 64) (l : Fin 16) (o : Fin 64) (s : State) : Out :=
  scalarLoad g 4 d b l.val (off6 o.val 4) 4 .load s

/-- `ld.w` with a literal offset (R100, R107). -/
def execLdWLiteral (g : Fin 8) (d b : Fin 64) (l : Fin 16) (lit : Word) (s : State) : Out :=
  scalarLoad g 8 d b l.val (imm64 lit) 4 .load s

/-- `ld.d` (R107). -/
def execLdD (g : Fin 8) (d b : Fin 64) (l : Fin 16) (o : Fin 64) (s : State) : Out :=
  scalarLoad g 4 d b l.val (off6 o.val 8) 8 .load s

/-- `ld.d` with a literal offset (R100, R107). -/
def execLdDLiteral (g : Fin 8) (d b : Fin 64) (l : Fin 16) (lit : Word) (s : State) : Out :=
  scalarLoad g 8 d b l.val (imm64 lit) 8 .load s

/-- `ld.q` (R107). -/
def execLdQ (g : Fin 8) (d b : Fin 64) (l : Fin 16) (o : Fin 64) (s : State) : Out :=
  scalarLoad g 4 d b l.val (off6 o.val 16) 16 .load s

/-- `ld.q` with a literal offset (R100, R107). -/
def execLdQLiteral (g : Fin 8) (d b : Fin 64) (l : Fin 16) (lit : Word) (s : State) : Out :=
  scalarLoad g 8 d b l.val (imm64 lit) 16 .load s

/-- `st.b` (R107). -/
def execStB (g : Fin 8) (r b o : Fin 64) (s : State) : Out := scalarStore g 4 r b (off6 o.val 1) 1 s

/-- `st.b` with a literal offset (R100, R107). -/
def execStBLiteral (g : Fin 8) (r b : Fin 64) (lit : Word) (s : State) : Out := scalarStore g 8 r b (imm64 lit) 1 s

/-- `st.h` (R107). -/
def execStH (g : Fin 8) (r b o : Fin 64) (s : State) : Out := scalarStore g 4 r b (off6 o.val 2) 2 s

/-- `st.h` with a literal offset (R100, R107). -/
def execStHLiteral (g : Fin 8) (r b : Fin 64) (lit : Word) (s : State) : Out := scalarStore g 8 r b (imm64 lit) 2 s

/-- `st.w` (R107). -/
def execStW (g : Fin 8) (r b o : Fin 64) (s : State) : Out := scalarStore g 4 r b (off6 o.val 4) 4 s

/-- `st.w` with a literal offset (R100, R107). -/
def execStWLiteral (g : Fin 8) (r b : Fin 64) (lit : Word) (s : State) : Out := scalarStore g 8 r b (imm64 lit) 4 s

/-- `st.d` (R107). -/
def execStD (g : Fin 8) (r b o : Fin 64) (s : State) : Out := scalarStore g 4 r b (off6 o.val 8) 8 s

/-- `st.d` with a literal offset (R100, R107). -/
def execStDLiteral (g : Fin 8) (r b : Fin 64) (lit : Word) (s : State) : Out := scalarStore g 8 r b (imm64 lit) 8 s

/-- `st.q` (R107). -/
def execStQ (g : Fin 8) (r b o : Fin 64) (s : State) : Out := scalarStore g 4 r b (off6 o.val 16) 16 s

/-- `st.q` with a literal offset (R100, R107). -/
def execStQLiteral (g : Fin 8) (r b : Fin 64) (lit : Word) (s : State) : Out := scalarStore g 8 r b (imm64 lit) 16 s

/-- `ldc` (R107). -/
def execLdc (g : Fin 8) (d b : Fin 64) (l : Fin 16) (o : Fin 64) (s : State) : Out :=
  scalarLoad g 4 d b l.val (off6 o.val 16) 16 .loadCap s

/-- `ldc` with a literal offset (R100, R107). -/
def execLdcLiteral (g : Fin 8) (d b : Fin 64) (l : Fin 16) (lit : Word) (s : State) : Out :=
  scalarLoad g 8 d b l.val (imm64 lit) 16 .loadCap s

/-- `stc` (R107). -/
def execStc (g : Fin 8) (r b o : Fin 64) (s : State) : Out := capStore g 4 r b (off6 o.val 16) s

/-- `stc` with a literal offset (R100, R107). -/
def execStcLiteral (g : Fin 8) (r b : Fin 64) (lit : Word) (s : State) : Out := capStore g 8 r b (imm64 lit) s

/-! ### Queue transfers (R108) -/

/-- Bytes in quads. -/
def quadsOf (bs : List RByte) (n : Nat) : List CVal :=
  (List.range n).map (fun i =>
    { val := BitVec.ofNat 128 (ofBytes (((bs.drop (16 * i)).take 16).map (·.1))), tag := ((bs[16 * i]?).map (·.2)).getD false })

/-- `ldq` of `n` quads: room is made sure of at issue, and the quads are pushed in address order. -/
def queueLoad (g : Fin 8) (len n : Nat) (b : Fin 64) (off : Dbl) (s : State) : Out :=
  issue g len s fun s => do
    let (c, s) ← s.useC b
    let va := c.addr + off
    s.checkAccess c [.ld] va (16 * n) 16
    if 32 < s.me.ldq.length + n then throw .stall
    let (bs, s) ← s.loadNow c va (16 * n)
    pure (s.updMe (fun x => { x with ldq := x.ldq ++ (quadsOf bs n).map (·.val) }))

/-- `stq` of `n` quads, popped in order. -/
def queueStore (g : Fin 8) (len n : Nat) (b : Fin 64) (off : Dbl) (s : State) : Out :=
  issue g len s fun s => do
    let (c, s) ← s.useC b
    let va := c.addr + off
    need (decide (n ≤ s.me.stq.length)) .qempty
    s.checkAccess c [.st] va (16 * n) 16
    let qs := s.me.stq.take n
    let s := s.updMe (fun x => { x with stq := x.stq.drop n })
    s.store s.cur.1 s.cur.2 c va [(va, qs.flatMap (fun q => toBytes 16 q.toNat))] []

/-- `ldq` (R108). -/
def execLdq (g : Fin 8) (n : Fin 32) (b o : Fin 64) (s : State) : Out := queueLoad g 4 (n.val + 1) b (off6 o.val 16) s

/-- `ldq` with a literal offset (R100, R108). -/
def execLdqLiteral (g : Fin 8) (n : Fin 32) (b : Fin 64) (lit : Word) (s : State) : Out :=
  queueLoad g 8 (n.val + 1) b (imm64 lit) s

/-- `stq` (R108). -/
def execStq (g : Fin 8) (n : Fin 32) (b o : Fin 64) (s : State) : Out := queueStore g 4 (n.val + 1) b (off6 o.val 16) s

/-- `stq` with a literal offset (R100, R108). -/
def execStqLiteral (g : Fin 8) (n : Fin 32) (b : Fin 64) (lit : Word) (s : State) : Out :=
  queueStore g 8 (n.val + 1) b (imm64 lit) s

/-! ### Register bursts (R109, R110) -/

/-- Registers from `d` up written with some quads; tags kept only under LDCAP. -/
def State.burst (s : State) (d : Nat) (keep : Bool) : List CVal → Except Stop State
  | [] => .ok s
  | q :: qs => do
    let s ← s.putC (Fin.ofNat 64 d) { q with tag := q.tag && keep }
    s.burst (d + 1) keep qs

/-- `ldm` (R109, R110). -/
def execLdm (g : Fin 8) (d a n : Fin 64) (s : State) : Out := issue g 4 s fun s => do
  let (c, s) ← s.useC a
  let k := n.val + 1
  s.checkAccess c [.ld] c.addr (16 * k) 16
  let (bs, s) ← s.loadNow c c.addr (16 * k)
  s.burst d.val (c.has .ldcap) (quadsOf bs k)

/-- `stm`, one posted access (R109, R110). -/
def execStm (g : Fin 8) (d a n : Fin 64) (s : State) : Out := issue g 4 s fun s => do
  let (c, s) ← s.useC a
  let k := n.val + 1
  let rs := (List.range k).map (fun i => s.me.creg (Fin.ofNat 64 (d.val + i)))
  s.checkAccess c (if rs.any (·.tag) then [.st, .stcap] else [.st]) c.addr (16 * k) 16
  let tagged := (rs.zipIdx.filter (fun p => p.1.tag)).map (fun p => c.addr + BitVec.ofNat 64 (16 * p.2))
  s.store s.cur.1 s.cur.2 c c.addr [(c.addr, rs.flatMap (fun r => toBytes 16 r.val.toNat))] tagged

/-! ### Vector accesses (R111, R112) -/

/-- `vld`, its access under way in a window of `l` slots, or performed in its own step. -/
def vectorLoad (g : Fin 8) (len : Nat) (d : Fin 32) (b : Fin 64) (l : Nat) (off : Dbl) (s : State) : Out :=
  issue g len s fun s => do
    let (c, s) ← s.useC b
    laOk l (decide (30 ≤ d.val))
    let va := c.addr + off
    s.checkAccess c [.ld] va 128 4
    let acc : Access := { kind := .vector, cap := c, va := va, n := 128 }
    if l = 0 then
      return ← orFailed (.v d) acc (s.loadNow c va 128) fun bs s =>
        (s.setMe (s.me.dropWin (.v d))).landV d (BitVec.ofNat 1024 (ofBytes (bs.map (·.1))))
    let w := s.openWin (.v d) l acc .pending
    pure (w.2.post 100 (.loadResponse s.cur.1 s.cur.2 w.1))

/-- Unmasked lanes of a v register stored at their addresses, in lane order. -/
def State.storeLanes (s : State) (c : CVal) (v : VReg) (lanes : List (Nat × Dbl)) : Except Stop State :=
  if lanes.isEmpty then .ok s
  else s.store s.cur.1 s.cur.2 c c.addr (lanes.map (fun p => (p.2, toBytes 4 (lane32 v p.1).toNat))) []

/-- `vst` under a mask. -/
def vectorStore (g : Fin 8) (len : Nat) (r : Fin 32) (b : Fin 64) (m : Fin 8) (off : Dbl) (s : State) : Out :=
  issue g len s fun s => do
    let (c, s) ← s.useC b
    let (v, s) ← s.useStoreV r
    let va := c.addr + off
    let lanes := (onLanes (s.me.mask m)).map (fun i => (i, va + BitVec.ofNat 64 (4 * i)))
    s.checkLanes c .st (lanes.map (·.2))
    s.storeLanes c v lanes

/-- `vld` (R111). -/
def execVld (g : Fin 8) (d : Fin 32) (b : Fin 64) (l : Fin 16) (o : Fin 64) (s : State) : Out :=
  vectorLoad g 4 d b l.val (off6 o.val 128) s

/-- `vld` with a literal offset (R100, R111). -/
def execVldLiteral (g : Fin 8) (d : Fin 32) (b : Fin 64) (l : Fin 16) (lit : Word) (s : State) : Out :=
  vectorLoad g 8 d b l.val (imm64 lit) s

/-- `vst` (R111). -/
def execVst (g : Fin 8) (r : Fin 32) (b : Fin 64) (m : Fin 8) (o : Fin 64) (s : State) : Out :=
  vectorStore g 4 r b m (off6 o.val 128) s

/-- `vst` with a literal offset (R100, R111). -/
def execVstLiteral (g : Fin 8) (r : Fin 32) (b : Fin 64) (m : Fin 8) (lit : Word) (s : State) : Out :=
  vectorStore g 8 r b m (imm64 lit) s

/-- Words read at the unmasked lanes' addresses. -/
def State.loadLanes (s : State) (c : CVal) : List (Nat × Dbl) → Except Stop (List (Nat × Word) × State)
  | [] => .ok ([], s)
  | (i, va) :: ps => do
    let (bs, s) ← s.loadNow c va 4
    let (r, s) ← s.loadLanes c ps
    pure ((i, BitVec.ofNat 32 (ofBytes (bs.map (·.1)))) :: r, s)

/-- What a masked-off lane of a load keeps: the register's old value; it is pushed to v30 as zero (05 R123), and to the
vector load queue as a value that the spec leaves open. -/
def State.oldLanes (s : State) (d : Fin 32) : VReg × State :=
  if d.val = 31 then s.free else if d.val = 30 then (0, s) else (rd s.me.v d, s)

/-- A gather into a v register, performed within its own step. -/
def State.gather (s : State) (d : Fin 32) (c : CVal) (lanes : List (Nat × Dbl)) : Except Stop State := do
  s.checkLanes c .ld (lanes.map (·.2))
  let (ws, s) ← s.loadLanes c lanes
  let (old, s) := s.oldLanes d
  (s.setMe (s.me.dropWin (.v d))).landV d
    (ofLanes32 (fun i => ((ws.find? (fun p => p.1 == i)).map (·.2)).getD (lane32 old i)))

/-- Lane addresses by a signed stride. -/
def strided (m : Quad) (base step : Dbl) : List (Nat × Dbl) :=
  (onLanes m).map (fun i => (i, base + BitVec.ofNat 64 i * step))

/-- Lane addresses by an index vector. -/
def indexed (m : Quad) (base : Dbl) (v : VReg) : List (Nat × Dbl) :=
  (onLanes m).map (fun i => (i, base + (lane32 v i).setWidth 64))

/-- `vlds` (R112). -/
def execVlds (g : Fin 8) (d : Fin 32) (a b : Fin 64) (m : Fin 4) (s : State) : Out := issue g 4 s fun s => do
  let (c, s) ← s.useC a
  let (y, s) ← s.useX b
  s.gather d c (strided (s.me.mask (Fin.ofNat 8 m.val)) c.addr y)

/-- `vldx` (R112). -/
def execVldx (g : Fin 8) (d : Fin 32) (a : Fin 64) (b : Fin 32) (m : Fin 4) (s : State) : Out := issue g 4 s fun s => do
  let (c, s) ← s.useC a
  let (y, s) ← s.useV b
  s.gather d c (indexed (s.me.mask (Fin.ofNat 8 m.val)) c.addr y)

/-- `vsts` (R112). -/
def execVsts (g : Fin 8) (d : Fin 32) (a b : Fin 64) (m : Fin 4) (s : State) : Out := issue g 4 s fun s => do
  let (c, s) ← s.useC a
  let (y, s) ← s.useX b
  let (v, s) ← s.useStoreV d
  let lanes := strided (s.me.mask (Fin.ofNat 8 m.val)) c.addr y
  s.checkLanes c .st (lanes.map (·.2))
  s.storeLanes c v lanes

/-- `vstx` (R112). -/
def execVstx (g : Fin 8) (d : Fin 32) (a : Fin 64) (b : Fin 32) (m : Fin 4) (s : State) : Out := issue g 4 s fun s => do
  let (c, s) ← s.useC a
  let (y, s) ← s.useV b
  let (v, s) ← s.useStoreV d
  let lanes := indexed (s.me.mask (Fin.ofNat 8 m.val)) c.addr y
  s.checkLanes c .st (lanes.map (·.2))
  s.storeLanes c v lanes

end Sys2Proof.Machine
end

