-- ==== Sys2Proof/Machine/Sync.lean ====
section
/-! DEFINITION. Atomics, fences, prefetch, touch, barriers, and posted accesses at their homes (04 R106, R113-R118, R121;
18 R318-R324; 19 R343, R345, R354-R356). -/

namespace Sys2Proof.Machine

/-! ### Atomics (R113, R114) -/

/-- Bytes of an atomic's location. -/
def amoSize (fn : Nat) : Nat := if fn = 10 then 4 else 8

/-- The new value of an atomic's location, and its flags. -/
def amoResult (fn : Nat) (old y cmp : Dbl) : Dbl × Nat :=
  match fn with
  | 0 => (old + y, 0)
  | 1 => (old &&& y, 0)
  | 2 => (old ||| y, 0)
  | 3 => (old ^^^ y, 0)
  | 4 => (if old.toInt ≤ y.toInt then old else y, 0)
  | 5 => (if old.toInt ≤ y.toInt then y else old, 0)
  | 6 => (if old.toNat ≤ y.toNat then old else y, 0)
  | 7 => (if old.toNat ≤ y.toNat then y else old, 0)
  | 8 => (y, 0)
  | 9 => (if old = cmp then y else old, 0)
  | _ => let r := finish .f32 (fAdd (f32Of old) (f32Of y)); (BitVec.ofNat 64 r.1, r.2)

/-- What became of an atomic at its home. -/
inductive AmoRes where
  | done (old : Dbl) (fl : Nat) (s : State)
  | park (ni : Fin 400) (win : Fin 32) (s : State)
  | failed (f : FaultInfo) (s : State)

/-- The DET window that governs an atomic's page (19 R354). -/
def State.detOf (s : State) (t : Tr) (asid : BitVec 16) : Option (Fin 32) :=
  if t.det then (s.detWin.find? (fun w => w.1 == t.ni && w.2.1 == asid)).map (fun w => w.2.2) else none

/-- An atomic read, changed and written where its location lies, in one step, the L0 copies of its line recalled; `parks` says whether a DET page holds it
until its window closes. -/
def State.amoHome (s : State) (w : Who) (loc : Bool) (va : Dbl) (fn : Nat) (y cmp : Dbl) (parks : Bool) : AmoRes :=
  let n := amoSize fn
  match s.translateAll w loc .write [(va, n)] with
  | .error (f, s1) => .failed f s1
  | .ok (ts, s1) =>
    match ts with
    | [(t, _, _)] =>
      match (if parks then s1.detOf t w.asid else none) with
      | some k => .park t.ni k s1
      | none =>
        if poisoned s1.poison t.phys n then
          let f := mkFault .uncorrectable .write va 5
          .failed f (s1.logFault t.ni w f)
        else
          let old : Dbl := BitVec.ofNat 64 (memNat s1.mem t.phys n)
          let r := amoResult fn old y cmp
          .done old r.2 { s1.writeParts w ts (toBytes n r.1.toNat) with joined := s1.joined }
    | _ => .failed (mkFault .violation .write va 2) s1

/-- The count of a core's parked atomics at a home, and the core with it raised (19 R355). -/
def State.nextAmoKey (s : State) (c : CoreId) (ni : Fin 400) : Word × State :=
  let x := s.core c
  let n := ((x.amoKey.find? (fun p => p.1 == ni.val)).map (·.2)).getD 0
  (n, s.setCore c { x with amoKey := (ni.val, n + 1) :: x.amoKey.filter (fun p => p.1 != ni.val) })

/-- An atomic parked at its home (19 R354, R355). -/
def State.parkAmo (s : State) (c : CoreId) (wid : Nat) (grid : Option Word) (ni : Fin 400) (win : Fin 32) (p : Posted)
    (d : Bool) : State :=
  let (key, s1) := s.nextAmoKey c ni
  { s1 with parked := s1.parked ++ [{ home := ni, win := win, core := c, key := key, wid := wid, grid := grid, p := p, d := d }] }

/-- Whether an access that the running strand has under way, or a posted one of its core that is not performed, touches some
bytes. -/
def State.crossing (s : State) (loc : Bool) (va : Dbl) (n : Nat) : Bool :=
  (s.pendingPosts s.cur.1).any (fun p => p.touches loc s.me.asid va n) || s.me.loadsPending

/-- Whether an earlier request of the running strand's tile stands before a home of the other die: requests to one home are
applied in the order of their sequence numbers (18 R332). -/
def State.behindPort (s : State) (h : Nat) : Bool :=
  s.myCore.wpath.any (fun q => q.crosses s.cur.1 && (q.homes s.cur.1).contains h)

/-- An atomic of a speculative task on data of its own die: a read and a write of the line (R114, 16 R304). -/
def State.specAmo (s : State) (x : SpecCtx) (w : Who) (ts : List (Tr × Dbl × Nat)) (fn : Nat) (y cmp : Dbl) :
    Except Stop (Dbl × Nat × State) := do
  let (bs, s) ← s.specReadParts w x ts
  let old : Dbl := BitVec.ofNat 64 (ofBytes (bs.map (·.1)))
  let r := amoResult fn old y cmp
  let s ← s.specStore x [] [(ts, toBytes (amoSize fn) r.1.toNat)] true
  pure (old, r.2, s)

/-- An operation of a speculative task that its commit will issue (16 R308). -/
def State.deferTo (s : State) (x : SpecCtx) (o : Deferred) : State :=
  s.updTask x.dom x.id (fun (t : STask) => { t with defer := t.defer ++ [o] })

/-- The old value given to c[d] of an atomic. -/
def State.amoDone (s : State) (d : Fin 64) (old : Dbl) (fl : Nat) : Except Stop State :=
  if d = 0 then .ok (s.raise fl) else (s.raise fl).putX d old

/-- The value that `amo.cas` compares with, c[d]; the other atomics read none (R113). -/
def State.useCompare (s : State) (fn : Fin 16) (d : Fin 64) : Except Stop (Dbl × State) :=
  if fn.val = 9 then s.useX d else .ok (0, s)

/-- The posted access of an atomic of the running strand, numbered next. -/
def State.amoPosted (s : State) (c : CVal) (fn : Fin 16) (y cmp : Dbl) : Posted :=
  { id := s.nextId, slot := s.cur.2, wid := s.me.work.wid, asid := s.me.asid, cap := c, va := c.addr, kind := .amo fn y cmp }

/-- An atomic of a speculative task: deferred on the other die and on a DET page, where it returns nothing, and else
performed on the task's version (R114; 16 R304, R308). -/
def State.amoInTask (s : State) (x : SpecCtx) (c : CVal) (fn : Fin 16) (d : Fin 64) (y cmp : Dbl) : Except Stop State :=
  let va := c.addr
  let w := s.whoOf s.cur.1 s.cur.2
  let defers := fun (s : State) => do
    need (d == 0) .spec
    s.deferRoom
    pure ((s.deferTo x (.amo (s.amoPosted c fn y cmp))).newId.2)
  if s.me.loadsPending then .error .stall
  else if !c.has .local ∧ offDieAt s.cur.1 va then defers s
  else match s.translateAll w (c.has .local) .write [(va, amoSize fn.val)] with
    | .error (f, s1) =>
      if d = 0 then
        .ok (s1.updMe (fun (z : Strand) => { z with
          held := z.held ++ [s1.amoPosted c fn y cmp], postErr := some (z.postErr.getD f) })).newId.2
      else .error (.upcall f s1)
    | .ok (ts, s1) =>
      if ts.any (fun p => p.1.det) then defers s1
      else match s1.specAmo x w ts fn.val y cmp with
        | .error e => .error e
        | .ok (old, fl, s2) => s2.amoDone d old fl

/-- An atomic outside speculation: posted when it returns nothing, and else performed, or parked until its window
closes (R113, R114; 19 R354). -/
def State.amoPlain (s : State) (c : CVal) (fn : Fin 16) (d : Fin 64) (y cmp : Dbl) : Except Stop State :=
  let va := c.addr
  let loc := c.has .local
  if d = 0 then s.postAccess s.cur.1 s.cur.2 c va (.amo fn y cmp)
  else if s.crossing loc va (amoSize fn.val) then .error .stall
  else if !loc ∧ offDieAt s.cur.1 va ∧ (!s.linked || (niOfVa va).any (fun h => s.behindPort h.val)) then .error (.wait s)
  else match s.amoHome (s.whoOf s.cur.1 s.cur.2) loc va fn.val y cmp true with
    | .failed f s1 => .error (.upcall f s1)
    | .done old fl s1 => s1.amoDone d old fl
    | .park ni win s1 =>
      let p := s1.amoPosted c fn y cmp
      let s2 := s1.newId.2.parkAmo s.cur.1 s.me.work.wid s.me.work.grid ni win p true
      .error (.wait (s2.updMe (fun (x : Strand) => { x with ticket := some p.id })))

/-- An atomic on a double, or on an F32 word (R113, R114). One that was parked is completed by its home's answer, or takes
the upcall of its failure there (R105). -/
def atomic (fn : Fin 16) (g : Fin 8) (d a b : Fin 64) (s : State) : Out :=
  issue g 4 s fun s => do
    let (c, s) ← s.useC a
    let (y, s) ← s.useX b
    let (cmp, s) ← s.useCompare fn d
    s.checkAccess c [.ld, .st] c.addr (amoSize fn.val) (amoSize fn.val) true
    s.portReady d
    match s.me.amoErr with
    | some f => .error (.upcall f (s.updMe (fun (x : Strand) => { x with ticket := none, amoErr := none })))
    | none =>
    match s.me.ticket, s.me.answer, s.specOf s.me with
    | some _, some old, _ => (s.updMe (fun (x : Strand) => { x with ticket := none, answer := none })).amoDone d old 0
    | some _, none, _ => .error (.wait s)
    | none, _, some x => s.amoInTask x c fn d y cmp
    | none, _, none => s.amoPlain c fn d y cmp

/-- `amo.add` (R113). -/
def execAmoAdd (g : Fin 8) (d a b : Fin 64) (s : State) : Out := atomic 0 g d a b s

/-- `amo.and` (R113). -/
def execAmoAnd (g : Fin 8) (d a b : Fin 64) (s : State) : Out := atomic 1 g d a b s

/-- `amo.or` (R113). -/
def execAmoOr (g : Fin 8) (d a b : Fin 64) (s : State) : Out := atomic 2 g d a b s

/-- `amo.xor` (R113). -/
def execAmoXor (g : Fin 8) (d a b : Fin 64) (s : State) : Out := atomic 3 g d a b s

/-- `amo.min` (R113). -/
def execAmoMin (g : Fin 8) (d a b : Fin 64) (s : State) : Out := atomic 4 g d a b s

/-- `amo.max` (R113). -/
def execAmoMax (g : Fin 8) (d a b : Fin 64) (s : State) : Out := atomic 5 g d a b s

/-- `amo.minu` (R113). -/
def execAmoMinu (g : Fin 8) (d a b : Fin 64) (s : State) : Out := atomic 6 g d a b s

/-- `amo.maxu` (R113). -/
def execAmoMaxu (g : Fin 8) (d a b : Fin 64) (s : State) : Out := atomic 7 g d a b s

/-- `amo.swap` (R113). -/
def execAmoSwap (g : Fin 8) (d a b : Fin 64) (s : State) : Out := atomic 8 g d a b s

/-- `amo.cas` (R113). -/
def execAmoCas (g : Fin 8) (d a b : Fin 64) (s : State) : Out := atomic 9 g d a b s

/-- `amo.fadd` (R113). -/
def execAmoFadd (g : Fin 8) (d a b : Fin 64) (s : State) : Out := atomic 10 g d a b s

/-! ### Posted accesses at their homes (R106, R322) -/

/-- A posted access taken out of its core's write path. -/
def State.unpost (s : State) (c : CoreId) (id : Nat) : State :=
  s.updCore c (fun (x : Core) => { x with wpath := x.wpath.filter (fun p => p.id != id) })

/-- A posted access kept for the strand's resumption: it failed, or it is a replay (R106). One whose work a hardware error
has ended meanwhile goes with it. -/
def State.holdBack (s : State) (c : CoreId) (p : Posted) (f : Option FaultInfo) : State :=
  if (s.strand c p.slot).work.wid ≠ p.wid then s.unpost c p.id
  else (s.unpost c p.id).updStrand c p.slot (fun (x : Strand) => { x with
    held := x.held ++ [p], postErr := match x.postErr with | some e => some e | none => f })

/-- Whether a posted access comes back as a replay: an error of its strand stands, and a home that it goes to has answered
the failed access or a replayed one (R106). -/
def State.replays (s : State) (c : CoreId) (p : Posted) : Bool :=
  let x := s.strand c p.slot
  x.work.wid == p.wid && x.postErr.isSome && x.held.any (fun q => q.sharesHome c p)

/-- A posted access at its home: after every earlier one of its strand, and of its core to the same bytes, and after the
strand's earlier loads (R103; 18 R321); across the dies while a port is in service, the write path keeping what the bridge
keeps (R332; log entry 69); a replay where its home has refused the strand (R106). `perform` does the access,
or fails, or must be tried again. -/
def atHome (c : CoreId) (id : Nat) (again : Instr) (s : State)
    (perform : State → Posted → Except (Option FaultInfo × State) State) : Out :=
  match (s.core c).wpath.find? (fun p => p.id == id) with
  | none => .next s
  | some p =>
    if ((s.core c).wpath.takeWhile (fun q => q.id != id)).any (fun q => p.ahead c q) ∨ (p.crosses c && !s.linked) ∨
       (s.strand c p.slot).allWins.any (fun w => w.res == .pending && decide (w.id < id)) then .next (s.post 20 again)
    else if s.replays c p then .next (s.holdBack c p none)
    else match perform s p with
      | .ok s1 => .next (s1.unpost c id)
      | .error (some f, s1) => .next ((s1.holdBack c p (some f)).post 1 (.postedErrorResponse c id))
      | .error (none, s1) => .next (s1.post 20 again)

/-- A home's answer to an access, as `atHome` takes it. -/
def answered (r : Except (FaultInfo × State) State) : Except (Option FaultInfo × State) State :=
  match r with
  | .ok s => .ok s
  | .error (f, s) => .error (some f, s)

/-- The same of an access to a task's versions, which may have to wait for a record (16 R309). -/
def answeredSpec (s : State) (r : Except Stop State) : Except (Option FaultInfo × State) State :=
  match r with
  | .ok s1 => .ok s1
  | .error (.upcall f s1) => .error (some f, s1)
  | .error (.wait s1) => .error (none, s1)
  | .error _ => .error (none, s)

/-- The speculative task that an access held after an error belongs to, when it is performed again (R106; 16 R305). -/
def State.postedSpec (s : State) (c : CoreId) (p : Posted) : Option SpecCtx :=
  let x := s.strand c p.slot
  if x.work.wid = p.wid then s.specOf x else none

/-- Who a posted access is made by. -/
def Posted.who (p : Posted) (c : CoreId) : Who := { core := c, asid := p.asid, eng := false }

/-- `STORE_AT_HOME`: every byte of the store, or none (R322); a task's store made again after an error enters its version. -/
def execStoreAtHome (c : CoreId) (id : Nat) (s : State) : Out :=
  atHome c id (.storeAtHome c id) s fun s p =>
    match p.kind with
    | .store parts tagged =>
      match s.postedSpec c p with
      | none => answered (s.homeWrite (p.who c) (p.cap.has .local) parts tagged)
      | some x =>
        match s.translateRanges (p.who c) (p.cap.has .local) parts with
        | .error (f, s1) => .error (some f, s1)
        | .ok (l, s1) => answeredSpec s1 (s1.specStore x tagged l)
    | _ => .ok s

/-- `AMO_AT_HOME`: an atomic is performed, or parked on a DET page; its flags go to its strand (R113, R114). -/
def execAmoAtHome (c : CoreId) (id : Nat) (s : State) : Out :=
  atHome c id (.amoAtHome c id) s fun s p =>
    match p.kind with
    | .amo fn y cmp =>
      let flags := fun (s : State) (fl : Nat) =>
        s.updWork c p.wid (fun (x : Strand) => { x with fflags := x.fflags ||| BitVec.ofNat 32 fl })
      match s.postedSpec c p with
      | some x =>
        match s.translateAll (p.who c) (p.cap.has .local) .write [(p.va, amoSize fn.val)] with
        | .error (f, s1) => .error (some f, s1)
        | .ok (ts, s1) => answeredSpec s1 (do
          let (_, fl, s2) ← s1.specAmo x (p.who c) ts fn.val y cmp
          pure (flags s2 fl))
      | none =>
        match s.amoHome (p.who c) (p.cap.has .local) p.va fn.val y cmp true with
        | .failed f s1 => .error (some f, s1)
        | .park ni win s1 => .ok (s1.parkAmo c p.wid ((s1.workOf c p.wid).bind (fun (x : Strand) => x.work.grid)) ni win p false)
        | .done _ fl s1 => .ok (flags s1 fl)
    | _ => .ok s

/-- The later posted accesses of a strand with an error that its home answers with a replay come back, in order (R106). -/
def State.recall (s : State) (c : CoreId) (k : SlotId) : State :=
  ((s.core c).wpath.filter (fun p => p.slot == k)).foldl (fun s p => if s.replays c p then s.holdBack c p none else s) s

/-- `POSTED_ERROR_RESPONSE`: the error reaches the strand, and what it had still under way comes back with it. -/
def execPostedErrorResponse (c : CoreId) (id : Nat) (s : State) : Out :=
  match (List.finRange 16).find? (fun k => (s.strand c k).held.any (fun p => p.id == id)) with
  | some k => .next (s.recall c k)
  | none => .next s

/-! ### Fences (R115, R116) -/

/-- Orders earlier loads before what follows. -/
def State.orderLoads (s : State) : Except Stop Unit := if s.me.loadsPending then .error .stall else .ok ()

/-- Waits until the strand's earlier stores, and those whose values it has taken, are performed (18 R324, R327). -/
def State.orderStores (s : State) : Except Stop Unit := if s.postsDone then .ok () else .error .stall

/-- The running strand's posted accesses that a fence waits for: those in the write path, and the atomics that stand parked
at their homes and are not performed until their window closes (18 R330), but no atomic of the other die (18 R333). -/
def State.fencedPosts (s : State) : List Posted :=
  s.myCore.wpath.filter (fun p => p.slot == s.cur.2 && p.wid == s.me.work.wid && !(p.isAmo && p.crosses s.cur.1)) ++
    (s.parked.filter (fun a => a.wid == s.me.work.wid && !a.p.crosses a.core)).map (fun a => a.p)

/-- Whether an acquire at a scope must still wait: a load that is under way, an earlier atomic that has not been performed,
or, at quad or wider, a value taken from a store of the core that has not been performed at its home (R115; 18 R324). -/
def State.acquires (s : State) (scope : Fin 16) : Bool :=
  s.me.loadsPending || s.fencedPosts.any Posted.isAmo ||
  decide (2 ≤ scope.val) && s.tookOpen

/-- Whether a release at a scope must still wait: a load under way, a posted access not performed, or, at quad or wider, a
store whose value the strand has taken, which happens before the release (R115; 18 R324, R327). -/
def State.releases (s : State) (scope : Fin 16) : Bool :=
  s.me.loadsPending || !s.fencedPosts.isEmpty || decide (2 ≤ scope.val) && s.tookOpen

/-- `fence.acq` (R115). -/
def execFenceAcq (g : Fin 8) (k : Fin 16) (s : State) : Out := issue g 4 s fun s =>
  if s.acquires k then .error .stall else .ok s

/-- `fence.rel` (R115): the stores are performed at their homes, where every scope sees them. -/
def execFenceRel (g : Fin 8) (k : Fin 16) (s : State) : Out := issue g 4 s fun s =>
  if s.releases k then .error .stall else .ok s

/-- `fence.ar` (R115). -/
def execFenceAr (g : Fin 8) (k : Fin 16) (s : State) : Out := issue g 4 s fun s =>
  if s.acquires k || s.releases k then .error .stall else .ok s

/-- An access at issue whose VA 63:56 names no region: a violation, logged at the core's interface (R101, R102). -/
def State.noRegion (s : State) (va : Dbl) (m : Mode) : FaultInfo × State :=
  let f := mkFault .violation m va (if df va 56 8 = 2 then 4 else 2)
  (f, s.logFault (niOfCore s.cur.1) (s.whoOf s.cur.1 s.cur.2) f)

/-- `afence`: the core's L0 lines of the range go, and its earlier stores to the range are waited for (R116). That the `spec`
trap comes before the checks of c[a] is the model's choice: the spec gives them no order (log entry 69). -/
def execAfence (g : Fin 8) (a b : Fin 64) (s : State) : Out := issue g 4 s fun s => do
  s.notSpec
  let (c, s) ← s.useC a
  let (y, s) ← s.useX b
  let va := c.addr
  let n := y.toNat
  s.checkAccess c (if c.has .ld then [.ld] else [.st]) va n 1
  if !c.has .local ∧ 1 < df va 56 8 then
    let p := s.noRegion va .read
    throw (.upcall p.1 p.2)
  if n ≠ 0 ∧ (s.pendingPosts s.cur.1).any (fun p => p.touches (c.has .local) s.me.asid va n) then throw .stall
  let asid := s.me.asid
  pure (s.updCore s.cur.1 (fun (x : Core) => { x with l0 := x.l0.filter (fun e =>
    !(e.asid == asid && n != 0 && decide (va.toNat / 64 ≤ e.line.toNat) &&
      decide (e.line.toNat ≤ (va.toNat + n - 1) / 64))) }))

/-! ### Prefetch and touch (R117, R118) -/

/-- `pfx`: a hint; whatever fails drops it, a port that has nothing to pop included, and nothing is logged (R117). That its
bounds check covers the one byte addressed, not the line, is the model's choice: the spec names no size (log entry 69). -/
def execPfx (g : Fin 8) (a : Fin 64) (s : State) : Out := issue g 4 s fun s =>
  match s.useC a with
  | .error (.trap _ _) => .ok s
  | .error e => .error e
  | .ok (c, s) =>
    match s.checkAccess c [.ld] c.addr 1 1 with
    | .error _ => .ok s
    | .ok _ =>
      match s.translate (s.whoOf s.cur.1 s.cur.2) (c.has .local) c.addr .read with
      | (.error _, _) => .ok s
      | (.ok t, s1) => .ok (s1.l0Fill s.cur.1 s.me.asid t c.addr true)

/-- A translation of a page without reading or writing data. -/
def touchPage (g : Fin 8) (a : Fin 64) (p : Perm) (m : Mode) (s : State) : Out := issue g 4 s fun s => do
  let (c, s) ← s.useC a
  s.checkAccess c [p] c.addr 1 1
  match s.translate (s.whoOf s.cur.1 s.cur.2) (c.has .local) c.addr m with
  | (.error f, s1) => throw (.upcall f s1)
  | (.ok _, s1) => pure s1

/-- `touch` (R118). -/
def execTouch (g : Fin 8) (a : Fin 64) (s : State) : Out := touchPage g a .ld .read s

/-- `touch.w` (R118). -/
def execTouchW (g : Fin 8) (a : Fin 64) (s : State) : Out := touchPage g a .st .write s

/-! ### Team barriers (R121; 19 R343, R345) -/

/-- The domain of a level of a launch record, where the level is valid (19 R339). -/
def LaunchRec.domain (r : LaunchRec) (n : Nat) : Option Nat :=
  let b := ((r.levels[n]?).getD 0).toNat
  if fld b 7 1 = 1 then some (fld b 0 3) else none

/-- The memory scope of a level of a launch record (19 R339). -/
def LaunchRec.scope (r : LaunchRec) (n : Nat) : Fin 16 := Fin.ofNat 16 (fld ((r.levels[n]?).getD 0).toNat 3 4)

/-- The unit of a domain that holds a core, numbered (18 R314). -/
def unitOf (dom : Nat) (c : CoreId) : Nat :=
  match dom with
  | 0 | 1 => c.val
  | 2 => 4 * (clusterOf c).val + quadOf c
  | 3 => (clusterOf c).val
  | 4 => dieOf c
  | _ => 0

/-- Whether two members are of one team at a level: of one top-level team, and, below the top, in one unit of its
domain. -/
def Grid.sameTeam (g : Grid) (n : Nat) (x y : Member) : Bool :=
  let top := ((g.r.domain (n + 1)).isNone)
  x.team == y.team && (top || unitOf ((g.r.domain n).getD 5) x.core == unitOf ((g.r.domain n).getD 5) y.core)

/-- The key of a member's team at a level: its lowest member. -/
def Grid.teamKey (g : Grid) (n : Nat) (x : Member) : Nat :=
  ((g.members.find? (fun y => g.sameTeam n x y)).map (·.i)).getD 0

/-- The barrier of a team at a level, at its first generation until someone has arrived. -/
def Grid.bar (g : Grid) (n key : Nat) : Barrier :=
  (g.bars.find? (fun b => b.level == n && b.team == key)).getD { level := n, team := key, gen := 0, arrived := [] }

def Grid.setBar (g : Grid) (b : Barrier) : Grid :=
  { g with bars := b :: g.bars.filter (fun x => !(x.level == b.level && x.team == b.team)) }

/-- A barrier with one more arrival: complete once every member of the team has arrived or ended. -/
def Grid.arrive (g : Grid) (n : Nat) (x : Member) : Grid :=
  let b := g.bar n (g.teamKey n x)
  let arrived := if b.arrived.contains x.i then b.arrived else b.arrived ++ [x.i]
  if g.members.all (fun y => !g.sameTeam n x y || y.ended || arrived.contains y.i) then
    g.setBar { b with gen := b.gen + 1, arrived := [] }
  else g.setBar { b with arrived := arrived }

/-- `bar` (R121): a release at the level's memory scope before the arrival, and an acquire at it when the generation has
come, each asked as the fences ask it. -/
def execBar (g n : Fin 8) (s : State) : Out := issue g 4 s fun s => do
  s.notSpec
  let x := s.me
  match x.work.grid.bind s.grid, x.work.member with
  | some gr, some i =>
    match gr.r.domain n.val, gr.members.find? (fun m => m.i == i) with
    | some dom, some m =>
      if s.releases (gr.r.scope n.val) || s.acquires (gr.r.scope n.val) then throw .stall
      if dom = 0 then pure s
      else
        let gen := match x.barAt with
          | some p => p.2
          | none => (gr.bar n.val (gr.teamKey n.val m)).gen
        let came := match x.barAt with
          | some _ => decide (gen < (gr.bar n.val (gr.teamKey n.val m)).gen)
          | none => false
        if came then pure (s.updMe (fun (x : Strand) => { x with barAt := none }))
        else
          let gr1 := gr.arrive n.val m
          let s1 := s.updGrid gr.id (fun _ => gr1)
          if gen < (gr1.bar n.val (gr1.teamKey n.val m)).gen then
            pure (s1.updMe (fun (x : Strand) => { x with barAt := none }))
          else throw (.wait (s1.updMe (fun (x : Strand) => { x with barAt := some (n.val, gen) })))
    | _, _ => throw (.t .ill)
  | _, _ => throw (.t .ill)

end Sys2Proof.Machine
end

