-- ==== Sys2Proof/Machine/Engine.lean ====
section
/-! DEFINITION. Engine operations: tokens, the pieces and granules of copies and moves, errors, hand-back and resumption
(04 R120; 07 R193-R197; 13 R261-R267; 16 R308; 20 R360, R364, R365; 21 R390). -/

namespace Sys2Proof.Machine

/-! ### Tokens (R196) -/

/-- A change to a token of a piece of work. -/
def State.updToken (s : State) (c : CoreId) (wid : Nat) (t : Option (Fin 8)) (f : Token → Token) : State :=
  match t with
  | some i => s.updWork c wid (fun (x : Strand) => { x with tok := wr x.tok i (f (rd x.tok i)) })
  | none => s

/-- One more operation outstanding. -/
def Token.up (t : Token) : Token := { t with out := t.out + 1 }
/-- One operation completed. -/
def Token.down (t : Token) : Token := { t with out := t.out - 1, done := hold 0xFFFF (t.done + 1) }
/-- Granules that were not performed. -/
def Token.errs (n : Nat) (t : Token) : Token := { t with errc := hold 0xFFFF (t.errc + n), err := true }
/-- Rows filled with zeros. -/
def Token.oobs (n : Nat) (t : Token) : Token := { t with oob := hold 0xFFFF (t.oob + n) }

/-- A token's status word; `hb` says that a remainder of its operations is handed back. -/
def Token.word (t : Token) (hb : Bool) : Nat :=
  t.out % 2 ^ 16 + 2 ^ 16 * t.done + 2 ^ 32 * t.oob + 2 ^ 48 * t.errc + (if t.err then 2 ^ 64 else 0) + (if hb then 2 ^ 65 else 0)

/-- A token as the bytes of its status word give it; HBACK stands in the hand-back entries. -/
def Token.ofWord (n : Nat) : Token :=
  { out := fld n 0 16, done := fld n 16 16, oob := fld n 32 16, errc := fld n 48 16, err := fld n 64 1 = 1 }

/-- Whether a remainder of an operation on the token is handed back (R196). -/
def State.hbackOf (s : State) (c : CoreId) (wid : Nat) (k : Fin 8) : Bool :=
  s.ops.any (fun (o : Op) => o.core == c && o.wid == wid && o.token == some k && o.handed.isSome)

/-- Where the token field of a save image begins (21 R382). -/
def imageTokens : Nat := 10592

/-- Who writes and reads a strand's image: hardware, under the strand's ASID. -/
def imageWho (c : CoreId) (x : Strand) : Who := { core := c, asid := x.asid, eng := true }

/-- A change to a token that an engine makes: where the work's strand is saved, the token's word in its image changes with
it, at the image's home; an image that cannot be written ends the work when it would be restored (21 R385, R408). -/
def State.tellToken (s : State) (c : CoreId) (wid : Nat) (t : Option (Fin 8)) (f : Token → Token) : State :=
  let s1 := s.updToken c wid t f
  match t, (s1.core c).saved.find? (fun v => v.strand.work.wid == wid) with
  | some i, some v =>
    let word := toBytes 16 ((rd v.strand.tok i).word (s1.hbackOf c wid i))
    match s1.homeWrite (imageWho c v.strand) (v.image.has .local)
        [(v.image.addr + BitVec.ofNat 64 (imageTokens + 16 * i.val), word)] [] with
    | .ok s2 => s2
    | .error (_, s2) => s2.updCore c (fun (x : Core) =>
        { x with saved := x.saved.map (fun (u : Saved) => if u = v then { u with lost := true } else u) })
  | _, _ => s1

/-! ### Operations -/

def State.op (s : State) (id : Nat) : Option Op := s.ops.find? (fun (o : Op) => o.id == id)

def State.updOp (s : State) (id : Nat) (f : Op → Op) : State :=
  { s with ops := s.ops.map (fun (o : Op) => if o.id == id then f o else o) }

/-- Who an operation's accesses are made by. -/
def Op.who (o : Op) : Who := { core := o.core, asid := o.asid, eng := true }

/-- Engine operations are held while the device is frozen (R390): an event is put off. -/
def State.held (s : State) (e : Instr) : State := s.post 100 e

/-- Engine operations that the running strand has outstanding: its operations, and its leases that are still to be granted
(R153, R196). -/
def State.engineCount (s : State) : Nat :=
  (s.ops.filter (fun (o : Op) => o.core == s.cur.1 && o.wid == s.me.work.wid)).length +
  ((s.cluster (clusterOf s.cur.1)).leases.filter (fun (l : Lease) =>
    l.core == s.cur.1 && l.wid == s.me.work.wid && l.token.isSome && l.st == .requested)).length

/-- No row-gather awaits its index capability: until then every other engine instruction traps (R194). -/
def State.noAwait (s : State) : Except Stop Unit := need s.me.await.isNone .ill

/-- No row-gather awaits its index capability (R194), fewer than 64 operations are outstanding (R196), and a speculative
task may defer one more. -/
def State.engineFree (s : State) : Except Stop Unit :=
  if s.me.await.isSome then .error (.t .ill)
  else if 64 ≤ s.engineCount then .error .stall
  else s.deferRoom

/-- Whether an earlier operation that the same commit has issued is still to be performed: deferred operations are performed
in the task's program order (16 R308). A remainder that is handed back holds nothing up. -/
def State.behindDeferred (s : State) (o : Op) : Bool :=
  o.dom.isSome && s.ops.any (fun (p : Op) => p.dom == o.dom && p.core == o.core && p.wid == o.wid && decide (p.id < o.id) &&
    p.handed.isNone)

/-- Whether what work `wid` of a core issued under number `id` still waits for what its issuer did before (04 R120; 18 R326):
older posted accesses of the issuer, in the write path or held after an error, stores of other strands whose values the
issuer has read, and the issuer's earlier loads. What an upcall record holds counts for what was issued before it was
written. -/
def State.issuerBehind (s : State) (c : CoreId) (wid id : Nat) : Bool :=
  let x := s.core c
  let old := fun (p : Posted) => p.wid == wid && decide (p.id < id)
  let loads := fun (y : Strand) => y.allWins.any (fun w => w.res == .pending && w.acc.kind != .readout && decide (w.id < id))
  x.wpath.any old ||
  (List.finRange 16).any (fun k => (x.strand k).held.any old) ||
  (match s.workOf c wid with
   | some y => loads y || y.took.any (fun i => decide (i < id) && s.unperformed c i)
   | none => false) ||
  x.recs.any (fun u => decide (id < u.born) && (u.strand.held.any old || u.wid == wid && loads u.strand))

/-- Whether an operation still waits for what its issuer did before it, or for an earlier deferred operation of its task. -/
def State.awaitsIssuer (s : State) (o : Op) : Bool := s.behindDeferred o || s.issuerBehind o.core o.wid o.id

/-- A new operation of the running strand. In a speculative task it is deferred to its commit and changes no token; in an
irrevocable one it is issued, and a copy or move changes no token either (R308, R310). -/
def State.newOp (s : State) (token : Option (Fin 8)) (job : Job) (todo : List Piece) : Nat × State :=
  let (id, s1) := s.newId
  let x := s1.me
  let spec := s1.specOf x
  let moves : Bool := match job with | .copy .. | .move .. => true | _ => false
  let token := if spec.isSome ∨ (x.work.task.isSome ∧ moves = true) then none else token
  let o : Op :=
    { id := id, core := s.cur.1, wid := x.work.wid, grid := x.work.grid, asid := x.asid, token := if spec.isSome then none else token,
      dom := spec.map (·.dom), deferred := spec.isSome, job := job, todo := todo, next := 0, buf := [], cur := none, idx := [],
      bad := [], handed := none, logged := false, failed := false }
  let s2 : State := { s1 with ops := s1.ops ++ [o] }
  match spec with
  | some t => (id, s2.updTask t.dom t.id (fun (y : STask) => { y with defer := y.defer ++ [.op id] }))
  | none => (id, s2.updToken s.cur.1 x.work.wid token Token.up)

/-- A new operation with its first event, which one that is deferred has not yet. -/
def State.startOp (s : State) (token : Option (Fin 8)) (job : Job) (todo : List Piece) (first : Nat → Instr) : State :=
  let r := s.newOp token job todo
  if (s.specOf s.me).isSome then r.2 else r.2.post 100 (first r.1)

/-- An operation completed: its token falls (R196, R261). -/
def State.endOp (s : State) (id : Nat) : State :=
  match s.op id with
  | some o =>
    ({ s with ops := s.ops.filter (fun (p : Op) => p.id != id) } : State).tellToken o.core o.wid o.token Token.down
  | none => s

/-- A deferred operation has met its first failure: its domain counts it (16 R308, R312). -/
def State.opFailed (s : State) (o : Op) : State :=
  match o.dom with
  | some d =>
    if (s.op o.id).any (fun (p : Op) => p.failed) then s
    else (s.updOp o.id (fun (p : Op) => { p with failed := true })).updDom d (fun (x : Domain) => { x with derr := up16 x.derr })
  | none => s

/-- Granules that met a violation or uncorrectable data, counted; only the first is logged (R120). `after` is the state
with the log entry, `before` the one without. -/
def State.opErrors (o : Op) (n : Nat) (before after : State) : State :=
  let s := (if o.logged then before else after).opFailed o
  (s.updOp o.id (fun (p : Op) => { p with logged := true })).tellToken o.core o.wid o.token (Token.errs n)

/-- An operation without pieces stopped by a translation fault (R197). -/
def State.opFault (s : State) (o : Op) (f : FaultInfo) : State :=
  (s.updOp o.id (fun (q : Op) => { q with bad := [({ row := 0, off := 0, len := 0 }, f)] })).post 100 (.engineHandBack o.id)

/-- The engine number of a hand-back (R197). -/
def Job.engine : Job → Nat
  | .copy .. => 0 | .fill _ => 1 | .readout _ => 2 | .walk _ => 3 | .move .. => 4 | .quire _ => 5
  | .tlbi .. | .amo _ | .msg .. => 0

/-- Whether a translation failure of the operation counts as an error and is not handed back: an operand on the other
die (R120, R365). -/
def Job.crosses : Job → Bool
  | .move _ _ _ x => x
  | _ => false

/-! ### Pieces of a copy or move (R194, R261, R265, R266) -/

/-- Bytes from `va` to the end of its piece: a 4 KiB page of the global region, or one tile's part of tile space
(21 R371). -/
def pieceRoom (c : CVal) (va : Dbl) : Nat :=
  if c.has .local ∨ df va 56 8 = 1 then 2 ^ 47 - va.toNat % 2 ^ 47 else 4096 - va.toNat % 4096

/-- Whether the rows of the source follow one another without a gap, so that they are one run of bytes: `off` of a piece then
runs on over the rows (R261, R265). -/
def CopyGeo.abut (g : CopyGeo) : Bool := g.mode == 2 || g.mode == 1 && g.spitch == (g.xlen : Int)

/-- Where byte `off` of row `row` of the source stands; `idx` is the row's index in row-gather mode. -/
def CopyGeo.srcAt (g : CopyGeo) (src : CVal) (row off idx : Nat) : Dbl :=
  match g.mode with
  | 1 => addVa src.addr (row * g.spitch) + BitVec.ofNat 64 off
  | 2 => src.addr + BitVec.ofNat 64 (row * g.xlen + off)
  | 3 => src.addr + BitVec.ofNat 64 (idx * g.xlen + off)
  | _ => src.addr + BitVec.ofNat 64 off

/-- Unit of a swizzle, 0 for none (R194). -/
def CopyGeo.unit (g : CopyGeo) : Nat := match g.swz with | 1 => 32 | 2 => 64 | _ => 0

/-- Where byte `off` of a row goes within the row (R194, R266). -/
def CopyGeo.swizzle (g : CopyGeo) (row off : Nat) : Nat :=
  let u := g.unit
  if u = 0 then off else Nat.xor (off / u) (row % 8) * u + off % u

/-- The address of tile identifier `t`, offset `o`, in tile space. -/
def tileVa (t o : Nat) : Dbl := BitVec.ofNat 64 (2 ^ 56 + 2 ^ 47 * t + o)

/-- Where the granules of a destination row are cut besides at 16 bytes: at the swizzle's unit, of which a row is a
multiple, or at the row's end. -/
def CopyGeo.cut (g : CopyGeo) : Nat := if g.unit = 0 then g.xlen else g.unit

/-- Where byte `off` of row `row` of the destination stands; `off` may run on over the rows. -/
def CopyGeo.dstAt (g : CopyGeo) (dst : CVal) (row off : Nat) : Dbl :=
  let row := row + off / g.xlen
  let off := off % g.xlen
  match g.mode with
  | 1 | 3 => addVa dst.addr (row * g.dpitch) + BitVec.ofNat 64 (g.swizzle row off)
  | 2 =>
    let w := fld g.rect 0 4 + 1
    let h := fld g.rect 4 4 + 1
    let k := row % (w * h)
    let t0 := df dst.addr 47 9
    let t := t0 + 16 * (k / w) + k % w
    tileVa t (df dst.addr 0 47) + BitVec.ofNat 64 (row / (w * h) * g.xlen + off)
  | _ => dst.addr + BitVec.ofNat 64 off

/-- Bytes of a row that go to one 16-byte granule of the destination. -/
def granuleLen (u off : Nat) (dst : Dbl) (left : Nat) : Nat :=
  let k := min left (16 - dst.toNat % 16)
  if u = 0 then k else min k (u - off % u)

/-- The granules of a piece: offset in the row, address, bytes. -/
def granules (u : Nat) (at' : Nat → Dbl) : Nat → Nat → List Byte → List (Nat × Dbl × List Byte)
  | 0, _, _ => []
  | fuel + 1, off, bs =>
    match bs with
    | [] => []
    | _ =>
      let k := granuleLen u off (at' off) bs.length
      (off, at' off, bs.take k) :: granules u at' fuel (off + k) (bs.drop k)

/-- How many granules `len` bytes at `off` of a row make. -/
def granuleCount (u : Nat) (at' : Nat → Dbl) (off len : Nat) : Nat :=
  (granules u at' (len + 1) off (List.replicate len 0)).length

/-- A row's place in a tile register that is the copy's target: rows of 128 bytes (R195). -/
def CopyGeo.tileOff (g : CopyGeo) (row off : Nat) : Nat :=
  if g.mode = 0 then off else 128 * (row + off / g.xlen) + off % g.xlen

/-- Bytes written into a tile register from byte `o` up. -/
def tileBytes (rows : Vector VReg 32) (o : Nat) (bs : List Byte) : Vector VReg 32 :=
  let r := Fin.ofNat 32 (o / 128)
  let old := toBytes 128 (rd rows r).toNat
  wr rows r (BitVec.ofNat 1024 (ofBytes (old.take (o % 128) ++ bs ++ old.drop (o % 128 + bs.length))))

/-! ### The index list (R194, R260) -/

/-- What reading a row's index gives. -/
inductive IdxRes where
  | known (i : Nat) (s : State)
  | fault (f : FaultInfo) (s : State)
  | lost (before after : State)

/-- The index of a row, from what the operation has read or from its list. -/
def State.indexOf (s : State) (o : Op) (cap : CVal) (row : Nat) : IdxRes :=
  match o.idx.find? (fun p => p.1 == row) with
  | some p => .known p.2 s
  | none =>
    let va := cap.addr + BitVec.ofNat 64 (4 * row)
    match s.homeRead o.who (cap.has .local) va 4 with
    | .ok (bs, s1) =>
      let i := ofBytes (bs.map (·.1))
      .known i (s1.updOp o.id (fun (p : Op) => { p with idx := (row, i) :: p.idx }))
    | .error (f, s1) => if f.cause = .translation then .fault f s1 else .lost s s1

/-! ### STREAMER_PIECE: one piece read (R261) -/

/-- What follows a piece or a granule: the next granule, the next piece, the hand-back of the pieces that faulted, or
the last acknowledgement (R261, R364). -/
def State.opGoOn (s : State) (id : Nat) : State :=
  match s.op id with
  | none => s
  | some o =>
    if !o.buf.isEmpty then s.post 10 (.granuleWrite id o.next)
    else if !o.todo.isEmpty then s.post 10 (.streamerPiece id o.next)
    else if !o.bad.isEmpty then s.post 10 (.engineHandBack id)
    else s.post 10 (.engineAck id o.next)

/-- A piece whose translation failed: kept whole for the hand-back, the other pieces gone on with (R364). -/
def State.pieceFault (s : State) (o : Op) (p : Piece) (f : FaultInfo) (rest : List Piece) : State :=
  (s.updOp o.id (fun (q : Op) => { q with
    todo := rest, next := q.next + 1, buf := [], cur := none, bad := q.bad ++ [(p, f)] })).opGoOn o.id

/-- A piece's bytes put among the granules to write; `rest` is what is left to do. -/
def State.buffer (s : State) (o : Op) (dst : CVal) (u : Nat) (at' : Nat → Dbl) (p : Piece) (bs : List Byte)
    (rest : List Piece) : State :=
  let gs := granules u at' (bs.length + 1) p.off bs
  (s.updOp o.id (fun (q : Op) => { q with
    todo := rest, next := q.next + 1, cur := some { p with len := bs.length },
    buf := gs.map (fun x => (dst, x.2.1, x.2.2)) })).opGoOn o.id

/-- A piece that could not be read: its granules counted, the rest gone on with (R120). -/
def State.pieceLost (s : State) (o : Op) (n : Nat) (rest : List Piece) (after : State) : State :=
  ((State.opErrors o n s after).updOp o.id (fun (q : Op) => { q with todo := rest, next := q.next + 1 })).opGoOn o.id

/-- The granules of a piece read: those that can be written, with their destinations; one that cannot be read is counted,
and a translation fault stops the piece (R120, R364). -/
def State.readGranules (s : State) (o : Op) (src : CVal) (from' : Nat → Dbl) :
    List (Nat × Dbl × List Byte) → Except (FaultInfo × State) (List (Dbl × List Byte) × State)
  | [] => .ok ([], s)
  | (off, to', bs) :: gs =>
    match s.homeRead o.who (src.has .local) (from' off) bs.length with
    | .ok (r, s1) =>
      match s1.readGranules o src from' gs with
      | .ok (l, s2) => .ok ((to', r.map (·.1)) :: l, s2)
      | .error e => .error e
    | .error (f, s1) =>
      if f.cause = .translation ∧ !o.job.crosses then .error (f, s1)
      else (State.opErrors ((s.op o.id).getD o) 1 s (s1.logRefused o.who f)).readGranules o src from' gs

/-- One piece of source bytes read in one step, through one translation: a run within one page or slice. A piece whose
translation fails reads nothing and counts nothing (R364). -/
def State.readPiece (s : State) (o : Op) (src dst : CVal) (u : Nat) (from' to' : Nat → Dbl) (p : Piece)
    (rest : List Piece) : State :=
  let room := min p.len (pieceRoom src (from' p.off))
  let more := if room < p.len then { p with off := p.off + room, len := p.len - room } :: rest else rest
  match s.readGranules o src from' (granules u to' (room + 1) p.off (List.replicate room 0)) with
  | .ok (gs, s1) =>
    (s1.updOp o.id (fun (q : Op) => { q with
      todo := more, next := q.next + 1, cur := some { p with len := room }
      buf := gs.map (fun x => (dst, x.1, x.2)) })).opGoOn o.id
  | .error (f, _) => s.pieceFault o { p with len := room } f more

/-- Whether an address of a move names the global region of a linked peer package (22 R405). -/
def peerAt (c : CVal) (va : Dbl) : Bool := !c.has .local && df va 56 8 == 2 && Config.peerLinked

/-- Whether a move names a linked peer package. -/
def Op.toPeer (o : Op) : Bool :=
  match o.job with
  | .move src dst _ _ => peerAt src src.addr || peerAt dst dst.addr
  | _ => false

/-- Whether the link, or the translation at the peer's home, fails a granule: it does while the PCIe port is not in service
(R392), and else as a free value says, for the peer is not part of this machine (R365, R405; log entry 13). -/
def State.peerFails (s : State) (f : VReg) : Bool := !s.house.ready.getLsbD 63 || f.getLsbD 1023

/-- `STREAMER_PIECE` (R261): a piece of a copy or a move is read at its streamer. -/
def execStreamerPiece (id n : Nat) (s : State) : Out :=
  match s.op id with
  | none => .next s
  | some o =>
    if s.house.frozen then .next (s.held (.streamerPiece id n))
    else if o.next ≠ n ∨ o.deferred ∨ o.handed.isSome ∨ !o.buf.isEmpty then .next s
    else if s.awaitsIssuer o ∨ (o.job.crosses && !s.linked && !o.toPeer) then .next (s.post 20 (.streamerPiece id n))
    else
      match o.todo with
      | [] => .next (s.opGoOn id)
      | p :: rest =>
        match o.job with
        | .move src dst _ _ =>
          let at' := fun (c : CVal) (i : Nat) => c.addr + BitVec.ofNat 64 i
          if peerAt src (at' src p.off) then
            -- the peer's memory is not part of this machine: its bytes are free values
            let n := min p.len 16
            let (f, s1) := s.free
            let more := if n < p.len then { p with off := p.off + n, len := p.len - n } :: rest else rest
            if s.peerFails f then .next (s1.pieceLost o 1 more s1)
            else .next (s1.buffer o dst 0 (at' dst) p (toBytes n f.toNat) more)
          else .next (s.readPiece o src dst 0 (at' src) (at' dst) p rest)
        | .copy g src dst cap =>
          let to' := fun i => match g.tile with
            | some _ => BitVec.ofNat 64 (g.tileOff p.row i)
            | none => g.dstAt dst p.row i
          if g.mode = 3 then
            match cap with
            | none => .next s
            | some list =>
            match s.indexOf o list p.row with
            | .fault f s1 => .next (s1.pieceFault o p f rest)
            | .lost before after =>
              .next (before.pieceLost o (granuleCount g.cut to' p.off p.len) rest after)
            | .known i s1 =>
              if g.trows ≤ i then
                if g.oob1 then
                  .next (s1.pieceFault o p (mkFault .translation .read (g.srcAt src p.row 0 i) 0) rest)
                else .next (s1.buffer o dst g.cut to' p (List.replicate p.len 0) rest)
              else .next (s1.readPiece o src dst g.cut (fun j => g.srcAt src p.row j i) to' p rest)
          else .next (s.readPiece o src dst g.cut (fun j => g.srcAt src p.row j 0) to' p rest)
        | _ => .next s

/-! ### GRANULE_WRITE: one granule performed (R261) -/

/-- The tile register that a copy writes. -/
def Job.tile : Job → Option (Fin 8)
  | .copy g _ _ _ => g.tile
  | _ => none

/-- Whether a piece is a row that the index list sends out of range (R194). -/
def Op.outRow (o : Op) (p : Piece) : Bool :=
  match o.job with
  | .copy g _ _ _ => g.mode == 3 && o.idx.any (fun x => x.1 == p.row && decide (g.trows ≤ x.2))
  | _ => false

/-- The granules of a piece that are still to be written, once one has been; a row out of range is counted when its
last has. -/
def State.granuleDone (s : State) (o : Op) (more : List (CVal × Dbl × List Byte)) : State :=
  let s1 := s.updOp o.id (fun (q : Op) => { q with buf := more })
  let s2 := if more.isEmpty ∧ o.cur.any o.outRow then s1.tellToken o.core o.wid o.token (Token.oobs 1) else s1
  s2.opGoOn o.id

/-- Whether the task that deferred an operation, run on as an irrevocable one, still holds a tile register. A finished task
holds none, and what its deferred copy would write into a tile register is lost with the claim (log entry 69). -/
def State.holdsTile (s : State) (o : Op) (t : Fin 8) : Bool :=
  (rd (s.core o.core).t t).holder.any (fun k => (s.strand o.core k).work.task == some o.wid)

/-- `GRANULE_WRITE`: the oldest granule read is translated and written at its home, or counted, or stops the operation. -/
def execGranuleWrite (id n : Nat) (s : State) : Out :=
  match s.op id with
  | none => .next s
  | some o =>
    if s.house.frozen then .next (s.held (.granuleWrite id n))
    else if o.next ≠ n ∨ o.deferred ∨ o.handed.isSome then .next s
    else if o.job.crosses && !s.linked && !o.toPeer then .next (s.post 20 (.granuleWrite id n))
    else
      match o.buf with
      | [] => .next s
      | (dst, va, bs) :: more =>
        let done := fun (s : State) => s.granuleDone o more
        match o.job.tile with
        | some t =>
          if o.dom.isSome && !s.holdsTile o t then .next (done s)
          else .next (done (s.updCore o.core (fun (x : Core) =>
            { x with t := wr x.t t { rd x.t t with rows := tileBytes (rd x.t t).rows va.toNat bs } })))
        | none =>
          if o.job.engine = 4 ∧ peerAt dst va then
            let (f, s1) := s.free
            if s.peerFails f then .next (done (State.opErrors o 1 s1 s1)) else .next (done s1)
          else match s.homeWrite o.who (dst.has .local) [(va, bs)] [] with
          | .ok s1 => .next (done s1)
          | .error (f, s1) =>
            if f.cause = .translation ∧ !o.job.crosses then
              .next (s1.pieceFault o (o.cur.getD { row := 0, off := 0, len := 0 }) f o.todo)
            else .next (done (State.opErrors o 1 s (s1.logRefused o.who f)))

/-- `ENGINE_ACK`: the last acknowledgement; the operation completes (R261). -/
def execEngineAck (id n : Nat) (s : State) : Out :=
  match s.op id with
  | some o =>
    if s.house.frozen then .next (s.held (.engineAck id n))
    else if o.next = n ∧ !o.deferred ∧ o.todo.isEmpty ∧ o.buf.isEmpty ∧ o.handed.isNone ∧ o.bad.isEmpty then .next (s.endOp id)
    else .next s
  | none => .next s

/-! ### Hand-back and resumption (R197, R364) -/

/-- A free hand-back entry of a core. -/
def Core.freeHback (x : Core) : Option (Fin 16) := (List.finRange 16).find? (fun i => (rd x.hback i).op.isNone)

/-- The message of a hand-back (R197). -/
def State.handBackMsg (s : State) (o : Op) (n : Nat) (e : Fin 16) (gen : BitVec 16) (f : FaultInfo) : Msg :=
  { aep := mkAep 1 2 (0x8000 + o.core.val) 0 s.now
      (BitVec.ofNat 32 (n + (if o.dom.isSome then 256 else 0)))
      (BitVec.ofNat 32 (e.val + 2 ^ 16 * gen.toNat))
    stream := [f.va.setWidth 32, (f.va >>> 32).setWidth 32, if f.write then 1 else 0, o.asid.setWidth 32]
    count := 4, wtype := 0, seq := 0, sender := .engine o.core, waiter := none }

/-- `ENGINE_HAND_BACK`: the remainder takes a free entry of its core, or waits for one; channel 1 is told. -/
def execEngineHandBack (id : Nat) (s : State) : Out :=
  match s.op id with
  | none => .next s
  | some o =>
    match o.bad with
    | [] => .next s
    | b :: bs =>
      let f := (bs.foldl (fun (m : Piece × FaultInfo) x => if x.2.va < m.2.va then x else m) b).2
      if o.handed.isSome then .next s
      else match (s.core o.core).freeHback with
        | none => .next (s.post 100 (.engineHandBack id))
        | some e =>
          let gen := (rd (s.core o.core).hback e).gen + 1
          let s1 := s.updCore o.core (fun (x : Core) => { x with hback := wr x.hback e { gen := gen, op := some id } })
          let s2 := (s1.updOp id (fun (p : Op) => { p with handed := some e })).opFailed o
          -- the spec names no engine for a deferred atomic: a free value
          let (n, s3) := match o.job with
            | .amo _ => let p := s2.free; (fld p.1.toNat 0 8, p.2)
            | j => (j.engine, s2)
          .next (s3.post 100 (.messageArrival o.core (s3.handBackMsg o n e gen f)))

/-- A deferred atomic performed after its commit has issued it, in its turn (`QUIRE_UPDATE_AT_HOME` is its event); a
translation fault hands it back (16 R308). -/
def State.runAmo (s : State) (o : Op) (p : Posted) : State :=
  if o.handed.isSome ∨ !o.bad.isEmpty then s
  else if s.awaitsIssuer o ∨ (p.crosses o.core && !s.linked) then s.post 20 (.quireUpdateAtHome o.id)
  else match p.kind with
  | .amo fn y cmp =>
    match s.amoHome { core := o.core, asid := o.asid, eng := false } (p.cap.has .local) p.va fn.val y cmp true with
    | .failed f s1 => if f.cause = .translation then s1.opFault o f else (State.opErrors o 1 s s1).endOp o.id
    | .park ni win s1 => (s1.parkAmo o.core o.wid o.grid ni win p false).endOp o.id
    | .done _ _ s1 => s1.endOp o.id
  | _ => s.endOp o.id

/-- A deferred message leaves its NI in its turn, with the number, time and words that its commit gave it (16 R308). -/
def State.runMsg (s : State) (o : Op) (m : Msg) (dest : CoreId) : State :=
  if s.awaitsIssuer o then s.post 20 (.quireUpdateAtHome o.id) else (s.route dest m).endOp o.id

/-- What an operation does next after `xresume`. -/
def State.resumeOp (s : State) (o : Op) : State :=
  let s1 := s.updOp o.id (fun (p : Op) => { p with
    bad := [], handed := none, todo := p.bad.map (·.1) ++ p.todo, next := p.next + 1 })
  match o.job with
  | .copy .. | .move .. => s1.opGoOn o.id
  | .fill f => s1.post 100 (.arrayFillComplete f.cluster o.id)
  | .readout r => s1.post 100 (.readoutDrain r.cluster o.id)
  | .walk _ => s1.post 100 (.walkArrival o.id)
  | .quire _ => s1.post 100 (.quireUpdateAtHome o.id)
  | .tlbi .. => s1
  | .amo _ | .msg .. => s1.post 100 (.quireUpdateAtHome o.id)

end Sys2Proof.Machine
end

