-- ==== Sys2Proof/Machine/Copies.lean ====
section
/-! DEFINITION. Copies, moves between tiles, tokens (04 R119, R120; 07 R193-R197; 13 R265-R267). -/

namespace Sys2Proof.Machine

/-! ### get and give (R119) -/

/-- Whether some of the `n` bytes of an operand of a move lie off the issuing die: the other die or a peer package. -/
def State.offDie (s : State) (c : CVal) (n : Nat) : Bool :=
  !c.has .local && (decide (1 < df (c.addr + BitVec.ofNat 64 (n - 1)) 56 8) || offDieRange s.cur.1 c.addr n)

/-- Tag, permissions, alignment of 16 and bounds of an operand of a move, without the die. -/
def State.checkMove (s : State) (c : CVal) (ps : List Perm) (n : Nat) : Except Stop Unit :=
  s.checkAccess c ps c.addr n 16 true

/-- `get` and `give`: `n` bytes from the source to the destination, `n` given by the local operand. That the local operand's
tag and LOCAL and the length are checked first, and every check of the source before those of the destination, is the
model's choice: the spec gives no order across operands (log entry 69). -/
def moveData (g k : Fin 8) (a b : Fin 64) (fromB : Bool) (s : State) : Out :=
  issue g 4 s fun s => do
    s.engineFree
    let (x, s) ← s.useC a
    let (y, s) ← s.useC b
    let loc := if fromB then x else y
    need loc.tag .capt
    need (loc.has .local) .capp
    let n := (loc.top - loc.addr.toNat).toNat
    need (decide (n % 16 = 0 ∧ 16 ≤ n ∧ n ≤ 65536)) .ill
    s.checkMove y [.ld, .eng] n
    s.checkMove x [.st, .eng] n
    let cross := s.offDie x n || s.offDie y n
    pure (s.startOp (some k) (.move y x n cross) [{ row := 0, off := 0, len := n }] (fun id => .streamerPiece id 0))

/-- `get`: from remote c[b] to local c[a] (R119). -/
def execGet (g k : Fin 8) (a b : Fin 64) (s : State) : Out := moveData g k a b true s

/-- `give`: from local c[b] to remote c[a] (R119). -/
def execGive (g k : Fin 8) (a b : Fin 64) (s : State) : Out := moveData g k a b false s

/-! ### xcopy (R193-R195, R265-R267) -/

/-- The geometry as `xcopy` reads it. In slab mode the rows are the blocks. -/
def geoOf (x : Vector Dbl 7) : CopyGeo :=
  let r := fun (i : Fin 7) => (rd x i).toNat
  let ctl := r 4
  let mode := fld ctl 0 2
  { xlen := if mode = 2 then fld (r 5) 8 24 else r 0, rows := if mode = 0 then 1 else r 1
    spitch := (rd x 2).toInt, dpitch := (rd x 3).toInt, mode := mode, swz := fld ctl 2 2, oob1 := fld ctl 4 1 = 1
    tile := if fld ctl 5 1 = 1 then some (Fin.ofNat 8 (fld ctl 6 3)) else none, rect := r 5, trows := r 6 }

/-- Values that trap `ill` at issue (R193-R195, R265, R266). -/
def CopyGeo.bad (g : CopyGeo) (x : Vector Dbl 7) (dst : CVal) (ca : Fin 64) : Bool :=
  let ctl := (rd x 4).toNat
  let w := fld g.rect 0 4 + 1
  let h := fld g.rect 4 4 + 1
  let t0 := df dst.addr 47 9
  decide (512 ≤ ctl) || g.swz == 3 ||
  (g.mode != 2 && g.xlen == 0) ||
  (g.swz != 0 && (g.mode == 0 || g.mode == 2 || g.tile.isSome || g.xlen % (8 * g.unit) != 0)) ||
  (g.mode == 2 && (g.tile.isSome || dst.has .local || df dst.addr 56 8 != 1 || g.xlen == 0 || g.xlen % 16 != 0 ||
    decide (16 < t0 % 16 + w) || decide (12 < t0 % 256 / 16 + h))) ||
  (g.tile.isSome && (ca != 0 || (if g.mode = 0 then decide (4096 < g.xlen)
    else g.dpitch != 128 || decide (128 < g.xlen) || decide (32 < g.rows))))

/-- The ranges of the source that must be in bounds and on the die: each row, or the one run that the rows come from. -/
def CopyGeo.srcSpans (g : CopyGeo) (src : CVal) : List (Dbl × Nat) :=
  match g.mode with
  | 1 => (List.range g.rows).map (fun (i : Nat) => (addVa src.addr (i * g.spitch), g.xlen))
  | 2 => [(src.addr, g.rows * g.xlen)]
  | 3 => [(src.addr, g.trows * g.xlen)]
  | _ => [(src.addr, g.xlen)]

/-- The ranges of the destination: rows, or in slab mode each tile's blocks. -/
def CopyGeo.dstSpans (g : CopyGeo) (dst : CVal) : List (Dbl × Nat) :=
  match g.mode with
  | 1 | 3 => (List.range g.rows).map (fun (i : Nat) => (addVa dst.addr (i * g.dpitch), g.xlen))
  | 2 =>
    let n := (fld g.rect 0 4 + 1) * (fld g.rect 4 4 + 1)
    (List.range (min n g.rows)).map (fun k => (g.dstAt dst k 0, ((g.rows - 1 - k) / n + 1) * g.xlen))
  | _ => [(dst.addr, g.xlen)]

/-- The runs of source bytes that a copy's pieces are cut from: one where the rows abut, else each row (R261). -/
def CopyGeo.runs (g : CopyGeo) : List Piece :=
  if g.abut then [{ row := 0, off := 0, len := g.rows * g.xlen }]
  else (List.range g.rows).map (fun (i : Nat) => ({ row := i, off := 0, len := g.xlen } : Piece))

/-- Whether `n` bytes at `va` lie on the issuing die, and, where they have no region, are left to the error response. -/
def State.onDie (s : State) (c : CVal) (va : Dbl) (n : Nat) : Bool :=
  c.has .local || !offDieRange s.cur.1 va n

/-- `xcopy` (R194, R195). One into a tile register discards a read-out pending there (01 R27). -/
def execXcopy (g k : Fin 8) (a b : Fin 64) (s : State) : Out :=
  issue g 4 s fun s => do
    s.engineFree
    let (dst, s) ← s.useC a
    let (src, s) ← s.useC b
    let x := s.me.xgeo
    let geo := geoOf x
    need (!geo.bad x dst a) .ill
    need (src.tag && (geo.tile.isSome || dst.tag)) .capt
    need (src.hasAll [.ld, .eng] && (geo.tile.isSome || dst.hasAll [.st, .eng])) .capp
    match geo.tile with
    | some t => need ((rd s.myCore.t t).holder == some s.cur.2) .tile
    | none => pure ()
    let ss := geo.srcSpans src
    let ds := if geo.tile.isSome then [] else geo.dstSpans dst
    need (ss.all (fun p => src.inBounds p.1.toNat p.2) && ds.all (fun p => dst.inBounds p.1.toNat p.2)) .capb
    need (ss.all (fun p => s.onDie src p.1 p.2) && ds.all (fun p => s.onDie dst p.1 p.2)) .xdie
    let todo := geo.runs
    let s := match geo.tile with
      | some t => s.updMe (fun (y : Strand) => y.dropWin (.t t))
      | none => s
    if geo.mode = 3 then
      let r := s.newOp (some k) (.copy geo src dst none) todo
      pure (r.2.updMe (fun y => { y with await := some r.1 }))
    else pure (s.startOp (some k) (.copy geo src dst none) todo (fun id => .streamerPiece id 0))

/-- `xresume`: a handed-back remainder goes on (R197). -/
def execXresume (g : Fin 8) (b : Fin 64) (s : State) : Out :=
  issue g 4 s fun s => do
    need s.me.await.isNone .ill
    let (h, s) ← s.useX b
    let i : Fin 16 := Fin.ofNat 16 (df h 0 4)
    let e := rd s.myCore.hback i
    match e.op.bind s.op with
    | none => throw (.t .ill)
    | some o =>
      need (decide (e.gen.toNat = df h 16 16) && o.asid == s.me.asid) .ill
      let s := s.updCore s.cur.1 (fun (x : Core) => { x with hback := wr x.hback i { gen := e.gen, op := none } })
      pure (s.resumeOp o)

/-! ### Geometry registers and tokens (R193, R196) -/

/-- Whether a value is within a copy-geometry register's limits (R193). -/
def xgeoOk (i : Nat) (v : Dbl) : Bool :=
  match i with
  | 0 => decide (v.toNat < 2 ^ 32)
  | 1 => decide (1 ≤ v.toNat) && decide (v.toNat ≤ 65536)
  | 4 => decide (v.toNat < 512) && fld v.toNat 2 2 != 3
  | 5 => decide (v.toNat < 2 ^ 32)
  | _ => true

/-- `xgeo` (R193). -/
def execXgeo (g : Fin 8) (d a : Fin 64) (s : State) : Out :=
  issue g 4 s fun s => do
    let (v, s) ← s.useX a
    if h : d.val < 7 then
      need (xgeoOk d.val v) .ill
      pure (s.updMe (fun x => { x with xgeo := wr x.xgeo ⟨d.val, h⟩ v }))
    else throw (.t .ill)

/-- `ttest` (R196). -/
def execTtest (g : Fin 8) (d : Fin 64) (k : Fin 8) (b : Fin 64) (s : State) : Out :=
  issue g 4 s fun s => do
    let (y, s) ← s.useX b
    let t := rd s.me.tok k
    let hb := s.hbackOf s.cur.1 s.me.work.wid k
    let v := BitVec.ofNat 128 (t.word hb)
    let s := if y.getLsbD 0 then s.updMe (fun x => { x with tok := wr x.tok k { Token.zero with out := t.out } }) else s
    s.putC d (.plain v)

/-- `twait` (R196). -/
def execTwait (g : Fin 8) (m : Fin 256) (s : State) : Out :=
  issue g 4 s fun s =>
    if (List.finRange 8).all (fun k => fld m.val k.val 1 == 0 || (rd s.me.tok k).out == 0) then .ok s
    else .error (.wait s)

end Sys2Proof.Machine
end

