-- ==== Sys2Proof/Machine/Vector.lean ====
section
/-! DEFINITION. Vector instructions but for spike output (05_vector_and_neurons.md R123-R146; 02 R51-R64). -/

namespace Sys2Proof.Machine

/-! ### Lanes and masks (R123, R124) -/

/-- The lanes of `w` bits of a v register, lowest first (01 R13). -/
def lanesOf (w : Nat) (v : VReg) : List Nat := (List.range (1024 / w)).map (fun i => fld v.toNat (w * i) w)

/-- A number from elements of `w` bits packed from bit 0 up (02 R39). -/
def packBits (w : Nat) : List Nat → Nat
  | [] => 0
  | x :: xs => x % 2 ^ w + 2 ^ w * packBits w xs

/-- A v register from its lanes. -/
def vOfLanes (w : Nat) (l : List Nat) : VReg := BitVec.ofNat 1024 (packBits w l)

/-- What masked-off lanes of a destination keep: its old value; zero in a push to v30 (R123). -/
def State.keepLanes (s : State) (d : Fin 32) : VReg := if 30 ≤ d.val then 0 else rd s.me.v d

/-- Results with their flags, laid over old lanes where the mask is on; flags of masked-off lanes are not raised. -/
def masked (m : Quad) (old : List Nat) (new : List (Nat × Nat)) : List Nat × Nat :=
  let zs := (old.zip new).zipIdx
  (zs.map (fun p => if m.getLsbD p.2 then p.1.2.1 else p.1.1),
   flags (zs.map (fun p => if m.getLsbD p.2 then p.1.2.2 else 0)))

/-- A two-operand lane operation under a mask, lanes of `w` bits. -/
def vector2 (w : Nat) (g : Fin 8) (d a b : Fin 32) (m : Fin 8) (f : Nat → Nat → Nat × Nat) (s : State) : Out :=
  issue g 4 s fun s => do
    let (x, s) ← s.useV a
    let (y, s) ← s.useV b
    let r := masked (s.me.mask m) (lanesOf w (s.keepLanes d))
      (((lanesOf w x).zip (lanesOf w y)).map (fun p => f p.1 p.2))
    (s.raise r.2).putV d (vOfLanes w r.1)

/-! ### Integer lanes (R127) -/

/-- Lane width of the integer majors. -/
def laneWidth (w : Fin 4) : Nat := match w.val with | 0 => 32 | 1 => 16 | _ => 8

/-- An integer lane operation, no flags. -/
def vectorInt (g : Fin 8) (w : Fin 4) (d a b : Fin 32) (m : Fin 8) (f : Nat → Nat → Nat → Nat) (s : State) : Out :=
  vector2 (laneWidth w) g d a b m (fun x y => (f (laneWidth w) x y % 2 ^ laneWidth w, 0)) s

/-- The smaller and the larger of two lanes, signed. -/
def minS (w x y : Nat) : Nat := if sint w x ≤ sint w y then x else y
def maxS (w x y : Nat) : Nat := if sint w x ≤ sint w y then y else x

/-- `vadd` on integer lanes (R127). -/
def execVaddInt (g : Fin 8) (w : Fin 4) (d a b : Fin 32) (m : Fin 8) (s : State) : Out :=
  vectorInt g w d a b m (fun _ x y => x + y) s

/-- `vsub` on integer lanes (R127). -/
def execVsubInt (g : Fin 8) (w : Fin 4) (d a b : Fin 32) (m : Fin 8) (s : State) : Out :=
  vectorInt g w d a b m (fun w x y => x + 2 ^ w - y) s

/-- `vmul` on integer lanes (R127). -/
def execVmulInt (g : Fin 8) (w : Fin 4) (d a b : Fin 32) (m : Fin 8) (s : State) : Out :=
  vectorInt g w d a b m (fun _ x y => x * y) s

/-- `vmin` on integer lanes (R127). -/
def execVminInt (g : Fin 8) (w : Fin 4) (d a b : Fin 32) (m : Fin 8) (s : State) : Out :=
  vectorInt g w d a b m minS s

/-- `vmax` on integer lanes (R127). -/
def execVmaxInt (g : Fin 8) (w : Fin 4) (d a b : Fin 32) (m : Fin 8) (s : State) : Out :=
  vectorInt g w d a b m maxS s

/-- `vand` on integer lanes (R127). -/
def execVand (g : Fin 8) (w : Fin 4) (d a b : Fin 32) (m : Fin 8) (s : State) : Out :=
  vectorInt g w d a b m (fun _ x y => Nat.land x y) s

/-- `vor` on integer lanes (R127). -/
def execVor (g : Fin 8) (w : Fin 4) (d a b : Fin 32) (m : Fin 8) (s : State) : Out :=
  vectorInt g w d a b m (fun _ x y => Nat.lor x y) s

/-- `vxor` on integer lanes (R127). -/
def execVxor (g : Fin 8) (w : Fin 4) (d a b : Fin 32) (m : Fin 8) (s : State) : Out :=
  vectorInt g w d a b m (fun _ x y => Nat.xor x y) s

/-- `vshl` on integer lanes (R127). -/
def execVshl (g : Fin 8) (w : Fin 4) (d a b : Fin 32) (m : Fin 8) (s : State) : Out :=
  vectorInt g w d a b m (fun w x y => x * 2 ^ (y % w)) s

/-- `vshr` on integer lanes (R127). -/
def execVshr (g : Fin 8) (w : Fin 4) (d a b : Fin 32) (m : Fin 8) (s : State) : Out :=
  vectorInt g w d a b m (fun w x y => x / 2 ^ (y % w)) s

/-- `vshr.a` on integer lanes (R127). -/
def execVshrA (g : Fin 8) (w : Fin 4) (d a b : Fin 32) (m : Fin 8) (s : State) : Out :=
  vectorInt g w d a b m (fun w x y => intCode w (sint w x / 2 ^ (y % w))) s

/-! ### Floating-point lanes (R125, R128) -/

/-- A floating-point lane operation, rounded by RNE. -/
def vectorFloat (f : Fmt) (g : Fin 8) (d a b : Fin 32) (m : Fin 8) (op : FVal → FVal → FVal × Nat) (s : State) : Out :=
  vector2 f.bits g d a b m (fun x y => finish f (op (f.decode x).1 (f.decode y).1)) s

/-- `vfma`: the old lanes of vd take part, read after va and vb (R124, R128). -/
def vectorFma (f : Fmt) (g : Fin 8) (d a b : Fin 32) (m : Fin 8) (s : State) : Out :=
  issue g 4 s fun s => do
    let (x, s) ← s.useV a
    let (y, s) ← s.useV b
    let (z, s) ← s.useV d
    let new := ((lanesOf f.bits z).zip ((lanesOf f.bits x).zip (lanesOf f.bits y))).map (fun p =>
      finish f (fFma (f.decode p.1).1 (f.decode p.2.1).1 (f.decode p.2.2).1))
    let r := masked (s.me.mask m) (lanesOf f.bits z) new
    (s.raise r.2).putV d (vOfLanes f.bits r.1)

/-- `vadd.f32` (R128). -/
def execVaddF32 (g : Fin 8) (d a b : Fin 32) (m : Fin 8) (s : State) : Out :=
  vectorFloat .f32 g d a b m fAdd s

/-- `vsub.f32` (R128). -/
def execVsubF32 (g : Fin 8) (d a b : Fin 32) (m : Fin 8) (s : State) : Out :=
  vectorFloat .f32 g d a b m (fun x y => fAdd x y.negate) s

/-- `vmul.f32` (R128). -/
def execVmulF32 (g : Fin 8) (d a b : Fin 32) (m : Fin 8) (s : State) : Out :=
  vectorFloat .f32 g d a b m fMul s

/-- `vmin.f32` (R128). -/
def execVminF32 (g : Fin 8) (d a b : Fin 32) (m : Fin 8) (s : State) : Out :=
  vectorFloat .f32 g d a b m (fMinMax false) s

/-- `vmax.f32` (R128). -/
def execVmaxF32 (g : Fin 8) (d a b : Fin 32) (m : Fin 8) (s : State) : Out :=
  vectorFloat .f32 g d a b m (fMinMax true) s

/-- `vfma.f32` (R128). -/
def execVfmaF32 (g : Fin 8) (d a b : Fin 32) (m : Fin 8) (s : State) : Out :=
  vectorFma .f32 g d a b m s

/-- `vadd.f16` (R128). -/
def execVaddF16 (g : Fin 8) (d a b : Fin 32) (m : Fin 8) (s : State) : Out :=
  vectorFloat .f16 g d a b m fAdd s

/-- `vsub.f16` (R128). -/
def execVsubF16 (g : Fin 8) (d a b : Fin 32) (m : Fin 8) (s : State) : Out :=
  vectorFloat .f16 g d a b m (fun x y => fAdd x y.negate) s

/-- `vmul.f16` (R128). -/
def execVmulF16 (g : Fin 8) (d a b : Fin 32) (m : Fin 8) (s : State) : Out :=
  vectorFloat .f16 g d a b m fMul s

/-- `vmin.f16` (R128). -/
def execVminF16 (g : Fin 8) (d a b : Fin 32) (m : Fin 8) (s : State) : Out :=
  vectorFloat .f16 g d a b m (fMinMax false) s

/-- `vmax.f16` (R128). -/
def execVmaxF16 (g : Fin 8) (d a b : Fin 32) (m : Fin 8) (s : State) : Out :=
  vectorFloat .f16 g d a b m (fMinMax true) s

/-- `vfma.f16` (R128). -/
def execVfmaF16 (g : Fin 8) (d a b : Fin 32) (m : Fin 8) (s : State) : Out :=
  vectorFma .f16 g d a b m s

/-- `vadd.bf16` (R128). -/
def execVaddBf16 (g : Fin 8) (d a b : Fin 32) (m : Fin 8) (s : State) : Out :=
  vectorFloat .bf16 g d a b m fAdd s

/-- `vsub.bf16` (R128). -/
def execVsubBf16 (g : Fin 8) (d a b : Fin 32) (m : Fin 8) (s : State) : Out :=
  vectorFloat .bf16 g d a b m (fun x y => fAdd x y.negate) s

/-- `vmul.bf16` (R128). -/
def execVmulBf16 (g : Fin 8) (d a b : Fin 32) (m : Fin 8) (s : State) : Out :=
  vectorFloat .bf16 g d a b m fMul s

/-- `vmin.bf16` (R128). -/
def execVminBf16 (g : Fin 8) (d a b : Fin 32) (m : Fin 8) (s : State) : Out :=
  vectorFloat .bf16 g d a b m (fMinMax false) s

/-- `vmax.bf16` (R128). -/
def execVmaxBf16 (g : Fin 8) (d a b : Fin 32) (m : Fin 8) (s : State) : Out :=
  vectorFloat .bf16 g d a b m (fMinMax true) s

/-- `vfma.bf16` (R128). -/
def execVfmaBf16 (g : Fin 8) (d a b : Fin 32) (m : Fin 8) (s : State) : Out :=
  vectorFma .bf16 g d a b m s

/-! ### Compare, select, permute, compress, expand, merge (R131-R134) -/

/-- The condition of `vcmp` on two lanes, with its flag (01 R33; R131). -/
def vcond (t c x y : Nat) : Bool × Nat :=
  if t = 0 then
    match c with
    | 0 => (x == y, 0)
    | 1 => (x != y, 0)
    | 2 => (decide (sint 32 x < sint 32 y), 0)
    | 3 => (decide (sint 32 x ≤ sint 32 y), 0)
    | 4 => (decide (x < y), 0)
    | _ => (decide (x ≤ y), 0)
  else fcond (if c = 6 then 4 else c) (Fmt.f32.decode x).1 (Fmt.f32.decode y).1

/-- A number from bits, lowest first. -/
def ofBits (l : List Bool) : Nat := packBits 1 (l.map (fun b => if b then 1 else 0))

/-- `vcmp`; destination m0 discards result and flags (R131). -/
def execVcmp (g d : Fin 8) (a b : Fin 32) (m : Fin 8) (t : Fin 2) (c : Fin 8) (s : State) : Out :=
  issue g 4 s fun s => do
    let (x, s) ← s.useV a
    let (y, s) ← s.useV b
    let q := s.me.mask m
    let r := ((lanesOf 32 x).zip (lanesOf 32 y)).zipIdx.map (fun p =>
      if q.getLsbD p.2 then vcond t.val c.val p.1.1 p.1.2 else (false, 0))
    if d = 0 then pure s
    else pure ((s.raise (flags (r.map (·.2)))).putM d (BitVec.ofNat 128 (ofBits (r.map (·.1)))))

/-- `vsel`: every lane is written (R132). -/
def execVsel (g : Fin 8) (d a b : Fin 32) (m : Fin 8) (s : State) : Out :=
  issue g 4 s fun s => do
    let (x, s) ← s.useV a
    let (y, s) ← s.useV b
    let q := s.me.mask m
    s.putV d (ofLanes32 (fun i => if q.getLsbD i then lane32 x i else lane32 y i))

/-- `vperm` (R132). -/
def execVperm (g : Fin 8) (d a b : Fin 32) (m : Fin 8) (s : State) : Out :=
  issue g 4 s fun s => do
    let (x, s) ← s.useV a
    let (y, s) ← s.useV b
    let q := s.me.mask m
    let old := s.keepLanes d
    s.putV d (ofLanes32 (fun i =>
      if q.getLsbD i then (let j := (lane32 y i).toNat; if j < 32 then lane32 x j else 0) else lane32 old i))

/-- `vcomp` (R133). -/
def execVcomp (g : Fin 8) (d a : Fin 32) (m : Fin 8) (s : State) : Out :=
  issue g 4 s fun s => do
    let (x, s) ← s.useV a
    let l := (onLanes (s.me.mask m)).map (lane32 x)
    s.putV d (ofLanes32 (fun i => (l[i]?).getD 0))

/-- `vexpd` (R133). -/
def execVexpd (g : Fin 8) (d a : Fin 32) (m : Fin 8) (s : State) : Out :=
  issue g 4 s fun s => do
    let (x, s) ← s.useV a
    let on := onLanes (s.me.mask m)
    let old := s.keepLanes d
    s.putV d (ofLanes32 (fun i => match on.findIdx? (· == i) with
      | some k => lane32 x k
      | none => lane32 old i))

/-- The sum of two values in a merge, and its flags. -/
def mergeAdd (int : Bool) (x y : Word) : Word × Nat :=
  if int then (x + y, 0)
  else
    let r := finish .f32 (fAdd (Fmt.f32.decode x.toNat).1 (Fmt.f32.decode y.toNat).1)
    (BitVec.ofNat 32 r.1, r.2)

/-- The index that ends a list. -/
def listEnd : Word := BitVec.allOnes 32

/-- The walk of R134: the entries put out, in order, and the flags. -/
def mergeWalk (za z int : Bool) (x y : VReg) : Nat → Nat → Nat → List (Word × Word) × Nat
  | 0, _, _ => ([], 0)
  | fuel + 1, i, j =>
    let ia := if i < 16 then lane32 x i else listEnd
    let ib := if j < 16 then lane32 y j else listEnd
    if ia = listEnd ∧ ib = listEnd then ([], 0)
    else
      let isZero := fun (w : Word) => if int then w == 0 else (Fmt.f32.decode w.toNat).1.isZero
      let emit := fun (idx val : Word) (summed : Bool) (fl : Nat) (rest : List (Word × Word) × Nat) =>
        (if (z && summed && isZero val) || (za && isZero val) then rest.1 else (idx, val) :: rest.1, Nat.lor fl rest.2)
      if ia.toNat < ib.toNat then emit ia (lane32 x (16 + i)) false 0 (mergeWalk za z int x y fuel (i + 1) j)
      else if ib.toNat < ia.toNat then emit ib (lane32 y (16 + j)) false 0 (mergeWalk za z int x y fuel i (j + 1))
      else
        let r := mergeAdd int (lane32 x (16 + i)) (lane32 y (16 + j))
        emit ia r.1 true r.2 (mergeWalk za z int x y fuel (i + 1) (j + 1))

/-- `vmerge`; `o` holds the options .z, .za and .i (R134). -/
def execVmerge (g : Fin 8) (d a b : Fin 32) (o : Fin 8) (s : State) : Out :=
  issue g 4 s fun s => do
    let (x, s) ← s.useV a
    let (y, s) ← s.useV b
    let r := mergeWalk (fld o.val 1 1 == 1) (fld o.val 0 1 == 1) (fld o.val 2 1 == 1) x y 33 0 0
    let s ← (s.raise r.2).putV d (ofLanes32 (fun i => ((r.1[i]?).map (·.1)).getD listEnd))
    s.putV (Fin.ofNat 32 (d.val + 1)) (ofLanes32 (fun i => ((r.1[i]?).map (·.2)).getD 0))

/-! ### Long vector operations: lookahead (R126; 01 R27) -/

/-- A result and its flags, visible at once or after a window of `l` slots; FFLAGS with it (R125). -/
def State.putLong (s : State) (d : Fin 32) (l : Nat) (v : VReg) (fl : Nat) : Except Stop State :=
  if l = 0 then (s.raise fl).putV d v
  else if 30 ≤ d.val then .error (.t .ill)
  else .ok (s.openWin (.v d) l { kind := .none, cap := .null, va := 0, n := 0 } (.value v false fl)).2

/-- A one-operand lane function of a VL major. -/
def longUnary (f : Fmt) (g : Fin 8) (d a : Fin 32) (m : Fin 8) (l : Fin 16) (op : FVal → FVal × Nat) (s : State) : Out :=
  issue g 4 s fun s => do
    let (x, s) ← s.useV a
    let r := masked (s.me.mask m) (lanesOf f.bits (s.keepLanes d))
      ((lanesOf f.bits x).map (fun c => finish f (op (f.decode c).1)))
    s.putLong d l.val (vOfLanes f.bits r.1) r.2

/-- Lane format of the unary functions: F32, or F16 (R130). -/
def longFmt (t : Fin 2) : Fmt := if t = 0 then .f32 else .f16

/-- `vsqrt` (R130). -/
def execVsqrt (g : Fin 8) (d a : Fin 32) (m : Fin 8) (l : Fin 16) (t : Fin 2) (s : State) : Out :=
  longUnary (longFmt t) g d a m l fSqrt s

/-- `vexp2` (R130). -/
def execVexp2 (g : Fin 8) (d a : Fin 32) (m : Fin 8) (l : Fin 16) (t : Fin 2) (s : State) : Out :=
  longUnary (longFmt t) g d a m l fExp2 s

/-- `vlog2` (R130). -/
def execVlog2 (g : Fin 8) (d a : Fin 32) (m : Fin 8) (l : Fin 16) (t : Fin 2) (s : State) : Out :=
  longUnary (longFmt t) g d a m l fLog2 s

/-- `vrcp` (R130). -/
def execVrcp (g : Fin 8) (d a : Fin 32) (m : Fin 8) (l : Fin 16) (t : Fin 2) (s : State) : Out :=
  longUnary (longFmt t) g d a m l (fDiv (.fin false 1 0)) s

/-- `vdiv` (R129). -/
def longDiv (f : Fmt) (g : Fin 8) (d a : Fin 32) (m : Fin 8) (l : Fin 16) (b : Fin 32) (s : State) : Out :=
  issue g 4 s fun s => do
    let (x, s) ← s.useV a
    let (y, s) ← s.useV b
    let r := masked (s.me.mask m) (lanesOf f.bits (s.keepLanes d))
      (((lanesOf f.bits x).zip (lanesOf f.bits y)).map (fun p => finish f (fDiv (f.decode p.1).1 (f.decode p.2).1)))
    s.putLong d l.val (vOfLanes f.bits r.1) r.2

/-- `vdiv.f32` (R129). -/
def execVdivF32 (g : Fin 8) (d a : Fin 32) (m : Fin 8) (l : Fin 16) (b : Fin 32) (s : State) : Out :=
  longDiv .f32 g d a m l b s

/-- `vdiv.f16` (R129). -/
def execVdivF16 (g : Fin 8) (d a : Fin 32) (m : Fin 8) (l : Fin 16) (b : Fin 32) (s : State) : Out :=
  longDiv .f16 g d a m l b s

/-! ### Reduction and scan (R135, R136; 02 R61) -/

/-- Operations of a reduction. -/
inductive RedOp where
  | add | min | max | or | xor
  deriving DecidableEq, Repr

/-- Operation and lane format of a code (R135). -/
def redCode (f : Nat) : RedOp × Fmt :=
  let op : Nat → RedOp := fun i => match i with | 0 => .add | 1 => .min | _ => .max
  if f < 3 then (op f, .f32)
  else if f < 6 then (op (f - 3), .f16)
  else if f < 9 then (op (f - 6), .bf16)
  else if f < 12 then (op (f - 9), .i32)
  else if f = 12 then (.or, .i32)
  else if f = 13 then (.xor, .i32)
  else if f < 17 then (op (f - 14), .i16)
  else (op (f - 17), .i8)

/-- One node of the tree: its code and the flags under it. -/
def redNode (op : RedOp) (f : Fmt) (x y : Nat × Nat) : Nat × Nat :=
  let fl := Nat.lor x.2 y.2
  let r : Nat × Nat := match f.float with
    | some _ =>
      let a := (f.decode x.1).1
      let b := (f.decode y.1).1
      finish f (match op with
        | .min => fMinMax false a b
        | .max => fMinMax true a b
        | _ => fAdd a b)
    | none =>
      let w := f.bits
      (match op with
        | .add => (x.1 + y.1) % 2 ^ w
        | .min => minS w x.1 y.1
        | .max => maxS w x.1 y.1
        | .or => Nat.lor x.1 y.1
        | .xor => Nat.xor x.1 y.1, 0)
  (r.1, Nat.lor fl r.2)

/-- What a masked-off lane enters as (R61). -/
def redIdentity (op : RedOp) (f : Fmt) : Nat :=
  match f.float with
  | some ff => match op with
    | .min => ff.infCode
    | .max => ff.signed true ff.infCode
    | _ => ff.signed true 0
  | none => match op with
    | .min => 2 ^ (f.bits - 1) - 1
    | .max => 2 ^ (f.bits - 1)
    | _ => 0

/-- Neighbours combined in pairs. -/
def pairUp (n : Nat × Nat → Nat × Nat → Nat × Nat) : List (Nat × Nat) → List (Nat × Nat)
  | x :: y :: l => n x y :: pairUp n l
  | l => l

/-- The levels of the tree, lanes first. -/
def redLevels (n : Nat × Nat → Nat × Nat → Nat × Nat) : Nat → List (Nat × Nat) → List (List (Nat × Nat))
  | 0, l => [l]
  | k + 1, l => l :: redLevels n k (pairUp n l)

/-- Levels above the lanes: 5, 6 or 7. -/
def redDepth (f : Fmt) : Nat := if f.bits = 32 then 5 else if f.bits = 16 then 6 else 7

/-- The lanes as they enter. -/
def redLanes (op : RedOp) (f : Fmt) (m : Quad) (v : VReg) : List (Nat × Nat) :=
  (lanesOf f.bits v).zipIdx.map (fun p => if m.getLsbD p.2 then (p.1, 0) else (redIdentity op f, 0))

/-- `vred` (R135). -/
def execVred (g : Fin 8) (d a : Fin 32) (m : Fin 8) (l : Fin 16) (f : Fin 32) (s : State) : Out :=
  issue g 4 s fun s => do
    let (x, s) ← s.useV a
    let c := redCode f.val
    let ls := redLevels (redNode c.1 c.2) (redDepth c.2) (redLanes c.1 c.2 (s.me.mask m) x)
    let r := ((ls.getLast?.bind List.head?)).getD (0, 0)
    s.putLong d l.val (BitVec.ofNat 1024 r.1) r.2

/-- The prefix of lanes 0 to `i`, from the levels (R136). -/
def scanLane (n : Nat × Nat → Nat × Nat → Nat × Nat) (ls : List (List (Nat × Nat))) (i : Nat) :
    Nat → Nat → Option (Nat × Nat) → Nat × Nat
  | 0, _, acc => acc.getD (0, 0)
  | b + 1, lo, acc =>
    if fld (i + 1) b 1 = 1 then
      let node := ((ls[b]?).bind (fun l => l[lo / 2 ^ b]?)).getD (0, 0)
      scanLane n ls i b (lo + 2 ^ b) (some (match acc with | none => node | some x => n x node))
    else scanLane n ls i b lo acc

/-- A lane's code with any NaN made canonical (02 R43; R125). -/
def canonLane (f : Fmt) (c : Nat) : Nat :=
  match (f.decode c).1 with
  | .nan _ => f.nanCode
  | _ => c

/-- `vscan` (R136). -/
def execVscan (g : Fin 8) (d a : Fin 32) (m : Fin 8) (l : Fin 16) (f : Fin 32) (s : State) : Out :=
  issue g 4 s fun s => do
    let (x, s) ← s.useV a
    let c := redCode f.val
    let n := redNode c.1 c.2
    let ls := redLevels n (redDepth c.2) (redLanes c.1 c.2 (s.me.mask m) x)
    let r := (List.range (1024 / c.2.bits)).map (fun i => scanLane n ls i (redDepth c.2 + 1) 0 none)
    s.putLong d l.val (vOfLanes c.2.bits (r.map (fun p => canonLane c.2 p.1))) (flags (r.map (·.2)))

/-! ### Conversion (R137-R140) -/

/-- Formats of `vcvt`, in fn order. -/
def cvtTo : List Fmt := [.f19, .bf16, .f16, .e4m3, .e5m2, .e3m2, .e2m3, .e2m1, .i32, .i16, .i8, .i4, .n8, .n4, .t2, .b1]
def cvtBlock : List Fmt := [.d4, .d8, .d16, .d24]
def cvtFrom : List Fmt := [.bf16, .f16, .e4m3, .e5m2, .i32, .i16, .i8]

/-- The first 32 elements of `w` bits of a v register. -/
def elems (w : Nat) (v : VReg) : List Nat := (List.range 32).map (fun i => fld v.toNat (w * i) w)

/-- Generator draws for 32 lanes. -/
def draws (st : Quad) : List Nat := (List.range 32).map (genDraw st)

/-- Conversion into a packed format (R138, R139). -/
def cvtNarrow (f : Fmt) (mode : RMode) (st : Quad) (m : Quad) (x old : VReg) : VReg × Nat :=
  let new := ((elems 32 x).zip (draws st)).map (fun p => roundTo f (Fmt.f32.decode p.1).1 mode p.2)
  let r := masked m (elems f.bits old) new
  (BitVec.ofNat 1024 (packBits f.bits r.1), r.2)

/-- Conversion into F32 of values (R138, R139). -/
def cvtWiden (vals : List FVal) (mode : RMode) (st : Quad) (m : Quad) (old : VReg) : VReg × Nat :=
  let new := (vals.zip (draws st)).map (fun p => roundTo .f32 p.1 mode p.2)
  let r := masked m (elems 32 old) new
  (BitVec.ofNat 1024 (packBits 32 r.1), r.2)

/-- A sub-block as a v register holds it: elements, block scale, header byte (R140). -/
def subBlock (n : Nat) (codes : List Nat) (scale hdr : Nat) : VReg :=
  BitVec.ofNat 1024 (packBits (n + 2) codes + 2 ^ 1008 * (scale % 256) + 2 ^ 1016 * (hdr % 256))

/-- Conversion into a D-format with the block scale of CVRM (R140). -/
def cvtIntoBlock (n bscale : Nat) (mode : RMode) (st : Quad) (x : VReg) : VReg × Nat :=
  let vals := (elems 32 x).map (fun c => (Fmt.f32.decode c).1)
  if bscale = 255 ∨ vals.any (fun v => v.isNan || v.isInf) then (subBlock n [] 255 0, flagIf (bscale != 255) NV)
  else
    let (ea, eb, codes, fl) := dSub bscale n (vals.zip (draws st)) mode
    (subBlock n codes bscale (ea + 16 * eb), fl)

/-- Values of a sub-block in a v register (R140, 02 R47). -/
def blockVals (n : Nat) (x : VReg) : List FVal :=
  let h : DHdr := { s := fld x.toNat 1008 8, ea := [fld x.toNat 1016 4], eb := [fld x.toNat 1020 4], ver := 0 }
  (elems (n + 2) x).map (dValue h 0 n)

/-- `vcvt.lexp.f32` of a lane (R138). -/
def lexp (c : Nat) : Int :=
  match (Fmt.f32.decode c).1 with
  | .fin _ m e => if m = 0 then -32768 else leadExp m e
  | _ => 32767

/-- The result of a `vcvt` and its flags. -/
def cvtResult (f : Nat) (mode : RMode) (bscale : Nat) (st m : Quad) (x old : VReg) : VReg × Nat :=
  if f < 16 then cvtNarrow ((cvtTo[f]?).getD .f19) mode st m x old
  else if f < 20 then cvtIntoBlock ((((cvtBlock[f - 16]?).getD .d4).dBits).getD 2) bscale mode st x
  else if f < 27 then
    let t := (cvtFrom[f - 20]?).getD .bf16
    cvtWiden ((elems t.bits x).map (fun c => (t.decode c).1)) mode st m old
  else if f < 31 then cvtWiden (blockVals ((((cvtBlock[f - 27]?).getD .d4).dBits).getD 2) x) mode st m old
  else
    let r := masked m (elems 32 old) ((elems 32 x).map (fun c => (intCode 32 (lexp c), 0)))
    (BitVec.ofNat 1024 (packBits 32 r.1), r.2)

/-- `vcvt`: CVRM gives the mode; a mode of SR takes 32 values from SRGEN (R137, R138). -/
def execVcvt (g : Fin 8) (d a : Fin 32) (m : Fin 8) (l : Fin 16) (f : Fin 32) (s : State) : Out :=
  issue g 4 s fun s => do
    let (x, s) ← s.useV a
    match RMode.ofCode (df s.me.cvrm 0 3) with
    | none => throw (.t .ill)
    | some mode =>
      let st := s.me.srgen
      let r := cvtResult f.val mode (df s.me.cvrm 8 8) st (s.me.mask m) x (s.keepLanes d)
      let s := if mode = .sr then s.updMe (fun y => { y with srgen := genAdvance st 32 }) else s
      s.putLong d l.val r.1 r.2

/-! ### Moves, broadcast, generator, block sums (R141-R144) -/

/-- `mov.vc` (R141). -/
def execMovVc (g : Fin 8) (d : Fin 32) (c : Fin 64) (q : Fin 8) (s : State) : Out :=
  issue g 4 s fun s => do
    need (decide (d.val < 30)) .ill
    let (x, s) ← s.useC c
    let hole := (BitVec.allOnes 128).setWidth 1024 <<< (128 * q.val)
    s.putV d ((rd s.me.v d &&& ~~~hole) ||| (x.val.setWidth 1024 <<< (128 * q.val)))

/-- `mov.cv` (R141). -/
def execMovCv (g : Fin 8) (a : Fin 32) (c : Fin 64) (q : Fin 8) (s : State) : Out :=
  issue g 4 s fun s => do
    need (decide (a.val < 30)) .ill
    s.putC c (.plain ((rd s.me.v a >>> (128 * q.val)).setWidth 128))

/-- `mov.mc` (R141). -/
def execMovMc (g d : Fin 8) (c : Fin 64) (s : State) : Out :=
  issue g 4 s fun s => do
    let (x, s) ← s.useC c
    pure (s.putM d x.val)

/-- `mov.cm` (R141). -/
def execMovCm (g a : Fin 8) (c : Fin 64) (s : State) : Out :=
  issue g 4 s fun s => s.putC c (.plain (s.me.mask a))

/-- `vbcast` (R142). -/
def execVbcast (g : Fin 8) (d : Fin 32) (c : Fin 64) (m : Fin 8) (s : State) : Out :=
  issue g 4 s fun s => do
    let (x, s) ← s.useX c
    let q := s.me.mask m
    let old := s.keepLanes d
    s.putV d (ofLanes32 (fun i => if q.getLsbD i then x.setWidth 32 else lane32 old i))

/-- Lanes drawn from the generator state in a c register, and the state written back advanced (R143, 02 R62, R63). -/
def draw (g : Fin 8) (d : Fin 32) (c : Fin 64) (m : Fin 8) (f : Word → Word) (s : State) : Out :=
  issue g 4 s fun s => do
    need (decide (c.val < 60)) .ill
    let st := (s.me.creg c).val
    let q := s.me.mask m
    let old := s.keepLanes d
    let s ← s.putV d (ofLanes32 (fun i => if q.getLsbD i then f (genLane st i) else lane32 old i))
    s.putC c (.plain (genAdvance st 32))

/-- `vrnd` (R143). -/
def execVrnd (g : Fin 8) (d : Fin 32) (c : Fin 64) (m : Fin 8) (s : State) : Out := draw g d c m (fun w => w) s

/-- (w >> 8)·2^-24 in F32 (02 R63). -/
def unitFloat (w : Word) : Word := BitVec.ofNat 32 (roundTo .f32 (.fin false (w.toNat / 256) (-24)) .rne).1

/-- `vrndf` (R143). -/
def execVrndf (g : Fin 8) (d : Fin 32) (c : Fin 64) (m : Fin 8) (s : State) : Out := draw g d c m unitFloat s

/-- Lane format of `vbsum` (R144). -/
def bsumFmt (t : Nat) : Fmt := match t with | 0 => .f32 | 1 => .f16 | _ => .bf16

/-- `vbsum` (R144, 02 R59). -/
def execVbsum (g : Fin 8) (t a : Fin 32) (c : Fin 64) (m : Fin 8) (s : State) : Out :=
  issue g 4 s fun s => do
    let (x, s) ← s.useV a
    let f := bsumFmt t.val
    let q := s.me.mask m
    let on := ((lanesOf f.bits x).zipIdx.filter (fun p => q.getLsbD p.2)).map (fun p => (f.decode p.1).1)
    s.putC c (.plain (blockSum on))

/-- `bsadd` (R144, 02 R60). -/
def execBsadd (g : Fin 8) (a : Fin 32) (c : Fin 64) (s : State) : Out :=
  issue g 4 s fun s => do
    need (decide (c.val < 60)) .ill
    let r := blockAdd (s.me.creg c).val (s.me.creg (Fin.ofNat 64 a.val)).val
    (s.raise r.2).putC c (.plain r.1)

/-! ### The neuron step (R145, R146) -/

/-- One neuron: its membrane, whether it fires, whether it was overdriven, flags. -/
def neuron (theta alpha v inp : Nat) : Nat × Bool × Bool × Nat :=
  let val := fun c => (Fmt.f32.decode c).1
  let th := val theta
  let bad := th.isNan || !fLt .zero th || th.isInf
  let t := finish .f32 (fFma (val inp) (val alpha) (val v))
  if bad ∨ (val v).isNan ∨ (val inp).isNan ∨ (val alpha).isNan ∨ (val t.1).isNan then (0, false, false, Nat.lor t.2 NV)
  else if !fLt (val t.1) th then
    let r := finish .f32 (fAdd (val t.1) th.negate)
    let hard := !fLt (val r.1) th
    (if hard then theta - 1 else r.1, true, hard, Nat.lor t.2 r.2)
  else (t.1, false, false, t.2)

/-- `nrns` (R145): operands in the order va, vd; mask register `m` receives the spikes. -/
def execNrns (g : Fin 8) (d a : Fin 32) (c : Fin 64) (m : Fin 8) (s : State) : Out :=
  issue g 4 s fun s => do
    let (inp, s) ← s.useV a
    let (v, s) ← s.useV d
    let (p, s) ← s.useX c
    let r := ((lanesOf 32 v).zip (lanesOf 32 inp)).map (fun q => neuron (p.toNat % 2 ^ 32) (p.toNat / 2 ^ 32) q.1 q.2)
    let hard := r.map (fun q => q.2.2.1)
    let n := (hard.filter id).length
    let s ← (s.raise (flags (r.map (fun q => q.2.2.2)))).putV d (vOfLanes 32 (r.map (·.1)))
    let old := s.me.novd
    let lanes := Nat.lor (df old 0 32) (ofBits hard)
    let novd : Dbl := BitVec.ofNat 64 (lanes + 2 ^ 32 * min (df old 32 32 + n) (2 ^ 32 - 1))
    let s := s.updMe (fun x => { x with novd := novd })
    pure (s.putM m (BitVec.ofNat 128 (ofBits (r.map (fun q => q.2.1)))))

end Sys2Proof.Machine
end

