-- ==== Sys2Proof/Machine/Quire.lean ====
section
/-! DEFINITION. Quires: descriptors, reads of sub-blocks and headers, stores and updates of blocks, and the responses of
loads (06_matrix_and_quires.md R168-R175; 01 R27-R30; 04 R103, R105; 16 R302). -/

namespace Sys2Proof.Machine

/-! ### Layouts (R168) -/

/-- Bytes of a block's parts: header, then planes 0 to 3. -/
def partSize (i : Nat) : Nat := match i with | 0 => 16 | 1 => 128 | 2 => 128 | _ => 256

/-- Offset of a part in a packed record. -/
def partOff (i : Nat) : Nat := match i with | 0 => 0 | 1 => 16 | 2 => 144 | 3 => 272 | _ => 528

/-- The capability of a part of block `b`, and where the part begins. -/
def QuireSrc.part (q : QuireSrc) (b i : Nat) : CVal × Dbl :=
  if q.split then
    let c := if i = 0 then q.hdr else (q.planes[i - 1]?).getD .null
    (c, c.addr + BitVec.ofNat 64 (partSize i * b))
  else (q.hdr, q.hdr.addr + BitVec.ofNat 64 (q.stride * b + partOff i))

/-- The bytes of part `i` that hold sub-block `k`, or all of it. -/
def subPart (i k : Nat) : Nat × Nat := if i = 0 then (0, 16) else (k * (partSize i / 8), partSize i / 8)

/-- The parts that a read of `p` planes needs: the header, the planes, and under RN the plane beyond (R50). -/
def partsRead (p : Nat) (rn : Bool) : List Nat := List.range (1 + min 4 (if rn then p + 1 else p))

/-! ### Checks at issue (R170) -/

/-- The descriptor read by ordinary loads, its values checked. -/
def State.quireDesc (s : State) (c : CVal) : Except Stop (QuireSrc × Nat × State) := do
  s.checkAccess c [.quire, .ld, .ldcap] c.addr 96 16
  let (bs, s) ← s.load s.cur.1 s.cur.2 s.nextId (c.has .local) c.addr 96
  let num := fun o n => ofBytes ((bs.drop o).take n |>.map (·.1))
  let caps := quadsOf (bs.drop 16) 5
  let layout := num 0 4
  let stride := num 4 4
  let count := num 8 8
  need (decide (layout ≤ 1) && (layout == 1 || (stride % 16 == 0 && (stride == 0 || decide (784 ≤ stride)))) &&
    count % 256 == 0 && count != 0) .ill
  pure ({ split := layout == 1, stride := if stride = 0 then 784 else stride, hdr := caps.headD .null,
          planes := caps.drop 1 }, count, s)

/-- The checks of one capability a quire instruction will use, for `n` bytes at `va`. -/
def State.checkPart (s : State) (q : QuireSrc) (b i o n : Nat) (store : Bool) : Except Stop Unit := do
  let (c, base) := q.part b i
  let va := base + BitVec.ofNat 64 o
  let ps : List Perm := if store then [.eng, .ld, .st] else [.eng, .ld]
  need c.tag .capt
  need (c.hasAll ps) .capp
  let rec0 := (q.part b 0).2
  if !q.split ∧ !c.has .local ∧ df rec0 56 8 = 0 ∧ 4096 < rec0.toNat % 4096 + 784 then throw (.trap .align (some rec0))
  s.checkAccess c ps va n 1

/-- Checks of every part in a list: whole, or the bytes of sub-block `k`. -/
def State.checkParts (s : State) (q : QuireSrc) (b : Nat) (k : Option Nat) (store : Bool) : List Nat → Except Stop Unit
  | [] => .ok ()
  | i :: is => do
    let w := match k with | some j => subPart i j | none => (0, partSize i)
    s.checkPart q b i w.1 w.2 store
    s.checkParts q b k store is

/-! ### Element codes and planes (R39, R49, R50) -/

/-- Elements of `w` bits in a string of bytes. -/
def codesOf (w n : Nat) (bs : List Byte) : List Nat := let x := ofBytes bs; (List.range n).map (fun i => fld x (w * i) w)

/-- Bits of an element in plane `i` of 0 to 3, and the place of their lowest in a D24 code. -/
def planeBits (i : Nat) : Nat := if i ≤ 1 then 4 else 8
def planeLow (i : Nat) : Nat := match i with | 0 => 20 | 1 => 16 | 2 => 8 | _ => 0

/-- D24 codes from the bytes of planes 0 and up; planes not given are 0. -/
def fromPlanes (n : Nat) (pl : List (List Byte)) : List Nat :=
  let cs := pl.zipIdx.map (fun p => (codesOf (planeBits p.2) n p.1).map (fun x => x * 2 ^ planeLow p.2))
  (List.range n).map (fun i => (cs.map (fun c => c.getD i 0)).foldl (· + ·) 0)

/-- The bytes of plane `i` of some D24 codes. -/
def toPlane (i : Nat) (codes : List Nat) : List Byte :=
  toBytes (codes.length * planeBits i / 8) (packBits (planeBits i) (codes.map (fun c => fld c (planeLow i) (planeBits i))))

/-- Magnitude bits of a read of `p` planes (R50). -/
def planesN (p : Nat) : Nat := match p with | 1 => 2 | 2 => 6 | 3 => 14 | _ => 22

/-! ### Loads performed (04 R103, R105; 16 R305) -/

/-- Some parts of a block read as a strand's loads. -/
def State.loadParts (s : State) (c : CoreId) (k : SlotId) (id : Nat) (q : QuireSrc) (b sub : Nat) :
    List Nat → Except Stop (List (List Byte) × State)
  | [] => .ok ([], s)
  | i :: is => do
    let (cap, base) := q.part b i
    let w := subPart i sub
    let (bs, s) ← s.load c k id (cap.has .local) (base + BitVec.ofNat 64 w.1) w.2
    let (r, s) ← s.loadParts c k id q b sub is
    pure (bs.map (·.1) :: r, s)

/-- The value that the access of a window delivers: bits, tag, and whether an RN read saturated. -/
def State.perform (s : State) (c : CoreId) (k : SlotId) (id : Nat) (a : Access) : Except Stop (VReg × Bool × Bool × State) := do
  match a.kind with
  | .load =>
    let (bs, s) ← s.load c k id (a.cap.has .local) a.va a.n
    pure (BitVec.ofNat 1024 (ofBytes (bs.map (·.1))), false, false, s)
  | .loadCap =>
    let (bs, s) ← s.load c k id (a.cap.has .local) a.va 16
    pure (BitVec.ofNat 1024 (ofBytes (bs.map (·.1))), a.cap.has .ldcap && ((bs[0]?).map (·.2)).getD false, false, s)
  | .vector =>
    let (bs, s) ← s.load c k id (a.cap.has .local) a.va 128
    pure (BitVec.ofNat 1024 (ofBytes (bs.map (·.1))), false, false, s)
  | .quire q elem p rn =>
    let sub := elem % 256 / 32
    let (parts, s) ← s.loadParts c k id q (elem / 256) sub (partsRead p rn)
    let h := DHdr.ofBytes ((parts[0]?).getD [])
    let cs := (fromPlanes 32 (parts.drop 1)).map (dPlanes p rn)
    pure (subBlock (planesN p) (cs.map (·.1)) h.s ((h.ea[sub]?).getD 0 + 16 * (h.eb[sub]?).getD 0), false, cs.any (·.2), s)
  | .quireHdr q elem =>
    let (parts, s) ← s.loadParts c k id q (elem / 256) 0 [0]
    pure (BitVec.ofNat 1024 (ofBytes ((parts[0]?).getD [])), false, false, s)
  | .readout | .none => throw .stall

/-- An access performed in its own step, after the strand's earlier loads (log entry 36). -/
def State.performNow (s : State) (a : Access) : Except Stop (VReg × Bool × Bool × State) :=
  if s.me.loadsPending then .error .stall else s.perform s.cur.1 s.cur.2 s.nextId a

/-- Whether two accesses of a strand may read a common byte: loads that overlap under one name; a quire's block against
any other access but a read-out. -/
def Access.meets (a b : Access) : Bool :=
  match a.kind, b.kind with
  | .readout, _ | .none, _ | _, .readout | _, .none => false
  | .quire .., _ | .quireHdr .., _ | _, .quire .. | _, .quireHdr .. => true
  | _, _ => a.cap.has .local == b.cap.has .local &&
      decide (a.va.toNat < b.va.toNat + b.n) && decide (b.va.toNat < a.va.toNat + a.n)

/-- Whether a strand of a core has an access that can wait for a version record (16 R309): it stands waiting, or a window of
it, or a posted access, is under way. -/
def State.waitsAt (s : State) (c : CoreId) (x : Strand) : Bool :=
  x.st == .waiting || x.allWins.any (fun (w : Window) => w.res == .pending) || (s.core c).wpath.any (fun p => p.wid == x.work.wid)

/-- A place in the line for version records given up, where the work that stood in it has no access left that waits
(16 R309). -/
def State.leaveLine (s : State) (c : CoreId) (k : SlotId) : State :=
  let x := s.strand c k
  let mine := fun (p : Nat × Nat) => p.2 == x.work.wid
  if s.waitsAt c x then s
  else (s.vwait.filter mine).foldl (fun s p => s.postOnce 1 (.versionRecordFreed (Fin.ofNat 400 p.1)))
    { s with vwait := s.vwait.filter (fun p => !mine p) }

/-- `LOAD_RESPONSE`: the access of a window is performed, after the strand's earlier loads of the same bytes (18 R321); its
value, or its failure, waits for the window's end. A window that is gone leaves the line for version records. -/
def execLoadResponse (c : CoreId) (k : SlotId) (id : Nat) (s : State) : Out :=
  let ws := (s.strand c k).allWins
  match ws.find? (fun w => w.id == id && w.res == .pending) with
  | none => .next (s.leaveLine c k)
  | some w =>
    let put := fun (s : State) (r : WinRes) (sat : Bool) => s.updStrand c k (fun (x : Strand) =>
      x.mapWins (fun (v : Window) => if v.id == id then { v with res := r, plsat := sat } else v))
    if ws.any (fun v => v.res == .pending && decide (v.id < id) && v.acc.meets w.acc) then
      .next (s.post 20 (.loadResponse c k id))
    else match s.perform c k id w.acc with
    | .ok (v, tag, sat, s1) => .next (put s1 (.value v tag 0) sat)
    | .error (.upcall f s1) => .next (put s1 (.failed f) false)
    | .error (.wait s1) => .next (s1.post 100 (.loadResponse c k id))
    | .error _ => .next s

/-! ### pld and plhdr (R171, R172) -/

/-- The fields of a quire instruction's parameter. -/
structure QuirePar where
  elem : Nat
  reg : Nat
  planes : Nat
  rn : Nat
  mode : Nat
  alpha : Nat
  state : Nat
  rest : Bool

def QuirePar.of (x : Nat) : QuirePar :=
  { elem := fld x 0 48, reg := fld x 48 6, planes := fld x 54 2, rn := fld x 56 1, mode := fld x 57 3, alpha := fld x 64 32
    state := fld x 96 6, rest := fld x 60 4 == 0 && fld x 102 26 == 0 }

/-- `pld` (R172). -/
def execPld (g : Fin 8) (l : Fin 16) (a b : Fin 64) (s : State) : Out := issue g 4 s fun s => do
  s.noAwait
  let (c, s) ← s.useC a
  let (y, s) ← s.useC b
  let p := QuirePar.of y.val.toNat
  need (p.rest && p.elem % 32 == 0 && decide (p.reg ≤ 29) && p.mode == 0 && p.alpha == 0 && p.state == 0) .ill
  let (q, count, s) ← s.quireDesc c
  let pl := p.planes + 1
  let rn := p.rn == 1
  s.checkParts q (p.elem / 256) (some (p.elem % 256 / 32)) false (partsRead pl rn)
  need (decide (p.elem < count)) .capb
  let acc : Access := { kind := .quire q p.elem pl rn, cap := c, va := (q.part (p.elem / 256) 0).2, n := 128 }
  let d : Fin 32 := Fin.ofNat 32 p.reg
  if l = 0 then
    match s.performNow acc with
    | .error (.upcall f s) => return (s.openWin (.v d) 0 acc (.failed f)).2
    | .error e => throw e
    | .ok (v, _, sat, s) =>
      let s := if sat then s.updMe (fun x => { x with qstat := x.qstat ||| 1 }) else s
      return ← (s.setMe (s.me.dropWin (.v d))).landV d v
  let w := s.openWin (.v d) l.val acc .pending
  pure (w.2.post 100 (.loadResponse s.cur.1 s.cur.2 w.1))

/-- `plhdr` (R172). -/
def execPlhdr (g : Fin 8) (l : Fin 16) (a b : Fin 64) (s : State) : Out := issue g 4 s fun s => do
  s.noAwait
  let (c, s) ← s.useC a
  let (y, s) ← s.useC b
  let p := QuirePar.of y.val.toNat
  need (p.rest && p.elem % 256 == 0 && decide (1 ≤ p.reg) && decide (p.reg ≤ 59) && p.planes == 0 && p.rn == 0 &&
    p.mode == 0 && p.alpha == 0 && p.state == 0) .ill
  let (q, count, s) ← s.quireDesc c
  s.checkParts q (p.elem / 256) none false [0]
  need (decide (p.elem < count)) .capb
  let acc : Access := { kind := .quireHdr q p.elem, cap := c, va := (q.part (p.elem / 256) 0).2, n := 16 }
  let d : Fin 64 := Fin.ofNat 64 p.reg
  if l = 0 then
    match s.performNow acc with
    | .error (.upcall f s) => return (s.openWin (.c d) 0 acc (.failed f)).2
    | .error e => throw e
    | .ok (v, tag, _, s) => return ← (s.setMe (s.me.dropWin (.c d))).landC d { val := v.setWidth 128, tag := tag }
  let w := s.openWin (.c d) l.val acc .pending
  pure (w.2.post 100 (.loadResponse s.cur.1 s.cur.2 w.1))

/-! ### Stores and updates (R173, R174) -/

/-- The 256 lanes of eight v registers, in order. -/
def State.lanes256 (s : State) (reg : Nat) : List Word :=
  (List.range 8).flatMap (fun j => (List.range 32).map (lane32 (rd s.me.v (Fin.ofNat 32 (reg + j)))))

/-- The generator state an SR operation draws 256 values from, advanced; another mode takes none. -/
def State.drawBlock (s : State) (mode state : Nat) : Except Stop (Quad × State) :=
  if mode ≠ 4 then .ok (0, s)
  else if state = 0 then .ok (s.me.srgen, s.updMe (fun (x : Strand) => { x with srgen := genAdvance x.srgen 256 }))
  else
    let i : Fin 64 := Fin.ofNat 64 state
    let st := (s.me.creg i).val
    match s.putC i (.plain (genAdvance st 256)) with
    | .ok s1 => .ok (st, s1)
    | .error e => .error e

/-- `pst`, `plupd`, `plaxpy`: checked, and an engine operation on one block. -/
def blockOp (g k : Fin 8) (a b : Fin 64) (okMode : Nat → Bool) (useAlpha : Bool)
    (work : State → Nat → Nat → List Word → Quad → QuireWork × Nat) (s : State) : Out :=
  issue g 4 s fun s => do
    s.engineFree
    let (c, s) ← s.useC a
    let (y, s) ← s.useC b
    let p := QuirePar.of y.val.toNat
    need (p.rest && p.elem % 256 == 0 && (p.reg == 0 || p.reg == 8 || p.reg == 16) && p.planes == 0 && p.rn == 0 &&
      okMode p.mode && (useAlpha || p.alpha == 0) && (p.mode == 4 || p.state == 0) && decide (p.state ≤ 59)) .ill
    let (q, count, s) ← s.quireDesc c
    s.checkParts q (p.elem / 256) none true [0, 1, 2, 3, 4]
    need (decide (p.elem < count)) .capb
    let xs := s.lanes256 p.reg
    let (gen, s) ← s.drawBlock p.mode p.state
    let (w, fl) := work s p.mode p.alpha xs gen
    pure ((s.raise fl).startOp (some k) (.quire { q := q, blk := p.elem / 256, work := w }) [] .quireUpdateAtHome)

/-- `pst`: 256 F32 lanes encoded as D24 at issue (R173). -/
def execPst (g k : Fin 8) (a b : Fin 64) (s : State) : Out :=
  blockOp g k a b (fun m => decide (m ≤ 4)) false (fun _ mode _ xs gen =>
    let e := dEncode 22 (xs.zipIdx.map (fun p => ((Fmt.f32.decode p.1.toNat).1, genDraw gen p.2)))
      ((RMode.ofCode mode).getD .rne)
    (.put e.1.bytes e.2.1, e.2.2)) s

/-- `plupd`: α = 1 (R174). -/
def execPlupd (g k : Fin 8) (a b : Fin 64) (s : State) : Out :=
  blockOp g k a b (fun m => m == 0 || m == 4) false (fun _ mode _ xs gen => (.upd mode 0x3F800000 xs gen, 0)) s

/-- `plaxpy`: α = ALPHA (R174). -/
def execPlaxpy (g k : Fin 8) (a b : Fin 64) (s : State) : Out :=
  blockOp g k a b (fun m => m == 0 || m == 4) true (fun _ mode alpha xs gen => (.upd mode (BitVec.ofNat 32 alpha) xs gen, 0)) s

/-! ### QUIRE_UPDATE_AT_HOME (R169, R170, R174) -/

/-- One sub-block under its present exponents and selectors: new codes, flags, and whether every magnitude is held. -/
def keepSub (h : DHdr) (k : Nat) (old : List Nat) (ys : List (FVal × Nat)) (mode : RMode) : List Nat × Nat × Bool :=
  let r := (old.zip ys).map (fun p =>
    let sel := fld p.1 23 1
    match p.2.1 with
    | .fin neg m e =>
      let x := roundMag m e (h.exp k (sel == 1) - 21) neg mode p.2.2
      (2 ^ 23 * sel + (if neg then 2 ^ 22 else 0) + x.1 % 2 ^ 22, flagIf x.2 NX, decide (x.1 < 2 ^ 22))
    | _ => (0, 0, false))
  (r.map (·.1), flags (r.map (·.2.1)), r.all (·.2.2))

/-- One sub-block in a re-encode of its whole block under a new S. Where one of its elements is unchanged (`still`), every
new magnitude fits, and the clamps allow, its exponents stay where they were, and the offsets move with S (16 R302); else
it is R48's (R174; log entry 69). -/
def moveSub (h : DHdr) (s k : Nat) (old : List Nat) (ys : List (FVal × Nat)) (still : Bool) (mode : RMode) :
    Nat × Nat × List Nat × Nat :=
  let kept := keepSub h k old ys mode
  let ea := (h.ea[k]?).getD 0 + (s - h.s)
  let eb := (h.eb[k]?).getD 0 + (s - h.s)
  let idle := fun (sel : Nat) => kept.1.all (fun c => fld c 23 1 != sel || c % 2 ^ 22 == 0)
  if still && decide (h.s ≤ s) && kept.2.2 && (decide (ea ≤ 15) || idle 0) && (decide (eb ≤ 15) || idle 1) then
    (min ea 15, min eb 15, kept.1, kept.2.1)
  else dSub s 22 ys mode

/-- An update of a block: its new header and codes, FFLAGS bits and QSTAT bits (R174; 16 R302). -/
def quireUpdate (h : DHdr) (codes : List Nat) (alpha : Word) (xs : List Word) (gen : Quad) (mode : RMode) :
    DHdr × List Nat × Nat × Nat :=
  let a := (Fmt.f32.decode alpha.toNat).1
  let adds := xs.map (fun x => (fMul a (Fmt.f32.decode x.toNat).1).1)
  let ys := (codes.zip adds).zipIdx.map (fun p => ((fAdd (dValue h (p.2 / 32) 22 p.1.1) p.1.2).1, genDraw gen p.2))
  let special := fun (v : FVal) => v.isNan || v.isInf
  if h.s = 255 ∨ special a ∨ xs.any (fun x => special (Fmt.f32.decode x.toNat).1) ∨ ys.any (fun p => special p.1) then
    (dNanHdr 0, List.replicate 256 0, flagIf (h.s != 255) NV, 4)
  else
    let subs := (((chunks 32 8 codes).zip (chunks 32 8 ys)).zipIdx).map (fun p =>
      let kept := keepSub h p.2 p.1.1 p.1.2 mode
      let tooBig := p.1.2.any (fun (y : FVal × Nat) => match y.1 with
        | .fin neg m e => decide (2 ^ 22 ≤ (roundMag m e ((h.s : Int) - 127 - 21) neg mode y.2).1)
        | _ => true)
      (kept, tooBig && !kept.2.2, dSub h.s 22 p.1.2 mode, p.2))
    if subs.any (fun p => p.2.1) then
      let s := dScale (ys.map (·.1))
      let out := ((chunks 32 8 codes).zip ((chunks 32 8 ys).zip (chunks 32 8 adds))).zipIdx.map (fun p =>
        moveSub h s p.2 p.1.1 p.1.2.1 (p.1.2.2.any FVal.isZero) mode)
      ({ s := s, ea := out.map (·.1), eb := out.map (·.2.1), ver := 0 }, out.flatMap (·.2.2.1), flags (out.map (·.2.2.2)), 2)
    else
      let out := subs.map (fun p =>
        if p.1.2.2 then ((h.ea[p.2.2.2]?).getD 0, (h.eb[p.2.2.2]?).getD 0, p.1.1, p.1.2.1)
        else (p.2.2.1.1, p.2.2.1.2.1, p.2.2.1.2.2.1, p.2.2.1.2.2.2))
      ({ h with ea := out.map (·.1), eb := out.map (·.2.1) }, out.flatMap (·.2.2.1), flags (out.map (·.2.2.2)),
        if subs.any (fun p => !p.1.2.2) then 2 else 0)

/-- A block's parts read by an engine, in their order. -/
def State.engineParts (s : State) (w : Who) (q : QuireSrc) (b : Nat) :
    List Nat → Except (FaultInfo × State) (List (List Byte) × State)
  | [] => .ok ([], s)
  | i :: is =>
    let (cap, va) := q.part b i
    match s.homeRead w (cap.has .local) va (partSize i) with
    | .error e => .error e
    | .ok (bs, s1) =>
      match s1.engineParts w q b is with
      | .error e => .error e
      | .ok (r, s2) => .ok (bs.map (·.1) :: r, s2)

/-- Every part translated for writing, before any is written. -/
def State.translateParts (s : State) (w : Who) (q : QuireSrc) (b : Nat) : List Nat → Except (FaultInfo × State) State
  | [] => .ok s
  | i :: is =>
    let (cap, va) := q.part b i
    match s.translateAll w (cap.has .local) .write (partsOf va (partSize i)) with
    | .error e => .error e
    | .ok (_, s1) => s1.translateParts w q b is

/-- Parts written, each at its place; those of a packed record carry one capability. -/
def State.writeQuire (s : State) (w : Who) (q : QuireSrc) (b : Nat) : List (Nat × List Byte) → Except (FaultInfo × State) State
  | [] => .ok s
  | (i, bs) :: ps =>
    let (cap, va) := q.part b i
    match s.homeWrite w (cap.has .local) [(va, bs)] [] with
    | .error e => .error e
    | .ok s1 => s1.writeQuire w q b ps

/-- A block's new header and codes, with its version byte raised, and the FFLAGS and QSTAT bits: translated whole, read,
computed. -/
def State.quireResult (s : State) (o : Op) (j : QuireJob) :
    Except (FaultInfo × State) (DHdr × List Nat × Nat × Nat × State) :=
  match s.translateParts o.who j.q j.blk [0, 1, 2, 3, 4] with
  | .error e => .error e
  | .ok s1 =>
    match s1.engineParts o.who j.q j.blk (match j.work with | .upd _ _ _ _ => [0, 1, 2, 3, 4] | _ => [0]) with
    | .error e => .error e
    | .ok (parts, s2) =>
      let h := DHdr.ofBytes ((parts[0]?).getD [])
      let r := match j.work with
        | .put hb codes => (DHdr.ofBytes hb, codes, 0, 0)
        | .upd mode alpha xs gen =>
          quireUpdate h (fromPlanes 256 (parts.drop 1)) alpha xs gen ((RMode.ofCode mode).getD .rne)
        | .out fl qs _ => (h, [], fl, qs)
      .ok ({ r.1 with ver := (h.ver + 1) % 256 }, r.2.1, r.2.2.1, r.2.2.2, s2)

/-- A packed block stored or updated: one atomic step at its home (R169). -/
def State.quireStep (s : State) (o : Op) (j : QuireJob) : Except (FaultInfo × State) (Nat × Nat × State) :=
  match s.quireResult o j with
  | .error e => .error e
  | .ok (hdr, codes, fl, qs, s1) =>
    match s1.writeQuire o.who j.q j.blk ((0, hdr.bytes) :: (List.range 4).map (fun i => (i + 1, toPlane i codes))) with
    | .error e => .error e
    | .ok s2 => .ok (fl, qs, s2)

/-- The units in which a split block is written: its header, and each plane's eight sub-blocks (R169). -/
def QuireSrc.units (q : QuireSrc) (b : Nat) (hdr : DHdr) (codes : List Nat) : List (CVal × Dbl × List Byte) :=
  ((q.part b 0).1, (q.part b 0).2, hdr.bytes) :: (List.range 4).flatMap (fun i =>
    let p := q.part b (i + 1)
    let n := partSize (i + 1) / 8
    (List.range 8).map (fun k => (p.1, p.2 + BitVec.ofNat 64 (k * n), ((toPlane i codes).drop (k * n)).take n)))

/-- The flags of a quire operation delivered, and the operation ended; those of one deferred by a task reach no strand
(R174). -/
def State.quireEnd (s : State) (o : Op) (fl qs : Nat) : State :=
  (if o.dom.isSome then s else s.updWork o.core o.wid (fun (x : Strand) =>
    { x with fflags := x.fflags ||| BitVec.ofNat 32 fl, qstat := x.qstat ||| BitVec.ofNat 32 qs })).endOp o.id

/-- Where the units of a split block lie: each translated once, before any is written (R170). -/
def State.quirePlaces (s : State) (w : Who) :
    List (CVal × Dbl × List Byte) → Except (FaultInfo × State) (List (List (Tr × Dbl × Nat)) × State)
  | [] => .ok ([], s)
  | (c, va, bs) :: us =>
    match s.translateAll w (c.has .local) .write (partsOf va bs.length) with
    | .error e => .error e
    | .ok (ts, s1) =>
      match s1.quirePlaces w us with
      | .error e => .error e
      | .ok (l, s2) => .ok (ts :: l, s2)

/-- One unit of a split block written where it was translated to, in no promised order (16 R300): a free value says
which. -/
def State.quireUnit (s : State) (o : Op) (j : QuireJob) (fl qs : Nat) (places : List (List (Tr × Dbl × Nat))) : State :=
  let p := s.free
  let i := p.1.toNat % o.buf.length
  match o.buf[i]?, places[i]? with
  | some (_, _, bs), some ts =>
    ((p.2.writeParts o.who ts bs).updOp o.id (fun (x : Op) => { x with
      job := .quire { j with work := .out fl qs (places.eraseIdx i) }, buf := o.buf.eraseIdx i })).post 5 (.quireUpdateAtHome o.id)
  | _, _ => s.quireEnd o fl qs

/-- `QUIRE_UPDATE_AT_HOME`: an update at its home by an engine operation. A packed block's operation performed in one step, a split block's computed and then written unit
by unit; handed back, or counted in its 49 granules (R169, R170). An atomic or a message that a task had deferred is performed by it
too (16 R308). -/
def execQuireUpdateAtHome (id : Nat) (s : State) : Out :=
  match s.op id with
  | none => .next s
  | some o =>
    match o.job with
    | .quire j =>
      if s.house.frozen then .next (s.held (.quireUpdateAtHome id))
      else if o.deferred ∨ o.handed.isSome ∨ !o.bad.isEmpty then .next s
      else if s.awaitsIssuer o then .next (s.post 20 (.quireUpdateAtHome id))
      else
        let failed := fun (f : FaultInfo) (s1 : State) =>
          if f.cause = .translation then s1.opFault o f else (State.opErrors o 49 s s1).endOp id
        match j.work, j.q.split with
        | .out fl qs places, _ => .next (s.quireUnit o j fl qs places)
        | _, false =>
          match s.quireStep o j with
          | .ok (fl, qs, s1) => .next (s1.quireEnd o fl qs)
          | .error (f, s1) => .next (failed f s1)
        | _, true =>
          match s.quireResult o j with
          | .ok (hdr, codes, fl, qs, s1) =>
            match s1.quirePlaces o.who (j.q.units j.blk hdr codes) with
            | .ok (places, s2) =>
              .next ((s2.updOp id (fun (x : Op) => { x with
                job := .quire { j with work := .out fl qs places }, buf := j.q.units j.blk hdr codes })).post 5
                  (.quireUpdateAtHome id))
            | .error (f, s2) => .next (failed f s2)
          | .error (f, s1) => .next (failed f s1)
    | .amo p => .next (if s.house.frozen then s.held (.quireUpdateAtHome id) else s.runAmo o p)
    | .msg m dest => .next (if s.house.frozen then s.held (.quireUpdateAtHome id) else s.runMsg o m dest)
    | _ => .next s

end Sys2Proof.Machine
end

