-- ==== Sys2Proof/Machine/Tile.lean ====
section
/-! DEFINITION. Tile registers: claims, moves, clearing, transposition (06_matrix_and_quires.md R150, R151; 01 R20). -/

namespace Sys2Proof.Machine

/-- A tile register of the running strand's core. -/
def State.tile (s : State) (t : Fin 8) : Tile := rd s.myCore.t t

/-- A change to a tile register of a core. -/
def State.updTile (s : State) (c : CoreId) (t : Fin 8) (f : Tile → Tile) : State :=
  s.updCore c (fun (x : Core) => { x with t := wr x.t t (f (rd x.t t)) })

/-- Whether an engine still owes a write to a tile register: a copy whose target it is, or a read-out without a window
(R150, R151; 01 R27); what a task has deferred is owed from its commit on (16 R308). -/
def State.owedTile (s : State) (c : CoreId) (t : Fin 8) : Bool :=
  s.ops.any (fun (o : Op) => !o.deferred && o.core == c && (match o.job with
    | .copy g _ _ _ => g.tile == some t
    | .readout r => r.tile == some t && r.win.isNone
    | _ => false))

/-- Element (i, j) of a tile's rows. -/
def tileAt (rows : Vector VReg 32) (i j : Nat) : Word := lane32 (rd rows (Fin.ofNat 32 i)) j

/-- An instruction on a tile that the strand holds, after every owed copy into it has landed (R151). -/
def onTile (g t : Fin 8) (s : State) (f : State → Except Stop State) : Out :=
  issue g 4 s fun s => do
    need ((s.tile t).holder == some s.cur.2) .tile
    if s.owedTile s.cur.1 t then throw .stall
    f s

/-- A write of a tile discards a pending read-out of it (01 R27). -/
def State.writesTile (s : State) (t : Fin 8) : State := s.updMe (fun (x : Strand) => x.dropWin (.t t))

/-- The row or column index: a c register plus the immediate; above 31 it traps (R20). -/
def sliceIndex (x : Dbl) (k : Fin 32) : Except Stop Nat :=
  if x.toNat + k.val < 32 then .ok (x.toNat + k.val) else .error (.t .ill)

/-- `trd` (R151). -/
def execTrd (g t : Fin 8) (r : Fin 2) (i : Fin 64) (k v : Fin 32) (s : State) : Out := onTile g t s fun s => do
  let (x, s) ← s.useX i
  let n ← sliceIndex x k
  let rows := (s.tile t).rows
  s.putV v (if r = 0 then rd rows (Fin.ofNat 32 n) else ofLanes32 (fun j => tileAt rows j n))

/-- `twr` (R151). -/
def execTwr (g t : Fin 8) (r : Fin 2) (i : Fin 64) (k v : Fin 32) (s : State) : Out := onTile g t s fun s => do
  let (x, s) ← s.useX i
  let (y, s) ← s.useV v
  let n ← sliceIndex x k
  pure ((s.writesTile t).updTile s.cur.1 t (fun (q : Tile) =>
    { q with rows := if r = 0 then wr q.rows (Fin.ofNat 32 n) y
                     else vofFn (fun a => ofLanes32 (fun j => if j = n then lane32 y a.val else lane32 (rd q.rows a) j)) }))

/-- `tzero` (R151). -/
def execTzero (g t : Fin 8) (s : State) : Out := onTile g t s fun s =>
  .ok ((s.writesTile t).updTile s.cur.1 t (fun (q : Tile) => { q with rows := Vector.replicate 32 0 }))

/-- `ttrans` (R151). -/
def execTtrans (g t : Fin 8) (s : State) : Out := onTile g t s fun s =>
  .ok ((s.writesTile t).updTile s.cur.1 t (fun (q : Tile) => { q with rows := vofFn (fun a => ofLanes32 (fun j => tileAt q.rows j a.val)) }))

/-- `tclaim`: waiting strands are served in the order of their requests (R150). -/
def execTclaim (g t : Fin 8) (s : State) : Out := issue g 4 s fun s =>
  let k := s.cur.2
  let q := s.tile t
  if q.holder = some k then .ok s
  else if q.holder = none ∧ (q.queue = [] ∨ q.queue.head? = some k) then
    let a := s.me.asid
    .ok (s.updTile s.cur.1 t (fun (q : Tile) =>
      { rows := if q.asid = a then q.rows else Vector.replicate 32 0, holder := some k, asid := a,
        queue := q.queue.filter (· != k) }))
  else
    .error (.wait (s.updTile s.cur.1 t (fun (q : Tile) =>
      { q with queue := if q.queue.contains k then q.queue else q.queue ++ [k] })))

/-- The windows of read-outs into a tile closed, their rows written. -/
def State.landTile (s : State) (t : Fin 8) : List Window → State
  | [] => s
  | w :: ws =>
    match w.res with
    | .rows r fl =>
      State.landTile (((s.setMe (s.me.closeWin w.id)).raise fl).updTile s.cur.1 t (fun (q : Tile) =>
        { q with rows := vofFn (fun i => (r[i.val]?).getD 0) })) t ws
    | _ => State.landTile s t ws

/-- `tfree`: waits until every owed engine write to the tile has landed (R150). One that has landed and whose window is still
open is written then, with its flags, and its window closes: the spec does not say what becomes of it, and this is the
model's choice (log entry 70). -/
def execTfree (g t : Fin 8) (s : State) : Out := issue g 4 s fun s =>
  let k := s.cur.2
  let ws := s.me.allWins.filter (fun w => w.dst == .t t)
  if (s.tile t).holder ≠ some k then .ok s
  else if s.owedTile s.cur.1 t ∨ ws.any (fun w => w.res == .pending) then .error .stall
  else .ok ((s.landTile t ws).updTile s.cur.1 t (fun (q : Tile) => { q with holder := none }))

end Sys2Proof.Machine
end

