-- ==== Sys2Proof/Machine/Matrix.lean ====
section
/-! DEFINITION. The shared matrix array: leases, frames, turns, fills, commands and read-outs
(06_matrix_and_quires.md R152-R167; 11_neurons_and_arrays.md R244-R256; 02 R44, R45, R54-R57). -/

namespace Sys2Proof.Machine

/-! ### Format pairs (01 R34) -/

/-- The A and B formats of a pair index. -/
def pairOf (p : Nat) : Fmt × Fmt :=
  match p with
  | 0 => (.f32, .f32) | 1 => (.f19, .f19) | 2 => (.bf16, .bf16) | 3 => (.f16, .f16)
  | 4 => (.e4m3, .e4m3) | 5 => (.e4m3, .e5m2) | 6 => (.e5m2, .e4m3) | 7 => (.e5m2, .e5m2)
  | 8 => (.e3m2, .e3m2) | 9 => (.e2m3, .e2m3) | 10 => (.e2m1, .e2m1) | 11 => (.i16, .i16)
  | 12 => (.i8, .i8) | 13 => (.n8, .i8) | 14 => (.i8, .i4) | 15 => (.i4, .i4)
  | 16 => (.n4, .i4) | 17 => (.t2, .i8) | 18 => (.t2, .t2) | 19 => (.b1, .i8)
  | 20 => (.b1, .d8) | 21 => (.b1, .b1) | 22 => (.d4, .d4) | 23 => (.d8, .d8)
  | 24 => (.d16, .d16) | 25 => (.d24, .d24) | 26 => (.d8, .d4) | 27 => (.bf16, .e4m3)
  | 28 => (.bf16, .i4) | 29 => (.bf16, .d4) | 30 => (.e4m3, .e2m1) | _ => (.i16, .i8)

/-- Elements of a K-slab of a pair: those of its wider format (R157). -/
def pairK (p : Nat) : Nat := min (pairOf p).1.slab (pairOf p).2.slab

/-- The format of a side of a pair. -/
def sideOf (p : Nat) (b : Bool) : Fmt := if b then (pairOf p).2 else (pairOf p).1

/-! ### MSTAT (R167) -/

def MSAT : Nat := 1
def MECC : Nat := 2
def MNAN : Nat := 4
def MTERN : Nat := 8
def MSCF : Nat := 16
def MPLSAT : Nat := 32
def MCHN : Nat := 64

/-! ### Leases -/

/-- A tile as `mzero` leaves it (02 R54). -/
def AccTile.zero : AccTile := { x := 0x8000, e := Vector.replicate 4096 0 }

/-- A slot or half that nothing has filled. -/
def Operand.empty : Operand := { pair := 0, issued := 0, landed := 0, elems := [], bad := [] }

def Cluster.lease (q : Cluster) (id : Nat) : Option Lease := q.leases.find? (fun (l : Lease) => l.id == id)

def State.updLease (s : State) (q : ClusterId) (id : Nat) (f : Lease → Lease) : State :=
  s.updCluster q (fun (x : Cluster) => { x with leases := x.leases.map (fun (l : Lease) => if l.id == id then f l else l) })

/-- The array looks at its turn again, whenever the turn's own limit falls due (R246). -/
def State.pokeArray (s : State) (q : ClusterId) : State := s.postBy 1 (.arrayTurnEnd q)

/-- The lease of the running strand. -/
def State.myLease (s : State) : Except Stop Lease :=
  match s.me.lease.bind (s.cluster (clusterOf s.cur.1)).lease with
  | some l => .ok l
  | none => .error (.t .lease)

/-- The grid that a lease is of: its work's, or the one that has configured its bin. -/
def State.leaseGrid (s : State) (l : Lease) : Option Word :=
  match l.bin with
  | some i => (s.grids.find? (fun (g : Grid) => g.bins.contains (clusterOf l.core, i))).map (·.id)
  | none => (s.workOf l.core l.wid).bind (·.work.grid)

/-- Whether a lease is of a reserved partition (R152, 19 R349, R350). -/
def State.reflex (s : State) (l : Lease) : Bool :=
  s.parts.toList.any (fun p => match p with
    | some x => x.cores.contains l.core && s.leaseGrid l == some x.grid
    | none => false)

/-- A new lease in the requested state, and its number (R153, R244). -/
def State.newLease (s : State) (q : ClusterId) (pos : Fin 32) (core : CoreId) (wid : Nat) (bin : Option (Fin 16))
    (asid : BitVec 16) (nacc : Nat) (grantq : Bool) (token : Option (Fin 8)) (save : CVal) : Nat × State :=
  let (id, s1) := s.newId
  let l : Lease :=
    { id := id, pos := pos, core := core, wid := wid, bin := bin, asid := asid, nacc := nacc, grantq := grantq,
      token := token, save := save, st := .requested, moving := false, cmds := [], acc := Vector.replicate 8 .zero,
      slots := Vector.replicate 8 .empty, halves := Vector.replicate 2 .empty, mstat := 0, lastUse := s.dt, spill := [] }
  (id, (s1.updCluster q (fun (x : Cluster) => { x with leases := x.leases ++ [l] })).postOnce 10 (.leaseGrant q))

/-- Bytes of a save area (R153). -/
def saveBytes (nacc : Nat) : Nat := 123136 + 32768 * nacc

/-- `mlease` (R153). -/
def execMlease (g k : Fin 8) (a b : Fin 64) (s : State) : Out := issue g 4 s fun s => do
  s.noAwait
  s.notSpec
  s.engineFree
  need s.me.lease.isNone .ill
  let (c, s) ← s.useC a
  let (p, s) ← s.useC b
  let nacc := qf p.val 0 4
  need (qf p.val 5 123 == 0 && decide (1 ≤ nacc) && decide (nacc ≤ 8)) .ill
  s.checkAccess c [.ld, .st, .eng] c.addr (saveBytes nacc) 64
  let core := s.cur.1
  let wid := s.me.work.wid
  let r := s.newLease (clusterOf core) (Fin.ofNat 32 (posOf core)) core wid none s.me.asid nacc (p.val.getLsbD 4) (some k) c
  pure ((r.2.updMe (fun (x : Strand) => { x with lease := some r.1 })).updToken core wid (some k) Token.up)

/-- Whether a fill of a lease has not landed. -/
def State.fillsOf (s : State) (q : ClusterId) (id : Nat) : Bool :=
  s.ops.any (fun (o : Op) => match o.job with | .fill f => f.cluster == q && f.lease == id | _ => false)

/-- A chain at the head of the queue whose next slab awaits a fill never issued, dropped; MCHN tells (R154, R162). -/
def Lease.dropChain (l : Lease) : Lease :=
  match l.cmds with
  | .mma _ _ _ _ _ (sl :: _) :: cs =>
    if (rd l.halves sl.half).issued < sl.gen then { l with cmds := cs, mstat := Nat.lor l.mstat MCHN } else l
  | _ => l

/-- What `mfree` and the ends of work wait for (R154, 03 R97): the lease granted and every command and fill executed. -/
def State.settleLease (s : State) : Except Stop State :=
  match s.me.lease with
  | none => .ok s
  | some id =>
    let q := clusterOf s.cur.1
    let s1 := s.updLease q id Lease.dropChain
    match (s1.cluster q).lease id with
    | none => .ok s1
    | some l => if l.st ≠ .requested ∧ l.cmds.isEmpty ∧ !s1.fillsOf q id then .ok s1 else .error (.wait (s1.pokeArray q))

/-- `mfree` (R154). -/
def execMfree (g : Fin 8) (s : State) : Out := issue g 4 s fun s => do
  s.noAwait
  s.notSpec
  let s ← s.settleLease
  match s.me.lease with
  | none => pure s
  | some id => pure ((s.updMe (fun (x : Strand) => { x with lease := none })).dropLease (clusterOf s.cur.1) id)

/-! ### Geometry (R156) -/

/-- Whether a value is within a geometry register's limits. -/
def geoOk (i : Nat) (v : Dbl) : Bool :=
  match i with
  | 0 | 3 => decide (v.toNat < 2 ^ 32) && v.toNat % 4 == 0
  | 2 | 5 => v.toNat % 256 == 0 && v.toNat != 0
  | 6 => v.toNat % 4 == 0
  | 7 => decide (1 ≤ v.toNat) && decide (v.toNat ≤ 8)
  | _ => true

/-- `mgeo` (R156). It and `mgeor` are strand state, need no lease and execute in a speculative task too: that the `spec` of
R155 is for the instructions with a lease requirement is the model's choice (log entry 69). -/
def execMgeo (g : Fin 8) (d a : Fin 64) (s : State) : Out := issue g 4 s fun s => do
  let (v, s) ← s.useX a
  if d.val < 8 then
    need (geoOk d.val v) .ill
    pure (s.updMe (fun (x : Strand) => { x with geo := wr x.geo d v }))
  else throw (.t .ill)

/-- `mgeor` (R156). -/
def execMgeor (g : Fin 8) (d a : Fin 64) (s : State) : Out := issue g 4 s fun s =>
  if a.val < 8 then s.putX d (rd s.me.geo a) else .error (.t .ill)

/-! ### Fills: rows and their segments (R158) -/

/-- The parts of a run of `k` elements from element `e`, cut at blocks of 256: block, first, count. -/
def blockRuns (e k : Nat) : List (Nat × Nat × Nat) :=
  (List.range ((e + k - 1) / 256 - e / 256 + 1)).map (fun i =>
    let b := e / 256 + i
    let lo := max e (256 * b)
    let hi := min (e + k) (256 * (b + 1))
    (b, lo - 256 * b, hi - lo))

/-- The bytes of a row, as ranges through capabilities: plain elements; or header and elements of each block; or header
and planes of each block. -/
def fillSegs (fmt : Fmt) (koff k p : Nat) (rn : Bool) : FillRow → List (CVal × Dbl × Nat)
  | .zeros => []
  | .plain c va =>
    match fmt.dBits with
    | none => [(c, va + BitVec.ofNat 64 (koff * fmt.bits / 8), k * fmt.bits / 8)]
    | some _ => (blockRuns koff k).flatMap (fun r =>
        let rec0 := va + BitVec.ofNat 64 (r.1 * (16 + 32 * fmt.bits))
        [(c, rec0, 16), (c, rec0 + BitVec.ofNat 64 (16 + r.2.1 * fmt.bits / 8), r.2.2 * fmt.bits / 8)])
  | .quire q e => (blockRuns e k).flatMap (fun r =>
      (partsRead p rn).map (fun i =>
        let pt := q.part r.1 i
        if i = 0 then (pt.1, pt.2, 16)
        else
          let w := planeBits (i - 1)
          (pt.1, pt.2 + BitVec.ofNat 64 (r.2.1 * w / 8), r.2.2 * w / 8)))

/-- A byte as a fill reads it: its value, and 0, 1 for a violation, or 2 and up for an uncorrectable word (R159, R164). -/
abbrev FByte := Byte × Nat

/-- What stands against an element drawn from some bytes: each failure once. -/
def statusOf (l : List FByte) : List Nat := ((l.map (·.2)).filter (· != 0)).eraseDups

/-- An element from its value. -/
def elemOf : FVal → OElem
  | .fin neg m e => { special := false, val := if neg then -(m : Int) else m, exp := e }
  | _ => { special := true, val := 0, exp := 0 }

/-- A zero element. -/
def zeroElem : OElem := { special := false, val := 0, exp := 0 }

/-- Bytes that hold bits `lo` to `lo + n - 1`. -/
def bitsBytes (bs : List FByte) (lo n : Nat) : List FByte := (bs.drop (lo / 8)).take ((lo + n - 1) / 8 - lo / 8 + 1)

/-- Elements of a row with what stands against each, and whether an RN read saturated or a T2 code 0b10 was read. -/
def decodeRow (fmt : Fmt) (koff k p : Nat) (rn : Bool) (row : FillRow) (segs : List (List FByte)) :
    List (OElem × List Nat) × Bool × Bool :=
  match row with
  | .zeros => (List.replicate k (zeroElem, []), false, false)
  | .plain _ _ =>
    match fmt.dBits with
    | none =>
      let bs := segs.headD []
      let r := (codesOf fmt.bits k (bs.map (·.1))).zipIdx.map (fun c =>
        (elemOf (fmt.decode c.1).1, statusOf (bitsBytes bs (fmt.bits * c.2) fmt.bits), fmt == .t2 && c.1 == 2))
      (r.map (fun x => (x.1, x.2.1)), false, r.any (fun x => x.2.2 && x.2.1.isEmpty))
    | some n =>
      let r := ((blockRuns koff k).zipIdx).flatMap (fun b =>
        let hb := (segs[2 * b.2]?).getD []
        let bs := (segs[2 * b.2 + 1]?).getD []
        let h := DHdr.ofBytes (hb.map (·.1))
        (codesOf fmt.bits b.1.2.2 (bs.map (·.1))).zipIdx.map (fun c =>
          let sub := (b.1.2.1 + c.2) / 32
          (elemOf (dValue h sub n c.1),
            statusOf (hb.take 1 ++ (hb.drop (1 + sub)).take 1 ++ bitsBytes bs (fmt.bits * c.2) fmt.bits))))
      (r, false, false)
  | .quire _ e =>
    let np := (partsRead p rn).length
    let r := ((blockRuns e k).zipIdx).flatMap (fun b =>
      let ps := (segs.drop (np * b.2)).take np
      let hb := ps.headD []
      let h := DHdr.ofBytes (hb.map (·.1))
      let cs := fromPlanes b.1.2.2 ((ps.drop 1).map (fun l => l.map (·.1)))
      cs.zipIdx.map (fun c =>
        let sub := (b.1.2.1 + c.2) / 32
        let v := dPlanes p rn c.1
        let st := statusOf (hb.take 1 ++ (hb.drop (1 + sub)).take 1 ++
          ((ps.drop 1).zipIdx).flatMap (fun l => bitsBytes l.1 (planeBits l.2 * c.2) (planeBits l.2)))
        (elemOf (dValue h sub (planesN p) v.1), st, v.2)))
    (r.map (fun x => (x.1, x.2.1)), r.any (fun x => x.2.2), false)

/-- The K position of the first element of each uncorrectable word; `seen` are the words met before (R164). -/
def badWords : List (OElem × List Nat) → Nat → List Nat → List Nat
  | [], _, _ => []
  | (_, st) :: l, i, seen =>
    let new := st.filter (fun w => decide (2 ≤ w) && !seen.contains w)
    new.map (fun _ => i) ++ badWords l (i + 1) (new ++ seen)

/-- A range cut at 8-byte words. -/
def wordParts : Nat → Dbl → Nat → List (Dbl × Nat)
  | 0, _, _ => []
  | fuel + 1, va, n =>
    if n = 0 then []
    else
      let k := min n (8 - va.toNat % 8)
      (va, k) :: wordParts fuel (va + BitVec.ofNat 64 k) (n - k)

/-- The state after a read of a part that fails, with what its home logs of it. -/
def State.readLogged (s : State) (o : Op) (loc : Bool) (p : Dbl × Nat) : State :=
  match s.homeRead o.who loc p.1 p.2 with
  | .ok (_, s1) => s1
  | .error (f, s1) => s1.logRefused o.who f

/-- A range read for a fill: its bytes, how many granules met a violation, and the state with the first of those
logged; or a translation fault. `own` says that a bin reads, whose translation faults count as violations, and each of
whose failures is logged at its home (21 R408). Each uncorrectable word is logged (21 R386). -/
def State.readSeg (s : State) (o : Op) (own : Bool) (c : CVal) (va : Dbl) (n : Nat) :
    Except (FaultInfo × State) (List FByte × Nat × State) :=
  match s.homeRead o.who (c.has .local) va n with
  | .ok (bs, s1) => .ok (bs.map (fun b => (b.1, 0)), 0, s1)
  | .error (f0, s0) =>
    if f0.cause = .translation ∧ !own then .error (f0, s0)
    else
      let parts := (wordParts (n / 8 + 2) va n).map (fun p => (p, s.homeRead o.who (c.has .local) p.1 p.2))
      let tf := parts.findSome? (fun p => match p.2 with
        | .error (f, s1) => if f.cause = .translation ∧ !own then some (f, s1) else none
        | .ok _ => none)
      match tf with
      | some x => .error x
      | none =>
        let bytes := parts.flatMap (fun p => match p.2 with
          | .ok (bs, _) => bs.map (fun b => (b.1, 0))
          | .error (f, _) => List.replicate p.1.2 ((0 : Byte), if f.cause = .uncorrectable then 2 + p.1.1.toNat / 8 else 1))
        let viols := parts.filterMap (fun p => match p.2 with
          | .error (f, _) => if f.cause = .uncorrectable then none
              else some (p.1.1.toNat / 16, p.1)
          | .ok _ => none)
        let bads := parts.filterMap (fun p => match p.2 with
          | .error (f, _) => if f.cause = .uncorrectable then some p.1 else none
          | .ok _ => none)
        let s := bads.foldl (fun s p => s.readLogged o (c.has .local) p) s
        match viols with
        | [] => .ok (bytes, 0, s)
        | v :: vs =>
          let gs := ((v :: vs).map (·.1)).eraseDups
          if own then
            .ok (bytes, gs.length, gs.foldl (fun s g => match (v :: vs).find? (fun x => x.1 == g) with
              | some x => s.readLogged o (c.has .local) x.2
              | none => s) s)
          else .ok (bytes, gs.length, State.opErrors ((s.op o.id).getD o) gs.length s (s.readLogged o (c.has .local) v.2))

/-- The segments of a row read in order. -/
def State.readSegs (s : State) (o : Op) (own : Bool) :
    List (CVal × Dbl × Nat) → Except (FaultInfo × State) (List (List FByte) × State)
  | [] => .ok ([], s)
  | (c, va, n) :: l =>
    match s.readSeg o own c va n with
    | .error e => .error e
    | .ok (bs, _, s1) =>
      match s1.readSegs o own l with
      | .error e => .error e
      | .ok (r, s2) => .ok (bs :: r, s2)

/-- The rows of a fill read until done, or until a translation fault; MSTAT bits gathered. -/
def State.fillRows (s : State) (o : Op) (own : Bool) (f : FillJob) (bits : Nat) :
    List FillRow → FillJob × Nat × Option FaultInfo × State
  | [] => ({ f with todo := [] }, bits, none, s)
  | r :: rs =>
    let fmt := sideOf f.pair f.slot
    match s.readSegs o own (fillSegs fmt f.koff f.k f.planes f.rn r) with
    | .error (x, s1) => ({ f with todo := r :: rs }, bits, some x, s1)
    | .ok (segs, s1) =>
      let (es, sat, tern) := decodeRow fmt f.koff f.k f.planes f.rn r segs
      let row := es.map (fun p => if p.2.isEmpty then p.1 else zeroElem)
      let i := f.elems.length
      let f1 : FillJob := { f with elems := f.elems ++ [row], bad := f.bad ++ (badWords es 0 []).map (fun k => (i, k)) }
      State.fillRows s1 o own f1 (Nat.lor bits ((if sat then MPLSAT else 0) + (if tern then MTERN else 0))) rs

/-! ### Fills issued (R158-R160) -/

/-- The slots or halves changed at one target. -/
def Lease.updOperand (l : Lease) (slot : Bool) (t : Fin 8) (f : Operand → Operand) : Lease :=
  if slot then { l with slots := wr l.slots t (f (rd l.slots t)) }
  else
    let h : Fin 2 := Fin.ofNat 2 t.val
    { l with halves := wr l.halves h (f (rd l.halves h)) }

/-- The operand of a target. -/
def Lease.operand (l : Lease) (slot : Bool) (t : Fin 8) : Operand :=
  if slot then rd l.slots t else rd l.halves (Fin.ofNat 2 t.val)

/-- A fill issued for a lease: numbered at its target, its operation made, its first event on the agenda. -/
def State.newFill (s : State) (token : Option (Fin 8)) (l : Lease) (f : FillJob) : State :=
  let n := (l.operand f.slot f.target).issued + 1
  let s1 := s.updLease f.cluster l.id (fun (l : Lease) => l.updOperand f.slot f.target (fun (o : Operand) =>
    { o with pair := f.pair, issued := n }))
  s1.startOp token (.fill { f with num := n }) [] (fun id => .arrayFillComplete f.cluster id)

/-- Whether a queued chain awaits generation `n` of a half for another pair (R160). -/
def Lease.awaitsOther (l : Lease) (h : Fin 2) (n pair : Nat) : Bool :=
  l.cmds.any (fun c => match c with
    | .mma _ p _ _ _ slabs => p != pair && slabs.any (fun (sl : Slab) => sl.half == h && sl.gen == n)
    | _ => false)

/-- The checks of a quire row (R159): every part of every block it draws on, and COUNT. -/
def State.checkQuireRow (s : State) (q : QuireSrc) (count e k p : Nat) (rn : Bool) : Except Stop Unit := do
  allOk (blockRuns e k) (fun r => allOk (partsRead p rn) (fun i =>
    let w := if i = 0 then (0, 16) else (r.2.1 * planeBits (i - 1) / 8, r.2.2 * planeBits (i - 1) / 8)
    s.checkPart q r.1 i w.1 w.2 false))
  need (decide (e + k ≤ count)) .capb

/-- Whether a failure is one of bounds. -/
def Stop.isBounds : Stop → Bool
  | .trap .capb _ => true
  | _ => false

/-- The fields of a fill's parameter (R158): target, indexed form, first index register, pair, planes, RN, zeros for what
is out of bounds, count; whether the reserved bits are 0. -/
structure FillPar where
  target : Nat
  idx : Bool
  vidx : Nat
  pair : Nat
  planes : Nat
  rn : Bool
  oobz : Bool
  count : Nat
  rest : Bool
  deriving DecidableEq, Repr

def FillPar.of (v : Quad) : FillPar :=
  { target := qf v 0 3, idx := qf v 3 1 == 1, vidx := qf v 4 5, pair := qf v 9 5, planes := qf v 14 2, rn := qf v 16 1 == 1,
    oobz := qf v 17 1 == 1, count := qf v 18 7, rest := qf v 25 103 == 0 }

/-- Whether a parameter is allowed: a slot's takes no index, a half's number is 0 or 1 (R158). -/
def FillPar.ok (p : FillPar) (slot : Bool) : Bool :=
  p.rest && decide (1 ≤ p.count) && decide (p.count ≤ 64) &&
  (if slot then !p.idx && p.vidx == 0
   else decide (p.target ≤ 1) && (if p.idx then p.vidx % 2 == 0 && decide (p.vidx ≤ 28) else p.vidx == 0))

/-- The row of memory that row `i` of a fill takes: its own number, or the index in a lane (R158). -/
def State.rowNumber (s : State) (p : FillPar) (i : Nat) : Nat :=
  if p.idx then (lane32 (rd s.me.v (Fin.ofNat 32 (p.vidx + i / 32))) (i % 32)).toNat else i

/-- Pitch, K offset and length of a fill, from the geometry registers of its side (R156). -/
def State.fillGeo (s : State) (slot : Bool) : Nat × Nat × Nat :=
  let geo := fun (i : Fin 64) => (rd s.me.geo i).toNat
  if slot then (geo 3, geo 4, geo 5) else (geo 0, geo 1, geo 2)

/-- The rows of a fill from plain elements: those out of bounds are zeros under OOBZ, and trap else (R158, R159). -/
def State.plainRows (s : State) (slot : Bool) (p : FillPar) (c : CVal) : Except Stop (List FillRow × State) := do
  let (pitch, koff, _) := s.fillGeo slot
  let segs := fillSegs (sideOf p.pair slot) koff (pairK p.pair) 1 false
  let rows ← mapOk (List.range p.count) (fun i =>
    let r := FillRow.plain c (c.addr + BitVec.ofNat 64 (s.rowNumber p i * pitch))
    match (segs r).find? (fun q => !c.inBounds q.2.1.toNat q.2.2) with
    | none => .ok r
    | some q => if p.oobz then .ok .zeros else .error (.trap .capb (some q.2.1)))
  allOk rows (fun r => allOk (segs r) (fun q => s.checkAccess c [.ld, .eng] q.2.1 q.2.2 1))
  pure (rows, s)

/-- The rows of a fill from a quire (R158, R159). -/
def State.quireRows (s : State) (slot : Bool) (p : FillPar) (c : CVal) : Except Stop (List FillRow × State) := do
  let (_, koff, len) := s.fillGeo slot
  let (src, count, s) ← s.quireDesc c
  let rows ← mapOk (List.range p.count) (fun i =>
    let e := s.rowNumber p i * len + koff
    match s.checkQuireRow src count e (pairK p.pair) (p.planes + 1) p.rn with
    | .ok () => .ok (FillRow.quire src e)
    | .error x => if p.oobz ∧ x.isBounds then .ok .zeros else .error x)
  pure (rows, s)

/-- The rows of a fill, after the checks of its capability and geometry; a half's rows stand in SRAM (R158, R159). -/
def State.rowsToFill (s : State) (slot : Bool) (p : FillPar) (c : CVal) : Except Stop (List FillRow × State) := do
  let fmt := sideOf p.pair slot
  let (_, koff, _) := s.fillGeo slot
  need c.tag .capt
  need (c.hasAll [.ld, .eng]) .capp
  need (if c.has .quire then koff % 32 == 0 && fmt.dBits == some (planesN (p.planes + 1))
        else p.planes == 0 && (if fmt.dBits.isSome then koff % 32 == 0 else koff * fmt.bits % 32 == 0)) .ill
  let r ← if c.has .quire then s.quireRows slot p c else s.plainRows slot p c
  need (slot || r.1.all (fun x => (fillSegs fmt koff (pairK p.pair) (p.planes + 1) p.rn x).all
    (fun q => q.1.has .local || df q.2.1 56 8 == 1))) .ill
  pure r

/-- `mldb` and `mgath` (R158, R159). -/
def fillInstr (slot : Bool) (g k : Fin 8) (a b : Fin 64) (s : State) : Out := issue g 4 s fun s => do
  s.noAwait
  s.notSpec
  let l ← s.myLease
  s.engineFree
  let (c, s) ← s.useC a
  let (y, s) ← s.useC b
  let p := FillPar.of y.val
  need (p.ok slot) .ill
  let (rows, s) ← s.rowsToFill slot p c
  need (slot || !l.awaitsOther (Fin.ofNat 2 p.target) ((l.operand false (Fin.ofNat 8 p.target)).issued + 1) p.pair) .ill
  pure (s.newFill (some k) l
    { cluster := clusterOf s.cur.1, lease := l.id, slot := slot, target := Fin.ofNat 8 p.target, num := 0, pair := p.pair,
      planes := p.planes + 1, rn := p.rn, koff := (s.fillGeo slot).2.1, k := pairK p.pair, todo := rows, elems := [], bad := [] })

/-- `mldb` (R158). -/
def execMldb (g k : Fin 8) (a b : Fin 64) (s : State) : Out := fillInstr true g k a b s

/-- `mgath` (R158). -/
def execMgath (g k : Fin 8) (a b : Fin 64) (s : State) : Out := fillInstr false g k a b s

/-- Whether an earlier command still reads what a fill replaces, or an earlier fill of its target has not landed
(R160). -/
def State.fillBlocked (s : State) (l : Lease) (id : Nat) (f : FillJob) : Bool :=
  l.cmds.any (fun c => match c with
    | .mma seq _ _ _ _ slabs => decide (seq < id) && slabs.any (fun (sl : Slab) =>
        if f.slot then sl.slot == f.target else sl.half == Fin.ofNat 2 f.target.val && decide (sl.gen < f.num))
    | _ => false) ||
  decide ((l.operand f.slot f.target).landed + 1 < f.num)

/-- `ARRAY_FILL_COMPLETE`: a fill whose lease is resident and whose turn has come reads its rows; it lands, or is handed
back (R158-R160, R252). -/
def execArrayFillComplete (q : ClusterId) (id : Nat) (s : State) : Out :=
  match s.op id with
  | none => .next s
  | some o =>
    match o.job with
    | .fill f =>
      if s.house.frozen then .next (s.held (.arrayFillComplete q id))
      else if o.handed.isSome ∨ !o.bad.isEmpty ∨ f.cluster ≠ q then .next s
      else match (s.cluster q).lease f.lease with
        | none => .next s
        | some l =>
          let there : Bool := match l.st with | .resident _ => !l.moving | _ => false
          if !there ∨ s.fillBlocked l id f ∨ s.awaitsIssuer o then .next (s.post 100 (.arrayFillComplete q id))
          else
            let (f1, bits, x, s1) := s.fillRows o l.bin.isSome f 0 f.todo
            let s2 := s1.updLease q l.id (fun (l : Lease) => { l with mstat := Nat.lor l.mstat bits })
            match x with
            | some e => .next ((s2.updOp id (fun (p : Op) => { p with job := .fill f1 })).opFault { o with job := .fill f1 } e)
            | none =>
              let zeros := List.replicate (64 - f1.elems.length) (List.replicate f1.k zeroElem)
              let s3 := s2.updLease q l.id (fun (l : Lease) =>
                let l1 := l.updOperand f1.slot f1.target (fun (p : Operand) =>
                  { p with landed := f1.num, elems := f1.elems ++ zeros, bad := f1.bad })
                { l1 with lastUse := s.dt })
              .next ((s3.endOp id).pokeArray q)
    | _ => .next s

/-! ### Commands issued (R161, R162, R164, R165) -/

/-- A command queued behind the others; a full queue makes the strand wait (R155; 09 R214). -/
def State.queueCmd (s : State) (l : Lease) (c : Cmd) : Except Stop State :=
  if 16 ≤ l.cmds.length then .error (.wait s)
  else .ok ((s.updLease (clusterOf s.cur.1) l.id (fun (l : Lease) => { l with cmds := l.cmds ++ [c] })).pokeArray (clusterOf s.cur.1))

/-- The slabs of a command over `n` slabs. -/
def Lease.slabs (l : Lease) (half : Fin 2) (slot : Fin 8) (n : Nat) : List Slab :=
  (List.range n).map (fun j =>
    let h : Fin 2 := Fin.ofNat 2 (half.val + j)
    let w : Fin 8 := Fin.ofNat 8 (slot.val + j)
    { half := h, gen := (rd l.halves h).issued + j / 2, slot := w, fill := (rd l.slots w).issued, j := j })

/-- The scale operand of a command (R161; 02 R44, R45): c0 is the factor 1 for both operands. -/
def State.scaleOf (s : State) (i : Fin 64) (slabs : Nat) : Except Stop CVal := do
  need (decide (i.val < 60)) .ill
  let v := s.me.creg i
  if i = 0 then pure (.plain 0x7F7F)
  else if v.tag then do
    need (v.has .scale) .capp
    s.checkAccess v [.ld, .eng] v.addr (2048 * slabs) 16
    pure v
  else do
    need (qf v.val 16 112 == 0) .ill
    pure v

/-- `mma` and `mrun` (R161, R162): function `fn` is 0 to add, 1 to set, 2 to subtract. -/
def matrixCmd (fn : Nat) (chain : Bool) (g : Fin 8) (x : Fin 32) (a : Fin 8) (h : Fin 2) (w : Fin 8) (c : Fin 64) (s : State) : Out :=
  issue g 4 s fun s => do
    s.notSpec
    let l ← s.myLease
    need (decide (a.val < l.nacc)) .lease
    let n := if chain then (rd s.me.geo 7).toNat else 1
    let slabs := l.slabs h w n
    need (slabs.all (fun sl =>
      (rd l.slots sl.slot).issued != 0 && (rd l.slots sl.slot).pair == x.val &&
      (decide (2 ≤ sl.j) || ((rd l.halves sl.half).issued != 0 && (rd l.halves sl.half).pair == x.val)))) .ill
    let v ← s.scaleOf c n
    let (seq, s) := s.newId
    s.queueCmd l (.mma seq x.val fn a v slabs)

/-- `mma` (R161). -/
def execMma (g : Fin 8) (x : Fin 32) (a : Fin 8) (h : Fin 2) (w : Fin 8) (c : Fin 64) (s : State) : Out :=
  matrixCmd 0 false g x a h w c s

/-- `mma.set` (R161). -/
def execMmaSet (g : Fin 8) (x : Fin 32) (a : Fin 8) (h : Fin 2) (w : Fin 8) (c : Fin 64) (s : State) : Out :=
  matrixCmd 1 false g x a h w c s

/-- `mma.sub` (R161). -/
def execMmaSub (g : Fin 8) (x : Fin 32) (a : Fin 8) (h : Fin 2) (w : Fin 8) (c : Fin 64) (s : State) : Out :=
  matrixCmd 2 false g x a h w c s

/-- `mrun` (R162). -/
def execMrun (g : Fin 8) (x : Fin 32) (a : Fin 8) (h : Fin 2) (w : Fin 8) (c : Fin 64) (s : State) : Out :=
  matrixCmd 0 true g x a h w c s

/-- `mrun.set` (R162). -/
def execMrunSet (g : Fin 8) (x : Fin 32) (a : Fin 8) (h : Fin 2) (w : Fin 8) (c : Fin 64) (s : State) : Out :=
  matrixCmd 1 true g x a h w c s

/-- `mrun.sub` (R162). -/
def execMrunSub (g : Fin 8) (x : Fin 32) (a : Fin 8) (h : Fin 2) (w : Fin 8) (c : Fin 64) (s : State) : Out :=
  matrixCmd 2 true g x a h w c s

/-- `mzero` (R164). -/
def execMzero (g d : Fin 8) (s : State) : Out := issue g 4 s fun s => do
  s.notSpec
  let l ← s.myLease
  need (decide (d.val < l.nacc)) .lease
  s.queueCmd l (.mzero d)

/-- `mrd` (R165). `mgeo` accepts an `rpitch` that is a multiple of 4 and not of 8; that a RAW read-out which finds one traps
`ill` is the model's choice (log entry 69). -/
def execMrd (g k : Fin 8) (la : Fin 16) (a b : Fin 64) (s : State) : Out := issue g 4 s fun s => do
  s.noAwait
  s.notSpec
  let l ← s.myLease
  s.engineFree
  let (c, s) ← s.useC a
  let (y, s) ← s.useC b
  let fl := fun lo n => qf y.val lo n
  let acc : Fin 8 := Fin.ofNat 8 (fl 0 3)
  let toTile := fl 3 1 == 1
  let tile : Fin 8 := Fin.ofNat 8 (fl 4 3)
  let code := fl 9 5
  let mode := fl 14 3
  need (decide (acc.val < l.nacc)) .lease
  need (fl 18 110 == 0 && (decide (code ≤ 15) || code == 20 || code == 21) && decide (mode ≤ 4)) .ill
  let fmt := (Fmt.ofCode code).getD .f32
  need (if toTile then code != 21 && a == 0 && k == 0 && (fl 8 1 == 0 || fmt.bits == 32)
        else la == 0 && fl 7 1 == 0 && fl 8 1 == 0) .ill
  if toTile then do
    need (la == 0 || (s.tile tile).holder == some s.cur.2) .ill
    need ((s.tile tile).holder == some s.cur.2) .tile
  let pitch := rd s.me.geo 6
  let al := if code = 21 then 8 else 4
  if !toTile then do
    need (pitch.toNat % al == 0) .ill
    allOk (List.range 64) (fun i => s.checkAccess c [.st, .eng] (c.addr + BitVec.ofNat 64 i * pitch) (8 * fmt.bits) al)
  if 16 ≤ l.cmds.length then throw (.wait s)
  let draws := if mode = 4 ∧ code ≠ 21 then (if toTile then 32 * (if fmt.bits = 32 then 32 else 64) else 4096) else 0
  let gen := s.me.srgen
  let s := s.updMe (fun (x : Strand) => { x with srgen := genAdvance x.srgen draws })
  let (win, s) := if toTile then
      (if la = 0 then (none, s.writesTile tile)
       else
        let w := s.openWin (.t tile) la.val { kind := .readout, cap := .null, va := 0, n := 0 } .pending
        (some w.1, w.2))
    else (none, s)
  let r := s.newOp (if toTile then none else some k)
    (.readout { cluster := clusterOf s.cur.1, lease := l.id, acc := acc, fmt := code, mode := mode, pitch := pitch, dst := c,
                tile := if toTile then some tile else none, win := win, rowh := fl 7 1, colh := fl 8 1, srgen := gen,
                zero := fl 17 1 == 1, captured := false, rows := [], fl := 0 }) []
  r.2.queueCmd l (.mrd r.1 acc)

/-- `mstat` (R166, R256). -/
def execMstat (g : Fin 8) (d a : Fin 64) (s : State) : Out := issue g 4 s fun s => do
  s.notSpec
  let l ← s.myLease
  let (v, s) ← s.useC a
  let sel := qf v.val 0 8
  need (qf v.val 9 119 == 0 && (decide (sel ≤ 5) || (decide (8 ≤ sel) && decide (sel ≤ 15)))) .ill
  need (decide (sel < 8) || decide (sel - 8 < l.nacc)) .lease
  let q := clusterOf s.cur.1
  if !l.cmds.isEmpty ∨ s.fillsOf q l.id then throw (.wait s)
  let x := s.cluster q
  let clr := v.val.getLsbD 8
  let r : Dbl :=
    if sel = 0 then BitVec.ofNat 64 (l.mstat + 2 ^ 16 * l.cmds.length)
    else if sel ≤ 4 then (x.ecc[sel - 1]?).getD 0
    else if sel = 5 then BitVec.ofNat 64 x.eccOvf
    else ((rd l.acc (Fin.ofNat 8 (sel - 8))).x).signExtend 64
  let s := if clr ∧ sel = 0 then s.updLease q l.id (fun (l : Lease) => { l with mstat := 0 })
    else if clr ∧ sel ≤ 5 ∧ s.mySys then s.updCluster q (fun (x : Cluster) => { x with ecc := [], eccOvf := 0 })
    else s
  s.putX d r

/-! ### The accumulator update (02 R54-R56) -/

/-- Value of an element's leading bit, as an exponent. -/
def OElem.lead (e : OElem) : Int := (Nat.log2 e.val.natAbs : Int) + e.exp

/-- The nonzero products of a row and a column as counts and exponents; none where an operand is NaN or infinite. -/
def products (neg : Bool) (a b : List OElem) : Option (List (Int × Int)) :=
  if a.any (·.special) ∨ b.any (·.special) then none
  else some (((a.zip b).filter (fun p => p.1.val != 0 && p.2.val != 0)).map (fun p =>
    ((if neg then -1 else 1) * p.1.val * p.2.val, p.1.exp + p.2.exp)))

/-- floor(log2 |q|) of the largest product of a list. -/
def leadOf (l : List (Int × Int)) : Option Int :=
  l.foldl (fun r p =>
    let x : Int := (Nat.log2 p.1.natAbs : Int) + p.2
    match r with | none => some x | some y => some (if y < x then x else y)) none

/-- The larger of two leading exponents, if any. -/
def maxLead : Option Int → Option Int → Option Int
  | none, y => y
  | x, none => x
  | some x, some y => some (if x < y then y else x)

/-- A count of 2^`e` floored to a count of 2^`q` (02 R55). -/
def floorTo (v e q : Int) : Int := if q ≤ e then v * 2 ^ (e - q).toNat else v / 2 ^ (q - e).toNat

/-- One slab's update of a tile: the new tile and MSTAT bits (02 R55, R56). -/
def mmaTile (t : AccTile) (neg : Bool) (a b : List (List OElem)) : AccTile × Nat :=
  let at' := fun (l : List (List OElem)) (i : Nat) => (l[i]?).getD []
  let ps := (List.range 64).flatMap (fun i => (List.range 64).map (fun j => products neg (at' a i) (at' b j)))
  let es := ps.zip t.e.toList
  let p := es.foldl (fun r x => match x.1 with
    | some l => if x.2 = marker then r else maxLead r (leadOf l)
    | none => r) (none : Option Int)
  let x := t.x.toInt
  let xn : Int := match p with | none => x | some y => max x (y - 46)
  let rs := es.map (fun e =>
    if e.2 = marker then (marker, 0)
    else match e.1 with
      | none => (marker, MNAN)
      | some l =>
        let sum := e.2.toInt / 2 ^ (xn - x).toNat + (l.map (fun q => floorTo q.1 q.2 xn)).foldl (· + ·) 0
        let c := clamp63 sum
        (BitVec.ofInt 64 c.1, flagIf c.2 MSAT))
  let v := (rs.map (·.1)).toArray
  ({ x := BitVec.ofInt 16 xn, e := vofFn (fun i => v.getD i.val 0) }, flags (rs.map (·.2)))

/-- Whether MX scaling applies to a format (02 R44). -/
def Fmt.mx : Fmt → Bool
  | .e4m3 | .e5m2 | .e3m2 | .e2m3 | .e2m1 | .i8 => true
  | _ => false

/-- A row under its MX scale bytes, one for 32 elements. -/
def scaleRow (fmt : Fmt) (sc : List Nat) (row : List OElem) : List OElem :=
  row.zipIdx.map (fun p =>
    let x : Nat := (sc[p.2 / 32]?).getD 255
    if x = 255 then { special := true, val := 0, exp := 0 }
    else { p.1 with exp := p.1.exp + Int.ofNat x - 127 - (if fmt = .i8 then 6 else 0) })

/-- A row under one factor (02 R45). -/
def factorRow (x : Nat) (row : List OElem) : List OElem :=
  row.map (fun p => if x = 255 then { special := true, val := 0, exp := 0 } else { p with exp := p.exp + (x : Int) - 127 })

/-- The scale bytes of a row at `va`; an unreadable byte is 255, and the second result says so (R163). What the read meets
is logged once (21 R387). -/
def State.scaleBytes (s : State) (w : Who) (c : CVal) (va : Dbl) (n : Nat) : List Nat × Bool × State :=
  match s.homeRead w (c.has .local) va n with
  | .ok (bs, s1) => (bs.map (fun (b : RByte) => b.1.toNat), false, s1)
  | .error (_, s1) =>
    let r := (List.range n).map (fun i => match s1.homeRead w (c.has .local) (va + BitVec.ofNat 64 i) 1 with
      | .ok (bs, _) => ((bs.map (fun (b : RByte) => b.1.toNat)).headD 255, false)
      | .error _ => (255, true))
    (r.map (·.1), r.any (·.2), s1)

/-- The rows of an operand under the scale bytes that begin at `va`, 16 bytes a row. -/
def State.scaleRows (s : State) (w : Who) (c : CVal) (fmt : Fmt) (k : Nat) (va : Dbl) :
    List (List OElem) → List (List OElem) × Bool × State
  | [] => ([], false, s)
  | row :: rows =>
    let b := s.scaleBytes w c va (k / 32)
    let r := b.2.2.scaleRows w c fmt k (va + 16) rows
    (scaleRow fmt b.1 row :: r.1, b.2.1 || r.2.1, r.2.2)

/-- The rows of an operand of slab `j`, scaled; `off` is where its scale bytes begin in a record. -/
def State.scaled (s : State) (w : Who) (c : CVal) (fmt : Fmt) (k j off sh : Nat) (rows : List (List OElem)) :
    List (List OElem) × Bool × State :=
  if c.tag then
    if fmt.mx then s.scaleRows w c fmt k (c.addr + BitVec.ofNat 64 (2048 * j + off)) rows
    else (rows, false, s)
  else (rows.map (factorRow (qf c.val sh 8)), false, s)

/-! ### The log of uncorrectable words (R164, R256) -/

/-- An entry of the array's log. -/
def eccEntry (acc row kpos slab : Nat) (b : Bool) (owner : Nat) : Dbl :=
  BitVec.ofNat 64 (acc % 8 + 2 ^ 3 * (row % 64) + 2 ^ 9 * (kpos % 2048) + 2 ^ 20 * (slab % 8) + (if b then 2 ^ 23 else 0) +
    2 ^ 24 * owner + 2 ^ 63)

/-- An event in the array's log; the housekeeping core receives it too (R256). -/
def State.eccLog (s : State) (q : ClusterId) (e : Dbl) : State :=
  (s.updCluster q (fun (x : Cluster) =>
    if x.ecc.length < 4 then { x with ecc := x.ecc ++ [e] } else { x with eccOvf := hold 0xFFFFFFFF (x.eccOvf + 1) })).updHouse
    (fun (h : House) => { h with ecc := h.ecc ++ [(q, e)] })

/-- The owner of a lease as the log names it. -/
def Lease.owner (l : Lease) : Nat := match l.bin with | some n => 0x180 + n.val | none => l.core.val

/-- Who makes a lease's accesses. -/
def Lease.who (l : Lease) : Who := { core := l.core, asid := l.asid, eng := true }

/-! ### Commands executed (R161-R165, R254) -/

/-- One slab of a command executed. -/
def State.runSlab (s : State) (q : ClusterId) (l : Lease) (pair fn : Nat) (acc : Fin 8) (scale : CVal) (sl : Slab) : State :=
  let h := rd l.halves sl.half
  let w := rd l.slots sl.slot
  let (fa, fb) := pairOf pair
  let a := s.scaled l.who scale fa (pairK pair) sl.j 0 0 h.elems
  let b := a.2.2.scaled l.who scale fb (pairK pair) sl.j 1024 8 w.elems
  let t := if fn = 1 ∧ sl.j = 0 then AccTile.zero else rd l.acc acc
  let r := mmaTile t (fn == 2) a.1 b.1
  let bad := h.bad.map (fun p => eccEntry acc.val p.1 p.2 sl.j false l.owner) ++
    w.bad.map (fun p => eccEntry acc.val p.1 p.2 sl.j true l.owner)
  let bits := flags [r.2, flagIf (a.2.1 || b.2.1) MSCF, flagIf (!bad.isEmpty) MECC]
  let s1 := b.2.2.updLease q l.id (fun (l : Lease) => { l with acc := wr l.acc acc r.1, mstat := Nat.lor l.mstat bits })
  bad.foldl (fun s e => s.eccLog q e) s1

/-- An element read out: code and flags (02 R57). -/
def readElem (fmt : Fmt) (mode : RMode) (x : Int) (a : Dbl) (u : Nat) : Nat × Nat :=
  if fmt = .raw then (a.toNat, 0)
  else roundTo fmt (if a = marker then .nan true else ofInt a.toInt x false) mode u

/-- Some elements of a tile read out, by row and column, in row-major order. -/
def readOut (r : Readout) (t : AccTile) (rows cols : List Nat) : List (List Nat) × Nat :=
  let fmt := (Fmt.ofCode r.fmt).getD .f32
  let mode := (RMode.ofCode r.mode).getD .rne
  let out := rows.zipIdx.map (fun i => cols.zipIdx.map (fun j =>
    readElem fmt mode t.x.toInt (rd t.e (Fin.ofNat 4096 (64 * i.1 + j.1))) (genDraw r.srgen (cols.length * i.2 + j.2))))
  (out.map (fun l => l.map (·.1)), flags (out.map (fun l => flags (l.map (·.2)))))

/-- A read-out captured: the bytes to write, or the rows of a tile register (R165, R254). -/
def State.capture (s : State) (q : ClusterId) (l : Lease) (o : Op) (r : Readout) : State :=
  let t := rd l.acc r.acc
  let bits := ((Fmt.ofCode r.fmt).getD .f32).bits
  let s1 := if r.zero then s.updLease q l.id (fun (l : Lease) => { l with acc := wr l.acc r.acc .zero }) else s
  match r.tile with
  | some _ =>
    let cols := if bits = 32 then (List.range 32).map (· + 32 * r.colh) else List.range 64
    let v := readOut r t ((List.range 32).map (· + 32 * r.rowh)) cols
    let rows := v.1.map (fun l => BitVec.ofNat 1024 (packBits bits l))
    (s1.updOp o.id (fun (p : Op) => { p with job := .readout { r with captured := true, rows := rows, fl := v.2 } })).post 17
      (.readoutDrain q o.id)
  | none =>
    let v := readOut r t (List.range 64) (List.range 64)
    let buf := v.1.zipIdx.flatMap (fun p =>
      let va := r.dst.addr + BitVec.ofNat 64 p.2 * r.pitch
      (granules 0 (fun i => va + BitVec.ofNat 64 i) 1024 0 (toBytes (8 * bits) (packBits bits p.1))).map (fun g => (r.dst, g.2.1, g.2.2)))
    (s1.updOp o.id (fun (p : Op) => { p with job := .readout { r with captured := true, fl := v.2 }, buf := buf })).post 17
      (.readoutDrain q o.id)

/-- Read-outs captured and not yet drained: the array has two buffers (R254). -/
def State.buffersUsed (s : State) (q : ClusterId) : Nat :=
  (s.ops.filter (fun (o : Op) => match o.job with | .readout r => r.cluster == q && r.captured | _ => false)).length

/-- Whether a lease's oldest command has every operand in place (R246). -/
def Lease.ready (l : Lease) : Bool :=
  match l.cmds with
  | [] => false
  | .mma _ _ _ _ _ (sl :: _) :: _ => (rd l.halves sl.half).landed == sl.gen && (rd l.slots sl.slot).landed == sl.fill
  | _ => true

/-- Whether a lease may take the turn (R246, R247). -/
def Lease.eligible (l : Lease) : Bool :=
  match l.st with
  | .resident _ => !l.moving && l.ready
  | _ => false

/-- The head of a queue taken off, or its slab. -/
def Lease.advance (l : Lease) : Lease :=
  match l.cmds with
  | .mma a b c d e (_ :: x :: xs) :: cs => { l with cmds := .mma a b c d e (x :: xs) :: cs }
  | _ :: cs => { l with cmds := cs }
  | [] => l

/-- `ARRAY_COMMAND_COMPLETE`: the active lease's oldest command, or its next slab, executes (R161, R254); the
scales that a slab reads from memory are read after what the issuer stored before the command (18 R326). -/
def execArrayCommandComplete (q : ClusterId) (s : State) : Out :=
  match (s.cluster q).turn.bind (s.cluster q).lease with
  | none => .next s
  | some l =>
    if s.house.frozen then .next (s.held (.arrayCommandComplete q))
    else if !l.eligible then .next (s.pokeArray q)
    else
      let done := fun (s : State) =>
        let s1 := (s.updLease q l.id Lease.advance).updLease q l.id (fun (l : Lease) => { l with lastUse := s.dt })
        (s1.updCluster q (fun (x : Cluster) => { x with turnCmds := x.turnCmds + 1 })).pokeArray q
      match l.cmds with
      | .mma seq pair fn acc scale (sl :: _) :: _ =>
        if scale.tag && s.issuerBehind l.core l.wid seq then .next (s.post 20 (.arrayCommandComplete q))
        else .next (done (s.runSlab q l pair fn acc scale sl))
      | .mzero acc :: _ => .next (done (s.updLease q l.id (fun (l : Lease) => { l with acc := wr l.acc acc .zero })))
      | .mrd id _ :: _ =>
        if 2 ≤ s.buffersUsed q then .next (s.post 20 (.arrayCommandComplete q))
        else match s.op id with
          | some o => match o.job with
            | .readout r => .next (done (s.capture q l o r))
            | _ => .next (done s)
          | none => .next (done s)
      | _ => .next (done s)

/-- What became of a window's access, told to its strand, in its slot, its saved image, or its upcall record. -/
def State.setWin (s : State) (c : CoreId) (wid id : Nat) (r : WinRes) : State :=
  let f := fun (x : Strand) => x.mapWins (fun (w : Window) =>
    if w.id == id && w.res == .pending then { w with res := r } else w)
  (s.updWork c wid f).updCore c (fun (x : Core) =>
    { x with recs := x.recs.map (fun (u : UpRec) => if u.wid == wid then { u with strand := f u.strand } else u) })

/-- Granules of a read-out written until none is left or one meets a translation fault. `own` says that a bin's access is
made, whose translation faults count as violations, and each of whose failures is logged at its home (21 R408). -/
def State.drain (s : State) (o : Op) (own : Bool) : List (CVal × Dbl × List Byte) → List (CVal × Dbl × List Byte) × Option FaultInfo × State
  | [] => ([], none, s)
  | (c, va, bs) :: l =>
    match s.homeWrite o.who (c.has .local) [(va, bs)] [] with
    | .ok s1 => s1.drain o own l
    | .error (f, s1) =>
      if f.cause = .translation ∧ !own then ((c, va, bs) :: l, some f, s1)
      else
        let after := s1.logRefused o.who f
        (if own then after else State.opErrors ((s.op o.id).getD o) 1 s after).drain o own l

/-- `READOUT_DRAIN`: 32 granules of a read-out written, or a tile register's rows made visible (R165, R254). -/
def execReadoutDrain (q : ClusterId) (id : Nat) (s : State) : Out :=
  match s.op id with
  | none => .next s
  | some o =>
    match o.job with
    | .readout r =>
      if s.house.frozen then .next (s.held (.readoutDrain q id))
      else if !r.captured ∨ o.handed.isSome ∨ !o.bad.isEmpty then .next s
      else if s.awaitsIssuer o then .next (s.post 20 (.readoutDrain q id))
      else match r.tile with
        | some t =>
          let s1 := match r.win with
            | some w => s.setWin o.core o.wid w (.rows r.rows r.fl)
            | none => (s.updTile o.core t (fun (x : Tile) => { x with rows := vofFn (fun i => (r.rows[i.val]?).getD 0) })).updWork
                o.core o.wid (fun (x : Strand) => { x with fflags := x.fflags ||| BitVec.ofNat 32 r.fl })
          .next ((s1.endOp id).pokeArray q)
        | none =>
          let bin := ((s.cluster q).lease r.lease).bind (·.bin)
          let (left, f, s1) := s.drain o bin.isSome (o.buf.take 32)
          let s2 := s1.updOp id (fun (p : Op) => { p with buf := left ++ o.buf.drop 32 })
          match f with
          | some e => .next (s2.opFault o e)
          | none =>
            if (o.buf.drop 32).isEmpty then
              let s3 := (s2.updWork o.core o.wid (fun (x : Strand) =>
                { x with fflags := x.fflags ||| BitVec.ofNat 32 r.fl })).endOp id
              let s4 := match bin with | some b => s3.postOnce 10 (.sheetDone q b) | none => s3
              .next (s4.pokeArray q)
            else .next (s2.post 10 (.readoutDrain q id))
    | _ => .next s

/-! ### Grants, turns, spills (R244-R247) -/

/-- The oldest candidate at the first position after the pointer; those of a reserved partition go first (R245). -/
def State.chooseLease (s : State) (q : ClusterId) (cands : List Lease) : Option Lease :=
  let cs := if cands.any s.reflex then cands.filter s.reflex else cands
  (List.range 32).findSome? (fun d => cs.find? (fun (l : Lease) => l.pos.val == ((s.cluster q).ptr.val + 1 + d) % 32))

/-- Whether a fill moves into a lease's frame: one whose turn has come and whose remainder is not handed back (R245). -/
def State.filling (s : State) (q : ClusterId) (l : Lease) : Bool :=
  s.ops.any (fun (o : Op) => match o.job with
    | .fill f => f.cluster == q && f.lease == l.id && o.handed.isNone && !s.fillBlocked l o.id f
    | _ => false)

/-- The frame that a grant or restore takes: the least recently used idle lease's (R152, R245, R247). -/
def State.victim (s : State) (q : ClusterId) (reflex : Bool) : Option Lease :=
  let x := s.cluster q
  let idle := x.leases.filter (fun (l : Lease) =>
    (match l.st with | .resident _ => true | _ => false) && !l.moving && x.turn != some l.id && (reflex || !s.reflex l) &&
    !s.filling q l)
  let pool := if idle.any (fun l => !s.reflex l) then idle.filter (fun l => !s.reflex l) else idle
  pool.foldl (fun r l => match r with
    | none => some l
    | some m => if l.lastUse < m.lastUse then some l else some m) none

/-- A frame that no lease holds. -/
def Cluster.freeFrame (x : Cluster) : Option (Fin 2) := (List.finRange 2).find? (fun i => (rd x.frames i).isNone)

/-- Whether a lease holds a frame. -/
def Lease.isResident (l : Lease) : Bool := match l.st with | .resident _ => true | _ => false

/-- Leases without a frame for which one is being emptied (R245, R247). -/
def Cluster.expecting (x : Cluster) : Nat := (x.leases.filter (fun (l : Lease) => l.moving && !l.isResident)).length

/-- Frames that are free or being emptied. -/
def Cluster.comingFrames (x : Cluster) : Nat :=
  ((List.finRange 2).filter (fun i => (rd x.frames i).isNone)).length +
  (x.leases.filter (fun (l : Lease) => l.moving && l.isResident)).length

/-- Whether a frame that is free or being emptied is for a lease that has been chosen, or, before that, is left for one more:
each lease chosen earlier has a claim on one (R245, R247). -/
def Cluster.frameFor (x : Cluster) (chosen : Bool) : Bool :=
  decide (x.expecting + (if chosen then 0 else 1) ≤ x.comingFrames)

/-- A spill begun: the lease's frame moves (R247). -/
def State.beginSpill (s : State) (q : ClusterId) (l : Lease) : State :=
  (s.updLease q l.id (fun (l : Lease) => { l with moving := true })).post 200 (.arraySpill q l.id)

/-- Room in the engine queue of a lease's strand for its grant record (01 R16). -/
def State.grantRoom (s : State) (l : Lease) : Bool :=
  !l.grantq || s.engqRoom l.core l.wid l.id

/-- A lease granted into a frame (R153). The array's cycle count in the record is a free value. -/
def State.grantLease (s : State) (q : ClusterId) (l : Lease) (f : Fin 2) : State :=
  let (fv, s) := s.free
  let s1 := s.updCluster q (fun (x : Cluster) => { x with frames := wr x.frames f (some l.id) })
  let s2 := s1.updLease q l.id (fun (l : Lease) => { l with
    st := .resident f, moving := false, lastUse := s.dt, acc := Vector.replicate 8 .zero, mstat := 0 })
  let s3 := s2.tellToken l.core l.wid l.token Token.down
  let rec' := BitVec.ofNat 128 (l.nacc + 2 ^ 4 * f.val + 2 ^ 8 * q.val + 2 ^ 16 * fld fv.toNat 0 48)
  let s4 := if l.grantq then s3.pushEngq l.core l.wid l.id rec' else s3
  match l.bin with
  | some b => s4.postOnce 1 (.sheetDone q b)
  | none => s4

/-- The requests that may be granted: the oldest of each position, if its grant record has room; a later one of the same
core does not go ahead of it (R244; 01 R16). -/
def State.grantable (s : State) (q : ClusterId) : List Lease :=
  let reqs := (s.cluster q).leases.filter (fun (l : Lease) => l.st == .requested)
  reqs.filter (fun (l : Lease) => (reqs.find? (fun (m : Lease) => m.pos == l.pos)).any (fun m => m.id == l.id) && s.grantRoom l)

/-- The pointer of R245 moved to the position of a lease that `choose` has returned; one chosen before stays where it was put. -/
def State.pointTo (s : State) (q : ClusterId) (l : Lease) : State :=
  if l.moving then s else s.updCluster q (fun (x : Cluster) => { x with ptr := l.pos })

/-- `LEASE_GRANT`: a request takes a free frame that is kept for no other lease, or has one spilled for it, or waits (R244,
R245). -/
def execLeaseGrant (q : ClusterId) (s : State) : Out :=
  let x := s.cluster q
  let held := (x.leases.filter (fun (l : Lease) => l.st != .requested)).length
  if s.house.frozen then .next (s.held (.leaseGrant q))
  else if x.leases.all (fun (l : Lease) => l.st != .requested) ∨ 32 ≤ held then .next s
  else
    let reqs := s.grantable q
    let kept := reqs.filter (fun (l : Lease) => l.moving)
    let again := s.postOnce 100 (.leaseGrant q)
    match s.chooseLease q (if kept.isEmpty then reqs else kept) with
    | none => .next again
    | some l =>
      if x.frameFor l.moving then
        match x.freeFrame with
        | some f => .next ((((s.pointTo q l).grantLease q l f).postOnce 10 (.leaseGrant q)).pokeArray q)
        | none => .next again
      else match s.victim q (s.reflex l) with
        | some v => .next ((((s.pointTo q l).updLease q l.id (fun (l : Lease) => { l with moving := true })).beginSpill q
            v).postOnce 300 (.leaseGrant q))
        | none => .next again

/-- The parts of a lease that hold data, as a spill writes them: the layout of slots, halves and fill records is the
array's own (R249; log entry 9). -/
def Lease.parts (l : Lease) (f : VReg) : List (Nat × List Byte) :=
  ((List.finRange 8).filter (fun i => (rd l.slots i).landed != 0)).map (fun i => (12288 * i.val, freeBytes f 12288)) ++
  ((List.finRange 2).filter (fun i => (rd l.halves i).landed != 0)).map (fun i => (98304 + 12288 * i.val, freeBytes f 12288)) ++
  ((List.finRange 8).filter (fun i => decide (i.val < l.nacc))).map (fun i => (122880 + 8 * i.val, toBytes 8 (rd l.acc i).x.toNat)) ++
  [(122944, toBytes 8 (l.mstat + 2 ^ 16 * l.cmds.length)), (122952, freeBytes f 184)] ++
  ((List.finRange 8).filter (fun i => decide (i.val < l.nacc))).map (fun i =>
    (123136 + 32768 * i.val, (rd l.acc i).e.toList.flatMap (fun e => toBytes 8 e.toNat)))

/-- `ARRAY_SPILL`: a lease's frame goes to its save area; accumulator writes owed are drained first (R152, R249). -/
def execArraySpill (q : ClusterId) (id : Nat) (s : State) : Out :=
  match (s.cluster q).lease id with
  | none => .next s
  | some l =>
    match l.st with
    | .resident f =>
      if !l.moving then .next s
      else if s.house.frozen then .next (s.held (.arraySpill q id))
      else
        let (fv, s0) := s.free
        let parts := l.parts fv
        let s1 := parts.foldl (fun s p =>
          match s.homeWrite l.who (l.save.has .local) [(l.save.addr + BitVec.ofNat 64 p.1, p.2)] [] with
          | .ok s2 => s2
          | .error (_, s2) => s2) s0
        let s2 := s1.updLease q id (fun (l : Lease) => { l with st := .spilled, moving := false, spill := parts })
        let s3 := s2.updCluster q (fun (x : Cluster) =>
          { x with frames := wr x.frames f none, spills := hold 0xFFFF (x.spills + 1) })
        .next ((s3.postOnce 1 (.leaseGrant q)).pokeArray q)
    | _ => .next s

/-- What a restore finds in one part of the save area: unchanged but for some uncorrectable words, by offset, or changed
(R153, R255); and the state with what the homes have logged (21 R386, R387). -/
def State.readBack (s : State) (l : Lease) (p : Nat × List Byte) : (Bool × List Nat) × State :=
  let va := l.save.addr + BitVec.ofNat 64 p.1
  let loc := l.save.has .local
  match s.homeRead l.who loc va p.2.length with
  | .ok (bs, s1) => ((bs.map (·.1) != p.2, []), s1)
  | .error _ =>
    let ws := (List.range (p.2.length / 8)).map (fun i =>
      match s.homeRead l.who loc (va + BitVec.ofNat 64 (8 * i)) 8 with
      | .ok (bs, _) => (bs.map (fun (b : RByte) => b.1) != (p.2.drop (8 * i)).take 8, false, 8 * i)
      | .error (f, _) => (f.cause != Cause.uncorrectable, f.cause == Cause.uncorrectable, 8 * i))
    let after := (List.range (p.2.length / 8)).foldl (fun (s : State) i =>
      match s.homeRead l.who loc (va + BitVec.ofNat 64 (8 * i)) 8 with
      | .ok (_, s1) => s1
      | .error (_, s1) => s1) s
    ((ws.any (fun w => w.1), (ws.filter (fun w => w.2.1)).map (fun w => w.2.2)), after)

/-- The parts of a save area read back in turn. -/
def State.readAll (s : State) (l : Lease) : List (Nat × List Byte) → List (Nat × Bool × List Nat) × State
  | [] => ([], s)
  | p :: ps =>
    let r := s.readBack l p
    let q := r.2.readAll l ps
    ((p.1, r.1) :: q.1, q.2)

/-- A lease whose save area another party wrote: its operands and accumulators are free values (R153). -/
def Lease.scramble (l : Lease) (n : Nat) : Lease :=
  let op := fun (k : Nat) (o : Operand) => { o with elems := o.elems.zipIdx.map (fun r => r.1.zipIdx.map (fun e =>
    ({ special := (Config.freeValue (n + k + 1536 * r.2 + e.2)).getLsbD 80
       val := ((Config.freeValue (n + k + 1536 * r.2 + e.2)).setWidth 64).toInt
       exp := (((Config.freeValue (n + k + 1536 * r.2 + e.2)) >>> 64).setWidth 8).toInt } : OElem))) }
  { l with
    acc := vofFn (fun t => { x := (Config.freeValue (n + t.val)).setWidth 16
                             e := vofFn (fun i => (Config.freeValue (n + 8 + 4096 * t.val + i.val)).setWidth 64) })
    slots := vofFn (fun i => op (40000 + 100000 * i.val) (rd l.slots i))
    halves := vofFn (fun i => op (840000 + 100000 * i.val) (rd l.halves i)) }

/-- The elements that an uncorrectable word of a slot or half held, zeroed: word `w` of 24 to a row (R255). -/
def Operand.zeroWord (o : Operand) (bits w : Nat) : Operand :=
  { o with elems := o.elems.zipIdx.map (fun r => if r.2 = w / 24 then r.1.zipIdx.map (fun e =>
      if bits * e.2 < 64 * (w % 24) + 64 ∧ 64 * (w % 24) < bits * e.2 + bits then zeroElem else e.1) else r.1) }

/-- An uncorrectable word at an offset of the save area: a marker in an accumulator, zeros in a slot or half, logged. -/
def State.restoreBad (s : State) (q : ClusterId) (id off : Nat) : State :=
  match (s.cluster q).lease id with
  | none => s
  | some l =>
    if 123136 ≤ off then
      let t : Fin 8 := Fin.ofNat 8 ((off - 123136) / 32768)
      let i := (off - 123136) % 32768 / 8
      (s.updLease q id (fun (l : Lease) =>
        let a := rd l.acc t
        { l with acc := wr l.acc t { a with e := wr a.e (Fin.ofNat 4096 i) marker }, mstat := Nat.lor l.mstat (MECC + MNAN) })).eccLog
        q (eccEntry t.val (i / 64) 2047 0 false l.owner)
    else if off < 122880 then
      let slot := decide (off < 98304)
      let t : Fin 8 := Fin.ofNat 8 (if slot then off / 12288 else (off - 98304) / 12288)
      let w := off % 12288 / 8
      let bits := (sideOf (l.operand slot t).pair slot).bits
      (s.updLease q id (fun (l : Lease) =>
        let l1 := l.updOperand slot t (fun (o : Operand) => o.zeroWord bits w)
        { l1 with mstat := Nat.lor l1.mstat MECC })).eccLog q (eccEntry 0 (w / 24) (64 * (w % 24) / bits) 0 slot l.owner)
    else s

/-- `ARRAY_RESTORE`: a spilled lease that has been chosen takes a free frame with what its save area holds, or has a
frame spilled for it (R152, R247, R255). -/
def execArrayRestore (q : ClusterId) (id : Nat) (s : State) : Out :=
  match (s.cluster q).lease id with
  | none => .next s
  | some l =>
    if l.st ≠ .spilled ∨ !l.moving then .next s
    else if s.house.frozen then .next (s.held (.arrayRestore q id))
    else if !(s.cluster q).frameFor true then
      match s.victim q (s.reflex l) with
      | some v => .next ((s.beginSpill q v).post 300 (.arrayRestore q id))
      | none => .next (s.post 100 (.arrayRestore q id))
    else match (s.cluster q).freeFrame with
      | none => .next (s.post 100 (.arrayRestore q id))
      | some f =>
        let (found, s0) := s.readAll l l.spill
        let s1 := s0.updCluster q (fun (x : Cluster) => { x with frames := wr x.frames f (some id) })
        let s2 := s1.updLease q id (fun (l : Lease) => { l with st := .resident f, moving := false, lastUse := s.dt, spill := [] })
        let s3 : State := if found.any (fun p => p.2.1) then
            { (s2.updLease q id (fun (l : Lease) => l.scramble s.freshN)) with freshN := s.freshN + 2000000 }
          else s2
        let s4 := (found.flatMap (fun p => p.2.2.map (· + p.1))).foldl (fun s o => s.restoreBad q id o) s3
        .next (s4.pokeArray q)

/-- A restore begun for a chosen lease. -/
def State.beginRestore (s : State) (q : ClusterId) (id : Nat) : State :=
  (s.updLease q id (fun (l : Lease) => { l with moving := true })).post 100 (.arrayRestore q id)

/-- Nanoseconds of 4,096 cycles (R246, R250). -/
def turnLimit : Nat := 2170

/-- `ARRAY_TURN`: the turn given among eligible resident leases and spilled ones with commands (R246, R247); it is looked at
again when its 4,096 cycles have passed. -/
def execArrayTurn (q : ClusterId) (s : State) : Out :=
  let x := s.cluster q
  if x.turn.isSome then .next s
  else
    let cands := x.leases.filter (fun (l : Lease) => l.eligible || (l.st == .spilled && !l.moving && !l.cmds.isEmpty))
    match s.chooseLease q cands with
    | none => .next s
    | some l =>
      let s1 := s.updCluster q (fun (x : Cluster) => { x with ptr := l.pos })
      if l.st = .spilled then .next ((s1.beginRestore q l.id).postOnce 1 (.arrayTurn q))
      else .next (((s1.updCluster q (fun (x : Cluster) =>
        { x with turn := some l.id, turnCmds := 0, turnAt := s.dt })).postOnce 9 (.arrayCommandComplete q)).post turnLimit
          (.arrayTurnEnd q))

/-- Whether the array executes a command, or one waits for a read-out buffer with the turn held (R254): its completion is to
come. -/
def State.commandRuns (s : State) (q : ClusterId) : Bool := s.agenda.any (fun e => e.2 == .arrayCommandComplete q)

/-- `ARRAY_TURN_END`: at a command boundary the turn ends or goes on; a spilled lease of a reserved partition with
commands is restored at once (R246, R247). -/
def execArrayTurnEnd (q : ClusterId) (s : State) : Out :=
  let x := s.cluster q
  let urgent := x.leases.filter (fun (l : Lease) => l.st == .spilled && !l.moving && !l.cmds.isEmpty && s.reflex l)
  let s0 := urgent.foldl (fun (s : State) (l : Lease) => s.beginRestore q l.id) s
  let s1 := if x.leases.any (fun (l : Lease) => l.st == .requested) then s0.postOnce 10 (.leaseGrant q) else s0
  match x.turn.bind x.lease with
  | none => .next (s1.postOnce 1 (.arrayTurn q))
  | some l =>
    if s1.commandRuns q then .next s1
    else
    let others := x.leases.filter (fun (m : Lease) => m.id != l.id && m.eligible)
    let forReflex := others.any s.reflex && !s.reflex l
    if 32 ≤ x.turnCmds ∨ turnLimit ≤ s.dt - x.turnAt ∨ (!l.eligible ∧ !others.isEmpty) ∨ forReflex then
      .next ((s1.updCluster q (fun (x : Cluster) =>
        { x with turn := none, revokes := if forReflex then hold 0xFFFF (x.revokes + 1) else x.revokes })).postOnce 1 (.arrayTurn q))
    else if l.eligible then .next (s1.postOnce 9 (.arrayCommandComplete q))
    else .next s1

end Sys2Proof.Machine
end

