-- ==== Sys2Proof/Machine/Net.lean ====
section
/-! DEFINITION. Handler-table entries and the units of inboxes; messages on their way: the coding of payloads, dictionaries, sequence numbers, routes between the dies
(07 R176-R178, R183; 09 R218; 13 R274-R279; 18 R332). -/

namespace Sys2Proof.Machine

/-! ### Handler-table entries (07 R183) -/

def Chan.f (c : Chan) (lo n : Nat) : Nat := qf c.ctl lo n
def Chan.prio (c : Chan) : Nat := c.f 0 2
def Chan.masked (c : Chan) : Bool := c.f 4 1 == 1
def Chan.inlok (c : Chan) : Bool := c.f 5 1 == 1
def Chan.det (c : Chan) : Bool := c.f 6 1 == 1
def Chan.win (c : Chan) : Option (Fin 32) := if c.f 12 1 = 1 then some (Fin.ofNat 32 (c.f 7 5)) else none
def Chan.quota (c : Chan) : Nat := c.f 13 8
def Chan.cap (c : Chan) : Nat := c.f 21 32
def Chan.ovfCore (c : Chan) : CoreId := Fin.ofNat 384 (c.f 53 9)
def Chan.ovfCh (c : Chan) : Fin 64 := Fin.ofNat 64 (c.f 62 6)
def Chan.ovfV (c : Chan) : Bool := c.f 68 1 == 1
def Chan.asid (c : Chan) : BitVec 16 := BitVec.ofNat 16 (c.f 69 16)

/-- A control word with the `n` bits from `lo` up replaced. -/
def ctlSet (q : Quad) (lo n x : Nat) : Quad :=
  (q &&& ~~~(BitVec.ofNat 128 ((2 ^ n - 1) * 2 ^ lo))) ||| BitVec.ofNat 128 (x % 2 ^ n * 2 ^ lo)

/-- The capacity and overflow fields that `chcap` names, put into an entry (07 R186): CAP, OVFCORE, OVFCH, OVFV. -/
def Chan.withCap (c : Chan) (v : Dbl) : Chan :=
  { c with ctl := ctlSet (ctlSet (ctlSet (ctlSet c.ctl 21 32 (df v 0 32)) 53 9 (df v 32 9)) 62 6 (df v 41 6)) 68 1 (df v 47 1) }

def State.updChan (s : State) (c : CoreId) (ch : Fin 64) (f : Chan → Chan) : State :=
  s.updCore c (fun (x : Core) => { x with chan := wr x.chan ch (f (rd x.chan ch)) })

def State.updCount (s : State) (c : CoreId) (ch : Fin 64) (f : ChCount → ChCount) : State :=
  s.updCore c (fun (x : Core) => { x with chst := wr x.chst ch (f (rd x.chst ch)) })

/-! ### Units (R218) -/

/-- Units that a channel holds. -/
def Core.heldBy (x : Core) (ch : Fin 64) : Nat := (x.inbox.filter (fun (m : InMsg) => m.chan == ch)).length

/-- Whether a unit is free for a channel: of the sixteen of channels 0-3, or of the 112 of the others. -/
def Core.poolRoom (x : Core) (ch : Fin 64) : Bool :=
  let sys := fun (c : Fin 64) => decide (c.val < 4)
  let n := (x.inbox.filter (fun (m : InMsg) => sys m.chan == sys ch)).length
  decide (n < (if sys ch then 16 else 112))

/-- Whether a channel may hold one more unit. -/
def Core.quotaRoom (x : Core) (ch : Fin 64) : Bool :=
  let q := (rd x.chan ch).quota
  q == 0 || decide (x.heldBy ch < q)

/-- Whether channel 3 can take a close packet: it is dropped there, or finds a unit. -/
def Core.closeRoom (x : Core) : Bool := !(rd x.chan 3).code.tag || (x.poolRoom 3 && x.quotaRoom 3)

/-! ### Packets (R176) -/

/-- Fields of an address-event packet. -/
def aepSrc (a : Quad) : BitVec 16 := BitVec.ofNat 16 (qf a 0 16)
def aepChan (a : Quad) : Fin 64 := Fin.ofNat 64 (qf a 26 6)
def aepKind (a : Quad) : Nat := qf a 24 2
def aepTs (a : Quad) : Word := BitVec.ofNat 32 (qf a 32 32)
def aepAddr (a : Quad) : Nat := qf a 64 32
def aepVal (a : Quad) : Word := BitVec.ofNat 32 (qf a 96 32)

/-- Flag bits of word 0. -/
def fInline : Nat := 16
def fLate : Nat := 17
def fOverflow : Nat := 18
def fCompressed : Nat := 19
def fDet : Nat := 20
def fReset : Nat := 21

/-- A packet with a flag set, or with a flag cleared. -/
def aepSet (a : Quad) (bit : Nat) : Quad := a ||| (1 <<< bit)
def aepClear (a : Quad) (bit : Nat) : Quad := a &&& ~~~((1 : Quad) <<< bit)

/-- A packet on another channel. -/
def aepOn (a : Quad) (ch : Fin 64) : Quad := (a &&& ~~~((63 : Quad) <<< 26)) ||| BitVec.ofNat 128 (2 ^ 26 * ch.val)

/-- The delivery word of a message (R176). -/
def deliveryWord (m : InMsg) : Quad :=
  BitVec.ofNat 128 (m.words.length + 2 ^ 6 * m.wtype.toNat + (if m.aep.getLsbD fInline then 256 else 0) + 2 ^ 32 * m.seq.toNat)

/-- The source identifier of a core (09 R224). -/
def coreSrc (c : CoreId) : BitVec 16 := BitVec.ofNat 16 (0x8000 + c.val)

/-- What messages of one order have in common: their sender, and for a sender other than a core their source (R219). -/
def msgKey (m : Msg) : Sender × BitVec 16 :=
  (m.sender, match m.sender with | .core _ => 0 | _ => aepSrc m.aep)

/-! ### The coding of payloads (R275-R277) -/

/-- Whether a word is a zero of its type (R276). -/
def isTypedZero (t : BitVec 2) (x : Word) : Bool :=
  match t.toNat with
  | 1 => x.setWidth 31 == 0
  | 2 => x &&& 0x7FFF7FFF == 0
  | _ => x == 0

/-- The `n` low bits of a number, least significant first. -/
def bitsLow (n x : Nat) : List Bool := (List.range n).map (fun i => x.testBit i)

/-- A word put at the head of a dictionary, its last entry dropped. -/
def pushDict (d : List Word) (x : Word) : List Word := (x :: d).take 8

/-- The code of a word, and the dictionary after it (R275). -/
def codeWord (t : BitVec 2) (d : List Word) (x : Word) : List Bool × List Word :=
  if isTypedZero t x then ([false, false], d)
  else match d.findIdx? (· == x) with
    | some j => ([false, true] ++ bitsLow 3 j, d)
    | none => match d.findIdx? (fun y => y.toNat / 2 ^ 16 == x.toNat / 2 ^ 16) with
      | some j => ([true, false] ++ bitsLow 3 j ++ bitsLow 16 x.toNat, pushDict d x)
      | none => ([true, true] ++ bitsLow 32 x.toNat, pushDict d x)

/-- The stream of a payload, and the dictionary after it. -/
def codeWords (t : BitVec 2) : List Word → List Word → List Bool × List Word
  | d, [] => ([], d)
  | d, x :: xs =>
    let r := codeWord t d x
    let q := codeWords t r.2 xs
    (r.1 ++ q.1, q.2)

/-- A number from its bits, least significant first. -/
def ofBitList : List Bool → Nat
  | [] => 0
  | b :: bs => (if b then 1 else 0) + 2 * ofBitList bs

/-- Bits in 32-bit words, the unused ones of the last 0. -/
def bitWords : Nat → List Bool → List Word
  | 0, _ => []
  | n + 1, bs => BitVec.ofNat 32 (ofBitList (bs.take 32)) :: bitWords n (bs.drop 32)

/-- The words that travel, whether they are compressed, and the dictionary after them (R277). -/
def compress (t : BitVec 2) (d ws : List Word) : List Word × Bool × List Word :=
  let r := codeWords t d ws
  let n := (r.1.length + 31) / 32
  if n < ws.length then (bitWords n r.1, true, r.2) else (ws, false, r.2)

/-- `n` words read from a stream, and the dictionary after them. -/
def decodeBits : Nat → List Word → List Bool → List Word × List Word
  | 0, d, _ => ([], d)
  | n + 1, d, bs =>
    let cons := fun (x : Word) (r : List Word × List Word) => (x :: r.1, r.2)
    match bs with
    | false :: false :: l => cons 0 (decodeBits n d l)
    | false :: true :: l => cons ((d[ofBitList (l.take 3)]?).getD 0) (decodeBits n d (l.drop 3))
    | true :: false :: l =>
      let hi := ((d[ofBitList (l.take 3)]?).getD 0).toNat / 2 ^ 16
      let x : Word := BitVec.ofNat 32 (2 ^ 16 * hi + ofBitList ((l.drop 3).take 16))
      cons x (decodeBits n (pushDict d x) (l.drop 19))
    | true :: true :: l =>
      let x : Word := BitVec.ofNat 32 (ofBitList (l.take 32))
      cons x (decodeBits n (pushDict d x) (l.drop 32))
    | _ => ([], d)

/-- The words of a message and the receiver's dictionary after it: raw words run the same steps, and a zero of the type
arrives as +0 either way (R276, R277). -/
def decompress (t : BitVec 2) (packed : Bool) (n : Nat) (d ws : List Word) : List Word × List Word :=
  if packed then decodeBits n d (ws.flatMap (fun w => bitsLow 32 w.toNat))
  else (ws.map (fun w => if isTypedZero t w then 0 else w), (codeWords t d ws).2)

/-! ### Dictionaries (R274, R278) -/

/-- Where a core's dictionary of a peer stands in its slice. -/
def dictAt (c p : CoreId) (recv : Bool) : Nat := slicePhys c ((if recv then 0x1FD000 else 0x1FA000) + 32 * p.val)

def State.dict (s : State) (c p : CoreId) (recv : Bool) : List Word :=
  (List.range 8).map (fun i => BitVec.ofNat 32 (memNat s.mem (dictAt c p recv + 4 * i) 4))

def State.setDict (s : State) (c p : CoreId) (recv : Bool) (d : List Word) : State :=
  { s with mem := memWrite s.mem (dictAt c p recv) (d.flatMap (fun w => toBytes 4 w.toNat)) }

/-! ### Sequence numbers (R176) -/

/-- The value of a key in a list of pairs, 0 where it has none. -/
def countOf (l : List (Nat × Word)) (k : Nat) : Word := ((l.find? (fun p => p.1 == k)).map (·.2)).getD 0

/-- The list with a key's value replaced. -/
def setCount (l : List (Nat × Word)) (k : Nat) (v : Word) : List (Nat × Word) := (k, v) :: l.filter (fun p => p.1 != k)

/-- Whether a core's cluster is in service (22 R392). -/
def State.served (s : State) (c : CoreId) : Bool := s.house.ready.getLsbD (clusterOf c).val

/-- A message of a core as its NI makes it: coded and numbered (R176, R178, R275, R278); a forwarded one carries the marks of
its new pair alone (14 R291). -/
def State.codeMsg (s : State) (c dest : CoreId) (aep : Quad) (words : List Word) (wtype : BitVec 2)
    (waiter : Option Waiter) : Msg × State :=
  let x := s.core c
  let seq := countOf x.seqOut dest.val
  let (ws, packed, d) := compress wtype (s.dict c dest false) words
  let aep := aepClear (aepClear aep fCompressed) fReset
  let a := if packed then aepSet aep fCompressed else aep
  let a := if x.fresh.contains dest.val then aepSet a fReset else a
  let m : Msg :=
    { aep := a, stream := ws, count := words.length, wtype := wtype, seq := seq, sender := .core c, waiter := waiter }
  let s1 := s.setCore c { x with seqOut := setCount x.seqOut dest.val (seq + 1), fresh := x.fresh.filter (· != dest.val) }
  (m, s1.setDict c dest false d)

/-- A message of a core made by its NI, and on its way. -/
def State.sendFrom (s : State) (c dest : CoreId) (aep : Quad) (words : List Word) (wtype : BitVec 2)
    (waiter : Option Waiter) : State :=
  let r := s.codeMsg c dest aep words wtype waiter
  r.2.route dest r.1

/-- A packet of a sender that is no core, on its way. -/
def State.sendPacket (s : State) (dest : CoreId) (sender : Sender) (aep : Quad) (words : List Word) : State :=
  s.route dest { aep := aep, stream := words, count := words.length, wtype := 0, seq := 0, sender := sender, waiter := none }

end Sys2Proof.Machine
end

