-- ==== Sys2Proof/Machine/Deckle.lean ====
section
/-! DEFINITION. The Deckle: bins, the capture of events into sheets, the array work of a closed sheet, "sheet done"
(07 R189-R192; 08 R209-R211; 09 R233-R236; 21 R390, R408). -/

namespace Sys2Proof.Machine

/-! ### A bin's control word (R189) -/

def Bin.f (b : Bin) (lo n : Nat) : Nat := fld b.ctl.toNat lo n
def Bin.en (b : Bin) : Bool := b.f 0 1 == 1
def Bin.fmt (b : Bin) : Fmt := (Fmt.ofCode (b.f 79 5)).getD .i8
def Bin.rowLimit (b : Bin) : Nat := b.f 84 7
def Bin.owner (b : Bin) : CoreId := Fin.ofNat 384 (b.f 108 9)
def Bin.window (b : Bin) : Option (Fin 32) := if b.f 96 1 = 1 then some (Fin.ofNat 32 (b.f 91 5)) else none
def Bin.who (b : Bin) : Who := { core := b.owner, asid := b.asid, eng := true }

/-- Bytes of a sheet buffer. -/
def sheetBytes : Nat := 12288

/-- The capability and address of byte `o` of the buffer of sheet `q` (R210). -/
def Bin.bufAt (b : Bin) (q : Word) (o : Nat) : Dbl := b.sheet.addr + BitVec.ofNat 64 (sheetBytes * (q.toNat % 2) + o)

def State.updBin (s : State) (q : ClusterId) (b : Fin 16) (f : Bin → Bin) : State :=
  s.updCluster q (fun (x : Cluster) => { x with bins := wr x.bins b (f (rd x.bins b)) })

def State.bin (s : State) (q : ClusterId) (b : Fin 16) : Bin := rd (s.cluster q).bins b

/-- Whether some closed sheet of a bin still owes array work. -/
def Bin.working (b : Bin) : Bool := b.due.isSome || b.sealed.any (fun (x : Sheet) => decide (x.stage < 3))

/-! ### A bin's own accesses (21 R408) -/

/-- Bytes written line by line; what fails is logged and left unwritten. -/
def State.binWrite (s : State) (w : Who) (loc : Bool) : List (Dbl × Nat) → List Byte → State
  | [], _ => s
  | (va, n) :: ps, bs =>
    let s1 := match s.homeWrite w loc [(va, bs.take n)] [] with
      | .ok s1 => s1
      | .error (f, s1) => s1.logRefused w f
    s1.binWrite w loc ps (bs.drop n)

/-- Bytes read line by line; what fails is logged and reads as zeros. -/
def State.binRead (s : State) (w : Who) (loc : Bool) : List (Dbl × Nat) → List Byte × State
  | [] => ([], s)
  | (va, n) :: ps =>
    let r := match s.homeRead w loc va n with
      | .ok (bs, s1) => (bs.map (fun (x : RByte) => x.1), s1)
      | .error (f, s1) => (List.replicate n 0, s1.logRefused w f)
    let t := r.2.binRead w loc ps
    (r.1 ++ t.1, t.2)

/-! ### The element operation (R189) -/

/-- An event's VAL in a format: a signed integer clamped, or an F32 converted. -/
def binValue (f : Fmt) (val : Word) : Nat :=
  (roundTo f (if f.float.isSome then (Fmt.f32.decode val.toNat).1 else ofInt val.toInt 0 false) .rne).1

/-- An element after an event: set, saturating add, or maximum. -/
def binElement (f : Fmt) (op old x : Nat) : Nat :=
  let a := (f.decode old).1
  let y := (f.decode x).1
  match op with
  | 0 => x
  | 1 =>
    let v := (fAdd a y).1
    let r := roundTo f v .rne
    if Nat.land r.2 OF ≠ 0 then (roundTo f v .rtz).1 else r.1
  | _ =>
    match (fMinMax true a y).1 with
    | .nan _ => f.nanCode
    | _ => if y.isNan then old else if a.isNan then x else if fLt a y || (fEq a y && a.isNeg && !y.isNeg) then x else old

/-! ### Closing a sheet (R233, R234) -/

/-- A bin's sheet sealed, its number consumed, its work asked for. -/
def State.sealSheet (s : State) (q : ClusterId) (b : Fin 16) (reason : Nat) : State :=
  (s.updBin q b (fun (x : Bin) =>
    { x with
      sealed := x.sealed ++ [{ seq := x.seq, rows := x.rows, reason := reason, stage := 0, win := x.window }]
      seq := x.seq + 1, rows := 0, openAt := none, due := none })).postOnce 1 (.sheetDone q b)

/-- A bin's sheet closed; a frozen bin closes it for the first reason that has come up, when it is released (R390). -/
def State.closeSheet (s : State) (q : ClusterId) (b : Fin 16) (reason : Nat) : State :=
  if s.house.frozen then
    (s.updBin q b (fun (x : Bin) => { x with due := some (x.due.getD reason) })).postOnce 100 (.sheetTimeout q b)
  else s.sealSheet q b reason

/-! ### Capture (R209, R210, R233, R235) -/

/-- The bin that an event for a core is offered to first and that takes it. -/
def State.binFor (s : State) (c : CoreId) (ch : Fin 64) (src : BitVec 16) : Option (Fin 16) :=
  (List.finRange 16).find? (fun i =>
    let b := s.bin (clusterOf c) i
    b.en && b.owner == c && b.f 1 6 == ch.val && decide (b.f 16 16 ≤ src.toNat) && decide (src.toNat ≤ b.f 32 16))

/-- Row and column that an event names. -/
def Bin.place (b : Bin) (addr : Nat) : Nat × Nat :=
  (Nat.land (addr / 2 ^ b.f 48 5) (b.f 53 8), Nat.land (addr / 2 ^ b.f 61 5) (b.f 66 11))

/-- An element written into the open sheet. -/
def State.binPut (s : State) (b : Bin) (row col : Nat) (val : Word) : State :=
  let bits := b.fmt.bits
  let lo := col * bits
  let n := (lo % 8 + bits + 7) / 8
  let parts := partsOf (b.bufAt b.seq (192 * row + lo / 8)) n
  let (bs, s1) := s.binRead b.who (b.sheet.has .local) parts
  let w := ofBytes bs
  let old := fld w (lo % 8) bits
  let new := binElement b.fmt (b.f 77 2) old (binValue b.fmt val)
  s1.binWrite b.who (b.sheet.has .local) parts (toBytes n (w - 2 ^ (lo % 8) * old + 2 ^ (lo % 8) * new))

/-- An event captured by a bin, or nothing while the buffer that its sheet needs, a frozen engine, or a close that a freeze
has put off, holds it (R235, R390). -/
def State.capEvent (s : State) (q : ClusterId) (i : Fin 16) (addr : Nat) (val : Word) : Option State :=
  let b := s.bin q i
  let (row, col) := b.place addr
  if s.house.frozen ∨ b.due.isSome ∨ (b.openAt.isNone ∧ b.sealed.any (fun (x : Sheet) => x.seq == b.seq - 2)) then none
  else if b.rowLimit ≤ row then
    some ((s.updBin q i (fun (x : Bin) => { x with drops := hold 0xFFFF (x.drops + 1) })).closeSheet q i 4)
  else if b.fmt.slab ≤ col then
    some (s.updBin q i (fun (x : Bin) => { x with drops := hold 0xFFFF (x.drops + 1) }))
  else
    let s1 := match b.openAt with
      | some _ => s
      | none =>
        let s0 := s.binWrite b.who (b.sheet.has .local) (partsOf (b.bufAt b.seq 0) sheetBytes) (List.replicate sheetBytes 0)
        (s0.updBin q i (fun (x : Bin) => { x with openAt := some s.dt })).post (500 * b.f 97 11) (.sheetTimeout q i)
    let s2 := (s1.binPut b row col val).updBin q i (fun (x : Bin) => { x with rows := max x.rows (row + 1) })
    some (if row + 1 = b.rowLimit then s2.closeSheet q i 0 else s2)

/-- Whether a close packet has reached its place at an NI: it is the next of its window, every bound source that it does
not name as lagging has reached its target here, and it has crossed to the core's die (R230; 22 R392). -/
def State.closeReady (s : State) (c : CoreId) (p : ClosePkt) : Bool :=
  let x := s.core c
  (x.closeWait.find? (fun (y : ClosePkt) => y.win == p.win)) == some p && s.served c && (dieOf c == 0 || s.linked) &&
  p.srcs.all (fun src => p.lag.contains src || (x.wmAt.find? (fun q => q.1 == src)).any (fun q => tsLe p.target q.2))

/-- `SHEET_TIMEOUT`: the open sheet has stood for its time; a window close that is delivered at its place at this moment goes
first; one that is refused for want of a unit has not come to its place (R233). A close that a freeze has put off is made when the engines are released (R390). -/
def execSheetTimeout (q : ClusterId) (b : Fin 16) (s : State) : Out :=
  let x := s.bin q b
  if s.house.frozen then .next (s.held (.sheetTimeout q b))
  else match x.due, x.openAt with
    | some r, _ => .next (s.sealSheet q b r)
    | none, some t =>
      let here : Bool := match x.window with
        | some k => (s.core x.owner).closeWait.any (fun (p : ClosePkt) =>
            p.win == k && s.closeReady x.owner p && (s.core x.owner).closeRoom)
        | none => false
      if s.dt < t + 500 * x.f 97 11 then .next s
      else if here then .next (s.post 10 (.sheetTimeout q b))
      else .next (s.closeSheet q b 2)
    | none, none => .next s

/-! ### The array work of a sheet (R190, R235, R236) -/

/-- The rows of a sheet, and the columns of BSRC, as fills read them. -/
def Bin.sheetRows (b : Bin) (q : Word) : List FillRow :=
  (List.range 64).map (fun r => FillRow.plain b.sheet (b.bufAt q (192 * r)))
def Bin.colRows (b : Bin) : List FillRow :=
  (List.range 64).map (fun j => FillRow.plain b.bsrc (b.bsrc.addr + BitVec.ofNat 64 (j * b.f 160 16)))

/-- An operation of a bin's lease. -/
def State.binOp (s : State) (l : Lease) (job : Job) : Nat × State :=
  let (id, s1) := s.newId
  let o : Op :=
    { id := id, core := l.core, wid := l.wid, grid := none, asid := l.asid, token := none, dom := none, deferred := false, job := job,
      todo := [], next := 0, buf := [], cur := none, idx := [], bad := [], handed := none, logged := false,
      failed := false }
  (id, { s1 with ops := s1.ops ++ [o] })

/-- A fill of a bin's lease. -/
def State.binFill (s : State) (q : ClusterId) (l : Lease) (slot : Bool) (t : Fin 8) (pair : Nat) (rows : List FillRow) : State :=
  let s1 := s.updLease q l.id (fun (l : Lease) => l.updOperand slot t (fun (o : Operand) => { o with pair := pair, issued := 1 }))
  let r := s1.binOp l (.fill
    { cluster := q, lease := l.id, slot := slot, target := t, num := 1, pair := pair, planes := 1, rn := false, koff := 0,
      k := pairK pair, todo := rows, elems := [], bad := [] })
  r.2.post 100 (.arrayFillComplete q r.1)

/-- The fills, the command and the read-out of a sheet given to its granted lease. -/
def State.sheetWork (s : State) (q : ClusterId) (b : Bin) (i : Fin 16) (l : Lease) (x : Sheet) : State :=
  let pair := b.f 117 5
  let slot : Fin 8 := Fin.ofNat 8 (b.f 122 3)
  let acc : Fin 8 := Fin.ofNat 8 (b.f 125 3)
  let s1 := (s.binFill q l true slot pair b.colRows).binFill q l false 0 pair (b.sheetRows x.seq)
  let gen : Quad := BitVec.ofNat 128 (b.f 176 64 + 2 ^ 64 * b.srctr.toNat)
  let pitch := b.f 144 16
  let r := s1.binOp l (.readout
    { cluster := q, lease := l.id, acc := acc, fmt := b.f 130 5, mode := b.f 135 3, pitch := BitVec.ofNat 64 pitch,
      dst := b.out.withAddr (b.out.addr + BitVec.ofNat 64 (64 * pitch * (x.seq.toNat % 2))), tile := none, win := none,
      rowh := 0, colh := 0, srgen := gen, zero := false, captured := false, rows := [], fl := 0 })
  let (seq, s2) := r.2.newId
  let cmd := Cmd.mma seq pair (b.f 128 2) acc (.plain 0x7F7F) [{ half := 0, gen := 1, slot := slot, fill := 1, j := 0 }]
  let s3 := s2.updLease q l.id (fun (l : Lease) => { l with cmds := l.cmds ++ [cmd, .mrd r.1 acc] })
  let s4 := if b.f 135 3 = 4 then s3.updBin q i (fun (y : Bin) => { y with srctr := y.srctr + 4096 }) else s3
  s4.pokeArray q

/-- "Sheet done" sent to the owner (R191). -/
def State.sendSheetDone (s : State) (q : ClusterId) (i : Fin 16) (b : Bin) (x : Sheet) : State :=
  let addr := x.reason + 2 ^ 3 * x.rows + 2 ^ 10 * ((x.win.map (·.val)).getD 0) + (if x.win.isSome then 2 ^ 15 else 0) +
    2 ^ 16 * i.val + 2 ^ 20 * (x.seq.toNat % 2)
  s.sendFrom b.owner b.owner
    (mkAep (b.f 138 6) 2 (0x8000 + b.owner.val) 0 s.now (BitVec.ofNat 32 addr) x.seq) [] 0 (some (.sheet q i x.seq))

/-- The oldest sheet of a bin moved to a stage. -/
def State.stageSheet (s : State) (q : ClusterId) (i : Fin 16) (n : Nat) : State :=
  s.updBin q i (fun (b : Bin) => { b with sealed := match b.sealed with | x :: xs => { x with stage := n } :: xs | [] => [] })

/-- `SHEET_DONE`: the oldest closed sheet of a bin goes on: its lease asked for, its work given to the array, its lease
freed and its owner told; until that message is accepted its buffer stays busy (R190, R235). -/
def execSheetDone (q : ClusterId) (b : Fin 16) (s : State) : Out :=
  let x := s.bin q b
  if s.house.frozen then .next (s.held (.sheetDone q b))
  else match x.sealed with
    | [] => .next s
    | h :: _ =>
      match h.stage with
      | 0 =>
        if h.rows = 0 then .next ((s.stageSheet q b 3).sendSheetDone q b x h)
        else
          let (wid, s1) := s.newId
          let r := s1.newLease q (Fin.ofNat 32 (16 + b.val)) x.owner wid (some b) x.asid (x.f 125 3 + 1) false none x.save
          .next ((r.2.updBin q b (fun (y : Bin) => { y with lease := some r.1 })).stageSheet q b 1)
      | 1 =>
        match x.lease.bind (s.cluster q).lease with
        | some l => if l.st = .requested then .next s else .next ((s.stageSheet q b 2).sheetWork q x b l h)
        | none => .next (s.stageSheet q b 0)
      | 2 =>
        match x.lease.bind (s.cluster q).lease with
        | some l =>
          let busy := !l.cmds.isEmpty || s.ops.any (fun (o : Op) => match o.job with
            | .readout r => r.cluster == q && r.lease == l.id
            | _ => false)
          if busy then .next s
          else
            let s1 := (s.dropLease q l.id).updBin q b (fun (y : Bin) => { y with lease := none })
            .next ((s1.stageSheet q b 3).sendSheetDone q b x h)
        | none => .next ((s.stageSheet q b 3).sendSheetDone q b x h)
      | _ => .next s

/-- The sheet whose "sheet done" has been accepted leaves its bin: its buffer is free, and events held for it are called
back (R219, R235). -/
def State.sheetAccepted (s : State) (q : ClusterId) (i : Fin 16) (seq : Word) : State :=
  let s1 := s.updBin q i (fun (b : Bin) => { b with sealed := b.sealed.filter (fun (x : Sheet) => !(x.seq == seq && x.stage == 3)) })
  let c := (s.bin q i).owner
  ((s.core c).refused.foldl (fun s r => s.postOnce 1 (.refusalCallback c r.chan)) s1).postOnce 1 (.sheetDone q i)

/-! ### dkcfg (R189, R190) -/

/-- The control part's limits. -/
def binCtlOk (q : ClusterId) (b : Bin) : Bool :=
  b.f 7 9 == 0 && b.f 240 272 == 0 && b.f 77 2 != 3 && decide (b.f 79 5 ≤ 15) && decide (1 ≤ b.rowLimit) &&
  decide (b.rowLimit ≤ 64) && decide (1 ≤ b.f 97 11) && decide (b.f 97 11 ≤ 2000) && decide (b.f 108 9 < 384) &&
  clusterOf b.owner == q && b.f 128 2 != 3 && (decide (b.f 130 5 ≤ 15) || b.f 130 5 == 20) && decide (b.f 135 3 ≤ 4) &&
  decide (4 ≤ b.f 138 6) && b.f 144 16 % 4 == 0 && b.fmt == (pairOf (b.f 117 5)).1

/-- Tag, permissions and alignment of a bin's area (R190). -/
def areaHead (c : CVal) (ps : List Perm) (al : Nat) : Except Stop Unit :=
  let va := c.addr
  if !c.tag then .error (.trap .capt (some va))
  else if !c.hasAll ps then .error (.trap .capp (some va))
  else if va.toNat % al ≠ 0 then .error (.trap .align (some va))
  else .ok ()

/-- Bytes of a bin's area in bounds, and on the cluster's die (R190). -/
def areaBounds (c : CVal) (va : Dbl) (n : Nat) : Except Stop Unit :=
  if c.inBounds va.toNat n then .ok () else .error (.trap .capb (some va))

def areaDie (q : ClusterId) (c : CVal) (va : Dbl) (n : Nat) : Except Stop Unit :=
  if !c.has .local ∧ offDieRange (coreAt q 0) va n then .error (.trap .xdie (some va)) else .ok ()

/-- The checks of an area of `n` bytes, in order. -/
def areaCheck (q : ClusterId) (c : CVal) (ps : List Perm) (al n : Nat) : Except Stop Unit := do
  areaHead c ps al
  areaBounds c c.addr n
  areaDie q c c.addr n

/-- A bin's record checked, after the capability that names it: OWNER, the control part, the four areas, in that order. -/
def checkBin (q : ClusterId) (b : Bin) (owner : Option CoreId) : Except Stop Unit := do
  match owner with
  | some c => need (b.owner == c && decide (b.f 108 9 < 384)) .capp
  | none => pure ()
  need (binCtlOk q b) .ill
  areaCheck q b.sheet [.ld, .st, .eng] 64 (2 * sheetBytes)
  need b.sheet.isSram .ill
  areaCheck q b.out [.st, .eng] 1 (128 * b.f 144 16)
  areaCheck q b.save [.ld, .st, .eng] 64 (saveBytes (b.f 125 3 + 1))
  let fmtB := (pairOf (b.f 117 5)).2
  areaHead b.bsrc [.ld, .eng] 1
  let segs := b.colRows.flatMap (fillSegs fmtB 0 (pairK (b.f 117 5)) 1 false)
  allOk segs (fun p => areaBounds b.bsrc p.2.1 p.2.2)
  allOk segs (fun p => areaDie q b.bsrc p.2.1 p.2.2)

/-- The bin that a 128-byte record describes. -/
def binOf (bs : List RByte) (asid : BitVec 16) : Bin :=
  let num := fun o n => ofBytes ((bs.drop o).take n |>.map (·.1))
  let cap := fun o => ({ val := BitVec.ofNat 128 (num o 16), tag := ((bs[o]?).map (·.2)).getD false } : CVal)
  { Bin.reset with sheet := cap 0, out := cap 16, save := cap 32, bsrc := cap 48, ctl := BitVec.ofNat 512 (num 64 64), asid := asid }

/-- A bin given a new record: its number and counts start again; the grids that had configured it hold it no more (R190,
19 R341). -/
def State.installBin (s : State) (q : ClusterId) (i : Fin 16) (b : Bin) : State :=
  let s1 := s.updBin q i (fun (old : Bin) => { b with sealed := old.sealed })
  let gs := s1.grids.filter (fun (g : Grid) => g.bins.contains (q, i))
  let s2 : State := { s1 with grids := s1.grids.map (fun (g : Grid) => { g with bins := g.bins.filter (· != (q, i)) }) }
  gs.foldl (fun s g => s.gridCheck (some g.id)) s2

/-- `dkcfg` (R189, R190). -/
def execDkcfg (g : Fin 8) (a b : Fin 64) (s : State) : Out := issue g 4 s fun s => do
  let (n, s) ← s.useC a
  let (r, s) ← s.useC b
  s.checkAccess r [.ld, .ldcap] r.addr 128 64
  let q := clusterOf s.cur.1
  let i : Fin 16 := Fin.ofNat 16 (qf n.val 0 4)
  let (bs, s) ← s.load s.cur.1 s.cur.2 s.nextId (r.has .local) r.addr 128
  let new := binOf bs s.me.asid
  checkBin q new (if s.mySys then none else some s.cur.1)
  let old := s.bin q i
  let s := if old.openAt.isSome then s.closeSheet q i 3 else s
  if (s.bin q i).working then throw (.wait s)
  pure (s.installBin q i new)

/-- `dkflush` and `dkstat` need OWNER to be the issuing core, or SYS (R192). -/
def State.ownBin (s : State) (v : CVal) : Except Stop (ClusterId × Fin 16) := do
  let q := clusterOf s.cur.1
  let i : Fin 16 := Fin.ofNat 16 (qf v.val 0 4)
  need ((s.bin q i).owner == s.cur.1 || s.mySys) .capp
  pure (q, i)

/-- `dkflush`: the sheet closes with reason flush; an idle bin with no window, and a disabled one, does nothing (R192,
R234). -/
def execDkflush (g : Fin 8) (a : Fin 64) (s : State) : Out := issue g 4 s fun s => do
  let (v, s) ← s.useC a
  let (q, i) ← s.ownBin v
  let b := s.bin q i
  pure (if b.en && (b.openAt.isSome || b.window.isSome) then s.closeSheet q i 3 else s)

/-- `dkstat` (R192). -/
def execDkstat (g : Fin 8) (d a : Fin 64) (s : State) : Out := issue g 4 s fun s => do
  let (v, s) ← s.useC a
  let (q, i) ← s.ownBin v
  let b := s.bin q i
  s.putC d (.plain (BitVec.ofNat 128 (b.seq.toNat + 2 ^ 32 * b.drops + 2 ^ 48 * b.rows + (if b.working then 2 ^ 55 else 0) +
    (if b.en then 2 ^ 56 else 0))))

end Sys2Proof.Machine
end

