-- ==== Sys2Proof/Machine/Inbox.lean ====
section
/-! DEFINITION. A core's network interface: arrival of messages and events, refusal, capacity, parking, handler choice
(07 R176-R188; 09 R215-R221, R226-R231; 13 R279; 14 R289-R292; 19 R349, R354). -/

namespace Sys2Proof.Machine

/-! ### Who is exempt from the rules of programs' messages -/

/-- Packets that no program sends: hand-backs, ticks and notices are never captured, parked, judged late, or held to a quota
(07 R184, R197; 19 R349). -/
def msgExempt (m : Msg) : Bool :=
  match m.sender with
  | .engine _ | .slotTimer _ | .housekeeping => true
  | _ => false

/-! ### Late arrivals (R231) -/

/-- The lowest-numbered window that finds a packet late at a core. That a disabled window finds nothing late is the model's
choice (log entry 69). -/
def State.lateBy (s : State) (c : CoreId) (a : Quad) : Option (Fin 32) :=
  (List.finRange 32).find? (fun k =>
    let w := rd s.wins k
    decide (w.st ≠ .disabled) && w.r.cores.getLsbD c.val && w.r.srcs.contains (aepSrc a) &&
    (((s.core c).closed.find? (fun p => p.1 == k)).any (fun p => tsLt (aepTs a) p.2)))

/-- LATEPOL and LATECH of a window (07 R181). -/
def WinRec.latePol (r : WinRec) : Nat := fld r.ctl.toNat 3 2
def WinRec.lateCh (r : WinRec) : Fin 64 := Fin.ofNat 64 (fld r.ctl.toNat 5 6)

/-! ### Landing on a channel -/

/-- A dropped message counted (R221). -/
def State.countDrop (s : State) (c : CoreId) (ch : Fin 64) (inline : Bool) : State :=
  if inline then s.updCore c (fun (x : Core) => { x with inldrop := hold 0xFFFFFFFF (x.inldrop + 1) })
  else s.updCount c ch (fun (n : ChCount) => { n with drops := hold 0xFFFF (n.drops + 1) })

/-- A message beyond its channel's capacity: forwarded once, or dropped (14 R290, R291). -/
def State.overflowMsg (s : State) (c : CoreId) (ch : Fin 64) (a : Quad) (ws : List Word) (t : BitVec 2) : State :=
  let e := rd (s.core c).chan ch
  let s1 := s.updCount c ch (fun (n : ChCount) => { n with ovfc := hold 0xFFFF (n.ovfc + 1) })
  if e.ovfV ∧ a.getLsbD fOverflow = false then s1.sendFrom c e.ovfCore (aepOn (aepSet a fOverflow) e.ovfCh) ws t none
  else s1.countDrop c ch (a.getLsbD fInline)

/-- A message written whole into the inbox, with a unit of its own. -/
def State.enqueue (s : State) (c : CoreId) (ch : Fin 64) (a : Quad) (ws : List Word) (t : BitVec 2) (seq : Word)
    (parked : Bool) : State :=
  (s.updCore c (fun (x : Core) => { x with
    units := x.units + 1
    inbox := x.inbox ++ [{ unit := x.units, chan := ch, aep := a, words := ws, wtype := t, seq := seq, parked := parked,
                           taken := false, since := s.dt }] })).offer c

/-- What becomes of a message at its place in delivery order. -/
inductive Landing where
  | accepted (s : State)
  | refused (s : State) (a : Quad) (counted nobin : Bool)

/-- A message with its words decoded: a discarded one passes (19 R352); another is judged late, offered to the bins, dropped, counted against capacity, parked,
written into the inbox, or refused (R209, R218, R219, R231; 14 R289, R290; 19 R354). -/
def State.deliver (s : State) (c : CoreId) (m : Msg) (ws : List Word) (judged nobin : Bool) : Landing :=
  if m.waiter = some .discarded then .accepted s else
  let kind := aepKind m.aep
  let exempt := msgExempt m
  let late := if judged || exempt || kind == 3 then none else s.lateBy c m.aep
  let s := match late with
    | some k => s.updWin k (fun (w : Win) => { w with latec := hold 0xFFFF (w.latec + 1) })
    | none => s
  let pol := (late.map (fun k => (rd s.wins k).r.latePol)).getD 2
  if pol = 0 then .accepted s
  else
    let a := match late with
      | some k => if pol = 1 then aepOn (aepSet m.aep fLate) (rd s.wins k).r.lateCh else aepSet m.aep fLate
      | none => m.aep
    let nobin := nobin || pol == 1
    let ch := aepChan a
    match (if kind = 0 ∧ !exempt ∧ !nobin then s.binFor c ch (aepSrc a) else none) with
    | some i =>
      match s.capEvent (clusterOf c) i (aepAddr a) (aepVal a) with
      | some s1 => .accepted s1
      | none => .refused s a false nobin
    | none =>
      let x := s.core c
      let e := rd x.chan ch
      let inline := a.getLsbD fInline
      let handBack := match m.sender with | .engine _ => true | _ => false
      if (!e.code.tag ∧ !handBack) ∨ (inline ∧ !e.inlok) then .accepted (s.countDrop c ch inline)
      else
        let parked := !exempt && e.win.isSome && (e.det || a.getLsbD fDet)
        let counts := !exempt && decide (4 ≤ ch.val) && kind != 3 && e.cap != 0
        if counts ∧ !parked ∧ e.cap ≤ rd x.capN ch then .accepted (s.overflowMsg c ch a ws m.wtype)
        else
          let tick := match m.sender with | .slotTimer _ => true | _ => false
          if !tick ∧ !(x.poolRoom ch && (exempt || x.quotaRoom ch)) then .refused s a (!exempt) nobin
          else
            let s1 := if counts then s.updCore c (fun (x : Core) => { x with capN := wr x.capN ch (rd x.capN ch + 1) }) else s
            .accepted (s1.enqueue c ch a ws m.wtype m.seq parked)

/-- Who waits for a message told that it has been accepted (07 R178; R235). -/
def State.acceptedMsg (s : State) (m : Msg) : State :=
  match m.waiter, m.sender with
  | some (.strand wid), .core p => s.post 50 (.sendAccepted p wid)
  | some (.sheet q b seq), _ => s.sheetAccepted q b seq
  | _, _ => s

/-- The words of a message as its receiver decodes them, and the state with the dictionary after it (13 R275-R278). -/
def State.decodeMsg (s : State) (c : CoreId) (m : Msg) : List Word × State :=
  match m.sender with
  | .core p =>
    let d := if m.aep.getLsbD fReset then List.replicate 8 0 else s.dict c p true
    let r := decompress m.wtype (m.aep.getLsbD fCompressed) m.count d m.stream
    (r.1, s.setDict c p true r.2)
  | _ => (m.stream, s)

/-! ### Watermarks at the NI (R227) -/

/-- The watermark of a source raised in a list, unless it is not after the last. -/
def raiseMark (l : List (BitVec 16 × Word)) (src : BitVec 16) (w : Word) : List (BitVec 16 × Word) :=
  match l.find? (fun p => p.1 == src) with
  | some p => if tsLt p.2 w then (src, w) :: l.filter (fun p => p.1 != src) else l
  | none => (src, w) :: l

/-- The packet of a watermark (R227). -/
def markMsg (t : Sender) (src : BitVec 16) (w : Word) : Msg :=
  { aep := mkAep 0 1 src.toNat 0 w 0 0, stream := [], count := 0, wtype := 0, seq := 0, sender := t, waiter := none }

/-- A watermark recorded, and the close packets that may have waited for it looked at again (R230). -/
def State.markAt (s : State) (c : CoreId) (src : BitVec 16) (w : Word) : State :=
  let s1 := s.updCore c (fun (x : Core) => { x with wmAt := raiseMark x.wmAt src w })
  (s1.core c).closeWait.foldl (fun s p => s.postOnce 1 (.closePacketDelivery c p)) s1

/-! ### The refusal list (R219) -/

/-- Whether an earlier entry of the same order stands in the list. -/
def Core.heldKey (x : Core) (key : Sender × BitVec 16) : Bool := x.refused.any (fun (r : Refused) => msgKey r.msg == key)

/-- Watermarks at the head of an order are recorded at once; its next message is called back. -/
def State.resumeKey (s : State) (c : CoreId) (key : Sender × BitVec 16) : Nat → State
  | 0 => s
  | n + 1 =>
    match (s.core c).refused.find? (fun (r : Refused) => msgKey r.msg == key) with
    | some r =>
      if aepKind r.msg.aep = 1 then
        if (s.core c).reorder.any (fun (m : Msg) => m.sender == key.1) then s
        else State.resumeKey ((s.updCore c (fun (x : Core) => { x with refused := x.refused.erase r })).markAt c (aepSrc r.msg.aep)
          (aepTs r.msg.aep)) c key n
      else s.postOnce 1 (.refusalCallback c r.chan)
    | none => s

/-- A message put at the end of the refusal list. -/
def State.refuse (s : State) (c : CoreId) (m : Msg) (a : Quad) (counted judged nobin : Bool) : State :=
  let s1 := if counted then s.updCount c (aepChan a) (fun (n : ChCount) => { n with refused := hold 0xFFFF (n.refused + 1) }) else s
  s1.updCore c (fun (x : Core) => { x with
    refused := x.refused ++ [{ chan := aepChan a, msg := { m with aep := a }, judged := judged, nobin := nobin }] })

/-- The next sequence number that a core's NI expects of a peer. -/
def State.expects (s : State) (c p : CoreId) : Word := countOf (s.core c).seqIn p.val

/-- A message in its place delivered, or refused: its number is passed, its words decoded, its sender told. -/
def State.takeMsg (s : State) (c : CoreId) (m : Msg) : State :=
  let (ws, s1) := s.decodeMsg c m
  match s1.deliver c m ws false false with
  | .accepted s2 =>
    let s3 := match m.sender with
      | .core p => s2.updCore c (fun (x : Core) => { x with seqIn := setCount x.seqIn p.val (m.seq + 1) })
      | _ => s2
    s3.acceptedMsg m
  | .refused _ a counted nobin =>
    -- judged once, at this arrival; nothing is decoded of a message that is refused
    let s2 := match s.deliver c m [] false false with | .refused x _ _ _ => x | .accepted _ => s
    s2.refuse c m a counted true nobin

/-- Messages of a pair that had arrived early, taken in order while their turn has come (13 R279). -/
def State.takeEarly (s : State) (c p : CoreId) : Nat → State
  | 0 => s
  | n + 1 =>
    match (s.core c).reorder.find? (fun (m : Msg) => m.sender == .core p && m.seq == s.expects c p) with
      | some m =>
        State.takeEarly ((s.updCore c (fun (x : Core) => { x with reorder := x.reorder.erase m })).takeMsg c m) c p n
      | none => s

/-- A message at the door of an NI: out of service or behind a held one it waits at its sender; a core's message is
taken in its pair's order, kept, refused or discarded by its number (R219, R392; 13 R279). -/
def State.arrive (s : State) (c : CoreId) (m : Msg) : State :=
  let x := s.core c
  if !s.served c ∧ !msgExempt m then s.refuse c m m.aep false false false
  else match m.sender with
    | .core p =>
      let e := s.expects c p
      if m.seq = e then
        if x.refused.any (fun (r : Refused) => r.msg.sender == m.sender && r.msg.seq == m.seq && aepKind r.msg.aep != 1) then s
        else
          let s1 := State.takeEarly (s.takeMsg c m) c p 5
          s1.resumeKey c (msgKey m) x.refused.length
      else if tsLt e m.seq then
        if x.reorder.any (fun (r : Msg) => r.sender == m.sender && r.seq == m.seq) ∨
           x.refused.any (fun (r : Refused) => r.msg.sender == m.sender && r.msg.seq == m.seq) then s
        else if (x.reorder.filter (fun (r : Msg) => r.sender == m.sender)).length < 4 then
          s.setCore c { x with reorder := x.reorder ++ [m] }
        else s.refuse c m m.aep false false false
      else s
    | _ => if x.heldKey (msgKey m) then s.refuse c m m.aep false false false else s.takeMsg c m

/-- The bridge that keeps a message. -/
def State.keptBy (s : State) (c : CoreId) (m : Msg) : Option (Fin 12) :=
  (List.finRange 12).find? (fun p => (rd s.bridges p).sent.contains (c, m))

/-- What the receiving bridge acknowledges: the message has crossed (18 R332). -/
def State.ackBridge (s : State) (c : CoreId) (m : Msg) : State :=
  match s.keptBy c m with
  | some p => { s with bridges := wr s.bridges p { rd s.bridges p with sent := (rd s.bridges p).sent.erase (c, m) } }
  | none => s

/-- A copy that a bridge has sent again of a packet that carries no number: the other copy has crossed (18 R332). -/
def State.crossedBefore (s : State) (c : CoreId) (m : Msg) : Bool :=
  senderCrosses m.sender c && (match m.sender with | .core _ => aepKind m.aep == 1 | _ => true) && (s.keptBy c m).isNone

/-- A watermark at an NI: recorded behind every earlier message of its source; never refused (R227). The sender of a source
below 0x8000 is told by its number. -/
def State.markArrives (s : State) (c : CoreId) (src : BitVec 16) (w : Word) : State :=
  let x := s.core c
  let behind := x.refused.find? (fun (r : Refused) => aepSrc r.msg.aep == src || (match r.msg.sender with
    | .core p => coreSrc p == src
    | _ => false))
  let early := x.reorder.find? (fun (m : Msg) => match m.sender with | .core p => coreSrc p == src | _ => false)
  let sender := match behind, early with
    | some r, _ => some r.msg.sender
    | none, some m => some m.sender
    | none, none => none
  match sender with
  | some t => let m := markMsg t src w; s.refuse c m m.aep false false false
  | none => s.markAt c src w

/-- Whether a watermark that crosses the dies stands behind an earlier message of its source to the core that a bridge still
keeps (R227; 07 R180). -/
def State.markBehind (s : State) (c : CoreId) (m : Msg) : Bool :=
  senderCrosses m.sender c && aepKind m.aep == 1 && s.bridges.toList.any (fun (b : Bridge) =>
    (b.sent.takeWhile (fun p => p != (c, m))).any (fun p => p.1 == c && p.2.sender == m.sender && aepKind p.2.aep != 1))

/-- `MESSAGE_ARRIVAL` (R218, R219, R226; 13 R279), of a watermark too where it has crossed the dies (R227). -/
def execMessageArrival (c : CoreId) (m : Msg) (s : State) : Out :=
  if s.crossedBefore c m then .next s
  else if s.markBehind c m then .next (s.post 100 (.messageArrival c m))
  else
    let s1 := s.ackBridge c m
    .next (if aepKind m.aep = 1 then s1.markArrives c (aepSrc m.aep) (aepTs m.aep) else s1.arrive c m)

/-- `SEND_ACCEPTED`: one of the messages that a strand waits for has been accepted (07 R178). -/
def execSendAccepted (c : CoreId) (wid : Nat) (s : State) : Out :=
  .next (s.updWork c wid (fun (x : Strand) =>
    { x with sendWait := x.sendWait - 1,
             st := if x.sendWait ≤ 1 ∧ x.st = .waiting then .running else x.st }))

/-! ### Runnable channels and their order (R216, R217, R230) -/

/-- A close packet's message: the window it is of. -/
def InMsg.closeOf (m : InMsg) : Option (Fin 32) :=
  let src := (aepSrc m.aep).toNat
  if m.chan = 3 ∧ aepKind m.aep = 3 ∧ 0x10E0 ≤ src ∧ src < 0x1100 then some (Fin.ofNat 32 (src - 0x10E0)) else none

/-- Whether a close packet waits for an earlier message on a channel bound to its window (R230). -/
def Core.closeHeld (x : Core) (m : InMsg) : Bool :=
  match m.closeOf with
  | some k => x.inbox.any (fun (y : InMsg) => decide (y.unit < m.unit) && (rd x.chan y.chan).win == some k)
  | none => false

/-- The oldest message of a channel that may be taken. -/
def Core.head (x : Core) (ch : Fin 64) : Option InMsg :=
  match x.inbox.find? (fun (m : InMsg) => m.chan == ch && !m.parked && !m.taken) with
  | some m => if x.closeHeld m then none else some m
  | none => none

/-- Whether a slot runs a handler or inline handler of a channel. -/
def Strand.runs (y : Strand) (ch : Fin 64) : Bool :=
  match y.work.kind with
  | .handler h => h == ch && decide (y.st ≠ .dormant)
  | .inlineHandler h => h == ch && decide (y.st ≠ .dormant)
  | _ => false

/-- A handler of a channel runs on some slot (R216). -/
def Core.runsHandler (x : Core) (ch : Fin 64) : Bool := (List.finRange 16).any (fun k => (x.strand k).runs ch)

/-- The reserved partition whose budget a core is in, if any (19 R349). -/
def State.budgetOf (s : State) (c : CoreId) : Option Partition :=
  s.parts.toList.findSome? (fun p => match p with
    | some x => if x.active && x.cores.contains c then some x else none
    | none => none)

/-- Whether a budget admits a channel's handlers: those of the partition's grid (19 R349). -/
def State.admitsChan (s : State) (c : CoreId) (ch : Fin 64) : Bool :=
  match s.budgetOf c with
  | some p => ((s.grid p.grid).map (fun (g : Grid) => g.chans.contains (c, ch))).getD false
  | none => true

/-- A channel is runnable (R216). -/
def State.runnable (s : State) (c : CoreId) (ch : Fin 64) : Bool :=
  let x := s.core c
  let e := rd x.chan ch
  e.code.tag && !e.masked && !x.runsHandler ch && (x.head ch).isSome

/-- Whether a runnable channel's handler may be started now: a budget admits it (19 R349), and none of its handlers stands
saved, which goes on first, one handler at a time (R216; 21 R384). -/
def State.mayStart (s : State) (c : CoreId) (ch : Fin 64) : Bool :=
  s.runnable c ch && s.admitsChan c ch && !(s.core c).saved.any (fun (v : Saved) => v.strand.runs ch)

/-- The ages of the channels kept up: held at 0 while a channel is not runnable (R217). -/
def State.ageChans (s : State) (c : CoreId) : State :=
  s.updCore c (fun (x : Core) => { x with
    runAt := vofFn (fun ch => if s.runnable c ch then some ((rd x.runAt ch).getD s.dt) else none) })

/-- The effective priority of a channel (R217). -/
def State.effPrio (s : State) (c : CoreId) (ch : Fin 64) : Nat :=
  let x := s.core c
  if x.hage.toNat ≤ cyclesOf (s.dt - (rd x.runAt ch).getD s.dt) then 4 else (rd x.chan ch).prio

/-- The channels after the last chosen one, in order. -/
def Core.order (x : Core) : List (Fin 64) := (List.range 64).map (fun i => Fin.ofNat 64 (x.last.val + 1 + i))

/-- The channel of highest effective priority among some, the first in the NI's order (R217). -/
def State.pick (s : State) (c : CoreId) (cand : Fin 64 → Bool) : Option (Fin 64) :=
  let cs := (s.core c).order.filter cand
  let top := cs.foldl (fun m ch => max m (s.effPrio c ch)) 0
  cs.find? (fun ch => s.effPrio c ch == top)

/-- Whether no work may start on a core: halted for the debugger, out of service, or being pre-empted for no partition
(in a partition's budget only its own work starts, 19 R349). -/
def State.closed (s : State) (c : CoreId) : Bool :=
  let x := s.core c
  x.dbgHalt || x.dbgQuiesce || (x.preempt && (s.budgetOf c).isNone) || s.house.oos.getLsbD (clusterOf c).val ||
  (List.finRange 16).any (fun k => (x.strand k).st == .halted)

/-- The lowest-numbered dormant slot. -/
def Core.dormant (x : Core) : Option SlotId := (List.finRange 16).find? (fun k => (x.strand k).st == .dormant)

/-! ### Starting work (07 R187; 21 R380) -/

/-- A slot at the start of work: every register 0 but those given. -/
def Core.fresh' (x : Core) (k : SlotId) (asid : BitVec 16) (pcc c2 c3 c4 c5 : CVal) (w : Work) : Strand :=
  let own := asid == x.uctxid
  let z : Strand := { Strand.reset with
    st := .running, asid := asid, pcc := pcc, work := w
    uvec := if own then x.uctxv else .null
    uarea := if own then x.uctxa.stackPart k.val else .null
    lvt := if own then x.uctxl else .null }
  (((z.setC 2 c2).setC 3 c3).setC 4 c4).setC 5 c5

/-- Slots of a core that run handlers and inline handlers (R215). -/
def Core.handlersOn (x : Core) : Nat :=
  ((List.finRange 16).filter (fun k => match (x.strand k).work.kind with
    | .handler _ | .inlineHandler _ => decide ((x.strand k).st ≠ .dormant)
    | _ => false)).length

/-- A handler started on a slot with its channel's oldest message. -/
def State.startHandler (s : State) (c : CoreId) (k : SlotId) (ch : Fin 64) (m : InMsg) : State :=
  let (wid, s1) := s.newId
  let x := s1.core c
  let e := rd x.chan ch
  let inline := m.aep.getLsbD fInline
  let w : Work := { Work.none with
    wid := wid, kind := if inline then .inlineHandler ch else .handler ch, role := BitVec.ofNat 2 (e.f 2 2)
    grid := (s1.grids.find? (fun (g : Grid) => g.chans.contains (c, ch))).map (·.id) }
  let pcc := if inline then inlinePcc m.words.length else e.code
  let y := x.fresh' k e.asid pcc (e.stack.stackPart k.val) e.data (.plain m.aep) (.plain (deliveryWord m)) w
  let y := { y with readyAt := s1.dt, msg := some { chan := ch, unit := m.unit, words := if inline then [] else m.words } }
  s1.setCore c { x with
    strands := wr x.strands k y, last := ch, runAt := wr x.runAt ch (some s1.dt)
    inbox := x.inbox.map (fun (i : InMsg) => if i.unit = m.unit then { i with taken := true } else i) }

/-- `HANDLER_CHOICE`: a dormant slot is offered to the runnable channels, and then to continuations (R215, R217). -/
def execHandlerChoice (c : CoreId) (s : State) : Out :=
  let s1 := s.ageChans c
  let x := s1.core c
  if s1.closed c then .next s1
  else
    match x.dormant with
    | none => .next s1
    | some k =>
      let ch := if x.handlersOn < x.hmax then s1.pick c (s1.mayStart c) else none
      match ch.bind (fun ch => (x.head ch).map (fun m => (ch, m))) with
      | some (ch, m) => .next ((s1.startHandler c k ch m).offer c)
      | none => .next (s1.postOnce 1 (.continuationTake c))

end Sys2Proof.Machine
end

