-- ==== Sys2Proof/Machine/Windows.lean ====
section
/-! DEFINITION. Watermarks, windows, closes, and what is applied at a close (07 R180-R182; 08 R211, R212; 09 R225,
R227-R232; 14 R289, R292; 19 R354-R357). -/

namespace Sys2Proof.Machine

/-! ### Window records (07 R181) -/

def WinRec.f (r : WinRec) (lo n : Nat) : Nat := fld r.ctl.toNat lo n
def WinRec.en (r : WinRec) : Bool := r.f 0 1 == 1
def WinRec.pace (r : WinRec) : Bool := r.f 2 1 == 1
def WinRec.nsrc (r : WinRec) : Nat := r.f 11 7

/-- The record that 256 bytes hold. -/
def winRecOf (bs : List Byte) : WinRec :=
  let num := fun o n => ofBytes ((bs.drop o).take n)
  let ctl : Word := BitVec.ofNat 32 (num 0 4)
  { ctl := ctl, t0 := BitVec.ofNat 32 (num 4 4), period := BitVec.ofNat 32 (num 8 4), timeout := BitVec.ofNat 32 (num 12 4)
    mingap := BitVec.ofNat 16 (num 16 2)
    srcs := (List.range (fld ctl.toNat 11 7)).map (fun i => BitVec.ofNat 16 (num (64 + 2 * i) 2))
    cores := BitVec.ofNat 384 (num 192 48) }

/-- A record within its limits, its reserved bytes 0. -/
def winRecOk (bs : List Byte) : Bool :=
  let r := winRecOf bs
  let zero := fun o n => ofBytes ((bs.drop o).take n) == 0
  r.f 18 14 == 0 && r.latePol != 3 && decide (4 ≤ r.lateCh.val) && decide (r.nsrc ≤ 64) &&
  decide (100 ≤ r.period.toNat) && decide (r.period.toNat ≤ 100000) &&
  decide (1 ≤ r.timeout.toNat) && decide (r.timeout.toNat ≤ 1000000) &&
  zero 18 46 && zero (64 + 2 * r.nsrc) (128 - 2 * r.nsrc) && zero 240 16 && !r.srcs.contains 0xFFFF

/-! ### The window unit (09 R228, R229) -/

/-- Nanoseconds from now to the start of a timestamp's microsecond. -/
def State.untilTs (s : State) (t : Word) : Nat :=
  let d := (t - s.now).toNat
  if tsLt s.now t then (s.dt / 1000 + d) * 1000 - s.dt else 1000

/-- A window opened at a target. -/
def State.openWindow (s : State) (k : Fin 32) (t : Word) : State :=
  let s1 := s.updWin k (fun (w : Win) => { w with st := .opened, tgt := t, openedAt := s.dt })
  s1.post (if tsLe t s.now then 1 else s.untilTs t) (.windowTargetPass k)

/-- The window unit's watermark of a source. -/
def State.markOf (s : State) (src : BitVec 16) : Option Word := (s.wmarks.find? (fun p => p.1 == src)).map (·.2)

/-- Whether the watermark of a source has reached a target. -/
def State.reached (s : State) (t : Word) (src : BitVec 16) : Bool := (s.markOf src).any (fun w => tsLe t w)

/-- A close decided: lagging sources named, notices sent to every home and queue that holds items of the window (R228;
19 R357). -/
def State.closeWindow (s : State) (k : Fin 32) (cause : BitVec 2) : State :=
  let w := rd s.wins k
  let lag := if cause = 0 then [] else w.r.srcs.filter (fun x => (s.markOf x).all (fun y => tsLt y w.tgt))
  let hs := ((s.parked.filter (fun (p : ParkedAmo) => p.win == k)).map (fun p => p.home)).dedup
  let qs := (List.finRange 24).filter (fun q => (s.cluster q).tq.any (fun (e : TqEntry) => e.parkedBy == some k))
  let s1 := s.updWin k (fun (w : Win) => { w with
    st := .closing, closeT := s.now, cause := cause, lag := lag, waitHomes := hs, waitQueues := qs })
  let s2 := hs.foldl (fun s h => s.post 100 (.detApplyAtHome h k)) s1
  let s3 := qs.foldl (fun s q => s.post 100 (.detReleaseAtQueue q k)) s2
  if hs.isEmpty ∧ qs.isEmpty then s3.post 10 (.closePacketsSend k) else s3

/-- When an armed window's timeout ends: TIMEOUT after the later of the target's passing and the opening. -/
def State.deadline (s : State) (w : Win) : Nat := max w.passedAt w.openedAt + 1000 * w.r.timeout.toNat

/-- The tests of an armed window: watermarks, then the timeout (R228). -/
def State.testWindow (s : State) (k : Fin 32) : State :=
  let w := rd s.wins k
  if w.st ≠ .armed then s
  else if w.r.srcs.all (s.reached w.tgt) then s.closeWindow k 0
  else if s.deadline w ≤ s.dt then s.closeWindow k 1
  else s

/-- `WINDOW_TARGET_PASS`: device time has passed the target; the window is armed and tested (R228). -/
def execWindowTargetPass (k : Fin 32) (s : State) : Out :=
  let w := rd s.wins k
  if w.st ≠ .opened then .next s
  else if !tsLe w.tgt s.now then .next (s.post (s.untilTs w.tgt) (.windowTargetPass k))
  else
    let passed := (s.dt / 1000 - (s.now - w.tgt).toNat) * 1000
    let s1 := s.updWin k (fun (w : Win) => { w with st := .armed, passedAt := passed })
    let s2 := s1.post (s1.deadline (rd s1.wins k) - s1.dt) (.windowTimeout k)
    .next (s2.testWindow k)

/-- `WINDOW_TIMEOUT` (R228). -/
def execWindowTimeout (k : Fin 32) (s : State) : Out := .next (s.testWindow k)

/-- `WATERMARK_AT_WINDOW_UNIT`: a watermark recorded, and every armed window that binds its source tested (R227, R228); a
watermark of the other die waits until it can cross (22 R392). -/
def execWatermarkAtWindowUnit (src : BitVec 16) (w : Word) (s : State) : Out :=
  if 0x8000 + 192 ≤ src.toNat ∧ !s.linked then .next (s.post 100 (.watermarkAtWindowUnit src w))
  else
    let s1 : State := { s with wmarks := raiseMark s.wmarks src w }
    .next ((List.finRange 32).foldl (fun s k => if (rd s.wins k).r.srcs.contains src then s.testWindow k else s) s1)

/-- `WATERMARK_AT_NI`: a watermark that has come to an NI on its emitter's die (R227). -/
def execWatermarkAtNi (c : CoreId) (src : BitVec 16) (w : Word) (s : State) : Out := .next (s.markArrives c src w)

/-- A watermark of an emitter sent to the window unit and to every core of every enabled window that binds its source; it
crosses the dies behind the source's earlier messages (R227). -/
def State.routeMark (s : State) (t : Sender) (src : BitVec 16) (w : Word) : State :=
  let cores := (List.finRange 32).foldl (fun (m : BitVec 384) k =>
    let x := rd s.wins k
    if x.st ≠ .disabled ∧ x.r.srcs.contains src then m ||| x.r.cores else m) 0
  let s1 := s.post 100 (.watermarkAtWindowUnit src w)
  ((List.finRange 384).filter (fun c => cores.getLsbD c.val)).foldl (fun s c =>
    if senderCrosses t c then s.route c (markMsg t src w) else s.post 100 (.watermarkAtNi c src w)) s1

/-- Whether a core has an atomic on its way to its home, in the write path, held after an error, or issued by a commit; a
DET spawn that stands in line for its queue; or a message that a commit has numbered and not yet sent (07 R180; 19 R356). -/
def State.markWaits (s : State) (c : CoreId) : Bool :=
  let x := s.core c
  (x.wpath ++ (List.finRange 16).flatMap (fun k => (x.strand k).held) ++ x.recs.flatMap (fun u => u.strand.held) ++
    x.saved.flatMap (fun v => v.strand.held)).any Posted.isAmo ||
  (List.finRange 24).any (fun q => (s.cluster q).tqWait.any (fun e => e.spawner == c && e.crec.flags.getLsbD 9)) ||
  s.ops.any (fun (o : Op) => o.core == c && !o.deferred && (match o.job with | .amo _ => true | .msg .. => true | _ => false))

/-- `WATERMARK_PUBLISH`: a core's watermark is published once nothing that it promises is still on its way, unless it is not
after the last one (07 R180; 19 R356). -/
def execWatermarkPublish (c : CoreId) (w : Word) (s : State) : Out :=
  let x := s.core c
  if s.markWaits c then .next (s.post 20 (.watermarkPublish c w))
  else if x.wmark.any (fun l => !tsLt l w) then .next s
  else .next ((s.setCore c { x with wmark := some w }).routeMark (.core c) (coreSrc c) w)

/-! ### Applications at a close (19 R355, R357) -/

/-- A close waits no more for a home or a queue; the last sends the close packets. -/
def State.closeGoesOn (s : State) (k : Fin 32) : State :=
  let w := rd s.wins k
  if w.st = .closing ∧ w.waitHomes.isEmpty ∧ w.waitQueues.isEmpty then s.post 100 (.closePacketsSend k) else s

/-- An atomic's answer given to its strand: in its slot, its saved image, or its upcall record. -/
def State.answerAmo (s : State) (c : CoreId) (wid : Nat) (f : Strand → Strand) : State :=
  (s.updWork c wid f).updCore c (fun (x : Core) =>
    { x with recs := x.recs.map (fun (u : UpRec) => if u.wid == wid then { u with strand := f u.strand } else u) })

/-- A parked atomic applied; one that waits for its value receives it, or the failure. -/
def State.applyParked (s : State) (a : ParkedAmo) : State :=
  let w : Who := { core := a.core, asid := a.p.asid, eng := false }
  match a.p.kind with
  | .amo fn y cmp =>
    match s.amoHome w (a.p.cap.has .local) a.p.va fn.val y cmp false with
    | .done old fl s1 =>
      s1.answerAmo a.core a.wid (fun (x : Strand) =>
        let x := { x with fflags := x.fflags ||| BitVec.ofNat 32 fl }
        if a.d ∧ x.ticket = some a.p.id then { x with answer := some old } else x)
    | .park _ _ s1 => s1
    | .failed f s1 =>
      s1.answerAmo a.core a.wid (fun (x : Strand) =>
        if a.d then (if x.ticket = some a.p.id then { x with amoErr := some f } else x)
        else { x with held := x.held ++ [a.p], postErr := some (x.postErr.getD f) })
  | _ => s

/-- A list with an item put before the first that does not precede it. -/
def insertBy {α : Type} (le : α → α → Bool) (x : α) : List α → List α
  | [] => [x]
  | y :: l => if le y x then y :: insertBy le x l else x :: y :: l

/-- A list in ascending order, equal items in the order they stood. -/
def sortBy {α : Type} (le : α → α → Bool) (l : List α) : List α := l.foldl (fun r x => insertBy le x r) []

/-- `DET_APPLY_AT_HOME`: the home applies its parked atomics of the window in key order, each as one event (R355, R357). -/
def execDetApplyAtHome (h : Fin 400) (k : Fin 32) (s : State) : Out :=
  let mine := fun (p : ParkedAmo) => p.home == h && p.win == k
  let items := sortBy (fun (a b : ParkedAmo) => decide (a.core.val < b.core.val) || (a.core == b.core && (a.key == b.key || tsLt a.key b.key)))
    (s.parked.filter mine)
  let s1 : State := { s with parked := s.parked.filter (fun p => !mine p) }
  let s2 := items.foldl State.applyParked s1
  .next ((s2.updWin k (fun (w : Win) => { w with waitHomes := w.waitHomes.filter (· != h) })).closeGoesOn k)

/-- `DET_RELEASE_AT_QUEUE`: the queue releases its parked records of the window, as pushed now in key order (R355, R357). -/
def execDetReleaseAtQueue (q : ClusterId) (k : Fin 32) (s : State) : Out :=
  let key := fun (e : TqEntry) => (e.spawner.val, df e.rec0.stamp 48 16)
  let items := sortBy (fun a b => decide ((key a).1 < (key b).1) || ((key a).1 == (key b).1 && decide ((key a).2 ≤ (key b).2)))
    ((s.cluster q).tq.filter (fun (e : TqEntry) => e.parkedBy == some k))
  let s1 := items.foldl (fun s e =>
    let (n, s0) := s.newId
    s0.updEntry q e.id (fun (x : TqEntry) => { x with parkedBy := none, order := n })) s
  let s2 := s1.updWin k (fun (w : Win) => { w with waitQueues := w.waitQueues.filter (· != q) })
  .next ((s2.offerCluster q).closeGoesOn k)

/-- `CLOSE_PACKETS_SEND`: the close packets leave for every core of CORES; the stretch is counted, the next target
computed, a pending record installed (R228, R229, R232; 08 R212). -/
def execClosePacketsSend (k : Fin 32) (s : State) : Out :=
  let w := rd s.wins k
  if w.st ≠ .closing ∨ !w.waitHomes.isEmpty ∨ !w.waitQueues.isEmpty then .next s
  else
    let p : ClosePkt := { win := k, target := w.tgt, cause := w.cause, time := w.closeT, lag := w.lag, srcs := w.r.srcs }
    let s1 := ((List.finRange 384).filter (fun c => w.r.cores.getLsbD c.val)).foldl (fun s c =>
      (s.updCore c (fun (x : Core) => { x with closeWait := x.closeWait ++ [p] })).post 100 (.closePacketDelivery c p)) s
    let late := tsLt (w.tgt + s.wgrace) w.closeT
    let w1 := { w with
      closes := (w.closes + 1) % 2 ^ 16
      strc := if late then hold 0xFFFF (w.strc + 1) else w.strc
      strt := if late then hold 0xFFFFFFFF (w.strt + (w.closeT - w.tgt).toNat) else w.strt }
    match w.pend with
    | some r =>
      let t := if r.pace then tsMax r.t0 (w.closeT + r.mingap.setWidth 32) else r.t0
      let w2 := { w1 with r := r, pend := none, k := 0, tgt := t }
      let s2 := s1.updWin k (fun _ => w2)
      .next (if r.en then s2.openWindow k t else s2.updWin k (fun (w : Win) => { w with st := .disabled }))
    | none =>
      let n := w.k + 1
      let t := if w.r.pace then tsMax (w.r.t0 + BitVec.ofNat 32 n * w.r.period) (w.closeT + w.r.mingap.setWidth 32)
        else w.tgt + w.r.period
      .next ((s1.updWin k (fun _ => { w1 with k := n })).openWindow k t)

/-- The RC fields of a window's WST cleared (R232). -/
def State.clearWst (s : State) (k : Fin 32) : State := s.updWin k (fun (w : Win) => { w with latec := 0, strc := 0, strt := 0 })

/-- `WST_READ_CLEAR`: a read of WST has cleared its RC fields (R232). -/
def execWstReadClear (k : Fin 32) (s : State) : Out := .next (s.clearWst k)

/-! ### A close packet at an NI (09 R230; 19 R357) -/

/-- Parked messages of a channel decided under the fields in force: accepted in key order, the rest overflow (14 R292). -/
def State.decideParked (s : State) (c : CoreId) (ch : Fin 64) : State :=
  let x := s.core c
  let e := rd x.chan ch
  let le := fun (a b : InMsg) => decide ((aepSrc a.aep).toNat < (aepSrc b.aep).toNat) ||
    (aepSrc a.aep == aepSrc b.aep && decide (a.unit ≤ b.unit))
  let parked := sortBy le (x.inbox.filter (fun (m : InMsg) => m.chan == ch && m.parked))
  if parked.isEmpty then s
  else
    let keep := if e.cap ≠ 0 ∧ 4 ≤ ch.val then parked.take e.cap else parked
    let rest := parked.drop keep.length
    let s1 := s.setCore c { x with
      inbox := x.inbox.filter (fun (m : InMsg) => !(m.chan == ch && m.parked)) ++
        keep.map (fun (m : InMsg) => { m with parked := false, since := s.dt }) }
    rest.foldl (fun s m => (s.overflowMsg c ch m.aep m.words m.wtype).freeUnit c m.unit) s1

/-- What a close does at its place in delivery order: bins bound to the window close their sheets; each channel bound to
it decides its parked messages, counts anew, and takes the fields `chcap` has written. -/
def State.placeClose (s : State) (c : CoreId) (p : ClosePkt) : State :=
  let s1 := s.updCore c (fun (x : Core) => { x with closed := (p.win, p.target) :: x.closed.filter (fun q => q.1 != p.win) })
  let q := clusterOf c
  let s2 := (List.finRange 16).foldl (fun s i =>
    let b := s.bin q i
    if b.en ∧ b.owner = c ∧ b.window = some p.win then s.closeSheet q i 1 else s) s1
  let s3 := (List.finRange 64).foldl (fun s ch =>
    if (rd (s.core c).chan ch).win = some p.win then
      let s := s.decideParked c ch
      s.updCore c (fun (x : Core) => { x with
        capN := wr x.capN ch 0
        capNew := wr x.capNew ch none
        chan := match rd x.capNew ch with | some v => wr x.chan ch ((rd x.chan ch).withCap v) | none => x.chan })
    else s) s2
  s3.offer c

/-- Words of the payload of a close packet: two sources to a word (08 R212). -/
def pairWords : List (BitVec 16) → List Word
  | [] => []
  | [x] => [x.setWidth 32]
  | x :: y :: l => (x.setWidth 32 ||| (y.setWidth 32 <<< 16)) :: pairWords l

/-- A close packet's message (08 R212). That its delivery word gives sequence number 0 is the model's choice (log entry
69). -/
def closeMsg (p : ClosePkt) : Msg :=
  { aep := mkAep 3 3 (0x10E0 + p.win.val) 0 p.target
      (BitVec.ofNat 32 (p.win.val + 2 ^ 5 * p.cause.toNat + 2 ^ 7 * p.lag.length)) p.time
    stream := pairWords p.lag, count := (pairWords p.lag).length, wtype := 0, seq := 0, sender := .window p.win, waiter := none }

/-- A close packet delivered: it takes effect at its place, and is written into the inbox or, channel 3 having no handler,
dropped; the next may follow. -/
def State.deliverClose (s : State) (c : CoreId) (p : ClosePkt) : State :=
  let x := s.core c
  let s1 := (s.setCore c { x with closeWait := x.closeWait.erase p }).placeClose c p
  let m := closeMsg p
  let s2 := if (rd x.chan 3).code.tag then s1.enqueue c 3 m.aep m.stream 0 0 false else s1.countDrop c 3 false
  (s2.core c).closeWait.foldl (fun s y => s.postOnce 1 (.closePacketDelivery c y)) s2

/-- `CLOSE_PACKET_DELIVERY`: a close packet at its place is delivered, or refused for want of a unit (R218, R219, R230). -/
def execClosePacketDelivery (c : CoreId) (p : ClosePkt) (s : State) : Out :=
  let x := s.core c
  if !s.closeReady c p ∨ x.refused.any (fun (r : Refused) => r.msg == closeMsg p) then .next s
  else if x.closeRoom then .next (s.deliverClose c p)
  else .next (s.refuse c (closeMsg p) (closeMsg p).aep true true true)

/-! ### Call-back (R219) -/

/-- Whether a refused message may be called back now: none of its order stands before it, and there is room. -/
def State.mayRecall (s : State) (c : CoreId) (r : Refused) : Bool :=
  let x := s.core c
  let first := ((x.refused.find? (fun (y : Refused) => msgKey y.msg == msgKey r.msg)).map (fun y => y == r)).getD false
  let turn := match r.msg.sender with
    | .core p => r.msg.seq == s.expects c p
    | _ => first
  aepKind r.msg.aep != 1 && turn && s.served c &&
  (match r.msg.sender with
    | .window _ => x.closeRoom
    | _ => match s.deliver c r.msg [] r.judged r.nobin with | .accepted _ => true | .refused .. => false)

/-- `REFUSAL_CALLBACK`: room has appeared; the first sender of the channel's list that can be served is called back
(R219). -/
def execRefusalCallback (c : CoreId) (ch : Fin 64) (s : State) : Out :=
  match (s.core c).refused.find? (fun (r : Refused) => r.chan == ch && s.mayRecall c r) with
  | some r => .next (s.postOnce 50 (.messageResend c r.msg))
  | none => .next s

/-- `MESSAGE_RESEND`: a message called back arrives again; accepted, it leaves the list and its order goes on; refused
again, it keeps its place (R219). -/
def execMessageResend (c : CoreId) (m : Msg) (s : State) : Out :=
  match (s.core c).refused.find? (fun (r : Refused) => r.msg == m) with
  | none => .next s
  | some r =>
    let gone := s.updCore c (fun (x : Core) => { x with refused := x.refused.erase r })
    if !s.mayRecall c r then .next s
    else match (s.core c).closeWait.find? (fun (p : ClosePkt) => closeMsg p == m) with
    | some p => .next ((gone.deliverClose c p).postOnce 1 (.refusalCallback c r.chan))
    | none =>
      let (ws, s1) := s.decodeMsg c m
      match s1.deliver c m ws r.judged r.nobin with
      | .refused .. => .next s
      | .accepted s2 =>
        let s3 := match m.sender with
          | .core p => s2.updCore c (fun (x : Core) => { x with seqIn := setCount x.seqIn p.val (m.seq + 1) })
          | _ => s2
        let s4 := (s3.updCore c (fun (x : Core) => { x with refused := x.refused.erase r })).acceptedMsg m
        let s5 := s4.resumeKey c (msgKey m) (s4.core c).refused.length
        let s6 := match m.sender with | .core p => s5.takeEarly c p 5 | _ => s5
        .next (s6.postOnce 1 (.refusalCallback c r.chan))

/-! ### wincfg, winclose, wmark (07 R180-R182) -/

/-- A window given a record: at once where it is disabled, else at its next close (R181). -/
def State.installWindow (s : State) (k : Fin 32) (r : WinRec) : State :=
  let w := rd s.wins k
  if w.st = .disabled then
    let s1 := s.updWin k (fun (w : Win) => { w with r := r, pend := none, k := 0, tgt := r.t0 })
    if r.en then (s1.updWin k (fun (w : Win) => { w with closes := 0 })).openWindow k r.t0 else s1
  else s.updWin k (fun (w : Win) => { w with pend := some r })

/-- `wincfg`: waits until the window unit is ready (R181; 22 R392). -/
def execWincfg (g : Fin 8) (a b : Fin 64) (s : State) : Out := issue g 4 s fun s => do
  let (n, s) ← s.useC a
  let (r, s) ← s.useC b
  need s.mySys .capp
  need (qf n.val 5 123 == 0) .ill
  s.checkAccess r [.ld] r.addr 256 64
  let (bs, s) ← s.load s.cur.1 s.cur.2 s.nextId (r.has .local) r.addr 256
  let bytes := bs.map (fun (x : RByte) => x.1)
  need (winRecOk bytes) .ill
  if s.house.ready.getLsbD 77 = false then throw (.wait s)
  pure (s.installWindow (Fin.ofNat 32 (qf n.val 0 5)) (winRecOf bytes))

/-- `winclose` (R182; 09 R228). -/
def execWinclose (g : Fin 8) (a : Fin 64) (s : State) : Out := issue g 4 s fun s => do
  s.notSpec
  let (n, s) ← s.useC a
  let k : Fin 32 := Fin.ofNat 32 (qf n.val 0 5)
  let w := rd s.wins k
  need (s.mySys || w.r.cores.getLsbD s.cur.1.val) .capp
  if w.st = .disabled ∨ w.st = .closing then pure s
  else
    let s1 := s.testWindow k
    pure (if (rd s1.wins k).st = .closing then s1 else s1.closeWindow k 2)

/-- `wmark` (R180), a release: the strand's earlier loads and stores are performed first (18 R326). -/
def execWmark (g : Fin 8) (a : Fin 64) (s : State) : Out := issue g 4 s fun s => do
  s.notSpec
  let (x, s) ← s.useX a
  s.orderLoads
  s.orderStores
  let v : Word := x.setWidth 32
  let w := if a = 0 then s.now else if tsLt v s.now then v else s.now
  pure (s.post 20 (.watermarkPublish s.cur.1 w))

end Sys2Proof.Machine
end

