-- ==== Sys2Proof/Machine/Messages.lean ====
section
/-! DEFINITION. Messages and channels as strands use them (05 R147, R148; 07 R177-R188; 17 R316, R317), and the bridge
between the dies (18 R332). -/

namespace Sys2Proof.Machine

/-! ### send and sendi (07 R178, R179) -/

/-- Payload words, type, destination of a target word; reserved bits. -/
def targetOk (t : Quad) (inline : Bool) : Bool :=
  let n := qf t 16 6
  decide (qf t 0 16 ≤ 383) && decide (n ≤ 60) && (!inline || n != 0) && qf t 22 2 != 3 && qf t 24 104 == 0

/-- The packet of a message of a core: the header's channel, DET, ADDR and VAL kept. -/
def messageAep (h : Quad) (c : CoreId) (ts : Word) (inline : Bool) : Quad :=
  mkAep (qf h 26 6) 2 (0x8000 + c.val) ((if inline then 2 ^ fInline else 0) + (if h.getLsbD fDet then 2 ^ fDet else 0)) ts
    (BitVec.ofNat 32 (aepAddr h)) (aepVal h)

/-- A message of the running strand: deferred to its task's commit, or sent, the strand waiting for its acceptance. -/
def State.sendMine (s : State) (dest : CoreId) (a : Quad) (ws : List Word) (t : BitVec 2) : State :=
  let c := s.cur.1
  match s.specOf s.me with
  | some x =>
    s.deferTo x (.send { aep := a, stream := [], count := ws.length, wtype := t, seq := 0, sender := .core c, waiter := none } ws dest)
  | none =>
    (s.updMe (fun (y : Strand) => { y with sendWait := y.sendWait + 1 })).sendFrom c dest a ws t (some (.strand s.me.work.wid))

/-- `send` and `sendi`: checks, release, the words taken from the outbox, the message handed to the NI (R178). -/
def sendMsg (inline : Bool) (g : Fin 8) (a b : Fin 64) (s : State) : Out := issue g 4 s fun s => do
  let (h, s) ← s.useC a
  let (t, s) ← s.useC b
  need (targetOk t.val inline) .ill
  need (qf h.val 22 2 == 0 && !h.val.getLsbD fLate && !h.val.getLsbD fOverflow && !h.val.getLsbD fCompressed &&
    !h.val.getLsbD fReset) .ill
  need (decide (4 ≤ qf h.val 26 6) || s.mySys) .capp
  let n := qf t.val 16 6
  need (decide (n ≤ s.me.outbox.length)) .qempty
  s.orderLoads
  s.orderStores
  s.deferRoom
  let ws := s.me.outbox.take n
  let s := s.updMe (fun (x : Strand) => { x with outbox := x.outbox.drop n })
  pure (s.sendMine (Fin.ofNat 384 (qf t.val 0 16)) (messageAep h.val s.cur.1 s.now inline) ws (BitVec.ofNat 2 (qf t.val 22 2)))

/-- `send` (R178). -/
def execSend (g : Fin 8) (a b : Fin 64) (s : State) : Out := sendMsg false g a b s

/-- `sendi`: the payload is code (R178, R179). -/
def execSendi (g : Fin 8) (a b : Fin 64) (s : State) : Out := sendMsg true g a b s

/-! ### spkout (05 R147, R148) -/

/-- Entries of a fanout table. -/
def fanout (bs : List Byte) (n : Nat) : List Nat := (List.range n).map (fun k => ofBytes ((bs.drop (8 * k)).take 8))

/-- Whether an entry is within its limits. -/
def fanoutOk (e : Nat) : Bool := decide (fld e 0 16 ≤ 383) && decide (4 ≤ fld e 16 6) && fld e 24 40 == 0

/-- `spkout` (R147, R148). -/
def execSpkout (g : Fin 8) (a : Fin 32) (c : Fin 64) (m : Fin 8) (s : State) : Out := issue g 4 s fun s => do
  let (step, s) ← s.useX (Fin.ofNat 64 a.val)
  let (t, s) ← s.useC c
  s.checkAccess t [.ld] t.addr 8 8
  let loc := t.has .local
  let (hd, s) ← s.load s.cur.1 s.cur.2 s.nextId loc t.addr 8
  let h := ofBytes (hd.map (fun (x : RByte) => x.1))
  let n := fld h 0 16
  need (decide (n ≤ 64)) .ill
  let va := t.addr + 8
  if n ≠ 0 ∧ !t.inBounds va.toNat (8 * n) then throw (.trap .capb (some va))
  let (bs, s) ← if n = 0 then pure ([], s) else s.load s.cur.1 s.cur.2 s.nextId loc va (8 * n)
  let es := fanout (bs.map (fun (x : RByte) => x.1)) n
  need (es.all fanoutOk) .ill
  s.orderLoads
  s.orderStores
  let spikes : Word := (s.me.mask m).setWidth 32
  let go := es.filter (fun e => !(fld e 22 1 == 1 && spikes == 0))
  s.deferRoomFor go.length
  let addr : Word := BitVec.ofNat 32 (fld step.toNat 0 16 * 2 ^ 16 + fld h 16 16)
  let ts := s.now
  pure (go.foldl (fun s e =>
    s.sendMine (Fin.ofNat 384 (fld e 0 16))
      (mkAep (fld e 16 6) 2 (0x8000 + s.cur.1.val) (if fld e 23 1 = 1 then 2 ^ fDet else 0) ts addr spikes) [] 0) s)

/-! ### waitch (07 R188; 17 R316, R317) -/

/-- The channel that `waitch` takes from: by PRIO alone, the first after `last`, among those whose message is present or,
once it has been waiting, among those whose messages came first (R317). -/
def Core.waitPick (x : Core) (cand : Fin 64 → Bool) (waited : Bool) : Option (Fin 64) :=
  let since := fun (ch : Fin 64) => (x.head ch).map (fun (m : InMsg) => m.since)
  let cs := x.order.filter (fun ch => cand ch && (x.head ch).isSome)
  let cs := if waited then cs.filter (fun ch => cs.all (fun e => decide ((since ch).getD 0 ≤ (since e).getD 0))) else cs
  let top := cs.foldl (fun m ch => max m (rd x.chan ch).prio) 0
  cs.find? (fun ch => (rd x.chan ch).prio == top)

/-- `waitch`: the current message is ended, then a message on a masked channel of the mask is taken, or awaited (R188). -/
def execWaitch (g : Fin 8) (a : Fin 64) (s : State) : Out := issue g 4 s fun s => do
  s.notSpec
  let waits := s.me.chwait
  let (v, s) ← match waits with
    | some v => pure (v, s)
    | none => s.useX a
  let cand := fun (ch : Fin 64) => v.getLsbD ch.val && (rd s.myCore.chan ch).masked
  need (waits.isSome || (List.finRange 64).any cand) .ill
  s.orderLoads
  let c := s.cur.1
  let k := s.cur.2
  let s := s.endMsg c k
  match (s.myCore.waitPick cand waits.isSome).bind s.myCore.head with
  | none => throw (.wait (s.updMe (fun (x : Strand) => { x with chwait := some v })))
  | some m =>
    let s := s.updCore c (fun (x : Core) =>
      { x with inbox := x.inbox.map (fun (i : InMsg) => if i.unit = m.unit then { i with taken := true } else i) })
    let s := s.updMe (fun (x : Strand) => { x with
      chwait := none
      msg := some { chan := m.chan, unit := m.unit, words := m.words } })
    let s ← s.putC 4 (.plain m.aep)
    s.putC 5 (.plain (deliveryWord m))

/-! ### hset, hmask, chcap (07 R183-R186) -/

/-- The entry that a 64-byte record holds, with an ASID (R183, R185). -/
def chanOf (bs : List RByte) (asid : BitVec 16) : Chan :=
  let num := fun o n => ofBytes ((bs.drop o).take n |>.map (·.1))
  let cap := fun o => ({ val := BitVec.ofNat 128 (num o 16), tag := ((bs[o]?).map (·.2)).getD false } : CVal)
  { code := cap 0, data := cap 16, stack := cap 32, ctl := ctlSet (BitVec.ofNat 128 (num 48 16)) 69 16 asid.toNat }

/-- The limits of an entry, then its code capability (R185). -/
def checkChan (e : Chan) : Except Stop Unit := do
  need (e.f 2 2 != 3 && e.f 85 43 == 0 && ((e.cap == 0 && !e.det) || e.win.isSome) && decide (e.f 53 9 ≤ 383)) .ill
  need (!e.code.tag || e.code.has .exec) .capp

/-- An entry replaced: messages that were parked for a window are dispatched under an entry that has none, no capacity field stays pending, a count begins where none was kept, and the grids that had
installed the entry hold it no more (R185; 14 R289; 19 R341). -/
def State.installChan (s : State) (c : CoreId) (ch : Fin 64) (e : Chan) : State :=
  let s1 := s.updCore c (fun (x : Core) => { x with
    chan := wr x.chan ch e, capNew := wr x.capNew ch none
    inbox := x.inbox.map (fun (m : InMsg) =>
      if m.chan = ch ∧ m.parked ∧ e.win.isNone then { m with parked := false, since := s.dt } else m)
    capN := if (rd x.chan ch).cap = 0 then wr x.capN ch 0 else x.capN })
  let gs := s1.grids.filter (fun (g : Grid) => g.chans.contains (c, ch))
  let s2 : State := { s1 with grids := s1.grids.map (fun (g : Grid) => { g with chans := g.chans.filter (· != (c, ch)) }) }
  ((gs.foldl (fun s g => s.gridCheck (some g.id)) s2).postOnce 1 (.refusalCallback c ch)).offer c

/-- `hset` (R185). -/
def execHset (g : Fin 8) (a b : Fin 64) (s : State) : Out := issue g 4 s fun s => do
  let (n, s) ← s.useC a
  let (r, s) ← s.useC b
  need s.mySys .capp
  s.checkAccess r [.ld, .ldcap] r.addr 64 64
  need (qf n.val 6 122 == 0) .ill
  let (bs, s) ← s.load s.cur.1 s.cur.2 s.nextId (r.has .local) r.addr 64
  let e := chanOf bs s.me.asid
  checkChan e
  pure (s.installChan s.cur.1 (Fin.ofNat 64 (qf n.val 0 6)) e)

/-- The issuing strand's ASID is the entry's, or PCC carries SYS (R186). -/
def State.ownChan (s : State) (ch : Fin 64) : Except Stop Unit :=
  need ((rd s.myCore.chan ch).asid == s.me.asid || s.mySys) .capp

/-- `hmask` (R186). -/
def execHmask (g : Fin 8) (d a b : Fin 64) (s : State) : Out := issue g 4 s fun s => do
  let (n, s) ← s.useX a
  let (v, s) ← s.useX b
  let ch : Fin 64 := Fin.ofNat 64 (df n 0 6)
  s.ownChan ch
  let old := (rd s.myCore.chan ch).masked
  let s := (s.updChan s.cur.1 ch (fun (e : Chan) => { e with ctl := ctlSet e.ctl 4 1 (df v 0 1) })).offer s.cur.1
  s.putX d (if old then 1 else 0)

/-- `chcap` (R186; 14 R289). -/
def execChcap (g : Fin 8) (a b : Fin 64) (s : State) : Out := issue g 4 s fun s => do
  let (n, s) ← s.useX a
  let (v, s) ← s.useC b
  let ch : Fin 64 := Fin.ofNat 64 (df n 0 6)
  s.ownChan ch
  let e := rd s.myCore.chan ch
  need (qf v.val 48 80 == 0 && decide (qf v.val 32 9 ≤ 383) && (qf v.val 0 32 == 0 || e.win.isSome)) .ill
  if e.win.isSome then
    pure (s.updCore s.cur.1 (fun (x : Core) => { x with capNew := wr x.capNew ch (some v.addr) }))
  else pure (s.updChan s.cur.1 ch (fun (e : Chan) => e.withCap v.addr))

/-! ### The bridge (18 R332) -/

/-- `BRIDGE_RESEND`: what a bridge has sent and not had acknowledged goes again, by the next port in service; a copy that
arrives twice is discarded by its number. -/
def execBridgeResend (p : Fin 12) (s : State) : Out :=
  let b := rd s.bridges p
  let next := ((List.range 12).map (fun i => Fin.ofNat 12 (p.val + i))).find? (fun (q : Fin 12) => s.house.ready.getLsbD (40 + q.val))
  match next with
  | none => .next s
  | some q =>
    let s1 : State := { s with bridges := wr s.bridges p { b with sent := [] } }
    let s2 : State := { s1 with bridges := wr s1.bridges q { rd s1.bridges q with sent := (rd s1.bridges q).sent ++ b.sent } }
    .next (b.sent.foldl (fun s x => s.post 100 (.messageArrival x.1 x.2)) s2)

end Sys2Proof.Machine
end

