-- ==== Sys2Proof/Machine/Preempt.lean ====
section
/-! DEFINITION. Pre-emption: what is stopped, the save of a strand's image, and its restoration (19 R344-R346, R349;
21 R382-R385, R408). -/

namespace Sys2Proof.Machine

/-! ### What is stopped -/

/-- The unit of its grid's top level that a member's team uses. -/
def State.memberUnit (s : State) (grid : Option Word) (team : Option Nat) : Option TeamUnit :=
  match grid.bind s.grid, team with
  | some g, some t => g.unitOfTeam t
  | _, _ => none

/-- Whether a member's team is cocooned, or not brought in yet (R344, R346). -/
def State.teamOut (s : State) (grid : Option Word) (team : Option Nat) : Bool :=
  (s.memberUnit grid team).any (fun u => u.resident != team)

/-- Whether a member's team is being cocooned. -/
def State.teamStops (s : State) (grid : Option Word) (team : Option Nat) : Bool :=
  (s.memberUnit grid team).any (fun u => u.stopping && u.resident == team)

/-- Whether a pre-emption of its core takes a piece of work: within a partition's budget, work that is not of the
partition's grid (R349). -/
def State.mustYield (s : State) (c : CoreId) (w : Work) : Bool :=
  match s.budgetOf c with
  | some p => w.grid != some p.grid
  | none => true

/-- Whether a strand issues nothing because it is being pre-empted or cocooned. -/
def State.stopped (s : State) (c : CoreId) (k : SlotId) : Bool :=
  let w := (s.strand c k).work
  ((s.core c).preempt && s.mustYield c w) || s.teamStops w.grid w.team

/-! ### Saves (R382, R384, R385) -/

/-- Whether a strand can be saved: its loads have answered, or wait for a version record, which they may do while it is
saved (16 R309); its posted accesses are performed, its tile writes have landed or been handed back (R385; 04 R106). -/
def State.canSave (s : State) (c : CoreId) (k : SlotId) : Bool :=
  let x := s.strand c k
  (!x.allWins.any (fun (w : Window) => w.res == .pending) || s.vwait.any (fun p => p.2 == x.work.wid)) && s.outstanding c k == 0 &&
  !(s.ops.any (fun (o : Op) => o.owesTile c x.work.wid && o.handed.isNone))

/-- Bytes of a save image, and of its register part (R382). -/
def imageSize : Nat := 49152
def imageRegs : Nat := 10720

/-- Tile registers that a slot holds. -/
def Core.tilesOf (x : Core) (k : SlotId) : List (Fin 8) := (List.finRange 8).filter (fun t => (rd x.t t).holder == some k)

/-- A slot left by a saved strand. -/
def State.vacate (s : State) (c : CoreId) (k : SlotId) : State := ((s.freeTiles c k).updStrand c k Strand.idle).offer c

/-- A strand's image written and its slot left; where the image cannot be written its work ends as after a hardware
error (R384, R408). -/
def State.saveStrand (s : State) (c : CoreId) (k : SlotId) (img : CVal) (cocoon : Bool) : State :=
  let x := s.strand c k
  let base := img.addr
  let need : List Perm := if cocoon then [.ld, .st, .eng] else [.ld, .st, .ldcap, .stcap, .eng]
  if !img.tag ∨ !img.hasAll need ∨ !img.inBounds base.toNat imageSize then s.hwEnd c k
  else
    let w := imageWho c x
    let (seen, s1) := s.liveAt w x.lvt x.pcc.addr
    let live := seen.withWins x.allWins
    let tiles := (s1.core c).tilesOf k
    let head := imageHead c k x.asid x.upcalls.toNat 0 0 x.pcc 0
    let tokens := (List.finRange 8).flatMap (fun i => toBytes 16 ((rd x.tok i).word (s1.hbackOf c x.work.wid i)))
    let rows := fun (t : Fin 8) => (rd (s1.core c).t t).rows.toList.flatMap (fun (r : VReg) => toBytes 128 r.toNat)
    let parts := (0, head) :: x.imageParts live (s1.oldGuards w img) ++ [(imageTokens, tokens)] ++
      (tiles.filter (fun t => fld live.t t.val 1 == 1)).map (fun t => (16384 + 4096 * t.val, rows t))
    match s1.homeWrite w (img.has .local) (parts.map (fun p => (base + BitVec.ofNat 64 p.1, p.2)))
        (x.imageTags live x.pcc base) with
    | .error (_, s3) => s3.hwEnd c k
    | .ok s3 =>
      let y := { x with st := x.halt.getD x.st, halt := none, ending := none, fflags := 0, qstat := 0, engq := [] }
      let s4 := s3.updCore c (fun (r : Core) => { r with
        saved := r.saved ++ [{ slot := k, image := img, strand := y, tiles := tiles, cocoon := cocoon, lost := false }] })
      s4.vacate c k

/-- Where a pre-empted strand of a slot is saved: PSAVE + 49,152·slot, or nothing where PSAVE does not serve (R384). -/
def Core.saveAt (x : Core) (k : SlotId) : CVal :=
  let p := x.psave
  if p.tag ∧ p.hasAll [.ld, .st, .ldcap, .stcap, .eng] ∧ p.inBounds p.addr.toNat 786432 then
    p.setAddr (p.addr + BitVec.ofNat 64 (imageSize * k.val))
  else .null

/-- `PREEMPTION_SAVE`: the core's strands are halted, and their images saved once what they await has come; while the
device is frozen the pre-emption waits (R384, R385, R390). -/
def execPreemptionSave (c : CoreId) (s : State) : Out :=
  let s1 := s.updCore c (fun (x : Core) => { x with preempt := true })
  let ks := (List.finRange 16).filter (fun k =>
    let x := s1.strand c k
    decide (x.work.kind ≠ .none) && decide (x.st ≠ .dormant) && s1.mustYield c x.work)
  if s1.house.frozen ∨ ks.any (fun k => !s1.canSave c k) then .next (s1.post 100 (.preemptionSave c))
  else
    let s2 := ks.foldl (fun s k => s.saveStrand c k ((s.core c).saveAt k) false) s1
    let s3 := (s2.updCore c (fun (x : Core) => { x with preempt := false })).offer c
    .next (ks.foldl (fun s k => s.postOnce 1000 (.strandRestore c k)) s3)

/-! ### Restoration (R382, R384, R385; 19 R346) -/

/-- Whether a saved strand may come back now: its core starts work, its team is in, a budget admits its grid, and a handler
leaves no more than HMAX slots running handlers (09 R215). -/
def State.mayReturn (s : State) (c : CoreId) (v : Saved) : Bool :=
  let w := v.strand.work
  !s.closed c && !s.teamOut w.grid w.team &&
  (match w.kind with | .handler _ | .inlineHandler _ => decide ((s.core c).handlersOn < (s.core c).hmax) | _ => true) &&
  (match s.budgetOf c with | some p => w.grid == some p.grid | none => true) &&
  v.tiles.all (fun t => (rd (s.core c).t t).holder.isNone)

/-- The slot for a saved strand: its own, or a dormant one where no upcall record names its own. -/
def State.returnSlot (s : State) (c : CoreId) (v : Saved) : Option SlotId :=
  let x := s.core c
  if (x.strand v.slot).st = .dormant then some v.slot
  else if x.recs.any (fun (u : UpRec) => u.wid == v.strand.work.wid) then none
  else x.dormant

/-- A saved strand put back on a slot: its registers and tokens from the image, with the flags that operations have raised
and the engine results that have come since, the rest as the hardware kept it; a posted access that it holds goes with it.
Where the image cannot be read its work ends as after a hardware error (R408). -/
def State.restoreStrand (s : State) (c : CoreId) (k : SlotId) (v : Saved) : State :=
  let w := imageWho c v.strand
  let loc := v.image.has .local
  let base := v.image.addr
  let s0 := s.updCore c (fun (x : Core) => { x with saved := x.saved.erase v })
  let put := fun (s : State) (y : Strand) =>
    (y.allWins.filter (fun (w : Window) => w.res == .pending)).foldl (fun s w => s.post 100 (.loadResponse c k w.id))
      (s.setStrand c k { y with readyAt := s.dt, held := y.held.map (fun (p : Posted) => { p with slot := k }) })
  if v.lost then (put s0 v.strand).hwEnd c k
  else match s0.homeRead w loc base imageRegs with
  | .error (_, s1) => (put s1 v.strand).hwEnd c k
  | .ok (img, s1) =>
    let x := v.strand.fromImage img
    let y : Strand := { x with
      fflags := x.fflags ||| v.strand.fflags, qstat := x.qstat ||| v.strand.qstat, engq := x.engq ++ v.strand.engq
      tok := vofFn (fun i => Token.ofWord (ofBytes ((img.drop (imageTokens + 16 * i.val)).take 16 |>.map (·.1)))) }
    let claim := fun (r : Except State State) (t : Fin 8) =>
      match r with
      | .error s => Except.error s
      | .ok s =>
        match s.homeRead w loc (base + BitVec.ofNat 64 (16384 + 4096 * t.val)) 4096 with
        | .error (_, s1) => .error s1
        | .ok (bs, s1) =>
          let rows : Vector VReg 32 := vofFn (fun i => BitVec.ofNat 1024 (ofBytes ((bs.drop (128 * i.val)).take 128 |>.map (·.1))))
          .ok (s1.updCore c (fun (x : Core) =>
            { x with t := wr x.t t { rd x.t t with rows := rows, holder := some k, asid := y.asid } }))
    match v.tiles.foldl claim (.ok s1) with
    | .error s2 => (put s2 v.strand).hwEnd c k
    | .ok s2 =>
      match s2.homeWrite w loc [(base + 3, [0])] [] with
      | .error (_, s3) => (put s3 v.strand).hwEnd c k
      | .ok s3 => put s3 y

/-- `STRAND_RESTORE`: the strand saved from a slot comes back on its core, or is looked at again later (R384). -/
def execStrandRestore (c : CoreId) (k : SlotId) (s : State) : Out :=
  match (s.core c).saved.find? (fun (v : Saved) => v.slot == k && s.mayReturn c v) with
  | some v =>
    match s.returnSlot c v with
    | some j => .next (s.restoreStrand c j v)
    | none => .next (s.postOnce 1000 (.strandRestore c k))
  | none =>
    if (s.core c).saved.any (fun (v : Saved) => v.slot == k && !s.teamOut v.strand.work.grid v.strand.work.team) then
      .next (s.postOnce 1000 (.strandRestore c k))
    else .next s

end Sys2Proof.Machine
end

