-- ==== Sys2Proof/Machine/Tasks.lean ====
section
/-! DEFINITION. Continuations: task queues, spawns and ends, joins, the taking of records, steals (03 R97, R98; 07 R187,
R198, R199; 14 R293-R296; 16 R311; 17 R314-R316; 19 R345, R349, R351). -/

namespace Sys2Proof.Machine

/-! ### Records (07 R198) -/

/-- The record that 64 bytes with their tags hold. -/
def recOf (bs : List RByte) : ContRec :=
  let num := fun o n => ofBytes ((bs.drop o).take n |>.map (·.1))
  let cap := fun o => ({ val := BitVec.ofNat 128 (num o 16), tag := ((bs[o]?).map (·.2)).getD false } : CVal)
  { code := cap 0, flags := BitVec.ofNat 64 (num 16 8), stamp := BitVec.ofNat 64 (num 24 8), a4 := cap 32, a5 := cap 48 }

/-- The bytes of a record. -/
def ContRec.bytes (r : ContRec) : List Byte :=
  toBytes 16 r.code.val.toNat ++ toBytes 8 r.flags.toNat ++ toBytes 8 r.stamp.toNat ++ toBytes 16 r.a4.val.toNat ++
    toBytes 16 r.a5.val.toNat

/-- The granules of a record at an address whose tag is set. -/
def ContRec.granules (r : ContRec) (va : Dbl) : List Dbl :=
  (if r.code.tag then [va] else []) ++ (if r.a4.tag then [va + 32] else []) ++ (if r.a5.tag then [va + 48] else [])

def ContRec.role (r : ContRec) : BitVec 2 := r.flags.setWidth 2
def ContRec.prio (r : ContRec) : Nat := df r.flags 2 2
def ContRec.level (r : ContRec) : Nat := df r.flags 4 3
def ContRec.restartable (r : ContRec) : Bool := r.flags.getLsbD 7
def ContRec.spec (r : ContRec) : Bool := r.flags.getLsbD 8
def ContRec.det (r : ContRec) : Bool := r.flags.getLsbD 9
def ContRec.domain (r : ContRec) : Fin 8 := Fin.ofNat 8 (df r.flags 32 3)
/-- Timestamp and spawn sequence number. -/
def ContRec.ts (r : ContRec) : BitVec 48 := r.stamp.setWidth 48
def ContRec.withSeq (r : ContRec) (n : BitVec 16) : ContRec :=
  { r with stamp := (r.stamp.setWidth 48).setWidth 64 ||| (n.setWidth 64 <<< 48) }
def ContRec.withTs (r : ContRec) (t : BitVec 48) : ContRec :=
  { r with stamp := (r.stamp >>> 48 <<< 48) ||| t.setWidth 64 }

/-- What `spawn` and `tspawn` check of a record they have loaded: its code capability, then its reserved bits, its role
and its speculative bit (R199, R201). -/
def checkRec (r : ContRec) (spec : Bool) : Except Stop Unit := do
  need r.code.tag .capt
  need (r.code.has .exec) .capp
  need (df r.flags 10 6 == 0 && df r.flags 35 29 == 0 && r.role != 3 && r.spec == spec) .ill

/-! ### Queues (14 R293, R294) -/

/-- Entries of a task queue. -/
def queueSize : Nat := 1024

/-- Whether a push finds room, and no earlier push waits. -/
def Cluster.hasRoom (x : Cluster) : Bool := decide (x.tq.length < queueSize) && x.tqWait.isEmpty

/-- A push to its own queue ends a core's wait for the next steal round (R295). -/
def State.steals (s : State) (q : ClusterId) : State :=
  ((List.range 16).foldl (fun s p => s.updCore (coreAt q p) (fun (x : Core) => { x with stealing := false })) s).offerCluster q

/-- The clusters that a round asks, in order. -/
def stealOrder (q : ClusterId) : List ClusterId :=
  (List.range 11).map (fun j => Fin.ofNat 24 (12 * (q.val / 12) + (q.val % 12 + (j + 1)) % 12))

/-- The cluster that takes over the queue of one out of service: the next in service around its die, else the first of
the package (R6; log entry 69). -/
def State.heirOf (s : State) (q : ClusterId) : Option ClusterId :=
  (stealOrder q ++ List.finRange 24).find? (fun p => p != q && s.house.ready.getLsbD p.val)

/-- The queue that a push to a cluster's queue goes to. -/
def State.queueFor (s : State) (q : ClusterId) : ClusterId :=
  if s.house.oos.getLsbD q.val then (s.heirOf q).getD q else q

/-- A record that takes an entry. -/
def State.pushNow (s : State) (q : ClusterId) (e : TqEntry) : State :=
  let (n, s1) := s.newId
  (s1.updCluster q (fun (x : Cluster) => { x with tq := x.tq ++ [{ e with id := n, order := n }] })).steals q

/-- A record put at the end of a queue's line. -/
def State.lineUp (s : State) (q : ClusterId) (e : TqEntry) : State :=
  let (n, s1) := s.newId
  s1.updCluster q (fun (x : Cluster) => { x with tqWait := x.tqWait ++ [{ e with id := n, order := n }] })

/-- A record pushed: it takes an entry, or waits at the queue in arrival order. -/
def State.push (s : State) (q : ClusterId) (e : TqEntry) : State :=
  if (s.cluster (s.queueFor q)).hasRoom then s.pushNow (s.queueFor q) e else s.lineUp (s.queueFor q) e

/-- The entry of a record as a program's push makes it. -/
def entryOf (r : ContRec) (asid : BitVec 16) (grid : Option Word) (c : CoreId) : TqEntry :=
  { id := 0, rec0 := r, crec := r, asid := asid, grid := grid, bound := none, member := none, team := none, taken := false,
    parkedBy := none, spawner := c, task := none, retries := 0, order := 0, irrevocable := false, avoid := none, after := none, waiter := none }

/-- `QUEUE_PUSH_WAIT`: the longest-waiting push takes a free entry; a strand that waits in `spawn` for it goes on, and one
that waits in `tspawn` makes its push itself, at its place in the line (R294). -/
def execQueuePushWait (q : ClusterId) (s : State) : Out :=
  let x := s.cluster q
  match x.tqWait with
  | [] => .next s
  | e :: es =>
    if x.tq.length < queueSize ∧ !(e.waiter.isSome && e.crec.spec) then
      let s1 := (s.setCluster q { x with tq := x.tq ++ [{ e with waiter := none }], tqWait := es }).steals q
      let s2 := match e.waiter with
        | some wid => s1.answerAmo e.spawner wid (fun (y : Strand) => if y.ticket = some e.id then { y with answer := some 0 } else y)
        | none => s1
      .next (if es.isEmpty then s2 else s2.postOnce 1 (.queuePushWait q))
    else .next s

/-! ### spawn (07 R199; 19 R354) -/

/-- The record at a capability, loaded by the running strand. -/
def State.loadRec (s : State) (r : CVal) : Except Stop (ContRec × State) := do
  s.checkAccess r [.ld, .ldcap] r.addr 64 64
  let (bs, s) ← s.load s.cur.1 s.cur.2 s.nextId (r.has .local) r.addr 64
  pure (recOf bs, s)

/-- The window that governs a grid's DET spawns (19 R354). -/
def Grid.detWindow (g : Grid) : Option (Fin 32) :=
  if fld g.r.flags 7 1 = 1 then some (Fin.ofNat 32 (fld g.r.flags 8 5)) else none

/-- The issuing core's next spawn sequence number. -/
def State.nextSpawn (s : State) : BitVec 16 × State :=
  (s.myCore.spawnCtr, s.updCore s.cur.1 (fun (x : Core) => { x with spawnCtr := x.spawnCtr + 1 }))

/-- A push of the running strand: the record takes an entry at once, or the strand waits in the queue's line (R294). -/
def State.pushMine (s : State) (q : ClusterId) (e : TqEntry) : Except Stop State :=
  if (s.cluster q).hasRoom then .ok (s.push q e)
  else .error (.wait ((s.lineUp q { e with waiter := some s.me.work.wid }).updMe (fun (x : Strand) => { x with ticket := some s.nextId })))

/-- The turn of the running strand at a queue: at once, or when its place in the line has come, which it then leaves. -/
def State.turnInLine (s : State) (q : ClusterId) (e : TqEntry) : Except Stop State :=
  let x := s.cluster q
  match s.me.ticket with
  | none =>
    if x.hasRoom then .ok s
    else .error (.wait ((s.lineUp q { e with waiter := some s.me.work.wid }).updMe (fun (x : Strand) => { x with ticket := some s.nextId })))
  | some n =>
    if x.tq.length < queueSize ∧ (x.tqWait.head?).map (·.id) = some n then
      let rest := x.tqWait.drop 1
      let s1 := (s.updMe (fun (x : Strand) => { x with ticket := none })).updCluster q (fun (x : Cluster) => { x with tqWait := rest })
      .ok (if rest.isEmpty then s1 else s1.postOnce 1 (.queuePushWait q))
    else .error (.wait s)

/-- A `spawn` that has waited, completed once its record has been pushed; nothing where none waits. -/
def State.pushed (s : State) : Except Stop (Option State) :=
  match s.me.ticket, s.me.answer with
  | none, _ => .ok none
  | some _, none => .error (.wait s)
  | some _, some _ => .ok (some (s.updMe (fun (x : Strand) => { x with ticket := none, answer := none })))

/-- `spawn` (R199); its operands are taken once. -/
def execSpawn (g : Fin 8) (a b : Fin 64) (s : State) : Out := issue g 4 s fun s => do
  let (r, s) ← s.useC a
  let (k, s) ← s.useX b
  if let some s ← s.pushed then return s
  let (x, s) ← s.loadRec r
  checkRec x false
  need (b == 0 || decide (df k 0 5 < 24)) .ill
  let q := s.queueFor (if b = 0 then clusterOf s.cur.1 else Fin.ofNat 24 (df k 0 5))
  let win := (s.me.work.grid.bind s.grid).bind Grid.detWindow
  need (!x.det || win.isSome) .ill
  s.orderLoads
  s.orderStores
  let (n, s) := s.nextSpawn
  let e := entryOf (x.withSeq n) s.me.asid s.me.work.grid s.cur.1
  s.pushMine q { e with parkedBy := if x.det then win else none }

/-! ### The ends of work (03 R97, R98; 07 R199; 17 R316) -/

/-- What every end of work waits for: tokens at zero, windows resolved, posted accesses performed, the lease's commands
and fills, and owed tile writes. -/
def State.settleEnd (s : State) : Except Stop State := do
  let s ← s.joinWins
  if s.me.tok.toList.any (fun t => t.out != 0) then throw (.wait s)
  let s ← s.joinPosted
  let s ← s.settleLease
  if s.ops.any (fun (o : Op) => o.owesTile s.cur.1 s.me.work.wid) then throw (.wait s)
  pure s

/-- The running work is a continuation, and no row-gather copy awaits its index capability (07 R194). -/
def State.endsCont (s : State) : Except Stop Unit := do
  need (s.me.work.kind == .continuation) .ill
  need s.me.await.isNone .ill

/-- `hend` (R98). -/
def execHend (g : Fin 8) (s : State) : Out := issueN g 4 s fun s => do
  need (s.me.work.kind != .continuation) .ill
  need s.me.await.isNone .ill
  let s ← s.settleEnd
  pure (s.release s.cur.1 s.cur.2, .gone)

/-- The successor's record put in its predecessor's entry; a speculative task's entry keeps the first record too
(R293). Work that has no entry pushes one. -/
def State.succeed (s : State) (r : ContRec) : Except Stop State :=
  let w := s.me.work
  let q := clusterOf s.cur.1
  match w.entry.bind s.findEntry with
  | some (p, e) =>
    let (n, s1) := s.newId
    let s2 := s1.updEntry p e.id (fun (x : TqEntry) => { x with
      crec := r, rec0 := if w.task.isSome then x.rec0 else r, taken := false, order := n, irrevocable := w.irrevocable, avoid := none, after := none })
    let s3 := match w.task with
      | some t => s2.updTask w.domain t (fun (x : STask) => { x with core := none })
      | none => s2
    .ok (s3.steals p)
  | none =>
    if (s.cluster q).hasRoom then .ok (s.push q (entryOf r s.me.asid w.grid s.cur.1)) else .error .stall

/-- The record that `suspend` writes: c5, c4, bytes 16-31 of the running record, the code. -/
def State.successor (s : State) (code : CVal) : ContRec :=
  { s.me.work.crec with code := code, a4 := s.me.creg 4, a5 := s.me.creg 5 }

/-- The strand's work ended by a successor in its queue. -/
def State.suspendTo (s : State) (code : CVal) : Except Stop (State × Next) := do
  let s ← s.settleEnd
  let s1 ← s.succeed (s.successor code)
  pure (s1.release s.cur.1 s.cur.2, .gone)

/-- Operands that an end of work has checked, kept while it waits so that they are neither read nor checked again (R97). -/
def State.checkedEnd (s : State) (check : State → Except Stop (CVal × CVal × State)) : Except Stop (CVal × CVal × State) :=
  match s.me.ending with
  | some (p, m) => .ok (p, m, s)
  | none => do
    let (p, m, s) ← check s
    pure (p, m, s.updMe (fun (x : Strand) => { x with ending := some (p, m) }))

/-- `suspend` (R97): every check comes before the wait. -/
def execSuspend (g : Fin 8) (a b : Fin 64) (s : State) : Out := issueN g 4 s fun s => do
  let (p, m, s) ← s.checkedEnd fun s => do
    s.endsCont
    if b ≠ 0 then s.notSpec
    let (p, s) ← s.useC a
    s.checkAccess p [.exec] p.addr 4 4 true
    if b = 0 then return (p, .null, s)
    let (m, s) ← s.useC b
    s.checkAccess m [.st, .stcap] m.addr 64 64
    return (p, m, s)
  if b = 0 then s.suspendTo p
  else
    let s ← s.settleEnd
    let r := s.successor p
    let w := s.me.work
    match s.homeWrite (s.whoOf s.cur.1 s.cur.2) (m.has .local) [(m.addr, r.bytes)] (r.granules m.addr) with
    | .error (f, s1) => throw (.upcall f s1)
    | .ok s1 =>
      let s2 := s1.release s.cur.1 s.cur.2
      let s3 := match w.entry.bind s2.findEntry with
        | some (q, e) => s2.dropEntry q e.id
        | none => s2
      pure (s3.gridCheck w.grid, .gone)

/-- `yield`: as `suspend` with the code at PCC + 4 and place c0 (R199). -/
def execYield (g : Fin 8) (s : State) : Out := issueN g 4 s fun s => do
  s.endsCont
  s.notSpec
  let p := s.me.pcc.setAddr (s.me.pcc.addr + 4)
  s.checkAccess p [.exec] p.addr 4 4 true
  s.suspendTo p

/-- `done` (R199). -/
def execDone (g : Fin 8) (s : State) : Out := issueN g 4 s fun s => do
  s.endsCont
  s.notSpec
  let s ← s.settleEnd
  let w := s.me.work
  pure ((s.release s.cur.1 s.cur.2).entryEnds w, .gone)

/-- `done.j`: the join's address is checked and translated first; its decrement is the home's own event, and the entry is
held until then (R199). An atomic of the strand that stands parked at its home is performed before it (14 R296). -/
def execDoneJ (g : Fin 8) (a : Fin 64) (s : State) : Out := issueN g 4 s fun s => do
  let (j, _, s) ← s.checkedEnd fun s => do
    s.endsCont
    s.notSpec
    let (j, s) ← s.useC a
    s.checkAccess j [.ld, .st] j.addr 32 32
    return (j, .null, s)
  let s ← s.settleEnd
  if s.parked.any (fun a => a.wid == s.me.work.wid) then throw (.wait s)
  let x := s.me
  match s.translateAll (s.whoOf s.cur.1 s.cur.2) (j.has .local) .write [(j.addr, 32)] with
  | .error (f, s1) => throw (.upcall f s1)
  | .ok (_, s1) =>
    pure ((s1.release s.cur.1 s.cur.2).post 100 (.joinDecrement s.cur.1 x.asid x.work.entry j), .gone)

/-! ### Joins (07 R199; 14 R296) -/

/-- The parent's record, if its capability passes its checks and the record can be read; a read that fails is logged. -/
def State.parentRec (s : State) (w : Who) (p : CVal) : Option ContRec × State :=
  let va := p.addr
  if !p.tag ∨ !p.hasAll [.ld, .ldcap] ∨ va.toNat % 64 ≠ 0 ∨ !p.inBounds va.toNat 64 ∨
     (!p.has .local ∧ df va 56 8 ≤ 1 ∧ dieOfVa va ≠ dieOf w.core) then (none, s)
  else match s.homeRead w (p.has .local) va 64 with
    | .ok (bs, s1) => (some (recOf bs), s1)
    | .error (_, s1) => (none, s1)

/-- The end of the continuation whose `done.j` has been performed. -/
def State.joinedEnds (s : State) (entry : Option Nat) : State :=
  match entry.bind s.findEntry with
  | some (_, e) => s.entryEnds { Work.none with entry := some e.id, grid := e.grid, member := e.member }
  | none => s

/-- `JOIN_DECREMENT`: the join's count falls at its home; at zero the parent is pushed, or JZERO set (R199). A join whose
count has reached zero before, and has been raised since, pushes nothing: JZERO is set, while the count still falls (R296;
log entry 69). -/
def execJoinDecrement (c : CoreId) (asid : BitVec 16) (entry : Option Nat) (jo : CVal) (s : State) : Out :=
  let w : Who := { core := c, asid := asid, eng := false }
  let loc := jo.has .local
  let va := jo.addr
  let fin := fun (s : State) => Host.Outcome.next (s.joinedEnds entry)
  match s.homeRead w loc va 32 .write with
  | .error (_, s1) => fin s1
  | .ok (bs, s1) =>
    let num := fun o n => ofBytes ((bs.drop o).take n |>.map (·.1))
    let count := num 0 4
    let flags := num 4 4
    let zero := toBytes 4 (Nat.lor flags (2 ^ 31))
    let put := fun (s : State) (n : Nat) (bytes : List Byte) =>
      match s.homeWrite w loc [(va + BitVec.ofNat 64 n, bytes)] [] with
      | .ok s2 => s2
      | .error (_, s2) => s2
    let at' := match s1.translateAll w loc .write [(va, 32)] with
      | .ok ([(t, _, _)], _) => some t.phys
      | _ => none
    let past := at'.any (fun p => s1.joined.contains p)
    let mark := fun (s : State) => match at' with | some p => { s with joined := setIn s.joined p } | none => s
    if count = 0 then fin { put s1 4 zero with joined := s1.joined }
    else if past then fin (mark (put s1 0 (toBytes 4 (count - 1) ++ zero)))
    else if count > 1 then fin (put s1 0 (toBytes 4 (count - 1)))
    else
      let p : CVal := { val := BitVec.ofNat 128 (num 16 16), tag := ((bs[16]?).map (·.2)).getD false }
      let own := fld flags 5 1 = 1
      let q := if own then some (clusterOf c) else if fld flags 0 5 < 24 then some (Fin.ofNat 24 (fld flags 0 5)) else none
      match q, s1.parentRec w p with
      | some q, (some r, s2) =>
        let grid := (entry.bind s2.findEntry).bind (fun x => x.2.grid)
        fin ((mark (put s2 0 (toBytes 4 0))).push q (entryOf r asid grid c))
      | some _, (none, s2) => fin (mark (put s2 0 (toBytes 4 0 ++ zero)))
      | none, _ => fin (mark (put s1 0 (toBytes 4 0 ++ zero)))

/-! ### Taking a record (07 R187; 14 R293; 16 R311) -/

/-- Whether a speculative task is on its fourth run, which waits to be the frontier (16 R311). -/
def State.lastRun (s : State) (e : TqEntry) : Bool := (e.task.bind s.task).any (fun p => decide (3 ≤ p.2.reruns))

/-- Whether an entry's task is its domain's frontier. -/
def State.isFirst (s : State) (e : TqEntry) : Bool :=
  (e.task.bind s.task).any (fun p => ((rd s.doms p.1).first).any (fun t => t.id == p.2.id))

/-- Whether a budget on a core admits work of a grid (19 R349). -/
def State.admitsGrid (s : State) (c : CoreId) (grid : Option Word) : Bool :=
  match s.budgetOf c with
  | some p => grid == some p.grid
  | none => true

/-- Whether the posted accesses of an entry's last run, which a hardware error has ended, are performed: they come before what
the next run does (18 R319). -/
def State.lastRunDone (s : State) (e : TqEntry) : Bool :=
  e.after.all (fun i => s.cores.toList.all (fun (x : Core) => x.wpath.all (fun p => p.wid != i)))

/-- Whether an entry keeps away from a core, whose error ended its last run; it takes that core again when no other of the
cluster takes work (19 R351). -/
def State.avoids (s : State) (c : CoreId) (e : TqEntry) : Bool :=
  e.avoid == some c && (List.finRange 16).any (fun i => coreAt (clusterOf c) i.val != c && !s.closed (coreAt (clusterOf c) i.val))

/-- Whether a slot of a core may take an entry of its own queue. -/
def State.takable (s : State) (c : CoreId) (e : TqEntry) : Bool :=
  !e.taken && e.parkedBy.isNone && (match e.bound with | some b => b == c | none => true) &&
  !s.avoids c e && s.lastRunDone e && s.admitsGrid c e.grid && !s.teamOut e.grid e.team && !s.teamStops e.grid e.team &&
  (!s.lastRun e || e.irrevocable || s.isFirst e)

/-- The entry of highest priority among some, of those the earliest pushed. -/
def bestEntry (es : List TqEntry) : Option TqEntry :=
  es.foldl (fun r e => match r with
    | none => some e
    | some x => if x.crec.prio < e.crec.prio ∨ (x.crec.prio = e.crec.prio ∧ e.order < x.order) then some e else r) none

/-- A continuation started on a slot (R187). -/
def State.startCont (s : State) (c : CoreId) (k : SlotId) (q : ClusterId) (e : TqEntry) : State :=
  let (wid, s1) := s.newId
  let gr := e.grid.bind s1.grid
  let becomes := s1.lastRun e && !e.irrevocable
  let irr := e.irrevocable || becomes
  let w : Work :=
    { wid := wid, kind := .continuation, crec := e.crec, entry := some e.id, grid := e.grid, role := e.crec.role,
      member := e.member, team := e.team, task := e.task, domain := e.crec.domain, irrevocable := irr }
  let c2 := match gr with | some g => g.r.stack.stackPart k.val | none => .null
  let c3 := match gr with | some g => g.r.data | none => .null
  let y := { (s1.core c).fresh' k e.asid e.crec.code c2 c3 e.crec.a4 e.crec.a5 w with readyAt := s1.dt }
  let s2 := (s1.setStrand c k y).updEntry q e.id (fun (x : TqEntry) => { x with taken := true, irrevocable := irr })
  match e.task.bind s2.task with
  | some (d, t) =>
    let s3 := s2.updTask d t.id (fun (t : STask) => { t with
      st := if irr then .irrevocable else .running, core := some c, cluster := q })
    if becomes then s3.updDom d (fun (x : Domain) => { x with irrev := hold 0xFFFF (x.irrev + 1) }) else s3
  | none => s2

/-- `CONTINUATION_TAKE`: a dormant slot that has found no handler takes a record of its cluster's queue; where there is
none its core starts a steal round (R215, R293, R295). -/
def execContinuationTake (c : CoreId) (s : State) : Out :=
  if s.closed c then .next s
  else match (s.core c).dormant with
    | none => .next s
    | some k =>
      let q := clusterOf c
      match bestEntry ((s.cluster q).tq.filter (s.takable c)) with
      | some e => .next ((s.startCont c k q e).offer c)
      | none =>
        if (s.core c).stealing then .next s
        else .next ((s.updCore c (fun (x : Core) => { x with stealing := true })).post 20 (.stealRound c))

/-! ### Steals (R295) -/

/-- Whether a record may be stolen: at a level that its launch binds to the die or the package. -/
def State.stealable (s : State) (c : CoreId) (e : TqEntry) : Bool :=
  !e.taken && e.parkedBy.isNone && e.bound.isNone && e.task.isNone && s.admitsGrid c e.grid && s.lastRunDone e &&
  ((e.grid.bind s.grid).bind (fun (g : Grid) => g.r.domain e.crec.level)).any (fun d => d == 4 || d == 5)

/-- `STEAL_ROUND`: the first record that another cluster of the die offers moves with its entry to the thief's queue and
starts on the slot; a round that finds none is tried again after 1,024 cycles or the next push. -/
def execStealRound (c : CoreId) (s : State) : Out :=
  let q := clusterOf c
  let found := (stealOrder q).findSome? (fun p => (bestEntry ((s.cluster p).tq.filter (s.stealable c))).map (fun e => (p, e)))
  let idle := s.updCore c (fun (x : Core) => { x with stealing := false })
  match (s.core c).dormant with
  | none => .next idle
  | some k =>
    if s.closed c then .next idle
    else match (if (s.cluster q).hasRoom then found else none) with
      | some (p, e) =>
        let s1 := (idle.dropEntry p e.id).updCluster q (fun (x : Cluster) => { x with tq := x.tq ++ [e] })
        .next ((s1.startCont c k q e).offer c)
      | none =>
        let s1 := s.updCore c (fun (x : Core) => { x with stealing := true, stealAt := s.dt + 539 })
        .next (s1.post 539 (.stealRetryTimeout c))

/-- `STEAL_RETRY_TIMEOUT`: 1,024 cycles have passed since a round that found nothing. -/
def execStealRetryTimeout (c : CoreId) (s : State) : Out :=
  if s.dt < (s.core c).stealAt then .next s
  else .next ((s.updCore c (fun (x : Core) => { x with stealing := false })).offer c)

end Sys2Proof.Machine
end

