-- ==== Sys2Proof/Machine/Launch.lean ====
section
/-! DEFINITION. Launches: records and their validation, configuration items, placing, teams and their rotation, reserved
partitions, errors and reports (07 R200; 10 R237; 15 R297; 17 R314, R315; 19 R339-R354). -/

namespace Sys2Proof.Machine

/-! ### Launch records (R339) -/

/-- The record that 128 bytes with their tags hold. -/
def launchOf (bs : List RByte) : LaunchRec :=
  let num := fun o n => ofBytes ((bs.drop o).take n |>.map (·.1))
  let cap := fun o => ({ val := BitVec.ofNat 128 (num o 16), tag := ((bs[o]?).map (·.2)).getD false } : CVal)
  { start := cap 0, entry := cap 16, data := cap 32, stack := cap 48, cocoon := cap 64
    levels := ((bs.drop 80).take 8).map (·.1), clu := num 88 4, posm := num 92 2, flags := num 94 2
    asid := BitVec.ofNat 16 (num 96 2), sdoms := num 98 2, nteam := num 100 4, tslice := num 104 4
    rper := num 108 4, rbud := num 112 4, rt0 := BitVec.ofNat 32 (num 116 4), rch := num 120 2 }

def LaunchRec.prio (r : LaunchRec) : Fin 4 := Fin.ofNat 4 (fld r.flags 0 2)
def LaunchRec.mpc (r : LaunchRec) : Nat := fld r.flags 2 4 + 1
def LaunchRec.resv (r : LaunchRec) : Bool := fld r.flags 6 1 == 1
def LaunchRec.detwin (r : LaunchRec) : Option (Fin 32) :=
  if fld r.flags 7 1 = 1 then some (Fin.ofNat 32 (fld r.flags 8 5)) else none
/-- Microseconds of a slice. -/
def LaunchRec.slice (r : LaunchRec) : Nat := if r.tslice = 0 then 2000 else r.tslice

/-- The core set, ascending: every core at a position of POS in a cluster of CLU. -/
def LaunchRec.cores (r : LaunchRec) : List CoreId :=
  (List.finRange 384).filter (fun c => fld r.clu (clusterOf c).val 1 == 1 && fld r.posm (posOf c) 1 == 1)

/-- The valid levels' domains, from level 0 upward. -/
def LaunchRec.domains (r : LaunchRec) : List Nat :=
  (r.levels.takeWhile (fun b => b.getLsbD 7)).map (fun b => fld b.toNat 0 3)

/-- A list without later repeats. -/
def distinct (l : List Nat) : List Nat := l.foldl (fun r x => if r.contains x then r else r ++ [x]) []

/-- Units of the top level with a core of the set, in ascending order of their lowest core (R343). -/
def LaunchRec.unitCores (r : LaunchRec) : List (List CoreId) :=
  match r.domains.getLast? with
  | none => []
  | some d => (distinct (r.cores.map (unitOf d))).map (fun u => r.cores.filter (fun c => unitOf d c == u))

/-- Teams at the top level. -/
def LaunchRec.teams (r : LaunchRec) : Nat := if r.nteam = 0 then r.unitCores.length else r.nteam

/-- The members in their order (R343). -/
def LaunchRec.members (r : LaunchRec) : List Member :=
  let on := fun (t : Nat) (cs : List CoreId) => cs.flatMap (fun c => (List.range r.mpc).map (fun _ => (t, c)))
  let us := r.unitCores
  let all := if !r.start.tag then []
    else if us.isEmpty then on 0 r.cores
    else (List.range r.teams).flatMap (fun t => on t ((us[t % us.length]?).getD []))
  all.zipIdx.map (fun p => { i := p.2, core := p.1.2, team := p.1.1, ended := false })

/-- The flags of a member's or entry's record: PRIO, a level and its team, restartable (R343). -/
def LaunchRec.recFlags (r : LaunchRec) (level team : Nat) : Dbl :=
  BitVec.ofNat 64 (4 * r.prio.val + 2 ^ 4 * level + 2 ^ 7 + 2 ^ 16 * (team % 2 ^ 16))

/-! ### Validation (R340) -/

/-- Who makes a validation's accesses. -/
def LaunchReq.who (q : LaunchReq) : Who := { core := q.core, asid := q.asid, eng := false }

/-- Bytes that validation reads: through the issuer's capability, or the LPDDR-6 bytes at the address that a launch port
was given, which an access by the host's authority logs as an application core's does (21 R386, R387; 22 R393). -/
def State.launchRead (s : State) (q : LaunchReq) (off n : Nat) : Except State (List RByte × State) :=
  let va := q.cap.addr + BitVec.ofNat 64 off
  let tell := fun (ni : Fin 400) (cause : Nat) => s.logAt ni (vlogWord va 0 0x1FF false false cause s.now)
  if q.host then
    if !backed va.toNat n then .error (tell (niOfCore q.core) 4)
    else if !s.homesReady va.toNat n then .error (tell (niOfCore q.core) 6)
    else if poisoned s.poison va.toNat n then .error (tell (niOfHome (homeOfGlobal va.toNat)) 5)
    else .ok (s.physRead va.toNat n true, s)
  else if !q.cap.inBounds va.toNat n then .error s
  else match s.homeRead q.who (q.cap.has .local) va n with
    | .ok p => .ok p
    | .error (_, s1) => .error s1

/-- A configuration item (R341): type, number, body. -/
structure CfgItem where
  type : Nat
  num : Nat
  body : List RByte

/-- Bytes of an item's body, by its type. -/
def itemSize : Nat → Nat
  | 1 => 64 | 2 => 256 | 3 => 128 | _ => 0

/-- The items that follow a record, if each can be read and has a header of the right form. -/
def State.readItems (s : State) (q : LaunchReq) : Nat → Nat → Except State (List CfgItem × State)
  | 0, _ => .ok ([], s)
  | n + 1, off =>
    match s.launchRead q off 16 with
    | .error s1 => .error s1
    | .ok (h, s1) =>
      let num := fun o k => ofBytes ((h.drop o).take k |>.map (·.1))
      let ty := num 0 2
      if itemSize ty = 0 ∨ num 4 12 ≠ 0 then .error s1
      else match s1.launchRead q (off + 16) (itemSize ty) with
        | .error s2 => .error s2
        | .ok (b, s2) =>
          match s2.readItems q n (off + 16 + itemSize ty) with
          | .error s3 => .error s3
          | .ok (is, s3) => .ok ({ type := ty, num := num 2 2, body := b } :: is, s3)

/-- Whether an item is well formed by its instruction's rules. -/
def CfgItem.ok (i : CfgItem) (r : LaunchRec) : Bool :=
  let pass := fun (e : Except Stop Unit) => match e with | .ok _ => true | .error _ => false
  match i.type with
  | 1 => decide (i.num < 64) && pass (checkChan (chanOf i.body r.asid))
  | 2 => decide (i.num < 32) && winRecOk (i.body.map (·.1))
  | _ =>
    let b := binOf i.body r.asid
    decide (i.num < 16) && decide (b.f 108 9 < 384) && r.cores.contains b.owner && pass (checkBin (clusterOf b.owner) b none)

/-- Whether the launch's authority may install an item. -/
def CfgItem.allowed (i : CfgItem) (r : LaunchRec) (q : LaunchReq) : Bool :=
  q.host || q.sys || (i.type == 3 && (binOf i.body r.asid).owner == q.core)

/-- Reserved bits of a record. -/
def reservedOk (bs : List RByte) : Bool :=
  let num := fun o n => ofBytes ((bs.drop o).take n |>.map (·.1))
  num 91 1 == 0 && fld (num 94 2) 13 3 == 0 && num 99 1 == 0 && fld (num 120 2) 6 10 == 0 && num 124 4 == 0

/-- Whether levels are valid from 0 upward without a gap, with known domains and scopes, none smaller than the one below. -/
def LaunchRec.levelsOk (r : LaunchRec) : Bool :=
  let ds := r.domains
  (r.levels.drop ds.length).all (fun b => !b.getLsbD 7) &&
  (r.levels.take ds.length).all (fun b => decide (fld b.toNat 0 3 ≤ 5) && decide (fld b.toNat 3 4 ≤ 8)) &&
  (ds.zip (ds.drop 1)).all (fun p => decide (p.1 ≤ p.2))

/-- The first row of R340: the record's own form. -/
def LaunchRec.wellFormed (r : LaunchRec) (bs : List RByte) (cfgn : Nat) (items : List CfgItem) : Bool :=
  let anyLevel := !r.domains.isEmpty
  let units := r.unitCores.length
  let between := fun (lo x hi : Nat) => decide (lo ≤ x) && decide (x ≤ hi)
  reservedOk bs && (r.start.tag || r.entry.tag || cfgn != 0) &&
  (!r.start.tag || r.start.has .exec) && (!r.entry.tag || r.entry.has .exec) && r.data.tag && r.levelsOk &&
  (!anyLevel || r.start.tag) && (anyLevel || r.nteam == 0) &&
  ((r.clu != 0 && r.posm != 0) || !(r.start.tag || items.any (fun i => i.type == 1))) &&
  (r.tslice == 0 || between 100 r.tslice 100000) && decide (r.nteam ≤ 65536) &&
  (if r.resv then between 100 r.rper 100000 && between 1 r.rbud (r.rper - 10) && between 4 r.rch 63
    else r.rper == 0 && r.rbud == 0 && r.rt0 == 0 && r.rch == 0) &&
  (decide (r.nteam ≤ units) || (r.cocoon.tag && r.cocoon.hasAll [.ld, .st, .eng] &&
    r.cocoon.inBounds r.cocoon.addr.toNat (imageSize * r.members.length))) &&
  items.all (fun i => i.ok r)

/-- Whether a code capability of a record carries SYS (20 R361). -/
def LaunchRec.codeSys (r : LaunchRec) : Bool :=
  (r.start.tag && r.start.has .sys) || (r.entry.tag && r.entry.has .sys)

/-- The failure code of a record, or nothing (R340; 20 R361; 22 R392). -/
def State.launchCode (s : State) (d : Fin 2) (q : LaunchReq) (bs : List RByte) (r : LaunchRec) (cfgn : Nat)
    (items : List CfgItem) : Option Nat :=
  if !r.wellFormed bs cfgn items ∨ (List.finRange 24).any (fun k => fld r.clu k.val 1 == 1 && s.house.oos.getLsbD k.val) then some 1
  else if r.detwin.any (fun w => s.detWin.any (fun x => x.2.1 == r.asid && x.2.2 != w)) then some 1
  else if r.resv ∧ (s.parts.toList.all Option.isSome ∨
      s.parts.toList.any (fun p => p.any (fun (x : Partition) => x.cores.any (fun c => r.cores.contains c)))) then some 2
  else if (List.finRange 8).any (fun k => fld r.sdoms k.val 1 == 1 && (rd s.doms k).grid.isSome) then some 3
  else if (!q.host ∧ !q.sys ∧ (r.asid ≠ q.asid ∨ r.codeSys = true)) ∨ items.any (fun i => !i.allowed r q) then some 4
  else if 64 ≤ (rd (rd s.launch d).q r.prio).length then some 5
  else none

/-! ### Acceptance (R340, R341; 22 R406) -/

/-- The digest of the bytes within a code capability; of none where it is untagged, and a free value where they cannot be
read. -/
def State.codeDigest (s : State) (w : Who) (c : CVal) : List Byte × State :=
  if !c.tag then (Config.shake256 [], s)
  else
    let n := (c.top - c.base).toNat
    match s.homeRead w (c.has .local) (BitVec.ofInt 64 c.base) n with
    | .ok (bs, s1) => (Config.shake256 (bs.map (·.1)), s1)
    | .error (_, s1) =>
      let (f, s2) := s1.free
      (freeBytes f 64, s2)

/-- Whether the installation of an item must wait: a bin's array work, or the window unit (07 R181, R190). -/
def State.itemWaits (s : State) (r : LaunchRec) (i : CfgItem) : Bool :=
  match i.type with
  | 2 => !s.house.ready.getLsbD 77
  | 3 => let b := binOf i.body r.asid
    (s.bin (clusterOf b.owner) (Fin.ofNat 16 i.num)).working
  | _ => false

/-- The open sheet of a bin that an item configures, closed by flush under the old record (07 R190). -/
def State.flushItem (s : State) (r : LaunchRec) (i : CfgItem) : State :=
  if i.type = 3 then
    let q := clusterOf (binOf i.body r.asid).owner
    let k : Fin 16 := Fin.ofNat 16 i.num
    if (s.bin q k).openAt.isSome then s.closeSheet q k 3 else s
  else s

/-- An item installed for a grid (R341). -/
def State.installItem (s : State) (id : Word) (r : LaunchRec) (i : CfgItem) : State :=
  match i.type with
  | 1 =>
    let ch : Fin 64 := Fin.ofNat 64 i.num
    let s1 := r.cores.foldl (fun s c => s.installChan c ch (chanOf i.body r.asid)) s
    s1.updGrid id (fun (g : Grid) => { g with chans := g.chans.filter (fun p => p.2 != ch) ++ r.cores.map (fun c => (c, ch)) })
  | 2 => s.installWindow (Fin.ofNat 32 i.num) (winRecOf (i.body.map (·.1)))
  | _ =>
    let b := binOf i.body r.asid
    let k := (clusterOf b.owner, (Fin.ofNat 16 i.num : Fin 16))
    let s1 := s.installBin k.1 k.2 b
    s1.updGrid id (fun (g : Grid) => { g with bins := g.bins.filter (· != k) ++ [k] })

/-- The first period of a partition that has not begun, and its start in ns from now (R349). -/
def firstPeriod (s : State) (r : LaunchRec) : Nat × Nat :=
  if tsLt s.now r.rt0 then (0, s.untilTs r.rt0)
  else
    let gone := (s.now - r.rt0).toNat
    let k := (gone + r.rper) / r.rper
    (k, s.untilTs (r.rt0 + BitVec.ofNat 32 (k * r.rper)))

/-- A partition made for a grid (R348). -/
def State.newPartition (s : State) (id : Word) (r : LaunchRec) : State :=
  match (List.finRange 4).find? (fun i => (rd s.parts i).isNone) with
  | none => s
  | some i =>
    let (k, t) := firstPeriod s r
    let p : Partition :=
      { grid := id, cores := r.cores, rper := r.rper, rbud := r.rbud, rt0 := r.rt0, rch := Fin.ofNat 64 r.rch, k := k, active := false }
    ({ s with parts := wr s.parts i (some p) } : State).post t (.partitionPeriodStart i)

/-- A record accepted: what the grid holds is taken, its items installed, the grid queued. Answers its identifier. -/
def State.acceptLaunch (s : State) (d : Fin 2) (bs : List RByte) (r : LaunchRec) (items : List CfgItem) : Word × State :=
  let u := rd s.launch d
  let id : Word := BitVec.ofNat 32 (u.count % 2 ^ 31 + (if d = 1 then 2 ^ 31 else 0))
  let w : Who := { core := (r.cores.head?).getD (Fin.ofNat 384 (192 * d.val)), asid := r.asid, eng := false }
  let (d1, s1) := s.codeDigest w r.start
  let (d2, s2) := s1.codeDigest w r.entry
  let g : Grid :=
    { id := id, ended := false, r := r, members := [], units := [], bars := [], placed := false, chans := [], bins := [],
      digests := Config.shake256 (bs.map (·.1)) ++ d1 ++ d2 }
  let s3 : State := { s2 with
    grids := s2.grids ++ [g]
    doms := vofFn (fun (k : Fin 8) => if fld r.sdoms k.val 1 = 1 then { Domain.reset with grid := some id } else rd s2.doms k)
    detWin := match r.detwin with
      | some w => if s2.detWin.any (fun x => x.2.1 == r.asid) then s2.detWin
        else s2.detWin ++ (List.finRange 400).map (fun n => (n, r.asid, w))
      | none => s2.detWin }
  let s4 := if r.resv then s3.newPartition id r else s3
  let s5 := items.foldl (fun s i => s.installItem id r i) s4
  let u5 := rd s5.launch d
  let u6 := { u5 with count := u5.count + 1, q := wr u5.q r.prio (rd u5.q r.prio ++ [(id, s5.dt)]) }
  (id, ({ s5 with launch := wr s5.launch d u6 } : State).post 500 (.launchHeadTake d))

/-- The result of a validation given to who asked for it (R200, R342). -/
def State.launchAnswer (s : State) (d : Fin 2) (q : LaunchReq) (v : Dbl) : State :=
  if q.host then { s with launch := wr s.launch d { rd s.launch d with lpstat := v } }
  else s.answerAmo q.core q.wid (fun (x : Strand) => { x with answer := some v })

/-- `LAUNCH_VALIDATION`: the oldest record at the die's launch unit is checked; accepted, its items are installed and it is
queued; an item that must wait, as for the array work of its bin's sheets, makes the launch wait (R340-R342). -/
def execLaunchValidation (d : Fin 2) (s : State) : Out :=
  match (rd s.launch d).reqs with
  | [] => .next s
  | q :: rest =>
    let done := fun (s : State) (v : Dbl) =>
      let s1 := ({ s with launch := wr s.launch d { rd s.launch d with reqs := rest } } : State).launchAnswer d q v
      Host.Outcome.next (if rest.isEmpty then s1 else s1.post 1000 (.launchValidation d))
    let fail := fun (s : State) (n : Nat) => done s (BitVec.ofNat 64 (2 ^ 63 + n))
    match s.launchRead q 0 128 with
    | .error s1 => fail s1 1
    | .ok (bs, s1) =>
      let r := launchOf bs
      let cfgn := ofBytes (((bs.drop 122).take 2).map (·.1))
      match (if 1024 < cfgn then .error s1 else s1.readItems q cfgn 128) with
      | .error s2 => fail s2 1
      | .ok (items, s2) =>
        match s2.launchCode d q bs r cfgn items with
        | some n => fail s2 n
        | none =>
          let flush := fun (s : State) => items.foldl (fun s i => s.flushItem r i) s
          if items.any ((flush s2).itemWaits r) then .next ((flush s).post 1000 (.launchValidation d))
          else
            let (id, s3) := s2.acceptLaunch d bs r items
            done s3 (id.setWidth 64)

/-- A request put to a die's launch unit. -/
def State.askLaunch (s : State) (d : Fin 2) (q : LaunchReq) : State :=
  let u := rd s.launch d
  let s1 : State := { s with launch := wr s.launch d { u with reqs := u.reqs ++ [q] } }
  if u.reqs.isEmpty then s1.post 1000 (.launchValidation d) else s1

/-- `launch`: waits until the launch unit of its die has answered (R200). -/
def execLaunch (g : Fin 8) (d a : Fin 64) (s : State) : Out := issue g 4 s fun s => do
  s.notSpec
  let (r, s) ← s.useC a
  s.checkAccess r [.ld, .ldcap] r.addr 128 64
  match s.me.ticket with
  | some _ =>
    match s.me.answer with
    | some v => (s.updMe (fun (x : Strand) => { x with ticket := none, answer := none })).putX d v
    | none => throw (.wait s)
  | none =>
    s.orderLoads
    s.orderStores
    match s.homeRead (s.whoOf s.cur.1 s.cur.2) (r.has .local) r.addr 128 with
    | .error (f, s1) => throw (.upcall f s1)
    | .ok (_, s1) =>
      let q : LaunchReq := { cap := r, host := false, sys := s.mySys, asid := s.me.asid, core := s.cur.1, wid := s.me.work.wid }
      throw (.wait ((s1.askLaunch (Fin.ofNat 2 (dieOf s.cur.1)) q).updMe (fun (x : Strand) => { x with ticket := some 0 })))

/-- `LAUNCH_PORT_WRITE`: a write of LPADDR; a write while an earlier record is validated waits its turn (R342). -/
def execLaunchPortWrite (d : Fin 2) (addr : Dbl) (s : State) : Out :=
  .next (s.askLaunch d { cap := .plain (addr.setWidth 128), host := true, sys := true, asid := 0, core := Fin.ofNat 384 (192 * d.val), wid := 0 })

/-! ### Placing (R342-R344) -/

/-- The entry of a member's record. -/
def memberEntry (g : Grid) (m : Member) : TqEntry :=
  let n := g.r.domains.length
  let r : ContRec :=
    { code := g.r.start, flags := g.r.recFlags (n - 1) (if n = 0 then 0 else m.team), stamp := 0
      a4 := .plain (BitVec.ofNat 128 m.i), a5 := .null }
  { entryOf r g.r.asid (some g.id) m.core with
    bound := some m.core, member := some m.i, team := if n = 0 then none else some m.team }

/-- The records of a team pushed: it becomes resident (R344). -/
def State.pushTeam (s : State) (g : Grid) (u t : Nat) : State :=
  let s1 := s.updGrid g.id (fun (g : Grid) => { g with units := g.units.zipIdx.map (fun p =>
    if p.2 = u then { p.1 with resident := some t, since := s.dt, started := p.1.started ++ [t], stopping := false } else p.1) })
  (g.members.filter (fun (m : Member) => m.team == t && !m.ended)).foldl (fun s m => s.push (clusterOf m.core) (memberEntry g m)) s1

/-- The cluster that an entry record goes to: of the lowest core; of the lowest cluster named, or the first of the die,
where the core set is empty. -/
def LaunchRec.entryCluster (r : LaunchRec) (id : Word) : ClusterId :=
  match r.cores with
  | c :: _ => clusterOf c
  | [] => match (List.finRange 24).find? (fun k => fld r.clu k.val 1 == 1) with
    | some k => k
    | none => Fin.ofNat 24 (if id.getLsbD 31 then 12 else 0)

/-- A grid placed: its entry record pushed once, its members' records pushed for every team that has a unit to itself
now (10 R237; R343, R344). -/
def State.placeGrid (s : State) (g : Grid) : State :=
  let r := g.r
  let units : List TeamUnit := r.unitCores.map (fun cs => { cores := cs, resident := none, since := 0, started := [], stopping := false })
  let g1 : Grid := { g with members := r.members, units := if r.start.tag then units else [], placed := true }
  let s1 := s.updGrid g.id (fun _ => g1)
  let s2 := if !r.entry.tag then s1
    else
      let e : ContRec := { code := r.entry, flags := r.recFlags 0 0, stamp := 0, a4 := .null, a5 := .null }
      s1.push (r.entryCluster g.id) (entryOf e r.asid (some g.id) ((r.cores.head?).getD 0))
  let s3 :=
    if g1.units.isEmpty then g1.members.foldl (fun s m => s.push (clusterOf m.core) (memberEntry g1 m)) s2
    else (List.range (min g1.units.length r.teams)).foldl (fun s u =>
      let s1 := s.pushTeam g1 u u
      if g1.units.length + u < r.teams then s1.post (1000 * r.slice) (.teamSliceExpiry g.id u) else s1) s2
  s3.gridCheck (some g.id)

/-- Whether the clusters of a record are all ready. -/
def State.gridReady (s : State) (id : Word) : Bool :=
  (s.grid id).all (fun g => (List.finRange 24).all (fun k => fld g.r.clu k.val 1 == 0 || s.house.ready.getLsbD k.val))

/-- The queue whose head is taken next: a head that has waited LAGE µs, the longest-waiting first; else the highest
priority. -/
def State.nextQueue (s : State) (d : Fin 2) : Option (Fin 4) :=
  let u := rd s.launch d
  let heads := (List.finRange 4).filterMap (fun p => match rd u.q p with
    | (id, t) :: _ => if s.gridReady id then some (p, t) else none
    | [] => none)
  let aged := heads.filter (fun h => decide (1000 * s.lage.toNat ≤ s.dt - h.2))
  let old := aged.foldl (fun (r : Option (Fin 4 × Nat)) h => match r with
    | some x => if h.2 < x.2 then some h else r
    | none => some h) none
  match old with
  | some h => some h.1
  | none => heads.foldl (fun (r : Option (Fin 4)) h => match r with
    | some p => if p.val < h.1.val then some h.1 else r
    | none => some h.1) none

/-- A launch queue without a grid's record: the head that follows it begins to wait as a head now (R342). -/
def withoutGrid (now : Nat) (id : Word) (l : List (Word × Nat)) : List (Word × Nat) :=
  match l with
  | [] => []
  | (j, t) :: r =>
    if j = id then match r.filter (fun p => p.1 != id) with
      | (k, _) :: r1 => (k, now) :: r1
      | [] => []
    else (j, t) :: r.filter (fun p => p.1 != id)

/-- What a grid's work has under way, discarded: engine operations, posted and parked accesses, validations, joins that its
ends have still to reach, and messages, whose numbers pass all the same (R352). -/
def State.discardFlight (s : State) (g : Word) (works : List (CoreId × Nat)) (entries : List Nat) : State :=
  let mine := fun (c : CoreId) (w : Nat) => works.contains (c, w)
  let mark := fun (m : Msg) => match m.sender, m.waiter with
    | .core c, some (.strand w) => if mine c w then { m with waiter := some .discarded } else m
    | _, some (.grid h) => if h == g then { m with waiter := some .discarded } else m
    | _, _ => m
  let s1 : State := { s with
    ops := s.ops.filterMap (fun (o : Op) =>
      if !(mine o.core o.wid || o.grid == some g) then some o
      else match o.job with
        | .msg m dest => some { o with job := .msg (mark m) dest }
        | _ => none)
    parked := s.parked.filter (fun (p : ParkedAmo) => !(mine p.core p.wid || p.grid == some g))
    launch := vmap (fun (u : LaunchUnit) => { u with reqs := u.reqs.filter (fun q => q.host || !mine q.core q.wid) }) s.launch
    bridges := vmap (fun (b : Bridge) => { b with sent := b.sent.map (fun p => (p.1, mark p.2)) }) s.bridges
    agenda := (s.agenda.filter (fun e => match e.2 with
      | .joinDecrement _ _ (some i) _ => !entries.contains i
      | _ => true)).map (fun e => match e with
        | (t, .messageArrival c m) => (t, .messageArrival c (mark m))
        | e => e) }
  (List.finRange 384).foldl (fun s c =>
    let x := s.core c
    let s2 := s.setCore c { x with
      wpath := x.wpath.filter (fun (p : Posted) => !mine c p.wid)
      reorder := x.reorder.map mark, refused := x.refused.map (fun (r : Refused) => { r with msg := mark r.msg }) }
    x.refused.foldl (fun s r => s.postOnce 1 (.refusalCallback c r.chan)) s2) s1

/-- Everything of a grid ended at once: queued records, running and saved strands, speculative tasks, leases, and what they
have under way (R352). -/
def State.killGrid (s : State) (g : Grid) : State :=
  let mine := fun (w : Work) => w.grid == some g.id
  let works : List (CoreId × Nat) := (List.finRange 384).flatMap (fun c =>
    let x := s.core c
    ((x.strands.toList.filter (fun (y : Strand) => decide (y.st ≠ .dormant) && mine y.work)).map (fun y => (c, y.work.wid))) ++
    ((x.saved.filter (fun (v : Saved) => mine v.strand.work)).map (fun v => (c, v.strand.work.wid))))
  let entries := s.clusters.toList.flatMap (fun (x : Cluster) => (x.tq.filter (fun (e : TqEntry) => e.grid == some g.id)).map (·.id))
  let s1 : State := { s with clusters := vmap (fun (x : Cluster) => { x with
    tq := x.tq.filter (fun (e : TqEntry) => e.grid != some g.id), tqWait := x.tqWait.filter (fun (e : TqEntry) => e.grid != some g.id) }) s.clusters }
  let s2 : State := { s1 with
    vers := s1.vers.filter (fun (v : VRec) => (rd s1.doms v.dom).grid != some g.id)
    launch := vmap (fun (u : LaunchUnit) => { u with q := vmap (withoutGrid s.dt g.id) u.q }) s1.launch }
  let s3 := (List.finRange 384).foldl (fun (s : State) (c : CoreId) =>
    let ks : List SlotId := (List.finRange 16).filter (fun k => decide ((s.strand c k).st ≠ .dormant) && mine (s.strand c k).work)
    let gone : List Saved := (s.core c).saved.filter (fun (v : Saved) => mine v.strand.work)
    if ks.isEmpty ∧ gone.isEmpty then s
    else
      let a := ks.foldl (fun s k => s.release c k) s
      let b := gone.foldl (fun s (v : Saved) => match v.strand.lease with | some l => s.dropLease (clusterOf c) l | none => s) a
      let e := gone.foldl (fun s (v : Saved) => match v.strand.msg with | some m => s.freeUnit c m.unit | none => s) b
      e.updCore c (fun (x : Core) => { x with saved := x.saved.filter (fun (v : Saved) => !mine v.strand.work) })) s2
  (((s3.discardFlight g.id works entries).endGrid g).postOnce 500 (.launchHeadTake 0)).postOnce 500 (.launchHeadTake 1)

/-- Launch records at the head of a die's queues that name a cluster out of service, dropped and reported (22 R392). -/
def State.dropHeads (s : State) (d : Fin 2) : Nat → State
  | 0 => s
  | n + 1 =>
    let bad := fun (id : Word) => (s.grid id).any (fun g => (List.finRange 24).any (fun k => fld g.r.clu k.val 1 == 1 && s.house.oos.getLsbD k.val))
    match (List.finRange 4).findSome? (fun p => match rd (rd s.launch d).q p with
      | (id, _) :: _ => if bad id then some id else none
      | [] => none) with
    | some id => match s.grid id with
      | some g => State.dropHeads ((s.killGrid g).report d id 0 0 6 0) d n
      | none => s
    | none => s

/-- `LAUNCH_HEAD_TAKE`: the launch unit takes a head and its grid is placed (R342, R344). -/
def execLaunchHeadTake (d : Fin 2) (s : State) : Out :=
  let s := s.dropHeads d 256
  match s.nextQueue d with
  | none => .next s
  | some p =>
    let u := rd s.launch d
    match rd u.q p with
    | [] => .next s
    | (id, _) :: rest =>
      let rest1 := match rest with | (j, _) :: l => (j, s.dt) :: l | [] => []
      let s1 : State := { s with launch := wr s.launch d { u with q := wr u.q p rest1 } }
      let s2 := match s1.grid id with | some g => s1.placeGrid g | none => s1
      .next (s2.post 500 (.launchHeadTake d))

/-! ### Rotation of teams (R345-R347) -/

/-- Whether every member of a team has ended. -/
def Grid.teamDead (g : Grid) (t : Nat) : Bool := g.members.all (fun m => m.team != t || m.ended)

/-- The next team of a unit after one, ascending and wrapping, that has not ended. -/
def Grid.nextTeam (g : Grid) (u t : Nat) : Option Nat :=
  let n := g.units.length
  let rounds := (g.r.teams + n - 1) / n
  ((List.range rounds).map (fun k => u + n * ((t / n + 1 + k) % rounds))).find? (fun x => decide (x < g.r.teams) && x != t && !g.teamDead x)

def State.updUnit (s : State) (id : Word) (u : Nat) (f : TeamUnit → TeamUnit) : State :=
  s.updGrid id (fun (g : Grid) => { g with units := g.units.zipIdx.map (fun p => if p.2 = u then f p.1 else p.1) })

/-- The slots that run members of a team. -/
def State.teamSlots (s : State) (g : Grid) (t : Nat) : List (CoreId × SlotId × Nat) :=
  (g.members.filter (fun (m : Member) => m.team == t)).flatMap (fun m =>
    ((List.finRange 16).filter (fun k =>
      let x := s.strand m.core k
      decide (x.st ≠ .dormant) && x.work.grid == some g.id && x.work.member == some m.i)).map (fun k => (m.core, k, m.i)))

/-- A team brought in: its records pushed the first time, its saved members restored later (R346). -/
def State.bringIn (s : State) (g : Grid) (u t : Nat) : State :=
  let s1 := if (g.units[u]?).any (fun x => x.started.contains t) then
      let s1 := s.updUnit g.id u (fun (x : TeamUnit) => { x with resident := some t, since := s.dt, stopping := false })
      (g.members.filter (fun (m : Member) => m.team == t)).foldl (fun s m =>
        (((s.core m.core).saved.filter (fun (v : Saved) => v.strand.work.grid == some g.id && v.strand.work.member == some m.i)).foldl
          (fun s v => s.postOnce 1 (.strandRestore m.core v.slot)) s).offer m.core) s1
    else s.pushTeam g u t
  s1.post (1000 * g.r.slice) (.teamSliceExpiry g.id u)

/-- `TEAM_SLICE_EXPIRY`: the resident team's slice has ended, or its last member has: it is cocooned once its strands can
be saved, and the next team is brought in; alone in its unit it stays (R345-R347). -/
def execTeamSliceExpiry (grid : Word) (u : Nat) (s : State) : Out :=
  match s.grid grid with
  | none => .next s
  | some g =>
    match g.units[u]? with
    | none => .next s
    | some x =>
      match x.resident with
      | none => .next s
      | some t =>
        let dead := g.teamDead t
        if !dead ∧ !x.stopping ∧ s.dt < x.since + 1000 * g.r.slice then .next s
        else match g.nextTeam u t with
          | none => .next s
          | some n =>
            let slots := s.teamSlots g t
            if dead ∨ slots.isEmpty then .next (s.bringIn g u n)
            else if s.house.frozen ∨ slots.any (fun p => !s.canSave p.1 p.2.1) then
              .next ((s.updUnit grid u (fun (x : TeamUnit) => { x with stopping := true })).post 100 (.teamSliceExpiry grid u))
            else
              let s1 := slots.foldl (fun s p =>
                s.saveStrand p.1 p.2.1 (g.r.cocoon.setAddr (g.r.cocoon.addr + BitVec.ofNat 64 (imageSize * p.2.2))) true) s
              match s1.grid grid with
              | some g1 => .next (s1.bringIn g1 u n)
              | none => .next s1

/-! ### Reserved partitions (R348-R350) -/

def State.updPart (s : State) (p : Fin 4) (f : Partition → Partition) : State :=
  { s with parts := wr s.parts p ((rd s.parts p).map f) }

/-- Nanoseconds from now to a timestamp, 1 where it has passed. -/
def State.untilMark (s : State) (t : Word) : Nat := if tsLt s.now t then s.untilTs t else 1

/-- `PARTITION_PERIOD_START`: the partition's cores are pre-empted of other grids' work, each receives its tick, and the
next period and the budget are set (R349). -/
def execPartitionPeriodStart (p : Fin 4) (s : State) : Out :=
  match rd s.parts p with
  | none => .next s
  | some x =>
    let t := x.rt0 + BitVec.ofNat 32 (x.k * x.rper)
    let a := mkAep x.rch.val 3 (0x10C0 + p.val) 0 t (BitVec.ofNat 32 x.k) 0
    let s1 := s.updPart p (fun (x : Partition) => { x with k := x.k + 1, active := true })
    let s2 := x.cores.foldl (fun s c =>
      ((s.updCore c (fun (y : Core) => { y with preempt := true })).postOnce 10 (.preemptionSave c)).sendPacket c (.slotTimer p) a []) s1
    .next ((s2.post (s.untilMark (t + 10)) (.partitionBudgetStart p)).post (s.untilMark (t + BitVec.ofNat 32 x.rper)) (.partitionPeriodStart p))

/-- `PARTITION_BUDGET_START`: the budget runs from here; it ends RBUD µs later (R349). -/
def execPartitionBudgetStart (p : Fin 4) (s : State) : Out :=
  match rd s.parts p with
  | none => .next s
  | some x =>
    let t := x.rt0 + BitVec.ofNat 32 ((x.k - 1) * x.rper)
    .next (s.post (s.untilMark (t + 10 + BitVec.ofNat 32 x.rbud)) (.partitionBudgetEnd p))

/-- `PARTITION_BUDGET_END`: saved and waiting work of other grids resumes (R349), unless the next period has begun already. -/
def execPartitionBudgetEnd (p : Fin 4) (s : State) : Out :=
  match rd s.parts p with
  | none => .next s
  | some x =>
    if tsLt s.now (x.rt0 + BitVec.ofNat 32 ((x.k - 1) * x.rper) + 10 + BitVec.ofNat 32 x.rbud) then .next s
    else
    let s1 := s.updPart p (fun (x : Partition) => { x with active := false })
    .next (x.cores.foldl (fun s c =>
      ((s.core c).saved.foldl (fun s (v : Saved) => s.postOnce 1 (.strandRestore c v.slot)) s).offer c) s1)

/-! ### Hardware errors, fatal faults, reports (R351-R353) -/

/-- `CORE_HARDWARE_ERROR`: each strand of the core that runs work is run again, discarded, or ended, and reported. -/
def execCoreHardwareError (c : CoreId) (s : State) : Out :=
  .next ((List.finRange 16).foldl (fun s k => s.hwEnd c k) s)

/-- Whether a grid has a core, or a record in a queue, on a die. -/
def State.gridOn (s : State) (g : Grid) (d : Fin 2) : Bool :=
  g.r.cores.any (fun c => dieOf c == d.val) ||
  (List.finRange 24).any (fun q => q.val / 12 == d.val &&
    ((s.cluster q).tq.any (fun (e : TqEntry) => e.grid == some g.id) || (s.cluster q).tqWait.any (fun (e : TqEntry) => e.grid == some g.id)))

/-- Every grid with a core or a placed record on a die ended, with one report each (R352). -/
def State.dieFault (s : State) (d : Fin 2) : State :=
  (s.grids.filter (fun g => !g.ended && s.gridOn g d)).foldl (fun s g => (s.killGrid g).report d g.id 0 0 5 0) s

/-- `DIE_FATAL_FAULT` (R352). -/
def execDieFatalFault (d : Fin 2) (s : State) : Out := .next (s.dieFault d)

/-- The oldest report taken out of a die's queue, and the flag of lost entries with it (R353). -/
def State.popGerr (s : State) (d : Fin 2) : State :=
  match rd s.gerr d with
  | _ :: l => { s with gerr := wr s.gerr d l, gerrOvf := wr s.gerrOvf d false }
  | [] => s

/-- `GERR_POP`: a read has taken the oldest report of a die (R353). -/
def execGerrPop (d : Fin 2) (s : State) : Out := .next (s.popGerr d)

end Sys2Proof.Machine
end

