-- ==== Sys2Proof/Machine/Tlbi.lean ====
section
/-! DEFINITION. Invalidation of translations and its acknowledgement; walks that fill a TLB (07 R206; 20 R362, R363;
21 R370-R375). -/

namespace Sys2Proof.Machine

/-- What an invalidation covers: a range of bytes, its ASID or all, and pages with G set or not. -/
structure Inval where
  every : Bool
  lo : Nat
  hi : Nat
  asid : BitVec 16
  all : Bool
  glob : Bool
  deriving DecidableEq, Repr

/-- An invalidation's range, widened to 4 KiB pages; length 0 means every address (R206). -/
def mkInval (va len : Dbl) (asid : BitVec 16) (all glob : Bool) : Inval :=
  { every := len == 0, lo := alignDown va.toNat 4096, hi := alignUp (va.toNat + len.toNat) 4096, asid := asid, all := all, glob := glob }

/-- Whether `n` bytes at `a` meet the range. -/
def Inval.meets (i : Inval) (a n : Nat) : Bool := i.every || (decide (a < i.hi) && decide (i.lo < a + n))

/-- Whether the invalidation is about an ASID. -/
def Inval.about (i : Inval) (asid : BitVec 16) : Bool := i.all || i.asid == asid

/-- Whether a TLB entry goes: whole, where any of it meets the range (R375). -/
def Inval.drops (i : Inval) (e : TlbEntry) : Bool :=
  i.meets e.va.toNat e.size && (if e.global then i.glob else i.about e.asid)

/-- A network interface's TLB entries and its die's L0 lines of the range dropped (R375). -/
def State.invalidateAt (s : State) (ni : Fin 400) (i : Inval) : State :=
  let s1 := s.setTlb ni ((s.tlb ni).filter (fun e => !i.drops e))
  { s1 with cores := vofFn (fun c =>
      let x := s1.core c
      if dieOf c = dieOfNi ni ∧ !x.l0.isEmpty then
        { x with l0 := x.l0.filter (fun e => !(i.about e.asid && i.meets (64 * e.line.toNat) 64)) }
      else x) }

/-- Whether a posted access is one of the range. -/
def Inval.posted (i : Inval) (p : Posted) : Bool :=
  !p.cap.has .local && i.about p.asid && (match p.kind with
    | .store parts _ => parts.any (fun q => i.meets q.1.toNat q.2.length)
    | .amo _ _ _ => i.meets p.va.toNat 8
    | .xadd _ _ => false)

/-- The ranges that an operation has translated and not done with: the piece that a copy or move has read and not wholly
written, and the units of a split block still to be written. -/
def Op.sources (o : Op) : List (Dbl × Nat) :=
  match o.job, o.cur, o.buf with
  | _, _, [] => []
  | .copy g src _ _, some p, _ =>
    if src.has .local then []
    else [(g.srcAt src p.row p.off (((o.idx.find? (fun x => x.1 == p.row)).map (·.2)).getD 0), p.len)]
  | .move src _ _ _, some p, _ => if src.has .local then [] else [(src.addr + BitVec.ofNat 64 p.off, p.len)]
  | .quire _, _, us => (us.filter (fun u => !u.1.has .local)).map (fun u => (u.2.1, u.2.2.length))
  | _, _, _ => []

/-- No access of the range that used an old translation is under way (R363, R375): no store of it waits in a write path, no
atomic of it is parked at its home, and every piece read through it, and every block translated through it, has been written. -/
def State.quiet (s : State) (i : Inval) : Bool :=
  s.cores.toList.all (fun (x : Core) => !x.wpath.any i.posted) && !s.parked.any (fun p => i.posted p.p) &&
  s.ops.all (fun (o : Op) => !(i.about o.asid && o.sources.any (fun p => i.meets p.1.toNat p.2)))

/-- No spill that has stored its PTE has still to read its page within the range: accesses by paging engines count
(R375). -/
def State.spillsDone (s : State) (i : Inval) : Bool :=
  s.clusters.toList.all (fun (x : Cluster) => !x.pgq.any (fun p => p.pte.isSome && i.about p.asid && i.meets p.va.toNat 4096))

/-- `TLBI_ACK`: an interface has dropped what the request names, and acknowledges once nothing of the range is under way;
the last acknowledgement completes the operation (R206, R363). -/
def execTlbiAck (id : Nat) (ni : Fin 400) (s : State) : Out :=
  match s.op id with
  | none => .next s
  | some o =>
    match o.job with
    | .tlbi va len asid all glob =>
      let i := mkInval va len asid all glob
      let s1 := s.invalidateAt ni i
      if o.idx.contains (ni.val, 0) then .next s1
      else if !s1.quiet i ∨ !s1.spillsDone i then .next (s1.post 50 (.tlbiAck id ni))
      else
        let s2 := s1.updOp id (fun (p : Op) => { p with idx := (ni.val, 0) :: p.idx })
        .next (if o.idx.length + 1 = 400 then s2.endOp id else s2)
    | _ => .next s

/-- `tlbi` (R206). -/
def execTlbi (g k : Fin 8) (a b : Fin 64) (s : State) : Out := issue g 4 s fun s => do
  s.noAwait
  let (x, s) ← s.useC a
  let (y, s) ← s.useC b
  need s.mySys .capp
  s.notSpec
  need (qf y.val 18 110 == 0) .ill
  s.engineFree
  let r := s.newOp (some k) (.tlbi x.addr (BitVec.ofNat 64 (qf x.val 64 64)) (BitVec.ofNat 16 (qf y.val 0 16))
    (y.val.getLsbD 16) (y.val.getLsbD 17)) []
  pure ((List.finRange 400).foldl (fun s ni => s.post 100 (.tlbiAck r.1 ni)) r.2)

/-- `TRANSLATION_WALK`: a walk completes at the interface of its address; it installs its leaf, or leaves nothing
(R362, R373). -/
def execTranslationWalk (ni : Fin 400) (asid : BitVec 16) (va : Dbl) (s : State) : Out :=
  if niOfVa va ≠ some ni then .next s
  else match s.lookup ni asid va .read with
    | (.ok _, s1) => .next s1
    | (.error _, _) => .next s

end Sys2Proof.Machine
end

