-- ==== Sys2Proof/Machine/Paging.lean ====
section
/-! DEFINITION. The paging engines: commands, fills, spills, growth (21_translation_faults_preemption.md R376-R379). -/

namespace Sys2Proof.Machine

/-! ### Commands (R376) -/

/-- Bytes of a compressed frame's unit. -/
def pgUnit : Nat := 512

/-- A command from the 32 bytes of its record. -/
def pgOf (bs : List Byte) (core : CoreId) : PgCmd :=
  let num := fun o n => ofBytes ((bs.drop o).take n)
  { va := BitVec.ofNat 64 (num 0 8), asid := BitVec.ofNat 16 (num 8 2), op := num 10 1, units := num 11 1, reply := num 12 2
    tag := num 14 2, pa := BitVec.ofNat 64 (num 16 8), off := num 24 4, keep := fld (num 28 1) 0 1 = 1
    bad := fld (num 28 1) 1 7 ≠ 0 ∨ num 29 3 ≠ 0, core := core, pte := none }

/-- Whether `n` bytes at a physical address lie in the area for compressed frames of a die (R379). -/
def State.inArea (s : State) (die pa n : Nat) : Bool :=
  let a := rd s.pgarea (Fin.ofNat 2 die)
  a.getLsbD 0 && decide (2 ^ 21 * qf a 21 27 ≤ pa) && decide (pa + n ≤ 2 ^ 21 * (qf a 85 27 + 1)) && backed pa n &&
  decide (pa / 2 ^ 47 = die)

/-- Whether a command uses its UNITS: a spill into a new frame, or a growth. -/
def PgCmd.sized (p : PgCmd) : Bool := p.op == 2 || (p.op == 1 && !p.keep)

/-- Whether a command's record is well formed for the engine of a cluster, its frame in the area. -/
def State.pgOk (s : State) (q : ClusterId) (p : PgCmd) : Bool :=
  !p.bad && decide (p.op ≤ 2) && df p.va 56 8 == 1 && p.va.toNat % 4096 == 0 &&
  ((coreOfTile (df p.va 47 9)).any (fun c => clusterOf c == q)) && decide (p.reply < 384) &&
  p.pa.toNat % pgUnit == 0 && (!p.sized || (decide (1 ≤ p.units) && decide (p.units ≤ 9))) &&
  (p.op != 0 || (p.off % 4096 == 0 && decide (p.off < sliceTop))) &&
  s.inArea (q.val / 12) p.pa.toNat (if p.sized then pgUnit * p.units else pgUnit)

/-! ### Coding of a page (R377) -/

/-- A page's code: whether it is stored raw, and its coded bytes. -/
def codePage (bs : List Byte) : Bool × List Byte :=
  let ws : List Word := (List.range 1024).map (fun i => BitVec.ofNat 32 (ofBytes ((bs.drop (4 * i)).take 4)))
  let bits := (codeWords 0 (List.replicate 8 0) ws).1
  let n := (bits.length + 7) / 8
  if 4056 < n then (true, bs) else (false, ((bitWords ((n + 3) / 4) bits).flatMap (fun w => toBytes 4 w.toNat)).take n)

/-- The page that coded bytes hold; words that the code does not give are filled from `f`. -/
def decodePage (raw : Bool) (bs : List Byte) (f : VReg) : List Byte :=
  if raw then bs
  else
    let pad := bs ++ List.replicate ((4 - bs.length % 4) % 4) (0 : Byte)
    let ws : List Word := (List.range (pad.length / 4)).map (fun i => BitVec.ofNat 32 (ofBytes ((pad.drop (4 * i)).take 4)))
    let out := (decompress 0 true 1024 (List.replicate 8 0) ws).1.flatMap (fun w => toBytes 4 w.toNat)
    out ++ freeBytes f (4096 - out.length)

/-- Units that a coded page takes. -/
def pageUnits (raw : Bool) (n : Nat) : Nat := if raw then 9 else (40 + n + pgUnit - 1) / pgUnit

/-- A compressed frame's bytes: header, tags, code. -/
def frameBytes (units : Nat) (raw : Bool) (code : List Byte) (tags : List Bool) : List Byte :=
  [BitVec.ofNat 8 units, if raw then 1 else 0] ++ toBytes 2 code.length ++ toBytes 4 0 ++
  toBytes 32 (ofBitList tags) ++ code

/-! ### Effects -/

/-- The tags of a page's 256 granules. -/
def State.pageTags (s : State) (phys : Nat) : List Bool := (List.range 256).map (fun i => tagAt s.tags (phys + 16 * i))

/-- A page's bytes and tags put into an SRAM frame. -/
def State.putPage (s : State) (phys : Nat) (bs : List Byte) (tags : List Bool) : State :=
  let s1 := s.physWrite phys bs
  { s1 with tags := tags.zipIdx.foldl (fun t p => if p.1 then tagSet t (phys + 16 * p.2) true else t) s1.tags }

/-- A PTE replaced in one store at its home. -/
def State.putPte (s : State) (at' x : Nat) : State :=
  ({ s with mem := memWrite s.mem at' (toBytes 8 x) } : State).dropLine (at' / 64)

/-- A PTE's bits but V, the kind and the frame. -/
def pteKeep (p : Nat) : Nat := fld p 1 10 * 2 + fld p 52 12 * 2 ^ 52

/-- A PTE of kind 10 for a frame, V clear; bit 12 is the frame's (log entry 34). -/
def pteSpilled (p pa : Nat) : Nat := pteKeep p + 2 ^ 12 * fld pa 9 39

/-- A PTE of kind 01 for a slice offset, A and D clear. -/
def pteFilled (p off : Nat) : Nat := pteKeep p - 2 ^ 9 * fld p 9 2 + 1 + 2 ^ 11 + 2 ^ 12 * (off / 4096)

/-- The physical address of a spilled leaf's frame. -/
def pteFrame (p : Nat) : Nat := 2 ^ 9 * fld p 12 39

/-- A command ended: taken off its queue, its reply sent on channel 2, the next one looked at (R376). -/
def State.pgEnd (s : State) (q : ClusterId) (p : PgCmd) (status len : Nat) : State :=
  let s1 := s.updCluster q (fun (x : Cluster) => { x with pgq := x.pgq.erase p })
  let s2 := if p.reply < 384 then
      s1.sendPacket (Fin.ofNat 384 p.reply) (.paging q)
        (mkAep 2 2 (0x8000 + p.core.val) 0 s1.now (BitVec.ofNat 32 (p.tag + 2 ^ 16 * status)) (BitVec.ofNat 32 len)) []
    else s1
  s2

/-- A command rejected: the compressed length of its reply is a free value. -/
def State.pgFail (s : State) (q : ClusterId) (p : PgCmd) (status : Nat) : State :=
  let (f, s1) := s.free
  s1.pgEnd q p status (fld f.toNat 0 32)

/-- The core of the tile that a page lies in. -/
def PgCmd.tile (p : PgCmd) : CoreId := (coreOfTile (df p.va 47 9)).getD 0

/-- Whether the page stands in the overflow buffer. -/
def Cluster.overflowed (x : Cluster) (p : PgCmd) : Bool := x.pgOvf.any (fun o => o.va == p.va && o.asid == p.asid)

/-- A growth event, with the interrupt of the application cores (R378). -/
def State.growEvent (s : State) (q : ClusterId) (p : PgCmd) (units : Nat) : State :=
  let e := BitVec.ofNat 128 (p.va.toNat + 2 ^ 64 * p.asid.toNat + 2 ^ 80 * units + 2 ^ 84 * q.val + 2 ^ 127)
  ({ s with pggrow := s.pggrow ++ [e], host := { s.host with interrupts := s.host.interrupts + 1 } } : State).notice (q.val / 12) 6 0

/-- Status of a failed walk. -/
def WalkErr.status : WalkErr → Nat
  | .absent => 1 | .breach | .bad | .unready => 3

/-- Who makes a paging engine's accesses for a command. -/
def PgCmd.who (p : PgCmd) : Who := { core := p.core, asid := p.asid, eng := true }

/-- A command that met a failed walk: logged as any walk's failure is, at the page's own interface (R374, R387). -/
def State.pgWalk (s : State) (q : ClusterId) (p : PgCmd) (m : Mode) (e : WalkErr) : State :=
  (s.logMet (niOfCore p.tile) p.who (e.fault m p.va)).pgFail q p e.status

/-- A command that met uncorrectable data, or whose frame's home is not ready, at interface `ni`: logged (R386, R387). -/
def State.pgBad (s : State) (q : ClusterId) (p : PgCmd) (ni : Fin 400) (e : WalkErr) : State :=
  (s.logMet ni p.who (e.fault .read p.va)).pgFail q p 3

/-- The interface of the home of an LPDDR-6 byte. -/
def niOfPa (pa : Nat) : Fin 400 := niOfHome (homeOfGlobal pa)

/-- A fill (R378). -/
def State.pgFill (s : State) (q : ClusterId) (p : PgCmd) : State :=
  match s.walkLeaf p.asid p.va with
  | .error e => s.pgWalk q p .read e
  | .ok l =>
    let pa := pteFrame l.pte
    if !l.spilled p.va ∨ (s.cluster q).overflowed p then s.pgFail q p 1
    else if !s.inArea (q.val / 12) pa pgUnit then s.pgFail q p 2
    else if !s.homeReady pa then s.pgBad q p (niOfPa pa) .unready
    else if poisoned s.poison pa 40 then s.pgBad q p (niOfPa pa) .bad
    else
      let h := memRead s.mem pa 40
      let n := ofBytes ((h.drop 2).take 2)
      let raw := fld (ofBytes h) 8 1 = 1
      if poisoned s.poison (pa + 40) n then s.pgBad q p (niOfPa pa) .bad
      else
        let (f, s1) := s.free
        let bs := (decodePage raw (memRead s1.mem (pa + 40) n) f ++ freeBytes f 4096).take 4096
        let tags := (List.range 256).map (fun i => fld (ofBytes (h.drop 8)) i 1 == 1)
        ((s1.putPage (slicePhys p.tile p.off) bs tags).putPte l.at' (pteFilled l.pte p.off)).pgEnd q p 0 n

/-- The page of a spill that has begun, read and stored once nothing of it is under way. -/
def State.pgStore (s : State) (q : ClusterId) (p : PgCmd) (at' off : Nat) : State :=
  let i := mkInval p.va 4096 p.asid false false
  if !s.quiet i then s.post 50 (.pagingSpill q)
  else
    let phys := slicePhys p.tile off
    match s.tableWord at' with
    | .error e => s.pgBad q p (niOfPa at') e
    | .ok pte =>
    if poisoned s.poison phys 4096 then s.pgBad q p (niOfCore p.tile) .bad
    else if !s.homeReady p.pa.toNat then s.pgBad q p (niOfPa p.pa.toNat) .unready
    else if p.keep && poisoned s.poison p.pa.toNat 8 then s.pgBad q p (niOfPa p.pa.toNat) .bad
    else if p.keep ∧ fld pte 10 1 = 0 then s.pgEnd q p 0 (memNat s.mem (p.pa.toNat + 2) 2)
    else
      let bs := memRead s.mem phys 4096
      let tags := s.pageTags phys
      let (raw, code) := codePage bs
      let units := if p.keep then (memGet s.mem p.pa.toNat).toNat else p.units
      let need := pageUnits raw code.length
      if need ≤ units then (s.physWrite p.pa.toNat (frameBytes units raw code tags)).pgEnd q p 0 code.length
      else
        let s1 := s.updCluster q (fun (x : Cluster) =>
          { x with pgOvf := x.pgOvf ++ [{ va := p.va, asid := p.asid, bytes := bs, tags := tags }] })
        (s1.growEvent q p need).pgEnd q p 4 code.length

/-- A spill (R378): the PTE stored as kind 10 and the page invalidated at every interface, then the page stored. -/
def State.pgSpill (s : State) (q : ClusterId) (p : PgCmd) : State :=
  match p.pte with
  | some x => s.pgStore q p x.1 x.2
  | none =>
    match s.walkLeaf p.asid p.va with
    | .error e => s.pgWalk q p .write e
    | .ok l =>
      if l.level ≠ 0 ∨ pteKind (df p.va 56 8 == 1) l.pte ≠ 1 ∨ fld l.pte 7 1 = 1 ∨ fld l.pte 0 1 = 0 then s.pgFail q p 1
      else match s.leafFrame p.va l with
        | none => s.pgFail q p 3
        | some f =>
          let off := f % 2 ^ 21
          let i := mkInval p.va 4096 p.asid false false
          let s1 := (s.putPte l.at' (pteSpilled l.pte p.pa.toNat)).invalidateAt (niOfCore p.tile) i
          let p1 : PgCmd := { p with pte := some (l.at', off) }
          let s2 := s1.updCluster q (fun (x : Cluster) => { x with pgq := x.pgq.map (fun r => if r = p then p1 else r) })
          s2.pgStore q p1 l.at' off

/-- A growth (R378): a page of the overflow buffer written to a new frame that its PTE then names. -/
def State.pgGrow (s : State) (q : ClusterId) (p : PgCmd) : State :=
  match (s.cluster q).pgOvf.find? (fun o => o.va == p.va && o.asid == p.asid) with
  | none => s.pgFail q p 1
  | some o =>
    match s.walkLeaf p.asid p.va with
    | .error e => s.pgWalk q p .write e
    | .ok l =>
      if !s.homeReady p.pa.toNat then s.pgBad q p (niOfPa p.pa.toNat) .unready
      else if !l.spilled p.va then s.pgFail q p 1
      else
        let (raw, code) := codePage o.bytes
        let need := pageUnits raw code.length
        if p.units < need then (s.growEvent q p need).pgEnd q p 4 code.length
        else
          let s1 := s.physWrite p.pa.toNat (frameBytes p.units raw code o.tags)
          let s2 := (s1.putPte l.at' (pteSpilled l.pte p.pa.toNat)).updCluster q (fun (x : Cluster) => { x with pgOvf := x.pgOvf.erase o })
          s2.pgEnd q p 0 code.length

/-! ### Service (R376, R378) -/

/-- The command served next: a spill waits while the overflow buffer is full, and others are served around it, the
commands of one page in order. -/
def pgNext (full : Bool) : List (Dbl × BitVec 16) → List PgCmd → Option PgCmd
  | _, [] => none
  | held, p :: ps =>
    let key := (p.va, p.asid)
    if (full ∧ p.op = 1 ∧ p.pte.isNone) ∨ held.contains key then pgNext full (key :: held) ps else some p

/-- The event that serves a command. -/
def PgCmd.event (p : PgCmd) (q : ClusterId) : Instr :=
  match p.op with
  | 0 => .pagingFill q
  | 2 => .pagingGrow q
  | _ => .pagingSpill q

/-- The next command of an engine put on the agenda. -/
def State.pokePaging (s : State) (q : ClusterId) : State :=
  let x := s.cluster q
  match pgNext (decide (8 ≤ x.pgOvf.length)) [] x.pgq with
  | some p => s.postOnce 100 (p.event q)
  | none => s

/-- The command served next, if it is one that `e` serves. -/
def State.pgServe (s : State) (q : ClusterId) (e : Instr) (f : State → PgCmd → State) : State :=
  let x := s.cluster q
  if s.house.frozen then s.held e
  else match pgNext (decide (8 ≤ x.pgOvf.length)) [] x.pgq with
    | none => s
    | some p =>
      if p.event q ≠ e then s.pokePaging q
      else (if s.pgOk q p then f s p else s.pgFail q p 2).pokePaging q

/-- `PAGING_FILL` (R378). -/
def execPagingFill (q : ClusterId) (s : State) : Out :=
  .next (s.pgServe q (.pagingFill q) (fun s p => s.pgFill q p))

/-- `PAGING_SPILL` (R378). -/
def execPagingSpill (q : ClusterId) (s : State) : Out :=
  .next (s.pgServe q (.pagingSpill q) (fun s p => s.pgSpill q p))

/-- `PAGING_GROW` (R378). -/
def execPagingGrow (q : ClusterId) (s : State) : Out :=
  .next (s.pgServe q (.pagingGrow q) (fun s p => s.pgGrow q p))

/-- The growth events of a die. -/
def State.growOf (s : State) (d : Fin 2) : List Quad := s.pggrow.filter (fun e => qf e 84 5 / 12 == d.val)

/-- The oldest growth event of a die taken out. -/
def State.popGrow (s : State) (d : Fin 2) : State :=
  match s.growOf d with
  | e :: _ => { s with pggrow := s.pggrow.erase e }
  | [] => s

/-- `PGGROW_POP`: a read has taken the oldest growth event of a die (R378). -/
def execPggrowPop (d : Fin 2) (s : State) : Out := .next (s.popGrow d)

/-- `syswr` of PGCMD: the record queued at the issuing core's cluster; a full queue waits (R376). -/
def State.pgQueue (s : State) (r : CVal) : Except Stop State := do
  s.checkAccess r [.ld] r.addr 32 32
  let q := clusterOf s.cur.1
  if 16 ≤ (s.cluster q).pgq.length then throw (.wait s)
  let (bs, s) ← s.load s.cur.1 s.cur.2 s.nextId (r.has .local) r.addr 32
  let p := pgOf (bs.map (fun (x : RByte) => x.1)) s.cur.1
  pure ((s.updCluster q (fun (x : Cluster) => { x with pgq := x.pgq ++ [p] })).pokePaging q)

end Sys2Proof.Machine
end

