-- ==== Sys2Proof/Machine/System.lean ====
section
/-! DEFINITION. System registers, and the instructions of the system majors (07 R203-R207; the registers of every
chapter; 21 R388-R390). -/

namespace Sys2Proof.Machine

/-! ### Halt and quiesce (21 R388) -/

/-- Whether a core is halted for the debugger. -/
def Core.held (x : Core) : Bool := x.dbgHalt || x.dbgQuiesce

/-- Every slot of a core halted. -/
def State.haltCore (s : State) (c : CoreId) : State :=
  s.updCore c (fun (x : Core) => { x with strands := vmap (fun (y : Strand) =>
    if y.st = .halted then y else { y with halt := some y.st, st := .halted }) x.strands })

/-- A core's slots resumed, unless it is still held. -/
def State.resumeCore (s : State) (c : CoreId) : State :=
  if (s.core c).held then s
  else (s.updCore c (fun (x : Core) => { x with strands := vmap (fun (y : Strand) =>
    if y.st = .halted then { y with st := y.halt.getD .dormant, halt := none } else y) x.strands })).offer c

/-- QUIESCE written: 1 halts the core until it is written 0 or a debugger's release (log entry 30). -/
def State.setQuiesce (s : State) (c : CoreId) (b : Bool) : State :=
  if b then
    ((s.updCore c (fun (x : Core) => { x with dbgQuiesce := true, quiesced := x.quiesced && x.dbgQuiesce })).haltCore c).postOnce 10
      (.quiesceComplete c)
  else (s.updCore c (fun (x : Core) => { x with dbgQuiesce := false, quiesced := false })).resumeCore c

/-- `QUIESCE_REQUEST` (R388). -/
def execQuiesceRequest (c : CoreId) (s : State) : Out := .next (s.setQuiesce c true)

/-- `QUIESCE_COMPLETE`: QUIESCED is set once every engine operation of the core has completed or been handed back, and
every posted access, one parked at its home among them, has been performed (R388). -/
def execQuiesceComplete (c : CoreId) (s : State) : Out :=
  let x := s.core c
  if !x.dbgQuiesce ∨ x.quiesced then .next s
  else if x.wpath.isEmpty ∧ !s.parked.any (fun p => p.core == c && !p.d) ∧ s.ops.all (fun (o : Op) => o.core != c || o.handed.isSome) then
    .next (s.updCore c (fun (x : Core) => { x with quiesced := true }))
  else .next (s.post 100 (.quiesceComplete c))

/-- `DEBUG_HALT` (R388). -/
def execDebugHalt (c : CoreId) (s : State) : Out :=
  .next ((s.updCore c (fun (x : Core) => { x with dbgHalt := true })).haltCore c)

/-- `DEBUG_RELEASE` (R388). -/
def execDebugRelease (c : CoreId) (s : State) : Out :=
  .next ((s.updCore c (fun (x : Core) => { x with dbgHalt := false, dbgQuiesce := false, quiesced := false })).resumeCore c)

/-! ### Numbers (R203) -/

/-- Registers of a strand. -/
def isStrandReg (n : Nat) : Bool :=
  decide (n ≤ 2) || (decide (0x8 ≤ n) && decide (n ≤ 0xC)) || (decide (0x10 ≤ n) && decide (n ≤ 0x14)) ||
  (decide (0x18 ≤ n) && decide (n ≤ 0x1A))

/-- Registers of a core. -/
def isCoreReg (n : Nat) : Bool :=
  (decide (0x100 ≤ n) && decide (n ≤ 0x10A)) || n == 0x110 || (decide (0x180 ≤ n) && decide (n ≤ 0x1BF)) || n == 0x1E8 ||
  (decide (0x200 ≤ n) && decide (n ≤ 0x20F)) || (decide (0x380 ≤ n) && decide (n ≤ 0x388))

/-- Registers of the package. -/
def isPackageReg (n : Nat) : Bool :=
  n == 0x111 || (decide (0x140 ≤ n) && decide (n ≤ 0x17F)) || (decide (0x1C0 ≤ n) && decide (n ≤ 0x1E7)) ||
  (decide (0x1EA ≤ n) && decide (n ≤ 0x1EC)) || n == 0x1F2 || n == 0x1F3 || (decide (0x300 ≤ n) && decide (n ≤ 0x37F)) ||
  (decide (0x390 ≤ n) && decide (n ≤ 0x3FF))

/-- Registers that have no RW, W1C or W1S field. -/
def isReadOnly (n : Nat) : Bool :=
  decide (n ≤ 2) || n == 0x102 || n == 0x104 || n == 0x10A || n == 0x111 || (decide (0x140 ≤ n) && decide (n ≤ 0x15F)) ||
  n == 0x165 || (decide (0x168 ≤ n) && decide (n ≤ 0x16C)) || n == 0x16E || n == 0x16F ||
  (decide (0x178 ≤ n) && decide (n ≤ 0x1D7)) || (decide (0x1E0 ≤ n) && decide (n ≤ 0x1E7)) || n == 0x1EA || n == 0x1EB ||
  n == 0x1F2 || n == 0x1F3 || n == 0x388 || (decide (0x390 ≤ n) && decide (n ≤ 0x39F))

/-! ### Reads -/

/-- A 64-bit or 128-bit register's value as a c register takes it. -/
def regOf (x : Nat) : CVal := .plain (BitVec.ofNat 128 x)

/-- A strand register. -/
def State.strandReg (s : State) (c : CoreId) (k : SlotId) (n : Nat) : CVal :=
  let x := s.strand c k
  match n with
  | 0x000 => regOf (c.val + 2 ^ 16 * k.val + 2 ^ 32 * (clusterOf c).val)
  | 0x001 => regOf (s.dt % 2 ^ 64)
  | 0x002 => regOf x.asid.toNat
  | 0x008 => x.tvec
  | 0x009 => x.epc
  | 0x00A => regOf x.tcause.toNat
  | 0x00B => regOf x.taddr.toNat
  | 0x00C => x.tscr
  | 0x010 => regOf x.fflags.toNat
  | 0x011 => regOf x.srgen.toNat
  | 0x012 => regOf x.cvrm.toNat
  | 0x013 => regOf x.novd.toNat
  | 0x014 => regOf x.qstat.toNat
  | 0x018 => x.uvec
  | 0x019 => x.uarea
  | _ => x.lvt

/-- CHST of a channel (09 R221). -/
def State.chstReg (s : State) (c : CoreId) (ch : Fin 64) : Nat :=
  let x := s.core c
  let n := rd x.chst ch
  x.heldBy ch + (if (List.finRange 16).any (fun k => (x.strand k).runs ch) then 2 ^ 8 else 0) +
    (if s.runnable c ch then 2 ^ 9 else 0) + 2 ^ 16 * n.drops + 2 ^ 32 * n.refused + 2 ^ 48 * n.ovfc

/-- A core's register, and the state in which its RC fields are cleared. -/
def State.readCoreReg (s : State) (c : CoreId) (n : Nat) : CVal × State :=
  let x := s.core c
  if n = 0x100 then (regOf x.hage.toNat, s)
  else if n = 0x101 then (regOf x.iage.toNat, s)
  else if n = 0x102 then (regOf x.inldrop, s.setCore c { x with inldrop := 0 })
  else if n = 0x103 then (regOf x.hmax, s)
  else if n = 0x104 then
    (regOf (rd x.pfst 0 + 2 ^ 16 * rd x.pfst 1 + 2 ^ 32 * rd x.pfst 2 + 2 ^ 48 * rd x.pfst 3),
      s.setCore c { x with pfst := .replicate 4 0 })
  else if n = 0x105 then (x.uctxv, s)
  else if n = 0x106 then (x.uctxa, s)
  else if n = 0x107 then (x.uctxl, s)
  else if n = 0x108 then (regOf x.uctxid.toNat, s)
  else if n = 0x109 then (x.psave, s)
  else if n = 0x10A then (regOf x.cec.toNat, s.setCore c { x with cec := 0 })
  else if n = 0x110 then (regOf ((if x.dbgQuiesce then 1 else 0) + (if x.quiesced then 2 else 0)), s)
  else if n < 0x1C0 then
    let ch : Fin 64 := Fin.ofNat 64 (n - 0x180)
    (regOf (s.chstReg c ch), s.updCount c ch (fun _ => { drops := 0, refused := 0, ovfc := 0 }))
  else if n = 0x1E8 then
    -- what a read of PGCMD gives is not stated: a free value
    let (f, s1) := s.free
    (regOf (fld f.toNat 0 128), s1)
  else if n < 0x210 then (regOf (rd x.prot (Fin.ofNat 16 (n - 0x200))).toNat, s)
  else if n < 0x388 then (regOf ((x.vlog[n - 0x380]?).getD 0).toNat, s)
  else (regOf x.vlogOvf, s.setCore c { x with vlogOvf := 0 })

/-- SNAPDAT: the word that SNAPSEL names of the snapshot held; what no snapshot holds is a free value (21 R389). -/
def State.snapdat (s : State) : CVal × State :=
  let b := df s.house.snapsel 0 10
  let w := df s.house.snapsel 16 8
  match s.house.snap.find? (fun p => p.1 == b && p.2.1 == w) with
  | some p => (regOf p.2.2.toNat, s)
  | none => let (f, s1) := s.free; (regOf (fld f.toNat 0 64), s1)

/-- A window's status register (09 R232). -/
def Win.wst (w : Win) : Nat := w.wstLo + 2 ^ 64 * w.latec + 2 ^ 80 * w.strc + 2 ^ 96 * w.strt

/-- A domain's status register (16 R312). -/
def Domain.sdst (d : Domain) : Nat :=
  d.commits + 2 ^ 32 * d.cabort + 2 ^ 48 * d.xabort + 2 ^ 64 * d.rerun + 2 ^ 80 * d.vstall + 2 ^ 96 * d.irrev + 2 ^ 112 * d.derr

/-- A domain's counts cleared. -/
def Domain.clear (d : Domain) : Domain :=
  { d with commits := 0, cabort := 0, xabort := 0, rerun := 0, vstall := 0, irrev := 0, derr := 0 }

/-- Events that an event port's buffer holds: on their way, and held while refused (22 R400). -/
def State.portFill (s : State) (p : Fin 8) : Nat :=
  let mine := fun (m : Msg) => m.sender == .port p && aepKind m.aep == 0
  (s.agenda.filter (fun e => match e.2 with | .messageArrival c m => mine m && !senderCrosses m.sender c | _ => false)).length +
  (s.bridges.toList.map (fun (b : Bridge) => (b.sent.filter (fun e => mine e.2)).length)).foldl (· + ·) 0 +
  (s.cores.toList.map (fun (x : Core) => (x.refused.filter (fun r => mine r.msg)).length)).foldl (· + ·) 0

/-- The oldest report of a die's queue, with its flag of lost entries; 0 when the queue is empty (19 R353). -/
def State.gerrReg (s : State) (d : Fin 2) : Nat :=
  match rd s.gerr d with
  | e :: _ => e.toNat + (if rd s.gerrOvf d then 2 ^ 62 else 0)
  | [] => 0

/-- A register of the package, and the state in which its RC fields are cleared. -/
def State.readPackageReg (s : State) (n : Nat) : CVal × State :=
  let h := s.house
  if n = 0x111 then (regOf h.snapid.toNat, s)
  else if n < 0x160 then
    let k : Fin 32 := Fin.ofNat 32 (n - 0x140)
    (regOf (rd s.wins k).wst, s.clearWst k)
  else if n = 0x160 then (regOf s.wgrace.toNat, s)
  else if n = 0x161 then (regOf s.lage.toNat, s)
  else if n = 0x162 then (regOf s.atbase.toNat, s)
  else if n = 0x163 then (regOf h.snapctl.toNat, s)
  else if n = 0x164 then (regOf h.snapsel.toNat, s)
  else if n = 0x165 then s.snapdat
  else if n < 0x168 then (regOf (rd s.pgarea (Fin.ofNat 2 (n - 0x166))).toNat, s)
  else if n = 0x168 then (regOf h.ready.toNat, s)
  else if n = 0x169 then (regOf h.oos.toNat, s)
  else if n < 0x16C then (regOf (installed (n - 0x16A)), s)
  else if n = 0x16C then (regOf h.dtstat.toNat, s)
  else if n = 0x16D then (regOf h.pwrlim, s)
  else if n = 0x16E then (regOf (h.power % 2 ^ 16 + 2 ^ 16 * h.level + 2 ^ 24 * (h.temp % 2 ^ 8)), s)
  else if n = 0x16F then (regOf h.dtepoch.toNat, s)
  else if n < 0x178 then (regOf (rd s.epcfg (Fin.ofNat 8 (n - 0x170))).cfg.toNat, s)
  else if n < 0x180 then
    let p : Fin 8 := Fin.ofNat 8 (n - 0x178)
    let x := rd s.epcfg p
    (regOf (x.drop + 2 ^ 16 * x.back + 2 ^ 32 * x.crce + 2 ^ 48 * s.portFill p),
      { s with epcfg := wr s.epcfg p { x with drop := 0, back := 0, crce := 0 } })
  else if n < 0x1D8 then
    let q : ClusterId := Fin.ofNat 24 (n - 0x1C0)
    (regOf (s.cluster q).astat, s.updCluster q (fun (x : Cluster) => { x with spills := 0, revokes := 0 }))
  else if n < 0x1DC then (regOf (rd s.canev (Fin.ofNat 4 (n - 0x1D8))).toNat, s)
  else if n < 0x1E0 then (regOf (rd s.canflt (Fin.ofNat 4 (n - 0x1DC))).toNat, s)
  else if n < 0x1E8 then
    let d : Fin 8 := Fin.ofNat 8 (n - 0x1E0)
    (regOf (rd s.doms d).sdst, s.updDom d Domain.clear)
  else if n < 0x1EC then
    let d : Fin 2 := Fin.ofNat 2 (n - 0x1EA)
    (regOf (((s.growOf d).head?).getD 0).toNat, s.popGrow d)
  else if n = 0x1EC then (regOf s.sysnc.toNat, s)
  else if n < 0x300 then
    let d : Fin 2 := Fin.ofNat 2 (n - 0x1F2)
    (regOf (s.gerrReg d), s.popGerr d)
  else if n < 0x380 then
    let x := rd s.homes (Fin.ofNat 16 ((n - 0x300) / 8))
    (regOf ((x.vlog[(n - 0x300) % 8]?).getD 0).toNat, s)
  else if n < 0x3A0 then
    let hh : HomeId := Fin.ofNat 16 (n - 0x390)
    (regOf (rd s.homes hh).vlogOvf, s.updHome hh (fun (x : Home) => { x with vlogOvf := 0 }))
  else if n < 0x3E0 then
    (regOf (rd (rd s.epcfg (Fin.ofNat 8 ((n - 0x3A0) / 8))).src (Fin.ofNat 8 ((n - 0x3A0) % 8))).toNat, s)
  else (regOf (rd s.gpcfg (Fin.ofNat 32 (n - 0x3E0))).toNat, s)

/-! ### Writes: protection regions (21 R368) -/

/-- Bits of PROT that are not reserved. -/
def protMask : Nat :=
  511 + 2 ^ 16 * 511 + 2 ^ 32 * 31 + 2 ^ 48 * (2 ^ 16 - 1) + 2 ^ 64 * (2 ^ 16 - 1)

/-- Bits that may not change while V stays 1: BASE, LAST, ASID, KEY. -/
def protFixed : Nat := 511 + 2 ^ 16 * 511 + 2 ^ 48 * (2 ^ 16 - 1) + 2 ^ 64 * (2 ^ 16 - 1)

/-- Whether a value may be written into a region that holds `old`. -/
def protOk (old x : Quad) : Bool :=
  Nat.land x.toNat protMask == x.toNat && decide (qf x 0 9 ≤ qf x 16 9) && decide (qf x 16 9 ≤ 0x1F9) &&
  !(protV old && protV x && Nat.land old.toNat protFixed != Nat.land x.toNat protFixed)

/-- Every byte and tag of some bytes of physical memory cleared, and every L0 copy of their lines with them. -/
def State.clearRange (s : State) (lo hi : Nat) : State :=
  { s with
    cores := vmap (fun (x : Core) =>
      if x.l0.any (fun e => decide (lo ≤ 64 * e.phys) && decide (64 * e.phys < hi)) then
        { x with l0 := x.l0.filter (fun e => !(decide (lo ≤ 64 * e.phys) && decide (64 * e.phys < hi))) }
      else x) s.cores
    mem := s.mem.filter (fun p => !(decide (lo ≤ p.1) && decide (p.1 < hi)))
    tags := s.tags.filter (fun g => !(decide (lo ≤ 16 * g) && decide (16 * g < hi)))
    poison := s.poison.filter (fun w => !(decide (lo ≤ 8 * w) && decide (8 * w < hi))) }

/-- A region written: one that becomes valid is cleared first (R368). What a region admitted has been performed in the
step that admitted it, so clearing V completes at once; a task's version is checked against the regions again when it
becomes ordinary memory (`State.versionAt`). -/
def State.setProt (s : State) (c : CoreId) (i : Fin 16) (x : Quad) : State :=
  let old := rd (s.core c).prot i
  let s1 := if !protV old ∧ protV x = true then
      s.clearRange (slicePhys c (4096 * qf x 0 9)) (slicePhys c (4096 * (qf x 16 9 + 1)))
    else s
  s1.updCore c (fun (y : Core) => { y with prot := wr y.prot i x })

/-- `PROT_REGION_ENABLE`: a region made valid, its bytes and tags cleared first (R368). -/
def execProtRegionEnable (c : CoreId) (i : Fin 16) (x : Quad) (s : State) : Out :=
  let old := rd (s.core c).prot i
  .next (if protOk old x ∧ protV old = false ∧ protV x = true then s.setProt c i x else s)

/-- `PROT_REGION_DISABLE`: V cleared once what the region admitted has been performed (R368). -/
def execProtRegionDisable (c : CoreId) (i : Fin 16) (x : Quad) (s : State) : Out :=
  let old := rd (s.core c).prot i
  .next (if protOk old x ∧ protV old = true ∧ protV x = false then s.setProt c i x else s)

/-! ### Writes: device edges (22 R398, R401, R402) -/

/-- A port's watermarks every WMPER periods, from now. -/
def State.startPort (s : State) (p : Fin 8) : State :=
  s.postOnce (10000 * df (rd s.epcfg p).cfg 8 14) (.portWatermarkPeriod p)

/-- A GPIO unit that is on, and a timer among them. -/
def gpOn (x : Dbl) : Bool := df x 0 2 != 0
def gpTimer (x : Dbl) : Bool := df x 0 3 == 7
def gpPeriod (x : Dbl) : Nat := df x 28 32

/-- A GPIO unit's watermarks, and a timer's next multiple in place of what stood there, put on the agenda. -/
def State.startGpio (s : State) (i : Fin 32) : State :=
  let x := rd s.gpcfg i
  let s1 := if gpOn x then s.postOnce 10000 (.gpioWatermarkPeriod i) else s
  if gpTimer x then
    let per := 1000 * gpPeriod x
    let n := s.dt / per + 1
    ({ s1 with gpNext := wr s1.gpNext i n, agenda := s1.agenda.filter (fun p => p.2 != .gpioTimerPeriod i) } : State).post
      (n * per - s.dt) (.gpioTimerPeriod i)
  else s1

/-- Limits of EPCFG, EPSRC, GPCFG, CANEV, CANFLT. -/
def epcfgOk (v : Dbl) : Bool :=
  df v 38 26 == 0 && decide (0x30 ≤ df v 2 6) && decide (df v 2 6 ≤ 0x37) && decide (1 ≤ df v 8 14) && decide (df v 8 14 ≤ 1000)
def epsrcOk (v : Dbl) : Bool :=
  df v 32 32 == 0 && decide (1 ≤ df v 0 16) && decide (df v 0 16 ≤ 0xFFF) && decide (4 ≤ df v 16 6) && decide (df v 22 9 < 384)
def gpcfgOk (v : Dbl) : Bool :=
  df v 60 4 == 0 && decide (4 ≤ df v 3 6) && decide (df v 9 9 < 384) && decide (1 ≤ gpPeriod v)
def canevOk (v : Dbl) : Bool := df v 19 45 == 0 && df v 1 2 != 3 && decide (4 ≤ df v 4 6) && decide (df v 10 9 < 384)
def canfltOk (v : Dbl) : Bool := df v 29 3 == 0 && df v 61 3 == 0

/-- Whether another valid entry of any port holds a source. -/
def State.srcTaken (s : State) (p j : Fin 8) (src : Nat) : Bool :=
  (List.finRange 8).any (fun q => (List.finRange 8).any (fun i =>
    let x := rd (rd s.epcfg q).src i
    !(q == p && i == j) && df x 31 1 == 1 && df x 0 16 == src))

/-! ### Writes -/

/-- A write that a register's limits admit. -/
def allow (b : Bool) (s : State) : Except Stop State := if b then .ok s else .error (.t .ill)

/-- A violation-log entry freed where the write has VALID set (21 R387). -/
def freeLog (l : List VlogEntry) (e : Nat) (v : Quad) : List VlogEntry :=
  if v.getLsbD 127 then lset l e (((l[e]?).getD 0) &&& ~~~((1 : Quad) <<< 127)) else l

/-- A strand register written; a reserved bit set traps `ill` (R203, R204; 02 R53; 05 R137; 06 R175). -/
def State.writeStrandReg (s : State) (c : CoreId) (k : SlotId) (n : Nat) (v : CVal) : Except Stop State :=
  let upd := s.updStrand c k
  let w := v.addr
  match n with
  | 0x008 => .ok (upd (fun (x : Strand) => { x with tvec := v }))
  | 0x009 => .ok (upd (fun (x : Strand) => { x with epc := v }))
  | 0x00A => allow (df w 18 13 == 0 && df w 32 32 == 0) (upd (fun (x : Strand) => { x with tcause := w }))
  | 0x00B => .ok (upd (fun (x : Strand) => { x with taddr := w }))
  | 0x00C => .ok (upd (fun (x : Strand) => { x with tscr := v }))
  | 0x010 => allow (df w 7 25 == 0) (upd (fun (x : Strand) => { x with fflags := w.setWidth 32 }))
  | 0x011 => .ok (upd (fun (x : Strand) => { x with srgen := v.val }))
  | 0x012 => allow (df w 3 5 == 0 && df w 16 16 == 0) (upd (fun (x : Strand) => { x with cvrm := (w.setWidth 32).setWidth 64 }))
  | 0x013 => .ok (upd (fun (x : Strand) => { x with novd := w }))
  | 0x014 => allow (df w 3 29 == 0) (upd (fun (x : Strand) => { x with qstat := w.setWidth 32 }))
  | 0x018 => .ok (upd (fun (x : Strand) => { x with uvec := v }))
  | 0x019 => .ok (upd (fun (x : Strand) => { x with uarea := v }))
  | 0x01A => .ok (upd (fun (x : Strand) => { x with lvt := v }))
  | _ => .error (.t .ill)

/-- A core's register written (R203; 09 R215; 21 R368, R380, R384, R387, R388). -/
def State.writeCoreReg (s : State) (c : CoreId) (n : Nat) (v : CVal) : Except Stop State :=
  let upd := s.updCore c
  let w := v.addr
  if n = 0x100 then allow (decide (64 ≤ w.toNat) && decide (w.toNat ≤ 65536)) (upd (fun (x : Core) => { x with hage := w }))
  else if n = 0x101 then allow (decide (16 ≤ w.toNat) && decide (w.toNat ≤ 4096)) (upd (fun (x : Core) => { x with iage := w }))
  else if n = 0x103 then allow (decide (1 ≤ w.toNat) && decide (w.toNat ≤ 16)) ((upd (fun (x : Core) => { x with hmax := w.toNat })).offer c)
  else if n = 0x105 then .ok (upd (fun (x : Core) => { x with uctxv := v }))
  else if n = 0x106 then .ok (upd (fun (x : Core) => { x with uctxa := v }))
  else if n = 0x107 then .ok (upd (fun (x : Core) => { x with uctxl := v }))
  else if n = 0x108 then allow (decide (w.toNat < 2 ^ 16)) (upd (fun (x : Core) => { x with uctxid := w.setWidth 16 }))
  else if n = 0x109 then .ok (upd (fun (x : Core) => { x with psave := v }))
  else if n = 0x110 then allow (decide (w.toNat < 4)) (s.setQuiesce c (w.getLsbD 0))
  else if n = 0x1E8 then s.pgQueue v
  else if 0x200 ≤ n ∧ n < 0x210 then
    let i : Fin 16 := Fin.ofNat 16 (n - 0x200)
    allow (protOk (rd (s.core c).prot i) v.val) (s.setProt c i v.val)
  else if 0x380 ≤ n ∧ n < 0x388 then .ok (upd (fun (x : Core) => { x with vlog := freeLog x.vlog (n - 0x380) v.val }))
  else .error (.t .ill)

/-- SNAPCTL written: SRC, ARMED by W1S, LATCHED by W1C (21 R389). -/
def snapctlPut (old w : Dbl) : Dbl :=
  (w &&& 0xF) ||| ((old ||| w) &&& 0x100) ||| ((old &&& ~~~w) &&& 0x200)

/-- A register of the package written. -/
def State.writePackageReg (s : State) (n : Nat) (v : CVal) : Except Stop State :=
  let w := v.addr
  if n = 0x160 then allow (decide (w.toNat ≤ 1000)) { s with wgrace := w.setWidth 32 }
  else if n = 0x161 then allow (decide (100 ≤ w.toNat) && decide (w.toNat ≤ 1000000)) { s with lage := w.setWidth 32 }
  else if n = 0x162 then allow (df w 1 11 == 0 && df w 48 16 == 0) { s with atbase := w }
  else if n = 0x163 then
    allow (df w 4 4 == 0 && df w 10 54 == 0) (s.updHouse (fun (h : House) => { h with snapctl := snapctlPut h.snapctl w }))
  else if n = 0x164 then
    allow (decide (df w 0 10 ≤ 424) && df w 10 6 == 0 && df w 24 40 == 0) (s.updHouse (fun (h : House) => { h with snapsel := w }))
  else if n = 0x166 ∨ n = 0x167 then
    allow (qf v.val 1 20 == 0 && qf v.val 48 37 == 0 && qf v.val 112 16 == 0)
      { s with pgarea := wr s.pgarea (Fin.ofNat 2 (n - 0x166)) v.val }
  else if n = 0x16D then
    allow (decide (w.toNat < 512)) (if 120 ≤ w.toNat ∧ w.toNat ≤ 450 then s.updHouse (fun (h : House) => { h with pwrlim := w.toNat }) else s)
  else if 0x170 ≤ n ∧ n < 0x178 then
    let p : Fin 8 := Fin.ofNat 8 (n - 0x170)
    let s1 : State := { s with epcfg := wr s.epcfg p { rd s.epcfg p with cfg := w } }
    allow (epcfgOk w) (if w.getLsbD 0 then s1.startPort p else s1)
  else if 0x1D8 ≤ n ∧ n < 0x1DC then
    let c : Fin 4 := Fin.ofNat 4 (n - 0x1D8)
    let s1 : State := { s with canev := wr s.canev c w }
    allow (canevOk w) (if w.getLsbD 0 then s1.postOnce 10000 (.canWatermarkPeriod c) else s1)
  else if 0x1DC ≤ n ∧ n < 0x1E0 then allow (canfltOk w) { s with canflt := wr s.canflt (Fin.ofNat 4 (n - 0x1DC)) w }
  else if n = 0x1EC then
    allow (df w 9 6 == 0 && df w 25 6 == 0 && df w 32 32 == 0 && decide (df w 0 9 < 384) && decide (df w 16 9 < 384)) { s with sysnc := w }
  else if 0x300 ≤ n ∧ n < 0x380 then
    .ok (s.updHome (Fin.ofNat 16 ((n - 0x300) / 8)) (fun (x : Home) => { x with vlog := freeLog x.vlog ((n - 0x300) % 8) v.val }))
  else if 0x3A0 ≤ n ∧ n < 0x3E0 then
    let p : Fin 8 := Fin.ofNat 8 ((n - 0x3A0) / 8)
    let j : Fin 8 := Fin.ofNat 8 ((n - 0x3A0) % 8)
    allow (epsrcOk w && !s.srcTaken p j (df w 0 16))
      { s with epcfg := wr s.epcfg p { rd s.epcfg p with src := wr (rd s.epcfg p).src j w } }
  else if 0x3E0 ≤ n then
    let i : Fin 32 := Fin.ofNat 32 (n - 0x3E0)
    allow (gpcfgOk w) (({ s with gpcfg := wr s.gpcfg i w } : State).startGpio i)
  else .error (.t .ill)

/-- A register above 0x01F written with the authority that SYS gives, as seen by a core. -/
def State.writeReg (s : State) (c : CoreId) (n : Nat) (v : CVal) : Except Stop State :=
  if isReadOnly n then .error (.t .ill)
  else if isCoreReg n then s.writeCoreReg c n v
  else s.writePackageReg n v

/-- A register above 0x01F read, as seen by a core. -/
def State.readReg (s : State) (c : CoreId) (n : Nat) : CVal × State :=
  if isCoreReg n then s.readCoreReg c n else s.readPackageReg n

/-- The number is assigned, and open to the strand: 0x020 and above need SYS (R203). -/
def State.regOpen (s : State) (n : Nat) : Except Stop Unit := do
  need (isStrandReg n || isCoreReg n || isPackageReg n) .ill
  need (isStrandReg n || s.mySys) .capp

/-- `sysrd` (R203). -/
def execSysrd (g : Fin 8) (d : Fin 64) (n : Fin 1024) (s : State) : Out := issue g 4 s fun s => do
  s.regOpen n.val
  if isStrandReg n.val then s.putC d (s.strandReg s.cur.1 s.cur.2 n.val)
  else
    let r := s.readReg s.cur.1 n.val
    r.2.putC d r.1

/-- A strand that has halted its own core leaves the write behind it (21 R388). -/
def State.passHalted (s : State) (x : Strand) : State :=
  s.setMe { s.me.pass x.pcc x.rep 4 s.nextId with st := .halted, halt := some .running }

/-- `syswr` (R203). -/
def execSyswr (g : Fin 8) (a : Fin 64) (n : Fin 1024) (s : State) : Out := issueN g 4 s fun s => do
  let x := s.me
  s.regOpen n.val
  need (!isReadOnly n.val) .ill
  let (v, s) ← s.useC a
  let s ← if isStrandReg n.val then s.writeStrandReg s.cur.1 s.cur.2 n.val v else s.writeReg s.cur.1 n.val v
  if s.me.st = .halted then pure (s.passHalted x, .gone) else pure (s, .seq)

/-- `REGISTER_WRITE`: a write from outside a strand, with host authority; one that a register's rules do not admit leaves
it unchanged, and a strand's registers discard it. No tag comes from outside (22 R395, R396). -/
def execRegisterWrite (c : CoreId) (n : Fin 1024) (x : CVal) (s : State) : Out :=
  if !(isCoreReg n.val || isPackageReg n.val) ∨ n.val = 0x1E8 then .next s
  else match s.writeReg c n.val { x with tag := false } with
    | .ok s1 => .next s1
    | .error _ => .next s

/-! ### Returns (R204, R205) -/

/-- `tret` (R204). -/
def execTret (g : Fin 8) (s : State) : Out := issueN g 4 s fun s => do
  let s ← s.trapReturn
  pure (s, .gone)

/-- `uret`: the failed access is discarded (R205). -/
def execUret (g : Fin 8) (a : Fin 64) (s : State) : Out := issueN g 4 s fun s => do
  let (r, s) ← s.useC a
  let s ← s.upcallReturn r false
  pure (s, .gone)

/-- `resumef`: the failed access is performed again (R205). -/
def execResumef (g : Fin 8) (a : Fin 64) (s : State) : Out := issueN g 4 s fun s => do
  let (r, s) ← s.useC a
  let s ← s.upcallReturn r true
  pure (s, .gone)

/-! ### Snapshots and freeze (R207; 21 R389, R390) -/

/-- `snap` (R207). -/
def execSnap (g : Fin 8) (a : Fin 64) (s : State) : Out := issue g 4 s fun s => do
  let (v, s) ← s.useC a
  need s.mySys .capp
  pure (s.trigger 0 (BitVec.ofNat 16 (qf v.val 0 16)) true)

/-- `freeze`: raises the trigger and holds every engine, or releases them (R207). -/
def execFreeze (g : Fin 8) (a : Fin 64) (s : State) : Out := issue g 4 s fun s => do
  let (v, s) ← s.useC a
  need s.mySys .capp
  if v.val.getLsbD 0 then pure ((s.trigger 0 0xFFFC true).updHouse (fun (h : House) => { h with frozen := true }))
  else pure (s.updHouse (fun (h : House) => { h with frozen := false }))

/-- `SNAPSHOT_PIN` (R389). -/
def execSnapshotPin (s : State) : Out := .next (s.trigger 3 0xFFFF false)

end Sys2Proof.Machine
end

