-- ==== Sys2Proof/Machine/Edges.lean ====
section
/-! DEFINITION. The device at its edges: bring-up and service, firmware and attestation, power, time, event ports, GPIO,
CAN FD, the application cores and PCIe (22_device_edges.md R391-R407; 18 R334, R335). -/

namespace Sys2Proof.Machine

/-! ### Firmware images (R406) -/

/-- `n` bytes of a string from offset `o`. -/
def part (bs : List Byte) (o n : Nat) : List Byte := (bs.drop o).take n

/-- Whether the housekeeping core accepts an image. -/
def imageOk (img : FirmwareImage) : Bool :=
  let h := img.header
  let kind := ofBytes (part h 4 4)
  let key := part h 3389 1952
  decide (h.length = 5376) && ofBytes (part h 0 4) == 0x44564932 && decide (kind ≤ 5) &&
  ofBytes (part h 12 4) == img.body.length && (part h 5341 35).all (· == 0) &&
  Config.shake256 key == Config.fusedDigest kind && Config.mldsaVerify key (part h 0 80) (part h 80 3309) &&
  Config.shake256 img.body == part h 16 64 && decide (Config.fusedVersion kind ≤ ofBytes (part h 8 4))

/-- The machine as a reset leaves it: what memory held stays but for the dictionaries (13 R278), and so do the model's
own counters and the turns that are chosen from outside (log entry 31). -/
def State.warm (s : State) : State :=
  { State.reset with
    mem := s.mem.filter (fun p => decide (p.1 < sliceBase) || decide ((p.1 - sliceBase) % 2 ^ 21 < sliceTop))
    tags := s.tags, poison := s.poison, freshN := s.freshN, nextId := s.nextId, dtRate := s.dtRate, sched := s.sched
    gpNext := s.gpNext }

/-- `RESET`: reset is released and the housekeeping image is checked; rejected, the device stays in reset with FAULT
asserted (R391, R406). Device time is 0 at the release (R403). -/
def execReset (img : FirmwareImage) (s : State) : Out :=
  let s1 := s.warm
  if imageOk img ∧ ofBytes (part img.header 4 4) = 0 then
    .next (s1.updHouse (fun (h : House) => { h with inReset := false, fault := false, images := wr s1.house.images 0 (some (Config.shake256 img.body)) }))
  else .next (s1.updHouse (fun (h : House) => { h with inReset := true, fault := true }))

/-! ### Functions ready and out of service (R391, R392) -/

/-- A bit of a 128-bit register. -/
def bitOf (i : Nat) : Quad := (1 : Quad) <<< i

/-- The dies that a function's notice concerns: its own; both for a UCIe port. -/
def functionDies (b : Nat) : List Nat :=
  if b < 24 then [b / 12] else if b < 40 then [(b - 24) / 8] else if b < 52 then [0, 1] else if b = 63 then [1] else [0]

/-- The cores of a cluster. -/
def coresOf (q : ClusterId) : List CoreId := (List.finRange 16).map (fun i => coreAt q i.val)

/-- What waited for a cluster goes on: messages held by their senders, close packets, launch records. -/
def State.clusterUp (s : State) (q : ClusterId) : State :=
  let s1 := (coresOf q).foldl (fun s c =>
    let x := s.core c
    let a := x.refused.foldl (fun s r => s.postOnce 50 (.refusalCallback c r.chan)) s
    let b := x.closeWait.foldl (fun s p => s.postOnce 50 (.closePacketDelivery c p)) a
    b.offer c) s
  ((s1.postOnce 500 (.launchHeadTake 0)).postOnce 500 (.launchHeadTake 1))

/-- A UCIe port in service: what the bridges hold goes again, and so do the close packets for the other die. -/
def State.portUpAgain (s : State) : State :=
  let s1 := (List.finRange 12).foldl (fun s p => if (rd s.bridges p).sent.isEmpty then s else s.postOnce 100 (.bridgeResend p)) s
  (List.finRange 384).foldl (fun s c =>
    if dieOf c = 0 then s else (s.core c).closeWait.foldl (fun s p => s.postOnce 100 (.closePacketDelivery c p)) s) s1

/-- `FUNCTION_READY`: a function's bit is set; what waited for it goes on (R391, R392). -/
def execFunctionReady (b : Fin 78) (s : State) : Out :=
  if s.house.inReset ∨ s.house.oos.getLsbD b.val ∨ s.house.ready.getLsbD b.val = true then .next s
  else
    let s1 := s.updHouse (fun (h : House) => { h with ready := h.ready ||| bitOf b.val })
    if h : b.val < 24 then .next (s1.clusterUp ⟨b.val, h⟩)
    else if 40 ≤ b.val ∧ b.val < 52 then
      .next (s1.portUpAgain)
    else if 53 ≤ b.val ∧ b.val < 61 then
      let p : Fin 8 := Fin.ofNat 8 (b.val - 53)
      .next (if (rd s1.epcfg p).cfg.getLsbD 0 then s1.startPort p else s1)
    else if 64 ≤ b.val ∧ b.val < 72 then
      let p : Fin 8 := Fin.ofNat 8 (b.val - 64)
      .next (if (rd s1.epcfg p).cfg.getLsbD 0 then s1.startPort p else s1)
    else if 72 ≤ b.val ∧ b.val < 76 then
      let c : Fin 4 := Fin.ofNat 4 (b.val - 72)
      .next (if (rd s1.canev c).getLsbD 0 then s1.postOnce 10000 (.canWatermarkPeriod c) else s1)
    else if b.val = 76 then .next ((List.finRange 32).foldl State.startGpio s1)
    else .next s1

/-- What is done to the work of each slot of a core, and then, on slot 0, to the work of each strand saved there. -/
def State.endWork (s : State) (c : CoreId) (f : State → SlotId → State) : State :=
  let s1 := (List.finRange 16).foldl f s
  let saved := (s1.core c).saved
  saved.foldl (fun s (v : Saved) => f (s.setStrand c 0 { v.strand with st := .running }) 0)
    (s1.updCore c (fun (x : Core) => { x with saved := [] }))

/-- A bound member of a core out of service discarded, from the queue or from its line, with a report (19 R351). -/
def State.discardMember (s : State) (c : CoreId) (slot : Nat) (e : TqEntry) : State :=
  let s1 := match s.findEntry e.id with
    | some (q, _) => s.dropEntry q e.id
    | none => s.updCluster (clusterOf c) (fun (x : Cluster) => { x with tqWait := x.tqWait.filter (fun (y : TqEntry) => y.id != e.id) })
  ((s1.memberEnds e.grid e.member).gridCheck e.grid).report (Fin.ofNat 2 (dieOf c)) (gridNo e.grid) c.val slot 6 e.retries

/-- Work of a core that goes out of service, saved work too: bound members discarded and reported, those whose records have
not been pushed yet among them, other work as after a hardware error (19 R351). -/
def State.coreOut (s : State) (c : CoreId) : State :=
  let s1 := s.endWork c (fun s k =>
    match (s.strand c k).work.entry.bind s.findEntry with
    | some (_, e) => if e.bound = some c then (s.release c k).discardMember c k.val e else s.hwEnd c k
    | none => s.hwEnd c k)
  let bound := ((s1.cluster (clusterOf c)).tq ++ (s1.cluster (clusterOf c)).tqWait).filter (fun (e : TqEntry) => e.bound == some c)
  let s2 := bound.foldl (fun s e => s.discardMember c 0 e) s1
  let later := s2.grids.flatMap (fun (g : Grid) =>
    (g.members.filter (fun (m : Member) => m.core == c && !m.ended && (g.unitOfTeam m.team).any (fun u => !u.started.contains m.team))).map
      (fun m => (g.id, m.i)))
  later.foldl (fun s p => ((s.memberEnds (some p.1) (some p.2)).gridCheck (some p.1)).report (Fin.ofNat 2 (dieOf c)) p.1 c.val 0 6 0) s2

/-- The queue of a cluster out of service given to another; with none in service its records are discarded and reported
(R6; 19 R351). -/
def State.queueOut (s : State) (q : ClusterId) : State :=
  let es := (s.cluster q).tq ++ (s.cluster q).tqWait
  let s1 := s.updCluster q (fun (x : Cluster) => { x with tq := [], tqWait := [] })
  match s.heirOf q with
  | some p =>
    let s2 := s1.updCluster p (fun (x : Cluster) => { x with tqWait := x.tqWait ++ es })
    let s3 : State := { s2 with doms := vmap (fun (d : Domain) => { d with
      tasks := d.tasks.map (fun (t : STask) => if t.cluster = q then { t with cluster := p } else t) }) s2.doms }
    (s3.postOnce 1 (.queuePushWait p)).offerCluster p
  | none => es.foldl (fun s (e : TqEntry) =>
      (((s.memberEnds e.grid e.member).gridCheck e.grid).report (Fin.ofNat 2 (q.val / 12)) (gridNo e.grid) (coreAt q 0).val 0 6 e.retries)) s1

/-- A core restarted, as the turn from outside asks (log entry 69): its work ends as after a hardware error, its registers
and its NI stand as at reset, both dictionaries of each of its pairs are zero, the pairs' numbers begin again, and its first
message to each peer carries RESET (13 R278; 07 R176). Messages under way from it are gone; the strands that wait for one to
it go on. Posted stores, and what the engines hold for it, stay. -/
def State.restartCore (s : State) (c : CoreId) : State :=
  let s1 := s.endWork c (fun s k => s.hwEnd c k)
  let ours := fun (d : CoreId) (m : Msg) => m.sender == .core c || (d == c && (match m.sender with | .core _ => true | _ => false))
  let lost := (s1.agenda.filterMap (fun e => match e.2 with | .messageArrival d m => if ours d m then some m else none | _ => none)) ++
    s1.bridges.toList.flatMap (fun (b : Bridge) => (b.sent.filter (fun p => ours p.1 p.2)).map (·.2)) ++
    (s1.core c).reorder ++ (s1.core c).refused.map (·.msg)
  let other := fun (l : List (Nat × Word)) => l.filter (fun p => p.1 != c.val)
  let s2 : State := { s1 with
    agenda := s1.agenda.filter (fun e => match e.2 with | .messageArrival d m => !ours d m | _ => true)
    bridges := vmap (fun (b : Bridge) => { b with sent := b.sent.filter (fun p => !ours p.1 p.2) }) s1.bridges
    cores := vofFn (fun (d : CoreId) =>
      let x := s1.core d
      if d = c then { Core.reset with wpath := x.wpath, hback := x.hback, fresh := List.range 384, closeWait := x.closeWait }
      else { x with
        seqOut := other x.seqOut, seqIn := other x.seqIn
        reorder := x.reorder.filter (fun m => m.sender != .core c), refused := x.refused.filter (fun r => r.msg.sender != .core c) }) }
  let zero : List Word := List.replicate 8 0
  let s3 := (List.finRange 384).foldl (fun s p =>
    (((s.setDict c p true zero).setDict c p false zero).setDict p c true zero).setDict p c false zero) s2
  lost.foldl State.acceptedMsg s3

/-- The window unit out of service: every window is disabled. -/
def State.windowsOff (s : State) : State :=
  { s with wins := vmap (fun (w : Win) => { w with st := .disabled, pend := none, waitHomes := [], waitQueues := [], lag := [] }) s.wins }

/-- No UCIe port in service: each die treats the other as after a fatal fault, so that grids on both end (R392; 19 R352). -/
def State.diesPart (s : State) : State :=
  (s.grids.filter (fun g => !g.ended && s.gridOn g 0 && s.gridOn g 1)).foldl (fun s g =>
    ((s.killGrid g).report 0 g.id 0 0 5 0).report 1 g.id 0 0 5 0) s

/-- A function's bit moved from READY to OOS; a notice is sent, and its work or traffic goes elsewhere (R391, R392; 00 R6;
07 R184). -/
def State.outOfService (s : State) (b : Fin 78) : State :=
  if s.house.oos.getLsbD b.val then s
  else
    let s1 := s.updHouse (fun (h : House) => { h with ready := h.ready &&& ~~~(bitOf b.val), oos := h.oos ||| bitOf b.val })
    let s2 := (functionDies b.val).foldl (fun s d => s.notice d 4 (BitVec.ofNat 32 b.val)) s1
    if h : b.val < 24 then
      let s3 := ((coresOf ⟨b.val, h⟩).foldl State.coreOut s2).queueOut ⟨b.val, h⟩
      (s3.dropHeads 0 256).dropHeads 1 256
    else if 40 ≤ b.val ∧ b.val < 52 then
      let p : Fin 12 := Fin.ofNat 12 (b.val - 40)
      if (List.range 12).all (fun i => !s2.house.ready.getLsbD (40 + i)) then s2.diesPart
      else s2.postOnce 100 (.bridgeResend p)
    else if b.val = 77 then s2.windowsOff
    else s2

/-- `FUNCTION_OUT_OF_SERVICE` (R391, R392). -/
def execFunctionOutOfService (b : Fin 78) (s : State) : Out := .next (s.outOfService b)

/-- The functions that the image of a kind serves: application cores, LPDDR-6, UCIe, PCIe, Ethernet (R406). -/
def imageFunctions : Nat → List (Fin 78)
  | 1 => [52]
  | 2 => (List.range 16).map (fun i => Fin.ofNat 78 (24 + i))
  | 3 => (List.range 12).map (fun i => Fin.ofNat 78 (40 + i))
  | 4 => [63]
  | 5 => [61, 62]
  | _ => []

/-- An image of kinds 1-5 read from flash: accepted, its digest kept, or rejected, its functions out of service (R406). -/
def State.loadImage (s : State) (img : FirmwareImage) : State :=
  let kind := ofBytes (part img.header 4 4)
  if kind = 0 ∨ 5 < kind then s
  else if imageOk img then
    s.updHouse (fun (h : House) => { h with images := wr h.images (Fin.ofNat 6 kind) (some (Config.shake256 img.body)) })
  else (imageFunctions kind).foldl State.outOfService s

/-! ### Power and temperature (R407) -/

/-- A notice about the whole package, to the core that each die's half of SYSNC names. -/
def State.notify (s : State) (code : Nat) (val : Word) : State := (s.notice 0 code val).notice 1 code val

/-- The throttle level set, with its notice where it changes. -/
def State.setLevel (s : State) (n : Nat) : State :=
  if s.house.level = n then s
  else (s.updHouse (fun (h : House) => { h with level := n })).notify 1 (BitVec.ofNat 32 n)

/-- A temperature as its byte gives it, °C. -/
def celsius (t : Nat) : Int := sint 8 t

/-- `THROTTLE_TICK`: the measured power, in 0.1 W, moves the level one step towards the limit; 105 °C holds it at 15. -/
def execThrottleTick (power : BitVec 16) (s : State) : Out :=
  let s1 := s.updHouse (fun (h : House) => { h with power := power.toNat })
  let h := s1.house
  if 105 ≤ celsius h.temp then .next (s1.setLevel 15)
  else if 10 * h.pwrlim < power.toNat then .next (s1.setLevel (min 15 (h.level + 1)))
  else if power.toNat < 10 * h.pwrlim then .next (s1.setLevel (h.level - 1))
  else .next s1

/-- `OVERTEMPERATURE`: the hottest die's temperature; notices at 100 °C and 95 °C, level 15 from 105 °C, a fatal fault of
both dies from 115 °C. -/
def execOvertemperature (temp : BitVec 8) (s : State) : Out :=
  let t := celsius temp.toNat
  let s1 := s.updHouse (fun (h : House) => { h with temp := temp.toNat })
  let s2 := if 100 < t ∧ !s1.house.hot then
      (s1.updHouse (fun (h : House) => { h with hot := true })).notify 2 (BitVec.ofInt 32 t)
    else if t < 95 ∧ s1.house.hot = true then
      (s1.updHouse (fun (h : House) => { h with hot := false })).notify 2 (BitVec.ofInt 32 t)
    else s1
  let s3 := if 105 ≤ t then s2.setLevel 15 else s2
  .next (if 115 ≤ t then (s3.dieFault 0).dieFault 1 else s3)

/-! ### Device time (R403) -/

/-- A signed number as 32 bits, saturating. -/
def sat32 (x : Int) : Word := BitVec.ofInt 32 (max (-(2 ^ 31)) (min (2 ^ 31 - 1) x))

/-- The rate that disciplines DT for an offset, in ppm: the limit towards the grandmaster where it is over 1 ms, else a rate
below the limit that the spec leaves open, a free value. -/
def slewFor (off : Int) (f : VReg) : Int :=
  if 1000000 < off then -500 else if off < -1000000 then 500 else (f.toNat % 999 : Nat) - 499

/-- `GPTP_SYNC`: the grandmaster's time; the first lock sets DTEPOCH, and every one LOCK, SLEW and OFFS and the rate of DT. -/
def execGptpSync (grand : BitVec 64) (s : State) : Out :=
  let dt : Dbl := BitVec.ofNat 64 s.dt
  let epoch := if s.house.dtstat.getLsbD 2 then s.house.dtepoch else grand - dt
  let off := (dt + epoch - grand).toInt
  let slew := decide (1000000 < off) || decide (off < -1000000)
  let stat : Dbl := BitVec.ofNat 64 (1 + (if slew then 2 else 0) + 4 + 2 ^ 32 * (sat32 off).toNat)
  let (f, s1) := s.free
  .next { s1.updHouse (fun (h : House) => { h with dtepoch := epoch, dtstat := stat }) with dtSlew := slewFor off f }

/-- `LOCK_LOST`: LOCK clears; DT keeps running and DTEPOCH stays. -/
def execLockLost (s : State) : Out :=
  .next (s.updHouse (fun (h : House) => { h with dtstat := h.dtstat &&& ~~~(1 : Dbl) }))

/-! ### Event ports (R397-R400) -/

/-- Ready functions of an event port and its receiver. -/
def State.portUp (s : State) (p : Fin 8) : Bool := s.house.ready.getLsbD (53 + p.val) && s.house.ready.getLsbD (64 + p.val)

/-- A change to an event port. -/
def State.updPort (s : State) (p : Fin 8) (f : EvPort → EvPort) : State := { s with epcfg := wr s.epcfg p (f (rd s.epcfg p)) }

/-- A word discarded and counted. -/
def State.countCrc (s : State) (p : Fin 8) : State := s.updPort p (fun (x : EvPort) => { x with crce := hold 0xFFFF (x.crce + 1) })

/-- The timestamp of an event (R399): never in the future, never before the source's last timestamp or watermark. -/
def eventTime (x : EvPort) (y : SubSrc) (now : Word) (st : BitVec 48) : Word × Bool :=
  let a := x.anchor.getD (now, 0)
  let ts := if x.cfg.getLsbD 1 then a.1 + (st - a.2).setWidth 32 else now
  let ts := if tsLt now ts then now else ts
  let floors := y.last.toList ++ y.wm.toList
  if floors.any (tsLt ts) then
    match floors with
    | f :: fs => (fs.foldl tsMax f, true)
    | [] => (ts, false)
  else (ts, false)

/-- An event word of a port: stamped and emitted, or discarded and counted. -/
def State.eventWord (s : State) (p : Fin 8) (w : Dbl) : State :=
  let x := rd s.epcfg p
  match df w 62 2 with
  | 0 =>
    let j : Fin 8 := Fin.ofNat 8 (df w 58 3)
    let cfg := rd x.src j
    if cfg.getLsbD 31 = false then s.countCrc p
    else if 4096 ≤ s.portFill p then s.updPort p (fun (x : EvPort) => { x with drop := hold 0xFFFF (x.drop + 1) })
    else
      let st := x.st + BitVec.ofNat 48 (df w 48 10)
      let (ts, raised) := eventTime x (rd x.sub j) s.now st
      let s1 := s.updPort p (fun (x : EvPort) => { x with
        st := if x.cfg.getLsbD 1 then st else x.st
        back := if raised then hold 0xFFFF (x.back + 1) else x.back
        sub := wr x.sub j { rd x.sub j with last := some ts } })
      let val := BitVec.ofInt 32 (sint 16 (df w 32 16))
      s1.sendPacket (Fin.ofNat 384 (df cfg 22 9)) (.port p)
        (mkAep (df cfg 16 6) 0 (df cfg 0 16) 0 ts (BitVec.ofNat 32 (df w 0 32)) val) []
  | 1 =>
    let t : BitVec 48 := BitVec.ofNat 48 (df w 0 48)
    s.updPort p (fun (x : EvPort) => { x with st := t, anchor := some (s.now, t) })
  | _ => s.countCrc p

/-- `CSI2_PACKET`: a long packet of the port's data type whose checks pass gives its words in order; one that fails is
discarded whole and counted; others are discarded (R397). -/
def execCsi2Packet (p : Fin 8) (dtype : BitVec 6) (crcOk : Bool) (words : List Dbl) (s : State) : Out :=
  let x := rd s.epcfg p
  if !s.portUp p ∨ x.cfg.getLsbD 0 = false ∨ df x.cfg 2 6 ≠ dtype.toNat then .next s
  else if !crcOk then .next (s.countCrc p)
  else .next (words.foldl (fun s w => s.eventWord p w) s)

/-- `PORT_WATERMARK_PERIOD`: each valid sub-source of a port emits a watermark, LAG behind now, never falling (R399; 09
R227); while the port or its receiver is not ready, the period passes without one (R392). -/
def execPortWatermarkPeriod (p : Fin 8) (s : State) : Out :=
  let x := rd s.epcfg p
  if x.cfg.getLsbD 0 = false then .next s
  else if !s.portUp p then .next (s.startPort p)
  else
    let w := s.now - BitVec.ofNat 32 (df x.cfg 22 16)
    let s1 := (List.finRange 8).foldl (fun s j =>
      let y := rd x.sub j
      if (rd x.src j).getLsbD 31 = false ∨ y.wm.any (fun l => !tsLt l w) then s
      else (s.updPort p (fun (x : EvPort) => { x with sub := wr x.sub j { rd x.sub j with wm := some w } })).routeMark (.port p)
        (BitVec.ofNat 16 (df (rd x.src j) 0 16)) w) s
    .next (s1.startPort p)

/-! ### GPIO and timers (R401) -/

/-- A GPIO unit's event. -/
def State.gpioEmit (s : State) (i : Fin 32) (ts val : Word) : State :=
  let x := rd s.gpcfg i
  s.sendPacket (Fin.ofNat 384 (df x 9 9)) (.gpio i)
    (mkAep (df x 3 6) 0 (0x1000 + i.val) 0 ts (BitVec.ofNat 32 i.val) val) []

/-- `GPIO_EDGE`: an edge that a pin's mode captures, held for its debounce time (R401). -/
def execGpioEdge (i : Fin 32) (level : Bool) (edge held : Nat) (s : State) : Out :=
  let x := rd s.gpcfg i
  let wanted := if level then df x 0 1 == 1 else df x 1 1 == 1
  if !s.house.ready.getLsbD 76 ∨ x.getLsbD 2 ∨ wanted = false ∨ held < 10 * df x 18 10 then .next s
  else .next (s.gpioEmit i (BitVec.ofNat 32 (edge / 1000)) (if level then 1 else 0))

/-- `GPIO_TIMER_PERIOD`: a timer emits at each multiple of its period (R401). -/
def execGpioTimerPeriod (i : Fin 32) (s : State) : Out :=
  let x := rd s.gpcfg i
  let per := gpPeriod x
  let n := rd s.gpNext i
  if !s.house.ready.getLsbD 76 ∨ gpTimer x = false then .next s
  else if s.dt < 1000 * n * per then .next (s.postOnce (1000 * n * per - s.dt) (.gpioTimerPeriod i))
  else
    let s1 := s.gpioEmit i (BitVec.ofNat 32 (n * per)) (BitVec.ofNat 32 n)
    .next (({ s1 with gpNext := wr s1.gpNext i (n + 1) } : State).postOnce (1000 * (n + 1) * per - s.dt) (.gpioTimerPeriod i))

/-- `GPIO_WATERMARK_PERIOD`: an enabled unit's watermark, behind the edges that its debounce may still hold (R401). -/
def execGpioWatermarkPeriod (i : Fin 32) (s : State) : Out :=
  let x := rd s.gpcfg i
  if !s.house.ready.getLsbD 76 ∨ gpOn x = false then .next s
  else
    let w := BitVec.ofNat 32 ((s.dt - 10 * df x 18 10) / 1000)
    .next ((s.routeMark (.gpio i) (BitVec.ofNat 16 (0x1000 + i.val)) w).postOnce 10000 (.gpioWatermarkPeriod i))

/-! ### CAN FD (R402) -/

/-- Whether a controller's filter admits a frame. -/
def canMatches (ev flt : Dbl) (f : CanFrame) : Bool :=
  let fmt := df ev 1 2
  ev.getLsbD 0 && !f.bad && (fmt == 2 || (fmt == 1) == f.ext) && (!f.remote || ev.getLsbD 3) &&
  Nat.land (Nat.xor f.ident.toNat (df flt 0 29)) (df flt 32 29) == 0

/-- `CAN_FRAME_EVENT`: a frame has ended; a received one that matches is emitted as an event (R402). -/
def execCanFrameEvent (c : Fin 4) (f : CanFrame) (s : State) : Out :=
  let ev := rd s.canev c
  let s : State := { s with canSof := wr s.canSof c none }
  if !s.house.ready.getLsbD (72 + c.val) ∨ canMatches ev (rd s.canflt c) f = false then .next s
  else
    let addr := f.ident.toNat + (if f.ext then 2 ^ 31 else 0)
    .next (s.sendPacket (Fin.ofNat 384 (df ev 10 9)) (.can c)
      (mkAep (df ev 4 6) 0 (0x1040 + c.val) 0 (BitVec.ofNat 32 (f.sof / 1000)) (BitVec.ofNat 32 addr)
        (BitVec.ofNat 32 (ofBytes (f.data.take 4)))) [])

/-- Before what no later event of a controller is stamped: now, or the start of the frame that is under way (R227, R402). -/
def State.canFloor (s : State) (c : Fin 4) : Word :=
  match rd s.canSof c with
  | some t => BitVec.ofNat 32 (t / 1000)
  | none => s.now

/-- `CAN_WATERMARK_PERIOD`: an enabled controller's watermark (R402). -/
def execCanWatermarkPeriod (c : Fin 4) (s : State) : Out :=
  if !s.house.ready.getLsbD (72 + c.val) ∨ (rd s.canev c).getLsbD 0 = false then .next s
  else .next ((s.routeMark (.can c) (BitVec.ofNat 16 (0x1040 + c.val)) (s.canFloor c)).postOnce 10000 (.canWatermarkPeriod c))

/-! ### Physical addresses of the application cores (R393, R394) -/

/-- Whether `n` bytes at a physical address lie in installed LPDDR-6, carve-out included. -/
def inDram (a n : Nat) : Bool :=
  decide (a < 2 ^ 48) && decide (a % 2 ^ 47 + n ≤ installed (a / 2 ^ 47))

/-- Whether `n` bytes at a physical address lie in the part of a slice that programs can address. -/
def inSlice (a n : Nat) : Bool :=
  let o := a - sliceBase
  decide (sliceBase ≤ a) && decide (o < 2 ^ 30) && decide (o / 2 ^ 21 % 256 < 192) && decide (o % 2 ^ 21 + n ≤ sliceTop)

/-- The network interface of a physical address: its home's, or its slice's. -/
def niOfPhys (a : Nat) : Fin 400 :=
  if a < 2 ^ 48 then niOfHome (Fin.ofNat 16 (8 * (a / 2 ^ 47) + fold3 (a % 2 ^ 47)))
  else match coreOfTile ((a - sliceBase) / 2 ^ 21) with
    | some c => niOfCore c
    | none => 0

/-- A bus error, logged with its cause at the tile that the model takes where the spec names none (log entry 32): 4 outside the
map, 6 a home that is not ready (R386, R393). -/
def State.busFault (s : State) (a : Nat) (wr' : Bool) (cause : Nat := 4) : State :=
  let (f, s1) := s.free
  let s2 := s1.logAt (niOfCore 0) (vlogWord (BitVec.ofNat 64 a) (BitVec.ofNat 16 (fld f.toNat 0 16)) 0x1FF wr' false cause s1.now)
  { s2 with host := { s2.host with busError := true } }

/-- An uncorrectable word met by a read from outside the cores: a bus error, logged at its home (R386, R393). -/
def State.busBad (s : State) (a : Nat) : State :=
  let (f, s1) := s.free
  let s2 := s1.logAt (niOfPhys a) (vlogWord (BitVec.ofNat 64 a) (BitVec.ofNat 16 (fld f.toNat 0 16)) 0x1FF false false 5 s1.now)
  { s2 with host := { s2.host with busError := true } }

/-- Whether a version record's line is the one at a physical address. -/
def State.holdsPhys (s : State) (v : VRec) (phys : Nat) : Bool :=
  match v.sliceOf with
  | some c => slicePhys c (64 * v.line.toNat) / 64 == phys / 64
  | none =>
    let va : Dbl := BitVec.ofNat 64 (64 * v.line.toNat)
    match s.walkLeaf v.asid va with
    | .ok l => (s.leafFrame va l).any (fun f => (f + (va.toNat - alignDown va.toNat l.size)) / 64 == phys / 64)
    | .error _ => false

/-- Bytes written from outside the cores at a physical address: tags clear, L0 copies go, and tasks that have read a line of them
under some alias fall as at any write that becomes ordinary memory (R394; 16 R306; 18 R322). -/
def State.hostWrite (s : State) (a : Nat) (bs : List Byte) : State :=
  let lines := (List.range ((a + bs.length + 63) / 64 - a / 64)).map (fun i => a / 64 + i)
  let hit := s.vers.filter (fun v => v.mark && lines.any (fun i => s.holdsPhys v (64 * i)))
  hit.foldl (fun s v => s.ordinaryWrite { home := v.home, asid := v.asid, line := v.line, sliceOf := v.sliceOf })
    (lines.foldl State.dropLine (s.physWrite a bs))

/-- `CAPABILITY_STORE`: CDATA stored with its tag, or refused (R396), as it is where its home is not ready (R392; log entry
61). -/
def State.storeCap (s : State) (addr : Dbl) : State :=
  let a := 16 * df addr 4 52
  let tag := addr.getLsbD 0
  let v := s.host.cdata
  let e := qf v 98 6
  let refused : Bool := (tag && qf v 114 14 != 0) || (decide (48 ≤ e) && decide (e ≤ 62)) || !(backed a 16 || inSlice a 16)
  let refuse := fun (s : State) => { s with host := { s.host with caddr := addr, cstat := 3 } }
  if refused then refuse s
  else if !s.homesReady a 16 then refuse (s.busFault a true 6)
  else
    let s1 := s.hostWrite a (toBytes 16 v.toNat)
    { s1 with tags := tagSet s1.tags a tag, host := { s1.host with caddr := addr, cstat := 1 } }

/-- `CAPABILITY_STORE` (R396). -/
def execCapabilityStore (addr : Dbl) (s : State) : Out := .next (s.storeCap addr)

/-! ### Attestation (R406) -/

/-- Some bytes that the spec leaves open put after known ones, up to a length. -/
def padFree (bs : List Byte) (n : Nat) (f : VReg) : List Byte := (bs ++ freeBytes f n).take n

/-- The report of a request record, from its byte 128; a request that waits on the bus is taken next (R406). An image that has
not been read has a free value for its digest. -/
def State.attest (s : State) (addr : Dbl) : State :=
  let a := addr.toNat
  let finish := fun (s : State) (code : Nat) =>
    match s.host.waiting with
    | [] => { s with host := { s.host with attest := BitVec.ofNat 64 (2 ^ 4 * code) } }
    | w :: ws => ({ s with host := { s.host with attest := 1, waiting := ws } } : State).post 1000 (.attestationRequest w)
  if !(backed a 4096 || inSlice a 4096) then finish s 1
  else if !s.homesReady a 4096 then finish (s.busFault a false 6) 1
  else if poisoned s.poison a 72 then finish (s.busBad a) 1
  else
    let rq := memRead s.mem a 72
    let kind := ofBytes (part rq 64 4)
    let g := (s.grid (BitVec.ofNat 32 (ofBytes (part rq 68 4)))).filter (fun (g : Grid) => !g.ended)
    if 1 < kind then finish s 1
    else if kind = 1 ∧ g.isNone then finish s 2
    else
      let (f1, s1) := s.free
      let (f2, s2) := s1.free
      let (f3, s3) := s2.free
      let d := if kind = 0 then s.house.images.toList.flatMap (fun o => o.getD (freeBytes f1 64)) else (g.map (fun (g : Grid) => g.digests)).getD []
      let open' := freeBytes f1 128 ++ freeBytes f2 128 ++ freeBytes f3 128
      let body := part rq 0 64 ++ padFree (Config.shake256 Config.deviceKey) 64 f1 ++ (d ++ open').take 384
      finish (s3.hostWrite (a + 128) (body ++ padFree (Config.mldsaSign body) 3309 f2)) 0

/-- `ATTESTATION_REQUEST` (R406). -/
def execAttestationRequest (addr : Dbl) (s : State) : Out := .next (s.attest addr)

/-! ### The housekeeping space (R395) -/

/-- First address of the housekeeping space. -/
def houseBase : Nat := 2 ^ 49

/-- What an offset of the housekeeping space is. -/
inductive HouseAt where
  | cdata (o : Nat) | caddr | cstat | mailbox | mailStat | key (o : Nat)
  | lpaddr (d : Fin 2) | lpstat (d : Fin 2)
  | reg (c : CoreId) (n o : Nat) | strandReg | nothing

/-- The housekeeping space decoded. -/
def houseAt (off n : Nat) : HouseAt :=
  let reg := fun (c : CoreId) (k o : Nat) (pkg : Bool) =>
    if 16 < o + n then HouseAt.nothing
    else if k < 0x20 then .strandReg
    else if isPackageReg k ∨ (isCoreReg k ∧ !pkg) then .reg c k o
    else .nothing
  if 0x100 ≤ off ∧ off + n ≤ 0x110 then .cdata (off - 0x100)
  else if off = 0x110 then .caddr
  else if off = 0x118 then .cstat
  else if off = 0x1000 then .mailbox
  else if off = 0x1008 then .mailStat
  else if 0x2000 ≤ off ∧ off + n ≤ 0x2000 + 1952 then .key (off - 0x2000)
  else if off = 0x10000 ∨ off = 0x10100 then .lpaddr (Fin.ofNat 2 ((off - 0x10000) / 0x100))
  else if off = 0x10008 ∨ off = 0x10108 then .lpstat (Fin.ofNat 2 ((off - 0x10000) / 0x100))
  else if 0x20000 ≤ off ∧ off < 0x20000 + 16 * 1024 then
    let k := (off - 0x20000) / 16
    reg 0 k (off % 16) true
  else if 0x100000 ≤ off ∧ off < 0x100000 + 0x4000 * 384 then
    let r := off - 0x100000
    reg (Fin.ofNat 384 (r / 0x4000)) (r % 0x4000 / 16) (off % 16) false
  else .nothing

/-- The bytes of a register's slot with `n` of them replaced from offset `o`. -/
def slotPut (old : Quad) (o n : Nat) (d : Quad) : Quad :=
  let keep := ~~~(BitVec.ofNat 128 ((2 ^ (8 * n) - 1) * 2 ^ (8 * o)))
  (old &&& keep) ||| BitVec.ofNat 128 (d.toNat % 2 ^ (8 * n) * 2 ^ (8 * o))

/-- A write to the housekeeping space; what is read only or a strand's own discards it. -/
def State.houseWrite (s : State) (off n : Nat) (d : Quad) : Option State :=
  let w : Dbl := d.setWidth 64
  match houseAt off n with
  | .cdata o => some { s with host := { s.host with cdata := slotPut s.host.cdata o n d } }
  | .caddr => some (s.storeCap w)
  | .mailbox =>
    if s.host.attest.getLsbD 0 then some { s with host := { s.host with waiting := s.host.waiting ++ [w] } }
    else some (({ s with host := { s.host with attest := 1 } } : State).post 1000 (.attestationRequest w))
  | .lpaddr dd => some (s.post 100 (.launchPortWrite dd w))
  | .reg c k o =>
    if k = 0x1E8 then some s
    else match s.writeReg c k { val := slotPut (s.readReg c k).1.val o n d, tag := false } with
      | .ok s1 => some s1
      | .error _ => some s
  | .cstat | .mailStat | .key _ | .lpstat _ | .strandReg => some s
  | .nothing => none

/-- A read of the housekeeping space. What a write-only register reads as is a free value. -/
def State.houseRead (s : State) (off n : Nat) : Option (Nat × State) :=
  let cut := fun (x : Nat) => x % 2 ^ (8 * n)
  match houseAt off n with
  | .cdata _ | .caddr | .mailbox | .lpaddr _ => let (f, s1) := s.free; some (fld f.toNat 0 (8 * n), s1)
  | .cstat => some (cut s.host.cstat.toNat, s)
  | .mailStat => some (cut s.host.attest.toNat, s)
  | .key o => some (ofBytes (part Config.deviceKey o n), s)
  | .lpstat d => some (cut (rd s.launch d).lpstat.toNat, s)
  | .reg c k o => let r := s.readReg c k; some (cut (r.1.val.toNat / 2 ^ (8 * o)), r.2)
  | .strandReg => some (0, s)
  | .nothing => none

/-! ### Accesses from outside (R393-R395, R405; 18 R334, R335) -/

/-- Whether a physical byte range lies in memory that the application cores reach. -/
def hostReach (a n : Nat) : Bool := inDram a n || inSlice a n

/-- `APP_CORE_ACCESS`: a load or store of an application core, performed at the byte's home; outside the map a bus error
(R393-R395). A load of the tag carve-out gives 0 and a store there is discarded (R404). -/
def execAppCoreAccess (x : AppAccess) (s : State) : Out :=
  let ok := fun (s : State) (v : Nat) => Host.Outcome.next { s with host := { s.host with answer := BitVec.ofNat 128 v, busError := false } }
  if houseBase ≤ x.addr then
    let off := x.addr - houseBase
    if x.write then
      match s.houseWrite off x.size x.data with
      | some s1 => .next { s1 with host := { s1.host with busError := false } }
      | none => .next (s.busFault x.addr true)
    else match s.houseRead off x.size with
      | some (v, s1) => ok s1 v
      | none => .next (s.busFault x.addr false)
  else if !hostReach x.addr x.size then .next (s.busFault x.addr x.write)
  else if x.addr < 2 ^ 48 ∧ !backed x.addr x.size then
    if x.write then .next { s with host := { s.host with busError := false } } else ok s 0
  else if !s.homesReady x.addr x.size then .next (s.busFault x.addr x.write 6)
  else if x.write then
    let s1 := s.hostWrite x.addr (toBytes x.size x.data.toNat)
    .next { s1 with host := { s1.host with busError := false } }
  else if poisoned s.poison x.addr x.size then .next (s.busBad x.addr)
  else ok s (memNat s.mem x.addr x.size)

/-- Whether an inbound window of PCIe shows `n` bytes at a physical address (R405). -/
def State.shown (s : State) (a n : Nat) : Bool := s.host.inbound.toList.any (fun w => decide (w.1 ≤ a) && decide (a + n ≤ w.1 + w.2))

/-- The parts of a write at their homes: one whose home is not ready is answered with an error and logged (R386). -/
def State.inboundParts (s : State) : List (Dbl × Nat) → List Byte → State
  | [], _ => s
  | (a, n) :: ps, bs =>
    (if s.homeReady a.toNat then s.hostWrite a.toNat (bs.take n) else s.busFault a.toNat true 6).inboundParts ps (bs.drop n)

/-- A write through BAR0, in parts of at most one 16-byte slot of the housekeeping space each. -/
def State.bar0Parts (s : State) : Nat → Nat → List Byte → State
  | 0, _, _ => s
  | fuel + 1, off, bs =>
    if bs.isEmpty then s
    else
      let n := min bs.length (16 - off % 16)
      let s1 := match s.houseWrite off n (BitVec.ofNat 128 (ofBytes (bs.take n))) with
        | some s1 => s1
        | none => s.busFault (houseBase + off) true
      s1.bar0Parts fuel (off + n) (bs.drop n)

/-- `PCIE_INBOUND_WRITE`: a requester's write performed at its homes: memory that an inbound window shows through BAR2, the
housekeeping space through BAR0; elsewhere logged (R393, R405; 18 R335). Events of one requester stand in its order on the
agenda; `relaxed` ones may be put anywhere. -/
def execPcieInboundWrite (addr : Nat) (bytes : List Byte) (_relaxed : Bool) (s : State) : Out :=
  if !s.house.ready.getLsbD 63 then .next s
  else if houseBase ≤ addr then
    .next (s.bar0Parts bytes.length (addr - houseBase) bytes)
  else if s.shown addr bytes.length ∧ backed addr bytes.length then
    .next (s.inboundParts (partsOf (BitVec.ofNat 64 addr) bytes.length) bytes)
  else .next (s.busFault addr true)

/-- A read by a PCIe requester, through BAR0 or BAR2, as an application core's load answers it (R405; log entry 69). -/
def State.pcieRead (s : State) (addr n : Nat) : State :=
  if !s.house.ready.getLsbD 63 then s
  else if houseBase ≤ addr ∨ (s.shown addr n ∧ backed addr n) then
    match execAppCoreAccess { addr := addr, size := n, write := false, data := 0 } s with
    | .next t => t
    | _ => s
  else s.busFault addr false

/-- A granule of a linked peer's `get` or `give`, by its place in this package's global region: translated at its home under
the ASID of the same number and read, its bytes given to the peer, or written; one that fails is answered with an error and
logged at its home (R405; 20 R365). -/
def State.peerServe (s : State) (asid : BitVec 16) (va : Dbl) (n : Nat) (data : Option (List Byte)) : State :=
  let w : Who := { core := 0, asid := asid, eng := true }
  let m : Mode := if data.isSome then .write else .read
  let fail := fun (f : FaultInfo) =>
    let s1 := s.logAt ((niOfVa f.va).getD 0) (vlogWord f.va asid 0x1FF f.write true f.log s.now)
    { s1 with host := { s1.host with busError := true } }
  if !s.house.ready.getLsbD 63 ∨ !Config.peerLinked then s
  else match s.translateAll w false m (partsOf (BitVec.ofNat 64 (df va 0 48)) n) with
    | .error (f, _) => fail f
    | .ok (ts, s1) =>
      match data with
      | some bs => let s2 := s1.writeParts w ts bs; { s2 with host := { s2.host with busError := false } }
      | none => match s1.readParts w m ts with
        | .error (f, _) => fail f
        | .ok bs => { s1 with host := { s1.host with answer := BitVec.ofNat 128 (ofBytes (bs.map (·.1))), busError := false } }

end Sys2Proof.Machine
end

