-- ==== Sys2Proof/Machine/Spec.lean ====
section
/-! DEFINITION. Speculative commit: spawns, ends and aborts of tasks, the frontier, commits, deferred operations, and
tasks that become irrevocable (07 R201; 15 R298; 16 R303-R312). -/

namespace Sys2Proof.Machine

/-! ### Instructions (R201) -/

/-- A domain number of a register, of a domain that the issuing strand's grid holds. -/
def State.myDomain (s : State) (v : CVal) : Except Stop (Fin 8) := do
  need (qf v.val 3 125 == 0) .ill
  let d : Fin 8 := Fin.ofNat 8 (qf v.val 0 3)
  need (s.me.work.grid.isSome && (rd s.doms d).grid == s.me.work.grid) .capp
  pure d

/-- What `tfront` gives while a domain has no task: one more than the highest timestamp it has taken, or 0 (R298). -/
def Domain.past (x : Domain) : BitVec 48 := match x.highest with | some t => t + 1 | none => 0

/-- `tspawn`: a task of its record's domain at c[b]'s timestamp, in the issuing cluster's queue (R201). -/
def execTspawn (g : Fin 8) (a b : Fin 64) (s : State) : Out := issue g 4 s fun s => do
  let (r, s) ← s.useC a
  let (v, s) ← s.useX b
  let (x, s) ← s.loadRec r
  checkRec x true
  let d := x.domain
  let dom := rd s.doms d
  need (s.me.work.grid.isSome && dom.grid == s.me.work.grid) .capp
  let ts : BitVec 48 := v.setWidth 48
  let low := dom.frontier.getD dom.past
  need (!(dom.tasks.any (fun t => t.ts == ts)) && decide (low ≤ ts) &&
    (dom.highest.isNone || !dom.tasks.isEmpty || decide (dom.past ≠ 0))) .spec
  let win := (s.me.work.grid.bind s.grid).bind Grid.detWindow
  need (!x.det || win.isSome) .ill
  s.orderLoads
  s.orderStores
  let q := clusterOf s.cur.1
  let s ← s.turnInLine q (entryOf x s.me.asid s.me.work.grid s.cur.1)
  let (n, s) := s.nextSpawn
  let (id, s) := s.newId
  let e := entryOf ((x.withSeq n).withTs ts) s.me.asid s.me.work.grid s.cur.1
  let t : STask :=
    { id := id, ts := ts, st := .queued, parent := s.me.work.task, cluster := q, entry := s.nextId, core := none, reruns := 0, defer := [] }
  let s := s.updDom d (fun (y : Domain) => { y with
    tasks := y.tasks ++ [t]
    highest := some (match y.highest with | some h => if h < ts then ts else h | none => ts) })
  pure (s.pushNow q { e with task := some id, parkedBy := if x.det then win else none })

/-- `tdone`: the task is finished, and commits when it reaches the frontier; an irrevocable one ends here (R201, R303,
R310). -/
def execTdone (g : Fin 8) (s : State) : Out := issueN g 4 s fun s => do
  need s.me.work.task.isSome .ill
  need s.me.await.isNone .ill
  let s ← s.settleEnd
  let w := s.me.work
  let c := s.cur.1
  let s1 := s.release c s.cur.2
  match w.task with
  | none => pure (s1, .gone)
  | some id =>
    if w.irrevocable then
      let s2 := s1.updDom w.domain (fun (x : Domain) => { x with commits := hold 0xFFFFFFFF (x.commits + 1) })
      pure ((s2.dropTask w).entryEnds w, .gone)
    else
      let s2 := s1.updTask w.domain id (fun (t : STask) => { t with st := .finished, core := some c })
      pure (s2.pokeDomain w.domain, .gone)

/-- `tabort`: every task of the domain at or after the timestamp is aborted but an irrevocable one (R201, R310). -/
def execTabort (g : Fin 8) (a b : Fin 64) (s : State) : Out := issue g 4 s fun s => do
  let (v, s) ← s.useC a
  let (x, s) ← s.useX b
  let d ← s.myDomain v
  let ts : BitVec 48 := x.setWidth 48
  match s.me.work.task.bind s.task with
  | some (_, t) => need (decide (t.ts < ts)) .spec
  | none => pure ()
  pure (s.abortTasks d (((rd s.doms d).tasks.filter (fun t => decide (ts ≤ t.ts))).map (·.id)) .tabort)

/-- `tfront` (R201, R298). -/
def execTfront (g : Fin 8) (d a : Fin 64) (s : State) : Out := issue g 4 s fun s => do
  let (v, s) ← s.useC a
  let k ← s.myDomain v
  let x := rd s.doms k
  s.putX d (match x.frontier with
    | some t => t.setWidth 64
    | none => x.past.setWidth 64 ||| (1 <<< 63))

/-- `twaitc`: waits until no task at or below the timestamp is left (R201, R298). -/
def execTwaitc (g : Fin 8) (a b : Fin 64) (s : State) : Out := issue g 4 s fun s => do
  let (v, s) ← s.useC a
  let (x, s) ← s.useX b
  let d ← s.myDomain v
  let ts : BitVec 48 := x.setWidth 48
  if (rd s.doms d).tasks.any (fun t => decide (t.ts ≤ ts)) then throw (.wait s)
  pure s

/-! ### Versions become memory (R307) -/

/-- Where a record's line lies, under the name that the task stored through, translated and checked anew as the version
becomes ordinary memory; nothing where that name no longer admits a write (20 R366; 21 R368). -/
def State.versionAt (s : State) (v : VRec) (c : CoreId) : Option Nat × State :=
  let name := fun (va : Dbl) =>
    match s.translate { core := c, asid := v.owner, eng := false } false va .write with
    | (.ok t, s1) => (some t.phys, s1)
    | (.error _, s1) => (none, s1)
  match v.sliceOf, v.tileVa with
  | some t, none =>
    match (s.core t).protCheck { core := t, asid := v.owner, eng := false } (64 * v.line.toNat) .write with
    | .ok _ => (some (slicePhys t (64 * v.line.toNat)), s)
    | .error _ => (none, s)
  | some _, some va => name va
  | none, _ => name (v.line <<< 6)

/-- One version made ordinary memory: the bytes of its mask, and the tags of granules it holds in full. A join whose count
only atomics of the task have changed is not begun anew (14 R296). -/
def State.mergeVersion (s : State) (d : Fin 8) (c : CoreId) (v : VRec) : State :=
  if v.bytes.all Option.isNone then s
  else
    match s.versionAt v c with
    | (none, s1) => s1
    | (some a, s1) =>
      let s2 := v.bytes.zipIdx.foldl (fun s p => match p.1 with
        | some b =>
          let t := s.physWrite (a + p.2) [b]
          if v.plain.getLsbD p.2 then t else { t with joined := s.joined }
        | none => s) s1
      let s3 : State := { s2 with tags := v.tags.zipIdx.foldl (fun t p => if p.1 = some true then tagSet t (a + 16 * p.2) true else t) s2.tags }
      let key : LineKey := { home := v.home, asid := v.asid, line := v.line, sliceOf := v.sliceOf }
      (s3.commitWrite d key).dropL0 key (a / 64)

/-- A task's versions committed and its records freed, seen by others all at once. -/
def State.commitVersions (s : State) (d : Fin 8) (c : CoreId) (id : Nat) : State :=
  let mine := s.vers.filter (fun (v : VRec) => v.task == id)
  let s1 := mine.foldl (fun s v => s.mergeVersion d c v) s
  let s2 : State := { s1 with vers := s1.vers.filter (fun (v : VRec) => v.task != id) }
  mine.foldl (fun s v => s.postOnce 1 (.versionRecordFreed (Fin.ofNat 400 v.home))) s2

/-! ### Deferred operations (R308) -/

/-- An operation of a task that its commit issues as it is issued from the NI of a core, its event to come; `wid` is the
task's. -/
def State.commitOp (s : State) (d : Fin 8) (c : CoreId) (wid : Nat) (asid : BitVec 16) (job : Job) : State :=
  let (id, s1) := s.newId
  let o : Op :=
    { id := id, core := c, wid := wid, grid := (rd s.doms d).grid, asid := asid, token := none, dom := some d, deferred := false,
      job := job, todo := [], next := 0, buf := [], cur := none, idx := [], bad := [], handed := none, logged := false,
      failed := false }
  ({ s1 with ops := s1.ops ++ [o] } : State).post 1 (.quireUpdateAtHome id)

/-- The copy that a strand of a core has waiting for its index capability, under a new number (R310). -/
def State.renameAwait (s : State) (c : CoreId) (id n : Nat) : State :=
  let new := fun (x : Strand) => { x with await := x.await.map (fun i => if i = id then n else i) }
  s.updCore c (fun (x : Core) => { x with
    strands := vmap new x.strands
    saved := x.saved.map (fun (v : Saved) => { v with strand := new v.strand })
    recs := x.recs.map (fun (u : UpRec) => { u with strand := new u.strand }) })

/-- One deferred operation issued from the NI of a core: a message with the core's source, number and time of now, an engine
operation, an atomic. All take new numbers, so that those of one task are performed in its program order; `wid` is the
task's. A row-gather that still awaits its index capability starts when it is handed over. -/
def State.issueDeferred (s : State) (d : Fin 8) (c : CoreId) (wid : Nat) (x : Deferred) : State :=
  match x with
  | .send m words dest =>
    let word0 := (m.aep &&& ~~~(0xFFFF : Quad)) ||| BitVec.ofNat 128 (0x8000 + c.val)
    let a := (word0 &&& ~~~((0xFFFFFFFF : Quad) <<< 32)) ||| (s.now.setWidth 128 <<< 32)
    let r := s.codeMsg c dest a words m.wtype ((rd s.doms d).grid.map .grid)
    r.2.commitOp d c wid 0 (.msg r.1 dest)
  | .op id =>
    let (n, s0) := s.newId
    let s1 := s0.updOp id (fun (o : Op) => { o with id := n, deferred := false, core := c, wid := wid })
    match (s1.op n).map (fun (o : Op) => o.job) with
    | some (.quire _) => s1.post 100 (.quireUpdateAtHome n)
    | some (.copy g _ _ none) => if g.mode = 3 then s1.renameAwait c id n else s1.opGoOn n
    | some _ => s1.opGoOn n
    | none => s1
  | .amo p => s.commitOp d c wid p.asid (.amo p)

/-- A task's deferred operations issued, in its program order (R308). -/
def State.issueAll (s : State) (d : Fin 8) (c : CoreId) (t : STask) : State :=
  (t.defer.foldl (fun s x => s.issueDeferred d c t.id x) s).updTask d t.id (fun (t : STask) => { t with defer := [] })

/-- `TASK_COMMIT`: the finished task at the frontier commits; its deferred operations are issued after it, its entry is
given up (R307, R308). -/
def execTaskCommit (d : Fin 8) (s : State) : Out :=
  match (rd s.doms d).first with
  | none => .next s
  | some t =>
    if t.st ≠ .finished then .next s
    else
      let c := t.core.getD 0
      let s1 := (s.commitVersions d c t.id).issueAll d c t
      let s2 := s1.updDom d (fun (x : Domain) => { x with
        commits := hold 0xFFFFFFFF (x.commits + 1), tasks := x.tasks.filter (fun y => y.id != t.id) })
      let g := (s2.findEntry t.entry).bind (fun e => e.2.grid)
      .next (((s2.dropEntry t.cluster t.entry).gridCheck g).pokeDomain d)

/-! ### Irrevocable tasks (R309, R310) -/

/-- Whether the work of a task waits for a record or for room among its deferred operations. -/
def State.shortOf (s : State) (c : CoreId) (id : Nat) : Option Nat :=
  let here := (List.finRange 16).map (fun k => s.strand c k)
  let away := (s.core c).saved.map (fun (v : Saved) => v.strand)
  ((here ++ away).find? (fun (x : Strand) =>
    x.work.task == some id && s.vwait.any (fun p => p.2 == x.work.wid) && s.waitsAt c x)).map (fun x => x.work.wid)

/-- `TASK_IRREVOCABLE`: a running task that waits by R309 and is the frontier commits what it has, and goes on without
speculation (R310). -/
def execTaskIrrevocable (d : Fin 8) (s : State) : Out :=
  match (rd s.doms d).first with
  | none => .next s
  | some t =>
    match t.core with
    | none => .next s
    | some c =>
      match (if t.st = .running then s.shortOf c t.id else none) with
      | none => .next s
      | some wid =>
        let s1 := (s.commitVersions d c t.id).issueAll d c t
        let s2 := s1.updTask d t.id (fun (t : STask) => { t with st := .irrevocable })
        let s3 := s2.updWork c wid (fun (x : Strand) => { x with work := { x.work with irrevocable := true } })
        let s4 := s3.updEntry t.cluster t.entry (fun (e : TqEntry) => { e with irrevocable := true })
        let s5 : State := { s4 with vwait := s4.vwait.filter (fun p => p.2 != wid) }
        .next (s5.updDom d (fun (x : Domain) => { x with irrev := up16 x.irrev }))

/-- `VERSION_RECORD_FREED`: the longest-waiting access at the home is made again (R309). -/
def execVersionRecordFreed (h : Fin 400) (s : State) : Out :=
  match s.vwait.find? (fun p => p.1 == h.val) with
  | none => .next s
  | some p =>
    match (List.finRange 384).findSome? (fun c => (s.slotOf c p.2).map (fun k => (c, k))) with
    | some (c, k) => .next (s.updStrand c k (fun (x : Strand) => { x with st := if x.st = .waiting then .running else x.st }))
    | none => .next s

end Sys2Proof.Machine
end

