-- ==== Sys2Proof/Machine/ExactAcc.lean ====
section
/-! DEFINITION. Exact accumulators of clusters and memory homes (02 R58; 07 R202; 19 R359). -/

namespace Sys2Proof.Machine

/-! ### Handles (R202) -/

/-- Where an accumulator stands: a cluster's, or a memory home's. -/
inductive XPlace where
  | cluster (q : ClusterId)
  | home (h : HomeId)
  deriving DecidableEq, Repr

/-- The place a handle names, where its cluster is one. -/
def xPlaceOf (h : Quad) : Option XPlace :=
  if h.getLsbD 6 then some (.home (Fin.ofNat 16 (qf h 7 4)))
  else if qf h 11 5 < 24 then some (.cluster (Fin.ofNat 24 (qf h 11 5))) else none

/-- The index a handle names. -/
def xIndexOf (h : Quad) : Fin 64 := Fin.ofNat 64 (qf h 0 6)

/-- A handle. -/
def xHandle (p : XPlace) (i : Fin 64) (fmt gen : Nat) : Quad :=
  BitVec.ofNat 128 (i.val + (match p with | .home h => 2 ^ 6 + 2 ^ 7 * h.val | .cluster q => 2 ^ 11 * q.val) +
    2 ^ 16 * fmt + 2 ^ 32 * gen)

def State.xaccs (s : State) : XPlace → Vector XAcc 64
  | .cluster q => (s.cluster q).xacc
  | .home h => (rd s.homes h).xacc

def State.updXacc (s : State) (p : XPlace) (i : Fin 64) (f : XAcc → XAcc) : State :=
  match p with
  | .cluster q => s.updCluster q (fun (x : Cluster) => { x with xacc := wr x.xacc i (f (rd x.xacc i)) })
  | .home h => s.updHome h (fun (x : Home) => { x with xacc := wr x.xacc i (f (rd x.xacc i)) })

/-- An error response to a request that names a handle: logged, and a violation. It names no address: a free value. -/
def State.xError (s : State) (ni : Fin 400) (w : Who) (m : Mode) (cause : Nat) : FaultInfo × State :=
  let (f, s1) := s.free
  let e := mkFault .violation m (f.setWidth 64) cause
  (e, s1.logFault ni w e)

/-- The accumulator that a handle names for a party, or the error response (R202, R359; 21 R386, R387). -/
def State.xFind (s : State) (w : Who) (m : Mode) (h : Quad) : Except (FaultInfo × State) (XPlace × Fin 64) :=
  let bad := fun (ni : Fin 400) (n : Nat) => Except.error (s.xError ni w m n)
  match xPlaceOf h with
  | none => bad (niOfCore w.core) 8
  | some p =>
    let i := xIndexOf h
    let a := rd (s.xaccs p) i
    let good := a.used && a.asid == w.asid && a.gen.toNat == qf h 32 16 && a.fmt.toNat == qf h 16 2
    match p with
    | .home n =>
      if !s.house.ready.getLsbD (24 + n.val) then bad (niOfCore w.core) 6
      else if good then .ok (p, i) else bad (niOfHome n) 8
    | .cluster q => if good ∧ q = clusterOf w.core then .ok (p, i) else bad (niOfCore w.core) 8

/-- A request to an accumulator of the other die waits while no UCIe port is in service, and behind its tile's earlier
requests to that home (18 R332; 22 R392). -/
def State.reachesAcc (s : State) (p : XPlace) : Except Stop Unit :=
  match p with
  | .home h => if h.val / 8 ≠ dieOf s.cur.1 ∧ (!s.linked || s.behindPort h.val) then .error (.wait s) else .ok ()
  | .cluster _ => .ok ()

/-- Whether the running strand has an `xadd` on its way. -/
def State.addsPending (s : State) : Bool :=
  s.myCore.wpath.any (fun (p : Posted) => p.slot == s.cur.2 && p.wid == s.me.work.wid &&
    (match p.kind with | .xadd _ _ => true | _ => false))

/-! ### The instructions -/

/-- `xacq`: the lowest free accumulator, or FAIL (R202). -/
def execXacq (g : Fin 8) (d a : Fin 64) (s : State) : Out := issue g 4 s fun s => do
  s.notSpec
  let (v, s) ← s.useC a
  let fmt := qf v.val 5 2
  need (qf v.val 7 121 == 0 && fmt != 3) .ill
  let h : HomeId := Fin.ofNat 16 (qf v.val 1 4)
  let p : XPlace := if v.val.getLsbD 0 then .home h else .cluster (clusterOf s.cur.1)
  s.reachesAcc p
  if v.val.getLsbD 0 ∧ !s.house.ready.getLsbD (24 + h.val) then
    let e := s.xError (niOfCore s.cur.1) (s.whoOf s.cur.1 s.cur.2) .write 6
    throw (.upcall e.1 e.2)
  match (List.finRange 64).find? (fun i => !(rd (s.xaccs p) i).used) with
  | none => s.putC d (.plain (1 <<< 63))
  | some i =>
    let gen := (rd (s.xaccs p) i).gen + 1
    let s1 := s.updXacc p i (fun _ => { XAcc.free with
      used := true, fmt := BitVec.ofNat 2 fmt, asid := s.me.asid, grid := s.me.work.grid, gen := gen })
    s1.putC d (.plain (xHandle p i fmt gen.toNat))

/-- `xadd`: posted (R202; 04 R106). -/
def execXadd (g : Fin 8) (a b : Fin 64) (s : State) : Out := issue g 4 s fun s => do
  s.notSpec
  let (h, s) ← s.useC a
  let (x, s) ← s.useC b
  s.postAccess s.cur.1 s.cur.2 .null 0 (.xadd h.val x.val)

/-- `xrd`: after the strand's earlier `xadd`s (R58, R202). -/
def execXrd (g : Fin 8) (d a : Fin 64) (s : State) : Out := issue g 4 s fun s => do
  s.notSpec
  let (h, s) ← s.useC a
  if s.addsPending then throw .stall
  s.reachesAcc ((xPlaceOf h.val).getD (.cluster 0))
  match s.xFind (s.whoOf s.cur.1 s.cur.2) .read h.val with
  | .error e => throw (.upcall e.1 e.2)
  | .ok (p, i) => s.putF d (rd (s.xaccs p) i).read

/-- `xrel` (R202). -/
def execXrel (g : Fin 8) (a : Fin 64) (s : State) : Out := issue g 4 s fun s => do
  s.notSpec
  let (h, s) ← s.useC a
  if s.addsPending then throw .stall
  s.reachesAcc ((xPlaceOf h.val).getD (.cluster 0))
  match s.xFind (s.whoOf s.cur.1 s.cur.2) .write h.val with
  | .error e => throw (.upcall e.1 e.2)
  | .ok (p, i) => pure (s.updXacc p i (fun (x : XAcc) => { x with used := false, grid := none }))

/-- The input of an `xadd` in a format (R58). -/
def xInput (fmt : Nat) (x : Quad) : FVal :=
  match fmt with
  | 0 => (Fmt.f32.decode (qf x 0 32)).1
  | 1 => (Fmt.bf16.decode (qf x 0 16)).1
  | _ => (Fmt.f16.decode (qf x 0 16)).1

/-- `XADD_AT_HOME`: the value is added exactly, or the request gets an error response (R58, R202, R359). -/
def execXaddAtHome (c : CoreId) (id : Nat) (s : State) : Out :=
  atHome c id (.xaddAtHome c id) s fun s p =>
    match p.kind with
    | .xadd h x =>
      match s.xFind (p.who c) .write h with
      | .error e => .error (some e.1, e.2)
      | .ok (q, i) => .ok (s.updXacc q i (fun (a : XAcc) => a.add (xInput a.fmt.toNat x)))
    | _ => .ok s

end Sys2Proof.Machine
end

