-- ==== Sys2Proof/Machine/Exceptions.lean ====
section
/-! DEFINITION. What a strand meets before an instruction executes: a memory upcall for an earlier access, an illegal
word, a failed fetch (01 R24, R30; 03 R90; 04 R105, R106; 14 R285; 21 R381). -/

namespace Sys2Proof.Machine

/-- Whether a slot holds work that executes. -/
def Strand.active (x : Strand) : Bool := x.st == .running || x.st == .waiting

/-- `MEMORY_UPCALL`: for a posted access that failed, or for a due window whose access failed (R30, R106, R381). -/
def execMemoryUpcall (c : CoreId) (k : SlotId) (s : State) : Out :=
  let x := s.strand c k
  if !x.active then .next s
  else match x.postErr with
    | some f => .next ((s.recall c k).takeUpcall c k f true false 0)
    | none =>
      match firstFailed (x.wins.filter (fun w => w.left == 0)) with
      | some (f, pc) => .next (s.takeUpcall c k f false true pc)
      | none => .next s

/-- `ILLEGAL_INSTRUCTION`: the word at PCC fails a decode check, whatever its guard (R24), the reserved functions and LA
field of major 0x59 included (R285). -/
def execIllegalInstruction (c : CoreId) (k : SlotId) (s : State) : Out :=
  let x := s.strand c k
  if !x.active then .next s
  else match s.fetchInstr c k with
    | .ok (_, _, _, s1) => .next (s1.takeTrap c k .ill none)
    | .error _ => .next (s.takeTrap c k .ill none)

/-- `INSTRUCTION_FETCH_FAILURE`: the trap or the memory upcall that the fetch at PCC meets (R90). -/
def execInstructionFetchFailure (c : CoreId) (k : SlotId) (s : State) : Out :=
  if !(s.strand c k).active then .next s
  else match s.fetchInstr c k with
    | .error (.trap t a) => .next (s.takeTrap c k t a)
    | .error (.upcall f s1) => .next (s1.takeUpcall c k f false false 0)
    | _ => .next s

end Sys2Proof.Machine
end

