-- ==== Sys2Proof/Machine/Prefetch.lean ====
section
/-! DEFINITION. The prefetch unit of a core: its entries, triggers and kernels (13_streamers_gather_compression.md
R268-R273; 04 R117). A kernel runs whole in one event, on a strand of its own. -/

namespace Sys2Proof.Machine

/-! ### pfcfg, pfstop (R268, R269) -/

/-- The entry that c[a] names, which must be empty, of the strand's ASID, or the strand privileged. -/
def State.pfEntry (s : State) (a : CVal) : Except Stop (Fin 4) := do
  need (decide (a.val.toNat < 4)) .ill
  let i := Fin.ofNat 4 a.val.toNat
  need (match rd s.myCore.pf i with | none => true | some e => e.asid == s.me.asid || s.mySys) .capp
  pure i

/-- An entry written or emptied; its queued triggers are discarded. -/
def State.setPf (s : State) (i : Fin 4) (e : Option PfEntry) : State :=
  s.updCore s.cur.1 (fun (x : Core) => { x with
    pf := wr x.pf i e, pfPend := x.pfPend.filter (fun t => t.entry != i), pfq := x.pfq.filter (fun t => t.entry != i) })

/-- A capability among the bytes of a record. -/
def capIn (bs : List RByte) (o : Nat) : CVal :=
  { val := BitVec.ofNat 128 (ofBytes (((bs.drop o).take 16).map (·.1))), tag := ((bs[o]?).map (·.2)).getD false }

/-- `pfcfg` (R269). -/
def execPfcfg (g : Fin 8) (a b : Fin 64) (s : State) : Out := issue g 4 s fun s => do
  let (x, s) ← s.useC a
  let (r, s) ← s.useC b
  s.notSpec
  let i ← s.pfEntry x
  s.checkAccess r [.ld, .ldcap] r.addr 96 16
  let (bs, s) ← s.load s.cur.1 s.cur.2 s.nextId (r.has .local) r.addr 96
  let code := capIn bs 0
  let watch := capIn bs 16
  need (code.tag && watch.tag) .capt
  need (code.has .exec && watch.has .ld) .capp
  need (watch.base % 64 == 0 && watch.top % 64 == 0) .align
  pure (s.setPf i (some
    { code := code, watch := watch, asid := s.me.asid, par := [capIn bs 32, capIn bs 48, capIn bs 64, capIn bs 80] }))

/-- `pfstop` (R269). -/
def execPfstop (g : Fin 8) (a : Fin 64) (s : State) : Out := issue g 4 s fun s => do
  let (x, s) ← s.useC a
  s.notSpec
  let i ← s.pfEntry x
  pure (s.setPf i none)

/-! ### Triggers (R270) -/

/-- A counter of PFST raised: 0 RUNS, 1 TDROP, 2 KFLT, 3 PFXC (R273). -/
def State.pfCount (s : State) (c : CoreId) (i : Fin 4) : State :=
  s.updCore c (fun (x : Core) => { x with pfst := wr x.pfst i (hold 0xFFFF (rd x.pfst i + 1)) })

/-- `PREFETCH_TRIGGER`: the trigger of a line filled for a strand, made at the fill with the entry that watched the line
and the bytes that it brought, enters the core's queue, or is dropped where that is full (R270, R271). -/
def execPrefetchTrigger (c : CoreId) (va : Nat) (asid : BitVec 16) (s : State) : Out :=
  let mine := fun (t : PfTrig) => decide (t.line.toNat = va) && ((rd (s.core c).pf t.entry).map (·.asid) == some asid)
  match (s.core c).pfPend.find? mine with
  | none => .next s
  | some t =>
    let s1 := s.updCore c (fun (x : Core) => { x with pfPend := x.pfPend.eraseP mine })
    if 8 ≤ (s.core c).pfq.length then .next (s1.pfCount c 1)
    else .next ((s1.updCore c (fun (x : Core) => { x with pfq := x.pfq ++ [t] })).postOnce 1 (.prefetchKernel c))

/-! ### Kernels (R271, R272) -/

/-- What an instruction of a kernel is: an instruction with the c registers it names; a load of `n` bytes; a prefetch; the
kernel's end. -/
inductive KAct where
  | run (cs : List (Fin 64)) (f : State → Out)
  | load (g : Fin 8) (len : Nat) (d b : Fin 64) (off : Dbl) (n : Nat)
  | pfx (g : Fin 8) (a : Fin 64)
  | hend (g : Fin 8)

/-- The instructions that a kernel may execute (R272). -/
def kernelInstr : Instr → Option KAct
  | .add g d a b => some (.run [d, a, b] (execAdd g d a b))
  | .sub g d a b => some (.run [d, a, b] (execSub g d a b))
  | .and g d a b => some (.run [d, a, b] (execAnd g d a b))
  | .or g d a b => some (.run [d, a, b] (execOr g d a b))
  | .xor g d a b => some (.run [d, a, b] (execXor g d a b))
  | .andn g d a b => some (.run [d, a, b] (execAndn g d a b))
  | .sll g d a b => some (.run [d, a, b] (execSll g d a b))
  | .srl g d a b => some (.run [d, a, b] (execSrl g d a b))
  | .sra g d a b => some (.run [d, a, b] (execSra g d a b))
  | .rot g d a b => some (.run [d, a, b] (execRot g d a b))
  | .min g d a b => some (.run [d, a, b] (execMin g d a b))
  | .max g d a b => some (.run [d, a, b] (execMax g d a b))
  | .mul g d a b => some (.run [d, a, b] (execMul g d a b))
  | .mulh g d a b => some (.run [d, a, b] (execMulh g d a b))
  | .mulhU g d a b => some (.run [d, a, b] (execMulhU g d a b))
  | .div g d a b => some (.run [d, a, b] (execDiv g d a b))
  | .divU g d a b => some (.run [d, a, b] (execDivU g d a b))
  | .rem g d a b => some (.run [d, a, b] (execRem g d a b))
  | .remU g d a b => some (.run [d, a, b] (execRemU g d a b))
  | .clz g d a => some (.run [d, a] (execClz g d a))
  | .popc g d a => some (.run [d, a] (execPopc g d a))
  | .mov g d a => some (.run [d, a] (execMov g d a))
  | .sextB g d a => some (.run [d, a] (execSextB g d a))
  | .sextH g d a => some (.run [d, a] (execSextH g d a))
  | .sextW g d a => some (.run [d, a] (execSextW g d a))
  | .zextB g d a => some (.run [d, a] (execZextB g d a))
  | .zextH g d a => some (.run [d, a] (execZextH g d a))
  | .zextW g d a => some (.run [d, a] (execZextW g d a))
  | .addImm g d a i => some (.run [d, a] (execAddImm g d a i))
  | .addImmLiteral g d a i => some (.run [d, a] (execAddImmLiteral g d a i))
  | .andImm g d a i => some (.run [d, a] (execAndImm g d a i))
  | .andImmLiteral g d a i => some (.run [d, a] (execAndImmLiteral g d a i))
  | .orImm g d a i => some (.run [d, a] (execOrImm g d a i))
  | .orImmLiteral g d a i => some (.run [d, a] (execOrImmLiteral g d a i))
  | .xorImm g d a i => some (.run [d, a] (execXorImm g d a i))
  | .xorImmLiteral g d a i => some (.run [d, a] (execXorImmLiteral g d a i))
  | .sllImm g d a i => some (.run [d, a] (execSllImm g d a i))
  | .srlImm g d a i => some (.run [d, a] (execSrlImm g d a i))
  | .sraImm g d a i => some (.run [d, a] (execSraImm g d a i))
  | .rotImm g d a i => some (.run [d, a] (execRotImm g d a i))
  | .li g d i => some (.run [d] (execLi g d i))
  | .liLiteral g d i => some (.run [d] (execLiLiteral g d i))
  | .cmpi g c h a i => some (.run [a] (execCmpi g c h a i))
  | .cmpiLiteral g c h a i => some (.run [a] (execCmpiLiteral g c h a i))
  | .cmp g c h a b => some (.run [a, b] (execCmp g c h a b))
  | .cmpAnd g c h a b => some (.run [a, b] (execCmpAnd g c h a b))
  | .cmpOr g c h a b => some (.run [a, b] (execCmpOr g c h a b))
  | .gnot g h j => some (.run [] (execGnot g h j))
  | .gand g h j k => some (.run [] (execGand g h j k))
  | .gor g h j k => some (.run [] (execGor g h j k))
  | .sel g d a b h => some (.run [d, a, b] (execSel g d a b h))
  | .cbnd g d a b => some (.run [d, a, b] (execCbnd g d a b))
  | .cinc g d a b => some (.run [d, a, b] (execCinc g d a b))
  | .caddr g d a b => some (.run [d, a, b] (execCaddr g d a b))
  | .cperm g d a b => some (.run [d, a, b] (execCperm g d a b))
  | .ctagc g d a => some (.run [d, a] (execCtagc g d a))
  | .cgetBase g d a => some (.run [d, a] (execCgetBase g d a))
  | .cgetTop g d a => some (.run [d, a] (execCgetTop g d a))
  | .cgetLen g d a => some (.run [d, a] (execCgetLen g d a))
  | .cgetPerm g d a => some (.run [d, a] (execCgetPerm g d a))
  | .cgetTag g d a => some (.run [d, a] (execCgetTag g d a))
  | .cincImm g d a i => some (.run [d, a] (execCincImm g d a i))
  | .cincImmLiteral g d a i => some (.run [d, a] (execCincImmLiteral g d a i))
  | .cbndImm g d a i => some (.run [d, a] (execCbndImm g d a i))
  | .cbndImmLiteral g d a i => some (.run [d, a] (execCbndImmLiteral g d a i))
  | .j g o => some (.run [] (execJ g o))
  | .bgF g h o => some (.run [] (execBgF g h o))
  | .bgT g h o => some (.run [] (execBgT g h o))
  | .rep g l i => some (.run [] (execRep g l i))
  | .repLiteral g l i => some (.run [] (execRepLiteral g l i))
  | .repReg g l a => some (.run [a] (execRepReg g l a))
  | .nop g => some (.run [] (execNop g))
  | .ldB g d b l o => if l = 0 then some (.load g 4 d b (off6 o.val 1) 1) else none
  | .ldBLiteral g d b l o => if l = 0 then some (.load g 8 d b (o.signExtend 64) 1) else none
  | .ldH g d b l o => if l = 0 then some (.load g 4 d b (off6 o.val 2) 2) else none
  | .ldHLiteral g d b l o => if l = 0 then some (.load g 8 d b (o.signExtend 64) 2) else none
  | .ldW g d b l o => if l = 0 then some (.load g 4 d b (off6 o.val 4) 4) else none
  | .ldWLiteral g d b l o => if l = 0 then some (.load g 8 d b (o.signExtend 64) 4) else none
  | .ldD g d b l o => if l = 0 then some (.load g 4 d b (off6 o.val 8) 8) else none
  | .ldDLiteral g d b l o => if l = 0 then some (.load g 8 d b (o.signExtend 64) 8) else none
  | .hend g => some (.hend g)
  | _ => none

/-- A kernel's word as what it does, or none where R272 does not allow it; major 0x2F is read here for `pfx` alone. -/
def kernelAct (w lit : Nat) : Option KAct :=
  let m := majorOf w
  if m = 0x2F then
    if fld w 0 4 = 2 ∧ fld w 4 6 = 0 ∧ fld w 16 6 = 0 then some (.pfx (Fin.ofNat 8 (fld w 29 3)) (Fin.ofNat 64 (fld w 10 6)))
    else none
  else match earlyMajor m w lit with
    | some i => if i.wellFormed then kernelInstr i else none
    | none => none

/-- A capability whose bounds lie within the trigger line. -/
def capWithin (c : CVal) (line : Dbl) : Bool :=
  !c.has .local && decide ((line.toNat : Int) ≤ c.base) && decide (c.top ≤ (line.toNat : Int) + 64)

/-- A load of a kernel: from the line's bytes as they were delivered (R271, R272). -/
def kernelLoad (t : PfTrig) (g : Fin 8) (len : Nat) (d b : Fin 64) (off : Dbl) (n : Nat) (s : State) : Out :=
  issue g len s fun s => do
    let c := s.me.creg b
    let va := c.addr + off
    s.checkAccess c [.ld] va n n
    need (capWithin c t.line) .ill
    s.putC d (.plain (BitVec.ofNat 128 (ofBytes ((t.data.drop (va.toNat - t.line.toNat)).take n))))

/-- A prefetch of a kernel: as R117, but it triggers nothing (R270). -/
def kernelPfx (g : Fin 8) (a : Fin 64) (s : State) : Out := issue g 4 s fun s => do
  let c := s.me.creg a
  let s := s.pfCount s.cur.1 3
  match s.checkAccess c [.ld] c.addr 1 1 with
  | .error _ => pure s
  | .ok _ =>
    match s.translate (s.whoOf s.cur.1 s.cur.2) (c.has .local) c.addr .read with
    | (.error _, _) => pure s
    | (.ok t, s1) => pure (s1.l0Fill s.cur.1 s.me.asid t c.addr false)

/-- How a kernel's instruction leaves it. -/
inductive KNext where
  | on (s : State) | ended (s : State) | bad (s : State)

/-- The state after a kernel's instruction, which has trapped if TACT is set. -/
def kernelAfter (s : State) (o : Out) : KNext :=
  match o with
  | .next t => if t.me.tcause.getLsbD 31 then .bad t else .on t
  | _ => .bad s

/-- One instruction of a kernel (R272). One that is guarded off does not execute: of it, only a word that does not decode ends
the kernel (01 R24-R26; log entry 52). -/
def State.kernelStep (s : State) (t : PfTrig) : KNext :=
  match s.fetchInstr s.cur.1 s.cur.2 with
  | .error _ => .bad s
  | .ok (w, lit, len, s) =>
    let g : Fin 8 := Fin.ofNat 8 (w / 2 ^ 29)
    if !fits w then .bad s
    else if !s.me.guard g then kernelAfter s (issue g len s .ok)
    else match kernelAct w lit with
    | none => .bad s
    | some (.run cs f) => if cs.any (fun r => decide (15 < r.val)) then .bad s else kernelAfter s (f s)
    | some (.load g len d b off n) => if 15 < d.val ∨ 15 < b.val then .bad s else kernelAfter s (kernelLoad t g len d b off n s)
    | some (.pfx g a) => if 15 < a.val then .bad s else kernelAfter s (kernelPfx g a s)
    | some (.hend _) => .ended s

/-- A kernel's run of at most `n` more instructions (R272). -/
def State.kernelRun (t : PfTrig) : Nat → State → KNext
  | 0, s => .bad s
  | n + 1, s => match s.kernelStep t with
    | .on s1 => State.kernelRun t n s1
    | r => r

/-- The strand that a kernel starts with (R271); its trap vector serves only to show that it has trapped. -/
def kernelStrand (e : PfEntry) (t : PfTrig) : Strand :=
  let line := CVal.make t.line.toNat 64 [.ld]
  { Strand.reset with
    st := .running, asid := e.asid, pcc := e.code, tvec := CVal.make 0 4 [.exec]
    c := vofFn (fun (i : Fin 64) => match i.val with
      | 1 => line
      | 6 => CVal.plain (t.line.setWidth 128)
      | j + 2 => if j < 4 then (e.par[j]?).getD .null else .null
      | _ => .null) }

/-- `PREFETCH_KERNEL`: the oldest trigger's kernel, from its start to its end; the slot's own strand is untouched (R270-R273). -/
def execPrefetchKernel (c : CoreId) (s : State) : Out :=
  match (s.core c).pfq with
  | [] => .next s
  | t :: ts =>
    let s1 := s.updCore c (fun (x : Core) => { x with pfq := ts })
    let more := fun (s : State) => if ts.isEmpty then s else s.postOnce 1 (.prefetchKernel c)
    match rd (s.core c).pf t.entry with
    | none => .next (more s1)
    | some e =>
      let s2 := { (s1.pfCount c 0).setStrand c 0 (kernelStrand e t) with cur := (c, 0) }
      let back := fun (u : State) => { u.setStrand c 0 (s.strand c 0) with cur := s.cur }
      match State.kernelRun t 256 s2 with
      | .bad u => .next (more ((back u).pfCount c 2))
      | .on u | .ended u => .next (more (back u))

end Sys2Proof.Machine
end

