-- ==== Sys2Proof/Machine/Walk.lean ====
section
/-! DEFINITION. Walks of memory by the Proboscis engines (14_traversal_routing_tasks.md R280-R288; 21 R390). -/

namespace Sys2Proof.Machine

/-! ### Rule words (R282, R283) -/

/-- Fields of a rule word. -/
def ruleOp (r : Dbl) : Nat := df r 0 4
def ruleT1 (r : Dbl) : Nat := df r 4 4
def ruleT2 (r : Dbl) : Nat := df r 8 4
def ruleT3 (r : Dbl) : Nat := df r 12 4
def ruleOff (r : Dbl) : Nat := df r 16 16
def ruleKoff (r : Dbl) : Nat := df r 32 8
def ruleLen (r : Dbl) : Nat := df r 40 6
def ruleShift (r : Dbl) : Nat := df r 48 6

/-- The limits of a rule of a walk of `n` rules: every field its operation does not use is 0 (R282, R283). -/
def ruleOk (n : Nat) (r : Dbl) : Bool :=
  let t := fun (x : Nat) => decide (x < n)
  df r 46 2 == 0 && df r 54 10 == 0 &&
  match ruleOp r with
  | 0 => t (ruleT1 r) && t (ruleT2 r) && t (ruleT3 r) && decide (1 ≤ ruleLen r) &&
      decide (ruleLen r ≤ 32) && decide (ruleKoff r + ruleLen r ≤ 32) && ruleShift r == 0
  | 1 => t (ruleT1 r) && t (ruleT2 r) && ruleT3 r == 0 && ruleOff r % 8 == 0 && ruleKoff r == 0 && ruleLen r == 0 &&
      ruleShift r == 0
  | 2 => t (ruleT1 r) && ruleT2 r == 0 && ruleT3 r == 0 && ruleLen r == 0 && ruleKoff r % 8 == 0 &&
      decide (ruleKoff r ≤ 24) && decide (ruleShift r ≤ 32)
  | 3 => ruleT1 r == 0 && ruleT2 r == 0 && ruleT3 r == 0 && ruleKoff r == 0 && decide (1 ≤ ruleLen r) &&
      decide (ruleLen r ≤ 16) && ruleShift r == 0
  | 4 => ruleT1 r == 0 && ruleT2 r == 0 && ruleT3 r == 0 && ruleKoff r == 0 && ruleOff r == 0 && ruleLen r == 0 &&
      ruleShift r == 0
  | _ => false

/-! ### Engines (R280) -/

/-- The engine that serves an address: 0-15 the homes', 16-39 the clusters'; none where no memory stands. -/
def engineOf (va : Dbl) : Option Nat :=
  match df va 56 8 with
  | 0 => some (homeOfGlobal va.toNat).val
  | 1 => (coreOfTile (df va 47 9)).map (fun c => 16 + (clusterOf c).val)
  | _ => none

/-- A walk of an operation. -/
def Op.walk? (o : Op) : Option Walk := match o.job with | .walk w => some w | _ => none

/-- A change to a walk. -/
def State.updWalk (s : State) (id : Nat) (f : Walk → Walk) : State :=
  s.updOp id (fun (o : Op) => match o.job with | .walk w => { o with job := .walk (f w) } | _ => o)

/-- Slots of an engine that walks hold. -/
def State.slotsUsed (s : State) (e : Nat) : Nat :=
  (s.ops.filter (fun (o : Op) => o.walk?.any (fun w => w.slot && w.engine == e))).length

/-- Whether a walk may take a slot: one newly issued while 8 are free, a migrating one any free slot, and none before
another of its kind that has waited longer (R280, 09 R219). -/
def State.mayEnter (s : State) (id : Nat) (w : Walk) : Bool :=
  decide (s.slotsUsed w.engine + (if w.migrate then 1 else 8) ≤ 32) &&
  s.ops.all (fun (o : Op) => o.id == id || o.walk?.all (fun v =>
    !(v.engine == w.engine && v.migrate == w.migrate && match v.waitNo with
      | some n => w.waitNo.all (fun m => decide (n < m))
      | none => false)))

/-- `WALK_ARRIVAL`: a walk takes a slot of its engine, or is held by its sender until it may (R280). -/
def execWalkArrival (id : Nat) (s : State) : Out :=
  if s.house.frozen then .next (s.held (.walkArrival id))
  else match (s.op id).bind Op.walk? with
    | none => .next s
    | some w =>
      if w.slot ∨ w.result.isSome then .next s
      else if (s.op id).any s.awaitsIssuer then .next (s.post 20 (.walkArrival id))
      else if s.mayEnter id w then
        .next ((s.updWalk id (fun (w : Walk) => { w with slot := true, waitNo := none })).post 1 (.walkRule id))
      else
        let (n, s1) := s.newId
        .next ((s1.updWalk id (fun (w : Walk) => { w with waitNo := some (w.waitNo.getD n) })).post 50 (.walkArrival id))

/-! ### WALK_RULE (R283, R284, R287) -/

/-- The result word (R286). -/
def Walk.word (w : Walk) (token code cause : Nat) (p : Dbl) : Quad :=
  BitVec.ofNat 128 (code + 2 ^ 8 * w.rule + 2 ^ 16 * w.steps + 2 ^ 32 * cause + 2 ^ 40 * token + 2 ^ 64 * p.toNat)

/-- A walk ended: its slot freed, its result on its way. -/
def State.finishWalk (s : State) (o : Op) (w : Walk) (code cause : Nat) (p : Dbl) : State :=
  let t := (o.token.map (·.val)).getD 0
  (s.updWalk o.id (fun (v : Walk) => { v with slot := false, result := some (w.word t code cause p) })).post 50 (.walkEnd o.id)

/-- A failed access of a walk: handed back where it is a translation fault and the descriptor asks for it, else the end
(R287). A walk handed back leaves its slot and enters again as a migrating one does. -/
def State.walkFault (s : State) (o : Op) (w : Walk) (f : FaultInfo) : State :=
  match f.cause with
  | .translation =>
    if w.pol then (s.updWalk o.id (fun (v : Walk) => { v with slot := false, migrate := true })).opFault o f
    else s.finishWalk o w 3 1 f.va
  | .violation => s.finishWalk o w 3 2 f.va
  | .uncorrectable => s.finishWalk o w 3 3 f.va

/-- A walk that goes on with a rule. -/
def State.walkOn (s : State) (id : Nat) (f : Walk → Walk) : State := (s.updWalk id f).post 1 (.walkRule id)

/-- A rule that reads `n` bytes at an address: out of the arena or on the other die it ends the walk; at another engine
the walk migrates there, as a step; else the read goes to `k` (R284). -/
def State.walkRead (s : State) (o : Op) (w : Walk) (a : Dbl) (n al : Nat) (step : Bool)
    (k : State → List Byte → State) : State :=
  if !w.arena.inBounds a.toNat n ∨ (df a 56 8 ≤ 1 ∧ dieOfVa a ≠ dieOf o.core) ∨ a.toNat % al ≠ 0 then s.finishWalk o w 4 0 a
  else match engineOf a with
    | some e =>
      if e ≠ w.engine then
        if w.limit ≤ w.steps then s.finishWalk o w 2 0 w.p
        else (s.updWalk o.id (fun (v : Walk) =>
          { v with steps := w.steps + 1, idle := 0, slot := false, migrate := true, engine := e })).post 100 (.walkArrival o.id)
      else read
    | none => read
where
  read : State :=
    if step ∧ w.limit ≤ w.steps then s.finishWalk o w 2 0 w.p
    else match s.homeRead o.who false a n with
      | .error (f, s1) => s1.walkFault o w f
      | .ok (bs, s1) => k s1 (bs.map (·.1))

/-- The bucket address of HASH (R283). -/
def hashAt (w : Walk) (r : Dbl) : Dbl :=
  let x : Dbl := BitVec.ofNat 64 (ofBytes ((w.key.drop (ruleKoff r)).take 8))
  let z : Dbl := x * 0x9E3779B97F4A7C15
  let h : Dbl := if ruleShift r = 0 then 0 else z >>> (64 - ruleShift r)
  w.p + BitVec.ofNat 64 (ruleOff r) + 8 * h

/-- `WALK_RULE`: one rule of a walk (R283). -/
def execWalkRule (id : Nat) (s : State) : Out :=
  if s.house.frozen then .next (s.held (.walkRule id))
  else match s.op id with
    | none => .next s
    | some o => match o.walk? with
      | none => .next s
      | some w =>
        if !w.slot ∨ w.result.isSome then .next s
        else if 16 ≤ w.idle then .next (s.finishWalk o w 2 4 w.p)
        else
          let r := (w.rules[w.rule]?).getD 4
          let a := w.p + BitVec.ofNat 64 (ruleOff r)
          match ruleOp r with
          | 0 => .next (s.walkRead o w a (ruleLen r) 1 false (fun s bs =>
              let m := ofBytes bs
              let k := ofBytes ((w.key.drop (ruleKoff r)).take (ruleLen r))
              let t := if m = k then ruleT1 r else if m < k then ruleT2 r else ruleT3 r
              s.walkOn id (fun (v : Walk) => { v with rule := t, idle := w.idle + 1 })))
          | 1 => .next (s.walkRead o w a 8 8 true (fun s bs =>
              let x : Dbl := BitVec.ofNat 64 (ofBytes bs)
              s.walkOn id (fun (v : Walk) =>
                { v with p := (if x = 0 then w.p else x), rule := (if x = 0 then ruleT2 r else ruleT1 r), steps := w.steps + 1, idle := 0 })))
          | 2 => .next (s.walkOn id (fun (v : Walk) => { v with p := hashAt w r, rule := ruleT1 r, idle := w.idle + 1 }))
          | 3 => .next (s.walkRead o w a (16 * ruleLen r) 16 false (fun s bs =>
              if !w.dst.inBounds w.dst.addr.toNat bs.length then s.finishWalk o w 4 0 w.dst.addr
              else match s.homeWrite o.who false [(w.dst.addr, bs)] [] with
                | .error (f, s1) => s1.walkFault o w f
                | .ok s1 => s1.finishWalk o w 0 0 w.p))
          | _ => .next (s.finishWalk o w 1 0 w.p)

/-- `WALK_END`: the result enters the issuer's engine queue when it has room, then the token falls (R285). -/
def execWalkEnd (id : Nat) (s : State) : Out :=
  if s.house.frozen then .next (s.held (.walkEnd id))
  else match s.op id with
    | none => .next s
    | some o => match o.walk?.bind (·.result) with
      | none => .next s
      | some q =>
        if s.engqRoom o.core o.wid id then .next ((s.pushEngq o.core o.wid id q).endOp id)
        else .next (s.post 50 (.walkEnd id))

/-! ### pwalk (R281, R285) -/

/-- A walk from its descriptor's bytes, or nothing where a field is not allowed. -/
def walkOf (bs : List RByte) (start : CVal) (home : Nat) : Option Walk :=
  let b := bs.map (·.1)
  let dbl := fun (o : Nat) => (BitVec.ofNat 64 (ofBytes ((b.drop o).take 8)) : Dbl)
  let ctl := (dbl 176).toNat
  let n := fld ctl 20 4 + 1
  let limit := fld ctl 0 13
  let rules := (List.range n).map (fun i => dbl (8 * i))
  if limit = 0 ∨ 4096 < limit ∨ fld ctl 13 3 ≠ 0 ∨ fld ctl 17 3 ≠ 0 ∨ fld ctl 24 40 ≠ 0 ∨ (dbl 184) ≠ 0 ∨
     rules.all (ruleOk n) = false then none
  else some
    { rules := rules, key := (b.drop 128).take 32, limit := limit, pol := fld ctl 16 1 = 1
      dst := { val := BitVec.ofNat 128 (ofBytes ((b.drop 160).take 16)), tag := ((bs[160]?).map (·.2)).getD false }
      arena := start, engine := (engineOf start.addr).getD home, slot := false, waitNo := none, migrate := false
      rule := 0, p := start.addr, steps := 0, idle := 0, result := none }

/-- A capability without LOCAL on the issuing die. -/
def State.checkWalkCap (s : State) (c : CVal) (ps : List Perm) (al : Nat) : Except Stop Unit := do
  need c.tag .capt
  need (c.hasAll ps && !c.has .local) .capp
  if c.addr.toNat % al ≠ 0 then throw (.trap .align (some c.addr))
  if df c.addr 56 8 ≤ 1 ∧ dieOfVa c.addr ≠ dieOf s.cur.1 then throw (.trap .xdie (some c.addr))

/-- `pwalk` (R285). -/
def execPwalk (g k : Fin 8) (a b : Fin 64) (s : State) : Out := issue g 4 s fun s => do
  need s.me.await.isNone .ill
  let (d, s) ← s.useC a
  let (st, s) ← s.useC b
  s.checkAccess d [.ld, .ldcap] d.addr 192 64
  let (bs, s) ← s.load s.cur.1 s.cur.2 s.nextId (d.has .local) d.addr 192
  match walkOf bs st (16 + (clusterOf s.cur.1).val) with
  | none => throw (.t .ill)
  | some w =>
    s.checkWalkCap w.dst [.st, .eng] 16
    s.checkWalkCap st [.ld, .eng] 1
    s.notSpec
    s.engineFree
    pure (s.startOp (some k) (.walk w) [] .walkArrival)

end Sys2Proof.Machine
end

