-- ==== Sys2Proof/Machine/Dispatch.lean ====
section
/-! DEFINITION. One arm for each instruction and each event: a call of its meaning, or its rejection by name. -/

namespace Sys2Proof.Machine

/-- What an instruction, or an event of a unit, does to the state. -/
def exec (i : Instr) (s : State) : Host.Outcome State Fault Refusal :=
  match i with
  | .memoryUpcall c k => Sys2Proof.Machine.execMemoryUpcall c k s
  | .loadResponse c k id => Sys2Proof.Machine.execLoadResponse c k id s
  | .storeAtHome c id => Sys2Proof.Machine.execStoreAtHome c id s
  | .postedErrorResponse c id => Sys2Proof.Machine.execPostedErrorResponse c id s
  | .amoAtHome c id => Sys2Proof.Machine.execAmoAtHome c id s
  | .xaddAtHome c id => Sys2Proof.Machine.execXaddAtHome c id s
  | .joinDecrement c asid entry jo => Sys2Proof.Machine.execJoinDecrement c asid entry jo s
  | .taskCommit d => Sys2Proof.Machine.execTaskCommit d s
  | .taskIrrevocable d => Sys2Proof.Machine.execTaskIrrevocable d s
  | .versionRecordFreed h => Sys2Proof.Machine.execVersionRecordFreed h s
  | .messageArrival c m => Sys2Proof.Machine.execMessageArrival c m s
  | .refusalCallback c ch => Sys2Proof.Machine.execRefusalCallback c ch s
  | .messageResend c m => Sys2Proof.Machine.execMessageResend c m s
  | .sendAccepted c k => Sys2Proof.Machine.execSendAccepted c k s
  | .handlerChoice c => Sys2Proof.Machine.execHandlerChoice c s
  | .continuationTake c => Sys2Proof.Machine.execContinuationTake c s
  | .stealRound c => Sys2Proof.Machine.execStealRound c s
  | .stealRetryTimeout c => Sys2Proof.Machine.execStealRetryTimeout c s
  | .queuePushWait q => Sys2Proof.Machine.execQueuePushWait q s
  | .watermarkPublish c w => Sys2Proof.Machine.execWatermarkPublish c w s
  | .watermarkAtNi c src w => Sys2Proof.Machine.execWatermarkAtNi c src w s
  | .watermarkAtWindowUnit src w => Sys2Proof.Machine.execWatermarkAtWindowUnit src w s
  | .windowTargetPass k => Sys2Proof.Machine.execWindowTargetPass k s
  | .windowTimeout k => Sys2Proof.Machine.execWindowTimeout k s
  | .detApplyAtHome h k => Sys2Proof.Machine.execDetApplyAtHome h k s
  | .detReleaseAtQueue q k => Sys2Proof.Machine.execDetReleaseAtQueue q k s
  | .closePacketsSend k => Sys2Proof.Machine.execClosePacketsSend k s
  | .closePacketDelivery c p => Sys2Proof.Machine.execClosePacketDelivery c p s
  | .sheetTimeout q b => Sys2Proof.Machine.execSheetTimeout q b s
  | .sheetDone q b => Sys2Proof.Machine.execSheetDone q b s
  | .leaseGrant q => Sys2Proof.Machine.execLeaseGrant q s
  | .arrayTurn q => Sys2Proof.Machine.execArrayTurn q s
  | .arrayTurnEnd q => Sys2Proof.Machine.execArrayTurnEnd q s
  | .arrayCommandComplete q => Sys2Proof.Machine.execArrayCommandComplete q s
  | .arrayFillComplete q id => Sys2Proof.Machine.execArrayFillComplete q id s
  | .arraySpill q l => Sys2Proof.Machine.execArraySpill q l s
  | .arrayRestore q l => Sys2Proof.Machine.execArrayRestore q l s
  | .readoutDrain q id => Sys2Proof.Machine.execReadoutDrain q id s
  | .streamerPiece id n => Sys2Proof.Machine.execStreamerPiece id n s
  | .granuleWrite id n => Sys2Proof.Machine.execGranuleWrite id n s
  | .engineAck id n => Sys2Proof.Machine.execEngineAck id n s
  | .engineHandBack id => Sys2Proof.Machine.execEngineHandBack id s
  | .quireUpdateAtHome id => Sys2Proof.Machine.execQuireUpdateAtHome id s
  | .walkArrival id => Sys2Proof.Machine.execWalkArrival id s
  | .walkRule id => Sys2Proof.Machine.execWalkRule id s
  | .walkEnd id => Sys2Proof.Machine.execWalkEnd id s
  | .prefetchTrigger c va asid => Sys2Proof.Machine.execPrefetchTrigger c va asid s
  | .prefetchKernel c => Sys2Proof.Machine.execPrefetchKernel c s
  | .translationWalk ni asid va => Sys2Proof.Machine.execTranslationWalk ni asid va s
  | .tlbiAck id ni => Sys2Proof.Machine.execTlbiAck id ni s
  | .bridgeResend p => Sys2Proof.Machine.execBridgeResend p s
  | .preemptionSave c => Sys2Proof.Machine.execPreemptionSave c s
  | .strandRestore c k => Sys2Proof.Machine.execStrandRestore c k s
  | .launchValidation d => Sys2Proof.Machine.execLaunchValidation d s
  | .launchHeadTake d => Sys2Proof.Machine.execLaunchHeadTake d s
  | .launchPortWrite d addr => Sys2Proof.Machine.execLaunchPortWrite d addr s
  | .teamSliceExpiry grid u => Sys2Proof.Machine.execTeamSliceExpiry grid u s
  | .partitionPeriodStart p => Sys2Proof.Machine.execPartitionPeriodStart p s
  | .partitionBudgetStart p => Sys2Proof.Machine.execPartitionBudgetStart p s
  | .partitionBudgetEnd p => Sys2Proof.Machine.execPartitionBudgetEnd p s
  | .coreHardwareError c => Sys2Proof.Machine.execCoreHardwareError c s
  | .dieFatalFault d => Sys2Proof.Machine.execDieFatalFault d s
  | .gerrPop d => Sys2Proof.Machine.execGerrPop d s
  | .reset img => Sys2Proof.Machine.execReset img s
  | .functionReady b => Sys2Proof.Machine.execFunctionReady b s
  | .functionOutOfService b => Sys2Proof.Machine.execFunctionOutOfService b s
  | .throttleTick power => Sys2Proof.Machine.execThrottleTick power s
  | .overtemperature temp => Sys2Proof.Machine.execOvertemperature temp s
  | .gptpSync grand => Sys2Proof.Machine.execGptpSync grand s
  | .csi2Packet p dtype crcOk words => Sys2Proof.Machine.execCsi2Packet p dtype crcOk words s
  | .portWatermarkPeriod p => Sys2Proof.Machine.execPortWatermarkPeriod p s
  | .gpioEdge pin level edge held => Sys2Proof.Machine.execGpioEdge pin level edge held s
  | .gpioTimerPeriod n => Sys2Proof.Machine.execGpioTimerPeriod n s
  | .gpioWatermarkPeriod n => Sys2Proof.Machine.execGpioWatermarkPeriod n s
  | .canFrameEvent n f => Sys2Proof.Machine.execCanFrameEvent n f s
  | .canWatermarkPeriod n => Sys2Proof.Machine.execCanWatermarkPeriod n s
  | .pagingFill q => Sys2Proof.Machine.execPagingFill q s
  | .pagingSpill q => Sys2Proof.Machine.execPagingSpill q s
  | .pagingGrow q => Sys2Proof.Machine.execPagingGrow q s
  | .pggrowPop d => Sys2Proof.Machine.execPggrowPop d s
  | .protRegionEnable c n x => Sys2Proof.Machine.execProtRegionEnable c n x s
  | .protRegionDisable c n x => Sys2Proof.Machine.execProtRegionDisable c n x s
  | .wstReadClear k => Sys2Proof.Machine.execWstReadClear k s
  | .quiesceRequest c => Sys2Proof.Machine.execQuiesceRequest c s
  | .quiesceComplete c => Sys2Proof.Machine.execQuiesceComplete c s
  | .debugHalt c => Sys2Proof.Machine.execDebugHalt c s
  | .debugRelease c => Sys2Proof.Machine.execDebugRelease c s
  | .snapshotPin => Sys2Proof.Machine.execSnapshotPin s
  | .capabilityStore addr => Sys2Proof.Machine.execCapabilityStore addr s
  | .attestationRequest addr => Sys2Proof.Machine.execAttestationRequest addr s
  | .appCoreAccess a => Sys2Proof.Machine.execAppCoreAccess a s
  | .pcieInboundWrite addr bytes relaxed => Sys2Proof.Machine.execPcieInboundWrite addr bytes relaxed s
  | .registerWrite c n x => Sys2Proof.Machine.execRegisterWrite c n x s
  | .illegalInstruction c k => Sys2Proof.Machine.execIllegalInstruction c k s
  | .instructionFetchFailure c k => Sys2Proof.Machine.execInstructionFetchFailure c k s
  | .lockLost => Sys2Proof.Machine.execLockLost s
  | .add g d a b => Sys2Proof.Machine.execAdd g d a b s
  | .sub g d a b => Sys2Proof.Machine.execSub g d a b s
  | .and g d a b => Sys2Proof.Machine.execAnd g d a b s
  | .or g d a b => Sys2Proof.Machine.execOr g d a b s
  | .xor g d a b => Sys2Proof.Machine.execXor g d a b s
  | .andn g d a b => Sys2Proof.Machine.execAndn g d a b s
  | .sll g d a b => Sys2Proof.Machine.execSll g d a b s
  | .srl g d a b => Sys2Proof.Machine.execSrl g d a b s
  | .sra g d a b => Sys2Proof.Machine.execSra g d a b s
  | .rot g d a b => Sys2Proof.Machine.execRot g d a b s
  | .min g d a b => Sys2Proof.Machine.execMin g d a b s
  | .max g d a b => Sys2Proof.Machine.execMax g d a b s
  | .mul g d a b => Sys2Proof.Machine.execMul g d a b s
  | .mulh g d a b => Sys2Proof.Machine.execMulh g d a b s
  | .mulhU g d a b => Sys2Proof.Machine.execMulhU g d a b s
  | .div g d a b => Sys2Proof.Machine.execDiv g d a b s
  | .divU g d a b => Sys2Proof.Machine.execDivU g d a b s
  | .rem g d a b => Sys2Proof.Machine.execRem g d a b s
  | .remU g d a b => Sys2Proof.Machine.execRemU g d a b s
  | .clz g d a => Sys2Proof.Machine.execClz g d a s
  | .popc g d a => Sys2Proof.Machine.execPopc g d a s
  | .mov g d a => Sys2Proof.Machine.execMov g d a s
  | .sextB g d a => Sys2Proof.Machine.execSextB g d a s
  | .sextH g d a => Sys2Proof.Machine.execSextH g d a s
  | .sextW g d a => Sys2Proof.Machine.execSextW g d a s
  | .zextB g d a => Sys2Proof.Machine.execZextB g d a s
  | .zextH g d a => Sys2Proof.Machine.execZextH g d a s
  | .zextW g d a => Sys2Proof.Machine.execZextW g d a s
  | .addImm g d a imm => Sys2Proof.Machine.execAddImm g d a imm s
  | .addImmLiteral g d a lit => Sys2Proof.Machine.execAddImmLiteral g d a lit s
  | .andImm g d a imm => Sys2Proof.Machine.execAndImm g d a imm s
  | .andImmLiteral g d a lit => Sys2Proof.Machine.execAndImmLiteral g d a lit s
  | .orImm g d a imm => Sys2Proof.Machine.execOrImm g d a imm s
  | .orImmLiteral g d a lit => Sys2Proof.Machine.execOrImmLiteral g d a lit s
  | .xorImm g d a imm => Sys2Proof.Machine.execXorImm g d a imm s
  | .xorImmLiteral g d a lit => Sys2Proof.Machine.execXorImmLiteral g d a lit s
  | .sllImm g d a imm => Sys2Proof.Machine.execSllImm g d a imm s
  | .srlImm g d a imm => Sys2Proof.Machine.execSrlImm g d a imm s
  | .sraImm g d a imm => Sys2Proof.Machine.execSraImm g d a imm s
  | .rotImm g d a imm => Sys2Proof.Machine.execRotImm g d a imm s
  | .li g d imm => Sys2Proof.Machine.execLi g d imm s
  | .liLiteral g d lit => Sys2Proof.Machine.execLiLiteral g d lit s
  | .cmpi g c h a imm => Sys2Proof.Machine.execCmpi g c h a imm s
  | .cmpiLiteral g c h a lit => Sys2Proof.Machine.execCmpiLiteral g c h a lit s
  | .cmp g c h a b => Sys2Proof.Machine.execCmp g c h a b s
  | .cmpAnd g c h a b => Sys2Proof.Machine.execCmpAnd g c h a b s
  | .cmpOr g c h a b => Sys2Proof.Machine.execCmpOr g c h a b s
  | .gnot g h j => Sys2Proof.Machine.execGnot g h j s
  | .gand g h j k => Sys2Proof.Machine.execGand g h j k s
  | .gor g h j k => Sys2Proof.Machine.execGor g h j k s
  | .sel g d a b h => Sys2Proof.Machine.execSel g d a b h s
  | .fadd g d a b => Sys2Proof.Machine.execFadd g d a b s
  | .fsub g d a b => Sys2Proof.Machine.execFsub g d a b s
  | .fmul g d a b => Sys2Proof.Machine.execFmul g d a b s
  | .fdiv g d a b => Sys2Proof.Machine.execFdiv g d a b s
  | .fmin g d a b => Sys2Proof.Machine.execFmin g d a b s
  | .fmax g d a b => Sys2Proof.Machine.execFmax g d a b s
  | .fsqrt g d a => Sys2Proof.Machine.execFsqrt g d a s
  | .ffma g d a b => Sys2Proof.Machine.execFfma g d a b s
  | .ffmaN g d a b => Sys2Proof.Machine.execFfmaN g d a b s
  | .fcmp g c h a b => Sys2Proof.Machine.execFcmp g c h a b s
  | .fcvtF32I64 g d a => Sys2Proof.Machine.execFcvtF32I64 g d a s
  | .fcvtF32U64 g d a => Sys2Proof.Machine.execFcvtF32U64 g d a s
  | .fcvtI64F32 g d a => Sys2Proof.Machine.execFcvtI64F32 g d a s
  | .fcvtU64F32 g d a => Sys2Proof.Machine.execFcvtU64F32 g d a s
  | .fcvtBf16F32 g d a => Sys2Proof.Machine.execFcvtBf16F32 g d a s
  | .fcvtF16F32 g d a => Sys2Proof.Machine.execFcvtF16F32 g d a s
  | .fcvtF32Bf16 g d a => Sys2Proof.Machine.execFcvtF32Bf16 g d a s
  | .fcvtF32F16 g d a => Sys2Proof.Machine.execFcvtF32F16 g d a s
  | .cbnd g d a b => Sys2Proof.Machine.execCbnd g d a b s
  | .cinc g d a b => Sys2Proof.Machine.execCinc g d a b s
  | .caddr g d a b => Sys2Proof.Machine.execCaddr g d a b s
  | .cperm g d a b => Sys2Proof.Machine.execCperm g d a b s
  | .ctagc g d a => Sys2Proof.Machine.execCtagc g d a s
  | .cgetBase g d a => Sys2Proof.Machine.execCgetBase g d a s
  | .cgetTop g d a => Sys2Proof.Machine.execCgetTop g d a s
  | .cgetLen g d a => Sys2Proof.Machine.execCgetLen g d a s
  | .cgetPerm g d a => Sys2Proof.Machine.execCgetPerm g d a s
  | .cgetTag g d a => Sys2Proof.Machine.execCgetTag g d a s
  | .cincImm g d a imm => Sys2Proof.Machine.execCincImm g d a imm s
  | .cincImmLiteral g d a lit => Sys2Proof.Machine.execCincImmLiteral g d a lit s
  | .cbndImm g d a imm => Sys2Proof.Machine.execCbndImm g d a imm s
  | .cbndImmLiteral g d a lit => Sys2Proof.Machine.execCbndImmLiteral g d a lit s
  | .j g o => Sys2Proof.Machine.execJ g o s
  | .call g o => Sys2Proof.Machine.execCall g o s
  | .jr g a => Sys2Proof.Machine.execJr g a s
  | .ret g => Sys2Proof.Machine.execRet g s
  | .bgF g h o => Sys2Proof.Machine.execBgF g h o s
  | .bgT g h o => Sys2Proof.Machine.execBgT g h o s
  | .rep g l imm => Sys2Proof.Machine.execRep g l imm s
  | .repLiteral g l lit => Sys2Proof.Machine.execRepLiteral g l lit s
  | .repReg g l a => Sys2Proof.Machine.execRepReg g l a s
  | .nop g => Sys2Proof.Machine.execNop g s
  | .trap g imm => Sys2Proof.Machine.execTrap g imm s
  | .suspend g a b => Sys2Proof.Machine.execSuspend g a b s
  | .hend g => Sys2Proof.Machine.execHend g s
  | .ldB g d b l o => Sys2Proof.Machine.execLdB g d b l o s
  | .ldBLiteral g d b l lit => Sys2Proof.Machine.execLdBLiteral g d b l lit s
  | .ldH g d b l o => Sys2Proof.Machine.execLdH g d b l o s
  | .ldHLiteral g d b l lit => Sys2Proof.Machine.execLdHLiteral g d b l lit s
  | .ldW g d b l o => Sys2Proof.Machine.execLdW g d b l o s
  | .ldWLiteral g d b l lit => Sys2Proof.Machine.execLdWLiteral g d b l lit s
  | .ldD g d b l o => Sys2Proof.Machine.execLdD g d b l o s
  | .ldDLiteral g d b l lit => Sys2Proof.Machine.execLdDLiteral g d b l lit s
  | .ldQ g d b l o => Sys2Proof.Machine.execLdQ g d b l o s
  | .ldQLiteral g d b l lit => Sys2Proof.Machine.execLdQLiteral g d b l lit s
  | .stB g sr b o => Sys2Proof.Machine.execStB g sr b o s
  | .stBLiteral g sr b lit => Sys2Proof.Machine.execStBLiteral g sr b lit s
  | .stH g sr b o => Sys2Proof.Machine.execStH g sr b o s
  | .stHLiteral g sr b lit => Sys2Proof.Machine.execStHLiteral g sr b lit s
  | .stW g sr b o => Sys2Proof.Machine.execStW g sr b o s
  | .stWLiteral g sr b lit => Sys2Proof.Machine.execStWLiteral g sr b lit s
  | .stD g sr b o => Sys2Proof.Machine.execStD g sr b o s
  | .stDLiteral g sr b lit => Sys2Proof.Machine.execStDLiteral g sr b lit s
  | .stQ g sr b o => Sys2Proof.Machine.execStQ g sr b o s
  | .stQLiteral g sr b lit => Sys2Proof.Machine.execStQLiteral g sr b lit s
  | .ldc g d b l o => Sys2Proof.Machine.execLdc g d b l o s
  | .ldcLiteral g d b l lit => Sys2Proof.Machine.execLdcLiteral g d b l lit s
  | .stc g sr b o => Sys2Proof.Machine.execStc g sr b o s
  | .stcLiteral g sr b lit => Sys2Proof.Machine.execStcLiteral g sr b lit s
  | .ldq g n b o => Sys2Proof.Machine.execLdq g n b o s
  | .ldqLiteral g n b lit => Sys2Proof.Machine.execLdqLiteral g n b lit s
  | .stq g n b o => Sys2Proof.Machine.execStq g n b o s
  | .stqLiteral g n b lit => Sys2Proof.Machine.execStqLiteral g n b lit s
  | .ldm g d a n => Sys2Proof.Machine.execLdm g d a n s
  | .stm g d a n => Sys2Proof.Machine.execStm g d a n s
  | .vld g d b l o => Sys2Proof.Machine.execVld g d b l o s
  | .vldLiteral g d b l lit => Sys2Proof.Machine.execVldLiteral g d b l lit s
  | .vst g sr b m o => Sys2Proof.Machine.execVst g sr b m o s
  | .vstLiteral g sr b m lit => Sys2Proof.Machine.execVstLiteral g sr b m lit s
  | .vlds g d a b m => Sys2Proof.Machine.execVlds g d a b m s
  | .vldx g d a b m => Sys2Proof.Machine.execVldx g d a b m s
  | .vsts g d a b m => Sys2Proof.Machine.execVsts g d a b m s
  | .vstx g d a b m => Sys2Proof.Machine.execVstx g d a b m s
  | .amoAdd g d a b => Sys2Proof.Machine.execAmoAdd g d a b s
  | .amoAnd g d a b => Sys2Proof.Machine.execAmoAnd g d a b s
  | .amoOr g d a b => Sys2Proof.Machine.execAmoOr g d a b s
  | .amoXor g d a b => Sys2Proof.Machine.execAmoXor g d a b s
  | .amoMin g d a b => Sys2Proof.Machine.execAmoMin g d a b s
  | .amoMax g d a b => Sys2Proof.Machine.execAmoMax g d a b s
  | .amoMinu g d a b => Sys2Proof.Machine.execAmoMinu g d a b s
  | .amoMaxu g d a b => Sys2Proof.Machine.execAmoMaxu g d a b s
  | .amoSwap g d a b => Sys2Proof.Machine.execAmoSwap g d a b s
  | .amoCas g d a b => Sys2Proof.Machine.execAmoCas g d a b s
  | .amoFadd g d a b => Sys2Proof.Machine.execAmoFadd g d a b s
  | .fenceAcq g sr => Sys2Proof.Machine.execFenceAcq g sr s
  | .fenceRel g sr => Sys2Proof.Machine.execFenceRel g sr s
  | .fenceAr g sr => Sys2Proof.Machine.execFenceAr g sr s
  | .afence g a b => Sys2Proof.Machine.execAfence g a b s
  | .pfx g a => Sys2Proof.Machine.execPfx g a s
  | .touch g a => Sys2Proof.Machine.execTouch g a s
  | .touchW g a => Sys2Proof.Machine.execTouchW g a s
  | .bar g n => Sys2Proof.Machine.execBar g n s
  | .get g k a b => Sys2Proof.Machine.execGet g k a b s
  | .give g k a b => Sys2Proof.Machine.execGive g k a b s
  | .vaddInt g w d a b m => Sys2Proof.Machine.execVaddInt g w d a b m s
  | .vsubInt g w d a b m => Sys2Proof.Machine.execVsubInt g w d a b m s
  | .vmulInt g w d a b m => Sys2Proof.Machine.execVmulInt g w d a b m s
  | .vminInt g w d a b m => Sys2Proof.Machine.execVminInt g w d a b m s
  | .vmaxInt g w d a b m => Sys2Proof.Machine.execVmaxInt g w d a b m s
  | .vand g w d a b m => Sys2Proof.Machine.execVand g w d a b m s
  | .vor g w d a b m => Sys2Proof.Machine.execVor g w d a b m s
  | .vxor g w d a b m => Sys2Proof.Machine.execVxor g w d a b m s
  | .vshl g w d a b m => Sys2Proof.Machine.execVshl g w d a b m s
  | .vshr g w d a b m => Sys2Proof.Machine.execVshr g w d a b m s
  | .vshrA g w d a b m => Sys2Proof.Machine.execVshrA g w d a b m s
  | .vaddF32 g d a b m => Sys2Proof.Machine.execVaddF32 g d a b m s
  | .vsubF32 g d a b m => Sys2Proof.Machine.execVsubF32 g d a b m s
  | .vmulF32 g d a b m => Sys2Proof.Machine.execVmulF32 g d a b m s
  | .vminF32 g d a b m => Sys2Proof.Machine.execVminF32 g d a b m s
  | .vmaxF32 g d a b m => Sys2Proof.Machine.execVmaxF32 g d a b m s
  | .vfmaF32 g d a b m => Sys2Proof.Machine.execVfmaF32 g d a b m s
  | .vaddF16 g d a b m => Sys2Proof.Machine.execVaddF16 g d a b m s
  | .vsubF16 g d a b m => Sys2Proof.Machine.execVsubF16 g d a b m s
  | .vmulF16 g d a b m => Sys2Proof.Machine.execVmulF16 g d a b m s
  | .vminF16 g d a b m => Sys2Proof.Machine.execVminF16 g d a b m s
  | .vmaxF16 g d a b m => Sys2Proof.Machine.execVmaxF16 g d a b m s
  | .vfmaF16 g d a b m => Sys2Proof.Machine.execVfmaF16 g d a b m s
  | .vaddBf16 g d a b m => Sys2Proof.Machine.execVaddBf16 g d a b m s
  | .vsubBf16 g d a b m => Sys2Proof.Machine.execVsubBf16 g d a b m s
  | .vmulBf16 g d a b m => Sys2Proof.Machine.execVmulBf16 g d a b m s
  | .vminBf16 g d a b m => Sys2Proof.Machine.execVminBf16 g d a b m s
  | .vmaxBf16 g d a b m => Sys2Proof.Machine.execVmaxBf16 g d a b m s
  | .vfmaBf16 g d a b m => Sys2Proof.Machine.execVfmaBf16 g d a b m s
  | .vcmp g d a b m t c => Sys2Proof.Machine.execVcmp g d a b m t c s
  | .vsel g d a b m => Sys2Proof.Machine.execVsel g d a b m s
  | .vperm g d a b m => Sys2Proof.Machine.execVperm g d a b m s
  | .vmerge g d a b o => Sys2Proof.Machine.execVmerge g d a b o s
  | .vcomp g d a m => Sys2Proof.Machine.execVcomp g d a m s
  | .vexpd g d a m => Sys2Proof.Machine.execVexpd g d a m s
  | .vbcast g d c m => Sys2Proof.Machine.execVbcast g d c m s
  | .vrnd g d c m => Sys2Proof.Machine.execVrnd g d c m s
  | .vrndf g d c m => Sys2Proof.Machine.execVrndf g d c m s
  | .nrns g d a c m => Sys2Proof.Machine.execNrns g d a c m s
  | .spkout g a c m => Sys2Proof.Machine.execSpkout g a c m s
  | .vbsum g t a c m => Sys2Proof.Machine.execVbsum g t a c m s
  | .bsadd g a c => Sys2Proof.Machine.execBsadd g a c s
  | .movVc g d c q => Sys2Proof.Machine.execMovVc g d c q s
  | .movCv g a c q => Sys2Proof.Machine.execMovCv g a c q s
  | .movMc g d c => Sys2Proof.Machine.execMovMc g d c s
  | .movCm g a c => Sys2Proof.Machine.execMovCm g a c s
  | .vred g d a m l f => Sys2Proof.Machine.execVred g d a m l f s
  | .vscan g d a m l f => Sys2Proof.Machine.execVscan g d a m l f s
  | .vsqrt g d a m l t => Sys2Proof.Machine.execVsqrt g d a m l t s
  | .vexp2 g d a m l t => Sys2Proof.Machine.execVexp2 g d a m l t s
  | .vlog2 g d a m l t => Sys2Proof.Machine.execVlog2 g d a m l t s
  | .vrcp g d a m l t => Sys2Proof.Machine.execVrcp g d a m l t s
  | .vdivF32 g d a m l b => Sys2Proof.Machine.execVdivF32 g d a m l b s
  | .vcvt g d a m l f => Sys2Proof.Machine.execVcvt g d a m l f s
  | .vdivF16 g d a m l b => Sys2Proof.Machine.execVdivF16 g d a m l b s
  | .trd g t r n k v => Sys2Proof.Machine.execTrd g t r n k v s
  | .twr g t r n k v => Sys2Proof.Machine.execTwr g t r n k v s
  | .tzero g t => Sys2Proof.Machine.execTzero g t s
  | .ttrans g t => Sys2Proof.Machine.execTtrans g t s
  | .tclaim g t => Sys2Proof.Machine.execTclaim g t s
  | .tfree g t => Sys2Proof.Machine.execTfree g t s
  | .pld g l a b => Sys2Proof.Machine.execPld g l a b s
  | .pst g k a b => Sys2Proof.Machine.execPst g k a b s
  | .plupd g k a b => Sys2Proof.Machine.execPlupd g k a b s
  | .plaxpy g k a b => Sys2Proof.Machine.execPlaxpy g k a b s
  | .plhdr g l a b => Sys2Proof.Machine.execPlhdr g l a b s
  | .mlease g k a b => Sys2Proof.Machine.execMlease g k a b s
  | .mfree g => Sys2Proof.Machine.execMfree g s
  | .mgeo g d a => Sys2Proof.Machine.execMgeo g d a s
  | .mgeor g d a => Sys2Proof.Machine.execMgeor g d a s
  | .mstat g d a => Sys2Proof.Machine.execMstat g d a s
  | .mzero g d => Sys2Proof.Machine.execMzero g d s
  | .mldb g k a b => Sys2Proof.Machine.execMldb g k a b s
  | .mgath g k a b => Sys2Proof.Machine.execMgath g k a b s
  | .mrd g k l a b => Sys2Proof.Machine.execMrd g k l a b s
  | .mma g x a h w sr => Sys2Proof.Machine.execMma g x a h w sr s
  | .mmaSet g x a h w sr => Sys2Proof.Machine.execMmaSet g x a h w sr s
  | .mmaSub g x a h w sr => Sys2Proof.Machine.execMmaSub g x a h w sr s
  | .mrun g x a h w sr => Sys2Proof.Machine.execMrun g x a h w sr s
  | .mrunSet g x a h w sr => Sys2Proof.Machine.execMrunSet g x a h w sr s
  | .mrunSub g x a h w sr => Sys2Proof.Machine.execMrunSub g x a h w sr s
  | .send g a b => Sys2Proof.Machine.execSend g a b s
  | .sendi g a b => Sys2Proof.Machine.execSendi g a b s
  | .wmark g a => Sys2Proof.Machine.execWmark g a s
  | .waitch g a => Sys2Proof.Machine.execWaitch g a s
  | .hmask g d a b => Sys2Proof.Machine.execHmask g d a b s
  | .hset g a b => Sys2Proof.Machine.execHset g a b s
  | .chcap g a b => Sys2Proof.Machine.execChcap g a b s
  | .wincfg g a b => Sys2Proof.Machine.execWincfg g a b s
  | .winclose g a => Sys2Proof.Machine.execWinclose g a s
  | .dkcfg g a b => Sys2Proof.Machine.execDkcfg g a b s
  | .dkflush g a => Sys2Proof.Machine.execDkflush g a s
  | .dkstat g d a => Sys2Proof.Machine.execDkstat g d a s
  | .xcopy g k a b => Sys2Proof.Machine.execXcopy g k a b s
  | .xresume g b => Sys2Proof.Machine.execXresume g b s
  | .xgeo g d a => Sys2Proof.Machine.execXgeo g d a s
  | .ttest g d k b => Sys2Proof.Machine.execTtest g d k b s
  | .twait g m => Sys2Proof.Machine.execTwait g m s
  | .spawn g a b => Sys2Proof.Machine.execSpawn g a b s
  | .done g => Sys2Proof.Machine.execDone g s
  | .doneJ g a => Sys2Proof.Machine.execDoneJ g a s
  | .launch g d a => Sys2Proof.Machine.execLaunch g d a s
  | .yield g => Sys2Proof.Machine.execYield g s
  | .tspawn g a b => Sys2Proof.Machine.execTspawn g a b s
  | .tdone g => Sys2Proof.Machine.execTdone g s
  | .tabort g a b => Sys2Proof.Machine.execTabort g a b s
  | .tfront g d a => Sys2Proof.Machine.execTfront g d a s
  | .twaitc g a b => Sys2Proof.Machine.execTwaitc g a b s
  | .xacq g d a => Sys2Proof.Machine.execXacq g d a s
  | .xadd g a b => Sys2Proof.Machine.execXadd g a b s
  | .xrd g d a => Sys2Proof.Machine.execXrd g d a s
  | .xrel g a => Sys2Proof.Machine.execXrel g a s
  | .pwalk g k a b => Sys2Proof.Machine.execPwalk g k a b s
  | .pfcfg g a b => Sys2Proof.Machine.execPfcfg g a b s
  | .pfstop g a => Sys2Proof.Machine.execPfstop g a s
  | .sysrd g d n => Sys2Proof.Machine.execSysrd g d n s
  | .syswr g a n => Sys2Proof.Machine.execSyswr g a n s
  | .uret g a => Sys2Proof.Machine.execUret g a s
  | .tret g => Sys2Proof.Machine.execTret g s
  | .tlbi g k a b => Sys2Proof.Machine.execTlbi g k a b s
  | .snap g a => Sys2Proof.Machine.execSnap g a s
  | .freeze g a => Sys2Proof.Machine.execFreeze g a s
  | .resumef g a => Sys2Proof.Machine.execResumef g a s

end Sys2Proof.Machine
end

