-- ==== Sys2Proof/Machine/Run.lean ====
section
/-! DEFINITION. Decoding and executing a word in one go: equal to `exec` after `decode`, and executable, which `decode` is
not (Lean compiles no value of an inductive's constructors past the 244th; log entry 16). -/

set_option Elab.async false

namespace Sys2Proof.Machine

/-- A decoded instruction that passes the decode checks, executed. -/
def runOf (i : Option Instr) (s : State) : Option Out :=
  match i with
  | some i => if i.wellFormed then some (exec i s) else none
  | none => none

theorem runOf_ite {c : Prop} [Decidable c] {a b : Option Out} {i j : Option Instr} {s : State}
    (h : a = runOf i s) (k : b = runOf j s) : (if c then a else b) = runOf (if c then i else j) s := by
  split <;> assumption

/-- Major 0x00, run. -/
def run00 (s : State) (w : Nat) : Option Out :=
  if fld w 0 4 = 0 then
    (if (!((Fin.ofNat 8 (w / 2 ^ 29)).val == 0 && (Fin.ofNat 64 (w / 2 ^ 16)).val == 0 && (Fin.ofNat 64 (w / 2 ^ 10)).val == 0 && (Fin.ofNat 64 (w / 2 ^ 4)).val == 0)) = true then some (Sys2Proof.Machine.execAdd (Fin.ofNat 8 (w / 2 ^ 29)) (Fin.ofNat 64 (w / 2 ^ 16)) (Fin.ofNat 64 (w / 2 ^ 10)) (Fin.ofNat 64 (w / 2 ^ 4)) s) else none)
  else if fld w 0 4 = 1 then
    some (Sys2Proof.Machine.execSub (Fin.ofNat 8 (w / 2 ^ 29)) (Fin.ofNat 64 (w / 2 ^ 16)) (Fin.ofNat 64 (w / 2 ^ 10)) (Fin.ofNat 64 (w / 2 ^ 4)) s)
  else if fld w 0 4 = 2 then
    some (Sys2Proof.Machine.execAnd (Fin.ofNat 8 (w / 2 ^ 29)) (Fin.ofNat 64 (w / 2 ^ 16)) (Fin.ofNat 64 (w / 2 ^ 10)) (Fin.ofNat 64 (w / 2 ^ 4)) s)
  else if fld w 0 4 = 3 then
    some (Sys2Proof.Machine.execOr (Fin.ofNat 8 (w / 2 ^ 29)) (Fin.ofNat 64 (w / 2 ^ 16)) (Fin.ofNat 64 (w / 2 ^ 10)) (Fin.ofNat 64 (w / 2 ^ 4)) s)
  else if fld w 0 4 = 4 then
    some (Sys2Proof.Machine.execXor (Fin.ofNat 8 (w / 2 ^ 29)) (Fin.ofNat 64 (w / 2 ^ 16)) (Fin.ofNat 64 (w / 2 ^ 10)) (Fin.ofNat 64 (w / 2 ^ 4)) s)
  else if fld w 0 4 = 5 then
    some (Sys2Proof.Machine.execAndn (Fin.ofNat 8 (w / 2 ^ 29)) (Fin.ofNat 64 (w / 2 ^ 16)) (Fin.ofNat 64 (w / 2 ^ 10)) (Fin.ofNat 64 (w / 2 ^ 4)) s)
  else if fld w 0 4 = 6 then
    some (Sys2Proof.Machine.execSll (Fin.ofNat 8 (w / 2 ^ 29)) (Fin.ofNat 64 (w / 2 ^ 16)) (Fin.ofNat 64 (w / 2 ^ 10)) (Fin.ofNat 64 (w / 2 ^ 4)) s)
  else if fld w 0 4 = 7 then
    some (Sys2Proof.Machine.execSrl (Fin.ofNat 8 (w / 2 ^ 29)) (Fin.ofNat 64 (w / 2 ^ 16)) (Fin.ofNat 64 (w / 2 ^ 10)) (Fin.ofNat 64 (w / 2 ^ 4)) s)
  else if fld w 0 4 = 8 then
    some (Sys2Proof.Machine.execSra (Fin.ofNat 8 (w / 2 ^ 29)) (Fin.ofNat 64 (w / 2 ^ 16)) (Fin.ofNat 64 (w / 2 ^ 10)) (Fin.ofNat 64 (w / 2 ^ 4)) s)
  else if fld w 0 4 = 9 then
    some (Sys2Proof.Machine.execRot (Fin.ofNat 8 (w / 2 ^ 29)) (Fin.ofNat 64 (w / 2 ^ 16)) (Fin.ofNat 64 (w / 2 ^ 10)) (Fin.ofNat 64 (w / 2 ^ 4)) s)
  else if fld w 0 4 = 10 then
    some (Sys2Proof.Machine.execMin (Fin.ofNat 8 (w / 2 ^ 29)) (Fin.ofNat 64 (w / 2 ^ 16)) (Fin.ofNat 64 (w / 2 ^ 10)) (Fin.ofNat 64 (w / 2 ^ 4)) s)
  else if fld w 0 4 = 11 then
    some (Sys2Proof.Machine.execMax (Fin.ofNat 8 (w / 2 ^ 29)) (Fin.ofNat 64 (w / 2 ^ 16)) (Fin.ofNat 64 (w / 2 ^ 10)) (Fin.ofNat 64 (w / 2 ^ 4)) s)
  else none

theorem run00_eq (s : State) (w : Nat) : run00 s w = runOf (dec00 w) s :=
  runOf_ite rfl <| runOf_ite rfl <| runOf_ite rfl <| runOf_ite rfl <| runOf_ite rfl <| runOf_ite rfl <| runOf_ite rfl <| runOf_ite rfl <| runOf_ite rfl <| runOf_ite rfl <| runOf_ite rfl <| runOf_ite rfl <| rfl

/-- Major 0x01, run. -/
def run01 (s : State) (w : Nat) : Option Out :=
  if fld w 0 4 = 0 then
    some (Sys2Proof.Machine.execMul (Fin.ofNat 8 (w / 2 ^ 29)) (Fin.ofNat 64 (w / 2 ^ 16)) (Fin.ofNat 64 (w / 2 ^ 10)) (Fin.ofNat 64 (w / 2 ^ 4)) s)
  else if fld w 0 4 = 1 then
    some (Sys2Proof.Machine.execMulh (Fin.ofNat 8 (w / 2 ^ 29)) (Fin.ofNat 64 (w / 2 ^ 16)) (Fin.ofNat 64 (w / 2 ^ 10)) (Fin.ofNat 64 (w / 2 ^ 4)) s)
  else if fld w 0 4 = 2 then
    some (Sys2Proof.Machine.execMulhU (Fin.ofNat 8 (w / 2 ^ 29)) (Fin.ofNat 64 (w / 2 ^ 16)) (Fin.ofNat 64 (w / 2 ^ 10)) (Fin.ofNat 64 (w / 2 ^ 4)) s)
  else if fld w 0 4 = 3 then
    some (Sys2Proof.Machine.execDiv (Fin.ofNat 8 (w / 2 ^ 29)) (Fin.ofNat 64 (w / 2 ^ 16)) (Fin.ofNat 64 (w / 2 ^ 10)) (Fin.ofNat 64 (w / 2 ^ 4)) s)
  else if fld w 0 4 = 4 then
    some (Sys2Proof.Machine.execDivU (Fin.ofNat 8 (w / 2 ^ 29)) (Fin.ofNat 64 (w / 2 ^ 16)) (Fin.ofNat 64 (w / 2 ^ 10)) (Fin.ofNat 64 (w / 2 ^ 4)) s)
  else if fld w 0 4 = 5 then
    some (Sys2Proof.Machine.execRem (Fin.ofNat 8 (w / 2 ^ 29)) (Fin.ofNat 64 (w / 2 ^ 16)) (Fin.ofNat 64 (w / 2 ^ 10)) (Fin.ofNat 64 (w / 2 ^ 4)) s)
  else if fld w 0 4 = 6 then
    some (Sys2Proof.Machine.execRemU (Fin.ofNat 8 (w / 2 ^ 29)) (Fin.ofNat 64 (w / 2 ^ 16)) (Fin.ofNat 64 (w / 2 ^ 10)) (Fin.ofNat 64 (w / 2 ^ 4)) s)
  else none

theorem run01_eq (s : State) (w : Nat) : run01 s w = runOf (dec01 w) s :=
  runOf_ite rfl <| runOf_ite rfl <| runOf_ite rfl <| runOf_ite rfl <| runOf_ite rfl <| runOf_ite rfl <| runOf_ite rfl <| rfl

/-- Major 0x02, run. -/
def run02 (s : State) (w : Nat) : Option Out :=
  if fld w 0 10 = 0 then
    some (Sys2Proof.Machine.execClz (Fin.ofNat 8 (w / 2 ^ 29)) (Fin.ofNat 64 (w / 2 ^ 16)) (Fin.ofNat 64 (w / 2 ^ 10)) s)
  else if fld w 0 10 = 1 then
    some (Sys2Proof.Machine.execPopc (Fin.ofNat 8 (w / 2 ^ 29)) (Fin.ofNat 64 (w / 2 ^ 16)) (Fin.ofNat 64 (w / 2 ^ 10)) s)
  else if fld w 0 10 = 2 then
    some (Sys2Proof.Machine.execMov (Fin.ofNat 8 (w / 2 ^ 29)) (Fin.ofNat 64 (w / 2 ^ 16)) (Fin.ofNat 64 (w / 2 ^ 10)) s)
  else if fld w 0 10 = 3 then
    some (Sys2Proof.Machine.execSextB (Fin.ofNat 8 (w / 2 ^ 29)) (Fin.ofNat 64 (w / 2 ^ 16)) (Fin.ofNat 64 (w / 2 ^ 10)) s)
  else if fld w 0 10 = 4 then
    some (Sys2Proof.Machine.execSextH (Fin.ofNat 8 (w / 2 ^ 29)) (Fin.ofNat 64 (w / 2 ^ 16)) (Fin.ofNat 64 (w / 2 ^ 10)) s)
  else if fld w 0 10 = 5 then
    some (Sys2Proof.Machine.execSextW (Fin.ofNat 8 (w / 2 ^ 29)) (Fin.ofNat 64 (w / 2 ^ 16)) (Fin.ofNat 64 (w / 2 ^ 10)) s)
  else if fld w 0 10 = 6 then
    some (Sys2Proof.Machine.execZextB (Fin.ofNat 8 (w / 2 ^ 29)) (Fin.ofNat 64 (w / 2 ^ 16)) (Fin.ofNat 64 (w / 2 ^ 10)) s)
  else if fld w 0 10 = 7 then
    some (Sys2Proof.Machine.execZextH (Fin.ofNat 8 (w / 2 ^ 29)) (Fin.ofNat 64 (w / 2 ^ 16)) (Fin.ofNat 64 (w / 2 ^ 10)) s)
  else if fld w 0 10 = 8 then
    some (Sys2Proof.Machine.execZextW (Fin.ofNat 8 (w / 2 ^ 29)) (Fin.ofNat 64 (w / 2 ^ 16)) (Fin.ofNat 64 (w / 2 ^ 10)) s)
  else none

theorem run02_eq (s : State) (w : Nat) : run02 s w = runOf (dec02 w) s :=
  runOf_ite rfl <| runOf_ite rfl <| runOf_ite rfl <| runOf_ite rfl <| runOf_ite rfl <| runOf_ite rfl <| runOf_ite rfl <| runOf_ite rfl <| runOf_ite rfl <| rfl

/-- Major 0x03, run. -/
def run03 (s : State) (w lit : Nat) : Option Out :=
  if fld w 0 10 = 0x200 then some (Sys2Proof.Machine.execAddImmLiteral (Fin.ofNat 8 (w / 2 ^ 29)) (Fin.ofNat 64 (w / 2 ^ 16)) (Fin.ofNat 64 (w / 2 ^ 10)) (BitVec.ofNat 32 lit) s) else (if ((BitVec.ofNat 10 (w / 2 ^ 0)) != 0x200#10) = true then some (Sys2Proof.Machine.execAddImm (Fin.ofNat 8 (w / 2 ^ 29)) (Fin.ofNat 64 (w / 2 ^ 16)) (Fin.ofNat 64 (w / 2 ^ 10)) (BitVec.ofNat 10 (w / 2 ^ 0)) s) else none)

theorem run03_eq (s : State) (w lit : Nat) : run03 s w lit = runOf (dec03 w lit) s :=
  runOf_ite rfl <| rfl

/-- Major 0x04, run. -/
def run04 (s : State) (w lit : Nat) : Option Out :=
  if fld w 0 10 = 0x200 then some (Sys2Proof.Machine.execAndImmLiteral (Fin.ofNat 8 (w / 2 ^ 29)) (Fin.ofNat 64 (w / 2 ^ 16)) (Fin.ofNat 64 (w / 2 ^ 10)) (BitVec.ofNat 32 lit) s) else (if ((BitVec.ofNat 10 (w / 2 ^ 0)) != 0x200#10) = true then some (Sys2Proof.Machine.execAndImm (Fin.ofNat 8 (w / 2 ^ 29)) (Fin.ofNat 64 (w / 2 ^ 16)) (Fin.ofNat 64 (w / 2 ^ 10)) (BitVec.ofNat 10 (w / 2 ^ 0)) s) else none)

theorem run04_eq (s : State) (w lit : Nat) : run04 s w lit = runOf (dec04 w lit) s :=
  runOf_ite rfl <| rfl

/-- Major 0x05, run. -/
def run05 (s : State) (w lit : Nat) : Option Out :=
  if fld w 0 10 = 0x200 then some (Sys2Proof.Machine.execOrImmLiteral (Fin.ofNat 8 (w / 2 ^ 29)) (Fin.ofNat 64 (w / 2 ^ 16)) (Fin.ofNat 64 (w / 2 ^ 10)) (BitVec.ofNat 32 lit) s) else (if ((BitVec.ofNat 10 (w / 2 ^ 0)) != 0x200#10) = true then some (Sys2Proof.Machine.execOrImm (Fin.ofNat 8 (w / 2 ^ 29)) (Fin.ofNat 64 (w / 2 ^ 16)) (Fin.ofNat 64 (w / 2 ^ 10)) (BitVec.ofNat 10 (w / 2 ^ 0)) s) else none)

theorem run05_eq (s : State) (w lit : Nat) : run05 s w lit = runOf (dec05 w lit) s :=
  runOf_ite rfl <| rfl

/-- Major 0x06, run. -/
def run06 (s : State) (w lit : Nat) : Option Out :=
  if fld w 0 10 = 0x200 then some (Sys2Proof.Machine.execXorImmLiteral (Fin.ofNat 8 (w / 2 ^ 29)) (Fin.ofNat 64 (w / 2 ^ 16)) (Fin.ofNat 64 (w / 2 ^ 10)) (BitVec.ofNat 32 lit) s) else (if ((BitVec.ofNat 10 (w / 2 ^ 0)) != 0x200#10) = true then some (Sys2Proof.Machine.execXorImm (Fin.ofNat 8 (w / 2 ^ 29)) (Fin.ofNat 64 (w / 2 ^ 16)) (Fin.ofNat 64 (w / 2 ^ 10)) (BitVec.ofNat 10 (w / 2 ^ 0)) s) else none)

theorem run06_eq (s : State) (w lit : Nat) : run06 s w lit = runOf (dec06 w lit) s :=
  runOf_ite rfl <| rfl

/-- Major 0x07, run. -/
def run07 (s : State) (w : Nat) : Option Out :=
  (if (decide ((BitVec.ofNat 10 (w / 2 ^ 0)).toNat < 64)) = true then some (Sys2Proof.Machine.execSllImm (Fin.ofNat 8 (w / 2 ^ 29)) (Fin.ofNat 64 (w / 2 ^ 16)) (Fin.ofNat 64 (w / 2 ^ 10)) (BitVec.ofNat 10 (w / 2 ^ 0)) s) else none)

theorem run07_eq (s : State) (w : Nat) : run07 s w = runOf (dec07 w) s :=
  rfl

/-- Major 0x08, run. -/
def run08 (s : State) (w : Nat) : Option Out :=
  (if (decide ((BitVec.ofNat 10 (w / 2 ^ 0)).toNat < 64)) = true then some (Sys2Proof.Machine.execSrlImm (Fin.ofNat 8 (w / 2 ^ 29)) (Fin.ofNat 64 (w / 2 ^ 16)) (Fin.ofNat 64 (w / 2 ^ 10)) (BitVec.ofNat 10 (w / 2 ^ 0)) s) else none)

theorem run08_eq (s : State) (w : Nat) : run08 s w = runOf (dec08 w) s :=
  rfl

/-- Major 0x09, run. -/
def run09 (s : State) (w : Nat) : Option Out :=
  (if (decide ((BitVec.ofNat 10 (w / 2 ^ 0)).toNat < 64)) = true then some (Sys2Proof.Machine.execSraImm (Fin.ofNat 8 (w / 2 ^ 29)) (Fin.ofNat 64 (w / 2 ^ 16)) (Fin.ofNat 64 (w / 2 ^ 10)) (BitVec.ofNat 10 (w / 2 ^ 0)) s) else none)

theorem run09_eq (s : State) (w : Nat) : run09 s w = runOf (dec09 w) s :=
  rfl

/-- Major 0x0A, run. -/
def run0A (s : State) (w : Nat) : Option Out :=
  (if (decide ((BitVec.ofNat 10 (w / 2 ^ 0)).toNat < 64)) = true then some (Sys2Proof.Machine.execRotImm (Fin.ofNat 8 (w / 2 ^ 29)) (Fin.ofNat 64 (w / 2 ^ 16)) (Fin.ofNat 64 (w / 2 ^ 10)) (BitVec.ofNat 10 (w / 2 ^ 0)) s) else none)

theorem run0A_eq (s : State) (w : Nat) : run0A s w = runOf (dec0A w) s :=
  rfl

/-- Major 0x0B, run. -/
def run0B (s : State) (w lit : Nat) : Option Out :=
  if fld w 10 6 = 0 then
    if fld w 0 10 = 0x200 then some (Sys2Proof.Machine.execLiLiteral (Fin.ofNat 8 (w / 2 ^ 29)) (Fin.ofNat 64 (w / 2 ^ 16)) (BitVec.ofNat 32 lit) s) else (if ((BitVec.ofNat 10 (w / 2 ^ 0)) != 0x200#10) = true then some (Sys2Proof.Machine.execLi (Fin.ofNat 8 (w / 2 ^ 29)) (Fin.ofNat 64 (w / 2 ^ 16)) (BitVec.ofNat 10 (w / 2 ^ 0)) s) else none)
  else none

theorem run0B_eq (s : State) (w lit : Nat) : run0B s w lit = runOf (dec0B w lit) s :=
  runOf_ite (runOf_ite rfl <| rfl) <| rfl

/-- Major 0x0C, run. -/
def run0C (s : State) (w lit : Nat) : Option Out :=
  if fld w 0 10 = 0x200 then (if (decide ((Fin.ofNat 8 (w / 2 ^ 19)).val < 6)) = true then some (Sys2Proof.Machine.execCmpiLiteral (Fin.ofNat 8 (w / 2 ^ 29)) (Fin.ofNat 8 (w / 2 ^ 19)) (Fin.ofNat 8 (w / 2 ^ 16)) (Fin.ofNat 64 (w / 2 ^ 10)) (BitVec.ofNat 32 lit) s) else none) else (if (decide ((Fin.ofNat 8 (w / 2 ^ 19)).val < 6) && (BitVec.ofNat 10 (w / 2 ^ 0)) != 0x200#10) = true then some (Sys2Proof.Machine.execCmpi (Fin.ofNat 8 (w / 2 ^ 29)) (Fin.ofNat 8 (w / 2 ^ 19)) (Fin.ofNat 8 (w / 2 ^ 16)) (Fin.ofNat 64 (w / 2 ^ 10)) (BitVec.ofNat 10 (w / 2 ^ 0)) s) else none)

theorem run0C_eq (s : State) (w lit : Nat) : run0C s w lit = runOf (dec0C w lit) s :=
  runOf_ite rfl <| rfl

/-- Major 0x0D, run. -/
def run0D (s : State) (w : Nat) : Option Out :=
  if fld w 0 4 = 0 then
    (if (decide ((Fin.ofNat 8 (w / 2 ^ 19)).val < 6)) = true then some (Sys2Proof.Machine.execCmp (Fin.ofNat 8 (w / 2 ^ 29)) (Fin.ofNat 8 (w / 2 ^ 19)) (Fin.ofNat 8 (w / 2 ^ 16)) (Fin.ofNat 64 (w / 2 ^ 10)) (Fin.ofNat 64 (w / 2 ^ 4)) s) else none)
  else if fld w 0 4 = 1 then
    (if (decide ((Fin.ofNat 8 (w / 2 ^ 19)).val < 6)) = true then some (Sys2Proof.Machine.execCmpAnd (Fin.ofNat 8 (w / 2 ^ 29)) (Fin.ofNat 8 (w / 2 ^ 19)) (Fin.ofNat 8 (w / 2 ^ 16)) (Fin.ofNat 64 (w / 2 ^ 10)) (Fin.ofNat 64 (w / 2 ^ 4)) s) else none)
  else if fld w 0 4 = 2 then
    (if (decide ((Fin.ofNat 8 (w / 2 ^ 19)).val < 6)) = true then some (Sys2Proof.Machine.execCmpOr (Fin.ofNat 8 (w / 2 ^ 29)) (Fin.ofNat 8 (w / 2 ^ 19)) (Fin.ofNat 8 (w / 2 ^ 16)) (Fin.ofNat 64 (w / 2 ^ 10)) (Fin.ofNat 64 (w / 2 ^ 4)) s) else none)
  else none

theorem run0D_eq (s : State) (w : Nat) : run0D s w = runOf (dec0D w) s :=
  runOf_ite rfl <| runOf_ite rfl <| runOf_ite rfl <| rfl

/-- Major 0x0E, run. -/
def run0E (s : State) (w : Nat) : Option Out :=
  if fld w 0 10 = 0 ∧ fld w 13 3 = 0 ∧ fld w 19 3 = 0 then
    some (Sys2Proof.Machine.execGnot (Fin.ofNat 8 (w / 2 ^ 29)) (Fin.ofNat 8 (w / 2 ^ 16)) (Fin.ofNat 8 (w / 2 ^ 10)) s)
  else if fld w 0 4 = 1 ∧ fld w 7 3 = 0 ∧ fld w 13 3 = 0 ∧ fld w 19 3 = 0 then
    some (Sys2Proof.Machine.execGand (Fin.ofNat 8 (w / 2 ^ 29)) (Fin.ofNat 8 (w / 2 ^ 16)) (Fin.ofNat 8 (w / 2 ^ 10)) (Fin.ofNat 8 (w / 2 ^ 4)) s)
  else if fld w 0 4 = 2 ∧ fld w 7 3 = 0 ∧ fld w 13 3 = 0 ∧ fld w 19 3 = 0 then
    some (Sys2Proof.Machine.execGor (Fin.ofNat 8 (w / 2 ^ 29)) (Fin.ofNat 8 (w / 2 ^ 16)) (Fin.ofNat 8 (w / 2 ^ 10)) (Fin.ofNat 8 (w / 2 ^ 4)) s)
  else none

theorem run0E_eq (s : State) (w : Nat) : run0E s w = runOf (dec0E w) s :=
  runOf_ite rfl <| runOf_ite rfl <| runOf_ite rfl <| rfl

/-- Major 0x0F, run. -/
def run0F (s : State) (w : Nat) : Option Out :=
  if fld w 3 1 = 0 then
    some (Sys2Proof.Machine.execSel (Fin.ofNat 8 (w / 2 ^ 29)) (Fin.ofNat 64 (w / 2 ^ 16)) (Fin.ofNat 64 (w / 2 ^ 10)) (Fin.ofNat 64 (w / 2 ^ 4)) (Fin.ofNat 8 (w / 2 ^ 0)) s)
  else none

theorem run0F_eq (s : State) (w : Nat) : run0F s w = runOf (dec0F w) s :=
  runOf_ite rfl <| rfl

/-- Major 0x10, run. -/
def run10 (s : State) (w : Nat) : Option Out :=
  if fld w 0 4 = 0 then
    some (Sys2Proof.Machine.execFadd (Fin.ofNat 8 (w / 2 ^ 29)) (Fin.ofNat 64 (w / 2 ^ 16)) (Fin.ofNat 64 (w / 2 ^ 10)) (Fin.ofNat 64 (w / 2 ^ 4)) s)
  else if fld w 0 4 = 1 then
    some (Sys2Proof.Machine.execFsub (Fin.ofNat 8 (w / 2 ^ 29)) (Fin.ofNat 64 (w / 2 ^ 16)) (Fin.ofNat 64 (w / 2 ^ 10)) (Fin.ofNat 64 (w / 2 ^ 4)) s)
  else if fld w 0 4 = 2 then
    some (Sys2Proof.Machine.execFmul (Fin.ofNat 8 (w / 2 ^ 29)) (Fin.ofNat 64 (w / 2 ^ 16)) (Fin.ofNat 64 (w / 2 ^ 10)) (Fin.ofNat 64 (w / 2 ^ 4)) s)
  else if fld w 0 4 = 3 then
    some (Sys2Proof.Machine.execFdiv (Fin.ofNat 8 (w / 2 ^ 29)) (Fin.ofNat 64 (w / 2 ^ 16)) (Fin.ofNat 64 (w / 2 ^ 10)) (Fin.ofNat 64 (w / 2 ^ 4)) s)
  else if fld w 0 4 = 4 then
    some (Sys2Proof.Machine.execFmin (Fin.ofNat 8 (w / 2 ^ 29)) (Fin.ofNat 64 (w / 2 ^ 16)) (Fin.ofNat 64 (w / 2 ^ 10)) (Fin.ofNat 64 (w / 2 ^ 4)) s)
  else if fld w 0 4 = 5 then
    some (Sys2Proof.Machine.execFmax (Fin.ofNat 8 (w / 2 ^ 29)) (Fin.ofNat 64 (w / 2 ^ 16)) (Fin.ofNat 64 (w / 2 ^ 10)) (Fin.ofNat 64 (w / 2 ^ 4)) s)
  else if fld w 0 10 = 6 then
    some (Sys2Proof.Machine.execFsqrt (Fin.ofNat 8 (w / 2 ^ 29)) (Fin.ofNat 64 (w / 2 ^ 16)) (Fin.ofNat 64 (w / 2 ^ 10)) s)
  else none

theorem run10_eq (s : State) (w : Nat) : run10 s w = runOf (dec10 w) s :=
  runOf_ite rfl <| runOf_ite rfl <| runOf_ite rfl <| runOf_ite rfl <| runOf_ite rfl <| runOf_ite rfl <| runOf_ite rfl <| rfl

/-- Major 0x11, run. -/
def run11 (s : State) (w : Nat) : Option Out :=
  if fld w 0 4 = 0 then
    some (Sys2Proof.Machine.execFfma (Fin.ofNat 8 (w / 2 ^ 29)) (Fin.ofNat 64 (w / 2 ^ 16)) (Fin.ofNat 64 (w / 2 ^ 10)) (Fin.ofNat 64 (w / 2 ^ 4)) s)
  else if fld w 0 4 = 1 then
    some (Sys2Proof.Machine.execFfmaN (Fin.ofNat 8 (w / 2 ^ 29)) (Fin.ofNat 64 (w / 2 ^ 16)) (Fin.ofNat 64 (w / 2 ^ 10)) (Fin.ofNat 64 (w / 2 ^ 4)) s)
  else none

theorem run11_eq (s : State) (w : Nat) : run11 s w = runOf (dec11 w) s :=
  runOf_ite rfl <| runOf_ite rfl <| rfl

/-- Major 0x12, run. -/
def run12 (s : State) (w : Nat) : Option Out :=
  if fld w 0 4 = 0 then
    (if (decide ((Fin.ofNat 8 (w / 2 ^ 19)).val < 6)) = true then some (Sys2Proof.Machine.execFcmp (Fin.ofNat 8 (w / 2 ^ 29)) (Fin.ofNat 8 (w / 2 ^ 19)) (Fin.ofNat 8 (w / 2 ^ 16)) (Fin.ofNat 64 (w / 2 ^ 10)) (Fin.ofNat 64 (w / 2 ^ 4)) s) else none)
  else none

theorem run12_eq (s : State) (w : Nat) : run12 s w = runOf (dec12 w) s :=
  runOf_ite rfl <| rfl

/-- Major 0x13, run. -/
def run13 (s : State) (w : Nat) : Option Out :=
  if fld w 0 10 = 0 then
    some (Sys2Proof.Machine.execFcvtF32I64 (Fin.ofNat 8 (w / 2 ^ 29)) (Fin.ofNat 64 (w / 2 ^ 16)) (Fin.ofNat 64 (w / 2 ^ 10)) s)
  else if fld w 0 10 = 1 then
    some (Sys2Proof.Machine.execFcvtF32U64 (Fin.ofNat 8 (w / 2 ^ 29)) (Fin.ofNat 64 (w / 2 ^ 16)) (Fin.ofNat 64 (w / 2 ^ 10)) s)
  else if fld w 0 10 = 2 then
    some (Sys2Proof.Machine.execFcvtI64F32 (Fin.ofNat 8 (w / 2 ^ 29)) (Fin.ofNat 64 (w / 2 ^ 16)) (Fin.ofNat 64 (w / 2 ^ 10)) s)
  else if fld w 0 10 = 3 then
    some (Sys2Proof.Machine.execFcvtU64F32 (Fin.ofNat 8 (w / 2 ^ 29)) (Fin.ofNat 64 (w / 2 ^ 16)) (Fin.ofNat 64 (w / 2 ^ 10)) s)
  else if fld w 0 10 = 4 then
    some (Sys2Proof.Machine.execFcvtBf16F32 (Fin.ofNat 8 (w / 2 ^ 29)) (Fin.ofNat 64 (w / 2 ^ 16)) (Fin.ofNat 64 (w / 2 ^ 10)) s)
  else if fld w 0 10 = 5 then
    some (Sys2Proof.Machine.execFcvtF16F32 (Fin.ofNat 8 (w / 2 ^ 29)) (Fin.ofNat 64 (w / 2 ^ 16)) (Fin.ofNat 64 (w / 2 ^ 10)) s)
  else if fld w 0 10 = 6 then
    some (Sys2Proof.Machine.execFcvtF32Bf16 (Fin.ofNat 8 (w / 2 ^ 29)) (Fin.ofNat 64 (w / 2 ^ 16)) (Fin.ofNat 64 (w / 2 ^ 10)) s)
  else if fld w 0 10 = 7 then
    some (Sys2Proof.Machine.execFcvtF32F16 (Fin.ofNat 8 (w / 2 ^ 29)) (Fin.ofNat 64 (w / 2 ^ 16)) (Fin.ofNat 64 (w / 2 ^ 10)) s)
  else none

theorem run13_eq (s : State) (w : Nat) : run13 s w = runOf (dec13 w) s :=
  runOf_ite rfl <| runOf_ite rfl <| runOf_ite rfl <| runOf_ite rfl <| runOf_ite rfl <| runOf_ite rfl <| runOf_ite rfl <| runOf_ite rfl <| rfl

/-- Major 0x14, run. -/
def run14 (s : State) (w : Nat) : Option Out :=
  if fld w 0 4 = 0 then
    some (Sys2Proof.Machine.execCbnd (Fin.ofNat 8 (w / 2 ^ 29)) (Fin.ofNat 64 (w / 2 ^ 16)) (Fin.ofNat 64 (w / 2 ^ 10)) (Fin.ofNat 64 (w / 2 ^ 4)) s)
  else if fld w 0 4 = 1 then
    some (Sys2Proof.Machine.execCinc (Fin.ofNat 8 (w / 2 ^ 29)) (Fin.ofNat 64 (w / 2 ^ 16)) (Fin.ofNat 64 (w / 2 ^ 10)) (Fin.ofNat 64 (w / 2 ^ 4)) s)
  else if fld w 0 4 = 2 then
    some (Sys2Proof.Machine.execCaddr (Fin.ofNat 8 (w / 2 ^ 29)) (Fin.ofNat 64 (w / 2 ^ 16)) (Fin.ofNat 64 (w / 2 ^ 10)) (Fin.ofNat 64 (w / 2 ^ 4)) s)
  else if fld w 0 4 = 3 then
    some (Sys2Proof.Machine.execCperm (Fin.ofNat 8 (w / 2 ^ 29)) (Fin.ofNat 64 (w / 2 ^ 16)) (Fin.ofNat 64 (w / 2 ^ 10)) (Fin.ofNat 64 (w / 2 ^ 4)) s)
  else if fld w 0 10 = 4 then
    some (Sys2Proof.Machine.execCtagc (Fin.ofNat 8 (w / 2 ^ 29)) (Fin.ofNat 64 (w / 2 ^ 16)) (Fin.ofNat 64 (w / 2 ^ 10)) s)
  else if fld w 0 10 = 5 then
    some (Sys2Proof.Machine.execCgetBase (Fin.ofNat 8 (w / 2 ^ 29)) (Fin.ofNat 64 (w / 2 ^ 16)) (Fin.ofNat 64 (w / 2 ^ 10)) s)
  else if fld w 0 10 = 6 then
    some (Sys2Proof.Machine.execCgetTop (Fin.ofNat 8 (w / 2 ^ 29)) (Fin.ofNat 64 (w / 2 ^ 16)) (Fin.ofNat 64 (w / 2 ^ 10)) s)
  else if fld w 0 10 = 7 then
    some (Sys2Proof.Machine.execCgetLen (Fin.ofNat 8 (w / 2 ^ 29)) (Fin.ofNat 64 (w / 2 ^ 16)) (Fin.ofNat 64 (w / 2 ^ 10)) s)
  else if fld w 0 10 = 8 then
    some (Sys2Proof.Machine.execCgetPerm (Fin.ofNat 8 (w / 2 ^ 29)) (Fin.ofNat 64 (w / 2 ^ 16)) (Fin.ofNat 64 (w / 2 ^ 10)) s)
  else if fld w 0 10 = 9 then
    some (Sys2Proof.Machine.execCgetTag (Fin.ofNat 8 (w / 2 ^ 29)) (Fin.ofNat 64 (w / 2 ^ 16)) (Fin.ofNat 64 (w / 2 ^ 10)) s)
  else none

theorem run14_eq (s : State) (w : Nat) : run14 s w = runOf (dec14 w) s :=
  runOf_ite rfl <| runOf_ite rfl <| runOf_ite rfl <| runOf_ite rfl <| runOf_ite rfl <| runOf_ite rfl <| runOf_ite rfl <| runOf_ite rfl <| runOf_ite rfl <| runOf_ite rfl <| rfl

/-- Major 0x15, run. -/
def run15 (s : State) (w lit : Nat) : Option Out :=
  if fld w 0 10 = 0x200 then some (Sys2Proof.Machine.execCincImmLiteral (Fin.ofNat 8 (w / 2 ^ 29)) (Fin.ofNat 64 (w / 2 ^ 16)) (Fin.ofNat 64 (w / 2 ^ 10)) (BitVec.ofNat 32 lit) s) else (if ((BitVec.ofNat 10 (w / 2 ^ 0)) != 0x200#10) = true then some (Sys2Proof.Machine.execCincImm (Fin.ofNat 8 (w / 2 ^ 29)) (Fin.ofNat 64 (w / 2 ^ 16)) (Fin.ofNat 64 (w / 2 ^ 10)) (BitVec.ofNat 10 (w / 2 ^ 0)) s) else none)

theorem run15_eq (s : State) (w lit : Nat) : run15 s w lit = runOf (dec15 w lit) s :=
  runOf_ite rfl <| rfl

/-- Major 0x16, run. -/
def run16 (s : State) (w lit : Nat) : Option Out :=
  if fld w 0 10 = 0x200 then some (Sys2Proof.Machine.execCbndImmLiteral (Fin.ofNat 8 (w / 2 ^ 29)) (Fin.ofNat 64 (w / 2 ^ 16)) (Fin.ofNat 64 (w / 2 ^ 10)) (BitVec.ofNat 32 lit) s) else (if ((BitVec.ofNat 10 (w / 2 ^ 0)) != 0x200#10) = true then some (Sys2Proof.Machine.execCbndImm (Fin.ofNat 8 (w / 2 ^ 29)) (Fin.ofNat 64 (w / 2 ^ 16)) (Fin.ofNat 64 (w / 2 ^ 10)) (BitVec.ofNat 10 (w / 2 ^ 0)) s) else none)

theorem run16_eq (s : State) (w lit : Nat) : run16 s w lit = runOf (dec16 w lit) s :=
  runOf_ite rfl <| rfl

/-- Major 0x18, run. -/
def run18 (s : State) (w : Nat) : Option Out :=
  some (Sys2Proof.Machine.execJ (Fin.ofNat 8 (w / 2 ^ 29)) (Fin.ofNat 4194304 (w / 2 ^ 0)) s)

theorem run18_eq (s : State) (w : Nat) : run18 s w = runOf (dec18 w) s :=
  rfl

/-- Major 0x19, run. -/
def run19 (s : State) (w : Nat) : Option Out :=
  some (Sys2Proof.Machine.execCall (Fin.ofNat 8 (w / 2 ^ 29)) (Fin.ofNat 4194304 (w / 2 ^ 0)) s)

theorem run19_eq (s : State) (w : Nat) : run19 s w = runOf (dec19 w) s :=
  rfl

/-- Major 0x1A, run. -/
def run1A (s : State) (w : Nat) : Option Out :=
  if fld w 0 10 = 0 ∧ fld w 16 6 = 0 then
    some (Sys2Proof.Machine.execJr (Fin.ofNat 8 (w / 2 ^ 29)) (Fin.ofNat 64 (w / 2 ^ 10)) s)
  else if fld w 0 22 = 1 then
    some (Sys2Proof.Machine.execRet (Fin.ofNat 8 (w / 2 ^ 29)) s)
  else none

theorem run1A_eq (s : State) (w : Nat) : run1A s w = runOf (dec1A w) s :=
  runOf_ite rfl <| runOf_ite rfl <| rfl

/-- Major 0x1B, run. -/
def run1B (s : State) (w : Nat) : Option Out :=
  if fld w 18 1 = 0 then
    some (Sys2Proof.Machine.execBgF (Fin.ofNat 8 (w / 2 ^ 29)) (Fin.ofNat 8 (w / 2 ^ 19)) (Fin.ofNat 262144 (w / 2 ^ 0)) s)
  else if fld w 18 1 = 1 then
    some (Sys2Proof.Machine.execBgT (Fin.ofNat 8 (w / 2 ^ 29)) (Fin.ofNat 8 (w / 2 ^ 19)) (Fin.ofNat 262144 (w / 2 ^ 0)) s)
  else none

theorem run1B_eq (s : State) (w : Nat) : run1B s w = runOf (dec1B w) s :=
  runOf_ite rfl <| runOf_ite rfl <| rfl

/-- Major 0x1C, run. -/
def run1C (s : State) (w lit : Nat) : Option Out :=
  if fld w 10 6 = 0 then if fld w 0 10 = 0x200 then some (Sys2Proof.Machine.execRepLiteral (Fin.ofNat 8 (w / 2 ^ 29)) (Fin.ofNat 64 (w / 2 ^ 16)) (BitVec.ofNat 32 lit) s) else (if ((BitVec.ofNat 10 (w / 2 ^ 0)) != 0x200#10) = true then some (Sys2Proof.Machine.execRep (Fin.ofNat 8 (w / 2 ^ 29)) (Fin.ofNat 64 (w / 2 ^ 16)) (BitVec.ofNat 10 (w / 2 ^ 0)) s) else none)
  else if fld w 0 10 = 0 then (if ((Fin.ofNat 64 (w / 2 ^ 10)).val != 0) = true then some (Sys2Proof.Machine.execRepReg (Fin.ofNat 8 (w / 2 ^ 29)) (Fin.ofNat 64 (w / 2 ^ 16)) (Fin.ofNat 64 (w / 2 ^ 10)) s) else none)
  else none

theorem run1C_eq (s : State) (w lit : Nat) : run1C s w lit = runOf (dec1C w lit) s :=
  runOf_ite (runOf_ite rfl <| rfl) <| runOf_ite rfl <| rfl

/-- Major 0x1D, run. -/
def run1D (s : State) (w : Nat) : Option Out :=
  if fld w 0 22 = 0 then
    some (Sys2Proof.Machine.execNop (Fin.ofNat 8 (w / 2 ^ 29)) s)
  else none

theorem run1D_eq (s : State) (w : Nat) : run1D s w = runOf (dec1D w) s :=
  runOf_ite rfl <| rfl

/-- Major 0x1E, run. -/
def run1E (s : State) (w : Nat) : Option Out :=
  if fld w 9 13 = 0 then
    some (Sys2Proof.Machine.execTrap (Fin.ofNat 8 (w / 2 ^ 29)) (Fin.ofNat 512 (w / 2 ^ 0)) s)
  else none

theorem run1E_eq (s : State) (w : Nat) : run1E s w = runOf (dec1E w) s :=
  runOf_ite rfl <| rfl

/-- Major 0x1F, run. -/
def run1F (s : State) (w : Nat) : Option Out :=
  if fld w 0 4 = 0 ∧ fld w 16 6 = 0 then
    some (Sys2Proof.Machine.execSuspend (Fin.ofNat 8 (w / 2 ^ 29)) (Fin.ofNat 64 (w / 2 ^ 10)) (Fin.ofNat 64 (w / 2 ^ 4)) s)
  else if fld w 0 22 = 1 then
    some (Sys2Proof.Machine.execHend (Fin.ofNat 8 (w / 2 ^ 29)) s)
  else none

theorem run1F_eq (s : State) (w : Nat) : run1F s w = runOf (dec1F w) s :=
  runOf_ite rfl <| runOf_ite rfl <| rfl

/-- Major 0x20, run. -/
def run20 (s : State) (w lit : Nat) : Option Out :=
  if fld w 0 6 = 0x20 then some (Sys2Proof.Machine.execLdBLiteral (Fin.ofNat 8 (w / 2 ^ 29)) (Fin.ofNat 64 (w / 2 ^ 16)) (Fin.ofNat 64 (w / 2 ^ 10)) (Fin.ofNat 16 (w / 2 ^ 6)) (BitVec.ofNat 32 lit) s) else (if ((Fin.ofNat 64 (w / 2 ^ 0)).val != 0x20) = true then some (Sys2Proof.Machine.execLdB (Fin.ofNat 8 (w / 2 ^ 29)) (Fin.ofNat 64 (w / 2 ^ 16)) (Fin.ofNat 64 (w / 2 ^ 10)) (Fin.ofNat 16 (w / 2 ^ 6)) (Fin.ofNat 64 (w / 2 ^ 0)) s) else none)

theorem run20_eq (s : State) (w lit : Nat) : run20 s w lit = runOf (dec20 w lit) s :=
  runOf_ite rfl <| rfl

/-- Major 0x21, run. -/
def run21 (s : State) (w lit : Nat) : Option Out :=
  if fld w 0 6 = 0x20 then some (Sys2Proof.Machine.execLdHLiteral (Fin.ofNat 8 (w / 2 ^ 29)) (Fin.ofNat 64 (w / 2 ^ 16)) (Fin.ofNat 64 (w / 2 ^ 10)) (Fin.ofNat 16 (w / 2 ^ 6)) (BitVec.ofNat 32 lit) s) else (if ((Fin.ofNat 64 (w / 2 ^ 0)).val != 0x20) = true then some (Sys2Proof.Machine.execLdH (Fin.ofNat 8 (w / 2 ^ 29)) (Fin.ofNat 64 (w / 2 ^ 16)) (Fin.ofNat 64 (w / 2 ^ 10)) (Fin.ofNat 16 (w / 2 ^ 6)) (Fin.ofNat 64 (w / 2 ^ 0)) s) else none)

theorem run21_eq (s : State) (w lit : Nat) : run21 s w lit = runOf (dec21 w lit) s :=
  runOf_ite rfl <| rfl

/-- Major 0x22, run. -/
def run22 (s : State) (w lit : Nat) : Option Out :=
  if fld w 0 6 = 0x20 then some (Sys2Proof.Machine.execLdWLiteral (Fin.ofNat 8 (w / 2 ^ 29)) (Fin.ofNat 64 (w / 2 ^ 16)) (Fin.ofNat 64 (w / 2 ^ 10)) (Fin.ofNat 16 (w / 2 ^ 6)) (BitVec.ofNat 32 lit) s) else (if ((Fin.ofNat 64 (w / 2 ^ 0)).val != 0x20) = true then some (Sys2Proof.Machine.execLdW (Fin.ofNat 8 (w / 2 ^ 29)) (Fin.ofNat 64 (w / 2 ^ 16)) (Fin.ofNat 64 (w / 2 ^ 10)) (Fin.ofNat 16 (w / 2 ^ 6)) (Fin.ofNat 64 (w / 2 ^ 0)) s) else none)

theorem run22_eq (s : State) (w lit : Nat) : run22 s w lit = runOf (dec22 w lit) s :=
  runOf_ite rfl <| rfl

/-- Major 0x23, run. -/
def run23 (s : State) (w lit : Nat) : Option Out :=
  if fld w 0 6 = 0x20 then some (Sys2Proof.Machine.execLdDLiteral (Fin.ofNat 8 (w / 2 ^ 29)) (Fin.ofNat 64 (w / 2 ^ 16)) (Fin.ofNat 64 (w / 2 ^ 10)) (Fin.ofNat 16 (w / 2 ^ 6)) (BitVec.ofNat 32 lit) s) else (if ((Fin.ofNat 64 (w / 2 ^ 0)).val != 0x20) = true then some (Sys2Proof.Machine.execLdD (Fin.ofNat 8 (w / 2 ^ 29)) (Fin.ofNat 64 (w / 2 ^ 16)) (Fin.ofNat 64 (w / 2 ^ 10)) (Fin.ofNat 16 (w / 2 ^ 6)) (Fin.ofNat 64 (w / 2 ^ 0)) s) else none)

theorem run23_eq (s : State) (w lit : Nat) : run23 s w lit = runOf (dec23 w lit) s :=
  runOf_ite rfl <| rfl

/-- Major 0x24, run. -/
def run24 (s : State) (w lit : Nat) : Option Out :=
  if fld w 0 6 = 0x20 then some (Sys2Proof.Machine.execLdQLiteral (Fin.ofNat 8 (w / 2 ^ 29)) (Fin.ofNat 64 (w / 2 ^ 16)) (Fin.ofNat 64 (w / 2 ^ 10)) (Fin.ofNat 16 (w / 2 ^ 6)) (BitVec.ofNat 32 lit) s) else (if ((Fin.ofNat 64 (w / 2 ^ 0)).val != 0x20) = true then some (Sys2Proof.Machine.execLdQ (Fin.ofNat 8 (w / 2 ^ 29)) (Fin.ofNat 64 (w / 2 ^ 16)) (Fin.ofNat 64 (w / 2 ^ 10)) (Fin.ofNat 16 (w / 2 ^ 6)) (Fin.ofNat 64 (w / 2 ^ 0)) s) else none)

theorem run24_eq (s : State) (w lit : Nat) : run24 s w lit = runOf (dec24 w lit) s :=
  runOf_ite rfl <| rfl

/-- Major 0x25, run. -/
def run25 (s : State) (w lit : Nat) : Option Out :=
  if fld w 6 4 = 0 then
    if fld w 0 6 = 0x20 then some (Sys2Proof.Machine.execStBLiteral (Fin.ofNat 8 (w / 2 ^ 29)) (Fin.ofNat 64 (w / 2 ^ 16)) (Fin.ofNat 64 (w / 2 ^ 10)) (BitVec.ofNat 32 lit) s) else (if ((Fin.ofNat 64 (w / 2 ^ 0)).val != 0x20) = true then some (Sys2Proof.Machine.execStB (Fin.ofNat 8 (w / 2 ^ 29)) (Fin.ofNat 64 (w / 2 ^ 16)) (Fin.ofNat 64 (w / 2 ^ 10)) (Fin.ofNat 64 (w / 2 ^ 0)) s) else none)
  else if fld w 6 4 = 1 then
    if fld w 0 6 = 0x20 then some (Sys2Proof.Machine.execStHLiteral (Fin.ofNat 8 (w / 2 ^ 29)) (Fin.ofNat 64 (w / 2 ^ 16)) (Fin.ofNat 64 (w / 2 ^ 10)) (BitVec.ofNat 32 lit) s) else (if ((Fin.ofNat 64 (w / 2 ^ 0)).val != 0x20) = true then some (Sys2Proof.Machine.execStH (Fin.ofNat 8 (w / 2 ^ 29)) (Fin.ofNat 64 (w / 2 ^ 16)) (Fin.ofNat 64 (w / 2 ^ 10)) (Fin.ofNat 64 (w / 2 ^ 0)) s) else none)
  else if fld w 6 4 = 2 then
    if fld w 0 6 = 0x20 then some (Sys2Proof.Machine.execStWLiteral (Fin.ofNat 8 (w / 2 ^ 29)) (Fin.ofNat 64 (w / 2 ^ 16)) (Fin.ofNat 64 (w / 2 ^ 10)) (BitVec.ofNat 32 lit) s) else (if ((Fin.ofNat 64 (w / 2 ^ 0)).val != 0x20) = true then some (Sys2Proof.Machine.execStW (Fin.ofNat 8 (w / 2 ^ 29)) (Fin.ofNat 64 (w / 2 ^ 16)) (Fin.ofNat 64 (w / 2 ^ 10)) (Fin.ofNat 64 (w / 2 ^ 0)) s) else none)
  else if fld w 6 4 = 3 then
    if fld w 0 6 = 0x20 then some (Sys2Proof.Machine.execStDLiteral (Fin.ofNat 8 (w / 2 ^ 29)) (Fin.ofNat 64 (w / 2 ^ 16)) (Fin.ofNat 64 (w / 2 ^ 10)) (BitVec.ofNat 32 lit) s) else (if ((Fin.ofNat 64 (w / 2 ^ 0)).val != 0x20) = true then some (Sys2Proof.Machine.execStD (Fin.ofNat 8 (w / 2 ^ 29)) (Fin.ofNat 64 (w / 2 ^ 16)) (Fin.ofNat 64 (w / 2 ^ 10)) (Fin.ofNat 64 (w / 2 ^ 0)) s) else none)
  else if fld w 6 4 = 4 then
    if fld w 0 6 = 0x20 then some (Sys2Proof.Machine.execStQLiteral (Fin.ofNat 8 (w / 2 ^ 29)) (Fin.ofNat 64 (w / 2 ^ 16)) (Fin.ofNat 64 (w / 2 ^ 10)) (BitVec.ofNat 32 lit) s) else (if ((Fin.ofNat 64 (w / 2 ^ 0)).val != 0x20) = true then some (Sys2Proof.Machine.execStQ (Fin.ofNat 8 (w / 2 ^ 29)) (Fin.ofNat 64 (w / 2 ^ 16)) (Fin.ofNat 64 (w / 2 ^ 10)) (Fin.ofNat 64 (w / 2 ^ 0)) s) else none)
  else none

theorem run25_eq (s : State) (w lit : Nat) : run25 s w lit = runOf (dec25 w lit) s :=
  runOf_ite (runOf_ite rfl <| rfl) <| runOf_ite (runOf_ite rfl <| rfl) <| runOf_ite (runOf_ite rfl <| rfl) <| runOf_ite (runOf_ite rfl <| rfl) <| runOf_ite (runOf_ite rfl <| rfl) <| rfl

/-- Major 0x26, run. -/
def run26 (s : State) (w lit : Nat) : Option Out :=
  if fld w 0 6 = 0x20 then some (Sys2Proof.Machine.execLdcLiteral (Fin.ofNat 8 (w / 2 ^ 29)) (Fin.ofNat 64 (w / 2 ^ 16)) (Fin.ofNat 64 (w / 2 ^ 10)) (Fin.ofNat 16 (w / 2 ^ 6)) (BitVec.ofNat 32 lit) s) else (if ((Fin.ofNat 64 (w / 2 ^ 0)).val != 0x20) = true then some (Sys2Proof.Machine.execLdc (Fin.ofNat 8 (w / 2 ^ 29)) (Fin.ofNat 64 (w / 2 ^ 16)) (Fin.ofNat 64 (w / 2 ^ 10)) (Fin.ofNat 16 (w / 2 ^ 6)) (Fin.ofNat 64 (w / 2 ^ 0)) s) else none)

theorem run26_eq (s : State) (w lit : Nat) : run26 s w lit = runOf (dec26 w lit) s :=
  runOf_ite rfl <| rfl

/-- Major 0x27, run. -/
def run27 (s : State) (w lit : Nat) : Option Out :=
  if fld w 6 4 = 0 then
    if fld w 0 6 = 0x20 then some (Sys2Proof.Machine.execStcLiteral (Fin.ofNat 8 (w / 2 ^ 29)) (Fin.ofNat 64 (w / 2 ^ 16)) (Fin.ofNat 64 (w / 2 ^ 10)) (BitVec.ofNat 32 lit) s) else (if ((Fin.ofNat 64 (w / 2 ^ 0)).val != 0x20) = true then some (Sys2Proof.Machine.execStc (Fin.ofNat 8 (w / 2 ^ 29)) (Fin.ofNat 64 (w / 2 ^ 16)) (Fin.ofNat 64 (w / 2 ^ 10)) (Fin.ofNat 64 (w / 2 ^ 0)) s) else none)
  else none

theorem run27_eq (s : State) (w lit : Nat) : run27 s w lit = runOf (dec27 w lit) s :=
  runOf_ite (runOf_ite rfl <| rfl) <| rfl

/-- Major 0x28, run. -/
def run28 (s : State) (w lit : Nat) : Option Out :=
  if fld w 6 4 = 0 ∧ fld w 21 1 = 0 then
    if fld w 0 6 = 0x20 then some (Sys2Proof.Machine.execLdqLiteral (Fin.ofNat 8 (w / 2 ^ 29)) (Fin.ofNat 32 (w / 2 ^ 16)) (Fin.ofNat 64 (w / 2 ^ 10)) (BitVec.ofNat 32 lit) s) else (if ((Fin.ofNat 64 (w / 2 ^ 0)).val != 0x20) = true then some (Sys2Proof.Machine.execLdq (Fin.ofNat 8 (w / 2 ^ 29)) (Fin.ofNat 32 (w / 2 ^ 16)) (Fin.ofNat 64 (w / 2 ^ 10)) (Fin.ofNat 64 (w / 2 ^ 0)) s) else none)
  else none

theorem run28_eq (s : State) (w lit : Nat) : run28 s w lit = runOf (dec28 w lit) s :=
  runOf_ite (runOf_ite rfl <| rfl) <| rfl

/-- Major 0x29, run. -/
def run29 (s : State) (w lit : Nat) : Option Out :=
  if fld w 6 4 = 0 ∧ fld w 21 1 = 0 then
    if fld w 0 6 = 0x20 then some (Sys2Proof.Machine.execStqLiteral (Fin.ofNat 8 (w / 2 ^ 29)) (Fin.ofNat 32 (w / 2 ^ 16)) (Fin.ofNat 64 (w / 2 ^ 10)) (BitVec.ofNat 32 lit) s) else (if ((Fin.ofNat 64 (w / 2 ^ 0)).val != 0x20) = true then some (Sys2Proof.Machine.execStq (Fin.ofNat 8 (w / 2 ^ 29)) (Fin.ofNat 32 (w / 2 ^ 16)) (Fin.ofNat 64 (w / 2 ^ 10)) (Fin.ofNat 64 (w / 2 ^ 0)) s) else none)
  else none

theorem run29_eq (s : State) (w lit : Nat) : run29 s w lit = runOf (dec29 w lit) s :=
  runOf_ite (runOf_ite rfl <| rfl) <| rfl

/-- Major 0x2A, run. -/
def run2A (s : State) (w : Nat) : Option Out :=
  if fld w 0 4 = 0 then
    (if (decide ((Fin.ofNat 64 (w / 2 ^ 16)).val + (Fin.ofNat 64 (w / 2 ^ 4)).val < 60) && !((Fin.ofNat 64 (w / 2 ^ 16)).val == 0 && (Fin.ofNat 64 (w / 2 ^ 4)).val == 0)) = true then some (Sys2Proof.Machine.execLdm (Fin.ofNat 8 (w / 2 ^ 29)) (Fin.ofNat 64 (w / 2 ^ 16)) (Fin.ofNat 64 (w / 2 ^ 10)) (Fin.ofNat 64 (w / 2 ^ 4)) s) else none)
  else if fld w 0 4 = 1 then
    (if (decide ((Fin.ofNat 64 (w / 2 ^ 16)).val + (Fin.ofNat 64 (w / 2 ^ 4)).val < 60) && !((Fin.ofNat 64 (w / 2 ^ 16)).val == 0 && (Fin.ofNat 64 (w / 2 ^ 4)).val == 0)) = true then some (Sys2Proof.Machine.execStm (Fin.ofNat 8 (w / 2 ^ 29)) (Fin.ofNat 64 (w / 2 ^ 16)) (Fin.ofNat 64 (w / 2 ^ 10)) (Fin.ofNat 64 (w / 2 ^ 4)) s) else none)
  else none

theorem run2A_eq (s : State) (w : Nat) : run2A s w = runOf (dec2A w) s :=
  runOf_ite rfl <| runOf_ite rfl <| rfl

/-- Major 0x2B, run. -/
def run2B (s : State) (w lit : Nat) : Option Out :=
  if fld w 21 1 = 0 then
    if fld w 0 6 = 0x20 then some (Sys2Proof.Machine.execVldLiteral (Fin.ofNat 8 (w / 2 ^ 29)) (Fin.ofNat 32 (w / 2 ^ 16)) (Fin.ofNat 64 (w / 2 ^ 10)) (Fin.ofNat 16 (w / 2 ^ 6)) (BitVec.ofNat 32 lit) s) else (if ((Fin.ofNat 64 (w / 2 ^ 0)).val != 0x20) = true then some (Sys2Proof.Machine.execVld (Fin.ofNat 8 (w / 2 ^ 29)) (Fin.ofNat 32 (w / 2 ^ 16)) (Fin.ofNat 64 (w / 2 ^ 10)) (Fin.ofNat 16 (w / 2 ^ 6)) (Fin.ofNat 64 (w / 2 ^ 0)) s) else none)
  else none

theorem run2B_eq (s : State) (w lit : Nat) : run2B s w lit = runOf (dec2B w lit) s :=
  runOf_ite (runOf_ite rfl <| rfl) <| rfl

/-- Major 0x2C, run. -/
def run2C (s : State) (w lit : Nat) : Option Out :=
  if fld w 9 1 = 0 ∧ fld w 21 1 = 0 then
    if fld w 0 6 = 0x20 then some (Sys2Proof.Machine.execVstLiteral (Fin.ofNat 8 (w / 2 ^ 29)) (Fin.ofNat 32 (w / 2 ^ 16)) (Fin.ofNat 64 (w / 2 ^ 10)) (Fin.ofNat 8 (w / 2 ^ 6)) (BitVec.ofNat 32 lit) s) else (if ((Fin.ofNat 64 (w / 2 ^ 0)).val != 0x20) = true then some (Sys2Proof.Machine.execVst (Fin.ofNat 8 (w / 2 ^ 29)) (Fin.ofNat 32 (w / 2 ^ 16)) (Fin.ofNat 64 (w / 2 ^ 10)) (Fin.ofNat 8 (w / 2 ^ 6)) (Fin.ofNat 64 (w / 2 ^ 0)) s) else none)
  else none

theorem run2C_eq (s : State) (w lit : Nat) : run2C s w lit = runOf (dec2C w lit) s :=
  runOf_ite (runOf_ite rfl <| rfl) <| rfl

/-- Major 0x2D, run. -/
def run2D (s : State) (w : Nat) : Option Out :=
  if fld w 0 2 = 0 ∧ fld w 21 1 = 0 then
    some (Sys2Proof.Machine.execVlds (Fin.ofNat 8 (w / 2 ^ 29)) (Fin.ofNat 32 (w / 2 ^ 16)) (Fin.ofNat 64 (w / 2 ^ 10)) (Fin.ofNat 64 (w / 2 ^ 4)) (Fin.ofNat 4 (w / 2 ^ 2)) s)
  else if fld w 0 2 = 1 ∧ fld w 9 1 = 0 ∧ fld w 21 1 = 0 then
    some (Sys2Proof.Machine.execVldx (Fin.ofNat 8 (w / 2 ^ 29)) (Fin.ofNat 32 (w / 2 ^ 16)) (Fin.ofNat 64 (w / 2 ^ 10)) (Fin.ofNat 32 (w / 2 ^ 4)) (Fin.ofNat 4 (w / 2 ^ 2)) s)
  else if fld w 0 2 = 2 ∧ fld w 21 1 = 0 then
    some (Sys2Proof.Machine.execVsts (Fin.ofNat 8 (w / 2 ^ 29)) (Fin.ofNat 32 (w / 2 ^ 16)) (Fin.ofNat 64 (w / 2 ^ 10)) (Fin.ofNat 64 (w / 2 ^ 4)) (Fin.ofNat 4 (w / 2 ^ 2)) s)
  else if fld w 0 2 = 3 ∧ fld w 9 1 = 0 ∧ fld w 21 1 = 0 then
    some (Sys2Proof.Machine.execVstx (Fin.ofNat 8 (w / 2 ^ 29)) (Fin.ofNat 32 (w / 2 ^ 16)) (Fin.ofNat 64 (w / 2 ^ 10)) (Fin.ofNat 32 (w / 2 ^ 4)) (Fin.ofNat 4 (w / 2 ^ 2)) s)
  else none

theorem run2D_eq (s : State) (w : Nat) : run2D s w = runOf (dec2D w) s :=
  runOf_ite rfl <| runOf_ite rfl <| runOf_ite rfl <| runOf_ite rfl <| rfl

/-- Major 0x2E, run. -/
def run2E (s : State) (w : Nat) : Option Out :=
  if fld w 0 4 = 0 then
    some (Sys2Proof.Machine.execAmoAdd (Fin.ofNat 8 (w / 2 ^ 29)) (Fin.ofNat 64 (w / 2 ^ 16)) (Fin.ofNat 64 (w / 2 ^ 10)) (Fin.ofNat 64 (w / 2 ^ 4)) s)
  else if fld w 0 4 = 1 then
    some (Sys2Proof.Machine.execAmoAnd (Fin.ofNat 8 (w / 2 ^ 29)) (Fin.ofNat 64 (w / 2 ^ 16)) (Fin.ofNat 64 (w / 2 ^ 10)) (Fin.ofNat 64 (w / 2 ^ 4)) s)
  else if fld w 0 4 = 2 then
    some (Sys2Proof.Machine.execAmoOr (Fin.ofNat 8 (w / 2 ^ 29)) (Fin.ofNat 64 (w / 2 ^ 16)) (Fin.ofNat 64 (w / 2 ^ 10)) (Fin.ofNat 64 (w / 2 ^ 4)) s)
  else if fld w 0 4 = 3 then
    some (Sys2Proof.Machine.execAmoXor (Fin.ofNat 8 (w / 2 ^ 29)) (Fin.ofNat 64 (w / 2 ^ 16)) (Fin.ofNat 64 (w / 2 ^ 10)) (Fin.ofNat 64 (w / 2 ^ 4)) s)
  else if fld w 0 4 = 4 then
    some (Sys2Proof.Machine.execAmoMin (Fin.ofNat 8 (w / 2 ^ 29)) (Fin.ofNat 64 (w / 2 ^ 16)) (Fin.ofNat 64 (w / 2 ^ 10)) (Fin.ofNat 64 (w / 2 ^ 4)) s)
  else if fld w 0 4 = 5 then
    some (Sys2Proof.Machine.execAmoMax (Fin.ofNat 8 (w / 2 ^ 29)) (Fin.ofNat 64 (w / 2 ^ 16)) (Fin.ofNat 64 (w / 2 ^ 10)) (Fin.ofNat 64 (w / 2 ^ 4)) s)
  else if fld w 0 4 = 6 then
    some (Sys2Proof.Machine.execAmoMinu (Fin.ofNat 8 (w / 2 ^ 29)) (Fin.ofNat 64 (w / 2 ^ 16)) (Fin.ofNat 64 (w / 2 ^ 10)) (Fin.ofNat 64 (w / 2 ^ 4)) s)
  else if fld w 0 4 = 7 then
    some (Sys2Proof.Machine.execAmoMaxu (Fin.ofNat 8 (w / 2 ^ 29)) (Fin.ofNat 64 (w / 2 ^ 16)) (Fin.ofNat 64 (w / 2 ^ 10)) (Fin.ofNat 64 (w / 2 ^ 4)) s)
  else if fld w 0 4 = 8 then
    some (Sys2Proof.Machine.execAmoSwap (Fin.ofNat 8 (w / 2 ^ 29)) (Fin.ofNat 64 (w / 2 ^ 16)) (Fin.ofNat 64 (w / 2 ^ 10)) (Fin.ofNat 64 (w / 2 ^ 4)) s)
  else if fld w 0 4 = 9 then
    some (Sys2Proof.Machine.execAmoCas (Fin.ofNat 8 (w / 2 ^ 29)) (Fin.ofNat 64 (w / 2 ^ 16)) (Fin.ofNat 64 (w / 2 ^ 10)) (Fin.ofNat 64 (w / 2 ^ 4)) s)
  else if fld w 0 4 = 10 then
    some (Sys2Proof.Machine.execAmoFadd (Fin.ofNat 8 (w / 2 ^ 29)) (Fin.ofNat 64 (w / 2 ^ 16)) (Fin.ofNat 64 (w / 2 ^ 10)) (Fin.ofNat 64 (w / 2 ^ 4)) s)
  else none

theorem run2E_eq (s : State) (w : Nat) : run2E s w = runOf (dec2E w) s :=
  runOf_ite rfl <| runOf_ite rfl <| runOf_ite rfl <| runOf_ite rfl <| runOf_ite rfl <| runOf_ite rfl <| runOf_ite rfl <| runOf_ite rfl <| runOf_ite rfl <| runOf_ite rfl <| runOf_ite rfl <| rfl

/-- Major 0x2F, run. -/
def run2F (s : State) (w : Nat) : Option Out :=
  if fld w 0 16 = 0 ∧ fld w 20 2 = 1 then
    (if (decide ((Fin.ofNat 16 (w / 2 ^ 16)).val < 9)) = true then some (Sys2Proof.Machine.execFenceAcq (Fin.ofNat 8 (w / 2 ^ 29)) (Fin.ofNat 16 (w / 2 ^ 16)) s) else none)
  else if fld w 0 16 = 0 ∧ fld w 20 2 = 2 then
    (if (decide ((Fin.ofNat 16 (w / 2 ^ 16)).val < 9)) = true then some (Sys2Proof.Machine.execFenceRel (Fin.ofNat 8 (w / 2 ^ 29)) (Fin.ofNat 16 (w / 2 ^ 16)) s) else none)
  else if fld w 0 16 = 0 ∧ fld w 20 2 = 3 then
    (if (decide ((Fin.ofNat 16 (w / 2 ^ 16)).val < 9)) = true then some (Sys2Proof.Machine.execFenceAr (Fin.ofNat 8 (w / 2 ^ 29)) (Fin.ofNat 16 (w / 2 ^ 16)) s) else none)
  else if fld w 0 4 = 1 ∧ fld w 16 6 = 0 then
    some (Sys2Proof.Machine.execAfence (Fin.ofNat 8 (w / 2 ^ 29)) (Fin.ofNat 64 (w / 2 ^ 10)) (Fin.ofNat 64 (w / 2 ^ 4)) s)
  else if fld w 0 10 = 2 ∧ fld w 16 6 = 0 then
    some (Sys2Proof.Machine.execPfx (Fin.ofNat 8 (w / 2 ^ 29)) (Fin.ofNat 64 (w / 2 ^ 10)) s)
  else if fld w 0 10 = 3 ∧ fld w 16 6 = 0 then
    some (Sys2Proof.Machine.execTouch (Fin.ofNat 8 (w / 2 ^ 29)) (Fin.ofNat 64 (w / 2 ^ 10)) s)
  else if fld w 0 10 = 3 ∧ fld w 16 6 = 1 then
    some (Sys2Proof.Machine.execTouchW (Fin.ofNat 8 (w / 2 ^ 29)) (Fin.ofNat 64 (w / 2 ^ 10)) s)
  else if fld w 0 16 = 4 ∧ fld w 19 3 = 0 then
    some (Sys2Proof.Machine.execBar (Fin.ofNat 8 (w / 2 ^ 29)) (Fin.ofNat 8 (w / 2 ^ 16)) s)
  else if fld w 0 4 = 5 ∧ fld w 19 3 = 0 then
    some (Sys2Proof.Machine.execGet (Fin.ofNat 8 (w / 2 ^ 29)) (Fin.ofNat 8 (w / 2 ^ 16)) (Fin.ofNat 64 (w / 2 ^ 10)) (Fin.ofNat 64 (w / 2 ^ 4)) s)
  else if fld w 0 4 = 6 ∧ fld w 19 3 = 0 then
    some (Sys2Proof.Machine.execGive (Fin.ofNat 8 (w / 2 ^ 29)) (Fin.ofNat 8 (w / 2 ^ 16)) (Fin.ofNat 64 (w / 2 ^ 10)) (Fin.ofNat 64 (w / 2 ^ 4)) s)
  else none

theorem run2F_eq (s : State) (w : Nat) : run2F s w = runOf (dec2F w) s :=
  runOf_ite rfl <| runOf_ite rfl <| runOf_ite rfl <| runOf_ite rfl <| runOf_ite rfl <| runOf_ite rfl <| runOf_ite rfl <| runOf_ite rfl <| runOf_ite rfl <| runOf_ite rfl <| rfl

/-- Major 0x30 to 0x32, run. -/
def run30 (s : State) (w : Nat) : Option Out :=
  if fld w 0 4 = 0 then
    (if ((Fin.ofNat 4 (w / 2 ^ 22)).val != 3) = true then some (Sys2Proof.Machine.execVaddInt (Fin.ofNat 8 (w / 2 ^ 29)) (Fin.ofNat 4 (w / 2 ^ 22)) (Fin.ofNat 32 (w / 2 ^ 17)) (Fin.ofNat 32 (w / 2 ^ 12)) (Fin.ofNat 32 (w / 2 ^ 7)) (Fin.ofNat 8 (w / 2 ^ 4)) s) else none)
  else if fld w 0 4 = 1 then
    (if ((Fin.ofNat 4 (w / 2 ^ 22)).val != 3) = true then some (Sys2Proof.Machine.execVsubInt (Fin.ofNat 8 (w / 2 ^ 29)) (Fin.ofNat 4 (w / 2 ^ 22)) (Fin.ofNat 32 (w / 2 ^ 17)) (Fin.ofNat 32 (w / 2 ^ 12)) (Fin.ofNat 32 (w / 2 ^ 7)) (Fin.ofNat 8 (w / 2 ^ 4)) s) else none)
  else if fld w 0 4 = 2 then
    (if ((Fin.ofNat 4 (w / 2 ^ 22)).val != 3) = true then some (Sys2Proof.Machine.execVmulInt (Fin.ofNat 8 (w / 2 ^ 29)) (Fin.ofNat 4 (w / 2 ^ 22)) (Fin.ofNat 32 (w / 2 ^ 17)) (Fin.ofNat 32 (w / 2 ^ 12)) (Fin.ofNat 32 (w / 2 ^ 7)) (Fin.ofNat 8 (w / 2 ^ 4)) s) else none)
  else if fld w 0 4 = 3 then
    (if ((Fin.ofNat 4 (w / 2 ^ 22)).val != 3) = true then some (Sys2Proof.Machine.execVminInt (Fin.ofNat 8 (w / 2 ^ 29)) (Fin.ofNat 4 (w / 2 ^ 22)) (Fin.ofNat 32 (w / 2 ^ 17)) (Fin.ofNat 32 (w / 2 ^ 12)) (Fin.ofNat 32 (w / 2 ^ 7)) (Fin.ofNat 8 (w / 2 ^ 4)) s) else none)
  else if fld w 0 4 = 4 then
    (if ((Fin.ofNat 4 (w / 2 ^ 22)).val != 3) = true then some (Sys2Proof.Machine.execVmaxInt (Fin.ofNat 8 (w / 2 ^ 29)) (Fin.ofNat 4 (w / 2 ^ 22)) (Fin.ofNat 32 (w / 2 ^ 17)) (Fin.ofNat 32 (w / 2 ^ 12)) (Fin.ofNat 32 (w / 2 ^ 7)) (Fin.ofNat 8 (w / 2 ^ 4)) s) else none)
  else if fld w 0 4 = 5 then
    (if ((Fin.ofNat 4 (w / 2 ^ 22)).val != 3) = true then some (Sys2Proof.Machine.execVand (Fin.ofNat 8 (w / 2 ^ 29)) (Fin.ofNat 4 (w / 2 ^ 22)) (Fin.ofNat 32 (w / 2 ^ 17)) (Fin.ofNat 32 (w / 2 ^ 12)) (Fin.ofNat 32 (w / 2 ^ 7)) (Fin.ofNat 8 (w / 2 ^ 4)) s) else none)
  else if fld w 0 4 = 6 then
    (if ((Fin.ofNat 4 (w / 2 ^ 22)).val != 3) = true then some (Sys2Proof.Machine.execVor (Fin.ofNat 8 (w / 2 ^ 29)) (Fin.ofNat 4 (w / 2 ^ 22)) (Fin.ofNat 32 (w / 2 ^ 17)) (Fin.ofNat 32 (w / 2 ^ 12)) (Fin.ofNat 32 (w / 2 ^ 7)) (Fin.ofNat 8 (w / 2 ^ 4)) s) else none)
  else if fld w 0 4 = 7 then
    (if ((Fin.ofNat 4 (w / 2 ^ 22)).val != 3) = true then some (Sys2Proof.Machine.execVxor (Fin.ofNat 8 (w / 2 ^ 29)) (Fin.ofNat 4 (w / 2 ^ 22)) (Fin.ofNat 32 (w / 2 ^ 17)) (Fin.ofNat 32 (w / 2 ^ 12)) (Fin.ofNat 32 (w / 2 ^ 7)) (Fin.ofNat 8 (w / 2 ^ 4)) s) else none)
  else if fld w 0 4 = 8 then
    (if ((Fin.ofNat 4 (w / 2 ^ 22)).val != 3) = true then some (Sys2Proof.Machine.execVshl (Fin.ofNat 8 (w / 2 ^ 29)) (Fin.ofNat 4 (w / 2 ^ 22)) (Fin.ofNat 32 (w / 2 ^ 17)) (Fin.ofNat 32 (w / 2 ^ 12)) (Fin.ofNat 32 (w / 2 ^ 7)) (Fin.ofNat 8 (w / 2 ^ 4)) s) else none)
  else if fld w 0 4 = 9 then
    (if ((Fin.ofNat 4 (w / 2 ^ 22)).val != 3) = true then some (Sys2Proof.Machine.execVshr (Fin.ofNat 8 (w / 2 ^ 29)) (Fin.ofNat 4 (w / 2 ^ 22)) (Fin.ofNat 32 (w / 2 ^ 17)) (Fin.ofNat 32 (w / 2 ^ 12)) (Fin.ofNat 32 (w / 2 ^ 7)) (Fin.ofNat 8 (w / 2 ^ 4)) s) else none)
  else if fld w 0 4 = 10 then
    (if ((Fin.ofNat 4 (w / 2 ^ 22)).val != 3) = true then some (Sys2Proof.Machine.execVshrA (Fin.ofNat 8 (w / 2 ^ 29)) (Fin.ofNat 4 (w / 2 ^ 22)) (Fin.ofNat 32 (w / 2 ^ 17)) (Fin.ofNat 32 (w / 2 ^ 12)) (Fin.ofNat 32 (w / 2 ^ 7)) (Fin.ofNat 8 (w / 2 ^ 4)) s) else none)
  else none

theorem run30_eq (s : State) (w : Nat) : run30 s w = runOf (dec30 w) s :=
  runOf_ite rfl <| runOf_ite rfl <| runOf_ite rfl <| runOf_ite rfl <| runOf_ite rfl <| runOf_ite rfl <| runOf_ite rfl <| runOf_ite rfl <| runOf_ite rfl <| runOf_ite rfl <| runOf_ite rfl <| rfl

/-- Major 0x33, run. -/
def run33 (s : State) (w : Nat) : Option Out :=
  if fld w 0 4 = 0 then
    some (Sys2Proof.Machine.execVaddF32 (Fin.ofNat 8 (w / 2 ^ 29)) (Fin.ofNat 32 (w / 2 ^ 17)) (Fin.ofNat 32 (w / 2 ^ 12)) (Fin.ofNat 32 (w / 2 ^ 7)) (Fin.ofNat 8 (w / 2 ^ 4)) s)
  else if fld w 0 4 = 1 then
    some (Sys2Proof.Machine.execVsubF32 (Fin.ofNat 8 (w / 2 ^ 29)) (Fin.ofNat 32 (w / 2 ^ 17)) (Fin.ofNat 32 (w / 2 ^ 12)) (Fin.ofNat 32 (w / 2 ^ 7)) (Fin.ofNat 8 (w / 2 ^ 4)) s)
  else if fld w 0 4 = 2 then
    some (Sys2Proof.Machine.execVmulF32 (Fin.ofNat 8 (w / 2 ^ 29)) (Fin.ofNat 32 (w / 2 ^ 17)) (Fin.ofNat 32 (w / 2 ^ 12)) (Fin.ofNat 32 (w / 2 ^ 7)) (Fin.ofNat 8 (w / 2 ^ 4)) s)
  else if fld w 0 4 = 3 then
    some (Sys2Proof.Machine.execVminF32 (Fin.ofNat 8 (w / 2 ^ 29)) (Fin.ofNat 32 (w / 2 ^ 17)) (Fin.ofNat 32 (w / 2 ^ 12)) (Fin.ofNat 32 (w / 2 ^ 7)) (Fin.ofNat 8 (w / 2 ^ 4)) s)
  else if fld w 0 4 = 4 then
    some (Sys2Proof.Machine.execVmaxF32 (Fin.ofNat 8 (w / 2 ^ 29)) (Fin.ofNat 32 (w / 2 ^ 17)) (Fin.ofNat 32 (w / 2 ^ 12)) (Fin.ofNat 32 (w / 2 ^ 7)) (Fin.ofNat 8 (w / 2 ^ 4)) s)
  else if fld w 0 4 = 5 then
    some (Sys2Proof.Machine.execVfmaF32 (Fin.ofNat 8 (w / 2 ^ 29)) (Fin.ofNat 32 (w / 2 ^ 17)) (Fin.ofNat 32 (w / 2 ^ 12)) (Fin.ofNat 32 (w / 2 ^ 7)) (Fin.ofNat 8 (w / 2 ^ 4)) s)
  else none

theorem run33_eq (s : State) (w : Nat) : run33 s w = runOf (dec33 w) s :=
  runOf_ite rfl <| runOf_ite rfl <| runOf_ite rfl <| runOf_ite rfl <| runOf_ite rfl <| runOf_ite rfl <| rfl

/-- Major 0x34, run. -/
def run34 (s : State) (w : Nat) : Option Out :=
  if fld w 0 4 = 0 then
    some (Sys2Proof.Machine.execVaddF16 (Fin.ofNat 8 (w / 2 ^ 29)) (Fin.ofNat 32 (w / 2 ^ 17)) (Fin.ofNat 32 (w / 2 ^ 12)) (Fin.ofNat 32 (w / 2 ^ 7)) (Fin.ofNat 8 (w / 2 ^ 4)) s)
  else if fld w 0 4 = 1 then
    some (Sys2Proof.Machine.execVsubF16 (Fin.ofNat 8 (w / 2 ^ 29)) (Fin.ofNat 32 (w / 2 ^ 17)) (Fin.ofNat 32 (w / 2 ^ 12)) (Fin.ofNat 32 (w / 2 ^ 7)) (Fin.ofNat 8 (w / 2 ^ 4)) s)
  else if fld w 0 4 = 2 then
    some (Sys2Proof.Machine.execVmulF16 (Fin.ofNat 8 (w / 2 ^ 29)) (Fin.ofNat 32 (w / 2 ^ 17)) (Fin.ofNat 32 (w / 2 ^ 12)) (Fin.ofNat 32 (w / 2 ^ 7)) (Fin.ofNat 8 (w / 2 ^ 4)) s)
  else if fld w 0 4 = 3 then
    some (Sys2Proof.Machine.execVminF16 (Fin.ofNat 8 (w / 2 ^ 29)) (Fin.ofNat 32 (w / 2 ^ 17)) (Fin.ofNat 32 (w / 2 ^ 12)) (Fin.ofNat 32 (w / 2 ^ 7)) (Fin.ofNat 8 (w / 2 ^ 4)) s)
  else if fld w 0 4 = 4 then
    some (Sys2Proof.Machine.execVmaxF16 (Fin.ofNat 8 (w / 2 ^ 29)) (Fin.ofNat 32 (w / 2 ^ 17)) (Fin.ofNat 32 (w / 2 ^ 12)) (Fin.ofNat 32 (w / 2 ^ 7)) (Fin.ofNat 8 (w / 2 ^ 4)) s)
  else if fld w 0 4 = 5 then
    some (Sys2Proof.Machine.execVfmaF16 (Fin.ofNat 8 (w / 2 ^ 29)) (Fin.ofNat 32 (w / 2 ^ 17)) (Fin.ofNat 32 (w / 2 ^ 12)) (Fin.ofNat 32 (w / 2 ^ 7)) (Fin.ofNat 8 (w / 2 ^ 4)) s)
  else none

theorem run34_eq (s : State) (w : Nat) : run34 s w = runOf (dec34 w) s :=
  runOf_ite rfl <| runOf_ite rfl <| runOf_ite rfl <| runOf_ite rfl <| runOf_ite rfl <| runOf_ite rfl <| rfl

/-- Major 0x35, run. -/
def run35 (s : State) (w : Nat) : Option Out :=
  if fld w 0 4 = 0 then
    some (Sys2Proof.Machine.execVaddBf16 (Fin.ofNat 8 (w / 2 ^ 29)) (Fin.ofNat 32 (w / 2 ^ 17)) (Fin.ofNat 32 (w / 2 ^ 12)) (Fin.ofNat 32 (w / 2 ^ 7)) (Fin.ofNat 8 (w / 2 ^ 4)) s)
  else if fld w 0 4 = 1 then
    some (Sys2Proof.Machine.execVsubBf16 (Fin.ofNat 8 (w / 2 ^ 29)) (Fin.ofNat 32 (w / 2 ^ 17)) (Fin.ofNat 32 (w / 2 ^ 12)) (Fin.ofNat 32 (w / 2 ^ 7)) (Fin.ofNat 8 (w / 2 ^ 4)) s)
  else if fld w 0 4 = 2 then
    some (Sys2Proof.Machine.execVmulBf16 (Fin.ofNat 8 (w / 2 ^ 29)) (Fin.ofNat 32 (w / 2 ^ 17)) (Fin.ofNat 32 (w / 2 ^ 12)) (Fin.ofNat 32 (w / 2 ^ 7)) (Fin.ofNat 8 (w / 2 ^ 4)) s)
  else if fld w 0 4 = 3 then
    some (Sys2Proof.Machine.execVminBf16 (Fin.ofNat 8 (w / 2 ^ 29)) (Fin.ofNat 32 (w / 2 ^ 17)) (Fin.ofNat 32 (w / 2 ^ 12)) (Fin.ofNat 32 (w / 2 ^ 7)) (Fin.ofNat 8 (w / 2 ^ 4)) s)
  else if fld w 0 4 = 4 then
    some (Sys2Proof.Machine.execVmaxBf16 (Fin.ofNat 8 (w / 2 ^ 29)) (Fin.ofNat 32 (w / 2 ^ 17)) (Fin.ofNat 32 (w / 2 ^ 12)) (Fin.ofNat 32 (w / 2 ^ 7)) (Fin.ofNat 8 (w / 2 ^ 4)) s)
  else if fld w 0 4 = 5 then
    some (Sys2Proof.Machine.execVfmaBf16 (Fin.ofNat 8 (w / 2 ^ 29)) (Fin.ofNat 32 (w / 2 ^ 17)) (Fin.ofNat 32 (w / 2 ^ 12)) (Fin.ofNat 32 (w / 2 ^ 7)) (Fin.ofNat 8 (w / 2 ^ 4)) s)
  else none

theorem run35_eq (s : State) (w : Nat) : run35 s w = runOf (dec35 w) s :=
  runOf_ite rfl <| runOf_ite rfl <| runOf_ite rfl <| runOf_ite rfl <| runOf_ite rfl <| runOf_ite rfl <| rfl

/-- Major 0x36, run. -/
def run36 (s : State) (w : Nat) : Option Out :=
  if fld w 20 2 = 0 then
    (if (if (Fin.ofNat 2 (w / 2 ^ 3)).val = 0 then decide ((Fin.ofNat 8 (w / 2 ^ 0)).val < 6) else (Fin.ofNat 8 (w / 2 ^ 0)).val != 4 && (Fin.ofNat 8 (w / 2 ^ 0)).val != 5 && (Fin.ofNat 8 (w / 2 ^ 0)).val != 7) = true then some (Sys2Proof.Machine.execVcmp (Fin.ofNat 8 (w / 2 ^ 29)) (Fin.ofNat 8 (w / 2 ^ 17)) (Fin.ofNat 32 (w / 2 ^ 12)) (Fin.ofNat 32 (w / 2 ^ 7)) (Fin.ofNat 8 (w / 2 ^ 4)) (Fin.ofNat 2 (w / 2 ^ 3)) (Fin.ofNat 8 (w / 2 ^ 0)) s) else none)
  else none

theorem run36_eq (s : State) (w : Nat) : run36 s w = runOf (dec36 w) s :=
  runOf_ite rfl <| rfl

/-- Major 0x37, run. -/
def run37 (s : State) (w : Nat) : Option Out :=
  if fld w 0 4 = 0 then
    some (Sys2Proof.Machine.execVsel (Fin.ofNat 8 (w / 2 ^ 29)) (Fin.ofNat 32 (w / 2 ^ 17)) (Fin.ofNat 32 (w / 2 ^ 12)) (Fin.ofNat 32 (w / 2 ^ 7)) (Fin.ofNat 8 (w / 2 ^ 4)) s)
  else if fld w 0 4 = 1 then
    some (Sys2Proof.Machine.execVperm (Fin.ofNat 8 (w / 2 ^ 29)) (Fin.ofNat 32 (w / 2 ^ 17)) (Fin.ofNat 32 (w / 2 ^ 12)) (Fin.ofNat 32 (w / 2 ^ 7)) (Fin.ofNat 8 (w / 2 ^ 4)) s)
  else if fld w 0 4 = 2 then
    (if ((Fin.ofNat 32 (w / 2 ^ 17)).val % 2 == 0 && decide ((Fin.ofNat 32 (w / 2 ^ 17)).val ≤ 28)) = true then some (Sys2Proof.Machine.execVmerge (Fin.ofNat 8 (w / 2 ^ 29)) (Fin.ofNat 32 (w / 2 ^ 17)) (Fin.ofNat 32 (w / 2 ^ 12)) (Fin.ofNat 32 (w / 2 ^ 7)) (Fin.ofNat 8 (w / 2 ^ 4)) s) else none)
  else if fld w 0 4 = 3 ∧ fld w 7 5 = 0 then
    some (Sys2Proof.Machine.execVcomp (Fin.ofNat 8 (w / 2 ^ 29)) (Fin.ofNat 32 (w / 2 ^ 17)) (Fin.ofNat 32 (w / 2 ^ 12)) (Fin.ofNat 8 (w / 2 ^ 4)) s)
  else if fld w 0 4 = 4 ∧ fld w 7 5 = 0 then
    some (Sys2Proof.Machine.execVexpd (Fin.ofNat 8 (w / 2 ^ 29)) (Fin.ofNat 32 (w / 2 ^ 17)) (Fin.ofNat 32 (w / 2 ^ 12)) (Fin.ofNat 8 (w / 2 ^ 4)) s)
  else none

theorem run37_eq (s : State) (w : Nat) : run37 s w = runOf (dec37 w) s :=
  runOf_ite rfl <| runOf_ite rfl <| runOf_ite rfl <| runOf_ite rfl <| runOf_ite rfl <| rfl

/-- Major 0x38, run. -/
def run38 (s : State) (w : Nat) : Option Out :=
  if fld w 0 3 = 0 ∧ fld w 12 5 = 0 then
    some (Sys2Proof.Machine.execVbcast (Fin.ofNat 8 (w / 2 ^ 29)) (Fin.ofNat 32 (w / 2 ^ 17)) (Fin.ofNat 64 (w / 2 ^ 6)) (Fin.ofNat 8 (w / 2 ^ 3)) s)
  else if fld w 0 3 = 1 ∧ fld w 12 5 = 0 then
    some (Sys2Proof.Machine.execVrnd (Fin.ofNat 8 (w / 2 ^ 29)) (Fin.ofNat 32 (w / 2 ^ 17)) (Fin.ofNat 64 (w / 2 ^ 6)) (Fin.ofNat 8 (w / 2 ^ 3)) s)
  else if fld w 0 3 = 2 ∧ fld w 12 5 = 0 then
    some (Sys2Proof.Machine.execVrndf (Fin.ofNat 8 (w / 2 ^ 29)) (Fin.ofNat 32 (w / 2 ^ 17)) (Fin.ofNat 64 (w / 2 ^ 6)) (Fin.ofNat 8 (w / 2 ^ 3)) s)
  else if fld w 0 3 = 3 then
    some (Sys2Proof.Machine.execNrns (Fin.ofNat 8 (w / 2 ^ 29)) (Fin.ofNat 32 (w / 2 ^ 17)) (Fin.ofNat 32 (w / 2 ^ 12)) (Fin.ofNat 64 (w / 2 ^ 6)) (Fin.ofNat 8 (w / 2 ^ 3)) s)
  else if fld w 0 3 = 4 ∧ fld w 17 5 = 0 then
    some (Sys2Proof.Machine.execSpkout (Fin.ofNat 8 (w / 2 ^ 29)) (Fin.ofNat 32 (w / 2 ^ 12)) (Fin.ofNat 64 (w / 2 ^ 6)) (Fin.ofNat 8 (w / 2 ^ 3)) s)
  else if fld w 0 3 = 5 then
    (if (decide ((Fin.ofNat 32 (w / 2 ^ 17)).val < 3)) = true then some (Sys2Proof.Machine.execVbsum (Fin.ofNat 8 (w / 2 ^ 29)) (Fin.ofNat 32 (w / 2 ^ 17)) (Fin.ofNat 32 (w / 2 ^ 12)) (Fin.ofNat 64 (w / 2 ^ 6)) (Fin.ofNat 8 (w / 2 ^ 3)) s) else none)
  else if fld w 0 6 = 6 ∧ fld w 17 5 = 0 then
    some (Sys2Proof.Machine.execBsadd (Fin.ofNat 8 (w / 2 ^ 29)) (Fin.ofNat 32 (w / 2 ^ 12)) (Fin.ofNat 64 (w / 2 ^ 6)) s)
  else none

theorem run38_eq (s : State) (w : Nat) : run38 s w = runOf (dec38 w) s :=
  runOf_ite rfl <| runOf_ite rfl <| runOf_ite rfl <| runOf_ite rfl <| runOf_ite rfl <| runOf_ite rfl <| runOf_ite rfl <| rfl

/-- Major 0x39, run. -/
def run39 (s : State) (w : Nat) : Option Out :=
  if fld w 0 3 = 0 ∧ fld w 12 5 = 0 then
    some (Sys2Proof.Machine.execMovVc (Fin.ofNat 8 (w / 2 ^ 29)) (Fin.ofNat 32 (w / 2 ^ 17)) (Fin.ofNat 64 (w / 2 ^ 6)) (Fin.ofNat 8 (w / 2 ^ 3)) s)
  else if fld w 0 3 = 1 ∧ fld w 17 5 = 0 then
    some (Sys2Proof.Machine.execMovCv (Fin.ofNat 8 (w / 2 ^ 29)) (Fin.ofNat 32 (w / 2 ^ 12)) (Fin.ofNat 64 (w / 2 ^ 6)) (Fin.ofNat 8 (w / 2 ^ 3)) s)
  else if fld w 0 6 = 2 ∧ fld w 12 5 = 0 ∧ fld w 20 2 = 0 then
    some (Sys2Proof.Machine.execMovMc (Fin.ofNat 8 (w / 2 ^ 29)) (Fin.ofNat 8 (w / 2 ^ 17)) (Fin.ofNat 64 (w / 2 ^ 6)) s)
  else if fld w 0 6 = 3 ∧ fld w 15 7 = 0 then
    some (Sys2Proof.Machine.execMovCm (Fin.ofNat 8 (w / 2 ^ 29)) (Fin.ofNat 8 (w / 2 ^ 12)) (Fin.ofNat 64 (w / 2 ^ 6)) s)
  else none

theorem run39_eq (s : State) (w : Nat) : run39 s w = runOf (dec39 w) s :=
  runOf_ite rfl <| runOf_ite rfl <| runOf_ite rfl <| runOf_ite rfl <| rfl

/-- Major 0x3A, run. -/
def run3A (s : State) (w : Nat) : Option Out :=
  (if (decide ((Fin.ofNat 32 (w / 2 ^ 0)).val < 20)) = true then some (Sys2Proof.Machine.execVred (Fin.ofNat 8 (w / 2 ^ 29)) (Fin.ofNat 32 (w / 2 ^ 17)) (Fin.ofNat 32 (w / 2 ^ 12)) (Fin.ofNat 8 (w / 2 ^ 9)) (Fin.ofNat 16 (w / 2 ^ 5)) (Fin.ofNat 32 (w / 2 ^ 0)) s) else none)

theorem run3A_eq (s : State) (w : Nat) : run3A s w = runOf (dec3A w) s :=
  rfl

/-- Major 0x3B, run. -/
def run3B (s : State) (w : Nat) : Option Out :=
  (if (decide ((Fin.ofNat 32 (w / 2 ^ 0)).val < 20)) = true then some (Sys2Proof.Machine.execVscan (Fin.ofNat 8 (w / 2 ^ 29)) (Fin.ofNat 32 (w / 2 ^ 17)) (Fin.ofNat 32 (w / 2 ^ 12)) (Fin.ofNat 8 (w / 2 ^ 9)) (Fin.ofNat 16 (w / 2 ^ 5)) (Fin.ofNat 32 (w / 2 ^ 0)) s) else none)

theorem run3B_eq (s : State) (w : Nat) : run3B s w = runOf (dec3B w) s :=
  rfl

/-- Major 0x3C, run. -/
def run3C (s : State) (w : Nat) : Option Out :=
  if fld w 0 2 = 0 ∧ fld w 3 2 = 0 then
    some (Sys2Proof.Machine.execVsqrt (Fin.ofNat 8 (w / 2 ^ 29)) (Fin.ofNat 32 (w / 2 ^ 17)) (Fin.ofNat 32 (w / 2 ^ 12)) (Fin.ofNat 8 (w / 2 ^ 9)) (Fin.ofNat 16 (w / 2 ^ 5)) (Fin.ofNat 2 (w / 2 ^ 2)) s)
  else if fld w 0 2 = 1 ∧ fld w 3 2 = 0 then
    some (Sys2Proof.Machine.execVexp2 (Fin.ofNat 8 (w / 2 ^ 29)) (Fin.ofNat 32 (w / 2 ^ 17)) (Fin.ofNat 32 (w / 2 ^ 12)) (Fin.ofNat 8 (w / 2 ^ 9)) (Fin.ofNat 16 (w / 2 ^ 5)) (Fin.ofNat 2 (w / 2 ^ 2)) s)
  else if fld w 0 2 = 2 ∧ fld w 3 2 = 0 then
    some (Sys2Proof.Machine.execVlog2 (Fin.ofNat 8 (w / 2 ^ 29)) (Fin.ofNat 32 (w / 2 ^ 17)) (Fin.ofNat 32 (w / 2 ^ 12)) (Fin.ofNat 8 (w / 2 ^ 9)) (Fin.ofNat 16 (w / 2 ^ 5)) (Fin.ofNat 2 (w / 2 ^ 2)) s)
  else if fld w 0 2 = 3 ∧ fld w 3 2 = 0 then
    some (Sys2Proof.Machine.execVrcp (Fin.ofNat 8 (w / 2 ^ 29)) (Fin.ofNat 32 (w / 2 ^ 17)) (Fin.ofNat 32 (w / 2 ^ 12)) (Fin.ofNat 8 (w / 2 ^ 9)) (Fin.ofNat 16 (w / 2 ^ 5)) (Fin.ofNat 2 (w / 2 ^ 2)) s)
  else none

theorem run3C_eq (s : State) (w : Nat) : run3C s w = runOf (dec3C w) s :=
  runOf_ite rfl <| runOf_ite rfl <| runOf_ite rfl <| runOf_ite rfl <| rfl

/-- Major 0x3D, run. -/
def run3D (s : State) (w : Nat) : Option Out :=
  some (Sys2Proof.Machine.execVdivF32 (Fin.ofNat 8 (w / 2 ^ 29)) (Fin.ofNat 32 (w / 2 ^ 17)) (Fin.ofNat 32 (w / 2 ^ 12)) (Fin.ofNat 8 (w / 2 ^ 9)) (Fin.ofNat 16 (w / 2 ^ 5)) (Fin.ofNat 32 (w / 2 ^ 0)) s)

theorem run3D_eq (s : State) (w : Nat) : run3D s w = runOf (dec3D w) s :=
  rfl

/-- Major 0x3E, run. -/
def run3E (s : State) (w : Nat) : Option Out :=
  (if (!(decide (16 ≤ (Fin.ofNat 32 (w / 2 ^ 0)).val) && decide ((Fin.ofNat 32 (w / 2 ^ 0)).val < 20)) || (Fin.ofNat 8 (w / 2 ^ 9)).val == 0) = true then some (Sys2Proof.Machine.execVcvt (Fin.ofNat 8 (w / 2 ^ 29)) (Fin.ofNat 32 (w / 2 ^ 17)) (Fin.ofNat 32 (w / 2 ^ 12)) (Fin.ofNat 8 (w / 2 ^ 9)) (Fin.ofNat 16 (w / 2 ^ 5)) (Fin.ofNat 32 (w / 2 ^ 0)) s) else none)

theorem run3E_eq (s : State) (w : Nat) : run3E s w = runOf (dec3E w) s :=
  rfl

/-- Major 0x3F, run. -/
def run3F (s : State) (w : Nat) : Option Out :=
  some (Sys2Proof.Machine.execVdivF16 (Fin.ofNat 8 (w / 2 ^ 29)) (Fin.ofNat 32 (w / 2 ^ 17)) (Fin.ofNat 32 (w / 2 ^ 12)) (Fin.ofNat 8 (w / 2 ^ 9)) (Fin.ofNat 16 (w / 2 ^ 5)) (Fin.ofNat 32 (w / 2 ^ 0)) s)

theorem run3F_eq (s : State) (w : Nat) : run3F s w = runOf (dec3F w) s :=
  rfl

/-- Major 0x40, run. -/
def run40 (s : State) (w : Nat) : Option Out :=
  if fld w 0 2 = 0 then
    some (Sys2Proof.Machine.execTrd (Fin.ofNat 8 (w / 2 ^ 29)) (Fin.ofNat 8 (w / 2 ^ 19)) (Fin.ofNat 2 (w / 2 ^ 18)) (Fin.ofNat 64 (w / 2 ^ 12)) (Fin.ofNat 32 (w / 2 ^ 7)) (Fin.ofNat 32 (w / 2 ^ 2)) s)
  else if fld w 0 2 = 1 then
    some (Sys2Proof.Machine.execTwr (Fin.ofNat 8 (w / 2 ^ 29)) (Fin.ofNat 8 (w / 2 ^ 19)) (Fin.ofNat 2 (w / 2 ^ 18)) (Fin.ofNat 64 (w / 2 ^ 12)) (Fin.ofNat 32 (w / 2 ^ 7)) (Fin.ofNat 32 (w / 2 ^ 2)) s)
  else if fld w 0 19 = 2 then
    some (Sys2Proof.Machine.execTzero (Fin.ofNat 8 (w / 2 ^ 29)) (Fin.ofNat 8 (w / 2 ^ 19)) s)
  else if fld w 0 19 = 3 then
    some (Sys2Proof.Machine.execTtrans (Fin.ofNat 8 (w / 2 ^ 29)) (Fin.ofNat 8 (w / 2 ^ 19)) s)
  else none

theorem run40_eq (s : State) (w : Nat) : run40 s w = runOf (dec40 w) s :=
  runOf_ite rfl <| runOf_ite rfl <| runOf_ite rfl <| runOf_ite rfl <| rfl

/-- Major 0x41, run. -/
def run41 (s : State) (w : Nat) : Option Out :=
  if fld w 0 16 = 0 ∧ fld w 19 3 = 0 then
    some (Sys2Proof.Machine.execTclaim (Fin.ofNat 8 (w / 2 ^ 29)) (Fin.ofNat 8 (w / 2 ^ 16)) s)
  else if fld w 0 16 = 1 ∧ fld w 19 3 = 0 then
    some (Sys2Proof.Machine.execTfree (Fin.ofNat 8 (w / 2 ^ 29)) (Fin.ofNat 8 (w / 2 ^ 16)) s)
  else none

theorem run41_eq (s : State) (w : Nat) : run41 s w = runOf (dec41 w) s :=
  runOf_ite rfl <| runOf_ite rfl <| rfl

/-- Major 0x42, run. -/
def run42 (s : State) (w : Nat) : Option Out :=
  if fld w 16 6 = 0 then
    some (Sys2Proof.Machine.execPld (Fin.ofNat 8 (w / 2 ^ 29)) (Fin.ofNat 16 (w / 2 ^ 12)) (Fin.ofNat 64 (w / 2 ^ 6)) (Fin.ofNat 64 (w / 2 ^ 0)) s)
  else if fld w 12 4 = 0 ∧ fld w 19 3 = 1 then
    some (Sys2Proof.Machine.execPst (Fin.ofNat 8 (w / 2 ^ 29)) (Fin.ofNat 8 (w / 2 ^ 16)) (Fin.ofNat 64 (w / 2 ^ 6)) (Fin.ofNat 64 (w / 2 ^ 0)) s)
  else if fld w 12 4 = 0 ∧ fld w 19 3 = 2 then
    some (Sys2Proof.Machine.execPlupd (Fin.ofNat 8 (w / 2 ^ 29)) (Fin.ofNat 8 (w / 2 ^ 16)) (Fin.ofNat 64 (w / 2 ^ 6)) (Fin.ofNat 64 (w / 2 ^ 0)) s)
  else if fld w 12 4 = 0 ∧ fld w 19 3 = 3 then
    some (Sys2Proof.Machine.execPlaxpy (Fin.ofNat 8 (w / 2 ^ 29)) (Fin.ofNat 8 (w / 2 ^ 16)) (Fin.ofNat 64 (w / 2 ^ 6)) (Fin.ofNat 64 (w / 2 ^ 0)) s)
  else if fld w 16 6 = 32 then
    some (Sys2Proof.Machine.execPlhdr (Fin.ofNat 8 (w / 2 ^ 29)) (Fin.ofNat 16 (w / 2 ^ 12)) (Fin.ofNat 64 (w / 2 ^ 6)) (Fin.ofNat 64 (w / 2 ^ 0)) s)
  else none

theorem run42_eq (s : State) (w : Nat) : run42 s w = runOf (dec42 w) s :=
  runOf_ite rfl <| runOf_ite rfl <| runOf_ite rfl <| runOf_ite rfl <| runOf_ite rfl <| rfl

/-- Major 0x48, run. -/
def run48 (s : State) (w : Nat) : Option Out :=
  if fld w 12 4 = 0 ∧ fld w 19 3 = 0 then
    some (Sys2Proof.Machine.execMlease (Fin.ofNat 8 (w / 2 ^ 29)) (Fin.ofNat 8 (w / 2 ^ 16)) (Fin.ofNat 64 (w / 2 ^ 6)) (Fin.ofNat 64 (w / 2 ^ 0)) s)
  else if fld w 0 22 = 524288 then
    some (Sys2Proof.Machine.execMfree (Fin.ofNat 8 (w / 2 ^ 29)) s)
  else none

theorem run48_eq (s : State) (w : Nat) : run48 s w = runOf (dec48 w) s :=
  runOf_ite rfl <| runOf_ite rfl <| rfl

/-- Major 0x49, run. -/
def run49 (s : State) (w : Nat) : Option Out :=
  if fld w 0 10 = 0 then
    some (Sys2Proof.Machine.execMgeo (Fin.ofNat 8 (w / 2 ^ 29)) (Fin.ofNat 64 (w / 2 ^ 16)) (Fin.ofNat 64 (w / 2 ^ 10)) s)
  else if fld w 0 10 = 1 then
    some (Sys2Proof.Machine.execMgeor (Fin.ofNat 8 (w / 2 ^ 29)) (Fin.ofNat 64 (w / 2 ^ 16)) (Fin.ofNat 64 (w / 2 ^ 10)) s)
  else if fld w 0 10 = 2 then
    some (Sys2Proof.Machine.execMstat (Fin.ofNat 8 (w / 2 ^ 29)) (Fin.ofNat 64 (w / 2 ^ 16)) (Fin.ofNat 64 (w / 2 ^ 10)) s)
  else if fld w 0 16 = 3 ∧ fld w 19 3 = 0 then
    some (Sys2Proof.Machine.execMzero (Fin.ofNat 8 (w / 2 ^ 29)) (Fin.ofNat 8 (w / 2 ^ 16)) s)
  else none

theorem run49_eq (s : State) (w : Nat) : run49 s w = runOf (dec49 w) s :=
  runOf_ite rfl <| runOf_ite rfl <| runOf_ite rfl <| runOf_ite rfl <| rfl

/-- Major 0x4A, run. -/
def run4A (s : State) (w : Nat) : Option Out :=
  if fld w 12 4 = 0 ∧ fld w 19 3 = 0 then
    some (Sys2Proof.Machine.execMldb (Fin.ofNat 8 (w / 2 ^ 29)) (Fin.ofNat 8 (w / 2 ^ 16)) (Fin.ofNat 64 (w / 2 ^ 6)) (Fin.ofNat 64 (w / 2 ^ 0)) s)
  else if fld w 12 4 = 0 ∧ fld w 19 3 = 1 then
    some (Sys2Proof.Machine.execMgath (Fin.ofNat 8 (w / 2 ^ 29)) (Fin.ofNat 8 (w / 2 ^ 16)) (Fin.ofNat 64 (w / 2 ^ 6)) (Fin.ofNat 64 (w / 2 ^ 0)) s)
  else if fld w 19 3 = 2 then
    some (Sys2Proof.Machine.execMrd (Fin.ofNat 8 (w / 2 ^ 29)) (Fin.ofNat 8 (w / 2 ^ 16)) (Fin.ofNat 16 (w / 2 ^ 12)) (Fin.ofNat 64 (w / 2 ^ 6)) (Fin.ofNat 64 (w / 2 ^ 0)) s)
  else none

theorem run4A_eq (s : State) (w : Nat) : run4A s w = runOf (dec4A w) s :=
  runOf_ite rfl <| runOf_ite rfl <| runOf_ite rfl <| rfl

/-- Major 0x50, run. -/
def run50 (s : State) (w : Nat) : Option Out :=
  if fld w 0 4 = 0 ∧ fld w 16 6 = 0 then
    some (Sys2Proof.Machine.execSend (Fin.ofNat 8 (w / 2 ^ 29)) (Fin.ofNat 64 (w / 2 ^ 10)) (Fin.ofNat 64 (w / 2 ^ 4)) s)
  else if fld w 0 4 = 1 ∧ fld w 16 6 = 0 then
    some (Sys2Proof.Machine.execSendi (Fin.ofNat 8 (w / 2 ^ 29)) (Fin.ofNat 64 (w / 2 ^ 10)) (Fin.ofNat 64 (w / 2 ^ 4)) s)
  else if fld w 0 10 = 2 ∧ fld w 16 6 = 0 then
    some (Sys2Proof.Machine.execWmark (Fin.ofNat 8 (w / 2 ^ 29)) (Fin.ofNat 64 (w / 2 ^ 10)) s)
  else if fld w 0 10 = 3 ∧ fld w 16 6 = 0 then
    some (Sys2Proof.Machine.execWaitch (Fin.ofNat 8 (w / 2 ^ 29)) (Fin.ofNat 64 (w / 2 ^ 10)) s)
  else if fld w 0 4 = 4 then
    some (Sys2Proof.Machine.execHmask (Fin.ofNat 8 (w / 2 ^ 29)) (Fin.ofNat 64 (w / 2 ^ 16)) (Fin.ofNat 64 (w / 2 ^ 10)) (Fin.ofNat 64 (w / 2 ^ 4)) s)
  else if fld w 0 4 = 5 ∧ fld w 16 6 = 0 then
    some (Sys2Proof.Machine.execHset (Fin.ofNat 8 (w / 2 ^ 29)) (Fin.ofNat 64 (w / 2 ^ 10)) (Fin.ofNat 64 (w / 2 ^ 4)) s)
  else if fld w 0 4 = 6 ∧ fld w 16 6 = 0 then
    some (Sys2Proof.Machine.execChcap (Fin.ofNat 8 (w / 2 ^ 29)) (Fin.ofNat 64 (w / 2 ^ 10)) (Fin.ofNat 64 (w / 2 ^ 4)) s)
  else none

theorem run50_eq (s : State) (w : Nat) : run50 s w = runOf (dec50 w) s :=
  runOf_ite rfl <| runOf_ite rfl <| runOf_ite rfl <| runOf_ite rfl <| runOf_ite rfl <| runOf_ite rfl <| runOf_ite rfl <| rfl

/-- Major 0x51, run. -/
def run51 (s : State) (w : Nat) : Option Out :=
  if fld w 0 4 = 0 ∧ fld w 16 6 = 0 then
    some (Sys2Proof.Machine.execWincfg (Fin.ofNat 8 (w / 2 ^ 29)) (Fin.ofNat 64 (w / 2 ^ 10)) (Fin.ofNat 64 (w / 2 ^ 4)) s)
  else if fld w 0 10 = 1 ∧ fld w 16 6 = 0 then
    some (Sys2Proof.Machine.execWinclose (Fin.ofNat 8 (w / 2 ^ 29)) (Fin.ofNat 64 (w / 2 ^ 10)) s)
  else none

theorem run51_eq (s : State) (w : Nat) : run51 s w = runOf (dec51 w) s :=
  runOf_ite rfl <| runOf_ite rfl <| rfl

/-- Major 0x52, run. -/
def run52 (s : State) (w : Nat) : Option Out :=
  if fld w 0 4 = 0 ∧ fld w 16 6 = 0 then
    some (Sys2Proof.Machine.execDkcfg (Fin.ofNat 8 (w / 2 ^ 29)) (Fin.ofNat 64 (w / 2 ^ 10)) (Fin.ofNat 64 (w / 2 ^ 4)) s)
  else if fld w 0 10 = 1 ∧ fld w 16 6 = 0 then
    some (Sys2Proof.Machine.execDkflush (Fin.ofNat 8 (w / 2 ^ 29)) (Fin.ofNat 64 (w / 2 ^ 10)) s)
  else if fld w 0 10 = 2 then
    some (Sys2Proof.Machine.execDkstat (Fin.ofNat 8 (w / 2 ^ 29)) (Fin.ofNat 64 (w / 2 ^ 16)) (Fin.ofNat 64 (w / 2 ^ 10)) s)
  else none

theorem run52_eq (s : State) (w : Nat) : run52 s w = runOf (dec52 w) s :=
  runOf_ite rfl <| runOf_ite rfl <| runOf_ite rfl <| rfl

/-- Major 0x53, run. -/
def run53 (s : State) (w : Nat) : Option Out :=
  if fld w 12 4 = 0 ∧ fld w 19 3 = 0 then
    some (Sys2Proof.Machine.execXcopy (Fin.ofNat 8 (w / 2 ^ 29)) (Fin.ofNat 8 (w / 2 ^ 16)) (Fin.ofNat 64 (w / 2 ^ 6)) (Fin.ofNat 64 (w / 2 ^ 0)) s)
  else if fld w 6 16 = 8192 then
    some (Sys2Proof.Machine.execXresume (Fin.ofNat 8 (w / 2 ^ 29)) (Fin.ofNat 64 (w / 2 ^ 0)) s)
  else none

theorem run53_eq (s : State) (w : Nat) : run53 s w = runOf (dec53 w) s :=
  runOf_ite rfl <| runOf_ite rfl <| rfl

/-- Major 0x54, run. -/
def run54 (s : State) (w : Nat) : Option Out :=
  if fld w 0 10 = 0 then
    some (Sys2Proof.Machine.execXgeo (Fin.ofNat 8 (w / 2 ^ 29)) (Fin.ofNat 64 (w / 2 ^ 16)) (Fin.ofNat 64 (w / 2 ^ 10)) s)
  else if fld w 0 4 = 1 ∧ fld w 13 3 = 0 then
    some (Sys2Proof.Machine.execTtest (Fin.ofNat 8 (w / 2 ^ 29)) (Fin.ofNat 64 (w / 2 ^ 16)) (Fin.ofNat 8 (w / 2 ^ 10)) (Fin.ofNat 64 (w / 2 ^ 4)) s)
  else none

theorem run54_eq (s : State) (w : Nat) : run54 s w = runOf (dec54 w) s :=
  runOf_ite rfl <| runOf_ite rfl <| rfl

/-- Major 0x55, run. -/
def run55 (s : State) (w : Nat) : Option Out :=
  if fld w 8 14 = 0 then
    some (Sys2Proof.Machine.execTwait (Fin.ofNat 8 (w / 2 ^ 29)) (Fin.ofNat 256 (w / 2 ^ 0)) s)
  else none

theorem run55_eq (s : State) (w : Nat) : run55 s w = runOf (dec55 w) s :=
  runOf_ite rfl <| rfl

/-- Major 0x56, run. -/
def run56 (s : State) (w : Nat) : Option Out :=
  if fld w 0 4 = 0 ∧ fld w 16 6 = 0 then
    some (Sys2Proof.Machine.execSpawn (Fin.ofNat 8 (w / 2 ^ 29)) (Fin.ofNat 64 (w / 2 ^ 10)) (Fin.ofNat 64 (w / 2 ^ 4)) s)
  else if fld w 0 22 = 1 then
    some (Sys2Proof.Machine.execDone (Fin.ofNat 8 (w / 2 ^ 29)) s)
  else if fld w 0 10 = 2 ∧ fld w 16 6 = 0 then
    some (Sys2Proof.Machine.execDoneJ (Fin.ofNat 8 (w / 2 ^ 29)) (Fin.ofNat 64 (w / 2 ^ 10)) s)
  else if fld w 0 10 = 3 then
    some (Sys2Proof.Machine.execLaunch (Fin.ofNat 8 (w / 2 ^ 29)) (Fin.ofNat 64 (w / 2 ^ 16)) (Fin.ofNat 64 (w / 2 ^ 10)) s)
  else if fld w 0 22 = 4 then
    some (Sys2Proof.Machine.execYield (Fin.ofNat 8 (w / 2 ^ 29)) s)
  else none

theorem run56_eq (s : State) (w : Nat) : run56 s w = runOf (dec56 w) s :=
  runOf_ite rfl <| runOf_ite rfl <| runOf_ite rfl <| runOf_ite rfl <| runOf_ite rfl <| rfl

/-- Major 0x57, run. -/
def run57 (s : State) (w : Nat) : Option Out :=
  if fld w 0 4 = 0 ∧ fld w 16 6 = 0 then
    some (Sys2Proof.Machine.execTspawn (Fin.ofNat 8 (w / 2 ^ 29)) (Fin.ofNat 64 (w / 2 ^ 10)) (Fin.ofNat 64 (w / 2 ^ 4)) s)
  else if fld w 0 22 = 1 then
    some (Sys2Proof.Machine.execTdone (Fin.ofNat 8 (w / 2 ^ 29)) s)
  else if fld w 0 4 = 2 ∧ fld w 16 6 = 0 then
    some (Sys2Proof.Machine.execTabort (Fin.ofNat 8 (w / 2 ^ 29)) (Fin.ofNat 64 (w / 2 ^ 10)) (Fin.ofNat 64 (w / 2 ^ 4)) s)
  else if fld w 0 10 = 3 then
    some (Sys2Proof.Machine.execTfront (Fin.ofNat 8 (w / 2 ^ 29)) (Fin.ofNat 64 (w / 2 ^ 16)) (Fin.ofNat 64 (w / 2 ^ 10)) s)
  else if fld w 0 4 = 4 ∧ fld w 16 6 = 0 then
    some (Sys2Proof.Machine.execTwaitc (Fin.ofNat 8 (w / 2 ^ 29)) (Fin.ofNat 64 (w / 2 ^ 10)) (Fin.ofNat 64 (w / 2 ^ 4)) s)
  else none

theorem run57_eq (s : State) (w : Nat) : run57 s w = runOf (dec57 w) s :=
  runOf_ite rfl <| runOf_ite rfl <| runOf_ite rfl <| runOf_ite rfl <| runOf_ite rfl <| rfl

/-- Major 0x58, run. -/
def run58 (s : State) (w : Nat) : Option Out :=
  if fld w 0 10 = 0 then
    some (Sys2Proof.Machine.execXacq (Fin.ofNat 8 (w / 2 ^ 29)) (Fin.ofNat 64 (w / 2 ^ 16)) (Fin.ofNat 64 (w / 2 ^ 10)) s)
  else if fld w 0 4 = 1 ∧ fld w 16 6 = 0 then
    some (Sys2Proof.Machine.execXadd (Fin.ofNat 8 (w / 2 ^ 29)) (Fin.ofNat 64 (w / 2 ^ 10)) (Fin.ofNat 64 (w / 2 ^ 4)) s)
  else if fld w 0 10 = 2 then
    some (Sys2Proof.Machine.execXrd (Fin.ofNat 8 (w / 2 ^ 29)) (Fin.ofNat 64 (w / 2 ^ 16)) (Fin.ofNat 64 (w / 2 ^ 10)) s)
  else if fld w 0 10 = 3 ∧ fld w 16 6 = 0 then
    some (Sys2Proof.Machine.execXrel (Fin.ofNat 8 (w / 2 ^ 29)) (Fin.ofNat 64 (w / 2 ^ 10)) s)
  else none

theorem run58_eq (s : State) (w : Nat) : run58 s w = runOf (dec58 w) s :=
  runOf_ite rfl <| runOf_ite rfl <| runOf_ite rfl <| runOf_ite rfl <| rfl

/-- Major 0x59, run. -/
def run59 (s : State) (w : Nat) : Option Out :=
  if fld w 12 4 = 0 ∧ fld w 19 3 = 0 then
    some (Sys2Proof.Machine.execPwalk (Fin.ofNat 8 (w / 2 ^ 29)) (Fin.ofNat 8 (w / 2 ^ 16)) (Fin.ofNat 64 (w / 2 ^ 6)) (Fin.ofNat 64 (w / 2 ^ 0)) s)
  else none

theorem run59_eq (s : State) (w : Nat) : run59 s w = runOf (dec59 w) s :=
  runOf_ite rfl <| rfl

/-- Major 0x5A, run. -/
def run5A (s : State) (w : Nat) : Option Out :=
  if fld w 0 4 = 0 ∧ fld w 16 6 = 0 then
    some (Sys2Proof.Machine.execPfcfg (Fin.ofNat 8 (w / 2 ^ 29)) (Fin.ofNat 64 (w / 2 ^ 10)) (Fin.ofNat 64 (w / 2 ^ 4)) s)
  else if fld w 0 10 = 1 ∧ fld w 16 6 = 0 then
    some (Sys2Proof.Machine.execPfstop (Fin.ofNat 8 (w / 2 ^ 29)) (Fin.ofNat 64 (w / 2 ^ 10)) s)
  else none

theorem run5A_eq (s : State) (w : Nat) : run5A s w = runOf (dec5A w) s :=
  runOf_ite rfl <| runOf_ite rfl <| rfl

/-- Major 0x5C, run. -/
def run5C (s : State) (w : Nat) : Option Out :=
  if fld w 10 6 = 0 then
    some (Sys2Proof.Machine.execSysrd (Fin.ofNat 8 (w / 2 ^ 29)) (Fin.ofNat 64 (w / 2 ^ 16)) (Fin.ofNat 1024 (w / 2 ^ 0)) s)
  else none

theorem run5C_eq (s : State) (w : Nat) : run5C s w = runOf (dec5C w) s :=
  runOf_ite rfl <| rfl

/-- Major 0x5D, run. -/
def run5D (s : State) (w : Nat) : Option Out :=
  if fld w 16 6 = 0 then
    some (Sys2Proof.Machine.execSyswr (Fin.ofNat 8 (w / 2 ^ 29)) (Fin.ofNat 64 (w / 2 ^ 10)) (Fin.ofNat 1024 (w / 2 ^ 0)) s)
  else none

theorem run5D_eq (s : State) (w : Nat) : run5D s w = runOf (dec5D w) s :=
  runOf_ite rfl <| rfl

/-- Major 0x5E, run. -/
def run5E (s : State) (w : Nat) : Option Out :=
  if fld w 0 10 = 0 ∧ fld w 16 6 = 0 then
    some (Sys2Proof.Machine.execUret (Fin.ofNat 8 (w / 2 ^ 29)) (Fin.ofNat 64 (w / 2 ^ 10)) s)
  else if fld w 0 22 = 1 then
    some (Sys2Proof.Machine.execTret (Fin.ofNat 8 (w / 2 ^ 29)) s)
  else if fld w 0 4 = 2 ∧ fld w 19 3 = 0 then
    some (Sys2Proof.Machine.execTlbi (Fin.ofNat 8 (w / 2 ^ 29)) (Fin.ofNat 8 (w / 2 ^ 16)) (Fin.ofNat 64 (w / 2 ^ 10)) (Fin.ofNat 64 (w / 2 ^ 4)) s)
  else if fld w 0 10 = 3 ∧ fld w 16 6 = 0 then
    some (Sys2Proof.Machine.execSnap (Fin.ofNat 8 (w / 2 ^ 29)) (Fin.ofNat 64 (w / 2 ^ 10)) s)
  else if fld w 0 10 = 4 ∧ fld w 16 6 = 0 then
    some (Sys2Proof.Machine.execFreeze (Fin.ofNat 8 (w / 2 ^ 29)) (Fin.ofNat 64 (w / 2 ^ 10)) s)
  else if fld w 0 10 = 5 ∧ fld w 16 6 = 0 then
    some (Sys2Proof.Machine.execResumef (Fin.ofNat 8 (w / 2 ^ 29)) (Fin.ofNat 64 (w / 2 ^ 10)) s)
  else none

theorem run5E_eq (s : State) (w : Nat) : run5E s w = runOf (dec5E w) s :=
  runOf_ite rfl <| runOf_ite rfl <| runOf_ite rfl <| runOf_ite rfl <| runOf_ite rfl <| runOf_ite rfl <| rfl

/-- Major 0x60 to 0x7F, run. -/
def run60 (s : State) (w : Nat) : Option Out :=
  if fld w 0 6 = 0 ∧ fld w 16 3 = 0 then
    some (Sys2Proof.Machine.execMma (Fin.ofNat 8 (w / 2 ^ 29)) (Fin.ofNat 32 (w / 2 ^ 22)) (Fin.ofNat 8 (w / 2 ^ 19)) (Fin.ofNat 2 (w / 2 ^ 15)) (Fin.ofNat 8 (w / 2 ^ 12)) (Fin.ofNat 64 (w / 2 ^ 6)) s)
  else if fld w 0 6 = 8 ∧ fld w 16 3 = 0 then
    some (Sys2Proof.Machine.execMmaSet (Fin.ofNat 8 (w / 2 ^ 29)) (Fin.ofNat 32 (w / 2 ^ 22)) (Fin.ofNat 8 (w / 2 ^ 19)) (Fin.ofNat 2 (w / 2 ^ 15)) (Fin.ofNat 8 (w / 2 ^ 12)) (Fin.ofNat 64 (w / 2 ^ 6)) s)
  else if fld w 0 6 = 16 ∧ fld w 16 3 = 0 then
    some (Sys2Proof.Machine.execMmaSub (Fin.ofNat 8 (w / 2 ^ 29)) (Fin.ofNat 32 (w / 2 ^ 22)) (Fin.ofNat 8 (w / 2 ^ 19)) (Fin.ofNat 2 (w / 2 ^ 15)) (Fin.ofNat 8 (w / 2 ^ 12)) (Fin.ofNat 64 (w / 2 ^ 6)) s)
  else if fld w 0 6 = 24 ∧ fld w 16 3 = 0 then
    some (Sys2Proof.Machine.execMrun (Fin.ofNat 8 (w / 2 ^ 29)) (Fin.ofNat 32 (w / 2 ^ 22)) (Fin.ofNat 8 (w / 2 ^ 19)) (Fin.ofNat 2 (w / 2 ^ 15)) (Fin.ofNat 8 (w / 2 ^ 12)) (Fin.ofNat 64 (w / 2 ^ 6)) s)
  else if fld w 0 6 = 32 ∧ fld w 16 3 = 0 then
    some (Sys2Proof.Machine.execMrunSet (Fin.ofNat 8 (w / 2 ^ 29)) (Fin.ofNat 32 (w / 2 ^ 22)) (Fin.ofNat 8 (w / 2 ^ 19)) (Fin.ofNat 2 (w / 2 ^ 15)) (Fin.ofNat 8 (w / 2 ^ 12)) (Fin.ofNat 64 (w / 2 ^ 6)) s)
  else if fld w 0 6 = 40 ∧ fld w 16 3 = 0 then
    some (Sys2Proof.Machine.execMrunSub (Fin.ofNat 8 (w / 2 ^ 29)) (Fin.ofNat 32 (w / 2 ^ 22)) (Fin.ofNat 8 (w / 2 ^ 19)) (Fin.ofNat 2 (w / 2 ^ 15)) (Fin.ofNat 8 (w / 2 ^ 12)) (Fin.ofNat 64 (w / 2 ^ 6)) s)
  else none

theorem run60_eq (s : State) (w : Nat) : run60 s w = runOf (dec60 w) s :=
  runOf_ite rfl <| runOf_ite rfl <| runOf_ite rfl <| runOf_ite rfl <| runOf_ite rfl <| runOf_ite rfl <| rfl

/-- A word of a major, run. -/
def runMajor (s : State) (m w lit : Nat) : Option Out :=
  if m = 0x00 then run00 s w
  else if m = 0x01 then run01 s w
  else if m = 0x02 then run02 s w
  else if m = 0x03 then run03 s w lit
  else if m = 0x04 then run04 s w lit
  else if m = 0x05 then run05 s w lit
  else if m = 0x06 then run06 s w lit
  else if m = 0x07 then run07 s w
  else if m = 0x08 then run08 s w
  else if m = 0x09 then run09 s w
  else if m = 0x0A then run0A s w
  else if m = 0x0B then run0B s w lit
  else if m = 0x0C then run0C s w lit
  else if m = 0x0D then run0D s w
  else if m = 0x0E then run0E s w
  else if m = 0x0F then run0F s w
  else if m = 0x10 then run10 s w
  else if m = 0x11 then run11 s w
  else if m = 0x12 then run12 s w
  else if m = 0x13 then run13 s w
  else if m = 0x14 then run14 s w
  else if m = 0x15 then run15 s w lit
  else if m = 0x16 then run16 s w lit
  else if m = 0x18 then run18 s w
  else if m = 0x19 then run19 s w
  else if m = 0x1A then run1A s w
  else if m = 0x1B then run1B s w
  else if m = 0x1C then run1C s w lit
  else if m = 0x1D then run1D s w
  else if m = 0x1E then run1E s w
  else if m = 0x1F then run1F s w
  else if m = 0x20 then run20 s w lit
  else if m = 0x21 then run21 s w lit
  else if m = 0x22 then run22 s w lit
  else if m = 0x23 then run23 s w lit
  else if m = 0x24 then run24 s w lit
  else if m = 0x25 then run25 s w lit
  else if m = 0x26 then run26 s w lit
  else if m = 0x27 then run27 s w lit
  else if m = 0x28 then run28 s w lit
  else if m = 0x29 then run29 s w lit
  else if m = 0x2A then run2A s w
  else if m = 0x2B then run2B s w lit
  else if m = 0x2C then run2C s w lit
  else if m = 0x2D then run2D s w
  else if m = 0x2E then run2E s w
  else if m = 0x2F then run2F s w
  else if 0x30 ≤ m ∧ m ≤ 0x32 then run30 s w
  else if m = 0x33 then run33 s w
  else if m = 0x34 then run34 s w
  else if m = 0x35 then run35 s w
  else if m = 0x36 then run36 s w
  else if m = 0x37 then run37 s w
  else if m = 0x38 then run38 s w
  else if m = 0x39 then run39 s w
  else if m = 0x3A then run3A s w
  else if m = 0x3B then run3B s w
  else if m = 0x3C then run3C s w
  else if m = 0x3D then run3D s w
  else if m = 0x3E then run3E s w
  else if m = 0x3F then run3F s w
  else if m = 0x40 then run40 s w
  else if m = 0x41 then run41 s w
  else if m = 0x42 then run42 s w
  else if m = 0x48 then run48 s w
  else if m = 0x49 then run49 s w
  else if m = 0x4A then run4A s w
  else if m = 0x50 then run50 s w
  else if m = 0x51 then run51 s w
  else if m = 0x52 then run52 s w
  else if m = 0x53 then run53 s w
  else if m = 0x54 then run54 s w
  else if m = 0x55 then run55 s w
  else if m = 0x56 then run56 s w
  else if m = 0x57 then run57 s w
  else if m = 0x58 then run58 s w
  else if m = 0x59 then run59 s w
  else if m = 0x5A then run5A s w
  else if m = 0x5C then run5C s w
  else if m = 0x5D then run5D s w
  else if m = 0x5E then run5E s w
  else if 0x60 ≤ m ∧ m ≤ 0x7F then run60 s w
  else none

theorem runMajor_eq (s : State) (m w lit : Nat) : runMajor s m w lit = runOf (decodeMajor m w lit) s :=
  runOf_ite (run00_eq s w) <| runOf_ite (run01_eq s w) <| runOf_ite (run02_eq s w) <| runOf_ite (run03_eq s w lit) <| runOf_ite (run04_eq s w lit) <| runOf_ite (run05_eq s w lit) <| runOf_ite (run06_eq s w lit) <| runOf_ite (run07_eq s w) <| runOf_ite (run08_eq s w) <| runOf_ite (run09_eq s w) <| runOf_ite (run0A_eq s w) <| runOf_ite (run0B_eq s w lit) <| runOf_ite (run0C_eq s w lit) <| runOf_ite (run0D_eq s w) <| runOf_ite (run0E_eq s w) <| runOf_ite (run0F_eq s w) <| runOf_ite (run10_eq s w) <| runOf_ite (run11_eq s w) <| runOf_ite (run12_eq s w) <| runOf_ite (run13_eq s w) <| runOf_ite (run14_eq s w) <| runOf_ite (run15_eq s w lit) <| runOf_ite (run16_eq s w lit) <| runOf_ite (run18_eq s w) <| runOf_ite (run19_eq s w) <| runOf_ite (run1A_eq s w) <| runOf_ite (run1B_eq s w) <| runOf_ite (run1C_eq s w lit) <| runOf_ite (run1D_eq s w) <| runOf_ite (run1E_eq s w) <| runOf_ite (run1F_eq s w) <| runOf_ite (run20_eq s w lit) <| runOf_ite (run21_eq s w lit) <| runOf_ite (run22_eq s w lit) <| runOf_ite (run23_eq s w lit) <| runOf_ite (run24_eq s w lit) <| runOf_ite (run25_eq s w lit) <| runOf_ite (run26_eq s w lit) <| runOf_ite (run27_eq s w lit) <| runOf_ite (run28_eq s w lit) <| runOf_ite (run29_eq s w lit) <| runOf_ite (run2A_eq s w) <| runOf_ite (run2B_eq s w lit) <| runOf_ite (run2C_eq s w lit) <| runOf_ite (run2D_eq s w) <| runOf_ite (run2E_eq s w) <| runOf_ite (run2F_eq s w) <| runOf_ite (run30_eq s w) <| runOf_ite (run33_eq s w) <| runOf_ite (run34_eq s w) <| runOf_ite (run35_eq s w) <| runOf_ite (run36_eq s w) <| runOf_ite (run37_eq s w) <| runOf_ite (run38_eq s w) <| runOf_ite (run39_eq s w) <| runOf_ite (run3A_eq s w) <| runOf_ite (run3B_eq s w) <| runOf_ite (run3C_eq s w) <| runOf_ite (run3D_eq s w) <| runOf_ite (run3E_eq s w) <| runOf_ite (run3F_eq s w) <| runOf_ite (run40_eq s w) <| runOf_ite (run41_eq s w) <| runOf_ite (run42_eq s w) <| runOf_ite (run48_eq s w) <| runOf_ite (run49_eq s w) <| runOf_ite (run4A_eq s w) <| runOf_ite (run50_eq s w) <| runOf_ite (run51_eq s w) <| runOf_ite (run52_eq s w) <| runOf_ite (run53_eq s w) <| runOf_ite (run54_eq s w) <| runOf_ite (run55_eq s w) <| runOf_ite (run56_eq s w) <| runOf_ite (run57_eq s w) <| runOf_ite (run58_eq s w) <| runOf_ite (run59_eq s w) <| runOf_ite (run5A_eq s w) <| runOf_ite (run5C_eq s w) <| runOf_ite (run5D_eq s w) <| runOf_ite (run5E_eq s w) <| runOf_ite (run60_eq s w) <| rfl

/-- A word and its literal, run; nothing where it has no instruction. -/
def runWordFast (w lit : Nat) (s : State) : Option Out :=
  if w = 0 then none
  else if unassigned (majorOf w) then none
  else runMajor s (majorOf w) w lit

/-- A word and its literal decoded and executed; nothing where it has no instruction. -/
noncomputable def runWord (w lit : Nat) (s : State) : Option Out :=
  match decode w lit with
  | .ok i => some (exec i s)
  | .error _ => none

theorem runWord_eq : @runWord = @runWordFast := by
  funext w lit s
  unfold runWord runWordFast decode
  rw [runMajor_eq]
  by_cases h0 : w = 0
  · simp only [h0, if_true]
  · by_cases h1 : unassigned (majorOf w) = true
    · simp only [h0, h1, if_true, if_false]
    · simp only [h0, h1, if_false]
      generalize decodeMajor (majorOf w) w lit = d
      cases d with
      | none => rfl
      | some i => by_cases h : i.wellFormed = true <;> simp [h, runOf]

end Sys2Proof.Machine
end

