-- ==== Sys2Proof/Machine/Turn.lean ====
section
/-! DEFINITION. Who acts next: a turn from outside, else an event whose time has come, else a strand by R222, else time
passes (09_cores_events_windows.md R222; log entry 3). -/

namespace Sys2Proof.Machine

/-- Nanoseconds after which a waiting strand is looked at again (log entry 12). -/
def pollGap : Nat := 16

/-- The role classes of R222 in their order: loader, arithmetic, epilogue. -/
def Strand.rank (x : Strand) : Nat := x.work.role.toNat

/-- Whether `x` is chosen before `y`: aged first by age, else by role, else by time ready (R222). -/
def Strand.ahead (iage now : Nat) (x y : Strand) : Bool :=
  let ax := decide (iage ≤ cyclesOf (now - x.readyAt))
  let ay := decide (iage ≤ cyclesOf (now - y.readyAt))
  if ax ∧ ay then decide (x.readyAt ≤ y.readyAt)
  else if ax != ay then ax
  else if x.rank ≠ y.rank then decide (x.rank < y.rank)
  else decide (x.readyAt ≤ y.readyAt)

/-- Whether the majors of R222's table steer a word to the execute half; all others go to the access half. -/
def executeHalf (m : Nat) : Bool := decide (m < 0x14) || (decide (0x30 ≤ m) && decide (m ≤ 0x40))

/-- The half of a strand's next instruction: execute, or access, which takes a fetch that fails too. -/
def State.nextHalf (s : State) (c : CoreId) (k : SlotId) : Bool :=
  match s.fetchInstr c k with
  | .ok (w, _, _, _) => executeHalf (majorOf w)
  | .error _ => false

/-- The running slot that issues on a half of a core: the first of R222 among those whose next instruction is for it, but for
those that this cycle has found not ready. -/
def State.issuer (s : State) (c : CoreId) (half : Bool) : Option SlotId :=
  let x := s.core c
  (List.finRange 16).foldl (fun (r : Option SlotId) k =>
    if (x.strand k).st = .running ∧ !(x.strand k).stalled ∧ s.nextHalf c k = half then
      match r with
      | none => some k
      | some j => if (x.strand j).ahead x.iage.toNat s.dt (x.strand k) then some j else some k
    else r) none

/-- The waiting slot of a core that has been due to be looked at for longest. -/
def State.dueSlot (s : State) (c : CoreId) : Option SlotId :=
  let x := s.core c
  (List.finRange 16).foldl (fun (r : Option SlotId) k =>
    let y := x.strand k
    if y.st = .waiting ∧ y.readyAt + pollGap ≤ s.dt then
      match r with
      | none => some k
      | some j => if (x.strand j).readyAt ≤ y.readyAt then some j else some k
    else r) none

/-- What acts in a core's cycle, from `phase` of it on, with the phase it brings: a waiting slot that is due, else the access
half's issuer, else the execute half's. A slot found not ready leaves its half to the next in order. -/
def State.slotTurn (s : State) (c : CoreId) (phase : Nat) : Option (SlotId × Fin 3) :=
  let execute := (s.issuer c true).map (fun k => (k, (0 : Fin 3)))
  let access := match s.issuer c false with
    | some k => some (k, (1 : Fin 3))
    | none => execute
  match phase with
  | 0 => execute
  | 1 => access
  | _ => match s.dueSlot c with
    | some k => some (k, 2)
    | none => access

/-- The next core after the last one, around the part, with a slot that acts. -/
def State.coreTurn (s : State) : Nat → Nat → Option (CoreId × SlotId × Fin 3)
  | 0, _ => none
  | n + 1, i =>
    let c : CoreId := Fin.ofNat 384 i
    match s.slotTurn c 2 with
    | some (k, h) => some (c, k, h)
    | none => s.coreTurn n (i + 1)

/-- Device time after `n` ns of the reference clock, at the rate that `dtSlew` sets: it never steps and never runs backward
(22 R403). -/
def State.elapse (s : State) (n : Nat) : State :=
  let a := s.dtFrac + n * (1000000 + s.dtSlew).toNat
  { s with dt := s.dt + a / 1000000, dtFrac := a % 1000000 }

/-- Time as core `c` is given a turn: it has passed once the turn has gone round the cores (log entry 4). -/
def State.tick (s : State) (c : CoreId) : State := if c ≤ s.cur.1 then s.elapse s.dtRate else s

/-- The slots of a core looked at afresh in its next cycle. -/
def Core.freshCycle (x : Core) : Core :=
  { x with phase := 0, strands := vmap (fun (y : Strand) => if y.stalled then { y with stalled := false } else y) x.strands }

/-- What is left of the cycle of the core whose slot has just acted: its half again where that slot was not ready, else the
execute half after the access half; after a waiting slot that still waits, both. -/
def State.cycleRest (s : State) : Option (SlotId × Fin 3) :=
  let c := s.cur.1
  let y := s.strand c s.cur.2
  let p := (s.core c).phase
  if p = 2 then (if y.st = .waiting then s.slotTurn c 2 else none)
  else if p = 1 then s.slotTurn c (if y.stalled then 1 else 0)
  else if y.stalled then s.slotTurn c 0 else none

/-- The turn of a strand, chosen by the cores: what is left of the last core's cycle, else the next core. -/
def State.strandNext (s : State) : Option (CoreId × SlotId × State) :=
  let c := s.cur.1
  match s.cycleRest with
  | some (k, p) => some (c, k, s.updCore c (fun (x : Core) => { x with phase := p }))
  | none =>
    let done := s.updCore c Core.freshCycle
    (done.coreTurn 384 (c.val + 1)).map (fun (p : CoreId × SlotId × Fin 3) =>
      (p.1, p.2.1, (done.updCore p.1 (fun (x : Core) => { x with phase := p.2.2 })).tick p.1))

/-- The agenda without its first entry whose time has come. -/
def dueEvent (now : Nat) : List (Nat × Instr) → Option (Instr × List (Nat × Instr))
  | [] => none
  | (t, i) :: l => if t ≤ now then some (i, l) else (dueEvent now l).map (fun p => (p.1, (t, i) :: p.2))

/-- The earliest time on an agenda. -/
def soonest : List (Nat × Instr) → Option Nat
  | [] => none
  | (t, _) :: l => match soonest l with
    | none => some t
    | some u => some (min t u)

/-- The next turn, and the state that has given it, its time passed where the turn is a strand's. -/
def State.turn (s : State) : Turn × State :=
  match s.sched with
  | .strand c k :: ts => (.strand c k, ({ s with sched := ts } : State).tick c)
  | t :: ts => (t, { s with sched := ts })
  | [] =>
    match dueEvent s.dt s.agenda with
    | some (i, l) => (.event i, { s with agenda := l })
    | none =>
      match s.strandNext with
      | some (c, k, s1) => (.strand c k, s1)
      | none =>
        match soonest s.agenda with
        | some t => (.time (t - s.dt), s)
        | none => (.time 1, s)

end Sys2Proof.Machine
end

