-- ==== Sys2Proof/Machine/Step.lean ====
section
/-! DEFINITION. One step of the part: the turn of a strand, an event, or the passing of time; and an instruction placed
where the next step fetches it. -/

namespace Sys2Proof.Machine

/-- The turn of a strand, `run` executing a word with its literal: a strand whose messages have not been accepted waits
(R178), one that is being pre-empted issues nothing, and one that has resumed waits for the posted accesses that are
performed again (R106); one whose window is due stalls for its value, or waits where the load has found no version record
(16 R309); an earlier posted access that failed, or a window that is due and failed, is taken first (R30,
R106); then the word is fetched, decoded and executed. Where a word fails a decode check of R24 and its literal cannot be
fetched, the literal's trap or upcall comes first: the spec gives no order, and it is the model's choice (log entry 69). -/
def strandTurn (run : Nat → Nat → State → Option Out) (c : CoreId) (k : SlotId) (s : State) : Out :=
  let s := { s.updStrand c k (fun (x : Strand) => { x with readyAt := s.dt, stalled := false }) with cur := (c, k) }
  let x := s.me
  if x.st = .dormant ∨ x.st = .halted then .next s
  else if x.sendWait ≠ 0 then .next (s.setMe { x with st := .waiting })
  else if s.stopped c k then .next (s.setMe { x with stalled := true })
  else if !x.postErr.isSome ∧ (s.core c).wpath.any (fun p => p.slot == k && x.redo.contains p.id) then
    .next (s.setMe { x with st := .waiting })
  else if x.postErr.isSome then exec (.memoryUpcall c k) s
  else match s.settleMe with
    | .stall =>
      .next (s.setMe (if s.vwait.any (fun p => p.2 == x.work.wid) then { x with st := .waiting } else { x with stalled := true }))
    | .upcall => exec (.memoryUpcall c k) s
    | .trap t a s1 => .next (s1.takeTrap c k t a)
    | .go s1 =>
      match s1.fetchInstr c k with
      | .error _ => exec (.instructionFetchFailure c k) s1
      | .ok (w, lit, _, s2) =>
        match run w lit s2 with
        | some o => o
        | none => exec (.illegalInstruction c k) s2

/-- A step, `run` executing a word with its literal. -/
def stepBy (run : Nat → Nat → State → Option Out) (s : State) : Out :=
  let p := s.turn
  match p.1 with
  | .strand c k => strandTurn run c k p.2
  | .event i => exec i p.2
  | .time n => .next (p.2.elapse n)
  | .flip w => .next { p.2 with poison := setIn p.2.poison w }
  | .corrected c => .next (p.2.updCore c (fun (x : Core) => { x with cec := if x.cec = 0xFFFFFFFF then x.cec else x.cec + 1 }))
  | .overflow => .next (p.2.trigger 1 0xFFFD false)
  | .canStart c => .next { p.2 with canSof := wr p.2.canSof c (some p.2.dt) }
  | .restart c => .next (p.2.restartCore c)
  | .image img => .next (p.2.loadImage img)
  | .inbound i first bytes => .next { p.2 with host := { p.2.host with inbound := wr p.2.host.inbound i (first, bytes) } }
  | .pcieRead addr n => .next (p.2.pcieRead addr n)
  | .peerRead asid va n => .next (p.2.peerServe asid va n none)
  | .peerWrite asid va bytes => .next (p.2.peerServe asid va bytes.length (some bytes))

/-- One step of the part. -/
noncomputable def step (s : State) : Host.Outcome State Fault Refusal := stepBy runWord s

/-- The same step in a form that runs. -/
def stepFast (s : State) : Host.Outcome State Fault Refusal := stepBy runWordFast s

@[csimp] theorem step_eq_stepFast : @step = @stepFast := by
  funext s
  unfold step stepFast
  rw [runWord_eq]

/-- Offset in core 0's slice where `withFetchWord` places an instruction. -/
def fetchOff : Nat := 0x1000

/-- The state with an instruction placed where the next step fetches it: slot 0 of core 0 runs as a continuation over a
page of its own slice, which holds the words (log entry 5). -/
def State.withFetchWord (s : State) (nbits w : Nat) : State :=
  let v := w % 2 ^ nbits
  let page : Quad := BitVec.ofNat 128 (1 + 2 ^ 16 * 1 + 2 ^ 32 * 0x1F)
  let s1 : State := { s with
    mem := memWrite s.mem (slicePhys 0 fetchOff) (bytesOfWord (v % 2 ^ 32) ++ bytesOfWord (v / 2 ^ 32 % 2 ^ 32))
    agenda := [], sched := [.strand 0 0] }
  let s2 := s1.updCore 0 (fun (x : Core) => { x with prot := wr x.prot 0 page })
  s2.updStrand 0 0 (fun (x : Strand) => { x with
    st := .running, asid := 0, pcc := CVal.make fetchOff 4096 [.exec, .local, .sys]
    work := { Work.none with kind := .continuation } })

end Sys2Proof.Machine
end

