-- ==== Sys2Proof/Safety.lean ====
section
/-! DEFINITION. The words that statements about runs are made in: what an operand gives, what a destination takes, where
a strand stands after an instruction that it has passed, what a program can rely on after a trap, and the invariant of
memory (01_words.md R13-R16, R23-R32; 07 R204). -/

namespace Sys2Proof.Machine

/-! ### Operands and destinations (01 R14-R16, R26, R27) -/

/-- The value that c operand `i` gives, and the strand after it has been read: c0 is null, c60, c62 and c63 pop, and
nothing is given where the read traps or waits. -/
def Strand.source (x : Strand) (i : Fin 64) : Option (CVal × Strand) :=
  if i.val = 0 then some (.null, x)
  else if i.val = 60 then
    match x.ldq with
    | q :: qs => some (.plain q, { x with ldq := qs })
    | [] => none
  else if i.val = 61 then none
  else if i.val = 62 then
    match x.engq with
    | q :: qs => some (.plain q, { x with engq := qs })
    | [] => none
  else if i.val = 63 then
    match x.msg with
    | some { chan := ch, unit := u, words := w :: ws } =>
      some (.plain (w.setWidth 128), { x with msg := some { chan := ch, unit := u, words := ws } })
    | _ => none
  else some (rd x.c i, x)

/-- The strand after a value has been written to c destination `i`: c0 discards it, c61 and c63 push where there is room,
and a pending value of the register is discarded; nothing where the write traps or waits, or goes to a waiting copy. -/
def Strand.result (x : Strand) (i : Fin 64) (v : CVal) : Option Strand :=
  let y := { x with wins := x.wins.filter (fun (w : Window) => w.dst != WinDst.c i) }
  if i.val = 0 then some y
  else if i.val = 60 ∨ i.val = 62 then none
  else if i.val = 61 then (if x.stq.length < 32 then some { y with stq := x.stq ++ [v.val] } else none)
  else if i.val = 63 then (if x.outbox.length < 60 then some { y with outbox := x.outbox ++ [v.val.setWidth 32] } else none)
  else some { y with c := wr x.c i v }

/-- The value that v operand `i` gives: v31 pops the vector load queue, v30 gives none. -/
def Strand.sourceV (x : Strand) (i : Fin 32) : Option (VReg × Strand) :=
  if i.val = 31 then
    match x.vldq with
    | q :: qs => some (q, { x with vldq := qs })
    | [] => none
  else if i.val = 30 then none
  else some (rd x.v i, x)

/-- The strand after a value has been written to v destination `i`: v30 pushes, v31 takes none. -/
def Strand.resultV (x : Strand) (i : Fin 32) (v : VReg) : Option Strand :=
  let y := { x with wins := x.wins.filter (fun (w : Window) => w.dst != WinDst.v i) }
  if i.val = 31 then none
  else if i.val = 30 then (if x.vstq.length < 8 then some { y with vstq := x.vstq ++ [v] } else none)
  else some { y with v := wr x.v i v }

/-- A strand with FFLAGS bits set (02 R53). -/
def Strand.flagged (x : Strand) (fl : Nat) : Strand := { x with fflags := x.fflags ||| BitVec.ofNat 32 fl }

/-- A strand with a guard written; g0 discards (01 R14). -/
def Strand.withGuard (x : Strand) (i : Fin 8) (b : Bool) : Strand := if i = 0 then x else { x with g := wr x.g i b }

/-- A strand with a mask written; m0 discards (01 R14). -/
def Strand.withMask (x : Strand) (i : Fin 8) (q : Quad) : Strand := if i = 0 then x else { x with m := wr x.m i q }

/-- The strand after a value has landed in c destination `i` from a load: as `result`, but c60 takes it as a push to the
load-data queue (01 R15). -/
def Strand.landing (x : Strand) (i : Fin 64) (v : CVal) : Option Strand :=
  if i.val = 60 then
    (if x.ldq.length < 32 then
      some { x with wins := x.wins.filter (fun (w : Window) => w.dst != WinDst.c i), ldq := x.ldq ++ [v.val] } else none)
  else x.result i v

/-- The strand after a value has landed in v destination `i` from a load: v31 and v30 push their queues (01 R15). -/
def Strand.landingV (x : Strand) (i : Fin 32) (v : VReg) : Option Strand :=
  if i.val = 31 then
    (if x.vldq.length < 8 then
      some { x with wins := x.wins.filter (fun (w : Window) => w.dst != WinDst.v i), vldq := x.vldq ++ [v] } else none)
  else x.resultV i v

/-- The data of a store from c operand `i`: c61 pops the store-data queue (01 R15). -/
def Strand.storeData (x : Strand) (i : Fin 64) : Option (CVal × Strand) :=
  if i.val = 61 then
    match x.stq with
    | q :: qs => some (.plain q, { x with stq := qs })
    | [] => none
  else x.source i

/-- The data of a store from v operand `i`: v30 pops the vector store queue (01 R15). -/
def Strand.storeDataV (x : Strand) (i : Fin 32) : Option (VReg × Strand) :=
  if i.val = 30 then
    match x.vstq with
    | q :: qs => some (q, { x with vstq := qs })
    | [] => none
  else x.sourceV i

/-- A scaled signed 6-bit offset (04 R100). -/
def scaled (o : Fin 64) (size : Nat) : Dbl :=
  BitVec.ofInt 64 ((if 32 ≤ o.val then (o.val : Int) - 64 else o.val) * size)

/-- What an access through a capability needs at issue: tag, permissions, alignment, bounds, and no byte on the other die than
the core's unless it may cross (04 R101, R102). -/
def State.mayAccess (s : State) (c : CVal) (ps : List Perm) (va : Dbl) (n al : Nat) (crosses : Bool := false) : Prop :=
  c.tag = true ∧ c.hasAll ps = true ∧ va.toNat % al = 0 ∧ c.inBounds va.toNat n = true ∧
  (crosses = true ∨ c.has .local = true ∨ offDieRange s.cur.1 va n = false)

/-- The state with the running strand as `y` and a posted access of its at the end of its core's write path; the event
that performs it is due after the model's 100 ns (log entry 4). -/
def State.posting (s : State) (y : Strand) (cap : CVal) (va : Dbl) (kind : PKind) : State :=
  let p : Posted := { id := s.nextId, slot := s.cur.2, wid := y.work.wid, asid := y.asid, cap := cap, va := va, kind := kind }
  let s1 := (s.setMe y).updCore s.cur.1 (fun (x : Core) => { x with wpath := x.wpath ++ [p] })
  let e := match kind with
    | .store _ _ => Instr.storeAtHome s.cur.1 s.nextId
    | .amo _ _ _ => Instr.amoAtHome s.cur.1 s.nextId
    | .xadd _ _ => Instr.xaddAtHome s.cur.1 s.nextId
  { s1 with nextId := s.nextId + 1, agenda := s.agenda ++ [(s.dt + 100, e)] }

/-- The state with the running strand as `y` and a new window of `l` slots for a load, whose access is under way. -/
def State.windowed (s : State) (y : Strand) (dst : WinDst) (l : Nat) (acc : Access) : State :=
  let w : Window := { id := s.nextId, dst := dst, left := l, pc := y.pcc.addr, acc := acc, res := .pending, plsat := false }
  let s1 := s.setMe { y with wins := y.wins.filter (fun (v : Window) => v.dst != dst) ++ [w] }
  { s1 with nextId := s.nextId + 1, agenda := s.agenda ++ [(s.dt + 100, .loadResponse s.cur.1 s.cur.2 s.nextId)] }

/-- The state with the running strand as `y` and a new window of `l` slots whose value is already known (01 R27). -/
def State.owing (s : State) (y : Strand) (dst : WinDst) (l : Nat) (v : VReg) (fl : Nat) : State :=
  let acc : Access := { kind := .none, cap := .null, va := 0, n := 0 }
  let w : Window := { id := s.nextId, dst := dst, left := l, pc := y.pcc.addr, acc := acc, res := .value v false fl, plsat := false }
  let s1 := s.setMe { y with wins := y.wins.filter (fun (v : Window) => v.dst != dst) ++ [w] }
  { s1 with nextId := s.nextId + 1 }

/-- What masked-off lanes of v destination `d` keep; zeros in a push to v30 (05 R123). -/
def Strand.keeps (x : Strand) (d : Fin 32) : VReg := if d.val < 30 then rd x.v d else 0

/-! ### After an instruction (01 R23, R26, R28, R32) -/

/-- The state after the running strand has passed an instruction of `len` bytes that left it as `x`. -/
def State.passed (s : State) (len : Nat) (x : Strand) : State := s.setMe (x.pass s.me.pcc s.me.rep len s.nextId)

/-- The state after the running strand has passed an instruction of `len` bytes that changed the state to `s1`. -/
def State.passedTo (s : State) (len : Nat) (s1 : State) : State :=
  s1.setMe (s1.me.pass s.me.pcc s.me.rep len s.nextId)

/-- The state after the running strand has jumped with PCC `p`, left as `x`. -/
def State.leapt (s : State) (p : CVal) (x : Strand) : State := s.setMe (x.leap p s.me.rep s.me.pcc.addr s.nextId)

/-- Whether the running strand's synchronous traps go to a handler: a vector that may be executed, and no trap being
handled (07 R204). -/
def Strand.trapsTo (x : Strand) : Bool := x.tvec.tag && x.tvec.has .exec && !x.tcause.getLsbD 31

/-! ### Memory -/

/-- Whether a list of numbers rises strictly. -/
def rising : List Nat → Bool
  | [] => true
  | [_] => true
  | a :: b :: l => decide (a < b) && rising (b :: l)

/-- Memory, its granule tags and its uncorrectable words stand in canonical form. -/
def State.memoryOk (s : State) : Bool := Memory.wf s.mem && rising s.tags && rising s.poison

/-- The bytes of memory that programs and engines see at a physical address. -/
def State.byteAt (s : State) (a : Nat) : Byte := memGet s.mem a

end Sys2Proof.Machine
end

