-- ==== Sys2Proof/Certificates/Slice0/Obligations.lean ====
section
/-! DEFINITION. The statements about this machine, each a rule of the spec or what follows from its rules; OBLIGATIONS.json
says which. `State.passed` and `State.passedTo` say where the strand stands after an instruction that it has passed
(Safety.lean); everything that a statement's next state does not name is as it was. -/

open Sys2Proof Sys2Proof.Machine

/-! ### Scalar instructions (03) -/

/-- Two-operand integer instructions: the 64-bit ones write bits 63:0 and clear the rest with the tag, the four logical
ones write 128 bits and clear the tag; quotients by zero are all ones, remainders by zero the dividend (R65, R69, R70).
For every operand that gives a value and every destination that takes one. One-operand and immediate integer
instructions: counts, extensions, `mov` with its tag, immediates and literals sign-extended, shifts by an immediate,
`li` (R67, R69, R71, R72); a literal makes the word 8 bytes long (01 R23). Completes: add, sub, and, or, xor, andn, sll,
srl, sra, rot, min, max, mul, mulh, mulhU, div, divU, rem, remU, clz, popc, mov, sextB, sextH, sextW, zextB, zextH,
zextW, addImm, addImmLiteral, andImm, andImmLiteral, orImm, orImmLiteral, xorImm, xorImmLiteral, sllImm, srlImm, sraImm,
rotImm, li, liLiteral. -/
def Obligations.ScalarIntegerResults : Prop :=
  (∀ (s : State) (g : Fin 8) (d a b : Fin 64) (u v : CVal) (x y : Strand),
     s.me.guard g = true → s.me.source a = some (u, x) → x.source b = some (v, y) →
     (∀ p ∈ ([(.add, fun m n => m + n), (.sub, fun m n => m - n),
         (.sll, fun m n => m <<< (n.toNat % 64)), (.srl, fun m n => m >>> (n.toNat % 64)),
         (.sra, fun m n => m.sshiftRight (n.toNat % 64)), (.rot, fun m n => m.rotateRight (n.toNat % 64)),
         (.min, fun m n => if m.toInt ≤ n.toInt then m else n), (.max, fun m n => if m.toInt ≤ n.toInt then n else m),
         (.mul, fun m n => m * n),
         (.mulh, fun m n => BitVec.ofInt 64 (m.toInt * n.toInt / 2 ^ 64)),
         (.mulhU, fun m n => BitVec.ofNat 64 (m.toNat * n.toNat / 2 ^ 64)),
         (.div, fun m n => if n = 0 then BitVec.allOnes 64 else BitVec.ofInt 64 (m.toInt.tdiv n.toInt)),
         (.divU, fun m n => if n = 0 then BitVec.allOnes 64 else BitVec.ofNat 64 (m.toNat / n.toNat)),
         (.rem, fun m n => if n = 0 then m else BitVec.ofInt 64 (m.toInt.tmod n.toInt)),
         (.remU, fun m n => if n = 0 then m else BitVec.ofNat 64 (m.toNat % n.toNat))] :
         List ((Fin 8 → Fin 64 → Fin 64 → Fin 64 → Instr) × (Dbl → Dbl → Dbl))),
       ∀ z, y.result d (.plain ((p.2 u.addr v.addr).setWidth 128)) = some z → exec (p.1 g d a b) s = .next (s.passed 4 z)) ∧
     (∀ p ∈ ([(.and, fun m n => m &&& n), (.or, fun m n => m ||| n), (.xor, fun m n => m ^^^ n),
         (.andn, fun m n => m &&& ~~~n)] :
         List ((Fin 8 → Fin 64 → Fin 64 → Fin 64 → Instr) × (Quad → Quad → Quad))),
       ∀ z, y.result d (.plain (p.2 u.val v.val)) = some z → exec (p.1 g d a b) s = .next (s.passed 4 z))) ∧
  (∀ (s : State) (g : Fin 8) (d a : Fin 64) (i : BitVec 10) (l : Word) (u : CVal) (x : Strand),
     s.me.guard g = true →
     (∀ z, s.me.result d (.plain ((i.signExtend 64).setWidth 128)) = some z → exec (.li g d i) s = .next (s.passed 4 z)) ∧
     (∀ z, s.me.result d (.plain ((l.signExtend 64).setWidth 128)) = some z → exec (.liLiteral g d l) s = .next (s.passed 8 z)) ∧
     (s.me.source a = some (u, x) →
       (∀ z, x.result d u = some z → exec (.mov g d a) s = .next (s.passed 4 z)) ∧
       (∀ p ∈ ([(.clz g d a, 4, BitVec.ofNat 64 (if u.addr = 0 then 64 else 63 - Nat.log2 u.addr.toNat)),
           (.popc g d a, 4, BitVec.ofNat 64 ((List.range 64).filter (fun i => u.addr.getLsbD i)).length),
           (.sextB g d a, 4, (u.addr.setWidth 8).signExtend 64), (.sextH g d a, 4, (u.addr.setWidth 16).signExtend 64),
           (.sextW g d a, 4, (u.addr.setWidth 32).signExtend 64), (.zextB g d a, 4, (u.addr.setWidth 8).setWidth 64),
           (.zextH g d a, 4, (u.addr.setWidth 16).setWidth 64), (.zextW g d a, 4, (u.addr.setWidth 32).setWidth 64),
           (.addImm g d a i, 4, u.addr + i.signExtend 64), (.addImmLiteral g d a l, 8, u.addr + l.signExtend 64),
           (.sllImm g d a i, 4, u.addr <<< i.toNat), (.srlImm g d a i, 4, u.addr >>> i.toNat),
           (.sraImm g d a i, 4, u.addr.sshiftRight i.toNat), (.rotImm g d a i, 4, u.addr.rotateRight i.toNat)] :
           List (Instr × Nat × Dbl)),
         ∀ z, x.result d (.plain (p.2.2.setWidth 128)) = some z → exec p.1 s = .next (s.passed p.2.1 z)) ∧
       (∀ p ∈ ([(.andImm g d a i, 4, u.val &&& i.signExtend 128), (.andImmLiteral g d a l, 8, u.val &&& l.signExtend 128),
           (.orImm g d a i, 4, u.val ||| i.signExtend 128), (.orImmLiteral g d a l, 8, u.val ||| l.signExtend 128),
           (.xorImm g d a i, 4, u.val ^^^ i.signExtend 128), (.xorImmLiteral g d a l, 8, u.val ^^^ l.signExtend 128)] :
           List (Instr × Nat × Quad)),
         ∀ z, x.result d (.plain p.2.2) = some z → exec p.1 s = .next (s.passed p.2.1 z))))

/-- Compares write a guard from one of six conditions on bits 63:0, alone or combined with its old value; the guard
instructions and `sel` (R73, R74, R75). A guard g0 discards what is written to it (01 R14). Completes: cmpi,
cmpiLiteral, cmp, cmpAnd, cmpOr, gnot, gand, gor, sel. -/
def Obligations.CompareAndSelectResults : Prop :=
  ∀ (s : State) (g c h j k : Fin 8) (d a b : Fin 64) (i : BitVec 10) (l : Word) (u v : CVal) (x y : Strand),
    s.me.guard g = true →
    (exec (.gnot g h j) s = .next (s.passed 4 (s.me.withGuard h (!s.me.guard j))) ∧
     exec (.gand g h j k) s = .next (s.passed 4 (s.me.withGuard h (s.me.guard j && s.me.guard k))) ∧
     exec (.gor g h j k) s = .next (s.passed 4 (s.me.withGuard h (s.me.guard j || s.me.guard k)))) ∧
    (s.me.source a = some (u, x) →
      let cond := fun (n : Dbl) =>
        if c = 0 then u.addr == n else if c = 1 then u.addr != n
        else if c = 2 then decide (u.addr.toInt < n.toInt) else if c = 3 then decide (n.toInt ≤ u.addr.toInt)
        else if c = 4 then decide (u.addr.toNat < n.toNat) else decide (n.toNat ≤ u.addr.toNat)
      exec (.cmpi g c h a i) s = .next (s.passed 4 (x.withGuard h (cond (i.signExtend 64)))) ∧
      exec (.cmpiLiteral g c h a l) s = .next (s.passed 8 (x.withGuard h (cond (l.signExtend 64)))) ∧
      (x.source b = some (v, y) →
        exec (.cmp g c h a b) s = .next (s.passed 4 (y.withGuard h (cond v.addr))) ∧
        exec (.cmpAnd g c h a b) s = .next (s.passed 4 (y.withGuard h (s.me.guard h && cond v.addr))) ∧
        exec (.cmpOr g c h a b) s = .next (s.passed 4 (y.withGuard h (s.me.guard h || cond v.addr))) ∧
        (∀ z, y.result d (if s.me.guard h then u else v) = some z → exec (.sel g d a b h) s = .next (s.passed 4 z))))

/-- Scalar floating point: F32 values of bits 31:0, the exact result rounded once by round-to-nearest-even (`finish`,
`roundTo`), its flags or-ed into FFLAGS, the comparison's condition into a guard (R77-R81; 02 R53). That a signalling
BF16 or F16 NaN sets NV as it is converted is the model's choice (03 R80; log entry 69). Completes: fadd, fsub, fmul,
fdiv, fmin, fmax, fsqrt, ffma, ffmaN, fcmp, fcvtF32I64, fcvtF32U64, fcvtI64F32, fcvtU64F32, fcvtBf16F32, fcvtF16F32,
fcvtF32Bf16, fcvtF32F16. -/
def Obligations.ScalarFloatResults : Prop :=
  ∀ (s : State) (g c h : Fin 8) (d a b : Fin 64) (u v w : CVal) (x y t : Strand),
    s.me.guard g = true → s.me.source a = some (u, x) →
    let f := fun (n : CVal) => (Fmt.f32.decode (n.addr.toNat % 2 ^ 32)).1
    let gives := fun (i : Instr) (y : Strand) (r : Nat × Nat) =>
      ∀ z, (y.flagged r.2).result d (.plain ((BitVec.ofNat 64 r.1).setWidth 128)) = some z → exec i s = .next (s.passed 4 z)
    (∀ p ∈ ([(.fsqrt g d a, finish .f32 (fSqrt (f u))),
        (.fcvtF32I64 g d a, roundTo .f32 (ofInt u.addr.toInt 0 false) .rne),
        (.fcvtF32U64 g d a, roundTo .f32 (ofInt u.addr.toNat 0 false) .rne),
        (.fcvtI64F32 g d a, toInt64 (-(2 ^ 63)) (2 ^ 63 - 1) (f u)), (.fcvtU64F32 g d a, toInt64 0 (2 ^ 64 - 1) (f u)),
        (.fcvtBf16F32 g d a, roundTo .bf16 (f u) .rne), (.fcvtF16F32 g d a, roundTo .f16 (f u) .rne),
        (.fcvtF32Bf16 g d a, roundTo .f32 (Fmt.bf16.decode (u.addr.toNat % 2 ^ 16)).1 .rne),
        (.fcvtF32F16 g d a, roundTo .f32 (Fmt.f16.decode (u.addr.toNat % 2 ^ 16)).1 .rne)] : List (Instr × (Nat × Nat))),
      gives p.1 x p.2) ∧
    (x.source b = some (v, y) →
      (∀ p ∈ ([(.fadd g d a b, fAdd (f u) (f v)), (.fsub g d a b, fAdd (f u) (f v).negate), (.fmul g d a b, fMul (f u) (f v)),
          (.fdiv g d a b, fDiv (f u) (f v)), (.fmin g d a b, fMinMax false (f u) (f v)),
          (.fmax g d a b, fMinMax true (f u) (f v))] : List (Instr × (FVal × Nat))),
        gives p.1 y (finish .f32 p.2)) ∧
      exec (.fcmp g c h a b) s = .next (s.passed 4
        ((y.flagged (fcond c.val (f u) (f v)).2).withGuard h (fcond c.val (f u) (f v)).1)) ∧
      (y.source d = some (w, t) →
        gives (.ffma g d a b) t (finish .f32 (fFma (f w) (f u) (f v))) ∧
        gives (.ffmaN g d a b) t (finish .f32 (fFma (f w) (f u).negate (f v)))))

/-- Capability instructions: narrowing, moving the address, removing permissions and the tag, and reading fields out
(R84-R89). A capability that cannot be narrowed to a length is not written: the instruction traps. Completes: cbnd,
cinc, caddr, cperm, ctagc, cgetBase, cgetTop, cgetLen, cgetPerm, cgetTag, cincImm, cincImmLiteral, cbndImm,
cbndImmLiteral. -/
def Obligations.CapabilityResults : Prop :=
  ∀ (s : State) (g : Fin 8) (d a b : Fin 64) (i : BitVec 10) (l : Word) (u v : CVal) (x y : Strand),
    s.me.guard g = true → s.me.source a = some (u, x) →
    (∀ p ∈ ([(.ctagc g d a, 4, { u with tag := false }),
        (.cgetBase g d a, 4, .plain ((BitVec.ofInt 64 u.base).setWidth 128)),
        (.cgetTop g d a, 4, .plain ((BitVec.ofInt 65 u.top).setWidth 128)),
        (.cgetLen g d a, 4, .plain ((BitVec.ofInt 65 (u.top - u.base)).setWidth 128)),
        (.cgetPerm g d a, 4, .plain (BitVec.ofNat 128 (u.val.toNat / 2 ^ 104 % 2 ^ 16))),
        (.cgetTag g d a, 4, .plain (if u.tag then 1 else 0)),
        (.cincImm g d a i, 4, u.setAddr (u.addr + i.signExtend 64)),
        (.cincImmLiteral g d a l, 8, u.setAddr (u.addr + l.signExtend 64))] : List (Instr × Nat × CVal)),
      ∀ z, x.result d p.2.2 = some z → exec p.1 s = .next (s.passed p.2.1 z)) ∧
    (∀ p ∈ ([(.cbndImm g d a i, 4, i.toNat), (.cbndImmLiteral g d a l, 8, l.toNat)] : List (Instr × Nat × Nat)),
      (∀ n z, u.narrow p.2.2 = .ok n → x.result d n = some z → exec p.1 s = .next (s.passed p.2.1 z)) ∧
      (∀ r, u.narrow p.2.2 = .error r → exec p.1 s = .next (s.takeTrap s.cur.1 s.cur.2 r none))) ∧
    (x.source b = some (v, y) →
      (∀ p ∈ ([(.cinc g d a b, u.setAddr (u.addr + v.addr)), (.caddr g d a b, u.setAddr v.addr),
          (.cperm g d a b, u.cutPerms v.addr.toNat)] : List (Instr × CVal)),
        ∀ z, y.result d p.2 = some z → exec p.1 s = .next (s.passed 4 z)) ∧
      (∀ n z, u.narrow v.addr.toNat = .ok n → y.result d n = some z → exec (.cbnd g d a b) s = .next (s.passed 4 z)) ∧
      (∀ r, u.narrow v.addr.toNat = .error r → exec (.cbnd g d a b) s = .next (s.takeTrap s.cur.1 s.cur.2 r none)))

/-! ### Control (03 R90-R96; 01 R32) -/

/-- Jumps, calls, returns and branches: the target is PCC's address plus four times the signed offset, and must hold a
word within PCC's bounds, else `capb` (that the whole word must lie within them is the model's reading, log entry 19);
`call` leaves PCC at the next word in c1; `jr` and `ret` load PCC, or trap where it could not be fetched through
(R91-R93). `rep` starts a repetition of the next `l + 1` instructions, `n` times; a count of 0 passes over them (by
fetching their words: log entry 17), and one above 65,535, or a repetition within a repetition, one that a trap has set
aside too (log entry 70), traps `ill` (01 R32; R94). `nop` only counts (R95). Completes: j, call, jr, ret, bgF, bgT,
rep, repLiteral, repReg, nop. -/
def Obligations.ControlResults : Prop :=
  (∀ (s : State) (g h : Fin 8) (a : Fin 64) (o : Fin 4194304) (q : Fin 262144) (v : CVal) (x : Strand),
     s.me.guard g = true →
     let pcc := s.me.pcc
     let near := fun (n k : Nat) => pcc.addr + BitVec.ofInt 64 (4 * (if 2 ^ (n - 1) ≤ k then (k : Int) - 2 ^ n else k))
     let inside := fun (t : Dbl) => pcc.inBounds t.toNat 4 = true
     (inside (near 22 o.val) →
       exec (.j g o) s = .next (s.leapt (pcc.setAddr (near 22 o.val)) s.me) ∧
       (∀ z, s.me.result 1 (pcc.setAddr (pcc.addr + 4)) = some z →
         exec (.call g o) s = .next (s.leapt (pcc.setAddr (near 22 o.val)) z))) ∧
     (¬ inside (near 22 o.val) →
       exec (.j g o) s = .next (s.takeTrap s.cur.1 s.cur.2 .capb (some (near 22 o.val))) ∧
       exec (.call g o) s = .next (s.takeTrap s.cur.1 s.cur.2 .capb (some (near 22 o.val)))) ∧
     (∀ p ∈ ([(.bgT g h q, true), (.bgF g h q, false)] : List (Instr × Bool)),
       (s.me.guard h ≠ p.2 → exec p.1 s = .next (s.passed 4 s.me)) ∧
       (s.me.guard h = p.2 → inside (near 18 q.val) → exec p.1 s = .next (s.leapt (pcc.setAddr (near 18 q.val)) s.me)) ∧
       (s.me.guard h = p.2 → ¬ inside (near 18 q.val) →
         exec p.1 s = .next (s.takeTrap s.cur.1 s.cur.2 .capb (some (near 18 q.val))))) ∧
     (let good := fun (n : CVal) => n.tag = true ∧ n.has .exec = true ∧ n.addr.toNat % 4 = 0 ∧ n.inBounds n.addr.toNat 4 = true
      let stops := fun (i : Instr) (n : CVal) =>
        (∀ r ∈ (if n.tag = false then [Trap.capt] else if n.has .exec = false then [.capp]
            else if n.addr.toNat % 4 ≠ 0 then [.align] else if n.inBounds n.addr.toNat 4 = false then [.capb] else []),
          exec i s = .next (s.takeTrap s.cur.1 s.cur.2 r (some n.addr)))
      (s.me.source a = some (v, x) → (good v → exec (.jr g a) s = .next (s.leapt v x)) ∧ stops (.jr g a) v) ∧
      (good (rd s.me.c 1) → exec (.ret g) s = .next (s.leapt (rd s.me.c 1) s.me)) ∧ stops (.ret g) (rd s.me.c 1))) ∧
  (∀ (s : State) (g : Fin 8) (l a : Fin 64) (i : BitVec 10) (w : Word) (v : CVal) (x : Strand),
     s.me.guard g = true → s.me.source a = some (v, x) →
     let body := fun (y : Strand) (len n : Nat) =>
       let here := s.me.pcc.addr + BitVec.ofNat 64 len
       { y with rep := some { start := here, next := here, len := l.val + 1, pos := 0, left := n, parked := false } }
     exec (.nop g) s = .next (s.passed 4 s.me) ∧
     (s.me.rep = none → ∀ p ∈ ([(.rep g l i, 4, i.toNat, s.me), (.repLiteral g l w, 8, w.toNat, s.me),
         (.repReg g l a, 4, v.addr.toNat, x)] : List (Instr × Nat × Nat × Strand)),
       (0 < p.2.2.1 ∧ p.2.2.1 ≤ 65535 → exec p.1 s = .next (s.passed p.2.1 (body p.2.2.2 p.2.1 p.2.2.1))) ∧
       (p.2.2.1 = 0 → exec p.1 s = .next (s.leapt (s.me.pcc.withAddr
         ((s.setMe p.2.2.2).skipWords (l.val + 1) (s.me.pcc.addr + BitVec.ofNat 64 p.2.1))) p.2.2.2)) ∧
       (65535 < p.2.2.1 → exec p.1 s = .next (s.takeTrap s.cur.1 s.cur.2 .ill none))) ∧
     (s.me.rep ≠ none → ∀ i' ∈ [Instr.rep g l i, .repLiteral g l w, .repReg g l a],
       exec i' s = .next (s.takeTrap s.cur.1 s.cur.2 .ill none)))

/-! ### Loads and stores (04 R100-R112; 01 R27-R30) -/

/-- Scalar and capability loads with LA = 0: the bytes at the capability's address plus the offset, lowest first, zero
extended; `ldc` keeps the tag only through LDCAP (R100, R101, R107). That they give their value in their own step is the
model's choice (log entry 36). `State.load` is the strand's read, which the statements about memory open. Loads with a
lookahead of 1 to 15 slots into an ordinary register open a window and let the strand go on: the register keeps its
value until the window's end (R27, R29). That the access is due 100 ns later is the model's choice (log entry 4). `vld`
likewise. Completes: ldB, ldBLiteral, ldH, ldHLiteral, ldW, ldWLiteral, ldD, ldDLiteral, ldQ, ldQLiteral, ldc,
ldcLiteral, vld, vldLiteral. -/
def Obligations.LoadResults : Prop :=
  (∀ (s : State) (g : Fin 8) (d b o : Fin 64) (l : Word) (c : CVal) (x : Strand),
     s.me.guard g = true → s.me.source b = some (c, x) → x.loadsPending = false →
     ∀ p ∈ ([(.ldB g d b 0 o, 4, scaled o 1, 1, false), (.ldH g d b 0 o, 4, scaled o 2, 2, false),
         (.ldW g d b 0 o, 4, scaled o 4, 4, false), (.ldD g d b 0 o, 4, scaled o 8, 8, false),
         (.ldQ g d b 0 o, 4, scaled o 16, 16, false), (.ldc g d b 0 o, 4, scaled o 16, 16, true),
         (.ldBLiteral g d b 0 l, 8, l.signExtend 64, 1, false), (.ldHLiteral g d b 0 l, 8, l.signExtend 64, 2, false),
         (.ldWLiteral g d b 0 l, 8, l.signExtend 64, 4, false), (.ldDLiteral g d b 0 l, 8, l.signExtend 64, 8, false),
         (.ldQLiteral g d b 0 l, 8, l.signExtend 64, 16, false), (.ldcLiteral g d b 0 l, 8, l.signExtend 64, 16, true)] :
         List (Instr × Nat × Dbl × Nat × Bool)),
       let va := c.addr + p.2.2.1
       let n := p.2.2.2.1
       s.mayAccess c [.ld] va n n →
       ∀ bs s1 z, (s.setMe x).load s.cur.1 s.cur.2 s.nextId (c.has .local) va n = .ok (bs, s1) →
         s1.me.landing d { val := BitVec.ofNat 128 (ofBytes (bs.map (·.1))),
                           tag := p.2.2.2.2 && c.has .ldcap && ((bs[0]?).map (·.2)).getD false } = some z →
         exec p.1 s = .next (s.passedTo p.2.1 (s1.setMe z))) ∧
  (∀ (s : State) (g : Fin 8) (d b o : Fin 64) (v : Fin 32) (a : Fin 16) (l : Word) (c : CVal) (x : Strand),
     s.me.guard g = true → s.me.source b = some (c, x) → a ≠ 0 →
     (0 < d.val → d.val < 60 →
       ∀ p ∈ ([(.ldB g d b a o, 4, scaled o 1, 1, .load), (.ldH g d b a o, 4, scaled o 2, 2, .load),
           (.ldW g d b a o, 4, scaled o 4, 4, .load), (.ldD g d b a o, 4, scaled o 8, 8, .load),
           (.ldQ g d b a o, 4, scaled o 16, 16, .load), (.ldc g d b a o, 4, scaled o 16, 16, .loadCap),
           (.ldBLiteral g d b a l, 8, l.signExtend 64, 1, .load), (.ldHLiteral g d b a l, 8, l.signExtend 64, 2, .load),
           (.ldWLiteral g d b a l, 8, l.signExtend 64, 4, .load), (.ldDLiteral g d b a l, 8, l.signExtend 64, 8, .load),
           (.ldQLiteral g d b a l, 8, l.signExtend 64, 16, .load), (.ldcLiteral g d b a l, 8, l.signExtend 64, 16, .loadCap)] :
           List (Instr × Nat × Dbl × Nat × AccKind)),
         s.mayAccess c [.ld] (c.addr + p.2.2.1) p.2.2.2.1 p.2.2.2.1 →
         exec p.1 s = .next (s.passedTo p.2.1 (s.windowed x (.c d) a.val
           { kind := p.2.2.2.2, cap := c, va := c.addr + p.2.2.1, n := p.2.2.2.1 }))) ∧
     (v.val < 30 →
       ∀ p ∈ ([(.vld g v b a o, 4, scaled o 128), (.vldLiteral g v b a l, 8, l.signExtend 64)] : List (Instr × Nat × Dbl)),
         s.mayAccess c [.ld] (c.addr + p.2.2) 128 4 →
         exec p.1 s = .next (s.passedTo p.2.1 (s.windowed x (.v v) a.val
           { kind := .vector, cap := c, va := c.addr + p.2.2, n := 128 }))))

/-- Scalar and capability stores post the low bytes of the data register, lowest first; `stc` of a tagged value needs
STCAP and sets its granule's tag (R100, R101, R106, R107). Queue transfers and register bursts: `ldq` pushes quads in
address order where the queue has room, `stq` pops them in order, `ldm` writes consecutive registers, `stm` posts them
as one access (R108-R110). That `ldq` and `ldm` read all their entries in their own step is the model's choice (log
entry 36). Completes: stB, stBLiteral, stH, stHLiteral, stW, stWLiteral, stD, stDLiteral, stQ, stQLiteral, stc,
stcLiteral, ldq, ldqLiteral, stq, stqLiteral, ldm, stm. -/
def Obligations.StoreAndBurstResults : Prop :=
  (∀ (s : State) (g : Fin 8) (r b o : Fin 64) (l : Word) (c v : CVal) (x y : Strand),
     s.me.guard g = true → s.me.source b = some (c, x) → x.storeData r = some (v, y) →
     (s.setMe y).specOf y = none → (s.setMe y).outstanding s.cur.1 s.cur.2 < 16 →
     (∀ p ∈ ([(.stB g r b o, 4, scaled o 1, 1), (.stH g r b o, 4, scaled o 2, 2), (.stW g r b o, 4, scaled o 4, 4),
         (.stD g r b o, 4, scaled o 8, 8), (.stQ g r b o, 4, scaled o 16, 16),
         (.stBLiteral g r b l, 8, l.signExtend 64, 1), (.stHLiteral g r b l, 8, l.signExtend 64, 2),
         (.stWLiteral g r b l, 8, l.signExtend 64, 4), (.stDLiteral g r b l, 8, l.signExtend 64, 8),
         (.stQLiteral g r b l, 8, l.signExtend 64, 16)] : List (Instr × Nat × Dbl × Nat)),
       let va := c.addr + p.2.2.1
       s.mayAccess c [.st] va p.2.2.2 p.2.2.2 →
       exec p.1 s = .next (s.passedTo p.2.1 (s.posting y c va (.store [(va, toBytes p.2.2.2 v.val.toNat)] [])))) ∧
     (∀ p ∈ ([(.stc g r b o, 4, scaled o 16), (.stcLiteral g r b l, 8, l.signExtend 64)] : List (Instr × Nat × Dbl)),
       let va := c.addr + p.2.2
       s.mayAccess c (if v.tag then [.st, .stcap] else [.st]) va 16 16 →
       exec p.1 s = .next (s.passedTo p.2.1 (s.posting y c va
         (.store [(va, toBytes 16 v.val.toNat)] (if v.tag then [va] else [])))))) ∧
  (∀ (s : State) (g : Fin 8) (n : Fin 32) (d b o k : Fin 64) (l : Word) (c : CVal) (x : Strand),
     s.me.guard g = true → s.me.source b = some (c, x) →
     (∀ p ∈ ([(.ldq g n b o, 4, scaled o 16), (.ldqLiteral g n b l, 8, l.signExtend 64)] : List (Instr × Nat × Dbl)),
       let va := c.addr + p.2.2
       let m := n.val + 1
       s.mayAccess c [.ld] va (16 * m) 16 → x.ldq.length + m ≤ 32 → x.loadsPending = false →
       ∀ bs s1, (s.setMe x).load s.cur.1 s.cur.2 s.nextId (c.has .local) va (16 * m) = .ok (bs, s1) →
         exec p.1 s = .next (s.passedTo p.2.1
           (s1.setMe { s1.me with ldq := s1.me.ldq ++ (List.range m).map (fun i =>
             BitVec.ofNat 128 (ofBytes (((bs.drop (16 * i)).take 16).map (·.1)))) }))) ∧
     (∀ p ∈ ([(.stq g n b o, 4, scaled o 16), (.stqLiteral g n b l, 8, l.signExtend 64)] : List (Instr × Nat × Dbl)),
       let va := c.addr + p.2.2
       let m := n.val + 1
       let y := { x with stq := x.stq.drop m }
       s.mayAccess c [.st] va (16 * m) 16 → m ≤ x.stq.length →
       (s.setMe y).specOf y = none → (s.setMe y).outstanding s.cur.1 s.cur.2 < 16 →
       exec p.1 s = .next (s.passedTo p.2.1 (s.posting y c va
         (.store [(va, (x.stq.take m).flatMap (fun q => toBytes 16 q.toNat))] [])))) ∧
     (let m := k.val + 1
      s.mayAccess c [.ld] c.addr (16 * m) 16 → x.loadsPending = false →
       ∀ bs s1 s2, (s.setMe x).load s.cur.1 s.cur.2 s.nextId (c.has .local) c.addr (16 * m) = .ok (bs, s1) →
         s1.burst d.val (c.has .ldcap) (quadsOf bs m) = .ok s2 →
         exec (.ldm g d b k) s = .next (s.passedTo 4 s2)) ∧
     (let m := k.val + 1
      let rs := (List.range m).map (fun i => x.creg (Fin.ofNat 64 (d.val + i)))
      s.mayAccess c (if rs.any (·.tag) then [.st, .stcap] else [.st]) c.addr (16 * m) 16 →
       (s.setMe x).specOf x = none → (s.setMe x).outstanding s.cur.1 s.cur.2 < 16 →
       exec (.stm g d b k) s = .next (s.passedTo 4 (s.posting x c c.addr
         (.store [(c.addr, rs.flatMap (fun r => toBytes 16 r.val.toNat))]
           ((rs.zipIdx.filter (fun p => p.1.tag)).map (fun p => c.addr + BitVec.ofNat 64 (16 * p.2))))))))

/-- Vector loads with LA = 0 and vector stores: 128 bytes, or the unmasked 32-bit lanes at consecutive, strided or
indexed addresses (R111, R112); masked-off lanes of a load keep the register's old value, are pushed to v30 as zero (05
R123), and to v31 as free values; a store all of whose lanes are masked off stores nothing. That lanes are accessed in
lane order (log entry 3), and that a load with LA = 0 lands in its own step (log entry 36), are the model's choices.
Free values are the model's (log entry 13). Completes: vld, vldLiteral, vst, vstLiteral, vlds, vldx, vsts, vstx. -/
def Obligations.VectorMemoryTransfers : Prop :=
  ∀ (s : State) (g m : Fin 8) (d w : Fin 32) (b o e : Fin 64) (l : Word) (k : Fin 4) (c i : CVal) (v j : VReg)
    (x y z t : Strand),
    s.me.guard g = true → s.me.source b = some (c, x) →
    let posts := fun (p : Instr) (len : Nat) (y : Strand) (v : VReg) (lanes : List (Nat × Dbl)) =>
      (s.setMe y).checkLanes c .st (lanes.map (·.2)) = .ok () → (s.setMe y).specOf y = none →
      (s.setMe y).outstanding s.cur.1 s.cur.2 < 16 →
      (lanes = [] → exec p s = .next (s.passed len y)) ∧
      (lanes ≠ [] → exec p s = .next (s.passedTo len (s.posting y c c.addr
        (.store (lanes.map (fun p => (p.2, toBytes 4 (lane32 v p.1).toNat))) []))))
    let gathers := fun (p : Instr) (y : Strand) (lanes : List (Nat × Dbl)) =>
      (s.setMe y).checkLanes c .ld (lanes.map (·.2)) = .ok () →
      ∀ ws s1 z, (s.setMe y).loadLanes c lanes = .ok (ws, s1) →
        let s2 := if d.val = 31 then { s1 with freshN := s1.freshN + 1 } else s1
        let old := if d.val = 31 then Config.freeValue s1.freshN else if d.val = 30 then 0 else rd s1.me.v d
        s2.me.landingV d (ofLanes32 (fun i => ((ws.find? (fun p => p.1 == i)).map (·.2)).getD (lane32 old i))) = some z →
        exec p s = .next (s.passedTo 4 (s2.setMe z))
    (∀ p ∈ ([(.vld g d b 0 o, 4, scaled o 128), (.vldLiteral g d b 0 l, 8, l.signExtend 64)] : List (Instr × Nat × Dbl)),
      s.mayAccess c [.ld] (c.addr + p.2.2) 128 4 → x.loadsPending = false →
      ∀ bs s1 z, (s.setMe x).load s.cur.1 s.cur.2 s.nextId (c.has .local) (c.addr + p.2.2) 128 = .ok (bs, s1) →
        s1.me.landingV d (BitVec.ofNat 1024 (ofBytes (bs.map (·.1)))) = some z →
        exec p.1 s = .next (s.passedTo p.2.1 (s1.setMe z))) ∧
    (x.storeDataV d = some (v, y) →
      ∀ p ∈ ([(.vst g d b m o, 4, scaled o 128), (.vstLiteral g d b m l, 8, l.signExtend 64)] : List (Instr × Nat × Dbl)),
        posts p.1 p.2.1 y v ((onLanes (y.mask m)).map (fun i => (i, c.addr + p.2.2 + BitVec.ofNat 64 (4 * i))))) ∧
    (x.source e = some (i, z) →
      gathers (.vlds g d b e k) z (strided (z.mask (Fin.ofNat 8 k.val)) c.addr i.addr) ∧
      (z.storeDataV d = some (v, t) →
        posts (.vsts g d b e k) 4 t v (strided (t.mask (Fin.ofNat 8 k.val)) c.addr i.addr))) ∧
    (x.sourceV w = some (j, z) →
      gathers (.vldx g d b w k) z (indexed (z.mask (Fin.ofNat 8 k.val)) c.addr j) ∧
      (z.storeDataV d = some (v, t) →
        posts (.vstx g d b w k) 4 t v (indexed (t.mask (Fin.ofNat 8 k.val)) c.addr j)))

/-! ### Atomics, fences, touches (04 R113-R118, R121) and posted accesses at their homes (R106; 18 R322) -/

/-- Atomics outside speculation. With d = c0 the access is posted; with another destination the location's old value
goes to c[d] once the new one, by the eleven functions of R113, has been written where the location lies, on a page
without a DET window; to the other die once a port is in service, after the core's earlier requests to that home (18
R332). Completes: amoAdd, amoAnd, amoOr, amoXor, amoMin, amoMax, amoMinu, amoMaxu, amoSwap, amoCas, amoFadd. -/
def Obligations.AtomicResults : Prop :=
  ∀ (s : State) (g : Fin 8) (d a b : Fin 64) (c y w : CVal) (x x1 x2 : Strand),
    s.me.guard g = true → s.me.source a = some (c, x) → x.source b = some (y, x1) →
    let f32 := fun (n : Dbl) => (Fmt.f32.decode (n.toNat % 2 ^ 32)).1
    let ops : List ((Fin 8 → Fin 64 → Fin 64 → Fin 64 → Instr) × Fin 16 × Nat × (Dbl → Dbl → Dbl → Dbl × Nat)) :=
      [(.amoAdd, 0, 8, fun o v _ => (o + v, 0)), (.amoAnd, 1, 8, fun o v _ => (o &&& v, 0)),
       (.amoOr, 2, 8, fun o v _ => (o ||| v, 0)), (.amoXor, 3, 8, fun o v _ => (o ^^^ v, 0)),
       (.amoMin, 4, 8, fun o v _ => (if o.toInt ≤ v.toInt then o else v, 0)),
       (.amoMax, 5, 8, fun o v _ => (if o.toInt ≤ v.toInt then v else o, 0)),
       (.amoMinu, 6, 8, fun o v _ => (if o.toNat ≤ v.toNat then o else v, 0)),
       (.amoMaxu, 7, 8, fun o v _ => (if o.toNat ≤ v.toNat then v else o, 0)),
       (.amoSwap, 8, 8, fun _ v _ => (v, 0)), (.amoCas, 9, 8, fun o v e => (if o = e then v else o, 0)),
       (.amoFadd, 10, 4, fun o v _ =>
         let r := finish .f32 (fAdd (f32 o) (f32 v)); (BitVec.ofNat 64 r.1, r.2))]
    ∀ p ∈ ops,
      s.mayAccess c [.ld, .st] c.addr p.2.2.1 p.2.2.1 true →
      (if p.2.1 = 9 then x1.source d = some (w, x2) else w = .null ∧ x2 = x1) →
      x2.ticket = none → x2.amoErr = none → (s.setMe x2).specOf x2 = none →
      (d = 0 → (s.setMe x2).outstanding s.cur.1 s.cur.2 < 16 →
        exec (p.1 g d a b) s = .next (s.passedTo 4 (s.posting x2 c c.addr (.amo p.2.1 y.addr (if p.2.1 = 9 then w.addr else 0))))) ∧
      (d ≠ 0 → (s.setMe x2).crossing (c.has .local) c.addr p.2.2.1 = false →
        (c.has .local = true ∨ offDieAt s.cur.1 c.addr = false ∨
          s.linked = true ∧ ∀ h, niOfVa c.addr = some h → (s.setMe x2).behindPort h.val = false) →
        ∀ t s1, (s.setMe x2).translateAll (s.whoOf s.cur.1 s.cur.2) (c.has .local) .write [(c.addr, p.2.2.1)] =
            .ok ([(t, c.addr, p.2.2.1)], s1) →
          s1.detOf t s.me.asid = none → poisoned s1.poison t.phys p.2.2.1 = false →
          let old : Dbl := BitVec.ofNat 64 (memNat s1.mem t.phys p.2.2.1)
          let r := p.2.2.2 old y.addr w.addr
          let s2 := { s1.writeParts (s.whoOf s.cur.1 s.cur.2) [(t, c.addr, p.2.2.1)] (toBytes p.2.2.1 r.1.toNat) with joined := s1.joined }
          ∀ z, (s2.me.flagged r.2).result d (.plain (old.setWidth 128)) = some z →
            exec (p.1 g d a b) s = .next (s.passedTo 4 (s2.setMe z)))

/-- Fences complete once what they order has been performed: `fence.acq` the strand's loads and its atomics, the parked
ones too (18 R330), `fence.rel` its loads and every posted access but an atomic of the other die (18 R333), `fence.ar`
both (R115); each, at quad or wider, the stores of its core whose values it has read (18 R324, R327); `afence` drops the
core's L0 lines of the range, after the core's stores to it (R116); `touch` and `touch.w` translate the page as a load
and as a store would (R118); `pfx` has no effect but on the L0, and none where its operand's port has nothing to pop
(R117); that it needs LD (log entry 24) and one byte within bounds (log entry 69) is the model's choice. A team barrier,
once a fence that orders both ways at its level's memory scope would complete: the last member of the team to arrive
completes it, its generation rising and its list emptied; a level of the strand alone completes at once (04 R121; 19
R343, R345). Completes: fenceAcq, fenceRel, fenceAr, afence, pfx, touch, touchW, bar. -/
def Obligations.FencesAndBarriersComplete : Prop :=
  (∀ (s : State) (g : Fin 8) (k : Fin 16) (a b : Fin 64) (c y : CVal) (x x1 : Strand),
     s.me.guard g = true →
     let mine := fun (p : Posted) =>
       p ∈ s.myCore.wpath ∧ p.slot = s.cur.2 ∧ p.wid = s.me.work.wid ∧ (p.isAmo = false ∨ p.crosses s.cur.1 = false) ∨
       ∃ q ∈ s.parked, q.wid = s.me.work.wid ∧ q.p.crosses q.core = false ∧ q.p = p
     let seen := k.val < 2 ∨ ∀ i ∈ s.me.took, s.unperformed s.cur.1 i = false
     (s.me.loadsPending = false → (∀ p, mine p → p.isAmo = false) → seen →
       exec (.fenceAcq g k) s = .next (s.passed 4 s.me)) ∧
     (s.me.loadsPending = false → (∀ p, ¬ mine p) → seen →
       exec (.fenceRel g k) s = .next (s.passed 4 s.me) ∧ exec (.fenceAr g k) s = .next (s.passed 4 s.me)) ∧
     (s.useC a = .error (.t .qempty) → exec (.pfx g a) s = .next (s.passed 4 s.me)) ∧
     (s.me.source a = some (c, x) →
       (s.me.work.task = none → x.source b = some (y, x1) →
         s.mayAccess c (if c.has .ld then [.ld] else [.st]) c.addr y.addr.toNat 1 →
         (c.has .local = true ∨ df c.addr 56 8 ≤ 1) →
         (y.addr = 0 ∨
           ∀ p ∈ (s.setMe x1).pendingPosts s.cur.1, p.touches (c.has .local) s.me.asid c.addr y.addr.toNat = false) →
         exec (.afence g a b) s = .next (s.passedTo 4 ((s.setMe x1).updCore s.cur.1 (fun (q : Core) =>
           { q with l0 := q.l0.filter (fun e => !(e.asid == s.me.asid && y.addr.toNat != 0 &&
               decide (c.addr.toNat / 64 ≤ e.line.toNat) &&
               decide (e.line.toNat ≤ (c.addr.toNat + y.addr.toNat - 1) / 64))) })))) ∧
       (∀ t s1, (s.setMe x).translate (s.whoOf s.cur.1 s.cur.2) (c.has .local) c.addr .read = (.ok t, s1) →
         s.mayAccess c [.ld] c.addr 1 1 →
         exec (.touch g a) s = .next (s.passedTo 4 s1) ∧
         exec (.pfx g a) s = .next (s.passedTo 4 (s1.l0Fill s.cur.1 s.me.asid t c.addr true))) ∧
       (∀ e s1, (s.setMe x).translate (s.whoOf s.cur.1 s.cur.2) (c.has .local) c.addr .read = (.error e, s1) →
         s.mayAccess c [.ld] c.addr 1 1 → exec (.pfx g a) s = .next (s.passed 4 x)) ∧
       (c.tag = false ∨ c.has .ld = false ∨ c.inBounds c.addr.toNat 1 = false → exec (.pfx g a) s = .next (s.passed 4 x)) ∧
       (∀ t s1, (s.setMe x).translate (s.whoOf s.cur.1 s.cur.2) (c.has .local) c.addr .write = (.ok t, s1) →
         s.mayAccess c [.st] c.addr 1 1 → exec (.touchW g a) s = .next (s.passedTo 4 s1)))) ∧
  (∀ (s : State) (g n : Fin 8) (gid : Word) (gr : Grid) (m : Member) (dom : Nat),
     s.me.guard g = true → s.me.work.task = none → s.me.work.grid = some gid → s.grid gid = some gr →
     s.me.work.member = some m.i → gr.members.find? (fun y => y.i == m.i) = some m → gr.r.domain n.val = some dom →
     s.acquires (gr.r.scope n.val) = false → s.releases (gr.r.scope n.val) = false →
     (dom = 0 → exec (.bar g n) s = .next (s.passed 4 s.me)) ∧
     (dom ≠ 0 → s.me.barAt = none →
       let b := gr.bar n.val (gr.teamKey n.val m)
       (∀ y ∈ gr.members, gr.sameTeam n.val m y = true → y.ended = true ∨ y.i = m.i ∨ y.i ∈ b.arrived) →
       exec (.bar g n) s = .next (s.passedTo 4 (let s1 := s.updGrid gr.id (fun _ => gr.setBar { b with gen := b.gen + 1, arrived := [] })
         s1.setMe { s1.me with barAt := none }))))

/-- A posted access at its home, outside a task, after the earlier accesses that it must follow and the strand's earlier
loads, across the dies while a port is in service: a store writes all its bytes, an atomic changes its location and
hands its flags to its strand, an `xadd` adds to its accumulator, and the access leaves the write path; one that fails
is kept for the strand with the error, and the error response follows; one whose home has refused the strand comes back
as a replay (R103, R106, R113, R114, 07 R202). What the accesses of a strand's own slice do to memory: a LOCAL store in
a region of its ASID that permits it writes its bytes at the slice's addresses and nothing else, and clears the tags of
the granules it touches; a LOCAL load reads the bytes that stand there (R103, R104; 21 R368, R369; 22 R393). The delays
until an event are the model's (log entry 4). Completes: storeAtHome, amoAtHome, xaddAtHome. -/
def Obligations.PostedAccessesReachTheirHomes : Prop :=
  (∀ (s : State) (c : CoreId) (p : Posted),
     (s.core c).wpath.find? (fun q => q.id == p.id) = some p →
     (∀ q ∈ (s.core c).wpath.takeWhile (fun q => q.id != p.id), p.ahead c q = false) →
     (p.crosses c = true → s.linked = true) →
     (∀ w ∈ (s.strand c p.slot).allWins, w.res = .pending → p.id ≤ w.id) →
     (s.replays c p = true → ∀ again ∈ [Instr.storeAtHome c p.id, .amoAtHome c p.id, .xaddAtHome c p.id],
       exec again s = .next (s.holdBack c p none)) ∧
     (s.replays c p = false → s.postedSpec c p = none →
     let w : Who := { core := c, asid := p.asid, eng := false }
     let fails := fun (i : Instr) (f : FaultInfo) (s1 : State) =>
       exec i s = .next ((s1.holdBack c p (some f)).post 1 (.postedErrorResponse c p.id))
     (∀ parts tagged, p.kind = .store parts tagged →
       (∀ s1, s.homeWrite w (p.cap.has .local) parts tagged = .ok s1 →
         exec (.storeAtHome c p.id) s = .next (s1.unpost c p.id)) ∧
       (∀ f s1, s.homeWrite w (p.cap.has .local) parts tagged = .error (f, s1) → fails (.storeAtHome c p.id) f s1)) ∧
     (∀ fn y e, p.kind = .amo fn y e →
       (∀ old fl s1, s.amoHome w (p.cap.has .local) p.va fn.val y e true = .done old fl s1 →
         exec (.amoAtHome c p.id) s = .next ((s1.updWork c p.wid (fun (x : Strand) =>
           { x with fflags := x.fflags ||| BitVec.ofNat 32 fl })).unpost c p.id)) ∧
       (∀ ni k s1, s.amoHome w (p.cap.has .local) p.va fn.val y e true = .park ni k s1 →
         exec (.amoAtHome c p.id) s = .next ((s1.parkAmo c p.wid ((s1.workOf c p.wid).bind (fun (x : Strand) => x.work.grid)) ni k p
           false).unpost c p.id)) ∧
       (∀ f s1, s.amoHome w (p.cap.has .local) p.va fn.val y e true = .failed f s1 → fails (.amoAtHome c p.id) f s1)) ∧
     (∀ h v, p.kind = .xadd h v →
       (∀ q i, s.xFind w .write h = .ok (q, i) →
         exec (.xaddAtHome c p.id) s = .next ((s.updXacc q i (fun (a : XAcc) => a.add (xInput a.fmt.toNat v))).unpost c p.id)) ∧
       (∀ f s1, s.xFind w .write h = .error (f, s1) → fails (.xaddAtHome c p.id) f s1)))) ∧
  (∀ (s : State) (w : Who) (off : Nat) (bs : List Byte),
     s.memoryOk = true → off % 64 + bs.length ≤ 64 → bs ≠ [] → off + bs.length ≤ sliceTop →
     (∀ m k, (s.core w.core).protCheck w off m = .ok k →
       (m = .write → ∃ s1, s.homeWrite w true [(BitVec.ofNat 64 off, bs)] [] = .ok s1 ∧
         s1.mem = memWrite s.mem (slicePhys w.core off) bs ∧
         s1.tags = tagsClear s.tags (slicePhys w.core off) bs.length ∧
         (∀ a, a < slicePhys w.core off ∨ slicePhys w.core off + bs.length ≤ a → s1.byteAt a = s.byteAt a) ∧
         (∀ i b, bs[i]? = some b → s1.byteAt (slicePhys w.core off + i) = b)) ∧
       (m = .read → poisoned s.poison (slicePhys w.core off) bs.length = false →
         s.homeRead w true (BitVec.ofNat 64 off) bs.length = .ok ((List.range bs.length).map (fun i =>
           (s.byteAt (slicePhys w.core off + i), k && tagAt s.tags (slicePhys w.core off + i))), s))))

/-- Lanes stand side by side in a v register, lowest first: reading the lanes of a register built from lanes gives them
back, for lanes of 32, 16 and 8 bits (01 R13; R123). Integer lanes of 32, 16 or 8 bits (width field 0, 1, above 1):
eleven operations, each on every lane that the mask leaves on; the other lanes of vd keep their value (R123, R127). No
flag changes. Completes: vaddInt, vsubInt, vmulInt, vminInt, vmaxInt, vand, vor, vxor, vshl, vshr, vshrA. -/
def Obligations.VectorIntegerResults : Prop :=
  (∀ (w : Nat) (l : List Nat), w ∈ [32, 16, 8] → l.length = 1024 / w → (∀ n ∈ l, n < 2 ^ w) →
     lanesOf w (vOfLanes w l) = l ∧
     ∀ i, i < l.length → ((vOfLanes w l).extractLsb' (w * i) w).toNat = (l[i]?).getD 0) ∧
  (∀ (s : State) (g m : Fin 8) (k : Fin 4) (d a b : Fin 32) (u v : VReg) (x y : Strand),
     s.me.guard g = true → s.me.sourceV a = some (u, x) → x.sourceV b = some (v, y) →
     let w := if k = 0 then 32 else if k = 1 then 16 else 8
     ∀ p ∈ ([(.vaddInt, fun m n => m + n), (.vsubInt, fun m n => m - n), (.vmulInt, fun m n => m * n),
         (.vminInt, fun m n => if m.toInt ≤ n.toInt then m else n), (.vmaxInt, fun m n => if m.toInt ≤ n.toInt then n else m),
         (.vand, fun m n => m &&& n), (.vor, fun m n => m ||| n), (.vxor, fun m n => m ^^^ n),
         (.vshl, fun m n => m <<< (n.toNat % w)), (.vshr, fun m n => m >>> (n.toNat % w)),
         (.vshrA, fun m n => m.sshiftRight (n.toNat % w))] :
         List ((Fin 8 → Fin 4 → Fin 32 → Fin 32 → Fin 32 → Fin 8 → Instr) × (BitVec w → BitVec w → BitVec w))),
       ∀ z, y.resultV d (vOfLanes w ((List.range (1024 / w)).map (fun i =>
           if (y.mask m).getLsbD i then (p.2 (u.extractLsb' (w * i) w) (v.extractLsb' (w * i) w)).toNat
           else ((y.keeps d).extractLsb' (w * i) w).toNat))) = some z →
         exec (p.1 g k d a b m) s = .next (s.passed 4 z))

/-- Floating-point lanes in F32, F16 and BF16: one rounding by round-to-nearest-even, the flags of unmasked lanes or-ed
into FFLAGS, masked-off lanes as they were; `vfma` adds the product to the old lanes of vd (R123, R125, R128).
Completes: vaddF32, vsubF32, vmulF32, vminF32, vmaxF32, vfmaF32, vaddF16, vsubF16, vmulF16, vminF16, vmaxF16, vfmaF16,
vaddBf16, vsubBf16, vmulBf16, vminBf16, vmaxBf16, vfmaBf16. -/
def Obligations.VectorFloatResults : Prop :=
  ∀ (s : State) (g m : Fin 8) (d a b : Fin 32) (u v q : VReg) (x y t : Strand),
    s.me.guard g = true → s.me.sourceV a = some (u, x) → x.sourceV b = some (v, y) →
    let gives := fun (i : Instr) (f : Fmt) (y : Strand) (old : VReg) (lane : Nat → FVal × Nat) =>
      let r := (List.range (1024 / f.bits)).map (fun i =>
        if (y.mask m).getLsbD i then finish f (lane i) else ((old.extractLsb' (f.bits * i) f.bits).toNat, 0))
      ∀ z, (y.flagged (flags (r.map (·.2)))).resultV d (vOfLanes f.bits (r.map (·.1))) = some z →
        exec i s = .next (s.passed 4 z)
    let at' := fun (f : Fmt) (v : VReg) (i : Nat) => (f.decode (v.extractLsb' (f.bits * i) f.bits).toNat).1
    (∀ p ∈ ([(.f32, .vaddF32, .vsubF32, .vmulF32, .vminF32, .vmaxF32), (.f16, .vaddF16, .vsubF16, .vmulF16, .vminF16, .vmaxF16),
        (.bf16, .vaddBf16, .vsubBf16, .vmulBf16, .vminBf16, .vmaxBf16)] :
        List (Fmt × (Fin 8 → Fin 32 → Fin 32 → Fin 32 → Fin 8 → Instr) × (Fin 8 → Fin 32 → Fin 32 → Fin 32 → Fin 8 → Instr) ×
          (Fin 8 → Fin 32 → Fin 32 → Fin 32 → Fin 8 → Instr) × (Fin 8 → Fin 32 → Fin 32 → Fin 32 → Fin 8 → Instr) ×
          (Fin 8 → Fin 32 → Fin 32 → Fin 32 → Fin 8 → Instr))),
      gives (p.2.1 g d a b m) p.1 y (y.keeps d) (fun i => fAdd (at' p.1 u i) (at' p.1 v i)) ∧
      gives (p.2.2.1 g d a b m) p.1 y (y.keeps d) (fun i => fAdd (at' p.1 u i) (at' p.1 v i).negate) ∧
      gives (p.2.2.2.1 g d a b m) p.1 y (y.keeps d) (fun i => fMul (at' p.1 u i) (at' p.1 v i)) ∧
      gives (p.2.2.2.2.1 g d a b m) p.1 y (y.keeps d) (fun i => fMinMax false (at' p.1 u i) (at' p.1 v i)) ∧
      gives (p.2.2.2.2.2 g d a b m) p.1 y (y.keeps d) (fun i => fMinMax true (at' p.1 u i) (at' p.1 v i))) ∧
    (y.sourceV d = some (q, t) →
      ∀ p ∈ ([(.f32, .vfmaF32 g d a b m), (.f16, .vfmaF16 g d a b m), (.bf16, .vfmaBf16 g d a b m)] : List (Fmt × Instr)),
        gives p.2 p.1 t q (fun i => fFma (at' p.1 q i) (at' p.1 u i) (at' p.1 v i)))

/-- Compares of lanes into a mask, and the lane moves: select, permute, compress, expand, merge of two sorted index
lists, broadcast, moves between register files, block sums (R131-R134, R141, R142, R144). Completes: vcmp, vsel, vperm,
vmerge, vcomp, vexpd, vbcast, vbsum, bsadd, movVc, movCv, movMc, movCm. -/
def Obligations.VectorSelectionResults : Prop :=
  ∀ (s : State) (g h m o k : Fin 8) (t : Fin 2) (d a b n : Fin 32) (e f : Fin 64) (u v : VReg) (c : CVal) (x y : Strand),
    s.me.guard g = true →
    let lanes := fun (i : Instr) (y : Strand) (r : Nat → Word) =>
      ∀ z, y.resultV d (ofLanes32 r) = some z → exec i s = .next (s.passed 4 z)
    (s.me.sourceV a = some (u, x) →
      lanes (.vcomp g d a m) x (fun i => (((onLanes (x.mask m)).map (lane32 u))[i]?).getD 0) ∧
      lanes (.vexpd g d a m) x (fun i =>
        match (onLanes (x.mask m)).findIdx? (· == i) with | some j => lane32 u j | none => lane32 (x.keeps d) i) ∧
      (∀ z, x.result e (.plain (blockSum (((lanesOf (bsumFmt n.val).bits u).zipIdx.filter
          (fun p => (x.mask m).getLsbD p.2)).map (fun p => ((bsumFmt n.val).decode p.1).1)))) = some z →
        exec (.vbsum g n a e m) s = .next (s.passed 4 z)) ∧
      (x.sourceV b = some (v, y) →
        (let r := ((lanesOf 32 u).zip (lanesOf 32 v)).zipIdx.map (fun p =>
            if (y.mask m).getLsbD p.2 then vcond t.val o.val p.1.1 p.1.2 else (false, 0))
         exec (.vcmp g h a b m t o) s = .next (s.passed 4
          (if h = 0 then y else (y.flagged (flags (r.map (·.2)))).withMask h (BitVec.ofNat 128 (ofBits (r.map (·.1))))))) ∧
        lanes (.vsel g d a b m) y (fun i => if (y.mask m).getLsbD i then lane32 u i else lane32 v i) ∧
        lanes (.vperm g d a b m) y (fun i =>
          if (y.mask m).getLsbD i then (if (lane32 v i).toNat < 32 then lane32 u (lane32 v i).toNat else 0)
          else lane32 (y.keeps d) i) ∧
        (let r := mergeWalk (o.val.testBit 1) (o.val.testBit 0) (o.val.testBit 2) u v 33 0 0
         ∀ z1 z2, (y.flagged r.2).resultV d (ofLanes32 (fun i => ((r.1[i]?).map (·.1)).getD (BitVec.allOnes 32))) = some z1 →
          z1.resultV (Fin.ofNat 32 (d.val + 1)) (ofLanes32 (fun i => ((r.1[i]?).map (·.2)).getD 0)) = some z2 →
          exec (.vmerge g d a b o) s = .next (s.passed 4 z2)))) ∧
    (s.me.source e = some (c, x) →
      lanes (.vbcast g d e m) x (fun i => if (x.mask m).getLsbD i then c.addr.setWidth 32 else lane32 (x.keeps d) i) ∧
      exec (.movMc g h e) s = .next (s.passed 4 (x.withMask h c.val)) ∧
      (d.val < 30 → ∀ z, x.resultV d ((rd x.v d &&& ~~~((BitVec.allOnes 128).setWidth 1024 <<< (128 * k.val))) |||
          (c.val.setWidth 1024 <<< (128 * k.val))) = some z →
        exec (.movVc g d e k) s = .next (s.passed 4 z))) ∧
    (a.val < 30 → ∀ z, s.me.result e (.plain ((rd s.me.v a >>> (128 * k.val)).setWidth 128)) = some z →
      exec (.movCv g a e k) s = .next (s.passed 4 z)) ∧
    (∀ z, s.me.result e (.plain (s.me.mask h)) = some z → exec (.movCm g h e) s = .next (s.passed 4 z)) ∧
    (f.val < 60 → let r := blockAdd (s.me.creg f).val (s.me.creg (Fin.ofNat 64 n.val)).val
      ∀ z, (s.me.flagged r.2).result f (.plain r.1) = some z → exec (.bsadd g n f) s = .next (s.passed 4 z))

/-- `vred`, `vscan`, the unary functions, division and conversion: visible at once with LA = 0, and with a nonzero LA in
a window of that many slots, the flags with the value; a NaN result is canonical (R125, R126, R129, R130, R135-R140; 01
R27). Reductions and scans in one closed form for 32-bit integer sums: with no lane masked off, the total modulo 2^32 in
lane 0 and zeros above it, and every prefix sum in its lane (R135, R136; 02 R61). Completes: vred, vscan, vsqrt, vexp2,
vlog2, vrcp, vdivF32, vcvt, vdivF16. -/
def Obligations.LongVectorResults : Prop :=
  (∀ (s : State) (g m : Fin 8) (l : Fin 16) (t : Fin 2) (d a b k : Fin 32) (u v : VReg) (x y : Strand),
     s.me.guard g = true → s.me.sourceV a = some (u, x) →
     let gives := fun (i : Instr) (y : Strand) (r : VReg × Nat) =>
       (l = 0 → ∀ z, (y.flagged r.2).resultV d r.1 = some z → exec i s = .next (s.passed 4 z)) ∧
       (l ≠ 0 → d.val < 30 → exec i s = .next (s.passedTo 4 (s.owing y (.v d) l.val r.1 r.2))) ∧
       (l ≠ 0 → 30 ≤ d.val → exec i s = .next (s.takeTrap s.cur.1 s.cur.2 .ill none))
     let laid := fun (f : Fmt) (y : Strand) (new : List (Nat × Nat)) =>
       let r := masked (y.mask m) (lanesOf f.bits (y.keeps d)) new
       (vOfLanes f.bits r.1, r.2)
     (let f := if t = 0 then Fmt.f32 else Fmt.f16
      ∀ p ∈ ([(.vsqrt g d a m l t, fSqrt), (.vexp2 g d a m l t, fExp2), (.vlog2 g d a m l t, fLog2),
         (.vrcp g d a m l t, fDiv (.fin false 1 0))] : List (Instr × (FVal → FVal × Nat))),
       gives p.1 x (laid f x ((lanesOf f.bits u).map (fun c => finish f (p.2 (f.decode c).1))))) ∧
     (x.sourceV b = some (v, y) →
       ∀ p ∈ ([(.vdivF32 g d a m l b, .f32), (.vdivF16 g d a m l b, .f16)] : List (Instr × Fmt)),
         gives p.1 y (laid p.2 y (((lanesOf p.2.bits u).zip (lanesOf p.2.bits v)).map
           (fun q => finish p.2 (fDiv (p.2.decode q.1).1 (p.2.decode q.2).1))))) ∧
     (let c := redCode k.val
      let ls := redLevels (redNode c.1 c.2) (redDepth c.2) (redLanes c.1 c.2 (x.mask m) u)
      let sums := (List.range (1024 / c.2.bits)).map (fun i => scanLane (redNode c.1 c.2) ls i (redDepth c.2 + 1) 0 none)
      gives (.vred g d a m l k) x (BitVec.ofNat 1024 ((ls.getLast?.bind List.head?).getD (0, 0)).1,
         ((ls.getLast?.bind List.head?).getD (0, 0)).2) ∧
      gives (.vscan g d a m l k) x (vOfLanes c.2.bits (sums.map (fun p => canonLane c.2 p.1)), flags (sums.map (·.2)))) ∧
     (∀ mode, RMode.ofCode (x.cvrm.toNat % 8) = some mode →
       gives (.vcvt g d a m l k) (if mode = .sr then { x with srgen := genAdvance x.srgen 32 } else x)
         (cvtResult k.val mode (x.cvrm.toNat / 2 ^ 8 % 2 ^ 8) x.srgen (x.mask m) u (x.keeps d))) ∧
     (RMode.ofCode (x.cvrm.toNat % 8) = none →
       exec (.vcvt g d a m l k) s = .next (s.takeTrap s.cur.1 s.cur.2 .ill none))) ∧
  (∀ (s : State) (g : Fin 8) (d a : Fin 32) (u : VReg) (x z1 z2 : Strand),
     s.me.guard g = true → s.me.sourceV a = some (u, x) →
     let sum := fun (n : Nat) => ((List.range n).map (fun i => (lane32 u i).toNat)).sum % 2 ^ 32
     (x.resultV d (BitVec.ofNat 1024 (sum 32)) = some z1 → exec (.vred g d a 0 0 9) s = .next (s.passed 4 z1)) ∧
     (x.resultV d (vOfLanes 32 ((List.range 32).map (fun i => sum (i + 1)))) = some z2 →
       exec (.vscan g d a 0 0 9) s = .next (s.passed 4 z2)))

/-- The generator: 32 lanes drawn from the state in c[c], as words or as numbers in [0, 1), and the state written back
advanced by 32; the neuron step of 32 lanes, with the spikes in a mask and the overdriven lanes in NOVD (R143, R145,
R146; 02 R62, R63). Completes: vrnd, vrndf, nrns. -/
def Obligations.DrawsAndNeurons : Prop :=
  ∀ (s : State) (g m : Fin 8) (d a : Fin 32) (e : Fin 64) (u v : VReg) (c : CVal) (x y t : Strand),
    s.me.guard g = true →
    (e.val < 60 →
      ∀ p ∈ ([(.vrnd g d e m, fun w => w),
          (.vrndf g d e m, fun w => BitVec.ofNat 32 (roundTo .f32 (.fin false (w.toNat / 2 ^ 8) (-24)) .rne).1)] :
          List (Instr × (Word → Word))),
        ∀ z1 z2, s.me.resultV d (ofLanes32 (fun i => if (s.me.mask m).getLsbD i then p.2 (genLane (s.me.creg e).val i)
            else lane32 (s.me.keeps d) i)) = some z1 →
          z1.result e (.plain (genAdvance (s.me.creg e).val 32)) = some z2 → exec p.1 s = .next (s.passed 4 z2)) ∧
    (60 ≤ e.val → ∀ i ∈ [Instr.vrnd g d e m, .vrndf g d e m], exec i s = .next (s.takeTrap s.cur.1 s.cur.2 .ill none)) ∧
    (s.me.sourceV a = some (u, x) → x.sourceV d = some (v, y) → y.source e = some (c, t) →
      let r := (List.range 32).map (fun i => neuron (c.addr.toNat % 2 ^ 32) (c.addr.toNat / 2 ^ 32) (lane32 v i).toNat (lane32 u i).toNat)
      let hard := r.map (fun q => q.2.2.1)
      ∀ z, (t.flagged (flags (r.map (fun q => q.2.2.2)))).resultV d (vOfLanes 32 (r.map (·.1))) = some z →
        let n := z.novd.toNat
        exec (.nrns g d a e m) s = .next (s.passed 4 (({ z with
          novd := BitVec.ofNat 64 (Nat.lor (n % 2 ^ 32) (ofBits hard) +
            2 ^ 32 * min (n / 2 ^ 32 + (hard.filter id).length) (2 ^ 32 - 1)) } : Strand).withMask m
              (BitVec.ofNat 128 (ofBits (r.map (fun q => q.2.1)))))))

/-! ### Engine operations, copies and tokens (04 R119, R120; 07 R193-R197; 13 R261-R267) -/

/-- An engine operation of a strand outside speculation: its number, its issuer and what it is to do stand in the list
of operations, its token rises by one, and its first event is due after the model's 100 ns (log entry 4); in a
speculative task it is deferred to the commit and changes no token (R196, 16 R308). A strand may start one unless it has
64 outstanding, leases not yet granted among them, or a copy awaits its index capability (R153, R194, R196). `get` and
`give`: the length runs from the local operand's address to its top, and the operands are checked for it; the operation
then moves that many bytes from c[b] to c[a] (R119). `xcopy` under the geometry registers: values in their limits,
capabilities with their permissions, the reached ranges in bounds and on the die; one run for each row, or one for all
where they abut, and for the blocks of a slab copy (13 R261); a read-out pending in the target tile register is
discarded (01 R27). Row-gather waits for its index capability (R194, R195). The geometry registers are written within
their limits (R193). Completes: get, give, xcopy, xgeo. -/
def Obligations.MovesAndCopiesAreIssued : Prop :=
  (∀ (s : State) (k : Fin 8) (job : Job) (todo : List Piece) (first : Nat → Instr),
     let o : Op :=
       { id := s.nextId, core := s.cur.1, wid := s.me.work.wid, grid := s.me.work.grid, asid := s.me.asid, token := some k, dom := none,
         deferred := false, job := job, todo := todo, next := 0, buf := [], cur := none, idx := [], bad := [], handed := none,
         logged := false, failed := false }
     (s.me.work.task = none →
       s.startOp (some k) job todo first =
         ((({ s with nextId := s.nextId + 1, ops := s.ops ++ [o] } : State).updWork s.cur.1 s.me.work.wid
           (fun (x : Strand) => { x with tok := wr x.tok k { rd x.tok k with out := (rd x.tok k).out + 1 } })).post 100
             (first s.nextId)) ∧
       (s.me.await = none →
         (s.ops.filter (fun (o : Op) => o.core == s.cur.1 && o.wid == s.me.work.wid)).length +
           ((s.cluster (clusterOf s.cur.1)).leases.filter (fun (l : Lease) =>
             l.core == s.cur.1 && l.wid == s.me.work.wid && l.token.isSome && l.st == .requested)).length < 64 →
         s.engineFree = .ok ())) ∧
     (∀ t, s.specOf s.me = some t →
       s.startOp (some k) job todo first =
         (({ s with nextId := s.nextId + 1,
                    ops := s.ops ++ [{ o with token := none, dom := some t.dom, deferred := true }] } : State).updTask t.dom t.id
           (fun (y : STask) => { y with defer := y.defer ++ [.op s.nextId] })))) ∧
  (∀ (s : State) (g k : Fin 8) (a b : Fin 64) (u v : CVal) (x y : Strand),
     s.me.guard g = true → s.engineFree = .ok () → s.me.source a = some (u, x) → x.source b = some (v, y) →
     ∀ p ∈ ([(.get g k a b, u), (.give g k a b, v)] : List (Instr × CVal)),
       let n := (p.2.top - p.2.addr.toNat).toNat
       let off := fun (c : CVal) => !c.has .local && (decide (1 < df (c.addr + BitVec.ofNat 64 (n - 1)) 56 8) ||
         offDieRange s.cur.1 c.addr n)
       p.2.tag = true → p.2.has .local = true → n % 16 = 0 ∧ 16 ≤ n ∧ n ≤ 65536 →
       s.mayAccess v [.ld, .eng] v.addr n 16 true → s.mayAccess u [.st, .eng] u.addr n 16 true →
       exec p.1 s = .next (s.passedTo 4 ((s.setMe y).startOp (some k) (.move v u n (off u || off v))
         [{ row := 0, off := 0, len := n }] (fun id => .streamerPiece id 0)))) ∧
  (∀ (s : State) (g k : Fin 8) (d a b : Fin 64) (u v : CVal) (x y : Strand),
     s.me.guard g = true →
     (s.engineFree = .ok () → s.me.source a = some (u, x) → x.source b = some (v, y) →
       let geo := geoOf y.xgeo
       let ends := if geo.tile.isSome then [] else geo.dstSpans u
       let job : Job := .copy geo v u none
       let todo := if geo.mode = 2 ∨ geo.mode = 1 ∧ geo.spitch = geo.xlen then [({ row := 0, off := 0, len := geo.rows * geo.xlen } : Piece)]
         else (List.range geo.rows).map (fun i => ({ row := i, off := 0, len := geo.xlen } : Piece))
       let y1 : Strand := match geo.tile with
         | some t => { y with wins := y.wins.filter (fun (w : Window) => w.dst != WinDst.t t) }
         | none => y
       geo.bad y.xgeo u a = false → v.tag = true → v.hasAll [.ld, .eng] = true →
       (geo.tile = none → u.tag = true ∧ u.hasAll [.st, .eng] = true) →
       (∀ t, geo.tile = some t → (rd s.myCore.t t).holder = some s.cur.2) →
       (∀ p ∈ geo.srcSpans v, v.inBounds p.1.toNat p.2 = true ∧ s.onDie v p.1 p.2 = true) →
       (∀ p ∈ ends, u.inBounds p.1.toNat p.2 = true ∧ s.onDie u p.1 p.2 = true) →
       (geo.mode ≠ 3 → exec (.xcopy g k a b) s = .next (s.passedTo 4
         ((s.setMe y1).startOp (some k) job todo (fun id => .streamerPiece id 0)))) ∧
       (geo.mode = 3 → exec (.xcopy g k a b) s = .next (s.passedTo 4
         (((s.setMe y1).newOp (some k) job todo).2.updMe (fun (z : Strand) => { z with await := some s.nextId }))))) ∧
     (s.me.source a = some (u, x) →
       (∀ h : d.val < 7, xgeoOk d.val u.addr = true →
         exec (.xgeo g d a) s = .next (s.passed 4 { x with xgeo := wr x.xgeo ⟨d.val, h⟩ u.addr })) ∧
       (7 ≤ d.val ∨ xgeoOk d.val u.addr = false → exec (.xgeo g d a) s = .next (s.takeTrap s.cur.1 s.cur.2 .ill none))))

/-- Tokens: `ttest` reads a token's counts and flags, and bit 0 of its operand then clears all but OUT; `twait` goes on
once OUT of every token named is 0 (R196). `xresume` takes a handed-back remainder out of its entry and goes on with it
(R197). Completes: xresume, ttest, twait. -/
def Obligations.TokensAndResumption : Prop :=
  ∀ (s : State) (g k : Fin 8) (d b : Fin 64) (m : Fin 256) (v : CVal) (x : Strand) (o : Op) (z : Strand),
    s.me.guard g = true →
    (s.me.source b = some (v, x) →
      let t := rd x.tok k
      let back := s.ops.any (fun (o : Op) => o.core == s.cur.1 && o.wid == x.work.wid && o.token == some k && o.handed.isSome)
      let y : Strand := if v.addr.getLsbD 0 then
        { x with tok := wr x.tok k { out := t.out, done := 0, oob := 0, errc := 0, err := false } } else x
      y.result d (.plain (BitVec.ofNat 128 (t.out % 2 ^ 16 + 2 ^ 16 * t.done + 2 ^ 32 * t.oob + 2 ^ 48 * t.errc +
        (if t.err then 2 ^ 64 else 0) + (if back then 2 ^ 65 else 0)))) = some z →
      exec (.ttest g d k b) s = .next (s.passed 4 z)) ∧
    ((∀ i : Fin 8, m.val.testBit i.val = true → (rd s.me.tok i).out = 0) → exec (.twait g m) s = .next (s.passed 4 s.me)) ∧
    (s.me.await = none → s.me.source b = some (v, x) →
      let i : Fin 16 := Fin.ofNat 16 (v.addr.toNat % 16)
      (rd s.myCore.hback i).op.bind s.op = some o → (rd s.myCore.hback i).gen.toNat = v.addr.toNat / 2 ^ 16 % 2 ^ 16 →
      o.asid = s.me.asid →
      exec (.xresume g b) s = .next (s.passedTo 4 ((((s.setMe x).updCore s.cur.1 (fun (c : Core) =>
        { c with hback := wr c.hback i { gen := (rd s.myCore.hback i).gen, op := none } })).resumeOp o))))

/-- What the engines do with a copy or a move whose operation is found and not handed back, the device not frozen: after
what its issuer did before it (R120), a piece is read in one step and its granules wait; the oldest granule is written
at its home; the last acknowledgement ends the operation and the token falls, in the save image too of work that is
saved (21 R385); a translation fault hands the remainder back in a free entry of the core (R197, R261, R264, 20 R364). A
quire store or update at its home, after what its issuer did before it: on a packed block performed whole, in one step,
with the block's version byte raised, its flags and QSTAT bits in its strand and its token down; on a split block
computed, each unit translated once, and then written unit by unit in an order that a free value gives (16 R300); or
handed back on a translation fault (R169, R170, R173, R174). The delays until an event are the model's (log entry 4).
Free values are the model's (log entry 13). Completes: streamerPiece, granuleWrite, engineAck, engineHandBack,
quireUpdateAtHome. -/
def Obligations.EngineEvents : Prop :=
  (∀ (s : State) (id n : Nat) (o : Op),
     s.op id = some o → s.house.frozen = false → o.handed = none → o.deferred = false → o.id = id →
     (∀ src dst len p rest bs s1, o.next = n → o.buf = [] → o.todo = p :: rest → o.job = .move src dst len false →
       s.awaitsIssuer o = false → peerAt src (src.addr + BitVec.ofNat 64 p.off) = false →
       let at' := fun (c : CVal) i => c.addr + BitVec.ofNat 64 i
       let room := min p.len (pieceRoom src (src.addr + BitVec.ofNat 64 p.off))
       s.readGranules o src (at' src) (granules 0 (at' dst) (room + 1) p.off (List.replicate room 0)) = .ok (bs, s1) →
       exec (.streamerPiece id n) s = .next ((s1.updOp id (fun (q : Op) => { q with
         todo := if room < p.len then { p with off := p.off + room, len := p.len - room } :: rest else rest
         next := q.next + 1, cur := some { p with len := room }, buf := bs.map (fun x => (dst, x.1, x.2)) })).opGoOn id)) ∧
     (∀ dst va bs more s1, o.next = n → o.buf = (dst, va, bs) :: more → o.job.tile = none → peerAt dst va = false →
       o.job.crosses = false →
       s.homeWrite o.who (dst.has .local) [(va, bs)] [] = .ok s1 →
       exec (.granuleWrite id n) s = .next (s1.granuleDone o more)) ∧
     (o.next = n → o.todo = [] → o.buf = [] → o.bad = [] →
       exec (.engineAck id n) s = .next (({ s with ops := s.ops.filter (fun (p : Op) => p.id != id) } : State).tellToken
         o.core o.wid o.token Token.down)) ∧
     (∀ b bs e, o.bad = b :: bs → (s.core o.core).freeHback = some e → (∀ p, o.job ≠ .amo p) →
       let f := (bs.foldl (fun (m : Piece × FaultInfo) x => if x.2.va < m.2.va then x else m) b).2
       let gen := (rd (s.core o.core).hback e).gen + 1
       let s1 := s.updCore o.core (fun (c : Core) => { c with hback := wr c.hback e { gen := gen, op := some id } })
       let s2 := (s1.updOp id (fun (p : Op) => { p with handed := some e })).opFailed o
       exec (.engineHandBack id) s = .next (s2.post 100 (.messageArrival o.core (s2.handBackMsg o o.job.engine e gen f))))) ∧
  (∀ (s : State) (id : Nat) (o : Op) (j : QuireJob),
     s.op id = some o → o.job = .quire j → s.house.frozen = false → o.deferred = false → o.handed = none → o.bad = [] →
     s.awaitsIssuer o = false →
     (∀ fl qs places unit ts, j.work = .out fl qs places →
       let i := (Config.freeValue s.freshN).toNat % o.buf.length
       o.buf[i]? = some unit → places[i]? = some ts →
       exec (.quireUpdateAtHome id) s = .next (((({ s with freshN := s.freshN + 1 } : State).writeParts o.who ts unit.2.2).updOp o.id
         (fun (x : Op) => { x with job := .quire { j with work := .out fl qs (places.eraseIdx i) }, buf := o.buf.eraseIdx i })).post 5
           (.quireUpdateAtHome o.id))) ∧
     ((∀ fl qs places, j.work ≠ .out fl qs places) →
     (∀ fl qs s1, j.q.split = false → s.quireStep o j = .ok (fl, qs, s1) → o.dom = none →
       exec (.quireUpdateAtHome id) s = .next ((s1.updWork o.core o.wid (fun (x : Strand) =>
         { x with fflags := x.fflags ||| BitVec.ofNat 32 fl, qstat := x.qstat ||| BitVec.ofNat 32 qs })).endOp id)) ∧
     (∀ f s1, j.q.split = false → s.quireStep o j = .error (f, s1) → f.cause = .translation →
       exec (.quireUpdateAtHome id) s = .next (s1.opFault o f)) ∧
     (∀ hdr codes fl qs s1 places s2, j.q.split = true → s.quireResult o j = .ok (hdr, codes, fl, qs, s1) →
       s1.quirePlaces o.who (j.q.units j.blk hdr codes) = .ok (places, s2) →
       exec (.quireUpdateAtHome id) s = .next ((s2.updOp id (fun (x : Op) => { x with
         job := .quire { j with work := .out fl qs places }, buf := j.q.units j.blk hdr codes })).post 5 (.quireUpdateAtHome id))) ∧
     (∀ fl qs s1, s.quireStep o j = .ok (fl, qs, s1) →
       ∃ (s0 : State) (parts : List (List Byte)) (h : DHdr), s.translateParts o.who j.q j.blk [0, 1, 2, 3, 4] = .ok s0 ∧
         (∃ s2, s0.engineParts o.who j.q j.blk (match j.work with | .upd .. => [0, 1, 2, 3, 4] | _ => [0]) = .ok (parts, s2) ∧
           h = DHdr.ofBytes ((parts[0]?).getD []) ∧
           ∃ (hdr : DHdr) (codes : List Nat), s2.writeQuire o.who j.q j.blk ((0, DHdr.bytes { hdr with ver := (h.ver + 1) % 256 }) ::
             (List.range 4).map (fun i => (i + 1, toPlane i codes))) = .ok s1))))

/-! ### Tiles (06 R150, R151) -/

/-- Tile registers: a claim gives a free tile, clean unless it was last of the strand's ASID; its holder reads and
writes rows and columns, clears and transposes it, and gives it up once what engines owe it has landed; another strand
traps `tile` (R150, R151; 01 R20). That a read-out which has landed in an open window is written by `tfree` is the
model's choice (log entry 70). Completes: trd, twr, tzero, ttrans, tclaim, tfree. -/
def Obligations.TileResults : Prop :=
  ∀ (s : State) (g t : Fin 8) (r : Fin 2) (i : Fin 64) (k w : Fin 32) (c : CVal) (v : VReg) (x y z : Strand),
    s.me.guard g = true →
    let q := rd s.myCore.t t
    let el := fun (a b : Nat) => lane32 (rd q.rows (Fin.ofNat 32 a)) b
    let puts := fun (n : Nat) (p : Instr) (x : Strand) (q' : Tile) =>
      exec p s = .next (s.passedTo n ((s.setMe x).updCore s.cur.1 (fun (c : Core) => { c with t := wr c.t t q' })))
    let fresh := fun (x : Strand) => { x with wins := x.wins.filter (fun (w : Window) => w.dst != WinDst.t t) }
    (q.holder ≠ some s.cur.2 → ∀ p ∈ [Instr.trd g t r i k w, .twr g t r i k w, .tzero g t, .ttrans g t],
      exec p s = .next (s.takeTrap s.cur.1 s.cur.2 .tile none)) ∧
    (q.holder = some s.cur.2 → s.owedTile s.cur.1 t = false →
      puts 4 (.tzero g t) (fresh s.me) { q with rows := Vector.replicate 32 0 } ∧
      puts 4 (.ttrans g t) (fresh s.me) { q with rows := vofFn (fun a => ofLanes32 (fun b => el b a.val)) } ∧
      (s.me.source i = some (c, x) → c.addr.toNat + k.val < 32 →
        let n := c.addr.toNat + k.val
        (x.resultV w (if r = 0 then rd q.rows (Fin.ofNat 32 n) else ofLanes32 (fun j => el j n)) = some z →
          exec (.trd g t r i k w) s = .next (s.passed 4 z)) ∧
        (x.sourceV w = some (v, y) → puts 4 (.twr g t r i k w) (fresh y)
          { q with rows := if r = 0 then wr q.rows (Fin.ofNat 32 n) v
                           else vofFn (fun a => ofLanes32 (fun j => if j = n then lane32 v a.val else el a.val j)) })) ∧
      (s.me.source i = some (c, x) → 32 ≤ c.addr.toNat + k.val → x.sourceV w = some (v, y) →
        ∀ p ∈ [Instr.trd g t r i k w, .twr g t r i k w], exec p s = .next (s.takeTrap s.cur.1 s.cur.2 .ill none)) ∧
      exec (.tclaim g t) s = .next (s.passed 4 s.me) ∧
      (s.me.allWins.any (fun (w : Window) => w.dst == .t t) = false → puts 4 (.tfree g t) s.me { q with holder := none }) ∧
      (let ws := s.me.allWins.filter (fun (w : Window) => w.dst == .t t)
       (∀ w ∈ ws, w.res ≠ .pending) → exec (.tfree g t) s = .next (s.passedTo 4 ((s.landTile t ws).updCore s.cur.1 (fun (c : Core) =>
        { c with t := wr c.t t { rd c.t t with holder := none } }))))) ∧
    (q.holder = none → q.queue = [] → puts 4 (.tclaim g t) s.me
      { rows := if q.asid = s.me.asid then q.rows else Vector.replicate 32 0, holder := some s.cur.2, asid := s.me.asid, queue := [] }) ∧
    (q.holder ≠ some s.cur.2 → exec (.tfree g t) s = .next (s.passed 4 s.me))

/-! ### Quires (06 R168-R175) -/

/-- `pld` and `plhdr`, by a parameter in its fields' places and a descriptor whose values and capabilities are in order:
with LA = 0 the sub-block of `n` planes, or the header, lands at once (the model's choice, log entry 36); with a nonzero
LA a window opens (R168, R170-R172). `pst`, `plupd` and `plaxpy`: 256 lanes from eight v registers, SR values from SRGEN
or from a c register written back advanced by 256; a store encodes its block at issue; one engine operation on the block
(R173, R174). Completes: pld, pst, plupd, plaxpy, plhdr. -/
def Obligations.QuireInstructions : Prop :=
  (∀ (s : State) (g : Fin 8) (l : Fin 16) (a b : Fin 64) (c p : CVal) (x y : Strand) (e r n rn : Nat) (q : QuireSrc)
     (count : Nat) (s1 : State),
     s.me.guard g = true → s.me.await = none → s.me.source a = some (c, x) → x.source b = some (p, y) →
     (s.setMe y).quireDesc c = .ok (q, count, s1) → e < count → count ≤ 2 ^ 48 →
     (p.val = BitVec.ofNat 128 (e + 2 ^ 48 * r + 2 ^ 54 * (n - 1) + 2 ^ 56 * rn) → e % 32 = 0 → r ≤ 29 → 1 ≤ n → n ≤ 4 → rn ≤ 1 →
       s1.checkParts q (e / 256) (some (e % 256 / 32)) false (partsRead n (rn == 1)) = .ok () →
       let acc : Access := { kind := .quire q e n (rn == 1), cap := c, va := (q.part (e / 256) 0).2, n := 128 }
       (l = 0 → s1.me.loadsPending = false →
         ∀ v tag sat s2 z, s1.perform s1.cur.1 s1.cur.2 s1.nextId acc = .ok (v, tag, sat, s2) →
           (if sat then ({ s2.me with qstat := s2.me.qstat ||| 1 } : Strand) else s2.me).landingV (Fin.ofNat 32 r) v = some z →
           exec (.pld g l a b) s = .next (s.passedTo 4 (s2.setMe z))) ∧
       (l ≠ 0 → exec (.pld g l a b) s = .next (s.passedTo 4 (s1.windowed s1.me (.v (Fin.ofNat 32 r)) l.val acc)))) ∧
     (p.val = BitVec.ofNat 128 (e + 2 ^ 48 * r) → e % 256 = 0 → 1 ≤ r → r ≤ 59 →
       s1.checkParts q (e / 256) none false [0] = .ok () →
       let acc : Access := { kind := .quireHdr q e, cap := c, va := (q.part (e / 256) 0).2, n := 16 }
       (l = 0 → s1.me.loadsPending = false →
         ∀ v tag sat s2 z, s1.perform s1.cur.1 s1.cur.2 s1.nextId acc = .ok (v, tag, sat, s2) →
           s2.me.landing (Fin.ofNat 64 r) { val := v.setWidth 128, tag := tag } = some z →
           exec (.plhdr g l a b) s = .next (s.passedTo 4 (s2.setMe z))) ∧
       (l ≠ 0 → exec (.plhdr g l a b) s = .next (s.passedTo 4 (s1.windowed s1.me (.c (Fin.ofNat 64 r)) l.val acc))))) ∧
  (∀ (s : State) (g k : Fin 8) (a b : Fin 64) (c p : CVal) (x y : Strand) (e r m al st : Nat) (q : QuireSrc) (count : Nat)
     (s1 s2 : State) (gen : Quad),
     s.me.guard g = true → s.engineFree = .ok () → s.me.source a = some (c, x) → x.source b = some (p, y) →
     p.val = BitVec.ofNat 128 (e + 2 ^ 48 * r + 2 ^ 57 * m + 2 ^ 64 * al + 2 ^ 96 * st) →
     e % 256 = 0 → e < count → count ≤ 2 ^ 48 → r = 0 ∨ r = 8 ∨ r = 16 → m ≤ 4 → al < 2 ^ 32 → st ≤ 59 → (m = 4 ∨ st = 0) →
     (s.setMe y).quireDesc c = .ok (q, count, s1) → s1.checkParts q (e / 256) none true [0, 1, 2, 3, 4] = .ok () →
     (if m ≠ 4 then gen = 0 ∧ s2 = s1
      else if st = 0 then gen = s1.me.srgen ∧ s2 = s1.setMe { s1.me with srgen := genAdvance s1.me.srgen 256 }
      else gen = (s1.me.creg (Fin.ofNat 64 st)).val ∧
       ∃ z, s1.me.result (Fin.ofNat 64 st) (.plain (genAdvance gen 256)) = some z ∧ s2 = s1.setMe z) →
     let xs := (List.range 8).flatMap (fun j => (List.range 32).map (lane32 (rd s1.me.v (Fin.ofNat 32 (r + j)))))
     let issued := fun (i : Instr) (s2 : State) (w : QuireWork) =>
       exec i s = .next (s.passedTo 4 (s2.startOp (some k) (.quire { q := q, blk := e / 256, work := w }) [] .quireUpdateAtHome))
     (al = 0 →
       let enc := dEncode 22 (xs.zipIdx.map (fun p => ((Fmt.f32.decode p.1.toNat).1, genDraw gen p.2))) ((RMode.ofCode m).getD .rne)
       issued (.pst g k a b) (s2.setMe (s2.me.flagged enc.2.2)) (.put enc.1.bytes enc.2.1)) ∧
     (al = 0 → m = 0 ∨ m = 4 → issued (.plupd g k a b) s2 (.upd m 0x3F800000 xs gen)) ∧
     (m = 0 ∨ m = 4 → issued (.plaxpy g k a b) s2 (.upd m (BitVec.ofNat 32 al) xs gen)))

/-! ### The shared matrix array (06 R152-R167; 11 R244-R256; 02 R54-R57) -/

/-- Leases and geometry: `mlease` asks for a lease with 1 to 8 accumulators and a save area that fits, its token rising;
`mfree` gives it up once it is idle; `mgeo` and `mgeor` write a geometry register within its limits, and read it (R153,
R154, R156). A strand has at most one lease. That `mgeo` and `mgeor` execute in a speculative task too is the model's
choice (06 R155; log entry 69). Completes: mlease, mfree, mgeo, mgeor. -/
def Obligations.LeasesAndGeometry : Prop :=
  ∀ (s : State) (g k : Fin 8) (d a b : Fin 64) (c p : CVal) (x y z : Strand) (l : Lease),
    s.me.guard g = true →
    let q := clusterOf s.cur.1
    let new := fun (n : Nat) (gq : Bool) => (
      { id := s.nextId, pos := Fin.ofNat 32 (posOf s.cur.1), core := s.cur.1, wid := s.me.work.wid, bin := none
        asid := s.me.asid, nacc := n, grantq := gq, token := some k, save := c, st := .requested, moving := false, cmds := []
        acc := Vector.replicate 8 .zero, slots := Vector.replicate 8 .empty, halves := Vector.replicate 2 .empty, mstat := 0
        lastUse := s.dt, spill := [] } : Lease)
    (s.me.work.task = none → s.engineFree = .ok () → s.me.lease = none → s.me.source a = some (c, x) →
      x.source b = some (p, y) → ∀ n gq, 1 ≤ n → n ≤ 8 → p.val = BitVec.ofNat 128 (n + if gq then 16 else 0) →
      s.mayAccess c [.ld, .st, .eng] c.addr (123136 + 32768 * n) 64 →
      let r := (s.setMe y).newLease q (Fin.ofNat 32 (posOf s.cur.1)) s.cur.1 s.me.work.wid none s.me.asid n gq (some k) c
      exec (.mlease g k a b) s = .next (s.passedTo 4 ((r.2.updMe (fun (w : Strand) => { w with lease := some s.nextId })).updToken
        s.cur.1 s.me.work.wid (some k) Token.up)) ∧
      (r.2.cluster q).leases = (s.cluster q).leases ++ [new n gq]) ∧
    (s.me.work.task = none → s.me.await = none → s.me.lease = none → exec (.mfree g) s = .next (s.passed 4 s.me)) ∧
    (s.me.work.task = none → s.me.await = none → ∀ i, s.me.lease = some i → (s.cluster q).lease i = some l → l.st ≠ .requested → l.cmds = [] →
      s.fillsOf q i = false →
      exec (.mfree g) s = .next (s.passedTo 4 ((((s.updLease q i (fun l => l.dropChain)).updMe
        (fun (w : Strand) => { w with lease := none })).dropLease q i)))) ∧
    (s.me.source a = some (c, x) →
      (d.val < 8 → geoOk d.val c.addr = true → exec (.mgeo g d a) s = .next (s.passed 4 { x with geo := wr x.geo d c.addr })) ∧
      (8 ≤ d.val ∨ geoOk d.val c.addr = false → exec (.mgeo g d a) s = .next (s.takeTrap s.cur.1 s.cur.2 .ill none))) ∧
    (a.val < 8 → s.me.result d (.plain ((rd s.me.geo a).setWidth 128)) = some z → exec (.mgeor g d a) s = .next (s.passed 4 z)) ∧
    (8 ≤ a.val → exec (.mgeor g d a) s = .next (s.takeTrap s.cur.1 s.cur.2 .ill none))

/-- Grants, turns, spills and restores while the device is not frozen: the oldest request of a position takes a free
frame that is not kept for another lease, the pointer moving as it is chosen; with none free or coming for it the least
recently used idle lease's frame is spilled; the turn goes to the lease chosen at the pointer, and ends after 32
commands or its time; a spill writes the save area and frees the frame; a restore takes a free one (R244-R249; 21 R390).
The turn's time in nanoseconds is the model's (log entry 4). Free values are the model's (log entry 13). Completes:
leaseGrant, arrayTurn, arrayTurnEnd, arraySpill, arrayRestore. -/
def Obligations.FramesAndTurns : Prop :=
  ∀ (s : State) (q : ClusterId),
    let x := s.cluster q
    let held := (x.leases.filter (fun (l : Lease) => l.st != .requested)).length
    let reqs := s.grantable q
    let kept := reqs.filter (fun (l : Lease) => l.moving)
    s.house.frozen = false →
    (∀ l, reqs ≠ [] → held < 32 → s.chooseLease q (if kept.isEmpty then reqs else kept) = some l →
      let s1 := if l.moving = true then s else s.updCluster q (fun (x : Cluster) => { x with ptr := l.pos })
      let want := x.expecting + (if l.moving = true then 0 else 1)
      (∀ f, x.freeFrame = some f → want ≤ x.comingFrames →
        exec (.leaseGrant q) s = .next (((s1.grantLease q l f).postOnce 10 (.leaseGrant q)).pokeArray q)) ∧
      (∀ v, x.comingFrames < want → s.victim q (s.reflex l) = some v →
        exec (.leaseGrant q) s = .next (((s1.updLease q l.id (fun (l : Lease) => { l with moving := true })).beginSpill
          q v).postOnce 300 (.leaseGrant q)))) ∧
    (∀ l, x.turn = none → s.chooseLease q (x.leases.filter (fun (l : Lease) =>
        l.eligible || (l.st == .spilled && !l.moving && !l.cmds.isEmpty))) = some l →
      let s1 := s.updCluster q (fun (x : Cluster) => { x with ptr := l.pos })
      (l.st ≠ .spilled → exec (.arrayTurn q) s = .next (((s1.updCluster q (fun (x : Cluster) =>
        { x with turn := some l.id, turnCmds := 0, turnAt := s.dt })).postOnce 9 (.arrayCommandComplete q)).post 2170
          (.arrayTurnEnd q))) ∧
      (l.st = .spilled → exec (.arrayTurn q) s = .next ((s1.beginRestore q l.id).postOnce 1 (.arrayTurn q)))) ∧
    (∀ l, x.turn.bind x.lease = some l → s.commandRuns q = false →
      x.leases.filter (fun (l : Lease) => l.st == .spilled && !l.moving && !l.cmds.isEmpty && s.reflex l) = [] →
      x.leases.any (fun (l : Lease) => l.st == .requested) = false →
      x.leases.any (fun (m : Lease) => m.id != l.id && m.eligible && s.reflex m) = false →
      (32 ≤ x.turnCmds ∨ 2170 ≤ s.dt - x.turnAt → exec (.arrayTurnEnd q) s = .next
        ((s.updCluster q (fun (x : Cluster) => { x with turn := none })).postOnce 1 (.arrayTurn q))) ∧
      (x.turnCmds < 32 → s.dt - x.turnAt < 2170 → l.eligible = true →
        exec (.arrayTurnEnd q) s = .next (s.postOnce 9 (.arrayCommandComplete q)))) ∧
    (∀ id l f, x.lease id = some l → l.st = .resident f → l.moving = true →
      let parts := l.parts (Config.freeValue s.freshN)
      let s1 := parts.foldl (fun s p =>
        match s.homeWrite l.who (l.save.has .local) [(l.save.addr + BitVec.ofNat 64 p.1, p.2)] [] with
        | .ok s2 => s2
        | .error (_, s2) => s2) { s with freshN := s.freshN + 1 }
      exec (.arraySpill q id) s = .next ((((s1.updLease q id (fun (l : Lease) =>
        { l with st := .spilled, moving := false, spill := parts })).updCluster q (fun (x : Cluster) =>
          { x with frames := wr x.frames f none, spills := min 0xFFFF (x.spills + 1) })).postOnce 1 (.leaseGrant q)).pokeArray q)) ∧
    (∀ id l f found s1, x.lease id = some l → l.st = .spilled → l.moving = true → x.freeFrame = some f →
      x.expecting ≤ x.comingFrames → s.readAll l l.spill = (found, s1) → (∀ p ∈ found, p.2 = (false, [])) →
      exec (.arrayRestore q id) s = .next (((s1.updCluster q (fun (x : Cluster) => { x with frames := wr x.frames f (some id) })).updLease
        q id (fun (l : Lease) => { l with st := .resident f, moving := false, lastUse := s.dt, spill := [] })).pokeArray q))

/-- Commands of a strand with a lease: fills of a slot or a half with the rows that the parameter, the capability and
the geometry give; `mma` and `mrun` over slabs whose slots and halves have fills of the pair; `mzero`; read-outs to
memory and to a tile; `mstat` when every command and fill has executed (R158-R166). With 16 commands queued the strand
waits (09 R214), so a command is stated for fewer. The rows of a fill from plain elements in SRAM, all in bounds: row
`i` begins the pitch times its number, or its index, past the capability's address, and its K-slab stands at the K
offset (R158). The delays until an event are the model's (log entry 4). Completes: mstat, mzero, mldb, mgath, mrd, mma,
mmaSet, mmaSub, mrun, mrunSet, mrunSub. -/
def Obligations.ArrayCommandsAreIssued : Prop :=
  (∀ (s : State) (g k : Fin 8) (a b d : Fin 64) (c p : CVal) (x y z : Strand) (i : Nat) (l : Lease),
     s.me.guard g = true → s.me.work.task = none → s.me.lease = some i → (s.cluster (clusterOf s.cur.1)).lease i = some l →
     let q := clusterOf s.cur.1
     let queued := fun (s : State) (c : Cmd) =>
       (s.updLease q l.id (fun (l : Lease) => { l with cmds := l.cmds ++ [c] })).pokeArray q
     let out := fun (acc code mode zr : Nat) (dst : CVal) (tile : Option (Fin 8)) (rowh colh : Nat) => (
       { cluster := q, lease := l.id, acc := Fin.ofNat 8 acc, fmt := code, mode := mode, pitch := rd s.me.geo 6, dst := dst
         tile := tile, win := none, rowh := rowh, colh := colh, srgen := s.me.srgen, zero := zr == 1, captured := false
         rows := [], fl := 0 } : Readout)
     (s.engineFree = .ok () → s.me.source a = some (c, x) → x.source b = some (p, y) →
       ∀ t ∈ ([(.mldb g k a b, true), (.mgath g k a b, false)] : List (Instr × Bool)),
         let f := FillPar.of p.val
         ∀ rows s1, f.ok t.2 = true → (s.setMe y).rowsToFill t.2 f c = .ok (rows, s1) →
           (t.2 = true ∨ l.awaitsOther (Fin.ofNat 2 f.target) ((l.operand false (Fin.ofNat 8 f.target)).issued + 1) f.pair = false) →
           exec t.1 s = .next (s.passedTo 4 (s1.newFill (some k) l
             { cluster := clusterOf s1.cur.1, lease := l.id, slot := t.2, target := Fin.ofNat 8 f.target, num := 0, pair := f.pair,
               planes := f.planes + 1, rn := f.rn, koff := (s1.fillGeo t.2).2.1, k := pairK f.pair, todo := rows, elems := [],
               bad := [] }))) ∧
     (l.cmds.length < 16 →
       (∀ (pr : Fin 32) (acc w : Fin 8) (h : Fin 2), acc.val < l.nacc →
         ∀ t ∈ ([(.mma g pr acc h w d, 0, 1), (.mmaSet g pr acc h w d, 1, 1), (.mmaSub g pr acc h w d, 2, 1),
             (.mrun g pr acc h w d, 0, (rd s.me.geo 7).toNat), (.mrunSet g pr acc h w d, 1, (rd s.me.geo 7).toNat),
             (.mrunSub g pr acc h w d, 2, (rd s.me.geo 7).toNat)] : List (Instr × Nat × Nat)),
           let slabs := l.slabs h w t.2.2
           (∀ sl ∈ slabs, (rd l.slots sl.slot).issued ≠ 0 ∧ (rd l.slots sl.slot).pair = pr.val ∧
             (2 ≤ sl.j ∨ (rd l.halves sl.half).issued ≠ 0 ∧ (rd l.halves sl.half).pair = pr.val)) →
           ∀ v, s.scaleOf d t.2.2 = .ok v →
             exec t.1 s = .next (s.passedTo 4 (queued { s with nextId := s.nextId + 1 } (.mma s.nextId pr.val t.2.1 acc v slabs)))) ∧
       (∀ acc : Fin 8, acc.val < l.nacc → exec (.mzero g acc) s = .next (s.passedTo 4 (queued s (.mzero acc)))) ∧
       (s.engineFree = .ok () →
         ∀ (acc : Nat) (code mode zr : Nat) (fmt : Fmt), acc < l.nacc → acc < 8 → Fmt.ofCode code = some fmt →
         (code ≤ 15 ∨ code = 20 ∨ code = 21) → mode ≤ 4 → zr ≤ 1 →
         (p.val = BitVec.ofNat 128 (acc + 2 ^ 9 * code + 2 ^ 14 * mode + 2 ^ 17 * zr) → s.me.source a = some (c, x) →
           x.source b = some (p, y) →
           let al := if code = 21 then 8 else 4
           (rd s.me.geo 6).toNat % al = 0 →
           (∀ r < 64, s.mayAccess c [.st, .eng] (c.addr + BitVec.ofNat 64 r * rd s.me.geo 6) (8 * fmt.bits) al) →
           let s1 := (s.setMe y).updMe (fun (w : Strand) =>
             { w with srgen := genAdvance w.srgen (if mode = 4 ∧ code ≠ 21 then 4096 else 0) })
           exec (.mrd g k 0 a b) s = .next (s.passedTo 4 (queued
             (s1.newOp (some k) (.readout (out acc code mode zr c none 0 0)) []).2 (.mrd s.nextId (Fin.ofNat 8 acc))))) ∧
         (∀ (t rowh colh : Nat), s.me.source b = some (p, x) → t < 8 → rowh ≤ 1 → colh ≤ 1 → code ≠ 21 → (colh = 0 ∨ fmt.bits = 32) →
           p.val = BitVec.ofNat 128 (acc + 8 + 2 ^ 4 * t + 2 ^ 7 * rowh + 2 ^ 8 * colh + 2 ^ 9 * code + 2 ^ 14 * mode + 2 ^ 17 * zr) →
           (s.tile (Fin.ofNat 8 t)).holder = some s.cur.2 →
           let s1 := (s.setMe x).updMe (fun (w : Strand) => ({ w with
             srgen := genAdvance w.srgen (if mode = 4 then 32 * (if fmt.bits = 32 then 32 else 64) else 0) } : Strand).dropWin
               (.t (Fin.ofNat 8 t)))
           exec (.mrd g 0 0 0 b) s = .next (s.passedTo 4 (queued
             (s1.newOp none (.readout (out acc code mode zr .null (some (Fin.ofNat 8 t)) rowh colh)) []).2
             (.mrd s.nextId (Fin.ofNat 8 acc))))))) ∧
     (s.me.source a = some (p, x) → ∀ sel clr, sel ≤ 5 ∨ 8 ≤ sel ∧ sel < 8 + l.nacc ∧ sel ≤ 15 → clr ≤ 1 →
       p.val = BitVec.ofNat 128 (sel + 256 * clr) → l.cmds = [] → s.fillsOf q l.id = false →
       let r : Dbl := if sel = 0 then BitVec.ofNat 64 l.mstat
         else if sel ≤ 4 then ((s.cluster q).ecc[sel - 1]?).getD 0
         else if sel = 5 then BitVec.ofNat 64 (s.cluster q).eccOvf
         else ((rd l.acc (Fin.ofNat 8 (sel - 8))).x).signExtend 64
       let s1 := if clr = 1 ∧ sel = 0 then (s.setMe x).updLease q l.id (fun (l : Lease) => { l with mstat := 0 })
         else if clr = 1 ∧ sel ≤ 5 ∧ s.me.pcc.has .sys = true then
           (s.setMe x).updCluster q (fun (w : Cluster) => { w with ecc := [], eccOvf := 0 })
         else s.setMe x
       s1.me.result d (.plain (r.setWidth 128)) = some z →
       exec (.mstat g d a) s = .next (s.passedTo 4 (s1.setMe z)))) ∧
  (∀ (s : State) (slot : Bool) (p : FillPar) (c : CVal),
     c.tag = true → c.hasAll [.ld, .eng] = true → c.has .quire = false → c.has .local = true →
     let fmt := sideOf p.pair slot
     let geo := s.fillGeo slot
     p.planes = 0 → (if fmt.dBits.isSome then geo.2.1 % 32 = 0 else geo.2.1 * fmt.bits % 32 = 0) →
     let row := fun (i : Nat) => FillRow.plain c (c.addr + BitVec.ofNat 64 (s.rowNumber p i * geo.1))
     (∀ i < p.count, ∀ q ∈ fillSegs fmt geo.2.1 (pairK p.pair) 1 false (row i), c.inBounds q.2.1.toNat q.2.2 = true) →
     s.rowsToFill slot p c = .ok ((List.range p.count).map row, s))

/-- The array at work: a fill whose lease is resident reads its rows and lands; the oldest command of the lease that has
the turn executes, one slab at a time; a read-out is captured and drained; a tile's rows are made visible, at once or by
the window of the read-out; an operation begins after what its issuer did before it (R120, R158-R165, R252, R254; 21
R390). One slab's update of an accumulator tile: a NaN or infinite operand gives the marker in its row or column, an
element that holds the marker keeps it, and products that are all zeros leave the tile as it is, with no MSTAT bit (02
R54-R56). The delays until an event are the model's (log entry 4). Completes: arrayCommandComplete, arrayFillComplete,
readoutDrain. -/
def Obligations.ArrayExecutes : Prop :=
  (∀ (s : State) (q : ClusterId) (l : Lease),
     (∀ id o f fr f1 bits s1, s.op id = some o → o.job = .fill f → s.house.frozen = false → o.handed = none → o.bad = [] →
       f.cluster = q → (s.cluster q).lease f.lease = some l → l.st = .resident fr → l.moving = false → s.fillBlocked l id f = false →
       s.awaitsIssuer o = false → s.fillRows o l.bin.isSome f 0 f.todo = (f1, bits, none, s1) →
       exec (.arrayFillComplete q id) s = .next ((((s1.updLease q l.id (fun (l : Lease) =>
         { l with mstat := Nat.lor l.mstat bits })).updLease q l.id (fun (l : Lease) =>
           { l.updOperand f1.slot f1.target (fun (p : Operand) =>
             { p with landed := f1.num, elems := f1.elems ++ List.replicate (64 - f1.elems.length) (List.replicate f1.k zeroElem),
                      bad := f1.bad }) with lastUse := s.dt })).endOp id).pokeArray q)) ∧
     ((s.cluster q).turn.bind (s.cluster q).lease = some l → s.house.frozen = false → l.eligible = true →
       let done := fun (s1 : State) =>
         ((((s1.updLease q l.id Lease.advance).updLease q l.id (fun (l : Lease) => { l with lastUse := s1.dt })).updCluster q
           (fun (x : Cluster) => { x with turnCmds := x.turnCmds + 1 })).pokeArray q)
       (∀ seq pair fn acc scale sl sls cs, l.cmds = .mma seq pair fn acc scale (sl :: sls) :: cs →
         (scale.tag = true → s.issuerBehind l.core l.wid seq = false) →
         exec (.arrayCommandComplete q) s = .next (done (s.runSlab q l pair fn acc scale sl))) ∧
       (∀ acc cs, l.cmds = .mzero acc :: cs →
         exec (.arrayCommandComplete q) s = .next (done (s.updLease q l.id (fun (l : Lease) => { l with acc := wr l.acc acc .zero })))) ∧
       (∀ id acc cs o r, l.cmds = .mrd id acc :: cs → s.buffersUsed q < 2 → s.op id = some o → o.job = .readout r →
         exec (.arrayCommandComplete q) s = .next (done (s.capture q l o r)))) ∧
     (∀ id o r, s.op id = some o → o.job = .readout r → s.house.frozen = false → r.captured = true → o.handed = none → o.bad = [] →
       s.awaitsIssuer o = false →
       (∀ t w, r.tile = some t → r.win = some w →
         exec (.readoutDrain q id) s = .next (((s.setWin o.core o.wid w (.rows r.rows r.fl)).endOp id).pokeArray q)) ∧
       (∀ t, r.tile = some t → r.win = none →
         exec (.readoutDrain q id) s = .next ((((s.updTile o.core t (fun (x : Tile) =>
           { x with rows := vofFn (fun i => (r.rows[i.val]?).getD 0) })).updWork o.core o.wid (fun (x : Strand) =>
             { x with fflags := x.fflags ||| BitVec.ofNat 32 r.fl })).endOp id).pokeArray q)) ∧
       (r.tile = none → ((s.cluster q).lease r.lease).bind (·.bin) = none → o.buf.drop 32 = [] →
         ∀ left s1, s.drain o false (o.buf.take 32) = (left, none, s1) →
           exec (.readoutDrain q id) s = .next (((((s1.updOp id (fun (p : Op) => { p with buf := left ++ [] })).updWork o.core o.wid
             (fun (x : Strand) => { x with fflags := x.fflags ||| BitVec.ofNat 32 r.fl })).endOp id).pokeArray q))))) ∧
  (∀ (t : AccTile) (neg : Bool) (a b : List (List OElem)),
     a.length = 64 → b.length = 64 →
     (∀ i j : Fin 64, ((a[i.val]?).getD []).any (·.special) = true ∨ ((b[j.val]?).getD []).any (·.special) = true →
       rd (mmaTile t neg a b).1.e (Fin.ofNat 4096 (64 * i.val + j.val)) = marker) ∧
     (∀ i j : Fin 64, rd t.e (Fin.ofNat 4096 (64 * i.val + j.val)) = marker →
       rd (mmaTile t neg a b).1.e (Fin.ofNat 4096 (64 * i.val + j.val)) = marker) ∧
     ((∀ r ∈ a, ∀ e ∈ r, e.special = false ∧ e.val = 0) → (∀ r ∈ b, ∀ e ∈ r, e.special = false) → mmaTile t neg a b = (t, 0)))

/-! ### Messages (07 R176-R179; 05 R147, R148; 13 R275-R279; 18 R332) -/

/-- The coding of payloads loses nothing: the receiver, with the dictionary that the sender had, decodes the words that
were sent, a zero of the payload's type as +0, and ends with the dictionary that the sender ends with (R275-R278). The
same code gives back a page of 4,096 bytes, stored raw or coded (21 R377). -/
def Obligations.PayloadsAndPagesDecode : Prop :=
  (∀ (t : BitVec 2) (d ws : List Word), d.length = 8 →
    let r := compress t d ws
    r.2.2.length = 8 ∧
    decompress t r.2.1 ws.length d r.1 = (ws.map (fun w => if isTypedZero t w then 0 else w), r.2.2)) ∧
  ∀ (bs : List Byte) (f : VReg), bs.length = 4096 → decodePage (codePage bs).1 (codePage bs).2 f = bs

/-- `send` and `sendi` outside speculation: N words leave the outbox, and the message goes to its core with the header's
channel, DET, ADDR and VAL, the issuing core as its source and the device time, once the strand's stores and those whose
values it has taken are performed (18 R324, R327); the strand then waits for its acceptance (R178, R179). `spkout` sends
an event to every entry of the fanout table that does not ask for a nonzero mask (R147). A message that is no event for
a bin lands on its channel: dropped and counted where the channel is not enabled or takes no code; sent on or dropped
where a channel of a window has reached its capacity; written into the inbox with a unit of its own; and refused where
no unit is free (R183, R209, R218, R219, R221; 14 R289-R291). Completes: spkout, send, sendi. -/
def Obligations.MessagesAreSentAndLand : Prop :=
  (∀ (s : State) (g m : Fin 8) (a b : Fin 64) (v : Fin 32) (h t : CVal) (x y : Strand),
     s.me.guard g = true →
     (s.me.source a = some (h, x) → x.source b = some (t, y) →
       y.loadsPending = false → (s.setMe y).postsDone = true → (s.setMe y).specOf y = none →
       ∀ p ∈ ([(.send g a b, false), (.sendi g a b, true)] : List (Instr × Bool)),
         let n := qf t.val 16 6
         let flags := (if p.2 then 2 ^ 16 else 0) + (if h.val.getLsbD 20 then 2 ^ 20 else 0)
         qf t.val 0 16 ≤ 383 ∧ n ≤ 60 ∧ (p.2 = true → n ≠ 0) ∧ qf t.val 22 2 ≠ 3 ∧ qf t.val 24 104 = 0 →
         qf h.val 22 2 = 0 ∧ h.val.getLsbD 17 = false ∧ h.val.getLsbD 18 = false ∧ h.val.getLsbD 19 = false ∧
           h.val.getLsbD 21 = false →
         (4 ≤ qf h.val 26 6 ∨ s.me.pcc.has .sys = true) → n ≤ y.outbox.length →
         exec p.1 s = .next (s.passedTo 4
           ((s.setMe { y with outbox := y.outbox.drop n, sendWait := y.sendWait + 1 }).sendFrom s.cur.1
             (Fin.ofNat 384 (qf t.val 0 16))
             (mkAep (qf h.val 26 6) 2 (0x8000 + s.cur.1.val) flags s.now (BitVec.ofNat 32 (qf h.val 64 32))
               (BitVec.ofNat 32 (qf h.val 96 32)))
             (y.outbox.take n) (BitVec.ofNat 2 (qf t.val 22 2)) (some (.strand s.me.work.wid))))) ∧
     (∀ bs s1 hd, s.me.source (Fin.ofNat 64 v.val) = some (h, x) → x.source b = some (t, y) →
       s.mayAccess t [.ld] t.addr 8 8 → (s.setMe y).load s.cur.1 s.cur.2 s.nextId (t.has .local) t.addr 8 = .ok (hd, s1) →
       let w := ofBytes (hd.map (fun (r : RByte) => r.1))
       let n := fld w 0 16
       let table := (List.range n).map (fun k => ofBytes (((bs.map (fun (r : RByte) => r.1)).drop (8 * k)).take 8))
       0 < n ∧ n ≤ 64 → t.inBounds (t.addr + 8).toNat (8 * n) = true →
       ∀ s2, s1.load s1.cur.1 s1.cur.2 s1.nextId (t.has .local) (t.addr + 8) (8 * n) = .ok (bs, s2) →
       (∀ e ∈ table, fld e 0 16 ≤ 383 ∧ 4 ≤ fld e 16 6 ∧ fld e 24 40 = 0) →
       s2.me.loadsPending = false → s2.postsDone = true → s2.specOf s2.me = none →
       let spikes : Word := (s2.me.mask m).setWidth 32
       exec (.spkout g v b m) s = .next (s.passedTo 4
         ((table.filter (fun e => !(fld e 22 1 == 1 && spikes == 0))).foldl (fun (s : State) e =>
           s.sendMine (Fin.ofNat 384 (fld e 0 16))
             (mkAep (fld e 16 6) 2 (0x8000 + s.cur.1.val) (if fld e 23 1 = 1 then 2 ^ 20 else 0) s2.now
               (BitVec.ofNat 32 (fld h.addr.toNat 0 16 * 2 ^ 16 + fld w 16 16)) spikes) [] 0) s2)))) ∧
  (∀ (s : State) (c : CoreId) (m : Msg) (ws : List Word) (p : CoreId),
     m.sender = .core p → m.waiter ≠ some .discarded → s.lateBy c m.aep = none → aepKind m.aep = 2 →
     let ch := aepChan m.aep
     let e := rd (s.core c).chan ch
     let inline := m.aep.getLsbD 16
     let parks := e.win.isSome && (e.det || m.aep.getLsbD 20)
     let counts := decide (4 ≤ ch.val) && e.cap != 0
     let n := rd (s.core c).capN ch
     let counted := if counts then s.updCore c (fun (x : Core) => { x with capN := wr x.capN ch (n + 1) }) else s
     let room := (s.core c).poolRoom ch = true ∧ (e.quota = 0 ∨ (s.core c).heldBy ch < e.quota)
     (e.code.tag = false ∨ (inline = true ∧ e.inlok = false) →
       s.deliver c m ws false false = .accepted (s.countDrop c ch inline)) ∧
     (e.code.tag = true → (inline = true → e.inlok = true) →
       (counts = true ∧ parks = false ∧ e.cap ≤ n →
         s.deliver c m ws false false = .accepted (s.overflowMsg c ch m.aep ws m.wtype)) ∧
       (counts = false ∨ parks = true ∨ n < e.cap →
         (room → s.deliver c m ws false false = .accepted (counted.enqueue c ch m.aep ws m.wtype m.seq parks)) ∧
         (¬ room → s.deliver c m ws false false = .refused s m.aep true false))))

/-- At the receiving NI: a core's message is taken in its pair's order, an earlier number is a copy and is discarded, a
later one waits in the reorder store (R178, R219, R279); an accepted message tells its sender, which waits no more
(R178); a message whose unit is free again is called back and resent, and leaves the refusal list when it is accepted
(R219); a bridge sends again what has not been acknowledged, through the next port in service, whose bridge then keeps
it (R332), and a watermark that crosses waits for its source's earlier messages (07 R180). The delays until an event are
the model's (log entry 4). Completes: messageArrival, refusalCallback, messageResend, sendAccepted, bridgeResend. -/
def Obligations.MessagesArrive : Prop :=
  ∀ (s : State) (c : CoreId) (ch : Fin 64) (m : Msg) (wid : Nat) (r : Refused),
    let s0 := s.ackBridge c m
    let here := (s0.core c).refused.any (fun (r : Refused) => r.msg.sender == m.sender && r.msg.seq == m.seq && aepKind r.msg.aep != 1)
    let early := (s0.core c).reorder.any (fun (r : Msg) => r.sender == m.sender && r.seq == m.seq)
    let e := countOf (s0.core c).seqIn
    (∀ p, s.crossedBefore c m = false → aepKind m.aep ≠ 1 → m.sender = .core p →
      s0.house.ready.getLsbD (clusterOf c).val = true →
      (tsLt m.seq (e p.val) = true → exec (.messageArrival c m) s = .next s0) ∧
      (m.seq = e p.val → here = false →
        exec (.messageArrival c m) s =
          .next (((s0.takeMsg c m).takeEarly c p 5).resumeKey c (m.sender, 0) (s0.core c).refused.length)) ∧
      (tsLt (e p.val) m.seq = true → early = false →
        (s0.core c).refused.any (fun (r : Refused) => r.msg.sender == m.sender && r.msg.seq == m.seq) = false →
        ((s0.core c).reorder.filter (fun (r : Msg) => r.sender == m.sender)).length < 4 →
        exec (.messageArrival c m) s = .next (s0.updCore c (fun (x : Core) => { x with reorder := x.reorder ++ [m] })))) ∧
    (s.crossedBefore c m = true → exec (.messageArrival c m) s = .next s) ∧
    (s.crossedBefore c m = false → aepKind m.aep = 1 →
      (s.markBehind c m = true → exec (.messageArrival c m) s = .next (s.post 100 (.messageArrival c m))) ∧
      (s.markBehind c m = false →
        exec (.messageArrival c m) s = .next (s0.markArrives c (aepSrc m.aep) (aepTs m.aep)))) ∧
    exec (.sendAccepted c wid) s = .next (s.updWork c wid (fun (x : Strand) =>
      { x with sendWait := x.sendWait - 1,
               st := if x.sendWait ≤ 1 ∧ x.st = .waiting then .running else x.st })) ∧
    ((s.core c).refused.find? (fun (r : Refused) => r.chan == ch && s.mayRecall c r) = some r →
      exec (.refusalCallback c ch) s = .next (s.postOnce 50 (.messageResend c r.msg))) ∧
    ((s.core c).refused.any (fun (r : Refused) => r.chan == ch && s.mayRecall c r) = false →
      exec (.refusalCallback c ch) s = .next s) ∧
    ((s.core c).refused.any (fun (r : Refused) => r.msg == m) = false → exec (.messageResend c m) s = .next s) ∧
    (∀ src ws s0 s1, msgKey m = src → (s.core c).closeWait.find? (fun p => closeMsg p == m) = none →
      (s.core c).refused.find? (fun (r : Refused) => r.msg == m) = some r → s.mayRecall c r = true →
      s.decodeMsg c m = (ws, s0) → s0.deliver c m ws r.judged r.nobin = .accepted s1 →
      let leaves := fun (s : State) => (s.updCore c (fun (x : Core) => { x with refused := x.refused.erase r })).acceptedMsg m
      let goesOn := fun (s : State) => s.resumeKey c src (s.core c).refused.length
      (∀ p, m.sender = .core p → exec (.messageResend c m) s =
        .next (((goesOn (leaves (s1.updCore c (fun (x : Core) =>
          { x with seqIn := setCount x.seqIn p.val (m.seq + 1) })))).takeEarly c p 5).postOnce 1 (.refusalCallback c r.chan))) ∧
      ((∀ p, m.sender ≠ .core p) →
        exec (.messageResend c m) s = .next ((goesOn (leaves s1)).postOnce 1 (.refusalCallback c r.chan)))) ∧
    (∀ p q : Fin 12, s.portOf p.val = some q →
      let l := (rd s.bridges p).sent
      let b := wr s.bridges p { rd s.bridges p with sent := [] }
      exec (.bridgeResend p) s = .next (l.foldl (fun (s : State) x => s.post 100 (.messageArrival x.1 x.2))
        { s with bridges := wr b q { rd b q with sent := (rd b q).sent ++ l } }))

/-! ### Channels and handlers (07 R183-R188; 09 R215-R217; 14 R289; 17 R316) -/

/-- `hset` installs the record's entry with the issuer's ASID; `hmask` and `chcap` change their fields, `chcap` at the
next close on a channel bound to a window; `waitch` ends the current message and takes one, its packet to c4 and its
delivery word to c5, or waits with the mask that it has read (R185, R186, R188; 17 R317). Completes: waitch, hmask,
hset, chcap. -/
def Obligations.ChannelInstructions : Prop :=
  ∀ (s : State) (g : Fin 8) (d a b : Fin 64) (n r : CVal) (x y z : Strand),
    s.me.guard g = true →
    (∀ bs s1, s.me.source a = some (n, x) → s.me.pcc.has .sys = true → x.source b = some (r, y) → s.mayAccess r [.ld, .ldcap] r.addr 64 64 →
      qf n.val 6 122 = 0 → (s.setMe y).load s.cur.1 s.cur.2 s.nextId (r.has .local) r.addr 64 = .ok (bs, s1) →
      let e := chanOf bs s1.me.asid
      (e.f 2 2 ≠ 3 ∧ e.f 85 43 = 0 ∧ ((e.cap = 0 ∧ e.det = false) ∨ e.win.isSome = true) ∧ e.f 53 9 ≤ 383) →
      (e.code.tag = true → e.code.has .exec = true) →
      exec (.hset g a b) s = .next (s.passedTo 4 (s1.installChan s1.cur.1 (Fin.ofNat 64 (qf n.val 0 6)) e))) ∧
    (let ch : Fin 64 := Fin.ofNat 64 (df n.addr 0 6)
     let e := rd s.myCore.chan ch
     s.me.source a = some (n, x) → e.asid = s.me.asid ∨ s.me.pcc.has .sys = true → x.source b = some (r, y) →
      (y.result d (.plain (if e.masked then 1 else 0)) = some z →
        exec (.hmask g d a b) s = .next (s.passedTo 4 ((((s.setMe y).updChan s.cur.1 ch (fun (e : Chan) =>
          { e with ctl := ctlSet e.ctl 4 1 (df r.addr 0 1) })).offer s.cur.1).setMe z))) ∧
      (qf r.val 48 80 = 0 → qf r.val 32 9 ≤ 383 → (qf r.val 0 32 = 0 ∨ e.win.isSome = true) →
        (e.win.isSome = true → exec (.chcap g a b) s = .next (s.passedTo 4 ((s.setMe y).updCore s.cur.1 (fun (x : Core) =>
          { x with capNew := wr x.capNew ch (some r.addr) })))) ∧
        (e.win = none → exec (.chcap g a b) s = .next (s.passedTo 4 ((s.setMe y).updChan s.cur.1 ch (fun (e : Chan) =>
          e.withCap r.addr)))))) ∧
    (x.loadsPending = false → s.me.work.task = none →
      (s.me.chwait = some n.addr ∧ x = s.me) ∨ (s.me.chwait = none ∧ s.me.source a = some (n, x) ∧
        ∃ ch : Fin 64, n.addr.getLsbD ch.val = true ∧ (rd s.myCore.chan ch).masked = true) →
      let s1 := (s.setMe x).endMsg s.cur.1 s.cur.2
      let cand := fun (ch : Fin 64) => n.addr.getLsbD ch.val && (rd s.myCore.chan ch).masked
      let found := (s1.myCore.waitPick cand s.me.chwait.isSome).bind s1.myCore.head
      (found = none →
        exec (.waitch g a) s = .next (s1.setMe { s1.me.ports s.me with st := .waiting, chwait := some n.addr })) ∧
      (∀ m, found = some m →
        let now : CurMsg := { chan := m.chan, unit := m.unit, words := m.words }
        ({ s1.me with chwait := none, msg := some now } : Strand).result 4 (.plain m.aep) = some y →
        y.result 5 (.plain (deliveryWord m)) = some z →
        exec (.waitch g a) s = .next (s.passedTo 4 ((s1.updCore s.cur.1 (fun (y : Core) =>
          { y with inbox := y.inbox.map (fun (i : InMsg) => if i.unit = m.unit then { i with taken := true } else i) })).setMe
            z))))

/-- What a spawn, a join or a steal leaves in the queues. A push takes an entry while one of the 1,024 is free and none
waits, and waits in arrival order otherwise; then the first of the line takes it, and a strand that waited in `spawn`
goes on (R293, R294); a join's count falls by one, at zero its parent is pushed, and one that stands at zero or has been
there sets JZERO (R199, R296; that the count still falls in the last case is the model's choice, log entry 69); the
dormant slot of a core takes the best record that it may take of its cluster's queue, or its core starts a steal round,
which asks the die's clusters in order: the first record offered moves with its entry and starts (R215, R293, R295). The
delays are the model's (log entry 4). An event chooses work for a dormant slot: the runnable channel of highest
effective priority whose handler then starts on its oldest message, unless HMAX handlers run, a budget admits others
alone, or a saved handler of the channel goes on first; else a continuation is looked for; only the ages are kept up
where the core is closed or has no dormant slot (R215-R217; 19 R349). A handler starts with its packet in c4, its
delivery word in c5 and the channel's code (R187). Completes: joinDecrement, handlerChoice, continuationTake,
stealRound, stealRetryTimeout, queuePushWait. -/
def Obligations.FindingWork : Prop :=
  (∀ (s : State) (q : ClusterId) (c : CoreId) (k : SlotId) (e : TqEntry) (es : List TqEntry),
     ((s.cluster q).tqWait = [] → exec (.queuePushWait q) s = .next s) ∧
     ((s.cluster q).tqWait = e :: es → 1024 ≤ (s.cluster q).tq.length → exec (.queuePushWait q) s = .next s) ∧
     ((s.cluster q).tqWait = e :: es → (s.cluster q).tq.length < 1024 →
       let s1 := (s.updCluster q (fun (x : Cluster) => { x with tq := x.tq ++ [{ e with waiter := none }], tqWait := es })).steals q
       let again := fun (s : State) => if es = [] then s else s.postOnce 1 (.queuePushWait q)
       (e.waiter = none → exec (.queuePushWait q) s = .next (again s1)) ∧
       (∀ wid, e.waiter = some wid → e.crec.spec = false →
         exec (.queuePushWait q) s = .next (again (s1.answerAmo e.spawner wid (fun (y : Strand) =>
           if y.ticket = some e.id then { y with answer := some 0 } else y))))) ∧
     (∀ asid entry jo bs s1 t s3, s.homeRead { core := c, asid := asid, eng := false } (jo.has .local) jo.addr 32 .write = .ok (bs, s1) →
       let w : Who := { core := c, asid := asid, eng := false }
       s1.translateAll w (jo.has .local) .write [(jo.addr, 32)] = .ok ([t], s3) →
       let num := fun o n => ofBytes ((bs.drop o).take n |>.map (fun (b : RByte) => b.1))
       let count := num 0 4
       let jzero := toBytes 4 (Nat.lor (num 4 4) (2 ^ 31))
       let put := fun (s : State) (n : Nat) (l : List Byte) => s.homeWrite w (jo.has .local) [(jo.addr + BitVec.ofNat 64 n, l)] []
       let mark := fun (s : State) => { s with joined := setIn s.joined t.1.phys }
       (∀ s2, count = 0 → put s1 4 jzero = .ok s2 →
         exec (.joinDecrement c asid entry jo) s = .next (State.joinedEnds { s2 with joined := s1.joined } entry)) ∧
       (∀ s2, 1 < count → s1.joined.contains t.1.phys = false → put s1 0 (toBytes 4 (count - 1)) = .ok s2 →
         exec (.joinDecrement c asid entry jo) s = .next (s2.joinedEnds entry)) ∧
       (∀ s2, 0 < count → s1.joined.contains t.1.phys = true → put s1 0 (toBytes 4 (count - 1) ++ jzero) = .ok s2 →
         exec (.joinDecrement c asid entry jo) s = .next ((mark s2).joinedEnds entry)) ∧
       (∀ r s2 s4, count = 1 → s1.joined.contains t.1.phys = false →
         fld (num 4 4) 5 1 = 1 ∨ fld (num 4 4) 0 5 < 24 →
         s1.parentRec w { val := BitVec.ofNat 128 (num 16 16), tag := ((bs[16]?).map (fun (b : RByte) => b.2)).getD false } = (some r, s4) →
         put s4 0 (toBytes 4 0) = .ok s2 →
         exec (.joinDecrement c asid entry jo) s = .next (((mark s2).push
           (if fld (num 4 4) 5 1 = 1 then clusterOf c else Fin.ofNat 24 (fld (num 4 4) 0 5))
           (entryOf r asid ((entry.bind s4.findEntry).bind (fun e => e.2.grid)) c)).joinedEnds entry))) ∧
     (s.closed c = false → (s.core c).dormant = some k → clusterOf c = q →
       (bestEntry ((s.cluster q).tq.filter (s.takable c)) = some e →
         exec (.continuationTake c) s = .next ((s.startCont c k q e).offer c)) ∧
       (bestEntry ((s.cluster q).tq.filter (s.takable c)) = none → (s.core c).stealing = false →
         exec (.continuationTake c) s =
           .next ((s.updCore c (fun (x : Core) => { x with stealing := true })).post 20 (.stealRound c))) ∧
       ((∀ p ∈ stealOrder q, ∀ f ∈ (s.cluster p).tq, s.stealable c f = false) →
         exec (.stealRound c) s = .next
           ((s.updCore c (fun (x : Core) => { x with stealing := true, stealAt := s.dt + 539 })).post 539 (.stealRetryTimeout c))) ∧
       (∀ p before after, stealOrder q = before ++ p :: after →
         (∀ b ∈ before, ∀ f ∈ (s.cluster b).tq, s.stealable c f = false) →
         bestEntry ((s.cluster p).tq.filter (s.stealable c)) = some e → (s.cluster q).tq.length < 1024 → (s.cluster q).tqWait = [] →
         let idle := s.updCore c (fun (x : Core) => { x with stealing := false })
         exec (.stealRound c) s = .next ((((idle.dropEntry p e.id).updCluster q (fun (x : Cluster) =>
           { x with tq := x.tq ++ [e] })).startCont c k q e).offer c))) ∧
     (s.dt < (s.core c).stealAt → exec (.stealRetryTimeout c) s = .next s) ∧
     ((s.core c).stealAt ≤ s.dt →
       exec (.stealRetryTimeout c) s = .next ((s.updCore c (fun (x : Core) => { x with stealing := false })).offer c))) ∧
  (∀ (s : State) (c : CoreId) (k : SlotId) (ch : Fin 64) (m : InMsg),
     let s1 := s.ageChans c
     let x := s1.core c
     let used := ((List.finRange 16).filter (fun k => match (x.strand k).work.kind with
         | .handler _ | .inlineHandler _ => decide ((x.strand k).st ≠ .dormant)
         | _ => false)).length
     (s1.closed c = true → exec (.handlerChoice c) s = .next s1) ∧
     (s1.closed c = false → x.dormant = none → exec (.handlerChoice c) s = .next s1) ∧
     (s1.closed c = false → x.dormant = some k →
       (x.hmax ≤ used ∨ s1.pick c (s1.mayStart c) = none →
         exec (.handlerChoice c) s = .next (s1.postOnce 1 (.continuationTake c))) ∧
       (used < x.hmax → s1.pick c (s1.mayStart c) = some ch → x.head ch = some m →
         exec (.handlerChoice c) s = .next ((s1.startHandler c k ch m).offer c))) ∧
     (m.aep.getLsbD 16 = false →
       let y := (s.startHandler c k ch m).strand c k
       y.st = .running ∧ y.pcc = (rd (s.core c).chan ch).code ∧ y.asid = (rd (s.core c).chan ch).asid ∧
       y.creg 4 = .plain m.aep ∧ y.creg 5 = .plain (deliveryWord m) ∧ y.creg 3 = (rd (s.core c).chan ch).data ∧
       y.work.kind = .handler ch ∧ y.wins = [] ∧ y.tcause = 0 ∧ (∀ i : Fin 64, 5 < i.val → y.creg i = .null)))

/-! ### Watermarks and windows (07 R180-R182; 08 R211, R212; 09 R225, R227-R232; 19 R354-R357) -/

/-- `wmark`, once the strand's earlier loads and stores are performed (18 R326), publishes min(c[a][31:0], now), or now
with a = 0; a watermark that is not after the core's last changes nothing; an earlier atomic, a DET spawn that stands in
line for its queue, and what a commit has issued and not yet performed or sent hold it back; it is recorded at its NI
unless a message of its source is still held there, and at the window unit, to which one of the other die crosses while
a port is in service, and which tests every armed window of its source (R180, R227, R228; 19 R356). The delays of 20 and
100 ns are the model's (log entry 4). A window: `wincfg` installs a record, at once on a disabled window, else at its
next close (R181); its target passed, it is armed; armed, it closes with cause 0 once every bound source's watermark has
reached the target, with cause 1 at its timeout (R228); `winclose` closes it with cause 2, an armed one whose own close
is due with that cause, and does nothing on a disabled or closing one (R182). A close names the sources without a
watermark or with one before the target: that a source without one lags is the model's choice (log entry 41). Completes:
watermarkPublish, watermarkAtNi, watermarkAtWindowUnit, windowTargetPass, windowTimeout, wmark, wincfg, winclose. -/
def Obligations.WatermarksAndWindows : Prop :=
  (∀ (s : State) (g : Fin 8) (a : Fin 64) (v : CVal) (x : Strand) (c : CoreId) (src : BitVec 16) (w : Word),
     (s.me.guard g = true → s.me.work.task = none → s.me.source a = some (v, x) →
       x.loadsPending = false → (s.setMe x).postsDone = true →
       let low : Word := v.addr.setWidth 32
       exec (.wmark g a) s = .next (s.passedTo 4 ((s.setMe x).post 20 (.watermarkPublish s.cur.1
         (if a ≠ 0 ∧ tsLt low s.now = true then low else s.now))))) ∧
     (let q := s.core c
      let waits := (∃ p ∈ s.pendingPosts c, p.isAmo = true) ∨
        (∃ k, ∃ e ∈ (s.cluster k).tqWait, e.spawner = c ∧ e.crec.flags.getLsbD 9 = true) ∨
        (∃ o ∈ s.ops, o.core = c ∧ o.deferred = false ∧ ((∃ p, o.job = .amo p) ∨ ∃ m d, o.job = .msg m d))
      (waits → exec (.watermarkPublish c w) s = .next (s.post 20 (.watermarkPublish c w))) ∧
      (¬ waits → (∀ l, q.wmark = some l → tsLt l w = true) →
        exec (.watermarkPublish c w) s =
          .next ((s.updCore c (fun (x : Core) => { x with wmark := some w })).routeMark (.core c) (coreSrc c) w)) ∧
      (∀ l, ¬ waits → q.wmark = some l → tsLt l w = false → exec (.watermarkPublish c w) s = .next s)) ∧
     ((∀ r ∈ (s.core c).refused, aepSrc r.msg.aep ≠ src ∧ ∀ p, r.msg.sender = .core p → coreSrc p ≠ src) →
       (∀ m ∈ (s.core c).reorder, ∀ p, m.sender = .core p → coreSrc p ≠ src) →
       exec (.watermarkAtNi c src w) s = .next (s.markAt c src w)) ∧
     (0x8000 + 192 ≤ src.toNat → s.linked = false →
       exec (.watermarkAtWindowUnit src w) s = .next (s.post 100 (.watermarkAtWindowUnit src w))) ∧
     (src.toNat < 0x8000 + 192 ∨ s.linked = true → exec (.watermarkAtWindowUnit src w) s =
       .next ((List.finRange 32).foldl (fun (s : State) k => if (rd s.wins k).r.srcs.contains src then s.testWindow k else s)
         { s with wmarks := raiseMark s.wmarks src w }))) ∧
  (∀ (s : State) (g : Fin 8) (a b : Fin 64) (n r : CVal) (x y : Strand) (k : Fin 32),
     (∀ bs s1, s.me.guard g = true → s.me.source a = some (n, x) → x.source b = some (r, y) → s.me.pcc.has .sys = true →
       qf n.val 5 123 = 0 → s.mayAccess r [.ld] r.addr 256 64 →
       (s.setMe y).load s.cur.1 s.cur.2 s.nextId (r.has .local) r.addr 256 = .ok (bs, s1) →
       let bytes := bs.map (fun (b : RByte) => b.1)
       winRecOk bytes = true → s1.house.ready.getLsbD 77 = true →
       exec (.wincfg g a b) s = .next (s.passedTo 4 (s1.installWindow (Fin.ofNat 32 (qf n.val 0 5)) (winRecOf bytes)))) ∧
     (s.me.guard g = true → s.me.work.task = none → s.me.source a = some (n, x) → Fin.ofNat 32 (qf n.val 0 5) = k →
       let w := rd s.wins k
       s.me.pcc.has .sys = true ∨ w.r.cores.getLsbD s.cur.1.val = true →
       (w.st = .disabled ∨ w.st = .closing → exec (.winclose g a) s = .next (s.passed 4 x)) ∧
       (w.st = .opened ∨ (w.st = .armed ∧ w.r.srcs.all (fun src => (s.markOf src).any (fun m => tsLe w.tgt m)) = false ∧
           s.dt < max w.passedAt w.openedAt + 1000 * w.r.timeout.toNat) →
         exec (.winclose g a) s = .next (s.passedTo 4 ((s.setMe x).closeWindow k 2))) ∧
       (w.st = .armed → w.r.srcs.all (fun src => (s.markOf src).any (fun m => tsLe w.tgt m)) = true →
         exec (.winclose g a) s = .next (s.passedTo 4 ((s.setMe x).closeWindow k 0))) ∧
       (w.st = .armed → w.r.srcs.all (fun src => (s.markOf src).any (fun m => tsLe w.tgt m)) = false →
         max w.passedAt w.openedAt + 1000 * w.r.timeout.toNat ≤ s.dt →
         exec (.winclose g a) s = .next (s.passedTo 4 ((s.setMe x).closeWindow k 1)))) ∧
     (let w := rd s.wins k
      let all := w.r.srcs.all (fun src => (s.markOf src).any (fun m => tsLe w.tgt m))
      let due := decide (max w.passedAt w.openedAt + 1000 * w.r.timeout.toNat ≤ s.dt)
      (w.st ≠ .armed → exec (.windowTimeout k) s = .next s) ∧
      (w.st = .armed → all = true → exec (.windowTimeout k) s = .next (s.closeWindow k 0)) ∧
      (w.st = .armed → all = false → due = true → exec (.windowTimeout k) s = .next (s.closeWindow k 1)) ∧
      (w.st = .armed → all = false → due = false → exec (.windowTimeout k) s = .next s) ∧
      (w.st ≠ .opened → exec (.windowTargetPass k) s = .next s) ∧
      (w.st = .opened → tsLe w.tgt s.now = false →
        exec (.windowTargetPass k) s = .next (s.post (s.untilTs w.tgt) (.windowTargetPass k))) ∧
      (w.st = .opened → tsLe w.tgt s.now = true →
        let s1 := s.updWin k (fun (v : Win) => { v with st := .armed, passedAt := (s.dt / 1000 - (s.now - w.tgt).toNat) * 1000 })
        exec (.windowTargetPass k) s = .next
          ((s1.post (s1.deadline (rd s1.wins k) - s1.dt) (.windowTimeout k)).testWindow k)) ∧
      (∀ cause, (rd (s.closeWindow k cause).wins k).st = .closing ∧ (rd (s.closeWindow k cause).wins k).cause = cause ∧
        (rd (s.closeWindow k cause).wins k).closeT = s.now ∧
        (cause ≠ 0 → (rd (s.closeWindow k cause).wins k).lag =
          w.r.srcs.filter (fun src => (s.markOf src).all (fun m => tsLt m w.tgt))))))

/-- A close at the homes and queues, and its packets: every parked atomic of the window is applied at its home in the
order of its key, every parked record is released in the order of its key, and when none remains the close packets leave
for every core of CORES and the next target is set (R228, R229; 08 R212; 19 R355, R357). A close packet is delivered at
a core in its window's order, once it has crossed to the core's die and every bound source that is not lagging has
reached the target there; until then it waits (R230). Without a unit for it, it is refused, and comes again when it is
called back (R218, R219). Its packet's ADDR carries the window, the cause and the count of lagging sources, its payload
their numbers, two to a word (08 R212); that its sequence number is 0 is the model's choice (log entry 69). The delays
until an event are the model's (log entry 4). Completes: detApplyAtHome, detReleaseAtQueue, closePacketsSend,
closePacketDelivery, wstReadClear. -/
def Obligations.ClosesApplyAndDeliver : Prop :=
  (∀ (s : State) (h : Fin 400) (q : ClusterId) (k : Fin 32),
     (∃ items : List ParkedAmo,
       items.Perm (s.parked.filter (fun (p : ParkedAmo) => p.home == h && p.win == k)) ∧
       (∀ base : Word, (∀ p ∈ items, (p.key - base).toNat < 2 ^ 31) →
         items.Pairwise (fun p r => p.core.val < r.core.val ∨ (p.core = r.core ∧ (p.key - base).toNat ≤ (r.key - base).toNat))) ∧
       exec (.detApplyAtHome h k) s = .next (((items.foldl State.applyParked
         { s with parked := s.parked.filter (fun p => !(p.home == h && p.win == k)) }).updWin k (fun (w : Win) =>
           { w with waitHomes := w.waitHomes.filter (· != h) })).closeGoesOn k)) ∧
     (∃ items : List TqEntry,
       items.Perm ((s.cluster q).tq.filter (fun (e : TqEntry) => e.parkedBy == some k)) ∧
       items.Pairwise (fun a b => a.spawner.val < b.spawner.val ∨
         (a.spawner = b.spawner ∧ df a.rec0.stamp 48 16 ≤ df b.rec0.stamp 48 16)) ∧
       exec (.detReleaseAtQueue q k) s = .next
         ((((items.foldl (fun (s : State) e => ({ s with nextId := s.nextId + 1 } : State).updEntry q e.id (fun (x : TqEntry) =>
             { x with parkedBy := none, order := s.nextId })) s).updWin k (fun (w : Win) =>
               { w with waitQueues := w.waitQueues.filter (· != q) })).offerCluster q).closeGoesOn k)) ∧
     (let w := rd s.wins k
      (w.st ≠ .closing ∨ w.waitHomes ≠ [] ∨ w.waitQueues ≠ [] → exec (.closePacketsSend k) s = .next s) ∧
      (w.st = .closing → w.waitHomes = [] → w.waitQueues = [] → w.pend = none → w.r.pace = false →
        ∃ t, exec (.closePacketsSend k) s = .next t ∧
          (rd t.wins k).tgt = w.tgt + w.r.period ∧ (rd t.wins k).st = .opened ∧ (rd t.wins k).closes = (w.closes + 1) % 2 ^ 16 ∧
          (rd t.wins k).k = w.k + 1 ∧
          (∀ c : CoreId, (t.core c).closeWait = (s.core c).closeWait ++
            (if w.r.cores.getLsbD c.val then
              [{ win := k, target := w.tgt, cause := w.cause, time := w.closeT, lag := w.lag, srcs := w.r.srcs }] else [])))) ∧
     exec (.wstReadClear k) s = .next (s.updWin k (fun (w : Win) => { w with latec := 0, strc := 0, strt := 0 }))) ∧
  (∀ (s : State) (c : CoreId) (p : ClosePkt),
     let x := s.core c
     let first := x.closeWait.find? (fun (y : ClosePkt) => y.win == p.win)
     let marks := p.srcs.all (fun src =>
       p.lag.contains src || (x.wmAt.find? (fun q => q.1 == src)).any (fun q => tsLe p.target q.2))
     let enabled := (rd x.chan 3).code.tag
     let room := x.poolRoom 3 && x.quotaRoom 3
     let s1 := (s.updCore c (fun (y : Core) => { y with closeWait := y.closeWait.erase p })).placeClose c p
     let pkt := mkAep 3 3 (0x10E0 + p.win.val) 0 p.target
       (BitVec.ofNat 32 (p.win.val + 2 ^ 5 * p.cause.toNat + 2 ^ 7 * p.lag.length)) p.time
     let m : Msg := { aep := pkt, stream := pairWords p.lag, count := (pairWords p.lag).length, wtype := 0, seq := 0,
                      sender := .window p.win, waiter := none }
     let again := fun (s : State) => (s.core c).closeWait.foldl (fun (s : State) y => s.postOnce 1 (.closePacketDelivery c y)) s
     let listed := x.refused.any (fun (r : Refused) => r.msg == m)
     (first ≠ some p ∨ marks = false ∨ s.house.ready.getLsbD (clusterOf c).val = false ∨ (dieOf c ≠ 0 ∧ s.linked = false) ∨
       listed = true → exec (.closePacketDelivery c p) s = .next s) ∧
     (first = some p → marks = true → s.house.ready.getLsbD (clusterOf c).val = true → dieOf c = 0 ∨ s.linked = true →
       listed = false →
       (enabled = true → room = false → exec (.closePacketDelivery c p) s = .next (s.refuse c m pkt true true true)) ∧
       (enabled = true → room = true →
         exec (.closePacketDelivery c p) s = .next (again (s1.enqueue c 3 pkt (pairWords p.lag) 0 0 false))) ∧
       (enabled = false → exec (.closePacketDelivery c p) s = .next (again (s1.countDrop c 3 false)))))

/-! ### The Deckle (07 R189-R192; 09 R233-R236) -/

/-- A bin's sheet closes: by `dkflush` on an enabled bin that has an open sheet or a window, by its timeout when the
sheet has stood for T half microseconds and no close of its window is delivered at its place at that moment; while the
device is frozen it stays open, and closes when the engines are released (21 R390); `dkstat` reads its counts, and
`dkcfg` installs a checked record, after flushing the old sheet and once no sheet owes array work (R189, R190, R192,
R233, R234). A closed sheet with no row asks for no lease; one with rows does; its owner is told at the end (R190, R191,
R235). The delays until an event are the model's (log entry 4). Completes: sheetTimeout, sheetDone, dkcfg, dkflush,
dkstat. -/
def Obligations.BinsOpenAndClose : Prop :=
  ∀ (s : State) (g : Fin 8) (d a b : Fin 64) (n r : CVal) (x y z : Strand) (q : ClusterId) (i : Fin 16),
    (∀ bs s1, s.me.guard g = true → s.me.source a = some (n, x) → x.source b = some (r, y) →
      s.mayAccess r [.ld, .ldcap] r.addr 128 64 →
      (s.setMe y).load s.cur.1 s.cur.2 s.nextId (r.has .local) r.addr 128 = .ok (bs, s1) →
      Fin.ofNat 16 (qf n.val 0 4) = i →
      let new := binOf bs s1.me.asid
      checkBin q new (if s1.me.pcc.has .sys then none else some s1.cur.1) = .ok () →
      let s2 := if (s1.bin q i).openAt.isSome then s1.closeSheet q i 3 else s1
      clusterOf s.cur.1 = q → (s2.bin q i).due = none → (∀ sh ∈ (s2.bin q i).sealed, 3 ≤ sh.stage) →
      exec (.dkcfg g a b) s = .next (s.passedTo 4 (s2.installBin q i new))) ∧
    (s.me.guard g = true → s.me.source a = some (n, x) → clusterOf s.cur.1 = q → Fin.ofNat 16 (qf n.val 0 4) = i →
      let t := s.bin q i
      t.owner = s.cur.1 ∨ s.me.pcc.has .sys = true →
      (t.en = true → (t.openAt.isSome = true ∨ t.window.isSome = true) →
        exec (.dkflush g a) s = .next (s.passedTo 4 ((s.setMe x).closeSheet q i 3))) ∧
      (t.en = false ∨ (t.openAt = none ∧ t.window = none) → exec (.dkflush g a) s = .next (s.passed 4 x)) ∧
      (x.result d (.plain (BitVec.ofNat 128 (t.seq.toNat + 2 ^ 32 * t.drops + 2 ^ 48 * t.rows +
          (if t.sealed.any (fun (sh : Sheet) => decide (sh.stage < 3)) then 2 ^ 55 else 0) + (if t.en then 2 ^ 56 else 0)))) =
          some z →
        exec (.dkstat g d a) s = .next (s.passed 4 z))) ∧
    (s.house.frozen = false →
      let t := s.bin q i
      let closing := match t.window with
        | some k => (s.core t.owner).closeWait.any (fun (p : ClosePkt) => p.win == k && s.closeReady t.owner p &&
            (!(rd (s.core t.owner).chan 3).code.tag || (s.core t.owner).poolRoom 3 && (s.core t.owner).quotaRoom 3))
        | none => false
      (∀ reason, t.due = some reason → exec (.sheetTimeout q i) s = .next (s.closeSheet q i reason)) ∧
      (t.due = none → t.openAt = none → exec (.sheetTimeout q i) s = .next s) ∧
      (∀ u, t.due = none → t.openAt = some u →
        (s.dt < u + 500 * t.f 97 11 → exec (.sheetTimeout q i) s = .next s) ∧
        (u + 500 * t.f 97 11 ≤ s.dt → closing = false → exec (.sheetTimeout q i) s = .next (s.closeSheet q i 2)) ∧
        (u + 500 * t.f 97 11 ≤ s.dt → closing = true →
          exec (.sheetTimeout q i) s = .next (s.post 10 (.sheetTimeout q i)))) ∧
      (t.sealed = [] → exec (.sheetDone q i) s = .next s) ∧
      (∀ sh l, t.sealed = sh :: l →
        (sh.stage = 0 → sh.rows = 0 → exec (.sheetDone q i) s = .next ((s.stageSheet q i 3).sendSheetDone q i t sh)) ∧
        (sh.stage = 0 → sh.rows ≠ 0 →
          let p := ({ s with nextId := s.nextId + 1 } : State).newLease q (Fin.ofNat 32 (16 + i.val)) t.owner s.nextId (some i)
            t.asid (t.f 125 3 + 1) false none t.save
          exec (.sheetDone q i) s =
            .next ((p.2.updBin q i (fun (y : Bin) => { y with lease := some p.1 })).stageSheet q i 1)) ∧
        (sh.stage = 3 → exec (.sheetDone q i) s = .next s))) ∧
    (∀ reason, s.house.frozen = false → ((s.closeSheet q i reason).bin q i).sealed =
        (s.bin q i).sealed ++ [{ seq := (s.bin q i).seq, rows := (s.bin q i).rows, reason := reason, stage := 0,
                                 win := (s.bin q i).window }] ∧
      ((s.closeSheet q i reason).bin q i).seq = (s.bin q i).seq + 1 ∧ ((s.closeSheet q i reason).bin q i).openAt = none) ∧
    (∀ reason, s.house.frozen = true →
      ((s.closeSheet q i reason).bin q i) = { s.bin q i with due := some ((s.bin q i).due.getD reason) })

/-! ### Exact accumulators (02 R58; 07 R202) -/

/-- `xacq` takes a free accumulator of the issuer's cluster or of a memory home and gives its handle, or FAIL in bit 63
with none free; `xadd` posts a value, `xrd` reads the sum rounded to F32, `xrel` frees it; both after the strand's own
`xadd`s (R202, R58; 04 R106); one of the other die is reached while a port is in service (18 R332). That the lowest free
one is taken and the generation counts up is the model's choice (log entry 39). Completes: xacq, xadd, xrd, xrel. -/
def Obligations.ExactAccumulators : Prop :=
  ∀ (s : State) (g : Fin 8) (d a b : Fin 64) (v w : CVal) (x y z : Strand),
    s.me.guard g = true → s.me.work.task = none → s.me.source a = some (v, x) →
    (x.source b = some (w, y) → (s.setMe y).outstanding s.cur.1 s.cur.2 < 16 →
      exec (.xadd g a b) s = .next (s.passedTo 4 (s.posting y .null 0 (.xadd v.val w.val)))) ∧
    (let fmt := qf v.val 5 2
     let h : HomeId := Fin.ofNat 16 (qf v.val 1 4)
     let p : XPlace := if v.val.getLsbD 0 then .home h else .cluster (clusterOf s.cur.1)
     (∀ n, p = .home n → n.val / 8 = dieOf s.cur.1 ∨ s.linked = true) → qf v.val 7 121 = 0 → fmt ≠ 3 → (v.val.getLsbD 0 = true → s.house.ready.getLsbD (24 + h.val) = true) →
     ((∀ i, (rd (s.xaccs p) i).used = true) → x.result d (.plain (1 <<< 63)) = some z →
       exec (.xacq g d a) s = .next (s.passed 4 z)) ∧
     (∀ i, (rd (s.xaccs p) i).used = false → (∀ j, j.val < i.val → (rd (s.xaccs p) j).used = true) →
       let gen := (rd (s.xaccs p) i).gen + 1
       x.result d (.plain (BitVec.ofNat 128 (i.val + (if v.val.getLsbD 0 then 2 ^ 6 + 2 ^ 7 * h.val else 2 ^ 11 * (clusterOf s.cur.1).val) +
         2 ^ 16 * fmt + 2 ^ 32 * gen.toNat))) = some z →
       exec (.xacq g d a) s = .next (s.passedTo 4 (((s.setMe x).updXacc p i (fun _ => { XAcc.free with
         used := true, fmt := BitVec.ofNat 2 fmt, asid := s.me.asid, grid := s.me.work.grid, gen := gen })).setMe z)))) ∧
    (∀ p i, s.addsPending = false → (∀ n, p = .home n → n.val / 8 = dieOf s.cur.1 ∨ s.linked = true) →
      (s.setMe x).xFind (s.whoOf s.cur.1 s.cur.2) .read v.val = .ok (p, i) →
      let r := (rd (s.xaccs p) i).read
      (x.flagged r.2).result d (.plain ((BitVec.ofNat 64 r.1).setWidth 128)) = some z →
      exec (.xrd g d a) s = .next (s.passed 4 z)) ∧
    (∀ p i, s.addsPending = false → (∀ n, p = .home n → n.val / 8 = dieOf s.cur.1 ∨ s.linked = true) →
      (s.setMe x).xFind (s.whoOf s.cur.1 s.cur.2) .write v.val = .ok (p, i) →
      exec (.xrel g a) s = .next (s.passedTo 4 ((s.setMe x).updXacc p i (fun (a : XAcc) =>
        { a with used := false, grid := none }))))

/-! ### Continuations, joins, task queues (03 R97, R98; 07 R187, R198, R199; 14 R293-R296) -/

/-- Every end of work waits for nothing when the strand has no window, no token counting, no posted access on its way
(nor one of another strand whose value it has loaded, R324), no lease and no tile owed a write (R98, R199). `spawn`
pushes the record with the issuer's ASID, its grid and the core's spawn number, into the cluster that c[b] names or,
with b = 0, the issuer's (R199); that the queue of a cluster out of service is taken over by another's is R6, by which
is the model's choice (log entry 69); a DET record without a window traps `ill`. `hend` ends a handler; `done` a
continuation and its entry; `done.j` has its join decremented at its home; `suspend` and `yield` put the successor's
record into the running one's entry, after checks made once, before any wait (R97, R98, R199, R293); a `suspend` that
names a place writes the record there and gives up the entry, by the checks of R101 and R102 (log entry 46). What the
record takes of c4 and c5 is log entry 70. Completes: suspend, hend, spawn, done, doneJ, yield. -/
def Obligations.WorkIsSpawnedAndEnded : Prop :=
  (∀ s : State, s.me.wins = [] → s.me.kept = [] → (∀ k, (rd s.me.tok k).out = 0) → s.postsDone = true → s.me.lease = none →
     (∀ o ∈ s.ops, o.owesTile s.cur.1 s.me.work.wid = false) → s.settleEnd = .ok s) ∧
  (∀ (s : State) (g : Fin 8) (a b : Fin 64) (r k : CVal) (x y : Strand),
     s.me.guard g = true →
     (∀ bs s1, s.me.ticket = none → s.me.source a = some (r, x) → x.source b = some (k, y) → s.mayAccess r [.ld, .ldcap] r.addr 64 64 →
       (s.setMe y).load s.cur.1 s.cur.2 s.nextId (r.has .local) r.addr 64 = .ok (bs, s1) →
       let c := recOf bs
       c.code.tag = true → c.code.has .exec = true →
       df c.flags 10 6 = 0 ∧ df c.flags 35 29 = 0 ∧ c.role ≠ 3 ∧ c.spec = false → (b = 0 ∨ df k.addr 0 5 < 24) →
       let q := s1.queueFor (if b = 0 then clusterOf s1.cur.1 else Fin.ofNat 24 (df k.addr 0 5))
       let win := (s1.me.work.grid.bind s1.grid).bind Grid.detWindow
       (c.det = true → win.isSome = false → exec (.spawn g a b) s = .next (s.takeTrap s.cur.1 s.cur.2 .ill none)) ∧
       ((c.det = true → win.isSome = true) → s1.me.loadsPending = false → s1.postsDone = true →
       (s1.cluster q).tq.length < 1024 → (s1.cluster q).tqWait = [] →
       let n := s1.myCore.spawnCtr
       let s2 := s1.updCore s1.cur.1 (fun (q : Core) => { q with spawnCtr := q.spawnCtr + 1 })
       exec (.spawn g a b) s = .next (s.passedTo 4 (s2.push q
         { entryOf (c.withSeq n) s1.me.asid s1.me.work.grid s1.cur.1 with parkedBy := if c.det then win else none })))) ∧
     (∀ s1, s.me.await = none → s.settleEnd = .ok s1 →
       let gone := s1.release s1.cur.1 s1.cur.2
       (s.me.work.kind ≠ .continuation → exec (.hend g) s = .next gone) ∧
       (s.me.work.kind = .continuation → s.me.work.task = none →
         exec (.done g) s = .next (gone.entryEnds s1.me.work) ∧
         (∀ s2, (s.me.pcc.setAddr (s.me.pcc.addr + 4)).tag = true →
           (s.me.pcc.setAddr (s.me.pcc.addr + 4)).has .exec = true → (s.me.pcc.addr + 4).toNat % 4 = 0 →
           (s.me.pcc.setAddr (s.me.pcc.addr + 4)).inBounds (s.me.pcc.addr + 4).toNat 4 = true →
           (s.me.pcc.setAddr (s.me.pcc.addr + 4)).addr = s.me.pcc.addr + 4 →
           s1.succeed (s1.successor (s.me.pcc.setAddr (s.me.pcc.addr + 4))) = .ok s2 →
           exec (.yield g) s = .next (s2.release s1.cur.1 s1.cur.2)))) ∧
     (s.me.work.kind = .continuation → s.me.await = none → s.me.ending = none → s.me.source a = some (r, x) →
       let held := s.setMe { x with ending := some (r, .null) }
       (∀ s1 ts s2, s.me.work.task = none → s.mayAccess r [.ld, .st] r.addr 32 32 → held.settleEnd = .ok s1 →
         s1.parked.any (fun p => p.wid == s1.me.work.wid) = false →
         s1.translateAll (s1.whoOf s1.cur.1 s1.cur.2) (r.has .local) .write [(r.addr, 32)] = .ok (ts, s2) →
         exec (.doneJ g a) s = .next ((s2.release s1.cur.1 s1.cur.2).post 100
           (.joinDecrement s1.cur.1 s1.me.asid s1.me.work.entry r))) ∧
       (∀ s1 s2, b = 0 → r.tag = true → r.has .exec = true → r.addr.toNat % 4 = 0 → r.inBounds r.addr.toNat 4 = true →
         held.settleEnd = .ok s1 → s1.succeed (s1.successor r) = .ok s2 →
         exec (.suspend g a b) s = .next (s2.release s1.cur.1 s1.cur.2)) ∧
       (∀ s1 s2, b ≠ 0 → s.me.work.task = none → r.tag = true → r.has .exec = true → r.addr.toNat % 4 = 0 →
         r.inBounds r.addr.toNat 4 = true → x.source b = some (k, y) → s.mayAccess k [.st, .stcap] k.addr 64 64 →
         (s.setMe { y with ending := some (r, k) }).settleEnd = .ok s1 →
         let c := s1.successor r
         s1.homeWrite (s1.whoOf s1.cur.1 s1.cur.2) (k.has .local) [(k.addr, c.bytes)] (c.granules k.addr) = .ok s2 →
         let s3 := s2.release s1.cur.1 s1.cur.2
         exec (.suspend g a b) s = .next (State.gridCheck (match s1.me.work.entry.bind s3.findEntry with
           | some (q, e) => s3.dropEntry q e.id
           | none => s3) s1.me.work.grid))))

/-! ### Speculative tasks (07 R201; 15 R298; 16 R303-R312) -/

/-- `tspawn` makes a task of the record's domain at its timestamp, which no task has and which the frontier has not
passed, and pushes it, the first of a domain too; `tdone` finishes a task, and ends an irrevocable one, which counts as
a commit (log entry 66); `tabort` aborts the tasks at or after a timestamp; `tfront` reads the frontier, and `twaitc`
waits until no task at or below a timestamp is left (R201, R298). A domain's frontier commits: a finished task at the
frontier has its versions written to memory and its deferred operations issued, is counted and leaves (R307, R308); a
running one that waits for a record becomes irrevocable (R309, R310); a freed version record lets the longest-waiting
access go on (R309). The delays until an event are the model's (log entry 4). Completes: taskCommit, taskIrrevocable,
versionRecordFreed, tspawn, tdone, tabort, tfront, twaitc. -/
def Obligations.TasksRunAndCommit : Prop :=
  (∀ (s : State) (g : Fin 8) (d a b : Fin 64) (r v : CVal) (x y z : Strand),
     s.me.guard g = true → s.me.source a = some (r, x) →
     (∀ bs s1, s.me.ticket = none → x.source b = some (v, y) → s.mayAccess r [.ld, .ldcap] r.addr 64 64 →
       (s.setMe y).load s.cur.1 s.cur.2 s.nextId (r.has .local) r.addr 64 = .ok (bs, s1) →
       let c := recOf bs
       let dom := rd s1.doms c.domain
       let ts : BitVec 48 := v.addr.setWidth 48
       let q := clusterOf s1.cur.1
       c.code.tag = true → c.code.has .exec = true →
       df c.flags 10 6 = 0 ∧ df c.flags 35 29 = 0 ∧ c.role ≠ 3 ∧ c.spec = true → c.det = false →
       s1.me.work.grid.isSome = true → dom.grid = s1.me.work.grid →
       (∀ t ∈ dom.tasks, t.ts ≠ ts) → dom.highest = none ∨ dom.tasks ≠ [] ∨ dom.past ≠ 0 → dom.frontier.getD dom.past ≤ ts →
       s1.me.loadsPending = false → s1.postsDone = true →
       (s1.cluster q).tq.length < 1024 → (s1.cluster q).tqWait = [] →
       let s2 : State := { s1.updCore s1.cur.1 (fun (q : Core) => { q with spawnCtr := q.spawnCtr + 1 }) with nextId := s1.nextId + 1 }
       let t : STask :=
         { id := s1.nextId, ts := ts, st := .queued, parent := s1.me.work.task, cluster := q, entry := s1.nextId + 1
           core := none, reruns := 0, defer := [] }
       exec (.tspawn g a b) s = .next (s.passedTo 4 ((s2.updDom c.domain (fun (y : Domain) =>
           { y with tasks := y.tasks ++ [t], highest := some (match y.highest with
               | some h => if h < ts then ts else h
               | none => ts) })).pushNow q
         { entryOf ((c.withSeq s1.myCore.spawnCtr).withTs ts) s1.me.asid s1.me.work.grid s1.cur.1 with
           task := some s1.nextId, parkedBy := none }))) ∧
     (∀ s1 id, s.me.work.task = some id → s.me.await = none → s.settleEnd = .ok s1 →
       s1.me.work = s.me.work →
       let gone := s1.release s1.cur.1 s1.cur.2
       (s.me.work.irrevocable = false →
         exec (.tdone g) s = .next ((gone.updTask s.me.work.domain id (fun (t : STask) =>
           { t with st := .finished, core := some s1.cur.1 })).pokeDomain s.me.work.domain)) ∧
       (s.me.work.irrevocable = true →
         exec (.tdone g) s = .next (((gone.updDom s.me.work.domain (fun (x : Domain) =>
           { x with commits := hold 0xFFFFFFFF (x.commits + 1) })).dropTask s.me.work).entryEnds s.me.work))) ∧
     (qf r.val 3 125 = 0 → s.me.work.grid.isSome = true →
       let k : Fin 8 := Fin.ofNat 8 (qf r.val 0 3)
       let dom := rd s.doms k
       dom.grid = s.me.work.grid →
       (∀ t, dom.frontier = some t → x.result d (.plain (t.setWidth 128)) = some z →
         exec (.tfront g d a) s = .next (s.passed 4 z)) ∧
       (dom.frontier = none →
         x.result d (.plain (((dom.past.setWidth 64 ||| (1 : Dbl) <<< 63)).setWidth 128)) = some z →
         exec (.tfront g d a) s = .next (s.passed 4 z)) ∧
       (x.source b = some (v, y) →
         let ts : BitVec 48 := v.addr.setWidth 48
         ((∀ t ∈ dom.tasks, ts < t.ts) → exec (.twaitc g a b) s = .next (s.passed 4 y)) ∧
         (s.me.work.task = none → exec (.tabort g a b) s = .next (s.passedTo 4 ((s.setMe y).abortTasks k
           ((dom.tasks.filter (fun t => decide (ts ≤ t.ts))).map (fun t => t.id)) .tabort)))))) ∧
  (∀ (s : State) (d : Fin 8) (t : STask) (h : Fin 400) (c : CoreId),
     ((rd s.doms d).first = none → exec (.taskCommit d) s = .next s ∧ exec (.taskIrrevocable d) s = .next s) ∧
     ((rd s.doms d).first = some t →
       (t.st ≠ .finished → exec (.taskCommit d) s = .next s) ∧
       (t.st ≠ .running → exec (.taskIrrevocable d) s = .next s) ∧
       (t.st = .finished → t.core = some c →
         let s1 := ((s.commitVersions d c t.id).issueAll d c t).updDom d (fun (x : Domain) =>
           { x with commits := hold 0xFFFFFFFF (x.commits + 1), tasks := x.tasks.filter (fun y => y.id != t.id) })
         exec (.taskCommit d) s = .next (((s1.dropEntry t.cluster t.entry).gridCheck
           ((s1.findEntry t.entry).bind (fun e => e.2.grid))).pokeDomain d)) ∧
       (∀ wid, t.st = .running → t.core = some c → s.shortOf c t.id = some wid →
         let s1 := (((s.commitVersions d c t.id).issueAll d c t).updTask d t.id (fun (y : STask) =>
             { y with st := .irrevocable })).updWork c wid (fun (x : Strand) => { x with work := { x.work with irrevocable := true } })
         let s2 := s1.updEntry t.cluster t.entry (fun (e : TqEntry) => { e with irrevocable := true })
         exec (.taskIrrevocable d) s = .next (({ s2 with vwait := s2.vwait.filter (fun p => p.2 != wid) } : State).updDom d
           (fun (x : Domain) => { x with irrev := hold 0xFFFF (x.irrev + 1) })))) ∧
     ((∀ p ∈ s.vwait, p.1 ≠ h.val) → exec (.versionRecordFreed h) s = .next s) ∧
     (∀ p (k : SlotId), s.vwait.find? (fun p => p.1 == h.val) = some p →
       (List.finRange 384).findSome? (fun c => (s.slotOf c p.2).map (fun k => (c, k))) = some (c, k) →
       exec (.versionRecordFreed h) s =
         .next (s.updStrand c k (fun (x : Strand) => { x with st := if x.st = .waiting then .running else x.st }))))

/-! ### System registers (07 R203; 09 R215; 21 R380) -/

/-- A strand's registers are read and written by the strand itself, EPC, TVEC and TSCR with their tags, the status words
within their bits; with SYS every register of the core and of the package is read, which clears its RC fields, and those
that may be written are written; an unassigned number, a write of a read-only register, or a value outside a register's
limits traps `ill`, and a register above 0x01F without SYS traps `capp` (R203). What 32-bit registers do with the bits
above them is log entry 55. What the host may write: a register of a core or of the package, within its limits and never
with a tag; a strand's register, PGCMD, and a register that is read only or unassigned discard the write (22 R395,
R396). The delays until an event are the model's (log entry 4). Completes: registerWrite, sysrd, syswr. -/
def Obligations.SystemRegisters : Prop :=
  (∀ (s : State) (g : Fin 8) (d a : Fin 64) (n : Fin 1024) (v : CVal) (x z : Strand),
     s.me.guard g = true →
     let m := s.me
     let reg := fun (y : Nat) => CVal.plain (BitVec.ofNat 128 y)
     let trap := fun (t : Trap) => Host.Outcome.next (s.takeTrap s.cur.1 s.cur.2 t none)
     let own := decide (n.val ≤ 2) || (decide (8 ≤ n.val) && decide (n.val ≤ 12)) || (decide (16 ≤ n.val) && decide (n.val ≤ 20)) ||
       (decide (24 ≤ n.val) && decide (n.val ≤ 26))
     (∀ p ∈ ([(0x000, reg (s.cur.1.val + 2 ^ 16 * s.cur.2.val + 2 ^ 32 * (clusterOf s.cur.1).val)),
         (0x001, reg (s.dt % 2 ^ 64)), (0x002, reg m.asid.toNat), (0x008, m.tvec), (0x009, m.epc), (0x00A, reg m.tcause.toNat),
         (0x00B, reg m.taddr.toNat), (0x00C, m.tscr), (0x010, reg m.fflags.toNat), (0x011, reg m.srgen.toNat),
         (0x012, reg m.cvrm.toNat), (0x013, reg m.novd.toNat), (0x014, reg m.qstat.toNat), (0x018, m.uvec), (0x019, m.uarea),
         (0x01A, m.lvt)] : List (Fin 1024 × CVal)),
       m.result d p.2 = some z → exec (.sysrd g d p.1) s = .next (s.passed 4 z)) ∧
     (m.pcc.has .sys = true →
       let me := s.cur.1
       let q := s.myCore
       let h := s.house
       let reads := fun (n : Nat) (v : CVal) (s1 : State) =>
         m.result d v = some z → exec (.sysrd g d (Fin.ofNat 1024 n)) s = .next (s.passedTo 4 (s1.setMe z))
       let same := fun (n : Nat) (v : CVal) => reads n v s
       let clears := fun (n x : Nat) (s1 : State) => reads n (reg x) s1
       same 0x100 (reg q.hage.toNat) ∧ same 0x101 (reg q.iage.toNat) ∧ same 0x103 (reg q.hmax) ∧ same 0x105 q.uctxv ∧
       same 0x106 q.uctxa ∧ same 0x107 q.uctxl ∧ same 0x108 (reg q.uctxid.toNat) ∧ same 0x109 q.psave ∧
       same 0x110 (reg ((if q.dbgQuiesce then 1 else 0) + (if q.quiesced then 2 else 0))) ∧
       clears 0x102 q.inldrop (s.setCore me { q with inldrop := 0 }) ∧
       clears 0x104 (rd q.pfst 0 + 2 ^ 16 * rd q.pfst 1 + 2 ^ 32 * rd q.pfst 2 + 2 ^ 48 * rd q.pfst 3)
         (s.setCore me { q with pfst := .replicate 4 0 }) ∧
       clears 0x10A q.cec.toNat (s.setCore me { q with cec := 0 }) ∧
       clears 0x388 q.vlogOvf (s.setCore me { q with vlogOvf := 0 }) ∧
       (∀ ch : Fin 64, let e := rd q.chst ch
         clears (0x180 + ch.val) (q.heldBy ch + (if (List.finRange 16).any (fun k => (q.strand k).runs ch) then 2 ^ 8 else 0) +
           (if s.runnable me ch then 2 ^ 9 else 0) + 2 ^ 16 * e.drops + 2 ^ 32 * e.refused + 2 ^ 48 * e.ovfc)
           (s.updCount me ch (fun _ => { drops := 0, refused := 0, ovfc := 0 }))) ∧
       (∀ i : Fin 16, same (0x200 + i.val) (reg (rd q.prot i).toNat)) ∧
       (∀ i : Fin 8, same (0x380 + i.val) (reg ((q.vlog[i.val]?).getD 0).toNat)) ∧
       same 0x111 (reg h.snapid.toNat) ∧ same 0x160 (reg s.wgrace.toNat) ∧ same 0x161 (reg s.lage.toNat) ∧
       same 0x162 (reg s.atbase.toNat) ∧ same 0x163 (reg h.snapctl.toNat) ∧ same 0x164 (reg h.snapsel.toNat) ∧
       same 0x168 (reg h.ready.toNat) ∧ same 0x169 (reg h.oos.toNat) ∧ same 0x16C (reg h.dtstat.toNat) ∧
       same 0x16D (reg h.pwrlim) ∧ same 0x16E (reg (h.power % 2 ^ 16 + 2 ^ 16 * h.level + 2 ^ 24 * (h.temp % 2 ^ 8))) ∧
       same 0x16F (reg h.dtepoch.toNat) ∧ same 0x1EC (reg s.sysnc.toNat) ∧
       (∀ k : Fin 32, let w := rd s.wins k
         clears (0x140 + k.val) (w.wstLo + 2 ^ 64 * w.latec + 2 ^ 80 * w.strc + 2 ^ 96 * w.strt) (s.clearWst k)) ∧
       (∀ e : Fin 2, same (0x166 + e.val) (reg (rd s.pgarea e).toNat) ∧
         clears (0x1EA + e.val) (((s.growOf e).head?).getD 0).toNat (s.popGrow e) ∧
         clears (0x1F2 + e.val) (match rd s.gerr e with
           | r :: _ => r.toNat + (if rd s.gerrOvf e then 2 ^ 62 else 0)
           | [] => 0) (s.popGerr e)) ∧
       (∀ p : Fin 8, let e := rd s.epcfg p
         same (0x170 + p.val) (reg e.cfg.toNat) ∧
         clears (0x178 + p.val) (e.drop + 2 ^ 16 * e.back + 2 ^ 32 * e.crce + 2 ^ 48 * s.portFill p)
           { s with epcfg := wr s.epcfg p { e with drop := 0, back := 0, crce := 0 } } ∧
         (∀ j : Fin 8, same (0x3A0 + 8 * p.val + j.val) (reg (rd e.src j).toNat)) ∧
         let o := rd s.doms p
         clears (0x1E0 + p.val) (o.commits + 2 ^ 32 * o.cabort + 2 ^ 48 * o.xabort + 2 ^ 64 * o.rerun + 2 ^ 80 * o.vstall +
           2 ^ 96 * o.irrev + 2 ^ 112 * o.derr) (s.updDom p (fun (x : Domain) =>
             { x with commits := 0, cabort := 0, xabort := 0, rerun := 0, vstall := 0, irrev := 0, derr := 0 }))) ∧
       (∀ e : ClusterId, clears (0x1C0 + e.val) (s.cluster e).astat
         (s.updCluster e (fun (x : Cluster) => { x with spills := 0, revokes := 0 }))) ∧
       (∀ e : Fin 4, same (0x1D8 + e.val) (reg (rd s.canev e).toNat) ∧ same (0x1DC + e.val) (reg (rd s.canflt e).toNat)) ∧
       (∀ e : HomeId, (∀ j : Fin 8, same (0x300 + 8 * e.val + j.val) (reg (((rd s.homes e).vlog[j.val]?).getD 0).toNat)) ∧
         clears (0x390 + e.val) (rd s.homes e).vlogOvf (s.updHome e (fun (x : Home) => { x with vlogOvf := 0 }))) ∧
       (∀ e : Fin 32, same (0x3E0 + e.val) (reg (rd s.gpcfg e).toNat))) ∧
     (m.st = .running → m.source a = some (v, x) →
       let w := v.addr
       (∀ p ∈ ([(0x008, true, { x with tvec := v }), (0x009, true, { x with epc := v }),
           (0x00A, df w 18 13 == 0 && df w 32 32 == 0, { x with tcause := w }), (0x00B, true, { x with taddr := w }),
           (0x00C, true, { x with tscr := v }), (0x010, df w 7 25 == 0, { x with fflags := w.setWidth 32 }),
           (0x011, true, { x with srgen := v.val }),
           (0x012, df w 3 5 == 0 && df w 16 16 == 0, { x with cvrm := (w.setWidth 32).setWidth 64 }),
           (0x013, true, { x with novd := w }), (0x014, df w 3 29 == 0, { x with qstat := w.setWidth 32 }),
           (0x018, true, { x with uvec := v }), (0x019, true, { x with uarea := v }), (0x01A, true, { x with lvt := v })] :
           List (Fin 1024 × Bool × Strand)),
         exec (.syswr g a p.1) s = if p.2.1 then .next (s.passed 4 p.2.2) else trap .ill) ∧
       (m.pcc.has .sys = true →
         ∀ p ∈ ([(0x100, decide (64 ≤ w.toNat ∧ w.toNat ≤ 65536), fun (q : Core) => { q with hage := w }),
             (0x101, decide (16 ≤ w.toNat ∧ w.toNat ≤ 4096), fun (q : Core) => { q with iage := w }),
             (0x105, true, fun (q : Core) => { q with uctxv := v }), (0x106, true, fun (q : Core) => { q with uctxa := v }),
             (0x107, true, fun (q : Core) => { q with uctxl := v }),
             (0x108, decide (w.toNat < 2 ^ 16), fun (q : Core) => { q with uctxid := w.setWidth 16 }),
             (0x109, true, fun (q : Core) => { q with psave := v })] : List (Fin 1024 × Bool × (Core → Core))),
           exec (.syswr g a p.1) s =
             if p.2.1 then .next (s.passedTo 4 ((s.setMe x).updCore s.cur.1 p.2.2)) else trap .ill)) ∧
     ((own || isCoreReg n.val || isPackageReg n.val) = false →
       exec (.sysrd g d n) s = trap .ill ∧ exec (.syswr g a n) s = trap .ill) ∧
     (own = false → m.pcc.has .sys = false → (isCoreReg n.val || isPackageReg n.val) = true →
       exec (.sysrd g d n) s = trap .capp ∧ exec (.syswr g a n) s = trap .capp) ∧
     (own = true → n.val ≤ 2 → exec (.syswr g a n) s = trap .ill)) ∧
  (∀ (s : State) (c : CoreId) (n : Fin 1024) (v : CVal),
     let w := v.addr
     let u : CVal := { v with tag := false }
     let freed := fun (l : List VlogEntry) (i : Nat) =>
       if v.val.getLsbD 127 then lset l i (((l[i]?).getD 0) &&& ~~~((1 : Quad) <<< 127)) else l
     let sets := fun (n : Nat) (ok : Bool) (t : State) =>
       exec (.registerWrite c (Fin.ofNat 1024 n) v) s = .next (if ok then t else s)
     let core := fun (n : Nat) (ok : Bool) (f : Core → Core) => sets n ok (s.updCore c f)
     (n.val < 0x20 ∨ n.val = 0x1E8 ∨ isReadOnly n.val = true ∨ (isCoreReg n.val || isPackageReg n.val) = false →
       exec (.registerWrite c n v) s = .next s) ∧
     core 0x100 (decide (64 ≤ w.toNat ∧ w.toNat ≤ 65536)) (fun q => { q with hage := w }) ∧
     core 0x101 (decide (16 ≤ w.toNat ∧ w.toNat ≤ 4096)) (fun q => { q with iage := w }) ∧
     sets 0x103 (decide (1 ≤ w.toNat ∧ w.toNat ≤ 16)) ((s.updCore c (fun (q : Core) => { q with hmax := w.toNat })).offer c) ∧
     core 0x105 true (fun q => { q with uctxv := u }) ∧ core 0x106 true (fun q => { q with uctxa := u }) ∧
     core 0x107 true (fun q => { q with uctxl := u }) ∧
     core 0x108 (decide (w.toNat < 2 ^ 16)) (fun q => { q with uctxid := w.setWidth 16 }) ∧
     core 0x109 true (fun q => { q with psave := u }) ∧
     sets 0x110 (decide (w.toNat < 4)) (s.setQuiesce c (w.getLsbD 0)) ∧
     (∀ i : Fin 16, sets (0x200 + i.val) (protOk (rd (s.core c).prot i) v.val) (s.setProt c i v.val)) ∧
     (∀ i : Fin 8, core (0x380 + i.val) true (fun q => { q with vlog := freed q.vlog i.val })) ∧
     (∀ h : HomeId, ∀ i : Fin 8, sets (0x300 + 8 * h.val + i.val) true (s.updHome h (fun (x : Home) => { x with vlog := freed x.vlog i.val }))) ∧
     sets 0x160 (decide (w.toNat ≤ 1000)) { s with wgrace := w.setWidth 32 } ∧
     sets 0x161 (decide (100 ≤ w.toNat ∧ w.toNat ≤ 1000000)) { s with lage := w.setWidth 32 } ∧
     sets 0x162 (df w 1 11 == 0 && df w 48 16 == 0) { s with atbase := w } ∧
     sets 0x163 (df w 4 4 == 0 && df w 10 54 == 0) (s.updHouse (fun (h : House) => { h with snapctl :=
       (w &&& 0xF) ||| ((h.snapctl ||| w) &&& 0x100) ||| ((h.snapctl &&& ~~~w) &&& 0x200) })) ∧
     sets 0x164 (decide (df w 0 10 ≤ 424) && df w 10 6 == 0 && df w 24 40 == 0) (s.updHouse (fun (h : House) => { h with snapsel := w })) ∧
     (∀ i : Fin 2, sets (0x166 + i.val) (qf v.val 1 20 == 0 && qf v.val 48 37 == 0 && qf v.val 112 16 == 0)
       { s with pgarea := wr s.pgarea i v.val }) ∧
     sets 0x16D (decide (120 ≤ w.toNat ∧ w.toNat ≤ 450)) (s.updHouse (fun (h : House) => { h with pwrlim := w.toNat })) ∧
     (∀ p : Fin 8, let s1 : State := { s with epcfg := wr s.epcfg p { rd s.epcfg p with cfg := w } }
       sets (0x170 + p.val) (df w 38 26 == 0 && decide (0x30 ≤ df w 2 6) && decide (df w 2 6 ≤ 0x37) && decide (1 ≤ df w 8 14) &&
         decide (df w 8 14 ≤ 1000)) (if w.getLsbD 0 then s1.startPort p else s1) ∧
       ∀ j : Fin 8, sets (0x3A0 + 8 * p.val + j.val) (epsrcOk w && !s.srcTaken p j (df w 0 16))
         { s with epcfg := wr s.epcfg p { rd s.epcfg p with src := wr (rd s.epcfg p).src j w } }) ∧
     (∀ i : Fin 4, let s1 : State := { s with canev := wr s.canev i w }
       sets (0x1D8 + i.val) (df w 19 45 == 0 && df w 1 2 != 3 && decide (4 ≤ df w 4 6) && decide (df w 10 9 < 384))
         (if w.getLsbD 0 then s1.postOnce 10000 (.canWatermarkPeriod i) else s1) ∧
       sets (0x1DC + i.val) (df w 29 3 == 0 && df w 61 3 == 0) { s with canflt := wr s.canflt i w }) ∧
     sets 0x1EC (df w 9 6 == 0 && df w 25 6 == 0 && df w 32 32 == 0 && decide (df w 0 9 < 384) && decide (df w 16 9 < 384))
       { s with sysnc := w } ∧
     (∀ i : Fin 32, sets (0x3E0 + i.val) (df w 60 4 == 0 && decide (4 ≤ df w 3 6) && decide (df w 9 9 < 384) && decide (1 ≤ df w 28 32))
       (({ s with gpcfg := wr s.gpcfg i w } : State).startGpio i)))

/-! ### Traps, upcalls and their returns (01 R24, R30; 07 R204, R205; 21 R381) -/

/-- Taking a synchronous trap: EPC, TCAUSE and TADDR are written, the lookahead windows and the repeat are set aside as
they stand (R29, R94) and PCC moves to TVEC; without a vector, or within a trap handler, the work ends as after a
hardware error. A word that fails a decode check traps `ill` whatever its guard (R24). TADDR of a trap that names no
address is a free value of the model (log entry 13). Returning: `tret` clears TACT and goes on at EPC, after a break at
the next word; the windows set aside resume their count where it stopped, the word of a `trap n` as one slot, and a
repeat whose position EPC names goes on (R28, R29, R94); it traps `ill` outside a handler (R204). `uret` and `resumef`,
once the handler's own posted accesses are performed, restore registers, queues and repeat from the record, the windows
and what is kept beside them as they stood at the upcall, and end it: `uret` discards the failed access, `resumef` makes
it and the held ones again (R205). That the upcall count of the record finds what the hardware kept is the model's (log
entry 9). Completes: illegalInstruction, instructionFetchFailure, trap, uret, tret, resumef. -/
def Obligations.TrapsAreTakenAndReturn : Prop :=
  (∀ (s : State) (g : Fin 8) (i : Fin 512) (c : CoreId) (k : SlotId) (t : Trap) (va : Option Dbl),
     let x := s.strand c k
     let next := ({ s with freshN := s.freshN + 1 } : State)
     (x.tvec.tag = true → x.tvec.has .exec = true → x.tcause.getLsbD 31 = false →
       s.takeTrap c k t va = next.setStrand c k { x with
         st := .running, kept := x.allWins, wins := [], rep := x.rep.map (fun (r : Rep) => { r with parked := true })
         epc := x.pcc, pcc := x.tvec, taddr := va.getD ((Config.freeValue s.freshN).setWidth 64)
         tcause := BitVec.ofNat 64 (2 ^ 31 + match t with
           | .ill => 1 | .capb => 2 | .capt => 3 | .capp => 4 | .align => 5 | .qempty => 6 | .xdie => 7 | .lease => 8
           | .tile => 9 | .spec => 10 | .brk n => 11 + 2 ^ 8 * n) }) ∧
     (x.tvec.tag = false ∨ x.tvec.has .exec = false ∨ x.tcause.getLsbD 31 = true → s.takeTrap c k t va = s.hwEnd c k) ∧
     (s.me.guard g = true → exec (.trap g i) s = .next (s.takeTrap s.cur.1 s.cur.2 (.brk i.val) none)) ∧
     (x.active = true →
       (∀ w l n s1, s.fetchInstr c k = .ok (w, l, n, s1) →
         exec (.illegalInstruction c k) s = .next (s1.takeTrap c k .ill none)) ∧
       (s.fetchInstr c k = .error (.trap t va) → exec (.instructionFetchFailure c k) s = .next (s.takeTrap c k t va)) ∧
       (∀ f s1, s.fetchInstr c k = .error (.upcall f s1) →
         exec (.instructionFetchFailure c k) s = .next (s1.takeUpcall c k f false false 0)))) ∧
  (∀ (s : State) (g : Fin 8) (a : Fin 64) (r : CVal) (x : Strand),
     s.me.guard g = true →
     (s.me.tcause.getLsbD 31 = true → (∀ w ∈ s.me.kept, ∀ f, w.res ≠ .failed f) →
       let brk := decide (df s.me.tcause 0 8 = 11)
       let rep := s.me.rep.map (fun (r : Rep) => if r.next = s.me.epc.addr then { r with parked := false } else r)
       let y := if brk then { s.me with rep := rep }.pass s.me.epc rep 4 0 else { s.me with pcc := s.me.epc, rep := rep }
       exec (.tret g) s = .next (s.setMe { y with
         tcause := s.me.tcause &&& ~~~((1 : Dbl) <<< 31), kept := []
         wins := s.me.kept.map (fun (w : Window) => { w with left := w.left - (if brk then 1 else 0) }) ++
           (s.me.countDown s.nextId).wins })) ∧
     (s.me.tcause.getLsbD 31 = false → exec (.tret g) s = .next (s.takeTrap s.cur.1 s.cur.2 .ill none)) ∧
     (s.me.source a = some (r, x) → s.mayAccess r [.ld, .ldcap] r.addr 16384 64 →
       (∀ p ∈ s.myCore.wpath, p.slot ≠ s.cur.2) →
       ∀ (again : Bool) img s1 s2 u, (s.setMe x).homeRead (s.whoOf s.cur.1 s.cur.2) (r.has .local) r.addr 16384 = .ok (img, s1) →
         let num := fun o n => ofBytes (((img.map (fun (b : RByte) => b.1)).drop o).take n)
         let back := fun (ws : List Window) =>
           if again then ws.map (fun (w : Window) => if u.win = some w.id then { w with res := .pending } else w)
           else ws.filter (fun (w : Window) => u.win != some w.id)
         num 3 1 = 1 → num 0 2 = s.cur.1.val → num 2 1 = s.cur.2.val → num 4 2 = s.me.asid.toNat →
         s1.homeWrite (s.whoOf s.cur.1 s.cur.2) (r.has .local) [(r.addr + 3, [0])] [] = .ok s2 → s2.cur = s.cur →
         s2.myCore.recs.find? (fun (v : UpRec) => v.wid == x.work.wid && v.count.toNat == num 8 8) = some u →
         ∃ t, exec (if again then .resumef g a else .uret g a) s = .next t ∧
           t.me = { x.fromImage img with
             kept := back u.strand.kept, wins := back u.strand.wins, took := u.strand.took
             redo := if again then u.strand.held.map (fun (p : Posted) => p.id) else []
             engq := (x.fromImage img).engq ++ x.engq, st := .running
             ticket := if u.strand.amoErr.isSome then none else u.strand.ticket, answer := u.strand.answer, barAt := u.strand.barAt, sendWait := u.strand.sendWait } ∧
           t.myCore.recs = s2.myCore.recs.erase u ∧
           t.myCore.wpath = s2.myCore.wpath ++ (if again then u.strand.held else [])))

/-- Accesses that end later: a window's access, after the strand's earlier loads of the same bytes (18 R321), gives its
value, or its failure, which is taken as a memory upcall when the window is due, as a posted access that fails is (R27,
R30, R106); an upcall leaves a capability for the record in c56, the cause and the address in c57 and c58, sets the
windows aside and moves PCC to UVEC (R381). The delays until an event are the model's (log entry 4). Completes:
memoryUpcall, loadResponse, postedErrorResponse. -/
def Obligations.FailedAccessesUpcall : Prop :=
  ∀ (s : State) (c : CoreId) (k : SlotId) (id : Nat) (w : Window) (f : FaultInfo) (pc : Dbl),
    let x := s.strand c k
    let put := fun (s : State) (r : WinRes) (sat : Bool) => s.updStrand c k (fun (x : Strand) =>
      x.mapWins (fun (v : Window) => if v.id == id then { v with res := r, plsat := sat } else v))
    let behind := x.allWins.any (fun v => v.res == .pending && decide (v.id < id) && v.acc.meets w.acc)
    ((∀ v ∈ x.allWins, v.id = id → v.res ≠ .pending) → exec (.loadResponse c k id) s = .next (s.leaveLine c k)) ∧
    (x.allWins.find? (fun (v : Window) => v.id == id && v.res == .pending) = some w → behind = true →
      exec (.loadResponse c k id) s = .next (s.post 20 (.loadResponse c k id))) ∧
    (x.allWins.find? (fun (v : Window) => v.id == id && v.res == .pending) = some w → behind = false →
      (∀ v tag sat s1, s.perform c k id w.acc = .ok (v, tag, sat, s1) →
        exec (.loadResponse c k id) s = .next (put s1 (.value v tag 0) sat)) ∧
      (∀ s1, s.perform c k id w.acc = .error (.upcall f s1) → exec (.loadResponse c k id) s = .next (put s1 (.failed f) false)) ∧
      (∀ s1, s.perform c k id w.acc = .error (.wait s1) →
        exec (.loadResponse c k id) s = .next (s1.post 100 (.loadResponse c k id)))) ∧
    ((List.finRange 16).find? (fun k => (s.strand c k).held.any (fun (p : Posted) => p.id == id)) = some k →
      exec (.postedErrorResponse c id) s = .next (s.recall c k)) ∧
    (x.active = true →
      (x.postErr = some f → exec (.memoryUpcall c k) s = .next ((s.recall c k).takeUpcall c k f true false 0)) ∧
      (x.postErr = none → firstFailed (x.wins.filter (fun (v : Window) => v.left == 0)) = some (f, pc) →
        exec (.memoryUpcall c k) s = .next (s.takeUpcall c k f false true pc))) ∧
    (∀ posted atEnd, x.uvec.tag = false ∨ x.uvec.has .exec = false ∨ x.uarea.tag = false →
      s.takeUpcall c k f posted atEnd pc = s.hwEnd c k) ∧
    (∀ posted atEnd, x.uvec.tag = true → x.uvec.has .exec = true → x.uarea.tag = true → x.uarea.addr.toNat % 64 = 0 →
      x.uarea.hasAll [.st, .stcap] = true → x.uarea.inBounds x.uarea.addr.toNat 16384 = true →
      let base := x.uarea.addr
      let seen := s.liveAt (s.whoOf c k) x.lvt x.pcc.addr
      let live := seen.1.withWins x.allWins
      let parts := (0, imageHead c k x.asid (x.upcalls + 1).toNat (f.word posted atEnd) f.va x.pcc pc) ::
        x.imageParts { live with t := 0 } (seen.2.oldGuards (s.whoOf c k) x.uarea) ++ [(10592, List.replicate 5792 0)]
      ∀ s2, seen.2.homeWrite (s.whoOf c k) (x.uarea.has .local)
          (parts.map (fun p => (base + BitVec.ofNat 64 p.1, p.2))) (x.imageTags live x.pcc base) = .ok s2 →
        let y := (s.takeUpcall c k f posted atEnd pc).strand c k
        y.st = .running ∧ y.pcc = x.uvec ∧ y.wins = [] ∧ y.kept = [] ∧ y.upcalls = x.upcalls + 1 ∧
        y.creg 56 = ((x.uarea.narrow 16384).toOption.getD .null).withPerms
          ([.ld, .ldcap, .st, .stcap] ++ (if x.uarea.has .local then [.local] else [])) ∧ y.creg 57 = .plain (BitVec.ofNat 128 (f.word posted atEnd)) ∧
        y.creg 58 = .plain (f.va.setWidth 128) ∧ y.creg 59 = .null ∧ y.uarea = x.uarea.setAddr (base + 16384) ∧
        ∀ i : Fin 64, i.val < 56 → y.creg i = x.creg i)

/-! ### Translations invalidated; protection; snapshots, freeze, halts (07 R206, R207; 20 R363; 21 R368, R375, R388-R390) -/

/-- `tlbi` asks every network interface to drop a range of translations; an interface drops them, and acknowledges once
nothing that used them is under way, no spill that has begun and not read its page among it; the last acknowledgement
ends the operation (R206, R363, R375). The delays until an event are the model's (log entry 4). Completes:
translationWalk, tlbiAck, tlbi. -/
def Obligations.InvalidationIsAcknowledged : Prop :=
  ∀ (s : State) (g k : Fin 8) (a b : Fin 64) (u v : CVal) (x y : Strand) (id : Nat) (ni : Fin 400) (o : Op),
    (s.me.guard g = true → s.me.source a = some (u, x) → x.source b = some (v, y) → s.me.pcc.has .sys = true → s.me.await = none →
      s.me.work.task = none → qf v.val 18 110 = 0 → (s.setMe y).engineFree = .ok () →
      let r := (s.setMe y).newOp (some k) (.tlbi u.addr (BitVec.ofNat 64 (qf u.val 64 64)) (BitVec.ofNat 16 (qf v.val 0 16))
        (v.val.getLsbD 16) (v.val.getLsbD 17)) []
      exec (.tlbi g k a b) s =
        .next (s.passedTo 4 ((List.finRange 400).foldl (fun (s : State) ni => s.post 100 (.tlbiAck r.1 ni)) r.2))) ∧
    (s.op id = none → exec (.tlbiAck id ni) s = .next s) ∧
    (∀ va len asid all glob, s.op id = some o → o.job = .tlbi va len asid all glob →
      let i := mkInval va len asid all glob
      let s1 := s.invalidateAt ni i
      (o.idx.contains (ni.val, 0) = false → s1.quiet i = false ∨ s1.spillsDone i = false →
        exec (.tlbiAck id ni) s = .next (s1.post 50 (.tlbiAck id ni))) ∧
      (o.idx.contains (ni.val, 0) = false → s1.quiet i = true → s1.spillsDone i = true → o.idx.length + 1 ≠ 400 →
        exec (.tlbiAck id ni) s = .next (s1.updOp id (fun (p : Op) => { p with idx := (ni.val, 0) :: p.idx }))) ∧
      (o.idx.contains (ni.val, 0) = false → s1.quiet i = true → s1.spillsDone i = true → o.idx.length = 399 →
        exec (.tlbiAck id ni) s = .next ((s1.updOp id (fun (p : Op) => { p with idx := (ni.val, 0) :: p.idx })).endOp id)) ∧
      (∀ e ∈ s1.tlb ni, i.drops e = false)) ∧
    (∀ asid va e s1, niOfVa va = some ni → s.lookup ni asid va .read = (.ok e, s1) →
      exec (.translationWalk ni asid va) s = .next s1) ∧
    (∀ asid va e s1, s.lookup ni asid va .read = (.error e, s1) → exec (.translationWalk ni asid va) s = .next s) ∧
    (∀ asid va, niOfVa va ≠ some ni → exec (.translationWalk ni asid va) s = .next s)

/-- `snap` and the pin latch a snapshot while the trigger is armed; `freeze` raises it and holds every engine, or
releases them; a debugger or QUIESCE halts a core's slots, QUIESCED is set once its engine operations and posted
accesses are done, and a release clears both (log entry 30); a protection region that becomes valid has its bytes and
tags cleared first, one that is disabled is so at once (log entry 56) (R207, R368, R388-R390). The delays until an event
are the model's (log entry 4). Completes: protRegionEnable, protRegionDisable, quiesceRequest, quiesceComplete,
debugHalt, debugRelease, snapshotPin, snap, freeze. -/
def Obligations.SnapshotsHaltsAndRegions : Prop :=
  ∀ (s : State) (g : Fin 8) (a : Fin 64) (v : CVal) (x : Strand) (c : CoreId) (i : Fin 16) (w : Quad),
    (s.me.guard g = true → s.me.source a = some (v, x) → s.me.pcc.has .sys = true →
      (s.house.snapctl.getLsbD 8 = true →
        exec (.snap g a) s = .next (s.passedTo 4 ((s.setMe x).latch (BitVec.ofNat 16 (qf v.val 0 16))))) ∧
      (s.house.snapctl.getLsbD 8 = false → exec (.snap g a) s = .next (s.passed 4 x)) ∧
      (v.val.getLsbD 0 = false → exec (.freeze g a) s =
        .next (s.passedTo 4 ((s.setMe x).updHouse (fun (h : House) => { h with frozen := false })))) ∧
      (v.val.getLsbD 0 = true → s.house.snapctl.getLsbD 8 = false → exec (.freeze g a) s =
        .next (s.passedTo 4 ((s.setMe x).updHouse (fun (h : House) => { h with frozen := true })))) ∧
      (v.val.getLsbD 0 = true → s.house.snapctl.getLsbD 8 = true → exec (.freeze g a) s =
        .next (s.passedTo 4 (((s.setMe x).latch 0xFFFC).updHouse (fun (h : House) => { h with frozen := true }))))) ∧
    (s.house.snapctl.getLsbD 8 = true → s.house.snapctl.getLsbD 3 = true → exec .snapshotPin s = .next (s.latch 0xFFFF)) ∧
    (s.house.snapctl.getLsbD 8 = false ∨ s.house.snapctl.getLsbD 3 = false → exec .snapshotPin s = .next s) ∧
    (∃ t, exec (.debugHalt c) s = .next t ∧ (t.core c).dbgHalt = true ∧ ∀ k, (t.strand c k).st = .halted) ∧
    (∃ t, exec (.quiesceRequest c) s = .next t ∧ (t.core c).dbgQuiesce = true ∧ ∀ k, (t.strand c k).st = .halted) ∧
    (∃ t, exec (.debugRelease c) s = .next t ∧ (t.core c).dbgHalt = false ∧ (t.core c).dbgQuiesce = false ∧
      (t.core c).quiesced = false ∧
      ∀ k, (t.strand c k).st = if (s.strand c k).st = .halted then (s.strand c k).halt.getD .dormant else (s.strand c k).st) ∧
    ((s.core c).dbgQuiesce = true → (s.core c).quiesced = false →
      let idle := (s.core c).wpath.isEmpty && !s.parked.any (fun p => p.core == c && !p.d) &&
        s.ops.all (fun (o : Op) => o.core != c || o.handed.isSome)
      exec (.quiesceComplete c) s = .next (if idle then s.updCore c (fun (x : Core) => { x with quiesced := true })
        else s.post 100 (.quiesceComplete c))) ∧
    (let old := rd (s.core c).prot i
     protOk old w = true →
      (protV old = false → protV w = true → ∃ t, exec (.protRegionEnable c i w) s = .next t ∧ rd (t.core c).prot i = w ∧
        (∀ p ∈ t.mem, p.1 < slicePhys c (4096 * qf w 0 9) ∨ slicePhys c (4096 * (qf w 16 9 + 1)) ≤ p.1) ∧
        (∀ n ∈ t.tags, 16 * n < slicePhys c (4096 * qf w 0 9) ∨ slicePhys c (4096 * (qf w 16 9 + 1)) ≤ 16 * n)) ∧
      (protV old = true → protV w = false →
        exec (.protRegionDisable c i w) s = .next (s.updCore c (fun (q : Core) => { q with prot := wr q.prot i w }))))

/-! ### Walks and prefetch kernels (13 R268-R273; 14 R280-R288) -/

/-- A walk: issued from its checked descriptor, it takes a slot of its engine once what its issuer did before is
performed (18 R326), runs one rule an event, ends with its result word, and the result enters the issuer's engine queue
before the token falls (R280-R286). A BRANCH compares the key's bytes with memory's, a HASH computes the bucket, a rule
that does not end in 16 idle rules ends the walk. The order of a read's checks is log entry 51. The prefetch unit:
`pfcfg` writes an entry that is empty or the issuer's, `pfstop` empties it; the trigger of a line that an entry watches
holds the bytes that the fill brought, enters the core's queue, and is dropped and counted behind eight; the oldest
trigger's kernel runs instruction by instruction until it ends, does what it may not, or has executed 256, and the
strand of its slot is as it was (R268-R273). What a guarded-off word and a failed `pfx` of a kernel do is log entry 52.
The delays until an event are the model's (log entry 4). Completes: walkArrival, walkRule, walkEnd, prefetchTrigger,
prefetchKernel, pwalk, pfcfg, pfstop. -/
def Obligations.WalksAndPrefetchKernels : Prop :=
  (∀ (s : State) (g k : Fin 8) (a b : Fin 64) (d st : CVal) (x y : Strand) (id : Nat) (o : Op) (w : Walk),
     (∀ bs s1 v, s.me.guard g = true → s.me.await = none → s.me.work.task = none → s.me.source a = some (d, x) →
       x.source b = some (st, y) → s.mayAccess d [.ld, .ldcap] d.addr 192 64 →
       (s.setMe y).load s.cur.1 s.cur.2 s.nextId (d.has .local) d.addr 192 = .ok (bs, s1) → s1.cur = s.cur →
       walkOf bs st (16 + (clusterOf s.cur.1).val) = some v →
       (∀ p ∈ ([(v.dst, [.st, .eng], 16), (st, [.ld, .eng], 1)] : List (CVal × List Perm × Nat)),
         p.1.tag = true ∧ p.1.hasAll p.2.1 = true ∧ p.1.has .local = false ∧ p.1.addr.toNat % p.2.2 = 0 ∧
         (1 < df p.1.addr 56 8 ∨ dieOfVa p.1.addr = dieOf s.cur.1)) →
       s1.me.work.task = none → s1.engineFree = .ok () →
       exec (.pwalk g k a b) s = .next (s.passedTo 4 (s1.startOp (some k) (.walk v) [] .walkArrival))) ∧
     (s.house.frozen = false → s.op id = some o → o.job = .walk w →
       (w.slot = false → w.result = none → s.awaitsIssuer o = true →
         exec (.walkArrival id) s = .next (s.post 20 (.walkArrival id))) ∧
       (w.slot = false → w.result = none → s.awaitsIssuer o = false → s.mayEnter id w = true →
         exec (.walkArrival id) s =
           .next ((s.updWalk id (fun (w : Walk) => { w with slot := true, waitNo := none })).post 1 (.walkRule id))) ∧
       (w.slot = true → w.result = none →
         let r := (w.rules[w.rule]?).getD 4
         let at' := w.p + BitVec.ofNat 64 (df r 16 16)
         let here := w.arena.inBounds at'.toNat (df r 40 6) = true ∧ engineOf at' = some w.engine ∧
           (1 < df at' 56 8 ∨ dieOfVa at' = dieOf o.core)
         (16 ≤ w.idle → exec (.walkRule id) s = .next (s.finishWalk o w 2 4 w.p)) ∧
         (w.idle < 16 → df r 0 4 = 4 → exec (.walkRule id) s = .next (s.finishWalk o w 1 0 w.p)) ∧
         (w.idle < 16 → df r 0 4 = 2 →
           exec (.walkRule id) s = .next ((s.updWalk id (fun (v : Walk) =>
             { v with p := hashAt w r, rule := df r 4 4, idle := w.idle + 1 })).post 1 (.walkRule id))) ∧
         (∀ bs s1, w.idle < 16 → df r 0 4 = 0 → here → s.homeRead o.who false at' (df r 40 6) = .ok (bs, s1) →
           let m := ofBytes (bs.map (fun (b : RByte) => b.1))
           let key := ofBytes ((w.key.drop (df r 32 8)).take (df r 40 6))
           exec (.walkRule id) s = .next ((s1.updWalk id (fun (v : Walk) =>
             { v with rule := (if m = key then df r 4 4 else if m < key then df r 8 4 else df r 12 4), idle := w.idle + 1 })).post 1
               (.walkRule id)))) ∧
       (∀ q, w.result = some q → s.engqRoom o.core o.wid id = true →
         exec (.walkEnd id) s = .next ((s.pushEngq o.core o.wid id q).endOp id)) ∧
       (∀ q, w.result = some q → s.engqRoom o.core o.wid id = false →
         exec (.walkEnd id) s = .next (s.post 50 (.walkEnd id))))) ∧
  (∀ (s : State) (g : Fin 8) (a b : Fin 64) (n r : CVal) (x y : Strand) (c : CoreId) (va : Nat) (asid : BitVec 16),
     (s.me.guard g = true → s.me.work.task = none → s.me.source a = some (n, x) → n.val.toNat < 4 →
       let i : Fin 4 := Fin.ofNat 4 n.val.toNat
       (∀ e, rd s.myCore.pf i = some e → e.asid = s.me.asid ∨ s.me.pcc.has .sys = true) →
       exec (.pfstop g a) s = .next (s.passedTo 4 ((s.setMe x).setPf i none)) ∧
       (∀ bs s1, x.source b = some (r, y) → s.mayAccess r [.ld, .ldcap] r.addr 96 16 →
         (s.setMe y).load s.cur.1 s.cur.2 s.nextId (r.has .local) r.addr 96 = .ok (bs, s1) →
         let code := capIn bs 0
         let watch := capIn bs 16
         code.tag = true → watch.tag = true → code.has .exec = true → watch.has .ld = true → watch.base % 64 = 0 →
         watch.top % 64 = 0 →
         exec (.pfcfg g a b) s = .next (s.passedTo 4 (s1.setPf i (some
           { code := code, watch := watch, asid := s1.me.asid, par := [capIn bs 32, capIn bs 48, capIn bs 64, capIn bs 80] }))))) ∧
     (let mine := fun (t : PfTrig) => decide (t.line.toNat = va) && ((rd (s.core c).pf t.entry).map (fun (e : PfEntry) => e.asid) == some asid)
      let left := (s.core c).pfPend.eraseP mine
      ((s.core c).pfPend.find? mine = none → exec (.prefetchTrigger c va asid) s = .next s) ∧
      (∀ t, (s.core c).pfPend.find? mine = some t →
       (8 ≤ (s.core c).pfq.length →
         exec (.prefetchTrigger c va asid) s = .next (s.updCore c (fun (q : Core) =>
           { q with pfPend := left, pfst := wr q.pfst 1 (hold 0xFFFF (rd q.pfst 1 + 1)) }))) ∧
       ((s.core c).pfq.length < 8 →
         exec (.prefetchTrigger c va asid) s = .next ((s.updCore c (fun (q : Core) =>
           { q with pfPend := left, pfq := q.pfq ++ [t] })).postOnce 1 (.prefetchKernel c))))) ∧
     ((s.core c).pfq = [] → exec (.prefetchKernel c) s = .next s) ∧
     (∀ t ts, (s.core c).pfq = t :: ts →
       let s1 := s.updCore c (fun (q : Core) => { q with pfq := ts })
       let more := fun (u : State) => if ts = [] then u else u.postOnce 1 (.prefetchKernel c)
       (rd (s.core c).pf t.entry = none → exec (.prefetchKernel c) s = .next (more s1)) ∧
       (∀ e (f : Nat → State) (m : Nat), rd (s.core c).pf t.entry = some e →
         let line := CVal.make t.line.toNat 64 [.ld]
         f 0 = { (s1.updCore c (fun (q : Core) => { q with pfst := wr q.pfst 0 (hold 0xFFFF (rd q.pfst 0 + 1)) })).setStrand c 0
           { Strand.reset with
             st := .running, asid := e.asid, pcc := e.code, tvec := CVal.make 0 4 [.exec]
             c := vofFn (fun (i : Fin 64) => if i.val = 1 then line else if i.val = 6 then .plain (t.line.setWidth 128)
               else if 2 ≤ i.val ∧ i.val ≤ 5 then (e.par[i.val - 2]?).getD .null else .null) } with cur := (c, 0) } →
         (∀ i, i < m → (f i).kernelStep t = .on (f (i + 1))) →
         let back := fun (u : State) => { u.setStrand c 0 (s.strand c 0) with cur := s.cur }
         let fails := fun (u : State) => (back u).updCore c (fun (q : Core) => { q with pfst := wr q.pfst 2 (hold 0xFFFF (rd q.pfst 2 + 1)) })
         (∀ u, m < 256 → (f m).kernelStep t = .ended u → exec (.prefetchKernel c) s = .next (more (back u))) ∧
         (∀ u, m < 256 → (f m).kernelStep t = .bad u → exec (.prefetchKernel c) s = .next (more (fails u))) ∧
         (m = 256 → exec (.prefetchKernel c) s = .next (more (fails (f 256)))))) ∧
     (∀ (t : PfTrig) w lit len s1, s.fetchInstr s.cur.1 s.cur.2 = .ok (w, lit, len, s1) → fits w = true →
       let h : Fin 8 := Fin.ofNat 8 (w / 2 ^ 29)
       (s1.me.guard h = true →
         (kernelAct w lit = none → s.kernelStep t = .bad s1) ∧
         (kernelAct w lit = some (.hend h) → s.kernelStep t = .ended s1) ∧
         (∀ cs run u, kernelAct w lit = some (.run cs run) → (∀ r ∈ cs, r.val ≤ 15) → run s1 = .next u →
           s.kernelStep t = if u.me.tcause.getLsbD 31 then .bad u else .on u)) ∧
       (s1.me.guard h = false → (∀ u, (issue h len s1 .ok) = .next u →
         s.kernelStep t = if u.me.tcause.getLsbD 31 then .bad u else .on u))))

/-! ### Paging engines (21 R376-R379) -/

/-- A paging engine serves its queue, where the homes that it needs are ready (R386): a fill decodes the frame that the
leaf names into the slice and makes the PTE resident; a spill whose PTE names the frame codes and stores its page once
nothing of it is under way, and answers; a growth writes a page of the overflow buffer to its new frame; a page that
needs more units than its frame has waits in the overflow buffer with a growth event and status 4; a command its engine
cannot take is rejected with status 2; a read of PGGROW takes the oldest growth event of its die (R376-R379). How the
leaf names a frame, and what a reply holds where a command fails, are log entries 34 and 54. The delays until an event
are the model's (log entry 4). Free values are the model's (log entry 13). Completes: pagingFill, pagingSpill,
pagingGrow, pggrowPop. -/
def Obligations.PagingCommandsComplete : Prop :=
  ∀ (s : State) (q : ClusterId) (p : PgCmd) (ps : List PgCmd) (l : Leaf) (d : Fin 2) (e : Quad),
    (s.house.frozen = false → (s.cluster q).pgq = p :: ps → (s.cluster q).pgOvf = [] →
      (s.pgOk q p = false → ∃ t n, exec (p.event q) s = .next ((t.pgEnd q p 2 n).pokePaging q) ∧
        t = { s with freshN := s.freshN + 1 }) ∧
      (s.pgOk q p = true → s.walkLeaf p.asid p.va = .ok l →
        let pa := pteFrame l.pte
        let h := memRead s.mem pa 40
        let n := ofBytes ((h.drop 2).take 2)
        (p.op = 0 → l.spilled p.va = true → s.inArea (q.val / 12) pa 512 = true → s.homeReady pa = true → poisoned s.poison pa 40 = false →
          poisoned s.poison (pa + 40) n = false →
          let f := Config.freeValue s.freshN
          let s1 : State := { s with freshN := s.freshN + 1 }
          let bs := (decodePage (fld (ofBytes h) 8 1 = 1) (memRead s.mem (pa + 40) n) f ++ freeBytes f 4096).take 4096
          let tags := (List.range 256).map (fun i => fld (ofBytes (h.drop 8)) i 1 == 1)
          exec (.pagingFill q) s = .next ((((s1.putPage (slicePhys p.tile p.off) bs tags).putPte l.at'
            (pteFilled l.pte p.off)).pgEnd q p 0 n).pokePaging q)) ∧
        (∀ f, p.op = 1 → p.pte = none → l.level = 0 → pteKind (df p.va 56 8 == 1) l.pte = 1 → fld l.pte 7 1 = 0 →
          fld l.pte 0 1 = 1 → s.leafFrame p.va l = some f →
          let i := mkInval p.va 4096 p.asid false false
          let s1 := ((s.putPte l.at' (pteSpilled l.pte p.pa.toNat)).invalidateAt (niOfCore p.tile) i).updCluster q (fun (x : Cluster) =>
            { x with pgq := x.pgq.map (fun r => if r = p then { p with pte := some (l.at', f % 2 ^ 21) } else r) })
          s1.quiet i = false → exec (.pagingSpill q) s = .next ((s1.post 50 (.pagingSpill q)).pokePaging q))) ∧
      (∀ at' off pte, s.pgOk q p = true → p.op = 1 → p.pte = some (at', off) → s.tableWord at' = .ok pte →
        s.quiet (mkInval p.va 4096 p.asid false false) = true → poisoned s.poison (slicePhys p.tile off) 4096 = false →
        s.homeReady p.pa.toNat = true → (p.keep = true → poisoned s.poison p.pa.toNat 8 = false) →
        (p.keep = true → fld pte 10 1 = 0 →
          exec (.pagingSpill q) s = .next ((s.pgEnd q p 0 (memNat s.mem (p.pa.toNat + 2) 2)).pokePaging q)) ∧
        (p.keep = false ∨ fld pte 10 1 = 1 →
          let bs := memRead s.mem (slicePhys p.tile off) 4096
          let tags := (List.range 256).map (fun i => tagAt s.tags (slicePhys p.tile off + 16 * i))
          let code := codePage bs
          let units := if p.keep then (memGet s.mem p.pa.toNat).toNat else p.units
          let need := pageUnits code.1 code.2.length
          (need ≤ units → exec (.pagingSpill q) s = .next (((s.physWrite p.pa.toNat
            (frameBytes units code.1 code.2 tags)).pgEnd q p 0 code.2.length).pokePaging q)) ∧
          (units < need → exec (.pagingSpill q) s = .next ((((s.updCluster q (fun (x : Cluster) =>
            { x with pgOvf := x.pgOvf ++ [{ va := p.va, asid := p.asid, bytes := bs, tags := tags }] })).growEvent q p need).pgEnd q p 4
              code.2.length).pokePaging q))))) ∧
    (∀ n : Nat, s.growEvent q p n = State.notice { s with
      pggrow := s.pggrow ++ [BitVec.ofNat 128 (p.va.toNat + 2 ^ 64 * p.asid.toNat + 2 ^ 80 * n + 2 ^ 84 * q.val + 2 ^ 127)]
      host := { s.host with interrupts := s.host.interrupts + 1 } } (q.val / 12) 6 0) ∧
    (∀ o, s.house.frozen = false → (s.cluster q).pgq = p :: ps → (s.cluster q).pgOvf = [o] → o.va = p.va → o.asid = p.asid →
      p.op = 2 → s.pgOk q p = true → s.walkLeaf p.asid p.va = .ok l → s.homeReady p.pa.toNat = true → l.spilled p.va = true →
      let need := pageUnits (codePage o.bytes).1 (codePage o.bytes).2.length
      (p.units < need → exec (.pagingGrow q) s =
        .next (((s.growEvent q p need).pgEnd q p 4 (codePage o.bytes).2.length).pokePaging q)) ∧
      (need ≤ p.units → exec (.pagingGrow q) s = .next ((((((s.physWrite p.pa.toNat
        (frameBytes p.units (codePage o.bytes).1 (codePage o.bytes).2 o.tags)).putPte l.at' (pteSpilled l.pte p.pa.toNat)).updCluster q
          (fun (x : Cluster) => { x with pgOvf := x.pgOvf.erase o })).pgEnd q p 0 (codePage o.bytes).2.length)).pokePaging q))) ∧
    ((s.growOf d).head? = some e → exec (.pggrowPop d) s = .next { s with pggrow := s.pggrow.erase e }) ∧
    (s.growOf d = [] → exec (.pggrowPop d) s = .next s)

/-! ### Launches, teams, partitions, pre-emption (07 R200; 19 R339-R353; 21 R382-R385) -/

/-- `launch` asks the launch unit of its die and waits; the answer goes to c[d]. The unit answers a record that it
cannot read or that is not well formed with bit 63 and the failure's code, and an accepted one with its grid's
identifier, which it queues; a write of the launch port asks in the same way; an accepted head is placed; an open sheet
of a bin that an item configures is flushed first, and an item whose bin still has array work makes the launch wait
(R200, R340-R342). Code 1 for what cannot be read is log entry 47. That the answer takes 1 µs and placing 500 ns is the
model's choice (log entry 4). Completes: launchValidation, launchHeadTake, launchPortWrite, launch. -/
def Obligations.LaunchesAreAnswered : Prop :=
  ∀ (s : State) (g : Fin 8) (d a : Fin 64) (r : CVal) (x z : Strand) (k : Fin 2) (p : Fin 4) (q : LaunchReq)
      (rest : List LaunchReq) (addr : Dbl),
    (s.me.guard g = true → s.me.work.task = none → s.me.source a = some (r, x) → s.mayAccess r [.ld, .ldcap] r.addr 128 64 →
      (∀ v t, s.me.answer = some v → s.me.ticket = some t →
        ({ x with ticket := none, answer := none } : Strand).result d (.plain (v.setWidth 128)) = some z →
        exec (.launch g d a) s = .next (s.passed 4 z)) ∧
      (∀ bs s1, s.me.ticket = none → x.loadsPending = false → (s.setMe x).postsDone = true →
        (s.setMe x).homeRead (s.whoOf s.cur.1 s.cur.2) (r.has .local) r.addr 128 = .ok (bs, s1) → s1.cur = s.cur → s1.me = x →
        ∃ t, exec (.launch g d a) s = .next t ∧ t.me.st = .waiting ∧ t.me.ticket = some 0 ∧ t.me.pcc = s.me.pcc ∧
          (rd t.launch (Fin.ofNat 2 (dieOf s.cur.1))).reqs = (rd s1.launch (Fin.ofNat 2 (dieOf s.cur.1))).reqs ++
            [{ cap := r, host := false, sys := s.me.pcc.has .sys, asid := s.me.asid, core := s.cur.1, wid := s.me.work.wid }])) ∧
    exec (.launchPortWrite k addr) s = .next (s.askLaunch k
      { cap := .plain (addr.setWidth 128), host := true, sys := true, asid := 0, core := Fin.ofNat 384 (192 * k.val), wid := 0 }) ∧
    ((rd s.launch k).reqs = [] → exec (.launchValidation k) s = .next s) ∧
    ((rd s.launch k).reqs = q :: rest →
      let answer := fun (t : State) (v : Dbl) =>
        let t1 := ({ t with launch := wr t.launch k { rd t.launch k with reqs := rest } } : State).launchAnswer k q v
        Host.Outcome.next (if rest.isEmpty then t1 else t1.post 1000 (.launchValidation k))
      (∀ s1, s.launchRead q 0 128 = .error s1 → exec (.launchValidation k) s = answer s1 (BitVec.ofNat 64 (2 ^ 63 + 1))) ∧
      (∀ bs s1 items s2, s.launchRead q 0 128 = .ok (bs, s1) →
        let cfgn := ofBytes (((bs.drop 122).take 2).map (fun (b : RByte) => b.1))
        cfgn ≤ 1024 → s1.readItems q cfgn 128 = .ok (items, s2) →
        (∀ n, s2.launchCode k q bs (launchOf bs) cfgn items = some n →
          exec (.launchValidation k) s = answer s2 (BitVec.ofNat 64 (2 ^ 63 + n))) ∧
        (s2.launchCode k q bs (launchOf bs) cfgn items = none →
          (items.foldl (fun (s : State) i => s.flushItem (launchOf bs) i) s2 |> fun t => items.any (t.itemWaits (launchOf bs))) = true →
          exec (.launchValidation k) s =
            .next ((items.foldl (fun (s : State) i => s.flushItem (launchOf bs) i) s).post 1000 (.launchValidation k))) ∧
        (s2.launchCode k q bs (launchOf bs) cfgn items = none →
          (items.foldl (fun (s : State) i => s.flushItem (launchOf bs) i) s2 |> fun t => items.any (t.itemWaits (launchOf bs))) = false →
          exec (.launchValidation k) s = answer (s2.acceptLaunch k bs (launchOf bs) items).2
            ((s2.acceptLaunch k bs (launchOf bs) items).1.setWidth 64)))) ∧
    (s.dropHeads k 256 = s → s.nextQueue k = none → exec (.launchHeadTake k) s = .next s) ∧
    (∀ id t, s.dropHeads k 256 = s → s.nextQueue k = some p → rd (rd s.launch k).q p = [(id, t)] →
      let u := rd s.launch k
      let s1 : State := { s with launch := wr s.launch k { u with q := wr u.q p [] } }
      exec (.launchHeadTake k) s = .next ((match s.grid id with | some g => s1.placeGrid g | none => s1).post 500 (.launchHeadTake k)))

/-- Work that leaves and comes back: a slice that has not ended, and a team alone in its unit, stay (R345-R347); a
partition's period halts its cores for pre-emption and gives each its tick, period k + 1 follows at its own mark, the
budget runs from 10 µs after the mark for RBUD µs (R349); a pre-empted strand is saved once what it awaits has come, its
registers written to its area and its slot left (21 R384, R385), and comes back to its slot with the registers and
tokens of its image (R382, R384, R385). The layout of an image, and what is kept beside it, are log entries 9, 48 and
49. Errors: a core's hardware error ends the work of each of its slots as R351 says; a die's fatal fault ends every grid
with a core or a placed record on the die, each with one report; a report interrupts the application cores, and reports
leave GERR in their order (R351-R353). The delays until an event are the model's (log entry 4). Completes:
preemptionSave, strandRestore, teamSliceExpiry, partitionPeriodStart, partitionBudgetStart, partitionBudgetEnd,
coreHardwareError, dieFatalFault, gerrPop. -/
def Obligations.WorkIsPreemptedAndErrorsReported : Prop :=
  (∀ (s : State) (id : Word) (u : Nat) (g : Grid) (t : TeamUnit) (n : Nat) (i : Fin 4) (p : Partition) (c : CoreId) (k : SlotId)
       (v : Saved),
     (s.grid id = none → exec (.teamSliceExpiry id u) s = .next s) ∧
     (s.grid id = some g → g.units[u]? = some t → t.resident = some n →
       (g.teamDead n = false → t.stopping = false → s.dt < t.since + 1000 * g.r.slice →
         exec (.teamSliceExpiry id u) s = .next s) ∧
       (g.nextTeam u n = none → exec (.teamSliceExpiry id u) s = .next s) ∧
       (∀ m, g.teamDead n = true → g.nextTeam u n = some m → exec (.teamSliceExpiry id u) s = .next (s.bringIn g u m))) ∧
     (rd s.parts i = some p →
       let at' := p.rt0 + BitVec.ofNat 32 (p.k * p.rper)
       (∃ s1, exec (.partitionPeriodStart i) s = .next s1 ∧
         rd s1.parts i = some { p with k := p.k + 1, active := true } ∧
         (∀ c ∈ p.cores, (s1.core c).preempt = true) ∧
         (s.dt + s.untilMark (at' + 10), Instr.partitionBudgetStart i) ∈ s1.agenda ∧
         (s.dt + s.untilMark (at' + BitVec.ofNat 32 p.rper), Instr.partitionPeriodStart i) ∈ s1.agenda) ∧
       (let a := mkAep p.rch.val 3 (0x10C0 + i.val) 0 at' (BitVec.ofNat 32 p.k) 0
        let s1 : State := { s with parts := wr s.parts i (some { p with k := p.k + 1, active := true }) }
        let s2 := p.cores.foldl (fun (s : State) c => ((s.updCore c (fun (y : Core) => { y with preempt := true })).postOnce 10
          (.preemptionSave c)).sendPacket c (.slotTimer i) a []) s1
        exec (.partitionPeriodStart i) s = .next ((s2.post (s2.untilMark (at' + 10)) (.partitionBudgetStart i)).post
          (s2.untilMark (at' + BitVec.ofNat 32 p.rper)) (.partitionPeriodStart i))) ∧
       exec (.partitionBudgetStart i) s = .next (s.post
         (s.untilMark (p.rt0 + BitVec.ofNat 32 ((p.k - 1) * p.rper) + 10 + BitVec.ofNat 32 p.rbud)) (.partitionBudgetEnd i)) ∧
       let close := p.rt0 + BitVec.ofNat 32 ((p.k - 1) * p.rper) + 10 + BitVec.ofNat 32 p.rbud
       (tsLt s.now close = true → exec (.partitionBudgetEnd i) s = .next s) ∧
       (tsLt s.now close = false →
         ∃ s1, exec (.partitionBudgetEnd i) s = .next s1 ∧ rd s1.parts i = some { p with active := false })) ∧
     (let s1 := s.updCore c (fun (x : Core) => { x with preempt := true })
      let ks := (List.finRange 16).filter (fun k =>
        decide ((s1.strand c k).work.kind ≠ .none) && decide ((s1.strand c k).st ≠ .dormant) && s1.mustYield c (s1.strand c k).work)
      (s.house.frozen = true ∨ (∃ k ∈ ks, s1.canSave c k = false) →
        exec (.preemptionSave c) s = .next (s1.post 100 (.preemptionSave c))) ∧
      (s.house.frozen = false → (∀ k ∈ ks, s1.canSave c k = true) →
        let s2 := ks.foldl (fun (s : State) k => s.saveStrand c k ((s.core c).saveAt k) false) s1
        exec (.preemptionSave c) s = .next (ks.foldl (fun (s : State) k => s.postOnce 1000 (.strandRestore c k))
          ((s2.updCore c (fun (x : Core) => { x with preempt := false })).offer c))) ∧
      (s.house.frozen = false → ks = [] →
        exec (.preemptionSave c) s = .next ((s1.updCore c (fun (x : Core) => { x with preempt := false })).offer c))) ∧
     (let area := (s.core c).psave
      area.tag = true → area.hasAll [.ld, .st, .ldcap, .stcap, .eng] = true → area.inBounds area.addr.toNat 786432 = true →
       (s.core c).saveAt k = area.setAddr (area.addr + BitVec.ofNat 64 (49152 * k.val))) ∧
     (∀ (img : CVal) s2, img.tag = true → img.hasAll [.ld, .st, .ldcap, .stcap, .eng] = true → img.inBounds img.addr.toNat 49152 = true →
       let x := s.strand c k
       let who := imageWho c x
       let seen := s.liveAt who x.lvt x.pcc.addr
       let live := seen.1.withWins x.allWins
       let tiles := (List.finRange 8).filter (fun t => (rd (seen.2.core c).t t).holder == some k)
       let tokens := (List.finRange 8).flatMap (fun i => toBytes 16 ((rd x.tok i).word (seen.2.hbackOf c x.work.wid i)))
       let parts := (0, imageHead c k x.asid x.upcalls.toNat 0 0 x.pcc 0) :: x.imageParts live (seen.2.oldGuards who img) ++
         [(10592, tokens)] ++ (tiles.filter (fun t => fld live.t t.val 1 == 1)).map (fun t => (16384 + 4096 * t.val,
           (rd (seen.2.core c).t t).rows.toList.flatMap (fun (r : VReg) => toBytes 128 r.toNat)))
       seen.2.homeWrite who (img.has .local) (parts.map (fun p => (img.addr + BitVec.ofNat 64 p.1, p.2)))
         (x.imageTags live x.pcc img.addr) = .ok s2 →
       let y := { x with st := x.halt.getD x.st, halt := none, ending := none, fflags := 0, qstat := 0, engq := [] }
       s.saveStrand c k img false = (((s2.updCore c (fun (r : Core) => { r with saved := r.saved ++
         [{ slot := k, image := img, strand := y, tiles := tiles, cocoon := false, lost := false }] })).freeTiles c k).updStrand c k
           Strand.idle).offer c) ∧
     ((s.core c).saved = [] → exec (.strandRestore c k) s = .next s) ∧
     ((s.core c).saved.find? (fun (v : Saved) => v.slot == k && s.mayReturn c v) = some v → (s.strand c k).st = .dormant →
       exec (.strandRestore c k) s = .next (s.restoreStrand c k v)) ∧
     (∀ img s1 s2, v.lost = false → v.tiles = [] → v.strand.held = [] →
       (s.updCore c (fun (x : Core) => { x with saved := x.saved.erase v })).homeRead (imageWho c v.strand) (v.image.has .local)
         v.image.addr 10720 = .ok (img, s1) →
       s1.homeWrite (imageWho c v.strand) (v.image.has .local) [(v.image.addr + 3, [0])] [] = .ok s2 →
       let y := v.strand.fromImage img
       (s.restoreStrand c k v).strand c k = { y with
         readyAt := s2.dt, fflags := y.fflags ||| v.strand.fflags, qstat := y.qstat ||| v.strand.qstat
         engq := y.engq ++ v.strand.engq
         tok := vofFn (fun i => Token.ofWord (ofBytes (((img.drop (10592 + 16 * i.val)).take 16).map (fun (b : RByte) => b.1)))) })) ∧
  (∀ (s : State) (c : CoreId) (d : Fin 2) (e : Dbl) (l : List Dbl),
     exec (.coreHardwareError c) s = .next ((List.finRange 16).foldl (fun (s : State) k => s.hwEnd c k) s) ∧
     exec (.dieFatalFault d) s = .next ((s.grids.filter (fun (g : Grid) => !g.ended && s.gridOn g d)).foldl
       (fun (s : State) g => (s.killGrid g).report d g.id 0 0 5 0) s) ∧
     (rd s.gerr d = e :: l →
       exec (.gerrPop d) s = .next { s with gerr := wr s.gerr d l, gerrOvf := wr s.gerrOvf d false }) ∧
     (rd s.gerr d = [] → exec (.gerrPop d) s = .next s) ∧
     (∀ grid core slot cause retry, (rd s.gerr d).length < 16 →
       rd (s.report d grid core slot cause retry).gerr d = rd s.gerr d ++ [BitVec.ofNat 64
         (grid.toNat + 2 ^ 32 * core + 2 ^ 41 * slot + 2 ^ 45 * cause + 2 ^ 48 * min retry 3 + 2 ^ 63)] ∧
       (s.report d grid core slot cause retry).host.interrupts = s.host.interrupts + 1) ∧
     (∀ grid core slot cause retry, 16 ≤ (rd s.gerr d).length →
       rd (s.report d grid core slot cause retry).gerr d = rd s.gerr d ∧
       rd (s.report d grid core slot cause retry).gerrOvf d = true))

/-! ### The device's edges (22 R391-R407; 18 R334, R335) -/

/-- Bring-up and service: reset is left only with an accepted housekeeping image, else FAULT stands; a function becomes
ready once (log entry 60), and one that goes out of service leaves READY for OOS with a notice; a cluster's work ends or
goes to another, a UCIe port's traffic goes to the others, the window unit's windows are disabled (R391, R392, R406).
Power and temperature: the throttle level moves one step towards the limit and stands at 15 from 105 °C, both dies end
at 115 °C (R407). gPTP: the first lock sets the epoch, each sets the rate of DT, 500 ppm towards the grandmaster where
it is over 1 ms away and else one below that, a free value (log entry 59), and LOCK clears when it is lost (R403). The
delays until an event are the model's (log entry 4). Free values are the model's (log entry 13). Completes: reset,
functionReady, functionOutOfService, throttleTick, overtemperature, gptpSync, lockLost. -/
def Obligations.BringUpPowerAndTime : Prop :=
  ∀ (s : State) (img : FirmwareImage) (b : Fin 78) (power : BitVec 16) (temp : BitVec 8) (grand : BitVec 64),
    (let s1 := s.warm
     let good := imageOk img && ofBytes (part img.header 4 4) == 0
     exec (.reset img) s = .next (s1.updHouse (fun (h : House) =>
       if good then { h with inReset := false, fault := false, images := wr h.images 0 (some (Config.shake256 img.body)) }
       else { h with inReset := true, fault := true }))) ∧
    (s.house.inReset = true ∨ s.house.oos.getLsbD b.val = true ∨ s.house.ready.getLsbD b.val = true →
      exec (.functionReady b) s = .next s) ∧
    (s.house.inReset = false → s.house.oos.getLsbD b.val = false → s.house.ready.getLsbD b.val = false →
      ∃ t, exec (.functionReady b) s = .next t ∧ t.house.ready.getLsbD b.val = true ∧
        ∀ i, i ≠ b.val → t.house.ready.getLsbD i = s.house.ready.getLsbD i) ∧
    (s.house.oos.getLsbD b.val = true → exec (.functionOutOfService b) s = .next s) ∧
    (s.house.oos.getLsbD b.val = false → 24 ≤ b.val → ¬ (40 ≤ b.val ∧ b.val < 52) → b.val ≠ 77 →
      let s1 := s.updHouse (fun (h : House) => { h with
        ready := h.ready &&& ~~~((1 : Quad) <<< b.val), oos := h.oos ||| ((1 : Quad) <<< b.val) })
      exec (.functionOutOfService b) s =
        .next ((functionDies b.val).foldl (fun (s : State) d => s.notice d 4 (BitVec.ofNat 32 b.val)) s1)) ∧
    (s.house.oos.getLsbD b.val = false →
      let s1 := s.updHouse (fun (h : House) => { h with
        ready := h.ready &&& ~~~((1 : Quad) <<< b.val), oos := h.oos ||| ((1 : Quad) <<< b.val) })
      let s2 := (functionDies b.val).foldl (fun (s : State) d => s.notice d 4 (BitVec.ofNat 32 b.val)) s1
      (∀ h : b.val < 24, exec (.functionOutOfService b) s = .next (((((coresOf ⟨b.val, h⟩).foldl State.coreOut s2).queueOut
        ⟨b.val, h⟩).dropHeads 0 256).dropHeads 1 256)) ∧
      (40 ≤ b.val → b.val < 52 →
        ((∃ i, i < 12 ∧ s2.house.ready.getLsbD (40 + i) = true) →
          exec (.functionOutOfService b) s = .next (s2.postOnce 100 (.bridgeResend (Fin.ofNat 12 (b.val - 40))))) ∧
        ((∀ i, i < 12 → s2.house.ready.getLsbD (40 + i) = false) →
          exec (.functionOutOfService b) s = .next ((s2.grids.filter (fun (g : Grid) => !g.ended && s2.gridOn g 0 && s2.gridOn g 1)).foldl
            (fun (s : State) g => ((s.killGrid g).report 0 g.id 0 0 5 0).report 1 g.id 0 0 5 0) s2))) ∧
      (b.val = 77 → exec (.functionOutOfService b) s = .next { s2 with wins := vmap (fun (w : Win) =>
        { w with st := .disabled, pend := none, waitHomes := [], waitQueues := [], lag := [] }) s2.wins })) ∧
    (∀ q p : ClusterId, s.heirOf q = some p → p ≠ q → (s.queueOut q).cluster q = { s.cluster q with tq := [], tqWait := [] } ∧
      (s.queueOut q).cluster p = { s.cluster p with tqWait := (s.cluster p).tqWait ++ ((s.cluster q).tq ++ (s.cluster q).tqWait) }) ∧
    (let s1 := s.updHouse (fun (h : House) => { h with power := power.toNat })
     let n := s.house.level
     let lv := if 105 ≤ celsius s.house.temp then 15 else if 10 * s.house.pwrlim < power.toNat then min 15 (n + 1)
       else if power.toNat < 10 * s.house.pwrlim then n - 1 else n
     exec (.throttleTick power) s = .next (if n = lv then s1
       else ((s1.updHouse (fun (h : House) => { h with level := lv })).notice 0 1 (BitVec.ofNat 32 lv)).notice 1 1 (BitVec.ofNat 32 lv))) ∧
    (let s1 := s.updHouse (fun (h : House) => { h with temp := temp.toNat })
     let t := celsius temp.toNat
     let warn := fun (b : Bool) => ((s1.updHouse (fun (h : House) => { h with hot := b })).notice 0 2 (BitVec.ofInt 32 t)).notice 1 2
       (BitVec.ofInt 32 t)
     let s2 := if 100 < t ∧ s.house.hot = false then warn true else if t < 95 ∧ s.house.hot = true then warn false else s1
     let s3 := if 105 ≤ t ∧ s2.house.level ≠ 15 then
       ((s2.updHouse (fun (h : House) => { h with level := 15 })).notice 0 1 15).notice 1 1 15 else s2
     exec (.overtemperature temp) s = .next (if 115 ≤ t then (s3.dieFault 0).dieFault 1 else s3)) ∧
    (let dt : Dbl := BitVec.ofNat 64 s.dt
     let off := fun (e : Dbl) => (dt + e - grand).toInt
     let lock := fun (e : Dbl) => { s.updHouse (fun (h : House) => { h with
       dtepoch := e
       dtstat := BitVec.ofNat 64 (5 + (if 1000000 < off e ∨ off e < -1000000 then 2 else 0) +
         2 ^ 32 * (BitVec.ofInt 32 (max (-(2 ^ 31)) (min (2 ^ 31 - 1) (off e)))).toNat) }) with
       freshN := s.freshN + 1, dtSlew := slewFor (off e) (Config.freeValue s.freshN) }
     (s.house.dtstat.getLsbD 2 = false → exec (.gptpSync grand) s = .next (lock (grand - dt))) ∧
     (s.house.dtstat.getLsbD 2 = true → exec (.gptpSync grand) s = .next (lock s.house.dtepoch))) ∧
    exec .lockLost s = .next (s.updHouse (fun (h : House) => { h with dtstat := h.dtstat &&& ~~~(1 : Dbl) }))

/-- Sources outside the cores: a CSI-2 packet of a port's type whose checks pass gives its words in order, one that
fails is counted (R397); every valid sub-source of a port emits a watermark LAG behind now (R399); GPIO edges that a
pin's mode captures and its debounce admits, timers at each multiple of their period (R401), CAN FD frames that pass the
filter (R402) give one event each, and their units a watermark every 10 µs, a CAN FD controller's not after the start of
a frame under way (09 R227). Edges given with their time held, and how far each source's watermark stands, are log
entries 57 and 58. The delays until an event are the model's (log entry 4). Completes: csi2Packet, portWatermarkPeriod,
gpioEdge, gpioTimerPeriod, gpioWatermarkPeriod, canFrameEvent, canWatermarkPeriod. -/
def Obligations.EdgeSourcesEmitEvents : Prop :=
  ∀ (s : State) (p : Fin 8) (dtype : BitVec 6) (ok : Bool) (words : List Dbl) (i : Fin 32) (level : Bool) (edge held : Nat)
      (c : Fin 4) (f : CanFrame),
    (let up := s.house.ready.getLsbD (53 + p.val) && s.house.ready.getLsbD (64 + p.val) && (rd s.epcfg p).cfg.getLsbD 0
     (up = false ∨ df (rd s.epcfg p).cfg 2 6 ≠ dtype.toNat → exec (.csi2Packet p dtype ok words) s = .next s) ∧
     (up = true → df (rd s.epcfg p).cfg 2 6 = dtype.toNat →
       exec (.csi2Packet p dtype ok words) s = .next (if ok then words.foldl (fun (s : State) w => s.eventWord p w) s
         else s.updPort p (fun (x : EvPort) => { x with crce := hold 0xFFFF (x.crce + 1) }))) ∧
     let again := fun (s : State) => s.postOnce (10000 * df (rd s.epcfg p).cfg 8 14) (.portWatermarkPeriod p)
     ((rd s.epcfg p).cfg.getLsbD 0 = false → exec (.portWatermarkPeriod p) s = .next s) ∧
     ((rd s.epcfg p).cfg.getLsbD 0 = true → up = false → exec (.portWatermarkPeriod p) s = .next (again s)) ∧
     (up = true → (∀ j, (rd (rd s.epcfg p).src j).getLsbD 31 = false) → exec (.portWatermarkPeriod p) s = .next (again s)) ∧
     (∀ j : Fin 8, up = true → (∀ i, (rd (rd s.epcfg p).src i).getLsbD 31 = decide (i = j)) →
       let y := rd (rd s.epcfg p).sub j
       let w := s.now - BitVec.ofNat 32 (df (rd s.epcfg p).cfg 22 16)
       (∀ l, y.wm = some l → tsLt l w = true) →
       exec (.portWatermarkPeriod p) s = .next (again ((s.updPort p (fun (x : EvPort) =>
         { x with sub := wr x.sub j { y with wm := some w } })).routeMark (.port p)
           (BitVec.ofNat 16 (df (rd (rd s.epcfg p).src j) 0 16)) w)))) ∧
    (let x := rd s.gpcfg i
     let up := s.house.ready.getLsbD 76
     let emit := fun (ts val : Word) => s.sendPacket (Fin.ofNat 384 (df x 9 9)) (.gpio i)
       (mkAep (df x 3 6) 0 (0x1000 + i.val) 0 ts (BitVec.ofNat 32 i.val) val) []
     (up = true → x.getLsbD 2 = false → (if level then x.getLsbD 0 else x.getLsbD 1) = true → 10 * df x 18 10 ≤ held →
       exec (.gpioEdge i level edge held) s = .next (emit (BitVec.ofNat 32 (edge / 1000)) (if level then 1 else 0))) ∧
     (up = false ∨ x.getLsbD 2 = true ∨ (if level then x.getLsbD 0 else x.getLsbD 1) = false ∨ held < 10 * df x 18 10 →
       exec (.gpioEdge i level edge held) s = .next s) ∧
     (let n := rd s.gpNext i
      let per := df x 28 32
      (up = false ∨ df x 0 3 ≠ 7 → exec (.gpioTimerPeriod i) s = .next s) ∧
      (up = true → df x 0 3 = 7 → 1000 * n * per ≤ s.dt →
        exec (.gpioTimerPeriod i) s = .next (({ emit (BitVec.ofNat 32 (n * per)) (BitVec.ofNat 32 n) with
          gpNext := wr s.gpNext i (n + 1) } : State).postOnce (1000 * (n + 1) * per - s.dt) (.gpioTimerPeriod i)))) ∧
     (up = true → df x 0 2 ≠ 0 → exec (.gpioWatermarkPeriod i) s =
       .next ((s.routeMark (.gpio i) (BitVec.ofNat 16 (0x1000 + i.val)) (BitVec.ofNat 32 ((s.dt - 10 * df x 18 10) / 1000))).postOnce 10000
         (.gpioWatermarkPeriod i)))) ∧
    (let ev := rd s.canev c
     let flt := rd s.canflt c
     let up := s.house.ready.getLsbD (72 + c.val) && ev.getLsbD 0
     let wanted := !f.bad && (df ev 1 2 == 2 || (df ev 1 2 == 1) == f.ext) && (!f.remote || ev.getLsbD 3) &&
       Nat.land (Nat.xor f.ident.toNat (df flt 0 29)) (df flt 32 29) == 0
     let ended : State := { s with canSof := wr s.canSof c none }
     (up = true → wanted = true → exec (.canFrameEvent c f) s = .next (ended.sendPacket (Fin.ofNat 384 (df ev 10 9)) (.can c)
       (mkAep (df ev 4 6) 0 (0x1040 + c.val) 0 (BitVec.ofNat 32 (f.sof / 1000))
         (BitVec.ofNat 32 (f.ident.toNat + (if f.ext then 2 ^ 31 else 0))) (BitVec.ofNat 32 (ofBytes (f.data.take 4)))) [])) ∧
     (up = false ∨ wanted = false → exec (.canFrameEvent c f) s = .next ended) ∧
     (up = true → exec (.canWatermarkPeriod c) s =
       .next ((s.routeMark (.can c) (BitVec.ofNat 16 (0x1040 + c.val)) (match rd s.canSof c with
         | some t => BitVec.ofNat 32 (t / 1000)
         | none => s.now)).postOnce 10000 (.canWatermarkPeriod c))) ∧
     (up = false → exec (.canWatermarkPeriod c) s = .next s))

/-- Accesses from outside: an application core's load and store are performed at the byte's home, outside the map they
are bus errors; a PCIe write reaches the memory that an inbound window shows while its function is ready (R393-R395,
R405; 18 R334, R335); a home that is not ready answers with a bus error, or keeps a PCIe write out of its part (R386,
R392); a PCIe write to BAR0 writes the housekeeping space; a capability store writes CDATA with its tag, or is refused
for a tagged value with reserved bits, an exponent that no capability has, or an address outside memory (R396); the
attestation of a grid or of the images is written with its signature after its request, one of a record outside memory
or that cannot be read, or of a grid that does not stand, fails with its code (R406). What CSTAT reads then is log entry
61. The delays until an event are the model's (log entry 4). Free values are the model's (log entry 13). Completes:
capabilityStore, attestationRequest, appCoreAccess, pcieInboundWrite. -/
def Obligations.AccessesFromOutside : Prop :=
  ∀ (s : State) (x : AppAccess) (addr : Dbl) (a : Nat) (bs : List Byte) (relaxed : Bool),
    (x.addr < 2 ^ 48 → backed x.addr x.size = true → inDram x.addr x.size = true → s.homesReady x.addr x.size = true →
      (x.write = true → ∃ t, exec (.appCoreAccess x) s = .next t ∧
        t = { s.hostWrite x.addr (toBytes x.size x.data.toNat) with
          host := { (s.hostWrite x.addr (toBytes x.size x.data.toNat)).host with busError := false } }) ∧
      (x.write = false → poisoned s.poison x.addr x.size = false →
        exec (.appCoreAccess x) s = .next { s with
          host := { s.host with answer := BitVec.ofNat 128 (memNat s.mem x.addr x.size), busError := false } })) ∧
    (x.addr < 2 ^ 48 → backed x.addr x.size = true → inDram x.addr x.size = true → s.homesReady x.addr x.size = false →
      ∃ t, exec (.appCoreAccess x) s = .next t ∧ t.host.busError = true ∧ t.mem = s.mem) ∧
    (x.addr < 2 ^ 49 → inDram x.addr x.size = false → inSlice x.addr x.size = false →
      ∃ t, exec (.appCoreAccess x) s = .next t ∧ t.host.busError = true ∧ t.mem = s.mem) ∧
    (s.house.ready.getLsbD 63 = false → exec (.pcieInboundWrite a bs relaxed) s = .next s) ∧
    (s.house.ready.getLsbD 63 = true → a < 2 ^ 48 → s.shown a bs.length = true → backed a bs.length = true →
      exec (.pcieInboundWrite a bs relaxed) s = .next (s.inboundParts (partsOf (BitVec.ofNat 64 a) bs.length) bs)) ∧
    (∀ (v : Dbl) n ps, (s.homeReady v.toNat = true →
        s.inboundParts ((v, n) :: ps) bs = (s.hostWrite v.toNat (bs.take n)).inboundParts ps (bs.drop n)) ∧
      (s.homeReady v.toNat = false →
        ∃ t : State, s.inboundParts ((v, n) :: ps) bs = t.inboundParts ps (bs.drop n) ∧ t.mem = s.mem ∧ t.host.busError = true)) ∧
    (∀ s1, s.house.ready.getLsbD 63 = true → 2 ^ 49 ≤ a → bs ≠ [] → a % 16 + bs.length ≤ 16 →
      s.houseWrite (a - 2 ^ 49) bs.length (BitVec.ofNat 128 (ofBytes bs)) = some s1 →
      exec (.pcieInboundWrite a bs relaxed) s = .next s1) ∧
    (let at' := 16 * df addr 4 52
     let tag := addr.getLsbD 0
     let v := s.host.cdata
     let refused := (tag && qf v 114 14 != 0) || (decide (48 ≤ qf v 98 6) && decide (qf v 98 6 ≤ 62)) ||
       !(backed at' 16 || inSlice at' 16)
     (refused = true → exec (.capabilityStore addr) s = .next { s with host := { s.host with caddr := addr, cstat := 3 } }) ∧
     (refused = false → s.homesReady at' 16 = false →
       ∃ t, exec (.capabilityStore addr) s = .next t ∧ t.mem = s.mem ∧ t.tags = s.tags ∧ t.host.cstat = 3) ∧
     (refused = false → s.homesReady at' 16 = true → ∃ t, exec (.capabilityStore addr) s = .next t ∧
       t.mem = (s.hostWrite at' (toBytes 16 v.toNat)).mem ∧
       t.tags = tagSet (s.hostWrite at' (toBytes 16 v.toNat)).tags at' tag ∧ t.host.cstat = 1)) ∧
    (let fails := fun (code : Nat) => s.host.waiting = [] → exec (.attestationRequest addr) s =
       .next { s with host := { s.host with attest := BitVec.ofNat 64 (2 ^ 4 * code) } }
     let inside := backed addr.toNat 4096 || inSlice addr.toNat 4096
     let kind := ofBytes (((memRead s.mem addr.toNat 72).drop 64).take 4)
     let grid : Word := BitVec.ofNat 32 (ofBytes (((memRead s.mem addr.toNat 72).drop 68).take 4))
     let near := s.homesReady addr.toNat 4096 = true ∧ poisoned s.poison addr.toNat 72 = false
     (inside = false → fails 1) ∧
     (inside = true → near → 1 < kind → fails 1) ∧
     (inside = true → near → kind = 1 → (s.grid grid).all (fun (g : Grid) => g.ended) = true → fails 2) ∧
     (inside = true → ¬ near → s.host.waiting = [] →
       ∃ t, exec (.attestationRequest addr) s = .next t ∧ t.host.attest = 2 ^ 4 ∧ t.mem = s.mem) ∧
     (inside = true → near → s.host.waiting = [] →
       let f := fun (i : Nat) => Config.freeValue (s.freshN + i)
       let s1 : State := { s with freshN := s.freshN + 1 + 1 + 1 }
       let report := fun (d : List Byte) =>
         let body := (memRead s.mem addr.toNat 72).take 64 ++ (Config.shake256 Config.deviceKey ++ freeBytes (f 0) 64).take 64 ++
           (d ++ (freeBytes (f 0) 128 ++ freeBytes (f 1) 128 ++ freeBytes (f 2) 128)).take 384
         let t := s1.hostWrite (addr.toNat + 128) (body ++ (Config.mldsaSign body ++ freeBytes (f 1) 3309).take 3309)
         Host.Outcome.next { t with host := { t.host with attest := 0 } }
       (kind = 0 → exec (.attestationRequest addr) s =
         report (s.house.images.toList.flatMap (fun o => o.getD (freeBytes (f 0) 64)))) ∧
       (∀ g, kind = 1 → s.grid grid = some g → g.ended = false → exec (.attestationRequest addr) s = report g.digests)) ∧
     (∀ v vs, s.host.waiting = v :: vs → inside = false → exec (.attestationRequest addr) s =
       .next (State.post { s with host := { s.host with attest := 1, waiting := vs } } 1000 (.attestationRequest v))))

/-! ### The machine as a whole -/

/-- After reset only the housekeeping core runs: no function is ready or out of service, every slot is dormant, every
window disabled, every queue empty, device time stands at 0, and the registers of the parts hold their reset values
(R391, R203, R215, R217, R228, R245). Memory lists nothing, in its canonical form: that an unwritten byte reads 0, and
the registers that the spec gives no reset value, are the model's choice (log entries 1, 2). -/
def Obligations.ResetState : Prop :=
  let s := State.reset
  s.house.inReset = true ∧ s.house.ready = 0 ∧ s.house.oos = 0 ∧ s.house.pwrlim = 300 ∧ s.dt = 0 ∧ s.wgrace = 20 ∧
  s.lage = 10000 ∧ s.agenda = [] ∧ s.grids = [] ∧ s.ops = [] ∧ s.vers = [] ∧ s.mem = [] ∧ s.memoryOk = true ∧
  (∀ c : CoreId, (s.core c).hage = 1024 ∧ (s.core c).iage = 256 ∧ (s.core c).hmax = 16 ∧ (s.core c).last = 63 ∧
    (s.core c).inbox = [] ∧ ∀ i, (rd (s.core c).chan i).code.tag = false ∧ (rd (s.core c).chan i).masked = true) ∧
  (∀ (c : CoreId) (k : SlotId), (s.strand c k).st = .dormant ∧ (s.strand c k).tcause = 0 ∧
    ∀ i, (s.strand c k).creg i = .null) ∧
  (∀ q : ClusterId, (s.cluster q).ptr = 31 ∧ (s.cluster q).leases = [] ∧ (s.cluster q).tq = []) ∧
  (∀ k : Fin 32, (rd s.wins k).st = .disabled) ∧ (∀ d : Fin 8, (rd s.doms d).grid = none)

/-- A step runs the instruction that the bytes at PCC decode to. When the turn is a strand's, nothing holds it back, its
due windows are settled and the word at its PCC (with its literal) decodes to an instruction, the step is that
instruction's execution (R22-R24, R90); a strand that has sent a message, is being pre-empted, or performs posted
accesses again waits first. A fetch from a region of the core's own slice that permits execution reads the four bytes
there; words are little-endian (R18). -/
def Obligations.StepRunsTheDecodedInstruction : Prop :=
  (∀ (s s0 s2 s3 : State) (c : CoreId) (k : SlotId) (w lit n : Nat) (i : Instr),
    s.turn = (.strand c k, s0) →
    let s1 : State := { s0.updStrand c k (fun (x : Strand) => { x with readyAt := s0.dt, stalled := false }) with cur := (c, k) }
    (s1.me.st = .running ∨ s1.me.st = .waiting) → s1.me.sendWait = 0 → s1.stopped c k = false → s1.me.postErr = none →
    (s1.core c).wpath.any (fun p => p.slot == k && s1.me.redo.contains p.id) = false →
    s1.settleMe = .go s2 → s2.fetchInstr c k = .ok (w, lit, n, s3) → decode w lit = .ok i →
    step s = exec i s3) ∧
  (∀ (s : State) (c : CoreId) (k : SlotId) (pcc : CVal) (va : Dbl) (b : Bool),
    pcc.tag = true → pcc.has .exec = true → pcc.has .local = true → pcc.inBounds va.toNat 4 = true → va.toNat % 4 = 0 →
    va.toNat < sliceTop → s.inlineWords c k pcc = none → s.shownPosts c k = [] →
    (s.core c).protCheck (s.whoOf c k) va.toNat .exec = .ok b → poisoned s.poison (slicePhys c va.toNat) 4 = false →
    s.fetch c k pcc va = .ok (wordOfBytes (s.byteAt (slicePhys c va.toNat)) (s.byteAt (slicePhys c va.toNat + 1))
      (s.byteAt (slicePhys c va.toNat + 2)) (s.byteAt (slicePhys c va.toNat + 3)), s))

/-- Words written out from the spec's encodings decode to their instructions (R18, R33, R34): major in bits 28:22, guard
in 31:29, the fields of each format where R19 places them. -/
def Obligations.WordsDecode : Prop :=
  decode 0x00045061 0 = .ok (.sub 0 4 20 6) ∧ decode 0x20000000 0 = .ok (.add 1 0 0 0) ∧
  decode 0x00C41401 0 = .ok (.addImm 0 4 5 1) ∧ decode 0x00C41600 0x12345678 = .ok (.addImmLiteral 0 4 5 0x12345678) ∧
  decode 0x07400000 0 = .ok (.nop 0) ∧ decode 0x070603E8 0 = .ok (.rep 0 6 0x3E8) ∧ decode 0 0 = .error .zeroWord ∧
  decode 0x05C00000 0 = .error .unassignedMajor ∧ decode 0x0000000C 0 = .error .reserved

/-- Decoding and encoding agree: the bytes of a well-formed instruction's words, whatever follows them, decode to it,
with every operand at every value that the encoding admits (R18-R24, R33, R34). -/
def Obligations.DecodeOfEncode : Prop :=
  ∀ (i : Instr) (rest : List Byte), i.isWord = true → i.wellFormed = true →
    decodeBytes ((encode i).flatMap bytesOfWord ++ rest) = .ok (i, rest)

/-- An instruction that is guarded off only counts: whatever word decodes, with its guard false the strand passes it,
with its literal, and nothing else of the machine changes (R25, R26). -/
def Obligations.GuardedOffInstructionsOnlyCount : Prop :=
  ∀ (s : State) (w lit : Nat) (i : Instr), decode w lit = .ok i → s.me.guard (Fin.ofNat 8 (w / 2 ^ 29)) = false →
    exec i s = .next (s.passed (if hasLiteral w then 8 else 4) s.me)

/-- How a strand goes on after an instruction of `len` bytes: PCC's address rises by the length, an instruction at the
position of a repetition counts there, its last slot goes back to the first or ends it, and every window that stood
before counts one slot; a taken jump from inside the body ends the repetition (R23, R28, R32); one that a trap has set
aside stands still until `tret` comes back to its position (R94). A slot whose work the instruction itself has ended
stays dormant. -/
def Obligations.ExecutionAdvances : Prop :=
  ∀ (x : Strand) (pcc p : CVal) (len before : Nat) (r : Rep),
    let wins := x.wins.map (fun (w : Window) => if w.id < before then { w with left := w.left - 1 } else w)
    let next := pcc.addr + BitVec.ofNat 64 len
    let st := if x.st = SlotSt.dormant then SlotSt.dormant else SlotSt.running
    x.pass pcc none len before = { x with st := st, wins := wins, pcc := pcc.withAddr next } ∧
    (r.parked = true ∨ r.next ≠ pcc.addr →
      x.pass pcc (some r) len before = { x with st := st, wins := wins, pcc := pcc.withAddr next } ∧
      x.leap p (some r) pcc.addr before = { x with st := st, wins := wins, pcc := p }) ∧
    (r.parked = false → r.next = pcc.addr →
      (r.pos + 1 < r.len → x.pass pcc (some r) len before =
        { x with st := st, wins := wins, pcc := pcc.withAddr next, rep := some { r with pos := r.pos + 1, next := next } }) ∧
      (r.len ≤ r.pos + 1 → 1 < r.left → x.pass pcc (some r) len before =
        { x with st := st, wins := wins, pcc := pcc.withAddr r.start
                 rep := some { r with pos := 0, next := r.start, left := r.left - 1 } }) ∧
      (r.len ≤ r.pos + 1 → r.left ≤ 1 → x.pass pcc (some r) len before =
        { x with st := st, wins := wins, pcc := pcc.withAddr next, rep := none }) ∧
      x.leap p (some r) pcc.addr before = { x with st := st, wins := wins, pcc := p, rep := none }) ∧
    x.leap p none pcc.addr before = { x with st := st, wins := wins, pcc := p }

/-- Every step is taken: from every state, reachable or not, the machine goes on to a next state; nothing that it meets
is a fault or a refusal, for every trap and error has the effect that the spec gives it. -/
def Obligations.EveryStepIsTaken : Prop :=
 ∀ s : State, ∃ t, step s = .next t

/-- Memory keeps its canonical form: from every state whose memory, tags and uncorrectable words stand in rising order
with no unlisted value, a step leads to such a state. That this is how the model holds memory is its own choice (log
entry 1). -/
def Obligations.StepsKeepTheFormOfMemory : Prop :=
  ∀ s t : State, s.memoryOk = true → step s = .next t → t.memoryOk = true

/-- What the register instructions leave alone, trapping or not: all of memory, its tags and its errors; and, where a
trap goes to a handler, every other strand of the part, the strand's vector registers, guards, masks and geometry, every
c register but the destination, and, but for the floating-point instructions, FFLAGS; compares and guard instructions
write one guard alone (03 R65-R75, R77-R81, R88, R89; 01 R14). Stores outside a speculative task leave memory alone too
until they are performed at their homes (04 R106). Stores outside a speculative task, of registers, vectors, queues and
bursts, leave every byte and tag as it is: they stand on the write path until they are performed at their homes (04
R106). -/
def Obligations.InstructionFrames : Prop :=
  (∀ (s t : State) (g c h k : Fin 8) (d a b : Fin 64) (i : BitVec 10) (l : Word),
     let integer : List Instr :=
       [.add g d a b, .sub g d a b, .and g d a b, .or g d a b, .xor g d a b, .andn g d a b, .sll g d a b, .srl g d a b,
        .sra g d a b, .rot g d a b, .min g d a b, .max g d a b, .mul g d a b, .mulh g d a b, .mulhU g d a b, .div g d a b,
        .divU g d a b, .rem g d a b, .remU g d a b, .clz g d a, .popc g d a, .mov g d a, .sextB g d a, .sextH g d a,
        .sextW g d a, .zextB g d a, .zextH g d a, .zextW g d a, .addImm g d a i, .addImmLiteral g d a l, .andImm g d a i,
        .andImmLiteral g d a l, .orImm g d a i, .orImmLiteral g d a l, .xorImm g d a i, .xorImmLiteral g d a l, .sllImm g d a i,
        .srlImm g d a i, .sraImm g d a i, .rotImm g d a i, .li g d i, .liLiteral g d l, .cinc g d a b, .caddr g d a b,
        .cperm g d a b, .cbnd g d a b, .ctagc g d a, .cgetBase g d a, .cgetTop g d a, .cgetLen g d a, .cgetPerm g d a,
        .cgetTag g d a, .cincImm g d a i, .cincImmLiteral g d a l, .cbndImm g d a i, .cbndImmLiteral g d a l, .sel g d a b h]
     let float : List Instr :=
       [.fadd g d a b, .fsub g d a b, .fmul g d a b, .fdiv g d a b, .fmin g d a b, .fmax g d a b, .ffma g d a b, .ffmaN g d a b,
        .fsqrt g d a, .fcvtF32I64 g d a, .fcvtF32U64 g d a, .fcvtI64F32 g d a, .fcvtU64F32 g d a, .fcvtBf16F32 g d a,
        .fcvtF16F32 g d a, .fcvtF32Bf16 g d a, .fcvtF32F16 g d a]
     let guards : List (Instr × Fin 8) :=
       [(.cmp g c h a b, h), (.cmpAnd g c h a b, h), (.cmpOr g c h a b, h), (.cmpi g c h a i, h), (.cmpiLiteral g c h a l, h),
        (.fcmp g c h a b, h), (.gnot g h k, h), (.gand g h k c, h), (.gor g h k c, h)]
     (∀ j ∈ guards, exec j.1 s = .next t →
       t.mem = s.mem ∧ t.tags = s.tags ∧ t.poison = s.poison ∧
       (s.me.trapsTo = true →
         (∀ (c : CoreId) (k : SlotId), (c, k) ≠ s.cur → t.strand c k = s.strand c k) ∧
         t.me.c = s.me.c ∧ t.me.v = s.me.v ∧ t.me.m = s.me.m ∧ t.me.geo = s.me.geo ∧ t.me.xgeo = s.me.xgeo ∧
         t.clusters = s.clusters ∧ t.homes = s.homes ∧ (∀ r : Fin 8, r ≠ j.2 → t.me.guard r = s.me.guard r) ∧
         (j.1 ≠ .fcmp g c h a b → t.me.fflags = s.me.fflags))) ∧
     ∀ j ∈ integer ++ float, exec j s = .next t →
       t.mem = s.mem ∧ t.tags = s.tags ∧ t.poison = s.poison ∧
       (s.me.trapsTo = true →
         (∀ (c : CoreId) (k : SlotId), (c, k) ≠ s.cur → t.strand c k = s.strand c k) ∧
         t.me.v = s.me.v ∧ t.me.g = s.me.g ∧ t.me.m = s.me.m ∧ t.me.geo = s.me.geo ∧ t.me.xgeo = s.me.xgeo ∧
         (∀ r : Fin 64, r ≠ d → t.me.creg r = s.me.creg r) ∧ t.clusters = s.clusters ∧ t.homes = s.homes ∧
         (j ∈ integer → t.me.fflags = s.me.fflags))) ∧
  (∀ (s t : State) (g m : Fin 8) (r b o : Fin 64) (n : Fin 32) (e : Fin 4) (l : Word), s.specOf s.me = none →
     ∀ j ∈ ([.stB g r b o, .stH g r b o, .stW g r b o, .stD g r b o, .stQ g r b o, .stc g r b o, .stBLiteral g r b l,
         .stHLiteral g r b l, .stWLiteral g r b l, .stDLiteral g r b l, .stQLiteral g r b l, .stcLiteral g r b l,
         .stq g n b o, .stqLiteral g n b l, .stm g r b o, .vst g n b m o, .vstLiteral g n b m l, .vsts g n r b e,
         .vstx g n b n e] : List Instr),
       exec j s = .next t → t.mem = s.mem ∧ t.tags = s.tags ∧ t.poison = s.poison)

/-- `sel` copies all 128 bits and the tag of one of its sources, and writes nothing where its guard field is false,
whatever its selecting guard holds; fn bit 3 is reserved. Completes: sel. -/
def Obligations.SelectCopiesWhole : Prop :=
  (∀ (s : State) (g h : Fin 8) (d a b : Fin 64) (u v : CVal) (x y z : Strand),
    (s.me.guard g = true → s.me.source a = some (u, x) → x.source b = some (v, y) →
      y.result d (if s.me.guard h then u else v) = some z → exec (.sel g d a b h) s = .next (s.passed 4 z)) ∧
    (s.me.guard g = false → exec (.sel g d a b h) s = .next (s.passed 4 s.me))) ∧
  (∀ (g h : Fin 8) (d a b : Fin 64),
    encode (.sel g d a b h) = [g.val * 2 ^ 29 + 0x0F * 2 ^ 22 + d.val * 2 ^ 16 + a.val * 2 ^ 10 + b.val * 2 ^ 4 + h.val]) ∧
  (∀ w : Nat, majorOf w = 0x0F → fld w 3 1 = 1 → decode w 0 = .error .reserved)

/-- `nop` is the major 0x1D with all body bits 0; it changes nothing but that the strand has passed it, guarded or not.
Completes: nop. -/
def Obligations.NopCountsOneSlot : Prop :=
  (∀ (s : State) (g : Fin 8), exec (.nop g) s = .next (s.passed 4 s.me)) ∧
  (∀ g : Fin 8, decode (g.val * 2 ^ 29 + 0x07400000) 0 = .ok (.nop g)) ∧
  (∀ w : Nat, majorOf w = 0x1D → fld w 0 22 ≠ 0 → decode w 0 = .error .reserved)

/-! ### Capabilities are never forged (03 R66, R84-R89) -/

/-- No instruction of chapter 3 forges a reference: after one a tagged register is what it was, or is the destination of
one of the seven instructions that write tagged values, with a source that was tagged, permissions no wider than the
source's, bounds within the source's, and no reserved or flag bit that the source had not (R66); a `suspend` or `hend`
waits until no lookahead load stands open, and a `suspend` whose place cannot be written leaves the upcall's record, cut
from UAREA, in c56 (R381). -/
def Obligations.CapabilitiesOnlyNarrow : Prop :=
  let from' := fun (n c : CVal) => c.tag = true ∧ c.base ≤ n.base ∧ n.top ≤ c.top ∧
    (∀ p : Perm, n.has p = true → c.has p = true) ∧ (qf c.val 114 14 = 0 → qf n.val 114 14 = 0)
  ∀ (s t : State) (g c h k : Fin 8) (d a b : Fin 64) (i : BitVec 10) (l : Word) (o : Fin 4194304) (o' : Fin 262144) (n : Fin 512), s.me.trapsTo = true →
    (∀ j ∈ ([.add g d a b, .sub g d a b, .and g d a b, .or g d a b, .xor g d a b, .andn g d a b, .sll g d a b, .srl g d a b,
        .sra g d a b, .rot g d a b, .min g d a b, .max g d a b, .mul g d a b, .mulh g d a b, .mulhU g d a b, .div g d a b,
        .divU g d a b, .rem g d a b, .remU g d a b, .clz g d a, .popc g d a, .sextB g d a, .sextH g d a,
        .sextW g d a, .zextB g d a, .zextH g d a, .zextW g d a, .addImm g d a i, .addImmLiteral g d a l, .andImm g d a i,
        .andImmLiteral g d a l, .orImm g d a i, .orImmLiteral g d a l, .xorImm g d a i, .xorImmLiteral g d a l,
        .sllImm g d a i, .srlImm g d a i, .sraImm g d a i, .rotImm g d a i, .li g d i, .liLiteral g d l, .ctagc g d a,
        .cgetBase g d a, .cgetTop g d a, .cgetLen g d a, .cgetPerm g d a, .cgetTag g d a, .fadd g d a b, .fsub g d a b,
        .fmul g d a b, .fdiv g d a b, .fmin g d a b, .fmax g d a b, .ffma g d a b, .ffmaN g d a b, .fsqrt g d a,
        .fcvtF32I64 g d a, .fcvtF32U64 g d a, .fcvtI64F32 g d a, .fcvtU64F32 g d a, .fcvtBf16F32 g d a, .fcvtF16F32 g d a,
        .fcvtF32Bf16 g d a, .fcvtF32F16 g d a, .cmp g c h a b, .cmpAnd g c h a b, .cmpOr g c h a b, .cmpi g c h a i,
        .cmpiLiteral g c h a l, .fcmp g c h a b, .gnot g h k, .gand g h k c, .gor g h k c, .nop g, .j g o, .jr g a, .ret g,
        .bgF g h o', .bgT g h o', .rep g a i, .repLiteral g a l, .repReg g a b, .trap g n] : List Instr),
      exec j s = .next t → ∀ r, (t.me.creg r).tag = true → t.me.creg r = s.me.creg r) ∧
    (∀ j ∈ ([.mov g d a, .cbnd g d a b, .cbndImm g d a i, .cbndImmLiteral g d a l, .cinc g d a b, .cincImm g d a i,
        .cincImmLiteral g d a l, .caddr g d a b, .cperm g d a b] : List Instr),
      exec j s = .next t → ∀ r, (t.me.creg r).tag = true →
        t.me.creg r = s.me.creg r ∨ (r = d ∧ from' (t.me.creg r) (s.me.creg a))) ∧
    (exec (.sel g d a b h) s = .next t → ∀ r, (t.me.creg r).tag = true →
      t.me.creg r = s.me.creg r ∨ (r = d ∧ (from' (t.me.creg r) (s.me.creg a) ∨ from' (t.me.creg r) (s.me.creg b)))) ∧
    (exec (.call g o) s = .next t → ∀ r, (t.me.creg r).tag = true →
      t.me.creg r = s.me.creg r ∨ (r = 1 ∧ from' (t.me.creg r) s.me.pcc)) ∧
    (s.me.wins = [] → s.me.kept = [] →
      (exec (.hend g) s = .next t → ∀ r, (t.me.creg r).tag = true → t.me.creg r = s.me.creg r) ∧
      (exec (.suspend g a b) s = .next t → ∀ r, (t.me.creg r).tag = true →
        t.me.creg r = s.me.creg r ∨ (r = 56 ∧ from' (t.me.creg r) s.me.uarea)))
end

