-- ==== Sys2Proof/Laws/State.lean ====
section
/-! SUPPORT. What each update of the state leaves: one lemma per field and update, and what a part reads as after it has
been stored. -/

namespace Sys2Proof.Machine

/-! ### Storing a core -/

@[simp] theorem setCore_clusters (s : State) (c : CoreId) (x : Core) : (s.setCore c x).clusters = s.clusters := rfl
@[simp] theorem setCore_homes (s : State) (c : CoreId) (x : Core) : (s.setCore c x).homes = s.homes := rfl
@[simp] theorem setCore_mem (s : State) (c : CoreId) (x : Core) : (s.setCore c x).mem = s.mem := rfl
@[simp] theorem setCore_tags (s : State) (c : CoreId) (x : Core) : (s.setCore c x).tags = s.tags := rfl
@[simp] theorem setCore_poison (s : State) (c : CoreId) (x : Core) : (s.setCore c x).poison = s.poison := rfl
@[simp] theorem setCore_joined (s : State) (c : CoreId) (x : Core) : (s.setCore c x).joined = s.joined := rfl
@[simp] theorem setCore_wins (s : State) (c : CoreId) (x : Core) : (s.setCore c x).wins = s.wins := rfl
@[simp] theorem setCore_wmarks (s : State) (c : CoreId) (x : Core) : (s.setCore c x).wmarks = s.wmarks := rfl
@[simp] theorem setCore_wgrace (s : State) (c : CoreId) (x : Core) : (s.setCore c x).wgrace = s.wgrace := rfl
@[simp] theorem setCore_lage (s : State) (c : CoreId) (x : Core) : (s.setCore c x).lage = s.lage := rfl
@[simp] theorem setCore_atbase (s : State) (c : CoreId) (x : Core) : (s.setCore c x).atbase = s.atbase := rfl
@[simp] theorem setCore_pgarea (s : State) (c : CoreId) (x : Core) : (s.setCore c x).pgarea = s.pgarea := rfl
@[simp] theorem setCore_epcfg (s : State) (c : CoreId) (x : Core) : (s.setCore c x).epcfg = s.epcfg := rfl
@[simp] theorem setCore_gpcfg (s : State) (c : CoreId) (x : Core) : (s.setCore c x).gpcfg = s.gpcfg := rfl
@[simp] theorem setCore_gpNext (s : State) (c : CoreId) (x : Core) : (s.setCore c x).gpNext = s.gpNext := rfl
@[simp] theorem setCore_canev (s : State) (c : CoreId) (x : Core) : (s.setCore c x).canev = s.canev := rfl
@[simp] theorem setCore_canflt (s : State) (c : CoreId) (x : Core) : (s.setCore c x).canflt = s.canflt := rfl
@[simp] theorem setCore_canSof (s : State) (c : CoreId) (x : Core) : (s.setCore c x).canSof = s.canSof := rfl
@[simp] theorem setCore_doms (s : State) (c : CoreId) (x : Core) : (s.setCore c x).doms = s.doms := rfl
@[simp] theorem setCore_vers (s : State) (c : CoreId) (x : Core) : (s.setCore c x).vers = s.vers := rfl
@[simp] theorem setCore_vwait (s : State) (c : CoreId) (x : Core) : (s.setCore c x).vwait = s.vwait := rfl
@[simp] theorem setCore_detWin (s : State) (c : CoreId) (x : Core) : (s.setCore c x).detWin = s.detWin := rfl
@[simp] theorem setCore_parked (s : State) (c : CoreId) (x : Core) : (s.setCore c x).parked = s.parked := rfl
@[simp] theorem setCore_launch (s : State) (c : CoreId) (x : Core) : (s.setCore c x).launch = s.launch := rfl
@[simp] theorem setCore_grids (s : State) (c : CoreId) (x : Core) : (s.setCore c x).grids = s.grids := rfl
@[simp] theorem setCore_parts (s : State) (c : CoreId) (x : Core) : (s.setCore c x).parts = s.parts := rfl
@[simp] theorem setCore_gerr (s : State) (c : CoreId) (x : Core) : (s.setCore c x).gerr = s.gerr := rfl
@[simp] theorem setCore_gerrOvf (s : State) (c : CoreId) (x : Core) : (s.setCore c x).gerrOvf = s.gerrOvf := rfl
@[simp] theorem setCore_pggrow (s : State) (c : CoreId) (x : Core) : (s.setCore c x).pggrow = s.pggrow := rfl
@[simp] theorem setCore_sysnc (s : State) (c : CoreId) (x : Core) : (s.setCore c x).sysnc = s.sysnc := rfl
@[simp] theorem setCore_ops (s : State) (c : CoreId) (x : Core) : (s.setCore c x).ops = s.ops := rfl
@[simp] theorem setCore_bridges (s : State) (c : CoreId) (x : Core) : (s.setCore c x).bridges = s.bridges := rfl
@[simp] theorem setCore_host (s : State) (c : CoreId) (x : Core) : (s.setCore c x).host = s.host := rfl
@[simp] theorem setCore_house (s : State) (c : CoreId) (x : Core) : (s.setCore c x).house = s.house := rfl
@[simp] theorem setCore_dt (s : State) (c : CoreId) (x : Core) : (s.setCore c x).dt = s.dt := rfl
@[simp] theorem setCore_dtRate (s : State) (c : CoreId) (x : Core) : (s.setCore c x).dtRate = s.dtRate := rfl
@[simp] theorem setCore_dtSlew (s : State) (c : CoreId) (x : Core) : (s.setCore c x).dtSlew = s.dtSlew := rfl
@[simp] theorem setCore_dtFrac (s : State) (c : CoreId) (x : Core) : (s.setCore c x).dtFrac = s.dtFrac := rfl
@[simp] theorem setCore_cur (s : State) (c : CoreId) (x : Core) : (s.setCore c x).cur = s.cur := rfl
@[simp] theorem setCore_nextId (s : State) (c : CoreId) (x : Core) : (s.setCore c x).nextId = s.nextId := rfl
@[simp] theorem setCore_freshN (s : State) (c : CoreId) (x : Core) : (s.setCore c x).freshN = s.freshN := rfl
@[simp] theorem setCore_agenda (s : State) (c : CoreId) (x : Core) : (s.setCore c x).agenda = s.agenda := rfl
@[simp] theorem setCore_sched (s : State) (c : CoreId) (x : Core) : (s.setCore c x).sched = s.sched := rfl

/-! ### Changing a core -/

@[simp] theorem updCore_clusters (s : State) (c : CoreId) (f : Core → Core) : (s.updCore c f).clusters = s.clusters := rfl
@[simp] theorem updCore_homes (s : State) (c : CoreId) (f : Core → Core) : (s.updCore c f).homes = s.homes := rfl
@[simp] theorem updCore_mem (s : State) (c : CoreId) (f : Core → Core) : (s.updCore c f).mem = s.mem := rfl
@[simp] theorem updCore_tags (s : State) (c : CoreId) (f : Core → Core) : (s.updCore c f).tags = s.tags := rfl
@[simp] theorem updCore_poison (s : State) (c : CoreId) (f : Core → Core) : (s.updCore c f).poison = s.poison := rfl
@[simp] theorem updCore_joined (s : State) (c : CoreId) (f : Core → Core) : (s.updCore c f).joined = s.joined := rfl
@[simp] theorem updCore_wins (s : State) (c : CoreId) (f : Core → Core) : (s.updCore c f).wins = s.wins := rfl
@[simp] theorem updCore_wmarks (s : State) (c : CoreId) (f : Core → Core) : (s.updCore c f).wmarks = s.wmarks := rfl
@[simp] theorem updCore_wgrace (s : State) (c : CoreId) (f : Core → Core) : (s.updCore c f).wgrace = s.wgrace := rfl
@[simp] theorem updCore_lage (s : State) (c : CoreId) (f : Core → Core) : (s.updCore c f).lage = s.lage := rfl
@[simp] theorem updCore_atbase (s : State) (c : CoreId) (f : Core → Core) : (s.updCore c f).atbase = s.atbase := rfl
@[simp] theorem updCore_pgarea (s : State) (c : CoreId) (f : Core → Core) : (s.updCore c f).pgarea = s.pgarea := rfl
@[simp] theorem updCore_epcfg (s : State) (c : CoreId) (f : Core → Core) : (s.updCore c f).epcfg = s.epcfg := rfl
@[simp] theorem updCore_gpcfg (s : State) (c : CoreId) (f : Core → Core) : (s.updCore c f).gpcfg = s.gpcfg := rfl
@[simp] theorem updCore_gpNext (s : State) (c : CoreId) (f : Core → Core) : (s.updCore c f).gpNext = s.gpNext := rfl
@[simp] theorem updCore_canev (s : State) (c : CoreId) (f : Core → Core) : (s.updCore c f).canev = s.canev := rfl
@[simp] theorem updCore_canflt (s : State) (c : CoreId) (f : Core → Core) : (s.updCore c f).canflt = s.canflt := rfl
@[simp] theorem updCore_canSof (s : State) (c : CoreId) (f : Core → Core) : (s.updCore c f).canSof = s.canSof := rfl
@[simp] theorem updCore_doms (s : State) (c : CoreId) (f : Core → Core) : (s.updCore c f).doms = s.doms := rfl
@[simp] theorem updCore_vers (s : State) (c : CoreId) (f : Core → Core) : (s.updCore c f).vers = s.vers := rfl
@[simp] theorem updCore_vwait (s : State) (c : CoreId) (f : Core → Core) : (s.updCore c f).vwait = s.vwait := rfl
@[simp] theorem updCore_detWin (s : State) (c : CoreId) (f : Core → Core) : (s.updCore c f).detWin = s.detWin := rfl
@[simp] theorem updCore_parked (s : State) (c : CoreId) (f : Core → Core) : (s.updCore c f).parked = s.parked := rfl
@[simp] theorem updCore_launch (s : State) (c : CoreId) (f : Core → Core) : (s.updCore c f).launch = s.launch := rfl
@[simp] theorem updCore_grids (s : State) (c : CoreId) (f : Core → Core) : (s.updCore c f).grids = s.grids := rfl
@[simp] theorem updCore_parts (s : State) (c : CoreId) (f : Core → Core) : (s.updCore c f).parts = s.parts := rfl
@[simp] theorem updCore_gerr (s : State) (c : CoreId) (f : Core → Core) : (s.updCore c f).gerr = s.gerr := rfl
@[simp] theorem updCore_gerrOvf (s : State) (c : CoreId) (f : Core → Core) : (s.updCore c f).gerrOvf = s.gerrOvf := rfl
@[simp] theorem updCore_pggrow (s : State) (c : CoreId) (f : Core → Core) : (s.updCore c f).pggrow = s.pggrow := rfl
@[simp] theorem updCore_sysnc (s : State) (c : CoreId) (f : Core → Core) : (s.updCore c f).sysnc = s.sysnc := rfl
@[simp] theorem updCore_ops (s : State) (c : CoreId) (f : Core → Core) : (s.updCore c f).ops = s.ops := rfl
@[simp] theorem updCore_bridges (s : State) (c : CoreId) (f : Core → Core) : (s.updCore c f).bridges = s.bridges := rfl
@[simp] theorem updCore_host (s : State) (c : CoreId) (f : Core → Core) : (s.updCore c f).host = s.host := rfl
@[simp] theorem updCore_house (s : State) (c : CoreId) (f : Core → Core) : (s.updCore c f).house = s.house := rfl
@[simp] theorem updCore_dt (s : State) (c : CoreId) (f : Core → Core) : (s.updCore c f).dt = s.dt := rfl
@[simp] theorem updCore_dtRate (s : State) (c : CoreId) (f : Core → Core) : (s.updCore c f).dtRate = s.dtRate := rfl
@[simp] theorem updCore_dtSlew (s : State) (c : CoreId) (f : Core → Core) : (s.updCore c f).dtSlew = s.dtSlew := rfl
@[simp] theorem updCore_dtFrac (s : State) (c : CoreId) (f : Core → Core) : (s.updCore c f).dtFrac = s.dtFrac := rfl
@[simp] theorem updCore_cur (s : State) (c : CoreId) (f : Core → Core) : (s.updCore c f).cur = s.cur := rfl
@[simp] theorem updCore_nextId (s : State) (c : CoreId) (f : Core → Core) : (s.updCore c f).nextId = s.nextId := rfl
@[simp] theorem updCore_freshN (s : State) (c : CoreId) (f : Core → Core) : (s.updCore c f).freshN = s.freshN := rfl
@[simp] theorem updCore_agenda (s : State) (c : CoreId) (f : Core → Core) : (s.updCore c f).agenda = s.agenda := rfl
@[simp] theorem updCore_sched (s : State) (c : CoreId) (f : Core → Core) : (s.updCore c f).sched = s.sched := rfl

/-! ### Storing a strand -/

@[simp] theorem setStrand_clusters (s : State) (c : CoreId) (k : SlotId) (x : Strand) : (s.setStrand c k x).clusters = s.clusters := rfl
@[simp] theorem setStrand_homes (s : State) (c : CoreId) (k : SlotId) (x : Strand) : (s.setStrand c k x).homes = s.homes := rfl
@[simp] theorem setStrand_mem (s : State) (c : CoreId) (k : SlotId) (x : Strand) : (s.setStrand c k x).mem = s.mem := rfl
@[simp] theorem setStrand_tags (s : State) (c : CoreId) (k : SlotId) (x : Strand) : (s.setStrand c k x).tags = s.tags := rfl
@[simp] theorem setStrand_poison (s : State) (c : CoreId) (k : SlotId) (x : Strand) : (s.setStrand c k x).poison = s.poison := rfl
@[simp] theorem setStrand_joined (s : State) (c : CoreId) (k : SlotId) (x : Strand) : (s.setStrand c k x).joined = s.joined := rfl
@[simp] theorem setStrand_wins (s : State) (c : CoreId) (k : SlotId) (x : Strand) : (s.setStrand c k x).wins = s.wins := rfl
@[simp] theorem setStrand_wmarks (s : State) (c : CoreId) (k : SlotId) (x : Strand) : (s.setStrand c k x).wmarks = s.wmarks := rfl
@[simp] theorem setStrand_wgrace (s : State) (c : CoreId) (k : SlotId) (x : Strand) : (s.setStrand c k x).wgrace = s.wgrace := rfl
@[simp] theorem setStrand_lage (s : State) (c : CoreId) (k : SlotId) (x : Strand) : (s.setStrand c k x).lage = s.lage := rfl
@[simp] theorem setStrand_atbase (s : State) (c : CoreId) (k : SlotId) (x : Strand) : (s.setStrand c k x).atbase = s.atbase := rfl
@[simp] theorem setStrand_pgarea (s : State) (c : CoreId) (k : SlotId) (x : Strand) : (s.setStrand c k x).pgarea = s.pgarea := rfl
@[simp] theorem setStrand_epcfg (s : State) (c : CoreId) (k : SlotId) (x : Strand) : (s.setStrand c k x).epcfg = s.epcfg := rfl
@[simp] theorem setStrand_gpcfg (s : State) (c : CoreId) (k : SlotId) (x : Strand) : (s.setStrand c k x).gpcfg = s.gpcfg := rfl
@[simp] theorem setStrand_gpNext (s : State) (c : CoreId) (k : SlotId) (x : Strand) : (s.setStrand c k x).gpNext = s.gpNext := rfl
@[simp] theorem setStrand_canev (s : State) (c : CoreId) (k : SlotId) (x : Strand) : (s.setStrand c k x).canev = s.canev := rfl
@[simp] theorem setStrand_canflt (s : State) (c : CoreId) (k : SlotId) (x : Strand) : (s.setStrand c k x).canflt = s.canflt := rfl
@[simp] theorem setStrand_canSof (s : State) (c : CoreId) (k : SlotId) (x : Strand) : (s.setStrand c k x).canSof = s.canSof := rfl
@[simp] theorem setStrand_doms (s : State) (c : CoreId) (k : SlotId) (x : Strand) : (s.setStrand c k x).doms = s.doms := rfl
@[simp] theorem setStrand_vers (s : State) (c : CoreId) (k : SlotId) (x : Strand) : (s.setStrand c k x).vers = s.vers := rfl
@[simp] theorem setStrand_vwait (s : State) (c : CoreId) (k : SlotId) (x : Strand) : (s.setStrand c k x).vwait = s.vwait := rfl
@[simp] theorem setStrand_detWin (s : State) (c : CoreId) (k : SlotId) (x : Strand) : (s.setStrand c k x).detWin = s.detWin := rfl
@[simp] theorem setStrand_parked (s : State) (c : CoreId) (k : SlotId) (x : Strand) : (s.setStrand c k x).parked = s.parked := rfl
@[simp] theorem setStrand_launch (s : State) (c : CoreId) (k : SlotId) (x : Strand) : (s.setStrand c k x).launch = s.launch := rfl
@[simp] theorem setStrand_grids (s : State) (c : CoreId) (k : SlotId) (x : Strand) : (s.setStrand c k x).grids = s.grids := rfl
@[simp] theorem setStrand_parts (s : State) (c : CoreId) (k : SlotId) (x : Strand) : (s.setStrand c k x).parts = s.parts := rfl
@[simp] theorem setStrand_gerr (s : State) (c : CoreId) (k : SlotId) (x : Strand) : (s.setStrand c k x).gerr = s.gerr := rfl
@[simp] theorem setStrand_gerrOvf (s : State) (c : CoreId) (k : SlotId) (x : Strand) : (s.setStrand c k x).gerrOvf = s.gerrOvf := rfl
@[simp] theorem setStrand_pggrow (s : State) (c : CoreId) (k : SlotId) (x : Strand) : (s.setStrand c k x).pggrow = s.pggrow := rfl
@[simp] theorem setStrand_sysnc (s : State) (c : CoreId) (k : SlotId) (x : Strand) : (s.setStrand c k x).sysnc = s.sysnc := rfl
@[simp] theorem setStrand_ops (s : State) (c : CoreId) (k : SlotId) (x : Strand) : (s.setStrand c k x).ops = s.ops := rfl
@[simp] theorem setStrand_bridges (s : State) (c : CoreId) (k : SlotId) (x : Strand) : (s.setStrand c k x).bridges = s.bridges := rfl
@[simp] theorem setStrand_host (s : State) (c : CoreId) (k : SlotId) (x : Strand) : (s.setStrand c k x).host = s.host := rfl
@[simp] theorem setStrand_house (s : State) (c : CoreId) (k : SlotId) (x : Strand) : (s.setStrand c k x).house = s.house := rfl
@[simp] theorem setStrand_dt (s : State) (c : CoreId) (k : SlotId) (x : Strand) : (s.setStrand c k x).dt = s.dt := rfl
@[simp] theorem setStrand_dtRate (s : State) (c : CoreId) (k : SlotId) (x : Strand) : (s.setStrand c k x).dtRate = s.dtRate := rfl
@[simp] theorem setStrand_dtSlew (s : State) (c : CoreId) (k : SlotId) (x : Strand) : (s.setStrand c k x).dtSlew = s.dtSlew := rfl
@[simp] theorem setStrand_dtFrac (s : State) (c : CoreId) (k : SlotId) (x : Strand) : (s.setStrand c k x).dtFrac = s.dtFrac := rfl
@[simp] theorem setStrand_cur (s : State) (c : CoreId) (k : SlotId) (x : Strand) : (s.setStrand c k x).cur = s.cur := rfl
@[simp] theorem setStrand_nextId (s : State) (c : CoreId) (k : SlotId) (x : Strand) : (s.setStrand c k x).nextId = s.nextId := rfl
@[simp] theorem setStrand_freshN (s : State) (c : CoreId) (k : SlotId) (x : Strand) : (s.setStrand c k x).freshN = s.freshN := rfl
@[simp] theorem setStrand_agenda (s : State) (c : CoreId) (k : SlotId) (x : Strand) : (s.setStrand c k x).agenda = s.agenda := rfl
@[simp] theorem setStrand_sched (s : State) (c : CoreId) (k : SlotId) (x : Strand) : (s.setStrand c k x).sched = s.sched := rfl

/-! ### Changing a strand -/

@[simp] theorem updStrand_clusters (s : State) (c : CoreId) (k : SlotId) (f : Strand → Strand) : (s.updStrand c k f).clusters = s.clusters := rfl
@[simp] theorem updStrand_homes (s : State) (c : CoreId) (k : SlotId) (f : Strand → Strand) : (s.updStrand c k f).homes = s.homes := rfl
@[simp] theorem updStrand_mem (s : State) (c : CoreId) (k : SlotId) (f : Strand → Strand) : (s.updStrand c k f).mem = s.mem := rfl
@[simp] theorem updStrand_tags (s : State) (c : CoreId) (k : SlotId) (f : Strand → Strand) : (s.updStrand c k f).tags = s.tags := rfl
@[simp] theorem updStrand_poison (s : State) (c : CoreId) (k : SlotId) (f : Strand → Strand) : (s.updStrand c k f).poison = s.poison := rfl
@[simp] theorem updStrand_joined (s : State) (c : CoreId) (k : SlotId) (f : Strand → Strand) : (s.updStrand c k f).joined = s.joined := rfl
@[simp] theorem updStrand_wins (s : State) (c : CoreId) (k : SlotId) (f : Strand → Strand) : (s.updStrand c k f).wins = s.wins := rfl
@[simp] theorem updStrand_wmarks (s : State) (c : CoreId) (k : SlotId) (f : Strand → Strand) : (s.updStrand c k f).wmarks = s.wmarks := rfl
@[simp] theorem updStrand_wgrace (s : State) (c : CoreId) (k : SlotId) (f : Strand → Strand) : (s.updStrand c k f).wgrace = s.wgrace := rfl
@[simp] theorem updStrand_lage (s : State) (c : CoreId) (k : SlotId) (f : Strand → Strand) : (s.updStrand c k f).lage = s.lage := rfl
@[simp] theorem updStrand_atbase (s : State) (c : CoreId) (k : SlotId) (f : Strand → Strand) : (s.updStrand c k f).atbase = s.atbase := rfl
@[simp] theorem updStrand_pgarea (s : State) (c : CoreId) (k : SlotId) (f : Strand → Strand) : (s.updStrand c k f).pgarea = s.pgarea := rfl
@[simp] theorem updStrand_epcfg (s : State) (c : CoreId) (k : SlotId) (f : Strand → Strand) : (s.updStrand c k f).epcfg = s.epcfg := rfl
@[simp] theorem updStrand_gpcfg (s : State) (c : CoreId) (k : SlotId) (f : Strand → Strand) : (s.updStrand c k f).gpcfg = s.gpcfg := rfl
@[simp] theorem updStrand_gpNext (s : State) (c : CoreId) (k : SlotId) (f : Strand → Strand) : (s.updStrand c k f).gpNext = s.gpNext := rfl
@[simp] theorem updStrand_canev (s : State) (c : CoreId) (k : SlotId) (f : Strand → Strand) : (s.updStrand c k f).canev = s.canev := rfl
@[simp] theorem updStrand_canflt (s : State) (c : CoreId) (k : SlotId) (f : Strand → Strand) : (s.updStrand c k f).canflt = s.canflt := rfl
@[simp] theorem updStrand_canSof (s : State) (c : CoreId) (k : SlotId) (f : Strand → Strand) : (s.updStrand c k f).canSof = s.canSof := rfl
@[simp] theorem updStrand_doms (s : State) (c : CoreId) (k : SlotId) (f : Strand → Strand) : (s.updStrand c k f).doms = s.doms := rfl
@[simp] theorem updStrand_vers (s : State) (c : CoreId) (k : SlotId) (f : Strand → Strand) : (s.updStrand c k f).vers = s.vers := rfl
@[simp] theorem updStrand_vwait (s : State) (c : CoreId) (k : SlotId) (f : Strand → Strand) : (s.updStrand c k f).vwait = s.vwait := rfl
@[simp] theorem updStrand_detWin (s : State) (c : CoreId) (k : SlotId) (f : Strand → Strand) : (s.updStrand c k f).detWin = s.detWin := rfl
@[simp] theorem updStrand_parked (s : State) (c : CoreId) (k : SlotId) (f : Strand → Strand) : (s.updStrand c k f).parked = s.parked := rfl
@[simp] theorem updStrand_launch (s : State) (c : CoreId) (k : SlotId) (f : Strand → Strand) : (s.updStrand c k f).launch = s.launch := rfl
@[simp] theorem updStrand_grids (s : State) (c : CoreId) (k : SlotId) (f : Strand → Strand) : (s.updStrand c k f).grids = s.grids := rfl
@[simp] theorem updStrand_parts (s : State) (c : CoreId) (k : SlotId) (f : Strand → Strand) : (s.updStrand c k f).parts = s.parts := rfl
@[simp] theorem updStrand_gerr (s : State) (c : CoreId) (k : SlotId) (f : Strand → Strand) : (s.updStrand c k f).gerr = s.gerr := rfl
@[simp] theorem updStrand_gerrOvf (s : State) (c : CoreId) (k : SlotId) (f : Strand → Strand) : (s.updStrand c k f).gerrOvf = s.gerrOvf := rfl
@[simp] theorem updStrand_pggrow (s : State) (c : CoreId) (k : SlotId) (f : Strand → Strand) : (s.updStrand c k f).pggrow = s.pggrow := rfl
@[simp] theorem updStrand_sysnc (s : State) (c : CoreId) (k : SlotId) (f : Strand → Strand) : (s.updStrand c k f).sysnc = s.sysnc := rfl
@[simp] theorem updStrand_ops (s : State) (c : CoreId) (k : SlotId) (f : Strand → Strand) : (s.updStrand c k f).ops = s.ops := rfl
@[simp] theorem updStrand_bridges (s : State) (c : CoreId) (k : SlotId) (f : Strand → Strand) : (s.updStrand c k f).bridges = s.bridges := rfl
@[simp] theorem updStrand_host (s : State) (c : CoreId) (k : SlotId) (f : Strand → Strand) : (s.updStrand c k f).host = s.host := rfl
@[simp] theorem updStrand_house (s : State) (c : CoreId) (k : SlotId) (f : Strand → Strand) : (s.updStrand c k f).house = s.house := rfl
@[simp] theorem updStrand_dt (s : State) (c : CoreId) (k : SlotId) (f : Strand → Strand) : (s.updStrand c k f).dt = s.dt := rfl
@[simp] theorem updStrand_dtRate (s : State) (c : CoreId) (k : SlotId) (f : Strand → Strand) : (s.updStrand c k f).dtRate = s.dtRate := rfl
@[simp] theorem updStrand_dtSlew (s : State) (c : CoreId) (k : SlotId) (f : Strand → Strand) : (s.updStrand c k f).dtSlew = s.dtSlew := rfl
@[simp] theorem updStrand_dtFrac (s : State) (c : CoreId) (k : SlotId) (f : Strand → Strand) : (s.updStrand c k f).dtFrac = s.dtFrac := rfl
@[simp] theorem updStrand_cur (s : State) (c : CoreId) (k : SlotId) (f : Strand → Strand) : (s.updStrand c k f).cur = s.cur := rfl
@[simp] theorem updStrand_nextId (s : State) (c : CoreId) (k : SlotId) (f : Strand → Strand) : (s.updStrand c k f).nextId = s.nextId := rfl
@[simp] theorem updStrand_freshN (s : State) (c : CoreId) (k : SlotId) (f : Strand → Strand) : (s.updStrand c k f).freshN = s.freshN := rfl
@[simp] theorem updStrand_agenda (s : State) (c : CoreId) (k : SlotId) (f : Strand → Strand) : (s.updStrand c k f).agenda = s.agenda := rfl
@[simp] theorem updStrand_sched (s : State) (c : CoreId) (k : SlotId) (f : Strand → Strand) : (s.updStrand c k f).sched = s.sched := rfl

/-! ### Storing the running strand -/

@[simp] theorem setMe_clusters (s : State) (x : Strand) : (s.setMe x).clusters = s.clusters := rfl
@[simp] theorem setMe_homes (s : State) (x : Strand) : (s.setMe x).homes = s.homes := rfl
@[simp] theorem setMe_mem (s : State) (x : Strand) : (s.setMe x).mem = s.mem := rfl
@[simp] theorem setMe_tags (s : State) (x : Strand) : (s.setMe x).tags = s.tags := rfl
@[simp] theorem setMe_poison (s : State) (x : Strand) : (s.setMe x).poison = s.poison := rfl
@[simp] theorem setMe_joined (s : State) (x : Strand) : (s.setMe x).joined = s.joined := rfl
@[simp] theorem setMe_wins (s : State) (x : Strand) : (s.setMe x).wins = s.wins := rfl
@[simp] theorem setMe_wmarks (s : State) (x : Strand) : (s.setMe x).wmarks = s.wmarks := rfl
@[simp] theorem setMe_wgrace (s : State) (x : Strand) : (s.setMe x).wgrace = s.wgrace := rfl
@[simp] theorem setMe_lage (s : State) (x : Strand) : (s.setMe x).lage = s.lage := rfl
@[simp] theorem setMe_atbase (s : State) (x : Strand) : (s.setMe x).atbase = s.atbase := rfl
@[simp] theorem setMe_pgarea (s : State) (x : Strand) : (s.setMe x).pgarea = s.pgarea := rfl
@[simp] theorem setMe_epcfg (s : State) (x : Strand) : (s.setMe x).epcfg = s.epcfg := rfl
@[simp] theorem setMe_gpcfg (s : State) (x : Strand) : (s.setMe x).gpcfg = s.gpcfg := rfl
@[simp] theorem setMe_gpNext (s : State) (x : Strand) : (s.setMe x).gpNext = s.gpNext := rfl
@[simp] theorem setMe_canev (s : State) (x : Strand) : (s.setMe x).canev = s.canev := rfl
@[simp] theorem setMe_canflt (s : State) (x : Strand) : (s.setMe x).canflt = s.canflt := rfl
@[simp] theorem setMe_canSof (s : State) (x : Strand) : (s.setMe x).canSof = s.canSof := rfl
@[simp] theorem setMe_doms (s : State) (x : Strand) : (s.setMe x).doms = s.doms := rfl
@[simp] theorem setMe_vers (s : State) (x : Strand) : (s.setMe x).vers = s.vers := rfl
@[simp] theorem setMe_vwait (s : State) (x : Strand) : (s.setMe x).vwait = s.vwait := rfl
@[simp] theorem setMe_detWin (s : State) (x : Strand) : (s.setMe x).detWin = s.detWin := rfl
@[simp] theorem setMe_parked (s : State) (x : Strand) : (s.setMe x).parked = s.parked := rfl
@[simp] theorem setMe_launch (s : State) (x : Strand) : (s.setMe x).launch = s.launch := rfl
@[simp] theorem setMe_grids (s : State) (x : Strand) : (s.setMe x).grids = s.grids := rfl
@[simp] theorem setMe_parts (s : State) (x : Strand) : (s.setMe x).parts = s.parts := rfl
@[simp] theorem setMe_gerr (s : State) (x : Strand) : (s.setMe x).gerr = s.gerr := rfl
@[simp] theorem setMe_gerrOvf (s : State) (x : Strand) : (s.setMe x).gerrOvf = s.gerrOvf := rfl
@[simp] theorem setMe_pggrow (s : State) (x : Strand) : (s.setMe x).pggrow = s.pggrow := rfl
@[simp] theorem setMe_sysnc (s : State) (x : Strand) : (s.setMe x).sysnc = s.sysnc := rfl
@[simp] theorem setMe_ops (s : State) (x : Strand) : (s.setMe x).ops = s.ops := rfl
@[simp] theorem setMe_bridges (s : State) (x : Strand) : (s.setMe x).bridges = s.bridges := rfl
@[simp] theorem setMe_host (s : State) (x : Strand) : (s.setMe x).host = s.host := rfl
@[simp] theorem setMe_house (s : State) (x : Strand) : (s.setMe x).house = s.house := rfl
@[simp] theorem setMe_dt (s : State) (x : Strand) : (s.setMe x).dt = s.dt := rfl
@[simp] theorem setMe_dtRate (s : State) (x : Strand) : (s.setMe x).dtRate = s.dtRate := rfl
@[simp] theorem setMe_dtSlew (s : State) (x : Strand) : (s.setMe x).dtSlew = s.dtSlew := rfl
@[simp] theorem setMe_dtFrac (s : State) (x : Strand) : (s.setMe x).dtFrac = s.dtFrac := rfl
@[simp] theorem setMe_cur (s : State) (x : Strand) : (s.setMe x).cur = s.cur := rfl
@[simp] theorem setMe_nextId (s : State) (x : Strand) : (s.setMe x).nextId = s.nextId := rfl
@[simp] theorem setMe_freshN (s : State) (x : Strand) : (s.setMe x).freshN = s.freshN := rfl
@[simp] theorem setMe_agenda (s : State) (x : Strand) : (s.setMe x).agenda = s.agenda := rfl
@[simp] theorem setMe_sched (s : State) (x : Strand) : (s.setMe x).sched = s.sched := rfl

/-! ### Changing the running strand -/

@[simp] theorem updMe_clusters (s : State) (f : Strand → Strand) : (s.updMe f).clusters = s.clusters := rfl
@[simp] theorem updMe_homes (s : State) (f : Strand → Strand) : (s.updMe f).homes = s.homes := rfl
@[simp] theorem updMe_mem (s : State) (f : Strand → Strand) : (s.updMe f).mem = s.mem := rfl
@[simp] theorem updMe_tags (s : State) (f : Strand → Strand) : (s.updMe f).tags = s.tags := rfl
@[simp] theorem updMe_poison (s : State) (f : Strand → Strand) : (s.updMe f).poison = s.poison := rfl
@[simp] theorem updMe_joined (s : State) (f : Strand → Strand) : (s.updMe f).joined = s.joined := rfl
@[simp] theorem updMe_wins (s : State) (f : Strand → Strand) : (s.updMe f).wins = s.wins := rfl
@[simp] theorem updMe_wmarks (s : State) (f : Strand → Strand) : (s.updMe f).wmarks = s.wmarks := rfl
@[simp] theorem updMe_wgrace (s : State) (f : Strand → Strand) : (s.updMe f).wgrace = s.wgrace := rfl
@[simp] theorem updMe_lage (s : State) (f : Strand → Strand) : (s.updMe f).lage = s.lage := rfl
@[simp] theorem updMe_atbase (s : State) (f : Strand → Strand) : (s.updMe f).atbase = s.atbase := rfl
@[simp] theorem updMe_pgarea (s : State) (f : Strand → Strand) : (s.updMe f).pgarea = s.pgarea := rfl
@[simp] theorem updMe_epcfg (s : State) (f : Strand → Strand) : (s.updMe f).epcfg = s.epcfg := rfl
@[simp] theorem updMe_gpcfg (s : State) (f : Strand → Strand) : (s.updMe f).gpcfg = s.gpcfg := rfl
@[simp] theorem updMe_gpNext (s : State) (f : Strand → Strand) : (s.updMe f).gpNext = s.gpNext := rfl
@[simp] theorem updMe_canev (s : State) (f : Strand → Strand) : (s.updMe f).canev = s.canev := rfl
@[simp] theorem updMe_canflt (s : State) (f : Strand → Strand) : (s.updMe f).canflt = s.canflt := rfl
@[simp] theorem updMe_canSof (s : State) (f : Strand → Strand) : (s.updMe f).canSof = s.canSof := rfl
@[simp] theorem updMe_doms (s : State) (f : Strand → Strand) : (s.updMe f).doms = s.doms := rfl
@[simp] theorem updMe_vers (s : State) (f : Strand → Strand) : (s.updMe f).vers = s.vers := rfl
@[simp] theorem updMe_vwait (s : State) (f : Strand → Strand) : (s.updMe f).vwait = s.vwait := rfl
@[simp] theorem updMe_detWin (s : State) (f : Strand → Strand) : (s.updMe f).detWin = s.detWin := rfl
@[simp] theorem updMe_parked (s : State) (f : Strand → Strand) : (s.updMe f).parked = s.parked := rfl
@[simp] theorem updMe_launch (s : State) (f : Strand → Strand) : (s.updMe f).launch = s.launch := rfl
@[simp] theorem updMe_grids (s : State) (f : Strand → Strand) : (s.updMe f).grids = s.grids := rfl
@[simp] theorem updMe_parts (s : State) (f : Strand → Strand) : (s.updMe f).parts = s.parts := rfl
@[simp] theorem updMe_gerr (s : State) (f : Strand → Strand) : (s.updMe f).gerr = s.gerr := rfl
@[simp] theorem updMe_gerrOvf (s : State) (f : Strand → Strand) : (s.updMe f).gerrOvf = s.gerrOvf := rfl
@[simp] theorem updMe_pggrow (s : State) (f : Strand → Strand) : (s.updMe f).pggrow = s.pggrow := rfl
@[simp] theorem updMe_sysnc (s : State) (f : Strand → Strand) : (s.updMe f).sysnc = s.sysnc := rfl
@[simp] theorem updMe_ops (s : State) (f : Strand → Strand) : (s.updMe f).ops = s.ops := rfl
@[simp] theorem updMe_bridges (s : State) (f : Strand → Strand) : (s.updMe f).bridges = s.bridges := rfl
@[simp] theorem updMe_host (s : State) (f : Strand → Strand) : (s.updMe f).host = s.host := rfl
@[simp] theorem updMe_house (s : State) (f : Strand → Strand) : (s.updMe f).house = s.house := rfl
@[simp] theorem updMe_dt (s : State) (f : Strand → Strand) : (s.updMe f).dt = s.dt := rfl
@[simp] theorem updMe_dtRate (s : State) (f : Strand → Strand) : (s.updMe f).dtRate = s.dtRate := rfl
@[simp] theorem updMe_dtSlew (s : State) (f : Strand → Strand) : (s.updMe f).dtSlew = s.dtSlew := rfl
@[simp] theorem updMe_dtFrac (s : State) (f : Strand → Strand) : (s.updMe f).dtFrac = s.dtFrac := rfl
@[simp] theorem updMe_cur (s : State) (f : Strand → Strand) : (s.updMe f).cur = s.cur := rfl
@[simp] theorem updMe_nextId (s : State) (f : Strand → Strand) : (s.updMe f).nextId = s.nextId := rfl
@[simp] theorem updMe_freshN (s : State) (f : Strand → Strand) : (s.updMe f).freshN = s.freshN := rfl
@[simp] theorem updMe_agenda (s : State) (f : Strand → Strand) : (s.updMe f).agenda = s.agenda := rfl
@[simp] theorem updMe_sched (s : State) (f : Strand → Strand) : (s.updMe f).sched = s.sched := rfl

/-! ### Storing a cluster -/

@[simp] theorem setCluster_cores (s : State) (q : ClusterId) (x : Cluster) : (s.setCluster q x).cores = s.cores := rfl
@[simp] theorem setCluster_homes (s : State) (q : ClusterId) (x : Cluster) : (s.setCluster q x).homes = s.homes := rfl
@[simp] theorem setCluster_mem (s : State) (q : ClusterId) (x : Cluster) : (s.setCluster q x).mem = s.mem := rfl
@[simp] theorem setCluster_tags (s : State) (q : ClusterId) (x : Cluster) : (s.setCluster q x).tags = s.tags := rfl
@[simp] theorem setCluster_poison (s : State) (q : ClusterId) (x : Cluster) : (s.setCluster q x).poison = s.poison := rfl
@[simp] theorem setCluster_joined (s : State) (q : ClusterId) (x : Cluster) : (s.setCluster q x).joined = s.joined := rfl
@[simp] theorem setCluster_wins (s : State) (q : ClusterId) (x : Cluster) : (s.setCluster q x).wins = s.wins := rfl
@[simp] theorem setCluster_wmarks (s : State) (q : ClusterId) (x : Cluster) : (s.setCluster q x).wmarks = s.wmarks := rfl
@[simp] theorem setCluster_wgrace (s : State) (q : ClusterId) (x : Cluster) : (s.setCluster q x).wgrace = s.wgrace := rfl
@[simp] theorem setCluster_lage (s : State) (q : ClusterId) (x : Cluster) : (s.setCluster q x).lage = s.lage := rfl
@[simp] theorem setCluster_atbase (s : State) (q : ClusterId) (x : Cluster) : (s.setCluster q x).atbase = s.atbase := rfl
@[simp] theorem setCluster_pgarea (s : State) (q : ClusterId) (x : Cluster) : (s.setCluster q x).pgarea = s.pgarea := rfl
@[simp] theorem setCluster_epcfg (s : State) (q : ClusterId) (x : Cluster) : (s.setCluster q x).epcfg = s.epcfg := rfl
@[simp] theorem setCluster_gpcfg (s : State) (q : ClusterId) (x : Cluster) : (s.setCluster q x).gpcfg = s.gpcfg := rfl
@[simp] theorem setCluster_gpNext (s : State) (q : ClusterId) (x : Cluster) : (s.setCluster q x).gpNext = s.gpNext := rfl
@[simp] theorem setCluster_canev (s : State) (q : ClusterId) (x : Cluster) : (s.setCluster q x).canev = s.canev := rfl
@[simp] theorem setCluster_canflt (s : State) (q : ClusterId) (x : Cluster) : (s.setCluster q x).canflt = s.canflt := rfl
@[simp] theorem setCluster_canSof (s : State) (q : ClusterId) (x : Cluster) : (s.setCluster q x).canSof = s.canSof := rfl
@[simp] theorem setCluster_doms (s : State) (q : ClusterId) (x : Cluster) : (s.setCluster q x).doms = s.doms := rfl
@[simp] theorem setCluster_vers (s : State) (q : ClusterId) (x : Cluster) : (s.setCluster q x).vers = s.vers := rfl
@[simp] theorem setCluster_vwait (s : State) (q : ClusterId) (x : Cluster) : (s.setCluster q x).vwait = s.vwait := rfl
@[simp] theorem setCluster_detWin (s : State) (q : ClusterId) (x : Cluster) : (s.setCluster q x).detWin = s.detWin := rfl
@[simp] theorem setCluster_parked (s : State) (q : ClusterId) (x : Cluster) : (s.setCluster q x).parked = s.parked := rfl
@[simp] theorem setCluster_launch (s : State) (q : ClusterId) (x : Cluster) : (s.setCluster q x).launch = s.launch := rfl
@[simp] theorem setCluster_grids (s : State) (q : ClusterId) (x : Cluster) : (s.setCluster q x).grids = s.grids := rfl
@[simp] theorem setCluster_parts (s : State) (q : ClusterId) (x : Cluster) : (s.setCluster q x).parts = s.parts := rfl
@[simp] theorem setCluster_gerr (s : State) (q : ClusterId) (x : Cluster) : (s.setCluster q x).gerr = s.gerr := rfl
@[simp] theorem setCluster_gerrOvf (s : State) (q : ClusterId) (x : Cluster) : (s.setCluster q x).gerrOvf = s.gerrOvf := rfl
@[simp] theorem setCluster_pggrow (s : State) (q : ClusterId) (x : Cluster) : (s.setCluster q x).pggrow = s.pggrow := rfl
@[simp] theorem setCluster_sysnc (s : State) (q : ClusterId) (x : Cluster) : (s.setCluster q x).sysnc = s.sysnc := rfl
@[simp] theorem setCluster_ops (s : State) (q : ClusterId) (x : Cluster) : (s.setCluster q x).ops = s.ops := rfl
@[simp] theorem setCluster_bridges (s : State) (q : ClusterId) (x : Cluster) : (s.setCluster q x).bridges = s.bridges := rfl
@[simp] theorem setCluster_host (s : State) (q : ClusterId) (x : Cluster) : (s.setCluster q x).host = s.host := rfl
@[simp] theorem setCluster_house (s : State) (q : ClusterId) (x : Cluster) : (s.setCluster q x).house = s.house := rfl
@[simp] theorem setCluster_dt (s : State) (q : ClusterId) (x : Cluster) : (s.setCluster q x).dt = s.dt := rfl
@[simp] theorem setCluster_dtRate (s : State) (q : ClusterId) (x : Cluster) : (s.setCluster q x).dtRate = s.dtRate := rfl
@[simp] theorem setCluster_dtSlew (s : State) (q : ClusterId) (x : Cluster) : (s.setCluster q x).dtSlew = s.dtSlew := rfl
@[simp] theorem setCluster_dtFrac (s : State) (q : ClusterId) (x : Cluster) : (s.setCluster q x).dtFrac = s.dtFrac := rfl
@[simp] theorem setCluster_cur (s : State) (q : ClusterId) (x : Cluster) : (s.setCluster q x).cur = s.cur := rfl
@[simp] theorem setCluster_nextId (s : State) (q : ClusterId) (x : Cluster) : (s.setCluster q x).nextId = s.nextId := rfl
@[simp] theorem setCluster_freshN (s : State) (q : ClusterId) (x : Cluster) : (s.setCluster q x).freshN = s.freshN := rfl
@[simp] theorem setCluster_agenda (s : State) (q : ClusterId) (x : Cluster) : (s.setCluster q x).agenda = s.agenda := rfl
@[simp] theorem setCluster_sched (s : State) (q : ClusterId) (x : Cluster) : (s.setCluster q x).sched = s.sched := rfl

/-! ### Changing a cluster -/

@[simp] theorem updCluster_cores (s : State) (q : ClusterId) (f : Cluster → Cluster) : (s.updCluster q f).cores = s.cores := rfl
@[simp] theorem updCluster_homes (s : State) (q : ClusterId) (f : Cluster → Cluster) : (s.updCluster q f).homes = s.homes := rfl
@[simp] theorem updCluster_mem (s : State) (q : ClusterId) (f : Cluster → Cluster) : (s.updCluster q f).mem = s.mem := rfl
@[simp] theorem updCluster_tags (s : State) (q : ClusterId) (f : Cluster → Cluster) : (s.updCluster q f).tags = s.tags := rfl
@[simp] theorem updCluster_poison (s : State) (q : ClusterId) (f : Cluster → Cluster) : (s.updCluster q f).poison = s.poison := rfl
@[simp] theorem updCluster_joined (s : State) (q : ClusterId) (f : Cluster → Cluster) : (s.updCluster q f).joined = s.joined := rfl
@[simp] theorem updCluster_wins (s : State) (q : ClusterId) (f : Cluster → Cluster) : (s.updCluster q f).wins = s.wins := rfl
@[simp] theorem updCluster_wmarks (s : State) (q : ClusterId) (f : Cluster → Cluster) : (s.updCluster q f).wmarks = s.wmarks := rfl
@[simp] theorem updCluster_wgrace (s : State) (q : ClusterId) (f : Cluster → Cluster) : (s.updCluster q f).wgrace = s.wgrace := rfl
@[simp] theorem updCluster_lage (s : State) (q : ClusterId) (f : Cluster → Cluster) : (s.updCluster q f).lage = s.lage := rfl
@[simp] theorem updCluster_atbase (s : State) (q : ClusterId) (f : Cluster → Cluster) : (s.updCluster q f).atbase = s.atbase := rfl
@[simp] theorem updCluster_pgarea (s : State) (q : ClusterId) (f : Cluster → Cluster) : (s.updCluster q f).pgarea = s.pgarea := rfl
@[simp] theorem updCluster_epcfg (s : State) (q : ClusterId) (f : Cluster → Cluster) : (s.updCluster q f).epcfg = s.epcfg := rfl
@[simp] theorem updCluster_gpcfg (s : State) (q : ClusterId) (f : Cluster → Cluster) : (s.updCluster q f).gpcfg = s.gpcfg := rfl
@[simp] theorem updCluster_gpNext (s : State) (q : ClusterId) (f : Cluster → Cluster) : (s.updCluster q f).gpNext = s.gpNext := rfl
@[simp] theorem updCluster_canev (s : State) (q : ClusterId) (f : Cluster → Cluster) : (s.updCluster q f).canev = s.canev := rfl
@[simp] theorem updCluster_canflt (s : State) (q : ClusterId) (f : Cluster → Cluster) : (s.updCluster q f).canflt = s.canflt := rfl
@[simp] theorem updCluster_canSof (s : State) (q : ClusterId) (f : Cluster → Cluster) : (s.updCluster q f).canSof = s.canSof := rfl
@[simp] theorem updCluster_doms (s : State) (q : ClusterId) (f : Cluster → Cluster) : (s.updCluster q f).doms = s.doms := rfl
@[simp] theorem updCluster_vers (s : State) (q : ClusterId) (f : Cluster → Cluster) : (s.updCluster q f).vers = s.vers := rfl
@[simp] theorem updCluster_vwait (s : State) (q : ClusterId) (f : Cluster → Cluster) : (s.updCluster q f).vwait = s.vwait := rfl
@[simp] theorem updCluster_detWin (s : State) (q : ClusterId) (f : Cluster → Cluster) : (s.updCluster q f).detWin = s.detWin := rfl
@[simp] theorem updCluster_parked (s : State) (q : ClusterId) (f : Cluster → Cluster) : (s.updCluster q f).parked = s.parked := rfl
@[simp] theorem updCluster_launch (s : State) (q : ClusterId) (f : Cluster → Cluster) : (s.updCluster q f).launch = s.launch := rfl
@[simp] theorem updCluster_grids (s : State) (q : ClusterId) (f : Cluster → Cluster) : (s.updCluster q f).grids = s.grids := rfl
@[simp] theorem updCluster_parts (s : State) (q : ClusterId) (f : Cluster → Cluster) : (s.updCluster q f).parts = s.parts := rfl
@[simp] theorem updCluster_gerr (s : State) (q : ClusterId) (f : Cluster → Cluster) : (s.updCluster q f).gerr = s.gerr := rfl
@[simp] theorem updCluster_gerrOvf (s : State) (q : ClusterId) (f : Cluster → Cluster) : (s.updCluster q f).gerrOvf = s.gerrOvf := rfl
@[simp] theorem updCluster_pggrow (s : State) (q : ClusterId) (f : Cluster → Cluster) : (s.updCluster q f).pggrow = s.pggrow := rfl
@[simp] theorem updCluster_sysnc (s : State) (q : ClusterId) (f : Cluster → Cluster) : (s.updCluster q f).sysnc = s.sysnc := rfl
@[simp] theorem updCluster_ops (s : State) (q : ClusterId) (f : Cluster → Cluster) : (s.updCluster q f).ops = s.ops := rfl
@[simp] theorem updCluster_bridges (s : State) (q : ClusterId) (f : Cluster → Cluster) : (s.updCluster q f).bridges = s.bridges := rfl
@[simp] theorem updCluster_host (s : State) (q : ClusterId) (f : Cluster → Cluster) : (s.updCluster q f).host = s.host := rfl
@[simp] theorem updCluster_house (s : State) (q : ClusterId) (f : Cluster → Cluster) : (s.updCluster q f).house = s.house := rfl
@[simp] theorem updCluster_dt (s : State) (q : ClusterId) (f : Cluster → Cluster) : (s.updCluster q f).dt = s.dt := rfl
@[simp] theorem updCluster_dtRate (s : State) (q : ClusterId) (f : Cluster → Cluster) : (s.updCluster q f).dtRate = s.dtRate := rfl
@[simp] theorem updCluster_dtSlew (s : State) (q : ClusterId) (f : Cluster → Cluster) : (s.updCluster q f).dtSlew = s.dtSlew := rfl
@[simp] theorem updCluster_dtFrac (s : State) (q : ClusterId) (f : Cluster → Cluster) : (s.updCluster q f).dtFrac = s.dtFrac := rfl
@[simp] theorem updCluster_cur (s : State) (q : ClusterId) (f : Cluster → Cluster) : (s.updCluster q f).cur = s.cur := rfl
@[simp] theorem updCluster_nextId (s : State) (q : ClusterId) (f : Cluster → Cluster) : (s.updCluster q f).nextId = s.nextId := rfl
@[simp] theorem updCluster_freshN (s : State) (q : ClusterId) (f : Cluster → Cluster) : (s.updCluster q f).freshN = s.freshN := rfl
@[simp] theorem updCluster_agenda (s : State) (q : ClusterId) (f : Cluster → Cluster) : (s.updCluster q f).agenda = s.agenda := rfl
@[simp] theorem updCluster_sched (s : State) (q : ClusterId) (f : Cluster → Cluster) : (s.updCluster q f).sched = s.sched := rfl

/-! ### Changing a home -/

@[simp] theorem updHome_cores (s : State) (h : HomeId) (f : Home → Home) : (s.updHome h f).cores = s.cores := rfl
@[simp] theorem updHome_clusters (s : State) (h : HomeId) (f : Home → Home) : (s.updHome h f).clusters = s.clusters := rfl
@[simp] theorem updHome_mem (s : State) (h : HomeId) (f : Home → Home) : (s.updHome h f).mem = s.mem := rfl
@[simp] theorem updHome_tags (s : State) (h : HomeId) (f : Home → Home) : (s.updHome h f).tags = s.tags := rfl
@[simp] theorem updHome_poison (s : State) (h : HomeId) (f : Home → Home) : (s.updHome h f).poison = s.poison := rfl
@[simp] theorem updHome_joined (s : State) (h : HomeId) (f : Home → Home) : (s.updHome h f).joined = s.joined := rfl
@[simp] theorem updHome_wins (s : State) (h : HomeId) (f : Home → Home) : (s.updHome h f).wins = s.wins := rfl
@[simp] theorem updHome_wmarks (s : State) (h : HomeId) (f : Home → Home) : (s.updHome h f).wmarks = s.wmarks := rfl
@[simp] theorem updHome_wgrace (s : State) (h : HomeId) (f : Home → Home) : (s.updHome h f).wgrace = s.wgrace := rfl
@[simp] theorem updHome_lage (s : State) (h : HomeId) (f : Home → Home) : (s.updHome h f).lage = s.lage := rfl
@[simp] theorem updHome_atbase (s : State) (h : HomeId) (f : Home → Home) : (s.updHome h f).atbase = s.atbase := rfl
@[simp] theorem updHome_pgarea (s : State) (h : HomeId) (f : Home → Home) : (s.updHome h f).pgarea = s.pgarea := rfl
@[simp] theorem updHome_epcfg (s : State) (h : HomeId) (f : Home → Home) : (s.updHome h f).epcfg = s.epcfg := rfl
@[simp] theorem updHome_gpcfg (s : State) (h : HomeId) (f : Home → Home) : (s.updHome h f).gpcfg = s.gpcfg := rfl
@[simp] theorem updHome_gpNext (s : State) (h : HomeId) (f : Home → Home) : (s.updHome h f).gpNext = s.gpNext := rfl
@[simp] theorem updHome_canev (s : State) (h : HomeId) (f : Home → Home) : (s.updHome h f).canev = s.canev := rfl
@[simp] theorem updHome_canflt (s : State) (h : HomeId) (f : Home → Home) : (s.updHome h f).canflt = s.canflt := rfl
@[simp] theorem updHome_canSof (s : State) (h : HomeId) (f : Home → Home) : (s.updHome h f).canSof = s.canSof := rfl
@[simp] theorem updHome_doms (s : State) (h : HomeId) (f : Home → Home) : (s.updHome h f).doms = s.doms := rfl
@[simp] theorem updHome_vers (s : State) (h : HomeId) (f : Home → Home) : (s.updHome h f).vers = s.vers := rfl
@[simp] theorem updHome_vwait (s : State) (h : HomeId) (f : Home → Home) : (s.updHome h f).vwait = s.vwait := rfl
@[simp] theorem updHome_detWin (s : State) (h : HomeId) (f : Home → Home) : (s.updHome h f).detWin = s.detWin := rfl
@[simp] theorem updHome_parked (s : State) (h : HomeId) (f : Home → Home) : (s.updHome h f).parked = s.parked := rfl
@[simp] theorem updHome_launch (s : State) (h : HomeId) (f : Home → Home) : (s.updHome h f).launch = s.launch := rfl
@[simp] theorem updHome_grids (s : State) (h : HomeId) (f : Home → Home) : (s.updHome h f).grids = s.grids := rfl
@[simp] theorem updHome_parts (s : State) (h : HomeId) (f : Home → Home) : (s.updHome h f).parts = s.parts := rfl
@[simp] theorem updHome_gerr (s : State) (h : HomeId) (f : Home → Home) : (s.updHome h f).gerr = s.gerr := rfl
@[simp] theorem updHome_gerrOvf (s : State) (h : HomeId) (f : Home → Home) : (s.updHome h f).gerrOvf = s.gerrOvf := rfl
@[simp] theorem updHome_pggrow (s : State) (h : HomeId) (f : Home → Home) : (s.updHome h f).pggrow = s.pggrow := rfl
@[simp] theorem updHome_sysnc (s : State) (h : HomeId) (f : Home → Home) : (s.updHome h f).sysnc = s.sysnc := rfl
@[simp] theorem updHome_ops (s : State) (h : HomeId) (f : Home → Home) : (s.updHome h f).ops = s.ops := rfl
@[simp] theorem updHome_bridges (s : State) (h : HomeId) (f : Home → Home) : (s.updHome h f).bridges = s.bridges := rfl
@[simp] theorem updHome_host (s : State) (h : HomeId) (f : Home → Home) : (s.updHome h f).host = s.host := rfl
@[simp] theorem updHome_house (s : State) (h : HomeId) (f : Home → Home) : (s.updHome h f).house = s.house := rfl
@[simp] theorem updHome_dt (s : State) (h : HomeId) (f : Home → Home) : (s.updHome h f).dt = s.dt := rfl
@[simp] theorem updHome_dtRate (s : State) (h : HomeId) (f : Home → Home) : (s.updHome h f).dtRate = s.dtRate := rfl
@[simp] theorem updHome_dtSlew (s : State) (h : HomeId) (f : Home → Home) : (s.updHome h f).dtSlew = s.dtSlew := rfl
@[simp] theorem updHome_dtFrac (s : State) (h : HomeId) (f : Home → Home) : (s.updHome h f).dtFrac = s.dtFrac := rfl
@[simp] theorem updHome_cur (s : State) (h : HomeId) (f : Home → Home) : (s.updHome h f).cur = s.cur := rfl
@[simp] theorem updHome_nextId (s : State) (h : HomeId) (f : Home → Home) : (s.updHome h f).nextId = s.nextId := rfl
@[simp] theorem updHome_freshN (s : State) (h : HomeId) (f : Home → Home) : (s.updHome h f).freshN = s.freshN := rfl
@[simp] theorem updHome_agenda (s : State) (h : HomeId) (f : Home → Home) : (s.updHome h f).agenda = s.agenda := rfl
@[simp] theorem updHome_sched (s : State) (h : HomeId) (f : Home → Home) : (s.updHome h f).sched = s.sched := rfl

/-! ### Changing a window -/

@[simp] theorem updWin_cores (s : State) (k : Fin 32) (f : Win → Win) : (s.updWin k f).cores = s.cores := rfl
@[simp] theorem updWin_clusters (s : State) (k : Fin 32) (f : Win → Win) : (s.updWin k f).clusters = s.clusters := rfl
@[simp] theorem updWin_homes (s : State) (k : Fin 32) (f : Win → Win) : (s.updWin k f).homes = s.homes := rfl
@[simp] theorem updWin_mem (s : State) (k : Fin 32) (f : Win → Win) : (s.updWin k f).mem = s.mem := rfl
@[simp] theorem updWin_tags (s : State) (k : Fin 32) (f : Win → Win) : (s.updWin k f).tags = s.tags := rfl
@[simp] theorem updWin_poison (s : State) (k : Fin 32) (f : Win → Win) : (s.updWin k f).poison = s.poison := rfl
@[simp] theorem updWin_joined (s : State) (k : Fin 32) (f : Win → Win) : (s.updWin k f).joined = s.joined := rfl
@[simp] theorem updWin_wmarks (s : State) (k : Fin 32) (f : Win → Win) : (s.updWin k f).wmarks = s.wmarks := rfl
@[simp] theorem updWin_wgrace (s : State) (k : Fin 32) (f : Win → Win) : (s.updWin k f).wgrace = s.wgrace := rfl
@[simp] theorem updWin_lage (s : State) (k : Fin 32) (f : Win → Win) : (s.updWin k f).lage = s.lage := rfl
@[simp] theorem updWin_atbase (s : State) (k : Fin 32) (f : Win → Win) : (s.updWin k f).atbase = s.atbase := rfl
@[simp] theorem updWin_pgarea (s : State) (k : Fin 32) (f : Win → Win) : (s.updWin k f).pgarea = s.pgarea := rfl
@[simp] theorem updWin_epcfg (s : State) (k : Fin 32) (f : Win → Win) : (s.updWin k f).epcfg = s.epcfg := rfl
@[simp] theorem updWin_gpcfg (s : State) (k : Fin 32) (f : Win → Win) : (s.updWin k f).gpcfg = s.gpcfg := rfl
@[simp] theorem updWin_gpNext (s : State) (k : Fin 32) (f : Win → Win) : (s.updWin k f).gpNext = s.gpNext := rfl
@[simp] theorem updWin_canev (s : State) (k : Fin 32) (f : Win → Win) : (s.updWin k f).canev = s.canev := rfl
@[simp] theorem updWin_canflt (s : State) (k : Fin 32) (f : Win → Win) : (s.updWin k f).canflt = s.canflt := rfl
@[simp] theorem updWin_canSof (s : State) (k : Fin 32) (f : Win → Win) : (s.updWin k f).canSof = s.canSof := rfl
@[simp] theorem updWin_doms (s : State) (k : Fin 32) (f : Win → Win) : (s.updWin k f).doms = s.doms := rfl
@[simp] theorem updWin_vers (s : State) (k : Fin 32) (f : Win → Win) : (s.updWin k f).vers = s.vers := rfl
@[simp] theorem updWin_vwait (s : State) (k : Fin 32) (f : Win → Win) : (s.updWin k f).vwait = s.vwait := rfl
@[simp] theorem updWin_detWin (s : State) (k : Fin 32) (f : Win → Win) : (s.updWin k f).detWin = s.detWin := rfl
@[simp] theorem updWin_parked (s : State) (k : Fin 32) (f : Win → Win) : (s.updWin k f).parked = s.parked := rfl
@[simp] theorem updWin_launch (s : State) (k : Fin 32) (f : Win → Win) : (s.updWin k f).launch = s.launch := rfl
@[simp] theorem updWin_grids (s : State) (k : Fin 32) (f : Win → Win) : (s.updWin k f).grids = s.grids := rfl
@[simp] theorem updWin_parts (s : State) (k : Fin 32) (f : Win → Win) : (s.updWin k f).parts = s.parts := rfl
@[simp] theorem updWin_gerr (s : State) (k : Fin 32) (f : Win → Win) : (s.updWin k f).gerr = s.gerr := rfl
@[simp] theorem updWin_gerrOvf (s : State) (k : Fin 32) (f : Win → Win) : (s.updWin k f).gerrOvf = s.gerrOvf := rfl
@[simp] theorem updWin_pggrow (s : State) (k : Fin 32) (f : Win → Win) : (s.updWin k f).pggrow = s.pggrow := rfl
@[simp] theorem updWin_sysnc (s : State) (k : Fin 32) (f : Win → Win) : (s.updWin k f).sysnc = s.sysnc := rfl
@[simp] theorem updWin_ops (s : State) (k : Fin 32) (f : Win → Win) : (s.updWin k f).ops = s.ops := rfl
@[simp] theorem updWin_bridges (s : State) (k : Fin 32) (f : Win → Win) : (s.updWin k f).bridges = s.bridges := rfl
@[simp] theorem updWin_host (s : State) (k : Fin 32) (f : Win → Win) : (s.updWin k f).host = s.host := rfl
@[simp] theorem updWin_house (s : State) (k : Fin 32) (f : Win → Win) : (s.updWin k f).house = s.house := rfl
@[simp] theorem updWin_dt (s : State) (k : Fin 32) (f : Win → Win) : (s.updWin k f).dt = s.dt := rfl
@[simp] theorem updWin_dtRate (s : State) (k : Fin 32) (f : Win → Win) : (s.updWin k f).dtRate = s.dtRate := rfl
@[simp] theorem updWin_dtSlew (s : State) (k : Fin 32) (f : Win → Win) : (s.updWin k f).dtSlew = s.dtSlew := rfl
@[simp] theorem updWin_dtFrac (s : State) (k : Fin 32) (f : Win → Win) : (s.updWin k f).dtFrac = s.dtFrac := rfl
@[simp] theorem updWin_cur (s : State) (k : Fin 32) (f : Win → Win) : (s.updWin k f).cur = s.cur := rfl
@[simp] theorem updWin_nextId (s : State) (k : Fin 32) (f : Win → Win) : (s.updWin k f).nextId = s.nextId := rfl
@[simp] theorem updWin_freshN (s : State) (k : Fin 32) (f : Win → Win) : (s.updWin k f).freshN = s.freshN := rfl
@[simp] theorem updWin_agenda (s : State) (k : Fin 32) (f : Win → Win) : (s.updWin k f).agenda = s.agenda := rfl
@[simp] theorem updWin_sched (s : State) (k : Fin 32) (f : Win → Win) : (s.updWin k f).sched = s.sched := rfl

/-! ### Changing a domain -/

@[simp] theorem updDom_cores (s : State) (d : Fin 8) (f : Domain → Domain) : (s.updDom d f).cores = s.cores := rfl
@[simp] theorem updDom_clusters (s : State) (d : Fin 8) (f : Domain → Domain) : (s.updDom d f).clusters = s.clusters := rfl
@[simp] theorem updDom_homes (s : State) (d : Fin 8) (f : Domain → Domain) : (s.updDom d f).homes = s.homes := rfl
@[simp] theorem updDom_mem (s : State) (d : Fin 8) (f : Domain → Domain) : (s.updDom d f).mem = s.mem := rfl
@[simp] theorem updDom_tags (s : State) (d : Fin 8) (f : Domain → Domain) : (s.updDom d f).tags = s.tags := rfl
@[simp] theorem updDom_poison (s : State) (d : Fin 8) (f : Domain → Domain) : (s.updDom d f).poison = s.poison := rfl
@[simp] theorem updDom_joined (s : State) (d : Fin 8) (f : Domain → Domain) : (s.updDom d f).joined = s.joined := rfl
@[simp] theorem updDom_wins (s : State) (d : Fin 8) (f : Domain → Domain) : (s.updDom d f).wins = s.wins := rfl
@[simp] theorem updDom_wmarks (s : State) (d : Fin 8) (f : Domain → Domain) : (s.updDom d f).wmarks = s.wmarks := rfl
@[simp] theorem updDom_wgrace (s : State) (d : Fin 8) (f : Domain → Domain) : (s.updDom d f).wgrace = s.wgrace := rfl
@[simp] theorem updDom_lage (s : State) (d : Fin 8) (f : Domain → Domain) : (s.updDom d f).lage = s.lage := rfl
@[simp] theorem updDom_atbase (s : State) (d : Fin 8) (f : Domain → Domain) : (s.updDom d f).atbase = s.atbase := rfl
@[simp] theorem updDom_pgarea (s : State) (d : Fin 8) (f : Domain → Domain) : (s.updDom d f).pgarea = s.pgarea := rfl
@[simp] theorem updDom_epcfg (s : State) (d : Fin 8) (f : Domain → Domain) : (s.updDom d f).epcfg = s.epcfg := rfl
@[simp] theorem updDom_gpcfg (s : State) (d : Fin 8) (f : Domain → Domain) : (s.updDom d f).gpcfg = s.gpcfg := rfl
@[simp] theorem updDom_gpNext (s : State) (d : Fin 8) (f : Domain → Domain) : (s.updDom d f).gpNext = s.gpNext := rfl
@[simp] theorem updDom_canev (s : State) (d : Fin 8) (f : Domain → Domain) : (s.updDom d f).canev = s.canev := rfl
@[simp] theorem updDom_canflt (s : State) (d : Fin 8) (f : Domain → Domain) : (s.updDom d f).canflt = s.canflt := rfl
@[simp] theorem updDom_canSof (s : State) (d : Fin 8) (f : Domain → Domain) : (s.updDom d f).canSof = s.canSof := rfl
@[simp] theorem updDom_vers (s : State) (d : Fin 8) (f : Domain → Domain) : (s.updDom d f).vers = s.vers := rfl
@[simp] theorem updDom_vwait (s : State) (d : Fin 8) (f : Domain → Domain) : (s.updDom d f).vwait = s.vwait := rfl
@[simp] theorem updDom_detWin (s : State) (d : Fin 8) (f : Domain → Domain) : (s.updDom d f).detWin = s.detWin := rfl
@[simp] theorem updDom_parked (s : State) (d : Fin 8) (f : Domain → Domain) : (s.updDom d f).parked = s.parked := rfl
@[simp] theorem updDom_launch (s : State) (d : Fin 8) (f : Domain → Domain) : (s.updDom d f).launch = s.launch := rfl
@[simp] theorem updDom_grids (s : State) (d : Fin 8) (f : Domain → Domain) : (s.updDom d f).grids = s.grids := rfl
@[simp] theorem updDom_parts (s : State) (d : Fin 8) (f : Domain → Domain) : (s.updDom d f).parts = s.parts := rfl
@[simp] theorem updDom_gerr (s : State) (d : Fin 8) (f : Domain → Domain) : (s.updDom d f).gerr = s.gerr := rfl
@[simp] theorem updDom_gerrOvf (s : State) (d : Fin 8) (f : Domain → Domain) : (s.updDom d f).gerrOvf = s.gerrOvf := rfl
@[simp] theorem updDom_pggrow (s : State) (d : Fin 8) (f : Domain → Domain) : (s.updDom d f).pggrow = s.pggrow := rfl
@[simp] theorem updDom_sysnc (s : State) (d : Fin 8) (f : Domain → Domain) : (s.updDom d f).sysnc = s.sysnc := rfl
@[simp] theorem updDom_ops (s : State) (d : Fin 8) (f : Domain → Domain) : (s.updDom d f).ops = s.ops := rfl
@[simp] theorem updDom_bridges (s : State) (d : Fin 8) (f : Domain → Domain) : (s.updDom d f).bridges = s.bridges := rfl
@[simp] theorem updDom_host (s : State) (d : Fin 8) (f : Domain → Domain) : (s.updDom d f).host = s.host := rfl
@[simp] theorem updDom_house (s : State) (d : Fin 8) (f : Domain → Domain) : (s.updDom d f).house = s.house := rfl
@[simp] theorem updDom_dt (s : State) (d : Fin 8) (f : Domain → Domain) : (s.updDom d f).dt = s.dt := rfl
@[simp] theorem updDom_dtRate (s : State) (d : Fin 8) (f : Domain → Domain) : (s.updDom d f).dtRate = s.dtRate := rfl
@[simp] theorem updDom_dtSlew (s : State) (d : Fin 8) (f : Domain → Domain) : (s.updDom d f).dtSlew = s.dtSlew := rfl
@[simp] theorem updDom_dtFrac (s : State) (d : Fin 8) (f : Domain → Domain) : (s.updDom d f).dtFrac = s.dtFrac := rfl
@[simp] theorem updDom_cur (s : State) (d : Fin 8) (f : Domain → Domain) : (s.updDom d f).cur = s.cur := rfl
@[simp] theorem updDom_nextId (s : State) (d : Fin 8) (f : Domain → Domain) : (s.updDom d f).nextId = s.nextId := rfl
@[simp] theorem updDom_freshN (s : State) (d : Fin 8) (f : Domain → Domain) : (s.updDom d f).freshN = s.freshN := rfl
@[simp] theorem updDom_agenda (s : State) (d : Fin 8) (f : Domain → Domain) : (s.updDom d f).agenda = s.agenda := rfl
@[simp] theorem updDom_sched (s : State) (d : Fin 8) (f : Domain → Domain) : (s.updDom d f).sched = s.sched := rfl

/-! ### Changing the housekeeping core's state -/

@[simp] theorem updHouse_cores (s : State) (f : House → House) : (s.updHouse f).cores = s.cores := rfl
@[simp] theorem updHouse_clusters (s : State) (f : House → House) : (s.updHouse f).clusters = s.clusters := rfl
@[simp] theorem updHouse_homes (s : State) (f : House → House) : (s.updHouse f).homes = s.homes := rfl
@[simp] theorem updHouse_mem (s : State) (f : House → House) : (s.updHouse f).mem = s.mem := rfl
@[simp] theorem updHouse_tags (s : State) (f : House → House) : (s.updHouse f).tags = s.tags := rfl
@[simp] theorem updHouse_poison (s : State) (f : House → House) : (s.updHouse f).poison = s.poison := rfl
@[simp] theorem updHouse_joined (s : State) (f : House → House) : (s.updHouse f).joined = s.joined := rfl
@[simp] theorem updHouse_wins (s : State) (f : House → House) : (s.updHouse f).wins = s.wins := rfl
@[simp] theorem updHouse_wmarks (s : State) (f : House → House) : (s.updHouse f).wmarks = s.wmarks := rfl
@[simp] theorem updHouse_wgrace (s : State) (f : House → House) : (s.updHouse f).wgrace = s.wgrace := rfl
@[simp] theorem updHouse_lage (s : State) (f : House → House) : (s.updHouse f).lage = s.lage := rfl
@[simp] theorem updHouse_atbase (s : State) (f : House → House) : (s.updHouse f).atbase = s.atbase := rfl
@[simp] theorem updHouse_pgarea (s : State) (f : House → House) : (s.updHouse f).pgarea = s.pgarea := rfl
@[simp] theorem updHouse_epcfg (s : State) (f : House → House) : (s.updHouse f).epcfg = s.epcfg := rfl
@[simp] theorem updHouse_gpcfg (s : State) (f : House → House) : (s.updHouse f).gpcfg = s.gpcfg := rfl
@[simp] theorem updHouse_gpNext (s : State) (f : House → House) : (s.updHouse f).gpNext = s.gpNext := rfl
@[simp] theorem updHouse_canev (s : State) (f : House → House) : (s.updHouse f).canev = s.canev := rfl
@[simp] theorem updHouse_canflt (s : State) (f : House → House) : (s.updHouse f).canflt = s.canflt := rfl
@[simp] theorem updHouse_canSof (s : State) (f : House → House) : (s.updHouse f).canSof = s.canSof := rfl
@[simp] theorem updHouse_doms (s : State) (f : House → House) : (s.updHouse f).doms = s.doms := rfl
@[simp] theorem updHouse_vers (s : State) (f : House → House) : (s.updHouse f).vers = s.vers := rfl
@[simp] theorem updHouse_vwait (s : State) (f : House → House) : (s.updHouse f).vwait = s.vwait := rfl
@[simp] theorem updHouse_detWin (s : State) (f : House → House) : (s.updHouse f).detWin = s.detWin := rfl
@[simp] theorem updHouse_parked (s : State) (f : House → House) : (s.updHouse f).parked = s.parked := rfl
@[simp] theorem updHouse_launch (s : State) (f : House → House) : (s.updHouse f).launch = s.launch := rfl
@[simp] theorem updHouse_grids (s : State) (f : House → House) : (s.updHouse f).grids = s.grids := rfl
@[simp] theorem updHouse_parts (s : State) (f : House → House) : (s.updHouse f).parts = s.parts := rfl
@[simp] theorem updHouse_gerr (s : State) (f : House → House) : (s.updHouse f).gerr = s.gerr := rfl
@[simp] theorem updHouse_gerrOvf (s : State) (f : House → House) : (s.updHouse f).gerrOvf = s.gerrOvf := rfl
@[simp] theorem updHouse_pggrow (s : State) (f : House → House) : (s.updHouse f).pggrow = s.pggrow := rfl
@[simp] theorem updHouse_sysnc (s : State) (f : House → House) : (s.updHouse f).sysnc = s.sysnc := rfl
@[simp] theorem updHouse_ops (s : State) (f : House → House) : (s.updHouse f).ops = s.ops := rfl
@[simp] theorem updHouse_bridges (s : State) (f : House → House) : (s.updHouse f).bridges = s.bridges := rfl
@[simp] theorem updHouse_host (s : State) (f : House → House) : (s.updHouse f).host = s.host := rfl
@[simp] theorem updHouse_dt (s : State) (f : House → House) : (s.updHouse f).dt = s.dt := rfl
@[simp] theorem updHouse_dtRate (s : State) (f : House → House) : (s.updHouse f).dtRate = s.dtRate := rfl
@[simp] theorem updHouse_dtSlew (s : State) (f : House → House) : (s.updHouse f).dtSlew = s.dtSlew := rfl
@[simp] theorem updHouse_dtFrac (s : State) (f : House → House) : (s.updHouse f).dtFrac = s.dtFrac := rfl
@[simp] theorem updHouse_cur (s : State) (f : House → House) : (s.updHouse f).cur = s.cur := rfl
@[simp] theorem updHouse_nextId (s : State) (f : House → House) : (s.updHouse f).nextId = s.nextId := rfl
@[simp] theorem updHouse_freshN (s : State) (f : House → House) : (s.updHouse f).freshN = s.freshN := rfl
@[simp] theorem updHouse_agenda (s : State) (f : House → House) : (s.updHouse f).agenda = s.agenda := rfl
@[simp] theorem updHouse_sched (s : State) (f : House → House) : (s.updHouse f).sched = s.sched := rfl

/-! ### A fresh number -/

@[simp] theorem newId_cores (s : State) : s.newId.2.cores = s.cores := rfl
@[simp] theorem newId_clusters (s : State) : s.newId.2.clusters = s.clusters := rfl
@[simp] theorem newId_homes (s : State) : s.newId.2.homes = s.homes := rfl
@[simp] theorem newId_mem (s : State) : s.newId.2.mem = s.mem := rfl
@[simp] theorem newId_tags (s : State) : s.newId.2.tags = s.tags := rfl
@[simp] theorem newId_poison (s : State) : s.newId.2.poison = s.poison := rfl
@[simp] theorem newId_joined (s : State) : s.newId.2.joined = s.joined := rfl
@[simp] theorem newId_wins (s : State) : s.newId.2.wins = s.wins := rfl
@[simp] theorem newId_wmarks (s : State) : s.newId.2.wmarks = s.wmarks := rfl
@[simp] theorem newId_wgrace (s : State) : s.newId.2.wgrace = s.wgrace := rfl
@[simp] theorem newId_lage (s : State) : s.newId.2.lage = s.lage := rfl
@[simp] theorem newId_atbase (s : State) : s.newId.2.atbase = s.atbase := rfl
@[simp] theorem newId_pgarea (s : State) : s.newId.2.pgarea = s.pgarea := rfl
@[simp] theorem newId_epcfg (s : State) : s.newId.2.epcfg = s.epcfg := rfl
@[simp] theorem newId_gpcfg (s : State) : s.newId.2.gpcfg = s.gpcfg := rfl
@[simp] theorem newId_gpNext (s : State) : s.newId.2.gpNext = s.gpNext := rfl
@[simp] theorem newId_canev (s : State) : s.newId.2.canev = s.canev := rfl
@[simp] theorem newId_canflt (s : State) : s.newId.2.canflt = s.canflt := rfl
@[simp] theorem newId_canSof (s : State) : s.newId.2.canSof = s.canSof := rfl
@[simp] theorem newId_doms (s : State) : s.newId.2.doms = s.doms := rfl
@[simp] theorem newId_vers (s : State) : s.newId.2.vers = s.vers := rfl
@[simp] theorem newId_vwait (s : State) : s.newId.2.vwait = s.vwait := rfl
@[simp] theorem newId_detWin (s : State) : s.newId.2.detWin = s.detWin := rfl
@[simp] theorem newId_parked (s : State) : s.newId.2.parked = s.parked := rfl
@[simp] theorem newId_launch (s : State) : s.newId.2.launch = s.launch := rfl
@[simp] theorem newId_grids (s : State) : s.newId.2.grids = s.grids := rfl
@[simp] theorem newId_parts (s : State) : s.newId.2.parts = s.parts := rfl
@[simp] theorem newId_gerr (s : State) : s.newId.2.gerr = s.gerr := rfl
@[simp] theorem newId_gerrOvf (s : State) : s.newId.2.gerrOvf = s.gerrOvf := rfl
@[simp] theorem newId_pggrow (s : State) : s.newId.2.pggrow = s.pggrow := rfl
@[simp] theorem newId_sysnc (s : State) : s.newId.2.sysnc = s.sysnc := rfl
@[simp] theorem newId_ops (s : State) : s.newId.2.ops = s.ops := rfl
@[simp] theorem newId_bridges (s : State) : s.newId.2.bridges = s.bridges := rfl
@[simp] theorem newId_host (s : State) : s.newId.2.host = s.host := rfl
@[simp] theorem newId_house (s : State) : s.newId.2.house = s.house := rfl
@[simp] theorem newId_dt (s : State) : s.newId.2.dt = s.dt := rfl
@[simp] theorem newId_dtRate (s : State) : s.newId.2.dtRate = s.dtRate := rfl
@[simp] theorem newId_dtSlew (s : State) : s.newId.2.dtSlew = s.dtSlew := rfl
@[simp] theorem newId_dtFrac (s : State) : s.newId.2.dtFrac = s.dtFrac := rfl
@[simp] theorem newId_cur (s : State) : s.newId.2.cur = s.cur := rfl
@[simp] theorem newId_freshN (s : State) : s.newId.2.freshN = s.freshN := rfl
@[simp] theorem newId_agenda (s : State) : s.newId.2.agenda = s.agenda := rfl
@[simp] theorem newId_sched (s : State) : s.newId.2.sched = s.sched := rfl

/-! ### A free value drawn -/

@[simp] theorem free_cores (s : State) : s.free.2.cores = s.cores := rfl
@[simp] theorem free_clusters (s : State) : s.free.2.clusters = s.clusters := rfl
@[simp] theorem free_homes (s : State) : s.free.2.homes = s.homes := rfl
@[simp] theorem free_mem (s : State) : s.free.2.mem = s.mem := rfl
@[simp] theorem free_tags (s : State) : s.free.2.tags = s.tags := rfl
@[simp] theorem free_poison (s : State) : s.free.2.poison = s.poison := rfl
@[simp] theorem free_joined (s : State) : s.free.2.joined = s.joined := rfl
@[simp] theorem free_wins (s : State) : s.free.2.wins = s.wins := rfl
@[simp] theorem free_wmarks (s : State) : s.free.2.wmarks = s.wmarks := rfl
@[simp] theorem free_wgrace (s : State) : s.free.2.wgrace = s.wgrace := rfl
@[simp] theorem free_lage (s : State) : s.free.2.lage = s.lage := rfl
@[simp] theorem free_atbase (s : State) : s.free.2.atbase = s.atbase := rfl
@[simp] theorem free_pgarea (s : State) : s.free.2.pgarea = s.pgarea := rfl
@[simp] theorem free_epcfg (s : State) : s.free.2.epcfg = s.epcfg := rfl
@[simp] theorem free_gpcfg (s : State) : s.free.2.gpcfg = s.gpcfg := rfl
@[simp] theorem free_gpNext (s : State) : s.free.2.gpNext = s.gpNext := rfl
@[simp] theorem free_canev (s : State) : s.free.2.canev = s.canev := rfl
@[simp] theorem free_canflt (s : State) : s.free.2.canflt = s.canflt := rfl
@[simp] theorem free_canSof (s : State) : s.free.2.canSof = s.canSof := rfl
@[simp] theorem free_doms (s : State) : s.free.2.doms = s.doms := rfl
@[simp] theorem free_vers (s : State) : s.free.2.vers = s.vers := rfl
@[simp] theorem free_vwait (s : State) : s.free.2.vwait = s.vwait := rfl
@[simp] theorem free_detWin (s : State) : s.free.2.detWin = s.detWin := rfl
@[simp] theorem free_parked (s : State) : s.free.2.parked = s.parked := rfl
@[simp] theorem free_launch (s : State) : s.free.2.launch = s.launch := rfl
@[simp] theorem free_grids (s : State) : s.free.2.grids = s.grids := rfl
@[simp] theorem free_parts (s : State) : s.free.2.parts = s.parts := rfl
@[simp] theorem free_gerr (s : State) : s.free.2.gerr = s.gerr := rfl
@[simp] theorem free_gerrOvf (s : State) : s.free.2.gerrOvf = s.gerrOvf := rfl
@[simp] theorem free_pggrow (s : State) : s.free.2.pggrow = s.pggrow := rfl
@[simp] theorem free_sysnc (s : State) : s.free.2.sysnc = s.sysnc := rfl
@[simp] theorem free_ops (s : State) : s.free.2.ops = s.ops := rfl
@[simp] theorem free_bridges (s : State) : s.free.2.bridges = s.bridges := rfl
@[simp] theorem free_host (s : State) : s.free.2.host = s.host := rfl
@[simp] theorem free_house (s : State) : s.free.2.house = s.house := rfl
@[simp] theorem free_dt (s : State) : s.free.2.dt = s.dt := rfl
@[simp] theorem free_dtRate (s : State) : s.free.2.dtRate = s.dtRate := rfl
@[simp] theorem free_dtSlew (s : State) : s.free.2.dtSlew = s.dtSlew := rfl
@[simp] theorem free_dtFrac (s : State) : s.free.2.dtFrac = s.dtFrac := rfl
@[simp] theorem free_cur (s : State) : s.free.2.cur = s.cur := rfl
@[simp] theorem free_nextId (s : State) : s.free.2.nextId = s.nextId := rfl
@[simp] theorem free_agenda (s : State) : s.free.2.agenda = s.agenda := rfl
@[simp] theorem free_sched (s : State) : s.free.2.sched = s.sched := rfl

/-! ### An event posted -/

@[simp] theorem post_cores (s : State) (d : Nat) (e : Instr) : (s.post d e).cores = s.cores := rfl
@[simp] theorem post_clusters (s : State) (d : Nat) (e : Instr) : (s.post d e).clusters = s.clusters := rfl
@[simp] theorem post_homes (s : State) (d : Nat) (e : Instr) : (s.post d e).homes = s.homes := rfl
@[simp] theorem post_mem (s : State) (d : Nat) (e : Instr) : (s.post d e).mem = s.mem := rfl
@[simp] theorem post_tags (s : State) (d : Nat) (e : Instr) : (s.post d e).tags = s.tags := rfl
@[simp] theorem post_poison (s : State) (d : Nat) (e : Instr) : (s.post d e).poison = s.poison := rfl
@[simp] theorem post_joined (s : State) (d : Nat) (e : Instr) : (s.post d e).joined = s.joined := rfl
@[simp] theorem post_wins (s : State) (d : Nat) (e : Instr) : (s.post d e).wins = s.wins := rfl
@[simp] theorem post_wmarks (s : State) (d : Nat) (e : Instr) : (s.post d e).wmarks = s.wmarks := rfl
@[simp] theorem post_wgrace (s : State) (d : Nat) (e : Instr) : (s.post d e).wgrace = s.wgrace := rfl
@[simp] theorem post_lage (s : State) (d : Nat) (e : Instr) : (s.post d e).lage = s.lage := rfl
@[simp] theorem post_atbase (s : State) (d : Nat) (e : Instr) : (s.post d e).atbase = s.atbase := rfl
@[simp] theorem post_pgarea (s : State) (d : Nat) (e : Instr) : (s.post d e).pgarea = s.pgarea := rfl
@[simp] theorem post_epcfg (s : State) (d : Nat) (e : Instr) : (s.post d e).epcfg = s.epcfg := rfl
@[simp] theorem post_gpcfg (s : State) (d : Nat) (e : Instr) : (s.post d e).gpcfg = s.gpcfg := rfl
@[simp] theorem post_gpNext (s : State) (d : Nat) (e : Instr) : (s.post d e).gpNext = s.gpNext := rfl
@[simp] theorem post_canev (s : State) (d : Nat) (e : Instr) : (s.post d e).canev = s.canev := rfl
@[simp] theorem post_canflt (s : State) (d : Nat) (e : Instr) : (s.post d e).canflt = s.canflt := rfl
@[simp] theorem post_canSof (s : State) (d : Nat) (e : Instr) : (s.post d e).canSof = s.canSof := rfl
@[simp] theorem post_doms (s : State) (d : Nat) (e : Instr) : (s.post d e).doms = s.doms := rfl
@[simp] theorem post_vers (s : State) (d : Nat) (e : Instr) : (s.post d e).vers = s.vers := rfl
@[simp] theorem post_vwait (s : State) (d : Nat) (e : Instr) : (s.post d e).vwait = s.vwait := rfl
@[simp] theorem post_detWin (s : State) (d : Nat) (e : Instr) : (s.post d e).detWin = s.detWin := rfl
@[simp] theorem post_parked (s : State) (d : Nat) (e : Instr) : (s.post d e).parked = s.parked := rfl
@[simp] theorem post_launch (s : State) (d : Nat) (e : Instr) : (s.post d e).launch = s.launch := rfl
@[simp] theorem post_grids (s : State) (d : Nat) (e : Instr) : (s.post d e).grids = s.grids := rfl
@[simp] theorem post_parts (s : State) (d : Nat) (e : Instr) : (s.post d e).parts = s.parts := rfl
@[simp] theorem post_gerr (s : State) (d : Nat) (e : Instr) : (s.post d e).gerr = s.gerr := rfl
@[simp] theorem post_gerrOvf (s : State) (d : Nat) (e : Instr) : (s.post d e).gerrOvf = s.gerrOvf := rfl
@[simp] theorem post_pggrow (s : State) (d : Nat) (e : Instr) : (s.post d e).pggrow = s.pggrow := rfl
@[simp] theorem post_sysnc (s : State) (d : Nat) (e : Instr) : (s.post d e).sysnc = s.sysnc := rfl
@[simp] theorem post_ops (s : State) (d : Nat) (e : Instr) : (s.post d e).ops = s.ops := rfl
@[simp] theorem post_bridges (s : State) (d : Nat) (e : Instr) : (s.post d e).bridges = s.bridges := rfl
@[simp] theorem post_host (s : State) (d : Nat) (e : Instr) : (s.post d e).host = s.host := rfl
@[simp] theorem post_house (s : State) (d : Nat) (e : Instr) : (s.post d e).house = s.house := rfl
@[simp] theorem post_dt (s : State) (d : Nat) (e : Instr) : (s.post d e).dt = s.dt := rfl
@[simp] theorem post_dtRate (s : State) (d : Nat) (e : Instr) : (s.post d e).dtRate = s.dtRate := rfl
@[simp] theorem post_dtSlew (s : State) (d : Nat) (e : Instr) : (s.post d e).dtSlew = s.dtSlew := rfl
@[simp] theorem post_dtFrac (s : State) (d : Nat) (e : Instr) : (s.post d e).dtFrac = s.dtFrac := rfl
@[simp] theorem post_cur (s : State) (d : Nat) (e : Instr) : (s.post d e).cur = s.cur := rfl
@[simp] theorem post_nextId (s : State) (d : Nat) (e : Instr) : (s.post d e).nextId = s.nextId := rfl
@[simp] theorem post_freshN (s : State) (d : Nat) (e : Instr) : (s.post d e).freshN = s.freshN := rfl
@[simp] theorem post_sched (s : State) (d : Nat) (e : Instr) : (s.post d e).sched = s.sched := rfl

/-! ### Parts as stored -/

@[simp] theorem setCore_core_same (s : State) (c : CoreId) (x : Core) : (s.setCore c x).core c = x := rd_wr_same _ _ _
theorem setCore_core_ne (s : State) {c e : CoreId} (x : Core) (h : e ≠ c) : (s.setCore c x).core e = s.core e := rd_wr_ne _ _ h
@[simp] theorem updCore_core_same (s : State) (c : CoreId) (f : Core → Core) : (s.updCore c f).core c = f (s.core c) :=
  rd_wr_same _ _ _
theorem updCore_core_ne (s : State) {c e : CoreId} (f : Core → Core) (h : e ≠ c) : (s.updCore c f).core e = s.core e :=
  rd_wr_ne _ _ h
@[simp] theorem setCluster_cluster_same (s : State) (q : ClusterId) (x : Cluster) : (s.setCluster q x).cluster q = x :=
  rd_wr_same _ _ _
theorem setCluster_cluster_ne (s : State) {q r : ClusterId} (x : Cluster) (h : r ≠ q) :
    (s.setCluster q x).cluster r = s.cluster r := rd_wr_ne _ _ h
@[simp] theorem updCluster_cluster_same (s : State) (q : ClusterId) (f : Cluster → Cluster) :
    (s.updCluster q f).cluster q = f (s.cluster q) := rd_wr_same _ _ _
theorem updCluster_cluster_ne (s : State) {q r : ClusterId} (f : Cluster → Cluster) (h : r ≠ q) :
    (s.updCluster q f).cluster r = s.cluster r := rd_wr_ne _ _ h

@[simp] theorem setStrand_strand_same (s : State) (c : CoreId) (k : SlotId) (x : Strand) :
    (s.setStrand c k x).strand c k = x := by
  simp [State.setStrand, State.strand, Core.strand]

/-- Storing a strand changes no other strand. -/
theorem setStrand_strand_ne (s : State) {c e : CoreId} {k j : SlotId} (x : Strand) (h : (e, j) ≠ (c, k)) :
    (s.setStrand c k x).strand e j = s.strand e j := by
  unfold State.setStrand State.strand Core.strand
  by_cases he : e = c
  · subst he
    have hj : j ≠ k := fun e => h (by rw [e])
    rw [updCore_core_same]
    exact rd_wr_ne _ _ hj
  · rw [updCore_core_ne _ _ he]

/-- Storing the running strand changes no other strand. -/
theorem setMe_strand_ne (s : State) {e : CoreId} {j : SlotId} (x : Strand) (h : (e, j) ≠ s.cur) :
    (s.setMe x).strand e j = s.strand e j := setStrand_strand_ne s x h

end Sys2Proof.Machine
end

