-- ==== Sys2Proof/Laws/Issue.lean ====
section
/-! SUPPORT. What reading an operand, writing a destination and issuing an instruction answer: cite these instead of
unfolding them. -/

namespace Sys2Proof.Machine

/-- A file is unchanged by writing what it holds. -/
@[simp] theorem wr_rd {α : Type} {n : Nat} (v : Vector α n) (i : Fin n) : wr v i (rd v i) = v := by
  simp [wr, rd]

@[simp] theorem wr_wr {α : Type} {n : Nat} (v : Vector α n) (i : Fin n) (x y : α) : wr (wr v i x) i y = wr v i y := by
  simp [wr]

/-! ### The running strand -/

@[simp] theorem setCore_core (s : State) (c : CoreId) : s.setCore c (s.core c) = s := by
  unfold State.setCore State.core
  rw [wr_rd]

@[simp] theorem setStrand_strand (s : State) (c : CoreId) (k : SlotId) : s.setStrand c k (s.strand c k) = s := by
  have h : wr (s.core c).strands k (s.strand c k) = (s.core c).strands := wr_rd _ _
  show s.setCore c { s.core c with strands := wr (s.core c).strands k (s.strand c k) } = s
  rw [h]
  exact setCore_core s c

@[simp] theorem setMe_me (s : State) : s.setMe s.me = s := setStrand_strand s s.cur.1 s.cur.2

@[simp] theorem me_setMe (s : State) (x : Strand) : (s.setMe x).me = x := by
  simp [State.setMe, State.setStrand, State.updCore, State.setCore, State.me, State.strand, Core.strand, State.core]

@[simp] theorem setMe_setMe (s : State) (x y : Strand) : (s.setMe x).setMe y = s.setMe y := by
  simp [State.setMe, State.setStrand, State.updCore, State.setCore, State.core]


theorem updMe_eq (s : State) (f : Strand → Strand) : s.updMe f = s.setMe (f s.me) := rfl

/-! ### Operands -/

/-- An operand that `source` gives is what the instruction reads. -/
theorem useC_of_source {s : State} {i : Fin 64} {v : CVal} {x : Strand} (h : s.me.source i = some (v, x)) :
    s.useC i = .ok (v, s.setMe x) := by
  unfold Strand.source at h
  unfold State.useC
  by_cases h0 : i.val = 0
  · have : i = 0 := Fin.ext h0
    subst this
    simp at h
    obtain ⟨rfl, rfl⟩ := h
    simp [Strand.creg]
  simp only [h0, if_false] at h
  by_cases h60 : i.val = 60
  · simp only [h60, if_true] at h ⊢
    split at h
    · rename_i q qs e
      obtain ⟨rfl, rfl⟩ := by simpa using h
      simp [e]
    · simp at h
  simp only [h60, if_false] at h ⊢
  by_cases h61 : i.val = 61
  · simp [h61] at h
  simp only [h61, if_false] at h ⊢
  by_cases h62 : i.val = 62
  · simp only [h62, if_true] at h ⊢
    split at h
    · rename_i q qs e
      obtain ⟨rfl, rfl⟩ := by simpa using h
      simp [e]
    · simp at h
  simp only [h62, if_false] at h ⊢
  by_cases h63 : i.val = 63
  · simp only [h63, if_true] at h ⊢
    split at h
    · rename_i ch u w ws e
      obtain ⟨rfl, rfl⟩ := by simpa using h
      simp [e]
    · simp at h
  simp only [h63, if_false] at h ⊢
  obtain ⟨rfl, rfl⟩ := by simpa using h
  have : i ≠ 0 := fun e => h0 (by simp [e])
  simp [Strand.creg, this]

theorem useX_of_source {s : State} {i : Fin 64} {v : CVal} {x : Strand} (h : s.me.source i = some (v, x)) :
    s.useX i = .ok (v.addr, s.setMe x) := by
  simp [State.useX, useC_of_source h]

theorem useV_of_sourceV {s : State} {i : Fin 32} {v : VReg} {x : Strand} (h : s.me.sourceV i = some (v, x)) :
    s.useV i = .ok (v, s.setMe x) := by
  unfold Strand.sourceV at h
  unfold State.useV
  by_cases h31 : i.val = 31
  · simp only [h31, if_true] at h ⊢
    split at h
    · rename_i q qs e
      obtain ⟨rfl, rfl⟩ := by simpa using h
      simp [e]
    · simp at h
  simp only [h31, if_false] at h ⊢
  by_cases h30 : i.val = 30
  · simp [h30] at h
  simp only [h30, if_false] at h ⊢
  obtain ⟨rfl, rfl⟩ := by simpa using h
  simp

/-! ### Destinations -/

/-- A destination that `result` gives is what the instruction leaves. -/
theorem putC_of_result {s : State} {i : Fin 64} {v : CVal} {y : Strand} (h : s.me.result i v = some y) :
    s.putC i v = .ok (s.setMe y) := by
  unfold Strand.result at h
  unfold State.putC State.landC
  by_cases h0 : i.val = 0
  · simp only [h0, if_true] at h
    obtain rfl := by simpa using h
    simp [h0, Strand.dropWin]
  simp only [h0, if_false] at h
  by_cases h60 : i.val = 60
  · simp [h60] at h
  by_cases h62 : i.val = 62
  · simp [h62] at h
  simp only [h60, h62, or_self, if_false] at h ⊢
  by_cases h61 : i.val = 61
  · simp only [h61, if_true] at h ⊢
    split at h
    · rename_i e
      obtain rfl := by simpa using h
      simp [Strand.dropWin, e]
    · simp at h
  simp only [h61, if_false] at h ⊢
  by_cases h63 : i.val = 63
  · simp only [h63, if_true] at h ⊢
    split at h
    · rename_i e
      obtain rfl := by simpa using h
      simp [Strand.dropWin, e]
    · simp at h
  simp only [h63, if_false] at h ⊢
  obtain rfl := by simpa using h
  simp [h0, Strand.dropWin, Strand.setC]

theorem putX_of_result {s : State} {i : Fin 64} {v : Dbl} {y : Strand}
    (h : s.me.result i (.plain (v.setWidth 128)) = some y) : s.putX i v = .ok (s.setMe y) := putC_of_result h

theorem putV_of_resultV {s : State} {i : Fin 32} {v : VReg} {y : Strand} (h : s.me.resultV i v = some y) :
    s.putV i v = .ok (s.setMe y) := by
  unfold Strand.resultV at h
  unfold State.putV State.landV
  by_cases h31 : i.val = 31
  · simp [h31] at h
  simp only [h31, if_false] at h ⊢
  by_cases h30 : i.val = 30
  · simp only [h30, if_true] at h ⊢
    split at h
    · rename_i e
      obtain rfl := by simpa using h
      simp [Strand.dropWin, e]
    · simp at h
  simp only [h30, if_false] at h ⊢
  obtain rfl := by simpa using h
  simp [Strand.dropWin]

/-! ### The same after the strand has been set -/

theorem useC_setMe {s : State} {y z : Strand} {i : Fin 64} {v : CVal} (h : y.source i = some (v, z)) :
    (s.setMe y).useC i = .ok (v, s.setMe z) := by
  have := useC_of_source (s := s.setMe y) (by simpa using h)
  simpa using this

theorem useX_setMe {s : State} {y z : Strand} {i : Fin 64} {v : CVal} (h : y.source i = some (v, z)) :
    (s.setMe y).useX i = .ok (v.addr, s.setMe z) := by
  have := useX_of_source (s := s.setMe y) (by simpa using h)
  simpa using this

theorem useV_setMe {s : State} {y z : Strand} {i : Fin 32} {v : VReg} (h : y.sourceV i = some (v, z)) :
    (s.setMe y).useV i = .ok (v, s.setMe z) := by
  have := useV_of_sourceV (s := s.setMe y) (by simpa using h)
  simpa using this

theorem putC_setMe {s : State} {y z : Strand} {i : Fin 64} {v : CVal} (h : y.result i v = some z) :
    (s.setMe y).putC i v = .ok (s.setMe z) := by
  have := putC_of_result (s := s.setMe y) (by simpa using h)
  simpa using this

theorem putV_setMe {s : State} {y z : Strand} {i : Fin 32} {v : VReg} (h : y.resultV i v = some z) :
    (s.setMe y).putV i v = .ok (s.setMe z) := by
  have := putV_of_resultV (s := s.setMe y) (by simpa using h)
  simpa using this

/-- Reading an operand changes only the queue it pops. -/
theorem source_asid {x y : Strand} {i : Fin 64} {v : CVal} (h : x.source i = some (v, y)) : y.asid = x.asid := by
  unfold Strand.source at h
  repeat' split at h
  all_goals first | (simp at h; done) | (simp only [Option.some.injEq, Prod.mk.injEq] at h; obtain ⟨-, rfl⟩ := h; rfl)

theorem source_work {x y : Strand} {i : Fin 64} {v : CVal} (h : x.source i = some (v, y)) : y.work = x.work := by
  unfold Strand.source at h
  repeat' split at h
  all_goals first | (simp at h; done) | (simp only [Option.some.injEq, Prod.mk.injEq] at h; obtain ⟨-, rfl⟩ := h; rfl)

theorem source_pcc {x y : Strand} {i : Fin 64} {v : CVal} (h : x.source i = some (v, y)) : y.pcc = x.pcc := by
  unfold Strand.source at h
  repeat' split at h
  all_goals first | (simp at h; done) | (simp only [Option.some.injEq, Prod.mk.injEq] at h; obtain ⟨-, rfl⟩ := h; rfl)

theorem source_wins {x y : Strand} {i : Fin 64} {v : CVal} (h : x.source i = some (v, y)) : y.wins = x.wins := by
  unfold Strand.source at h
  repeat' split at h
  all_goals first | (simp at h; done) | (simp only [Option.some.injEq, Prod.mk.injEq] at h; obtain ⟨-, rfl⟩ := h; rfl)

@[simp] theorem raise_setMe (s : State) (fl : Nat) : s.raise fl = s.setMe (s.me.flagged fl) := rfl

theorem putG_eq (s : State) (i : Fin 8) (b : Bool) : s.putG i b = s.setMe (s.me.withGuard i b) := by
  unfold State.putG Strand.withGuard
  split <;> simp [updMe_eq]

theorem putM_eq (s : State) (i : Fin 8) (q : Quad) : s.putM i q = s.setMe (s.me.withMask i q) := by
  unfold State.putM Strand.withMask
  split <;> simp [updMe_eq]

/-! ### Issue -/

/-- An instruction that completes: its effect happened, and the strand goes on (01 R23). -/
theorem issue_ok {g : Fin 8} {len : Nat} {s s1 : State} {f : State → Except Stop State} (hg : s.me.guard g = true)
    (h : f s = .ok s1) : issue g len s f = .next (s.passedTo len s1) := by
  simp [issue, issueN, hg, h, State.passedTo]

/-- An instruction that changes only its own strand. -/
theorem issue_me {g : Fin 8} {len : Nat} {s : State} {x : Strand} {f : State → Except Stop State}
    (hg : s.me.guard g = true) (h : f s = .ok (s.setMe x)) : issue g len s f = .next (s.passed len x) := by
  rw [issue_ok hg h]
  simp [State.passedTo, State.passed]

/-- An instruction guarded off only counts (01 R26). -/
theorem issue_off {g : Fin 8} {len : Nat} {s : State} {f : State → Except Stop State} (hg : s.me.guard g = false) :
    issue g len s f = .next (s.passed len s.me) := by
  simp [issue, issueN, hg, State.passed]

theorem issueN_off {g : Fin 8} {len : Nat} {s : State} {f : State → Except Stop (State × Next)}
    (hg : s.me.guard g = false) : issueN g len s f = .next (s.passed len s.me) := by
  simp [issueN, hg, State.passed]

/-- An instruction that traps (07 R204). -/
theorem issue_trap {g : Fin 8} {len : Nat} {s : State} {t : Trap} {a : Option Dbl} {f : State → Except Stop State}
    (hg : s.me.guard g = true) (h : f s = .error (.trap t a)) :
    issue g len s f = .next (s.takeTrap s.cur.1 s.cur.2 t a) := by
  simp [issue, issueN, hg, h]

theorem issueN_trap {g : Fin 8} {len : Nat} {s : State} {t : Trap} {a : Option Dbl}
    {f : State → Except Stop (State × Next)} (hg : s.me.guard g = true) (h : f s = .error (.trap t a)) :
    issueN g len s f = .next (s.takeTrap s.cur.1 s.cur.2 t a) := by
  simp [issueN, hg, h]

theorem issueN_seq {g : Fin 8} {len : Nat} {s s1 : State} {f : State → Except Stop (State × Next)}
    (hg : s.me.guard g = true) (h : f s = .ok (s1, .seq)) : issueN g len s f = .next (s.passedTo len s1) := by
  simp [issueN, hg, h, State.passedTo]

theorem issueN_jump {g : Fin 8} {len : Nat} {s : State} {x : Strand} {p : CVal} {f : State → Except Stop (State × Next)}
    (hg : s.me.guard g = true) (h : f s = .ok (s.setMe x, .jump p)) : issueN g len s f = .next (s.leapt p x) := by
  simp [issueN, hg, h, State.leapt]

theorem issueN_gone {g : Fin 8} {len : Nat} {s s1 : State} {f : State → Except Stop (State × Next)}
    (hg : s.me.guard g = true) (h : f s = .ok (s1, .gone)) : issueN g len s f = .next s1 := by
  simp [issueN, hg, h]

end Sys2Proof.Machine
end

