-- ==== Sys2Proof/Laws/Access.lean ====
section
/-! SUPPORT. Accesses at issue: checks, posting, windows, and what a load or a store leaves in a strand. -/

namespace Sys2Proof.Machine

/-- The checks of an access pass where it may be made. -/
theorem checkAccess_ok {s : State} {c : CVal} {ps : List Perm} {va : Dbl} {n al : Nat} {k : Bool}
    (h : s.mayAccess c ps va n al k) : s.checkAccess c ps va n al k = .ok () := by
  obtain ⟨h1, h2, h3, h4, h5⟩ := h
  unfold State.checkAccess
  simp only [h1, h2, h3, h4, Bool.not_true, Bool.false_eq_true, if_false, ne_eq, not_true_eq_false]
  rw [if_neg]
  rintro ⟨a, b, d⟩
  rcases h5 with h | h | h <;> simp_all

theorem mayAccess_setMe {s : State} {x : Strand} {c : CVal} {ps : List Perm} {va : Dbl} {n al : Nat} {k : Bool} :
    (s.setMe x).mayAccess c ps va n al k ↔ s.mayAccess c ps va n al k := Iff.rfl

theorem useStoreC_of {s : State} {i : Fin 64} {v : CVal} {x : Strand} (h : s.me.storeData i = some (v, x)) :
    s.useStoreC i = .ok (v, s.setMe x) := by
  unfold Strand.storeData at h
  unfold State.useStoreC
  split
  · rename_i hi
    simp only [hi, if_true] at h
    split at h
    · rename_i q qs e
      simp only [Option.some.injEq, Prod.mk.injEq] at h
      obtain ⟨rfl, rfl⟩ := h
      simp [e]
    · simp at h
  · rename_i hi
    simp only [hi, if_false] at h
    exact useC_of_source h

theorem useStoreV_of {s : State} {i : Fin 32} {v : VReg} {x : Strand} (h : s.me.storeDataV i = some (v, x)) :
    s.useStoreV i = .ok (v, s.setMe x) := by
  unfold Strand.storeDataV at h
  unfold State.useStoreV
  split
  · rename_i hi
    simp only [hi, if_true] at h
    split at h
    · rename_i q qs e
      simp only [Option.some.injEq, Prod.mk.injEq] at h
      obtain ⟨rfl, rfl⟩ := h
      simp [e]
    · simp at h
  · rename_i hi
    simp only [hi, if_false] at h
    exact useV_of_sourceV h

/-- A load's value lands. -/
theorem landC_of_landing {s : State} {i : Fin 64} {v : CVal} {z : Strand} (h : s.me.landing i v = some z) :
    (s.setMe (s.me.dropWin (.c i))).landC i v = .ok (s.setMe z) := by
  unfold Strand.landing at h
  by_cases h60 : i.val = 60
  · simp only [h60, if_true] at h
    split at h
    · rename_i e
      simp only [Option.some.injEq] at h
      subst h
      have h0 : ¬ i.val = 0 := by omega
      simp [State.landC, h60, Strand.dropWin, e]
    · simp at h
  · simp only [h60, if_false] at h
    have := putC_of_result h
    simpa [State.putC, h60] using this

theorem landV_of_landingV {s : State} {i : Fin 32} {v : VReg} {z : Strand} (h : s.me.landingV i v = some z) :
    (s.setMe (s.me.dropWin (.v i))).landV i v = .ok (s.setMe z) := by
  unfold Strand.landingV at h
  by_cases h31 : i.val = 31
  · simp only [h31, if_true] at h
    split at h
    · rename_i e
      simp only [Option.some.injEq] at h
      subst h
      simp [State.landV, h31, Strand.dropWin, e]
    · simp at h
  · simp only [h31, if_false] at h
    have := putV_of_resultV h
    simpa [State.putV, h31] using this

/-- Posting an access within the limit of 16. -/
theorem postAccess_of {s : State} {y : Strand} {cap : CVal} {va : Dbl} {k : PKind}
    (h : (s.setMe y).outstanding s.cur.1 s.cur.2 < 16) :
    (s.setMe y).postAccess s.cur.1 s.cur.2 cap va k = .ok (s.posting y cap va k) := by
  unfold State.postAccess
  have e : (s.setMe y).strand s.cur.1 s.cur.2 = y := me_setMe s y
  rw [if_neg (by omega)]
  simp only [State.newId, State.posting]
  cases k <;> simp [State.post, State.updCore, State.setCore, State.core, State.setMe, State.setStrand, State.strand,
    Core.strand]

/-- A store of a strand that is not speculative, within the limit of 16, is posted (04 R106). -/
theorem store_of {s : State} {y : Strand} {cap : CVal} {va : Dbl} {parts : List (Dbl × List Byte)} {tagged : List Dbl}
    (h0 : (s.setMe y).specOf y = none) (h : (s.setMe y).outstanding s.cur.1 s.cur.2 < 16) :
    (s.setMe y).store s.cur.1 s.cur.2 cap va parts tagged = .ok (s.posting y cap va (.store parts tagged)) := by
  unfold State.store
  have e : (s.setMe y).strand s.cur.1 s.cur.2 = y := me_setMe s y
  rw [e, h0]
  exact postAccess_of h

/-- The scaled offset of an encoding (04 R100). -/
theorem off6_scaled (o : Fin 64) (n : Nat) : off6 o.val n = scaled o n := by
  have : o.val % 2 ^ 6 = o.val := Nat.mod_eq_of_lt o.isLt
  unfold off6 scaled sint
  rw [this]
  rfl

end Sys2Proof.Machine
end

