-- ==== Sys2Proof/Laws/Dispatch.lean ====
section
/-! SUPPORT. Each constructor's meaning, so that no proof unfolds the dispatch. -/

namespace Sys2Proof.Machine

@[simp] theorem exec_memoryUpcall {c k} {s : State} : exec (.memoryUpcall c k) s = execMemoryUpcall c k s := rfl
@[simp] theorem exec_loadResponse {c k id} {s : State} : exec (.loadResponse c k id) s = execLoadResponse c k id s := rfl
@[simp] theorem exec_storeAtHome {c id} {s : State} : exec (.storeAtHome c id) s = execStoreAtHome c id s := rfl
@[simp] theorem exec_postedErrorResponse {c id} {s : State} : exec (.postedErrorResponse c id) s = execPostedErrorResponse c id s := rfl
@[simp] theorem exec_amoAtHome {c id} {s : State} : exec (.amoAtHome c id) s = execAmoAtHome c id s := rfl
@[simp] theorem exec_xaddAtHome {c id} {s : State} : exec (.xaddAtHome c id) s = execXaddAtHome c id s := rfl
@[simp] theorem exec_joinDecrement {c asid entry jo} {s : State} : exec (.joinDecrement c asid entry jo) s = execJoinDecrement c asid entry jo s := rfl
@[simp] theorem exec_taskCommit {d} {s : State} : exec (.taskCommit d) s = execTaskCommit d s := rfl
@[simp] theorem exec_taskIrrevocable {d} {s : State} : exec (.taskIrrevocable d) s = execTaskIrrevocable d s := rfl
@[simp] theorem exec_versionRecordFreed {h} {s : State} : exec (.versionRecordFreed h) s = execVersionRecordFreed h s := rfl
@[simp] theorem exec_messageArrival {c m} {s : State} : exec (.messageArrival c m) s = execMessageArrival c m s := rfl
@[simp] theorem exec_refusalCallback {c ch} {s : State} : exec (.refusalCallback c ch) s = execRefusalCallback c ch s := rfl
@[simp] theorem exec_messageResend {c m} {s : State} : exec (.messageResend c m) s = execMessageResend c m s := rfl
@[simp] theorem exec_sendAccepted {c k} {s : State} : exec (.sendAccepted c k) s = execSendAccepted c k s := rfl
@[simp] theorem exec_handlerChoice {c} {s : State} : exec (.handlerChoice c) s = execHandlerChoice c s := rfl
@[simp] theorem exec_continuationTake {c} {s : State} : exec (.continuationTake c) s = execContinuationTake c s := rfl
@[simp] theorem exec_stealRound {c} {s : State} : exec (.stealRound c) s = execStealRound c s := rfl
@[simp] theorem exec_stealRetryTimeout {c} {s : State} : exec (.stealRetryTimeout c) s = execStealRetryTimeout c s := rfl
@[simp] theorem exec_queuePushWait {q} {s : State} : exec (.queuePushWait q) s = execQueuePushWait q s := rfl
@[simp] theorem exec_watermarkPublish {c w} {s : State} : exec (.watermarkPublish c w) s = execWatermarkPublish c w s := rfl
@[simp] theorem exec_watermarkAtNi {c src w} {s : State} : exec (.watermarkAtNi c src w) s = execWatermarkAtNi c src w s := rfl
@[simp] theorem exec_watermarkAtWindowUnit {src w} {s : State} : exec (.watermarkAtWindowUnit src w) s = execWatermarkAtWindowUnit src w s := rfl
@[simp] theorem exec_windowTargetPass {k} {s : State} : exec (.windowTargetPass k) s = execWindowTargetPass k s := rfl
@[simp] theorem exec_windowTimeout {k} {s : State} : exec (.windowTimeout k) s = execWindowTimeout k s := rfl
@[simp] theorem exec_detApplyAtHome {h k} {s : State} : exec (.detApplyAtHome h k) s = execDetApplyAtHome h k s := rfl
@[simp] theorem exec_detReleaseAtQueue {q k} {s : State} : exec (.detReleaseAtQueue q k) s = execDetReleaseAtQueue q k s := rfl
@[simp] theorem exec_closePacketsSend {k} {s : State} : exec (.closePacketsSend k) s = execClosePacketsSend k s := rfl
@[simp] theorem exec_closePacketDelivery {c p} {s : State} : exec (.closePacketDelivery c p) s = execClosePacketDelivery c p s := rfl
@[simp] theorem exec_sheetTimeout {q b} {s : State} : exec (.sheetTimeout q b) s = execSheetTimeout q b s := rfl
@[simp] theorem exec_sheetDone {q b} {s : State} : exec (.sheetDone q b) s = execSheetDone q b s := rfl
@[simp] theorem exec_leaseGrant {q} {s : State} : exec (.leaseGrant q) s = execLeaseGrant q s := rfl
@[simp] theorem exec_arrayTurn {q} {s : State} : exec (.arrayTurn q) s = execArrayTurn q s := rfl
@[simp] theorem exec_arrayTurnEnd {q} {s : State} : exec (.arrayTurnEnd q) s = execArrayTurnEnd q s := rfl
@[simp] theorem exec_arrayCommandComplete {q} {s : State} : exec (.arrayCommandComplete q) s = execArrayCommandComplete q s := rfl
@[simp] theorem exec_arrayFillComplete {q id} {s : State} : exec (.arrayFillComplete q id) s = execArrayFillComplete q id s := rfl
@[simp] theorem exec_arraySpill {q l} {s : State} : exec (.arraySpill q l) s = execArraySpill q l s := rfl
@[simp] theorem exec_arrayRestore {q l} {s : State} : exec (.arrayRestore q l) s = execArrayRestore q l s := rfl
@[simp] theorem exec_readoutDrain {q id} {s : State} : exec (.readoutDrain q id) s = execReadoutDrain q id s := rfl
@[simp] theorem exec_streamerPiece {id n} {s : State} : exec (.streamerPiece id n) s = execStreamerPiece id n s := rfl
@[simp] theorem exec_granuleWrite {id n} {s : State} : exec (.granuleWrite id n) s = execGranuleWrite id n s := rfl
@[simp] theorem exec_engineAck {id n} {s : State} : exec (.engineAck id n) s = execEngineAck id n s := rfl
@[simp] theorem exec_engineHandBack {id} {s : State} : exec (.engineHandBack id) s = execEngineHandBack id s := rfl
@[simp] theorem exec_quireUpdateAtHome {id} {s : State} : exec (.quireUpdateAtHome id) s = execQuireUpdateAtHome id s := rfl
@[simp] theorem exec_walkArrival {id} {s : State} : exec (.walkArrival id) s = execWalkArrival id s := rfl
@[simp] theorem exec_walkRule {id} {s : State} : exec (.walkRule id) s = execWalkRule id s := rfl
@[simp] theorem exec_walkEnd {id} {s : State} : exec (.walkEnd id) s = execWalkEnd id s := rfl
@[simp] theorem exec_prefetchTrigger {c va asid} {s : State} : exec (.prefetchTrigger c va asid) s = execPrefetchTrigger c va asid s := rfl
@[simp] theorem exec_prefetchKernel {c} {s : State} : exec (.prefetchKernel c) s = execPrefetchKernel c s := rfl
@[simp] theorem exec_translationWalk {ni asid va} {s : State} : exec (.translationWalk ni asid va) s = execTranslationWalk ni asid va s := rfl
@[simp] theorem exec_tlbiAck {id ni} {s : State} : exec (.tlbiAck id ni) s = execTlbiAck id ni s := rfl
@[simp] theorem exec_bridgeResend {p} {s : State} : exec (.bridgeResend p) s = execBridgeResend p s := rfl
@[simp] theorem exec_preemptionSave {c} {s : State} : exec (.preemptionSave c) s = execPreemptionSave c s := rfl
@[simp] theorem exec_strandRestore {c k} {s : State} : exec (.strandRestore c k) s = execStrandRestore c k s := rfl
@[simp] theorem exec_launchValidation {d} {s : State} : exec (.launchValidation d) s = execLaunchValidation d s := rfl
@[simp] theorem exec_launchHeadTake {d} {s : State} : exec (.launchHeadTake d) s = execLaunchHeadTake d s := rfl
@[simp] theorem exec_launchPortWrite {d addr} {s : State} : exec (.launchPortWrite d addr) s = execLaunchPortWrite d addr s := rfl
@[simp] theorem exec_teamSliceExpiry {grid u} {s : State} : exec (.teamSliceExpiry grid u) s = execTeamSliceExpiry grid u s := rfl
@[simp] theorem exec_partitionPeriodStart {p} {s : State} : exec (.partitionPeriodStart p) s = execPartitionPeriodStart p s := rfl
@[simp] theorem exec_partitionBudgetStart {p} {s : State} : exec (.partitionBudgetStart p) s = execPartitionBudgetStart p s := rfl
@[simp] theorem exec_partitionBudgetEnd {p} {s : State} : exec (.partitionBudgetEnd p) s = execPartitionBudgetEnd p s := rfl
@[simp] theorem exec_coreHardwareError {c} {s : State} : exec (.coreHardwareError c) s = execCoreHardwareError c s := rfl
@[simp] theorem exec_dieFatalFault {d} {s : State} : exec (.dieFatalFault d) s = execDieFatalFault d s := rfl
@[simp] theorem exec_gerrPop {d} {s : State} : exec (.gerrPop d) s = execGerrPop d s := rfl
@[simp] theorem exec_reset {img} {s : State} : exec (.reset img) s = execReset img s := rfl
@[simp] theorem exec_functionReady {b} {s : State} : exec (.functionReady b) s = execFunctionReady b s := rfl
@[simp] theorem exec_functionOutOfService {b} {s : State} : exec (.functionOutOfService b) s = execFunctionOutOfService b s := rfl
@[simp] theorem exec_throttleTick {power} {s : State} : exec (.throttleTick power) s = execThrottleTick power s := rfl
@[simp] theorem exec_overtemperature {temp} {s : State} : exec (.overtemperature temp) s = execOvertemperature temp s := rfl
@[simp] theorem exec_gptpSync {grand} {s : State} : exec (.gptpSync grand) s = execGptpSync grand s := rfl
@[simp] theorem exec_csi2Packet {p dtype crcOk words} {s : State} : exec (.csi2Packet p dtype crcOk words) s = execCsi2Packet p dtype crcOk words s := rfl
@[simp] theorem exec_portWatermarkPeriod {p} {s : State} : exec (.portWatermarkPeriod p) s = execPortWatermarkPeriod p s := rfl
@[simp] theorem exec_gpioEdge {i level edge held} {s : State} : exec (.gpioEdge i level edge held) s = execGpioEdge i level edge held s := rfl
@[simp] theorem exec_gpioTimerPeriod {i} {s : State} : exec (.gpioTimerPeriod i) s = execGpioTimerPeriod i s := rfl
@[simp] theorem exec_gpioWatermarkPeriod {i} {s : State} : exec (.gpioWatermarkPeriod i) s = execGpioWatermarkPeriod i s := rfl
@[simp] theorem exec_canFrameEvent {i f} {s : State} : exec (.canFrameEvent i f) s = execCanFrameEvent i f s := rfl
@[simp] theorem exec_canWatermarkPeriod {i} {s : State} : exec (.canWatermarkPeriod i) s = execCanWatermarkPeriod i s := rfl
@[simp] theorem exec_pagingFill {q} {s : State} : exec (.pagingFill q) s = execPagingFill q s := rfl
@[simp] theorem exec_pagingSpill {q} {s : State} : exec (.pagingSpill q) s = execPagingSpill q s := rfl
@[simp] theorem exec_pagingGrow {q} {s : State} : exec (.pagingGrow q) s = execPagingGrow q s := rfl
@[simp] theorem exec_pggrowPop {d} {s : State} : exec (.pggrowPop d) s = execPggrowPop d s := rfl
@[simp] theorem exec_protRegionEnable {c i x} {s : State} : exec (.protRegionEnable c i x) s = execProtRegionEnable c i x s := rfl
@[simp] theorem exec_protRegionDisable {c i x} {s : State} : exec (.protRegionDisable c i x) s = execProtRegionDisable c i x s := rfl
@[simp] theorem exec_wstReadClear {k} {s : State} : exec (.wstReadClear k) s = execWstReadClear k s := rfl
@[simp] theorem exec_quiesceRequest {c} {s : State} : exec (.quiesceRequest c) s = execQuiesceRequest c s := rfl
@[simp] theorem exec_quiesceComplete {c} {s : State} : exec (.quiesceComplete c) s = execQuiesceComplete c s := rfl
@[simp] theorem exec_debugHalt {c} {s : State} : exec (.debugHalt c) s = execDebugHalt c s := rfl
@[simp] theorem exec_debugRelease {c} {s : State} : exec (.debugRelease c) s = execDebugRelease c s := rfl
@[simp] theorem exec_snapshotPin {s : State} : exec (.snapshotPin) s = execSnapshotPin s := rfl
@[simp] theorem exec_capabilityStore {addr} {s : State} : exec (.capabilityStore addr) s = execCapabilityStore addr s := rfl
@[simp] theorem exec_attestationRequest {addr} {s : State} : exec (.attestationRequest addr) s = execAttestationRequest addr s := rfl
@[simp] theorem exec_appCoreAccess {a} {s : State} : exec (.appCoreAccess a) s = execAppCoreAccess a s := rfl
@[simp] theorem exec_pcieInboundWrite {addr bytes relaxed} {s : State} : exec (.pcieInboundWrite addr bytes relaxed) s = execPcieInboundWrite addr bytes relaxed s := rfl
@[simp] theorem exec_registerWrite {c n x} {s : State} : exec (.registerWrite c n x) s = execRegisterWrite c n x s := rfl
@[simp] theorem exec_illegalInstruction {c k} {s : State} : exec (.illegalInstruction c k) s = execIllegalInstruction c k s := rfl
@[simp] theorem exec_instructionFetchFailure {c k} {s : State} : exec (.instructionFetchFailure c k) s = execInstructionFetchFailure c k s := rfl
@[simp] theorem exec_lockLost {s : State} : exec (.lockLost) s = execLockLost s := rfl
@[simp] theorem exec_add {g d a b} {s : State} : exec (.add g d a b) s = execAdd g d a b s := rfl
@[simp] theorem exec_sub {g d a b} {s : State} : exec (.sub g d a b) s = execSub g d a b s := rfl
@[simp] theorem exec_and {g d a b} {s : State} : exec (.and g d a b) s = execAnd g d a b s := rfl
@[simp] theorem exec_or {g d a b} {s : State} : exec (.or g d a b) s = execOr g d a b s := rfl
@[simp] theorem exec_xor {g d a b} {s : State} : exec (.xor g d a b) s = execXor g d a b s := rfl
@[simp] theorem exec_andn {g d a b} {s : State} : exec (.andn g d a b) s = execAndn g d a b s := rfl
@[simp] theorem exec_sll {g d a b} {s : State} : exec (.sll g d a b) s = execSll g d a b s := rfl
@[simp] theorem exec_srl {g d a b} {s : State} : exec (.srl g d a b) s = execSrl g d a b s := rfl
@[simp] theorem exec_sra {g d a b} {s : State} : exec (.sra g d a b) s = execSra g d a b s := rfl
@[simp] theorem exec_rot {g d a b} {s : State} : exec (.rot g d a b) s = execRot g d a b s := rfl
@[simp] theorem exec_min {g d a b} {s : State} : exec (.min g d a b) s = execMin g d a b s := rfl
@[simp] theorem exec_max {g d a b} {s : State} : exec (.max g d a b) s = execMax g d a b s := rfl
@[simp] theorem exec_mul {g d a b} {s : State} : exec (.mul g d a b) s = execMul g d a b s := rfl
@[simp] theorem exec_mulh {g d a b} {s : State} : exec (.mulh g d a b) s = execMulh g d a b s := rfl
@[simp] theorem exec_mulhU {g d a b} {s : State} : exec (.mulhU g d a b) s = execMulhU g d a b s := rfl
@[simp] theorem exec_div {g d a b} {s : State} : exec (.div g d a b) s = execDiv g d a b s := rfl
@[simp] theorem exec_divU {g d a b} {s : State} : exec (.divU g d a b) s = execDivU g d a b s := rfl
@[simp] theorem exec_rem {g d a b} {s : State} : exec (.rem g d a b) s = execRem g d a b s := rfl
@[simp] theorem exec_remU {g d a b} {s : State} : exec (.remU g d a b) s = execRemU g d a b s := rfl
@[simp] theorem exec_clz {g d a} {s : State} : exec (.clz g d a) s = execClz g d a s := rfl
@[simp] theorem exec_popc {g d a} {s : State} : exec (.popc g d a) s = execPopc g d a s := rfl
@[simp] theorem exec_mov {g d a} {s : State} : exec (.mov g d a) s = execMov g d a s := rfl
@[simp] theorem exec_sextB {g d a} {s : State} : exec (.sextB g d a) s = execSextB g d a s := rfl
@[simp] theorem exec_sextH {g d a} {s : State} : exec (.sextH g d a) s = execSextH g d a s := rfl
@[simp] theorem exec_sextW {g d a} {s : State} : exec (.sextW g d a) s = execSextW g d a s := rfl
@[simp] theorem exec_zextB {g d a} {s : State} : exec (.zextB g d a) s = execZextB g d a s := rfl
@[simp] theorem exec_zextH {g d a} {s : State} : exec (.zextH g d a) s = execZextH g d a s := rfl
@[simp] theorem exec_zextW {g d a} {s : State} : exec (.zextW g d a) s = execZextW g d a s := rfl
@[simp] theorem exec_addImm {g d a i} {s : State} : exec (.addImm g d a i) s = execAddImm g d a i s := rfl
@[simp] theorem exec_addImmLiteral {g d a lit} {s : State} : exec (.addImmLiteral g d a lit) s = execAddImmLiteral g d a lit s := rfl
@[simp] theorem exec_andImm {g d a i} {s : State} : exec (.andImm g d a i) s = execAndImm g d a i s := rfl
@[simp] theorem exec_andImmLiteral {g d a lit} {s : State} : exec (.andImmLiteral g d a lit) s = execAndImmLiteral g d a lit s := rfl
@[simp] theorem exec_orImm {g d a i} {s : State} : exec (.orImm g d a i) s = execOrImm g d a i s := rfl
@[simp] theorem exec_orImmLiteral {g d a lit} {s : State} : exec (.orImmLiteral g d a lit) s = execOrImmLiteral g d a lit s := rfl
@[simp] theorem exec_xorImm {g d a i} {s : State} : exec (.xorImm g d a i) s = execXorImm g d a i s := rfl
@[simp] theorem exec_xorImmLiteral {g d a lit} {s : State} : exec (.xorImmLiteral g d a lit) s = execXorImmLiteral g d a lit s := rfl
@[simp] theorem exec_sllImm {g d a i} {s : State} : exec (.sllImm g d a i) s = execSllImm g d a i s := rfl
@[simp] theorem exec_srlImm {g d a i} {s : State} : exec (.srlImm g d a i) s = execSrlImm g d a i s := rfl
@[simp] theorem exec_sraImm {g d a i} {s : State} : exec (.sraImm g d a i) s = execSraImm g d a i s := rfl
@[simp] theorem exec_rotImm {g d a i} {s : State} : exec (.rotImm g d a i) s = execRotImm g d a i s := rfl
@[simp] theorem exec_li {g d i} {s : State} : exec (.li g d i) s = execLi g d i s := rfl
@[simp] theorem exec_liLiteral {g d lit} {s : State} : exec (.liLiteral g d lit) s = execLiLiteral g d lit s := rfl
@[simp] theorem exec_cmpi {g c h a i} {s : State} : exec (.cmpi g c h a i) s = execCmpi g c h a i s := rfl
@[simp] theorem exec_cmpiLiteral {g c h a lit} {s : State} : exec (.cmpiLiteral g c h a lit) s = execCmpiLiteral g c h a lit s := rfl
@[simp] theorem exec_cmp {g c h a b} {s : State} : exec (.cmp g c h a b) s = execCmp g c h a b s := rfl
@[simp] theorem exec_cmpAnd {g c h a b} {s : State} : exec (.cmpAnd g c h a b) s = execCmpAnd g c h a b s := rfl
@[simp] theorem exec_cmpOr {g c h a b} {s : State} : exec (.cmpOr g c h a b) s = execCmpOr g c h a b s := rfl
@[simp] theorem exec_gnot {g h j} {s : State} : exec (.gnot g h j) s = execGnot g h j s := rfl
@[simp] theorem exec_gand {g h j k} {s : State} : exec (.gand g h j k) s = execGand g h j k s := rfl
@[simp] theorem exec_gor {g h j k} {s : State} : exec (.gor g h j k) s = execGor g h j k s := rfl
@[simp] theorem exec_sel {g d a b h} {s : State} : exec (.sel g d a b h) s = execSel g d a b h s := rfl
@[simp] theorem exec_fadd {g d a b} {s : State} : exec (.fadd g d a b) s = execFadd g d a b s := rfl
@[simp] theorem exec_fsub {g d a b} {s : State} : exec (.fsub g d a b) s = execFsub g d a b s := rfl
@[simp] theorem exec_fmul {g d a b} {s : State} : exec (.fmul g d a b) s = execFmul g d a b s := rfl
@[simp] theorem exec_fdiv {g d a b} {s : State} : exec (.fdiv g d a b) s = execFdiv g d a b s := rfl
@[simp] theorem exec_fmin {g d a b} {s : State} : exec (.fmin g d a b) s = execFmin g d a b s := rfl
@[simp] theorem exec_fmax {g d a b} {s : State} : exec (.fmax g d a b) s = execFmax g d a b s := rfl
@[simp] theorem exec_fsqrt {g d a} {s : State} : exec (.fsqrt g d a) s = execFsqrt g d a s := rfl
@[simp] theorem exec_ffma {g d a b} {s : State} : exec (.ffma g d a b) s = execFfma g d a b s := rfl
@[simp] theorem exec_ffmaN {g d a b} {s : State} : exec (.ffmaN g d a b) s = execFfmaN g d a b s := rfl
@[simp] theorem exec_fcmp {g c h a b} {s : State} : exec (.fcmp g c h a b) s = execFcmp g c h a b s := rfl
@[simp] theorem exec_fcvtF32I64 {g d a} {s : State} : exec (.fcvtF32I64 g d a) s = execFcvtF32I64 g d a s := rfl
@[simp] theorem exec_fcvtF32U64 {g d a} {s : State} : exec (.fcvtF32U64 g d a) s = execFcvtF32U64 g d a s := rfl
@[simp] theorem exec_fcvtI64F32 {g d a} {s : State} : exec (.fcvtI64F32 g d a) s = execFcvtI64F32 g d a s := rfl
@[simp] theorem exec_fcvtU64F32 {g d a} {s : State} : exec (.fcvtU64F32 g d a) s = execFcvtU64F32 g d a s := rfl
@[simp] theorem exec_fcvtBf16F32 {g d a} {s : State} : exec (.fcvtBf16F32 g d a) s = execFcvtBf16F32 g d a s := rfl
@[simp] theorem exec_fcvtF16F32 {g d a} {s : State} : exec (.fcvtF16F32 g d a) s = execFcvtF16F32 g d a s := rfl
@[simp] theorem exec_fcvtF32Bf16 {g d a} {s : State} : exec (.fcvtF32Bf16 g d a) s = execFcvtF32Bf16 g d a s := rfl
@[simp] theorem exec_fcvtF32F16 {g d a} {s : State} : exec (.fcvtF32F16 g d a) s = execFcvtF32F16 g d a s := rfl
@[simp] theorem exec_cbnd {g d a b} {s : State} : exec (.cbnd g d a b) s = execCbnd g d a b s := rfl
@[simp] theorem exec_cinc {g d a b} {s : State} : exec (.cinc g d a b) s = execCinc g d a b s := rfl
@[simp] theorem exec_caddr {g d a b} {s : State} : exec (.caddr g d a b) s = execCaddr g d a b s := rfl
@[simp] theorem exec_cperm {g d a b} {s : State} : exec (.cperm g d a b) s = execCperm g d a b s := rfl
@[simp] theorem exec_ctagc {g d a} {s : State} : exec (.ctagc g d a) s = execCtagc g d a s := rfl
@[simp] theorem exec_cgetBase {g d a} {s : State} : exec (.cgetBase g d a) s = execCgetBase g d a s := rfl
@[simp] theorem exec_cgetTop {g d a} {s : State} : exec (.cgetTop g d a) s = execCgetTop g d a s := rfl
@[simp] theorem exec_cgetLen {g d a} {s : State} : exec (.cgetLen g d a) s = execCgetLen g d a s := rfl
@[simp] theorem exec_cgetPerm {g d a} {s : State} : exec (.cgetPerm g d a) s = execCgetPerm g d a s := rfl
@[simp] theorem exec_cgetTag {g d a} {s : State} : exec (.cgetTag g d a) s = execCgetTag g d a s := rfl
@[simp] theorem exec_cincImm {g d a i} {s : State} : exec (.cincImm g d a i) s = execCincImm g d a i s := rfl
@[simp] theorem exec_cincImmLiteral {g d a lit} {s : State} : exec (.cincImmLiteral g d a lit) s = execCincImmLiteral g d a lit s := rfl
@[simp] theorem exec_cbndImm {g d a i} {s : State} : exec (.cbndImm g d a i) s = execCbndImm g d a i s := rfl
@[simp] theorem exec_cbndImmLiteral {g d a lit} {s : State} : exec (.cbndImmLiteral g d a lit) s = execCbndImmLiteral g d a lit s := rfl
@[simp] theorem exec_j {g o} {s : State} : exec (.j g o) s = execJ g o s := rfl
@[simp] theorem exec_call {g o} {s : State} : exec (.call g o) s = execCall g o s := rfl
@[simp] theorem exec_jr {g a} {s : State} : exec (.jr g a) s = execJr g a s := rfl
@[simp] theorem exec_ret {g} {s : State} : exec (.ret g) s = execRet g s := rfl
@[simp] theorem exec_bgF {g h o} {s : State} : exec (.bgF g h o) s = execBgF g h o s := rfl
@[simp] theorem exec_bgT {g h o} {s : State} : exec (.bgT g h o) s = execBgT g h o s := rfl
@[simp] theorem exec_rep {g l i} {s : State} : exec (.rep g l i) s = execRep g l i s := rfl
@[simp] theorem exec_repLiteral {g l lit} {s : State} : exec (.repLiteral g l lit) s = execRepLiteral g l lit s := rfl
@[simp] theorem exec_repReg {g l a} {s : State} : exec (.repReg g l a) s = execRepReg g l a s := rfl
@[simp] theorem exec_nop {g} {s : State} : exec (.nop g) s = execNop g s := rfl
@[simp] theorem exec_trap {g i} {s : State} : exec (.trap g i) s = execTrap g i s := rfl
@[simp] theorem exec_suspend {g a b} {s : State} : exec (.suspend g a b) s = execSuspend g a b s := rfl
@[simp] theorem exec_hend {g} {s : State} : exec (.hend g) s = execHend g s := rfl
@[simp] theorem exec_ldB {g d b l o} {s : State} : exec (.ldB g d b l o) s = execLdB g d b l o s := rfl
@[simp] theorem exec_ldBLiteral {g d b l lit} {s : State} : exec (.ldBLiteral g d b l lit) s = execLdBLiteral g d b l lit s := rfl
@[simp] theorem exec_ldH {g d b l o} {s : State} : exec (.ldH g d b l o) s = execLdH g d b l o s := rfl
@[simp] theorem exec_ldHLiteral {g d b l lit} {s : State} : exec (.ldHLiteral g d b l lit) s = execLdHLiteral g d b l lit s := rfl
@[simp] theorem exec_ldW {g d b l o} {s : State} : exec (.ldW g d b l o) s = execLdW g d b l o s := rfl
@[simp] theorem exec_ldWLiteral {g d b l lit} {s : State} : exec (.ldWLiteral g d b l lit) s = execLdWLiteral g d b l lit s := rfl
@[simp] theorem exec_ldD {g d b l o} {s : State} : exec (.ldD g d b l o) s = execLdD g d b l o s := rfl
@[simp] theorem exec_ldDLiteral {g d b l lit} {s : State} : exec (.ldDLiteral g d b l lit) s = execLdDLiteral g d b l lit s := rfl
@[simp] theorem exec_ldQ {g d b l o} {s : State} : exec (.ldQ g d b l o) s = execLdQ g d b l o s := rfl
@[simp] theorem exec_ldQLiteral {g d b l lit} {s : State} : exec (.ldQLiteral g d b l lit) s = execLdQLiteral g d b l lit s := rfl
@[simp] theorem exec_stB {g sr b o} {s : State} : exec (.stB g sr b o) s = execStB g sr b o s := rfl
@[simp] theorem exec_stBLiteral {g sr b lit} {s : State} : exec (.stBLiteral g sr b lit) s = execStBLiteral g sr b lit s := rfl
@[simp] theorem exec_stH {g sr b o} {s : State} : exec (.stH g sr b o) s = execStH g sr b o s := rfl
@[simp] theorem exec_stHLiteral {g sr b lit} {s : State} : exec (.stHLiteral g sr b lit) s = execStHLiteral g sr b lit s := rfl
@[simp] theorem exec_stW {g sr b o} {s : State} : exec (.stW g sr b o) s = execStW g sr b o s := rfl
@[simp] theorem exec_stWLiteral {g sr b lit} {s : State} : exec (.stWLiteral g sr b lit) s = execStWLiteral g sr b lit s := rfl
@[simp] theorem exec_stD {g sr b o} {s : State} : exec (.stD g sr b o) s = execStD g sr b o s := rfl
@[simp] theorem exec_stDLiteral {g sr b lit} {s : State} : exec (.stDLiteral g sr b lit) s = execStDLiteral g sr b lit s := rfl
@[simp] theorem exec_stQ {g sr b o} {s : State} : exec (.stQ g sr b o) s = execStQ g sr b o s := rfl
@[simp] theorem exec_stQLiteral {g sr b lit} {s : State} : exec (.stQLiteral g sr b lit) s = execStQLiteral g sr b lit s := rfl
@[simp] theorem exec_ldc {g d b l o} {s : State} : exec (.ldc g d b l o) s = execLdc g d b l o s := rfl
@[simp] theorem exec_ldcLiteral {g d b l lit} {s : State} : exec (.ldcLiteral g d b l lit) s = execLdcLiteral g d b l lit s := rfl
@[simp] theorem exec_stc {g sr b o} {s : State} : exec (.stc g sr b o) s = execStc g sr b o s := rfl
@[simp] theorem exec_stcLiteral {g sr b lit} {s : State} : exec (.stcLiteral g sr b lit) s = execStcLiteral g sr b lit s := rfl
@[simp] theorem exec_ldq {g n b o} {s : State} : exec (.ldq g n b o) s = execLdq g n b o s := rfl
@[simp] theorem exec_ldqLiteral {g n b lit} {s : State} : exec (.ldqLiteral g n b lit) s = execLdqLiteral g n b lit s := rfl
@[simp] theorem exec_stq {g n b o} {s : State} : exec (.stq g n b o) s = execStq g n b o s := rfl
@[simp] theorem exec_stqLiteral {g n b lit} {s : State} : exec (.stqLiteral g n b lit) s = execStqLiteral g n b lit s := rfl
@[simp] theorem exec_ldm {g d a n} {s : State} : exec (.ldm g d a n) s = execLdm g d a n s := rfl
@[simp] theorem exec_stm {g d a n} {s : State} : exec (.stm g d a n) s = execStm g d a n s := rfl
@[simp] theorem exec_vld {g d b l o} {s : State} : exec (.vld g d b l o) s = execVld g d b l o s := rfl
@[simp] theorem exec_vldLiteral {g d b l lit} {s : State} : exec (.vldLiteral g d b l lit) s = execVldLiteral g d b l lit s := rfl
@[simp] theorem exec_vst {g sr b m o} {s : State} : exec (.vst g sr b m o) s = execVst g sr b m o s := rfl
@[simp] theorem exec_vstLiteral {g sr b m lit} {s : State} : exec (.vstLiteral g sr b m lit) s = execVstLiteral g sr b m lit s := rfl
@[simp] theorem exec_vlds {g d a b m} {s : State} : exec (.vlds g d a b m) s = execVlds g d a b m s := rfl
@[simp] theorem exec_vldx {g d a b m} {s : State} : exec (.vldx g d a b m) s = execVldx g d a b m s := rfl
@[simp] theorem exec_vsts {g d a b m} {s : State} : exec (.vsts g d a b m) s = execVsts g d a b m s := rfl
@[simp] theorem exec_vstx {g d a b m} {s : State} : exec (.vstx g d a b m) s = execVstx g d a b m s := rfl
@[simp] theorem exec_amoAdd {g d a b} {s : State} : exec (.amoAdd g d a b) s = execAmoAdd g d a b s := rfl
@[simp] theorem exec_amoAnd {g d a b} {s : State} : exec (.amoAnd g d a b) s = execAmoAnd g d a b s := rfl
@[simp] theorem exec_amoOr {g d a b} {s : State} : exec (.amoOr g d a b) s = execAmoOr g d a b s := rfl
@[simp] theorem exec_amoXor {g d a b} {s : State} : exec (.amoXor g d a b) s = execAmoXor g d a b s := rfl
@[simp] theorem exec_amoMin {g d a b} {s : State} : exec (.amoMin g d a b) s = execAmoMin g d a b s := rfl
@[simp] theorem exec_amoMax {g d a b} {s : State} : exec (.amoMax g d a b) s = execAmoMax g d a b s := rfl
@[simp] theorem exec_amoMinu {g d a b} {s : State} : exec (.amoMinu g d a b) s = execAmoMinu g d a b s := rfl
@[simp] theorem exec_amoMaxu {g d a b} {s : State} : exec (.amoMaxu g d a b) s = execAmoMaxu g d a b s := rfl
@[simp] theorem exec_amoSwap {g d a b} {s : State} : exec (.amoSwap g d a b) s = execAmoSwap g d a b s := rfl
@[simp] theorem exec_amoCas {g d a b} {s : State} : exec (.amoCas g d a b) s = execAmoCas g d a b s := rfl
@[simp] theorem exec_amoFadd {g d a b} {s : State} : exec (.amoFadd g d a b) s = execAmoFadd g d a b s := rfl
@[simp] theorem exec_fenceAcq {g sr} {s : State} : exec (.fenceAcq g sr) s = execFenceAcq g sr s := rfl
@[simp] theorem exec_fenceRel {g sr} {s : State} : exec (.fenceRel g sr) s = execFenceRel g sr s := rfl
@[simp] theorem exec_fenceAr {g sr} {s : State} : exec (.fenceAr g sr) s = execFenceAr g sr s := rfl
@[simp] theorem exec_afence {g a b} {s : State} : exec (.afence g a b) s = execAfence g a b s := rfl
@[simp] theorem exec_pfx {g a} {s : State} : exec (.pfx g a) s = execPfx g a s := rfl
@[simp] theorem exec_touch {g a} {s : State} : exec (.touch g a) s = execTouch g a s := rfl
@[simp] theorem exec_touchW {g a} {s : State} : exec (.touchW g a) s = execTouchW g a s := rfl
@[simp] theorem exec_bar {g n} {s : State} : exec (.bar g n) s = execBar g n s := rfl
@[simp] theorem exec_get {g k a b} {s : State} : exec (.get g k a b) s = execGet g k a b s := rfl
@[simp] theorem exec_give {g k a b} {s : State} : exec (.give g k a b) s = execGive g k a b s := rfl
@[simp] theorem exec_vaddInt {g w d a b m} {s : State} : exec (.vaddInt g w d a b m) s = execVaddInt g w d a b m s := rfl
@[simp] theorem exec_vsubInt {g w d a b m} {s : State} : exec (.vsubInt g w d a b m) s = execVsubInt g w d a b m s := rfl
@[simp] theorem exec_vmulInt {g w d a b m} {s : State} : exec (.vmulInt g w d a b m) s = execVmulInt g w d a b m s := rfl
@[simp] theorem exec_vminInt {g w d a b m} {s : State} : exec (.vminInt g w d a b m) s = execVminInt g w d a b m s := rfl
@[simp] theorem exec_vmaxInt {g w d a b m} {s : State} : exec (.vmaxInt g w d a b m) s = execVmaxInt g w d a b m s := rfl
@[simp] theorem exec_vand {g w d a b m} {s : State} : exec (.vand g w d a b m) s = execVand g w d a b m s := rfl
@[simp] theorem exec_vor {g w d a b m} {s : State} : exec (.vor g w d a b m) s = execVor g w d a b m s := rfl
@[simp] theorem exec_vxor {g w d a b m} {s : State} : exec (.vxor g w d a b m) s = execVxor g w d a b m s := rfl
@[simp] theorem exec_vshl {g w d a b m} {s : State} : exec (.vshl g w d a b m) s = execVshl g w d a b m s := rfl
@[simp] theorem exec_vshr {g w d a b m} {s : State} : exec (.vshr g w d a b m) s = execVshr g w d a b m s := rfl
@[simp] theorem exec_vshrA {g w d a b m} {s : State} : exec (.vshrA g w d a b m) s = execVshrA g w d a b m s := rfl
@[simp] theorem exec_vaddF32 {g d a b m} {s : State} : exec (.vaddF32 g d a b m) s = execVaddF32 g d a b m s := rfl
@[simp] theorem exec_vsubF32 {g d a b m} {s : State} : exec (.vsubF32 g d a b m) s = execVsubF32 g d a b m s := rfl
@[simp] theorem exec_vmulF32 {g d a b m} {s : State} : exec (.vmulF32 g d a b m) s = execVmulF32 g d a b m s := rfl
@[simp] theorem exec_vminF32 {g d a b m} {s : State} : exec (.vminF32 g d a b m) s = execVminF32 g d a b m s := rfl
@[simp] theorem exec_vmaxF32 {g d a b m} {s : State} : exec (.vmaxF32 g d a b m) s = execVmaxF32 g d a b m s := rfl
@[simp] theorem exec_vfmaF32 {g d a b m} {s : State} : exec (.vfmaF32 g d a b m) s = execVfmaF32 g d a b m s := rfl
@[simp] theorem exec_vaddF16 {g d a b m} {s : State} : exec (.vaddF16 g d a b m) s = execVaddF16 g d a b m s := rfl
@[simp] theorem exec_vsubF16 {g d a b m} {s : State} : exec (.vsubF16 g d a b m) s = execVsubF16 g d a b m s := rfl
@[simp] theorem exec_vmulF16 {g d a b m} {s : State} : exec (.vmulF16 g d a b m) s = execVmulF16 g d a b m s := rfl
@[simp] theorem exec_vminF16 {g d a b m} {s : State} : exec (.vminF16 g d a b m) s = execVminF16 g d a b m s := rfl
@[simp] theorem exec_vmaxF16 {g d a b m} {s : State} : exec (.vmaxF16 g d a b m) s = execVmaxF16 g d a b m s := rfl
@[simp] theorem exec_vfmaF16 {g d a b m} {s : State} : exec (.vfmaF16 g d a b m) s = execVfmaF16 g d a b m s := rfl
@[simp] theorem exec_vaddBf16 {g d a b m} {s : State} : exec (.vaddBf16 g d a b m) s = execVaddBf16 g d a b m s := rfl
@[simp] theorem exec_vsubBf16 {g d a b m} {s : State} : exec (.vsubBf16 g d a b m) s = execVsubBf16 g d a b m s := rfl
@[simp] theorem exec_vmulBf16 {g d a b m} {s : State} : exec (.vmulBf16 g d a b m) s = execVmulBf16 g d a b m s := rfl
@[simp] theorem exec_vminBf16 {g d a b m} {s : State} : exec (.vminBf16 g d a b m) s = execVminBf16 g d a b m s := rfl
@[simp] theorem exec_vmaxBf16 {g d a b m} {s : State} : exec (.vmaxBf16 g d a b m) s = execVmaxBf16 g d a b m s := rfl
@[simp] theorem exec_vfmaBf16 {g d a b m} {s : State} : exec (.vfmaBf16 g d a b m) s = execVfmaBf16 g d a b m s := rfl
@[simp] theorem exec_vcmp {g d a b m t c} {s : State} : exec (.vcmp g d a b m t c) s = execVcmp g d a b m t c s := rfl
@[simp] theorem exec_vsel {g d a b m} {s : State} : exec (.vsel g d a b m) s = execVsel g d a b m s := rfl
@[simp] theorem exec_vperm {g d a b m} {s : State} : exec (.vperm g d a b m) s = execVperm g d a b m s := rfl
@[simp] theorem exec_vmerge {g d a b o} {s : State} : exec (.vmerge g d a b o) s = execVmerge g d a b o s := rfl
@[simp] theorem exec_vcomp {g d a m} {s : State} : exec (.vcomp g d a m) s = execVcomp g d a m s := rfl
@[simp] theorem exec_vexpd {g d a m} {s : State} : exec (.vexpd g d a m) s = execVexpd g d a m s := rfl
@[simp] theorem exec_vbcast {g d c m} {s : State} : exec (.vbcast g d c m) s = execVbcast g d c m s := rfl
@[simp] theorem exec_vrnd {g d c m} {s : State} : exec (.vrnd g d c m) s = execVrnd g d c m s := rfl
@[simp] theorem exec_vrndf {g d c m} {s : State} : exec (.vrndf g d c m) s = execVrndf g d c m s := rfl
@[simp] theorem exec_nrns {g d a c m} {s : State} : exec (.nrns g d a c m) s = execNrns g d a c m s := rfl
@[simp] theorem exec_spkout {g a c m} {s : State} : exec (.spkout g a c m) s = execSpkout g a c m s := rfl
@[simp] theorem exec_vbsum {g t a c m} {s : State} : exec (.vbsum g t a c m) s = execVbsum g t a c m s := rfl
@[simp] theorem exec_bsadd {g a c} {s : State} : exec (.bsadd g a c) s = execBsadd g a c s := rfl
@[simp] theorem exec_movVc {g d c q} {s : State} : exec (.movVc g d c q) s = execMovVc g d c q s := rfl
@[simp] theorem exec_movCv {g a c q} {s : State} : exec (.movCv g a c q) s = execMovCv g a c q s := rfl
@[simp] theorem exec_movMc {g d c} {s : State} : exec (.movMc g d c) s = execMovMc g d c s := rfl
@[simp] theorem exec_movCm {g a c} {s : State} : exec (.movCm g a c) s = execMovCm g a c s := rfl
@[simp] theorem exec_vred {g d a m l f} {s : State} : exec (.vred g d a m l f) s = execVred g d a m l f s := rfl
@[simp] theorem exec_vscan {g d a m l f} {s : State} : exec (.vscan g d a m l f) s = execVscan g d a m l f s := rfl
@[simp] theorem exec_vsqrt {g d a m l t} {s : State} : exec (.vsqrt g d a m l t) s = execVsqrt g d a m l t s := rfl
@[simp] theorem exec_vexp2 {g d a m l t} {s : State} : exec (.vexp2 g d a m l t) s = execVexp2 g d a m l t s := rfl
@[simp] theorem exec_vlog2 {g d a m l t} {s : State} : exec (.vlog2 g d a m l t) s = execVlog2 g d a m l t s := rfl
@[simp] theorem exec_vrcp {g d a m l t} {s : State} : exec (.vrcp g d a m l t) s = execVrcp g d a m l t s := rfl
@[simp] theorem exec_vdivF32 {g d a m l b} {s : State} : exec (.vdivF32 g d a m l b) s = execVdivF32 g d a m l b s := rfl
@[simp] theorem exec_vcvt {g d a m l f} {s : State} : exec (.vcvt g d a m l f) s = execVcvt g d a m l f s := rfl
@[simp] theorem exec_vdivF16 {g d a m l b} {s : State} : exec (.vdivF16 g d a m l b) s = execVdivF16 g d a m l b s := rfl
@[simp] theorem exec_trd {g t r i k v} {s : State} : exec (.trd g t r i k v) s = execTrd g t r i k v s := rfl
@[simp] theorem exec_twr {g t r i k v} {s : State} : exec (.twr g t r i k v) s = execTwr g t r i k v s := rfl
@[simp] theorem exec_tzero {g t} {s : State} : exec (.tzero g t) s = execTzero g t s := rfl
@[simp] theorem exec_ttrans {g t} {s : State} : exec (.ttrans g t) s = execTtrans g t s := rfl
@[simp] theorem exec_tclaim {g t} {s : State} : exec (.tclaim g t) s = execTclaim g t s := rfl
@[simp] theorem exec_tfree {g t} {s : State} : exec (.tfree g t) s = execTfree g t s := rfl
@[simp] theorem exec_pld {g l a b} {s : State} : exec (.pld g l a b) s = execPld g l a b s := rfl
@[simp] theorem exec_pst {g k a b} {s : State} : exec (.pst g k a b) s = execPst g k a b s := rfl
@[simp] theorem exec_plupd {g k a b} {s : State} : exec (.plupd g k a b) s = execPlupd g k a b s := rfl
@[simp] theorem exec_plaxpy {g k a b} {s : State} : exec (.plaxpy g k a b) s = execPlaxpy g k a b s := rfl
@[simp] theorem exec_plhdr {g l a b} {s : State} : exec (.plhdr g l a b) s = execPlhdr g l a b s := rfl
@[simp] theorem exec_mlease {g k a b} {s : State} : exec (.mlease g k a b) s = execMlease g k a b s := rfl
@[simp] theorem exec_mfree {g} {s : State} : exec (.mfree g) s = execMfree g s := rfl
@[simp] theorem exec_mgeo {g d a} {s : State} : exec (.mgeo g d a) s = execMgeo g d a s := rfl
@[simp] theorem exec_mgeor {g d a} {s : State} : exec (.mgeor g d a) s = execMgeor g d a s := rfl
@[simp] theorem exec_mstat {g d a} {s : State} : exec (.mstat g d a) s = execMstat g d a s := rfl
@[simp] theorem exec_mzero {g d} {s : State} : exec (.mzero g d) s = execMzero g d s := rfl
@[simp] theorem exec_mldb {g k a b} {s : State} : exec (.mldb g k a b) s = execMldb g k a b s := rfl
@[simp] theorem exec_mgath {g k a b} {s : State} : exec (.mgath g k a b) s = execMgath g k a b s := rfl
@[simp] theorem exec_mrd {g k l a b} {s : State} : exec (.mrd g k l a b) s = execMrd g k l a b s := rfl
@[simp] theorem exec_mma {g x a h w sr} {s : State} : exec (.mma g x a h w sr) s = execMma g x a h w sr s := rfl
@[simp] theorem exec_mmaSet {g x a h w sr} {s : State} : exec (.mmaSet g x a h w sr) s = execMmaSet g x a h w sr s := rfl
@[simp] theorem exec_mmaSub {g x a h w sr} {s : State} : exec (.mmaSub g x a h w sr) s = execMmaSub g x a h w sr s := rfl
@[simp] theorem exec_mrun {g x a h w sr} {s : State} : exec (.mrun g x a h w sr) s = execMrun g x a h w sr s := rfl
@[simp] theorem exec_mrunSet {g x a h w sr} {s : State} : exec (.mrunSet g x a h w sr) s = execMrunSet g x a h w sr s := rfl
@[simp] theorem exec_mrunSub {g x a h w sr} {s : State} : exec (.mrunSub g x a h w sr) s = execMrunSub g x a h w sr s := rfl
@[simp] theorem exec_send {g a b} {s : State} : exec (.send g a b) s = execSend g a b s := rfl
@[simp] theorem exec_sendi {g a b} {s : State} : exec (.sendi g a b) s = execSendi g a b s := rfl
@[simp] theorem exec_wmark {g a} {s : State} : exec (.wmark g a) s = execWmark g a s := rfl
@[simp] theorem exec_waitch {g a} {s : State} : exec (.waitch g a) s = execWaitch g a s := rfl
@[simp] theorem exec_hmask {g d a b} {s : State} : exec (.hmask g d a b) s = execHmask g d a b s := rfl
@[simp] theorem exec_hset {g a b} {s : State} : exec (.hset g a b) s = execHset g a b s := rfl
@[simp] theorem exec_chcap {g a b} {s : State} : exec (.chcap g a b) s = execChcap g a b s := rfl
@[simp] theorem exec_wincfg {g a b} {s : State} : exec (.wincfg g a b) s = execWincfg g a b s := rfl
@[simp] theorem exec_winclose {g a} {s : State} : exec (.winclose g a) s = execWinclose g a s := rfl
@[simp] theorem exec_dkcfg {g a b} {s : State} : exec (.dkcfg g a b) s = execDkcfg g a b s := rfl
@[simp] theorem exec_dkflush {g a} {s : State} : exec (.dkflush g a) s = execDkflush g a s := rfl
@[simp] theorem exec_dkstat {g d a} {s : State} : exec (.dkstat g d a) s = execDkstat g d a s := rfl
@[simp] theorem exec_xcopy {g k a b} {s : State} : exec (.xcopy g k a b) s = execXcopy g k a b s := rfl
@[simp] theorem exec_xresume {g b} {s : State} : exec (.xresume g b) s = execXresume g b s := rfl
@[simp] theorem exec_xgeo {g d a} {s : State} : exec (.xgeo g d a) s = execXgeo g d a s := rfl
@[simp] theorem exec_ttest {g d k b} {s : State} : exec (.ttest g d k b) s = execTtest g d k b s := rfl
@[simp] theorem exec_twait {g m} {s : State} : exec (.twait g m) s = execTwait g m s := rfl
@[simp] theorem exec_spawn {g a b} {s : State} : exec (.spawn g a b) s = execSpawn g a b s := rfl
@[simp] theorem exec_done {g} {s : State} : exec (.done g) s = execDone g s := rfl
@[simp] theorem exec_doneJ {g a} {s : State} : exec (.doneJ g a) s = execDoneJ g a s := rfl
@[simp] theorem exec_launch {g d a} {s : State} : exec (.launch g d a) s = execLaunch g d a s := rfl
@[simp] theorem exec_yield {g} {s : State} : exec (.yield g) s = execYield g s := rfl
@[simp] theorem exec_tspawn {g a b} {s : State} : exec (.tspawn g a b) s = execTspawn g a b s := rfl
@[simp] theorem exec_tdone {g} {s : State} : exec (.tdone g) s = execTdone g s := rfl
@[simp] theorem exec_tabort {g a b} {s : State} : exec (.tabort g a b) s = execTabort g a b s := rfl
@[simp] theorem exec_tfront {g d a} {s : State} : exec (.tfront g d a) s = execTfront g d a s := rfl
@[simp] theorem exec_twaitc {g a b} {s : State} : exec (.twaitc g a b) s = execTwaitc g a b s := rfl
@[simp] theorem exec_xacq {g d a} {s : State} : exec (.xacq g d a) s = execXacq g d a s := rfl
@[simp] theorem exec_xadd {g a b} {s : State} : exec (.xadd g a b) s = execXadd g a b s := rfl
@[simp] theorem exec_xrd {g d a} {s : State} : exec (.xrd g d a) s = execXrd g d a s := rfl
@[simp] theorem exec_xrel {g a} {s : State} : exec (.xrel g a) s = execXrel g a s := rfl
@[simp] theorem exec_pwalk {g k a b} {s : State} : exec (.pwalk g k a b) s = execPwalk g k a b s := rfl
@[simp] theorem exec_pfcfg {g a b} {s : State} : exec (.pfcfg g a b) s = execPfcfg g a b s := rfl
@[simp] theorem exec_pfstop {g a} {s : State} : exec (.pfstop g a) s = execPfstop g a s := rfl
@[simp] theorem exec_sysrd {g d n} {s : State} : exec (.sysrd g d n) s = execSysrd g d n s := rfl
@[simp] theorem exec_syswr {g a n} {s : State} : exec (.syswr g a n) s = execSyswr g a n s := rfl
@[simp] theorem exec_uret {g a} {s : State} : exec (.uret g a) s = execUret g a s := rfl
@[simp] theorem exec_tret {g} {s : State} : exec (.tret g) s = execTret g s := rfl
@[simp] theorem exec_tlbi {g k a b} {s : State} : exec (.tlbi g k a b) s = execTlbi g k a b s := rfl
@[simp] theorem exec_snap {g a} {s : State} : exec (.snap g a) s = execSnap g a s := rfl
@[simp] theorem exec_freeze {g a} {s : State} : exec (.freeze g a) s = execFreeze g a s := rfl
@[simp] theorem exec_resumef {g a} {s : State} : exec (.resumef g a) s = execResumef g a s := rfl

end Sys2Proof.Machine
end

