-- ==== Sys2Proof/Laws/Stored.lean ====
section
/-! SUPPORT. Operations that leave what memory holds as it is: bytes, granule tags and uncorrectable words. -/

namespace Sys2Proof.Machine

/-- What memory holds: its bytes, its granule tags, its uncorrectable words. -/
def State.stored (s : State) : List Host.Cell × List Nat × List Nat := (s.mem, s.tags, s.poison)

theorem memoryOk_of_stored {s t : State} (h : t.stored = s.stored) : t.memoryOk = s.memoryOk := by
  simp only [State.stored, Prod.mk.injEq] at h
  simp [State.memoryOk, h.1, h.2.1, h.2.2]

theorem byteAt_of_stored {s t : State} (h : t.stored = s.stored) (a : Nat) : t.byteAt a = s.byteAt a := by
  simp only [State.stored, Prod.mk.injEq] at h
  simp [State.byteAt, h.1]

/-- A fold of steps that keep memory keeps it. -/
theorem stored_foldl {α : Type} {f : State → α → State} (h : ∀ s a, (f s a).stored = s.stored) (l : List α) (s : State) :
    (l.foldl f s).stored = s.stored := by
  induction l generalizing s with
  | nil => rfl
  | cons a l ih => rw [List.foldl_cons, ih, h]

/-- A fold over a pair whose state is the second part. -/
theorem stored_foldl2 {α β : Type} {f : β × State → α → β × State} (h : ∀ r a, (f r a).2.stored = r.2.stored)
    (l : List α) (r : β × State) : (l.foldl f r).2.stored = r.2.stored := by
  induction l generalizing r with
  | nil => rfl
  | cons a l ih => rw [List.foldl_cons, ih, h]

/-! ### Base -/

@[simp] theorem stored_setCore (s : State) (c : CoreId) (x : Core) : (s.setCore c x).stored = s.stored := rfl
@[simp] theorem stored_updCore (s : State) (c : CoreId) (f : Core → Core) : (s.updCore c f).stored = s.stored := rfl
@[simp] theorem stored_setStrand (s : State) (c : CoreId) (k : SlotId) (x : Strand) :
    (s.setStrand c k x).stored = s.stored := rfl
@[simp] theorem stored_updStrand (s : State) (c : CoreId) (k : SlotId) (f : Strand → Strand) :
    (s.updStrand c k f).stored = s.stored := rfl
@[simp] theorem stored_setMe (s : State) (x : Strand) : (s.setMe x).stored = s.stored := rfl
@[simp] theorem stored_updMe (s : State) (f : Strand → Strand) : (s.updMe f).stored = s.stored := rfl
@[simp] theorem stored_setCluster (s : State) (q : ClusterId) (x : Cluster) : (s.setCluster q x).stored = s.stored := rfl
@[simp] theorem stored_updCluster (s : State) (q : ClusterId) (f : Cluster → Cluster) :
    (s.updCluster q f).stored = s.stored := rfl
@[simp] theorem stored_updHome (s : State) (h : HomeId) (f : Home → Home) : (s.updHome h f).stored = s.stored := rfl
@[simp] theorem stored_updWin (s : State) (k : Fin 32) (f : Win → Win) : (s.updWin k f).stored = s.stored := rfl
@[simp] theorem stored_updDom (s : State) (d : Fin 8) (f : Domain → Domain) : (s.updDom d f).stored = s.stored := rfl
@[simp] theorem stored_updHouse (s : State) (f : House → House) : (s.updHouse f).stored = s.stored := rfl
@[simp] theorem stored_newId (s : State) : s.newId.2.stored = s.stored := rfl
@[simp] theorem stored_free (s : State) : s.free.2.stored = s.stored := rfl
@[simp] theorem stored_post (s : State) (d : Nat) (e : Instr) : (s.post d e).stored = s.stored := rfl
@[simp] theorem stored_postOnce (s : State) (d : Nat) (e : Instr) : (s.postOnce d e).stored = s.stored := by
  unfold State.postOnce; split <;> rfl
@[simp] theorem stored_updWork (s : State) (c : CoreId) (w : Nat) (f : Strand → Strand) :
    (s.updWork c w f).stored = s.stored := by
  unfold State.updWork; split <;> rfl
@[simp] theorem stored_latch (s : State) (id : BitVec 16) : (s.latch id).stored = s.stored := rfl
@[simp] theorem stored_trigger (s : State) (src : Nat) (id : BitVec 16) (b : Bool) :
    (s.trigger src id b).stored = s.stored := by
  unfold State.trigger; split <;> rfl
@[simp] theorem stored_logAt (s : State) (ni : Fin 400) (x : VlogEntry) : (s.logAt ni x).stored = s.stored := by
  unfold State.logAt
  simp only [stored_trigger]
  split <;> rfl
@[simp] theorem stored_notice (s : State) (die code : Nat) (v : Word) : (s.notice die code v).stored = s.stored := by
  unfold State.notice
  dsimp only
  split <;> rfl
@[simp] theorem stored_report (s : State) (die : Fin 2) (g : Word) (a b c r : Nat) :
    (s.report die g a b c r).stored = s.stored := by
  unfold State.report
  dsimp only
  split
  · simp only [stored_notice]; rfl
  · rfl

/-! ### Work -/

@[simp] theorem stored_offer (s : State) (c : CoreId) : (s.offer c).stored = s.stored := stored_postOnce ..
@[simp] theorem stored_offerCluster (s : State) (q : ClusterId) : (s.offerCluster q).stored = s.stored :=
  stored_foldl (fun _ _ => stored_offer ..) _ _
@[simp] theorem stored_freeUnit (s : State) (c : CoreId) (u : Nat) : (s.freeUnit c u).stored = s.stored := by
  unfold State.freeUnit
  simp only [stored_offer]
  rw [stored_foldl (fun _ _ => stored_postOnce ..)]
  rfl
@[simp] theorem stored_endMsg (s : State) (c : CoreId) (k : SlotId) : (s.endMsg c k).stored = s.stored := by
  unfold State.endMsg; split <;> simp
@[simp] theorem stored_freeTiles (s : State) (c : CoreId) (k : SlotId) : (s.freeTiles c k).stored = s.stored := rfl
@[simp] theorem stored_dropLease (s : State) (q : ClusterId) (i : Nat) : (s.dropLease q i).stored = s.stored := by
  unfold State.dropLease
  dsimp only
  rw [stored_postOnce, stored_postOnce]
  rfl
@[simp] theorem stored_release (s : State) (c : CoreId) (k : SlotId) : (s.release c k).stored = s.stored := by
  unfold State.release
  dsimp only
  rw [stored_offer, stored_updStrand]
  have h : ∀ (s s0 : State) (p : ClusterId → Bool), ((List.finRange 24).foldl (fun s1 q =>
      if p q = true then s1.postOnce 1 (.queuePushWait q) else s1) s0).stored = s0.stored := by
    intro s s0 p
    refine stored_foldl (fun s q => ?_) _ _
    split <;> simp
  split
  · rw [stored_dropLease, stored_freeTiles, stored_endMsg, h s]; rfl
  · rw [stored_freeTiles, stored_endMsg, h s]; rfl
@[simp] theorem stored_updEntry (s : State) (q : ClusterId) (i : Nat) (f : TqEntry → TqEntry) :
    (s.updEntry q i f).stored = s.stored := rfl
@[simp] theorem stored_dropEntry (s : State) (q : ClusterId) (i : Nat) : (s.dropEntry q i).stored = s.stored := by
  unfold State.dropEntry
  simp only
  split <;> simp
@[simp] theorem stored_updGrid (s : State) (g : Word) (f : Grid → Grid) : (s.updGrid g f).stored = s.stored := rfl
@[simp] theorem stored_endGrid (s : State) (g : Grid) : (s.endGrid g).stored = s.stored := by
  unfold State.endGrid
  dsimp only
  rw [stored_notice]
  rw [stored_foldl (fun _ _ => stored_offer ..)]
  rfl
@[simp] theorem stored_gridCheck (s : State) (g : Option Word) : (s.gridCheck g).stored = s.stored := by
  unfold State.gridCheck
  split
  · rfl
  · split
    · split
      · split <;> rfl
      · split
        · rfl
        · simp
    · rfl
@[simp] theorem stored_memberEnds (s : State) (g : Option Word) (i : Option Nat) :
    (s.memberEnds g i).stored = s.stored := by
  unfold State.memberEnds
  split
  · simp only
    split
    · rw [stored_foldl]
      · rfl
      · intro s u
        rw [apply_ite State.stored, stored_post, ite_self]
    · rfl
  · rfl
@[simp] theorem stored_entryEnds (s : State) (w : Work) : (s.entryEnds w).stored = s.stored := by
  unfold State.entryEnds
  split
  · rfl
  · split <;> simp

/-! ### Speculation -/

@[simp] theorem stored_updTask (s : State) (d : Fin 8) (i : Nat) (f : STask → STask) :
    (s.updTask d i f).stored = s.stored := rfl
@[simp] theorem stored_pokeDomain (s : State) (d : Fin 8) : (s.pokeDomain d).stored = s.stored := by
  unfold State.pokeDomain; simp
@[simp] theorem stored_stopTask (s : State) (i : Nat) (c : CoreId) : (s.stopTask i c).stored = s.stored := by
  unfold State.stopTask
  dsimp only
  rw [stored_updCore]
  split
  · rename_i k _
    have h := stored_release s c k
    simp only [State.stored] at h ⊢
    exact h
  · rfl
@[simp] theorem stored_abortOne (s : State) (d : Fin 8) (i : Nat) (w : AbortWhy) (b : Bool) :
    (s.abortOne d i w b).stored = s.stored := by
  unfold State.abortOne
  split
  · rfl
  rename_i t _
  have h : (match t.core with | some c => s.stopTask i c | none => s).stored = s.stored := by
    split <;> simp
  simp only
  split
  · simp only [stored_offerCluster, stored_updEntry, stored_updTask, stored_updDom]
    exact h
  · split
    · exact h
    · simp only [stored_gridCheck, stored_dropEntry, stored_updDom]
      exact h
@[simp] theorem stored_abortIn (s : State) (d : Fin 8) (r g : List Nat) (w : AbortWhy) :
    (s.abortIn d r g w).2.stored = s.stored := by
  unfold State.abortIn
  simp only
  split
  · rfl
  · simp only [stored_pokeDomain]
    rw [stored_foldl (fun _ _ => stored_postOnce ..), stored_foldl (fun _ _ => stored_abortOne ..)]
@[simp] theorem stored_abortKids (n : Nat) (g : List Nat) (s : State) : (State.abortKids n g s).stored = s.stored := by
  induction n generalizing g s with
  | zero => rfl
  | succ n ih =>
    unfold State.abortKids
    split
    · rfl
    · dsimp only
      rw [ih, stored_foldl2]
      intro r d
      dsimp only
      rw [stored_abortIn]
@[simp] theorem stored_abortTasks (s : State) (d : Fin 8) (r : List Nat) (w : AbortWhy) :
    (s.abortTasks d r w).stored = s.stored := by
  unfold State.abortTasks; simp
@[simp] theorem stored_ordinaryWrite (s : State) (k : LineKey) : (s.ordinaryWrite k).stored = s.stored := by
  unfold State.ordinaryWrite
  simp only
  split
  · rfl
  · exact stored_foldl (fun _ _ => stored_abortTasks ..) _ _
@[simp] theorem stored_commitWrite (s : State) (d : Fin 8) (k : LineKey) : (s.commitWrite d k).stored = s.stored := by
  unfold State.commitWrite
  refine stored_foldl (fun s e => ?_) _ _
  simp only
  split <;> simp
@[simp] theorem stored_specWrite (s : State) (d : Fin 8) (t : BitVec 48) (k : LineKey) :
    (s.specWrite d t k).stored = s.stored := stored_abortTasks ..
@[simp] theorem stored_dropTask (s : State) (w : Work) : (s.dropTask w).stored = s.stored := by
  unfold State.dropTask; split <;> simp
@[simp] theorem stored_dropL0 (s : State) (k : LineKey) (l : Nat) : (s.dropL0 k l).stored = s.stored := rfl
@[simp] theorem stored_dropLine (s : State) (l : Nat) : (s.dropLine l).stored = s.stored := rfl
@[simp] theorem stored_unpost (s : State) (c : CoreId) (i : Nat) : (s.unpost c i).stored = s.stored := rfl
@[simp] theorem stored_holdBack (s : State) (c : CoreId) (p : Posted) (f : Option FaultInfo) :
    (s.holdBack c p f).stored = s.stored := by
  unfold State.holdBack; split <;> rfl

/-- Work ended by a hardware error leaves memory as it is (19 R351). -/
@[simp] theorem stored_hwEnd (s : State) (c : CoreId) (k : SlotId) : (s.hwEnd c k).stored = s.stored := by
  unfold State.hwEnd
  dsimp only
  split
  · rfl
  · simp
  · simp
  · split
    · rw [stored_report]
      split
      · split <;> simp
      · simp
    · split
      · simp only [stored_report, stored_entryEnds, stored_dropTask]
        split
        · split <;> simp
        · simp
      · split
        · simp only [stored_report, stored_offerCluster, stored_updEntry]
          split
          · split <;> simp
          · simp
        · simp only [stored_report, stored_entryEnds, stored_dropTask]
          split
          · split <;> simp
          · simp

end Sys2Proof.Machine
end

