-- ==== Sys2Proof/Laws/Frame.lean ====
section
/-! SUPPORT. What reading operands, writing a c destination, raising flags and issuing leave alone, said once: memory,
the other strands, the clusters, the homes, and every register of the running strand but the destination. -/

namespace Sys2Proof.Machine

/-- `t` differs from `s` at most in the running strand's ports, c destination `d`, FFLAGS, program counter and trap
registers, and in parts that hold neither memory nor registers. -/
structure State.Keeps (d : Fin 64) (s t : State) : Prop where
  cur : t.cur = s.cur
  stored : t.stored = s.stored
  clusters : t.clusters = s.clusters
  homes : t.homes = s.homes
  others : ∀ (c : CoreId) (k : SlotId), (c, k) ≠ s.cur → t.strand c k = s.strand c k
  v : t.me.v = s.me.v
  g : t.me.g = s.me.g
  m : t.me.m = s.me.m
  geo : t.me.geo = s.me.geo
  xgeo : t.me.xgeo = s.me.xgeo
  c : ∀ r : Fin 64, r ≠ d → t.me.creg r = s.me.creg r

theorem keeps_refl (d : Fin 64) (s : State) : s.Keeps d s :=
  ⟨rfl, rfl, rfl, rfl, fun _ _ _ => rfl, rfl, rfl, rfl, rfl, rfl, fun _ _ => rfl⟩

theorem State.Keeps.trans {d : Fin 64} {s t u : State} (h : s.Keeps d t) (k : t.Keeps d u) : s.Keeps d u :=
  ⟨k.cur.trans h.cur, k.stored.trans h.stored, k.clusters.trans h.clusters, k.homes.trans h.homes,
   fun c i n => (k.others c i (by rw [h.cur]; exact n)).trans (h.others c i n),
   k.v.trans h.v, k.g.trans h.g, k.m.trans h.m, k.geo.trans h.geo, k.xgeo.trans h.xgeo,
   fun r n => (k.c r n).trans (h.c r n)⟩

/-- Storing a running strand that agrees. -/
theorem keeps_setMe {d : Fin 64} {s : State} {x : Strand} (hv : x.v = s.me.v) (hg : x.g = s.me.g) (hm : x.m = s.me.m)
    (h1 : x.geo = s.me.geo) (h2 : x.xgeo = s.me.xgeo) (hc : ∀ r : Fin 64, r ≠ d → x.creg r = s.me.creg r) :
    s.Keeps d (s.setMe x) :=
  ⟨rfl, rfl, rfl, rfl, fun c k n => setMe_strand_ne s x n, by simpa, by simpa, by simpa, by simpa, by simpa, by simpa⟩

/-- What reading a c operand answers: the state with the port it pops, or a trap or a wait that changed nothing. -/
theorem useC_cases (s : State) (i : Fin 64) :
    (∃ v l e m, s.useC i = .ok (v, s.setMe { s.me with ldq := l, engq := e, msg := m })) ∨
    (∃ t a, s.useC i = .error (.trap t a)) ∨ s.useC i = .error (.wait s) := by
  unfold State.useC
  dsimp only
  repeat' split
  · exact .inl ⟨_, _, s.me.engq, s.me.msg, rfl⟩
  · exact .inr (.inl ⟨_, _, rfl⟩)
  · exact .inr (.inl ⟨_, _, rfl⟩)
  · exact .inl ⟨_, s.me.ldq, _, s.me.msg, rfl⟩
  · exact .inr (.inr rfl)
  · exact .inr (.inl ⟨_, _, rfl⟩)
  · exact .inl ⟨_, s.me.ldq, s.me.engq, _, rfl⟩
  · exact .inr (.inl ⟨_, _, rfl⟩)
  · refine .inl ⟨s.me.creg i, s.me.ldq, s.me.engq, s.me.msg, ?_⟩
    show _ = Except.ok (_, s.setMe s.me)
    rw [setMe_me]

/-- An effect on the running strand: it keeps the rest, or it traps, stalls or waits with nothing done; `fl` says that
FFLAGS stay. -/
def State.Quiet (d : Fin 64) (fl : Bool) (s : State) (r : Except Stop State) : Prop :=
  (∃ t, r = .ok t ∧ s.Keeps d t ∧ (fl = true → t.me.fflags = s.me.fflags)) ∨ (∃ t a, r = .error (.trap t a)) ∨
  r = .error .stall ∨ ∃ t, r = .error (.wait t) ∧ s.Keeps d t ∧ (fl = true → t.me.fflags = s.me.fflags)

theorem State.Quiet.after {d : Fin 64} {fl : Bool} {s t : State} {r : Except Stop State} (h : s.Keeps d t)
    (hf : fl = true → t.me.fflags = s.me.fflags) (q : t.Quiet d fl r) : s.Quiet d fl r := by
  obtain ⟨u, rfl, k, f⟩ | ⟨t, a, rfl⟩ | rfl | ⟨u, rfl, k, f⟩ := q
  · exact .inl ⟨u, rfl, h.trans k, fun e => (f e).trans (hf e)⟩
  · exact .inr (.inl ⟨t, a, rfl⟩)
  · exact .inr (.inr (.inl rfl))
  · exact .inr (.inr (.inr ⟨u, rfl, h.trans k, fun e => (f e).trans (hf e)⟩))

/-- Reading an operand first. -/
theorem quiet_useC {d i : Fin 64} {fl : Bool} {s : State} {k : CVal → State → Except Stop State}
    (h : ∀ v t, s.Keeps d t → t.Quiet d fl (k v t)) :
    s.Quiet d fl (match s.useC i with | .ok (v, t) => k v t | .error e => .error e) := by
  obtain ⟨v, l, q, m, e⟩ | ⟨t, a, e⟩ | e := useC_cases s i <;> rw [e]
  · have hk : s.Keeps d (s.setMe { s.me with ldq := l, engq := q, msg := m }) :=
      keeps_setMe rfl rfl rfl rfl rfl fun _ _ => rfl
    exact (h v _ hk).after hk (fun _ => by rw [me_setMe])
  · exact .inr (.inl ⟨t, a, rfl⟩)
  · exact .inr (.inr (.inr ⟨s, rfl, keeps_refl d s, fun _ => rfl⟩))

theorem keeps_ops (d : Fin 64) (s : State) (l : List Op) : s.Keeps d { s with ops := l } :=
  ⟨rfl, rfl, rfl, rfl, fun _ _ _ => rfl, rfl, rfl, rfl, rfl, rfl, fun _ _ => rfl⟩

theorem keeps_post (d : Fin 64) (s : State) (n : Nat) (e : Instr) : s.Keeps d (s.post n e) :=
  ⟨rfl, rfl, rfl, rfl, fun _ _ _ => rfl, rfl, rfl, rfl, rfl, rfl, fun _ _ => rfl⟩

theorem keeps_await {d : Fin 64} {s : State} : s.Keeps d (s.updMe (fun x => { x with await := none })) :=
  keeps_setMe rfl rfl rfl rfl rfl fun _ _ => rfl

theorem fflags_await (s : State) (l : List Op) :
    (({ s with ops := l } : State).updMe (fun x => { x with await := none })).me.fflags = s.me.fflags :=
  (congrArg Strand.fflags (me_setMe ({ s with ops := l } : State) { s.me with await := none }) :)

/-- The index capability handed to a copy changes no register and no memory. -/
theorem handOver_quiet (d : Fin 64) (s : State) (v : CVal) : s.Quiet d true (s.handOver v) := by
  unfold State.handOver
  dsimp only
  repeat' split
  all_goals first
    | exact .inr (.inl ⟨_, _, rfl⟩)
    | exact .inl ⟨_, rfl, (keeps_ops d s _).trans keeps_await, fun _ => fflags_await s _⟩
    | exact .inl ⟨_, rfl, ((keeps_ops d s _).trans keeps_await).trans (keeps_post d _ _ _), fun _ => fflags_await s _⟩

/-- Writing a c destination changes that register, or pushes a port, or hands a copy its index capability. -/
theorem putC_quiet (d : Fin 64) (s : State) (v : CVal) : s.Quiet d true (s.putC d v) := by
  unfold State.putC
  split
  · exact .inr (.inl ⟨_, _, rfl⟩)
  have hk : s.Keeps d (s.setMe (s.me.dropWin (.c d))) := keeps_setMe rfl rfl rfl rfl rfl fun _ _ => rfl
  refine State.Quiet.after hk (fun _ => by rw [me_setMe]; rfl) ?_
  generalize s.setMe (s.me.dropWin (.c d)) = s
  unfold State.landC
  dsimp only
  repeat' split
  · exact .inl ⟨_, rfl, keeps_refl d s, fun _ => rfl⟩
  · exact .inl ⟨_, rfl, keeps_setMe rfl rfl rfl rfl rfl fun _ _ => rfl, fun _ => by rw [me_setMe]⟩
  · exact .inr (.inr (.inl rfl))
  · exact handOver_quiet d s v
  · exact .inl ⟨_, rfl, keeps_setMe rfl rfl rfl rfl rfl fun _ _ => rfl, fun _ => by rw [me_setMe]⟩
  · exact .inr (.inl ⟨_, _, rfl⟩)
  · refine .inl ⟨_, rfl, keeps_setMe rfl rfl rfl rfl rfl fun r hr => ?_, fun _ => by rw [me_setMe]; rfl⟩
    unfold Strand.creg Strand.setC
    split
    · rfl
    · exact rd_wr_ne _ _ hr

theorem State.Quiet.loosen {d : Fin 64} {s : State} {r : Except Stop State} (h : s.Quiet d true r) : s.Quiet d false r := by
  obtain ⟨u, rfl, k, -⟩ | ⟨t, a, rfl⟩ | rfl | ⟨u, rfl, k, -⟩ := h
  · exact .inl ⟨u, rfl, k, by simp⟩
  · exact .inr (.inl ⟨t, a, rfl⟩)
  · exact .inr (.inr (.inl rfl))
  · exact .inr (.inr (.inr ⟨u, rfl, k, by simp⟩))

theorem putC_quiet' (d : Fin 64) (s : State) (v : CVal) : ∀ fl, s.Quiet d fl (s.putC d v)
  | true => putC_quiet d s v
  | false => (putC_quiet d s v).loosen

theorem quiet_bindC {d i : Fin 64} {fl : Bool} {s : State} {k : CVal × State → Except Stop State}
    (h : ∀ v t, s.Keeps d t → t.Quiet d fl (k (v, t))) : s.Quiet d fl (s.useC i >>= k) := by
  have e : (s.useC i >>= k) = (match s.useC i with | .ok (v, t) => k (v, t) | .error e => .error e) := by
    cases s.useC i <;> rfl
  rw [e]
  exact quiet_useC h

theorem quiet_bindX {d i : Fin 64} {fl : Bool} {s : State} {k : Dbl × State → Except Stop State}
    (h : ∀ v t, s.Keeps d t → t.Quiet d fl (k (v, t))) : s.Quiet d fl (s.useX i >>= k) := by
  have e : (s.useX i >>= k) = (s.useC i >>= fun p => k (p.1.addr, p.2)) := by
    unfold State.useX
    cases s.useC i <;> rfl
  rw [e]
  exact quiet_bindC fun v t hk => h _ t hk

theorem quiet_raise {d : Fin 64} {s : State} {fl : Nat} {r : Except Stop State} (h : (s.raise fl).Quiet d false r) :
    s.Quiet d false r :=
  State.Quiet.after (t := s.raise fl) (keeps_setMe rfl rfl rfl rfl rfl fun _ _ => rfl) (by simp) h

/-- What a trap changes, and what it leaves: with a handler only EPC, TCAUSE, TADDR and PCC of its strand (07 R204), its
windows and its repeat set aside (01 R29). -/
theorem takeTrap_keeps {s : State} {t : Trap} {a : Option Dbl} (d : Fin 64) (h : s.me.trapsTo = true) :
    s.Keeps d (s.takeTrap s.cur.1 s.cur.2 t a) ∧ (s.takeTrap s.cur.1 s.cur.2 t a).me.fflags = s.me.fflags := by
  simp only [Strand.trapsTo, Bool.and_eq_true, Bool.not_eq_true'] at h
  obtain ⟨⟨h1, h2⟩, h3⟩ := h
  have e : s.takeTrap s.cur.1 s.cur.2 t a = s.free.2.setMe { s.me with
      st := .running, epc := s.me.pcc, tcause := t.cause, taddr := (match a with | some b => b | none => s.free.1.setWidth 64)
      pcc := s.me.tvec, kept := s.me.allWins, wins := []
      rep := s.me.rep.map (fun (r : Rep) => { r with parked := true }) } := by
    have hn : ¬((s.strand s.cur.1 s.cur.2).tcause.getLsbD 31 = true ∨ (!(s.strand s.cur.1 s.cur.2).tvec.tag) = true ∨
        (!(s.strand s.cur.1 s.cur.2).tvec.has .exec) = true) := by
      change ¬(s.me.tcause.getLsbD 31 = true ∨ (!s.me.tvec.tag) = true ∨ (!s.me.tvec.has .exec) = true)
      rw [h1, h2, h3]; decide
    unfold State.takeTrap
    dsimp only
    rw [if_neg hn]
    rfl
  rw [e]
  have hk : s.Keeps d s.free.2 :=
    ⟨rfl, rfl, rfl, rfl, fun _ _ _ => rfl, rfl, rfl, rfl, rfl, rfl, fun _ _ => rfl⟩
  exact ⟨hk.trans (keeps_setMe rfl rfl rfl rfl rfl fun _ _ => rfl), by rw [me_setMe]⟩

theorem stored_takeTrap (s : State) (c : CoreId) (k : SlotId) (t : Trap) (a : Option Dbl) :
    (s.takeTrap c k t a).stored = s.stored := by
  unfold State.takeTrap
  dsimp only
  split
  · exact stored_hwEnd s c k
  · rfl

/-- What passing an instruction leaves of the strand. -/
theorem pass_keeps (x : Strand) (p : CVal) (r : Option Rep) (n b : Nat) :
    x.pass p r n b = { x with st := (x.pass p r n b).st, wins := (x.pass p r n b).wins, pcc := (x.pass p r n b).pcc
                              rep := (x.pass p r n b).rep } := by
  unfold Strand.pass
  dsimp only
  repeat' split
  all_goals rfl

/-- An instruction whose effect is quiet is quiet as a whole: memory stays in any case, and the rest where its traps
go to a handler. -/
theorem issue_quiet {d : Fin 64} {fl : Bool} {g : Fin 8} {len : Nat} {s t : State} {f : State → Except Stop State}
    (hf : s.Quiet d fl (f s)) (h : issue g len s f = .next t) :
    t.stored = s.stored ∧ (s.me.trapsTo = true → s.Keeps d t ∧ (fl = true → t.me.fflags = s.me.fflags)) := by
  have done : ∀ u : State, s.Keeps d u → (fl = true → u.me.fflags = s.me.fflags) → ∀ x : Strand,
      x = { u.me with st := x.st, wins := x.wins, pcc := x.pcc, rep := x.rep, ldq := x.ldq, stq := x.stq, engq := x.engq
                      vldq := x.vldq, vstq := x.vstq, outbox := x.outbox, msg := x.msg, stalled := x.stalled } →
      (u.setMe x).stored = s.stored ∧ (s.me.trapsTo = true → s.Keeps d (u.setMe x) ∧
        (fl = true → (u.setMe x).me.fflags = s.me.fflags)) := by
    intro u hu hf x hx
    refine ⟨hu.stored, fun _ => ⟨hu.trans ?_, fun e => ?_⟩⟩
    · rw [hx]; exact keeps_setMe rfl rfl rfl rfl rfl fun _ _ => rfl
    · rw [me_setMe, hx]; exact hf e
  by_cases hg : s.me.guard g = false
  · rw [issue_off hg] at h
    obtain rfl := by simpa using h
    exact done s (keeps_refl d s) (fun _ => rfl) _ (by rw [pass_keeps])
  · simp only [issue, issueN, hg] at h
    obtain ⟨u, e, k, q⟩ | ⟨t', a, e⟩ | e | ⟨u, e, k, q⟩ := hf <;> simp only [e] at h
    · obtain rfl := by simpa using h
      exact done u k q _ (by rw [pass_keeps])
    · obtain rfl := by simpa using h
      exact ⟨stored_takeTrap .., fun ht => ⟨(takeTrap_keeps d ht).1, fun _ => (takeTrap_keeps d ht).2⟩⟩
    · obtain rfl := by simpa using h
      exact done s (keeps_refl d s) (fun _ => rfl) _ rfl
    · obtain rfl := by simpa using h
      exact done u k q _ rfl

end Sys2Proof.Machine
end

