-- ==== Sys2Proof/Laws/Lanes.lean ====
section
/-! SUPPORT. Lanes of v registers: reading, building, masking. -/

namespace Sys2Proof.Machine

/-- A field of a register as the bits it is. -/
theorem fld_toNat {n : Nat} (v : BitVec n) (i w : Nat) : fld v.toNat i w = (v.extractLsb' i w).toNat := by
  simp [fld, BitVec.extractLsb'_toNat, Nat.shiftRight_eq_div_pow]

/-- The two's complement reading of a code is the signed value of its bits. -/
theorem sint_toInt {w : Nat} (hw : 0 < w) (i : BitVec w) : sint w i.toNat = i.toInt := by
  obtain ⟨n, rfl⟩ : ∃ n, w = n + 1 := ⟨w - 1, by omega⟩
  have h := i.isLt
  have hp : 2 ^ (n + 1) = 2 * 2 ^ n := by rw [Nat.pow_succ, Nat.mul_comm]
  have hq : (2 : Int) ^ (n + 1) = ((2 ^ (n + 1) : Nat) : Int) := by push_cast; rfl
  unfold sint
  rw [Nat.mod_eq_of_lt h, BitVec.toInt_eq_toNat_cond, hq, Nat.add_sub_cancel]
  by_cases h2 : 2 ^ n ≤ i.toNat
  · rw [if_neg (by omega : ¬ 2 * i.toNat < 2 ^ (n + 1))]
    exact if_pos h2
  · rw [if_pos (by omega : 2 * i.toNat < 2 ^ (n + 1))]
    exact if_neg h2

theorem lanesOf_eq (w : Nat) (v : VReg) :
    lanesOf w v = (List.range (1024 / w)).map (fun i => (v.extractLsb' (w * i) w).toNat) := by
  simp [lanesOf, fld_toNat]

theorem keepLanes_eq (s : State) (d : Fin 32) : s.keepLanes d = s.me.keeps d := by
  unfold State.keepLanes Strand.keeps
  by_cases h : d.val < 30
  · rw [if_neg (by omega), if_pos h]
  · rw [if_pos (by omega), if_neg h]

theorem zip_range_map {α β : Type} (f : Nat → α) (h : Nat → β) (n : Nat) :
    ((List.range n).map f).zip ((List.range n).map h) = (List.range n).map (fun i => (f i, h i)) := by
  rw [List.zip_map']

theorem zipIdx_range_map {α : Type} (f : Nat → α) (n : Nat) :
    ((List.range n).map f).zipIdx = (List.range n).map (fun i => (f i, i)) := by
  apply List.ext_getElem
  · simp
  · intro i h1 h2
    simp

/-- The masked result of a lane operation, lane by lane. -/
theorem masked_range (m : Quad) (n : Nat) (old : Nat → Nat) (new : Nat → Nat × Nat) :
    masked m ((List.range n).map old) ((List.range n).map new) =
      ((List.range n).map (fun i => (if m.getLsbD i then new i else (old i, 0)).1),
       flags ((List.range n).map (fun i => (if m.getLsbD i then new i else (old i, 0)).2))) := by
  unfold masked
  simp only [zip_range_map, zipIdx_range_map, List.map_map]
  refine Prod.ext ?_ ?_
  · simp only
    refine List.map_congr_left (fun i _ => ?_)
    simp only [Function.comp]
    split <;> rfl
  · simp only
    congr 1
    refine List.map_congr_left (fun i _ => ?_)
    simp only [Function.comp]
    split <;> rfl

theorem flags_zero (n : Nat) : flags ((List.range n).map (fun _ => 0)) = 0 := by
  unfold flags
  induction n with
  | zero => rfl
  | succ n ih =>
    rw [List.range_succ, List.map_append, List.foldl_append, ih]
    show Nat.lor 0 0 = 0
    decide

theorem flagged_zero (x : Strand) : x.flagged 0 = x := by simp [Strand.flagged]

/-- A masked two-operand lane operation (05 R123). -/
theorem vector2_of {w : Nat} {g : Fin 8} {d a b : Fin 32} {m : Fin 8} {f : Nat → Nat → Nat × Nat} {s : State}
    {u v : VReg} {x y z : Strand} (hg : s.me.guard g = true) (ha : s.me.sourceV a = some (u, x))
    (hb : x.sourceV b = some (v, y))
    (hz : let r := (List.range (1024 / w)).map (fun i => if (y.mask m).getLsbD i then
              f (u.extractLsb' (w * i) w).toNat (v.extractLsb' (w * i) w).toNat
            else (((y.keeps d).extractLsb' (w * i) w).toNat, 0))
          (y.flagged (flags (r.map (·.2)))).resultV d (vOfLanes w (r.map (·.1))) = some z) :
    vector2 w g d a b m f s = .next (s.passed 4 z) := by
  unfold vector2
  refine issue_me hg ?_
  simp only [useV_of_sourceV ha, useV_of_sourceV (s := s.setMe x) (by simpa using hb), bind, Except.bind, setMe_setMe,
    me_setMe, keepLanes_eq, lanesOf_eq, zip_range_map, List.map_map]
  rw [show ((fun p : Nat × Nat => f p.1 p.2) ∘ fun i => ((u.extractLsb' (w * i) w).toNat, (v.extractLsb' (w * i) w).toNat)) =
    fun i => f (u.extractLsb' (w * i) w).toNat (v.extractLsb' (w * i) w).toNat from rfl, masked_range]
  simp only [List.map_map] at hz
  have := putV_of_resultV (s := s.setMe (y.flagged _)) (by rw [me_setMe]; exact hz)
  rw [setMe_setMe] at this
  simp only [raise_setMe, me_setMe, setMe_setMe]
  exact this

end Sys2Proof.Machine
end

