-- ==== Sys2Proof/Laws/Mem.lean ====
section
/-! SUPPORT. Memory: what a read gives after a write, and that writes keep the canonical form; the same for tags. -/

namespace Sys2Proof.Machine

/-! ### Canonical form -/

theorem wf_cons {a : Nat} {b : Byte} {m : List Host.Cell} :
    Memory.wf ((a, b) :: m) = true ↔ b ≠ unlisted ∧ (∀ c ∈ m.head?, a < c.1) ∧ Memory.wf m = true := by
  cases m with
  | nil => simp [Memory.wf]
  | cons c m => obtain ⟨a', b'⟩ := c; simp [Memory.wf]; tauto

theorem wf_mem {m : List Host.Cell} {c : Host.Cell} (h : Memory.wf m = true) (hc : c ∈ m) : c.2 ≠ unlisted := by
  induction m with
  | nil => simp at hc
  | cons d m ih =>
    obtain ⟨a, b⟩ := d
    rw [wf_cons] at h
    rcases List.mem_cons.mp hc with rfl | hc
    · exact h.1
    · exact ih h.2.2 hc

/-- The first address of what a write leaves. -/
theorem memSet_head {m : List Host.Cell} {x : Nat} {v : Byte} {l : Nat} (hx : l < x) (hm : ∀ c ∈ m.head?, l < c.1)
    (h : Memory.wf m = true) : ∀ c ∈ (memSet m x v).head?, l < c.1 := by
  cases m with
  | nil => unfold memSet; split <;> simp [hx]
  | cons d m =>
    obtain ⟨a, b⟩ := d
    have ha : l < a := by simpa using hm
    rw [wf_cons] at h
    unfold memSet
    split
    · split <;> simp [hx, ha]
    · split
      · split
        · intro c hc
          have := h.2.1 c hc
          omega
        · simp [ha]
      · simp [ha]

/-- A write keeps the canonical form. -/
theorem wf_memSet {m : List Host.Cell} (x : Nat) (v : Byte) (h : Memory.wf m = true) :
    Memory.wf (memSet m x v) = true := by
  induction m with
  | nil => unfold memSet; split <;> simp_all [Memory.wf]
  | cons d m ih =>
    obtain ⟨a, b⟩ := d
    have h' := h
    rw [wf_cons] at h'
    unfold memSet
    split
    · split
      · exact h
      · rw [wf_cons]; exact ⟨by assumption, by simpa, h⟩
    · split
      · split
        · exact h'.2.2
        · rw [wf_cons]; exact ⟨by assumption, h'.2.1, h'.2.2⟩
      · rw [wf_cons]
        exact ⟨h'.1, memSet_head (by omega) h'.2.1 h'.2.2, ih h'.2.2⟩

theorem wf_memWrite {m : List Host.Cell} (a : Nat) (bs : List Byte) (h : Memory.wf m = true) :
    Memory.wf (memWrite m a bs) = true := by
  induction bs generalizing m a with
  | nil => exact h
  | cons b bs ih => exact ih _ (wf_memSet _ _ h)

/-! ### Read after write -/

theorem memGet_of_lt {m : List Host.Cell} {x : Nat} (h : Memory.wf m = true) (hx : ∀ c ∈ m.head?, x < c.1) :
    memGet m x = unlisted := by
  induction m with
  | nil => rfl
  | cons d m ih =>
    obtain ⟨a, b⟩ := d
    rw [wf_cons] at h
    have ha : x < a := by simpa using hx
    unfold memGet
    rw [if_neg (by omega)]
    exact ih h.2.2 (fun c hc => by have := h.2.1 c hc; omega)

/-- A read after a write of one byte. -/
theorem memGet_memSet {m : List Host.Cell} (x y : Nat) (v : Byte) (h : Memory.wf m = true) :
    memGet (memSet m x v) y = if y = x then v else memGet m y := by
  induction m with
  | nil => unfold memSet; split <;> simp_all [memGet]
  | cons d m ih =>
    obtain ⟨a, b⟩ := d
    have h' := h
    rw [wf_cons] at h'
    unfold memSet
    by_cases hxa : x < a
    · rw [if_pos hxa]
      by_cases hyx : y = x
      · subst hyx
        have : memGet ((a, b) :: m) y = unlisted := memGet_of_lt h (by simpa using hxa)
        split
        · simp_all
        · simp [memGet]
      · split
        · simp [hyx]
        · simp [memGet, hyx]
    · rw [if_neg hxa]
      by_cases he : x = a
      · subst he
        rw [if_pos rfl]
        by_cases hyx : y = x
        · subst hyx
          have : memGet m y = unlisted := memGet_of_lt h'.2.2 h'.2.1
          split <;> simp_all [memGet]
        · split <;> simp [memGet, hyx]
      · rw [if_neg he]
        have := ih h'.2.2
        by_cases hya : y = a
        · subst hya
          have hne : ¬ y = x := fun e => he e.symm
          simp [memGet, hne]
        · simp [memGet, hya, this]

/-- Bytes outside a written range read as before. -/
theorem memGet_memWrite_out {m : List Host.Cell} (a x : Nat) (bs : List Byte) (h : Memory.wf m = true)
    (hx : x < a ∨ a + bs.length ≤ x) : memGet (memWrite m a bs) x = memGet m x := by
  induction bs generalizing m a with
  | nil => rfl
  | cons b bs ih =>
    have hl : (b :: bs).length = bs.length + 1 := rfl
    rw [memWrite, ih (a + 1) (wf_memSet _ _ h) (by omega), memGet_memSet _ _ _ h, if_neg (by omega)]

/-- Bytes of a written range read as written. -/
theorem memGet_memWrite_in {m : List Host.Cell} (a i : Nat) (bs : List Byte) (b : Byte) (h : Memory.wf m = true)
    (hb : bs[i]? = some b) : memGet (memWrite m a bs) (a + i) = b := by
  induction bs generalizing m a i with
  | nil => simp at hb
  | cons c bs ih =>
    rw [memWrite]
    cases i with
    | zero =>
      have : c = b := by simpa using hb
      subst this
      rw [memGet_memWrite_out _ _ _ (wf_memSet _ _ h) (by omega), memGet_memSet _ _ _ h]
      simp
    | succ i =>
      have := ih (m := memSet m a c) (a + 1) i (wf_memSet _ _ h) (by simpa using hb)
      rw [← this]
      congr 1
      omega

/-! ### Sorted lists of numbers -/

theorem rising_cons {a : Nat} {l : List Nat} : rising (a :: l) = true ↔ (∀ b ∈ l.head?, a < b) ∧ rising l = true := by
  cases l <;> simp [rising]

theorem rising_lt {a : Nat} {l : List Nat} (h : rising (a :: l) = true) : ∀ b ∈ l, a < b := by
  induction l generalizing a with
  | nil => simp
  | cons c l ih =>
    rw [rising_cons] at h
    intro b hb
    have hc : a < c := by simpa using h.1
    rcases List.mem_cons.mp hb with rfl | hb
    · exact hc
    · have := ih h.2 b hb; omega

theorem rising_filter {l : List Nat} (p : Nat → Bool) (h : rising l = true) : rising (l.filter p) = true := by
  induction l with
  | nil => exact h
  | cons a l ih =>
    have hl := (rising_cons.mp h).2
    by_cases hp : p a = true
    · rw [List.filter_cons_of_pos hp, rising_cons]
      refine ⟨fun b hb => rising_lt h b ?_, ih hl⟩
      exact List.mem_of_mem_filter (List.mem_of_mem_head? hb)
    · rw [List.filter_cons_of_neg hp]
      exact ih hl

theorem setIn_head {l : List Nat} {x a : Nat} (hx : a < x) (hl : ∀ b ∈ l.head?, a < b) :
    ∀ b ∈ (setIn l x).head?, a < b := by
  cases l with
  | nil => simp [setIn, hx]
  | cons c l =>
    have hc : a < c := by simpa using hl
    unfold setIn
    split
    · simp [hx]
    · split <;> simp [hc]

theorem rising_setIn {l : List Nat} (x : Nat) (h : rising l = true) : rising (setIn l x) = true := by
  induction l with
  | nil => rfl
  | cons a l ih =>
    have h' := rising_cons.mp h
    unfold setIn
    split
    · rw [rising_cons]; exact ⟨by simpa, h⟩
    · split
      · exact h
      · rw [rising_cons]
        exact ⟨setIn_head (by omega) h'.1, ih h'.2⟩

theorem rising_tagSet {l : List Nat} (a : Nat) (t : Bool) (h : rising l = true) : rising (tagSet l a t) = true := by
  unfold tagSet
  split
  · exact rising_setIn _ h
  · exact rising_filter _ h

theorem rising_tagsClear {l : List Nat} (a n : Nat) (h : rising l = true) : rising (tagsClear l a n) = true :=
  rising_filter _ h

/-! ### Writes of the machine -/

theorem physWrite_ok {s : State} (p : Nat) (bs : List Byte) (h : s.memoryOk = true) : (s.physWrite p bs).memoryOk = true := by
  simp only [State.memoryOk, Bool.and_eq_true] at h ⊢
  exact ⟨⟨wf_memWrite _ _ h.1.1, rising_tagsClear _ _ h.1.2⟩, rising_filter _ h.2⟩

theorem pteOr_ok {s : State} (p b : Nat) (h : s.memoryOk = true) : (s.pteOr p b).memoryOk = true := by
  simp only [State.memoryOk, Bool.and_eq_true] at h ⊢
  exact ⟨⟨wf_memWrite _ _ h.1.1, h.1.2⟩, h.2⟩

/-- Writing a run of bytes keeps memory canonical (04 R103, R104). -/
theorem writeParts_ok {s : State} (w : Who) (ts : List (Tr × Dbl × Nat)) (bs : List Byte) (h : s.memoryOk = true) :
    (s.writeParts w ts bs).memoryOk = true := by
  induction ts generalizing s bs with
  | nil => exact h
  | cons t ts ih =>
    obtain ⟨t, va, n⟩ := t
    refine ih _ ?_
    rw [memoryOk_of_stored (stored_dropL0 ..), memoryOk_of_stored (stored_ordinaryWrite ..)]
    exact physWrite_ok _ _ h

end Sys2Proof.Machine
end

