-- ==== Sys2Proof/Laws/Off.lean ====
section
/-! SUPPORT. Each instruction, guarded off, only counts as passed, with its literal (01 R26). -/

set_option Elab.async false
set_option linter.unusedVariables false

namespace Sys2Proof.Machine

theorem off_add (st : State) (g : Fin 8) (d a b : Fin 64) (hg : st.me.guard g = false) : exec (.add g d a b) st = .next (st.passed 4 st.me) := by
  rw [exec_add]; delta execAdd scalar2; exact issue_off hg
theorem off_sub (st : State) (g : Fin 8) (d a b : Fin 64) (hg : st.me.guard g = false) : exec (.sub g d a b) st = .next (st.passed 4 st.me) := by
  rw [exec_sub]; delta execSub scalar2; exact issue_off hg
theorem off_and (st : State) (g : Fin 8) (d a b : Fin 64) (hg : st.me.guard g = false) : exec (.and g d a b) st = .next (st.passed 4 st.me) := by
  rw [exec_and]; delta execAnd quad2; exact issue_off hg
theorem off_or (st : State) (g : Fin 8) (d a b : Fin 64) (hg : st.me.guard g = false) : exec (.or g d a b) st = .next (st.passed 4 st.me) := by
  rw [exec_or]; delta execOr quad2; exact issue_off hg
theorem off_xor (st : State) (g : Fin 8) (d a b : Fin 64) (hg : st.me.guard g = false) : exec (.xor g d a b) st = .next (st.passed 4 st.me) := by
  rw [exec_xor]; delta execXor quad2; exact issue_off hg
theorem off_andn (st : State) (g : Fin 8) (d a b : Fin 64) (hg : st.me.guard g = false) : exec (.andn g d a b) st = .next (st.passed 4 st.me) := by
  rw [exec_andn]; delta execAndn quad2; exact issue_off hg
theorem off_sll (st : State) (g : Fin 8) (d a b : Fin 64) (hg : st.me.guard g = false) : exec (.sll g d a b) st = .next (st.passed 4 st.me) := by
  rw [exec_sll]; delta execSll scalar2; exact issue_off hg
theorem off_srl (st : State) (g : Fin 8) (d a b : Fin 64) (hg : st.me.guard g = false) : exec (.srl g d a b) st = .next (st.passed 4 st.me) := by
  rw [exec_srl]; delta execSrl scalar2; exact issue_off hg
theorem off_sra (st : State) (g : Fin 8) (d a b : Fin 64) (hg : st.me.guard g = false) : exec (.sra g d a b) st = .next (st.passed 4 st.me) := by
  rw [exec_sra]; delta execSra scalar2; exact issue_off hg
theorem off_rot (st : State) (g : Fin 8) (d a b : Fin 64) (hg : st.me.guard g = false) : exec (.rot g d a b) st = .next (st.passed 4 st.me) := by
  rw [exec_rot]; delta execRot scalar2; exact issue_off hg
theorem off_min (st : State) (g : Fin 8) (d a b : Fin 64) (hg : st.me.guard g = false) : exec (.min g d a b) st = .next (st.passed 4 st.me) := by
  rw [exec_min]; delta execMin scalar2; exact issue_off hg
theorem off_max (st : State) (g : Fin 8) (d a b : Fin 64) (hg : st.me.guard g = false) : exec (.max g d a b) st = .next (st.passed 4 st.me) := by
  rw [exec_max]; delta execMax scalar2; exact issue_off hg
theorem off_mul (st : State) (g : Fin 8) (d a b : Fin 64) (hg : st.me.guard g = false) : exec (.mul g d a b) st = .next (st.passed 4 st.me) := by
  rw [exec_mul]; delta execMul scalar2; exact issue_off hg
theorem off_mulh (st : State) (g : Fin 8) (d a b : Fin 64) (hg : st.me.guard g = false) : exec (.mulh g d a b) st = .next (st.passed 4 st.me) := by
  rw [exec_mulh]; delta execMulh scalar2; exact issue_off hg
theorem off_mulhU (st : State) (g : Fin 8) (d a b : Fin 64) (hg : st.me.guard g = false) : exec (.mulhU g d a b) st = .next (st.passed 4 st.me) := by
  rw [exec_mulhU]; delta execMulhU scalar2; exact issue_off hg
theorem off_div (st : State) (g : Fin 8) (d a b : Fin 64) (hg : st.me.guard g = false) : exec (.div g d a b) st = .next (st.passed 4 st.me) := by
  rw [exec_div]; delta execDiv scalar2; exact issue_off hg
theorem off_divU (st : State) (g : Fin 8) (d a b : Fin 64) (hg : st.me.guard g = false) : exec (.divU g d a b) st = .next (st.passed 4 st.me) := by
  rw [exec_divU]; delta execDivU scalar2; exact issue_off hg
theorem off_rem (st : State) (g : Fin 8) (d a b : Fin 64) (hg : st.me.guard g = false) : exec (.rem g d a b) st = .next (st.passed 4 st.me) := by
  rw [exec_rem]; delta execRem scalar2; exact issue_off hg
theorem off_remU (st : State) (g : Fin 8) (d a b : Fin 64) (hg : st.me.guard g = false) : exec (.remU g d a b) st = .next (st.passed 4 st.me) := by
  rw [exec_remU]; delta execRemU scalar2; exact issue_off hg
theorem off_clz (st : State) (g : Fin 8) (d a : Fin 64) (hg : st.me.guard g = false) : exec (.clz g d a) st = .next (st.passed 4 st.me) := by
  rw [exec_clz]; delta execClz scalar1; exact issue_off hg
theorem off_popc (st : State) (g : Fin 8) (d a : Fin 64) (hg : st.me.guard g = false) : exec (.popc g d a) st = .next (st.passed 4 st.me) := by
  rw [exec_popc]; delta execPopc scalar1; exact issue_off hg
theorem off_mov (st : State) (g : Fin 8) (d a : Fin 64) (hg : st.me.guard g = false) : exec (.mov g d a) st = .next (st.passed 4 st.me) := by
  rw [exec_mov]; delta execMov; exact issue_off hg
theorem off_sextB (st : State) (g : Fin 8) (d a : Fin 64) (hg : st.me.guard g = false) : exec (.sextB g d a) st = .next (st.passed 4 st.me) := by
  rw [exec_sextB]; delta execSextB scalar1; exact issue_off hg
theorem off_sextH (st : State) (g : Fin 8) (d a : Fin 64) (hg : st.me.guard g = false) : exec (.sextH g d a) st = .next (st.passed 4 st.me) := by
  rw [exec_sextH]; delta execSextH scalar1; exact issue_off hg
theorem off_sextW (st : State) (g : Fin 8) (d a : Fin 64) (hg : st.me.guard g = false) : exec (.sextW g d a) st = .next (st.passed 4 st.me) := by
  rw [exec_sextW]; delta execSextW scalar1; exact issue_off hg
theorem off_zextB (st : State) (g : Fin 8) (d a : Fin 64) (hg : st.me.guard g = false) : exec (.zextB g d a) st = .next (st.passed 4 st.me) := by
  rw [exec_zextB]; delta execZextB scalar1; exact issue_off hg
theorem off_zextH (st : State) (g : Fin 8) (d a : Fin 64) (hg : st.me.guard g = false) : exec (.zextH g d a) st = .next (st.passed 4 st.me) := by
  rw [exec_zextH]; delta execZextH scalar1; exact issue_off hg
theorem off_zextW (st : State) (g : Fin 8) (d a : Fin 64) (hg : st.me.guard g = false) : exec (.zextW g d a) st = .next (st.passed 4 st.me) := by
  rw [exec_zextW]; delta execZextW scalar1; exact issue_off hg
theorem off_addImm (st : State) (g : Fin 8) (d a : Fin 64) (i : BitVec 10) (hg : st.me.guard g = false) : exec (.addImm g d a i) st = .next (st.passed 4 st.me) := by
  rw [exec_addImm]; delta execAddImm scalar1; exact issue_off hg
theorem off_addImmLiteral (st : State) (g : Fin 8) (d a : Fin 64) (lit : Word) (hg : st.me.guard g = false) : exec (.addImmLiteral g d a lit) st = .next (st.passed 8 st.me) := by
  rw [exec_addImmLiteral]; delta execAddImmLiteral scalar1; exact issue_off hg
theorem off_andImm (st : State) (g : Fin 8) (d a : Fin 64) (i : BitVec 10) (hg : st.me.guard g = false) : exec (.andImm g d a i) st = .next (st.passed 4 st.me) := by
  rw [exec_andImm]; delta execAndImm quad1; exact issue_off hg
theorem off_andImmLiteral (st : State) (g : Fin 8) (d a : Fin 64) (lit : Word) (hg : st.me.guard g = false) : exec (.andImmLiteral g d a lit) st = .next (st.passed 8 st.me) := by
  rw [exec_andImmLiteral]; delta execAndImmLiteral quad1; exact issue_off hg
theorem off_orImm (st : State) (g : Fin 8) (d a : Fin 64) (i : BitVec 10) (hg : st.me.guard g = false) : exec (.orImm g d a i) st = .next (st.passed 4 st.me) := by
  rw [exec_orImm]; delta execOrImm quad1; exact issue_off hg
theorem off_orImmLiteral (st : State) (g : Fin 8) (d a : Fin 64) (lit : Word) (hg : st.me.guard g = false) : exec (.orImmLiteral g d a lit) st = .next (st.passed 8 st.me) := by
  rw [exec_orImmLiteral]; delta execOrImmLiteral quad1; exact issue_off hg
theorem off_xorImm (st : State) (g : Fin 8) (d a : Fin 64) (i : BitVec 10) (hg : st.me.guard g = false) : exec (.xorImm g d a i) st = .next (st.passed 4 st.me) := by
  rw [exec_xorImm]; delta execXorImm quad1; exact issue_off hg
theorem off_xorImmLiteral (st : State) (g : Fin 8) (d a : Fin 64) (lit : Word) (hg : st.me.guard g = false) : exec (.xorImmLiteral g d a lit) st = .next (st.passed 8 st.me) := by
  rw [exec_xorImmLiteral]; delta execXorImmLiteral quad1; exact issue_off hg
theorem off_sllImm (st : State) (g : Fin 8) (d a : Fin 64) (i : BitVec 10) (hg : st.me.guard g = false) : exec (.sllImm g d a i) st = .next (st.passed 4 st.me) := by
  rw [exec_sllImm]; delta execSllImm scalar1; exact issue_off hg
theorem off_srlImm (st : State) (g : Fin 8) (d a : Fin 64) (i : BitVec 10) (hg : st.me.guard g = false) : exec (.srlImm g d a i) st = .next (st.passed 4 st.me) := by
  rw [exec_srlImm]; delta execSrlImm scalar1; exact issue_off hg
theorem off_sraImm (st : State) (g : Fin 8) (d a : Fin 64) (i : BitVec 10) (hg : st.me.guard g = false) : exec (.sraImm g d a i) st = .next (st.passed 4 st.me) := by
  rw [exec_sraImm]; delta execSraImm scalar1; exact issue_off hg
theorem off_rotImm (st : State) (g : Fin 8) (d a : Fin 64) (i : BitVec 10) (hg : st.me.guard g = false) : exec (.rotImm g d a i) st = .next (st.passed 4 st.me) := by
  rw [exec_rotImm]; delta execRotImm scalar1; exact issue_off hg
theorem off_li (st : State) (g : Fin 8) (d : Fin 64) (i : BitVec 10) (hg : st.me.guard g = false) : exec (.li g d i) st = .next (st.passed 4 st.me) := by
  rw [exec_li]; delta execLi; exact issue_off hg
theorem off_liLiteral (st : State) (g : Fin 8) (d : Fin 64) (lit : Word) (hg : st.me.guard g = false) : exec (.liLiteral g d lit) st = .next (st.passed 8 st.me) := by
  rw [exec_liLiteral]; delta execLiLiteral; exact issue_off hg
theorem off_cmpi (st : State) (g c h : Fin 8) (a : Fin 64) (i : BitVec 10) (hg : st.me.guard g = false) : exec (.cmpi g c h a i) st = .next (st.passed 4 st.me) := by
  rw [exec_cmpi]; delta execCmpi compareImm; exact issue_off hg
theorem off_cmpiLiteral (st : State) (g c h : Fin 8) (a : Fin 64) (lit : Word) (hg : st.me.guard g = false) : exec (.cmpiLiteral g c h a lit) st = .next (st.passed 8 st.me) := by
  rw [exec_cmpiLiteral]; delta execCmpiLiteral compareImm; exact issue_off hg
theorem off_cmp (st : State) (g c h : Fin 8) (a b : Fin 64) (hg : st.me.guard g = false) : exec (.cmp g c h a b) st = .next (st.passed 4 st.me) := by
  rw [exec_cmp]; delta execCmp compare2; exact issue_off hg
theorem off_cmpAnd (st : State) (g c h : Fin 8) (a b : Fin 64) (hg : st.me.guard g = false) : exec (.cmpAnd g c h a b) st = .next (st.passed 4 st.me) := by
  rw [exec_cmpAnd]; delta execCmpAnd compare2; exact issue_off hg
theorem off_cmpOr (st : State) (g c h : Fin 8) (a b : Fin 64) (hg : st.me.guard g = false) : exec (.cmpOr g c h a b) st = .next (st.passed 4 st.me) := by
  rw [exec_cmpOr]; delta execCmpOr compare2; exact issue_off hg
theorem off_gnot (st : State) (g h j : Fin 8) (hg : st.me.guard g = false) : exec (.gnot g h j) st = .next (st.passed 4 st.me) := by
  rw [exec_gnot]; delta execGnot guards; exact issue_off hg
theorem off_gand (st : State) (g h j k : Fin 8) (hg : st.me.guard g = false) : exec (.gand g h j k) st = .next (st.passed 4 st.me) := by
  rw [exec_gand]; delta execGand guards; exact issue_off hg
theorem off_gor (st : State) (g h j k : Fin 8) (hg : st.me.guard g = false) : exec (.gor g h j k) st = .next (st.passed 4 st.me) := by
  rw [exec_gor]; delta execGor guards; exact issue_off hg
theorem off_sel (st : State) (g : Fin 8) (d a b : Fin 64) (h : Fin 8) (hg : st.me.guard g = false) : exec (.sel g d a b h) st = .next (st.passed 4 st.me) := by
  rw [exec_sel]; delta execSel; exact issue_off hg
theorem off_fadd (st : State) (g : Fin 8) (d a b : Fin 64) (hg : st.me.guard g = false) : exec (.fadd g d a b) st = .next (st.passed 4 st.me) := by
  rw [exec_fadd]; delta execFadd float2; exact issue_off hg
theorem off_fsub (st : State) (g : Fin 8) (d a b : Fin 64) (hg : st.me.guard g = false) : exec (.fsub g d a b) st = .next (st.passed 4 st.me) := by
  rw [exec_fsub]; delta execFsub float2; exact issue_off hg
theorem off_fmul (st : State) (g : Fin 8) (d a b : Fin 64) (hg : st.me.guard g = false) : exec (.fmul g d a b) st = .next (st.passed 4 st.me) := by
  rw [exec_fmul]; delta execFmul float2; exact issue_off hg
theorem off_fdiv (st : State) (g : Fin 8) (d a b : Fin 64) (hg : st.me.guard g = false) : exec (.fdiv g d a b) st = .next (st.passed 4 st.me) := by
  rw [exec_fdiv]; delta execFdiv float2; exact issue_off hg
theorem off_fmin (st : State) (g : Fin 8) (d a b : Fin 64) (hg : st.me.guard g = false) : exec (.fmin g d a b) st = .next (st.passed 4 st.me) := by
  rw [exec_fmin]; delta execFmin float2; exact issue_off hg
theorem off_fmax (st : State) (g : Fin 8) (d a b : Fin 64) (hg : st.me.guard g = false) : exec (.fmax g d a b) st = .next (st.passed 4 st.me) := by
  rw [exec_fmax]; delta execFmax float2; exact issue_off hg
theorem off_fsqrt (st : State) (g : Fin 8) (d a : Fin 64) (hg : st.me.guard g = false) : exec (.fsqrt g d a) st = .next (st.passed 4 st.me) := by
  rw [exec_fsqrt]; delta execFsqrt convert; exact issue_off hg
theorem off_ffma (st : State) (g : Fin 8) (d a b : Fin 64) (hg : st.me.guard g = false) : exec (.ffma g d a b) st = .next (st.passed 4 st.me) := by
  rw [exec_ffma]; delta execFfma floatFma; exact issue_off hg
theorem off_ffmaN (st : State) (g : Fin 8) (d a b : Fin 64) (hg : st.me.guard g = false) : exec (.ffmaN g d a b) st = .next (st.passed 4 st.me) := by
  rw [exec_ffmaN]; delta execFfmaN floatFma; exact issue_off hg
theorem off_fcmp (st : State) (g c h : Fin 8) (a b : Fin 64) (hg : st.me.guard g = false) : exec (.fcmp g c h a b) st = .next (st.passed 4 st.me) := by
  rw [exec_fcmp]; delta execFcmp; exact issue_off hg
theorem off_fcvtF32I64 (st : State) (g : Fin 8) (d a : Fin 64) (hg : st.me.guard g = false) : exec (.fcvtF32I64 g d a) st = .next (st.passed 4 st.me) := by
  rw [exec_fcvtF32I64]; delta execFcvtF32I64 convert; exact issue_off hg
theorem off_fcvtF32U64 (st : State) (g : Fin 8) (d a : Fin 64) (hg : st.me.guard g = false) : exec (.fcvtF32U64 g d a) st = .next (st.passed 4 st.me) := by
  rw [exec_fcvtF32U64]; delta execFcvtF32U64 convert; exact issue_off hg
theorem off_fcvtI64F32 (st : State) (g : Fin 8) (d a : Fin 64) (hg : st.me.guard g = false) : exec (.fcvtI64F32 g d a) st = .next (st.passed 4 st.me) := by
  rw [exec_fcvtI64F32]; delta execFcvtI64F32 convert; exact issue_off hg
theorem off_fcvtU64F32 (st : State) (g : Fin 8) (d a : Fin 64) (hg : st.me.guard g = false) : exec (.fcvtU64F32 g d a) st = .next (st.passed 4 st.me) := by
  rw [exec_fcvtU64F32]; delta execFcvtU64F32 convert; exact issue_off hg
theorem off_fcvtBf16F32 (st : State) (g : Fin 8) (d a : Fin 64) (hg : st.me.guard g = false) : exec (.fcvtBf16F32 g d a) st = .next (st.passed 4 st.me) := by
  rw [exec_fcvtBf16F32]; delta execFcvtBf16F32 convert; exact issue_off hg
theorem off_fcvtF16F32 (st : State) (g : Fin 8) (d a : Fin 64) (hg : st.me.guard g = false) : exec (.fcvtF16F32 g d a) st = .next (st.passed 4 st.me) := by
  rw [exec_fcvtF16F32]; delta execFcvtF16F32 convert; exact issue_off hg
theorem off_fcvtF32Bf16 (st : State) (g : Fin 8) (d a : Fin 64) (hg : st.me.guard g = false) : exec (.fcvtF32Bf16 g d a) st = .next (st.passed 4 st.me) := by
  rw [exec_fcvtF32Bf16]; delta execFcvtF32Bf16 convert; exact issue_off hg
theorem off_fcvtF32F16 (st : State) (g : Fin 8) (d a : Fin 64) (hg : st.me.guard g = false) : exec (.fcvtF32F16 g d a) st = .next (st.passed 4 st.me) := by
  rw [exec_fcvtF32F16]; delta execFcvtF32F16 convert; exact issue_off hg
theorem off_cbnd (st : State) (g : Fin 8) (d a b : Fin 64) (hg : st.me.guard g = false) : exec (.cbnd g d a b) st = .next (st.passed 4 st.me) := by
  rw [exec_cbnd]; delta execCbnd; exact issue_off hg
theorem off_cinc (st : State) (g : Fin 8) (d a b : Fin 64) (hg : st.me.guard g = false) : exec (.cinc g d a b) st = .next (st.passed 4 st.me) := by
  rw [exec_cinc]; delta execCinc capBinary; exact issue_off hg
theorem off_caddr (st : State) (g : Fin 8) (d a b : Fin 64) (hg : st.me.guard g = false) : exec (.caddr g d a b) st = .next (st.passed 4 st.me) := by
  rw [exec_caddr]; delta execCaddr capBinary; exact issue_off hg
theorem off_cperm (st : State) (g : Fin 8) (d a b : Fin 64) (hg : st.me.guard g = false) : exec (.cperm g d a b) st = .next (st.passed 4 st.me) := by
  rw [exec_cperm]; delta execCperm capBinary; exact issue_off hg
theorem off_ctagc (st : State) (g : Fin 8) (d a : Fin 64) (hg : st.me.guard g = false) : exec (.ctagc g d a) st = .next (st.passed 4 st.me) := by
  rw [exec_ctagc]; delta execCtagc capUnary; exact issue_off hg
theorem off_cgetBase (st : State) (g : Fin 8) (d a : Fin 64) (hg : st.me.guard g = false) : exec (.cgetBase g d a) st = .next (st.passed 4 st.me) := by
  rw [exec_cgetBase]; delta execCgetBase capUnary; exact issue_off hg
theorem off_cgetTop (st : State) (g : Fin 8) (d a : Fin 64) (hg : st.me.guard g = false) : exec (.cgetTop g d a) st = .next (st.passed 4 st.me) := by
  rw [exec_cgetTop]; delta execCgetTop capUnary; exact issue_off hg
theorem off_cgetLen (st : State) (g : Fin 8) (d a : Fin 64) (hg : st.me.guard g = false) : exec (.cgetLen g d a) st = .next (st.passed 4 st.me) := by
  rw [exec_cgetLen]; delta execCgetLen capUnary; exact issue_off hg
theorem off_cgetPerm (st : State) (g : Fin 8) (d a : Fin 64) (hg : st.me.guard g = false) : exec (.cgetPerm g d a) st = .next (st.passed 4 st.me) := by
  rw [exec_cgetPerm]; delta execCgetPerm capUnary; exact issue_off hg
theorem off_cgetTag (st : State) (g : Fin 8) (d a : Fin 64) (hg : st.me.guard g = false) : exec (.cgetTag g d a) st = .next (st.passed 4 st.me) := by
  rw [exec_cgetTag]; delta execCgetTag capUnary; exact issue_off hg
theorem off_cincImm (st : State) (g : Fin 8) (d a : Fin 64) (i : BitVec 10) (hg : st.me.guard g = false) : exec (.cincImm g d a i) st = .next (st.passed 4 st.me) := by
  rw [exec_cincImm]; delta execCincImm capUnary; exact issue_off hg
theorem off_cincImmLiteral (st : State) (g : Fin 8) (d a : Fin 64) (lit : Word) (hg : st.me.guard g = false) : exec (.cincImmLiteral g d a lit) st = .next (st.passed 8 st.me) := by
  rw [exec_cincImmLiteral]; delta execCincImmLiteral capUnary; exact issue_off hg
theorem off_cbndImm (st : State) (g : Fin 8) (d a : Fin 64) (i : BitVec 10) (hg : st.me.guard g = false) : exec (.cbndImm g d a i) st = .next (st.passed 4 st.me) := by
  rw [exec_cbndImm]; delta execCbndImm; exact issue_off hg
theorem off_cbndImmLiteral (st : State) (g : Fin 8) (d a : Fin 64) (lit : Word) (hg : st.me.guard g = false) : exec (.cbndImmLiteral g d a lit) st = .next (st.passed 8 st.me) := by
  rw [exec_cbndImmLiteral]; delta execCbndImmLiteral; exact issue_off hg
theorem off_j (st : State) (g : Fin 8) (o : Fin 4194304) (hg : st.me.guard g = false) : exec (.j g o) st = .next (st.passed 4 st.me) := by
  rw [exec_j]; delta execJ; exact issueN_off hg
theorem off_call (st : State) (g : Fin 8) (o : Fin 4194304) (hg : st.me.guard g = false) : exec (.call g o) st = .next (st.passed 4 st.me) := by
  rw [exec_call]; delta execCall; exact issueN_off hg
theorem off_jr (st : State) (g : Fin 8) (a : Fin 64) (hg : st.me.guard g = false) : exec (.jr g a) st = .next (st.passed 4 st.me) := by
  rw [exec_jr]; delta execJr; exact issueN_off hg
theorem off_ret (st : State) (g : Fin 8) (hg : st.me.guard g = false) : exec (.ret g) st = .next (st.passed 4 st.me) := by
  rw [exec_ret]; delta execRet; exact issueN_off hg
theorem off_bgF (st : State) (g h : Fin 8) (o : Fin 262144) (hg : st.me.guard g = false) : exec (.bgF g h o) st = .next (st.passed 4 st.me) := by
  rw [exec_bgF]; delta execBgF branch; exact issueN_off hg
theorem off_bgT (st : State) (g h : Fin 8) (o : Fin 262144) (hg : st.me.guard g = false) : exec (.bgT g h o) st = .next (st.passed 4 st.me) := by
  rw [exec_bgT]; delta execBgT branch; exact issueN_off hg
theorem off_rep (st : State) (g : Fin 8) (l : Fin 64) (i : BitVec 10) (hg : st.me.guard g = false) : exec (.rep g l i) st = .next (st.passed 4 st.me) := by
  rw [exec_rep]; delta execRep repeatBody; exact issueN_off hg
theorem off_repLiteral (st : State) (g : Fin 8) (l : Fin 64) (lit : Word) (hg : st.me.guard g = false) : exec (.repLiteral g l lit) st = .next (st.passed 8 st.me) := by
  rw [exec_repLiteral]; delta execRepLiteral repeatBody; exact issueN_off hg
theorem off_repReg (st : State) (g : Fin 8) (l a : Fin 64) (hg : st.me.guard g = false) : exec (.repReg g l a) st = .next (st.passed 4 st.me) := by
  rw [exec_repReg]; delta execRepReg repeatBody; exact issueN_off hg
theorem off_nop (st : State) (g : Fin 8) (hg : st.me.guard g = false) : exec (.nop g) st = .next (st.passed 4 st.me) := by
  rw [exec_nop]; delta execNop; exact issue_off hg
theorem off_trap (st : State) (g : Fin 8) (i : Fin 512) (hg : st.me.guard g = false) : exec (.trap g i) st = .next (st.passed 4 st.me) := by
  rw [exec_trap]; delta execTrap; exact issue_off hg
theorem off_suspend (st : State) (g : Fin 8) (a b : Fin 64) (hg : st.me.guard g = false) : exec (.suspend g a b) st = .next (st.passed 4 st.me) := by
  rw [exec_suspend]; delta execSuspend; exact issueN_off hg
theorem off_hend (st : State) (g : Fin 8) (hg : st.me.guard g = false) : exec (.hend g) st = .next (st.passed 4 st.me) := by
  rw [exec_hend]; delta execHend; exact issueN_off hg
theorem off_ldB (st : State) (g : Fin 8) (d b : Fin 64) (l : Fin 16) (o : Fin 64) (hg : st.me.guard g = false) : exec (.ldB g d b l o) st = .next (st.passed 4 st.me) := by
  rw [exec_ldB]; delta execLdB scalarLoad; exact issue_off hg
theorem off_ldBLiteral (st : State) (g : Fin 8) (d b : Fin 64) (l : Fin 16) (lit : Word) (hg : st.me.guard g = false) : exec (.ldBLiteral g d b l lit) st = .next (st.passed 8 st.me) := by
  rw [exec_ldBLiteral]; delta execLdBLiteral scalarLoad; exact issue_off hg
theorem off_ldH (st : State) (g : Fin 8) (d b : Fin 64) (l : Fin 16) (o : Fin 64) (hg : st.me.guard g = false) : exec (.ldH g d b l o) st = .next (st.passed 4 st.me) := by
  rw [exec_ldH]; delta execLdH scalarLoad; exact issue_off hg
theorem off_ldHLiteral (st : State) (g : Fin 8) (d b : Fin 64) (l : Fin 16) (lit : Word) (hg : st.me.guard g = false) : exec (.ldHLiteral g d b l lit) st = .next (st.passed 8 st.me) := by
  rw [exec_ldHLiteral]; delta execLdHLiteral scalarLoad; exact issue_off hg
theorem off_ldW (st : State) (g : Fin 8) (d b : Fin 64) (l : Fin 16) (o : Fin 64) (hg : st.me.guard g = false) : exec (.ldW g d b l o) st = .next (st.passed 4 st.me) := by
  rw [exec_ldW]; delta execLdW scalarLoad; exact issue_off hg
theorem off_ldWLiteral (st : State) (g : Fin 8) (d b : Fin 64) (l : Fin 16) (lit : Word) (hg : st.me.guard g = false) : exec (.ldWLiteral g d b l lit) st = .next (st.passed 8 st.me) := by
  rw [exec_ldWLiteral]; delta execLdWLiteral scalarLoad; exact issue_off hg
theorem off_ldD (st : State) (g : Fin 8) (d b : Fin 64) (l : Fin 16) (o : Fin 64) (hg : st.me.guard g = false) : exec (.ldD g d b l o) st = .next (st.passed 4 st.me) := by
  rw [exec_ldD]; delta execLdD scalarLoad; exact issue_off hg
theorem off_ldDLiteral (st : State) (g : Fin 8) (d b : Fin 64) (l : Fin 16) (lit : Word) (hg : st.me.guard g = false) : exec (.ldDLiteral g d b l lit) st = .next (st.passed 8 st.me) := by
  rw [exec_ldDLiteral]; delta execLdDLiteral scalarLoad; exact issue_off hg
theorem off_ldQ (st : State) (g : Fin 8) (d b : Fin 64) (l : Fin 16) (o : Fin 64) (hg : st.me.guard g = false) : exec (.ldQ g d b l o) st = .next (st.passed 4 st.me) := by
  rw [exec_ldQ]; delta execLdQ scalarLoad; exact issue_off hg
theorem off_ldQLiteral (st : State) (g : Fin 8) (d b : Fin 64) (l : Fin 16) (lit : Word) (hg : st.me.guard g = false) : exec (.ldQLiteral g d b l lit) st = .next (st.passed 8 st.me) := by
  rw [exec_ldQLiteral]; delta execLdQLiteral scalarLoad; exact issue_off hg
theorem off_stB (st : State) (g : Fin 8) (sr b o : Fin 64) (hg : st.me.guard g = false) : exec (.stB g sr b o) st = .next (st.passed 4 st.me) := by
  rw [exec_stB]; delta execStB scalarStore; exact issue_off hg
theorem off_stBLiteral (st : State) (g : Fin 8) (sr b : Fin 64) (lit : Word) (hg : st.me.guard g = false) : exec (.stBLiteral g sr b lit) st = .next (st.passed 8 st.me) := by
  rw [exec_stBLiteral]; delta execStBLiteral scalarStore; exact issue_off hg
theorem off_stH (st : State) (g : Fin 8) (sr b o : Fin 64) (hg : st.me.guard g = false) : exec (.stH g sr b o) st = .next (st.passed 4 st.me) := by
  rw [exec_stH]; delta execStH scalarStore; exact issue_off hg
theorem off_stHLiteral (st : State) (g : Fin 8) (sr b : Fin 64) (lit : Word) (hg : st.me.guard g = false) : exec (.stHLiteral g sr b lit) st = .next (st.passed 8 st.me) := by
  rw [exec_stHLiteral]; delta execStHLiteral scalarStore; exact issue_off hg
theorem off_stW (st : State) (g : Fin 8) (sr b o : Fin 64) (hg : st.me.guard g = false) : exec (.stW g sr b o) st = .next (st.passed 4 st.me) := by
  rw [exec_stW]; delta execStW scalarStore; exact issue_off hg
theorem off_stWLiteral (st : State) (g : Fin 8) (sr b : Fin 64) (lit : Word) (hg : st.me.guard g = false) : exec (.stWLiteral g sr b lit) st = .next (st.passed 8 st.me) := by
  rw [exec_stWLiteral]; delta execStWLiteral scalarStore; exact issue_off hg
theorem off_stD (st : State) (g : Fin 8) (sr b o : Fin 64) (hg : st.me.guard g = false) : exec (.stD g sr b o) st = .next (st.passed 4 st.me) := by
  rw [exec_stD]; delta execStD scalarStore; exact issue_off hg
theorem off_stDLiteral (st : State) (g : Fin 8) (sr b : Fin 64) (lit : Word) (hg : st.me.guard g = false) : exec (.stDLiteral g sr b lit) st = .next (st.passed 8 st.me) := by
  rw [exec_stDLiteral]; delta execStDLiteral scalarStore; exact issue_off hg
theorem off_stQ (st : State) (g : Fin 8) (sr b o : Fin 64) (hg : st.me.guard g = false) : exec (.stQ g sr b o) st = .next (st.passed 4 st.me) := by
  rw [exec_stQ]; delta execStQ scalarStore; exact issue_off hg
theorem off_stQLiteral (st : State) (g : Fin 8) (sr b : Fin 64) (lit : Word) (hg : st.me.guard g = false) : exec (.stQLiteral g sr b lit) st = .next (st.passed 8 st.me) := by
  rw [exec_stQLiteral]; delta execStQLiteral scalarStore; exact issue_off hg
theorem off_ldc (st : State) (g : Fin 8) (d b : Fin 64) (l : Fin 16) (o : Fin 64) (hg : st.me.guard g = false) : exec (.ldc g d b l o) st = .next (st.passed 4 st.me) := by
  rw [exec_ldc]; delta execLdc scalarLoad; exact issue_off hg
theorem off_ldcLiteral (st : State) (g : Fin 8) (d b : Fin 64) (l : Fin 16) (lit : Word) (hg : st.me.guard g = false) : exec (.ldcLiteral g d b l lit) st = .next (st.passed 8 st.me) := by
  rw [exec_ldcLiteral]; delta execLdcLiteral scalarLoad; exact issue_off hg
theorem off_stc (st : State) (g : Fin 8) (sr b o : Fin 64) (hg : st.me.guard g = false) : exec (.stc g sr b o) st = .next (st.passed 4 st.me) := by
  rw [exec_stc]; delta execStc capStore; exact issue_off hg
theorem off_stcLiteral (st : State) (g : Fin 8) (sr b : Fin 64) (lit : Word) (hg : st.me.guard g = false) : exec (.stcLiteral g sr b lit) st = .next (st.passed 8 st.me) := by
  rw [exec_stcLiteral]; delta execStcLiteral capStore; exact issue_off hg
theorem off_ldq (st : State) (g : Fin 8) (n : Fin 32) (b o : Fin 64) (hg : st.me.guard g = false) : exec (.ldq g n b o) st = .next (st.passed 4 st.me) := by
  rw [exec_ldq]; delta execLdq queueLoad; exact issue_off hg
theorem off_ldqLiteral (st : State) (g : Fin 8) (n : Fin 32) (b : Fin 64) (lit : Word) (hg : st.me.guard g = false) : exec (.ldqLiteral g n b lit) st = .next (st.passed 8 st.me) := by
  rw [exec_ldqLiteral]; delta execLdqLiteral queueLoad; exact issue_off hg
theorem off_stq (st : State) (g : Fin 8) (n : Fin 32) (b o : Fin 64) (hg : st.me.guard g = false) : exec (.stq g n b o) st = .next (st.passed 4 st.me) := by
  rw [exec_stq]; delta execStq queueStore; exact issue_off hg
theorem off_stqLiteral (st : State) (g : Fin 8) (n : Fin 32) (b : Fin 64) (lit : Word) (hg : st.me.guard g = false) : exec (.stqLiteral g n b lit) st = .next (st.passed 8 st.me) := by
  rw [exec_stqLiteral]; delta execStqLiteral queueStore; exact issue_off hg
theorem off_ldm (st : State) (g : Fin 8) (d a n : Fin 64) (hg : st.me.guard g = false) : exec (.ldm g d a n) st = .next (st.passed 4 st.me) := by
  rw [exec_ldm]; delta execLdm; exact issue_off hg
theorem off_stm (st : State) (g : Fin 8) (d a n : Fin 64) (hg : st.me.guard g = false) : exec (.stm g d a n) st = .next (st.passed 4 st.me) := by
  rw [exec_stm]; delta execStm; exact issue_off hg
theorem off_vld (st : State) (g : Fin 8) (d : Fin 32) (b : Fin 64) (l : Fin 16) (o : Fin 64) (hg : st.me.guard g = false) : exec (.vld g d b l o) st = .next (st.passed 4 st.me) := by
  rw [exec_vld]; delta execVld vectorLoad; exact issue_off hg
theorem off_vldLiteral (st : State) (g : Fin 8) (d : Fin 32) (b : Fin 64) (l : Fin 16) (lit : Word) (hg : st.me.guard g = false) : exec (.vldLiteral g d b l lit) st = .next (st.passed 8 st.me) := by
  rw [exec_vldLiteral]; delta execVldLiteral vectorLoad; exact issue_off hg
theorem off_vst (st : State) (g : Fin 8) (sr : Fin 32) (b : Fin 64) (m : Fin 8) (o : Fin 64) (hg : st.me.guard g = false) : exec (.vst g sr b m o) st = .next (st.passed 4 st.me) := by
  rw [exec_vst]; delta execVst vectorStore; exact issue_off hg
theorem off_vstLiteral (st : State) (g : Fin 8) (sr : Fin 32) (b : Fin 64) (m : Fin 8) (lit : Word) (hg : st.me.guard g = false) : exec (.vstLiteral g sr b m lit) st = .next (st.passed 8 st.me) := by
  rw [exec_vstLiteral]; delta execVstLiteral vectorStore; exact issue_off hg
theorem off_vlds (st : State) (g : Fin 8) (d : Fin 32) (a b : Fin 64) (m : Fin 4) (hg : st.me.guard g = false) : exec (.vlds g d a b m) st = .next (st.passed 4 st.me) := by
  rw [exec_vlds]; delta execVlds; exact issue_off hg
theorem off_vldx (st : State) (g : Fin 8) (d : Fin 32) (a : Fin 64) (b : Fin 32) (m : Fin 4) (hg : st.me.guard g = false) : exec (.vldx g d a b m) st = .next (st.passed 4 st.me) := by
  rw [exec_vldx]; delta execVldx; exact issue_off hg
theorem off_vsts (st : State) (g : Fin 8) (d : Fin 32) (a b : Fin 64) (m : Fin 4) (hg : st.me.guard g = false) : exec (.vsts g d a b m) st = .next (st.passed 4 st.me) := by
  rw [exec_vsts]; delta execVsts; exact issue_off hg
theorem off_vstx (st : State) (g : Fin 8) (d : Fin 32) (a : Fin 64) (b : Fin 32) (m : Fin 4) (hg : st.me.guard g = false) : exec (.vstx g d a b m) st = .next (st.passed 4 st.me) := by
  rw [exec_vstx]; delta execVstx; exact issue_off hg
theorem off_amoAdd (st : State) (g : Fin 8) (d a b : Fin 64) (hg : st.me.guard g = false) : exec (.amoAdd g d a b) st = .next (st.passed 4 st.me) := by
  rw [exec_amoAdd]; delta execAmoAdd atomic; exact issue_off hg
theorem off_amoAnd (st : State) (g : Fin 8) (d a b : Fin 64) (hg : st.me.guard g = false) : exec (.amoAnd g d a b) st = .next (st.passed 4 st.me) := by
  rw [exec_amoAnd]; delta execAmoAnd atomic; exact issue_off hg
theorem off_amoOr (st : State) (g : Fin 8) (d a b : Fin 64) (hg : st.me.guard g = false) : exec (.amoOr g d a b) st = .next (st.passed 4 st.me) := by
  rw [exec_amoOr]; delta execAmoOr atomic; exact issue_off hg
theorem off_amoXor (st : State) (g : Fin 8) (d a b : Fin 64) (hg : st.me.guard g = false) : exec (.amoXor g d a b) st = .next (st.passed 4 st.me) := by
  rw [exec_amoXor]; delta execAmoXor atomic; exact issue_off hg
theorem off_amoMin (st : State) (g : Fin 8) (d a b : Fin 64) (hg : st.me.guard g = false) : exec (.amoMin g d a b) st = .next (st.passed 4 st.me) := by
  rw [exec_amoMin]; delta execAmoMin atomic; exact issue_off hg
theorem off_amoMax (st : State) (g : Fin 8) (d a b : Fin 64) (hg : st.me.guard g = false) : exec (.amoMax g d a b) st = .next (st.passed 4 st.me) := by
  rw [exec_amoMax]; delta execAmoMax atomic; exact issue_off hg
theorem off_amoMinu (st : State) (g : Fin 8) (d a b : Fin 64) (hg : st.me.guard g = false) : exec (.amoMinu g d a b) st = .next (st.passed 4 st.me) := by
  rw [exec_amoMinu]; delta execAmoMinu atomic; exact issue_off hg
theorem off_amoMaxu (st : State) (g : Fin 8) (d a b : Fin 64) (hg : st.me.guard g = false) : exec (.amoMaxu g d a b) st = .next (st.passed 4 st.me) := by
  rw [exec_amoMaxu]; delta execAmoMaxu atomic; exact issue_off hg
theorem off_amoSwap (st : State) (g : Fin 8) (d a b : Fin 64) (hg : st.me.guard g = false) : exec (.amoSwap g d a b) st = .next (st.passed 4 st.me) := by
  rw [exec_amoSwap]; delta execAmoSwap atomic; exact issue_off hg
theorem off_amoCas (st : State) (g : Fin 8) (d a b : Fin 64) (hg : st.me.guard g = false) : exec (.amoCas g d a b) st = .next (st.passed 4 st.me) := by
  rw [exec_amoCas]; delta execAmoCas atomic; exact issue_off hg
theorem off_amoFadd (st : State) (g : Fin 8) (d a b : Fin 64) (hg : st.me.guard g = false) : exec (.amoFadd g d a b) st = .next (st.passed 4 st.me) := by
  rw [exec_amoFadd]; delta execAmoFadd atomic; exact issue_off hg
theorem off_fenceAcq (st : State) (g : Fin 8) (sr : Fin 16) (hg : st.me.guard g = false) : exec (.fenceAcq g sr) st = .next (st.passed 4 st.me) := by
  rw [exec_fenceAcq]; delta execFenceAcq; exact issue_off hg
theorem off_fenceRel (st : State) (g : Fin 8) (sr : Fin 16) (hg : st.me.guard g = false) : exec (.fenceRel g sr) st = .next (st.passed 4 st.me) := by
  rw [exec_fenceRel]; delta execFenceRel; exact issue_off hg
theorem off_fenceAr (st : State) (g : Fin 8) (sr : Fin 16) (hg : st.me.guard g = false) : exec (.fenceAr g sr) st = .next (st.passed 4 st.me) := by
  rw [exec_fenceAr]; delta execFenceAr; exact issue_off hg
theorem off_afence (st : State) (g : Fin 8) (a b : Fin 64) (hg : st.me.guard g = false) : exec (.afence g a b) st = .next (st.passed 4 st.me) := by
  rw [exec_afence]; delta execAfence; exact issue_off hg
theorem off_pfx (st : State) (g : Fin 8) (a : Fin 64) (hg : st.me.guard g = false) : exec (.pfx g a) st = .next (st.passed 4 st.me) := by
  rw [exec_pfx]; delta execPfx; exact issue_off hg
theorem off_touch (st : State) (g : Fin 8) (a : Fin 64) (hg : st.me.guard g = false) : exec (.touch g a) st = .next (st.passed 4 st.me) := by
  rw [exec_touch]; delta execTouch touchPage; exact issue_off hg
theorem off_touchW (st : State) (g : Fin 8) (a : Fin 64) (hg : st.me.guard g = false) : exec (.touchW g a) st = .next (st.passed 4 st.me) := by
  rw [exec_touchW]; delta execTouchW touchPage; exact issue_off hg
theorem off_bar (st : State) (g n : Fin 8) (hg : st.me.guard g = false) : exec (.bar g n) st = .next (st.passed 4 st.me) := by
  rw [exec_bar]; delta execBar; exact issue_off hg
theorem off_get (st : State) (g k : Fin 8) (a b : Fin 64) (hg : st.me.guard g = false) : exec (.get g k a b) st = .next (st.passed 4 st.me) := by
  rw [exec_get]; delta execGet moveData; exact issue_off hg
theorem off_give (st : State) (g k : Fin 8) (a b : Fin 64) (hg : st.me.guard g = false) : exec (.give g k a b) st = .next (st.passed 4 st.me) := by
  rw [exec_give]; delta execGive moveData; exact issue_off hg
theorem off_vaddInt (st : State) (g : Fin 8) (w : Fin 4) (d a b : Fin 32) (m : Fin 8) (hg : st.me.guard g = false) : exec (.vaddInt g w d a b m) st = .next (st.passed 4 st.me) := by
  rw [exec_vaddInt]; delta execVaddInt vectorInt vector2; exact issue_off hg
theorem off_vsubInt (st : State) (g : Fin 8) (w : Fin 4) (d a b : Fin 32) (m : Fin 8) (hg : st.me.guard g = false) : exec (.vsubInt g w d a b m) st = .next (st.passed 4 st.me) := by
  rw [exec_vsubInt]; delta execVsubInt vectorInt vector2; exact issue_off hg
theorem off_vmulInt (st : State) (g : Fin 8) (w : Fin 4) (d a b : Fin 32) (m : Fin 8) (hg : st.me.guard g = false) : exec (.vmulInt g w d a b m) st = .next (st.passed 4 st.me) := by
  rw [exec_vmulInt]; delta execVmulInt vectorInt vector2; exact issue_off hg
theorem off_vminInt (st : State) (g : Fin 8) (w : Fin 4) (d a b : Fin 32) (m : Fin 8) (hg : st.me.guard g = false) : exec (.vminInt g w d a b m) st = .next (st.passed 4 st.me) := by
  rw [exec_vminInt]; delta execVminInt vectorInt vector2; exact issue_off hg
theorem off_vmaxInt (st : State) (g : Fin 8) (w : Fin 4) (d a b : Fin 32) (m : Fin 8) (hg : st.me.guard g = false) : exec (.vmaxInt g w d a b m) st = .next (st.passed 4 st.me) := by
  rw [exec_vmaxInt]; delta execVmaxInt vectorInt vector2; exact issue_off hg
theorem off_vand (st : State) (g : Fin 8) (w : Fin 4) (d a b : Fin 32) (m : Fin 8) (hg : st.me.guard g = false) : exec (.vand g w d a b m) st = .next (st.passed 4 st.me) := by
  rw [exec_vand]; delta execVand vectorInt vector2; exact issue_off hg
theorem off_vor (st : State) (g : Fin 8) (w : Fin 4) (d a b : Fin 32) (m : Fin 8) (hg : st.me.guard g = false) : exec (.vor g w d a b m) st = .next (st.passed 4 st.me) := by
  rw [exec_vor]; delta execVor vectorInt vector2; exact issue_off hg
theorem off_vxor (st : State) (g : Fin 8) (w : Fin 4) (d a b : Fin 32) (m : Fin 8) (hg : st.me.guard g = false) : exec (.vxor g w d a b m) st = .next (st.passed 4 st.me) := by
  rw [exec_vxor]; delta execVxor vectorInt vector2; exact issue_off hg
theorem off_vshl (st : State) (g : Fin 8) (w : Fin 4) (d a b : Fin 32) (m : Fin 8) (hg : st.me.guard g = false) : exec (.vshl g w d a b m) st = .next (st.passed 4 st.me) := by
  rw [exec_vshl]; delta execVshl vectorInt vector2; exact issue_off hg
theorem off_vshr (st : State) (g : Fin 8) (w : Fin 4) (d a b : Fin 32) (m : Fin 8) (hg : st.me.guard g = false) : exec (.vshr g w d a b m) st = .next (st.passed 4 st.me) := by
  rw [exec_vshr]; delta execVshr vectorInt vector2; exact issue_off hg
theorem off_vshrA (st : State) (g : Fin 8) (w : Fin 4) (d a b : Fin 32) (m : Fin 8) (hg : st.me.guard g = false) : exec (.vshrA g w d a b m) st = .next (st.passed 4 st.me) := by
  rw [exec_vshrA]; delta execVshrA vectorInt vector2; exact issue_off hg
theorem off_vaddF32 (st : State) (g : Fin 8) (d a b : Fin 32) (m : Fin 8) (hg : st.me.guard g = false) : exec (.vaddF32 g d a b m) st = .next (st.passed 4 st.me) := by
  rw [exec_vaddF32]; delta execVaddF32 vectorFloat vector2; exact issue_off hg
theorem off_vsubF32 (st : State) (g : Fin 8) (d a b : Fin 32) (m : Fin 8) (hg : st.me.guard g = false) : exec (.vsubF32 g d a b m) st = .next (st.passed 4 st.me) := by
  rw [exec_vsubF32]; delta execVsubF32 vectorFloat vector2; exact issue_off hg
theorem off_vmulF32 (st : State) (g : Fin 8) (d a b : Fin 32) (m : Fin 8) (hg : st.me.guard g = false) : exec (.vmulF32 g d a b m) st = .next (st.passed 4 st.me) := by
  rw [exec_vmulF32]; delta execVmulF32 vectorFloat vector2; exact issue_off hg
theorem off_vminF32 (st : State) (g : Fin 8) (d a b : Fin 32) (m : Fin 8) (hg : st.me.guard g = false) : exec (.vminF32 g d a b m) st = .next (st.passed 4 st.me) := by
  rw [exec_vminF32]; delta execVminF32 vectorFloat vector2; exact issue_off hg
theorem off_vmaxF32 (st : State) (g : Fin 8) (d a b : Fin 32) (m : Fin 8) (hg : st.me.guard g = false) : exec (.vmaxF32 g d a b m) st = .next (st.passed 4 st.me) := by
  rw [exec_vmaxF32]; delta execVmaxF32 vectorFloat vector2; exact issue_off hg
theorem off_vfmaF32 (st : State) (g : Fin 8) (d a b : Fin 32) (m : Fin 8) (hg : st.me.guard g = false) : exec (.vfmaF32 g d a b m) st = .next (st.passed 4 st.me) := by
  rw [exec_vfmaF32]; delta execVfmaF32 vectorFma; exact issue_off hg
theorem off_vaddF16 (st : State) (g : Fin 8) (d a b : Fin 32) (m : Fin 8) (hg : st.me.guard g = false) : exec (.vaddF16 g d a b m) st = .next (st.passed 4 st.me) := by
  rw [exec_vaddF16]; delta execVaddF16 vectorFloat vector2; exact issue_off hg
theorem off_vsubF16 (st : State) (g : Fin 8) (d a b : Fin 32) (m : Fin 8) (hg : st.me.guard g = false) : exec (.vsubF16 g d a b m) st = .next (st.passed 4 st.me) := by
  rw [exec_vsubF16]; delta execVsubF16 vectorFloat vector2; exact issue_off hg
theorem off_vmulF16 (st : State) (g : Fin 8) (d a b : Fin 32) (m : Fin 8) (hg : st.me.guard g = false) : exec (.vmulF16 g d a b m) st = .next (st.passed 4 st.me) := by
  rw [exec_vmulF16]; delta execVmulF16 vectorFloat vector2; exact issue_off hg
theorem off_vminF16 (st : State) (g : Fin 8) (d a b : Fin 32) (m : Fin 8) (hg : st.me.guard g = false) : exec (.vminF16 g d a b m) st = .next (st.passed 4 st.me) := by
  rw [exec_vminF16]; delta execVminF16 vectorFloat vector2; exact issue_off hg
theorem off_vmaxF16 (st : State) (g : Fin 8) (d a b : Fin 32) (m : Fin 8) (hg : st.me.guard g = false) : exec (.vmaxF16 g d a b m) st = .next (st.passed 4 st.me) := by
  rw [exec_vmaxF16]; delta execVmaxF16 vectorFloat vector2; exact issue_off hg
theorem off_vfmaF16 (st : State) (g : Fin 8) (d a b : Fin 32) (m : Fin 8) (hg : st.me.guard g = false) : exec (.vfmaF16 g d a b m) st = .next (st.passed 4 st.me) := by
  rw [exec_vfmaF16]; delta execVfmaF16 vectorFma; exact issue_off hg
theorem off_vaddBf16 (st : State) (g : Fin 8) (d a b : Fin 32) (m : Fin 8) (hg : st.me.guard g = false) : exec (.vaddBf16 g d a b m) st = .next (st.passed 4 st.me) := by
  rw [exec_vaddBf16]; delta execVaddBf16 vectorFloat vector2; exact issue_off hg
theorem off_vsubBf16 (st : State) (g : Fin 8) (d a b : Fin 32) (m : Fin 8) (hg : st.me.guard g = false) : exec (.vsubBf16 g d a b m) st = .next (st.passed 4 st.me) := by
  rw [exec_vsubBf16]; delta execVsubBf16 vectorFloat vector2; exact issue_off hg
theorem off_vmulBf16 (st : State) (g : Fin 8) (d a b : Fin 32) (m : Fin 8) (hg : st.me.guard g = false) : exec (.vmulBf16 g d a b m) st = .next (st.passed 4 st.me) := by
  rw [exec_vmulBf16]; delta execVmulBf16 vectorFloat vector2; exact issue_off hg
theorem off_vminBf16 (st : State) (g : Fin 8) (d a b : Fin 32) (m : Fin 8) (hg : st.me.guard g = false) : exec (.vminBf16 g d a b m) st = .next (st.passed 4 st.me) := by
  rw [exec_vminBf16]; delta execVminBf16 vectorFloat vector2; exact issue_off hg
theorem off_vmaxBf16 (st : State) (g : Fin 8) (d a b : Fin 32) (m : Fin 8) (hg : st.me.guard g = false) : exec (.vmaxBf16 g d a b m) st = .next (st.passed 4 st.me) := by
  rw [exec_vmaxBf16]; delta execVmaxBf16 vectorFloat vector2; exact issue_off hg
theorem off_vfmaBf16 (st : State) (g : Fin 8) (d a b : Fin 32) (m : Fin 8) (hg : st.me.guard g = false) : exec (.vfmaBf16 g d a b m) st = .next (st.passed 4 st.me) := by
  rw [exec_vfmaBf16]; delta execVfmaBf16 vectorFma; exact issue_off hg
theorem off_vcmp (st : State) (g d : Fin 8) (a b : Fin 32) (m : Fin 8) (t : Fin 2) (c : Fin 8) (hg : st.me.guard g = false) : exec (.vcmp g d a b m t c) st = .next (st.passed 4 st.me) := by
  rw [exec_vcmp]; delta execVcmp; exact issue_off hg
theorem off_vsel (st : State) (g : Fin 8) (d a b : Fin 32) (m : Fin 8) (hg : st.me.guard g = false) : exec (.vsel g d a b m) st = .next (st.passed 4 st.me) := by
  rw [exec_vsel]; delta execVsel; exact issue_off hg
theorem off_vperm (st : State) (g : Fin 8) (d a b : Fin 32) (m : Fin 8) (hg : st.me.guard g = false) : exec (.vperm g d a b m) st = .next (st.passed 4 st.me) := by
  rw [exec_vperm]; delta execVperm; exact issue_off hg
theorem off_vmerge (st : State) (g : Fin 8) (d a b : Fin 32) (o : Fin 8) (hg : st.me.guard g = false) : exec (.vmerge g d a b o) st = .next (st.passed 4 st.me) := by
  rw [exec_vmerge]; delta execVmerge; exact issue_off hg
theorem off_vcomp (st : State) (g : Fin 8) (d a : Fin 32) (m : Fin 8) (hg : st.me.guard g = false) : exec (.vcomp g d a m) st = .next (st.passed 4 st.me) := by
  rw [exec_vcomp]; delta execVcomp; exact issue_off hg
theorem off_vexpd (st : State) (g : Fin 8) (d a : Fin 32) (m : Fin 8) (hg : st.me.guard g = false) : exec (.vexpd g d a m) st = .next (st.passed 4 st.me) := by
  rw [exec_vexpd]; delta execVexpd; exact issue_off hg
theorem off_vbcast (st : State) (g : Fin 8) (d : Fin 32) (c : Fin 64) (m : Fin 8) (hg : st.me.guard g = false) : exec (.vbcast g d c m) st = .next (st.passed 4 st.me) := by
  rw [exec_vbcast]; delta execVbcast; exact issue_off hg
theorem off_vrnd (st : State) (g : Fin 8) (d : Fin 32) (c : Fin 64) (m : Fin 8) (hg : st.me.guard g = false) : exec (.vrnd g d c m) st = .next (st.passed 4 st.me) := by
  rw [exec_vrnd]; delta execVrnd draw; exact issue_off hg
theorem off_vrndf (st : State) (g : Fin 8) (d : Fin 32) (c : Fin 64) (m : Fin 8) (hg : st.me.guard g = false) : exec (.vrndf g d c m) st = .next (st.passed 4 st.me) := by
  rw [exec_vrndf]; delta execVrndf draw; exact issue_off hg
theorem off_nrns (st : State) (g : Fin 8) (d a : Fin 32) (c : Fin 64) (m : Fin 8) (hg : st.me.guard g = false) : exec (.nrns g d a c m) st = .next (st.passed 4 st.me) := by
  rw [exec_nrns]; delta execNrns; exact issue_off hg
theorem off_spkout (st : State) (g : Fin 8) (a : Fin 32) (c : Fin 64) (m : Fin 8) (hg : st.me.guard g = false) : exec (.spkout g a c m) st = .next (st.passed 4 st.me) := by
  rw [exec_spkout]; delta execSpkout; exact issue_off hg
theorem off_vbsum (st : State) (g : Fin 8) (t a : Fin 32) (c : Fin 64) (m : Fin 8) (hg : st.me.guard g = false) : exec (.vbsum g t a c m) st = .next (st.passed 4 st.me) := by
  rw [exec_vbsum]; delta execVbsum; exact issue_off hg
theorem off_bsadd (st : State) (g : Fin 8) (a : Fin 32) (c : Fin 64) (hg : st.me.guard g = false) : exec (.bsadd g a c) st = .next (st.passed 4 st.me) := by
  rw [exec_bsadd]; delta execBsadd; exact issue_off hg
theorem off_movVc (st : State) (g : Fin 8) (d : Fin 32) (c : Fin 64) (q : Fin 8) (hg : st.me.guard g = false) : exec (.movVc g d c q) st = .next (st.passed 4 st.me) := by
  rw [exec_movVc]; delta execMovVc; exact issue_off hg
theorem off_movCv (st : State) (g : Fin 8) (a : Fin 32) (c : Fin 64) (q : Fin 8) (hg : st.me.guard g = false) : exec (.movCv g a c q) st = .next (st.passed 4 st.me) := by
  rw [exec_movCv]; delta execMovCv; exact issue_off hg
theorem off_movMc (st : State) (g d : Fin 8) (c : Fin 64) (hg : st.me.guard g = false) : exec (.movMc g d c) st = .next (st.passed 4 st.me) := by
  rw [exec_movMc]; delta execMovMc; exact issue_off hg
theorem off_movCm (st : State) (g a : Fin 8) (c : Fin 64) (hg : st.me.guard g = false) : exec (.movCm g a c) st = .next (st.passed 4 st.me) := by
  rw [exec_movCm]; delta execMovCm; exact issue_off hg
theorem off_vred (st : State) (g : Fin 8) (d a : Fin 32) (m : Fin 8) (l : Fin 16) (f : Fin 32) (hg : st.me.guard g = false) : exec (.vred g d a m l f) st = .next (st.passed 4 st.me) := by
  rw [exec_vred]; delta execVred; exact issue_off hg
theorem off_vscan (st : State) (g : Fin 8) (d a : Fin 32) (m : Fin 8) (l : Fin 16) (f : Fin 32) (hg : st.me.guard g = false) : exec (.vscan g d a m l f) st = .next (st.passed 4 st.me) := by
  rw [exec_vscan]; delta execVscan; exact issue_off hg
theorem off_vsqrt (st : State) (g : Fin 8) (d a : Fin 32) (m : Fin 8) (l : Fin 16) (t : Fin 2) (hg : st.me.guard g = false) : exec (.vsqrt g d a m l t) st = .next (st.passed 4 st.me) := by
  rw [exec_vsqrt]; delta execVsqrt longUnary; exact issue_off hg
theorem off_vexp2 (st : State) (g : Fin 8) (d a : Fin 32) (m : Fin 8) (l : Fin 16) (t : Fin 2) (hg : st.me.guard g = false) : exec (.vexp2 g d a m l t) st = .next (st.passed 4 st.me) := by
  rw [exec_vexp2]; delta execVexp2 longUnary; exact issue_off hg
theorem off_vlog2 (st : State) (g : Fin 8) (d a : Fin 32) (m : Fin 8) (l : Fin 16) (t : Fin 2) (hg : st.me.guard g = false) : exec (.vlog2 g d a m l t) st = .next (st.passed 4 st.me) := by
  rw [exec_vlog2]; delta execVlog2 longUnary; exact issue_off hg
theorem off_vrcp (st : State) (g : Fin 8) (d a : Fin 32) (m : Fin 8) (l : Fin 16) (t : Fin 2) (hg : st.me.guard g = false) : exec (.vrcp g d a m l t) st = .next (st.passed 4 st.me) := by
  rw [exec_vrcp]; delta execVrcp longUnary; exact issue_off hg
theorem off_vdivF32 (st : State) (g : Fin 8) (d a : Fin 32) (m : Fin 8) (l : Fin 16) (b : Fin 32) (hg : st.me.guard g = false) : exec (.vdivF32 g d a m l b) st = .next (st.passed 4 st.me) := by
  rw [exec_vdivF32]; delta execVdivF32 longDiv; exact issue_off hg
theorem off_vcvt (st : State) (g : Fin 8) (d a : Fin 32) (m : Fin 8) (l : Fin 16) (f : Fin 32) (hg : st.me.guard g = false) : exec (.vcvt g d a m l f) st = .next (st.passed 4 st.me) := by
  rw [exec_vcvt]; delta execVcvt; exact issue_off hg
theorem off_vdivF16 (st : State) (g : Fin 8) (d a : Fin 32) (m : Fin 8) (l : Fin 16) (b : Fin 32) (hg : st.me.guard g = false) : exec (.vdivF16 g d a m l b) st = .next (st.passed 4 st.me) := by
  rw [exec_vdivF16]; delta execVdivF16 longDiv; exact issue_off hg
theorem off_trd (st : State) (g t : Fin 8) (r : Fin 2) (i : Fin 64) (k v : Fin 32) (hg : st.me.guard g = false) : exec (.trd g t r i k v) st = .next (st.passed 4 st.me) := by
  rw [exec_trd]; delta execTrd onTile; exact issue_off hg
theorem off_twr (st : State) (g t : Fin 8) (r : Fin 2) (i : Fin 64) (k v : Fin 32) (hg : st.me.guard g = false) : exec (.twr g t r i k v) st = .next (st.passed 4 st.me) := by
  rw [exec_twr]; delta execTwr onTile; exact issue_off hg
theorem off_tzero (st : State) (g t : Fin 8) (hg : st.me.guard g = false) : exec (.tzero g t) st = .next (st.passed 4 st.me) := by
  rw [exec_tzero]; delta execTzero onTile; exact issue_off hg
theorem off_ttrans (st : State) (g t : Fin 8) (hg : st.me.guard g = false) : exec (.ttrans g t) st = .next (st.passed 4 st.me) := by
  rw [exec_ttrans]; delta execTtrans onTile; exact issue_off hg
theorem off_tclaim (st : State) (g t : Fin 8) (hg : st.me.guard g = false) : exec (.tclaim g t) st = .next (st.passed 4 st.me) := by
  rw [exec_tclaim]; delta execTclaim; exact issue_off hg
theorem off_tfree (st : State) (g t : Fin 8) (hg : st.me.guard g = false) : exec (.tfree g t) st = .next (st.passed 4 st.me) := by
  rw [exec_tfree]; delta execTfree; exact issue_off hg
theorem off_pld (st : State) (g : Fin 8) (l : Fin 16) (a b : Fin 64) (hg : st.me.guard g = false) : exec (.pld g l a b) st = .next (st.passed 4 st.me) := by
  rw [exec_pld]; delta execPld; exact issue_off hg
theorem off_pst (st : State) (g k : Fin 8) (a b : Fin 64) (hg : st.me.guard g = false) : exec (.pst g k a b) st = .next (st.passed 4 st.me) := by
  rw [exec_pst]; delta execPst blockOp; exact issue_off hg
theorem off_plupd (st : State) (g k : Fin 8) (a b : Fin 64) (hg : st.me.guard g = false) : exec (.plupd g k a b) st = .next (st.passed 4 st.me) := by
  rw [exec_plupd]; delta execPlupd blockOp; exact issue_off hg
theorem off_plaxpy (st : State) (g k : Fin 8) (a b : Fin 64) (hg : st.me.guard g = false) : exec (.plaxpy g k a b) st = .next (st.passed 4 st.me) := by
  rw [exec_plaxpy]; delta execPlaxpy blockOp; exact issue_off hg
theorem off_plhdr (st : State) (g : Fin 8) (l : Fin 16) (a b : Fin 64) (hg : st.me.guard g = false) : exec (.plhdr g l a b) st = .next (st.passed 4 st.me) := by
  rw [exec_plhdr]; delta execPlhdr; exact issue_off hg
theorem off_mlease (st : State) (g k : Fin 8) (a b : Fin 64) (hg : st.me.guard g = false) : exec (.mlease g k a b) st = .next (st.passed 4 st.me) := by
  rw [exec_mlease]; delta execMlease; exact issue_off hg
theorem off_mfree (st : State) (g : Fin 8) (hg : st.me.guard g = false) : exec (.mfree g) st = .next (st.passed 4 st.me) := by
  rw [exec_mfree]; delta execMfree; exact issue_off hg
theorem off_mgeo (st : State) (g : Fin 8) (d a : Fin 64) (hg : st.me.guard g = false) : exec (.mgeo g d a) st = .next (st.passed 4 st.me) := by
  rw [exec_mgeo]; delta execMgeo; exact issue_off hg
theorem off_mgeor (st : State) (g : Fin 8) (d a : Fin 64) (hg : st.me.guard g = false) : exec (.mgeor g d a) st = .next (st.passed 4 st.me) := by
  rw [exec_mgeor]; delta execMgeor; exact issue_off hg
theorem off_mstat (st : State) (g : Fin 8) (d a : Fin 64) (hg : st.me.guard g = false) : exec (.mstat g d a) st = .next (st.passed 4 st.me) := by
  rw [exec_mstat]; delta execMstat; exact issue_off hg
theorem off_mzero (st : State) (g d : Fin 8) (hg : st.me.guard g = false) : exec (.mzero g d) st = .next (st.passed 4 st.me) := by
  rw [exec_mzero]; delta execMzero; exact issue_off hg
theorem off_mldb (st : State) (g k : Fin 8) (a b : Fin 64) (hg : st.me.guard g = false) : exec (.mldb g k a b) st = .next (st.passed 4 st.me) := by
  rw [exec_mldb]; delta execMldb fillInstr; exact issue_off hg
theorem off_mgath (st : State) (g k : Fin 8) (a b : Fin 64) (hg : st.me.guard g = false) : exec (.mgath g k a b) st = .next (st.passed 4 st.me) := by
  rw [exec_mgath]; delta execMgath fillInstr; exact issue_off hg
theorem off_mrd (st : State) (g k : Fin 8) (l : Fin 16) (a b : Fin 64) (hg : st.me.guard g = false) : exec (.mrd g k l a b) st = .next (st.passed 4 st.me) := by
  rw [exec_mrd]; delta execMrd; exact issue_off hg
theorem off_mma (st : State) (g : Fin 8) (x : Fin 32) (a : Fin 8) (h : Fin 2) (w : Fin 8) (sr : Fin 64) (hg : st.me.guard g = false) : exec (.mma g x a h w sr) st = .next (st.passed 4 st.me) := by
  rw [exec_mma]; delta execMma matrixCmd; exact issue_off hg
theorem off_mmaSet (st : State) (g : Fin 8) (x : Fin 32) (a : Fin 8) (h : Fin 2) (w : Fin 8) (sr : Fin 64) (hg : st.me.guard g = false) : exec (.mmaSet g x a h w sr) st = .next (st.passed 4 st.me) := by
  rw [exec_mmaSet]; delta execMmaSet matrixCmd; exact issue_off hg
theorem off_mmaSub (st : State) (g : Fin 8) (x : Fin 32) (a : Fin 8) (h : Fin 2) (w : Fin 8) (sr : Fin 64) (hg : st.me.guard g = false) : exec (.mmaSub g x a h w sr) st = .next (st.passed 4 st.me) := by
  rw [exec_mmaSub]; delta execMmaSub matrixCmd; exact issue_off hg
theorem off_mrun (st : State) (g : Fin 8) (x : Fin 32) (a : Fin 8) (h : Fin 2) (w : Fin 8) (sr : Fin 64) (hg : st.me.guard g = false) : exec (.mrun g x a h w sr) st = .next (st.passed 4 st.me) := by
  rw [exec_mrun]; delta execMrun matrixCmd; exact issue_off hg
theorem off_mrunSet (st : State) (g : Fin 8) (x : Fin 32) (a : Fin 8) (h : Fin 2) (w : Fin 8) (sr : Fin 64) (hg : st.me.guard g = false) : exec (.mrunSet g x a h w sr) st = .next (st.passed 4 st.me) := by
  rw [exec_mrunSet]; delta execMrunSet matrixCmd; exact issue_off hg
theorem off_mrunSub (st : State) (g : Fin 8) (x : Fin 32) (a : Fin 8) (h : Fin 2) (w : Fin 8) (sr : Fin 64) (hg : st.me.guard g = false) : exec (.mrunSub g x a h w sr) st = .next (st.passed 4 st.me) := by
  rw [exec_mrunSub]; delta execMrunSub matrixCmd; exact issue_off hg
theorem off_send (st : State) (g : Fin 8) (a b : Fin 64) (hg : st.me.guard g = false) : exec (.send g a b) st = .next (st.passed 4 st.me) := by
  rw [exec_send]; delta execSend sendMsg; exact issue_off hg
theorem off_sendi (st : State) (g : Fin 8) (a b : Fin 64) (hg : st.me.guard g = false) : exec (.sendi g a b) st = .next (st.passed 4 st.me) := by
  rw [exec_sendi]; delta execSendi sendMsg; exact issue_off hg
theorem off_wmark (st : State) (g : Fin 8) (a : Fin 64) (hg : st.me.guard g = false) : exec (.wmark g a) st = .next (st.passed 4 st.me) := by
  rw [exec_wmark]; delta execWmark; exact issue_off hg
theorem off_waitch (st : State) (g : Fin 8) (a : Fin 64) (hg : st.me.guard g = false) : exec (.waitch g a) st = .next (st.passed 4 st.me) := by
  rw [exec_waitch]; delta execWaitch; exact issue_off hg
theorem off_hmask (st : State) (g : Fin 8) (d a b : Fin 64) (hg : st.me.guard g = false) : exec (.hmask g d a b) st = .next (st.passed 4 st.me) := by
  rw [exec_hmask]; delta execHmask; exact issue_off hg
theorem off_hset (st : State) (g : Fin 8) (a b : Fin 64) (hg : st.me.guard g = false) : exec (.hset g a b) st = .next (st.passed 4 st.me) := by
  rw [exec_hset]; delta execHset; exact issue_off hg
theorem off_chcap (st : State) (g : Fin 8) (a b : Fin 64) (hg : st.me.guard g = false) : exec (.chcap g a b) st = .next (st.passed 4 st.me) := by
  rw [exec_chcap]; delta execChcap; exact issue_off hg
theorem off_wincfg (st : State) (g : Fin 8) (a b : Fin 64) (hg : st.me.guard g = false) : exec (.wincfg g a b) st = .next (st.passed 4 st.me) := by
  rw [exec_wincfg]; delta execWincfg; exact issue_off hg
theorem off_winclose (st : State) (g : Fin 8) (a : Fin 64) (hg : st.me.guard g = false) : exec (.winclose g a) st = .next (st.passed 4 st.me) := by
  rw [exec_winclose]; delta execWinclose; exact issue_off hg
theorem off_dkcfg (st : State) (g : Fin 8) (a b : Fin 64) (hg : st.me.guard g = false) : exec (.dkcfg g a b) st = .next (st.passed 4 st.me) := by
  rw [exec_dkcfg]; delta execDkcfg; exact issue_off hg
theorem off_dkflush (st : State) (g : Fin 8) (a : Fin 64) (hg : st.me.guard g = false) : exec (.dkflush g a) st = .next (st.passed 4 st.me) := by
  rw [exec_dkflush]; delta execDkflush; exact issue_off hg
theorem off_dkstat (st : State) (g : Fin 8) (d a : Fin 64) (hg : st.me.guard g = false) : exec (.dkstat g d a) st = .next (st.passed 4 st.me) := by
  rw [exec_dkstat]; delta execDkstat; exact issue_off hg
theorem off_xcopy (st : State) (g k : Fin 8) (a b : Fin 64) (hg : st.me.guard g = false) : exec (.xcopy g k a b) st = .next (st.passed 4 st.me) := by
  rw [exec_xcopy]; delta execXcopy; exact issue_off hg
theorem off_xresume (st : State) (g : Fin 8) (b : Fin 64) (hg : st.me.guard g = false) : exec (.xresume g b) st = .next (st.passed 4 st.me) := by
  rw [exec_xresume]; delta execXresume; exact issue_off hg
theorem off_xgeo (st : State) (g : Fin 8) (d a : Fin 64) (hg : st.me.guard g = false) : exec (.xgeo g d a) st = .next (st.passed 4 st.me) := by
  rw [exec_xgeo]; delta execXgeo; exact issue_off hg
theorem off_ttest (st : State) (g : Fin 8) (d : Fin 64) (k : Fin 8) (b : Fin 64) (hg : st.me.guard g = false) : exec (.ttest g d k b) st = .next (st.passed 4 st.me) := by
  rw [exec_ttest]; delta execTtest; exact issue_off hg
theorem off_twait (st : State) (g : Fin 8) (m : Fin 256) (hg : st.me.guard g = false) : exec (.twait g m) st = .next (st.passed 4 st.me) := by
  rw [exec_twait]; delta execTwait; exact issue_off hg
theorem off_spawn (st : State) (g : Fin 8) (a b : Fin 64) (hg : st.me.guard g = false) : exec (.spawn g a b) st = .next (st.passed 4 st.me) := by
  rw [exec_spawn]; delta execSpawn; exact issue_off hg
theorem off_done (st : State) (g : Fin 8) (hg : st.me.guard g = false) : exec (.done g) st = .next (st.passed 4 st.me) := by
  rw [exec_done]; delta execDone; exact issueN_off hg
theorem off_doneJ (st : State) (g : Fin 8) (a : Fin 64) (hg : st.me.guard g = false) : exec (.doneJ g a) st = .next (st.passed 4 st.me) := by
  rw [exec_doneJ]; delta execDoneJ; exact issueN_off hg
theorem off_launch (st : State) (g : Fin 8) (d a : Fin 64) (hg : st.me.guard g = false) : exec (.launch g d a) st = .next (st.passed 4 st.me) := by
  rw [exec_launch]; delta execLaunch; exact issue_off hg
theorem off_yield (st : State) (g : Fin 8) (hg : st.me.guard g = false) : exec (.yield g) st = .next (st.passed 4 st.me) := by
  rw [exec_yield]; delta execYield; exact issueN_off hg
theorem off_tspawn (st : State) (g : Fin 8) (a b : Fin 64) (hg : st.me.guard g = false) : exec (.tspawn g a b) st = .next (st.passed 4 st.me) := by
  rw [exec_tspawn]; delta execTspawn; exact issue_off hg
theorem off_tdone (st : State) (g : Fin 8) (hg : st.me.guard g = false) : exec (.tdone g) st = .next (st.passed 4 st.me) := by
  rw [exec_tdone]; delta execTdone; exact issueN_off hg
theorem off_tabort (st : State) (g : Fin 8) (a b : Fin 64) (hg : st.me.guard g = false) : exec (.tabort g a b) st = .next (st.passed 4 st.me) := by
  rw [exec_tabort]; delta execTabort; exact issue_off hg
theorem off_tfront (st : State) (g : Fin 8) (d a : Fin 64) (hg : st.me.guard g = false) : exec (.tfront g d a) st = .next (st.passed 4 st.me) := by
  rw [exec_tfront]; delta execTfront; exact issue_off hg
theorem off_twaitc (st : State) (g : Fin 8) (a b : Fin 64) (hg : st.me.guard g = false) : exec (.twaitc g a b) st = .next (st.passed 4 st.me) := by
  rw [exec_twaitc]; delta execTwaitc; exact issue_off hg
theorem off_xacq (st : State) (g : Fin 8) (d a : Fin 64) (hg : st.me.guard g = false) : exec (.xacq g d a) st = .next (st.passed 4 st.me) := by
  rw [exec_xacq]; delta execXacq; exact issue_off hg
theorem off_xadd (st : State) (g : Fin 8) (a b : Fin 64) (hg : st.me.guard g = false) : exec (.xadd g a b) st = .next (st.passed 4 st.me) := by
  rw [exec_xadd]; delta execXadd; exact issue_off hg
theorem off_xrd (st : State) (g : Fin 8) (d a : Fin 64) (hg : st.me.guard g = false) : exec (.xrd g d a) st = .next (st.passed 4 st.me) := by
  rw [exec_xrd]; delta execXrd; exact issue_off hg
theorem off_xrel (st : State) (g : Fin 8) (a : Fin 64) (hg : st.me.guard g = false) : exec (.xrel g a) st = .next (st.passed 4 st.me) := by
  rw [exec_xrel]; delta execXrel; exact issue_off hg
theorem off_pwalk (st : State) (g k : Fin 8) (a b : Fin 64) (hg : st.me.guard g = false) : exec (.pwalk g k a b) st = .next (st.passed 4 st.me) := by
  rw [exec_pwalk]; delta execPwalk; exact issue_off hg
theorem off_pfcfg (st : State) (g : Fin 8) (a b : Fin 64) (hg : st.me.guard g = false) : exec (.pfcfg g a b) st = .next (st.passed 4 st.me) := by
  rw [exec_pfcfg]; delta execPfcfg; exact issue_off hg
theorem off_pfstop (st : State) (g : Fin 8) (a : Fin 64) (hg : st.me.guard g = false) : exec (.pfstop g a) st = .next (st.passed 4 st.me) := by
  rw [exec_pfstop]; delta execPfstop; exact issue_off hg
theorem off_sysrd (st : State) (g : Fin 8) (d : Fin 64) (n : Fin 1024) (hg : st.me.guard g = false) : exec (.sysrd g d n) st = .next (st.passed 4 st.me) := by
  rw [exec_sysrd]; delta execSysrd; exact issue_off hg
theorem off_syswr (st : State) (g : Fin 8) (a : Fin 64) (n : Fin 1024) (hg : st.me.guard g = false) : exec (.syswr g a n) st = .next (st.passed 4 st.me) := by
  rw [exec_syswr]; delta execSyswr; exact issueN_off hg
theorem off_uret (st : State) (g : Fin 8) (a : Fin 64) (hg : st.me.guard g = false) : exec (.uret g a) st = .next (st.passed 4 st.me) := by
  rw [exec_uret]; delta execUret; exact issueN_off hg
theorem off_tret (st : State) (g : Fin 8) (hg : st.me.guard g = false) : exec (.tret g) st = .next (st.passed 4 st.me) := by
  rw [exec_tret]; delta execTret; exact issueN_off hg
theorem off_tlbi (st : State) (g k : Fin 8) (a b : Fin 64) (hg : st.me.guard g = false) : exec (.tlbi g k a b) st = .next (st.passed 4 st.me) := by
  rw [exec_tlbi]; delta execTlbi; exact issue_off hg
theorem off_snap (st : State) (g : Fin 8) (a : Fin 64) (hg : st.me.guard g = false) : exec (.snap g a) st = .next (st.passed 4 st.me) := by
  rw [exec_snap]; delta execSnap; exact issue_off hg
theorem off_freeze (st : State) (g : Fin 8) (a : Fin 64) (hg : st.me.guard g = false) : exec (.freeze g a) st = .next (st.passed 4 st.me) := by
  rw [exec_freeze]; delta execFreeze; exact issue_off hg
theorem off_resumef (st : State) (g : Fin 8) (a : Fin 64) (hg : st.me.guard g = false) : exec (.resumef g a) st = .next (st.passed 4 st.me) := by
  rw [exec_resumef]; delta execResumef; exact issueN_off hg

end Sys2Proof.Machine
end

