-- ==== Sys2Proof/Laws/Words.lean ====
section
/-! SUPPORT. Fields packed into a word are read back from it: the lemmas that the round trip of each instruction cites. -/

namespace Sys2Proof

/-- A field added where the word held zeros is read back. -/
theorem fld_add_same {x v lo n : Nat} (hx : fld x lo n = 0) (hv : v < 2 ^ n) : fld (x + v * 2 ^ lo) lo n = v := by
  unfold fld at *
  rw [Nat.add_mul_div_right _ _ (Nat.two_pow_pos lo), Nat.add_mod, hx, Nat.zero_add, Nat.mod_mod, Nat.mod_eq_of_lt hv]

/-- A field added where the word held zeros changes no other field. -/
theorem fld_add_apart {x v lo n p m : Nat} (hx : fld x lo n = 0) (hv : v < 2 ^ n) (h : p + m ≤ lo ∨ lo + n ≤ p) :
    fld (x + v * 2 ^ lo) p m = fld x p m := by
  unfold fld at *
  rcases h with h | h
  · obtain ⟨k, rfl⟩ := Nat.exists_eq_add_of_le h
    have e : v * 2 ^ (p + m + k) = (v * 2 ^ k) * 2 ^ m * 2 ^ p := by rw [Nat.pow_add, Nat.pow_add]; ac_rfl
    rw [e, Nat.add_mul_div_right _ _ (Nat.two_pow_pos p), Nat.add_mul_mod_self_right]
  · obtain ⟨k, rfl⟩ := Nat.exists_eq_add_of_le h
    congr 1
    have key : (x + v * 2 ^ lo) / 2 ^ (lo + n) = x / 2 ^ (lo + n) := by
      rw [Nat.pow_add, ← Nat.div_div_eq_div_mul, ← Nat.div_div_eq_div_mul,
        Nat.add_mul_div_right _ _ (Nat.two_pow_pos lo)]
      have hd := Nat.div_add_mod (x / 2 ^ lo) (2 ^ n)
      rw [hx, Nat.add_zero] at hd
      rw [← hd, Nat.mul_comm, Nat.add_comm, Nat.add_mul_div_right _ _ (Nat.two_pow_pos n), Nat.div_eq_of_lt hv,
        Nat.zero_add, Nat.mul_div_cancel _ (Nat.two_pow_pos n)]
    have pull (y : Nat) : y / 2 ^ (lo + n + k) = y / 2 ^ (lo + n) / 2 ^ k := by
      rw [Nat.pow_add, Nat.div_div_eq_div_mul]
    rw [pull, pull x, key]

/-- A field's value, lowest bit and width. -/
abbrev Field := Nat × Nat × Nat

/-- Every value fits its width. -/
def Fits : List Field → Prop
  | [] => True
  | f :: fs => f.1 < 2 ^ f.2.2 ∧ Fits fs

/-- Bits `p` to `p + m - 1` lie outside every field. -/
def apart (p m : Nat) : List (Nat × Nat) → Bool
  | [] => true
  | (lo, n) :: fs => (decide (p + m ≤ lo) || decide (lo + n ≤ p)) && apart p m fs

/-- Fields that lie apart where the fixed bits are 0. -/
def layout (k : Nat) : List (Nat × Nat) → Bool
  | [] => true
  | (lo, n) :: fs => Nat.beq (fld k lo n) 0 && apart lo n fs && layout k fs

/-- What a packed word holds: every field's value. -/
def Holds (w : Nat) : List Field → Prop
  | [] => True
  | f :: fs => fld w f.2.1 f.2.2 = f.1 ∧ Holds w fs

/-- Fields as `pack` takes them. -/
def values (fs : List Field) : List (Nat × Nat) := fs.map (fun f => (f.1, f.2.1))
/-- Fields' places. -/
def places (fs : List Field) : List (Nat × Nat) := fs.map (fun f => (f.2.1, f.2.2))

theorem layout_step {x v lo n : Nat} {fs : List Field} (hx : fld x lo n = 0) (hv : v < 2 ^ n)
    (ha : apart lo n (places fs) = true) (hl : layout x (places fs) = true) :
    layout (x + v * 2 ^ lo) (places fs) = true := by
  induction fs with
  | nil => rfl
  | cons f fs ih =>
    simp only [places, List.map_cons, layout, apart, Bool.and_eq_true, Bool.or_eq_true, decide_eq_true_eq,
      Nat.beq_eq] at ha hl ⊢
    refine ⟨⟨?_, hl.1.2⟩, ih ha.2 hl.2⟩
    rw [fld_add_apart hx hv (by omega)]
    exact hl.1.1

/-- Bits outside every field are the fixed ones. -/
theorem pack_apart {p m : Nat} : ∀ (fs : List Field) (k : Nat), Fits fs → layout k (places fs) = true →
    apart p m (places fs) = true → fld (pack k (values fs)) p m = fld k p m
  | [], _, _, _, _ => rfl
  | f :: fs, k, hf, hl, ha => by
    simp only [places, List.map_cons, layout, apart, Bool.and_eq_true, Bool.or_eq_true, decide_eq_true_eq,
      Nat.beq_eq] at ha hl
    have := pack_apart fs (k + f.1 * 2 ^ f.2.1) hf.2 (layout_step hl.1.1 hf.1 hl.1.2 hl.2) ha.2
    exact this.trans (fld_add_apart hl.1.1 hf.1 (by omega))

/-- Every field is read back. -/
theorem pack_holds : ∀ (fs : List Field) (k : Nat), Fits fs → layout k (places fs) = true →
    Holds (pack k (values fs)) fs
  | [], _, _, _ => trivial
  | f :: fs, k, hf, hl => by
    simp only [places, List.map_cons, layout, Bool.and_eq_true, Nat.beq_eq] at hl
    have hs := layout_step hl.1.1 hf.1 hl.1.2 hl.2
    exact ⟨(pack_apart fs _ hf.2 hs hl.1.2).trans (fld_add_same hl.1.1 hf.1), pack_holds fs _ hf.2 hs⟩

theorem pack_lt {t : Nat} : ∀ (fs : List Field) (k : Nat), k < 2 ^ t → Fits fs → layout k (places fs) = true →
    (∀ f ∈ fs, f.2.1 + f.2.2 ≤ t) → pack k (values fs) < 2 ^ t
  | [], _, hk, _, _, _ => hk
  | f :: fs, k, hk, hf, hl, hb => by
    simp only [places, List.map_cons, layout, Bool.and_eq_true, Nat.beq_eq] at hl
    refine pack_lt fs (k + f.1 * 2 ^ f.2.1) ?_ hf.2 (layout_step hl.1.1 hf.1 hl.1.2 hl.2) (fun g hg => hb g (.tail _ hg))
    have ht := hb f (.head _)
    have e : (k + f.1 * 2 ^ f.2.1) / 2 ^ t = 0 := by
      have h2 := fld_add_apart (p := t) (m := t + f.2.2 + 1) hl.1.1 hf.1 (.inr ht)
      have hz : fld k t (t + f.2.2 + 1) = 0 := by unfold fld; rw [Nat.div_eq_of_lt hk]; exact Nat.zero_mod _
      rw [hz] at h2
      unfold fld at h2
      rw [Nat.mod_eq_of_lt] at h2
      · exact h2
      · refine Nat.lt_of_le_of_lt (Nat.div_le_self _ _) ?_
        have h3 : f.1 * 2 ^ f.2.1 < 2 ^ f.2.2 * 2 ^ f.2.1 := Nat.mul_lt_mul_of_pos_right hf.1 (Nat.two_pow_pos _)
        have h4 : 2 ^ f.2.2 * 2 ^ f.2.1 ≤ 2 ^ (t + f.2.2) := by
          rw [← Nat.pow_add]; exact Nat.pow_le_pow_right (by decide) (by omega)
        have h5 : 2 ^ t ≤ 2 ^ (t + f.2.2) := Nat.pow_le_pow_right (by decide) (by omega)
        have h6 : 2 ^ (t + f.2.2 + 1) = 2 ^ (t + f.2.2) + 2 ^ (t + f.2.2) := by rw [Nat.pow_succ]; omega
        omega
    exact (Nat.div_eq_zero_iff.mp e).resolve_left (by have := Nat.two_pow_pos t; omega)

/-- A packed word: 32 bits, every field in its place, the fixed bits elsewhere. -/
structure Packed (w k : Nat) (fs : List Field) (ls : List (Nat × Nat)) : Prop where
  lt : w < 2 ^ 32
  holds : Holds w fs
  fixed : ∀ p m, apart p m ls = true → fld w p m = fld k p m

/-- Every place lies in 32 bits. -/
def within : List (Nat × Nat) → Bool
  | [] => true
  | (lo, n) :: fs => decide (lo + n ≤ 32) && within fs

theorem within_mem : ∀ {fs : List Field}, within (places fs) = true → ∀ f ∈ fs, f.2.1 + f.2.2 ≤ 32
  | g :: fs, h, f, hf => by
    simp only [places, List.map_cons, within, Bool.and_eq_true, decide_eq_true_eq] at h
    rcases List.mem_cons.mp hf with rfl | hf
    · exact h.1
    · exact within_mem h.2 f hf

theorem packed {k : Nat} {fs : List Field} {ls : List (Nat × Nat)} (hf : Fits fs) (hp : places fs = ls)
    (hl : layout k ls = true) (hw : within ls = true) (hk : k < 2 ^ 32) : Packed (pack k (values fs)) k fs ls := by
  subst hp
  exact ⟨pack_lt fs k hk hf hl (within_mem hw), pack_holds fs k hf hl, fun p m => pack_apart fs k hf hl⟩

/-! ### Fields as operands -/

theorem finOf {m n lo w : Nat} [NeZero m] {v : Fin m} (hm : m = 2 ^ n) (h : fld w lo n = v.val) :
    Fin.ofNat m (w / 2 ^ lo) = v := by
  apply Fin.ext
  unfold fld at h
  rw [← hm] at h
  exact h

theorem bitsOfField {n lo w : Nat} {v : BitVec n} (h : fld w lo n = v.toNat) : BitVec.ofNat n (w / 2 ^ lo) = v := by
  apply BitVec.eq_of_toNat_eq
  rw [BitVec.toNat_ofNat]
  exact h

/-! ### Words and bytes -/

/-- A word is read back from its bytes. -/
theorem word_bytes {w : Nat} (h : w < 2 ^ 32) :
    wordOfBytes (BitVec.ofNat 8 w) (BitVec.ofNat 8 (w / 2 ^ 8)) (BitVec.ofNat 8 (w / 2 ^ 16)) (BitVec.ofNat 8 (w / 2 ^ 24)) = w := by
  simp only [wordOfBytes, BitVec.toNat_ofNat]
  omega

/-- A decoded word without a literal. -/
theorem decode_word {w : Nat} {i : Instr} (rest : List Byte) (hw : w < 2 ^ 32) (hl : hasLiteral w = false)
    (hd : decode w 0 = .ok i) : decodeBytes ([w].flatMap bytesOfWord ++ rest) = .ok (i, rest) := by
  simp only [List.flatMap_cons, List.flatMap_nil, bytesOfWord, List.append_nil, List.cons_append, List.nil_append,
    decodeBytes, word_bytes hw, hl, hd]
  rfl

/-- A decoded word with its literal. -/
theorem decode_literal {w l : Nat} {i : Instr} (rest : List Byte) (hw : w < 2 ^ 32) (h2 : l < 2 ^ 32)
    (hl : hasLiteral w = true) (hd : decode w l = .ok i) :
    decodeBytes ([w, l].flatMap bytesOfWord ++ rest) = .ok (i, rest) := by
  simp only [List.flatMap_cons, List.flatMap_nil, bytesOfWord, List.append_nil, List.cons_append, List.nil_append,
    decodeBytes, word_bytes hw, word_bytes h2, hl, hd, if_true]
  rfl

/-- Decoding by major: what the major's decoder reads, if it is well formed. -/
theorem decode_major {w l m : Nat} {i : Instr} (h0 : w ≠ 0) (hm : majorOf w = m) (hu : unassigned m = false)
    (hd : decodeMajor m w l = some i) (hi : i.wellFormed = true) : decode w l = .ok i := by
  unfold decode
  rw [if_neg h0, hm, hu, hd]
  simp only [Bool.false_eq_true, if_false, hi, if_true]

theorem ne_zero_of_fld {w lo n v : Nat} (h : fld w lo n = v) (hv : v ≠ 0) : w ≠ 0 := by
  rintro rfl
  exact hv (by rw [← h]; simp [fld])

/-- A field in two parts. -/
theorem fld_split (w lo a b : Nat) : fld w lo (a + b) = fld w lo a + 2 ^ a * fld w (lo + a) b := by
  unfold fld
  rw [Nat.pow_add 2 lo a, ← Nat.div_div_eq_div_mul, Nat.pow_add, Nat.mod_mul]

theorem unassigned30 {m : Nat} (h : 0x30 ≤ m) (k : m ≤ 0x32) : unassigned m = false := by
  obtain rfl | rfl | rfl : m = 0x30 ∨ m = 0x31 ∨ m = 0x32 := by omega
  all_goals rfl

theorem unassigned60 {m : Nat} (h : 0x60 ≤ m) : unassigned m = false := by
  simp only [unassigned, Bool.or_eq_false_iff, Bool.and_eq_false_iff, beq_eq_false_iff_ne, decide_eq_false_iff_not]
  omega

/-- The literal forms of the I-format majors. -/
theorem literal10 {w m : Nat} (hm : majorOf w = m)
    (h : m = 3 ∨ m = 4 ∨ m = 5 ∨ m = 6 ∨ m = 11 ∨ m = 12 ∨ m = 21 ∨ m = 22) : hasLiteral w = (fld w 0 10 == 0x200) := by
  unfold hasLiteral
  rw [hm]
  rcases h with rfl | rfl | rfl | rfl | rfl | rfl | rfl | rfl <;> rfl

theorem literal1C {w : Nat} (hm : majorOf w = 0x1C) : hasLiteral w = (fld w 10 6 == 0 && fld w 0 10 == 0x200) := by
  unfold hasLiteral
  rw [hm]
  rfl

/-- The literal forms of the M-format majors. -/
theorem literal6 {w m : Nat} (hm : majorOf w = m)
    (h : m = 32 ∨ m = 33 ∨ m = 34 ∨ m = 35 ∨ m = 36 ∨ m = 37 ∨ m = 38 ∨ m = 39 ∨ m = 40 ∨ m = 41 ∨ m = 43 ∨ m = 44) :
    hasLiteral w = (fld w 0 6 == 0x20) := by
  unfold hasLiteral
  rw [hm]
  rcases h with rfl | rfl | rfl | rfl | rfl | rfl | rfl | rfl | rfl | rfl | rfl | rfl <;> rfl

/-- A field within a field. -/
theorem fld_fld {w lo n i m : Nat} (h : i + m ≤ n) : fld (fld w lo n) i m = fld w (lo + i) m := by
  obtain ⟨k, rfl⟩ := Nat.exists_eq_add_of_le h
  unfold fld
  rw [show i + m + k = i + (m + k) by omega, Nat.pow_add 2 i, Nat.mod_mul_right_div_self, Nat.pow_add 2 m,
    Nat.mod_mul_right_mod, Nat.div_div_eq_div_mul, ← Nat.pow_add]

theorem fld_ne {w lo n v i b : Nat} (h : i + 1 ≤ n) (hb : fld w (lo + i) 1 = b) (hv : fld v i 1 ≠ b) : fld w lo n ≠ v := by
  rintro rfl
  exact hv ((fld_fld h).trans hb)

/-- Majors that have no literal form. -/
theorem noLiteral {w m : Nat} (hm : majorOf w = m) (h : 0x2D ≤ m) : hasLiteral w = false := by
  unfold hasLiteral
  rw [hm]
  split <;> first | rfl | omega

end Sys2Proof
end

