-- ==== Sys2Proof/Laws/PerInstr.lean ====
section
/-! SUPPORT. For each instruction: the bytes of its words, whatever follows them, decode to it. -/

set_option Elab.async false
set_option linter.unusedSimpArgs false

namespace Sys2Proof.Laws.RoundTrip

/-- A well-formed instruction word is what its encoding decodes to. -/
def Statement (i : Instr) : Prop :=
  i.isWord = true → i.wellFormed = true → ∀ rest : List Byte, decodeBytes ((encode i).flatMap bytesOfWord ++ rest) = .ok (i, rest)

/-! ### The majors -/

theorem major00 (w lit : Nat) : decodeMajor 0x00 w lit = dec00 w := rfl
theorem major01 (w lit : Nat) : decodeMajor 0x01 w lit = dec01 w := rfl
theorem major02 (w lit : Nat) : decodeMajor 0x02 w lit = dec02 w := rfl
theorem major03 (w lit : Nat) : decodeMajor 0x03 w lit = dec03 w lit := rfl
theorem major04 (w lit : Nat) : decodeMajor 0x04 w lit = dec04 w lit := rfl
theorem major05 (w lit : Nat) : decodeMajor 0x05 w lit = dec05 w lit := rfl
theorem major06 (w lit : Nat) : decodeMajor 0x06 w lit = dec06 w lit := rfl
theorem major07 (w lit : Nat) : decodeMajor 0x07 w lit = dec07 w := rfl
theorem major08 (w lit : Nat) : decodeMajor 0x08 w lit = dec08 w := rfl
theorem major09 (w lit : Nat) : decodeMajor 0x09 w lit = dec09 w := rfl
theorem major0A (w lit : Nat) : decodeMajor 0x0A w lit = dec0A w := rfl
theorem major0B (w lit : Nat) : decodeMajor 0x0B w lit = dec0B w lit := rfl
theorem major0C (w lit : Nat) : decodeMajor 0x0C w lit = dec0C w lit := rfl
theorem major0D (w lit : Nat) : decodeMajor 0x0D w lit = dec0D w := rfl
theorem major0E (w lit : Nat) : decodeMajor 0x0E w lit = dec0E w := rfl
theorem major0F (w lit : Nat) : decodeMajor 0x0F w lit = dec0F w := rfl
theorem major10 (w lit : Nat) : decodeMajor 0x10 w lit = dec10 w := rfl
theorem major11 (w lit : Nat) : decodeMajor 0x11 w lit = dec11 w := rfl
theorem major12 (w lit : Nat) : decodeMajor 0x12 w lit = dec12 w := rfl
theorem major13 (w lit : Nat) : decodeMajor 0x13 w lit = dec13 w := rfl
theorem major14 (w lit : Nat) : decodeMajor 0x14 w lit = dec14 w := rfl
theorem major15 (w lit : Nat) : decodeMajor 0x15 w lit = dec15 w lit := rfl
theorem major16 (w lit : Nat) : decodeMajor 0x16 w lit = dec16 w lit := rfl
theorem major18 (w lit : Nat) : decodeMajor 0x18 w lit = dec18 w := rfl
theorem major19 (w lit : Nat) : decodeMajor 0x19 w lit = dec19 w := rfl
theorem major1A (w lit : Nat) : decodeMajor 0x1A w lit = dec1A w := rfl
theorem major1B (w lit : Nat) : decodeMajor 0x1B w lit = dec1B w := rfl
theorem major1C (w lit : Nat) : decodeMajor 0x1C w lit = dec1C w lit := rfl
theorem major1D (w lit : Nat) : decodeMajor 0x1D w lit = dec1D w := rfl
theorem major1E (w lit : Nat) : decodeMajor 0x1E w lit = dec1E w := rfl
theorem major1F (w lit : Nat) : decodeMajor 0x1F w lit = dec1F w := rfl
theorem major20 (w lit : Nat) : decodeMajor 0x20 w lit = dec20 w lit := rfl
theorem major21 (w lit : Nat) : decodeMajor 0x21 w lit = dec21 w lit := rfl
theorem major22 (w lit : Nat) : decodeMajor 0x22 w lit = dec22 w lit := rfl
theorem major23 (w lit : Nat) : decodeMajor 0x23 w lit = dec23 w lit := rfl
theorem major24 (w lit : Nat) : decodeMajor 0x24 w lit = dec24 w lit := rfl
theorem major25 (w lit : Nat) : decodeMajor 0x25 w lit = dec25 w lit := rfl
theorem major26 (w lit : Nat) : decodeMajor 0x26 w lit = dec26 w lit := rfl
theorem major27 (w lit : Nat) : decodeMajor 0x27 w lit = dec27 w lit := rfl
theorem major28 (w lit : Nat) : decodeMajor 0x28 w lit = dec28 w lit := rfl
theorem major29 (w lit : Nat) : decodeMajor 0x29 w lit = dec29 w lit := rfl
theorem major2A (w lit : Nat) : decodeMajor 0x2A w lit = dec2A w := rfl
theorem major2B (w lit : Nat) : decodeMajor 0x2B w lit = dec2B w lit := rfl
theorem major2C (w lit : Nat) : decodeMajor 0x2C w lit = dec2C w lit := rfl
theorem major2D (w lit : Nat) : decodeMajor 0x2D w lit = dec2D w := rfl
theorem major2E (w lit : Nat) : decodeMajor 0x2E w lit = dec2E w := rfl
theorem major2F (w lit : Nat) : decodeMajor 0x2F w lit = dec2F w := rfl
theorem major30 (w lit m : Nat) (h : 0x30 ≤ m) (h2 : m ≤ 0x32) : decodeMajor m w lit = dec30 w := by
  obtain rfl | rfl | rfl : m = 0x30 ∨ m = 0x31 ∨ m = 0x32 := by omega
  all_goals rfl
theorem major33 (w lit : Nat) : decodeMajor 0x33 w lit = dec33 w := rfl
theorem major34 (w lit : Nat) : decodeMajor 0x34 w lit = dec34 w := rfl
theorem major35 (w lit : Nat) : decodeMajor 0x35 w lit = dec35 w := rfl
theorem major36 (w lit : Nat) : decodeMajor 0x36 w lit = dec36 w := rfl
theorem major37 (w lit : Nat) : decodeMajor 0x37 w lit = dec37 w := rfl
theorem major38 (w lit : Nat) : decodeMajor 0x38 w lit = dec38 w := rfl
theorem major39 (w lit : Nat) : decodeMajor 0x39 w lit = dec39 w := rfl
theorem major3A (w lit : Nat) : decodeMajor 0x3A w lit = dec3A w := rfl
theorem major3B (w lit : Nat) : decodeMajor 0x3B w lit = dec3B w := rfl
theorem major3C (w lit : Nat) : decodeMajor 0x3C w lit = dec3C w := rfl
theorem major3D (w lit : Nat) : decodeMajor 0x3D w lit = dec3D w := rfl
theorem major3E (w lit : Nat) : decodeMajor 0x3E w lit = dec3E w := rfl
theorem major3F (w lit : Nat) : decodeMajor 0x3F w lit = dec3F w := rfl
theorem major40 (w lit : Nat) : decodeMajor 0x40 w lit = dec40 w := rfl
theorem major41 (w lit : Nat) : decodeMajor 0x41 w lit = dec41 w := rfl
theorem major42 (w lit : Nat) : decodeMajor 0x42 w lit = dec42 w := rfl
theorem major48 (w lit : Nat) : decodeMajor 0x48 w lit = dec48 w := rfl
theorem major49 (w lit : Nat) : decodeMajor 0x49 w lit = dec49 w := rfl
theorem major4A (w lit : Nat) : decodeMajor 0x4A w lit = dec4A w := rfl
theorem major50 (w lit : Nat) : decodeMajor 0x50 w lit = dec50 w := rfl
theorem major51 (w lit : Nat) : decodeMajor 0x51 w lit = dec51 w := rfl
theorem major52 (w lit : Nat) : decodeMajor 0x52 w lit = dec52 w := rfl
theorem major53 (w lit : Nat) : decodeMajor 0x53 w lit = dec53 w := rfl
theorem major54 (w lit : Nat) : decodeMajor 0x54 w lit = dec54 w := rfl
theorem major55 (w lit : Nat) : decodeMajor 0x55 w lit = dec55 w := rfl
theorem major56 (w lit : Nat) : decodeMajor 0x56 w lit = dec56 w := rfl
theorem major57 (w lit : Nat) : decodeMajor 0x57 w lit = dec57 w := rfl
theorem major58 (w lit : Nat) : decodeMajor 0x58 w lit = dec58 w := rfl
theorem major59 (w lit : Nat) : decodeMajor 0x59 w lit = dec59 w := rfl
theorem major5A (w lit : Nat) : decodeMajor 0x5A w lit = dec5A w := rfl
theorem major5C (w lit : Nat) : decodeMajor 0x5C w lit = dec5C w := rfl
theorem major5D (w lit : Nat) : decodeMajor 0x5D w lit = dec5D w := rfl
theorem major5E (w lit : Nat) : decodeMajor 0x5E w lit = dec5E w := rfl
theorem major60 (w lit m : Nat) (h : 0x60 ≤ m) (h2 : m ≤ 0x7F) : decodeMajor m w lit = dec60 w := by
  unfold decodeMajor
  repeat rw [if_neg (by omega)]
  rw [if_pos (by omega)]

/-! ### The instructions -/

theorem memoryUpcall (c : CoreId) (k : SlotId) : Statement (.memoryUpcall c k) := fun h => absurd h Bool.false_ne_true
theorem loadResponse (c : CoreId) (k : SlotId) (id : Nat) : Statement (.loadResponse c k id) := fun h => absurd h Bool.false_ne_true
theorem storeAtHome (c : CoreId) (id : Nat) : Statement (.storeAtHome c id) := fun h => absurd h Bool.false_ne_true
theorem postedErrorResponse (c : CoreId) (id : Nat) : Statement (.postedErrorResponse c id) := fun h => absurd h Bool.false_ne_true
theorem amoAtHome (c : CoreId) (id : Nat) : Statement (.amoAtHome c id) := fun h => absurd h Bool.false_ne_true
theorem xaddAtHome (c : CoreId) (id : Nat) : Statement (.xaddAtHome c id) := fun h => absurd h Bool.false_ne_true
theorem joinDecrement (c : CoreId) (asid : BitVec 16) (entry : Option Nat) (jo : CVal) : Statement (.joinDecrement c asid entry jo) := fun h => absurd h Bool.false_ne_true
theorem taskCommit (d : Fin 8) : Statement (.taskCommit d) := fun h => absurd h Bool.false_ne_true
theorem taskIrrevocable (d : Fin 8) : Statement (.taskIrrevocable d) := fun h => absurd h Bool.false_ne_true
theorem versionRecordFreed (h : Fin 400) : Statement (.versionRecordFreed h) := fun h => absurd h Bool.false_ne_true
theorem messageArrival (c : CoreId) (m : Msg) : Statement (.messageArrival c m) := fun h => absurd h Bool.false_ne_true
theorem refusalCallback (c : CoreId) (ch : Fin 64) : Statement (.refusalCallback c ch) := fun h => absurd h Bool.false_ne_true
theorem messageResend (c : CoreId) (m : Msg) : Statement (.messageResend c m) := fun h => absurd h Bool.false_ne_true
theorem sendAccepted (c : CoreId) (wid : Nat) : Statement (.sendAccepted c wid) := fun h => absurd h Bool.false_ne_true
theorem handlerChoice (c : CoreId) : Statement (.handlerChoice c) := fun h => absurd h Bool.false_ne_true
theorem continuationTake (c : CoreId) : Statement (.continuationTake c) := fun h => absurd h Bool.false_ne_true
theorem stealRound (c : CoreId) : Statement (.stealRound c) := fun h => absurd h Bool.false_ne_true
theorem stealRetryTimeout (c : CoreId) : Statement (.stealRetryTimeout c) := fun h => absurd h Bool.false_ne_true
theorem queuePushWait (q : ClusterId) : Statement (.queuePushWait q) := fun h => absurd h Bool.false_ne_true
theorem watermarkPublish (c : CoreId) (w : Word) : Statement (.watermarkPublish c w) := fun h => absurd h Bool.false_ne_true
theorem watermarkAtNi (c : CoreId) (src : BitVec 16) (w : Word) : Statement (.watermarkAtNi c src w) := fun h => absurd h Bool.false_ne_true
theorem watermarkAtWindowUnit (src : BitVec 16) (w : Word) : Statement (.watermarkAtWindowUnit src w) := fun h => absurd h Bool.false_ne_true
theorem windowTargetPass (k : Fin 32) : Statement (.windowTargetPass k) := fun h => absurd h Bool.false_ne_true
theorem windowTimeout (k : Fin 32) : Statement (.windowTimeout k) := fun h => absurd h Bool.false_ne_true
theorem detApplyAtHome (h : Fin 400) (k : Fin 32) : Statement (.detApplyAtHome h k) := fun h => absurd h Bool.false_ne_true
theorem detReleaseAtQueue (q : ClusterId) (k : Fin 32) : Statement (.detReleaseAtQueue q k) := fun h => absurd h Bool.false_ne_true
theorem closePacketsSend (k : Fin 32) : Statement (.closePacketsSend k) := fun h => absurd h Bool.false_ne_true
theorem closePacketDelivery (c : CoreId) (p : ClosePkt) : Statement (.closePacketDelivery c p) := fun h => absurd h Bool.false_ne_true
theorem sheetTimeout (q : ClusterId) (b : Fin 16) : Statement (.sheetTimeout q b) := fun h => absurd h Bool.false_ne_true
theorem sheetDone (q : ClusterId) (b : Fin 16) : Statement (.sheetDone q b) := fun h => absurd h Bool.false_ne_true
theorem leaseGrant (q : ClusterId) : Statement (.leaseGrant q) := fun h => absurd h Bool.false_ne_true
theorem arrayTurn (q : ClusterId) : Statement (.arrayTurn q) := fun h => absurd h Bool.false_ne_true
theorem arrayTurnEnd (q : ClusterId) : Statement (.arrayTurnEnd q) := fun h => absurd h Bool.false_ne_true
theorem arrayCommandComplete (q : ClusterId) : Statement (.arrayCommandComplete q) := fun h => absurd h Bool.false_ne_true
theorem arrayFillComplete (q : ClusterId) (id : Nat) : Statement (.arrayFillComplete q id) := fun h => absurd h Bool.false_ne_true
theorem arraySpill (q : ClusterId) (l : Nat) : Statement (.arraySpill q l) := fun h => absurd h Bool.false_ne_true
theorem arrayRestore (q : ClusterId) (l : Nat) : Statement (.arrayRestore q l) := fun h => absurd h Bool.false_ne_true
theorem readoutDrain (q : ClusterId) (id : Nat) : Statement (.readoutDrain q id) := fun h => absurd h Bool.false_ne_true
theorem streamerPiece (id : Nat) (n : Nat) : Statement (.streamerPiece id n) := fun h => absurd h Bool.false_ne_true
theorem granuleWrite (id : Nat) (n : Nat) : Statement (.granuleWrite id n) := fun h => absurd h Bool.false_ne_true
theorem engineAck (id : Nat) (n : Nat) : Statement (.engineAck id n) := fun h => absurd h Bool.false_ne_true
theorem engineHandBack (id : Nat) : Statement (.engineHandBack id) := fun h => absurd h Bool.false_ne_true
theorem quireUpdateAtHome (id : Nat) : Statement (.quireUpdateAtHome id) := fun h => absurd h Bool.false_ne_true
theorem walkArrival (id : Nat) : Statement (.walkArrival id) := fun h => absurd h Bool.false_ne_true
theorem walkRule (id : Nat) : Statement (.walkRule id) := fun h => absurd h Bool.false_ne_true
theorem walkEnd (id : Nat) : Statement (.walkEnd id) := fun h => absurd h Bool.false_ne_true
theorem prefetchTrigger (c : CoreId) (va : Nat) (asid : BitVec 16) : Statement (.prefetchTrigger c va asid) := fun h => absurd h Bool.false_ne_true
theorem prefetchKernel (c : CoreId) : Statement (.prefetchKernel c) := fun h => absurd h Bool.false_ne_true
theorem translationWalk (ni : Fin 400) (asid : BitVec 16) (va : Dbl) : Statement (.translationWalk ni asid va) := fun h => absurd h Bool.false_ne_true
theorem tlbiAck (id : Nat) (ni : Fin 400) : Statement (.tlbiAck id ni) := fun h => absurd h Bool.false_ne_true
theorem bridgeResend (p : Fin 12) : Statement (.bridgeResend p) := fun h => absurd h Bool.false_ne_true
theorem preemptionSave (c : CoreId) : Statement (.preemptionSave c) := fun h => absurd h Bool.false_ne_true
theorem strandRestore (c : CoreId) (k : SlotId) : Statement (.strandRestore c k) := fun h => absurd h Bool.false_ne_true
theorem launchValidation (d : Fin 2) : Statement (.launchValidation d) := fun h => absurd h Bool.false_ne_true
theorem launchHeadTake (d : Fin 2) : Statement (.launchHeadTake d) := fun h => absurd h Bool.false_ne_true
theorem launchPortWrite (d : Fin 2) (addr : Dbl) : Statement (.launchPortWrite d addr) := fun h => absurd h Bool.false_ne_true
theorem teamSliceExpiry (grid : Word) (u : Nat) : Statement (.teamSliceExpiry grid u) := fun h => absurd h Bool.false_ne_true
theorem partitionPeriodStart (p : Fin 4) : Statement (.partitionPeriodStart p) := fun h => absurd h Bool.false_ne_true
theorem partitionBudgetStart (p : Fin 4) : Statement (.partitionBudgetStart p) := fun h => absurd h Bool.false_ne_true
theorem partitionBudgetEnd (p : Fin 4) : Statement (.partitionBudgetEnd p) := fun h => absurd h Bool.false_ne_true
theorem coreHardwareError (c : CoreId) : Statement (.coreHardwareError c) := fun h => absurd h Bool.false_ne_true
theorem dieFatalFault (d : Fin 2) : Statement (.dieFatalFault d) := fun h => absurd h Bool.false_ne_true
theorem gerrPop (d : Fin 2) : Statement (.gerrPop d) := fun h => absurd h Bool.false_ne_true
theorem reset (img : FirmwareImage) : Statement (.reset img) := fun h => absurd h Bool.false_ne_true
theorem functionReady (b : Fin 78) : Statement (.functionReady b) := fun h => absurd h Bool.false_ne_true
theorem functionOutOfService (b : Fin 78) : Statement (.functionOutOfService b) := fun h => absurd h Bool.false_ne_true
theorem throttleTick (power : BitVec 16) : Statement (.throttleTick power) := fun h => absurd h Bool.false_ne_true
theorem overtemperature (temp : BitVec 8) : Statement (.overtemperature temp) := fun h => absurd h Bool.false_ne_true
theorem gptpSync (grand : BitVec 64) : Statement (.gptpSync grand) := fun h => absurd h Bool.false_ne_true
theorem csi2Packet (p : Fin 8) (dtype : BitVec 6) (crcOk : Bool) (words : List Dbl) : Statement (.csi2Packet p dtype crcOk words) := fun h => absurd h Bool.false_ne_true
theorem portWatermarkPeriod (p : Fin 8) : Statement (.portWatermarkPeriod p) := fun h => absurd h Bool.false_ne_true
theorem gpioEdge (i : Fin 32) (level : Bool) (edge : Nat) (held : Nat) : Statement (.gpioEdge i level edge held) := fun h => absurd h Bool.false_ne_true
theorem gpioTimerPeriod (i : Fin 32) : Statement (.gpioTimerPeriod i) := fun h => absurd h Bool.false_ne_true
theorem gpioWatermarkPeriod (i : Fin 32) : Statement (.gpioWatermarkPeriod i) := fun h => absurd h Bool.false_ne_true
theorem canFrameEvent (i : Fin 4) (f : CanFrame) : Statement (.canFrameEvent i f) := fun h => absurd h Bool.false_ne_true
theorem canWatermarkPeriod (i : Fin 4) : Statement (.canWatermarkPeriod i) := fun h => absurd h Bool.false_ne_true
theorem pagingFill (q : ClusterId) : Statement (.pagingFill q) := fun h => absurd h Bool.false_ne_true
theorem pagingSpill (q : ClusterId) : Statement (.pagingSpill q) := fun h => absurd h Bool.false_ne_true
theorem pagingGrow (q : ClusterId) : Statement (.pagingGrow q) := fun h => absurd h Bool.false_ne_true
theorem pggrowPop (d : Fin 2) : Statement (.pggrowPop d) := fun h => absurd h Bool.false_ne_true
theorem protRegionEnable (c : CoreId) (i : Fin 16) (x : Quad) : Statement (.protRegionEnable c i x) := fun h => absurd h Bool.false_ne_true
theorem protRegionDisable (c : CoreId) (i : Fin 16) (x : Quad) : Statement (.protRegionDisable c i x) := fun h => absurd h Bool.false_ne_true
theorem wstReadClear (k : Fin 32) : Statement (.wstReadClear k) := fun h => absurd h Bool.false_ne_true
theorem quiesceRequest (c : CoreId) : Statement (.quiesceRequest c) := fun h => absurd h Bool.false_ne_true
theorem quiesceComplete (c : CoreId) : Statement (.quiesceComplete c) := fun h => absurd h Bool.false_ne_true
theorem debugHalt (c : CoreId) : Statement (.debugHalt c) := fun h => absurd h Bool.false_ne_true
theorem debugRelease (c : CoreId) : Statement (.debugRelease c) := fun h => absurd h Bool.false_ne_true
theorem snapshotPin : Statement (.snapshotPin) := fun h => absurd h Bool.false_ne_true
theorem capabilityStore (addr : Dbl) : Statement (.capabilityStore addr) := fun h => absurd h Bool.false_ne_true
theorem attestationRequest (addr : Dbl) : Statement (.attestationRequest addr) := fun h => absurd h Bool.false_ne_true
theorem appCoreAccess (a : AppAccess) : Statement (.appCoreAccess a) := fun h => absurd h Bool.false_ne_true
theorem pcieInboundWrite (addr : Nat) (bytes : List Byte) (relaxed : Bool) : Statement (.pcieInboundWrite addr bytes relaxed) := fun h => absurd h Bool.false_ne_true
theorem registerWrite (c : CoreId) (n : Fin 1024) (x : CVal) : Statement (.registerWrite c n x) := fun h => absurd h Bool.false_ne_true
theorem illegalInstruction (c : CoreId) (k : SlotId) : Statement (.illegalInstruction c k) := fun h => absurd h Bool.false_ne_true
theorem instructionFetchFailure (c : CoreId) (k : SlotId) : Statement (.instructionFetchFailure c k) := fun h => absurd h Bool.false_ne_true
theorem lockLost : Statement (.lockLost) := fun h => absurd h Bool.false_ne_true
theorem add (g : Fin 8) (d : Fin 64) (a : Fin 64) (b : Fin 64) : Statement (.add g d a b) := by
  intro _ hwf rest
  have hw : Packed (pack 0x00000000 [(g.val, 29), (d.val, 16), (a.val, 10), (b.val, 4)]) 0x00000000 [(g.val, 29, 3), (d.val, 16, 6), (a.val, 10, 6), (b.val, 4, 6)]
      [(29, 3), (16, 6), (10, 6), (4, 6)] := packed (k := 0x00000000) (fs := [(g.val, 29, 3), (d.val, 16, 6), (a.val, 10, 6), (b.val, 4, 6)]) ⟨g.isLt, d.isLt, a.isLt, b.isLt, trivial⟩ rfl rfl rfl (by decide)
  revert hw
  show _ → decodeBytes ([pack 0x00000000 [(g.val, 29), (d.val, 16), (a.val, 10), (b.val, 4)]].flatMap bytesOfWord ++ rest) = _
  generalize pack 0x00000000 [(g.val, 29), (d.val, 16), (a.val, 10), (b.val, 4)] = wd
  intro ⟨hlt, hh, hp⟩
  have h0 : fld wd 29 3 = g.val := hh.1
  have h1 : fld wd 16 6 = d.val := hh.2.1
  have h2 : fld wd 10 6 = a.val := hh.2.2.1
  have h3 : fld wd 4 6 = b.val := hh.2.2.2.1
  have e0 : Fin.ofNat 8 (wd / 2 ^ 29) = g := finOf rfl h0
  have e1 : Fin.ofNat 64 (wd / 2 ^ 16) = d := finOf rfl h1
  have e2 : Fin.ofNat 64 (wd / 2 ^ 10) = a := finOf rfl h2
  have e3 : Fin.ofNat 64 (wd / 2 ^ 4) = b := finOf rfl h3
  have hm : majorOf wd = 0x00 := hp 22 7 rfl
  have c0_4 : fld wd 0 4 = 0 := hp 0 4 rfl
  exact decode_word rest hlt (by unfold hasLiteral; rw [hm]; rfl)
    (decode_major (by rintro rfl; simp only [fld, Nat.zero_div, Nat.zero_mod] at h0 h1 h2 h3; simp [Instr.wellFormed, ← h0, ← h1, ← h2, ← h3] at hwf) hm rfl
      (by rw [major00 _ _, dec00, c0_4, e0, e1, e2, e3]; rfl) hwf)
theorem sub (g : Fin 8) (d : Fin 64) (a : Fin 64) (b : Fin 64) : Statement (.sub g d a b) := by
  intro _ hwf rest
  have hw : Packed (pack 0x00000001 [(g.val, 29), (d.val, 16), (a.val, 10), (b.val, 4)]) 0x00000001 [(g.val, 29, 3), (d.val, 16, 6), (a.val, 10, 6), (b.val, 4, 6)]
      [(29, 3), (16, 6), (10, 6), (4, 6)] := packed (k := 0x00000001) (fs := [(g.val, 29, 3), (d.val, 16, 6), (a.val, 10, 6), (b.val, 4, 6)]) ⟨g.isLt, d.isLt, a.isLt, b.isLt, trivial⟩ rfl rfl rfl (by decide)
  revert hw
  show _ → decodeBytes ([pack 0x00000001 [(g.val, 29), (d.val, 16), (a.val, 10), (b.val, 4)]].flatMap bytesOfWord ++ rest) = _
  generalize pack 0x00000001 [(g.val, 29), (d.val, 16), (a.val, 10), (b.val, 4)] = wd
  intro ⟨hlt, hh, hp⟩
  have h0 : fld wd 29 3 = g.val := hh.1
  have h1 : fld wd 16 6 = d.val := hh.2.1
  have h2 : fld wd 10 6 = a.val := hh.2.2.1
  have h3 : fld wd 4 6 = b.val := hh.2.2.2.1
  have e0 : Fin.ofNat 8 (wd / 2 ^ 29) = g := finOf rfl h0
  have e1 : Fin.ofNat 64 (wd / 2 ^ 16) = d := finOf rfl h1
  have e2 : Fin.ofNat 64 (wd / 2 ^ 10) = a := finOf rfl h2
  have e3 : Fin.ofNat 64 (wd / 2 ^ 4) = b := finOf rfl h3
  have hm : majorOf wd = 0x00 := hp 22 7 rfl
  have c0_4 : fld wd 0 4 = 1 := hp 0 4 rfl
  exact decode_word rest hlt (by unfold hasLiteral; rw [hm]; rfl)
    (decode_major (ne_zero_of_fld (hp 0 1 rfl) (by decide)) hm rfl
      (by rw [major00 _ _, dec00, c0_4, e0, e1, e2, e3]; rfl) hwf)
theorem and (g : Fin 8) (d : Fin 64) (a : Fin 64) (b : Fin 64) : Statement (.and g d a b) := by
  intro _ hwf rest
  have hw : Packed (pack 0x00000002 [(g.val, 29), (d.val, 16), (a.val, 10), (b.val, 4)]) 0x00000002 [(g.val, 29, 3), (d.val, 16, 6), (a.val, 10, 6), (b.val, 4, 6)]
      [(29, 3), (16, 6), (10, 6), (4, 6)] := packed (k := 0x00000002) (fs := [(g.val, 29, 3), (d.val, 16, 6), (a.val, 10, 6), (b.val, 4, 6)]) ⟨g.isLt, d.isLt, a.isLt, b.isLt, trivial⟩ rfl rfl rfl (by decide)
  revert hw
  show _ → decodeBytes ([pack 0x00000002 [(g.val, 29), (d.val, 16), (a.val, 10), (b.val, 4)]].flatMap bytesOfWord ++ rest) = _
  generalize pack 0x00000002 [(g.val, 29), (d.val, 16), (a.val, 10), (b.val, 4)] = wd
  intro ⟨hlt, hh, hp⟩
  have h0 : fld wd 29 3 = g.val := hh.1
  have h1 : fld wd 16 6 = d.val := hh.2.1
  have h2 : fld wd 10 6 = a.val := hh.2.2.1
  have h3 : fld wd 4 6 = b.val := hh.2.2.2.1
  have e0 : Fin.ofNat 8 (wd / 2 ^ 29) = g := finOf rfl h0
  have e1 : Fin.ofNat 64 (wd / 2 ^ 16) = d := finOf rfl h1
  have e2 : Fin.ofNat 64 (wd / 2 ^ 10) = a := finOf rfl h2
  have e3 : Fin.ofNat 64 (wd / 2 ^ 4) = b := finOf rfl h3
  have hm : majorOf wd = 0x00 := hp 22 7 rfl
  have c0_4 : fld wd 0 4 = 2 := hp 0 4 rfl
  exact decode_word rest hlt (by unfold hasLiteral; rw [hm]; rfl)
    (decode_major (ne_zero_of_fld (hp 1 1 rfl) (by decide)) hm rfl
      (by rw [major00 _ _, dec00, c0_4, e0, e1, e2, e3]; rfl) hwf)
theorem or (g : Fin 8) (d : Fin 64) (a : Fin 64) (b : Fin 64) : Statement (.or g d a b) := by
  intro _ hwf rest
  have hw : Packed (pack 0x00000003 [(g.val, 29), (d.val, 16), (a.val, 10), (b.val, 4)]) 0x00000003 [(g.val, 29, 3), (d.val, 16, 6), (a.val, 10, 6), (b.val, 4, 6)]
      [(29, 3), (16, 6), (10, 6), (4, 6)] := packed (k := 0x00000003) (fs := [(g.val, 29, 3), (d.val, 16, 6), (a.val, 10, 6), (b.val, 4, 6)]) ⟨g.isLt, d.isLt, a.isLt, b.isLt, trivial⟩ rfl rfl rfl (by decide)
  revert hw
  show _ → decodeBytes ([pack 0x00000003 [(g.val, 29), (d.val, 16), (a.val, 10), (b.val, 4)]].flatMap bytesOfWord ++ rest) = _
  generalize pack 0x00000003 [(g.val, 29), (d.val, 16), (a.val, 10), (b.val, 4)] = wd
  intro ⟨hlt, hh, hp⟩
  have h0 : fld wd 29 3 = g.val := hh.1
  have h1 : fld wd 16 6 = d.val := hh.2.1
  have h2 : fld wd 10 6 = a.val := hh.2.2.1
  have h3 : fld wd 4 6 = b.val := hh.2.2.2.1
  have e0 : Fin.ofNat 8 (wd / 2 ^ 29) = g := finOf rfl h0
  have e1 : Fin.ofNat 64 (wd / 2 ^ 16) = d := finOf rfl h1
  have e2 : Fin.ofNat 64 (wd / 2 ^ 10) = a := finOf rfl h2
  have e3 : Fin.ofNat 64 (wd / 2 ^ 4) = b := finOf rfl h3
  have hm : majorOf wd = 0x00 := hp 22 7 rfl
  have c0_4 : fld wd 0 4 = 3 := hp 0 4 rfl
  exact decode_word rest hlt (by unfold hasLiteral; rw [hm]; rfl)
    (decode_major (ne_zero_of_fld (hp 0 1 rfl) (by decide)) hm rfl
      (by rw [major00 _ _, dec00, c0_4, e0, e1, e2, e3]; rfl) hwf)
theorem xor (g : Fin 8) (d : Fin 64) (a : Fin 64) (b : Fin 64) : Statement (.xor g d a b) := by
  intro _ hwf rest
  have hw : Packed (pack 0x00000004 [(g.val, 29), (d.val, 16), (a.val, 10), (b.val, 4)]) 0x00000004 [(g.val, 29, 3), (d.val, 16, 6), (a.val, 10, 6), (b.val, 4, 6)]
      [(29, 3), (16, 6), (10, 6), (4, 6)] := packed (k := 0x00000004) (fs := [(g.val, 29, 3), (d.val, 16, 6), (a.val, 10, 6), (b.val, 4, 6)]) ⟨g.isLt, d.isLt, a.isLt, b.isLt, trivial⟩ rfl rfl rfl (by decide)
  revert hw
  show _ → decodeBytes ([pack 0x00000004 [(g.val, 29), (d.val, 16), (a.val, 10), (b.val, 4)]].flatMap bytesOfWord ++ rest) = _
  generalize pack 0x00000004 [(g.val, 29), (d.val, 16), (a.val, 10), (b.val, 4)] = wd
  intro ⟨hlt, hh, hp⟩
  have h0 : fld wd 29 3 = g.val := hh.1
  have h1 : fld wd 16 6 = d.val := hh.2.1
  have h2 : fld wd 10 6 = a.val := hh.2.2.1
  have h3 : fld wd 4 6 = b.val := hh.2.2.2.1
  have e0 : Fin.ofNat 8 (wd / 2 ^ 29) = g := finOf rfl h0
  have e1 : Fin.ofNat 64 (wd / 2 ^ 16) = d := finOf rfl h1
  have e2 : Fin.ofNat 64 (wd / 2 ^ 10) = a := finOf rfl h2
  have e3 : Fin.ofNat 64 (wd / 2 ^ 4) = b := finOf rfl h3
  have hm : majorOf wd = 0x00 := hp 22 7 rfl
  have c0_4 : fld wd 0 4 = 4 := hp 0 4 rfl
  exact decode_word rest hlt (by unfold hasLiteral; rw [hm]; rfl)
    (decode_major (ne_zero_of_fld (hp 2 1 rfl) (by decide)) hm rfl
      (by rw [major00 _ _, dec00, c0_4, e0, e1, e2, e3]; rfl) hwf)
theorem andn (g : Fin 8) (d : Fin 64) (a : Fin 64) (b : Fin 64) : Statement (.andn g d a b) := by
  intro _ hwf rest
  have hw : Packed (pack 0x00000005 [(g.val, 29), (d.val, 16), (a.val, 10), (b.val, 4)]) 0x00000005 [(g.val, 29, 3), (d.val, 16, 6), (a.val, 10, 6), (b.val, 4, 6)]
      [(29, 3), (16, 6), (10, 6), (4, 6)] := packed (k := 0x00000005) (fs := [(g.val, 29, 3), (d.val, 16, 6), (a.val, 10, 6), (b.val, 4, 6)]) ⟨g.isLt, d.isLt, a.isLt, b.isLt, trivial⟩ rfl rfl rfl (by decide)
  revert hw
  show _ → decodeBytes ([pack 0x00000005 [(g.val, 29), (d.val, 16), (a.val, 10), (b.val, 4)]].flatMap bytesOfWord ++ rest) = _
  generalize pack 0x00000005 [(g.val, 29), (d.val, 16), (a.val, 10), (b.val, 4)] = wd
  intro ⟨hlt, hh, hp⟩
  have h0 : fld wd 29 3 = g.val := hh.1
  have h1 : fld wd 16 6 = d.val := hh.2.1
  have h2 : fld wd 10 6 = a.val := hh.2.2.1
  have h3 : fld wd 4 6 = b.val := hh.2.2.2.1
  have e0 : Fin.ofNat 8 (wd / 2 ^ 29) = g := finOf rfl h0
  have e1 : Fin.ofNat 64 (wd / 2 ^ 16) = d := finOf rfl h1
  have e2 : Fin.ofNat 64 (wd / 2 ^ 10) = a := finOf rfl h2
  have e3 : Fin.ofNat 64 (wd / 2 ^ 4) = b := finOf rfl h3
  have hm : majorOf wd = 0x00 := hp 22 7 rfl
  have c0_4 : fld wd 0 4 = 5 := hp 0 4 rfl
  exact decode_word rest hlt (by unfold hasLiteral; rw [hm]; rfl)
    (decode_major (ne_zero_of_fld (hp 0 1 rfl) (by decide)) hm rfl
      (by rw [major00 _ _, dec00, c0_4, e0, e1, e2, e3]; rfl) hwf)
theorem sll (g : Fin 8) (d : Fin 64) (a : Fin 64) (b : Fin 64) : Statement (.sll g d a b) := by
  intro _ hwf rest
  have hw : Packed (pack 0x00000006 [(g.val, 29), (d.val, 16), (a.val, 10), (b.val, 4)]) 0x00000006 [(g.val, 29, 3), (d.val, 16, 6), (a.val, 10, 6), (b.val, 4, 6)]
      [(29, 3), (16, 6), (10, 6), (4, 6)] := packed (k := 0x00000006) (fs := [(g.val, 29, 3), (d.val, 16, 6), (a.val, 10, 6), (b.val, 4, 6)]) ⟨g.isLt, d.isLt, a.isLt, b.isLt, trivial⟩ rfl rfl rfl (by decide)
  revert hw
  show _ → decodeBytes ([pack 0x00000006 [(g.val, 29), (d.val, 16), (a.val, 10), (b.val, 4)]].flatMap bytesOfWord ++ rest) = _
  generalize pack 0x00000006 [(g.val, 29), (d.val, 16), (a.val, 10), (b.val, 4)] = wd
  intro ⟨hlt, hh, hp⟩
  have h0 : fld wd 29 3 = g.val := hh.1
  have h1 : fld wd 16 6 = d.val := hh.2.1
  have h2 : fld wd 10 6 = a.val := hh.2.2.1
  have h3 : fld wd 4 6 = b.val := hh.2.2.2.1
  have e0 : Fin.ofNat 8 (wd / 2 ^ 29) = g := finOf rfl h0
  have e1 : Fin.ofNat 64 (wd / 2 ^ 16) = d := finOf rfl h1
  have e2 : Fin.ofNat 64 (wd / 2 ^ 10) = a := finOf rfl h2
  have e3 : Fin.ofNat 64 (wd / 2 ^ 4) = b := finOf rfl h3
  have hm : majorOf wd = 0x00 := hp 22 7 rfl
  have c0_4 : fld wd 0 4 = 6 := hp 0 4 rfl
  exact decode_word rest hlt (by unfold hasLiteral; rw [hm]; rfl)
    (decode_major (ne_zero_of_fld (hp 1 1 rfl) (by decide)) hm rfl
      (by rw [major00 _ _, dec00, c0_4, e0, e1, e2, e3]; rfl) hwf)
theorem srl (g : Fin 8) (d : Fin 64) (a : Fin 64) (b : Fin 64) : Statement (.srl g d a b) := by
  intro _ hwf rest
  have hw : Packed (pack 0x00000007 [(g.val, 29), (d.val, 16), (a.val, 10), (b.val, 4)]) 0x00000007 [(g.val, 29, 3), (d.val, 16, 6), (a.val, 10, 6), (b.val, 4, 6)]
      [(29, 3), (16, 6), (10, 6), (4, 6)] := packed (k := 0x00000007) (fs := [(g.val, 29, 3), (d.val, 16, 6), (a.val, 10, 6), (b.val, 4, 6)]) ⟨g.isLt, d.isLt, a.isLt, b.isLt, trivial⟩ rfl rfl rfl (by decide)
  revert hw
  show _ → decodeBytes ([pack 0x00000007 [(g.val, 29), (d.val, 16), (a.val, 10), (b.val, 4)]].flatMap bytesOfWord ++ rest) = _
  generalize pack 0x00000007 [(g.val, 29), (d.val, 16), (a.val, 10), (b.val, 4)] = wd
  intro ⟨hlt, hh, hp⟩
  have h0 : fld wd 29 3 = g.val := hh.1
  have h1 : fld wd 16 6 = d.val := hh.2.1
  have h2 : fld wd 10 6 = a.val := hh.2.2.1
  have h3 : fld wd 4 6 = b.val := hh.2.2.2.1
  have e0 : Fin.ofNat 8 (wd / 2 ^ 29) = g := finOf rfl h0
  have e1 : Fin.ofNat 64 (wd / 2 ^ 16) = d := finOf rfl h1
  have e2 : Fin.ofNat 64 (wd / 2 ^ 10) = a := finOf rfl h2
  have e3 : Fin.ofNat 64 (wd / 2 ^ 4) = b := finOf rfl h3
  have hm : majorOf wd = 0x00 := hp 22 7 rfl
  have c0_4 : fld wd 0 4 = 7 := hp 0 4 rfl
  exact decode_word rest hlt (by unfold hasLiteral; rw [hm]; rfl)
    (decode_major (ne_zero_of_fld (hp 0 1 rfl) (by decide)) hm rfl
      (by rw [major00 _ _, dec00, c0_4, e0, e1, e2, e3]; rfl) hwf)
theorem sra (g : Fin 8) (d : Fin 64) (a : Fin 64) (b : Fin 64) : Statement (.sra g d a b) := by
  intro _ hwf rest
  have hw : Packed (pack 0x00000008 [(g.val, 29), (d.val, 16), (a.val, 10), (b.val, 4)]) 0x00000008 [(g.val, 29, 3), (d.val, 16, 6), (a.val, 10, 6), (b.val, 4, 6)]
      [(29, 3), (16, 6), (10, 6), (4, 6)] := packed (k := 0x00000008) (fs := [(g.val, 29, 3), (d.val, 16, 6), (a.val, 10, 6), (b.val, 4, 6)]) ⟨g.isLt, d.isLt, a.isLt, b.isLt, trivial⟩ rfl rfl rfl (by decide)
  revert hw
  show _ → decodeBytes ([pack 0x00000008 [(g.val, 29), (d.val, 16), (a.val, 10), (b.val, 4)]].flatMap bytesOfWord ++ rest) = _
  generalize pack 0x00000008 [(g.val, 29), (d.val, 16), (a.val, 10), (b.val, 4)] = wd
  intro ⟨hlt, hh, hp⟩
  have h0 : fld wd 29 3 = g.val := hh.1
  have h1 : fld wd 16 6 = d.val := hh.2.1
  have h2 : fld wd 10 6 = a.val := hh.2.2.1
  have h3 : fld wd 4 6 = b.val := hh.2.2.2.1
  have e0 : Fin.ofNat 8 (wd / 2 ^ 29) = g := finOf rfl h0
  have e1 : Fin.ofNat 64 (wd / 2 ^ 16) = d := finOf rfl h1
  have e2 : Fin.ofNat 64 (wd / 2 ^ 10) = a := finOf rfl h2
  have e3 : Fin.ofNat 64 (wd / 2 ^ 4) = b := finOf rfl h3
  have hm : majorOf wd = 0x00 := hp 22 7 rfl
  have c0_4 : fld wd 0 4 = 8 := hp 0 4 rfl
  exact decode_word rest hlt (by unfold hasLiteral; rw [hm]; rfl)
    (decode_major (ne_zero_of_fld (hp 3 1 rfl) (by decide)) hm rfl
      (by rw [major00 _ _, dec00, c0_4, e0, e1, e2, e3]; rfl) hwf)
theorem rot (g : Fin 8) (d : Fin 64) (a : Fin 64) (b : Fin 64) : Statement (.rot g d a b) := by
  intro _ hwf rest
  have hw : Packed (pack 0x00000009 [(g.val, 29), (d.val, 16), (a.val, 10), (b.val, 4)]) 0x00000009 [(g.val, 29, 3), (d.val, 16, 6), (a.val, 10, 6), (b.val, 4, 6)]
      [(29, 3), (16, 6), (10, 6), (4, 6)] := packed (k := 0x00000009) (fs := [(g.val, 29, 3), (d.val, 16, 6), (a.val, 10, 6), (b.val, 4, 6)]) ⟨g.isLt, d.isLt, a.isLt, b.isLt, trivial⟩ rfl rfl rfl (by decide)
  revert hw
  show _ → decodeBytes ([pack 0x00000009 [(g.val, 29), (d.val, 16), (a.val, 10), (b.val, 4)]].flatMap bytesOfWord ++ rest) = _
  generalize pack 0x00000009 [(g.val, 29), (d.val, 16), (a.val, 10), (b.val, 4)] = wd
  intro ⟨hlt, hh, hp⟩
  have h0 : fld wd 29 3 = g.val := hh.1
  have h1 : fld wd 16 6 = d.val := hh.2.1
  have h2 : fld wd 10 6 = a.val := hh.2.2.1
  have h3 : fld wd 4 6 = b.val := hh.2.2.2.1
  have e0 : Fin.ofNat 8 (wd / 2 ^ 29) = g := finOf rfl h0
  have e1 : Fin.ofNat 64 (wd / 2 ^ 16) = d := finOf rfl h1
  have e2 : Fin.ofNat 64 (wd / 2 ^ 10) = a := finOf rfl h2
  have e3 : Fin.ofNat 64 (wd / 2 ^ 4) = b := finOf rfl h3
  have hm : majorOf wd = 0x00 := hp 22 7 rfl
  have c0_4 : fld wd 0 4 = 9 := hp 0 4 rfl
  exact decode_word rest hlt (by unfold hasLiteral; rw [hm]; rfl)
    (decode_major (ne_zero_of_fld (hp 0 1 rfl) (by decide)) hm rfl
      (by rw [major00 _ _, dec00, c0_4, e0, e1, e2, e3]; rfl) hwf)
theorem min (g : Fin 8) (d : Fin 64) (a : Fin 64) (b : Fin 64) : Statement (.min g d a b) := by
  intro _ hwf rest
  have hw : Packed (pack 0x0000000A [(g.val, 29), (d.val, 16), (a.val, 10), (b.val, 4)]) 0x0000000A [(g.val, 29, 3), (d.val, 16, 6), (a.val, 10, 6), (b.val, 4, 6)]
      [(29, 3), (16, 6), (10, 6), (4, 6)] := packed (k := 0x0000000A) (fs := [(g.val, 29, 3), (d.val, 16, 6), (a.val, 10, 6), (b.val, 4, 6)]) ⟨g.isLt, d.isLt, a.isLt, b.isLt, trivial⟩ rfl rfl rfl (by decide)
  revert hw
  show _ → decodeBytes ([pack 0x0000000A [(g.val, 29), (d.val, 16), (a.val, 10), (b.val, 4)]].flatMap bytesOfWord ++ rest) = _
  generalize pack 0x0000000A [(g.val, 29), (d.val, 16), (a.val, 10), (b.val, 4)] = wd
  intro ⟨hlt, hh, hp⟩
  have h0 : fld wd 29 3 = g.val := hh.1
  have h1 : fld wd 16 6 = d.val := hh.2.1
  have h2 : fld wd 10 6 = a.val := hh.2.2.1
  have h3 : fld wd 4 6 = b.val := hh.2.2.2.1
  have e0 : Fin.ofNat 8 (wd / 2 ^ 29) = g := finOf rfl h0
  have e1 : Fin.ofNat 64 (wd / 2 ^ 16) = d := finOf rfl h1
  have e2 : Fin.ofNat 64 (wd / 2 ^ 10) = a := finOf rfl h2
  have e3 : Fin.ofNat 64 (wd / 2 ^ 4) = b := finOf rfl h3
  have hm : majorOf wd = 0x00 := hp 22 7 rfl
  have c0_4 : fld wd 0 4 = 10 := hp 0 4 rfl
  exact decode_word rest hlt (by unfold hasLiteral; rw [hm]; rfl)
    (decode_major (ne_zero_of_fld (hp 1 1 rfl) (by decide)) hm rfl
      (by rw [major00 _ _, dec00, c0_4, e0, e1, e2, e3]; rfl) hwf)
theorem max (g : Fin 8) (d : Fin 64) (a : Fin 64) (b : Fin 64) : Statement (.max g d a b) := by
  intro _ hwf rest
  have hw : Packed (pack 0x0000000B [(g.val, 29), (d.val, 16), (a.val, 10), (b.val, 4)]) 0x0000000B [(g.val, 29, 3), (d.val, 16, 6), (a.val, 10, 6), (b.val, 4, 6)]
      [(29, 3), (16, 6), (10, 6), (4, 6)] := packed (k := 0x0000000B) (fs := [(g.val, 29, 3), (d.val, 16, 6), (a.val, 10, 6), (b.val, 4, 6)]) ⟨g.isLt, d.isLt, a.isLt, b.isLt, trivial⟩ rfl rfl rfl (by decide)
  revert hw
  show _ → decodeBytes ([pack 0x0000000B [(g.val, 29), (d.val, 16), (a.val, 10), (b.val, 4)]].flatMap bytesOfWord ++ rest) = _
  generalize pack 0x0000000B [(g.val, 29), (d.val, 16), (a.val, 10), (b.val, 4)] = wd
  intro ⟨hlt, hh, hp⟩
  have h0 : fld wd 29 3 = g.val := hh.1
  have h1 : fld wd 16 6 = d.val := hh.2.1
  have h2 : fld wd 10 6 = a.val := hh.2.2.1
  have h3 : fld wd 4 6 = b.val := hh.2.2.2.1
  have e0 : Fin.ofNat 8 (wd / 2 ^ 29) = g := finOf rfl h0
  have e1 : Fin.ofNat 64 (wd / 2 ^ 16) = d := finOf rfl h1
  have e2 : Fin.ofNat 64 (wd / 2 ^ 10) = a := finOf rfl h2
  have e3 : Fin.ofNat 64 (wd / 2 ^ 4) = b := finOf rfl h3
  have hm : majorOf wd = 0x00 := hp 22 7 rfl
  have c0_4 : fld wd 0 4 = 11 := hp 0 4 rfl
  exact decode_word rest hlt (by unfold hasLiteral; rw [hm]; rfl)
    (decode_major (ne_zero_of_fld (hp 0 1 rfl) (by decide)) hm rfl
      (by rw [major00 _ _, dec00, c0_4, e0, e1, e2, e3]; rfl) hwf)
theorem mul (g : Fin 8) (d : Fin 64) (a : Fin 64) (b : Fin 64) : Statement (.mul g d a b) := by
  intro _ hwf rest
  have hw : Packed (pack 0x00400000 [(g.val, 29), (d.val, 16), (a.val, 10), (b.val, 4)]) 0x00400000 [(g.val, 29, 3), (d.val, 16, 6), (a.val, 10, 6), (b.val, 4, 6)]
      [(29, 3), (16, 6), (10, 6), (4, 6)] := packed (k := 0x00400000) (fs := [(g.val, 29, 3), (d.val, 16, 6), (a.val, 10, 6), (b.val, 4, 6)]) ⟨g.isLt, d.isLt, a.isLt, b.isLt, trivial⟩ rfl rfl rfl (by decide)
  revert hw
  show _ → decodeBytes ([pack 0x00400000 [(g.val, 29), (d.val, 16), (a.val, 10), (b.val, 4)]].flatMap bytesOfWord ++ rest) = _
  generalize pack 0x00400000 [(g.val, 29), (d.val, 16), (a.val, 10), (b.val, 4)] = wd
  intro ⟨hlt, hh, hp⟩
  have h0 : fld wd 29 3 = g.val := hh.1
  have h1 : fld wd 16 6 = d.val := hh.2.1
  have h2 : fld wd 10 6 = a.val := hh.2.2.1
  have h3 : fld wd 4 6 = b.val := hh.2.2.2.1
  have e0 : Fin.ofNat 8 (wd / 2 ^ 29) = g := finOf rfl h0
  have e1 : Fin.ofNat 64 (wd / 2 ^ 16) = d := finOf rfl h1
  have e2 : Fin.ofNat 64 (wd / 2 ^ 10) = a := finOf rfl h2
  have e3 : Fin.ofNat 64 (wd / 2 ^ 4) = b := finOf rfl h3
  have hm : majorOf wd = 0x01 := hp 22 7 rfl
  have c0_4 : fld wd 0 4 = 0 := hp 0 4 rfl
  exact decode_word rest hlt (by unfold hasLiteral; rw [hm]; rfl)
    (decode_major (ne_zero_of_fld (hp 22 1 rfl) (by decide)) hm rfl
      (by rw [major01 _ _, dec01, c0_4, e0, e1, e2, e3]; rfl) hwf)
theorem mulh (g : Fin 8) (d : Fin 64) (a : Fin 64) (b : Fin 64) : Statement (.mulh g d a b) := by
  intro _ hwf rest
  have hw : Packed (pack 0x00400001 [(g.val, 29), (d.val, 16), (a.val, 10), (b.val, 4)]) 0x00400001 [(g.val, 29, 3), (d.val, 16, 6), (a.val, 10, 6), (b.val, 4, 6)]
      [(29, 3), (16, 6), (10, 6), (4, 6)] := packed (k := 0x00400001) (fs := [(g.val, 29, 3), (d.val, 16, 6), (a.val, 10, 6), (b.val, 4, 6)]) ⟨g.isLt, d.isLt, a.isLt, b.isLt, trivial⟩ rfl rfl rfl (by decide)
  revert hw
  show _ → decodeBytes ([pack 0x00400001 [(g.val, 29), (d.val, 16), (a.val, 10), (b.val, 4)]].flatMap bytesOfWord ++ rest) = _
  generalize pack 0x00400001 [(g.val, 29), (d.val, 16), (a.val, 10), (b.val, 4)] = wd
  intro ⟨hlt, hh, hp⟩
  have h0 : fld wd 29 3 = g.val := hh.1
  have h1 : fld wd 16 6 = d.val := hh.2.1
  have h2 : fld wd 10 6 = a.val := hh.2.2.1
  have h3 : fld wd 4 6 = b.val := hh.2.2.2.1
  have e0 : Fin.ofNat 8 (wd / 2 ^ 29) = g := finOf rfl h0
  have e1 : Fin.ofNat 64 (wd / 2 ^ 16) = d := finOf rfl h1
  have e2 : Fin.ofNat 64 (wd / 2 ^ 10) = a := finOf rfl h2
  have e3 : Fin.ofNat 64 (wd / 2 ^ 4) = b := finOf rfl h3
  have hm : majorOf wd = 0x01 := hp 22 7 rfl
  have c0_4 : fld wd 0 4 = 1 := hp 0 4 rfl
  exact decode_word rest hlt (by unfold hasLiteral; rw [hm]; rfl)
    (decode_major (ne_zero_of_fld (hp 0 1 rfl) (by decide)) hm rfl
      (by rw [major01 _ _, dec01, c0_4, e0, e1, e2, e3]; rfl) hwf)
theorem mulhU (g : Fin 8) (d : Fin 64) (a : Fin 64) (b : Fin 64) : Statement (.mulhU g d a b) := by
  intro _ hwf rest
  have hw : Packed (pack 0x00400002 [(g.val, 29), (d.val, 16), (a.val, 10), (b.val, 4)]) 0x00400002 [(g.val, 29, 3), (d.val, 16, 6), (a.val, 10, 6), (b.val, 4, 6)]
      [(29, 3), (16, 6), (10, 6), (4, 6)] := packed (k := 0x00400002) (fs := [(g.val, 29, 3), (d.val, 16, 6), (a.val, 10, 6), (b.val, 4, 6)]) ⟨g.isLt, d.isLt, a.isLt, b.isLt, trivial⟩ rfl rfl rfl (by decide)
  revert hw
  show _ → decodeBytes ([pack 0x00400002 [(g.val, 29), (d.val, 16), (a.val, 10), (b.val, 4)]].flatMap bytesOfWord ++ rest) = _
  generalize pack 0x00400002 [(g.val, 29), (d.val, 16), (a.val, 10), (b.val, 4)] = wd
  intro ⟨hlt, hh, hp⟩
  have h0 : fld wd 29 3 = g.val := hh.1
  have h1 : fld wd 16 6 = d.val := hh.2.1
  have h2 : fld wd 10 6 = a.val := hh.2.2.1
  have h3 : fld wd 4 6 = b.val := hh.2.2.2.1
  have e0 : Fin.ofNat 8 (wd / 2 ^ 29) = g := finOf rfl h0
  have e1 : Fin.ofNat 64 (wd / 2 ^ 16) = d := finOf rfl h1
  have e2 : Fin.ofNat 64 (wd / 2 ^ 10) = a := finOf rfl h2
  have e3 : Fin.ofNat 64 (wd / 2 ^ 4) = b := finOf rfl h3
  have hm : majorOf wd = 0x01 := hp 22 7 rfl
  have c0_4 : fld wd 0 4 = 2 := hp 0 4 rfl
  exact decode_word rest hlt (by unfold hasLiteral; rw [hm]; rfl)
    (decode_major (ne_zero_of_fld (hp 1 1 rfl) (by decide)) hm rfl
      (by rw [major01 _ _, dec01, c0_4, e0, e1, e2, e3]; rfl) hwf)
theorem div (g : Fin 8) (d : Fin 64) (a : Fin 64) (b : Fin 64) : Statement (.div g d a b) := by
  intro _ hwf rest
  have hw : Packed (pack 0x00400003 [(g.val, 29), (d.val, 16), (a.val, 10), (b.val, 4)]) 0x00400003 [(g.val, 29, 3), (d.val, 16, 6), (a.val, 10, 6), (b.val, 4, 6)]
      [(29, 3), (16, 6), (10, 6), (4, 6)] := packed (k := 0x00400003) (fs := [(g.val, 29, 3), (d.val, 16, 6), (a.val, 10, 6), (b.val, 4, 6)]) ⟨g.isLt, d.isLt, a.isLt, b.isLt, trivial⟩ rfl rfl rfl (by decide)
  revert hw
  show _ → decodeBytes ([pack 0x00400003 [(g.val, 29), (d.val, 16), (a.val, 10), (b.val, 4)]].flatMap bytesOfWord ++ rest) = _
  generalize pack 0x00400003 [(g.val, 29), (d.val, 16), (a.val, 10), (b.val, 4)] = wd
  intro ⟨hlt, hh, hp⟩
  have h0 : fld wd 29 3 = g.val := hh.1
  have h1 : fld wd 16 6 = d.val := hh.2.1
  have h2 : fld wd 10 6 = a.val := hh.2.2.1
  have h3 : fld wd 4 6 = b.val := hh.2.2.2.1
  have e0 : Fin.ofNat 8 (wd / 2 ^ 29) = g := finOf rfl h0
  have e1 : Fin.ofNat 64 (wd / 2 ^ 16) = d := finOf rfl h1
  have e2 : Fin.ofNat 64 (wd / 2 ^ 10) = a := finOf rfl h2
  have e3 : Fin.ofNat 64 (wd / 2 ^ 4) = b := finOf rfl h3
  have hm : majorOf wd = 0x01 := hp 22 7 rfl
  have c0_4 : fld wd 0 4 = 3 := hp 0 4 rfl
  exact decode_word rest hlt (by unfold hasLiteral; rw [hm]; rfl)
    (decode_major (ne_zero_of_fld (hp 0 1 rfl) (by decide)) hm rfl
      (by rw [major01 _ _, dec01, c0_4, e0, e1, e2, e3]; rfl) hwf)
theorem divU (g : Fin 8) (d : Fin 64) (a : Fin 64) (b : Fin 64) : Statement (.divU g d a b) := by
  intro _ hwf rest
  have hw : Packed (pack 0x00400004 [(g.val, 29), (d.val, 16), (a.val, 10), (b.val, 4)]) 0x00400004 [(g.val, 29, 3), (d.val, 16, 6), (a.val, 10, 6), (b.val, 4, 6)]
      [(29, 3), (16, 6), (10, 6), (4, 6)] := packed (k := 0x00400004) (fs := [(g.val, 29, 3), (d.val, 16, 6), (a.val, 10, 6), (b.val, 4, 6)]) ⟨g.isLt, d.isLt, a.isLt, b.isLt, trivial⟩ rfl rfl rfl (by decide)
  revert hw
  show _ → decodeBytes ([pack 0x00400004 [(g.val, 29), (d.val, 16), (a.val, 10), (b.val, 4)]].flatMap bytesOfWord ++ rest) = _
  generalize pack 0x00400004 [(g.val, 29), (d.val, 16), (a.val, 10), (b.val, 4)] = wd
  intro ⟨hlt, hh, hp⟩
  have h0 : fld wd 29 3 = g.val := hh.1
  have h1 : fld wd 16 6 = d.val := hh.2.1
  have h2 : fld wd 10 6 = a.val := hh.2.2.1
  have h3 : fld wd 4 6 = b.val := hh.2.2.2.1
  have e0 : Fin.ofNat 8 (wd / 2 ^ 29) = g := finOf rfl h0
  have e1 : Fin.ofNat 64 (wd / 2 ^ 16) = d := finOf rfl h1
  have e2 : Fin.ofNat 64 (wd / 2 ^ 10) = a := finOf rfl h2
  have e3 : Fin.ofNat 64 (wd / 2 ^ 4) = b := finOf rfl h3
  have hm : majorOf wd = 0x01 := hp 22 7 rfl
  have c0_4 : fld wd 0 4 = 4 := hp 0 4 rfl
  exact decode_word rest hlt (by unfold hasLiteral; rw [hm]; rfl)
    (decode_major (ne_zero_of_fld (hp 2 1 rfl) (by decide)) hm rfl
      (by rw [major01 _ _, dec01, c0_4, e0, e1, e2, e3]; rfl) hwf)
theorem rem (g : Fin 8) (d : Fin 64) (a : Fin 64) (b : Fin 64) : Statement (.rem g d a b) := by
  intro _ hwf rest
  have hw : Packed (pack 0x00400005 [(g.val, 29), (d.val, 16), (a.val, 10), (b.val, 4)]) 0x00400005 [(g.val, 29, 3), (d.val, 16, 6), (a.val, 10, 6), (b.val, 4, 6)]
      [(29, 3), (16, 6), (10, 6), (4, 6)] := packed (k := 0x00400005) (fs := [(g.val, 29, 3), (d.val, 16, 6), (a.val, 10, 6), (b.val, 4, 6)]) ⟨g.isLt, d.isLt, a.isLt, b.isLt, trivial⟩ rfl rfl rfl (by decide)
  revert hw
  show _ → decodeBytes ([pack 0x00400005 [(g.val, 29), (d.val, 16), (a.val, 10), (b.val, 4)]].flatMap bytesOfWord ++ rest) = _
  generalize pack 0x00400005 [(g.val, 29), (d.val, 16), (a.val, 10), (b.val, 4)] = wd
  intro ⟨hlt, hh, hp⟩
  have h0 : fld wd 29 3 = g.val := hh.1
  have h1 : fld wd 16 6 = d.val := hh.2.1
  have h2 : fld wd 10 6 = a.val := hh.2.2.1
  have h3 : fld wd 4 6 = b.val := hh.2.2.2.1
  have e0 : Fin.ofNat 8 (wd / 2 ^ 29) = g := finOf rfl h0
  have e1 : Fin.ofNat 64 (wd / 2 ^ 16) = d := finOf rfl h1
  have e2 : Fin.ofNat 64 (wd / 2 ^ 10) = a := finOf rfl h2
  have e3 : Fin.ofNat 64 (wd / 2 ^ 4) = b := finOf rfl h3
  have hm : majorOf wd = 0x01 := hp 22 7 rfl
  have c0_4 : fld wd 0 4 = 5 := hp 0 4 rfl
  exact decode_word rest hlt (by unfold hasLiteral; rw [hm]; rfl)
    (decode_major (ne_zero_of_fld (hp 0 1 rfl) (by decide)) hm rfl
      (by rw [major01 _ _, dec01, c0_4, e0, e1, e2, e3]; rfl) hwf)
theorem remU (g : Fin 8) (d : Fin 64) (a : Fin 64) (b : Fin 64) : Statement (.remU g d a b) := by
  intro _ hwf rest
  have hw : Packed (pack 0x00400006 [(g.val, 29), (d.val, 16), (a.val, 10), (b.val, 4)]) 0x00400006 [(g.val, 29, 3), (d.val, 16, 6), (a.val, 10, 6), (b.val, 4, 6)]
      [(29, 3), (16, 6), (10, 6), (4, 6)] := packed (k := 0x00400006) (fs := [(g.val, 29, 3), (d.val, 16, 6), (a.val, 10, 6), (b.val, 4, 6)]) ⟨g.isLt, d.isLt, a.isLt, b.isLt, trivial⟩ rfl rfl rfl (by decide)
  revert hw
  show _ → decodeBytes ([pack 0x00400006 [(g.val, 29), (d.val, 16), (a.val, 10), (b.val, 4)]].flatMap bytesOfWord ++ rest) = _
  generalize pack 0x00400006 [(g.val, 29), (d.val, 16), (a.val, 10), (b.val, 4)] = wd
  intro ⟨hlt, hh, hp⟩
  have h0 : fld wd 29 3 = g.val := hh.1
  have h1 : fld wd 16 6 = d.val := hh.2.1
  have h2 : fld wd 10 6 = a.val := hh.2.2.1
  have h3 : fld wd 4 6 = b.val := hh.2.2.2.1
  have e0 : Fin.ofNat 8 (wd / 2 ^ 29) = g := finOf rfl h0
  have e1 : Fin.ofNat 64 (wd / 2 ^ 16) = d := finOf rfl h1
  have e2 : Fin.ofNat 64 (wd / 2 ^ 10) = a := finOf rfl h2
  have e3 : Fin.ofNat 64 (wd / 2 ^ 4) = b := finOf rfl h3
  have hm : majorOf wd = 0x01 := hp 22 7 rfl
  have c0_4 : fld wd 0 4 = 6 := hp 0 4 rfl
  exact decode_word rest hlt (by unfold hasLiteral; rw [hm]; rfl)
    (decode_major (ne_zero_of_fld (hp 1 1 rfl) (by decide)) hm rfl
      (by rw [major01 _ _, dec01, c0_4, e0, e1, e2, e3]; rfl) hwf)
theorem clz (g : Fin 8) (d : Fin 64) (a : Fin 64) : Statement (.clz g d a) := by
  intro _ hwf rest
  have hw : Packed (pack 0x00800000 [(g.val, 29), (d.val, 16), (a.val, 10)]) 0x00800000 [(g.val, 29, 3), (d.val, 16, 6), (a.val, 10, 6)]
      [(29, 3), (16, 6), (10, 6)] := packed (k := 0x00800000) (fs := [(g.val, 29, 3), (d.val, 16, 6), (a.val, 10, 6)]) ⟨g.isLt, d.isLt, a.isLt, trivial⟩ rfl rfl rfl (by decide)
  revert hw
  show _ → decodeBytes ([pack 0x00800000 [(g.val, 29), (d.val, 16), (a.val, 10)]].flatMap bytesOfWord ++ rest) = _
  generalize pack 0x00800000 [(g.val, 29), (d.val, 16), (a.val, 10)] = wd
  intro ⟨hlt, hh, hp⟩
  have h0 : fld wd 29 3 = g.val := hh.1
  have h1 : fld wd 16 6 = d.val := hh.2.1
  have h2 : fld wd 10 6 = a.val := hh.2.2.1
  have e0 : Fin.ofNat 8 (wd / 2 ^ 29) = g := finOf rfl h0
  have e1 : Fin.ofNat 64 (wd / 2 ^ 16) = d := finOf rfl h1
  have e2 : Fin.ofNat 64 (wd / 2 ^ 10) = a := finOf rfl h2
  have hm : majorOf wd = 0x02 := hp 22 7 rfl
  have c0_10 : fld wd 0 10 = 0 := hp 0 10 rfl
  exact decode_word rest hlt (by unfold hasLiteral; rw [hm]; rfl)
    (decode_major (ne_zero_of_fld (hp 23 1 rfl) (by decide)) hm rfl
      (by rw [major02 _ _, dec02, c0_10, e0, e1, e2]; rfl) hwf)
theorem popc (g : Fin 8) (d : Fin 64) (a : Fin 64) : Statement (.popc g d a) := by
  intro _ hwf rest
  have hw : Packed (pack 0x00800001 [(g.val, 29), (d.val, 16), (a.val, 10)]) 0x00800001 [(g.val, 29, 3), (d.val, 16, 6), (a.val, 10, 6)]
      [(29, 3), (16, 6), (10, 6)] := packed (k := 0x00800001) (fs := [(g.val, 29, 3), (d.val, 16, 6), (a.val, 10, 6)]) ⟨g.isLt, d.isLt, a.isLt, trivial⟩ rfl rfl rfl (by decide)
  revert hw
  show _ → decodeBytes ([pack 0x00800001 [(g.val, 29), (d.val, 16), (a.val, 10)]].flatMap bytesOfWord ++ rest) = _
  generalize pack 0x00800001 [(g.val, 29), (d.val, 16), (a.val, 10)] = wd
  intro ⟨hlt, hh, hp⟩
  have h0 : fld wd 29 3 = g.val := hh.1
  have h1 : fld wd 16 6 = d.val := hh.2.1
  have h2 : fld wd 10 6 = a.val := hh.2.2.1
  have e0 : Fin.ofNat 8 (wd / 2 ^ 29) = g := finOf rfl h0
  have e1 : Fin.ofNat 64 (wd / 2 ^ 16) = d := finOf rfl h1
  have e2 : Fin.ofNat 64 (wd / 2 ^ 10) = a := finOf rfl h2
  have hm : majorOf wd = 0x02 := hp 22 7 rfl
  have c0_10 : fld wd 0 10 = 1 := hp 0 10 rfl
  exact decode_word rest hlt (by unfold hasLiteral; rw [hm]; rfl)
    (decode_major (ne_zero_of_fld (hp 0 1 rfl) (by decide)) hm rfl
      (by rw [major02 _ _, dec02, c0_10, e0, e1, e2]; rfl) hwf)
theorem mov (g : Fin 8) (d : Fin 64) (a : Fin 64) : Statement (.mov g d a) := by
  intro _ hwf rest
  have hw : Packed (pack 0x00800002 [(g.val, 29), (d.val, 16), (a.val, 10)]) 0x00800002 [(g.val, 29, 3), (d.val, 16, 6), (a.val, 10, 6)]
      [(29, 3), (16, 6), (10, 6)] := packed (k := 0x00800002) (fs := [(g.val, 29, 3), (d.val, 16, 6), (a.val, 10, 6)]) ⟨g.isLt, d.isLt, a.isLt, trivial⟩ rfl rfl rfl (by decide)
  revert hw
  show _ → decodeBytes ([pack 0x00800002 [(g.val, 29), (d.val, 16), (a.val, 10)]].flatMap bytesOfWord ++ rest) = _
  generalize pack 0x00800002 [(g.val, 29), (d.val, 16), (a.val, 10)] = wd
  intro ⟨hlt, hh, hp⟩
  have h0 : fld wd 29 3 = g.val := hh.1
  have h1 : fld wd 16 6 = d.val := hh.2.1
  have h2 : fld wd 10 6 = a.val := hh.2.2.1
  have e0 : Fin.ofNat 8 (wd / 2 ^ 29) = g := finOf rfl h0
  have e1 : Fin.ofNat 64 (wd / 2 ^ 16) = d := finOf rfl h1
  have e2 : Fin.ofNat 64 (wd / 2 ^ 10) = a := finOf rfl h2
  have hm : majorOf wd = 0x02 := hp 22 7 rfl
  have c0_10 : fld wd 0 10 = 2 := hp 0 10 rfl
  exact decode_word rest hlt (by unfold hasLiteral; rw [hm]; rfl)
    (decode_major (ne_zero_of_fld (hp 1 1 rfl) (by decide)) hm rfl
      (by rw [major02 _ _, dec02, c0_10, e0, e1, e2]; rfl) hwf)
theorem sextB (g : Fin 8) (d : Fin 64) (a : Fin 64) : Statement (.sextB g d a) := by
  intro _ hwf rest
  have hw : Packed (pack 0x00800003 [(g.val, 29), (d.val, 16), (a.val, 10)]) 0x00800003 [(g.val, 29, 3), (d.val, 16, 6), (a.val, 10, 6)]
      [(29, 3), (16, 6), (10, 6)] := packed (k := 0x00800003) (fs := [(g.val, 29, 3), (d.val, 16, 6), (a.val, 10, 6)]) ⟨g.isLt, d.isLt, a.isLt, trivial⟩ rfl rfl rfl (by decide)
  revert hw
  show _ → decodeBytes ([pack 0x00800003 [(g.val, 29), (d.val, 16), (a.val, 10)]].flatMap bytesOfWord ++ rest) = _
  generalize pack 0x00800003 [(g.val, 29), (d.val, 16), (a.val, 10)] = wd
  intro ⟨hlt, hh, hp⟩
  have h0 : fld wd 29 3 = g.val := hh.1
  have h1 : fld wd 16 6 = d.val := hh.2.1
  have h2 : fld wd 10 6 = a.val := hh.2.2.1
  have e0 : Fin.ofNat 8 (wd / 2 ^ 29) = g := finOf rfl h0
  have e1 : Fin.ofNat 64 (wd / 2 ^ 16) = d := finOf rfl h1
  have e2 : Fin.ofNat 64 (wd / 2 ^ 10) = a := finOf rfl h2
  have hm : majorOf wd = 0x02 := hp 22 7 rfl
  have c0_10 : fld wd 0 10 = 3 := hp 0 10 rfl
  exact decode_word rest hlt (by unfold hasLiteral; rw [hm]; rfl)
    (decode_major (ne_zero_of_fld (hp 0 1 rfl) (by decide)) hm rfl
      (by rw [major02 _ _, dec02, c0_10, e0, e1, e2]; rfl) hwf)
theorem sextH (g : Fin 8) (d : Fin 64) (a : Fin 64) : Statement (.sextH g d a) := by
  intro _ hwf rest
  have hw : Packed (pack 0x00800004 [(g.val, 29), (d.val, 16), (a.val, 10)]) 0x00800004 [(g.val, 29, 3), (d.val, 16, 6), (a.val, 10, 6)]
      [(29, 3), (16, 6), (10, 6)] := packed (k := 0x00800004) (fs := [(g.val, 29, 3), (d.val, 16, 6), (a.val, 10, 6)]) ⟨g.isLt, d.isLt, a.isLt, trivial⟩ rfl rfl rfl (by decide)
  revert hw
  show _ → decodeBytes ([pack 0x00800004 [(g.val, 29), (d.val, 16), (a.val, 10)]].flatMap bytesOfWord ++ rest) = _
  generalize pack 0x00800004 [(g.val, 29), (d.val, 16), (a.val, 10)] = wd
  intro ⟨hlt, hh, hp⟩
  have h0 : fld wd 29 3 = g.val := hh.1
  have h1 : fld wd 16 6 = d.val := hh.2.1
  have h2 : fld wd 10 6 = a.val := hh.2.2.1
  have e0 : Fin.ofNat 8 (wd / 2 ^ 29) = g := finOf rfl h0
  have e1 : Fin.ofNat 64 (wd / 2 ^ 16) = d := finOf rfl h1
  have e2 : Fin.ofNat 64 (wd / 2 ^ 10) = a := finOf rfl h2
  have hm : majorOf wd = 0x02 := hp 22 7 rfl
  have c0_10 : fld wd 0 10 = 4 := hp 0 10 rfl
  exact decode_word rest hlt (by unfold hasLiteral; rw [hm]; rfl)
    (decode_major (ne_zero_of_fld (hp 2 1 rfl) (by decide)) hm rfl
      (by rw [major02 _ _, dec02, c0_10, e0, e1, e2]; rfl) hwf)
theorem sextW (g : Fin 8) (d : Fin 64) (a : Fin 64) : Statement (.sextW g d a) := by
  intro _ hwf rest
  have hw : Packed (pack 0x00800005 [(g.val, 29), (d.val, 16), (a.val, 10)]) 0x00800005 [(g.val, 29, 3), (d.val, 16, 6), (a.val, 10, 6)]
      [(29, 3), (16, 6), (10, 6)] := packed (k := 0x00800005) (fs := [(g.val, 29, 3), (d.val, 16, 6), (a.val, 10, 6)]) ⟨g.isLt, d.isLt, a.isLt, trivial⟩ rfl rfl rfl (by decide)
  revert hw
  show _ → decodeBytes ([pack 0x00800005 [(g.val, 29), (d.val, 16), (a.val, 10)]].flatMap bytesOfWord ++ rest) = _
  generalize pack 0x00800005 [(g.val, 29), (d.val, 16), (a.val, 10)] = wd
  intro ⟨hlt, hh, hp⟩
  have h0 : fld wd 29 3 = g.val := hh.1
  have h1 : fld wd 16 6 = d.val := hh.2.1
  have h2 : fld wd 10 6 = a.val := hh.2.2.1
  have e0 : Fin.ofNat 8 (wd / 2 ^ 29) = g := finOf rfl h0
  have e1 : Fin.ofNat 64 (wd / 2 ^ 16) = d := finOf rfl h1
  have e2 : Fin.ofNat 64 (wd / 2 ^ 10) = a := finOf rfl h2
  have hm : majorOf wd = 0x02 := hp 22 7 rfl
  have c0_10 : fld wd 0 10 = 5 := hp 0 10 rfl
  exact decode_word rest hlt (by unfold hasLiteral; rw [hm]; rfl)
    (decode_major (ne_zero_of_fld (hp 0 1 rfl) (by decide)) hm rfl
      (by rw [major02 _ _, dec02, c0_10, e0, e1, e2]; rfl) hwf)
theorem zextB (g : Fin 8) (d : Fin 64) (a : Fin 64) : Statement (.zextB g d a) := by
  intro _ hwf rest
  have hw : Packed (pack 0x00800006 [(g.val, 29), (d.val, 16), (a.val, 10)]) 0x00800006 [(g.val, 29, 3), (d.val, 16, 6), (a.val, 10, 6)]
      [(29, 3), (16, 6), (10, 6)] := packed (k := 0x00800006) (fs := [(g.val, 29, 3), (d.val, 16, 6), (a.val, 10, 6)]) ⟨g.isLt, d.isLt, a.isLt, trivial⟩ rfl rfl rfl (by decide)
  revert hw
  show _ → decodeBytes ([pack 0x00800006 [(g.val, 29), (d.val, 16), (a.val, 10)]].flatMap bytesOfWord ++ rest) = _
  generalize pack 0x00800006 [(g.val, 29), (d.val, 16), (a.val, 10)] = wd
  intro ⟨hlt, hh, hp⟩
  have h0 : fld wd 29 3 = g.val := hh.1
  have h1 : fld wd 16 6 = d.val := hh.2.1
  have h2 : fld wd 10 6 = a.val := hh.2.2.1
  have e0 : Fin.ofNat 8 (wd / 2 ^ 29) = g := finOf rfl h0
  have e1 : Fin.ofNat 64 (wd / 2 ^ 16) = d := finOf rfl h1
  have e2 : Fin.ofNat 64 (wd / 2 ^ 10) = a := finOf rfl h2
  have hm : majorOf wd = 0x02 := hp 22 7 rfl
  have c0_10 : fld wd 0 10 = 6 := hp 0 10 rfl
  exact decode_word rest hlt (by unfold hasLiteral; rw [hm]; rfl)
    (decode_major (ne_zero_of_fld (hp 1 1 rfl) (by decide)) hm rfl
      (by rw [major02 _ _, dec02, c0_10, e0, e1, e2]; rfl) hwf)
theorem zextH (g : Fin 8) (d : Fin 64) (a : Fin 64) : Statement (.zextH g d a) := by
  intro _ hwf rest
  have hw : Packed (pack 0x00800007 [(g.val, 29), (d.val, 16), (a.val, 10)]) 0x00800007 [(g.val, 29, 3), (d.val, 16, 6), (a.val, 10, 6)]
      [(29, 3), (16, 6), (10, 6)] := packed (k := 0x00800007) (fs := [(g.val, 29, 3), (d.val, 16, 6), (a.val, 10, 6)]) ⟨g.isLt, d.isLt, a.isLt, trivial⟩ rfl rfl rfl (by decide)
  revert hw
  show _ → decodeBytes ([pack 0x00800007 [(g.val, 29), (d.val, 16), (a.val, 10)]].flatMap bytesOfWord ++ rest) = _
  generalize pack 0x00800007 [(g.val, 29), (d.val, 16), (a.val, 10)] = wd
  intro ⟨hlt, hh, hp⟩
  have h0 : fld wd 29 3 = g.val := hh.1
  have h1 : fld wd 16 6 = d.val := hh.2.1
  have h2 : fld wd 10 6 = a.val := hh.2.2.1
  have e0 : Fin.ofNat 8 (wd / 2 ^ 29) = g := finOf rfl h0
  have e1 : Fin.ofNat 64 (wd / 2 ^ 16) = d := finOf rfl h1
  have e2 : Fin.ofNat 64 (wd / 2 ^ 10) = a := finOf rfl h2
  have hm : majorOf wd = 0x02 := hp 22 7 rfl
  have c0_10 : fld wd 0 10 = 7 := hp 0 10 rfl
  exact decode_word rest hlt (by unfold hasLiteral; rw [hm]; rfl)
    (decode_major (ne_zero_of_fld (hp 0 1 rfl) (by decide)) hm rfl
      (by rw [major02 _ _, dec02, c0_10, e0, e1, e2]; rfl) hwf)
theorem zextW (g : Fin 8) (d : Fin 64) (a : Fin 64) : Statement (.zextW g d a) := by
  intro _ hwf rest
  have hw : Packed (pack 0x00800008 [(g.val, 29), (d.val, 16), (a.val, 10)]) 0x00800008 [(g.val, 29, 3), (d.val, 16, 6), (a.val, 10, 6)]
      [(29, 3), (16, 6), (10, 6)] := packed (k := 0x00800008) (fs := [(g.val, 29, 3), (d.val, 16, 6), (a.val, 10, 6)]) ⟨g.isLt, d.isLt, a.isLt, trivial⟩ rfl rfl rfl (by decide)
  revert hw
  show _ → decodeBytes ([pack 0x00800008 [(g.val, 29), (d.val, 16), (a.val, 10)]].flatMap bytesOfWord ++ rest) = _
  generalize pack 0x00800008 [(g.val, 29), (d.val, 16), (a.val, 10)] = wd
  intro ⟨hlt, hh, hp⟩
  have h0 : fld wd 29 3 = g.val := hh.1
  have h1 : fld wd 16 6 = d.val := hh.2.1
  have h2 : fld wd 10 6 = a.val := hh.2.2.1
  have e0 : Fin.ofNat 8 (wd / 2 ^ 29) = g := finOf rfl h0
  have e1 : Fin.ofNat 64 (wd / 2 ^ 16) = d := finOf rfl h1
  have e2 : Fin.ofNat 64 (wd / 2 ^ 10) = a := finOf rfl h2
  have hm : majorOf wd = 0x02 := hp 22 7 rfl
  have c0_10 : fld wd 0 10 = 8 := hp 0 10 rfl
  exact decode_word rest hlt (by unfold hasLiteral; rw [hm]; rfl)
    (decode_major (ne_zero_of_fld (hp 3 1 rfl) (by decide)) hm rfl
      (by rw [major02 _ _, dec02, c0_10, e0, e1, e2]; rfl) hwf)
theorem addImm (g : Fin 8) (d : Fin 64) (a : Fin 64) (i : BitVec 10) : Statement (.addImm g d a i) := by
  intro _ hwf rest
  have hw : Packed (pack 0x00C00000 [(g.val, 29), (d.val, 16), (a.val, 10), (i.toNat, 0)]) 0x00C00000 [(g.val, 29, 3), (d.val, 16, 6), (a.val, 10, 6), (i.toNat, 0, 10)]
      [(29, 3), (16, 6), (10, 6), (0, 10)] := packed (k := 0x00C00000) (fs := [(g.val, 29, 3), (d.val, 16, 6), (a.val, 10, 6), (i.toNat, 0, 10)]) ⟨g.isLt, d.isLt, a.isLt, i.isLt, trivial⟩ rfl rfl rfl (by decide)
  revert hw
  show _ → decodeBytes ([pack 0x00C00000 [(g.val, 29), (d.val, 16), (a.val, 10), (i.toNat, 0)]].flatMap bytesOfWord ++ rest) = _
  generalize pack 0x00C00000 [(g.val, 29), (d.val, 16), (a.val, 10), (i.toNat, 0)] = wd
  intro ⟨hlt, hh, hp⟩
  have h0 : fld wd 29 3 = g.val := hh.1
  have h1 : fld wd 16 6 = d.val := hh.2.1
  have h2 : fld wd 10 6 = a.val := hh.2.2.1
  have h3 : fld wd 0 10 = i.toNat := hh.2.2.2.1
  have e0 : Fin.ofNat 8 (wd / 2 ^ 29) = g := finOf rfl h0
  have e1 : Fin.ofNat 64 (wd / 2 ^ 16) = d := finOf rfl h1
  have e2 : Fin.ofNat 64 (wd / 2 ^ 10) = a := finOf rfl h2
  have e3 : BitVec.ofNat 10 (wd / 2 ^ 0) = i := bitsOfField h3
  have hm : majorOf wd = 0x03 := hp 22 7 rfl
  have hn : i.toNat ≠ 0x200 := by
    intro e
    have : i = 0x200#10 := BitVec.eq_of_toNat_eq e
    subst this
    simp [Instr.wellFormed] at hwf
  exact decode_word rest hlt (by rw [literal10 hm (by decide), h3]; exact beq_false_of_ne hn)
    (decode_major (ne_zero_of_fld (hp 22 1 rfl) (by decide)) hm rfl
      (by rw [major03 _ _, dec03, h3, e0, e1, e2, e3]; simp [hn]) hwf)
theorem addImmLiteral (g : Fin 8) (d : Fin 64) (a : Fin 64) (lit : Word) : Statement (.addImmLiteral g d a lit) := by
  intro _ hwf rest
  have hw : Packed (pack 0x00C00200 [(g.val, 29), (d.val, 16), (a.val, 10)]) 0x00C00200 [(g.val, 29, 3), (d.val, 16, 6), (a.val, 10, 6)]
      [(29, 3), (16, 6), (10, 6)] := packed (k := 0x00C00200) (fs := [(g.val, 29, 3), (d.val, 16, 6), (a.val, 10, 6)]) ⟨g.isLt, d.isLt, a.isLt, trivial⟩ rfl rfl rfl (by decide)
  revert hw
  show _ → decodeBytes ([pack 0x00C00200 [(g.val, 29), (d.val, 16), (a.val, 10)], lit.toNat].flatMap bytesOfWord ++ rest) = _
  generalize pack 0x00C00200 [(g.val, 29), (d.val, 16), (a.val, 10)] = wd
  intro ⟨hlt, hh, hp⟩
  have h0 : fld wd 29 3 = g.val := hh.1
  have h1 : fld wd 16 6 = d.val := hh.2.1
  have h2 : fld wd 10 6 = a.val := hh.2.2.1
  have e0 : Fin.ofNat 8 (wd / 2 ^ 29) = g := finOf rfl h0
  have e1 : Fin.ofNat 64 (wd / 2 ^ 16) = d := finOf rfl h1
  have e2 : Fin.ofNat 64 (wd / 2 ^ 10) = a := finOf rfl h2
  have hm : majorOf wd = 0x03 := hp 22 7 rfl
  have c0_10 : fld wd 0 10 = 512 := hp 0 10 rfl
  exact decode_literal rest hlt lit.isLt (by rw [literal10 hm (by decide), c0_10]; rfl)
    (decode_major (ne_zero_of_fld (hp 9 1 rfl) (by decide)) hm rfl
      (by rw [major03 _ _, dec03, c0_10, e0, e1, e2]; simp only [BitVec.ofNat_toNat, BitVec.setWidth_eq]; rfl) hwf)
theorem andImm (g : Fin 8) (d : Fin 64) (a : Fin 64) (i : BitVec 10) : Statement (.andImm g d a i) := by
  intro _ hwf rest
  have hw : Packed (pack 0x01000000 [(g.val, 29), (d.val, 16), (a.val, 10), (i.toNat, 0)]) 0x01000000 [(g.val, 29, 3), (d.val, 16, 6), (a.val, 10, 6), (i.toNat, 0, 10)]
      [(29, 3), (16, 6), (10, 6), (0, 10)] := packed (k := 0x01000000) (fs := [(g.val, 29, 3), (d.val, 16, 6), (a.val, 10, 6), (i.toNat, 0, 10)]) ⟨g.isLt, d.isLt, a.isLt, i.isLt, trivial⟩ rfl rfl rfl (by decide)
  revert hw
  show _ → decodeBytes ([pack 0x01000000 [(g.val, 29), (d.val, 16), (a.val, 10), (i.toNat, 0)]].flatMap bytesOfWord ++ rest) = _
  generalize pack 0x01000000 [(g.val, 29), (d.val, 16), (a.val, 10), (i.toNat, 0)] = wd
  intro ⟨hlt, hh, hp⟩
  have h0 : fld wd 29 3 = g.val := hh.1
  have h1 : fld wd 16 6 = d.val := hh.2.1
  have h2 : fld wd 10 6 = a.val := hh.2.2.1
  have h3 : fld wd 0 10 = i.toNat := hh.2.2.2.1
  have e0 : Fin.ofNat 8 (wd / 2 ^ 29) = g := finOf rfl h0
  have e1 : Fin.ofNat 64 (wd / 2 ^ 16) = d := finOf rfl h1
  have e2 : Fin.ofNat 64 (wd / 2 ^ 10) = a := finOf rfl h2
  have e3 : BitVec.ofNat 10 (wd / 2 ^ 0) = i := bitsOfField h3
  have hm : majorOf wd = 0x04 := hp 22 7 rfl
  have hn : i.toNat ≠ 0x200 := by
    intro e
    have : i = 0x200#10 := BitVec.eq_of_toNat_eq e
    subst this
    simp [Instr.wellFormed] at hwf
  exact decode_word rest hlt (by rw [literal10 hm (by decide), h3]; exact beq_false_of_ne hn)
    (decode_major (ne_zero_of_fld (hp 24 1 rfl) (by decide)) hm rfl
      (by rw [major04 _ _, dec04, h3, e0, e1, e2, e3]; simp [hn]) hwf)
theorem andImmLiteral (g : Fin 8) (d : Fin 64) (a : Fin 64) (lit : Word) : Statement (.andImmLiteral g d a lit) := by
  intro _ hwf rest
  have hw : Packed (pack 0x01000200 [(g.val, 29), (d.val, 16), (a.val, 10)]) 0x01000200 [(g.val, 29, 3), (d.val, 16, 6), (a.val, 10, 6)]
      [(29, 3), (16, 6), (10, 6)] := packed (k := 0x01000200) (fs := [(g.val, 29, 3), (d.val, 16, 6), (a.val, 10, 6)]) ⟨g.isLt, d.isLt, a.isLt, trivial⟩ rfl rfl rfl (by decide)
  revert hw
  show _ → decodeBytes ([pack 0x01000200 [(g.val, 29), (d.val, 16), (a.val, 10)], lit.toNat].flatMap bytesOfWord ++ rest) = _
  generalize pack 0x01000200 [(g.val, 29), (d.val, 16), (a.val, 10)] = wd
  intro ⟨hlt, hh, hp⟩
  have h0 : fld wd 29 3 = g.val := hh.1
  have h1 : fld wd 16 6 = d.val := hh.2.1
  have h2 : fld wd 10 6 = a.val := hh.2.2.1
  have e0 : Fin.ofNat 8 (wd / 2 ^ 29) = g := finOf rfl h0
  have e1 : Fin.ofNat 64 (wd / 2 ^ 16) = d := finOf rfl h1
  have e2 : Fin.ofNat 64 (wd / 2 ^ 10) = a := finOf rfl h2
  have hm : majorOf wd = 0x04 := hp 22 7 rfl
  have c0_10 : fld wd 0 10 = 512 := hp 0 10 rfl
  exact decode_literal rest hlt lit.isLt (by rw [literal10 hm (by decide), c0_10]; rfl)
    (decode_major (ne_zero_of_fld (hp 9 1 rfl) (by decide)) hm rfl
      (by rw [major04 _ _, dec04, c0_10, e0, e1, e2]; simp only [BitVec.ofNat_toNat, BitVec.setWidth_eq]; rfl) hwf)
theorem orImm (g : Fin 8) (d : Fin 64) (a : Fin 64) (i : BitVec 10) : Statement (.orImm g d a i) := by
  intro _ hwf rest
  have hw : Packed (pack 0x01400000 [(g.val, 29), (d.val, 16), (a.val, 10), (i.toNat, 0)]) 0x01400000 [(g.val, 29, 3), (d.val, 16, 6), (a.val, 10, 6), (i.toNat, 0, 10)]
      [(29, 3), (16, 6), (10, 6), (0, 10)] := packed (k := 0x01400000) (fs := [(g.val, 29, 3), (d.val, 16, 6), (a.val, 10, 6), (i.toNat, 0, 10)]) ⟨g.isLt, d.isLt, a.isLt, i.isLt, trivial⟩ rfl rfl rfl (by decide)
  revert hw
  show _ → decodeBytes ([pack 0x01400000 [(g.val, 29), (d.val, 16), (a.val, 10), (i.toNat, 0)]].flatMap bytesOfWord ++ rest) = _
  generalize pack 0x01400000 [(g.val, 29), (d.val, 16), (a.val, 10), (i.toNat, 0)] = wd
  intro ⟨hlt, hh, hp⟩
  have h0 : fld wd 29 3 = g.val := hh.1
  have h1 : fld wd 16 6 = d.val := hh.2.1
  have h2 : fld wd 10 6 = a.val := hh.2.2.1
  have h3 : fld wd 0 10 = i.toNat := hh.2.2.2.1
  have e0 : Fin.ofNat 8 (wd / 2 ^ 29) = g := finOf rfl h0
  have e1 : Fin.ofNat 64 (wd / 2 ^ 16) = d := finOf rfl h1
  have e2 : Fin.ofNat 64 (wd / 2 ^ 10) = a := finOf rfl h2
  have e3 : BitVec.ofNat 10 (wd / 2 ^ 0) = i := bitsOfField h3
  have hm : majorOf wd = 0x05 := hp 22 7 rfl
  have hn : i.toNat ≠ 0x200 := by
    intro e
    have : i = 0x200#10 := BitVec.eq_of_toNat_eq e
    subst this
    simp [Instr.wellFormed] at hwf
  exact decode_word rest hlt (by rw [literal10 hm (by decide), h3]; exact beq_false_of_ne hn)
    (decode_major (ne_zero_of_fld (hp 22 1 rfl) (by decide)) hm rfl
      (by rw [major05 _ _, dec05, h3, e0, e1, e2, e3]; simp [hn]) hwf)
theorem orImmLiteral (g : Fin 8) (d : Fin 64) (a : Fin 64) (lit : Word) : Statement (.orImmLiteral g d a lit) := by
  intro _ hwf rest
  have hw : Packed (pack 0x01400200 [(g.val, 29), (d.val, 16), (a.val, 10)]) 0x01400200 [(g.val, 29, 3), (d.val, 16, 6), (a.val, 10, 6)]
      [(29, 3), (16, 6), (10, 6)] := packed (k := 0x01400200) (fs := [(g.val, 29, 3), (d.val, 16, 6), (a.val, 10, 6)]) ⟨g.isLt, d.isLt, a.isLt, trivial⟩ rfl rfl rfl (by decide)
  revert hw
  show _ → decodeBytes ([pack 0x01400200 [(g.val, 29), (d.val, 16), (a.val, 10)], lit.toNat].flatMap bytesOfWord ++ rest) = _
  generalize pack 0x01400200 [(g.val, 29), (d.val, 16), (a.val, 10)] = wd
  intro ⟨hlt, hh, hp⟩
  have h0 : fld wd 29 3 = g.val := hh.1
  have h1 : fld wd 16 6 = d.val := hh.2.1
  have h2 : fld wd 10 6 = a.val := hh.2.2.1
  have e0 : Fin.ofNat 8 (wd / 2 ^ 29) = g := finOf rfl h0
  have e1 : Fin.ofNat 64 (wd / 2 ^ 16) = d := finOf rfl h1
  have e2 : Fin.ofNat 64 (wd / 2 ^ 10) = a := finOf rfl h2
  have hm : majorOf wd = 0x05 := hp 22 7 rfl
  have c0_10 : fld wd 0 10 = 512 := hp 0 10 rfl
  exact decode_literal rest hlt lit.isLt (by rw [literal10 hm (by decide), c0_10]; rfl)
    (decode_major (ne_zero_of_fld (hp 9 1 rfl) (by decide)) hm rfl
      (by rw [major05 _ _, dec05, c0_10, e0, e1, e2]; simp only [BitVec.ofNat_toNat, BitVec.setWidth_eq]; rfl) hwf)
theorem xorImm (g : Fin 8) (d : Fin 64) (a : Fin 64) (i : BitVec 10) : Statement (.xorImm g d a i) := by
  intro _ hwf rest
  have hw : Packed (pack 0x01800000 [(g.val, 29), (d.val, 16), (a.val, 10), (i.toNat, 0)]) 0x01800000 [(g.val, 29, 3), (d.val, 16, 6), (a.val, 10, 6), (i.toNat, 0, 10)]
      [(29, 3), (16, 6), (10, 6), (0, 10)] := packed (k := 0x01800000) (fs := [(g.val, 29, 3), (d.val, 16, 6), (a.val, 10, 6), (i.toNat, 0, 10)]) ⟨g.isLt, d.isLt, a.isLt, i.isLt, trivial⟩ rfl rfl rfl (by decide)
  revert hw
  show _ → decodeBytes ([pack 0x01800000 [(g.val, 29), (d.val, 16), (a.val, 10), (i.toNat, 0)]].flatMap bytesOfWord ++ rest) = _
  generalize pack 0x01800000 [(g.val, 29), (d.val, 16), (a.val, 10), (i.toNat, 0)] = wd
  intro ⟨hlt, hh, hp⟩
  have h0 : fld wd 29 3 = g.val := hh.1
  have h1 : fld wd 16 6 = d.val := hh.2.1
  have h2 : fld wd 10 6 = a.val := hh.2.2.1
  have h3 : fld wd 0 10 = i.toNat := hh.2.2.2.1
  have e0 : Fin.ofNat 8 (wd / 2 ^ 29) = g := finOf rfl h0
  have e1 : Fin.ofNat 64 (wd / 2 ^ 16) = d := finOf rfl h1
  have e2 : Fin.ofNat 64 (wd / 2 ^ 10) = a := finOf rfl h2
  have e3 : BitVec.ofNat 10 (wd / 2 ^ 0) = i := bitsOfField h3
  have hm : majorOf wd = 0x06 := hp 22 7 rfl
  have hn : i.toNat ≠ 0x200 := by
    intro e
    have : i = 0x200#10 := BitVec.eq_of_toNat_eq e
    subst this
    simp [Instr.wellFormed] at hwf
  exact decode_word rest hlt (by rw [literal10 hm (by decide), h3]; exact beq_false_of_ne hn)
    (decode_major (ne_zero_of_fld (hp 23 1 rfl) (by decide)) hm rfl
      (by rw [major06 _ _, dec06, h3, e0, e1, e2, e3]; simp [hn]) hwf)
theorem xorImmLiteral (g : Fin 8) (d : Fin 64) (a : Fin 64) (lit : Word) : Statement (.xorImmLiteral g d a lit) := by
  intro _ hwf rest
  have hw : Packed (pack 0x01800200 [(g.val, 29), (d.val, 16), (a.val, 10)]) 0x01800200 [(g.val, 29, 3), (d.val, 16, 6), (a.val, 10, 6)]
      [(29, 3), (16, 6), (10, 6)] := packed (k := 0x01800200) (fs := [(g.val, 29, 3), (d.val, 16, 6), (a.val, 10, 6)]) ⟨g.isLt, d.isLt, a.isLt, trivial⟩ rfl rfl rfl (by decide)
  revert hw
  show _ → decodeBytes ([pack 0x01800200 [(g.val, 29), (d.val, 16), (a.val, 10)], lit.toNat].flatMap bytesOfWord ++ rest) = _
  generalize pack 0x01800200 [(g.val, 29), (d.val, 16), (a.val, 10)] = wd
  intro ⟨hlt, hh, hp⟩
  have h0 : fld wd 29 3 = g.val := hh.1
  have h1 : fld wd 16 6 = d.val := hh.2.1
  have h2 : fld wd 10 6 = a.val := hh.2.2.1
  have e0 : Fin.ofNat 8 (wd / 2 ^ 29) = g := finOf rfl h0
  have e1 : Fin.ofNat 64 (wd / 2 ^ 16) = d := finOf rfl h1
  have e2 : Fin.ofNat 64 (wd / 2 ^ 10) = a := finOf rfl h2
  have hm : majorOf wd = 0x06 := hp 22 7 rfl
  have c0_10 : fld wd 0 10 = 512 := hp 0 10 rfl
  exact decode_literal rest hlt lit.isLt (by rw [literal10 hm (by decide), c0_10]; rfl)
    (decode_major (ne_zero_of_fld (hp 9 1 rfl) (by decide)) hm rfl
      (by rw [major06 _ _, dec06, c0_10, e0, e1, e2]; simp only [BitVec.ofNat_toNat, BitVec.setWidth_eq]; rfl) hwf)
theorem sllImm (g : Fin 8) (d : Fin 64) (a : Fin 64) (i : BitVec 10) : Statement (.sllImm g d a i) := by
  intro _ hwf rest
  have hw : Packed (pack 0x01C00000 [(g.val, 29), (d.val, 16), (a.val, 10), (i.toNat, 0)]) 0x01C00000 [(g.val, 29, 3), (d.val, 16, 6), (a.val, 10, 6), (i.toNat, 0, 10)]
      [(29, 3), (16, 6), (10, 6), (0, 10)] := packed (k := 0x01C00000) (fs := [(g.val, 29, 3), (d.val, 16, 6), (a.val, 10, 6), (i.toNat, 0, 10)]) ⟨g.isLt, d.isLt, a.isLt, i.isLt, trivial⟩ rfl rfl rfl (by decide)
  revert hw
  show _ → decodeBytes ([pack 0x01C00000 [(g.val, 29), (d.val, 16), (a.val, 10), (i.toNat, 0)]].flatMap bytesOfWord ++ rest) = _
  generalize pack 0x01C00000 [(g.val, 29), (d.val, 16), (a.val, 10), (i.toNat, 0)] = wd
  intro ⟨hlt, hh, hp⟩
  have h0 : fld wd 29 3 = g.val := hh.1
  have h1 : fld wd 16 6 = d.val := hh.2.1
  have h2 : fld wd 10 6 = a.val := hh.2.2.1
  have h3 : fld wd 0 10 = i.toNat := hh.2.2.2.1
  have e0 : Fin.ofNat 8 (wd / 2 ^ 29) = g := finOf rfl h0
  have e1 : Fin.ofNat 64 (wd / 2 ^ 16) = d := finOf rfl h1
  have e2 : Fin.ofNat 64 (wd / 2 ^ 10) = a := finOf rfl h2
  have e3 : BitVec.ofNat 10 (wd / 2 ^ 0) = i := bitsOfField h3
  have hm : majorOf wd = 0x07 := hp 22 7 rfl
  exact decode_word rest hlt (by unfold hasLiteral; rw [hm]; rfl)
    (decode_major (ne_zero_of_fld (hp 22 1 rfl) (by decide)) hm rfl
      (by rw [major07 _ _, dec07, e0, e1, e2, e3]) hwf)
theorem srlImm (g : Fin 8) (d : Fin 64) (a : Fin 64) (i : BitVec 10) : Statement (.srlImm g d a i) := by
  intro _ hwf rest
  have hw : Packed (pack 0x02000000 [(g.val, 29), (d.val, 16), (a.val, 10), (i.toNat, 0)]) 0x02000000 [(g.val, 29, 3), (d.val, 16, 6), (a.val, 10, 6), (i.toNat, 0, 10)]
      [(29, 3), (16, 6), (10, 6), (0, 10)] := packed (k := 0x02000000) (fs := [(g.val, 29, 3), (d.val, 16, 6), (a.val, 10, 6), (i.toNat, 0, 10)]) ⟨g.isLt, d.isLt, a.isLt, i.isLt, trivial⟩ rfl rfl rfl (by decide)
  revert hw
  show _ → decodeBytes ([pack 0x02000000 [(g.val, 29), (d.val, 16), (a.val, 10), (i.toNat, 0)]].flatMap bytesOfWord ++ rest) = _
  generalize pack 0x02000000 [(g.val, 29), (d.val, 16), (a.val, 10), (i.toNat, 0)] = wd
  intro ⟨hlt, hh, hp⟩
  have h0 : fld wd 29 3 = g.val := hh.1
  have h1 : fld wd 16 6 = d.val := hh.2.1
  have h2 : fld wd 10 6 = a.val := hh.2.2.1
  have h3 : fld wd 0 10 = i.toNat := hh.2.2.2.1
  have e0 : Fin.ofNat 8 (wd / 2 ^ 29) = g := finOf rfl h0
  have e1 : Fin.ofNat 64 (wd / 2 ^ 16) = d := finOf rfl h1
  have e2 : Fin.ofNat 64 (wd / 2 ^ 10) = a := finOf rfl h2
  have e3 : BitVec.ofNat 10 (wd / 2 ^ 0) = i := bitsOfField h3
  have hm : majorOf wd = 0x08 := hp 22 7 rfl
  exact decode_word rest hlt (by unfold hasLiteral; rw [hm]; rfl)
    (decode_major (ne_zero_of_fld (hp 25 1 rfl) (by decide)) hm rfl
      (by rw [major08 _ _, dec08, e0, e1, e2, e3]) hwf)
theorem sraImm (g : Fin 8) (d : Fin 64) (a : Fin 64) (i : BitVec 10) : Statement (.sraImm g d a i) := by
  intro _ hwf rest
  have hw : Packed (pack 0x02400000 [(g.val, 29), (d.val, 16), (a.val, 10), (i.toNat, 0)]) 0x02400000 [(g.val, 29, 3), (d.val, 16, 6), (a.val, 10, 6), (i.toNat, 0, 10)]
      [(29, 3), (16, 6), (10, 6), (0, 10)] := packed (k := 0x02400000) (fs := [(g.val, 29, 3), (d.val, 16, 6), (a.val, 10, 6), (i.toNat, 0, 10)]) ⟨g.isLt, d.isLt, a.isLt, i.isLt, trivial⟩ rfl rfl rfl (by decide)
  revert hw
  show _ → decodeBytes ([pack 0x02400000 [(g.val, 29), (d.val, 16), (a.val, 10), (i.toNat, 0)]].flatMap bytesOfWord ++ rest) = _
  generalize pack 0x02400000 [(g.val, 29), (d.val, 16), (a.val, 10), (i.toNat, 0)] = wd
  intro ⟨hlt, hh, hp⟩
  have h0 : fld wd 29 3 = g.val := hh.1
  have h1 : fld wd 16 6 = d.val := hh.2.1
  have h2 : fld wd 10 6 = a.val := hh.2.2.1
  have h3 : fld wd 0 10 = i.toNat := hh.2.2.2.1
  have e0 : Fin.ofNat 8 (wd / 2 ^ 29) = g := finOf rfl h0
  have e1 : Fin.ofNat 64 (wd / 2 ^ 16) = d := finOf rfl h1
  have e2 : Fin.ofNat 64 (wd / 2 ^ 10) = a := finOf rfl h2
  have e3 : BitVec.ofNat 10 (wd / 2 ^ 0) = i := bitsOfField h3
  have hm : majorOf wd = 0x09 := hp 22 7 rfl
  exact decode_word rest hlt (by unfold hasLiteral; rw [hm]; rfl)
    (decode_major (ne_zero_of_fld (hp 22 1 rfl) (by decide)) hm rfl
      (by rw [major09 _ _, dec09, e0, e1, e2, e3]) hwf)
theorem rotImm (g : Fin 8) (d : Fin 64) (a : Fin 64) (i : BitVec 10) : Statement (.rotImm g d a i) := by
  intro _ hwf rest
  have hw : Packed (pack 0x02800000 [(g.val, 29), (d.val, 16), (a.val, 10), (i.toNat, 0)]) 0x02800000 [(g.val, 29, 3), (d.val, 16, 6), (a.val, 10, 6), (i.toNat, 0, 10)]
      [(29, 3), (16, 6), (10, 6), (0, 10)] := packed (k := 0x02800000) (fs := [(g.val, 29, 3), (d.val, 16, 6), (a.val, 10, 6), (i.toNat, 0, 10)]) ⟨g.isLt, d.isLt, a.isLt, i.isLt, trivial⟩ rfl rfl rfl (by decide)
  revert hw
  show _ → decodeBytes ([pack 0x02800000 [(g.val, 29), (d.val, 16), (a.val, 10), (i.toNat, 0)]].flatMap bytesOfWord ++ rest) = _
  generalize pack 0x02800000 [(g.val, 29), (d.val, 16), (a.val, 10), (i.toNat, 0)] = wd
  intro ⟨hlt, hh, hp⟩
  have h0 : fld wd 29 3 = g.val := hh.1
  have h1 : fld wd 16 6 = d.val := hh.2.1
  have h2 : fld wd 10 6 = a.val := hh.2.2.1
  have h3 : fld wd 0 10 = i.toNat := hh.2.2.2.1
  have e0 : Fin.ofNat 8 (wd / 2 ^ 29) = g := finOf rfl h0
  have e1 : Fin.ofNat 64 (wd / 2 ^ 16) = d := finOf rfl h1
  have e2 : Fin.ofNat 64 (wd / 2 ^ 10) = a := finOf rfl h2
  have e3 : BitVec.ofNat 10 (wd / 2 ^ 0) = i := bitsOfField h3
  have hm : majorOf wd = 0x0A := hp 22 7 rfl
  exact decode_word rest hlt (by unfold hasLiteral; rw [hm]; rfl)
    (decode_major (ne_zero_of_fld (hp 23 1 rfl) (by decide)) hm rfl
      (by rw [major0A _ _, dec0A, e0, e1, e2, e3]) hwf)
theorem li (g : Fin 8) (d : Fin 64) (i : BitVec 10) : Statement (.li g d i) := by
  intro _ hwf rest
  have hw : Packed (pack 0x02C00000 [(g.val, 29), (d.val, 16), (i.toNat, 0)]) 0x02C00000 [(g.val, 29, 3), (d.val, 16, 6), (i.toNat, 0, 10)]
      [(29, 3), (16, 6), (0, 10)] := packed (k := 0x02C00000) (fs := [(g.val, 29, 3), (d.val, 16, 6), (i.toNat, 0, 10)]) ⟨g.isLt, d.isLt, i.isLt, trivial⟩ rfl rfl rfl (by decide)
  revert hw
  show _ → decodeBytes ([pack 0x02C00000 [(g.val, 29), (d.val, 16), (i.toNat, 0)]].flatMap bytesOfWord ++ rest) = _
  generalize pack 0x02C00000 [(g.val, 29), (d.val, 16), (i.toNat, 0)] = wd
  intro ⟨hlt, hh, hp⟩
  have h0 : fld wd 29 3 = g.val := hh.1
  have h1 : fld wd 16 6 = d.val := hh.2.1
  have h2 : fld wd 0 10 = i.toNat := hh.2.2.1
  have e0 : Fin.ofNat 8 (wd / 2 ^ 29) = g := finOf rfl h0
  have e1 : Fin.ofNat 64 (wd / 2 ^ 16) = d := finOf rfl h1
  have e2 : BitVec.ofNat 10 (wd / 2 ^ 0) = i := bitsOfField h2
  have hm : majorOf wd = 0x0B := hp 22 7 rfl
  have c10_6 : fld wd 10 6 = 0 := hp 10 6 rfl
  have hn : i.toNat ≠ 0x200 := by
    intro e
    have : i = 0x200#10 := BitVec.eq_of_toNat_eq e
    subst this
    simp [Instr.wellFormed] at hwf
  exact decode_word rest hlt (by rw [literal10 hm (by decide), h2]; exact beq_false_of_ne hn)
    (decode_major (ne_zero_of_fld (hp 22 1 rfl) (by decide)) hm rfl
      (by rw [major0B _ _, dec0B, h2, c10_6, e0, e1, e2]; simp [hn]) hwf)
theorem liLiteral (g : Fin 8) (d : Fin 64) (lit : Word) : Statement (.liLiteral g d lit) := by
  intro _ hwf rest
  have hw : Packed (pack 0x02C00200 [(g.val, 29), (d.val, 16)]) 0x02C00200 [(g.val, 29, 3), (d.val, 16, 6)]
      [(29, 3), (16, 6)] := packed (k := 0x02C00200) (fs := [(g.val, 29, 3), (d.val, 16, 6)]) ⟨g.isLt, d.isLt, trivial⟩ rfl rfl rfl (by decide)
  revert hw
  show _ → decodeBytes ([pack 0x02C00200 [(g.val, 29), (d.val, 16)], lit.toNat].flatMap bytesOfWord ++ rest) = _
  generalize pack 0x02C00200 [(g.val, 29), (d.val, 16)] = wd
  intro ⟨hlt, hh, hp⟩
  have h0 : fld wd 29 3 = g.val := hh.1
  have h1 : fld wd 16 6 = d.val := hh.2.1
  have e0 : Fin.ofNat 8 (wd / 2 ^ 29) = g := finOf rfl h0
  have e1 : Fin.ofNat 64 (wd / 2 ^ 16) = d := finOf rfl h1
  have hm : majorOf wd = 0x0B := hp 22 7 rfl
  have c0_10 : fld wd 0 10 = 512 := hp 0 10 rfl
  have c10_6 : fld wd 10 6 = 0 := hp 10 6 rfl
  exact decode_literal rest hlt lit.isLt (by rw [literal10 hm (by decide), c0_10]; rfl)
    (decode_major (ne_zero_of_fld (hp 9 1 rfl) (by decide)) hm rfl
      (by rw [major0B _ _, dec0B, c0_10, c10_6, e0, e1]; simp only [BitVec.ofNat_toNat, BitVec.setWidth_eq]; rfl) hwf)
theorem cmpi (g : Fin 8) (c : Fin 8) (h : Fin 8) (a : Fin 64) (i : BitVec 10) : Statement (.cmpi g c h a i) := by
  intro _ hwf rest
  have hw : Packed (pack 0x03000000 [(g.val, 29), (c.val, 19), (h.val, 16), (a.val, 10), (i.toNat, 0)]) 0x03000000 [(g.val, 29, 3), (c.val, 19, 3), (h.val, 16, 3), (a.val, 10, 6), (i.toNat, 0, 10)]
      [(29, 3), (19, 3), (16, 3), (10, 6), (0, 10)] := packed (k := 0x03000000) (fs := [(g.val, 29, 3), (c.val, 19, 3), (h.val, 16, 3), (a.val, 10, 6), (i.toNat, 0, 10)]) ⟨g.isLt, c.isLt, h.isLt, a.isLt, i.isLt, trivial⟩ rfl rfl rfl (by decide)
  revert hw
  show _ → decodeBytes ([pack 0x03000000 [(g.val, 29), (c.val, 19), (h.val, 16), (a.val, 10), (i.toNat, 0)]].flatMap bytesOfWord ++ rest) = _
  generalize pack 0x03000000 [(g.val, 29), (c.val, 19), (h.val, 16), (a.val, 10), (i.toNat, 0)] = wd
  intro ⟨hlt, hh, hp⟩
  have h0 : fld wd 29 3 = g.val := hh.1
  have h1 : fld wd 19 3 = c.val := hh.2.1
  have h2 : fld wd 16 3 = h.val := hh.2.2.1
  have h3 : fld wd 10 6 = a.val := hh.2.2.2.1
  have h4 : fld wd 0 10 = i.toNat := hh.2.2.2.2.1
  have e0 : Fin.ofNat 8 (wd / 2 ^ 29) = g := finOf rfl h0
  have e1 : Fin.ofNat 8 (wd / 2 ^ 19) = c := finOf rfl h1
  have e2 : Fin.ofNat 8 (wd / 2 ^ 16) = h := finOf rfl h2
  have e3 : Fin.ofNat 64 (wd / 2 ^ 10) = a := finOf rfl h3
  have e4 : BitVec.ofNat 10 (wd / 2 ^ 0) = i := bitsOfField h4
  have hm : majorOf wd = 0x0C := hp 22 7 rfl
  have hn : i.toNat ≠ 0x200 := by
    intro e
    have : i = 0x200#10 := BitVec.eq_of_toNat_eq e
    subst this
    simp [Instr.wellFormed] at hwf
  exact decode_word rest hlt (by rw [literal10 hm (by decide), h4]; exact beq_false_of_ne hn)
    (decode_major (ne_zero_of_fld (hp 24 1 rfl) (by decide)) hm rfl
      (by rw [major0C _ _, dec0C, h4, e0, e1, e2, e3, e4]; simp [hn]) hwf)
theorem cmpiLiteral (g : Fin 8) (c : Fin 8) (h : Fin 8) (a : Fin 64) (lit : Word) : Statement (.cmpiLiteral g c h a lit) := by
  intro _ hwf rest
  have hw : Packed (pack 0x03000200 [(g.val, 29), (c.val, 19), (h.val, 16), (a.val, 10)]) 0x03000200 [(g.val, 29, 3), (c.val, 19, 3), (h.val, 16, 3), (a.val, 10, 6)]
      [(29, 3), (19, 3), (16, 3), (10, 6)] := packed (k := 0x03000200) (fs := [(g.val, 29, 3), (c.val, 19, 3), (h.val, 16, 3), (a.val, 10, 6)]) ⟨g.isLt, c.isLt, h.isLt, a.isLt, trivial⟩ rfl rfl rfl (by decide)
  revert hw
  show _ → decodeBytes ([pack 0x03000200 [(g.val, 29), (c.val, 19), (h.val, 16), (a.val, 10)], lit.toNat].flatMap bytesOfWord ++ rest) = _
  generalize pack 0x03000200 [(g.val, 29), (c.val, 19), (h.val, 16), (a.val, 10)] = wd
  intro ⟨hlt, hh, hp⟩
  have h0 : fld wd 29 3 = g.val := hh.1
  have h1 : fld wd 19 3 = c.val := hh.2.1
  have h2 : fld wd 16 3 = h.val := hh.2.2.1
  have h3 : fld wd 10 6 = a.val := hh.2.2.2.1
  have e0 : Fin.ofNat 8 (wd / 2 ^ 29) = g := finOf rfl h0
  have e1 : Fin.ofNat 8 (wd / 2 ^ 19) = c := finOf rfl h1
  have e2 : Fin.ofNat 8 (wd / 2 ^ 16) = h := finOf rfl h2
  have e3 : Fin.ofNat 64 (wd / 2 ^ 10) = a := finOf rfl h3
  have hm : majorOf wd = 0x0C := hp 22 7 rfl
  have c0_10 : fld wd 0 10 = 512 := hp 0 10 rfl
  exact decode_literal rest hlt lit.isLt (by rw [literal10 hm (by decide), c0_10]; rfl)
    (decode_major (ne_zero_of_fld (hp 9 1 rfl) (by decide)) hm rfl
      (by rw [major0C _ _, dec0C, c0_10, e0, e1, e2, e3]; simp only [BitVec.ofNat_toNat, BitVec.setWidth_eq]; rfl) hwf)
theorem cmp (g : Fin 8) (c : Fin 8) (h : Fin 8) (a : Fin 64) (b : Fin 64) : Statement (.cmp g c h a b) := by
  intro _ hwf rest
  have hw : Packed (pack 0x03400000 [(g.val, 29), (c.val, 19), (h.val, 16), (a.val, 10), (b.val, 4)]) 0x03400000 [(g.val, 29, 3), (c.val, 19, 3), (h.val, 16, 3), (a.val, 10, 6), (b.val, 4, 6)]
      [(29, 3), (19, 3), (16, 3), (10, 6), (4, 6)] := packed (k := 0x03400000) (fs := [(g.val, 29, 3), (c.val, 19, 3), (h.val, 16, 3), (a.val, 10, 6), (b.val, 4, 6)]) ⟨g.isLt, c.isLt, h.isLt, a.isLt, b.isLt, trivial⟩ rfl rfl rfl (by decide)
  revert hw
  show _ → decodeBytes ([pack 0x03400000 [(g.val, 29), (c.val, 19), (h.val, 16), (a.val, 10), (b.val, 4)]].flatMap bytesOfWord ++ rest) = _
  generalize pack 0x03400000 [(g.val, 29), (c.val, 19), (h.val, 16), (a.val, 10), (b.val, 4)] = wd
  intro ⟨hlt, hh, hp⟩
  have h0 : fld wd 29 3 = g.val := hh.1
  have h1 : fld wd 19 3 = c.val := hh.2.1
  have h2 : fld wd 16 3 = h.val := hh.2.2.1
  have h3 : fld wd 10 6 = a.val := hh.2.2.2.1
  have h4 : fld wd 4 6 = b.val := hh.2.2.2.2.1
  have e0 : Fin.ofNat 8 (wd / 2 ^ 29) = g := finOf rfl h0
  have e1 : Fin.ofNat 8 (wd / 2 ^ 19) = c := finOf rfl h1
  have e2 : Fin.ofNat 8 (wd / 2 ^ 16) = h := finOf rfl h2
  have e3 : Fin.ofNat 64 (wd / 2 ^ 10) = a := finOf rfl h3
  have e4 : Fin.ofNat 64 (wd / 2 ^ 4) = b := finOf rfl h4
  have hm : majorOf wd = 0x0D := hp 22 7 rfl
  have c0_4 : fld wd 0 4 = 0 := hp 0 4 rfl
  exact decode_word rest hlt (by unfold hasLiteral; rw [hm]; rfl)
    (decode_major (ne_zero_of_fld (hp 22 1 rfl) (by decide)) hm rfl
      (by rw [major0D _ _, dec0D, c0_4, e0, e1, e2, e3, e4]; rfl) hwf)
theorem cmpAnd (g : Fin 8) (c : Fin 8) (h : Fin 8) (a : Fin 64) (b : Fin 64) : Statement (.cmpAnd g c h a b) := by
  intro _ hwf rest
  have hw : Packed (pack 0x03400001 [(g.val, 29), (c.val, 19), (h.val, 16), (a.val, 10), (b.val, 4)]) 0x03400001 [(g.val, 29, 3), (c.val, 19, 3), (h.val, 16, 3), (a.val, 10, 6), (b.val, 4, 6)]
      [(29, 3), (19, 3), (16, 3), (10, 6), (4, 6)] := packed (k := 0x03400001) (fs := [(g.val, 29, 3), (c.val, 19, 3), (h.val, 16, 3), (a.val, 10, 6), (b.val, 4, 6)]) ⟨g.isLt, c.isLt, h.isLt, a.isLt, b.isLt, trivial⟩ rfl rfl rfl (by decide)
  revert hw
  show _ → decodeBytes ([pack 0x03400001 [(g.val, 29), (c.val, 19), (h.val, 16), (a.val, 10), (b.val, 4)]].flatMap bytesOfWord ++ rest) = _
  generalize pack 0x03400001 [(g.val, 29), (c.val, 19), (h.val, 16), (a.val, 10), (b.val, 4)] = wd
  intro ⟨hlt, hh, hp⟩
  have h0 : fld wd 29 3 = g.val := hh.1
  have h1 : fld wd 19 3 = c.val := hh.2.1
  have h2 : fld wd 16 3 = h.val := hh.2.2.1
  have h3 : fld wd 10 6 = a.val := hh.2.2.2.1
  have h4 : fld wd 4 6 = b.val := hh.2.2.2.2.1
  have e0 : Fin.ofNat 8 (wd / 2 ^ 29) = g := finOf rfl h0
  have e1 : Fin.ofNat 8 (wd / 2 ^ 19) = c := finOf rfl h1
  have e2 : Fin.ofNat 8 (wd / 2 ^ 16) = h := finOf rfl h2
  have e3 : Fin.ofNat 64 (wd / 2 ^ 10) = a := finOf rfl h3
  have e4 : Fin.ofNat 64 (wd / 2 ^ 4) = b := finOf rfl h4
  have hm : majorOf wd = 0x0D := hp 22 7 rfl
  have c0_4 : fld wd 0 4 = 1 := hp 0 4 rfl
  exact decode_word rest hlt (by unfold hasLiteral; rw [hm]; rfl)
    (decode_major (ne_zero_of_fld (hp 0 1 rfl) (by decide)) hm rfl
      (by rw [major0D _ _, dec0D, c0_4, e0, e1, e2, e3, e4]; rfl) hwf)
theorem cmpOr (g : Fin 8) (c : Fin 8) (h : Fin 8) (a : Fin 64) (b : Fin 64) : Statement (.cmpOr g c h a b) := by
  intro _ hwf rest
  have hw : Packed (pack 0x03400002 [(g.val, 29), (c.val, 19), (h.val, 16), (a.val, 10), (b.val, 4)]) 0x03400002 [(g.val, 29, 3), (c.val, 19, 3), (h.val, 16, 3), (a.val, 10, 6), (b.val, 4, 6)]
      [(29, 3), (19, 3), (16, 3), (10, 6), (4, 6)] := packed (k := 0x03400002) (fs := [(g.val, 29, 3), (c.val, 19, 3), (h.val, 16, 3), (a.val, 10, 6), (b.val, 4, 6)]) ⟨g.isLt, c.isLt, h.isLt, a.isLt, b.isLt, trivial⟩ rfl rfl rfl (by decide)
  revert hw
  show _ → decodeBytes ([pack 0x03400002 [(g.val, 29), (c.val, 19), (h.val, 16), (a.val, 10), (b.val, 4)]].flatMap bytesOfWord ++ rest) = _
  generalize pack 0x03400002 [(g.val, 29), (c.val, 19), (h.val, 16), (a.val, 10), (b.val, 4)] = wd
  intro ⟨hlt, hh, hp⟩
  have h0 : fld wd 29 3 = g.val := hh.1
  have h1 : fld wd 19 3 = c.val := hh.2.1
  have h2 : fld wd 16 3 = h.val := hh.2.2.1
  have h3 : fld wd 10 6 = a.val := hh.2.2.2.1
  have h4 : fld wd 4 6 = b.val := hh.2.2.2.2.1
  have e0 : Fin.ofNat 8 (wd / 2 ^ 29) = g := finOf rfl h0
  have e1 : Fin.ofNat 8 (wd / 2 ^ 19) = c := finOf rfl h1
  have e2 : Fin.ofNat 8 (wd / 2 ^ 16) = h := finOf rfl h2
  have e3 : Fin.ofNat 64 (wd / 2 ^ 10) = a := finOf rfl h3
  have e4 : Fin.ofNat 64 (wd / 2 ^ 4) = b := finOf rfl h4
  have hm : majorOf wd = 0x0D := hp 22 7 rfl
  have c0_4 : fld wd 0 4 = 2 := hp 0 4 rfl
  exact decode_word rest hlt (by unfold hasLiteral; rw [hm]; rfl)
    (decode_major (ne_zero_of_fld (hp 1 1 rfl) (by decide)) hm rfl
      (by rw [major0D _ _, dec0D, c0_4, e0, e1, e2, e3, e4]; rfl) hwf)
theorem gnot (g : Fin 8) (h : Fin 8) (j : Fin 8) : Statement (.gnot g h j) := by
  intro _ hwf rest
  have hw : Packed (pack 0x03800000 [(g.val, 29), (h.val, 16), (j.val, 10)]) 0x03800000 [(g.val, 29, 3), (h.val, 16, 3), (j.val, 10, 3)]
      [(29, 3), (16, 3), (10, 3)] := packed (k := 0x03800000) (fs := [(g.val, 29, 3), (h.val, 16, 3), (j.val, 10, 3)]) ⟨g.isLt, h.isLt, j.isLt, trivial⟩ rfl rfl rfl (by decide)
  revert hw
  show _ → decodeBytes ([pack 0x03800000 [(g.val, 29), (h.val, 16), (j.val, 10)]].flatMap bytesOfWord ++ rest) = _
  generalize pack 0x03800000 [(g.val, 29), (h.val, 16), (j.val, 10)] = wd
  intro ⟨hlt, hh, hp⟩
  have h0 : fld wd 29 3 = g.val := hh.1
  have h1 : fld wd 16 3 = h.val := hh.2.1
  have h2 : fld wd 10 3 = j.val := hh.2.2.1
  have e0 : Fin.ofNat 8 (wd / 2 ^ 29) = g := finOf rfl h0
  have e1 : Fin.ofNat 8 (wd / 2 ^ 16) = h := finOf rfl h1
  have e2 : Fin.ofNat 8 (wd / 2 ^ 10) = j := finOf rfl h2
  have hm : majorOf wd = 0x0E := hp 22 7 rfl
  have c0_4 : fld wd 0 4 = 0 := hp 0 4 rfl
  have c0_10 : fld wd 0 10 = 0 := hp 0 10 rfl
  have c7_3 : fld wd 7 3 = 0 := hp 7 3 rfl
  have c13_3 : fld wd 13 3 = 0 := hp 13 3 rfl
  have c19_3 : fld wd 19 3 = 0 := hp 19 3 rfl
  exact decode_word rest hlt (by unfold hasLiteral; rw [hm]; rfl)
    (decode_major (ne_zero_of_fld (hp 23 1 rfl) (by decide)) hm rfl
      (by rw [major0E _ _, dec0E, c0_4, c0_10, c7_3, c13_3, c19_3, e0, e1, e2]; rfl) hwf)
theorem gand (g : Fin 8) (h : Fin 8) (j : Fin 8) (k : Fin 8) : Statement (.gand g h j k) := by
  intro _ hwf rest
  have hw : Packed (pack 0x03800001 [(g.val, 29), (h.val, 16), (j.val, 10), (k.val, 4)]) 0x03800001 [(g.val, 29, 3), (h.val, 16, 3), (j.val, 10, 3), (k.val, 4, 3)]
      [(29, 3), (16, 3), (10, 3), (4, 3)] := packed (k := 0x03800001) (fs := [(g.val, 29, 3), (h.val, 16, 3), (j.val, 10, 3), (k.val, 4, 3)]) ⟨g.isLt, h.isLt, j.isLt, k.isLt, trivial⟩ rfl rfl rfl (by decide)
  revert hw
  show _ → decodeBytes ([pack 0x03800001 [(g.val, 29), (h.val, 16), (j.val, 10), (k.val, 4)]].flatMap bytesOfWord ++ rest) = _
  generalize pack 0x03800001 [(g.val, 29), (h.val, 16), (j.val, 10), (k.val, 4)] = wd
  intro ⟨hlt, hh, hp⟩
  have h0 : fld wd 29 3 = g.val := hh.1
  have h1 : fld wd 16 3 = h.val := hh.2.1
  have h2 : fld wd 10 3 = j.val := hh.2.2.1
  have h3 : fld wd 4 3 = k.val := hh.2.2.2.1
  have e0 : Fin.ofNat 8 (wd / 2 ^ 29) = g := finOf rfl h0
  have e1 : Fin.ofNat 8 (wd / 2 ^ 16) = h := finOf rfl h1
  have e2 : Fin.ofNat 8 (wd / 2 ^ 10) = j := finOf rfl h2
  have e3 : Fin.ofNat 8 (wd / 2 ^ 4) = k := finOf rfl h3
  have hm : majorOf wd = 0x0E := hp 22 7 rfl
  have c0_4 : fld wd 0 4 = 1 := hp 0 4 rfl
  have n0_10_0 : fld wd 0 10 ≠ 0 := fld_ne (i := 0) (by decide) (hp 0 1 rfl) (by decide)
  have c7_3 : fld wd 7 3 = 0 := hp 7 3 rfl
  have c13_3 : fld wd 13 3 = 0 := hp 13 3 rfl
  have c19_3 : fld wd 19 3 = 0 := hp 19 3 rfl
  exact decode_word rest hlt (by unfold hasLiteral; rw [hm]; rfl)
    (decode_major (ne_zero_of_fld (hp 0 1 rfl) (by decide)) hm rfl
      (by rw [major0E _ _, dec0E, c0_4, c7_3, c13_3, c19_3, e0, e1, e2, e3]; simp [n0_10_0]) hwf)
theorem gor (g : Fin 8) (h : Fin 8) (j : Fin 8) (k : Fin 8) : Statement (.gor g h j k) := by
  intro _ hwf rest
  have hw : Packed (pack 0x03800002 [(g.val, 29), (h.val, 16), (j.val, 10), (k.val, 4)]) 0x03800002 [(g.val, 29, 3), (h.val, 16, 3), (j.val, 10, 3), (k.val, 4, 3)]
      [(29, 3), (16, 3), (10, 3), (4, 3)] := packed (k := 0x03800002) (fs := [(g.val, 29, 3), (h.val, 16, 3), (j.val, 10, 3), (k.val, 4, 3)]) ⟨g.isLt, h.isLt, j.isLt, k.isLt, trivial⟩ rfl rfl rfl (by decide)
  revert hw
  show _ → decodeBytes ([pack 0x03800002 [(g.val, 29), (h.val, 16), (j.val, 10), (k.val, 4)]].flatMap bytesOfWord ++ rest) = _
  generalize pack 0x03800002 [(g.val, 29), (h.val, 16), (j.val, 10), (k.val, 4)] = wd
  intro ⟨hlt, hh, hp⟩
  have h0 : fld wd 29 3 = g.val := hh.1
  have h1 : fld wd 16 3 = h.val := hh.2.1
  have h2 : fld wd 10 3 = j.val := hh.2.2.1
  have h3 : fld wd 4 3 = k.val := hh.2.2.2.1
  have e0 : Fin.ofNat 8 (wd / 2 ^ 29) = g := finOf rfl h0
  have e1 : Fin.ofNat 8 (wd / 2 ^ 16) = h := finOf rfl h1
  have e2 : Fin.ofNat 8 (wd / 2 ^ 10) = j := finOf rfl h2
  have e3 : Fin.ofNat 8 (wd / 2 ^ 4) = k := finOf rfl h3
  have hm : majorOf wd = 0x0E := hp 22 7 rfl
  have c0_4 : fld wd 0 4 = 2 := hp 0 4 rfl
  have n0_10_0 : fld wd 0 10 ≠ 0 := fld_ne (i := 1) (by decide) (hp 1 1 rfl) (by decide)
  have c7_3 : fld wd 7 3 = 0 := hp 7 3 rfl
  have c13_3 : fld wd 13 3 = 0 := hp 13 3 rfl
  have c19_3 : fld wd 19 3 = 0 := hp 19 3 rfl
  exact decode_word rest hlt (by unfold hasLiteral; rw [hm]; rfl)
    (decode_major (ne_zero_of_fld (hp 1 1 rfl) (by decide)) hm rfl
      (by rw [major0E _ _, dec0E, c0_4, c7_3, c13_3, c19_3, e0, e1, e2, e3]; simp [n0_10_0]) hwf)
theorem sel (g : Fin 8) (d : Fin 64) (a : Fin 64) (b : Fin 64) (h : Fin 8) : Statement (.sel g d a b h) := by
  intro _ hwf rest
  have hw : Packed (pack 0x03C00000 [(g.val, 29), (d.val, 16), (a.val, 10), (b.val, 4), (h.val, 0)]) 0x03C00000 [(g.val, 29, 3), (d.val, 16, 6), (a.val, 10, 6), (b.val, 4, 6), (h.val, 0, 3)]
      [(29, 3), (16, 6), (10, 6), (4, 6), (0, 3)] := packed (k := 0x03C00000) (fs := [(g.val, 29, 3), (d.val, 16, 6), (a.val, 10, 6), (b.val, 4, 6), (h.val, 0, 3)]) ⟨g.isLt, d.isLt, a.isLt, b.isLt, h.isLt, trivial⟩ rfl rfl rfl (by decide)
  revert hw
  show _ → decodeBytes ([pack 0x03C00000 [(g.val, 29), (d.val, 16), (a.val, 10), (b.val, 4), (h.val, 0)]].flatMap bytesOfWord ++ rest) = _
  generalize pack 0x03C00000 [(g.val, 29), (d.val, 16), (a.val, 10), (b.val, 4), (h.val, 0)] = wd
  intro ⟨hlt, hh, hp⟩
  have h0 : fld wd 29 3 = g.val := hh.1
  have h1 : fld wd 16 6 = d.val := hh.2.1
  have h2 : fld wd 10 6 = a.val := hh.2.2.1
  have h3 : fld wd 4 6 = b.val := hh.2.2.2.1
  have h4 : fld wd 0 3 = h.val := hh.2.2.2.2.1
  have e0 : Fin.ofNat 8 (wd / 2 ^ 29) = g := finOf rfl h0
  have e1 : Fin.ofNat 64 (wd / 2 ^ 16) = d := finOf rfl h1
  have e2 : Fin.ofNat 64 (wd / 2 ^ 10) = a := finOf rfl h2
  have e3 : Fin.ofNat 64 (wd / 2 ^ 4) = b := finOf rfl h3
  have e4 : Fin.ofNat 8 (wd / 2 ^ 0) = h := finOf rfl h4
  have hm : majorOf wd = 0x0F := hp 22 7 rfl
  have c3_1 : fld wd 3 1 = 0 := hp 3 1 rfl
  exact decode_word rest hlt (by unfold hasLiteral; rw [hm]; rfl)
    (decode_major (ne_zero_of_fld (hp 22 1 rfl) (by decide)) hm rfl
      (by rw [major0F _ _, dec0F, c3_1, e0, e1, e2, e3, e4]; rfl) hwf)
theorem fadd (g : Fin 8) (d : Fin 64) (a : Fin 64) (b : Fin 64) : Statement (.fadd g d a b) := by
  intro _ hwf rest
  have hw : Packed (pack 0x04000000 [(g.val, 29), (d.val, 16), (a.val, 10), (b.val, 4)]) 0x04000000 [(g.val, 29, 3), (d.val, 16, 6), (a.val, 10, 6), (b.val, 4, 6)]
      [(29, 3), (16, 6), (10, 6), (4, 6)] := packed (k := 0x04000000) (fs := [(g.val, 29, 3), (d.val, 16, 6), (a.val, 10, 6), (b.val, 4, 6)]) ⟨g.isLt, d.isLt, a.isLt, b.isLt, trivial⟩ rfl rfl rfl (by decide)
  revert hw
  show _ → decodeBytes ([pack 0x04000000 [(g.val, 29), (d.val, 16), (a.val, 10), (b.val, 4)]].flatMap bytesOfWord ++ rest) = _
  generalize pack 0x04000000 [(g.val, 29), (d.val, 16), (a.val, 10), (b.val, 4)] = wd
  intro ⟨hlt, hh, hp⟩
  have h0 : fld wd 29 3 = g.val := hh.1
  have h1 : fld wd 16 6 = d.val := hh.2.1
  have h2 : fld wd 10 6 = a.val := hh.2.2.1
  have h3 : fld wd 4 6 = b.val := hh.2.2.2.1
  have e0 : Fin.ofNat 8 (wd / 2 ^ 29) = g := finOf rfl h0
  have e1 : Fin.ofNat 64 (wd / 2 ^ 16) = d := finOf rfl h1
  have e2 : Fin.ofNat 64 (wd / 2 ^ 10) = a := finOf rfl h2
  have e3 : Fin.ofNat 64 (wd / 2 ^ 4) = b := finOf rfl h3
  have hm : majorOf wd = 0x10 := hp 22 7 rfl
  have c0_4 : fld wd 0 4 = 0 := hp 0 4 rfl
  have n0_10_6 : fld wd 0 10 ≠ 6 := fld_ne (i := 1) (by decide) (hp 1 1 rfl) (by decide)
  exact decode_word rest hlt (by unfold hasLiteral; rw [hm]; rfl)
    (decode_major (ne_zero_of_fld (hp 26 1 rfl) (by decide)) hm rfl
      (by rw [major10 _ _, dec10, c0_4, e0, e1, e2, e3]; simp [n0_10_6]) hwf)
theorem fsub (g : Fin 8) (d : Fin 64) (a : Fin 64) (b : Fin 64) : Statement (.fsub g d a b) := by
  intro _ hwf rest
  have hw : Packed (pack 0x04000001 [(g.val, 29), (d.val, 16), (a.val, 10), (b.val, 4)]) 0x04000001 [(g.val, 29, 3), (d.val, 16, 6), (a.val, 10, 6), (b.val, 4, 6)]
      [(29, 3), (16, 6), (10, 6), (4, 6)] := packed (k := 0x04000001) (fs := [(g.val, 29, 3), (d.val, 16, 6), (a.val, 10, 6), (b.val, 4, 6)]) ⟨g.isLt, d.isLt, a.isLt, b.isLt, trivial⟩ rfl rfl rfl (by decide)
  revert hw
  show _ → decodeBytes ([pack 0x04000001 [(g.val, 29), (d.val, 16), (a.val, 10), (b.val, 4)]].flatMap bytesOfWord ++ rest) = _
  generalize pack 0x04000001 [(g.val, 29), (d.val, 16), (a.val, 10), (b.val, 4)] = wd
  intro ⟨hlt, hh, hp⟩
  have h0 : fld wd 29 3 = g.val := hh.1
  have h1 : fld wd 16 6 = d.val := hh.2.1
  have h2 : fld wd 10 6 = a.val := hh.2.2.1
  have h3 : fld wd 4 6 = b.val := hh.2.2.2.1
  have e0 : Fin.ofNat 8 (wd / 2 ^ 29) = g := finOf rfl h0
  have e1 : Fin.ofNat 64 (wd / 2 ^ 16) = d := finOf rfl h1
  have e2 : Fin.ofNat 64 (wd / 2 ^ 10) = a := finOf rfl h2
  have e3 : Fin.ofNat 64 (wd / 2 ^ 4) = b := finOf rfl h3
  have hm : majorOf wd = 0x10 := hp 22 7 rfl
  have c0_4 : fld wd 0 4 = 1 := hp 0 4 rfl
  have n0_10_6 : fld wd 0 10 ≠ 6 := fld_ne (i := 0) (by decide) (hp 0 1 rfl) (by decide)
  exact decode_word rest hlt (by unfold hasLiteral; rw [hm]; rfl)
    (decode_major (ne_zero_of_fld (hp 0 1 rfl) (by decide)) hm rfl
      (by rw [major10 _ _, dec10, c0_4, e0, e1, e2, e3]; simp [n0_10_6]) hwf)
theorem fmul (g : Fin 8) (d : Fin 64) (a : Fin 64) (b : Fin 64) : Statement (.fmul g d a b) := by
  intro _ hwf rest
  have hw : Packed (pack 0x04000002 [(g.val, 29), (d.val, 16), (a.val, 10), (b.val, 4)]) 0x04000002 [(g.val, 29, 3), (d.val, 16, 6), (a.val, 10, 6), (b.val, 4, 6)]
      [(29, 3), (16, 6), (10, 6), (4, 6)] := packed (k := 0x04000002) (fs := [(g.val, 29, 3), (d.val, 16, 6), (a.val, 10, 6), (b.val, 4, 6)]) ⟨g.isLt, d.isLt, a.isLt, b.isLt, trivial⟩ rfl rfl rfl (by decide)
  revert hw
  show _ → decodeBytes ([pack 0x04000002 [(g.val, 29), (d.val, 16), (a.val, 10), (b.val, 4)]].flatMap bytesOfWord ++ rest) = _
  generalize pack 0x04000002 [(g.val, 29), (d.val, 16), (a.val, 10), (b.val, 4)] = wd
  intro ⟨hlt, hh, hp⟩
  have h0 : fld wd 29 3 = g.val := hh.1
  have h1 : fld wd 16 6 = d.val := hh.2.1
  have h2 : fld wd 10 6 = a.val := hh.2.2.1
  have h3 : fld wd 4 6 = b.val := hh.2.2.2.1
  have e0 : Fin.ofNat 8 (wd / 2 ^ 29) = g := finOf rfl h0
  have e1 : Fin.ofNat 64 (wd / 2 ^ 16) = d := finOf rfl h1
  have e2 : Fin.ofNat 64 (wd / 2 ^ 10) = a := finOf rfl h2
  have e3 : Fin.ofNat 64 (wd / 2 ^ 4) = b := finOf rfl h3
  have hm : majorOf wd = 0x10 := hp 22 7 rfl
  have c0_4 : fld wd 0 4 = 2 := hp 0 4 rfl
  have n0_10_6 : fld wd 0 10 ≠ 6 := fld_ne (i := 2) (by decide) (hp 2 1 rfl) (by decide)
  exact decode_word rest hlt (by unfold hasLiteral; rw [hm]; rfl)
    (decode_major (ne_zero_of_fld (hp 1 1 rfl) (by decide)) hm rfl
      (by rw [major10 _ _, dec10, c0_4, e0, e1, e2, e3]; simp [n0_10_6]) hwf)
theorem fdiv (g : Fin 8) (d : Fin 64) (a : Fin 64) (b : Fin 64) : Statement (.fdiv g d a b) := by
  intro _ hwf rest
  have hw : Packed (pack 0x04000003 [(g.val, 29), (d.val, 16), (a.val, 10), (b.val, 4)]) 0x04000003 [(g.val, 29, 3), (d.val, 16, 6), (a.val, 10, 6), (b.val, 4, 6)]
      [(29, 3), (16, 6), (10, 6), (4, 6)] := packed (k := 0x04000003) (fs := [(g.val, 29, 3), (d.val, 16, 6), (a.val, 10, 6), (b.val, 4, 6)]) ⟨g.isLt, d.isLt, a.isLt, b.isLt, trivial⟩ rfl rfl rfl (by decide)
  revert hw
  show _ → decodeBytes ([pack 0x04000003 [(g.val, 29), (d.val, 16), (a.val, 10), (b.val, 4)]].flatMap bytesOfWord ++ rest) = _
  generalize pack 0x04000003 [(g.val, 29), (d.val, 16), (a.val, 10), (b.val, 4)] = wd
  intro ⟨hlt, hh, hp⟩
  have h0 : fld wd 29 3 = g.val := hh.1
  have h1 : fld wd 16 6 = d.val := hh.2.1
  have h2 : fld wd 10 6 = a.val := hh.2.2.1
  have h3 : fld wd 4 6 = b.val := hh.2.2.2.1
  have e0 : Fin.ofNat 8 (wd / 2 ^ 29) = g := finOf rfl h0
  have e1 : Fin.ofNat 64 (wd / 2 ^ 16) = d := finOf rfl h1
  have e2 : Fin.ofNat 64 (wd / 2 ^ 10) = a := finOf rfl h2
  have e3 : Fin.ofNat 64 (wd / 2 ^ 4) = b := finOf rfl h3
  have hm : majorOf wd = 0x10 := hp 22 7 rfl
  have c0_4 : fld wd 0 4 = 3 := hp 0 4 rfl
  have n0_10_6 : fld wd 0 10 ≠ 6 := fld_ne (i := 0) (by decide) (hp 0 1 rfl) (by decide)
  exact decode_word rest hlt (by unfold hasLiteral; rw [hm]; rfl)
    (decode_major (ne_zero_of_fld (hp 0 1 rfl) (by decide)) hm rfl
      (by rw [major10 _ _, dec10, c0_4, e0, e1, e2, e3]; simp [n0_10_6]) hwf)
theorem fmin (g : Fin 8) (d : Fin 64) (a : Fin 64) (b : Fin 64) : Statement (.fmin g d a b) := by
  intro _ hwf rest
  have hw : Packed (pack 0x04000004 [(g.val, 29), (d.val, 16), (a.val, 10), (b.val, 4)]) 0x04000004 [(g.val, 29, 3), (d.val, 16, 6), (a.val, 10, 6), (b.val, 4, 6)]
      [(29, 3), (16, 6), (10, 6), (4, 6)] := packed (k := 0x04000004) (fs := [(g.val, 29, 3), (d.val, 16, 6), (a.val, 10, 6), (b.val, 4, 6)]) ⟨g.isLt, d.isLt, a.isLt, b.isLt, trivial⟩ rfl rfl rfl (by decide)
  revert hw
  show _ → decodeBytes ([pack 0x04000004 [(g.val, 29), (d.val, 16), (a.val, 10), (b.val, 4)]].flatMap bytesOfWord ++ rest) = _
  generalize pack 0x04000004 [(g.val, 29), (d.val, 16), (a.val, 10), (b.val, 4)] = wd
  intro ⟨hlt, hh, hp⟩
  have h0 : fld wd 29 3 = g.val := hh.1
  have h1 : fld wd 16 6 = d.val := hh.2.1
  have h2 : fld wd 10 6 = a.val := hh.2.2.1
  have h3 : fld wd 4 6 = b.val := hh.2.2.2.1
  have e0 : Fin.ofNat 8 (wd / 2 ^ 29) = g := finOf rfl h0
  have e1 : Fin.ofNat 64 (wd / 2 ^ 16) = d := finOf rfl h1
  have e2 : Fin.ofNat 64 (wd / 2 ^ 10) = a := finOf rfl h2
  have e3 : Fin.ofNat 64 (wd / 2 ^ 4) = b := finOf rfl h3
  have hm : majorOf wd = 0x10 := hp 22 7 rfl
  have c0_4 : fld wd 0 4 = 4 := hp 0 4 rfl
  have n0_10_6 : fld wd 0 10 ≠ 6 := fld_ne (i := 1) (by decide) (hp 1 1 rfl) (by decide)
  exact decode_word rest hlt (by unfold hasLiteral; rw [hm]; rfl)
    (decode_major (ne_zero_of_fld (hp 2 1 rfl) (by decide)) hm rfl
      (by rw [major10 _ _, dec10, c0_4, e0, e1, e2, e3]; simp [n0_10_6]) hwf)
theorem fmax (g : Fin 8) (d : Fin 64) (a : Fin 64) (b : Fin 64) : Statement (.fmax g d a b) := by
  intro _ hwf rest
  have hw : Packed (pack 0x04000005 [(g.val, 29), (d.val, 16), (a.val, 10), (b.val, 4)]) 0x04000005 [(g.val, 29, 3), (d.val, 16, 6), (a.val, 10, 6), (b.val, 4, 6)]
      [(29, 3), (16, 6), (10, 6), (4, 6)] := packed (k := 0x04000005) (fs := [(g.val, 29, 3), (d.val, 16, 6), (a.val, 10, 6), (b.val, 4, 6)]) ⟨g.isLt, d.isLt, a.isLt, b.isLt, trivial⟩ rfl rfl rfl (by decide)
  revert hw
  show _ → decodeBytes ([pack 0x04000005 [(g.val, 29), (d.val, 16), (a.val, 10), (b.val, 4)]].flatMap bytesOfWord ++ rest) = _
  generalize pack 0x04000005 [(g.val, 29), (d.val, 16), (a.val, 10), (b.val, 4)] = wd
  intro ⟨hlt, hh, hp⟩
  have h0 : fld wd 29 3 = g.val := hh.1
  have h1 : fld wd 16 6 = d.val := hh.2.1
  have h2 : fld wd 10 6 = a.val := hh.2.2.1
  have h3 : fld wd 4 6 = b.val := hh.2.2.2.1
  have e0 : Fin.ofNat 8 (wd / 2 ^ 29) = g := finOf rfl h0
  have e1 : Fin.ofNat 64 (wd / 2 ^ 16) = d := finOf rfl h1
  have e2 : Fin.ofNat 64 (wd / 2 ^ 10) = a := finOf rfl h2
  have e3 : Fin.ofNat 64 (wd / 2 ^ 4) = b := finOf rfl h3
  have hm : majorOf wd = 0x10 := hp 22 7 rfl
  have c0_4 : fld wd 0 4 = 5 := hp 0 4 rfl
  have n0_10_6 : fld wd 0 10 ≠ 6 := fld_ne (i := 0) (by decide) (hp 0 1 rfl) (by decide)
  exact decode_word rest hlt (by unfold hasLiteral; rw [hm]; rfl)
    (decode_major (ne_zero_of_fld (hp 0 1 rfl) (by decide)) hm rfl
      (by rw [major10 _ _, dec10, c0_4, e0, e1, e2, e3]; simp [n0_10_6]) hwf)
theorem fsqrt (g : Fin 8) (d : Fin 64) (a : Fin 64) : Statement (.fsqrt g d a) := by
  intro _ hwf rest
  have hw : Packed (pack 0x04000006 [(g.val, 29), (d.val, 16), (a.val, 10)]) 0x04000006 [(g.val, 29, 3), (d.val, 16, 6), (a.val, 10, 6)]
      [(29, 3), (16, 6), (10, 6)] := packed (k := 0x04000006) (fs := [(g.val, 29, 3), (d.val, 16, 6), (a.val, 10, 6)]) ⟨g.isLt, d.isLt, a.isLt, trivial⟩ rfl rfl rfl (by decide)
  revert hw
  show _ → decodeBytes ([pack 0x04000006 [(g.val, 29), (d.val, 16), (a.val, 10)]].flatMap bytesOfWord ++ rest) = _
  generalize pack 0x04000006 [(g.val, 29), (d.val, 16), (a.val, 10)] = wd
  intro ⟨hlt, hh, hp⟩
  have h0 : fld wd 29 3 = g.val := hh.1
  have h1 : fld wd 16 6 = d.val := hh.2.1
  have h2 : fld wd 10 6 = a.val := hh.2.2.1
  have e0 : Fin.ofNat 8 (wd / 2 ^ 29) = g := finOf rfl h0
  have e1 : Fin.ofNat 64 (wd / 2 ^ 16) = d := finOf rfl h1
  have e2 : Fin.ofNat 64 (wd / 2 ^ 10) = a := finOf rfl h2
  have hm : majorOf wd = 0x10 := hp 22 7 rfl
  have c0_4 : fld wd 0 4 = 6 := hp 0 4 rfl
  have c0_10 : fld wd 0 10 = 6 := hp 0 10 rfl
  exact decode_word rest hlt (by unfold hasLiteral; rw [hm]; rfl)
    (decode_major (ne_zero_of_fld (hp 1 1 rfl) (by decide)) hm rfl
      (by rw [major10 _ _, dec10, c0_4, c0_10, e0, e1, e2]; rfl) hwf)
theorem ffma (g : Fin 8) (d : Fin 64) (a : Fin 64) (b : Fin 64) : Statement (.ffma g d a b) := by
  intro _ hwf rest
  have hw : Packed (pack 0x04400000 [(g.val, 29), (d.val, 16), (a.val, 10), (b.val, 4)]) 0x04400000 [(g.val, 29, 3), (d.val, 16, 6), (a.val, 10, 6), (b.val, 4, 6)]
      [(29, 3), (16, 6), (10, 6), (4, 6)] := packed (k := 0x04400000) (fs := [(g.val, 29, 3), (d.val, 16, 6), (a.val, 10, 6), (b.val, 4, 6)]) ⟨g.isLt, d.isLt, a.isLt, b.isLt, trivial⟩ rfl rfl rfl (by decide)
  revert hw
  show _ → decodeBytes ([pack 0x04400000 [(g.val, 29), (d.val, 16), (a.val, 10), (b.val, 4)]].flatMap bytesOfWord ++ rest) = _
  generalize pack 0x04400000 [(g.val, 29), (d.val, 16), (a.val, 10), (b.val, 4)] = wd
  intro ⟨hlt, hh, hp⟩
  have h0 : fld wd 29 3 = g.val := hh.1
  have h1 : fld wd 16 6 = d.val := hh.2.1
  have h2 : fld wd 10 6 = a.val := hh.2.2.1
  have h3 : fld wd 4 6 = b.val := hh.2.2.2.1
  have e0 : Fin.ofNat 8 (wd / 2 ^ 29) = g := finOf rfl h0
  have e1 : Fin.ofNat 64 (wd / 2 ^ 16) = d := finOf rfl h1
  have e2 : Fin.ofNat 64 (wd / 2 ^ 10) = a := finOf rfl h2
  have e3 : Fin.ofNat 64 (wd / 2 ^ 4) = b := finOf rfl h3
  have hm : majorOf wd = 0x11 := hp 22 7 rfl
  have c0_4 : fld wd 0 4 = 0 := hp 0 4 rfl
  exact decode_word rest hlt (by unfold hasLiteral; rw [hm]; rfl)
    (decode_major (ne_zero_of_fld (hp 22 1 rfl) (by decide)) hm rfl
      (by rw [major11 _ _, dec11, c0_4, e0, e1, e2, e3]; rfl) hwf)
theorem ffmaN (g : Fin 8) (d : Fin 64) (a : Fin 64) (b : Fin 64) : Statement (.ffmaN g d a b) := by
  intro _ hwf rest
  have hw : Packed (pack 0x04400001 [(g.val, 29), (d.val, 16), (a.val, 10), (b.val, 4)]) 0x04400001 [(g.val, 29, 3), (d.val, 16, 6), (a.val, 10, 6), (b.val, 4, 6)]
      [(29, 3), (16, 6), (10, 6), (4, 6)] := packed (k := 0x04400001) (fs := [(g.val, 29, 3), (d.val, 16, 6), (a.val, 10, 6), (b.val, 4, 6)]) ⟨g.isLt, d.isLt, a.isLt, b.isLt, trivial⟩ rfl rfl rfl (by decide)
  revert hw
  show _ → decodeBytes ([pack 0x04400001 [(g.val, 29), (d.val, 16), (a.val, 10), (b.val, 4)]].flatMap bytesOfWord ++ rest) = _
  generalize pack 0x04400001 [(g.val, 29), (d.val, 16), (a.val, 10), (b.val, 4)] = wd
  intro ⟨hlt, hh, hp⟩
  have h0 : fld wd 29 3 = g.val := hh.1
  have h1 : fld wd 16 6 = d.val := hh.2.1
  have h2 : fld wd 10 6 = a.val := hh.2.2.1
  have h3 : fld wd 4 6 = b.val := hh.2.2.2.1
  have e0 : Fin.ofNat 8 (wd / 2 ^ 29) = g := finOf rfl h0
  have e1 : Fin.ofNat 64 (wd / 2 ^ 16) = d := finOf rfl h1
  have e2 : Fin.ofNat 64 (wd / 2 ^ 10) = a := finOf rfl h2
  have e3 : Fin.ofNat 64 (wd / 2 ^ 4) = b := finOf rfl h3
  have hm : majorOf wd = 0x11 := hp 22 7 rfl
  have c0_4 : fld wd 0 4 = 1 := hp 0 4 rfl
  exact decode_word rest hlt (by unfold hasLiteral; rw [hm]; rfl)
    (decode_major (ne_zero_of_fld (hp 0 1 rfl) (by decide)) hm rfl
      (by rw [major11 _ _, dec11, c0_4, e0, e1, e2, e3]; rfl) hwf)
theorem fcmp (g : Fin 8) (c : Fin 8) (h : Fin 8) (a : Fin 64) (b : Fin 64) : Statement (.fcmp g c h a b) := by
  intro _ hwf rest
  have hw : Packed (pack 0x04800000 [(g.val, 29), (c.val, 19), (h.val, 16), (a.val, 10), (b.val, 4)]) 0x04800000 [(g.val, 29, 3), (c.val, 19, 3), (h.val, 16, 3), (a.val, 10, 6), (b.val, 4, 6)]
      [(29, 3), (19, 3), (16, 3), (10, 6), (4, 6)] := packed (k := 0x04800000) (fs := [(g.val, 29, 3), (c.val, 19, 3), (h.val, 16, 3), (a.val, 10, 6), (b.val, 4, 6)]) ⟨g.isLt, c.isLt, h.isLt, a.isLt, b.isLt, trivial⟩ rfl rfl rfl (by decide)
  revert hw
  show _ → decodeBytes ([pack 0x04800000 [(g.val, 29), (c.val, 19), (h.val, 16), (a.val, 10), (b.val, 4)]].flatMap bytesOfWord ++ rest) = _
  generalize pack 0x04800000 [(g.val, 29), (c.val, 19), (h.val, 16), (a.val, 10), (b.val, 4)] = wd
  intro ⟨hlt, hh, hp⟩
  have h0 : fld wd 29 3 = g.val := hh.1
  have h1 : fld wd 19 3 = c.val := hh.2.1
  have h2 : fld wd 16 3 = h.val := hh.2.2.1
  have h3 : fld wd 10 6 = a.val := hh.2.2.2.1
  have h4 : fld wd 4 6 = b.val := hh.2.2.2.2.1
  have e0 : Fin.ofNat 8 (wd / 2 ^ 29) = g := finOf rfl h0
  have e1 : Fin.ofNat 8 (wd / 2 ^ 19) = c := finOf rfl h1
  have e2 : Fin.ofNat 8 (wd / 2 ^ 16) = h := finOf rfl h2
  have e3 : Fin.ofNat 64 (wd / 2 ^ 10) = a := finOf rfl h3
  have e4 : Fin.ofNat 64 (wd / 2 ^ 4) = b := finOf rfl h4
  have hm : majorOf wd = 0x12 := hp 22 7 rfl
  have c0_4 : fld wd 0 4 = 0 := hp 0 4 rfl
  exact decode_word rest hlt (by unfold hasLiteral; rw [hm]; rfl)
    (decode_major (ne_zero_of_fld (hp 23 1 rfl) (by decide)) hm rfl
      (by rw [major12 _ _, dec12, c0_4, e0, e1, e2, e3, e4]; rfl) hwf)
theorem fcvtF32I64 (g : Fin 8) (d : Fin 64) (a : Fin 64) : Statement (.fcvtF32I64 g d a) := by
  intro _ hwf rest
  have hw : Packed (pack 0x04C00000 [(g.val, 29), (d.val, 16), (a.val, 10)]) 0x04C00000 [(g.val, 29, 3), (d.val, 16, 6), (a.val, 10, 6)]
      [(29, 3), (16, 6), (10, 6)] := packed (k := 0x04C00000) (fs := [(g.val, 29, 3), (d.val, 16, 6), (a.val, 10, 6)]) ⟨g.isLt, d.isLt, a.isLt, trivial⟩ rfl rfl rfl (by decide)
  revert hw
  show _ → decodeBytes ([pack 0x04C00000 [(g.val, 29), (d.val, 16), (a.val, 10)]].flatMap bytesOfWord ++ rest) = _
  generalize pack 0x04C00000 [(g.val, 29), (d.val, 16), (a.val, 10)] = wd
  intro ⟨hlt, hh, hp⟩
  have h0 : fld wd 29 3 = g.val := hh.1
  have h1 : fld wd 16 6 = d.val := hh.2.1
  have h2 : fld wd 10 6 = a.val := hh.2.2.1
  have e0 : Fin.ofNat 8 (wd / 2 ^ 29) = g := finOf rfl h0
  have e1 : Fin.ofNat 64 (wd / 2 ^ 16) = d := finOf rfl h1
  have e2 : Fin.ofNat 64 (wd / 2 ^ 10) = a := finOf rfl h2
  have hm : majorOf wd = 0x13 := hp 22 7 rfl
  have c0_10 : fld wd 0 10 = 0 := hp 0 10 rfl
  exact decode_word rest hlt (by unfold hasLiteral; rw [hm]; rfl)
    (decode_major (ne_zero_of_fld (hp 22 1 rfl) (by decide)) hm rfl
      (by rw [major13 _ _, dec13, c0_10, e0, e1, e2]; rfl) hwf)
theorem fcvtF32U64 (g : Fin 8) (d : Fin 64) (a : Fin 64) : Statement (.fcvtF32U64 g d a) := by
  intro _ hwf rest
  have hw : Packed (pack 0x04C00001 [(g.val, 29), (d.val, 16), (a.val, 10)]) 0x04C00001 [(g.val, 29, 3), (d.val, 16, 6), (a.val, 10, 6)]
      [(29, 3), (16, 6), (10, 6)] := packed (k := 0x04C00001) (fs := [(g.val, 29, 3), (d.val, 16, 6), (a.val, 10, 6)]) ⟨g.isLt, d.isLt, a.isLt, trivial⟩ rfl rfl rfl (by decide)
  revert hw
  show _ → decodeBytes ([pack 0x04C00001 [(g.val, 29), (d.val, 16), (a.val, 10)]].flatMap bytesOfWord ++ rest) = _
  generalize pack 0x04C00001 [(g.val, 29), (d.val, 16), (a.val, 10)] = wd
  intro ⟨hlt, hh, hp⟩
  have h0 : fld wd 29 3 = g.val := hh.1
  have h1 : fld wd 16 6 = d.val := hh.2.1
  have h2 : fld wd 10 6 = a.val := hh.2.2.1
  have e0 : Fin.ofNat 8 (wd / 2 ^ 29) = g := finOf rfl h0
  have e1 : Fin.ofNat 64 (wd / 2 ^ 16) = d := finOf rfl h1
  have e2 : Fin.ofNat 64 (wd / 2 ^ 10) = a := finOf rfl h2
  have hm : majorOf wd = 0x13 := hp 22 7 rfl
  have c0_10 : fld wd 0 10 = 1 := hp 0 10 rfl
  exact decode_word rest hlt (by unfold hasLiteral; rw [hm]; rfl)
    (decode_major (ne_zero_of_fld (hp 0 1 rfl) (by decide)) hm rfl
      (by rw [major13 _ _, dec13, c0_10, e0, e1, e2]; rfl) hwf)
theorem fcvtI64F32 (g : Fin 8) (d : Fin 64) (a : Fin 64) : Statement (.fcvtI64F32 g d a) := by
  intro _ hwf rest
  have hw : Packed (pack 0x04C00002 [(g.val, 29), (d.val, 16), (a.val, 10)]) 0x04C00002 [(g.val, 29, 3), (d.val, 16, 6), (a.val, 10, 6)]
      [(29, 3), (16, 6), (10, 6)] := packed (k := 0x04C00002) (fs := [(g.val, 29, 3), (d.val, 16, 6), (a.val, 10, 6)]) ⟨g.isLt, d.isLt, a.isLt, trivial⟩ rfl rfl rfl (by decide)
  revert hw
  show _ → decodeBytes ([pack 0x04C00002 [(g.val, 29), (d.val, 16), (a.val, 10)]].flatMap bytesOfWord ++ rest) = _
  generalize pack 0x04C00002 [(g.val, 29), (d.val, 16), (a.val, 10)] = wd
  intro ⟨hlt, hh, hp⟩
  have h0 : fld wd 29 3 = g.val := hh.1
  have h1 : fld wd 16 6 = d.val := hh.2.1
  have h2 : fld wd 10 6 = a.val := hh.2.2.1
  have e0 : Fin.ofNat 8 (wd / 2 ^ 29) = g := finOf rfl h0
  have e1 : Fin.ofNat 64 (wd / 2 ^ 16) = d := finOf rfl h1
  have e2 : Fin.ofNat 64 (wd / 2 ^ 10) = a := finOf rfl h2
  have hm : majorOf wd = 0x13 := hp 22 7 rfl
  have c0_10 : fld wd 0 10 = 2 := hp 0 10 rfl
  exact decode_word rest hlt (by unfold hasLiteral; rw [hm]; rfl)
    (decode_major (ne_zero_of_fld (hp 1 1 rfl) (by decide)) hm rfl
      (by rw [major13 _ _, dec13, c0_10, e0, e1, e2]; rfl) hwf)
theorem fcvtU64F32 (g : Fin 8) (d : Fin 64) (a : Fin 64) : Statement (.fcvtU64F32 g d a) := by
  intro _ hwf rest
  have hw : Packed (pack 0x04C00003 [(g.val, 29), (d.val, 16), (a.val, 10)]) 0x04C00003 [(g.val, 29, 3), (d.val, 16, 6), (a.val, 10, 6)]
      [(29, 3), (16, 6), (10, 6)] := packed (k := 0x04C00003) (fs := [(g.val, 29, 3), (d.val, 16, 6), (a.val, 10, 6)]) ⟨g.isLt, d.isLt, a.isLt, trivial⟩ rfl rfl rfl (by decide)
  revert hw
  show _ → decodeBytes ([pack 0x04C00003 [(g.val, 29), (d.val, 16), (a.val, 10)]].flatMap bytesOfWord ++ rest) = _
  generalize pack 0x04C00003 [(g.val, 29), (d.val, 16), (a.val, 10)] = wd
  intro ⟨hlt, hh, hp⟩
  have h0 : fld wd 29 3 = g.val := hh.1
  have h1 : fld wd 16 6 = d.val := hh.2.1
  have h2 : fld wd 10 6 = a.val := hh.2.2.1
  have e0 : Fin.ofNat 8 (wd / 2 ^ 29) = g := finOf rfl h0
  have e1 : Fin.ofNat 64 (wd / 2 ^ 16) = d := finOf rfl h1
  have e2 : Fin.ofNat 64 (wd / 2 ^ 10) = a := finOf rfl h2
  have hm : majorOf wd = 0x13 := hp 22 7 rfl
  have c0_10 : fld wd 0 10 = 3 := hp 0 10 rfl
  exact decode_word rest hlt (by unfold hasLiteral; rw [hm]; rfl)
    (decode_major (ne_zero_of_fld (hp 0 1 rfl) (by decide)) hm rfl
      (by rw [major13 _ _, dec13, c0_10, e0, e1, e2]; rfl) hwf)
theorem fcvtBf16F32 (g : Fin 8) (d : Fin 64) (a : Fin 64) : Statement (.fcvtBf16F32 g d a) := by
  intro _ hwf rest
  have hw : Packed (pack 0x04C00004 [(g.val, 29), (d.val, 16), (a.val, 10)]) 0x04C00004 [(g.val, 29, 3), (d.val, 16, 6), (a.val, 10, 6)]
      [(29, 3), (16, 6), (10, 6)] := packed (k := 0x04C00004) (fs := [(g.val, 29, 3), (d.val, 16, 6), (a.val, 10, 6)]) ⟨g.isLt, d.isLt, a.isLt, trivial⟩ rfl rfl rfl (by decide)
  revert hw
  show _ → decodeBytes ([pack 0x04C00004 [(g.val, 29), (d.val, 16), (a.val, 10)]].flatMap bytesOfWord ++ rest) = _
  generalize pack 0x04C00004 [(g.val, 29), (d.val, 16), (a.val, 10)] = wd
  intro ⟨hlt, hh, hp⟩
  have h0 : fld wd 29 3 = g.val := hh.1
  have h1 : fld wd 16 6 = d.val := hh.2.1
  have h2 : fld wd 10 6 = a.val := hh.2.2.1
  have e0 : Fin.ofNat 8 (wd / 2 ^ 29) = g := finOf rfl h0
  have e1 : Fin.ofNat 64 (wd / 2 ^ 16) = d := finOf rfl h1
  have e2 : Fin.ofNat 64 (wd / 2 ^ 10) = a := finOf rfl h2
  have hm : majorOf wd = 0x13 := hp 22 7 rfl
  have c0_10 : fld wd 0 10 = 4 := hp 0 10 rfl
  exact decode_word rest hlt (by unfold hasLiteral; rw [hm]; rfl)
    (decode_major (ne_zero_of_fld (hp 2 1 rfl) (by decide)) hm rfl
      (by rw [major13 _ _, dec13, c0_10, e0, e1, e2]; rfl) hwf)
theorem fcvtF16F32 (g : Fin 8) (d : Fin 64) (a : Fin 64) : Statement (.fcvtF16F32 g d a) := by
  intro _ hwf rest
  have hw : Packed (pack 0x04C00005 [(g.val, 29), (d.val, 16), (a.val, 10)]) 0x04C00005 [(g.val, 29, 3), (d.val, 16, 6), (a.val, 10, 6)]
      [(29, 3), (16, 6), (10, 6)] := packed (k := 0x04C00005) (fs := [(g.val, 29, 3), (d.val, 16, 6), (a.val, 10, 6)]) ⟨g.isLt, d.isLt, a.isLt, trivial⟩ rfl rfl rfl (by decide)
  revert hw
  show _ → decodeBytes ([pack 0x04C00005 [(g.val, 29), (d.val, 16), (a.val, 10)]].flatMap bytesOfWord ++ rest) = _
  generalize pack 0x04C00005 [(g.val, 29), (d.val, 16), (a.val, 10)] = wd
  intro ⟨hlt, hh, hp⟩
  have h0 : fld wd 29 3 = g.val := hh.1
  have h1 : fld wd 16 6 = d.val := hh.2.1
  have h2 : fld wd 10 6 = a.val := hh.2.2.1
  have e0 : Fin.ofNat 8 (wd / 2 ^ 29) = g := finOf rfl h0
  have e1 : Fin.ofNat 64 (wd / 2 ^ 16) = d := finOf rfl h1
  have e2 : Fin.ofNat 64 (wd / 2 ^ 10) = a := finOf rfl h2
  have hm : majorOf wd = 0x13 := hp 22 7 rfl
  have c0_10 : fld wd 0 10 = 5 := hp 0 10 rfl
  exact decode_word rest hlt (by unfold hasLiteral; rw [hm]; rfl)
    (decode_major (ne_zero_of_fld (hp 0 1 rfl) (by decide)) hm rfl
      (by rw [major13 _ _, dec13, c0_10, e0, e1, e2]; rfl) hwf)
theorem fcvtF32Bf16 (g : Fin 8) (d : Fin 64) (a : Fin 64) : Statement (.fcvtF32Bf16 g d a) := by
  intro _ hwf rest
  have hw : Packed (pack 0x04C00006 [(g.val, 29), (d.val, 16), (a.val, 10)]) 0x04C00006 [(g.val, 29, 3), (d.val, 16, 6), (a.val, 10, 6)]
      [(29, 3), (16, 6), (10, 6)] := packed (k := 0x04C00006) (fs := [(g.val, 29, 3), (d.val, 16, 6), (a.val, 10, 6)]) ⟨g.isLt, d.isLt, a.isLt, trivial⟩ rfl rfl rfl (by decide)
  revert hw
  show _ → decodeBytes ([pack 0x04C00006 [(g.val, 29), (d.val, 16), (a.val, 10)]].flatMap bytesOfWord ++ rest) = _
  generalize pack 0x04C00006 [(g.val, 29), (d.val, 16), (a.val, 10)] = wd
  intro ⟨hlt, hh, hp⟩
  have h0 : fld wd 29 3 = g.val := hh.1
  have h1 : fld wd 16 6 = d.val := hh.2.1
  have h2 : fld wd 10 6 = a.val := hh.2.2.1
  have e0 : Fin.ofNat 8 (wd / 2 ^ 29) = g := finOf rfl h0
  have e1 : Fin.ofNat 64 (wd / 2 ^ 16) = d := finOf rfl h1
  have e2 : Fin.ofNat 64 (wd / 2 ^ 10) = a := finOf rfl h2
  have hm : majorOf wd = 0x13 := hp 22 7 rfl
  have c0_10 : fld wd 0 10 = 6 := hp 0 10 rfl
  exact decode_word rest hlt (by unfold hasLiteral; rw [hm]; rfl)
    (decode_major (ne_zero_of_fld (hp 1 1 rfl) (by decide)) hm rfl
      (by rw [major13 _ _, dec13, c0_10, e0, e1, e2]; rfl) hwf)
theorem fcvtF32F16 (g : Fin 8) (d : Fin 64) (a : Fin 64) : Statement (.fcvtF32F16 g d a) := by
  intro _ hwf rest
  have hw : Packed (pack 0x04C00007 [(g.val, 29), (d.val, 16), (a.val, 10)]) 0x04C00007 [(g.val, 29, 3), (d.val, 16, 6), (a.val, 10, 6)]
      [(29, 3), (16, 6), (10, 6)] := packed (k := 0x04C00007) (fs := [(g.val, 29, 3), (d.val, 16, 6), (a.val, 10, 6)]) ⟨g.isLt, d.isLt, a.isLt, trivial⟩ rfl rfl rfl (by decide)
  revert hw
  show _ → decodeBytes ([pack 0x04C00007 [(g.val, 29), (d.val, 16), (a.val, 10)]].flatMap bytesOfWord ++ rest) = _
  generalize pack 0x04C00007 [(g.val, 29), (d.val, 16), (a.val, 10)] = wd
  intro ⟨hlt, hh, hp⟩
  have h0 : fld wd 29 3 = g.val := hh.1
  have h1 : fld wd 16 6 = d.val := hh.2.1
  have h2 : fld wd 10 6 = a.val := hh.2.2.1
  have e0 : Fin.ofNat 8 (wd / 2 ^ 29) = g := finOf rfl h0
  have e1 : Fin.ofNat 64 (wd / 2 ^ 16) = d := finOf rfl h1
  have e2 : Fin.ofNat 64 (wd / 2 ^ 10) = a := finOf rfl h2
  have hm : majorOf wd = 0x13 := hp 22 7 rfl
  have c0_10 : fld wd 0 10 = 7 := hp 0 10 rfl
  exact decode_word rest hlt (by unfold hasLiteral; rw [hm]; rfl)
    (decode_major (ne_zero_of_fld (hp 0 1 rfl) (by decide)) hm rfl
      (by rw [major13 _ _, dec13, c0_10, e0, e1, e2]; rfl) hwf)
theorem cbnd (g : Fin 8) (d : Fin 64) (a : Fin 64) (b : Fin 64) : Statement (.cbnd g d a b) := by
  intro _ hwf rest
  have hw : Packed (pack 0x05000000 [(g.val, 29), (d.val, 16), (a.val, 10), (b.val, 4)]) 0x05000000 [(g.val, 29, 3), (d.val, 16, 6), (a.val, 10, 6), (b.val, 4, 6)]
      [(29, 3), (16, 6), (10, 6), (4, 6)] := packed (k := 0x05000000) (fs := [(g.val, 29, 3), (d.val, 16, 6), (a.val, 10, 6), (b.val, 4, 6)]) ⟨g.isLt, d.isLt, a.isLt, b.isLt, trivial⟩ rfl rfl rfl (by decide)
  revert hw
  show _ → decodeBytes ([pack 0x05000000 [(g.val, 29), (d.val, 16), (a.val, 10), (b.val, 4)]].flatMap bytesOfWord ++ rest) = _
  generalize pack 0x05000000 [(g.val, 29), (d.val, 16), (a.val, 10), (b.val, 4)] = wd
  intro ⟨hlt, hh, hp⟩
  have h0 : fld wd 29 3 = g.val := hh.1
  have h1 : fld wd 16 6 = d.val := hh.2.1
  have h2 : fld wd 10 6 = a.val := hh.2.2.1
  have h3 : fld wd 4 6 = b.val := hh.2.2.2.1
  have e0 : Fin.ofNat 8 (wd / 2 ^ 29) = g := finOf rfl h0
  have e1 : Fin.ofNat 64 (wd / 2 ^ 16) = d := finOf rfl h1
  have e2 : Fin.ofNat 64 (wd / 2 ^ 10) = a := finOf rfl h2
  have e3 : Fin.ofNat 64 (wd / 2 ^ 4) = b := finOf rfl h3
  have hm : majorOf wd = 0x14 := hp 22 7 rfl
  have c0_4 : fld wd 0 4 = 0 := hp 0 4 rfl
  have n0_10_4 : fld wd 0 10 ≠ 4 := fld_ne (i := 2) (by decide) (hp 2 1 rfl) (by decide)
  have n0_10_5 : fld wd 0 10 ≠ 5 := fld_ne (i := 0) (by decide) (hp 0 1 rfl) (by decide)
  have n0_10_6 : fld wd 0 10 ≠ 6 := fld_ne (i := 1) (by decide) (hp 1 1 rfl) (by decide)
  have n0_10_7 : fld wd 0 10 ≠ 7 := fld_ne (i := 0) (by decide) (hp 0 1 rfl) (by decide)
  have n0_10_8 : fld wd 0 10 ≠ 8 := fld_ne (i := 3) (by decide) (hp 3 1 rfl) (by decide)
  have n0_10_9 : fld wd 0 10 ≠ 9 := fld_ne (i := 0) (by decide) (hp 0 1 rfl) (by decide)
  exact decode_word rest hlt (by unfold hasLiteral; rw [hm]; rfl)
    (decode_major (ne_zero_of_fld (hp 24 1 rfl) (by decide)) hm rfl
      (by rw [major14 _ _, dec14, c0_4, e0, e1, e2, e3]; simp [n0_10_4, n0_10_5, n0_10_6, n0_10_7, n0_10_8, n0_10_9]) hwf)
theorem cinc (g : Fin 8) (d : Fin 64) (a : Fin 64) (b : Fin 64) : Statement (.cinc g d a b) := by
  intro _ hwf rest
  have hw : Packed (pack 0x05000001 [(g.val, 29), (d.val, 16), (a.val, 10), (b.val, 4)]) 0x05000001 [(g.val, 29, 3), (d.val, 16, 6), (a.val, 10, 6), (b.val, 4, 6)]
      [(29, 3), (16, 6), (10, 6), (4, 6)] := packed (k := 0x05000001) (fs := [(g.val, 29, 3), (d.val, 16, 6), (a.val, 10, 6), (b.val, 4, 6)]) ⟨g.isLt, d.isLt, a.isLt, b.isLt, trivial⟩ rfl rfl rfl (by decide)
  revert hw
  show _ → decodeBytes ([pack 0x05000001 [(g.val, 29), (d.val, 16), (a.val, 10), (b.val, 4)]].flatMap bytesOfWord ++ rest) = _
  generalize pack 0x05000001 [(g.val, 29), (d.val, 16), (a.val, 10), (b.val, 4)] = wd
  intro ⟨hlt, hh, hp⟩
  have h0 : fld wd 29 3 = g.val := hh.1
  have h1 : fld wd 16 6 = d.val := hh.2.1
  have h2 : fld wd 10 6 = a.val := hh.2.2.1
  have h3 : fld wd 4 6 = b.val := hh.2.2.2.1
  have e0 : Fin.ofNat 8 (wd / 2 ^ 29) = g := finOf rfl h0
  have e1 : Fin.ofNat 64 (wd / 2 ^ 16) = d := finOf rfl h1
  have e2 : Fin.ofNat 64 (wd / 2 ^ 10) = a := finOf rfl h2
  have e3 : Fin.ofNat 64 (wd / 2 ^ 4) = b := finOf rfl h3
  have hm : majorOf wd = 0x14 := hp 22 7 rfl
  have c0_4 : fld wd 0 4 = 1 := hp 0 4 rfl
  have n0_10_4 : fld wd 0 10 ≠ 4 := fld_ne (i := 0) (by decide) (hp 0 1 rfl) (by decide)
  have n0_10_5 : fld wd 0 10 ≠ 5 := fld_ne (i := 2) (by decide) (hp 2 1 rfl) (by decide)
  have n0_10_6 : fld wd 0 10 ≠ 6 := fld_ne (i := 0) (by decide) (hp 0 1 rfl) (by decide)
  have n0_10_7 : fld wd 0 10 ≠ 7 := fld_ne (i := 1) (by decide) (hp 1 1 rfl) (by decide)
  have n0_10_8 : fld wd 0 10 ≠ 8 := fld_ne (i := 0) (by decide) (hp 0 1 rfl) (by decide)
  have n0_10_9 : fld wd 0 10 ≠ 9 := fld_ne (i := 3) (by decide) (hp 3 1 rfl) (by decide)
  exact decode_word rest hlt (by unfold hasLiteral; rw [hm]; rfl)
    (decode_major (ne_zero_of_fld (hp 0 1 rfl) (by decide)) hm rfl
      (by rw [major14 _ _, dec14, c0_4, e0, e1, e2, e3]; simp [n0_10_4, n0_10_5, n0_10_6, n0_10_7, n0_10_8, n0_10_9]) hwf)
theorem caddr (g : Fin 8) (d : Fin 64) (a : Fin 64) (b : Fin 64) : Statement (.caddr g d a b) := by
  intro _ hwf rest
  have hw : Packed (pack 0x05000002 [(g.val, 29), (d.val, 16), (a.val, 10), (b.val, 4)]) 0x05000002 [(g.val, 29, 3), (d.val, 16, 6), (a.val, 10, 6), (b.val, 4, 6)]
      [(29, 3), (16, 6), (10, 6), (4, 6)] := packed (k := 0x05000002) (fs := [(g.val, 29, 3), (d.val, 16, 6), (a.val, 10, 6), (b.val, 4, 6)]) ⟨g.isLt, d.isLt, a.isLt, b.isLt, trivial⟩ rfl rfl rfl (by decide)
  revert hw
  show _ → decodeBytes ([pack 0x05000002 [(g.val, 29), (d.val, 16), (a.val, 10), (b.val, 4)]].flatMap bytesOfWord ++ rest) = _
  generalize pack 0x05000002 [(g.val, 29), (d.val, 16), (a.val, 10), (b.val, 4)] = wd
  intro ⟨hlt, hh, hp⟩
  have h0 : fld wd 29 3 = g.val := hh.1
  have h1 : fld wd 16 6 = d.val := hh.2.1
  have h2 : fld wd 10 6 = a.val := hh.2.2.1
  have h3 : fld wd 4 6 = b.val := hh.2.2.2.1
  have e0 : Fin.ofNat 8 (wd / 2 ^ 29) = g := finOf rfl h0
  have e1 : Fin.ofNat 64 (wd / 2 ^ 16) = d := finOf rfl h1
  have e2 : Fin.ofNat 64 (wd / 2 ^ 10) = a := finOf rfl h2
  have e3 : Fin.ofNat 64 (wd / 2 ^ 4) = b := finOf rfl h3
  have hm : majorOf wd = 0x14 := hp 22 7 rfl
  have c0_4 : fld wd 0 4 = 2 := hp 0 4 rfl
  have n0_10_4 : fld wd 0 10 ≠ 4 := fld_ne (i := 1) (by decide) (hp 1 1 rfl) (by decide)
  have n0_10_5 : fld wd 0 10 ≠ 5 := fld_ne (i := 0) (by decide) (hp 0 1 rfl) (by decide)
  have n0_10_6 : fld wd 0 10 ≠ 6 := fld_ne (i := 2) (by decide) (hp 2 1 rfl) (by decide)
  have n0_10_7 : fld wd 0 10 ≠ 7 := fld_ne (i := 0) (by decide) (hp 0 1 rfl) (by decide)
  have n0_10_8 : fld wd 0 10 ≠ 8 := fld_ne (i := 1) (by decide) (hp 1 1 rfl) (by decide)
  have n0_10_9 : fld wd 0 10 ≠ 9 := fld_ne (i := 0) (by decide) (hp 0 1 rfl) (by decide)
  exact decode_word rest hlt (by unfold hasLiteral; rw [hm]; rfl)
    (decode_major (ne_zero_of_fld (hp 1 1 rfl) (by decide)) hm rfl
      (by rw [major14 _ _, dec14, c0_4, e0, e1, e2, e3]; simp [n0_10_4, n0_10_5, n0_10_6, n0_10_7, n0_10_8, n0_10_9]) hwf)
theorem cperm (g : Fin 8) (d : Fin 64) (a : Fin 64) (b : Fin 64) : Statement (.cperm g d a b) := by
  intro _ hwf rest
  have hw : Packed (pack 0x05000003 [(g.val, 29), (d.val, 16), (a.val, 10), (b.val, 4)]) 0x05000003 [(g.val, 29, 3), (d.val, 16, 6), (a.val, 10, 6), (b.val, 4, 6)]
      [(29, 3), (16, 6), (10, 6), (4, 6)] := packed (k := 0x05000003) (fs := [(g.val, 29, 3), (d.val, 16, 6), (a.val, 10, 6), (b.val, 4, 6)]) ⟨g.isLt, d.isLt, a.isLt, b.isLt, trivial⟩ rfl rfl rfl (by decide)
  revert hw
  show _ → decodeBytes ([pack 0x05000003 [(g.val, 29), (d.val, 16), (a.val, 10), (b.val, 4)]].flatMap bytesOfWord ++ rest) = _
  generalize pack 0x05000003 [(g.val, 29), (d.val, 16), (a.val, 10), (b.val, 4)] = wd
  intro ⟨hlt, hh, hp⟩
  have h0 : fld wd 29 3 = g.val := hh.1
  have h1 : fld wd 16 6 = d.val := hh.2.1
  have h2 : fld wd 10 6 = a.val := hh.2.2.1
  have h3 : fld wd 4 6 = b.val := hh.2.2.2.1
  have e0 : Fin.ofNat 8 (wd / 2 ^ 29) = g := finOf rfl h0
  have e1 : Fin.ofNat 64 (wd / 2 ^ 16) = d := finOf rfl h1
  have e2 : Fin.ofNat 64 (wd / 2 ^ 10) = a := finOf rfl h2
  have e3 : Fin.ofNat 64 (wd / 2 ^ 4) = b := finOf rfl h3
  have hm : majorOf wd = 0x14 := hp 22 7 rfl
  have c0_4 : fld wd 0 4 = 3 := hp 0 4 rfl
  have n0_10_4 : fld wd 0 10 ≠ 4 := fld_ne (i := 0) (by decide) (hp 0 1 rfl) (by decide)
  have n0_10_5 : fld wd 0 10 ≠ 5 := fld_ne (i := 1) (by decide) (hp 1 1 rfl) (by decide)
  have n0_10_6 : fld wd 0 10 ≠ 6 := fld_ne (i := 0) (by decide) (hp 0 1 rfl) (by decide)
  have n0_10_7 : fld wd 0 10 ≠ 7 := fld_ne (i := 2) (by decide) (hp 2 1 rfl) (by decide)
  have n0_10_8 : fld wd 0 10 ≠ 8 := fld_ne (i := 0) (by decide) (hp 0 1 rfl) (by decide)
  have n0_10_9 : fld wd 0 10 ≠ 9 := fld_ne (i := 1) (by decide) (hp 1 1 rfl) (by decide)
  exact decode_word rest hlt (by unfold hasLiteral; rw [hm]; rfl)
    (decode_major (ne_zero_of_fld (hp 0 1 rfl) (by decide)) hm rfl
      (by rw [major14 _ _, dec14, c0_4, e0, e1, e2, e3]; simp [n0_10_4, n0_10_5, n0_10_6, n0_10_7, n0_10_8, n0_10_9]) hwf)
theorem ctagc (g : Fin 8) (d : Fin 64) (a : Fin 64) : Statement (.ctagc g d a) := by
  intro _ hwf rest
  have hw : Packed (pack 0x05000004 [(g.val, 29), (d.val, 16), (a.val, 10)]) 0x05000004 [(g.val, 29, 3), (d.val, 16, 6), (a.val, 10, 6)]
      [(29, 3), (16, 6), (10, 6)] := packed (k := 0x05000004) (fs := [(g.val, 29, 3), (d.val, 16, 6), (a.val, 10, 6)]) ⟨g.isLt, d.isLt, a.isLt, trivial⟩ rfl rfl rfl (by decide)
  revert hw
  show _ → decodeBytes ([pack 0x05000004 [(g.val, 29), (d.val, 16), (a.val, 10)]].flatMap bytesOfWord ++ rest) = _
  generalize pack 0x05000004 [(g.val, 29), (d.val, 16), (a.val, 10)] = wd
  intro ⟨hlt, hh, hp⟩
  have h0 : fld wd 29 3 = g.val := hh.1
  have h1 : fld wd 16 6 = d.val := hh.2.1
  have h2 : fld wd 10 6 = a.val := hh.2.2.1
  have e0 : Fin.ofNat 8 (wd / 2 ^ 29) = g := finOf rfl h0
  have e1 : Fin.ofNat 64 (wd / 2 ^ 16) = d := finOf rfl h1
  have e2 : Fin.ofNat 64 (wd / 2 ^ 10) = a := finOf rfl h2
  have hm : majorOf wd = 0x14 := hp 22 7 rfl
  have c0_4 : fld wd 0 4 = 4 := hp 0 4 rfl
  have c0_10 : fld wd 0 10 = 4 := hp 0 10 rfl
  exact decode_word rest hlt (by unfold hasLiteral; rw [hm]; rfl)
    (decode_major (ne_zero_of_fld (hp 2 1 rfl) (by decide)) hm rfl
      (by rw [major14 _ _, dec14, c0_4, c0_10, e0, e1, e2]; rfl) hwf)
theorem cgetBase (g : Fin 8) (d : Fin 64) (a : Fin 64) : Statement (.cgetBase g d a) := by
  intro _ hwf rest
  have hw : Packed (pack 0x05000005 [(g.val, 29), (d.val, 16), (a.val, 10)]) 0x05000005 [(g.val, 29, 3), (d.val, 16, 6), (a.val, 10, 6)]
      [(29, 3), (16, 6), (10, 6)] := packed (k := 0x05000005) (fs := [(g.val, 29, 3), (d.val, 16, 6), (a.val, 10, 6)]) ⟨g.isLt, d.isLt, a.isLt, trivial⟩ rfl rfl rfl (by decide)
  revert hw
  show _ → decodeBytes ([pack 0x05000005 [(g.val, 29), (d.val, 16), (a.val, 10)]].flatMap bytesOfWord ++ rest) = _
  generalize pack 0x05000005 [(g.val, 29), (d.val, 16), (a.val, 10)] = wd
  intro ⟨hlt, hh, hp⟩
  have h0 : fld wd 29 3 = g.val := hh.1
  have h1 : fld wd 16 6 = d.val := hh.2.1
  have h2 : fld wd 10 6 = a.val := hh.2.2.1
  have e0 : Fin.ofNat 8 (wd / 2 ^ 29) = g := finOf rfl h0
  have e1 : Fin.ofNat 64 (wd / 2 ^ 16) = d := finOf rfl h1
  have e2 : Fin.ofNat 64 (wd / 2 ^ 10) = a := finOf rfl h2
  have hm : majorOf wd = 0x14 := hp 22 7 rfl
  have c0_4 : fld wd 0 4 = 5 := hp 0 4 rfl
  have c0_10 : fld wd 0 10 = 5 := hp 0 10 rfl
  exact decode_word rest hlt (by unfold hasLiteral; rw [hm]; rfl)
    (decode_major (ne_zero_of_fld (hp 0 1 rfl) (by decide)) hm rfl
      (by rw [major14 _ _, dec14, c0_4, c0_10, e0, e1, e2]; rfl) hwf)
theorem cgetTop (g : Fin 8) (d : Fin 64) (a : Fin 64) : Statement (.cgetTop g d a) := by
  intro _ hwf rest
  have hw : Packed (pack 0x05000006 [(g.val, 29), (d.val, 16), (a.val, 10)]) 0x05000006 [(g.val, 29, 3), (d.val, 16, 6), (a.val, 10, 6)]
      [(29, 3), (16, 6), (10, 6)] := packed (k := 0x05000006) (fs := [(g.val, 29, 3), (d.val, 16, 6), (a.val, 10, 6)]) ⟨g.isLt, d.isLt, a.isLt, trivial⟩ rfl rfl rfl (by decide)
  revert hw
  show _ → decodeBytes ([pack 0x05000006 [(g.val, 29), (d.val, 16), (a.val, 10)]].flatMap bytesOfWord ++ rest) = _
  generalize pack 0x05000006 [(g.val, 29), (d.val, 16), (a.val, 10)] = wd
  intro ⟨hlt, hh, hp⟩
  have h0 : fld wd 29 3 = g.val := hh.1
  have h1 : fld wd 16 6 = d.val := hh.2.1
  have h2 : fld wd 10 6 = a.val := hh.2.2.1
  have e0 : Fin.ofNat 8 (wd / 2 ^ 29) = g := finOf rfl h0
  have e1 : Fin.ofNat 64 (wd / 2 ^ 16) = d := finOf rfl h1
  have e2 : Fin.ofNat 64 (wd / 2 ^ 10) = a := finOf rfl h2
  have hm : majorOf wd = 0x14 := hp 22 7 rfl
  have c0_4 : fld wd 0 4 = 6 := hp 0 4 rfl
  have c0_10 : fld wd 0 10 = 6 := hp 0 10 rfl
  exact decode_word rest hlt (by unfold hasLiteral; rw [hm]; rfl)
    (decode_major (ne_zero_of_fld (hp 1 1 rfl) (by decide)) hm rfl
      (by rw [major14 _ _, dec14, c0_4, c0_10, e0, e1, e2]; rfl) hwf)
theorem cgetLen (g : Fin 8) (d : Fin 64) (a : Fin 64) : Statement (.cgetLen g d a) := by
  intro _ hwf rest
  have hw : Packed (pack 0x05000007 [(g.val, 29), (d.val, 16), (a.val, 10)]) 0x05000007 [(g.val, 29, 3), (d.val, 16, 6), (a.val, 10, 6)]
      [(29, 3), (16, 6), (10, 6)] := packed (k := 0x05000007) (fs := [(g.val, 29, 3), (d.val, 16, 6), (a.val, 10, 6)]) ⟨g.isLt, d.isLt, a.isLt, trivial⟩ rfl rfl rfl (by decide)
  revert hw
  show _ → decodeBytes ([pack 0x05000007 [(g.val, 29), (d.val, 16), (a.val, 10)]].flatMap bytesOfWord ++ rest) = _
  generalize pack 0x05000007 [(g.val, 29), (d.val, 16), (a.val, 10)] = wd
  intro ⟨hlt, hh, hp⟩
  have h0 : fld wd 29 3 = g.val := hh.1
  have h1 : fld wd 16 6 = d.val := hh.2.1
  have h2 : fld wd 10 6 = a.val := hh.2.2.1
  have e0 : Fin.ofNat 8 (wd / 2 ^ 29) = g := finOf rfl h0
  have e1 : Fin.ofNat 64 (wd / 2 ^ 16) = d := finOf rfl h1
  have e2 : Fin.ofNat 64 (wd / 2 ^ 10) = a := finOf rfl h2
  have hm : majorOf wd = 0x14 := hp 22 7 rfl
  have c0_4 : fld wd 0 4 = 7 := hp 0 4 rfl
  have c0_10 : fld wd 0 10 = 7 := hp 0 10 rfl
  exact decode_word rest hlt (by unfold hasLiteral; rw [hm]; rfl)
    (decode_major (ne_zero_of_fld (hp 0 1 rfl) (by decide)) hm rfl
      (by rw [major14 _ _, dec14, c0_4, c0_10, e0, e1, e2]; rfl) hwf)
theorem cgetPerm (g : Fin 8) (d : Fin 64) (a : Fin 64) : Statement (.cgetPerm g d a) := by
  intro _ hwf rest
  have hw : Packed (pack 0x05000008 [(g.val, 29), (d.val, 16), (a.val, 10)]) 0x05000008 [(g.val, 29, 3), (d.val, 16, 6), (a.val, 10, 6)]
      [(29, 3), (16, 6), (10, 6)] := packed (k := 0x05000008) (fs := [(g.val, 29, 3), (d.val, 16, 6), (a.val, 10, 6)]) ⟨g.isLt, d.isLt, a.isLt, trivial⟩ rfl rfl rfl (by decide)
  revert hw
  show _ → decodeBytes ([pack 0x05000008 [(g.val, 29), (d.val, 16), (a.val, 10)]].flatMap bytesOfWord ++ rest) = _
  generalize pack 0x05000008 [(g.val, 29), (d.val, 16), (a.val, 10)] = wd
  intro ⟨hlt, hh, hp⟩
  have h0 : fld wd 29 3 = g.val := hh.1
  have h1 : fld wd 16 6 = d.val := hh.2.1
  have h2 : fld wd 10 6 = a.val := hh.2.2.1
  have e0 : Fin.ofNat 8 (wd / 2 ^ 29) = g := finOf rfl h0
  have e1 : Fin.ofNat 64 (wd / 2 ^ 16) = d := finOf rfl h1
  have e2 : Fin.ofNat 64 (wd / 2 ^ 10) = a := finOf rfl h2
  have hm : majorOf wd = 0x14 := hp 22 7 rfl
  have c0_4 : fld wd 0 4 = 8 := hp 0 4 rfl
  have c0_10 : fld wd 0 10 = 8 := hp 0 10 rfl
  exact decode_word rest hlt (by unfold hasLiteral; rw [hm]; rfl)
    (decode_major (ne_zero_of_fld (hp 3 1 rfl) (by decide)) hm rfl
      (by rw [major14 _ _, dec14, c0_4, c0_10, e0, e1, e2]; rfl) hwf)
theorem cgetTag (g : Fin 8) (d : Fin 64) (a : Fin 64) : Statement (.cgetTag g d a) := by
  intro _ hwf rest
  have hw : Packed (pack 0x05000009 [(g.val, 29), (d.val, 16), (a.val, 10)]) 0x05000009 [(g.val, 29, 3), (d.val, 16, 6), (a.val, 10, 6)]
      [(29, 3), (16, 6), (10, 6)] := packed (k := 0x05000009) (fs := [(g.val, 29, 3), (d.val, 16, 6), (a.val, 10, 6)]) ⟨g.isLt, d.isLt, a.isLt, trivial⟩ rfl rfl rfl (by decide)
  revert hw
  show _ → decodeBytes ([pack 0x05000009 [(g.val, 29), (d.val, 16), (a.val, 10)]].flatMap bytesOfWord ++ rest) = _
  generalize pack 0x05000009 [(g.val, 29), (d.val, 16), (a.val, 10)] = wd
  intro ⟨hlt, hh, hp⟩
  have h0 : fld wd 29 3 = g.val := hh.1
  have h1 : fld wd 16 6 = d.val := hh.2.1
  have h2 : fld wd 10 6 = a.val := hh.2.2.1
  have e0 : Fin.ofNat 8 (wd / 2 ^ 29) = g := finOf rfl h0
  have e1 : Fin.ofNat 64 (wd / 2 ^ 16) = d := finOf rfl h1
  have e2 : Fin.ofNat 64 (wd / 2 ^ 10) = a := finOf rfl h2
  have hm : majorOf wd = 0x14 := hp 22 7 rfl
  have c0_4 : fld wd 0 4 = 9 := hp 0 4 rfl
  have c0_10 : fld wd 0 10 = 9 := hp 0 10 rfl
  exact decode_word rest hlt (by unfold hasLiteral; rw [hm]; rfl)
    (decode_major (ne_zero_of_fld (hp 0 1 rfl) (by decide)) hm rfl
      (by rw [major14 _ _, dec14, c0_4, c0_10, e0, e1, e2]; rfl) hwf)
theorem cincImm (g : Fin 8) (d : Fin 64) (a : Fin 64) (i : BitVec 10) : Statement (.cincImm g d a i) := by
  intro _ hwf rest
  have hw : Packed (pack 0x05400000 [(g.val, 29), (d.val, 16), (a.val, 10), (i.toNat, 0)]) 0x05400000 [(g.val, 29, 3), (d.val, 16, 6), (a.val, 10, 6), (i.toNat, 0, 10)]
      [(29, 3), (16, 6), (10, 6), (0, 10)] := packed (k := 0x05400000) (fs := [(g.val, 29, 3), (d.val, 16, 6), (a.val, 10, 6), (i.toNat, 0, 10)]) ⟨g.isLt, d.isLt, a.isLt, i.isLt, trivial⟩ rfl rfl rfl (by decide)
  revert hw
  show _ → decodeBytes ([pack 0x05400000 [(g.val, 29), (d.val, 16), (a.val, 10), (i.toNat, 0)]].flatMap bytesOfWord ++ rest) = _
  generalize pack 0x05400000 [(g.val, 29), (d.val, 16), (a.val, 10), (i.toNat, 0)] = wd
  intro ⟨hlt, hh, hp⟩
  have h0 : fld wd 29 3 = g.val := hh.1
  have h1 : fld wd 16 6 = d.val := hh.2.1
  have h2 : fld wd 10 6 = a.val := hh.2.2.1
  have h3 : fld wd 0 10 = i.toNat := hh.2.2.2.1
  have e0 : Fin.ofNat 8 (wd / 2 ^ 29) = g := finOf rfl h0
  have e1 : Fin.ofNat 64 (wd / 2 ^ 16) = d := finOf rfl h1
  have e2 : Fin.ofNat 64 (wd / 2 ^ 10) = a := finOf rfl h2
  have e3 : BitVec.ofNat 10 (wd / 2 ^ 0) = i := bitsOfField h3
  have hm : majorOf wd = 0x15 := hp 22 7 rfl
  have hn : i.toNat ≠ 0x200 := by
    intro e
    have : i = 0x200#10 := BitVec.eq_of_toNat_eq e
    subst this
    simp [Instr.wellFormed] at hwf
  exact decode_word rest hlt (by rw [literal10 hm (by decide), h3]; exact beq_false_of_ne hn)
    (decode_major (ne_zero_of_fld (hp 22 1 rfl) (by decide)) hm rfl
      (by rw [major15 _ _, dec15, h3, e0, e1, e2, e3]; simp [hn]) hwf)
theorem cincImmLiteral (g : Fin 8) (d : Fin 64) (a : Fin 64) (lit : Word) : Statement (.cincImmLiteral g d a lit) := by
  intro _ hwf rest
  have hw : Packed (pack 0x05400200 [(g.val, 29), (d.val, 16), (a.val, 10)]) 0x05400200 [(g.val, 29, 3), (d.val, 16, 6), (a.val, 10, 6)]
      [(29, 3), (16, 6), (10, 6)] := packed (k := 0x05400200) (fs := [(g.val, 29, 3), (d.val, 16, 6), (a.val, 10, 6)]) ⟨g.isLt, d.isLt, a.isLt, trivial⟩ rfl rfl rfl (by decide)
  revert hw
  show _ → decodeBytes ([pack 0x05400200 [(g.val, 29), (d.val, 16), (a.val, 10)], lit.toNat].flatMap bytesOfWord ++ rest) = _
  generalize pack 0x05400200 [(g.val, 29), (d.val, 16), (a.val, 10)] = wd
  intro ⟨hlt, hh, hp⟩
  have h0 : fld wd 29 3 = g.val := hh.1
  have h1 : fld wd 16 6 = d.val := hh.2.1
  have h2 : fld wd 10 6 = a.val := hh.2.2.1
  have e0 : Fin.ofNat 8 (wd / 2 ^ 29) = g := finOf rfl h0
  have e1 : Fin.ofNat 64 (wd / 2 ^ 16) = d := finOf rfl h1
  have e2 : Fin.ofNat 64 (wd / 2 ^ 10) = a := finOf rfl h2
  have hm : majorOf wd = 0x15 := hp 22 7 rfl
  have c0_10 : fld wd 0 10 = 512 := hp 0 10 rfl
  exact decode_literal rest hlt lit.isLt (by rw [literal10 hm (by decide), c0_10]; rfl)
    (decode_major (ne_zero_of_fld (hp 9 1 rfl) (by decide)) hm rfl
      (by rw [major15 _ _, dec15, c0_10, e0, e1, e2]; simp only [BitVec.ofNat_toNat, BitVec.setWidth_eq]; rfl) hwf)
theorem cbndImm (g : Fin 8) (d : Fin 64) (a : Fin 64) (i : BitVec 10) : Statement (.cbndImm g d a i) := by
  intro _ hwf rest
  have hw : Packed (pack 0x05800000 [(g.val, 29), (d.val, 16), (a.val, 10), (i.toNat, 0)]) 0x05800000 [(g.val, 29, 3), (d.val, 16, 6), (a.val, 10, 6), (i.toNat, 0, 10)]
      [(29, 3), (16, 6), (10, 6), (0, 10)] := packed (k := 0x05800000) (fs := [(g.val, 29, 3), (d.val, 16, 6), (a.val, 10, 6), (i.toNat, 0, 10)]) ⟨g.isLt, d.isLt, a.isLt, i.isLt, trivial⟩ rfl rfl rfl (by decide)
  revert hw
  show _ → decodeBytes ([pack 0x05800000 [(g.val, 29), (d.val, 16), (a.val, 10), (i.toNat, 0)]].flatMap bytesOfWord ++ rest) = _
  generalize pack 0x05800000 [(g.val, 29), (d.val, 16), (a.val, 10), (i.toNat, 0)] = wd
  intro ⟨hlt, hh, hp⟩
  have h0 : fld wd 29 3 = g.val := hh.1
  have h1 : fld wd 16 6 = d.val := hh.2.1
  have h2 : fld wd 10 6 = a.val := hh.2.2.1
  have h3 : fld wd 0 10 = i.toNat := hh.2.2.2.1
  have e0 : Fin.ofNat 8 (wd / 2 ^ 29) = g := finOf rfl h0
  have e1 : Fin.ofNat 64 (wd / 2 ^ 16) = d := finOf rfl h1
  have e2 : Fin.ofNat 64 (wd / 2 ^ 10) = a := finOf rfl h2
  have e3 : BitVec.ofNat 10 (wd / 2 ^ 0) = i := bitsOfField h3
  have hm : majorOf wd = 0x16 := hp 22 7 rfl
  have hn : i.toNat ≠ 0x200 := by
    intro e
    have : i = 0x200#10 := BitVec.eq_of_toNat_eq e
    subst this
    simp [Instr.wellFormed] at hwf
  exact decode_word rest hlt (by rw [literal10 hm (by decide), h3]; exact beq_false_of_ne hn)
    (decode_major (ne_zero_of_fld (hp 23 1 rfl) (by decide)) hm rfl
      (by rw [major16 _ _, dec16, h3, e0, e1, e2, e3]; simp [hn]) hwf)
theorem cbndImmLiteral (g : Fin 8) (d : Fin 64) (a : Fin 64) (lit : Word) : Statement (.cbndImmLiteral g d a lit) := by
  intro _ hwf rest
  have hw : Packed (pack 0x05800200 [(g.val, 29), (d.val, 16), (a.val, 10)]) 0x05800200 [(g.val, 29, 3), (d.val, 16, 6), (a.val, 10, 6)]
      [(29, 3), (16, 6), (10, 6)] := packed (k := 0x05800200) (fs := [(g.val, 29, 3), (d.val, 16, 6), (a.val, 10, 6)]) ⟨g.isLt, d.isLt, a.isLt, trivial⟩ rfl rfl rfl (by decide)
  revert hw
  show _ → decodeBytes ([pack 0x05800200 [(g.val, 29), (d.val, 16), (a.val, 10)], lit.toNat].flatMap bytesOfWord ++ rest) = _
  generalize pack 0x05800200 [(g.val, 29), (d.val, 16), (a.val, 10)] = wd
  intro ⟨hlt, hh, hp⟩
  have h0 : fld wd 29 3 = g.val := hh.1
  have h1 : fld wd 16 6 = d.val := hh.2.1
  have h2 : fld wd 10 6 = a.val := hh.2.2.1
  have e0 : Fin.ofNat 8 (wd / 2 ^ 29) = g := finOf rfl h0
  have e1 : Fin.ofNat 64 (wd / 2 ^ 16) = d := finOf rfl h1
  have e2 : Fin.ofNat 64 (wd / 2 ^ 10) = a := finOf rfl h2
  have hm : majorOf wd = 0x16 := hp 22 7 rfl
  have c0_10 : fld wd 0 10 = 512 := hp 0 10 rfl
  exact decode_literal rest hlt lit.isLt (by rw [literal10 hm (by decide), c0_10]; rfl)
    (decode_major (ne_zero_of_fld (hp 9 1 rfl) (by decide)) hm rfl
      (by rw [major16 _ _, dec16, c0_10, e0, e1, e2]; simp only [BitVec.ofNat_toNat, BitVec.setWidth_eq]; rfl) hwf)
theorem j (g : Fin 8) (o : Fin 4194304) : Statement (.j g o) := by
  intro _ hwf rest
  have hw : Packed (pack 0x06000000 [(g.val, 29), (o.val, 0)]) 0x06000000 [(g.val, 29, 3), (o.val, 0, 22)]
      [(29, 3), (0, 22)] := packed (k := 0x06000000) (fs := [(g.val, 29, 3), (o.val, 0, 22)]) ⟨g.isLt, o.isLt, trivial⟩ rfl rfl rfl (by decide)
  revert hw
  show _ → decodeBytes ([pack 0x06000000 [(g.val, 29), (o.val, 0)]].flatMap bytesOfWord ++ rest) = _
  generalize pack 0x06000000 [(g.val, 29), (o.val, 0)] = wd
  intro ⟨hlt, hh, hp⟩
  have h0 : fld wd 29 3 = g.val := hh.1
  have h1 : fld wd 0 22 = o.val := hh.2.1
  have e0 : Fin.ofNat 8 (wd / 2 ^ 29) = g := finOf rfl h0
  have e1 : Fin.ofNat 4194304 (wd / 2 ^ 0) = o := finOf rfl h1
  have hm : majorOf wd = 0x18 := hp 22 7 rfl
  exact decode_word rest hlt (by unfold hasLiteral; rw [hm]; rfl)
    (decode_major (ne_zero_of_fld (hp 25 1 rfl) (by decide)) hm rfl
      (by rw [major18 _ _, dec18, e0, e1]) hwf)
theorem call (g : Fin 8) (o : Fin 4194304) : Statement (.call g o) := by
  intro _ hwf rest
  have hw : Packed (pack 0x06400000 [(g.val, 29), (o.val, 0)]) 0x06400000 [(g.val, 29, 3), (o.val, 0, 22)]
      [(29, 3), (0, 22)] := packed (k := 0x06400000) (fs := [(g.val, 29, 3), (o.val, 0, 22)]) ⟨g.isLt, o.isLt, trivial⟩ rfl rfl rfl (by decide)
  revert hw
  show _ → decodeBytes ([pack 0x06400000 [(g.val, 29), (o.val, 0)]].flatMap bytesOfWord ++ rest) = _
  generalize pack 0x06400000 [(g.val, 29), (o.val, 0)] = wd
  intro ⟨hlt, hh, hp⟩
  have h0 : fld wd 29 3 = g.val := hh.1
  have h1 : fld wd 0 22 = o.val := hh.2.1
  have e0 : Fin.ofNat 8 (wd / 2 ^ 29) = g := finOf rfl h0
  have e1 : Fin.ofNat 4194304 (wd / 2 ^ 0) = o := finOf rfl h1
  have hm : majorOf wd = 0x19 := hp 22 7 rfl
  exact decode_word rest hlt (by unfold hasLiteral; rw [hm]; rfl)
    (decode_major (ne_zero_of_fld (hp 22 1 rfl) (by decide)) hm rfl
      (by rw [major19 _ _, dec19, e0, e1]) hwf)
theorem jr (g : Fin 8) (a : Fin 64) : Statement (.jr g a) := by
  intro _ hwf rest
  have hw : Packed (pack 0x06800000 [(g.val, 29), (a.val, 10)]) 0x06800000 [(g.val, 29, 3), (a.val, 10, 6)]
      [(29, 3), (10, 6)] := packed (k := 0x06800000) (fs := [(g.val, 29, 3), (a.val, 10, 6)]) ⟨g.isLt, a.isLt, trivial⟩ rfl rfl rfl (by decide)
  revert hw
  show _ → decodeBytes ([pack 0x06800000 [(g.val, 29), (a.val, 10)]].flatMap bytesOfWord ++ rest) = _
  generalize pack 0x06800000 [(g.val, 29), (a.val, 10)] = wd
  intro ⟨hlt, hh, hp⟩
  have h0 : fld wd 29 3 = g.val := hh.1
  have h1 : fld wd 10 6 = a.val := hh.2.1
  have e0 : Fin.ofNat 8 (wd / 2 ^ 29) = g := finOf rfl h0
  have e1 : Fin.ofNat 64 (wd / 2 ^ 10) = a := finOf rfl h1
  have hm : majorOf wd = 0x1A := hp 22 7 rfl
  have c0_10 : fld wd 0 10 = 0 := hp 0 10 rfl
  have n0_22_1 : fld wd 0 22 ≠ 1 := fld_ne (i := 0) (by decide) (hp 0 1 rfl) (by decide)
  have c16_6 : fld wd 16 6 = 0 := hp 16 6 rfl
  exact decode_word rest hlt (by unfold hasLiteral; rw [hm]; rfl)
    (decode_major (ne_zero_of_fld (hp 23 1 rfl) (by decide)) hm rfl
      (by rw [major1A _ _, dec1A, c0_10, c16_6, e0, e1]; simp [n0_22_1]) hwf)
theorem ret (g : Fin 8) : Statement (.ret g) := by
  intro _ hwf rest
  have hw : Packed (pack 0x06800001 [(g.val, 29)]) 0x06800001 [(g.val, 29, 3)]
      [(29, 3)] := packed (k := 0x06800001) (fs := [(g.val, 29, 3)]) ⟨g.isLt, trivial⟩ rfl rfl rfl (by decide)
  revert hw
  show _ → decodeBytes ([pack 0x06800001 [(g.val, 29)]].flatMap bytesOfWord ++ rest) = _
  generalize pack 0x06800001 [(g.val, 29)] = wd
  intro ⟨hlt, hh, hp⟩
  have h0 : fld wd 29 3 = g.val := hh.1
  have e0 : Fin.ofNat 8 (wd / 2 ^ 29) = g := finOf rfl h0
  have hm : majorOf wd = 0x1A := hp 22 7 rfl
  have c0_10 : fld wd 0 10 = 1 := hp 0 10 rfl
  have c0_22 : fld wd 0 22 = 1 := hp 0 22 rfl
  have c16_6 : fld wd 16 6 = 0 := hp 16 6 rfl
  exact decode_word rest hlt (by unfold hasLiteral; rw [hm]; rfl)
    (decode_major (ne_zero_of_fld (hp 0 1 rfl) (by decide)) hm rfl
      (by rw [major1A _ _, dec1A, c0_10, c0_22, c16_6, e0]; rfl) hwf)
theorem bgF (g : Fin 8) (h : Fin 8) (o : Fin 262144) : Statement (.bgF g h o) := by
  intro _ hwf rest
  have hw : Packed (pack 0x06C00000 [(g.val, 29), (h.val, 19), (o.val, 0)]) 0x06C00000 [(g.val, 29, 3), (h.val, 19, 3), (o.val, 0, 18)]
      [(29, 3), (19, 3), (0, 18)] := packed (k := 0x06C00000) (fs := [(g.val, 29, 3), (h.val, 19, 3), (o.val, 0, 18)]) ⟨g.isLt, h.isLt, o.isLt, trivial⟩ rfl rfl rfl (by decide)
  revert hw
  show _ → decodeBytes ([pack 0x06C00000 [(g.val, 29), (h.val, 19), (o.val, 0)]].flatMap bytesOfWord ++ rest) = _
  generalize pack 0x06C00000 [(g.val, 29), (h.val, 19), (o.val, 0)] = wd
  intro ⟨hlt, hh, hp⟩
  have h0 : fld wd 29 3 = g.val := hh.1
  have h1 : fld wd 19 3 = h.val := hh.2.1
  have h2 : fld wd 0 18 = o.val := hh.2.2.1
  have e0 : Fin.ofNat 8 (wd / 2 ^ 29) = g := finOf rfl h0
  have e1 : Fin.ofNat 8 (wd / 2 ^ 19) = h := finOf rfl h1
  have e2 : Fin.ofNat 262144 (wd / 2 ^ 0) = o := finOf rfl h2
  have hm : majorOf wd = 0x1B := hp 22 7 rfl
  have c18_1 : fld wd 18 1 = 0 := hp 18 1 rfl
  exact decode_word rest hlt (by unfold hasLiteral; rw [hm]; rfl)
    (decode_major (ne_zero_of_fld (hp 22 1 rfl) (by decide)) hm rfl
      (by rw [major1B _ _, dec1B, c18_1, e0, e1, e2]; rfl) hwf)
theorem bgT (g : Fin 8) (h : Fin 8) (o : Fin 262144) : Statement (.bgT g h o) := by
  intro _ hwf rest
  have hw : Packed (pack 0x06C40000 [(g.val, 29), (h.val, 19), (o.val, 0)]) 0x06C40000 [(g.val, 29, 3), (h.val, 19, 3), (o.val, 0, 18)]
      [(29, 3), (19, 3), (0, 18)] := packed (k := 0x06C40000) (fs := [(g.val, 29, 3), (h.val, 19, 3), (o.val, 0, 18)]) ⟨g.isLt, h.isLt, o.isLt, trivial⟩ rfl rfl rfl (by decide)
  revert hw
  show _ → decodeBytes ([pack 0x06C40000 [(g.val, 29), (h.val, 19), (o.val, 0)]].flatMap bytesOfWord ++ rest) = _
  generalize pack 0x06C40000 [(g.val, 29), (h.val, 19), (o.val, 0)] = wd
  intro ⟨hlt, hh, hp⟩
  have h0 : fld wd 29 3 = g.val := hh.1
  have h1 : fld wd 19 3 = h.val := hh.2.1
  have h2 : fld wd 0 18 = o.val := hh.2.2.1
  have e0 : Fin.ofNat 8 (wd / 2 ^ 29) = g := finOf rfl h0
  have e1 : Fin.ofNat 8 (wd / 2 ^ 19) = h := finOf rfl h1
  have e2 : Fin.ofNat 262144 (wd / 2 ^ 0) = o := finOf rfl h2
  have hm : majorOf wd = 0x1B := hp 22 7 rfl
  have c18_1 : fld wd 18 1 = 1 := hp 18 1 rfl
  exact decode_word rest hlt (by unfold hasLiteral; rw [hm]; rfl)
    (decode_major (ne_zero_of_fld (hp 18 1 rfl) (by decide)) hm rfl
      (by rw [major1B _ _, dec1B, c18_1, e0, e1, e2]; rfl) hwf)
theorem rep (g : Fin 8) (l : Fin 64) (i : BitVec 10) : Statement (.rep g l i) := by
  intro _ hwf rest
  have hw : Packed (pack 0x07000000 [(g.val, 29), (l.val, 16), (i.toNat, 0)]) 0x07000000 [(g.val, 29, 3), (l.val, 16, 6), (i.toNat, 0, 10)]
      [(29, 3), (16, 6), (0, 10)] := packed (k := 0x07000000) (fs := [(g.val, 29, 3), (l.val, 16, 6), (i.toNat, 0, 10)]) ⟨g.isLt, l.isLt, i.isLt, trivial⟩ rfl rfl rfl (by decide)
  revert hw
  show _ → decodeBytes ([pack 0x07000000 [(g.val, 29), (l.val, 16), (i.toNat, 0)]].flatMap bytesOfWord ++ rest) = _
  generalize pack 0x07000000 [(g.val, 29), (l.val, 16), (i.toNat, 0)] = wd
  intro ⟨hlt, hh, hp⟩
  have h0 : fld wd 29 3 = g.val := hh.1
  have h1 : fld wd 16 6 = l.val := hh.2.1
  have h2 : fld wd 0 10 = i.toNat := hh.2.2.1
  have e0 : Fin.ofNat 8 (wd / 2 ^ 29) = g := finOf rfl h0
  have e1 : Fin.ofNat 64 (wd / 2 ^ 16) = l := finOf rfl h1
  have e2 : BitVec.ofNat 10 (wd / 2 ^ 0) = i := bitsOfField h2
  have hm : majorOf wd = 0x1C := hp 22 7 rfl
  have c10_6 : fld wd 10 6 = 0 := hp 10 6 rfl
  have hn : i.toNat ≠ 0x200 := by
    intro e
    have : i = 0x200#10 := BitVec.eq_of_toNat_eq e
    subst this
    simp [Instr.wellFormed] at hwf
  exact decode_word rest hlt (by rw [literal1C hm, h2, beq_false_of_ne hn, Bool.and_false])
    (decode_major (ne_zero_of_fld (hp 24 1 rfl) (by decide)) hm rfl
      (by rw [major1C _ _, dec1C, h2, c10_6, e0, e1, e2]; simp [hn]) hwf)
theorem repLiteral (g : Fin 8) (l : Fin 64) (lit : Word) : Statement (.repLiteral g l lit) := by
  intro _ hwf rest
  have hw : Packed (pack 0x07000200 [(g.val, 29), (l.val, 16)]) 0x07000200 [(g.val, 29, 3), (l.val, 16, 6)]
      [(29, 3), (16, 6)] := packed (k := 0x07000200) (fs := [(g.val, 29, 3), (l.val, 16, 6)]) ⟨g.isLt, l.isLt, trivial⟩ rfl rfl rfl (by decide)
  revert hw
  show _ → decodeBytes ([pack 0x07000200 [(g.val, 29), (l.val, 16)], lit.toNat].flatMap bytesOfWord ++ rest) = _
  generalize pack 0x07000200 [(g.val, 29), (l.val, 16)] = wd
  intro ⟨hlt, hh, hp⟩
  have h0 : fld wd 29 3 = g.val := hh.1
  have h1 : fld wd 16 6 = l.val := hh.2.1
  have e0 : Fin.ofNat 8 (wd / 2 ^ 29) = g := finOf rfl h0
  have e1 : Fin.ofNat 64 (wd / 2 ^ 16) = l := finOf rfl h1
  have hm : majorOf wd = 0x1C := hp 22 7 rfl
  have c0_10 : fld wd 0 10 = 512 := hp 0 10 rfl
  have c10_6 : fld wd 10 6 = 0 := hp 10 6 rfl
  exact decode_literal rest hlt lit.isLt (by rw [literal1C hm, c0_10, c10_6]; rfl)
    (decode_major (ne_zero_of_fld (hp 9 1 rfl) (by decide)) hm rfl
      (by rw [major1C _ _, dec1C, c0_10, c10_6, e0, e1]; simp only [BitVec.ofNat_toNat, BitVec.setWidth_eq]; rfl) hwf)
theorem repReg (g : Fin 8) (l : Fin 64) (a : Fin 64) : Statement (.repReg g l a) := by
  intro _ hwf rest
  have hw : Packed (pack 0x07000000 [(g.val, 29), (l.val, 16), (a.val, 10)]) 0x07000000 [(g.val, 29, 3), (l.val, 16, 6), (a.val, 10, 6)]
      [(29, 3), (16, 6), (10, 6)] := packed (k := 0x07000000) (fs := [(g.val, 29, 3), (l.val, 16, 6), (a.val, 10, 6)]) ⟨g.isLt, l.isLt, a.isLt, trivial⟩ rfl rfl rfl (by decide)
  revert hw
  show _ → decodeBytes ([pack 0x07000000 [(g.val, 29), (l.val, 16), (a.val, 10)]].flatMap bytesOfWord ++ rest) = _
  generalize pack 0x07000000 [(g.val, 29), (l.val, 16), (a.val, 10)] = wd
  intro ⟨hlt, hh, hp⟩
  have h0 : fld wd 29 3 = g.val := hh.1
  have h1 : fld wd 16 6 = l.val := hh.2.1
  have h2 : fld wd 10 6 = a.val := hh.2.2.1
  have e0 : Fin.ofNat 8 (wd / 2 ^ 29) = g := finOf rfl h0
  have e1 : Fin.ofNat 64 (wd / 2 ^ 16) = l := finOf rfl h1
  have e2 : Fin.ofNat 64 (wd / 2 ^ 10) = a := finOf rfl h2
  have hm : majorOf wd = 0x1C := hp 22 7 rfl
  have c0_10 : fld wd 0 10 = 0 := hp 0 10 rfl
  exact decode_word rest hlt (by rw [literal1C hm, c0_10]; exact Bool.and_false _)
    (decode_major (ne_zero_of_fld (hp 24 1 rfl) (by decide)) hm rfl
      (by rw [major1C _ _, dec1C, c0_10, h2, e0, e1, e2]; simp; intro e; simp [Instr.wellFormed, e] at hwf) hwf)
theorem nop (g : Fin 8) : Statement (.nop g) := by
  intro _ hwf rest
  have hw : Packed (pack 0x07400000 [(g.val, 29)]) 0x07400000 [(g.val, 29, 3)]
      [(29, 3)] := packed (k := 0x07400000) (fs := [(g.val, 29, 3)]) ⟨g.isLt, trivial⟩ rfl rfl rfl (by decide)
  revert hw
  show _ → decodeBytes ([pack 0x07400000 [(g.val, 29)]].flatMap bytesOfWord ++ rest) = _
  generalize pack 0x07400000 [(g.val, 29)] = wd
  intro ⟨hlt, hh, hp⟩
  have h0 : fld wd 29 3 = g.val := hh.1
  have e0 : Fin.ofNat 8 (wd / 2 ^ 29) = g := finOf rfl h0
  have hm : majorOf wd = 0x1D := hp 22 7 rfl
  have c0_22 : fld wd 0 22 = 0 := hp 0 22 rfl
  exact decode_word rest hlt (by unfold hasLiteral; rw [hm]; rfl)
    (decode_major (ne_zero_of_fld (hp 22 1 rfl) (by decide)) hm rfl
      (by rw [major1D _ _, dec1D, c0_22, e0]; rfl) hwf)
theorem trap (g : Fin 8) (i : Fin 512) : Statement (.trap g i) := by
  intro _ hwf rest
  have hw : Packed (pack 0x07800000 [(g.val, 29), (i.val, 0)]) 0x07800000 [(g.val, 29, 3), (i.val, 0, 9)]
      [(29, 3), (0, 9)] := packed (k := 0x07800000) (fs := [(g.val, 29, 3), (i.val, 0, 9)]) ⟨g.isLt, i.isLt, trivial⟩ rfl rfl rfl (by decide)
  revert hw
  show _ → decodeBytes ([pack 0x07800000 [(g.val, 29), (i.val, 0)]].flatMap bytesOfWord ++ rest) = _
  generalize pack 0x07800000 [(g.val, 29), (i.val, 0)] = wd
  intro ⟨hlt, hh, hp⟩
  have h0 : fld wd 29 3 = g.val := hh.1
  have h1 : fld wd 0 9 = i.val := hh.2.1
  have e0 : Fin.ofNat 8 (wd / 2 ^ 29) = g := finOf rfl h0
  have e1 : Fin.ofNat 512 (wd / 2 ^ 0) = i := finOf rfl h1
  have hm : majorOf wd = 0x1E := hp 22 7 rfl
  have c9_13 : fld wd 9 13 = 0 := hp 9 13 rfl
  exact decode_word rest hlt (by unfold hasLiteral; rw [hm]; rfl)
    (decode_major (ne_zero_of_fld (hp 23 1 rfl) (by decide)) hm rfl
      (by rw [major1E _ _, dec1E, c9_13, e0, e1]; rfl) hwf)
theorem suspend (g : Fin 8) (a : Fin 64) (b : Fin 64) : Statement (.suspend g a b) := by
  intro _ hwf rest
  have hw : Packed (pack 0x07C00000 [(g.val, 29), (a.val, 10), (b.val, 4)]) 0x07C00000 [(g.val, 29, 3), (a.val, 10, 6), (b.val, 4, 6)]
      [(29, 3), (10, 6), (4, 6)] := packed (k := 0x07C00000) (fs := [(g.val, 29, 3), (a.val, 10, 6), (b.val, 4, 6)]) ⟨g.isLt, a.isLt, b.isLt, trivial⟩ rfl rfl rfl (by decide)
  revert hw
  show _ → decodeBytes ([pack 0x07C00000 [(g.val, 29), (a.val, 10), (b.val, 4)]].flatMap bytesOfWord ++ rest) = _
  generalize pack 0x07C00000 [(g.val, 29), (a.val, 10), (b.val, 4)] = wd
  intro ⟨hlt, hh, hp⟩
  have h0 : fld wd 29 3 = g.val := hh.1
  have h1 : fld wd 10 6 = a.val := hh.2.1
  have h2 : fld wd 4 6 = b.val := hh.2.2.1
  have e0 : Fin.ofNat 8 (wd / 2 ^ 29) = g := finOf rfl h0
  have e1 : Fin.ofNat 64 (wd / 2 ^ 10) = a := finOf rfl h1
  have e2 : Fin.ofNat 64 (wd / 2 ^ 4) = b := finOf rfl h2
  have hm : majorOf wd = 0x1F := hp 22 7 rfl
  have c0_4 : fld wd 0 4 = 0 := hp 0 4 rfl
  have n0_22_1 : fld wd 0 22 ≠ 1 := fld_ne (i := 0) (by decide) (hp 0 1 rfl) (by decide)
  have c16_6 : fld wd 16 6 = 0 := hp 16 6 rfl
  exact decode_word rest hlt (by unfold hasLiteral; rw [hm]; rfl)
    (decode_major (ne_zero_of_fld (hp 22 1 rfl) (by decide)) hm rfl
      (by rw [major1F _ _, dec1F, c0_4, c16_6, e0, e1, e2]; simp [n0_22_1]) hwf)
theorem hend (g : Fin 8) : Statement (.hend g) := by
  intro _ hwf rest
  have hw : Packed (pack 0x07C00001 [(g.val, 29)]) 0x07C00001 [(g.val, 29, 3)]
      [(29, 3)] := packed (k := 0x07C00001) (fs := [(g.val, 29, 3)]) ⟨g.isLt, trivial⟩ rfl rfl rfl (by decide)
  revert hw
  show _ → decodeBytes ([pack 0x07C00001 [(g.val, 29)]].flatMap bytesOfWord ++ rest) = _
  generalize pack 0x07C00001 [(g.val, 29)] = wd
  intro ⟨hlt, hh, hp⟩
  have h0 : fld wd 29 3 = g.val := hh.1
  have e0 : Fin.ofNat 8 (wd / 2 ^ 29) = g := finOf rfl h0
  have hm : majorOf wd = 0x1F := hp 22 7 rfl
  have c0_4 : fld wd 0 4 = 1 := hp 0 4 rfl
  have c0_22 : fld wd 0 22 = 1 := hp 0 22 rfl
  have c16_6 : fld wd 16 6 = 0 := hp 16 6 rfl
  exact decode_word rest hlt (by unfold hasLiteral; rw [hm]; rfl)
    (decode_major (ne_zero_of_fld (hp 0 1 rfl) (by decide)) hm rfl
      (by rw [major1F _ _, dec1F, c0_4, c0_22, c16_6, e0]; rfl) hwf)
theorem ldB (g : Fin 8) (d : Fin 64) (b : Fin 64) (l : Fin 16) (o : Fin 64) : Statement (.ldB g d b l o) := by
  intro _ hwf rest
  have hw : Packed (pack 0x08000000 [(g.val, 29), (d.val, 16), (b.val, 10), (l.val, 6), (o.val, 0)]) 0x08000000 [(g.val, 29, 3), (d.val, 16, 6), (b.val, 10, 6), (l.val, 6, 4), (o.val, 0, 6)]
      [(29, 3), (16, 6), (10, 6), (6, 4), (0, 6)] := packed (k := 0x08000000) (fs := [(g.val, 29, 3), (d.val, 16, 6), (b.val, 10, 6), (l.val, 6, 4), (o.val, 0, 6)]) ⟨g.isLt, d.isLt, b.isLt, l.isLt, o.isLt, trivial⟩ rfl rfl rfl (by decide)
  revert hw
  show _ → decodeBytes ([pack 0x08000000 [(g.val, 29), (d.val, 16), (b.val, 10), (l.val, 6), (o.val, 0)]].flatMap bytesOfWord ++ rest) = _
  generalize pack 0x08000000 [(g.val, 29), (d.val, 16), (b.val, 10), (l.val, 6), (o.val, 0)] = wd
  intro ⟨hlt, hh, hp⟩
  have h0 : fld wd 29 3 = g.val := hh.1
  have h1 : fld wd 16 6 = d.val := hh.2.1
  have h2 : fld wd 10 6 = b.val := hh.2.2.1
  have h3 : fld wd 6 4 = l.val := hh.2.2.2.1
  have h4 : fld wd 0 6 = o.val := hh.2.2.2.2.1
  have e0 : Fin.ofNat 8 (wd / 2 ^ 29) = g := finOf rfl h0
  have e1 : Fin.ofNat 64 (wd / 2 ^ 16) = d := finOf rfl h1
  have e2 : Fin.ofNat 64 (wd / 2 ^ 10) = b := finOf rfl h2
  have e3 : Fin.ofNat 16 (wd / 2 ^ 6) = l := finOf rfl h3
  have e4 : Fin.ofNat 64 (wd / 2 ^ 0) = o := finOf rfl h4
  have hm : majorOf wd = 0x20 := hp 22 7 rfl
  have hn : o.val ≠ 0x20 := by
    intro e
    simp [Instr.wellFormed, e] at hwf
  exact decode_word rest hlt (by rw [literal6 hm (by decide), h4]; exact beq_false_of_ne hn)
    (decode_major (ne_zero_of_fld (hp 27 1 rfl) (by decide)) hm rfl
      (by rw [major20 _ _, dec20, h4, e0, e1, e2, e3, e4]; simp [hn]) hwf)
theorem ldBLiteral (g : Fin 8) (d : Fin 64) (b : Fin 64) (l : Fin 16) (lit : Word) : Statement (.ldBLiteral g d b l lit) := by
  intro _ hwf rest
  have hw : Packed (pack 0x08000020 [(g.val, 29), (d.val, 16), (b.val, 10), (l.val, 6)]) 0x08000020 [(g.val, 29, 3), (d.val, 16, 6), (b.val, 10, 6), (l.val, 6, 4)]
      [(29, 3), (16, 6), (10, 6), (6, 4)] := packed (k := 0x08000020) (fs := [(g.val, 29, 3), (d.val, 16, 6), (b.val, 10, 6), (l.val, 6, 4)]) ⟨g.isLt, d.isLt, b.isLt, l.isLt, trivial⟩ rfl rfl rfl (by decide)
  revert hw
  show _ → decodeBytes ([pack 0x08000020 [(g.val, 29), (d.val, 16), (b.val, 10), (l.val, 6)], lit.toNat].flatMap bytesOfWord ++ rest) = _
  generalize pack 0x08000020 [(g.val, 29), (d.val, 16), (b.val, 10), (l.val, 6)] = wd
  intro ⟨hlt, hh, hp⟩
  have h0 : fld wd 29 3 = g.val := hh.1
  have h1 : fld wd 16 6 = d.val := hh.2.1
  have h2 : fld wd 10 6 = b.val := hh.2.2.1
  have h3 : fld wd 6 4 = l.val := hh.2.2.2.1
  have e0 : Fin.ofNat 8 (wd / 2 ^ 29) = g := finOf rfl h0
  have e1 : Fin.ofNat 64 (wd / 2 ^ 16) = d := finOf rfl h1
  have e2 : Fin.ofNat 64 (wd / 2 ^ 10) = b := finOf rfl h2
  have e3 : Fin.ofNat 16 (wd / 2 ^ 6) = l := finOf rfl h3
  have hm : majorOf wd = 0x20 := hp 22 7 rfl
  have c0_6 : fld wd 0 6 = 32 := hp 0 6 rfl
  exact decode_literal rest hlt lit.isLt (by rw [literal6 hm (by decide), c0_6]; rfl)
    (decode_major (ne_zero_of_fld (hp 5 1 rfl) (by decide)) hm rfl
      (by rw [major20 _ _, dec20, c0_6, e0, e1, e2, e3]; simp only [BitVec.ofNat_toNat, BitVec.setWidth_eq]; rfl) hwf)
theorem ldH (g : Fin 8) (d : Fin 64) (b : Fin 64) (l : Fin 16) (o : Fin 64) : Statement (.ldH g d b l o) := by
  intro _ hwf rest
  have hw : Packed (pack 0x08400000 [(g.val, 29), (d.val, 16), (b.val, 10), (l.val, 6), (o.val, 0)]) 0x08400000 [(g.val, 29, 3), (d.val, 16, 6), (b.val, 10, 6), (l.val, 6, 4), (o.val, 0, 6)]
      [(29, 3), (16, 6), (10, 6), (6, 4), (0, 6)] := packed (k := 0x08400000) (fs := [(g.val, 29, 3), (d.val, 16, 6), (b.val, 10, 6), (l.val, 6, 4), (o.val, 0, 6)]) ⟨g.isLt, d.isLt, b.isLt, l.isLt, o.isLt, trivial⟩ rfl rfl rfl (by decide)
  revert hw
  show _ → decodeBytes ([pack 0x08400000 [(g.val, 29), (d.val, 16), (b.val, 10), (l.val, 6), (o.val, 0)]].flatMap bytesOfWord ++ rest) = _
  generalize pack 0x08400000 [(g.val, 29), (d.val, 16), (b.val, 10), (l.val, 6), (o.val, 0)] = wd
  intro ⟨hlt, hh, hp⟩
  have h0 : fld wd 29 3 = g.val := hh.1
  have h1 : fld wd 16 6 = d.val := hh.2.1
  have h2 : fld wd 10 6 = b.val := hh.2.2.1
  have h3 : fld wd 6 4 = l.val := hh.2.2.2.1
  have h4 : fld wd 0 6 = o.val := hh.2.2.2.2.1
  have e0 : Fin.ofNat 8 (wd / 2 ^ 29) = g := finOf rfl h0
  have e1 : Fin.ofNat 64 (wd / 2 ^ 16) = d := finOf rfl h1
  have e2 : Fin.ofNat 64 (wd / 2 ^ 10) = b := finOf rfl h2
  have e3 : Fin.ofNat 16 (wd / 2 ^ 6) = l := finOf rfl h3
  have e4 : Fin.ofNat 64 (wd / 2 ^ 0) = o := finOf rfl h4
  have hm : majorOf wd = 0x21 := hp 22 7 rfl
  have hn : o.val ≠ 0x20 := by
    intro e
    simp [Instr.wellFormed, e] at hwf
  exact decode_word rest hlt (by rw [literal6 hm (by decide), h4]; exact beq_false_of_ne hn)
    (decode_major (ne_zero_of_fld (hp 22 1 rfl) (by decide)) hm rfl
      (by rw [major21 _ _, dec21, h4, e0, e1, e2, e3, e4]; simp [hn]) hwf)
theorem ldHLiteral (g : Fin 8) (d : Fin 64) (b : Fin 64) (l : Fin 16) (lit : Word) : Statement (.ldHLiteral g d b l lit) := by
  intro _ hwf rest
  have hw : Packed (pack 0x08400020 [(g.val, 29), (d.val, 16), (b.val, 10), (l.val, 6)]) 0x08400020 [(g.val, 29, 3), (d.val, 16, 6), (b.val, 10, 6), (l.val, 6, 4)]
      [(29, 3), (16, 6), (10, 6), (6, 4)] := packed (k := 0x08400020) (fs := [(g.val, 29, 3), (d.val, 16, 6), (b.val, 10, 6), (l.val, 6, 4)]) ⟨g.isLt, d.isLt, b.isLt, l.isLt, trivial⟩ rfl rfl rfl (by decide)
  revert hw
  show _ → decodeBytes ([pack 0x08400020 [(g.val, 29), (d.val, 16), (b.val, 10), (l.val, 6)], lit.toNat].flatMap bytesOfWord ++ rest) = _
  generalize pack 0x08400020 [(g.val, 29), (d.val, 16), (b.val, 10), (l.val, 6)] = wd
  intro ⟨hlt, hh, hp⟩
  have h0 : fld wd 29 3 = g.val := hh.1
  have h1 : fld wd 16 6 = d.val := hh.2.1
  have h2 : fld wd 10 6 = b.val := hh.2.2.1
  have h3 : fld wd 6 4 = l.val := hh.2.2.2.1
  have e0 : Fin.ofNat 8 (wd / 2 ^ 29) = g := finOf rfl h0
  have e1 : Fin.ofNat 64 (wd / 2 ^ 16) = d := finOf rfl h1
  have e2 : Fin.ofNat 64 (wd / 2 ^ 10) = b := finOf rfl h2
  have e3 : Fin.ofNat 16 (wd / 2 ^ 6) = l := finOf rfl h3
  have hm : majorOf wd = 0x21 := hp 22 7 rfl
  have c0_6 : fld wd 0 6 = 32 := hp 0 6 rfl
  exact decode_literal rest hlt lit.isLt (by rw [literal6 hm (by decide), c0_6]; rfl)
    (decode_major (ne_zero_of_fld (hp 5 1 rfl) (by decide)) hm rfl
      (by rw [major21 _ _, dec21, c0_6, e0, e1, e2, e3]; simp only [BitVec.ofNat_toNat, BitVec.setWidth_eq]; rfl) hwf)
theorem ldW (g : Fin 8) (d : Fin 64) (b : Fin 64) (l : Fin 16) (o : Fin 64) : Statement (.ldW g d b l o) := by
  intro _ hwf rest
  have hw : Packed (pack 0x08800000 [(g.val, 29), (d.val, 16), (b.val, 10), (l.val, 6), (o.val, 0)]) 0x08800000 [(g.val, 29, 3), (d.val, 16, 6), (b.val, 10, 6), (l.val, 6, 4), (o.val, 0, 6)]
      [(29, 3), (16, 6), (10, 6), (6, 4), (0, 6)] := packed (k := 0x08800000) (fs := [(g.val, 29, 3), (d.val, 16, 6), (b.val, 10, 6), (l.val, 6, 4), (o.val, 0, 6)]) ⟨g.isLt, d.isLt, b.isLt, l.isLt, o.isLt, trivial⟩ rfl rfl rfl (by decide)
  revert hw
  show _ → decodeBytes ([pack 0x08800000 [(g.val, 29), (d.val, 16), (b.val, 10), (l.val, 6), (o.val, 0)]].flatMap bytesOfWord ++ rest) = _
  generalize pack 0x08800000 [(g.val, 29), (d.val, 16), (b.val, 10), (l.val, 6), (o.val, 0)] = wd
  intro ⟨hlt, hh, hp⟩
  have h0 : fld wd 29 3 = g.val := hh.1
  have h1 : fld wd 16 6 = d.val := hh.2.1
  have h2 : fld wd 10 6 = b.val := hh.2.2.1
  have h3 : fld wd 6 4 = l.val := hh.2.2.2.1
  have h4 : fld wd 0 6 = o.val := hh.2.2.2.2.1
  have e0 : Fin.ofNat 8 (wd / 2 ^ 29) = g := finOf rfl h0
  have e1 : Fin.ofNat 64 (wd / 2 ^ 16) = d := finOf rfl h1
  have e2 : Fin.ofNat 64 (wd / 2 ^ 10) = b := finOf rfl h2
  have e3 : Fin.ofNat 16 (wd / 2 ^ 6) = l := finOf rfl h3
  have e4 : Fin.ofNat 64 (wd / 2 ^ 0) = o := finOf rfl h4
  have hm : majorOf wd = 0x22 := hp 22 7 rfl
  have hn : o.val ≠ 0x20 := by
    intro e
    simp [Instr.wellFormed, e] at hwf
  exact decode_word rest hlt (by rw [literal6 hm (by decide), h4]; exact beq_false_of_ne hn)
    (decode_major (ne_zero_of_fld (hp 23 1 rfl) (by decide)) hm rfl
      (by rw [major22 _ _, dec22, h4, e0, e1, e2, e3, e4]; simp [hn]) hwf)
theorem ldWLiteral (g : Fin 8) (d : Fin 64) (b : Fin 64) (l : Fin 16) (lit : Word) : Statement (.ldWLiteral g d b l lit) := by
  intro _ hwf rest
  have hw : Packed (pack 0x08800020 [(g.val, 29), (d.val, 16), (b.val, 10), (l.val, 6)]) 0x08800020 [(g.val, 29, 3), (d.val, 16, 6), (b.val, 10, 6), (l.val, 6, 4)]
      [(29, 3), (16, 6), (10, 6), (6, 4)] := packed (k := 0x08800020) (fs := [(g.val, 29, 3), (d.val, 16, 6), (b.val, 10, 6), (l.val, 6, 4)]) ⟨g.isLt, d.isLt, b.isLt, l.isLt, trivial⟩ rfl rfl rfl (by decide)
  revert hw
  show _ → decodeBytes ([pack 0x08800020 [(g.val, 29), (d.val, 16), (b.val, 10), (l.val, 6)], lit.toNat].flatMap bytesOfWord ++ rest) = _
  generalize pack 0x08800020 [(g.val, 29), (d.val, 16), (b.val, 10), (l.val, 6)] = wd
  intro ⟨hlt, hh, hp⟩
  have h0 : fld wd 29 3 = g.val := hh.1
  have h1 : fld wd 16 6 = d.val := hh.2.1
  have h2 : fld wd 10 6 = b.val := hh.2.2.1
  have h3 : fld wd 6 4 = l.val := hh.2.2.2.1
  have e0 : Fin.ofNat 8 (wd / 2 ^ 29) = g := finOf rfl h0
  have e1 : Fin.ofNat 64 (wd / 2 ^ 16) = d := finOf rfl h1
  have e2 : Fin.ofNat 64 (wd / 2 ^ 10) = b := finOf rfl h2
  have e3 : Fin.ofNat 16 (wd / 2 ^ 6) = l := finOf rfl h3
  have hm : majorOf wd = 0x22 := hp 22 7 rfl
  have c0_6 : fld wd 0 6 = 32 := hp 0 6 rfl
  exact decode_literal rest hlt lit.isLt (by rw [literal6 hm (by decide), c0_6]; rfl)
    (decode_major (ne_zero_of_fld (hp 5 1 rfl) (by decide)) hm rfl
      (by rw [major22 _ _, dec22, c0_6, e0, e1, e2, e3]; simp only [BitVec.ofNat_toNat, BitVec.setWidth_eq]; rfl) hwf)
theorem ldD (g : Fin 8) (d : Fin 64) (b : Fin 64) (l : Fin 16) (o : Fin 64) : Statement (.ldD g d b l o) := by
  intro _ hwf rest
  have hw : Packed (pack 0x08C00000 [(g.val, 29), (d.val, 16), (b.val, 10), (l.val, 6), (o.val, 0)]) 0x08C00000 [(g.val, 29, 3), (d.val, 16, 6), (b.val, 10, 6), (l.val, 6, 4), (o.val, 0, 6)]
      [(29, 3), (16, 6), (10, 6), (6, 4), (0, 6)] := packed (k := 0x08C00000) (fs := [(g.val, 29, 3), (d.val, 16, 6), (b.val, 10, 6), (l.val, 6, 4), (o.val, 0, 6)]) ⟨g.isLt, d.isLt, b.isLt, l.isLt, o.isLt, trivial⟩ rfl rfl rfl (by decide)
  revert hw
  show _ → decodeBytes ([pack 0x08C00000 [(g.val, 29), (d.val, 16), (b.val, 10), (l.val, 6), (o.val, 0)]].flatMap bytesOfWord ++ rest) = _
  generalize pack 0x08C00000 [(g.val, 29), (d.val, 16), (b.val, 10), (l.val, 6), (o.val, 0)] = wd
  intro ⟨hlt, hh, hp⟩
  have h0 : fld wd 29 3 = g.val := hh.1
  have h1 : fld wd 16 6 = d.val := hh.2.1
  have h2 : fld wd 10 6 = b.val := hh.2.2.1
  have h3 : fld wd 6 4 = l.val := hh.2.2.2.1
  have h4 : fld wd 0 6 = o.val := hh.2.2.2.2.1
  have e0 : Fin.ofNat 8 (wd / 2 ^ 29) = g := finOf rfl h0
  have e1 : Fin.ofNat 64 (wd / 2 ^ 16) = d := finOf rfl h1
  have e2 : Fin.ofNat 64 (wd / 2 ^ 10) = b := finOf rfl h2
  have e3 : Fin.ofNat 16 (wd / 2 ^ 6) = l := finOf rfl h3
  have e4 : Fin.ofNat 64 (wd / 2 ^ 0) = o := finOf rfl h4
  have hm : majorOf wd = 0x23 := hp 22 7 rfl
  have hn : o.val ≠ 0x20 := by
    intro e
    simp [Instr.wellFormed, e] at hwf
  exact decode_word rest hlt (by rw [literal6 hm (by decide), h4]; exact beq_false_of_ne hn)
    (decode_major (ne_zero_of_fld (hp 22 1 rfl) (by decide)) hm rfl
      (by rw [major23 _ _, dec23, h4, e0, e1, e2, e3, e4]; simp [hn]) hwf)
theorem ldDLiteral (g : Fin 8) (d : Fin 64) (b : Fin 64) (l : Fin 16) (lit : Word) : Statement (.ldDLiteral g d b l lit) := by
  intro _ hwf rest
  have hw : Packed (pack 0x08C00020 [(g.val, 29), (d.val, 16), (b.val, 10), (l.val, 6)]) 0x08C00020 [(g.val, 29, 3), (d.val, 16, 6), (b.val, 10, 6), (l.val, 6, 4)]
      [(29, 3), (16, 6), (10, 6), (6, 4)] := packed (k := 0x08C00020) (fs := [(g.val, 29, 3), (d.val, 16, 6), (b.val, 10, 6), (l.val, 6, 4)]) ⟨g.isLt, d.isLt, b.isLt, l.isLt, trivial⟩ rfl rfl rfl (by decide)
  revert hw
  show _ → decodeBytes ([pack 0x08C00020 [(g.val, 29), (d.val, 16), (b.val, 10), (l.val, 6)], lit.toNat].flatMap bytesOfWord ++ rest) = _
  generalize pack 0x08C00020 [(g.val, 29), (d.val, 16), (b.val, 10), (l.val, 6)] = wd
  intro ⟨hlt, hh, hp⟩
  have h0 : fld wd 29 3 = g.val := hh.1
  have h1 : fld wd 16 6 = d.val := hh.2.1
  have h2 : fld wd 10 6 = b.val := hh.2.2.1
  have h3 : fld wd 6 4 = l.val := hh.2.2.2.1
  have e0 : Fin.ofNat 8 (wd / 2 ^ 29) = g := finOf rfl h0
  have e1 : Fin.ofNat 64 (wd / 2 ^ 16) = d := finOf rfl h1
  have e2 : Fin.ofNat 64 (wd / 2 ^ 10) = b := finOf rfl h2
  have e3 : Fin.ofNat 16 (wd / 2 ^ 6) = l := finOf rfl h3
  have hm : majorOf wd = 0x23 := hp 22 7 rfl
  have c0_6 : fld wd 0 6 = 32 := hp 0 6 rfl
  exact decode_literal rest hlt lit.isLt (by rw [literal6 hm (by decide), c0_6]; rfl)
    (decode_major (ne_zero_of_fld (hp 5 1 rfl) (by decide)) hm rfl
      (by rw [major23 _ _, dec23, c0_6, e0, e1, e2, e3]; simp only [BitVec.ofNat_toNat, BitVec.setWidth_eq]; rfl) hwf)
theorem ldQ (g : Fin 8) (d : Fin 64) (b : Fin 64) (l : Fin 16) (o : Fin 64) : Statement (.ldQ g d b l o) := by
  intro _ hwf rest
  have hw : Packed (pack 0x09000000 [(g.val, 29), (d.val, 16), (b.val, 10), (l.val, 6), (o.val, 0)]) 0x09000000 [(g.val, 29, 3), (d.val, 16, 6), (b.val, 10, 6), (l.val, 6, 4), (o.val, 0, 6)]
      [(29, 3), (16, 6), (10, 6), (6, 4), (0, 6)] := packed (k := 0x09000000) (fs := [(g.val, 29, 3), (d.val, 16, 6), (b.val, 10, 6), (l.val, 6, 4), (o.val, 0, 6)]) ⟨g.isLt, d.isLt, b.isLt, l.isLt, o.isLt, trivial⟩ rfl rfl rfl (by decide)
  revert hw
  show _ → decodeBytes ([pack 0x09000000 [(g.val, 29), (d.val, 16), (b.val, 10), (l.val, 6), (o.val, 0)]].flatMap bytesOfWord ++ rest) = _
  generalize pack 0x09000000 [(g.val, 29), (d.val, 16), (b.val, 10), (l.val, 6), (o.val, 0)] = wd
  intro ⟨hlt, hh, hp⟩
  have h0 : fld wd 29 3 = g.val := hh.1
  have h1 : fld wd 16 6 = d.val := hh.2.1
  have h2 : fld wd 10 6 = b.val := hh.2.2.1
  have h3 : fld wd 6 4 = l.val := hh.2.2.2.1
  have h4 : fld wd 0 6 = o.val := hh.2.2.2.2.1
  have e0 : Fin.ofNat 8 (wd / 2 ^ 29) = g := finOf rfl h0
  have e1 : Fin.ofNat 64 (wd / 2 ^ 16) = d := finOf rfl h1
  have e2 : Fin.ofNat 64 (wd / 2 ^ 10) = b := finOf rfl h2
  have e3 : Fin.ofNat 16 (wd / 2 ^ 6) = l := finOf rfl h3
  have e4 : Fin.ofNat 64 (wd / 2 ^ 0) = o := finOf rfl h4
  have hm : majorOf wd = 0x24 := hp 22 7 rfl
  have hn : o.val ≠ 0x20 := by
    intro e
    simp [Instr.wellFormed, e] at hwf
  exact decode_word rest hlt (by rw [literal6 hm (by decide), h4]; exact beq_false_of_ne hn)
    (decode_major (ne_zero_of_fld (hp 24 1 rfl) (by decide)) hm rfl
      (by rw [major24 _ _, dec24, h4, e0, e1, e2, e3, e4]; simp [hn]) hwf)
theorem ldQLiteral (g : Fin 8) (d : Fin 64) (b : Fin 64) (l : Fin 16) (lit : Word) : Statement (.ldQLiteral g d b l lit) := by
  intro _ hwf rest
  have hw : Packed (pack 0x09000020 [(g.val, 29), (d.val, 16), (b.val, 10), (l.val, 6)]) 0x09000020 [(g.val, 29, 3), (d.val, 16, 6), (b.val, 10, 6), (l.val, 6, 4)]
      [(29, 3), (16, 6), (10, 6), (6, 4)] := packed (k := 0x09000020) (fs := [(g.val, 29, 3), (d.val, 16, 6), (b.val, 10, 6), (l.val, 6, 4)]) ⟨g.isLt, d.isLt, b.isLt, l.isLt, trivial⟩ rfl rfl rfl (by decide)
  revert hw
  show _ → decodeBytes ([pack 0x09000020 [(g.val, 29), (d.val, 16), (b.val, 10), (l.val, 6)], lit.toNat].flatMap bytesOfWord ++ rest) = _
  generalize pack 0x09000020 [(g.val, 29), (d.val, 16), (b.val, 10), (l.val, 6)] = wd
  intro ⟨hlt, hh, hp⟩
  have h0 : fld wd 29 3 = g.val := hh.1
  have h1 : fld wd 16 6 = d.val := hh.2.1
  have h2 : fld wd 10 6 = b.val := hh.2.2.1
  have h3 : fld wd 6 4 = l.val := hh.2.2.2.1
  have e0 : Fin.ofNat 8 (wd / 2 ^ 29) = g := finOf rfl h0
  have e1 : Fin.ofNat 64 (wd / 2 ^ 16) = d := finOf rfl h1
  have e2 : Fin.ofNat 64 (wd / 2 ^ 10) = b := finOf rfl h2
  have e3 : Fin.ofNat 16 (wd / 2 ^ 6) = l := finOf rfl h3
  have hm : majorOf wd = 0x24 := hp 22 7 rfl
  have c0_6 : fld wd 0 6 = 32 := hp 0 6 rfl
  exact decode_literal rest hlt lit.isLt (by rw [literal6 hm (by decide), c0_6]; rfl)
    (decode_major (ne_zero_of_fld (hp 5 1 rfl) (by decide)) hm rfl
      (by rw [major24 _ _, dec24, c0_6, e0, e1, e2, e3]; simp only [BitVec.ofNat_toNat, BitVec.setWidth_eq]; rfl) hwf)
theorem stB (g : Fin 8) (s : Fin 64) (b : Fin 64) (o : Fin 64) : Statement (.stB g s b o) := by
  intro _ hwf rest
  have hw : Packed (pack 0x09400000 [(g.val, 29), (s.val, 16), (b.val, 10), (o.val, 0)]) 0x09400000 [(g.val, 29, 3), (s.val, 16, 6), (b.val, 10, 6), (o.val, 0, 6)]
      [(29, 3), (16, 6), (10, 6), (0, 6)] := packed (k := 0x09400000) (fs := [(g.val, 29, 3), (s.val, 16, 6), (b.val, 10, 6), (o.val, 0, 6)]) ⟨g.isLt, s.isLt, b.isLt, o.isLt, trivial⟩ rfl rfl rfl (by decide)
  revert hw
  show _ → decodeBytes ([pack 0x09400000 [(g.val, 29), (s.val, 16), (b.val, 10), (o.val, 0)]].flatMap bytesOfWord ++ rest) = _
  generalize pack 0x09400000 [(g.val, 29), (s.val, 16), (b.val, 10), (o.val, 0)] = wd
  intro ⟨hlt, hh, hp⟩
  have h0 : fld wd 29 3 = g.val := hh.1
  have h1 : fld wd 16 6 = s.val := hh.2.1
  have h2 : fld wd 10 6 = b.val := hh.2.2.1
  have h3 : fld wd 0 6 = o.val := hh.2.2.2.1
  have e0 : Fin.ofNat 8 (wd / 2 ^ 29) = g := finOf rfl h0
  have e1 : Fin.ofNat 64 (wd / 2 ^ 16) = s := finOf rfl h1
  have e2 : Fin.ofNat 64 (wd / 2 ^ 10) = b := finOf rfl h2
  have e3 : Fin.ofNat 64 (wd / 2 ^ 0) = o := finOf rfl h3
  have hm : majorOf wd = 0x25 := hp 22 7 rfl
  have c6_4 : fld wd 6 4 = 0 := hp 6 4 rfl
  have hn : o.val ≠ 0x20 := by
    intro e
    simp [Instr.wellFormed, e] at hwf
  exact decode_word rest hlt (by rw [literal6 hm (by decide), h3]; exact beq_false_of_ne hn)
    (decode_major (ne_zero_of_fld (hp 22 1 rfl) (by decide)) hm rfl
      (by rw [major25 _ _, dec25, h3, c6_4, e0, e1, e2, e3]; simp [hn]) hwf)
theorem stBLiteral (g : Fin 8) (s : Fin 64) (b : Fin 64) (lit : Word) : Statement (.stBLiteral g s b lit) := by
  intro _ hwf rest
  have hw : Packed (pack 0x09400020 [(g.val, 29), (s.val, 16), (b.val, 10)]) 0x09400020 [(g.val, 29, 3), (s.val, 16, 6), (b.val, 10, 6)]
      [(29, 3), (16, 6), (10, 6)] := packed (k := 0x09400020) (fs := [(g.val, 29, 3), (s.val, 16, 6), (b.val, 10, 6)]) ⟨g.isLt, s.isLt, b.isLt, trivial⟩ rfl rfl rfl (by decide)
  revert hw
  show _ → decodeBytes ([pack 0x09400020 [(g.val, 29), (s.val, 16), (b.val, 10)], lit.toNat].flatMap bytesOfWord ++ rest) = _
  generalize pack 0x09400020 [(g.val, 29), (s.val, 16), (b.val, 10)] = wd
  intro ⟨hlt, hh, hp⟩
  have h0 : fld wd 29 3 = g.val := hh.1
  have h1 : fld wd 16 6 = s.val := hh.2.1
  have h2 : fld wd 10 6 = b.val := hh.2.2.1
  have e0 : Fin.ofNat 8 (wd / 2 ^ 29) = g := finOf rfl h0
  have e1 : Fin.ofNat 64 (wd / 2 ^ 16) = s := finOf rfl h1
  have e2 : Fin.ofNat 64 (wd / 2 ^ 10) = b := finOf rfl h2
  have hm : majorOf wd = 0x25 := hp 22 7 rfl
  have c0_6 : fld wd 0 6 = 32 := hp 0 6 rfl
  have c6_4 : fld wd 6 4 = 0 := hp 6 4 rfl
  exact decode_literal rest hlt lit.isLt (by rw [literal6 hm (by decide), c0_6]; rfl)
    (decode_major (ne_zero_of_fld (hp 5 1 rfl) (by decide)) hm rfl
      (by rw [major25 _ _, dec25, c0_6, c6_4, e0, e1, e2]; simp only [BitVec.ofNat_toNat, BitVec.setWidth_eq]; rfl) hwf)
theorem stH (g : Fin 8) (s : Fin 64) (b : Fin 64) (o : Fin 64) : Statement (.stH g s b o) := by
  intro _ hwf rest
  have hw : Packed (pack 0x09400040 [(g.val, 29), (s.val, 16), (b.val, 10), (o.val, 0)]) 0x09400040 [(g.val, 29, 3), (s.val, 16, 6), (b.val, 10, 6), (o.val, 0, 6)]
      [(29, 3), (16, 6), (10, 6), (0, 6)] := packed (k := 0x09400040) (fs := [(g.val, 29, 3), (s.val, 16, 6), (b.val, 10, 6), (o.val, 0, 6)]) ⟨g.isLt, s.isLt, b.isLt, o.isLt, trivial⟩ rfl rfl rfl (by decide)
  revert hw
  show _ → decodeBytes ([pack 0x09400040 [(g.val, 29), (s.val, 16), (b.val, 10), (o.val, 0)]].flatMap bytesOfWord ++ rest) = _
  generalize pack 0x09400040 [(g.val, 29), (s.val, 16), (b.val, 10), (o.val, 0)] = wd
  intro ⟨hlt, hh, hp⟩
  have h0 : fld wd 29 3 = g.val := hh.1
  have h1 : fld wd 16 6 = s.val := hh.2.1
  have h2 : fld wd 10 6 = b.val := hh.2.2.1
  have h3 : fld wd 0 6 = o.val := hh.2.2.2.1
  have e0 : Fin.ofNat 8 (wd / 2 ^ 29) = g := finOf rfl h0
  have e1 : Fin.ofNat 64 (wd / 2 ^ 16) = s := finOf rfl h1
  have e2 : Fin.ofNat 64 (wd / 2 ^ 10) = b := finOf rfl h2
  have e3 : Fin.ofNat 64 (wd / 2 ^ 0) = o := finOf rfl h3
  have hm : majorOf wd = 0x25 := hp 22 7 rfl
  have c6_4 : fld wd 6 4 = 1 := hp 6 4 rfl
  have hn : o.val ≠ 0x20 := by
    intro e
    simp [Instr.wellFormed, e] at hwf
  exact decode_word rest hlt (by rw [literal6 hm (by decide), h3]; exact beq_false_of_ne hn)
    (decode_major (ne_zero_of_fld (hp 6 1 rfl) (by decide)) hm rfl
      (by rw [major25 _ _, dec25, h3, c6_4, e0, e1, e2, e3]; simp [hn]) hwf)
theorem stHLiteral (g : Fin 8) (s : Fin 64) (b : Fin 64) (lit : Word) : Statement (.stHLiteral g s b lit) := by
  intro _ hwf rest
  have hw : Packed (pack 0x09400060 [(g.val, 29), (s.val, 16), (b.val, 10)]) 0x09400060 [(g.val, 29, 3), (s.val, 16, 6), (b.val, 10, 6)]
      [(29, 3), (16, 6), (10, 6)] := packed (k := 0x09400060) (fs := [(g.val, 29, 3), (s.val, 16, 6), (b.val, 10, 6)]) ⟨g.isLt, s.isLt, b.isLt, trivial⟩ rfl rfl rfl (by decide)
  revert hw
  show _ → decodeBytes ([pack 0x09400060 [(g.val, 29), (s.val, 16), (b.val, 10)], lit.toNat].flatMap bytesOfWord ++ rest) = _
  generalize pack 0x09400060 [(g.val, 29), (s.val, 16), (b.val, 10)] = wd
  intro ⟨hlt, hh, hp⟩
  have h0 : fld wd 29 3 = g.val := hh.1
  have h1 : fld wd 16 6 = s.val := hh.2.1
  have h2 : fld wd 10 6 = b.val := hh.2.2.1
  have e0 : Fin.ofNat 8 (wd / 2 ^ 29) = g := finOf rfl h0
  have e1 : Fin.ofNat 64 (wd / 2 ^ 16) = s := finOf rfl h1
  have e2 : Fin.ofNat 64 (wd / 2 ^ 10) = b := finOf rfl h2
  have hm : majorOf wd = 0x25 := hp 22 7 rfl
  have c0_6 : fld wd 0 6 = 32 := hp 0 6 rfl
  have c6_4 : fld wd 6 4 = 1 := hp 6 4 rfl
  exact decode_literal rest hlt lit.isLt (by rw [literal6 hm (by decide), c0_6]; rfl)
    (decode_major (ne_zero_of_fld (hp 5 1 rfl) (by decide)) hm rfl
      (by rw [major25 _ _, dec25, c0_6, c6_4, e0, e1, e2]; simp only [BitVec.ofNat_toNat, BitVec.setWidth_eq]; rfl) hwf)
theorem stW (g : Fin 8) (s : Fin 64) (b : Fin 64) (o : Fin 64) : Statement (.stW g s b o) := by
  intro _ hwf rest
  have hw : Packed (pack 0x09400080 [(g.val, 29), (s.val, 16), (b.val, 10), (o.val, 0)]) 0x09400080 [(g.val, 29, 3), (s.val, 16, 6), (b.val, 10, 6), (o.val, 0, 6)]
      [(29, 3), (16, 6), (10, 6), (0, 6)] := packed (k := 0x09400080) (fs := [(g.val, 29, 3), (s.val, 16, 6), (b.val, 10, 6), (o.val, 0, 6)]) ⟨g.isLt, s.isLt, b.isLt, o.isLt, trivial⟩ rfl rfl rfl (by decide)
  revert hw
  show _ → decodeBytes ([pack 0x09400080 [(g.val, 29), (s.val, 16), (b.val, 10), (o.val, 0)]].flatMap bytesOfWord ++ rest) = _
  generalize pack 0x09400080 [(g.val, 29), (s.val, 16), (b.val, 10), (o.val, 0)] = wd
  intro ⟨hlt, hh, hp⟩
  have h0 : fld wd 29 3 = g.val := hh.1
  have h1 : fld wd 16 6 = s.val := hh.2.1
  have h2 : fld wd 10 6 = b.val := hh.2.2.1
  have h3 : fld wd 0 6 = o.val := hh.2.2.2.1
  have e0 : Fin.ofNat 8 (wd / 2 ^ 29) = g := finOf rfl h0
  have e1 : Fin.ofNat 64 (wd / 2 ^ 16) = s := finOf rfl h1
  have e2 : Fin.ofNat 64 (wd / 2 ^ 10) = b := finOf rfl h2
  have e3 : Fin.ofNat 64 (wd / 2 ^ 0) = o := finOf rfl h3
  have hm : majorOf wd = 0x25 := hp 22 7 rfl
  have c6_4 : fld wd 6 4 = 2 := hp 6 4 rfl
  have hn : o.val ≠ 0x20 := by
    intro e
    simp [Instr.wellFormed, e] at hwf
  exact decode_word rest hlt (by rw [literal6 hm (by decide), h3]; exact beq_false_of_ne hn)
    (decode_major (ne_zero_of_fld (hp 7 1 rfl) (by decide)) hm rfl
      (by rw [major25 _ _, dec25, h3, c6_4, e0, e1, e2, e3]; simp [hn]) hwf)
theorem stWLiteral (g : Fin 8) (s : Fin 64) (b : Fin 64) (lit : Word) : Statement (.stWLiteral g s b lit) := by
  intro _ hwf rest
  have hw : Packed (pack 0x094000A0 [(g.val, 29), (s.val, 16), (b.val, 10)]) 0x094000A0 [(g.val, 29, 3), (s.val, 16, 6), (b.val, 10, 6)]
      [(29, 3), (16, 6), (10, 6)] := packed (k := 0x094000A0) (fs := [(g.val, 29, 3), (s.val, 16, 6), (b.val, 10, 6)]) ⟨g.isLt, s.isLt, b.isLt, trivial⟩ rfl rfl rfl (by decide)
  revert hw
  show _ → decodeBytes ([pack 0x094000A0 [(g.val, 29), (s.val, 16), (b.val, 10)], lit.toNat].flatMap bytesOfWord ++ rest) = _
  generalize pack 0x094000A0 [(g.val, 29), (s.val, 16), (b.val, 10)] = wd
  intro ⟨hlt, hh, hp⟩
  have h0 : fld wd 29 3 = g.val := hh.1
  have h1 : fld wd 16 6 = s.val := hh.2.1
  have h2 : fld wd 10 6 = b.val := hh.2.2.1
  have e0 : Fin.ofNat 8 (wd / 2 ^ 29) = g := finOf rfl h0
  have e1 : Fin.ofNat 64 (wd / 2 ^ 16) = s := finOf rfl h1
  have e2 : Fin.ofNat 64 (wd / 2 ^ 10) = b := finOf rfl h2
  have hm : majorOf wd = 0x25 := hp 22 7 rfl
  have c0_6 : fld wd 0 6 = 32 := hp 0 6 rfl
  have c6_4 : fld wd 6 4 = 2 := hp 6 4 rfl
  exact decode_literal rest hlt lit.isLt (by rw [literal6 hm (by decide), c0_6]; rfl)
    (decode_major (ne_zero_of_fld (hp 5 1 rfl) (by decide)) hm rfl
      (by rw [major25 _ _, dec25, c0_6, c6_4, e0, e1, e2]; simp only [BitVec.ofNat_toNat, BitVec.setWidth_eq]; rfl) hwf)
theorem stD (g : Fin 8) (s : Fin 64) (b : Fin 64) (o : Fin 64) : Statement (.stD g s b o) := by
  intro _ hwf rest
  have hw : Packed (pack 0x094000C0 [(g.val, 29), (s.val, 16), (b.val, 10), (o.val, 0)]) 0x094000C0 [(g.val, 29, 3), (s.val, 16, 6), (b.val, 10, 6), (o.val, 0, 6)]
      [(29, 3), (16, 6), (10, 6), (0, 6)] := packed (k := 0x094000C0) (fs := [(g.val, 29, 3), (s.val, 16, 6), (b.val, 10, 6), (o.val, 0, 6)]) ⟨g.isLt, s.isLt, b.isLt, o.isLt, trivial⟩ rfl rfl rfl (by decide)
  revert hw
  show _ → decodeBytes ([pack 0x094000C0 [(g.val, 29), (s.val, 16), (b.val, 10), (o.val, 0)]].flatMap bytesOfWord ++ rest) = _
  generalize pack 0x094000C0 [(g.val, 29), (s.val, 16), (b.val, 10), (o.val, 0)] = wd
  intro ⟨hlt, hh, hp⟩
  have h0 : fld wd 29 3 = g.val := hh.1
  have h1 : fld wd 16 6 = s.val := hh.2.1
  have h2 : fld wd 10 6 = b.val := hh.2.2.1
  have h3 : fld wd 0 6 = o.val := hh.2.2.2.1
  have e0 : Fin.ofNat 8 (wd / 2 ^ 29) = g := finOf rfl h0
  have e1 : Fin.ofNat 64 (wd / 2 ^ 16) = s := finOf rfl h1
  have e2 : Fin.ofNat 64 (wd / 2 ^ 10) = b := finOf rfl h2
  have e3 : Fin.ofNat 64 (wd / 2 ^ 0) = o := finOf rfl h3
  have hm : majorOf wd = 0x25 := hp 22 7 rfl
  have c6_4 : fld wd 6 4 = 3 := hp 6 4 rfl
  have hn : o.val ≠ 0x20 := by
    intro e
    simp [Instr.wellFormed, e] at hwf
  exact decode_word rest hlt (by rw [literal6 hm (by decide), h3]; exact beq_false_of_ne hn)
    (decode_major (ne_zero_of_fld (hp 6 1 rfl) (by decide)) hm rfl
      (by rw [major25 _ _, dec25, h3, c6_4, e0, e1, e2, e3]; simp [hn]) hwf)
theorem stDLiteral (g : Fin 8) (s : Fin 64) (b : Fin 64) (lit : Word) : Statement (.stDLiteral g s b lit) := by
  intro _ hwf rest
  have hw : Packed (pack 0x094000E0 [(g.val, 29), (s.val, 16), (b.val, 10)]) 0x094000E0 [(g.val, 29, 3), (s.val, 16, 6), (b.val, 10, 6)]
      [(29, 3), (16, 6), (10, 6)] := packed (k := 0x094000E0) (fs := [(g.val, 29, 3), (s.val, 16, 6), (b.val, 10, 6)]) ⟨g.isLt, s.isLt, b.isLt, trivial⟩ rfl rfl rfl (by decide)
  revert hw
  show _ → decodeBytes ([pack 0x094000E0 [(g.val, 29), (s.val, 16), (b.val, 10)], lit.toNat].flatMap bytesOfWord ++ rest) = _
  generalize pack 0x094000E0 [(g.val, 29), (s.val, 16), (b.val, 10)] = wd
  intro ⟨hlt, hh, hp⟩
  have h0 : fld wd 29 3 = g.val := hh.1
  have h1 : fld wd 16 6 = s.val := hh.2.1
  have h2 : fld wd 10 6 = b.val := hh.2.2.1
  have e0 : Fin.ofNat 8 (wd / 2 ^ 29) = g := finOf rfl h0
  have e1 : Fin.ofNat 64 (wd / 2 ^ 16) = s := finOf rfl h1
  have e2 : Fin.ofNat 64 (wd / 2 ^ 10) = b := finOf rfl h2
  have hm : majorOf wd = 0x25 := hp 22 7 rfl
  have c0_6 : fld wd 0 6 = 32 := hp 0 6 rfl
  have c6_4 : fld wd 6 4 = 3 := hp 6 4 rfl
  exact decode_literal rest hlt lit.isLt (by rw [literal6 hm (by decide), c0_6]; rfl)
    (decode_major (ne_zero_of_fld (hp 5 1 rfl) (by decide)) hm rfl
      (by rw [major25 _ _, dec25, c0_6, c6_4, e0, e1, e2]; simp only [BitVec.ofNat_toNat, BitVec.setWidth_eq]; rfl) hwf)
theorem stQ (g : Fin 8) (s : Fin 64) (b : Fin 64) (o : Fin 64) : Statement (.stQ g s b o) := by
  intro _ hwf rest
  have hw : Packed (pack 0x09400100 [(g.val, 29), (s.val, 16), (b.val, 10), (o.val, 0)]) 0x09400100 [(g.val, 29, 3), (s.val, 16, 6), (b.val, 10, 6), (o.val, 0, 6)]
      [(29, 3), (16, 6), (10, 6), (0, 6)] := packed (k := 0x09400100) (fs := [(g.val, 29, 3), (s.val, 16, 6), (b.val, 10, 6), (o.val, 0, 6)]) ⟨g.isLt, s.isLt, b.isLt, o.isLt, trivial⟩ rfl rfl rfl (by decide)
  revert hw
  show _ → decodeBytes ([pack 0x09400100 [(g.val, 29), (s.val, 16), (b.val, 10), (o.val, 0)]].flatMap bytesOfWord ++ rest) = _
  generalize pack 0x09400100 [(g.val, 29), (s.val, 16), (b.val, 10), (o.val, 0)] = wd
  intro ⟨hlt, hh, hp⟩
  have h0 : fld wd 29 3 = g.val := hh.1
  have h1 : fld wd 16 6 = s.val := hh.2.1
  have h2 : fld wd 10 6 = b.val := hh.2.2.1
  have h3 : fld wd 0 6 = o.val := hh.2.2.2.1
  have e0 : Fin.ofNat 8 (wd / 2 ^ 29) = g := finOf rfl h0
  have e1 : Fin.ofNat 64 (wd / 2 ^ 16) = s := finOf rfl h1
  have e2 : Fin.ofNat 64 (wd / 2 ^ 10) = b := finOf rfl h2
  have e3 : Fin.ofNat 64 (wd / 2 ^ 0) = o := finOf rfl h3
  have hm : majorOf wd = 0x25 := hp 22 7 rfl
  have c6_4 : fld wd 6 4 = 4 := hp 6 4 rfl
  have hn : o.val ≠ 0x20 := by
    intro e
    simp [Instr.wellFormed, e] at hwf
  exact decode_word rest hlt (by rw [literal6 hm (by decide), h3]; exact beq_false_of_ne hn)
    (decode_major (ne_zero_of_fld (hp 8 1 rfl) (by decide)) hm rfl
      (by rw [major25 _ _, dec25, h3, c6_4, e0, e1, e2, e3]; simp [hn]) hwf)
theorem stQLiteral (g : Fin 8) (s : Fin 64) (b : Fin 64) (lit : Word) : Statement (.stQLiteral g s b lit) := by
  intro _ hwf rest
  have hw : Packed (pack 0x09400120 [(g.val, 29), (s.val, 16), (b.val, 10)]) 0x09400120 [(g.val, 29, 3), (s.val, 16, 6), (b.val, 10, 6)]
      [(29, 3), (16, 6), (10, 6)] := packed (k := 0x09400120) (fs := [(g.val, 29, 3), (s.val, 16, 6), (b.val, 10, 6)]) ⟨g.isLt, s.isLt, b.isLt, trivial⟩ rfl rfl rfl (by decide)
  revert hw
  show _ → decodeBytes ([pack 0x09400120 [(g.val, 29), (s.val, 16), (b.val, 10)], lit.toNat].flatMap bytesOfWord ++ rest) = _
  generalize pack 0x09400120 [(g.val, 29), (s.val, 16), (b.val, 10)] = wd
  intro ⟨hlt, hh, hp⟩
  have h0 : fld wd 29 3 = g.val := hh.1
  have h1 : fld wd 16 6 = s.val := hh.2.1
  have h2 : fld wd 10 6 = b.val := hh.2.2.1
  have e0 : Fin.ofNat 8 (wd / 2 ^ 29) = g := finOf rfl h0
  have e1 : Fin.ofNat 64 (wd / 2 ^ 16) = s := finOf rfl h1
  have e2 : Fin.ofNat 64 (wd / 2 ^ 10) = b := finOf rfl h2
  have hm : majorOf wd = 0x25 := hp 22 7 rfl
  have c0_6 : fld wd 0 6 = 32 := hp 0 6 rfl
  have c6_4 : fld wd 6 4 = 4 := hp 6 4 rfl
  exact decode_literal rest hlt lit.isLt (by rw [literal6 hm (by decide), c0_6]; rfl)
    (decode_major (ne_zero_of_fld (hp 5 1 rfl) (by decide)) hm rfl
      (by rw [major25 _ _, dec25, c0_6, c6_4, e0, e1, e2]; simp only [BitVec.ofNat_toNat, BitVec.setWidth_eq]; rfl) hwf)
theorem ldc (g : Fin 8) (d : Fin 64) (b : Fin 64) (l : Fin 16) (o : Fin 64) : Statement (.ldc g d b l o) := by
  intro _ hwf rest
  have hw : Packed (pack 0x09800000 [(g.val, 29), (d.val, 16), (b.val, 10), (l.val, 6), (o.val, 0)]) 0x09800000 [(g.val, 29, 3), (d.val, 16, 6), (b.val, 10, 6), (l.val, 6, 4), (o.val, 0, 6)]
      [(29, 3), (16, 6), (10, 6), (6, 4), (0, 6)] := packed (k := 0x09800000) (fs := [(g.val, 29, 3), (d.val, 16, 6), (b.val, 10, 6), (l.val, 6, 4), (o.val, 0, 6)]) ⟨g.isLt, d.isLt, b.isLt, l.isLt, o.isLt, trivial⟩ rfl rfl rfl (by decide)
  revert hw
  show _ → decodeBytes ([pack 0x09800000 [(g.val, 29), (d.val, 16), (b.val, 10), (l.val, 6), (o.val, 0)]].flatMap bytesOfWord ++ rest) = _
  generalize pack 0x09800000 [(g.val, 29), (d.val, 16), (b.val, 10), (l.val, 6), (o.val, 0)] = wd
  intro ⟨hlt, hh, hp⟩
  have h0 : fld wd 29 3 = g.val := hh.1
  have h1 : fld wd 16 6 = d.val := hh.2.1
  have h2 : fld wd 10 6 = b.val := hh.2.2.1
  have h3 : fld wd 6 4 = l.val := hh.2.2.2.1
  have h4 : fld wd 0 6 = o.val := hh.2.2.2.2.1
  have e0 : Fin.ofNat 8 (wd / 2 ^ 29) = g := finOf rfl h0
  have e1 : Fin.ofNat 64 (wd / 2 ^ 16) = d := finOf rfl h1
  have e2 : Fin.ofNat 64 (wd / 2 ^ 10) = b := finOf rfl h2
  have e3 : Fin.ofNat 16 (wd / 2 ^ 6) = l := finOf rfl h3
  have e4 : Fin.ofNat 64 (wd / 2 ^ 0) = o := finOf rfl h4
  have hm : majorOf wd = 0x26 := hp 22 7 rfl
  have hn : o.val ≠ 0x20 := by
    intro e
    simp [Instr.wellFormed, e] at hwf
  exact decode_word rest hlt (by rw [literal6 hm (by decide), h4]; exact beq_false_of_ne hn)
    (decode_major (ne_zero_of_fld (hp 23 1 rfl) (by decide)) hm rfl
      (by rw [major26 _ _, dec26, h4, e0, e1, e2, e3, e4]; simp [hn]) hwf)
theorem ldcLiteral (g : Fin 8) (d : Fin 64) (b : Fin 64) (l : Fin 16) (lit : Word) : Statement (.ldcLiteral g d b l lit) := by
  intro _ hwf rest
  have hw : Packed (pack 0x09800020 [(g.val, 29), (d.val, 16), (b.val, 10), (l.val, 6)]) 0x09800020 [(g.val, 29, 3), (d.val, 16, 6), (b.val, 10, 6), (l.val, 6, 4)]
      [(29, 3), (16, 6), (10, 6), (6, 4)] := packed (k := 0x09800020) (fs := [(g.val, 29, 3), (d.val, 16, 6), (b.val, 10, 6), (l.val, 6, 4)]) ⟨g.isLt, d.isLt, b.isLt, l.isLt, trivial⟩ rfl rfl rfl (by decide)
  revert hw
  show _ → decodeBytes ([pack 0x09800020 [(g.val, 29), (d.val, 16), (b.val, 10), (l.val, 6)], lit.toNat].flatMap bytesOfWord ++ rest) = _
  generalize pack 0x09800020 [(g.val, 29), (d.val, 16), (b.val, 10), (l.val, 6)] = wd
  intro ⟨hlt, hh, hp⟩
  have h0 : fld wd 29 3 = g.val := hh.1
  have h1 : fld wd 16 6 = d.val := hh.2.1
  have h2 : fld wd 10 6 = b.val := hh.2.2.1
  have h3 : fld wd 6 4 = l.val := hh.2.2.2.1
  have e0 : Fin.ofNat 8 (wd / 2 ^ 29) = g := finOf rfl h0
  have e1 : Fin.ofNat 64 (wd / 2 ^ 16) = d := finOf rfl h1
  have e2 : Fin.ofNat 64 (wd / 2 ^ 10) = b := finOf rfl h2
  have e3 : Fin.ofNat 16 (wd / 2 ^ 6) = l := finOf rfl h3
  have hm : majorOf wd = 0x26 := hp 22 7 rfl
  have c0_6 : fld wd 0 6 = 32 := hp 0 6 rfl
  exact decode_literal rest hlt lit.isLt (by rw [literal6 hm (by decide), c0_6]; rfl)
    (decode_major (ne_zero_of_fld (hp 5 1 rfl) (by decide)) hm rfl
      (by rw [major26 _ _, dec26, c0_6, e0, e1, e2, e3]; simp only [BitVec.ofNat_toNat, BitVec.setWidth_eq]; rfl) hwf)
theorem stc (g : Fin 8) (s : Fin 64) (b : Fin 64) (o : Fin 64) : Statement (.stc g s b o) := by
  intro _ hwf rest
  have hw : Packed (pack 0x09C00000 [(g.val, 29), (s.val, 16), (b.val, 10), (o.val, 0)]) 0x09C00000 [(g.val, 29, 3), (s.val, 16, 6), (b.val, 10, 6), (o.val, 0, 6)]
      [(29, 3), (16, 6), (10, 6), (0, 6)] := packed (k := 0x09C00000) (fs := [(g.val, 29, 3), (s.val, 16, 6), (b.val, 10, 6), (o.val, 0, 6)]) ⟨g.isLt, s.isLt, b.isLt, o.isLt, trivial⟩ rfl rfl rfl (by decide)
  revert hw
  show _ → decodeBytes ([pack 0x09C00000 [(g.val, 29), (s.val, 16), (b.val, 10), (o.val, 0)]].flatMap bytesOfWord ++ rest) = _
  generalize pack 0x09C00000 [(g.val, 29), (s.val, 16), (b.val, 10), (o.val, 0)] = wd
  intro ⟨hlt, hh, hp⟩
  have h0 : fld wd 29 3 = g.val := hh.1
  have h1 : fld wd 16 6 = s.val := hh.2.1
  have h2 : fld wd 10 6 = b.val := hh.2.2.1
  have h3 : fld wd 0 6 = o.val := hh.2.2.2.1
  have e0 : Fin.ofNat 8 (wd / 2 ^ 29) = g := finOf rfl h0
  have e1 : Fin.ofNat 64 (wd / 2 ^ 16) = s := finOf rfl h1
  have e2 : Fin.ofNat 64 (wd / 2 ^ 10) = b := finOf rfl h2
  have e3 : Fin.ofNat 64 (wd / 2 ^ 0) = o := finOf rfl h3
  have hm : majorOf wd = 0x27 := hp 22 7 rfl
  have c6_4 : fld wd 6 4 = 0 := hp 6 4 rfl
  have hn : o.val ≠ 0x20 := by
    intro e
    simp [Instr.wellFormed, e] at hwf
  exact decode_word rest hlt (by rw [literal6 hm (by decide), h3]; exact beq_false_of_ne hn)
    (decode_major (ne_zero_of_fld (hp 22 1 rfl) (by decide)) hm rfl
      (by rw [major27 _ _, dec27, h3, c6_4, e0, e1, e2, e3]; simp [hn]) hwf)
theorem stcLiteral (g : Fin 8) (s : Fin 64) (b : Fin 64) (lit : Word) : Statement (.stcLiteral g s b lit) := by
  intro _ hwf rest
  have hw : Packed (pack 0x09C00020 [(g.val, 29), (s.val, 16), (b.val, 10)]) 0x09C00020 [(g.val, 29, 3), (s.val, 16, 6), (b.val, 10, 6)]
      [(29, 3), (16, 6), (10, 6)] := packed (k := 0x09C00020) (fs := [(g.val, 29, 3), (s.val, 16, 6), (b.val, 10, 6)]) ⟨g.isLt, s.isLt, b.isLt, trivial⟩ rfl rfl rfl (by decide)
  revert hw
  show _ → decodeBytes ([pack 0x09C00020 [(g.val, 29), (s.val, 16), (b.val, 10)], lit.toNat].flatMap bytesOfWord ++ rest) = _
  generalize pack 0x09C00020 [(g.val, 29), (s.val, 16), (b.val, 10)] = wd
  intro ⟨hlt, hh, hp⟩
  have h0 : fld wd 29 3 = g.val := hh.1
  have h1 : fld wd 16 6 = s.val := hh.2.1
  have h2 : fld wd 10 6 = b.val := hh.2.2.1
  have e0 : Fin.ofNat 8 (wd / 2 ^ 29) = g := finOf rfl h0
  have e1 : Fin.ofNat 64 (wd / 2 ^ 16) = s := finOf rfl h1
  have e2 : Fin.ofNat 64 (wd / 2 ^ 10) = b := finOf rfl h2
  have hm : majorOf wd = 0x27 := hp 22 7 rfl
  have c0_6 : fld wd 0 6 = 32 := hp 0 6 rfl
  have c6_4 : fld wd 6 4 = 0 := hp 6 4 rfl
  exact decode_literal rest hlt lit.isLt (by rw [literal6 hm (by decide), c0_6]; rfl)
    (decode_major (ne_zero_of_fld (hp 5 1 rfl) (by decide)) hm rfl
      (by rw [major27 _ _, dec27, c0_6, c6_4, e0, e1, e2]; simp only [BitVec.ofNat_toNat, BitVec.setWidth_eq]; rfl) hwf)
theorem ldq (g : Fin 8) (n : Fin 32) (b : Fin 64) (o : Fin 64) : Statement (.ldq g n b o) := by
  intro _ hwf rest
  have hw : Packed (pack 0x0A000000 [(g.val, 29), (n.val, 16), (b.val, 10), (o.val, 0)]) 0x0A000000 [(g.val, 29, 3), (n.val, 16, 5), (b.val, 10, 6), (o.val, 0, 6)]
      [(29, 3), (16, 5), (10, 6), (0, 6)] := packed (k := 0x0A000000) (fs := [(g.val, 29, 3), (n.val, 16, 5), (b.val, 10, 6), (o.val, 0, 6)]) ⟨g.isLt, n.isLt, b.isLt, o.isLt, trivial⟩ rfl rfl rfl (by decide)
  revert hw
  show _ → decodeBytes ([pack 0x0A000000 [(g.val, 29), (n.val, 16), (b.val, 10), (o.val, 0)]].flatMap bytesOfWord ++ rest) = _
  generalize pack 0x0A000000 [(g.val, 29), (n.val, 16), (b.val, 10), (o.val, 0)] = wd
  intro ⟨hlt, hh, hp⟩
  have h0 : fld wd 29 3 = g.val := hh.1
  have h1 : fld wd 16 5 = n.val := hh.2.1
  have h2 : fld wd 10 6 = b.val := hh.2.2.1
  have h3 : fld wd 0 6 = o.val := hh.2.2.2.1
  have e0 : Fin.ofNat 8 (wd / 2 ^ 29) = g := finOf rfl h0
  have e1 : Fin.ofNat 32 (wd / 2 ^ 16) = n := finOf rfl h1
  have e2 : Fin.ofNat 64 (wd / 2 ^ 10) = b := finOf rfl h2
  have e3 : Fin.ofNat 64 (wd / 2 ^ 0) = o := finOf rfl h3
  have hm : majorOf wd = 0x28 := hp 22 7 rfl
  have c6_4 : fld wd 6 4 = 0 := hp 6 4 rfl
  have c21_1 : fld wd 21 1 = 0 := hp 21 1 rfl
  have hn : o.val ≠ 0x20 := by
    intro e
    simp [Instr.wellFormed, e] at hwf
  exact decode_word rest hlt (by rw [literal6 hm (by decide), h3]; exact beq_false_of_ne hn)
    (decode_major (ne_zero_of_fld (hp 25 1 rfl) (by decide)) hm rfl
      (by rw [major28 _ _, dec28, h3, c6_4, c21_1, e0, e1, e2, e3]; simp [hn]) hwf)
theorem ldqLiteral (g : Fin 8) (n : Fin 32) (b : Fin 64) (lit : Word) : Statement (.ldqLiteral g n b lit) := by
  intro _ hwf rest
  have hw : Packed (pack 0x0A000020 [(g.val, 29), (n.val, 16), (b.val, 10)]) 0x0A000020 [(g.val, 29, 3), (n.val, 16, 5), (b.val, 10, 6)]
      [(29, 3), (16, 5), (10, 6)] := packed (k := 0x0A000020) (fs := [(g.val, 29, 3), (n.val, 16, 5), (b.val, 10, 6)]) ⟨g.isLt, n.isLt, b.isLt, trivial⟩ rfl rfl rfl (by decide)
  revert hw
  show _ → decodeBytes ([pack 0x0A000020 [(g.val, 29), (n.val, 16), (b.val, 10)], lit.toNat].flatMap bytesOfWord ++ rest) = _
  generalize pack 0x0A000020 [(g.val, 29), (n.val, 16), (b.val, 10)] = wd
  intro ⟨hlt, hh, hp⟩
  have h0 : fld wd 29 3 = g.val := hh.1
  have h1 : fld wd 16 5 = n.val := hh.2.1
  have h2 : fld wd 10 6 = b.val := hh.2.2.1
  have e0 : Fin.ofNat 8 (wd / 2 ^ 29) = g := finOf rfl h0
  have e1 : Fin.ofNat 32 (wd / 2 ^ 16) = n := finOf rfl h1
  have e2 : Fin.ofNat 64 (wd / 2 ^ 10) = b := finOf rfl h2
  have hm : majorOf wd = 0x28 := hp 22 7 rfl
  have c0_6 : fld wd 0 6 = 32 := hp 0 6 rfl
  have c6_4 : fld wd 6 4 = 0 := hp 6 4 rfl
  have c21_1 : fld wd 21 1 = 0 := hp 21 1 rfl
  exact decode_literal rest hlt lit.isLt (by rw [literal6 hm (by decide), c0_6]; rfl)
    (decode_major (ne_zero_of_fld (hp 5 1 rfl) (by decide)) hm rfl
      (by rw [major28 _ _, dec28, c0_6, c6_4, c21_1, e0, e1, e2]; simp only [BitVec.ofNat_toNat, BitVec.setWidth_eq]; rfl) hwf)
theorem stq (g : Fin 8) (n : Fin 32) (b : Fin 64) (o : Fin 64) : Statement (.stq g n b o) := by
  intro _ hwf rest
  have hw : Packed (pack 0x0A400000 [(g.val, 29), (n.val, 16), (b.val, 10), (o.val, 0)]) 0x0A400000 [(g.val, 29, 3), (n.val, 16, 5), (b.val, 10, 6), (o.val, 0, 6)]
      [(29, 3), (16, 5), (10, 6), (0, 6)] := packed (k := 0x0A400000) (fs := [(g.val, 29, 3), (n.val, 16, 5), (b.val, 10, 6), (o.val, 0, 6)]) ⟨g.isLt, n.isLt, b.isLt, o.isLt, trivial⟩ rfl rfl rfl (by decide)
  revert hw
  show _ → decodeBytes ([pack 0x0A400000 [(g.val, 29), (n.val, 16), (b.val, 10), (o.val, 0)]].flatMap bytesOfWord ++ rest) = _
  generalize pack 0x0A400000 [(g.val, 29), (n.val, 16), (b.val, 10), (o.val, 0)] = wd
  intro ⟨hlt, hh, hp⟩
  have h0 : fld wd 29 3 = g.val := hh.1
  have h1 : fld wd 16 5 = n.val := hh.2.1
  have h2 : fld wd 10 6 = b.val := hh.2.2.1
  have h3 : fld wd 0 6 = o.val := hh.2.2.2.1
  have e0 : Fin.ofNat 8 (wd / 2 ^ 29) = g := finOf rfl h0
  have e1 : Fin.ofNat 32 (wd / 2 ^ 16) = n := finOf rfl h1
  have e2 : Fin.ofNat 64 (wd / 2 ^ 10) = b := finOf rfl h2
  have e3 : Fin.ofNat 64 (wd / 2 ^ 0) = o := finOf rfl h3
  have hm : majorOf wd = 0x29 := hp 22 7 rfl
  have c6_4 : fld wd 6 4 = 0 := hp 6 4 rfl
  have c21_1 : fld wd 21 1 = 0 := hp 21 1 rfl
  have hn : o.val ≠ 0x20 := by
    intro e
    simp [Instr.wellFormed, e] at hwf
  exact decode_word rest hlt (by rw [literal6 hm (by decide), h3]; exact beq_false_of_ne hn)
    (decode_major (ne_zero_of_fld (hp 22 1 rfl) (by decide)) hm rfl
      (by rw [major29 _ _, dec29, h3, c6_4, c21_1, e0, e1, e2, e3]; simp [hn]) hwf)
theorem stqLiteral (g : Fin 8) (n : Fin 32) (b : Fin 64) (lit : Word) : Statement (.stqLiteral g n b lit) := by
  intro _ hwf rest
  have hw : Packed (pack 0x0A400020 [(g.val, 29), (n.val, 16), (b.val, 10)]) 0x0A400020 [(g.val, 29, 3), (n.val, 16, 5), (b.val, 10, 6)]
      [(29, 3), (16, 5), (10, 6)] := packed (k := 0x0A400020) (fs := [(g.val, 29, 3), (n.val, 16, 5), (b.val, 10, 6)]) ⟨g.isLt, n.isLt, b.isLt, trivial⟩ rfl rfl rfl (by decide)
  revert hw
  show _ → decodeBytes ([pack 0x0A400020 [(g.val, 29), (n.val, 16), (b.val, 10)], lit.toNat].flatMap bytesOfWord ++ rest) = _
  generalize pack 0x0A400020 [(g.val, 29), (n.val, 16), (b.val, 10)] = wd
  intro ⟨hlt, hh, hp⟩
  have h0 : fld wd 29 3 = g.val := hh.1
  have h1 : fld wd 16 5 = n.val := hh.2.1
  have h2 : fld wd 10 6 = b.val := hh.2.2.1
  have e0 : Fin.ofNat 8 (wd / 2 ^ 29) = g := finOf rfl h0
  have e1 : Fin.ofNat 32 (wd / 2 ^ 16) = n := finOf rfl h1
  have e2 : Fin.ofNat 64 (wd / 2 ^ 10) = b := finOf rfl h2
  have hm : majorOf wd = 0x29 := hp 22 7 rfl
  have c0_6 : fld wd 0 6 = 32 := hp 0 6 rfl
  have c6_4 : fld wd 6 4 = 0 := hp 6 4 rfl
  have c21_1 : fld wd 21 1 = 0 := hp 21 1 rfl
  exact decode_literal rest hlt lit.isLt (by rw [literal6 hm (by decide), c0_6]; rfl)
    (decode_major (ne_zero_of_fld (hp 5 1 rfl) (by decide)) hm rfl
      (by rw [major29 _ _, dec29, c0_6, c6_4, c21_1, e0, e1, e2]; simp only [BitVec.ofNat_toNat, BitVec.setWidth_eq]; rfl) hwf)
theorem ldm (g : Fin 8) (d : Fin 64) (a : Fin 64) (n : Fin 64) : Statement (.ldm g d a n) := by
  intro _ hwf rest
  have hw : Packed (pack 0x0A800000 [(g.val, 29), (d.val, 16), (a.val, 10), (n.val, 4)]) 0x0A800000 [(g.val, 29, 3), (d.val, 16, 6), (a.val, 10, 6), (n.val, 4, 6)]
      [(29, 3), (16, 6), (10, 6), (4, 6)] := packed (k := 0x0A800000) (fs := [(g.val, 29, 3), (d.val, 16, 6), (a.val, 10, 6), (n.val, 4, 6)]) ⟨g.isLt, d.isLt, a.isLt, n.isLt, trivial⟩ rfl rfl rfl (by decide)
  revert hw
  show _ → decodeBytes ([pack 0x0A800000 [(g.val, 29), (d.val, 16), (a.val, 10), (n.val, 4)]].flatMap bytesOfWord ++ rest) = _
  generalize pack 0x0A800000 [(g.val, 29), (d.val, 16), (a.val, 10), (n.val, 4)] = wd
  intro ⟨hlt, hh, hp⟩
  have h0 : fld wd 29 3 = g.val := hh.1
  have h1 : fld wd 16 6 = d.val := hh.2.1
  have h2 : fld wd 10 6 = a.val := hh.2.2.1
  have h3 : fld wd 4 6 = n.val := hh.2.2.2.1
  have e0 : Fin.ofNat 8 (wd / 2 ^ 29) = g := finOf rfl h0
  have e1 : Fin.ofNat 64 (wd / 2 ^ 16) = d := finOf rfl h1
  have e2 : Fin.ofNat 64 (wd / 2 ^ 10) = a := finOf rfl h2
  have e3 : Fin.ofNat 64 (wd / 2 ^ 4) = n := finOf rfl h3
  have hm : majorOf wd = 0x2A := hp 22 7 rfl
  have c0_4 : fld wd 0 4 = 0 := hp 0 4 rfl
  exact decode_word rest hlt (by unfold hasLiteral; rw [hm]; rfl)
    (decode_major (ne_zero_of_fld (hp 23 1 rfl) (by decide)) hm rfl
      (by rw [major2A _ _, dec2A, c0_4, e0, e1, e2, e3]; rfl) hwf)
theorem stm (g : Fin 8) (d : Fin 64) (a : Fin 64) (n : Fin 64) : Statement (.stm g d a n) := by
  intro _ hwf rest
  have hw : Packed (pack 0x0A800001 [(g.val, 29), (d.val, 16), (a.val, 10), (n.val, 4)]) 0x0A800001 [(g.val, 29, 3), (d.val, 16, 6), (a.val, 10, 6), (n.val, 4, 6)]
      [(29, 3), (16, 6), (10, 6), (4, 6)] := packed (k := 0x0A800001) (fs := [(g.val, 29, 3), (d.val, 16, 6), (a.val, 10, 6), (n.val, 4, 6)]) ⟨g.isLt, d.isLt, a.isLt, n.isLt, trivial⟩ rfl rfl rfl (by decide)
  revert hw
  show _ → decodeBytes ([pack 0x0A800001 [(g.val, 29), (d.val, 16), (a.val, 10), (n.val, 4)]].flatMap bytesOfWord ++ rest) = _
  generalize pack 0x0A800001 [(g.val, 29), (d.val, 16), (a.val, 10), (n.val, 4)] = wd
  intro ⟨hlt, hh, hp⟩
  have h0 : fld wd 29 3 = g.val := hh.1
  have h1 : fld wd 16 6 = d.val := hh.2.1
  have h2 : fld wd 10 6 = a.val := hh.2.2.1
  have h3 : fld wd 4 6 = n.val := hh.2.2.2.1
  have e0 : Fin.ofNat 8 (wd / 2 ^ 29) = g := finOf rfl h0
  have e1 : Fin.ofNat 64 (wd / 2 ^ 16) = d := finOf rfl h1
  have e2 : Fin.ofNat 64 (wd / 2 ^ 10) = a := finOf rfl h2
  have e3 : Fin.ofNat 64 (wd / 2 ^ 4) = n := finOf rfl h3
  have hm : majorOf wd = 0x2A := hp 22 7 rfl
  have c0_4 : fld wd 0 4 = 1 := hp 0 4 rfl
  exact decode_word rest hlt (by unfold hasLiteral; rw [hm]; rfl)
    (decode_major (ne_zero_of_fld (hp 0 1 rfl) (by decide)) hm rfl
      (by rw [major2A _ _, dec2A, c0_4, e0, e1, e2, e3]; rfl) hwf)
theorem vld (g : Fin 8) (d : Fin 32) (b : Fin 64) (l : Fin 16) (o : Fin 64) : Statement (.vld g d b l o) := by
  intro _ hwf rest
  have hw : Packed (pack 0x0AC00000 [(g.val, 29), (d.val, 16), (b.val, 10), (l.val, 6), (o.val, 0)]) 0x0AC00000 [(g.val, 29, 3), (d.val, 16, 5), (b.val, 10, 6), (l.val, 6, 4), (o.val, 0, 6)]
      [(29, 3), (16, 5), (10, 6), (6, 4), (0, 6)] := packed (k := 0x0AC00000) (fs := [(g.val, 29, 3), (d.val, 16, 5), (b.val, 10, 6), (l.val, 6, 4), (o.val, 0, 6)]) ⟨g.isLt, d.isLt, b.isLt, l.isLt, o.isLt, trivial⟩ rfl rfl rfl (by decide)
  revert hw
  show _ → decodeBytes ([pack 0x0AC00000 [(g.val, 29), (d.val, 16), (b.val, 10), (l.val, 6), (o.val, 0)]].flatMap bytesOfWord ++ rest) = _
  generalize pack 0x0AC00000 [(g.val, 29), (d.val, 16), (b.val, 10), (l.val, 6), (o.val, 0)] = wd
  intro ⟨hlt, hh, hp⟩
  have h0 : fld wd 29 3 = g.val := hh.1
  have h1 : fld wd 16 5 = d.val := hh.2.1
  have h2 : fld wd 10 6 = b.val := hh.2.2.1
  have h3 : fld wd 6 4 = l.val := hh.2.2.2.1
  have h4 : fld wd 0 6 = o.val := hh.2.2.2.2.1
  have e0 : Fin.ofNat 8 (wd / 2 ^ 29) = g := finOf rfl h0
  have e1 : Fin.ofNat 32 (wd / 2 ^ 16) = d := finOf rfl h1
  have e2 : Fin.ofNat 64 (wd / 2 ^ 10) = b := finOf rfl h2
  have e3 : Fin.ofNat 16 (wd / 2 ^ 6) = l := finOf rfl h3
  have e4 : Fin.ofNat 64 (wd / 2 ^ 0) = o := finOf rfl h4
  have hm : majorOf wd = 0x2B := hp 22 7 rfl
  have c21_1 : fld wd 21 1 = 0 := hp 21 1 rfl
  have hn : o.val ≠ 0x20 := by
    intro e
    simp [Instr.wellFormed, e] at hwf
  exact decode_word rest hlt (by rw [literal6 hm (by decide), h4]; exact beq_false_of_ne hn)
    (decode_major (ne_zero_of_fld (hp 22 1 rfl) (by decide)) hm rfl
      (by rw [major2B _ _, dec2B, h4, c21_1, e0, e1, e2, e3, e4]; simp [hn]) hwf)
theorem vldLiteral (g : Fin 8) (d : Fin 32) (b : Fin 64) (l : Fin 16) (lit : Word) : Statement (.vldLiteral g d b l lit) := by
  intro _ hwf rest
  have hw : Packed (pack 0x0AC00020 [(g.val, 29), (d.val, 16), (b.val, 10), (l.val, 6)]) 0x0AC00020 [(g.val, 29, 3), (d.val, 16, 5), (b.val, 10, 6), (l.val, 6, 4)]
      [(29, 3), (16, 5), (10, 6), (6, 4)] := packed (k := 0x0AC00020) (fs := [(g.val, 29, 3), (d.val, 16, 5), (b.val, 10, 6), (l.val, 6, 4)]) ⟨g.isLt, d.isLt, b.isLt, l.isLt, trivial⟩ rfl rfl rfl (by decide)
  revert hw
  show _ → decodeBytes ([pack 0x0AC00020 [(g.val, 29), (d.val, 16), (b.val, 10), (l.val, 6)], lit.toNat].flatMap bytesOfWord ++ rest) = _
  generalize pack 0x0AC00020 [(g.val, 29), (d.val, 16), (b.val, 10), (l.val, 6)] = wd
  intro ⟨hlt, hh, hp⟩
  have h0 : fld wd 29 3 = g.val := hh.1
  have h1 : fld wd 16 5 = d.val := hh.2.1
  have h2 : fld wd 10 6 = b.val := hh.2.2.1
  have h3 : fld wd 6 4 = l.val := hh.2.2.2.1
  have e0 : Fin.ofNat 8 (wd / 2 ^ 29) = g := finOf rfl h0
  have e1 : Fin.ofNat 32 (wd / 2 ^ 16) = d := finOf rfl h1
  have e2 : Fin.ofNat 64 (wd / 2 ^ 10) = b := finOf rfl h2
  have e3 : Fin.ofNat 16 (wd / 2 ^ 6) = l := finOf rfl h3
  have hm : majorOf wd = 0x2B := hp 22 7 rfl
  have c0_6 : fld wd 0 6 = 32 := hp 0 6 rfl
  have c21_1 : fld wd 21 1 = 0 := hp 21 1 rfl
  exact decode_literal rest hlt lit.isLt (by rw [literal6 hm (by decide), c0_6]; rfl)
    (decode_major (ne_zero_of_fld (hp 5 1 rfl) (by decide)) hm rfl
      (by rw [major2B _ _, dec2B, c0_6, c21_1, e0, e1, e2, e3]; simp only [BitVec.ofNat_toNat, BitVec.setWidth_eq]; rfl) hwf)
theorem vst (g : Fin 8) (s : Fin 32) (b : Fin 64) (m : Fin 8) (o : Fin 64) : Statement (.vst g s b m o) := by
  intro _ hwf rest
  have hw : Packed (pack 0x0B000000 [(g.val, 29), (s.val, 16), (b.val, 10), (m.val, 6), (o.val, 0)]) 0x0B000000 [(g.val, 29, 3), (s.val, 16, 5), (b.val, 10, 6), (m.val, 6, 3), (o.val, 0, 6)]
      [(29, 3), (16, 5), (10, 6), (6, 3), (0, 6)] := packed (k := 0x0B000000) (fs := [(g.val, 29, 3), (s.val, 16, 5), (b.val, 10, 6), (m.val, 6, 3), (o.val, 0, 6)]) ⟨g.isLt, s.isLt, b.isLt, m.isLt, o.isLt, trivial⟩ rfl rfl rfl (by decide)
  revert hw
  show _ → decodeBytes ([pack 0x0B000000 [(g.val, 29), (s.val, 16), (b.val, 10), (m.val, 6), (o.val, 0)]].flatMap bytesOfWord ++ rest) = _
  generalize pack 0x0B000000 [(g.val, 29), (s.val, 16), (b.val, 10), (m.val, 6), (o.val, 0)] = wd
  intro ⟨hlt, hh, hp⟩
  have h0 : fld wd 29 3 = g.val := hh.1
  have h1 : fld wd 16 5 = s.val := hh.2.1
  have h2 : fld wd 10 6 = b.val := hh.2.2.1
  have h3 : fld wd 6 3 = m.val := hh.2.2.2.1
  have h4 : fld wd 0 6 = o.val := hh.2.2.2.2.1
  have e0 : Fin.ofNat 8 (wd / 2 ^ 29) = g := finOf rfl h0
  have e1 : Fin.ofNat 32 (wd / 2 ^ 16) = s := finOf rfl h1
  have e2 : Fin.ofNat 64 (wd / 2 ^ 10) = b := finOf rfl h2
  have e3 : Fin.ofNat 8 (wd / 2 ^ 6) = m := finOf rfl h3
  have e4 : Fin.ofNat 64 (wd / 2 ^ 0) = o := finOf rfl h4
  have hm : majorOf wd = 0x2C := hp 22 7 rfl
  have c9_1 : fld wd 9 1 = 0 := hp 9 1 rfl
  have c21_1 : fld wd 21 1 = 0 := hp 21 1 rfl
  have hn : o.val ≠ 0x20 := by
    intro e
    simp [Instr.wellFormed, e] at hwf
  exact decode_word rest hlt (by rw [literal6 hm (by decide), h4]; exact beq_false_of_ne hn)
    (decode_major (ne_zero_of_fld (hp 24 1 rfl) (by decide)) hm rfl
      (by rw [major2C _ _, dec2C, h4, c9_1, c21_1, e0, e1, e2, e3, e4]; simp [hn]) hwf)
theorem vstLiteral (g : Fin 8) (s : Fin 32) (b : Fin 64) (m : Fin 8) (lit : Word) : Statement (.vstLiteral g s b m lit) := by
  intro _ hwf rest
  have hw : Packed (pack 0x0B000020 [(g.val, 29), (s.val, 16), (b.val, 10), (m.val, 6)]) 0x0B000020 [(g.val, 29, 3), (s.val, 16, 5), (b.val, 10, 6), (m.val, 6, 3)]
      [(29, 3), (16, 5), (10, 6), (6, 3)] := packed (k := 0x0B000020) (fs := [(g.val, 29, 3), (s.val, 16, 5), (b.val, 10, 6), (m.val, 6, 3)]) ⟨g.isLt, s.isLt, b.isLt, m.isLt, trivial⟩ rfl rfl rfl (by decide)
  revert hw
  show _ → decodeBytes ([pack 0x0B000020 [(g.val, 29), (s.val, 16), (b.val, 10), (m.val, 6)], lit.toNat].flatMap bytesOfWord ++ rest) = _
  generalize pack 0x0B000020 [(g.val, 29), (s.val, 16), (b.val, 10), (m.val, 6)] = wd
  intro ⟨hlt, hh, hp⟩
  have h0 : fld wd 29 3 = g.val := hh.1
  have h1 : fld wd 16 5 = s.val := hh.2.1
  have h2 : fld wd 10 6 = b.val := hh.2.2.1
  have h3 : fld wd 6 3 = m.val := hh.2.2.2.1
  have e0 : Fin.ofNat 8 (wd / 2 ^ 29) = g := finOf rfl h0
  have e1 : Fin.ofNat 32 (wd / 2 ^ 16) = s := finOf rfl h1
  have e2 : Fin.ofNat 64 (wd / 2 ^ 10) = b := finOf rfl h2
  have e3 : Fin.ofNat 8 (wd / 2 ^ 6) = m := finOf rfl h3
  have hm : majorOf wd = 0x2C := hp 22 7 rfl
  have c0_6 : fld wd 0 6 = 32 := hp 0 6 rfl
  have c9_1 : fld wd 9 1 = 0 := hp 9 1 rfl
  have c21_1 : fld wd 21 1 = 0 := hp 21 1 rfl
  exact decode_literal rest hlt lit.isLt (by rw [literal6 hm (by decide), c0_6]; rfl)
    (decode_major (ne_zero_of_fld (hp 5 1 rfl) (by decide)) hm rfl
      (by rw [major2C _ _, dec2C, c0_6, c9_1, c21_1, e0, e1, e2, e3]; simp only [BitVec.ofNat_toNat, BitVec.setWidth_eq]; rfl) hwf)
theorem vlds (g : Fin 8) (d : Fin 32) (a : Fin 64) (b : Fin 64) (m : Fin 4) : Statement (.vlds g d a b m) := by
  intro _ hwf rest
  have hw : Packed (pack 0x0B400000 [(g.val, 29), (d.val, 16), (a.val, 10), (b.val, 4), (m.val, 2)]) 0x0B400000 [(g.val, 29, 3), (d.val, 16, 5), (a.val, 10, 6), (b.val, 4, 6), (m.val, 2, 2)]
      [(29, 3), (16, 5), (10, 6), (4, 6), (2, 2)] := packed (k := 0x0B400000) (fs := [(g.val, 29, 3), (d.val, 16, 5), (a.val, 10, 6), (b.val, 4, 6), (m.val, 2, 2)]) ⟨g.isLt, d.isLt, a.isLt, b.isLt, m.isLt, trivial⟩ rfl rfl rfl (by decide)
  revert hw
  show _ → decodeBytes ([pack 0x0B400000 [(g.val, 29), (d.val, 16), (a.val, 10), (b.val, 4), (m.val, 2)]].flatMap bytesOfWord ++ rest) = _
  generalize pack 0x0B400000 [(g.val, 29), (d.val, 16), (a.val, 10), (b.val, 4), (m.val, 2)] = wd
  intro ⟨hlt, hh, hp⟩
  have h0 : fld wd 29 3 = g.val := hh.1
  have h1 : fld wd 16 5 = d.val := hh.2.1
  have h2 : fld wd 10 6 = a.val := hh.2.2.1
  have h3 : fld wd 4 6 = b.val := hh.2.2.2.1
  have h4 : fld wd 2 2 = m.val := hh.2.2.2.2.1
  have e0 : Fin.ofNat 8 (wd / 2 ^ 29) = g := finOf rfl h0
  have e1 : Fin.ofNat 32 (wd / 2 ^ 16) = d := finOf rfl h1
  have e2 : Fin.ofNat 64 (wd / 2 ^ 10) = a := finOf rfl h2
  have e3 : Fin.ofNat 64 (wd / 2 ^ 4) = b := finOf rfl h3
  have e4 : Fin.ofNat 4 (wd / 2 ^ 2) = m := finOf rfl h4
  have hm : majorOf wd = 0x2D := hp 22 7 rfl
  have c0_2 : fld wd 0 2 = 0 := hp 0 2 rfl
  have c21_1 : fld wd 21 1 = 0 := hp 21 1 rfl
  exact decode_word rest hlt (noLiteral hm (by decide))
    (decode_major (ne_zero_of_fld (hp 22 1 rfl) (by decide)) hm rfl
      (by rw [major2D _ _, dec2D, c0_2, c21_1, e0, e1, e2, e3, e4]; rfl) hwf)
theorem vldx (g : Fin 8) (d : Fin 32) (a : Fin 64) (b : Fin 32) (m : Fin 4) : Statement (.vldx g d a b m) := by
  intro _ hwf rest
  have hw : Packed (pack 0x0B400001 [(g.val, 29), (d.val, 16), (a.val, 10), (b.val, 4), (m.val, 2)]) 0x0B400001 [(g.val, 29, 3), (d.val, 16, 5), (a.val, 10, 6), (b.val, 4, 5), (m.val, 2, 2)]
      [(29, 3), (16, 5), (10, 6), (4, 5), (2, 2)] := packed (k := 0x0B400001) (fs := [(g.val, 29, 3), (d.val, 16, 5), (a.val, 10, 6), (b.val, 4, 5), (m.val, 2, 2)]) ⟨g.isLt, d.isLt, a.isLt, b.isLt, m.isLt, trivial⟩ rfl rfl rfl (by decide)
  revert hw
  show _ → decodeBytes ([pack 0x0B400001 [(g.val, 29), (d.val, 16), (a.val, 10), (b.val, 4), (m.val, 2)]].flatMap bytesOfWord ++ rest) = _
  generalize pack 0x0B400001 [(g.val, 29), (d.val, 16), (a.val, 10), (b.val, 4), (m.val, 2)] = wd
  intro ⟨hlt, hh, hp⟩
  have h0 : fld wd 29 3 = g.val := hh.1
  have h1 : fld wd 16 5 = d.val := hh.2.1
  have h2 : fld wd 10 6 = a.val := hh.2.2.1
  have h3 : fld wd 4 5 = b.val := hh.2.2.2.1
  have h4 : fld wd 2 2 = m.val := hh.2.2.2.2.1
  have e0 : Fin.ofNat 8 (wd / 2 ^ 29) = g := finOf rfl h0
  have e1 : Fin.ofNat 32 (wd / 2 ^ 16) = d := finOf rfl h1
  have e2 : Fin.ofNat 64 (wd / 2 ^ 10) = a := finOf rfl h2
  have e3 : Fin.ofNat 32 (wd / 2 ^ 4) = b := finOf rfl h3
  have e4 : Fin.ofNat 4 (wd / 2 ^ 2) = m := finOf rfl h4
  have hm : majorOf wd = 0x2D := hp 22 7 rfl
  have c0_2 : fld wd 0 2 = 1 := hp 0 2 rfl
  have c9_1 : fld wd 9 1 = 0 := hp 9 1 rfl
  have c21_1 : fld wd 21 1 = 0 := hp 21 1 rfl
  exact decode_word rest hlt (noLiteral hm (by decide))
    (decode_major (ne_zero_of_fld (hp 0 1 rfl) (by decide)) hm rfl
      (by rw [major2D _ _, dec2D, c0_2, c9_1, c21_1, e0, e1, e2, e3, e4]; rfl) hwf)
theorem vsts (g : Fin 8) (d : Fin 32) (a : Fin 64) (b : Fin 64) (m : Fin 4) : Statement (.vsts g d a b m) := by
  intro _ hwf rest
  have hw : Packed (pack 0x0B400002 [(g.val, 29), (d.val, 16), (a.val, 10), (b.val, 4), (m.val, 2)]) 0x0B400002 [(g.val, 29, 3), (d.val, 16, 5), (a.val, 10, 6), (b.val, 4, 6), (m.val, 2, 2)]
      [(29, 3), (16, 5), (10, 6), (4, 6), (2, 2)] := packed (k := 0x0B400002) (fs := [(g.val, 29, 3), (d.val, 16, 5), (a.val, 10, 6), (b.val, 4, 6), (m.val, 2, 2)]) ⟨g.isLt, d.isLt, a.isLt, b.isLt, m.isLt, trivial⟩ rfl rfl rfl (by decide)
  revert hw
  show _ → decodeBytes ([pack 0x0B400002 [(g.val, 29), (d.val, 16), (a.val, 10), (b.val, 4), (m.val, 2)]].flatMap bytesOfWord ++ rest) = _
  generalize pack 0x0B400002 [(g.val, 29), (d.val, 16), (a.val, 10), (b.val, 4), (m.val, 2)] = wd
  intro ⟨hlt, hh, hp⟩
  have h0 : fld wd 29 3 = g.val := hh.1
  have h1 : fld wd 16 5 = d.val := hh.2.1
  have h2 : fld wd 10 6 = a.val := hh.2.2.1
  have h3 : fld wd 4 6 = b.val := hh.2.2.2.1
  have h4 : fld wd 2 2 = m.val := hh.2.2.2.2.1
  have e0 : Fin.ofNat 8 (wd / 2 ^ 29) = g := finOf rfl h0
  have e1 : Fin.ofNat 32 (wd / 2 ^ 16) = d := finOf rfl h1
  have e2 : Fin.ofNat 64 (wd / 2 ^ 10) = a := finOf rfl h2
  have e3 : Fin.ofNat 64 (wd / 2 ^ 4) = b := finOf rfl h3
  have e4 : Fin.ofNat 4 (wd / 2 ^ 2) = m := finOf rfl h4
  have hm : majorOf wd = 0x2D := hp 22 7 rfl
  have c0_2 : fld wd 0 2 = 2 := hp 0 2 rfl
  have c21_1 : fld wd 21 1 = 0 := hp 21 1 rfl
  exact decode_word rest hlt (noLiteral hm (by decide))
    (decode_major (ne_zero_of_fld (hp 1 1 rfl) (by decide)) hm rfl
      (by rw [major2D _ _, dec2D, c0_2, c21_1, e0, e1, e2, e3, e4]; rfl) hwf)
theorem vstx (g : Fin 8) (d : Fin 32) (a : Fin 64) (b : Fin 32) (m : Fin 4) : Statement (.vstx g d a b m) := by
  intro _ hwf rest
  have hw : Packed (pack 0x0B400003 [(g.val, 29), (d.val, 16), (a.val, 10), (b.val, 4), (m.val, 2)]) 0x0B400003 [(g.val, 29, 3), (d.val, 16, 5), (a.val, 10, 6), (b.val, 4, 5), (m.val, 2, 2)]
      [(29, 3), (16, 5), (10, 6), (4, 5), (2, 2)] := packed (k := 0x0B400003) (fs := [(g.val, 29, 3), (d.val, 16, 5), (a.val, 10, 6), (b.val, 4, 5), (m.val, 2, 2)]) ⟨g.isLt, d.isLt, a.isLt, b.isLt, m.isLt, trivial⟩ rfl rfl rfl (by decide)
  revert hw
  show _ → decodeBytes ([pack 0x0B400003 [(g.val, 29), (d.val, 16), (a.val, 10), (b.val, 4), (m.val, 2)]].flatMap bytesOfWord ++ rest) = _
  generalize pack 0x0B400003 [(g.val, 29), (d.val, 16), (a.val, 10), (b.val, 4), (m.val, 2)] = wd
  intro ⟨hlt, hh, hp⟩
  have h0 : fld wd 29 3 = g.val := hh.1
  have h1 : fld wd 16 5 = d.val := hh.2.1
  have h2 : fld wd 10 6 = a.val := hh.2.2.1
  have h3 : fld wd 4 5 = b.val := hh.2.2.2.1
  have h4 : fld wd 2 2 = m.val := hh.2.2.2.2.1
  have e0 : Fin.ofNat 8 (wd / 2 ^ 29) = g := finOf rfl h0
  have e1 : Fin.ofNat 32 (wd / 2 ^ 16) = d := finOf rfl h1
  have e2 : Fin.ofNat 64 (wd / 2 ^ 10) = a := finOf rfl h2
  have e3 : Fin.ofNat 32 (wd / 2 ^ 4) = b := finOf rfl h3
  have e4 : Fin.ofNat 4 (wd / 2 ^ 2) = m := finOf rfl h4
  have hm : majorOf wd = 0x2D := hp 22 7 rfl
  have c0_2 : fld wd 0 2 = 3 := hp 0 2 rfl
  have c9_1 : fld wd 9 1 = 0 := hp 9 1 rfl
  have c21_1 : fld wd 21 1 = 0 := hp 21 1 rfl
  exact decode_word rest hlt (noLiteral hm (by decide))
    (decode_major (ne_zero_of_fld (hp 0 1 rfl) (by decide)) hm rfl
      (by rw [major2D _ _, dec2D, c0_2, c9_1, c21_1, e0, e1, e2, e3, e4]; rfl) hwf)
theorem amoAdd (g : Fin 8) (d : Fin 64) (a : Fin 64) (b : Fin 64) : Statement (.amoAdd g d a b) := by
  intro _ hwf rest
  have hw : Packed (pack 0x0B800000 [(g.val, 29), (d.val, 16), (a.val, 10), (b.val, 4)]) 0x0B800000 [(g.val, 29, 3), (d.val, 16, 6), (a.val, 10, 6), (b.val, 4, 6)]
      [(29, 3), (16, 6), (10, 6), (4, 6)] := packed (k := 0x0B800000) (fs := [(g.val, 29, 3), (d.val, 16, 6), (a.val, 10, 6), (b.val, 4, 6)]) ⟨g.isLt, d.isLt, a.isLt, b.isLt, trivial⟩ rfl rfl rfl (by decide)
  revert hw
  show _ → decodeBytes ([pack 0x0B800000 [(g.val, 29), (d.val, 16), (a.val, 10), (b.val, 4)]].flatMap bytesOfWord ++ rest) = _
  generalize pack 0x0B800000 [(g.val, 29), (d.val, 16), (a.val, 10), (b.val, 4)] = wd
  intro ⟨hlt, hh, hp⟩
  have h0 : fld wd 29 3 = g.val := hh.1
  have h1 : fld wd 16 6 = d.val := hh.2.1
  have h2 : fld wd 10 6 = a.val := hh.2.2.1
  have h3 : fld wd 4 6 = b.val := hh.2.2.2.1
  have e0 : Fin.ofNat 8 (wd / 2 ^ 29) = g := finOf rfl h0
  have e1 : Fin.ofNat 64 (wd / 2 ^ 16) = d := finOf rfl h1
  have e2 : Fin.ofNat 64 (wd / 2 ^ 10) = a := finOf rfl h2
  have e3 : Fin.ofNat 64 (wd / 2 ^ 4) = b := finOf rfl h3
  have hm : majorOf wd = 0x2E := hp 22 7 rfl
  have c0_4 : fld wd 0 4 = 0 := hp 0 4 rfl
  exact decode_word rest hlt (noLiteral hm (by decide))
    (decode_major (ne_zero_of_fld (hp 23 1 rfl) (by decide)) hm rfl
      (by rw [major2E _ _, dec2E, c0_4, e0, e1, e2, e3]; rfl) hwf)
theorem amoAnd (g : Fin 8) (d : Fin 64) (a : Fin 64) (b : Fin 64) : Statement (.amoAnd g d a b) := by
  intro _ hwf rest
  have hw : Packed (pack 0x0B800001 [(g.val, 29), (d.val, 16), (a.val, 10), (b.val, 4)]) 0x0B800001 [(g.val, 29, 3), (d.val, 16, 6), (a.val, 10, 6), (b.val, 4, 6)]
      [(29, 3), (16, 6), (10, 6), (4, 6)] := packed (k := 0x0B800001) (fs := [(g.val, 29, 3), (d.val, 16, 6), (a.val, 10, 6), (b.val, 4, 6)]) ⟨g.isLt, d.isLt, a.isLt, b.isLt, trivial⟩ rfl rfl rfl (by decide)
  revert hw
  show _ → decodeBytes ([pack 0x0B800001 [(g.val, 29), (d.val, 16), (a.val, 10), (b.val, 4)]].flatMap bytesOfWord ++ rest) = _
  generalize pack 0x0B800001 [(g.val, 29), (d.val, 16), (a.val, 10), (b.val, 4)] = wd
  intro ⟨hlt, hh, hp⟩
  have h0 : fld wd 29 3 = g.val := hh.1
  have h1 : fld wd 16 6 = d.val := hh.2.1
  have h2 : fld wd 10 6 = a.val := hh.2.2.1
  have h3 : fld wd 4 6 = b.val := hh.2.2.2.1
  have e0 : Fin.ofNat 8 (wd / 2 ^ 29) = g := finOf rfl h0
  have e1 : Fin.ofNat 64 (wd / 2 ^ 16) = d := finOf rfl h1
  have e2 : Fin.ofNat 64 (wd / 2 ^ 10) = a := finOf rfl h2
  have e3 : Fin.ofNat 64 (wd / 2 ^ 4) = b := finOf rfl h3
  have hm : majorOf wd = 0x2E := hp 22 7 rfl
  have c0_4 : fld wd 0 4 = 1 := hp 0 4 rfl
  exact decode_word rest hlt (noLiteral hm (by decide))
    (decode_major (ne_zero_of_fld (hp 0 1 rfl) (by decide)) hm rfl
      (by rw [major2E _ _, dec2E, c0_4, e0, e1, e2, e3]; rfl) hwf)
theorem amoOr (g : Fin 8) (d : Fin 64) (a : Fin 64) (b : Fin 64) : Statement (.amoOr g d a b) := by
  intro _ hwf rest
  have hw : Packed (pack 0x0B800002 [(g.val, 29), (d.val, 16), (a.val, 10), (b.val, 4)]) 0x0B800002 [(g.val, 29, 3), (d.val, 16, 6), (a.val, 10, 6), (b.val, 4, 6)]
      [(29, 3), (16, 6), (10, 6), (4, 6)] := packed (k := 0x0B800002) (fs := [(g.val, 29, 3), (d.val, 16, 6), (a.val, 10, 6), (b.val, 4, 6)]) ⟨g.isLt, d.isLt, a.isLt, b.isLt, trivial⟩ rfl rfl rfl (by decide)
  revert hw
  show _ → decodeBytes ([pack 0x0B800002 [(g.val, 29), (d.val, 16), (a.val, 10), (b.val, 4)]].flatMap bytesOfWord ++ rest) = _
  generalize pack 0x0B800002 [(g.val, 29), (d.val, 16), (a.val, 10), (b.val, 4)] = wd
  intro ⟨hlt, hh, hp⟩
  have h0 : fld wd 29 3 = g.val := hh.1
  have h1 : fld wd 16 6 = d.val := hh.2.1
  have h2 : fld wd 10 6 = a.val := hh.2.2.1
  have h3 : fld wd 4 6 = b.val := hh.2.2.2.1
  have e0 : Fin.ofNat 8 (wd / 2 ^ 29) = g := finOf rfl h0
  have e1 : Fin.ofNat 64 (wd / 2 ^ 16) = d := finOf rfl h1
  have e2 : Fin.ofNat 64 (wd / 2 ^ 10) = a := finOf rfl h2
  have e3 : Fin.ofNat 64 (wd / 2 ^ 4) = b := finOf rfl h3
  have hm : majorOf wd = 0x2E := hp 22 7 rfl
  have c0_4 : fld wd 0 4 = 2 := hp 0 4 rfl
  exact decode_word rest hlt (noLiteral hm (by decide))
    (decode_major (ne_zero_of_fld (hp 1 1 rfl) (by decide)) hm rfl
      (by rw [major2E _ _, dec2E, c0_4, e0, e1, e2, e3]; rfl) hwf)
theorem amoXor (g : Fin 8) (d : Fin 64) (a : Fin 64) (b : Fin 64) : Statement (.amoXor g d a b) := by
  intro _ hwf rest
  have hw : Packed (pack 0x0B800003 [(g.val, 29), (d.val, 16), (a.val, 10), (b.val, 4)]) 0x0B800003 [(g.val, 29, 3), (d.val, 16, 6), (a.val, 10, 6), (b.val, 4, 6)]
      [(29, 3), (16, 6), (10, 6), (4, 6)] := packed (k := 0x0B800003) (fs := [(g.val, 29, 3), (d.val, 16, 6), (a.val, 10, 6), (b.val, 4, 6)]) ⟨g.isLt, d.isLt, a.isLt, b.isLt, trivial⟩ rfl rfl rfl (by decide)
  revert hw
  show _ → decodeBytes ([pack 0x0B800003 [(g.val, 29), (d.val, 16), (a.val, 10), (b.val, 4)]].flatMap bytesOfWord ++ rest) = _
  generalize pack 0x0B800003 [(g.val, 29), (d.val, 16), (a.val, 10), (b.val, 4)] = wd
  intro ⟨hlt, hh, hp⟩
  have h0 : fld wd 29 3 = g.val := hh.1
  have h1 : fld wd 16 6 = d.val := hh.2.1
  have h2 : fld wd 10 6 = a.val := hh.2.2.1
  have h3 : fld wd 4 6 = b.val := hh.2.2.2.1
  have e0 : Fin.ofNat 8 (wd / 2 ^ 29) = g := finOf rfl h0
  have e1 : Fin.ofNat 64 (wd / 2 ^ 16) = d := finOf rfl h1
  have e2 : Fin.ofNat 64 (wd / 2 ^ 10) = a := finOf rfl h2
  have e3 : Fin.ofNat 64 (wd / 2 ^ 4) = b := finOf rfl h3
  have hm : majorOf wd = 0x2E := hp 22 7 rfl
  have c0_4 : fld wd 0 4 = 3 := hp 0 4 rfl
  exact decode_word rest hlt (noLiteral hm (by decide))
    (decode_major (ne_zero_of_fld (hp 0 1 rfl) (by decide)) hm rfl
      (by rw [major2E _ _, dec2E, c0_4, e0, e1, e2, e3]; rfl) hwf)
theorem amoMin (g : Fin 8) (d : Fin 64) (a : Fin 64) (b : Fin 64) : Statement (.amoMin g d a b) := by
  intro _ hwf rest
  have hw : Packed (pack 0x0B800004 [(g.val, 29), (d.val, 16), (a.val, 10), (b.val, 4)]) 0x0B800004 [(g.val, 29, 3), (d.val, 16, 6), (a.val, 10, 6), (b.val, 4, 6)]
      [(29, 3), (16, 6), (10, 6), (4, 6)] := packed (k := 0x0B800004) (fs := [(g.val, 29, 3), (d.val, 16, 6), (a.val, 10, 6), (b.val, 4, 6)]) ⟨g.isLt, d.isLt, a.isLt, b.isLt, trivial⟩ rfl rfl rfl (by decide)
  revert hw
  show _ → decodeBytes ([pack 0x0B800004 [(g.val, 29), (d.val, 16), (a.val, 10), (b.val, 4)]].flatMap bytesOfWord ++ rest) = _
  generalize pack 0x0B800004 [(g.val, 29), (d.val, 16), (a.val, 10), (b.val, 4)] = wd
  intro ⟨hlt, hh, hp⟩
  have h0 : fld wd 29 3 = g.val := hh.1
  have h1 : fld wd 16 6 = d.val := hh.2.1
  have h2 : fld wd 10 6 = a.val := hh.2.2.1
  have h3 : fld wd 4 6 = b.val := hh.2.2.2.1
  have e0 : Fin.ofNat 8 (wd / 2 ^ 29) = g := finOf rfl h0
  have e1 : Fin.ofNat 64 (wd / 2 ^ 16) = d := finOf rfl h1
  have e2 : Fin.ofNat 64 (wd / 2 ^ 10) = a := finOf rfl h2
  have e3 : Fin.ofNat 64 (wd / 2 ^ 4) = b := finOf rfl h3
  have hm : majorOf wd = 0x2E := hp 22 7 rfl
  have c0_4 : fld wd 0 4 = 4 := hp 0 4 rfl
  exact decode_word rest hlt (noLiteral hm (by decide))
    (decode_major (ne_zero_of_fld (hp 2 1 rfl) (by decide)) hm rfl
      (by rw [major2E _ _, dec2E, c0_4, e0, e1, e2, e3]; rfl) hwf)
theorem amoMax (g : Fin 8) (d : Fin 64) (a : Fin 64) (b : Fin 64) : Statement (.amoMax g d a b) := by
  intro _ hwf rest
  have hw : Packed (pack 0x0B800005 [(g.val, 29), (d.val, 16), (a.val, 10), (b.val, 4)]) 0x0B800005 [(g.val, 29, 3), (d.val, 16, 6), (a.val, 10, 6), (b.val, 4, 6)]
      [(29, 3), (16, 6), (10, 6), (4, 6)] := packed (k := 0x0B800005) (fs := [(g.val, 29, 3), (d.val, 16, 6), (a.val, 10, 6), (b.val, 4, 6)]) ⟨g.isLt, d.isLt, a.isLt, b.isLt, trivial⟩ rfl rfl rfl (by decide)
  revert hw
  show _ → decodeBytes ([pack 0x0B800005 [(g.val, 29), (d.val, 16), (a.val, 10), (b.val, 4)]].flatMap bytesOfWord ++ rest) = _
  generalize pack 0x0B800005 [(g.val, 29), (d.val, 16), (a.val, 10), (b.val, 4)] = wd
  intro ⟨hlt, hh, hp⟩
  have h0 : fld wd 29 3 = g.val := hh.1
  have h1 : fld wd 16 6 = d.val := hh.2.1
  have h2 : fld wd 10 6 = a.val := hh.2.2.1
  have h3 : fld wd 4 6 = b.val := hh.2.2.2.1
  have e0 : Fin.ofNat 8 (wd / 2 ^ 29) = g := finOf rfl h0
  have e1 : Fin.ofNat 64 (wd / 2 ^ 16) = d := finOf rfl h1
  have e2 : Fin.ofNat 64 (wd / 2 ^ 10) = a := finOf rfl h2
  have e3 : Fin.ofNat 64 (wd / 2 ^ 4) = b := finOf rfl h3
  have hm : majorOf wd = 0x2E := hp 22 7 rfl
  have c0_4 : fld wd 0 4 = 5 := hp 0 4 rfl
  exact decode_word rest hlt (noLiteral hm (by decide))
    (decode_major (ne_zero_of_fld (hp 0 1 rfl) (by decide)) hm rfl
      (by rw [major2E _ _, dec2E, c0_4, e0, e1, e2, e3]; rfl) hwf)
theorem amoMinu (g : Fin 8) (d : Fin 64) (a : Fin 64) (b : Fin 64) : Statement (.amoMinu g d a b) := by
  intro _ hwf rest
  have hw : Packed (pack 0x0B800006 [(g.val, 29), (d.val, 16), (a.val, 10), (b.val, 4)]) 0x0B800006 [(g.val, 29, 3), (d.val, 16, 6), (a.val, 10, 6), (b.val, 4, 6)]
      [(29, 3), (16, 6), (10, 6), (4, 6)] := packed (k := 0x0B800006) (fs := [(g.val, 29, 3), (d.val, 16, 6), (a.val, 10, 6), (b.val, 4, 6)]) ⟨g.isLt, d.isLt, a.isLt, b.isLt, trivial⟩ rfl rfl rfl (by decide)
  revert hw
  show _ → decodeBytes ([pack 0x0B800006 [(g.val, 29), (d.val, 16), (a.val, 10), (b.val, 4)]].flatMap bytesOfWord ++ rest) = _
  generalize pack 0x0B800006 [(g.val, 29), (d.val, 16), (a.val, 10), (b.val, 4)] = wd
  intro ⟨hlt, hh, hp⟩
  have h0 : fld wd 29 3 = g.val := hh.1
  have h1 : fld wd 16 6 = d.val := hh.2.1
  have h2 : fld wd 10 6 = a.val := hh.2.2.1
  have h3 : fld wd 4 6 = b.val := hh.2.2.2.1
  have e0 : Fin.ofNat 8 (wd / 2 ^ 29) = g := finOf rfl h0
  have e1 : Fin.ofNat 64 (wd / 2 ^ 16) = d := finOf rfl h1
  have e2 : Fin.ofNat 64 (wd / 2 ^ 10) = a := finOf rfl h2
  have e3 : Fin.ofNat 64 (wd / 2 ^ 4) = b := finOf rfl h3
  have hm : majorOf wd = 0x2E := hp 22 7 rfl
  have c0_4 : fld wd 0 4 = 6 := hp 0 4 rfl
  exact decode_word rest hlt (noLiteral hm (by decide))
    (decode_major (ne_zero_of_fld (hp 1 1 rfl) (by decide)) hm rfl
      (by rw [major2E _ _, dec2E, c0_4, e0, e1, e2, e3]; rfl) hwf)
theorem amoMaxu (g : Fin 8) (d : Fin 64) (a : Fin 64) (b : Fin 64) : Statement (.amoMaxu g d a b) := by
  intro _ hwf rest
  have hw : Packed (pack 0x0B800007 [(g.val, 29), (d.val, 16), (a.val, 10), (b.val, 4)]) 0x0B800007 [(g.val, 29, 3), (d.val, 16, 6), (a.val, 10, 6), (b.val, 4, 6)]
      [(29, 3), (16, 6), (10, 6), (4, 6)] := packed (k := 0x0B800007) (fs := [(g.val, 29, 3), (d.val, 16, 6), (a.val, 10, 6), (b.val, 4, 6)]) ⟨g.isLt, d.isLt, a.isLt, b.isLt, trivial⟩ rfl rfl rfl (by decide)
  revert hw
  show _ → decodeBytes ([pack 0x0B800007 [(g.val, 29), (d.val, 16), (a.val, 10), (b.val, 4)]].flatMap bytesOfWord ++ rest) = _
  generalize pack 0x0B800007 [(g.val, 29), (d.val, 16), (a.val, 10), (b.val, 4)] = wd
  intro ⟨hlt, hh, hp⟩
  have h0 : fld wd 29 3 = g.val := hh.1
  have h1 : fld wd 16 6 = d.val := hh.2.1
  have h2 : fld wd 10 6 = a.val := hh.2.2.1
  have h3 : fld wd 4 6 = b.val := hh.2.2.2.1
  have e0 : Fin.ofNat 8 (wd / 2 ^ 29) = g := finOf rfl h0
  have e1 : Fin.ofNat 64 (wd / 2 ^ 16) = d := finOf rfl h1
  have e2 : Fin.ofNat 64 (wd / 2 ^ 10) = a := finOf rfl h2
  have e3 : Fin.ofNat 64 (wd / 2 ^ 4) = b := finOf rfl h3
  have hm : majorOf wd = 0x2E := hp 22 7 rfl
  have c0_4 : fld wd 0 4 = 7 := hp 0 4 rfl
  exact decode_word rest hlt (noLiteral hm (by decide))
    (decode_major (ne_zero_of_fld (hp 0 1 rfl) (by decide)) hm rfl
      (by rw [major2E _ _, dec2E, c0_4, e0, e1, e2, e3]; rfl) hwf)
theorem amoSwap (g : Fin 8) (d : Fin 64) (a : Fin 64) (b : Fin 64) : Statement (.amoSwap g d a b) := by
  intro _ hwf rest
  have hw : Packed (pack 0x0B800008 [(g.val, 29), (d.val, 16), (a.val, 10), (b.val, 4)]) 0x0B800008 [(g.val, 29, 3), (d.val, 16, 6), (a.val, 10, 6), (b.val, 4, 6)]
      [(29, 3), (16, 6), (10, 6), (4, 6)] := packed (k := 0x0B800008) (fs := [(g.val, 29, 3), (d.val, 16, 6), (a.val, 10, 6), (b.val, 4, 6)]) ⟨g.isLt, d.isLt, a.isLt, b.isLt, trivial⟩ rfl rfl rfl (by decide)
  revert hw
  show _ → decodeBytes ([pack 0x0B800008 [(g.val, 29), (d.val, 16), (a.val, 10), (b.val, 4)]].flatMap bytesOfWord ++ rest) = _
  generalize pack 0x0B800008 [(g.val, 29), (d.val, 16), (a.val, 10), (b.val, 4)] = wd
  intro ⟨hlt, hh, hp⟩
  have h0 : fld wd 29 3 = g.val := hh.1
  have h1 : fld wd 16 6 = d.val := hh.2.1
  have h2 : fld wd 10 6 = a.val := hh.2.2.1
  have h3 : fld wd 4 6 = b.val := hh.2.2.2.1
  have e0 : Fin.ofNat 8 (wd / 2 ^ 29) = g := finOf rfl h0
  have e1 : Fin.ofNat 64 (wd / 2 ^ 16) = d := finOf rfl h1
  have e2 : Fin.ofNat 64 (wd / 2 ^ 10) = a := finOf rfl h2
  have e3 : Fin.ofNat 64 (wd / 2 ^ 4) = b := finOf rfl h3
  have hm : majorOf wd = 0x2E := hp 22 7 rfl
  have c0_4 : fld wd 0 4 = 8 := hp 0 4 rfl
  exact decode_word rest hlt (noLiteral hm (by decide))
    (decode_major (ne_zero_of_fld (hp 3 1 rfl) (by decide)) hm rfl
      (by rw [major2E _ _, dec2E, c0_4, e0, e1, e2, e3]; rfl) hwf)
theorem amoCas (g : Fin 8) (d : Fin 64) (a : Fin 64) (b : Fin 64) : Statement (.amoCas g d a b) := by
  intro _ hwf rest
  have hw : Packed (pack 0x0B800009 [(g.val, 29), (d.val, 16), (a.val, 10), (b.val, 4)]) 0x0B800009 [(g.val, 29, 3), (d.val, 16, 6), (a.val, 10, 6), (b.val, 4, 6)]
      [(29, 3), (16, 6), (10, 6), (4, 6)] := packed (k := 0x0B800009) (fs := [(g.val, 29, 3), (d.val, 16, 6), (a.val, 10, 6), (b.val, 4, 6)]) ⟨g.isLt, d.isLt, a.isLt, b.isLt, trivial⟩ rfl rfl rfl (by decide)
  revert hw
  show _ → decodeBytes ([pack 0x0B800009 [(g.val, 29), (d.val, 16), (a.val, 10), (b.val, 4)]].flatMap bytesOfWord ++ rest) = _
  generalize pack 0x0B800009 [(g.val, 29), (d.val, 16), (a.val, 10), (b.val, 4)] = wd
  intro ⟨hlt, hh, hp⟩
  have h0 : fld wd 29 3 = g.val := hh.1
  have h1 : fld wd 16 6 = d.val := hh.2.1
  have h2 : fld wd 10 6 = a.val := hh.2.2.1
  have h3 : fld wd 4 6 = b.val := hh.2.2.2.1
  have e0 : Fin.ofNat 8 (wd / 2 ^ 29) = g := finOf rfl h0
  have e1 : Fin.ofNat 64 (wd / 2 ^ 16) = d := finOf rfl h1
  have e2 : Fin.ofNat 64 (wd / 2 ^ 10) = a := finOf rfl h2
  have e3 : Fin.ofNat 64 (wd / 2 ^ 4) = b := finOf rfl h3
  have hm : majorOf wd = 0x2E := hp 22 7 rfl
  have c0_4 : fld wd 0 4 = 9 := hp 0 4 rfl
  exact decode_word rest hlt (noLiteral hm (by decide))
    (decode_major (ne_zero_of_fld (hp 0 1 rfl) (by decide)) hm rfl
      (by rw [major2E _ _, dec2E, c0_4, e0, e1, e2, e3]; rfl) hwf)
theorem amoFadd (g : Fin 8) (d : Fin 64) (a : Fin 64) (b : Fin 64) : Statement (.amoFadd g d a b) := by
  intro _ hwf rest
  have hw : Packed (pack 0x0B80000A [(g.val, 29), (d.val, 16), (a.val, 10), (b.val, 4)]) 0x0B80000A [(g.val, 29, 3), (d.val, 16, 6), (a.val, 10, 6), (b.val, 4, 6)]
      [(29, 3), (16, 6), (10, 6), (4, 6)] := packed (k := 0x0B80000A) (fs := [(g.val, 29, 3), (d.val, 16, 6), (a.val, 10, 6), (b.val, 4, 6)]) ⟨g.isLt, d.isLt, a.isLt, b.isLt, trivial⟩ rfl rfl rfl (by decide)
  revert hw
  show _ → decodeBytes ([pack 0x0B80000A [(g.val, 29), (d.val, 16), (a.val, 10), (b.val, 4)]].flatMap bytesOfWord ++ rest) = _
  generalize pack 0x0B80000A [(g.val, 29), (d.val, 16), (a.val, 10), (b.val, 4)] = wd
  intro ⟨hlt, hh, hp⟩
  have h0 : fld wd 29 3 = g.val := hh.1
  have h1 : fld wd 16 6 = d.val := hh.2.1
  have h2 : fld wd 10 6 = a.val := hh.2.2.1
  have h3 : fld wd 4 6 = b.val := hh.2.2.2.1
  have e0 : Fin.ofNat 8 (wd / 2 ^ 29) = g := finOf rfl h0
  have e1 : Fin.ofNat 64 (wd / 2 ^ 16) = d := finOf rfl h1
  have e2 : Fin.ofNat 64 (wd / 2 ^ 10) = a := finOf rfl h2
  have e3 : Fin.ofNat 64 (wd / 2 ^ 4) = b := finOf rfl h3
  have hm : majorOf wd = 0x2E := hp 22 7 rfl
  have c0_4 : fld wd 0 4 = 10 := hp 0 4 rfl
  exact decode_word rest hlt (noLiteral hm (by decide))
    (decode_major (ne_zero_of_fld (hp 1 1 rfl) (by decide)) hm rfl
      (by rw [major2E _ _, dec2E, c0_4, e0, e1, e2, e3]; rfl) hwf)
theorem fenceAcq (g : Fin 8) (s : Fin 16) : Statement (.fenceAcq g s) := by
  intro _ hwf rest
  have hw : Packed (pack 0x0BD00000 [(g.val, 29), (s.val, 16)]) 0x0BD00000 [(g.val, 29, 3), (s.val, 16, 4)]
      [(29, 3), (16, 4)] := packed (k := 0x0BD00000) (fs := [(g.val, 29, 3), (s.val, 16, 4)]) ⟨g.isLt, s.isLt, trivial⟩ rfl rfl rfl (by decide)
  revert hw
  show _ → decodeBytes ([pack 0x0BD00000 [(g.val, 29), (s.val, 16)]].flatMap bytesOfWord ++ rest) = _
  generalize pack 0x0BD00000 [(g.val, 29), (s.val, 16)] = wd
  intro ⟨hlt, hh, hp⟩
  have h0 : fld wd 29 3 = g.val := hh.1
  have h1 : fld wd 16 4 = s.val := hh.2.1
  have e0 : Fin.ofNat 8 (wd / 2 ^ 29) = g := finOf rfl h0
  have e1 : Fin.ofNat 16 (wd / 2 ^ 16) = s := finOf rfl h1
  have hm : majorOf wd = 0x2F := hp 22 7 rfl
  have c0_4 : fld wd 0 4 = 0 := hp 0 4 rfl
  have c0_10 : fld wd 0 10 = 0 := hp 0 10 rfl
  have c0_16 : fld wd 0 16 = 0 := hp 0 16 rfl
  have n16_6_0 : fld wd 16 6 ≠ 0 := fld_ne (i := 4) (by decide) (hp 20 1 rfl) (by decide)
  have n16_6_1 : fld wd 16 6 ≠ 1 := fld_ne (i := 4) (by decide) (hp 20 1 rfl) (by decide)
  have n19_3_0 : fld wd 19 3 ≠ 0 := fld_ne (i := 1) (by decide) (hp 20 1 rfl) (by decide)
  have c20_2 : fld wd 20 2 = 1 := hp 20 2 rfl
  exact decode_word rest hlt (noLiteral hm (by decide))
    (decode_major (ne_zero_of_fld (hp 20 1 rfl) (by decide)) hm rfl
      (by rw [major2F _ _, dec2F, c0_4, c0_10, c0_16, c20_2, e0, e1]; simp [n16_6_0, n16_6_1, n19_3_0]) hwf)
theorem fenceRel (g : Fin 8) (s : Fin 16) : Statement (.fenceRel g s) := by
  intro _ hwf rest
  have hw : Packed (pack 0x0BE00000 [(g.val, 29), (s.val, 16)]) 0x0BE00000 [(g.val, 29, 3), (s.val, 16, 4)]
      [(29, 3), (16, 4)] := packed (k := 0x0BE00000) (fs := [(g.val, 29, 3), (s.val, 16, 4)]) ⟨g.isLt, s.isLt, trivial⟩ rfl rfl rfl (by decide)
  revert hw
  show _ → decodeBytes ([pack 0x0BE00000 [(g.val, 29), (s.val, 16)]].flatMap bytesOfWord ++ rest) = _
  generalize pack 0x0BE00000 [(g.val, 29), (s.val, 16)] = wd
  intro ⟨hlt, hh, hp⟩
  have h0 : fld wd 29 3 = g.val := hh.1
  have h1 : fld wd 16 4 = s.val := hh.2.1
  have e0 : Fin.ofNat 8 (wd / 2 ^ 29) = g := finOf rfl h0
  have e1 : Fin.ofNat 16 (wd / 2 ^ 16) = s := finOf rfl h1
  have hm : majorOf wd = 0x2F := hp 22 7 rfl
  have c0_4 : fld wd 0 4 = 0 := hp 0 4 rfl
  have c0_10 : fld wd 0 10 = 0 := hp 0 10 rfl
  have c0_16 : fld wd 0 16 = 0 := hp 0 16 rfl
  have n16_6_0 : fld wd 16 6 ≠ 0 := fld_ne (i := 5) (by decide) (hp 21 1 rfl) (by decide)
  have n16_6_1 : fld wd 16 6 ≠ 1 := fld_ne (i := 5) (by decide) (hp 21 1 rfl) (by decide)
  have n19_3_0 : fld wd 19 3 ≠ 0 := fld_ne (i := 2) (by decide) (hp 21 1 rfl) (by decide)
  have c20_2 : fld wd 20 2 = 2 := hp 20 2 rfl
  exact decode_word rest hlt (noLiteral hm (by decide))
    (decode_major (ne_zero_of_fld (hp 21 1 rfl) (by decide)) hm rfl
      (by rw [major2F _ _, dec2F, c0_4, c0_10, c0_16, c20_2, e0, e1]; simp [n16_6_0, n16_6_1, n19_3_0]) hwf)
theorem fenceAr (g : Fin 8) (s : Fin 16) : Statement (.fenceAr g s) := by
  intro _ hwf rest
  have hw : Packed (pack 0x0BF00000 [(g.val, 29), (s.val, 16)]) 0x0BF00000 [(g.val, 29, 3), (s.val, 16, 4)]
      [(29, 3), (16, 4)] := packed (k := 0x0BF00000) (fs := [(g.val, 29, 3), (s.val, 16, 4)]) ⟨g.isLt, s.isLt, trivial⟩ rfl rfl rfl (by decide)
  revert hw
  show _ → decodeBytes ([pack 0x0BF00000 [(g.val, 29), (s.val, 16)]].flatMap bytesOfWord ++ rest) = _
  generalize pack 0x0BF00000 [(g.val, 29), (s.val, 16)] = wd
  intro ⟨hlt, hh, hp⟩
  have h0 : fld wd 29 3 = g.val := hh.1
  have h1 : fld wd 16 4 = s.val := hh.2.1
  have e0 : Fin.ofNat 8 (wd / 2 ^ 29) = g := finOf rfl h0
  have e1 : Fin.ofNat 16 (wd / 2 ^ 16) = s := finOf rfl h1
  have hm : majorOf wd = 0x2F := hp 22 7 rfl
  have c0_4 : fld wd 0 4 = 0 := hp 0 4 rfl
  have c0_10 : fld wd 0 10 = 0 := hp 0 10 rfl
  have c0_16 : fld wd 0 16 = 0 := hp 0 16 rfl
  have n16_6_0 : fld wd 16 6 ≠ 0 := fld_ne (i := 4) (by decide) (hp 20 1 rfl) (by decide)
  have n16_6_1 : fld wd 16 6 ≠ 1 := fld_ne (i := 4) (by decide) (hp 20 1 rfl) (by decide)
  have n19_3_0 : fld wd 19 3 ≠ 0 := fld_ne (i := 1) (by decide) (hp 20 1 rfl) (by decide)
  have c20_2 : fld wd 20 2 = 3 := hp 20 2 rfl
  exact decode_word rest hlt (noLiteral hm (by decide))
    (decode_major (ne_zero_of_fld (hp 20 1 rfl) (by decide)) hm rfl
      (by rw [major2F _ _, dec2F, c0_4, c0_10, c0_16, c20_2, e0, e1]; simp [n16_6_0, n16_6_1, n19_3_0]) hwf)
theorem afence (g : Fin 8) (a : Fin 64) (b : Fin 64) : Statement (.afence g a b) := by
  intro _ hwf rest
  have hw : Packed (pack 0x0BC00001 [(g.val, 29), (a.val, 10), (b.val, 4)]) 0x0BC00001 [(g.val, 29, 3), (a.val, 10, 6), (b.val, 4, 6)]
      [(29, 3), (10, 6), (4, 6)] := packed (k := 0x0BC00001) (fs := [(g.val, 29, 3), (a.val, 10, 6), (b.val, 4, 6)]) ⟨g.isLt, a.isLt, b.isLt, trivial⟩ rfl rfl rfl (by decide)
  revert hw
  show _ → decodeBytes ([pack 0x0BC00001 [(g.val, 29), (a.val, 10), (b.val, 4)]].flatMap bytesOfWord ++ rest) = _
  generalize pack 0x0BC00001 [(g.val, 29), (a.val, 10), (b.val, 4)] = wd
  intro ⟨hlt, hh, hp⟩
  have h0 : fld wd 29 3 = g.val := hh.1
  have h1 : fld wd 10 6 = a.val := hh.2.1
  have h2 : fld wd 4 6 = b.val := hh.2.2.1
  have e0 : Fin.ofNat 8 (wd / 2 ^ 29) = g := finOf rfl h0
  have e1 : Fin.ofNat 64 (wd / 2 ^ 10) = a := finOf rfl h1
  have e2 : Fin.ofNat 64 (wd / 2 ^ 4) = b := finOf rfl h2
  have hm : majorOf wd = 0x2F := hp 22 7 rfl
  have c0_4 : fld wd 0 4 = 1 := hp 0 4 rfl
  have n0_10_2 : fld wd 0 10 ≠ 2 := fld_ne (i := 0) (by decide) (hp 0 1 rfl) (by decide)
  have n0_10_3 : fld wd 0 10 ≠ 3 := fld_ne (i := 1) (by decide) (hp 1 1 rfl) (by decide)
  have n0_16_0 : fld wd 0 16 ≠ 0 := fld_ne (i := 0) (by decide) (hp 0 1 rfl) (by decide)
  have n0_16_4 : fld wd 0 16 ≠ 4 := fld_ne (i := 0) (by decide) (hp 0 1 rfl) (by decide)
  have c16_6 : fld wd 16 6 = 0 := hp 16 6 rfl
  have c19_3 : fld wd 19 3 = 0 := hp 19 3 rfl
  have c20_2 : fld wd 20 2 = 0 := hp 20 2 rfl
  exact decode_word rest hlt (noLiteral hm (by decide))
    (decode_major (ne_zero_of_fld (hp 0 1 rfl) (by decide)) hm rfl
      (by rw [major2F _ _, dec2F, c0_4, c16_6, c19_3, c20_2, e0, e1, e2]; simp [n0_10_2, n0_10_3, n0_16_0, n0_16_4]) hwf)
theorem pfx (g : Fin 8) (a : Fin 64) : Statement (.pfx g a) := by
  intro _ hwf rest
  have hw : Packed (pack 0x0BC00002 [(g.val, 29), (a.val, 10)]) 0x0BC00002 [(g.val, 29, 3), (a.val, 10, 6)]
      [(29, 3), (10, 6)] := packed (k := 0x0BC00002) (fs := [(g.val, 29, 3), (a.val, 10, 6)]) ⟨g.isLt, a.isLt, trivial⟩ rfl rfl rfl (by decide)
  revert hw
  show _ → decodeBytes ([pack 0x0BC00002 [(g.val, 29), (a.val, 10)]].flatMap bytesOfWord ++ rest) = _
  generalize pack 0x0BC00002 [(g.val, 29), (a.val, 10)] = wd
  intro ⟨hlt, hh, hp⟩
  have h0 : fld wd 29 3 = g.val := hh.1
  have h1 : fld wd 10 6 = a.val := hh.2.1
  have e0 : Fin.ofNat 8 (wd / 2 ^ 29) = g := finOf rfl h0
  have e1 : Fin.ofNat 64 (wd / 2 ^ 10) = a := finOf rfl h1
  have hm : majorOf wd = 0x2F := hp 22 7 rfl
  have c0_4 : fld wd 0 4 = 2 := hp 0 4 rfl
  have c0_10 : fld wd 0 10 = 2 := hp 0 10 rfl
  have n0_16_0 : fld wd 0 16 ≠ 0 := fld_ne (i := 1) (by decide) (hp 1 1 rfl) (by decide)
  have n0_16_4 : fld wd 0 16 ≠ 4 := fld_ne (i := 1) (by decide) (hp 1 1 rfl) (by decide)
  have c16_6 : fld wd 16 6 = 0 := hp 16 6 rfl
  have c19_3 : fld wd 19 3 = 0 := hp 19 3 rfl
  have c20_2 : fld wd 20 2 = 0 := hp 20 2 rfl
  exact decode_word rest hlt (noLiteral hm (by decide))
    (decode_major (ne_zero_of_fld (hp 1 1 rfl) (by decide)) hm rfl
      (by rw [major2F _ _, dec2F, c0_4, c0_10, c16_6, c19_3, c20_2, e0, e1]; simp [n0_16_0, n0_16_4]) hwf)
theorem touch (g : Fin 8) (a : Fin 64) : Statement (.touch g a) := by
  intro _ hwf rest
  have hw : Packed (pack 0x0BC00003 [(g.val, 29), (a.val, 10)]) 0x0BC00003 [(g.val, 29, 3), (a.val, 10, 6)]
      [(29, 3), (10, 6)] := packed (k := 0x0BC00003) (fs := [(g.val, 29, 3), (a.val, 10, 6)]) ⟨g.isLt, a.isLt, trivial⟩ rfl rfl rfl (by decide)
  revert hw
  show _ → decodeBytes ([pack 0x0BC00003 [(g.val, 29), (a.val, 10)]].flatMap bytesOfWord ++ rest) = _
  generalize pack 0x0BC00003 [(g.val, 29), (a.val, 10)] = wd
  intro ⟨hlt, hh, hp⟩
  have h0 : fld wd 29 3 = g.val := hh.1
  have h1 : fld wd 10 6 = a.val := hh.2.1
  have e0 : Fin.ofNat 8 (wd / 2 ^ 29) = g := finOf rfl h0
  have e1 : Fin.ofNat 64 (wd / 2 ^ 10) = a := finOf rfl h1
  have hm : majorOf wd = 0x2F := hp 22 7 rfl
  have c0_4 : fld wd 0 4 = 3 := hp 0 4 rfl
  have c0_10 : fld wd 0 10 = 3 := hp 0 10 rfl
  have n0_16_0 : fld wd 0 16 ≠ 0 := fld_ne (i := 0) (by decide) (hp 0 1 rfl) (by decide)
  have n0_16_4 : fld wd 0 16 ≠ 4 := fld_ne (i := 0) (by decide) (hp 0 1 rfl) (by decide)
  have c16_6 : fld wd 16 6 = 0 := hp 16 6 rfl
  have c19_3 : fld wd 19 3 = 0 := hp 19 3 rfl
  have c20_2 : fld wd 20 2 = 0 := hp 20 2 rfl
  exact decode_word rest hlt (noLiteral hm (by decide))
    (decode_major (ne_zero_of_fld (hp 0 1 rfl) (by decide)) hm rfl
      (by rw [major2F _ _, dec2F, c0_4, c0_10, c16_6, c19_3, c20_2, e0, e1]; simp [n0_16_0, n0_16_4]) hwf)
theorem touchW (g : Fin 8) (a : Fin 64) : Statement (.touchW g a) := by
  intro _ hwf rest
  have hw : Packed (pack 0x0BC10003 [(g.val, 29), (a.val, 10)]) 0x0BC10003 [(g.val, 29, 3), (a.val, 10, 6)]
      [(29, 3), (10, 6)] := packed (k := 0x0BC10003) (fs := [(g.val, 29, 3), (a.val, 10, 6)]) ⟨g.isLt, a.isLt, trivial⟩ rfl rfl rfl (by decide)
  revert hw
  show _ → decodeBytes ([pack 0x0BC10003 [(g.val, 29), (a.val, 10)]].flatMap bytesOfWord ++ rest) = _
  generalize pack 0x0BC10003 [(g.val, 29), (a.val, 10)] = wd
  intro ⟨hlt, hh, hp⟩
  have h0 : fld wd 29 3 = g.val := hh.1
  have h1 : fld wd 10 6 = a.val := hh.2.1
  have e0 : Fin.ofNat 8 (wd / 2 ^ 29) = g := finOf rfl h0
  have e1 : Fin.ofNat 64 (wd / 2 ^ 10) = a := finOf rfl h1
  have hm : majorOf wd = 0x2F := hp 22 7 rfl
  have c0_4 : fld wd 0 4 = 3 := hp 0 4 rfl
  have c0_10 : fld wd 0 10 = 3 := hp 0 10 rfl
  have n0_16_0 : fld wd 0 16 ≠ 0 := fld_ne (i := 0) (by decide) (hp 0 1 rfl) (by decide)
  have n0_16_4 : fld wd 0 16 ≠ 4 := fld_ne (i := 0) (by decide) (hp 0 1 rfl) (by decide)
  have c16_6 : fld wd 16 6 = 1 := hp 16 6 rfl
  have c19_3 : fld wd 19 3 = 0 := hp 19 3 rfl
  have c20_2 : fld wd 20 2 = 0 := hp 20 2 rfl
  exact decode_word rest hlt (noLiteral hm (by decide))
    (decode_major (ne_zero_of_fld (hp 0 1 rfl) (by decide)) hm rfl
      (by rw [major2F _ _, dec2F, c0_4, c0_10, c16_6, c19_3, c20_2, e0, e1]; simp [n0_16_0, n0_16_4]) hwf)
theorem bar (g : Fin 8) (n : Fin 8) : Statement (.bar g n) := by
  intro _ hwf rest
  have hw : Packed (pack 0x0BC00004 [(g.val, 29), (n.val, 16)]) 0x0BC00004 [(g.val, 29, 3), (n.val, 16, 3)]
      [(29, 3), (16, 3)] := packed (k := 0x0BC00004) (fs := [(g.val, 29, 3), (n.val, 16, 3)]) ⟨g.isLt, n.isLt, trivial⟩ rfl rfl rfl (by decide)
  revert hw
  show _ → decodeBytes ([pack 0x0BC00004 [(g.val, 29), (n.val, 16)]].flatMap bytesOfWord ++ rest) = _
  generalize pack 0x0BC00004 [(g.val, 29), (n.val, 16)] = wd
  intro ⟨hlt, hh, hp⟩
  have h0 : fld wd 29 3 = g.val := hh.1
  have h1 : fld wd 16 3 = n.val := hh.2.1
  have e0 : Fin.ofNat 8 (wd / 2 ^ 29) = g := finOf rfl h0
  have e1 : Fin.ofNat 8 (wd / 2 ^ 16) = n := finOf rfl h1
  have hm : majorOf wd = 0x2F := hp 22 7 rfl
  have c0_4 : fld wd 0 4 = 4 := hp 0 4 rfl
  have c0_10 : fld wd 0 10 = 4 := hp 0 10 rfl
  have c0_16 : fld wd 0 16 = 4 := hp 0 16 rfl
  have c19_3 : fld wd 19 3 = 0 := hp 19 3 rfl
  have c20_2 : fld wd 20 2 = 0 := hp 20 2 rfl
  exact decode_word rest hlt (noLiteral hm (by decide))
    (decode_major (ne_zero_of_fld (hp 2 1 rfl) (by decide)) hm rfl
      (by rw [major2F _ _, dec2F, c0_4, c0_10, c0_16, c19_3, c20_2, e0, e1]; rfl) hwf)
theorem get (g : Fin 8) (k : Fin 8) (a : Fin 64) (b : Fin 64) : Statement (.get g k a b) := by
  intro _ hwf rest
  have hw : Packed (pack 0x0BC00005 [(g.val, 29), (k.val, 16), (a.val, 10), (b.val, 4)]) 0x0BC00005 [(g.val, 29, 3), (k.val, 16, 3), (a.val, 10, 6), (b.val, 4, 6)]
      [(29, 3), (16, 3), (10, 6), (4, 6)] := packed (k := 0x0BC00005) (fs := [(g.val, 29, 3), (k.val, 16, 3), (a.val, 10, 6), (b.val, 4, 6)]) ⟨g.isLt, k.isLt, a.isLt, b.isLt, trivial⟩ rfl rfl rfl (by decide)
  revert hw
  show _ → decodeBytes ([pack 0x0BC00005 [(g.val, 29), (k.val, 16), (a.val, 10), (b.val, 4)]].flatMap bytesOfWord ++ rest) = _
  generalize pack 0x0BC00005 [(g.val, 29), (k.val, 16), (a.val, 10), (b.val, 4)] = wd
  intro ⟨hlt, hh, hp⟩
  have h0 : fld wd 29 3 = g.val := hh.1
  have h1 : fld wd 16 3 = k.val := hh.2.1
  have h2 : fld wd 10 6 = a.val := hh.2.2.1
  have h3 : fld wd 4 6 = b.val := hh.2.2.2.1
  have e0 : Fin.ofNat 8 (wd / 2 ^ 29) = g := finOf rfl h0
  have e1 : Fin.ofNat 8 (wd / 2 ^ 16) = k := finOf rfl h1
  have e2 : Fin.ofNat 64 (wd / 2 ^ 10) = a := finOf rfl h2
  have e3 : Fin.ofNat 64 (wd / 2 ^ 4) = b := finOf rfl h3
  have hm : majorOf wd = 0x2F := hp 22 7 rfl
  have c0_4 : fld wd 0 4 = 5 := hp 0 4 rfl
  have n0_10_2 : fld wd 0 10 ≠ 2 := fld_ne (i := 0) (by decide) (hp 0 1 rfl) (by decide)
  have n0_10_3 : fld wd 0 10 ≠ 3 := fld_ne (i := 1) (by decide) (hp 1 1 rfl) (by decide)
  have n0_16_0 : fld wd 0 16 ≠ 0 := fld_ne (i := 0) (by decide) (hp 0 1 rfl) (by decide)
  have n0_16_4 : fld wd 0 16 ≠ 4 := fld_ne (i := 0) (by decide) (hp 0 1 rfl) (by decide)
  have c19_3 : fld wd 19 3 = 0 := hp 19 3 rfl
  have c20_2 : fld wd 20 2 = 0 := hp 20 2 rfl
  exact decode_word rest hlt (noLiteral hm (by decide))
    (decode_major (ne_zero_of_fld (hp 0 1 rfl) (by decide)) hm rfl
      (by rw [major2F _ _, dec2F, c0_4, c19_3, c20_2, e0, e1, e2, e3]; simp [n0_10_2, n0_10_3, n0_16_0, n0_16_4]) hwf)
theorem give (g : Fin 8) (k : Fin 8) (a : Fin 64) (b : Fin 64) : Statement (.give g k a b) := by
  intro _ hwf rest
  have hw : Packed (pack 0x0BC00006 [(g.val, 29), (k.val, 16), (a.val, 10), (b.val, 4)]) 0x0BC00006 [(g.val, 29, 3), (k.val, 16, 3), (a.val, 10, 6), (b.val, 4, 6)]
      [(29, 3), (16, 3), (10, 6), (4, 6)] := packed (k := 0x0BC00006) (fs := [(g.val, 29, 3), (k.val, 16, 3), (a.val, 10, 6), (b.val, 4, 6)]) ⟨g.isLt, k.isLt, a.isLt, b.isLt, trivial⟩ rfl rfl rfl (by decide)
  revert hw
  show _ → decodeBytes ([pack 0x0BC00006 [(g.val, 29), (k.val, 16), (a.val, 10), (b.val, 4)]].flatMap bytesOfWord ++ rest) = _
  generalize pack 0x0BC00006 [(g.val, 29), (k.val, 16), (a.val, 10), (b.val, 4)] = wd
  intro ⟨hlt, hh, hp⟩
  have h0 : fld wd 29 3 = g.val := hh.1
  have h1 : fld wd 16 3 = k.val := hh.2.1
  have h2 : fld wd 10 6 = a.val := hh.2.2.1
  have h3 : fld wd 4 6 = b.val := hh.2.2.2.1
  have e0 : Fin.ofNat 8 (wd / 2 ^ 29) = g := finOf rfl h0
  have e1 : Fin.ofNat 8 (wd / 2 ^ 16) = k := finOf rfl h1
  have e2 : Fin.ofNat 64 (wd / 2 ^ 10) = a := finOf rfl h2
  have e3 : Fin.ofNat 64 (wd / 2 ^ 4) = b := finOf rfl h3
  have hm : majorOf wd = 0x2F := hp 22 7 rfl
  have c0_4 : fld wd 0 4 = 6 := hp 0 4 rfl
  have n0_10_2 : fld wd 0 10 ≠ 2 := fld_ne (i := 2) (by decide) (hp 2 1 rfl) (by decide)
  have n0_10_3 : fld wd 0 10 ≠ 3 := fld_ne (i := 0) (by decide) (hp 0 1 rfl) (by decide)
  have n0_16_0 : fld wd 0 16 ≠ 0 := fld_ne (i := 1) (by decide) (hp 1 1 rfl) (by decide)
  have n0_16_4 : fld wd 0 16 ≠ 4 := fld_ne (i := 1) (by decide) (hp 1 1 rfl) (by decide)
  have c19_3 : fld wd 19 3 = 0 := hp 19 3 rfl
  have c20_2 : fld wd 20 2 = 0 := hp 20 2 rfl
  exact decode_word rest hlt (noLiteral hm (by decide))
    (decode_major (ne_zero_of_fld (hp 1 1 rfl) (by decide)) hm rfl
      (by rw [major2F _ _, dec2F, c0_4, c19_3, c20_2, e0, e1, e2, e3]; simp [n0_10_2, n0_10_3, n0_16_0, n0_16_4]) hwf)
theorem vaddInt (g : Fin 8) (w : Fin 4) (d : Fin 32) (a : Fin 32) (b : Fin 32) (m : Fin 8) : Statement (.vaddInt g w d a b m) := by
  intro _ hwf rest
  have hw : Packed (pack 0x0C000000 [(g.val, 29), (w.val, 22), (d.val, 17), (a.val, 12), (b.val, 7), (m.val, 4)]) 0x0C000000 [(g.val, 29, 3), (w.val, 22, 2), (d.val, 17, 5), (a.val, 12, 5), (b.val, 7, 5), (m.val, 4, 3)]
      [(29, 3), (22, 2), (17, 5), (12, 5), (7, 5), (4, 3)] := packed (k := 0x0C000000) (fs := [(g.val, 29, 3), (w.val, 22, 2), (d.val, 17, 5), (a.val, 12, 5), (b.val, 7, 5), (m.val, 4, 3)]) ⟨g.isLt, w.isLt, d.isLt, a.isLt, b.isLt, m.isLt, trivial⟩ rfl rfl rfl (by decide)
  revert hw
  show _ → decodeBytes ([pack 0x0C000000 [(g.val, 29), (w.val, 22), (d.val, 17), (a.val, 12), (b.val, 7), (m.val, 4)]].flatMap bytesOfWord ++ rest) = _
  generalize pack 0x0C000000 [(g.val, 29), (w.val, 22), (d.val, 17), (a.val, 12), (b.val, 7), (m.val, 4)] = wd
  intro ⟨hlt, hh, hp⟩
  have h0 : fld wd 29 3 = g.val := hh.1
  have h1 : fld wd 22 2 = w.val := hh.2.1
  have h2 : fld wd 17 5 = d.val := hh.2.2.1
  have h3 : fld wd 12 5 = a.val := hh.2.2.2.1
  have h4 : fld wd 7 5 = b.val := hh.2.2.2.2.1
  have h5 : fld wd 4 3 = m.val := hh.2.2.2.2.2.1
  have e0 : Fin.ofNat 8 (wd / 2 ^ 29) = g := finOf rfl h0
  have e1 : Fin.ofNat 4 (wd / 2 ^ 22) = w := finOf rfl h1
  have e2 : Fin.ofNat 32 (wd / 2 ^ 17) = d := finOf rfl h2
  have e3 : Fin.ofNat 32 (wd / 2 ^ 12) = a := finOf rfl h3
  have e4 : Fin.ofNat 32 (wd / 2 ^ 7) = b := finOf rfl h4
  have e5 : Fin.ofNat 8 (wd / 2 ^ 4) = m := finOf rfl h5
  have hm : majorOf wd = w.val + 2 ^ 2 * 12 := by
    rw [majorOf, fld_split wd 22 2 5, h1, hp 24 5 rfl]; rfl
  have hv : w.val < 3 := by
    have := w.isLt
    simp [Instr.wellFormed] at hwf
    omega
  have c0_4 : fld wd 0 4 = 0 := hp 0 4 rfl
  exact decode_word rest hlt (noLiteral hm (by omega))
    (decode_major (ne_zero_of_fld (hp 26 1 rfl) (by decide)) hm (unassigned30 (by omega) (by omega))
      (by rw [major30 _ _ _ (by omega) (by omega), dec30, c0_4, e0, e1, e2, e3, e4, e5]; rfl) hwf)
theorem vsubInt (g : Fin 8) (w : Fin 4) (d : Fin 32) (a : Fin 32) (b : Fin 32) (m : Fin 8) : Statement (.vsubInt g w d a b m) := by
  intro _ hwf rest
  have hw : Packed (pack 0x0C000001 [(g.val, 29), (w.val, 22), (d.val, 17), (a.val, 12), (b.val, 7), (m.val, 4)]) 0x0C000001 [(g.val, 29, 3), (w.val, 22, 2), (d.val, 17, 5), (a.val, 12, 5), (b.val, 7, 5), (m.val, 4, 3)]
      [(29, 3), (22, 2), (17, 5), (12, 5), (7, 5), (4, 3)] := packed (k := 0x0C000001) (fs := [(g.val, 29, 3), (w.val, 22, 2), (d.val, 17, 5), (a.val, 12, 5), (b.val, 7, 5), (m.val, 4, 3)]) ⟨g.isLt, w.isLt, d.isLt, a.isLt, b.isLt, m.isLt, trivial⟩ rfl rfl rfl (by decide)
  revert hw
  show _ → decodeBytes ([pack 0x0C000001 [(g.val, 29), (w.val, 22), (d.val, 17), (a.val, 12), (b.val, 7), (m.val, 4)]].flatMap bytesOfWord ++ rest) = _
  generalize pack 0x0C000001 [(g.val, 29), (w.val, 22), (d.val, 17), (a.val, 12), (b.val, 7), (m.val, 4)] = wd
  intro ⟨hlt, hh, hp⟩
  have h0 : fld wd 29 3 = g.val := hh.1
  have h1 : fld wd 22 2 = w.val := hh.2.1
  have h2 : fld wd 17 5 = d.val := hh.2.2.1
  have h3 : fld wd 12 5 = a.val := hh.2.2.2.1
  have h4 : fld wd 7 5 = b.val := hh.2.2.2.2.1
  have h5 : fld wd 4 3 = m.val := hh.2.2.2.2.2.1
  have e0 : Fin.ofNat 8 (wd / 2 ^ 29) = g := finOf rfl h0
  have e1 : Fin.ofNat 4 (wd / 2 ^ 22) = w := finOf rfl h1
  have e2 : Fin.ofNat 32 (wd / 2 ^ 17) = d := finOf rfl h2
  have e3 : Fin.ofNat 32 (wd / 2 ^ 12) = a := finOf rfl h3
  have e4 : Fin.ofNat 32 (wd / 2 ^ 7) = b := finOf rfl h4
  have e5 : Fin.ofNat 8 (wd / 2 ^ 4) = m := finOf rfl h5
  have hm : majorOf wd = w.val + 2 ^ 2 * 12 := by
    rw [majorOf, fld_split wd 22 2 5, h1, hp 24 5 rfl]; rfl
  have hv : w.val < 3 := by
    have := w.isLt
    simp [Instr.wellFormed] at hwf
    omega
  have c0_4 : fld wd 0 4 = 1 := hp 0 4 rfl
  exact decode_word rest hlt (noLiteral hm (by omega))
    (decode_major (ne_zero_of_fld (hp 0 1 rfl) (by decide)) hm (unassigned30 (by omega) (by omega))
      (by rw [major30 _ _ _ (by omega) (by omega), dec30, c0_4, e0, e1, e2, e3, e4, e5]; rfl) hwf)
theorem vmulInt (g : Fin 8) (w : Fin 4) (d : Fin 32) (a : Fin 32) (b : Fin 32) (m : Fin 8) : Statement (.vmulInt g w d a b m) := by
  intro _ hwf rest
  have hw : Packed (pack 0x0C000002 [(g.val, 29), (w.val, 22), (d.val, 17), (a.val, 12), (b.val, 7), (m.val, 4)]) 0x0C000002 [(g.val, 29, 3), (w.val, 22, 2), (d.val, 17, 5), (a.val, 12, 5), (b.val, 7, 5), (m.val, 4, 3)]
      [(29, 3), (22, 2), (17, 5), (12, 5), (7, 5), (4, 3)] := packed (k := 0x0C000002) (fs := [(g.val, 29, 3), (w.val, 22, 2), (d.val, 17, 5), (a.val, 12, 5), (b.val, 7, 5), (m.val, 4, 3)]) ⟨g.isLt, w.isLt, d.isLt, a.isLt, b.isLt, m.isLt, trivial⟩ rfl rfl rfl (by decide)
  revert hw
  show _ → decodeBytes ([pack 0x0C000002 [(g.val, 29), (w.val, 22), (d.val, 17), (a.val, 12), (b.val, 7), (m.val, 4)]].flatMap bytesOfWord ++ rest) = _
  generalize pack 0x0C000002 [(g.val, 29), (w.val, 22), (d.val, 17), (a.val, 12), (b.val, 7), (m.val, 4)] = wd
  intro ⟨hlt, hh, hp⟩
  have h0 : fld wd 29 3 = g.val := hh.1
  have h1 : fld wd 22 2 = w.val := hh.2.1
  have h2 : fld wd 17 5 = d.val := hh.2.2.1
  have h3 : fld wd 12 5 = a.val := hh.2.2.2.1
  have h4 : fld wd 7 5 = b.val := hh.2.2.2.2.1
  have h5 : fld wd 4 3 = m.val := hh.2.2.2.2.2.1
  have e0 : Fin.ofNat 8 (wd / 2 ^ 29) = g := finOf rfl h0
  have e1 : Fin.ofNat 4 (wd / 2 ^ 22) = w := finOf rfl h1
  have e2 : Fin.ofNat 32 (wd / 2 ^ 17) = d := finOf rfl h2
  have e3 : Fin.ofNat 32 (wd / 2 ^ 12) = a := finOf rfl h3
  have e4 : Fin.ofNat 32 (wd / 2 ^ 7) = b := finOf rfl h4
  have e5 : Fin.ofNat 8 (wd / 2 ^ 4) = m := finOf rfl h5
  have hm : majorOf wd = w.val + 2 ^ 2 * 12 := by
    rw [majorOf, fld_split wd 22 2 5, h1, hp 24 5 rfl]; rfl
  have hv : w.val < 3 := by
    have := w.isLt
    simp [Instr.wellFormed] at hwf
    omega
  have c0_4 : fld wd 0 4 = 2 := hp 0 4 rfl
  exact decode_word rest hlt (noLiteral hm (by omega))
    (decode_major (ne_zero_of_fld (hp 1 1 rfl) (by decide)) hm (unassigned30 (by omega) (by omega))
      (by rw [major30 _ _ _ (by omega) (by omega), dec30, c0_4, e0, e1, e2, e3, e4, e5]; rfl) hwf)
theorem vminInt (g : Fin 8) (w : Fin 4) (d : Fin 32) (a : Fin 32) (b : Fin 32) (m : Fin 8) : Statement (.vminInt g w d a b m) := by
  intro _ hwf rest
  have hw : Packed (pack 0x0C000003 [(g.val, 29), (w.val, 22), (d.val, 17), (a.val, 12), (b.val, 7), (m.val, 4)]) 0x0C000003 [(g.val, 29, 3), (w.val, 22, 2), (d.val, 17, 5), (a.val, 12, 5), (b.val, 7, 5), (m.val, 4, 3)]
      [(29, 3), (22, 2), (17, 5), (12, 5), (7, 5), (4, 3)] := packed (k := 0x0C000003) (fs := [(g.val, 29, 3), (w.val, 22, 2), (d.val, 17, 5), (a.val, 12, 5), (b.val, 7, 5), (m.val, 4, 3)]) ⟨g.isLt, w.isLt, d.isLt, a.isLt, b.isLt, m.isLt, trivial⟩ rfl rfl rfl (by decide)
  revert hw
  show _ → decodeBytes ([pack 0x0C000003 [(g.val, 29), (w.val, 22), (d.val, 17), (a.val, 12), (b.val, 7), (m.val, 4)]].flatMap bytesOfWord ++ rest) = _
  generalize pack 0x0C000003 [(g.val, 29), (w.val, 22), (d.val, 17), (a.val, 12), (b.val, 7), (m.val, 4)] = wd
  intro ⟨hlt, hh, hp⟩
  have h0 : fld wd 29 3 = g.val := hh.1
  have h1 : fld wd 22 2 = w.val := hh.2.1
  have h2 : fld wd 17 5 = d.val := hh.2.2.1
  have h3 : fld wd 12 5 = a.val := hh.2.2.2.1
  have h4 : fld wd 7 5 = b.val := hh.2.2.2.2.1
  have h5 : fld wd 4 3 = m.val := hh.2.2.2.2.2.1
  have e0 : Fin.ofNat 8 (wd / 2 ^ 29) = g := finOf rfl h0
  have e1 : Fin.ofNat 4 (wd / 2 ^ 22) = w := finOf rfl h1
  have e2 : Fin.ofNat 32 (wd / 2 ^ 17) = d := finOf rfl h2
  have e3 : Fin.ofNat 32 (wd / 2 ^ 12) = a := finOf rfl h3
  have e4 : Fin.ofNat 32 (wd / 2 ^ 7) = b := finOf rfl h4
  have e5 : Fin.ofNat 8 (wd / 2 ^ 4) = m := finOf rfl h5
  have hm : majorOf wd = w.val + 2 ^ 2 * 12 := by
    rw [majorOf, fld_split wd 22 2 5, h1, hp 24 5 rfl]; rfl
  have hv : w.val < 3 := by
    have := w.isLt
    simp [Instr.wellFormed] at hwf
    omega
  have c0_4 : fld wd 0 4 = 3 := hp 0 4 rfl
  exact decode_word rest hlt (noLiteral hm (by omega))
    (decode_major (ne_zero_of_fld (hp 0 1 rfl) (by decide)) hm (unassigned30 (by omega) (by omega))
      (by rw [major30 _ _ _ (by omega) (by omega), dec30, c0_4, e0, e1, e2, e3, e4, e5]; rfl) hwf)
theorem vmaxInt (g : Fin 8) (w : Fin 4) (d : Fin 32) (a : Fin 32) (b : Fin 32) (m : Fin 8) : Statement (.vmaxInt g w d a b m) := by
  intro _ hwf rest
  have hw : Packed (pack 0x0C000004 [(g.val, 29), (w.val, 22), (d.val, 17), (a.val, 12), (b.val, 7), (m.val, 4)]) 0x0C000004 [(g.val, 29, 3), (w.val, 22, 2), (d.val, 17, 5), (a.val, 12, 5), (b.val, 7, 5), (m.val, 4, 3)]
      [(29, 3), (22, 2), (17, 5), (12, 5), (7, 5), (4, 3)] := packed (k := 0x0C000004) (fs := [(g.val, 29, 3), (w.val, 22, 2), (d.val, 17, 5), (a.val, 12, 5), (b.val, 7, 5), (m.val, 4, 3)]) ⟨g.isLt, w.isLt, d.isLt, a.isLt, b.isLt, m.isLt, trivial⟩ rfl rfl rfl (by decide)
  revert hw
  show _ → decodeBytes ([pack 0x0C000004 [(g.val, 29), (w.val, 22), (d.val, 17), (a.val, 12), (b.val, 7), (m.val, 4)]].flatMap bytesOfWord ++ rest) = _
  generalize pack 0x0C000004 [(g.val, 29), (w.val, 22), (d.val, 17), (a.val, 12), (b.val, 7), (m.val, 4)] = wd
  intro ⟨hlt, hh, hp⟩
  have h0 : fld wd 29 3 = g.val := hh.1
  have h1 : fld wd 22 2 = w.val := hh.2.1
  have h2 : fld wd 17 5 = d.val := hh.2.2.1
  have h3 : fld wd 12 5 = a.val := hh.2.2.2.1
  have h4 : fld wd 7 5 = b.val := hh.2.2.2.2.1
  have h5 : fld wd 4 3 = m.val := hh.2.2.2.2.2.1
  have e0 : Fin.ofNat 8 (wd / 2 ^ 29) = g := finOf rfl h0
  have e1 : Fin.ofNat 4 (wd / 2 ^ 22) = w := finOf rfl h1
  have e2 : Fin.ofNat 32 (wd / 2 ^ 17) = d := finOf rfl h2
  have e3 : Fin.ofNat 32 (wd / 2 ^ 12) = a := finOf rfl h3
  have e4 : Fin.ofNat 32 (wd / 2 ^ 7) = b := finOf rfl h4
  have e5 : Fin.ofNat 8 (wd / 2 ^ 4) = m := finOf rfl h5
  have hm : majorOf wd = w.val + 2 ^ 2 * 12 := by
    rw [majorOf, fld_split wd 22 2 5, h1, hp 24 5 rfl]; rfl
  have hv : w.val < 3 := by
    have := w.isLt
    simp [Instr.wellFormed] at hwf
    omega
  have c0_4 : fld wd 0 4 = 4 := hp 0 4 rfl
  exact decode_word rest hlt (noLiteral hm (by omega))
    (decode_major (ne_zero_of_fld (hp 2 1 rfl) (by decide)) hm (unassigned30 (by omega) (by omega))
      (by rw [major30 _ _ _ (by omega) (by omega), dec30, c0_4, e0, e1, e2, e3, e4, e5]; rfl) hwf)
theorem vand (g : Fin 8) (w : Fin 4) (d : Fin 32) (a : Fin 32) (b : Fin 32) (m : Fin 8) : Statement (.vand g w d a b m) := by
  intro _ hwf rest
  have hw : Packed (pack 0x0C000005 [(g.val, 29), (w.val, 22), (d.val, 17), (a.val, 12), (b.val, 7), (m.val, 4)]) 0x0C000005 [(g.val, 29, 3), (w.val, 22, 2), (d.val, 17, 5), (a.val, 12, 5), (b.val, 7, 5), (m.val, 4, 3)]
      [(29, 3), (22, 2), (17, 5), (12, 5), (7, 5), (4, 3)] := packed (k := 0x0C000005) (fs := [(g.val, 29, 3), (w.val, 22, 2), (d.val, 17, 5), (a.val, 12, 5), (b.val, 7, 5), (m.val, 4, 3)]) ⟨g.isLt, w.isLt, d.isLt, a.isLt, b.isLt, m.isLt, trivial⟩ rfl rfl rfl (by decide)
  revert hw
  show _ → decodeBytes ([pack 0x0C000005 [(g.val, 29), (w.val, 22), (d.val, 17), (a.val, 12), (b.val, 7), (m.val, 4)]].flatMap bytesOfWord ++ rest) = _
  generalize pack 0x0C000005 [(g.val, 29), (w.val, 22), (d.val, 17), (a.val, 12), (b.val, 7), (m.val, 4)] = wd
  intro ⟨hlt, hh, hp⟩
  have h0 : fld wd 29 3 = g.val := hh.1
  have h1 : fld wd 22 2 = w.val := hh.2.1
  have h2 : fld wd 17 5 = d.val := hh.2.2.1
  have h3 : fld wd 12 5 = a.val := hh.2.2.2.1
  have h4 : fld wd 7 5 = b.val := hh.2.2.2.2.1
  have h5 : fld wd 4 3 = m.val := hh.2.2.2.2.2.1
  have e0 : Fin.ofNat 8 (wd / 2 ^ 29) = g := finOf rfl h0
  have e1 : Fin.ofNat 4 (wd / 2 ^ 22) = w := finOf rfl h1
  have e2 : Fin.ofNat 32 (wd / 2 ^ 17) = d := finOf rfl h2
  have e3 : Fin.ofNat 32 (wd / 2 ^ 12) = a := finOf rfl h3
  have e4 : Fin.ofNat 32 (wd / 2 ^ 7) = b := finOf rfl h4
  have e5 : Fin.ofNat 8 (wd / 2 ^ 4) = m := finOf rfl h5
  have hm : majorOf wd = w.val + 2 ^ 2 * 12 := by
    rw [majorOf, fld_split wd 22 2 5, h1, hp 24 5 rfl]; rfl
  have hv : w.val < 3 := by
    have := w.isLt
    simp [Instr.wellFormed] at hwf
    omega
  have c0_4 : fld wd 0 4 = 5 := hp 0 4 rfl
  exact decode_word rest hlt (noLiteral hm (by omega))
    (decode_major (ne_zero_of_fld (hp 0 1 rfl) (by decide)) hm (unassigned30 (by omega) (by omega))
      (by rw [major30 _ _ _ (by omega) (by omega), dec30, c0_4, e0, e1, e2, e3, e4, e5]; rfl) hwf)
theorem vor (g : Fin 8) (w : Fin 4) (d : Fin 32) (a : Fin 32) (b : Fin 32) (m : Fin 8) : Statement (.vor g w d a b m) := by
  intro _ hwf rest
  have hw : Packed (pack 0x0C000006 [(g.val, 29), (w.val, 22), (d.val, 17), (a.val, 12), (b.val, 7), (m.val, 4)]) 0x0C000006 [(g.val, 29, 3), (w.val, 22, 2), (d.val, 17, 5), (a.val, 12, 5), (b.val, 7, 5), (m.val, 4, 3)]
      [(29, 3), (22, 2), (17, 5), (12, 5), (7, 5), (4, 3)] := packed (k := 0x0C000006) (fs := [(g.val, 29, 3), (w.val, 22, 2), (d.val, 17, 5), (a.val, 12, 5), (b.val, 7, 5), (m.val, 4, 3)]) ⟨g.isLt, w.isLt, d.isLt, a.isLt, b.isLt, m.isLt, trivial⟩ rfl rfl rfl (by decide)
  revert hw
  show _ → decodeBytes ([pack 0x0C000006 [(g.val, 29), (w.val, 22), (d.val, 17), (a.val, 12), (b.val, 7), (m.val, 4)]].flatMap bytesOfWord ++ rest) = _
  generalize pack 0x0C000006 [(g.val, 29), (w.val, 22), (d.val, 17), (a.val, 12), (b.val, 7), (m.val, 4)] = wd
  intro ⟨hlt, hh, hp⟩
  have h0 : fld wd 29 3 = g.val := hh.1
  have h1 : fld wd 22 2 = w.val := hh.2.1
  have h2 : fld wd 17 5 = d.val := hh.2.2.1
  have h3 : fld wd 12 5 = a.val := hh.2.2.2.1
  have h4 : fld wd 7 5 = b.val := hh.2.2.2.2.1
  have h5 : fld wd 4 3 = m.val := hh.2.2.2.2.2.1
  have e0 : Fin.ofNat 8 (wd / 2 ^ 29) = g := finOf rfl h0
  have e1 : Fin.ofNat 4 (wd / 2 ^ 22) = w := finOf rfl h1
  have e2 : Fin.ofNat 32 (wd / 2 ^ 17) = d := finOf rfl h2
  have e3 : Fin.ofNat 32 (wd / 2 ^ 12) = a := finOf rfl h3
  have e4 : Fin.ofNat 32 (wd / 2 ^ 7) = b := finOf rfl h4
  have e5 : Fin.ofNat 8 (wd / 2 ^ 4) = m := finOf rfl h5
  have hm : majorOf wd = w.val + 2 ^ 2 * 12 := by
    rw [majorOf, fld_split wd 22 2 5, h1, hp 24 5 rfl]; rfl
  have hv : w.val < 3 := by
    have := w.isLt
    simp [Instr.wellFormed] at hwf
    omega
  have c0_4 : fld wd 0 4 = 6 := hp 0 4 rfl
  exact decode_word rest hlt (noLiteral hm (by omega))
    (decode_major (ne_zero_of_fld (hp 1 1 rfl) (by decide)) hm (unassigned30 (by omega) (by omega))
      (by rw [major30 _ _ _ (by omega) (by omega), dec30, c0_4, e0, e1, e2, e3, e4, e5]; rfl) hwf)
theorem vxor (g : Fin 8) (w : Fin 4) (d : Fin 32) (a : Fin 32) (b : Fin 32) (m : Fin 8) : Statement (.vxor g w d a b m) := by
  intro _ hwf rest
  have hw : Packed (pack 0x0C000007 [(g.val, 29), (w.val, 22), (d.val, 17), (a.val, 12), (b.val, 7), (m.val, 4)]) 0x0C000007 [(g.val, 29, 3), (w.val, 22, 2), (d.val, 17, 5), (a.val, 12, 5), (b.val, 7, 5), (m.val, 4, 3)]
      [(29, 3), (22, 2), (17, 5), (12, 5), (7, 5), (4, 3)] := packed (k := 0x0C000007) (fs := [(g.val, 29, 3), (w.val, 22, 2), (d.val, 17, 5), (a.val, 12, 5), (b.val, 7, 5), (m.val, 4, 3)]) ⟨g.isLt, w.isLt, d.isLt, a.isLt, b.isLt, m.isLt, trivial⟩ rfl rfl rfl (by decide)
  revert hw
  show _ → decodeBytes ([pack 0x0C000007 [(g.val, 29), (w.val, 22), (d.val, 17), (a.val, 12), (b.val, 7), (m.val, 4)]].flatMap bytesOfWord ++ rest) = _
  generalize pack 0x0C000007 [(g.val, 29), (w.val, 22), (d.val, 17), (a.val, 12), (b.val, 7), (m.val, 4)] = wd
  intro ⟨hlt, hh, hp⟩
  have h0 : fld wd 29 3 = g.val := hh.1
  have h1 : fld wd 22 2 = w.val := hh.2.1
  have h2 : fld wd 17 5 = d.val := hh.2.2.1
  have h3 : fld wd 12 5 = a.val := hh.2.2.2.1
  have h4 : fld wd 7 5 = b.val := hh.2.2.2.2.1
  have h5 : fld wd 4 3 = m.val := hh.2.2.2.2.2.1
  have e0 : Fin.ofNat 8 (wd / 2 ^ 29) = g := finOf rfl h0
  have e1 : Fin.ofNat 4 (wd / 2 ^ 22) = w := finOf rfl h1
  have e2 : Fin.ofNat 32 (wd / 2 ^ 17) = d := finOf rfl h2
  have e3 : Fin.ofNat 32 (wd / 2 ^ 12) = a := finOf rfl h3
  have e4 : Fin.ofNat 32 (wd / 2 ^ 7) = b := finOf rfl h4
  have e5 : Fin.ofNat 8 (wd / 2 ^ 4) = m := finOf rfl h5
  have hm : majorOf wd = w.val + 2 ^ 2 * 12 := by
    rw [majorOf, fld_split wd 22 2 5, h1, hp 24 5 rfl]; rfl
  have hv : w.val < 3 := by
    have := w.isLt
    simp [Instr.wellFormed] at hwf
    omega
  have c0_4 : fld wd 0 4 = 7 := hp 0 4 rfl
  exact decode_word rest hlt (noLiteral hm (by omega))
    (decode_major (ne_zero_of_fld (hp 0 1 rfl) (by decide)) hm (unassigned30 (by omega) (by omega))
      (by rw [major30 _ _ _ (by omega) (by omega), dec30, c0_4, e0, e1, e2, e3, e4, e5]; rfl) hwf)
theorem vshl (g : Fin 8) (w : Fin 4) (d : Fin 32) (a : Fin 32) (b : Fin 32) (m : Fin 8) : Statement (.vshl g w d a b m) := by
  intro _ hwf rest
  have hw : Packed (pack 0x0C000008 [(g.val, 29), (w.val, 22), (d.val, 17), (a.val, 12), (b.val, 7), (m.val, 4)]) 0x0C000008 [(g.val, 29, 3), (w.val, 22, 2), (d.val, 17, 5), (a.val, 12, 5), (b.val, 7, 5), (m.val, 4, 3)]
      [(29, 3), (22, 2), (17, 5), (12, 5), (7, 5), (4, 3)] := packed (k := 0x0C000008) (fs := [(g.val, 29, 3), (w.val, 22, 2), (d.val, 17, 5), (a.val, 12, 5), (b.val, 7, 5), (m.val, 4, 3)]) ⟨g.isLt, w.isLt, d.isLt, a.isLt, b.isLt, m.isLt, trivial⟩ rfl rfl rfl (by decide)
  revert hw
  show _ → decodeBytes ([pack 0x0C000008 [(g.val, 29), (w.val, 22), (d.val, 17), (a.val, 12), (b.val, 7), (m.val, 4)]].flatMap bytesOfWord ++ rest) = _
  generalize pack 0x0C000008 [(g.val, 29), (w.val, 22), (d.val, 17), (a.val, 12), (b.val, 7), (m.val, 4)] = wd
  intro ⟨hlt, hh, hp⟩
  have h0 : fld wd 29 3 = g.val := hh.1
  have h1 : fld wd 22 2 = w.val := hh.2.1
  have h2 : fld wd 17 5 = d.val := hh.2.2.1
  have h3 : fld wd 12 5 = a.val := hh.2.2.2.1
  have h4 : fld wd 7 5 = b.val := hh.2.2.2.2.1
  have h5 : fld wd 4 3 = m.val := hh.2.2.2.2.2.1
  have e0 : Fin.ofNat 8 (wd / 2 ^ 29) = g := finOf rfl h0
  have e1 : Fin.ofNat 4 (wd / 2 ^ 22) = w := finOf rfl h1
  have e2 : Fin.ofNat 32 (wd / 2 ^ 17) = d := finOf rfl h2
  have e3 : Fin.ofNat 32 (wd / 2 ^ 12) = a := finOf rfl h3
  have e4 : Fin.ofNat 32 (wd / 2 ^ 7) = b := finOf rfl h4
  have e5 : Fin.ofNat 8 (wd / 2 ^ 4) = m := finOf rfl h5
  have hm : majorOf wd = w.val + 2 ^ 2 * 12 := by
    rw [majorOf, fld_split wd 22 2 5, h1, hp 24 5 rfl]; rfl
  have hv : w.val < 3 := by
    have := w.isLt
    simp [Instr.wellFormed] at hwf
    omega
  have c0_4 : fld wd 0 4 = 8 := hp 0 4 rfl
  exact decode_word rest hlt (noLiteral hm (by omega))
    (decode_major (ne_zero_of_fld (hp 3 1 rfl) (by decide)) hm (unassigned30 (by omega) (by omega))
      (by rw [major30 _ _ _ (by omega) (by omega), dec30, c0_4, e0, e1, e2, e3, e4, e5]; rfl) hwf)
theorem vshr (g : Fin 8) (w : Fin 4) (d : Fin 32) (a : Fin 32) (b : Fin 32) (m : Fin 8) : Statement (.vshr g w d a b m) := by
  intro _ hwf rest
  have hw : Packed (pack 0x0C000009 [(g.val, 29), (w.val, 22), (d.val, 17), (a.val, 12), (b.val, 7), (m.val, 4)]) 0x0C000009 [(g.val, 29, 3), (w.val, 22, 2), (d.val, 17, 5), (a.val, 12, 5), (b.val, 7, 5), (m.val, 4, 3)]
      [(29, 3), (22, 2), (17, 5), (12, 5), (7, 5), (4, 3)] := packed (k := 0x0C000009) (fs := [(g.val, 29, 3), (w.val, 22, 2), (d.val, 17, 5), (a.val, 12, 5), (b.val, 7, 5), (m.val, 4, 3)]) ⟨g.isLt, w.isLt, d.isLt, a.isLt, b.isLt, m.isLt, trivial⟩ rfl rfl rfl (by decide)
  revert hw
  show _ → decodeBytes ([pack 0x0C000009 [(g.val, 29), (w.val, 22), (d.val, 17), (a.val, 12), (b.val, 7), (m.val, 4)]].flatMap bytesOfWord ++ rest) = _
  generalize pack 0x0C000009 [(g.val, 29), (w.val, 22), (d.val, 17), (a.val, 12), (b.val, 7), (m.val, 4)] = wd
  intro ⟨hlt, hh, hp⟩
  have h0 : fld wd 29 3 = g.val := hh.1
  have h1 : fld wd 22 2 = w.val := hh.2.1
  have h2 : fld wd 17 5 = d.val := hh.2.2.1
  have h3 : fld wd 12 5 = a.val := hh.2.2.2.1
  have h4 : fld wd 7 5 = b.val := hh.2.2.2.2.1
  have h5 : fld wd 4 3 = m.val := hh.2.2.2.2.2.1
  have e0 : Fin.ofNat 8 (wd / 2 ^ 29) = g := finOf rfl h0
  have e1 : Fin.ofNat 4 (wd / 2 ^ 22) = w := finOf rfl h1
  have e2 : Fin.ofNat 32 (wd / 2 ^ 17) = d := finOf rfl h2
  have e3 : Fin.ofNat 32 (wd / 2 ^ 12) = a := finOf rfl h3
  have e4 : Fin.ofNat 32 (wd / 2 ^ 7) = b := finOf rfl h4
  have e5 : Fin.ofNat 8 (wd / 2 ^ 4) = m := finOf rfl h5
  have hm : majorOf wd = w.val + 2 ^ 2 * 12 := by
    rw [majorOf, fld_split wd 22 2 5, h1, hp 24 5 rfl]; rfl
  have hv : w.val < 3 := by
    have := w.isLt
    simp [Instr.wellFormed] at hwf
    omega
  have c0_4 : fld wd 0 4 = 9 := hp 0 4 rfl
  exact decode_word rest hlt (noLiteral hm (by omega))
    (decode_major (ne_zero_of_fld (hp 0 1 rfl) (by decide)) hm (unassigned30 (by omega) (by omega))
      (by rw [major30 _ _ _ (by omega) (by omega), dec30, c0_4, e0, e1, e2, e3, e4, e5]; rfl) hwf)
theorem vshrA (g : Fin 8) (w : Fin 4) (d : Fin 32) (a : Fin 32) (b : Fin 32) (m : Fin 8) : Statement (.vshrA g w d a b m) := by
  intro _ hwf rest
  have hw : Packed (pack 0x0C00000A [(g.val, 29), (w.val, 22), (d.val, 17), (a.val, 12), (b.val, 7), (m.val, 4)]) 0x0C00000A [(g.val, 29, 3), (w.val, 22, 2), (d.val, 17, 5), (a.val, 12, 5), (b.val, 7, 5), (m.val, 4, 3)]
      [(29, 3), (22, 2), (17, 5), (12, 5), (7, 5), (4, 3)] := packed (k := 0x0C00000A) (fs := [(g.val, 29, 3), (w.val, 22, 2), (d.val, 17, 5), (a.val, 12, 5), (b.val, 7, 5), (m.val, 4, 3)]) ⟨g.isLt, w.isLt, d.isLt, a.isLt, b.isLt, m.isLt, trivial⟩ rfl rfl rfl (by decide)
  revert hw
  show _ → decodeBytes ([pack 0x0C00000A [(g.val, 29), (w.val, 22), (d.val, 17), (a.val, 12), (b.val, 7), (m.val, 4)]].flatMap bytesOfWord ++ rest) = _
  generalize pack 0x0C00000A [(g.val, 29), (w.val, 22), (d.val, 17), (a.val, 12), (b.val, 7), (m.val, 4)] = wd
  intro ⟨hlt, hh, hp⟩
  have h0 : fld wd 29 3 = g.val := hh.1
  have h1 : fld wd 22 2 = w.val := hh.2.1
  have h2 : fld wd 17 5 = d.val := hh.2.2.1
  have h3 : fld wd 12 5 = a.val := hh.2.2.2.1
  have h4 : fld wd 7 5 = b.val := hh.2.2.2.2.1
  have h5 : fld wd 4 3 = m.val := hh.2.2.2.2.2.1
  have e0 : Fin.ofNat 8 (wd / 2 ^ 29) = g := finOf rfl h0
  have e1 : Fin.ofNat 4 (wd / 2 ^ 22) = w := finOf rfl h1
  have e2 : Fin.ofNat 32 (wd / 2 ^ 17) = d := finOf rfl h2
  have e3 : Fin.ofNat 32 (wd / 2 ^ 12) = a := finOf rfl h3
  have e4 : Fin.ofNat 32 (wd / 2 ^ 7) = b := finOf rfl h4
  have e5 : Fin.ofNat 8 (wd / 2 ^ 4) = m := finOf rfl h5
  have hm : majorOf wd = w.val + 2 ^ 2 * 12 := by
    rw [majorOf, fld_split wd 22 2 5, h1, hp 24 5 rfl]; rfl
  have hv : w.val < 3 := by
    have := w.isLt
    simp [Instr.wellFormed] at hwf
    omega
  have c0_4 : fld wd 0 4 = 10 := hp 0 4 rfl
  exact decode_word rest hlt (noLiteral hm (by omega))
    (decode_major (ne_zero_of_fld (hp 1 1 rfl) (by decide)) hm (unassigned30 (by omega) (by omega))
      (by rw [major30 _ _ _ (by omega) (by omega), dec30, c0_4, e0, e1, e2, e3, e4, e5]; rfl) hwf)
theorem vaddF32 (g : Fin 8) (d : Fin 32) (a : Fin 32) (b : Fin 32) (m : Fin 8) : Statement (.vaddF32 g d a b m) := by
  intro _ hwf rest
  have hw : Packed (pack 0x0CC00000 [(g.val, 29), (d.val, 17), (a.val, 12), (b.val, 7), (m.val, 4)]) 0x0CC00000 [(g.val, 29, 3), (d.val, 17, 5), (a.val, 12, 5), (b.val, 7, 5), (m.val, 4, 3)]
      [(29, 3), (17, 5), (12, 5), (7, 5), (4, 3)] := packed (k := 0x0CC00000) (fs := [(g.val, 29, 3), (d.val, 17, 5), (a.val, 12, 5), (b.val, 7, 5), (m.val, 4, 3)]) ⟨g.isLt, d.isLt, a.isLt, b.isLt, m.isLt, trivial⟩ rfl rfl rfl (by decide)
  revert hw
  show _ → decodeBytes ([pack 0x0CC00000 [(g.val, 29), (d.val, 17), (a.val, 12), (b.val, 7), (m.val, 4)]].flatMap bytesOfWord ++ rest) = _
  generalize pack 0x0CC00000 [(g.val, 29), (d.val, 17), (a.val, 12), (b.val, 7), (m.val, 4)] = wd
  intro ⟨hlt, hh, hp⟩
  have h0 : fld wd 29 3 = g.val := hh.1
  have h1 : fld wd 17 5 = d.val := hh.2.1
  have h2 : fld wd 12 5 = a.val := hh.2.2.1
  have h3 : fld wd 7 5 = b.val := hh.2.2.2.1
  have h4 : fld wd 4 3 = m.val := hh.2.2.2.2.1
  have e0 : Fin.ofNat 8 (wd / 2 ^ 29) = g := finOf rfl h0
  have e1 : Fin.ofNat 32 (wd / 2 ^ 17) = d := finOf rfl h1
  have e2 : Fin.ofNat 32 (wd / 2 ^ 12) = a := finOf rfl h2
  have e3 : Fin.ofNat 32 (wd / 2 ^ 7) = b := finOf rfl h3
  have e4 : Fin.ofNat 8 (wd / 2 ^ 4) = m := finOf rfl h4
  have hm : majorOf wd = 0x33 := hp 22 7 rfl
  have c0_4 : fld wd 0 4 = 0 := hp 0 4 rfl
  exact decode_word rest hlt (noLiteral hm (by decide))
    (decode_major (ne_zero_of_fld (hp 22 1 rfl) (by decide)) hm rfl
      (by rw [major33 _ _, dec33, c0_4, e0, e1, e2, e3, e4]; rfl) hwf)
theorem vsubF32 (g : Fin 8) (d : Fin 32) (a : Fin 32) (b : Fin 32) (m : Fin 8) : Statement (.vsubF32 g d a b m) := by
  intro _ hwf rest
  have hw : Packed (pack 0x0CC00001 [(g.val, 29), (d.val, 17), (a.val, 12), (b.val, 7), (m.val, 4)]) 0x0CC00001 [(g.val, 29, 3), (d.val, 17, 5), (a.val, 12, 5), (b.val, 7, 5), (m.val, 4, 3)]
      [(29, 3), (17, 5), (12, 5), (7, 5), (4, 3)] := packed (k := 0x0CC00001) (fs := [(g.val, 29, 3), (d.val, 17, 5), (a.val, 12, 5), (b.val, 7, 5), (m.val, 4, 3)]) ⟨g.isLt, d.isLt, a.isLt, b.isLt, m.isLt, trivial⟩ rfl rfl rfl (by decide)
  revert hw
  show _ → decodeBytes ([pack 0x0CC00001 [(g.val, 29), (d.val, 17), (a.val, 12), (b.val, 7), (m.val, 4)]].flatMap bytesOfWord ++ rest) = _
  generalize pack 0x0CC00001 [(g.val, 29), (d.val, 17), (a.val, 12), (b.val, 7), (m.val, 4)] = wd
  intro ⟨hlt, hh, hp⟩
  have h0 : fld wd 29 3 = g.val := hh.1
  have h1 : fld wd 17 5 = d.val := hh.2.1
  have h2 : fld wd 12 5 = a.val := hh.2.2.1
  have h3 : fld wd 7 5 = b.val := hh.2.2.2.1
  have h4 : fld wd 4 3 = m.val := hh.2.2.2.2.1
  have e0 : Fin.ofNat 8 (wd / 2 ^ 29) = g := finOf rfl h0
  have e1 : Fin.ofNat 32 (wd / 2 ^ 17) = d := finOf rfl h1
  have e2 : Fin.ofNat 32 (wd / 2 ^ 12) = a := finOf rfl h2
  have e3 : Fin.ofNat 32 (wd / 2 ^ 7) = b := finOf rfl h3
  have e4 : Fin.ofNat 8 (wd / 2 ^ 4) = m := finOf rfl h4
  have hm : majorOf wd = 0x33 := hp 22 7 rfl
  have c0_4 : fld wd 0 4 = 1 := hp 0 4 rfl
  exact decode_word rest hlt (noLiteral hm (by decide))
    (decode_major (ne_zero_of_fld (hp 0 1 rfl) (by decide)) hm rfl
      (by rw [major33 _ _, dec33, c0_4, e0, e1, e2, e3, e4]; rfl) hwf)
theorem vmulF32 (g : Fin 8) (d : Fin 32) (a : Fin 32) (b : Fin 32) (m : Fin 8) : Statement (.vmulF32 g d a b m) := by
  intro _ hwf rest
  have hw : Packed (pack 0x0CC00002 [(g.val, 29), (d.val, 17), (a.val, 12), (b.val, 7), (m.val, 4)]) 0x0CC00002 [(g.val, 29, 3), (d.val, 17, 5), (a.val, 12, 5), (b.val, 7, 5), (m.val, 4, 3)]
      [(29, 3), (17, 5), (12, 5), (7, 5), (4, 3)] := packed (k := 0x0CC00002) (fs := [(g.val, 29, 3), (d.val, 17, 5), (a.val, 12, 5), (b.val, 7, 5), (m.val, 4, 3)]) ⟨g.isLt, d.isLt, a.isLt, b.isLt, m.isLt, trivial⟩ rfl rfl rfl (by decide)
  revert hw
  show _ → decodeBytes ([pack 0x0CC00002 [(g.val, 29), (d.val, 17), (a.val, 12), (b.val, 7), (m.val, 4)]].flatMap bytesOfWord ++ rest) = _
  generalize pack 0x0CC00002 [(g.val, 29), (d.val, 17), (a.val, 12), (b.val, 7), (m.val, 4)] = wd
  intro ⟨hlt, hh, hp⟩
  have h0 : fld wd 29 3 = g.val := hh.1
  have h1 : fld wd 17 5 = d.val := hh.2.1
  have h2 : fld wd 12 5 = a.val := hh.2.2.1
  have h3 : fld wd 7 5 = b.val := hh.2.2.2.1
  have h4 : fld wd 4 3 = m.val := hh.2.2.2.2.1
  have e0 : Fin.ofNat 8 (wd / 2 ^ 29) = g := finOf rfl h0
  have e1 : Fin.ofNat 32 (wd / 2 ^ 17) = d := finOf rfl h1
  have e2 : Fin.ofNat 32 (wd / 2 ^ 12) = a := finOf rfl h2
  have e3 : Fin.ofNat 32 (wd / 2 ^ 7) = b := finOf rfl h3
  have e4 : Fin.ofNat 8 (wd / 2 ^ 4) = m := finOf rfl h4
  have hm : majorOf wd = 0x33 := hp 22 7 rfl
  have c0_4 : fld wd 0 4 = 2 := hp 0 4 rfl
  exact decode_word rest hlt (noLiteral hm (by decide))
    (decode_major (ne_zero_of_fld (hp 1 1 rfl) (by decide)) hm rfl
      (by rw [major33 _ _, dec33, c0_4, e0, e1, e2, e3, e4]; rfl) hwf)
theorem vminF32 (g : Fin 8) (d : Fin 32) (a : Fin 32) (b : Fin 32) (m : Fin 8) : Statement (.vminF32 g d a b m) := by
  intro _ hwf rest
  have hw : Packed (pack 0x0CC00003 [(g.val, 29), (d.val, 17), (a.val, 12), (b.val, 7), (m.val, 4)]) 0x0CC00003 [(g.val, 29, 3), (d.val, 17, 5), (a.val, 12, 5), (b.val, 7, 5), (m.val, 4, 3)]
      [(29, 3), (17, 5), (12, 5), (7, 5), (4, 3)] := packed (k := 0x0CC00003) (fs := [(g.val, 29, 3), (d.val, 17, 5), (a.val, 12, 5), (b.val, 7, 5), (m.val, 4, 3)]) ⟨g.isLt, d.isLt, a.isLt, b.isLt, m.isLt, trivial⟩ rfl rfl rfl (by decide)
  revert hw
  show _ → decodeBytes ([pack 0x0CC00003 [(g.val, 29), (d.val, 17), (a.val, 12), (b.val, 7), (m.val, 4)]].flatMap bytesOfWord ++ rest) = _
  generalize pack 0x0CC00003 [(g.val, 29), (d.val, 17), (a.val, 12), (b.val, 7), (m.val, 4)] = wd
  intro ⟨hlt, hh, hp⟩
  have h0 : fld wd 29 3 = g.val := hh.1
  have h1 : fld wd 17 5 = d.val := hh.2.1
  have h2 : fld wd 12 5 = a.val := hh.2.2.1
  have h3 : fld wd 7 5 = b.val := hh.2.2.2.1
  have h4 : fld wd 4 3 = m.val := hh.2.2.2.2.1
  have e0 : Fin.ofNat 8 (wd / 2 ^ 29) = g := finOf rfl h0
  have e1 : Fin.ofNat 32 (wd / 2 ^ 17) = d := finOf rfl h1
  have e2 : Fin.ofNat 32 (wd / 2 ^ 12) = a := finOf rfl h2
  have e3 : Fin.ofNat 32 (wd / 2 ^ 7) = b := finOf rfl h3
  have e4 : Fin.ofNat 8 (wd / 2 ^ 4) = m := finOf rfl h4
  have hm : majorOf wd = 0x33 := hp 22 7 rfl
  have c0_4 : fld wd 0 4 = 3 := hp 0 4 rfl
  exact decode_word rest hlt (noLiteral hm (by decide))
    (decode_major (ne_zero_of_fld (hp 0 1 rfl) (by decide)) hm rfl
      (by rw [major33 _ _, dec33, c0_4, e0, e1, e2, e3, e4]; rfl) hwf)
theorem vmaxF32 (g : Fin 8) (d : Fin 32) (a : Fin 32) (b : Fin 32) (m : Fin 8) : Statement (.vmaxF32 g d a b m) := by
  intro _ hwf rest
  have hw : Packed (pack 0x0CC00004 [(g.val, 29), (d.val, 17), (a.val, 12), (b.val, 7), (m.val, 4)]) 0x0CC00004 [(g.val, 29, 3), (d.val, 17, 5), (a.val, 12, 5), (b.val, 7, 5), (m.val, 4, 3)]
      [(29, 3), (17, 5), (12, 5), (7, 5), (4, 3)] := packed (k := 0x0CC00004) (fs := [(g.val, 29, 3), (d.val, 17, 5), (a.val, 12, 5), (b.val, 7, 5), (m.val, 4, 3)]) ⟨g.isLt, d.isLt, a.isLt, b.isLt, m.isLt, trivial⟩ rfl rfl rfl (by decide)
  revert hw
  show _ → decodeBytes ([pack 0x0CC00004 [(g.val, 29), (d.val, 17), (a.val, 12), (b.val, 7), (m.val, 4)]].flatMap bytesOfWord ++ rest) = _
  generalize pack 0x0CC00004 [(g.val, 29), (d.val, 17), (a.val, 12), (b.val, 7), (m.val, 4)] = wd
  intro ⟨hlt, hh, hp⟩
  have h0 : fld wd 29 3 = g.val := hh.1
  have h1 : fld wd 17 5 = d.val := hh.2.1
  have h2 : fld wd 12 5 = a.val := hh.2.2.1
  have h3 : fld wd 7 5 = b.val := hh.2.2.2.1
  have h4 : fld wd 4 3 = m.val := hh.2.2.2.2.1
  have e0 : Fin.ofNat 8 (wd / 2 ^ 29) = g := finOf rfl h0
  have e1 : Fin.ofNat 32 (wd / 2 ^ 17) = d := finOf rfl h1
  have e2 : Fin.ofNat 32 (wd / 2 ^ 12) = a := finOf rfl h2
  have e3 : Fin.ofNat 32 (wd / 2 ^ 7) = b := finOf rfl h3
  have e4 : Fin.ofNat 8 (wd / 2 ^ 4) = m := finOf rfl h4
  have hm : majorOf wd = 0x33 := hp 22 7 rfl
  have c0_4 : fld wd 0 4 = 4 := hp 0 4 rfl
  exact decode_word rest hlt (noLiteral hm (by decide))
    (decode_major (ne_zero_of_fld (hp 2 1 rfl) (by decide)) hm rfl
      (by rw [major33 _ _, dec33, c0_4, e0, e1, e2, e3, e4]; rfl) hwf)
theorem vfmaF32 (g : Fin 8) (d : Fin 32) (a : Fin 32) (b : Fin 32) (m : Fin 8) : Statement (.vfmaF32 g d a b m) := by
  intro _ hwf rest
  have hw : Packed (pack 0x0CC00005 [(g.val, 29), (d.val, 17), (a.val, 12), (b.val, 7), (m.val, 4)]) 0x0CC00005 [(g.val, 29, 3), (d.val, 17, 5), (a.val, 12, 5), (b.val, 7, 5), (m.val, 4, 3)]
      [(29, 3), (17, 5), (12, 5), (7, 5), (4, 3)] := packed (k := 0x0CC00005) (fs := [(g.val, 29, 3), (d.val, 17, 5), (a.val, 12, 5), (b.val, 7, 5), (m.val, 4, 3)]) ⟨g.isLt, d.isLt, a.isLt, b.isLt, m.isLt, trivial⟩ rfl rfl rfl (by decide)
  revert hw
  show _ → decodeBytes ([pack 0x0CC00005 [(g.val, 29), (d.val, 17), (a.val, 12), (b.val, 7), (m.val, 4)]].flatMap bytesOfWord ++ rest) = _
  generalize pack 0x0CC00005 [(g.val, 29), (d.val, 17), (a.val, 12), (b.val, 7), (m.val, 4)] = wd
  intro ⟨hlt, hh, hp⟩
  have h0 : fld wd 29 3 = g.val := hh.1
  have h1 : fld wd 17 5 = d.val := hh.2.1
  have h2 : fld wd 12 5 = a.val := hh.2.2.1
  have h3 : fld wd 7 5 = b.val := hh.2.2.2.1
  have h4 : fld wd 4 3 = m.val := hh.2.2.2.2.1
  have e0 : Fin.ofNat 8 (wd / 2 ^ 29) = g := finOf rfl h0
  have e1 : Fin.ofNat 32 (wd / 2 ^ 17) = d := finOf rfl h1
  have e2 : Fin.ofNat 32 (wd / 2 ^ 12) = a := finOf rfl h2
  have e3 : Fin.ofNat 32 (wd / 2 ^ 7) = b := finOf rfl h3
  have e4 : Fin.ofNat 8 (wd / 2 ^ 4) = m := finOf rfl h4
  have hm : majorOf wd = 0x33 := hp 22 7 rfl
  have c0_4 : fld wd 0 4 = 5 := hp 0 4 rfl
  exact decode_word rest hlt (noLiteral hm (by decide))
    (decode_major (ne_zero_of_fld (hp 0 1 rfl) (by decide)) hm rfl
      (by rw [major33 _ _, dec33, c0_4, e0, e1, e2, e3, e4]; rfl) hwf)
theorem vaddF16 (g : Fin 8) (d : Fin 32) (a : Fin 32) (b : Fin 32) (m : Fin 8) : Statement (.vaddF16 g d a b m) := by
  intro _ hwf rest
  have hw : Packed (pack 0x0D000000 [(g.val, 29), (d.val, 17), (a.val, 12), (b.val, 7), (m.val, 4)]) 0x0D000000 [(g.val, 29, 3), (d.val, 17, 5), (a.val, 12, 5), (b.val, 7, 5), (m.val, 4, 3)]
      [(29, 3), (17, 5), (12, 5), (7, 5), (4, 3)] := packed (k := 0x0D000000) (fs := [(g.val, 29, 3), (d.val, 17, 5), (a.val, 12, 5), (b.val, 7, 5), (m.val, 4, 3)]) ⟨g.isLt, d.isLt, a.isLt, b.isLt, m.isLt, trivial⟩ rfl rfl rfl (by decide)
  revert hw
  show _ → decodeBytes ([pack 0x0D000000 [(g.val, 29), (d.val, 17), (a.val, 12), (b.val, 7), (m.val, 4)]].flatMap bytesOfWord ++ rest) = _
  generalize pack 0x0D000000 [(g.val, 29), (d.val, 17), (a.val, 12), (b.val, 7), (m.val, 4)] = wd
  intro ⟨hlt, hh, hp⟩
  have h0 : fld wd 29 3 = g.val := hh.1
  have h1 : fld wd 17 5 = d.val := hh.2.1
  have h2 : fld wd 12 5 = a.val := hh.2.2.1
  have h3 : fld wd 7 5 = b.val := hh.2.2.2.1
  have h4 : fld wd 4 3 = m.val := hh.2.2.2.2.1
  have e0 : Fin.ofNat 8 (wd / 2 ^ 29) = g := finOf rfl h0
  have e1 : Fin.ofNat 32 (wd / 2 ^ 17) = d := finOf rfl h1
  have e2 : Fin.ofNat 32 (wd / 2 ^ 12) = a := finOf rfl h2
  have e3 : Fin.ofNat 32 (wd / 2 ^ 7) = b := finOf rfl h3
  have e4 : Fin.ofNat 8 (wd / 2 ^ 4) = m := finOf rfl h4
  have hm : majorOf wd = 0x34 := hp 22 7 rfl
  have c0_4 : fld wd 0 4 = 0 := hp 0 4 rfl
  exact decode_word rest hlt (noLiteral hm (by decide))
    (decode_major (ne_zero_of_fld (hp 24 1 rfl) (by decide)) hm rfl
      (by rw [major34 _ _, dec34, c0_4, e0, e1, e2, e3, e4]; rfl) hwf)
theorem vsubF16 (g : Fin 8) (d : Fin 32) (a : Fin 32) (b : Fin 32) (m : Fin 8) : Statement (.vsubF16 g d a b m) := by
  intro _ hwf rest
  have hw : Packed (pack 0x0D000001 [(g.val, 29), (d.val, 17), (a.val, 12), (b.val, 7), (m.val, 4)]) 0x0D000001 [(g.val, 29, 3), (d.val, 17, 5), (a.val, 12, 5), (b.val, 7, 5), (m.val, 4, 3)]
      [(29, 3), (17, 5), (12, 5), (7, 5), (4, 3)] := packed (k := 0x0D000001) (fs := [(g.val, 29, 3), (d.val, 17, 5), (a.val, 12, 5), (b.val, 7, 5), (m.val, 4, 3)]) ⟨g.isLt, d.isLt, a.isLt, b.isLt, m.isLt, trivial⟩ rfl rfl rfl (by decide)
  revert hw
  show _ → decodeBytes ([pack 0x0D000001 [(g.val, 29), (d.val, 17), (a.val, 12), (b.val, 7), (m.val, 4)]].flatMap bytesOfWord ++ rest) = _
  generalize pack 0x0D000001 [(g.val, 29), (d.val, 17), (a.val, 12), (b.val, 7), (m.val, 4)] = wd
  intro ⟨hlt, hh, hp⟩
  have h0 : fld wd 29 3 = g.val := hh.1
  have h1 : fld wd 17 5 = d.val := hh.2.1
  have h2 : fld wd 12 5 = a.val := hh.2.2.1
  have h3 : fld wd 7 5 = b.val := hh.2.2.2.1
  have h4 : fld wd 4 3 = m.val := hh.2.2.2.2.1
  have e0 : Fin.ofNat 8 (wd / 2 ^ 29) = g := finOf rfl h0
  have e1 : Fin.ofNat 32 (wd / 2 ^ 17) = d := finOf rfl h1
  have e2 : Fin.ofNat 32 (wd / 2 ^ 12) = a := finOf rfl h2
  have e3 : Fin.ofNat 32 (wd / 2 ^ 7) = b := finOf rfl h3
  have e4 : Fin.ofNat 8 (wd / 2 ^ 4) = m := finOf rfl h4
  have hm : majorOf wd = 0x34 := hp 22 7 rfl
  have c0_4 : fld wd 0 4 = 1 := hp 0 4 rfl
  exact decode_word rest hlt (noLiteral hm (by decide))
    (decode_major (ne_zero_of_fld (hp 0 1 rfl) (by decide)) hm rfl
      (by rw [major34 _ _, dec34, c0_4, e0, e1, e2, e3, e4]; rfl) hwf)
theorem vmulF16 (g : Fin 8) (d : Fin 32) (a : Fin 32) (b : Fin 32) (m : Fin 8) : Statement (.vmulF16 g d a b m) := by
  intro _ hwf rest
  have hw : Packed (pack 0x0D000002 [(g.val, 29), (d.val, 17), (a.val, 12), (b.val, 7), (m.val, 4)]) 0x0D000002 [(g.val, 29, 3), (d.val, 17, 5), (a.val, 12, 5), (b.val, 7, 5), (m.val, 4, 3)]
      [(29, 3), (17, 5), (12, 5), (7, 5), (4, 3)] := packed (k := 0x0D000002) (fs := [(g.val, 29, 3), (d.val, 17, 5), (a.val, 12, 5), (b.val, 7, 5), (m.val, 4, 3)]) ⟨g.isLt, d.isLt, a.isLt, b.isLt, m.isLt, trivial⟩ rfl rfl rfl (by decide)
  revert hw
  show _ → decodeBytes ([pack 0x0D000002 [(g.val, 29), (d.val, 17), (a.val, 12), (b.val, 7), (m.val, 4)]].flatMap bytesOfWord ++ rest) = _
  generalize pack 0x0D000002 [(g.val, 29), (d.val, 17), (a.val, 12), (b.val, 7), (m.val, 4)] = wd
  intro ⟨hlt, hh, hp⟩
  have h0 : fld wd 29 3 = g.val := hh.1
  have h1 : fld wd 17 5 = d.val := hh.2.1
  have h2 : fld wd 12 5 = a.val := hh.2.2.1
  have h3 : fld wd 7 5 = b.val := hh.2.2.2.1
  have h4 : fld wd 4 3 = m.val := hh.2.2.2.2.1
  have e0 : Fin.ofNat 8 (wd / 2 ^ 29) = g := finOf rfl h0
  have e1 : Fin.ofNat 32 (wd / 2 ^ 17) = d := finOf rfl h1
  have e2 : Fin.ofNat 32 (wd / 2 ^ 12) = a := finOf rfl h2
  have e3 : Fin.ofNat 32 (wd / 2 ^ 7) = b := finOf rfl h3
  have e4 : Fin.ofNat 8 (wd / 2 ^ 4) = m := finOf rfl h4
  have hm : majorOf wd = 0x34 := hp 22 7 rfl
  have c0_4 : fld wd 0 4 = 2 := hp 0 4 rfl
  exact decode_word rest hlt (noLiteral hm (by decide))
    (decode_major (ne_zero_of_fld (hp 1 1 rfl) (by decide)) hm rfl
      (by rw [major34 _ _, dec34, c0_4, e0, e1, e2, e3, e4]; rfl) hwf)
theorem vminF16 (g : Fin 8) (d : Fin 32) (a : Fin 32) (b : Fin 32) (m : Fin 8) : Statement (.vminF16 g d a b m) := by
  intro _ hwf rest
  have hw : Packed (pack 0x0D000003 [(g.val, 29), (d.val, 17), (a.val, 12), (b.val, 7), (m.val, 4)]) 0x0D000003 [(g.val, 29, 3), (d.val, 17, 5), (a.val, 12, 5), (b.val, 7, 5), (m.val, 4, 3)]
      [(29, 3), (17, 5), (12, 5), (7, 5), (4, 3)] := packed (k := 0x0D000003) (fs := [(g.val, 29, 3), (d.val, 17, 5), (a.val, 12, 5), (b.val, 7, 5), (m.val, 4, 3)]) ⟨g.isLt, d.isLt, a.isLt, b.isLt, m.isLt, trivial⟩ rfl rfl rfl (by decide)
  revert hw
  show _ → decodeBytes ([pack 0x0D000003 [(g.val, 29), (d.val, 17), (a.val, 12), (b.val, 7), (m.val, 4)]].flatMap bytesOfWord ++ rest) = _
  generalize pack 0x0D000003 [(g.val, 29), (d.val, 17), (a.val, 12), (b.val, 7), (m.val, 4)] = wd
  intro ⟨hlt, hh, hp⟩
  have h0 : fld wd 29 3 = g.val := hh.1
  have h1 : fld wd 17 5 = d.val := hh.2.1
  have h2 : fld wd 12 5 = a.val := hh.2.2.1
  have h3 : fld wd 7 5 = b.val := hh.2.2.2.1
  have h4 : fld wd 4 3 = m.val := hh.2.2.2.2.1
  have e0 : Fin.ofNat 8 (wd / 2 ^ 29) = g := finOf rfl h0
  have e1 : Fin.ofNat 32 (wd / 2 ^ 17) = d := finOf rfl h1
  have e2 : Fin.ofNat 32 (wd / 2 ^ 12) = a := finOf rfl h2
  have e3 : Fin.ofNat 32 (wd / 2 ^ 7) = b := finOf rfl h3
  have e4 : Fin.ofNat 8 (wd / 2 ^ 4) = m := finOf rfl h4
  have hm : majorOf wd = 0x34 := hp 22 7 rfl
  have c0_4 : fld wd 0 4 = 3 := hp 0 4 rfl
  exact decode_word rest hlt (noLiteral hm (by decide))
    (decode_major (ne_zero_of_fld (hp 0 1 rfl) (by decide)) hm rfl
      (by rw [major34 _ _, dec34, c0_4, e0, e1, e2, e3, e4]; rfl) hwf)
theorem vmaxF16 (g : Fin 8) (d : Fin 32) (a : Fin 32) (b : Fin 32) (m : Fin 8) : Statement (.vmaxF16 g d a b m) := by
  intro _ hwf rest
  have hw : Packed (pack 0x0D000004 [(g.val, 29), (d.val, 17), (a.val, 12), (b.val, 7), (m.val, 4)]) 0x0D000004 [(g.val, 29, 3), (d.val, 17, 5), (a.val, 12, 5), (b.val, 7, 5), (m.val, 4, 3)]
      [(29, 3), (17, 5), (12, 5), (7, 5), (4, 3)] := packed (k := 0x0D000004) (fs := [(g.val, 29, 3), (d.val, 17, 5), (a.val, 12, 5), (b.val, 7, 5), (m.val, 4, 3)]) ⟨g.isLt, d.isLt, a.isLt, b.isLt, m.isLt, trivial⟩ rfl rfl rfl (by decide)
  revert hw
  show _ → decodeBytes ([pack 0x0D000004 [(g.val, 29), (d.val, 17), (a.val, 12), (b.val, 7), (m.val, 4)]].flatMap bytesOfWord ++ rest) = _
  generalize pack 0x0D000004 [(g.val, 29), (d.val, 17), (a.val, 12), (b.val, 7), (m.val, 4)] = wd
  intro ⟨hlt, hh, hp⟩
  have h0 : fld wd 29 3 = g.val := hh.1
  have h1 : fld wd 17 5 = d.val := hh.2.1
  have h2 : fld wd 12 5 = a.val := hh.2.2.1
  have h3 : fld wd 7 5 = b.val := hh.2.2.2.1
  have h4 : fld wd 4 3 = m.val := hh.2.2.2.2.1
  have e0 : Fin.ofNat 8 (wd / 2 ^ 29) = g := finOf rfl h0
  have e1 : Fin.ofNat 32 (wd / 2 ^ 17) = d := finOf rfl h1
  have e2 : Fin.ofNat 32 (wd / 2 ^ 12) = a := finOf rfl h2
  have e3 : Fin.ofNat 32 (wd / 2 ^ 7) = b := finOf rfl h3
  have e4 : Fin.ofNat 8 (wd / 2 ^ 4) = m := finOf rfl h4
  have hm : majorOf wd = 0x34 := hp 22 7 rfl
  have c0_4 : fld wd 0 4 = 4 := hp 0 4 rfl
  exact decode_word rest hlt (noLiteral hm (by decide))
    (decode_major (ne_zero_of_fld (hp 2 1 rfl) (by decide)) hm rfl
      (by rw [major34 _ _, dec34, c0_4, e0, e1, e2, e3, e4]; rfl) hwf)
theorem vfmaF16 (g : Fin 8) (d : Fin 32) (a : Fin 32) (b : Fin 32) (m : Fin 8) : Statement (.vfmaF16 g d a b m) := by
  intro _ hwf rest
  have hw : Packed (pack 0x0D000005 [(g.val, 29), (d.val, 17), (a.val, 12), (b.val, 7), (m.val, 4)]) 0x0D000005 [(g.val, 29, 3), (d.val, 17, 5), (a.val, 12, 5), (b.val, 7, 5), (m.val, 4, 3)]
      [(29, 3), (17, 5), (12, 5), (7, 5), (4, 3)] := packed (k := 0x0D000005) (fs := [(g.val, 29, 3), (d.val, 17, 5), (a.val, 12, 5), (b.val, 7, 5), (m.val, 4, 3)]) ⟨g.isLt, d.isLt, a.isLt, b.isLt, m.isLt, trivial⟩ rfl rfl rfl (by decide)
  revert hw
  show _ → decodeBytes ([pack 0x0D000005 [(g.val, 29), (d.val, 17), (a.val, 12), (b.val, 7), (m.val, 4)]].flatMap bytesOfWord ++ rest) = _
  generalize pack 0x0D000005 [(g.val, 29), (d.val, 17), (a.val, 12), (b.val, 7), (m.val, 4)] = wd
  intro ⟨hlt, hh, hp⟩
  have h0 : fld wd 29 3 = g.val := hh.1
  have h1 : fld wd 17 5 = d.val := hh.2.1
  have h2 : fld wd 12 5 = a.val := hh.2.2.1
  have h3 : fld wd 7 5 = b.val := hh.2.2.2.1
  have h4 : fld wd 4 3 = m.val := hh.2.2.2.2.1
  have e0 : Fin.ofNat 8 (wd / 2 ^ 29) = g := finOf rfl h0
  have e1 : Fin.ofNat 32 (wd / 2 ^ 17) = d := finOf rfl h1
  have e2 : Fin.ofNat 32 (wd / 2 ^ 12) = a := finOf rfl h2
  have e3 : Fin.ofNat 32 (wd / 2 ^ 7) = b := finOf rfl h3
  have e4 : Fin.ofNat 8 (wd / 2 ^ 4) = m := finOf rfl h4
  have hm : majorOf wd = 0x34 := hp 22 7 rfl
  have c0_4 : fld wd 0 4 = 5 := hp 0 4 rfl
  exact decode_word rest hlt (noLiteral hm (by decide))
    (decode_major (ne_zero_of_fld (hp 0 1 rfl) (by decide)) hm rfl
      (by rw [major34 _ _, dec34, c0_4, e0, e1, e2, e3, e4]; rfl) hwf)
theorem vaddBf16 (g : Fin 8) (d : Fin 32) (a : Fin 32) (b : Fin 32) (m : Fin 8) : Statement (.vaddBf16 g d a b m) := by
  intro _ hwf rest
  have hw : Packed (pack 0x0D400000 [(g.val, 29), (d.val, 17), (a.val, 12), (b.val, 7), (m.val, 4)]) 0x0D400000 [(g.val, 29, 3), (d.val, 17, 5), (a.val, 12, 5), (b.val, 7, 5), (m.val, 4, 3)]
      [(29, 3), (17, 5), (12, 5), (7, 5), (4, 3)] := packed (k := 0x0D400000) (fs := [(g.val, 29, 3), (d.val, 17, 5), (a.val, 12, 5), (b.val, 7, 5), (m.val, 4, 3)]) ⟨g.isLt, d.isLt, a.isLt, b.isLt, m.isLt, trivial⟩ rfl rfl rfl (by decide)
  revert hw
  show _ → decodeBytes ([pack 0x0D400000 [(g.val, 29), (d.val, 17), (a.val, 12), (b.val, 7), (m.val, 4)]].flatMap bytesOfWord ++ rest) = _
  generalize pack 0x0D400000 [(g.val, 29), (d.val, 17), (a.val, 12), (b.val, 7), (m.val, 4)] = wd
  intro ⟨hlt, hh, hp⟩
  have h0 : fld wd 29 3 = g.val := hh.1
  have h1 : fld wd 17 5 = d.val := hh.2.1
  have h2 : fld wd 12 5 = a.val := hh.2.2.1
  have h3 : fld wd 7 5 = b.val := hh.2.2.2.1
  have h4 : fld wd 4 3 = m.val := hh.2.2.2.2.1
  have e0 : Fin.ofNat 8 (wd / 2 ^ 29) = g := finOf rfl h0
  have e1 : Fin.ofNat 32 (wd / 2 ^ 17) = d := finOf rfl h1
  have e2 : Fin.ofNat 32 (wd / 2 ^ 12) = a := finOf rfl h2
  have e3 : Fin.ofNat 32 (wd / 2 ^ 7) = b := finOf rfl h3
  have e4 : Fin.ofNat 8 (wd / 2 ^ 4) = m := finOf rfl h4
  have hm : majorOf wd = 0x35 := hp 22 7 rfl
  have c0_4 : fld wd 0 4 = 0 := hp 0 4 rfl
  exact decode_word rest hlt (noLiteral hm (by decide))
    (decode_major (ne_zero_of_fld (hp 22 1 rfl) (by decide)) hm rfl
      (by rw [major35 _ _, dec35, c0_4, e0, e1, e2, e3, e4]; rfl) hwf)
theorem vsubBf16 (g : Fin 8) (d : Fin 32) (a : Fin 32) (b : Fin 32) (m : Fin 8) : Statement (.vsubBf16 g d a b m) := by
  intro _ hwf rest
  have hw : Packed (pack 0x0D400001 [(g.val, 29), (d.val, 17), (a.val, 12), (b.val, 7), (m.val, 4)]) 0x0D400001 [(g.val, 29, 3), (d.val, 17, 5), (a.val, 12, 5), (b.val, 7, 5), (m.val, 4, 3)]
      [(29, 3), (17, 5), (12, 5), (7, 5), (4, 3)] := packed (k := 0x0D400001) (fs := [(g.val, 29, 3), (d.val, 17, 5), (a.val, 12, 5), (b.val, 7, 5), (m.val, 4, 3)]) ⟨g.isLt, d.isLt, a.isLt, b.isLt, m.isLt, trivial⟩ rfl rfl rfl (by decide)
  revert hw
  show _ → decodeBytes ([pack 0x0D400001 [(g.val, 29), (d.val, 17), (a.val, 12), (b.val, 7), (m.val, 4)]].flatMap bytesOfWord ++ rest) = _
  generalize pack 0x0D400001 [(g.val, 29), (d.val, 17), (a.val, 12), (b.val, 7), (m.val, 4)] = wd
  intro ⟨hlt, hh, hp⟩
  have h0 : fld wd 29 3 = g.val := hh.1
  have h1 : fld wd 17 5 = d.val := hh.2.1
  have h2 : fld wd 12 5 = a.val := hh.2.2.1
  have h3 : fld wd 7 5 = b.val := hh.2.2.2.1
  have h4 : fld wd 4 3 = m.val := hh.2.2.2.2.1
  have e0 : Fin.ofNat 8 (wd / 2 ^ 29) = g := finOf rfl h0
  have e1 : Fin.ofNat 32 (wd / 2 ^ 17) = d := finOf rfl h1
  have e2 : Fin.ofNat 32 (wd / 2 ^ 12) = a := finOf rfl h2
  have e3 : Fin.ofNat 32 (wd / 2 ^ 7) = b := finOf rfl h3
  have e4 : Fin.ofNat 8 (wd / 2 ^ 4) = m := finOf rfl h4
  have hm : majorOf wd = 0x35 := hp 22 7 rfl
  have c0_4 : fld wd 0 4 = 1 := hp 0 4 rfl
  exact decode_word rest hlt (noLiteral hm (by decide))
    (decode_major (ne_zero_of_fld (hp 0 1 rfl) (by decide)) hm rfl
      (by rw [major35 _ _, dec35, c0_4, e0, e1, e2, e3, e4]; rfl) hwf)
theorem vmulBf16 (g : Fin 8) (d : Fin 32) (a : Fin 32) (b : Fin 32) (m : Fin 8) : Statement (.vmulBf16 g d a b m) := by
  intro _ hwf rest
  have hw : Packed (pack 0x0D400002 [(g.val, 29), (d.val, 17), (a.val, 12), (b.val, 7), (m.val, 4)]) 0x0D400002 [(g.val, 29, 3), (d.val, 17, 5), (a.val, 12, 5), (b.val, 7, 5), (m.val, 4, 3)]
      [(29, 3), (17, 5), (12, 5), (7, 5), (4, 3)] := packed (k := 0x0D400002) (fs := [(g.val, 29, 3), (d.val, 17, 5), (a.val, 12, 5), (b.val, 7, 5), (m.val, 4, 3)]) ⟨g.isLt, d.isLt, a.isLt, b.isLt, m.isLt, trivial⟩ rfl rfl rfl (by decide)
  revert hw
  show _ → decodeBytes ([pack 0x0D400002 [(g.val, 29), (d.val, 17), (a.val, 12), (b.val, 7), (m.val, 4)]].flatMap bytesOfWord ++ rest) = _
  generalize pack 0x0D400002 [(g.val, 29), (d.val, 17), (a.val, 12), (b.val, 7), (m.val, 4)] = wd
  intro ⟨hlt, hh, hp⟩
  have h0 : fld wd 29 3 = g.val := hh.1
  have h1 : fld wd 17 5 = d.val := hh.2.1
  have h2 : fld wd 12 5 = a.val := hh.2.2.1
  have h3 : fld wd 7 5 = b.val := hh.2.2.2.1
  have h4 : fld wd 4 3 = m.val := hh.2.2.2.2.1
  have e0 : Fin.ofNat 8 (wd / 2 ^ 29) = g := finOf rfl h0
  have e1 : Fin.ofNat 32 (wd / 2 ^ 17) = d := finOf rfl h1
  have e2 : Fin.ofNat 32 (wd / 2 ^ 12) = a := finOf rfl h2
  have e3 : Fin.ofNat 32 (wd / 2 ^ 7) = b := finOf rfl h3
  have e4 : Fin.ofNat 8 (wd / 2 ^ 4) = m := finOf rfl h4
  have hm : majorOf wd = 0x35 := hp 22 7 rfl
  have c0_4 : fld wd 0 4 = 2 := hp 0 4 rfl
  exact decode_word rest hlt (noLiteral hm (by decide))
    (decode_major (ne_zero_of_fld (hp 1 1 rfl) (by decide)) hm rfl
      (by rw [major35 _ _, dec35, c0_4, e0, e1, e2, e3, e4]; rfl) hwf)
theorem vminBf16 (g : Fin 8) (d : Fin 32) (a : Fin 32) (b : Fin 32) (m : Fin 8) : Statement (.vminBf16 g d a b m) := by
  intro _ hwf rest
  have hw : Packed (pack 0x0D400003 [(g.val, 29), (d.val, 17), (a.val, 12), (b.val, 7), (m.val, 4)]) 0x0D400003 [(g.val, 29, 3), (d.val, 17, 5), (a.val, 12, 5), (b.val, 7, 5), (m.val, 4, 3)]
      [(29, 3), (17, 5), (12, 5), (7, 5), (4, 3)] := packed (k := 0x0D400003) (fs := [(g.val, 29, 3), (d.val, 17, 5), (a.val, 12, 5), (b.val, 7, 5), (m.val, 4, 3)]) ⟨g.isLt, d.isLt, a.isLt, b.isLt, m.isLt, trivial⟩ rfl rfl rfl (by decide)
  revert hw
  show _ → decodeBytes ([pack 0x0D400003 [(g.val, 29), (d.val, 17), (a.val, 12), (b.val, 7), (m.val, 4)]].flatMap bytesOfWord ++ rest) = _
  generalize pack 0x0D400003 [(g.val, 29), (d.val, 17), (a.val, 12), (b.val, 7), (m.val, 4)] = wd
  intro ⟨hlt, hh, hp⟩
  have h0 : fld wd 29 3 = g.val := hh.1
  have h1 : fld wd 17 5 = d.val := hh.2.1
  have h2 : fld wd 12 5 = a.val := hh.2.2.1
  have h3 : fld wd 7 5 = b.val := hh.2.2.2.1
  have h4 : fld wd 4 3 = m.val := hh.2.2.2.2.1
  have e0 : Fin.ofNat 8 (wd / 2 ^ 29) = g := finOf rfl h0
  have e1 : Fin.ofNat 32 (wd / 2 ^ 17) = d := finOf rfl h1
  have e2 : Fin.ofNat 32 (wd / 2 ^ 12) = a := finOf rfl h2
  have e3 : Fin.ofNat 32 (wd / 2 ^ 7) = b := finOf rfl h3
  have e4 : Fin.ofNat 8 (wd / 2 ^ 4) = m := finOf rfl h4
  have hm : majorOf wd = 0x35 := hp 22 7 rfl
  have c0_4 : fld wd 0 4 = 3 := hp 0 4 rfl
  exact decode_word rest hlt (noLiteral hm (by decide))
    (decode_major (ne_zero_of_fld (hp 0 1 rfl) (by decide)) hm rfl
      (by rw [major35 _ _, dec35, c0_4, e0, e1, e2, e3, e4]; rfl) hwf)
theorem vmaxBf16 (g : Fin 8) (d : Fin 32) (a : Fin 32) (b : Fin 32) (m : Fin 8) : Statement (.vmaxBf16 g d a b m) := by
  intro _ hwf rest
  have hw : Packed (pack 0x0D400004 [(g.val, 29), (d.val, 17), (a.val, 12), (b.val, 7), (m.val, 4)]) 0x0D400004 [(g.val, 29, 3), (d.val, 17, 5), (a.val, 12, 5), (b.val, 7, 5), (m.val, 4, 3)]
      [(29, 3), (17, 5), (12, 5), (7, 5), (4, 3)] := packed (k := 0x0D400004) (fs := [(g.val, 29, 3), (d.val, 17, 5), (a.val, 12, 5), (b.val, 7, 5), (m.val, 4, 3)]) ⟨g.isLt, d.isLt, a.isLt, b.isLt, m.isLt, trivial⟩ rfl rfl rfl (by decide)
  revert hw
  show _ → decodeBytes ([pack 0x0D400004 [(g.val, 29), (d.val, 17), (a.val, 12), (b.val, 7), (m.val, 4)]].flatMap bytesOfWord ++ rest) = _
  generalize pack 0x0D400004 [(g.val, 29), (d.val, 17), (a.val, 12), (b.val, 7), (m.val, 4)] = wd
  intro ⟨hlt, hh, hp⟩
  have h0 : fld wd 29 3 = g.val := hh.1
  have h1 : fld wd 17 5 = d.val := hh.2.1
  have h2 : fld wd 12 5 = a.val := hh.2.2.1
  have h3 : fld wd 7 5 = b.val := hh.2.2.2.1
  have h4 : fld wd 4 3 = m.val := hh.2.2.2.2.1
  have e0 : Fin.ofNat 8 (wd / 2 ^ 29) = g := finOf rfl h0
  have e1 : Fin.ofNat 32 (wd / 2 ^ 17) = d := finOf rfl h1
  have e2 : Fin.ofNat 32 (wd / 2 ^ 12) = a := finOf rfl h2
  have e3 : Fin.ofNat 32 (wd / 2 ^ 7) = b := finOf rfl h3
  have e4 : Fin.ofNat 8 (wd / 2 ^ 4) = m := finOf rfl h4
  have hm : majorOf wd = 0x35 := hp 22 7 rfl
  have c0_4 : fld wd 0 4 = 4 := hp 0 4 rfl
  exact decode_word rest hlt (noLiteral hm (by decide))
    (decode_major (ne_zero_of_fld (hp 2 1 rfl) (by decide)) hm rfl
      (by rw [major35 _ _, dec35, c0_4, e0, e1, e2, e3, e4]; rfl) hwf)
theorem vfmaBf16 (g : Fin 8) (d : Fin 32) (a : Fin 32) (b : Fin 32) (m : Fin 8) : Statement (.vfmaBf16 g d a b m) := by
  intro _ hwf rest
  have hw : Packed (pack 0x0D400005 [(g.val, 29), (d.val, 17), (a.val, 12), (b.val, 7), (m.val, 4)]) 0x0D400005 [(g.val, 29, 3), (d.val, 17, 5), (a.val, 12, 5), (b.val, 7, 5), (m.val, 4, 3)]
      [(29, 3), (17, 5), (12, 5), (7, 5), (4, 3)] := packed (k := 0x0D400005) (fs := [(g.val, 29, 3), (d.val, 17, 5), (a.val, 12, 5), (b.val, 7, 5), (m.val, 4, 3)]) ⟨g.isLt, d.isLt, a.isLt, b.isLt, m.isLt, trivial⟩ rfl rfl rfl (by decide)
  revert hw
  show _ → decodeBytes ([pack 0x0D400005 [(g.val, 29), (d.val, 17), (a.val, 12), (b.val, 7), (m.val, 4)]].flatMap bytesOfWord ++ rest) = _
  generalize pack 0x0D400005 [(g.val, 29), (d.val, 17), (a.val, 12), (b.val, 7), (m.val, 4)] = wd
  intro ⟨hlt, hh, hp⟩
  have h0 : fld wd 29 3 = g.val := hh.1
  have h1 : fld wd 17 5 = d.val := hh.2.1
  have h2 : fld wd 12 5 = a.val := hh.2.2.1
  have h3 : fld wd 7 5 = b.val := hh.2.2.2.1
  have h4 : fld wd 4 3 = m.val := hh.2.2.2.2.1
  have e0 : Fin.ofNat 8 (wd / 2 ^ 29) = g := finOf rfl h0
  have e1 : Fin.ofNat 32 (wd / 2 ^ 17) = d := finOf rfl h1
  have e2 : Fin.ofNat 32 (wd / 2 ^ 12) = a := finOf rfl h2
  have e3 : Fin.ofNat 32 (wd / 2 ^ 7) = b := finOf rfl h3
  have e4 : Fin.ofNat 8 (wd / 2 ^ 4) = m := finOf rfl h4
  have hm : majorOf wd = 0x35 := hp 22 7 rfl
  have c0_4 : fld wd 0 4 = 5 := hp 0 4 rfl
  exact decode_word rest hlt (noLiteral hm (by decide))
    (decode_major (ne_zero_of_fld (hp 0 1 rfl) (by decide)) hm rfl
      (by rw [major35 _ _, dec35, c0_4, e0, e1, e2, e3, e4]; rfl) hwf)
theorem vcmp (g : Fin 8) (d : Fin 8) (a : Fin 32) (b : Fin 32) (m : Fin 8) (t : Fin 2) (c : Fin 8) : Statement (.vcmp g d a b m t c) := by
  intro _ hwf rest
  have hw : Packed (pack 0x0D800000 [(g.val, 29), (d.val, 17), (a.val, 12), (b.val, 7), (m.val, 4), (t.val, 3), (c.val, 0)]) 0x0D800000 [(g.val, 29, 3), (d.val, 17, 3), (a.val, 12, 5), (b.val, 7, 5), (m.val, 4, 3), (t.val, 3, 1), (c.val, 0, 3)]
      [(29, 3), (17, 3), (12, 5), (7, 5), (4, 3), (3, 1), (0, 3)] := packed (k := 0x0D800000) (fs := [(g.val, 29, 3), (d.val, 17, 3), (a.val, 12, 5), (b.val, 7, 5), (m.val, 4, 3), (t.val, 3, 1), (c.val, 0, 3)]) ⟨g.isLt, d.isLt, a.isLt, b.isLt, m.isLt, t.isLt, c.isLt, trivial⟩ rfl rfl rfl (by decide)
  revert hw
  show _ → decodeBytes ([pack 0x0D800000 [(g.val, 29), (d.val, 17), (a.val, 12), (b.val, 7), (m.val, 4), (t.val, 3), (c.val, 0)]].flatMap bytesOfWord ++ rest) = _
  generalize pack 0x0D800000 [(g.val, 29), (d.val, 17), (a.val, 12), (b.val, 7), (m.val, 4), (t.val, 3), (c.val, 0)] = wd
  intro ⟨hlt, hh, hp⟩
  have h0 : fld wd 29 3 = g.val := hh.1
  have h1 : fld wd 17 3 = d.val := hh.2.1
  have h2 : fld wd 12 5 = a.val := hh.2.2.1
  have h3 : fld wd 7 5 = b.val := hh.2.2.2.1
  have h4 : fld wd 4 3 = m.val := hh.2.2.2.2.1
  have h5 : fld wd 3 1 = t.val := hh.2.2.2.2.2.1
  have h6 : fld wd 0 3 = c.val := hh.2.2.2.2.2.2.1
  have e0 : Fin.ofNat 8 (wd / 2 ^ 29) = g := finOf rfl h0
  have e1 : Fin.ofNat 8 (wd / 2 ^ 17) = d := finOf rfl h1
  have e2 : Fin.ofNat 32 (wd / 2 ^ 12) = a := finOf rfl h2
  have e3 : Fin.ofNat 32 (wd / 2 ^ 7) = b := finOf rfl h3
  have e4 : Fin.ofNat 8 (wd / 2 ^ 4) = m := finOf rfl h4
  have e5 : Fin.ofNat 2 (wd / 2 ^ 3) = t := finOf rfl h5
  have e6 : Fin.ofNat 8 (wd / 2 ^ 0) = c := finOf rfl h6
  have hm : majorOf wd = 0x36 := hp 22 7 rfl
  have c20_2 : fld wd 20 2 = 0 := hp 20 2 rfl
  exact decode_word rest hlt (noLiteral hm (by decide))
    (decode_major (ne_zero_of_fld (hp 23 1 rfl) (by decide)) hm rfl
      (by rw [major36 _ _, dec36, c20_2, e0, e1, e2, e3, e4, e5, e6]; rfl) hwf)
theorem vsel (g : Fin 8) (d : Fin 32) (a : Fin 32) (b : Fin 32) (m : Fin 8) : Statement (.vsel g d a b m) := by
  intro _ hwf rest
  have hw : Packed (pack 0x0DC00000 [(g.val, 29), (d.val, 17), (a.val, 12), (b.val, 7), (m.val, 4)]) 0x0DC00000 [(g.val, 29, 3), (d.val, 17, 5), (a.val, 12, 5), (b.val, 7, 5), (m.val, 4, 3)]
      [(29, 3), (17, 5), (12, 5), (7, 5), (4, 3)] := packed (k := 0x0DC00000) (fs := [(g.val, 29, 3), (d.val, 17, 5), (a.val, 12, 5), (b.val, 7, 5), (m.val, 4, 3)]) ⟨g.isLt, d.isLt, a.isLt, b.isLt, m.isLt, trivial⟩ rfl rfl rfl (by decide)
  revert hw
  show _ → decodeBytes ([pack 0x0DC00000 [(g.val, 29), (d.val, 17), (a.val, 12), (b.val, 7), (m.val, 4)]].flatMap bytesOfWord ++ rest) = _
  generalize pack 0x0DC00000 [(g.val, 29), (d.val, 17), (a.val, 12), (b.val, 7), (m.val, 4)] = wd
  intro ⟨hlt, hh, hp⟩
  have h0 : fld wd 29 3 = g.val := hh.1
  have h1 : fld wd 17 5 = d.val := hh.2.1
  have h2 : fld wd 12 5 = a.val := hh.2.2.1
  have h3 : fld wd 7 5 = b.val := hh.2.2.2.1
  have h4 : fld wd 4 3 = m.val := hh.2.2.2.2.1
  have e0 : Fin.ofNat 8 (wd / 2 ^ 29) = g := finOf rfl h0
  have e1 : Fin.ofNat 32 (wd / 2 ^ 17) = d := finOf rfl h1
  have e2 : Fin.ofNat 32 (wd / 2 ^ 12) = a := finOf rfl h2
  have e3 : Fin.ofNat 32 (wd / 2 ^ 7) = b := finOf rfl h3
  have e4 : Fin.ofNat 8 (wd / 2 ^ 4) = m := finOf rfl h4
  have hm : majorOf wd = 0x37 := hp 22 7 rfl
  have c0_4 : fld wd 0 4 = 0 := hp 0 4 rfl
  exact decode_word rest hlt (noLiteral hm (by decide))
    (decode_major (ne_zero_of_fld (hp 22 1 rfl) (by decide)) hm rfl
      (by rw [major37 _ _, dec37, c0_4, h3, e0, e1, e2, e3, e4]; simp) hwf)
theorem vperm (g : Fin 8) (d : Fin 32) (a : Fin 32) (b : Fin 32) (m : Fin 8) : Statement (.vperm g d a b m) := by
  intro _ hwf rest
  have hw : Packed (pack 0x0DC00001 [(g.val, 29), (d.val, 17), (a.val, 12), (b.val, 7), (m.val, 4)]) 0x0DC00001 [(g.val, 29, 3), (d.val, 17, 5), (a.val, 12, 5), (b.val, 7, 5), (m.val, 4, 3)]
      [(29, 3), (17, 5), (12, 5), (7, 5), (4, 3)] := packed (k := 0x0DC00001) (fs := [(g.val, 29, 3), (d.val, 17, 5), (a.val, 12, 5), (b.val, 7, 5), (m.val, 4, 3)]) ⟨g.isLt, d.isLt, a.isLt, b.isLt, m.isLt, trivial⟩ rfl rfl rfl (by decide)
  revert hw
  show _ → decodeBytes ([pack 0x0DC00001 [(g.val, 29), (d.val, 17), (a.val, 12), (b.val, 7), (m.val, 4)]].flatMap bytesOfWord ++ rest) = _
  generalize pack 0x0DC00001 [(g.val, 29), (d.val, 17), (a.val, 12), (b.val, 7), (m.val, 4)] = wd
  intro ⟨hlt, hh, hp⟩
  have h0 : fld wd 29 3 = g.val := hh.1
  have h1 : fld wd 17 5 = d.val := hh.2.1
  have h2 : fld wd 12 5 = a.val := hh.2.2.1
  have h3 : fld wd 7 5 = b.val := hh.2.2.2.1
  have h4 : fld wd 4 3 = m.val := hh.2.2.2.2.1
  have e0 : Fin.ofNat 8 (wd / 2 ^ 29) = g := finOf rfl h0
  have e1 : Fin.ofNat 32 (wd / 2 ^ 17) = d := finOf rfl h1
  have e2 : Fin.ofNat 32 (wd / 2 ^ 12) = a := finOf rfl h2
  have e3 : Fin.ofNat 32 (wd / 2 ^ 7) = b := finOf rfl h3
  have e4 : Fin.ofNat 8 (wd / 2 ^ 4) = m := finOf rfl h4
  have hm : majorOf wd = 0x37 := hp 22 7 rfl
  have c0_4 : fld wd 0 4 = 1 := hp 0 4 rfl
  exact decode_word rest hlt (noLiteral hm (by decide))
    (decode_major (ne_zero_of_fld (hp 0 1 rfl) (by decide)) hm rfl
      (by rw [major37 _ _, dec37, c0_4, h3, e0, e1, e2, e3, e4]; simp) hwf)
theorem vmerge (g : Fin 8) (d : Fin 32) (a : Fin 32) (b : Fin 32) (o : Fin 8) : Statement (.vmerge g d a b o) := by
  intro _ hwf rest
  have hw : Packed (pack 0x0DC00002 [(g.val, 29), (d.val, 17), (a.val, 12), (b.val, 7), (o.val, 4)]) 0x0DC00002 [(g.val, 29, 3), (d.val, 17, 5), (a.val, 12, 5), (b.val, 7, 5), (o.val, 4, 3)]
      [(29, 3), (17, 5), (12, 5), (7, 5), (4, 3)] := packed (k := 0x0DC00002) (fs := [(g.val, 29, 3), (d.val, 17, 5), (a.val, 12, 5), (b.val, 7, 5), (o.val, 4, 3)]) ⟨g.isLt, d.isLt, a.isLt, b.isLt, o.isLt, trivial⟩ rfl rfl rfl (by decide)
  revert hw
  show _ → decodeBytes ([pack 0x0DC00002 [(g.val, 29), (d.val, 17), (a.val, 12), (b.val, 7), (o.val, 4)]].flatMap bytesOfWord ++ rest) = _
  generalize pack 0x0DC00002 [(g.val, 29), (d.val, 17), (a.val, 12), (b.val, 7), (o.val, 4)] = wd
  intro ⟨hlt, hh, hp⟩
  have h0 : fld wd 29 3 = g.val := hh.1
  have h1 : fld wd 17 5 = d.val := hh.2.1
  have h2 : fld wd 12 5 = a.val := hh.2.2.1
  have h3 : fld wd 7 5 = b.val := hh.2.2.2.1
  have h4 : fld wd 4 3 = o.val := hh.2.2.2.2.1
  have e0 : Fin.ofNat 8 (wd / 2 ^ 29) = g := finOf rfl h0
  have e1 : Fin.ofNat 32 (wd / 2 ^ 17) = d := finOf rfl h1
  have e2 : Fin.ofNat 32 (wd / 2 ^ 12) = a := finOf rfl h2
  have e3 : Fin.ofNat 32 (wd / 2 ^ 7) = b := finOf rfl h3
  have e4 : Fin.ofNat 8 (wd / 2 ^ 4) = o := finOf rfl h4
  have hm : majorOf wd = 0x37 := hp 22 7 rfl
  have c0_4 : fld wd 0 4 = 2 := hp 0 4 rfl
  exact decode_word rest hlt (noLiteral hm (by decide))
    (decode_major (ne_zero_of_fld (hp 1 1 rfl) (by decide)) hm rfl
      (by rw [major37 _ _, dec37, c0_4, h3, e0, e1, e2, e3, e4]; simp) hwf)
theorem vcomp (g : Fin 8) (d : Fin 32) (a : Fin 32) (m : Fin 8) : Statement (.vcomp g d a m) := by
  intro _ hwf rest
  have hw : Packed (pack 0x0DC00003 [(g.val, 29), (d.val, 17), (a.val, 12), (m.val, 4)]) 0x0DC00003 [(g.val, 29, 3), (d.val, 17, 5), (a.val, 12, 5), (m.val, 4, 3)]
      [(29, 3), (17, 5), (12, 5), (4, 3)] := packed (k := 0x0DC00003) (fs := [(g.val, 29, 3), (d.val, 17, 5), (a.val, 12, 5), (m.val, 4, 3)]) ⟨g.isLt, d.isLt, a.isLt, m.isLt, trivial⟩ rfl rfl rfl (by decide)
  revert hw
  show _ → decodeBytes ([pack 0x0DC00003 [(g.val, 29), (d.val, 17), (a.val, 12), (m.val, 4)]].flatMap bytesOfWord ++ rest) = _
  generalize pack 0x0DC00003 [(g.val, 29), (d.val, 17), (a.val, 12), (m.val, 4)] = wd
  intro ⟨hlt, hh, hp⟩
  have h0 : fld wd 29 3 = g.val := hh.1
  have h1 : fld wd 17 5 = d.val := hh.2.1
  have h2 : fld wd 12 5 = a.val := hh.2.2.1
  have h3 : fld wd 4 3 = m.val := hh.2.2.2.1
  have e0 : Fin.ofNat 8 (wd / 2 ^ 29) = g := finOf rfl h0
  have e1 : Fin.ofNat 32 (wd / 2 ^ 17) = d := finOf rfl h1
  have e2 : Fin.ofNat 32 (wd / 2 ^ 12) = a := finOf rfl h2
  have e3 : Fin.ofNat 8 (wd / 2 ^ 4) = m := finOf rfl h3
  have hm : majorOf wd = 0x37 := hp 22 7 rfl
  have c0_4 : fld wd 0 4 = 3 := hp 0 4 rfl
  have c7_5 : fld wd 7 5 = 0 := hp 7 5 rfl
  exact decode_word rest hlt (noLiteral hm (by decide))
    (decode_major (ne_zero_of_fld (hp 0 1 rfl) (by decide)) hm rfl
      (by rw [major37 _ _, dec37, c0_4, c7_5, e0, e1, e2, e3]; rfl) hwf)
theorem vexpd (g : Fin 8) (d : Fin 32) (a : Fin 32) (m : Fin 8) : Statement (.vexpd g d a m) := by
  intro _ hwf rest
  have hw : Packed (pack 0x0DC00004 [(g.val, 29), (d.val, 17), (a.val, 12), (m.val, 4)]) 0x0DC00004 [(g.val, 29, 3), (d.val, 17, 5), (a.val, 12, 5), (m.val, 4, 3)]
      [(29, 3), (17, 5), (12, 5), (4, 3)] := packed (k := 0x0DC00004) (fs := [(g.val, 29, 3), (d.val, 17, 5), (a.val, 12, 5), (m.val, 4, 3)]) ⟨g.isLt, d.isLt, a.isLt, m.isLt, trivial⟩ rfl rfl rfl (by decide)
  revert hw
  show _ → decodeBytes ([pack 0x0DC00004 [(g.val, 29), (d.val, 17), (a.val, 12), (m.val, 4)]].flatMap bytesOfWord ++ rest) = _
  generalize pack 0x0DC00004 [(g.val, 29), (d.val, 17), (a.val, 12), (m.val, 4)] = wd
  intro ⟨hlt, hh, hp⟩
  have h0 : fld wd 29 3 = g.val := hh.1
  have h1 : fld wd 17 5 = d.val := hh.2.1
  have h2 : fld wd 12 5 = a.val := hh.2.2.1
  have h3 : fld wd 4 3 = m.val := hh.2.2.2.1
  have e0 : Fin.ofNat 8 (wd / 2 ^ 29) = g := finOf rfl h0
  have e1 : Fin.ofNat 32 (wd / 2 ^ 17) = d := finOf rfl h1
  have e2 : Fin.ofNat 32 (wd / 2 ^ 12) = a := finOf rfl h2
  have e3 : Fin.ofNat 8 (wd / 2 ^ 4) = m := finOf rfl h3
  have hm : majorOf wd = 0x37 := hp 22 7 rfl
  have c0_4 : fld wd 0 4 = 4 := hp 0 4 rfl
  have c7_5 : fld wd 7 5 = 0 := hp 7 5 rfl
  exact decode_word rest hlt (noLiteral hm (by decide))
    (decode_major (ne_zero_of_fld (hp 2 1 rfl) (by decide)) hm rfl
      (by rw [major37 _ _, dec37, c0_4, c7_5, e0, e1, e2, e3]; rfl) hwf)
theorem vbcast (g : Fin 8) (d : Fin 32) (c : Fin 64) (m : Fin 8) : Statement (.vbcast g d c m) := by
  intro _ hwf rest
  have hw : Packed (pack 0x0E000000 [(g.val, 29), (d.val, 17), (c.val, 6), (m.val, 3)]) 0x0E000000 [(g.val, 29, 3), (d.val, 17, 5), (c.val, 6, 6), (m.val, 3, 3)]
      [(29, 3), (17, 5), (6, 6), (3, 3)] := packed (k := 0x0E000000) (fs := [(g.val, 29, 3), (d.val, 17, 5), (c.val, 6, 6), (m.val, 3, 3)]) ⟨g.isLt, d.isLt, c.isLt, m.isLt, trivial⟩ rfl rfl rfl (by decide)
  revert hw
  show _ → decodeBytes ([pack 0x0E000000 [(g.val, 29), (d.val, 17), (c.val, 6), (m.val, 3)]].flatMap bytesOfWord ++ rest) = _
  generalize pack 0x0E000000 [(g.val, 29), (d.val, 17), (c.val, 6), (m.val, 3)] = wd
  intro ⟨hlt, hh, hp⟩
  have h0 : fld wd 29 3 = g.val := hh.1
  have h1 : fld wd 17 5 = d.val := hh.2.1
  have h2 : fld wd 6 6 = c.val := hh.2.2.1
  have h3 : fld wd 3 3 = m.val := hh.2.2.2.1
  have e0 : Fin.ofNat 8 (wd / 2 ^ 29) = g := finOf rfl h0
  have e1 : Fin.ofNat 32 (wd / 2 ^ 17) = d := finOf rfl h1
  have e2 : Fin.ofNat 64 (wd / 2 ^ 6) = c := finOf rfl h2
  have e3 : Fin.ofNat 8 (wd / 2 ^ 3) = m := finOf rfl h3
  have hm : majorOf wd = 0x38 := hp 22 7 rfl
  have c0_3 : fld wd 0 3 = 0 := hp 0 3 rfl
  have n0_6_6 : fld wd 0 6 ≠ 6 := fld_ne (i := 1) (by decide) (hp 1 1 rfl) (by decide)
  have c12_5 : fld wd 12 5 = 0 := hp 12 5 rfl
  exact decode_word rest hlt (noLiteral hm (by decide))
    (decode_major (ne_zero_of_fld (hp 25 1 rfl) (by decide)) hm rfl
      (by rw [major38 _ _, dec38, c0_3, c12_5, h1, e0, e1, e2, e3]; simp [n0_6_6]) hwf)
theorem vrnd (g : Fin 8) (d : Fin 32) (c : Fin 64) (m : Fin 8) : Statement (.vrnd g d c m) := by
  intro _ hwf rest
  have hw : Packed (pack 0x0E000001 [(g.val, 29), (d.val, 17), (c.val, 6), (m.val, 3)]) 0x0E000001 [(g.val, 29, 3), (d.val, 17, 5), (c.val, 6, 6), (m.val, 3, 3)]
      [(29, 3), (17, 5), (6, 6), (3, 3)] := packed (k := 0x0E000001) (fs := [(g.val, 29, 3), (d.val, 17, 5), (c.val, 6, 6), (m.val, 3, 3)]) ⟨g.isLt, d.isLt, c.isLt, m.isLt, trivial⟩ rfl rfl rfl (by decide)
  revert hw
  show _ → decodeBytes ([pack 0x0E000001 [(g.val, 29), (d.val, 17), (c.val, 6), (m.val, 3)]].flatMap bytesOfWord ++ rest) = _
  generalize pack 0x0E000001 [(g.val, 29), (d.val, 17), (c.val, 6), (m.val, 3)] = wd
  intro ⟨hlt, hh, hp⟩
  have h0 : fld wd 29 3 = g.val := hh.1
  have h1 : fld wd 17 5 = d.val := hh.2.1
  have h2 : fld wd 6 6 = c.val := hh.2.2.1
  have h3 : fld wd 3 3 = m.val := hh.2.2.2.1
  have e0 : Fin.ofNat 8 (wd / 2 ^ 29) = g := finOf rfl h0
  have e1 : Fin.ofNat 32 (wd / 2 ^ 17) = d := finOf rfl h1
  have e2 : Fin.ofNat 64 (wd / 2 ^ 6) = c := finOf rfl h2
  have e3 : Fin.ofNat 8 (wd / 2 ^ 3) = m := finOf rfl h3
  have hm : majorOf wd = 0x38 := hp 22 7 rfl
  have c0_3 : fld wd 0 3 = 1 := hp 0 3 rfl
  have n0_6_6 : fld wd 0 6 ≠ 6 := fld_ne (i := 0) (by decide) (hp 0 1 rfl) (by decide)
  have c12_5 : fld wd 12 5 = 0 := hp 12 5 rfl
  exact decode_word rest hlt (noLiteral hm (by decide))
    (decode_major (ne_zero_of_fld (hp 0 1 rfl) (by decide)) hm rfl
      (by rw [major38 _ _, dec38, c0_3, c12_5, h1, e0, e1, e2, e3]; simp [n0_6_6]) hwf)
theorem vrndf (g : Fin 8) (d : Fin 32) (c : Fin 64) (m : Fin 8) : Statement (.vrndf g d c m) := by
  intro _ hwf rest
  have hw : Packed (pack 0x0E000002 [(g.val, 29), (d.val, 17), (c.val, 6), (m.val, 3)]) 0x0E000002 [(g.val, 29, 3), (d.val, 17, 5), (c.val, 6, 6), (m.val, 3, 3)]
      [(29, 3), (17, 5), (6, 6), (3, 3)] := packed (k := 0x0E000002) (fs := [(g.val, 29, 3), (d.val, 17, 5), (c.val, 6, 6), (m.val, 3, 3)]) ⟨g.isLt, d.isLt, c.isLt, m.isLt, trivial⟩ rfl rfl rfl (by decide)
  revert hw
  show _ → decodeBytes ([pack 0x0E000002 [(g.val, 29), (d.val, 17), (c.val, 6), (m.val, 3)]].flatMap bytesOfWord ++ rest) = _
  generalize pack 0x0E000002 [(g.val, 29), (d.val, 17), (c.val, 6), (m.val, 3)] = wd
  intro ⟨hlt, hh, hp⟩
  have h0 : fld wd 29 3 = g.val := hh.1
  have h1 : fld wd 17 5 = d.val := hh.2.1
  have h2 : fld wd 6 6 = c.val := hh.2.2.1
  have h3 : fld wd 3 3 = m.val := hh.2.2.2.1
  have e0 : Fin.ofNat 8 (wd / 2 ^ 29) = g := finOf rfl h0
  have e1 : Fin.ofNat 32 (wd / 2 ^ 17) = d := finOf rfl h1
  have e2 : Fin.ofNat 64 (wd / 2 ^ 6) = c := finOf rfl h2
  have e3 : Fin.ofNat 8 (wd / 2 ^ 3) = m := finOf rfl h3
  have hm : majorOf wd = 0x38 := hp 22 7 rfl
  have c0_3 : fld wd 0 3 = 2 := hp 0 3 rfl
  have n0_6_6 : fld wd 0 6 ≠ 6 := fld_ne (i := 2) (by decide) (hp 2 1 rfl) (by decide)
  have c12_5 : fld wd 12 5 = 0 := hp 12 5 rfl
  exact decode_word rest hlt (noLiteral hm (by decide))
    (decode_major (ne_zero_of_fld (hp 1 1 rfl) (by decide)) hm rfl
      (by rw [major38 _ _, dec38, c0_3, c12_5, h1, e0, e1, e2, e3]; simp [n0_6_6]) hwf)
theorem nrns (g : Fin 8) (d : Fin 32) (a : Fin 32) (c : Fin 64) (m : Fin 8) : Statement (.nrns g d a c m) := by
  intro _ hwf rest
  have hw : Packed (pack 0x0E000003 [(g.val, 29), (d.val, 17), (a.val, 12), (c.val, 6), (m.val, 3)]) 0x0E000003 [(g.val, 29, 3), (d.val, 17, 5), (a.val, 12, 5), (c.val, 6, 6), (m.val, 3, 3)]
      [(29, 3), (17, 5), (12, 5), (6, 6), (3, 3)] := packed (k := 0x0E000003) (fs := [(g.val, 29, 3), (d.val, 17, 5), (a.val, 12, 5), (c.val, 6, 6), (m.val, 3, 3)]) ⟨g.isLt, d.isLt, a.isLt, c.isLt, m.isLt, trivial⟩ rfl rfl rfl (by decide)
  revert hw
  show _ → decodeBytes ([pack 0x0E000003 [(g.val, 29), (d.val, 17), (a.val, 12), (c.val, 6), (m.val, 3)]].flatMap bytesOfWord ++ rest) = _
  generalize pack 0x0E000003 [(g.val, 29), (d.val, 17), (a.val, 12), (c.val, 6), (m.val, 3)] = wd
  intro ⟨hlt, hh, hp⟩
  have h0 : fld wd 29 3 = g.val := hh.1
  have h1 : fld wd 17 5 = d.val := hh.2.1
  have h2 : fld wd 12 5 = a.val := hh.2.2.1
  have h3 : fld wd 6 6 = c.val := hh.2.2.2.1
  have h4 : fld wd 3 3 = m.val := hh.2.2.2.2.1
  have e0 : Fin.ofNat 8 (wd / 2 ^ 29) = g := finOf rfl h0
  have e1 : Fin.ofNat 32 (wd / 2 ^ 17) = d := finOf rfl h1
  have e2 : Fin.ofNat 32 (wd / 2 ^ 12) = a := finOf rfl h2
  have e3 : Fin.ofNat 64 (wd / 2 ^ 6) = c := finOf rfl h3
  have e4 : Fin.ofNat 8 (wd / 2 ^ 3) = m := finOf rfl h4
  have hm : majorOf wd = 0x38 := hp 22 7 rfl
  have c0_3 : fld wd 0 3 = 3 := hp 0 3 rfl
  have n0_6_6 : fld wd 0 6 ≠ 6 := fld_ne (i := 0) (by decide) (hp 0 1 rfl) (by decide)
  exact decode_word rest hlt (noLiteral hm (by decide))
    (decode_major (ne_zero_of_fld (hp 0 1 rfl) (by decide)) hm rfl
      (by rw [major38 _ _, dec38, c0_3, h2, h1, e0, e1, e2, e3, e4]; simp [n0_6_6]) hwf)
theorem spkout (g : Fin 8) (a : Fin 32) (c : Fin 64) (m : Fin 8) : Statement (.spkout g a c m) := by
  intro _ hwf rest
  have hw : Packed (pack 0x0E000004 [(g.val, 29), (a.val, 12), (c.val, 6), (m.val, 3)]) 0x0E000004 [(g.val, 29, 3), (a.val, 12, 5), (c.val, 6, 6), (m.val, 3, 3)]
      [(29, 3), (12, 5), (6, 6), (3, 3)] := packed (k := 0x0E000004) (fs := [(g.val, 29, 3), (a.val, 12, 5), (c.val, 6, 6), (m.val, 3, 3)]) ⟨g.isLt, a.isLt, c.isLt, m.isLt, trivial⟩ rfl rfl rfl (by decide)
  revert hw
  show _ → decodeBytes ([pack 0x0E000004 [(g.val, 29), (a.val, 12), (c.val, 6), (m.val, 3)]].flatMap bytesOfWord ++ rest) = _
  generalize pack 0x0E000004 [(g.val, 29), (a.val, 12), (c.val, 6), (m.val, 3)] = wd
  intro ⟨hlt, hh, hp⟩
  have h0 : fld wd 29 3 = g.val := hh.1
  have h1 : fld wd 12 5 = a.val := hh.2.1
  have h2 : fld wd 6 6 = c.val := hh.2.2.1
  have h3 : fld wd 3 3 = m.val := hh.2.2.2.1
  have e0 : Fin.ofNat 8 (wd / 2 ^ 29) = g := finOf rfl h0
  have e1 : Fin.ofNat 32 (wd / 2 ^ 12) = a := finOf rfl h1
  have e2 : Fin.ofNat 64 (wd / 2 ^ 6) = c := finOf rfl h2
  have e3 : Fin.ofNat 8 (wd / 2 ^ 3) = m := finOf rfl h3
  have hm : majorOf wd = 0x38 := hp 22 7 rfl
  have c0_3 : fld wd 0 3 = 4 := hp 0 3 rfl
  have n0_6_6 : fld wd 0 6 ≠ 6 := fld_ne (i := 1) (by decide) (hp 1 1 rfl) (by decide)
  have c17_5 : fld wd 17 5 = 0 := hp 17 5 rfl
  exact decode_word rest hlt (noLiteral hm (by decide))
    (decode_major (ne_zero_of_fld (hp 2 1 rfl) (by decide)) hm rfl
      (by rw [major38 _ _, dec38, c0_3, h1, c17_5, e0, e1, e2, e3]; simp [n0_6_6]) hwf)
theorem vbsum (g : Fin 8) (t : Fin 32) (a : Fin 32) (c : Fin 64) (m : Fin 8) : Statement (.vbsum g t a c m) := by
  intro _ hwf rest
  have hw : Packed (pack 0x0E000005 [(g.val, 29), (t.val, 17), (a.val, 12), (c.val, 6), (m.val, 3)]) 0x0E000005 [(g.val, 29, 3), (t.val, 17, 5), (a.val, 12, 5), (c.val, 6, 6), (m.val, 3, 3)]
      [(29, 3), (17, 5), (12, 5), (6, 6), (3, 3)] := packed (k := 0x0E000005) (fs := [(g.val, 29, 3), (t.val, 17, 5), (a.val, 12, 5), (c.val, 6, 6), (m.val, 3, 3)]) ⟨g.isLt, t.isLt, a.isLt, c.isLt, m.isLt, trivial⟩ rfl rfl rfl (by decide)
  revert hw
  show _ → decodeBytes ([pack 0x0E000005 [(g.val, 29), (t.val, 17), (a.val, 12), (c.val, 6), (m.val, 3)]].flatMap bytesOfWord ++ rest) = _
  generalize pack 0x0E000005 [(g.val, 29), (t.val, 17), (a.val, 12), (c.val, 6), (m.val, 3)] = wd
  intro ⟨hlt, hh, hp⟩
  have h0 : fld wd 29 3 = g.val := hh.1
  have h1 : fld wd 17 5 = t.val := hh.2.1
  have h2 : fld wd 12 5 = a.val := hh.2.2.1
  have h3 : fld wd 6 6 = c.val := hh.2.2.2.1
  have h4 : fld wd 3 3 = m.val := hh.2.2.2.2.1
  have e0 : Fin.ofNat 8 (wd / 2 ^ 29) = g := finOf rfl h0
  have e1 : Fin.ofNat 32 (wd / 2 ^ 17) = t := finOf rfl h1
  have e2 : Fin.ofNat 32 (wd / 2 ^ 12) = a := finOf rfl h2
  have e3 : Fin.ofNat 64 (wd / 2 ^ 6) = c := finOf rfl h3
  have e4 : Fin.ofNat 8 (wd / 2 ^ 3) = m := finOf rfl h4
  have hm : majorOf wd = 0x38 := hp 22 7 rfl
  have c0_3 : fld wd 0 3 = 5 := hp 0 3 rfl
  have n0_6_6 : fld wd 0 6 ≠ 6 := fld_ne (i := 0) (by decide) (hp 0 1 rfl) (by decide)
  exact decode_word rest hlt (noLiteral hm (by decide))
    (decode_major (ne_zero_of_fld (hp 0 1 rfl) (by decide)) hm rfl
      (by rw [major38 _ _, dec38, c0_3, h2, h1, e0, e1, e2, e3, e4]; simp [n0_6_6]) hwf)
theorem bsadd (g : Fin 8) (a : Fin 32) (c : Fin 64) : Statement (.bsadd g a c) := by
  intro _ hwf rest
  have hw : Packed (pack 0x0E000006 [(g.val, 29), (a.val, 12), (c.val, 6)]) 0x0E000006 [(g.val, 29, 3), (a.val, 12, 5), (c.val, 6, 6)]
      [(29, 3), (12, 5), (6, 6)] := packed (k := 0x0E000006) (fs := [(g.val, 29, 3), (a.val, 12, 5), (c.val, 6, 6)]) ⟨g.isLt, a.isLt, c.isLt, trivial⟩ rfl rfl rfl (by decide)
  revert hw
  show _ → decodeBytes ([pack 0x0E000006 [(g.val, 29), (a.val, 12), (c.val, 6)]].flatMap bytesOfWord ++ rest) = _
  generalize pack 0x0E000006 [(g.val, 29), (a.val, 12), (c.val, 6)] = wd
  intro ⟨hlt, hh, hp⟩
  have h0 : fld wd 29 3 = g.val := hh.1
  have h1 : fld wd 12 5 = a.val := hh.2.1
  have h2 : fld wd 6 6 = c.val := hh.2.2.1
  have e0 : Fin.ofNat 8 (wd / 2 ^ 29) = g := finOf rfl h0
  have e1 : Fin.ofNat 32 (wd / 2 ^ 12) = a := finOf rfl h1
  have e2 : Fin.ofNat 64 (wd / 2 ^ 6) = c := finOf rfl h2
  have hm : majorOf wd = 0x38 := hp 22 7 rfl
  have c0_3 : fld wd 0 3 = 6 := hp 0 3 rfl
  have c0_6 : fld wd 0 6 = 6 := hp 0 6 rfl
  have c17_5 : fld wd 17 5 = 0 := hp 17 5 rfl
  exact decode_word rest hlt (noLiteral hm (by decide))
    (decode_major (ne_zero_of_fld (hp 1 1 rfl) (by decide)) hm rfl
      (by rw [major38 _ _, dec38, c0_3, c0_6, h1, c17_5, e0, e1, e2]; simp) hwf)
theorem movVc (g : Fin 8) (d : Fin 32) (c : Fin 64) (q : Fin 8) : Statement (.movVc g d c q) := by
  intro _ hwf rest
  have hw : Packed (pack 0x0E400000 [(g.val, 29), (d.val, 17), (c.val, 6), (q.val, 3)]) 0x0E400000 [(g.val, 29, 3), (d.val, 17, 5), (c.val, 6, 6), (q.val, 3, 3)]
      [(29, 3), (17, 5), (6, 6), (3, 3)] := packed (k := 0x0E400000) (fs := [(g.val, 29, 3), (d.val, 17, 5), (c.val, 6, 6), (q.val, 3, 3)]) ⟨g.isLt, d.isLt, c.isLt, q.isLt, trivial⟩ rfl rfl rfl (by decide)
  revert hw
  show _ → decodeBytes ([pack 0x0E400000 [(g.val, 29), (d.val, 17), (c.val, 6), (q.val, 3)]].flatMap bytesOfWord ++ rest) = _
  generalize pack 0x0E400000 [(g.val, 29), (d.val, 17), (c.val, 6), (q.val, 3)] = wd
  intro ⟨hlt, hh, hp⟩
  have h0 : fld wd 29 3 = g.val := hh.1
  have h1 : fld wd 17 5 = d.val := hh.2.1
  have h2 : fld wd 6 6 = c.val := hh.2.2.1
  have h3 : fld wd 3 3 = q.val := hh.2.2.2.1
  have e0 : Fin.ofNat 8 (wd / 2 ^ 29) = g := finOf rfl h0
  have e1 : Fin.ofNat 32 (wd / 2 ^ 17) = d := finOf rfl h1
  have e2 : Fin.ofNat 64 (wd / 2 ^ 6) = c := finOf rfl h2
  have e3 : Fin.ofNat 8 (wd / 2 ^ 3) = q := finOf rfl h3
  have hm : majorOf wd = 0x39 := hp 22 7 rfl
  have c0_3 : fld wd 0 3 = 0 := hp 0 3 rfl
  have n0_6_2 : fld wd 0 6 ≠ 2 := fld_ne (i := 1) (by decide) (hp 1 1 rfl) (by decide)
  have n0_6_3 : fld wd 0 6 ≠ 3 := fld_ne (i := 0) (by decide) (hp 0 1 rfl) (by decide)
  have c12_5 : fld wd 12 5 = 0 := hp 12 5 rfl
  exact decode_word rest hlt (noLiteral hm (by decide))
    (decode_major (ne_zero_of_fld (hp 22 1 rfl) (by decide)) hm rfl
      (by rw [major39 _ _, dec39, c0_3, c12_5, h1, e0, e1, e2, e3]; simp [n0_6_2, n0_6_3]) hwf)
theorem movCv (g : Fin 8) (a : Fin 32) (c : Fin 64) (q : Fin 8) : Statement (.movCv g a c q) := by
  intro _ hwf rest
  have hw : Packed (pack 0x0E400001 [(g.val, 29), (a.val, 12), (c.val, 6), (q.val, 3)]) 0x0E400001 [(g.val, 29, 3), (a.val, 12, 5), (c.val, 6, 6), (q.val, 3, 3)]
      [(29, 3), (12, 5), (6, 6), (3, 3)] := packed (k := 0x0E400001) (fs := [(g.val, 29, 3), (a.val, 12, 5), (c.val, 6, 6), (q.val, 3, 3)]) ⟨g.isLt, a.isLt, c.isLt, q.isLt, trivial⟩ rfl rfl rfl (by decide)
  revert hw
  show _ → decodeBytes ([pack 0x0E400001 [(g.val, 29), (a.val, 12), (c.val, 6), (q.val, 3)]].flatMap bytesOfWord ++ rest) = _
  generalize pack 0x0E400001 [(g.val, 29), (a.val, 12), (c.val, 6), (q.val, 3)] = wd
  intro ⟨hlt, hh, hp⟩
  have h0 : fld wd 29 3 = g.val := hh.1
  have h1 : fld wd 12 5 = a.val := hh.2.1
  have h2 : fld wd 6 6 = c.val := hh.2.2.1
  have h3 : fld wd 3 3 = q.val := hh.2.2.2.1
  have e0 : Fin.ofNat 8 (wd / 2 ^ 29) = g := finOf rfl h0
  have e1 : Fin.ofNat 32 (wd / 2 ^ 12) = a := finOf rfl h1
  have e2 : Fin.ofNat 64 (wd / 2 ^ 6) = c := finOf rfl h2
  have e3 : Fin.ofNat 8 (wd / 2 ^ 3) = q := finOf rfl h3
  have hm : majorOf wd = 0x39 := hp 22 7 rfl
  have c0_3 : fld wd 0 3 = 1 := hp 0 3 rfl
  have n0_6_2 : fld wd 0 6 ≠ 2 := fld_ne (i := 0) (by decide) (hp 0 1 rfl) (by decide)
  have n0_6_3 : fld wd 0 6 ≠ 3 := fld_ne (i := 1) (by decide) (hp 1 1 rfl) (by decide)
  have c17_5 : fld wd 17 5 = 0 := hp 17 5 rfl
  have c20_2 : fld wd 20 2 = 0 := hp 20 2 rfl
  exact decode_word rest hlt (noLiteral hm (by decide))
    (decode_major (ne_zero_of_fld (hp 0 1 rfl) (by decide)) hm rfl
      (by rw [major39 _ _, dec39, c0_3, h1, c17_5, c20_2, e0, e1, e2, e3]; simp [n0_6_2, n0_6_3]) hwf)
theorem movMc (g : Fin 8) (d : Fin 8) (c : Fin 64) : Statement (.movMc g d c) := by
  intro _ hwf rest
  have hw : Packed (pack 0x0E400002 [(g.val, 29), (d.val, 17), (c.val, 6)]) 0x0E400002 [(g.val, 29, 3), (d.val, 17, 3), (c.val, 6, 6)]
      [(29, 3), (17, 3), (6, 6)] := packed (k := 0x0E400002) (fs := [(g.val, 29, 3), (d.val, 17, 3), (c.val, 6, 6)]) ⟨g.isLt, d.isLt, c.isLt, trivial⟩ rfl rfl rfl (by decide)
  revert hw
  show _ → decodeBytes ([pack 0x0E400002 [(g.val, 29), (d.val, 17), (c.val, 6)]].flatMap bytesOfWord ++ rest) = _
  generalize pack 0x0E400002 [(g.val, 29), (d.val, 17), (c.val, 6)] = wd
  intro ⟨hlt, hh, hp⟩
  have h0 : fld wd 29 3 = g.val := hh.1
  have h1 : fld wd 17 3 = d.val := hh.2.1
  have h2 : fld wd 6 6 = c.val := hh.2.2.1
  have e0 : Fin.ofNat 8 (wd / 2 ^ 29) = g := finOf rfl h0
  have e1 : Fin.ofNat 8 (wd / 2 ^ 17) = d := finOf rfl h1
  have e2 : Fin.ofNat 64 (wd / 2 ^ 6) = c := finOf rfl h2
  have hm : majorOf wd = 0x39 := hp 22 7 rfl
  have c0_3 : fld wd 0 3 = 2 := hp 0 3 rfl
  have c0_6 : fld wd 0 6 = 2 := hp 0 6 rfl
  have c12_5 : fld wd 12 5 = 0 := hp 12 5 rfl
  have c20_2 : fld wd 20 2 = 0 := hp 20 2 rfl
  exact decode_word rest hlt (noLiteral hm (by decide))
    (decode_major (ne_zero_of_fld (hp 1 1 rfl) (by decide)) hm rfl
      (by rw [major39 _ _, dec39, c0_3, c0_6, c12_5, c20_2, e0, e1, e2]; rfl) hwf)
theorem movCm (g : Fin 8) (a : Fin 8) (c : Fin 64) : Statement (.movCm g a c) := by
  intro _ hwf rest
  have hw : Packed (pack 0x0E400003 [(g.val, 29), (a.val, 12), (c.val, 6)]) 0x0E400003 [(g.val, 29, 3), (a.val, 12, 3), (c.val, 6, 6)]
      [(29, 3), (12, 3), (6, 6)] := packed (k := 0x0E400003) (fs := [(g.val, 29, 3), (a.val, 12, 3), (c.val, 6, 6)]) ⟨g.isLt, a.isLt, c.isLt, trivial⟩ rfl rfl rfl (by decide)
  revert hw
  show _ → decodeBytes ([pack 0x0E400003 [(g.val, 29), (a.val, 12), (c.val, 6)]].flatMap bytesOfWord ++ rest) = _
  generalize pack 0x0E400003 [(g.val, 29), (a.val, 12), (c.val, 6)] = wd
  intro ⟨hlt, hh, hp⟩
  have h0 : fld wd 29 3 = g.val := hh.1
  have h1 : fld wd 12 3 = a.val := hh.2.1
  have h2 : fld wd 6 6 = c.val := hh.2.2.1
  have e0 : Fin.ofNat 8 (wd / 2 ^ 29) = g := finOf rfl h0
  have e1 : Fin.ofNat 8 (wd / 2 ^ 12) = a := finOf rfl h1
  have e2 : Fin.ofNat 64 (wd / 2 ^ 6) = c := finOf rfl h2
  have hm : majorOf wd = 0x39 := hp 22 7 rfl
  have c0_3 : fld wd 0 3 = 3 := hp 0 3 rfl
  have c0_6 : fld wd 0 6 = 3 := hp 0 6 rfl
  have c15_7 : fld wd 15 7 = 0 := hp 15 7 rfl
  have c17_5 : fld wd 17 5 = 0 := hp 17 5 rfl
  have c20_2 : fld wd 20 2 = 0 := hp 20 2 rfl
  exact decode_word rest hlt (noLiteral hm (by decide))
    (decode_major (ne_zero_of_fld (hp 0 1 rfl) (by decide)) hm rfl
      (by rw [major39 _ _, dec39, c0_3, c0_6, c15_7, c17_5, c20_2, e0, e1, e2]; rfl) hwf)
theorem vred (g : Fin 8) (d : Fin 32) (a : Fin 32) (m : Fin 8) (l : Fin 16) (f : Fin 32) : Statement (.vred g d a m l f) := by
  intro _ hwf rest
  have hw : Packed (pack 0x0E800000 [(g.val, 29), (d.val, 17), (a.val, 12), (m.val, 9), (l.val, 5), (f.val, 0)]) 0x0E800000 [(g.val, 29, 3), (d.val, 17, 5), (a.val, 12, 5), (m.val, 9, 3), (l.val, 5, 4), (f.val, 0, 5)]
      [(29, 3), (17, 5), (12, 5), (9, 3), (5, 4), (0, 5)] := packed (k := 0x0E800000) (fs := [(g.val, 29, 3), (d.val, 17, 5), (a.val, 12, 5), (m.val, 9, 3), (l.val, 5, 4), (f.val, 0, 5)]) ⟨g.isLt, d.isLt, a.isLt, m.isLt, l.isLt, f.isLt, trivial⟩ rfl rfl rfl (by decide)
  revert hw
  show _ → decodeBytes ([pack 0x0E800000 [(g.val, 29), (d.val, 17), (a.val, 12), (m.val, 9), (l.val, 5), (f.val, 0)]].flatMap bytesOfWord ++ rest) = _
  generalize pack 0x0E800000 [(g.val, 29), (d.val, 17), (a.val, 12), (m.val, 9), (l.val, 5), (f.val, 0)] = wd
  intro ⟨hlt, hh, hp⟩
  have h0 : fld wd 29 3 = g.val := hh.1
  have h1 : fld wd 17 5 = d.val := hh.2.1
  have h2 : fld wd 12 5 = a.val := hh.2.2.1
  have h3 : fld wd 9 3 = m.val := hh.2.2.2.1
  have h4 : fld wd 5 4 = l.val := hh.2.2.2.2.1
  have h5 : fld wd 0 5 = f.val := hh.2.2.2.2.2.1
  have e0 : Fin.ofNat 8 (wd / 2 ^ 29) = g := finOf rfl h0
  have e1 : Fin.ofNat 32 (wd / 2 ^ 17) = d := finOf rfl h1
  have e2 : Fin.ofNat 32 (wd / 2 ^ 12) = a := finOf rfl h2
  have e3 : Fin.ofNat 8 (wd / 2 ^ 9) = m := finOf rfl h3
  have e4 : Fin.ofNat 16 (wd / 2 ^ 5) = l := finOf rfl h4
  have e5 : Fin.ofNat 32 (wd / 2 ^ 0) = f := finOf rfl h5
  have hm : majorOf wd = 0x3A := hp 22 7 rfl
  exact decode_word rest hlt (noLiteral hm (by decide))
    (decode_major (ne_zero_of_fld (hp 23 1 rfl) (by decide)) hm rfl
      (by rw [major3A _ _, dec3A, e0, e1, e2, e3, e4, e5]) hwf)
theorem vscan (g : Fin 8) (d : Fin 32) (a : Fin 32) (m : Fin 8) (l : Fin 16) (f : Fin 32) : Statement (.vscan g d a m l f) := by
  intro _ hwf rest
  have hw : Packed (pack 0x0EC00000 [(g.val, 29), (d.val, 17), (a.val, 12), (m.val, 9), (l.val, 5), (f.val, 0)]) 0x0EC00000 [(g.val, 29, 3), (d.val, 17, 5), (a.val, 12, 5), (m.val, 9, 3), (l.val, 5, 4), (f.val, 0, 5)]
      [(29, 3), (17, 5), (12, 5), (9, 3), (5, 4), (0, 5)] := packed (k := 0x0EC00000) (fs := [(g.val, 29, 3), (d.val, 17, 5), (a.val, 12, 5), (m.val, 9, 3), (l.val, 5, 4), (f.val, 0, 5)]) ⟨g.isLt, d.isLt, a.isLt, m.isLt, l.isLt, f.isLt, trivial⟩ rfl rfl rfl (by decide)
  revert hw
  show _ → decodeBytes ([pack 0x0EC00000 [(g.val, 29), (d.val, 17), (a.val, 12), (m.val, 9), (l.val, 5), (f.val, 0)]].flatMap bytesOfWord ++ rest) = _
  generalize pack 0x0EC00000 [(g.val, 29), (d.val, 17), (a.val, 12), (m.val, 9), (l.val, 5), (f.val, 0)] = wd
  intro ⟨hlt, hh, hp⟩
  have h0 : fld wd 29 3 = g.val := hh.1
  have h1 : fld wd 17 5 = d.val := hh.2.1
  have h2 : fld wd 12 5 = a.val := hh.2.2.1
  have h3 : fld wd 9 3 = m.val := hh.2.2.2.1
  have h4 : fld wd 5 4 = l.val := hh.2.2.2.2.1
  have h5 : fld wd 0 5 = f.val := hh.2.2.2.2.2.1
  have e0 : Fin.ofNat 8 (wd / 2 ^ 29) = g := finOf rfl h0
  have e1 : Fin.ofNat 32 (wd / 2 ^ 17) = d := finOf rfl h1
  have e2 : Fin.ofNat 32 (wd / 2 ^ 12) = a := finOf rfl h2
  have e3 : Fin.ofNat 8 (wd / 2 ^ 9) = m := finOf rfl h3
  have e4 : Fin.ofNat 16 (wd / 2 ^ 5) = l := finOf rfl h4
  have e5 : Fin.ofNat 32 (wd / 2 ^ 0) = f := finOf rfl h5
  have hm : majorOf wd = 0x3B := hp 22 7 rfl
  exact decode_word rest hlt (noLiteral hm (by decide))
    (decode_major (ne_zero_of_fld (hp 22 1 rfl) (by decide)) hm rfl
      (by rw [major3B _ _, dec3B, e0, e1, e2, e3, e4, e5]) hwf)
theorem vsqrt (g : Fin 8) (d : Fin 32) (a : Fin 32) (m : Fin 8) (l : Fin 16) (t : Fin 2) : Statement (.vsqrt g d a m l t) := by
  intro _ hwf rest
  have hw : Packed (pack 0x0F000000 [(g.val, 29), (d.val, 17), (a.val, 12), (m.val, 9), (l.val, 5), (t.val, 2)]) 0x0F000000 [(g.val, 29, 3), (d.val, 17, 5), (a.val, 12, 5), (m.val, 9, 3), (l.val, 5, 4), (t.val, 2, 1)]
      [(29, 3), (17, 5), (12, 5), (9, 3), (5, 4), (2, 1)] := packed (k := 0x0F000000) (fs := [(g.val, 29, 3), (d.val, 17, 5), (a.val, 12, 5), (m.val, 9, 3), (l.val, 5, 4), (t.val, 2, 1)]) ⟨g.isLt, d.isLt, a.isLt, m.isLt, l.isLt, t.isLt, trivial⟩ rfl rfl rfl (by decide)
  revert hw
  show _ → decodeBytes ([pack 0x0F000000 [(g.val, 29), (d.val, 17), (a.val, 12), (m.val, 9), (l.val, 5), (t.val, 2)]].flatMap bytesOfWord ++ rest) = _
  generalize pack 0x0F000000 [(g.val, 29), (d.val, 17), (a.val, 12), (m.val, 9), (l.val, 5), (t.val, 2)] = wd
  intro ⟨hlt, hh, hp⟩
  have h0 : fld wd 29 3 = g.val := hh.1
  have h1 : fld wd 17 5 = d.val := hh.2.1
  have h2 : fld wd 12 5 = a.val := hh.2.2.1
  have h3 : fld wd 9 3 = m.val := hh.2.2.2.1
  have h4 : fld wd 5 4 = l.val := hh.2.2.2.2.1
  have h5 : fld wd 2 1 = t.val := hh.2.2.2.2.2.1
  have e0 : Fin.ofNat 8 (wd / 2 ^ 29) = g := finOf rfl h0
  have e1 : Fin.ofNat 32 (wd / 2 ^ 17) = d := finOf rfl h1
  have e2 : Fin.ofNat 32 (wd / 2 ^ 12) = a := finOf rfl h2
  have e3 : Fin.ofNat 8 (wd / 2 ^ 9) = m := finOf rfl h3
  have e4 : Fin.ofNat 16 (wd / 2 ^ 5) = l := finOf rfl h4
  have e5 : Fin.ofNat 2 (wd / 2 ^ 2) = t := finOf rfl h5
  have hm : majorOf wd = 0x3C := hp 22 7 rfl
  have c0_2 : fld wd 0 2 = 0 := hp 0 2 rfl
  have c3_2 : fld wd 3 2 = 0 := hp 3 2 rfl
  exact decode_word rest hlt (noLiteral hm (by decide))
    (decode_major (ne_zero_of_fld (hp 24 1 rfl) (by decide)) hm rfl
      (by rw [major3C _ _, dec3C, c0_2, c3_2, e0, e1, e2, e3, e4, e5]; rfl) hwf)
theorem vexp2 (g : Fin 8) (d : Fin 32) (a : Fin 32) (m : Fin 8) (l : Fin 16) (t : Fin 2) : Statement (.vexp2 g d a m l t) := by
  intro _ hwf rest
  have hw : Packed (pack 0x0F000001 [(g.val, 29), (d.val, 17), (a.val, 12), (m.val, 9), (l.val, 5), (t.val, 2)]) 0x0F000001 [(g.val, 29, 3), (d.val, 17, 5), (a.val, 12, 5), (m.val, 9, 3), (l.val, 5, 4), (t.val, 2, 1)]
      [(29, 3), (17, 5), (12, 5), (9, 3), (5, 4), (2, 1)] := packed (k := 0x0F000001) (fs := [(g.val, 29, 3), (d.val, 17, 5), (a.val, 12, 5), (m.val, 9, 3), (l.val, 5, 4), (t.val, 2, 1)]) ⟨g.isLt, d.isLt, a.isLt, m.isLt, l.isLt, t.isLt, trivial⟩ rfl rfl rfl (by decide)
  revert hw
  show _ → decodeBytes ([pack 0x0F000001 [(g.val, 29), (d.val, 17), (a.val, 12), (m.val, 9), (l.val, 5), (t.val, 2)]].flatMap bytesOfWord ++ rest) = _
  generalize pack 0x0F000001 [(g.val, 29), (d.val, 17), (a.val, 12), (m.val, 9), (l.val, 5), (t.val, 2)] = wd
  intro ⟨hlt, hh, hp⟩
  have h0 : fld wd 29 3 = g.val := hh.1
  have h1 : fld wd 17 5 = d.val := hh.2.1
  have h2 : fld wd 12 5 = a.val := hh.2.2.1
  have h3 : fld wd 9 3 = m.val := hh.2.2.2.1
  have h4 : fld wd 5 4 = l.val := hh.2.2.2.2.1
  have h5 : fld wd 2 1 = t.val := hh.2.2.2.2.2.1
  have e0 : Fin.ofNat 8 (wd / 2 ^ 29) = g := finOf rfl h0
  have e1 : Fin.ofNat 32 (wd / 2 ^ 17) = d := finOf rfl h1
  have e2 : Fin.ofNat 32 (wd / 2 ^ 12) = a := finOf rfl h2
  have e3 : Fin.ofNat 8 (wd / 2 ^ 9) = m := finOf rfl h3
  have e4 : Fin.ofNat 16 (wd / 2 ^ 5) = l := finOf rfl h4
  have e5 : Fin.ofNat 2 (wd / 2 ^ 2) = t := finOf rfl h5
  have hm : majorOf wd = 0x3C := hp 22 7 rfl
  have c0_2 : fld wd 0 2 = 1 := hp 0 2 rfl
  have c3_2 : fld wd 3 2 = 0 := hp 3 2 rfl
  exact decode_word rest hlt (noLiteral hm (by decide))
    (decode_major (ne_zero_of_fld (hp 0 1 rfl) (by decide)) hm rfl
      (by rw [major3C _ _, dec3C, c0_2, c3_2, e0, e1, e2, e3, e4, e5]; rfl) hwf)
theorem vlog2 (g : Fin 8) (d : Fin 32) (a : Fin 32) (m : Fin 8) (l : Fin 16) (t : Fin 2) : Statement (.vlog2 g d a m l t) := by
  intro _ hwf rest
  have hw : Packed (pack 0x0F000002 [(g.val, 29), (d.val, 17), (a.val, 12), (m.val, 9), (l.val, 5), (t.val, 2)]) 0x0F000002 [(g.val, 29, 3), (d.val, 17, 5), (a.val, 12, 5), (m.val, 9, 3), (l.val, 5, 4), (t.val, 2, 1)]
      [(29, 3), (17, 5), (12, 5), (9, 3), (5, 4), (2, 1)] := packed (k := 0x0F000002) (fs := [(g.val, 29, 3), (d.val, 17, 5), (a.val, 12, 5), (m.val, 9, 3), (l.val, 5, 4), (t.val, 2, 1)]) ⟨g.isLt, d.isLt, a.isLt, m.isLt, l.isLt, t.isLt, trivial⟩ rfl rfl rfl (by decide)
  revert hw
  show _ → decodeBytes ([pack 0x0F000002 [(g.val, 29), (d.val, 17), (a.val, 12), (m.val, 9), (l.val, 5), (t.val, 2)]].flatMap bytesOfWord ++ rest) = _
  generalize pack 0x0F000002 [(g.val, 29), (d.val, 17), (a.val, 12), (m.val, 9), (l.val, 5), (t.val, 2)] = wd
  intro ⟨hlt, hh, hp⟩
  have h0 : fld wd 29 3 = g.val := hh.1
  have h1 : fld wd 17 5 = d.val := hh.2.1
  have h2 : fld wd 12 5 = a.val := hh.2.2.1
  have h3 : fld wd 9 3 = m.val := hh.2.2.2.1
  have h4 : fld wd 5 4 = l.val := hh.2.2.2.2.1
  have h5 : fld wd 2 1 = t.val := hh.2.2.2.2.2.1
  have e0 : Fin.ofNat 8 (wd / 2 ^ 29) = g := finOf rfl h0
  have e1 : Fin.ofNat 32 (wd / 2 ^ 17) = d := finOf rfl h1
  have e2 : Fin.ofNat 32 (wd / 2 ^ 12) = a := finOf rfl h2
  have e3 : Fin.ofNat 8 (wd / 2 ^ 9) = m := finOf rfl h3
  have e4 : Fin.ofNat 16 (wd / 2 ^ 5) = l := finOf rfl h4
  have e5 : Fin.ofNat 2 (wd / 2 ^ 2) = t := finOf rfl h5
  have hm : majorOf wd = 0x3C := hp 22 7 rfl
  have c0_2 : fld wd 0 2 = 2 := hp 0 2 rfl
  have c3_2 : fld wd 3 2 = 0 := hp 3 2 rfl
  exact decode_word rest hlt (noLiteral hm (by decide))
    (decode_major (ne_zero_of_fld (hp 1 1 rfl) (by decide)) hm rfl
      (by rw [major3C _ _, dec3C, c0_2, c3_2, e0, e1, e2, e3, e4, e5]; rfl) hwf)
theorem vrcp (g : Fin 8) (d : Fin 32) (a : Fin 32) (m : Fin 8) (l : Fin 16) (t : Fin 2) : Statement (.vrcp g d a m l t) := by
  intro _ hwf rest
  have hw : Packed (pack 0x0F000003 [(g.val, 29), (d.val, 17), (a.val, 12), (m.val, 9), (l.val, 5), (t.val, 2)]) 0x0F000003 [(g.val, 29, 3), (d.val, 17, 5), (a.val, 12, 5), (m.val, 9, 3), (l.val, 5, 4), (t.val, 2, 1)]
      [(29, 3), (17, 5), (12, 5), (9, 3), (5, 4), (2, 1)] := packed (k := 0x0F000003) (fs := [(g.val, 29, 3), (d.val, 17, 5), (a.val, 12, 5), (m.val, 9, 3), (l.val, 5, 4), (t.val, 2, 1)]) ⟨g.isLt, d.isLt, a.isLt, m.isLt, l.isLt, t.isLt, trivial⟩ rfl rfl rfl (by decide)
  revert hw
  show _ → decodeBytes ([pack 0x0F000003 [(g.val, 29), (d.val, 17), (a.val, 12), (m.val, 9), (l.val, 5), (t.val, 2)]].flatMap bytesOfWord ++ rest) = _
  generalize pack 0x0F000003 [(g.val, 29), (d.val, 17), (a.val, 12), (m.val, 9), (l.val, 5), (t.val, 2)] = wd
  intro ⟨hlt, hh, hp⟩
  have h0 : fld wd 29 3 = g.val := hh.1
  have h1 : fld wd 17 5 = d.val := hh.2.1
  have h2 : fld wd 12 5 = a.val := hh.2.2.1
  have h3 : fld wd 9 3 = m.val := hh.2.2.2.1
  have h4 : fld wd 5 4 = l.val := hh.2.2.2.2.1
  have h5 : fld wd 2 1 = t.val := hh.2.2.2.2.2.1
  have e0 : Fin.ofNat 8 (wd / 2 ^ 29) = g := finOf rfl h0
  have e1 : Fin.ofNat 32 (wd / 2 ^ 17) = d := finOf rfl h1
  have e2 : Fin.ofNat 32 (wd / 2 ^ 12) = a := finOf rfl h2
  have e3 : Fin.ofNat 8 (wd / 2 ^ 9) = m := finOf rfl h3
  have e4 : Fin.ofNat 16 (wd / 2 ^ 5) = l := finOf rfl h4
  have e5 : Fin.ofNat 2 (wd / 2 ^ 2) = t := finOf rfl h5
  have hm : majorOf wd = 0x3C := hp 22 7 rfl
  have c0_2 : fld wd 0 2 = 3 := hp 0 2 rfl
  have c3_2 : fld wd 3 2 = 0 := hp 3 2 rfl
  exact decode_word rest hlt (noLiteral hm (by decide))
    (decode_major (ne_zero_of_fld (hp 0 1 rfl) (by decide)) hm rfl
      (by rw [major3C _ _, dec3C, c0_2, c3_2, e0, e1, e2, e3, e4, e5]; rfl) hwf)
theorem vdivF32 (g : Fin 8) (d : Fin 32) (a : Fin 32) (m : Fin 8) (l : Fin 16) (b : Fin 32) : Statement (.vdivF32 g d a m l b) := by
  intro _ hwf rest
  have hw : Packed (pack 0x0F400000 [(g.val, 29), (d.val, 17), (a.val, 12), (m.val, 9), (l.val, 5), (b.val, 0)]) 0x0F400000 [(g.val, 29, 3), (d.val, 17, 5), (a.val, 12, 5), (m.val, 9, 3), (l.val, 5, 4), (b.val, 0, 5)]
      [(29, 3), (17, 5), (12, 5), (9, 3), (5, 4), (0, 5)] := packed (k := 0x0F400000) (fs := [(g.val, 29, 3), (d.val, 17, 5), (a.val, 12, 5), (m.val, 9, 3), (l.val, 5, 4), (b.val, 0, 5)]) ⟨g.isLt, d.isLt, a.isLt, m.isLt, l.isLt, b.isLt, trivial⟩ rfl rfl rfl (by decide)
  revert hw
  show _ → decodeBytes ([pack 0x0F400000 [(g.val, 29), (d.val, 17), (a.val, 12), (m.val, 9), (l.val, 5), (b.val, 0)]].flatMap bytesOfWord ++ rest) = _
  generalize pack 0x0F400000 [(g.val, 29), (d.val, 17), (a.val, 12), (m.val, 9), (l.val, 5), (b.val, 0)] = wd
  intro ⟨hlt, hh, hp⟩
  have h0 : fld wd 29 3 = g.val := hh.1
  have h1 : fld wd 17 5 = d.val := hh.2.1
  have h2 : fld wd 12 5 = a.val := hh.2.2.1
  have h3 : fld wd 9 3 = m.val := hh.2.2.2.1
  have h4 : fld wd 5 4 = l.val := hh.2.2.2.2.1
  have h5 : fld wd 0 5 = b.val := hh.2.2.2.2.2.1
  have e0 : Fin.ofNat 8 (wd / 2 ^ 29) = g := finOf rfl h0
  have e1 : Fin.ofNat 32 (wd / 2 ^ 17) = d := finOf rfl h1
  have e2 : Fin.ofNat 32 (wd / 2 ^ 12) = a := finOf rfl h2
  have e3 : Fin.ofNat 8 (wd / 2 ^ 9) = m := finOf rfl h3
  have e4 : Fin.ofNat 16 (wd / 2 ^ 5) = l := finOf rfl h4
  have e5 : Fin.ofNat 32 (wd / 2 ^ 0) = b := finOf rfl h5
  have hm : majorOf wd = 0x3D := hp 22 7 rfl
  exact decode_word rest hlt (noLiteral hm (by decide))
    (decode_major (ne_zero_of_fld (hp 22 1 rfl) (by decide)) hm rfl
      (by rw [major3D _ _, dec3D, e0, e1, e2, e3, e4, e5]) hwf)
theorem vcvt (g : Fin 8) (d : Fin 32) (a : Fin 32) (m : Fin 8) (l : Fin 16) (f : Fin 32) : Statement (.vcvt g d a m l f) := by
  intro _ hwf rest
  have hw : Packed (pack 0x0F800000 [(g.val, 29), (d.val, 17), (a.val, 12), (m.val, 9), (l.val, 5), (f.val, 0)]) 0x0F800000 [(g.val, 29, 3), (d.val, 17, 5), (a.val, 12, 5), (m.val, 9, 3), (l.val, 5, 4), (f.val, 0, 5)]
      [(29, 3), (17, 5), (12, 5), (9, 3), (5, 4), (0, 5)] := packed (k := 0x0F800000) (fs := [(g.val, 29, 3), (d.val, 17, 5), (a.val, 12, 5), (m.val, 9, 3), (l.val, 5, 4), (f.val, 0, 5)]) ⟨g.isLt, d.isLt, a.isLt, m.isLt, l.isLt, f.isLt, trivial⟩ rfl rfl rfl (by decide)
  revert hw
  show _ → decodeBytes ([pack 0x0F800000 [(g.val, 29), (d.val, 17), (a.val, 12), (m.val, 9), (l.val, 5), (f.val, 0)]].flatMap bytesOfWord ++ rest) = _
  generalize pack 0x0F800000 [(g.val, 29), (d.val, 17), (a.val, 12), (m.val, 9), (l.val, 5), (f.val, 0)] = wd
  intro ⟨hlt, hh, hp⟩
  have h0 : fld wd 29 3 = g.val := hh.1
  have h1 : fld wd 17 5 = d.val := hh.2.1
  have h2 : fld wd 12 5 = a.val := hh.2.2.1
  have h3 : fld wd 9 3 = m.val := hh.2.2.2.1
  have h4 : fld wd 5 4 = l.val := hh.2.2.2.2.1
  have h5 : fld wd 0 5 = f.val := hh.2.2.2.2.2.1
  have e0 : Fin.ofNat 8 (wd / 2 ^ 29) = g := finOf rfl h0
  have e1 : Fin.ofNat 32 (wd / 2 ^ 17) = d := finOf rfl h1
  have e2 : Fin.ofNat 32 (wd / 2 ^ 12) = a := finOf rfl h2
  have e3 : Fin.ofNat 8 (wd / 2 ^ 9) = m := finOf rfl h3
  have e4 : Fin.ofNat 16 (wd / 2 ^ 5) = l := finOf rfl h4
  have e5 : Fin.ofNat 32 (wd / 2 ^ 0) = f := finOf rfl h5
  have hm : majorOf wd = 0x3E := hp 22 7 rfl
  exact decode_word rest hlt (noLiteral hm (by decide))
    (decode_major (ne_zero_of_fld (hp 23 1 rfl) (by decide)) hm rfl
      (by rw [major3E _ _, dec3E, e0, e1, e2, e3, e4, e5]) hwf)
theorem vdivF16 (g : Fin 8) (d : Fin 32) (a : Fin 32) (m : Fin 8) (l : Fin 16) (b : Fin 32) : Statement (.vdivF16 g d a m l b) := by
  intro _ hwf rest
  have hw : Packed (pack 0x0FC00000 [(g.val, 29), (d.val, 17), (a.val, 12), (m.val, 9), (l.val, 5), (b.val, 0)]) 0x0FC00000 [(g.val, 29, 3), (d.val, 17, 5), (a.val, 12, 5), (m.val, 9, 3), (l.val, 5, 4), (b.val, 0, 5)]
      [(29, 3), (17, 5), (12, 5), (9, 3), (5, 4), (0, 5)] := packed (k := 0x0FC00000) (fs := [(g.val, 29, 3), (d.val, 17, 5), (a.val, 12, 5), (m.val, 9, 3), (l.val, 5, 4), (b.val, 0, 5)]) ⟨g.isLt, d.isLt, a.isLt, m.isLt, l.isLt, b.isLt, trivial⟩ rfl rfl rfl (by decide)
  revert hw
  show _ → decodeBytes ([pack 0x0FC00000 [(g.val, 29), (d.val, 17), (a.val, 12), (m.val, 9), (l.val, 5), (b.val, 0)]].flatMap bytesOfWord ++ rest) = _
  generalize pack 0x0FC00000 [(g.val, 29), (d.val, 17), (a.val, 12), (m.val, 9), (l.val, 5), (b.val, 0)] = wd
  intro ⟨hlt, hh, hp⟩
  have h0 : fld wd 29 3 = g.val := hh.1
  have h1 : fld wd 17 5 = d.val := hh.2.1
  have h2 : fld wd 12 5 = a.val := hh.2.2.1
  have h3 : fld wd 9 3 = m.val := hh.2.2.2.1
  have h4 : fld wd 5 4 = l.val := hh.2.2.2.2.1
  have h5 : fld wd 0 5 = b.val := hh.2.2.2.2.2.1
  have e0 : Fin.ofNat 8 (wd / 2 ^ 29) = g := finOf rfl h0
  have e1 : Fin.ofNat 32 (wd / 2 ^ 17) = d := finOf rfl h1
  have e2 : Fin.ofNat 32 (wd / 2 ^ 12) = a := finOf rfl h2
  have e3 : Fin.ofNat 8 (wd / 2 ^ 9) = m := finOf rfl h3
  have e4 : Fin.ofNat 16 (wd / 2 ^ 5) = l := finOf rfl h4
  have e5 : Fin.ofNat 32 (wd / 2 ^ 0) = b := finOf rfl h5
  have hm : majorOf wd = 0x3F := hp 22 7 rfl
  exact decode_word rest hlt (noLiteral hm (by decide))
    (decode_major (ne_zero_of_fld (hp 22 1 rfl) (by decide)) hm rfl
      (by rw [major3F _ _, dec3F, e0, e1, e2, e3, e4, e5]) hwf)
theorem trd (g : Fin 8) (t : Fin 8) (r : Fin 2) (i : Fin 64) (k : Fin 32) (v : Fin 32) : Statement (.trd g t r i k v) := by
  intro _ hwf rest
  have hw : Packed (pack 0x10000000 [(g.val, 29), (t.val, 19), (r.val, 18), (i.val, 12), (k.val, 7), (v.val, 2)]) 0x10000000 [(g.val, 29, 3), (t.val, 19, 3), (r.val, 18, 1), (i.val, 12, 6), (k.val, 7, 5), (v.val, 2, 5)]
      [(29, 3), (19, 3), (18, 1), (12, 6), (7, 5), (2, 5)] := packed (k := 0x10000000) (fs := [(g.val, 29, 3), (t.val, 19, 3), (r.val, 18, 1), (i.val, 12, 6), (k.val, 7, 5), (v.val, 2, 5)]) ⟨g.isLt, t.isLt, r.isLt, i.isLt, k.isLt, v.isLt, trivial⟩ rfl rfl rfl (by decide)
  revert hw
  show _ → decodeBytes ([pack 0x10000000 [(g.val, 29), (t.val, 19), (r.val, 18), (i.val, 12), (k.val, 7), (v.val, 2)]].flatMap bytesOfWord ++ rest) = _
  generalize pack 0x10000000 [(g.val, 29), (t.val, 19), (r.val, 18), (i.val, 12), (k.val, 7), (v.val, 2)] = wd
  intro ⟨hlt, hh, hp⟩
  have h0 : fld wd 29 3 = g.val := hh.1
  have h1 : fld wd 19 3 = t.val := hh.2.1
  have h2 : fld wd 18 1 = r.val := hh.2.2.1
  have h3 : fld wd 12 6 = i.val := hh.2.2.2.1
  have h4 : fld wd 7 5 = k.val := hh.2.2.2.2.1
  have h5 : fld wd 2 5 = v.val := hh.2.2.2.2.2.1
  have e0 : Fin.ofNat 8 (wd / 2 ^ 29) = g := finOf rfl h0
  have e1 : Fin.ofNat 8 (wd / 2 ^ 19) = t := finOf rfl h1
  have e2 : Fin.ofNat 2 (wd / 2 ^ 18) = r := finOf rfl h2
  have e3 : Fin.ofNat 64 (wd / 2 ^ 12) = i := finOf rfl h3
  have e4 : Fin.ofNat 32 (wd / 2 ^ 7) = k := finOf rfl h4
  have e5 : Fin.ofNat 32 (wd / 2 ^ 2) = v := finOf rfl h5
  have hm : majorOf wd = 0x40 := hp 22 7 rfl
  have c0_2 : fld wd 0 2 = 0 := hp 0 2 rfl
  have n0_19_2 : fld wd 0 19 ≠ 2 := fld_ne (i := 1) (by decide) (hp 1 1 rfl) (by decide)
  have n0_19_3 : fld wd 0 19 ≠ 3 := fld_ne (i := 0) (by decide) (hp 0 1 rfl) (by decide)
  exact decode_word rest hlt (noLiteral hm (by decide))
    (decode_major (ne_zero_of_fld (hp 28 1 rfl) (by decide)) hm rfl
      (by rw [major40 _ _, dec40, c0_2, e0, e1, e2, e3, e4, e5]; simp [n0_19_2, n0_19_3]) hwf)
theorem twr (g : Fin 8) (t : Fin 8) (r : Fin 2) (i : Fin 64) (k : Fin 32) (v : Fin 32) : Statement (.twr g t r i k v) := by
  intro _ hwf rest
  have hw : Packed (pack 0x10000001 [(g.val, 29), (t.val, 19), (r.val, 18), (i.val, 12), (k.val, 7), (v.val, 2)]) 0x10000001 [(g.val, 29, 3), (t.val, 19, 3), (r.val, 18, 1), (i.val, 12, 6), (k.val, 7, 5), (v.val, 2, 5)]
      [(29, 3), (19, 3), (18, 1), (12, 6), (7, 5), (2, 5)] := packed (k := 0x10000001) (fs := [(g.val, 29, 3), (t.val, 19, 3), (r.val, 18, 1), (i.val, 12, 6), (k.val, 7, 5), (v.val, 2, 5)]) ⟨g.isLt, t.isLt, r.isLt, i.isLt, k.isLt, v.isLt, trivial⟩ rfl rfl rfl (by decide)
  revert hw
  show _ → decodeBytes ([pack 0x10000001 [(g.val, 29), (t.val, 19), (r.val, 18), (i.val, 12), (k.val, 7), (v.val, 2)]].flatMap bytesOfWord ++ rest) = _
  generalize pack 0x10000001 [(g.val, 29), (t.val, 19), (r.val, 18), (i.val, 12), (k.val, 7), (v.val, 2)] = wd
  intro ⟨hlt, hh, hp⟩
  have h0 : fld wd 29 3 = g.val := hh.1
  have h1 : fld wd 19 3 = t.val := hh.2.1
  have h2 : fld wd 18 1 = r.val := hh.2.2.1
  have h3 : fld wd 12 6 = i.val := hh.2.2.2.1
  have h4 : fld wd 7 5 = k.val := hh.2.2.2.2.1
  have h5 : fld wd 2 5 = v.val := hh.2.2.2.2.2.1
  have e0 : Fin.ofNat 8 (wd / 2 ^ 29) = g := finOf rfl h0
  have e1 : Fin.ofNat 8 (wd / 2 ^ 19) = t := finOf rfl h1
  have e2 : Fin.ofNat 2 (wd / 2 ^ 18) = r := finOf rfl h2
  have e3 : Fin.ofNat 64 (wd / 2 ^ 12) = i := finOf rfl h3
  have e4 : Fin.ofNat 32 (wd / 2 ^ 7) = k := finOf rfl h4
  have e5 : Fin.ofNat 32 (wd / 2 ^ 2) = v := finOf rfl h5
  have hm : majorOf wd = 0x40 := hp 22 7 rfl
  have c0_2 : fld wd 0 2 = 1 := hp 0 2 rfl
  have n0_19_2 : fld wd 0 19 ≠ 2 := fld_ne (i := 0) (by decide) (hp 0 1 rfl) (by decide)
  have n0_19_3 : fld wd 0 19 ≠ 3 := fld_ne (i := 1) (by decide) (hp 1 1 rfl) (by decide)
  exact decode_word rest hlt (noLiteral hm (by decide))
    (decode_major (ne_zero_of_fld (hp 0 1 rfl) (by decide)) hm rfl
      (by rw [major40 _ _, dec40, c0_2, e0, e1, e2, e3, e4, e5]; simp [n0_19_2, n0_19_3]) hwf)
theorem tzero (g : Fin 8) (t : Fin 8) : Statement (.tzero g t) := by
  intro _ hwf rest
  have hw : Packed (pack 0x10000002 [(g.val, 29), (t.val, 19)]) 0x10000002 [(g.val, 29, 3), (t.val, 19, 3)]
      [(29, 3), (19, 3)] := packed (k := 0x10000002) (fs := [(g.val, 29, 3), (t.val, 19, 3)]) ⟨g.isLt, t.isLt, trivial⟩ rfl rfl rfl (by decide)
  revert hw
  show _ → decodeBytes ([pack 0x10000002 [(g.val, 29), (t.val, 19)]].flatMap bytesOfWord ++ rest) = _
  generalize pack 0x10000002 [(g.val, 29), (t.val, 19)] = wd
  intro ⟨hlt, hh, hp⟩
  have h0 : fld wd 29 3 = g.val := hh.1
  have h1 : fld wd 19 3 = t.val := hh.2.1
  have e0 : Fin.ofNat 8 (wd / 2 ^ 29) = g := finOf rfl h0
  have e1 : Fin.ofNat 8 (wd / 2 ^ 19) = t := finOf rfl h1
  have hm : majorOf wd = 0x40 := hp 22 7 rfl
  have c0_2 : fld wd 0 2 = 2 := hp 0 2 rfl
  have c0_19 : fld wd 0 19 = 2 := hp 0 19 rfl
  exact decode_word rest hlt (noLiteral hm (by decide))
    (decode_major (ne_zero_of_fld (hp 1 1 rfl) (by decide)) hm rfl
      (by rw [major40 _ _, dec40, c0_2, c0_19, e0, e1]; rfl) hwf)
theorem ttrans (g : Fin 8) (t : Fin 8) : Statement (.ttrans g t) := by
  intro _ hwf rest
  have hw : Packed (pack 0x10000003 [(g.val, 29), (t.val, 19)]) 0x10000003 [(g.val, 29, 3), (t.val, 19, 3)]
      [(29, 3), (19, 3)] := packed (k := 0x10000003) (fs := [(g.val, 29, 3), (t.val, 19, 3)]) ⟨g.isLt, t.isLt, trivial⟩ rfl rfl rfl (by decide)
  revert hw
  show _ → decodeBytes ([pack 0x10000003 [(g.val, 29), (t.val, 19)]].flatMap bytesOfWord ++ rest) = _
  generalize pack 0x10000003 [(g.val, 29), (t.val, 19)] = wd
  intro ⟨hlt, hh, hp⟩
  have h0 : fld wd 29 3 = g.val := hh.1
  have h1 : fld wd 19 3 = t.val := hh.2.1
  have e0 : Fin.ofNat 8 (wd / 2 ^ 29) = g := finOf rfl h0
  have e1 : Fin.ofNat 8 (wd / 2 ^ 19) = t := finOf rfl h1
  have hm : majorOf wd = 0x40 := hp 22 7 rfl
  have c0_2 : fld wd 0 2 = 3 := hp 0 2 rfl
  have c0_19 : fld wd 0 19 = 3 := hp 0 19 rfl
  exact decode_word rest hlt (noLiteral hm (by decide))
    (decode_major (ne_zero_of_fld (hp 0 1 rfl) (by decide)) hm rfl
      (by rw [major40 _ _, dec40, c0_2, c0_19, e0, e1]; rfl) hwf)
theorem tclaim (g : Fin 8) (t : Fin 8) : Statement (.tclaim g t) := by
  intro _ hwf rest
  have hw : Packed (pack 0x10400000 [(g.val, 29), (t.val, 16)]) 0x10400000 [(g.val, 29, 3), (t.val, 16, 3)]
      [(29, 3), (16, 3)] := packed (k := 0x10400000) (fs := [(g.val, 29, 3), (t.val, 16, 3)]) ⟨g.isLt, t.isLt, trivial⟩ rfl rfl rfl (by decide)
  revert hw
  show _ → decodeBytes ([pack 0x10400000 [(g.val, 29), (t.val, 16)]].flatMap bytesOfWord ++ rest) = _
  generalize pack 0x10400000 [(g.val, 29), (t.val, 16)] = wd
  intro ⟨hlt, hh, hp⟩
  have h0 : fld wd 29 3 = g.val := hh.1
  have h1 : fld wd 16 3 = t.val := hh.2.1
  have e0 : Fin.ofNat 8 (wd / 2 ^ 29) = g := finOf rfl h0
  have e1 : Fin.ofNat 8 (wd / 2 ^ 16) = t := finOf rfl h1
  have hm : majorOf wd = 0x41 := hp 22 7 rfl
  have c0_16 : fld wd 0 16 = 0 := hp 0 16 rfl
  have c19_3 : fld wd 19 3 = 0 := hp 19 3 rfl
  exact decode_word rest hlt (noLiteral hm (by decide))
    (decode_major (ne_zero_of_fld (hp 22 1 rfl) (by decide)) hm rfl
      (by rw [major41 _ _, dec41, c0_16, c19_3, e0, e1]; rfl) hwf)
theorem tfree (g : Fin 8) (t : Fin 8) : Statement (.tfree g t) := by
  intro _ hwf rest
  have hw : Packed (pack 0x10400001 [(g.val, 29), (t.val, 16)]) 0x10400001 [(g.val, 29, 3), (t.val, 16, 3)]
      [(29, 3), (16, 3)] := packed (k := 0x10400001) (fs := [(g.val, 29, 3), (t.val, 16, 3)]) ⟨g.isLt, t.isLt, trivial⟩ rfl rfl rfl (by decide)
  revert hw
  show _ → decodeBytes ([pack 0x10400001 [(g.val, 29), (t.val, 16)]].flatMap bytesOfWord ++ rest) = _
  generalize pack 0x10400001 [(g.val, 29), (t.val, 16)] = wd
  intro ⟨hlt, hh, hp⟩
  have h0 : fld wd 29 3 = g.val := hh.1
  have h1 : fld wd 16 3 = t.val := hh.2.1
  have e0 : Fin.ofNat 8 (wd / 2 ^ 29) = g := finOf rfl h0
  have e1 : Fin.ofNat 8 (wd / 2 ^ 16) = t := finOf rfl h1
  have hm : majorOf wd = 0x41 := hp 22 7 rfl
  have c0_16 : fld wd 0 16 = 1 := hp 0 16 rfl
  have c19_3 : fld wd 19 3 = 0 := hp 19 3 rfl
  exact decode_word rest hlt (noLiteral hm (by decide))
    (decode_major (ne_zero_of_fld (hp 0 1 rfl) (by decide)) hm rfl
      (by rw [major41 _ _, dec41, c0_16, c19_3, e0, e1]; rfl) hwf)
theorem pld (g : Fin 8) (l : Fin 16) (a : Fin 64) (b : Fin 64) : Statement (.pld g l a b) := by
  intro _ hwf rest
  have hw : Packed (pack 0x10800000 [(g.val, 29), (l.val, 12), (a.val, 6), (b.val, 0)]) 0x10800000 [(g.val, 29, 3), (l.val, 12, 4), (a.val, 6, 6), (b.val, 0, 6)]
      [(29, 3), (12, 4), (6, 6), (0, 6)] := packed (k := 0x10800000) (fs := [(g.val, 29, 3), (l.val, 12, 4), (a.val, 6, 6), (b.val, 0, 6)]) ⟨g.isLt, l.isLt, a.isLt, b.isLt, trivial⟩ rfl rfl rfl (by decide)
  revert hw
  show _ → decodeBytes ([pack 0x10800000 [(g.val, 29), (l.val, 12), (a.val, 6), (b.val, 0)]].flatMap bytesOfWord ++ rest) = _
  generalize pack 0x10800000 [(g.val, 29), (l.val, 12), (a.val, 6), (b.val, 0)] = wd
  intro ⟨hlt, hh, hp⟩
  have h0 : fld wd 29 3 = g.val := hh.1
  have h1 : fld wd 12 4 = l.val := hh.2.1
  have h2 : fld wd 6 6 = a.val := hh.2.2.1
  have h3 : fld wd 0 6 = b.val := hh.2.2.2.1
  have e0 : Fin.ofNat 8 (wd / 2 ^ 29) = g := finOf rfl h0
  have e1 : Fin.ofNat 16 (wd / 2 ^ 12) = l := finOf rfl h1
  have e2 : Fin.ofNat 64 (wd / 2 ^ 6) = a := finOf rfl h2
  have e3 : Fin.ofNat 64 (wd / 2 ^ 0) = b := finOf rfl h3
  have hm : majorOf wd = 0x42 := hp 22 7 rfl
  have c16_6 : fld wd 16 6 = 0 := hp 16 6 rfl
  have c19_3 : fld wd 19 3 = 0 := hp 19 3 rfl
  exact decode_word rest hlt (noLiteral hm (by decide))
    (decode_major (ne_zero_of_fld (hp 23 1 rfl) (by decide)) hm rfl
      (by rw [major42 _ _, dec42, h1, c16_6, c19_3, e0, e1, e2, e3]; simp) hwf)
theorem pst (g : Fin 8) (k : Fin 8) (a : Fin 64) (b : Fin 64) : Statement (.pst g k a b) := by
  intro _ hwf rest
  have hw : Packed (pack 0x10880000 [(g.val, 29), (k.val, 16), (a.val, 6), (b.val, 0)]) 0x10880000 [(g.val, 29, 3), (k.val, 16, 3), (a.val, 6, 6), (b.val, 0, 6)]
      [(29, 3), (16, 3), (6, 6), (0, 6)] := packed (k := 0x10880000) (fs := [(g.val, 29, 3), (k.val, 16, 3), (a.val, 6, 6), (b.val, 0, 6)]) ⟨g.isLt, k.isLt, a.isLt, b.isLt, trivial⟩ rfl rfl rfl (by decide)
  revert hw
  show _ → decodeBytes ([pack 0x10880000 [(g.val, 29), (k.val, 16), (a.val, 6), (b.val, 0)]].flatMap bytesOfWord ++ rest) = _
  generalize pack 0x10880000 [(g.val, 29), (k.val, 16), (a.val, 6), (b.val, 0)] = wd
  intro ⟨hlt, hh, hp⟩
  have h0 : fld wd 29 3 = g.val := hh.1
  have h1 : fld wd 16 3 = k.val := hh.2.1
  have h2 : fld wd 6 6 = a.val := hh.2.2.1
  have h3 : fld wd 0 6 = b.val := hh.2.2.2.1
  have e0 : Fin.ofNat 8 (wd / 2 ^ 29) = g := finOf rfl h0
  have e1 : Fin.ofNat 8 (wd / 2 ^ 16) = k := finOf rfl h1
  have e2 : Fin.ofNat 64 (wd / 2 ^ 6) = a := finOf rfl h2
  have e3 : Fin.ofNat 64 (wd / 2 ^ 0) = b := finOf rfl h3
  have hm : majorOf wd = 0x42 := hp 22 7 rfl
  have c12_4 : fld wd 12 4 = 0 := hp 12 4 rfl
  have n16_6_0 : fld wd 16 6 ≠ 0 := fld_ne (i := 3) (by decide) (hp 19 1 rfl) (by decide)
  have n16_6_32 : fld wd 16 6 ≠ 32 := fld_ne (i := 3) (by decide) (hp 19 1 rfl) (by decide)
  have c19_3 : fld wd 19 3 = 1 := hp 19 3 rfl
  exact decode_word rest hlt (noLiteral hm (by decide))
    (decode_major (ne_zero_of_fld (hp 19 1 rfl) (by decide)) hm rfl
      (by rw [major42 _ _, dec42, c12_4, c19_3, e0, e1, e2, e3]; simp [n16_6_0, n16_6_32]) hwf)
theorem plupd (g : Fin 8) (k : Fin 8) (a : Fin 64) (b : Fin 64) : Statement (.plupd g k a b) := by
  intro _ hwf rest
  have hw : Packed (pack 0x10900000 [(g.val, 29), (k.val, 16), (a.val, 6), (b.val, 0)]) 0x10900000 [(g.val, 29, 3), (k.val, 16, 3), (a.val, 6, 6), (b.val, 0, 6)]
      [(29, 3), (16, 3), (6, 6), (0, 6)] := packed (k := 0x10900000) (fs := [(g.val, 29, 3), (k.val, 16, 3), (a.val, 6, 6), (b.val, 0, 6)]) ⟨g.isLt, k.isLt, a.isLt, b.isLt, trivial⟩ rfl rfl rfl (by decide)
  revert hw
  show _ → decodeBytes ([pack 0x10900000 [(g.val, 29), (k.val, 16), (a.val, 6), (b.val, 0)]].flatMap bytesOfWord ++ rest) = _
  generalize pack 0x10900000 [(g.val, 29), (k.val, 16), (a.val, 6), (b.val, 0)] = wd
  intro ⟨hlt, hh, hp⟩
  have h0 : fld wd 29 3 = g.val := hh.1
  have h1 : fld wd 16 3 = k.val := hh.2.1
  have h2 : fld wd 6 6 = a.val := hh.2.2.1
  have h3 : fld wd 0 6 = b.val := hh.2.2.2.1
  have e0 : Fin.ofNat 8 (wd / 2 ^ 29) = g := finOf rfl h0
  have e1 : Fin.ofNat 8 (wd / 2 ^ 16) = k := finOf rfl h1
  have e2 : Fin.ofNat 64 (wd / 2 ^ 6) = a := finOf rfl h2
  have e3 : Fin.ofNat 64 (wd / 2 ^ 0) = b := finOf rfl h3
  have hm : majorOf wd = 0x42 := hp 22 7 rfl
  have c12_4 : fld wd 12 4 = 0 := hp 12 4 rfl
  have n16_6_0 : fld wd 16 6 ≠ 0 := fld_ne (i := 4) (by decide) (hp 20 1 rfl) (by decide)
  have n16_6_32 : fld wd 16 6 ≠ 32 := fld_ne (i := 4) (by decide) (hp 20 1 rfl) (by decide)
  have c19_3 : fld wd 19 3 = 2 := hp 19 3 rfl
  exact decode_word rest hlt (noLiteral hm (by decide))
    (decode_major (ne_zero_of_fld (hp 20 1 rfl) (by decide)) hm rfl
      (by rw [major42 _ _, dec42, c12_4, c19_3, e0, e1, e2, e3]; simp [n16_6_0, n16_6_32]) hwf)
theorem plaxpy (g : Fin 8) (k : Fin 8) (a : Fin 64) (b : Fin 64) : Statement (.plaxpy g k a b) := by
  intro _ hwf rest
  have hw : Packed (pack 0x10980000 [(g.val, 29), (k.val, 16), (a.val, 6), (b.val, 0)]) 0x10980000 [(g.val, 29, 3), (k.val, 16, 3), (a.val, 6, 6), (b.val, 0, 6)]
      [(29, 3), (16, 3), (6, 6), (0, 6)] := packed (k := 0x10980000) (fs := [(g.val, 29, 3), (k.val, 16, 3), (a.val, 6, 6), (b.val, 0, 6)]) ⟨g.isLt, k.isLt, a.isLt, b.isLt, trivial⟩ rfl rfl rfl (by decide)
  revert hw
  show _ → decodeBytes ([pack 0x10980000 [(g.val, 29), (k.val, 16), (a.val, 6), (b.val, 0)]].flatMap bytesOfWord ++ rest) = _
  generalize pack 0x10980000 [(g.val, 29), (k.val, 16), (a.val, 6), (b.val, 0)] = wd
  intro ⟨hlt, hh, hp⟩
  have h0 : fld wd 29 3 = g.val := hh.1
  have h1 : fld wd 16 3 = k.val := hh.2.1
  have h2 : fld wd 6 6 = a.val := hh.2.2.1
  have h3 : fld wd 0 6 = b.val := hh.2.2.2.1
  have e0 : Fin.ofNat 8 (wd / 2 ^ 29) = g := finOf rfl h0
  have e1 : Fin.ofNat 8 (wd / 2 ^ 16) = k := finOf rfl h1
  have e2 : Fin.ofNat 64 (wd / 2 ^ 6) = a := finOf rfl h2
  have e3 : Fin.ofNat 64 (wd / 2 ^ 0) = b := finOf rfl h3
  have hm : majorOf wd = 0x42 := hp 22 7 rfl
  have c12_4 : fld wd 12 4 = 0 := hp 12 4 rfl
  have n16_6_0 : fld wd 16 6 ≠ 0 := fld_ne (i := 3) (by decide) (hp 19 1 rfl) (by decide)
  have n16_6_32 : fld wd 16 6 ≠ 32 := fld_ne (i := 3) (by decide) (hp 19 1 rfl) (by decide)
  have c19_3 : fld wd 19 3 = 3 := hp 19 3 rfl
  exact decode_word rest hlt (noLiteral hm (by decide))
    (decode_major (ne_zero_of_fld (hp 19 1 rfl) (by decide)) hm rfl
      (by rw [major42 _ _, dec42, c12_4, c19_3, e0, e1, e2, e3]; simp [n16_6_0, n16_6_32]) hwf)
theorem plhdr (g : Fin 8) (l : Fin 16) (a : Fin 64) (b : Fin 64) : Statement (.plhdr g l a b) := by
  intro _ hwf rest
  have hw : Packed (pack 0x10A00000 [(g.val, 29), (l.val, 12), (a.val, 6), (b.val, 0)]) 0x10A00000 [(g.val, 29, 3), (l.val, 12, 4), (a.val, 6, 6), (b.val, 0, 6)]
      [(29, 3), (12, 4), (6, 6), (0, 6)] := packed (k := 0x10A00000) (fs := [(g.val, 29, 3), (l.val, 12, 4), (a.val, 6, 6), (b.val, 0, 6)]) ⟨g.isLt, l.isLt, a.isLt, b.isLt, trivial⟩ rfl rfl rfl (by decide)
  revert hw
  show _ → decodeBytes ([pack 0x10A00000 [(g.val, 29), (l.val, 12), (a.val, 6), (b.val, 0)]].flatMap bytesOfWord ++ rest) = _
  generalize pack 0x10A00000 [(g.val, 29), (l.val, 12), (a.val, 6), (b.val, 0)] = wd
  intro ⟨hlt, hh, hp⟩
  have h0 : fld wd 29 3 = g.val := hh.1
  have h1 : fld wd 12 4 = l.val := hh.2.1
  have h2 : fld wd 6 6 = a.val := hh.2.2.1
  have h3 : fld wd 0 6 = b.val := hh.2.2.2.1
  have e0 : Fin.ofNat 8 (wd / 2 ^ 29) = g := finOf rfl h0
  have e1 : Fin.ofNat 16 (wd / 2 ^ 12) = l := finOf rfl h1
  have e2 : Fin.ofNat 64 (wd / 2 ^ 6) = a := finOf rfl h2
  have e3 : Fin.ofNat 64 (wd / 2 ^ 0) = b := finOf rfl h3
  have hm : majorOf wd = 0x42 := hp 22 7 rfl
  have c16_6 : fld wd 16 6 = 32 := hp 16 6 rfl
  have c19_3 : fld wd 19 3 = 4 := hp 19 3 rfl
  exact decode_word rest hlt (noLiteral hm (by decide))
    (decode_major (ne_zero_of_fld (hp 21 1 rfl) (by decide)) hm rfl
      (by rw [major42 _ _, dec42, h1, c16_6, c19_3, e0, e1, e2, e3]; simp) hwf)
theorem mlease (g : Fin 8) (k : Fin 8) (a : Fin 64) (b : Fin 64) : Statement (.mlease g k a b) := by
  intro _ hwf rest
  have hw : Packed (pack 0x12000000 [(g.val, 29), (k.val, 16), (a.val, 6), (b.val, 0)]) 0x12000000 [(g.val, 29, 3), (k.val, 16, 3), (a.val, 6, 6), (b.val, 0, 6)]
      [(29, 3), (16, 3), (6, 6), (0, 6)] := packed (k := 0x12000000) (fs := [(g.val, 29, 3), (k.val, 16, 3), (a.val, 6, 6), (b.val, 0, 6)]) ⟨g.isLt, k.isLt, a.isLt, b.isLt, trivial⟩ rfl rfl rfl (by decide)
  revert hw
  show _ → decodeBytes ([pack 0x12000000 [(g.val, 29), (k.val, 16), (a.val, 6), (b.val, 0)]].flatMap bytesOfWord ++ rest) = _
  generalize pack 0x12000000 [(g.val, 29), (k.val, 16), (a.val, 6), (b.val, 0)] = wd
  intro ⟨hlt, hh, hp⟩
  have h0 : fld wd 29 3 = g.val := hh.1
  have h1 : fld wd 16 3 = k.val := hh.2.1
  have h2 : fld wd 6 6 = a.val := hh.2.2.1
  have h3 : fld wd 0 6 = b.val := hh.2.2.2.1
  have e0 : Fin.ofNat 8 (wd / 2 ^ 29) = g := finOf rfl h0
  have e1 : Fin.ofNat 8 (wd / 2 ^ 16) = k := finOf rfl h1
  have e2 : Fin.ofNat 64 (wd / 2 ^ 6) = a := finOf rfl h2
  have e3 : Fin.ofNat 64 (wd / 2 ^ 0) = b := finOf rfl h3
  have hm : majorOf wd = 0x48 := hp 22 7 rfl
  have n0_22_524288 : fld wd 0 22 ≠ 524288 := fld_ne (i := 19) (by decide) (hp 19 1 rfl) (by decide)
  have c12_4 : fld wd 12 4 = 0 := hp 12 4 rfl
  have c19_3 : fld wd 19 3 = 0 := hp 19 3 rfl
  exact decode_word rest hlt (noLiteral hm (by decide))
    (decode_major (ne_zero_of_fld (hp 25 1 rfl) (by decide)) hm rfl
      (by rw [major48 _ _, dec48, c12_4, c19_3, e0, e1, e2, e3]; simp [n0_22_524288]) hwf)
theorem mfree (g : Fin 8) : Statement (.mfree g) := by
  intro _ hwf rest
  have hw : Packed (pack 0x12080000 [(g.val, 29)]) 0x12080000 [(g.val, 29, 3)]
      [(29, 3)] := packed (k := 0x12080000) (fs := [(g.val, 29, 3)]) ⟨g.isLt, trivial⟩ rfl rfl rfl (by decide)
  revert hw
  show _ → decodeBytes ([pack 0x12080000 [(g.val, 29)]].flatMap bytesOfWord ++ rest) = _
  generalize pack 0x12080000 [(g.val, 29)] = wd
  intro ⟨hlt, hh, hp⟩
  have h0 : fld wd 29 3 = g.val := hh.1
  have e0 : Fin.ofNat 8 (wd / 2 ^ 29) = g := finOf rfl h0
  have hm : majorOf wd = 0x48 := hp 22 7 rfl
  have c0_22 : fld wd 0 22 = 524288 := hp 0 22 rfl
  have c12_4 : fld wd 12 4 = 0 := hp 12 4 rfl
  have c19_3 : fld wd 19 3 = 1 := hp 19 3 rfl
  exact decode_word rest hlt (noLiteral hm (by decide))
    (decode_major (ne_zero_of_fld (hp 19 1 rfl) (by decide)) hm rfl
      (by rw [major48 _ _, dec48, c0_22, c12_4, c19_3, e0]; rfl) hwf)
theorem mgeo (g : Fin 8) (d : Fin 64) (a : Fin 64) : Statement (.mgeo g d a) := by
  intro _ hwf rest
  have hw : Packed (pack 0x12400000 [(g.val, 29), (d.val, 16), (a.val, 10)]) 0x12400000 [(g.val, 29, 3), (d.val, 16, 6), (a.val, 10, 6)]
      [(29, 3), (16, 6), (10, 6)] := packed (k := 0x12400000) (fs := [(g.val, 29, 3), (d.val, 16, 6), (a.val, 10, 6)]) ⟨g.isLt, d.isLt, a.isLt, trivial⟩ rfl rfl rfl (by decide)
  revert hw
  show _ → decodeBytes ([pack 0x12400000 [(g.val, 29), (d.val, 16), (a.val, 10)]].flatMap bytesOfWord ++ rest) = _
  generalize pack 0x12400000 [(g.val, 29), (d.val, 16), (a.val, 10)] = wd
  intro ⟨hlt, hh, hp⟩
  have h0 : fld wd 29 3 = g.val := hh.1
  have h1 : fld wd 16 6 = d.val := hh.2.1
  have h2 : fld wd 10 6 = a.val := hh.2.2.1
  have e0 : Fin.ofNat 8 (wd / 2 ^ 29) = g := finOf rfl h0
  have e1 : Fin.ofNat 64 (wd / 2 ^ 16) = d := finOf rfl h1
  have e2 : Fin.ofNat 64 (wd / 2 ^ 10) = a := finOf rfl h2
  have hm : majorOf wd = 0x49 := hp 22 7 rfl
  have c0_10 : fld wd 0 10 = 0 := hp 0 10 rfl
  have n0_16_3 : fld wd 0 16 ≠ 3 := fld_ne (i := 0) (by decide) (hp 0 1 rfl) (by decide)
  exact decode_word rest hlt (noLiteral hm (by decide))
    (decode_major (ne_zero_of_fld (hp 22 1 rfl) (by decide)) hm rfl
      (by rw [major49 _ _, dec49, c0_10, e0, e1, e2]; simp [n0_16_3]) hwf)
theorem mgeor (g : Fin 8) (d : Fin 64) (a : Fin 64) : Statement (.mgeor g d a) := by
  intro _ hwf rest
  have hw : Packed (pack 0x12400001 [(g.val, 29), (d.val, 16), (a.val, 10)]) 0x12400001 [(g.val, 29, 3), (d.val, 16, 6), (a.val, 10, 6)]
      [(29, 3), (16, 6), (10, 6)] := packed (k := 0x12400001) (fs := [(g.val, 29, 3), (d.val, 16, 6), (a.val, 10, 6)]) ⟨g.isLt, d.isLt, a.isLt, trivial⟩ rfl rfl rfl (by decide)
  revert hw
  show _ → decodeBytes ([pack 0x12400001 [(g.val, 29), (d.val, 16), (a.val, 10)]].flatMap bytesOfWord ++ rest) = _
  generalize pack 0x12400001 [(g.val, 29), (d.val, 16), (a.val, 10)] = wd
  intro ⟨hlt, hh, hp⟩
  have h0 : fld wd 29 3 = g.val := hh.1
  have h1 : fld wd 16 6 = d.val := hh.2.1
  have h2 : fld wd 10 6 = a.val := hh.2.2.1
  have e0 : Fin.ofNat 8 (wd / 2 ^ 29) = g := finOf rfl h0
  have e1 : Fin.ofNat 64 (wd / 2 ^ 16) = d := finOf rfl h1
  have e2 : Fin.ofNat 64 (wd / 2 ^ 10) = a := finOf rfl h2
  have hm : majorOf wd = 0x49 := hp 22 7 rfl
  have c0_10 : fld wd 0 10 = 1 := hp 0 10 rfl
  have n0_16_3 : fld wd 0 16 ≠ 3 := fld_ne (i := 1) (by decide) (hp 1 1 rfl) (by decide)
  exact decode_word rest hlt (noLiteral hm (by decide))
    (decode_major (ne_zero_of_fld (hp 0 1 rfl) (by decide)) hm rfl
      (by rw [major49 _ _, dec49, c0_10, e0, e1, e2]; simp [n0_16_3]) hwf)
theorem mstat (g : Fin 8) (d : Fin 64) (a : Fin 64) : Statement (.mstat g d a) := by
  intro _ hwf rest
  have hw : Packed (pack 0x12400002 [(g.val, 29), (d.val, 16), (a.val, 10)]) 0x12400002 [(g.val, 29, 3), (d.val, 16, 6), (a.val, 10, 6)]
      [(29, 3), (16, 6), (10, 6)] := packed (k := 0x12400002) (fs := [(g.val, 29, 3), (d.val, 16, 6), (a.val, 10, 6)]) ⟨g.isLt, d.isLt, a.isLt, trivial⟩ rfl rfl rfl (by decide)
  revert hw
  show _ → decodeBytes ([pack 0x12400002 [(g.val, 29), (d.val, 16), (a.val, 10)]].flatMap bytesOfWord ++ rest) = _
  generalize pack 0x12400002 [(g.val, 29), (d.val, 16), (a.val, 10)] = wd
  intro ⟨hlt, hh, hp⟩
  have h0 : fld wd 29 3 = g.val := hh.1
  have h1 : fld wd 16 6 = d.val := hh.2.1
  have h2 : fld wd 10 6 = a.val := hh.2.2.1
  have e0 : Fin.ofNat 8 (wd / 2 ^ 29) = g := finOf rfl h0
  have e1 : Fin.ofNat 64 (wd / 2 ^ 16) = d := finOf rfl h1
  have e2 : Fin.ofNat 64 (wd / 2 ^ 10) = a := finOf rfl h2
  have hm : majorOf wd = 0x49 := hp 22 7 rfl
  have c0_10 : fld wd 0 10 = 2 := hp 0 10 rfl
  have n0_16_3 : fld wd 0 16 ≠ 3 := fld_ne (i := 0) (by decide) (hp 0 1 rfl) (by decide)
  exact decode_word rest hlt (noLiteral hm (by decide))
    (decode_major (ne_zero_of_fld (hp 1 1 rfl) (by decide)) hm rfl
      (by rw [major49 _ _, dec49, c0_10, e0, e1, e2]; simp [n0_16_3]) hwf)
theorem mzero (g : Fin 8) (d : Fin 8) : Statement (.mzero g d) := by
  intro _ hwf rest
  have hw : Packed (pack 0x12400003 [(g.val, 29), (d.val, 16)]) 0x12400003 [(g.val, 29, 3), (d.val, 16, 3)]
      [(29, 3), (16, 3)] := packed (k := 0x12400003) (fs := [(g.val, 29, 3), (d.val, 16, 3)]) ⟨g.isLt, d.isLt, trivial⟩ rfl rfl rfl (by decide)
  revert hw
  show _ → decodeBytes ([pack 0x12400003 [(g.val, 29), (d.val, 16)]].flatMap bytesOfWord ++ rest) = _
  generalize pack 0x12400003 [(g.val, 29), (d.val, 16)] = wd
  intro ⟨hlt, hh, hp⟩
  have h0 : fld wd 29 3 = g.val := hh.1
  have h1 : fld wd 16 3 = d.val := hh.2.1
  have e0 : Fin.ofNat 8 (wd / 2 ^ 29) = g := finOf rfl h0
  have e1 : Fin.ofNat 8 (wd / 2 ^ 16) = d := finOf rfl h1
  have hm : majorOf wd = 0x49 := hp 22 7 rfl
  have c0_10 : fld wd 0 10 = 3 := hp 0 10 rfl
  have c0_16 : fld wd 0 16 = 3 := hp 0 16 rfl
  have c19_3 : fld wd 19 3 = 0 := hp 19 3 rfl
  exact decode_word rest hlt (noLiteral hm (by decide))
    (decode_major (ne_zero_of_fld (hp 0 1 rfl) (by decide)) hm rfl
      (by rw [major49 _ _, dec49, c0_10, c0_16, c19_3, e0, e1]; rfl) hwf)
theorem mldb (g : Fin 8) (k : Fin 8) (a : Fin 64) (b : Fin 64) : Statement (.mldb g k a b) := by
  intro _ hwf rest
  have hw : Packed (pack 0x12800000 [(g.val, 29), (k.val, 16), (a.val, 6), (b.val, 0)]) 0x12800000 [(g.val, 29, 3), (k.val, 16, 3), (a.val, 6, 6), (b.val, 0, 6)]
      [(29, 3), (16, 3), (6, 6), (0, 6)] := packed (k := 0x12800000) (fs := [(g.val, 29, 3), (k.val, 16, 3), (a.val, 6, 6), (b.val, 0, 6)]) ⟨g.isLt, k.isLt, a.isLt, b.isLt, trivial⟩ rfl rfl rfl (by decide)
  revert hw
  show _ → decodeBytes ([pack 0x12800000 [(g.val, 29), (k.val, 16), (a.val, 6), (b.val, 0)]].flatMap bytesOfWord ++ rest) = _
  generalize pack 0x12800000 [(g.val, 29), (k.val, 16), (a.val, 6), (b.val, 0)] = wd
  intro ⟨hlt, hh, hp⟩
  have h0 : fld wd 29 3 = g.val := hh.1
  have h1 : fld wd 16 3 = k.val := hh.2.1
  have h2 : fld wd 6 6 = a.val := hh.2.2.1
  have h3 : fld wd 0 6 = b.val := hh.2.2.2.1
  have e0 : Fin.ofNat 8 (wd / 2 ^ 29) = g := finOf rfl h0
  have e1 : Fin.ofNat 8 (wd / 2 ^ 16) = k := finOf rfl h1
  have e2 : Fin.ofNat 64 (wd / 2 ^ 6) = a := finOf rfl h2
  have e3 : Fin.ofNat 64 (wd / 2 ^ 0) = b := finOf rfl h3
  have hm : majorOf wd = 0x4A := hp 22 7 rfl
  have c12_4 : fld wd 12 4 = 0 := hp 12 4 rfl
  have c19_3 : fld wd 19 3 = 0 := hp 19 3 rfl
  exact decode_word rest hlt (noLiteral hm (by decide))
    (decode_major (ne_zero_of_fld (hp 23 1 rfl) (by decide)) hm rfl
      (by rw [major4A _ _, dec4A, c12_4, c19_3, e0, e1, e2, e3]; rfl) hwf)
theorem mgath (g : Fin 8) (k : Fin 8) (a : Fin 64) (b : Fin 64) : Statement (.mgath g k a b) := by
  intro _ hwf rest
  have hw : Packed (pack 0x12880000 [(g.val, 29), (k.val, 16), (a.val, 6), (b.val, 0)]) 0x12880000 [(g.val, 29, 3), (k.val, 16, 3), (a.val, 6, 6), (b.val, 0, 6)]
      [(29, 3), (16, 3), (6, 6), (0, 6)] := packed (k := 0x12880000) (fs := [(g.val, 29, 3), (k.val, 16, 3), (a.val, 6, 6), (b.val, 0, 6)]) ⟨g.isLt, k.isLt, a.isLt, b.isLt, trivial⟩ rfl rfl rfl (by decide)
  revert hw
  show _ → decodeBytes ([pack 0x12880000 [(g.val, 29), (k.val, 16), (a.val, 6), (b.val, 0)]].flatMap bytesOfWord ++ rest) = _
  generalize pack 0x12880000 [(g.val, 29), (k.val, 16), (a.val, 6), (b.val, 0)] = wd
  intro ⟨hlt, hh, hp⟩
  have h0 : fld wd 29 3 = g.val := hh.1
  have h1 : fld wd 16 3 = k.val := hh.2.1
  have h2 : fld wd 6 6 = a.val := hh.2.2.1
  have h3 : fld wd 0 6 = b.val := hh.2.2.2.1
  have e0 : Fin.ofNat 8 (wd / 2 ^ 29) = g := finOf rfl h0
  have e1 : Fin.ofNat 8 (wd / 2 ^ 16) = k := finOf rfl h1
  have e2 : Fin.ofNat 64 (wd / 2 ^ 6) = a := finOf rfl h2
  have e3 : Fin.ofNat 64 (wd / 2 ^ 0) = b := finOf rfl h3
  have hm : majorOf wd = 0x4A := hp 22 7 rfl
  have c12_4 : fld wd 12 4 = 0 := hp 12 4 rfl
  have c19_3 : fld wd 19 3 = 1 := hp 19 3 rfl
  exact decode_word rest hlt (noLiteral hm (by decide))
    (decode_major (ne_zero_of_fld (hp 19 1 rfl) (by decide)) hm rfl
      (by rw [major4A _ _, dec4A, c12_4, c19_3, e0, e1, e2, e3]; rfl) hwf)
theorem mrd (g : Fin 8) (k : Fin 8) (l : Fin 16) (a : Fin 64) (b : Fin 64) : Statement (.mrd g k l a b) := by
  intro _ hwf rest
  have hw : Packed (pack 0x12900000 [(g.val, 29), (k.val, 16), (l.val, 12), (a.val, 6), (b.val, 0)]) 0x12900000 [(g.val, 29, 3), (k.val, 16, 3), (l.val, 12, 4), (a.val, 6, 6), (b.val, 0, 6)]
      [(29, 3), (16, 3), (12, 4), (6, 6), (0, 6)] := packed (k := 0x12900000) (fs := [(g.val, 29, 3), (k.val, 16, 3), (l.val, 12, 4), (a.val, 6, 6), (b.val, 0, 6)]) ⟨g.isLt, k.isLt, l.isLt, a.isLt, b.isLt, trivial⟩ rfl rfl rfl (by decide)
  revert hw
  show _ → decodeBytes ([pack 0x12900000 [(g.val, 29), (k.val, 16), (l.val, 12), (a.val, 6), (b.val, 0)]].flatMap bytesOfWord ++ rest) = _
  generalize pack 0x12900000 [(g.val, 29), (k.val, 16), (l.val, 12), (a.val, 6), (b.val, 0)] = wd
  intro ⟨hlt, hh, hp⟩
  have h0 : fld wd 29 3 = g.val := hh.1
  have h1 : fld wd 16 3 = k.val := hh.2.1
  have h2 : fld wd 12 4 = l.val := hh.2.2.1
  have h3 : fld wd 6 6 = a.val := hh.2.2.2.1
  have h4 : fld wd 0 6 = b.val := hh.2.2.2.2.1
  have e0 : Fin.ofNat 8 (wd / 2 ^ 29) = g := finOf rfl h0
  have e1 : Fin.ofNat 8 (wd / 2 ^ 16) = k := finOf rfl h1
  have e2 : Fin.ofNat 16 (wd / 2 ^ 12) = l := finOf rfl h2
  have e3 : Fin.ofNat 64 (wd / 2 ^ 6) = a := finOf rfl h3
  have e4 : Fin.ofNat 64 (wd / 2 ^ 0) = b := finOf rfl h4
  have hm : majorOf wd = 0x4A := hp 22 7 rfl
  have c19_3 : fld wd 19 3 = 2 := hp 19 3 rfl
  exact decode_word rest hlt (noLiteral hm (by decide))
    (decode_major (ne_zero_of_fld (hp 20 1 rfl) (by decide)) hm rfl
      (by rw [major4A _ _, dec4A, h2, c19_3, e0, e1, e2, e3, e4]; simp) hwf)
theorem mma (g : Fin 8) (x : Fin 32) (a : Fin 8) (h : Fin 2) (w : Fin 8) (s : Fin 64) : Statement (.mma g x a h w s) := by
  intro _ hwf rest
  have hw : Packed (pack 0x18000000 [(g.val, 29), (x.val, 22), (a.val, 19), (h.val, 15), (w.val, 12), (s.val, 6)]) 0x18000000 [(g.val, 29, 3), (x.val, 22, 5), (a.val, 19, 3), (h.val, 15, 1), (w.val, 12, 3), (s.val, 6, 6)]
      [(29, 3), (22, 5), (19, 3), (15, 1), (12, 3), (6, 6)] := packed (k := 0x18000000) (fs := [(g.val, 29, 3), (x.val, 22, 5), (a.val, 19, 3), (h.val, 15, 1), (w.val, 12, 3), (s.val, 6, 6)]) ⟨g.isLt, x.isLt, a.isLt, h.isLt, w.isLt, s.isLt, trivial⟩ rfl rfl rfl (by decide)
  revert hw
  show _ → decodeBytes ([pack 0x18000000 [(g.val, 29), (x.val, 22), (a.val, 19), (h.val, 15), (w.val, 12), (s.val, 6)]].flatMap bytesOfWord ++ rest) = _
  generalize pack 0x18000000 [(g.val, 29), (x.val, 22), (a.val, 19), (h.val, 15), (w.val, 12), (s.val, 6)] = wd
  intro ⟨hlt, hh, hp⟩
  have h0 : fld wd 29 3 = g.val := hh.1
  have h1 : fld wd 22 5 = x.val := hh.2.1
  have h2 : fld wd 19 3 = a.val := hh.2.2.1
  have h3 : fld wd 15 1 = h.val := hh.2.2.2.1
  have h4 : fld wd 12 3 = w.val := hh.2.2.2.2.1
  have h5 : fld wd 6 6 = s.val := hh.2.2.2.2.2.1
  have e0 : Fin.ofNat 8 (wd / 2 ^ 29) = g := finOf rfl h0
  have e1 : Fin.ofNat 32 (wd / 2 ^ 22) = x := finOf rfl h1
  have e2 : Fin.ofNat 8 (wd / 2 ^ 19) = a := finOf rfl h2
  have e3 : Fin.ofNat 2 (wd / 2 ^ 15) = h := finOf rfl h3
  have e4 : Fin.ofNat 8 (wd / 2 ^ 12) = w := finOf rfl h4
  have e5 : Fin.ofNat 64 (wd / 2 ^ 6) = s := finOf rfl h5
  have hm : majorOf wd = x.val + 2 ^ 5 * 3 := by
    rw [majorOf, fld_split wd 22 5 2, h1, hp 27 2 rfl]; rfl
  have hv := x.isLt
  have c0_6 : fld wd 0 6 = 0 := hp 0 6 rfl
  have c16_3 : fld wd 16 3 = 0 := hp 16 3 rfl
  exact decode_word rest hlt (noLiteral hm (by omega))
    (decode_major (ne_zero_of_fld (hp 27 1 rfl) (by decide)) hm (unassigned60 (by omega))
      (by rw [major60 _ _ _ (by omega) (by omega), dec60, c0_6, c16_3, e0, e1, e2, e3, e4, e5]; rfl) hwf)
theorem mmaSet (g : Fin 8) (x : Fin 32) (a : Fin 8) (h : Fin 2) (w : Fin 8) (s : Fin 64) : Statement (.mmaSet g x a h w s) := by
  intro _ hwf rest
  have hw : Packed (pack 0x18000008 [(g.val, 29), (x.val, 22), (a.val, 19), (h.val, 15), (w.val, 12), (s.val, 6)]) 0x18000008 [(g.val, 29, 3), (x.val, 22, 5), (a.val, 19, 3), (h.val, 15, 1), (w.val, 12, 3), (s.val, 6, 6)]
      [(29, 3), (22, 5), (19, 3), (15, 1), (12, 3), (6, 6)] := packed (k := 0x18000008) (fs := [(g.val, 29, 3), (x.val, 22, 5), (a.val, 19, 3), (h.val, 15, 1), (w.val, 12, 3), (s.val, 6, 6)]) ⟨g.isLt, x.isLt, a.isLt, h.isLt, w.isLt, s.isLt, trivial⟩ rfl rfl rfl (by decide)
  revert hw
  show _ → decodeBytes ([pack 0x18000008 [(g.val, 29), (x.val, 22), (a.val, 19), (h.val, 15), (w.val, 12), (s.val, 6)]].flatMap bytesOfWord ++ rest) = _
  generalize pack 0x18000008 [(g.val, 29), (x.val, 22), (a.val, 19), (h.val, 15), (w.val, 12), (s.val, 6)] = wd
  intro ⟨hlt, hh, hp⟩
  have h0 : fld wd 29 3 = g.val := hh.1
  have h1 : fld wd 22 5 = x.val := hh.2.1
  have h2 : fld wd 19 3 = a.val := hh.2.2.1
  have h3 : fld wd 15 1 = h.val := hh.2.2.2.1
  have h4 : fld wd 12 3 = w.val := hh.2.2.2.2.1
  have h5 : fld wd 6 6 = s.val := hh.2.2.2.2.2.1
  have e0 : Fin.ofNat 8 (wd / 2 ^ 29) = g := finOf rfl h0
  have e1 : Fin.ofNat 32 (wd / 2 ^ 22) = x := finOf rfl h1
  have e2 : Fin.ofNat 8 (wd / 2 ^ 19) = a := finOf rfl h2
  have e3 : Fin.ofNat 2 (wd / 2 ^ 15) = h := finOf rfl h3
  have e4 : Fin.ofNat 8 (wd / 2 ^ 12) = w := finOf rfl h4
  have e5 : Fin.ofNat 64 (wd / 2 ^ 6) = s := finOf rfl h5
  have hm : majorOf wd = x.val + 2 ^ 5 * 3 := by
    rw [majorOf, fld_split wd 22 5 2, h1, hp 27 2 rfl]; rfl
  have hv := x.isLt
  have c0_6 : fld wd 0 6 = 8 := hp 0 6 rfl
  have c16_3 : fld wd 16 3 = 0 := hp 16 3 rfl
  exact decode_word rest hlt (noLiteral hm (by omega))
    (decode_major (ne_zero_of_fld (hp 3 1 rfl) (by decide)) hm (unassigned60 (by omega))
      (by rw [major60 _ _ _ (by omega) (by omega), dec60, c0_6, c16_3, e0, e1, e2, e3, e4, e5]; rfl) hwf)
theorem mmaSub (g : Fin 8) (x : Fin 32) (a : Fin 8) (h : Fin 2) (w : Fin 8) (s : Fin 64) : Statement (.mmaSub g x a h w s) := by
  intro _ hwf rest
  have hw : Packed (pack 0x18000010 [(g.val, 29), (x.val, 22), (a.val, 19), (h.val, 15), (w.val, 12), (s.val, 6)]) 0x18000010 [(g.val, 29, 3), (x.val, 22, 5), (a.val, 19, 3), (h.val, 15, 1), (w.val, 12, 3), (s.val, 6, 6)]
      [(29, 3), (22, 5), (19, 3), (15, 1), (12, 3), (6, 6)] := packed (k := 0x18000010) (fs := [(g.val, 29, 3), (x.val, 22, 5), (a.val, 19, 3), (h.val, 15, 1), (w.val, 12, 3), (s.val, 6, 6)]) ⟨g.isLt, x.isLt, a.isLt, h.isLt, w.isLt, s.isLt, trivial⟩ rfl rfl rfl (by decide)
  revert hw
  show _ → decodeBytes ([pack 0x18000010 [(g.val, 29), (x.val, 22), (a.val, 19), (h.val, 15), (w.val, 12), (s.val, 6)]].flatMap bytesOfWord ++ rest) = _
  generalize pack 0x18000010 [(g.val, 29), (x.val, 22), (a.val, 19), (h.val, 15), (w.val, 12), (s.val, 6)] = wd
  intro ⟨hlt, hh, hp⟩
  have h0 : fld wd 29 3 = g.val := hh.1
  have h1 : fld wd 22 5 = x.val := hh.2.1
  have h2 : fld wd 19 3 = a.val := hh.2.2.1
  have h3 : fld wd 15 1 = h.val := hh.2.2.2.1
  have h4 : fld wd 12 3 = w.val := hh.2.2.2.2.1
  have h5 : fld wd 6 6 = s.val := hh.2.2.2.2.2.1
  have e0 : Fin.ofNat 8 (wd / 2 ^ 29) = g := finOf rfl h0
  have e1 : Fin.ofNat 32 (wd / 2 ^ 22) = x := finOf rfl h1
  have e2 : Fin.ofNat 8 (wd / 2 ^ 19) = a := finOf rfl h2
  have e3 : Fin.ofNat 2 (wd / 2 ^ 15) = h := finOf rfl h3
  have e4 : Fin.ofNat 8 (wd / 2 ^ 12) = w := finOf rfl h4
  have e5 : Fin.ofNat 64 (wd / 2 ^ 6) = s := finOf rfl h5
  have hm : majorOf wd = x.val + 2 ^ 5 * 3 := by
    rw [majorOf, fld_split wd 22 5 2, h1, hp 27 2 rfl]; rfl
  have hv := x.isLt
  have c0_6 : fld wd 0 6 = 16 := hp 0 6 rfl
  have c16_3 : fld wd 16 3 = 0 := hp 16 3 rfl
  exact decode_word rest hlt (noLiteral hm (by omega))
    (decode_major (ne_zero_of_fld (hp 4 1 rfl) (by decide)) hm (unassigned60 (by omega))
      (by rw [major60 _ _ _ (by omega) (by omega), dec60, c0_6, c16_3, e0, e1, e2, e3, e4, e5]; rfl) hwf)
theorem mrun (g : Fin 8) (x : Fin 32) (a : Fin 8) (h : Fin 2) (w : Fin 8) (s : Fin 64) : Statement (.mrun g x a h w s) := by
  intro _ hwf rest
  have hw : Packed (pack 0x18000018 [(g.val, 29), (x.val, 22), (a.val, 19), (h.val, 15), (w.val, 12), (s.val, 6)]) 0x18000018 [(g.val, 29, 3), (x.val, 22, 5), (a.val, 19, 3), (h.val, 15, 1), (w.val, 12, 3), (s.val, 6, 6)]
      [(29, 3), (22, 5), (19, 3), (15, 1), (12, 3), (6, 6)] := packed (k := 0x18000018) (fs := [(g.val, 29, 3), (x.val, 22, 5), (a.val, 19, 3), (h.val, 15, 1), (w.val, 12, 3), (s.val, 6, 6)]) ⟨g.isLt, x.isLt, a.isLt, h.isLt, w.isLt, s.isLt, trivial⟩ rfl rfl rfl (by decide)
  revert hw
  show _ → decodeBytes ([pack 0x18000018 [(g.val, 29), (x.val, 22), (a.val, 19), (h.val, 15), (w.val, 12), (s.val, 6)]].flatMap bytesOfWord ++ rest) = _
  generalize pack 0x18000018 [(g.val, 29), (x.val, 22), (a.val, 19), (h.val, 15), (w.val, 12), (s.val, 6)] = wd
  intro ⟨hlt, hh, hp⟩
  have h0 : fld wd 29 3 = g.val := hh.1
  have h1 : fld wd 22 5 = x.val := hh.2.1
  have h2 : fld wd 19 3 = a.val := hh.2.2.1
  have h3 : fld wd 15 1 = h.val := hh.2.2.2.1
  have h4 : fld wd 12 3 = w.val := hh.2.2.2.2.1
  have h5 : fld wd 6 6 = s.val := hh.2.2.2.2.2.1
  have e0 : Fin.ofNat 8 (wd / 2 ^ 29) = g := finOf rfl h0
  have e1 : Fin.ofNat 32 (wd / 2 ^ 22) = x := finOf rfl h1
  have e2 : Fin.ofNat 8 (wd / 2 ^ 19) = a := finOf rfl h2
  have e3 : Fin.ofNat 2 (wd / 2 ^ 15) = h := finOf rfl h3
  have e4 : Fin.ofNat 8 (wd / 2 ^ 12) = w := finOf rfl h4
  have e5 : Fin.ofNat 64 (wd / 2 ^ 6) = s := finOf rfl h5
  have hm : majorOf wd = x.val + 2 ^ 5 * 3 := by
    rw [majorOf, fld_split wd 22 5 2, h1, hp 27 2 rfl]; rfl
  have hv := x.isLt
  have c0_6 : fld wd 0 6 = 24 := hp 0 6 rfl
  have c16_3 : fld wd 16 3 = 0 := hp 16 3 rfl
  exact decode_word rest hlt (noLiteral hm (by omega))
    (decode_major (ne_zero_of_fld (hp 3 1 rfl) (by decide)) hm (unassigned60 (by omega))
      (by rw [major60 _ _ _ (by omega) (by omega), dec60, c0_6, c16_3, e0, e1, e2, e3, e4, e5]; rfl) hwf)
theorem mrunSet (g : Fin 8) (x : Fin 32) (a : Fin 8) (h : Fin 2) (w : Fin 8) (s : Fin 64) : Statement (.mrunSet g x a h w s) := by
  intro _ hwf rest
  have hw : Packed (pack 0x18000020 [(g.val, 29), (x.val, 22), (a.val, 19), (h.val, 15), (w.val, 12), (s.val, 6)]) 0x18000020 [(g.val, 29, 3), (x.val, 22, 5), (a.val, 19, 3), (h.val, 15, 1), (w.val, 12, 3), (s.val, 6, 6)]
      [(29, 3), (22, 5), (19, 3), (15, 1), (12, 3), (6, 6)] := packed (k := 0x18000020) (fs := [(g.val, 29, 3), (x.val, 22, 5), (a.val, 19, 3), (h.val, 15, 1), (w.val, 12, 3), (s.val, 6, 6)]) ⟨g.isLt, x.isLt, a.isLt, h.isLt, w.isLt, s.isLt, trivial⟩ rfl rfl rfl (by decide)
  revert hw
  show _ → decodeBytes ([pack 0x18000020 [(g.val, 29), (x.val, 22), (a.val, 19), (h.val, 15), (w.val, 12), (s.val, 6)]].flatMap bytesOfWord ++ rest) = _
  generalize pack 0x18000020 [(g.val, 29), (x.val, 22), (a.val, 19), (h.val, 15), (w.val, 12), (s.val, 6)] = wd
  intro ⟨hlt, hh, hp⟩
  have h0 : fld wd 29 3 = g.val := hh.1
  have h1 : fld wd 22 5 = x.val := hh.2.1
  have h2 : fld wd 19 3 = a.val := hh.2.2.1
  have h3 : fld wd 15 1 = h.val := hh.2.2.2.1
  have h4 : fld wd 12 3 = w.val := hh.2.2.2.2.1
  have h5 : fld wd 6 6 = s.val := hh.2.2.2.2.2.1
  have e0 : Fin.ofNat 8 (wd / 2 ^ 29) = g := finOf rfl h0
  have e1 : Fin.ofNat 32 (wd / 2 ^ 22) = x := finOf rfl h1
  have e2 : Fin.ofNat 8 (wd / 2 ^ 19) = a := finOf rfl h2
  have e3 : Fin.ofNat 2 (wd / 2 ^ 15) = h := finOf rfl h3
  have e4 : Fin.ofNat 8 (wd / 2 ^ 12) = w := finOf rfl h4
  have e5 : Fin.ofNat 64 (wd / 2 ^ 6) = s := finOf rfl h5
  have hm : majorOf wd = x.val + 2 ^ 5 * 3 := by
    rw [majorOf, fld_split wd 22 5 2, h1, hp 27 2 rfl]; rfl
  have hv := x.isLt
  have c0_6 : fld wd 0 6 = 32 := hp 0 6 rfl
  have c16_3 : fld wd 16 3 = 0 := hp 16 3 rfl
  exact decode_word rest hlt (noLiteral hm (by omega))
    (decode_major (ne_zero_of_fld (hp 5 1 rfl) (by decide)) hm (unassigned60 (by omega))
      (by rw [major60 _ _ _ (by omega) (by omega), dec60, c0_6, c16_3, e0, e1, e2, e3, e4, e5]; rfl) hwf)
theorem mrunSub (g : Fin 8) (x : Fin 32) (a : Fin 8) (h : Fin 2) (w : Fin 8) (s : Fin 64) : Statement (.mrunSub g x a h w s) := by
  intro _ hwf rest
  have hw : Packed (pack 0x18000028 [(g.val, 29), (x.val, 22), (a.val, 19), (h.val, 15), (w.val, 12), (s.val, 6)]) 0x18000028 [(g.val, 29, 3), (x.val, 22, 5), (a.val, 19, 3), (h.val, 15, 1), (w.val, 12, 3), (s.val, 6, 6)]
      [(29, 3), (22, 5), (19, 3), (15, 1), (12, 3), (6, 6)] := packed (k := 0x18000028) (fs := [(g.val, 29, 3), (x.val, 22, 5), (a.val, 19, 3), (h.val, 15, 1), (w.val, 12, 3), (s.val, 6, 6)]) ⟨g.isLt, x.isLt, a.isLt, h.isLt, w.isLt, s.isLt, trivial⟩ rfl rfl rfl (by decide)
  revert hw
  show _ → decodeBytes ([pack 0x18000028 [(g.val, 29), (x.val, 22), (a.val, 19), (h.val, 15), (w.val, 12), (s.val, 6)]].flatMap bytesOfWord ++ rest) = _
  generalize pack 0x18000028 [(g.val, 29), (x.val, 22), (a.val, 19), (h.val, 15), (w.val, 12), (s.val, 6)] = wd
  intro ⟨hlt, hh, hp⟩
  have h0 : fld wd 29 3 = g.val := hh.1
  have h1 : fld wd 22 5 = x.val := hh.2.1
  have h2 : fld wd 19 3 = a.val := hh.2.2.1
  have h3 : fld wd 15 1 = h.val := hh.2.2.2.1
  have h4 : fld wd 12 3 = w.val := hh.2.2.2.2.1
  have h5 : fld wd 6 6 = s.val := hh.2.2.2.2.2.1
  have e0 : Fin.ofNat 8 (wd / 2 ^ 29) = g := finOf rfl h0
  have e1 : Fin.ofNat 32 (wd / 2 ^ 22) = x := finOf rfl h1
  have e2 : Fin.ofNat 8 (wd / 2 ^ 19) = a := finOf rfl h2
  have e3 : Fin.ofNat 2 (wd / 2 ^ 15) = h := finOf rfl h3
  have e4 : Fin.ofNat 8 (wd / 2 ^ 12) = w := finOf rfl h4
  have e5 : Fin.ofNat 64 (wd / 2 ^ 6) = s := finOf rfl h5
  have hm : majorOf wd = x.val + 2 ^ 5 * 3 := by
    rw [majorOf, fld_split wd 22 5 2, h1, hp 27 2 rfl]; rfl
  have hv := x.isLt
  have c0_6 : fld wd 0 6 = 40 := hp 0 6 rfl
  have c16_3 : fld wd 16 3 = 0 := hp 16 3 rfl
  exact decode_word rest hlt (noLiteral hm (by omega))
    (decode_major (ne_zero_of_fld (hp 3 1 rfl) (by decide)) hm (unassigned60 (by omega))
      (by rw [major60 _ _ _ (by omega) (by omega), dec60, c0_6, c16_3, e0, e1, e2, e3, e4, e5]; rfl) hwf)
theorem send (g : Fin 8) (a : Fin 64) (b : Fin 64) : Statement (.send g a b) := by
  intro _ hwf rest
  have hw : Packed (pack 0x14000000 [(g.val, 29), (a.val, 10), (b.val, 4)]) 0x14000000 [(g.val, 29, 3), (a.val, 10, 6), (b.val, 4, 6)]
      [(29, 3), (10, 6), (4, 6)] := packed (k := 0x14000000) (fs := [(g.val, 29, 3), (a.val, 10, 6), (b.val, 4, 6)]) ⟨g.isLt, a.isLt, b.isLt, trivial⟩ rfl rfl rfl (by decide)
  revert hw
  show _ → decodeBytes ([pack 0x14000000 [(g.val, 29), (a.val, 10), (b.val, 4)]].flatMap bytesOfWord ++ rest) = _
  generalize pack 0x14000000 [(g.val, 29), (a.val, 10), (b.val, 4)] = wd
  intro ⟨hlt, hh, hp⟩
  have h0 : fld wd 29 3 = g.val := hh.1
  have h1 : fld wd 10 6 = a.val := hh.2.1
  have h2 : fld wd 4 6 = b.val := hh.2.2.1
  have e0 : Fin.ofNat 8 (wd / 2 ^ 29) = g := finOf rfl h0
  have e1 : Fin.ofNat 64 (wd / 2 ^ 10) = a := finOf rfl h1
  have e2 : Fin.ofNat 64 (wd / 2 ^ 4) = b := finOf rfl h2
  have hm : majorOf wd = 0x50 := hp 22 7 rfl
  have c0_4 : fld wd 0 4 = 0 := hp 0 4 rfl
  have n0_10_2 : fld wd 0 10 ≠ 2 := fld_ne (i := 1) (by decide) (hp 1 1 rfl) (by decide)
  have n0_10_3 : fld wd 0 10 ≠ 3 := fld_ne (i := 0) (by decide) (hp 0 1 rfl) (by decide)
  have c16_6 : fld wd 16 6 = 0 := hp 16 6 rfl
  exact decode_word rest hlt (noLiteral hm (by decide))
    (decode_major (ne_zero_of_fld (hp 26 1 rfl) (by decide)) hm rfl
      (by rw [major50 _ _, dec50, c0_4, c16_6, e0, e1, e2]; simp [n0_10_2, n0_10_3]) hwf)
theorem sendi (g : Fin 8) (a : Fin 64) (b : Fin 64) : Statement (.sendi g a b) := by
  intro _ hwf rest
  have hw : Packed (pack 0x14000001 [(g.val, 29), (a.val, 10), (b.val, 4)]) 0x14000001 [(g.val, 29, 3), (a.val, 10, 6), (b.val, 4, 6)]
      [(29, 3), (10, 6), (4, 6)] := packed (k := 0x14000001) (fs := [(g.val, 29, 3), (a.val, 10, 6), (b.val, 4, 6)]) ⟨g.isLt, a.isLt, b.isLt, trivial⟩ rfl rfl rfl (by decide)
  revert hw
  show _ → decodeBytes ([pack 0x14000001 [(g.val, 29), (a.val, 10), (b.val, 4)]].flatMap bytesOfWord ++ rest) = _
  generalize pack 0x14000001 [(g.val, 29), (a.val, 10), (b.val, 4)] = wd
  intro ⟨hlt, hh, hp⟩
  have h0 : fld wd 29 3 = g.val := hh.1
  have h1 : fld wd 10 6 = a.val := hh.2.1
  have h2 : fld wd 4 6 = b.val := hh.2.2.1
  have e0 : Fin.ofNat 8 (wd / 2 ^ 29) = g := finOf rfl h0
  have e1 : Fin.ofNat 64 (wd / 2 ^ 10) = a := finOf rfl h1
  have e2 : Fin.ofNat 64 (wd / 2 ^ 4) = b := finOf rfl h2
  have hm : majorOf wd = 0x50 := hp 22 7 rfl
  have c0_4 : fld wd 0 4 = 1 := hp 0 4 rfl
  have n0_10_2 : fld wd 0 10 ≠ 2 := fld_ne (i := 0) (by decide) (hp 0 1 rfl) (by decide)
  have n0_10_3 : fld wd 0 10 ≠ 3 := fld_ne (i := 1) (by decide) (hp 1 1 rfl) (by decide)
  have c16_6 : fld wd 16 6 = 0 := hp 16 6 rfl
  exact decode_word rest hlt (noLiteral hm (by decide))
    (decode_major (ne_zero_of_fld (hp 0 1 rfl) (by decide)) hm rfl
      (by rw [major50 _ _, dec50, c0_4, c16_6, e0, e1, e2]; simp [n0_10_2, n0_10_3]) hwf)
theorem wmark (g : Fin 8) (a : Fin 64) : Statement (.wmark g a) := by
  intro _ hwf rest
  have hw : Packed (pack 0x14000002 [(g.val, 29), (a.val, 10)]) 0x14000002 [(g.val, 29, 3), (a.val, 10, 6)]
      [(29, 3), (10, 6)] := packed (k := 0x14000002) (fs := [(g.val, 29, 3), (a.val, 10, 6)]) ⟨g.isLt, a.isLt, trivial⟩ rfl rfl rfl (by decide)
  revert hw
  show _ → decodeBytes ([pack 0x14000002 [(g.val, 29), (a.val, 10)]].flatMap bytesOfWord ++ rest) = _
  generalize pack 0x14000002 [(g.val, 29), (a.val, 10)] = wd
  intro ⟨hlt, hh, hp⟩
  have h0 : fld wd 29 3 = g.val := hh.1
  have h1 : fld wd 10 6 = a.val := hh.2.1
  have e0 : Fin.ofNat 8 (wd / 2 ^ 29) = g := finOf rfl h0
  have e1 : Fin.ofNat 64 (wd / 2 ^ 10) = a := finOf rfl h1
  have hm : majorOf wd = 0x50 := hp 22 7 rfl
  have c0_4 : fld wd 0 4 = 2 := hp 0 4 rfl
  have c0_10 : fld wd 0 10 = 2 := hp 0 10 rfl
  have c16_6 : fld wd 16 6 = 0 := hp 16 6 rfl
  exact decode_word rest hlt (noLiteral hm (by decide))
    (decode_major (ne_zero_of_fld (hp 1 1 rfl) (by decide)) hm rfl
      (by rw [major50 _ _, dec50, c0_4, c0_10, c16_6, e0, e1]; rfl) hwf)
theorem waitch (g : Fin 8) (a : Fin 64) : Statement (.waitch g a) := by
  intro _ hwf rest
  have hw : Packed (pack 0x14000003 [(g.val, 29), (a.val, 10)]) 0x14000003 [(g.val, 29, 3), (a.val, 10, 6)]
      [(29, 3), (10, 6)] := packed (k := 0x14000003) (fs := [(g.val, 29, 3), (a.val, 10, 6)]) ⟨g.isLt, a.isLt, trivial⟩ rfl rfl rfl (by decide)
  revert hw
  show _ → decodeBytes ([pack 0x14000003 [(g.val, 29), (a.val, 10)]].flatMap bytesOfWord ++ rest) = _
  generalize pack 0x14000003 [(g.val, 29), (a.val, 10)] = wd
  intro ⟨hlt, hh, hp⟩
  have h0 : fld wd 29 3 = g.val := hh.1
  have h1 : fld wd 10 6 = a.val := hh.2.1
  have e0 : Fin.ofNat 8 (wd / 2 ^ 29) = g := finOf rfl h0
  have e1 : Fin.ofNat 64 (wd / 2 ^ 10) = a := finOf rfl h1
  have hm : majorOf wd = 0x50 := hp 22 7 rfl
  have c0_4 : fld wd 0 4 = 3 := hp 0 4 rfl
  have c0_10 : fld wd 0 10 = 3 := hp 0 10 rfl
  have c16_6 : fld wd 16 6 = 0 := hp 16 6 rfl
  exact decode_word rest hlt (noLiteral hm (by decide))
    (decode_major (ne_zero_of_fld (hp 0 1 rfl) (by decide)) hm rfl
      (by rw [major50 _ _, dec50, c0_4, c0_10, c16_6, e0, e1]; rfl) hwf)
theorem hmask (g : Fin 8) (d : Fin 64) (a : Fin 64) (b : Fin 64) : Statement (.hmask g d a b) := by
  intro _ hwf rest
  have hw : Packed (pack 0x14000004 [(g.val, 29), (d.val, 16), (a.val, 10), (b.val, 4)]) 0x14000004 [(g.val, 29, 3), (d.val, 16, 6), (a.val, 10, 6), (b.val, 4, 6)]
      [(29, 3), (16, 6), (10, 6), (4, 6)] := packed (k := 0x14000004) (fs := [(g.val, 29, 3), (d.val, 16, 6), (a.val, 10, 6), (b.val, 4, 6)]) ⟨g.isLt, d.isLt, a.isLt, b.isLt, trivial⟩ rfl rfl rfl (by decide)
  revert hw
  show _ → decodeBytes ([pack 0x14000004 [(g.val, 29), (d.val, 16), (a.val, 10), (b.val, 4)]].flatMap bytesOfWord ++ rest) = _
  generalize pack 0x14000004 [(g.val, 29), (d.val, 16), (a.val, 10), (b.val, 4)] = wd
  intro ⟨hlt, hh, hp⟩
  have h0 : fld wd 29 3 = g.val := hh.1
  have h1 : fld wd 16 6 = d.val := hh.2.1
  have h2 : fld wd 10 6 = a.val := hh.2.2.1
  have h3 : fld wd 4 6 = b.val := hh.2.2.2.1
  have e0 : Fin.ofNat 8 (wd / 2 ^ 29) = g := finOf rfl h0
  have e1 : Fin.ofNat 64 (wd / 2 ^ 16) = d := finOf rfl h1
  have e2 : Fin.ofNat 64 (wd / 2 ^ 10) = a := finOf rfl h2
  have e3 : Fin.ofNat 64 (wd / 2 ^ 4) = b := finOf rfl h3
  have hm : majorOf wd = 0x50 := hp 22 7 rfl
  have c0_4 : fld wd 0 4 = 4 := hp 0 4 rfl
  have n0_10_2 : fld wd 0 10 ≠ 2 := fld_ne (i := 1) (by decide) (hp 1 1 rfl) (by decide)
  have n0_10_3 : fld wd 0 10 ≠ 3 := fld_ne (i := 0) (by decide) (hp 0 1 rfl) (by decide)
  exact decode_word rest hlt (noLiteral hm (by decide))
    (decode_major (ne_zero_of_fld (hp 2 1 rfl) (by decide)) hm rfl
      (by rw [major50 _ _, dec50, c0_4, h1, e0, e1, e2, e3]; simp [n0_10_2, n0_10_3]) hwf)
theorem hset (g : Fin 8) (a : Fin 64) (b : Fin 64) : Statement (.hset g a b) := by
  intro _ hwf rest
  have hw : Packed (pack 0x14000005 [(g.val, 29), (a.val, 10), (b.val, 4)]) 0x14000005 [(g.val, 29, 3), (a.val, 10, 6), (b.val, 4, 6)]
      [(29, 3), (10, 6), (4, 6)] := packed (k := 0x14000005) (fs := [(g.val, 29, 3), (a.val, 10, 6), (b.val, 4, 6)]) ⟨g.isLt, a.isLt, b.isLt, trivial⟩ rfl rfl rfl (by decide)
  revert hw
  show _ → decodeBytes ([pack 0x14000005 [(g.val, 29), (a.val, 10), (b.val, 4)]].flatMap bytesOfWord ++ rest) = _
  generalize pack 0x14000005 [(g.val, 29), (a.val, 10), (b.val, 4)] = wd
  intro ⟨hlt, hh, hp⟩
  have h0 : fld wd 29 3 = g.val := hh.1
  have h1 : fld wd 10 6 = a.val := hh.2.1
  have h2 : fld wd 4 6 = b.val := hh.2.2.1
  have e0 : Fin.ofNat 8 (wd / 2 ^ 29) = g := finOf rfl h0
  have e1 : Fin.ofNat 64 (wd / 2 ^ 10) = a := finOf rfl h1
  have e2 : Fin.ofNat 64 (wd / 2 ^ 4) = b := finOf rfl h2
  have hm : majorOf wd = 0x50 := hp 22 7 rfl
  have c0_4 : fld wd 0 4 = 5 := hp 0 4 rfl
  have n0_10_2 : fld wd 0 10 ≠ 2 := fld_ne (i := 0) (by decide) (hp 0 1 rfl) (by decide)
  have n0_10_3 : fld wd 0 10 ≠ 3 := fld_ne (i := 1) (by decide) (hp 1 1 rfl) (by decide)
  have c16_6 : fld wd 16 6 = 0 := hp 16 6 rfl
  exact decode_word rest hlt (noLiteral hm (by decide))
    (decode_major (ne_zero_of_fld (hp 0 1 rfl) (by decide)) hm rfl
      (by rw [major50 _ _, dec50, c0_4, c16_6, e0, e1, e2]; simp [n0_10_2, n0_10_3]) hwf)
theorem chcap (g : Fin 8) (a : Fin 64) (b : Fin 64) : Statement (.chcap g a b) := by
  intro _ hwf rest
  have hw : Packed (pack 0x14000006 [(g.val, 29), (a.val, 10), (b.val, 4)]) 0x14000006 [(g.val, 29, 3), (a.val, 10, 6), (b.val, 4, 6)]
      [(29, 3), (10, 6), (4, 6)] := packed (k := 0x14000006) (fs := [(g.val, 29, 3), (a.val, 10, 6), (b.val, 4, 6)]) ⟨g.isLt, a.isLt, b.isLt, trivial⟩ rfl rfl rfl (by decide)
  revert hw
  show _ → decodeBytes ([pack 0x14000006 [(g.val, 29), (a.val, 10), (b.val, 4)]].flatMap bytesOfWord ++ rest) = _
  generalize pack 0x14000006 [(g.val, 29), (a.val, 10), (b.val, 4)] = wd
  intro ⟨hlt, hh, hp⟩
  have h0 : fld wd 29 3 = g.val := hh.1
  have h1 : fld wd 10 6 = a.val := hh.2.1
  have h2 : fld wd 4 6 = b.val := hh.2.2.1
  have e0 : Fin.ofNat 8 (wd / 2 ^ 29) = g := finOf rfl h0
  have e1 : Fin.ofNat 64 (wd / 2 ^ 10) = a := finOf rfl h1
  have e2 : Fin.ofNat 64 (wd / 2 ^ 4) = b := finOf rfl h2
  have hm : majorOf wd = 0x50 := hp 22 7 rfl
  have c0_4 : fld wd 0 4 = 6 := hp 0 4 rfl
  have n0_10_2 : fld wd 0 10 ≠ 2 := fld_ne (i := 2) (by decide) (hp 2 1 rfl) (by decide)
  have n0_10_3 : fld wd 0 10 ≠ 3 := fld_ne (i := 0) (by decide) (hp 0 1 rfl) (by decide)
  have c16_6 : fld wd 16 6 = 0 := hp 16 6 rfl
  exact decode_word rest hlt (noLiteral hm (by decide))
    (decode_major (ne_zero_of_fld (hp 1 1 rfl) (by decide)) hm rfl
      (by rw [major50 _ _, dec50, c0_4, c16_6, e0, e1, e2]; simp [n0_10_2, n0_10_3]) hwf)
theorem wincfg (g : Fin 8) (a : Fin 64) (b : Fin 64) : Statement (.wincfg g a b) := by
  intro _ hwf rest
  have hw : Packed (pack 0x14400000 [(g.val, 29), (a.val, 10), (b.val, 4)]) 0x14400000 [(g.val, 29, 3), (a.val, 10, 6), (b.val, 4, 6)]
      [(29, 3), (10, 6), (4, 6)] := packed (k := 0x14400000) (fs := [(g.val, 29, 3), (a.val, 10, 6), (b.val, 4, 6)]) ⟨g.isLt, a.isLt, b.isLt, trivial⟩ rfl rfl rfl (by decide)
  revert hw
  show _ → decodeBytes ([pack 0x14400000 [(g.val, 29), (a.val, 10), (b.val, 4)]].flatMap bytesOfWord ++ rest) = _
  generalize pack 0x14400000 [(g.val, 29), (a.val, 10), (b.val, 4)] = wd
  intro ⟨hlt, hh, hp⟩
  have h0 : fld wd 29 3 = g.val := hh.1
  have h1 : fld wd 10 6 = a.val := hh.2.1
  have h2 : fld wd 4 6 = b.val := hh.2.2.1
  have e0 : Fin.ofNat 8 (wd / 2 ^ 29) = g := finOf rfl h0
  have e1 : Fin.ofNat 64 (wd / 2 ^ 10) = a := finOf rfl h1
  have e2 : Fin.ofNat 64 (wd / 2 ^ 4) = b := finOf rfl h2
  have hm : majorOf wd = 0x51 := hp 22 7 rfl
  have c0_4 : fld wd 0 4 = 0 := hp 0 4 rfl
  have n0_10_1 : fld wd 0 10 ≠ 1 := fld_ne (i := 0) (by decide) (hp 0 1 rfl) (by decide)
  have c16_6 : fld wd 16 6 = 0 := hp 16 6 rfl
  exact decode_word rest hlt (noLiteral hm (by decide))
    (decode_major (ne_zero_of_fld (hp 22 1 rfl) (by decide)) hm rfl
      (by rw [major51 _ _, dec51, c0_4, c16_6, e0, e1, e2]; simp [n0_10_1]) hwf)
theorem winclose (g : Fin 8) (a : Fin 64) : Statement (.winclose g a) := by
  intro _ hwf rest
  have hw : Packed (pack 0x14400001 [(g.val, 29), (a.val, 10)]) 0x14400001 [(g.val, 29, 3), (a.val, 10, 6)]
      [(29, 3), (10, 6)] := packed (k := 0x14400001) (fs := [(g.val, 29, 3), (a.val, 10, 6)]) ⟨g.isLt, a.isLt, trivial⟩ rfl rfl rfl (by decide)
  revert hw
  show _ → decodeBytes ([pack 0x14400001 [(g.val, 29), (a.val, 10)]].flatMap bytesOfWord ++ rest) = _
  generalize pack 0x14400001 [(g.val, 29), (a.val, 10)] = wd
  intro ⟨hlt, hh, hp⟩
  have h0 : fld wd 29 3 = g.val := hh.1
  have h1 : fld wd 10 6 = a.val := hh.2.1
  have e0 : Fin.ofNat 8 (wd / 2 ^ 29) = g := finOf rfl h0
  have e1 : Fin.ofNat 64 (wd / 2 ^ 10) = a := finOf rfl h1
  have hm : majorOf wd = 0x51 := hp 22 7 rfl
  have c0_4 : fld wd 0 4 = 1 := hp 0 4 rfl
  have c0_10 : fld wd 0 10 = 1 := hp 0 10 rfl
  have c16_6 : fld wd 16 6 = 0 := hp 16 6 rfl
  exact decode_word rest hlt (noLiteral hm (by decide))
    (decode_major (ne_zero_of_fld (hp 0 1 rfl) (by decide)) hm rfl
      (by rw [major51 _ _, dec51, c0_4, c0_10, c16_6, e0, e1]; rfl) hwf)
theorem dkcfg (g : Fin 8) (a : Fin 64) (b : Fin 64) : Statement (.dkcfg g a b) := by
  intro _ hwf rest
  have hw : Packed (pack 0x14800000 [(g.val, 29), (a.val, 10), (b.val, 4)]) 0x14800000 [(g.val, 29, 3), (a.val, 10, 6), (b.val, 4, 6)]
      [(29, 3), (10, 6), (4, 6)] := packed (k := 0x14800000) (fs := [(g.val, 29, 3), (a.val, 10, 6), (b.val, 4, 6)]) ⟨g.isLt, a.isLt, b.isLt, trivial⟩ rfl rfl rfl (by decide)
  revert hw
  show _ → decodeBytes ([pack 0x14800000 [(g.val, 29), (a.val, 10), (b.val, 4)]].flatMap bytesOfWord ++ rest) = _
  generalize pack 0x14800000 [(g.val, 29), (a.val, 10), (b.val, 4)] = wd
  intro ⟨hlt, hh, hp⟩
  have h0 : fld wd 29 3 = g.val := hh.1
  have h1 : fld wd 10 6 = a.val := hh.2.1
  have h2 : fld wd 4 6 = b.val := hh.2.2.1
  have e0 : Fin.ofNat 8 (wd / 2 ^ 29) = g := finOf rfl h0
  have e1 : Fin.ofNat 64 (wd / 2 ^ 10) = a := finOf rfl h1
  have e2 : Fin.ofNat 64 (wd / 2 ^ 4) = b := finOf rfl h2
  have hm : majorOf wd = 0x52 := hp 22 7 rfl
  have c0_4 : fld wd 0 4 = 0 := hp 0 4 rfl
  have n0_10_1 : fld wd 0 10 ≠ 1 := fld_ne (i := 0) (by decide) (hp 0 1 rfl) (by decide)
  have n0_10_2 : fld wd 0 10 ≠ 2 := fld_ne (i := 1) (by decide) (hp 1 1 rfl) (by decide)
  have c16_6 : fld wd 16 6 = 0 := hp 16 6 rfl
  exact decode_word rest hlt (noLiteral hm (by decide))
    (decode_major (ne_zero_of_fld (hp 23 1 rfl) (by decide)) hm rfl
      (by rw [major52 _ _, dec52, c0_4, c16_6, e0, e1, e2]; simp [n0_10_1, n0_10_2]) hwf)
theorem dkflush (g : Fin 8) (a : Fin 64) : Statement (.dkflush g a) := by
  intro _ hwf rest
  have hw : Packed (pack 0x14800001 [(g.val, 29), (a.val, 10)]) 0x14800001 [(g.val, 29, 3), (a.val, 10, 6)]
      [(29, 3), (10, 6)] := packed (k := 0x14800001) (fs := [(g.val, 29, 3), (a.val, 10, 6)]) ⟨g.isLt, a.isLt, trivial⟩ rfl rfl rfl (by decide)
  revert hw
  show _ → decodeBytes ([pack 0x14800001 [(g.val, 29), (a.val, 10)]].flatMap bytesOfWord ++ rest) = _
  generalize pack 0x14800001 [(g.val, 29), (a.val, 10)] = wd
  intro ⟨hlt, hh, hp⟩
  have h0 : fld wd 29 3 = g.val := hh.1
  have h1 : fld wd 10 6 = a.val := hh.2.1
  have e0 : Fin.ofNat 8 (wd / 2 ^ 29) = g := finOf rfl h0
  have e1 : Fin.ofNat 64 (wd / 2 ^ 10) = a := finOf rfl h1
  have hm : majorOf wd = 0x52 := hp 22 7 rfl
  have c0_4 : fld wd 0 4 = 1 := hp 0 4 rfl
  have c0_10 : fld wd 0 10 = 1 := hp 0 10 rfl
  have c16_6 : fld wd 16 6 = 0 := hp 16 6 rfl
  exact decode_word rest hlt (noLiteral hm (by decide))
    (decode_major (ne_zero_of_fld (hp 0 1 rfl) (by decide)) hm rfl
      (by rw [major52 _ _, dec52, c0_4, c0_10, c16_6, e0, e1]; rfl) hwf)
theorem dkstat (g : Fin 8) (d : Fin 64) (a : Fin 64) : Statement (.dkstat g d a) := by
  intro _ hwf rest
  have hw : Packed (pack 0x14800002 [(g.val, 29), (d.val, 16), (a.val, 10)]) 0x14800002 [(g.val, 29, 3), (d.val, 16, 6), (a.val, 10, 6)]
      [(29, 3), (16, 6), (10, 6)] := packed (k := 0x14800002) (fs := [(g.val, 29, 3), (d.val, 16, 6), (a.val, 10, 6)]) ⟨g.isLt, d.isLt, a.isLt, trivial⟩ rfl rfl rfl (by decide)
  revert hw
  show _ → decodeBytes ([pack 0x14800002 [(g.val, 29), (d.val, 16), (a.val, 10)]].flatMap bytesOfWord ++ rest) = _
  generalize pack 0x14800002 [(g.val, 29), (d.val, 16), (a.val, 10)] = wd
  intro ⟨hlt, hh, hp⟩
  have h0 : fld wd 29 3 = g.val := hh.1
  have h1 : fld wd 16 6 = d.val := hh.2.1
  have h2 : fld wd 10 6 = a.val := hh.2.2.1
  have e0 : Fin.ofNat 8 (wd / 2 ^ 29) = g := finOf rfl h0
  have e1 : Fin.ofNat 64 (wd / 2 ^ 16) = d := finOf rfl h1
  have e2 : Fin.ofNat 64 (wd / 2 ^ 10) = a := finOf rfl h2
  have hm : majorOf wd = 0x52 := hp 22 7 rfl
  have c0_4 : fld wd 0 4 = 2 := hp 0 4 rfl
  have c0_10 : fld wd 0 10 = 2 := hp 0 10 rfl
  exact decode_word rest hlt (noLiteral hm (by decide))
    (decode_major (ne_zero_of_fld (hp 1 1 rfl) (by decide)) hm rfl
      (by rw [major52 _ _, dec52, c0_4, c0_10, h1, e0, e1, e2]; simp) hwf)
theorem xcopy (g : Fin 8) (k : Fin 8) (a : Fin 64) (b : Fin 64) : Statement (.xcopy g k a b) := by
  intro _ hwf rest
  have hw : Packed (pack 0x14C00000 [(g.val, 29), (k.val, 16), (a.val, 6), (b.val, 0)]) 0x14C00000 [(g.val, 29, 3), (k.val, 16, 3), (a.val, 6, 6), (b.val, 0, 6)]
      [(29, 3), (16, 3), (6, 6), (0, 6)] := packed (k := 0x14C00000) (fs := [(g.val, 29, 3), (k.val, 16, 3), (a.val, 6, 6), (b.val, 0, 6)]) ⟨g.isLt, k.isLt, a.isLt, b.isLt, trivial⟩ rfl rfl rfl (by decide)
  revert hw
  show _ → decodeBytes ([pack 0x14C00000 [(g.val, 29), (k.val, 16), (a.val, 6), (b.val, 0)]].flatMap bytesOfWord ++ rest) = _
  generalize pack 0x14C00000 [(g.val, 29), (k.val, 16), (a.val, 6), (b.val, 0)] = wd
  intro ⟨hlt, hh, hp⟩
  have h0 : fld wd 29 3 = g.val := hh.1
  have h1 : fld wd 16 3 = k.val := hh.2.1
  have h2 : fld wd 6 6 = a.val := hh.2.2.1
  have h3 : fld wd 0 6 = b.val := hh.2.2.2.1
  have e0 : Fin.ofNat 8 (wd / 2 ^ 29) = g := finOf rfl h0
  have e1 : Fin.ofNat 8 (wd / 2 ^ 16) = k := finOf rfl h1
  have e2 : Fin.ofNat 64 (wd / 2 ^ 6) = a := finOf rfl h2
  have e3 : Fin.ofNat 64 (wd / 2 ^ 0) = b := finOf rfl h3
  have hm : majorOf wd = 0x53 := hp 22 7 rfl
  have n6_16_8192 : fld wd 6 16 ≠ 8192 := fld_ne (i := 13) (by decide) (hp 19 1 rfl) (by decide)
  have c12_4 : fld wd 12 4 = 0 := hp 12 4 rfl
  have c19_3 : fld wd 19 3 = 0 := hp 19 3 rfl
  exact decode_word rest hlt (noLiteral hm (by decide))
    (decode_major (ne_zero_of_fld (hp 22 1 rfl) (by decide)) hm rfl
      (by rw [major53 _ _, dec53, c12_4, c19_3, e0, e1, e2, e3]; simp [n6_16_8192]) hwf)
theorem xresume (g : Fin 8) (b : Fin 64) : Statement (.xresume g b) := by
  intro _ hwf rest
  have hw : Packed (pack 0x14C80000 [(g.val, 29), (b.val, 0)]) 0x14C80000 [(g.val, 29, 3), (b.val, 0, 6)]
      [(29, 3), (0, 6)] := packed (k := 0x14C80000) (fs := [(g.val, 29, 3), (b.val, 0, 6)]) ⟨g.isLt, b.isLt, trivial⟩ rfl rfl rfl (by decide)
  revert hw
  show _ → decodeBytes ([pack 0x14C80000 [(g.val, 29), (b.val, 0)]].flatMap bytesOfWord ++ rest) = _
  generalize pack 0x14C80000 [(g.val, 29), (b.val, 0)] = wd
  intro ⟨hlt, hh, hp⟩
  have h0 : fld wd 29 3 = g.val := hh.1
  have h1 : fld wd 0 6 = b.val := hh.2.1
  have e0 : Fin.ofNat 8 (wd / 2 ^ 29) = g := finOf rfl h0
  have e1 : Fin.ofNat 64 (wd / 2 ^ 0) = b := finOf rfl h1
  have hm : majorOf wd = 0x53 := hp 22 7 rfl
  have c6_16 : fld wd 6 16 = 8192 := hp 6 16 rfl
  have c12_4 : fld wd 12 4 = 0 := hp 12 4 rfl
  have c19_3 : fld wd 19 3 = 1 := hp 19 3 rfl
  exact decode_word rest hlt (noLiteral hm (by decide))
    (decode_major (ne_zero_of_fld (hp 19 1 rfl) (by decide)) hm rfl
      (by rw [major53 _ _, dec53, c6_16, c12_4, c19_3, e0, e1]; rfl) hwf)
theorem xgeo (g : Fin 8) (d : Fin 64) (a : Fin 64) : Statement (.xgeo g d a) := by
  intro _ hwf rest
  have hw : Packed (pack 0x15000000 [(g.val, 29), (d.val, 16), (a.val, 10)]) 0x15000000 [(g.val, 29, 3), (d.val, 16, 6), (a.val, 10, 6)]
      [(29, 3), (16, 6), (10, 6)] := packed (k := 0x15000000) (fs := [(g.val, 29, 3), (d.val, 16, 6), (a.val, 10, 6)]) ⟨g.isLt, d.isLt, a.isLt, trivial⟩ rfl rfl rfl (by decide)
  revert hw
  show _ → decodeBytes ([pack 0x15000000 [(g.val, 29), (d.val, 16), (a.val, 10)]].flatMap bytesOfWord ++ rest) = _
  generalize pack 0x15000000 [(g.val, 29), (d.val, 16), (a.val, 10)] = wd
  intro ⟨hlt, hh, hp⟩
  have h0 : fld wd 29 3 = g.val := hh.1
  have h1 : fld wd 16 6 = d.val := hh.2.1
  have h2 : fld wd 10 6 = a.val := hh.2.2.1
  have e0 : Fin.ofNat 8 (wd / 2 ^ 29) = g := finOf rfl h0
  have e1 : Fin.ofNat 64 (wd / 2 ^ 16) = d := finOf rfl h1
  have e2 : Fin.ofNat 64 (wd / 2 ^ 10) = a := finOf rfl h2
  have hm : majorOf wd = 0x54 := hp 22 7 rfl
  have c0_4 : fld wd 0 4 = 0 := hp 0 4 rfl
  have c0_10 : fld wd 0 10 = 0 := hp 0 10 rfl
  exact decode_word rest hlt (noLiteral hm (by decide))
    (decode_major (ne_zero_of_fld (hp 24 1 rfl) (by decide)) hm rfl
      (by rw [major54 _ _, dec54, c0_4, c0_10, e0, e1, e2]; rfl) hwf)
theorem ttest (g : Fin 8) (d : Fin 64) (k : Fin 8) (b : Fin 64) : Statement (.ttest g d k b) := by
  intro _ hwf rest
  have hw : Packed (pack 0x15000001 [(g.val, 29), (d.val, 16), (k.val, 10), (b.val, 4)]) 0x15000001 [(g.val, 29, 3), (d.val, 16, 6), (k.val, 10, 3), (b.val, 4, 6)]
      [(29, 3), (16, 6), (10, 3), (4, 6)] := packed (k := 0x15000001) (fs := [(g.val, 29, 3), (d.val, 16, 6), (k.val, 10, 3), (b.val, 4, 6)]) ⟨g.isLt, d.isLt, k.isLt, b.isLt, trivial⟩ rfl rfl rfl (by decide)
  revert hw
  show _ → decodeBytes ([pack 0x15000001 [(g.val, 29), (d.val, 16), (k.val, 10), (b.val, 4)]].flatMap bytesOfWord ++ rest) = _
  generalize pack 0x15000001 [(g.val, 29), (d.val, 16), (k.val, 10), (b.val, 4)] = wd
  intro ⟨hlt, hh, hp⟩
  have h0 : fld wd 29 3 = g.val := hh.1
  have h1 : fld wd 16 6 = d.val := hh.2.1
  have h2 : fld wd 10 3 = k.val := hh.2.2.1
  have h3 : fld wd 4 6 = b.val := hh.2.2.2.1
  have e0 : Fin.ofNat 8 (wd / 2 ^ 29) = g := finOf rfl h0
  have e1 : Fin.ofNat 64 (wd / 2 ^ 16) = d := finOf rfl h1
  have e2 : Fin.ofNat 8 (wd / 2 ^ 10) = k := finOf rfl h2
  have e3 : Fin.ofNat 64 (wd / 2 ^ 4) = b := finOf rfl h3
  have hm : majorOf wd = 0x54 := hp 22 7 rfl
  have c0_4 : fld wd 0 4 = 1 := hp 0 4 rfl
  have n0_10_0 : fld wd 0 10 ≠ 0 := fld_ne (i := 0) (by decide) (hp 0 1 rfl) (by decide)
  have c13_3 : fld wd 13 3 = 0 := hp 13 3 rfl
  exact decode_word rest hlt (noLiteral hm (by decide))
    (decode_major (ne_zero_of_fld (hp 0 1 rfl) (by decide)) hm rfl
      (by rw [major54 _ _, dec54, c0_4, c13_3, e0, e1, e2, e3]; simp [n0_10_0]) hwf)
theorem twait (g : Fin 8) (m : Fin 256) : Statement (.twait g m) := by
  intro _ hwf rest
  have hw : Packed (pack 0x15400000 [(g.val, 29), (m.val, 0)]) 0x15400000 [(g.val, 29, 3), (m.val, 0, 8)]
      [(29, 3), (0, 8)] := packed (k := 0x15400000) (fs := [(g.val, 29, 3), (m.val, 0, 8)]) ⟨g.isLt, m.isLt, trivial⟩ rfl rfl rfl (by decide)
  revert hw
  show _ → decodeBytes ([pack 0x15400000 [(g.val, 29), (m.val, 0)]].flatMap bytesOfWord ++ rest) = _
  generalize pack 0x15400000 [(g.val, 29), (m.val, 0)] = wd
  intro ⟨hlt, hh, hp⟩
  have h0 : fld wd 29 3 = g.val := hh.1
  have h1 : fld wd 0 8 = m.val := hh.2.1
  have e0 : Fin.ofNat 8 (wd / 2 ^ 29) = g := finOf rfl h0
  have e1 : Fin.ofNat 256 (wd / 2 ^ 0) = m := finOf rfl h1
  have hm : majorOf wd = 0x55 := hp 22 7 rfl
  have c8_14 : fld wd 8 14 = 0 := hp 8 14 rfl
  exact decode_word rest hlt (noLiteral hm (by decide))
    (decode_major (ne_zero_of_fld (hp 22 1 rfl) (by decide)) hm rfl
      (by rw [major55 _ _, dec55, c8_14, e0, e1]; rfl) hwf)
theorem spawn (g : Fin 8) (a : Fin 64) (b : Fin 64) : Statement (.spawn g a b) := by
  intro _ hwf rest
  have hw : Packed (pack 0x15800000 [(g.val, 29), (a.val, 10), (b.val, 4)]) 0x15800000 [(g.val, 29, 3), (a.val, 10, 6), (b.val, 4, 6)]
      [(29, 3), (10, 6), (4, 6)] := packed (k := 0x15800000) (fs := [(g.val, 29, 3), (a.val, 10, 6), (b.val, 4, 6)]) ⟨g.isLt, a.isLt, b.isLt, trivial⟩ rfl rfl rfl (by decide)
  revert hw
  show _ → decodeBytes ([pack 0x15800000 [(g.val, 29), (a.val, 10), (b.val, 4)]].flatMap bytesOfWord ++ rest) = _
  generalize pack 0x15800000 [(g.val, 29), (a.val, 10), (b.val, 4)] = wd
  intro ⟨hlt, hh, hp⟩
  have h0 : fld wd 29 3 = g.val := hh.1
  have h1 : fld wd 10 6 = a.val := hh.2.1
  have h2 : fld wd 4 6 = b.val := hh.2.2.1
  have e0 : Fin.ofNat 8 (wd / 2 ^ 29) = g := finOf rfl h0
  have e1 : Fin.ofNat 64 (wd / 2 ^ 10) = a := finOf rfl h1
  have e2 : Fin.ofNat 64 (wd / 2 ^ 4) = b := finOf rfl h2
  have hm : majorOf wd = 0x56 := hp 22 7 rfl
  have c0_4 : fld wd 0 4 = 0 := hp 0 4 rfl
  have n0_10_2 : fld wd 0 10 ≠ 2 := fld_ne (i := 1) (by decide) (hp 1 1 rfl) (by decide)
  have n0_10_3 : fld wd 0 10 ≠ 3 := fld_ne (i := 0) (by decide) (hp 0 1 rfl) (by decide)
  have n0_22_1 : fld wd 0 22 ≠ 1 := fld_ne (i := 0) (by decide) (hp 0 1 rfl) (by decide)
  have n0_22_4 : fld wd 0 22 ≠ 4 := fld_ne (i := 2) (by decide) (hp 2 1 rfl) (by decide)
  have c16_6 : fld wd 16 6 = 0 := hp 16 6 rfl
  exact decode_word rest hlt (noLiteral hm (by decide))
    (decode_major (ne_zero_of_fld (hp 23 1 rfl) (by decide)) hm rfl
      (by rw [major56 _ _, dec56, c0_4, c16_6, e0, e1, e2]; simp [n0_10_2, n0_10_3, n0_22_1, n0_22_4]) hwf)
theorem done (g : Fin 8) : Statement (.done g) := by
  intro _ hwf rest
  have hw : Packed (pack 0x15800001 [(g.val, 29)]) 0x15800001 [(g.val, 29, 3)]
      [(29, 3)] := packed (k := 0x15800001) (fs := [(g.val, 29, 3)]) ⟨g.isLt, trivial⟩ rfl rfl rfl (by decide)
  revert hw
  show _ → decodeBytes ([pack 0x15800001 [(g.val, 29)]].flatMap bytesOfWord ++ rest) = _
  generalize pack 0x15800001 [(g.val, 29)] = wd
  intro ⟨hlt, hh, hp⟩
  have h0 : fld wd 29 3 = g.val := hh.1
  have e0 : Fin.ofNat 8 (wd / 2 ^ 29) = g := finOf rfl h0
  have hm : majorOf wd = 0x56 := hp 22 7 rfl
  have c0_4 : fld wd 0 4 = 1 := hp 0 4 rfl
  have c0_10 : fld wd 0 10 = 1 := hp 0 10 rfl
  have c0_22 : fld wd 0 22 = 1 := hp 0 22 rfl
  have c16_6 : fld wd 16 6 = 0 := hp 16 6 rfl
  exact decode_word rest hlt (noLiteral hm (by decide))
    (decode_major (ne_zero_of_fld (hp 0 1 rfl) (by decide)) hm rfl
      (by rw [major56 _ _, dec56, c0_4, c0_10, c0_22, c16_6, e0]; rfl) hwf)
theorem doneJ (g : Fin 8) (a : Fin 64) : Statement (.doneJ g a) := by
  intro _ hwf rest
  have hw : Packed (pack 0x15800002 [(g.val, 29), (a.val, 10)]) 0x15800002 [(g.val, 29, 3), (a.val, 10, 6)]
      [(29, 3), (10, 6)] := packed (k := 0x15800002) (fs := [(g.val, 29, 3), (a.val, 10, 6)]) ⟨g.isLt, a.isLt, trivial⟩ rfl rfl rfl (by decide)
  revert hw
  show _ → decodeBytes ([pack 0x15800002 [(g.val, 29), (a.val, 10)]].flatMap bytesOfWord ++ rest) = _
  generalize pack 0x15800002 [(g.val, 29), (a.val, 10)] = wd
  intro ⟨hlt, hh, hp⟩
  have h0 : fld wd 29 3 = g.val := hh.1
  have h1 : fld wd 10 6 = a.val := hh.2.1
  have e0 : Fin.ofNat 8 (wd / 2 ^ 29) = g := finOf rfl h0
  have e1 : Fin.ofNat 64 (wd / 2 ^ 10) = a := finOf rfl h1
  have hm : majorOf wd = 0x56 := hp 22 7 rfl
  have c0_4 : fld wd 0 4 = 2 := hp 0 4 rfl
  have c0_10 : fld wd 0 10 = 2 := hp 0 10 rfl
  have n0_22_1 : fld wd 0 22 ≠ 1 := fld_ne (i := 0) (by decide) (hp 0 1 rfl) (by decide)
  have n0_22_4 : fld wd 0 22 ≠ 4 := fld_ne (i := 1) (by decide) (hp 1 1 rfl) (by decide)
  have c16_6 : fld wd 16 6 = 0 := hp 16 6 rfl
  exact decode_word rest hlt (noLiteral hm (by decide))
    (decode_major (ne_zero_of_fld (hp 1 1 rfl) (by decide)) hm rfl
      (by rw [major56 _ _, dec56, c0_4, c0_10, c16_6, e0, e1]; simp [n0_22_1, n0_22_4]) hwf)
theorem launch (g : Fin 8) (d : Fin 64) (a : Fin 64) : Statement (.launch g d a) := by
  intro _ hwf rest
  have hw : Packed (pack 0x15800003 [(g.val, 29), (d.val, 16), (a.val, 10)]) 0x15800003 [(g.val, 29, 3), (d.val, 16, 6), (a.val, 10, 6)]
      [(29, 3), (16, 6), (10, 6)] := packed (k := 0x15800003) (fs := [(g.val, 29, 3), (d.val, 16, 6), (a.val, 10, 6)]) ⟨g.isLt, d.isLt, a.isLt, trivial⟩ rfl rfl rfl (by decide)
  revert hw
  show _ → decodeBytes ([pack 0x15800003 [(g.val, 29), (d.val, 16), (a.val, 10)]].flatMap bytesOfWord ++ rest) = _
  generalize pack 0x15800003 [(g.val, 29), (d.val, 16), (a.val, 10)] = wd
  intro ⟨hlt, hh, hp⟩
  have h0 : fld wd 29 3 = g.val := hh.1
  have h1 : fld wd 16 6 = d.val := hh.2.1
  have h2 : fld wd 10 6 = a.val := hh.2.2.1
  have e0 : Fin.ofNat 8 (wd / 2 ^ 29) = g := finOf rfl h0
  have e1 : Fin.ofNat 64 (wd / 2 ^ 16) = d := finOf rfl h1
  have e2 : Fin.ofNat 64 (wd / 2 ^ 10) = a := finOf rfl h2
  have hm : majorOf wd = 0x56 := hp 22 7 rfl
  have c0_4 : fld wd 0 4 = 3 := hp 0 4 rfl
  have c0_10 : fld wd 0 10 = 3 := hp 0 10 rfl
  have n0_22_1 : fld wd 0 22 ≠ 1 := fld_ne (i := 1) (by decide) (hp 1 1 rfl) (by decide)
  have n0_22_4 : fld wd 0 22 ≠ 4 := fld_ne (i := 0) (by decide) (hp 0 1 rfl) (by decide)
  exact decode_word rest hlt (noLiteral hm (by decide))
    (decode_major (ne_zero_of_fld (hp 0 1 rfl) (by decide)) hm rfl
      (by rw [major56 _ _, dec56, c0_4, c0_10, h1, e0, e1, e2]; simp [n0_22_1, n0_22_4]) hwf)
theorem yield (g : Fin 8) : Statement (.yield g) := by
  intro _ hwf rest
  have hw : Packed (pack 0x15800004 [(g.val, 29)]) 0x15800004 [(g.val, 29, 3)]
      [(29, 3)] := packed (k := 0x15800004) (fs := [(g.val, 29, 3)]) ⟨g.isLt, trivial⟩ rfl rfl rfl (by decide)
  revert hw
  show _ → decodeBytes ([pack 0x15800004 [(g.val, 29)]].flatMap bytesOfWord ++ rest) = _
  generalize pack 0x15800004 [(g.val, 29)] = wd
  intro ⟨hlt, hh, hp⟩
  have h0 : fld wd 29 3 = g.val := hh.1
  have e0 : Fin.ofNat 8 (wd / 2 ^ 29) = g := finOf rfl h0
  have hm : majorOf wd = 0x56 := hp 22 7 rfl
  have c0_4 : fld wd 0 4 = 4 := hp 0 4 rfl
  have c0_10 : fld wd 0 10 = 4 := hp 0 10 rfl
  have c0_22 : fld wd 0 22 = 4 := hp 0 22 rfl
  have c16_6 : fld wd 16 6 = 0 := hp 16 6 rfl
  exact decode_word rest hlt (noLiteral hm (by decide))
    (decode_major (ne_zero_of_fld (hp 2 1 rfl) (by decide)) hm rfl
      (by rw [major56 _ _, dec56, c0_4, c0_10, c0_22, c16_6, e0]; rfl) hwf)
theorem tspawn (g : Fin 8) (a : Fin 64) (b : Fin 64) : Statement (.tspawn g a b) := by
  intro _ hwf rest
  have hw : Packed (pack 0x15C00000 [(g.val, 29), (a.val, 10), (b.val, 4)]) 0x15C00000 [(g.val, 29, 3), (a.val, 10, 6), (b.val, 4, 6)]
      [(29, 3), (10, 6), (4, 6)] := packed (k := 0x15C00000) (fs := [(g.val, 29, 3), (a.val, 10, 6), (b.val, 4, 6)]) ⟨g.isLt, a.isLt, b.isLt, trivial⟩ rfl rfl rfl (by decide)
  revert hw
  show _ → decodeBytes ([pack 0x15C00000 [(g.val, 29), (a.val, 10), (b.val, 4)]].flatMap bytesOfWord ++ rest) = _
  generalize pack 0x15C00000 [(g.val, 29), (a.val, 10), (b.val, 4)] = wd
  intro ⟨hlt, hh, hp⟩
  have h0 : fld wd 29 3 = g.val := hh.1
  have h1 : fld wd 10 6 = a.val := hh.2.1
  have h2 : fld wd 4 6 = b.val := hh.2.2.1
  have e0 : Fin.ofNat 8 (wd / 2 ^ 29) = g := finOf rfl h0
  have e1 : Fin.ofNat 64 (wd / 2 ^ 10) = a := finOf rfl h1
  have e2 : Fin.ofNat 64 (wd / 2 ^ 4) = b := finOf rfl h2
  have hm : majorOf wd = 0x57 := hp 22 7 rfl
  have c0_4 : fld wd 0 4 = 0 := hp 0 4 rfl
  have n0_10_3 : fld wd 0 10 ≠ 3 := fld_ne (i := 0) (by decide) (hp 0 1 rfl) (by decide)
  have n0_22_1 : fld wd 0 22 ≠ 1 := fld_ne (i := 0) (by decide) (hp 0 1 rfl) (by decide)
  have c16_6 : fld wd 16 6 = 0 := hp 16 6 rfl
  exact decode_word rest hlt (noLiteral hm (by decide))
    (decode_major (ne_zero_of_fld (hp 22 1 rfl) (by decide)) hm rfl
      (by rw [major57 _ _, dec57, c0_4, c16_6, e0, e1, e2]; simp [n0_10_3, n0_22_1]) hwf)
theorem tdone (g : Fin 8) : Statement (.tdone g) := by
  intro _ hwf rest
  have hw : Packed (pack 0x15C00001 [(g.val, 29)]) 0x15C00001 [(g.val, 29, 3)]
      [(29, 3)] := packed (k := 0x15C00001) (fs := [(g.val, 29, 3)]) ⟨g.isLt, trivial⟩ rfl rfl rfl (by decide)
  revert hw
  show _ → decodeBytes ([pack 0x15C00001 [(g.val, 29)]].flatMap bytesOfWord ++ rest) = _
  generalize pack 0x15C00001 [(g.val, 29)] = wd
  intro ⟨hlt, hh, hp⟩
  have h0 : fld wd 29 3 = g.val := hh.1
  have e0 : Fin.ofNat 8 (wd / 2 ^ 29) = g := finOf rfl h0
  have hm : majorOf wd = 0x57 := hp 22 7 rfl
  have c0_4 : fld wd 0 4 = 1 := hp 0 4 rfl
  have c0_10 : fld wd 0 10 = 1 := hp 0 10 rfl
  have c0_22 : fld wd 0 22 = 1 := hp 0 22 rfl
  have c16_6 : fld wd 16 6 = 0 := hp 16 6 rfl
  exact decode_word rest hlt (noLiteral hm (by decide))
    (decode_major (ne_zero_of_fld (hp 0 1 rfl) (by decide)) hm rfl
      (by rw [major57 _ _, dec57, c0_4, c0_10, c0_22, c16_6, e0]; rfl) hwf)
theorem tabort (g : Fin 8) (a : Fin 64) (b : Fin 64) : Statement (.tabort g a b) := by
  intro _ hwf rest
  have hw : Packed (pack 0x15C00002 [(g.val, 29), (a.val, 10), (b.val, 4)]) 0x15C00002 [(g.val, 29, 3), (a.val, 10, 6), (b.val, 4, 6)]
      [(29, 3), (10, 6), (4, 6)] := packed (k := 0x15C00002) (fs := [(g.val, 29, 3), (a.val, 10, 6), (b.val, 4, 6)]) ⟨g.isLt, a.isLt, b.isLt, trivial⟩ rfl rfl rfl (by decide)
  revert hw
  show _ → decodeBytes ([pack 0x15C00002 [(g.val, 29), (a.val, 10), (b.val, 4)]].flatMap bytesOfWord ++ rest) = _
  generalize pack 0x15C00002 [(g.val, 29), (a.val, 10), (b.val, 4)] = wd
  intro ⟨hlt, hh, hp⟩
  have h0 : fld wd 29 3 = g.val := hh.1
  have h1 : fld wd 10 6 = a.val := hh.2.1
  have h2 : fld wd 4 6 = b.val := hh.2.2.1
  have e0 : Fin.ofNat 8 (wd / 2 ^ 29) = g := finOf rfl h0
  have e1 : Fin.ofNat 64 (wd / 2 ^ 10) = a := finOf rfl h1
  have e2 : Fin.ofNat 64 (wd / 2 ^ 4) = b := finOf rfl h2
  have hm : majorOf wd = 0x57 := hp 22 7 rfl
  have c0_4 : fld wd 0 4 = 2 := hp 0 4 rfl
  have n0_10_3 : fld wd 0 10 ≠ 3 := fld_ne (i := 0) (by decide) (hp 0 1 rfl) (by decide)
  have n0_22_1 : fld wd 0 22 ≠ 1 := fld_ne (i := 0) (by decide) (hp 0 1 rfl) (by decide)
  have c16_6 : fld wd 16 6 = 0 := hp 16 6 rfl
  exact decode_word rest hlt (noLiteral hm (by decide))
    (decode_major (ne_zero_of_fld (hp 1 1 rfl) (by decide)) hm rfl
      (by rw [major57 _ _, dec57, c0_4, c16_6, e0, e1, e2]; simp [n0_10_3, n0_22_1]) hwf)
theorem tfront (g : Fin 8) (d : Fin 64) (a : Fin 64) : Statement (.tfront g d a) := by
  intro _ hwf rest
  have hw : Packed (pack 0x15C00003 [(g.val, 29), (d.val, 16), (a.val, 10)]) 0x15C00003 [(g.val, 29, 3), (d.val, 16, 6), (a.val, 10, 6)]
      [(29, 3), (16, 6), (10, 6)] := packed (k := 0x15C00003) (fs := [(g.val, 29, 3), (d.val, 16, 6), (a.val, 10, 6)]) ⟨g.isLt, d.isLt, a.isLt, trivial⟩ rfl rfl rfl (by decide)
  revert hw
  show _ → decodeBytes ([pack 0x15C00003 [(g.val, 29), (d.val, 16), (a.val, 10)]].flatMap bytesOfWord ++ rest) = _
  generalize pack 0x15C00003 [(g.val, 29), (d.val, 16), (a.val, 10)] = wd
  intro ⟨hlt, hh, hp⟩
  have h0 : fld wd 29 3 = g.val := hh.1
  have h1 : fld wd 16 6 = d.val := hh.2.1
  have h2 : fld wd 10 6 = a.val := hh.2.2.1
  have e0 : Fin.ofNat 8 (wd / 2 ^ 29) = g := finOf rfl h0
  have e1 : Fin.ofNat 64 (wd / 2 ^ 16) = d := finOf rfl h1
  have e2 : Fin.ofNat 64 (wd / 2 ^ 10) = a := finOf rfl h2
  have hm : majorOf wd = 0x57 := hp 22 7 rfl
  have c0_4 : fld wd 0 4 = 3 := hp 0 4 rfl
  have c0_10 : fld wd 0 10 = 3 := hp 0 10 rfl
  have n0_22_1 : fld wd 0 22 ≠ 1 := fld_ne (i := 1) (by decide) (hp 1 1 rfl) (by decide)
  exact decode_word rest hlt (noLiteral hm (by decide))
    (decode_major (ne_zero_of_fld (hp 0 1 rfl) (by decide)) hm rfl
      (by rw [major57 _ _, dec57, c0_4, c0_10, h1, e0, e1, e2]; simp [n0_22_1]) hwf)
theorem twaitc (g : Fin 8) (a : Fin 64) (b : Fin 64) : Statement (.twaitc g a b) := by
  intro _ hwf rest
  have hw : Packed (pack 0x15C00004 [(g.val, 29), (a.val, 10), (b.val, 4)]) 0x15C00004 [(g.val, 29, 3), (a.val, 10, 6), (b.val, 4, 6)]
      [(29, 3), (10, 6), (4, 6)] := packed (k := 0x15C00004) (fs := [(g.val, 29, 3), (a.val, 10, 6), (b.val, 4, 6)]) ⟨g.isLt, a.isLt, b.isLt, trivial⟩ rfl rfl rfl (by decide)
  revert hw
  show _ → decodeBytes ([pack 0x15C00004 [(g.val, 29), (a.val, 10), (b.val, 4)]].flatMap bytesOfWord ++ rest) = _
  generalize pack 0x15C00004 [(g.val, 29), (a.val, 10), (b.val, 4)] = wd
  intro ⟨hlt, hh, hp⟩
  have h0 : fld wd 29 3 = g.val := hh.1
  have h1 : fld wd 10 6 = a.val := hh.2.1
  have h2 : fld wd 4 6 = b.val := hh.2.2.1
  have e0 : Fin.ofNat 8 (wd / 2 ^ 29) = g := finOf rfl h0
  have e1 : Fin.ofNat 64 (wd / 2 ^ 10) = a := finOf rfl h1
  have e2 : Fin.ofNat 64 (wd / 2 ^ 4) = b := finOf rfl h2
  have hm : majorOf wd = 0x57 := hp 22 7 rfl
  have c0_4 : fld wd 0 4 = 4 := hp 0 4 rfl
  have n0_10_3 : fld wd 0 10 ≠ 3 := fld_ne (i := 0) (by decide) (hp 0 1 rfl) (by decide)
  have n0_22_1 : fld wd 0 22 ≠ 1 := fld_ne (i := 0) (by decide) (hp 0 1 rfl) (by decide)
  have c16_6 : fld wd 16 6 = 0 := hp 16 6 rfl
  exact decode_word rest hlt (noLiteral hm (by decide))
    (decode_major (ne_zero_of_fld (hp 2 1 rfl) (by decide)) hm rfl
      (by rw [major57 _ _, dec57, c0_4, c16_6, e0, e1, e2]; simp [n0_10_3, n0_22_1]) hwf)
theorem xacq (g : Fin 8) (d : Fin 64) (a : Fin 64) : Statement (.xacq g d a) := by
  intro _ hwf rest
  have hw : Packed (pack 0x16000000 [(g.val, 29), (d.val, 16), (a.val, 10)]) 0x16000000 [(g.val, 29, 3), (d.val, 16, 6), (a.val, 10, 6)]
      [(29, 3), (16, 6), (10, 6)] := packed (k := 0x16000000) (fs := [(g.val, 29, 3), (d.val, 16, 6), (a.val, 10, 6)]) ⟨g.isLt, d.isLt, a.isLt, trivial⟩ rfl rfl rfl (by decide)
  revert hw
  show _ → decodeBytes ([pack 0x16000000 [(g.val, 29), (d.val, 16), (a.val, 10)]].flatMap bytesOfWord ++ rest) = _
  generalize pack 0x16000000 [(g.val, 29), (d.val, 16), (a.val, 10)] = wd
  intro ⟨hlt, hh, hp⟩
  have h0 : fld wd 29 3 = g.val := hh.1
  have h1 : fld wd 16 6 = d.val := hh.2.1
  have h2 : fld wd 10 6 = a.val := hh.2.2.1
  have e0 : Fin.ofNat 8 (wd / 2 ^ 29) = g := finOf rfl h0
  have e1 : Fin.ofNat 64 (wd / 2 ^ 16) = d := finOf rfl h1
  have e2 : Fin.ofNat 64 (wd / 2 ^ 10) = a := finOf rfl h2
  have hm : majorOf wd = 0x58 := hp 22 7 rfl
  have c0_4 : fld wd 0 4 = 0 := hp 0 4 rfl
  have c0_10 : fld wd 0 10 = 0 := hp 0 10 rfl
  exact decode_word rest hlt (noLiteral hm (by decide))
    (decode_major (ne_zero_of_fld (hp 25 1 rfl) (by decide)) hm rfl
      (by rw [major58 _ _, dec58, c0_4, c0_10, h1, e0, e1, e2]; simp) hwf)
theorem xadd (g : Fin 8) (a : Fin 64) (b : Fin 64) : Statement (.xadd g a b) := by
  intro _ hwf rest
  have hw : Packed (pack 0x16000001 [(g.val, 29), (a.val, 10), (b.val, 4)]) 0x16000001 [(g.val, 29, 3), (a.val, 10, 6), (b.val, 4, 6)]
      [(29, 3), (10, 6), (4, 6)] := packed (k := 0x16000001) (fs := [(g.val, 29, 3), (a.val, 10, 6), (b.val, 4, 6)]) ⟨g.isLt, a.isLt, b.isLt, trivial⟩ rfl rfl rfl (by decide)
  revert hw
  show _ → decodeBytes ([pack 0x16000001 [(g.val, 29), (a.val, 10), (b.val, 4)]].flatMap bytesOfWord ++ rest) = _
  generalize pack 0x16000001 [(g.val, 29), (a.val, 10), (b.val, 4)] = wd
  intro ⟨hlt, hh, hp⟩
  have h0 : fld wd 29 3 = g.val := hh.1
  have h1 : fld wd 10 6 = a.val := hh.2.1
  have h2 : fld wd 4 6 = b.val := hh.2.2.1
  have e0 : Fin.ofNat 8 (wd / 2 ^ 29) = g := finOf rfl h0
  have e1 : Fin.ofNat 64 (wd / 2 ^ 10) = a := finOf rfl h1
  have e2 : Fin.ofNat 64 (wd / 2 ^ 4) = b := finOf rfl h2
  have hm : majorOf wd = 0x58 := hp 22 7 rfl
  have c0_4 : fld wd 0 4 = 1 := hp 0 4 rfl
  have n0_10_0 : fld wd 0 10 ≠ 0 := fld_ne (i := 0) (by decide) (hp 0 1 rfl) (by decide)
  have n0_10_2 : fld wd 0 10 ≠ 2 := fld_ne (i := 0) (by decide) (hp 0 1 rfl) (by decide)
  have n0_10_3 : fld wd 0 10 ≠ 3 := fld_ne (i := 1) (by decide) (hp 1 1 rfl) (by decide)
  have c16_6 : fld wd 16 6 = 0 := hp 16 6 rfl
  exact decode_word rest hlt (noLiteral hm (by decide))
    (decode_major (ne_zero_of_fld (hp 0 1 rfl) (by decide)) hm rfl
      (by rw [major58 _ _, dec58, c0_4, c16_6, e0, e1, e2]; simp [n0_10_0, n0_10_2, n0_10_3]) hwf)
theorem xrd (g : Fin 8) (d : Fin 64) (a : Fin 64) : Statement (.xrd g d a) := by
  intro _ hwf rest
  have hw : Packed (pack 0x16000002 [(g.val, 29), (d.val, 16), (a.val, 10)]) 0x16000002 [(g.val, 29, 3), (d.val, 16, 6), (a.val, 10, 6)]
      [(29, 3), (16, 6), (10, 6)] := packed (k := 0x16000002) (fs := [(g.val, 29, 3), (d.val, 16, 6), (a.val, 10, 6)]) ⟨g.isLt, d.isLt, a.isLt, trivial⟩ rfl rfl rfl (by decide)
  revert hw
  show _ → decodeBytes ([pack 0x16000002 [(g.val, 29), (d.val, 16), (a.val, 10)]].flatMap bytesOfWord ++ rest) = _
  generalize pack 0x16000002 [(g.val, 29), (d.val, 16), (a.val, 10)] = wd
  intro ⟨hlt, hh, hp⟩
  have h0 : fld wd 29 3 = g.val := hh.1
  have h1 : fld wd 16 6 = d.val := hh.2.1
  have h2 : fld wd 10 6 = a.val := hh.2.2.1
  have e0 : Fin.ofNat 8 (wd / 2 ^ 29) = g := finOf rfl h0
  have e1 : Fin.ofNat 64 (wd / 2 ^ 16) = d := finOf rfl h1
  have e2 : Fin.ofNat 64 (wd / 2 ^ 10) = a := finOf rfl h2
  have hm : majorOf wd = 0x58 := hp 22 7 rfl
  have c0_4 : fld wd 0 4 = 2 := hp 0 4 rfl
  have c0_10 : fld wd 0 10 = 2 := hp 0 10 rfl
  exact decode_word rest hlt (noLiteral hm (by decide))
    (decode_major (ne_zero_of_fld (hp 1 1 rfl) (by decide)) hm rfl
      (by rw [major58 _ _, dec58, c0_4, c0_10, h1, e0, e1, e2]; simp) hwf)
theorem xrel (g : Fin 8) (a : Fin 64) : Statement (.xrel g a) := by
  intro _ hwf rest
  have hw : Packed (pack 0x16000003 [(g.val, 29), (a.val, 10)]) 0x16000003 [(g.val, 29, 3), (a.val, 10, 6)]
      [(29, 3), (10, 6)] := packed (k := 0x16000003) (fs := [(g.val, 29, 3), (a.val, 10, 6)]) ⟨g.isLt, a.isLt, trivial⟩ rfl rfl rfl (by decide)
  revert hw
  show _ → decodeBytes ([pack 0x16000003 [(g.val, 29), (a.val, 10)]].flatMap bytesOfWord ++ rest) = _
  generalize pack 0x16000003 [(g.val, 29), (a.val, 10)] = wd
  intro ⟨hlt, hh, hp⟩
  have h0 : fld wd 29 3 = g.val := hh.1
  have h1 : fld wd 10 6 = a.val := hh.2.1
  have e0 : Fin.ofNat 8 (wd / 2 ^ 29) = g := finOf rfl h0
  have e1 : Fin.ofNat 64 (wd / 2 ^ 10) = a := finOf rfl h1
  have hm : majorOf wd = 0x58 := hp 22 7 rfl
  have c0_4 : fld wd 0 4 = 3 := hp 0 4 rfl
  have c0_10 : fld wd 0 10 = 3 := hp 0 10 rfl
  have c16_6 : fld wd 16 6 = 0 := hp 16 6 rfl
  exact decode_word rest hlt (noLiteral hm (by decide))
    (decode_major (ne_zero_of_fld (hp 0 1 rfl) (by decide)) hm rfl
      (by rw [major58 _ _, dec58, c0_4, c0_10, c16_6, e0, e1]; rfl) hwf)
theorem pwalk (g : Fin 8) (k : Fin 8) (a : Fin 64) (b : Fin 64) : Statement (.pwalk g k a b) := by
  intro _ hwf rest
  have hw : Packed (pack 0x16400000 [(g.val, 29), (k.val, 16), (a.val, 6), (b.val, 0)]) 0x16400000 [(g.val, 29, 3), (k.val, 16, 3), (a.val, 6, 6), (b.val, 0, 6)]
      [(29, 3), (16, 3), (6, 6), (0, 6)] := packed (k := 0x16400000) (fs := [(g.val, 29, 3), (k.val, 16, 3), (a.val, 6, 6), (b.val, 0, 6)]) ⟨g.isLt, k.isLt, a.isLt, b.isLt, trivial⟩ rfl rfl rfl (by decide)
  revert hw
  show _ → decodeBytes ([pack 0x16400000 [(g.val, 29), (k.val, 16), (a.val, 6), (b.val, 0)]].flatMap bytesOfWord ++ rest) = _
  generalize pack 0x16400000 [(g.val, 29), (k.val, 16), (a.val, 6), (b.val, 0)] = wd
  intro ⟨hlt, hh, hp⟩
  have h0 : fld wd 29 3 = g.val := hh.1
  have h1 : fld wd 16 3 = k.val := hh.2.1
  have h2 : fld wd 6 6 = a.val := hh.2.2.1
  have h3 : fld wd 0 6 = b.val := hh.2.2.2.1
  have e0 : Fin.ofNat 8 (wd / 2 ^ 29) = g := finOf rfl h0
  have e1 : Fin.ofNat 8 (wd / 2 ^ 16) = k := finOf rfl h1
  have e2 : Fin.ofNat 64 (wd / 2 ^ 6) = a := finOf rfl h2
  have e3 : Fin.ofNat 64 (wd / 2 ^ 0) = b := finOf rfl h3
  have hm : majorOf wd = 0x59 := hp 22 7 rfl
  have c12_4 : fld wd 12 4 = 0 := hp 12 4 rfl
  have c19_3 : fld wd 19 3 = 0 := hp 19 3 rfl
  exact decode_word rest hlt (noLiteral hm (by decide))
    (decode_major (ne_zero_of_fld (hp 22 1 rfl) (by decide)) hm rfl
      (by rw [major59 _ _, dec59, c12_4, c19_3, e0, e1, e2, e3]; rfl) hwf)
theorem pfcfg (g : Fin 8) (a : Fin 64) (b : Fin 64) : Statement (.pfcfg g a b) := by
  intro _ hwf rest
  have hw : Packed (pack 0x16800000 [(g.val, 29), (a.val, 10), (b.val, 4)]) 0x16800000 [(g.val, 29, 3), (a.val, 10, 6), (b.val, 4, 6)]
      [(29, 3), (10, 6), (4, 6)] := packed (k := 0x16800000) (fs := [(g.val, 29, 3), (a.val, 10, 6), (b.val, 4, 6)]) ⟨g.isLt, a.isLt, b.isLt, trivial⟩ rfl rfl rfl (by decide)
  revert hw
  show _ → decodeBytes ([pack 0x16800000 [(g.val, 29), (a.val, 10), (b.val, 4)]].flatMap bytesOfWord ++ rest) = _
  generalize pack 0x16800000 [(g.val, 29), (a.val, 10), (b.val, 4)] = wd
  intro ⟨hlt, hh, hp⟩
  have h0 : fld wd 29 3 = g.val := hh.1
  have h1 : fld wd 10 6 = a.val := hh.2.1
  have h2 : fld wd 4 6 = b.val := hh.2.2.1
  have e0 : Fin.ofNat 8 (wd / 2 ^ 29) = g := finOf rfl h0
  have e1 : Fin.ofNat 64 (wd / 2 ^ 10) = a := finOf rfl h1
  have e2 : Fin.ofNat 64 (wd / 2 ^ 4) = b := finOf rfl h2
  have hm : majorOf wd = 0x5A := hp 22 7 rfl
  have c0_4 : fld wd 0 4 = 0 := hp 0 4 rfl
  have n0_10_1 : fld wd 0 10 ≠ 1 := fld_ne (i := 0) (by decide) (hp 0 1 rfl) (by decide)
  have c16_6 : fld wd 16 6 = 0 := hp 16 6 rfl
  exact decode_word rest hlt (noLiteral hm (by decide))
    (decode_major (ne_zero_of_fld (hp 23 1 rfl) (by decide)) hm rfl
      (by rw [major5A _ _, dec5A, c0_4, c16_6, e0, e1, e2]; simp [n0_10_1]) hwf)
theorem pfstop (g : Fin 8) (a : Fin 64) : Statement (.pfstop g a) := by
  intro _ hwf rest
  have hw : Packed (pack 0x16800001 [(g.val, 29), (a.val, 10)]) 0x16800001 [(g.val, 29, 3), (a.val, 10, 6)]
      [(29, 3), (10, 6)] := packed (k := 0x16800001) (fs := [(g.val, 29, 3), (a.val, 10, 6)]) ⟨g.isLt, a.isLt, trivial⟩ rfl rfl rfl (by decide)
  revert hw
  show _ → decodeBytes ([pack 0x16800001 [(g.val, 29), (a.val, 10)]].flatMap bytesOfWord ++ rest) = _
  generalize pack 0x16800001 [(g.val, 29), (a.val, 10)] = wd
  intro ⟨hlt, hh, hp⟩
  have h0 : fld wd 29 3 = g.val := hh.1
  have h1 : fld wd 10 6 = a.val := hh.2.1
  have e0 : Fin.ofNat 8 (wd / 2 ^ 29) = g := finOf rfl h0
  have e1 : Fin.ofNat 64 (wd / 2 ^ 10) = a := finOf rfl h1
  have hm : majorOf wd = 0x5A := hp 22 7 rfl
  have c0_4 : fld wd 0 4 = 1 := hp 0 4 rfl
  have c0_10 : fld wd 0 10 = 1 := hp 0 10 rfl
  have c16_6 : fld wd 16 6 = 0 := hp 16 6 rfl
  exact decode_word rest hlt (noLiteral hm (by decide))
    (decode_major (ne_zero_of_fld (hp 0 1 rfl) (by decide)) hm rfl
      (by rw [major5A _ _, dec5A, c0_4, c0_10, c16_6, e0, e1]; rfl) hwf)
theorem sysrd (g : Fin 8) (d : Fin 64) (n : Fin 1024) : Statement (.sysrd g d n) := by
  intro _ hwf rest
  have hw : Packed (pack 0x17000000 [(g.val, 29), (d.val, 16), (n.val, 0)]) 0x17000000 [(g.val, 29, 3), (d.val, 16, 6), (n.val, 0, 10)]
      [(29, 3), (16, 6), (0, 10)] := packed (k := 0x17000000) (fs := [(g.val, 29, 3), (d.val, 16, 6), (n.val, 0, 10)]) ⟨g.isLt, d.isLt, n.isLt, trivial⟩ rfl rfl rfl (by decide)
  revert hw
  show _ → decodeBytes ([pack 0x17000000 [(g.val, 29), (d.val, 16), (n.val, 0)]].flatMap bytesOfWord ++ rest) = _
  generalize pack 0x17000000 [(g.val, 29), (d.val, 16), (n.val, 0)] = wd
  intro ⟨hlt, hh, hp⟩
  have h0 : fld wd 29 3 = g.val := hh.1
  have h1 : fld wd 16 6 = d.val := hh.2.1
  have h2 : fld wd 0 10 = n.val := hh.2.2.1
  have e0 : Fin.ofNat 8 (wd / 2 ^ 29) = g := finOf rfl h0
  have e1 : Fin.ofNat 64 (wd / 2 ^ 16) = d := finOf rfl h1
  have e2 : Fin.ofNat 1024 (wd / 2 ^ 0) = n := finOf rfl h2
  have hm : majorOf wd = 0x5C := hp 22 7 rfl
  have c10_6 : fld wd 10 6 = 0 := hp 10 6 rfl
  exact decode_word rest hlt (noLiteral hm (by decide))
    (decode_major (ne_zero_of_fld (hp 24 1 rfl) (by decide)) hm rfl
      (by rw [major5C _ _, dec5C, c10_6, e0, e1, e2]; rfl) hwf)
theorem syswr (g : Fin 8) (a : Fin 64) (n : Fin 1024) : Statement (.syswr g a n) := by
  intro _ hwf rest
  have hw : Packed (pack 0x17400000 [(g.val, 29), (a.val, 10), (n.val, 0)]) 0x17400000 [(g.val, 29, 3), (a.val, 10, 6), (n.val, 0, 10)]
      [(29, 3), (10, 6), (0, 10)] := packed (k := 0x17400000) (fs := [(g.val, 29, 3), (a.val, 10, 6), (n.val, 0, 10)]) ⟨g.isLt, a.isLt, n.isLt, trivial⟩ rfl rfl rfl (by decide)
  revert hw
  show _ → decodeBytes ([pack 0x17400000 [(g.val, 29), (a.val, 10), (n.val, 0)]].flatMap bytesOfWord ++ rest) = _
  generalize pack 0x17400000 [(g.val, 29), (a.val, 10), (n.val, 0)] = wd
  intro ⟨hlt, hh, hp⟩
  have h0 : fld wd 29 3 = g.val := hh.1
  have h1 : fld wd 10 6 = a.val := hh.2.1
  have h2 : fld wd 0 10 = n.val := hh.2.2.1
  have e0 : Fin.ofNat 8 (wd / 2 ^ 29) = g := finOf rfl h0
  have e1 : Fin.ofNat 64 (wd / 2 ^ 10) = a := finOf rfl h1
  have e2 : Fin.ofNat 1024 (wd / 2 ^ 0) = n := finOf rfl h2
  have hm : majorOf wd = 0x5D := hp 22 7 rfl
  have c16_6 : fld wd 16 6 = 0 := hp 16 6 rfl
  exact decode_word rest hlt (noLiteral hm (by decide))
    (decode_major (ne_zero_of_fld (hp 22 1 rfl) (by decide)) hm rfl
      (by rw [major5D _ _, dec5D, c16_6, e0, e1, e2]; rfl) hwf)
theorem uret (g : Fin 8) (a : Fin 64) : Statement (.uret g a) := by
  intro _ hwf rest
  have hw : Packed (pack 0x17800000 [(g.val, 29), (a.val, 10)]) 0x17800000 [(g.val, 29, 3), (a.val, 10, 6)]
      [(29, 3), (10, 6)] := packed (k := 0x17800000) (fs := [(g.val, 29, 3), (a.val, 10, 6)]) ⟨g.isLt, a.isLt, trivial⟩ rfl rfl rfl (by decide)
  revert hw
  show _ → decodeBytes ([pack 0x17800000 [(g.val, 29), (a.val, 10)]].flatMap bytesOfWord ++ rest) = _
  generalize pack 0x17800000 [(g.val, 29), (a.val, 10)] = wd
  intro ⟨hlt, hh, hp⟩
  have h0 : fld wd 29 3 = g.val := hh.1
  have h1 : fld wd 10 6 = a.val := hh.2.1
  have e0 : Fin.ofNat 8 (wd / 2 ^ 29) = g := finOf rfl h0
  have e1 : Fin.ofNat 64 (wd / 2 ^ 10) = a := finOf rfl h1
  have hm : majorOf wd = 0x5E := hp 22 7 rfl
  have c0_4 : fld wd 0 4 = 0 := hp 0 4 rfl
  have c0_10 : fld wd 0 10 = 0 := hp 0 10 rfl
  have n0_22_1 : fld wd 0 22 ≠ 1 := fld_ne (i := 0) (by decide) (hp 0 1 rfl) (by decide)
  have c16_6 : fld wd 16 6 = 0 := hp 16 6 rfl
  have c19_3 : fld wd 19 3 = 0 := hp 19 3 rfl
  exact decode_word rest hlt (noLiteral hm (by decide))
    (decode_major (ne_zero_of_fld (hp 23 1 rfl) (by decide)) hm rfl
      (by rw [major5E _ _, dec5E, c0_4, c0_10, c16_6, c19_3, e0, e1]; simp [n0_22_1]) hwf)
theorem tret (g : Fin 8) : Statement (.tret g) := by
  intro _ hwf rest
  have hw : Packed (pack 0x17800001 [(g.val, 29)]) 0x17800001 [(g.val, 29, 3)]
      [(29, 3)] := packed (k := 0x17800001) (fs := [(g.val, 29, 3)]) ⟨g.isLt, trivial⟩ rfl rfl rfl (by decide)
  revert hw
  show _ → decodeBytes ([pack 0x17800001 [(g.val, 29)]].flatMap bytesOfWord ++ rest) = _
  generalize pack 0x17800001 [(g.val, 29)] = wd
  intro ⟨hlt, hh, hp⟩
  have h0 : fld wd 29 3 = g.val := hh.1
  have e0 : Fin.ofNat 8 (wd / 2 ^ 29) = g := finOf rfl h0
  have hm : majorOf wd = 0x5E := hp 22 7 rfl
  have c0_4 : fld wd 0 4 = 1 := hp 0 4 rfl
  have c0_10 : fld wd 0 10 = 1 := hp 0 10 rfl
  have c0_22 : fld wd 0 22 = 1 := hp 0 22 rfl
  have c16_6 : fld wd 16 6 = 0 := hp 16 6 rfl
  have c19_3 : fld wd 19 3 = 0 := hp 19 3 rfl
  exact decode_word rest hlt (noLiteral hm (by decide))
    (decode_major (ne_zero_of_fld (hp 0 1 rfl) (by decide)) hm rfl
      (by rw [major5E _ _, dec5E, c0_4, c0_10, c0_22, c16_6, c19_3, e0]; rfl) hwf)
theorem tlbi (g : Fin 8) (k : Fin 8) (a : Fin 64) (b : Fin 64) : Statement (.tlbi g k a b) := by
  intro _ hwf rest
  have hw : Packed (pack 0x17800002 [(g.val, 29), (k.val, 16), (a.val, 10), (b.val, 4)]) 0x17800002 [(g.val, 29, 3), (k.val, 16, 3), (a.val, 10, 6), (b.val, 4, 6)]
      [(29, 3), (16, 3), (10, 6), (4, 6)] := packed (k := 0x17800002) (fs := [(g.val, 29, 3), (k.val, 16, 3), (a.val, 10, 6), (b.val, 4, 6)]) ⟨g.isLt, k.isLt, a.isLt, b.isLt, trivial⟩ rfl rfl rfl (by decide)
  revert hw
  show _ → decodeBytes ([pack 0x17800002 [(g.val, 29), (k.val, 16), (a.val, 10), (b.val, 4)]].flatMap bytesOfWord ++ rest) = _
  generalize pack 0x17800002 [(g.val, 29), (k.val, 16), (a.val, 10), (b.val, 4)] = wd
  intro ⟨hlt, hh, hp⟩
  have h0 : fld wd 29 3 = g.val := hh.1
  have h1 : fld wd 16 3 = k.val := hh.2.1
  have h2 : fld wd 10 6 = a.val := hh.2.2.1
  have h3 : fld wd 4 6 = b.val := hh.2.2.2.1
  have e0 : Fin.ofNat 8 (wd / 2 ^ 29) = g := finOf rfl h0
  have e1 : Fin.ofNat 8 (wd / 2 ^ 16) = k := finOf rfl h1
  have e2 : Fin.ofNat 64 (wd / 2 ^ 10) = a := finOf rfl h2
  have e3 : Fin.ofNat 64 (wd / 2 ^ 4) = b := finOf rfl h3
  have hm : majorOf wd = 0x5E := hp 22 7 rfl
  have c0_4 : fld wd 0 4 = 2 := hp 0 4 rfl
  have n0_10_0 : fld wd 0 10 ≠ 0 := fld_ne (i := 1) (by decide) (hp 1 1 rfl) (by decide)
  have n0_10_3 : fld wd 0 10 ≠ 3 := fld_ne (i := 0) (by decide) (hp 0 1 rfl) (by decide)
  have n0_10_4 : fld wd 0 10 ≠ 4 := fld_ne (i := 1) (by decide) (hp 1 1 rfl) (by decide)
  have n0_10_5 : fld wd 0 10 ≠ 5 := fld_ne (i := 0) (by decide) (hp 0 1 rfl) (by decide)
  have n0_22_1 : fld wd 0 22 ≠ 1 := fld_ne (i := 0) (by decide) (hp 0 1 rfl) (by decide)
  have c19_3 : fld wd 19 3 = 0 := hp 19 3 rfl
  exact decode_word rest hlt (noLiteral hm (by decide))
    (decode_major (ne_zero_of_fld (hp 1 1 rfl) (by decide)) hm rfl
      (by rw [major5E _ _, dec5E, c0_4, c19_3, e0, e1, e2, e3]; simp [n0_10_0, n0_10_3, n0_10_4, n0_10_5, n0_22_1]) hwf)
theorem snap (g : Fin 8) (a : Fin 64) : Statement (.snap g a) := by
  intro _ hwf rest
  have hw : Packed (pack 0x17800003 [(g.val, 29), (a.val, 10)]) 0x17800003 [(g.val, 29, 3), (a.val, 10, 6)]
      [(29, 3), (10, 6)] := packed (k := 0x17800003) (fs := [(g.val, 29, 3), (a.val, 10, 6)]) ⟨g.isLt, a.isLt, trivial⟩ rfl rfl rfl (by decide)
  revert hw
  show _ → decodeBytes ([pack 0x17800003 [(g.val, 29), (a.val, 10)]].flatMap bytesOfWord ++ rest) = _
  generalize pack 0x17800003 [(g.val, 29), (a.val, 10)] = wd
  intro ⟨hlt, hh, hp⟩
  have h0 : fld wd 29 3 = g.val := hh.1
  have h1 : fld wd 10 6 = a.val := hh.2.1
  have e0 : Fin.ofNat 8 (wd / 2 ^ 29) = g := finOf rfl h0
  have e1 : Fin.ofNat 64 (wd / 2 ^ 10) = a := finOf rfl h1
  have hm : majorOf wd = 0x5E := hp 22 7 rfl
  have c0_4 : fld wd 0 4 = 3 := hp 0 4 rfl
  have c0_10 : fld wd 0 10 = 3 := hp 0 10 rfl
  have n0_22_1 : fld wd 0 22 ≠ 1 := fld_ne (i := 1) (by decide) (hp 1 1 rfl) (by decide)
  have c16_6 : fld wd 16 6 = 0 := hp 16 6 rfl
  have c19_3 : fld wd 19 3 = 0 := hp 19 3 rfl
  exact decode_word rest hlt (noLiteral hm (by decide))
    (decode_major (ne_zero_of_fld (hp 0 1 rfl) (by decide)) hm rfl
      (by rw [major5E _ _, dec5E, c0_4, c0_10, c16_6, c19_3, e0, e1]; simp [n0_22_1]) hwf)
theorem freeze (g : Fin 8) (a : Fin 64) : Statement (.freeze g a) := by
  intro _ hwf rest
  have hw : Packed (pack 0x17800004 [(g.val, 29), (a.val, 10)]) 0x17800004 [(g.val, 29, 3), (a.val, 10, 6)]
      [(29, 3), (10, 6)] := packed (k := 0x17800004) (fs := [(g.val, 29, 3), (a.val, 10, 6)]) ⟨g.isLt, a.isLt, trivial⟩ rfl rfl rfl (by decide)
  revert hw
  show _ → decodeBytes ([pack 0x17800004 [(g.val, 29), (a.val, 10)]].flatMap bytesOfWord ++ rest) = _
  generalize pack 0x17800004 [(g.val, 29), (a.val, 10)] = wd
  intro ⟨hlt, hh, hp⟩
  have h0 : fld wd 29 3 = g.val := hh.1
  have h1 : fld wd 10 6 = a.val := hh.2.1
  have e0 : Fin.ofNat 8 (wd / 2 ^ 29) = g := finOf rfl h0
  have e1 : Fin.ofNat 64 (wd / 2 ^ 10) = a := finOf rfl h1
  have hm : majorOf wd = 0x5E := hp 22 7 rfl
  have c0_4 : fld wd 0 4 = 4 := hp 0 4 rfl
  have c0_10 : fld wd 0 10 = 4 := hp 0 10 rfl
  have n0_22_1 : fld wd 0 22 ≠ 1 := fld_ne (i := 0) (by decide) (hp 0 1 rfl) (by decide)
  have c16_6 : fld wd 16 6 = 0 := hp 16 6 rfl
  have c19_3 : fld wd 19 3 = 0 := hp 19 3 rfl
  exact decode_word rest hlt (noLiteral hm (by decide))
    (decode_major (ne_zero_of_fld (hp 2 1 rfl) (by decide)) hm rfl
      (by rw [major5E _ _, dec5E, c0_4, c0_10, c16_6, c19_3, e0, e1]; simp [n0_22_1]) hwf)
theorem resumef (g : Fin 8) (a : Fin 64) : Statement (.resumef g a) := by
  intro _ hwf rest
  have hw : Packed (pack 0x17800005 [(g.val, 29), (a.val, 10)]) 0x17800005 [(g.val, 29, 3), (a.val, 10, 6)]
      [(29, 3), (10, 6)] := packed (k := 0x17800005) (fs := [(g.val, 29, 3), (a.val, 10, 6)]) ⟨g.isLt, a.isLt, trivial⟩ rfl rfl rfl (by decide)
  revert hw
  show _ → decodeBytes ([pack 0x17800005 [(g.val, 29), (a.val, 10)]].flatMap bytesOfWord ++ rest) = _
  generalize pack 0x17800005 [(g.val, 29), (a.val, 10)] = wd
  intro ⟨hlt, hh, hp⟩
  have h0 : fld wd 29 3 = g.val := hh.1
  have h1 : fld wd 10 6 = a.val := hh.2.1
  have e0 : Fin.ofNat 8 (wd / 2 ^ 29) = g := finOf rfl h0
  have e1 : Fin.ofNat 64 (wd / 2 ^ 10) = a := finOf rfl h1
  have hm : majorOf wd = 0x5E := hp 22 7 rfl
  have c0_4 : fld wd 0 4 = 5 := hp 0 4 rfl
  have c0_10 : fld wd 0 10 = 5 := hp 0 10 rfl
  have n0_22_1 : fld wd 0 22 ≠ 1 := fld_ne (i := 2) (by decide) (hp 2 1 rfl) (by decide)
  have c16_6 : fld wd 16 6 = 0 := hp 16 6 rfl
  have c19_3 : fld wd 19 3 = 0 := hp 19 3 rfl
  exact decode_word rest hlt (noLiteral hm (by decide))
    (decode_major (ne_zero_of_fld (hp 0 1 rfl) (by decide)) hm rfl
      (by rw [major5E _ _, dec5E, c0_4, c0_10, c16_6, c19_3, e0, e1]; simp [n0_22_1]) hwf)

end Sys2Proof.Laws.RoundTrip
end

