-- ==== Sys2Proof/Tests/Slice0.lean ====
section
/-! SUPPORT. Tests: what no encoding carries is refused; words written out from the spec's encodings decode; one state and
operands for each statement that meet its hypotheses, and for its clauses, at the ends of their ranges; and single steps whose
results are computed by hand from the spec's rules. -/

namespace Sys2Proof.Tests

set_option maxRecDepth 100000
set_option Elab.async false

open Sys2Proof Sys2Proof.Machine

/-- A capability over 64 KiB of the core's own slice. -/
def own : CVal := CVal.make 0x10000 0x10000 [.ld, .st, .ldcap, .stcap, .exec, .local, .eng]

/-- One over the same bytes at another address in them. -/
def ownAt (a : Nat) : CVal := own.withAddr (BitVec.ofNat 64 a)

/-- Plain data. -/
def num (n : Nat) : CVal := .plain (BitVec.ofNat 128 n)

/-- Core 0's slot 0 runs a continuation with SYS over its own slice, all of which a region opens to it; every function is
ready; traps go to a handler. -/
def machine : State :=
  let s1 := State.reset.updHouse (fun (h : House) => { h with inReset := false, ready := BitVec.ofNat 128 (2 ^ 78 - 1) })
  let page : Quad := BitVec.ofNat 128 (1 + 2 ^ 16 * 0x1F0 + 2 ^ 32 * 0x1F)
  let s2 := s1.updCore 0 (fun (x : Core) => { x with prot := wr x.prot 0 page })
  s2.updStrand 0 0 (fun (x : Strand) => { x with
    st := .running, pcc := CVal.make 0x1000 4096 [.exec, .local, .sys], tvec := CVal.make 0x2000 4096 [.exec, .local]
    work := { Work.none with kind := .continuation } })

/-- The machine with registers c4, c5, ... holding some values. -/
def withC (l : List CVal) (s : State := machine) : State :=
  s.updMe (fun (x : Strand) => { x with c := (l.zipIdx.foldl (fun c p => wr c (Fin.ofNat 64 (4 + p.2)) p.1) x.c) })

/-- The machine with registers v0, v1, ... holding some values. -/
def withV (l : List VReg) (s : State := machine) : State :=
  s.updMe (fun (x : Strand) => { x with v := (l.zipIdx.foldl (fun c p => wr c (Fin.ofNat 32 p.2) p.1) x.v) })

/-- Memory written at an offset of core 0's slice. -/
def withBytes (off : Nat) (bs : List Byte) (s : State := machine) : State :=
  { s with mem := memWrite s.mem (slicePhys 0 off) bs }

/-- A granule's tag set at an offset of core 0's slice. -/
def withTag (off : Nat) (s : State := machine) : State := { s with tags := tagSet s.tags (slicePhys 0 off) true }

/-- A capability stored at an offset of core 0's slice, with its tag. -/
def withCap (off : Nat) (c : CVal) (s : State := machine) : State :=
  let s1 := withBytes off (toBytes 16 c.val.toNat) s
  if c.tag then withTag off s1 else s1

/-- A packed quire of 512 elements at 0x11000, with its descriptor at 0x10000. -/
def quire (s : State := machine) : State :=
  withCap 0x10010 (ownAt 0x11000) (withBytes 0x10000 (toBytes 4 0 ++ toBytes 4 0 ++ toBytes 8 512) s)
/-- The capability of a quire's descriptor. -/
def quireCap : CVal := CVal.make 0x10000 96 [.ld, .ldcap, .local, .quire]

/-- A launch record of one level in domain 4, and a grid of two members on cores 0 and 1 that work in it. -/
def record : LaunchRec :=
  { start := .null, entry := .null, data := .null, stack := .null, cocoon := .null, levels := [0x84], clu := 0, posm := 0
    flags := 0, asid := 0, sdoms := 0, nteam := 1, tslice := 0, rper := 0, rbud := 0, rt0 := 0, rch := 0 }
def member (i : Nat) : Member := { i := i, core := Fin.ofNat 384 i, team := 0, ended := false }
def grid : Grid :=
  { id := 9, ended := false, r := record, members := [member 0, member 1], units := [], bars := [], placed := true, chans := []
    bins := [], digests := [] }

/-- The machine whose slot 0 works for a grid as its member 0. -/
def inGrid (g : Grid := grid) (s : State := machine) : State :=
  { s.updMe (fun (x : Strand) => { x with work := { x.work with grid := some g.id, member := some 0 } }) with grids := [g] }

/-- An engine operation of slot 0's work, number 1, with token 2. -/
def opOf (job : Job) (todo : List Piece) : Op :=
  { id := 1, core := 0, wid := 0, grid := none, asid := 0, token := some 2, dom := none, deferred := false, job := job, todo := todo, next := 0
    buf := [], cur := none, idx := [], bad := [], handed := none, logged := false, failed := false }

/-- The machine with one operation. -/
def withOp (o : Op) (s : State := machine) : State := { s with ops := [o], nextId := 5 }

/-- A failure of an access. -/
def fault : FaultInfo := { cause := .translation, write := false, spilled := false, perm := false, va := 0x10000, log := 0 }

/-- A speculative task of domain 1, run by slot 0's work. -/
def task : STask :=
  { id := 4, ts := 7, st := .running, parent := none, cluster := 0, entry := 2, core := some 0, reruns := 0, defer := [] }
def inTask (t : STask := task) (s : State := inGrid) : State :=
  (s.updDom 1 (fun (x : Domain) => { x with grid := some 9, tasks := [t] })).updMe (fun (x : Strand) =>
    { x with work := { x.work with task := some t.id, domain := 1, entry := some 2 } })

/-- Slot 0's lease of three accumulators, in frame 0, with its save area in the slice. -/
def lease : Lease :=
  { id := 3, pos := 0, core := 0, wid := 0, bin := none, asid := 0, nacc := 3, grantq := false, token := some 1
    save := CVal.make 0x40000 0x40000 [.ld, .st, .local, .eng], st := .resident 0, moving := false, cmds := []
    acc := Vector.replicate 8 .zero, slots := Vector.replicate 8 .empty, halves := Vector.replicate 2 .empty, mstat := 0
    lastUse := 0, spill := [] }

/-- The machine whose slot 0 holds a lease; `held` says which leases hold the two frames. -/
def withLease (l : Lease := lease) (held : Vector (Option Nat) 2 := #v[some 3, none]) (s : State := machine) : State :=
  { (s.updCluster 0 (fun (x : Cluster) => { x with leases := [l], frames := held })).updMe (fun (x : Strand) =>
    { x with lease := some l.id }) with nextId := 10 }

/-- An enabled channel: its code, and a control word. -/
def chanOn (ctl : Nat) : Chan := { code := own, data := num 77, stack := .null, ctl := BitVec.ofNat 128 ctl }

/-- The machine with an entry on a channel of core 0. -/
def withChan (ch : Fin 64) (e : Chan) (s : State := machine) : State := s.updChan 0 ch (fun _ => e)

/-- A message of core 5 on a channel, with a number of its pair. -/
def msgOn (ch flags seq : Nat) : Msg :=
  { aep := mkAep ch 2 0x8005 flags 3 4 5, stream := [1, 2], count := 2, wtype := 0, seq := BitVec.ofNat 32 seq, sender := .core 5
    waiter := none }

/-- A message as it stands in an inbox. -/
def inMsg (ch unit : Nat) : InMsg :=
  { unit := unit, chan := Fin.ofNat 64 ch, aep := mkAep ch 2 0x8005 0 3 4 5, words := [1, 2], wtype := 0, seq := 0, parked := false
    taken := false, since := 0 }

/-- The machine with messages in core 0's inbox. -/
def withInbox (l : List InMsg) (s : State := machine) : State :=
  s.updCore 0 (fun (x : Core) => { x with inbox := l, units := 200 })

/-- A window record of period 200 and timeout 50 that binds two sources and reaches cores 0 and 3. -/
def winRec : WinRec :=
  { ctl := 1 + 32 * 8 + 2 ^ 11 * 2, t0 := 100, period := 200, timeout := 50, mingap := 0, srcs := [7, 9], cores := 9 }

/-- The machine at 300 µs with a window 2 in a state, its target 250. -/
def withWin (st : WinSt) (s : State := machine) : State :=
  { s.updWin 2 (fun (w : Win) => { w with r := winRec, st := st, tgt := 250, openedAt := 200000, passedAt := 250000 }) with dt := 300000 }

/-- The machine at 300 µs with a bin 3 of core 0 that is enabled, its sheet open for a time. -/
def withBin (f : Bin → Bin) (s : State := machine) : State :=
  { s.updBin 0 3 (fun (b : Bin) => f { b with ctl := binCtlReset + 1, rows := 2, save := own }) with dt := 300000 }


/-- A capability's operand and the strand that has read it. -/
def got (x : Strand) (a : Fin 64) : CVal × Strand := (x.source a).getD (.null, x)

/-- The state that a result leaves, or the one before it. -/
def left {ε α : Type} (s : State) (e : Except ε (α × State)) : State :=
  match e with
  | .ok p => p.2
  | .error _ => s

/-- The state that an instruction leaves, or the one before it. -/
def after (s : State) (i : Instr) : State :=
  match exec i s with
  | .next t => t
  | _ => s

/-! ### Encodings that do not exist (01 R24) -/

/-- What a word cannot carry, a term for each check of `Instr.wellFormed` (01 R22, R24). -/
theorem test_ill_formed : ([
    .add 0 0 0 0, .addImm 1 2 3 0x200, .andImm 1 2 3 0x200, .orImm 1 2 3 0x200, .xorImm 1 2 3 0x200, .li 1 2 0x200,
    .cmpi 0 0 1 2 0x200, .cincImm 0 1 2 0x200, .cbndImm 0 1 2 0x200, .rep 0 1 0x200, .sllImm 0 1 2 64, .srlImm 0 1 2 64,
    .sraImm 0 1 2 64, .rotImm 0 1 2 0x3FF, .cmp 0 6 1 2 3, .cmpi 0 7 1 2 3, .cmpiLiteral 0 6 1 2 3, .cmpAnd 0 6 1 2 3,
    .cmpOr 0 6 1 2 3, .fcmp 0 6 1 2 3, .repReg 0 1 0] : List Instr).all (fun i => !i.wellFormed) = true := by decide

/-- The escape offset of loads and stores, and registers past c59 in a burst (01 R22; 04 R109). -/
theorem test_ill_formed_memory : ([
    .ldB 0 1 2 0 0x20, .ldH 0 1 2 0 0x20, .ldW 0 1 2 0 0x20, .ldD 0 1 2 0 0x20, .ldQ 0 1 2 0 0x20, .stB 0 1 2 0x20,
    .stH 0 1 2 0x20, .stW 0 1 2 0x20, .stD 0 1 2 0x20, .stQ 0 1 2 0x20, .ldc 0 1 2 0 0x20, .stc 0 1 2 0x20,
    .ldq 0 1 2 0x20, .stq 0 1 2 0x20, .vld 0 1 2 0 0x20, .vst 0 1 2 0 0x20, .ldm 0 58 1 2, .stm 0 58 1 2, .ldm 0 0 1 0,
    .stm 0 0 1 0, .fenceAcq 0 9, .fenceRel 0 9, .fenceAr 0 15] : List Instr).all (fun i => !i.wellFormed) = true := by decide

/-- The lane width 3, an odd or too high pair, and reserved types and formats of vectors (05 R127, R131, R134, R135, R139,
R144). -/
theorem test_ill_formed_vector : ([
    .vaddInt 0 3 1 2 3 0, .vsubInt 0 3 1 2 3 0, .vmulInt 0 3 1 2 3 0, .vminInt 0 3 1 2 3 0, .vmaxInt 0 3 1 2 3 0,
    .vand 0 3 1 2 3 0, .vor 0 3 1 2 3 0, .vxor 0 3 1 2 3 0, .vshl 0 3 1 2 3 0, .vshr 0 3 1 2 3 0, .vshrA 0 3 1 2 3 0,
    .vcmp 0 1 2 3 0 0 6, .vcmp 0 1 2 3 0 1 4, .vcmp 0 1 2 3 0 1 7, .vmerge 0 1 2 3 4, .vmerge 0 30 2 3 4, .vbsum 0 3 1 2 3,
    .vred 0 1 2 0 0 20, .vscan 0 1 2 0 0 20, .vcvt 0 1 2 1 0 16] : List Instr).all (fun i => !i.wellFormed) = true := by decide

/-- The neighbours of what no encoding carries are well formed. -/
theorem test_well_formed : ([
    .add 0 0 0 1, .addImm 1 2 3 0x1FF, .sllImm 0 1 2 63, .cmp 0 5 1 2 3, .ldB 0 1 2 0 0x1F, .ldm 0 58 2 1, .fenceAcq 0 8,
    .vaddInt 0 2 1 2 3 0, .vcmp 0 1 2 3 0 0 5, .vcmp 0 1 2 3 0 1 6, .vmerge 0 28 2 3 4, .vbsum 0 2 1 2 3, .vred 0 1 2 0 0 19,
    .vcvt 0 1 2 0 0 16, .vcvt 0 1 2 1 0 15, .repReg 0 1 1] : List Instr).all (fun i => i.wellFormed) = true := by decide

/-- The all-zero word and a word with a reserved field are refused by the decoder (01 R24). -/
theorem test_refused_words : (decode 0 0).isOk = false ∧ (decode 0x0003F00F 0).isOk = false := by decide

/-! ### Words written out from the encodings -/

/-- Words of the scalar integer (03 R69-R76), from the fields of the opcode table. -/
theorem test_decode_scalar_integer : ([
    (0x603D29A0, 0, .add 3 61 10 26), (0xC0041751, 0, .sub 6 4 5 53), (0xA0076262, 0, .and 5 7 24 38),
    (0x203B84E3, 0, .or 1 59 33 14), (0x200671B4, 0, .xor 1 6 28 27), (0x20101A45, 0, .andn 1 16 6 36),
    (0x8004D656, 0, .sll 4 4 53 37), (0x203D3E97, 0, .srl 1 61 15 41), (0xC026F448, 0, .sra 6 38 61 4),
    (0xA0266849, 0, .rot 5 38 26 4), (0x4003937A, 0, .min 2 3 36 55), (0x40136CAB, 0, .max 2 19 27 10),
    (0xA0489540, 0, .mul 5 8 37 20), (0xA075B0C1, 0, .mulh 5 53 44 12), (0x20669692, 0, .mulhU 1 38 37 41),
    (0x40581E43, 0, .div 2 24 7 36), (0xC0459444, 0, .divU 6 5 37 4), (0xA04E82C5, 0, .rem 5 14 32 44),
    (0xA05CC956, 0, .remU 5 28 50 21), (0x80A6F000, 0, .clz 4 38 60), (0x80985001, 0, .popc 4 24 20),
    (0x40B33002, 0, .mov 2 51 12), (0xC0B24003, 0, .sextB 6 50 16), (0x20A55004, 0, .sextH 1 37 20),
    (0xA0A0E405, 0, .sextW 5 32 57), (0x60AF7406, 0, .zextB 3 47 29), (0x60A7FC07, 0, .zextH 3 39 63),
    (0x20888408, 0, .zextW 1 8 33), (0x80CBC55F, 0, .addImm 4 11 49 0x15f),
    (0x40FC8200, 0x6BF46C6A, .addImmLiteral 2 60 32 0x6bf46c6a), (0x213EAC50, 0, .andImm 1 62 43 0x50),
    (0xE1249600, 0xCA02135F, .andImmLiteral 7 36 37 0xca02135f), (0xE1555AC8, 0, .orImm 7 21 22 0x2c8),
    (0x61678200, 0x9474031C, .orImmLiteral 3 39 32 0x9474031c), (0xE19E175D, 0, .xorImm 7 30 5 0x35d),
    (0x21BD4A00, 0x795E822A, .xorImmLiteral 1 61 18 0x795e822a), (0xC1EB143F, 0, .sllImm 6 43 5 0x3f),
    (0xC22D5018, 0, .srlImm 6 45 20 0x18), (0x82572C3D, 0, .sraImm 4 23 11 0x3d),
    (0x42B24C0D, 0, .rotImm 2 50 19 0xd), (0x82F6025C, 0, .li 4 54 0x25c),
    (0x42D10200, 0x482C9CBD, .liLiteral 2 17 0x482c9cbd), (0x23148D7B, 0, .cmpi 1 2 4 35 0x17b),
    (0xA32BF600, 0x20203627, .cmpiLiteral 5 5 3 61 0x20203627), (0xA36469A0, 0, .cmp 5 4 4 26 26),
    (0x23666841, 0, .cmpAnd 1 4 6 26 4), (0x434A74B2, 0, .cmpOr 2 1 2 29 11), (0x23831400, 0, .gnot 1 3 5),
    (0x23810451, 0, .gand 1 1 1 5), (0x43850432, 0, .gor 2 5 1 3), (0xA3C21782, 0, .sel 5 2 5 56 2)] :
    List (Nat × Nat × Instr)).all (fun p => decode p.1 p.2.1 == .ok p.2.2) = true := by decide

/-- Words of the scalar floating point (03 R77-R80), from the fields of the opcode table. -/
theorem test_decode_scalar_floating_point : ([
    (0xA4192A90, 0, .fadd 5 25 10 41), (0x643E5E71, 0, .fsub 3 62 23 39), (0x641F2082, 0, .fmul 3 31 8 8),
    (0xE420FDE3, 0, .fdiv 7 32 63 30), (0x841F5064, 0, .fmin 4 31 20 6), (0x4407C165, 0, .fmax 2 7 48 22),
    (0xC4117C06, 0, .fsqrt 6 17 31), (0xE46D2E20, 0, .ffma 7 45 11 34), (0x244EF7D1, 0, .ffmaN 1 14 61 61),
    (0xA49AB630, 0, .fcmp 5 3 2 45 35), (0x24F18800, 0, .fcvtF32I64 1 49 34), (0x64FFA801, 0, .fcvtF32U64 3 63 42),
    (0xE4C6B402, 0, .fcvtI64F32 7 6 45), (0xE4D18803, 0, .fcvtU64F32 7 17 34), (0x64FB2C04, 0, .fcvtBf16F32 3 59 11),
    (0x64F23C05, 0, .fcvtF16F32 3 50 15), (0xA4E3C806, 0, .fcvtF32Bf16 5 35 50), (0xA4D6A407, 0, .fcvtF32F16 5 22 41)] :
    List (Nat × Nat × Instr)).all (fun p => decode p.1 p.2.1 == .ok p.2.2) = true := by decide

/-- Words of the capabilities (03 R82-R89), from the fields of the opcode table. -/
theorem test_decode_capabilities : ([
    (0x4528D330, 0, .cbnd 2 40 52 51), (0xE5373741, 0, .cinc 7 55 13 52), (0x45356B02, 0, .caddr 2 53 26 48),
    (0xE50F3623, 0, .cperm 7 15 13 34), (0x8517BC04, 0, .ctagc 4 23 47), (0x2502CC05, 0, .cgetBase 1 2 51),
    (0x651F4406, 0, .cgetTop 3 31 17), (0x452D9C07, 0, .cgetLen 2 45 39), (0x651DD008, 0, .cgetPerm 3 29 52),
    (0xC517F809, 0, .cgetTag 6 23 62), (0x65463C69, 0, .cincImm 3 6 15 0x69),
    (0x455F3600, 0x5675F6AE, .cincImmLiteral 2 31 13 0x5675f6ae), (0x459FA3F1, 0, .cbndImm 2 31 40 0x3f1),
    (0xA5B60600, 0x7ABEC53A, .cbndImmLiteral 5 54 1 0x7abec53a)] :
    List (Nat × Nat × Instr)).all (fun p => decode p.1 p.2.1 == .ok p.2.2) = true := by decide

/-- Words of the control (03 R90-R98), from the fields of the opcode table. -/
theorem test_decode_control : ([
    (0xC6160436, 0, .j 6 1442870), (0xE6692918, 0, .call 7 2697496), (0x2680D800, 0, .jr 1 54),
    (0xC6800001, 0, .ret 6), (0x26E32115, 0, .bgF 1 4 205077), (0xC6FCCC1B, 0, .bgT 6 7 52251),
    (0x873900B7, 0, .rep 4 57 0xb7), (0x87330200, 0xA2C68E46, .repLiteral 4 51 0xa2c68e46),
    (0x6706D000, 0, .repReg 3 6 52), (0xC7400000, 0, .nop 6), (0x878000EE, 0, .trap 4 238),
    (0x87C0C3D0, 0, .suspend 4 48 61), (0x27C00001, 0, .hend 1)] :
    List (Nat × Nat × Instr)).all (fun p => decode p.1 p.2.1 == .ok p.2.2) = true := by decide

/-- Words of the scalar memory accesses (04 R107-R110), from the fields of the opcode table. -/
theorem test_decode_scalar_memory_accesses : ([
    (0xC80B2CC2, 0, .ldB 6 11 11 3 2), (0x4826EA20, 0xCE76E9F5, .ldBLiteral 2 38 58 8 0xce76e9f5),
    (0xC84AA3A7, 0, .ldH 6 10 40 14 39), (0x886BF1A0, 0x27E9E070, .ldHLiteral 4 43 60 6 0x27e9e070),
    (0xA8A42441, 0, .ldW 5 36 9 1 1), (0xE8BFBEE0, 0x1A4F44FA, .ldWLiteral 7 63 47 11 0x1a4f44fa),
    (0xA8F0F0DC, 0, .ldD 5 48 60 3 28), (0xE8CDD7A0, 0x3606DEFD, .ldDLiteral 7 13 53 14 0x3606defd),
    (0x29113961, 0, .ldQ 1 17 14 5 33), (0x493199A0, 0x4265BB32, .ldQLiteral 2 49 38 6 0x4265bb32),
    (0xA95BD809, 0, .stB 5 27 54 9), (0x297BC020, 0x5A9196F1, .stBLiteral 1 59 48 0x5a9196f1),
    (0x896B9875, 0, .stH 4 43 38 53), (0xA95BD460, 0xEAEFC4D3, .stHLiteral 5 27 53 0xeaefc4d3),
    (0xA9498C8A, 0, .stW 5 9 35 10), (0xA96108A0, 0xDF703018, .stWLiteral 5 33 2 0xdf703018),
    (0x897230E7, 0, .stD 4 50 12 39), (0x2972D0E0, 0x265974A8, .stDLiteral 1 50 52 0x265974a8),
    (0x494A7D28, 0, .stQ 2 10 31 40), (0xC9489120, 0x0FCF31CB, .stQLiteral 6 8 36 0xfcf31cb),
    (0x69AC8A64, 0, .ldc 3 44 34 9 36), (0x89B3C8A0, 0xE21B37CB, .ldcLiteral 4 51 50 2 0xe21b37cb),
    (0xA9C4400D, 0, .stc 5 4 16 13), (0x69C3C820, 0x1905D592, .stcLiteral 3 3 50 0x1905d592),
    (0xAA0F9002, 0, .ldq 5 15 36 2), (0xEA1DEC20, 0x1038F0B6, .ldqLiteral 7 29 59 0x1038f0b6),
    (0x8A4BA03F, 0, .stq 4 11 40 63), (0xAA548420, 0x330C16A4, .stqLiteral 5 20 33 0x330c16a4),
    (0xCA927610, 0, .ldm 6 18 29 33), (0x8A8869D1, 0, .stm 4 8 26 29)] :
    List (Nat × Nat × Instr)).all (fun p => decode p.1 p.2.1 == .ok p.2.2) = true := by decide

/-- Words of the vector accesses (04 R111, R112), from the fields of the opcode table. -/
theorem test_decode_vector_accesses : ([
    (0x6AC3AD1C, 0, .vld 3 3 43 4 28), (0x2AC7AD60, 0xC8B007EF, .vldLiteral 1 7 43 5 0xc8b007ef),
    (0x2B1DC8BD, 0, .vst 1 29 50 2 61), (0xCB15ACE0, 0x249A4585, .vstLiteral 6 21 43 3 0x249a4585),
    (0x6B5D27E8, 0, .vlds 3 29 9 62 2), (0x4B58F449, 0, .vldx 2 24 61 4 2), (0x8B46AF66, 0, .vsts 4 6 43 54 1),
    (0x4B57711B, 0, .vstx 2 23 28 17 2)] :
    List (Nat × Nat × Instr)).all (fun p => decode p.1 p.2.1 == .ok p.2.2) = true := by decide

/-- Words of the atomics, fences and moves (04 R113-R121), from the fields of the opcode table. -/
theorem test_decode_atomics_fences_and_moves : ([
    (0x6B9B3570, 0, .amoAdd 3 27 13 23), (0x6B86BD81, 0, .amoAnd 3 6 47 24), (0x2B9691E2, 0, .amoOr 1 22 36 30),
    (0x8BAE0993, 0, .amoXor 4 46 2 25), (0x6BA2A134, 0, .amoMin 3 34 40 19), (0xABBE1485, 0, .amoMax 5 62 5 8),
    (0xEB8FFF96, 0, .amoMinu 7 15 63 57), (0x2B864527, 0, .amoMaxu 1 6 17 18), (0x2BBAC8C8, 0, .amoSwap 1 58 50 12),
    (0x6BB12759, 0, .amoCas 3 49 9 53), (0x8BB7EECA, 0, .amoFadd 4 55 59 44), (0xEBD50000, 0, .fenceAcq 7 5),
    (0x8BE30000, 0, .fenceRel 4 3), (0x6BF20000, 0, .fenceAr 3 2), (0x6BC01341, 0, .afence 3 4 52),
    (0xCBC03002, 0, .pfx 6 12), (0x8BC0E803, 0, .touch 4 58), (0x2BC14803, 0, .touchW 1 18),
    (0x2BC60004, 0, .bar 1 6), (0x2BC74465, 0, .get 1 7 17 6), (0xABC73C56, 0, .give 5 7 15 5)] :
    List (Nat × Nat × Instr)).all (fun p => decode p.1 p.2.1 == .ok p.2.2) = true := by decide

/-- Words of the vector (05), from the fields of the opcode table. -/
theorem test_decode_vector : ([
    (0x6C5E15D0, 0, .vaddInt 3 1 15 1 11 5), (0x8CA85151, 0, .vsubInt 4 2 20 5 2 5),
    (0xCC7E4332, 0, .vmulInt 6 1 31 4 6 3), (0x2C4FE563, 0, .vminInt 1 1 7 30 10 6),
    (0x2C8410E4, 0, .vmaxInt 1 2 2 1 1 6), (0x8C6DBAC5, 0, .vand 4 1 22 27 21 4),
    (0xCCA5BEC6, 0, .vor 6 2 18 27 29 4), (0xACAE7437, 0, .vxor 5 2 23 7 8 3), (0x6C765098, 0, .vshl 3 1 27 5 1 1),
    (0x2C6DB6F9, 0, .vshr 1 1 22 27 13 7), (0x6C5E633A, 0, .vshrA 3 1 15 6 6 3), (0x8CC29630, 0, .vaddF32 4 1 9 12 3),
    (0xACD68131, 0, .vsubF32 5 11 8 2 3), (0x4CD860B2, 0, .vmulF32 2 12 6 1 3), (0x8CC704D3, 0, .vminF32 4 3 16 9 5),
    (0xCCCE88F4, 0, .vmaxF32 6 7 8 17 7), (0x2CC69D95, 0, .vfmaF32 1 3 9 27 1), (0x4D1B3140, 0, .vaddF16 2 13 19 2 4),
    (0x2D14AAA1, 0, .vsubF16 1 10 10 21 2), (0x2D27F8F2, 0, .vmulF16 1 19 31 17 7),
    (0xED0B6EE3, 0, .vminF16 7 5 22 29 6), (0xED3B46F4, 0, .vmaxF16 7 29 20 13 7),
    (0x6D3102B5, 0, .vfmaF16 3 24 16 5 3), (0xCD695290, 0, .vaddBf16 6 20 21 5 1),
    (0xED777ED1, 0, .vsubBf16 7 27 23 29 5), (0xCD5D8BF2, 0, .vmulBf16 6 14 24 23 7),
    (0xAD4BE8F3, 0, .vminBf16 5 5 30 17 7), (0xAD67BDF4, 0, .vmaxBf16 5 19 27 27 7),
    (0x2D7769F5, 0, .vfmaBf16 1 27 22 19 7), (0xCD8DFBE9, 0, .vcmp 6 6 31 23 6 1 1),
    (0x2DC45AB0, 0, .vsel 1 2 5 21 3), (0x2DDBB7D1, 0, .vperm 1 13 27 15 5), (0xCDD10492, 0, .vmerge 6 8 16 9 1),
    (0x8DF43063, 0, .vcomp 4 26 3 6), (0xADFB2014, 0, .vexpd 5 29 18 1), (0xCE220170, 0, .vbcast 6 17 5 6),
    (0xCE200479, 0, .vrnd 6 16 17 7), (0x2E380452, 0, .vrndf 1 28 17 2), (0xCE3273F3, 0, .nrns 6 25 7 15 6),
    (0xCE00F83C, 0, .spkout 6 15 32 7), (0x8E0504B5, 0, .vbsum 4 2 16 18 6), (0x2E017386, 0, .bsadd 1 23 14),
    (0xCE6004F0, 0, .movVc 6 16 19 6), (0xAE40A7A1, 0, .movCv 5 10 30 4), (0x8E4E0202, 0, .movMc 4 7 8),
    (0xAE402503, 0, .movCm 5 2 20), (0x2EBD02AF, 0, .vred 1 30 16 1 5 15), (0x2EF718AD, 0, .vscan 1 27 17 4 5 13),
    (0x4F3DF444, 0, .vsqrt 2 30 31 2 2 1), (0x4F3116C5, 0, .vexp2 2 24 17 3 6 1),
    (0xAF375AA6, 0, .vlog2 5 27 21 5 5 1), (0xCF1889E7, 0, .vrcp 6 12 8 4 15 1),
    (0x8F426316, 0, .vdivF32 4 1 6 1 8 22), (0x8F9AAC6E, 0, .vcvt 4 13 10 6 3 14),
    (0x6FDAB3CB, 0, .vdivF16 3 13 11 1 14 11)] :
    List (Nat × Nat × Instr)).all (fun p => decode p.1 p.2.1 == .ok p.2.2) = true := by decide

/-- Words of the tiles (06 R150, R151), from the fields of the opcode table. -/
theorem test_decode_tiles : ([
    (0x301F6690, 0, .trd 1 3 1 54 13 4), (0x5037AC29, 0, .twr 2 6 1 58 24 10), (0x70180002, 0, .tzero 3 3),
    (0x30200003, 0, .ttrans 1 4), (0x90470000, 0, .tclaim 4 7), (0xB0410001, 0, .tfree 5 1)] :
    List (Nat × Nat × Instr)).all (fun p => decode p.1 p.2.1 == .ok p.2.2) = true := by decide

/-- Words of the quires (06 R170-R175), from the fields of the opcode table. -/
theorem test_decode_quires : ([
    (0x7080F731, 0, .pld 3 15 28 49), (0x708F0112, 0, .pst 3 7 4 18), (0x30910DAB, 0, .plupd 1 1 54 43),
    (0x709E0F0A, 0, .plaxpy 3 6 60 10), (0x50A05721, 0, .plhdr 2 5 28 33)] :
    List (Nat × Nat × Instr)).all (fun p => decode p.1 p.2.1 == .ok p.2.2) = true := by decide

/-- Words of the matrix (06 R152-R167), from the fields of the opcode table. -/
theorem test_decode_matrix : ([
    (0x72020C98, 0, .mlease 3 2 50 24), (0xF2080000, 0, .mfree 7), (0x92790800, 0, .mgeo 4 57 2),
    (0xF271A401, 0, .mgeor 7 49 41), (0x927BE402, 0, .mstat 4 59 57), (0xB2450003, 0, .mzero 5 5),
    (0x52860184, 0, .mldb 2 6 6 4), (0xD28C0768, 0, .mgath 6 4 29 40), (0xF292BE13, 0, .mrd 7 2 11 56 19),
    (0x98A8A7C0, 0, .mma 4 2 5 1 2 31), (0x9AD8BC08, 0, .mmaSet 4 11 3 1 3 48),
    (0xDD58E410, 0, .mmaSub 6 21 3 1 6 16), (0x7C2892D8, 0, .mrun 3 16 5 1 1 11),
    (0xD988DEA0, 0, .mrunSet 6 6 1 1 5 58), (0xFC28CEE8, 0, .mrunSub 7 16 5 1 4 59)] :
    List (Nat × Nat × Instr)).all (fun p => decode p.1 p.2.1 == .ok p.2.2) = true := by decide

/-- Words of the messages, windows and channels (07 R176-R188), from the fields of the opcode table. -/
theorem test_decode_messages_windows_and_channels : ([
    (0x7400C5D0, 0, .send 3 49 29), (0x94002641, 0, .sendi 4 9 36), (0x54004002, 0, .wmark 2 16),
    (0x34003003, 0, .waitch 1 12), (0x74241954, 0, .hmask 3 36 6 21), (0x54006115, 0, .hset 2 24 17),
    (0xF40094D6, 0, .chcap 7 37 13), (0x3440C380, 0, .wincfg 1 48 56), (0x94406401, 0, .winclose 4 25)] :
    List (Nat × Nat × Instr)).all (fun p => decode p.1 p.2.1 == .ok p.2.2) = true := by decide

/-- Words of the Deckle (07 R189-R192), from the fields of the opcode table. -/
theorem test_decode_deckle : ([
    (0x9480C220, 0, .dkcfg 4 48 34), (0x54806401, 0, .dkflush 2 25), (0x7496C402, 0, .dkstat 3 22 49)] :
    List (Nat × Nat × Instr)).all (fun p => decode p.1 p.2.1 == .ok p.2.2) = true := by decide

/-- Words of the copies and tokens (07 R193-R197), from the fields of the opcode table. -/
theorem test_decode_copies_and_tokens : ([
    (0x34C404A5, 0, .xcopy 1 4 18 37), (0x74C80009, 0, .xresume 3 9), (0xD5218800, 0, .xgeo 6 33 34),
    (0xD5331F71, 0, .ttest 6 51 7 55), (0x55400018, 0, .twait 2 24)] :
    List (Nat × Nat × Instr)).all (fun p => decode p.1 p.2.1 == .ok p.2.2) = true := by decide

/-- Words of the tasks and speculation (07 R198-R201), from the fields of the opcode table. -/
theorem test_decode_tasks_and_speculation : ([
    (0x7580E900, 0, .spawn 3 58 16), (0x95800001, 0, .done 4), (0x9580A802, 0, .doneJ 4 42),
    (0x959CF803, 0, .launch 4 28 62), (0x75800004, 0, .yield 3), (0xF5C0D780, 0, .tspawn 7 53 56),
    (0x35C00001, 0, .tdone 1), (0x55C00DC2, 0, .tabort 2 3 28), (0xD5F1E803, 0, .tfront 6 49 58),
    (0xF5C07FE4, 0, .twaitc 7 31 62)] :
    List (Nat × Nat × Instr)).all (fun p => decode p.1 p.2.1 == .ok p.2.2) = true := by decide

/-- Words of the exact accumulators (07 R202), from the fields of the opcode table. -/
theorem test_decode_exact_accumulators : ([
    (0xB6200400, 0, .xacq 5 32 1), (0x36006BC1, 0, .xadd 1 26 60), (0xF622DC02, 0, .xrd 7 34 55),
    (0x9600FC03, 0, .xrel 4 63)] :
    List (Nat × Nat × Instr)).all (fun p => decode p.1 p.2.1 == .ok p.2.2) = true := by decide

/-- Words of the walks and prefetch (14 R285, 13 R269), from the fields of the opcode table. -/
theorem test_decode_walks_and_prefetch : ([
    (0x96420CC7, 0, .pwalk 4 2 51 7), (0x568028A0, 0, .pfcfg 2 10 10), (0xB680FC01, 0, .pfstop 5 63)] :
    List (Nat × Nat × Instr)).all (fun p => decode p.1 p.2.1 == .ok p.2.2) = true := by decide

/-- Words of the system (07 R203-R207), from the fields of the opcode table. -/
theorem test_decode_system : ([
    (0xD70703C5, 0, .sysrd 6 7 965), (0xF740BECE, 0, .syswr 7 47 718), (0xD780DC00, 0, .uret 6 55),
    (0xF7800001, 0, .tret 7), (0x97819322, 0, .tlbi 4 1 36 50), (0x37800403, 0, .snap 1 1),
    (0xF7802404, 0, .freeze 7 9), (0x57809405, 0, .resumef 2 37)] :
    List (Nat × Nat × Instr)).all (fun p => decode p.1 p.2.1 == .ok p.2.2) = true := by decide

/-! ### What the statements ask for can be met: scalar instructions and control -/

/-- c4 = 7, c5 = 64, c6 = -2^63, c7 a capability over the core's own slice, c8 one that may execute. -/
def scalars : State := withC [num 7, num 64, num (2 ^ 63), own, CVal.make 0x1000 4096 [.exec, .local]]

/-- ScalarIntegerResults, with a shift count of 64 and the most negative number; a destination c60 takes the result too. -/
theorem witness_scalar_integer :
    scalars.me.guard 0 = true ∧ (scalars.me.source 6).isSome = true ∧ ((got scalars.me 6).2.source 5).isSome = true ∧
    (scalars.me.result 9 (num 0)).isSome = true ∧ (scalars.me.result 0 (num 1)).isSome = true := by decide +kernel

/-- CompareAndSelectResults and ScalarFloatResults: three operands, one register twice. -/
theorem witness_three_operands :
    scalars.me.guard 0 = true ∧ (scalars.me.source 4).isSome = true ∧ ((got scalars.me 4).2.source 4).isSome = true ∧
    ((got scalars.me 4).2.source 9).isSome = true ∧ (scalars.me.result 9 (num 0)).isSome = true := by decide +kernel

/-- CapabilityResults: a length that the capability can be narrowed to, and one past its top. -/
theorem witness_capabilities :
    scalars.me.guard 0 = true ∧ (scalars.me.source 7).isSome = true ∧ ((got scalars.me 7).2.source 5).isSome = true ∧
    (own.narrow 64).isOk = true ∧ (own.narrow 0x10001).isOk = false := by decide +kernel

/-- ControlResults: a near target at both ends of PCC's bounds and one past them, both values of a branch's guard, a code
capability to jump to. -/
theorem witness_jumps :
    let t := fun (k : Int) => scalars.me.pcc.addr + BitVec.ofInt 64 (4 * k)
    scalars.me.guard 0 = true ∧ scalars.me.pcc.inBounds (t 1023).toNat 4 = true ∧ scalars.me.pcc.inBounds (t 0).toNat 4 = true ∧
    scalars.me.pcc.inBounds (t 1024).toNat 4 = false ∧ scalars.me.pcc.inBounds (t (-1)).toNat 4 = false ∧
    scalars.me.guard 3 = false ∧ (got scalars.me 8).1.tag = true ∧ (got scalars.me 8).1.has .exec = true ∧
    (got scalars.me 8).1.addr.toNat % 4 = 0 ∧ (got scalars.me 8).1.inBounds (got scalars.me 8).1.addr.toNat 4 = true ∧
    (scalars.me.result 1 (num 0)).isSome = true := by decide +kernel

/-- `ret` with code in c1, and a repetition that stands. -/
def returns : State := scalars.updMe (fun (x : Strand) =>
  { x with c := wr x.c 1 (CVal.make 0x1000 4096 [.exec, .local])
           rep := some { start := 0x1004, next := 0x1008, len := 3, pos := 1, left := 2, parked := false } })

theorem witness_returns :
    (rd returns.me.c 1).tag = true ∧ (rd returns.me.c 1).has .exec = true ∧
    (rd returns.me.c 1).inBounds (rd returns.me.c 1).addr.toNat 4 = true := by decide +kernel

/-- RepeatStarts: no repetition and one; counts 1, 65,535 and 0, and 65,536 of a literal. -/
theorem witness_repetitions :
    scalars.me.rep = none ∧ returns.me.rep ≠ none ∧ (0 < (1 : BitVec 10).toNat ∧ (1 : BitVec 10).toNat ≤ 65535) ∧
    (65535 : Word).toNat ≤ 65535 ∧ (0 : BitVec 10).toNat = 0 ∧ 65535 < (65536 : Word).toNat ∧
    (scalars.me.source 5).isSome = true := by decide +kernel

/-! ### Loads, stores, atomics, fences -/

/-- Bytes at 0x10000, a tagged granule at 0x10020; c4 and c5 name them, c6 = 7, v0 and v1 hold lanes, v30 and c61's queue
some entries. -/
def accesses : State :=
  (withV [0x123456789abcdef0, 5] (withTag 0x10020 (withBytes 0x10000 [1, 2, 3, 4, 5, 6, 7, 8, 9]
    (withC [ownAt 0x10000, ownAt 0x10020, num 7, ownAt 0x1FFF0])))).updMe
      (fun (x : Strand) => { x with stq := [1, 2, 3, 4], m := wr x.m 1 0xF0F })

/-- LoadResults: an address and the last one in bounds, tagged or not. -/
theorem witness_loads :
    accesses.me.guard 0 = true ∧ (accesses.me.source 4).isSome = true ∧ accesses.me.loadsPending = false ∧
    accesses.mayAccess (got accesses.me 4).1 [.ld] 0x10000 16 16 ∧ accesses.mayAccess (got accesses.me 4).1 [.ld] 0x1FFFF 1 1 ∧
    ((accesses.setMe (got accesses.me 4).2).load 0 0 accesses.nextId true 0x10020 16).isOk = true ∧
    (accesses.me.landing 6 (num 0)).isSome = true := by
  unfold State.mayAccess; decide +kernel

/-- A vector's 128 bytes, the largest lookahead, the last ordinary registers. -/
theorem witness_lookahead :
    accesses.mayAccess (got accesses.me 4).1 [.ld] 0x10000 128 4 ∧ ((15 : Fin 16) ≠ 0) ∧ 0 < (59 : Fin 64).val ∧
    (59 : Fin 64).val < 60 ∧ (29 : Fin 32).val < 30 := by
  unfold State.mayAccess; decide +kernel

/-- StoreAndBurstResults: data from a register and from the queue c61, plain and tagged; room on the write path and in the
queues. -/
theorem witness_stores :
    (accesses.me.storeData 6).isSome = true ∧ (accesses.me.storeData 5).isSome = true ∧ (accesses.me.storeData 61).isSome = true ∧
    accesses.specOf accesses.me = none ∧ accesses.outstanding 0 0 < 16 ∧
    accesses.mayAccess (got accesses.me 4).1 [.st] 0x10008 8 8 ∧ accesses.mayAccess (got accesses.me 5).1 [.st, .stcap] 0x10020 16 16 ∧
    accesses.mayAccess (got accesses.me 4).1 [.ld] 0x10000 512 16 ∧ accesses.me.ldq.length + 32 ≤ 32 ∧
    accesses.mayAccess (got accesses.me 4).1 [.st] 0x10000 64 16 ∧ 4 ≤ accesses.me.stq.length ∧
    ((accesses.setMe accesses.me).load 0 0 accesses.nextId true 0x10000 32).isOk = true ∧
    (accesses.burst 6 true (quadsOf (List.replicate 32 (0, false)) 2)).isOk = true := by
  unfold State.mayAccess; decide +kernel

/-- VectorMemoryTransfers: all lanes, the lanes of m1, none; strided and indexed. -/
theorem witness_vector_memory :
    (accesses.me.storeDataV 0).isSome = true ∧ (accesses.me.source 6).isSome = true ∧ (accesses.me.sourceV 1).isSome = true ∧
    (accesses.checkLanes (got accesses.me 4).1 .st ((strided (accesses.me.mask 1) 0x10000 8).map (·.2))).isOk = true ∧
    (accesses.checkLanes (got accesses.me 4).1 .ld ((indexed (accesses.me.mask 0) 0x10000 0).map (·.2))).isOk = true ∧
    (accesses.loadLanes (got accesses.me 4).1 (strided (accesses.me.mask 1) 0x10000 8)).isOk = true ∧
    onLanes (accesses.me.mask 1) ≠ [] ∧ onLanes (accesses.me.mask 2) = [] := by decide +kernel

/-- AtomicResults: posted and returning, in the own slice, its operands plain. -/
theorem witness_atomics :
    accesses.mayAccess (got accesses.me 4).1 [.ld, .st] 0x10000 8 8 true ∧ ((got accesses.me 4).2.source 6).isSome = true ∧
    accesses.me.ticket = none ∧ accesses.me.amoErr = none ∧ accesses.specOf accesses.me = none ∧ accesses.outstanding 0 0 < 16 ∧
    accesses.crossing true 0x10000 8 = false ∧ (got accesses.me 4).1.has .local = true ∧
    (accesses.translateAll (accesses.whoOf 0 0) true .write [(0x10000, 8)]).isOk = true ∧
    poisoned accesses.poison (slicePhys 0 0x10000) 8 = false := by
  unfold State.mayAccess; decide +kernel

/-- FencesAndBarriersComplete: nothing to wait for; a store of another work on the write path; pfx of an empty port. -/
theorem witness_fences :
    accesses.me.loadsPending = false ∧ accesses.myCore.wpath = [] ∧ accesses.me.took = [] ∧ (2 : Fin 16).val = 2 ∧
    ((accesses.updMe (fun (x : Strand) => { x with ldq := [] })).useC 60).isOk = false ∧ accesses.me.work.task = none ∧
    accesses.mayAccess (got accesses.me 4).1 [.ld] 0x10000 7 1 ∧
    (accesses.translate (accesses.whoOf 0 0) true 0x10000 .read).1.isOk = true ∧
    (accesses.translate (accesses.whoOf 0 0) true 0x10000 .write).1.isOk = true ∧
    (accesses.translate (accesses.whoOf 0 0) true 0x1FB000 .read).1.isOk = false ∧ CVal.null.tag = false := by
  unfold State.mayAccess; decide +kernel

/-- A grid of two members whose other one has arrived at a level of a team, and one whose level is the strand's alone. -/
def arriving : Grid := { grid with bars := [{ level := 0, team := 0, gen := 3, arrived := [1] }] }

theorem witness_barrier :
    let s := inGrid arriving
    s.me.work.task = none ∧ s.me.work.grid = some 9 ∧ (s.grid 9).isSome = true ∧ s.me.work.member = some (member 0).i ∧
    arriving.members.find? (fun y => y.i == 0) = some (member 0) ∧ arriving.r.domain 0 = some 4 ∧
    ({ record with levels := [0x80] } : LaunchRec).domain 0 = some 0 ∧ s.me.loadsPending = false ∧ s.outstanding 0 0 = 0 ∧
    s.me.barAt = none ∧ (arriving.members.all (fun y => y.ended || y.i == 0 ||
      (arriving.bar 0 (arriving.teamKey 0 (member 0))).arrived.contains y.i)) = true := by decide +kernel

/-- A posted store, an atomic and an `xadd` on core 0's write path; one to a page that no region permits. -/
def post (kind : PKind) : Posted := { id := 1, slot := 0, wid := 0, asid := 0, cap := own, va := 0x10000, kind := kind }
def postBad : Posted := { post (.store [(0x1FB000, [1, 2, 3, 4])] []) with va := 0x1FB000 }
def withPost (p : Posted) (s : State := machine) : State := s.updCore 0 (fun (x : Core) => { x with wpath := [p] })
def withSum (s : State := machine) : State :=
  s.updXacc (.cluster 0) 0 (fun _ => { XAcc.free with used := true, gen := 1 })
def handle : CVal := num (2 ^ 32)

/-- PostedAccessesReachTheirHomes: the access is on the write path with nothing before it; it succeeds or fails. -/
theorem witness_posted :
    let p := post (.store [(0x10000, [1, 2, 3, 4])] [])
    let s := withPost p
    ((s.core 0).wpath.find? (fun q => q.id == p.id)).isSome = true ∧ (s.core 0).wpath.takeWhile (fun q => q.id != p.id) = [] := by decide +kernel
theorem witness_posted_homes :
    let w : Who := { core := 0, asid := 0, eng := false }
    (post (.store [] [])).crosses 0 = false ∧ (machine.strand 0 0).allWins = [] ∧
    (withPost postBad).replays 0 postBad = false ∧ (withPost postBad).postedSpec 0 postBad = none ∧
    (machine.homeWrite w true [(0x10000, [1, 2, 3, 4])] []).isOk = true ∧
    (machine.homeWrite w true [(0x1FB000, [1, 2, 3, 4])] []).isOk = false ∧
    (withSum.xFind w .write handle.val).isOk = true ∧ (machine.xFind w .write handle.val).isOk = false := by decide +kernel
theorem witness_posted_amo :
    let w : Who := { core := 0, asid := 0, eng := false }
    (match machine.amoHome w true 0x10000 0 5 0 true with | .done _ _ _ => true | _ => false) = true ∧
    (match machine.amoHome w true 0x1FB000 0 5 0 true with | .failed _ _ => true | _ => false) = true := by
  decide +kernel

/-- LocalAccessesReachTheSlice: the last bytes of a line, at the top of the slice's memory. -/
theorem witness_local :
    let w : Who := { core := 0, asid := 0, eng := false }
    machine.memoryOk = true ∧ 0x1003C % 64 + 4 ≤ 64 ∧ 0x1003C + 4 ≤ sliceTop ∧
    ((machine.core 0).protCheck w 0x1003C .write).isOk = true ∧ ((machine.core 0).protCheck w 0x1003C .read).isOk = true ∧
    poisoned machine.poison (slicePhys 0 0x1003C) 4 = false := by decide +kernel

/-! ### Vector instructions -/

/-- v0 and v1 hold lanes, v2 a NaN, an infinity and zeros; m1 turns some lanes on; v31's queue and v30's have entries. -/
def lanesV : VReg := BitVec.ofNat 1024 0x9E3779B97F4A7C15F39CC0605CEDC8341082276BF3A27251F86C6A11D0C18E91
def vectors : State :=
  (withV [lanesV, lanesV * 7 + 3, 0x3F8000007F8000007FC00001] (withC [num 7, num (2 ^ 64 + 5)])).updMe
    (fun (x : Strand) => { x with m := wr x.m 1 0xF0F0F, vldq := [5, 6], vstq := [1, 2] })

def gotV (x : Strand) (a : Fin 32) : VReg × Strand := (x.sourceV a).getD (0, x)

/-- VectorIntegerResults, VectorFloatResults: an ordinary register, one register three times, the queue v31 as a source and v30 as a
destination; every width code; no lane off and some off. -/
theorem witness_vector_lanes :
    vectors.me.guard 0 = true ∧ (vectors.me.sourceV 0).isSome = true ∧ ((gotV vectors.me 0).2.sourceV 0).isSome = true ∧
    (((gotV vectors.me 0).2).sourceV 2).isSome = true ∧ (vectors.me.resultV 29 lanesV).isSome = true ∧
    (vectors.me.resultV 30 lanesV).isSome = true ∧ (vectors.me.sourceV 31).isSome = true ∧
    ((gotV vectors.me 31).2.sourceV 31).isSome = true ∧ (vectors.me.mask 0).getLsbD 31 = true ∧
    (vectors.me.mask 1).getLsbD 4 = false ∧ (vectors.me.mask 1).getLsbD 31 = false := by decide +kernel

/-- VectorSelectionResults: mask 0 and mask 1 written, the last v register and v30 for what takes only a register, f = 59 and
60. -/
theorem witness_vector_selection :
    (vectors.me.source 4).isSome = true ∧ (vectors.me.result 59 (num 0)).isSome = true ∧ (vectors.me.result 0 (num 0)).isSome = true ∧
    ((29 : Fin 32).val < 30 ∧ ¬ (30 : Fin 32).val < 30) ∧ ((59 : Fin 64).val < 60 ∧ ¬ (60 : Fin 64).val < 60) ∧
    (((vectors.me.resultV 28 lanesV).getD vectors.me).resultV 29 lanesV).isSome = true := by decide +kernel

/-- LongVectorResults: LA = 0 and LA = 15, an ordinary destination and v30; a rounding mode and no mode. -/
theorem witness_long_vector :
    (vectors.me.resultV 5 lanesV).isSome = true ∧ ((15 : Fin 16) ≠ 0) ∧ RMode.ofCode (vectors.me.cvrm.toNat % 8) = some .rne ∧
    RMode.ofCode ((vectors.updMe (fun (x : Strand) => { x with cvrm := 4 })).me.cvrm.toNat % 8) = some .sr ∧
    RMode.ofCode ((vectors.updMe (fun (x : Strand) => { x with cvrm := 5 })).me.cvrm.toNat % 8) = none := by decide +kernel

/-- IntegerSumsAndPrefixes and DrawsAndNeurons: a sum and its sources, a generator in c59, c60 refused, the neuron's register. -/
theorem witness_sums_and_draws :
    (vectors.me.resultV 5 (BitVec.ofNat 1024 12)).isSome = true ∧ ((59 : Fin 64).val < 60 ∧ 60 ≤ (60 : Fin 64).val) ∧
    (((vectors.me.resultV 5 lanesV).getD vectors.me).result 59 (.plain (genAdvance 7 32))).isSome = true ∧
    ((gotV vectors.me 0).2.sourceV 1).isSome = true ∧ ((gotV (gotV vectors.me 0).2 1).2.source 5).isSome = true := by decide +kernel

/-- LanesStandSideBySide: 32, 64 and 128 lanes of the largest values. -/
theorem witness_lanes :
    (List.replicate 32 (2 ^ 32 - 1)).length = 1024 / 32 ∧ (List.replicate 64 (2 ^ 16 - 1)).length = 1024 / 16 ∧
    (List.replicate 128 (2 ^ 8 - 1)).length = 1024 / 8 ∧ (∀ n ∈ List.replicate 128 (2 ^ 8 - 1), n < 2 ^ 8) := by decide +kernel

/-! ### Engine operations, tiles and quires -/

/-- OperationsAreIssuedOrDeferred: outside speculation and in a task; 63 outstanding operations and 64. -/
theorem witness_operations :
    let many := fun (n : Nat) => withOp (opOf (.move own own 64 false) []) { machine with nextId := n }
    machine.me.work.task = none ∧ machine.me.await = none ∧ (machine.specOf machine.me).isNone = true ∧
    (inTask.specOf inTask.me).isSome = true ∧ machine.engineFree.isOk = true ∧
    ({ machine with ops := List.replicate 63 (opOf (.move own own 64 false) []) } : State).engineFree.isOk = true ∧
    ({ machine with ops := List.replicate 64 (opOf (.move own own 64 false) []) } : State).engineFree.isOk = false ∧
    (many 5).ops.length = 1 := by decide +kernel

/-- c4 and c5: capabilities for an engine; c5's ends 64 bytes on. -/
def engines : State := withC [ownAt 0x10000, CVal.make 0x12000 64 [.ld, .st, .local, .eng], num 7, num 0, num 1]

/-- MovesAreIssued: the smallest length and the longest. -/
theorem witness_moves :
    let c := (got engines.me 5).1
    let d := CVal.make 0x10000 65536 [.ld, .st, .local, .eng]
    engines.engineFree.isOk = true ∧ (engines.me.source 4).isSome = true ∧ ((got engines.me 4).2.source 5).isSome = true ∧
    c.tag = true ∧ c.has .local = true ∧ (c.top - c.addr.toNat).toNat = 64 ∧ (d.top - d.addr.toNat).toNat = 65536 ∧
    engines.mayAccess c [.ld, .eng] c.addr 64 16 true ∧ engines.mayAccess (got engines.me 4).1 [.st, .eng] 0x10000 64 16 true := by
  unfold State.mayAccess; decide +kernel

/-- CopiesAreIssued: rows, blocks of a slab, a gather with its index list, a tile of the strand's; xgeo's last register in its
limits and past them. -/
def copying (l : List Dbl) : State :=
  engines.updMe (fun (x : Strand) => { x with xgeo := (l.zipIdx.foldl (fun c p => wr c (Fin.ofNat 7 p.2) p.1) x.xgeo) })
def holding (s : State) : State := s.updCore 0 (fun (x : Core) => { x with t := wr x.t 3 { rd x.t 3 with holder := some 0 } })

theorem witness_copies :
    let ok := fun (s : State) (a b : Fin 64) =>
      let geo := geoOf s.me.xgeo
      let v := (got s.me b).1
      let u := (got s.me a).1
      !geo.bad s.me.xgeo u a && v.hasAll [.ld, .eng] &&
      geo.tile.all (fun t => decide ((rd s.myCore.t t).holder = some s.cur.2)) &&
      (geo.srcSpans v).all (fun p => v.inBounds p.1.toNat p.2 && s.onDie v p.1 p.2) &&
      (geo.tile.isSome || (geo.dstSpans u).all (fun p => u.inBounds p.1.toNat p.2 && s.onDie u p.1 p.2))
    ok (copying [64, 1, 0, 0, 0, 0, 0]) 4 5 = true ∧ ok (copying [32, 2, 32, 64, 1, 0, 0]) 4 5 = true ∧
    (geoOf (copying [8, 2, 0, 64, 3, 0, 4]).me.xgeo).mode = 3 ∧ ok (copying [8, 2, 0, 64, 3, 0, 4]) 4 5 = true ∧
    (geoOf (holding (copying [64, 1, 0, 0, 32 + 3 * 64, 0, 0])).me.xgeo).tile = some 3 ∧
    ok (holding (copying [64, 1, 0, 0, 32 + 3 * 64, 0, 0])) 0 5 = true ∧ xgeoOk 6 0 = true ∧ xgeoOk 1 0 = false ∧ 7 ≤ (7 : Fin 64).val := by
  decide +kernel

/-- TokensAndResumption: a token with every count, tokens that are all at rest but it, an entry whose generation the operand has. -/
def move : Op := opOf (.move own (ownAt 0x14000) 64 false) [{ row := 0, off := 0, len := 64 }]
def handedMove : Op := { move with handed := some 3, bad := [({ row := 0, off := 0, len := 64 }, fault)], todo := [] }
def tokens : State :=
  ((withOp handedMove (withC [num 1, num (3 + 2 ^ 16 * 7)])).updMe (fun (x : Strand) =>
    { x with tok := wr x.tok 2 { out := 1, done := 3, oob := 4, errc := 5, err := true } })).updCore 0 (fun (x : Core) =>
      { x with hback := wr x.hback 3 { gen := 7, op := some 1 } })

theorem witness_tokens :
    (tokens.me.source 4).isSome = true ∧ (tokens.me.result 9 (num 1)).isSome = true ∧
    (∀ i : Fin 8, (0xFB : Fin 256).val.testBit i.val = true → (rd tokens.me.tok i).out = 0) ∧ tokens.me.await = none ∧
    (rd tokens.myCore.hback 3).op.bind tokens.op = some handedMove ∧
    (rd tokens.myCore.hback 3).gen.toNat = (got tokens.me 5).1.addr.toNat / 2 ^ 16 % 2 ^ 16 ∧ handedMove.asid = tokens.me.asid := by
  decide +kernel

/-- EnginesWork: a piece to read, granules to write, an operation done, one that failed with an entry free. -/
theorem witness_engines :
    let s := withOp move machine
    let bad : Op := { handedMove with handed := none }
    let out : Op := { move with todo := [], buf := [(ownAt 0x14000, 0x14000, [1, 2, 3])] }
    s.op 1 = some move ∧ s.house.frozen = false ∧ s.awaitsIssuer move = false ∧ peerAt own 0x10000 = false ∧
    (s.readGranules move own (fun i => own.addr + BitVec.ofNat 64 i)
      (granules 0 (fun i => 0x14000 + BitVec.ofNat 64 i) 65 0 (List.replicate 64 0))).isOk = true ∧
    (machine.homeWrite out.who true [(0x14000, [1, 2, 3])] []).isOk = true ∧ out.job.tile = none ∧ out.job.crosses = false ∧
    (withOp { move with todo := [] } machine).op 1 = some { move with todo := [] } ∧
    (withOp bad machine).op 1 = some bad ∧ (machine.core 0).freeHback = some 0 := by decide +kernel

/-- TileResults: a tile of the strand's, of nobody, of another strand; row 31 and one past it. -/
theorem witness_tiles :
    let s := holding (withV [lanesV] engines)
    let q := fun (h : Option SlotId) (s : State) => s.updCore 0 (fun (x : Core) => { x with t := wr x.t 3 { rd x.t 3 with holder := h } })
    (rd s.myCore.t 3).holder = some s.cur.2 ∧ s.owedTile s.cur.1 3 = false ∧ (rd engines.myCore.t 3).holder = none ∧
    (rd engines.myCore.t 3).queue = [] ∧ (rd (q (some 1) engines).myCore.t 3).holder ≠ some engines.cur.2 ∧
    (got s.me 6).1.addr.toNat + 24 < 32 ∧ 32 ≤ (got s.me 6).1.addr.toNat + 25 ∧ (s.me.sourceV 0).isSome = true ∧
    (s.me.resultV 9 lanesV).isSome = true ∧ s.me.allWins = [] := by decide +kernel

/-- QuireReads, QuireWritesAreIssued: the descriptor's values, the first sub-block of a block and the last, one plane and
four, the header; a draw from SRGEN and from c6. -/
def quires (p : Nat) : State :=
  withV (List.replicate 24 0x3F800000) (withC [quireCap, num p, num 99] quire)

theorem witness_quires :
    let ok := fun (p blk : Nat) (sub : Option Nat) (st : Bool) (l : List Nat) =>
      let s := (quires p).setMe (got (got (quires p).me 4).2 5).2
      match s.quireDesc quireCap with
      | .ok (q, count, s1) => decide (blk * 256 < count) && (s1.checkParts q blk sub st l).isOk && !s1.me.loadsPending
      | .error _ => false
    ok (32 + 2 ^ 48 * 29) 0 (some 1) false (partsRead 1 true) = true ∧ ok (480 + 2 ^ 54 * 3) 1 (some 7) false (partsRead 4 false) = true ∧
    ok (256 + 2 ^ 48 * 59) 1 none false [0] = true ∧ ok (256 + 2 ^ 57 * 4) 1 none false [0] = true ∧ (quires 0).engineFree.isOk = true ∧
    ((quires 0).me.result 59 (.plain (genAdvance 99 256))).isSome = true := by decide +kernel
theorem witness_quire_reads :
    let s := (quires 32).setMe (got (got (quires 32).me 4).2 5).2
    (match s.quireDesc quireCap with
      | .ok (q, _, s1) =>
        (s1.perform s1.cur.1 s1.cur.2 s1.nextId { kind := .quire q 32 1 true, cap := quireCap, va := (q.part 0 0).2, n := 128 }).isOk &&
        (s1.perform s1.cur.1 s1.cur.2 s1.nextId { kind := .quireHdr q 0, cap := quireCap, va := (q.part 0 0).2, n := 16 }).isOk
      | .error _ => false) = true ∧
    (s.me.landingV 29 lanesV).isSome = true ∧ (s.me.landing 59 (num 0)).isSome = true := by decide +kernel

/-- QuireWritesLand: a store on a packed block, whole; a block that nothing maps, which is handed back; a split one. -/
def quireSrc : QuireSrc :=
  match (quire machine).quireDesc quireCap with
  | .ok (q, _, _) => q
  | .error _ => { split := false, stride := 0, hdr := .null, planes := [] }
def quireOp (q : QuireSrc) : QuireJob := { q := q, blk := 1, work := .put (List.replicate 16 3) (List.range 256) }
def splitSrc : QuireSrc :=
  { split := true, stride := 0, hdr := own, planes := [ownAt 0x11000, ownAt 0x12000, ownAt 0x13000, ownAt 0x14000] }

theorem witness_quire_writes :
    let run := fun (q : QuireSrc) =>
      let o := opOf (.quire (quireOp q)) []
      let s := withOp o (quire machine)
      (s, o, s.quireStep o (quireOp q))
    let far := { quireSrc with hdr := CVal.make 0x123400000 0x10000 [.ld, .st, .eng] }
    let a := run quireSrc
    let b := run far
    a.1.op 1 = some a.2.1 ∧ a.1.awaitsIssuer a.2.1 = false ∧ a.2.2.isOk = true ∧ quireSrc.split = false ∧
    (match b.2.2 with | .error (f, _) => f.cause == .translation | .ok _ => false) = true ∧
    ((withOp (opOf (.quire (quireOp splitSrc)) []) machine).quireResult (opOf (.quire (quireOp splitSrc)) []) (quireOp splitSrc)).isOk = true := by
  decide +kernel

/-! ### The shared matrix array -/

/-- Registers for the array: a save area, accumulators and GRANTQ, mstat's selectors; c9 = 256. -/
def arrays : State :=
  withC [CVal.make 0x40000 0x40000 [.ld, .st, .local, .eng], num 1, num 24, num 256, num 3, num 0x100000000] (withTag 0x20
    { machine with nextId := 10 })
def queuing (f : Lease → Lease) : State := withLease (f lease) #v[some 3, none] arrays

/-- LeasesAndGeometry: one accumulator, eight with GRANTQ, save areas that just fit; a lease at rest and none; geometry registers
at the ends of their limits. -/
theorem witness_leases :
    arrays.me.work.task = none ∧ arrays.engineFree.isOk = true ∧ arrays.me.lease = none ∧
    ((got arrays.me 4).2.source 5).isSome = true ∧ (got arrays.me 5).1.val = BitVec.ofNat 128 (1 + if false then 16 else 0) ∧
    (got arrays.me 6).1.val = BitVec.ofNat 128 (8 + if true then 16 else 0) ∧
    arrays.mayAccess (got arrays.me 4).1 [.ld, .st, .eng] 0x40000 (123136 + 32768) 64 ∧
    ¬ arrays.mayAccess (got arrays.me 4).1 [.ld, .st, .eng] 0x40000 (123136 + 32768 * 8) 64 ∧
    (CVal.make 0x40000 385280 [.ld, .st, .local, .eng]).inBounds 0x40000 (123136 + 32768 * 8) = true ∧
    (queuing id).me.lease = some 3 ∧ (((queuing id).cluster 0).lease 3).isSome = true ∧ lease.st ≠ .requested ∧ lease.cmds = [] ∧
    (queuing id).fillsOf 0 3 = false ∧ geoOk 0 256 = true ∧ geoOk 7 0 = false ∧ geoOk 7 1 = true ∧ 8 ≤ (8 : Fin 64).val ∧
    (arrays.me.result 9 (num 0)).isSome = true := by
  unfold State.mayAccess; decide +kernel

/-- ArrayCommandsAreIssued: fills of a slot and a half; products whose slots and halves have their fills and whose scale is
1; read-outs to memory and to a tile; mstat's registers. -/
def filledBy (pair : Nat) : Operand := { pair := pair, issued := 1, landed := 0, elems := [], bad := [] }
def filledLease : Lease := { lease with slots := Vector.replicate 8 (filledBy 0), halves := Vector.replicate 2 (filledBy 0), mstat := 9 }
def fillWord (target pair count : Nat) : Nat := target + 2 ^ 9 * pair + 2 ^ 18 * count
def commands (p : Nat) : State :=
  (withLease filledLease #v[some 3, none] (withC [own, num p])).updMe (fun (x : Strand) =>
    { x with geo := wr (wr (wr (wr x.geo 0 256) 3 256) 6 512) 7 2 })

theorem witness_fills :
    let s := commands (fillWord 1 0 5)
    let f := FillPar.of (BitVec.ofNat 128 (fillWord 1 0 5))
    s.me.lease = some 3 ∧ ((s.cluster 0).lease 3).isSome = true ∧ s.engineFree.isOk = true ∧ ((got s.me 4).2.source 5).isSome = true ∧
    f.ok true = true ∧ f.ok false = true ∧ (s.rowsToFill true f own).isOk = true ∧ (s.rowsToFill false f own).isOk = true ∧
    filledLease.awaitsOther 1 2 0 = false ∧ own.hasAll [.ld, .eng] = true ∧ own.has .quire = false ∧ f.planes = 0 ∧
    (sideOf f.pair true).dBits.isSome = false ∧ (s.fillGeo true).2.1 * (sideOf f.pair true).bits % 32 = 0 ∧
    (∀ i < f.count, ∀ q ∈ fillSegs (sideOf f.pair true) (s.fillGeo true).2.1 (pairK f.pair) 1 false
      (FillRow.plain own (own.addr + BitVec.ofNat 64 (s.rowNumber f i * (s.fillGeo true).1))), own.inBounds q.2.1.toNat q.2.2 = true) := by
  decide +kernel

theorem witness_commands :
    let s := commands 0
    let slabs := filledLease.slabs 1 7 2
    filledLease.cmds.length < 16 ∧ ¬ (List.replicate 16 (Cmd.mzero 0)).length < 16 ∧ (2 : Fin 8).val < filledLease.nacc ∧
    ¬ (3 : Fin 8).val < filledLease.nacc ∧ slabs.length = 2 ∧
    (∀ sl ∈ slabs, (rd filledLease.slots sl.slot).issued ≠ 0 ∧ (rd filledLease.slots sl.slot).pair = 0 ∧
      (2 ≤ sl.j ∨ (rd filledLease.halves sl.half).issued ≠ 0 ∧ (rd filledLease.halves sl.half).pair = 0)) ∧
    (s.scaleOf 0 2).isOk = true ∧ (s.scaleOf 6 1).isOk = true ∧ (s.scaleOf 4 1).isOk = false := by decide +kernel

theorem witness_readouts :
    let toMem := commands (2 + 2 ^ 14 * 4)
    let toTile := holding (commands (2 + 8 + 2 ^ 4 * 3 + 2 ^ 7 + 2 ^ 8 + 2 ^ 17))
    let stat := commands 265
    (Fmt.ofCode 0).isSome = true ∧ (Fmt.ofCode 15).isSome = true ∧ (Fmt.ofCode 21).isSome = true ∧
    (rd toMem.me.geo 6).toNat % 4 = 0 ∧
    (∀ r < 64, toMem.mayAccess own [.st, .eng] (own.addr + BitVec.ofNat 64 r * rd toMem.me.geo 6) (8 * 32) 4) ∧
    (got toMem.me 5).1.val = BitVec.ofNat 128 (2 + 2 ^ 9 * 0 + 2 ^ 14 * 4 + 2 ^ 17 * 0) ∧
    (toTile.tile 3).holder = some toTile.cur.2 ∧
    (got toTile.me 5).1.val = BitVec.ofNat 128 (2 + 8 + 2 ^ 4 * 3 + 2 ^ 7 * 1 + 2 ^ 8 * 1 + 2 ^ 9 * 0 + 2 ^ 14 * 0 + 2 ^ 17 * 1) ∧
    (got stat.me 5).1.val = BitVec.ofNat 128 (9 + 256 * 1) ∧ stat.fillsOf 0 3 = false ∧ (stat.me.result 9 (num 9)).isSome = true := by
  unfold State.mayAccess; decide +kernel

/-- ArrayExecutes: a fill whose lease is resident; a slab, `mzero` and a read-out at the head; a captured one that goes to a tile
or to memory. -/
def filling : FillJob :=
  { cluster := 0, lease := 3, slot := true, target := 1, num := 1, pair := 0, planes := 1, rn := false, koff := 0, k := pairK 0
    todo := [FillRow.plain own 0x10000], elems := [], bad := [] }
def readout : Readout :=
  { cluster := 0, lease := 3, acc := 1, fmt := 0, mode := 0, pitch := 256, dst := own, tile := none, win := none, rowh := 0, colh := 0
    srgen := 0, zero := false, captured := true, rows := [3, 4], fl := 3 }
def turning (cs : List Cmd) (o : Op) : State :=
  withOp o ((withLease { filledLease with
      slots := Vector.replicate 8 { filledBy 0 with landed := 1, elems := List.replicate 64 (List.replicate 4 zeroElem) }
      halves := Vector.replicate 2 { filledBy 0 with landed := 1, elems := List.replicate 64 (List.replicate 4 zeroElem) }
      cmds := cs } #v[some 3, none]).updCluster 0 (fun (x : Cluster) => { x with turn := some 3 }))
def slab0 : Slab := { half := 0, gen := 1, slot := 1, fill := 1, j := 0 }

theorem witness_array :
    let f := opOf (.fill filling) []
    let r := opOf (.readout readout) []
    let t := opOf (.readout { readout with tile := some 3 }) []
    let w := opOf (.readout { readout with tile := some 3, win := some 7 }) []
    let heads := fun (cs : List Cmd) => ((turning cs r).cluster 0).turn.bind ((turning cs r).cluster 0).lease
    (turning [] f).op 1 = some f ∧ (turning [] f).fillBlocked filledLease 1 filling = false ∧ (turning [] f).awaitsIssuer f = false ∧
    ((turning [] f).fillRows f false filling 0 filling.todo).2.2.1.isNone = true ∧
    (heads [.mma 1 0 0 1 .null [slab0, slab0]]).any (·.eligible) = true ∧ (heads [.mzero 2]).any (·.eligible) = true ∧
    (heads [.mrd 1 2]).any (·.eligible) = true ∧ (turning [.mrd 1 2] r).buffersUsed 0 < 2 ∧
    (turning [] r).awaitsIssuer r = false ∧ ((turning [] r).drain r false []).2.1.isNone = true ∧ t.handed = none ∧ w.bad = [] := by
  decide +kernel

/-- FramesAndTurns: a request with a frame free, and with both held and one idle; a turn to give, to a resident lease and to a
spilled one; a turn that is over and one that is not; a spill and a restore. -/
theorem witness_frames :
    let at' := fun (f : Lease → Lease) (g : Cluster → Cluster) (t : Nat) => ({ (queuing f).updCluster 0 g with dt := t } : State)
    let asks := at' (fun l => { l with st := .requested }) (fun x => { x with frames := #v[none, none] }) 5000
    let full := at' (fun l => { l with st := .requested }) (fun x => { x with frames := #v[some 4, some 5], leases :=
      x.leases ++ [{ lease with id := 4 }, { lease with id := 5, st := .resident 1 }] }) 5000
    let works := at' (fun l => { l with cmds := [.mzero 1] }) id 5000
    let spilled := at' (fun l => { l with st := .spilled, cmds := [.mzero 1] }) id 5000
    let turn := fun (u : Nat) => at' (fun l => { l with cmds := [.mzero 1] }) (fun x => { x with turn := some 3, turnAt := u }) 5000
    let back := at' (fun l => { l with st := .spilled, moving := true }) (fun x => { x with frames := #v[none, none] }) 5000
    ((asks.chooseLease 0 (asks.grantable 0)).isSome = true ∧ (asks.cluster 0).freeFrame = some 0 ∧
      (asks.cluster 0).expecting < (asks.cluster 0).comingFrames) ∧
    (full.chooseLease 0 (full.grantable 0)).isSome = true ∧ (full.cluster 0).freeFrame = none ∧ (full.victim 0 (full.reflex lease)).isSome = true ∧
    (works.chooseLease 0 ((works.cluster 0).leases.filter (fun (l : Lease) => l.eligible))).isSome = true ∧
    (spilled.chooseLease 0 (spilled.cluster 0).leases).isSome = true ∧
    (turn 2830).commandRuns 0 = false ∧ 2170 ≤ 5000 - 2830 ∧ ¬ 2170 ≤ 5000 - 2831 ∧
    ((back.cluster 0).lease 3).isSome = true ∧ (back.cluster 0).freeFrame = some 0 := by decide +kernel

/-- TileUpdateAccumulates: a marker that stays, a special element, a tile that zeros leave as it is. -/
theorem witness_tile_update :
    let z : List OElem := List.replicate 2 zeroElem
    (List.replicate 64 z).length = 64 ∧ ([{ special := true, val := 3, exp := 1 }] : List OElem).any (·.special) = true ∧
    rd (AccTile.mk 0 (Vector.replicate 4096 marker)).e 4095 = marker ∧ (∀ e ∈ z, e.special = false ∧ e.val = 0) := by decide +kernel

/-! ### Messages, channels and handlers -/

/-- PayloadsAndPagesDecode: a dictionary of eight words, a page of 4,096 bytes. -/
theorem witness_payloads : ([1, 2, 3, 4, 5, 6, 7, 8] : List Word).length = 8 ∧ (List.replicate 4096 (0 : Byte)).length = 4096 := by
  decide +kernel

/-- MessagesAreSent: channels 7 and, with SYS, 3; 3 words of the 3 in the outbox; core 383 and core 2; a fanout table of two
entries, on channels 5 and 63. -/
def sending : State :=
  withC [num (2 ^ 26 * 7 + 2 ^ 64 * 5), num (383 + 2 ^ 16 * 3), num (2 ^ 26 * 3)] (machine.updMe (fun (x : Strand) => { x with outbox := [1, 2, 3] }))
def fanout : State :=
  withC [num 5, own] (withV [0x12345678] (withBytes 0x10000 (toBytes 8 (2 + 2 ^ 16 * 7) ++ toBytes 8 (3 + 2 ^ 16 * 5) ++
    toBytes 8 (383 + 2 ^ 16 * 63 + 2 ^ 22))))

theorem witness_sends :
    let t := (got sending.me 5).1
    let h := (got sending.me 4).1
    sending.me.loadsPending = false ∧ sending.outstanding 0 0 = 0 ∧ (sending.specOf sending.me).isNone = true ∧
    (qf t.val 0 16 = 383 ∧ qf t.val 16 6 = 3 ∧ qf t.val 22 2 ≠ 3 ∧ qf t.val 24 104 = 0) ∧ qf h.val 22 2 = 0 ∧ qf h.val 26 6 = 7 ∧
    sending.me.pcc.has .sys = true ∧ 3 ≤ sending.me.outbox.length := by decide +kernel
theorem witness_fanout :
    let hd := fanout.load 0 0 5 true 0x10000 8
    let es := fanout.load 0 0 5 true 0x10008 16
    fanout.mayAccess (got fanout.me 5).1 [.ld] 0x10000 8 8 ∧
    (match hd with | .ok (b, _) => fld (ofBytes (b.map (·.1))) 0 16 | .error _ => 0) = 2 ∧ own.inBounds 0x10008 16 = true ∧
    (match es with
      | .ok (b, _) => [0, 1].all (fun k => let e := ofBytes (((b.map (·.1)).drop (8 * k)).take 8)
          decide (fld e 0 16 ≤ 383 ∧ 4 ≤ fld e 16 6 ∧ fld e 24 40 = 0))
      | .error _ => false) = true := by
  unfold State.mayAccess; decide +kernel

/-- MessagesArrive: numbers before, at and after the one expected, at 0 and at the wrap; a refused message that goes. -/
def receiving (n : Word) : State := (withChan 7 (chanOn 0)).updCore 0 (fun (x : Core) => { x with seqIn := [(5, n)] })
def refusedMsg : Refused := { chan := 7, msg := msgOn 7 0 4, judged := true, nobin := false }
def refusing : State := (receiving 4).updCore 0 (fun (x : Core) => { x with refused := [refusedMsg] })

theorem witness_arrivals :
    tsLt 3 (countOf ((receiving 4).core 0).seqIn 5) = true ∧ countOf ((receiving 4).core 0).seqIn 5 = 4 ∧
    tsLt (countOf ((receiving 4).core 0).seqIn 5) 6 = true ∧ tsLt 0xFFFFFFFF 0 = true ∧ aepKind (msgOn 7 0 4).aep ≠ 1 ∧
    (receiving 4).crossedBefore 0 (msgOn 7 0 4) = false ∧ (receiving 4).house.ready.getLsbD 0 = true ∧
    refusing.mayRecall 0 refusedMsg = true ∧
    ((refusing.core 0).refused.find? (fun (r : Refused) => r.msg == msgOn 7 0 4)) = some refusedMsg ∧
    (match refusing.deliver 0 (msgOn 7 0 4) [1, 2] true false with | .accepted _ => true | _ => false) = true ∧
    (machine.portOf 3).isSome = true ∧ (State.reset.portOf 3).isSome = false := by decide +kernel

/-- MessagesLand: a channel that takes nothing, one with room, one at its quota and past its capacity. -/
def land (ctl n : Nat) (inbox : List InMsg) : State :=
  (withInbox inbox (withChan 7 (chanOn ctl))).updCore 0 (fun (x : Core) => { x with capN := wr x.capN 7 n })

theorem witness_landings :
    let quota := (chanOn (2 ^ 13)).quota
    let capped := chanOn (32 + 2 ^ 12 + 2 ^ 21 * 2)
    machine.lateBy 0 (msgOn 7 0 0).aep = none ∧ aepKind (msgOn 7 0 0).aep = 2 ∧ (rd (machine.core 0).chan 7).code.tag = false ∧
    (rd ((land 0 0 []).core 0).chan 7).code.tag = true ∧ ((land 0 0 []).core 0).poolRoom 7 = true ∧ quota = 1 ∧
    ((land (2 ^ 13) 0 [inMsg 7 1]).core 0).heldBy 7 = 1 ∧ ((land (2 ^ 13) 0 []).core 0).heldBy 7 = 0 ∧ capped.cap = 2 ∧
    capped.win.isSome = true ∧ (msgOn 7 (2 ^ 16) 0).aep.getLsbD 16 = true ∧ (chanOn 0).inlok = false := by decide +kernel

/-- ChannelInstructions: a record of channel 63, a masked channel that has a message and one that has none. -/
def channels (l : List CVal) : State :=
  withC l (withCap 0x10000 own (withInbox [inMsg 7 3] (withChan 7 (chanOn (16 + 2 ^ 12 + 2 ^ 7 * 3)) (withBytes 0x10000 (List.replicate 64 0)))))

theorem witness_channels :
    let s := channels [num 63, own, num 128, num 1, num (5 + 2 ^ 32 * 383)]
    let rec' := s.load 0 0 5 true 0x10000 64
    s.mayAccess own [.ld, .ldcap] 0x10000 64 64 ∧ qf (got s.me 4).1.val 6 122 = 0 ∧
    (match rec' with
      | .ok (b, _) => let e := chanOf b 0; decide (e.f 2 2 ≠ 3 ∧ e.f 85 43 = 0 ∧ e.cap = 0 ∧ e.det = false ∧ e.f 53 9 ≤ 383 ∧ e.code.tag = true ∧
          e.code.has .exec = true)
      | .error _ => false) = true ∧
    (rd s.myCore.chan 7).win.isSome = true ∧ (rd s.myCore.chan 7).masked = true ∧ (got s.me 6).1.addr.getLsbD 7 = true ∧
    ((s.endMsg 0 0).myCore.waitPick (fun ch => ch == 7) false).isSome = true ∧
    ((s.endMsg 0 0).myCore.waitPick (fun ch => ch == 8) false).isSome = false ∧
    (qf (got s.me 8).1.val 48 80 = 0 ∧ qf (got s.me 8).1.val 32 9 = 383) ∧ (rd s.myCore.chan 7).asid = s.me.asid := by
  unfold State.mayAccess; decide +kernel

/-- HandlersStart: a message to start on, none, no slot, HMAX reached, a closed core. -/
theorem witness_handlers :
    let s := withInbox [inMsg 7 3] (withChan 7 (chanOn 0))
    let s1 := s.ageChans 0
    let none' := (machine.ageChans 0)
    s1.closed 0 = false ∧ ({ s with house := { s.house with inReset := false } } : State).closed 0 = false ∧
    (s.updCore 0 (fun (x : Core) => { x with dbgHalt := true })).closed 0 = true ∧ (s1.core 0).dormant = some 1 ∧
    s1.pick 0 (s1.mayStart 0) = some 7 ∧ (s1.core 0).head 7 = some (inMsg 7 3) ∧ none'.pick 0 (none'.mayStart 0) = none ∧
    0 < (s1.core 0).hmax ∧ (inMsg 7 3).aep.getLsbD 16 = false := by decide +kernel

/-! ### Watermarks, windows, the Deckle, exact accumulators -/

/-- WatermarksAdvance: c4 before now, c5 after it, a = 0; a mark before, at and after the core's last; an atomic posted; a source
of die 0 and one of die 1, with the dies linked and not. -/
def marked : State :=
  ({ withC [num 5, num (2 ^ 32 + 250)] with dt := 200000 } : State).updCore 0 (fun (x : Core) => { x with wmark := some 150 })

theorem witness_watermarks :
    let atomic : Posted := { post (.amo 0 5 0) with slot := 1, wid := 4 }
    marked.me.work.task = none ∧ marked.me.loadsPending = false ∧ marked.outstanding 0 0 = 0 ∧ marked.now = 200 ∧
    tsLt (5 : Word) marked.now = true ∧ tsLt (250 : Word) marked.now = false ∧
    tsLt (150 : Word) 151 = true ∧ tsLt (150 : Word) 150 = false ∧
    ((withPost atomic marked).core 0).wpath.any (fun (p : Posted) => match p.kind with | .amo _ _ _ => true | _ => false) = true ∧
    (marked.core 0).refused = [] ∧ (marked.core 0).reorder = [] ∧ marked.linked = true ∧ State.reset.linked = false ∧
    0x8000 + 192 ≤ (0x80C0 : BitVec 16).toNat ∧ (0x80BF : BitVec 16).toNat < 0x8000 + 192 := by decide +kernel

/-- WindowsCloseOnWatermarksOrTimeout: a record that is well formed; a window in each state, its time over and not, its
sources past the target and not. -/
def windowBytes : List Byte :=
  toBytes 4 winRec.ctl.toNat ++ toBytes 4 100 ++ toBytes 4 200 ++ toBytes 4 50 ++ List.replicate 48 0 ++ toBytes 2 7 ++ toBytes 2 9 ++
    List.replicate 124 0 ++ toBytes 48 9 ++ List.replicate 16 0

theorem witness_windows :
    let s := withC [num 2, own]
    let armed := withWin .armed s
    let late := armed.updWin 2 (fun (w : Win) => { w with openedAt := 290000, passedAt := 290000 })
    let fresh : State := { armed with wmarks := [(7, 250), (9, 270)] }
    let due := fun (s : State) => let w := rd s.wins 2; decide (max w.passedAt w.openedAt + 1000 * w.r.timeout.toNat ≤ s.dt)
    let all := fun (s : State) => let w := rd s.wins 2; w.r.srcs.all (fun src => (s.markOf src).any (fun m => tsLe w.tgt m))
    s.me.pcc.has .sys = true ∧ qf (got s.me 4).1.val 5 123 = 0 ∧ winRecOk windowBytes = true ∧ windowBytes.length = 256 ∧
    s.house.ready.getLsbD 77 = true ∧
    due armed = true ∧ all armed = false ∧ due late = false ∧ all late = false ∧ all fresh = true ∧
    (rd (withWin .opened s).wins 2).st = .opened ∧ tsLe 250 (withWin .opened s).now = true ∧
    tsLe (250 : Word) ({ withWin .opened s with dt := 249999 } : State).now = false ∧ (rd s.wins 2).st = .disabled ∧
    winRec.cores.getLsbD 0 = true ∧ winRec.cores.getLsbD 1 = false := by decide +kernel

/-- ClosesApplyAndSend: two atomics parked at a home with keys that wrap, two records of one queue, a close that goes. -/
theorem witness_closes :
    let p : ParkedAmo := { home := 384, win := 2, core := 0, key := 0xFFFFFFFF, wid := 0, grid := none, d := true, p := post (.amo 0 5 0) }
    let l := [p, { p with key := 0 }]
    (∀ q ∈ l, (q.key - 0xFFFFFFF0).toNat < 2 ^ 31) ∧
    l.Pairwise (fun a b => a.core.val < b.core.val ∨ (a.core = b.core ∧ (a.key - (0xFFFFFFF0 : Word)).toNat ≤ (b.key - 0xFFFFFFF0).toNat)) ∧
    (rd (withWin .closing).wins 2).waitHomes = [] ∧ (rd (withWin .closing).wins 2).waitQueues = [] ∧
    (rd (withWin .closing).wins 2).pend = none ∧ winRec.pace = false := by decide +kernel

/-- ClosePacketsDeliver: the first packet of its window and a later one; the marks there and not; channel 3 enabled, full, off. -/
def closePkt : ClosePkt := { win := 2, target := 250, cause := 0, time := 300, lag := [7], srcs := [7, 9] }
def closing (ch : Chan) : State := (withChan 3 ch).updCore 0 (fun (x : Core) =>
  { x with closeWait := [closePkt, { closePkt with target := 450 }], wmAt := [(9, 250)] })

theorem witness_close_packets :
    let s := closing (chanOn 0)
    let full := withInbox [inMsg 3 1] (closing (chanOn (2 ^ 13)))
    (s.core 0).closeWait.find? (fun (y : ClosePkt) => y.win == closePkt.win) = some closePkt ∧
    closePkt.srcs.all (fun src => closePkt.lag.contains src || ((s.core 0).wmAt.find? (fun q => q.1 == src)).any (fun q => tsLe closePkt.target q.2)) = true ∧
    (rd (s.core 0).chan 3).code.tag = true ∧ (rd ((closing { chanOn 0 with code := .null }).core 0).chan 3).code.tag = false ∧
    ((s.core 0).poolRoom 3 && (s.core 0).quotaRoom 3) = true ∧ (full.core 0).quotaRoom 3 = false ∧ s.house.ready.getLsbD 0 = true ∧
    dieOf 191 = 0 ∧ dieOf 192 ≠ 0 := by decide +kernel

/-- BinsOpenAndClose: a record that dkcfg takes; a bin whose sheet has stood for its time and one that has not, that has none,
that owes a sheet without rows, with rows and with array work begun; a frozen device. -/
theorem witness_bins :
    let s := withC [num 3, own]
    let sh : Sheet := { seq := 0, rows := 0, reason := 1, stage := 0, win := none }
    let opened := fun (t : Nat) => withBin (fun b => { b with openAt := some t, ctl := b.ctl + 2 ^ 97 * 10 }) s
    let t := (opened 200000).bin 0 3
    clusterOf s.cur.1 = 0 ∧ (opened 200000).house.frozen = false ∧ t.owner = s.cur.1 ∧ t.en = true ∧ t.due = none ∧ t.openAt = some 200000 ∧
    (s.bin 0 3).en = false ∧ (withBin id s).dt = 300000 ∧ (withBin (fun b => { b with sealed := [sh] }) s |>.bin 0 3).sealed = [sh] ∧
    (s.updHouse (fun (h : House) => { h with frozen := true })).house.frozen = true ∧ (s.me.result 9 (num 0)).isSome = true := by
  decide +kernel

/-- ExactAccumulators: a cluster's and a home's, free, used and all used; handles that name one and that name none. -/
theorem witness_accumulators :
    let s := withC [num 0, num (2 ^ 32), num (1 + 2 * 3 + 2 ^ 5)] withSum
    let all := (List.finRange 64).foldl (fun (s : State) i => s.updXacc (.cluster 0) i (fun (_ : XAcc) => { XAcc.free with used := true })) s
    s.me.work.task = none ∧ s.outstanding 0 0 < 16 ∧ s.addsPending = false ∧
    qf (got s.me 6).1.val 7 121 = 0 ∧ qf (got s.me 6).1.val 5 2 = 1 ∧ (got s.me 6).1.val.getLsbD 0 = true ∧
    s.house.ready.getLsbD 27 = true ∧ (Fin.ofNat 16 3).val / 8 = dieOf s.cur.1 ∧
    (rd (s.xaccs (.cluster 0)) 0).used = true ∧ (rd (s.xaccs (.cluster 0)) 1).used = false ∧
    (∀ i, (rd (all.xaccs (.cluster 0)) i).used = true) ∧
    (s.xFind (s.whoOf 0 0) .read (got s.me 5).1.val).isOk = true ∧ (s.xFind (s.whoOf 0 0) .write (got s.me 4).1.val).isOk = false := by
  decide +kernel

/-! ### Work: continuations, queues, tasks -/

/-- EndsWaitForNothing, SpawnsAndEnds: a record in the slice, whose code may execute; room in the queue; a successor's place. -/
def spawning (l : List CVal) : State := withC l (withCap 0x10000 own (withBytes 0x10000 (List.replicate 64 0) { inGrid with nextId := 20 }))

theorem witness_spawns :
    let s := spawning [own, num 23, num 24]
    let c := match s.load 0 0 20 true 0x10000 64 with | .ok (b, _) => recOf b | .error _ => recOf []
    s.me.ticket = none ∧ s.mayAccess own [.ld, .ldcap] 0x10000 64 64 ∧ c.code.tag = true ∧ c.code.has .exec = true ∧
    (df c.flags 10 6 = 0 ∧ df c.flags 35 29 = 0 ∧ c.role ≠ 3 ∧ c.spec = false ∧ c.det = false) ∧
    df (got s.me 5).1.addr 0 5 < 24 ∧ ¬ df (got s.me 6).1.addr 0 5 < 24 ∧ (s.cluster 23).tq.length < 1024 ∧ (s.cluster 23).tqWait = [] := by
  unfold State.mayAccess; decide +kernel
theorem witness_ends :
    let s := inGrid
    let code := CVal.make 0x1000 4096 [.exec, .local]
    let next := s.me.pcc.setAddr (s.me.pcc.addr + 4)
    s.me.wins = [] ∧ s.me.kept = [] ∧ (∀ k, (rd s.me.tok k).out = 0) ∧ s.outstanding 0 0 = 0 ∧ s.me.lease = none ∧ s.ops = [] ∧
    s.settleEnd.isOk = true ∧ s.me.work.kind = .continuation ∧ (machine.updMe (fun (x : Strand) =>
      { x with work := { x.work with kind := .handler 7 } })).me.work.kind ≠ .continuation ∧
    next.tag = true ∧ next.has .exec = true ∧ next.inBounds (s.me.pcc.addr + 4).toNat 4 = true ∧ next.addr = s.me.pcc.addr + 4 ∧
    (s.succeed (s.successor next)).isOk = true ∧ (s.succeed (s.successor code)).isOk = true ∧ s.me.ending = none ∧ code.addr.toNat % 4 = 0 := by
  decide +kernel
theorem witness_join :
    let s := withC [CVal.make 0x10000 32 [.ld, .st, .local]] inGrid
    let w : Who := { core := 0, asid := 0, eng := false }
    s.mayAccess (got s.me 4).1 [.ld, .st] 0x10000 32 32 ∧
    (s.translateAll w true .write [(0x10000, 32)]).isOk = true ∧ (s.homeRead w true 0x10000 32 .write).isOk = true ∧
    (s.homeWrite w true [(0x10000, toBytes 4 0)] []).isOk = true := by
  unfold State.mayAccess; decide +kernel

/-- QueuesServeWork: a queue that is full and one that is not, a push that waits; a record that a dormant slot takes; nothing to
steal; a steal's time over and not; counts 0, 1 and 2 of a join whose parent's record stands. -/
def entry0 : TqEntry := entryOf (recOf (List.replicate 64 (0, false))) 0 none 0

theorem witness_queues :
    let q := fun (n : Nat) (l : List TqEntry) => machine.updCluster 0 (fun (x : Cluster) => { x with tq := List.replicate n entry0, tqWait := l })
    ((q 1023 [entry0]).cluster 0).tq.length < 1024 ∧ 1024 ≤ ((q 1024 [entry0]).cluster 0).tq.length ∧
    ({ entry0 with waiter := some 3 } : TqEntry).crec.spec = false ∧ machine.closed 0 = false ∧ (machine.core 0).dormant = some 1 ∧
    (bestEntry (((q 1 []).cluster 0).tq.filter ((q 1 []).takable 0))).isSome = true ∧
    (bestEntry ((machine.cluster 0).tq.filter (machine.takable 0))).isSome = false ∧ (machine.core 0).stealing = false ∧
    (∀ p ∈ stealOrder 0, (machine.cluster p).tq = []) ∧
    (machine.core 0).stealAt ≤ machine.dt ∧ machine.dt < ((machine.updCore 0 (fun (x : Core) => { x with stealAt := 1 })).core 0).stealAt := by
  decide +kernel
theorem witness_joins :
    let parent := withCap 0x10010 (ownAt 0x10100) (withCap 0x10100 own (withBytes 0x10100 (List.replicate 64 0) (withBytes 0x10000 (toBytes 4 1 ++ toBytes 4 32))))
    let w : Who := { core := 0, asid := 0, eng := false }
    (match parent.homeRead w true 0x10000 32 .write with
    | .ok (bs, s1) =>
      let num := fun o n => ofBytes ((bs.drop o).take n |>.map (fun (b : RByte) => b.1))
      decide (num 0 4 = 1) && decide (fld (num 4 4) 5 1 = 1) &&
      (s1.parentRec w { val := BitVec.ofNat 128 (num 16 16), tag := ((bs[16]?).map (fun (b : RByte) => b.2)).getD false }).1.isSome
    | .error _ => false) = true := by decide +kernel

/-- TaskInstructions: a record of a domain whose frontier is 3 and to which 9 is free; a task that is at rest and one that is
irrevocable; a domain with a frontier and one with none. -/
theorem witness_tasks :
    let open' := fun (l : List STask) => inGrid.updDom 1 (fun (x : Domain) => { x with grid := some 9, tasks := l })
    let s := withC [own, num 9] (withBytes 0x10010 (toBytes 8 (2 ^ 32 + 2 ^ 8)) (withCap 0x10000 own (withBytes 0x10000 (List.replicate 64 0) (open' [{ task with ts := 3 }]))))
    let c := match s.load 0 0 0 true 0x10000 64 with | .ok (b, _) => recOf b | .error _ => recOf []
    c.code.tag = true ∧ c.spec = true ∧ c.det = false ∧ c.role ≠ 3 ∧ c.domain = 1 ∧ df c.flags 10 6 = 0 ∧ df c.flags 35 29 = 0 ∧
    s.me.work.grid = some 9 ∧ (rd s.doms 1).grid = some 9 ∧ (∀ t ∈ (rd s.doms 1).tasks, t.ts ≠ 9) ∧ (rd s.doms 1).frontier = some 3 ∧
    inTask.me.work.task = some 4 ∧ inTask.settleEnd.isOk = true ∧ inTask.me.await = none ∧ (rd (open' []).doms 1).frontier = none ∧
    qf (num 1).val 3 125 = 0 ∧ (∀ t ∈ (rd s.doms 1).tasks, (2 : BitVec 48) < t.ts) := by decide +kernel

/-- TasksCommitInOrder: no task; a finished, a running and a waiting one at the frontier; a home with a waiter and none. -/
theorem witness_commits :
    let fin := inTask { task with st := .finished }
    let wait : State := { inTask.updMe (fun (x : Strand) => { x with st := .waiting }) with vwait := [(16, 0)] }
    (rd machine.doms 1).first = none ∧ (rd fin.doms 1).first = some { task with st := .finished } ∧ (rd inTask.doms 1).first = some task ∧
    wait.shortOf 0 4 = some 0 ∧ machine.vwait = [] ∧ (wait.vwait.find? (fun p => p.1 == 16)) = some (16, 0) ∧
    wait.slotOf 0 0 = some 0 := by decide +kernel

/-! ### System registers, traps and upcalls -/

/-- SystemRegisters: SYS and no SYS; values at the limits of HAGE and IAGE; assigned numbers and one that is not. -/
theorem witness_registers :
    let s := withC [num 64, num 65536, num 4096]
    let user := s.updMe (fun (x : Strand) => { x with pcc := CVal.make 0x1000 4096 [.exec, .local] })
    s.me.st = .running ∧ s.me.pcc.has .sys = true ∧ user.me.pcc.has .sys = false ∧ (s.me.source 4).isSome = true ∧
    (s.me.result 9 (num 0)).isSome = true ∧ (isCoreReg 0x100 || isPackageReg 0x100) = true ∧ (isCoreReg 3 || isPackageReg 3) = false ∧
    (num 1000).addr.toNat ≤ 1000 ∧ 1000 < (num 1001).addr.toNat := by decide +kernel

/-- TrapsAreTaken: a vector, none, a handler already; a word that does not decode and a fetch that traps or has its page
forbidden. -/
def window (id left : Nat) (r : WinRes) : Window :=
  { id := id, left := left, dst := .c 7, acc := { kind := .load, cap := own, va := 0x10000, n := 8 }, res := r, pc := 0x1000, plsat := false }

theorem witness_traps :
    let at' := fun (c : CVal) => machine.updMe (fun (x : Strand) => { x with pcc := c })
    let out := (at' (CVal.make 0x1000 4 [.exec, .local, .sys] |>.withAddr 0x1004)).fetchInstr 0 0
    let forbidden := (at' (CVal.make 0x1FB000 4096 [.exec, .local])).fetchInstr 0 0
    machine.me.tvec.tag = true ∧ machine.me.tvec.has .exec = true ∧ machine.me.tcause.getLsbD 31 = false ∧ machine.me.active = true ∧
    ((withBytes 0x1000 [0xFF, 0xFF, 0xFF, 0xFF]).fetchInstr 0 0).isOk = true ∧
    (match out with | .error (.trap .capb _) => true | _ => false) = true ∧
    (match forbidden with | .error (.upcall _ _) => true | _ => false) = true := by decide +kernel

/-- TrapsReturn: a handler after a break and after another trap, with windows that were set aside and a repetition at EPC;
records of an upcall to return from. -/
theorem witness_trap_returns :
    let act := fun (n : Nat) => machine.updMe (fun (x : Strand) => { x with
      tcause := BitVec.ofNat 64 (2 ^ 31 + n), epc := x.pcc, kept := [window 3 4 .pending]
      rep := some { start := 0x1000, next := 0x1000, len := 3, pos := 1, left := 3, parked := true } })
    (act 5).me.tcause.getLsbD 31 = true ∧ df (act 779).me.tcause 0 8 = 11 ∧ df (act 5).me.tcause 0 8 ≠ 11 ∧
    (∀ w ∈ (act 5).me.kept, w.res = .pending) ∧ machine.me.tcause.getLsbD 31 = false := by decide +kernel
def upcalling : State := machine.updMe (fun (x : Strand) => { x with
  uvec := CVal.make 0x1000 4096 [.exec, .local, .sys], uarea := ownAt 0x12000
  wins := [window 3 0 (.failed fault), window 4 5 .pending] })
theorem witness_upcall :
    let x := upcalling.me
    x.uvec.tag = true ∧ x.uvec.has .exec = true ∧ x.uarea.tag = true ∧ x.uarea.addr.toNat % 64 = 0 ∧ x.uarea.hasAll [.st, .stcap] = true ∧
    x.uarea.inBounds x.uarea.addr.toNat 16384 = true ∧
    (upcalling.homeWrite (upcalling.whoOf 0 0) true [(0x12000, [1]), (0x15FFF, [2])] []).isOk = true ∧ x.active = true ∧ machine.me.uvec.tag = false := by
  decide +kernel

/-- FailedAccessesUpcall: a window that is due and failed, one that is pending with nothing before it and one that waits for
an earlier one of the same bytes; held accesses and an error. -/
theorem witness_failures :
    let x := upcalling.me
    let two := machine.updMe (fun (x : Strand) => { x with wins := [window 1 5 .pending, window 2 5 .pending] })
    let held := machine.updMe (fun (x : Strand) => { x with held := [post (.store [] [])], postErr := some fault })
    x.allWins.find? (fun (v : Window) => v.id == 4 && v.res == .pending) = some (window 4 5 .pending) ∧
    x.allWins.any (fun v => v.res == .pending && decide (v.id < 4) && v.acc.meets (window 4 5 .pending).acc) = false ∧
    two.me.allWins.any (fun v => v.res == .pending && decide (v.id < 2) && v.acc.meets (window 2 5 .pending).acc) = true ∧
    (two.perform 0 0 1 (window 1 5 .pending).acc).isOk = true ∧
    (match two.perform 0 0 1 { (window 1 5 .pending).acc with va := 0x1FB000, cap := CVal.make 0x1FB000 4096 [.ld, .local] } with
      | .error (.upcall _ _) => true | _ => false) = true ∧
    firstFailed (x.wins.filter (fun (v : Window) => v.left == 0)) = some (fault, 0x1000) ∧ held.me.postErr = some fault ∧
    (List.finRange 16).find? (fun k => (held.strand 0 k).held.any (fun (p : Posted) => p.id == 1)) = some 0 := by decide +kernel

/-! ### Translation, protection, halts, walks, prefetch, paging -/

/-- The leaf of the page at 2^56 + 0x5000: at a frame of slice 0x20 pages on, readable and written, valid. -/
def pageVa : Nat := 2 ^ 56 + 0x5000
def pageLeaf : Nat := 1 + 16 + 32 + 2 ^ 2 + 2 ^ 3 + 2 ^ 11 + 2 ^ 12 * 0x20

/-- InvalidationIsAcknowledged: no operation, one of the strand's with 399 and with fewer interfaces done; a store that its range
touches; an interface of the address and another. -/
def tlbis : State := withC [num (0x100005000 + 2 ^ 64 * 4096), num 3]
def tlbiOp (n : Nat) : Op := { opOf (.tlbi 0x100005000 4096 0 false false) [] with idx := (List.range n).map (fun i => (i + 1, 0)) }

theorem witness_invalidation :
    let i := mkInval 0x100005000 4096 0 false false
    let far : Posted := { post (.store [(0x100005000, [1])] []) with va := 0x100005000, cap := CVal.make 0x100000000 0x10000 [.ld, .st] }
    tlbis.me.pcc.has .sys = true ∧ tlbis.me.work.task = none ∧ qf (got tlbis.me 5).1.val 18 110 = 0 ∧ tlbis.engineFree.isOk = true ∧
    tlbis.op 1 = none ∧ (withOp (tlbiOp 399) tlbis).op 1 = some (tlbiOp 399) ∧ (tlbiOp 399).idx.length = 399 ∧
    (tlbiOp 399).idx.contains (0, 0) = false ∧ (tlbis.invalidateAt 0 i).quiet i = true ∧ (tlbis.invalidateAt 0 i).spillsDone i = true ∧
    ((withPost far tlbis).invalidateAt 0 i).quiet i = false ∧ (niOfVa 0x100005000).isSome = true ∧
    (tlbis.lookup 3 0 0x100005000 .read).1.isOk = false := by decide +kernel

/-- SnapshotsHaltsAndRegions: armed for instructions and for the pin, and not; freezing and releasing; a core at rest, one with
an access under way; a region that opens and one that closes. -/
theorem witness_snapshots :
    let arm := fun (n : Nat) => machine.updHouse (fun (h : House) => { h with snapctl := BitVec.ofNat 64 n })
    let page : Quad := BitVec.ofNat 128 (1 + 2 ^ 16 * 0x1F0 + 2 ^ 32 * 0x1F)
    (arm 0x108).house.snapctl.getLsbD 8 = true ∧ (arm 0x108).house.snapctl.getLsbD 3 = true ∧ (arm 0).house.snapctl.getLsbD 8 = false ∧
    (num 1).val.getLsbD 0 = true ∧ (num 0).val.getLsbD 0 = false ∧
    (machine.updCore 0 (fun (x : Core) => { x with dbgQuiesce := true })).myCore.dbgQuiesce = true ∧ machine.myCore.quiesced = false ∧
    protOk (rd (machine.core 0).prot 2) page = true ∧ protV (rd (machine.core 0).prot 2) = false ∧ protV page = true ∧
    protOk page 0 = true ∧ protV 0 = false ∧ rd (machine.core 0).prot 0 = page := by decide +kernel

/-- WalksRun: a descriptor in order, a walk that enters, one that ends at 16 idle rules, rules of kinds END, HASH and BRANCH. -/
def arena : CVal := CVal.make 0x100000 0x100000 [.ld, .st, .eng]
def walk : Walk :=
  { rules := [4], key := toBytes 32 5, dst := arena, limit := 100, pol := false, arena := arena, engine := (engineOf 0x100000).getD 0, slot := true
    waitNo := none, migrate := false, rule := 0, p := 0x100000, steps := 0, idle := 0, result := none }
def walks (w : Walk) : State :=
  withOp (opOf (.walk w) []) (withC [own, arena] (withCap 0x100A0 arena (withBytes 0x10000 (toBytes 8 4 ++ List.replicate 120 0 ++ toBytes 32 5 ++
    toBytes 16 0 ++ toBytes 8 100 ++ toBytes 8 0))))

theorem witness_walks :
    let s := walks walk
    s.mayAccess own [.ld, .ldcap] 0x10000 192 64 ∧
    (match s.load 0 0 5 true 0x10000 192 with | .ok (b, _) => (walkOf b arena 16).isSome | .error _ => false) = true ∧
    arena.hasAll [.st, .eng] = true ∧ arena.has .local = false ∧ dieOfVa arena.addr = dieOf s.cur.1 ∧
    (walks { walk with slot := false }).awaitsIssuer (opOf (.walk { walk with slot := false }) []) = false ∧
    (walks { walk with slot := false }).mayEnter 1 { walk with slot := false } = true ∧
    16 ≤ ({ walk with idle := 16 } : Walk).idle ∧ df 4 0 4 = 4 ∧ df 2 0 4 = 2 ∧ df (2 ^ 40 * 4) 0 4 = 0 ∧ df (2 ^ 40 * 4) 40 6 = 4 ∧
    walk.arena.inBounds 0x100000 4 = true ∧ engineOf 0x100000 = some walk.engine ∧ s.engqRoom 0 0 1 = true ∧
    (s.updMe (fun (x : Strand) => { x with engq := List.replicate 64 0 })).engqRoom 0 0 1 = false := by
  unfold State.mayAccess; decide +kernel

/-- PrefetchKernelsRun: a record in order, an entry of the issuer's, a trigger with its line, queues with eight and fewer. -/
def prefetching : State :=
  (withC [num 2, own] (withCap 0x10000 (CVal.make 0x1000 4096 [.exec, .local]) (withCap 0x10010 own (withBytes 0x10020 (List.replicate 64 0))))).updCore 0
    (fun (x : Core) => { x with
      pf := wr x.pf 2 (some { code := CVal.make 0x1000 4096 [.exec, .local], watch := own, par := [.null, .null, .null, .null], asid := 0 })
      pfPend := [{ entry := 2, line := 0x10000, data := List.replicate 64 0 }] })

theorem witness_prefetch :
    let s := prefetching
    (match s.load 0 0 5 true 0x10000 96 with
      | .ok (b, _) => (capIn b 0).has .exec && (capIn b 16).has .ld && decide ((capIn b 16).base % 64 = 0 ∧ (capIn b 16).top % 64 = 0)
      | .error _ => false) = true ∧
    s.mayAccess own [.ld, .ldcap] 0x10000 96 16 ∧ (got s.me 4).1.val.toNat < 4 ∧ (rd s.myCore.pf 2).any (fun e => e.asid == s.me.asid) = true ∧
    ((s.core 0).pfPend.find? (fun t => decide (t.line.toNat = 0x10000))).isSome = true ∧ (s.core 0).pfq = [] ∧ (machine.core 0).pfPend = [] := by
  unfold State.mayAccess; decide +kernel

/-- PagingCommandsComplete: a queue with one command that its engine cannot take; growth events of a die and none. That one of a
frame in LPDDR-6 completes needs the memory that the part has. -/
def pgCmd : PgCmd :=
  { va := BitVec.ofNat 64 pageVa, asid := 0, op := 0, units := 9, reply := 5, tag := 3, pa := 0x200000, off := 0x20000, keep := false, bad := true
    core := 0, pte := none }
theorem witness_paging :
    let s := machine.updCluster 0 (fun (x : Cluster) => { x with pgq := [pgCmd] })
    s.house.frozen = false ∧ (s.cluster 0).pgq = [pgCmd] ∧ (s.cluster 0).pgOvf = [] ∧ s.pgOk 0 pgCmd = false ∧
    ({ machine with pggrow := [5] } : State).growOf 0 = [5] ∧ machine.growOf 0 = [] ∧ (fld pageLeaf 0 1 = 1) := by decide +kernel

/-! ### Launches, pre-emption, errors, the edges -/

/-- LaunchesAreAnswered: a record in the slice; a request that can be read and one that cannot; an answer that has come; a queue with
a head. -/
def launchBytes : List Byte :=
  List.replicate 16 0 ++ toBytes 16 (CVal.make 0x1000 4096 [.exec, .local]).val.toNat ++ List.replicate 48 0 ++ toBytes 8 0 ++ toBytes 4 1 ++
    toBytes 2 1 ++ toBytes 2 0 ++ toBytes 2 0 ++ toBytes 2 0 ++ toBytes 4 1 ++ toBytes 4 0 ++ List.replicate 20 0
def launching : State := withC [own] (withTag 0x10010 (withBytes 0x10000 launchBytes))
def request (c : CVal) : LaunchReq := { cap := c, host := false, sys := true, asid := 0, core := 0, wid := 0 }

theorem witness_launches :
    let s := launching
    let asked := s.updMe (fun (x : Strand) => { x with ticket := some 0, answer := some 5 })
    s.mayAccess own [.ld, .ldcap] 0x10000 128 64 ∧ asked.me.answer = some 5 ∧ asked.me.ticket = some 0 ∧
    ((asked.updMe (fun (x : Strand) => { x with ticket := none, answer := none })).me.result 9 (num 5)).isSome = true ∧
    s.me.ticket = none ∧ (s.homeRead (s.whoOf 0 0) true 0x10000 128).isOk = true ∧ (rd s.launch 0).reqs = [] ∧
    (s.launchRead (request own) 0 128).isOk = true ∧
    (s.launchRead (request (CVal.make 0x123400000 0x10000 [.ld])) 0 128).isOk = false ∧
    (match s.launchRead (request own) 0 128 with
      | .ok (b, s1) => (s1.readItems (request own) (ofBytes (((b.drop 122).take 2).map (·.1))) 128).isOk
      | .error _ => false) = true ∧
    s.nextQueue 0 = none := by
  unfold State.mayAccess; decide +kernel

/-- WorkIsPreemptedAndRestored: a team alone and one that is followed by another, its slice over and not; a partition; no work, work that may
not be saved; an image in the slice. -/
def team : TeamUnit := { cores := [0, 1], resident := some 0, since := 0, started := [0], stopping := false }
def teams : Grid :=
  { grid with units := [team], members := [{ member 0 with ended := true }, { member 1 with team := 1 }], r := { record with nteam := 2 } }
def partition : Partition := { grid := 9, cores := [0, 1], rper := 100, rbud := 20, rt0 := 0, rch := 7, k := 2, active := false }
def savedWork : Saved := { slot := 3, image := ownAt 0x12000, strand := machine.me, tiles := [], cocoon := false, lost := false }
def saving : State := (withBytes 0x12000 (imageHead 0 3 0 1 0 0 (CVal.make 0x1000 4096 [.exec, .local]) 0)).updCore 0 (fun (x : Core) =>
  { x with saved := [savedWork] })

theorem witness_preemption :
    let s := inGrid { grid with units := [team] }
    machine.grid 9 = none ∧ (s.grid 9).isSome = true ∧ ({ grid with units := [team] } : Grid).teamDead 0 = false ∧
    ({ grid with units := [team] } : Grid).nextTeam 0 0 = none ∧ teams.teamDead 0 = true ∧ (teams.nextTeam 0 0).isSome = true ∧
    rd ({ machine with parts := wr machine.parts 2 (some partition) } : State).parts 2 = some partition ∧
    (machine.core 0).saved = [] ∧ (saving.core 0).saved.find? (fun (v : Saved) => v.slot == 3 && saving.mayReturn 0 v) = some savedWork ∧
    (saving.strand 0 3).st = .dormant ∧ (saving.homeRead (imageWho 0 machine.me) true 0x12000 1).isOk = true := by decide +kernel

/-- HardwareErrorsAreReported: a queue of reports that is empty, that has room for one and that has none. -/
theorem witness_reports :
    let g := fun (n : Nat) => ({ machine with gerr := Vector.replicate 2 (List.replicate n 3) } : State)
    rd (g 0).gerr 1 = [] ∧ rd (g 2).gerr 1 = [3, 3] ∧ (rd (g 15).gerr 0).length < 16 ∧ 16 ≤ (rd (g 16).gerr 0).length := by decide +kernel

/-- BringUpPowerAndTime: in reset and out of it, a function out of service, ready and neither; temperatures at each limit; a first
lock and a later one. -/
theorem witness_bring_up :
    let house := fun (f : House → House) => (machine.updHouse f).house
    State.reset.house.inReset = true ∧ machine.house.inReset = false ∧ machine.house.ready.getLsbD 76 = true ∧
    (house (fun h => { h with ready := 0 })).ready.getLsbD 76 = false ∧ (house (fun h => { h with oos := 1 <<< 76 })).oos.getLsbD 76 = true ∧
    machine.house.oos.getLsbD 76 = false ∧ celsius 95 = 95 ∧ celsius 100 = 100 ∧ celsius 255 = -1 ∧ celsius 104 = 104 ∧ celsius 115 = 115 ∧
    machine.house.hot = false ∧ machine.house.dtstat.getLsbD 2 = false ∧ (house (fun h => { h with dtstat := 4 })).dtstat.getLsbD 2 = true := by
  decide +kernel

/-- EdgeSourcesEmitEvents: a port that is up with one valid sub-source, of the packet's type and not; a pin that captures and whose
debounce just admits; a timer at its multiple; a controller whose filter admits a frame, and not an extended one. -/
def edgePort : EvPort :=
  { rd machine.epcfg 2 with cfg := BitVec.ofNat 64 (1 + 2 ^ 2 * 5 + 2 ^ 8 * 10 + 2 ^ 22 * 3), src := wr (Vector.replicate 8 0) 3 (BitVec.ofNat 64 (2 ^ 31 + 0x2003)) }
def edges (pin : Nat) : State :=
  { machine with
    epcfg := wr machine.epcfg 2 edgePort, dt := 400000, gpcfg := wr machine.gpcfg 3 (BitVec.ofNat 64 pin)
    canev := wr machine.canev 1 (BitVec.ofNat 64 (1 + 16 * 5)) }
theorem witness_edges :
    let pin := rd (edges (3 + 8 * 5 + 2 ^ 18 * 4)).gpcfg 3
    let timer := rd (edges (7 + 8 * 5 + 2 ^ 28 * 400)).gpcfg 3
    let ev := rd (edges 0).canev 1
    machine.house.ready.getLsbD 55 = true ∧ machine.house.ready.getLsbD 66 = true ∧ edgePort.cfg.getLsbD 0 = true ∧ df edgePort.cfg 2 6 = 5 ∧
    (∀ i : Fin 8, (rd edgePort.src i).getLsbD 31 = decide (i = 3)) ∧ (∀ j, (rd (rd machine.epcfg 1).src j).getLsbD 31 = false) ∧
    machine.house.ready.getLsbD 76 = true ∧ pin.getLsbD 2 = false ∧ pin.getLsbD 0 = true ∧ pin.getLsbD 1 = true ∧ 10 * df pin 18 10 ≤ 40 ∧
    ¬ 10 * df pin 18 10 ≤ 39 ∧ df timer 0 3 = 7 ∧ 1000 * rd machine.gpNext 3 * df timer 28 32 ≤ 400000 ∧
    machine.house.ready.getLsbD 73 = true ∧ ev.getLsbD 0 = true ∧ (df ev 1 2 == 2 || (df ev 1 2 == 1) == false) = true ∧
    (df ev 1 2 == 2 || (df ev 1 2 == 1) == true) = false ∧ df (rd machine.canflt 1) 32 29 = 0 := by decide +kernel

/-- AccessesFromOutside: on a part that has memory, a store and a load of its first bytes; an address outside the map; a store of a
capability into the slice and one refused; records for an attestation. -/
theorem witness_memory (h : 0x2000 ≤ usable 0) (h' : 0x2000 ≤ installed 0) :
    backed 0x1000 8 = true ∧ inDram 0x1000 8 = true ∧ poisoned machine.poison 0x1000 8 = false ∧ machine.homesReady 0x1000 8 = true := by
  refine ⟨?_, ?_, by decide +kernel, by decide +kernel⟩
  · simp [backed]; omega
  · simp [inDram]; omega
theorem witness_outside :
    let refused := fun (addr : Dbl) (v : Quad) =>
      let at' := 16 * df addr 4 52
      (addr.getLsbD 0 && qf v 114 14 != 0) || (decide (48 ≤ qf v 98 6) && decide (qf v 98 6 ≤ 62)) || !(inSlice at' 16)
    inSlice 0x1000 8 = false ∧ inSlice (slicePhys 0 0x10000) 16 = true ∧ machine.homesReady (slicePhys 0 0x10000) 16 = true ∧
    refused (BitVec.ofNat 64 (slicePhys 0 0x10000 + 1)) own.val = false ∧
    refused (BitVec.ofNat 64 (slicePhys 0 0x10000 + 1)) (1 <<< 114) = true ∧ refused (BitVec.ofNat 64 (2 ^ 56 - 16)) 0 = true ∧
    inSlice (slicePhys 0 0x10000) 4096 = true ∧ inSlice (2 ^ 60) 4096 = false ∧ machine.house.ready.getLsbD 63 = true ∧
    State.reset.house.ready.getLsbD 63 = false ∧ machine.host.waiting = [] ∧
    machine.shown 0x1000 2 = false ∧
    ({ machine with host := { machine.host with inbound := Vector.replicate 8 (0x1000, 0x1000) } } : State).shown 0x1000 2 = true := by decide +kernel

/-! ### The machine as a whole -/

/-- StepRunsTheDecodedInstruction: a strand whose turn it is, with nothing to wait for, at a word that decodes, which a region lets it
execute. -/
def stepping : State := { withBytes 0x1000 [0x61, 0x50, 0x04, 0x00] with sched := [.strand 0 0] }

theorem witness_step :
    let s0 := stepping.turn.2
    let s1 : State := { s0.updStrand 0 0 (fun (x : Strand) => { x with readyAt := s0.dt }) with cur := (0, 0) }
    (match stepping.turn.1 with | .strand c k => c == 0 && k == 0 | _ => false) = true ∧ s1.me.st = .running ∧ s1.me.sendWait = 0 ∧
    s1.stopped 0 0 = false ∧ s1.me.postErr = none ∧ (s1.core 0).wpath = [] ∧ (match s1.settleMe with | .go _ => true | _ => false) = true ∧
    (match s1.fetchInstr 0 0 with | .ok (w, l, _, _) => decode w l == .ok (.sub 0 4 20 6) | .error _ => false) = true := by decide +kernel
theorem witness_fetch :
    let pcc := stepping.me.pcc
    pcc.tag = true ∧ pcc.has .exec = true ∧ pcc.has .local = true ∧ pcc.inBounds 0x1000 4 = true ∧ 0x1000 < sliceTop ∧
    stepping.inlineWords 0 0 pcc = none ∧ (stepping.core 0).wpath = [] ∧
    ((stepping.core 0).protCheck (stepping.whoOf 0 0) 0x1000 .exec).isOk = true ∧ poisoned stepping.poison (slicePhys 0 0x1000) 4 = false := by
  decide +kernel

/-- DecodeOfEncode and GuardedOffInstructionsOnlyCount: an instruction with a literal whose fields are at their ends; one guarded off. -/
theorem witness_encoding :
    let i : Instr := .addImmLiteral 7 63 63 0xFFFFFFFF
    i.isWord = true ∧ i.wellFormed = true ∧ decode 0x20000000 0 = .ok (.add 1 0 0 0) ∧ machine.me.guard (Fin.ofNat 8 (0x20000000 / 2 ^ 29)) = false := by
  decide +kernel

/-- ExecutionAdvances: a repetition at its position with slots left, at its last slot with a pass left and with none, elsewhere, set
aside. -/
theorem witness_advances :
    let r : Rep := { start := 0x1000, next := 0x1008, len := 3, pos := 2, left := 2, parked := false }
    r.parked = false ∧ r.next = machine.me.pcc.addr + 8 ∧ r.len ≤ r.pos + 1 ∧ 1 < r.left ∧ ({ r with left := 1 } : Rep).left ≤ 1 ∧
    ({ r with pos := 1 } : Rep).pos + 1 < r.len ∧ ({ r with parked := true } : Rep).parked = true := by decide +kernel

/-- StepsKeepTheFormOfMemory, RegisterInstructionsFrame, StoresWaitOnTheWritePath, CapabilitiesOnlyNarrow, and the statements that exec
answers a next state: states that meet them. -/
theorem witness_frames_of_steps :
    stepping.memoryOk = true ∧ (match step stepping with | .next _ => true | _ => false) = true ∧ accesses.memoryOk = true ∧
    machine.me.trapsTo = true ∧ (match exec (.add 0 9 4 5) scalars with | .next _ => true | _ => false) = true ∧
    (accesses.specOf accesses.me).isNone = true ∧ (match exec (.stD 0 6 4 0) accesses with | .next _ => true | _ => false) = true ∧
    (match exec (.cbnd 0 9 7 5) scalars with | .next _ => true | _ => false) = true := by decide +kernel

/-- SelectCopiesWhole and NopCountsOneSlot: both values of the selecting guard and of the word's; words with a body bit set. -/
theorem witness_select :
    scalars.me.guard 0 = true ∧ scalars.me.guard 3 = false ∧ majorOf 0x03C00008 = 0x0F ∧ fld 0x03C00008 3 1 = 1 ∧
    majorOf 0x07400001 = 0x1D ∧ fld 0x07400001 0 22 ≠ 0 := by decide +kernel

/-! ### Further states and operands for single clauses -/

/-- JumpResults: targets that `jr` and `ret` trap on, one for each trap, and the last one that is in bounds. -/
theorem witness_jump_traps :
    let code := CVal.make 0x1000 4096 [.exec, .local]
    let x := (withC [num 5, own.withAddr 0x10002, CVal.make 0x1000 4096 [.ld], code.withAddr 0x2000, code.withAddr 0x1FFC]).me
    (got x 4).1.tag = false ∧ ((got x 6).1.tag = true ∧ (got x 6).1.has .exec = false) ∧
    ((got x 5).1.has .exec = true ∧ (got x 5).1.addr.toNat % 4 ≠ 0) ∧
    ((got x 7).1.has .exec = true ∧ (got x 7).1.addr.toNat % 4 = 0 ∧ (got x 7).1.inBounds 0x2000 4 = false) ∧
    (got x 8).1.inBounds 0x1FFC 4 = true := by decide +kernel

/-- AtomicResults, FencesComplete: an address of the other die whose home nothing on its way goes to; an atomic that is parked
for the strand, and none; a level that a barrier need not wait at. -/
theorem witness_far :
    let p : ParkedAmo := { home := 384, win := 2, core := 0, key := 7, wid := 0, grid := none, d := false, p := post (.amo 0 5 0) }
    let s : State := { machine with parked := [p] }
    machine.linked = true ∧ machine.behindPort 3 = false ∧ (withPost { post (.amo 0 5 0) with va := 0x10000 } machine).behindPort 384 = false ∧
    (∃ q ∈ s.parked, q.wid = s.me.work.wid ∧ q.p.crosses q.core = false ∧ q.p.isAmo = true) ∧ machine.parked = [] ∧
    inGrid.acquires (record.scope 0) = false ∧ inGrid.releases (record.scope 0) = false := by decide +kernel

/-- QuireWritesLand: the first unit of a block that has been computed and placed. -/
theorem witness_units :
    let unit : CVal × Dbl × List Byte := (own, 0x10000, [1, 2, 3])
    let t : List (Tr × Dbl × Nat) := match machine.translateAll (machine.whoOf 0 0) true .write [(0x10000, 3)] with | .ok p => p.1 | .error _ => []
    ([unit][(Config.freeValue machine.freshN).toNat % 1]?) = some unit ∧ ([t][(Config.freeValue machine.freshN).toNat % 1]?) = some t ∧ t.length = 1 :=
  ⟨by rw [Nat.mod_one]; rfl, by rw [Nat.mod_one]; rfl, by decide +kernel⟩

/-- TileResults: a read-out that has landed in an open window. FramesAndTurns: frames enough for what waits, and too few. -/
theorem witness_tfree :
    let w : Window := { window 3 4 (.rows [5] 0) with dst := .t 2 }
    (∀ w' ∈ (machine.updMe (fun (x : Strand) => { x with wins := [w] })).me.allWins.filter (fun v => v.dst == .t 2), w'.res ≠ .pending) ∧
    (machine.updMe (fun (x : Strand) => { x with wins := [w] })).me.allWins.length = 1 := by decide +kernel

/-- ArrayExecutes: a scale whose stores are performed, and one that has a store behind it. -/
theorem witness_scale :
    own.tag = true ∧ machine.issuerBehind 0 0 5 = false ∧ (withPost { post (.store [(0x10000, [1])] []) with id := 4 } machine).issuerBehind 0 0 5 = true := by
  decide +kernel

/-- MessagesArrive: a watermark with an earlier message of its source on the way, and one with none. -/
theorem witness_marks :
    machine.crossedBefore 0 (msgOn 7 0 4) = false ∧ aepKind (markMsg (.core 5) (coreSrc 5) 7).aep = 1 ∧
    machine.markBehind 0 (markMsg (.core 5) (coreSrc 5) 7) = false := by decide +kernel

/-- QueuesServeWork: the third cluster asked offers an entry that an idle core of the first may take. -/
theorem witness_steal :
    let s := (inGrid { grid with r := { record with levels := [0x85] } }).updCluster 3 (fun (x : Cluster) => { x with tq := [{ entry0 with grid := some 9 }] })
    stealOrder 0 = [1, 2] ++ 3 :: [4, 5, 6, 7, 8, 9, 10, 11] ∧ (∀ b ∈ ([1, 2] : List ClusterId), (s.cluster b).tq = []) ∧
    (bestEntry ((s.cluster 3).tq.filter (s.stealable 0))).isSome = true ∧ (s.core 0).dormant = some 1 ∧
    (s.cluster 0).tq.length < 1024 ∧ (s.cluster 0).tqWait = [] := by decide +kernel

/-- WatermarksAdvance: a DET spawn in line, an atomic that a commit has issued; values taken that are performed. -/
theorem witness_mark_waits :
    let line := machine.updCluster 2 (fun (x : Cluster) => { x with tqWait := [{ entry0 with crec := { entry0.crec with flags := 512 } }] })
    let amo := withOp { opOf (.amo (post (.amo 0 5 0))) [] with token := none }
    (∃ k, ∃ e ∈ (line.cluster k).tqWait, e.spawner = 0 ∧ e.crec.flags.getLsbD 9 = true) ∧
    (∃ o ∈ amo.ops, o.core = 0 ∧ o.deferred = false) ∧ machine.pendingPosts 0 = [] ∧ machine.ops = [] ∧ machine.postsDone = true :=
  ⟨⟨2, _, List.mem_singleton.mpr rfl, by decide +kernel⟩, by decide +kernel⟩

/-- SpawnsAndEnds: a DET record outside a window's grid; a place for a successor; a join with nothing parked. -/
theorem witness_places :
    let det := withBytes 0x10010 (toBytes 8 512) (spawning [own])
    let c := match det.load 0 0 20 true 0x10000 64 with | .ok (b, _) => recOf b | .error _ => recOf []
    let s := withC [CVal.make 0x1000 4096 [.exec, .local], own] inGrid
    let x := { s.me with ending := some ((got s.me 4).1, own) }
    c.det = true ∧ (inGrid.me.work.grid.bind inGrid.grid).bind Grid.detWindow = none ∧
    s.mayAccess (got s.me 5).1 [.st, .stcap] 0x10000 64 64 ∧ (s.setMe x).settleEnd.isOk = true ∧
    (s.homeWrite (s.whoOf 0 0) true [(0x10000, (s.successor (got s.me 4).1).bytes)] ((s.successor (got s.me 4).1).granules 0x10000)).isOk = true ∧
    s.parked.any (fun p => p.wid == s.me.work.wid) = false := by
  unfold State.mayAccess; decide +kernel

/-- TaskInstructions: the first task of a domain. -/
theorem witness_first_task :
    let dom := rd (inGrid.updDom 1 (fun (x : Domain) => { x with grid := some 9, tasks := [] })).doms 1
    dom.highest = none ∧ (∀ t ∈ dom.tasks, t.ts ≠ 9) ∧ dom.frontier.getD dom.past ≤ 9 := by decide +kernel

/-- SystemRegisters, RegisterWritesFromOutside: a count that a read clears and a register of each kind within and past its limits. -/
theorem witness_register_limits :
    (machine.me.result 9 (num 0)).isSome = true ∧ isReadOnly 0x168 = true ∧ (isCoreReg 0x3F || isPackageReg 0x3F) = false ∧
    protOk (rd (machine.core 0).prot 2) 0 = true ∧ epsrcOk 0 = false ∧ machine.srcTaken 2 3 0x2003 = false ∧
    df (num 0x30000001).addr 0 10 ≤ 424 := by decide +kernel

/-- FailedAccessesUpcall: a speculative load at a home whose records are taken by another waits. -/
theorem witness_record_wait :
    let s : State := { inTask with vwait := [((niOfCore 0).val, 9)] }
    (match s.perform 0 0 1 (window 1 5 .pending).acc with | .error (.wait _) => true | _ => false) = true := by decide +kernel

/-- PrefetchKernelsRun: a trigger of an entry that has been emptied and of one that stands, whose code is one `hend`; a word that is
guarded off, one that a kernel may not execute. -/
def kernelCode (ws : List Nat) : State :=
  (withBytes 0x3000 (ws.flatMap bytesOfWord)).updMe (fun (x : Strand) => { x with pcc := CVal.make 0x3000 4096 [.exec, .local] })
def trigger : PfTrig := { entry := 2, line := 0x10000, data := List.replicate 64 0 }
def pfEntry : PfEntry := { code := CVal.make 0x3000 4096 [.exec, .local], watch := own, par := [num 1, own, .null, .null], asid := 0 }
theorem witness_kernels :
    let hend := (encode (.hend 0)).headD 0
    let s := (kernelCode [hend]).updCore 0 (fun (x : Core) => { x with pf := wr x.pf 2 (some pfEntry), pfq := [trigger] })
    let s2 := { (s.updCore 0 (fun (x : Core) => { x with pfq := [] })).setStrand 0 0 (kernelStrand pfEntry trigger) with cur := (0, 0) }
    rd (machine.core 0).pf trigger.entry = none ∧ rd (s.core 0).pf 2 = some pfEntry ∧
    (match s2.kernelStep trigger with | .ended _ => true | _ => false) = true ∧
    (match (kernelCode [(encode (.trap 0 1)).headD 0]).fetchInstr 0 0 with
      | .ok (w, lit, _, _) => fits w && (kernelAct w lit).isNone | .error _ => false) = true ∧
    (match (kernelCode [hend + 2 ^ 29]).kernelStep trigger with | .on _ => true | _ => false) = true := by decide +kernel

/-- LaunchesAreAnswered: an item whose bin owes array work, and one whose does not. -/
theorem witness_flush :
    ([] : List CfgItem).any (machine.itemWaits record) = false ∧ (machine.setMe machine.me).postsDone = true := by decide +kernel

/-- WorkIsPreemptedAndRestored: a slot of a partition's core that may be saved into its area; the budget's end at its mark and
before it. -/
theorem witness_saves :
    let area := CVal.make 0x10000 0x100000 [.ld, .st, .ldcap, .stcap, .eng, .local]
    let s := machine.updCore 0 (fun (x : Core) => { x with psave := area })
    let part := fun (t : Nat) => ({ machine with parts := wr machine.parts 2 (some partition), dt := t } : State)
    let close : Word := 0 + BitVec.ofNat 32 ((partition.k - 1) * partition.rper) + 10 + BitVec.ofNat 32 partition.rbud
    area.hasAll [.ld, .st, .ldcap, .stcap, .eng] = true ∧ area.inBounds area.addr.toNat 786432 = true ∧ s.canSave 0 0 = true ∧
    (area.setAddr (area.addr + BitVec.ofNat 64 (49152 * 15))).tag = true ∧
    (area.setAddr (area.addr + BitVec.ofNat 64 (49152 * 15))).inBounds (0x10000 + 49152 * 15) 49152 = true ∧
    (s.homeWrite (imageWho 0 s.me) true [(0x10000, [1]), (0x10000 + 49151, [2])] []).isOk = true ∧
    tsLt (part 129999).now close = true ∧ tsLt (part 130000).now close = false := by decide +kernel

/-- BringUpPowerAndTime: a cluster, the last UCIe port and one of two, the window unit; a cluster that takes a queue over. -/
theorem witness_out_of_service :
    let last := machine.updHouse (fun (h : House) => { h with ready := 1 <<< 41 })
    machine.house.oos.getLsbD 5 = false ∧ (∃ i, i < 12 ∧ machine.house.ready.getLsbD (40 + i) = true) ∧
    (List.range 12).all (fun i => !(last.updHouse (fun (h : House) => { h with ready := 0 })).house.ready.getLsbD (40 + i)) = true ∧
    machine.heirOf 5 = some 6 ∧ (6 : ClusterId) ≠ 5 := by
  exact ⟨by decide +kernel, ⟨0, by decide +kernel⟩, by decide +kernel, by decide +kernel, by decide +kernel⟩

/-- AccessesFromOutside: a home that is not ready; a write of BAR0; a request that can be read, one with an uncorrectable word. -/
theorem witness_outside_more :
    let off := machine.updHouse (fun (h : House) => { h with ready := (1 : Quad) <<< 63 })
    off.homeReady 0x1000 = false ∧ machine.homeReady 0x1000 = true ∧ off.house.ready.getLsbD 63 = true ∧
    (machine.houseWrite (0x20000 + 16 * 0x160) 16 500).isSome = true ∧ machine.homesReady 0x1000 4096 = true ∧ poisoned machine.poison 0x1000 72 = false ∧
    poisoned ({ machine with poison := [0x201] } : State).poison 0x1000 72 = true ∧ off.homesReady 0x1000 4096 = false := by decide +kernel

/-! ### Single steps; the expected values are computed by hand from the rules, or are those of the spec's worked examples -/

/-- The address part of c9 after an instruction with two numbers in c4 and c5. -/
def run2 (i : Instr) (a b : Nat) : Nat := ((after (withC [num a, num b]) i).me.creg 9).val.toNat

/-- 03 R69, R70: sums wrap, and the corners of division. -/
theorem test_add_sub_wrap :
    run2 (.add 0 9 4 5) (2 ^ 64 - 1) 2 = 1 ∧ run2 (.sub 0 9 4 5) 0 1 = 2 ^ 64 - 1 ∧ run2 (.addImm 0 9 4 0x3FF) 0 0 = 2 ^ 64 - 1 := by decide +kernel
theorem test_logic_is_128_bits :
    run2 (.xor 0 9 4 5) (2 ^ 127) 1 = 2 ^ 127 + 1 ∧ run2 (.andn 0 9 4 5) 0xFF 0x0F = 0xF0 := by decide +kernel
theorem test_shift_counts :
    run2 (.sll 0 9 4 5) 3 65 = 6 ∧ run2 (.sra 0 9 4 5) (2 ^ 63) 63 = 2 ^ 64 - 1 ∧ run2 (.rot 0 9 4 5) 1 1 = 2 ^ 63 := by decide +kernel
theorem test_min_is_signed : run2 (.min 0 9 4 5) (2 ^ 64 - 1) 1 = 2 ^ 64 - 1 ∧ run2 (.max 0 9 4 5) (2 ^ 64 - 1) 1 = 1 := by decide +kernel
theorem test_mulh : run2 (.mulh 0 9 4 5) (2 ^ 64 - 1) (2 ^ 64 - 1) = 0 ∧ run2 (.mulhU 0 9 4 5) (2 ^ 64 - 1) (2 ^ 64 - 1) = 2 ^ 64 - 2 := by decide +kernel
/-- 03, the handler worked through: 10 / 0, 10 rem 0, -7 / 2, -7 rem 2; and -2^63 / -1 (R70). -/
theorem test_division :
    run2 (.div 0 9 4 5) 10 0 = 2 ^ 64 - 1 ∧ run2 (.rem 0 9 4 5) 10 0 = 10 ∧ run2 (.div 0 9 4 5) (2 ^ 64 - 7) 2 = 2 ^ 64 - 3 ∧
    run2 (.rem 0 9 4 5) (2 ^ 64 - 7) 2 = 2 ^ 64 - 1 ∧ run2 (.div 0 9 4 5) (2 ^ 63) (2 ^ 64 - 1) = 2 ^ 63 ∧
    run2 (.rem 0 9 4 5) (2 ^ 63) (2 ^ 64 - 1) = 0 := by decide +kernel
theorem test_clz_popc_sext :
    run2 (.clz 0 9 4) 0 0 = 64 ∧ run2 (.popc 0 9 4) 0xF0F 0 = 8 ∧ run2 (.sextB 0 9 4) 0x180 0 = 2 ^ 64 - 128 ∧ run2 (.zextH 0 9 4) 0x1FFFF 0 = 0xFFFF := by
  decide +kernel
/-- 03 R73: -7 < 0 signed, not unsigned. -/
theorem test_cmp :
    (after (withC [num (2 ^ 64 - 7), num 0]) (.cmp 0 2 2 4 5)).me.guard 2 = true ∧ (after (withC [num (2 ^ 64 - 7), num 0]) (.cmp 0 4 2 4 5)).me.guard 2 = false := by
  decide +kernel
/-- 03 R77, R78, R80: 1 + 1, ∞ - ∞ with NV, 1 + 2·3 exactly, 1 as BF16, and the largest integer below 2^63 as F32. -/
theorem test_scalar_float :
    run2 (.fadd 0 9 4 5) 0x3F800000 0x3F800000 = 0x40000000 ∧ run2 (.fsub 0 9 4 5) 0x7F800000 0x7F800000 = 0x7FC00000 ∧
    (after (withC [num 0x7F800000, num 0x7F800000]) (.fsub 0 9 4 5)).me.fflags = 0x10 ∧
    ((after ((withC [num 0x40000000, num 0x40400000]).updMe (fun (x : Strand) => { x with c := wr x.c 9 (num 0x3F800000) })) (.ffma 0 9 4 5)).me.creg 9).val = 0x40E00000 ∧
    run2 (.fcvtBf16F32 0 9 4) 0x3F800000 0 = 0x3F80 ∧ run2 (.fcvtF32I64 0 9 4) (2 ^ 63 - 1) 0 = 0x5F000000 := by decide +kernel

/-- 03 R89: the capability of the table, and what `cinc` by 1,000,000, by 0x10_0000 and by -8 makes of it. -/
def narrowed (c : CVal) (k : Nat) : State := withC [c, num k]
def wide : CVal := CVal.make 0x01000000 0x01000000 [.ld, .st]
def bounded : CVal := (after (narrowed (wide.withAddr 0x01000040) 1000000) (.cbnd 0 9 4 5)).me.creg 9
theorem test_cbnd_of_the_table : bounded = { val := 0x0000030FD09000080000000001000040, tag := true } := by decide +kernel
theorem test_cinc_of_the_table :
    (after (narrowed bounded 1000000) (.cinc 0 9 4 5)).me.creg 9 = { val := 0x0000030FD090000800000000010F4280, tag := true } ∧
    (after (narrowed bounded 0x100000) (.cinc 0 9 4 5)).me.creg 9 = { val := 0x0000030FD09000080000000001100040, tag := false } ∧
    (after (narrowed bounded (2 ^ 64 - 8)) (.cinc 0 9 4 5)).me.creg 9 = { val := 0x0000030FD09000080000000001000038, tag := false } := by decide +kernel

/-- Words that the spec encodes: 01, the listing; 03, the handlers; 05, the neuron step. -/
theorem test_words_of_the_listings : ([
    (0x00041460, 0, .add 0 4 5 6), (0x68C70D02, 0, .ldD 3 7 3 4 2), (0x02C90200, 0x000186A0, .liLiteral 0 9 100000), (0x1B101000, 0, .mma 0 12 2 0 1 0),
    (0x034A2400, 0, .cmp 0 1 2 9 0), (0x06D7FFFE, 0, .bgT 0 2 0x3FFFE), (0x07C00001, 0, .hend 0), (0x000186A0, 0, .add 0 1 33 42),
    (0x050C0CD0, 0, .cbnd 0 12 3 13), (0x03122000, 0, .cmpi 0 2 2 8 0), (0x03CD2442, 0, .sel 0 13 9 4 2), (0x058E0C10, 0, .cbndImm 0 14 3 16),
    (0x0AC10C00, 0, .vld 0 1 3 0 0), (0x0AC20C01, 0, .vld 0 2 3 0 1), (0x0E02220B, 0, .nrns 0 1 2 8 1)] :
    List (Nat × Nat × Instr)).all (fun p => decode p.1 p.2.1 == .ok p.2.2) = true := by decide +kernel

/-- 04 R107: a load is little-endian and ld.b extends with zeros; R110: a store waits on the write path. -/
theorem test_load : ((after accesses (.ldW 0 9 4 0 0)).me.creg 9).val = 0x04030201 ∧ ((after accesses (.ldB 0 9 4 0 1)).me.creg 9).val = 2 := by
  decide +kernel
theorem test_store_is_posted :
    ((after accesses (.stB 0 6 4 0)).core 0).wpath.map (fun (p : Posted) => p.va) = [0x10000] ∧ (after accesses (.stB 0 6 4 0)).mem = accesses.mem := by
  decide +kernel
/-- 04 R101: 8 bytes at an address that is no multiple of 8 trap `align`; past the bounds, `capb`: TCAUSE 5 and 2 (07 R204). -/
theorem test_access_traps :
    (after (withC [ownAt 0x10004]) (.ldD 0 9 4 0 0)).me.tcause = 2 ^ 31 + 5 ∧ (after (withC [ownAt 0x20000]) (.ldD 0 9 4 0 0)).me.tcause = 2 ^ 31 + 2 := by
  decide +kernel
/-- 01 R27: with LA = 2 the register keeps its value until two instructions have passed. -/
theorem test_lookahead :
    (after accesses (.ldD 0 6 4 2 0)).me.creg 6 = num 7 ∧ (after accesses (.ldD 0 6 4 2 0)).me.wins.map (·.left) = [2] := by decide +kernel
/-- 07 R204: `trap 3` leaves cause 11 with 3 in its field, EPC at the instruction and PCC at the vector; `tret` goes on behind it. -/
def trapped : State := after machine (.trap 0 3)
theorem test_trap :
    trapped.me.tcause = 2 ^ 31 + 11 + 2 ^ 8 * 3 ∧ trapped.me.epc = machine.me.pcc ∧ trapped.me.pcc = machine.me.tvec := by decide +kernel
theorem test_tret :
    (after trapped (.tret 0)).me.pcc.addr = 0x1004 ∧ (after trapped (.tret 0)).me.tcause = 11 + 2 ^ 8 * 3 := by decide +kernel
/-- 07 R203: a read of a package register without SYS traps `capp` (cause 4), an unassigned number `ill` (1). -/
theorem test_register_traps :
    let user := machine.updMe (fun (x : Strand) => { x with pcc := CVal.make 0x1000 4096 [.exec, .local] })
    (after user (.sysrd 0 9 0x100)).me.tcause = 2 ^ 31 + 4 ∧ (after user (.sysrd 0 9 3)).me.tcause = 2 ^ 31 + 1 := by decide +kernel

/-- 05 R127, R135: lanes wrap by themselves; the sum of 32 ones. -/
theorem test_vector_sum :
    lane32 (rd (after (withV [2 ^ 32 - 1, 1]) (.vaddInt 0 0 5 0 1 0)).me.v 5) 0 = 0 ∧
    lane32 (rd (after (withV [2 ^ 32 - 1, 1]) (.vaddInt 0 0 5 0 1 0)).me.v 5) 1 = 0 ∧
    lane32 (rd (after (withV [ofLanes32 (fun _ => 1)]) (.vred 0 5 0 0 0 9)).me.v 5) 0 = 32 := by decide +kernel
/-- 05, the neuron step worked through: θ 1.0 and α 0.5, membranes 0.5, 1.0, 2.0 and NaN, currents 0.25, 0.75, 2.5 and 1.0. -/
theorem test_neuron_step :
    let neurons := after (withC [num 0x3F0000003F800000] (withV [0, 0x7FC00000400000003F8000003F000000, 0x3F800000402000003F4000003E800000])) (.nrns 0 1 2 4 1)
    rd neurons.me.v 1 = 0x000000003F7FFFFF3E8000003F000000 ∧ neurons.me.mask 1 = 6 ∧ neurons.me.fflags = 0x10 ∧ neurons.me.novd = 0x0000000100000004 := by
  decide +kernel

/-- 02 R60, the example: three terms folded in two orders; pairs hold their mantissa in bits 63:0 and their exponent above. -/
theorem test_block_add :
    let t := fun (m e : Nat) => (BitVec.ofNat 128 (m + 2 ^ 64 * e) : Quad)
    let start := t 0 0x8000
    let fold := fun (l : List Quad) => l.foldl (fun r p => (blockAdd r p).1) start
    fold [t 1 0, t 1 0, t 1 1] = t 2 1 ∧ fold [t 1 1, t 1 0, t 1 0] = t 1 1 := by decide +kernel
/-- 02 R48, the worked encoding: 3.0, -0.75, 0.1875 and 0.01171875 as D8. -/
theorem test_encoding_of_a_block :
    let f := fun (c : Nat) => ((Fmt.f32.decode c).1, 0)
    let r := dEncode 6 ([f 0x40400000, f 0xBF400000, f 0x3E400000, f 0x3C400000] ++ List.replicate 252 (f 0)) .rne
    r.1.bytes.take 9 = [0x80, 0x40, 0xFF, 0xFF, 0xFF, 0xFF, 0xFF, 0xFF, 0xFF] ∧ r.2.1.take 5 = [0x30, 0x4C, 0xB0, 0x83, 0] := by decide +kernel
/-- 02 R57, the example: a tile at X = -50 with 768 and -1, products 0.375, -3·2^-50 and 2^-60. -/
theorem test_tile_of_the_example :
    let el := fun (v e : Int) => ({ special := false, val := v, exp := e } : OElem)
    let a := [[el 3 (-2), el (-3) (-50)], [el 1 (-30), zeroElem]] ++ List.replicate 62 [zeroElem, zeroElem]
    let b := [[el 1 (-1), el 1 0], [el 1 (-30), zeroElem]] ++ List.replicate 62 [zeroElem, zeroElem]
    let t : AccTile := { x := BitVec.ofInt 16 (-50), e := wr (wr (Vector.replicate 4096 0) 0 768) 65 (BitVec.allOnes 64) }
    let r := (mmaTile t false a b).1
    r.x = BitVec.ofInt 16 (-48) ∧ rd r.e 0 = 0x00006000000000BF ∧ rd r.e 65 = 0xFFFFFFFFFFFFFFFF := by decide +kernel
/-- 13 R277, the example: six words with a fresh dictionary. -/
theorem test_compression_of_the_example :
    let ws : List Word := [0x3F800000, 0x80000000, 0x3F800000, 0x3F801234, 0, 0x40000000]
    let r := compress 1 (List.replicate 8 0) ws
    r.1 = [0xFE000003, 0x048D0220, 0x00000003, 0x00000001] ∧ r.2.1 = true ∧
    (decompress 1 true 6 (List.replicate 8 0) r.1).1 = [0x3F800000, 0, 0x3F800000, 0x3F801234, 0, 0x40000000] := by decide +kernel
/-- 01 R7: cores 35 and 36 lie in clusters 0 and 1; the first die holds cores 0 to 191. -/
theorem test_places : clusterOf 35 = 0 ∧ clusterOf 36 = 1 ∧ dieOf 191 = 0 ∧ dieOf 192 = 1 := by decide +kernel

end Sys2Proof.Tests
end

section
/-! PROOF. Decoding and encoding agree (01 R18-R24, R33, R34): the round trips of Sys2Proof/Laws/PerInstr.lean, one for
each constructor, put together. -/

namespace Sys2Proof.Laws.RoundTrip

/-- Every instruction word is what its encoding decodes to: the case split over `Instr`, each case its own round trip, in
the order of the constructors (an event is no word). -/
theorem roundTrip : ∀ i : Instr, Statement i :=
  Instr.rec (motive := Statement)
    memoryUpcall loadResponse storeAtHome postedErrorResponse amoAtHome xaddAtHome joinDecrement taskCommit
    taskIrrevocable versionRecordFreed messageArrival refusalCallback messageResend sendAccepted handlerChoice
    continuationTake stealRound stealRetryTimeout queuePushWait watermarkPublish watermarkAtNi watermarkAtWindowUnit
    windowTargetPass windowTimeout detApplyAtHome detReleaseAtQueue closePacketsSend closePacketDelivery sheetTimeout
    sheetDone leaseGrant arrayTurn arrayTurnEnd arrayCommandComplete arrayFillComplete arraySpill arrayRestore
    readoutDrain streamerPiece granuleWrite engineAck engineHandBack quireUpdateAtHome walkArrival walkRule walkEnd
    prefetchTrigger prefetchKernel translationWalk tlbiAck bridgeResend preemptionSave strandRestore launchValidation
    launchHeadTake launchPortWrite teamSliceExpiry partitionPeriodStart partitionBudgetStart partitionBudgetEnd
    coreHardwareError dieFatalFault gerrPop reset functionReady functionOutOfService throttleTick overtemperature
    gptpSync csi2Packet portWatermarkPeriod gpioEdge gpioTimerPeriod gpioWatermarkPeriod canFrameEvent
    canWatermarkPeriod pagingFill pagingSpill pagingGrow pggrowPop protRegionEnable protRegionDisable wstReadClear
    quiesceRequest quiesceComplete debugHalt debugRelease snapshotPin capabilityStore attestationRequest appCoreAccess
    pcieInboundWrite registerWrite illegalInstruction instructionFetchFailure lockLost add sub and or xor andn sll srl
    sra rot min max mul mulh mulhU div divU rem remU clz popc mov sextB sextH sextW zextB zextH zextW addImm
    addImmLiteral andImm andImmLiteral orImm orImmLiteral xorImm xorImmLiteral sllImm srlImm sraImm rotImm li
    liLiteral cmpi cmpiLiteral cmp cmpAnd cmpOr gnot gand gor sel fadd fsub fmul fdiv fmin fmax fsqrt ffma ffmaN fcmp
    fcvtF32I64 fcvtF32U64 fcvtI64F32 fcvtU64F32 fcvtBf16F32 fcvtF16F32 fcvtF32Bf16 fcvtF32F16 cbnd cinc caddr cperm
    ctagc cgetBase cgetTop cgetLen cgetPerm cgetTag cincImm cincImmLiteral cbndImm cbndImmLiteral j call jr ret bgF
    bgT rep repLiteral repReg nop trap suspend hend ldB ldBLiteral ldH ldHLiteral ldW ldWLiteral ldD ldDLiteral ldQ
    ldQLiteral stB stBLiteral stH stHLiteral stW stWLiteral stD stDLiteral stQ stQLiteral ldc ldcLiteral stc
    stcLiteral ldq ldqLiteral stq stqLiteral ldm stm vld vldLiteral vst vstLiteral vlds vldx vsts vstx amoAdd amoAnd
    amoOr amoXor amoMin amoMax amoMinu amoMaxu amoSwap amoCas amoFadd fenceAcq fenceRel fenceAr afence pfx touch
    touchW bar get give vaddInt vsubInt vmulInt vminInt vmaxInt vand vor vxor vshl vshr vshrA vaddF32 vsubF32 vmulF32
    vminF32 vmaxF32 vfmaF32 vaddF16 vsubF16 vmulF16 vminF16 vmaxF16 vfmaF16 vaddBf16 vsubBf16 vmulBf16 vminBf16
    vmaxBf16 vfmaBf16 vcmp vsel vperm vmerge vcomp vexpd vbcast vrnd vrndf nrns spkout vbsum bsadd movVc movCv movMc
    movCm vred vscan vsqrt vexp2 vlog2 vrcp vdivF32 vcvt vdivF16 trd twr tzero ttrans tclaim tfree pld pst plupd
    plaxpy plhdr mlease mfree mgeo mgeor mstat mzero mldb mgath mrd mma mmaSet mmaSub mrun mrunSet mrunSub send sendi
    wmark waitch hmask hset chcap wincfg winclose dkcfg dkflush dkstat xcopy xresume xgeo ttest twait spawn done doneJ
    launch yield tspawn tdone tabort tfront twaitc xacq xadd xrd xrel pwalk pfcfg pfstop sysrd syswr uret tret tlbi
    snap freeze resumef

end Sys2Proof.Laws.RoundTrip

namespace Sys2Proof.Machine
open Sys2Proof.Laws.RoundTrip

/-- Settles O52: the round trip of every constructor. -/
theorem decodeOfEncode : Obligations.DecodeOfEncode := by
  intro i rest hword hwf
  exact roundTrip i hword hwf rest

end Sys2Proof.Machine
end

section
/-! PROOF. The tier 1 statements of the word layer: words written out (01 R18, R33, R34) and how a strand goes on (R23,
R28, R32). -/

namespace Sys2Proof.Machine

/-- Settles O51: each of these closed words is decoded by its major's decoder. -/
theorem wordsDecode : Obligations.WordsDecode := ⟨rfl, rfl, rfl, rfl, rfl, rfl, rfl, rfl, rfl⟩

/-- Settles O54: the cases are those of `Strand.pass` and `Strand.leap`: no repetition; one that stands still; and one whose
position the instruction stands at, within its body, at the last slot of a round, or at that of the last round. -/
theorem executionAdvances : Obligations.ExecutionAdvances := by
  intro x pcc p len before r wins next st
  refine ⟨rfl, fun hstill => ⟨?_, ?_⟩, fun hlive hhere => ?_, rfl⟩
  · simp only [Strand.pass, if_pos hstill]
    rfl
  · have hnot : ¬ ((!r.parked) = true ∧ r.next = pcc.addr) := by
      rintro ⟨hp, hn⟩
      rcases hstill with h | h
      · simp [h] at hp
      · exact h hn
    simp only [Strand.leap, if_neg hnot]
    rfl
  · have hcounts : ¬ (r.parked = true ∨ r.next ≠ pcc.addr) := by simp [hlive, hhere]
    have hinside : (!r.parked) = true ∧ r.next = pcc.addr := by simp [hlive, hhere]
    refine ⟨fun hbody => ?_, fun hlast hmore => ?_, fun hlast hend => ?_, ?_⟩
    · simp only [Strand.pass, if_neg hcounts, if_pos hbody]
      rfl
    · simp only [Strand.pass, if_neg hcounts, if_neg (Nat.not_lt.mpr hlast), if_neg (Nat.not_le.mpr hmore)]
      rfl
    · simp only [Strand.pass, if_neg hcounts, if_neg (Nat.not_lt.mpr hlast), if_pos hend]
      rfl
    · simp only [Strand.leap, if_pos hinside]
      rfl

end Sys2Proof.Machine
end

section
/-! PROOF. An instruction that is guarded off only counts (01 R25, R26): whatever a major's decoder names is passed, by
the laws of Sys2Proof/Laws/Off.lean, with its literal. -/

namespace Sys2Proof.Machine

/-- Whatever instruction `o` names, the running strand passes it, `n` bytes long, and does nothing else. -/
def State.Passes (s : State) (n : Nat) (o : Option Instr) : Prop :=
  ∀ i, o = some i → exec i s = .next (s.passed n s.me)

namespace State.Passes
variable {s : State} {n v k : Nat} {o p : Option Instr} {i : Instr}

theorem none : s.Passes n Option.none := fun _ h => absurd h (by simp)

theorem some (h : exec i s = .next (s.passed n s.me)) : s.Passes n (Option.some i) := by
  rintro _ ⟨rfl⟩
  exact h

theorem ite {c : Prop} [Decidable c] (ho : c → s.Passes n o) (hp : s.Passes n p) : s.Passes n (if c then o else p) := by
  by_cases hc : c
  · rw [if_pos hc]; exact ho hc
  · rw [if_neg hc]; exact hp

/-- One row of a major's table. -/
theorem row {c : Prop} [Decidable c] (h : exec i s = .next (s.passed n s.me)) (hp : s.Passes n p) :
    s.Passes n (if c then Option.some i else p) := .ite (fun _ => .some h) hp

/-- A field value that stands for a literal makes the instruction 8 bytes long (01 R22). -/
theorem literal (ho : s.Passes 8 o) (hp : s.Passes 4 p) :
    s.Passes (if v == k then 8 else 4) (if v = k then o else p) := by
  by_cases hv : v = k
  · simpa [hv] using ho
  · simpa [hv] using hp

/-- A word without a literal form is 4 bytes long. -/
theorem plain {w : Nat} (h : hasLiteral w = false) (ho : s.Passes 4 o) : s.Passes (if hasLiteral w then 8 else 4) o := by
  simpa [h] using ho

end State.Passes

/-- The majors that have a literal form (01 R22). -/
def literalMajors : List Nat :=
  [0x03, 0x04, 0x05, 0x06, 0x0B, 0x0C, 0x15, 0x16, 0x1C, 0x20, 0x21, 0x22, 0x23, 0x24, 0x25, 0x26, 0x27, 0x28, 0x29, 0x2B,
   0x2C]

theorem hasLiteral_eq_false {w m : Nat} (hm : majorOf w = m) (h : m ∉ literalMajors) : hasLiteral w = false := by
  subst hm
  unfold hasLiteral
  split <;> simp_all [literalMajors]

/-! ### The majors -/

section
variable {s : State} {w lit : Nat} (hg : s.me.guard (Fin.ofNat 8 (w / 2 ^ 29)) = false)
include hg

theorem passes_dec00 : s.Passes 4 (dec00 w) :=
  .row (off_add _ _ _ _ _ hg) <| .row (off_sub _ _ _ _ _ hg) <| .row (off_and _ _ _ _ _ hg) <|
  .row (off_or _ _ _ _ _ hg) <| .row (off_xor _ _ _ _ _ hg) <| .row (off_andn _ _ _ _ _ hg) <|
  .row (off_sll _ _ _ _ _ hg) <| .row (off_srl _ _ _ _ _ hg) <| .row (off_sra _ _ _ _ _ hg) <|
  .row (off_rot _ _ _ _ _ hg) <| .row (off_min _ _ _ _ _ hg) <| .row (off_max _ _ _ _ _ hg) .none
theorem passes_dec01 : s.Passes 4 (dec01 w) :=
  .row (off_mul _ _ _ _ _ hg) <| .row (off_mulh _ _ _ _ _ hg) <| .row (off_mulhU _ _ _ _ _ hg) <|
  .row (off_div _ _ _ _ _ hg) <| .row (off_divU _ _ _ _ _ hg) <| .row (off_rem _ _ _ _ _ hg) <|
  .row (off_remU _ _ _ _ _ hg) .none
theorem passes_dec02 : s.Passes 4 (dec02 w) :=
  .row (off_clz _ _ _ _ hg) <| .row (off_popc _ _ _ _ hg) <| .row (off_mov _ _ _ _ hg) <|
  .row (off_sextB _ _ _ _ hg) <| .row (off_sextH _ _ _ _ hg) <| .row (off_sextW _ _ _ _ hg) <|
  .row (off_zextB _ _ _ _ hg) <| .row (off_zextH _ _ _ _ hg) <| .row (off_zextW _ _ _ _ hg) .none
theorem passes_dec03 : s.Passes (if fld w 0 10 == 0x200 then 8 else 4) (dec03 w lit) :=
  .literal (.some (off_addImmLiteral _ _ _ _ _ hg)) (.some (off_addImm _ _ _ _ _ hg))
theorem passes_dec04 : s.Passes (if fld w 0 10 == 0x200 then 8 else 4) (dec04 w lit) :=
  .literal (.some (off_andImmLiteral _ _ _ _ _ hg)) (.some (off_andImm _ _ _ _ _ hg))
theorem passes_dec05 : s.Passes (if fld w 0 10 == 0x200 then 8 else 4) (dec05 w lit) :=
  .literal (.some (off_orImmLiteral _ _ _ _ _ hg)) (.some (off_orImm _ _ _ _ _ hg))
theorem passes_dec06 : s.Passes (if fld w 0 10 == 0x200 then 8 else 4) (dec06 w lit) :=
  .literal (.some (off_xorImmLiteral _ _ _ _ _ hg)) (.some (off_xorImm _ _ _ _ _ hg))
theorem passes_dec07 : s.Passes 4 (dec07 w) := .some (off_sllImm _ _ _ _ _ hg)
theorem passes_dec08 : s.Passes 4 (dec08 w) := .some (off_srlImm _ _ _ _ _ hg)
theorem passes_dec09 : s.Passes 4 (dec09 w) := .some (off_sraImm _ _ _ _ _ hg)
theorem passes_dec0A : s.Passes 4 (dec0A w) := .some (off_rotImm _ _ _ _ _ hg)
theorem passes_dec0B : s.Passes (if fld w 0 10 == 0x200 then 8 else 4) (dec0B w lit) :=
  .ite (fun _ => .literal (.some (off_liLiteral _ _ _ _ hg)) (.some (off_li _ _ _ _ hg))) .none
theorem passes_dec0C : s.Passes (if fld w 0 10 == 0x200 then 8 else 4) (dec0C w lit) :=
  .literal (.some (off_cmpiLiteral _ _ _ _ _ _ hg)) (.some (off_cmpi _ _ _ _ _ _ hg))
theorem passes_dec0D : s.Passes 4 (dec0D w) :=
  .row (off_cmp _ _ _ _ _ _ hg) <| .row (off_cmpAnd _ _ _ _ _ _ hg) <| .row (off_cmpOr _ _ _ _ _ _ hg) .none
theorem passes_dec0E : s.Passes 4 (dec0E w) :=
  .row (off_gnot _ _ _ _ hg) <| .row (off_gand _ _ _ _ _ hg) <| .row (off_gor _ _ _ _ _ hg) .none
theorem passes_dec0F : s.Passes 4 (dec0F w) :=
  .row (off_sel _ _ _ _ _ _ hg) .none
theorem passes_dec10 : s.Passes 4 (dec10 w) :=
  .row (off_fadd _ _ _ _ _ hg) <| .row (off_fsub _ _ _ _ _ hg) <| .row (off_fmul _ _ _ _ _ hg) <|
  .row (off_fdiv _ _ _ _ _ hg) <| .row (off_fmin _ _ _ _ _ hg) <| .row (off_fmax _ _ _ _ _ hg) <|
  .row (off_fsqrt _ _ _ _ hg) .none
theorem passes_dec11 : s.Passes 4 (dec11 w) :=
  .row (off_ffma _ _ _ _ _ hg) <| .row (off_ffmaN _ _ _ _ _ hg) .none
theorem passes_dec12 : s.Passes 4 (dec12 w) :=
  .row (off_fcmp _ _ _ _ _ _ hg) .none
theorem passes_dec13 : s.Passes 4 (dec13 w) :=
  .row (off_fcvtF32I64 _ _ _ _ hg) <| .row (off_fcvtF32U64 _ _ _ _ hg) <| .row (off_fcvtI64F32 _ _ _ _ hg) <|
  .row (off_fcvtU64F32 _ _ _ _ hg) <| .row (off_fcvtBf16F32 _ _ _ _ hg) <| .row (off_fcvtF16F32 _ _ _ _ hg) <|
  .row (off_fcvtF32Bf16 _ _ _ _ hg) <| .row (off_fcvtF32F16 _ _ _ _ hg) .none
theorem passes_dec14 : s.Passes 4 (dec14 w) :=
  .row (off_cbnd _ _ _ _ _ hg) <| .row (off_cinc _ _ _ _ _ hg) <| .row (off_caddr _ _ _ _ _ hg) <|
  .row (off_cperm _ _ _ _ _ hg) <| .row (off_ctagc _ _ _ _ hg) <| .row (off_cgetBase _ _ _ _ hg) <|
  .row (off_cgetTop _ _ _ _ hg) <| .row (off_cgetLen _ _ _ _ hg) <| .row (off_cgetPerm _ _ _ _ hg) <|
  .row (off_cgetTag _ _ _ _ hg) .none
theorem passes_dec15 : s.Passes (if fld w 0 10 == 0x200 then 8 else 4) (dec15 w lit) :=
  .literal (.some (off_cincImmLiteral _ _ _ _ _ hg)) (.some (off_cincImm _ _ _ _ _ hg))
theorem passes_dec16 : s.Passes (if fld w 0 10 == 0x200 then 8 else 4) (dec16 w lit) :=
  .literal (.some (off_cbndImmLiteral _ _ _ _ _ hg)) (.some (off_cbndImm _ _ _ _ _ hg))
theorem passes_dec18 : s.Passes 4 (dec18 w) := .some (off_j _ _ _ hg)
theorem passes_dec19 : s.Passes 4 (dec19 w) := .some (off_call _ _ _ hg)
theorem passes_dec1A : s.Passes 4 (dec1A w) :=
  .row (off_jr _ _ _ hg) <| .row (off_ret _ _ hg) .none
theorem passes_dec1B : s.Passes 4 (dec1B w) :=
  .row (off_bgF _ _ _ _ hg) <| .row (off_bgT _ _ _ _ hg) .none
theorem passes_dec1C : s.Passes (if fld w 10 6 == 0 && fld w 0 10 == 0x200 then 8 else 4) (dec1C w lit) := by
  unfold dec1C
  by_cases h0 : fld w 10 6 = 0
  · simp only [h0, beq_self_eq_true, Bool.true_and, if_true]
    exact .literal (.some (off_repLiteral _ _ _ _ hg)) (.some (off_rep _ _ _ _ hg))
  · simp only [beq_false_of_ne h0, h0, Bool.false_and, Bool.false_eq_true, if_false]
    exact .row (off_repReg _ _ _ _ hg) .none
theorem passes_dec1D : s.Passes 4 (dec1D w) :=
  .row (off_nop _ _ hg) .none
theorem passes_dec1E : s.Passes 4 (dec1E w) :=
  .row (off_trap _ _ _ hg) .none
theorem passes_dec1F : s.Passes 4 (dec1F w) :=
  .row (off_suspend _ _ _ _ hg) <| .row (off_hend _ _ hg) .none
theorem passes_dec20 : s.Passes (if fld w 0 6 == 0x20 then 8 else 4) (dec20 w lit) :=
  .literal (.some (off_ldBLiteral _ _ _ _ _ _ hg)) (.some (off_ldB _ _ _ _ _ _ hg))
theorem passes_dec21 : s.Passes (if fld w 0 6 == 0x20 then 8 else 4) (dec21 w lit) :=
  .literal (.some (off_ldHLiteral _ _ _ _ _ _ hg)) (.some (off_ldH _ _ _ _ _ _ hg))
theorem passes_dec22 : s.Passes (if fld w 0 6 == 0x20 then 8 else 4) (dec22 w lit) :=
  .literal (.some (off_ldWLiteral _ _ _ _ _ _ hg)) (.some (off_ldW _ _ _ _ _ _ hg))
theorem passes_dec23 : s.Passes (if fld w 0 6 == 0x20 then 8 else 4) (dec23 w lit) :=
  .literal (.some (off_ldDLiteral _ _ _ _ _ _ hg)) (.some (off_ldD _ _ _ _ _ _ hg))
theorem passes_dec24 : s.Passes (if fld w 0 6 == 0x20 then 8 else 4) (dec24 w lit) :=
  .literal (.some (off_ldQLiteral _ _ _ _ _ _ hg)) (.some (off_ldQ _ _ _ _ _ _ hg))
theorem passes_dec25 : s.Passes (if fld w 0 6 == 0x20 then 8 else 4) (dec25 w lit) :=
  .ite (fun _ => .literal (.some (off_stBLiteral _ _ _ _ _ hg)) (.some (off_stB _ _ _ _ _ hg))) <|
  .ite (fun _ => .literal (.some (off_stHLiteral _ _ _ _ _ hg)) (.some (off_stH _ _ _ _ _ hg))) <|
  .ite (fun _ => .literal (.some (off_stWLiteral _ _ _ _ _ hg)) (.some (off_stW _ _ _ _ _ hg))) <|
  .ite (fun _ => .literal (.some (off_stDLiteral _ _ _ _ _ hg)) (.some (off_stD _ _ _ _ _ hg))) <|
  .ite (fun _ => .literal (.some (off_stQLiteral _ _ _ _ _ hg)) (.some (off_stQ _ _ _ _ _ hg))) .none
theorem passes_dec26 : s.Passes (if fld w 0 6 == 0x20 then 8 else 4) (dec26 w lit) :=
  .literal (.some (off_ldcLiteral _ _ _ _ _ _ hg)) (.some (off_ldc _ _ _ _ _ _ hg))
theorem passes_dec27 : s.Passes (if fld w 0 6 == 0x20 then 8 else 4) (dec27 w lit) :=
  .ite (fun _ => .literal (.some (off_stcLiteral _ _ _ _ _ hg)) (.some (off_stc _ _ _ _ _ hg))) .none
theorem passes_dec28 : s.Passes (if fld w 0 6 == 0x20 then 8 else 4) (dec28 w lit) :=
  .ite (fun _ => .literal (.some (off_ldqLiteral _ _ _ _ _ hg)) (.some (off_ldq _ _ _ _ _ hg))) .none
theorem passes_dec29 : s.Passes (if fld w 0 6 == 0x20 then 8 else 4) (dec29 w lit) :=
  .ite (fun _ => .literal (.some (off_stqLiteral _ _ _ _ _ hg)) (.some (off_stq _ _ _ _ _ hg))) .none
theorem passes_dec2A : s.Passes 4 (dec2A w) :=
  .row (off_ldm _ _ _ _ _ hg) <| .row (off_stm _ _ _ _ _ hg) .none
theorem passes_dec2B : s.Passes (if fld w 0 6 == 0x20 then 8 else 4) (dec2B w lit) :=
  .ite (fun _ => .literal (.some (off_vldLiteral _ _ _ _ _ _ hg)) (.some (off_vld _ _ _ _ _ _ hg))) .none
theorem passes_dec2C : s.Passes (if fld w 0 6 == 0x20 then 8 else 4) (dec2C w lit) :=
  .ite (fun _ => .literal (.some (off_vstLiteral _ _ _ _ _ _ hg)) (.some (off_vst _ _ _ _ _ _ hg))) .none
theorem passes_dec2D : s.Passes 4 (dec2D w) :=
  .row (off_vlds _ _ _ _ _ _ hg) <| .row (off_vldx _ _ _ _ _ _ hg) <| .row (off_vsts _ _ _ _ _ _ hg) <|
  .row (off_vstx _ _ _ _ _ _ hg) .none
theorem passes_dec2E : s.Passes 4 (dec2E w) :=
  .row (off_amoAdd _ _ _ _ _ hg) <| .row (off_amoAnd _ _ _ _ _ hg) <| .row (off_amoOr _ _ _ _ _ hg) <|
  .row (off_amoXor _ _ _ _ _ hg) <| .row (off_amoMin _ _ _ _ _ hg) <| .row (off_amoMax _ _ _ _ _ hg) <|
  .row (off_amoMinu _ _ _ _ _ hg) <| .row (off_amoMaxu _ _ _ _ _ hg) <| .row (off_amoSwap _ _ _ _ _ hg) <|
  .row (off_amoCas _ _ _ _ _ hg) <| .row (off_amoFadd _ _ _ _ _ hg) .none
theorem passes_dec2F : s.Passes 4 (dec2F w) :=
  .row (off_fenceAcq _ _ _ hg) <| .row (off_fenceRel _ _ _ hg) <| .row (off_fenceAr _ _ _ hg) <|
  .row (off_afence _ _ _ _ hg) <| .row (off_pfx _ _ _ hg) <| .row (off_touch _ _ _ hg) <|
  .row (off_touchW _ _ _ hg) <| .row (off_bar _ _ _ hg) <| .row (off_get _ _ _ _ _ hg) <|
  .row (off_give _ _ _ _ _ hg) .none
theorem passes_dec30 : s.Passes 4 (dec30 w) :=
  .row (off_vaddInt _ _ _ _ _ _ _ hg) <| .row (off_vsubInt _ _ _ _ _ _ _ hg) <| .row (off_vmulInt _ _ _ _ _ _ _ hg) <|
  .row (off_vminInt _ _ _ _ _ _ _ hg) <| .row (off_vmaxInt _ _ _ _ _ _ _ hg) <| .row (off_vand _ _ _ _ _ _ _ hg) <|
  .row (off_vor _ _ _ _ _ _ _ hg) <| .row (off_vxor _ _ _ _ _ _ _ hg) <| .row (off_vshl _ _ _ _ _ _ _ hg) <|
  .row (off_vshr _ _ _ _ _ _ _ hg) <| .row (off_vshrA _ _ _ _ _ _ _ hg) .none
theorem passes_dec33 : s.Passes 4 (dec33 w) :=
  .row (off_vaddF32 _ _ _ _ _ _ hg) <| .row (off_vsubF32 _ _ _ _ _ _ hg) <| .row (off_vmulF32 _ _ _ _ _ _ hg) <|
  .row (off_vminF32 _ _ _ _ _ _ hg) <| .row (off_vmaxF32 _ _ _ _ _ _ hg) <| .row (off_vfmaF32 _ _ _ _ _ _ hg) .none
theorem passes_dec34 : s.Passes 4 (dec34 w) :=
  .row (off_vaddF16 _ _ _ _ _ _ hg) <| .row (off_vsubF16 _ _ _ _ _ _ hg) <| .row (off_vmulF16 _ _ _ _ _ _ hg) <|
  .row (off_vminF16 _ _ _ _ _ _ hg) <| .row (off_vmaxF16 _ _ _ _ _ _ hg) <| .row (off_vfmaF16 _ _ _ _ _ _ hg) .none
theorem passes_dec35 : s.Passes 4 (dec35 w) :=
  .row (off_vaddBf16 _ _ _ _ _ _ hg) <| .row (off_vsubBf16 _ _ _ _ _ _ hg) <| .row (off_vmulBf16 _ _ _ _ _ _ hg) <|
  .row (off_vminBf16 _ _ _ _ _ _ hg) <| .row (off_vmaxBf16 _ _ _ _ _ _ hg) <| .row (off_vfmaBf16 _ _ _ _ _ _ hg) .none
theorem passes_dec36 : s.Passes 4 (dec36 w) :=
  .row (off_vcmp _ _ _ _ _ _ _ _ hg) .none
theorem passes_dec37 : s.Passes 4 (dec37 w) :=
  .row (off_vsel _ _ _ _ _ _ hg) <| .row (off_vperm _ _ _ _ _ _ hg) <| .row (off_vmerge _ _ _ _ _ _ hg) <|
  .row (off_vcomp _ _ _ _ _ hg) <| .row (off_vexpd _ _ _ _ _ hg) .none
theorem passes_dec38 : s.Passes 4 (dec38 w) :=
  .row (off_vbcast _ _ _ _ _ hg) <| .row (off_vrnd _ _ _ _ _ hg) <| .row (off_vrndf _ _ _ _ _ hg) <|
  .row (off_nrns _ _ _ _ _ _ hg) <| .row (off_spkout _ _ _ _ _ hg) <| .row (off_vbsum _ _ _ _ _ _ hg) <|
  .row (off_bsadd _ _ _ _ hg) .none
theorem passes_dec39 : s.Passes 4 (dec39 w) :=
  .row (off_movVc _ _ _ _ _ hg) <| .row (off_movCv _ _ _ _ _ hg) <| .row (off_movMc _ _ _ _ hg) <|
  .row (off_movCm _ _ _ _ hg) .none
theorem passes_dec3A : s.Passes 4 (dec3A w) := .some (off_vred _ _ _ _ _ _ _ hg)
theorem passes_dec3B : s.Passes 4 (dec3B w) := .some (off_vscan _ _ _ _ _ _ _ hg)
theorem passes_dec3C : s.Passes 4 (dec3C w) :=
  .row (off_vsqrt _ _ _ _ _ _ _ hg) <| .row (off_vexp2 _ _ _ _ _ _ _ hg) <| .row (off_vlog2 _ _ _ _ _ _ _ hg) <|
  .row (off_vrcp _ _ _ _ _ _ _ hg) .none
theorem passes_dec3D : s.Passes 4 (dec3D w) := .some (off_vdivF32 _ _ _ _ _ _ _ hg)
theorem passes_dec3E : s.Passes 4 (dec3E w) := .some (off_vcvt _ _ _ _ _ _ _ hg)
theorem passes_dec3F : s.Passes 4 (dec3F w) := .some (off_vdivF16 _ _ _ _ _ _ _ hg)
theorem passes_dec40 : s.Passes 4 (dec40 w) :=
  .row (off_trd _ _ _ _ _ _ _ hg) <| .row (off_twr _ _ _ _ _ _ _ hg) <| .row (off_tzero _ _ _ hg) <|
  .row (off_ttrans _ _ _ hg) .none
theorem passes_dec41 : s.Passes 4 (dec41 w) :=
  .row (off_tclaim _ _ _ hg) <| .row (off_tfree _ _ _ hg) .none
theorem passes_dec42 : s.Passes 4 (dec42 w) :=
  .row (off_pld _ _ _ _ _ hg) <| .row (off_pst _ _ _ _ _ hg) <| .row (off_plupd _ _ _ _ _ hg) <|
  .row (off_plaxpy _ _ _ _ _ hg) <| .row (off_plhdr _ _ _ _ _ hg) .none
theorem passes_dec48 : s.Passes 4 (dec48 w) :=
  .row (off_mlease _ _ _ _ _ hg) <| .row (off_mfree _ _ hg) .none
theorem passes_dec49 : s.Passes 4 (dec49 w) :=
  .row (off_mgeo _ _ _ _ hg) <| .row (off_mgeor _ _ _ _ hg) <| .row (off_mstat _ _ _ _ hg) <|
  .row (off_mzero _ _ _ hg) .none
theorem passes_dec4A : s.Passes 4 (dec4A w) :=
  .row (off_mldb _ _ _ _ _ hg) <| .row (off_mgath _ _ _ _ _ hg) <| .row (off_mrd _ _ _ _ _ _ hg) .none
theorem passes_dec50 : s.Passes 4 (dec50 w) :=
  .row (off_send _ _ _ _ hg) <| .row (off_sendi _ _ _ _ hg) <| .row (off_wmark _ _ _ hg) <|
  .row (off_waitch _ _ _ hg) <| .row (off_hmask _ _ _ _ _ hg) <| .row (off_hset _ _ _ _ hg) <|
  .row (off_chcap _ _ _ _ hg) .none
theorem passes_dec51 : s.Passes 4 (dec51 w) :=
  .row (off_wincfg _ _ _ _ hg) <| .row (off_winclose _ _ _ hg) .none
theorem passes_dec52 : s.Passes 4 (dec52 w) :=
  .row (off_dkcfg _ _ _ _ hg) <| .row (off_dkflush _ _ _ hg) <| .row (off_dkstat _ _ _ _ hg) .none
theorem passes_dec53 : s.Passes 4 (dec53 w) :=
  .row (off_xcopy _ _ _ _ _ hg) <| .row (off_xresume _ _ _ hg) .none
theorem passes_dec54 : s.Passes 4 (dec54 w) :=
  .row (off_xgeo _ _ _ _ hg) <| .row (off_ttest _ _ _ _ _ hg) .none
theorem passes_dec55 : s.Passes 4 (dec55 w) :=
  .row (off_twait _ _ _ hg) .none
theorem passes_dec56 : s.Passes 4 (dec56 w) :=
  .row (off_spawn _ _ _ _ hg) <| .row (off_done _ _ hg) <| .row (off_doneJ _ _ _ hg) <|
  .row (off_launch _ _ _ _ hg) <| .row (off_yield _ _ hg) .none
theorem passes_dec57 : s.Passes 4 (dec57 w) :=
  .row (off_tspawn _ _ _ _ hg) <| .row (off_tdone _ _ hg) <| .row (off_tabort _ _ _ _ hg) <|
  .row (off_tfront _ _ _ _ hg) <| .row (off_twaitc _ _ _ _ hg) .none
theorem passes_dec58 : s.Passes 4 (dec58 w) :=
  .row (off_xacq _ _ _ _ hg) <| .row (off_xadd _ _ _ _ hg) <| .row (off_xrd _ _ _ _ hg) <|
  .row (off_xrel _ _ _ hg) .none
theorem passes_dec59 : s.Passes 4 (dec59 w) :=
  .row (off_pwalk _ _ _ _ _ hg) .none
theorem passes_dec5A : s.Passes 4 (dec5A w) :=
  .row (off_pfcfg _ _ _ _ hg) <| .row (off_pfstop _ _ _ hg) .none
theorem passes_dec5C : s.Passes 4 (dec5C w) :=
  .row (off_sysrd _ _ _ _ hg) .none
theorem passes_dec5D : s.Passes 4 (dec5D w) :=
  .row (off_syswr _ _ _ _ hg) .none
theorem passes_dec5E : s.Passes 4 (dec5E w) :=
  .row (off_uret _ _ _ hg) <| .row (off_tret _ _ hg) <| .row (off_tlbi _ _ _ _ _ hg) <| .row (off_snap _ _ _ hg) <|
  .row (off_freeze _ _ _ hg) <| .row (off_resumef _ _ _ hg) .none
theorem passes_dec60 : s.Passes 4 (dec60 w) :=
  .row (off_mma _ _ _ _ _ _ _ hg) <| .row (off_mmaSet _ _ _ _ _ _ _ hg) <| .row (off_mmaSub _ _ _ _ _ _ _ hg) <|
  .row (off_mrun _ _ _ _ _ _ _ hg) <| .row (off_mrunSet _ _ _ _ _ _ _ hg) <| .row (off_mrunSub _ _ _ _ _ _ _ hg) .none

/-- Whatever the map of R33 and R34 gives a word. -/
theorem passes_decodeMajor : s.Passes (if hasLiteral w then 8 else 4) (decodeMajor (majorOf w) w lit) :=
  .ite (fun h => .plain (hasLiteral_eq_false h (by decide)) (passes_dec00 hg)) <|
  .ite (fun h => .plain (hasLiteral_eq_false h (by decide)) (passes_dec01 hg)) <|
  .ite (fun h => .plain (hasLiteral_eq_false h (by decide)) (passes_dec02 hg)) <|
  .ite (fun h => literal10 h (by decide) ▸ passes_dec03 hg) <|
  .ite (fun h => literal10 h (by decide) ▸ passes_dec04 hg) <|
  .ite (fun h => literal10 h (by decide) ▸ passes_dec05 hg) <|
  .ite (fun h => literal10 h (by decide) ▸ passes_dec06 hg) <|
  .ite (fun h => .plain (hasLiteral_eq_false h (by decide)) (passes_dec07 hg)) <|
  .ite (fun h => .plain (hasLiteral_eq_false h (by decide)) (passes_dec08 hg)) <|
  .ite (fun h => .plain (hasLiteral_eq_false h (by decide)) (passes_dec09 hg)) <|
  .ite (fun h => .plain (hasLiteral_eq_false h (by decide)) (passes_dec0A hg)) <|
  .ite (fun h => literal10 h (by decide) ▸ passes_dec0B hg) <|
  .ite (fun h => literal10 h (by decide) ▸ passes_dec0C hg) <|
  .ite (fun h => .plain (hasLiteral_eq_false h (by decide)) (passes_dec0D hg)) <|
  .ite (fun h => .plain (hasLiteral_eq_false h (by decide)) (passes_dec0E hg)) <|
  .ite (fun h => .plain (hasLiteral_eq_false h (by decide)) (passes_dec0F hg)) <|
  .ite (fun h => .plain (hasLiteral_eq_false h (by decide)) (passes_dec10 hg)) <|
  .ite (fun h => .plain (hasLiteral_eq_false h (by decide)) (passes_dec11 hg)) <|
  .ite (fun h => .plain (hasLiteral_eq_false h (by decide)) (passes_dec12 hg)) <|
  .ite (fun h => .plain (hasLiteral_eq_false h (by decide)) (passes_dec13 hg)) <|
  .ite (fun h => .plain (hasLiteral_eq_false h (by decide)) (passes_dec14 hg)) <|
  .ite (fun h => literal10 h (by decide) ▸ passes_dec15 hg) <|
  .ite (fun h => literal10 h (by decide) ▸ passes_dec16 hg) <|
  .ite (fun h => .plain (hasLiteral_eq_false h (by decide)) (passes_dec18 hg)) <|
  .ite (fun h => .plain (hasLiteral_eq_false h (by decide)) (passes_dec19 hg)) <|
  .ite (fun h => .plain (hasLiteral_eq_false h (by decide)) (passes_dec1A hg)) <|
  .ite (fun h => .plain (hasLiteral_eq_false h (by decide)) (passes_dec1B hg)) <|
  .ite (fun h => literal1C h ▸ passes_dec1C hg) <|
  .ite (fun h => .plain (hasLiteral_eq_false h (by decide)) (passes_dec1D hg)) <|
  .ite (fun h => .plain (hasLiteral_eq_false h (by decide)) (passes_dec1E hg)) <|
  .ite (fun h => .plain (hasLiteral_eq_false h (by decide)) (passes_dec1F hg)) <|
  .ite (fun h => literal6 h (by decide) ▸ passes_dec20 hg) <|
  .ite (fun h => literal6 h (by decide) ▸ passes_dec21 hg) <|
  .ite (fun h => literal6 h (by decide) ▸ passes_dec22 hg) <|
  .ite (fun h => literal6 h (by decide) ▸ passes_dec23 hg) <|
  .ite (fun h => literal6 h (by decide) ▸ passes_dec24 hg) <|
  .ite (fun h => literal6 h (by decide) ▸ passes_dec25 hg) <|
  .ite (fun h => literal6 h (by decide) ▸ passes_dec26 hg) <|
  .ite (fun h => literal6 h (by decide) ▸ passes_dec27 hg) <|
  .ite (fun h => literal6 h (by decide) ▸ passes_dec28 hg) <|
  .ite (fun h => literal6 h (by decide) ▸ passes_dec29 hg) <|
  .ite (fun h => .plain (hasLiteral_eq_false h (by decide)) (passes_dec2A hg)) <|
  .ite (fun h => literal6 h (by decide) ▸ passes_dec2B hg) <|
  .ite (fun h => literal6 h (by decide) ▸ passes_dec2C hg) <|
  .ite (fun h => .plain (hasLiteral_eq_false h (by decide)) (passes_dec2D hg)) <|
  .ite (fun h => .plain (hasLiteral_eq_false h (by decide)) (passes_dec2E hg)) <|
  .ite (fun h => .plain (hasLiteral_eq_false h (by decide)) (passes_dec2F hg)) <|
  .ite (fun h => .plain (noLiteral rfl (by omega)) (passes_dec30 hg)) <|
  .ite (fun h => .plain (hasLiteral_eq_false h (by decide)) (passes_dec33 hg)) <|
  .ite (fun h => .plain (hasLiteral_eq_false h (by decide)) (passes_dec34 hg)) <|
  .ite (fun h => .plain (hasLiteral_eq_false h (by decide)) (passes_dec35 hg)) <|
  .ite (fun h => .plain (hasLiteral_eq_false h (by decide)) (passes_dec36 hg)) <|
  .ite (fun h => .plain (hasLiteral_eq_false h (by decide)) (passes_dec37 hg)) <|
  .ite (fun h => .plain (hasLiteral_eq_false h (by decide)) (passes_dec38 hg)) <|
  .ite (fun h => .plain (hasLiteral_eq_false h (by decide)) (passes_dec39 hg)) <|
  .ite (fun h => .plain (hasLiteral_eq_false h (by decide)) (passes_dec3A hg)) <|
  .ite (fun h => .plain (hasLiteral_eq_false h (by decide)) (passes_dec3B hg)) <|
  .ite (fun h => .plain (hasLiteral_eq_false h (by decide)) (passes_dec3C hg)) <|
  .ite (fun h => .plain (hasLiteral_eq_false h (by decide)) (passes_dec3D hg)) <|
  .ite (fun h => .plain (hasLiteral_eq_false h (by decide)) (passes_dec3E hg)) <|
  .ite (fun h => .plain (hasLiteral_eq_false h (by decide)) (passes_dec3F hg)) <|
  .ite (fun h => .plain (hasLiteral_eq_false h (by decide)) (passes_dec40 hg)) <|
  .ite (fun h => .plain (hasLiteral_eq_false h (by decide)) (passes_dec41 hg)) <|
  .ite (fun h => .plain (hasLiteral_eq_false h (by decide)) (passes_dec42 hg)) <|
  .ite (fun h => .plain (hasLiteral_eq_false h (by decide)) (passes_dec48 hg)) <|
  .ite (fun h => .plain (hasLiteral_eq_false h (by decide)) (passes_dec49 hg)) <|
  .ite (fun h => .plain (hasLiteral_eq_false h (by decide)) (passes_dec4A hg)) <|
  .ite (fun h => .plain (hasLiteral_eq_false h (by decide)) (passes_dec50 hg)) <|
  .ite (fun h => .plain (hasLiteral_eq_false h (by decide)) (passes_dec51 hg)) <|
  .ite (fun h => .plain (hasLiteral_eq_false h (by decide)) (passes_dec52 hg)) <|
  .ite (fun h => .plain (hasLiteral_eq_false h (by decide)) (passes_dec53 hg)) <|
  .ite (fun h => .plain (hasLiteral_eq_false h (by decide)) (passes_dec54 hg)) <|
  .ite (fun h => .plain (hasLiteral_eq_false h (by decide)) (passes_dec55 hg)) <|
  .ite (fun h => .plain (hasLiteral_eq_false h (by decide)) (passes_dec56 hg)) <|
  .ite (fun h => .plain (hasLiteral_eq_false h (by decide)) (passes_dec57 hg)) <|
  .ite (fun h => .plain (hasLiteral_eq_false h (by decide)) (passes_dec58 hg)) <|
  .ite (fun h => .plain (hasLiteral_eq_false h (by decide)) (passes_dec59 hg)) <|
  .ite (fun h => .plain (hasLiteral_eq_false h (by decide)) (passes_dec5A hg)) <|
  .ite (fun h => .plain (hasLiteral_eq_false h (by decide)) (passes_dec5C hg)) <|
  .ite (fun h => .plain (hasLiteral_eq_false h (by decide)) (passes_dec5D hg)) <|
  .ite (fun h => .plain (hasLiteral_eq_false h (by decide)) (passes_dec5E hg)) <|
  .ite (fun h => .plain (noLiteral rfl (by omega)) (passes_dec60 hg)) .none

end

/-- A decoded word is what its major's decoder names. -/
theorem decodeMajor_of_decode {w lit : Nat} {i : Instr} (h : decode w lit = .ok i) :
    decodeMajor (majorOf w) w lit = some i := by
  unfold decode at h
  split_ifs at h
  split at h
  · split_ifs at h
    simp_all
  · simp at h

/-- Settles O53: a decoded word is what its major's decoder names, which the strand passes. -/
theorem guardedOffInstructionsOnlyCount : Obligations.GuardedOffInstructionsOnlyCount :=
  fun _ _ _ i hd hg => passes_decodeMajor hg i (decodeMajor_of_decode hd)

end Sys2Proof.Machine
end

section
/-! PROOF. A step runs the instruction that the bytes at PCC decode to (01 R22-R24; 03 R90). -/

namespace Sys2Proof.Machine

/-! ### Accesses of a strand's own slice that stay within a line -/

/-- Bytes that do not cross a line are one part. -/
theorem partsOf_within_line {va : Dbl} {n : Nat} (h0 : 0 < n) (h : va.toNat % 64 + n ≤ 64) : partsOf va n = [(va, n)] := by
  have hk : min n (64 - va.toNat % 64) = n := by omega
  unfold partsOf
  rw [lineParts, if_neg (by omega)]
  simp only [hk, Nat.sub_self]
  unfold lineParts
  simp

/-- A LOCAL access that the protection unit admits goes to the core's own slice (21 R368). -/
theorem translate_local {s : State} {w : Who} {va : Dbl} {m : Mode} {keep : Bool}
    (h : (s.core w.core).protCheck w va.toNat m = .ok keep) :
    ∃ t, s.translate w true va m = (.ok t, s) ∧ t.phys = slicePhys w.core va.toNat ∧ t.keep = keep := by
  simp only [State.translate, if_true, h]
  exact ⟨_, rfl, rfl, rfl⟩

/-- A LOCAL read within a line gives the bytes that stand in the slice. -/
theorem homeRead_local {s : State} {w : Who} {va : Dbl} {n : Nat} {m : Mode} {keep : Bool} (h0 : 0 < n)
    (hline : va.toNat % 64 + n ≤ 64) (hprot : (s.core w.core).protCheck w va.toNat m = .ok keep)
    (hpoison : poisoned s.poison (slicePhys w.core va.toNat) n = false) :
    s.homeRead w true va n m = .ok (s.physRead (slicePhys w.core va.toNat) n keep, s) := by
  obtain ⟨t, ht, hphys, hkeep⟩ := translate_local hprot
  simp [State.homeRead, partsOf_within_line h0 hline, State.translateAll, ht, State.readParts, hphys, hkeep, hpoison]

/-- A read that no posted access covers is what memory holds. -/
theorem overlay_nil (loc : Bool) (asid : BitVec 16) (va : Dbl) (bs : List RByte) : overlay [] loc asid va bs = bs := by
  simp [overlay, overlayByte]

/-- Four bytes, lowest first, are a word (00 R10). -/
theorem ofBytes_word (a b c d : Byte) : ofBytes [a, b, c, d] = wordOfBytes a b c d := by
  simp only [ofBytes, wordOfBytes]
  omega

/-- A fetch from a region of the core's own slice. -/
theorem fetch_local {s : State} {c : CoreId} {k : SlotId} {pcc : CVal} {va : Dbl} {keep : Bool} (htag : pcc.tag = true)
    (hexec : pcc.has .exec = true) (hloc : pcc.has .local = true) (hbounds : pcc.inBounds va.toNat 4 = true)
    (halign : va.toNat % 4 = 0) (hinline : s.inlineWords c k pcc = none) (hposts : s.shownPosts c k = [])
    (hprot : (s.core c).protCheck (s.whoOf c k) va.toNat .exec = .ok keep)
    (hpoison : poisoned s.poison (slicePhys c va.toNat) 4 = false) :
    s.fetch c k pcc va = .ok (wordOfBytes (s.byteAt (slicePhys c va.toNat)) (s.byteAt (slicePhys c va.toNat + 1))
      (s.byteAt (slicePhys c va.toNat + 2)) (s.byteAt (slicePhys c va.toNat + 3)), s) := by
  have hread : s.homeRead (s.whoOf c k) true va 4 .exec = .ok (s.physRead (slicePhys c va.toNat) 4 keep, s) :=
    homeRead_local (by decide) (by omega) hprot hpoison
  simp [State.fetch, htag, hexec, hloc, hbounds, hinline, hread, hposts, overlay_nil, State.physRead, List.range_succ,
    ofBytes_word, State.byteAt]

/-! ### The turn of a strand -/

/-- A strand that nothing holds back executes what its word decodes to. -/
theorem strandTurn_of_decode {s s1 s2 s3 : State} {c : CoreId} {k : SlotId} {w lit n : Nat} {i : Instr}
    (hs : s1 = { s.updStrand c k (fun (x : Strand) => { x with readyAt := s.dt, stalled := false }) with cur := (c, k) })
    (hst : s1.me.st = .running ∨ s1.me.st = .waiting) (hsend : s1.me.sendWait = 0) (hstop : s1.stopped c k = false)
    (herr : s1.me.postErr = none)
    (hredo : (s1.core c).wpath.any (fun p => p.slot == k && s1.me.redo.contains p.id) = false)
    (hsettle : s1.settleMe = .go s2) (hfetch : s2.fetchInstr c k = .ok (w, lit, n, s3)) (hdec : decode w lit = .ok i) :
    strandTurn runWord c k s = exec i s3 := by
  have hactive : ¬ (s1.me.st = .dormant ∨ s1.me.st = .halted) := by rcases hst with h | h <;> simp [h]
  unfold strandTurn
  rw [← hs]
  simp only [hactive, hsend, hstop, herr, hredo, hsettle, hfetch, runWord, hdec, ne_eq, not_true_eq_false,
    Bool.false_eq_true, Option.isSome_none, Bool.not_false, and_false, if_false]

/-- Settles O50. -/
theorem stepRunsTheDecodedInstruction : Obligations.StepRunsTheDecodedInstruction := by
  refine ⟨?_, ?_⟩
  · intro s s0 s2 s3 c k w lit n i hturn s1 hst hsend hstop herr hredo hsettle hfetch hdec
    simp only [step, stepBy, hturn]
    exact strandTurn_of_decode rfl hst hsend hstop herr hredo hsettle hfetch hdec
  · intro s c k pcc va keep htag hexec hloc hbounds halign _ hinline hposts hprot hpoison
    exact fetch_local htag hexec hloc hbounds halign hinline hposts hprot hpoison

end Sys2Proof.Machine
end

section
/-! PROOF. Integer lanes of v registers (01 R13; 05 R123, R127). -/

namespace Sys2Proof.Machine

/-! ### Lanes stand side by side -/

theorem packBits_lt (w : Nat) (l : List Nat) : packBits w l < 2 ^ (w * l.length) := by
  induction l with
  | nil => simp [packBits]
  | cons x xs ih =>
    have hx : x % 2 ^ w < 2 ^ w := Nat.mod_lt _ (Nat.two_pow_pos w)
    have hp : 2 ^ (w * (x :: xs).length) = 2 ^ w * 2 ^ (w * xs.length) := by
      rw [List.length_cons, Nat.mul_succ, Nat.add_comm, Nat.pow_add]
    calc packBits w (x :: xs) = x % 2 ^ w + 2 ^ w * packBits w xs := rfl
      _ < 2 ^ w * (packBits w xs + 1) := by rw [Nat.mul_succ]; omega
      _ ≤ 2 ^ w * 2 ^ (w * xs.length) := Nat.mul_le_mul_left _ ih
      _ = 2 ^ (w * (x :: xs).length) := hp.symm

/-- The elements of a packed number are read back from their places. -/
theorem fld_packBits (w : Nat) (l : List Nat) (i : Nat) (hi : i < l.length) : fld (packBits w l) (w * i) w = l[i] % 2 ^ w := by
  induction l generalizing i with
  | nil => simp at hi
  | cons x xs ih =>
    cases i with
    | zero => simp [fld, packBits]
    | succ i =>
      have hx : x % 2 ^ w < 2 ^ w := Nat.mod_lt _ (Nat.two_pow_pos w)
      have hrest : packBits w (x :: xs) / 2 ^ w = packBits w xs := by
        rw [packBits, Nat.add_mul_div_left _ _ (Nat.two_pow_pos w), Nat.div_eq_of_lt hx, Nat.zero_add]
      have hstep : fld (packBits w (x :: xs)) (w * (i + 1)) w = fld (packBits w xs) (w * i) w := by
        unfold fld
        rw [Nat.mul_succ, Nat.add_comm, Nat.pow_add, ← Nat.div_div_eq_div_mul, hrest]
      rw [hstep, ih i (by simpa using hi)]
      rfl

theorem fld_vOfLanes {w : Nat} {l : List Nat} (hw : w * l.length = 1024) (hl : ∀ n ∈ l, n < 2 ^ w) (i : Nat)
    (hi : i < l.length) : fld (vOfLanes w l).toNat (w * i) w = l[i] := by
  have hfit := packBits_lt w l
  rw [hw] at hfit
  rw [vOfLanes, BitVec.toNat_ofNat, Nat.mod_eq_of_lt hfit, fld_packBits w l i hi, Nat.mod_eq_of_lt (hl _ (List.getElem_mem hi))]

/-- The lanes of a register built from lanes. -/
theorem lanesOf_vOfLanes {w : Nat} {l : List Nat} (hw : w * l.length = 1024) (hlen : l.length = 1024 / w)
    (hl : ∀ n ∈ l, n < 2 ^ w) : lanesOf w (vOfLanes w l) = l := by
  apply List.ext_getElem
  · simp [lanesOf, hlen]
  · intro i _ hi
    simpa [lanesOf] using fld_vOfLanes hw hl i hi

/-! ### The eleven operations -/

theorem laneWidth_eq : ∀ k : Fin 4, laneWidth k = if k = 0 then 32 else if k = 1 then 16 else 8 := by decide
theorem laneWidth_pos : ∀ k : Fin 4, 0 < laneWidth k := by decide

/-- A masked lane operation that raises no flag and is `op` on the bits of the lanes. -/
theorem vectorInt_of {w : Nat} {g m : Fin 8} {k : Fin 4} {d a b : Fin 32} {f : Nat → Nat → Nat → Nat} {s : State} {u v : VReg}
    {x y z : Strand} (op : BitVec w → BitVec w → BitVec w) (hw : laneWidth k = w)
    (hf : ∀ p q : BitVec w, f w p.toNat q.toNat % 2 ^ w = (op p q).toNat)
    (hg : s.me.guard g = true) (ha : s.me.sourceV a = some (u, x)) (hb : x.sourceV b = some (v, y))
    (hz : y.resultV d (vOfLanes w ((List.range (1024 / w)).map (fun i =>
      if (y.mask m).getLsbD i then (op (u.extractLsb' (w * i) w) (v.extractLsb' (w * i) w)).toNat
      else ((y.keeps d).extractLsb' (w * i) w).toNat))) = some z) :
    vectorInt g k d a b m f s = .next (s.passed 4 z) := by
  unfold vectorInt
  rw [hw]
  refine vector2_of hg ha hb ?_
  simp only [List.map_map, Function.comp_def, apply_ite Prod.fst, apply_ite Prod.snd, ite_self, flags_zero, flagged_zero, hf]
  exact hz

section
variable {w : Nat} (p q : BitVec w)

theorem sub_lane : (p.toNat + 2 ^ w - q.toNat) % 2 ^ w = (p - q).toNat := by
  have := q.isLt
  rw [BitVec.toNat_sub]
  congr 1
  omega

theorem minS_lane (hw : 0 < w) : minS w p.toNat q.toNat % 2 ^ w = (if p.toInt ≤ q.toInt then p else q).toNat := by
  simp only [minS, sint_toInt hw]
  split <;> exact Nat.mod_eq_of_lt (BitVec.isLt _)

theorem maxS_lane (hw : 0 < w) : maxS w p.toNat q.toNat % 2 ^ w = (if p.toInt ≤ q.toInt then q else p).toNat := by
  simp only [maxS, sint_toInt hw]
  split <;> exact Nat.mod_eq_of_lt (BitVec.isLt _)

theorem and_lane : Nat.land p.toNat q.toNat % 2 ^ w = (p &&& q).toNat := Nat.mod_eq_of_lt (p &&& q).isLt
theorem or_lane : Nat.lor p.toNat q.toNat % 2 ^ w = (p ||| q).toNat := Nat.mod_eq_of_lt (p ||| q).isLt
theorem xor_lane : Nat.xor p.toNat q.toNat % 2 ^ w = (p ^^^ q).toNat := Nat.mod_eq_of_lt (p ^^^ q).isLt

theorem shl_lane (n : Nat) : p.toNat * 2 ^ n % 2 ^ w = (p <<< n).toNat := by
  rw [BitVec.toNat_shiftLeft, Nat.shiftLeft_eq]

theorem shr_lane (n : Nat) : p.toNat / 2 ^ n % 2 ^ w = (p >>> n).toNat := by
  rw [BitVec.toNat_ushiftRight, Nat.shiftRight_eq_div_pow]
  exact Nat.mod_eq_of_lt (Nat.lt_of_le_of_lt (Nat.div_le_self _ _) p.isLt)

theorem sra_lane (hw : 0 < w) (n : Nat) : intCode w (sint w p.toNat / 2 ^ n) % 2 ^ w = (p.sshiftRight n).toNat := by
  rw [sint_toInt hw, intCode, BitVec.sshiftRight_eq, BitVec.toNat_ofInt, Int.shiftRight_eq_div_pow]
  push_cast
  refine Nat.mod_eq_of_lt ((Int.toNat_lt (Int.emod_nonneg _ (by positivity))).mpr ?_)
  exact_mod_cast Int.emod_lt_of_pos _ (by positivity : (0 : Int) < 2 ^ w)

end

/-- Settles O12: reading built lanes back, and each of the eleven operations lane by lane. -/
theorem vectorIntegerResults : Obligations.VectorIntegerResults := by
  refine ⟨?_, ?_⟩
  · intro w l hw hlen hl
    have hfull : w * l.length = 1024 := by
      rw [hlen]
      simp only [List.mem_cons, List.not_mem_nil, or_false] at hw
      rcases hw with rfl | rfl | rfl <;> rfl
    refine ⟨lanesOf_vOfLanes hfull hlen hl, fun i hi => ?_⟩
    rw [← fld_toNat, fld_vOfLanes hfull hl i hi, List.getElem?_eq_getElem hi]
    rfl
  · intro s g m k d a b u v x y hg ha hb w p hp z hz
    have hw : laneWidth k = w := laneWidth_eq k
    have hpos : 0 < w := hw ▸ laneWidth_pos k
    clear_value w
    simp only [List.mem_cons, List.not_mem_nil, or_false] at hp
    rcases hp with rfl | rfl | rfl | rfl | rfl | rfl | rfl | rfl | rfl | rfl | rfl
    · exact exec_vaddInt.trans <| vectorInt_of _ hw (fun p q => (BitVec.toNat_add p q).symm) hg ha hb hz
    · exact exec_vsubInt.trans <| vectorInt_of _ hw sub_lane hg ha hb hz
    · exact exec_vmulInt.trans <| vectorInt_of _ hw (fun p q => (BitVec.toNat_mul p q).symm) hg ha hb hz
    · exact exec_vminInt.trans <| vectorInt_of _ hw (fun p q => minS_lane p q hpos) hg ha hb hz
    · exact exec_vmaxInt.trans <| vectorInt_of _ hw (fun p q => maxS_lane p q hpos) hg ha hb hz
    · exact exec_vand.trans <| vectorInt_of _ hw and_lane hg ha hb hz
    · exact exec_vor.trans <| vectorInt_of _ hw or_lane hg ha hb hz
    · exact exec_vxor.trans <| vectorInt_of _ hw xor_lane hg ha hb hz
    · exact exec_vshl.trans <| vectorInt_of _ hw (fun p q => shl_lane p _) hg ha hb hz
    · exact exec_vshr.trans <| vectorInt_of _ hw (fun p q => shr_lane p _) hg ha hb hz
    · exact exec_vshrA.trans <| vectorInt_of _ hw (fun p q => sra_lane p hpos _) hg ha hb hz

end Sys2Proof.Machine
end

section
/-! PROOF. Tile registers: claims, moves, clearing, transposition (06 R150, R151; 01 R20). -/

namespace Sys2Proof.Machine

/-! ### A tile and the running strand -/

@[simp] theorem tile_setMe (s : State) (x : Strand) (t : Fin 8) : (s.setMe x).tile t = s.tile t := by
  simp [State.tile, State.myCore, State.setMe, State.setStrand]

theorem writesTile_setMe (s : State) (y : Strand) (t : Fin 8) :
    (s.setMe y).writesTile t = s.setMe (y.dropWin (.t t)) := by
  simp [State.writesTile, updMe_eq]

/-- A change to a tile of the running strand's core stores what the tile becomes. -/
theorem updTile_setMe (s : State) (y : Strand) (t : Fin 8) (f : Tile → Tile) :
    (s.setMe y).updTile s.cur.1 t f =
      (s.setMe y).updCore s.cur.1 (fun (c : Core) => { c with t := wr c.t t (f (s.tile t)) }) := by
  have h : rd ((s.setMe y).core s.cur.1).t t = s.tile t := tile_setMe s y t
  rw [← h]
  rfl

theorem updTile_me (s : State) (t : Fin 8) (f : Tile → Tile) :
    s.updTile s.cur.1 t f = (s.setMe s.me).updCore s.cur.1 (fun (c : Core) => { c with t := wr c.t t (f (s.tile t)) }) := by
  rw [← updTile_setMe, setMe_me]

/-! ### Instructions on a tile -/

section
variable {s s1 : State} {g t : Fin 8} {f : State → Except Stop State} (hg : s.me.guard g = true)
include hg

/-- Another strand than the holder traps `tile`. -/
theorem onTile_other (hh : (s.tile t).holder ≠ some s.cur.2) :
    onTile g t s f = .next (s.takeTrap s.cur.1 s.cur.2 .tile none) :=
  issue_trap hg (by simp [need, hh, bind, Except.bind, Stop.t])

variable (hh : (s.tile t).holder = some s.cur.2) (ho : s.owedTile s.cur.1 t = false)
include hh ho

/-- The holder of a tile that no engine owes a write does what the instruction says. -/
theorem onTile_ok (h : f s = .ok s1) : onTile g t s f = .next (s.passedTo 4 s1) :=
  issue_ok hg (by simp [need, hh, ho, bind, Except.bind, h])

theorem onTile_me {x : Strand} (h : f s = .ok (s.setMe x)) : onTile g t s f = .next (s.passed 4 x) :=
  issue_me hg (by simp [need, hh, ho, bind, Except.bind, h])

theorem onTile_trap {p : Trap} {a : Option Dbl} (h : f s = .error (.trap p a)) :
    onTile g t s f = .next (s.takeTrap s.cur.1 s.cur.2 p a) :=
  issue_trap hg (by simp [need, hh, ho, bind, Except.bind, h])

end

/-- An index within the tile. -/
theorem sliceIndex_ok {x : Dbl} {k : Fin 32} (h : x.toNat + k.val < 32) : sliceIndex x k = .ok (x.toNat + k.val) := if_pos h
/-- An index past the tile traps (01 R20). -/
theorem sliceIndex_trap {x : Dbl} {k : Fin 32} (h : 32 ≤ x.toNat + k.val) : sliceIndex x k = .error (.t .ill) :=
  if_neg (Nat.not_lt.mpr h)

/-- Settles O20. -/
theorem tileResults : Obligations.TileResults := by
  intro s g t r i k w c v x y z hg q el puts fresh
  refine ⟨fun hother => ?_, fun (hmine : (s.tile t).holder = some s.cur.2) howed => ⟨?_, ?_, fun hi hn => ?_, fun hi hn hv => ?_,
    ?_, fun hnone => ?_, fun hlanded => ?_⟩, fun (hfree : (s.tile t).holder = none) (hqueue : (s.tile t).queue = []) => ?_,
    fun hother => ?_⟩
  · simp only [List.mem_cons, List.not_mem_nil, or_false]
    rintro p (rfl | rfl | rfl | rfl)
    exacts [exec_trd.trans (onTile_other hg hother), exec_twr.trans (onTile_other hg hother),
      exec_tzero.trans (onTile_other hg hother), exec_ttrans.trans (onTile_other hg hother)]
  · refine exec_tzero.trans (onTile_ok hg hmine howed ?_)
    rw [State.writesTile, updMe_eq, updTile_setMe]
    rfl
  · refine exec_ttrans.trans (onTile_ok hg hmine howed ?_)
    rw [State.writesTile, updMe_eq, updTile_setMe]
    rfl
  · refine ⟨fun hz => ?_, fun hv => ?_⟩
    · refine exec_trd.trans (onTile_me hg hmine howed ?_)
      simp only [useX_of_source hi, sliceIndex_ok hn, tile_setMe, bind, Except.bind]
      exact putV_setMe hz
    · refine exec_twr.trans (onTile_ok hg hmine howed ?_)
      simp only [useX_of_source hi, useV_setMe hv, sliceIndex_ok hn, bind, Except.bind, writesTile_setMe, setMe_cur]
      rw [updTile_setMe]
      have hel : ∀ (a : Fin 32) (j : Nat), el a.val j = lane32 (rd (s.tile t).rows a) j := by
        intro a j
        simp only [el, Fin.ofNat_val_eq_self]
        rfl
      simp only [hel]
      rfl
  · simp only [List.mem_cons, List.not_mem_nil, or_false]
    rintro p (rfl | rfl)
    · refine exec_trd.trans (onTile_trap hg hmine howed ?_)
      simp only [useX_of_source hi, sliceIndex_trap hn, bind, Except.bind, Stop.t]
    · refine exec_twr.trans (onTile_trap hg hmine howed ?_)
      simp only [useX_of_source hi, useV_setMe hv, sliceIndex_trap hn, bind, Except.bind, Stop.t]
  · refine exec_tclaim.trans (issue_me hg ?_)
    rw [setMe_me]
    exact if_pos hmine
  · have hws : s.me.allWins.filter (fun (w : Window) => w.dst == .t t) = [] := by simpa using hnone
    refine exec_tfree.trans (issue_ok hg ?_)
    simp only [hws, hmine, howed, State.landTile, List.any_nil, Bool.false_eq_true, ne_eq, not_true_eq_false, or_self, if_false]
    exact congrArg Except.ok (updTile_me s t _)
  · refine exec_tfree.trans (issue_ok hg ?_)
    have hdone : (s.me.allWins.filter (fun (w : Window) => w.dst == .t t)).any (fun w => w.res == .pending) = false := by
      simpa using hlanded
    simp only [hdone, hmine, howed, Bool.false_eq_true, ne_eq, not_true_eq_false, or_self, if_false]
    rfl
  · refine exec_tclaim.trans (issue_ok hg ?_)
    have h1 : ¬ (s.tile t).holder = some s.cur.2 := by simp [hfree]
    have h2 : (s.tile t).holder = none ∧ ((s.tile t).queue = [] ∨ (s.tile t).queue.head? = some s.cur.2) :=
      ⟨hfree, .inl hqueue⟩
    simp only [if_neg h1, if_pos h2, updTile_me]
    rw [hqueue]
    rfl
  · refine exec_tfree.trans (issue_me hg ?_)
    rw [setMe_me]
    exact if_pos hother

end Sys2Proof.Machine
end

section
/-! PROOF. Synchronous traps are taken and return (01 R24, R29; 03 R94; 07 R204, R205). -/

namespace Sys2Proof.Machine

/-! ### Taking a trap -/

/-- TCAUSE of a break: TACT, the code, and BRKN (07 R204). -/
theorem brk_cause (n : Nat) : (Trap.brk n).cause = BitVec.ofNat 64 (2 ^ 31 + (11 + 2 ^ 8 * n)) :=
  congrArg (BitVec.ofNat 64) (Nat.add_comm _ _)

/-- A trap whose strand has a vector and no handler running goes to it. -/
theorem takeTrap_vector {s : State} {c : CoreId} {k : SlotId} {t : Trap} {va : Option Dbl}
    (htag : (s.strand c k).tvec.tag = true) (hexec : (s.strand c k).tvec.has .exec = true)
    (hact : (s.strand c k).tcause.getLsbD 31 = false) :
    s.takeTrap c k t va = ({ s with freshN := s.freshN + 1 } : State).setStrand c k { s.strand c k with
      st := .running, kept := (s.strand c k).allWins, wins := []
      rep := (s.strand c k).rep.map (fun (r : Rep) => { r with parked := true })
      epc := (s.strand c k).pcc, pcc := (s.strand c k).tvec
      taddr := va.getD ((Config.freeValue s.freshN).setWidth 64), tcause := t.cause } := by
  simp only [State.takeTrap, htag, hexec, hact, Bool.not_true, Bool.false_eq_true, or_self, if_false]
  cases va <;> rfl

/-- Without a vector, or within a handler, a trap ends the work. -/
theorem takeTrap_hwEnd {s : State} {c : CoreId} {k : SlotId} {t : Trap} {va : Option Dbl}
    (h : (s.strand c k).tvec.tag = false ∨ (s.strand c k).tvec.has .exec = false ∨ (s.strand c k).tcause.getLsbD 31 = true) :
    s.takeTrap c k t va = s.hwEnd c k := by
  refine if_pos ?_
  rcases h with h | h | h <;> simp [h]

/-! ### Returning from a trap -/

theorem foldl_unchanged {α β : Type} {f : β → α → β} {l : List α} {b : β} (h : ∀ a ∈ l, f b a = b) : l.foldl f b = b := by
  induction l with
  | nil => rfl
  | cons a l ih =>
    rw [List.foldl_cons, h a (List.mem_cons_self ..)]
    exact ih fun c hc => h c (List.mem_cons_of_mem _ hc)

/-- The strand that `tret` leaves: at EPC, past the word of a break, a repeat whose position EPC names going on, the windows
set aside counting again (01 R28, R29; 03 R94). -/
def Strand.trapReturned (x : Strand) (nextId : Nat) : Strand :=
  let brk := decide (df x.tcause 0 8 = 11)
  let rep := x.rep.map (fun (r : Rep) => if r.next = x.epc.addr then { r with parked := false } else r)
  let y := if brk then { x with rep := rep }.pass x.epc rep 4 0 else { x with pcc := x.epc, rep := rep }
  { y with
    tcause := x.tcause &&& ~~~((1 : Dbl) <<< 31), kept := []
    wins := x.kept.map (fun (w : Window) => { w with left := w.left - (if brk then 1 else 0) }) ++ (x.countDown nextId).wins }

/-- A return from a trap whose windows set aside have not failed. -/
theorem trapReturn_ok {s : State} (hact : s.me.tcause.getLsbD 31 = true) (hkept : ∀ w ∈ s.me.kept, ∀ f, w.res ≠ .failed f) :
    s.trapReturn = .ok (s.setMe (s.me.trapReturned s.nextId)) := by
  simp only [State.trapReturn, hact, Bool.not_true, Bool.false_eq_true, if_false]
  rw [foldl_unchanged]
  · rw [List.map_congr_left (g := fun (w : Window) =>
      { w with left := w.left - (if decide (df s.me.tcause 0 8 = 11) then 1 else 0) })]
    · rfl
    · intro w hw
      have := hkept w hw
      split <;> simp_all
  · intro w hw
    have := hkept w hw
    split <;> simp_all

/-- Outside a handler there is nothing to return from. -/
theorem trapReturn_ill {s : State} (hact : s.me.tcause.getLsbD 31 = false) : s.trapReturn = .error (.t .ill) :=
  if_pos (by rw [hact]; rfl)

/-! ### Returning from an upcall -/

/-- The windows set aside at an upcall as they come back: the failed one again, or without it. -/
def UpRec.back (u : UpRec) (again : Bool) (ws : List Window) : List Window :=
  if again then ws.map (fun (w : Window) => if u.win = some w.id then { w with res := .pending } else w)
  else ws.filter (fun (w : Window) => u.win != some w.id)

/-- The strand that `uret` or `resumef` restores from a record's bytes and what the hardware kept beside it (07 R205). -/
def Strand.upcallReturned (x : Strand) (img : List RByte) (u : UpRec) (again : Bool) : Strand :=
  { x.fromImage img with
    kept := u.back again u.strand.kept, wins := u.back again u.strand.wins, took := u.strand.took
    redo := if again then u.strand.held.map (fun (p : Posted) => p.id) else []
    engq := (x.fromImage img).engq ++ x.engq, st := .running
    ticket := if u.strand.amoErr.isSome then none else u.strand.ticket, answer := u.strand.answer
    barAt := u.strand.barAt, sendWait := u.strand.sendWait }

/-- `t` has the cores and the running slot of `s`. -/
def State.SameCores (s t : State) : Prop := t.cores = s.cores ∧ t.cur = s.cur

theorem State.SameCores.trans {s t u : State} (h : s.SameCores t) (k : t.SameCores u) : s.SameCores u :=
  ⟨k.1.trans h.1, k.2.trans h.2⟩

theorem State.SameCores.me {s t : State} (h : s.SameCores t) : t.me = s.me := by
  simp only [State.me, State.strand, State.core, h.1, h.2]

theorem State.SameCores.myCore {s t : State} (h : s.SameCores t) : t.myCore = s.myCore := by
  simp only [State.myCore, State.core, h.1, h.2]

theorem State.SameCores.updCore {s t : State} (h : s.SameCores t) (c : CoreId) (f : Core → Core) :
    (s.updCore c f).SameCores (t.updCore c f) := by
  simp [State.SameCores, State.updCore, State.setCore, State.core, h.1, h.2]

theorem foldl_sameCores {α : Type} {f : State → α → State} (h : ∀ (s : State) (a : α), s.SameCores (f s a)) (l : List α) (s : State) :
    s.SameCores (l.foldl f s) := by
  induction l generalizing s with
  | nil => exact ⟨rfl, rfl⟩
  | cons a l ih => exact (h s a).trans (ih (f s a))

theorem updCore_updCore (s : State) (c : CoreId) (f h : Core → Core) :
    (s.updCore c f).updCore c h = s.updCore c (fun x => h (f x)) := by
  simp [State.updCore, State.setCore, State.core]

/-- A change to a core that keeps its strands keeps each of them. -/
theorem updCore_strand {s : State} {c : CoreId} {k : SlotId} {f : Core → Core} (h : ∀ x, (f x).strands = x.strands) :
    (s.updCore c f).strand c k = s.strand c k := by
  simp [State.strand, Core.strand, h]

theorem me_updCore {s : State} {c : CoreId} (hc : s.cur.1 = c) {f : Core → Core} (h : ∀ x, (f x).strands = x.strands) :
    (s.updCore c f).me = s.me := by
  subst hc
  exact updCore_strand h

theorem myCore_updCore {s : State} {c : CoreId} (hc : s.cur.1 = c) (f : Core → Core) : (s.updCore c f).myCore = f s.myCore := by
  subst hc
  simp [State.myCore]

theorem myCore_setMe_recs (s : State) (y : Strand) : (s.setMe y).myCore.recs = s.myCore.recs := by
  simp [State.myCore, State.setMe, State.setStrand]
theorem myCore_setMe_wpath (s : State) (y : Strand) : (s.setMe y).myCore.wpath = s.myCore.wpath := by
  simp [State.myCore, State.setMe, State.setStrand]

/-- The core after the return: the record given up, the held accesses on the write path again if they are made again. -/
def Core.upcallReturned (x : Core) (u : UpRec) (again : Bool) : Core :=
  { x with recs := x.recs.erase u, wpath := x.wpath ++ (if again then u.strand.held else []) }

section
variable {s s1 s2 : State} {r : CVal} {again : Bool} {img : List RByte} {u : UpRec}
    (hacc : s.mayAccess r [.ld, .ldcap] r.addr recordSize 64)
    (hposts : (s.core s.cur.1).wpath.any (fun p => p.slot == s.cur.2) = false)
    (hread : s.homeRead (s.whoOf s.cur.1 s.cur.2) (r.has .local) r.addr recordSize = .ok (img, s1))
    (hlive : ofBytes (((img.map (·.1)).drop 3).take 1) = 1)
    (hcore : ofBytes (((img.map (·.1)).drop 0).take 2) = s.cur.1.val)
    (hslot : ofBytes (((img.map (·.1)).drop 2).take 1) = s.cur.2.val)
    (hasid : ofBytes (((img.map (·.1)).drop 4).take 2) = s.me.asid.toNat)
    (hwrite : s1.homeWrite (s.whoOf s.cur.1 s.cur.2) (r.has .local) [(r.addr + 3, [0])] [] = .ok s2)
    (hfind : (s2.core s.cur.1).recs.find? (fun (v : UpRec) =>
      v.wid == s.me.work.wid && v.count.toNat == ofBytes (((img.map (·.1)).drop 8).take 8)) = some u)
include hacc hposts hread hlive hcore hslot hasid hwrite hfind

/-- A return from an upcall whose record can be read, is live, and stands for what the hardware kept: what it leaves but
for the events that make accesses again. -/
theorem upcallReturn_sameCores : ∃ t, s.upcallReturn r again = .ok t ∧
    ((s2.setMe (s.me.upcallReturned img u again)).updCore s.cur.1 (·.upcallReturned u again)).SameCores t := by
  unfold State.upcallReturn
  simp only [checkAccess_ok hacc, hposts, hread, hlive, hcore, hslot, hasid, hwrite, hfind, bind, Except.bind,
    Bool.false_eq_true, if_false, ne_eq, not_true_eq_false, or_self]
  cases again
  · refine ⟨_, rfl, ?_⟩
    have hsame : ∀ x : Core, x.upcallReturned u false = { x with recs := x.recs.erase u } := by
      simp [Core.upcallReturned]
    simp only [hsame]
    exact foldl_sameCores (fun s w => by split <;> exact ⟨rfl, rfl⟩) _ _
  · refine ⟨_, rfl, .trans ?_ (foldl_sameCores (fun s p => by exact ⟨rfl, rfl⟩) _ _)⟩
    refine .trans ?_ (State.SameCores.updCore (foldl_sameCores (fun s w => by split <;> exact ⟨rfl, rfl⟩) _ _) _ _)
    rw [updCore_updCore]
    exact ⟨rfl, rfl⟩

theorem upcallReturn_ok (hcur : s2.cur = s.cur) : ∃ t, s.upcallReturn r again = .ok t ∧
    t.me = s.me.upcallReturned img u again ∧ t.myCore.recs = s2.myCore.recs.erase u ∧
    t.myCore.wpath = s2.myCore.wpath ++ (if again then u.strand.held else []) := by
  obtain ⟨t, ht, hsame⟩ := upcallReturn_sameCores hacc hposts hread hlive hcore hslot hasid hwrite hfind
  have hc : (s2.setMe (s.me.upcallReturned img u again)).cur.1 = s.cur.1 := congrArg Prod.fst hcur
  have hkeep : ∀ x : Core, (x.upcallReturned u again).strands = x.strands := fun _ => rfl
  refine ⟨t, ht, ?_, ?_, ?_⟩
  · exact hsame.me.trans ((me_updCore hc hkeep).trans (me_setMe _ _))
  · rw [hsame.myCore, myCore_updCore hc]
    exact congrArg (List.erase · u) (myCore_setMe_recs _ _)
  · rw [hsame.myCore, myCore_updCore hc]
    exact congrArg (· ++ _) (myCore_setMe_wpath _ _)

end

/-! ### The statement -/

/-- Settles O38. -/
theorem trapsAreTakenAndReturn : Obligations.TrapsAreTakenAndReturn := by
  refine ⟨?_, ?_⟩
  · intro s g i c k t va x next
    refine ⟨fun htag hexec hact => ?_, takeTrap_hwEnd, fun hg => exec_trap.trans (issue_trap hg rfl), fun hactive =>
      ⟨fun w l n s1 hf => ?_, fun hf => ?_, fun f s1 hf => ?_⟩⟩
    · rw [takeTrap_vector htag hexec hact]
      cases t
      case brk n => rw [brk_cause]
      all_goals rfl
    · have hactive : (s.strand c k).active = true := hactive
      simp [execIllegalInstruction, hactive, hf]
    · have hactive : (s.strand c k).active = true := hactive
      simp [execInstructionFetchFailure, hactive, hf]
    · have hactive : (s.strand c k).active = true := hactive
      simp [execInstructionFetchFailure, hactive, hf]
  · intro s g a r x hg
    refine ⟨fun hact hkept => ?_, fun hact => ?_, fun hsrc hacc hposts again img s1 s2 u hread => ?_⟩
    · refine exec_tret.trans (issueN_gone hg ?_)
      simp only [trapReturn_ok hact hkept, bind, Except.bind, pure, Except.pure]
      rfl
    · refine exec_tret.trans (issueN_trap hg ?_)
      rw [trapReturn_ill hact]
      rfl
    · intro num back hlive hcore hslot hasid hwrite hcur hfind
      have hwho : (s.setMe x).whoOf s.cur.1 s.cur.2 = s.whoOf s.cur.1 s.cur.2 := by
        have hx : (s.setMe x).strand s.cur.1 s.cur.2 = x := me_setMe s x
        simp only [State.whoOf, hx, source_asid hsrc]
        rfl
      have hnone : ((s.setMe x).core s.cur.1).wpath.any (fun p => p.slot == s.cur.2) = false := by
        have hw : ((s.setMe x).core s.cur.1).wpath = s.myCore.wpath := myCore_setMe_wpath s x
        simpa [hw] using hposts
      have hc : s2.core (s.setMe x).cur.1 = s2.myCore := congrArg (fun i => s2.core i.1) hcur.symm
      rw [← hwho] at hread hwrite
      obtain ⟨t, ht, hme, hrecs, hwpath⟩ := upcallReturn_ok (s := s.setMe x) (again := again) (mayAccess_setMe.mpr hacc) hnone hread
        hlive hcore hslot (by rw [me_setMe, source_asid hsrc]; exact hasid) hwrite (by rw [me_setMe, hc]; exact hfind) hcur
      refine ⟨t, ?_, by rw [hme, me_setMe]; rfl, hrecs, hwpath⟩
      cases again
      · exact exec_uret.trans (issueN_gone hg (by simp only [useC_of_source hsrc, ht, bind, Except.bind, pure, Except.pure]))
      · exact exec_resumef.trans (issueN_gone hg (by simp only [useC_of_source hsrc, ht, bind, Except.bind, pure, Except.pure]))

end Sys2Proof.Machine
end

section
/-! PROOF. Accesses that end later, and memory upcalls (01 R27, R30; 04 R106; 18 R321; 21 R381). -/

namespace Sys2Proof.Machine

/-! ### A window's access -/

/-- What a window does with the outcome of its access: it keeps the value or the failure, or asks again. -/
def State.windowAnswered (s : State) (c : CoreId) (k : SlotId) (id : Nat) (r : Except Stop (VReg × Bool × Bool × State)) : Out :=
  let put := fun (s : State) (r : WinRes) (sat : Bool) => s.updStrand c k (fun (x : Strand) =>
    x.mapWins (fun (v : Window) => if v.id == id then { v with res := r, plsat := sat } else v))
  match r with
  | .ok (v, tag, sat, s1) => .next (put s1 (.value v tag 0) sat)
  | .error (.upcall f s1) => .next (put s1 (.failed f) false)
  | .error (.wait s1) => .next (s1.post 100 (.loadResponse c k id))
  | .error _ => .next s

/-- The access of a pending window is performed, where no earlier load of the same bytes is pending. -/
theorem loadResponse_due {s : State} {c : CoreId} {k : SlotId} {id : Nat} {w : Window}
    (hfind : (s.strand c k).allWins.find? (fun v => v.id == id && v.res == .pending) = some w)
    (hfirst : (s.strand c k).allWins.any (fun v => v.res == .pending && decide (v.id < id) && v.acc.meets w.acc) = false) :
    execLoadResponse c k id s = s.windowAnswered c k id (s.perform c k id w.acc) := by
  simp only [execLoadResponse, hfind, hfirst, Bool.false_eq_true, if_false]
  rfl

/-- An earlier load of the same bytes is waited for (18 R321). -/
theorem loadResponse_behind {s : State} {c : CoreId} {k : SlotId} {id : Nat} {w : Window}
    (hfind : (s.strand c k).allWins.find? (fun v => v.id == id && v.res == .pending) = some w)
    (hlater : (s.strand c k).allWins.any (fun v => v.res == .pending && decide (v.id < id) && v.acc.meets w.acc) = true) :
    execLoadResponse c k id s = .next (s.post 20 (.loadResponse c k id)) := by
  simp only [execLoadResponse, hfind, hlater, if_true]

/-- No window waits for the response. -/
theorem loadResponse_stale {s : State} {c : CoreId} {k : SlotId} {id : Nat}
    (h : ∀ w ∈ (s.strand c k).allWins, w.id = id → w.res ≠ .pending) : execLoadResponse c k id s = .next (s.leaveLine c k) := by
  have hnone : (s.strand c k).allWins.find? (fun w => w.id == id && w.res == .pending) = none := by
    simpa [List.find?_eq_none] using h
  simp only [execLoadResponse, hnone]

/-! ### Memory upcalls -/

/-- Without a vector and an area that serve, an upcall ends the work. -/
theorem takeUpcall_hwEnd {s : State} {c : CoreId} {k : SlotId} {f : FaultInfo} {posted atEnd : Bool} {pc : Dbl}
    (h : (s.strand c k).uvec.tag = false ∨ (s.strand c k).uvec.has .exec = false ∨ (s.strand c k).uarea.tag = false) :
    s.takeUpcall c k f posted atEnd pc = s.hwEnd c k := by
  refine if_pos ?_
  rcases h with h | h | h <;> simp [h]

/-- The capability for the record, as c56 holds it. -/
def Strand.recordCap (x : Strand) : CVal :=
  ((x.uarea.narrow recordSize).toOption.getD .null).withPerms
    ([.ld, .ldcap, .st, .stcap] ++ (if x.uarea.has .local then [.local] else []))

/-- The strand that an upcall starts at its vector (21 R381). -/
def Strand.upcallTaken (x : Strand) (cause : Nat) (va : Dbl) : Strand :=
  ((((({ x with
    st := .running, upcalls := x.upcalls + 1
    wins := [], kept := [], rep := none, engq := [], held := [], redo := [], postErr := none
    ticket := none, answer := none, amoErr := none, ending := none, chwait := none, barAt := none, sendWait := 0
    uarea := x.uarea.setAddr (x.uarea.addr + BitVec.ofNat 64 recordSize), pcc := x.uvec } : Strand).setC 56 x.recordCap).setC 57
    (.plain (BitVec.ofNat 128 cause))).setC 58 (.plain (va.setWidth 128))).setC 59 .null)

/-- The record of an upcall, written at the area. -/
def State.writeUpcall (s : State) (c : CoreId) (k : SlotId) (f : FaultInfo) (posted atEnd : Bool) (pc : Dbl) :
    Except (FaultInfo × State) State :=
  let x := s.strand c k
  let seen := s.liveAt (s.whoOf c k) x.lvt x.pcc.addr
  let live := seen.1.withWins x.allWins
  let parts : List (Nat × List Byte) := (0, imageHead c k x.asid (x.upcalls + 1).toNat (f.word posted atEnd) f.va x.pcc pc) ::
    x.imageParts { live with t := 0 } (seen.2.oldGuards (s.whoOf c k) x.uarea) ++ [(10592, List.replicate 5792 0)]
  seen.2.homeWrite (s.whoOf c k) (x.uarea.has .local) (parts.map (fun p => (x.uarea.addr + BitVec.ofNat 64 p.1, p.2)))
    (x.imageTags live x.pcc x.uarea.addr)

/-- An upcall whose record is written starts the handler. -/
theorem takeUpcall_strand {s s2 : State} {c : CoreId} {k : SlotId} {f : FaultInfo} {posted atEnd : Bool} {pc : Dbl}
    (hvec : (s.strand c k).uvec.tag = true) (hexec : (s.strand c k).uvec.has .exec = true)
    (htag : (s.strand c k).uarea.tag = true) (hline : (s.strand c k).uarea.addr.toNat % 64 = 0)
    (hperm : (s.strand c k).uarea.hasAll [.st, .stcap] = true)
    (hroom : (s.strand c k).uarea.inBounds (s.strand c k).uarea.addr.toNat recordSize = true)
    (hwrite : s.writeUpcall c k f posted atEnd pc = .ok s2) :
    (s.takeUpcall c k f posted atEnd pc).strand c k = (s.strand c k).upcallTaken (f.word posted atEnd) f.va := by
  have hserves : ¬ ((!(s.strand c k).uvec.tag) = true ∨ (!(s.strand c k).uvec.has .exec) = true ∨
      (!(s.strand c k).uarea.tag) = true ∨ (s.strand c k).uarea.addr.toNat % 64 ≠ 0 ∨
      (!(s.strand c k).uarea.hasAll [.st, .stcap]) = true ∨
      (!(s.strand c k).uarea.inBounds (s.strand c k).uarea.addr.toNat recordSize) = true) := by
    simp [hvec, hexec, htag, hline, hperm, hroom]
  unfold State.writeUpcall at hwrite
  unfold State.takeUpcall
  rw [if_neg hserves]
  simp only [hwrite]
  refine (updCore_strand ?_).trans (setStrand_strand_same _ _ _ _)
  exact fun _ => rfl

theorem setC_creg_same (x : Strand) {i : Fin 64} (v : CVal) (h : i ≠ 0) : (x.setC i v).creg i = v := by
  simp [Strand.creg, Strand.setC, h]

theorem setC_creg_ne (x : Strand) {i j : Fin 64} (v : CVal) (h : j ≠ i) : (x.setC i v).creg j = x.creg j := by
  simp [Strand.creg, Strand.setC, h]

/-- The registers that a handler finds: c56 to c59 set, the ones below as they were. -/
theorem upcallTaken_creg (x : Strand) (cause : Nat) (va : Dbl) :
    (x.upcallTaken cause va).creg 56 = x.recordCap ∧ (x.upcallTaken cause va).creg 57 = .plain (BitVec.ofNat 128 cause) ∧
    (x.upcallTaken cause va).creg 58 = .plain (va.setWidth 128) ∧ (x.upcallTaken cause va).creg 59 = .null ∧
    ∀ i : Fin 64, i.val < 56 → (x.upcallTaken cause va).creg i = x.creg i := by
  unfold Strand.upcallTaken
  refine ⟨?_, ?_, ?_, setC_creg_same _ _ (by decide), fun i hi => ?_⟩
  · rw [setC_creg_ne _ _ (by decide), setC_creg_ne _ _ (by decide), setC_creg_ne _ _ (by decide), setC_creg_same _ _ (by decide)]
  · rw [setC_creg_ne _ _ (by decide), setC_creg_ne _ _ (by decide), setC_creg_same _ _ (by decide)]
  · rw [setC_creg_ne _ _ (by decide), setC_creg_same _ _ (by decide)]
  · have hne : ∀ j : Fin 64, 56 ≤ j.val → i ≠ j := fun j hj h => by subst h; omega
    rw [setC_creg_ne _ _ (hne 59 (by decide)), setC_creg_ne _ _ (hne 58 (by decide)), setC_creg_ne _ _ (hne 57 (by decide)),
      setC_creg_ne _ _ (hne 56 (by decide))]
    rfl

/-! ### The statement -/

/-- Settles O39. -/
theorem failedAccessesUpcall : Obligations.FailedAccessesUpcall := by
  intro s c k id w f pc
  refine ⟨loadResponse_stale, loadResponse_behind, fun hfind hfirst => ⟨fun v tag sat s1 h => ?_, fun s1 h => ?_, fun s1 h => ?_⟩,
    fun h => ?_, fun hactive => ⟨fun h => ?_, fun hnone h => ?_⟩, fun posted atEnd => takeUpcall_hwEnd, ?_⟩
  · exact (loadResponse_due hfind hfirst).trans (congrArg (s.windowAnswered c k id) h)
  · exact (loadResponse_due hfind hfirst).trans (congrArg (s.windowAnswered c k id) h)
  · exact (loadResponse_due hfind hfirst).trans (congrArg (s.windowAnswered c k id) h)
  · simp only [exec_postedErrorResponse, execPostedErrorResponse, h]
  · have hactive : (s.strand c k).active = true := hactive
    simp [execMemoryUpcall, hactive, show (s.strand c k).postErr = some f from h]
  · have hactive : (s.strand c k).active = true := hactive
    have hnone : (s.strand c k).postErr = none := hnone
    have h : firstFailed ((s.strand c k).wins.filter (fun v => v.left == 0)) = some (f, pc) := h
    simp [execMemoryUpcall, hactive, hnone, h]
  · intro posted atEnd hvec hexec htag hline hperm hroom base seen live parts s2 hwrite y
    have hy : y = (s.strand c k).upcallTaken (f.word posted atEnd) f.va :=
      takeUpcall_strand hvec hexec htag hline hperm hroom hwrite
    obtain ⟨h56, h57, h58, h59, hlow⟩ := upcallTaken_creg (s.strand c k) (f.word posted atEnd) f.va
    rw [hy]
    exact ⟨rfl, rfl, rfl, rfl, rfl, h56, h57, h58, h59, rfl, hlow⟩

end Sys2Proof.Machine
end

section
/-! PROOF. Long vector operations: reductions, scans, unary functions, divisions and conversions (05 R125-R130, R135-R140; 01
R27; 02 R61). -/

namespace Sys2Proof.Machine

/-! ### A result visible at once or in a window -/

/-- How a VL instruction gives its result with its flags: at once with LA = 0, else in a window, which v30 and v31 cannot
have (05 R125, R126; 01 R27). -/
def State.GivesLong (s : State) (d : Fin 32) (l : Fin 16) (i : Instr) (y : Strand) (r : VReg × Nat) : Prop :=
  (l = 0 → ∀ z, (y.flagged r.2).resultV d r.1 = some z → exec i s = .next (s.passed 4 z)) ∧
  (l ≠ 0 → d.val < 30 → exec i s = .next (s.passedTo 4 (s.owing y (.v d) l.val r.1 r.2))) ∧
  (l ≠ 0 → 30 ≤ d.val → exec i s = .next (s.takeTrap s.cur.1 s.cur.2 .ill none))

theorem putLong_now {s : State} {d : Fin 32} {v : VReg} {fl : Nat} {y z : Strand} (h : (y.flagged fl).resultV d v = some z) :
    (s.setMe y).putLong d 0 v fl = .ok (s.setMe z) := by
  simpa [State.putLong] using putV_setMe h

theorem putLong_window {s : State} {d : Fin 32} {l : Nat} {v : VReg} {fl : Nat} {y : Strand} (hl : l ≠ 0) (hd : d.val < 30) :
    (s.setMe y).putLong d l v fl = .ok (s.owing y (.v d) l v fl) := by
  rw [State.putLong, if_neg hl, if_neg (by omega)]
  simp [State.openWin, State.newId, State.owing, Strand.dropWin, State.me, State.setMe, State.setStrand, State.updCore,
    State.setCore, State.core, State.strand, Core.strand]

theorem putLong_fixed {s : State} {d : Fin 32} {l : Nat} {v : VReg} {fl : Nat} (hl : l ≠ 0) (hd : 30 ≤ d.val) :
    s.putLong d l v fl = .error (.trap .ill none) := by
  rw [State.putLong, if_neg hl, if_pos hd]
  rfl

/-- An instruction that reads its operands and then puts a long result gives it. -/
theorem givesLong_of {s : State} {g : Fin 8} {d : Fin 32} {l : Fin 16} {i : Instr} {y : Strand} {r : VReg × Nat}
    {f : State → Except Stop State} (hg : s.me.guard g = true) (hi : exec i s = issue g 4 s f)
    (hf : f s = (s.setMe y).putLong d l.val r.1 r.2) : s.GivesLong d l i y r := by
  have hval : l ≠ 0 → l.val ≠ 0 := fun h e => h (Fin.ext e)
  refine ⟨fun hl z hz => ?_, fun hl hd => ?_, fun hl hd => ?_⟩
  · subst hl
    exact hi.trans (issue_me hg (hf.trans (putLong_now hz)))
  · exact hi.trans (issue_ok hg (hf.trans (putLong_window (hval hl) hd)))
  · exact hi.trans (issue_trap hg (hf.trans (putLong_fixed (hval hl) hd)))

/-! ### Unary functions, division, reduction, scan, conversion -/

/-- Lanes of a format laid under a mask over what the destination keeps, and their flags (05 R123). -/
def Strand.laid (y : Strand) (d : Fin 32) (m : Fin 8) (f : Fmt) (new : List (Nat × Nat)) : VReg × Nat :=
  let r := masked (y.mask m) (lanesOf f.bits (y.keeps d)) new
  (vOfLanes f.bits r.1, r.2)

section
variable {s : State} {g m : Fin 8} {l : Fin 16} {d a b : Fin 32} {u v : VReg} {x y : Strand} {i : Instr}
  (hg : s.me.guard g = true) (ha : s.me.sourceV a = some (u, x))
include hg ha

theorem longUnary_gives {f : Fmt} {op : FVal → FVal × Nat} (hi : exec i s = longUnary f g d a m l op s) :
    s.GivesLong d l i x (x.laid d m f ((lanesOf f.bits u).map (fun c => finish f (op (f.decode c).1)))) := by
  refine givesLong_of hg hi ?_
  simp only [useV_of_sourceV ha, bind, Except.bind, me_setMe, keepLanes_eq]
  rfl

theorem longDiv_gives {f : Fmt} (hb : x.sourceV b = some (v, y)) (hi : exec i s = longDiv f g d a m l b s) :
    s.GivesLong d l i y (y.laid d m f (((lanesOf f.bits u).zip (lanesOf f.bits v)).map
      (fun q => finish f (fDiv (f.decode q.1).1 (f.decode q.2).1)))) := by
  refine givesLong_of hg hi ?_
  simp only [useV_of_sourceV ha, useV_setMe hb, bind, Except.bind, me_setMe, keepLanes_eq]
  rfl

end

/-- The levels of the tree of a reduction of register `u` under mask `m` (02 R61). -/
def redTree (k : Nat) (m : Quad) (u : VReg) : List (List (Nat × Nat)) :=
  redLevels (redNode (redCode k).1 (redCode k).2) (redDepth (redCode k).2) (redLanes (redCode k).1 (redCode k).2 m u)

/-- What `vred` leaves: the top of the tree in lane 0 and zeros above (05 R135). -/
def redResult (k : Nat) (m : Quad) (u : VReg) : VReg × Nat :=
  let top := (((redTree k m u).getLast?.bind List.head?).getD (0, 0))
  (BitVec.ofNat 1024 top.1, top.2)

/-- What `vscan` leaves: the running result of each lane, a NaN canonical (05 R125, R136). -/
def scanResult (k : Nat) (m : Quad) (u : VReg) : VReg × Nat :=
  let sums := (List.range (1024 / (redCode k).2.bits)).map (fun i =>
    scanLane (redNode (redCode k).1 (redCode k).2) (redTree k m u) i (redDepth (redCode k).2 + 1) 0 none)
  (vOfLanes (redCode k).2.bits (sums.map (fun p => canonLane (redCode k).2 p.1)), flags (sums.map (·.2)))

section
variable {s : State} {g m : Fin 8} {l : Fin 16} {d a k : Fin 32} {u : VReg} {x : Strand}
  (hg : s.me.guard g = true) (ha : s.me.sourceV a = some (u, x))
include hg ha

theorem vred_gives : s.GivesLong d l (.vred g d a m l k) x (redResult k.val (x.mask m) u) := by
  refine givesLong_of hg exec_vred ?_
  simp only [useV_of_sourceV ha, bind, Except.bind, me_setMe]
  rfl

theorem vscan_gives : s.GivesLong d l (.vscan g d a m l k) x (scanResult k.val (x.mask m) u) := by
  refine givesLong_of hg exec_vscan ?_
  simp only [useV_of_sourceV ha, bind, Except.bind, me_setMe]
  rfl

theorem vcvt_gives {mode : RMode} (hm : RMode.ofCode (x.cvrm.toNat % 8) = some mode) :
    s.GivesLong d l (.vcvt g d a m l k) (if mode = .sr then { x with srgen := genAdvance x.srgen 32 } else x)
      (cvtResult k.val mode (x.cvrm.toNat / 2 ^ 8 % 2 ^ 8) x.srgen (x.mask m) u (x.keeps d)) := by
  have hmode : RMode.ofCode (df x.cvrm 0 3) = some mode := by simpa [df, fld] using hm
  refine givesLong_of hg exec_vcvt ?_
  simp only [useV_of_sourceV ha, bind, Except.bind, me_setMe, keepLanes_eq, hmode]
  have hdraw : (if mode = .sr then (s.setMe x).updMe (fun y => { y with srgen := genAdvance x.srgen 32 }) else s.setMe x) =
      s.setMe (if mode = .sr then { x with srgen := genAdvance x.srgen 32 } else x) := by
    split <;> simp only [updMe_eq, me_setMe, setMe_setMe]
  exact congrArg (fun t => State.putLong t d l.val _ _) hdraw

/-- A reserved rounding mode traps (05 R137). -/
theorem vcvt_ill (hm : RMode.ofCode (x.cvrm.toNat % 8) = none) :
    exec (.vcvt g d a m l k) s = .next (s.takeTrap s.cur.1 s.cur.2 .ill none) := by
  have hmode : RMode.ofCode (df x.cvrm 0 3) = none := by simpa [df, fld] using hm
  refine exec_vcvt.trans (issue_trap hg ?_)
  simp only [useV_of_sourceV ha, bind, Except.bind, me_setMe, hmode]
  rfl

end

/-! ### Sums of 32-bit integers (02 R61; 05 R135, R136) -/

theorem redNode_addInt (p q : Nat × Nat) : redNode .add .i32 p q = ((p.1 + q.1) % 2 ^ 32, Nat.lor (Nat.lor p.2 q.2) 0) := rfl

/-- The sum modulo 2^32 of entries `lo` to `hi - 1`, with no flag. -/
def sumSeg (f : Nat → Nat) (lo hi : Nat) : Nat × Nat := ((∑ i ∈ Finset.Ico lo hi, f i) % 2 ^ 32, 0)

/-- A node over two neighbouring segments is the segment of both. -/
theorem redNode_sumSeg (f : Nat → Nat) {lo mid hi : Nat} (h1 : lo ≤ mid) (h2 : mid ≤ hi) :
    redNode .add .i32 (sumSeg f lo mid) (sumSeg f mid hi) = sumSeg f lo hi := by
  simp only [redNode_addInt, sumSeg, ← Finset.sum_Ico_consecutive f h1 h2, ← Nat.add_mod]
  rfl

theorem pairUp_range_map (n : Nat × Nat → Nat × Nat → Nat × Nat) (h : Nat → Nat × Nat) (k : Nat) :
    pairUp n ((List.range (2 * k)).map h) = (List.range k).map (fun j => n (h (2 * j)) (h (2 * j + 1))) := by
  induction k generalizing h with
  | zero => rfl
  | succ k ih =>
    have hl : (List.range (2 * (k + 1))).map h = h 0 :: h 1 :: (List.range (2 * k)).map (fun i => h (i + 2)) := by
      rw [Nat.mul_succ, List.range_succ_eq_map, List.range_succ_eq_map]
      simp [Function.comp_def]
    rw [hl, pairUp, ih, List.range_succ_eq_map]
    simp [Function.comp_def, Nat.mul_succ]

/-- The level of the tree of a sum whose nodes cover `w` lanes each, `k` nodes wide. -/
def sumLevel (f : Nat → Nat) (w k : Nat) : List (Nat × Nat) := (List.range k).map (fun j => sumSeg f (w * j) (w * (j + 1)))

theorem pairUp_sumLevel (f : Nat → Nat) (w k : Nat) : pairUp (redNode .add .i32) (sumLevel f w (2 * k)) = sumLevel f (w * 2) k := by
  rw [sumLevel, pairUp_range_map, sumLevel]
  refine List.map_congr_left fun j _ => ?_
  rw [redNode_sumSeg f (Nat.mul_le_mul_left _ (by omega)) (Nat.mul_le_mul_left _ (by omega))]
  congr 1 <;> ring

/-- The levels of the tree of a sum. -/
theorem redLevels_sumLevel (f : Nat → Nat) (n w : Nat) :
    redLevels (redNode .add .i32) n (sumLevel f w (2 ^ n)) =
      (List.range (n + 1)).map (fun b => sumLevel f (w * 2 ^ b) (2 ^ (n - b))) := by
  induction n generalizing w with
  | zero => simp [redLevels]
  | succ n ih =>
    rw [redLevels, Nat.pow_succ, Nat.mul_comm (2 ^ n) 2, pairUp_sumLevel, ih, List.range_succ_eq_map (n := n + 1)]
    simp [Nat.pow_succ, Nat.mul_comm, Nat.mul_assoc, Function.comp_def]

theorem lanesOf_32 (u : VReg) : lanesOf 32 u = (List.range 32).map (fun i => (lane32 u i).toNat) := by
  refine List.map_congr_left fun i _ => ?_
  simp [fld, lane32, Nat.shiftRight_eq_div_pow]

theorem getLsbD_mask_zero (x : Strand) {i : Nat} (h : i < 128) : (x.mask 0).getLsbD i = true := by
  rw [Strand.mask, if_pos rfl, BitVec.getLsbD_allOnes, decide_eq_true h]

/-- With no lane masked off, the lanes enter a sum as they are. -/
theorem redLanes_sum (x : Strand) (u : VReg) :
    redLanes .add .i32 (x.mask 0) u = sumLevel (fun i => (lane32 u i).toNat) 1 (2 ^ 5) := by
  rw [redLanes, show Fmt.i32.bits = 32 from rfl, lanesOf_32, zipIdx_range_map, List.map_map, sumLevel]
  refine List.map_congr_left fun i hi => ?_
  have hlt : i < 128 := by
    have := List.mem_range.mp hi
    omega
  have hlane : (lane32 u i).toNat % 2 ^ 32 = (lane32 u i).toNat := Nat.mod_eq_of_lt (lane32 u i).isLt
  simpa [getLsbD_mask_zero x hlt, sumSeg] using hlane.symm

theorem redTree_addInt (m : Quad) (u : VReg) :
    redTree 9 m u = redLevels (redNode .add .i32) 5 (redLanes .add .i32 m u) := rfl

/-- The tree of a sum of a register's 32-bit lanes. -/
theorem redTree_sum (x : Strand) (u : VReg) :
    redTree 9 (x.mask 0) u = (List.range 6).map (fun b => sumLevel (fun i => (lane32 u i).toNat) (2 ^ b) (2 ^ (5 - b))) := by
  rw [redTree_addInt, redLanes_sum, redLevels_sumLevel]
  simp only [Nat.one_mul]

theorem redResult_sum (x : Strand) (u : VReg) :
    redResult 9 (x.mask 0) u = (BitVec.ofNat 1024 (sumSeg (fun i => (lane32 u i).toNat) 0 32).1, 0) := by
  rw [redResult, redTree_sum]
  rfl

/-! The sum of lanes 0 to `i`: the bits of `i + 1`, highest first, name the nodes that make it up. -/

/-- What has been gathered of the lanes below `lo`: nothing of none, else their sum. -/
def Gathered (f : Nat → Nat) (lo : Nat) (acc : Option (Nat × Nat)) : Prop :=
  (lo = 0 ∧ acc = none) ∨ acc = some (sumSeg f 0 lo)

theorem Gathered.getD {f : Nat → Nat} {lo : Nat} {acc : Option (Nat × Nat)} (h : Gathered f lo acc) :
    acc.getD (0, 0) = sumSeg f 0 lo := by
  rcases h with ⟨rfl, rfl⟩ | rfl <;> simp [sumSeg]

/-- What has been gathered, with the node that comes next. -/
def withNode (acc : Option (Nat × Nat)) (node : Nat × Nat) : Nat × Nat :=
  match acc with
  | none => node
  | some x => redNode .add .i32 x node

/-- The node that begins at `lo` takes the sum on. -/
theorem Gathered.withNode {f : Nat → Nat} {lo hi : Nat} {acc : Option (Nat × Nat)} (h : Gathered f lo acc) (hle : lo ≤ hi) :
    Gathered f hi (some (withNode acc (sumSeg f lo hi))) := by
  refine .inr ?_
  rcases h with ⟨rfl, rfl⟩ | rfl
  · rfl
  · exact congrArg some (redNode_sumSeg f (Nat.zero_le _) hle)

/-- The node of the tree that stands over the `2 ^ b` lanes from `lo` on. -/
theorem sumTree_node (f : Nat → Nat) {b j : Nat} (hb : b < 6) (hj : j < 2 ^ (5 - b)) :
    ((((List.range 6).map (fun b => sumLevel f (2 ^ b) (2 ^ (5 - b))))[b]?).bind (fun l => l[j]?)).getD (0, 0) =
      sumSeg f (2 ^ b * j) (2 ^ b * j + 2 ^ b) := by
  simp [hb, sumLevel, hj, Nat.mul_succ]

theorem scanLane_sum (f : Nat → Nat) {i : Nat} (hi : i < 32) (b : Nat) (hb : b ≤ 6) (acc : Option (Nat × Nat))
    (h : Gathered f (2 ^ b * ((i + 1) / 2 ^ b)) acc) :
    scanLane (redNode .add .i32) ((List.range 6).map (fun b => sumLevel f (2 ^ b) (2 ^ (5 - b)))) i b
      (2 ^ b * ((i + 1) / 2 ^ b)) acc = sumSeg f 0 (i + 1) := by
  induction b generalizing acc with
  | zero => simpa [scanLane] using h.getD
  | succ b ih =>
    have hhalf : (i + 1) / 2 ^ (b + 1) = (i + 1) / 2 ^ b / 2 := by rw [Nat.pow_succ, Nat.div_div_eq_div_mul]
    have hbase : 2 ^ (b + 1) * ((i + 1) / 2 ^ (b + 1)) = 2 ^ b * (2 * ((i + 1) / 2 ^ b / 2)) := by
      rw [hhalf, Nat.pow_succ, Nat.mul_assoc]
    rw [hbase] at h ⊢
    unfold scanLane
    split
    · next hbit =>
      have hodd : (i + 1) / 2 ^ b = 2 * ((i + 1) / 2 ^ b / 2) + 1 := by
        simp only [fld, Nat.pow_one] at hbit
        omega
      have hnext : 2 ^ b * (2 * ((i + 1) / 2 ^ b / 2)) + 2 ^ b = 2 ^ b * ((i + 1) / 2 ^ b) := by
        conv_rhs => rw [hodd]
        ring
      have hroom : 2 * ((i + 1) / 2 ^ b / 2) < 2 ^ (5 - b) := by
        have hle : (i + 1) / 2 ^ b ≤ 2 ^ (5 - b) := by
          calc (i + 1) / 2 ^ b ≤ 2 ^ 5 / 2 ^ b := Nat.div_le_div_right (by omega)
            _ = 2 ^ (5 - b) := Nat.pow_div (by omega) (by decide)
        omega
      rw [Nat.mul_div_cancel_left _ (Nat.two_pow_pos b), sumTree_node f (by omega) hroom, hnext]
      exact ih (by omega) _ (h.withNode (hnext ▸ Nat.le_add_right _ _))
    · next hbit =>
      have heven : 2 * ((i + 1) / 2 ^ b / 2) = (i + 1) / 2 ^ b := by
        simp only [fld, Nat.pow_one] at hbit
        omega
      rw [heven] at h ⊢
      exact ih (by omega) _ h

/-- An integer lane is never a NaN. -/
theorem canonLane_i32 (c : Nat) : canonLane .i32 c = c := by
  have h : (Fmt.i32.decode c).1 = ofInt (sint 32 c) 0 false := rfl
  unfold canonLane
  rw [h]
  by_cases h0 : sint 32 c = 0
  · rw [ofInt, if_pos h0]
  · rw [ofInt, if_neg h0]

theorem scanResult_sum (x : Strand) (u : VReg) :
    scanResult 9 (x.mask 0) u =
      (vOfLanes 32 ((List.range 32).map (fun i => (sumSeg (fun i => (lane32 u i).toNat) 0 (i + 1)).1)), 0) := by
  have hlane : ∀ i ∈ List.range 32, scanLane (redNode .add .i32) (redTree 9 (x.mask 0) u) i 6 0 none =
      sumSeg (fun i => (lane32 u i).toNat) 0 (i + 1) := by
    intro i hi
    have hi : i < 32 := List.mem_range.mp hi
    have h0 : 2 ^ 6 * ((i + 1) / 2 ^ 6) = 0 := by rw [Nat.div_eq_of_lt (by omega), Nat.mul_zero]
    have hscan := scanLane_sum (fun i => (lane32 u i).toNat) hi 6 (Nat.le_refl 6) none (.inl ⟨h0, rfl⟩)
    rw [h0] at hscan
    rw [redTree_sum, hscan]
  have hsums : (List.range 32).map (fun i => scanLane (redNode .add .i32) (redTree 9 (x.mask 0) u) i 6 0 none) =
      (List.range 32).map (fun i => sumSeg (fun i => (lane32 u i).toNat) 0 (i + 1)) := List.map_congr_left hlane
  have hres : scanResult 9 (x.mask 0) u =
      (let sums := (List.range 32).map (fun i => scanLane (redNode .add .i32) (redTree 9 (x.mask 0) u) i 6 0 none)
       (vOfLanes 32 (sums.map (fun p => canonLane .i32 p.1)), flags (sums.map (·.2)))) := rfl
  rw [hres, hsums]
  simp only [List.map_map, Function.comp_def, canonLane_i32]
  exact congrArg _ (flags_zero 32)

theorem sumSeg_zero (f : Nat → Nat) (n : Nat) : (sumSeg f 0 n).1 = ((List.range n).map f).sum % 2 ^ 32 := by
  rw [sumSeg, ← Finset.range_eq_Ico]
  rfl

/-! ### The statement -/

/-- Settles O15. -/
theorem longVectorResults : Obligations.LongVectorResults := by
  refine ⟨?_, ?_⟩
  · intro s g m l t d a b k u v x y hg ha gives laid
    refine ⟨?_, fun hb => ?_, ⟨vred_gives hg ha, vscan_gives hg ha⟩, fun mode hm => vcvt_gives hg ha hm, vcvt_ill hg ha⟩
    · intro f
      simp only [List.mem_cons, List.not_mem_nil, or_false]
      rintro p (rfl | rfl | rfl | rfl)
      exacts [longUnary_gives hg ha exec_vsqrt, longUnary_gives hg ha exec_vexp2, longUnary_gives hg ha exec_vlog2,
        longUnary_gives hg ha exec_vrcp]
    · simp only [List.mem_cons, List.not_mem_nil, or_false]
      rintro p (rfl | rfl)
      exacts [longDiv_gives hg ha hb exec_vdivF32, longDiv_gives hg ha hb exec_vdivF16]
  · intro s g d a u x z1 z2 hg ha sum
    refine ⟨fun h => ?_, fun h => ?_⟩
    · refine (vred_gives hg ha).1 rfl z1 ?_
      rw [show (9 : Fin 32).val = 9 from rfl, redResult_sum, flagged_zero, sumSeg_zero]
      exact h
    · refine (vscan_gives hg ha).1 rfl z2 ?_
      rw [show (9 : Fin 32).val = 9 from rfl, scanResult_sum, flagged_zero]
      simp only [sumSeg_zero]
      exact h

end Sys2Proof.Machine
end

section
/-! PROOF. The generator and the neuron step (02 R62, R63; 05 R143, R145, R146). -/

namespace Sys2Proof.Machine

/-- Lanes drawn from the generator whose state stands in `c[e]`, which is written back advanced (05 R143). -/
theorem draw_of {s : State} {g m : Fin 8} {d : Fin 32} {e : Fin 64} {f : Word → Word} {z1 z2 : Strand}
    (hg : s.me.guard g = true) (he : e.val < 60)
    (h1 : s.me.resultV d (ofLanes32 (fun i => if (s.me.mask m).getLsbD i then f (genLane (s.me.creg e).val i)
      else lane32 (s.me.keeps d) i)) = some z1)
    (h2 : z1.result e (.plain (genAdvance (s.me.creg e).val 32)) = some z2) :
    draw g d e m f s = .next (s.passed 4 z2) := by
  refine issue_me hg ?_
  rw [← keepLanes_eq] at h1
  simp only [need, he, decide_true, if_true, putV_of_resultV h1, bind, Except.bind]
  exact putC_setMe h2

/-- A port holds no generator (05 R143). -/
theorem draw_ill {s : State} {g m : Fin 8} {d : Fin 32} {e : Fin 64} {f : Word → Word} (hg : s.me.guard g = true)
    (he : 60 ≤ e.val) : draw g d e m f s = .next (s.takeTrap s.cur.1 s.cur.2 .ill none) := by
  refine issue_trap hg ?_
  simp only [need, Nat.not_lt.mpr he, decide_false, Bool.false_eq_true, if_false, bind, Except.bind, Stop.t]

/-- The 32 neurons that step under threshold and leak `p`, with membranes `v` and inputs `u` (05 R145). -/
def neuronLanes (p : Dbl) (v u : VReg) : List (Nat × Bool × Bool × Nat) :=
  (List.range 32).map (fun i => neuron (p.toNat % 2 ^ 32) (p.toNat / 2 ^ 32) (lane32 v i).toNat (lane32 u i).toNat)

theorem neuronLanes_eq (p : Dbl) (v u : VReg) :
    ((lanesOf 32 v).zip (lanesOf 32 u)).map (fun q => neuron (p.toNat % 2 ^ 32) (p.toNat / 2 ^ 32) q.1 q.2) =
      neuronLanes p v u := by
  rw [lanesOf_32, lanesOf_32, zip_range_map, List.map_map]
  rfl

/-- NOVD after a step: the overdriven lanes, and their count up to its limit (05 R146). -/
def novdAfter (old : Dbl) (hard : List Bool) : Dbl :=
  BitVec.ofNat 64 (Nat.lor (old.toNat % 2 ^ 32) (ofBits hard) +
    2 ^ 32 * min (old.toNat / 2 ^ 32 + (hard.filter id).length) (2 ^ 32 - 1))

theorem novdAfter_eq (old : Dbl) (hard : List Bool) :
    BitVec.ofNat 64 (Nat.lor (df old 0 32) (ofBits hard) + 2 ^ 32 * min (df old 32 32 + (hard.filter id).length) (2 ^ 32 - 1)) =
      novdAfter old hard := by
  have hlow : df old 0 32 = old.toNat % 2 ^ 32 := by rw [df, fld, Nat.pow_zero, Nat.div_one]
  have hhigh : df old 32 32 = old.toNat / 2 ^ 32 := by
    have := old.isLt
    rw [df, fld, Nat.mod_eq_of_lt (by omega)]
  rw [hlow, hhigh, novdAfter]

theorem nrns_of {s : State} {g m : Fin 8} {d a : Fin 32} {e : Fin 64} {u v : VReg} {c : CVal} {x y t z : Strand}
    (hg : s.me.guard g = true) (ha : s.me.sourceV a = some (u, x)) (hd : x.sourceV d = some (v, y))
    (he : y.source e = some (c, t))
    (hz : (t.flagged (flags ((neuronLanes c.addr v u).map (fun q => q.2.2.2)))).resultV d
      (vOfLanes 32 ((neuronLanes c.addr v u).map (·.1))) = some z) :
    exec (.nrns g d a e m) s = .next (s.passed 4
      (({ z with novd := novdAfter z.novd ((neuronLanes c.addr v u).map (fun q => q.2.2.1)) } : Strand).withMask m
        (BitVec.ofNat 128 (ofBits ((neuronLanes c.addr v u).map (fun q => q.2.1)))))) := by
  refine exec_nrns.trans (issue_me hg ?_)
  simp only [useV_of_sourceV ha, useV_setMe hd, useX_setMe he, bind, Except.bind, pure, Except.pure, neuronLanes_eq,
    raise_setMe, me_setMe, setMe_setMe, putV_setMe hz, novdAfter_eq, updMe_eq, putM_eq]

/-- Settles O16. -/
theorem drawsAndNeurons : Obligations.DrawsAndNeurons := by
  intro s g m d a e u v c x y t hg
  refine ⟨fun he => ?_, fun he => ?_, fun ha hd hsrc => ?_⟩
  · simp only [List.mem_cons, List.not_mem_nil, or_false]
    rintro p (rfl | rfl) z1 z2 h1 h2
    · exact exec_vrnd.trans (draw_of hg he h1 h2)
    · exact exec_vrndf.trans (draw_of (f := unitFloat) hg he h1 h2)
  · simp only [List.mem_cons, List.not_mem_nil, or_false]
    rintro i (rfl | rfl)
    · exact exec_vrnd.trans (draw_ill hg he)
    · exact exec_vrndf.trans (draw_ill hg he)
  · intro r hard z hz
    exact nrns_of hg ha hd hsrc hz

end Sys2Proof.Machine
end

section
/-! PROOF. The array at work: fills, commands, read-outs, and one slab's update of an accumulator tile (06 R158-R165; 11 R252,
R254; 02 R54-R56). -/

namespace Sys2Proof.Machine

/-! ### A fill lands -/

/-- A lease after a fill of it has landed (06 R160). -/
def Lease.landed (l : Lease) (f : FillJob) (dt : Nat) : Lease :=
  { l.updOperand f.slot f.target (fun (p : Operand) =>
      { p with landed := f.num, elems := f.elems ++ List.replicate (64 - f.elems.length) (List.replicate f.k zeroElem),
               bad := f.bad }) with lastUse := dt }

theorem arrayFill_lands {s s1 : State} {q : ClusterId} {id : Nat} {o : Op} {f f1 : FillJob} {l : Lease} {fr : Fin 2} {bits : Nat}
    (hop : s.op id = some o) (hjob : o.job = .fill f) (hlive : s.house.frozen = false) (hnone : o.handed = none)
    (hbad : o.bad = []) (hq : f.cluster = q) (hl : (s.cluster q).lease f.lease = some l) (hst : l.st = .resident fr)
    (hmove : l.moving = false) (hblock : s.fillBlocked l id f = false) (hissue : s.awaitsIssuer o = false)
    (hrows : s.fillRows o l.bin.isSome f 0 f.todo = (f1, bits, none, s1)) :
    exec (.arrayFillComplete q id) s = .next ((((s1.updLease q l.id (fun (l : Lease) =>
      { l with mstat := Nat.lor l.mstat bits })).updLease q l.id (·.landed f1 s.dt)).endOp id).pokeArray q) := by
  rw [exec_arrayFillComplete, execArrayFillComplete]
  simp only [hop, hjob, hlive, hnone, hbad, hq, hl, hst, hmove, hblock, hissue, hrows, Option.isSome_none, List.isEmpty_nil,
    Bool.not_true, Bool.not_false, Bool.false_eq_true, ne_eq, not_true_eq_false, or_self, if_false]
  rfl

/-! ### The oldest command of the lease that has the turn -/

/-- What follows a slab or a command: it leaves the queue, and the array looks at its turn again. -/
def State.commandDone (s : State) (q : ClusterId) (l : Lease) : State :=
  ((((s.updLease q l.id Lease.advance).updLease q l.id (fun (l : Lease) => { l with lastUse := s.dt })).updCluster q
    (fun (x : Cluster) => { x with turnCmds := x.turnCmds + 1 })).pokeArray q)

section
variable {s : State} {q : ClusterId} {l : Lease} (hturn : (s.cluster q).turn.bind (s.cluster q).lease = some l)
  (hlive : s.house.frozen = false) (hready : l.eligible = true)
include hturn hlive hready

theorem arrayCommand_mma {seq pair fn : Nat} {acc : Fin 8} {scale : CVal} {sl : Slab} {sls : List Slab} {cs : List Cmd}
    (hcmd : l.cmds = .mma seq pair fn acc scale (sl :: sls) :: cs)
    (hscale : scale.tag = true → s.issuerBehind l.core l.wid seq = false) :
    exec (.arrayCommandComplete q) s = .next ((s.runSlab q l pair fn acc scale sl).commandDone q l) := by
  have hno : (scale.tag && s.issuerBehind l.core l.wid seq) = false := by
    cases htag : scale.tag
    · rfl
    · exact hscale htag
  rw [exec_arrayCommandComplete, execArrayCommandComplete]
  simp only [hturn, hlive, hready, hcmd, hno, Bool.not_true, Bool.false_eq_true, if_false]
  rfl

theorem arrayCommand_mzero {acc : Fin 8} {cs : List Cmd} (hcmd : l.cmds = .mzero acc :: cs) :
    exec (.arrayCommandComplete q) s =
      .next ((s.updLease q l.id (fun (l : Lease) => { l with acc := wr l.acc acc .zero })).commandDone q l) := by
  rw [exec_arrayCommandComplete, execArrayCommandComplete]
  simp only [hturn, hlive, hready, hcmd, Bool.not_true, Bool.false_eq_true, if_false]
  rfl

theorem arrayCommand_mrd {id : Nat} {acc : Fin 8} {cs : List Cmd} {o : Op} {r : Readout} (hcmd : l.cmds = .mrd id acc :: cs)
    (hroom : s.buffersUsed q < 2) (hop : s.op id = some o) (hjob : o.job = .readout r) :
    exec (.arrayCommandComplete q) s = .next ((s.capture q l o r).commandDone q l) := by
  rw [exec_arrayCommandComplete, execArrayCommandComplete]
  simp only [hturn, hlive, hready, hcmd, hop, hjob, Nat.not_le.mpr hroom, Bool.not_true, Bool.false_eq_true, if_false]
  rfl

end

/-! ### A read-out drains -/

section
variable {s : State} {q : ClusterId} {id : Nat} {o : Op} {r : Readout} (hop : s.op id = some o) (hjob : o.job = .readout r)
  (hlive : s.house.frozen = false) (hcap : r.captured = true) (hnone : o.handed = none) (hbad : o.bad = [])
  (hissue : s.awaitsIssuer o = false)
include hop hjob hlive hcap hnone hbad hissue

/-- The window of a read-out receives the rows (01 R27). -/
theorem readoutDrain_window {t : Fin 8} {w : Nat} (htile : r.tile = some t) (hwin : r.win = some w) :
    exec (.readoutDrain q id) s = .next (((s.setWin o.core o.wid w (.rows r.rows r.fl)).endOp id).pokeArray q) := by
  rw [exec_readoutDrain, execReadoutDrain]
  simp only [hop, hjob, hlive, hcap, hnone, hbad, hissue, htile, hwin, Option.isSome_none, List.isEmpty_nil, Bool.not_true,
    Bool.false_eq_true, or_self, if_false]

/-- The rows of a tile register are made visible at once (06 R165). -/
theorem readoutDrain_tile {t : Fin 8} (htile : r.tile = some t) (hwin : r.win = none) :
    exec (.readoutDrain q id) s = .next ((((s.updTile o.core t (fun (x : Tile) =>
      { x with rows := vofFn (fun i => (r.rows[i.val]?).getD 0) })).updWork o.core o.wid (fun (x : Strand) =>
        { x with fflags := x.fflags ||| BitVec.ofNat 32 r.fl })).endOp id).pokeArray q) := by
  rw [exec_readoutDrain, execReadoutDrain]
  simp only [hop, hjob, hlive, hcap, hnone, hbad, hissue, htile, hwin, Option.isSome_none, List.isEmpty_nil, Bool.not_true,
    Bool.false_eq_true, or_self, if_false]

/-- The last granules of a read-out to memory are written (11 R254). -/
theorem readoutDrain_memory {left : List (CVal × Dbl × List Byte)} {s1 : State} (htile : r.tile = none)
    (hbin : ((s.cluster q).lease r.lease).bind (·.bin) = none) (hlast : o.buf.drop 32 = [])
    (hdrain : s.drain o false (o.buf.take 32) = (left, none, s1)) :
    exec (.readoutDrain q id) s = .next (((((s1.updOp id (fun (p : Op) => { p with buf := left ++ [] })).updWork o.core o.wid
      (fun (x : Strand) => { x with fflags := x.fflags ||| BitVec.ofNat 32 r.fl })).endOp id).pokeArray q)) := by
  rw [exec_readoutDrain, execReadoutDrain]
  simp only [hop, hjob, hlive, hcap, hnone, hbad, hissue, htile, hbin, hlast, hdrain, Option.isSome_none, List.isEmpty_nil,
    Bool.not_true, Bool.false_eq_true, or_self, if_false, if_true]

end

/-! ### One slab's update of a tile, element by element (02 R54-R56) -/

/-- The products of element `n`: those of row `n / 64` of A and column `n % 64` of B. -/
def productsAt (neg : Bool) (a b : List (List OElem)) (n : Nat) : Option (List (Int × Int)) :=
  products neg ((a[n / 64]?).getD []) ((b[n % 64]?).getD [])

/-- The products of every element, in row-major order. -/
def allProducts (neg : Bool) (a b : List (List OElem)) : List (Option (List (Int × Int))) :=
  (List.range 64).flatMap (fun i => (List.range 64).map (fun j =>
    products neg ((a[i]?).getD []) ((b[j]?).getD [])))

/-- The exponent of a tile after a slab. -/
def slabExp (t : AccTile) (neg : Bool) (a b : List (List OElem)) : Int :=
  match ((allProducts neg a b).zip t.e.toList).foldl (fun r x => match x.1 with
    | some l => if x.2 = marker then r else maxLead r (leadOf l)
    | none => r) (none : Option Int) with
  | none => t.x.toInt
  | some y => max t.x.toInt (y - 46)

/-- An element after a slab with products `ps`, at the exponent `xn`, and its MSTAT bits. -/
def slabElem (x xn : Int) (ps : Option (List (Int × Int))) (e : Dbl) : Dbl × Nat :=
  if e = marker then (marker, 0)
  else match ps with
    | none => (marker, MNAN)
    | some l =>
      let c := clamp63 (e.toInt / 2 ^ (xn - x).toNat + (l.map (fun q => floorTo q.1 q.2 xn)).foldl (· + ·) 0)
      (BitVec.ofInt 64 c.1, flagIf c.2 MSAT)

/-- Every element after a slab, with its MSTAT bits. -/
def slabElems (t : AccTile) (neg : Bool) (a b : List (List OElem)) : List (Dbl × Nat) :=
  ((allProducts neg a b).zip t.e.toList).map (fun p => slabElem t.x.toInt (slabExp t neg a b) p.1 p.2)

theorem mmaTile_eq (t : AccTile) (neg : Bool) (a b : List (List OElem)) :
    mmaTile t neg a b = ({ x := BitVec.ofInt 16 (slabExp t neg a b)
                           e := vofFn (fun i => (((slabElems t neg a b).map (·.1)).toArray).getD i.val 0) },
      flags ((slabElems t neg a b).map (·.2))) := rfl

theorem flatMap_range_eq {α : Type} (f : Nat → Nat → α) (n m : Nat) :
    (List.range n).flatMap (fun i => (List.range m).map (f i)) = (List.range (n * m)).map (fun k => f (k / m) (k % m)) := by
  induction n with
  | zero => simp
  | succ n ih =>
    rcases Nat.eq_zero_or_pos m with rfl | hm
    · simp
    rw [List.range_succ, List.flatMap_append, ih, Nat.succ_mul, List.range_add, List.map_append, List.map_map]
    congr 1
    simp only [List.flatMap_cons, List.flatMap_nil, List.append_nil]
    refine List.map_congr_left fun j hj => ?_
    have hj : j < m := List.mem_range.mp hj
    simp [Nat.mul_comm n m, Nat.mul_add_div hm, Nat.div_eq_of_lt hj, Nat.mod_eq_of_lt hj]

theorem allProducts_eq (neg : Bool) (a b : List (List OElem)) :
    allProducts neg a b = (List.range 4096).map (productsAt neg a b) := flatMap_range_eq _ 64 64

theorem slabElems_length (t : AccTile) (neg : Bool) (a b : List (List OElem)) : (slabElems t neg a b).length = 4096 := by
  simp [slabElems, allProducts_eq]

/-- Element `n` of a tile after a slab. -/
theorem mmaTile_elem (t : AccTile) (neg : Bool) (a b : List (List OElem)) (n : Fin 4096) :
    rd (mmaTile t neg a b).1.e n =
      (slabElem t.x.toInt (slabExp t neg a b) (productsAt neg a b n.val) (rd t.e n)).1 := by
  rw [mmaTile_eq, rd_vofFn]
  simp [slabElems, allProducts_eq, rd]

/-- An element that holds the marker keeps it. -/
theorem slabElem_marker (x xn : Int) (ps : Option (List (Int × Int))) : slabElem x xn ps marker = (marker, 0) := if_pos rfl

/-- A NaN or infinite operand gives the marker. -/
theorem slabElem_none (x xn : Int) (e : Dbl) : (slabElem x xn none e).1 = marker := by
  unfold slabElem
  split <;> rfl

theorem products_special {neg : Bool} {r c : List OElem} (h : r.any (·.special) = true ∨ c.any (·.special) = true) :
    products neg r c = none := if_pos h

/-! Products that are all zeros. -/

/-- A row of zeros times a column of finite elements has no product that counts. -/
theorem products_zero {neg : Bool} {r c : List OElem} (hr : ∀ e ∈ r, e.special = false ∧ e.val = 0)
    (hc : ∀ e ∈ c, e.special = false) : products neg r c = some [] := by
  have hra : r.any (·.special) = false := by simpa using fun e he => (hr e he).1
  have hca : c.any (·.special) = false := by simpa using hc
  have hf : (r.zip c).filter (fun p => p.1.val != 0 && p.2.val != 0) = [] := by
    refine List.filter_eq_nil_iff.mpr fun p hp => ?_
    simp [(hr p.1 (List.of_mem_zip hp).1).2]
  simp [products, hra, hca, hf]

theorem clamp63_toInt {e : Dbl} (h : e ≠ marker) : clamp63 e.toInt = (e.toInt, false) := by
  have hlow : -2 ^ 63 ≤ e.toInt := BitVec.le_toInt e
  have hhigh : e.toInt < 2 ^ 63 := BitVec.toInt_lt
  have hne : e.toInt ≠ -2 ^ 63 := fun he => h (BitVec.eq_of_toInt_eq (he.trans (by decide)))
  unfold clamp63
  rw [if_neg (by omega), if_neg (by omega)]

/-- With no product that counts, and the exponent as it was, an element stays as it is, with no MSTAT bit. -/
theorem slabElem_nil (x : Int) (e : Dbl) : slabElem x x (some []) e = (e, 0) := by
  by_cases he : e = marker
  · rw [he, slabElem_marker]
  · simp [slabElem, he, clamp63_toInt he, flagIf]

section
variable {t : AccTile} {neg : Bool} {a b : List (List OElem)} (h : ∀ n, productsAt neg a b n = some [])
include h

theorem slabExp_of_zero : slabExp t neg a b = t.x.toInt := by
  have hnil : ∀ p ∈ (allProducts neg a b).zip t.e.toList, p.1 = some [] := by
    intro p hp
    have hmem := (List.of_mem_zip hp).1
    rw [allProducts_eq] at hmem
    obtain ⟨n, -, hn⟩ := List.mem_map.mp hmem
    exact hn.symm.trans (h n)
  unfold slabExp
  rw [foldl_unchanged fun p hp => ?_]
  rw [hnil p hp]
  exact ite_self _

theorem slabElems_of_zero : slabElems t neg a b = t.e.toList.map (fun e => (e, 0)) := by
  refine List.ext_getElem (by rw [slabElems_length, List.length_map, Vector.length_toList]) fun i h1 h2 => ?_
  simp [slabElems, allProducts_eq, h, slabExp_of_zero h, slabElem_nil]

/-- Products that are all zeros leave the tile as it is, with no MSTAT bit. -/
theorem mmaTile_of_zero : mmaTile t neg a b = (t, 0) := by
  have hflags : flags ((slabElems t neg a b).map (·.2)) = 0 := by
    rw [slabElems_of_zero h, List.map_map]
    exact foldl_unchanged (by simp)
  have helems : vofFn (fun i : Fin 4096 => (((slabElems t neg a b).map (·.1)).toArray).getD i.val 0) = t.e := by
    refine Vector.ext fun i hi => ?_
    have hget : rd (vofFn (fun i : Fin 4096 => (((slabElems t neg a b).map (·.1)).toArray).getD i.val 0)) ⟨i, hi⟩ = t.e[i] := by
      rw [rd_vofFn, slabElems_of_zero h]
      simp [hi]
    exact hget
  rw [mmaTile_eq, hflags, helems, slabExp_of_zero h, BitVec.ofInt_toInt]

end

theorem productsAt_of_zero {neg : Bool} {a b : List (List OElem)} (ha : ∀ r ∈ a, ∀ e ∈ r, e.special = false ∧ e.val = 0)
    (hb : ∀ r ∈ b, ∀ e ∈ r, e.special = false) (n : Nat) : productsAt neg a b n = some [] := by
  have hmem : ∀ (l : List (List OElem)) (i : Nat), ∀ e ∈ (l[i]?).getD [], ∃ r ∈ l, e ∈ r := by
    intro l i e he
    cases hi : l[i]? with
    | none => simp [hi] at he
    | some r => exact ⟨r, List.mem_of_getElem? hi, by simpa [hi] using he⟩
  refine products_zero (fun e he => ?_) (fun e he => ?_)
  · obtain ⟨r, hr, her⟩ := hmem a _ e he
    exact ha r hr e her
  · obtain ⟨r, hr, her⟩ := hmem b _ e he
    exact hb r hr e her

/-! ### The statement -/

/-- The place of row `i` and column `j`. -/
theorem productsAt_place (neg : Bool) (a b : List (List OElem)) (i j : Fin 64) :
    productsAt neg a b (Fin.ofNat 4096 (64 * i.val + j.val)).val = products neg ((a[i.val]?).getD []) ((b[j.val]?).getD []) := by
  have hplace : (Fin.ofNat 4096 (64 * i.val + j.val)).val = 64 * i.val + j.val := Nat.mod_eq_of_lt (by omega)
  rw [productsAt, hplace, show (64 * i.val + j.val) / 64 = i.val by omega, show (64 * i.val + j.val) % 64 = j.val by omega]

/-- Settles O25. -/
theorem arrayExecutes : Obligations.ArrayExecutes := by
  refine ⟨fun s q l => ⟨?_, ?_, ?_⟩, fun t neg a b _ _ => ⟨fun i j hs => ?_, fun i j hm => ?_, fun ha hb => ?_⟩⟩
  · intro id o f fr f1 bits s1 hop hjob hlive hnone hbad hq hl hst hmove hblock hissue hrows
    exact arrayFill_lands hop hjob hlive hnone hbad hq hl hst hmove hblock hissue hrows
  · intro hturn hlive hready done
    refine ⟨fun seq pair fn acc scale sl sls cs hcmd hscale => ?_, fun acc cs hcmd => ?_, fun id acc cs o r hcmd hroom hop hjob => ?_⟩
    · exact arrayCommand_mma hturn hlive hready hcmd hscale
    · exact arrayCommand_mzero hturn hlive hready hcmd
    · exact arrayCommand_mrd hturn hlive hready hcmd hroom hop hjob
  · intro id o r hop hjob hlive hcap hnone hbad hissue
    refine ⟨fun t w htile hwin => ?_, fun t htile hwin => ?_, fun htile hbin hlast left s1 hdrain => ?_⟩
    · exact readoutDrain_window hop hjob hlive hcap hnone hbad hissue htile hwin
    · exact readoutDrain_tile hop hjob hlive hcap hnone hbad hissue htile hwin
    · exact readoutDrain_memory hop hjob hlive hcap hnone hbad hissue htile hbin hlast hdrain
  · rw [mmaTile_elem, productsAt_place, products_special hs, slabElem_none]
  · rw [mmaTile_elem, hm, slabElem_marker]
  · exact mmaTile_of_zero (productsAt_of_zero ha hb)

end Sys2Proof.Machine
end

section
/-! PROOF. Exact accumulators of the other die (07 R202; 18 R332): a request waits behind its tile's earlier requests to the
same home, so an `xacq` may wait though a port is in service and an accumulator is free. -/

namespace Sys2Proof.Machine

/-- An instruction that waits leaves its strand waiting, its ports as they were. -/
theorem issue_wait {g : Fin 8} {len : Nat} {s s1 : State} {f : State → Except Stop State} (hg : s.me.guard g = true)
    (h : f s = .error (.wait s1)) : issue g len s f = .next (s1.setMe { s1.me.ports s.me with st := .waiting }) := by
  simp [issue, issueN, hg, h]

/-- An accumulator of the other die is not reached while an earlier request of the tile to its home is on its way. -/
theorem reachesAcc_behindPort {s : State} {h : HomeId} (hdie : h.val / 8 ≠ dieOf s.cur.1) (hb : s.behindPort h.val = true) :
    s.reachesAcc (.home h) = .error (.wait s) :=
  if_pos ⟨hdie, by rw [hb, Bool.or_true]⟩

theorem behindPort_setMe (s : State) (x : Strand) (h : Nat) : (s.setMe x).behindPort h = s.behindPort h := by
  simp only [State.behindPort, myCore_setMe_wpath]
  rfl

/-- Such an `xacq` waits, and has acquired nothing. -/
theorem xacq_waits {s : State} {g : Fin 8} {d a : Fin 64} {v : CVal} {x : Strand} (hg : s.me.guard g = true)
    (htask : s.me.work.task = none) (ha : s.me.source a = some (v, x)) (hrest : qf v.val 7 121 = 0) (hfmt : qf v.val 5 2 ≠ 3)
    (hhome : v.val.getLsbD 0 = true) (hdie : (Fin.ofNat 16 (qf v.val 1 4)).val / 8 ≠ dieOf s.cur.1)
    (hb : s.behindPort (Fin.ofNat 16 (qf v.val 1 4)).val = true) :
    exec (.xacq g d a) s = .next (s.setMe { x.ports s.me with st := .waiting }) := by
  have hwait : (s.setMe x).reachesAcc (.home (Fin.ofNat 16 (qf v.val 1 4))) = .error (.wait (s.setMe x)) :=
    reachesAcc_behindPort hdie ((behindPort_setMe s x _).trans hb)
  refine exec_xacq.trans ((issue_wait (s1 := s.setMe x) hg ?_).trans (by rw [setMe_setMe, me_setMe]))
  simp only [State.notSpec, need, htask, useC_of_source ha, hrest, bne_iff_ne.mpr hfmt, hhome, hwait, bind, Except.bind,
    Option.isNone_none, BEq.rfl, Bool.and_self, if_true]

/-! ### A strand that has posted a value to a home of the other die -/

/-- The running strand of the example: c4 asks for an F32 accumulator of home 8. -/
def acquiring : Strand := Strand.reset.setC 4 (.plain 17)

/-- Core 0 right after its strand's `xadd` to accumulator 0 of home 8, which is on die 1, with every function of the part in
service. -/
def afterAdd : State :=
  ({ State.reset with house := { State.reset.house with ready := BitVec.allOnes 128 } } : State).posting acquiring .null 0
    (.xadd 1088 0)

/-- The access that `State.posting` puts on the write path. -/
def State.postedAs (s : State) (y : Strand) (cap : CVal) (va : Dbl) (k : PKind) : Posted :=
  { id := s.nextId, slot := s.cur.2, wid := y.work.wid, asid := y.asid, cap := cap, va := va, kind := k }

section
variable (s : State) (y : Strand) (cap : CVal) (va : Dbl) (k : PKind)

theorem myCore_posting : (s.posting y cap va k).myCore =
    { (s.setMe y).myCore with wpath := (s.setMe y).myCore.wpath ++ [s.postedAs y cap va k] } :=
  myCore_updCore (s := s.setMe y) (c := s.cur.1) (by exact rfl)
    (fun (x : Core) => { x with wpath := x.wpath ++ [s.postedAs y cap va k] })

theorem me_posting : (s.posting y cap va k).me = y :=
  (congrArg (fun x : Core => x.strand s.cur.2) (myCore_posting s y cap va k)).trans (me_setMe s y)

theorem wpath_posting : (s.posting y cap va k).myCore.wpath = s.myCore.wpath ++ [s.postedAs y cap va k] := by
  rw [myCore_posting, myCore_setMe_wpath]

end

theorem afterAdd_behindPort : afterAdd.behindPort 8 = true := by
  rw [State.behindPort, afterAdd, wpath_posting, List.any_append, Bool.or_eq_true]
  exact .inr (by decide)

theorem afterAdd_free (i : Fin 64) : (rd (afterAdd.xaccs (.home 8)) i).used = false := by
  have h : afterAdd.xaccs (.home 8) = .replicate 64 .free := by
    show (rd (Vector.replicate 16 Home.reset) 8).xacc = _
    simp [rd, Home.reset]
  simp [h, rd, XAcc.free]

/-- What an update leaves in the accumulator it names. -/
theorem updXacc_rd (s : State) (p : XPlace) (i : Fin 64) (f : XAcc → XAcc) :
    rd ((s.updXacc p i f).xaccs p) i = f (rd (s.xaccs p) i) := by
  cases p <;> simp [State.updXacc, State.xaccs, State.updHome]

theorem xaccs_setMe (s : State) (x : Strand) (p : XPlace) : (s.setMe x).xaccs p = s.xaccs p := by cases p <;> rfl

/-- Refutes O34: a port is in service and accumulator 0 of home 8 is free, but the strand's own `xadd` to that home is still on
its way, so `xacq` waits where the statement has it done. -/
theorem not_exactAccumulators : ¬ Obligations.ExactAccumulators := by
  intro holds
  have hme : afterAdd.me = acquiring := me_posting _ _ _ _ _
  have hg : afterAdd.me.guard 0 = true := rfl
  have htask : afterAdd.me.work.task = none := by rw [hme]; rfl
  have hsrc : afterAdd.me.source 4 = some (.plain 17, acquiring) := by rw [hme]; rfl
  have hwaits : exec (.xacq 0 0 4) afterAdd = .next (afterAdd.setMe { acquiring.ports afterAdd.me with st := .waiting }) :=
    xacq_waits hg htask hsrc (by decide) (by decide) (by decide) (by decide) afterAdd_behindPort
  have hdone := ((holds afterAdd 0 0 4 0 (.plain 17) .null acquiring acquiring acquiring hg htask hsrc).2.1
    (fun _ _ => .inr (by decide)) (by decide) (by decide) (fun _ => by decide)).2 0 (afterAdd_free 0)
    (fun _ hj => absurd hj (Nat.not_lt_zero _)) rfl
  have hplace : (if (CVal.plain 17).val.getLsbD 0 then XPlace.home (Fin.ofNat 16 (qf (CVal.plain 17).val 1 4))
      else .cluster (clusterOf afterAdd.cur.1)) = .home 8 := rfl
  rw [hplace] at hdone
  have hused := congrArg (fun t : State => (rd (t.xaccs (.home 8)) 0).used) (Host.Outcome.next.inj (hwaits.symm.trans hdone))
  simp [State.passedTo, xaccs_setMe, updXacc_rd, afterAdd_free] at hused

end Sys2Proof.Machine
end

section
/-! PROOF. Scalar instructions complete with their result (03 R65-R81): one lemma for each shape that they share, under the
reading of their operands and the writing of their destination. -/

namespace Sys2Proof.Machine

/-- What follows from a property of every entry of a table. -/
theorem forall_mem_of_imp {α : Type} {L : List α} (Q : α → Prop) {R : α → Prop} (hL : ∀ p ∈ L, Q p) (h : ∀ p, Q p → R p) :
    ∀ p ∈ L, R p := fun p hp => h p (hL p hp)

/-! ### Reading operands -/

/-- `y` is `x` with values popped from its ports. -/
def Strand.Popped (x y : Strand) : Prop :=
  ∃ l q e vl vs m, y = { x with ldq := l, stq := q, engq := e, vldq := vl, vstq := vs, msg := m }

section
variable {x y z : Strand}

theorem Strand.Popped.refl (x : Strand) : x.Popped x := ⟨_, _, _, _, _, _, rfl⟩

theorem Strand.Popped.trans (h : x.Popped y) (k : y.Popped z) : x.Popped z := by
  obtain ⟨_, _, _, _, _, _, rfl⟩ := h
  obtain ⟨_, _, _, _, _, _, rfl⟩ := k
  exact ⟨_, _, _, _, _, _, rfl⟩

theorem Strand.Popped.work (h : x.Popped y) : y.work = x.work := by
  obtain ⟨_, _, _, _, _, _, rfl⟩ := h
  rfl

theorem Strand.Popped.guard (h : x.Popped y) (k : Fin 8) : y.guard k = x.guard k := by
  obtain ⟨_, _, _, _, _, _, rfl⟩ := h
  rfl

theorem Strand.Popped.ticket (h : x.Popped y) : y.ticket = x.ticket := by
  obtain ⟨_, _, _, _, _, _, rfl⟩ := h
  rfl

theorem source_popped {i : Fin 64} {v : CVal} (h : x.source i = some (v, y)) : x.Popped y := by
  unfold Strand.source at h
  split_ifs at h
  · cases h
    exact .refl _
  · split at h <;> cases h
    exact ⟨_, x.stq, x.engq, x.vldq, x.vstq, x.msg, rfl⟩
  · split at h <;> cases h
    exact ⟨x.ldq, x.stq, _, x.vldq, x.vstq, x.msg, rfl⟩
  · split at h <;> cases h
    exact ⟨x.ldq, x.stq, x.engq, x.vldq, x.vstq, _, rfl⟩
  · cases h
    exact .refl _

theorem source_guard {i : Fin 64} {v : CVal} (h : x.source i = some (v, y)) (k : Fin 8) : y.guard k = x.guard k :=
  (source_popped h).guard k

end

section
variable {s : State} {g : Fin 8} {d a b : Fin 64} {u v w : CVal} {x y t z : Strand} {len : Nat}

/-! ### Integers (03 R65, R69-R72) -/

theorem scalar1_of {f : Dbl → Dbl} (hg : s.me.guard g = true) (ha : s.me.source a = some (u, x))
    (hd : x.result d (.plain ((f u.addr).setWidth 128)) = some z) : scalar1 len g d a f s = .next (s.passed len z) := by
  refine issue_me hg ?_
  simp only [useX_of_source ha, bind, Except.bind]
  exact putC_setMe hd

theorem scalar2_of {f : Dbl → Dbl → Dbl} (hg : s.me.guard g = true) (ha : s.me.source a = some (u, x))
    (hb : x.source b = some (v, y)) (hd : y.result d (.plain ((f u.addr v.addr).setWidth 128)) = some z) :
    scalar2 g d a b f s = .next (s.passed 4 z) := by
  refine issue_me hg ?_
  simp only [useX_of_source ha, useX_setMe hb, bind, Except.bind]
  exact putC_setMe hd

/-- A result, tag and all, of one c operand. -/
theorem capUnary_of {f : CVal → CVal} (hg : s.me.guard g = true) (ha : s.me.source a = some (u, x))
    (hd : x.result d (f u) = some z) : capUnary len g d a f s = .next (s.passed len z) := by
  refine issue_me hg ?_
  simp only [useC_of_source ha, bind, Except.bind]
  exact putC_setMe hd

theorem quad2_of {f : Quad → Quad → Quad} (hg : s.me.guard g = true) (ha : s.me.source a = some (u, x))
    (hb : x.source b = some (v, y)) (hd : y.result d (.plain (f u.val v.val)) = some z) :
    quad2 g d a b f s = .next (s.passed 4 z) := by
  refine issue_me hg ?_
  simp only [useC_of_source ha, useC_setMe hb, bind, Except.bind]
  exact putC_setMe hd

/-! ### Compares, guards, select (03 R73-R75) -/

theorem guards_of {h : Fin 8} {f : Strand → Bool} (hg : s.me.guard g = true) :
    guards g h f s = .next (s.passed 4 (s.me.withGuard h (f s.me))) := issue_me hg (congrArg Except.ok (putG_eq ..))

theorem compareImm_of {c h : Fin 8} {n : Dbl} (hg : s.me.guard g = true) (ha : s.me.source a = some (u, x)) :
    compareImm len g c h a n s = .next (s.passed len (x.withGuard h (icond c.val u.addr n))) := by
  refine issue_me hg ?_
  simp only [useX_of_source ha, bind, Except.bind, putG_eq, me_setMe, setMe_setMe]
  rfl

theorem compare2_of {c h : Fin 8} {k : Bool → Bool → Bool} (hg : s.me.guard g = true) (ha : s.me.source a = some (u, x))
    (hb : x.source b = some (v, y)) : compare2 g c h a b k s =
      .next (s.passed 4 (y.withGuard h (k (s.me.guard h) (icond c.val u.addr v.addr)))) := by
  refine issue_me hg ?_
  simp only [useX_of_source ha, useX_setMe hb, bind, Except.bind, putG_eq, me_setMe, setMe_setMe, source_guard hb, source_guard ha]
  rfl

theorem sel_of {h : Fin 8} (hg : s.me.guard g = true) (ha : s.me.source a = some (u, x)) (hb : x.source b = some (v, y))
    (hd : y.result d (if s.me.guard h then u else v) = some z) : exec (.sel g d a b h) s = .next (s.passed 4 z) := by
  refine exec_sel.trans (issue_me hg ?_)
  simp only [useC_of_source ha, useC_setMe hb, bind, Except.bind, me_setMe, source_guard hb, source_guard ha]
  exact putC_setMe hd

/-- The six conditions (03 R73). -/
theorem icond_eq (c : Fin 8) (m n : Dbl) : icond c.val m n =
    if c = 0 then m == n else if c = 1 then m != n
    else if c = 2 then decide (m.toInt < n.toInt) else if c = 3 then decide (n.toInt ≤ m.toInt)
    else if c = 4 then decide (m.toNat < n.toNat) else decide (n.toNat ≤ m.toNat) := by
  fin_cases c <;> rfl

/-! ### Floating point (03 R77-R81) -/

/-- A code written with its flags. -/
theorem putF_setMe {r : Nat × Nat} (hd : (y.flagged r.2).result d (.plain ((BitVec.ofNat 64 r.1).setWidth 128)) = some z) :
    (s.setMe y).putF d r = .ok (s.setMe z) := by
  rw [State.putF, raise_setMe, me_setMe, setMe_setMe]
  exact putC_setMe hd

theorem convert_of {f : Dbl → Nat × Nat} (hg : s.me.guard g = true) (ha : s.me.source a = some (u, x))
    (hd : (x.flagged (f u.addr).2).result d (.plain ((BitVec.ofNat 64 (f u.addr).1).setWidth 128)) = some z) :
    convert g d a f s = .next (s.passed 4 z) := by
  refine issue_me hg ?_
  simp only [useX_of_source ha, bind, Except.bind]
  exact putF_setMe hd

theorem float2_of {f : FVal → FVal → FVal × Nat} (hg : s.me.guard g = true) (ha : s.me.source a = some (u, x))
    (hb : x.source b = some (v, y)) (hd : (y.flagged (finish .f32 (f (f32Of u.addr) (f32Of v.addr))).2).result d
      (.plain ((BitVec.ofNat 64 (finish .f32 (f (f32Of u.addr) (f32Of v.addr))).1).setWidth 128)) = some z) :
    float2 g d a b f s = .next (s.passed 4 z) := by
  refine issue_me hg ?_
  simp only [useX_of_source ha, useX_setMe hb, bind, Except.bind]
  exact putF_setMe hd

theorem floatFma_of {neg : Bool} (r : Nat × Nat) (hg : s.me.guard g = true) (ha : s.me.source a = some (u, x))
    (hb : x.source b = some (v, y)) (hw : y.source d = some (w, t))
    (hr : finish .f32 (fFma (f32Of w.addr) (if neg then (f32Of u.addr).negate else f32Of u.addr) (f32Of v.addr)) = r)
    (hd : (t.flagged r.2).result d (.plain ((BitVec.ofNat 64 r.1).setWidth 128)) = some z) :
    floatFma neg g d a b s = .next (s.passed 4 z) := by
  refine issue_me hg ?_
  simp only [useX_of_source ha, useX_setMe hb, useX_setMe hw, bind, Except.bind, hr]
  exact putF_setMe hd

theorem fcmp_of {c h : Fin 8} (hg : s.me.guard g = true) (ha : s.me.source a = some (u, x)) (hb : x.source b = some (v, y)) :
    execFcmp g c h a b s = .next (s.passed 4 ((y.flagged (fcond c.val (f32Of u.addr) (f32Of v.addr)).2).withGuard h
      (fcond c.val (f32Of u.addr) (f32Of v.addr)).1)) := by
  refine issue_me hg ?_
  simp only [useX_of_source ha, useX_setMe hb, bind, Except.bind, raise_setMe, putG_eq, me_setMe, setMe_setMe]
  rfl

/-! ### Capabilities (03 R84-R89) -/

theorem capBinary_of {f : CVal → Dbl → CVal} (hg : s.me.guard g = true) (ha : s.me.source a = some (u, x))
    (hb : x.source b = some (v, y)) (hd : y.result d (f u v.addr) = some z) : capBinary g d a b f s = .next (s.passed 4 z) := by
  refine issue_me hg ?_
  simp only [useC_of_source ha, useX_setMe hb, bind, Except.bind]
  exact putC_setMe hd

/-- A capability narrowed to `n` bytes, in a word of `len` bytes. -/
def capNarrow (len : Nat) (g : Fin 8) (d a : Fin 64) (n : Nat) (s : State) : Out := issue g len s fun s => do
  let (x, s) ← s.useC a
  narrowTo d x n s

theorem capNarrow_of {n : Nat} {c : CVal} (hg : s.me.guard g = true) (ha : s.me.source a = some (u, x))
    (hn : u.narrow n = .ok c) (hd : x.result d c = some z) : capNarrow len g d a n s = .next (s.passed len z) := by
  refine issue_me hg ?_
  simp only [useC_of_source ha, bind, Except.bind, narrowTo, hn]
  exact putC_setMe hd

theorem capNarrow_trap {n : Nat} {r : Trap} (hg : s.me.guard g = true) (ha : s.me.source a = some (u, x))
    (hn : u.narrow n = .error r) : capNarrow len g d a n s = .next (s.takeTrap s.cur.1 s.cur.2 r none) := by
  refine issue_trap hg ?_
  simp only [useC_of_source ha, bind, Except.bind, narrowTo, hn]
  rfl

theorem cbnd_of {c : CVal} (hg : s.me.guard g = true) (ha : s.me.source a = some (u, x)) (hb : x.source b = some (v, y))
    (hn : u.narrow v.addr.toNat = .ok c) (hd : y.result d c = some z) : exec (.cbnd g d a b) s = .next (s.passed 4 z) := by
  refine exec_cbnd.trans (issue_me hg ?_)
  simp only [useC_of_source ha, useX_setMe hb, bind, Except.bind, narrowTo, hn]
  exact putC_setMe hd

theorem cbnd_trap {r : Trap} (hg : s.me.guard g = true) (ha : s.me.source a = some (u, x)) (hb : x.source b = some (v, y))
    (hn : u.narrow v.addr.toNat = .error r) : exec (.cbnd g d a b) s = .next (s.takeTrap s.cur.1 s.cur.2 r none) := by
  refine exec_cbnd.trans (issue_trap hg ?_)
  simp only [useC_of_source ha, useX_setMe hb, bind, Except.bind, narrowTo, hn]
  rfl

end

/-! ### The statements -/

/-- Settles O1: each instruction is of one of four shapes, with the operation that the statement names. -/
theorem scalarIntegerResults : Obligations.ScalarIntegerResults := by
  refine ⟨fun s g d a b u v x y hg ha hb => ⟨?_, ?_⟩,
    fun s g d a i l u x hg => ⟨fun z hd => ?_, fun z hd => ?_, fun ha => ⟨fun z hd => ?_, ?_, ?_⟩⟩⟩
  · refine forall_mem_of_imp (fun p => exec (p.1 g d a b) s = scalar2 g d a b p.2 s) ?_ fun p he z hd =>
      he.trans (scalar2_of hg ha hb hd)
    simp only [List.forall_mem_cons]
    exact ⟨rfl, rfl, rfl, rfl, rfl, rfl, rfl, rfl, rfl, rfl, rfl, rfl, rfl, rfl, rfl, by simp⟩
  · refine forall_mem_of_imp (fun p => exec (p.1 g d a b) s = quad2 g d a b p.2 s) ?_ fun p he z hd =>
      he.trans (quad2_of hg ha hb hd)
    simp only [List.forall_mem_cons]
    exact ⟨rfl, rfl, rfl, rfl, by simp⟩
  · exact issue_me (f := fun s => s.putX d (imm64 i)) hg (putX_of_result hd)
  · exact issue_me (f := fun s => s.putX d (imm64 l)) hg (putX_of_result hd)
  · exact capUnary_of (f := id) hg ha hd
  · refine forall_mem_of_imp (fun p => ∃ f, exec p.1 s = scalar1 p.2.1 g d a f s ∧ f u.addr = p.2.2) ?_
      fun p ⟨f, he, hf⟩ z hd => he.trans (scalar1_of hg ha (hf ▸ hd))
    simp only [List.forall_mem_cons]
    exact ⟨⟨leadZeros, rfl, rfl⟩, ⟨oneBits, rfl, rfl⟩, ⟨sextLow 8, rfl, rfl⟩, ⟨sextLow 16, rfl, rfl⟩, ⟨sextLow 32, rfl, rfl⟩,
      ⟨zextLow 8, rfl, rfl⟩, ⟨zextLow 16, rfl, rfl⟩, ⟨zextLow 32, rfl, rfl⟩, ⟨(· + imm64 i), rfl, rfl⟩, ⟨(· + imm64 l), rfl, rfl⟩,
      ⟨(· <<< i.toNat), rfl, rfl⟩, ⟨(· >>> i.toNat), rfl, rfl⟩, ⟨(·.sshiftRight i.toNat), rfl, rfl⟩,
      ⟨(·.rotateRight i.toNat), rfl, rfl⟩, by simp⟩
  · refine forall_mem_of_imp (fun p => ∃ f, exec p.1 s = quad1 p.2.1 g d a f s ∧ f u.val = p.2.2) ?_
      fun p ⟨f, he, hf⟩ z hd => he.trans (capUnary_of (f := fun c => .plain (f c.val)) hg ha (hf ▸ hd))
    simp only [List.forall_mem_cons]
    exact ⟨⟨(· &&& imm128 i), rfl, rfl⟩, ⟨(· &&& imm128 l), rfl, rfl⟩, ⟨(· ||| imm128 i), rfl, rfl⟩, ⟨(· ||| imm128 l), rfl, rfl⟩,
      ⟨(· ^^^ imm128 i), rfl, rfl⟩, ⟨(· ^^^ imm128 l), rfl, rfl⟩, by simp⟩

/-- Settles O2. -/
theorem compareAndSelectResults : Obligations.CompareAndSelectResults := by
  intro s g c h j k d a b i l u v x y hg
  refine ⟨⟨exec_gnot.trans (guards_of hg), exec_gand.trans (guards_of hg), exec_gor.trans (guards_of hg)⟩, fun ha => ?_⟩
  simp only [← icond_eq]
  exact ⟨exec_cmpi.trans (compareImm_of hg ha), exec_cmpiLiteral.trans (compareImm_of hg ha), fun hb =>
    ⟨exec_cmp.trans (compare2_of hg ha hb), exec_cmpAnd.trans (compare2_of hg ha hb), exec_cmpOr.trans (compare2_of hg ha hb),
     fun z hd => sel_of hg ha hb hd⟩⟩

/-- Settles O3. -/
theorem scalarFloatResults : Obligations.ScalarFloatResults := by
  intro s g c h d a b u v w x y t hg ha f gives
  refine ⟨?_, fun hb => ⟨?_, fcmp_of hg ha hb, fun hw => ⟨fun z hd => ?_, fun z hd => ?_⟩⟩⟩
  · refine forall_mem_of_imp (fun p => ∃ op, exec p.1 s = convert g d a op s ∧ op u.addr = p.2) ?_
      fun p ⟨op, he, hf⟩ z hd => he.trans (convert_of hg ha (hf ▸ hd))
    simp only [List.forall_mem_cons]
    exact ⟨⟨fun n => finish .f32 (fSqrt (f32Of n)), rfl, rfl⟩, ⟨fun n => roundTo .f32 (ofInt n.toInt 0 false) .rne, rfl, rfl⟩,
      ⟨fun n => roundTo .f32 (ofInt n.toNat 0 false) .rne, rfl, rfl⟩,
      ⟨fun n => toInt64 (-(2 ^ 63)) (2 ^ 63 - 1) (f32Of n), rfl, rfl⟩, ⟨fun n => toInt64 0 (2 ^ 64 - 1) (f32Of n), rfl, rfl⟩,
      ⟨fun n => roundTo .bf16 (f32Of n) .rne, rfl, rfl⟩, ⟨fun n => roundTo .f16 (f32Of n) .rne, rfl, rfl⟩,
      ⟨fun n => roundTo .f32 (Fmt.bf16.decode (n.toNat % 2 ^ 16)).1 .rne, rfl, rfl⟩,
      ⟨fun n => roundTo .f32 (Fmt.f16.decode (n.toNat % 2 ^ 16)).1 .rne, rfl, rfl⟩, by simp⟩
  · refine forall_mem_of_imp (fun p => ∃ op, exec p.1 s = float2 g d a b op s ∧ op (f32Of u.addr) (f32Of v.addr) = p.2) ?_
      fun p ⟨op, he, hf⟩ z hd => he.trans (float2_of hg ha hb (hf ▸ hd))
    simp only [List.forall_mem_cons]
    exact ⟨⟨fAdd, rfl, rfl⟩, ⟨fun m n => fAdd m n.negate, rfl, rfl⟩, ⟨fMul, rfl, rfl⟩, ⟨fDiv, rfl, rfl⟩,
      ⟨fMinMax false, rfl, rfl⟩, ⟨fMinMax true, rfl, rfl⟩, by simp⟩
  · exact exec_ffma.trans (floatFma_of (neg := false) (finish .f32 (fFma (f w) (f u) (f v))) hg ha hb hw rfl hd)
  · exact exec_ffmaN.trans (floatFma_of (neg := true) (finish .f32 (fFma (f w) (f u).negate (f v))) hg ha hb hw rfl hd)

/-- Settles O4. -/
theorem capabilityResults : Obligations.CapabilityResults := by
  intro s g d a b i l u v x y hg ha
  refine ⟨?_, ?_, fun hb => ⟨?_, fun n z => cbnd_of hg ha hb, fun r => cbnd_trap hg ha hb⟩⟩
  · refine forall_mem_of_imp (fun p => ∃ f, exec p.1 s = capUnary p.2.1 g d a f s ∧ f u = p.2.2) ?_
      fun p ⟨f, he, hf⟩ z hd => he.trans (capUnary_of hg ha (hf ▸ hd))
    simp only [List.forall_mem_cons]
    exact ⟨⟨fun c => { c with tag := false }, rfl, rfl⟩, ⟨fun c => .plain ((BitVec.ofInt 64 c.base).setWidth 128), rfl, rfl⟩,
      ⟨fun c => .plain ((BitVec.ofInt 65 c.top).setWidth 128), rfl, rfl⟩,
      ⟨fun c => .plain ((BitVec.ofInt 65 (c.top - c.base)).setWidth 128), rfl, rfl⟩,
      ⟨fun c => .plain (BitVec.ofNat 128 (qf c.val 104 16)), rfl, rfl⟩, ⟨fun c => .plain (if c.tag then 1 else 0), rfl, rfl⟩,
      ⟨fun c => c.setAddr (c.addr + imm64 i), rfl, rfl⟩, ⟨fun c => c.setAddr (c.addr + imm64 l), rfl, rfl⟩, by simp⟩
  · refine forall_mem_of_imp (fun p => exec p.1 s = capNarrow p.2.1 g d a p.2.2 s) ?_ fun p he =>
      ⟨fun n z hn hd => he.trans (capNarrow_of hg ha hn hd), fun r hn => he.trans (capNarrow_trap hg ha hn)⟩
    simp only [List.forall_mem_cons]
    exact ⟨rfl, rfl, by simp⟩
  · refine forall_mem_of_imp (fun p => ∃ f, exec p.1 s = capBinary g d a b f s ∧ f u v.addr = p.2) ?_
      fun p ⟨f, he, hf⟩ z hd => he.trans (capBinary_of hg ha hb (hf ▸ hd))
    simp only [List.forall_mem_cons]
    exact ⟨⟨fun c n => c.setAddr (c.addr + n), rfl, rfl⟩, ⟨fun c n => c.setAddr n, rfl, rfl⟩,
      ⟨fun c n => c.cutPerms n.toNat, rfl, rfl⟩, by simp⟩

end Sys2Proof.Machine
end

section
/-! PROOF. Control (03 R75, R90-R96; 01 R32): jumps, branches, repetitions, and the words of `sel` and `nop`. -/

namespace Sys2Proof.Machine

/-! ### Targets (01 R21; 03 R91, R92) -/

/-- The target of an offset field of `n` bits, its signed value written out. -/
theorem target_eq {n k : Nat} (hk : k < 2 ^ n) (pcc : CVal) :
    target pcc n k = pcc.addr + BitVec.ofInt 64 (4 * (if 2 ^ (n - 1) ≤ k then (k : Int) - 2 ^ n else k)) := by
  rw [target, sint, Nat.mod_eq_of_lt hk]

theorem jumpTo_ok {p : CVal} {t : Dbl} (h : p.inBounds t.toNat 4 = true) : jumpTo p t = .ok (p.setAddr t) := if_pos h

theorem jumpTo_capb {p : CVal} {t : Dbl} (h : ¬ p.inBounds t.toNat 4 = true) : jumpTo p t = .error (.trap .capb (some t)) := if_neg h

theorem loadPcc_ok {v : CVal} (h : v.tag = true ∧ v.has .exec = true ∧ v.addr.toNat % 4 = 0 ∧ v.inBounds v.addr.toNat 4 = true) :
    loadPcc v = .ok v := by
  obtain ⟨htag, hexec, halign, hbounds⟩ := h
  simp [loadPcc, htag, hexec, halign, hbounds]

/-- The trap of a register that PCC cannot be loaded from: the first check that fails (03 R92). -/
theorem loadPcc_trap {v : CVal} {r : Trap} (h : r ∈ (if v.tag = false then [Trap.capt] else if v.has .exec = false then [.capp]
      else if v.addr.toNat % 4 ≠ 0 then [.align] else if v.inBounds v.addr.toNat 4 = false then [.capb] else [])) :
    loadPcc v = .error (.trap r (some v.addr)) := by
  unfold loadPcc
  split_ifs at h with htag hexec halign hbounds <;> simp_all

section
variable {s : State} {g h : Fin 8} {a : Fin 64} {v : CVal} {x : Strand}

/-! ### Jumps and branches (03 R91-R93) -/

theorem j_of {o : Fin 4194304} (hg : s.me.guard g = true) (hin : s.me.pcc.inBounds (target s.me.pcc 22 o.val).toNat 4 = true) :
    exec (.j g o) s = .next (s.leapt (s.me.pcc.setAddr (target s.me.pcc 22 o.val)) s.me) := by
  refine exec_j.trans (issueN_jump hg ?_)
  simp only [jumpTo_ok hin, bind, Except.bind, setMe_me]
  rfl

theorem call_of {o : Fin 4194304} {z : Strand} (hg : s.me.guard g = true)
    (hin : s.me.pcc.inBounds (target s.me.pcc 22 o.val).toNat 4 = true)
    (hz : s.me.result 1 (s.me.pcc.setAddr (s.me.pcc.addr + 4)) = some z) :
    exec (.call g o) s = .next (s.leapt (s.me.pcc.setAddr (target s.me.pcc 22 o.val)) z) := by
  refine exec_call.trans (issueN_jump hg ?_)
  simp only [jumpTo_ok hin, bind, Except.bind, putC_of_result hz]
  rfl

theorem j_capb {o : Fin 4194304} (hg : s.me.guard g = true) (hout : ¬ s.me.pcc.inBounds (target s.me.pcc 22 o.val).toNat 4 = true) :
    exec (.j g o) s = .next (s.takeTrap s.cur.1 s.cur.2 .capb (some (target s.me.pcc 22 o.val))) := by
  refine exec_j.trans (issueN_trap hg ?_)
  simp only [jumpTo_capb hout, bind, Except.bind]

theorem call_capb {o : Fin 4194304} (hg : s.me.guard g = true)
    (hout : ¬ s.me.pcc.inBounds (target s.me.pcc 22 o.val).toNat 4 = true) :
    exec (.call g o) s = .next (s.takeTrap s.cur.1 s.cur.2 .capb (some (target s.me.pcc 22 o.val))) := by
  refine exec_call.trans (issueN_trap hg ?_)
  simp only [jumpTo_capb hout, bind, Except.bind]

theorem branch_passed {sense : Bool} {o : Fin 262144} (hg : s.me.guard g = true) (hh : s.me.guard h ≠ sense) :
    branch g h sense o s = .next (s.passed 4 s.me) := by
  refine (issueN_seq hg (if_neg hh)).trans ?_
  rfl

theorem branch_taken {sense : Bool} {o : Fin 262144} (hg : s.me.guard g = true) (hh : s.me.guard h = sense)
    (hin : s.me.pcc.inBounds (target s.me.pcc 18 o.val).toNat 4 = true) :
    branch g h sense o s = .next (s.leapt (s.me.pcc.setAddr (target s.me.pcc 18 o.val)) s.me) := by
  refine issueN_jump hg ((if_pos hh).trans ?_)
  simp only [jumpTo_ok hin, bind, Except.bind, setMe_me]
  rfl

theorem branch_capb {sense : Bool} {o : Fin 262144} (hg : s.me.guard g = true) (hh : s.me.guard h = sense)
    (hout : ¬ s.me.pcc.inBounds (target s.me.pcc 18 o.val).toNat 4 = true) :
    branch g h sense o s = .next (s.takeTrap s.cur.1 s.cur.2 .capb (some (target s.me.pcc 18 o.val))) := by
  refine issueN_trap hg ((if_pos hh).trans ?_)
  simp only [jumpTo_capb hout, bind, Except.bind]

theorem jr_of (hg : s.me.guard g = true) (ha : s.me.source a = some (v, x)) (hp : loadPcc v = .ok v) :
    exec (.jr g a) s = .next (s.leapt v x) := by
  refine exec_jr.trans (issueN_jump hg ?_)
  simp only [useC_of_source ha, hp, bind, Except.bind]
  rfl

theorem jr_trap {r : Trap} (hg : s.me.guard g = true) (ha : s.me.source a = some (v, x))
    (hp : loadPcc v = .error (.trap r (some v.addr))) : exec (.jr g a) s = .next (s.takeTrap s.cur.1 s.cur.2 r (some v.addr)) := by
  refine exec_jr.trans (issueN_trap hg ?_)
  simp only [useC_of_source ha, hp, bind, Except.bind]

theorem ret_of (hg : s.me.guard g = true) (hp : loadPcc (rd s.me.c 1) = .ok (rd s.me.c 1)) :
    exec (.ret g) s = .next (s.leapt (rd s.me.c 1) s.me) := by
  refine exec_ret.trans (issueN_jump hg ?_)
  simp only [show s.me.creg 1 = rd s.me.c 1 from rfl, hp, bind, Except.bind, setMe_me]
  rfl

theorem ret_trap {r : Trap} (hg : s.me.guard g = true)
    (hp : loadPcc (rd s.me.c 1) = .error (.trap r (some (rd s.me.c 1).addr))) :
    exec (.ret g) s = .next (s.takeTrap s.cur.1 s.cur.2 r (some (rd s.me.c 1).addr)) := by
  refine exec_ret.trans (issueN_trap hg ?_)
  simp only [show s.me.creg 1 = rd s.me.c 1 from rfl, hp, bind, Except.bind]

/-! ### Repetitions (01 R32; 03 R94) -/

/-- A strand at the start of `n` rounds of the `l + 1` instructions at `here`. -/
def Strand.repeating (x : Strand) (l : Fin 64) (here : Dbl) (n : Nat) : Strand :=
  { x with rep := some { start := here, next := here, len := l.val + 1, pos := 0, left := n, parked := false } }

variable {len n : Nat} {l : Fin 64} {count : State → Except Stop (Nat × State)}

theorem repeatBody_of (hg : s.me.guard g = true) (hrep : s.me.rep = none) (hcount : count s = .ok (n, s.setMe x))
    (hpcc : x.pcc = s.me.pcc) (hpos : 0 < n) (hle : n ≤ 65535) : repeatBody g len l s count =
      .next (s.passed len (x.repeating l (s.me.pcc.addr + BitVec.ofNat 64 len) n)) := by
  refine (issueN_seq hg (s1 := s.setMe (x.repeating l (s.me.pcc.addr + BitVec.ofNat 64 len) n)) ?_).trans ?_
  · simp only [need, hrep, Option.isNone_none, hcount, hle, decide_true, if_true, bind, Except.bind, Nat.ne_of_gt hpos, if_false,
      updMe_eq, me_setMe, setMe_setMe, hpcc, Strand.repeating]
    rfl
  · simp only [State.passedTo, State.passed, me_setMe, setMe_setMe]

theorem repeatBody_zero (hg : s.me.guard g = true) (hrep : s.me.rep = none) (hcount : count s = .ok (0, s.setMe x))
    (hpcc : x.pcc = s.me.pcc) : repeatBody g len l s count =
      .next (s.leapt (s.me.pcc.withAddr ((s.setMe x).skipWords (l.val + 1) (s.me.pcc.addr + BitVec.ofNat 64 len))) x) := by
  refine issueN_jump hg ?_
  simp only [need, hrep, Option.isNone_none, hcount, Nat.zero_le, decide_true, if_true, bind, Except.bind, me_setMe, hpcc]
  rfl

theorem repeatBody_over (hg : s.me.guard g = true) (hrep : s.me.rep = none) (hcount : count s = .ok (n, s.setMe x))
    (hn : 65535 < n) : repeatBody g len l s count = .next (s.takeTrap s.cur.1 s.cur.2 .ill none) := by
  refine issueN_trap hg ?_
  simp only [need, hrep, Option.isNone_none, hcount, Nat.not_le.mpr hn, decide_false, if_true, bind, Except.bind, Bool.false_eq_true,
    if_false]
  rfl

theorem repeatBody_nested (hg : s.me.guard g = true) (hrep : s.me.rep ≠ none) :
    repeatBody g len l s count = .next (s.takeTrap s.cur.1 s.cur.2 .ill none) := by
  refine issueN_trap hg ?_
  simp only [need, Option.isNone_eq_false_iff.mpr (Option.isSome_iff_ne_none.mpr hrep), Bool.false_eq_true, if_false, bind, Except.bind]
  rfl

end

theorem nop_passes (s : State) (g : Fin 8) : exec (.nop g) s = .next (s.passed 4 s.me) := by
  cases hg : s.me.guard g with
  | false => exact off_nop s g hg
  | true => exact exec_nop.trans (issue_me hg (by rw [setMe_me]))

/-- Settles O5. -/
theorem controlResults : Obligations.ControlResults := by
  constructor
  · intro s g h a o q v x hg pcc near inside
    have hj : near 22 o.val = target pcc 22 o.val := (target_eq o.isLt pcc).symm
    have hb : near 18 q.val = target pcc 18 q.val := (target_eq q.isLt pcc).symm
    rw [hj, hb]
    refine ⟨fun hin => ⟨j_of hg hin, fun z => call_of hg hin⟩, fun hout => ⟨j_capb hg hout, call_capb hg hout⟩, ?_, ?_⟩
    · refine forall_mem_of_imp (fun p => exec p.1 s = branch g h p.2 q s) ?_ fun p he =>
        ⟨fun hh => he.trans (branch_passed hg hh), fun hh hin => he.trans (branch_taken hg hh hin),
         fun hh hout => he.trans (branch_capb hg hh hout)⟩
      simp only [List.forall_mem_cons]
      exact ⟨rfl, rfl, by simp⟩
    · exact ⟨fun ha => ⟨fun hgood => jr_of hg ha (loadPcc_ok hgood), fun r hr => jr_trap hg ha (loadPcc_trap hr)⟩,
        fun hgood => ret_of hg (loadPcc_ok hgood), fun r hr => ret_trap hg (loadPcc_trap hr)⟩
  · intro s g l a i w v x hg ha body
    refine ⟨nop_passes s g, fun hrep => ?_, fun hrep => ?_⟩
    · refine forall_mem_of_imp (fun p => ∃ count, exec p.1 s = repeatBody g p.2.1 l s count ∧
        count s = .ok (p.2.2.1, s.setMe p.2.2.2) ∧ p.2.2.2.pcc = s.me.pcc) ?_ fun p ⟨count, he, hcount, hpcc⟩ =>
          ⟨fun ⟨hpos, hle⟩ => he.trans (repeatBody_of hg hrep hcount hpcc hpos hle),
           fun hz => he.trans (repeatBody_zero hg hrep (hz ▸ hcount) hpcc), fun hn => he.trans (repeatBody_over hg hrep hcount hn)⟩
      simp only [List.forall_mem_cons]
      exact ⟨⟨fun s => .ok (i.toNat, s), rfl, congrArg (fun t => Except.ok (i.toNat, t)) (setMe_me s).symm, trivial⟩,
        ⟨fun s => .ok (w.toNat, s), rfl, congrArg (fun t => Except.ok (w.toNat, t)) (setMe_me s).symm, trivial⟩,
        ⟨fun s => (s.useX a).map (fun p => (p.1.toNat, p.2)), rfl,
          congrArg (Except.map fun p => (p.1.toNat, p.2)) (useX_of_source ha), source_pcc ha⟩, by simp⟩
    · simp only [List.forall_mem_cons]
      exact ⟨exec_rep.trans (repeatBody_nested hg hrep), exec_repLiteral.trans (repeatBody_nested hg hrep),
        exec_repReg.trans (repeatBody_nested hg hrep), by simp⟩

/-! ### The words of `sel` and `nop` (01 R18, R19, R33) -/

/-- A word whose major has no instruction for it is reserved. -/
theorem decode_reserved {w lit : Nat} (hw : w ≠ 0) (hm : unassigned (majorOf w) = false) (h : decodeMajor (majorOf w) w lit = none) :
    decode w lit = .error .reserved := by
  simp only [decode, hw, hm, h, Bool.false_eq_true, if_false]

theorem decode_of_major {w lit : Nat} {i : Instr} (hw : w ≠ 0) (hm : unassigned (majorOf w) = false)
    (h : decodeMajor (majorOf w) w lit = some i) (hi : i.wellFormed = true) : decode w lit = .ok i := by
  simp only [decode, hw, hm, h, hi, Bool.false_eq_true, if_false, if_true]

/-- Settles O58. -/
theorem selectCopiesWhole : Obligations.SelectCopiesWhole := by
  refine ⟨fun s g h d a b u v x y z => ⟨sel_of, off_sel s g d a b h⟩, fun g h d a b => congrArg (fun n => [n]) ?_, fun w hm hf => ?_⟩
  · simp only [pack, List.foldl_cons, List.foldl_nil]
    omega
  · refine decode_reserved (fun hw => ?_) (by rw [hm]; rfl) ?_
    · subst hw; exact absurd hm (by decide)
    · have hne : ¬ fld w 3 1 = 0 := by omega
      rw [hm]
      exact if_neg hne

/-- Settles O59. -/
theorem nopCountsOneSlot : Obligations.NopCountsOneSlot := by
  refine ⟨nop_passes, fun g => ?_, fun w hm hf => ?_⟩
  · have hwords : ∀ g : Fin 8, dec1D (g.val * 2 ^ 29 + 0x07400000) = some (.nop g) ∧
        majorOf (g.val * 2 ^ 29 + 0x07400000) = 0x1D := by decide
    obtain ⟨hd, hm⟩ := hwords g
    refine decode_of_major (by omega) (by rw [hm]; rfl) ?_ rfl
    rw [hm, Laws.RoundTrip.major1D, hd]
  · refine decode_reserved (fun hw => ?_) (by rw [hm]; rfl) ?_
    · subst hw; exact absurd hm (by decide)
    · rw [hm]
      exact if_neg hf

end Sys2Proof.Machine
end

section
/-! PROOF. What register instructions and stores leave alone (01 R14; 03 R65-R75, R77-R81, R88, R89; 04 R106). -/

namespace Sys2Proof.Machine

/-! ### Register instructions, by the laws of Sys2Proof/Laws/Frame.lean -/

/-- What an outcome leaves alone: memory, and, where its traps go to a handler, all but c destination `d` and what
`State.Keeps` names beside it; FFLAGS too where `fl` says so. -/
def State.Calm (d : Fin 64) (fl : Bool) (s : State) (o : Out) : Prop :=
  ∀ t, o = .next t →
    t.stored = s.stored ∧ (s.me.trapsTo = true → s.Keeps d t ∧ (fl = true → t.me.fflags = s.me.fflags))

theorem State.Calm.loosen {d : Fin 64} {s : State} {o : Out} (h : s.Calm d true o) : s.Calm d false o := by
  intro t ht
  obtain ⟨hstored, hk⟩ := h t ht
  exact ⟨hstored, fun htrap => ⟨(hk htrap).1, by simp⟩⟩

theorem issue_calm {d : Fin 64} {fl : Bool} {g : Fin 8} {len : Nat} {s : State} {f : State → Except Stop State}
    (h : s.Quiet d fl (f s)) : s.Calm d fl (issue g len s f) := fun _ ht => issue_quiet h ht

theorem narrowTo_quiet (d : Fin 64) (c : CVal) (n : Nat) (s : State) : s.Quiet d true (narrowTo d c n s) := by
  unfold narrowTo
  split
  · exact putC_quiet ..
  · exact .inr (.inl ⟨_, _, rfl⟩)

theorem putF_quiet (d : Fin 64) (s : State) (r : Nat × Nat) : s.Quiet d false (s.putF d r) := quiet_raise (putC_quiet' _ _ _ _)

section
variable {s : State} {g h : Fin 8} {d a b : Fin 64} {len : Nat}

variable {o : Out}

theorem put_calm {v : CVal} (ho : o = issue g len s (fun s => s.putC d v)) : s.Calm d true o :=
  ho ▸ issue_calm (putC_quiet ..)

theorem scalar1_calm {f : Dbl → Dbl} (ho : o = scalar1 len g d a f s) : s.Calm d true o :=
  ho ▸ issue_calm (quiet_bindX fun _ _ _ => putC_quiet ..)

theorem scalar2_calm {f : Dbl → Dbl → Dbl} (ho : o = scalar2 g d a b f s) : s.Calm d true o :=
  ho ▸ issue_calm (quiet_bindX fun _ _ _ => quiet_bindX fun _ _ _ => putC_quiet ..)

theorem capUnary_calm {f : CVal → CVal} (ho : o = capUnary len g d a f s) : s.Calm d true o :=
  ho ▸ issue_calm (quiet_bindC fun _ _ _ => putC_quiet ..)

theorem quad1_calm {f : Quad → Quad} (ho : o = quad1 len g d a f s) : s.Calm d true o :=
  ho ▸ issue_calm (quiet_bindC fun _ _ _ => putC_quiet ..)

theorem quad2_calm {f : Quad → Quad → Quad} (ho : o = quad2 g d a b f s) : s.Calm d true o :=
  ho ▸ issue_calm (quiet_bindC fun _ _ _ => quiet_bindC fun _ _ _ => putC_quiet ..)

theorem sel_calm (ho : o = execSel g d a b h s) : s.Calm d true o :=
  ho ▸ issue_calm (quiet_bindC fun _ _ _ => quiet_bindC fun _ _ _ => putC_quiet ..)

theorem capBinary_calm {f : CVal → Dbl → CVal} (ho : o = capBinary g d a b f s) : s.Calm d true o :=
  ho ▸ issue_calm (quiet_bindC fun _ _ _ => quiet_bindX fun _ _ _ => putC_quiet ..)

theorem capNarrow_calm {n : Nat} (ho : o = capNarrow len g d a n s) : s.Calm d true o :=
  ho ▸ issue_calm (quiet_bindC fun _ _ _ => narrowTo_quiet ..)

theorem cbnd_calm (ho : o = execCbnd g d a b s) : s.Calm d true o :=
  ho ▸ issue_calm (quiet_bindC fun _ _ _ => quiet_bindX fun _ _ _ => narrowTo_quiet ..)

theorem convert_calm {f : Dbl → Nat × Nat} (ho : o = convert g d a f s) : s.Calm d false o :=
  ho ▸ issue_calm (quiet_bindX fun _ _ _ => putF_quiet ..)

theorem float2_calm {f : FVal → FVal → FVal × Nat} (ho : o = float2 g d a b f s) : s.Calm d false o :=
  ho ▸ issue_calm (quiet_bindX fun _ _ _ => quiet_bindX fun _ _ _ => putF_quiet ..)

theorem floatFma_calm {neg : Bool} (ho : o = floatFma neg g d a b s) : s.Calm d false o :=
  ho ▸ issue_calm (quiet_bindX fun _ _ _ => quiet_bindX fun _ _ _ => quiet_bindX fun _ _ _ => putF_quiet ..)

end

/-! ### Reading operands -/

/-- A read of an operand: a value and the ports it pops, or a trap or a wait. -/
def State.Reads {α : Type} (s : State) (r : Except Stop (α × State)) : Prop :=
  (∃ v y, r = .ok (v, s.setMe y) ∧ s.me.Popped y) ∨ (∃ t a, r = .error (.trap t a)) ∨
  ∃ y, r = .error (.wait (s.setMe y)) ∧ s.me.Popped y

section
variable {α β : Type} {s : State} {y : Strand} {r : Except Stop (α × State)}

/-- A read after others. -/
theorem State.Reads.after (h : s.me.Popped y) (hr : (s.setMe y).Reads r) : s.Reads r := by
  unfold State.Reads at hr
  simp only [me_setMe, setMe_setMe] at hr
  obtain ⟨v, z, rfl, hz⟩ | ⟨t, a, rfl⟩ | ⟨z, rfl, hz⟩ := hr
  · exact .inl ⟨v, z, rfl, h.trans hz⟩
  · exact .inr (.inl ⟨t, a, rfl⟩)
  · exact .inr (.inr ⟨z, rfl, h.trans hz⟩)

/-- What follows a read, whatever it answers. -/
theorem State.Reads.bind (M : Except Stop β → Prop) {k : α × State → Except Stop β} (hr : s.Reads r)
    (htrap : ∀ t a, M (.error (.trap t a))) (hwait : ∀ y, s.me.Popped y → M (.error (.wait (s.setMe y))))
    (h : ∀ v y, s.me.Popped y → M (k (v, s.setMe y))) : M (r >>= k) := by
  obtain ⟨v, y, rfl, hy⟩ | ⟨t, a, rfl⟩ | ⟨y, rfl, hy⟩ := hr
  · exact h v y hy
  · exact htrap t a
  · exact hwait y hy

end

theorem useC_reads (s : State) (i : Fin 64) : s.Reads (s.useC i) := by
  obtain ⟨v, l, e, m, h⟩ | ⟨t, a, h⟩ | h := useC_cases s i <;> rw [h]
  · exact .inl ⟨v, _, rfl, _, s.me.stq, _, s.me.vldq, s.me.vstq, _, rfl⟩
  · exact .inr (.inl ⟨t, a, rfl⟩)
  · exact .inr (.inr ⟨s.me, by rw [setMe_me], .refl _⟩)

theorem useX_reads (s : State) (i : Fin 64) : s.Reads (s.useX i) := by
  unfold State.useX
  obtain ⟨v, y, h, hy⟩ | ⟨t, a, h⟩ | ⟨y, h, hy⟩ := useC_reads s i <;> rw [h]
  · exact .inl ⟨v.addr, y, rfl, hy⟩
  · exact .inr (.inl ⟨t, a, rfl⟩)
  · exact .inr (.inr ⟨y, rfl, hy⟩)

theorem reads_me {α : Type} (s : State) (v : α) : s.Reads (.ok (v, s)) := .inl ⟨v, s.me, by rw [setMe_me], .refl _⟩

theorem useV_reads (s : State) (i : Fin 32) : s.Reads (s.useV i) := by
  unfold State.useV
  dsimp only
  split_ifs
  · split
    · exact .inl ⟨_, _, rfl, s.me.ldq, s.me.stq, s.me.engq, _, s.me.vstq, s.me.msg, rfl⟩
    · exact .inr (.inl ⟨_, _, rfl⟩)
  · exact .inr (.inl ⟨_, _, rfl⟩)
  · exact reads_me ..

theorem useStoreC_reads (s : State) (i : Fin 64) : s.Reads (s.useStoreC i) := by
  unfold State.useStoreC
  split_ifs
  · split
    · exact .inl ⟨_, _, rfl, s.me.ldq, _, s.me.engq, s.me.vldq, s.me.vstq, s.me.msg, rfl⟩
    · exact .inr (.inl ⟨_, _, rfl⟩)
  · exact useC_reads ..

theorem useStoreV_reads (s : State) (i : Fin 32) : s.Reads (s.useStoreV i) := by
  unfold State.useStoreV
  split_ifs
  · split
    · exact .inl ⟨_, _, rfl, s.me.ldq, s.me.stq, s.me.engq, s.me.vldq, _, s.me.msg, rfl⟩
    · exact .inr (.inl ⟨_, _, rfl⟩)
  · exact useV_reads ..

/-! ### Instructions that write a guard -/

/-- `y` has the registers of `x`, but for guard `h`; its FFLAGS too where `fl` says so. -/
structure Strand.GuardOnly (h : Fin 8) (fl : Bool) (x y : Strand) : Prop where
  c : y.c = x.c
  v : y.v = x.v
  m : y.m = x.m
  geo : y.geo = x.geo
  xgeo : y.xgeo = x.xgeo
  guard : ∀ r : Fin 8, r ≠ h → y.guard r = x.guard r
  fflags : fl = true → y.fflags = x.fflags

/-- An effect that writes guard `h` of the running strand alone, or traps or waits. -/
def State.Guards (h : Fin 8) (fl : Bool) (s : State) (r : Except Stop State) : Prop :=
  (∃ y, r = .ok (s.setMe y) ∧ s.me.GuardOnly h fl y) ∨ (∃ t a, r = .error (.trap t a)) ∨
  ∃ y, r = .error (.wait (s.setMe y)) ∧ s.me.GuardOnly h fl y

/-- What an outcome that writes guard `h` alone leaves alone. -/
structure State.GuardWritten (h : Fin 8) (fl : Bool) (s t : State) : Prop where
  clusters : t.clusters = s.clusters
  homes : t.homes = s.homes
  others : ∀ (c : CoreId) (k : SlotId), (c, k) ≠ s.cur → t.strand c k = s.strand c k
  me : s.me.GuardOnly h fl t.me

section
variable {h : Fin 8} {fl : Bool} {s t : State} {x y : Strand}

theorem Strand.Popped.guardOnly (hp : x.Popped y) : x.GuardOnly h fl y := by
  obtain ⟨_, _, _, _, _, _, rfl⟩ := hp
  exact ⟨rfl, rfl, rfl, rfl, rfl, fun _ _ => rfl, fun _ => rfl⟩

theorem Strand.Popped.guardOnly_withGuard (hp : x.Popped y) (b : Bool) : x.GuardOnly h fl (y.withGuard h b) := by
  obtain ⟨_, _, _, _, _, _, rfl⟩ := hp
  unfold Strand.withGuard
  split
  · exact ⟨rfl, rfl, rfl, rfl, rfl, fun _ _ => rfl, fun _ => rfl⟩
  · refine ⟨rfl, rfl, rfl, rfl, rfl, fun r hr => ?_, fun _ => rfl⟩
    rw [Strand.guard, rd_wr_ne _ _ hr, Strand.guard]

theorem Strand.Popped.guardOnly_flagged (hp : x.Popped y) (n : Nat) (b : Bool) :
    x.GuardOnly h false ((y.flagged n).withGuard h b) := by
  obtain ⟨hc, hv, hm, hgeo, hxgeo, hguard, -⟩ := hp.guardOnly_withGuard (h := h) (fl := false) b
  unfold Strand.withGuard at *
  split
  · rename_i h0
    simp only [h0, if_true] at *
    exact ⟨hc, hv, hm, hgeo, hxgeo, hguard, by simp⟩
  · rename_i h0
    simp only [h0, if_false] at *
    exact ⟨hc, hv, hm, hgeo, hxgeo, hguard, by simp⟩

/-- A strand stored that agrees but for the guard, and for what goes on with every instruction. -/
theorem guardWritten_setMe (n : Nat) (hy : s.me.GuardOnly h fl y) (hc : x.c = y.c) (hv : x.v = y.v) (hm : x.m = y.m)
    (hgeo : x.geo = y.geo) (hxgeo : x.xgeo = y.xgeo) (hg : x.g = y.g) (hfl : x.fflags = y.fflags) :
    s.GuardWritten h fl (({ s with freshN := n } : State).setMe x) := by
  refine ⟨rfl, rfl, fun c k hne => setMe_strand_ne ({ s with freshN := n } : State) x hne, ?_⟩
  rw [me_setMe]
  refine ⟨hc.trans hy.c, hv.trans hy.v, hm.trans hy.m, hgeo.trans hy.geo, hxgeo.trans hy.xgeo, fun r hr => ?_,
    fun hf => hfl.trans (hy.fflags hf)⟩
  rw [← hy.guard r hr, Strand.guard, Strand.guard, hg]

/-- An instruction whose effect writes a guard alone. -/
theorem issue_guards {g : Fin 8} {len : Nat} {f : State → Except Stop State} (hf : s.Guards h fl (f s))
    (ht : issue g len s f = .next t) : t.stored = s.stored ∧ (s.me.trapsTo = true → s.GuardWritten h fl t) := by
  by_cases hg : s.me.guard g = true
  · obtain ⟨y, hr, hy⟩ | ⟨p, va, hr⟩ | ⟨y, hr, hy⟩ := hf
    · rw [issue_me hg hr] at ht
      obtain rfl := Host.Outcome.next.inj ht
      refine ⟨rfl, fun _ => guardWritten_setMe s.freshN hy ?_ ?_ ?_ ?_ ?_ ?_ ?_⟩ <;> rw [pass_keeps]
    · rw [issue_trap hg hr] at ht
      obtain rfl := Host.Outcome.next.inj ht
      refine ⟨stored_takeTrap .., fun htrap => ?_⟩
      simp only [Strand.trapsTo, Bool.and_eq_true, Bool.not_eq_true'] at htrap
      obtain ⟨⟨htag, hexec⟩, hact⟩ := htrap
      rw [takeTrap_vector htag hexec hact]
      exact guardWritten_setMe (s.freshN + 1) (Strand.Popped.refl s.me).guardOnly rfl rfl rfl rfl rfl rfl rfl
    · rw [issue_wait hg hr] at ht
      obtain rfl := Host.Outcome.next.inj ht
      rw [setMe_setMe, me_setMe]
      exact ⟨rfl, fun _ => guardWritten_setMe s.freshN hy rfl rfl rfl rfl rfl rfl rfl⟩
  · rw [issue_off (by simpa using hg)] at ht
    obtain rfl := Host.Outcome.next.inj ht
    refine ⟨rfl, fun _ => guardWritten_setMe s.freshN (Strand.Popped.refl s.me).guardOnly ?_ ?_ ?_ ?_ ?_ ?_ ?_⟩ <;> rw [pass_keeps]

/-- The effect after a read of an operand. -/
theorem guards_bind {α : Type} {r : Except Stop (α × State)} {k : α × State → Except Stop State} (hr : s.Reads r)
    (hk : ∀ v y, s.me.Popped y → s.Guards h fl (k (v, s.setMe y))) : s.Guards h fl (r >>= k) :=
  hr.bind (s.Guards h fl) (fun p va => .inr (.inl ⟨p, va, rfl⟩)) (fun y hy => .inr (.inr ⟨y, rfl, hy.guardOnly⟩)) hk

theorem putG_guards (hp : s.me.Popped y) (b : Bool) : s.Guards h fl (.ok ((s.setMe y).putG h b)) :=
  .inl ⟨y.withGuard h b, by rw [putG_eq, me_setMe, setMe_setMe], hp.guardOnly_withGuard b⟩

end

/-- What an instruction that writes guard `h` alone leaves alone. -/
def State.GuardCalm (h : Fin 8) (fl : Bool) (s : State) (o : Out) : Prop :=
  ∀ t, o = .next t → t.stored = s.stored ∧ (s.me.trapsTo = true → s.GuardWritten h fl t)

section
variable {s : State} {g c h : Fin 8} {a b : Fin 64} {len : Nat}

variable {o : Out}

theorem guards_calm {f : Strand → Bool} (ho : o = guards g h f s) : s.GuardCalm h true o := by
  subst ho
  refine fun t => issue_guards ?_
  have hput := putG_guards (h := h) (fl := true) (Strand.Popped.refl s.me) (f s.me)
  rwa [setMe_me] at hput

theorem compareImm_calm {n : Dbl} (ho : o = compareImm len g c h a n s) : s.GuardCalm h true o := by
  subst ho
  exact fun _ => issue_guards (guards_bind (useX_reads s a) fun _ _ hy => putG_guards hy _)

theorem compare2_calm {k : Bool → Bool → Bool} (ho : o = compare2 g c h a b k s) : s.GuardCalm h true o := by
  subst ho
  exact fun _ => issue_guards (guards_bind (useX_reads s a) fun _ y hy =>
    guards_bind ((useX_reads (s.setMe y) b).after hy) fun _ _ hz => putG_guards hz _)

theorem fcmp_calm (ho : o = execFcmp g c h a b s) : s.GuardCalm h false o := by
  subst ho
  exact fun _ => issue_guards (guards_bind (useX_reads s a) fun _ y hy =>
    guards_bind ((useX_reads (s.setMe y) b).after hy) fun _ z hz =>
      .inl ⟨_, by simp only [raise_setMe, putG_eq, me_setMe, setMe_setMe]; rfl, hz.guardOnly_flagged _ _⟩)

end

/-! ### Stores -/

/-- An effect that leaves memory as it is: it completes, traps, stalls or waits, and takes no upcall. -/
def State.Posts (s : State) (r : Except Stop State) : Prop :=
  (∃ t, r = .ok t ∧ t.stored = s.stored) ∨ (∃ t a, r = .error (.trap t a)) ∨ r = .error .stall ∨
  ∃ t, r = .error (.wait t) ∧ t.stored = s.stored

section
variable {s t : State} {y : Strand}

theorem issue_posts {g : Fin 8} {len : Nat} {f : State → Except Stop State} (hf : s.Posts (f s))
    (ht : issue g len s f = .next t) : t.stored = s.stored := by
  by_cases hg : s.me.guard g = true
  · simp only [issue, issueN, hg] at ht
    obtain ⟨u, hr, hu⟩ | ⟨p, va, hr⟩ | hr | ⟨u, hr, hu⟩ := hf <;> simp only [hr] at ht <;> obtain rfl := Host.Outcome.next.inj ht
    · exact hu
    · exact stored_takeTrap ..
    · rfl
    · exact hu
  · rw [issue_off (by simpa using hg)] at ht
    obtain rfl := Host.Outcome.next.inj ht
    rfl

theorem posts_bind {α : Type} {r : Except Stop (α × State)} {k : α × State → Except Stop State} (hr : s.Reads r)
    (hk : ∀ v y, s.me.Popped y → s.Posts (k (v, s.setMe y))) : s.Posts (r >>= k) :=
  hr.bind s.Posts (fun p va => .inr (.inl ⟨p, va, rfl⟩)) (fun _ _ => .inr (.inr (.inr ⟨_, rfl, rfl⟩))) hk

/-- A check that answers a trap where it fails. -/
def TrapsOnly (r : Except Stop Unit) : Prop := r = .ok () ∨ ∃ t a, r = .error (.trap t a)

theorem posts_check {r : Except Stop Unit} {k : Unit → Except Stop State} (hr : TrapsOnly r) (hk : s.Posts (k ())) :
    s.Posts (r >>= k) := by
  obtain rfl | ⟨p, va, rfl⟩ := hr
  · exact hk
  · exact .inr (.inl ⟨p, va, rfl⟩)

theorem need_trapsOnly (b : Bool) (p : Trap) : TrapsOnly (need b p) := by
  cases b
  · exact .inr ⟨p, none, rfl⟩
  · exact .inl rfl

theorem checkAccess_trapsOnly (s : State) (c : CVal) (ps : List Perm) (va : Dbl) (n al : Nat) (k : Bool) :
    TrapsOnly (s.checkAccess c ps va n al k) := by
  unfold State.checkAccess
  split_ifs
  case neg => exact .inl rfl
  all_goals exact .inr ⟨_, _, rfl⟩

theorem checkLanes_trapsOnly (s : State) (c : CVal) (p : Perm) (vas : List Dbl) : TrapsOnly (s.checkLanes c p vas) := by
  unfold State.checkLanes
  split_ifs
  case pos => exact .inl rfl
  case neg =>
    repeat' split
    all_goals first | exact .inl rfl | exact .inr ⟨_, _, rfl⟩
  all_goals exact .inr ⟨_, _, rfl⟩

/-- Whether a strand is speculative is told by its work. -/
theorem specOf_none_of_work {x : Strand} (h : x.work = y.work) (hs : s.specOf y = none) : s.specOf x = none := by
  unfold State.specOf at *
  rw [h]
  cases ht : y.work.task with
  | none => rfl
  | some id =>
    simp only [ht] at hs ⊢
    split_ifs at hs ⊢
    · rfl
    · cases hid : s.task id <;> simp_all

/-- A store of a strand that is not speculative is posted, or stalls (04 R106). -/
theorem store_posts {cap : CVal} {va : Dbl} {parts : List (Dbl × List Byte)} {tagged : List Dbl} (hs : s.specOf s.me = none)
    (hy : y.work = s.me.work) : s.Posts ((s.setMe y).store s.cur.1 s.cur.2 cap va parts tagged) := by
  have hspec : (s.setMe y).specOf ((s.setMe y).strand s.cur.1 s.cur.2) = none := by
    rw [show (s.setMe y).strand s.cur.1 s.cur.2 = y from me_setMe s y]
    exact specOf_none_of_work hy hs
  unfold State.store
  rw [hspec]
  dsimp only
  unfold State.postAccess
  split_ifs
  · exact .inr (.inr (.inl rfl))
  · exact .inl ⟨_, rfl, rfl⟩

theorem storeLanes_posts {cap : CVal} {v : VReg} {lanes : List (Nat × Dbl)} (hs : s.specOf s.me = none)
    (hy : y.work = s.me.work) : s.Posts ((s.setMe y).storeLanes cap v lanes) := by
  unfold State.storeLanes
  split_ifs
  · exact .inl ⟨_, rfl, rfl⟩
  · exact store_posts hs hy

end

section
variable {s : State} {g m : Fin 8} {r b o : Fin 64} {n : Fin 32} {e : Fin 4} {len k : Nat} {off : Dbl} {out : Out} {t : State}
  (hs : s.specOf s.me = none)
include hs

theorem scalarStore_stored (ho : out = scalarStore g len r b off k s) (ht : out = .next t) : t.stored = s.stored :=
  issue_posts (posts_bind (useC_reads s b) fun _ y hy => posts_bind ((useStoreC_reads (s.setMe y) r).after hy) fun _ _ hz =>
    posts_check (checkAccess_trapsOnly ..) (store_posts hs hz.work)) (ho.symm.trans ht)

theorem capStore_stored (ho : out = capStore g len r b off s) (ht : out = .next t) : t.stored = s.stored :=
  issue_posts (posts_bind (useC_reads s b) fun _ y hy => posts_bind ((useStoreC_reads (s.setMe y) r).after hy) fun _ _ hz =>
    posts_check (checkAccess_trapsOnly ..) (store_posts hs hz.work)) (ho.symm.trans ht)

theorem queueStore_stored (ho : out = queueStore g len k b off s) (ht : out = .next t) : t.stored = s.stored :=
  issue_posts (posts_bind (useC_reads s b) fun _ y hy => posts_check (need_trapsOnly ..) <| posts_check (checkAccess_trapsOnly ..) <| by
    rw [updMe_eq, me_setMe, setMe_setMe]
    exact store_posts hs hy.work) (ho.symm.trans ht)

theorem stm_stored (ho : out = execStm g r b o s) (ht : out = .next t) : t.stored = s.stored :=
  issue_posts (posts_bind (useC_reads s b) fun _ _ hy => posts_check (checkAccess_trapsOnly ..) (store_posts hs hy.work)) (ho.symm.trans ht)

theorem vectorStore_stored (ho : out = vectorStore g len n b m off s) (ht : out = .next t) : t.stored = s.stored :=
  issue_posts (posts_bind (useC_reads s b) fun _ y hy => posts_bind ((useStoreV_reads (s.setMe y) n).after hy) fun _ _ hz =>
    posts_check (checkLanes_trapsOnly ..) (storeLanes_posts hs hz.work)) (ho.symm.trans ht)

theorem vsts_stored (ho : out = execVsts g n r b e s) (ht : out = .next t) : t.stored = s.stored :=
  issue_posts (posts_bind (useC_reads s r) fun _ y hy => posts_bind ((useX_reads (s.setMe y) b).after hy) fun _ z hz =>
    posts_bind ((useStoreV_reads (s.setMe z) n).after hz) fun _ _ hw =>
      posts_check (checkLanes_trapsOnly ..) (storeLanes_posts hs hw.work)) (ho.symm.trans ht)

theorem vstx_stored (ho : out = execVstx g n b n e s) (ht : out = .next t) : t.stored = s.stored :=
  issue_posts (posts_bind (useC_reads s b) fun _ y hy => posts_bind ((useV_reads (s.setMe y) n).after hy) fun _ z hz =>
    posts_bind ((useStoreV_reads (s.setMe z) n).after hz) fun _ _ hw =>
      posts_check (checkLanes_trapsOnly ..) (storeLanes_posts hs hw.work)) (ho.symm.trans ht)

end

/-! ### The statement -/

theorem mem_tags_poison_of_stored {s t : State} (h : t.stored = s.stored) : t.mem = s.mem ∧ t.tags = s.tags ∧ t.poison = s.poison := by
  simpa only [State.stored, Prod.mk.injEq] using h

/-- What a calm register instruction leaves, as the statement lists it. -/
theorem calm_frame {s t : State} {d : Fin 64} {o : Out} (h : s.Calm d false o) (ht : o = .next t) :
    t.mem = s.mem ∧ t.tags = s.tags ∧ t.poison = s.poison ∧
    (s.me.trapsTo = true →
      (∀ (c : CoreId) (k : SlotId), (c, k) ≠ s.cur → t.strand c k = s.strand c k) ∧
      t.me.v = s.me.v ∧ t.me.g = s.me.g ∧ t.me.m = s.me.m ∧ t.me.geo = s.me.geo ∧ t.me.xgeo = s.me.xgeo ∧
      (∀ r : Fin 64, r ≠ d → t.me.creg r = s.me.creg r) ∧ t.clusters = s.clusters ∧ t.homes = s.homes) := by
  obtain ⟨hstored, hkeeps⟩ := h t ht
  obtain ⟨hmem, htags, hpoison⟩ := mem_tags_poison_of_stored hstored
  refine ⟨hmem, htags, hpoison, fun htrap => ?_⟩
  obtain ⟨hk, -⟩ := hkeeps htrap
  exact ⟨hk.others, hk.v, hk.g, hk.m, hk.geo, hk.xgeo, hk.c, hk.clusters, hk.homes⟩

/-- What an instruction that writes a guard leaves, as the statement lists it. -/
theorem guardCalm_frame {s t : State} {h : Fin 8} {fl : Bool} {o : Out} (hc : s.GuardCalm h fl o) (ht : o = .next t) :
    t.mem = s.mem ∧ t.tags = s.tags ∧ t.poison = s.poison ∧
    (s.me.trapsTo = true →
      (∀ (c : CoreId) (k : SlotId), (c, k) ≠ s.cur → t.strand c k = s.strand c k) ∧
      t.me.c = s.me.c ∧ t.me.v = s.me.v ∧ t.me.m = s.me.m ∧ t.me.geo = s.me.geo ∧ t.me.xgeo = s.me.xgeo ∧
      t.clusters = s.clusters ∧ t.homes = s.homes ∧ (∀ r : Fin 8, r ≠ h → t.me.guard r = s.me.guard r) ∧
      (fl = true → t.me.fflags = s.me.fflags)) := by
  obtain ⟨hstored, hkeeps⟩ := hc t ht
  obtain ⟨hmem, htags, hpoison⟩ := mem_tags_poison_of_stored hstored
  refine ⟨hmem, htags, hpoison, fun htrap => ?_⟩
  obtain ⟨hclusters, hhomes, hothers, hme⟩ := hkeeps htrap
  exact ⟨hothers, hme.c, hme.v, hme.m, hme.geo, hme.xgeo, hclusters, hhomes, hme.guard, hme.fflags⟩

/-- Settles O57. -/
theorem instructionFrames : Obligations.InstructionFrames := by
  constructor
  · intro s t g c h k d a b i l integer float guards
    have hinteger : ∀ j ∈ integer, s.Calm d true (exec j s) := by
      simp only [integer, List.forall_mem_cons]
      exact ⟨scalar2_calm exec_add, scalar2_calm exec_sub, quad2_calm exec_and, quad2_calm exec_or, quad2_calm exec_xor,
        quad2_calm exec_andn, scalar2_calm exec_sll, scalar2_calm exec_srl, scalar2_calm exec_sra, scalar2_calm exec_rot,
        scalar2_calm exec_min, scalar2_calm exec_max, scalar2_calm exec_mul, scalar2_calm exec_mulh,
        scalar2_calm exec_mulhU, scalar2_calm exec_div, scalar2_calm exec_divU, scalar2_calm exec_rem,
        scalar2_calm exec_remU, scalar1_calm exec_clz, scalar1_calm exec_popc, capUnary_calm (f := id) exec_mov,
        scalar1_calm exec_sextB, scalar1_calm exec_sextH, scalar1_calm exec_sextW, scalar1_calm exec_zextB,
        scalar1_calm exec_zextH, scalar1_calm exec_zextW, scalar1_calm exec_addImm, scalar1_calm exec_addImmLiteral,
        quad1_calm exec_andImm, quad1_calm exec_andImmLiteral, quad1_calm exec_orImm, quad1_calm exec_orImmLiteral,
        quad1_calm exec_xorImm, quad1_calm exec_xorImmLiteral, scalar1_calm exec_sllImm, scalar1_calm exec_srlImm,
        scalar1_calm exec_sraImm, scalar1_calm exec_rotImm, put_calm exec_li, put_calm exec_liLiteral,
        capBinary_calm exec_cinc, capBinary_calm exec_caddr, capBinary_calm exec_cperm, cbnd_calm exec_cbnd,
        capUnary_calm exec_ctagc, capUnary_calm exec_cgetBase, capUnary_calm exec_cgetTop, capUnary_calm exec_cgetLen,
        capUnary_calm exec_cgetPerm, capUnary_calm exec_cgetTag, capUnary_calm exec_cincImm,
        capUnary_calm exec_cincImmLiteral, capNarrow_calm exec_cbndImm, capNarrow_calm exec_cbndImmLiteral,
        sel_calm exec_sel, by simp⟩
    have hfloat : ∀ j ∈ float, s.Calm d false (exec j s) := by
      simp only [float, List.forall_mem_cons]
      exact ⟨float2_calm exec_fadd, float2_calm exec_fsub, float2_calm exec_fmul, float2_calm exec_fdiv, float2_calm exec_fmin,
        float2_calm exec_fmax, floatFma_calm exec_ffma, floatFma_calm exec_ffmaN, convert_calm exec_fsqrt,
        convert_calm exec_fcvtF32I64, convert_calm exec_fcvtF32U64, convert_calm exec_fcvtI64F32,
        convert_calm exec_fcvtU64F32, convert_calm exec_fcvtBf16F32, convert_calm exec_fcvtF16F32,
        convert_calm exec_fcvtF32Bf16, convert_calm exec_fcvtF32F16, by simp⟩
    have hguards : ∀ j ∈ guards, ∃ fl, (j.1 ≠ .fcmp g c h a b → fl = true) ∧ s.GuardCalm j.2 fl (exec j.1 s) := by
      simp only [guards, List.forall_mem_cons]
      exact ⟨⟨true, fun _ => rfl, compare2_calm exec_cmp⟩, ⟨true, fun _ => rfl, compare2_calm exec_cmpAnd⟩,
        ⟨true, fun _ => rfl, compare2_calm exec_cmpOr⟩, ⟨true, fun _ => rfl, compareImm_calm exec_cmpi⟩,
        ⟨true, fun _ => rfl, compareImm_calm exec_cmpiLiteral⟩, ⟨false, fun h => absurd rfl h, fcmp_calm exec_fcmp⟩,
        ⟨true, fun _ => rfl, guards_calm exec_gnot⟩, ⟨true, fun _ => rfl, guards_calm exec_gand⟩,
        ⟨true, fun _ => rfl, guards_calm exec_gor⟩, by simp⟩
    refine ⟨fun j hj ht => ?_, fun j hj ht => ?_⟩
    · obtain ⟨fl, hfl, hcalm⟩ := hguards j hj
      obtain ⟨hmem, htags, hpoison, hrest⟩ := guardCalm_frame hcalm ht
      refine ⟨hmem, htags, hpoison, fun htrap => ?_⟩
      obtain ⟨hothers, hc, hv, hm, hgeo, hxgeo, hclusters, hhomes, hguard, hflags⟩ := hrest htrap
      exact ⟨hothers, hc, hv, hm, hgeo, hxgeo, hclusters, hhomes, hguard, fun hne => hflags (hfl hne)⟩
    · have hcalm : s.Calm d false (exec j s) := by
        rcases List.mem_append.mp hj with hi | hf
        · exact (hinteger j hi).loosen
        · exact hfloat j hf
      obtain ⟨hmem, htags, hpoison, hrest⟩ := calm_frame hcalm ht
      refine ⟨hmem, htags, hpoison, fun htrap => ?_⟩
      obtain ⟨hothers, hv, hg, hm, hgeo, hxgeo, hc, hclusters, hhomes⟩ := hrest htrap
      exact ⟨hothers, hv, hg, hm, hgeo, hxgeo, hc, hclusters, hhomes, fun hi => ((hinteger j hi t ht).2 htrap).2 rfl⟩
  · intro s t g m r b o n e l hs j hj ht
    refine mem_tags_poison_of_stored ?_
    revert j
    simp only [List.forall_mem_cons]
    exact ⟨scalarStore_stored hs exec_stB, scalarStore_stored hs exec_stH, scalarStore_stored hs exec_stW,
      scalarStore_stored hs exec_stD, scalarStore_stored hs exec_stQ, capStore_stored hs exec_stc,
      scalarStore_stored hs exec_stBLiteral, scalarStore_stored hs exec_stHLiteral, scalarStore_stored hs exec_stWLiteral,
      scalarStore_stored hs exec_stDLiteral, scalarStore_stored hs exec_stQLiteral, capStore_stored hs exec_stcLiteral,
      queueStore_stored hs exec_stq, queueStore_stored hs exec_stqLiteral, stm_stored hs exec_stm,
      vectorStore_stored hs exec_vst, vectorStore_stored hs exec_vstLiteral, vsts_stored hs exec_vsts,
      vstx_stored hs exec_vstx, by simp⟩

end Sys2Proof.Machine
end

section
/-! PROOF. Work is spawned and ended (03 R97, R98; 07 R198, R199; 14 R293, R294): what each end checks, waits for and
releases. -/

namespace Sys2Proof.Machine

/-! ### What every end waits for (03 R97, R98) -/

theorem joinWins_none {s : State} (hwins : s.me.wins = []) (hkept : s.me.kept = []) : s.joinWins = .ok s := by
  simp [State.joinWins, Strand.allWins, hwins, hkept, firstFailed, State.settle]

theorem joinPosted_done {s : State} (h : s.postsDone = true) : s.joinPosted = .ok s := if_pos h

theorem settleLease_none {s : State} (h : s.me.lease = none) : s.settleLease = .ok s := by
  simp [State.settleLease, h]

/-- Nothing holds an end of work back. -/
theorem settleEnd_ok {s : State} (hwins : s.me.wins = []) (hkept : s.me.kept = []) (htok : ∀ k, (rd s.me.tok k).out = 0)
    (hposts : s.postsDone = true) (hlease : s.me.lease = none) (howes : ∀ o ∈ s.ops, o.owesTile s.cur.1 s.me.work.wid = false) :
    s.settleEnd = .ok s := by
  have htokens : s.me.tok.toList.any (fun t => t.out != 0) = false := by
    refine List.any_eq_false.mpr fun t ht => ?_
    obtain ⟨i, hi, rfl⟩ := List.getElem_of_mem ht
    have := htok ⟨i, by simpa using hi⟩
    simp only [rd] at this
    simpa using this
  have hnone : s.ops.any (fun o => o.owesTile s.cur.1 s.me.work.wid) = false :=
    List.any_eq_false.mpr fun o ho => by rw [howes o ho]; decide
  simp only [State.settleEnd, joinWins_none hwins hkept, htokens, joinPosted_done hposts, settleLease_none hlease, hnone, bind,
    Except.bind, Bool.false_eq_true, if_false]
  rfl

theorem need_true {b : Bool} {t : Trap} (h : b = true) : need b t = .ok () := if_pos h

theorem need_false {b : Bool} {t : Trap} (h : b = false) : need b t = .error (.t t) := if_neg (by rw [h]; decide)

theorem endsCont_ok {s : State} (hkind : s.me.work.kind = .continuation) (hawait : s.me.await = none) : s.endsCont = .ok () := by
  simp only [State.endsCont, need, hkind, hawait, BEq.rfl, Option.isNone_none, if_true, bind, Except.bind]

theorem notSpec_ok {s : State} (h : s.me.work.task = none) : s.notSpec = .ok () := need_true (by rw [h]; rfl)

/-! ### spawn (07 R199) -/

section
variable {s s1 : State} {g : Fin 8} {a b : Fin 64} {r k : CVal} {x y : Strand} {bs : List RByte}

theorem loadRec_of (h : s.mayAccess r [.ld, .ldcap] r.addr 64 64)
    (hload : s.load s.cur.1 s.cur.2 s.nextId (r.has .local) r.addr 64 = .ok (bs, s1)) : s.loadRec r = .ok (recOf bs, s1) := by
  simp only [State.loadRec, checkAccess_ok h, hload, bind, Except.bind]
  rfl

theorem checkRec_ok {c : ContRec} (htag : c.code.tag = true) (hexec : c.code.has .exec = true) (h10 : df c.flags 10 6 = 0)
    (h35 : df c.flags 35 29 = 0) (hrole : c.role ≠ 3) (hspec : c.spec = false) : checkRec c false = .ok () := by
  simp only [checkRec, need, htag, hexec, h10, h35, hspec, bne_iff_ne.mpr hrole, BEq.rfl, Bool.and_self, if_true, bind, Except.bind]

theorem hasRoom_of {q : Cluster} (hlen : q.tq.length < 1024) (hwait : q.tqWait = []) : q.hasRoom = true := by
  simp [Cluster.hasRoom, queueSize, hlen, hwait]

theorem pushMine_ok {q : ClusterId} {e : TqEntry} (h : (s.cluster q).hasRoom = true) : s.pushMine q e = .ok (s.push q e) := if_pos h

/-- A record that names a window, or needs none, is pushed. -/
theorem spawn_of {q : ClusterId} (hg : s.me.guard g = true) (hticket : s.me.ticket = none) (ha : s.me.source a = some (r, x))
    (hb : x.source b = some (k, y)) (hmay : s.mayAccess r [.ld, .ldcap] r.addr 64 64)
    (hload : (s.setMe y).load s.cur.1 s.cur.2 s.nextId (r.has .local) r.addr 64 = .ok (bs, s1))
    (hrec : checkRec (recOf bs) false = .ok ()) (hk : b = 0 ∨ df k.addr 0 5 < 24)
    (hq : q = s1.queueFor (if b = 0 then clusterOf s1.cur.1 else Fin.ofNat 24 (df k.addr 0 5)))
    (hdet : (recOf bs).det = true → ((s1.me.work.grid.bind s1.grid).bind Grid.detWindow).isSome = true)
    (hloads : s1.me.loadsPending = false) (hposts : s1.postsDone = true) (hlen : (s1.cluster q).tq.length < 1024)
    (hwait : (s1.cluster q).tqWait = []) :
    exec (.spawn g a b) s = .next (s.passedTo 4 ((s1.updCore s1.cur.1 (fun (q : Core) => { q with spawnCtr := q.spawnCtr + 1 })).push q
      { entryOf ((recOf bs).withSeq s1.myCore.spawnCtr) s1.me.asid s1.me.work.grid s1.cur.1 with
        parkedBy := if (recOf bs).det then (s1.me.work.grid.bind s1.grid).bind Grid.detWindow else none })) := by
  refine exec_spawn.trans (issue_ok hg ?_)
  have hyticket : y.ticket = none := by rw [(source_popped hb).ticket, (source_popped ha).ticket, hticket]
  have hnamed : (b == 0 || decide (df k.addr 0 5 < 24)) = true := by simpa using hk
  have hwindow : (!(recOf bs).det || ((s1.me.work.grid.bind s1.grid).bind Grid.detWindow).isSome) = true := by
    cases hd : (recOf bs).det
    · rfl
    · exact hdet hd
  simp only [useC_of_source ha, useX_setMe hb, State.pushed, me_setMe, hyticket, loadRec_of (s := s.setMe y) hmay hload, hrec,
    need_true hnamed, need_true hwindow, State.orderLoads, hloads, State.orderStores, hposts, bind, Except.bind, if_true, if_false,
    Bool.false_eq_true]
  have hme : s1.nextSpawn.2.me = s1.me := me_updCore rfl fun _ => rfl
  rw [hme]
  subst hq
  exact pushMine_ok (hasRoom_of hlen hwait)

/-- A DET record without a window. -/
theorem spawn_ill (hg : s.me.guard g = true) (hticket : s.me.ticket = none) (ha : s.me.source a = some (r, x))
    (hb : x.source b = some (k, y)) (hmay : s.mayAccess r [.ld, .ldcap] r.addr 64 64)
    (hload : (s.setMe y).load s.cur.1 s.cur.2 s.nextId (r.has .local) r.addr 64 = .ok (bs, s1))
    (hrec : checkRec (recOf bs) false = .ok ()) (hk : b = 0 ∨ df k.addr 0 5 < 24) (hdet : (recOf bs).det = true)
    (hwin : ((s1.me.work.grid.bind s1.grid).bind Grid.detWindow).isSome = false) :
    exec (.spawn g a b) s = .next (s.takeTrap s.cur.1 s.cur.2 .ill none) := by
  refine exec_spawn.trans (issue_trap hg ?_)
  have hyticket : y.ticket = none := by rw [(source_popped hb).ticket, (source_popped ha).ticket, hticket]
  have hnamed : (b == 0 || decide (df k.addr 0 5 < 24)) = true := by simpa using hk
  have hwindow : (!(recOf bs).det || ((s1.me.work.grid.bind s1.grid).bind Grid.detWindow).isSome) = false := by
    rw [hdet, hwin]; rfl
  simp only [useC_of_source ha, useX_setMe hb, State.pushed, me_setMe, hyticket, loadRec_of (s := s.setMe y) hmay hload, hrec,
    need_true hnamed, need_false hwindow, bind, Except.bind]
  rfl

end

/-! ### hend, done, yield (03 R98; 07 R199) -/

section
variable {s s1 s2 : State} {g : Fin 8} {a b : Fin 64} {r k : CVal} {x y : Strand}

theorem hend_of (hg : s.me.guard g = true) (hkind : s.me.work.kind ≠ .continuation) (hawait : s.me.await = none)
    (hsettle : s.settleEnd = .ok s1) : exec (.hend g) s = .next (s1.release s1.cur.1 s1.cur.2) := by
  refine exec_hend.trans (issueN_gone hg ?_)
  simp only [need_true (bne_iff_ne.mpr hkind), hawait, Option.isNone_none, need_true, hsettle, bind, Except.bind]
  rfl

theorem done_of (hg : s.me.guard g = true) (hkind : s.me.work.kind = .continuation) (hawait : s.me.await = none)
    (htask : s.me.work.task = none) (hsettle : s.settleEnd = .ok s1) :
    exec (.done g) s = .next ((s1.release s1.cur.1 s1.cur.2).entryEnds s1.me.work) := by
  refine exec_done.trans (issueN_gone hg ?_)
  simp only [endsCont_ok hkind hawait, notSpec_ok htask, hsettle, bind, Except.bind]
  rfl

/-- A successor put in the running work's entry. -/
theorem suspendTo_ok (hsettle : s.settleEnd = .ok s1) (hsucc : s1.succeed (s1.successor r) = .ok s2) :
    s.suspendTo r = .ok (s2.release s1.cur.1 s1.cur.2, .gone) := by
  simp only [State.suspendTo, hsettle, hsucc, bind, Except.bind]
  rfl

/-- A code capability through which a word can be fetched (03 R97). -/
theorem checkAccess_code (htag : r.tag = true) (hexec : r.has .exec = true) (halign : r.addr.toNat % 4 = 0)
    (hbounds : r.inBounds r.addr.toNat 4 = true) : s.checkAccess r [.exec] r.addr 4 4 true = .ok () :=
  checkAccess_ok ⟨htag, by simp [CVal.hasAll, hexec], halign, hbounds, .inl rfl⟩

theorem yield_of (hg : s.me.guard g = true) (hkind : s.me.work.kind = .continuation) (hawait : s.me.await = none)
    (htask : s.me.work.task = none) (hcheck : s.checkAccess (s.me.pcc.setAddr (s.me.pcc.addr + 4)) [.exec]
      (s.me.pcc.setAddr (s.me.pcc.addr + 4)).addr 4 4 true = .ok ()) (hsettle : s.settleEnd = .ok s1)
    (hsucc : s1.succeed (s1.successor (s.me.pcc.setAddr (s.me.pcc.addr + 4))) = .ok s2) :
    exec (.yield g) s = .next (s2.release s1.cur.1 s1.cur.2) := by
  refine exec_yield.trans (issueN_gone hg ?_)
  simp only [endsCont_ok hkind hawait, notSpec_ok htask, hcheck, suspendTo_ok hsettle hsucc, bind, Except.bind]

/-! ### done.j and suspend, whose operands are checked once (03 R97) -/

/-- The operands of an end of work, checked and kept. -/
theorem checkedEnd_ok {check : State → Except Stop (CVal × CVal × State)} (hending : s.me.ending = none)
    (hcheck : check s = .ok (r, k, s.setMe x)) :
    s.checkedEnd check = .ok (r, k, s.setMe { x with ending := some (r, k) }) := by
  simp only [State.checkedEnd, hending, hcheck, bind, Except.bind, updMe_eq, me_setMe, setMe_setMe]
  rfl

theorem doneJ_of {ts : List (Tr × Dbl × Nat)} (hg : s.me.guard g = true) (hkind : s.me.work.kind = .continuation)
    (hawait : s.me.await = none) (hending : s.me.ending = none) (htask : s.me.work.task = none)
    (ha : s.me.source a = some (r, x)) (hmay : s.mayAccess r [.ld, .st] r.addr 32 32)
    (hsettle : (s.setMe { x with ending := some (r, .null) }).settleEnd = .ok s1)
    (hparked : s1.parked.any (fun p => p.wid == s1.me.work.wid) = false)
    (htr : s1.translateAll (s1.whoOf s1.cur.1 s1.cur.2) (r.has .local) .write [(r.addr, 32)] = .ok (ts, s2)) :
    exec (.doneJ g a) s =
      .next ((s2.release s1.cur.1 s1.cur.2).post 100 (.joinDecrement s1.cur.1 s1.me.asid s1.me.work.entry r)) := by
  refine exec_doneJ.trans (issueN_gone hg ?_)
  have hmay' : (s.setMe x).mayAccess r [.ld, .st] r.addr 32 32 := hmay
  simp only [bind, Except.bind]
  rw [checkedEnd_ok hending (r := r) (k := .null) (x := x)]
  · simp only [hsettle, hparked, htr, Bool.false_eq_true, if_false]
    rfl
  · simp only [endsCont_ok hkind hawait, notSpec_ok htask, useC_of_source ha, checkAccess_ok hmay']
    rfl

/-- `suspend` with its successor put in the running work's entry. -/
theorem suspend_of (hg : s.me.guard g = true) (hkind : s.me.work.kind = .continuation) (hawait : s.me.await = none)
    (hending : s.me.ending = none) (ha : s.me.source a = some (r, x)) (hb : b = 0)
    (hcheck : (s.setMe x).checkAccess r [.exec] r.addr 4 4 true = .ok ())
    (hsettle : (s.setMe { x with ending := some (r, .null) }).settleEnd = .ok s1)
    (hsucc : s1.succeed (s1.successor r) = .ok s2) : exec (.suspend g a b) s = .next (s2.release s1.cur.1 s1.cur.2) := by
  refine exec_suspend.trans (issueN_gone hg ?_)
  simp only [bind, Except.bind, hb, if_true]
  rw [checkedEnd_ok hending (r := r) (k := .null) (x := x)]
  · exact suspendTo_ok hsettle hsucc
  · simp only [endsCont_ok hkind hawait, useC_of_source ha, hcheck, ne_eq, not_true_eq_false, if_false]
    rfl

/-- `suspend` with its successor written at a place. -/
theorem suspend_place (hg : s.me.guard g = true) (hkind : s.me.work.kind = .continuation) (hawait : s.me.await = none)
    (hending : s.me.ending = none) (htask : s.me.work.task = none) (ha : s.me.source a = some (r, x)) (hb : b ≠ 0)
    (hcheck : (s.setMe x).checkAccess r [.exec] r.addr 4 4 true = .ok ()) (hk : x.source b = some (k, y))
    (hmay : s.mayAccess k [.st, .stcap] k.addr 64 64) (hsettle : (s.setMe { y with ending := some (r, k) }).settleEnd = .ok s1)
    (hwrite : s1.homeWrite (s1.whoOf s1.cur.1 s1.cur.2) (k.has .local) [(k.addr, (s1.successor r).bytes)]
      ((s1.successor r).granules k.addr) = .ok s2) :
    exec (.suspend g a b) s = .next (State.gridCheck (match s1.me.work.entry.bind (s2.release s1.cur.1 s1.cur.2).findEntry with
      | some (q, e) => (s2.release s1.cur.1 s1.cur.2).dropEntry q e.id
      | none => s2.release s1.cur.1 s1.cur.2) s1.me.work.grid) := by
  refine exec_suspend.trans (issueN_gone hg ?_)
  have hmay' : (s.setMe y).mayAccess k [.st, .stcap] k.addr 64 64 := hmay
  simp only [bind, Except.bind, hb, if_false]
  rw [checkedEnd_ok hending (r := r) (k := k) (x := y)]
  · simp only [hsettle, hwrite]
    rfl
  · simp only [endsCont_ok hkind hawait, notSpec_ok htask, useC_of_source ha, useC_setMe hk, hcheck, checkAccess_ok hmay', ne_eq, hb,
      not_false_eq_true, if_true]
    rfl

end

/-- Settles O35. -/
theorem workIsSpawnedAndEnded : Obligations.WorkIsSpawnedAndEnded := by
  refine ⟨fun s => settleEnd_ok, fun s g a b r k x y hg => ⟨?_, ?_, ?_⟩⟩
  · intro bs s1 hticket ha hb hmay hload c htag hexec hfields hk q win
    obtain ⟨h10, h35, hrole, hspec⟩ := hfields
    have hrec : checkRec c false = .ok () := checkRec_ok htag hexec h10 h35 hrole hspec
    exact ⟨fun hdet hwin => spawn_ill hg hticket ha hb hmay hload hrec hk hdet hwin,
      fun hdet hloads hposts hlen hwait => spawn_of hg hticket ha hb hmay hload hrec hk rfl hdet hloads hposts hlen hwait⟩
  · intro s1 hawait hsettle gone
    refine ⟨fun hkind => hend_of hg hkind hawait hsettle, fun hkind htask => ⟨done_of hg hkind hawait htask hsettle, ?_⟩⟩
    intro s2 htag hexec halign hbounds haddr hsucc
    have hcode := checkAccess_code (s := s) htag hexec (by rw [haddr]; exact halign) (by rw [haddr]; exact hbounds)
    exact yield_of hg hkind hawait htask hcode hsettle hsucc
  · intro hkind hawait hending ha held
    refine ⟨?_, ?_, ?_⟩
    · intro s1 ts s2 htask hmay hsettle hparked htr
      exact doneJ_of hg hkind hawait hending htask ha hmay hsettle hparked htr
    · intro s1 s2 hb htag hexec halign hbounds hsettle hsucc
      exact suspend_of hg hkind hawait hending ha hb (checkAccess_code htag hexec halign hbounds) hsettle hsucc
    · intro s1 s2 hb htask htag hexec halign hbounds hk hmay hsettle c hwrite s3
      exact suspend_place hg hkind hawait hending htask ha hb (checkAccess_code htag hexec halign hbounds) hk hmay hsettle hwrite

end Sys2Proof.Machine
end

section
/-! PROOF. A memory upcall hands its handler a capability to the record that carries LD and LDCAP whatever UAREA carries
(21 R381), so a `suspend` whose place cannot be written can leave in c56 permissions that UAREA had not. -/

namespace Sys2Proof.Machine

/-! ### Writes to a core's own slice -/

theorem toBytes_length (n x : Nat) : (toBytes n x).length = n := by
  induction n generalizing x with
  | zero => rfl
  | succ n ih => simp [toBytes, ih]

/-- The parts of a range lie within it. -/
theorem lineParts_within {fuel n : Nat} {va : Dbl} (h : va.toNat + n < 2 ^ 64) :
    ∀ p ∈ lineParts fuel va n, va.toNat ≤ p.1.toNat ∧ p.1.toNat < va.toNat + n := by
  induction fuel generalizing va n with
  | zero => simp [lineParts]
  | succ fuel ih =>
    unfold lineParts
    split_ifs with h0
    · simp
    dsimp only
    generalize hk : min n (64 - va.toNat % 64) = k
    have hnext : (va + BitVec.ofNat 64 k).toNat = va.toNat + k := by
      rw [BitVec.toNat_add, BitVec.toNat_ofNat]
      omega
    intro p hp
    rcases List.mem_cons.mp hp with rfl | hp
    · exact ⟨Nat.le_refl _, by show va.toNat < _; omega⟩
    · have := ih (va := va + BitVec.ofNat 64 k) (n := n - k) (by omega) p hp
      omega

section
variable {s : State} {w : Who} {keep : Bool} {m : Mode}

theorem translateAll_local {ps : List (Dbl × Nat)} (h : ∀ p ∈ ps, (s.core w.core).protCheck w p.1.toNat m = .ok keep) :
    ∃ ts, s.translateAll w true m ps = .ok (ts, s) := by
  induction ps with
  | nil => exact ⟨_, rfl⟩
  | cons p ps ih =>
    obtain ⟨ts, hts⟩ := ih fun q hq => h q (List.mem_cons_of_mem _ hq)
    obtain ⟨t, ht, -⟩ := translate_local (h p List.mem_cons_self)
    exact ⟨_, by simp only [State.translateAll, ht, hts]; rfl⟩

/-- Ranges below an offset up to which the core's regions allow writes. -/
theorem translateRanges_local {top : Nat} (htop : top < 2 ^ 64)
    (hprot : ∀ off < top, (s.core w.core).protCheck w off .write = .ok keep) {rs : List (Dbl × List Byte)}
    (h : ∀ r ∈ rs, r.1.toNat + r.2.length ≤ top) : ∃ l, s.translateRanges w true rs = .ok (l, s) := by
  induction rs with
  | nil => exact ⟨_, rfl⟩
  | cons r rs ih =>
    obtain ⟨l, hl⟩ := ih fun q hq => h q (List.mem_cons_of_mem _ hq)
    have hr := h r List.mem_cons_self
    obtain ⟨ts, hts⟩ := translateAll_local (ps := partsOf r.1 r.2.length) (m := .write) fun p hp => by
      have := lineParts_within (by omega) p hp
      exact hprot p.1.toNat (by omega)
    exact ⟨(ts, r.2) :: l, by simp only [State.translateRanges, hts, hl]⟩

end

/-! ### Writes where no version stands leave the running slot -/

/-- `t` runs the slot of `s`, and neither has a version record. -/
def State.Unversioned (s t : State) : Prop := t.cur = s.cur ∧ t.vers = []

theorem foldl_unversioned {α : Type} {f : State → α → State}
    (h : ∀ (s : State) (a : α), s.vers = [] → s.Unversioned (f s a)) (l : List α) {s : State} (hs : s.vers = []) :
    s.Unversioned (l.foldl f s) := by
  induction l generalizing s with
  | nil => exact ⟨rfl, hs⟩
  | cons a l ih =>
    obtain ⟨hcur, hvers⟩ := h s a hs
    obtain ⟨hcur', hvers'⟩ := ih hvers
    exact ⟨hcur'.trans hcur, hvers'⟩

theorem ordinaryWrite_unversioned {s : State} (hs : s.vers = []) (k : LineKey) : s.ordinaryWrite k = s := by
  simp [State.ordinaryWrite, hs]

theorem writeParts_unversioned {s : State} (hs : s.vers = []) (w : Who) (ps : List (Tr × Dbl × Nat)) (bs : List Byte) :
    s.Unversioned (s.writeParts w ps bs) := by
  induction ps generalizing s bs with
  | nil => exact ⟨rfl, hs⟩
  | cons p ps ih =>
    unfold State.writeParts
    rw [ordinaryWrite_unversioned (s := s.physWrite p.1.phys (bs.take p.2.2)) hs]
    exact ih (s := (s.physWrite p.1.phys (bs.take p.2.2)).dropL0 p.1.key (p.1.phys / 64)) hs _

theorem setTags_unversioned {s : State} (hs : s.vers = []) (ts : List (Tr × Dbl × Nat)) (tagged : List Dbl) :
    s.Unversioned (s.setTags ts tagged) := by
  refine foldl_unversioned (fun s p hs => foldl_unversioned (fun s g hs => ?_) _ hs) _ hs
  split_ifs
  · exact ⟨rfl, hs⟩
  · exact ⟨rfl, hs⟩

/-- Such a write completes, and the slot that runs stays. -/
theorem homeWrite_local {s : State} {w : Who} {keep : Bool} {top : Nat} {rs : List (Dbl × List Byte)} (hs : s.vers = [])
    (htop : top < 2 ^ 64) (hprot : ∀ off < top, (s.core w.core).protCheck w off .write = .ok keep)
    (h : ∀ r ∈ rs, r.1.toNat + r.2.length ≤ top) (tagged : List Dbl) :
    ∃ t, s.homeWrite w true rs tagged = .ok t ∧ t.cur = s.cur := by
  obtain ⟨l, hl⟩ := translateRanges_local htop hprot h
  obtain ⟨hcur, hvers⟩ := foldl_unversioned (f := fun s p => s.writeParts w p.1 p.2)
    (fun _ p hs => writeParts_unversioned hs w p.1 p.2) l hs
  obtain ⟨hcur', -⟩ := foldl_unversioned (f := fun s p => s.setTags p.1 tagged)
    (fun _ p hs => setTags_unversioned hs p.1 tagged) l hvers
  exact ⟨_, by simp only [State.homeWrite, hl], hcur'.trans hcur⟩

/-! ### The record of an upcall -/

/-- The fields of an image of a strand whose windows, queues and outbox are empty lie below its rest at 10,592. -/
theorem imageParts_within {x : Strand} (l : Live) (old : Nat) (hwins : x.allWins = []) (hheld : x.held = [])
    (hqueues : x.ldq = [] ∧ x.stq = [] ∧ x.engq = [] ∧ x.vldq = [] ∧ x.vstq = [] ∧ x.outbox = []) :
    ∀ p ∈ x.imageParts l old, p.1 + p.2.length ≤ 10592 := by
  obtain ⟨hldq, hstq, hengq, hvldq, hvstq, houtbox⟩ := hqueues
  have hgeo : ((x.geo.toList ++ x.xgeo.toList).flatMap (fun g => toBytes 8 g.toNat)).length = 568 := by
    simp [List.length_flatMap, toBytes_length]
  have hbits : ∀ {n i v : Nat}, i ∈ bitsOf v n → i < n := fun h => List.mem_range.mp (List.mem_filter.mp h).1
  simp only [Strand.imageParts, hwins, hheld, hldq, hstq, hengq, hvldq, hvstq, houtbox, List.forall_mem_append, List.forall_mem_cons,
    List.forall_mem_map, List.length_append, List.length_take, List.length_replicate, List.length_cons, List.length_nil, toBytes_length,
    hgeo, List.take_nil, List.flatMap_nil]
  refine ⟨⟨⟨⟨by simp, fun j hj => ?_⟩, fun j hj => ?_⟩, fun j hj => ?_⟩, by simp⟩
  · have := hbits hj
    omega
  · have := hbits hj
    omega
  · have := hbits hj
    omega

theorem liveAt_untagged {s : State} {w : Who} {lvt : CVal} (h : lvt.tag = false) (pc : Dbl) : s.liveAt w lvt pc = (.all, s) := by
  have hread : s.lvtRead w lvt 0 16 = (none, s) := if_pos (by simp [h])
  simp only [State.liveAt, hread]

/-- The record of a strand with nothing outstanding, written at the start of its core's slice. -/
theorem writeUpcall_local {s : State} {c : CoreId} {k : SlotId} {f : FaultInfo} {posted atEnd : Bool} {pc : Dbl} {keep : Bool}
    (hs : s.vers = []) (hprot : ∀ off < recordSize, (s.core c).protCheck (s.whoOf c k) off .write = .ok keep)
    (hlvt : (s.strand c k).lvt.tag = false) (hlocal : (s.strand c k).uarea.has .local = true)
    (haddr : (s.strand c k).uarea.addr = 0) (hwins : (s.strand c k).allWins = []) (hheld : (s.strand c k).held = [])
    (hqueues : (s.strand c k).ldq = [] ∧ (s.strand c k).stq = [] ∧ (s.strand c k).engq = [] ∧ (s.strand c k).vldq = [] ∧
      (s.strand c k).vstq = [] ∧ (s.strand c k).outbox = []) :
    ∃ t, s.writeUpcall c k f posted atEnd pc = .ok t ∧ t.cur = s.cur := by
  unfold State.writeUpcall
  dsimp only
  rw [liveAt_untagged hlvt, hlocal]
  refine homeWrite_local (w := s.whoOf c k) hs (by decide) hprot (fun r hr => ?_) _
  obtain ⟨p, hp, rfl⟩ := List.mem_map.mp hr
  have hfits : p.1 + p.2.length ≤ recordSize := by
    rcases List.mem_append.mp hp with hp | hp
    · rcases List.mem_cons.mp hp with rfl | hp
      · simp [imageHead, toBytes_length, recordSize]
      · exact (imageParts_within _ _ hwins hheld hqueues p hp).trans (by decide)
    · rw [List.mem_singleton.mp hp, List.length_replicate]
      decide
  have hnat : ((s.strand c k).uarea.addr + BitVec.ofNat 64 p.1).toNat = p.1 := by
    have : p.1 < 2 ^ 64 := by
      have : recordSize < 2 ^ 64 := by decide
      omega
    rw [haddr, show (0 : Dbl) + BitVec.ofNat 64 p.1 = BitVec.ofNat 64 p.1 from BitVec.zero_add _, BitVec.toNat_ofNat,
      Nat.mod_eq_of_lt this]
  rw [hnat]
  exact hfits

/-- An upcall whose record is written leaves the running slot. -/
theorem takeUpcall_cur {s s2 : State} {c : CoreId} {k : SlotId} {f : FaultInfo} {posted atEnd : Bool} {pc : Dbl}
    (hvec : (s.strand c k).uvec.tag = true) (hexec : (s.strand c k).uvec.has .exec = true)
    (htag : (s.strand c k).uarea.tag = true) (hline : (s.strand c k).uarea.addr.toNat % 64 = 0)
    (hperm : (s.strand c k).uarea.hasAll [.st, .stcap] = true)
    (hroom : (s.strand c k).uarea.inBounds (s.strand c k).uarea.addr.toNat recordSize = true)
    (hwrite : s.writeUpcall c k f posted atEnd pc = .ok s2) : (s.takeUpcall c k f posted atEnd pc).cur = s2.cur := by
  unfold State.writeUpcall at hwrite
  unfold State.takeUpcall
  rw [if_neg (by simp [hvec, hexec, htag, hline, hperm, hroom])]
  simp only [hwrite]
  rfl

/-! ### A place that cannot be written -/

/-- An address of a home that is not ready cannot be written, and the refusal is logged (21 R386, R387). -/
theorem homeWrite_unready {s : State} {w : Who} {va : Dbl} {bs : List Byte} {tagged : List Dbl} (h0 : 0 < bs.length)
    (hline : va.toNat % 64 + bs.length ≤ 64) (hglobal : df va 56 8 = 0) (hready : s.house.ready = 0) :
    s.homeWrite w false [(va, bs)] tagged =
      .error (mkFault .violation .write va 6, s.logFault (niOfCore w.core) w (mkFault .violation .write va 6)) := by
  simp [State.homeWrite, State.translateRanges, partsOf_within_line h0 hline, State.translateAll, State.translate, hglobal, hready]

/-- `t` runs the slot of `s`, with the same version records and protection regions. -/
structure State.SameSlotAndProt (s t : State) : Prop where
  cur : t.cur = s.cur
  vers : t.vers = s.vers
  prot : ∀ c, (t.core c).prot = (s.core c).prot

theorem trigger_sameSlotAndProt (s : State) (src : Nat) (id : BitVec 16) (force : Bool) :
    s.SameSlotAndProt (s.trigger src id force) := by
  unfold State.trigger
  split
  · exact ⟨rfl, rfl, fun _ => rfl⟩
  · exact ⟨rfl, rfl, fun _ => rfl⟩

theorem updCore_sameSlotAndProt (s : State) (c : CoreId) {f : Core → Core} (h : ∀ x, (f x).prot = x.prot) :
    s.SameSlotAndProt (s.updCore c f) := by
  refine ⟨rfl, rfl, fun e => ?_⟩
  by_cases he : e = c
  · rw [he, updCore_core_same, h]
  · rw [updCore_core_ne _ _ he]

theorem State.SameSlotAndProt.trans {s t u : State} (h : s.SameSlotAndProt t) (h' : t.SameSlotAndProt u) : s.SameSlotAndProt u :=
  ⟨h'.cur.trans h.cur, h'.vers.trans h.vers, fun c => (h'.prot c).trans (h.prot c)⟩

theorem setMe_sameSlotAndProt (s : State) (x : Strand) : s.SameSlotAndProt (s.setMe x) := by
  unfold State.setMe State.setStrand
  exact updCore_sameSlotAndProt _ _ fun _ => rfl

theorem updHouse_sameSlotAndProt (s : State) (f : House → House) : s.SameSlotAndProt (s.updHouse f) := ⟨rfl, rfl, fun _ => rfl⟩

/-- Nor does a log entry change them. -/
theorem logFault_sameSlotAndProt (s : State) (ni : Fin 400) (w : Who) (f : FaultInfo) : s.SameSlotAndProt (s.logFault ni w f) := by
  unfold State.logFault State.logAt
  refine (State.SameSlotAndProt.trans ?_ (updHouse_sameSlotAndProt _ _)).trans (trigger_sameSlotAndProt _ _ _ _)
  split
  · exact ⟨rfl, rfl, fun _ => rfl⟩
  · exact updCore_sameSlotAndProt s _ fun _ => rfl
  · exact ⟨rfl, rfl, fun _ => rfl⟩

theorem issueN_upcall {g : Fin 8} {len : Nat} {s s1 : State} {q : FaultInfo} {f : State → Except Stop (State × Next)}
    (hg : s.me.guard g = true) (h : f s = .error (.upcall q s1)) :
    issueN g len s f = .next ((s1.setMe s.me).takeUpcall s.cur.1 s.cur.2 q false false 0) := by
  simp [issueN, hg, h]

/-- `suspend` takes the upcall of a place that cannot be written. -/
theorem suspend_upcall {s s1 s2 : State} {g : Fin 8} {a b : Fin 64} {r k : CVal} {x y : Strand} {f : FaultInfo}
    (hg : s.me.guard g = true) (hkind : s.me.work.kind = .continuation) (hawait : s.me.await = none)
    (hending : s.me.ending = none) (htask : s.me.work.task = none) (ha : s.me.source a = some (r, x)) (hb : b ≠ 0)
    (hcheck : (s.setMe x).checkAccess r [.exec] r.addr 4 4 true = .ok ()) (hk : x.source b = some (k, y))
    (hmay : s.mayAccess k [.st, .stcap] k.addr 64 64) (hsettle : (s.setMe { y with ending := some (r, k) }).settleEnd = .ok s1)
    (hwrite : s1.homeWrite (s1.whoOf s1.cur.1 s1.cur.2) (k.has .local) [(k.addr, (s1.successor r).bytes)]
      ((s1.successor r).granules k.addr) = .error (f, s2)) :
    exec (.suspend g a b) s = .next ((s2.setMe s.me).takeUpcall s.cur.1 s.cur.2 f false false 0) := by
  refine exec_suspend.trans (issueN_upcall hg ?_)
  have hmay' : (s.setMe y).mayAccess k [.st, .stcap] k.addr 64 64 := hmay
  simp only [bind, Except.bind, hb, if_false]
  rw [checkedEnd_ok hending (r := r) (k := k) (x := y)]
  · simp only [hsettle, hwrite]
    rfl
  · simp only [endsCont_ok hkind hawait, notSpec_ok htask, useC_of_source ha, useC_setMe hk, hcheck, checkAccess_ok hmay', ne_eq, hb,
      not_false_eq_true, if_true]
    rfl

/-! ### The example -/

namespace SuspendRefused

/-- Code in the first 16 KiB of the slice, a place of 64 bytes at the start of home 0's memory, and an area of one record
that may be written and not read. -/
def code : CVal := .make 0 16384 [.exec, .local]
def place : CVal := .make 0 64 [.st, .stcap]
def area : CVal := .make 0 16384 [.st, .stcap, .local]

/-- A continuation about to suspend itself to a record at c3. -/
def suspending : Strand :=
  { (Strand.reset.setC 2 code).setC 3 place with
    st := .running, work := { Work.none with kind := .continuation }, tvec := code, uvec := code, uarea := area }

/-- The first four pages of a slice, for ASID 0 to read and write. -/
def firstPages : Quad := 0x700030000

/-- The part after reset, no home ready, with that region in core 0's slice and that continuation in its first slot. -/
def beforeSuspend : State :=
  (State.reset.updCore 0 (fun (x : Core) => { x with prot := wr x.prot 0 firstPages })).setMe suspending

theorem me_beforeSuspend : beforeSuspend.me = suspending := me_setMe _ _

/-- The continuation once it waits for what it owes before it ends. -/
def ending : Strand := { suspending with ending := some (code, place) }

/-- The refusal of its place. -/
def refusal : FaultInfo := mkFault .violation .write 0 6

/-- The state in which the upcall is taken: the refusal logged, the strand as it was before the instruction. -/
def beforeUpcall : State :=
  ((beforeSuspend.setMe ending).logFault (niOfCore 0) ((beforeSuspend.setMe ending).whoOf 0 0) refusal).setMe suspending

theorem settleEnd_ending : (beforeSuspend.setMe ending).settleEnd = .ok (beforeSuspend.setMe ending) := by
  have hme := me_setMe beforeSuspend ending
  refine settleEnd_ok ?_ ?_ ?_ ?_ ?_ ?_
  · rw [hme]; rfl
  · rw [hme]; rfl
  · rw [hme]; decide
  · decide
  · rw [hme]; rfl
  · exact fun o ho => nomatch ho

theorem successor_bytes_length (s : State) (r : CVal) : (s.successor r).bytes.length = 64 := by
  simp [ContRec.bytes, toBytes_length]

theorem homeWrite_place {s : State} (hready : s.house.ready = 0) (hcur : s.cur = (0, 0)) :
    s.homeWrite (s.whoOf s.cur.1 s.cur.2) (place.has .local) [(place.addr, (s.successor code).bytes)]
      ((s.successor code).granules place.addr) = .error (refusal, s.logFault (niOfCore 0) (s.whoOf 0 0) refusal) := by
  have hlen := successor_bytes_length s code
  have hlocal : place.has .local = false := by decide
  have haddr : place.addr = 0 := by decide
  rw [hlocal, haddr, hcur]
  refine homeWrite_unready (by omega) ?_ (by decide) hready
  rw [hlen]
  decide

theorem exec_suspend_refused :
    exec (.suspend 0 2 3) beforeSuspend = .next (beforeUpcall.takeUpcall 0 0 refusal false false 0) := by
  have hme := me_beforeSuspend
  have hcheck : (beforeSuspend.setMe suspending).checkAccess code [.exec] code.addr 4 4 true = .ok () := by rfl
  have hmay : beforeSuspend.mayAccess place [.st, .stcap] place.addr 64 64 := by
    unfold State.mayAccess
    decide
  have h := suspend_upcall (s := beforeSuspend) (g := 0) (a := 2) (b := 3) (x := suspending) (y := suspending) (by rw [hme]; rfl)
    (by rw [hme]; rfl) (by rw [hme]; rfl) (by rw [hme]; rfl) (by rw [hme]; rfl) (by rw [hme]; rfl) (by decide) hcheck rfl hmay
    settleEnd_ending (homeWrite_place rfl rfl)
  rw [hme] at h
  exact h

theorem same_beforeUpcall : beforeSuspend.SameSlotAndProt beforeUpcall :=
  ((setMe_sameSlotAndProt _ _).trans (logFault_sameSlotAndProt _ _ _ _)).trans (setMe_sameSlotAndProt _ _)

theorem strand_beforeUpcall : beforeUpcall.strand 0 0 = suspending := by
  have hcur : beforeUpcall.cur = (0, 0) := same_beforeUpcall.cur.trans rfl
  have h : beforeUpcall.me = suspending := me_setMe _ _
  rw [State.me, hcur] at h
  exact h

/-- The region allows writes to the whole of the record. -/
theorem prot_beforeUpcall {off : Nat} (hoff : off < recordSize) :
    (beforeUpcall.core 0).protCheck (beforeUpcall.whoOf 0 0) off .write = .ok false := by
  have hprot : rd (beforeUpcall.core 0).prot 0 = firstPages := by
    rw [same_beforeUpcall.prot 0]
    rfl
  have hasid : (beforeUpcall.whoOf 0 0).asid = 0 := by
    unfold State.whoOf
    rw [strand_beforeUpcall]
    rfl
  have hlt : off < 16384 := hoff
  have hcovers : protCovers firstPages off = true := by
    have hvalid : protV firstPages = true := by decide
    have hlow : qf firstPages 0 9 = 0 := by decide
    have hhigh : qf firstPages 16 9 = 3 := by decide
    have hpage : off / 4096 ≤ 3 := by omega
    simp [protCovers, hvalid, hlow, hhigh, hpage]
  have hregion : (beforeUpcall.core 0).region off = some firstPages := by
    unfold Core.region
    rw [List.finRange_succ, List.map_cons, hprot, List.find?_cons_of_pos (p := fun p => protCovers p off) hcovers]
  unfold Core.protCheck
  rw [if_neg (by simp only [sliceTop]; omega), hregion]
  simp only [hasid]
  rfl

/-- The strand after the `suspend` has taken the upcall: c56 is the capability to the record. -/
theorem me_afterUpcall :
    (beforeUpcall.takeUpcall 0 0 refusal false false 0).me = suspending.upcallTaken (refusal.word false false) refusal.va := by
  have hx := strand_beforeUpcall
  obtain ⟨hcur, hvers, -⟩ := same_beforeUpcall
  have hcur0 : beforeUpcall.cur = (0, 0) := hcur.trans rfl
  obtain ⟨u, hu, hucur⟩ := writeUpcall_local (s := beforeUpcall) (c := 0) (k := 0) (f := refusal) (posted := false) (atEnd := false)
    (pc := 0) (hvers.trans rfl) (fun _ => prot_beforeUpcall) (by rw [hx]; rfl) (by rw [hx]; decide) (by rw [hx]; decide) (by rw [hx]; rfl)
    (by rw [hx]; rfl) (by rw [hx]; exact ⟨rfl, rfl, rfl, rfl, rfl, rfl⟩)
  have hvec : (beforeUpcall.strand 0 0).uvec.tag = true := by rw [hx]; decide
  have hexec : (beforeUpcall.strand 0 0).uvec.has .exec = true := by rw [hx]; decide
  have htag : (beforeUpcall.strand 0 0).uarea.tag = true := by rw [hx]; decide
  have hline : (beforeUpcall.strand 0 0).uarea.addr.toNat % 64 = 0 := by rw [hx]; decide
  have hperm : (beforeUpcall.strand 0 0).uarea.hasAll [.st, .stcap] = true := by rw [hx]; decide
  have hroom : (beforeUpcall.strand 0 0).uarea.inBounds (beforeUpcall.strand 0 0).uarea.addr.toNat recordSize = true := by
    rw [hx]; decide
  have hstrand := takeUpcall_strand hvec hexec htag hline hperm hroom hu
  rw [hx] at hstrand
  rw [State.me, takeUpcall_cur hvec hexec htag hline hperm hroom hu, hucur, hcur0]
  exact hstrand

end SuspendRefused

open SuspendRefused in
/-- Refutes O60: the upcall of a `suspend` whose place cannot be written leaves in c56 a capability with LD, cut from a UAREA
that has none. -/
theorem not_capabilitiesOnlyNarrow : ¬ Obligations.CapabilitiesOnlyNarrow := by
  unfold Obligations.CapabilitiesOnlyNarrow
  intro h
  have hme := me_beforeSuspend
  obtain ⟨-, -, -, -, hends⟩ := h beforeSuspend _ 0 0 0 0 0 2 3 0 0 0 0 0 (by rw [hme]; decide)
  obtain ⟨-, hsuspend⟩ := hends (by rw [hme]; rfl) (by rw [hme]; rfl)
  have h56 := hsuspend exec_suspend_refused 56
  rw [me_afterUpcall, (upcallTaken_creg _ _ _).1, hme] at h56
  rcases h56 (by decide) with hsame | ⟨-, -, -, -, hperms, -⟩
  · exact absurd (congrArg CVal.tag hsame) (by decide)
  · exact absurd (hperms .ld (by decide)) (by decide)

end Sys2Proof.Machine
end

section
/-! PROOF. Loads and stores of scalars, queues, bursts and vectors complete (04 R100-R112; 01 R27): one lemma for each shape
that they share, under the reading of their operands, the strand's own load or store, and the landing of the value. -/

namespace Sys2Proof.Machine

section
variable {s s1 s2 : State} {g m : Fin 8} {d a b e : Fin 64} {r w : Fin 32} {c u : CVal} {v j : VReg} {x y z t : Strand} {len n : Nat}
  {k : Fin 4} {off : Dbl} {kind : AccKind} {bs : List RByte}

/-! ### At issue -/

theorem portReady_of_ne (h : d.val ≠ 62) (s : State) : s.portReady d = .ok () := by simp [State.portReady, h]

/-- c62 takes no value but a copy's index capability (01 R15). -/
theorem ne_of_result (h : x.result d u = some z) : d.val ≠ 62 := by
  intro hd
  simp [Strand.result, hd] at h

theorem ne_of_landing (h : x.landing d u = some z) : d.val ≠ 62 := by
  intro hd
  simp [Strand.landing, Strand.result, hd] at h

theorem laOk_zero (fixed : Bool) : laOk 0 fixed = .ok () := by simp [laOk, need]

theorem laOk_of_ordinary {l : Nat} : laOk l false = .ok () := by simp [laOk, need]

theorem fixedC_of_ordinary (h0 : 0 < d.val) (h : d.val < 60) : fixedC d = false := by
  have hd : d ≠ 0 := fun e => by simp [e] at h0
  simp [fixedC, hd, h]

/-- A load with no earlier one under way is the strand's read. -/
theorem loadNow_setMe (h : x.loadsPending = false) (c : CVal) (va : Dbl) (n : Nat) :
    (s.setMe x).loadNow c va n = (s.setMe x).load s.cur.1 s.cur.2 s.nextId (c.has .local) va n := by
  simp only [State.loadNow, me_setMe, h]
  rfl

theorem useStoreC_setMe (h : x.storeData a = some (u, y)) : (s.setMe x).useStoreC a = .ok (u, s.setMe y) := by
  simpa only [setMe_setMe] using useStoreC_of (s := s.setMe x) (by rwa [me_setMe])

theorem useStoreV_setMe (h : x.storeDataV r = some (v, y)) : (s.setMe x).useStoreV r = .ok (v, s.setMe y) := by
  simpa only [setMe_setMe] using useStoreV_of (s := s.setMe x) (by rwa [me_setMe])

/-- The window of a load, with the event that ends its access. -/
theorem openWin_post (s : State) (x : Strand) (dst : WinDst) (l : Nat) (acc : Access) :
    ((s.setMe x).openWin dst l acc .pending).2.post 100
      (.loadResponse s.cur.1 s.cur.2 ((s.setMe x).openWin dst l acc .pending).1) = s.windowed x dst l acc := by
  have hme : ({ s.setMe x with nextId := s.nextId + 1 } : State).me = x := me_setMe s x
  have hset : ∀ y, ({ s.setMe x with nextId := s.nextId + 1 } : State).setMe y = { s.setMe y with nextId := s.nextId + 1 } :=
    fun y => congrArg (fun (q : State) => { q with nextId := s.nextId + 1 }) (setMe_setMe s x y)
  simp only [State.openWin, State.newId]
  erw [hme, hset]
  rfl

/-! ### Scalar loads and stores (R107) -/

theorem scalarLoad_now (hg : s.me.guard g = true) (hb : s.me.source b = some (c, x)) (hp : x.loadsPending = false)
    (hmay : s.mayAccess c [.ld] (c.addr + off) n n)
    (hload : (s.setMe x).load s.cur.1 s.cur.2 s.nextId (c.has .local) (c.addr + off) n = .ok (bs, s1))
    (hz : s1.me.landing d { val := BitVec.ofNat 128 (ofBytes (bs.map (·.1)))
                            tag := kind == .loadCap && c.has .ldcap && ((bs[0]?).map (·.2)).getD false } = some z) :
    scalarLoad g len d b 0 off n kind s = .next (s.passedTo len (s1.setMe z)) := by
  refine issue_ok hg ?_
  have hmay' : (s.setMe x).mayAccess c [.ld] (c.addr + off) n n := hmay
  simp only [useC_of_source hb, bind, Except.bind, laOk_zero, checkAccess_ok hmay', portReady_of_ne (ne_of_landing hz), if_true,
    loadNow_setMe hp, hload, orFailed, pure, Except.pure]
  exact landC_of_landing hz

theorem scalarLoad_window {l : Nat} (hg : s.me.guard g = true) (hb : s.me.source b = some (c, x)) (hl : l ≠ 0)
    (h0 : 0 < d.val) (hd : d.val < 60) (hmay : s.mayAccess c [.ld] (c.addr + off) n n) :
    scalarLoad g len d b l off n kind s =
      .next (s.passedTo len (s.windowed x (.c d) l { kind := kind, cap := c, va := c.addr + off, n := n })) := by
  refine issue_ok hg ?_
  have hmay' : (s.setMe x).mayAccess c [.ld] (c.addr + off) n n := hmay
  simp only [useC_of_source hb, bind, Except.bind, fixedC_of_ordinary h0 hd, laOk_of_ordinary, checkAccess_ok hmay',
    portReady_of_ne (d := d) (by omega), hl, if_false]
  exact congrArg Except.ok (openWin_post ..)

theorem scalarStore_of (hg : s.me.guard g = true) (hb : s.me.source b = some (c, x)) (ha : x.storeData a = some (u, y))
    (hspec : (s.setMe y).specOf y = none) (hroom : (s.setMe y).outstanding s.cur.1 s.cur.2 < 16)
    (hmay : s.mayAccess c [.st] (c.addr + off) n n) :
    scalarStore g len a b off n s = .next (s.passedTo len (s.posting y c (c.addr + off)
      (.store [(c.addr + off, toBytes n u.val.toNat)] []))) := by
  refine issue_ok hg ?_
  have hmay' : (s.setMe y).mayAccess c [.st] (c.addr + off) n n := hmay
  simp only [useC_of_source hb, bind, Except.bind, useStoreC_setMe ha, checkAccess_ok hmay']
  exact store_of hspec hroom

theorem capStore_of (hg : s.me.guard g = true) (hb : s.me.source b = some (c, x)) (ha : x.storeData a = some (u, y))
    (hspec : (s.setMe y).specOf y = none) (hroom : (s.setMe y).outstanding s.cur.1 s.cur.2 < 16)
    (hmay : s.mayAccess c (if u.tag then [.st, .stcap] else [.st]) (c.addr + off) 16 16) :
    capStore g len a b off s = .next (s.passedTo len (s.posting y c (c.addr + off)
      (.store [(c.addr + off, toBytes 16 u.val.toNat)] (if u.tag then [c.addr + off] else [])))) := by
  refine issue_ok hg ?_
  have hmay' : (s.setMe y).mayAccess c (if u.tag then [.st, .stcap] else [.st]) (c.addr + off) 16 16 := hmay
  simp only [useC_of_source hb, bind, Except.bind, useStoreC_setMe ha, checkAccess_ok hmay']
  exact store_of hspec hroom

/-! ### Queue transfers and register bursts (R108-R110) -/

theorem queueLoad_of (hg : s.me.guard g = true) (hb : s.me.source b = some (c, x)) (hp : x.loadsPending = false)
    (hmay : s.mayAccess c [.ld] (c.addr + off) (16 * n) 16) (hroom : x.ldq.length + n ≤ 32)
    (hload : (s.setMe x).load s.cur.1 s.cur.2 s.nextId (c.has .local) (c.addr + off) (16 * n) = .ok (bs, s1)) :
    queueLoad g len n b off s =
      .next (s.passedTo len (s1.setMe { s1.me with ldq := s1.me.ldq ++ (quadsOf bs n).map (·.val) })) := by
  refine issue_ok hg ?_
  have hmay' : (s.setMe x).mayAccess c [.ld] (c.addr + off) (16 * n) 16 := hmay
  have hfits : ¬ 32 < x.ldq.length + n := by omega
  simp only [useC_of_source hb, bind, Except.bind, checkAccess_ok hmay', me_setMe, hfits, if_false, loadNow_setMe hp, hload]
  rfl

theorem queueStore_of (hg : s.me.guard g = true) (hb : s.me.source b = some (c, x)) (hn : n ≤ x.stq.length)
    (hmay : s.mayAccess c [.st] (c.addr + off) (16 * n) 16) (hy : y = { x with stq := x.stq.drop n })
    (hspec : (s.setMe y).specOf y = none) (hroom : (s.setMe y).outstanding s.cur.1 s.cur.2 < 16) :
    queueStore g len n b off s = .next (s.passedTo len (s.posting y c (c.addr + off)
      (.store [(c.addr + off, (x.stq.take n).flatMap (fun q => toBytes 16 q.toNat))] []))) := by
  refine issue_ok hg ?_
  have hmay' : (s.setMe x).mayAccess c [.st] (c.addr + off) (16 * n) 16 := hmay
  simp only [useC_of_source hb, bind, Except.bind, me_setMe, need, hn, decide_true, if_true, checkAccess_ok hmay', updMe_eq,
    setMe_setMe, ← hy]
  exact store_of hspec hroom

theorem ldm_of (hg : s.me.guard g = true) (hb : s.me.source b = some (c, x)) (hp : x.loadsPending = false)
    (hmay : s.mayAccess c [.ld] c.addr (16 * (e.val + 1)) 16)
    (hload : (s.setMe x).load s.cur.1 s.cur.2 s.nextId (c.has .local) c.addr (16 * (e.val + 1)) = .ok (bs, s1))
    (hburst : s1.burst d.val (c.has .ldcap) (quadsOf bs (e.val + 1)) = .ok s2) :
    execLdm g d b e s = .next (s.passedTo 4 s2) := by
  refine issue_ok hg ?_
  have hmay' : (s.setMe x).mayAccess c [.ld] c.addr (16 * (e.val + 1)) 16 := hmay
  simp only [useC_of_source hb, bind, Except.bind, checkAccess_ok hmay', loadNow_setMe hp, hload]
  exact hburst

theorem stm_of {rs : List CVal} (hg : s.me.guard g = true) (hb : s.me.source b = some (c, x))
    (hrs : rs = (List.range (e.val + 1)).map (fun i => x.creg (Fin.ofNat 64 (d.val + i))))
    (hmay : s.mayAccess c (if rs.any (·.tag) then [.st, .stcap] else [.st]) c.addr (16 * (e.val + 1)) 16)
    (hspec : (s.setMe x).specOf x = none) (hroom : (s.setMe x).outstanding s.cur.1 s.cur.2 < 16) :
    execStm g d b e s = .next (s.passedTo 4 (s.posting x c c.addr
      (.store [(c.addr, rs.flatMap (fun r => toBytes 16 r.val.toNat))]
        ((rs.zipIdx.filter (fun p => p.1.tag)).map (fun p => c.addr + BitVec.ofNat 64 (16 * p.2)))))) := by
  refine issue_ok hg ?_
  have hmay' : (s.setMe x).mayAccess c (if rs.any (·.tag) then [.st, .stcap] else [.st]) c.addr (16 * (e.val + 1)) 16 := hmay
  simp only [useC_of_source hb, bind, Except.bind, me_setMe, ← hrs, checkAccess_ok hmay']
  exact store_of hspec hroom

/-! ### Vector loads and stores (R111, R112) -/

theorem vectorLoad_now (hg : s.me.guard g = true) (hb : s.me.source b = some (c, x)) (hp : x.loadsPending = false)
    (hmay : s.mayAccess c [.ld] (c.addr + off) 128 4)
    (hload : (s.setMe x).load s.cur.1 s.cur.2 s.nextId (c.has .local) (c.addr + off) 128 = .ok (bs, s1))
    (hz : s1.me.landingV r (BitVec.ofNat 1024 (ofBytes (bs.map (·.1)))) = some z) :
    vectorLoad g len r b 0 off s = .next (s.passedTo len (s1.setMe z)) := by
  refine issue_ok hg ?_
  have hmay' : (s.setMe x).mayAccess c [.ld] (c.addr + off) 128 4 := hmay
  simp only [useC_of_source hb, bind, Except.bind, laOk_zero, checkAccess_ok hmay', if_true, loadNow_setMe hp, hload, orFailed,
    pure, Except.pure]
  exact landV_of_landingV hz

theorem vectorLoad_window {l : Nat} (hg : s.me.guard g = true) (hb : s.me.source b = some (c, x)) (hl : l ≠ 0)
    (hr : r.val < 30) (hmay : s.mayAccess c [.ld] (c.addr + off) 128 4) :
    vectorLoad g len r b l off s =
      .next (s.passedTo len (s.windowed x (.v r) l { kind := .vector, cap := c, va := c.addr + off, n := 128 })) := by
  refine issue_ok hg ?_
  have hmay' : (s.setMe x).mayAccess c [.ld] (c.addr + off) 128 4 := hmay
  have hfixed : decide (30 ≤ r.val) = false := decide_eq_false (by omega)
  simp only [useC_of_source hb, bind, Except.bind, hfixed, laOk_of_ordinary, checkAccess_ok hmay', hl, if_false]
  exact congrArg Except.ok (openWin_post ..)

/-- The lanes of a vector store: none are no access, and others one posted access. -/
theorem storeLanes_nil (s : State) (c : CVal) (v : VReg) : s.storeLanes c v [] = .ok s := rfl

theorem storeLanes_of {lanes : List (Nat × Dbl)} (hspec : (s.setMe y).specOf y = none)
    (hroom : (s.setMe y).outstanding s.cur.1 s.cur.2 < 16) (h : lanes ≠ []) :
    (s.setMe y).storeLanes c v lanes =
      .ok (s.posting y c c.addr (.store (lanes.map (fun p => (p.2, toBytes 4 (lane32 v p.1).toNat))) [])) := by
  have hne : lanes.isEmpty = false := by simpa using h
  simp only [State.storeLanes, hne, Bool.false_eq_true, if_false]
  exact store_of hspec hroom

/-- What a store of some lanes of `v` leaves, the strand being `y` once its operands have been read. -/
def State.PostsLanes (s : State) (c : CVal) (p : Out) (len : Nat) (y : Strand) (v : VReg) (lanes : List (Nat × Dbl)) : Prop :=
  (s.setMe y).checkLanes c .st (lanes.map (·.2)) = .ok () → (s.setMe y).specOf y = none →
  (s.setMe y).outstanding s.cur.1 s.cur.2 < 16 →
  (lanes = [] → p = .next (s.passed len y)) ∧
  (lanes ≠ [] → p = .next (s.passedTo len (s.posting y c c.addr
    (.store (lanes.map (fun p => (p.2, toBytes 4 (lane32 v p.1).toNat))) []))))

/-- A vector store, its operands read, checks its lanes and stores them. -/
theorem issue_postsLanes {f : State → Except Stop State} {lanes : List (Nat × Dbl)} (hg : s.me.guard g = true)
    (hf : f s = (s.setMe y).checkLanes c .st (lanes.map (·.2)) >>= fun _ => (s.setMe y).storeLanes c v lanes) :
    s.PostsLanes c (issue g len s f) len y v lanes := by
  intro hcheck hspec hroom
  simp only [hcheck, bind, Except.bind] at hf
  refine ⟨fun h => issue_me hg ?_, fun h => issue_ok hg ?_⟩
  · rw [hf, h, storeLanes_nil]
  · rw [hf, storeLanes_of hspec hroom h]

theorem vectorStore_posts (hg : s.me.guard g = true) (hb : s.me.source b = some (c, x)) (hr : x.storeDataV r = some (v, y)) :
    s.PostsLanes c (vectorStore g len r b m off s) len y v
      ((onLanes (y.mask m)).map (fun i => (i, c.addr + off + BitVec.ofNat 64 (4 * i)))) := by
  refine issue_postsLanes hg ?_
  simp only [useC_of_source hb, bind, Except.bind, useStoreV_setMe hr, me_setMe]

theorem vsts_posts (hg : s.me.guard g = true) (hb : s.me.source b = some (c, x)) (he : x.source e = some (u, z))
    (hr : z.storeDataV r = some (v, t)) :
    s.PostsLanes c (execVsts g r b e k s) 4 t v (strided (t.mask (Fin.ofNat 8 k.val)) c.addr u.addr) := by
  refine issue_postsLanes hg ?_
  simp only [useC_of_source hb, bind, Except.bind, useX_setMe he, useStoreV_setMe hr, me_setMe]

theorem vstx_posts (hg : s.me.guard g = true) (hb : s.me.source b = some (c, x)) (hw : x.sourceV w = some (j, z))
    (hr : z.storeDataV r = some (v, t)) :
    s.PostsLanes c (execVstx g r b w k s) 4 t v (indexed (t.mask (Fin.ofNat 8 k.val)) c.addr j) := by
  refine issue_postsLanes hg ?_
  simp only [useC_of_source hb, bind, Except.bind, useV_setMe hw, useStoreV_setMe hr, me_setMe]

/-- What a gather into v destination `r` leaves, the strand being `y` once its operands have been read. -/
def State.GathersLanes (s : State) (c : CVal) (r : Fin 32) (p : Out) (y : Strand) (lanes : List (Nat × Dbl)) : Prop :=
  (s.setMe y).checkLanes c .ld (lanes.map (·.2)) = .ok () →
  ∀ ws s1 z, (s.setMe y).loadLanes c lanes = .ok (ws, s1) →
    let s2 := if r.val = 31 then { s1 with freshN := s1.freshN + 1 } else s1
    let old := if r.val = 31 then Config.freeValue s1.freshN else if r.val = 30 then 0 else rd s1.me.v r
    s2.me.landingV r (ofLanes32 (fun i => ((ws.find? (fun p => p.1 == i)).map (·.2)).getD (lane32 old i))) = some z →
    p = .next (s.passedTo 4 (s2.setMe z))

theorem oldLanes_eq (s : State) (r : Fin 32) : s.oldLanes r =
    (if r.val = 31 then Config.freeValue s.freshN else if r.val = 30 then 0 else rd s.me.v r,
     if r.val = 31 then { s with freshN := s.freshN + 1 } else s) := by
  unfold State.oldLanes
  split_ifs <;> rfl

/-- A vector load of lanes, its operands read, gathers them. -/
theorem issue_gathersLanes {f : State → Except Stop State} {lanes : List (Nat × Dbl)} (hg : s.me.guard g = true)
    (hf : f s = (s.setMe y).gather r c lanes) : s.GathersLanes c r (issue g 4 s f) y lanes := by
  intro hcheck ws s1 z hload s2 old hz
  refine issue_ok hg ?_
  simp only [hf, State.gather, hcheck, hload, bind, Except.bind, oldLanes_eq]
  exact landV_of_landingV hz

theorem vlds_gathers (hg : s.me.guard g = true) (hb : s.me.source b = some (c, x)) (he : x.source e = some (u, z)) :
    s.GathersLanes c r (execVlds g r b e k s) z (strided (z.mask (Fin.ofNat 8 k.val)) c.addr u.addr) := by
  refine issue_gathersLanes hg ?_
  simp only [useC_of_source hb, bind, Except.bind, useX_setMe he, me_setMe]

theorem vldx_gathers (hg : s.me.guard g = true) (hb : s.me.source b = some (c, x)) (hw : x.sourceV w = some (j, z)) :
    s.GathersLanes c r (execVldx g r b w k s) z (indexed (z.mask (Fin.ofNat 8 k.val)) c.addr j) := by
  refine issue_gathersLanes hg ?_
  simp only [useC_of_source hb, bind, Except.bind, useV_setMe hw, me_setMe]

end

/-! ### The statements -/

/-- Settles O6: each instruction is a scalar or vector load of one size, at once or in a window. -/
theorem loadResults : Obligations.LoadResults := by
  refine ⟨fun s g d b o l c x hg hb hp => ?_, fun s g d b o v a l c x hg hb ha => ?_⟩
  · refine forall_mem_of_imp (fun p => ∃ kind, exec p.1 s = scalarLoad g p.2.1 d b 0 p.2.2.1 p.2.2.2.1 kind s ∧
      (kind == .loadCap) = p.2.2.2.2) ?_ fun p ⟨kind, he, hk⟩ hmay bs s1 z hload hz =>
        he.trans (scalarLoad_now hg hb hp hmay hload (by rw [hk]; exact hz))
    simp only [List.forall_mem_cons, ← off6_scaled]
    exact ⟨⟨.load, rfl, rfl⟩, ⟨.load, rfl, rfl⟩, ⟨.load, rfl, rfl⟩, ⟨.load, rfl, rfl⟩, ⟨.load, rfl, rfl⟩, ⟨.loadCap, rfl, rfl⟩,
      ⟨.load, rfl, rfl⟩, ⟨.load, rfl, rfl⟩, ⟨.load, rfl, rfl⟩, ⟨.load, rfl, rfl⟩, ⟨.load, rfl, rfl⟩, ⟨.loadCap, rfl, rfl⟩, by simp⟩
  have hl : a.val ≠ 0 := fun h => ha (Fin.ext h)
  refine ⟨fun h0 hd => ?_, fun hv => ?_⟩
  · refine forall_mem_of_imp (fun p => exec p.1 s = scalarLoad g p.2.1 d b a.val p.2.2.1 p.2.2.2.1 p.2.2.2.2 s) ?_
      fun p he hmay => he.trans (scalarLoad_window hg hb hl h0 hd hmay)
    simp only [List.forall_mem_cons, ← off6_scaled]
    exact ⟨rfl, rfl, rfl, rfl, rfl, rfl, rfl, rfl, rfl, rfl, rfl, rfl, by simp⟩
  · refine forall_mem_of_imp (fun p => exec p.1 s = vectorLoad g p.2.1 v b a.val p.2.2 s) ?_
      fun p he hmay => he.trans (vectorLoad_window hg hb hl hv hmay)
    simp only [List.forall_mem_cons, ← off6_scaled]
    exact ⟨rfl, rfl, by simp⟩

/-- Settles O7: each instruction is of one of six shapes. -/
theorem storeAndBurstResults : Obligations.StoreAndBurstResults := by
  refine ⟨fun s g r b o l c v x y hg hb hr hspec hroom => ⟨?_, ?_⟩, fun s g n d b o k l c x hg hb => ⟨?_, ?_, ?_, ?_⟩⟩
  · refine forall_mem_of_imp (fun p => exec p.1 s = scalarStore g p.2.1 r b p.2.2.1 p.2.2.2 s) ?_
      fun p he hmay => he.trans (scalarStore_of hg hb hr hspec hroom hmay)
    simp only [List.forall_mem_cons, ← off6_scaled]
    exact ⟨rfl, rfl, rfl, rfl, rfl, rfl, rfl, rfl, rfl, rfl, by simp⟩
  · refine forall_mem_of_imp (fun p => exec p.1 s = capStore g p.2.1 r b p.2.2 s) ?_
      fun p he hmay => he.trans (capStore_of hg hb hr hspec hroom hmay)
    simp only [List.forall_mem_cons, ← off6_scaled]
    exact ⟨rfl, rfl, by simp⟩
  · refine forall_mem_of_imp (fun p => exec p.1 s = queueLoad g p.2.1 (n.val + 1) b p.2.2 s) ?_
      fun p he hmay hroom hp bs s1 hload => ?_
    · simp only [List.forall_mem_cons, ← off6_scaled]
      exact ⟨rfl, rfl, by simp⟩
    · rw [he, queueLoad_of hg hb hp hmay hroom hload, quadsOf, List.map_map]
      rfl
  · refine forall_mem_of_imp (fun p => exec p.1 s = queueStore g p.2.1 (n.val + 1) b p.2.2 s) ?_
      fun p he hmay hn hspec hroom => he.trans (queueStore_of hg hb hn hmay rfl hspec hroom)
    simp only [List.forall_mem_cons, ← off6_scaled]
    exact ⟨rfl, rfl, by simp⟩
  · intro m hmay hp bs s1 s2 hload hburst
    exact ldm_of hg hb hp hmay hload hburst
  · intro m rs hmay hspec hroom
    exact stm_of hg hb rfl hmay hspec hroom

/-- Settles O8: a vector load is a load of 128 bytes or a gather of its lanes, a vector store a store of its lanes. -/
theorem vectorMemoryTransfers : Obligations.VectorMemoryTransfers := by
  intro s g m d w b o e l k c i v j x y z t hg hb posts gathers
  have hposts : posts = fun p => s.PostsLanes c (exec p s) := rfl
  have hgathers : gathers = fun p => s.GathersLanes c d (exec p s) := rfl
  clear_value posts gathers
  subst hposts hgathers
  simp only [exec_vlds, exec_vsts, exec_vldx, exec_vstx]
  refine ⟨?_, fun hr => ?_, fun he => ⟨vlds_gathers hg hb he, fun hr => vsts_posts hg hb he hr⟩,
    fun hw => ⟨vldx_gathers hg hb hw, fun hr => vstx_posts hg hb hw hr⟩⟩
  · refine forall_mem_of_imp (fun p => exec p.1 s = vectorLoad g p.2.1 d b 0 p.2.2 s) ?_ ?_
    · simp only [List.forall_mem_cons, ← off6_scaled]
      exact ⟨rfl, rfl, by simp⟩
    · intro p he hmay hp bs s1 z hload hz
      exact he.trans (vectorLoad_now hg hb hp hmay hload hz)
  · refine forall_mem_of_imp (fun p => exec p.1 s = vectorStore g p.2.1 d b m p.2.2 s) ?_ ?_
    · simp only [List.forall_mem_cons, ← off6_scaled]
      exact ⟨rfl, rfl, by simp⟩
    · intro p he
      rw [he]
      exact vectorStore_posts hg hb hr

end Sys2Proof.Machine
end

section
/-! PROOF. Atomics outside speculation, fences, touches, prefetches and barriers (04 R113-R118, R121; 18 R324-R333; 19 R343,
R345): what each waits for, and what it leaves once nothing holds it. -/

namespace Sys2Proof.Machine

section
variable {s s1 : State} {g : Fin 8} {d a b : Fin 64} {fn k : Fin 16} {c y w : CVal} {x x1 x2 z : Strand} {old cmp : Dbl} {fl : Nat}

theorem whoOf_setMe (h : x.asid = s.me.asid) : (s.setMe x).whoOf s.cur.1 s.cur.2 = s.whoOf s.cur.1 s.cur.2 := by
  have hx : (s.setMe x).strand s.cur.1 s.cur.2 = x := me_setMe s x
  simp only [State.whoOf, hx, h]
  rfl

/-! ### Atomics (04 R113, R114) -/

/-- What c[d] gives an atomic that compares, and what the strand is once it has been read. -/
theorem useCompare_of (h : if fn = 9 then x1.source d = some (w, x2) else w = .null ∧ x2 = x1) :
    (s.setMe x1).useCompare fn d = .ok (if fn = 9 then w.addr else 0, s.setMe x2) := by
  unfold State.useCompare
  by_cases h9 : fn = 9
  · subst h9
    simp only [if_true] at h
    exact useX_setMe h
  · have hval : fn.val ≠ 9 := fun e => h9 (Fin.ext e)
    rw [if_neg h9] at h ⊢
    rw [if_neg hval, h.2]

theorem asid_of_compare (h : if fn = 9 then x1.source d = some (w, x2) else w = .null ∧ x2 = x1) : x2.asid = x1.asid := by
  split_ifs at h
  · exact source_asid h
  · rw [h.2]

/-- An atomic that does not compare takes null for what it compares with. -/
theorem compare_addr (h : if fn = 9 then x1.source d = some (w, x2) else w = .null ∧ x2 = x1) :
    (if fn = 9 then w.addr else 0) = w.addr := by
  split_ifs at h ⊢
  · rfl
  · rw [h.1]
    rfl

/-- An atomic that is neither parked nor speculative. -/
theorem atomic_of (hg : s.me.guard g = true) (ha : s.me.source a = some (c, x)) (hb : x.source b = some (y, x1))
    (hcmp : if fn = 9 then x1.source d = some (w, x2) else w = .null ∧ x2 = x1)
    (hmay : s.mayAccess c [.ld, .st] c.addr (amoSize fn.val) (amoSize fn.val) true) (hd : d.val ≠ 62)
    (hticket : x2.ticket = none) (herr : x2.amoErr = none) (hspec : (s.setMe x2).specOf x2 = none)
    (h : (s.setMe x2).amoPlain c fn d y.addr (if fn = 9 then w.addr else 0) = .ok s1) :
    atomic fn g d a b s = .next (s.passedTo 4 s1) := by
  refine issue_ok hg ?_
  have hmay' : (s.setMe x2).mayAccess c [.ld, .st] c.addr (amoSize fn.val) (amoSize fn.val) true := hmay
  simp only [useC_of_source ha, useX_setMe hb, bind, Except.bind, useCompare_of hcmp, checkAccess_ok hmay', portReady_of_ne hd,
    me_setMe, herr, hticket, hspec]
  exact h

theorem amoPlain_posted (h : (s.setMe x).outstanding s.cur.1 s.cur.2 < 16) :
    (s.setMe x).amoPlain c fn 0 old cmp = .ok (s.posting x c c.addr (.amo fn old cmp)) := by
  unfold State.amoPlain
  exact postAccess_of h

/-- An atomic performed where its location lies. -/
theorem amoHome_done {loc : Bool} {va : Dbl} {m : Who} {n : Nat} {t : Tr} {v e : Dbl}
    (htr : s.translateAll m loc .write [(va, amoSize n)] = .ok ([(t, va, amoSize n)], s1)) (hdet : s1.detOf t m.asid = none)
    (hok : poisoned s1.poison t.phys (amoSize n) = false)
    (hold : old = BitVec.ofNat 64 (memNat s1.mem t.phys (amoSize n))) :
    s.amoHome m loc va n v e true = .done old (amoResult n old v e).2
      { s1.writeParts m [(t, va, amoSize n)] (toBytes (amoSize n) (amoResult n old v e).1.toNat) with joined := s1.joined } := by
  subst hold
  simp [State.amoHome, htr, hdet, hok]

/-- The old value of an atomic goes to its destination, after its flags. -/
theorem amoDone_of (hd : d ≠ 0) (hz : (s.me.flagged fl).result d (.plain (old.setWidth 128)) = some z) :
    s.amoDone d old fl = .ok (s.setMe z) := by
  rw [State.amoDone, if_neg hd, raise_setMe]
  exact putC_setMe hz

theorem amoPlain_done {s2 : State} (hd : d ≠ 0) (hcross : s.crossing (c.has .local) c.addr (amoSize fn.val) = false)
    (hport : c.has .local = true ∨ offDieAt s.cur.1 c.addr = false ∨
      s.linked = true ∧ ∀ h, niOfVa c.addr = some h → s.behindPort h.val = false)
    (hhome : s.amoHome (s.whoOf s.cur.1 s.cur.2) (c.has .local) c.addr fn.val y.addr cmp true = .done old fl s2)
    (hz : (s2.me.flagged fl).result d (.plain (old.setWidth 128)) = some z) :
    s.amoPlain c fn d y.addr cmp = .ok (s2.setMe z) := by
  have hclear : ¬ ((!c.has .local) = true ∧ offDieAt s.cur.1 c.addr = true ∧
      ((!s.linked) || (niOfVa c.addr).any (fun h => s.behindPort h.val)) = true) := by
    rintro ⟨hloc, hoff, hwait⟩
    rcases hport with h | h | ⟨h, hno⟩
    · simp [h] at hloc
    · simp [h] at hoff
    · cases hni : niOfVa c.addr <;> simp_all
  unfold State.amoPlain
  simp only [hd, if_false, hcross, Bool.false_eq_true, if_neg hclear, hhome]
  exact amoDone_of hd hz

end

/-- Settles O9: the eleven functions are the arms of `amoResult`. -/
theorem atomicResults : Obligations.AtomicResults := by
  intro s g d a b c y w x x1 x2 hg ha hb f32 ops
  refine forall_mem_of_imp (fun p => p.2.2.1 = amoSize p.2.1.val ∧ exec (p.1 g d a b) s = atomic p.2.1 g d a b s ∧
    ∀ o v e, p.2.2.2 o v e = amoResult p.2.1.val o v e) ?_ ?_
  · simp only [ops, List.forall_mem_cons]
    exact ⟨⟨rfl, rfl, fun _ _ _ => rfl⟩, ⟨rfl, rfl, fun _ _ _ => rfl⟩, ⟨rfl, rfl, fun _ _ _ => rfl⟩, ⟨rfl, rfl, fun _ _ _ => rfl⟩,
      ⟨rfl, rfl, fun _ _ _ => rfl⟩, ⟨rfl, rfl, fun _ _ _ => rfl⟩, ⟨rfl, rfl, fun _ _ _ => rfl⟩, ⟨rfl, rfl, fun _ _ _ => rfl⟩,
      ⟨rfl, rfl, fun _ _ _ => rfl⟩, ⟨rfl, rfl, fun _ _ _ => rfl⟩, ⟨rfl, rfl, fun _ _ _ => rfl⟩, by simp⟩
  rintro ⟨i, fn, n, op⟩ ⟨hn, hi, hop⟩ hmay hcmp hticket herr hspec
  dsimp only at *
  subst hn
  simp only [hi, hop]
  have hasid : x2.asid = s.me.asid := (asid_of_compare hcmp).trans ((source_asid hb).trans (source_asid ha))
  refine ⟨fun hd hroom => ?_, fun hd hcross hport t s1 htr hdet hok z hz => ?_⟩
  · subst hd
    exact atomic_of hg ha hb hcmp hmay (by decide) hticket herr hspec (amoPlain_posted hroom)
  · rw [← whoOf_setMe hasid] at htr hz ⊢
    have hdet' : s1.detOf t ((s.setMe x2).whoOf s.cur.1 s.cur.2).asid = none := by rw [whoOf_setMe hasid]; exact hdet
    have hhome := amoHome_done (v := y.addr) (e := w.addr) htr hdet' hok rfl
    refine atomic_of hg ha hb hcmp hmay (ne_of_result hz) hticket herr hspec ?_
    rw [compare_addr hcmp]
    exact amoPlain_done hd hcross hport hhome hz

/-! ### Fences (04 R115, R116; 18 R324-R333) -/

section
variable {s s1 : State} {g : Fin 8} {a b : Fin 64} {k : Fin 16} {c y : CVal} {x x1 : Strand}

/-- The posted accesses that a fence of the running strand waits for (18 R330, R333). -/
theorem mem_fencedPosts {p : Posted} : p ∈ s.fencedPosts ↔
    p ∈ s.myCore.wpath ∧ p.slot = s.cur.2 ∧ p.wid = s.me.work.wid ∧ (p.isAmo = false ∨ p.crosses s.cur.1 = false) ∨
    ∃ q ∈ s.parked, q.wid = s.me.work.wid ∧ q.p.crosses q.core = false ∧ q.p = p := by
  simp only [State.fencedPosts, List.mem_append, List.mem_filter, List.mem_map, Bool.and_eq_true, beq_iff_eq, Bool.not_eq_true',
    Bool.and_eq_false_iff, and_assoc]

/-- Nothing at a scope waits for a value that the strand has taken (18 R324). -/
theorem tookOpen_scope (h : k.val < 2 ∨ ∀ i ∈ s.me.took, s.unperformed s.cur.1 i = false) :
    (decide (2 ≤ k.val) && s.tookOpen) = false := by
  rcases h with h | h
  · simp [h]
  · have : s.tookOpen = false := by
      rw [State.tookOpen, List.any_eq_false]
      intro i hi
      simp [h i hi]
    simp [this]

theorem acquires_of (hloads : s.me.loadsPending = false) (hamo : ∀ p ∈ s.fencedPosts, p.isAmo = false)
    (htook : (decide (2 ≤ k.val) && s.tookOpen) = false) : s.acquires k = false := by
  have hnone : s.fencedPosts.any Posted.isAmo = false := by
    rw [List.any_eq_false]
    intro p hp
    simp [hamo p hp]
  simp only [State.acquires, hloads, hnone, htook, Bool.or_self]

theorem releases_of (hloads : s.me.loadsPending = false) (hnone : s.fencedPosts = [])
    (htook : (decide (2 ≤ k.val) && s.tookOpen) = false) : s.releases k = false := by
  simp only [State.releases, hloads, hnone, htook, List.isEmpty_nil, Bool.not_true, Bool.or_self]

/-- An instruction that changes nothing. -/
theorem issue_same {len : Nat} {f : State → Except Stop State} (hg : s.me.guard g = true) (h : f s = .ok s) :
    issue g len s f = .next (s.passed len s.me) := issue_me hg (by rw [setMe_me]; exact h)

theorem fenceAcq_of (hg : s.me.guard g = true) (h : s.acquires k = false) :
    exec (.fenceAcq g k) s = .next (s.passed 4 s.me) := exec_fenceAcq.trans (issue_same hg (by simp [h]))

theorem fenceRel_of (hg : s.me.guard g = true) (h : s.releases k = false) :
    exec (.fenceRel g k) s = .next (s.passed 4 s.me) := exec_fenceRel.trans (issue_same hg (by simp [h]))

theorem fenceAr_of (hg : s.me.guard g = true) (ha : s.acquires k = false) (hr : s.releases k = false) :
    exec (.fenceAr g k) s = .next (s.passed 4 s.me) := exec_fenceAr.trans (issue_same hg (by simp [ha, hr]))

/-- `afence` drops the core's copies of the lines of its range (04 R116). -/
theorem afence_of (hg : s.me.guard g = true) (htask : s.me.work.task = none) (ha : s.me.source a = some (c, x))
    (hb : x.source b = some (y, x1)) (hmay : s.mayAccess c (if c.has .ld then [.ld] else [.st]) c.addr y.addr.toNat 1)
    (hregion : c.has .local = true ∨ df c.addr 56 8 ≤ 1)
    (hposts : y.addr = 0 ∨ ∀ p ∈ (s.setMe x1).pendingPosts s.cur.1, p.touches (c.has .local) s.me.asid c.addr y.addr.toNat = false) :
    exec (.afence g a b) s = .next (s.passedTo 4 ((s.setMe x1).updCore s.cur.1 (fun (q : Core) =>
      { q with l0 := q.l0.filter (fun e => !(e.asid == s.me.asid && y.addr.toNat != 0 &&
          decide (c.addr.toNat / 64 ≤ e.line.toNat) &&
          decide (e.line.toNat ≤ (c.addr.toNat + y.addr.toNat - 1) / 64))) }))) := by
  refine exec_afence.trans (issue_ok hg ?_)
  have hmay' : (s.setMe x1).mayAccess c (if c.has .ld then [.ld] else [.st]) c.addr y.addr.toNat 1 := hmay
  have hasid : x1.asid = s.me.asid := (source_asid hb).trans (source_asid ha)
  have hin : ¬ ((!c.has .local) = true ∧ 1 < df c.addr 56 8) := by
    rintro ⟨hloc, hfar⟩
    rcases hregion with h | h
    · simp [h] at hloc
    · omega
  have hnone : ¬ (y.addr.toNat ≠ 0 ∧
      (((s.setMe x1).pendingPosts s.cur.1).any fun p => p.touches (c.has .local) s.me.asid c.addr y.addr.toNat) = true) := by
    rintro ⟨hne, hany⟩
    rcases hposts with h | h
    · simp [h] at hne
    · obtain ⟨p, hp, ht⟩ := List.any_eq_true.mp hany
      simp [h p hp] at ht
  have hcur : (s.setMe x1).cur = s.cur := rfl
  simp only [notSpec_ok htask, useC_of_source ha, useX_setMe hb, bind, Except.bind, checkAccess_ok hmay', hin, if_false,
    pure, Except.pure, me_setMe, hasid, hcur, if_neg hnone]

/-! ### Touch and prefetch (04 R117, R118) -/

theorem touchPage_of {p : Perm} {m : Mode} {t : Tr} (hg : s.me.guard g = true) (ha : s.me.source a = some (c, x))
    (hmay : s.mayAccess c [p] c.addr 1 1)
    (htr : (s.setMe x).translate (s.whoOf s.cur.1 s.cur.2) (c.has .local) c.addr m = (.ok t, s1)) :
    touchPage g a p m s = .next (s.passedTo 4 s1) := by
  refine issue_ok hg ?_
  have hmay' : (s.setMe x).mayAccess c [p] c.addr 1 1 := hmay
  rw [← whoOf_setMe (source_asid ha)] at htr
  simp only [useC_of_source ha, bind, Except.bind, checkAccess_ok hmay']
  exact htr ▸ rfl

theorem pfx_of {t : Tr} (hg : s.me.guard g = true) (ha : s.me.source a = some (c, x)) (hmay : s.mayAccess c [.ld] c.addr 1 1)
    (htr : (s.setMe x).translate (s.whoOf s.cur.1 s.cur.2) (c.has .local) c.addr .read = (.ok t, s1)) :
    exec (.pfx g a) s = .next (s.passedTo 4 (s1.l0Fill s.cur.1 s.me.asid t c.addr true)) := by
  refine exec_pfx.trans (issue_ok hg ?_)
  have hmay' : (s.setMe x).mayAccess c [.ld] c.addr 1 1 := hmay
  rw [← whoOf_setMe (source_asid ha)] at htr
  have hcur : (s.setMe x).cur = s.cur := rfl
  simp only [useC_of_source ha, checkAccess_ok hmay', hcur] at htr ⊢
  simp only [htr, me_setMe, source_asid ha]

/-- A prefetch that cannot be translated is dropped. -/
theorem pfx_untranslated {e : FaultInfo} (hg : s.me.guard g = true) (ha : s.me.source a = some (c, x))
    (hmay : s.mayAccess c [.ld] c.addr 1 1)
    (htr : (s.setMe x).translate (s.whoOf s.cur.1 s.cur.2) (c.has .local) c.addr .read = (.error e, s1)) :
    exec (.pfx g a) s = .next (s.passed 4 x) := by
  refine exec_pfx.trans (issue_me hg ?_)
  have hmay' : (s.setMe x).mayAccess c [.ld] c.addr 1 1 := hmay
  rw [← whoOf_setMe (source_asid ha)] at htr
  have hcur : (s.setMe x).cur = s.cur := rfl
  simp only [useC_of_source ha, checkAccess_ok hmay', hcur] at htr ⊢
  simp only [htr]

theorem checkAccess_refused {ps : List Perm} {va : Dbl} {n al : Nat} (h : c.tag = false ∨ c.hasAll ps = false ∨ c.inBounds va.toNat n = false) :
    ∃ e, s.checkAccess c ps va n al = .error e := by
  unfold State.checkAccess
  split_ifs with h1 h2 h3 h4 h5
  case neg =>
    simp only [Bool.not_eq_true', Bool.not_eq_false] at h1 h2 h4
    simp [h1, h2, h4] at h
  all_goals exact ⟨_, rfl⟩

/-- A prefetch whose check fails is dropped. -/
theorem pfx_unchecked (hg : s.me.guard g = true) (ha : s.me.source a = some (c, x))
    (h : c.tag = false ∨ c.has .ld = false ∨ c.inBounds c.addr.toNat 1 = false) : exec (.pfx g a) s = .next (s.passed 4 x) := by
  refine exec_pfx.trans (issue_me hg ?_)
  obtain ⟨e, he⟩ := checkAccess_refused (s := s.setMe x) (ps := [.ld]) (al := 1) (va := c.addr) (n := 1)
    (by simpa [CVal.hasAll] using h)
  simp only [useC_of_source ha, he]

/-! ### Team barriers (04 R121; 19 R343, R345) -/

theorem bar_level {gr : Grid} {n key : Nat} : (gr.bar n key).level = n ∧ (gr.bar n key).team = key := by
  unfold Grid.bar
  cases h : gr.bars.find? (fun b => b.level == n && b.team == key) with
  | none => exact ⟨rfl, rfl⟩
  | some b => simpa using List.find?_some h

theorem bar_setBar {gr : Grid} {b : Barrier} {n key : Nat} (hn : b.level = n) (hkey : b.team = key) :
    (gr.setBar b).bar n key = b := by simp [Grid.bar, Grid.setBar, hn, hkey]

/-- The last member to arrive completes the barrier. -/
theorem arrive_last {gr : Grid} {n : Nat} {m : Member}
    (h : ∀ y ∈ gr.members, gr.sameTeam n m y = true → y.ended = true ∨ y.i = m.i ∨ y.i ∈ (gr.bar n (gr.teamKey n m)).arrived) :
    gr.arrive n m = gr.setBar { gr.bar n (gr.teamKey n m) with gen := (gr.bar n (gr.teamKey n m)).gen + 1, arrived := [] } := by
  unfold Grid.arrive
  dsimp only
  rw [if_pos]
  rw [List.all_eq_true]
  intro y hy
  cases hteam : gr.sameTeam n m y with
  | false => rfl
  | true =>
    rcases h y hy hteam with h | h | h
    · simp [h]
    · split_ifs <;> simp_all
    · split_ifs <;> simp_all

/-- Its generation has come. -/
theorem arrive_gen {gr : Grid} {n : Nat} {m : Member}
    (h : ∀ y ∈ gr.members, gr.sameTeam n m y = true → y.ended = true ∨ y.i = m.i ∨ y.i ∈ (gr.bar n (gr.teamKey n m)).arrived) :
    ((gr.arrive n m).bar n (gr.teamKey n m)).gen = (gr.bar n (gr.teamKey n m)).gen + 1 := by
  obtain ⟨hlevel, hteam⟩ := bar_level (gr := gr) (n := n) (key := gr.teamKey n m)
  rw [arrive_last h, bar_setBar]
  · exact hlevel
  · exact hteam

section
variable {n : Fin 8} {gid : Word} {gr : Grid} {m : Member} {dom : Nat} (hg : s.me.guard g = true) (htask : s.me.work.task = none)
  (hgid : s.me.work.grid = some gid) (hgrid : s.grid gid = some gr) (hmember : s.me.work.member = some m.i)
  (hm : gr.members.find? (fun y => y.i == m.i) = some m) (hdom : gr.r.domain n.val = some dom)
  (hacq : s.acquires (gr.r.scope n.val) = false) (hrel : s.releases (gr.r.scope n.val) = false)
include hg htask hgid hgrid hmember hm hdom hacq hrel

/-- A level of the strand alone has nobody to wait for. -/
theorem bar_alone (h0 : dom = 0) : exec (.bar g n) s = .next (s.passed 4 s.me) := by
  have hbind : s.me.work.grid.bind s.grid = some gr := by rw [hgid]; exact hgrid
  refine exec_bar.trans (issue_same hg ?_)
  simp only [notSpec_ok htask, bind, Except.bind, hbind, hmember, hdom, hm, hacq, hrel, Bool.or_self, Bool.false_eq_true,
    if_false, h0, if_true, pure, Except.pure]

theorem bar_last {k : Barrier} (h0 : dom ≠ 0) (hat : s.me.barAt = none) (hk : k = gr.bar n.val (gr.teamKey n.val m))
    (hall : ∀ y ∈ gr.members, gr.sameTeam n.val m y = true → y.ended = true ∨ y.i = m.i ∨ y.i ∈ k.arrived)
    (hs1 : s1 = s.updGrid gr.id (fun _ => gr.setBar { k with gen := k.gen + 1, arrived := [] })) :
    exec (.bar g n) s = .next (s.passedTo 4 (s1.setMe { s1.me with barAt := none })) := by
  subst hk hs1
  have hbind : s.me.work.grid.bind s.grid = some gr := by rw [hgid]; exact hgrid
  refine exec_bar.trans (issue_ok hg ?_)
  have hkey : ∀ z, (gr.setBar z).teamKey n.val m = gr.teamKey n.val m := fun _ => rfl
  have hgen := arrive_gen hall
  rw [arrive_last hall] at hgen
  simp only [notSpec_ok htask, bind, Except.bind, hbind, hmember, hdom, hm, hacq, hrel, Bool.or_self, Bool.false_eq_true,
    if_false, h0, hat, pure, Except.pure, arrive_last hall, hkey]
  exact if_pos (lt_of_lt_of_eq (Nat.lt_succ_self _) hgen.symm)

end

end

/-- Settles O10. -/
theorem fencesAndBarriersComplete : Obligations.FencesAndBarriersComplete := by
  constructor
  · intro s g k a b c y x x1 hg mine seen
    refine ⟨fun hloads hamo hseen => ?_, fun hloads hnone hseen => ?_, fun hempty => ?_, fun ha => ⟨?_, ?_, ?_, ?_, ?_⟩⟩
    · exact fenceAcq_of hg (acquires_of hloads (fun p hp => hamo p (mem_fencedPosts.mp hp)) (tookOpen_scope hseen))
    · have hnil : s.fencedPosts = [] := List.eq_nil_iff_forall_not_mem.mpr fun p hp => hnone p (mem_fencedPosts.mp hp)
      have hrel := releases_of hloads hnil (tookOpen_scope hseen)
      exact ⟨fenceRel_of hg hrel, fenceAr_of hg (acquires_of hloads (by simp [hnil]) (tookOpen_scope hseen)) hrel⟩
    · exact exec_pfx.trans (issue_same hg (by simp only [hempty, Stop.t]))
    · intro htask hb hmay hregion hposts
      exact afence_of hg htask ha hb hmay hregion hposts
    · intro t s1 htr hmay
      exact ⟨exec_touch.trans (touchPage_of hg ha hmay htr), pfx_of hg ha hmay htr⟩
    · intro e s1 htr hmay
      exact pfx_untranslated hg ha hmay htr
    · exact pfx_unchecked hg ha
    · intro t s1 htr hmay
      exact exec_touchW.trans (touchPage_of hg ha hmay htr)
  · intro s g n gid gr m dom hg htask hgid hgrid hmember hm hdom hacq hrel
    refine ⟨bar_alone hg htask hgid hgrid hmember hm hdom hacq hrel, fun h0 hat => ?_⟩
    intro b hall
    exact bar_last hg htask hgid hgrid hmember hm hdom hacq hrel h0 hat rfl hall rfl

end Sys2Proof.Machine
end

section
/-! PROOF. Posted accesses at their homes, and what the accesses of a strand's own slice do to memory (04 R103, R104, R106, R113,
R114; 18 R321, R322; 21 R368, R369). -/

namespace Sys2Proof.Machine

/-! ### Posted accesses (R106) -/

section
variable {s s1 : State} {c : CoreId} {p : Posted} {again : Instr} {f : FaultInfo}
  {perform : State → Posted → Except (Option FaultInfo × State) State}

/-- Nothing that a posted access follows is still to be performed: earlier accesses, the bridge, the strand's earlier loads
(R103; 18 R321, R332). -/
structure Posted.Arrived (s : State) (c : CoreId) (p : Posted) : Prop where
  found : (s.core c).wpath.find? (fun q => q.id == p.id) = some p
  first : ∀ q ∈ (s.core c).wpath.takeWhile (fun q => q.id != p.id), p.ahead c q = false
  port : p.crosses c = true → s.linked = true
  loads : ∀ w ∈ (s.strand c p.slot).allWins, w.res = .pending → p.id ≤ w.id

theorem Posted.Arrived.ready (h : p.Arrived s c) :
    ¬ (((s.core c).wpath.takeWhile (fun q => q.id != p.id)).any (fun q => p.ahead c q) = true ∨
      (p.crosses c && !s.linked) = true ∨
      (s.strand c p.slot).allWins.any (fun w => w.res == .pending && decide (w.id < p.id)) = true) := by
  obtain ⟨-, first, port, loads⟩ := h
  rintro (h | h | h)
  · obtain ⟨q, hq, ha⟩ := List.any_eq_true.mp h
    simp [first q hq] at ha
  · simp only [Bool.and_eq_true, Bool.not_eq_true'] at h
    simp [port h.1] at h
  · obtain ⟨w, hw, hpend⟩ := List.any_eq_true.mp h
    simp only [Bool.and_eq_true, beq_iff_eq, decide_eq_true_eq] at hpend
    have := loads w hw hpend.1
    omega

theorem atHome_replay (h : p.Arrived s c) (hr : s.replays c p = true) :
    atHome c p.id again s perform = .next (s.holdBack c p none) := by
  simp only [atHome, h.found, if_neg h.ready, hr, if_true]

theorem atHome_done (h : p.Arrived s c) (hr : s.replays c p = false) (hp : perform s p = .ok s1) :
    atHome c p.id again s perform = .next (s1.unpost c p.id) := by
  simp only [atHome, h.found, if_neg h.ready, hr, hp, Bool.false_eq_true, if_false]

theorem atHome_failed (h : p.Arrived s c) (hr : s.replays c p = false) (hp : perform s p = .error (some f, s1)) :
    atHome c p.id again s perform = .next ((s1.holdBack c p (some f)).post 1 (.postedErrorResponse c p.id)) := by
  simp only [atHome, h.found, if_neg h.ready, hr, hp, Bool.false_eq_true, if_false]

end

/-! ### A core's own slice (R103, R104; 21 R368, R369) -/

section
variable {s : State} {w : Who} {off : Nat} {bs : List Byte} {keep : Bool}

theorem setTags_nil (s : State) (ts : List (Tr × Dbl × Nat)) : s.setTags ts [] = s := by
  unfold State.setTags
  induction ts with
  | nil => rfl
  | cons t ts ih => exact ih

theorem toNat_of_slice (h : off ≤ sliceTop) : (BitVec.ofNat 64 off).toNat = off := by
  have hlt : off < 2 ^ 64 := Nat.lt_of_le_of_lt h (by decide)
  rw [BitVec.toNat_ofNat, Nat.mod_eq_of_lt hlt]

/-- A store within a line of the slice writes its bytes there. -/
theorem homeWrite_slice (hline : off % 64 + bs.length ≤ 64) (hne : bs ≠ []) (htop : off + bs.length ≤ sliceTop)
    (hprot : (s.core w.core).protCheck w off .write = .ok keep) :
    ∃ s1, s.homeWrite w true [(BitVec.ofNat 64 off, bs)] [] = .ok s1 ∧
      s1.stored = (s.physWrite (slicePhys w.core off) bs).stored := by
  have hoff : (BitVec.ofNat 64 off).toNat = off := toNat_of_slice (by omega)
  have hlen : 0 < bs.length := List.length_pos_iff.mpr hne
  obtain ⟨t, ht, hphys, -⟩ := translate_local (va := BitVec.ofNat 64 off) (by rw [hoff]; exact hprot)
  rw [hoff] at hphys
  have hparts : partsOf (BitVec.ofNat 64 off) bs.length = [(BitVec.ofNat 64 off, bs.length)] :=
    partsOf_within_line hlen (by rw [hoff]; exact hline)
  have hwrite : s.homeWrite w true [(BitVec.ofNat 64 off, bs)] [] =
      .ok (((s.physWrite (slicePhys w.core off) bs).ordinaryWrite t.key).dropL0 t.key (slicePhys w.core off / 64)) := by
    simp only [State.homeWrite, State.translateRanges, hparts, State.translateAll, ht, List.foldl_cons, List.foldl_nil,
      setTags_nil, State.writeParts, hphys, List.take_length]
  exact ⟨_, hwrite, by rw [stored_dropL0, stored_ordinaryWrite]⟩

end

/-! ### The statement -/

/-- Settles O11. -/
theorem postedAccessesReachTheirHomes : Obligations.PostedAccessesReachTheirHomes := by
  constructor
  · intro s c p found first port loads
    have h : p.Arrived s c := ⟨found, first, port, loads⟩
    refine ⟨fun hr => ?_, fun hr hspec => ?_⟩
    · simp only [List.forall_mem_cons]
      exact ⟨exec_storeAtHome.trans (atHome_replay h hr), exec_amoAtHome.trans (atHome_replay h hr),
        exec_xaddAtHome.trans (atHome_replay h hr), by simp⟩
    intro w fails
    have hwho : p.who c = w := rfl
    refine ⟨fun parts tagged hk => ⟨fun s1 hw => ?_, fun f s1 hw => ?_⟩,
      fun fn y e hk => ⟨fun old fl s1 ha => ?_, fun ni k s1 ha => ?_, fun f s1 ha => ?_⟩,
      fun acc v hk => ⟨fun q i hx => ?_, fun f s1 hx => ?_⟩⟩
    · refine exec_storeAtHome.trans (atHome_done h hr ?_)
      simp only [hk, hspec]
      exact congrArg answered hw
    · refine exec_storeAtHome.trans (atHome_failed h hr ?_)
      simp only [hk, hspec]
      exact congrArg answered hw
    · refine exec_amoAtHome.trans (atHome_done h hr ?_)
      simp only [hk, hspec, hwho, ha]
    · refine exec_amoAtHome.trans (atHome_done h hr ?_)
      simp only [hk, hspec, hwho, ha]
    · refine exec_amoAtHome.trans (atHome_failed h hr ?_)
      simp only [hk, hspec, hwho, ha]
    · refine exec_xaddAtHome.trans (atHome_done h hr ?_)
      simp only [hk, hwho, hx]
    · refine exec_xaddAtHome.trans (atHome_failed h hr ?_)
      simp only [hk, hwho, hx]
  · intro s w off bs hok hline hne htop m k hprot
    have hoff : (BitVec.ofNat 64 off).toNat = off := toNat_of_slice (by omega)
    have hlen : 0 < bs.length := List.length_pos_iff.mpr hne
    refine ⟨?_, ?_⟩
    · rintro rfl
      obtain ⟨s1, hw, hstored⟩ := homeWrite_slice hline hne htop hprot
      obtain ⟨hmem, htags, -⟩ := mem_tags_poison_of_stored hstored
      have hwf : Memory.wf s.mem = true := by
        simp only [State.memoryOk, Bool.and_eq_true] at hok
        exact hok.1.1
      refine ⟨s1, hw, hmem, htags, fun a ha => ?_, fun i b hb => ?_⟩
      · rw [State.byteAt, hmem]
        exact memGet_memWrite_out _ _ _ hwf ha
      · rw [State.byteAt, hmem]
        exact memGet_memWrite_in _ _ _ _ hwf hb
    · rintro rfl hpoison
      have hread := homeRead_local (s := s) (w := w) (va := BitVec.ofNat 64 off) (n := bs.length) (m := .read) (keep := k) hlen
        (by rw [hoff]; exact hline) (by rw [hoff]; exact hprot) (by rw [hoff]; exact hpoison)
      rw [hoff] at hread
      exact hread

end Sys2Proof.Machine
end

section
/-! PROOF. Engine operations are issued or deferred, and moves, copies and geometry registers (04 R119; 07 R193-R196; 13 R261,
R267; 16 R308). -/

namespace Sys2Proof.Machine

section
variable {s : State} {g k : Fin 8} {d a b : Fin 64} {u v : CVal} {x y : Strand} {job : Job} {todo : List Piece} {first : Nat → Instr}

/-! ### An operation started (R196; 16 R308) -/

theorem specOf_none (h : x.work.task = none) (s : State) : s.specOf x = none := by simp [State.specOf, h]

/-- An operation of a strand outside speculation, as it stands in the list. -/
def State.opOf (s : State) (k : Fin 8) (job : Job) (todo : List Piece) : Op :=
  { id := s.nextId, core := s.cur.1, wid := s.me.work.wid, grid := s.me.work.grid, asid := s.me.asid, token := some k, dom := none,
    deferred := false, job := job, todo := todo, next := 0, buf := [], cur := none, idx := [], bad := [], handed := none,
    logged := false, failed := false }

theorem startOp_issued (h : s.me.work.task = none) : s.startOp (some k) job todo first =
    ((({ s with nextId := s.nextId + 1, ops := s.ops ++ [s.opOf k job todo] } : State).updWork s.cur.1 s.me.work.wid
      (fun (x : Strand) => { x with tok := wr x.tok k { rd x.tok k with out := (rd x.tok k).out + 1 } })).post 100
        (first s.nextId)) := by
  have hnew : s.newId.2.me = s.me := rfl
  simp only [State.startOp, State.newOp, hnew, specOf_none h, h, Option.isSome_none, Bool.false_eq_true, if_false, false_and,
    or_self, Option.map_none]
  rfl

theorem startOp_deferred {t : SpecCtx} (h : s.specOf s.me = some t) : s.startOp (some k) job todo first =
    (({ s with nextId := s.nextId + 1,
               ops := s.ops ++ [{ s.opOf k job todo with token := none, dom := some t.dom, deferred := true }] } : State).updTask
      t.dom t.id (fun (y : STask) => { y with defer := y.defer ++ [.op s.nextId] })) := by
  have hspec : s.newId.2.specOf s.newId.2.me = some t := h
  simp only [State.startOp, State.newOp, hspec, h, Option.isSome_some, if_true, Option.map_some]
  rfl

theorem engineFree_of (htask : s.me.work.task = none) (hawait : s.me.await = none) (hcount : s.engineCount < 64) :
    s.engineFree = .ok () := by
  have hroom : ¬ 64 ≤ s.engineCount := by omega
  simp only [State.engineFree, hawait, Option.isSome_none, Bool.false_eq_true, if_false, hroom, State.deferRoom,
    State.deferRoomFor, specOf_none htask]

/-! ### get and give (R119) -/

theorem moveData_of {fromB : Bool} {c : CVal} {n : Nat} (hg : s.me.guard g = true) (hfree : s.engineFree = .ok ())
    (ha : s.me.source a = some (u, x)) (hb : x.source b = some (v, y)) (hc : (if fromB then u else v) = c)
    (hn : n = (c.top - c.addr.toNat).toNat) (htag : c.tag = true) (hloc : c.has .local = true)
    (hlen : n % 16 = 0 ∧ 16 ≤ n ∧ n ≤ 65536) (hsrc : s.mayAccess v [.ld, .eng] v.addr n 16 true)
    (hdst : s.mayAccess u [.st, .eng] u.addr n 16 true) :
    moveData g k a b fromB s = .next (s.passedTo 4 ((s.setMe y).startOp (some k)
      (.move v u n (s.offDie u n || s.offDie v n)) [{ row := 0, off := 0, len := n }] (fun id => .streamerPiece id 0))) := by
  refine issue_ok hg ?_
  have hsrc' : (s.setMe y).mayAccess v [.ld, .eng] v.addr n 16 true := hsrc
  have hdst' : (s.setMe y).mayAccess u [.st, .eng] u.addr n 16 true := hdst
  simp only [hfree, useC_of_source ha, useC_setMe hb, bind, Except.bind, hc, need_true htag, need_true hloc, ← hn,
    need_true (decide_eq_true hlen), State.checkMove, checkAccess_ok hsrc', checkAccess_ok hdst']
  rfl

/-! ### xcopy (R193-R195) -/

/-- The strand once a read-out that is pending in the copy's target tile register has been discarded (01 R27). -/
def Strand.dropTile (y : Strand) : Option (Fin 8) → Strand
  | some t => y.dropWin (.t t)
  | none => y

/-- What `xcopy` checks at issue, its operands being read. -/
structure CopyGeo.Allowed (s : State) (geo : CopyGeo) (x : Vector Dbl 7) (u v : CVal) (a : Fin 64) (ends : List (Dbl × Nat)) : Prop where
  values : geo.bad x u a = false
  source : v.tag = true ∧ v.hasAll [.ld, .eng] = true
  target : geo.tile = none → u.tag = true ∧ u.hasAll [.st, .eng] = true
  held : ∀ t, geo.tile = some t → (rd s.myCore.t t).holder = some s.cur.2
  reads : ∀ p ∈ geo.srcSpans v, v.inBounds p.1.toNat p.2 = true ∧ s.onDie v p.1 p.2 = true
  writes : ∀ p ∈ ends, u.inBounds p.1.toNat p.2 = true ∧ s.onDie u p.1 p.2 = true

theorem myCore_setMe_t (s : State) (y : Strand) : (s.setMe y).myCore.t = s.myCore.t := by
  simp [State.myCore, State.setMe, State.setStrand, State.updCore, State.setCore, State.core]

theorem newOp_id (s : State) (token : Option (Fin 8)) (job : Job) (todo : List Piece) : (s.newOp token job todo).1 = s.nextId := by
  simp only [State.newOp]
  split <;> rfl

/-- The copy starts, or stands until its index capability comes, from the strand without the read-out that it discards. -/
theorem xcopy_of {geo : CopyGeo} (hg : s.me.guard g = true) (hfree : s.engineFree = .ok ()) (ha : s.me.source a = some (u, x))
    (hb : x.source b = some (v, y)) (hgeo : geo = geoOf y.xgeo)
    (hok : geo.Allowed s y.xgeo u v a (if geo.tile.isSome then [] else geo.dstSpans u)) :
    execXcopy g k a b s = .next (s.passedTo 4 (
      if geo.mode = 3 then ((s.setMe (y.dropTile geo.tile)).newOp (some k) (.copy geo v u none) geo.runs).2.updMe
        (fun (z : Strand) => { z with await := some s.nextId })
      else (s.setMe (y.dropTile geo.tile)).startOp (some k) (.copy geo v u none) geo.runs (fun id => .streamerPiece id 0))) := by
  obtain ⟨hvalues, hsource, htarget, hheld, hreads, hwrites⟩ := hok
  have hdie : ∀ c p n, (s.setMe y).onDie c p n = s.onDie c p n := fun _ _ _ => rfl
  have htags : (v.tag && (geo.tile.isSome || u.tag)) = true := by cases h : geo.tile <;> simp_all
  have hperms : (v.hasAll [.ld, .eng] && (geo.tile.isSome || u.hasAll [.st, .eng])) = true := by cases h : geo.tile <;> simp_all
  have hbounds : ((geo.srcSpans v).all (fun p => v.inBounds p.1.toNat p.2) &&
      (if geo.tile.isSome then [] else geo.dstSpans u).all (fun p => u.inBounds p.1.toNat p.2)) = true := by
    rw [Bool.and_eq_true, List.all_eq_true, List.all_eq_true]
    exact ⟨fun p hp => (hreads p hp).1, fun p hp => (hwrites p hp).1⟩
  have hdies : ((geo.srcSpans v).all (fun p => s.onDie v p.1 p.2) &&
      (if geo.tile.isSome then [] else geo.dstSpans u).all (fun p => s.onDie u p.1 p.2)) = true := by
    rw [Bool.and_eq_true, List.all_eq_true, List.all_eq_true]
    exact ⟨fun p hp => (hreads p hp).2, fun p hp => (hwrites p hp).2⟩
  have hvalues' : (!geo.bad y.xgeo u a) = true := by rw [hvalues]; rfl
  have hcur : (s.setMe y).cur = s.cur := rfl
  have hid : ∀ z, ((s.setMe z).newOp (some k) (.copy geo v u none) geo.runs).1 = s.nextId := fun _ => newOp_id ..
  refine issue_ok hg ?_
  simp only [hfree, useC_of_source ha, useC_setMe hb, bind, Except.bind, me_setMe, ← hgeo, need_true hvalues', need_true htags,
    need_true hperms, need_true hbounds, hdie, need_true hdies]
  cases ht : geo.tile with
  | none =>
    simp only [hid, Strand.dropTile]
    split_ifs <;> rfl
  | some t =>
    have hholder := need_true (t := .tile) (beq_iff_eq.mpr (hheld t ht))
    simp only [myCore_setMe_t, hcur, hholder, updMe_eq (s.setMe y), me_setMe, setMe_setMe, Strand.dropTile, hid]
    split_ifs <;> rfl

/-- The pieces that a copy is cut from (13 R261). -/
theorem runs_eq (geo : CopyGeo) : geo.runs =
    if geo.mode = 2 ∨ geo.mode = 1 ∧ geo.spitch = geo.xlen then [({ row := 0, off := 0, len := geo.rows * geo.xlen } : Piece)]
    else (List.range geo.rows).map (fun i => ({ row := i, off := 0, len := geo.xlen } : Piece)) := by
  have habut : geo.abut = true ↔ geo.mode = 2 ∨ geo.mode = 1 ∧ geo.spitch = geo.xlen := by simp [CopyGeo.abut]
  simp only [CopyGeo.runs, habut]

/-! ### Geometry registers (R193) -/

theorem xgeo_of (hg : s.me.guard g = true) (ha : s.me.source a = some (u, x)) (hd : d.val < 7) (hv : xgeoOk d.val u.addr = true) :
    exec (.xgeo g d a) s = .next (s.passed 4 { x with xgeo := wr x.xgeo ⟨d.val, hd⟩ u.addr }) := by
  refine exec_xgeo.trans (issue_me hg ?_)
  simp only [useX_of_source ha, bind, Except.bind, hd, dif_pos, need_true hv, pure, Except.pure, updMe_eq, me_setMe, setMe_setMe]

theorem xgeo_ill (hg : s.me.guard g = true) (ha : s.me.source a = some (u, x)) (h : 7 ≤ d.val ∨ xgeoOk d.val u.addr = false) :
    exec (.xgeo g d a) s = .next (s.takeTrap s.cur.1 s.cur.2 .ill none) := by
  refine exec_xgeo.trans (issue_trap hg ?_)
  by_cases hd : d.val < 7
  · have hv : xgeoOk d.val u.addr = false := h.resolve_left (by omega)
    simp only [useX_of_source ha, bind, Except.bind, hd, dif_pos, need_false hv, Stop.t]
  · simp only [useX_of_source ha, bind, Except.bind, hd, dif_neg, not_false_eq_true]
    rfl

end

/-- Settles O17. -/
theorem movesAndCopiesAreIssued : Obligations.MovesAndCopiesAreIssued := by
  refine ⟨?_, ?_, ?_⟩
  · intro s k job todo first o
    refine ⟨fun htask => ⟨startOp_issued htask, fun hawait hcount => engineFree_of htask hawait hcount⟩, fun t ht => ?_⟩
    exact startOp_deferred ht
  · intro s g k a b u v x y hg hfree ha hb
    refine forall_mem_of_imp (fun p => ∃ fromB, exec p.1 s = moveData g k a b fromB s ∧ (if fromB then u else v) = p.2) ?_ ?_
    · simp only [List.forall_mem_cons]
      exact ⟨⟨true, rfl, rfl⟩, ⟨false, rfl, rfl⟩, by simp⟩
    · rintro p ⟨fromB, he, hc⟩ n off htag hloc hlen hsrc hdst
      exact he.trans (moveData_of hg hfree ha hb hc rfl htag hloc hlen hsrc hdst)
  · intro s g k d a b u v x y hg
    refine ⟨fun hfree ha hb => ?_, fun ha => ⟨fun hd hv => xgeo_of hg ha hd hv, xgeo_ill hg ha⟩⟩
    intro geo ends job todo y1 hvalues htag hperms htarget hheld hreads hwrites
    have h := xcopy_of (k := k) hg hfree ha hb rfl ⟨hvalues, ⟨htag, hperms⟩, htarget, hheld, hreads, hwrites⟩
    have hy1 : y1 = y.dropTile geo.tile := by
      show (match geo.tile with | some t => _ | none => _) = _
      cases geo.tile <;> rfl
    have htodo : todo = geo.runs := (runs_eq geo).symm
    rw [hy1, htodo]
    refine ⟨fun hmode => exec_xcopy.trans (h.trans ?_), fun hmode => exec_xcopy.trans (h.trans ?_)⟩
    · rw [if_neg hmode]
    · rw [if_pos hmode]

end Sys2Proof.Machine
end

section
/-! PROOF. The canonical form of memory, tags and uncorrectable words (log entry 1): what it says of a state, of a result that
carries one, and that folds and the writes of memory keep it. -/

namespace Sys2Proof.Machine

/-! ### Sorted lists that lose entries or gain tags -/

theorem wf_lt {a : Nat} {b : Byte} {m : List Host.Cell} (h : Memory.wf ((a, b) :: m) = true) : ∀ c ∈ m, a < c.1 := by
  induction m generalizing a b with
  | nil => simp
  | cons d m ih =>
    obtain ⟨-, hd, hm⟩ := wf_cons.mp h
    have had : a < d.1 := by simpa using hd
    intro c hc
    rcases List.mem_cons.mp hc with rfl | hc
    · exact had
    · exact had.trans (ih hm c hc)

theorem wf_filter {m : List Host.Cell} (p : Host.Cell → Bool) (h : Memory.wf m = true) : Memory.wf (m.filter p) = true := by
  induction m with
  | nil => exact h
  | cons c m ih =>
    obtain ⟨hb, -, hm⟩ := wf_cons.mp h
    by_cases hp : p c = true
    · rw [List.filter_cons_of_pos hp]
      exact wf_cons.mpr ⟨hb, fun d hd => wf_lt h d (List.mem_of_mem_filter (List.mem_of_mem_head? hd)), ih hm⟩
    · rw [List.filter_cons_of_neg hp]
      exact ih hm

theorem rising_foldl {α : Type} {f : List Nat → α → List Nat} (hf : ∀ t a, rising t = true → rising (f t a) = true)
    (l : List α) {t : List Nat} (h : rising t = true) : rising (l.foldl f t) = true := by
  induction l generalizing t with
  | nil => exact h
  | cons a l ih => exact ih (hf _ _ h)

/-! ### A formed state -/

/-- Memory, its granule tags and its uncorrectable words stand in canonical form (log entry 1). -/
def State.Formed (s : State) : Prop := s.memoryOk = true

theorem formed_iff {s : State} :
    s.Formed ↔ Memory.wf s.mem = true ∧ rising s.tags = true ∧ rising s.poison = true := by
  simp [State.Formed, State.memoryOk, and_assoc]

theorem formed_of_stored {s t : State} (h : t.stored = s.stored) (hs : s.Formed) : t.Formed := (memoryOk_of_stored h).trans hs

/-- Canonical form, of what memory holds. -/
def FormedStore (m : List Host.Cell × List Nat × List Nat) : Prop :=
  Memory.wf m.1 = true ∧ rising m.2.1 = true ∧ rising m.2.2 = true

theorem formed_iff_stored {s : State} : s.Formed ↔ FormedStore s.stored := formed_iff

/-! ### A result that carries states -/

/-- What holds of a result: `A` of the value that it gives, `E` of the error that it ends in. -/
def Both {ε α : Type} (E : ε → Prop) (A : α → Prop) : Except ε α → Prop
  | .ok a => A a
  | .error e => E e

theorem Both.bind {ε α β : Type} {E : ε → Prop} {A : α → Prop} {B : β → Prop} {x : Except ε α} {k : α → Except ε β}
    (hx : Both E A x) (hk : ∀ a, A a → Both E B (k a)) : Both E B (x >>= k) := by
  cases x with
  | ok a => exact hk a hx
  | error e => exact hx

theorem Both.ok {ε α : Type} {E : ε → Prop} {A : α → Prop} {x : Except ε α} {a : α} (hx : Both E A x) (h : x = .ok a) : A a := by
  rw [h] at hx
  exact hx

theorem Both.error {ε α : Type} {E : ε → Prop} {A : α → Prop} {x : Except ε α} {e : ε} (hx : Both E A x) (h : x = .error e) :
    E e := by
  rw [h] at hx
  exact hx

theorem except_bind {ε α β : Type} (x : Except ε α) (k : α → Except ε β) :
    x >>= k = match x with | .ok a => k a | .error e => .error e := by
  cases x <;> rfl

theorem except_pure {ε α : Type} (a : α) : (pure a : Except ε α) = .ok a := rfl

theorem except_throw {ε α : Type} (e : ε) : (throw e : Except ε α) = .error e := rfl

/-- A check, and what is done once it has been passed. -/
theorem Both.check {ε β : Type} {E : ε → Prop} {B : β → Prop} {x : Except ε Unit} {k : Unit → Except ε β}
    (hx : Both E (fun _ => True) x) (hk : Both E B (k ())) : Both E B (x >>= k) := hx.bind fun _ _ => hk

theorem Both.ite {ε α : Type} {E : ε → Prop} {A : α → Prop} {x y : Except ε α} {p : Prop} [Decidable p] (hx : Both E A x)
    (hy : Both E A y) : Both E A (if p then x else y) := by
  split
  · exact hx
  · exact hy

/-- A choice between two values that bring a state. -/
theorem formed_ite {α : Type} {x y : α × State} {p : Prop} [Decidable p] (hx : x.2.Formed) (hy : y.2.Formed) :
    (if p then x else y).2.Formed := by
  split
  · exact hx
  · exact hy

/-- The state that a stop carries, if it carries one, is formed. -/
def Stop.Formed : Stop → Prop
  | .upcall _ s | .late _ _ s | .wait s => s.Formed
  | .trap _ _ | .stall => True

/-- The state of an outcome, if it has one, is formed. -/
def Out.Formed : Out → Prop
  | .next s => s.Formed
  | .fault _ | .refused _ => True

/-- The same of a strand whose windows have been settled. -/
def Settled.Formed : Settled → Prop
  | .go s | .trap _ _ s => s.Formed
  | .stall | .upcall => True

/-- The same of an atomic at its home. -/
def AmoRes.Formed : AmoRes → Prop
  | .done _ _ s | .park _ _ s | .failed _ s => s.Formed

/-- The same of an index read. -/
def IdxRes.Formed : IdxRes → Prop
  | .known _ s | .fault _ s => s.Formed
  | .lost s t => s.Formed ∧ t.Formed

/-- The same of a message at its place in delivery order. -/
def Landing.Formed : Landing → Prop
  | .accepted s | .refused s _ _ _ => s.Formed

/-- The same of a kernel after an instruction. -/
def KNext.Formed : KNext → Prop
  | .on s | .ended s | .bad s => s.Formed

/-- What a kernel executes keeps the canonical form. -/
def KAct.Formed : KAct → Prop
  | .run _ f => ∀ s, s.Formed → Out.Formed (f s)
  | .load .. | .pfx .. | .hend .. => True

/-! ### Folds -/

theorem foldl_formed {α : Type} {f : State → α → State} (hf : ∀ s a, s.Formed → (f s a).Formed) (l : List α) {s : State}
    (h : s.Formed) : (l.foldl f s).Formed := by
  induction l generalizing s with
  | nil => exact h
  | cons a l ih => exact ih (hf _ _ h)

theorem foldlM_formed {α : Type} {f : State → α → Except Stop State}
    (hf : ∀ s a, s.Formed → Both Stop.Formed State.Formed (f s a)) (l : List α) {s : State} (h : s.Formed) :
    Both Stop.Formed State.Formed (l.foldlM f s) := by
  induction l generalizing s with
  | nil => exact h
  | cons a l ih =>
    rw [List.foldlM_cons]
    have ha := hf s a h
    cases hr : f s a with
    | error e => rw [hr] at ha; exact ha
    | ok t => rw [hr] at ha; exact ih ha

/-! ### Writes of memory and of tags -/

theorem physWrite_formed {s : State} (h : s.Formed) (p : Nat) (bs : List Byte) : (s.physWrite p bs).Formed := physWrite_ok p bs h
theorem pteOr_formed {s : State} (h : s.Formed) (a b : Nat) : (s.pteOr a b).Formed := pteOr_ok a b h
theorem writeParts_formed {s : State} (h : s.Formed) (w : Who) (ts : List (Tr × Dbl × Nat)) (bs : List Byte) :
    (s.writeParts w ts bs).Formed := writeParts_ok w ts bs h

theorem tagSet_formed {s : State} (h : s.Formed) (a : Nat) (t : Bool) : ({ s with tags := tagSet s.tags a t } : State).Formed := by
  rw [formed_iff] at h ⊢
  exact ⟨h.1, rising_tagSet _ _ h.2.1, h.2.2⟩

theorem memWrite_formed {s : State} (h : s.Formed) (a : Nat) (bs : List Byte) :
    ({ s with mem := memWrite s.mem a bs } : State).Formed := by
  rw [formed_iff] at h ⊢
  exact ⟨wf_memWrite _ _ h.1, h.2⟩

theorem setTags_formed {s : State} (h : s.Formed) (ts : List (Tr × Dbl × Nat)) (tagged : List Dbl) : (s.setTags ts tagged).Formed := by
  refine foldl_formed (fun s p h => foldl_formed (fun s g h => ?_) _ h) _ h
  split
  · exact tagSet_formed h _ _
  · exact h

/-! ### Strands -/

theorem setMe_formed {s : State} (h : s.Formed) (x : Strand) : (s.setMe x).Formed := h
theorem takeTrap_formed {s : State} (h : s.Formed) (c : CoreId) (k : SlotId) (t : Trap) (a : Option Dbl) :
    (s.takeTrap c k t a).Formed := formed_of_stored (stored_takeTrap ..) h

end Sys2Proof.Machine
end

section
/-! PROOF. What every instruction uses keeps memory canonical: translation, access, operands, issue. -/

namespace Sys2Proof.Machine

section
variable {s : State}

/-! ### Identities and posted accesses -/

theorem postBy_formed (hs : s.Formed) (d e) : (s.postBy d e).Formed := by
  unfold State.postBy
  grind [stored_post, formed_iff_stored]

/-! ### Translation and its faults -/

theorem logFault_formed (hs : s.Formed) (ni w f) : (s.logFault ni w f).Formed := by
  unfold State.logFault
  grind [stored_logAt, formed_iff_stored]

theorem logRefused_formed (hs : s.Formed) (w f) : (s.logRefused w f).Formed := by
  unfold State.logRefused
  grind [logFault_formed]

theorem setTlb_formed (hs : s.Formed) (ni t) : (s.setTlb ni t).Formed := by
  unfold State.setTlb
  grind [stored_updHome, stored_updCore, formed_iff_stored]

theorem logMet_formed (hs : s.Formed) (ni w f) : (s.logMet ni w f).Formed := by
  unfold State.logMet
  grind [logFault_formed]

theorem walk_formed (hs : s.Formed) (ni asid va m) : (s.walk ni asid va m).2.Formed := by
  unfold State.walk
  grind [pteOr_formed, setTlb_formed]

theorem lookup_formed (hs : s.Formed) (ni asid va m) : (s.lookup ni asid va m).2.Formed := by
  unfold State.lookup
  grind [setTlb_formed, walk_formed]

theorem makeDirty_formed (hs : s.Formed) (ni va e) : (s.makeDirty ni va e).2.Formed := by
  unfold State.makeDirty
  grind [pteOr_formed, setTlb_formed]

theorem translate_formed (hs : s.Formed) (w loc va m) : (s.translate w loc va m).2.Formed := by
  unfold State.translate
  grind [logFault_formed, lookup_formed, logMet_formed, makeDirty_formed]

/-! ### Access to memory -/

theorem t_formed (t) : (Stop.t t).Formed := by
  unfold Stop.t
  grind [Stop.Formed]

theorem translateAll_formed (hs : s.Formed) (w loc m l) : Both (·.2.Formed) (·.2.Formed) (s.translateAll w loc m l) := by
  induction l generalizing s with
  | nil => exact hs
  | cons p ps ih =>
    unfold State.translateAll
    grind [translate_formed, Both]

theorem readParts_formed (hs : s.Formed) (w m l) : Both (·.2.Formed) (fun _ => True) (s.readParts w m l) := by
  induction l with
  | nil => trivial
  | cons p ps ih =>
    unfold State.readParts
    grind [logFault_formed, Both]

theorem homeRead_formed (hs : s.Formed) (w loc va n m) : Both (·.2.Formed) (·.2.Formed) (s.homeRead w loc va n m) := by
  unfold State.homeRead
  grind [translateAll_formed, readParts_formed, Both]

theorem translateRanges_formed (hs : s.Formed) (w loc l) : Both (·.2.Formed) (·.2.Formed) (s.translateRanges w loc l) := by
  induction l generalizing s with
  | nil => exact hs
  | cons p ps ih =>
    unfold State.translateRanges
    grind [translateAll_formed, Both]

theorem homeWrite_formed (hs : s.Formed) (w loc rs tagged) : Both (·.2.Formed) State.Formed (s.homeWrite w loc rs tagged) := by
  unfold State.homeWrite
  grind [translateRanges_formed, writeParts_formed, setTags_formed, foldl_formed, Both]

theorem takeRecord_formed (hs : s.Formed) (x k) : Both Stop.Formed State.Formed (s.takeRecord x k) := by
  unfold State.takeRecord
  grind [stored_updDom, stored_pokeDomain, Both, Stop.Formed, formed_iff, State.stored]

theorem specReadParts_formed (hs : s.Formed) (w x l) : Both Stop.Formed (·.2.Formed) (s.specReadParts w x l) := by
  induction l generalizing s with
  | nil => exact hs
  | cons p ps ih =>
    unfold State.specReadParts
    have hm : ∀ (t : State) (vs : List VRec), t.Formed → ({ t with vers := vs } : State).Formed := fun _ _ h => h
    grind [logFault_formed, takeRecord_formed, Both, Stop.Formed]

theorem specMerge_formed (hs : s.Formed) (x tagged amo ps bs) :
    Both Stop.Formed State.Formed (s.specMerge x tagged amo ps bs) := by
  induction ps generalizing s bs with
  | nil => exact hs
  | cons p ps ih =>
    unfold State.specMerge
    have hm : ∀ (t : State) (vs : List VRec), t.Formed → ({ t with vers := vs } : State).Formed := fun _ _ h => h
    grind [takeRecord_formed, Both]

theorem specStore_formed (hs : s.Formed) (x tagged l amo) : Both Stop.Formed State.Formed (s.specStore x tagged l amo) := by
  unfold State.specStore
  have hm := foldlM_formed (fun s (p : List (Tr × Dbl × Nat) × List Byte) h => specMerge_formed h x tagged amo p.1 p.2) l hs
  grind [Both, foldl_formed, stored_specWrite, formed_iff_stored]

theorem l0Fill_formed (hs : s.Formed) (c asid t va demand) : (s.l0Fill c asid t va demand).Formed := by
  unfold State.l0Fill
  grind [stored_setCore, stored_post, formed_iff_stored]

theorem noteTaken_formed (hs : s.Formed) (c k ids) : (s.noteTaken c k ids).Formed := by
  unfold State.noteTaken
  grind [stored_updStrand, formed_iff_stored]

theorem load_formed (hs : s.Formed) (c k id loc va n) : Both Stop.Formed (·.2.Formed) (s.load c k id loc va n) := by
  unfold State.load
  grind [translateAll_formed, specReadParts_formed, logFault_formed, l0Fill_formed, noteTaken_formed, foldl_formed, Both,
    Stop.Formed]

theorem postAccess_formed (hs : s.Formed) (c k cap va kind) : Both Stop.Formed State.Formed (s.postAccess c k cap va kind) := by
  unfold State.postAccess
  grind [stored_newId, stored_updCore, stored_post, formed_iff_stored, Both, Stop.Formed]

theorem store_formed (hs : s.Formed) (c k cap va parts tagged) :
    Both Stop.Formed State.Formed (s.store c k cap va parts tagged) := by
  unfold State.store
  grind [postAccess_formed, translateRanges_formed, stored_newId, stored_updStrand, specStore_formed, formed_iff_stored, Both,
    Stop.Formed]

/-! ### Operands and results -/

theorem pushEngq_formed (hs : s.Formed) (c wid id q) : (s.pushEngq c wid id q).Formed := by
  unfold State.pushEngq
  grind [stored_updCore, stored_updWork, formed_iff_stored]

theorem useC_formed (hs : s.Formed) (i) : Both Stop.Formed (·.2.Formed) (s.useC i) := by
  unfold State.useC
  grind [stored_setMe, t_formed, formed_iff_stored, Both, Stop.Formed]

theorem useX_formed (hs : s.Formed) (i) : Both Stop.Formed (·.2.Formed) (s.useX i) := by
  unfold State.useX
  grind [useC_formed, Both]

theorem useV_formed (hs : s.Formed) (i) : Both Stop.Formed (·.2.Formed) (s.useV i) := by
  unfold State.useV
  grind [stored_setMe, t_formed, formed_iff_stored, Both]

theorem useStoreC_formed (hs : s.Formed) (i) : Both Stop.Formed (·.2.Formed) (s.useStoreC i) := by
  unfold State.useStoreC
  grind [stored_setMe, t_formed, useC_formed, formed_iff_stored, Both]

theorem useStoreV_formed (hs : s.Formed) (i) : Both Stop.Formed (·.2.Formed) (s.useStoreV i) := by
  unfold State.useStoreV
  grind [stored_setMe, t_formed, useV_formed, formed_iff_stored, Both]

theorem handOver_formed (hs : s.Formed) (v) : Both Stop.Formed State.Formed (s.handOver v) := by
  unfold State.handOver
  grind [t_formed, stored_updMe, stored_post, Both, Stop.Formed, formed_iff, State.stored]

theorem portReady_formed (d) : Both Stop.Formed (fun _ => True) (s.portReady d) := by
  unfold State.portReady
  grind [t_formed, Both]

theorem landC_formed (hs : s.Formed) (i v) : Both Stop.Formed State.Formed (s.landC i v) := by
  unfold State.landC
  grind [stored_setMe, handOver_formed, t_formed, formed_iff_stored, Both, Stop.Formed]

theorem putC_formed (hs : s.Formed) (i v) : Both Stop.Formed State.Formed (s.putC i v) := by
  unfold State.putC
  grind [t_formed, landC_formed, stored_setMe, formed_iff_stored, Both]

theorem putX_formed (hs : s.Formed) (i v) : Both Stop.Formed State.Formed (s.putX i v) := by
  unfold State.putX
  grind [putC_formed]

theorem landV_formed (hs : s.Formed) (i v) : Both Stop.Formed State.Formed (s.landV i v) := by
  unfold State.landV
  grind [stored_setMe, formed_iff_stored, Both, Stop.Formed]

theorem putV_formed (hs : s.Formed) (i v) : Both Stop.Formed State.Formed (s.putV i v) := by
  unfold State.putV
  grind [t_formed, landV_formed, stored_setMe, formed_iff_stored, Both]

theorem putG_formed (hs : s.Formed) (i b) : (s.putG i b).Formed := by
  unfold State.putG
  grind [stored_updMe, formed_iff_stored]

theorem putM_formed (hs : s.Formed) (i q) : (s.putM i q).Formed := by
  unfold State.putM
  grind [stored_updMe, formed_iff_stored]

theorem raise_formed (hs : s.Formed) (fl) : (s.raise fl).Formed := hs

theorem openWin_formed (hs : s.Formed) (dst n acc res plsat) : (s.openWin dst n acc res plsat).2.Formed := hs

/-! ### The start and the end of an instruction -/

theorem fetch_formed (hs : s.Formed) (c k pcc va) : Both Stop.Formed (·.2.Formed) (s.fetch c k pcc va) := by
  unfold State.fetch
  grind [homeRead_formed, Both, Stop.Formed]

theorem fetchInstr_formed (hs : s.Formed) (c k) : Both Stop.Formed (·.2.2.2.Formed) (s.fetchInstr c k) := by
  unfold State.fetchInstr
  grind [fetch_formed, Both]

theorem lvtRead_formed (hs : s.Formed) (w lvt off n) : (s.lvtRead w lvt off n).2.Formed := by
  unfold State.lvtRead
  grind [homeRead_formed, Both]

theorem liveEntry_formed (hs : s.Formed) (w lvt i) : (s.liveEntry w lvt i).2.Formed := by
  unfold State.liveEntry
  grind [lvtRead_formed]

theorem liveSearch_formed (hs : s.Formed) (w lvt off n lo hi seen) : (s.liveSearch w lvt off n lo hi seen).2.Formed := by
  induction n generalizing s lo hi seen with
  | zero => exact hs
  | succ n ih =>
    unfold State.liveSearch
    grind [liveEntry_formed]

theorem liveAt_formed (hs : s.Formed) (w lvt pc) : (s.liveAt w lvt pc).2.Formed := by
  unfold State.liveAt
  grind [lvtRead_formed, liveSearch_formed, liveEntry_formed]

theorem takeUpcall_formed (hs : s.Formed) (c k f posted atEnd long) : (s.takeUpcall c k f posted atEnd long).Formed := by
  unfold State.takeUpcall
  grind [stored_hwEnd, liveAt_formed, homeWrite_formed, stored_updCore, stored_setStrand, formed_iff_stored, Both]

theorem issueN_formed (hs : s.Formed) (g len) {f : State → Except Stop (State × Next)} (hf : Both Stop.Formed (·.1.Formed) (f s)) :
    Out.Formed (issueN g len s f) := by
  unfold issueN
  grind [stored_setMe, stored_takeTrap, takeUpcall_formed, formed_iff_stored, Both, Stop.Formed, Out.Formed]

theorem issue_formed (hs : s.Formed) (g len) {f : State → Except Stop State} (hf : Both Stop.Formed State.Formed (f s)) :
    Out.Formed (issue g len s f) := by
  unfold issue
  grind [issueN_formed, Both]

theorem settle_formed (hs : s.Formed) (l) : (s.settle l).Formed := by
  induction l generalizing s with
  | nil => exact hs
  | cons w ws ih =>
    unfold State.settle
    grind [stored_setMe, stored_updMe, stored_updCore, formed_iff_stored, raise_formed, landC_formed, landV_formed, Both,
      Settled.Formed]

theorem settleMe_formed (hs : s.Formed) : s.settleMe.Formed := by
  unfold State.settleMe
  grind [settle_formed]

theorem joinWins_formed (hs : s.Formed) : Both Stop.Formed State.Formed s.joinWins := by
  unfold State.joinWins
  grind [settle_formed, Both, Stop.Formed, Settled.Formed]

theorem joinPosted_formed (hs : s.Formed) : Both Stop.Formed State.Formed s.joinPosted := by
  unfold State.joinPosted
  grind [Both, Stop.Formed]

theorem checkAccess_formed (c ps va n al crosses) : Both Stop.Formed (fun _ => True) (s.checkAccess c ps va n al crosses) := by
  unfold State.checkAccess
  grind [Both, Stop.Formed]

theorem need_formed (b t) : Both Stop.Formed (fun _ => True) (need b t) := by
  unfold need
  grind [t_formed, Both]

theorem allOk_formed {α : Type} (l : List α) {f : α → Except Stop Unit} (hf : ∀ a, Both Stop.Formed (fun _ => True) (f a)) :
    Both Stop.Formed (fun _ => True) (allOk l f) := by
  induction l with
  | nil => trivial
  | cons x xs ih =>
    have hx := hf x
    unfold allOk
    grind

theorem mapOk_formed {α β : Type} (l : List α) {f : α → Except Stop β} (hf : ∀ a, Both Stop.Formed (fun _ => True) (f a)) :
    Both Stop.Formed (fun _ => True) (mapOk l f) := by
  induction l with
  | nil => trivial
  | cons x xs ih =>
    have hx := hf x
    unfold mapOk
    grind [Both]

theorem notSpec_formed : Both Stop.Formed (fun _ => True) s.notSpec := by
  unfold State.notSpec
  grind [need_formed]

theorem deferRoomFor_formed (hs : s.Formed) (n) : Both Stop.Formed (fun _ => True) (s.deferRoomFor n) := by
  unfold State.deferRoomFor
  grind [stored_updDom, stored_pokeDomain, Both, Stop.Formed, formed_iff, State.stored]

theorem deferRoom_formed (hs : s.Formed) : Both Stop.Formed (fun _ => True) s.deferRoom := by
  unfold State.deferRoom
  grind [deferRoomFor_formed]

theorem trapReturn_formed (hs : s.Formed) : Both Stop.Formed State.Formed s.trapReturn := by
  unfold State.trapReturn
  grind [t_formed, stored_setMe, stored_post, formed_iff_stored, foldl_formed, Both]

theorem upcallReturn_formed (hs : s.Formed) (rec' again) : Both Stop.Formed State.Formed (s.upcallReturn rec' again) := by
  refine Both.check (checkAccess_formed ..) ?_
  extract_lets c k x w jp
  have hjp : ∀ u, Both Stop.Formed State.Formed (jp u) := fun u => by
    dsimp only [jp]
    split
    next h => exact (homeRead_formed hs ..).error h
    next h =>
      have ht := (homeRead_formed hs ..).ok h
      split
      · trivial
      split
      next h => exact (homeWrite_formed ht ..).error h
      next v h =>
        have hv : v.Formed := (homeWrite_formed ht ..).ok h
        have hpost : ∀ (ws : List Window) y f, (ws.foldl (fun s w => match w.res with
            | .pending => s.post 1 (.loadResponse c k w.id)
            | _ => s) ((v.setMe y).updCore c f)).Formed := fun ws y f =>
          foldl_formed (fun _ _ hs => by
            split
            · exact formed_of_stored (stored_post ..) hs
            · exact hs) _ (formed_of_stored ((stored_updCore ..).trans (stored_setMe ..)) hv)
        split
        · exact foldl_formed (fun _ _ hs => formed_of_stored (stored_post ..) hs) _ (formed_of_stored (stored_updCore ..)
            (hpost ..))
        · exact hpost ..
  clear_value jp
  split
  · exact hs
  · exact hjp _

end

end Sys2Proof.Machine
end

section
/-! PROOF. The instructions of a core and of its engines keep memory canonical. -/

namespace Sys2Proof.Machine

section
variable {s : State}

/-! ### Shapes of the scalar instructions -/

theorem scalar2_formed (hs : s.Formed) (g d a b f) : (scalar2 g d a b f s).Formed := by
  unfold scalar2
  refine issue_formed hs _ _ ?_
  simp only [except_bind]
  grind [useX_formed, putX_formed, Both]

theorem quad2_formed (hs : s.Formed) (g d a b f) : (quad2 g d a b f s).Formed := by
  unfold quad2
  refine issue_formed hs _ _ ?_
  simp only [except_bind]
  grind [useC_formed, putC_formed, Both]

theorem scalar1_formed (hs : s.Formed) (len g d a f) : (scalar1 len g d a f s).Formed := by
  unfold scalar1
  refine issue_formed hs _ _ ?_
  simp only [except_bind]
  grind [useX_formed, putX_formed, Both]

theorem quad1_formed (hs : s.Formed) (len g d a f) : (quad1 len g d a f s).Formed := by
  unfold quad1
  refine issue_formed hs _ _ ?_
  simp only [except_bind]
  grind [useC_formed, putC_formed, Both]

theorem compare2_formed (hs : s.Formed) (g c h a b k) : (compare2 g c h a b k s).Formed := by
  unfold compare2
  refine issue_formed hs _ _ ?_
  simp only [except_bind, except_pure]
  grind [useX_formed, putG_formed, Both]

theorem compareImm_formed (hs : s.Formed) (len g c h a y) : (compareImm len g c h a y s).Formed := by
  unfold compareImm
  refine issue_formed hs _ _ ?_
  simp only [except_bind, except_pure]
  grind [useX_formed, putG_formed, Both]

theorem guards_formed (hs : s.Formed) (g h f) : (guards g h f s).Formed := by
  unfold guards
  grind [issue_formed, putG_formed, Both]

theorem execSll_formed (hs : s.Formed) (g d a b) : (execSll g d a b s).Formed := scalar2_formed hs ..

theorem execSrl_formed (hs : s.Formed) (g d a b) : (execSrl g d a b s).Formed := scalar2_formed hs ..

theorem execSra_formed (hs : s.Formed) (g d a b) : (execSra g d a b s).Formed := scalar2_formed hs ..

theorem execRot_formed (hs : s.Formed) (g d a b) : (execRot g d a b s).Formed := scalar2_formed hs ..

theorem execMin_formed (hs : s.Formed) (g d a b) : (execMin g d a b s).Formed := scalar2_formed hs ..

theorem execMax_formed (hs : s.Formed) (g d a b) : (execMax g d a b s).Formed := scalar2_formed hs ..

theorem execAndn_formed (hs : s.Formed) (g d a b) : (execAndn g d a b s).Formed := quad2_formed hs ..

theorem execMov_formed (hs : s.Formed) (g d a) : (execMov g d a s).Formed := by
  unfold execMov
  refine issue_formed hs _ _ ?_
  simp only [except_bind]
  grind [useC_formed, putC_formed, Both]

theorem execAddImm_formed (hs : s.Formed) (g d a i) : (execAddImm g d a i s).Formed := scalar1_formed hs ..

theorem execAddImmLiteral_formed (hs : s.Formed) (g d a lit) : (execAddImmLiteral g d a lit s).Formed := scalar1_formed hs ..

theorem execAndImm_formed (hs : s.Formed) (g d a i) : (execAndImm g d a i s).Formed := quad1_formed hs ..

theorem execAndImmLiteral_formed (hs : s.Formed) (g d a lit) : (execAndImmLiteral g d a lit s).Formed := quad1_formed hs ..

theorem execOrImm_formed (hs : s.Formed) (g d a i) : (execOrImm g d a i s).Formed := quad1_formed hs ..

theorem execOrImmLiteral_formed (hs : s.Formed) (g d a lit) : (execOrImmLiteral g d a lit s).Formed := quad1_formed hs ..

theorem execXorImm_formed (hs : s.Formed) (g d a i) : (execXorImm g d a i s).Formed := quad1_formed hs ..

theorem execXorImmLiteral_formed (hs : s.Formed) (g d a lit) : (execXorImmLiteral g d a lit s).Formed := quad1_formed hs ..

theorem execSllImm_formed (hs : s.Formed) (g d a i) : (execSllImm g d a i s).Formed := scalar1_formed hs ..

theorem execSrlImm_formed (hs : s.Formed) (g d a i) : (execSrlImm g d a i s).Formed := scalar1_formed hs ..

theorem execSraImm_formed (hs : s.Formed) (g d a i) : (execSraImm g d a i s).Formed := scalar1_formed hs ..

theorem execRotImm_formed (hs : s.Formed) (g d a i) : (execRotImm g d a i s).Formed := scalar1_formed hs ..

theorem execLi_formed (hs : s.Formed) (g d i) : (execLi g d i s).Formed := by
  unfold execLi
  grind [issue_formed, putX_formed]

theorem execLiLiteral_formed (hs : s.Formed) (g d lit) : (execLiLiteral g d lit s).Formed := by
  unfold execLiLiteral
  grind [issue_formed, putX_formed]

theorem execCmp_formed (hs : s.Formed) (g c h a b) : (execCmp g c h a b s).Formed := compare2_formed hs ..

theorem execGnot_formed (hs : s.Formed) (g h j) : (execGnot g h j s).Formed := guards_formed hs ..

theorem execGand_formed (hs : s.Formed) (g h j k) : (execGand g h j k s).Formed := guards_formed hs ..

theorem execGor_formed (hs : s.Formed) (g h j k) : (execGor g h j k s).Formed := guards_formed hs ..

theorem execSel_formed (hs : s.Formed) (g d a b h) : (execSel g d a b h s).Formed := by
  unfold execSel
  refine issue_formed hs _ _ ?_
  simp only [except_bind]
  grind [useC_formed, putC_formed, Both]

/-! ### Capabilities -/

theorem narrowTo_formed (hs : s.Formed) (d x len) : Both Stop.Formed State.Formed (narrowTo d x len s) := by
  unfold narrowTo
  grind [putC_formed, t_formed, Both]

theorem capUnary_formed (hs : s.Formed) (len g d a f) : (capUnary len g d a f s).Formed := by
  unfold capUnary
  refine issue_formed hs _ _ ?_
  simp only [except_bind]
  grind [useC_formed, putC_formed, Both]

theorem capBinary_formed (hs : s.Formed) (g d a b f) : (capBinary g d a b f s).Formed := by
  unfold capBinary
  refine issue_formed hs _ _ ?_
  simp only [except_bind]
  grind [useC_formed, useX_formed, putC_formed, Both]

theorem execCbnd_formed (hs : s.Formed) (g d a b) : (execCbnd g d a b s).Formed := by
  unfold execCbnd
  refine issue_formed hs _ _ ?_
  simp only [except_bind]
  grind [useC_formed, useX_formed, narrowTo_formed, Both]

theorem execCbndImm_formed (hs : s.Formed) (g d a i) : (execCbndImm g d a i s).Formed := by
  unfold execCbndImm
  refine issue_formed hs _ _ ?_
  simp only [except_bind]
  grind [useC_formed, narrowTo_formed, Both]

theorem execCbndImmLiteral_formed (hs : s.Formed) (g d a lit) : (execCbndImmLiteral g d a lit s).Formed := by
  unfold execCbndImmLiteral
  refine issue_formed hs _ _ ?_
  simp only [except_bind]
  grind [useC_formed, narrowTo_formed, Both]

theorem execCinc_formed (hs : s.Formed) (g d a b) : (execCinc g d a b s).Formed := capBinary_formed hs ..

theorem execCincImm_formed (hs : s.Formed) (g d a i) : (execCincImm g d a i s).Formed := capUnary_formed hs ..

theorem execCincImmLiteral_formed (hs : s.Formed) (g d a lit) : (execCincImmLiteral g d a lit s).Formed := capUnary_formed hs ..

theorem execCperm_formed (hs : s.Formed) (g d a b) : (execCperm g d a b s).Formed := capBinary_formed hs ..

theorem execCtagc_formed (hs : s.Formed) (g d a) : (execCtagc g d a s).Formed := capUnary_formed hs ..

theorem execCgetBase_formed (hs : s.Formed) (g d a) : (execCgetBase g d a s).Formed := capUnary_formed hs ..

theorem execCgetTop_formed (hs : s.Formed) (g d a) : (execCgetTop g d a s).Formed := capUnary_formed hs ..

theorem execCgetLen_formed (hs : s.Formed) (g d a) : (execCgetLen g d a s).Formed := capUnary_formed hs ..

theorem execCgetPerm_formed (hs : s.Formed) (g d a) : (execCgetPerm g d a s).Formed := capUnary_formed hs ..

theorem execCgetTag_formed (hs : s.Formed) (g d a) : (execCgetTag g d a s).Formed := capUnary_formed hs ..

/-! ### Control transfers -/

theorem jumpTo_formed (pcc t) : Both Stop.Formed (fun _ => True) (jumpTo pcc t) := by
  unfold jumpTo
  grind [Both, Stop.Formed]

theorem loadPcc_formed (v) : Both Stop.Formed (fun _ => True) (loadPcc v) := by
  unfold loadPcc
  grind [Both, Stop.Formed]

theorem execJ_formed (hs : s.Formed) (g o) : (execJ g o s).Formed := by
  unfold execJ
  refine issueN_formed hs _ _ ?_
  simp only [except_bind, except_pure]
  grind [jumpTo_formed, Both]

theorem execCall_formed (hs : s.Formed) (g o) : (execCall g o s).Formed := by
  unfold execCall
  refine issueN_formed hs _ _ ?_
  simp only [except_bind, except_pure]
  grind [jumpTo_formed, putC_formed, Both]

theorem execJr_formed (hs : s.Formed) (g a) : (execJr g a s).Formed := by
  unfold execJr
  refine issueN_formed hs _ _ ?_
  simp only [except_bind, except_pure]
  grind [useC_formed, loadPcc_formed, Both]

theorem execRet_formed (hs : s.Formed) (g) : (execRet g s).Formed := by
  unfold execRet
  refine issueN_formed hs _ _ ?_
  simp only [except_bind, except_pure]
  grind [loadPcc_formed, Both]

theorem branch_formed (hs : s.Formed) (g h sense o) : (branch g h sense o s).Formed := by
  unfold branch
  refine issueN_formed hs _ _ ?_
  simp only [except_bind, except_pure]
  grind [jumpTo_formed, Both]

theorem repeatBody_formed (hs : s.Formed) (g len l) {f : State → Except Stop (Nat × State)} (hf : Both Stop.Formed (·.2.Formed) (f s)) :
    Out.Formed (repeatBody g len l s f) := by
  unfold repeatBody
  refine issueN_formed hs _ _ ?_
  simp only [except_bind, except_pure]
  grind [need_formed, stored_updMe, formed_iff_stored, Both]

theorem execRep_formed (hs : s.Formed) (g l i) : (execRep g l i s).Formed := by
  unfold execRep
  grind [repeatBody_formed, Both]

theorem execRepLiteral_formed (hs : s.Formed) (g l lit) : (execRepLiteral g l lit s).Formed := by
  unfold execRepLiteral
  grind [repeatBody_formed, Both]

theorem execRepReg_formed (hs : s.Formed) (g l a) : (execRepReg g l a s).Formed := by
  refine repeatBody_formed hs _ _ _ ?_
  have hx := useX_formed hs a
  cases h : s.useX a with
  | ok p => rw [h] at hx; exact hx
  | error e => rw [h] at hx; exact hx

theorem execNop_formed (hs : s.Formed) (g) : (execNop g s).Formed := by
  unfold execNop
  grind [issue_formed, Both]

theorem execTrap_formed (hs : s.Formed) (g i) : (execTrap g i s).Formed := by
  unfold execTrap
  grind [issue_formed, t_formed, Both]

/-! ### Routes -/

theorem route_formed (hs : s.Formed) (dest m) : (s.route dest m).Formed := by
  unfold State.route
  grind [stored_post, formed_iff, State.stored]

/-! ### Scalar floating point -/

theorem putF_formed (hs : s.Formed) (d r) : Both Stop.Formed State.Formed (s.putF d r) := by
  unfold State.putF
  grind [putX_formed, raise_formed]

theorem float2_formed (hs : s.Formed) (g d a b f) : (float2 g d a b f s).Formed := by
  unfold float2
  refine issue_formed hs _ _ ?_
  simp only [except_bind]
  grind [useX_formed, putF_formed, Both]

theorem floatFma_formed (hs : s.Formed) (neg g d a b) : (floatFma neg g d a b s).Formed := by
  unfold floatFma
  refine issue_formed hs _ _ ?_
  simp only [except_bind]
  grind [useX_formed, putF_formed, Both]

theorem convert_formed (hs : s.Formed) (g d a f) : (convert g d a f s).Formed := by
  unfold convert
  refine issue_formed hs _ _ ?_
  simp only [except_bind]
  grind [useX_formed, putF_formed, Both]

theorem execFsub_formed (hs : s.Formed) (g d a b) : (execFsub g d a b s).Formed := float2_formed hs ..

theorem execFsqrt_formed (hs : s.Formed) (g d a) : (execFsqrt g d a s).Formed := convert_formed hs ..

theorem execFcmp_formed (hs : s.Formed) (g c h a b) : (execFcmp g c h a b s).Formed := by
  unfold execFcmp
  refine issue_formed hs _ _ ?_
  simp only [except_bind, except_pure]
  grind [useX_formed, putG_formed, raise_formed, Both]

theorem execFcvtF32I64_formed (hs : s.Formed) (g d a) : (execFcvtF32I64 g d a s).Formed := convert_formed hs ..

theorem execFcvtF32U64_formed (hs : s.Formed) (g d a) : (execFcvtF32U64 g d a s).Formed := convert_formed hs ..

theorem execFcvtI64F32_formed (hs : s.Formed) (g d a) : (execFcvtI64F32 g d a s).Formed := convert_formed hs ..

theorem execFcvtU64F32_formed (hs : s.Formed) (g d a) : (execFcvtU64F32 g d a s).Formed := convert_formed hs ..

theorem execFcvtBf16F32_formed (hs : s.Formed) (g d a) : (execFcvtBf16F32 g d a s).Formed := convert_formed hs ..

theorem execFcvtF16F32_formed (hs : s.Formed) (g d a) : (execFcvtF16F32 g d a s).Formed := convert_formed hs ..

theorem execFcvtF32Bf16_formed (hs : s.Formed) (g d a) : (execFcvtF32Bf16 g d a s).Formed := convert_formed hs ..

theorem execFcvtF32F16_formed (hs : s.Formed) (g d a) : (execFcvtF32F16 g d a s).Formed := convert_formed hs ..

/-! ### Loads and stores -/

theorem laOk_formed (l fixedDst) : Both Stop.Formed (fun _ => True) (laOk l fixedDst) := by
  unfold laOk
  grind [need_formed]

theorem checkLanes_formed (c p vas) : Both Stop.Formed (fun _ => True) (s.checkLanes c p vas) := by
  unfold State.checkLanes
  grind [Both, Stop.Formed]

theorem loadNow_formed (hs : s.Formed) (c va n) : Both Stop.Formed (·.2.Formed) (s.loadNow c va n) := by
  unfold State.loadNow
  grind [load_formed, Both, Stop.Formed]

theorem orFailed_formed (dst acc) {r : Except Stop (List RByte × State)} {land : List RByte → State → Except Stop State}
    (hr : Both Stop.Formed (·.2.Formed) r) (hl : ∀ b s, s.Formed → Both Stop.Formed State.Formed (land b s)) :
    Both Stop.Formed State.Formed (orFailed dst acc r land) := by
  unfold orFailed
  grind [openWin_formed, Both, Stop.Formed]

theorem scalarLoad_formed (hs : s.Formed) (g len d b l off n kind) : (scalarLoad g len d b l off n kind s).Formed := by
  refine issue_formed hs _ _ <| .bind (useC_formed hs b) fun ⟨c, s⟩ hs => .check (laOk_formed ..) <|
    .check (checkAccess_formed ..) <|
    .check (portReady_formed d) ?_
  split
  · exact orFailed_formed _ _ (loadNow_formed hs ..) fun _ _ hs => landC_formed (formed_of_stored (stored_setMe ..) hs) ..
  · exact formed_of_stored (stored_post ..) (openWin_formed hs ..)

theorem scalarStore_formed (hs : s.Formed) (g len src b off n) : (scalarStore g len src b off n s).Formed := by
  unfold scalarStore
  refine issue_formed hs _ _ ?_
  simp only [except_bind]
  grind [useC_formed, useStoreC_formed, checkAccess_formed, store_formed, Both]

theorem capStore_formed (hs : s.Formed) (g len src b off) : (capStore g len src b off s).Formed := by
  unfold capStore
  refine issue_formed hs _ _ ?_
  simp only [except_bind]
  grind [useC_formed, useStoreC_formed, checkAccess_formed, store_formed, Both]

theorem queueLoad_formed (hs : s.Formed) (g len n b off) : (queueLoad g len n b off s).Formed := by
  unfold queueLoad
  refine issue_formed hs _ _ ?_
  simp only [except_bind, except_pure, except_throw]
  grind [useC_formed, checkAccess_formed, loadNow_formed, stored_updMe, formed_iff_stored, Both, Stop.Formed]

theorem queueStore_formed (hs : s.Formed) (g len n b off) : (queueStore g len n b off s).Formed := by
  unfold queueStore
  refine issue_formed hs _ _ ?_
  simp only [except_bind]
  grind [useC_formed, need_formed, checkAccess_formed, stored_updMe, store_formed, formed_iff_stored, Both]

theorem execLdq_formed (hs : s.Formed) (g n b o) : (execLdq g n b o s).Formed := queueLoad_formed hs ..

theorem execLdqLiteral_formed (hs : s.Formed) (g n b lit) : (execLdqLiteral g n b lit s).Formed := queueLoad_formed hs ..

theorem execStq_formed (hs : s.Formed) (g n b o) : (execStq g n b o s).Formed := queueStore_formed hs ..

theorem execStqLiteral_formed (hs : s.Formed) (g n b lit) : (execStqLiteral g n b lit s).Formed := queueStore_formed hs ..

theorem burst_formed (hs : s.Formed) (d keep l) : Both Stop.Formed State.Formed (s.burst d keep l) := by
  induction l generalizing s d with
  | nil => exact hs
  | cons q qs ih => exact .bind (putC_formed hs ..) fun _ hs => ih hs _

theorem execLdm_formed (hs : s.Formed) (g d a n) : (execLdm g d a n s).Formed := by
  unfold execLdm
  refine issue_formed hs _ _ ?_
  simp only [except_bind]
  grind [useC_formed, checkAccess_formed, loadNow_formed, burst_formed, Both]

theorem execStm_formed (hs : s.Formed) (g d a n) : (execStm g d a n s).Formed := by
  unfold execStm
  refine issue_formed hs _ _ ?_
  simp only [except_bind]
  grind [useC_formed, checkAccess_formed, store_formed, Both]

theorem vectorLoad_formed (hs : s.Formed) (g len d b l off) : (vectorLoad g len d b l off s).Formed := by
  unfold vectorLoad
  refine issue_formed hs _ _ ?_
  simp only [except_bind, except_pure]
  grind [useC_formed, laOk_formed, checkAccess_formed, orFailed_formed, loadNow_formed, landV_formed, stored_setMe,
    openWin_formed, stored_post, formed_iff_stored, Both]

theorem storeLanes_formed (hs : s.Formed) (c v lanes) : Both Stop.Formed State.Formed (s.storeLanes c v lanes) := by
  unfold State.storeLanes
  grind [store_formed, Both]

theorem vectorStore_formed (hs : s.Formed) (g len r b m off) : (vectorStore g len r b m off s).Formed := by
  unfold vectorStore
  refine issue_formed hs _ _ ?_
  simp only [except_bind]
  grind [useC_formed, useStoreV_formed, checkLanes_formed, storeLanes_formed, Both]

theorem loadLanes_formed (hs : s.Formed) (c l) : Both Stop.Formed (·.2.Formed) (s.loadLanes c l) := by
  induction l generalizing s with
  | nil => exact hs
  | cons p ps ih => exact .bind (loadNow_formed hs ..) fun ⟨_, _⟩ hs => .bind (ih hs) fun ⟨_, _⟩ hs => hs

theorem oldLanes_formed (hs : s.Formed) (d) : (s.oldLanes d).2.Formed := by
  unfold State.oldLanes
  grind [stored_free, formed_iff_stored]

theorem gather_formed (hs : s.Formed) (d c lanes) : Both Stop.Formed State.Formed (s.gather d c lanes) := by
  unfold State.gather
  simp only [except_bind]
  grind [checkLanes_formed, loadLanes_formed, oldLanes_formed, landV_formed, stored_setMe, formed_iff_stored, Both]

theorem execVlds_formed (hs : s.Formed) (g d a b m) : (execVlds g d a b m s).Formed := by
  unfold execVlds
  refine issue_formed hs _ _ ?_
  simp only [except_bind]
  grind [useC_formed, useX_formed, gather_formed, Both]

theorem execVldx_formed (hs : s.Formed) (g d a b m) : (execVldx g d a b m s).Formed := by
  unfold execVldx
  refine issue_formed hs _ _ ?_
  simp only [except_bind]
  grind [useC_formed, useV_formed, gather_formed, Both]

theorem execVsts_formed (hs : s.Formed) (g d a b m) : (execVsts g d a b m s).Formed := by
  exact issue_formed hs _ _ <| .bind (useC_formed hs a) fun ⟨_, _⟩ hs => .bind (useX_formed hs b) fun ⟨_, _⟩ hs =>
    .bind (useStoreV_formed hs d) fun ⟨_, _⟩ hs => .check (checkLanes_formed ..) (storeLanes_formed hs ..)

theorem execVstx_formed (hs : s.Formed) (g d a b m) : (execVstx g d a b m s).Formed := by
  exact issue_formed hs _ _ <| .bind (useC_formed hs a) fun ⟨_, _⟩ hs => .bind (useV_formed hs b) fun ⟨_, _⟩ hs =>
    .bind (useStoreV_formed hs d) fun ⟨_, _⟩ hs => .check (checkLanes_formed ..) (storeLanes_formed hs ..)

/-! ### Atomics, fences and posted accesses -/

theorem amoHome_formed (hs : s.Formed) (w loc va fn y cmp parks) : (s.amoHome w loc va fn y cmp parks).Formed := by
  unfold State.amoHome
  have hw : ∀ (t : State) w ts bs j, t.Formed → ({ t.writeParts w ts bs with joined := j } : State).Formed :=
    fun _ w ts bs _ h => writeParts_formed h w ts bs
  grind [translateAll_formed, logFault_formed, Both, AmoRes.Formed]

theorem parkAmo_formed (hs : s.Formed) (c wid grid ni win p d) : (s.parkAmo c wid grid ni win p d).Formed := hs

theorem specAmo_formed (hs : s.Formed) (x w ts fn y cmp) : Both Stop.Formed (·.2.2.Formed) (s.specAmo x w ts fn y cmp) := by
  unfold State.specAmo
  simp only [except_bind, except_pure]
  grind [specReadParts_formed, specStore_formed, Both]

theorem deferTo_formed (hs : s.Formed) (x o) : (s.deferTo x o).Formed := hs

theorem amoDone_formed (hs : s.Formed) (d old fl) : Both Stop.Formed State.Formed (s.amoDone d old fl) := by
  unfold State.amoDone
  grind [raise_formed, putX_formed, Both]

theorem useCompare_formed (hs : s.Formed) (fn d) : Both Stop.Formed (·.2.Formed) (s.useCompare fn d) := by
  unfold State.useCompare
  grind [useX_formed, Both]

theorem amoInTask_formed (hs : s.Formed) (x c fn d y cmp) : Both Stop.Formed State.Formed (s.amoInTask x c fn d y cmp) := by
  unfold State.amoInTask
  simp only [except_bind, except_pure]
  grind [need_formed, deferRoom_formed, stored_newId, deferTo_formed, translateAll_formed, stored_updMe, specAmo_formed,
    amoDone_formed, formed_iff_stored, Both, Stop.Formed]

theorem amoPlain_formed (hs : s.Formed) (c fn d y cmp) : Both Stop.Formed State.Formed (s.amoPlain c fn d y cmp) := by
  unfold State.amoPlain
  grind [postAccess_formed, amoHome_formed, amoDone_formed, parkAmo_formed, stored_newId, stored_updMe, formed_iff_stored,
    Both, Stop.Formed, AmoRes.Formed]

theorem atomic_formed (hs : s.Formed) (fn g d a b) : (atomic fn g d a b s).Formed := by
  refine issue_formed hs _ _ <| .bind (useC_formed hs a) fun ⟨c, s⟩ hs => .bind (useX_formed hs b) fun ⟨y, s⟩ hs =>
    .bind (useCompare_formed hs fn d) fun ⟨cmp, s⟩ hs => .check (checkAccess_formed ..) <| .check (portReady_formed d) ?_
  grind [stored_updMe, formed_iff_stored, amoDone_formed, amoInTask_formed, amoPlain_formed, Both, Stop.Formed]

theorem atHome_formed (hs : s.Formed) (c id again) {f : State → Posted → Except (Option FaultInfo × State) State}
    (hf : ∀ s p, s.Formed → Both (·.2.Formed) State.Formed (f s p)) :
    Out.Formed (atHome c id again s f) := by
  unfold atHome
  grind [stored_post, stored_holdBack, stored_unpost, formed_iff_stored, Both, Out.Formed]

theorem answered_formed {r : Except (FaultInfo × State) State} (hr : Both (·.2.Formed) State.Formed r) :
    Both (·.2.Formed) State.Formed (answered r) := by
  unfold answered
  cases r with
  | ok t => exact hr
  | error e => exact hr

theorem answeredSpec_formed (hs : s.Formed) {r : Except Stop State} (hr : Both Stop.Formed State.Formed r) :
    Both (·.2.Formed) State.Formed (answeredSpec s r) := by
  unfold answeredSpec
  grind [Both, Stop.Formed]

theorem execStoreAtHome_formed (hs : s.Formed) (c id) : (execStoreAtHome c id s).Formed := by
  unfold execStoreAtHome
  grind [atHome_formed, answered_formed, homeWrite_formed, translateRanges_formed, answeredSpec_formed, specStore_formed, Both]

theorem execAmoAtHome_formed (hs : s.Formed) (c id) : (execAmoAtHome c id s).Formed := by
  unfold execAmoAtHome
  refine atHome_formed hs _ _ _ fun s p hs => ?_
  dsimp only
  split
  · split
    · split
      · grind [translateAll_formed, Both]
      next ht =>
        have h1 := (translateAll_formed hs ..).ok ht
        exact answeredSpec_formed h1 <| .bind (specAmo_formed h1 ..) fun ⟨_, _, _⟩ hs => formed_of_stored (stored_updWork ..) hs
    · grind [amoHome_formed, parkAmo_formed, stored_updWork, formed_iff_stored, Both, AmoRes.Formed]
  · exact hs

theorem recall_formed (hs : s.Formed) (c k) : (s.recall c k).Formed := by
  unfold State.recall
  grind [stored_holdBack, formed_iff_stored, foldl_formed]

theorem execPostedErrorResponse_formed (hs : s.Formed) (c id) : (execPostedErrorResponse c id s).Formed := by
  unfold execPostedErrorResponse
  grind [recall_formed, Out.Formed]

theorem orderLoads_formed : Both Stop.Formed (fun _ => True) s.orderLoads := by
  unfold State.orderLoads
  grind [Both, Stop.Formed]

theorem orderStores_formed : Both Stop.Formed (fun _ => True) s.orderStores := by
  unfold State.orderStores
  grind [Both, Stop.Formed]

theorem execFenceAcq_formed (hs : s.Formed) (g k) : (execFenceAcq g k s).Formed := by
  unfold execFenceAcq
  grind [issue_formed, Both, Stop.Formed]

theorem execFenceRel_formed (hs : s.Formed) (g k) : (execFenceRel g k s).Formed := by
  unfold execFenceRel
  grind [issue_formed, Both, Stop.Formed]

theorem execFenceAr_formed (hs : s.Formed) (g k) : (execFenceAr g k s).Formed := by
  unfold execFenceAr
  grind [issue_formed, Both, Stop.Formed]

theorem noRegion_formed (hs : s.Formed) (va m) : (s.noRegion va m).2.Formed := by
  unfold State.noRegion
  grind [logFault_formed]

theorem execAfence_formed (hs : s.Formed) (g a b) : (execAfence g a b s).Formed := by
  unfold execAfence
  refine issueN_formed hs _ _ ?_
  simp only [except_bind, except_pure, except_throw]
  grind [notSpec_formed, useC_formed, useX_formed, checkAccess_formed, stored_updCore, noRegion_formed, formed_iff_stored,
    Both, Stop.Formed]

theorem execPfx_formed (hs : s.Formed) (g a) : (execPfx g a s).Formed := by
  unfold execPfx
  grind [issue_formed, useC_formed, translate_formed, l0Fill_formed, Both]

theorem touchPage_formed (hs : s.Formed) (g a p m) : (touchPage g a p m s).Formed := by
  unfold touchPage
  refine issue_formed hs _ _ ?_
  simp only [except_bind, except_pure, except_throw]
  grind [useC_formed, checkAccess_formed, translate_formed, Both, Stop.Formed]

theorem execBar_formed (hs : s.Formed) (g n) : (execBar g n s).Formed := by
  unfold execBar
  refine issueN_formed hs _ _ ?_
  simp only [except_bind, except_pure, except_throw]
  grind [notSpec_formed, stored_updMe, stored_updGrid, t_formed, formed_iff_stored, Both, Stop.Formed]

/-! ### Engine operations -/

theorem updToken_formed (hs : s.Formed) (c wid t f) : (s.updToken c wid t f).Formed := by
  unfold State.updToken
  grind [stored_updWork, formed_iff_stored]

theorem tellToken_formed (hs : s.Formed) (c wid t f) : (s.tellToken c wid t f).Formed := by
  unfold State.tellToken
  grind [updToken_formed, homeWrite_formed, stored_updCore, formed_iff_stored, Both]

theorem updOp_formed (hs : s.Formed) (id f) : (s.updOp id f).Formed := hs

theorem held_formed (hs : s.Formed) (e) : (s.held e).Formed := hs

theorem noAwait_formed : Both Stop.Formed (fun _ => True) s.noAwait := by
  unfold State.noAwait
  grind [need_formed]

theorem engineFree_formed (hs : s.Formed) : Both Stop.Formed (fun _ => True) s.engineFree := by
  unfold State.engineFree
  grind [t_formed, deferRoom_formed, Both, Stop.Formed]

theorem newOp_formed (hs : s.Formed) (token job todo) : (s.newOp token job todo).2.Formed := by
  unfold State.newOp
  grind [stored_newId, stored_updTask, updToken_formed, formed_iff, State.stored]

theorem startOp_formed (hs : s.Formed) (token job todo first) : (s.startOp token job todo first).Formed := by
  unfold State.startOp
  grind [newOp_formed, stored_post, formed_iff_stored]

theorem endOp_formed (hs : s.Formed) (id) : (s.endOp id).Formed := by
  unfold State.endOp
  grind [tellToken_formed, formed_iff]

theorem opFailed_formed (hs : s.Formed) (o) : (s.opFailed o).Formed := by
  unfold State.opFailed
  grind [stored_updDom, updOp_formed, formed_iff_stored]

theorem opErrors_formed {before after : State} (hbefore : before.Formed) (hafter : after.Formed) (o n) :
    (State.opErrors o n before after).Formed := by
  unfold State.opErrors
  grind [opFailed_formed, tellToken_formed, updOp_formed]

theorem opFault_formed (hs : s.Formed) (o f) : (s.opFault o f).Formed := hs

theorem indexOf_formed (hs : s.Formed) (o cap row) : (s.indexOf o cap row).Formed := by
  unfold State.indexOf
  grind [homeRead_formed, updOp_formed, Both, IdxRes.Formed]

theorem opGoOn_formed (hs : s.Formed) (id) : (s.opGoOn id).Formed := by
  unfold State.opGoOn
  grind [stored_post, formed_iff_stored]

theorem pieceFault_formed (hs : s.Formed) (o p f rest) : (s.pieceFault o p f rest).Formed := by
  unfold State.pieceFault
  grind [opGoOn_formed, updOp_formed]

theorem buffer_formed (hs : s.Formed) (o dst u at' p bs rest) : (s.buffer o dst u at' p bs rest).Formed := by
  unfold State.buffer
  grind [opGoOn_formed, updOp_formed]

theorem pieceLost_formed {after : State} (hs : s.Formed) (hafter : after.Formed) (o n rest) :
    (s.pieceLost o n rest after).Formed := by
  unfold State.pieceLost
  grind [opGoOn_formed, updOp_formed, opErrors_formed]

theorem readGranules_formed (hs : s.Formed) (o src from' l) :
    Both (·.2.Formed) (·.2.Formed) (s.readGranules o src from' l) := by
  induction l generalizing s with
  | nil => exact hs
  | cons p ps ih =>
    unfold State.readGranules
    grind [homeRead_formed, opErrors_formed, logRefused_formed, Both]

theorem readPiece_formed (hs : s.Formed) (o src dst u from' to' p rest) :
    (s.readPiece o src dst u from' to' p rest).Formed := by
  unfold State.readPiece
  grind [readGranules_formed, opGoOn_formed, updOp_formed, pieceFault_formed, Both]

theorem execStreamerPiece_formed (hs : s.Formed) (id n) : (execStreamerPiece id n s).Formed := by
  unfold execStreamerPiece
  split
  · exact hs
  split
  · exact held_formed hs _
  split
  · exact hs
  split
  · exact formed_of_stored (stored_post ..) hs
  split
  · exact opGoOn_formed hs _
  split
  · grind [stored_free, pieceLost_formed, buffer_formed, readPiece_formed, formed_iff_stored, Out.Formed]
  · grind [pieceLost_formed, buffer_formed, readPiece_formed, pieceFault_formed, indexOf_formed, IdxRes.Formed, Out.Formed]
  · exact hs

theorem granuleDone_formed (hs : s.Formed) (o more) : (s.granuleDone o more).Formed := by
  unfold State.granuleDone
  grind [updOp_formed, tellToken_formed, opGoOn_formed]

theorem execGranuleWrite_formed (hs : s.Formed) (id n) : (execGranuleWrite id n s).Formed := by
  unfold execGranuleWrite
  split
  · exact hs
  split
  · exact held_formed hs _
  split
  · exact hs
  split
  · exact formed_of_stored (stored_post ..) hs
  grind [granuleDone_formed, stored_updCore, stored_free, opErrors_formed, homeWrite_formed,
    pieceFault_formed, logRefused_formed, formed_iff_stored, Both, Out.Formed]

theorem execEngineAck_formed (hs : s.Formed) (id n) : (execEngineAck id n s).Formed := by
  unfold execEngineAck
  grind [held_formed, endOp_formed, Out.Formed]

theorem execEngineHandBack_formed (hs : s.Formed) (id) : (execEngineHandBack id s).Formed := by
  unfold execEngineHandBack
  split
  · exact hs
  split
  · exact hs
  dsimp only
  split
  · exact hs
  grind [stored_post, stored_updCore, opFailed_formed, updOp_formed, stored_free, formed_iff_stored, Out.Formed]

theorem runAmo_formed (hs : s.Formed) (o p) : (s.runAmo o p).Formed := by
  unfold State.runAmo
  grind [amoHome_formed, opFault_formed, opErrors_formed, endOp_formed, parkAmo_formed, stored_post, formed_iff_stored,
    AmoRes.Formed]

theorem runMsg_formed (hs : s.Formed) (o m dest) : (s.runMsg o m dest).Formed := by
  unfold State.runMsg
  grind [stored_post, endOp_formed, route_formed, formed_iff_stored]

theorem resumeOp_formed (hs : s.Formed) (o) : (s.resumeOp o).Formed := by
  unfold State.resumeOp
  grind [updOp_formed, opGoOn_formed, stored_post, formed_iff_stored]

/-! ### Copies and tokens -/

theorem checkMove_formed (c ps n) : Both Stop.Formed (fun _ => True) (s.checkMove c ps n) := by
  unfold State.checkMove
  grind [checkAccess_formed]

theorem moveData_formed (hs : s.Formed) (g k a b fromB) : (moveData g k a b fromB s).Formed := by
  exact issue_formed hs _ _ <| .check (engineFree_formed hs) <| .bind (useC_formed hs a) fun ⟨_, _⟩ hs =>
    .bind (useC_formed hs b) fun ⟨_, _⟩ hs => .check (need_formed ..) <| .check (need_formed ..) <| .check (need_formed ..) <|
    .check (checkMove_formed ..) <| .check (checkMove_formed ..) <| startOp_formed hs ..

theorem execXcopy_formed (hs : s.Formed) (g k a b) : (execXcopy g k a b s).Formed := by
  refine issue_formed hs _ _ <| .check (engineFree_formed hs) <| .bind (useC_formed hs a) fun ⟨dst, s⟩ hs =>
    .bind (useC_formed hs b) fun ⟨src, s⟩ hs =>
    .check (need_formed ..) <| .check (need_formed ..) <| .check (need_formed ..) ?_
  extract_lets ss ds todo t r jp
  have ht : t.Formed := by
    simp only [t]
    split
    · exact formed_of_stored (stored_updMe ..) hs
    · exact hs
  have hr : r.2.Formed := newOp_formed ht ..
  clear_value t r
  have hjp : ∀ u, Both Stop.Formed State.Formed (jp u) := fun u => by
    refine Both.check (need_formed ..) ?_
    refine Both.check (need_formed ..) ?_
    split
    · exact formed_of_stored (stored_updMe ..) hr
    · exact startOp_formed ht ..
  clear_value jp
  split
  · exact .check (need_formed ..) (hjp _)
  · exact hjp _

theorem execXresume_formed (hs : s.Formed) (g b) : (execXresume g b s).Formed := by
  refine issue_formed hs _ _ <| .check (need_formed ..) <| .bind (useX_formed hs b) fun ⟨h, s⟩ hs => ?_
  dsimp only
  split
  · trivial
  · exact .check (need_formed ..) <| resumeOp_formed (formed_of_stored (stored_updCore ..) hs) _

theorem execXgeo_formed (hs : s.Formed) (g d a) : (execXgeo g d a s).Formed := by
  unfold execXgeo
  refine issue_formed hs _ _ ?_
  simp only [except_bind, except_pure, except_throw]
  grind [useX_formed, need_formed, stored_updMe, t_formed, formed_iff_stored, Both]

theorem execTtest_formed (hs : s.Formed) (g d k b) : (execTtest g d k b s).Formed := by
  unfold execTtest
  refine issue_formed hs _ _ ?_
  simp only [except_bind]
  grind [useX_formed, stored_updMe, putC_formed, formed_iff_stored, Both]

theorem execTwait_formed (hs : s.Formed) (g m) : (execTwait g m s).Formed := by
  unfold execTwait
  grind [issue_formed, Both, Stop.Formed]

/-! ### Vector instructions -/

theorem vector2_formed (hs : s.Formed) (w g d a b m f) : (vector2 w g d a b m f s).Formed := by
  unfold vector2
  refine issue_formed hs _ _ ?_
  simp only [except_bind]
  grind [useV_formed, putV_formed, raise_formed, Both]

theorem vectorInt_formed (hs : s.Formed) (g w d a b m f) : (vectorInt g w d a b m f s).Formed := by
  unfold vectorInt
  grind [vector2_formed]

theorem execVaddInt_formed (hs : s.Formed) (g w d a b m) : (execVaddInt g w d a b m s).Formed := vectorInt_formed hs ..

theorem execVsubInt_formed (hs : s.Formed) (g w d a b m) : (execVsubInt g w d a b m s).Formed := vectorInt_formed hs ..

theorem execVmulInt_formed (hs : s.Formed) (g w d a b m) : (execVmulInt g w d a b m s).Formed := vectorInt_formed hs ..

theorem execVand_formed (hs : s.Formed) (g w d a b m) : (execVand g w d a b m s).Formed := vectorInt_formed hs ..

theorem execVor_formed (hs : s.Formed) (g w d a b m) : (execVor g w d a b m s).Formed := vectorInt_formed hs ..

theorem execVxor_formed (hs : s.Formed) (g w d a b m) : (execVxor g w d a b m s).Formed := vectorInt_formed hs ..

theorem execVshl_formed (hs : s.Formed) (g w d a b m) : (execVshl g w d a b m s).Formed := vectorInt_formed hs ..

theorem execVshr_formed (hs : s.Formed) (g w d a b m) : (execVshr g w d a b m s).Formed := vectorInt_formed hs ..

theorem execVshrA_formed (hs : s.Formed) (g w d a b m) : (execVshrA g w d a b m s).Formed := vectorInt_formed hs ..

theorem vectorFloat_formed (hs : s.Formed) (f g d a b m op) : (vectorFloat f g d a b m op s).Formed := by
  unfold vectorFloat
  grind [vector2_formed]

theorem vectorFma_formed (hs : s.Formed) (f g d a b m) : (vectorFma f g d a b m s).Formed := by
  unfold vectorFma
  refine issue_formed hs _ _ ?_
  simp only [except_bind]
  grind [useV_formed, putV_formed, raise_formed, Both]

theorem execVsubF32_formed (hs : s.Formed) (g d a b m) : (execVsubF32 g d a b m s).Formed := vectorFloat_formed hs ..

theorem execVsubF16_formed (hs : s.Formed) (g d a b m) : (execVsubF16 g d a b m s).Formed := vectorFloat_formed hs ..

theorem execVsubBf16_formed (hs : s.Formed) (g d a b m) : (execVsubBf16 g d a b m s).Formed := vectorFloat_formed hs ..

theorem execVcmp_formed (hs : s.Formed) (g d a b m t c) : (execVcmp g d a b m t c s).Formed := by
  unfold execVcmp
  refine issue_formed hs _ _ ?_
  simp only [except_bind, except_pure]
  grind [useV_formed, putM_formed, raise_formed, Both]

theorem execVsel_formed (hs : s.Formed) (g d a b m) : (execVsel g d a b m s).Formed := by
  unfold execVsel
  refine issue_formed hs _ _ ?_
  simp only [except_bind]
  grind [useV_formed, putV_formed, Both]

theorem execVperm_formed (hs : s.Formed) (g d a b m) : (execVperm g d a b m s).Formed := by
  unfold execVperm
  refine issue_formed hs _ _ ?_
  simp only [except_bind]
  grind [useV_formed, putV_formed, Both]

theorem execVcomp_formed (hs : s.Formed) (g d a m) : (execVcomp g d a m s).Formed := by
  unfold execVcomp
  refine issue_formed hs _ _ ?_
  simp only [except_bind]
  grind [useV_formed, putV_formed, Both]

theorem execVexpd_formed (hs : s.Formed) (g d a m) : (execVexpd g d a m s).Formed := by
  unfold execVexpd
  refine issue_formed hs _ _ ?_
  simp only [except_bind]
  grind [useV_formed, putV_formed, Both]

theorem execVmerge_formed (hs : s.Formed) (g d a b o) : (execVmerge g d a b o s).Formed := by
  unfold execVmerge
  refine issue_formed hs _ _ ?_
  simp only [except_bind]
  grind [useV_formed, putV_formed, raise_formed, Both]

theorem putLong_formed (hs : s.Formed) (d l v fl) : Both Stop.Formed State.Formed (s.putLong d l v fl) := by
  unfold State.putLong
  grind [putV_formed, raise_formed, t_formed, openWin_formed, Both]

theorem longUnary_formed (hs : s.Formed) (f g d a m l op) : (longUnary f g d a m l op s).Formed := by
  unfold longUnary
  refine issue_formed hs _ _ ?_
  simp only [except_bind]
  grind [useV_formed, putLong_formed, Both]

theorem longDiv_formed (hs : s.Formed) (f g d a m l b) : (longDiv f g d a m l b s).Formed := by
  unfold longDiv
  refine issue_formed hs _ _ ?_
  simp only [except_bind]
  grind [useV_formed, putLong_formed, Both]

theorem execVred_formed (hs : s.Formed) (g d a m l f) : (execVred g d a m l f s).Formed := by
  unfold execVred
  refine issue_formed hs _ _ ?_
  simp only [except_bind]
  grind [useV_formed, putLong_formed, Both]

theorem execVscan_formed (hs : s.Formed) (g d a m l f) : (execVscan g d a m l f s).Formed := by
  unfold execVscan
  refine issue_formed hs _ _ ?_
  simp only [except_bind]
  grind [useV_formed, putLong_formed, Both]

theorem execVcvt_formed (hs : s.Formed) (g d a m l f) : (execVcvt g d a m l f s).Formed := by
  unfold execVcvt
  refine issue_formed hs _ _ ?_
  simp only [except_bind, except_throw]
  grind [useV_formed, t_formed, stored_updMe, putLong_formed, formed_iff_stored, Both]

theorem execMovVc_formed (hs : s.Formed) (g d c q) : (execMovVc g d c q s).Formed := by
  unfold execMovVc
  refine issue_formed hs _ _ ?_
  simp only [except_bind]
  grind [need_formed, useC_formed, putV_formed, Both]

theorem execMovCv_formed (hs : s.Formed) (g a c q) : (execMovCv g a c q s).Formed := by
  unfold execMovCv
  refine issue_formed hs _ _ ?_
  simp only [except_bind]
  grind [need_formed, putC_formed, Both]

theorem execMovMc_formed (hs : s.Formed) (g d c) : (execMovMc g d c s).Formed := by
  unfold execMovMc
  refine issue_formed hs _ _ ?_
  simp only [except_bind, except_pure]
  grind [useC_formed, putM_formed, Both]

theorem execMovCm_formed (hs : s.Formed) (g a c) : (execMovCm g a c s).Formed := by
  unfold execMovCm
  grind [issue_formed, putC_formed]

theorem execVbcast_formed (hs : s.Formed) (g d c m) : (execVbcast g d c m s).Formed := by
  unfold execVbcast
  refine issue_formed hs _ _ ?_
  simp only [except_bind]
  grind [useX_formed, putV_formed, Both]

theorem draw_formed (hs : s.Formed) (g d c m f) : (draw g d c m f s).Formed := by
  unfold draw
  refine issue_formed hs _ _ ?_
  simp only [except_bind]
  grind [need_formed, putV_formed, putC_formed, Both]

theorem execVrnd_formed (hs : s.Formed) (g d c m) : (execVrnd g d c m s).Formed := draw_formed hs ..

theorem execVbsum_formed (hs : s.Formed) (g t a c m) : (execVbsum g t a c m s).Formed := by
  unfold execVbsum
  refine issue_formed hs _ _ ?_
  simp only [except_bind]
  grind [useV_formed, putC_formed, Both]

theorem execBsadd_formed (hs : s.Formed) (g a c) : (execBsadd g a c s).Formed := by
  unfold execBsadd
  refine issue_formed hs _ _ ?_
  simp only [except_bind]
  grind [need_formed, putC_formed, raise_formed, Both]

theorem execNrns_formed (hs : s.Formed) (g d a c m) : (execNrns g d a c m s).Formed := by
  exact issue_formed hs _ _ <| .bind (useV_formed hs a) fun ⟨_, _⟩ hs => .bind (useV_formed hs d) fun ⟨_, _⟩ hs =>
    .bind (useX_formed hs c) fun ⟨_, _⟩ hs => .bind (putV_formed (raise_formed hs _) ..) fun _ hs =>
    putM_formed (formed_of_stored (stored_updMe ..) hs) ..

/-! ### Quires -/

theorem quireDesc_formed (hs : s.Formed) (c) : Both Stop.Formed (·.2.2.Formed) (s.quireDesc c) := by
  unfold State.quireDesc
  simp only [except_bind, except_pure]
  grind [checkAccess_formed, load_formed, need_formed, Both]

theorem checkPart_formed (q b i o n store) : Both Stop.Formed (fun _ => True) (s.checkPart q b i o n store) := by
  unfold State.checkPart
  simp only [except_bind, except_throw]
  grind [need_formed, checkAccess_formed, Both, Stop.Formed]

theorem checkParts_formed (q b k store l) : Both Stop.Formed (fun _ => True) (s.checkParts q b k store l) := by
  induction l with
  | nil => trivial
  | cons i is ih => exact .check (checkPart_formed ..) ih

theorem loadParts_formed (hs : s.Formed) (c k id q b sub l) : Both Stop.Formed (·.2.Formed) (s.loadParts c k id q b sub l) := by
  induction l generalizing s with
  | nil => exact hs
  | cons i is ih => exact .bind (load_formed hs ..) fun ⟨_, _⟩ hs => .bind (ih hs) fun ⟨_, _⟩ hs => hs

theorem perform_formed (hs : s.Formed) (c k id a) : Both Stop.Formed (·.2.2.2.Formed) (s.perform c k id a) := by
  unfold State.perform
  simp only [except_bind, except_pure, except_throw]
  grind [load_formed, loadParts_formed, Both, Stop.Formed]

theorem performNow_formed (hs : s.Formed) (a) : Both Stop.Formed (·.2.2.2.Formed) (s.performNow a) := by
  unfold State.performNow
  grind [perform_formed, Both, Stop.Formed]

theorem leaveLine_formed (hs : s.Formed) (c k) : (s.leaveLine c k).Formed := by
  unfold State.leaveLine
  grind [stored_postOnce, foldl_formed, formed_iff, State.stored]

theorem execLoadResponse_formed (hs : s.Formed) (c k id) : (execLoadResponse c k id s).Formed := by
  unfold execLoadResponse
  grind [leaveLine_formed, stored_updStrand, stored_post, perform_formed, formed_iff_stored, Both, Stop.Formed, Out.Formed]

theorem execPld_formed (hs : s.Formed) (g l a b) : (execPld g l a b s).Formed := by
  refine issue_formed hs _ _ <| .check (noAwait_formed) <| .bind (useC_formed hs a) fun ⟨c, s⟩ hs =>
    .bind (useC_formed hs b) fun ⟨y, s⟩ hs =>
    .check (need_formed ..) <| .bind (quireDesc_formed hs c) fun ⟨q, count, s⟩ hs => .check (checkParts_formed ..) <|
    .check (need_formed ..) ?_
  extract_lets acc d
  split
  · have hp := performNow_formed hs acc
    split
    next ht => rw [ht] at hp; exact openWin_formed hp ..
    next ht => rw [ht] at hp; exact hp
    next ht =>
      rw [ht] at hp
      refine landV_formed (formed_of_stored (stored_setMe ..) ?_) ..
      split
      · exact formed_of_stored (stored_updMe ..) hp
      · exact hp
  · exact formed_of_stored (stored_post ..) (openWin_formed hs ..)

theorem execPlhdr_formed (hs : s.Formed) (g l a b) : (execPlhdr g l a b s).Formed := by
  refine issue_formed hs _ _ <| .check (noAwait_formed) <| .bind (useC_formed hs a) fun ⟨c, s⟩ hs =>
    .bind (useC_formed hs b) fun ⟨y, s⟩ hs =>
    .check (need_formed ..) <| .bind (quireDesc_formed hs c) fun ⟨q, count, s⟩ hs => .check (checkParts_formed ..) <|
    .check (need_formed ..) ?_
  extract_lets acc d
  split
  · have hp := performNow_formed hs acc
    split
    next ht => rw [ht] at hp; exact openWin_formed hp ..
    next ht => rw [ht] at hp; exact hp
    next ht =>
      rw [ht] at hp
      exact landC_formed (formed_of_stored (stored_setMe ..) hp) ..
  · exact formed_of_stored (stored_post ..) (openWin_formed hs ..)

theorem drawBlock_formed (hs : s.Formed) (mode state) : Both Stop.Formed (·.2.Formed) (s.drawBlock mode state) := by
  unfold State.drawBlock
  grind [stored_updMe, putC_formed, formed_iff_stored, Both]

theorem blockOp_formed (hs : s.Formed) (g k a b okMode useAlpha work) : (blockOp g k a b okMode useAlpha work s).Formed := by
  refine issue_formed hs _ _ <| .check (engineFree_formed hs) <| .bind (useC_formed hs a) fun ⟨c, s⟩ hs =>
    .bind (useC_formed hs b) fun ⟨y, s⟩ hs =>
    .check (need_formed ..) <| .bind (quireDesc_formed hs c) fun ⟨q, count, s⟩ hs => .check (checkParts_formed ..) <|
    .check (need_formed ..) <| .bind (drawBlock_formed hs ..) fun ⟨_, _⟩ hs => startOp_formed (raise_formed hs _) ..

theorem execPst_formed (hs : s.Formed) (g k a b) : (execPst g k a b s).Formed := blockOp_formed hs ..

theorem execPlupd_formed (hs : s.Formed) (g k a b) : (execPlupd g k a b s).Formed := blockOp_formed hs ..

theorem execPlaxpy_formed (hs : s.Formed) (g k a b) : (execPlaxpy g k a b s).Formed := blockOp_formed hs ..

theorem engineParts_formed (hs : s.Formed) (w q b l) : Both (·.2.Formed) (·.2.Formed) (s.engineParts w q b l) := by
  induction l generalizing s with
  | nil => exact hs
  | cons p ps ih =>
    unfold State.engineParts
    grind [homeRead_formed, Both]

theorem translateParts_formed (hs : s.Formed) (w q b l) : Both (·.2.Formed) State.Formed (s.translateParts w q b l) := by
  induction l generalizing s with
  | nil => exact hs
  | cons p ps ih =>
    unfold State.translateParts
    grind [translateAll_formed, Both]

theorem writeQuire_formed (hs : s.Formed) (w q b l) : Both (·.2.Formed) State.Formed (s.writeQuire w q b l) := by
  induction l generalizing s with
  | nil => exact hs
  | cons p ps ih =>
    unfold State.writeQuire
    grind [homeWrite_formed, Both]

theorem quireResult_formed (hs : s.Formed) (o j) : Both (·.2.Formed) (·.2.2.2.2.Formed) (s.quireResult o j) := by
  unfold State.quireResult
  grind [translateParts_formed, engineParts_formed, Both]

theorem quireStep_formed (hs : s.Formed) (o j) : Both (·.2.Formed) (·.2.2.Formed) (s.quireStep o j) := by
  unfold State.quireStep
  grind [quireResult_formed, writeQuire_formed, Both]

theorem quireEnd_formed (hs : s.Formed) (o fl qs) : (s.quireEnd o fl qs).Formed := by
  unfold State.quireEnd
  grind [endOp_formed, stored_updWork, formed_iff_stored]

theorem quirePlaces_formed (hs : s.Formed) (w l) : Both (·.2.Formed) (·.2.Formed) (s.quirePlaces w l) := by
  induction l generalizing s with
  | nil => exact hs
  | cons p ps ih =>
    unfold State.quirePlaces
    grind [translateAll_formed, Both]

theorem quireUnit_formed (hs : s.Formed) (o j fl qs places) : (s.quireUnit o j fl qs places).Formed := by
  unfold State.quireUnit
  grind [stored_free, stored_post, updOp_formed, writeParts_formed, quireEnd_formed, formed_iff_stored]

theorem execQuireUpdateAtHome_formed (hs : s.Formed) (id) : (execQuireUpdateAtHome id s).Formed := by
  unfold execQuireUpdateAtHome
  split
  · exact hs
  split
  · split
    · exact held_formed hs _
    split
    · exact hs
    split
    · exact formed_of_stored (stored_post ..) hs
    grind [stored_post, opFault_formed, endOp_formed, opErrors_formed, quireUnit_formed, quireStep_formed, quireEnd_formed,
      quireResult_formed, quirePlaces_formed, updOp_formed, formed_iff_stored, Both, Out.Formed]
  · grind [held_formed, runAmo_formed, Out.Formed]
  · grind [held_formed, runMsg_formed, Out.Formed]
  · exact hs

/-! ### Tiles -/

theorem updTile_formed (hs : s.Formed) (c t f) : (s.updTile c t f).Formed := hs

theorem onTile_formed (hs : s.Formed) (g t) {f : State → Except Stop State} (hf : Both Stop.Formed State.Formed (f s)) :
    Out.Formed (onTile g t s f) := by
  unfold onTile
  refine issue_formed hs _ _ ?_
  simp only [except_bind, except_throw]
  grind [need_formed, Both, Stop.Formed]

theorem writesTile_formed (hs : s.Formed) (t) : (s.writesTile t).Formed := hs

theorem sliceIndex_formed (x k) : Both Stop.Formed (fun _ => True) (sliceIndex x k) := by
  unfold sliceIndex
  grind [t_formed, Both]

theorem execTrd_formed (hs : s.Formed) (g t r i k v) : (execTrd g t r i k v s).Formed :=
  onTile_formed hs _ _ <| .bind (useX_formed hs i) fun ⟨_, _⟩ hs => .bind (sliceIndex_formed ..) fun _ _ => putV_formed hs ..

theorem execTwr_formed (hs : s.Formed) (g t r i k v) : (execTwr g t r i k v s).Formed := by
  exact onTile_formed hs _ _ <| .bind (useX_formed hs i) fun ⟨_, _⟩ hs => .bind (useV_formed hs v) fun ⟨_, _⟩ hs =>
    .bind (sliceIndex_formed ..) fun _ _ => updTile_formed (writesTile_formed hs _) ..

theorem execTzero_formed (hs : s.Formed) (g t) : (execTzero g t s).Formed := by
  unfold execTzero
  grind [onTile_formed, updTile_formed, writesTile_formed, Both]

theorem execTtrans_formed (hs : s.Formed) (g t) : (execTtrans g t s).Formed := by
  unfold execTtrans
  grind [onTile_formed, updTile_formed, writesTile_formed, Both]

theorem execTclaim_formed (hs : s.Formed) (g t) : (execTclaim g t s).Formed := by
  unfold execTclaim
  grind [issue_formed, updTile_formed, Both, Stop.Formed]

theorem landTile_formed (hs : s.Formed) (t l) : (s.landTile t l).Formed := by
  induction l generalizing s with
  | nil => exact hs
  | cons p ps ih =>
    unfold State.landTile
    grind [updTile_formed, raise_formed, stored_setMe, formed_iff_stored]

theorem execTfree_formed (hs : s.Formed) (g t) : (execTfree g t s).Formed := by
  unfold execTfree
  grind [issue_formed, updTile_formed, landTile_formed, Both, Stop.Formed]

/-! ### The matrix array -/

theorem updLease_formed (hs : s.Formed) (q id f) : (s.updLease q id f).Formed := hs

theorem pokeArray_formed (hs : s.Formed) (q) : (s.pokeArray q).Formed := by
  unfold State.pokeArray
  grind [postBy_formed]

theorem myLease_formed : Both Stop.Formed (fun _ => True) s.myLease := by
  unfold State.myLease
  grind [t_formed, Both]

theorem newLease_formed (hs : s.Formed) (q pos core wid bin asid nacc grantq token save) :
    (s.newLease q pos core wid bin asid nacc grantq token save).2.Formed := by
  unfold State.newLease
  grind [stored_newId, stored_postOnce, stored_updCluster, formed_iff_stored]

theorem execMlease_formed (hs : s.Formed) (g k a b) : (execMlease g k a b s).Formed := by
  exact issue_formed hs _ _ <| .check (noAwait_formed) <| .check (notSpec_formed) <| .check (engineFree_formed hs) <|
    .check (need_formed ..) <| .bind (useC_formed hs a) fun ⟨_, _⟩ hs => .bind (useC_formed hs b) fun ⟨_, _⟩ hs =>
    .check (need_formed ..) <| .check (checkAccess_formed ..) <|
    updToken_formed (formed_of_stored (stored_updMe ..) (newLease_formed hs ..)) ..

theorem settleLease_formed (hs : s.Formed) : Both Stop.Formed State.Formed s.settleLease := by
  unfold State.settleLease
  grind [updLease_formed, pokeArray_formed, Both, Stop.Formed]

theorem execMfree_formed (hs : s.Formed) (g) : (execMfree g s).Formed := by
  unfold execMfree
  refine issueN_formed hs _ _ ?_
  simp only [except_bind, except_pure]
  grind [noAwait_formed, notSpec_formed, settleLease_formed, stored_dropLease, stored_updMe, formed_iff_stored, Both]

theorem execMgeo_formed (hs : s.Formed) (g d a) : (execMgeo g d a s).Formed := by
  unfold execMgeo
  refine issue_formed hs _ _ ?_
  simp only [except_bind, except_pure, except_throw]
  grind [useX_formed, need_formed, stored_updMe, t_formed, formed_iff_stored, Both]

theorem execMgeor_formed (hs : s.Formed) (g d a) : (execMgeor g d a s).Formed := by
  unfold execMgeor
  grind [issue_formed, putX_formed, t_formed, Both]

theorem readLogged_formed (hs : s.Formed) (o loc p) : (s.readLogged o loc p).Formed := by
  unfold State.readLogged
  grind [homeRead_formed, logRefused_formed, Both]

theorem readSeg_formed (hs : s.Formed) (o own c va n) : Both (·.2.Formed) (·.2.2.Formed) (s.readSeg o own c va n) := by
  unfold State.readSeg
  split
  next ht => exact (homeRead_formed hs ..).ok ht
  next f0 s0 ht =>
    split
    · exact (homeRead_formed hs ..).error ht
    extract_lets parts tf bytes viols bads t
    have hparts : ∀ p ∈ parts, Both (·.2.Formed) (·.2.Formed) p.2 := fun p hp => by
      obtain ⟨q, -, rfl⟩ := List.mem_map.mp hp
      exact homeRead_formed hs ..
    have htf : ∀ x ∈ tf, x.2.Formed := fun x hx => by
      obtain ⟨p, hp, hpx⟩ := List.exists_of_findSome?_eq_some hx
      have := hparts p hp
      grind [Both]
    have ht : t.Formed := foldl_formed (fun _ _ hs => readLogged_formed hs ..) _ hs
    clear_value t tf viols
    split
    · exact htf _ rfl
    split
    · exact ht
    dsimp only
    split
    · exact foldl_formed (fun s g hs => by
        split
        · exact readLogged_formed hs ..
        · exact hs) _ ht
    · exact opErrors_formed ht (readLogged_formed ht ..) ..

theorem readSegs_formed (hs : s.Formed) (o own l) : Both (·.2.Formed) (·.2.Formed) (s.readSegs o own l) := by
  induction l generalizing s with
  | nil => exact hs
  | cons p ps ih =>
    unfold State.readSegs
    grind [readSeg_formed, Both]

theorem fillRows_formed (hs : s.Formed) (o own f bits l) : (s.fillRows o own f bits l).2.2.2.Formed := by
  induction l generalizing s f bits with
  | nil => exact hs
  | cons p ps ih =>
    unfold State.fillRows
    grind [readSegs_formed, Both]

theorem newFill_formed (hs : s.Formed) (token l f) : (s.newFill token l f).Formed := by
  unfold State.newFill
  grind [updLease_formed, startOp_formed]

theorem checkQuireRow_formed (q count e k p rn) : Both Stop.Formed (fun _ => True) (s.checkQuireRow q count e k p rn) := by
  unfold State.checkQuireRow
  simp only [except_bind]
  grind [allOk_formed, checkPart_formed, need_formed]

theorem plainRows_formed (hs : s.Formed) (slot p c) : Both Stop.Formed (·.2.Formed) (s.plainRows slot p c) := by
  unfold State.plainRows
  simp only [except_bind, except_pure]
  grind [mapOk_formed, allOk_formed, checkAccess_formed, Both, Stop.Formed]

theorem quireRows_formed (hs : s.Formed) (slot p c) : Both Stop.Formed (·.2.Formed) (s.quireRows slot p c) := by
  unfold State.quireRows
  simp only [except_bind, except_pure]
  grind [quireDesc_formed, mapOk_formed, checkQuireRow_formed, Both]

theorem rowsToFill_formed (hs : s.Formed) (slot p c) : Both Stop.Formed (·.2.Formed) (s.rowsToFill slot p c) := by
  refine Both.check (need_formed ..) <| .check (need_formed ..) <| .check (need_formed ..) ?_
  extract_lets jp
  have hjp : ∀ r, r.2.Formed → Both Stop.Formed (·.2.Formed) (jp r) := fun r hr => by
    refine Both.check (need_formed ..) ?_
    exact hr
  clear_value jp
  split
  · exact (quireRows_formed hs ..).bind hjp
  · exact (plainRows_formed hs ..).bind hjp

theorem fillInstr_formed (hs : s.Formed) (slot g k a b) : (fillInstr slot g k a b s).Formed := by
  exact issue_formed hs _ _ <| .check (noAwait_formed) <| .check (notSpec_formed) <| .bind (myLease_formed) fun _ _ =>
    .check (engineFree_formed hs) <| .bind (useC_formed hs a) fun ⟨_, _⟩ hs => .bind (useC_formed hs b) fun ⟨_, _⟩ hs =>
    .check (need_formed ..) <| .bind (rowsToFill_formed hs ..) fun ⟨_, _⟩ hs => .check (need_formed ..) <| newFill_formed hs ..

theorem execArrayFillComplete_formed (hs : s.Formed) (q id) : (execArrayFillComplete q id s).Formed := by
  unfold execArrayFillComplete
  split
  · exact hs
  split
  · split
    · exact held_formed hs _
    split
    · exact hs
    grind [stored_post, fillRows_formed, updLease_formed, opFault_formed, updOp_formed, pokeArray_formed, endOp_formed,
      formed_iff_stored,
      Out.Formed]
  · exact hs

theorem queueCmd_formed (hs : s.Formed) (l c) : Both Stop.Formed State.Formed (s.queueCmd l c) := by
  unfold State.queueCmd
  grind [pokeArray_formed, updLease_formed, Both, Stop.Formed]

theorem scaleOf_formed (i slabs) : Both Stop.Formed (fun _ => True) (s.scaleOf i slabs) := by
  unfold State.scaleOf
  simp only [except_bind, except_pure]
  grind [need_formed, checkAccess_formed, Both]

theorem matrixCmd_formed (hs : s.Formed) (fn chain g x a h w c) : (matrixCmd fn chain g x a h w c s).Formed := by
  exact issue_formed hs _ _ <| .check (notSpec_formed) <| .bind (myLease_formed) fun _ _ => .check (need_formed ..) <|
    .check (need_formed ..) <| .bind (scaleOf_formed ..) fun _ _ => queueCmd_formed (formed_of_stored (stored_newId ..) hs) ..

theorem execMzero_formed (hs : s.Formed) (g d) : (execMzero g d s).Formed := by
  unfold execMzero
  refine issue_formed hs _ _ ?_
  simp only [except_bind]
  grind [notSpec_formed, myLease_formed, need_formed, queueCmd_formed, Both]

theorem execMrd_formed (hs : s.Formed) (g k la a b) : (execMrd g k la a b s).Formed := by
  refine issue_formed hs _ _ <| .check (noAwait_formed) <| .check (notSpec_formed) <| .bind (myLease_formed) fun l _ =>
    .check (engineFree_formed hs) <| .bind (useC_formed hs a) fun ⟨c, s⟩ hs => .bind (useC_formed hs b) fun ⟨y, s⟩ hs =>
    .check (need_formed ..) <|
    .check (need_formed ..) <| .check (need_formed ..) ?_
  extract_lets pitch al draws gen t w jp jq jr
  have ht : t.Formed := formed_of_stored (stored_updMe ..) hs
  have hw : w.2.Formed := openWin_formed ht ..
  clear_value t w
  have hjp : ∀ u, Both Stop.Formed State.Formed (jp u) := fun u => by
    dsimp only [jp]
    split
    · split
      · exact queueCmd_formed (newOp_formed (writesTile_formed ht _) ..) ..
      · exact queueCmd_formed (newOp_formed hw ..) ..
    · exact queueCmd_formed (newOp_formed ht ..) ..
  have hjq : ∀ u, Both Stop.Formed State.Formed (jq u) := fun u => by
    dsimp only [jq]
    split
    · exact hs
    · exact hjp ()
  have hjr : ∀ u, Both Stop.Formed State.Formed (jr u) := fun u => by
    dsimp only [jr]
    split
    · exact .check (need_formed ..) <| .check (allOk_formed _ fun _ => checkAccess_formed ..) (hjq ())
    · exact hjq ()
  clear_value jp jq jr
  split
  · exact .check (need_formed ..) <| .check (need_formed ..) (hjr _)
  · exact hjr _

theorem execMstat_formed (hs : s.Formed) (g d a) : (execMstat g d a s).Formed := by
  refine issue_formed hs _ _ <| .check (notSpec_formed) <| .bind (myLease_formed) fun l _ =>
    .bind (useC_formed hs a) fun ⟨v, s⟩ hs =>
    .check (need_formed ..) <| .check (need_formed ..) ?_
  dsimp only
  split
  · exact hs
  split
  · exact putX_formed (updLease_formed hs ..) ..
  split
  · exact putX_formed (formed_of_stored (stored_updCluster ..) hs) ..
  · exact putX_formed hs ..

theorem scaleBytes_formed (hs : s.Formed) (w c va n) : (s.scaleBytes w c va n).2.2.Formed := by
  unfold State.scaleBytes
  grind [homeRead_formed, Both]

theorem scaleRows_formed (hs : s.Formed) (w c fmt k va l) : (s.scaleRows w c fmt k va l).2.2.Formed := by
  induction l generalizing s va with
  | nil => exact hs
  | cons p ps ih =>
    unfold State.scaleRows
    grind [scaleBytes_formed]

theorem scaled_formed (hs : s.Formed) (w c fmt k j off sh rows) : (s.scaled w c fmt k j off sh rows).2.2.Formed := by
  unfold State.scaled
  grind [scaleRows_formed]

theorem eccLog_formed (hs : s.Formed) (q e) : (s.eccLog q e).Formed := hs

theorem runSlab_formed (hs : s.Formed) (q l pair fn acc scale sl) : (s.runSlab q l pair fn acc scale sl).Formed := by
  unfold State.runSlab
  grind [scaled_formed, updLease_formed, eccLog_formed, foldl_formed]

theorem capture_formed (hs : s.Formed) (q l o r) : (s.capture q l o r).Formed := by
  unfold State.capture
  grind [updLease_formed, stored_post, updOp_formed, formed_iff_stored]

theorem execArrayCommandComplete_formed (hs : s.Formed) (q) : (execArrayCommandComplete q s).Formed := by
  unfold execArrayCommandComplete
  split
  · exact hs
  split
  · exact held_formed hs _
  split
  · exact pokeArray_formed hs _
  grind [pokeArray_formed, updLease_formed, stored_updCluster, stored_post, runSlab_formed, capture_formed, formed_iff_stored,
    Out.Formed]

theorem setWin_formed (hs : s.Formed) (c wid id r) : (s.setWin c wid id r).Formed := by
  unfold State.setWin
  grind [stored_updCore, stored_updWork, formed_iff_stored]

theorem drain_formed (hs : s.Formed) (o own l) : (s.drain o own l).2.2.Formed := by
  induction l generalizing s with
  | nil => exact hs
  | cons p ps ih =>
    unfold State.drain
    grind [homeWrite_formed, logRefused_formed, opErrors_formed, Both]

theorem execReadoutDrain_formed (hs : s.Formed) (q id) : (execReadoutDrain q id s).Formed := by
  unfold execReadoutDrain
  split
  · exact hs
  split
  · split
    · exact held_formed hs _
    split
    · exact hs
    split
    · exact formed_of_stored (stored_post ..) hs
    grind [stored_post, setWin_formed, stored_updWork, updTile_formed, pokeArray_formed, endOp_formed, drain_formed,
      updOp_formed,
      opFault_formed, stored_postOnce, formed_iff_stored, Out.Formed]
  · exact hs

theorem beginSpill_formed (hs : s.Formed) (q l) : (s.beginSpill q l).Formed := hs

theorem grantLease_formed (hs : s.Formed) (q l f) : (s.grantLease q l f).Formed := by
  unfold State.grantLease
  grind [stored_free, stored_updCluster, updLease_formed, tellToken_formed, pushEngq_formed, stored_postOnce, formed_iff_stored]

theorem pointTo_formed (hs : s.Formed) (q l) : (s.pointTo q l).Formed := by
  unfold State.pointTo
  grind [stored_updCluster, formed_iff_stored]

theorem execLeaseGrant_formed (hs : s.Formed) (q) : (execLeaseGrant q s).Formed := by
  unfold execLeaseGrant
  grind [held_formed, stored_postOnce, pokeArray_formed, grantLease_formed, pointTo_formed, beginSpill_formed, updLease_formed,
    formed_iff_stored, Out.Formed]

theorem execArraySpill_formed (hs : s.Formed) (q id) : (execArraySpill q id s).Formed := by
  unfold execArraySpill
  grind [held_formed, stored_free, homeWrite_formed, updLease_formed, stored_updCluster, pokeArray_formed, stored_postOnce,
    formed_iff_stored, foldl_formed, Both, Out.Formed]

theorem readBack_formed (hs : s.Formed) (l p) : (s.readBack l p).2.Formed := by
  unfold State.readBack
  grind [homeRead_formed, foldl_formed, Both]

theorem readAll_formed (hs : s.Formed) (l ps) : (s.readAll l ps).2.Formed := by
  induction ps generalizing s with
  | nil => exact hs
  | cons p ps ih =>
    unfold State.readAll
    grind [readBack_formed]

theorem restoreBad_formed (hs : s.Formed) (q id off) : (s.restoreBad q id off).Formed := by
  unfold State.restoreBad
  grind [eccLog_formed, updLease_formed]

theorem execArrayRestore_formed (hs : s.Formed) (q id) : (execArrayRestore q id s).Formed := by
  unfold execArrayRestore
  have hf : ∀ (t : State) n, t.Formed → ({ t with freshN := n } : State).Formed := fun _ _ h => h
  grind [held_formed, stored_post, beginSpill_formed, readAll_formed, stored_updCluster, updLease_formed, restoreBad_formed,
    pokeArray_formed, formed_iff_stored, foldl_formed, Out.Formed]

theorem beginRestore_formed (hs : s.Formed) (q id) : (s.beginRestore q id).Formed := hs

theorem execArrayTurn_formed (hs : s.Formed) (q) : (execArrayTurn q s).Formed := by
  unfold execArrayTurn
  grind [stored_updCluster, stored_postOnce, beginRestore_formed, stored_post, formed_iff_stored, Out.Formed]

theorem execArrayTurnEnd_formed (hs : s.Formed) (q) : (execArrayTurnEnd q s).Formed := by
  unfold execArrayTurnEnd
  grind [beginRestore_formed, stored_postOnce, stored_updCluster, formed_iff_stored, foldl_formed, Out.Formed]

end

end Sys2Proof.Machine
end

section
/-! PROOF. Messages, tasks, launches, the system and the edge keep memory canonical. -/

namespace Sys2Proof.Machine

section
variable {s : State}

/-! ### Packets and pools -/

theorem updChan_formed (hs : s.Formed) (c ch f) : (s.updChan c ch f).Formed := hs

theorem updCount_formed (hs : s.Formed) (c ch f) : (s.updCount c ch f).Formed := hs

theorem setDict_formed (hs : s.Formed) (c p recv d) : (s.setDict c p recv d).Formed := memWrite_formed hs ..

theorem codeMsg_formed (hs : s.Formed) (c dest aep words wtype waiter) :
    (s.codeMsg c dest aep words wtype waiter).2.Formed := by
  unfold State.codeMsg
  grind [stored_setCore, setDict_formed, formed_iff_stored]

theorem sendFrom_formed (hs : s.Formed) (c dest aep words wtype waiter) :
    (s.sendFrom c dest aep words wtype waiter).Formed := by
  unfold State.sendFrom
  grind [codeMsg_formed, route_formed]

theorem sendPacket_formed (hs : s.Formed) (dest sender aep words) : (s.sendPacket dest sender aep words).Formed := by
  unfold State.sendPacket
  grind [route_formed]

/-! ### Deckles -/

theorem updBin_formed (hs : s.Formed) (q b f) : (s.updBin q b f).Formed := hs

theorem binWrite_formed (hs : s.Formed) (w loc ps bs) : (s.binWrite w loc ps bs).Formed := by
  induction ps generalizing s bs with
  | nil => exact hs
  | cons p ps ih =>
    unfold State.binWrite
    grind [homeWrite_formed, logRefused_formed, Both]

theorem binRead_formed (hs : s.Formed) (w loc l) : (s.binRead w loc l).2.Formed := by
  induction l generalizing s with
  | nil => exact hs
  | cons p ps ih =>
    unfold State.binRead
    grind [homeRead_formed, logRefused_formed, Both]

theorem sealSheet_formed (hs : s.Formed) (q b reason) : (s.sealSheet q b reason).Formed := by
  unfold State.sealSheet
  grind [stored_postOnce, updBin_formed, formed_iff_stored]

theorem closeSheet_formed (hs : s.Formed) (q b reason) : (s.closeSheet q b reason).Formed := by
  unfold State.closeSheet
  grind [stored_postOnce, updBin_formed, sealSheet_formed, formed_iff_stored]

theorem binPut_formed (hs : s.Formed) (b row col val) : (s.binPut b row col val).Formed := by
  unfold State.binPut
  grind [binRead_formed, binWrite_formed]

theorem capEvent_formed (hs : s.Formed) (q i addr val) : ∀ r ∈ (s.capEvent q i addr val), r.Formed := by
  unfold State.capEvent
  grind [closeSheet_formed, updBin_formed, binWrite_formed, stored_post, binPut_formed, formed_iff_stored]

theorem execSheetTimeout_formed (hs : s.Formed) (q b) : (execSheetTimeout q b s).Formed := by
  unfold execSheetTimeout
  grind [held_formed, sealSheet_formed, stored_post, closeSheet_formed, formed_iff_stored, Out.Formed]

theorem binOp_formed (hs : s.Formed) (l job) : (s.binOp l job).2.Formed := hs

theorem binFill_formed (hs : s.Formed) (q l slot t pair rows) : (s.binFill q l slot t pair rows).Formed := hs

theorem sheetWork_formed (hs : s.Formed) (q b i l x) : (s.sheetWork q b i l x).Formed := by
  unfold State.sheetWork
  grind [binFill_formed, binOp_formed, stored_newId, updLease_formed, updBin_formed, pokeArray_formed, formed_iff_stored]

theorem sendSheetDone_formed (hs : s.Formed) (q i b x) : (s.sendSheetDone q i b x).Formed := by
  unfold State.sendSheetDone
  grind [sendFrom_formed]

theorem stageSheet_formed (hs : s.Formed) (q i n) : (s.stageSheet q i n).Formed := hs

theorem execSheetDone_formed (hs : s.Formed) (q b) : (execSheetDone q b s).Formed := by
  unfold execSheetDone
  grind [held_formed, sendSheetDone_formed, stageSheet_formed, stored_newId, newLease_formed, updBin_formed, sheetWork_formed,
    stored_dropLease, formed_iff_stored, Out.Formed]

theorem sheetAccepted_formed (hs : s.Formed) (q i seq) : (s.sheetAccepted q i seq).Formed := by
  unfold State.sheetAccepted
  grind [updBin_formed, stored_postOnce, formed_iff_stored, foldl_formed]

theorem areaHead_formed (c ps al) : Both Stop.Formed (fun _ => True) (areaHead c ps al) := by
  unfold areaHead
  grind [Both, Stop.Formed]

theorem areaBounds_formed (c va n) : Both Stop.Formed (fun _ => True) (areaBounds c va n) := by
  unfold areaBounds
  grind [Both, Stop.Formed]

theorem areaDie_formed (q c va n) : Both Stop.Formed (fun _ => True) (areaDie q c va n) := by
  unfold areaDie
  grind [Both, Stop.Formed]

theorem areaCheck_formed (q c ps al n) : Both Stop.Formed (fun _ => True) (areaCheck q c ps al n) := by
  unfold areaCheck
  simp only [except_bind]
  grind [areaHead_formed, areaBounds_formed, areaDie_formed]

theorem checkBin_formed (q b owner) : Both Stop.Formed (fun _ => True) (checkBin q b owner) := by
  unfold checkBin
  extract_lets fmt segs jp
  have hjp : ∀ u, Both Stop.Formed (fun _ => True) (jp u) := fun _ =>
    Both.check (need_formed ..) <| .check (areaCheck_formed ..) <| .check (need_formed ..) <| .check (areaCheck_formed ..) <|
      .check (areaCheck_formed ..) <| .check (areaHead_formed ..) <| .check (allOk_formed _ fun _ => areaBounds_formed ..) <|
      allOk_formed _ fun _ => areaDie_formed ..
  clear_value jp
  split
  · exact .check (need_formed ..) (hjp _)
  · exact hjp _

theorem installBin_formed (hs : s.Formed) (q i b) : (s.installBin q i b).Formed := by
  unfold State.installBin
  grind [updBin_formed, stored_gridCheck, foldl_formed, formed_iff, State.stored]

theorem execDkcfg_formed (hs : s.Formed) (g a b) : (execDkcfg g a b s).Formed := by
  refine issue_formed hs _ _ <| .bind (useC_formed hs a) fun ⟨n, s⟩ hs => .bind (useC_formed hs b) fun ⟨r, s⟩ hs =>
    .check (checkAccess_formed ..) <| .bind (load_formed hs ..) fun ⟨bs, s⟩ hs => .check (checkBin_formed ..) ?_
  extract_lets old t
  have ht : t.Formed := by
    simp only [t]
    split
    · exact closeSheet_formed hs ..
    · exact hs
  clear_value t
  split
  · exact ht
  · exact installBin_formed ht ..

theorem ownBin_formed (v) : Both Stop.Formed (fun _ => True) (s.ownBin v) := by
  unfold State.ownBin
  simp only [except_bind, except_pure]
  grind [need_formed, Both]

theorem execDkflush_formed (hs : s.Formed) (g a) : (execDkflush g a s).Formed := by
  unfold execDkflush
  refine issue_formed hs _ _ ?_
  simp only [except_bind, except_pure]
  grind [useC_formed, ownBin_formed, closeSheet_formed, Both]

theorem execDkstat_formed (hs : s.Formed) (g d a) : (execDkstat g d a s).Formed := by
  unfold execDkstat
  refine issue_formed hs _ _ ?_
  simp only [except_bind]
  grind [useC_formed, ownBin_formed, putC_formed, Both]

/-! ### Inboxes -/

theorem countDrop_formed (hs : s.Formed) (c ch inline) : (s.countDrop c ch inline).Formed := by
  unfold State.countDrop
  grind [stored_updCore, updCount_formed, formed_iff_stored]

theorem overflowMsg_formed (hs : s.Formed) (c ch a ws t) : (s.overflowMsg c ch a ws t).Formed := by
  unfold State.overflowMsg
  grind [updCount_formed, sendFrom_formed, countDrop_formed]

theorem enqueue_formed (hs : s.Formed) (c ch a ws t seq parked) : (s.enqueue c ch a ws t seq parked).Formed := by
  unfold State.enqueue
  grind [stored_offer, stored_updCore, formed_iff_stored]

theorem deliver_formed (hs : s.Formed) (c m ws judged nobin) : (s.deliver c m ws judged nobin).Formed := by
  unfold State.deliver
  split
  · exact hs
  extract_lets kind exempt late t pol a nobin ch x e inline handBack parked counts tick u
  have ht : t.Formed := by grind [stored_updWin, formed_iff_stored]
  have hu : u.Formed := by
    simp only [u]
    split
    · exact formed_of_stored (stored_updCore ..) ht
    · exact ht
  clear_value t pol a nobin ch x u
  split
  · exact ht
  split
  · grind [capEvent_formed, Landing.Formed]
  split
  · exact countDrop_formed ht ..
  split
  · exact overflowMsg_formed ht ..
  split
  · exact ht
  · exact enqueue_formed hu ..

theorem acceptedMsg_formed (hs : s.Formed) (m) : (s.acceptedMsg m).Formed := by
  unfold State.acceptedMsg
  grind [stored_post, sheetAccepted_formed, formed_iff_stored]

theorem decodeMsg_formed (hs : s.Formed) (c m) : (s.decodeMsg c m).2.Formed := by
  unfold State.decodeMsg
  grind [setDict_formed]

theorem markAt_formed (hs : s.Formed) (c src w) : (s.markAt c src w).Formed := by
  unfold State.markAt
  grind [stored_updCore, stored_postOnce, formed_iff_stored, foldl_formed]

theorem resumeKey_formed (hs : s.Formed) (c key n) : (s.resumeKey c key n).Formed := by
  induction n generalizing s with
  | zero => exact hs
  | succ n ih =>
    unfold State.resumeKey
    grind [markAt_formed, stored_updCore, stored_postOnce, formed_iff_stored]

theorem refuse_formed (hs : s.Formed) (c m a counted judged nobin) : (s.refuse c m a counted judged nobin).Formed := by
  unfold State.refuse
  grind [updCount_formed, stored_updCore, formed_iff_stored]

theorem takeMsg_formed (hs : s.Formed) (c m) : (s.takeMsg c m).Formed := by
  unfold State.takeMsg
  grind [decodeMsg_formed, deliver_formed, stored_updCore, formed_iff_stored, acceptedMsg_formed, refuse_formed, Landing.Formed]

theorem takeEarly_formed (hs : s.Formed) (c p n) : (s.takeEarly c p n).Formed := by
  induction n generalizing s with
  | zero => exact hs
  | succ n ih =>
    unfold State.takeEarly
    grind [takeMsg_formed, stored_updCore, formed_iff_stored]

theorem arrive_formed (hs : s.Formed) (c m) : (s.arrive c m).Formed := by
  unfold State.arrive
  grind [refuse_formed, takeEarly_formed, takeMsg_formed, resumeKey_formed, stored_setCore, formed_iff_stored]

theorem ackBridge_formed (hs : s.Formed) (c m) : (s.ackBridge c m).Formed := by
  unfold State.ackBridge
  grind [formed_iff]

theorem markArrives_formed (hs : s.Formed) (c src w) : (s.markArrives c src w).Formed := by
  unfold State.markArrives
  grind [refuse_formed, markAt_formed]

theorem execMessageArrival_formed (hs : s.Formed) (c m) : (execMessageArrival c m s).Formed := by
  unfold execMessageArrival
  grind [stored_post, ackBridge_formed, markArrives_formed, arrive_formed, formed_iff_stored, Out.Formed]

theorem execSendAccepted_formed (hs : s.Formed) (c wid) : (execSendAccepted c wid s).Formed := by
  unfold execSendAccepted
  grind [stored_updWork, formed_iff_stored, Out.Formed]

theorem ageChans_formed (hs : s.Formed) (c) : (s.ageChans c).Formed := hs

theorem startHandler_formed (hs : s.Formed) (c k ch m) : (s.startHandler c k ch m).Formed := hs

theorem execHandlerChoice_formed (hs : s.Formed) (c) : (execHandlerChoice c s).Formed := by
  unfold execHandlerChoice
  grind [ageChans_formed, stored_offer, startHandler_formed, stored_postOnce, formed_iff_stored, Out.Formed]

/-! ### Windows and watermarks -/

theorem openWindow_formed (hs : s.Formed) (k t) : (s.openWindow k t).Formed := hs

theorem closeWindow_formed (hs : s.Formed) (k cause) : (s.closeWindow k cause).Formed := by
  unfold State.closeWindow
  grind [stored_updWin, stored_post, formed_iff_stored, foldl_formed]

theorem testWindow_formed (hs : s.Formed) (k) : (s.testWindow k).Formed := by
  unfold State.testWindow
  grind [closeWindow_formed]

theorem execWindowTargetPass_formed (hs : s.Formed) (k) : (execWindowTargetPass k s).Formed := by
  unfold execWindowTargetPass
  grind [stored_post, stored_updWin, testWindow_formed, formed_iff_stored, Out.Formed]

theorem execWatermarkAtWindowUnit_formed (hs : s.Formed) (src w) : (execWatermarkAtWindowUnit src w s).Formed := by
  unfold execWatermarkAtWindowUnit
  split
  · exact formed_of_stored (stored_post ..) hs
  · refine foldl_formed (fun s k hs => ?_) _ ?_
    · split
      · exact testWindow_formed hs _
      · exact hs
    · exact hs

theorem routeMark_formed (hs : s.Formed) (t src w) : (s.routeMark t src w).Formed := by
  unfold State.routeMark
  grind [stored_post, route_formed, formed_iff_stored, foldl_formed]

theorem execWatermarkPublish_formed (hs : s.Formed) (c w) : (execWatermarkPublish c w s).Formed := by
  unfold execWatermarkPublish
  grind [stored_post, routeMark_formed, stored_setCore, formed_iff_stored, Out.Formed]

theorem closeGoesOn_formed (hs : s.Formed) (k) : (s.closeGoesOn k).Formed := by
  unfold State.closeGoesOn
  grind [stored_post, formed_iff_stored]

theorem answerAmo_formed (hs : s.Formed) (c wid f) : (s.answerAmo c wid f).Formed := by
  unfold State.answerAmo
  grind [stored_updCore, stored_updWork, formed_iff_stored]

theorem applyParked_formed (hs : s.Formed) (a) : (s.applyParked a).Formed := by
  unfold State.applyParked
  grind [amoHome_formed, answerAmo_formed, AmoRes.Formed]

theorem execDetApplyAtHome_formed (hs : s.Formed) (h k) : (execDetApplyAtHome h k s).Formed := by
  unfold execDetApplyAtHome
  extract_lets mine items t u
  have hu : u.Formed := foldl_formed (s := t) (fun _ _ hs => applyParked_formed hs _) _ hs
  exact closeGoesOn_formed (formed_of_stored (stored_updWin ..) hu) _

theorem execDetReleaseAtQueue_formed (hs : s.Formed) (q k) : (execDetReleaseAtQueue q k s).Formed := by
  unfold execDetReleaseAtQueue
  grind [stored_newId, stored_updEntry, stored_updWin, closeGoesOn_formed, stored_offerCluster, formed_iff_stored,
    foldl_formed, Out.Formed]

theorem execClosePacketsSend_formed (hs : s.Formed) (k) : (execClosePacketsSend k s).Formed := by
  unfold execClosePacketsSend
  grind [stored_post, stored_updCore, stored_updWin, openWindow_formed, formed_iff_stored, foldl_formed, Out.Formed]

theorem clearWst_formed (hs : s.Formed) (k) : (s.clearWst k).Formed := hs

theorem decideParked_formed (hs : s.Formed) (c ch) : (s.decideParked c ch).Formed := by
  unfold State.decideParked
  grind [stored_setCore, stored_freeUnit, overflowMsg_formed, formed_iff_stored, foldl_formed]

theorem placeClose_formed (hs : s.Formed) (c p) : (s.placeClose c p).Formed := by
  unfold State.placeClose
  grind [stored_updCore, closeSheet_formed, decideParked_formed, stored_offer, formed_iff_stored, foldl_formed]

theorem deliverClose_formed (hs : s.Formed) (c p) : (s.deliverClose c p).Formed := by
  unfold State.deliverClose
  grind [placeClose_formed, stored_setCore, enqueue_formed, countDrop_formed, stored_postOnce, formed_iff_stored, foldl_formed]

theorem execClosePacketDelivery_formed (hs : s.Formed) (c p) : (execClosePacketDelivery c p s).Formed := by
  unfold execClosePacketDelivery
  grind [deliverClose_formed, refuse_formed, Out.Formed]

theorem execRefusalCallback_formed (hs : s.Formed) (c ch) : (execRefusalCallback c ch s).Formed := by
  unfold execRefusalCallback
  grind [stored_postOnce, formed_iff_stored, Out.Formed]

theorem execMessageResend_formed (hs : s.Formed) (c m) : (execMessageResend c m s).Formed := by
  unfold execMessageResend
  split
  · exact hs
  extract_lets gone
  split
  · exact hs
  split
  · exact formed_of_stored (stored_postOnce ..) (deliverClose_formed (formed_of_stored (stored_updCore ..) hs) ..)
  grind [decodeMsg_formed, deliver_formed, stored_updCore, stored_postOnce, formed_iff_stored, acceptedMsg_formed,
    resumeKey_formed,
    takeEarly_formed, Landing.Formed, Out.Formed]

theorem installWindow_formed (hs : s.Formed) (k r) : (s.installWindow k r).Formed := by
  unfold State.installWindow
  grind [stored_updWin, openWindow_formed, formed_iff_stored]

theorem execWincfg_formed (hs : s.Formed) (g a b) : (execWincfg g a b s).Formed := by
  refine issue_formed hs _ _ <| .bind (useC_formed hs a) fun ⟨n, s⟩ hs => .bind (useC_formed hs b) fun ⟨r, s⟩ hs =>
    .check (need_formed ..) <| .check (need_formed ..) <| .check (checkAccess_formed ..) <|
    .bind (load_formed hs ..) fun ⟨bs, s⟩ hs =>
    .check (need_formed ..) ?_
  split
  · exact hs
  · exact installWindow_formed hs ..

theorem execWinclose_formed (hs : s.Formed) (g a) : (execWinclose g a s).Formed := by
  unfold execWinclose
  refine issue_formed hs _ _ ?_
  simp only [except_bind, except_pure]
  grind [notSpec_formed, useC_formed, need_formed, testWindow_formed, closeWindow_formed, Both]

theorem execWmark_formed (hs : s.Formed) (g a) : (execWmark g a s).Formed := by
  unfold execWmark
  refine issue_formed hs _ _ ?_
  simp only [except_bind, except_pure]
  grind [notSpec_formed, useX_formed, orderLoads_formed, orderStores_formed, stored_post, formed_iff_stored, Both]

/-! ### Messages -/

theorem sendMine_formed (hs : s.Formed) (dest a ws t) : (s.sendMine dest a ws t).Formed := by
  unfold State.sendMine
  grind [deferTo_formed, sendFrom_formed, stored_updMe, formed_iff_stored]

theorem sendMsg_formed (hs : s.Formed) (inline g a b) : (sendMsg inline g a b s).Formed := by
  exact issue_formed hs _ _ <| .bind (useC_formed hs a) fun ⟨_, _⟩ hs => .bind (useC_formed hs b) fun ⟨_, _⟩ hs =>
    .check (need_formed ..) <| .check (need_formed ..) <| .check (need_formed ..) <| .check (need_formed ..) <|
    .check (orderLoads_formed) <| .check (orderStores_formed) <| .check (deferRoom_formed hs) <|
    sendMine_formed (formed_of_stored (stored_updMe ..) hs) ..

theorem execSpkout_formed (hs : s.Formed) (g a c m) : (execSpkout g a c m s).Formed := by
  refine issue_formed hs _ _ <| .bind (useX_formed hs _) fun ⟨step, s⟩ hs => .bind (useC_formed hs c) fun ⟨t, s⟩ hs =>
    .check (checkAccess_formed ..) <| .bind (load_formed hs ..) fun ⟨hd, s⟩ hs => .check (need_formed ..) ?_
  extract_lets va addr jp jq
  have hjp : ∀ r, r.2.Formed → Both Stop.Formed State.Formed (jp r) := fun ⟨bs, s⟩ hs =>
    Both.check (need_formed ..) <| .check (orderLoads_formed) <| .check (orderStores_formed) <|
      .check (deferRoomFor_formed hs _) <|
      foldl_formed (fun _ _ hs => sendMine_formed hs ..) _ hs
  have hjq : ∀ u, Both Stop.Formed State.Formed (jq u) := fun u => by
    dsimp only [jq]
    split
    · exact hjp ([], s) hs
    · exact (load_formed hs ..).bind hjp
  clear_value jp jq
  split
  · trivial
  · exact hjq _

theorem execWaitch_formed (hs : s.Formed) (g a) : (execWaitch g a s).Formed := by
  refine issue_formed hs _ _ <| .check (notSpec_formed) ?_
  extract_lets waits jp
  have hjp : ∀ r, r.2.Formed → Both Stop.Formed State.Formed (jp r) := fun ⟨v, s⟩ hs => by
    refine Both.check (need_formed ..) <| .check (orderLoads_formed) ?_
    have he : (s.endMsg s.cur.1 s.cur.2).Formed := formed_of_stored (stored_endMsg ..) hs
    dsimp only
    split
    · exact he
    · exact Both.bind (putC_formed (formed_of_stored ((stored_updMe ..).trans (stored_updCore ..)) he) ..) fun _ hs =>
        putC_formed hs ..
  clear_value jp waits
  split
  · exact hjp (_, s) hs
  · exact (useX_formed hs a).bind hjp

theorem checkChan_formed (e) : Both Stop.Formed (fun _ => True) (checkChan e) := by
  unfold checkChan
  simp only [except_bind]
  grind [need_formed]

theorem installChan_formed (hs : s.Formed) (c ch e) : (s.installChan c ch e).Formed := by
  unfold State.installChan
  grind [stored_updCore, stored_offer, stored_postOnce, stored_gridCheck, foldl_formed, formed_iff, State.stored]

theorem execHset_formed (hs : s.Formed) (g a b) : (execHset g a b s).Formed := by
  exact issue_formed hs _ _ <| .bind (useC_formed hs a) fun ⟨_, _⟩ hs => .bind (useC_formed hs b) fun ⟨_, _⟩ hs =>
    .check (need_formed ..) <| .check (checkAccess_formed ..) <| .check (need_formed ..) <|
    .bind (load_formed hs ..) fun ⟨_, _⟩ hs =>
    .check (checkChan_formed ..) <| installChan_formed hs ..

theorem ownChan_formed (ch) : Both Stop.Formed (fun _ => True) (s.ownChan ch) := by
  unfold State.ownChan
  grind [need_formed]

theorem execHmask_formed (hs : s.Formed) (g d a b) : (execHmask g d a b s).Formed := by
  unfold execHmask
  refine issue_formed hs _ _ ?_
  simp only [except_bind]
  grind [useX_formed, ownChan_formed, stored_offer, updChan_formed, putX_formed, formed_iff_stored, Both]

theorem execChcap_formed (hs : s.Formed) (g a b) : (execChcap g a b s).Formed := by
  unfold execChcap
  refine issueN_formed hs _ _ ?_
  simp only [except_bind, except_pure]
  grind [useX_formed, useC_formed, ownChan_formed, need_formed, stored_updCore, updChan_formed, formed_iff_stored, Both]

theorem execBridgeResend_formed (hs : s.Formed) (p) : (execBridgeResend p s).Formed := by
  unfold execBridgeResend
  dsimp only
  split
  · exact hs
  · exact foldl_formed (fun _ _ hs => formed_of_stored (stored_post ..) hs) _ hs

/-! ### Pre-emption -/

theorem vacate_formed (hs : s.Formed) (c k) : (s.vacate c k).Formed := by
  unfold State.vacate
  grind [stored_offer, stored_updStrand, stored_freeTiles, formed_iff_stored]

theorem saveStrand_formed (hs : s.Formed) (c k img cocoon) : (s.saveStrand c k img cocoon).Formed := by
  unfold State.saveStrand
  grind [stored_hwEnd, liveAt_formed, homeWrite_formed, stored_updCore, vacate_formed, formed_iff_stored, Both]

theorem execPreemptionSave_formed (hs : s.Formed) (c) : (execPreemptionSave c s).Formed := by
  unfold execPreemptionSave
  grind [stored_updCore, stored_post, saveStrand_formed, stored_offer, stored_postOnce, formed_iff_stored, foldl_formed,
    Out.Formed]

theorem restoreStrand_formed (hs : s.Formed) (c k v) : (s.restoreStrand c k v).Formed := by
  unfold State.restoreStrand
  extract_lets w loc base s0 put
  have h0 : s0.Formed := formed_of_stored (stored_updCore ..) hs
  have hput : ∀ t y, t.Formed → (put t y).Formed := fun t y h =>
    foldl_formed (fun _ _ hs => formed_of_stored (stored_post ..) hs) _ (formed_of_stored (stored_setStrand ..) h)
  have hend : ∀ t, t.Formed → ((put t v.strand).hwEnd c k).Formed := fun t h => formed_of_stored (stored_hwEnd ..) (hput t _ h)
  clear_value s0 put
  split
  · exact hend _ h0
  split
  next h => exact hend _ ((homeRead_formed h0 ..).error h)
  next s1 h =>
    have h1 : s1.Formed := (homeRead_formed h0 ..).ok h
    extract_lets x y claim
    have hclaim : ∀ (ts : List (Fin 8)) r, Both State.Formed State.Formed r → Both State.Formed State.Formed (ts.foldl claim r)
      := by
      intro ts
      induction ts with
      | nil => exact fun _ h => h
      | cons t ts ih =>
        refine fun r hr => ih _ ?_
        simp only [claim]
        grind [homeRead_formed, stored_updCore, formed_iff_stored, Both]
    have h2 := hclaim v.tiles (.ok s1) h1
    clear_value claim y
    split
    next h => exact hend _ (h2.error h)
    next h =>
      have h2 := h2.ok h
      split
      next h => exact hend _ ((homeWrite_formed h2 ..).error h)
      next h => exact hput _ _ ((homeWrite_formed h2 ..).ok h)

theorem execStrandRestore_formed (hs : s.Formed) (c k) : (execStrandRestore c k s).Formed := by
  unfold execStrandRestore
  grind [restoreStrand_formed, stored_postOnce, formed_iff_stored, Out.Formed]

/-! ### Tasks -/

theorem checkRec_formed (r spec) : Both Stop.Formed (fun _ => True) (checkRec r spec) := by
  unfold checkRec
  simp only [except_bind]
  grind [need_formed]

theorem steals_formed (hs : s.Formed) (q) : (s.steals q).Formed := by
  unfold State.steals
  grind [stored_offerCluster, stored_updCore, formed_iff_stored, foldl_formed]

theorem pushNow_formed (hs : s.Formed) (q e) : (s.pushNow q e).Formed := by
  unfold State.pushNow
  grind [stored_newId, steals_formed, stored_updCluster, formed_iff_stored]

theorem lineUp_formed (hs : s.Formed) (q e) : (s.lineUp q e).Formed := hs

theorem push_formed (hs : s.Formed) (q e) : (s.push q e).Formed := by
  unfold State.push
  grind [pushNow_formed, lineUp_formed]

theorem execQueuePushWait_formed (hs : s.Formed) (q) : (execQueuePushWait q s).Formed := by
  unfold execQueuePushWait
  grind [steals_formed, stored_setCluster, answerAmo_formed, stored_postOnce, formed_iff_stored, Out.Formed]

theorem loadRec_formed (hs : s.Formed) (r) : Both Stop.Formed (·.2.Formed) (s.loadRec r) := by
  unfold State.loadRec
  simp only [except_bind, except_pure]
  grind [checkAccess_formed, load_formed, Both]

theorem nextSpawn_formed (hs : s.Formed) : s.nextSpawn.2.Formed := hs

theorem pushMine_formed (hs : s.Formed) (q e) : Both Stop.Formed State.Formed (s.pushMine q e) := by
  unfold State.pushMine
  grind [push_formed, stored_updMe, lineUp_formed, formed_iff_stored, Both, Stop.Formed]

theorem turnInLine_formed (hs : s.Formed) (q e) : Both Stop.Formed State.Formed (s.turnInLine q e) := by
  unfold State.turnInLine
  grind [stored_updMe, lineUp_formed, stored_updCluster, stored_postOnce, formed_iff_stored, Both, Stop.Formed]

theorem pushed_formed (hs : s.Formed) : Both Stop.Formed (∀ s ∈ ·, s.Formed) s.pushed := by
  unfold State.pushed
  grind [stored_updMe, formed_iff_stored, Both, Stop.Formed]

theorem execSpawn_formed (hs : s.Formed) (g a b) : (execSpawn g a b s).Formed := by
  refine issue_formed hs _ _ <| .bind (useC_formed hs a) fun ⟨r, s⟩ hs => .bind (useX_formed hs b) fun ⟨k, s⟩ hs =>
    .bind (pushed_formed hs) fun p hp => ?_
  split
  · exact hp _ rfl
  · exact .bind (loadRec_formed hs _) fun ⟨_, _⟩ hs => .check (checkRec_formed ..) <| .check (need_formed ..) <|
      .check (need_formed ..) <|
      .check (orderLoads_formed) <| .check (orderStores_formed) <| pushMine_formed (nextSpawn_formed hs) ..

theorem settleEnd_formed (hs : s.Formed) : Both Stop.Formed State.Formed s.settleEnd := by
  unfold State.settleEnd
  simp only [except_bind, except_pure, except_throw]
  grind [joinWins_formed, joinPosted_formed, settleLease_formed, Both, Stop.Formed]

theorem endsCont_formed : Both Stop.Formed (fun _ => True) s.endsCont := by
  unfold State.endsCont
  simp only [except_bind]
  grind [need_formed]

theorem execHend_formed (hs : s.Formed) (g) : (execHend g s).Formed := by
  unfold execHend
  refine issueN_formed hs _ _ ?_
  simp only [except_bind, except_pure]
  grind [need_formed, settleEnd_formed, stored_release, formed_iff_stored, Both]

theorem succeed_formed (hs : s.Formed) (r) : Both Stop.Formed State.Formed (s.succeed r) := by
  unfold State.succeed
  grind [stored_newId, stored_updEntry, stored_updTask, steals_formed, push_formed, formed_iff_stored, Both, Stop.Formed]

theorem suspendTo_formed (hs : s.Formed) (code) : Both Stop.Formed (·.1.Formed) (s.suspendTo code) := by
  unfold State.suspendTo
  simp only [except_bind, except_pure]
  grind [settleEnd_formed, succeed_formed, stored_release, formed_iff_stored, Both]

theorem checkedEnd_formed (hs : s.Formed) {f : State → Except Stop (CVal × CVal × State)} (hf : Both Stop.Formed (·.2.2.Formed) (f s)) :
    Both Stop.Formed (·.2.2.Formed) (s.checkedEnd f) := by
  unfold State.checkedEnd
  simp only [except_bind, except_pure]
  grind [stored_updMe, formed_iff_stored, Both]

theorem execSuspend_formed (hs : s.Formed) (g a b) : (execSuspend g a b s).Formed := by
  refine issueN_formed hs _ _ <| .bind (checkedEnd_formed hs ?_) fun ⟨p, m, s⟩ hs => ?_
  · refine .check (endsCont_formed) ?_
    extract_lets jp
    have hjp : ∀ u, Both Stop.Formed (·.2.2.Formed) (jp u) := fun u => by
      refine Both.bind (useC_formed hs a) fun ⟨p, s⟩ hs => .check (checkAccess_formed ..) ?_
      split
      · exact hs
      · refine Both.bind (useC_formed hs b) fun ⟨m, s⟩ hs => .check (checkAccess_formed ..) ?_
        exact hs
    clear_value jp
    split
    · exact .check (notSpec_formed) (hjp _)
    · exact hjp _
  · dsimp only
    split
    · exact suspendTo_formed hs _
    · refine .bind (settleEnd_formed hs) fun s hs => ?_
      split
      next h => exact (homeWrite_formed hs ..).error h
      next t h =>
        have ht : (t.release s.cur.1 s.cur.2).Formed := formed_of_stored (stored_release ..) ((homeWrite_formed hs ..).ok h)
        refine formed_of_stored (stored_gridCheck ..) ?_
        split
        · exact formed_of_stored (stored_dropEntry ..) ht
        · exact ht

theorem execYield_formed (hs : s.Formed) (g) : (execYield g s).Formed := by
  unfold execYield
  refine issueN_formed hs _ _ ?_
  simp only [except_bind]
  grind [endsCont_formed, notSpec_formed, checkAccess_formed, suspendTo_formed, Both]

theorem execDone_formed (hs : s.Formed) (g) : (execDone g s).Formed := by
  unfold execDone
  refine issueN_formed hs _ _ ?_
  simp only [except_bind, except_pure]
  grind [endsCont_formed, notSpec_formed, settleEnd_formed, stored_entryEnds, stored_release, formed_iff_stored, Both]

theorem execDoneJ_formed (hs : s.Formed) (g a) : (execDoneJ g a s).Formed := by
  refine issueN_formed hs _ _ <| .bind (checkedEnd_formed hs ?_) fun ⟨j, _, s⟩ hs => .bind (settleEnd_formed hs) fun s hs => ?_
  · exact .check (endsCont_formed) <| .check (notSpec_formed) <| .bind (useC_formed hs a) fun ⟨_, _⟩ hs =>
      .check (checkAccess_formed ..) hs
  dsimp only
  split
  · exact hs
  split
  next h => exact (translateAll_formed hs ..).error h
  next h => exact formed_of_stored ((stored_post ..).trans (stored_release ..)) ((translateAll_formed hs ..).ok h)

theorem parentRec_formed (hs : s.Formed) (w p) : (s.parentRec w p).2.Formed := by
  unfold State.parentRec
  grind [homeRead_formed, Both]

theorem joinedEnds_formed (hs : s.Formed) (entry) : (s.joinedEnds entry).Formed := by
  unfold State.joinedEnds
  grind [stored_entryEnds, formed_iff_stored]

theorem execJoinDecrement_formed (hs : s.Formed) (c asid entry jo) : (execJoinDecrement c asid entry jo s).Formed := by
  unfold execJoinDecrement
  extract_lets w loc va fin put
  have hfin : ∀ t, t.Formed → Out.Formed (fin t) := fun _ h => joinedEnds_formed h _
  have hput : ∀ t n bs, t.Formed → (put t n bs).Formed := fun t n bs h => by
    dsimp only [put]
    split
    next e => exact (homeWrite_formed h ..).ok e
    next e => exact (homeWrite_formed h ..).error e
  clear_value fin put
  split
  next ht => exact hfin _ ((homeRead_formed hs ..).error ht)
  next bs t ht =>
    have ht : t.Formed := (homeRead_formed hs ..).ok ht
    extract_lets num count flags zero at' past mark blank p own q
    clear_value at'
    have hmark : ∀ t, t.Formed → (mark t).Formed := fun t h => by
      dsimp only [mark]
      split <;> exact h
    have hblank : blank.Formed := hput _ _ _ ht
    have hp := parentRec_formed ht w p
    clear_value count past mark blank p q
    split
    · exact hfin _ hblank
    split
    · exact hfin _ (hmark _ (hput _ _ _ ht))
    split
    · exact hfin _ (hput _ _ _ ht)
    split
    next h =>
      rw [h] at hp
      exact hfin _ (push_formed (hmark _ (hput _ _ _ hp)) ..)
    next h =>
      rw [h] at hp
      exact hfin _ (hmark _ (hput _ _ _ hp))
    · exact hfin _ (hmark _ (hput _ _ _ ht))

theorem startCont_formed (hs : s.Formed) (c k q e) : (s.startCont c k q e).Formed := by
  unfold State.startCont
  grind [stored_newId, stored_updEntry, stored_setStrand, stored_updTask, stored_updDom, formed_iff_stored]

theorem execContinuationTake_formed (hs : s.Formed) (c) : (execContinuationTake c s).Formed := by
  unfold execContinuationTake
  grind [stored_offer, startCont_formed, stored_post, stored_updCore, formed_iff_stored, Out.Formed]

theorem execStealRound_formed (hs : s.Formed) (c) : (execStealRound c s).Formed := by
  unfold execStealRound
  grind [stored_updCore, stored_updCluster, stored_dropEntry, stored_offer, startCont_formed, stored_post, formed_iff_stored,
    Out.Formed]

theorem execStealRetryTimeout_formed (hs : s.Formed) (c) : (execStealRetryTimeout c s).Formed := by
  unfold execStealRetryTimeout
  grind [stored_offer, stored_updCore, formed_iff_stored, Out.Formed]

/-! ### Launch -/

theorem launchRead_formed (hs : s.Formed) (q off n) : Both State.Formed (·.2.Formed) (s.launchRead q off n) := by
  unfold State.launchRead
  grind [stored_logAt, homeRead_formed, formed_iff_stored, Both]

theorem readItems_formed (hs : s.Formed) (q n off) : Both State.Formed (·.2.Formed) (s.readItems q n off) := by
  induction n generalizing s off with
  | zero => exact hs
  | succ n ih =>
    unfold State.readItems
    grind [launchRead_formed, Both]

theorem codeDigest_formed (hs : s.Formed) (w c) : (s.codeDigest w c).2.Formed := by
  unfold State.codeDigest
  grind [homeRead_formed, stored_free, formed_iff_stored, Both]

theorem flushItem_formed (hs : s.Formed) (r i) : (s.flushItem r i).Formed := by
  unfold State.flushItem
  grind [closeSheet_formed]

theorem installItem_formed (hs : s.Formed) (id r i) : (s.installItem id r i).Formed := by
  unfold State.installItem
  grind [installChan_formed, stored_updGrid, installWindow_formed, installBin_formed, formed_iff_stored, foldl_formed]

theorem newPartition_formed (hs : s.Formed) (id r) : (s.newPartition id r).Formed := by
  unfold State.newPartition
  grind [stored_post, formed_iff, State.stored]

theorem acceptLaunch_formed (hs : s.Formed) (d bs r items) : (s.acceptLaunch d bs r items).2.Formed := by
  unfold State.acceptLaunch
  grind [codeDigest_formed, newPartition_formed, installItem_formed, stored_post, foldl_formed, formed_iff, State.stored]

theorem launchAnswer_formed (hs : s.Formed) (d q v) : (s.launchAnswer d q v).Formed := by
  unfold State.launchAnswer
  grind [answerAmo_formed, formed_iff]

theorem execLaunchValidation_formed (hs : s.Formed) (d) : (execLaunchValidation d s).Formed := by
  unfold execLaunchValidation
  split
  · exact hs
  next q rest _ =>
    extract_lets done fail
    have hdone : ∀ t v, t.Formed → Out.Formed (done t v) := fun t v h => by
      dsimp only [done]
      have hl : ∀ l, (({ t with launch := l } : State).launchAnswer d q v).Formed := fun _ =>
        launchAnswer_formed (by exact h) ..
      split
      · exact hl _
      · exact formed_of_stored (stored_post ..) (hl _)
    have hfail : ∀ t n, t.Formed → Out.Formed (fail t n) := fun t n h => hdone t _ h
    clear_value done fail
    split
    next hr => exact hfail _ _ ((launchRead_formed hs ..).error hr)
    next bs t hr =>
      have ht : t.Formed := (launchRead_formed hs ..).ok hr
      dsimp only
      grind [readItems_formed, flushItem_formed, acceptLaunch_formed, stored_post, formed_iff_stored, foldl_formed, Both,
        Out.Formed]

theorem askLaunch_formed (hs : s.Formed) (d q) : (s.askLaunch d q).Formed := by
  unfold State.askLaunch
  grind [stored_post, formed_iff, State.stored]

theorem execLaunch_formed (hs : s.Formed) (g d a) : (execLaunch g d a s).Formed := by
  refine issue_formed hs _ _ <| .check (notSpec_formed) <| .bind (useC_formed hs a) fun ⟨r, s⟩ hs =>
    .check (checkAccess_formed ..) ?_
  split
  · split
    · exact putX_formed (formed_of_stored (stored_updMe ..) hs) ..
    · exact hs
  · refine .check (orderLoads_formed) <| .check (orderStores_formed) ?_
    split
    next h => exact (homeRead_formed hs ..).error h
    next h => exact formed_of_stored (stored_updMe ..) (askLaunch_formed ((homeRead_formed hs ..).ok h) ..)

theorem execLaunchPortWrite_formed (hs : s.Formed) (d addr) : (execLaunchPortWrite d addr s).Formed := by
  unfold execLaunchPortWrite
  grind [askLaunch_formed, Out.Formed]

theorem pushTeam_formed (hs : s.Formed) (g u t) : (s.pushTeam g u t).Formed := by
  unfold State.pushTeam
  grind [stored_updGrid, push_formed, formed_iff_stored, foldl_formed]

theorem placeGrid_formed (hs : s.Formed) (g) : (s.placeGrid g).Formed := by
  unfold State.placeGrid
  grind [stored_updGrid, push_formed, pushTeam_formed, stored_post, stored_gridCheck, formed_iff_stored, foldl_formed]

theorem discardFlight_formed (hs : s.Formed) (g works entries) : (s.discardFlight g works entries).Formed := by
  unfold State.discardFlight
  grind [stored_setCore, stored_postOnce, foldl_formed, formed_iff, State.stored]

theorem killGrid_formed (hs : s.Formed) (g) : (s.killGrid g).Formed := by
  unfold State.killGrid
  grind [stored_release, stored_dropLease, stored_freeUnit, stored_updCore, stored_postOnce, stored_endGrid,
    discardFlight_formed, foldl_formed, formed_iff, State.stored]

theorem dropHeads_formed (hs : s.Formed) (d n) : (s.dropHeads d n).Formed := by
  induction n generalizing s with
  | zero => exact hs
  | succ n ih =>
    unfold State.dropHeads
    grind [stored_report, killGrid_formed, formed_iff_stored]

theorem execLaunchHeadTake_formed (hs : s.Formed) (d) : (execLaunchHeadTake d s).Formed := by
  unfold execLaunchHeadTake
  have hl : ∀ (t : State) l, t.Formed → ({ t with launch := l } : State).Formed := fun _ _ h => h
  grind [dropHeads_formed, placeGrid_formed, stored_post, formed_iff_stored, Out.Formed]

theorem updUnit_formed (hs : s.Formed) (id u f) : (s.updUnit id u f).Formed := hs

theorem bringIn_formed (hs : s.Formed) (g u t) : (s.bringIn g u t).Formed := by
  unfold State.bringIn
  grind [updUnit_formed, stored_offer, stored_postOnce, pushTeam_formed, stored_post, formed_iff_stored, foldl_formed]

theorem execTeamSliceExpiry_formed (hs : s.Formed) (grid u) : (execTeamSliceExpiry grid u s).Formed := by
  unfold execTeamSliceExpiry
  split
  · exact hs
  split
  · exact hs
  split
  · exact hs
  grind [bringIn_formed, stored_post, updUnit_formed, saveStrand_formed, foldl_formed, formed_iff_stored, Out.Formed]

theorem updPart_formed (hs : s.Formed) (p f) : (s.updPart p f).Formed := hs

theorem execPartitionPeriodStart_formed (hs : s.Formed) (p) : (execPartitionPeriodStart p s).Formed := by
  unfold execPartitionPeriodStart
  grind [updPart_formed, sendPacket_formed, stored_postOnce, stored_updCore, stored_post, formed_iff_stored, foldl_formed,
    Out.Formed]

theorem execPartitionBudgetStart_formed (hs : s.Formed) (p) : (execPartitionBudgetStart p s).Formed := by
  unfold execPartitionBudgetStart
  grind [stored_post, formed_iff_stored, Out.Formed]

theorem execPartitionBudgetEnd_formed (hs : s.Formed) (p) : (execPartitionBudgetEnd p s).Formed := by
  unfold execPartitionBudgetEnd
  grind [updPart_formed, stored_offer, stored_postOnce, formed_iff_stored, foldl_formed, Out.Formed]

theorem execCoreHardwareError_formed (hs : s.Formed) (c) : (execCoreHardwareError c s).Formed := by
  unfold execCoreHardwareError
  grind [stored_hwEnd, formed_iff_stored, foldl_formed, Out.Formed]

theorem dieFault_formed (hs : s.Formed) (d) : (s.dieFault d).Formed := by
  unfold State.dieFault
  grind [stored_report, killGrid_formed, formed_iff_stored, foldl_formed]

theorem popGerr_formed (hs : s.Formed) (d) : (s.popGerr d).Formed := by
  unfold State.popGerr
  grind [formed_iff]

/-! ### Invalidation of translations -/

theorem invalidateAt_formed (hs : s.Formed) (ni i) : (s.invalidateAt ni i).Formed := by
  unfold State.invalidateAt
  grind [setTlb_formed, formed_iff]

theorem execTlbiAck_formed (hs : s.Formed) (id ni) : (execTlbiAck id ni s).Formed := by
  unfold execTlbiAck
  grind [invalidateAt_formed, stored_post, updOp_formed, endOp_formed, formed_iff_stored, Out.Formed]

theorem execTlbi_formed (hs : s.Formed) (g k a b) : (execTlbi g k a b s).Formed := by
  exact issue_formed hs _ _ <| .check (noAwait_formed) <| .bind (useC_formed hs a) fun ⟨_, _⟩ hs =>
    .bind (useC_formed hs b) fun ⟨_, _⟩ hs =>
    .check (need_formed ..) <| .check (notSpec_formed) <| .check (need_formed ..) <| .check (engineFree_formed hs) <|
    foldl_formed (fun _ _ hs => formed_of_stored (stored_post ..) hs) _ (newOp_formed hs ..)

theorem execTranslationWalk_formed (hs : s.Formed) (ni asid va) : (execTranslationWalk ni asid va s).Formed := by
  unfold execTranslationWalk
  grind [lookup_formed, Out.Formed]

/-! ### Paging -/

theorem putPage_formed (hs : s.Formed) (phys bs tags) : (s.putPage phys bs tags).Formed := by
  obtain ⟨hm, ht, hp⟩ := formed_iff.mp (physWrite_formed hs phys bs)
  refine formed_iff.mpr ⟨hm, rising_foldl (fun t p ht => ?_) _ ht, hp⟩
  split
  · exact rising_tagSet _ _ ht
  · exact ht

theorem putPte_formed (hs : s.Formed) (at' x) : (s.putPte at' x).Formed :=
  formed_of_stored (stored_dropLine ..) (memWrite_formed hs ..)

theorem pgEnd_formed (hs : s.Formed) (q p status len) : (s.pgEnd q p status len).Formed := by
  unfold State.pgEnd
  grind [stored_updCluster, sendPacket_formed, formed_iff_stored]

theorem pgFail_formed (hs : s.Formed) (q p status) : (s.pgFail q p status).Formed := by
  unfold State.pgFail
  grind [stored_free, pgEnd_formed, formed_iff_stored]

theorem growEvent_formed (hs : s.Formed) (q p units) : (s.growEvent q p units).Formed := by
  unfold State.growEvent
  grind [stored_notice, formed_iff, State.stored]

theorem pgWalk_formed (hs : s.Formed) (q p m e) : (s.pgWalk q p m e).Formed := by
  unfold State.pgWalk
  grind [pgFail_formed, logMet_formed]

theorem pgBad_formed (hs : s.Formed) (q p ni e) : (s.pgBad q p ni e).Formed := by
  unfold State.pgBad
  grind [pgFail_formed, logMet_formed]

theorem pgFill_formed (hs : s.Formed) (q p) : (s.pgFill q p).Formed := by
  unfold State.pgFill
  grind [pgWalk_formed, pgFail_formed, pgBad_formed, stored_free, pgEnd_formed, putPte_formed, putPage_formed,
    formed_iff_stored]

theorem pgStore_formed (hs : s.Formed) (q p at' off) : (s.pgStore q p at' off).Formed := by
  unfold State.pgStore
  grind [stored_post, pgBad_formed, pgEnd_formed, physWrite_formed, stored_updCluster, growEvent_formed, formed_iff_stored]

theorem pgSpill_formed (hs : s.Formed) (q p) : (s.pgSpill q p).Formed := by
  unfold State.pgSpill
  grind [pgStore_formed, pgWalk_formed, pgFail_formed, invalidateAt_formed, putPte_formed, stored_updCluster, formed_iff_stored]

theorem pgGrow_formed (hs : s.Formed) (q p) : (s.pgGrow q p).Formed := by
  unfold State.pgGrow
  grind [pgFail_formed, pgWalk_formed, pgBad_formed, pgEnd_formed, growEvent_formed, physWrite_formed, stored_updCluster,
    putPte_formed, formed_iff_stored]

theorem pokePaging_formed (hs : s.Formed) (q) : (s.pokePaging q).Formed := by
  unfold State.pokePaging
  grind [stored_postOnce, formed_iff_stored]

theorem pgServe_formed (hs : s.Formed) (q e) {f : State → PgCmd → State} (hf : ∀ s k, s.Formed → (f s k).Formed) :
    (s.pgServe q e f).Formed := by
  unfold State.pgServe
  grind [held_formed, pokePaging_formed, pgFail_formed]

theorem execPagingFill_formed (hs : s.Formed) (q) : (execPagingFill q s).Formed := by
  unfold execPagingFill
  grind [pgServe_formed, pgFill_formed, Out.Formed]

theorem execPagingSpill_formed (hs : s.Formed) (q) : (execPagingSpill q s).Formed := by
  unfold execPagingSpill
  grind [pgServe_formed, pgSpill_formed, Out.Formed]

theorem execPagingGrow_formed (hs : s.Formed) (q) : (execPagingGrow q s).Formed := by
  unfold execPagingGrow
  grind [pgServe_formed, pgGrow_formed, Out.Formed]

theorem popGrow_formed (hs : s.Formed) (d) : (s.popGrow d).Formed := by
  unfold State.popGrow
  grind [formed_iff]

theorem pgQueue_formed (hs : s.Formed) (r) : Both Stop.Formed State.Formed (s.pgQueue r) := by
  unfold State.pgQueue
  simp only [except_bind, except_pure, except_throw]
  grind [checkAccess_formed, load_formed, pokePaging_formed, stored_updCluster, formed_iff_stored, Both, Stop.Formed]

/-! ### System registers and debug -/

theorem haltCore_formed (hs : s.Formed) (c) : (s.haltCore c).Formed := hs

theorem resumeCore_formed (hs : s.Formed) (c) : (s.resumeCore c).Formed := by
  unfold State.resumeCore
  grind [stored_offer, stored_updCore, formed_iff_stored]

theorem setQuiesce_formed (hs : s.Formed) (c b) : (s.setQuiesce c b).Formed := by
  unfold State.setQuiesce
  grind [stored_postOnce, haltCore_formed, stored_updCore, resumeCore_formed, formed_iff_stored]

theorem execQuiesceComplete_formed (hs : s.Formed) (c) : (execQuiesceComplete c s).Formed := by
  unfold execQuiesceComplete
  grind [stored_updCore, stored_post, formed_iff_stored, Out.Formed]

theorem execDebugHalt_formed (hs : s.Formed) (c) : (execDebugHalt c s).Formed := hs

theorem execDebugRelease_formed (hs : s.Formed) (c) : (execDebugRelease c s).Formed := by
  unfold execDebugRelease
  grind [resumeCore_formed, stored_updCore, formed_iff_stored, Out.Formed]

theorem readCoreReg_formed (hs : s.Formed) (c n) : (s.readCoreReg c n).2.Formed := by
  have hset : ∀ x, (s.setCore c x).Formed := fun _ => formed_of_stored (stored_setCore ..) hs
  unfold State.readCoreReg
  exact formed_ite hs <| formed_ite hs <| formed_ite (hset _) <| formed_ite hs <| formed_ite (hset _) <| formed_ite hs <|
    formed_ite hs <| formed_ite hs <| formed_ite hs <| formed_ite hs <| formed_ite (hset _) <| formed_ite hs <|
    formed_ite (updCount_formed hs ..) <| formed_ite (formed_of_stored (stored_free s) hs) <| formed_ite hs <|
      formed_ite hs (hset _)

theorem snapdat_formed (hs : s.Formed) : s.snapdat.2.Formed := by
  unfold State.snapdat
  grind [stored_free, formed_iff_stored]

theorem readPackageReg_formed (hs : s.Formed) (n) : (s.readPackageReg n).2.Formed := by
  unfold State.readPackageReg
  exact formed_ite hs <| formed_ite (clearWst_formed hs _) <| formed_ite hs <| formed_ite hs <| formed_ite hs <|
    formed_ite hs <| formed_ite hs <|
    formed_ite (snapdat_formed hs) <| formed_ite hs <| formed_ite hs <| formed_ite hs <| formed_ite hs <| formed_ite hs <|
      formed_ite hs <|
    formed_ite hs <| formed_ite hs <| formed_ite hs <| formed_ite hs <|
      formed_ite (formed_of_stored (stored_updCluster ..) hs) <|
    formed_ite hs <| formed_ite hs <| formed_ite (formed_of_stored (stored_updDom ..) hs) <| formed_ite (popGrow_formed hs _) <|
    formed_ite hs <| formed_ite (popGerr_formed hs _) <| formed_ite hs <|
      formed_ite (formed_of_stored (stored_updHome ..) hs) <|
    formed_ite hs hs

theorem clearRange_formed (hs : s.Formed) (lo hi) : (s.clearRange lo hi).Formed := by
  obtain ⟨hm, ht, hp⟩ := formed_iff.mp hs
  exact formed_iff.mpr ⟨wf_filter _ hm, rising_filter _ ht, rising_filter _ hp⟩

theorem setProt_formed (hs : s.Formed) (c i x) : (s.setProt c i x).Formed := by
  unfold State.setProt
  grind [clearRange_formed, stored_updCore, formed_iff_stored]

theorem execProtRegionEnable_formed (hs : s.Formed) (c i x) : (execProtRegionEnable c i x s).Formed := by
  unfold execProtRegionEnable
  grind [setProt_formed, Out.Formed]

theorem execProtRegionDisable_formed (hs : s.Formed) (c i x) : (execProtRegionDisable c i x s).Formed := by
  unfold execProtRegionDisable
  grind [setProt_formed, Out.Formed]

theorem startPort_formed (hs : s.Formed) (p) : (s.startPort p).Formed := by
  unfold State.startPort
  grind [stored_postOnce, formed_iff_stored]

theorem startGpio_formed (hs : s.Formed) (i) : (s.startGpio i).Formed := by
  unfold State.startGpio
  grind [stored_postOnce, stored_post, formed_iff, State.stored]

theorem allow_formed (hs : s.Formed) (b) : Both Stop.Formed State.Formed (allow b s) := by
  unfold allow
  grind [t_formed, Both]

theorem writeStrandReg_formed (hs : s.Formed) (c k n v) : Both Stop.Formed State.Formed (s.writeStrandReg c k n v) := by
  unfold State.writeStrandReg
  grind [stored_updStrand, allow_formed, t_formed, formed_iff_stored, Both]

theorem writeCoreReg_formed (hs : s.Formed) (c n v) : Both Stop.Formed State.Formed (s.writeCoreReg c n v) := by
  have hupd : ∀ f, (s.updCore c f).Formed := fun _ => formed_of_stored (stored_updCore ..) hs
  unfold State.writeCoreReg
  exact .ite (allow_formed (hupd _) _) <| .ite (allow_formed (hupd _) _) <|
    .ite (allow_formed (formed_of_stored (stored_offer ..) (hupd _)) _) <| .ite (hupd _) <| .ite (hupd _) <| .ite (hupd _) <|
    .ite (allow_formed (hupd _) _) <| .ite (hupd _) <| .ite (allow_formed (setQuiesce_formed hs ..) _) <|
    .ite (pgQueue_formed hs _) <| .ite (allow_formed (setProt_formed hs ..) _) <| .ite (hupd _) trivial

theorem writePackageReg_formed (hs : s.Formed) (n v) : Both Stop.Formed State.Formed (s.writePackageReg n v) := by
  have hhouse : ∀ f, (s.updHouse f).Formed := fun _ => formed_of_stored (stored_updHouse ..) hs
  have hset : ∀ b t, t.stored = s.stored → Both Stop.Formed State.Formed (allow b t) := fun b _ h =>
    allow_formed (formed_of_stored h hs) b
  unfold State.writePackageReg
  refine .ite (hset _ _ rfl) <| .ite (hset _ _ rfl) <| .ite (hset _ _ rfl) <| .ite (allow_formed (hhouse _) _) <|
    .ite (allow_formed (hhouse _) _) <| .ite (hset _ _ rfl) <| .ite (allow_formed ?_ _) <| .ite (allow_formed ?_ _) <|
    .ite (allow_formed ?_ _) <| .ite (hset _ _ rfl) <| .ite (hset _ _ rfl) <|
    .ite (formed_of_stored (stored_updHome ..) hs) <| .ite (hset _ _ rfl) <|
    .ite (allow_formed (startGpio_formed ?_ _) _) trivial
  · split
    · exact hhouse _
    · exact hs
  · split
    · refine startPort_formed ?_ _
      exact hs
    · exact hs
  · split
    · exact formed_of_stored (stored_postOnce ..) hs
    · exact hs
  · exact hs

theorem writeReg_formed (hs : s.Formed) (c n v) : Both Stop.Formed State.Formed (s.writeReg c n v) := by
  unfold State.writeReg
  grind [t_formed, writeCoreReg_formed, writePackageReg_formed, Both]

theorem readReg_formed (hs : s.Formed) (c n) : (s.readReg c n).2.Formed := by
  unfold State.readReg
  grind [readCoreReg_formed, readPackageReg_formed]

theorem regOpen_formed (n) : Both Stop.Formed (fun _ => True) (s.regOpen n) := by
  unfold State.regOpen
  simp only [except_bind]
  grind [need_formed]

theorem execSysrd_formed (hs : s.Formed) (g d n) : (execSysrd g d n s).Formed := by
  unfold execSysrd
  refine issue_formed hs _ _ ?_
  simp only [except_bind]
  grind [regOpen_formed, putC_formed, readReg_formed, Both]

theorem passHalted_formed (hs : s.Formed) (x) : (s.passHalted x).Formed := hs

theorem execSyswr_formed (hs : s.Formed) (g a n) : (execSyswr g a n s).Formed := by
  unfold execSyswr
  refine issueN_formed hs _ _ ?_
  simp only [except_bind, except_pure]
  grind [regOpen_formed, need_formed, useC_formed, passHalted_formed, writeStrandReg_formed, writeReg_formed, Both]

theorem execRegisterWrite_formed (hs : s.Formed) (c n x) : (execRegisterWrite c n x s).Formed := by
  unfold execRegisterWrite
  grind [writeReg_formed, Both, Out.Formed]

theorem execTret_formed (hs : s.Formed) (g) : (execTret g s).Formed := by
  unfold execTret
  refine issueN_formed hs _ _ ?_
  simp only [except_bind, except_pure]
  grind [trapReturn_formed, Both]

theorem execUret_formed (hs : s.Formed) (g a) : (execUret g a s).Formed := by
  unfold execUret
  refine issueN_formed hs _ _ ?_
  simp only [except_bind, except_pure]
  grind [useC_formed, upcallReturn_formed, Both]

theorem execResumef_formed (hs : s.Formed) (g a) : (execResumef g a s).Formed := by
  unfold execResumef
  refine issueN_formed hs _ _ ?_
  simp only [except_bind, except_pure]
  grind [useC_formed, upcallReturn_formed, Both]

theorem execSnap_formed (hs : s.Formed) (g a) : (execSnap g a s).Formed := by
  unfold execSnap
  refine issue_formed hs _ _ ?_
  simp only [except_bind, except_pure]
  grind [useC_formed, need_formed, stored_trigger, formed_iff_stored, Both]

theorem execFreeze_formed (hs : s.Formed) (g a) : (execFreeze g a s).Formed := by
  unfold execFreeze
  refine issue_formed hs _ _ ?_
  simp only [except_bind, except_pure]
  grind [useC_formed, need_formed, stored_updHouse, stored_trigger, formed_iff_stored, Both]

theorem execSnapshotPin_formed (hs : s.Formed) : (execSnapshotPin s).Formed := by
  unfold execSnapshotPin
  grind [stored_trigger, formed_iff_stored, Out.Formed]

/-! ### Reset, the host and the edge -/

theorem warm_formed (hs : s.Formed) : s.warm.Formed := by
  obtain ⟨hm, ht, hp⟩ := formed_iff.mp hs
  exact formed_iff.mpr ⟨wf_filter _ hm, ht, hp⟩

theorem execReset_formed (hs : s.Formed) (img) : (execReset img s).Formed := by
  unfold execReset
  grind [warm_formed, stored_updHouse, formed_iff_stored, Out.Formed]

theorem clusterUp_formed (hs : s.Formed) (q) : (s.clusterUp q).Formed := by
  unfold State.clusterUp
  grind [stored_postOnce, stored_offer, formed_iff_stored, foldl_formed]

theorem portUpAgain_formed (hs : s.Formed) : s.portUpAgain.Formed := by
  unfold State.portUpAgain
  grind [stored_postOnce, formed_iff_stored, foldl_formed]

theorem execFunctionReady_formed (hs : s.Formed) (b) : (execFunctionReady b s).Formed := by
  unfold execFunctionReady
  grind [stored_updHouse, clusterUp_formed, portUpAgain_formed, startPort_formed, stored_postOnce, startGpio_formed,
    formed_iff_stored, foldl_formed, Out.Formed]

theorem endWork_formed (hs : s.Formed) (c) {f : State → SlotId → State} (hf : ∀ s k, s.Formed → (f s k).Formed) :
    (s.endWork c f).Formed := by
  unfold State.endWork
  grind [stored_setStrand, stored_updCore, formed_iff_stored, foldl_formed]

theorem discardMember_formed (hs : s.Formed) (c slot e) : (s.discardMember c slot e).Formed := by
  unfold State.discardMember
  grind [stored_dropEntry, stored_updCluster, stored_report, stored_gridCheck, stored_memberEnds, formed_iff_stored]

theorem coreOut_formed (hs : s.Formed) (c) : (s.coreOut c).Formed := by
  unfold State.coreOut
  grind [endWork_formed, discardMember_formed, stored_release, stored_hwEnd, stored_report, stored_gridCheck,
    stored_memberEnds, formed_iff_stored, foldl_formed]

theorem queueOut_formed (hs : s.Formed) (q) : (s.queueOut q).Formed := by
  unfold State.queueOut
  grind [stored_updCluster, stored_offerCluster, stored_postOnce, stored_report, stored_gridCheck, stored_memberEnds,
    foldl_formed, formed_iff, State.stored]

theorem restartCore_formed (hs : s.Formed) (c) : (s.restartCore c).Formed := by
  have h1 := endWork_formed hs c (f := fun s k => s.hwEnd c k) fun _ _ hs => formed_of_stored (stored_hwEnd ..) hs
  unfold State.restartCore
  generalize s.endWork c (fun s k => s.hwEnd c k) = t at h1
  dsimp only
  refine foldl_formed (fun _ _ hs => acceptedMsg_formed hs _) _ ?_
  refine foldl_formed (fun _ _ hs => setDict_formed (setDict_formed (setDict_formed (setDict_formed hs ..) ..) ..) ..) _ ?_
  exact h1

theorem windowsOff_formed (hs : s.Formed) : s.windowsOff.Formed := hs

theorem diesPart_formed (hs : s.Formed) : s.diesPart.Formed := by
  unfold State.diesPart
  grind [stored_report, killGrid_formed, formed_iff_stored, foldl_formed]

theorem outOfService_formed (hs : s.Formed) (b) : (s.outOfService b).Formed := by
  unfold State.outOfService
  grind [stored_updHouse, stored_notice, queueOut_formed, coreOut_formed, dropHeads_formed, diesPart_formed, stored_postOnce,
    windowsOff_formed, formed_iff_stored, foldl_formed]

theorem loadImage_formed (hs : s.Formed) (img) : (s.loadImage img).Formed := by
  unfold State.loadImage
  grind [stored_updHouse, outOfService_formed, formed_iff_stored, foldl_formed]

theorem notify_formed (hs : s.Formed) (code val) : (s.notify code val).Formed := by
  unfold State.notify
  grind [stored_notice, formed_iff_stored]

theorem setLevel_formed (hs : s.Formed) (n) : (s.setLevel n).Formed := by
  unfold State.setLevel
  grind [notify_formed, stored_updHouse, formed_iff_stored]

theorem execThrottleTick_formed (hs : s.Formed) (power) : (execThrottleTick power s).Formed := by
  unfold execThrottleTick
  grind [stored_updHouse, setLevel_formed, formed_iff_stored, Out.Formed]

theorem execOvertemperature_formed (hs : s.Formed) (temp) : (execOvertemperature temp s).Formed := by
  unfold execOvertemperature
  grind [stored_updHouse, notify_formed, setLevel_formed, dieFault_formed, formed_iff_stored, Out.Formed]

theorem execGptpSync_formed (hs : s.Formed) (grand) : (execGptpSync grand s).Formed := hs

theorem execLockLost_formed (hs : s.Formed) : (execLockLost s).Formed := hs

theorem updPort_formed (hs : s.Formed) (p f) : (s.updPort p f).Formed := hs

theorem countCrc_formed (hs : s.Formed) (p) : (s.countCrc p).Formed := hs

theorem eventWord_formed (hs : s.Formed) (p w) : (s.eventWord p w).Formed := by
  unfold State.eventWord
  grind [countCrc_formed, updPort_formed, sendPacket_formed]

theorem execCsi2Packet_formed (hs : s.Formed) (p dtype crcOk words) : (execCsi2Packet p dtype crcOk words s).Formed := by
  unfold execCsi2Packet
  grind [countCrc_formed, eventWord_formed, foldl_formed, Out.Formed]

theorem execPortWatermarkPeriod_formed (hs : s.Formed) (p) : (execPortWatermarkPeriod p s).Formed := by
  unfold execPortWatermarkPeriod
  grind [startPort_formed, routeMark_formed, updPort_formed, foldl_formed, Out.Formed]

theorem gpioEmit_formed (hs : s.Formed) (i ts val) : (s.gpioEmit i ts val).Formed := by
  unfold State.gpioEmit
  grind [sendPacket_formed]

theorem execGpioEdge_formed (hs : s.Formed) (i level edge held) : (execGpioEdge i level edge held s).Formed := by
  unfold execGpioEdge
  grind [gpioEmit_formed, Out.Formed]

theorem execGpioTimerPeriod_formed (hs : s.Formed) (i) : (execGpioTimerPeriod i s).Formed := by
  unfold execGpioTimerPeriod
  extract_lets
  split
  · exact hs
  split
  · exact formed_of_stored (stored_postOnce ..) hs
  · exact formed_of_stored (stored_postOnce ..) (gpioEmit_formed hs ..)

theorem execGpioWatermarkPeriod_formed (hs : s.Formed) (i) : (execGpioWatermarkPeriod i s).Formed := by
  unfold execGpioWatermarkPeriod
  grind [stored_postOnce, routeMark_formed, formed_iff_stored, Out.Formed]

theorem execCanFrameEvent_formed (hs : s.Formed) (c f) : (execCanFrameEvent c f s).Formed := by
  unfold execCanFrameEvent
  extract_lets ev t
  have ht : t.Formed := hs
  split
  · exact ht
  · exact sendPacket_formed ht ..

theorem execCanWatermarkPeriod_formed (hs : s.Formed) (c) : (execCanWatermarkPeriod c s).Formed := by
  unfold execCanWatermarkPeriod
  grind [stored_postOnce, routeMark_formed, formed_iff_stored, Out.Formed]

theorem busFault_formed (hs : s.Formed) (a wr' cause) : (s.busFault a wr' cause).Formed := by
  unfold State.busFault
  grind [stored_free, stored_logAt, formed_iff, State.stored]

theorem busBad_formed (hs : s.Formed) (a) : (s.busBad a).Formed := by
  unfold State.busBad
  grind [stored_free, stored_logAt, formed_iff, State.stored]

theorem hostWrite_formed (hs : s.Formed) (a bs) : (s.hostWrite a bs).Formed := by
  unfold State.hostWrite
  grind [stored_ordinaryWrite, stored_dropLine, physWrite_formed, formed_iff_stored, foldl_formed]

theorem storeCap_formed (hs : s.Formed) (addr) : (s.storeCap addr).Formed := by
  unfold State.storeCap
  extract_lets
  split
  · exact hs
  split
  · exact busFault_formed hs ..
  · obtain ⟨hm, ht, hp⟩ := formed_iff.mp (hostWrite_formed hs ..)
    exact formed_iff.mpr ⟨hm, rising_tagSet _ _ ht, hp⟩

theorem attest_formed (hs : s.Formed) (addr) : (s.attest addr).Formed := by
  unfold State.attest
  grind [stored_post, busFault_formed, busBad_formed, stored_free, hostWrite_formed, formed_iff, State.stored]

theorem houseWrite_formed (hs : s.Formed) (off n d) : ∀ r ∈ (s.houseWrite off n d), r.Formed := by
  unfold State.houseWrite
  grind [storeCap_formed, stored_post, writeReg_formed, Both, formed_iff, State.stored]

theorem houseRead_formed (hs : s.Formed) (off n) : ∀ r ∈ (s.houseRead off n), r.2.Formed := by
  unfold State.houseRead
  grind [stored_free, readReg_formed, formed_iff_stored]

theorem execAppCoreAccess_formed (hs : s.Formed) (x) : (execAppCoreAccess x s).Formed := by
  unfold execAppCoreAccess
  extract_lets ok off u
  have hok : ∀ t v, t.Formed → Out.Formed (ok t v) := fun _ _ h => h
  clear_value ok
  split
  · split
    · split
      next t ht => exact houseWrite_formed hs _ _ _ t ht
      · exact busFault_formed hs ..
    · split
      next v t ht => exact hok _ _ (houseRead_formed hs _ _ _ ht)
      · exact busFault_formed hs ..
  split
  · exact busFault_formed hs ..
  split
  · split
    · exact hs
    · exact hok _ _ hs
  split
  · exact busFault_formed hs ..
  split
  · exact hostWrite_formed hs ..
  split
  · exact busBad_formed hs _
  · exact hok _ _ hs

theorem inboundParts_formed (hs : s.Formed) (ps bs) : (s.inboundParts ps bs).Formed := by
  induction ps generalizing s bs with
  | nil => exact hs
  | cons p ps ih =>
    unfold State.inboundParts
    grind [hostWrite_formed, busFault_formed]

theorem bar0Parts_formed (hs : s.Formed) (n a bs) : (s.bar0Parts n a bs).Formed := by
  induction n generalizing s a bs with
  | zero => exact hs
  | succ n ih =>
    unfold State.bar0Parts
    grind [houseWrite_formed, busFault_formed]

theorem execPcieInboundWrite_formed (hs : s.Formed) (addr bytes relaxed) : (execPcieInboundWrite addr bytes relaxed s).Formed := by
  unfold execPcieInboundWrite
  grind [bar0Parts_formed, inboundParts_formed, busFault_formed, Out.Formed]

theorem pcieRead_formed (hs : s.Formed) (addr n) : (s.pcieRead addr n).Formed := by
  unfold State.pcieRead
  grind [execAppCoreAccess_formed, busFault_formed, Out.Formed]

theorem peerServe_formed (hs : s.Formed) (asid va n data) : (s.peerServe asid va n data).Formed := by
  unfold State.peerServe
  grind [stored_logAt, translateAll_formed, writeParts_formed, Both, formed_iff, State.stored]

/-! ### Speculative tasks -/

theorem myDomain_formed (v) : Both Stop.Formed (fun _ => True) (s.myDomain v) := by
  unfold State.myDomain
  simp only [except_bind, except_pure]
  grind [need_formed, Both]

theorem execTspawn_formed (hs : s.Formed) (g a b) : (execTspawn g a b s).Formed := by
  exact issue_formed hs _ _ <| .bind (useC_formed hs a) fun ⟨_, _⟩ hs => .bind (useX_formed hs b) fun ⟨_, _⟩ hs =>
    .bind (loadRec_formed hs _) fun ⟨_, _⟩ hs => .check (checkRec_formed ..) <| .check (need_formed ..) <|
    .check (need_formed ..) <|
    .check (need_formed ..) <| .check (orderLoads_formed) <| .check (orderStores_formed) <|
    .bind (turnInLine_formed hs ..) fun _ hs => pushNow_formed
      (formed_of_stored ((stored_updDom ..).trans (stored_newId ..)) (nextSpawn_formed hs)) ..

theorem execTdone_formed (hs : s.Formed) (g) : (execTdone g s).Formed := by
  refine issueN_formed hs _ _ <| .check (need_formed ..) <| .check (need_formed ..) <|
    .bind (settleEnd_formed hs) fun s hs => ?_
  extract_lets w c t
  have ht : t.Formed := formed_of_stored (stored_release ..) hs
  clear_value t
  split
  · exact ht
  split
  · exact formed_of_stored ((stored_entryEnds ..).trans ((stored_dropTask ..).trans (stored_updDom ..))) ht
  · exact formed_of_stored ((stored_pokeDomain ..).trans (stored_updTask ..)) ht

theorem execTabort_formed (hs : s.Formed) (g a b) : (execTabort g a b s).Formed := by
  refine issue_formed hs _ _ <| .bind (useC_formed hs a) fun ⟨v, s⟩ hs => .bind (useX_formed hs b) fun ⟨x, s⟩ hs =>
    .bind (myDomain_formed v) fun d _ => ?_
  dsimp only
  split
  · exact .check (need_formed ..) (formed_of_stored (stored_abortTasks ..) hs)
  · exact formed_of_stored (stored_abortTasks ..) hs

theorem execTfront_formed (hs : s.Formed) (g d a) : (execTfront g d a s).Formed := by
  unfold execTfront
  refine issue_formed hs _ _ ?_
  simp only [except_bind]
  grind [useC_formed, myDomain_formed, putX_formed, Both]

theorem execTwaitc_formed (hs : s.Formed) (g a b) : (execTwaitc g a b s).Formed := by
  unfold execTwaitc
  refine issue_formed hs _ _ ?_
  simp only [except_bind, except_pure, except_throw]
  grind [useC_formed, useX_formed, myDomain_formed, Both, Stop.Formed]

theorem versionAt_formed (hs : s.Formed) (v c) : (s.versionAt v c).2.Formed := by
  unfold State.versionAt
  grind [translate_formed]

theorem mergeVersion_formed (hs : s.Formed) (d c v) : (s.mergeVersion d c v).Formed := by
  unfold State.mergeVersion
  split
  · exact hs
  have hv := versionAt_formed hs v c
  split
  next ht => rw [ht] at hv; exact hv
  next t ht =>
    rw [ht] at hv
    extract_lets u x key
    have hu : u.Formed := foldl_formed (fun s p hs => by
      split
      · dsimp only
        split
        · exact physWrite_formed hs ..
        · exact physWrite_formed hs ..
      · exact hs) _ hv
    obtain ⟨hm, htags, hp⟩ := formed_iff.mp hu
    have hx : x.Formed := formed_iff.mpr ⟨hm, rising_foldl (fun t p ht => by
      split
      · exact rising_tagSet _ _ ht
      · exact ht) _ htags, hp⟩
    exact formed_of_stored ((stored_dropL0 ..).trans (stored_commitWrite ..)) hx

theorem commitVersions_formed (hs : s.Formed) (d c id) : (s.commitVersions d c id).Formed := by
  unfold State.commitVersions
  grind [mergeVersion_formed, stored_postOnce, foldl_formed, formed_iff, State.stored]

theorem commitOp_formed (hs : s.Formed) (d c wid asid job) : (s.commitOp d c wid asid job).Formed := hs

theorem renameAwait_formed (hs : s.Formed) (c id n) : (s.renameAwait c id n).Formed := hs

theorem issueDeferred_formed (hs : s.Formed) (d c wid x) : (s.issueDeferred d c wid x).Formed := by
  unfold State.issueDeferred
  grind [codeMsg_formed, commitOp_formed, stored_newId, updOp_formed, stored_post, renameAwait_formed, opGoOn_formed,
    formed_iff_stored]

theorem issueAll_formed (hs : s.Formed) (d c t) : (s.issueAll d c t).Formed := by
  unfold State.issueAll
  grind [stored_updTask, issueDeferred_formed, formed_iff_stored, foldl_formed]

theorem execTaskCommit_formed (hs : s.Formed) (d) : (execTaskCommit d s).Formed := by
  unfold execTaskCommit
  grind [issueAll_formed, commitVersions_formed, stored_updDom, stored_pokeDomain, stored_gridCheck, stored_dropEntry,
    formed_iff_stored, Out.Formed]

theorem execTaskIrrevocable_formed (hs : s.Formed) (d) : (execTaskIrrevocable d s).Formed := by
  unfold execTaskIrrevocable
  have hv : ∀ (t : State) vs, t.Formed → ({ t with vwait := vs } : State).Formed := fun _ _ h => h
  grind [issueAll_formed, commitVersions_formed, stored_updTask, stored_updWork, stored_updEntry, stored_updDom,
    formed_iff_stored,
    Out.Formed]

theorem execVersionRecordFreed_formed (hs : s.Formed) (h) : (execVersionRecordFreed h s).Formed := by
  unfold execVersionRecordFreed
  grind [stored_updStrand, formed_iff_stored, Out.Formed]

/-! ### Exact accumulators -/

theorem updXacc_formed (hs : s.Formed) (p i f) : (s.updXacc p i f).Formed := by
  unfold State.updXacc
  grind [stored_updCluster, stored_updHome, formed_iff_stored]

theorem xError_formed (hs : s.Formed) (ni w m cause) : (s.xError ni w m cause).2.Formed := by
  unfold State.xError
  grind [stored_free, logFault_formed, formed_iff_stored]

theorem xFind_formed (hs : s.Formed) (w m h) : Both (·.2.Formed) (fun _ => True) (s.xFind w m h) := by
  unfold State.xFind
  grind [xError_formed, Both]

theorem reachesAcc_formed (hs : s.Formed) (p) : Both Stop.Formed (fun _ => True) (s.reachesAcc p) := by
  unfold State.reachesAcc
  grind [Both, Stop.Formed]

theorem execXacq_formed (hs : s.Formed) (g d a) : (execXacq g d a s).Formed := by
  refine issue_formed hs _ _ <| .check (notSpec_formed) <| .bind (useC_formed hs a) fun ⟨v, s⟩ hs => .check (need_formed ..) <|
    .check (reachesAcc_formed hs ..) ?_
  extract_lets x jp
  have hjp : ∀ u, Both Stop.Formed State.Formed (jp u) := fun u => by
    dsimp only [jp]
    split
    · exact putC_formed hs ..
    · exact putC_formed (updXacc_formed hs ..) ..
  clear_value jp
  split
  · exact xError_formed hs ..
  · exact hjp _

theorem execXadd_formed (hs : s.Formed) (g a b) : (execXadd g a b s).Formed := by
  unfold execXadd
  refine issue_formed hs _ _ ?_
  simp only [except_bind]
  grind [notSpec_formed, useC_formed, postAccess_formed, Both]

theorem execXrd_formed (hs : s.Formed) (g d a) : (execXrd g d a s).Formed := by
  refine issue_formed hs _ _ <| .check (notSpec_formed) <| .bind (useC_formed hs a) fun ⟨h, s⟩ hs => ?_
  dsimp only
  split
  · trivial
  refine .check (reachesAcc_formed hs ..) ?_
  split
  next he => exact (xFind_formed hs ..).error he
  · exact putF_formed hs ..

theorem execXrel_formed (hs : s.Formed) (g a) : (execXrel g a s).Formed := by
  unfold execXrel
  refine issueN_formed hs _ _ ?_
  simp only [except_bind, except_pure, except_throw]
  grind [notSpec_formed, useC_formed, reachesAcc_formed, xFind_formed, updXacc_formed, Both, Stop.Formed]

theorem execXaddAtHome_formed (hs : s.Formed) (c id) : (execXaddAtHome c id s).Formed := by
  unfold execXaddAtHome
  grind [atHome_formed, xFind_formed, updXacc_formed, Both]

/-! ### Exceptions -/

theorem execMemoryUpcall_formed (hs : s.Formed) (c k) : (execMemoryUpcall c k s).Formed := by
  unfold execMemoryUpcall
  grind [takeUpcall_formed, recall_formed, Out.Formed]

theorem execIllegalInstruction_formed (hs : s.Formed) (c k) : (execIllegalInstruction c k s).Formed := by
  unfold execIllegalInstruction
  grind [fetchInstr_formed, stored_takeTrap, formed_iff_stored, Both, Out.Formed]

theorem execInstructionFetchFailure_formed (hs : s.Formed) (c k) : (execInstructionFetchFailure c k s).Formed := by
  unfold execInstructionFetchFailure
  grind [fetchInstr_formed, stored_takeTrap, takeUpcall_formed, formed_iff_stored, Both, Stop.Formed, Out.Formed]

/-! ### Prefetch -/

theorem pfEntry_formed (a) : Both Stop.Formed (fun _ => True) (s.pfEntry a) := by
  unfold State.pfEntry
  simp only [except_bind, except_pure]
  grind [need_formed, Both]

theorem setPf_formed (hs : s.Formed) (i e) : (s.setPf i e).Formed := hs

theorem execPfcfg_formed (hs : s.Formed) (g a b) : (execPfcfg g a b s).Formed := by
  exact issue_formed hs _ _ <| .bind (useC_formed hs a) fun ⟨_, _⟩ hs => .bind (useC_formed hs b) fun ⟨_, _⟩ hs =>
    .check (notSpec_formed) <| .bind (pfEntry_formed _) fun _ _ => .check (checkAccess_formed ..) <|
    .bind (load_formed hs ..) fun ⟨_, _⟩ hs => .check (need_formed ..) <| .check (need_formed ..) <| .check (need_formed ..) <|
    setPf_formed hs ..

theorem execPfstop_formed (hs : s.Formed) (g a) : (execPfstop g a s).Formed := by
  unfold execPfstop
  refine issue_formed hs _ _ ?_
  simp only [except_bind, except_pure]
  grind [useC_formed, notSpec_formed, pfEntry_formed, setPf_formed, Both]

theorem pfCount_formed (hs : s.Formed) (c i) : (s.pfCount c i).Formed := hs

theorem execPrefetchTrigger_formed (hs : s.Formed) (c va asid) : (execPrefetchTrigger c va asid s).Formed := by
  unfold execPrefetchTrigger
  grind [stored_updCore, pfCount_formed, stored_postOnce, formed_iff_stored, Out.Formed]

theorem kernelLoad_formed (hs : s.Formed) (t g len d b off n) : (kernelLoad t g len d b off n s).Formed := by
  unfold kernelLoad
  refine issue_formed hs _ _ ?_
  simp only [except_bind]
  grind [checkAccess_formed, need_formed, putC_formed, Both]

theorem kernelPfx_formed (hs : s.Formed) (g a) : (kernelPfx g a s).Formed := by
  unfold kernelPfx
  refine issue_formed hs _ _ ?_
  simp only [except_pure]
  grind [pfCount_formed, translate_formed, l0Fill_formed, Both]

/-! ### Pointer walks -/

theorem updWalk_formed (hs : s.Formed) (id f) : (s.updWalk id f).Formed := hs

theorem execWalkArrival_formed (hs : s.Formed) (id) : (execWalkArrival id s).Formed := by
  unfold execWalkArrival
  grind [held_formed, stored_post, updWalk_formed, stored_newId, formed_iff_stored, Out.Formed]

theorem finishWalk_formed (hs : s.Formed) (o w code cause p) : (s.finishWalk o w code cause p).Formed := hs

theorem walkFault_formed (hs : s.Formed) (o w f) : (s.walkFault o w f).Formed := by
  unfold State.walkFault
  grind [opFault_formed, updWalk_formed, finishWalk_formed]

theorem walkOn_formed (hs : s.Formed) (id f) : (s.walkOn id f).Formed := hs

theorem walkRead_formed (hs : s.Formed) (o w a n al step) {k : State → List Byte → State} (hk : ∀ s b, s.Formed → (k s b).Formed) :
    (s.walkRead o w a n al step k).Formed := by
  have hr : (State.walkRead.read s o w a n step k).Formed := by
    unfold State.walkRead.read
    grind [finishWalk_formed, homeRead_formed, walkFault_formed, Both]
  unfold State.walkRead
  grind [finishWalk_formed, updWalk_formed, stored_post, formed_iff_stored]

theorem execWalkRule_formed (hs : s.Formed) (id) : (execWalkRule id s).Formed := by
  unfold execWalkRule
  split
  · exact held_formed hs _
  split
  · exact hs
  split
  · exact hs
  split
  · exact hs
  split
  · exact finishWalk_formed hs ..
  dsimp only
  split
  · exact walkRead_formed hs _ _ _ _ _ _ fun _ _ hs => walkOn_formed hs ..
  · exact walkRead_formed hs _ _ _ _ _ _ fun _ _ hs => walkOn_formed hs ..
  · exact walkOn_formed hs ..
  · refine walkRead_formed hs _ _ _ _ _ _ fun _ _ hs => ?_
    grind [finishWalk_formed, homeWrite_formed, walkFault_formed, Both]
  · exact finishWalk_formed hs ..

theorem execWalkEnd_formed (hs : s.Formed) (id) : (execWalkEnd id s).Formed := by
  unfold execWalkEnd
  grind [held_formed, endOp_formed, pushEngq_formed, stored_post, formed_iff_stored, Out.Formed]

theorem checkWalkCap_formed (c ps al) : Both Stop.Formed (fun _ => True) (s.checkWalkCap c ps al) := by
  unfold State.checkWalkCap
  simp only [except_bind, except_pure, except_throw]
  grind [need_formed, Both, Stop.Formed]

theorem execPwalk_formed (hs : s.Formed) (g k a b) : (execPwalk g k a b s).Formed := by
  refine issue_formed hs _ _ <| .check (need_formed ..) <| .bind (useC_formed hs a) fun ⟨d, s⟩ hs =>
    .bind (useC_formed hs b) fun ⟨st, s⟩ hs =>
    .check (checkAccess_formed ..) <| .bind (load_formed hs ..) fun ⟨bs, s⟩ hs => ?_
  dsimp only
  split
  · trivial
  · exact .check (checkWalkCap_formed ..) <| .check (checkWalkCap_formed ..) <| .check (notSpec_formed) <|
      .check (engineFree_formed hs) <| startOp_formed hs ..

end

end Sys2Proof.Machine
end

section
/-! PROOF. Every instruction, every event and every step keeps memory canonical (04 R103; 21 R368; log entry 1). -/

namespace Sys2Proof.Machine

section
variable {s : State}

/-! ### Instructions and events -/

/-- The case split over `Instr`: each event by its own lemma, each instruction by its own or by the one of its shape. The run of
a prefetch kernel executes instructions itself, and is left to the end. -/
theorem exec_formed_of_ne (hs : s.Formed) (i : Instr) (hi : ∀ c, i ≠ .prefetchKernel c) : Out.Formed (exec i s) :=
  match i with
  | .prefetchKernel c => absurd rfl (hi c)
  | .memoryUpcall .. => execMemoryUpcall_formed hs ..
  | .loadResponse .. => execLoadResponse_formed hs ..
  | .storeAtHome .. => execStoreAtHome_formed hs ..
  | .postedErrorResponse .. => execPostedErrorResponse_formed hs ..
  | .amoAtHome .. => execAmoAtHome_formed hs ..
  | .xaddAtHome .. => execXaddAtHome_formed hs ..
  | .joinDecrement .. => execJoinDecrement_formed hs ..
  | .taskCommit .. => execTaskCommit_formed hs ..
  | .taskIrrevocable .. => execTaskIrrevocable_formed hs ..
  | .versionRecordFreed .. => execVersionRecordFreed_formed hs ..
  | .messageArrival .. => execMessageArrival_formed hs ..
  | .refusalCallback .. => execRefusalCallback_formed hs ..
  | .messageResend .. => execMessageResend_formed hs ..
  | .sendAccepted .. => execSendAccepted_formed hs ..
  | .handlerChoice .. => execHandlerChoice_formed hs ..
  | .continuationTake .. => execContinuationTake_formed hs ..
  | .stealRound .. => execStealRound_formed hs ..
  | .stealRetryTimeout .. => execStealRetryTimeout_formed hs ..
  | .queuePushWait .. => execQueuePushWait_formed hs ..
  | .watermarkPublish .. => execWatermarkPublish_formed hs ..
  | .watermarkAtNi .. => markArrives_formed hs ..
  | .watermarkAtWindowUnit .. => execWatermarkAtWindowUnit_formed hs ..
  | .windowTargetPass .. => execWindowTargetPass_formed hs ..
  | .windowTimeout .. => testWindow_formed hs ..
  | .detApplyAtHome .. => execDetApplyAtHome_formed hs ..
  | .detReleaseAtQueue .. => execDetReleaseAtQueue_formed hs ..
  | .closePacketsSend .. => execClosePacketsSend_formed hs ..
  | .closePacketDelivery .. => execClosePacketDelivery_formed hs ..
  | .sheetTimeout .. => execSheetTimeout_formed hs ..
  | .sheetDone .. => execSheetDone_formed hs ..
  | .leaseGrant .. => execLeaseGrant_formed hs ..
  | .arrayTurn .. => execArrayTurn_formed hs ..
  | .arrayTurnEnd .. => execArrayTurnEnd_formed hs ..
  | .arrayCommandComplete .. => execArrayCommandComplete_formed hs ..
  | .arrayFillComplete .. => execArrayFillComplete_formed hs ..
  | .arraySpill .. => execArraySpill_formed hs ..
  | .arrayRestore .. => execArrayRestore_formed hs ..
  | .readoutDrain .. => execReadoutDrain_formed hs ..
  | .streamerPiece .. => execStreamerPiece_formed hs ..
  | .granuleWrite .. => execGranuleWrite_formed hs ..
  | .engineAck .. => execEngineAck_formed hs ..
  | .engineHandBack .. => execEngineHandBack_formed hs ..
  | .quireUpdateAtHome .. => execQuireUpdateAtHome_formed hs ..
  | .walkArrival .. => execWalkArrival_formed hs ..
  | .walkRule .. => execWalkRule_formed hs ..
  | .walkEnd .. => execWalkEnd_formed hs ..
  | .prefetchTrigger .. => execPrefetchTrigger_formed hs ..
  | .translationWalk .. => execTranslationWalk_formed hs ..
  | .tlbiAck .. => execTlbiAck_formed hs ..
  | .bridgeResend .. => execBridgeResend_formed hs ..
  | .preemptionSave .. => execPreemptionSave_formed hs ..
  | .strandRestore .. => execStrandRestore_formed hs ..
  | .launchValidation .. => execLaunchValidation_formed hs ..
  | .launchHeadTake .. => execLaunchHeadTake_formed hs ..
  | .launchPortWrite .. => execLaunchPortWrite_formed hs ..
  | .teamSliceExpiry .. => execTeamSliceExpiry_formed hs ..
  | .partitionPeriodStart .. => execPartitionPeriodStart_formed hs ..
  | .partitionBudgetStart .. => execPartitionBudgetStart_formed hs ..
  | .partitionBudgetEnd .. => execPartitionBudgetEnd_formed hs ..
  | .coreHardwareError .. => execCoreHardwareError_formed hs ..
  | .dieFatalFault .. => dieFault_formed hs ..
  | .gerrPop .. => popGerr_formed hs ..
  | .reset .. => execReset_formed hs ..
  | .functionReady .. => execFunctionReady_formed hs ..
  | .functionOutOfService .. => outOfService_formed hs ..
  | .throttleTick .. => execThrottleTick_formed hs ..
  | .overtemperature .. => execOvertemperature_formed hs ..
  | .gptpSync .. => execGptpSync_formed hs ..
  | .csi2Packet .. => execCsi2Packet_formed hs ..
  | .portWatermarkPeriod .. => execPortWatermarkPeriod_formed hs ..
  | .gpioEdge .. => execGpioEdge_formed hs ..
  | .gpioTimerPeriod .. => execGpioTimerPeriod_formed hs ..
  | .gpioWatermarkPeriod .. => execGpioWatermarkPeriod_formed hs ..
  | .canFrameEvent .. => execCanFrameEvent_formed hs ..
  | .canWatermarkPeriod .. => execCanWatermarkPeriod_formed hs ..
  | .pagingFill .. => execPagingFill_formed hs ..
  | .pagingSpill .. => execPagingSpill_formed hs ..
  | .pagingGrow .. => execPagingGrow_formed hs ..
  | .pggrowPop .. => popGrow_formed hs ..
  | .protRegionEnable .. => execProtRegionEnable_formed hs ..
  | .protRegionDisable .. => execProtRegionDisable_formed hs ..
  | .wstReadClear .. => clearWst_formed hs ..
  | .quiesceRequest .. => setQuiesce_formed hs ..
  | .quiesceComplete .. => execQuiesceComplete_formed hs ..
  | .debugHalt .. => execDebugHalt_formed hs ..
  | .debugRelease .. => execDebugRelease_formed hs ..
  | .snapshotPin .. => execSnapshotPin_formed hs ..
  | .capabilityStore .. => storeCap_formed hs ..
  | .attestationRequest .. => attest_formed hs ..
  | .appCoreAccess .. => execAppCoreAccess_formed hs ..
  | .pcieInboundWrite .. => execPcieInboundWrite_formed hs _ _ true
  | .registerWrite .. => execRegisterWrite_formed hs ..
  | .illegalInstruction .. => execIllegalInstruction_formed hs ..
  | .instructionFetchFailure .. => execInstructionFetchFailure_formed hs ..
  | .lockLost .. => execLockLost_formed hs ..
  | .add .. | .sub .. | .mul .. | .mulh .. | .mulhU .. | .div .. | .divU .. | .rem .. | .remU .. => scalar2_formed hs ..
  | .and .. | .or .. | .xor .. => quad2_formed hs ..
  | .andn .. => execAndn_formed hs ..
  | .sll .. => execSll_formed hs ..
  | .srl .. => execSrl_formed hs ..
  | .sra .. => execSra_formed hs ..
  | .rot .. => execRot_formed hs ..
  | .min .. => execMin_formed hs ..
  | .max .. => execMax_formed hs ..
  | .clz .. | .popc .. | .sextB .. | .sextH .. | .sextW .. | .zextB .. | .zextH .. | .zextW .. => scalar1_formed hs ..
  | .mov .. => execMov_formed hs ..
  | .addImm .. => execAddImm_formed hs ..
  | .addImmLiteral .. => execAddImmLiteral_formed hs ..
  | .andImm .. => execAndImm_formed hs ..
  | .andImmLiteral .. => execAndImmLiteral_formed hs ..
  | .orImm .. => execOrImm_formed hs ..
  | .orImmLiteral .. => execOrImmLiteral_formed hs ..
  | .xorImm .. => execXorImm_formed hs ..
  | .xorImmLiteral .. => execXorImmLiteral_formed hs ..
  | .sllImm .. => execSllImm_formed hs ..
  | .srlImm .. => execSrlImm_formed hs ..
  | .sraImm .. => execSraImm_formed hs ..
  | .rotImm .. => execRotImm_formed hs ..
  | .li .. => execLi_formed hs ..
  | .liLiteral .. => execLiLiteral_formed hs ..
  | .cmpi .. | .cmpiLiteral .. => compareImm_formed hs ..
  | .cmp .. => execCmp_formed hs ..
  | .cmpAnd .. | .cmpOr .. => compare2_formed hs ..
  | .gnot .. => execGnot_formed hs ..
  | .gand .. => execGand_formed hs ..
  | .gor .. => execGor_formed hs ..
  | .sel .. => execSel_formed hs ..
  | .fadd .. | .fmul .. | .fdiv .. | .fmin .. | .fmax .. => float2_formed hs ..
  | .fsub .. => execFsub_formed hs ..
  | .fsqrt .. => execFsqrt_formed hs ..
  | .ffma .. | .ffmaN .. => floatFma_formed hs ..
  | .fcmp .. => execFcmp_formed hs ..
  | .fcvtF32I64 .. => execFcvtF32I64_formed hs ..
  | .fcvtF32U64 .. => execFcvtF32U64_formed hs ..
  | .fcvtI64F32 .. => execFcvtI64F32_formed hs ..
  | .fcvtU64F32 .. => execFcvtU64F32_formed hs ..
  | .fcvtBf16F32 .. => execFcvtBf16F32_formed hs ..
  | .fcvtF16F32 .. => execFcvtF16F32_formed hs ..
  | .fcvtF32Bf16 .. => execFcvtF32Bf16_formed hs ..
  | .fcvtF32F16 .. => execFcvtF32F16_formed hs ..
  | .cbnd .. => execCbnd_formed hs ..
  | .cinc .. => execCinc_formed hs ..
  | .caddr .. => capBinary_formed hs ..
  | .cperm .. => execCperm_formed hs ..
  | .ctagc .. => execCtagc_formed hs ..
  | .cgetBase .. => execCgetBase_formed hs ..
  | .cgetTop .. => execCgetTop_formed hs ..
  | .cgetLen .. => execCgetLen_formed hs ..
  | .cgetPerm .. => execCgetPerm_formed hs ..
  | .cgetTag .. => execCgetTag_formed hs ..
  | .cincImm .. => execCincImm_formed hs ..
  | .cincImmLiteral .. => execCincImmLiteral_formed hs ..
  | .cbndImm .. => execCbndImm_formed hs ..
  | .cbndImmLiteral .. => execCbndImmLiteral_formed hs ..
  | .j .. => execJ_formed hs ..
  | .call .. => execCall_formed hs ..
  | .jr .. => execJr_formed hs ..
  | .ret .. => execRet_formed hs ..
  | .bgF .. | .bgT .. => branch_formed hs ..
  | .rep .. => execRep_formed hs ..
  | .repLiteral .. => execRepLiteral_formed hs ..
  | .repReg .. => execRepReg_formed hs ..
  | .nop .. => execNop_formed hs ..
  | .trap .. => execTrap_formed hs ..
  | .suspend .. => execSuspend_formed hs ..
  | .hend .. => execHend_formed hs ..
  | .ldB .. | .ldBLiteral .. | .ldH .. | .ldHLiteral .. | .ldW .. | .ldWLiteral .. | .ldD .. | .ldDLiteral .. | .ldQ .. |
    .ldQLiteral .. | .ldc .. | .ldcLiteral .. => scalarLoad_formed hs ..
  | .stB .. | .stBLiteral .. | .stH .. | .stHLiteral .. | .stW .. | .stWLiteral .. | .stD .. | .stDLiteral .. | .stQ .. |
    .stQLiteral .. => scalarStore_formed hs ..
  | .stc .. | .stcLiteral .. => capStore_formed hs ..
  | .ldq .. => execLdq_formed hs ..
  | .ldqLiteral .. => execLdqLiteral_formed hs ..
  | .stq .. => execStq_formed hs ..
  | .stqLiteral .. => execStqLiteral_formed hs ..
  | .ldm .. => execLdm_formed hs ..
  | .stm .. => execStm_formed hs ..
  | .vld .. | .vldLiteral .. => vectorLoad_formed hs ..
  | .vst .. | .vstLiteral .. => vectorStore_formed hs ..
  | .vlds .. => execVlds_formed hs ..
  | .vldx .. => execVldx_formed hs ..
  | .vsts .. => execVsts_formed hs ..
  | .vstx .. => execVstx_formed hs ..
  | .amoAdd .. | .amoAnd .. | .amoOr .. | .amoXor .. | .amoMin .. | .amoMax .. | .amoMinu .. | .amoMaxu .. | .amoSwap .. |
    .amoCas .. | .amoFadd .. => atomic_formed hs ..
  | .fenceAcq .. => execFenceAcq_formed hs ..
  | .fenceRel .. => execFenceRel_formed hs ..
  | .fenceAr .. => execFenceAr_formed hs ..
  | .afence .. => execAfence_formed hs ..
  | .pfx .. => execPfx_formed hs ..
  | .touch .. | .touchW .. => touchPage_formed hs ..
  | .bar .. => execBar_formed hs ..
  | .get .. | .give .. => moveData_formed hs ..
  | .vaddInt .. => execVaddInt_formed hs ..
  | .vsubInt .. => execVsubInt_formed hs ..
  | .vmulInt .. => execVmulInt_formed hs ..
  | .vminInt .. | .vmaxInt .. => vectorInt_formed hs ..
  | .vand .. => execVand_formed hs ..
  | .vor .. => execVor_formed hs ..
  | .vxor .. => execVxor_formed hs ..
  | .vshl .. => execVshl_formed hs ..
  | .vshr .. => execVshr_formed hs ..
  | .vshrA .. => execVshrA_formed hs ..
  | .vaddF32 .. | .vmulF32 .. | .vminF32 .. | .vmaxF32 .. | .vaddF16 .. | .vmulF16 .. | .vminF16 .. | .vmaxF16 .. |
    .vaddBf16 .. | .vmulBf16 .. | .vminBf16 .. | .vmaxBf16 .. => vectorFloat_formed hs ..
  | .vsubF32 .. => execVsubF32_formed hs ..
  | .vfmaF32 .. | .vfmaF16 .. | .vfmaBf16 .. => vectorFma_formed hs ..
  | .vsubF16 .. => execVsubF16_formed hs ..
  | .vsubBf16 .. => execVsubBf16_formed hs ..
  | .vcmp .. => execVcmp_formed hs ..
  | .vsel .. => execVsel_formed hs ..
  | .vperm .. => execVperm_formed hs ..
  | .vmerge .. => execVmerge_formed hs ..
  | .vcomp .. => execVcomp_formed hs ..
  | .vexpd .. => execVexpd_formed hs ..
  | .vbcast .. => execVbcast_formed hs ..
  | .vrnd .. => execVrnd_formed hs ..
  | .vrndf .. => draw_formed hs ..
  | .nrns .. => execNrns_formed hs ..
  | .spkout .. => execSpkout_formed hs ..
  | .vbsum .. => execVbsum_formed hs ..
  | .bsadd .. => execBsadd_formed hs ..
  | .movVc .. => execMovVc_formed hs ..
  | .movCv .. => execMovCv_formed hs ..
  | .movMc .. => execMovMc_formed hs ..
  | .movCm .. => execMovCm_formed hs ..
  | .vred .. => execVred_formed hs ..
  | .vscan .. => execVscan_formed hs ..
  | .vsqrt .. | .vexp2 .. | .vlog2 .. | .vrcp .. => longUnary_formed hs ..
  | .vdivF32 .. | .vdivF16 .. => longDiv_formed hs ..
  | .vcvt .. => execVcvt_formed hs ..
  | .trd .. => execTrd_formed hs ..
  | .twr .. => execTwr_formed hs ..
  | .tzero .. => execTzero_formed hs ..
  | .ttrans .. => execTtrans_formed hs ..
  | .tclaim .. => execTclaim_formed hs ..
  | .tfree .. => execTfree_formed hs ..
  | .pld .. => execPld_formed hs ..
  | .pst .. => execPst_formed hs ..
  | .plupd .. => execPlupd_formed hs ..
  | .plaxpy .. => execPlaxpy_formed hs ..
  | .plhdr .. => execPlhdr_formed hs ..
  | .mlease .. => execMlease_formed hs ..
  | .mfree .. => execMfree_formed hs ..
  | .mgeo .. => execMgeo_formed hs ..
  | .mgeor .. => execMgeor_formed hs ..
  | .mstat .. => execMstat_formed hs ..
  | .mzero .. => execMzero_formed hs ..
  | .mldb .. | .mgath .. => fillInstr_formed hs ..
  | .mrd .. => execMrd_formed hs ..
  | .mma .. | .mmaSet .. | .mmaSub .. | .mrun .. | .mrunSet .. | .mrunSub .. => matrixCmd_formed hs ..
  | .send .. | .sendi .. => sendMsg_formed hs ..
  | .wmark .. => execWmark_formed hs ..
  | .waitch .. => execWaitch_formed hs ..
  | .hmask .. => execHmask_formed hs ..
  | .hset .. => execHset_formed hs ..
  | .chcap .. => execChcap_formed hs ..
  | .wincfg .. => execWincfg_formed hs ..
  | .winclose .. => execWinclose_formed hs ..
  | .dkcfg .. => execDkcfg_formed hs ..
  | .dkflush .. => execDkflush_formed hs ..
  | .dkstat .. => execDkstat_formed hs ..
  | .xcopy .. => execXcopy_formed hs ..
  | .xresume .. => execXresume_formed hs ..
  | .xgeo .. => execXgeo_formed hs ..
  | .ttest .. => execTtest_formed hs ..
  | .twait .. => execTwait_formed hs ..
  | .spawn .. => execSpawn_formed hs ..
  | .done .. => execDone_formed hs ..
  | .doneJ .. => execDoneJ_formed hs ..
  | .launch .. => execLaunch_formed hs ..
  | .yield .. => execYield_formed hs ..
  | .tspawn .. => execTspawn_formed hs ..
  | .tdone .. => execTdone_formed hs ..
  | .tabort .. => execTabort_formed hs ..
  | .tfront .. => execTfront_formed hs ..
  | .twaitc .. => execTwaitc_formed hs ..
  | .xacq .. => execXacq_formed hs ..
  | .xadd .. => execXadd_formed hs ..
  | .xrd .. => execXrd_formed hs ..
  | .xrel .. => execXrel_formed hs ..
  | .pwalk .. => execPwalk_formed hs ..
  | .pfcfg .. => execPfcfg_formed hs ..
  | .pfstop .. => execPfstop_formed hs ..
  | .sysrd .. => execSysrd_formed hs ..
  | .syswr .. => execSyswr_formed hs ..
  | .uret .. => execUret_formed hs ..
  | .tret .. => execTret_formed hs ..
  | .tlbi .. => execTlbi_formed hs ..
  | .snap .. => execSnap_formed hs ..
  | .freeze .. => execFreeze_formed hs ..
  | .resumef .. => execResumef_formed hs ..

/-! ### Prefetch kernels (13 R271, R272) -/

/-- What a kernel runs is an instruction, and no kernel. -/
theorem kernelInstr_run {i : Instr} {cs : List (Fin 64)} {f : State → Out} (h : kernelInstr i = some (.run cs f)) :
    (∀ c, i ≠ .prefetchKernel c) ∧ f = exec i := by
  unfold kernelInstr at h
  split at h
  case h_73 | h_74 | h_75 | h_76 | h_77 | h_78 | h_79 | h_80 => split at h <;> cases h
  all_goals cases h
  all_goals exact ⟨fun _ => nofun, rfl⟩

theorem kernelInstr_formed (i : Instr) : ∀ a ∈ kernelInstr i, a.Formed := by
  intro a ha
  cases a with
  | run cs f =>
    obtain ⟨hi, rfl⟩ := kernelInstr_run ha
    exact fun s hs => exec_formed_of_ne hs _ hi
  | load | pfx | hend => trivial

theorem kernelAct_formed (w lit) : ∀ a ∈ kernelAct w lit, a.Formed := by
  intro a ha
  unfold kernelAct at ha
  grind [kernelInstr_formed, KAct.Formed]

theorem kernelAfter_formed (hs : s.Formed) {o : Out} (ho : Out.Formed o) : (kernelAfter s o).Formed := by
  unfold kernelAfter
  grind [KNext.Formed, Out.Formed]

theorem kernelStep_formed (hs : s.Formed) (t) : (s.kernelStep t).Formed := by
  unfold State.kernelStep
  split
  · exact hs
  next w lit len t ht =>
    have hf : t.Formed := (fetchInstr_formed hs ..).ok ht
    dsimp only
    split
    · exact hf
    split
    · exact kernelAfter_formed hf (issue_formed hf _ _ hf)
    split
    · exact hf
    next hk =>
      split
      · exact hf
      · exact kernelAfter_formed hf (kernelAct_formed w lit _ hk _ hf)
    · grind [kernelAfter_formed, kernelLoad_formed, KNext.Formed]
    · grind [kernelAfter_formed, kernelPfx_formed, KNext.Formed]
    · exact hf

theorem kernelRun_formed (hs : s.Formed) (t n) : (State.kernelRun t n s).Formed := by
  induction n generalizing s with
  | zero => exact hs
  | succ n ih =>
    have h := kernelStep_formed hs t
    unfold State.kernelRun
    grind [KNext.Formed]

theorem execPrefetchKernel_formed (hs : s.Formed) (c) : (execPrefetchKernel c s).Formed := by
  unfold execPrefetchKernel
  split
  · exact hs
  next t ts _ =>
    extract_lets u more
    have hu : u.Formed := formed_of_stored (stored_updCore ..) hs
    have hmore : ∀ t, t.Formed → Out.Formed (.next (more t)) := fun t h => by
      dsimp only [more]
      split
      · exact h
      · exact formed_of_stored (stored_postOnce ..) h
    clear_value u more
    split
    · exact hmore _ hu
    next e _ =>
      have hset : ∀ (t : State) y x, t.Formed → ({ t.setStrand c 0 y with cur := x } : State).Formed := fun t y _ h =>
        formed_of_stored (t := t.setStrand c 0 y) (stored_setStrand ..) h
      have hr := kernelRun_formed (hset _ (kernelStrand e t) (c, 0) (pfCount_formed hu c 0)) t 256
      dsimp only
      split
      next h => rw [h] at hr; exact hmore _ (pfCount_formed (hset _ _ _ hr) ..)
      next h => rw [h] at hr; exact hmore _ (hset _ _ _ hr)
      next h => rw [h] at hr; exact hmore _ (hset _ _ _ hr)

theorem exec_formed (hs : s.Formed) (i : Instr) : Out.Formed (exec i s) := by
  by_cases hi : ∀ c, i ≠ .prefetchKernel c
  · exact exec_formed_of_ne hs _ hi
  · push Not at hi
    obtain ⟨c, rfl⟩ := hi
    exact execPrefetchKernel_formed hs c

/-! ### A step -/

theorem runWord_formed (hs : s.Formed) (w lit) : ∀ o ∈ runWord w lit s, Out.Formed o := by
  intro o ho
  unfold runWord at ho
  split at ho
  · cases ho
    exact exec_formed hs _
  · cases ho

theorem elapse_formed (hs : s.Formed) (n) : (s.elapse n).Formed := hs

theorem tick_formed (hs : s.Formed) (c) : (s.tick c).Formed := by
  unfold State.tick
  grind [elapse_formed]

theorem strandNext_formed (hs : s.Formed) : ∀ r ∈ s.strandNext, r.2.2.Formed := by
  rintro ⟨c, k, t⟩ ht
  simp only [State.strandNext] at ht
  split at ht
  · cases ht
    exact formed_of_stored (stored_updCore ..) hs
  · obtain ⟨p, -, hp⟩ := Option.map_eq_some_iff.mp ht
    cases hp
    exact tick_formed (formed_of_stored ((stored_updCore ..).trans (stored_updCore ..)) hs) _

theorem turn_formed (hs : s.Formed) : s.turn.2.Formed := by
  unfold State.turn
  split
  · refine tick_formed ?_ _
    exact hs
  · exact hs
  split
  · exact hs
  split
  next h => exact strandNext_formed hs _ h
  · split <;> exact hs

theorem strandTurn_formed (hs : s.Formed) (c k) : Out.Formed (strandTurn runWord c k s) := by
  unfold strandTurn
  extract_lets u t x
  have ht : t.Formed := formed_of_stored (t := u) (stored_updStrand ..) hs
  have hset : ∀ y, Out.Formed (.next (t.setMe y)) := fun _ => setMe_formed ht _
  split
  · exact ht
  split
  · exact hset _
  split
  · exact hset _
  split
  · exact hset _
  split
  · exact exec_formed ht _
  have hm := settleMe_formed ht
  split
  · exact hset _
  · exact exec_formed ht _
  next h =>
    rw [h] at hm
    exact takeTrap_formed hm ..
  next v h =>
    rw [h] at hm
    have hv : v.Formed := hm
    split
    · exact exec_formed hv _
    next h =>
      have hw := (fetchInstr_formed hv ..).ok h
      split
      next h => exact runWord_formed hw _ _ _ h
      · exact exec_formed hw _

theorem stepBy_formed (hs : s.Formed) : Out.Formed (stepBy runWord s) := by
  have ht := turn_formed hs
  unfold stepBy
  generalize s.turn = p at ht
  obtain ⟨turn, t⟩ := p
  have ht : t.Formed := ht
  cases turn with
  | strand c k => exact strandTurn_formed ht ..
  | event i => exact exec_formed ht i
  | time n => exact elapse_formed ht n
  | flip w =>
    obtain ⟨hm, htags, hp⟩ := formed_iff.mp ht
    exact formed_iff.mpr ⟨hm, htags, rising_setIn _ hp⟩
  | corrected c => exact formed_of_stored (stored_updCore ..) ht
  | overflow => exact formed_of_stored (stored_trigger ..) ht
  | canStart c => exact ht
  | restart c => exact restartCore_formed ht c
  | image img => exact loadImage_formed ht img
  | inbound i first bytes => exact ht
  | pcieRead addr n => exact pcieRead_formed ht ..
  | peerRead asid va n => exact peerServe_formed ht ..
  | peerWrite asid va bytes => exact peerServe_formed ht ..

end

/-- Settles O56: the step's outcome is formed, whatever acts in its turn. -/
theorem stepsKeepTheFormOfMemory : Obligations.StepsKeepTheFormOfMemory := by
  unfold Obligations.StepsKeepTheFormOfMemory
  intro s t hs ht
  have h : Out.Formed (step s) := stepBy_formed hs
  rw [ht] at h
  exact h

end Sys2Proof.Machine
end

section
/-! PROOF. Floating-point lanes of v registers (05 R123, R125, R128). -/

namespace Sys2Proof.Machine

section
variable {s : State} {g m : Fin 8} {d a b : Fin 32} {u v q : VReg} {x y t z : Strand} {f : Fmt}

/-- The lanes that a floating-point operation leaves in `old` under mask `m`, and their flags: a masked-off lane stays and
raises none (05 R123, R125). -/
def floatLanes (f : Fmt) (m : Quad) (old : VReg) (lane : Nat → FVal × Nat) : List (Nat × Nat) :=
  (List.range (1024 / f.bits)).map (fun i =>
    if m.getLsbD i then finish f (lane i) else ((old.extractLsb' (f.bits * i) f.bits).toNat, 0))

/-- The value of lane `i` of a register in format `f`. -/
def laneVal (f : Fmt) (v : VReg) (i : Nat) : FVal := (f.decode (v.extractLsb' (f.bits * i) f.bits).toNat).1

theorem vectorFloat_of {op : FVal → FVal → FVal × Nat} (hg : s.me.guard g = true) (ha : s.me.sourceV a = some (u, x))
    (hb : x.sourceV b = some (v, y)) (r : List (Nat × Nat))
    (hr : floatLanes f (y.mask m) (y.keeps d) (fun i => op (laneVal f u i) (laneVal f v i)) = r)
    (hz : (y.flagged (flags (r.map (·.2)))).resultV d (vOfLanes f.bits (r.map (·.1))) = some z) :
    vectorFloat f g d a b m op s = .next (s.passed 4 z) := by
  subst hr
  exact vector2_of hg ha hb hz

/-- `vfma` reads vd last, and its masked-off lanes keep what was read (05 R124, R128). -/
theorem vectorFma_of (hg : s.me.guard g = true) (ha : s.me.sourceV a = some (u, x)) (hb : x.sourceV b = some (v, y))
    (hd : y.sourceV d = some (q, t)) (r : List (Nat × Nat))
    (hr : floatLanes f (t.mask m) q (fun i => fFma (laneVal f q i) (laneVal f u i) (laneVal f v i)) = r)
    (hz : (t.flagged (flags (r.map (·.2)))).resultV d (vOfLanes f.bits (r.map (·.1))) = some z) :
    vectorFma f g d a b m s = .next (s.passed 4 z) := by
  subst hr
  refine issue_me hg ?_
  simp only [useV_of_sourceV ha, useV_setMe hb, useV_setMe hd, bind, Except.bind, me_setMe, lanesOf_eq, zip_range_map,
    List.map_map, Function.comp_def, masked_range, raise_setMe, setMe_setMe]
  simp only [floatLanes, laneVal, List.map_map, Function.comp_def] at hz
  exact putV_setMe hz

end

/-- Settles O13: each instruction is one operation in one format, or `vfma` in one format. -/
theorem vectorFloatResults : Obligations.VectorFloatResults := by
  intro s g m d a b u v q x y t hg ha hb gives at'
  refine ⟨?_, fun hd => ?_⟩
  · refine forall_mem_of_imp (fun p =>
      exec (p.2.1 g d a b m) s = vectorFloat p.1 g d a b m fAdd s ∧
      exec (p.2.2.1 g d a b m) s = vectorFloat p.1 g d a b m (fun m n => fAdd m n.negate) s ∧
      exec (p.2.2.2.1 g d a b m) s = vectorFloat p.1 g d a b m fMul s ∧
      exec (p.2.2.2.2.1 g d a b m) s = vectorFloat p.1 g d a b m (fMinMax false) s ∧
      exec (p.2.2.2.2.2 g d a b m) s = vectorFloat p.1 g d a b m (fMinMax true) s) ?_ ?_
    · simp only [List.forall_mem_cons]
      exact ⟨⟨rfl, rfl, rfl, rfl, rfl⟩, ⟨rfl, rfl, rfl, rfl, rfl⟩, ⟨rfl, rfl, rfl, rfl, rfl⟩, by simp⟩
    · rintro p ⟨hadd, hsub, hmul, hmin, hmax⟩
      exact ⟨fun z hz => hadd.trans (vectorFloat_of hg ha hb _ rfl hz), fun z hz => hsub.trans (vectorFloat_of hg ha hb _ rfl hz),
        fun z hz => hmul.trans (vectorFloat_of hg ha hb _ rfl hz), fun z hz => hmin.trans (vectorFloat_of hg ha hb _ rfl hz),
        fun z hz => hmax.trans (vectorFloat_of hg ha hb _ rfl hz)⟩
  · refine forall_mem_of_imp (fun p => exec p.2 s = vectorFma p.1 g d a b m s) ?_ ?_
    · simp only [List.forall_mem_cons]
      exact ⟨rfl, rfl, rfl, by simp⟩
    · intro p he z hz
      exact he.trans (vectorFma_of hg ha hb hd _ rfl hz)

end Sys2Proof.Machine
end

section
/-! PROOF. Lanes compared, selected, moved, merged and summed (05 R131-R134, R141, R142, R144). -/

namespace Sys2Proof.Machine

section
variable {s : State} {g h m k : Fin 8} {d a b n : Fin 32} {e f : Fin 64} {u v : VReg} {c : CVal} {x y z z1 z2 : Strand}

/-! ### Compares and lane moves (R131-R133) -/

/-- What `vcmp` finds lane by lane under mask `m`, and the flags. -/
def compareLanes (t o : Nat) (m : Quad) (u v : VReg) : List (Bool × Nat) :=
  ((lanesOf 32 u).zip (lanesOf 32 v)).zipIdx.map (fun p => if m.getLsbD p.2 then vcond t o p.1.1 p.1.2 else (false, 0))

/-- m0 as destination discards result and flags (R131). -/
theorem vcmp_of {t : Fin 2} {o : Fin 8} (hg : s.me.guard g = true) (ha : s.me.sourceV a = some (u, x))
    (hb : x.sourceV b = some (v, y)) :
    exec (.vcmp g h a b m t o) s = .next (s.passed 4 (if h = 0 then y else
      (y.flagged (flags ((compareLanes t.val o.val (y.mask m) u v).map (·.2)))).withMask h
        (BitVec.ofNat 128 (ofBits ((compareLanes t.val o.val (y.mask m) u v).map (·.1)))))) := by
  refine exec_vcmp.trans (issue_me hg ?_)
  simp only [useV_of_sourceV ha, useV_setMe hb, bind, Except.bind, pure, Except.pure, me_setMe, raise_setMe, setMe_setMe, putM_eq]
  by_cases h0 : h = 0
  · rw [if_pos h0, if_pos h0]
  · rw [if_neg h0, if_neg h0]
    rfl

theorem vsel_of (hg : s.me.guard g = true) (ha : s.me.sourceV a = some (u, x)) (hb : x.sourceV b = some (v, y))
    (hz : y.resultV d (ofLanes32 (fun i => if (y.mask m).getLsbD i then lane32 u i else lane32 v i)) = some z) :
    exec (.vsel g d a b m) s = .next (s.passed 4 z) := by
  refine exec_vsel.trans (issue_me hg ?_)
  simp only [useV_of_sourceV ha, useV_setMe hb, bind, Except.bind, me_setMe]
  exact putV_setMe hz

theorem vperm_of (hg : s.me.guard g = true) (ha : s.me.sourceV a = some (u, x)) (hb : x.sourceV b = some (v, y))
    (hz : y.resultV d (ofLanes32 (fun i => if (y.mask m).getLsbD i then
      (if (lane32 v i).toNat < 32 then lane32 u (lane32 v i).toNat else 0) else lane32 (y.keeps d) i)) = some z) :
    exec (.vperm g d a b m) s = .next (s.passed 4 z) := by
  refine exec_vperm.trans (issue_me hg ?_)
  simp only [useV_of_sourceV ha, useV_setMe hb, bind, Except.bind, me_setMe, keepLanes_eq]
  exact putV_setMe hz

theorem vcomp_of (hg : s.me.guard g = true) (ha : s.me.sourceV a = some (u, x))
    (hz : x.resultV d (ofLanes32 (fun i => (((onLanes (x.mask m)).map (lane32 u))[i]?).getD 0)) = some z) :
    exec (.vcomp g d a m) s = .next (s.passed 4 z) := by
  refine exec_vcomp.trans (issue_me hg ?_)
  simp only [useV_of_sourceV ha, bind, Except.bind, me_setMe]
  exact putV_setMe hz

/-- Lane `i` of what `vexpd` leaves: the next lane of `u` where the mask is on, else the old lane. -/
def expandLane (m : Quad) (u old : VReg) (i : Nat) : Word :=
  match (onLanes m).findIdx? (· == i) with
  | some j => lane32 u j
  | none => lane32 old i

theorem vexpd_of (hg : s.me.guard g = true) (ha : s.me.sourceV a = some (u, x))
    (hz : x.resultV d (ofLanes32 (expandLane (x.mask m) u (x.keeps d))) = some z) :
    exec (.vexpd g d a m) s = .next (s.passed 4 z) := by
  refine exec_vexpd.trans (issue_me hg ?_)
  simp only [useV_of_sourceV ha, bind, Except.bind, me_setMe, keepLanes_eq]
  exact putV_setMe hz

/-! ### Merges (R134) -/

/-- An option bit of `vmerge`. -/
theorem option_eq (o : Fin 8) (i : Nat) : (fld o.val i 1 == 1) = o.val.testBit i := by
  rw [fld, Nat.testBit_eq_decide_div_mod_eq, Nat.pow_one]
  rfl

/-- The indices go to vd and the values to the register after it. -/
theorem vmerge_of {o : Fin 8} (r : List (Word × Word) × Nat) (hg : s.me.guard g = true) (ha : s.me.sourceV a = some (u, x))
    (hb : x.sourceV b = some (v, y))
    (hr : mergeWalk (o.val.testBit 1) (o.val.testBit 0) (o.val.testBit 2) u v 33 0 0 = r)
    (h1 : (y.flagged r.2).resultV d (ofLanes32 (fun i => ((r.1[i]?).map (·.1)).getD (BitVec.allOnes 32))) = some z1)
    (h2 : z1.resultV (Fin.ofNat 32 (d.val + 1)) (ofLanes32 (fun i => ((r.1[i]?).map (·.2)).getD 0)) = some z2) :
    exec (.vmerge g d a b o) s = .next (s.passed 4 z2) := by
  refine exec_vmerge.trans (issue_me hg ?_)
  simp only [useV_of_sourceV ha, useV_setMe hb, bind, Except.bind, option_eq, hr, listEnd, raise_setMe, me_setMe, setMe_setMe,
    putV_setMe h1]
  exact putV_setMe h2

/-! ### Broadcast and moves between register files (R141, R142) -/

theorem vbcast_of (hg : s.me.guard g = true) (he : s.me.source e = some (c, x))
    (hz : x.resultV d (ofLanes32 (fun i => if (x.mask m).getLsbD i then c.addr.setWidth 32 else lane32 (x.keeps d) i)) = some z) :
    exec (.vbcast g d e m) s = .next (s.passed 4 z) := by
  refine exec_vbcast.trans (issue_me hg ?_)
  simp only [useX_of_source he, bind, Except.bind, me_setMe, keepLanes_eq]
  exact putV_setMe hz

theorem movMc_of (hg : s.me.guard g = true) (he : s.me.source e = some (c, x)) :
    exec (.movMc g h e) s = .next (s.passed 4 (x.withMask h c.val)) := by
  refine exec_movMc.trans (issue_me hg ?_)
  simp only [useC_of_source he, bind, Except.bind, pure, Except.pure, putM_eq, me_setMe, setMe_setMe]

theorem movVc_of (hg : s.me.guard g = true) (he : s.me.source e = some (c, x)) (hd : d.val < 30)
    (hz : x.resultV d ((rd x.v d &&& ~~~((BitVec.allOnes 128).setWidth 1024 <<< (128 * k.val))) |||
      (c.val.setWidth 1024 <<< (128 * k.val))) = some z) : exec (.movVc g d e k) s = .next (s.passed 4 z) := by
  refine exec_movVc.trans (issue_me hg ?_)
  simp only [need_true (decide_eq_true hd), useC_of_source he, bind, Except.bind, me_setMe]
  exact putV_setMe hz

theorem movCv_of (hg : s.me.guard g = true) (ha : a.val < 30)
    (hz : s.me.result e (.plain ((rd s.me.v a >>> (128 * k.val)).setWidth 128)) = some z) :
    exec (.movCv g a e k) s = .next (s.passed 4 z) := by
  refine exec_movCv.trans (issue_me hg ?_)
  simp only [need_true (decide_eq_true ha), bind, Except.bind]
  exact putC_of_result hz

theorem movCm_of (hg : s.me.guard g = true) (hz : s.me.result e (.plain (s.me.mask h)) = some z) :
    exec (.movCm g h e) s = .next (s.passed 4 z) := exec_movCm.trans (issue_me hg (putC_of_result hz))

/-! ### Block sums (R144; 02 R59, R60) -/

/-- The values of the unmasked lanes of a register. -/
def onValues (f : Fmt) (m : Quad) (u : VReg) : List FVal :=
  ((lanesOf f.bits u).zipIdx.filter (fun p => m.getLsbD p.2)).map (fun p => (f.decode p.1).1)

theorem vbsum_of (hg : s.me.guard g = true) (ha : s.me.sourceV a = some (u, x))
    (hz : x.result e (.plain (blockSum (onValues (bsumFmt n.val) (x.mask m) u))) = some z) :
    exec (.vbsum g n a e m) s = .next (s.passed 4 z) := by
  refine exec_vbsum.trans (issue_me hg ?_)
  simp only [useV_of_sourceV ha, bind, Except.bind, me_setMe]
  exact putC_setMe hz

/-- A running pair stands in a register, not at a port. -/
theorem bsadd_of (r : Quad × Nat) (hg : s.me.guard g = true) (hf : f.val < 60)
    (hr : blockAdd (s.me.creg f).val (s.me.creg (Fin.ofNat 64 n.val)).val = r)
    (hz : (s.me.flagged r.2).result f (.plain r.1) = some z) : exec (.bsadd g n f) s = .next (s.passed 4 z) := by
  refine exec_bsadd.trans (issue_me hg ?_)
  simp only [need_true (decide_eq_true hf), bind, Except.bind, hr, raise_setMe]
  exact putC_setMe hz

end

/-- Settles O14. -/
theorem vectorSelectionResults : Obligations.VectorSelectionResults := by
  intro s g h m o k t d a b n e f u v c x y hg lanes
  refine ⟨fun ha => ⟨fun z => vcomp_of hg ha, fun z => vexpd_of hg ha, fun z => vbsum_of hg ha, fun hb =>
      ⟨vcmp_of hg ha hb, fun z => vsel_of hg ha hb, fun z => vperm_of hg ha hb, fun z1 z2 => vmerge_of _ hg ha hb rfl⟩⟩,
    fun he => ⟨fun z => vbcast_of hg he, movMc_of hg he, fun hd z => movVc_of hg he hd⟩,
    fun ha z => movCv_of hg ha, fun z => movCm_of hg, fun hf z => bsadd_of _ hg hf rfl⟩

end Sys2Proof.Machine
end

section
/-! PROOF. Messages of cores: `send`, `sendi`, `spkout`, and how a message lands on its channel (05 R147; 07 R178, R179, R183;
09 R209, R218, R219, R221; 14 R289-R291). -/

namespace Sys2Proof.Machine

/-! ### Sending (07 R178, R179) -/

section
variable {s s1 s2 : State} {g m : Fin 8} {a b : Fin 64} {h t : CVal} {x y : Strand}

/-- Nothing holds a release of the running strand back (18 R324, R327). -/
theorem orderLoads_ok (h : s.me.loadsPending = false) : s.orderLoads = .ok () := by
  simp only [State.orderLoads, h, Bool.false_eq_true, if_false]

theorem orderStores_ok (h : s.postsDone = true) : s.orderStores = .ok () := by
  simp only [State.orderStores, h, if_true]

/-- Outside speculation nothing is deferred. -/
theorem deferRoomFor_ok (h : s.specOf s.me = none) (n : Nat) : s.deferRoomFor n = .ok () := by
  simp only [State.deferRoomFor, h]

/-- A message of a strand outside speculation leaves at once, and the strand waits for its acceptance. -/
theorem sendMine_sent (hspec : (s.setMe y).specOf y = none) (dest : CoreId) (q : Quad) (ws : List Word) (k : BitVec 2) :
    (s.setMe y).sendMine dest q ws k =
      (s.setMe { y with sendWait := y.sendWait + 1 }).sendFrom s.cur.1 dest q ws k (some (.strand y.work.wid)) := by
  simp only [State.sendMine, me_setMe, hspec, updMe_eq, setMe_setMe]
  rfl

/-- What 07 R178 asks of a target word. -/
theorem targetOk_of {q : Quad} {inline : Bool} (hdest : qf q 0 16 ≤ 383) (hlen : qf q 16 6 ≤ 60)
    (hcode : inline = true → qf q 16 6 ≠ 0) (htype : qf q 22 2 ≠ 3) (hrest : qf q 24 104 = 0) : targetOk q inline = true := by
  cases inline <;> simp_all [targetOk]

theorem sendMsg_of {inline : Bool} (hg : s.me.guard g = true) (ha : s.me.source a = some (h, x)) (hb : x.source b = some (t, y))
    (hloads : y.loadsPending = false) (hposts : (s.setMe y).postsDone = true) (hspec : (s.setMe y).specOf y = none)
    (htarget : targetOk t.val inline = true) (hkind : qf h.val 22 2 = 0) (h17 : h.val.getLsbD 17 = false)
    (h18 : h.val.getLsbD 18 = false) (h19 : h.val.getLsbD 19 = false) (h21 : h.val.getLsbD 21 = false)
    (hchan : 4 ≤ qf h.val 26 6 ∨ s.me.pcc.has .sys = true) (hlen : qf t.val 16 6 ≤ y.outbox.length) :
    sendMsg inline g a b s = .next (s.passedTo 4
      ((s.setMe { y with outbox := y.outbox.drop (qf t.val 16 6), sendWait := y.sendWait + 1 }).sendFrom s.cur.1
        (Fin.ofNat 384 (qf t.val 0 16)) (messageAep h.val s.cur.1 s.now inline) (y.outbox.take (qf t.val 16 6))
        (BitVec.ofNat 2 (qf t.val 22 2)) (some (.strand s.me.work.wid)))) := by
  refine issue_ok hg ?_
  have hheader : (qf h.val 22 2 == 0 && !h.val.getLsbD fLate && !h.val.getLsbD fOverflow && !h.val.getLsbD fCompressed &&
      !h.val.getLsbD fReset) = true := by
    simp only [hkind, fLate, h17, fOverflow, h18, fCompressed, h19, fReset, h21]
    rfl
  have hmay : (decide (4 ≤ qf h.val 26 6) || (s.setMe y).mySys) = true := by
    rw [State.mySys, me_setMe, source_pcc hb, source_pcc ha]
    simpa using hchan
  have hwork : y.work = s.me.work := (source_work hb).trans (source_work ha)
  have hsent : (s.setMe { y with outbox := y.outbox.drop (qf t.val 16 6) }).specOf
      { y with outbox := y.outbox.drop (qf t.val 16 6) } = none := hspec
  simp only [useC_of_source ha, useC_setMe hb, need_true htarget, need_true hheader, need_true hmay, me_setMe,
    need_true (decide_eq_true hlen), orderLoads_ok (s := s.setMe y) (by rw [me_setMe]; exact hloads), orderStores_ok hposts,
    State.deferRoom, deferRoomFor_ok (s := s.setMe y) (by rw [me_setMe]; exact hspec), bind, Except.bind, pure, Except.pure,
    updMe_eq, setMe_setMe]
  rw [← hwork]
  exact congrArg Except.ok (sendMine_sent hsent ..)

/-! ### Events to a fanout table (05 R147) -/

theorem fanoutOk_of {e : Nat} (h : fld e 0 16 ≤ 383 ∧ 4 ≤ fld e 16 6 ∧ fld e 24 40 = 0) : fanoutOk e = true := by
  simp [fanoutOk, h]

/-- The event of entry `e` of a fanout table, with `addr` and the spikes as its ADDR and VAL. -/
def State.sendSpikes (ts addr spikes : Word) (s : State) (e : Nat) : State :=
  s.sendMine (Fin.ofNat 384 (fld e 0 16))
    (mkAep (fld e 16 6) 2 (0x8000 + s.cur.1.val) (if fld e 23 1 = 1 then 2 ^ 20 else 0) ts addr spikes) [] 0

theorem spkout_of {v : Fin 32} {hd bs : List RByte} (w n : Nat) (table : List Nat) (hg : s.me.guard g = true)
    (ha : s.me.source (Fin.ofNat 64 v.val) = some (h, x)) (hb : x.source b = some (t, y)) (hmay : s.mayAccess t [.ld] t.addr 8 8)
    (hhead : (s.setMe y).load s.cur.1 s.cur.2 s.nextId (t.has .local) t.addr 8 = .ok (hd, s1))
    (hw : ofBytes (hd.map (fun (r : RByte) => r.1)) = w) (hn : fld w 0 16 = n)
    (htable : fanout (bs.map (fun (r : RByte) => r.1)) n = table) (hpos : 0 < n) (hmax : n ≤ 64)
    (hbounds : t.inBounds (t.addr + 8).toNat (8 * n) = true)
    (hload : s1.load s1.cur.1 s1.cur.2 s1.nextId (t.has .local) (t.addr + 8) (8 * n) = .ok (bs, s2))
    (hok : ∀ e ∈ table, fld e 0 16 ≤ 383 ∧ 4 ≤ fld e 16 6 ∧ fld e 24 40 = 0) (hloads : s2.me.loadsPending = false)
    (hposts : s2.postsDone = true) (hspec : s2.specOf s2.me = none) :
    exec (.spkout g v b m) s = .next (s.passedTo 4
      ((table.filter (fun e => !(fld e 22 1 == 1 && (s2.me.mask m).setWidth 32 == (0 : Word)))).foldl (State.sendSpikes s2.now
        (BitVec.ofNat 32 (fld h.addr.toNat 0 16 * 2 ^ 16 + fld w 16 16)) ((s2.me.mask m).setWidth 32)) s2)) := by
  refine exec_spkout.trans (issue_ok hg ?_)
  have hmay' : (s.setMe y).mayAccess t [.ld] t.addr 8 8 := hmay
  have hentries : table.all fanoutOk = true := List.all_eq_true.mpr fun e he => fanoutOk_of (hok e he)
  have hinside : ¬ (n ≠ 0 ∧ (!t.inBounds (t.addr + 8).toNat (8 * n)) = true) := by
    rw [hbounds]
    simp
  have hhead' : (s.setMe y).load (s.setMe y).cur.1 (s.setMe y).cur.2 (s.setMe y).nextId (t.has .local) t.addr 8 = .ok (hd, s1) :=
    hhead
  simp only [useX_of_source ha, useC_setMe hb, checkAccess_ok hmay', hhead', hw, hn, need_true (decide_eq_true hmax),
    hinside, if_false, Nat.pos_iff_ne_zero.mp hpos, hload, htable, need_true hentries, orderLoads_ok hloads, orderStores_ok hposts,
    deferRoomFor_ok hspec, bind, Except.bind, pure, Except.pure]
  rfl

end

/-! ### A message of a core lands on its channel (07 R183; 09 R218; 14 R289-R291) -/

/-- Whether a program's message is parked in its channel: one bound to a window, for a DET channel or message. -/
def Chan.parks (e : Chan) (a : Quad) : Bool := e.win.isSome && (e.det || a.getLsbD 20)

/-- Whether a channel counts programs' messages against its capacity. -/
def Chan.counts (e : Chan) (ch : Fin 64) : Bool := decide (4 ≤ ch.val) && e.cap != 0

/-- A message counted against its channel's capacity, where the channel counts. -/
def State.countIn (s : State) (c : CoreId) (ch : Fin 64) : State :=
  if (rd (s.core c).chan ch).counts ch then
    s.updCore c (fun (x : Core) => { x with capN := wr x.capN ch (rd x.capN ch + 1) })
  else s

section
variable {s : State} {c p : CoreId} {m : Msg} {ws : List Word} {e : Chan} {ch : Fin 64}

/-- What a core's message that is no event, and not late, meets: it is tried against enabling, capacity and room, in this
order. -/
theorem deliver_core (hsender : m.sender = .core p) (hwaiter : m.waiter ≠ some .discarded) (hlate : s.lateBy c m.aep = none)
    (hkind : aepKind m.aep = 2) (hch : aepChan m.aep = ch) (he : rd (s.core c).chan ch = e) :
    s.deliver c m ws false false =
      if e.code.tag = false ∨ m.aep.getLsbD 16 = true ∧ e.inlok = false then .accepted (s.countDrop c ch (m.aep.getLsbD 16))
      else if e.counts ch = true ∧ (!e.parks m.aep) = true ∧ e.cap ≤ rd (s.core c).capN ch then
        .accepted (s.overflowMsg c ch m.aep ws m.wtype)
      else if (s.core c).poolRoom ch = false ∨ (s.core c).quotaRoom ch = false then .refused s m.aep true false
      else .accepted ((s.countIn c ch).enqueue c ch m.aep ws m.wtype m.seq (e.parks m.aep)) := by
  subst hch he
  unfold State.deliver State.countIn Chan.counts Chan.parks
  simp [hwaiter, msgExempt, hsender, hlate, hkind, fInline, fDet]

/-- The same on a channel that is enabled and takes what the message carries. -/
theorem deliver_enabled (hsender : m.sender = .core p) (hwaiter : m.waiter ≠ some .discarded) (hlate : s.lateBy c m.aep = none)
    (hkind : aepKind m.aep = 2) (hch : aepChan m.aep = ch) (he : rd (s.core c).chan ch = e) (hcode : e.code.tag = true)
    (hin : m.aep.getLsbD 16 = true → e.inlok = true) :
    s.deliver c m ws false false =
      if e.counts ch = true ∧ (!e.parks m.aep) = true ∧ e.cap ≤ rd (s.core c).capN ch then
        .accepted (s.overflowMsg c ch m.aep ws m.wtype)
      else if (s.core c).poolRoom ch = false ∨ (s.core c).quotaRoom ch = false then .refused s m.aep true false
      else .accepted ((s.countIn c ch).enqueue c ch m.aep ws m.wtype m.seq (e.parks m.aep)) := by
  refine (deliver_core hsender hwaiter hlate hkind hch he).trans (if_neg ?_)
  rintro (h | ⟨h, hno⟩)
  · exact absurd hcode (by simp [h])
  · exact absurd (hin h) (by simp [hno])

/-- Whether no unit is free for a channel (09 R218). -/
theorem noRoom_iff (x : Core) (ch : Fin 64) : (x.poolRoom ch = false ∨ x.quotaRoom ch = false) ↔
    ¬ (x.poolRoom ch = true ∧ ((rd x.chan ch).quota = 0 ∨ x.heldBy ch < (rd x.chan ch).quota)) := by
  have hquota : x.quotaRoom ch = true ↔ (rd x.chan ch).quota = 0 ∨ x.heldBy ch < (rd x.chan ch).quota := by
    simp [Core.quotaRoom]
  rw [← hquota, not_and_or, Bool.not_eq_true, Bool.not_eq_true]

end

/-- Settles O27. -/
theorem messagesAreSentAndLand : Obligations.MessagesAreSentAndLand := by
  refine ⟨fun s g m a b v h t x y hg => ⟨?_, ?_⟩, ?_⟩
  · intro ha hb hloads hposts hspec
    refine forall_mem_of_imp (fun p => exec p.1 s = sendMsg p.2 g a b s) ?_ ?_
    · simp only [List.forall_mem_cons]
      exact ⟨rfl, rfl, by simp⟩
    · intro p he n flags htarget hheader hchan hlen
      obtain ⟨hdest, hcount, hcode, htype, hrest⟩ := htarget
      obtain ⟨hkind, h17, h18, h19, h21⟩ := hheader
      exact he.trans (sendMsg_of hg ha hb hloads hposts hspec (targetOk_of hdest hcount hcode htype hrest) hkind h17 h18 h19 h21
        hchan hlen)
  · intro bs s1 hd ha hb hmay hhead w n table hn hbounds s2 hload hok hloads hposts hspec spikes
    exact spkout_of w n table hg ha hb hmay hhead rfl rfl rfl hn.1 hn.2 hbounds hload hok hloads hposts hspec
  · intro s c m ws p hsender hwaiter hlate hkind ch e inline parks counts n counted room
    refine ⟨fun hoff => (deliver_core hsender hwaiter hlate hkind rfl rfl).trans (if_pos hoff), fun hcode hin => ?_⟩
    have hland := deliver_enabled (ws := ws) hsender hwaiter hlate hkind (ch := ch) rfl (e := e) rfl hcode hin
    refine ⟨fun ⟨hcounts, hparks, hfull⟩ => hland.trans (if_pos ⟨hcounts, congrArg not hparks, hfull⟩), fun hfits => ?_⟩
    have hbelow : ¬ (e.counts ch = true ∧ (!e.parks m.aep) = true ∧ e.cap ≤ rd (s.core c).capN ch) := by
      rintro ⟨hcounts, hparks, hfull⟩
      rcases hfits with h | h | h
      · exact absurd (hcounts.symm.trans h) (by decide)
      · exact absurd ((congrArg not h).symm.trans hparks) (by decide)
      · exact Nat.not_lt.mpr hfull h
    rw [if_neg hbelow] at hland
    exact ⟨fun hroom => hland.trans (if_neg fun h => (noRoom_iff _ _).mp h hroom),
      fun hfull => hland.trans (if_pos ((noRoom_iff _ _).mpr hfull))⟩

end Sys2Proof.Machine
end

section
/-! PROOF. Leases of the shared array and the geometry registers of a strand (06 R153, R154, R156). -/

namespace Sys2Proof.Machine

/-! ### What an engine instruction finds (07 R194, R196) -/

theorem noAwait_ok {s : State} (h : s.me.await = none) : s.noAwait = .ok () := need_true (by rw [h]; rfl)

/-- Where an engine instruction may issue, no copy awaits its index capability. -/
theorem noAwait_of_engineFree {s : State} (h : s.engineFree = .ok ()) : s.noAwait = .ok () := by
  refine need_true ?_
  cases hawait : s.me.await with
  | none => rfl
  | some id => simp [State.engineFree, hawait] at h

theorem source_geo {x y : Strand} {i : Fin 64} {v : CVal} (h : x.source i = some (v, y)) : y.geo = x.geo := by
  obtain ⟨_, _, _, _, _, _, rfl⟩ := source_popped h
  rfl

/-! ### Leases as they stand in their cluster (06 R153, R154) -/

@[simp] theorem postOnce_clusters (s : State) (d : Nat) (e : Instr) : (s.postOnce d e).clusters = s.clusters := by
  unfold State.postOnce
  split <;> rfl

/-- A lease that a change keeps the number of is found as changed. -/
theorem lease_updLease {s : State} {q : ClusterId} {i : Nat} {l : Lease} {f : Lease → Lease}
    (hl : (s.cluster q).lease i = some l) (hid : ∀ l, (f l).id = l.id) : ((s.updLease q i f).cluster q).lease i = some (f l) := by
  have hfound : l.id = i := by simpa using List.find?_some hl
  have hsame : ((fun (l : Lease) => l.id == i) ∘ fun (l : Lease) => if l.id == i then f l else l) = fun l => l.id == i := by
    funext m
    simp only [Function.comp]
    split <;> simp [hid]
  have hl' : (s.cluster q).leases.find? (fun (l : Lease) => l.id == i) = some l := hl
  simp only [State.updLease, updCluster_cluster_same, Cluster.lease, List.find?_map, hsame, hl', Option.map_some, hfound, BEq.rfl,
    if_true]

theorem dropChain_id (l : Lease) : l.dropChain.id = l.id := by
  unfold Lease.dropChain
  split
  · split <;> rfl
  · rfl

theorem dropChain_of_idle {l : Lease} (h : l.cmds = []) : l.dropChain = l := by
  unfold Lease.dropChain
  rw [h]

section
variable {s : State} {g k : Fin 8} {d a b : Fin 64} {c p : CVal} {x y z : Strand} {l : Lease} {i n : Nat}

/-! ### mlease (06 R153) -/

/-- The fields of the parameter of `mlease`. -/
theorem leaseParam_fields {gq : Bool} (hn : n ≤ 8) (hp : p.val = BitVec.ofNat 128 (n + if gq then 16 else 0)) :
    qf p.val 0 4 = n ∧ qf p.val 5 123 = 0 ∧ p.val.getLsbD 4 = gq := by
  have hval : p.val.toNat = n + 16 * gq.toNat := by
    rw [hp, BitVec.toNat_ofNat]
    cases gq
    · simp only [Bool.false_eq_true, if_false, Bool.toNat_false]
      omega
    · simp only [if_true, Bool.toNat_true]
      omega
  have hle := Bool.toNat_le gq
  refine ⟨?_, ?_, ?_⟩
  · rw [qf, fld, hval]
    omega
  · rw [qf, fld, hval]
    omega
  · rw [BitVec.getLsbD, hval, Nat.testBit_eq_decide_div_mod_eq, Bool.eq_iff_iff, decide_eq_true_eq, ← Bool.toNat_eq_one]
    omega

theorem mlease_of {gq : Bool} (hg : s.me.guard g = true) (htask : s.me.work.task = none) (hfree : s.engineFree = .ok ())
    (hlease : s.me.lease = none) (ha : s.me.source a = some (c, x)) (hb : x.source b = some (p, y)) (h1 : 1 ≤ n) (h8 : n ≤ 8)
    (hp : p.val = BitVec.ofNat 128 (n + if gq then 16 else 0))
    (hmay : s.mayAccess c [.ld, .st, .eng] c.addr (123136 + 32768 * n) 64) :
    exec (.mlease g k a b) s = .next (s.passedTo 4 ((((s.setMe y).newLease (clusterOf s.cur.1) (Fin.ofNat 32 (posOf s.cur.1))
      s.cur.1 s.me.work.wid none s.me.asid n gq (some k) c).2.updMe (fun (w : Strand) => { w with lease := some s.nextId })).updToken
        s.cur.1 s.me.work.wid (some k) Token.up)) := by
  obtain ⟨hcount, hrest, hgrant⟩ := leaseParam_fields h8 hp
  have hparam : (qf p.val 5 123 == 0 && decide (1 ≤ n) && decide (n ≤ 8)) = true := by
    simp [hrest, h1, h8]
  have hmay' : (s.setMe y).mayAccess c [.ld, .st, .eng] c.addr (saveBytes n) 64 := hmay
  have hnone : s.me.lease.isNone = true := by rw [hlease]; rfl
  have hcur : (s.setMe y).cur = s.cur := rfl
  refine exec_mlease.trans (issue_ok hg ?_)
  simp only [noAwait_of_engineFree hfree, notSpec_ok htask, hfree, need_true hnone, useC_of_source ha, useC_setMe hb, bind,
    Except.bind, need_true hparam, hcount, checkAccess_ok hmay', me_setMe, hcur, hgrant, source_work hb, source_work ha,
    source_asid hb, source_asid ha]
  rfl

theorem newLease_leases (s : State) (q : ClusterId) (pos : Fin 32) (core : CoreId) (wid : Nat) (asid : BitVec 16) (nacc : Nat)
    (gq : Bool) (token : Option (Fin 8)) (save : CVal) :
    ((s.newLease q pos core wid none asid nacc gq token save).2.cluster q).leases = (s.cluster q).leases ++
      [{ id := s.nextId, pos := pos, core := core, wid := wid, bin := none, asid := asid, nacc := nacc, grantq := gq,
         token := token, save := save, st := .requested, moving := false, cmds := [], acc := Vector.replicate 8 .zero,
         slots := Vector.replicate 8 .empty, halves := Vector.replicate 2 .empty, mstat := 0, lastUse := s.dt, spill := [] }] := by
  simp only [State.newLease, State.cluster, postOnce_clusters]
  exact congrArg Cluster.leases (updCluster_cluster_same _ _ _)

/-! ### mfree (06 R154) -/

/-- A strand without a lease has nothing to give up. -/
theorem mfree_none (hg : s.me.guard g = true) (htask : s.me.work.task = none) (hawait : s.me.await = none)
    (hlease : s.me.lease = none) : exec (.mfree g) s = .next (s.passed 4 s.me) := by
  refine exec_mfree.trans (issue_me hg ?_)
  simp only [noAwait_ok hawait, notSpec_ok htask, settleLease_none hlease, bind, Except.bind, hlease, setMe_me]
  rfl

/-- A granted lease with no command and no fill left is settled. -/
theorem settleLease_idle (hlease : s.me.lease = some i) (hl : (s.cluster (clusterOf s.cur.1)).lease i = some l)
    (hst : l.st ≠ .requested) (hidle : l.cmds = []) (hfills : s.fillsOf (clusterOf s.cur.1) i = false) :
    s.settleLease = .ok (s.updLease (clusterOf s.cur.1) i Lease.dropChain) := by
  have hfills' : (s.updLease (clusterOf s.cur.1) i Lease.dropChain).fillsOf (clusterOf s.cur.1) i = false := hfills
  have hready : l.st ≠ .requested ∧ l.cmds.isEmpty = true ∧ (!false) = true := ⟨hst, by rw [hidle]; rfl, rfl⟩
  simp only [State.settleLease, hlease, lease_updLease hl dropChain_id, dropChain_of_idle hidle, hfills']
  exact if_pos hready

theorem mfree_some (hg : s.me.guard g = true) (htask : s.me.work.task = none) (hawait : s.me.await = none)
    (hlease : s.me.lease = some i) (hl : (s.cluster (clusterOf s.cur.1)).lease i = some l) (hst : l.st ≠ .requested)
    (hidle : l.cmds = []) (hfills : s.fillsOf (clusterOf s.cur.1) i = false) :
    exec (.mfree g) s = .next (s.passedTo 4 (((s.updLease (clusterOf s.cur.1) i Lease.dropChain).updMe
      (fun (w : Strand) => { w with lease := none })).dropLease (clusterOf s.cur.1) i)) := by
  have hmine : (s.updLease (clusterOf s.cur.1) i Lease.dropChain).me.lease = some i := hlease
  refine exec_mfree.trans (issue_ok hg ?_)
  simp only [noAwait_ok hawait, notSpec_ok htask, settleLease_idle hlease hl hst hidle hfills, bind, Except.bind, hmine]
  rfl

/-! ### Geometry registers (06 R156) -/

theorem mgeo_of (hg : s.me.guard g = true) (ha : s.me.source a = some (c, x)) (hd : d.val < 8) (hv : geoOk d.val c.addr = true) :
    exec (.mgeo g d a) s = .next (s.passed 4 { x with geo := wr x.geo d c.addr }) := by
  refine exec_mgeo.trans (issue_me hg ?_)
  simp only [useX_of_source ha, bind, Except.bind, if_pos hd, need_true hv, updMe_eq, me_setMe, setMe_setMe]
  rfl

theorem mgeo_ill (hg : s.me.guard g = true) (ha : s.me.source a = some (c, x)) (h : 8 ≤ d.val ∨ geoOk d.val c.addr = false) :
    exec (.mgeo g d a) s = .next (s.takeTrap s.cur.1 s.cur.2 .ill none) := by
  refine exec_mgeo.trans (issue_trap hg ?_)
  by_cases hd : d.val < 8
  · have hv : geoOk d.val c.addr = false := h.resolve_left (by omega)
    simp only [useX_of_source ha, bind, Except.bind, if_pos hd, need_false hv, Stop.t]
  · simp only [useX_of_source ha, bind, Except.bind, if_neg hd]
    rfl

theorem mgeor_of (hg : s.me.guard g = true) (h8 : a.val < 8)
    (hz : s.me.result d (.plain ((rd s.me.geo a).setWidth 128)) = some z) : exec (.mgeor g d a) s = .next (s.passed 4 z) := by
  refine exec_mgeor.trans (issue_me hg ?_)
  rw [if_pos h8]
  exact putX_of_result hz

theorem mgeor_ill (hg : s.me.guard g = true) (h8 : 8 ≤ a.val) :
    exec (.mgeor g d a) s = .next (s.takeTrap s.cur.1 s.cur.2 .ill none) :=
  exec_mgeor.trans (issue_trap hg (if_neg (Nat.not_lt.mpr h8)))

end

/-- Settles O22. -/
theorem leasesAndGeometry : Obligations.LeasesAndGeometry := by
  intro s g k d a b c p x y z l hg
  refine ⟨?_, ?_, ?_, ?_, ?_, ?_⟩
  · intro htask hfree hlease ha hb n gq h1 h8 hp hmay r
    exact ⟨mlease_of hg htask hfree hlease ha hb h1 h8 hp hmay, newLease_leases ..⟩
  · exact fun htask hawait hlease => mfree_none hg htask hawait hlease
  · intro htask hawait i hlease hl hst hidle hfills
    exact mfree_some hg htask hawait hlease hl hst hidle hfills
  · exact fun ha => ⟨fun hd hv => mgeo_of hg ha hd hv, mgeo_ill hg ha⟩
  · exact fun h8 hz => mgeor_of hg h8 hz
  · exact fun h8 => mgeor_ill hg h8

end Sys2Proof.Machine
end

section
/-! PROOF. Engine operations at work: the pieces and granules of moves, acknowledgements, hand-backs, and quire blocks at their
homes (06 R169, R170, R173, R174; 07 R197; 13 R261, R264; 16 R300; 20 R364). -/

namespace Sys2Proof.Machine

section
variable {s s1 s2 : State} {id n : Nat} {o : Op} (hop : s.op id = some o)
include hop

theorem op_id : o.id = id := by simpa using List.find?_some hop

/-- An operation ended. -/
theorem endOp_of : s.endOp id =
    ({ s with ops := s.ops.filter (fun (p : Op) => p.id != id) } : State).tellToken o.core o.wid o.token Token.down := by
  rw [State.endOp, hop]

/-! ### Copies and moves (13 R261, R264) -/

/-- The last acknowledgement. -/
theorem engineAck_of (hlive : s.house.frozen = false) (hnone : o.handed = none) (hissued : o.deferred = false) (hn : o.next = n)
    (htodo : o.todo = []) (hbuf : o.buf = []) (hbad : o.bad = []) : exec (.engineAck id n) s = .next (s.endOp id) := by
  rw [exec_engineAck, execEngineAck]
  simp only [hop, hlive, hnone, hissued, hn, htodo, hbuf, hbad, Option.isNone_none, List.isEmpty_nil, Bool.not_false,
    Bool.false_eq_true, and_self, if_false, if_true]

/-- The oldest granule is written. -/
theorem granuleWrite_of {dst : CVal} {va : Dbl} {bs : List Byte} {more : List (CVal × Dbl × List Byte)}
    (hlive : s.house.frozen = false) (hnone : o.handed = none) (hissued : o.deferred = false) (hn : o.next = n)
    (hbuf : o.buf = (dst, va, bs) :: more) (htile : o.job.tile = none) (hpeer : peerAt dst va = false)
    (hcross : o.job.crosses = false) (hwrite : s.homeWrite o.who (dst.has .local) [(va, bs)] [] = .ok s1) :
    exec (.granuleWrite id n) s = .next (s1.granuleDone o more) := by
  rw [exec_granuleWrite, execGranuleWrite]
  simp only [hop, hlive, hnone, hissued, hn, hbuf, htile, hpeer, hcross, hwrite, Option.isSome_none, Bool.false_and, ne_eq,
    not_true_eq_false, Bool.false_eq_true, and_false, or_self, if_false]

/-- A piece is read where its translation holds. -/
theorem readPiece_ok {src dst : CVal} {u : Nat} {from' to' : Nat → Dbl} {p : Piece} {rest : List Piece} {room : Nat}
    {bs : List (Dbl × List Byte)} (hroom : room = min p.len (pieceRoom src (from' p.off)))
    (hread : s.readGranules o src from' (granules u to' (room + 1) p.off (List.replicate room 0)) = .ok (bs, s1)) :
    s.readPiece o src dst u from' to' p rest = (s1.updOp id (fun (q : Op) => { q with
      todo := if room < p.len then { p with off := p.off + room, len := p.len - room } :: rest else rest
      next := q.next + 1, cur := some { p with len := room }, buf := bs.map (fun x => (dst, x.1, x.2)) })).opGoOn id := by
  simp only [State.readPiece, ← hroom, hread, op_id hop]

theorem streamerPiece_move {src dst : CVal} {len : Nat} {p : Piece} {rest : List Piece}
    (hlive : s.house.frozen = false) (hnone : o.handed = none) (hissued : o.deferred = false) (hn : o.next = n) (hbuf : o.buf = [])
    (htodo : o.todo = p :: rest) (hjob : o.job = .move src dst len false) (hissue : s.awaitsIssuer o = false)
    (hpeer : peerAt src (src.addr + BitVec.ofNat 64 p.off) = false) :
    exec (.streamerPiece id n) s = .next (s.readPiece o src dst 0 (fun i => src.addr + BitVec.ofNat 64 i)
      (fun i => dst.addr + BitVec.ofNat 64 i) p rest) := by
  have hcross : o.job.crosses = false := by rw [hjob]; rfl
  rw [exec_streamerPiece, execStreamerPiece]
  simp only [hop, hlive, hnone, hissued, hn, hbuf, htodo, hissue, hcross, Option.isSome_none, List.isEmpty_nil, Bool.not_true,
    Bool.false_and, ne_eq, not_true_eq_false, Bool.false_eq_true, or_self, if_false]
  simp only [hjob, hpeer, Bool.false_eq_true, if_false]

/-- The remainder takes a free entry of its core (07 R197). -/
theorem engineHandBack_of {b : Piece × FaultInfo} {bs : List (Piece × FaultInfo)} {e : Fin 16} {f : FaultInfo} {gen : BitVec 16}
    (hbad : o.bad = b :: bs) (hnone : o.handed = none) (hfree : (s.core o.core).freeHback = some e) (hamo : ∀ p, o.job ≠ .amo p)
    (hf : f = (bs.foldl (fun (m : Piece × FaultInfo) x => if x.2.va < m.2.va then x else m) b).2)
    (hgen : gen = (rd (s.core o.core).hback e).gen + 1)
    (hs1 : s1 = s.updCore o.core (fun (c : Core) => { c with hback := wr c.hback e { gen := gen, op := some id } }))
    (hs2 : s2 = (s1.updOp id (fun (p : Op) => { p with handed := some e })).opFailed o) :
    exec (.engineHandBack id) s =
      .next (s2.post 100 (.messageArrival o.core (s2.handBackMsg o o.job.engine e gen f))) := by
  subst hf hgen hs1 hs2
  rw [exec_engineHandBack, execEngineHandBack]
  simp only [hop, hbad, hnone, hfree, Option.isSome_none, Bool.false_eq_true, if_false]

/-! ### Quire blocks at their homes (06 R169, R170, R174; 16 R300) -/

section
variable {j : QuireJob} (hjob : o.job = .quire j) (hlive : s.house.frozen = false) (hissued : o.deferred = false)
  (hnone : o.handed = none) (hbad : o.bad = []) (hissue : s.awaitsIssuer o = false)
include hjob hlive hissued hnone hbad hissue

/-- One unit of a split block is written, chosen by a free value. -/
theorem quireUpdate_unit {fl qs i : Nat} {places : List (List (Tr × Dbl × Nat))} {unit : CVal × Dbl × List Byte}
    {ts : List (Tr × Dbl × Nat)} (hout : j.work = .out fl qs places) (hi : i = (Config.freeValue s.freshN).toNat % o.buf.length)
    (hunit : o.buf[i]? = some unit) (hplace : places[i]? = some ts) :
    exec (.quireUpdateAtHome id) s = .next (((({ s with freshN := s.freshN + 1 } : State).writeParts o.who ts unit.2.2).updOp o.id
      (fun (x : Op) => { x with job := .quire { j with work := .out fl qs (places.eraseIdx i) }, buf := o.buf.eraseIdx i })).post 5
        (.quireUpdateAtHome o.id)) := by
  subst hi
  rw [exec_quireUpdateAtHome, execQuireUpdateAtHome]
  simp only [hop, hjob, hlive, hissued, hnone, hbad, hissue, hout, Option.isSome_none, List.isEmpty_nil, Bool.not_true,
    Bool.false_eq_true, or_self, if_false, State.quireUnit, State.free, hunit, hplace]

/-! A block that is not being written out yet: by `hwork` the first arm of the event's match is not the block's. -/

section
variable (hwork : ∀ fl qs places, j.work ≠ .out fl qs places)
include hwork

/-- A packed block is performed whole, and its flags and QSTAT bits are delivered. -/
theorem quireUpdate_packed {fl qs : Nat} (hq : j.q.split = false) (hstep : s.quireStep o j = .ok (fl, qs, s1)) (hdom : o.dom = none) :
    exec (.quireUpdateAtHome id) s = .next ((s1.updWork o.core o.wid (fun (x : Strand) =>
      { x with fflags := x.fflags ||| BitVec.ofNat 32 fl, qstat := x.qstat ||| BitVec.ofNat 32 qs })).endOp id) := by
  rw [exec_quireUpdateAtHome, execQuireUpdateAtHome]
  simp only [hop, hjob, hlive, hissued, hnone, hbad, hissue, hq, Option.isSome_none, List.isEmpty_nil, Bool.not_true,
    Bool.false_eq_true, or_self, if_false, hstep, State.quireEnd, hdom, op_id hop]

/-- A packed block whose translation fails is handed back. -/
theorem quireUpdate_fault {f : FaultInfo} (hq : j.q.split = false) (hstep : s.quireStep o j = .error (f, s1))
    (hf : f.cause = .translation) : exec (.quireUpdateAtHome id) s = .next (s1.opFault o f) := by
  rw [exec_quireUpdateAtHome, execQuireUpdateAtHome]
  simp only [hop, hjob, hlive, hissued, hnone, hbad, hissue, hq, Option.isSome_none, List.isEmpty_nil, Bool.not_true,
    Bool.false_eq_true, or_self, if_false, if_true, hstep, hf]

/-- A split block is computed, and its units are translated. -/
theorem quireUpdate_split {hdr : DHdr} {codes : List Nat} {fl qs : Nat} {places : List (List (Tr × Dbl × Nat))}
    (hq : j.q.split = true) (hresult : s.quireResult o j = .ok (hdr, codes, fl, qs, s1))
    (hplaces : s1.quirePlaces o.who (j.q.units j.blk hdr codes) = .ok (places, s2)) :
    exec (.quireUpdateAtHome id) s = .next ((s2.updOp id (fun (x : Op) => { x with
      job := .quire { j with work := .out fl qs places }, buf := j.q.units j.blk hdr codes })).post 5 (.quireUpdateAtHome id)) := by
  rw [exec_quireUpdateAtHome, execQuireUpdateAtHome]
  simp only [hop, hjob, hlive, hissued, hnone, hbad, hissue, hq, Option.isSome_none, List.isEmpty_nil, Bool.not_true,
    Bool.false_eq_true, or_self, if_false, hresult, hplaces]

end
end
end

/-- The parts that a quire operation reads: an update the whole block, a store its header. -/
def QuireWork.partsUsed : QuireWork → List Nat
  | .upd _ _ _ _ => [0, 1, 2, 3, 4]
  | _ => [0]

/-- What a block's result is made from: its parts are translated whole and read, and its version byte is raised. -/
theorem quireResult_reads {s s1 : State} {o : Op} {j : QuireJob} {hdr : DHdr} {codes : List Nat} {fl qs : Nat}
    (hresult : s.quireResult o j = .ok (hdr, codes, fl, qs, s1)) :
    ∃ (s0 : State) (parts : List (List Byte)) (r : DHdr), s.translateParts o.who j.q j.blk [0, 1, 2, 3, 4] = .ok s0 ∧
      s0.engineParts o.who j.q j.blk j.work.partsUsed = .ok (parts, s1) ∧
      hdr = { r with ver := ((DHdr.ofBytes ((parts[0]?).getD [])).ver + 1) % 256 } := by
  unfold State.quireResult at hresult
  split at hresult
  · cases hresult
  next s0 htranslate =>
    split at hresult
    · cases hresult
    next parts s2 hparts =>
      simp only [Except.ok.injEq, Prod.mk.injEq] at hresult
      obtain ⟨hhdr, -, -, -, rfl⟩ := hresult
      exact ⟨s0, parts, _, htranslate, hparts, hhdr.symm⟩

/-- A packed block's step: translated, read, computed and written, with its version byte raised (06 R169, R170). -/
theorem quireStep_writes {s s1 : State} {o : Op} {j : QuireJob} {fl qs : Nat} (hstep : s.quireStep o j = .ok (fl, qs, s1)) :
    ∃ (s0 s2 : State) (parts : List (List Byte)) (hdr : DHdr) (codes : List Nat),
      s.translateParts o.who j.q j.blk [0, 1, 2, 3, 4] = .ok s0 ∧
      s0.engineParts o.who j.q j.blk j.work.partsUsed = .ok (parts, s2) ∧
      s2.writeQuire o.who j.q j.blk
        ((0, DHdr.bytes { hdr with ver := ((DHdr.ofBytes ((parts[0]?).getD [])).ver + 1) % 256 }) ::
          (List.range 4).map (fun i => (i + 1, toPlane i codes))) = .ok s1 := by
  unfold State.quireStep at hstep
  split at hstep
  · cases hstep
  next hdr codes fl' qs' s2 hresult =>
    obtain ⟨s0, parts, r, htranslate, hparts, hhdr⟩ := quireResult_reads hresult
    split at hstep
    · cases hstep
    next s3 hwrite =>
      simp only [Except.ok.injEq, Prod.mk.injEq] at hstep
      obtain ⟨-, -, rfl⟩ := hstep
      exact ⟨s0, s2, parts, r, codes, htranslate, hparts, hhdr ▸ hwrite⟩

/-- Settles O19. -/
theorem engineEvents : Obligations.EngineEvents := by
  refine ⟨fun s id n o hop hlive hnone hissued _ => ⟨?_, ?_, ?_, ?_⟩, fun s id o j hop hjob hlive hissued hnone hbad hissue => ⟨?_, ?_⟩⟩
  · intro src dst len p rest bs s1 hn hbuf htodo hjob hissue hpeer at' room hread
    rw [streamerPiece_move hop hlive hnone hissued hn hbuf htodo hjob hissue hpeer, readPiece_ok hop rfl hread]
  · intro dst va bs more s1 hn hbuf htile hpeer hcross hwrite
    exact granuleWrite_of hop hlive hnone hissued hn hbuf htile hpeer hcross hwrite
  · intro hn htodo hbuf hbad
    rw [engineAck_of hop hlive hnone hissued hn htodo hbuf hbad, endOp_of hop]
  · intro b bs e hbad hfree hamo f gen s1 s2
    exact engineHandBack_of hop hbad hnone hfree hamo rfl rfl rfl rfl
  · intro fl qs places unit ts hout i hunit hplace
    exact quireUpdate_unit hop hjob hlive hissued hnone hbad hissue hout rfl hunit hplace
  · intro hwork
    refine ⟨fun fl qs s1 hq hstep hdom => ?_, fun f s1 hq hstep hf => ?_, fun hdr codes fl qs s1 places s2 hq hresult hplaces => ?_,
      fun fl qs s1 hstep => ?_⟩
    · exact quireUpdate_packed hop hjob hlive hissued hnone hbad hissue hwork hq hstep hdom
    · exact quireUpdate_fault hop hjob hlive hissued hnone hbad hissue hwork hq hstep hf
    · exact quireUpdate_split hop hjob hlive hissued hnone hbad hissue hwork hq hresult hplaces
    · obtain ⟨s0, s2, parts, hdr, codes, htranslate, hparts, hwrite⟩ := quireStep_writes hstep
      exact ⟨s0, parts, _, htranslate, ⟨s2, hparts, rfl, hdr, codes, hwrite⟩⟩

end Sys2Proof.Machine
end

section
/-! PROOF. Quire instructions: sub-blocks and headers read, stores and updates issued (06 R168-R174). -/

namespace Sys2Proof.Machine

/-- The fields of a quire instruction's parameter (06 R171, R173). -/
theorem quirePar_of {v : Quad} {e r pl rn m al st : Nat} (he : e < 2 ^ 48) (hr : r < 64) (hpl : pl < 4) (hrn : rn < 2) (hm : m < 8)
    (hal : al < 2 ^ 32) (hst : st < 64)
    (hv : v = BitVec.ofNat 128 (e + 2 ^ 48 * r + 2 ^ 54 * pl + 2 ^ 56 * rn + 2 ^ 57 * m + 2 ^ 64 * al + 2 ^ 96 * st)) :
    QuirePar.of v.toNat = { elem := e, reg := r, planes := pl, rn := rn, mode := m, alpha := al, state := st, rest := true } := by
  have hval : v.toNat = e + 2 ^ 48 * r + 2 ^ 54 * pl + 2 ^ 56 * rn + 2 ^ 57 * m + 2 ^ 64 * al + 2 ^ 96 * st := by
    rw [hv, BitVec.toNat_ofNat]
    omega
  have hrest : (fld v.toNat 60 4 == 0 && fld v.toNat 102 26 == 0) = true := by
    rw [Bool.and_eq_true, beq_iff_eq, beq_iff_eq, fld, fld]
    omega
  simp only [QuirePar.of, QuirePar.mk.injEq, hrest, and_true]
  simp only [fld, hval]
  omega

/-- The values that `pld` takes (06 R172). -/
theorem pld_fields {v : QuirePar} {e r pl rn : Nat}
    (hpar : v = { elem := e, reg := r, planes := pl, rn := rn, mode := 0, alpha := 0, state := 0, rest := true })
    (he : e % 32 = 0) (hr : r ≤ 29) :
    (v.rest && v.elem % 32 == 0 && decide (v.reg ≤ 29) && v.mode == 0 && v.alpha == 0 && v.state == 0) = true := by
  simp [hpar, he, hr]

/-- The values that `plhdr` takes (06 R172). -/
theorem plhdr_fields {v : QuirePar} {e r : Nat}
    (hpar : v = { elem := e, reg := r, planes := 0, rn := 0, mode := 0, alpha := 0, state := 0, rest := true })
    (he : e % 256 = 0) (h1 : 1 ≤ r) (h59 : r ≤ 59) :
    (v.rest && v.elem % 256 == 0 && decide (1 ≤ v.reg) && decide (v.reg ≤ 59) && v.planes == 0 && v.rn == 0 && v.mode == 0 &&
      v.alpha == 0 && v.state == 0) = true := by
  simp [hpar, he, h1, h59]

/-- The values that a store or an update takes (06 R173, R174). -/
theorem blockOp_fields {v : QuirePar} {e r m al st : Nat} {okMode : Nat → Bool} {useAlpha : Bool}
    (hpar : v = { elem := e, reg := r, planes := 0, rn := 0, mode := m, alpha := al, state := st, rest := true })
    (he : e % 256 = 0) (hr : r = 0 ∨ r = 8 ∨ r = 16) (hmode : okMode m = true) (hal : useAlpha = true ∨ al = 0)
    (hst : m = 4 ∨ st = 0) (h59 : st ≤ 59) :
    (v.rest && v.elem % 256 == 0 && (v.reg == 0 || v.reg == 8 || v.reg == 16) && v.planes == 0 && v.rn == 0 && okMode v.mode &&
      (useAlpha || v.alpha == 0) && (v.mode == 4 || v.state == 0) && decide (v.state ≤ 59)) = true := by
  simp [hpar, he, hr, hmode, hal, hst, h59, or_assoc]

/-- An access performed in its own step, no earlier load being under way (log entry 36). -/
theorem performNow_of {s : State} (h : s.me.loadsPending = false) (acc : Access) :
    s.performNow acc = s.perform s.cur.1 s.cur.2 s.nextId acc := if_neg (by rw [h]; decide)

/-- A window opened by the running strand as it stands, with the event that ends its access. -/
theorem openWin_me (s : State) (dst : WinDst) (l : Nat) (acc : Access) :
    (s.openWin dst l acc .pending).2.post 100 (.loadResponse s.cur.1 s.cur.2 (s.openWin dst l acc .pending).1) =
      s.windowed s.me dst l acc := by
  simpa only [setMe_me] using openWin_post s s.me dst l acc

theorem raise_zero (s : State) : s.raise 0 = s := by
  have hsame : s.me.flagged 0 = s.me := by simp [Strand.flagged]
  rw [raise_setMe, hsame, setMe_me]

/-- The state that a stochastic operation draws from, advanced: SRGEN's, or that of a c register (06 R173). -/
theorem drawBlock_of {s1 s2 : State} {m st : Nat} {gen : Quad}
    (h : if m ≠ 4 then gen = 0 ∧ s2 = s1
      else if st = 0 then gen = s1.me.srgen ∧ s2 = s1.setMe { s1.me with srgen := genAdvance s1.me.srgen 256 }
      else gen = (s1.me.creg (Fin.ofNat 64 st)).val ∧
        ∃ z, s1.me.result (Fin.ofNat 64 st) (.plain (genAdvance gen 256)) = some z ∧ s2 = s1.setMe z) :
    s1.drawBlock m st = .ok (gen, s2) := by
  unfold State.drawBlock
  split_ifs at h ⊢
  · obtain ⟨rfl, rfl⟩ := h
    rfl
  · obtain ⟨rfl, rfl⟩ := h
    rfl
  · obtain ⟨rfl, z, hz, rfl⟩ := h
    simp only [putC_of_result hz]

section
variable {s s1 s2 : State} {g k : Fin 8} {l : Fin 16} {a b : Fin 64} {c p : CVal} {x y : Strand} {q : QuireSrc}
  {count e r pl rn m al st : Nat} {acc : Access}
  (hg : s.me.guard g = true) (ha : s.me.source a = some (c, x)) (hb : x.source b = some (p, y))
  (hdesc : (s.setMe y).quireDesc c = .ok (q, count, s1)) (hlt : e < count)
include hg ha hb hdesc hlt

/-! ### pld and plhdr (06 R171, R172) -/

section
variable (hawait : s.me.await = none)
include hawait

section
variable (hpar : QuirePar.of p.val.toNat =
    { elem := e, reg := r, planes := pl, rn := rn, mode := 0, alpha := 0, state := 0, rest := true })
  (he : e % 32 = 0) (hr : r ≤ 29)
  (hparts : s1.checkParts q (e / 256) (some (e % 256 / 32)) false (partsRead (pl + 1) (rn == 1)) = .ok ())
  (hacc : acc = { kind := .quire q e (pl + 1) (rn == 1), cap := c, va := (q.part (e / 256) 0).2, n := 128 })
include hpar he hr hparts hacc

theorem pld_now {v : VReg} {tag sat : Bool} {z : Strand} (hp : s1.me.loadsPending = false)
    (hread : s1.perform s1.cur.1 s1.cur.2 s1.nextId acc = .ok (v, tag, sat, s2))
    (hz : (if sat then ({ s2.me with qstat := s2.me.qstat ||| 1 } : Strand) else s2.me).landingV (Fin.ofNat 32 r) v = some z) :
    exec (.pld g 0 a b) s = .next (s.passedTo 4 (s2.setMe z)) := by
  refine exec_pld.trans (issue_ok hg ?_)
  simp only [noAwait_ok hawait, useC_of_source ha, useC_setMe hb, bind, Except.bind, need_true (pld_fields hpar he hr), hdesc]
  simp only [hpar, hparts, need_true (decide_eq_true hlt), ← hacc, if_true, performNow_of hp, hread]
  cases sat with
  | true =>
    have hland := landV_of_landingV (s := s2.setMe { s2.me with qstat := s2.me.qstat ||| 1 }) (by rw [me_setMe]; exact hz)
    rw [if_pos rfl, updMe_eq, hland, setMe_setMe]
  | false =>
    rw [if_neg Bool.false_ne_true, landV_of_landingV hz]

theorem pld_window (hl : l ≠ 0) :
    exec (.pld g l a b) s = .next (s.passedTo 4 (s1.windowed s1.me (.v (Fin.ofNat 32 r)) l.val acc)) := by
  refine exec_pld.trans (issue_ok hg ?_)
  simp only [noAwait_ok hawait, useC_of_source ha, useC_setMe hb, bind, Except.bind, need_true (pld_fields hpar he hr), hdesc]
  simp only [hpar, hparts, need_true (decide_eq_true hlt), ← hacc, hl, if_false]
  exact congrArg Except.ok (openWin_me ..)

end

section
variable (hpar : QuirePar.of p.val.toNat =
    { elem := e, reg := r, planes := 0, rn := 0, mode := 0, alpha := 0, state := 0, rest := true })
  (he : e % 256 = 0) (h1 : 1 ≤ r) (h59 : r ≤ 59) (hparts : s1.checkParts q (e / 256) none false [0] = .ok ())
  (hacc : acc = { kind := .quireHdr q e, cap := c, va := (q.part (e / 256) 0).2, n := 16 })
include hpar he h1 h59 hparts hacc

theorem plhdr_now {v : VReg} {tag sat : Bool} {z : Strand} (hp : s1.me.loadsPending = false)
    (hread : s1.perform s1.cur.1 s1.cur.2 s1.nextId acc = .ok (v, tag, sat, s2))
    (hz : s2.me.landing (Fin.ofNat 64 r) { val := v.setWidth 128, tag := tag } = some z) :
    exec (.plhdr g 0 a b) s = .next (s.passedTo 4 (s2.setMe z)) := by
  refine exec_plhdr.trans (issue_ok hg ?_)
  simp only [noAwait_ok hawait, useC_of_source ha, useC_setMe hb, bind, Except.bind, need_true (plhdr_fields hpar he h1 h59), hdesc]
  simp only [hpar, hparts, need_true (decide_eq_true hlt), ← hacc, if_true, performNow_of hp, hread, landC_of_landing hz]

theorem plhdr_window (hl : l ≠ 0) :
    exec (.plhdr g l a b) s = .next (s.passedTo 4 (s1.windowed s1.me (.c (Fin.ofNat 64 r)) l.val acc)) := by
  refine exec_plhdr.trans (issue_ok hg ?_)
  simp only [noAwait_ok hawait, useC_of_source ha, useC_setMe hb, bind, Except.bind, need_true (plhdr_fields hpar he h1 h59), hdesc]
  simp only [hpar, hparts, need_true (decide_eq_true hlt), ← hacc, hl, if_false]
  exact congrArg Except.ok (openWin_me ..)

end
end

/-! ### pst, plupd and plaxpy (06 R173, R174) -/

section
variable {gen : Quad} (hfree : s.engineFree = .ok ())
  (hpar : QuirePar.of p.val.toNat =
    { elem := e, reg := r, planes := 0, rn := 0, mode := m, alpha := al, state := st, rest := true })
  (he : e % 256 = 0) (hr : r = 0 ∨ r = 8 ∨ r = 16) (hst : m = 4 ∨ st = 0) (h59 : st ≤ 59)
  (hparts : s1.checkParts q (e / 256) none true [0, 1, 2, 3, 4] = .ok ()) (hdraw : s1.drawBlock m st = .ok (gen, s2))
include hfree hpar he hr hst h59 hparts hdraw

/-- A store or an update of a block, once its 256 draws have been taken: one engine operation. -/
theorem blockOp_of {okMode : Nat → Bool} {useAlpha : Bool} {work : State → Nat → Nat → List Word → Quad → QuireWork × Nat}
    (hmode : okMode m = true) (hal : useAlpha = true ∨ al = 0) :
    blockOp g k a b okMode useAlpha work s = .next (s.passedTo 4 (
      (s2.raise (work s2 m al (s1.lanes256 r) gen).2).startOp (some k)
        (.quire { q := q, blk := e / 256, work := (work s2 m al (s1.lanes256 r) gen).1 }) [] .quireUpdateAtHome)) := by
  refine issue_ok hg ?_
  simp only [hfree, useC_of_source ha, useC_setMe hb, bind, Except.bind,
    need_true (blockOp_fields hpar he hr hmode hal hst h59), hdesc]
  simp only [hpar, hparts, need_true (decide_eq_true hlt), hdraw]
  rfl

/-- A store's block as it is encoded at issue (06 R173). -/
def encodedBlock (xs : List Word) (gen : Quad) (m : Nat) : DHdr × List Nat × Nat :=
  dEncode 22 (xs.zipIdx.map (fun p => ((Fmt.f32.decode p.1.toNat).1, genDraw gen p.2))) ((RMode.ofCode m).getD .rne)

theorem pst_of (hm : m ≤ 4) (hal : al = 0) :
    exec (.pst g k a b) s = .next (s.passedTo 4 (
      (s2.setMe (s2.me.flagged (encodedBlock (s1.lanes256 r) gen m).2.2)).startOp (some k) (.quire
        { q := q, blk := e / 256, work := .put (encodedBlock (s1.lanes256 r) gen m).1.bytes (encodedBlock (s1.lanes256 r) gen m).2.1 })
        [] .quireUpdateAtHome)) :=
  exec_pst.trans (blockOp_of hg ha hb hdesc hlt hfree hpar he hr hst h59 hparts hdraw (decide_eq_true hm) (.inr hal))

theorem plupd_of (hm : m = 0 ∨ m = 4) (hal : al = 0) :
    exec (.plupd g k a b) s = .next (s.passedTo 4 (s2.startOp (some k) (.quire
      { q := q, blk := e / 256, work := .upd m 0x3F800000 (s1.lanes256 r) gen }) [] .quireUpdateAtHome)) := by
  rw [exec_plupd, execPlupd, blockOp_of hg ha hb hdesc hlt hfree hpar he hr hst h59 hparts hdraw (by simpa using hm) (.inr hal),
    raise_zero]

theorem plaxpy_of (hm : m = 0 ∨ m = 4) :
    exec (.plaxpy g k a b) s = .next (s.passedTo 4 (s2.startOp (some k) (.quire
      { q := q, blk := e / 256, work := .upd m (BitVec.ofNat 32 al) (s1.lanes256 r) gen }) [] .quireUpdateAtHome)) := by
  rw [exec_plaxpy, execPlaxpy, blockOp_of hg ha hb hdesc hlt hfree hpar he hr hst h59 hparts hdraw (by simpa using hm) (.inl rfl),
    raise_zero]

end
end

/-- Settles O21. -/
theorem quireInstructions : Obligations.QuireInstructions := by
  refine ⟨?_, ?_⟩
  · intro s g l a b c p x y e r n rn q count s1 hg hawait ha hb hdesc hlt hcount
    have he48 : e < 2 ^ 48 := by omega
    refine ⟨?_, ?_⟩
    · intro hp he hr hn1 hn4 hrn hparts acc
      obtain ⟨pl, rfl⟩ : ∃ pl, n = pl + 1 := ⟨n - 1, by omega⟩
      have hpar := quirePar_of (e := e) (r := r) (pl := pl) (rn := rn) (m := 0) (al := 0) (st := 0) he48 (by omega) (by omega)
        (by omega) (by decide) (by decide) (by decide) (by simpa using hp)
      refine ⟨fun hl hpending v tag sat s2 z hread hz => ?_, fun hl => ?_⟩
      · subst hl
        exact pld_now hg ha hb hdesc hlt hawait hpar he hr hparts rfl hpending hread hz
      · exact pld_window hg ha hb hdesc hlt hawait hpar he hr hparts rfl hl
    · intro hp he h1 h59 hparts acc
      have hpar := quirePar_of (e := e) (r := r) (pl := 0) (rn := 0) (m := 0) (al := 0) (st := 0) he48 (by omega) (by decide)
        (by decide) (by decide) (by decide) (by decide) (by simpa using hp)
      refine ⟨fun hl hpending v tag sat s2 z hread hz => ?_, fun hl => ?_⟩
      · subst hl
        exact plhdr_now hg ha hb hdesc hlt hawait hpar he h1 h59 hparts rfl hpending hread hz
      · exact plhdr_window hg ha hb hdesc hlt hawait hpar he h1 h59 hparts rfl hl
  · intro s g k a b c p x y e r m al st q count s1 s2 gen hg hfree ha hb hp he hlt hcount hr hm hal h59 hst hdesc hparts hgen xs
      issued
    have hpar := quirePar_of (e := e) (r := r) (pl := 0) (rn := 0) (m := m) (al := al) (st := st) (by omega) (by omega) (by decide)
      (by decide) (by omega) hal (by omega) (by simpa using hp)
    have hdraw := drawBlock_of hgen
    refine ⟨?_, ?_, ?_⟩
    · intro h0 enc
      exact pst_of hg ha hb hdesc hlt hfree hpar he hr hst h59 hparts hdraw hm h0
    · intro h0 hmode
      exact plupd_of hg ha hb hdesc hlt hfree hpar he hr hst h59 hparts hdraw hmode h0
    · intro hmode
      exact plaxpy_of hg ha hb hdesc hlt hfree hpar he hr hst h59 hparts hdraw hmode

end Sys2Proof.Machine
end

section
/-! PROOF. Commands of the shared array are queued: fills, products, zeroing and read-outs, and the array's status (06 R158-R166). -/

namespace Sys2Proof.Machine

/-- A command behind the others of its lease; the array looks at its turn. -/
def State.queued (s : State) (q : ClusterId) (l : Lease) (c : Cmd) : State :=
  (s.updLease q l.id (fun (l : Lease) => { l with cmds := l.cmds ++ [c] })).pokeArray q

theorem queueCmd_ok {s : State} {q : ClusterId} {l : Lease} (hq : clusterOf s.cur.1 = q) (hroom : l.cmds.length < 16) (c : Cmd) :
    s.queueCmd l c = .ok (s.queued q l c) := by
  subst hq
  exact if_neg (by omega)

theorem myLease_ok {s : State} {i : Nat} {l : Lease} (hi : s.me.lease = some i)
    (hl : (s.cluster (clusterOf s.cur.1)).lease i = some l) : s.myLease = .ok l := by
  simp only [State.myLease, hi, Option.bind_some, hl]

theorem allOk_ok {α : Type} {xs : List α} {f : α → Except Stop Unit} (h : ∀ x ∈ xs, f x = .ok ()) : allOk xs f = .ok () := by
  induction xs with
  | nil => rfl
  | cons x xs ih =>
    simp only [allOk, h x (by simp)]
    exact ih fun y hy => h y (List.mem_cons_of_mem x hy)

theorem mapOk_ok {α β : Type} {xs : List α} {f : α → Except Stop β} {v : α → β} (h : ∀ x ∈ xs, f x = .ok (v x)) :
    mapOk xs f = .ok (xs.map v) := by
  induction xs with
  | nil => rfl
  | cons x xs ih =>
    simp only [mapOk, h x (by simp), ih fun y hy => h y (List.mem_cons_of_mem x hy)]
    rfl

/-- The word of a read-out's parameter (06 R165). -/
def readoutWord (acc tileBit t rowh colh code mode zr : Nat) : Nat :=
  acc + 2 ^ 3 * tileBit + 2 ^ 4 * t + 2 ^ 7 * rowh + 2 ^ 8 * colh + 2 ^ 9 * code + 2 ^ 14 * mode + 2 ^ 17 * zr

/-- The fields of a read-out's parameter. -/
theorem readoutWord_fields {v : Quad} {acc tileBit t rowh colh code mode zr : Nat} (hacc : acc < 8) (hbit : tileBit ≤ 1) (ht : t < 8)
    (hrowh : rowh ≤ 1) (hcolh : colh ≤ 1) (hcode : code < 32) (hmode : mode ≤ 4) (hzr : zr ≤ 1)
    (hv : v = BitVec.ofNat 128 (readoutWord acc tileBit t rowh colh code mode zr)) :
    qf v 0 3 = acc ∧ qf v 3 1 = tileBit ∧ qf v 4 3 = t ∧ qf v 7 1 = rowh ∧ qf v 8 1 = colh ∧ qf v 9 5 = code ∧
    qf v 14 3 = mode ∧ qf v 17 1 = zr ∧ qf v 18 110 = 0 := by
  have hval : v.toNat = readoutWord acc tileBit t rowh colh code mode zr := by
    rw [hv, BitVec.toNat_ofNat, readoutWord]
    omega
  simp only [qf, fld, hval, readoutWord]
  omega

@[simp] theorem updToken_cur (s : State) (c : CoreId) (wid : Nat) (t : Option (Fin 8)) (f : Token → Token) :
    (s.updToken c wid t f).cur = s.cur := by
  cases t with
  | none => rfl
  | some i =>
    simp only [State.updToken, State.updWork]
    split <;> rfl

@[simp] theorem newOp_cur (s : State) (token : Option (Fin 8)) (job : Job) (todo : List Piece) :
    (s.newOp token job todo).2.cur = s.cur := by
  simp only [State.newOp]
  split
  · rfl
  · exact updToken_cur ..

theorem source_srgen {x y : Strand} {i : Fin 64} {v : CVal} (h : x.source i = some (v, y)) : y.srgen = x.srgen := by
  obtain ⟨_, _, _, _, _, _, rfl⟩ := source_popped h
  rfl

/-- A strand after `n` draws from its generator (02 R62). -/
def Strand.drawn (x : Strand) (n : Nat) : Strand := { x with srgen := genAdvance x.srgen n }

/-- A read-out as the running strand issues it for its lease (06 R165). -/
def State.readoutOf (s : State) (l : Lease) (acc code mode zr : Nat) (dst : CVal) (tile : Option (Fin 8)) (rowh colh : Nat) :
    Readout :=
  { cluster := clusterOf s.cur.1, lease := l.id, acc := Fin.ofNat 8 acc, fmt := code, mode := mode, pitch := rd s.me.geo 6,
    dst := dst, tile := tile, win := none, rowh := rowh, colh := colh, srgen := s.me.srgen, zero := zr == 1, captured := false,
    rows := [], fl := 0 }

/-- What `mstat` gives: the lease's status bits, the array's log, or an accumulator's exponent. -/
def State.arrayStatus (s : State) (q : ClusterId) (l : Lease) (sel : Nat) : Dbl :=
  if sel = 0 then BitVec.ofNat 64 l.mstat
  else if sel ≤ 4 then ((s.cluster q).ecc[sel - 1]?).getD 0
  else if sel = 5 then BitVec.ofNat 64 (s.cluster q).eccOvf
  else ((rd l.acc (Fin.ofNat 8 (sel - 8))).x).signExtend 64

/-- What `mstat` clears: the lease's status bits, or with SYS the array's log. -/
def State.statusCleared (s : State) (sys : Bool) (q : ClusterId) (l : Lease) (sel clr : Nat) : State :=
  if clr = 1 ∧ sel = 0 then s.updLease q l.id (fun (l : Lease) => { l with mstat := 0 })
  else if clr = 1 ∧ sel ≤ 5 ∧ sys = true then s.updCluster q (fun (w : Cluster) => { w with ecc := [], eccOvf := 0 })
  else s

/-- The fields of the parameter of `mstat`. -/
theorem statusParam_fields {v : Quad} {sel clr : Nat} (hsel : sel ≤ 15) (hclr : clr ≤ 1)
    (hv : v = BitVec.ofNat 128 (sel + 256 * clr)) : qf v 0 8 = sel ∧ qf v 9 119 = 0 ∧ (v.getLsbD 8 = true ↔ clr = 1) := by
  have hval : v.toNat = sel + 256 * clr := by
    rw [hv, BitVec.toNat_ofNat]
    omega
  refine ⟨?_, ?_, ?_⟩
  · rw [qf, fld, hval]
    omega
  · rw [qf, fld, hval]
    omega
  · rw [BitVec.getLsbD, hval, Nat.testBit_eq_decide_div_mod_eq, decide_eq_true_eq]
    omega

section
variable {s s1 : State} {g k : Fin 8} {a b d : Fin 64} {c p : CVal} {x y z : Strand} {i : Nat} {l : Lease} {q : ClusterId}
  (hg : s.me.guard g = true) (htask : s.me.work.task = none) (hi : s.me.lease = some i) (hq : clusterOf s.cur.1 = q)
  (hl : (s.cluster (clusterOf s.cur.1)).lease i = some l)
include hg htask hi hl

/-! ### Fills (06 R158-R160) -/

theorem fill_of {slot : Bool} {f : FillPar} {rows : List FillRow} (hfree : s.engineFree = .ok ())
    (ha : s.me.source a = some (c, x)) (hb : x.source b = some (p, y)) (hf : f = FillPar.of p.val) (hok : f.ok slot = true)
    (hrows : (s.setMe y).rowsToFill slot f c = .ok (rows, s1))
    (hpair : slot = true ∨
      l.awaitsOther (Fin.ofNat 2 f.target) ((l.operand false (Fin.ofNat 8 f.target)).issued + 1) f.pair = false) :
    fillInstr slot g k a b s = .next (s.passedTo 4 (s1.newFill (some k) l
      { cluster := clusterOf s1.cur.1, lease := l.id, slot := slot, target := Fin.ofNat 8 f.target, num := 0, pair := f.pair,
        planes := f.planes + 1, rn := f.rn, koff := (s1.fillGeo slot).2.1, k := pairK f.pair, todo := rows, elems := [],
        bad := [] })) := by
  have hpair' : (slot ||
      !l.awaitsOther (Fin.ofNat 2 f.target) ((l.operand false (Fin.ofNat 8 f.target)).issued + 1) f.pair) = true := by
    rw [Bool.or_eq_true, Bool.not_eq_true']
    exact hpair
  refine issue_ok hg ?_
  simp only [noAwait_of_engineFree hfree, notSpec_ok htask, myLease_ok hi hl, hfree, useC_of_source ha, useC_setMe hb, bind,
    Except.bind, ← hf, need_true hok, hrows, need_true hpair']
  rfl

/-! ### Products (06 R161, R162) -/

section
include hq

theorem matrixCmd_of {fn n : Nat} {chain : Bool} {pr : Fin 32} {acc w : Fin 8} {h : Fin 2} {v : CVal}
    (hroom : l.cmds.length < 16) (hacc : acc.val < l.nacc) (hn : n = if chain then (rd s.me.geo 7).toNat else 1)
    (hslabs : ∀ sl ∈ l.slabs h w n, (rd l.slots sl.slot).issued ≠ 0 ∧ (rd l.slots sl.slot).pair = pr.val ∧
      (2 ≤ sl.j ∨ (rd l.halves sl.half).issued ≠ 0 ∧ (rd l.halves sl.half).pair = pr.val))
    (hscale : s.scaleOf d n = .ok v) :
    matrixCmd fn chain g pr acc h w d s = .next (s.passedTo 4
      (({ s with nextId := s.nextId + 1 } : State).queued q l (.mma s.nextId pr.val fn acc v (l.slabs h w n)))) := by
  have hfilled : (l.slabs h w n).all (fun sl =>
      (rd l.slots sl.slot).issued != 0 && (rd l.slots sl.slot).pair == pr.val &&
      (decide (2 ≤ sl.j) || ((rd l.halves sl.half).issued != 0 && (rd l.halves sl.half).pair == pr.val))) = true := by
    simpa [and_assoc] using hslabs
  have hqueue := queueCmd_ok (s := { s with nextId := s.nextId + 1 }) hq hroom (.mma s.nextId pr.val fn acc v (l.slabs h w n))
  refine issue_ok hg ?_
  simp only [notSpec_ok htask, myLease_ok hi hl, bind, Except.bind, need_true (decide_eq_true hacc), ← hn, need_true hfilled, hscale]
  exact hqueue

/-! ### Zeroing and read-outs (06 R164, R165) -/

theorem mzero_of {acc : Fin 8} (hroom : l.cmds.length < 16) (hacc : acc.val < l.nacc) :
    exec (.mzero g acc) s = .next (s.passedTo 4 (s.queued q l (.mzero acc))) := by
  refine exec_mzero.trans (issue_ok hg ?_)
  simp only [notSpec_ok htask, myLease_ok hi hl, bind, Except.bind, need_true (decide_eq_true hacc), queueCmd_ok hq hroom]

section
variable {acc code mode zr : Nat} {fmt : Fmt} (hfree : s.engineFree = .ok ()) (hroom : l.cmds.length < 16) (hacc : acc < l.nacc)
  (h8 : acc < 8) (hfmt : Fmt.ofCode code = some fmt) (hcode : code ≤ 15 ∨ code = 20 ∨ code = 21) (hmode : mode ≤ 4) (hzr : zr ≤ 1)
include hfree hroom hacc h8 hfmt hcode hmode hzr

/-- A read-out to memory, its rows in bounds. -/
theorem mrd_memory {al : Nat} (ha : s.me.source a = some (c, x)) (hb : x.source b = some (p, y))
    (hp : p.val = BitVec.ofNat 128 (readoutWord acc 0 0 0 0 code mode zr)) (hal : al = if code = 21 then 8 else 4)
    (hpitch : (rd s.me.geo 6).toNat % al = 0)
    (hmay : ∀ r < 64, s.mayAccess c [.st, .eng] (c.addr + BitVec.ofNat 64 r * rd s.me.geo 6) (8 * fmt.bits) al) :
    exec (.mrd g k 0 a b) s = .next (s.passedTo 4 ((((s.setMe y).updMe
      (·.drawn (if mode = 4 ∧ code ≠ 21 then 4096 else 0))).newOp (some k)
        (.readout (s.readoutOf l acc code mode zr c none 0 0)) []).2.queued q l (.mrd s.nextId (Fin.ofNat 8 acc)))) := by
  obtain ⟨qacc, qbit, -, qrowh, qcolh, qcode, qmode, qzr, qrest⟩ := readoutWord_fields h8 (Nat.zero_le 1) (by decide : 0 < 8)
    (Nat.zero_le 1) (Nat.zero_le 1) (by omega : code < 32) hmode hzr hp
  have hmine : (Fin.ofNat 8 acc).val < l.nacc := by rwa [Fin.val_ofNat, Nat.mod_eq_of_lt h8]
  have hvalues : (qf p.val 18 110 == 0 && (decide (code ≤ 15) || code == 20 || code == 21) && decide (mode ≤ 4)) = true := by
    simp [qrest, hmode, hcode, or_assoc]
  have hmemory : (qf p.val 3 1 == 1) = false := by rw [qbit]; rfl
  have hplace : need ((0 : Fin 16) == 0 && (0 : Nat) == 0 && (0 : Nat) == 0) .ill = .ok () := rfl
  have hgeo : rd y.geo 6 = rd s.me.geo 6 := by rw [source_geo hb, source_geo ha]
  have hsrgen : y.srgen = s.me.srgen := by rw [source_srgen hb, source_srgen ha]
  have hrows : allOk (List.range 64) (fun i =>
      (s.setMe y).checkAccess c [.st, .eng] (c.addr + BitVec.ofNat 64 i * rd s.me.geo 6) (8 * fmt.bits) al) = .ok () :=
    allOk_ok fun i hi => checkAccess_ok (mayAccess_setMe.mpr (hmay i (List.mem_range.mp hi)))
  have hfull : ¬ 16 ≤ l.cmds.length := by omega
  refine exec_mrd.trans (issue_ok hg ?_)
  simp only [noAwait_of_engineFree hfree, notSpec_ok htask, myLease_ok hi hl, hfree, useC_of_source ha, useC_setMe hb, bind,
    Except.bind, qacc, qcode, qmode, hmemory, need_true (decide_eq_true hmine), need_true hvalues, hfmt, Option.getD_some,
    Bool.false_eq_true, if_false, hplace, Bool.not_false, if_true, me_setMe, hgeo, hsrgen, ← hal,
    need_true (beq_iff_eq.mpr hpitch), hrows, hfull, qrowh, qcolh, qzr, newOp_id]
  exact queueCmd_ok (by rw [newOp_cur]; exact hq) hroom _

/-- A read-out to a tile register that the strand holds. -/
theorem mrd_tile {t rowh colh : Nat} (hb : s.me.source b = some (p, x)) (ht : t < 8) (hrowh : rowh ≤ 1) (hcolh : colh ≤ 1)
    (hraw : code ≠ 21) (hwide : colh = 0 ∨ fmt.bits = 32)
    (hp : p.val = BitVec.ofNat 128 (readoutWord acc 1 t rowh colh code mode zr))
    (hholds : (s.tile (Fin.ofNat 8 t)).holder = some s.cur.2) :
    exec (.mrd g 0 0 0 b) s = .next (s.passedTo 4 ((((s.setMe x).updMe (fun (w : Strand) =>
      (w.drawn (if mode = 4 then 32 * (if fmt.bits = 32 then 32 else 64) else 0)).dropWin (.t (Fin.ofNat 8 t)))).newOp none
        (.readout (s.readoutOf l acc code mode zr .null (some (Fin.ofNat 8 t)) rowh colh)) []).2.queued q l
          (.mrd s.nextId (Fin.ofNat 8 acc)))) := by
  obtain ⟨qacc, qbit, qtile, qrowh, qcolh, qcode, qmode, qzr, qrest⟩ := readoutWord_fields h8 (Nat.le_refl 1) ht hrowh hcolh
    (by omega : code < 32) hmode hzr hp
  have hnull : s.me.source 0 = some (.null, s.me) := if_pos rfl
  have hmine : (Fin.ofNat 8 acc).val < l.nacc := by rwa [Fin.val_ofNat, Nat.mod_eq_of_lt h8]
  have hvalues : (qf p.val 18 110 == 0 && (decide (code ≤ 15) || code == 20 || code == 21) && decide (mode ≤ 4)) = true := by
    simp [qrest, hmode, hcode, or_assoc]
  have htile : (qf p.val 3 1 == 1) = true := by rw [qbit]; rfl
  have hplace : (code != 21 && true && true && (colh == 0 || fmt.bits == 32)) = true := by
    simp [hraw, hwide]
  have hheld : ((s.setMe x).tile (Fin.ofNat 8 t)).holder = some s.cur.2 := by
    rw [State.tile, myCore_setMe_t]
    exact hholds
  have hcur : (s.setMe x).cur = s.cur := rfl
  have hgeo : rd x.geo 6 = rd s.me.geo 6 := by rw [source_geo hb]
  have hfull : ¬ 16 ≤ l.cmds.length := by omega
  refine exec_mrd.trans (issue_ok hg ?_)
  simp only [noAwait_of_engineFree hfree, notSpec_ok htask, myLease_ok hi hl, hfree, useC_of_source hnull, useC_setMe hb, bind,
    Except.bind, qacc, qtile, qcode, qmode, htile, need_true (decide_eq_true hmine), need_true hvalues, hfmt, Option.getD_some,
    if_true, qcolh, need_true hplace, hheld, hcur, BEq.rfl, Bool.true_or, need_true rfl, me_setMe, hgeo, source_srgen hb,
    hfull, if_false, qrowh, qzr, newOp_id, hraw, ne_eq, not_false_eq_true, and_true, State.writesTile, updMe_eq, setMe_setMe, Strand.drawn, Bool.not_true,
    Bool.false_eq_true]
  exact queueCmd_ok (by rw [newOp_cur]; exact hq) hroom _

end

/-! ### The array's status (06 R166) -/

theorem mstat_of {sel clr : Nat} (ha : s.me.source a = some (p, x)) (hsel : sel ≤ 5 ∨ 8 ≤ sel ∧ sel < 8 + l.nacc ∧ sel ≤ 15)
    (hclr : clr ≤ 1) (hp : p.val = BitVec.ofNat 128 (sel + 256 * clr)) (hidle : l.cmds = []) (hfills : s.fillsOf q l.id = false)
    (hz : ((s.setMe x).statusCleared (s.me.pcc.has .sys) q l sel clr).me.result d
      (.plain ((s.arrayStatus q l sel).setWidth 128)) = some z) :
    exec (.mstat g d a) s =
      .next (s.passedTo 4 (((s.setMe x).statusCleared (s.me.pcc.has .sys) q l sel clr).setMe z)) := by
  obtain ⟨qsel, qrest, qclr⟩ := statusParam_fields (by omega : sel ≤ 15) hclr hp
  have hvalues : (qf p.val 9 119 == 0 && (decide (sel ≤ 5) || (decide (8 ≤ sel) && decide (sel ≤ 15)))) = true := by
    simp [qrest]
    omega
  have hmine : (decide (sel < 8) || decide (sel - 8 < l.nacc)) = true := by
    simp
    omega
  have hcur : (s.setMe x).cur = s.cur := rfl
  have hlanded : (s.setMe x).fillsOf q l.id = false := hfills
  have hsys : (s.setMe x).mySys = s.me.pcc.has .sys := by rw [State.mySys, me_setMe, source_pcc ha]
  refine exec_mstat.trans (issue_ok hg ?_)
  simp only [notSpec_ok htask, myLease_ok hi hl, useC_of_source ha, bind, Except.bind, qsel, need_true hvalues, need_true hmine,
    hcur, hq, hlanded, hidle, List.isEmpty_nil, Bool.not_true, Bool.false_eq_true, or_self, if_false, qclr, hsys, List.length_nil,
    Nat.mul_zero, Nat.add_zero]
  exact putX_of_result hz

end
end

/-! ### The rows of a fill from plain elements (06 R158, R159) -/

/-- Every range of a plain row is of its own capability. -/
theorem fillSegs_plain_cap {fmt : Fmt} {koff k n : Nat} {rn : Bool} {c : CVal} {va : Dbl} :
    ∀ q ∈ fillSegs fmt koff k n rn (.plain c va), q.1 = c := by
  intro q hq
  rw [fillSegs] at hq
  split at hq
  · rw [List.mem_singleton.mp hq]
  · obtain ⟨r, -, hr⟩ := List.mem_flatMap.mp hq
    rcases List.mem_pair.mp hr with rfl | rfl <;> rfl

/-- Row `i` of a fill from plain elements: the pitch times its number past the capability's address. -/
def State.plainRow (s : State) (slot : Bool) (p : FillPar) (c : CVal) (i : Nat) : FillRow :=
  .plain c (c.addr + BitVec.ofNat 64 (s.rowNumber p i * (s.fillGeo slot).1))

section
variable {s : State} {slot : Bool} {p : FillPar} {c : CVal} (htag : c.tag = true) (hperms : c.hasAll [.ld, .eng] = true)
  (hloc : c.has .local = true)
  (hin : ∀ i < p.count, ∀ q ∈ fillSegs (sideOf p.pair slot) (s.fillGeo slot).2.1 (pairK p.pair) 1 false (s.plainRow slot p c i),
    c.inBounds q.2.1.toNat q.2.2 = true)
include htag hperms hloc hin

theorem plainRows_of : s.plainRows slot p c = .ok ((List.range p.count).map (s.plainRow slot p c), s) := by
  have hinside : ∀ i ∈ List.range p.count, (fillSegs (sideOf p.pair slot) (s.fillGeo slot).2.1 (pairK p.pair) 1 false
      (s.plainRow slot p c i)).find? (fun q => !c.inBounds q.2.1.toNat q.2.2) = none := fun i hi =>
    List.find?_eq_none.mpr fun q hq => by rw [hin i (List.mem_range.mp hi) q hq]; decide
  have hchecks : allOk ((List.range p.count).map (s.plainRow slot p c)) (fun r =>
      allOk (fillSegs (sideOf p.pair slot) (s.fillGeo slot).2.1 (pairK p.pair) 1 false r)
        (fun q => s.checkAccess c [.ld, .eng] q.2.1 q.2.2 1)) = .ok () := by
    refine allOk_ok fun r hr => ?_
    obtain ⟨i, hi, rfl⟩ := List.mem_map.mp hr
    exact allOk_ok fun q hq => checkAccess_ok
      ⟨htag, hperms, Nat.mod_one _, hin i (List.mem_range.mp hi) q hq, .inr (.inl hloc)⟩
  unfold State.plainRows
  simp only [bind, Except.bind]
  rw [mapOk_ok (v := s.plainRow slot p c)]
  · simp only [hchecks]
    rfl
  · intro i hi
    have hnone := hinside i hi
    simp only [State.plainRow] at hnone
    simp only [hnone]
    rfl

theorem rowsToFill_plain (hquire : c.has .quire = false) (hplanes : p.planes = 0)
    (hoff : if (sideOf p.pair slot).dBits.isSome then (s.fillGeo slot).2.1 % 32 = 0
      else (s.fillGeo slot).2.1 * (sideOf p.pair slot).bits % 32 = 0) :
    s.rowsToFill slot p c = .ok ((List.range p.count).map (s.plainRow slot p c), s) := by
  have hvalues : (p.planes == 0 && (if (sideOf p.pair slot).dBits.isSome then (s.fillGeo slot).2.1 % 32 == 0
      else (s.fillGeo slot).2.1 * (sideOf p.pair slot).bits % 32 == 0)) = true := by
    rw [hplanes, BEq.rfl, Bool.true_and]
    split_ifs at hoff ⊢ <;> exact beq_iff_eq.mpr hoff
  have hsram : (slot || ((List.range p.count).map (s.plainRow slot p c)).all (fun x =>
      (fillSegs (sideOf p.pair slot) (s.fillGeo slot).2.1 (pairK p.pair) (p.planes + 1) p.rn x).all
        (fun q => q.1.has .local || df q.2.1 56 8 == 1))) = true := by
    have hall : ∀ r ∈ (List.range p.count).map (s.plainRow slot p c),
        ∀ q ∈ fillSegs (sideOf p.pair slot) (s.fillGeo slot).2.1 (pairK p.pair) (p.planes + 1) p.rn r, q.1.has .local = true := by
      intro r hr q hq
      obtain ⟨i, -, rfl⟩ := List.mem_map.mp hr
      rw [fillSegs_plain_cap q hq, hloc]
    rw [Bool.or_eq_true, List.all_eq_true]
    exact .inr fun r hr => List.all_eq_true.mpr fun q hq => by rw [hall r hr q hq, Bool.true_or]
  unfold State.rowsToFill
  simp only [bind, Except.bind, need_true htag, need_true hperms, hquire, Bool.false_eq_true, if_false, need_true hvalues,
    plainRows_of htag hperms hloc hin, need_true hsram]
  rfl

end

/-- Settles O24. -/
theorem arrayCommandsAreIssued : Obligations.ArrayCommandsAreIssued := by
  refine ⟨?_, ?_⟩
  · intro s g k a b d c p x y z i l hg htask hi hl q queued out
    refine ⟨?_, fun hroom => ⟨?_, ?_, ?_⟩, ?_⟩
    · intro hfree ha hb
      refine forall_mem_of_imp (fun t => exec t.1 s = fillInstr t.2 g k a b s) ?_ ?_
      · simp only [List.forall_mem_cons]
        exact ⟨rfl, rfl, by simp⟩
      · intro t he f rows s1 hok hrows hpair
        exact he.trans (fill_of hg htask hi hl hfree ha hb rfl hok hrows hpair)
    · intro pr acc w h hacc
      refine forall_mem_of_imp (fun t => ∃ chain, exec t.1 s = matrixCmd t.2.1 chain g pr acc h w d s ∧
        t.2.2 = if chain then (rd s.me.geo 7).toNat else 1) ?_ ?_
      · simp only [List.forall_mem_cons]
        exact ⟨⟨false, rfl, rfl⟩, ⟨false, rfl, rfl⟩, ⟨false, rfl, rfl⟩, ⟨true, rfl, rfl⟩, ⟨true, rfl, rfl⟩, ⟨true, rfl, rfl⟩, by simp⟩
      · rintro t ⟨chain, he, hn⟩ slabs hslabs v hscale
        exact he.trans (matrixCmd_of hg htask hi rfl hl hroom hacc hn hslabs hscale)
    · exact fun acc hacc => mzero_of hg htask hi rfl hl hroom hacc
    · intro hfree acc code mode zr fmt hacc h8 hfmt hcode hmode hzr
      refine ⟨?_, ?_⟩
      · intro hp ha hb al hpitch hmay s1
        exact mrd_memory hg htask hi rfl hl hfree hroom hacc h8 hfmt hcode hmode hzr ha hb (by simpa [readoutWord] using hp) rfl
          hpitch hmay
      · intro t rowh colh hb ht hrowh hcolh hraw hwide hp hholds s1
        exact mrd_tile hg htask hi rfl hl hfree hroom hacc h8 hfmt hcode hmode hzr hb ht hrowh hcolh hraw hwide
          (by simpa [readoutWord] using hp) hholds
    · intro ha sel clr hsel hclr hp hidle hfills r s1 hz
      exact mstat_of hg htask hi rfl hl ha hsel hclr hp hidle hfills hz
  · intro s slot p c htag hperms hquire hloc fmt geo hplanes hoff row hin
    exact rowsToFill_plain htag hperms hloc hin hquire hplanes hoff

end Sys2Proof.Machine
end

section
/-! PROOF. The machine after reset (07 R203; 09 R215, R217, R228; 11 R245; 22 R391; log entries 1, 2). -/

namespace Sys2Proof.Machine

theorem rd_replicate {α : Type} {n : Nat} (x : α) (i : Fin n) : rd (Vector.replicate n x) i = x := by simp [rd]

theorem core_reset (c : CoreId) : State.reset.core c = .reset := rd_replicate ..

theorem strand_reset (c : CoreId) (k : SlotId) : State.reset.strand c k = .reset := by
  rw [State.strand, core_reset]
  exact rd_replicate ..

theorem cluster_reset (q : ClusterId) : State.reset.cluster q = .reset := rd_replicate ..

theorem creg_strandReset (i : Fin 64) : Strand.reset.creg i = .null := by
  unfold Strand.creg
  split
  · rfl
  · exact rd_replicate ..

/-- Settles O49. -/
theorem resetState : Obligations.ResetState := by
  refine ⟨rfl, rfl, rfl, rfl, rfl, rfl, rfl, rfl, rfl, rfl, rfl, rfl, rfl, fun c => ?_, fun c k => ?_, fun q => ?_,
    fun k => ?_, fun d => ?_⟩
  · have hchan : ∀ i, rd Core.reset.chan i = .reset := fun i => rd_replicate ..
    simp only [core_reset, hchan]
    exact ⟨rfl, rfl, rfl, rfl, rfl, fun _ => ⟨rfl, by decide⟩⟩
  · rw [strand_reset]
    exact ⟨rfl, rfl, creg_strandReset⟩
  · rw [cluster_reset]
    exact ⟨rfl, rfl, rfl⟩
  · exact congrArg Win.st (rd_replicate ..)
  · exact congrArg Domain.grid (rd_replicate ..)

end Sys2Proof.Machine
end

section
/-! PROOF. `tlbi`, its acknowledgement at each interface, and walks that fill a TLB (07 R206; 20 R362, R363; 21 R375). -/

namespace Sys2Proof.Machine

/-- The interface's own entries after they have been set. -/
theorem tlb_setTlb (s : State) (ni : Fin 400) (t : List TlbEntry) : (s.setTlb ni t).tlb ni = t := by
  by_cases h : ni.val < 16
  · simp [State.tlb, State.setTlb, homeOfNi, h, State.updHome]
  · simp [State.tlb, State.setTlb, homeOfNi, coreOfNi, h, Nat.le_of_not_lt h, State.updCore, State.setCore, State.core]

/-- An interface's entries depend on the homes' and the cores' entries alone. -/
theorem tlb_congr {s t : State} (hh : t.homes = s.homes) (hc : ∀ c, (t.core c).tlb = (s.core c).tlb) (ni : Fin 400) :
    t.tlb ni = s.tlb ni := by
  simp only [State.tlb, hh, hc]

theorem tlb_invalidateAt (s : State) (ni : Fin 400) (i : Inval) :
    (s.invalidateAt ni i).tlb ni = (s.tlb ni).filter (fun e => !i.drops e) := by
  refine Eq.trans (tlb_congr ?_ (fun c => ?_) ni) (tlb_setTlb s ni ((s.tlb ni).filter (fun e => !i.drops e)))
  · rfl
  · simp only [State.invalidateAt, State.core, rd_vofFn]
    exact (apply_ite Core.tlb _ _ _).trans (ite_self _)

/-- What an interface keeps, the request does not name. -/
theorem not_drops_of_mem_invalidateAt {s : State} {ni : Fin 400} {i : Inval} :
    ∀ e ∈ (s.invalidateAt ni i).tlb ni, i.drops e = false := by
  intro e he
  rw [tlb_invalidateAt, List.mem_filter] at he
  simpa using he.2

/-- `tlbi` starts its operation and asks every interface (07 R206). -/
theorem tlbi_of {s : State} {g k : Fin 8} {a b : Fin 64} {u v : CVal} {x y : Strand} (hg : s.me.guard g = true)
    (ha : s.me.source a = some (u, x)) (hb : x.source b = some (v, y)) (hsys : s.me.pcc.has .sys = true)
    (hawait : s.me.await = none) (htask : s.me.work.task = none) (hv : qf v.val 18 110 = 0)
    (hfree : (s.setMe y).engineFree = .ok ()) :
    let r := (s.setMe y).newOp (some k) (.tlbi u.addr (BitVec.ofNat 64 (qf u.val 64 64)) (BitVec.ofNat 16 (qf v.val 0 16))
      (v.val.getLsbD 16) (v.val.getLsbD 17)) []
    exec (.tlbi g k a b) s =
      .next (s.passedTo 4 ((List.finRange 400).foldl (fun (s : State) ni => s.post 100 (.tlbiAck r.1 ni)) r.2)) := by
  refine exec_tlbi.trans (issue_ok hg ?_)
  have hsys' : (s.setMe y).mySys = true := by
    rw [State.mySys, me_setMe, source_pcc hb, source_pcc ha]
    exact hsys
  have htask' : (s.setMe y).me.work.task = none := by rw [me_setMe, source_work hb, source_work ha, htask]
  simp only [noAwait_ok hawait, useC_of_source ha, useC_setMe hb, need_true hsys', notSpec_ok htask',
    need_true (beq_iff_eq.mpr hv), hfree, bind, Except.bind]
  rfl

/-- Settles O40. -/
theorem invalidationIsAcknowledged : Obligations.InvalidationIsAcknowledged := by
  unfold Obligations.InvalidationIsAcknowledged
  intro s g k a b u v x y id ni o
  refine ⟨fun hg ha hb hsys hawait htask hv hfree => tlbi_of hg ha hb hsys hawait htask hv hfree, fun h => ?_,
    fun va len asid all glob ho hj => ?_, fun asid va e s1 hni hw => ?_, fun asid va e s1 hw => ?_, fun asid va hni => ?_⟩
  · simp only [exec_tlbiAck, execTlbiAck, h]
  · simp only [exec_tlbiAck, execTlbiAck, ho, hj]
    refine ⟨fun hnew hbusy => ?_, fun hnew hq hsp hlen => ?_, fun hnew hq hsp hlen => ?_,
      not_drops_of_mem_invalidateAt⟩
    · simp only [hnew, Bool.false_eq_true, if_false]
      exact if_pos (by simpa using hbusy)
    · simp only [hnew, hq, hsp, hlen, Bool.not_true, Bool.false_eq_true, or_self, if_false]
    · simp only [hnew, hq, hsp, hlen, Bool.not_true, Bool.false_eq_true, or_self, if_false, if_true]
  · simp [execTranslationWalk, hni, hw]
  · simp [execTranslationWalk, hw]
  · simp [execTranslationWalk, hni]

end Sys2Proof.Machine
end

section
/-! PROOF. Tokens read and waited for, and handed-back remainders that go on (07 R196, R197). -/

namespace Sys2Proof.Machine

theorem myCore_setMe_hback (s : State) (y : Strand) : (s.setMe y).myCore.hback = s.myCore.hback := by
  simp [State.myCore, State.setMe, State.setStrand]

/-- Bit `i` of a number, as a field. -/
theorem fld_bit (n i : Nat) : (fld n i 1 == 1) = n.testBit i := by
  rw [Nat.testBit_eq_decide_div_mod_eq, Bool.eq_iff_iff]
  simp [fld]

section
variable {s : State} {g k : Fin 8} {d b : Fin 64} {v : CVal} {x z : Strand}

theorem ttest_of (hg : s.me.guard g = true) (hb : s.me.source b = some (v, x))
    (hz : Strand.result (if v.addr.getLsbD 0 then { x with tok := wr x.tok k { Token.zero with out := (rd x.tok k).out } } else x) d
      (.plain (BitVec.ofNat 128 ((rd x.tok k).word (s.hbackOf s.cur.1 x.work.wid k)))) = some z) :
    exec (.ttest g d k b) s = .next (s.passed 4 z) := by
  refine exec_ttest.trans (issue_me hg ?_)
  simp only [useX_of_source hb, bind, Except.bind, me_setMe, setMe_cur]
  split at hz
  · rename_i hclear
    simp only [hclear, if_true, updMe_eq, me_setMe, setMe_setMe]
    exact putC_setMe hz
  · rename_i hclear
    simp only [hclear]
    exact putC_setMe hz

theorem twait_of {m : Fin 256} (hg : s.me.guard g = true) (h : ∀ i : Fin 8, m.val.testBit i.val = true → (rd s.me.tok i).out = 0) :
    exec (.twait g m) s = .next (s.passed 4 s.me) := by
  refine exec_twait.trans (issue_me hg ?_)
  have hall : (List.finRange 8).all (fun k => fld m.val k.val 1 == 0 || (rd s.me.tok k).out == 0) = true := by
    refine List.all_eq_true.mpr fun i _ => ?_
    by_cases hi : m.val.testBit i.val = true
    · simp [h i hi]
    · have hbit : fld m.val i.val 1 ≠ 1 := fun e => hi (by rw [← fld_bit, e]; rfl)
      have hlt : fld m.val i.val 1 < 2 := Nat.mod_lt _ (by decide)
      have : fld m.val i.val 1 = 0 := by omega
      simp [this]
  rw [if_pos hall, setMe_me]

theorem xresume_of {o : Op} {i : Fin 16} (hg : s.me.guard g = true) (hawait : s.me.await = none) (hb : s.me.source b = some (v, x))
    (hi : Fin.ofNat 16 (df v.addr 0 4) = i) (ho : (rd s.myCore.hback i).op.bind s.op = some o)
    (hgen : (rd s.myCore.hback i).gen.toNat = df v.addr 16 16) (hasid : o.asid = s.me.asid) :
    exec (.xresume g b) s = .next (s.passedTo 4 (((s.setMe x).updCore s.cur.1 (fun (c : Core) =>
      { c with hback := wr c.hback i { gen := (rd s.myCore.hback i).gen, op := none } })).resumeOp o)) := by
  refine exec_xresume.trans (issue_ok hg ?_)
  have hop : (s.setMe x).op = s.op := rfl
  have hcheck : (decide ((rd s.myCore.hback i).gen.toNat = df v.addr 16 16) && o.asid == (s.setMe x).me.asid) = true := by
    rw [me_setMe, source_asid hb]
    simp [hgen, hasid]
  simp only [hawait, Option.isNone_none, need_true, useX_of_source hb, bind, Except.bind, hi, myCore_setMe_hback, hop, ho, hcheck]
  rfl

end

/-- Settles O18. -/
theorem tokensAndResumption : Obligations.TokensAndResumption := by
  unfold Obligations.TokensAndResumption
  intro s g k d b m v x o z hg
  refine ⟨fun hb hz => ttest_of hg hb hz, twait_of hg, fun hawait hb hop hgen hasid => ?_⟩
  have hindex : df v.addr 0 4 = v.addr.toNat % 16 := by simp [df, fld]
  exact xresume_of hg hawait hb (by rw [hindex]) hop hgen hasid

end Sys2Proof.Machine
end

section
/-! PROOF. Snapshots, halts and protection regions (07 R207; 21 R368, R388-R390; log entries 30, 56). -/

namespace Sys2Proof.Machine

/-- An instruction that leaves only its own strand changed. -/
theorem passedTo_setMe (s : State) (n : Nat) (x : Strand) : s.passedTo n (s.setMe x) = s.passed n x := by
  simp [State.passedTo, State.passed]

/-! ### The snapshot trigger (21 R389) -/

section
variable {s : State} {src : Nat} {id : BitVec 16} {force : Bool}

theorem trigger_latches (h : s.house.snapctl.getLsbD 8 = true) (hs : force = true ∨ s.house.snapctl.getLsbD src = true) :
    s.trigger src id force = s.latch id := if_pos ⟨h, hs⟩

theorem trigger_unarmed (h : s.house.snapctl.getLsbD 8 = false) : s.trigger src id force = s :=
  if_neg fun ⟨h8, _⟩ => by rw [h] at h8; cases h8

theorem trigger_disabled (h : s.house.snapctl.getLsbD src = false) : s.trigger src id false = s :=
  if_neg fun ⟨_, hs⟩ => by simp [h] at hs

end

section
variable {s : State} {g : Fin 8} {a : Fin 64} {v : CVal} {x : Strand}

theorem mySys_source {i : Fin 64} (ha : s.me.source i = some (v, x)) (hsys : s.me.pcc.has .sys = true) :
    (s.setMe x).mySys = true := by
  rw [State.mySys, me_setMe, source_pcc ha, hsys]

theorem snap_of (hg : s.me.guard g = true) (ha : s.me.source a = some (v, x)) (hsys : s.me.pcc.has .sys = true) :
    exec (.snap g a) s = .next (s.passedTo 4 ((s.setMe x).trigger 0 (BitVec.ofNat 16 (qf v.val 0 16)) true)) := by
  refine exec_snap.trans (issue_ok hg ?_)
  simp only [useC_of_source ha, bind, Except.bind, need_true (mySys_source ha hsys)]
  rfl

theorem freeze_of (hg : s.me.guard g = true) (ha : s.me.source a = some (v, x)) (hsys : s.me.pcc.has .sys = true) :
    exec (.freeze g a) s = .next (s.passedTo 4 (if v.val.getLsbD 0
      then ((s.setMe x).trigger 0 0xFFFC true).updHouse (fun (h : House) => { h with frozen := true })
      else (s.setMe x).updHouse (fun (h : House) => { h with frozen := false }))) := by
  refine exec_freeze.trans (issue_ok hg ?_)
  simp only [useC_of_source ha, bind, Except.bind, need_true (mySys_source ha hsys)]
  split <;> rfl

end

/-! ### Cores halted and released (21 R388) -/

section
variable {s : State} {c : CoreId}

@[simp] theorem core_postOnce (s : State) (d : Nat) (e : Instr) (c : CoreId) : (s.postOnce d e).core c = s.core c := by
  unfold State.postOnce
  split <;> rfl

theorem haltCore_strand (s : State) (c : CoreId) (k : SlotId) : ((s.haltCore c).strand c k).st = .halted := by
  rw [State.strand, State.haltCore, updCore_core_same]
  simp only [Core.strand, rd_vmap]
  split
  · assumption
  · rfl

theorem haltCore_flags (s : State) (c : CoreId) : ((s.haltCore c).core c).dbgHalt = (s.core c).dbgHalt ∧
    ((s.haltCore c).core c).dbgQuiesce = (s.core c).dbgQuiesce := by
  rw [State.haltCore, updCore_core_same]
  exact ⟨rfl, rfl⟩

theorem resumeCore_core (h : (s.core c).held = false) : (s.resumeCore c).core c =
    { s.core c with strands := vmap (fun (y : Strand) =>
        if y.st = .halted then { y with st := y.halt.getD .dormant, halt := none } else y) (s.core c).strands } := by
  simp only [State.resumeCore, h, Bool.false_eq_true, if_false, State.offer, core_postOnce, updCore_core_same]

theorem debugHalt_halts : ∃ t, exec (.debugHalt c) s = .next t ∧ (t.core c).dbgHalt = true ∧ ∀ k, (t.strand c k).st = .halted := by
  refine ⟨_, exec_debugHalt, ?_, haltCore_strand _ c⟩
  rw [(haltCore_flags _ c).1, updCore_core_same]

theorem quiesceRequest_halts :
    ∃ t, exec (.quiesceRequest c) s = .next t ∧ (t.core c).dbgQuiesce = true ∧ ∀ k, (t.strand c k).st = .halted := by
  refine ⟨_, exec_quiesceRequest, ?_, fun k => ?_⟩
  · rw [State.setQuiesce, if_pos rfl, core_postOnce, (haltCore_flags _ c).2, updCore_core_same]
  · rw [State.setQuiesce, if_pos rfl, State.strand, core_postOnce]
    exact haltCore_strand _ c k

theorem debugRelease_resumes : ∃ t, exec (.debugRelease c) s = .next t ∧ (t.core c).dbgHalt = false ∧
    (t.core c).dbgQuiesce = false ∧ (t.core c).quiesced = false ∧
    ∀ k, (t.strand c k).st = if (s.strand c k).st = .halted then (s.strand c k).halt.getD .dormant else (s.strand c k).st := by
  let s1 := s.updCore c (fun (x : Core) => { x with dbgHalt := false, dbgQuiesce := false, quiesced := false })
  have hs1 : s1.core c = { s.core c with dbgHalt := false, dbgQuiesce := false, quiesced := false } := updCore_core_same ..
  have hcore := resumeCore_core (s := s1) (c := c) (by rw [hs1]; rfl)
  rw [hs1] at hcore
  refine ⟨_, exec_debugRelease, congrArg Core.dbgHalt hcore, congrArg Core.dbgQuiesce hcore, congrArg Core.quiesced hcore, fun k => ?_⟩
  have hstrand := congrArg (fun (x : Core) => (x.strand k).st) hcore
  refine hstrand.trans ?_
  simp only [Core.strand, rd_vmap, State.strand]
  exact apply_ite Strand.st _ _ _

theorem quiesceComplete_of (hq : (s.core c).dbgQuiesce = true) (hn : (s.core c).quiesced = false) :
    exec (.quiesceComplete c) s = .next (if (s.core c).wpath.isEmpty && !s.parked.any (fun p => p.core == c && !p.d) &&
        s.ops.all (fun (o : Op) => o.core != c || o.handed.isSome)
      then s.updCore c (fun (x : Core) => { x with quiesced := true }) else s.post 100 (.quiesceComplete c)) := by
  simp only [exec_quiesceComplete, execQuiesceComplete, hq, hn, Bool.not_true, Bool.false_eq_true, or_self, if_false,
    Bool.and_eq_true, Bool.not_eq_true', and_assoc]
  split <;> simp_all

end

/-! ### Protection regions (21 R368) -/

section
variable {s : State} {c : CoreId} {i : Fin 16} {w : Quad}

theorem setProt_region (s : State) (c : CoreId) (i : Fin 16) (w : Quad) : rd ((s.setProt c i w).core c).prot i = w := by
  rw [State.setProt, updCore_core_same]
  exact rd_wr_same ..

theorem clearRange_outside (s : State) (lo hi : Nat) : (∀ p ∈ (s.clearRange lo hi).mem, p.1 < lo ∨ hi ≤ p.1) ∧
    ∀ n ∈ (s.clearRange lo hi).tags, 16 * n < lo ∨ hi ≤ 16 * n := by
  refine ⟨fun p hp => ?_, fun n hn => ?_⟩
  · have := (List.mem_filter.mp hp).2
    simp only [Bool.not_eq_true', Bool.and_eq_false_iff, decide_eq_false_iff_not] at this
    omega
  · have := (List.mem_filter.mp hn).2
    simp only [Bool.not_eq_true', Bool.and_eq_false_iff, decide_eq_false_iff_not] at this
    omega

theorem protRegionEnable_clears (hok : protOk (rd (s.core c).prot i) w = true) (hold : protV (rd (s.core c).prot i) = false)
    (hnew : protV w = true) : ∃ t, exec (.protRegionEnable c i w) s = .next t ∧ rd (t.core c).prot i = w ∧
      (∀ p ∈ t.mem, p.1 < slicePhys c (4096 * qf w 0 9) ∨ slicePhys c (4096 * (qf w 16 9 + 1)) ≤ p.1) ∧
      (∀ n ∈ t.tags, 16 * n < slicePhys c (4096 * qf w 0 9) ∨ slicePhys c (4096 * (qf w 16 9 + 1)) ≤ 16 * n) := by
  refine ⟨s.setProt c i w, ?_, setProt_region s c i w, ?_⟩
  · simp [execProtRegionEnable, hok, hold, hnew]
  · have hcleared : s.setProt c i w = (s.clearRange (slicePhys c (4096 * qf w 0 9)) (slicePhys c (4096 * (qf w 16 9 + 1)))).updCore c
        (fun (y : Core) => { y with prot := wr y.prot i w }) := by
      simp [State.setProt, hold, hnew]
    rw [hcleared]
    exact clearRange_outside ..

theorem protRegionDisable_of (hok : protOk (rd (s.core c).prot i) w = true) (hold : protV (rd (s.core c).prot i) = true)
    (hnew : protV w = false) :
    exec (.protRegionDisable c i w) s = .next (s.updCore c (fun (q : Core) => { q with prot := wr q.prot i w })) := by
  simp [execProtRegionDisable, State.setProt, hok, hold, hnew]

end

/-- Settles O41. -/
theorem snapshotsHaltsAndRegions : Obligations.SnapshotsHaltsAndRegions := by
  unfold Obligations.SnapshotsHaltsAndRegions
  intro s g a v x c i w
  refine ⟨fun hg ha hsys => ?_, fun h8 h3 => ?_, fun h => ?_, debugHalt_halts, quiesceRequest_halts, debugRelease_resumes,
    quiesceComplete_of, fun hok => ⟨protRegionEnable_clears hok, protRegionDisable_of hok⟩⟩
  · rw [snap_of hg ha hsys, freeze_of hg ha hsys]
    refine ⟨fun h8 => ?_, fun h8 => ?_, fun h0 => ?_, fun h0 h8 => ?_, fun h0 h8 => ?_⟩
    · rw [trigger_latches (s := s.setMe x) h8 (.inl rfl)]
    · rw [trigger_unarmed (s := s.setMe x) h8, passedTo_setMe]
    · simp only [h0, Bool.false_eq_true, if_false]
    · rw [h0, if_pos rfl, trigger_unarmed (s := s.setMe x) h8]
    · rw [h0, if_pos rfl, trigger_latches (s := s.setMe x) h8 (.inl rfl)]
  · rw [exec_snapshotPin, execSnapshotPin, trigger_latches h8 (.inr h3)]
  · rw [exec_snapshotPin, execSnapshotPin]
    exact congrArg _ (h.elim trigger_unarmed trigger_disabled)

end Sys2Proof.Machine
end

section
/-! PROOF. A bin's status while its close is held (07 R192; 21 R390). -/

namespace Sys2Proof.Machine

/-- After reset, with the engines frozen, the timeout of bin 0 has passed: its close is held until they are released. -/
def closeHeld : State :=
  ((State.reset).updHouse (fun h => { h with frozen := true })).updBin 0 0 (fun b => { b with due := some 2 })

/-- What `dkstat` reads of a bin, with WORKING as given. -/
def dkstatWord (t : Bin) (working : Bool) : Quad :=
  BitVec.ofNat 128 (t.seq.toNat + 2 ^ 32 * t.drops + 2 ^ 48 * t.rows + (if working then 2 ^ 55 else 0) + (if t.en then 2 ^ 56 else 0))

/-- `dkstat` shows WORKING for a close that is held too. -/
theorem dkstat_of {s : State} {g : Fin 8} {d a : Fin 64} {n : CVal} {x z : Strand} (hg : s.me.guard g = true)
    (ha : s.me.source a = some (n, x))
    (how : (s.bin (clusterOf s.cur.1) (Fin.ofNat 16 (qf n.val 0 4))).owner = s.cur.1)
    (hz : x.result d (.plain (dkstatWord (s.bin (clusterOf s.cur.1) (Fin.ofNat 16 (qf n.val 0 4)))
      (s.bin (clusterOf s.cur.1) (Fin.ofNat 16 (qf n.val 0 4))).working)) = some z) :
    exec (.dkstat g d a) s = .next (s.passed 4 z) := by
  refine exec_dkstat.trans (issue_me hg ?_)
  have hown : (s.setMe x).ownBin n = .ok (clusterOf s.cur.1, Fin.ofNat 16 (qf n.val 0 4)) := by
    have : (((s.setMe x).bin (clusterOf (s.setMe x).cur.1) (Fin.ofNat 16 (qf n.val 0 4))).owner == (s.setMe x).cur.1 ||
        (s.setMe x).mySys) = true := by
      rw [Bool.or_eq_true]
      exact .inl (beq_iff_eq.mpr how)
    rw [State.ownBin]
    simp only [need_true this, bind, Except.bind]
    rfl
  simp only [useC_of_source ha, hown, bind, Except.bind]
  exact putC_setMe hz

/-- Refutes O33: the close of bin 0 is held while the device is frozen, so the bin still owes array work and `dkstat` shows
WORKING, where the statement, which looks at closed sheets alone, has it 0. -/
theorem not_binsOpenAndClose : ¬ Obligations.BinsOpenAndClose := by
  intro holds
  have hme : closeHeld.me = .reset := strand_reset 0 0
  have hg : closeHeld.me.guard 0 = true := rfl
  have hsrc : closeHeld.me.source 0 = some (.null, .reset) := by rw [hme]; rfl
  have hbin : closeHeld.bin 0 0 = { Bin.reset with due := some 2 } := by decide +kernel
  have how : (closeHeld.bin 0 0).owner = closeHeld.cur.1 := by rw [hbin]; decide +kernel
  have hmodel := dkstat_of (d := 4) hg hsrc how rfl
  have hstated := ((holds closeHeld 0 4 0 0 .null .null .reset .reset _ 0 0).2.1 hg hsrc rfl rfl (.inl how)).2.2 rfl
  have hshown := congrArg (fun t : State => t.me.creg 4) (Host.Outcome.next.inj (hmodel.symm.trans hstated))
  revert hshown
  decide +kernel

end Sys2Proof.Machine
end

section
/-! PROOF. `launch` and what the launch unit answers (07 R200; 19 R340-R344; log entries 4, 47). -/

namespace Sys2Proof.Machine

theorem Strand.Popped.answer {x y : Strand} (h : x.Popped y) : y.answer = x.answer := by
  obtain ⟨_, _, _, _, _, _, rfl⟩ := h
  rfl

/-! ### The instruction (07 R200) -/

/-- What the running strand asks of the launch unit of its die. -/
def State.launchRequest (s : State) (r : CVal) : LaunchReq :=
  { cap := r, host := false, sys := s.me.pcc.has .sys, asid := s.me.asid, core := s.cur.1, wid := s.me.work.wid }

section
variable {s : State} {g : Fin 8} {d a : Fin 64} {r : CVal} {x : Strand}
variable (hg : s.me.guard g = true) (htask : s.me.work.task = none) (ha : s.me.source a = some (r, x))
  (hacc : s.mayAccess r [.ld, .ldcap] r.addr 128 64)
include hg htask ha hacc

/-- An answer that has come is the result. -/
theorem launch_answered {v : Dbl} {t : Nat} {z : Strand} (hans : s.me.answer = some v) (htick : s.me.ticket = some t)
    (hz : ({ x with ticket := none, answer := none } : Strand).result d (.plain (v.setWidth 128)) = some z) :
    exec (.launch g d a) s = .next (s.passed 4 z) := by
  refine exec_launch.trans (issue_me hg ?_)
  have htick' : x.ticket = some t := (source_popped ha).ticket.trans htick
  have hans' : x.answer = some v := (source_popped ha).answer.trans hans
  simp only [notSpec_ok htask, useC_of_source ha, checkAccess_ok (mayAccess_setMe.mpr hacc), bind, Except.bind, me_setMe, htick',
    hans', updMe_eq, setMe_setMe]
  exact putC_setMe hz

/-- A first attempt asks the launch unit of the die and waits. -/
theorem launch_asks {bs : List RByte} {s1 : State} (htick : s.me.ticket = none) (hloads : x.loadsPending = false)
    (hposts : (s.setMe x).postsDone = true)
    (hread : (s.setMe x).homeRead (s.whoOf s.cur.1 s.cur.2) (r.has .local) r.addr 128 = .ok (bs, s1)) :
    exec (.launch g d a) s =
      let s2 := (s1.askLaunch (Fin.ofNat 2 (dieOf s.cur.1)) (s.launchRequest r)).updMe (fun (y : Strand) => { y with ticket := some 0 })
      .next (s2.setMe { s2.me.ports s.me with st := .waiting }) := by
  refine exec_launch.trans (issue_wait hg ?_)
  have htick' : x.ticket = none := (source_popped ha).ticket.trans htick
  have hloads' : (s.setMe x).orderLoads = .ok () := orderLoads_ok (by rw [me_setMe]; exact hloads)
  have hread' : (s.setMe x).homeRead ((s.setMe x).whoOf s.cur.1 s.cur.2) (r.has .local) r.addr 128 = .ok (bs, s1) := by
    rw [whoOf_setMe (source_asid ha)]
    exact hread
  have hreq : ({ cap := r, host := false, sys := (s.setMe x).mySys, asid := x.asid, core := s.cur.1, wid := x.work.wid } : LaunchReq) =
      s.launchRequest r := by
    rw [State.mySys, me_setMe, source_asid ha, source_work ha, source_pcc ha, State.launchRequest]
  simp only [notSpec_ok htask, useC_of_source ha, checkAccess_ok (mayAccess_setMe.mpr hacc), bind, Except.bind, me_setMe, setMe_cur,
    htick', hloads', orderStores_ok hposts, hread', hreq]
  rfl

end

theorem askLaunch_me (s : State) (k : Fin 2) (q : LaunchReq) : (s.askLaunch k q).me = s.me := by
  simp only [State.askLaunch]
  split <;> rfl

theorem askLaunch_reqs (s : State) (k : Fin 2) (q : LaunchReq) :
    (rd (s.askLaunch k q).launch k).reqs = (rd s.launch k).reqs ++ [q] := by
  simp only [State.askLaunch]
  split <;> simp

/-! ### The launch unit (19 R340-R344) -/

section
variable {s : State} {k : Fin 2} {q : LaunchReq} {rest : List LaunchReq}

/-- The unit has an answer for the oldest request, and goes on with the next. -/
def State.launchAnswered (t : State) (k : Fin 2) (q : LaunchReq) (rest : List LaunchReq) (v : Dbl) : State :=
  let t1 := ({ t with launch := wr t.launch k { rd t.launch k with reqs := rest } } : State).launchAnswer k q v
  if rest.isEmpty then t1 else t1.post 1000 (.launchValidation k)

/-- A record that cannot be read is answered with code 1. -/
theorem launchValidation_unreadable {s1 : State} (hreqs : (rd s.launch k).reqs = q :: rest) (hread : s.launchRead q 0 128 = .error s1) :
    exec (.launchValidation k) s = .next (s1.launchAnswered k q rest (BitVec.ofNat 64 (2 ^ 63 + 1))) := by
  simp only [exec_launchValidation, execLaunchValidation, hreqs, hread]
  rfl

section
variable {bs : List RByte} {s1 s2 : State} {items : List CfgItem} {cfgn : Nat}
variable (hreqs : (rd s.launch k).reqs = q :: rest) (hread : s.launchRead q 0 128 = .ok (bs, s1))
  (hcount : ofBytes (((bs.drop 122).take 2).map (fun (b : RByte) => b.1)) = cfgn) (hmax : cfgn ≤ 1024)
  (hitems : s1.readItems q cfgn 128 = .ok (items, s2))
include hreqs hread hcount hmax hitems

theorem launchValidation_refused {n : Nat} (hcode : s2.launchCode k q bs (launchOf bs) cfgn items = some n) :
    exec (.launchValidation k) s = .next (s2.launchAnswered k q rest (BitVec.ofNat 64 (2 ^ 63 + n))) := by
  simp only [exec_launchValidation, execLaunchValidation, hreqs, hread, hcount, Nat.not_lt.mpr hmax, if_false, hitems, hcode]
  rfl

theorem launchValidation_wellFormed (hcode : s2.launchCode k q bs (launchOf bs) cfgn items = none) :
    exec (.launchValidation k) s =
      if items.any ((items.foldl (fun (s : State) i => s.flushItem (launchOf bs) i) s2).itemWaits (launchOf bs)) then
        .next ((items.foldl (fun (s : State) i => s.flushItem (launchOf bs) i) s).post 1000 (.launchValidation k))
      else .next ((s2.acceptLaunch k bs (launchOf bs) items).2.launchAnswered k q rest
        ((s2.acceptLaunch k bs (launchOf bs) items).1.setWidth 64)) := by
  simp only [exec_launchValidation, execLaunchValidation, hreqs, hread, hcount, Nat.not_lt.mpr hmax, if_false, hitems, hcode]
  rfl

end

theorem launchHeadTake_none (hheads : s.dropHeads k 256 = s) (hnext : s.nextQueue k = none) : exec (.launchHeadTake k) s = .next s := by
  simp only [exec_launchHeadTake, execLaunchHeadTake, hheads, hnext]

/-- A head that stands alone in its queue is taken and placed. -/
theorem launchHeadTake_alone {p : Fin 4} {id : Word} {t : Nat} (hheads : s.dropHeads k 256 = s) (hnext : s.nextQueue k = some p)
    (hq : rd (rd s.launch k).q p = [(id, t)]) :
    let u := rd s.launch k
    let s1 : State := { s with launch := wr s.launch k { u with q := wr u.q p [] } }
    exec (.launchHeadTake k) s = .next ((match s.grid id with | some g => s1.placeGrid g | none => s1).post 500 (.launchHeadTake k)) := by
  simp only [exec_launchHeadTake, execLaunchHeadTake, hheads, hnext, hq] <;> rfl

end

/-- Settles O44. -/
theorem launchesAreAnswered : Obligations.LaunchesAreAnswered := by
  unfold Obligations.LaunchesAreAnswered
  intro s g d a r x z k p q rest addr
  refine ⟨fun hg htask ha hacc => ⟨fun v t hans htick hz => launch_answered hg htask ha hacc hans htick hz,
      fun bs s1 htick hloads hposts hread hcur hme => ?_⟩, rfl, fun hreqs => ?_, fun hreqs => ⟨fun s1 hread => ?_, ?_⟩,
    launchHeadTake_none, fun id t hheads hnext hq => launchHeadTake_alone hheads hnext hq⟩
  · refine ⟨_, launch_asks hg htask ha hacc htick hloads hposts hread, ?_, ?_, ?_, ?_⟩
    · rw [me_setMe]
    · rw [me_setMe]
      exact congrArg Strand.ticket (me_setMe ..)
    · rw [me_setMe]
      refine (congrArg Strand.pcc (me_setMe ..)).trans ?_
      rw [askLaunch_me, hme, source_pcc ha]
    · simp only [setMe_launch, updMe_eq]
      exact askLaunch_reqs ..
  · simp only [exec_launchValidation, execLaunchValidation, hreqs]
  · exact launchValidation_unreadable hreqs hread
  · intro bs s1 items s2 hread cfgn hmax hitems
    refine ⟨fun n hcode => launchValidation_refused hreqs hread rfl hmax hitems hcode, fun hcode hwaits => ?_, fun hcode hfree => ?_⟩
    · rw [launchValidation_wellFormed hreqs hread rfl hmax hitems hcode]
      exact if_pos hwaits
    · rw [launchValidation_wellFormed hreqs hread rfl hmax hitems hcode]
      exact if_neg (by simpa using hfree)

end Sys2Proof.Machine
end

section
/-! PROOF. `hset`, `hmask`, `chcap` and `waitch` (07 R185, R186, R188; 17 R317). -/

namespace Sys2Proof.Machine

theorem sameCores_postOnce (s : State) (d : Nat) (e : Instr) : s.SameCores (s.postOnce d e) := by
  unfold State.postOnce
  split <;> exact ⟨rfl, rfl⟩

theorem sameCores_offer (s : State) (c : CoreId) : s.SameCores (s.offer c) := sameCores_postOnce ..

theorem freeUnit_cur (s : State) (c : CoreId) (u : Nat) : (s.freeUnit c u).cur = s.cur :=
  ((foldl_sameCores (fun s (r : Refused) => sameCores_postOnce s 1 (.refusalCallback c r.chan)) _ _).trans (sameCores_offer ..)).2

theorem endMsg_cur (s : State) (c : CoreId) (k : SlotId) : (s.endMsg c k).cur = s.cur := by
  unfold State.endMsg
  split
  · exact freeUnit_cur ..
  · rfl

theorem myCore_setMe_chan (s : State) (y : Strand) : (s.setMe y).myCore.chan = s.myCore.chan := by
  simp [State.myCore, State.setMe, State.setStrand]

theorem me_updChan {s : State} {c : CoreId} (hc : s.cur.1 = c) {ch : Fin 64} {f : Chan → Chan} : (s.updChan c ch f).me = s.me :=
  me_updCore hc fun _ => rfl

/-- An instruction's meaning is what it does from the state it starts in. -/
theorem issue_congr {g : Fin 8} {len : Nat} {s : State} {f h : State → Except Stop State} (e : f s = h s) :
    issue g len s f = issue g len s h := by
  simp only [issue, issueN, e]

section
variable {s s1 : State} {g : Fin 8} {d a b : Fin 64} {n r : CVal} {x y z : Strand}

/-! ### hset (07 R185) -/

theorem checkChan_ok {e : Chan} (hpol : e.f 2 2 ≠ 3) (hrest : e.f 85 43 = 0) (hcap : (e.cap = 0 ∧ e.det = false) ∨ e.win.isSome = true)
    (hcore : e.f 53 9 ≤ 383) (hcode : e.code.tag = true → e.code.has .exec = true) : checkChan e = .ok () := by
  have hlimits : (e.f 2 2 != 3 && e.f 85 43 == 0 && ((e.cap == 0 && !e.det) || e.win.isSome) && decide (e.f 53 9 ≤ 383)) = true := by
    rcases hcap with ⟨h0, h1⟩ | h <;> simp_all
  have hexec : (!e.code.tag || e.code.has .exec) = true := by
    cases h : e.code.tag
    · rfl
    · exact hcode h
  simp only [checkChan, need_true hlimits, need_true hexec, bind, Except.bind]

theorem hset_of {bs : List RByte} (hg : s.me.guard g = true) (ha : s.me.source a = some (n, x)) (hsys : s.me.pcc.has .sys = true)
    (hb : x.source b = some (r, y)) (hacc : s.mayAccess r [.ld, .ldcap] r.addr 64 64) (hn : qf n.val 6 122 = 0)
    (hload : (s.setMe y).load s.cur.1 s.cur.2 s.nextId (r.has .local) r.addr 64 = .ok (bs, s1))
    (hok : checkChan (chanOf bs s1.me.asid) = .ok ()) :
    exec (.hset g a b) s =
      .next (s.passedTo 4 (s1.installChan s1.cur.1 (Fin.ofNat 64 (qf n.val 0 6)) (chanOf bs s1.me.asid))) := by
  refine exec_hset.trans (issue_ok hg ?_)
  have hsys' : (s.setMe y).mySys = true := by
    rw [State.mySys, me_setMe, source_pcc hb, source_pcc ha, hsys]
  simp only [useC_of_source ha, useC_setMe hb, need_true hsys', checkAccess_ok (mayAccess_setMe.mpr hacc), need_true (beq_iff_eq.mpr hn),
    setMe_cur, setMe_nextId, hload, hok, bind, Except.bind]
  rfl

/-! ### hmask, chcap (07 R186) -/

theorem ownChan_ok {ch : Fin 64} (hown : (rd s.myCore.chan ch).asid = s.me.asid ∨ s.me.pcc.has .sys = true)
    (hasid : y.asid = s.me.asid) (hpcc : y.pcc = s.me.pcc) : (s.setMe y).ownChan ch = .ok () := by
  refine need_true ?_
  rw [myCore_setMe_chan, State.mySys, me_setMe, hasid, hpcc, Bool.or_eq_true, beq_iff_eq]
  exact hown

theorem hmask_of {ch : Fin 64} (hg : s.me.guard g = true) (hch : Fin.ofNat 64 (df n.addr 0 6) = ch)
    (ha : s.me.source a = some (n, x)) (hb : x.source b = some (r, y))
    (hown : (rd s.myCore.chan ch).asid = s.me.asid ∨ s.me.pcc.has .sys = true)
    (hz : y.result d (.plain (if (rd s.myCore.chan ch).masked then 1 else 0)) = some z) :
    exec (.hmask g d a b) s = .next (s.passedTo 4 ((((s.setMe y).updChan s.cur.1 ch (fun (e : Chan) =>
      { e with ctl := ctlSet e.ctl 4 1 (df r.addr 0 1) })).offer s.cur.1).setMe z)) := by
  refine exec_hmask.trans (issue_ok hg ?_)
  have hcur : (s.setMe y).cur.1 = s.cur.1 := rfl
  have hme : (((s.setMe y).updChan s.cur.1 ch (fun (e : Chan) =>
      { e with ctl := ctlSet e.ctl 4 1 (df r.addr 0 1) })).offer s.cur.1).me = y := by
    rw [(sameCores_offer ..).me, me_updChan hcur, me_setMe]
  simp only [useX_of_source ha, useX_setMe hb, hch, ownChan_ok hown ((source_asid hb).trans (source_asid ha))
    ((source_pcc hb).trans (source_pcc ha)), myCore_setMe_chan, setMe_cur, bind, Except.bind]
  refine putX_of_result ?_
  rw [hme, ← hz]
  congr 2
  split <;> rfl

section
variable {ch : Fin 64} (hg : s.me.guard g = true) (hch : Fin.ofNat 64 (df n.addr 0 6) = ch)
  (ha : s.me.source a = some (n, x)) (hb : x.source b = some (r, y))
  (hown : (rd s.myCore.chan ch).asid = s.me.asid ∨ s.me.pcc.has .sys = true)
  (hrest : qf r.val 48 80 = 0) (hcore : qf r.val 32 9 ≤ 383)
  (hcap : qf r.val 0 32 = 0 ∨ (rd s.myCore.chan ch).win.isSome = true)
include hg hch ha hb hown hrest hcore hcap

theorem chcap_of : exec (.chcap g a b) s = .next (s.passedTo 4 (if (rd s.myCore.chan ch).win.isSome
      then (s.setMe y).updCore s.cur.1 (fun (x : Core) => { x with capNew := wr x.capNew ch (some r.addr) })
      else (s.setMe y).updChan s.cur.1 ch (fun (e : Chan) => e.withCap r.addr))) := by
  refine exec_chcap.trans (issue_ok hg ?_)
  have hlimits : (qf r.val 48 80 == 0 && decide (qf r.val 32 9 ≤ 383) && (qf r.val 0 32 == 0 || (rd s.myCore.chan ch).win.isSome)) = true := by
    simp [hrest, hcore, hcap]
  simp only [useX_of_source ha, useC_setMe hb, hch, ownChan_ok hown ((source_asid hb).trans (source_asid ha))
    ((source_pcc hb).trans (source_pcc ha)), myCore_setMe_chan, setMe_cur, need_true hlimits, bind, Except.bind]
  split <;> rfl

end

/-! ### waitch (07 R188; 17 R317) -/

/-- Whether `waitch` with mask `v` may take from a channel. -/
def State.waitsOn (s : State) (v : Dbl) (ch : Fin 64) : Bool := v.getLsbD ch.val && (rd s.myCore.chan ch).masked

/-- The message that `waitch` takes, the current one having ended in `s1`. -/
def State.waitFound (s s1 : State) (v : Dbl) : Option InMsg :=
  (s1.myCore.waitPick (s.waitsOn v) s.me.chwait.isSome).bind s1.myCore.head

/-- The running strand waits with mask `v`, or takes the message found. -/
def State.takeOrWait (s : State) (v : Dbl) : Option InMsg → Except Stop State
  | none => .error (.wait (s.updMe (fun (x : Strand) => { x with chwait := some v })))
  | some m => do
    let s := s.updCore s.cur.1 (fun (x : Core) =>
      { x with inbox := x.inbox.map (fun (i : InMsg) => if i.unit = m.unit then { i with taken := true } else i) })
    let s := s.updMe (fun (x : Strand) => { x with chwait := none, msg := some { chan := m.chan, unit := m.unit, words := m.words } })
    let s ← s.putC 4 (.plain m.aep)
    s.putC 5 (.plain (deliveryWord m))

section
variable {v : Dbl}

/-- `waitch` reads its mask once, then ends the current message and takes one or waits. -/
theorem waitch_eq (hloads : x.loadsPending = false) (htask : s.me.work.task = none)
    (hmask : (s.me.chwait = some v ∧ x = s.me) ∨ (s.me.chwait = none ∧ s.me.source a = some (n, x) ∧ n.addr = v ∧
      ∃ ch : Fin 64, s.waitsOn v ch = true)) :
    exec (.waitch g a) s = issue g 4 s (fun _ => ((s.setMe x).endMsg s.cur.1 s.cur.2).takeOrWait v
      (s.waitFound ((s.setMe x).endMsg s.cur.1 s.cur.2) v)) := by
  refine exec_waitch.trans (issue_congr ?_)
  have horder : (s.setMe x).orderLoads = .ok () := orderLoads_ok (by rw [me_setMe, hloads])
  have hcur : ((s.setMe x).endMsg s.cur.1 s.cur.2).cur = s.cur := endMsg_cur ..
  obtain ⟨hwait, rfl⟩ | ⟨hwait, ha, rfl, ch, hch⟩ := hmask
  · rw [setMe_me] at horder hcur ⊢
    simp only [notSpec_ok htask, hwait, Option.isSome_some, Bool.true_or, need_true, horder, bind, Except.bind, pure, Except.pure,
      State.takeOrWait, State.waitFound, hcur] <;> rfl
  · have hany : (List.finRange 64).any (s.waitsOn n.addr) = true := List.any_eq_true.mpr ⟨ch, List.mem_finRange ch, hch⟩
    have hcand : (fun ch : Fin 64 => n.addr.getLsbD ch.val && (rd s.myCore.chan ch).masked) = s.waitsOn n.addr := rfl
    simp only [notSpec_ok htask, hwait, useX_of_source ha, Option.isSome_none, Bool.false_or, myCore_setMe_chan, hcand, hany, need_true,
      horder, bind, Except.bind, setMe_cur, State.takeOrWait, State.waitFound, hcur] <;> rfl

theorem takeOrWait_none (hg : s.me.guard g = true) (s1 : State) :
    issue g 4 s (fun _ => s1.takeOrWait v none) = .next (s1.setMe { s1.me.ports s.me with st := .waiting, chwait := some v }) := by
  refine (issue_wait hg rfl).trans ?_
  rw [updMe_eq, setMe_setMe, me_setMe]
  rfl

theorem takeOrWait_some {m : InMsg} (hg : s.me.guard g = true) (hcur : s1.cur = s.cur)
    (hy : ({ s1.me with chwait := none, msg := some { chan := m.chan, unit := m.unit, words := m.words } } : Strand).result 4
      (.plain m.aep) = some y) (hz : y.result 5 (.plain (deliveryWord m)) = some z) :
    issue g 4 s (fun _ => s1.takeOrWait v (some m)) = .next (s.passedTo 4 ((s1.updCore s.cur.1 (fun (y : Core) =>
      { y with inbox := y.inbox.map (fun (i : InMsg) => if i.unit = m.unit then { i with taken := true } else i) })).setMe z)) := by
  refine issue_ok hg ?_
  have hme := me_updCore (s := s1) (c := s.cur.1) (by rw [hcur]) (f := fun (y : Core) =>
    { y with inbox := y.inbox.map (fun (i : InMsg) => if i.unit = m.unit then { i with taken := true } else i) }) fun _ => rfl
  simp only [State.takeOrWait, hcur, updMe_eq, hme, putC_setMe hy, putC_setMe hz, bind, Except.bind]

end

end

/-- Settles O29. -/
theorem channelInstructions : Obligations.ChannelInstructions := by
  unfold Obligations.ChannelInstructions
  intro s g d a b n r x y z hg
  refine ⟨fun bs s1 ha hsys hb hacc hn hload hlimits hcode => ?_, fun ha hown hb => ⟨hmask_of hg rfl ha hb hown,
    fun hrest hcore hcap => ⟨fun hwin => ?_, fun hwin => ?_⟩⟩, fun hloads htask hmask => ?_⟩
  · obtain ⟨hpol, he, hcap, hcore⟩ := hlimits
    exact hset_of hg ha hsys hb hacc hn hload (checkChan_ok hpol he hcap hcore hcode)
  · rw [chcap_of hg rfl ha hb hown hrest hcore hcap, if_pos hwin]
  · rw [chcap_of hg rfl ha hb hown hrest hcore hcap, if_neg (by rw [hwin]; exact Bool.false_ne_true)]
  · have hmask' : (s.me.chwait = some n.addr ∧ x = s.me) ∨ (s.me.chwait = none ∧ s.me.source a = some (n, x) ∧ n.addr = n.addr ∧
        ∃ ch : Fin 64, s.waitsOn n.addr ch = true) :=
      hmask.imp id fun ⟨hw, ha, ch, hb, hm⟩ => ⟨hw, ha, rfl, ch, Bool.and_eq_true_iff.mpr ⟨hb, hm⟩⟩
    rw [waitch_eq hloads htask hmask']
    refine ⟨fun hnone => ?_, fun m hsome hy hz => ?_⟩
    · rw [show s.waitFound _ n.addr = none from hnone]
      exact takeOrWait_none hg _
    · rw [show s.waitFound _ n.addr = some m from hsome]
      exact takeOrWait_some hg (endMsg_cur ..) hy hz

end Sys2Proof.Machine
end

section
/-! PROOF. Watermarks and windows: `wmark`, `wincfg`, `winclose`, and the events of the window unit (07 R180-R182; 09 R227,
R228; 18 R326; 19 R356; log entries 4, 41, 69). -/

namespace Sys2Proof.Machine

/-! ### Watermarks (07 R180; 09 R227; 19 R356) -/

section
variable {s : State} {g : Fin 8} {a : Fin 64} {v : CVal} {x : Strand} {c : CoreId} {src : BitVec 16} {w : Word}

theorem wmark_of (hg : s.me.guard g = true) (htask : s.me.work.task = none) (ha : s.me.source a = some (v, x))
    (hloads : x.loadsPending = false) (hposts : (s.setMe x).postsDone = true) :
    exec (.wmark g a) s = .next (s.passedTo 4 ((s.setMe x).post 20 (.watermarkPublish s.cur.1
      (if a ≠ 0 ∧ tsLt (v.addr.setWidth 32) s.now = true then v.addr.setWidth 32 else s.now)))) := by
  refine exec_wmark.trans (issue_ok hg ?_)
  have hloads' : (s.setMe x).orderLoads = .ok () := orderLoads_ok (by rw [me_setMe, hloads])
  have hnow : (s.setMe x).now = s.now := rfl
  simp only [notSpec_ok htask, useX_of_source ha, hloads', orderStores_ok hposts, bind, Except.bind, hnow, setMe_cur]
  by_cases h0 : a = 0
  · simp only [h0, ne_eq, not_true_eq_false, false_and, if_true, if_false]
    rfl
  · simp only [h0, ne_eq, not_false_eq_true, true_and, if_false]
    rfl

/-- What a watermark of a core waits for: an atomic that is not performed, a DET spawn that stands in line, and what a commit has
issued and not yet performed or sent. -/
def State.WaitsToPublish (s : State) (c : CoreId) : Prop :=
  (∃ p ∈ s.pendingPosts c, p.isAmo = true) ∨
  (∃ k, ∃ e ∈ (s.cluster k).tqWait, e.spawner = c ∧ e.crec.flags.getLsbD 9 = true) ∨
  (∃ o ∈ s.ops, o.core = c ∧ o.deferred = false ∧ ((∃ p, o.job = .amo p) ∨ ∃ m d, o.job = .msg m d))

theorem heldPosts_none (x : Core) : x.heldPosts none =
    (List.finRange 16).flatMap (fun k => (x.strand k).held) ++ x.recs.flatMap (fun u => u.strand.held) ++
      x.saved.flatMap (fun v => v.strand.held) := by
  have : x.recs.filter (fun u => none != some u.wid) = x.recs := List.filter_eq_self.mpr fun _ _ => rfl
  rw [Core.heldPosts, this]

theorem markWaits_iff : s.markWaits c = true ↔ s.WaitsToPublish c := by
  have hposts : ((s.core c).wpath ++ (List.finRange 16).flatMap (fun k => ((s.core c).strand k).held) ++
      (s.core c).recs.flatMap (fun u => u.strand.held) ++ (s.core c).saved.flatMap (fun v => v.strand.held)) = s.pendingPosts c := by
    simp only [State.pendingPosts, heldPosts_none, List.append_assoc]
  simp only [State.markWaits, hposts, State.WaitsToPublish, Bool.or_eq_true, List.any_eq_true, Bool.and_eq_true, beq_iff_eq,
    Bool.not_eq_true', List.mem_finRange, true_and, or_assoc, and_assoc]
  refine or_congr Iff.rfl (or_congr Iff.rfl (exists_congr fun o => and_congr_right fun _ => and_congr_right fun _ =>
    and_congr_right fun _ => ?_))
  cases o.job <;> simp

theorem watermarkPublish_waits (h : s.WaitsToPublish c) :
    exec (.watermarkPublish c w) s = .next (s.post 20 (.watermarkPublish c w)) := by
  simp only [exec_watermarkPublish, execWatermarkPublish, markWaits_iff.mpr h, if_true]

theorem watermarkPublish_later (h : ¬ s.WaitsToPublish c) (hw : ∀ l, (s.core c).wmark = some l → tsLt l w = true) :
    exec (.watermarkPublish c w) s =
      .next ((s.updCore c (fun (x : Core) => { x with wmark := some w })).routeMark (.core c) (coreSrc c) w) := by
  have hfree : ¬ s.markWaits c = true := fun hm => h (markWaits_iff.mp hm)
  have hlate : (s.core c).wmark.any (fun l => !tsLt l w) = false := by
    cases hl : (s.core c).wmark with
    | none => rfl
    | some l => simp [hw l hl]
  simp only [exec_watermarkPublish, execWatermarkPublish, hfree, hlate, if_false, Bool.false_eq_true]
  rfl

theorem watermarkPublish_notLater {l : Word} (h : ¬ s.WaitsToPublish c) (hl : (s.core c).wmark = some l) (hw : tsLt l w = false) :
    exec (.watermarkPublish c w) s = .next s := by
  have hfree : ¬ s.markWaits c = true := fun hm => h (markWaits_iff.mp hm)
  simp [execWatermarkPublish, hfree, hl, hw]

/-- A watermark that no earlier message of its source is behind. -/
theorem markArrives_of
    (hrefused : ∀ r ∈ (s.core c).refused, aepSrc r.msg.aep ≠ src ∧ ∀ p, r.msg.sender = .core p → coreSrc p ≠ src)
    (hreorder : ∀ m ∈ (s.core c).reorder, ∀ p, m.sender = .core p → coreSrc p ≠ src) :
    s.markArrives c src w = s.markAt c src w := by
  simp only [State.markArrives]
  rw [List.find?_eq_none.mpr, List.find?_eq_none.mpr]
  · intro m hm
    have := hreorder m hm
    split
    · simpa using this _ ‹_›
    · simp
  · intro r hr
    obtain ⟨hsrc, hcore⟩ := hrefused r hr
    rw [beq_eq_false_iff_ne.mpr hsrc, Bool.false_or]
    split
    · simpa using hcore _ ‹_›
    · simp

end

/-! ### Windows (07 R181, R182; 09 R228) -/

section
variable {s : State} {k : Fin 32}

theorem post_foldl_wins {α : Type} (l : List α) (n : Nat) (f : α → Instr) (s : State) :
    (l.foldl (fun s h => s.post n (f h)) s).wins = s.wins := by
  induction l generalizing s with
  | nil => rfl
  | cons a l ih => exact ih (s.post n (f a))

/-- A window whose close has been decided. -/
theorem closeWindow_win (s : State) (k : Fin 32) (cause : BitVec 2) : (rd (s.closeWindow k cause).wins k).st = .closing ∧
    (rd (s.closeWindow k cause).wins k).cause = cause ∧ (rd (s.closeWindow k cause).wins k).closeT = s.now ∧
    (cause ≠ 0 → (rd (s.closeWindow k cause).wins k).lag =
      (rd s.wins k).r.srcs.filter (fun src => (s.markOf src).all (fun m => tsLt m (rd s.wins k).tgt))) := by
  have hwin : ∃ hs qs, rd (s.closeWindow k cause).wins k = { rd s.wins k with
      st := .closing, closeT := s.now, cause := cause, waitHomes := hs, waitQueues := qs
      lag := if cause = 0 then []
        else (rd s.wins k).r.srcs.filter (fun src => (s.markOf src).all (fun m => tsLt m (rd s.wins k).tgt)) } := by
    refine ⟨((s.parked.filter (fun (p : ParkedAmo) => p.win == k)).map (fun p => p.home)).dedup,
      (List.finRange 24).filter (fun q => (s.cluster q).tq.any (fun (e : TqEntry) => e.parkedBy == some k)), ?_⟩
    simp only [State.closeWindow]
    rw [apply_ite State.wins, post_wins, ite_self, post_foldl_wins, post_foldl_wins]
    exact rd_wr_same ..
  obtain ⟨hs, qs, hwin⟩ := hwin
  rw [hwin]
  exact ⟨rfl, rfl, rfl, fun h => if_neg h⟩

theorem testWindow_notArmed (h : (rd s.wins k).st ≠ .armed) : s.testWindow k = s := if_pos h

section
variable (harmed : (rd s.wins k).st = .armed)
include harmed

theorem testWindow_reached (hall : (rd s.wins k).r.srcs.all (fun src => (s.markOf src).any (fun m => tsLe (rd s.wins k).tgt m)) = true) :
    s.testWindow k = s.closeWindow k 0 :=
  (if_neg (not_not.mpr harmed)).trans (if_pos hall)

theorem testWindow_due (hall : (rd s.wins k).r.srcs.all (fun src => (s.markOf src).any (fun m => tsLe (rd s.wins k).tgt m)) = false)
    (hdue : max (rd s.wins k).passedAt (rd s.wins k).openedAt + 1000 * (rd s.wins k).r.timeout.toNat ≤ s.dt) :
    s.testWindow k = s.closeWindow k 1 :=
  (if_neg (not_not.mpr harmed)).trans ((if_neg fun h => absurd (h.symm.trans hall) (by decide)).trans (if_pos hdue))

theorem testWindow_early (hall : (rd s.wins k).r.srcs.all (fun src => (s.markOf src).any (fun m => tsLe (rd s.wins k).tgt m)) = false)
    (hdue : ¬ max (rd s.wins k).passedAt (rd s.wins k).openedAt + 1000 * (rd s.wins k).r.timeout.toNat ≤ s.dt) :
    s.testWindow k = s :=
  (if_neg (not_not.mpr harmed)).trans ((if_neg fun h => absurd (h.symm.trans hall) (by decide)).trans (if_neg hdue))

end

section
variable {g : Fin 8} {a b : Fin 64} {n r : CVal} {x y : Strand}

theorem wincfg_of {bs : List RByte} {s1 : State} (hg : s.me.guard g = true) (ha : s.me.source a = some (n, x))
    (hb : x.source b = some (r, y)) (hsys : s.me.pcc.has .sys = true) (hn : qf n.val 5 123 = 0)
    (hacc : s.mayAccess r [.ld] r.addr 256 64)
    (hload : (s.setMe y).load s.cur.1 s.cur.2 s.nextId (r.has .local) r.addr 256 = .ok (bs, s1))
    (hrec : winRecOk (bs.map (fun (b : RByte) => b.1)) = true) (hready : s1.house.ready.getLsbD 77 = true) :
    exec (.wincfg g a b) s = .next (s.passedTo 4 (s1.installWindow (Fin.ofNat 32 (qf n.val 0 5))
      (winRecOf (bs.map (fun (b : RByte) => b.1))))) := by
  refine exec_wincfg.trans (issue_ok hg ?_)
  have hsys' : (s.setMe y).mySys = true := by
    rw [State.mySys, me_setMe, source_pcc hb, source_pcc ha, hsys]
  simp only [useC_of_source ha, useC_setMe hb, need_true hsys', need_true (beq_iff_eq.mpr hn), checkAccess_ok (mayAccess_setMe.mpr hacc),
    setMe_cur, setMe_nextId, hload, need_true hrec, hready, bind, Except.bind]
  rfl

/-- `winclose` of a window that the issuer may close. -/
theorem winclose_of (hg : s.me.guard g = true) (htask : s.me.work.task = none) (ha : s.me.source a = some (n, x))
    (hk : Fin.ofNat 32 (qf n.val 0 5) = k) (hmay : s.me.pcc.has .sys = true ∨ (rd s.wins k).r.cores.getLsbD s.cur.1.val = true) :
    exec (.winclose g a) s = .next (s.passedTo 4 (
      if (rd s.wins k).st = .disabled ∨ (rd s.wins k).st = .closing then s.setMe x
      else if (rd ((s.setMe x).testWindow k).wins k).st = .closing then (s.setMe x).testWindow k
      else ((s.setMe x).testWindow k).closeWindow k 2)) := by
  refine exec_winclose.trans (issue_ok hg ?_)
  have hmay' : ((s.setMe x).mySys || (rd s.wins k).r.cores.getLsbD s.cur.1.val) = true := by
    rw [State.mySys, me_setMe, source_pcc ha, Bool.or_eq_true]
    exact hmay
  simp only [notSpec_ok htask, useC_of_source ha, hk, setMe_wins, setMe_cur, need_true hmay', bind, Except.bind]
  split <;> rfl

end

theorem windowTargetPass_open (hopen : (rd s.wins k).st = .opened) (h : tsLe (rd s.wins k).tgt s.now = true) :
    let s1 := s.updWin k (fun (v : Win) =>
      { v with st := .armed, passedAt := (s.dt / 1000 - (s.now - (rd s.wins k).tgt).toNat) * 1000 })
    exec (.windowTargetPass k) s = .next ((s1.post (s1.deadline (rd s1.wins k) - s1.dt) (.windowTimeout k)).testWindow k) := by
  simp only [exec_windowTargetPass, execWindowTargetPass, hopen, h, ne_eq, not_true_eq_false, if_false, Bool.not_true, Bool.false_eq_true]

end

/-- Settles O31. -/
theorem watermarksAndWindows : Obligations.WatermarksAndWindows := by
  refine ⟨fun s g a v x c src w => ⟨wmark_of, ⟨watermarkPublish_waits, watermarkPublish_later, fun l => watermarkPublish_notLater⟩,
    fun hrefused hreorder => congrArg Host.Outcome.next (markArrives_of hrefused hreorder), fun hsrc hlink => ?_, fun h => ?_⟩,
    fun s g a b n r x y k => ⟨fun bs s1 => wincfg_of,
    fun hg htask ha hk hmay => ?_, ?_⟩⟩
  · simp [execWatermarkAtWindowUnit, hsrc, hlink]
  · refine if_neg ?_
    rintro ⟨hsrc, hlink⟩
    rcases h with h | h
    · exact absurd hsrc (Nat.not_le.mpr h)
    · simp [h] at hlink
  · rw [winclose_of hg htask ha hk hmay]
    refine ⟨fun h => ?_, fun h => ?_, fun harmed hall => ?_, fun harmed hall hdue => ?_⟩
    · rw [if_pos h, passedTo_setMe]
    · obtain ⟨hst, hopen, htest⟩ : ¬ ((rd s.wins k).st = .disabled ∨ (rd s.wins k).st = .closing) ∧
          ¬ (rd s.wins k).st = .closing ∧ (s.setMe x).testWindow k = s.setMe x := by
        rcases h with h | ⟨h, hall, hdue⟩
        · exact ⟨by simp [h], by simp [h], testWindow_notArmed (s := s.setMe x) (by simp [h])⟩
        · exact ⟨by simp [h], by simp [h], testWindow_early (s := s.setMe x) h hall (Nat.not_le.mpr hdue)⟩
      rw [if_neg hst, htest, setMe_wins, if_neg hopen]
    · rw [if_neg (by simp [harmed]), testWindow_reached (s := s.setMe x) harmed hall, if_pos (closeWindow_win ..).1]
    · rw [if_neg (by simp [harmed]), testWindow_due (s := s.setMe x) harmed hall hdue, if_pos (closeWindow_win ..).1]
  · refine ⟨fun h => congrArg _ (testWindow_notArmed h), fun h hall => congrArg _ (testWindow_reached h hall),
      fun h hall hdue => congrArg _ (testWindow_due h hall (of_decide_eq_true hdue)),
      fun h hall hdue => congrArg _ (testWindow_early h hall (of_decide_eq_false hdue)),
      fun h => ?_, fun h hnow => ?_, windowTargetPass_open, closeWindow_win s k⟩
    · simp [execWindowTargetPass, h]
    · simp [execWindowTargetPass, h, hnow]

end Sys2Proof.Machine
end

section
/-! PROOF. How messages arrive at a network interface, are called back and resent (07 R178; 09 R219; 13 R279; 18 R332; log entry
4). -/

namespace Sys2Proof.Machine

theorem tsLt_asymm {a b : Word} (h : tsLt a b = true) : tsLt b a = false := by
  simp only [tsLt, Bool.and_eq_true, decide_eq_true_eq, Bool.and_eq_false_iff, decide_eq_false_iff_not] at h ⊢
  bv_omega

theorem ne_of_tsLt {a b : Word} (h : tsLt a b = true) : a ≠ b := by
  rintro rfl
  simp [tsLt] at h

section
variable {s : State} {c : CoreId} {m : Msg}

/-! ### Arrival (09 R219; 13 R279) -/

theorem markBehind_of_kind (hkind : aepKind m.aep ≠ 1) : s.markBehind c m = false := by
  rw [State.markBehind, beq_eq_false_iff_ne.mpr hkind, Bool.and_false, Bool.false_and]

/-- A message that is no watermark and has not crossed before stands at the door of the NI. -/
theorem messageArrival_of (hnew : s.crossedBefore c m = false) (hkind : aepKind m.aep ≠ 1) :
    exec (.messageArrival c m) s = .next ((s.ackBridge c m).arrive c m) := by
  simp only [exec_messageArrival, execMessageArrival, hnew, markBehind_of_kind hkind, hkind, Bool.false_eq_true, if_false]

/-- A watermark that has crossed the dies, once nothing of its source is behind it. -/
theorem messageArrival_mark (hnew : s.crossedBefore c m = false) (hkind : aepKind m.aep = 1) :
    exec (.messageArrival c m) s = .next (if s.markBehind c m then s.post 100 (.messageArrival c m)
      else (s.ackBridge c m).markArrives c (aepSrc m.aep) (aepTs m.aep)) := by
  simp only [exec_messageArrival, execMessageArrival, hnew, hkind, Bool.false_eq_true, if_false, if_true]
  split <;> rfl

/-- A core's message at the door of a core in service: by its number it is a copy, in its turn, or early. -/
theorem arrive_core {p : CoreId} (hs : m.sender = .core p) (hup : s.served c = true) :
    s.arrive c m =
      if m.seq = s.expects c p then
        if (s.core c).refused.any (fun (r : Refused) => r.msg.sender == m.sender && r.msg.seq == m.seq && aepKind r.msg.aep != 1) then s
        else ((s.takeMsg c m).takeEarly c p 5).resumeKey c (msgKey m) (s.core c).refused.length
      else if tsLt (s.expects c p) m.seq then
        if (s.core c).reorder.any (fun (r : Msg) => r.sender == m.sender && r.seq == m.seq) ∨
           (s.core c).refused.any (fun (r : Refused) => r.msg.sender == m.sender && r.msg.seq == m.seq) then s
        else if ((s.core c).reorder.filter (fun (r : Msg) => r.sender == m.sender)).length < 4 then
          s.setCore c { s.core c with reorder := (s.core c).reorder ++ [m] }
        else s.refuse c m m.aep false false false
      else s := by
  simp only [State.arrive, hup, hs, Bool.not_true, Bool.false_eq_true, false_and, if_false]

theorem msgKey_core {p : CoreId} (hs : m.sender = .core p) : msgKey m = (m.sender, 0) := by
  simp only [msgKey, hs]

section
variable {p : CoreId} (hnew : s.crossedBefore c m = false) (hkind : aepKind m.aep ≠ 1) (hs : m.sender = .core p)
  (hup : (s.ackBridge c m).served c = true)
include hnew hkind hs hup

theorem messageArrival_copy (hold : tsLt m.seq ((s.ackBridge c m).expects c p) = true) :
    exec (.messageArrival c m) s = .next (s.ackBridge c m) := by
  rw [messageArrival_of hnew hkind, arrive_core hs hup, if_neg (ne_of_tsLt hold), tsLt_asymm hold]
  rfl

theorem messageArrival_turn (hturn : m.seq = (s.ackBridge c m).expects c p)
    (hhere : ((s.ackBridge c m).core c).refused.any
      (fun (r : Refused) => r.msg.sender == m.sender && r.msg.seq == m.seq && aepKind r.msg.aep != 1) = false) :
    exec (.messageArrival c m) s = .next ((((s.ackBridge c m).takeMsg c m).takeEarly c p 5).resumeKey c (m.sender, 0)
      ((s.ackBridge c m).core c).refused.length) := by
  rw [messageArrival_of hnew hkind, arrive_core hs hup, if_pos hturn, hhere, msgKey_core hs]
  rfl

theorem messageArrival_early (hlater : tsLt ((s.ackBridge c m).expects c p) m.seq = true)
    (hreorder : ((s.ackBridge c m).core c).reorder.any (fun (r : Msg) => r.sender == m.sender && r.seq == m.seq) = false)
    (hrefused : ((s.ackBridge c m).core c).refused.any (fun (r : Refused) => r.msg.sender == m.sender && r.msg.seq == m.seq) = false)
    (hroom : (((s.ackBridge c m).core c).reorder.filter (fun (r : Msg) => r.sender == m.sender)).length < 4) :
    exec (.messageArrival c m) s =
      .next ((s.ackBridge c m).updCore c (fun (x : Core) => { x with reorder := x.reorder ++ [m] })) := by
  rw [messageArrival_of hnew hkind, arrive_core hs hup, if_neg (ne_of_tsLt hlater).symm, if_pos hlater, hreorder, hrefused,
    if_neg (by simp), if_pos hroom]
  rfl

end

/-! ### Call-back and resend (09 R219) -/

theorem messageResend_gone (h : (s.core c).refused.any (fun (r : Refused) => r.msg == m) = false) :
    exec (.messageResend c m) s = .next s := by
  have hnone : (s.core c).refused.find? (fun (r : Refused) => r.msg == m) = none := by
    simpa [List.find?_eq_none, List.any_eq_false] using h
  simp only [exec_messageResend, execMessageResend, hnone]

/-- A message called back and accepted leaves the list, and its order goes on. -/
theorem messageResend_accepted {r : Refused} {ws : List Word} {s0 s1 : State}
    (hclose : (s.core c).closeWait.find? (fun p => closeMsg p == m) = none)
    (hr : (s.core c).refused.find? (fun (r : Refused) => r.msg == m) = some r) (hmay : s.mayRecall c r = true)
    (hdec : s.decodeMsg c m = (ws, s0)) (hacc : s0.deliver c m ws r.judged r.nobin = .accepted s1) :
    exec (.messageResend c m) s =
      let s3 := match m.sender with
        | .core p => s1.updCore c (fun (x : Core) => { x with seqIn := setCount x.seqIn p.val (m.seq + 1) })
        | _ => s1
      let s4 := (s3.updCore c (fun (x : Core) => { x with refused := x.refused.erase r })).acceptedMsg m
      let s5 := s4.resumeKey c (msgKey m) (s4.core c).refused.length
      .next ((match m.sender with | .core p => s5.takeEarly c p 5 | _ => s5).postOnce 1 (.refusalCallback c r.chan)) := by
  simp only [exec_messageResend, execMessageResend, hr, hmay, Bool.not_true, Bool.false_eq_true, if_false, hclose, hdec, hacc] <;>
    rfl

/-! ### The bridge (18 R332) -/

theorem bridgeResend_of {p q : Fin 12} (hq : s.portOf p.val = some q) :
    let l := (rd s.bridges p).sent
    let b := wr s.bridges p { rd s.bridges p with sent := [] }
    exec (.bridgeResend p) s = .next (l.foldl (fun (s : State) x => s.post 100 (.messageArrival x.1 x.2))
      { s with bridges := wr b q { rd b q with sent := (rd b q).sent ++ l } }) := by
  have hnext : ((List.range 12).map (fun i => Fin.ofNat 12 (p.val + i))).find? (fun (q : Fin 12) => s.house.ready.getLsbD (40 + q.val)) =
      some q := hq
  simp only [exec_bridgeResend, execBridgeResend, hnext]

end

/-- Settles O28. -/
theorem messagesArrive : Obligations.MessagesArrive := by
  intro s c ch m wid r
  refine ⟨fun p hnew hkind hs hup => ⟨messageArrival_copy hnew hkind hs hup, messageArrival_turn hnew hkind hs hup,
      fun hlater hearly => messageArrival_early hnew hkind hs hup hlater hearly⟩, fun h => ?_, fun hnew hkind => ⟨fun h => ?_, fun h => ?_⟩, rfl,
    fun h => ?_, fun h => ?_, messageResend_gone, fun src ws s0 s1 hsrc hclose hr hmay hdec hacc => ⟨fun p hs => ?_, fun hs => ?_⟩,
    fun p q => bridgeResend_of⟩
  · simp only [exec_messageArrival, execMessageArrival, h, if_true]
  · rw [messageArrival_mark hnew hkind, if_pos h]
  · rw [messageArrival_mark hnew hkind, if_neg (by rw [h]; exact Bool.false_ne_true)]
  · simp only [exec_refusalCallback, execRefusalCallback, h]
  · have hnone : (s.core c).refused.find? (fun (r : Refused) => r.chan == ch && s.mayRecall c r) = none := by
      simpa [List.find?_eq_none, List.any_eq_false] using h
    simp only [exec_refusalCallback, execRefusalCallback, hnone]
  · rw [messageResend_accepted hclose hr hmay hdec hacc]
    simp only [hs, ← hsrc]
  · rw [messageResend_accepted hclose hr hmay hdec hacc, ← hsrc]
    cases h : m.sender with
    | core p => exact absurd h (hs p)
    | _ => rfl

end Sys2Proof.Machine
end

section
/-! PROOF. How work is found: queues, joins, steals, and the choice of a handler (07 R187, R199; 09 R215-R217; 14 R293-R296; log
entries 4, 69). -/

namespace Sys2Proof.Machine

/-! ### Pushes that wait (14 R293, R294) -/

section
variable {s : State} {q : ClusterId} {e : TqEntry} {es : List TqEntry}

/-- The first of the line takes a free entry of the queue. -/
def State.lineMoves (s : State) (q : ClusterId) (e : TqEntry) (es : List TqEntry) : State :=
  (s.updCluster q (fun (x : Cluster) => { x with tq := x.tq ++ [{ e with waiter := none }], tqWait := es })).steals q

theorem queuePushWait_empty (h : (s.cluster q).tqWait = []) : exec (.queuePushWait q) s = .next s := by
  simp only [exec_queuePushWait, execQueuePushWait, h]

theorem queuePushWait_full (h : (s.cluster q).tqWait = e :: es) (hfull : 1024 ≤ (s.cluster q).tq.length) :
    exec (.queuePushWait q) s = .next s := by
  simp only [exec_queuePushWait, execQueuePushWait, h, queueSize, Nat.not_lt.mpr hfull, false_and, if_false]

theorem queuePushWait_moves (h : (s.cluster q).tqWait = e :: es) (hroom : (s.cluster q).tq.length < 1024) (hwaiter : e.waiter = none) :
    exec (.queuePushWait q) s =
      .next (if es = [] then s.lineMoves q e es else (s.lineMoves q e es).postOnce 1 (.queuePushWait q)) := by
  simp only [exec_queuePushWait, execQueuePushWait, h, queueSize, hroom, hwaiter, Option.isSome_none, Bool.false_and, Bool.not_false,
    and_self, if_true, List.isEmpty_iff]
  rfl

/-- A strand that waits in `spawn` goes on. -/
theorem queuePushWait_spawned {wid : Nat} (h : (s.cluster q).tqWait = e :: es) (hroom : (s.cluster q).tq.length < 1024)
    (hwaiter : e.waiter = some wid) (hspec : e.crec.spec = false) :
    let s1 := (s.lineMoves q e es).answerAmo e.spawner wid (fun (y : Strand) =>
      if y.ticket = some e.id then { y with answer := some 0 } else y)
    exec (.queuePushWait q) s = .next (if es = [] then s1 else s1.postOnce 1 (.queuePushWait q)) := by
  simp only [exec_queuePushWait, execQueuePushWait, h, queueSize, hroom, hwaiter, hspec, Bool.and_false, Bool.not_false, and_self,
    if_true, List.isEmpty_iff]
  rfl

end

/-! ### Joins (07 R199; 14 R296) -/

section
variable {s s1 s2 s3 s4 : State} {c : CoreId} {asid : BitVec 16} {entry : Option Nat} {jo : CVal} {bs : List RByte} {t : Tr × Dbl × Nat}

/-- `n` bytes of a record, as a number. -/
def numAt (bs : List RByte) (o n : Nat) : Nat := ofBytes (((bs.drop o).take n).map (fun (b : RByte) => b.1))

/-- The join's flags with JZERO set. -/
def jzeroOf (bs : List RByte) : List Byte := toBytes 4 (Nat.lor (numAt bs 4 4) (2 ^ 31))

/-- Bytes of a join's record written at its home. -/
def State.joinPut (s : State) (w : Who) (jo : CVal) (n : Nat) (l : List Byte) : Except (FaultInfo × State) State :=
  s.homeWrite w (jo.has .local) [(jo.addr + BitVec.ofNat 64 n, l)] []

/-- A join listed among those whose count has reached zero. -/
def State.markJoined (s : State) (p : Nat) : State := { s with joined := setIn s.joined p }

/-- The capability of a join's parent. -/
def parentOf (bs : List RByte) : CVal :=
  { val := BitVec.ofNat 128 (numAt bs 16 16), tag := ((bs[16]?).map (fun (b : RByte) => b.2)).getD false }

section
variable (hread : s.homeRead { core := c, asid := asid, eng := false } (jo.has .local) jo.addr 32 .write = .ok (bs, s1))
  (htr : s1.translateAll { core := c, asid := asid, eng := false } (jo.has .local) .write [(jo.addr, 32)] = .ok ([t], s3))
include hread htr

omit htr in
/-- A join that stands at zero. -/
theorem joinDecrement_atZero (hcount : numAt bs 0 4 = 0)
    (hput : s1.joinPut { core := c, asid := asid, eng := false } jo 4 (jzeroOf bs) = .ok s2) :
    exec (.joinDecrement c asid entry jo) s = .next (State.joinedEnds { s2 with joined := s1.joined } entry) := by
  simp only [State.joinPut, jzeroOf, numAt] at hput hcount
  simp only [exec_joinDecrement, execJoinDecrement, hread, hcount, hput, if_true]

/-- A join whose count falls and has not been at zero. -/
theorem joinDecrement_falls (hcount : 1 < numAt bs 0 4) (hfirst : s1.joined.contains t.1.phys = false)
    (hput : s1.joinPut { core := c, asid := asid, eng := false } jo 0 (toBytes 4 (numAt bs 0 4 - 1)) = .ok s2) :
    exec (.joinDecrement c asid entry jo) s = .next (s2.joinedEnds entry) := by
  have h0 : ¬ numAt bs 0 4 = 0 := by omega
  simp only [State.joinPut, numAt] at hput hcount h0
  simp only [exec_joinDecrement, execJoinDecrement, hread, htr, h0, Option.any_some, hfirst, Bool.false_eq_true, gt_iff_lt, hcount,
    hput, if_false, if_true]

/-- A join whose count has been at zero before. -/
theorem joinDecrement_past (hcount : 0 < numAt bs 0 4) (hpast : s1.joined.contains t.1.phys = true)
    (hput : s1.joinPut { core := c, asid := asid, eng := false } jo 0 (toBytes 4 (numAt bs 0 4 - 1) ++ jzeroOf bs) = .ok s2) :
    exec (.joinDecrement c asid entry jo) s = .next ((s2.markJoined t.1.phys).joinedEnds entry) := by
  have h0 : ¬ numAt bs 0 4 = 0 := by omega
  simp only [State.joinPut, numAt, jzeroOf] at hput hcount h0
  simp only [exec_joinDecrement, execJoinDecrement, hread, htr, h0, Option.any_some, hpast, hput, if_false, if_true]
  rfl

/-- A join whose count reaches zero pushes its parent. -/
theorem joinDecrement_pushes {r : ContRec} (hcount : numAt bs 0 4 = 1) (hfirst : s1.joined.contains t.1.phys = false)
    (hq : fld (numAt bs 4 4) 5 1 = 1 ∨ fld (numAt bs 4 4) 0 5 < 24)
    (hrec : s1.parentRec { core := c, asid := asid, eng := false } (parentOf bs) = (some r, s4))
    (hput : s4.joinPut { core := c, asid := asid, eng := false } jo 0 (toBytes 4 0) = .ok s2) :
    exec (.joinDecrement c asid entry jo) s = .next (((s2.markJoined t.1.phys).push
      (if fld (numAt bs 4 4) 5 1 = 1 then clusterOf c else Fin.ofNat 24 (fld (numAt bs 4 4) 0 5))
      (entryOf r asid ((entry.bind s4.findEntry).bind (fun e => e.2.grid)) c)).joinedEnds entry) := by
  simp only [State.joinPut, numAt, parentOf] at hput hcount hrec hq ⊢
  simp only [exec_joinDecrement, execJoinDecrement, hread, htr, hcount, Option.any_some, hfirst, Bool.false_eq_true, one_ne_zero,
    gt_iff_lt, lt_self_iff_false, if_false, hrec]
  by_cases hown : fld (ofBytes (((bs.drop 4).take 4).map (fun (b : RByte) => b.1))) 5 1 = 1
  · simp only [hown, if_true, hput]
    rfl
  · simp only [hown, if_false, hq.resolve_left hown, if_true, hput]
    rfl

end

end

/-! ### Records taken and stolen (09 R215; 14 R293, R295) -/

section
variable {s : State} {c : CoreId} {k : SlotId} {q : ClusterId} {e : TqEntry}

theorem continuationTake_takes (hopen : s.closed c = false) (hk : (s.core c).dormant = some k) (hq : clusterOf c = q)
    (he : bestEntry ((s.cluster q).tq.filter (s.takable c)) = some e) :
    exec (.continuationTake c) s = .next ((s.startCont c k q e).offer c) := by
  simp only [exec_continuationTake, execContinuationTake, hopen, hk, hq, he, Bool.false_eq_true, if_false]

theorem continuationTake_steals (hopen : s.closed c = false) (hk : (s.core c).dormant = some k) (hq : clusterOf c = q)
    (he : bestEntry ((s.cluster q).tq.filter (s.takable c)) = none) (hsteal : (s.core c).stealing = false) :
    exec (.continuationTake c) s =
      .next ((s.updCore c (fun (x : Core) => { x with stealing := true })).post 20 (.stealRound c)) := by
  simp only [exec_continuationTake, execContinuationTake, hopen, hk, hq, he, hsteal, Bool.false_eq_true, if_false]

theorem filter_stealable_nil {p : ClusterId} (h : ∀ f ∈ (s.cluster p).tq, s.stealable c f = false) :
    bestEntry ((s.cluster p).tq.filter (s.stealable c)) = none := by
  rw [List.filter_eq_nil_iff.mpr fun f hf => by rw [h f hf]; exact Bool.false_ne_true]
  rfl

/-- What the first cluster of a list that offers a record offers. -/
def State.firstOffer (s : State) (c : CoreId) (l : List ClusterId) : Option (ClusterId × TqEntry) :=
  l.findSome? (fun p => (bestEntry ((s.cluster p).tq.filter (s.stealable c))).map (fun e => (p, e)))

theorem firstOffer_none {l : List ClusterId} (h : ∀ p ∈ l, ∀ f ∈ (s.cluster p).tq, s.stealable c f = false) :
    s.firstOffer c l = none := by
  refine List.findSome?_eq_none_iff.mpr fun p hp => ?_
  rw [filter_stealable_nil (h p hp)]
  rfl

theorem firstOffer_some {p : ClusterId} {before after : List ClusterId}
    (h : ∀ b ∈ before, ∀ f ∈ (s.cluster b).tq, s.stealable c f = false)
    (he : bestEntry ((s.cluster p).tq.filter (s.stealable c)) = some e) : s.firstOffer c (before ++ p :: after) = some (p, e) := by
  have hnone := firstOffer_none h
  rw [State.firstOffer] at hnone ⊢
  rw [List.findSome?_append, hnone, List.findSome?_cons, he]
  rfl

theorem stealRound_none (hopen : s.closed c = false) (hk : (s.core c).dormant = some k)
    (hnone : s.firstOffer c (stealOrder (clusterOf c)) = none) :
    exec (.stealRound c) s = .next
      ((s.updCore c (fun (x : Core) => { x with stealing := true, stealAt := s.dt + 539 })).post 539 (.stealRetryTimeout c)) := by
  rw [State.firstOffer] at hnone
  simp only [exec_stealRound, execStealRound, hopen, hk, Bool.false_eq_true, if_false, hnone, ite_self]

theorem stealRound_takes {p : ClusterId} (hopen : s.closed c = false) (hk : (s.core c).dormant = some k) (hq : clusterOf c = q)
    (hroom : (s.cluster q).hasRoom = true) (hsome : s.firstOffer c (stealOrder q) = some (p, e)) :
    exec (.stealRound c) s = .next (((((s.updCore c (fun (x : Core) => { x with stealing := false })).dropEntry p e.id).updCluster q
      (fun (x : Cluster) => { x with tq := x.tq ++ [e] })).startCont c k q e).offer c) := by
  rw [State.firstOffer] at hsome
  simp only [exec_stealRound, execStealRound, hopen, hk, hq, Bool.false_eq_true, if_false, hroom, if_true, hsome]

end

/-! ### The choice of a handler (09 R215-R217; 07 R187) -/

section
variable {s : State} {c : CoreId} {k : SlotId} {ch : Fin 64} {m : InMsg}

theorem handlerChoice_closed (h : (s.ageChans c).closed c = true) : exec (.handlerChoice c) s = .next (s.ageChans c) := by
  simp only [exec_handlerChoice, execHandlerChoice, h, if_true]

section
variable (hopen : (s.ageChans c).closed c = false)
include hopen

theorem handlerChoice_busy (hk : ((s.ageChans c).core c).dormant = none) : exec (.handlerChoice c) s = .next (s.ageChans c) := by
  simp only [exec_handlerChoice, execHandlerChoice, hopen, hk, Bool.false_eq_true, if_false]

variable (hk : ((s.ageChans c).core c).dormant = some k)
include hk

theorem handlerChoice_none (h : ((s.ageChans c).core c).hmax ≤ ((s.ageChans c).core c).handlersOn ∨
    (s.ageChans c).pick c ((s.ageChans c).mayStart c) = none) :
    exec (.handlerChoice c) s = .next ((s.ageChans c).postOnce 1 (.continuationTake c)) := by
  have hch : (if ((s.ageChans c).core c).handlersOn < ((s.ageChans c).core c).hmax then
      (s.ageChans c).pick c ((s.ageChans c).mayStart c) else none) = none := by
    rcases h with h | h
    · exact if_neg (Nat.not_lt.mpr h)
    · rw [h, ite_self]
  simp only [exec_handlerChoice, execHandlerChoice, hopen, hk, Bool.false_eq_true, if_false, hch, Option.bind_none]

theorem handlerChoice_starts (hroom : ((s.ageChans c).core c).handlersOn < ((s.ageChans c).core c).hmax)
    (hch : (s.ageChans c).pick c ((s.ageChans c).mayStart c) = some ch) (hm : ((s.ageChans c).core c).head ch = some m) :
    exec (.handlerChoice c) s = .next (((s.ageChans c).startHandler c k ch m).offer c) := by
  simp only [exec_handlerChoice, execHandlerChoice, hopen, hk, Bool.false_eq_true, if_false, hroom, if_true, hch, Option.bind_some,
    hm, Option.map_some]

end

/-- The c registers of a slot at the start of work. -/
theorem fresh'_creg (x : Core) (k : SlotId) (asid : BitVec 16) (pcc c2 c3 c4 c5 : CVal) (w : Work) :
    (x.fresh' k asid pcc c2 c3 c4 c5 w).creg 3 = c3 ∧ (x.fresh' k asid pcc c2 c3 c4 c5 w).creg 4 = c4 ∧
    (x.fresh' k asid pcc c2 c3 c4 c5 w).creg 5 = c5 ∧
    ∀ i : Fin 64, 5 < i.val → (x.fresh' k asid pcc c2 c3 c4 c5 w).creg i = .null := by
  refine ⟨?_, ?_, ?_, fun i hi => ?_⟩
  · rw [Core.fresh', setC_creg_ne _ _ (by decide), setC_creg_ne _ _ (by decide), setC_creg_same _ _ (by decide)]
  · rw [Core.fresh', setC_creg_ne _ _ (by decide), setC_creg_same _ _ (by decide)]
  · rw [Core.fresh', setC_creg_same _ _ (by decide)]
  · have hne : ∀ j : Fin 64, j.val ≤ 5 → i ≠ j := fun j hj e => absurd (e ▸ hj) (Nat.not_le.mpr hi)
    rw [Core.fresh', setC_creg_ne _ _ (hne 5 (by decide)), setC_creg_ne _ _ (hne 4 (by decide)),
      setC_creg_ne _ _ (hne 3 (by decide)), setC_creg_ne _ _ (hne 2 (by decide))]
    exact creg_strandReset i

/-- A c register is read apart from the strand's readiness and message. -/
theorem creg_withMsg (x : Strand) (t : Nat) (m : Option CurMsg) (i : Fin 64) :
    Strand.creg { x with readyAt := t, msg := m } i = x.creg i := by
  simp only [Strand.creg]

/-- The slot of a handler that starts on a message with a code capability of its channel. -/
theorem startHandler_strand (hinline : m.aep.getLsbD 16 = false) :
    let e := rd (s.core c).chan ch
    (s.startHandler c k ch m).strand c k =
      { (s.core c).fresh' k e.asid e.code (e.stack.stackPart k.val) e.data (.plain m.aep) (.plain (deliveryWord m))
          { Work.none with
            wid := s.nextId, kind := .handler ch, role := BitVec.ofNat 2 (e.f 2 2)
            grid := (s.grids.find? (fun (g : Grid) => g.chans.contains (c, ch))).map (·.id) } with
        readyAt := s.dt, msg := some { chan := ch, unit := m.unit, words := m.words } } := by
  have hbit : m.aep.getLsbD fInline = false := hinline
  simp only [State.startHandler, State.newId, hbit, Bool.false_eq_true, if_false, State.strand, setCore_core_same, Core.strand,
    rd_wr_same]
  rfl

end

/-- Settles O30. -/
theorem findingWork : Obligations.FindingWork := by
  refine ⟨fun s q c k e es => ⟨queuePushWait_empty, queuePushWait_full, fun h hroom => ⟨fun hwaiter => ?_, fun wid hwaiter hspec => ?_⟩,
    fun asid entry jo bs s1 t s3 hread htr => ⟨fun s2 => joinDecrement_atZero hread, fun s2 => joinDecrement_falls hread htr,
      fun s2 => joinDecrement_past hread htr, fun r s2 s4 => joinDecrement_pushes hread htr⟩,
    fun hopen hk hq => ⟨continuationTake_takes hopen hk hq, continuationTake_steals hopen hk hq, fun hnone => ?_,
      fun p before after horder hbefore he hlen hwait => ?_⟩, fun h => ?_, fun h => ?_⟩, fun s c k ch m => ⟨handlerChoice_closed,
    handlerChoice_busy, fun hopen hk => ⟨handlerChoice_none hopen hk, handlerChoice_starts hopen hk⟩, fun hinline => ?_⟩⟩
  · exact queuePushWait_moves h hroom hwaiter
  · exact queuePushWait_spawned h hroom hwaiter hspec
  · exact stealRound_none hopen hk (firstOffer_none (hq ▸ hnone))
  · exact stealRound_takes hopen hk hq (hasRoom_of hlen hwait) (horder ▸ firstOffer_some hbefore he)
  · simp only [exec_stealRetryTimeout, execStealRetryTimeout, h, if_true]
  · simp only [exec_stealRetryTimeout, execStealRetryTimeout, Nat.not_lt.mpr h, if_false]
  · intro y
    obtain ⟨h3, h4, h5, hrest⟩ := fresh'_creg (s.core c) k (rd (s.core c).chan ch).asid (rd (s.core c).chan ch).code
      ((rd (s.core c).chan ch).stack.stackPart k.val) (rd (s.core c).chan ch).data (.plain m.aep) (.plain (deliveryWord m))
      { Work.none with
        wid := s.nextId, kind := .handler ch, role := BitVec.ofNat 2 ((rd (s.core c).chan ch).f 2 2)
        grid := (s.grids.find? (fun (g : Grid) => g.chans.contains (c, ch))).map (·.id) }
    rw [show y = _ from startHandler_strand hinline]
    simp only [creg_withMsg]
    exact ⟨rfl, rfl, rfl, h4, h5, h3, rfl, rfl, rfl, hrest⟩

end Sys2Proof.Machine
end

section
/-! PROOF. Speculative tasks: their spawns, ends and aborts, the frontier's commits, and version records freed (07 R201; 15 R298;
16 R303, R307-R310; log entries 4, 66). -/

namespace Sys2Proof.Machine

/-! ### What a load leaves of the strands (04 R103) -/

/-- `t` runs the slot of `s`, and its cores hold the strands of those of `s`. -/
def State.SameStrands (s t : State) : Prop := t.cur = s.cur ∧ ∀ c, (t.core c).strands = (s.core c).strands

section
variable {s t u : State}

theorem State.SameStrands.refl (s : State) : s.SameStrands s := ⟨rfl, fun _ => rfl⟩

theorem State.SameStrands.trans (h : s.SameStrands t) (k : t.SameStrands u) : s.SameStrands u :=
  ⟨k.1.trans h.1, fun c => (k.2 c).trans (h.2 c)⟩

theorem State.SameStrands.me (h : s.SameStrands t) : t.me = s.me := by
  simp only [State.me, State.strand, Core.strand, h.1, h.2]

theorem State.SameStrands.post (h : s.SameStrands t) (n : Nat) (e : Instr) : s.SameStrands (t.post n e) := ⟨h.1, h.2⟩

/-- A change of one core that keeps its strands. -/
theorem sameStrands_setCore {c : CoreId} {x : Core} (h : x.strands = (s.core c).strands) : s.SameStrands (s.setCore c x) := by
  refine ⟨rfl, fun e => ?_⟩
  by_cases he : e = c
  · subst he
    rw [setCore_core_same, h]
  · rw [setCore_core_ne _ _ he]

theorem sameStrands_setTlb (s : State) (ni : Fin 400) (l : List TlbEntry) : s.SameStrands (s.setTlb ni l) := by
  unfold State.setTlb
  split
  · exact .refl _
  · exact sameStrands_setCore rfl
  · exact .refl _

theorem sameStrands_dropCopies (s : State) (f : L0Line → Bool) : s.SameStrands (s.dropCopies f) := by
  refine ⟨rfl, fun c => ?_⟩
  simp only [State.dropCopies, State.core, rd_vmap]
  exact (apply_ite Core.strands _ _ _).trans (ite_self _)

theorem sameStrands_pteOr (s : State) (a b : Nat) : s.SameStrands (s.pteOr a b) :=
  State.SameStrands.trans (t := { s with mem := memWrite s.mem a (toBytes 8 (Nat.lor (memNat s.mem a 8) (2 ^ b))) })
    (.refl _) (sameStrands_dropCopies ..)

theorem sameStrands_walk (s : State) (ni : Fin 400) (asid : BitVec 16) (va : Dbl) (m : Mode) :
    s.SameStrands (s.walk ni asid va m).2 := by
  simp only [State.walk]
  split
  · exact .refl _
  · split
    · exact .refl _
    · split
      · exact .refl _
      · split
        · exact .refl _
        · refine .trans ?_ (sameStrands_setTlb ..)
          split
          · exact sameStrands_pteOr ..
          · exact .refl _

theorem sameStrands_lookup (s : State) (ni : Fin 400) (asid : BitVec 16) (va : Dbl) (m : Mode) :
    s.SameStrands (s.lookup ni asid va m).2 := by
  unfold State.lookup
  split
  · exact sameStrands_setTlb ..
  · exact sameStrands_walk ..

theorem sameStrands_of_lookup {ni : Fin 400} {asid : BitVec 16} {va : Dbl} {m : Mode} {r : Except FaultInfo TlbEntry}
    (h : s.lookup ni asid va m = (r, t)) : s.SameStrands t := by
  have := sameStrands_lookup s ni asid va m
  rwa [h] at this

/-- An address translated for a read. -/
theorem sameStrands_translate {w : Who} {loc : Bool} {va : Dbl} {tr : Tr} (h : s.translate w loc va .read = (.ok tr, t)) :
    s.SameStrands t := by
  simp only [State.translate, reduceCtorEq, if_false] at h
  split at h
  · split at h <;> cases h
    exact .refl _
  · split at h
    · split at h
      · cases h
      · split at h
        · cases h
        · rename_i hl
          split at h <;> cases h
          exact sameStrands_of_lookup hl
    · split at h
      · split at h
        · cases h
        · split at h
          · cases h
          · rename_i hl
            split at h
            · cases h
            · split at h <;> split at h <;> cases h <;> exact sameStrands_of_lookup hl
      · cases h

theorem sameStrands_translateAll {w : Who} {loc : Bool} {ps : List (Dbl × Nat)} {ts : List (Tr × Dbl × Nat)}
    (h : s.translateAll w loc .read ps = .ok (ts, t)) : s.SameStrands t := by
  induction ps generalizing s ts with
  | nil =>
    cases h
    exact .refl _
  | cons p ps ih =>
    obtain ⟨va, n⟩ := p
    simp only [State.translateAll] at h
    split at h
    · cases h
    · rename_i htr
      split at h
      · cases h
      · rename_i hrest
        cases h
        exact (sameStrands_translate htr).trans (ih hrest)

theorem sameStrands_takeRecord {x : SpecCtx} {k : LineKey} (h : s.takeRecord x k = .ok t) : s.SameStrands t := by
  simp only [State.takeRecord] at h
  split at h
  · cases h
    exact .refl _
  · split at h <;> split at h <;> cases h <;> exact .refl _

theorem sameStrands_specReadParts {w : Who} {x : SpecCtx} {ps : List (Tr × Dbl × Nat)} {bs : List RByte}
    (h : s.specReadParts w x ps = .ok (bs, t)) : s.SameStrands t := by
  induction ps generalizing s bs with
  | nil =>
    cases h
    exact .refl _
  | cons p ps ih =>
    obtain ⟨tr, va, n⟩ := p
    simp only [State.specReadParts] at h
    split at h
    · cases h
    · split at h
      · cases h
      · rename_i s1 htake
        split at h
        · cases h
        · rename_i hrest
          cases h
          refine (sameStrands_takeRecord htake).trans (State.SameStrands.trans ?_ (ih hrest))
          exact ⟨rfl, fun _ => rfl⟩

theorem sameStrands_l0Fill (s : State) (c : CoreId) (asid : BitVec 16) (tr : Tr) (va : Dbl) (demand : Bool) :
    s.SameStrands (s.l0Fill c asid tr va demand) := by
  simp only [State.l0Fill]
  split
  · exact .refl _
  · split
    all_goals
      split
      · exact sameStrands_setCore rfl
      · refine .post ?_ _ _
        exact sameStrands_setCore rfl

theorem foldl_sameStrands {α : Type} {f : State → α → State} (h : ∀ (s : State) (a : α), s.SameStrands (f s a)) (l : List α)
    (s : State) :
    s.SameStrands (l.foldl f s) := by
  induction l generalizing s with
  | nil => exact .refl _
  | cons a l ih => exact (h s a).trans (ih (f s a))

/-- What a load notes in its strand is the stores whose values it has taken. -/
theorem noteTaken_ticket {p : CoreId × SlotId} (h : s.cur = p) (l : List Nat) : (s.noteTaken p.1 p.2 l).me.ticket = s.me.ticket := by
  subst h
  simp only [State.noteTaken]
  split
  · rfl
  · have hme (f : Strand → Strand) : (s.updStrand s.cur.1 s.cur.2 f).me = f s.me := me_setMe s (f s.me)
    rw [hme]

/-- A load of the running strand that gives a value leaves its place in a line. -/
theorem load_ticket {id n : Nat} {loc : Bool} {va : Dbl} {bs : List RByte} (h : s.load s.cur.1 s.cur.2 id loc va n = .ok (bs, t)) :
    t.me.ticket = s.me.ticket := by
  simp only [State.load] at h
  split at h
  · cases h
  · rename_i ts s1 htr
    have hs1 := sameStrands_translateAll htr
    split at h
    · rw [(hs1.trans (sameStrands_specReadParts h)).me]
    · split at h
      · cases h
      · split at h
        · cases h
        · cases h
          have hs2 := hs1.trans (foldl_sameStrands
            (f := fun u p => u.l0Fill s.cur.1 (s.whoOf s.cur.1 s.cur.2).asid p.1 p.2.1 true) (fun u p => sameStrands_l0Fill u ..) ts s1)
          rw [noteTaken_ticket hs2.1, hs2.me]

end

/-! ### Tasks made (07 R201) -/

section
variable {s s1 : State} {g : Fin 8} {d a b : Fin 64} {r v : CVal} {x y z : Strand} {bs : List RByte}

theorem checkRec_spec {c : ContRec} (htag : c.code.tag = true) (hexec : c.code.has .exec = true)
    (hform : df c.flags 10 6 = 0 ∧ df c.flags 35 29 = 0 ∧ c.role ≠ 3 ∧ c.spec = true) : checkRec c true = .ok () := by
  obtain ⟨h10, h35, hrole, hspec⟩ := hform
  simp only [checkRec, need, htag, hexec, h10, h35, hspec, bne_iff_ne.mpr hrole, BEq.rfl, Bool.and_self, if_true, bind, Except.bind]

/-- A domain takes a timestamp that no task has and that its frontier has not passed (R298). -/
theorem taskTime_free {dom : Domain} {ts : BitVec 48} (hts : ∀ t ∈ dom.tasks, t.ts ≠ ts)
    (hfirst : dom.highest = none ∨ dom.tasks ≠ [] ∨ dom.past ≠ 0) (hlow : dom.frontier.getD dom.past ≤ ts) :
    (!(dom.tasks.any (fun t => t.ts == ts)) && decide (dom.frontier.getD dom.past ≤ ts) &&
      (dom.highest.isNone || !dom.tasks.isEmpty || decide (dom.past ≠ 0))) = true := by
  have hnone : dom.tasks.any (fun t => t.ts == ts) = false := by simpa using hts
  have hroom : (dom.highest.isNone || !dom.tasks.isEmpty || decide (dom.past ≠ 0)) = true := by
    simpa [or_assoc] using hfirst
  rw [hnone, hroom, decide_eq_true hlow]
  rfl

/-- A strand that has no place in a line takes its turn at a queue that has room. -/
theorem turnInLine_ok {q : ClusterId} (e : TqEntry) (hticket : s.me.ticket = none) (h : (s.cluster q).hasRoom = true) :
    s.turnInLine q e = .ok s := by
  simp only [State.turnInLine, hticket, h, if_true]

theorem tspawn_of {ts : BitVec 48} {c : ContRec} (hg : s.me.guard g = true) (ha : s.me.source a = some (r, x))
    (hb : x.source b = some (v, y)) (hticket : s.me.ticket = none) (hmay : s.mayAccess r [.ld, .ldcap] r.addr 64 64)
    (hload : (s.setMe y).load s.cur.1 s.cur.2 s.nextId (r.has .local) r.addr 64 = .ok (bs, s1)) (hc : recOf bs = c)
    (hv : v.addr.setWidth 48 = ts) (hrec : checkRec c true = .ok ()) (hdet : c.det = false)
    (hgrid : (s1.me.work.grid.isSome && (rd s1.doms c.domain).grid == s1.me.work.grid) = true)
    (hts : ∀ t ∈ (rd s1.doms c.domain).tasks, t.ts ≠ ts)
    (hfirst : (rd s1.doms c.domain).highest = none ∨ (rd s1.doms c.domain).tasks ≠ [] ∨ (rd s1.doms c.domain).past ≠ 0)
    (hlow : (rd s1.doms c.domain).frontier.getD (rd s1.doms c.domain).past ≤ ts)
    (hloads : s1.me.loadsPending = false) (hposts : s1.postsDone = true)
    (hroom : (s1.cluster (clusterOf s1.cur.1)).hasRoom = true) :
    let q := clusterOf s1.cur.1
    let s2 : State := { s1.updCore s1.cur.1 (fun (q : Core) => { q with spawnCtr := q.spawnCtr + 1 }) with nextId := s1.nextId + 1 }
    let t : STask :=
      { id := s1.nextId, ts := ts, st := .queued, parent := s1.me.work.task, cluster := q, entry := s1.nextId + 1
        core := none, reruns := 0, defer := [] }
    exec (.tspawn g a b) s = .next (s.passedTo 4 ((s2.updDom c.domain (fun (y : Domain) =>
        { y with tasks := y.tasks ++ [t], highest := some (match y.highest with
            | some h => if h < ts then ts else h
            | none => ts) })).pushNow q
      { entryOf ((c.withSeq s1.myCore.spawnCtr).withTs ts) s1.me.asid s1.me.work.grid s1.cur.1 with
        task := some s1.nextId, parkedBy := none })) := by
  subst hc hv
  refine (show exec (.tspawn g a b) s = execTspawn g a b s from rfl).trans (issue_ok hg ?_)
  have hticket1 : s1.me.ticket = none := by
    rw [load_ticket (s := s.setMe y) hload, me_setMe, (source_popped hb).ticket, (source_popped ha).ticket, hticket]
  have hme : s1.nextSpawn.2.newId.2.me = s1.me :=
    me_updCore (s := s1) (f := fun (q : Core) => { q with spawnCtr := q.spawnCtr + 1 }) rfl fun _ => rfl
  simp only [useC_of_source ha, useX_setMe hb, loadRec_of (s := s.setMe y) hmay hload, hrec, need_true hgrid,
    need_true (taskTime_free hts hfirst hlow), hdet,
    Bool.not_false, Bool.true_or, need_true, orderLoads_ok hloads, orderStores_ok hposts, turnInLine_ok _ hticket1 hroom,
    bind, Except.bind, if_false, Bool.false_eq_true, hme]
  rfl

/-! ### Tasks ended and asked about (07 R201) -/

section
variable {id : Nat} (hg : s.me.guard g = true) (htask : s.me.work.task = some id) (hawait : s.me.await = none)
    (hsettle : s.settleEnd = .ok s1) (hwork : s1.me.work = s.me.work)
include hg htask hawait hsettle hwork

/-- A speculative task ends: it is finished, and its domain's frontier is looked at. -/
theorem tdone_speculative (hirr : s.me.work.irrevocable = false) :
    exec (.tdone g) s = .next (((s1.release s1.cur.1 s1.cur.2).updTask s.me.work.domain id (fun (t : STask) =>
      { t with st := .finished, core := some s1.cur.1 })).pokeDomain s.me.work.domain) := by
  refine exec_tdone.trans (issueN_gone hg ?_)
  simp only [hawait, htask, Option.isSome_some, Option.isNone_none, need_true, hsettle, hwork, hirr, bind, Except.bind]
  rfl

theorem tdone_irrevocable (hirr : s.me.work.irrevocable = true) :
    exec (.tdone g) s = .next ((((s1.release s1.cur.1 s1.cur.2).updDom s.me.work.domain (fun (x : Domain) =>
      { x with commits := hold 0xFFFFFFFF (x.commits + 1) })).dropTask s.me.work).entryEnds s.me.work) := by
  refine exec_tdone.trans (issueN_gone hg ?_)
  simp only [hawait, htask, Option.isSome_some, Option.isNone_none, need_true, hsettle, hwork, hirr, if_true, bind, Except.bind]
  rfl

end

theorem myDomain_ok {k : Fin 8} (hreserved : qf v.val 3 125 = 0) (hk : Fin.ofNat 8 (qf v.val 0 3) = k)
    (hgrid : s.me.work.grid.isSome = true) (hmine : (rd s.doms k).grid = s.me.work.grid) : s.myDomain v = .ok k := by
  subst hk
  have hown : (s.me.work.grid.isSome && (rd s.doms (Fin.ofNat 8 (qf v.val 0 3))).grid == s.me.work.grid) = true := by
    rw [hgrid, hmine, BEq.rfl]
    rfl
  simp only [State.myDomain, hreserved, BEq.rfl, need_true, need_true hown, bind, Except.bind]
  rfl

section
variable {k : Fin 8} (hg : s.me.guard g = true) (ha : s.me.source a = some (r, x)) (hdom : (s.setMe x).myDomain r = .ok k)
include hg ha hdom

theorem tfront_at {t : BitVec 48} (h : (rd s.doms k).frontier = some t) (hd : x.result d (.plain (t.setWidth 128)) = some z) :
    exec (.tfront g d a) s = .next (s.passed 4 z) := by
  refine exec_tfront.trans (issue_me hg ?_)
  have hput : (s.setMe x).putX d (t.setWidth 64) = .ok (s.setMe z) :=
    putC_setMe (by rwa [BitVec.setWidth_setWidth (by decide)])
  simp only [useC_of_source ha, hdom, bind, Except.bind]
  rw [show rd (s.setMe x).doms k = rd s.doms k from rfl, h]
  exact hput

theorem tfront_idle (h : (rd s.doms k).frontier = none)
    (hd : x.result d (.plain ((((rd s.doms k).past.setWidth 64 ||| (1 : Dbl) <<< 63)).setWidth 128)) = some z) :
    exec (.tfront g d a) s = .next (s.passed 4 z) := by
  refine exec_tfront.trans (issue_me hg ?_)
  simp only [useC_of_source ha, hdom, bind, Except.bind]
  rw [show rd (s.setMe x).doms k = rd s.doms k from rfl, h]
  exact putC_setMe hd

end

section
variable {k : Fin 8} (hg : s.me.guard g = true) (ha : s.me.source a = some (r, x)) (hb : x.source b = some (v, y))
    (hdom : (s.setMe y).myDomain r = .ok k)
include hg ha hb hdom

theorem twaitc_of (h : ∀ t ∈ (rd s.doms k).tasks, (v.addr.setWidth 48 : BitVec 48) < t.ts) :
    exec (.twaitc g a b) s = .next (s.passed 4 y) := by
  refine exec_twaitc.trans (issue_me hg ?_)
  have hnone : (rd s.doms k).tasks.any (fun t => decide (t.ts ≤ (v.addr.setWidth 48 : BitVec 48))) = false :=
    List.any_eq_false.mpr fun t ht => by simpa using h t ht
  simp only [useC_of_source ha, useX_setMe hb, hdom, bind, Except.bind]
  rw [show rd (s.setMe y).doms k = rd s.doms k from rfl, hnone]
  rfl

theorem tabort_of (h : s.me.work.task = none) :
    exec (.tabort g a b) s = .next (s.passedTo 4 ((s.setMe y).abortTasks k
      (((rd s.doms k).tasks.filter (fun t => decide ((v.addr.setWidth 48 : BitVec 48) ≤ t.ts))).map (fun t => t.id)) .tabort)) := by
  refine exec_tabort.trans (issue_ok hg ?_)
  have htask : y.work.task = none := by rw [source_work hb, source_work ha, h]
  simp only [useC_of_source ha, useX_setMe hb, hdom, me_setMe, htask, Option.bind_none, bind, Except.bind]
  rfl

end

end

/-! ### The frontier commits (16 R307-R310) -/

section
variable {s : State} {d : Fin 8} {t : STask}

theorem taskCommit_idle (h : (rd s.doms d).first = none) : exec (.taskCommit d) s = .next s := by
  simp only [exec_taskCommit, execTaskCommit, h]

theorem taskIrrevocable_idle (h : (rd s.doms d).first = none) : exec (.taskIrrevocable d) s = .next s := by
  simp only [exec_taskIrrevocable, execTaskIrrevocable, h]

theorem taskCommit_unfinished (h : (rd s.doms d).first = some t) (hst : t.st ≠ .finished) : exec (.taskCommit d) s = .next s := by
  simp only [exec_taskCommit, execTaskCommit, h, hst, ne_eq, not_false_eq_true, if_true]

theorem taskIrrevocable_stopped (h : (rd s.doms d).first = some t) (hst : t.st ≠ .running) : exec (.taskIrrevocable d) s = .next s := by
  simp only [exec_taskIrrevocable, execTaskIrrevocable, h, hst, if_false]
  split <;> rfl

theorem taskCommit_finished {c : CoreId} (h : (rd s.doms d).first = some t) (hst : t.st = .finished) (hc : t.core = some c) :
    let s1 := ((s.commitVersions d c t.id).issueAll d c t).updDom d (fun (x : Domain) =>
      { x with commits := hold 0xFFFFFFFF (x.commits + 1), tasks := x.tasks.filter (fun y => y.id != t.id) })
    exec (.taskCommit d) s = .next (((s1.dropEntry t.cluster t.entry).gridCheck
      ((s1.findEntry t.entry).bind (fun e => e.2.grid))).pokeDomain d) := by
  simp only [exec_taskCommit, execTaskCommit, h, hst, hc, ne_eq, not_true_eq_false, if_false, Option.getD_some]

theorem taskIrrevocable_waiting {c : CoreId} {wid : Nat} (h : (rd s.doms d).first = some t) (hst : t.st = .running)
    (hc : t.core = some c) (hwid : s.shortOf c t.id = some wid) :
    let s1 := (((s.commitVersions d c t.id).issueAll d c t).updTask d t.id (fun (y : STask) =>
        { y with st := .irrevocable })).updWork c wid (fun (x : Strand) => { x with work := { x.work with irrevocable := true } })
    let s2 := s1.updEntry t.cluster t.entry (fun (e : TqEntry) => { e with irrevocable := true })
    exec (.taskIrrevocable d) s = .next (({ s2 with vwait := s2.vwait.filter (fun p => p.2 != wid) } : State).updDom d
      (fun (x : Domain) => { x with irrev := hold 0xFFFF (x.irrev + 1) })) := by
  simp only [exec_taskIrrevocable, execTaskIrrevocable, h, hst, hc, if_true, hwid]
  rfl

theorem versionRecordFreed_none {h : Fin 400} (hnone : ∀ p ∈ s.vwait, p.1 ≠ h.val) : exec (.versionRecordFreed h) s = .next s := by
  have hfind : s.vwait.find? (fun p => p.1 == h.val) = none := List.find?_eq_none.mpr fun p hp => by simpa using hnone p hp
  simp only [exec_versionRecordFreed, execVersionRecordFreed, hfind]

theorem versionRecordFreed_some {h : Fin 400} {p : Nat × Nat} {c : CoreId} {k : SlotId}
    (hfind : s.vwait.find? (fun p => p.1 == h.val) = some p)
    (hslot : (List.finRange 384).findSome? (fun c => (s.slotOf c p.2).map (fun k => (c, k))) = some (c, k)) :
    exec (.versionRecordFreed h) s =
      .next (s.updStrand c k (fun (x : Strand) => { x with st := if x.st = .waiting then .running else x.st })) := by
  simp only [exec_versionRecordFreed, execVersionRecordFreed, hfind, hslot]

end

/-- Settles O36. -/
theorem tasksRunAndCommit : Obligations.TasksRunAndCommit := by
  unfold Obligations.TasksRunAndCommit
  refine ⟨fun s g d a b r v x y z hg ha => ⟨?_, ?_, ?_⟩, fun s d t h c =>
    ⟨fun hfirst => ⟨taskCommit_idle hfirst, taskIrrevocable_idle hfirst⟩, fun hfirst => ⟨taskCommit_unfinished hfirst,
      taskIrrevocable_stopped hfirst, taskCommit_finished hfirst, fun wid => taskIrrevocable_waiting hfirst⟩,
      versionRecordFreed_none, fun p k => versionRecordFreed_some⟩⟩
  · intro bs s1 hticket hb hmay hload c dom ts q htag hexec hform hdet hgrid hmine hts hfirst hlow hloads hposts hlen hwait
    refine tspawn_of hg ha hb hticket hmay hload rfl rfl (checkRec_spec htag hexec hform) hdet ?_ hts hfirst hlow
      hloads hposts (hasRoom_of hlen hwait)
    rw [hgrid, show (rd s1.doms (recOf bs).domain).grid = s1.me.work.grid from hmine, BEq.rfl]
    rfl
  · intro s1 id htask hawait hsettle hwork gone
    exact ⟨tdone_speculative hg htask hawait hsettle hwork, tdone_irrevocable hg htask hawait hsettle hwork⟩
  · intro hreserved hgrid k dom hmine
    have hdom (w : Strand) (hw : w.work = s.me.work) : (s.setMe w).myDomain r = .ok k :=
      myDomain_ok hreserved rfl (by rwa [me_setMe, hw]) (by rwa [me_setMe, hw])
    have hx := source_work ha
    refine ⟨fun t => tfront_at hg ha (hdom x hx), tfront_idle hg ha (hdom x hx), fun hb => ?_⟩
    have hy := hdom y ((source_work hb).trans hx)
    exact ⟨twaitc_of hg ha hb hy, tabort_of hg ha hb hy⟩

end Sys2Proof.Machine
end

section
/-! PROOF. System registers: what a strand reads and writes, with and without SYS, and what the host writes (07 R203; 09 R215;
21 R380; 22 R395, R396). -/

namespace Sys2Proof.Machine

/-! ### Register numbers (07 R203) -/

section
variable {n : Nat}

theorem isStrandReg_iff : isStrandReg n = true ↔ n ≤ 2 ∨ (8 ≤ n ∧ n ≤ 0xC) ∨ (0x10 ≤ n ∧ n ≤ 0x14) ∨ (0x18 ≤ n ∧ n ≤ 0x1A) := by
  simp [isStrandReg, or_assoc]

theorem isCoreReg_iff : isCoreReg n = true ↔ (0x100 ≤ n ∧ n ≤ 0x10A) ∨ n = 0x110 ∨ (0x180 ≤ n ∧ n ≤ 0x1BF) ∨ n = 0x1E8 ∨
    (0x200 ≤ n ∧ n ≤ 0x20F) ∨ (0x380 ≤ n ∧ n ≤ 0x388) := by
  simp [isCoreReg, or_assoc]

theorem isPackageReg_iff : isPackageReg n = true ↔ n = 0x111 ∨ (0x140 ≤ n ∧ n ≤ 0x17F) ∨ (0x1C0 ≤ n ∧ n ≤ 0x1E7) ∨
    (0x1EA ≤ n ∧ n ≤ 0x1EC) ∨ n = 0x1F2 ∨ n = 0x1F3 ∨ (0x300 ≤ n ∧ n ≤ 0x37F) ∨ (0x390 ≤ n ∧ n ≤ 0x3FF) := by
  simp [isPackageReg, or_assoc]

theorem isReadOnly_iff : isReadOnly n = true ↔ n ≤ 2 ∨ n = 0x102 ∨ n = 0x104 ∨ n = 0x10A ∨ n = 0x111 ∨ (0x140 ≤ n ∧ n ≤ 0x15F) ∨
    n = 0x165 ∨ (0x168 ≤ n ∧ n ≤ 0x16C) ∨ n = 0x16E ∨ n = 0x16F ∨ (0x178 ≤ n ∧ n ≤ 0x1D7) ∨ (0x1E0 ≤ n ∧ n ≤ 0x1E7) ∨ n = 0x1EA ∨
    n = 0x1EB ∨ n = 0x1F2 ∨ n = 0x1F3 ∨ n = 0x388 ∨ (0x390 ≤ n ∧ n ≤ 0x39F) := by
  simp [isReadOnly, or_assoc]

/-- A number of a register of a core or of the package. -/
def IsSysNumber (n : Nat) : Prop := isCoreReg n = true ∨ isPackageReg n = true

theorem IsSysNumber.bounds (h : IsSysNumber n) : 0x100 ≤ n ∧ n < 1024 := by
  rw [IsSysNumber, isCoreReg_iff, isPackageReg_iff] at h
  omega

theorem IsSysNumber.val (h : IsSysNumber n) : (Fin.ofNat 1024 n).val = n := Nat.mod_eq_of_lt h.bounds.2

theorem IsSysNumber.isStrandReg (h : IsSysNumber n) : isStrandReg n = false := by
  have := h.bounds
  rw [← Bool.not_eq_true, isStrandReg_iff]
  omega

theorem isSysNumber_iff : (isCoreReg n || isPackageReg n) = true ↔ IsSysNumber n := by rw [Bool.or_eq_true, IsSysNumber]

end

/-! ### Rows of registers -/

section
variable {k : Nat} [NeZero k] (b r : Nat) (i : Fin k) (j : Fin 8)

theorem ofNat_offset : Fin.ofNat k (b + i.val - b) = i := by rw [Nat.add_sub_cancel_left, Fin.ofNat_val_eq_self]

theorem offset_row : (b + 8 * r + j.val - b) / 8 = r := by omega

theorem offset_column : (b + 8 * r + j.val - b) % 8 = j.val := by omega

end

/-! ### Registers read, and their RC fields cleared (07 R203) -/

section
variable {s s1 : State} {c : CoreId} {n : Nat}

theorem readReg_chst (ch : Fin 64) : s.readReg c (0x180 + ch.val) =
    (regOf (s.chstReg c ch), s.updCount c ch (fun _ => { drops := 0, refused := 0, ovfc := 0 })) := by
  simp (disch := omega) only [State.readReg, isCoreReg_iff, State.readCoreReg, if_pos, if_neg, ofNat_offset]

theorem readReg_prot (i : Fin 16) : s.readReg c (0x200 + i.val) = (regOf (rd (s.core c).prot i).toNat, s) := by
  simp (disch := omega) only [State.readReg, isCoreReg_iff, State.readCoreReg, if_pos, if_neg, ofNat_offset]

theorem readReg_vlog (i : Fin 8) : s.readReg c (0x380 + i.val) = (regOf (((s.core c).vlog[i.val]?).getD 0).toNat, s) := by
  simp (disch := omega) only [State.readReg, isCoreReg_iff, State.readCoreReg, if_pos, if_neg, Nat.add_sub_cancel_left]

theorem readReg_wst (k : Fin 32) : s.readReg c (0x140 + k.val) = (regOf (rd s.wins k).wst, s.clearWst k) := by
  simp (disch := omega) only [State.readReg, isCoreReg_iff, State.readPackageReg, if_pos, if_neg, ofNat_offset]

theorem readReg_pgarea (e : Fin 2) : s.readReg c (0x166 + e.val) = (regOf (rd s.pgarea e).toNat, s) := by
  simp (disch := omega) only [State.readReg, isCoreReg_iff, State.readPackageReg, if_pos, if_neg, ofNat_offset]

theorem readReg_grow (e : Fin 2) : s.readReg c (0x1EA + e.val) = (regOf (((s.growOf e).head?).getD 0).toNat, s.popGrow e) := by
  simp (disch := omega) only [State.readReg, isCoreReg_iff, State.readPackageReg, if_pos, if_neg, ofNat_offset]

theorem readReg_gerr (e : Fin 2) : s.readReg c (0x1F2 + e.val) = (regOf (s.gerrReg e), s.popGerr e) := by
  simp (disch := omega) only [State.readReg, isCoreReg_iff, State.readPackageReg, if_pos, if_neg, ofNat_offset]

theorem readReg_epcfg (p : Fin 8) : s.readReg c (0x170 + p.val) = (regOf (rd s.epcfg p).cfg.toNat, s) := by
  simp (disch := omega) only [State.readReg, isCoreReg_iff, State.readPackageReg, if_pos, if_neg, ofNat_offset]

theorem readReg_epst (p : Fin 8) : s.readReg c (0x178 + p.val) =
    (regOf ((rd s.epcfg p).drop + 2 ^ 16 * (rd s.epcfg p).back + 2 ^ 32 * (rd s.epcfg p).crce + 2 ^ 48 * s.portFill p),
      { s with epcfg := wr s.epcfg p { rd s.epcfg p with drop := 0, back := 0, crce := 0 } }) := by
  simp (disch := omega) only [State.readReg, isCoreReg_iff, State.readPackageReg, if_pos, if_neg, ofNat_offset]

theorem readReg_epsrc (p j : Fin 8) : s.readReg c (0x3A0 + 8 * p.val + j.val) = (regOf (rd (rd s.epcfg p).src j).toNat, s) := by
  simp (disch := omega) only [State.readReg, isCoreReg_iff, State.readPackageReg, if_pos, if_neg, offset_row, offset_column, Fin.ofNat_val_eq_self]

theorem readReg_sdst (p : Fin 8) : s.readReg c (0x1E0 + p.val) = (regOf (rd s.doms p).sdst, s.updDom p Domain.clear) := by
  simp (disch := omega) only [State.readReg, isCoreReg_iff, State.readPackageReg, if_pos, if_neg, ofNat_offset]

theorem readReg_astat (q : ClusterId) : s.readReg c (0x1C0 + q.val) =
    (regOf (s.cluster q).astat, s.updCluster q (fun (x : Cluster) => { x with spills := 0, revokes := 0 })) := by
  simp (disch := omega) only [State.readReg, isCoreReg_iff, State.readPackageReg, if_pos, if_neg, ofNat_offset]

theorem readReg_canev (e : Fin 4) : s.readReg c (0x1D8 + e.val) = (regOf (rd s.canev e).toNat, s) := by
  simp (disch := omega) only [State.readReg, isCoreReg_iff, State.readPackageReg, if_pos, if_neg, ofNat_offset]

theorem readReg_canflt (e : Fin 4) : s.readReg c (0x1DC + e.val) = (regOf (rd s.canflt e).toNat, s) := by
  simp (disch := omega) only [State.readReg, isCoreReg_iff, State.readPackageReg, if_pos, if_neg, ofNat_offset]

theorem readReg_homeVlog (h : HomeId) (j : Fin 8) : s.readReg c (0x300 + 8 * h.val + j.val) =
    (regOf (((rd s.homes h).vlog[j.val]?).getD 0).toNat, s) := by
  simp (disch := omega) only [State.readReg, isCoreReg_iff, State.readPackageReg, if_pos, if_neg, offset_row, offset_column, Fin.ofNat_val_eq_self]

theorem readReg_homeOvf (h : HomeId) : s.readReg c (0x390 + h.val) =
    (regOf (rd s.homes h).vlogOvf, s.updHome h (fun (x : Home) => { x with vlogOvf := 0 })) := by
  simp (disch := omega) only [State.readReg, isCoreReg_iff, State.readPackageReg, if_pos, if_neg, ofNat_offset]

theorem readReg_gpcfg (e : Fin 32) : s.readReg c (0x3E0 + e.val) = (regOf (rd s.gpcfg e).toNat, s) := by
  simp (disch := omega) only [State.readReg, isCoreReg_iff, State.readPackageReg, if_neg, ofNat_offset]

end

theorem popGrow_me (s : State) (e : Fin 2) : (s.popGrow e).me = s.me := by
  unfold State.popGrow
  split <;> rfl

theorem popGerr_me (s : State) (e : Fin 2) : (s.popGerr e).me = s.me := by
  unfold State.popGerr
  split <;> rfl

/-! ### sysrd -/

section
variable {s s1 : State} {g : Fin 8} {d : Fin 64} {v : CVal} {z : Strand}

/-- A strand reads its own register. -/
theorem sysrd_own {n : Fin 1024} (hg : s.me.guard g = true) (hn : isStrandReg n.val = true)
    (hv : s.strandReg s.cur.1 s.cur.2 n.val = v) (hd : s.me.result d v = some z) : exec (.sysrd g d n) s = .next (s.passed 4 z) := by
  refine exec_sysrd.trans (issue_me hg ?_)
  simp only [State.regOpen, hn, Bool.true_or, need_true, bind, Except.bind, if_true, hv]
  exact putC_of_result hd

/-- With SYS, a register of the core or of the package is read, and its RC fields are cleared. -/
theorem sysrd_sys {n : Nat} (hg : s.me.guard g = true) (hsys : s.me.pcc.has .sys = true) (hn : IsSysNumber n)
    (hread : s.readReg s.cur.1 n = (v, s1)) (hme : s1.me = s.me) (hd : s.me.result d v = some z) :
    exec (.sysrd g d (Fin.ofNat 1024 n)) s = .next (s.passedTo 4 (s1.setMe z)) := by
  refine exec_sysrd.trans (issue_ok hg ?_)
  have hopen : (isCoreReg n || isPackageReg n) = true := isSysNumber_iff.mpr hn
  simp only [State.regOpen, hn.val, hn.isStrandReg, State.mySys, hsys, Bool.false_or, hopen, need_true, bind, Except.bind, if_false,
    Bool.false_eq_true, hread]
  exact putC_of_result (by rwa [hme])

theorem regOpen_ill {n : Nat} (h : (isStrandReg n || isCoreReg n || isPackageReg n) = false) : s.regOpen n = .error (.t .ill) := by
  simp only [State.regOpen, need_false h, bind, Except.bind]

theorem regOpen_capp {n : Nat} (hown : isStrandReg n = false) (hsys : s.me.pcc.has .sys = false) (hn : IsSysNumber n) :
    s.regOpen n = .error (.t .capp) := by
  simp only [State.regOpen, hown, Bool.false_or, need_true (isSysNumber_iff.mpr hn), State.mySys, need_false hsys, bind, Except.bind]

theorem regOpen_own {n : Nat} (h : isStrandReg n = true) : s.regOpen n = .ok () := by
  simp only [State.regOpen, h, Bool.true_or, need_true, bind, Except.bind]

theorem regOpen_sys {n : Nat} (hsys : s.me.pcc.has .sys = true) (hn : IsSysNumber n) : s.regOpen n = .ok () := by
  simp only [State.regOpen, hn.isStrandReg, Bool.false_or, need_true (isSysNumber_iff.mpr hn), State.mySys, need_true hsys, bind, Except.bind]

theorem sysrd_trap {n : Fin 1024} {t : Trap} (hg : s.me.guard g = true) (h : s.regOpen n.val = .error (.t t)) :
    exec (.sysrd g d n) s = .next (s.takeTrap s.cur.1 s.cur.2 t none) := by
  refine exec_sysrd.trans (issue_trap hg ?_)
  simp only [h, bind, Except.bind]
  rfl

theorem syswr_trap {n : Fin 1024} {a : Fin 64} {t : Trap} (hg : s.me.guard g = true) (h : s.regOpen n.val = .error (.t t)) :
    exec (.syswr g a n) s = .next (s.takeTrap s.cur.1 s.cur.2 t none) := by
  refine exec_syswr.trans (issueN_trap hg ?_)
  simp only [h, bind, Except.bind]
  rfl

theorem syswr_readOnly {n : Fin 1024} {a : Fin 64} (hg : s.me.guard g = true) (hopen : s.regOpen n.val = .ok ()) (h : isReadOnly n.val = true) :
    exec (.syswr g a n) s = .next (s.takeTrap s.cur.1 s.cur.2 .ill none) := by
  refine exec_syswr.trans (issueN_trap hg ?_)
  simp only [hopen, h, Bool.not_true, need_false, bind, Except.bind]
  rfl

end

/-! ### syswr -/

theorem Strand.Popped.st {x y : Strand} (h : x.Popped y) : y.st = x.st := by
  obtain ⟨_, _, _, _, _, _, rfl⟩ := h
  rfl

theorem updStrand_setMe (s : State) (x : Strand) (f : Strand → Strand) : (s.setMe x).updStrand s.cur.1 s.cur.2 f = s.setMe (f x) := by
  have h : (s.setMe x).updStrand s.cur.1 s.cur.2 f = (s.setMe x).setMe (f (s.setMe x).me) := rfl
  rw [h, me_setMe, setMe_setMe]

section
variable {s t : State} {g : Fin 8} {a : Fin 64} {n : Fin 1024} {v : CVal} {x : Strand} {ok : Bool}
    (hg : s.me.guard g = true) (ha : s.me.source a = some (v, x)) (hst : s.me.st = .running)
include hg ha

/-- A write that a register's limits allow is made; another traps `ill`. -/
theorem syswr_allow (hopen : s.regOpen n.val = .ok ()) (hro : isReadOnly n.val = false)
    (hwrite : (if isStrandReg n.val then (s.setMe x).writeStrandReg s.cur.1 s.cur.2 n.val v
      else (s.setMe x).writeReg s.cur.1 n.val v) = allow ok t) (ht : t.me.st = .running) :
    exec (.syswr g a n) s = if ok then .next (s.passedTo 4 t) else .next (s.takeTrap s.cur.1 s.cur.2 .ill none) := by
  have hrun : t.me.st ≠ .halted := by rw [ht]; decide
  rw [exec_syswr]
  cases ok with
  | true =>
    refine issueN_seq hg ?_
    simp only [hopen, hro, Bool.not_false, need_true, useC_of_source ha, bind, Except.bind, show (s.setMe x).cur = s.cur from rfl]
    split at hwrite
    all_goals
      rename_i hown
      simp only [hown, Bool.false_eq_true, if_true, if_false, hwrite, allow, hrun]
      rfl
  | false =>
    refine issueN_trap hg ?_
    simp only [hopen, hro, Bool.not_false, need_true, useC_of_source ha, bind, Except.bind, show (s.setMe x).cur = s.cur from rfl]
    split at hwrite
    all_goals
      rename_i hown
      simp only [hown, Bool.false_eq_true, if_true, if_false, hwrite, allow]
      rfl

include hst

theorem syswr_own {f : Strand → Strand} (hn : isStrandReg n.val = true) (hro : isReadOnly n.val = false)
    (hwrite : (s.setMe x).writeStrandReg s.cur.1 s.cur.2 n.val v = allow ok ((s.setMe x).updStrand s.cur.1 s.cur.2 f))
    (hf : (f x).st = x.st) :
    exec (.syswr g a n) s = if ok then .next (s.passed 4 (f x)) else .next (s.takeTrap s.cur.1 s.cur.2 .ill none) := by
  rw [updStrand_setMe] at hwrite
  rw [← passedTo_setMe]
  refine syswr_allow hg ha (regOpen_own hn) hro ((if_pos hn).trans hwrite) ?_
  rw [me_setMe, hf, (source_popped ha).st, hst]

theorem syswr_core {f : Core → Core} (hsys : s.me.pcc.has .sys = true) (hn : isCoreReg n.val = true) (hro : isReadOnly n.val = false)
    (hwrite : (s.setMe x).writeCoreReg s.cur.1 n.val v = allow ok ((s.setMe x).updCore s.cur.1 f))
    (hf : ∀ q : Core, (f q).strands = q.strands) :
    exec (.syswr g a n) s =
      if ok then .next (s.passedTo 4 ((s.setMe x).updCore s.cur.1 f)) else .next (s.takeTrap s.cur.1 s.cur.2 .ill none) := by
  have hnum : IsSysNumber n.val := .inl hn
  refine syswr_allow hg ha (regOpen_sys hsys hnum) hro ?_ ?_
  · rw [hnum.isStrandReg, ← hwrite]
    simp only [State.writeReg, hro, hn, Bool.false_eq_true, if_false, if_true]
  · rw [me_updCore (s := s.setMe x) (c := s.cur.1) rfl hf, me_setMe, (source_popped ha).st, hst]

end

/-! ### Registers written from outside (22 R395, R396) -/

section
variable {s t : State} {c : CoreId} {n : Nat} {v : CVal} {ok : Bool}

/-- A write that reaches no register, or one that is read only, is discarded. -/
theorem registerWrite_discarded {n : Fin 1024}
    (h : n.val < 0x20 ∨ n.val = 0x1E8 ∨ isReadOnly n.val = true ∨ (isCoreReg n.val || isPackageReg n.val) = false) :
    exec (.registerWrite c n v) s = .next s := by
  rw [exec_registerWrite]
  unfold execRegisterWrite
  split
  · rfl
  · rename_i hn
    rw [not_or, Bool.not_eq_true', Bool.not_eq_false] at hn
    have hro : isReadOnly n.val = true := by
      rcases h with h | h | h | h
      · exact absurd (isSysNumber_iff.mp hn.1).bounds.1 (by omega)
      · exact absurd h hn.2
      · exact h
      · rw [hn.1] at h
        cases h
    simp only [State.writeReg, hro, if_true]

/-- A write that a register's limits allow is made; another leaves it unchanged. -/
theorem registerWrite_allow (hn : IsSysNumber n) (hpg : n ≠ 0x1E8)
    (hwrite : s.writeReg c n { v with tag := false } = allow ok t) :
    exec (.registerWrite c (Fin.ofNat 1024 n) v) s = .next (if ok then t else s) := by
  rw [exec_registerWrite]
  simp only [execRegisterWrite, hn.val, isSysNumber_iff.mpr hn, Bool.not_true, Bool.false_eq_true, hpg, or_self, if_false, hwrite]
  cases ok <;> rfl

theorem writeReg_prot (i : Fin 16) : s.writeReg c (0x200 + i.val) v = allow (protOk (rd (s.core c).prot i) v.val) (s.setProt c i v.val) := by
  simp (disch := omega) only [State.writeReg, isReadOnly_iff, isCoreReg_iff, State.writeCoreReg, if_pos, if_neg, ofNat_offset]

theorem writeReg_vlog (i : Fin 8) : s.writeReg c (0x380 + i.val) v =
    .ok (s.updCore c (fun (x : Core) => { x with vlog := freeLog x.vlog i.val v.val })) := by
  simp (disch := omega) only [State.writeReg, isReadOnly_iff, isCoreReg_iff, State.writeCoreReg, if_pos, if_neg, Nat.add_sub_cancel_left]

theorem writeReg_homeVlog (h : HomeId) (i : Fin 8) : s.writeReg c (0x300 + 8 * h.val + i.val) v =
    .ok (s.updHome h (fun (x : Home) => { x with vlog := freeLog x.vlog i.val v.val })) := by
  simp (disch := omega) only [State.writeReg, isReadOnly_iff, isCoreReg_iff, State.writePackageReg, if_pos, if_neg, offset_row,
    offset_column, Fin.ofNat_val_eq_self]

theorem writeReg_pgarea (i : Fin 2) : s.writeReg c (0x166 + i.val) v =
    allow (qf v.val 1 20 == 0 && qf v.val 48 37 == 0 && qf v.val 112 16 == 0) { s with pgarea := wr s.pgarea i v.val } := by
  simp (disch := omega) only [State.writeReg, isReadOnly_iff, isCoreReg_iff, State.writePackageReg, if_pos, if_neg, ofNat_offset]

theorem writeReg_epcfg (p : Fin 8) :
    let s1 : State := { s with epcfg := wr s.epcfg p { rd s.epcfg p with cfg := v.addr } }
    s.writeReg c (0x170 + p.val) v = allow (epcfgOk v.addr) (if v.addr.getLsbD 0 then s1.startPort p else s1) := by
  simp (disch := omega) only [State.writeReg, isReadOnly_iff, isCoreReg_iff, State.writePackageReg, if_pos, if_neg, ofNat_offset]

theorem writeReg_epsrc (p j : Fin 8) : s.writeReg c (0x3A0 + 8 * p.val + j.val) v =
    allow (epsrcOk v.addr && !s.srcTaken p j (df v.addr 0 16))
      { s with epcfg := wr s.epcfg p { rd s.epcfg p with src := wr (rd s.epcfg p).src j v.addr } } := by
  simp (disch := omega) only [State.writeReg, isReadOnly_iff, isCoreReg_iff, State.writePackageReg, if_pos, if_neg, offset_row,
    offset_column, Fin.ofNat_val_eq_self]

theorem writeReg_canev (i : Fin 4) :
    let s1 : State := { s with canev := wr s.canev i v.addr }
    s.writeReg c (0x1D8 + i.val) v =
      allow (canevOk v.addr) (if v.addr.getLsbD 0 then s1.postOnce 10000 (.canWatermarkPeriod i) else s1) := by
  simp (disch := omega) only [State.writeReg, isReadOnly_iff, isCoreReg_iff, State.writePackageReg, if_pos, if_neg, ofNat_offset]

theorem writeReg_canflt (i : Fin 4) : s.writeReg c (0x1DC + i.val) v =
    allow (canfltOk v.addr) { s with canflt := wr s.canflt i v.addr } := by
  simp (disch := omega) only [State.writeReg, isReadOnly_iff, isCoreReg_iff, State.writePackageReg, if_pos, if_neg, ofNat_offset]

theorem writeReg_gpcfg (i : Fin 32) : s.writeReg c (0x3E0 + i.val) v =
    allow (gpcfgOk v.addr) (({ s with gpcfg := wr s.gpcfg i v.addr } : State).startGpio i) := by
  simp (disch := omega) only [State.writeReg, isReadOnly_iff, isCoreReg_iff, State.writePackageReg, if_pos, if_neg, ofNat_offset]

/-- A power limit from 120 to 450 is taken; another leaves the limit as it is. -/
theorem registerWrite_pwrlim : exec (.registerWrite c (Fin.ofNat 1024 0x16D) v) s = .next
    (if decide (120 ≤ v.addr.toNat ∧ v.addr.toNat ≤ 450) then s.updHouse (fun (h : House) => { h with pwrlim := v.addr.toNat }) else s) := by
  rw [registerWrite_allow (ok := decide (v.addr.toNat < 512)) (.inr rfl) (by decide) rfl]
  by_cases hlimits : 120 ≤ v.addr.toNat ∧ v.addr.toNat ≤ 450
  · have hfits : v.addr.toNat < 512 := by omega
    have haddr : CVal.addr { v with tag := false } = v.addr := rfl
    simp only [haddr, hlimits, hfits, and_self, decide_true, if_true]
  · have haddr : CVal.addr { v with tag := false } = v.addr := rfl
    simp only [haddr, hlimits, decide_false, Bool.false_eq_true, if_false, ite_self]

end

/-- Settles O37. -/
theorem systemRegisters : Obligations.SystemRegisters := by
  unfold Obligations.SystemRegisters
  refine ⟨fun s g d a n v x z hg => ?_, fun s c n v => ?_⟩
  · intro m reg trap own
    refine ⟨?_, fun hsys => ?_, fun hst ha => ⟨?_, fun hsys => ?_⟩, ?_, ?_, ?_⟩
    · have hread {n : Fin 1024} {v : CVal} (hn : isStrandReg n.val = true) (hv : s.strandReg s.cur.1 s.cur.2 n.val = v)
          (hd : s.me.result d v = some z) := sysrd_own hg hn hv hd
      simp only [List.forall_mem_cons, List.not_mem_nil, IsEmpty.forall_iff, implies_true, and_true]
      refine ⟨?_, ?_, ?_, ?_, ?_, ?_, ?_, ?_, ?_, ?_, ?_, ?_, ?_, ?_, ?_, ?_⟩ <;> exact hread rfl rfl
    · intro me q h reads same clears
      have hread {n : Nat} {v : CVal} {s1 : State} (hn : IsSysNumber n) (hv : s.readReg s.cur.1 n = (v, s1)) (hme : s1.me = s.me)
          (hd : s.me.result d v = some z) := sysrd_sys hg hsys hn hv hme hd
      have hcore {n : Nat} {v : CVal} (hn : isCoreReg n = true) (hv : s.readReg s.cur.1 n = (v, s)) : same n v :=
        hread (.inl hn) hv rfl
      have hclear {n : Nat} {v : CVal} {x : Core} (hn : isCoreReg n = true) (hx : x.strands = s.myCore.strands)
          (hv : s.readReg s.cur.1 n = (v, s.setCore me x)) : reads n v (s.setCore me x) := hread (.inl hn) hv (sameStrands_setCore hx).me
      have hpack {n : Nat} {v : CVal} {s1 : State} (hn : isPackageReg n = true) (hv : s.readReg s.cur.1 n = (v, s1))
          (hme : s1.me = s.me) : reads n v s1 := hread (.inr hn) hv hme
      refine ⟨hcore rfl rfl, hcore rfl rfl, hcore rfl rfl, hcore rfl rfl, hcore rfl rfl, hcore rfl rfl, hcore rfl rfl, hcore rfl rfl,
        hcore rfl rfl, hclear rfl rfl rfl, hclear rfl rfl rfl, hclear rfl rfl rfl, hclear rfl rfl rfl, fun ch => ?_, fun i => ?_,
        fun i => ?_, hpack rfl rfl rfl, hpack rfl rfl rfl, hpack rfl rfl rfl, hpack rfl rfl rfl, hpack rfl rfl rfl, hpack rfl rfl rfl,
        hpack rfl rfl rfl, hpack rfl rfl rfl, hpack rfl rfl rfl, hpack rfl rfl rfl, hpack rfl rfl rfl, hpack rfl rfl rfl,
        hpack rfl rfl rfl, fun k => ?_, fun e => ⟨?_, ?_, ?_⟩, fun p => ⟨?_, ?_, fun j => ?_, ?_⟩, fun e => ?_, fun e => ⟨?_, ?_⟩,
        fun e => ⟨fun j => ?_, ?_⟩, fun e => ?_⟩
      · exact hread (.inl (isCoreReg_iff.mpr (by omega))) (readReg_chst ch) (me_updCore rfl fun _ => rfl)
      · exact hcore (isCoreReg_iff.mpr (by omega)) (readReg_prot i)
      · exact hcore (isCoreReg_iff.mpr (by omega)) (readReg_vlog i)
      · exact hpack (isPackageReg_iff.mpr (by omega)) (readReg_wst k) rfl
      · exact hpack (isPackageReg_iff.mpr (by omega)) (readReg_pgarea e) rfl
      · exact hpack (isPackageReg_iff.mpr (by omega)) (readReg_grow e) (popGrow_me s e)
      · exact hpack (isPackageReg_iff.mpr (by omega)) (readReg_gerr e) (popGerr_me s e)
      · exact hpack (isPackageReg_iff.mpr (by omega)) (readReg_epcfg p) rfl
      · exact hpack (isPackageReg_iff.mpr (by omega)) (readReg_epst p) rfl
      · exact hpack (isPackageReg_iff.mpr (by omega)) (readReg_epsrc p j) rfl
      · exact hpack (isPackageReg_iff.mpr (by omega)) (readReg_sdst p) rfl
      · exact hpack (isPackageReg_iff.mpr (by omega)) (readReg_astat e) rfl
      · exact hpack (isPackageReg_iff.mpr (by omega)) (readReg_canev e) rfl
      · exact hpack (isPackageReg_iff.mpr (by omega)) (readReg_canflt e) rfl
      · exact hpack (isPackageReg_iff.mpr (by omega)) (readReg_homeVlog e j) rfl
      · exact hpack (isPackageReg_iff.mpr (by omega)) (readReg_homeOvf e) rfl
      · exact hpack (isPackageReg_iff.mpr (by omega)) (readReg_gpcfg e) rfl
    · have hwrite {n : Fin 1024} {ok : Bool} {f : Strand → Strand} (hn : isStrandReg n.val = true) (hro : isReadOnly n.val = false)
          (hw : (s.setMe x).writeStrandReg s.cur.1 s.cur.2 n.val v = allow ok ((s.setMe x).updStrand s.cur.1 s.cur.2 f))
          (hf : (f x).st = x.st) := syswr_own hg ha hst hn hro hw hf
      repeat' refine List.forall_mem_cons.mpr ⟨?_, ?_⟩
      · exact hwrite (f := fun y => { y with tvec := v }) rfl rfl rfl rfl
      · exact hwrite (f := fun y => { y with epc := v }) rfl rfl rfl rfl
      · exact hwrite (f := fun y => { y with tcause := v.addr }) rfl rfl rfl rfl
      · exact hwrite (f := fun y => { y with taddr := v.addr }) rfl rfl rfl rfl
      · exact hwrite (f := fun y => { y with tscr := v }) rfl rfl rfl rfl
      · exact hwrite (f := fun y => { y with fflags := v.addr.setWidth 32 }) rfl rfl rfl rfl
      · exact hwrite (f := fun y => { y with srgen := v.val }) rfl rfl rfl rfl
      · exact hwrite (f := fun y => { y with cvrm := (v.addr.setWidth 32).setWidth 64 }) rfl rfl rfl rfl
      · exact hwrite (f := fun y => { y with novd := v.addr }) rfl rfl rfl rfl
      · exact hwrite (f := fun y => { y with qstat := v.addr.setWidth 32 }) rfl rfl rfl rfl
      · exact hwrite (f := fun y => { y with uvec := v }) rfl rfl rfl rfl
      · exact hwrite (f := fun y => { y with uarea := v }) rfl rfl rfl rfl
      · exact hwrite (f := fun y => { y with lvt := v }) rfl rfl rfl rfl
      · exact List.forall_mem_nil _
    · have hwrite {n : Fin 1024} {ok : Bool} {f : Core → Core} (hn : isCoreReg n.val = true) (hro : isReadOnly n.val = false)
          (hw : (s.setMe x).writeCoreReg s.cur.1 n.val v = allow ok ((s.setMe x).updCore s.cur.1 f))
          (hf : ∀ q : Core, (f q).strands = q.strands) := syswr_core hg ha hst hsys hn hro hw hf
      repeat' refine List.forall_mem_cons.mpr ⟨?_, ?_⟩
      · exact hwrite (f := fun y => { y with hage := v.addr }) rfl rfl (by rw [Bool.decide_and]; rfl) fun _ => rfl
      · exact hwrite (f := fun y => { y with iage := v.addr }) rfl rfl (by rw [Bool.decide_and]; rfl) fun _ => rfl
      · exact hwrite (f := fun y => { y with uctxv := v }) rfl rfl rfl fun _ => rfl
      · exact hwrite (f := fun y => { y with uctxa := v }) rfl rfl rfl fun _ => rfl
      · exact hwrite (f := fun y => { y with uctxl := v }) rfl rfl rfl fun _ => rfl
      · exact hwrite (f := fun y => { y with uctxid := v.addr.setWidth 16 }) rfl rfl rfl fun _ => rfl
      · exact hwrite (f := fun y => { y with psave := v }) rfl rfl rfl fun _ => rfl
      · exact List.forall_mem_nil _
    · intro h
      exact ⟨sysrd_trap hg (regOpen_ill h), syswr_trap hg (regOpen_ill h)⟩
    · intro hown hsys h
      have hopen := regOpen_capp hown hsys (isSysNumber_iff.mp h)
      exact ⟨sysrd_trap hg hopen, syswr_trap hg hopen⟩
    · intro hown hlow
      exact syswr_readOnly hg (regOpen_own hown) (isReadOnly_iff.mpr (.inl hlow))
  · intro w u freed sets core
    have hset {n : Nat} {ok : Bool} {t : State} (hn : IsSysNumber n) (hpg : n ≠ 0x1E8) (hw : s.writeReg c n u = allow ok t) :
        sets n ok t := registerWrite_allow hn hpg hw
    have hcore {n : Nat} {ok : Bool} {t : State} (hn : isCoreReg n = true) (hpg : (n == 0x1E8) = false)
        (hw : s.writeReg c n u = allow ok t) : sets n ok t := hset (.inl hn) (ne_of_beq_false hpg) hw
    have hpack {n : Nat} {ok : Bool} {t : State} (hn : isPackageReg n = true) (hw : s.writeReg c n u = allow ok t) : sets n ok t :=
      hset (.inr hn) (by rintro rfl; cases hn) hw
    refine ⟨registerWrite_discarded, hcore rfl rfl (by rw [Bool.decide_and]; rfl), hcore rfl rfl (by rw [Bool.decide_and]; rfl),
      hcore rfl rfl (by rw [Bool.decide_and]; rfl), hcore rfl rfl rfl, hcore rfl rfl rfl, hcore rfl rfl rfl, hcore rfl rfl rfl,
      hcore rfl rfl rfl, hcore rfl rfl rfl, fun i => ?_, fun i => ?_, fun h i => ?_, hpack rfl rfl,
      hpack rfl (by rw [Bool.decide_and]; rfl), hpack rfl rfl, hpack rfl rfl, hpack rfl rfl, fun i => ?_, registerWrite_pwrlim,
      fun p => ⟨?_, fun j => ?_⟩, fun i => ⟨?_, ?_⟩, hpack rfl rfl, fun i => ?_⟩
    · exact hset (.inl (isCoreReg_iff.mpr (by omega))) (by omega) (writeReg_prot i)
    · exact hset (.inl (isCoreReg_iff.mpr (by omega))) (by omega) (writeReg_vlog i)
    · exact hpack (isPackageReg_iff.mpr (by omega)) (writeReg_homeVlog h i)
    · exact hpack (isPackageReg_iff.mpr (by omega)) (writeReg_pgarea i)
    · exact hpack (isPackageReg_iff.mpr (by omega)) (writeReg_epcfg p)
    · exact hpack (isPackageReg_iff.mpr (by omega)) (writeReg_epsrc p j)
    · exact hpack (isPackageReg_iff.mpr (by omega)) (writeReg_canev i)
    · exact hpack (isPackageReg_iff.mpr (by omega)) (writeReg_canflt i)
    · exact hpack (isPackageReg_iff.mpr (by omega)) (writeReg_gpcfg i)

end Sys2Proof.Machine
end

section
/-! PROOF. Closes: what is applied at a home and released at a queue in key order, the close packets that leave the window unit,
and their delivery at a core (08 R212; 09 R218, R219, R228-R230; 19 R355, R357; log entries 4, 69). -/

namespace Sys2Proof.Machine

/-! ### Sorting by a key -/

section
variable {α κ : Type} [LinearOrder κ] {le : α → α → Bool} {key : α → κ} {x : α} {l : List α}

theorem insertBy_perm (le : α → α → Bool) (x : α) (l : List α) : (insertBy le x l).Perm (x :: l) := by
  induction l with
  | nil => exact .refl _
  | cons y l ih =>
    rw [insertBy]
    split
    · exact (ih.cons y).trans (.swap x y l)
    · exact .refl _

theorem foldl_insertBy_perm (le : α → α → Bool) (l r : List α) : (l.foldl (fun r x => insertBy le x r) r).Perm (l ++ r) := by
  induction l generalizing r with
  | nil => exact .refl _
  | cons x l ih => exact (ih _).trans (((insertBy_perm le x r).append_left l).trans List.perm_middle)

theorem sortBy_perm (le : α → α → Bool) (l : List α) : (sortBy le l).Perm l := by
  simpa only [sortBy, List.append_nil] using foldl_insertBy_perm le l []

/-- The item goes behind those that precede it and before the first that does not, so before all that follow. -/
theorem insertBy_pairwise (hle : ∀ y ∈ l, le y x = true ↔ key y ≤ key x) (hl : l.Pairwise (key · ≤ key ·)) :
    (insertBy le x l).Pairwise (key · ≤ key ·) := by
  induction l with
  | nil => exact List.pairwise_singleton ..
  | cons y l ih =>
    obtain ⟨hy, hrest⟩ := List.pairwise_cons.mp hl
    obtain ⟨hyx, hlex⟩ := List.forall_mem_cons.mp hle
    rw [insertBy]
    split
    next hbefore =>
      refine List.pairwise_cons.mpr ⟨fun z hz => ?_, ih hlex hrest⟩
      rcases List.mem_cons.mp ((insertBy_perm le x l).mem_iff.mp hz) with rfl | hz
      · exact hyx.mp hbefore
      · exact hy z hz
    next hafter =>
      have hxy : key x ≤ key y := le_of_not_ge fun h => hafter (hyx.mpr h)
      exact List.pairwise_cons.mpr ⟨List.forall_mem_cons.mpr ⟨hxy, fun z hz => hxy.trans (hy z hz)⟩, hl⟩

theorem foldl_insertBy_pairwise {r : List α} (hle : ∀ a ∈ l ++ r, ∀ b ∈ l ++ r, le a b = true ↔ key a ≤ key b)
    (hr : r.Pairwise (key · ≤ key ·)) : (l.foldl (fun r x => insertBy le x r) r).Pairwise (key · ≤ key ·) := by
  induction l generalizing r with
  | nil => exact hr
  | cons x l ih =>
    have hmem {a : α} (ha : a ∈ l ++ insertBy le x r) : a ∈ x :: l ++ r :=
      (((insertBy_perm le x r).append_left l).trans List.perm_middle).mem_iff.mp ha
    exact ih (fun a ha b hb => hle a (hmem ha) b (hmem hb))
      (insertBy_pairwise (fun y hy => hle y (List.mem_append_right _ hy) x (List.mem_append_left _ List.mem_cons_self)) hr)

/-- A sort by an order that agrees with a key's on the items puts the keys in ascending order. -/
theorem sortBy_pairwise (hle : ∀ a ∈ l, ∀ b ∈ l, le a b = true ↔ key a ≤ key b) : (sortBy le l).Pairwise (key · ≤ key ·) :=
  foldl_insertBy_pairwise (by rwa [List.append_nil]) .nil

end

/-! ### The order of an application (19 R355, R357) -/

/-- Of two timestamps within 2^31 after a third, the one that is not later is the nearer to it. -/
theorem tsLe_iff_toNat_sub_le {a b base : Word} (ha : (a - base).toNat < 2 ^ 31) (hb : (b - base).toNat < 2 ^ 31) :
    tsLe a b = true ↔ (a - base).toNat ≤ (b - base).toNat := by
  simp only [tsLe, tsLt, Bool.or_eq_true, Bool.and_eq_true, beq_iff_eq, decide_eq_true_eq]
  bv_omega

/-- The order in which a home applies its parked atomics. -/
def ParkedAmo.le (a b : ParkedAmo) : Bool := decide (a.core.val < b.core.val) || (a.core == b.core && tsLe a.key b.key)

/-- The order in which a queue releases its parked records. -/
def TqEntry.le (a b : TqEntry) : Bool :=
  decide (a.spawner.val < b.spawner.val) ||
    (a.spawner.val == b.spawner.val && decide (df a.rec0.stamp 48 16 ≤ df b.rec0.stamp 48 16))

theorem ParkedAmo.le_iff {a b : ParkedAmo} {base : Word} (ha : (a.key - base).toNat < 2 ^ 31) (hb : (b.key - base).toNat < 2 ^ 31) :
    a.le b = true ↔ toLex (a.core, (a.key - base).toNat) ≤ toLex (b.core, (b.key - base).toNat) := by
  simp only [ParkedAmo.le, Prod.Lex.toLex_le_toLex, Bool.or_eq_true, Bool.and_eq_true, decide_eq_true_eq, beq_iff_eq, Fin.lt_def,
    tsLe_iff_toNat_sub_le ha hb]

theorem TqEntry.le_iff {a b : TqEntry} :
    a.le b = true ↔ toLex (a.spawner, df a.rec0.stamp 48 16) ≤ toLex (b.spawner, df b.rec0.stamp 48 16) := by
  simp only [TqEntry.le, Prod.Lex.toLex_le_toLex, Bool.or_eq_true, Bool.and_eq_true, decide_eq_true_eq, beq_iff_eq, Fin.lt_def,
    Fin.val_inj]

/-- Parked atomics whose keys lie within 2^31 after one timestamp are applied by core, and by key within a core. -/
theorem sortBy_parked_pairwise {l : List ParkedAmo} {base : Word} (h : ∀ p ∈ l, (p.key - base).toNat < 2 ^ 31) :
    (sortBy ParkedAmo.le l).Pairwise
      (fun p r => p.core.val < r.core.val ∨ (p.core = r.core ∧ (p.key - base).toNat ≤ (r.key - base).toNat)) :=
  (sortBy_pairwise (key := fun p : ParkedAmo => toLex (p.core, (p.key - base).toNat))
    fun p hp r hr => ParkedAmo.le_iff (h p hp) (h r hr)).imp Prod.Lex.toLex_le_toLex.mp

theorem sortBy_entries_pairwise (l : List TqEntry) : (sortBy TqEntry.le l).Pairwise
    (fun a b => a.spawner.val < b.spawner.val ∨ (a.spawner = b.spawner ∧ df a.rec0.stamp 48 16 ≤ df b.rec0.stamp 48 16)) :=
  (sortBy_pairwise (key := fun e : TqEntry => toLex (e.spawner, df e.rec0.stamp 48 16))
    fun _ _ _ _ => TqEntry.le_iff).imp Prod.Lex.toLex_le_toLex.mp

theorem detApplyAtHome_of (s : State) (h : Fin 400) (k : Fin 32) : exec (.detApplyAtHome h k) s = .next
    ((((sortBy ParkedAmo.le (s.parked.filter (fun (p : ParkedAmo) => p.home == h && p.win == k))).foldl State.applyParked
      { s with parked := s.parked.filter (fun p => !(p.home == h && p.win == k)) }).updWin k (fun (w : Win) =>
        { w with waitHomes := w.waitHomes.filter (· != h) })).closeGoesOn k) := rfl

theorem detReleaseAtQueue_of (s : State) (q : ClusterId) (k : Fin 32) : exec (.detReleaseAtQueue q k) s = .next
    (((((sortBy TqEntry.le ((s.cluster q).tq.filter (fun (e : TqEntry) => e.parkedBy == some k))).foldl (fun (s : State) e =>
      ({ s with nextId := s.nextId + 1 } : State).updEntry q e.id (fun (x : TqEntry) =>
        { x with parkedBy := none, order := s.nextId })) s).updWin k (fun (w : Win) =>
          { w with waitQueues := w.waitQueues.filter (· != q) })).offerCluster q).closeGoesOn k) := rfl

/-! ### Close packets leave (08 R212; 09 R228, R229) -/

/-- The close packet of a window's stretch. -/
def Win.closePkt (w : Win) (k : Fin 32) : ClosePkt :=
  { win := k, target := w.tgt, cause := w.cause, time := w.closeT, lag := w.lag, srcs := w.r.srcs }

/-- A close packet on its way to a core. -/
def State.sendClose (p : ClosePkt) (s : State) (c : CoreId) : State :=
  (s.updCore c (fun (x : Core) => { x with closeWait := x.closeWait ++ [p] })).post 100 (.closePacketDelivery c p)

theorem sendClose_closeWait (p : ClosePkt) (s : State) (c e : CoreId) :
    ((s.sendClose p c).core e).closeWait = (s.core e).closeWait ++ (if e = c then [p] else []) := by
  change ((s.updCore c (fun (x : Core) => { x with closeWait := x.closeWait ++ [p] })).core e).closeWait = _
  by_cases h : e = c
  · subst h
    rw [updCore_core_same, if_pos rfl]
  · rw [updCore_core_ne _ _ h, if_neg h, List.append_nil]

theorem foldl_sendClose_wins (p : ClosePkt) (l : List CoreId) (s : State) : (l.foldl (State.sendClose p) s).wins = s.wins := by
  induction l generalizing s with
  | nil => rfl
  | cons c l ih => exact ih (s.sendClose p c)

theorem foldl_sendClose_closeWait {p : ClosePkt} {l : List CoreId} (hl : l.Nodup) (s : State) (e : CoreId) :
    ((l.foldl (State.sendClose p) s).core e).closeWait = (s.core e).closeWait ++ (if e ∈ l then [p] else []) := by
  induction l generalizing s with
  | nil => exact (List.append_nil _).symm
  | cons c l ih =>
    obtain ⟨hc, hl⟩ := List.nodup_cons.mp hl
    rw [List.foldl_cons, ih hl, sendClose_closeWait, List.append_assoc]
    by_cases he : e = c
    · subst he
      rw [if_pos rfl, if_neg hc, if_pos List.mem_cons_self, List.append_nil]
    · simp only [he, if_false, List.nil_append, List.mem_cons, false_or]

/-- A close packet of a window sent to every core of its CORES. -/
def State.sendCloses (s : State) (k : Fin 32) : State :=
  ((List.finRange 384).filter (fun c => (rd s.wins k).r.cores.getLsbD c.val)).foldl
    (State.sendClose ((rd s.wins k).closePkt k)) s

theorem sendCloses_closeWait (s : State) (k : Fin 32) (c : CoreId) : ((s.sendCloses k).core c).closeWait =
    (s.core c).closeWait ++ (if (rd s.wins k).r.cores.getLsbD c.val then [(rd s.wins k).closePkt k] else []) := by
  rw [State.sendCloses, foldl_sendClose_closeWait ((List.nodup_finRange 384).filter _)]
  simp only [List.mem_filter, List.mem_finRange, true_and]

/-- A window whose stretch has been counted, among the late ones where its close came more than the grace after its target
(09 R232). -/
def Win.counted (w : Win) (grace : Word) : Win :=
  let late := tsLt (w.tgt + grace) w.closeT
  { w with
    closes := (w.closes + 1) % 2 ^ 16
    strc := if late then hold 0xFFFF (w.strc + 1) else w.strc
    strt := if late then hold 0xFFFFFFFF (w.strt + (w.closeT - w.tgt).toNat) else w.strt
    k := w.k + 1 }

theorem openWindow_win (s : State) (k : Fin 32) (t : Word) :
    rd (s.openWindow k t).wins k = { rd s.wins k with st := .opened, tgt := t, openedAt := s.dt } := rd_wr_same ..

section
variable {s : State} {k : Fin 32}

theorem closePacketsSend_waits
    (h : (rd s.wins k).st ≠ .closing ∨ (rd s.wins k).waitHomes ≠ [] ∨ (rd s.wins k).waitQueues ≠ []) :
    exec (.closePacketsSend k) s = .next s := by
  refine if_pos ?_
  simpa only [Bool.not_eq_true', List.isEmpty_eq_false_iff] using h

/-- A close without a pending record and without pacing: the packets leave, and the window opens at the next target. -/
theorem closePacketsSend_closing (hst : (rd s.wins k).st = .closing) (hhomes : (rd s.wins k).waitHomes = [])
    (hqueues : (rd s.wins k).waitQueues = []) (hpend : (rd s.wins k).pend = none) (hpace : (rd s.wins k).r.pace = false) :
    exec (.closePacketsSend k) s = .next (((s.sendCloses k).updWin k (fun _ => (rd s.wins k).counted s.wgrace)).openWindow k
      ((rd s.wins k).tgt + (rd s.wins k).r.period)) := by
  have hdue : ¬ ((rd s.wins k).st ≠ .closing ∨ !(rd s.wins k).waitHomes.isEmpty ∨ !(rd s.wins k).waitQueues.isEmpty) := by
    simp [hst, hhomes, hqueues]
  refine (if_neg hdue).trans ?_
  split
  next r hsome => cases hpend.symm.trans hsome
  next =>
    simp only [hpace, Bool.false_eq_true, if_false]
    rfl

end

/-! ### A close packet at a core (09 R218, R219, R230) -/

section
variable {s : State} {c : CoreId} {p : ClosePkt}

theorem closeReady_iff : s.closeReady c p = true ↔
    (s.core c).closeWait.find? (fun (y : ClosePkt) => y.win == p.win) = some p ∧
    s.house.ready.getLsbD (clusterOf c).val = true ∧ (dieOf c = 0 ∨ s.linked = true) ∧
    p.srcs.all (fun src =>
      p.lag.contains src || ((s.core c).wmAt.find? (fun q => q.1 == src)).any (fun q => tsLe p.target q.2)) = true := by
  simp only [State.closeReady, State.served, Bool.and_eq_true, Bool.or_eq_true, beq_iff_eq, and_assoc]

theorem closePacketDelivery_waits
    (h : s.closeReady c p = false ∨ (s.core c).refused.any (fun (r : Refused) => r.msg == closeMsg p) = true) :
    exec (.closePacketDelivery c p) s = .next s := by
  refine if_pos ?_
  rwa [Bool.not_eq_true']

section
variable (hready : s.closeReady c p = true)
  (hlisted : (s.core c).refused.any (fun (r : Refused) => r.msg == closeMsg p) = false)
include hready hlisted

theorem closePacketDelivery_ready : exec (.closePacketDelivery c p) s = .next
    (if (s.core c).closeRoom then s.deliverClose c p else s.refuse c (closeMsg p) (closeMsg p).aep true true true) := by
  simp only [exec_closePacketDelivery, execClosePacketDelivery, hready, hlisted, Bool.not_true, Bool.false_eq_true, or_self, if_false,
    apply_ite Host.Outcome.next]

theorem closePacketDelivery_refused (hon : (rd (s.core c).chan 3).code.tag = true)
    (hroom : ((s.core c).poolRoom 3 && (s.core c).quotaRoom 3) = false) :
    exec (.closePacketDelivery c p) s = .next (s.refuse c (closeMsg p) (closeMsg p).aep true true true) := by
  rw [closePacketDelivery_ready hready hlisted, Core.closeRoom, hon, hroom]
  rfl

theorem closePacketDelivery_taken (hon : (rd (s.core c).chan 3).code.tag = true)
    (hroom : ((s.core c).poolRoom 3 && (s.core c).quotaRoom 3) = true) :
    exec (.closePacketDelivery c p) s = .next (s.deliverClose c p) := by
  rw [closePacketDelivery_ready hready hlisted, Core.closeRoom, hon, hroom]
  rfl

theorem closePacketDelivery_off (hoff : (rd (s.core c).chan 3).code.tag = false) :
    exec (.closePacketDelivery c p) s = .next (s.deliverClose c p) := by
  rw [closePacketDelivery_ready hready hlisted, Core.closeRoom, hoff]
  rfl

end

/-- The close packets of a core looked at again. -/
def State.pokeCloses (s : State) (c : CoreId) : State :=
  (s.core c).closeWait.foldl (fun (s : State) y => s.postOnce 1 (.closePacketDelivery c y)) s

/-- A close packet that has left the line of its core, with its effects at its place. -/
def State.passClose (s : State) (c : CoreId) (p : ClosePkt) : State :=
  (s.updCore c (fun (y : Core) => { y with closeWait := y.closeWait.erase p })).placeClose c p

theorem deliverClose_on (hon : (rd (s.core c).chan 3).code.tag = true) : s.deliverClose c p =
    ((s.passClose c p).enqueue c 3 (closeMsg p).aep (pairWords p.lag) 0 0 false).pokeCloses c := by
  simp only [State.deliverClose, hon, if_true]
  rfl

theorem deliverClose_off (hoff : (rd (s.core c).chan 3).code.tag = false) : s.deliverClose c p =
    ((s.passClose c p).countDrop c 3 false).pokeCloses c := by
  simp only [State.deliverClose, hoff, Bool.false_eq_true, if_false]
  rfl

end

/-- Settles O32. -/
theorem closesApplyAndDeliver : Obligations.ClosesApplyAndDeliver := by
  refine ⟨fun s h q k => ⟨⟨_, sortBy_perm .., fun base hkeys => ?_, detApplyAtHome_of s h k⟩,
    ⟨_, sortBy_perm .., sortBy_entries_pairwise _, detReleaseAtQueue_of s q k⟩,
    ⟨closePacketsSend_waits, fun hst hhomes hqueues hpend hpace => ?_⟩, rfl⟩,
    fun s c p => ⟨fun h => closePacketDelivery_waits ?_, fun hfirst hmarks hup hlink hlisted => ?_⟩⟩
  · exact sortBy_parked_pairwise fun p hp => hkeys p ((sortBy_perm ..).mem_iff.mpr hp)
  · refine ⟨_, closePacketsSend_closing hst hhomes hqueues hpend hpace, ?_⟩
    rw [openWindow_win, State.updWin, rd_wr_same]
    exact ⟨rfl, rfl, rfl, rfl, sendCloses_closeWait s k⟩
  · refine (Bool.eq_false_or_eq_true (s.closeReady c p)).elim (fun hready => .inr ?_) .inl
    obtain ⟨hfirst, hup, hlink, hmarks⟩ := closeReady_iff.mp hready
    rcases h with hother | hbehind | hdown | ⟨hdie, hcut⟩ | hlisted
    · exact absurd hfirst hother
    · exact absurd (hmarks.symm.trans hbehind) (by decide)
    · exact absurd (hup.symm.trans hdown) (by decide)
    · exact absurd hlink (by simp [hdie, hcut])
    · exact hlisted
  · have hready := closeReady_iff.mpr ⟨hfirst, hup, hlink, hmarks⟩
    refine ⟨closePacketDelivery_refused hready hlisted, fun hon hroom => ?_, fun hoff => ?_⟩
    · rw [closePacketDelivery_taken hready hlisted hon hroom, deliverClose_on hon]
      rfl
    · rw [closePacketDelivery_off hready hlisted hoff, deliverClose_off hoff]
      rfl

end Sys2Proof.Machine
end

section
/-! PROOF. The array's frames and turns: grants, turns and their ends, spills and restores (11 R244-R249; 21 R390; log entries 4,
13). -/

namespace Sys2Proof.Machine

theorem frameFor_eq_true_iff {x : Cluster} {chosen : Bool} :
    x.frameFor chosen = true ↔ x.expecting + (if chosen then 0 else 1) ≤ x.comingFrames := decide_eq_true_iff

theorem frameFor_eq_false_iff {x : Cluster} {chosen : Bool} :
    x.frameFor chosen = false ↔ x.comingFrames < x.expecting + (if chosen then 0 else 1) := decide_eq_false_iff_not.trans Nat.not_le

/-! ### Grants (11 R244, R245) -/

section
variable {s : State} {q : ClusterId} {l : Lease}

theorem all_not_requested_of_grantable (h : s.grantable q ≠ []) :
    (s.cluster q).leases.all (fun (l : Lease) => l.st != .requested) = false := by
  obtain ⟨l, hl⟩ := List.exists_mem_of_ne_nil _ h
  obtain ⟨hmem, hst⟩ := List.mem_filter.mp (List.mem_filter.mp hl).1
  exact List.all_eq_false.mpr ⟨l, hmem, by rw [bne, hst]; decide⟩

variable (hlive : s.house.frozen = false) (hreqs : s.grantable q ≠ [])
  (hheld : ((s.cluster q).leases.filter (fun (l : Lease) => l.st != .requested)).length < 32)
  (hl : s.chooseLease q (if ((s.grantable q).filter (fun (l : Lease) => l.moving)).isEmpty then s.grantable q
    else (s.grantable q).filter (fun (l : Lease) => l.moving)) = some l)
include hlive hreqs hheld hl

theorem leaseGrant_frame {f : Fin 2} (hframe : (s.cluster q).frameFor l.moving = true) (hf : (s.cluster q).freeFrame = some f) :
    exec (.leaseGrant q) s = .next ((((s.pointTo q l).grantLease q l f).postOnce 10 (.leaseGrant q)).pokeArray q) := by
  simp only [exec_leaseGrant, execLeaseGrant, hlive, all_not_requested_of_grantable hreqs, Nat.not_le.mpr hheld, hl, hframe, hf,
    Bool.false_eq_true, or_self, if_false, if_true]

theorem leaseGrant_spills {v : Lease} (hframe : (s.cluster q).frameFor l.moving = false)
    (hv : s.victim q (s.reflex l) = some v) :
    exec (.leaseGrant q) s = .next ((((s.pointTo q l).updLease q l.id (fun (l : Lease) =>
      { l with moving := true })).beginSpill q v).postOnce 300 (.leaseGrant q)) := by
  simp only [exec_leaseGrant, execLeaseGrant, hlive, all_not_requested_of_grantable hreqs, Nat.not_le.mpr hheld, hl, hframe, hv,
    Bool.false_eq_true, or_self, if_false]

end

/-! ### Turns and their ends (11 R246, R247) -/

section
variable {s : State} {q : ClusterId} {l : Lease}

section
variable (hnone : (s.cluster q).turn = none)
  (hl : s.chooseLease q ((s.cluster q).leases.filter (fun (l : Lease) =>
    l.eligible || (l.st == .spilled && !l.moving && !l.cmds.isEmpty))) = some l)
include hnone hl

theorem arrayTurn_given (hst : l.st ≠ .spilled) :
    exec (.arrayTurn q) s = .next ((((s.updCluster q (fun (x : Cluster) => { x with ptr := l.pos })).updCluster q (fun (x : Cluster) =>
      { x with turn := some l.id, turnCmds := 0, turnAt := s.dt })).postOnce 9 (.arrayCommandComplete q)).post turnLimit
        (.arrayTurnEnd q)) := by
  simp only [exec_arrayTurn, execArrayTurn, hnone, hl, hst, Option.isSome_none, Bool.false_eq_true, if_false]

theorem arrayTurn_restores (hst : l.st = .spilled) :
    exec (.arrayTurn q) s = .next (((s.updCluster q (fun (x : Cluster) => { x with ptr := l.pos })).beginRestore q l.id).postOnce 1
      (.arrayTurn q)) := by
  simp only [exec_arrayTurn, execArrayTurn, hnone, hl, hst, Option.isSome_none, Bool.false_eq_true, if_false, if_true]

end

section
variable (hturn : (s.cluster q).turn.bind (s.cluster q).lease = some l) (hruns : s.commandRuns q = false)
  (hurgent : (s.cluster q).leases.filter (fun (l : Lease) => l.st == .spilled && !l.moving && !l.cmds.isEmpty && s.reflex l) = [])
  (hreqs : (s.cluster q).leases.any (fun (l : Lease) => l.st == .requested) = false)
  (hreflex : (s.cluster q).leases.any (fun (m : Lease) => m.id != l.id && m.eligible && s.reflex m) = false)
include hturn hruns hurgent hreqs hreflex

/-- A turn looked at with no request in line and no work of a reserved partition that waits for it. -/
theorem arrayTurnEnd_unhurried : execArrayTurnEnd q s =
    if 32 ≤ (s.cluster q).turnCmds ∨ turnLimit ≤ s.dt - (s.cluster q).turnAt ∨ ((!l.eligible) = true ∧
      (!((s.cluster q).leases.filter (fun (m : Lease) => m.id != l.id && m.eligible)).isEmpty) = true)
    then .next ((s.updCluster q (fun (x : Cluster) => { x with turn := none })).postOnce 1 (.arrayTurn q))
    else if l.eligible then .next (s.postOnce 9 (.arrayCommandComplete q)) else .next s := by
  have hothers : ((s.cluster q).leases.filter (fun (m : Lease) => m.id != l.id && m.eligible)).any s.reflex = false :=
    List.any_filter.trans hreflex
  simp only [execArrayTurnEnd, hturn, hruns, hurgent, hreqs, hothers, List.foldl_nil, Bool.false_and, Bool.false_eq_true, or_false,
    if_false]

theorem arrayTurnEnd_ends (hover : 32 ≤ (s.cluster q).turnCmds ∨ turnLimit ≤ s.dt - (s.cluster q).turnAt) :
    exec (.arrayTurnEnd q) s =
      .next ((s.updCluster q (fun (x : Cluster) => { x with turn := none })).postOnce 1 (.arrayTurn q)) := by
  rw [exec_arrayTurnEnd, arrayTurnEnd_unhurried hturn hruns hurgent hreqs hreflex, if_pos (hover.imp_right .inl)]

theorem arrayTurnEnd_goesOn (hcmds : (s.cluster q).turnCmds < 32) (htime : s.dt - (s.cluster q).turnAt < turnLimit)
    (hready : l.eligible = true) : exec (.arrayTurnEnd q) s = .next (s.postOnce 9 (.arrayCommandComplete q)) := by
  rw [exec_arrayTurnEnd, arrayTurnEnd_unhurried hturn hruns hurgent hreqs hreflex, if_neg (by simp [hready, hcmds, htime]),
    if_pos hready]

end

/-! ### Spills and restores (11 R247-R249) -/

/-- The parts of a lease written to its save area; of a write that fails, only what its translation leaves behind stays. -/
def State.spillParts (s : State) (l : Lease) (parts : List (Nat × List Byte)) : State :=
  parts.foldl (fun s p =>
    match s.homeWrite l.who (l.save.has .local) [(l.save.addr + BitVec.ofNat 64 p.1, p.2)] [] with
    | .ok s2 => s2
    | .error (_, s2) => s2) s

section
variable {id : Nat} {f : Fin 2} (hlive : s.house.frozen = false) (hl : (s.cluster q).lease id = some l) (hmove : l.moving = true)
include hlive hl hmove

theorem arraySpill_of (hst : l.st = .resident f) : exec (.arraySpill q id) s = .next
    (((((s.free.2.spillParts l (l.parts s.free.1)).updLease q id (fun (m : Lease) =>
      { m with st := .spilled, moving := false, spill := l.parts s.free.1 })).updCluster q (fun (x : Cluster) =>
        { x with frames := wr x.frames f none, spills := hold 0xFFFF (x.spills + 1) })).postOnce 1 (.leaseGrant q)).pokeArray q) := by
  simp only [exec_arraySpill, execArraySpill, hl, hst, hmove, hlive, Bool.not_true, Bool.false_eq_true, if_false]
  rfl

/-- A restore that finds every part of the save area as the spill wrote it. -/
theorem arrayRestore_unchanged {found : List (Nat × Bool × List Nat)} {s1 : State} (hst : l.st = .spilled)
    (hf : (s.cluster q).freeFrame = some f) (hframe : (s.cluster q).frameFor true = true)
    (hread : s.readAll l l.spill = (found, s1)) (hfound : ∀ p ∈ found, p.2 = (false, [])) :
    exec (.arrayRestore q id) s = .next (((s1.updCluster q (fun (x : Cluster) =>
      { x with frames := wr x.frames f (some id) })).updLease q id (fun (l : Lease) =>
        { l with st := .resident f, moving := false, lastUse := s.dt, spill := [] })).pokeArray q) := by
  have hsame : found.any (fun p => p.2.1) = false := List.any_eq_false.mpr fun p hp => by simp [hfound p hp]
  have hgood : found.flatMap (fun p => p.2.2.map (· + p.1)) = [] := List.flatMap_eq_nil_iff.mpr fun p hp => by simp [hfound p hp]
  simp only [exec_arrayRestore, execArrayRestore, hl, hst, hmove, hlive, hframe, hf, hread, hsame, hgood, List.foldl_nil, ne_eq,
    not_true_eq_false, Bool.not_true, Bool.false_eq_true, or_self, if_false]

end

end

/-- Settles O23. -/
theorem framesAndTurns : Obligations.FramesAndTurns := by
  intro s q x held reqs kept hlive
  refine ⟨fun l hreqs hheld hl => ⟨fun f hf hwant => ?_, fun v hwant hv => ?_⟩, fun l hnone hl => ⟨fun hst => ?_, fun hst => ?_⟩,
    fun l hturn hruns hurgent hreqs hreflex => ⟨fun hover => ?_, fun hcmds htime hready => ?_⟩, fun id l f hl hst hmove => ?_,
    fun id l f found s1 hl hst hmove hf hwant hread hfound => ?_⟩
  · exact leaseGrant_frame hlive hreqs hheld hl (frameFor_eq_true_iff.mpr hwant) hf
  · exact leaseGrant_spills hlive hreqs hheld hl (frameFor_eq_false_iff.mpr hwant) hv
  · exact arrayTurn_given hnone hl hst
  · exact arrayTurn_restores hnone hl hst
  · exact arrayTurnEnd_ends hturn hruns hurgent hreqs hreflex hover
  · exact arrayTurnEnd_goesOn hturn hruns hurgent hreqs hreflex hcmds htime hready
  · exact arraySpill_of hlive hl hmove hst
  · exact arrayRestore_unchanged hlive hl hmove hst hf (frameFor_eq_true_iff.mpr hwant) hread hfound

end Sys2Proof.Machine
end

section
/-! PROOF. Payloads and pages: what is coded decodes to itself, dictionaries in step (13 R275-R278; 21 R377). -/

namespace Sys2Proof.Machine

/-! ### Numbers as bits and as bytes -/

@[simp] theorem bitsLow_length (n x : Nat) : (bitsLow n x).length = n := by simp [bitsLow]

theorem bitsLow_add (m n x : Nat) : bitsLow (m + n) x = bitsLow m x ++ bitsLow n (x / 2 ^ m) := by
  simp [bitsLow, List.range_add, Nat.testBit_div_two_pow, Nat.add_comm]

theorem bitsLow_succ (n x : Nat) : bitsLow (n + 1) x = x.testBit 0 :: bitsLow n (x / 2) := by
  rw [Nat.add_comm, bitsLow_add]
  simp [bitsLow]

theorem bitsLow_mod (n x : Nat) : bitsLow n (x % 2 ^ n) = bitsLow n x :=
  List.map_congr_left fun i hi => by simp [Nat.testBit_mod_two_pow, List.mem_range.mp hi]

theorem ofBitList_bitsLow (n x : Nat) : ofBitList (bitsLow n x) = x % 2 ^ n := by
  induction n generalizing x with
  | zero => simp [bitsLow, ofBitList, Nat.mod_one]
  | succ n ih =>
    rw [bitsLow_succ, ofBitList, ih, Nat.pow_succ', Nat.mod_mul, Nat.testBit_zero]
    rcases Nat.mod_two_eq_zero_or_one x with h | h <;> simp [h]

/-- A field read back from the head of a stream. -/
theorem ofBitList_take_bitsLow {n x : Nat} (h : x < 2 ^ n) (l : List Bool) : ofBitList ((bitsLow n x ++ l).take n) = x := by
  rw [List.take_left' (bitsLow_length n x), ofBitList_bitsLow, Nat.mod_eq_of_lt h]

theorem drop_bitsLow (n x : Nat) (l : List Bool) : (bitsLow n x ++ l).drop n = l := List.drop_left' (bitsLow_length n x)

/-- A number's low bits begin with the bits that it was made of. -/
theorem isPrefix_bitsLow_ofBitList {n : Nat} {bs : List Bool} (h : bs.length ≤ n) : bs <+: bitsLow n (ofBitList bs) := by
  induction bs generalizing n with
  | nil => exact List.nil_prefix
  | cons b bs ih =>
    obtain ⟨m, rfl⟩ : ∃ m, n = m + 1 := ⟨n - 1, by simp at h; omega⟩
    have hbit : (ofBitList (b :: bs)).testBit 0 = b := by cases b <;> simp [ofBitList, Nat.testBit_zero]
    have hrest : ofBitList (b :: bs) / 2 = ofBitList bs := by
      rw [ofBitList]
      split_ifs <;> omega
    rw [bitsLow_succ, hbit, hrest]
    exact (List.prefix_cons_inj b).mpr (ih (by simpa using h))

/-- The words of a stream of bits begin with those bits. -/
theorem isPrefix_bitWords {n : Nat} {bs : List Bool} (h : bs.length ≤ 32 * n) :
    bs <+: (bitWords n bs).flatMap (fun w => bitsLow 32 w.toNat) := by
  induction n generalizing bs with
  | zero => simp_all
  | succ n ih =>
    have hhead : bs.take 32 <+: bitsLow 32 (ofBitList (bs.take 32)) := isPrefix_bitsLow_ofBitList (List.length_take_le ..)
    rw [bitWords, List.flatMap_cons, BitVec.toNat_ofNat, bitsLow_mod]
    by_cases hlen : bs.length ≤ 32
    · rw [List.take_of_length_le hlen] at hhead ⊢
      exact hhead.trans (List.prefix_append ..)
    · rw [← hhead.eq_of_length (by simp; omega)]
      conv_lhs => rw [← List.take_append_drop 32 bs]
      exact (List.prefix_append_right_inj _).mpr (ih (by simp; omega))

theorem bitsLow_toBytes (n x : Nat) : (toBytes n x).flatMap (fun b => bitsLow 8 b.toNat) = bitsLow (8 * n) x := by
  induction n generalizing x with
  | zero => rfl
  | succ n ih =>
    rw [toBytes, List.flatMap_cons, ih, BitVec.toNat_ofNat, bitsLow_mod, Nat.mul_succ, Nat.add_comm (8 * n), bitsLow_add 8]
    rfl

theorem ofBytes_lt (bs : List Byte) : ofBytes bs < 2 ^ (8 * bs.length) := by
  induction bs with
  | nil => simp [ofBytes]
  | cons b bs ih =>
    have := b.isLt
    rw [ofBytes, List.length_cons, Nat.mul_succ, Nat.pow_add]
    omega

theorem toBytes_ofBytes (bs : List Byte) : toBytes bs.length (ofBytes bs) = bs := by
  induction bs with
  | nil => rfl
  | cons b bs ih =>
    have := b.isLt
    have hrest : (b.toNat + 256 * ofBytes bs) / 256 = ofBytes bs := by omega
    have hhead : BitVec.ofNat 8 (b.toNat + 256 * ofBytes bs) = b := by
      apply BitVec.eq_of_toNat_eq
      rw [BitVec.toNat_ofNat]
      omega
    rw [List.length_cons, ofBytes, toBytes, hrest, hhead, ih]

/-! ### The stream of a payload (13 R275, R276) -/

/-- The dictionary keeps its eight entries. -/
theorem codeWord_dict_length {t : BitVec 2} {d : List Word} {x : Word} (h : d.length = 8) : (codeWord t d x).2.length = 8 := by
  unfold codeWord
  split_ifs
  · exact h
  · split
    · exact h
    · split <;> simp [pushDict, h]

theorem codeWords_dict_length {t : BitVec 2} {d ws : List Word} (h : d.length = 8) : (codeWords t d ws).2.length = 8 := by
  induction ws generalizing d with
  | nil => exact h
  | cons x xs ih => exact ih (codeWord_dict_length h)

/-- A word's code is read back at the head of a stream, and the dictionary takes the coder's step. -/
theorem decodeBits_codeWord {t : BitVec 2} {d : List Word} {x : Word} (hd : d.length = 8) (n : Nat) (l : List Bool) :
    decodeBits (n + 1) d ((codeWord t d x).1 ++ l) =
      ((if isTypedZero t x then 0 else x) :: (decodeBits n (codeWord t d x).2 l).1, (decodeBits n (codeWord t d x).2 l).2) := by
  unfold codeWord
  split_ifs with hzero
  · rfl
  cases hhit : d.findIdx? (· == x) with
  | some j =>
    obtain ⟨hj, heq, -⟩ := List.findIdx?_eq_some_iff_getElem.mp hhit
    have hentry : (d[j]?).getD 0 = x := by simpa [hj] using heq
    simp only [List.cons_append, List.nil_append, decodeBits, ofBitList_take_bitsLow (show j < 2 ^ 3 by omega), drop_bitsLow, hentry]
  | none =>
    cases hhalf : d.findIdx? (fun y => y.toNat / 2 ^ 16 == x.toNat / 2 ^ 16) with
    | some j =>
      obtain ⟨hj, heq, -⟩ := List.findIdx?_eq_some_iff_getElem.mp hhalf
      have hhigh : ((d[j]?).getD 0).toNat / 2 ^ 16 = x.toNat / 2 ^ 16 := by simpa [hj] using heq
      have hdrop : (bitsLow 3 j ++ (bitsLow 16 x.toNat ++ l)).drop 19 = l := by
        rw [← List.drop_drop (i := 16) (j := 3), drop_bitsLow, drop_bitsLow]
      have hlow : ofBitList ((bitsLow 16 x.toNat ++ l).take 16) = x.toNat % 2 ^ 16 := by
        rw [← bitsLow_mod, ofBitList_take_bitsLow (Nat.mod_lt _ (by decide))]
      simp only [List.cons_append, List.nil_append, List.append_assoc, decodeBits, ofBitList_take_bitsLow (show j < 2 ^ 3 by omega),
        drop_bitsLow, hdrop, hhigh, hlow, Nat.div_add_mod, BitVec.ofNat_toNat, BitVec.setWidth_eq]
    | none =>
      simp only [List.cons_append, List.nil_append, decodeBits, ofBitList_take_bitsLow x.isLt, drop_bitsLow, BitVec.ofNat_toNat,
        BitVec.setWidth_eq]

/-- A stream's words are read back, whatever follows it, and the receiver ends with the sender's dictionary. -/
theorem decodeBits_codeWords {t : BitVec 2} {d ws : List Word} (hd : d.length = 8) (l : List Bool) :
    decodeBits ws.length d ((codeWords t d ws).1 ++ l) =
      (ws.map (fun w => if isTypedZero t w then 0 else w), (codeWords t d ws).2) := by
  induction ws generalizing d with
  | nil => rfl
  | cons x xs ih =>
    simp only [codeWords, List.length_cons, List.append_assoc, decodeBits_codeWord hd, ih (codeWord_dict_length hd), List.map_cons]

theorem decodeBits_of_prefix {t : BitVec 2} {d ws : List Word} {l : List Bool} (hd : d.length = 8) (h : (codeWords t d ws).1 <+: l) :
    decodeBits ws.length d l = (ws.map (fun w => if isTypedZero t w then 0 else w), (codeWords t d ws).2) := by
  obtain ⟨rest, rfl⟩ := h
  exact decodeBits_codeWords hd rest

theorem compress_eq (t : BitVec 2) (d ws : List Word) : compress t d ws =
    if ((codeWords t d ws).1.length + 31) / 32 < ws.length then
      (bitWords (((codeWords t d ws).1.length + 31) / 32) (codeWords t d ws).1, true, (codeWords t d ws).2)
    else (ws, false, (codeWords t d ws).2) := rfl

theorem compress_dict (t : BitVec 2) (d ws : List Word) : (compress t d ws).2.2 = (codeWords t d ws).2 := by
  rw [compress_eq]
  split_ifs <;> rfl

/-- A payload that was sent, coded or raw, arrives with its zeros as +0 (13 R276, R277). -/
theorem decompress_compress {t : BitVec 2} {d ws : List Word} (hd : d.length = 8) :
    decompress t (compress t d ws).2.1 ws.length d (compress t d ws).1 =
      (ws.map (fun w => if isTypedZero t w then 0 else w), (compress t d ws).2.2) := by
  rw [compress_dict, compress_eq]
  split_ifs
  · exact decodeBits_of_prefix hd (isPrefix_bitWords (by omega))
  · rfl

/-! ### Pages (21 R377) -/

/-- The first `n` words of a string of bytes, as `codePage` and `decodePage` read them. -/
def wordsOf (n : Nat) (bs : List Byte) : List Word :=
  (List.range n).map (fun i => BitVec.ofNat 32 (ofBytes ((bs.drop (4 * i)).take 4)))

theorem wordsOf_succ (n : Nat) (bs : List Byte) :
    wordsOf (n + 1) bs = BitVec.ofNat 32 (ofBytes (bs.take 4)) :: wordsOf n (bs.drop 4) := by
  simp [wordsOf, List.range_succ_eq_map, Nat.mul_succ, Nat.add_comm]

@[simp] theorem wordsOf_length (n : Nat) (bs : List Byte) : (wordsOf n bs).length = n := by simp [wordsOf]

/-- The bytes of a string's words are the string. -/
theorem toBytes_wordsOf {n : Nat} {bs : List Byte} (h : bs.length = 4 * n) :
    (wordsOf n bs).flatMap (fun w => toBytes 4 w.toNat) = bs := by
  induction n generalizing bs with
  | zero => exact (List.length_eq_zero_iff.mp h).symm
  | succ n ih =>
    have hlen : (bs.take 4).length = 4 := by simp; omega
    have hlt : ofBytes (bs.take 4) < 2 ^ 32 := by simpa [hlen] using ofBytes_lt (bs.take 4)
    have hhead : toBytes 4 (ofBytes (bs.take 4)) = bs.take 4 := by simpa [hlen] using toBytes_ofBytes (bs.take 4)
    rw [wordsOf_succ, List.flatMap_cons, BitVec.toNat_ofNat, Nat.mod_eq_of_lt hlt, hhead, ih (by simp; omega), List.take_append_drop]

/-- The bits of words are those of their bytes. -/
theorem bitsLow_flatMap_toBytes (ws : List Word) :
    (ws.flatMap (fun w => toBytes 4 w.toNat)).flatMap (fun b => bitsLow 8 b.toNat) = ws.flatMap (fun w => bitsLow 32 w.toNat) := by
  rw [List.flatMap_assoc]
  exact congrArg (ws.flatMap ·) (funext fun w => bitsLow_toBytes 4 w.toNat)

theorem bitsLow_wordsOf {n : Nat} {bs : List Byte} (h : bs.length = 4 * n) :
    (wordsOf n bs).flatMap (fun w => bitsLow 32 w.toNat) = bs.flatMap (fun b => bitsLow 8 b.toNat) := by
  rw [← bitsLow_flatMap_toBytes, toBytes_wordsOf h]

theorem bitWords_length (n : Nat) (bs : List Bool) : (bitWords n bs).length = n := by
  induction n generalizing bs with
  | zero => rfl
  | succ n ih => rw [bitWords, List.length_cons, ih]

/-- A stream of bits in whole bytes, the unused bits of the last 0. -/
def bitBytes (bits : List Bool) : List Byte :=
  ((bitWords (((bits.length + 7) / 8 + 3) / 4) bits).flatMap (fun w => toBytes 4 w.toNat)).take ((bits.length + 7) / 8)

theorem bitBytes_length (bits : List Bool) : (bitBytes bits).length = (bits.length + 7) / 8 := by
  have hwords : (fun w : Word => (toBytes 4 w.toNat).length) = fun _ => 4 := funext fun w => toBytes_length 4 w.toNat
  simp only [bitBytes, List.length_take, List.length_flatMap, hwords, List.map_const', List.sum_replicate, bitWords_length, smul_eq_mul]
  omega

theorem length_flatMap_bitsLow (n : Nat) (bs : List Byte) : (bs.flatMap (fun b => bitsLow n b.toNat)).length = n * bs.length := by
  simp [List.length_flatMap, Nat.mul_comm]

/-- The bytes of a stream begin with its bits. -/
theorem isPrefix_bitBytes (bits : List Bool) : bits <+: (bitBytes bits).flatMap (fun b => bitsLow 8 b.toNat) := by
  have hwords : bits <+: (bitWords (((bits.length + 7) / 8 + 3) / 4) bits).flatMap (fun w => bitsLow 32 w.toNat) :=
    isPrefix_bitWords (by omega)
  rw [← bitsLow_flatMap_toBytes] at hwords
  refine List.prefix_of_prefix_length_le hwords ((List.take_prefix ..).flatMap _) ?_
  rw [length_flatMap_bitsLow, bitBytes_length]
  omega

/-- The code of a page's words, the dictionary empty at its start (21 R377). -/
def pageStream (bs : List Byte) : List Bool := (codeWords 0 (List.replicate 8 0) (wordsOf 1024 bs)).1

theorem codePage_eq (bs : List Byte) :
    codePage bs = if 4056 < ((pageStream bs).length + 7) / 8 then (true, bs) else (false, bitBytes (pageStream bs)) := rfl

/-- Coded bytes filled up to whole words. -/
def padded (bs : List Byte) : List Byte := bs ++ List.replicate ((4 - bs.length % 4) % 4) (0 : Byte)

theorem padded_length (bs : List Byte) : (padded bs).length = 4 * ((padded bs).length / 4) := by
  simp only [padded, List.length_append, List.length_replicate]
  omega

/-- The words that a coded page's bytes decode to. -/
def pageWords (bs : List Byte) : List Word :=
  (decodeBits 1024 (List.replicate 8 0) ((wordsOf ((padded bs).length / 4) (padded bs)).flatMap (fun w => bitsLow 32 w.toNat))).1

theorem decodePage_coded (bs : List Byte) (f : VReg) : decodePage false bs f =
    (pageWords bs).flatMap (fun w => toBytes 4 w.toNat) ++
      freeBytes f (4096 - ((pageWords bs).flatMap (fun w => toBytes 4 w.toNat)).length) := rfl

theorem isTypedZero_zero (w : Word) : isTypedZero 0 w = (w == 0) := rfl

/-- The words of a coded page are read back: a zero of type 0 is +0 itself. -/
theorem pageWords_bitBytes (bs : List Byte) : pageWords (bitBytes (pageStream bs)) = wordsOf 1024 bs := by
  have hprefix : pageStream bs <+: (padded (bitBytes (pageStream bs))).flatMap (fun b => bitsLow 8 b.toNat) :=
    (isPrefix_bitBytes _).trans (by rw [padded, List.flatMap_append]; exact List.prefix_append ..)
  have hdecode := decodeBits_of_prefix (t := 0) (ws := wordsOf 1024 bs) (by simp) hprefix
  rw [wordsOf_length] at hdecode
  have hzero : (fun w : Word => if isTypedZero 0 w then 0 else w) = id := funext fun w => by
    rw [isTypedZero_zero]
    split_ifs with h
    · exact (beq_iff_eq.mp h).symm
    · rfl
  rw [pageWords, bitsLow_wordsOf (padded_length _), hdecode, hzero, List.map_id]

/-- A page of 4,096 bytes is given back, stored raw or coded (21 R377). -/
theorem decodePage_codePage {bs : List Byte} (f : VReg) (h : bs.length = 4096) : decodePage (codePage bs).1 (codePage bs).2 f = bs := by
  rw [codePage_eq]
  split_ifs
  · rfl
  · rw [decodePage_coded, pageWords_bitBytes, toBytes_wordsOf h, h]
    exact List.append_nil bs

/-- Settles O26. -/
theorem payloadsAndPagesDecode : Obligations.PayloadsAndPagesDecode := by
  refine ⟨fun t d ws hd => ⟨?_, decompress_compress hd⟩, fun bs f h => decodePage_codePage f h⟩
  rw [compress_dict]
  exact codeWords_dict_length hd

end Sys2Proof.Machine
end

section
/-! PROOF. Walks of memory by the Proboscis engines: issue, arrival, one rule an event, the end (14 R280-R286). -/

namespace Sys2Proof.Machine

/-! ### pwalk (14 R280, R281, R285) -/

/-- A capability that a walk may use, on the issuer's die or on none. -/
theorem checkWalkCap_ok {s : State} {c : CVal} {ps : List Perm} {al : Nat} (htag : c.tag = true) (hperms : c.hasAll ps = true)
    (hglobal : c.has .local = false) (halign : c.addr.toNat % al = 0)
    (hdie : 1 < df c.addr 56 8 ∨ dieOfVa c.addr = dieOf s.cur.1) : s.checkWalkCap c ps al = .ok () := by
  have hperm : (c.hasAll ps && !c.has .local) = true := by simp [hperms, hglobal]
  have hside : ¬ (df c.addr 56 8 ≤ 1 ∧ dieOfVa c.addr ≠ dieOf s.cur.1) := by
    rintro ⟨hle, hne⟩
    exact hdie.elim (by omega) hne
  simp only [State.checkWalkCap, need_true htag, need_true hperm, halign, ne_eq, not_true_eq_false, if_false, hside, bind, Except.bind]
  rfl

theorem pwalk_of {s s1 : State} {g k : Fin 8} {a b : Fin 64} {d st : CVal} {x y : Strand} {bs : List RByte} {v : Walk}
    (hg : s.me.guard g = true) (hawait : s.me.await = none) (ha : s.me.source a = some (d, x)) (hb : x.source b = some (st, y))
    (hacc : s.mayAccess d [.ld, .ldcap] d.addr 192 64)
    (hload : (s.setMe y).load s.cur.1 s.cur.2 s.nextId (d.has .local) d.addr 192 = .ok (bs, s1))
    (hwalk : walkOf bs st (16 + (clusterOf s1.cur.1).val) = some v)
    (hdst : s1.checkWalkCap v.dst [.st, .eng] 16 = .ok ()) (hst : s1.checkWalkCap st [.ld, .eng] 1 = .ok ())
    (htask : s1.me.work.task = none) (hfree : s1.engineFree = .ok ()) :
    exec (.pwalk g k a b) s = .next (s.passedTo 4 (s1.startOp (some k) (.walk v) [] .walkArrival)) := by
  refine exec_pwalk.trans (issue_ok hg ?_)
  simp only [hawait, Option.isNone_none, need_true, useC_of_source ha, useC_setMe hb, checkAccess_ok (mayAccess_setMe.mpr hacc),
    setMe_cur, setMe_nextId, hload, hwalk, hdst, hst, notSpec_ok htask, hfree, bind, Except.bind]
  rfl

/-! ### A walk's events (14 R280, R283-R286) -/

/-- The rule that a BRANCH goes on with, by the bytes `m` of memory against the key's. -/
def branchTo (w : Walk) (r : Dbl) (m : Nat) : Nat :=
  let key := ofBytes ((w.key.drop (ruleKoff r)).take (ruleLen r))
  if m = key then ruleT1 r else if m < key then ruleT2 r else ruleT3 r

section
variable {s : State} {id : Nat} {o : Op} {w : Walk}

/-- A read of a rule that is no step, in the arena, at the walk's own engine, on the issuer's die or on none. -/
theorem walkRead_here {at' : Dbl} {n al : Nat} {k : State → List Byte → State} {bs : List RByte} {s1 : State}
    (hin : w.arena.inBounds at'.toNat n = true) (hengine : engineOf at' = some w.engine)
    (hdie : 1 < df at' 56 8 ∨ dieOfVa at' = dieOf o.core) (halign : at'.toNat % al = 0)
    (hread : s.homeRead o.who false at' n = .ok (bs, s1)) :
    s.walkRead o w at' n al false k = k s1 (bs.map (·.1)) := by
  have hside : ¬ (df at' 56 8 ≤ 1 ∧ dieOfVa at' ≠ dieOf o.core) := by
    rintro ⟨hle, hne⟩
    exact hdie.elim (by omega) hne
  simp only [State.walkRead, hin, hside, halign, hengine, State.walkRead.read, hread, Bool.not_true, Bool.false_eq_true, ne_eq,
    not_true_eq_false, false_and, or_self, if_false]

theorem walk?_of (hj : o.job = .walk w) : o.walk? = some w := by rw [Op.walk?, hj]

variable (hlive : s.house.frozen = false) (ho : s.op id = some o) (hj : o.job = .walk w)
include hlive ho hj

/-- A walk waits for what its issuer did before, takes a slot, or waits for one. -/
theorem walkArrival_of (hslot : w.slot = false) (hresult : w.result = none) : exec (.walkArrival id) s =
    .next (if s.awaitsIssuer o then s.post 20 (.walkArrival id)
      else if s.mayEnter id w then
        (s.updWalk id (fun (w : Walk) => { w with slot := true, waitNo := none })).post 1 (.walkRule id)
      else (s.newId.2.updWalk id (fun (w : Walk) => { w with waitNo := some (w.waitNo.getD s.newId.1) })).post 50
        (.walkArrival id)) := by
  simp only [exec_walkArrival, execWalkArrival, hlive, ho, Option.bind_some, walk?_of hj, hslot, hresult, Option.isSome_none,
    Bool.false_eq_true, or_self, if_false, Option.any_some]
  split_ifs <;> rfl

theorem walkEnd_of {q : Quad} (hresult : w.result = some q) : exec (.walkEnd id) s =
    .next (if s.engqRoom o.core o.wid id then (s.pushEngq o.core o.wid id q).endOp id else s.post 50 (.walkEnd id)) := by
  simp only [exec_walkEnd, execWalkEnd, hlive, ho, Option.bind_some, walk?_of hj, hresult, Bool.false_eq_true, if_false]
  split_ifs <;> rfl

section
variable (hslot : w.slot = true) (hresult : w.result = none)
include hslot hresult

theorem walkRule_idle (hidle : 16 ≤ w.idle) : exec (.walkRule id) s = .next (s.finishWalk o w 2 4 w.p) := by
  simp only [exec_walkRule, execWalkRule, hlive, ho, walk?_of hj, hslot, hresult, hidle, Option.isSome_none, Bool.not_true,
    Bool.false_eq_true, or_self, if_false, if_true]

variable (hidle : w.idle < 16) {r : Dbl} (hr : (w.rules[w.rule]?).getD 4 = r)
include hidle hr

theorem walkRule_end (hop : ruleOp r = 4) : exec (.walkRule id) s = .next (s.finishWalk o w 1 0 w.p) := by
  simp only [exec_walkRule, execWalkRule, hlive, ho, walk?_of hj, hslot, hresult, Nat.not_le.mpr hidle, Option.isSome_none,
    Bool.not_true, Bool.false_eq_true, or_self, if_false, hr, hop]

theorem walkRule_hash (hop : ruleOp r = 2) : exec (.walkRule id) s =
    .next (s.walkOn id (fun (v : Walk) => { v with p := hashAt w r, rule := ruleT1 r, idle := w.idle + 1 })) := by
  simp only [exec_walkRule, execWalkRule, hlive, ho, walk?_of hj, hslot, hresult, Nat.not_le.mpr hidle, Option.isSome_none,
    Bool.not_true, Bool.false_eq_true, or_self, if_false, hr, hop]

theorem walkRule_branch {at' : Dbl} {bs : List RByte} {s1 : State} (hop : ruleOp r = 0)
    (hat : at' = w.p + BitVec.ofNat 64 (ruleOff r)) (hin : w.arena.inBounds at'.toNat (ruleLen r) = true)
    (hengine : engineOf at' = some w.engine) (hdie : 1 < df at' 56 8 ∨ dieOfVa at' = dieOf o.core)
    (hread : s.homeRead o.who false at' (ruleLen r) = .ok (bs, s1)) :
    exec (.walkRule id) s = .next (s1.walkOn id (fun (v : Walk) =>
      { v with rule := branchTo w r (ofBytes (bs.map (·.1))), idle := w.idle + 1 })) := by
  subst hat
  simp only [exec_walkRule, execWalkRule, hlive, ho, walk?_of hj, hslot, hresult, Nat.not_le.mpr hidle, Option.isSome_none,
    Bool.not_true, Bool.false_eq_true, or_self, if_false, hr, hop]
  exact congrArg Host.Outcome.next (walkRead_here hin hengine hdie (Nat.mod_one _) hread)

end
end

end Sys2Proof.Machine
end

section
/-! PROOF. The prefetch unit of a core: entries, triggers, and the run of a kernel (13 R268-R273). -/

namespace Sys2Proof.Machine

/-! ### pfcfg, pfstop (13 R268, R269) -/

theorem myCore_setMe_pf (s : State) (y : Strand) : (s.setMe y).myCore.pf = s.myCore.pf := by
  simp [State.myCore, State.setMe, State.setStrand]

section
variable {s : State} {g : Fin 8} {a b : Fin 64} {n r : CVal} {x y : Strand}

/-- An entry that is empty, of the strand's ASID, or the strand privileged. -/
theorem pfEntry_ok (hn : n.val.toNat < 4)
    (hown : ∀ e, rd s.myCore.pf (Fin.ofNat 4 n.val.toNat) = some e → e.asid = s.me.asid ∨ s.me.pcc.has .sys = true)
    (hasid : y.asid = s.me.asid) (hpcc : y.pcc = s.me.pcc) : (s.setMe y).pfEntry n = .ok (Fin.ofNat 4 n.val.toNat) := by
  cases he : rd s.myCore.pf (Fin.ofNat 4 n.val.toNat) with
  | none =>
    simp only [State.pfEntry, need_true (decide_eq_true hn), myCore_setMe_pf, he, need_true, bind, Except.bind]
    rfl
  | some e =>
    have hmine : (e.asid == (s.setMe y).me.asid || (s.setMe y).mySys) = true := by
      simpa [State.mySys, hasid, hpcc] using hown e he
    simp only [State.pfEntry, need_true (decide_eq_true hn), myCore_setMe_pf, he, need_true hmine, bind, Except.bind]
    rfl

variable (hg : s.me.guard g = true) (htask : s.me.work.task = none) (ha : s.me.source a = some (n, x)) (hn : n.val.toNat < 4)
  (hown : ∀ e, rd s.myCore.pf (Fin.ofNat 4 n.val.toNat) = some e → e.asid = s.me.asid ∨ s.me.pcc.has .sys = true)
include hg htask ha hn hown

theorem pfstop_of : exec (.pfstop g a) s = .next (s.passedTo 4 ((s.setMe x).setPf (Fin.ofNat 4 n.val.toNat) none)) := by
  refine exec_pfstop.trans (issue_ok hg ?_)
  have htask' : (s.setMe x).me.work.task = none := by rw [me_setMe, source_work ha, htask]
  simp only [useC_of_source ha, notSpec_ok htask', pfEntry_ok hn hown (source_asid ha) (source_pcc ha), bind, Except.bind]
  rfl

theorem pfcfg_of {bs : List RByte} {s1 : State} (hb : x.source b = some (r, y)) (hacc : s.mayAccess r [.ld, .ldcap] r.addr 96 16)
    (hload : (s.setMe y).load s.cur.1 s.cur.2 s.nextId (r.has .local) r.addr 96 = .ok (bs, s1))
    (htags : (capIn bs 0).tag = true ∧ (capIn bs 16).tag = true)
    (hperms : (capIn bs 0).has .exec = true ∧ (capIn bs 16).has .ld = true)
    (hlines : (capIn bs 16).base % 64 = 0 ∧ (capIn bs 16).top % 64 = 0) :
    exec (.pfcfg g a b) s = .next (s.passedTo 4 (s1.setPf (Fin.ofNat 4 n.val.toNat) (some
      { code := capIn bs 0, watch := capIn bs 16, asid := s1.me.asid
        par := [capIn bs 32, capIn bs 48, capIn bs 64, capIn bs 80] }))) := by
  refine exec_pfcfg.trans (issue_ok hg ?_)
  have htask' : (s.setMe y).me.work.task = none := by rw [me_setMe, source_work hb, source_work ha, htask]
  have hentry := pfEntry_ok hn hown ((source_asid hb).trans (source_asid ha)) ((source_pcc hb).trans (source_pcc ha))
  have htags' : ((capIn bs 0).tag && (capIn bs 16).tag) = true := by simp [htags]
  have hperms' : ((capIn bs 0).has .exec && (capIn bs 16).has .ld) = true := by simp [hperms]
  have hlines' : ((capIn bs 16).base % 64 == 0 && (capIn bs 16).top % 64 == 0) = true := by simp [hlines]
  simp only [useC_of_source ha, useC_setMe hb, notSpec_ok htask', hentry, checkAccess_ok (mayAccess_setMe.mpr hacc), setMe_cur,
    setMe_nextId, hload, need_true htags', need_true hperms', need_true hlines', bind, Except.bind]
  rfl

end

/-! ### Triggers (13 R270, R271) -/

/-- Whether a trigger is that of a line filled for an address space. -/
def State.pfMine (s : State) (c : CoreId) (va : Nat) (asid : BitVec 16) (t : PfTrig) : Bool :=
  decide (t.line.toNat = va) && ((rd (s.core c).pf t.entry).map (·.asid) == some asid)

section
variable {s : State} {c : CoreId} {va : Nat} {asid : BitVec 16}

theorem prefetchTrigger_none (h : (s.core c).pfPend.find? (s.pfMine c va asid) = none) : exec (.prefetchTrigger c va asid) s = .next s := by
  unfold State.pfMine at h
  simp only [exec_prefetchTrigger, execPrefetchTrigger, h]

variable {t : PfTrig} (h : (s.core c).pfPend.find? (s.pfMine c va asid) = some t)
include h

/-- A trigger that finds eight in the queue is dropped and counted. -/
theorem prefetchTrigger_dropped (hfull : 8 ≤ (s.core c).pfq.length) : exec (.prefetchTrigger c va asid) s =
    .next (s.updCore c (fun (q : Core) => { q with
      pfPend := (s.core c).pfPend.eraseP (s.pfMine c va asid), pfst := wr q.pfst 1 (hold 0xFFFF (rd q.pfst 1 + 1)) })) := by
  unfold State.pfMine at h ⊢
  simp only [exec_prefetchTrigger, execPrefetchTrigger, h, hfull, if_true, State.pfCount, updCore_updCore]
  rfl

theorem prefetchTrigger_queued (hroom : (s.core c).pfq.length < 8) : exec (.prefetchTrigger c va asid) s =
    .next ((s.updCore c (fun (q : Core) => { q with
      pfPend := (s.core c).pfPend.eraseP (s.pfMine c va asid), pfq := q.pfq ++ [t] })).postOnce 1 (.prefetchKernel c)) := by
  unfold State.pfMine at h ⊢
  simp only [exec_prefetchTrigger, execPrefetchTrigger, h, Nat.not_le.mpr hroom, if_false, updCore_updCore]
  rfl

end

/-! ### The run of a kernel (13 R271, R272) -/

/-- Instructions that let the kernel go on use up its allowance one by one. -/
theorem kernelRun_add {t : PfTrig} {f : Nat → State} {m : Nat} (h : ∀ i, i < m → (f i).kernelStep t = .on (f (i + 1))) (n : Nat) :
    State.kernelRun t (m + n) (f 0) = State.kernelRun t n (f m) := by
  induction m generalizing n with
  | zero => rw [Nat.zero_add]
  | succ m ih =>
    rw [Nat.succ_add_eq_add_succ, ih fun i hi => h i (Nat.lt_succ_of_lt hi), State.kernelRun, h m (Nat.lt_succ_self m)]

section
variable {s : State} {c : CoreId} {t : PfTrig} {ts : List PfTrig}

/-- A run that leaves a kernel by its step `m`. -/
theorem kernelRun_ended {f : Nat → State} {m : Nat} {u : State} (h : ∀ i, i < m → (f i).kernelStep t = .on (f (i + 1)))
    (hm : m < 256) (hend : (f m).kernelStep t = .ended u) : State.kernelRun t 256 (f 0) = .ended u := by
  obtain ⟨n, hn⟩ : ∃ n, 256 = m + (n + 1) := ⟨255 - m, by omega⟩
  rw [hn, kernelRun_add h, State.kernelRun, hend]

theorem kernelRun_bad {f : Nat → State} {m : Nat} {u : State} (h : ∀ i, i < m → (f i).kernelStep t = .on (f (i + 1)))
    (hm : m < 256) (hbad : (f m).kernelStep t = .bad u) : State.kernelRun t 256 (f 0) = .bad u := by
  obtain ⟨n, hn⟩ : ∃ n, 256 = m + (n + 1) := ⟨255 - m, by omega⟩
  rw [hn, kernelRun_add h, State.kernelRun, hbad]

/-- A kernel that has not ended in 256 instructions. -/
theorem kernelRun_overrun {f : Nat → State} (h : ∀ i, i < 256 → (f i).kernelStep t = .on (f (i + 1))) :
    State.kernelRun t 256 (f 0) = .bad (f 256) := kernelRun_add h 0

/-- The c registers of a starting kernel, the trigger line in c1, its parameters in c2 to c5, the line's address in c6. -/
theorem kernelStrand_eq (e : PfEntry) (t : PfTrig) : kernelStrand e t =
    { Strand.reset with
      st := .running, asid := e.asid, pcc := e.code, tvec := CVal.make 0 4 [.exec]
      c := vofFn (fun (i : Fin 64) => if i.val = 1 then CVal.make t.line.toNat 64 [.ld]
        else if i.val = 6 then .plain (t.line.setWidth 128)
        else if 2 ≤ i.val ∧ i.val ≤ 5 then (e.par[i.val - 2]?).getD .null else .null) } := by
  refine congrArg (fun c => { Strand.reset with
    st := .running, asid := e.asid, pcc := e.code, tvec := CVal.make 0 4 [.exec], c := vofFn c }) (funext fun i => ?_)
  match i with
  | ⟨0, _⟩ | ⟨1, _⟩ | ⟨2, _⟩ | ⟨3, _⟩ | ⟨4, _⟩ | ⟨5, _⟩ | ⟨6, _⟩ => rfl
  | ⟨j + 7, _⟩ => rfl

theorem prefetchKernel_idle (hq : (s.core c).pfq = []) : exec (.prefetchKernel c) s = .next s := by
  simp only [exec_prefetchKernel, execPrefetchKernel, hq]

/-- The state behind a kernel's trigger: a trigger that is still queued asks for its kernel. -/
def State.pfMore (s : State) (c : CoreId) (ts : List PfTrig) : State := if ts = [] then s else s.postOnce 1 (.prefetchKernel c)

/-- The oldest trigger taken from the queue. -/
def State.pfTaken (s : State) (c : CoreId) (ts : List PfTrig) : State := s.updCore c (fun (q : Core) => { q with pfq := ts })

/-- The kernel's own strand in place of the slot's. -/
def State.kernelStart (s : State) (c : CoreId) (t : PfTrig) (ts : List PfTrig) (e : PfEntry) : State :=
  { ((s.pfTaken c ts).pfCount c 0).setStrand c 0 (kernelStrand e t) with cur := (c, 0) }

/-- After a kernel the slot's strand is as it was. -/
def State.kernelBack (s : State) (c : CoreId) (u : State) : State := { u.setStrand c 0 (s.strand c 0) with cur := s.cur }

theorem pfMore_eq (u : State) : (if ts.isEmpty then u else u.postOnce 1 (.prefetchKernel c)) = u.pfMore c ts := by
  cases ts <;> rfl

variable (hq : (s.core c).pfq = t :: ts)
include hq

/-- A trigger whose entry has been emptied runs nothing. -/
theorem prefetchKernel_stopped (he : rd (s.core c).pf t.entry = none) :
    exec (.prefetchKernel c) s = .next ((s.pfTaken c ts).pfMore c ts) := by
  simp only [exec_prefetchKernel, execPrefetchKernel, hq, he, pfMore_eq]
  rfl

variable {e : PfEntry} (he : rd (s.core c).pf t.entry = some e)
include he

theorem prefetchKernel_ended {u : State} (hrun : State.kernelRun t 256 (s.kernelStart c t ts e) = .ended u) :
    exec (.prefetchKernel c) s = .next ((s.kernelBack c u).pfMore c ts) := by
  unfold State.kernelStart State.pfTaken at hrun
  simp only [exec_prefetchKernel, execPrefetchKernel, hq, he, hrun, pfMore_eq]
  rfl

theorem prefetchKernel_failed {u : State} (hrun : State.kernelRun t 256 (s.kernelStart c t ts e) = .bad u) :
    exec (.prefetchKernel c) s = .next (((s.kernelBack c u).pfCount c 2).pfMore c ts) := by
  unfold State.kernelStart State.pfTaken at hrun
  simp only [exec_prefetchKernel, execPrefetchKernel, hq, he, hrun, pfMore_eq]
  rfl

end

/-! ### One instruction of a kernel (13 R272) -/

section
variable {s s1 u : State} {t : PfTrig} {w lit len : Nat} (hfetch : s.fetchInstr s.cur.1 s.cur.2 = .ok (w, lit, len, s1))
  (hfits : fits w = true)
include hfetch hfits

theorem kernelStep_off (hg : s1.me.guard (Fin.ofNat 8 (w / 2 ^ 29)) = false)
    (hu : issue (Fin.ofNat 8 (w / 2 ^ 29)) len s1 .ok = .next u) :
    s.kernelStep t = if u.me.tcause.getLsbD 31 then .bad u else .on u := by
  simp only [State.kernelStep, hfetch, hfits, hg, Bool.not_true, Bool.not_false, Bool.false_eq_true, if_false, if_true, hu,
    kernelAfter]

variable (hg : s1.me.guard (Fin.ofNat 8 (w / 2 ^ 29)) = true)
include hg

theorem kernelStep_refused (hact : kernelAct w lit = none) : s.kernelStep t = .bad s1 := by
  simp only [State.kernelStep, hfetch, hfits, hg, hact, Bool.not_true, Bool.false_eq_true, if_false]

theorem kernelStep_hend {h : Fin 8} (hact : kernelAct w lit = some (.hend h)) : s.kernelStep t = .ended s1 := by
  simp only [State.kernelStep, hfetch, hfits, hg, hact, Bool.not_true, Bool.false_eq_true, if_false]

theorem kernelStep_run {cs : List (Fin 64)} {run : State → Out} (hact : kernelAct w lit = some (.run cs run))
    (hcs : ∀ r ∈ cs, r.val ≤ 15) (hu : run s1 = .next u) :
    s.kernelStep t = if u.me.tcause.getLsbD 31 then .bad u else .on u := by
  have hlow : cs.any (fun r => decide (15 < r.val)) = false :=
    List.any_eq_false.mpr fun r hr => by simpa using hcs r hr
  simp only [State.kernelStep, hfetch, hfits, hg, hact, hlow, hu, kernelAfter, Bool.not_true, Bool.false_eq_true, if_false]

end

/-- Settles O42. -/
theorem walksAndPrefetchKernels : Obligations.WalksAndPrefetchKernels := by
  refine ⟨fun s g k a b d st x y id o w => ⟨?_, fun hlive ho hj => ⟨?_, ?_, ?_, ?_, ?_⟩⟩,
    fun s g a b n r x y c va asid => ⟨?_, ?_, prefetchKernel_idle, ?_, ?_⟩⟩
  · intro bs s1 v hg hawait _ ha hb hacc hload hcur hwalk hcaps htask hfree
    obtain ⟨hdtag, hdperms, hdglobal, hdalign, hddie⟩ := hcaps (v.dst, [.st, .eng], 16) (by simp)
    obtain ⟨hstag, hsperms, hsglobal, hsalign, hsdie⟩ := hcaps (st, [.ld, .eng], 1) (by simp)
    rw [← hcur] at hwalk hddie hsdie
    exact pwalk_of hg hawait ha hb hacc hload hwalk (checkWalkCap_ok hdtag hdperms hdglobal hdalign hddie)
      (checkWalkCap_ok hstag hsperms hsglobal hsalign hsdie) htask hfree
  · intro hslot hresult hwait
    rw [walkArrival_of hlive ho hj hslot hresult, if_pos hwait]
  · intro hslot hresult hwait henter
    rw [walkArrival_of hlive ho hj hslot hresult, hwait, if_neg Bool.false_ne_true, if_pos henter]
  · intro hslot hresult
    exact ⟨walkRule_idle hlive ho hj hslot hresult, fun hidle hop => walkRule_end hlive ho hj hslot hresult hidle rfl hop,
      fun hidle hop => walkRule_hash hlive ho hj hslot hresult hidle rfl hop,
      fun bs s1 hidle hop ⟨hin, hengine, hdie⟩ hread =>
        walkRule_branch hlive ho hj hslot hresult hidle rfl hop rfl hin hengine hdie hread⟩
  · intro q hresult hroom
    rw [walkEnd_of hlive ho hj hresult, if_pos hroom]
  · intro q hresult hroom
    rw [walkEnd_of hlive ho hj hresult, hroom, if_neg Bool.false_ne_true]
  · intro hg htask ha hn i hown
    refine ⟨pfstop_of hg htask ha hn hown, ?_⟩
    intro bs s1 hb hacc hload code watch hcode hwatch hexec hld hbase htop
    exact pfcfg_of hg htask ha hn hown hb hacc hload ⟨hcode, hwatch⟩ ⟨hexec, hld⟩ ⟨hbase, htop⟩
  · exact ⟨prefetchTrigger_none, fun t h => ⟨prefetchTrigger_dropped h, prefetchTrigger_queued h⟩⟩
  · intro t ts hq s1 more
    refine ⟨prefetchKernel_stopped hq, ?_⟩
    intro e f m he line hstart hon back fails
    have hstart' : f 0 = s.kernelStart c t ts e := by
      rw [hstart, State.kernelStart, kernelStrand_eq]
      rfl
    refine ⟨fun u hm hend => ?_, fun u hm hbad => ?_, fun hm => ?_⟩
    · exact prefetchKernel_ended hq he (by rw [← hstart']; exact kernelRun_ended hon hm hend)
    · exact prefetchKernel_failed hq he (by rw [← hstart']; exact kernelRun_bad hon hm hbad)
    · subst hm
      exact prefetchKernel_failed hq he (by rw [← hstart']; exact kernelRun_overrun hon)
  · intro t w lit len s1 hfetch hfits h
    exact ⟨fun hg => ⟨kernelStep_refused hfetch hfits hg, kernelStep_hend hfetch hfits hg,
      fun cs run u hact hcs hu => kernelStep_run hfetch hfits hg hact hcs hu⟩, fun hg u hu => kernelStep_off hfetch hfits hg hu⟩

end Sys2Proof.Machine
end

section
/-! PROOF. Accesses from outside: the application cores, PCIe, the store of a capability, attestation (18 R334, R335;
22 R393-R396, R405, R406). -/

namespace Sys2Proof.Machine

/-! ### What leaves the registers of the outside as they are -/

/-- A fold keeps what each of its steps keeps. -/
theorem foldl_keeps {α β γ : Type} {f : β → α → β} (p : β → γ) (h : ∀ b a, p (f b a) = p b) (l : List α) (b : β) :
    p (l.foldl f b) = p b := by
  induction l generalizing b with
  | nil => rfl
  | cons a l ih => rw [List.foldl_cons, ih, h]

@[simp] theorem postOnce_host (s : State) (d : Nat) (e : Instr) : (s.postOnce d e).host = s.host := by
  unfold State.postOnce; split <;> rfl
@[simp] theorem trigger_host (s : State) (src : Nat) (id : BitVec 16) (b : Bool) : (s.trigger src id b).host = s.host := by
  unfold State.trigger; split <;> rfl
@[simp] theorem logAt_host (s : State) (ni : Fin 400) (x : VlogEntry) : (s.logAt ni x).host = s.host := by
  unfold State.logAt
  rw [trigger_host]
  split <;> rfl
@[simp] theorem notice_host (s : State) (die code : Nat) (v : Word) : (s.notice die code v).host = s.host := by
  unfold State.notice
  dsimp only
  split <;> rfl

/-! Work that ends -/

@[simp] theorem offer_host (s : State) (c : CoreId) : (s.offer c).host = s.host := postOnce_host ..
@[simp] theorem offerCluster_host (s : State) (q : ClusterId) : (s.offerCluster q).host = s.host :=
  foldl_keeps State.host (fun _ _ => offer_host ..) _ _
@[simp] theorem endMsg_host (s : State) (c : CoreId) (k : SlotId) : (s.endMsg c k).host = s.host := by
  unfold State.endMsg State.freeUnit
  split
  · exact (offer_host ..).trans (foldl_keeps State.host (fun _ _ => postOnce_host ..) _ _)
  · rfl
@[simp] theorem dropLease_host (s : State) (q : ClusterId) (i : Nat) : (s.dropLease q i).host = s.host :=
  (postOnce_host ..).trans (postOnce_host ..)

/-- The pushes that wait for a released strand's entry are looked at again. -/
theorem queuePushWaits_host (p : ClusterId → Bool) (l : List ClusterId) (s : State) :
    (l.foldl (fun s q => if p q = true then s.postOnce 1 (.queuePushWait q) else s) s).host = s.host :=
  foldl_keeps State.host (fun s q => by split <;> simp) l s

@[simp] theorem release_host (s : State) (c : CoreId) (k : SlotId) : (s.release c k).host = s.host := by
  unfold State.release State.freeTiles
  dsimp only
  rw [offer_host, updStrand_host]
  split
  · rw [dropLease_host, updCore_host, endMsg_host, queuePushWaits_host]
  · rw [updCore_host, endMsg_host, queuePushWaits_host]
@[simp] theorem dropEntry_host (s : State) (q : ClusterId) (i : Nat) : (s.dropEntry q i).host = s.host := by
  unfold State.dropEntry
  dsimp only
  split <;> simp
@[simp] theorem updEntry_host (s : State) (q : ClusterId) (i : Nat) (f : TqEntry → TqEntry) :
    (s.updEntry q i f).host = s.host := rfl
@[simp] theorem endGrid_host (s : State) (g : Grid) : (s.endGrid g).host = s.host :=
  (notice_host ..).trans (foldl_keeps State.host (fun _ _ => offer_host ..) _ _)
@[simp] theorem gridCheck_host (s : State) (g : Option Word) : (s.gridCheck g).host = s.host := by
  unfold State.gridCheck
  split
  · rfl
  · split
    · split_ifs <;> simp
    · rfl

/-! Speculative tasks that fall -/

@[simp] theorem updTask_host (s : State) (d : Fin 8) (i : Nat) (f : STask → STask) : (s.updTask d i f).host = s.host := rfl
@[simp] theorem stopTask_host (s : State) (i : Nat) (c : CoreId) : (s.stopTask i c).host = s.host := by
  unfold State.stopTask
  dsimp only
  rw [updCore_host]
  split <;> simp
@[simp] theorem abortOne_host (s : State) (d : Fin 8) (i : Nat) (w : AbortWhy) (b : Bool) :
    (s.abortOne d i w b).host = s.host := by
  unfold State.abortOne
  split
  · rfl
  next t _ =>
    dsimp only
    cases hcore : t.core <;> split_ifs <;> simp
@[simp] theorem abortIn_host (s : State) (d : Fin 8) (r g : List Nat) (w : AbortWhy) :
    (s.abortIn d r g w).2.host = s.host := by
  unfold State.abortIn State.pokeDomain
  dsimp only
  split
  · rfl
  · simp only [postOnce_host]
    rw [foldl_keeps State.host (fun _ _ => postOnce_host ..), foldl_keeps State.host (fun _ _ => abortOne_host ..)]
@[simp] theorem abortKids_host (n : Nat) (g : List Nat) (s : State) : (State.abortKids n g s).host = s.host := by
  induction n generalizing g s with
  | zero => rfl
  | succ n ih =>
    unfold State.abortKids
    split
    · rfl
    · dsimp only
      rw [ih]
      refine foldl_keeps (fun r : List Nat × State => r.2.host) (fun r d => ?_) _ _
      simp
@[simp] theorem ordinaryWrite_host (s : State) (k : LineKey) : (s.ordinaryWrite k).host = s.host := by
  unfold State.ordinaryWrite
  dsimp only
  split
  · rfl
  · exact foldl_keeps State.host (fun _ _ => (abortKids_host ..).trans (abortIn_host ..)) _ _

/-- A write from outside changes none of the registers of the outside. -/
@[simp] theorem hostWrite_host (s : State) (a : Nat) (bs : List Byte) : (s.hostWrite a bs).host = s.host := by
  have hdrop (l : List Nat) : (l.foldl State.dropLine (s.physWrite a bs)).host = s.host :=
    foldl_keeps State.host (f := State.dropLine) (fun _ _ => rfl) l _
  exact (foldl_keeps State.host (fun _ _ => ordinaryWrite_host ..) _ _).trans (hdrop _)

/-! ### Bus errors (21 R386; 22 R393) -/

section
variable (s : State) (a : Nat) (w : Bool) (cause : Nat)

@[simp] theorem busFault_host : (s.busFault a w cause).host = { s.host with busError := true } := by
  simp [State.busFault]
@[simp] theorem busBad_host : (s.busBad a).host = { s.host with busError := true } := by simp [State.busBad]

/-- The registers of the outside are no part of what memory holds. -/
theorem stored_setHost (h : HostPorts) : ({ s with host := h } : State).stored = s.stored := rfl

@[simp] theorem stored_busFault : (s.busFault a w cause).stored = s.stored := by
  unfold State.busFault
  dsimp only
  rw [stored_setHost, stored_logAt, stored_free]
@[simp] theorem stored_busBad : (s.busBad a).stored = s.stored := by
  unfold State.busBad
  dsimp only
  rw [stored_setHost, stored_logAt, stored_free]

theorem busFault_mem : (s.busFault a w cause).mem = s.mem := congrArg (·.1) (stored_busFault ..)
theorem busFault_tags : (s.busFault a w cause).tags = s.tags := congrArg (·.2.1) (stored_busFault ..)
theorem busBad_mem : (s.busBad a).mem = s.mem := congrArg (·.1) (stored_busBad ..)

/-- A bus error shows in its flag and leaves memory. -/
theorem busFault_shown : (s.busFault a w cause).mem = s.mem ∧ (s.busFault a w cause).host.busError = true :=
  ⟨busFault_mem .., by rw [busFault_host]⟩

end

/-! ### The application cores (22 R393, R394) -/

section
variable {s : State} {x : AppAccess}

/-- Outside the map an access of an application core is a bus error. -/
theorem appCore_outside (hx : x.addr < 2 ^ 49) (hdram : inDram x.addr x.size = false) (hslice : inSlice x.addr x.size = false) :
    exec (.appCoreAccess x) s = .next (s.busFault x.addr x.write) := by
  have hbase : ¬ houseBase ≤ x.addr := Nat.not_le.mpr hx
  simp [execAppCoreAccess, hbase, hostReach, hdram, hslice]

section
variable (hx : x.addr < 2 ^ 48) (hback : backed x.addr x.size = true) (hdram : inDram x.addr x.size = true)
include hx hback hdram

/-- An access of an application core to memory goes by its homes: performed where they are ready, else a bus error. -/
theorem appCore_memory : exec (.appCoreAccess x) s =
    if s.homesReady x.addr x.size = false then .next (s.busFault x.addr x.write 6)
    else if x.write = true then .next { s.hostWrite x.addr (toBytes x.size x.data.toNat) with
      host := { (s.hostWrite x.addr (toBytes x.size x.data.toNat)).host with busError := false } }
    else if poisoned s.poison x.addr x.size = true then .next (s.busBad x.addr)
    else .next { s with
      host := { s.host with answer := BitVec.ofNat 128 (memNat s.mem x.addr x.size), busError := false } } := by
  have hbase : ¬ houseBase ≤ x.addr := by unfold houseBase; omega
  simp [execAppCoreAccess, hbase, hostReach, hdram, hback]

theorem appCore_unready (hready : s.homesReady x.addr x.size = false) :
    exec (.appCoreAccess x) s = .next (s.busFault x.addr x.write 6) := by
  rw [appCore_memory hx hback hdram, if_pos hready]

variable (hready : s.homesReady x.addr x.size = true)
include hready

theorem appCore_store (hw : x.write = true) : exec (.appCoreAccess x) s = .next { s.hostWrite x.addr (toBytes x.size x.data.toNat) with
    host := { (s.hostWrite x.addr (toBytes x.size x.data.toNat)).host with busError := false } } := by
  rw [appCore_memory hx hback hdram, if_neg (by simp [hready]), if_pos hw]

theorem appCore_load (hw : x.write = false) (hclean : poisoned s.poison x.addr x.size = false) :
    exec (.appCoreAccess x) s = .next { s with
      host := { s.host with answer := BitVec.ofNat 128 (memNat s.mem x.addr x.size), busError := false } } := by
  rw [appCore_memory hx hback hdram, if_neg (by simp [hready]), if_neg (by simp [hw]), if_neg (by simp [hclean])]

end
end

/-! ### PCIe (18 R335; 22 R395, R405) -/

section
variable {s s1 : State} {a : Nat} {bs : List Byte} {relaxed : Bool}

/-- A write while the PCIe function is not ready goes nowhere. -/
theorem pcieInboundWrite_off (h : s.house.ready.getLsbD 63 = false) : exec (.pcieInboundWrite a bs relaxed) s = .next s := by
  rw [exec_pcieInboundWrite, execPcieInboundWrite, h]
  rfl

theorem pcieInboundWrite_memory (h : s.house.ready.getLsbD 63 = true) (ha : a < 2 ^ 48) (hshown : s.shown a bs.length = true)
    (hback : backed a bs.length = true) :
    exec (.pcieInboundWrite a bs relaxed) s = .next (s.inboundParts (partsOf (BitVec.ofNat 64 a) bs.length) bs) := by
  have hbase : ¬ houseBase ≤ a := by unfold houseBase; omega
  simp only [exec_pcieInboundWrite, execPcieInboundWrite, h, hbase, hshown, hback]
  rfl

theorem inboundParts_ready {v : Dbl} {n : Nat} {ps : List (Dbl × Nat)} (h : s.homeReady v.toNat = true) :
    s.inboundParts ((v, n) :: ps) bs = (s.hostWrite v.toNat (bs.take n)).inboundParts ps (bs.drop n) := by
  rw [State.inboundParts, if_pos h]

theorem inboundParts_unready {v : Dbl} {n : Nat} {ps : List (Dbl × Nat)} (h : s.homeReady v.toNat = false) :
    s.inboundParts ((v, n) :: ps) bs = (s.busFault v.toNat true 6).inboundParts ps (bs.drop n) := by
  rw [State.inboundParts, if_neg (by simp [h])]

theorem bar0Parts_nil (n off : Nat) : s.bar0Parts n off [] = s := by cases n <;> rfl

/-- A write within one slot of the housekeeping space is one part. -/
theorem bar0Parts_within_slot {off : Nat} (hne : bs ≠ []) (hslot : off % 16 + bs.length ≤ 16)
    (hw : s.houseWrite off bs.length (BitVec.ofNat 128 (ofBytes bs)) = some s1) : s.bar0Parts bs.length off bs = s1 := by
  have hpart : min bs.length (16 - off % 16) = bs.length := by omega
  obtain ⟨n, hn⟩ := Nat.exists_eq_add_one.mpr (List.length_pos_iff.mpr hne)
  calc s.bar0Parts bs.length off bs = s.bar0Parts (n + 1) off bs := by rw [hn]
    _ = s1.bar0Parts n (off + bs.length) [] := by simp [State.bar0Parts, hne, hpart, hw]
    _ = s1 := bar0Parts_nil ..

theorem pcieInboundWrite_bar0 (h : s.house.ready.getLsbD 63 = true) (ha : 2 ^ 49 ≤ a) (hne : bs ≠ [])
    (hslot : a % 16 + bs.length ≤ 16) (hw : s.houseWrite (a - 2 ^ 49) bs.length (BitVec.ofNat 128 (ofBytes bs)) = some s1) :
    exec (.pcieInboundWrite a bs relaxed) s = .next s1 := by
  have hbase : houseBase ≤ a := ha
  have hoff : (a - 2 ^ 49) % 16 = a % 16 := by omega
  have hparts : s.bar0Parts bs.length (a - houseBase) bs = s1 := bar0Parts_within_slot hne (by rwa [houseBase, hoff]) hw
  simp only [exec_pcieInboundWrite, execPcieInboundWrite, h, hbase, hparts]
  rfl

end

/-! ### Capabilities stored from outside (22 R396) -/

/-- Whether CDATA may not be stored at an address of CADDR: a tagged value with reserved bits, an exponent that no
capability has, an address outside memory. -/
def State.capRefused (s : State) (addr : Dbl) : Bool :=
  (addr.getLsbD 0 && qf s.host.cdata 114 14 != 0) || (decide (48 ≤ qf s.host.cdata 98 6) && decide (qf s.host.cdata 98 6 ≤ 62)) ||
    !(backed (16 * df addr 4 52) 16 || inSlice (16 * df addr 4 52) 16)

section
variable {s : State} {addr : Dbl}

/-- A store of a capability in the order that the model checks it: the value and the address, then the home. -/
theorem storeCap_eq (s : State) (addr : Dbl) : s.storeCap addr =
    let a := 16 * df addr 4 52
    if s.capRefused addr then { s with host := { s.host with caddr := addr, cstat := 3 } }
    else if !s.homesReady a 16 then
      { s.busFault a true 6 with host := { (s.busFault a true 6).host with caddr := addr, cstat := 3 } }
    else
      let s1 := s.hostWrite a (toBytes 16 s.host.cdata.toNat)
      { s1 with tags := tagSet s1.tags a (addr.getLsbD 0), host := { s1.host with caddr := addr, cstat := 1 } } := rfl

theorem capabilityStore_refused (h : s.capRefused addr = true) :
    exec (.capabilityStore addr) s = .next { s with host := { s.host with caddr := addr, cstat := 3 } } := by
  simp [execCapabilityStore, storeCap_eq, h]

theorem capabilityStore_unready (h : s.capRefused addr = false) (hready : s.homesReady (16 * df addr 4 52) 16 = false) :
    ∃ t, exec (.capabilityStore addr) s = .next t ∧ t.mem = s.mem ∧ t.tags = s.tags ∧ t.host.cstat = 3 := by
  refine ⟨s.storeCap addr, rfl, ?_⟩
  simp [storeCap_eq, h, hready, busFault_mem, busFault_tags]

theorem capabilityStore_ready (h : s.capRefused addr = false) (hready : s.homesReady (16 * df addr 4 52) 16 = true) :
    ∃ t, exec (.capabilityStore addr) s = .next t ∧
      t.mem = (s.hostWrite (16 * df addr 4 52) (toBytes 16 s.host.cdata.toNat)).mem ∧
      t.tags = tagSet (s.hostWrite (16 * df addr 4 52) (toBytes 16 s.host.cdata.toNat)).tags (16 * df addr 4 52) (addr.getLsbD 0) ∧
      t.host.cstat = 1 := by
  refine ⟨s.storeCap addr, rfl, ?_⟩
  simp [storeCap_eq, h, hready]

end

/-! ### Attestation (22 R406) -/

/-- The request ends with a code; one that waits on the bus is taken next. -/
def State.attestEnd (s : State) (code : Nat) : State :=
  match s.host.waiting with
  | [] => { s with host := { s.host with attest := BitVec.ofNat 64 (2 ^ 4 * code) } }
  | w :: ws => ({ s with host := { s.host with attest := 1, waiting := ws } } : State).post 1000 (.attestationRequest w)

/-- Whether a request's record lies in memory. -/
def attestInside (addr : Dbl) : Bool := backed addr.toNat 4096 || inSlice addr.toNat 4096

/-- What a request's record asks for: 0 the images, 1 a grid. -/
def State.attestKind (s : State) (addr : Dbl) : Nat := ofBytes (((memRead s.mem addr.toNat 72).drop 64).take 4)

/-- The grid that a request's record names. -/
def State.attestGrid (s : State) (addr : Dbl) : Option Grid :=
  s.grid (BitVec.ofNat 32 (ofBytes (((memRead s.mem addr.toNat 72).drop 68).take 4)))

/-- The digests that a request asks for: those of the images, or of a grid; an image not read has a free value. -/
def State.attestDigests (s : State) (addr : Dbl) (g : Option Grid) : List Byte :=
  if s.attestKind addr = 0 then s.house.images.toList.flatMap (fun o => o.getD (freeBytes (Config.freeValue s.freshN) 64))
  else (g.map (fun (g : Grid) => g.digests)).getD []

/-- The signed part of a report on digests `d`. -/
def State.attestBody (s : State) (addr : Dbl) (d : List Byte) : List Byte :=
  (memRead s.mem addr.toNat 72).take 64 ++ (Config.shake256 Config.deviceKey ++ freeBytes (Config.freeValue s.freshN) 64).take 64 ++
    (d ++ (freeBytes (Config.freeValue s.freshN) 128 ++ freeBytes (Config.freeValue (s.freshN + 1)) 128 ++
      freeBytes (Config.freeValue (s.freshN + 2)) 128)).take 384

/-- A report on digests `d` written after its request, with its signature. -/
def State.attestReport (s : State) (addr : Dbl) (d : List Byte) : State :=
  ({ s with freshN := s.freshN + 1 + 1 + 1 } : State).hostWrite (addr.toNat + 128) (s.attestBody addr d ++
    (Config.mldsaSign (s.attestBody addr d) ++ freeBytes (Config.freeValue (s.freshN + 1)) 3309).take 3309)

section
variable {s : State} {addr : Dbl}

theorem attestEnd_alone (h : s.host.waiting = []) (code : Nat) :
    s.attestEnd code = { s with host := { s.host with attest := BitVec.ofNat 64 (2 ^ 4 * code) } } := by
  rw [State.attestEnd, h]

theorem attestEnd_next {v : Dbl} {vs : List Dbl} (h : s.host.waiting = v :: vs) (code : Nat) :
    s.attestEnd code = State.post { s with host := { s.host with attest := 1, waiting := vs } } 1000 (.attestationRequest v) := by
  rw [State.attestEnd, h]

/-- A request in the order that the model checks it: its record in memory, its homes ready, its words readable, its kind
and its grid known. -/
theorem attest_eq (s : State) (addr : Dbl) : s.attest addr =
    let g := (s.attestGrid addr).filter (fun (g : Grid) => !g.ended)
    if !attestInside addr then s.attestEnd 1
    else if !s.homesReady addr.toNat 4096 then (s.busFault addr.toNat false 6).attestEnd 1
    else if poisoned s.poison addr.toNat 72 then (s.busBad addr.toNat).attestEnd 1
    else if 1 < s.attestKind addr then s.attestEnd 1
    else if s.attestKind addr = 1 ∧ g.isNone then s.attestEnd 2
    else (s.attestReport addr (s.attestDigests addr g)).attestEnd 0 := rfl

/-- A report leaves nothing of its request but the status 0. -/
theorem attestReport_end (hwait : s.host.waiting = []) (d : List Byte) : (s.attestReport addr d).attestEnd 0 =
    { s.attestReport addr d with host := { (s.attestReport addr d).host with attest := 0 } } :=
  attestEnd_alone (by rw [State.attestReport, hostWrite_host, hwait]) 0

theorem attest_outside (hout : attestInside addr = false) : exec (.attestationRequest addr) s = .next (s.attestEnd 1) := by
  simp [execAttestationRequest, attest_eq, hout]

section
variable (hin : attestInside addr = true)
include hin

/-- A record whose home is not ready, or with an uncorrectable word, fails, and is a bus error. -/
theorem attest_unread (hfar : ¬ (s.homesReady addr.toNat 4096 = true ∧ poisoned s.poison addr.toNat 72 = false))
    (hwait : s.host.waiting = []) :
    ∃ t, exec (.attestationRequest addr) s = .next t ∧ t.host.attest = 2 ^ 4 ∧ t.mem = s.mem := by
  cases hready : s.homesReady addr.toNat 4096 with
  | false =>
    refine ⟨(s.busFault addr.toNat false 6).attestEnd 1, by simp [execAttestationRequest, attest_eq, hin, hready], ?_⟩
    rw [attestEnd_alone (by rw [busFault_host, hwait])]
    exact ⟨rfl, busFault_mem ..⟩
  | true =>
    have hbad : poisoned s.poison addr.toNat 72 = true := by simpa [hready] using hfar
    refine ⟨(s.busBad addr.toNat).attestEnd 1, by simp [execAttestationRequest, attest_eq, hin, hready, hbad], ?_⟩
    rw [attestEnd_alone (by rw [busBad_host, hwait])]
    exact ⟨rfl, busBad_mem ..⟩

variable (hnear : s.homesReady addr.toNat 4096 = true ∧ poisoned s.poison addr.toNat 72 = false)
include hnear

theorem attest_unknown (hkind : 1 < s.attestKind addr) : exec (.attestationRequest addr) s = .next (s.attestEnd 1) := by
  simp [execAttestationRequest, attest_eq, hin, hnear, hkind]

theorem attest_noGrid (hkind : s.attestKind addr = 1) (hgrid : (s.attestGrid addr).all (fun (g : Grid) => g.ended) = true) :
    exec (.attestationRequest addr) s = .next (s.attestEnd 2) := by
  have hnone : (s.attestGrid addr).filter (fun (g : Grid) => !g.ended) = none := by
    simpa [Option.filter_eq_none_iff, Option.all_eq_true] using hgrid
  simp [execAttestationRequest, attest_eq, hin, hnear, hkind, hnone]

theorem attest_images (hkind : s.attestKind addr = 0) : exec (.attestationRequest addr) s =
    .next ((s.attestReport addr (s.house.images.toList.flatMap (fun o => o.getD (freeBytes (Config.freeValue s.freshN) 64)))).attestEnd 0) := by
  simp [execAttestationRequest, attest_eq, State.attestDigests, hin, hnear, hkind]

theorem attest_ofGrid {g : Grid} (hkind : s.attestKind addr = 1) (hgrid : s.attestGrid addr = some g) (hends : g.ended = false) :
    exec (.attestationRequest addr) s = .next ((s.attestReport addr g.digests).attestEnd 0) := by
  have hstands : (s.attestGrid addr).filter (fun (g : Grid) => !g.ended) = some g := by simp [hgrid, Option.filter, hends]
  simp [execAttestationRequest, attest_eq, State.attestDigests, hin, hnear, hkind, hstands]

end
end

/-! ### The statement -/

/-- Settles O48: each access by the case of its address and its home; the report of an attestation ends as its request does,
because a write from outside leaves the requests that wait. -/
theorem accessesFromOutside : Obligations.AccessesFromOutside := by
  unfold Obligations.AccessesFromOutside
  intro s x addr a bs relaxed
  refine ⟨?stored, ?unready, ?outside, pcieInboundWrite_off, pcieInboundWrite_memory, ?parts, fun s1 => pcieInboundWrite_bar0,
    ?capability, ?attestation⟩
  case stored =>
    intro hx hback hdram hready
    exact ⟨fun hw => ⟨_, appCore_store hx hback hdram hready hw, rfl⟩, appCore_load hx hback hdram hready⟩
  case unready =>
    intro hx hback hdram hready
    exact ⟨_, appCore_unready hx hback hdram hready, (busFault_shown ..).symm⟩
  case outside =>
    intro hx hdram hslice
    exact ⟨_, appCore_outside hx hdram hslice, (busFault_shown ..).symm⟩
  case parts =>
    exact fun v n ps => ⟨inboundParts_ready, fun h => ⟨_, inboundParts_unready h, busFault_shown ..⟩⟩
  case capability =>
    exact ⟨capabilityStore_refused, capabilityStore_unready, capabilityStore_ready⟩
  case attestation =>
    intro fails inside kind grid near
    have hfails {code : Nat} (h : exec (.attestationRequest addr) s = .next (s.attestEnd code)) : fails code := fun hwait => by
      rw [h, attestEnd_alone hwait]
    refine ⟨fun hout => hfails (attest_outside hout), fun hin hnear hkind => hfails (attest_unknown hin hnear hkind),
      fun hin hnear hkind hgrid => hfails (attest_noGrid hin hnear hkind hgrid), attest_unread, ?report, ?queued⟩
    case report =>
      intro hin hnear hwait
      refine ⟨fun hkind => ?_, fun g hkind hgrid hends => ?_⟩
      · rw [attest_images hin hnear hkind, attestReport_end hwait]
        rfl
      · rw [attest_ofGrid hin hnear hkind hgrid hends, attestReport_end hwait]
        rfl
    case queued =>
      intro v vs hwait hout
      rw [attest_outside hout, attestEnd_next hwait]

end Sys2Proof.Machine
end

section
/-! PROOF. Every step is taken: whatever an instruction or an event finds, it leaves a next state; no arm of the dispatch faults
or is refused (03 R65-R99; 21 R381-R387; log entry 6). -/

namespace Sys2Proof.Machine

/-- A result that goes on to a next state: no fault, no refusal. -/
def Out.GoesOn (o : Out) : Prop := ∃ t, o = .next t

theorem goesOn_next (t : State) : Out.GoesOn (.next t) := ⟨t, rfl⟩

/-! ### Instructions -/

/-- An instruction's every end has its state: guarded off, retired, a jump, the end of its work, a trap, an upcall, a stall, a
wait. -/
theorem issueN_goesOn (g len s f) : Out.GoesOn (issueN g len s f) := by
  fun_cases issueN g len s f <;> exact goesOn_next _

theorem issue_goesOn (g len s f) : Out.GoesOn (issue g len s f) := issueN_goesOn ..

theorem vector2_goesOn (w g d a b m f s) : Out.GoesOn (vector2 w g d a b m f s) := issue_goesOn ..
theorem scalar2_goesOn (g d a b f s) : Out.GoesOn (scalar2 g d a b f s) := issue_goesOn ..
theorem quad2_goesOn (g d a b f s) : Out.GoesOn (quad2 g d a b f s) := issue_goesOn ..
theorem scalar1_goesOn (len g d a f s) : Out.GoesOn (scalar1 len g d a f s) := issue_goesOn ..
theorem quad1_goesOn (len g d a f s) : Out.GoesOn (quad1 len g d a f s) := issue_goesOn ..
theorem compareImm_goesOn (len g c h a y s) : Out.GoesOn (compareImm len g c h a y s) := issue_goesOn ..
theorem compare2_goesOn (g c h a b k s) : Out.GoesOn (compare2 g c h a b k s) := issue_goesOn ..
theorem guards_goesOn (g h f s) : Out.GoesOn (guards g h f s) := issue_goesOn ..
theorem float2_goesOn (g d a b f s) : Out.GoesOn (float2 g d a b f s) := issue_goesOn ..
theorem convert_goesOn (g d a f s) : Out.GoesOn (convert g d a f s) := issue_goesOn ..
theorem floatFma_goesOn (neg g d a b s) : Out.GoesOn (floatFma neg g d a b s) := issue_goesOn ..
theorem capBinary_goesOn (g d a b f s) : Out.GoesOn (capBinary g d a b f s) := issue_goesOn ..
theorem capUnary_goesOn (len g d a f s) : Out.GoesOn (capUnary len g d a f s) := issue_goesOn ..
theorem branch_goesOn (g h sense o s) : Out.GoesOn (branch g h sense o s) := issueN_goesOn ..
theorem repeatBody_goesOn (g len l s count) : Out.GoesOn (repeatBody g len l s count) := issueN_goesOn ..
theorem scalarLoad_goesOn (g len d b l off n kind s) : Out.GoesOn (scalarLoad g len d b l off n kind s) := issue_goesOn ..
theorem scalarStore_goesOn (g len src b off n s) : Out.GoesOn (scalarStore g len src b off n s) := issue_goesOn ..
theorem capStore_goesOn (g len src b off s) : Out.GoesOn (capStore g len src b off s) := issue_goesOn ..
theorem queueLoad_goesOn (g len n b off s) : Out.GoesOn (queueLoad g len n b off s) := issue_goesOn ..
theorem queueStore_goesOn (g len n b off s) : Out.GoesOn (queueStore g len n b off s) := issue_goesOn ..
theorem vectorLoad_goesOn (g len d b l off s) : Out.GoesOn (vectorLoad g len d b l off s) := issue_goesOn ..
theorem vectorStore_goesOn (g len r b m off s) : Out.GoesOn (vectorStore g len r b m off s) := issue_goesOn ..
theorem atomic_goesOn (fn g d a b s) : Out.GoesOn (atomic fn g d a b s) := issue_goesOn ..
theorem touchPage_goesOn (g a p m s) : Out.GoesOn (touchPage g a p m s) := issue_goesOn ..
theorem moveData_goesOn (g k a b fromB s) : Out.GoesOn (moveData g k a b fromB s) := issue_goesOn ..
theorem vectorInt_goesOn (g w d a b m f s) : Out.GoesOn (vectorInt g w d a b m f s) := vector2_goesOn ..
theorem vectorFloat_goesOn (f g d a b m op s) : Out.GoesOn (vectorFloat f g d a b m op s) := vector2_goesOn ..
theorem vectorFma_goesOn (f g d a b m s) : Out.GoesOn (vectorFma f g d a b m s) := issue_goesOn ..
theorem draw_goesOn (g d c m f s) : Out.GoesOn (draw g d c m f s) := issue_goesOn ..
theorem longUnary_goesOn (f g d a m l op s) : Out.GoesOn (longUnary f g d a m l op s) := issue_goesOn ..
theorem longDiv_goesOn (f g d a m l b s) : Out.GoesOn (longDiv f g d a m l b s) := issue_goesOn ..
theorem onTile_goesOn (g t s f) : Out.GoesOn (onTile g t s f) := issue_goesOn ..
theorem blockOp_goesOn (g k a b okMode useAlpha work s) : Out.GoesOn (blockOp g k a b okMode useAlpha work s) := issue_goesOn ..
theorem fillInstr_goesOn (slot g k a b s) : Out.GoesOn (fillInstr slot g k a b s) := issue_goesOn ..
theorem matrixCmd_goesOn (fn chain g x a h w c s) : Out.GoesOn (matrixCmd fn chain g x a h w c s) := issue_goesOn ..
theorem sendMsg_goesOn (inline g a b s) : Out.GoesOn (sendMsg inline g a b s) := issue_goesOn ..

/-! ### Events, by the cases of what they find -/

theorem atHome_goesOn (c id again s perform) : Out.GoesOn (atHome c id again s perform) := by
  fun_cases atHome c id again s perform <;> exact goesOn_next _
theorem execMemoryUpcall_goesOn (c k s) : Out.GoesOn (execMemoryUpcall c k s) := by
  fun_cases execMemoryUpcall c k s <;> exact goesOn_next _
theorem execLoadResponse_goesOn (c k id s) : Out.GoesOn (execLoadResponse c k id s) := by
  fun_cases execLoadResponse c k id s <;> exact goesOn_next _
theorem execStoreAtHome_goesOn (c id s) : Out.GoesOn (execStoreAtHome c id s) := atHome_goesOn ..
theorem execPostedErrorResponse_goesOn (c id s) : Out.GoesOn (execPostedErrorResponse c id s) := by
  fun_cases execPostedErrorResponse c id s <;> exact goesOn_next _
theorem execAmoAtHome_goesOn (c id s) : Out.GoesOn (execAmoAtHome c id s) := atHome_goesOn ..
theorem execXaddAtHome_goesOn (c id s) : Out.GoesOn (execXaddAtHome c id s) := atHome_goesOn ..
theorem execJoinDecrement_goesOn (c asid entry jo s) : Out.GoesOn (execJoinDecrement c asid entry jo s) := by
  fun_cases execJoinDecrement c asid entry jo s <;> exact goesOn_next _
theorem execTaskCommit_goesOn (d s) : Out.GoesOn (execTaskCommit d s) := by
  fun_cases execTaskCommit d s <;> exact goesOn_next _
theorem execTaskIrrevocable_goesOn (d s) : Out.GoesOn (execTaskIrrevocable d s) := by
  fun_cases execTaskIrrevocable d s <;> exact goesOn_next _
theorem execVersionRecordFreed_goesOn (h s) : Out.GoesOn (execVersionRecordFreed h s) := by
  fun_cases execVersionRecordFreed h s <;> exact goesOn_next _
theorem execMessageArrival_goesOn (c m s) : Out.GoesOn (execMessageArrival c m s) := by
  fun_cases execMessageArrival c m s <;> exact goesOn_next _
theorem execRefusalCallback_goesOn (c ch s) : Out.GoesOn (execRefusalCallback c ch s) := by
  fun_cases execRefusalCallback c ch s <;> exact goesOn_next _
theorem execMessageResend_goesOn (c m s) : Out.GoesOn (execMessageResend c m s) := by
  fun_cases execMessageResend c m s <;> exact goesOn_next _
theorem execHandlerChoice_goesOn (c s) : Out.GoesOn (execHandlerChoice c s) := by
  fun_cases execHandlerChoice c s <;> exact goesOn_next _
theorem execContinuationTake_goesOn (c s) : Out.GoesOn (execContinuationTake c s) := by
  fun_cases execContinuationTake c s <;> exact goesOn_next _
theorem execStealRound_goesOn (c s) : Out.GoesOn (execStealRound c s) := by
  fun_cases execStealRound c s <;> exact goesOn_next _
theorem execStealRetryTimeout_goesOn (c s) : Out.GoesOn (execStealRetryTimeout c s) := by
  fun_cases execStealRetryTimeout c s <;> exact goesOn_next _
theorem execQueuePushWait_goesOn (q s) : Out.GoesOn (execQueuePushWait q s) := by
  fun_cases execQueuePushWait q s <;> exact goesOn_next _
theorem execWatermarkPublish_goesOn (c w s) : Out.GoesOn (execWatermarkPublish c w s) := by
  fun_cases execWatermarkPublish c w s <;> exact goesOn_next _
theorem execWatermarkAtWindowUnit_goesOn (src w s) : Out.GoesOn (execWatermarkAtWindowUnit src w s) := by
  fun_cases execWatermarkAtWindowUnit src w s <;> exact goesOn_next _
theorem execWindowTargetPass_goesOn (k s) : Out.GoesOn (execWindowTargetPass k s) := by
  fun_cases execWindowTargetPass k s <;> exact goesOn_next _
theorem execClosePacketsSend_goesOn (k s) : Out.GoesOn (execClosePacketsSend k s) := by
  fun_cases execClosePacketsSend k s <;> exact goesOn_next _
theorem execClosePacketDelivery_goesOn (c p s) : Out.GoesOn (execClosePacketDelivery c p s) := by
  fun_cases execClosePacketDelivery c p s <;> exact goesOn_next _
theorem execSheetTimeout_goesOn (q b s) : Out.GoesOn (execSheetTimeout q b s) := by
  fun_cases execSheetTimeout q b s <;> exact goesOn_next _
theorem execSheetDone_goesOn (q b s) : Out.GoesOn (execSheetDone q b s) := by
  fun_cases execSheetDone q b s <;> exact goesOn_next _
theorem execLeaseGrant_goesOn (q s) : Out.GoesOn (execLeaseGrant q s) := by
  fun_cases execLeaseGrant q s <;> exact goesOn_next _
theorem execArrayTurn_goesOn (q s) : Out.GoesOn (execArrayTurn q s) := by
  fun_cases execArrayTurn q s <;> exact goesOn_next _
theorem execArrayTurnEnd_goesOn (q s) : Out.GoesOn (execArrayTurnEnd q s) := by
  fun_cases execArrayTurnEnd q s <;> exact goesOn_next _
theorem execArrayCommandComplete_goesOn (q s) : Out.GoesOn (execArrayCommandComplete q s) := by
  fun_cases execArrayCommandComplete q s <;> exact goesOn_next _
theorem execArrayFillComplete_goesOn (q id s) : Out.GoesOn (execArrayFillComplete q id s) := by
  fun_cases execArrayFillComplete q id s <;> exact goesOn_next _
theorem execArraySpill_goesOn (q id s) : Out.GoesOn (execArraySpill q id s) := by
  fun_cases execArraySpill q id s <;> exact goesOn_next _
theorem execArrayRestore_goesOn (q id s) : Out.GoesOn (execArrayRestore q id s) := by
  fun_cases execArrayRestore q id s <;> exact goesOn_next _
theorem execReadoutDrain_goesOn (q id s) : Out.GoesOn (execReadoutDrain q id s) := by
  fun_cases execReadoutDrain q id s <;> exact goesOn_next _
theorem execStreamerPiece_goesOn (id n s) : Out.GoesOn (execStreamerPiece id n s) := by
  fun_cases execStreamerPiece id n s <;> exact goesOn_next _
theorem execGranuleWrite_goesOn (id n s) : Out.GoesOn (execGranuleWrite id n s) := by
  fun_cases execGranuleWrite id n s <;> exact goesOn_next _
theorem execEngineAck_goesOn (id n s) : Out.GoesOn (execEngineAck id n s) := by
  fun_cases execEngineAck id n s <;> exact goesOn_next _
theorem execEngineHandBack_goesOn (id s) : Out.GoesOn (execEngineHandBack id s) := by
  fun_cases execEngineHandBack id s <;> exact goesOn_next _
theorem execQuireUpdateAtHome_goesOn (id s) : Out.GoesOn (execQuireUpdateAtHome id s) := by
  fun_cases execQuireUpdateAtHome id s <;> exact goesOn_next _
theorem execWalkArrival_goesOn (id s) : Out.GoesOn (execWalkArrival id s) := by
  fun_cases execWalkArrival id s <;> exact goesOn_next _
theorem execWalkRule_goesOn (id s) : Out.GoesOn (execWalkRule id s) := by
  fun_cases execWalkRule id s <;> exact goesOn_next _
theorem execWalkEnd_goesOn (id s) : Out.GoesOn (execWalkEnd id s) := by
  fun_cases execWalkEnd id s <;> exact goesOn_next _
theorem execPrefetchTrigger_goesOn (c va asid s) : Out.GoesOn (execPrefetchTrigger c va asid s) := by
  fun_cases execPrefetchTrigger c va asid s <;> exact goesOn_next _
theorem execPrefetchKernel_goesOn (c s) : Out.GoesOn (execPrefetchKernel c s) := by
  fun_cases execPrefetchKernel c s <;> exact goesOn_next _
theorem execTranslationWalk_goesOn (ni asid va s) : Out.GoesOn (execTranslationWalk ni asid va s) := by
  fun_cases execTranslationWalk ni asid va s <;> exact goesOn_next _
theorem execTlbiAck_goesOn (id ni s) : Out.GoesOn (execTlbiAck id ni s) := by
  fun_cases execTlbiAck id ni s <;> exact goesOn_next _
theorem execBridgeResend_goesOn (p s) : Out.GoesOn (execBridgeResend p s) := by
  fun_cases execBridgeResend p s <;> exact goesOn_next _
theorem execPreemptionSave_goesOn (c s) : Out.GoesOn (execPreemptionSave c s) := by
  fun_cases execPreemptionSave c s <;> exact goesOn_next _
theorem execStrandRestore_goesOn (c k s) : Out.GoesOn (execStrandRestore c k s) := by
  fun_cases execStrandRestore c k s <;> exact goesOn_next _
theorem execLaunchValidation_goesOn (d s) : Out.GoesOn (execLaunchValidation d s) := by
  fun_cases execLaunchValidation d s <;> exact goesOn_next _
theorem execLaunchHeadTake_goesOn (d s) : Out.GoesOn (execLaunchHeadTake d s) := by
  fun_cases execLaunchHeadTake d s <;> exact goesOn_next _
theorem execTeamSliceExpiry_goesOn (grid u s) : Out.GoesOn (execTeamSliceExpiry grid u s) := by
  fun_cases execTeamSliceExpiry grid u s <;> exact goesOn_next _
theorem execPartitionPeriodStart_goesOn (p s) : Out.GoesOn (execPartitionPeriodStart p s) := by
  fun_cases execPartitionPeriodStart p s <;> exact goesOn_next _
theorem execPartitionBudgetStart_goesOn (p s) : Out.GoesOn (execPartitionBudgetStart p s) := by
  fun_cases execPartitionBudgetStart p s <;> exact goesOn_next _
theorem execPartitionBudgetEnd_goesOn (p s) : Out.GoesOn (execPartitionBudgetEnd p s) := by
  fun_cases execPartitionBudgetEnd p s <;> exact goesOn_next _
theorem execReset_goesOn (img s) : Out.GoesOn (execReset img s) := by
  fun_cases execReset img s <;> exact goesOn_next _
theorem execFunctionReady_goesOn (b s) : Out.GoesOn (execFunctionReady b s) := by
  fun_cases execFunctionReady b s <;> exact goesOn_next _
theorem execThrottleTick_goesOn (power s) : Out.GoesOn (execThrottleTick power s) := by
  fun_cases execThrottleTick power s <;> exact goesOn_next _
theorem execCsi2Packet_goesOn (p dtype crcOk words s) : Out.GoesOn (execCsi2Packet p dtype crcOk words s) := by
  fun_cases execCsi2Packet p dtype crcOk words s <;> exact goesOn_next _
theorem execPortWatermarkPeriod_goesOn (p s) : Out.GoesOn (execPortWatermarkPeriod p s) := by
  fun_cases execPortWatermarkPeriod p s <;> exact goesOn_next _
theorem execGpioEdge_goesOn (i level edge held s) : Out.GoesOn (execGpioEdge i level edge held s) := by
  fun_cases execGpioEdge i level edge held s <;> exact goesOn_next _
theorem execGpioTimerPeriod_goesOn (i s) : Out.GoesOn (execGpioTimerPeriod i s) := by
  fun_cases execGpioTimerPeriod i s <;> exact goesOn_next _
theorem execGpioWatermarkPeriod_goesOn (i s) : Out.GoesOn (execGpioWatermarkPeriod i s) := by
  fun_cases execGpioWatermarkPeriod i s <;> exact goesOn_next _
theorem execCanFrameEvent_goesOn (c f s) : Out.GoesOn (execCanFrameEvent c f s) := by
  fun_cases execCanFrameEvent c f s <;> exact goesOn_next _
theorem execCanWatermarkPeriod_goesOn (c s) : Out.GoesOn (execCanWatermarkPeriod c s) := by
  fun_cases execCanWatermarkPeriod c s <;> exact goesOn_next _
theorem execQuiesceComplete_goesOn (c s) : Out.GoesOn (execQuiesceComplete c s) := by
  fun_cases execQuiesceComplete c s <;> exact goesOn_next _
theorem execAppCoreAccess_goesOn (x s) : Out.GoesOn (execAppCoreAccess x s) := by
  fun_cases execAppCoreAccess x s <;> exact goesOn_next _
theorem execPcieInboundWrite_goesOn (addr bytes _relaxed s) : Out.GoesOn (execPcieInboundWrite addr bytes _relaxed s) := by
  fun_cases execPcieInboundWrite addr bytes _relaxed s <;> exact goesOn_next _
theorem execRegisterWrite_goesOn (c n x s) : Out.GoesOn (execRegisterWrite c n x s) := by
  fun_cases execRegisterWrite c n x s <;> exact goesOn_next _
theorem execIllegalInstruction_goesOn (c k s) : Out.GoesOn (execIllegalInstruction c k s) := by
  fun_cases execIllegalInstruction c k s <;> exact goesOn_next _
theorem execInstructionFetchFailure_goesOn (c k s) : Out.GoesOn (execInstructionFetchFailure c k s) := by
  fun_cases execInstructionFetchFailure c k s <;> exact goesOn_next _

/-! ### A step -/

/-- Every arm of the dispatch: instructions by what issues them, events by their own lemmas. -/
theorem exec_goesOn (i : Instr) (s : State) : Out.GoesOn (exec i s) := by
  delta exec
  cases i
  case add | sub | sll | srl | sra | rot | min | max | mul | mulh | mulhU | div | divU | rem | remU =>
      exact scalar2_goesOn ..
  case and | or | xor | andn => exact quad2_goesOn ..
  case clz | popc | sextB | sextH | sextW | zextB | zextH | zextW | addImm | addImmLiteral | sllImm | srlImm | sraImm
      | rotImm => exact scalar1_goesOn ..
  case mov | li | liLiteral | sel | fcmp | cbnd | cbndImm | cbndImmLiteral | nop | trap | ldm | stm | vlds | vldx |
      vsts | vstx | fenceAcq | fenceRel | fenceAr | afence | pfx | bar | vcmp | vsel | vperm | vmerge | vcomp | vexpd
      | vbcast | nrns | spkout | vbsum | bsadd | movVc | movCv | movMc | movCm | vred | vscan | vcvt | tclaim | tfree
      | pld | plhdr | mlease | mfree | mgeo | mgeor | mstat | mzero | mrd | wmark | waitch | hmask | hset | chcap |
      wincfg | winclose | dkcfg | dkflush | dkstat | xcopy | xresume | xgeo | ttest | twait | spawn | launch | tspawn
      | tabort | tfront | twaitc | xacq | xadd | xrd | xrel | pwalk | pfcfg | pfstop | sysrd | tlbi | snap | freeze =>
      exact issue_goesOn ..
  case andImm | andImmLiteral | orImm | orImmLiteral | xorImm | xorImmLiteral => exact quad1_goesOn ..
  case cmpi | cmpiLiteral => exact compareImm_goesOn ..
  case cmp | cmpAnd | cmpOr => exact compare2_goesOn ..
  case gnot | gand | gor => exact guards_goesOn ..
  case fadd | fsub | fmul | fdiv | fmin | fmax => exact float2_goesOn ..
  case fsqrt | fcvtF32I64 | fcvtF32U64 | fcvtI64F32 | fcvtU64F32 | fcvtBf16F32 | fcvtF16F32 | fcvtF32Bf16 | fcvtF32F16
      => exact convert_goesOn ..
  case ffma | ffmaN => exact floatFma_goesOn ..
  case cinc | caddr | cperm => exact capBinary_goesOn ..
  case ctagc | cgetBase | cgetTop | cgetLen | cgetPerm | cgetTag | cincImm | cincImmLiteral =>
      exact capUnary_goesOn ..
  case j | call | jr | ret | suspend | hend | done | doneJ | yield | tdone | syswr | uret | tret | resumef =>
      exact issueN_goesOn ..
  case bgF | bgT => exact branch_goesOn ..
  case rep | repLiteral | repReg => exact repeatBody_goesOn ..
  case ldB | ldBLiteral | ldH | ldHLiteral | ldW | ldWLiteral | ldD | ldDLiteral | ldQ | ldQLiteral | ldc | ldcLiteral
      => exact scalarLoad_goesOn ..
  case stB | stBLiteral | stH | stHLiteral | stW | stWLiteral | stD | stDLiteral | stQ | stQLiteral =>
      exact scalarStore_goesOn ..
  case stc | stcLiteral => exact capStore_goesOn ..
  case ldq | ldqLiteral => exact queueLoad_goesOn ..
  case stq | stqLiteral => exact queueStore_goesOn ..
  case vld | vldLiteral => exact vectorLoad_goesOn ..
  case vst | vstLiteral => exact vectorStore_goesOn ..
  case amoAdd | amoAnd | amoOr | amoXor | amoMin | amoMax | amoMinu | amoMaxu | amoSwap | amoCas | amoFadd =>
      exact atomic_goesOn ..
  case touch | touchW => exact touchPage_goesOn ..
  case get | give => exact moveData_goesOn ..
  case vaddInt | vsubInt | vmulInt | vminInt | vmaxInt | vand | vor | vxor | vshl | vshr | vshrA =>
      exact vectorInt_goesOn ..
  case vaddF32 | vsubF32 | vmulF32 | vminF32 | vmaxF32 | vaddF16 | vsubF16 | vmulF16 | vminF16 | vmaxF16 | vaddBf16 |
      vsubBf16 | vmulBf16 | vminBf16 | vmaxBf16 => exact vectorFloat_goesOn ..
  case vfmaF32 | vfmaF16 | vfmaBf16 => exact vectorFma_goesOn ..
  case vrnd | vrndf => exact draw_goesOn ..
  case vsqrt | vexp2 | vlog2 | vrcp => exact longUnary_goesOn ..
  case vdivF32 | vdivF16 => exact longDiv_goesOn ..
  case trd | twr | tzero | ttrans => exact onTile_goesOn ..
  case pst | plupd | plaxpy => exact blockOp_goesOn ..
  case mldb | mgath => exact fillInstr_goesOn ..
  case mma | mmaSet | mmaSub | mrun | mrunSet | mrunSub => exact matrixCmd_goesOn ..
  case send | sendi => exact sendMsg_goesOn ..
  case sendAccepted | watermarkAtNi | windowTimeout | detApplyAtHome | detReleaseAtQueue | launchPortWrite |
      coreHardwareError | dieFatalFault | gerrPop | functionOutOfService | overtemperature | gptpSync | pagingFill |
      pagingSpill | pagingGrow | pggrowPop | protRegionEnable | protRegionDisable | wstReadClear | quiesceRequest |
      debugHalt | debugRelease | snapshotPin | capabilityStore | attestationRequest | lockLost => exact goesOn_next _
  case memoryUpcall => exact execMemoryUpcall_goesOn ..
  case loadResponse => exact execLoadResponse_goesOn ..
  case storeAtHome => exact execStoreAtHome_goesOn ..
  case postedErrorResponse => exact execPostedErrorResponse_goesOn ..
  case amoAtHome => exact execAmoAtHome_goesOn ..
  case xaddAtHome => exact execXaddAtHome_goesOn ..
  case joinDecrement => exact execJoinDecrement_goesOn ..
  case taskCommit => exact execTaskCommit_goesOn ..
  case taskIrrevocable => exact execTaskIrrevocable_goesOn ..
  case versionRecordFreed => exact execVersionRecordFreed_goesOn ..
  case messageArrival => exact execMessageArrival_goesOn ..
  case refusalCallback => exact execRefusalCallback_goesOn ..
  case messageResend => exact execMessageResend_goesOn ..
  case handlerChoice => exact execHandlerChoice_goesOn ..
  case continuationTake => exact execContinuationTake_goesOn ..
  case stealRound => exact execStealRound_goesOn ..
  case stealRetryTimeout => exact execStealRetryTimeout_goesOn ..
  case queuePushWait => exact execQueuePushWait_goesOn ..
  case watermarkPublish => exact execWatermarkPublish_goesOn ..
  case watermarkAtWindowUnit => exact execWatermarkAtWindowUnit_goesOn ..
  case windowTargetPass => exact execWindowTargetPass_goesOn ..
  case closePacketsSend => exact execClosePacketsSend_goesOn ..
  case closePacketDelivery => exact execClosePacketDelivery_goesOn ..
  case sheetTimeout => exact execSheetTimeout_goesOn ..
  case sheetDone => exact execSheetDone_goesOn ..
  case leaseGrant => exact execLeaseGrant_goesOn ..
  case arrayTurn => exact execArrayTurn_goesOn ..
  case arrayTurnEnd => exact execArrayTurnEnd_goesOn ..
  case arrayCommandComplete => exact execArrayCommandComplete_goesOn ..
  case arrayFillComplete => exact execArrayFillComplete_goesOn ..
  case arraySpill => exact execArraySpill_goesOn ..
  case arrayRestore => exact execArrayRestore_goesOn ..
  case readoutDrain => exact execReadoutDrain_goesOn ..
  case streamerPiece => exact execStreamerPiece_goesOn ..
  case granuleWrite => exact execGranuleWrite_goesOn ..
  case engineAck => exact execEngineAck_goesOn ..
  case engineHandBack => exact execEngineHandBack_goesOn ..
  case quireUpdateAtHome => exact execQuireUpdateAtHome_goesOn ..
  case walkArrival => exact execWalkArrival_goesOn ..
  case walkRule => exact execWalkRule_goesOn ..
  case walkEnd => exact execWalkEnd_goesOn ..
  case prefetchTrigger => exact execPrefetchTrigger_goesOn ..
  case prefetchKernel => exact execPrefetchKernel_goesOn ..
  case translationWalk => exact execTranslationWalk_goesOn ..
  case tlbiAck => exact execTlbiAck_goesOn ..
  case bridgeResend => exact execBridgeResend_goesOn ..
  case preemptionSave => exact execPreemptionSave_goesOn ..
  case strandRestore => exact execStrandRestore_goesOn ..
  case launchValidation => exact execLaunchValidation_goesOn ..
  case launchHeadTake => exact execLaunchHeadTake_goesOn ..
  case teamSliceExpiry => exact execTeamSliceExpiry_goesOn ..
  case partitionPeriodStart => exact execPartitionPeriodStart_goesOn ..
  case partitionBudgetStart => exact execPartitionBudgetStart_goesOn ..
  case partitionBudgetEnd => exact execPartitionBudgetEnd_goesOn ..
  case reset => exact execReset_goesOn ..
  case functionReady => exact execFunctionReady_goesOn ..
  case throttleTick => exact execThrottleTick_goesOn ..
  case csi2Packet => exact execCsi2Packet_goesOn ..
  case portWatermarkPeriod => exact execPortWatermarkPeriod_goesOn ..
  case gpioEdge => exact execGpioEdge_goesOn ..
  case gpioTimerPeriod => exact execGpioTimerPeriod_goesOn ..
  case gpioWatermarkPeriod => exact execGpioWatermarkPeriod_goesOn ..
  case canFrameEvent => exact execCanFrameEvent_goesOn ..
  case canWatermarkPeriod => exact execCanWatermarkPeriod_goesOn ..
  case quiesceComplete => exact execQuiesceComplete_goesOn ..
  case appCoreAccess => exact execAppCoreAccess_goesOn ..
  case pcieInboundWrite => exact execPcieInboundWrite_goesOn (_relaxed := true) ..
  case registerWrite => exact execRegisterWrite_goesOn ..
  case illegalInstruction => exact execIllegalInstruction_goesOn ..
  case instructionFetchFailure => exact execInstructionFetchFailure_goesOn ..

theorem runWord_goesOn (w lit : Nat) (s : State) : ∀ o ∈ runWord w lit s, o.GoesOn := by
  intro o ho
  unfold runWord at ho
  split at ho
  · cases ho
    exact exec_goesOn ..
  · cases ho

/-- The turn of a strand leaves a state at once, or executes: an upcall, a failed fetch, the word, or an illegal one. -/
theorem strandTurn_goesOn (c : CoreId) (k : SlotId) (s : State) : Out.GoesOn (strandTurn runWord c k s) := by
  fun_cases strandTurn runWord c k s
  case case5 | case7 | case9 | case11 => exact exec_goesOn ..
  case case10 hword => exact runWord_goesOn _ _ _ _ hword
  all_goals exact goesOn_next _

theorem stepBy_goesOn (s : State) : Out.GoesOn (stepBy runWord s) := by
  fun_cases stepBy runWord s
  case case1 => exact strandTurn_goesOn ..
  case case2 => exact exec_goesOn ..
  all_goals exact goesOn_next _

/-- Settles O55: a step is the turn of a strand, an event, or what time and the outside change, and each goes on. -/
theorem everyStepIsTaken : Obligations.EveryStepIsTaken := stepBy_goesOn

end Sys2Proof.Machine
end

section
/-! PROOF. What only sends: events put on the agenda, messages and watermarks on their way (13 R279; 09 R215, R227). -/

namespace Sys2Proof.Machine

/-- From `s` to `t` events have been put on the agenda and messages on the bridges, and nothing else has changed. -/
def State.Sends (s t : State) : Prop := ∃ a b, t = { s with agenda := a, bridges := b }

namespace State.Sends
variable {s t u : State}

theorem refl (s : State) : s.Sends s := ⟨_, _, rfl⟩

theorem trans (h : s.Sends t) (k : t.Sends u) : s.Sends u := by
  obtain ⟨_, _, rfl⟩ := h
  obtain ⟨a, b, rfl⟩ := k
  exact ⟨a, b, rfl⟩

/-- What it leaves of the state: all but the agenda and the bridges. -/
theorem keeps {α : Type} {p : State → α} (h : s.Sends t)
    (hp : ∀ a b, p { s with agenda := a, bridges := b } = p s) : p t = p s := by
  obtain ⟨a, b, rfl⟩ := h
  exact hp a b

theorem post (s : State) (d : Nat) (e : Instr) : s.Sends (s.post d e) := ⟨_, _, rfl⟩

theorem postOnce (s : State) (d : Nat) (e : Instr) : s.Sends (s.postOnce d e) := by
  unfold State.postOnce
  split
  · exact refl s
  · exact post s d e

theorem offer (s : State) (c : CoreId) : s.Sends (s.offer c) := postOnce ..

theorem notice (s : State) (die code : Nat) (v : Word) : s.Sends (s.notice die code v) := by
  unfold State.notice
  dsimp only
  split
  · exact post ..
  · exact refl s

theorem sendPacket (s : State) (c : CoreId) (t : Sender) (a : Quad) (ws : List Word) : s.Sends (s.sendPacket c t a ws) := by
  unfold State.sendPacket State.route
  split
  · dsimp only
    split <;> exact ⟨_, _, rfl⟩
  · exact post ..

theorem foldl {α : Type} {f : State → α → State} (hf : ∀ (s : State) a, s.Sends (f s a)) (l : List α)
    (s : State) : s.Sends (l.foldl f s) := by
  induction l generalizing s with
  | nil => exact refl s
  | cons a l ih => exact (hf s a).trans (ih _)

theorem offerCluster (s : State) (q : ClusterId) : s.Sends (s.offerCluster q) := foldl (fun _ _ => offer ..) _ s

end State.Sends

end Sys2Proof.Machine
end

section
/-! PROOF. The paging engines: fills, spills, growth, and the growth events read (21 R376-R379). -/

namespace Sys2Proof.Machine

section
variable {s : State} {q : ClusterId} {p : PgCmd} {ps : List PgCmd} {l : Leaf} {e : Instr} {f : State → PgCmd → State}

/-! ### The command that is served (R376) -/

/-- With room in the overflow buffer the oldest command is served, or rejected with status 2. -/
theorem pgServe_head (hlive : s.house.frozen = false) (hq : (s.cluster q).pgq = p :: ps)
    (hroom : (s.cluster q).pgOvf.length < 8) (he : p.event q = e) :
    s.pgServe q e f = (if s.pgOk q p then f s p else s.pgFail q p 2).pokePaging q := by
  have hnext : pgNext (decide (8 ≤ (s.cluster q).pgOvf.length)) [] (s.cluster q).pgq = some p := by
    simp [hq, pgNext, Nat.not_le.mpr hroom]
  simp [State.pgServe, hlive, hnext, he]

theorem event_fill (h : p.op = 0) : p.event q = .pagingFill q := by simp [PgCmd.event, h]
theorem event_spill (h : p.op = 1) : p.event q = .pagingSpill q := by simp [PgCmd.event, h]
theorem event_grow (h : p.op = 2) : p.event q = .pagingGrow q := by simp [PgCmd.event, h]

/-- A command is served by one of the three events. -/
theorem event_cases (p : PgCmd) (q : ClusterId) :
    p.event q = .pagingFill q ∨ p.event q = .pagingGrow q ∨ p.event q = .pagingSpill q := by
  unfold PgCmd.event
  split <;> simp

section
variable (hlive : s.house.frozen = false) (hq : (s.cluster q).pgq = p :: ps) (hroom : (s.cluster q).pgOvf.length < 8)
include hlive hq hroom

/-- A command that its engine cannot take is rejected, whatever it asks for. -/
theorem paging_rejected (hbad : s.pgOk q p = false) :
    exec (p.event q) s = .next ((s.pgFail q p 2).pokePaging q) := by
  have hserve (f : State → PgCmd → State) : s.pgServe q (p.event q) f = (s.pgFail q p 2).pokePaging q := by
    rw [pgServe_head hlive hq hroom rfl, hbad]
    rfl
  obtain h | h | h := event_cases p q <;> rw [h] at hserve ⊢ <;> exact congrArg Host.Outcome.next (hserve _)

variable (hok : s.pgOk q p = true)
include hok

theorem paging_fills (hop : p.op = 0) : exec (.pagingFill q) s = .next ((s.pgFill q p).pokePaging q) := by
  rw [exec_pagingFill, execPagingFill, pgServe_head hlive hq hroom (event_fill hop), if_pos hok]

theorem paging_spills (hop : p.op = 1) : exec (.pagingSpill q) s = .next ((s.pgSpill q p).pokePaging q) := by
  rw [exec_pagingSpill, execPagingSpill, pgServe_head hlive hq hroom (event_spill hop), if_pos hok]

theorem paging_grows (hop : p.op = 2) : exec (.pagingGrow q) s = .next ((s.pgGrow q p).pokePaging q) := by
  rw [exec_pagingGrow, execPagingGrow, pgServe_head hlive hq hroom (event_grow hop), if_pos hok]

end

/-! ### Fills (R378) -/

theorem overflowed_nil (h : (s.cluster q).pgOvf = []) : (s.cluster q).overflowed p = false := by
  simp [Cluster.overflowed, h]

/-- A fill whose frame can be read decodes it into the slice and makes the PTE resident. -/
theorem pgFill_reads (hovf : (s.cluster q).pgOvf = []) (hwalk : s.walkLeaf p.asid p.va = .ok l)
    (hspilled : l.spilled p.va = true) (harea : s.inArea (q.val / 12) (pteFrame l.pte) pgUnit = true) (hready : s.homeReady (pteFrame l.pte) = true)
    (hhead : poisoned s.poison (pteFrame l.pte) 40 = false)
    (hcode : poisoned s.poison (pteFrame l.pte + 40) (ofBytes (((memRead s.mem (pteFrame l.pte) 40).drop 2).take 2)) = false) :
    let h := memRead s.mem (pteFrame l.pte) 40
    let n := ofBytes ((h.drop 2).take 2)
    let f := Config.freeValue s.freshN
    s.pgFill q p = ((State.putPage { s with freshN := s.freshN + 1 } (slicePhys p.tile p.off)
      ((decodePage (fld (ofBytes h) 8 1 = 1) (memRead s.mem (pteFrame l.pte + 40) n) f ++ freeBytes f 4096).take 4096)
      ((List.range 256).map (fun i => fld (ofBytes (h.drop 8)) i 1 == 1))).putPte l.at' (pteFilled l.pte p.off)).pgEnd q p 0 n := by
  simp only [State.pgFill, hwalk, overflowed_nil hovf, hspilled, harea, hready, hhead, hcode]
  rfl

/-! ### Spills (R378) -/

/-- The state in which a spill has begun: the PTE stored as spilled, the page invalidated, the command with its PTE and slice
offset. -/
def State.spillBegun (s : State) (q : ClusterId) (p : PgCmd) (l : Leaf) (off : Nat) : State :=
  ((s.putPte l.at' (pteSpilled l.pte p.pa.toNat)).invalidateAt (niOfCore p.tile) (mkInval p.va 4096 p.asid false false)).updCluster q
    (fun (x : Cluster) => { x with pgq := x.pgq.map (fun r => if r = p then { p with pte := some (l.at', off) } else r) })

/-- A spill of a resident page begins, and waits while something of the page is under way. -/
theorem pgSpill_begins {f : Nat} (hpte : p.pte = none) (hwalk : s.walkLeaf p.asid p.va = .ok l) (hlevel : l.level = 0)
    (hkind : pteKind (df p.va 56 8 == 1) l.pte = 1) (hleaf : fld l.pte 7 1 = 0) (hvalid : fld l.pte 0 1 = 1)
    (hframe : s.leafFrame p.va l = some f)
    (hbusy : (s.spillBegun q p l (f % 2 ^ 21)).quiet (mkInval p.va 4096 p.asid false false) = false) :
    s.pgSpill q p = (s.spillBegun q p l (f % 2 ^ 21)).post 50 (.pagingSpill q) := by
  have hresident : ¬ (l.level ≠ 0 ∨ pteKind (df p.va 56 8 == 1) l.pte ≠ 1 ∨ fld l.pte 7 1 = 1 ∨ fld l.pte 0 1 = 0) := by
    omega
  have hwaits : s.pgSpill q p = (s.spillBegun q p l (f % 2 ^ 21)).pgStore q { p with pte := some (l.at', f % 2 ^ 21) } l.at'
      (f % 2 ^ 21) := by
    simp only [State.pgSpill, hpte, hwalk, if_neg hresident, hframe]
    rfl
  rw [hwaits, State.pgStore]
  dsimp only
  rw [hbusy]
  rfl

section
variable {at' off pte : Nat} (hquiet : s.quiet (mkInval p.va 4096 p.asid false false) = true)
  (htable : s.tableWord at' = .ok pte) (hclean : poisoned s.poison (slicePhys p.tile off) 4096 = false)
  (hready : s.homeReady p.pa.toNat = true) (hframe : p.keep = true → poisoned s.poison p.pa.toNat 8 = false)
include hquiet htable hclean hready hframe

/-- A page that is kept as it was coded, and has not been written since, stays in its frame; any other is coded, and stored where
its frame has the units it needs, or else put into the overflow buffer. -/
theorem pgStore_reads :
    let bs := memRead s.mem (slicePhys p.tile off) 4096
    let tags := s.pageTags (slicePhys p.tile off)
    let units := if p.keep then (memGet s.mem p.pa.toNat).toNat else p.units
    let need := pageUnits (codePage bs).1 (codePage bs).2.length
    s.pgStore q p at' off = if p.keep = true ∧ fld pte 10 1 = 0 then s.pgEnd q p 0 (memNat s.mem (p.pa.toNat + 2) 2)
      else if need ≤ units then
        (s.physWrite p.pa.toNat (frameBytes units (codePage bs).1 (codePage bs).2 tags)).pgEnd q p 0 (codePage bs).2.length
      else ((s.updCluster q (fun (x : Cluster) =>
        { x with pgOvf := x.pgOvf ++ [{ va := p.va, asid := p.asid, bytes := bs, tags := tags }] })).growEvent q p need).pgEnd q p 4
          (codePage bs).2.length := by
  have hread : (p.keep && poisoned s.poison p.pa.toNat 8) = false := by
    cases hkeep : p.keep with
    | false => rfl
    | true => exact hframe hkeep
  simp only [State.pgStore, hquiet, htable, hclean, hready, hread]
  rfl

end

/-! ### Growth (R378) -/

/-- A page of the overflow buffer is written to its new frame, or waits for one with the units it needs. -/
theorem pgGrow_stored {o : PgOvf} (hovf : (s.cluster q).pgOvf = [o]) (hva : o.va = p.va) (hasid : o.asid = p.asid)
    (hwalk : s.walkLeaf p.asid p.va = .ok l) (hready : s.homeReady p.pa.toNat = true) (hspilled : l.spilled p.va = true) :
    let code := codePage o.bytes
    let need := pageUnits code.1 code.2.length
    s.pgGrow q p = if p.units < need then (s.growEvent q p need).pgEnd q p 4 code.2.length
      else (((s.physWrite p.pa.toNat (frameBytes p.units code.1 code.2 o.tags)).putPte l.at' (pteSpilled l.pte p.pa.toNat)).updCluster q
        (fun (x : Cluster) => { x with pgOvf := x.pgOvf.erase o })).pgEnd q p 0 code.2.length := by
  have hfind : (s.cluster q).pgOvf.find? (fun o => o.va == p.va && o.asid == p.asid) = some o := by simp [hovf, hva, hasid]
  simp only [State.pgGrow, hfind, hwalk, hready, hspilled]
  rfl

/-! ### PGGROW (R378) -/

theorem popGrow_oldest {d : Fin 2} {e : Quad} (h : (s.growOf d).head? = some e) :
    s.popGrow d = { s with pggrow := s.pggrow.erase e } := by
  obtain ⟨es, hes⟩ := List.head?_eq_some_iff.mp h
  rw [State.popGrow, hes]

theorem popGrow_none {d : Fin 2} (h : s.growOf d = []) : s.popGrow d = s := by rw [State.popGrow, h]

end

/-- Settles O43: each event serves the oldest command, by the case of its page and its frame. -/
theorem pagingCommandsComplete : Obligations.PagingCommandsComplete := by
  unfold Obligations.PagingCommandsComplete
  intro s q p ps l d e
  refine ⟨fun hlive hq hovf => ?served, fun n => rfl, fun o hlive hq hovf hva hasid hop hok hwalk hready hspilled => ?grown,
    fun h => congrArg Host.Outcome.next (popGrow_oldest h), fun h => congrArg Host.Outcome.next (popGrow_none h)⟩
  case served =>
    have hroom : (s.cluster q).pgOvf.length < 8 := by simp [hovf]
    refine ⟨fun hbad => ⟨_, _, paging_rejected hlive hq hroom hbad, rfl⟩, fun hok hwalk => ⟨?fill, ?begin⟩, ?store⟩
    case fill =>
      intro hop hspilled harea hready hhead hcode
      rw [paging_fills hlive hq hroom hok hop, pgFill_reads hovf hwalk hspilled harea hready hhead hcode]
    case begin =>
      intro f hop hpte hlevel hkind hleaf hvalid hframe i s1 hbusy
      rw [paging_spills hlive hq hroom hok hop, pgSpill_begins hpte hwalk hlevel hkind hleaf hvalid hframe hbusy]
      rfl
    case store =>
      intro at' off pte hok hop hpte htable hquiet hclean hready hframe
      rw [paging_spills hlive hq hroom hok hop, State.pgSpill, hpte]
      dsimp only
      rw [pgStore_reads hquiet htable hclean hready hframe]
      refine ⟨fun hkeep hsame => by rw [if_pos ⟨hkeep, hsame⟩], fun hcode => ?_⟩
      have hchanged : ¬ (p.keep = true ∧ fld pte 10 1 = 0) := by
        rintro ⟨hkeep, hsame⟩
        simp [hkeep, hsame] at hcode
      rw [if_neg hchanged]
      refine ⟨fun hfits => ?_, fun hgrows => ?_⟩
      · rw [if_pos hfits]
        rfl
      · rw [if_neg (Nat.not_le.mpr hgrows)]
        rfl
  case grown =>
    have hroom : (s.cluster q).pgOvf.length < 8 := by simp [hovf]
    rw [paging_grows hlive hq hroom hok hop, pgGrow_stored hovf hva hasid hwalk hready hspilled]
    exact ⟨fun hneed => by rw [if_pos hneed], fun hfits => by rw [if_neg (Nat.not_lt.mpr hfits)]⟩

end Sys2Proof.Machine
end

section
/-! PROOF. Work that leaves and comes back, and what errors end: team slices, reserved partitions, pre-emption, hardware errors
and reports (19 R345-R353; 21 R382, R384, R385). -/

namespace Sys2Proof.Machine

/-! ### Team slices (R345-R347) -/

section
variable {s : State} {id : Word} {u n : Nat} {g : Grid} {t : TeamUnit}

theorem teamSlice_noGrid (h : s.grid id = none) : exec (.teamSliceExpiry id u) s = .next s := by
  simp [execTeamSliceExpiry, h]

section
variable (hg : s.grid id = some g) (hu : g.units[u]? = some t) (hn : t.resident = some n)
include hg hu hn

theorem teamSlice_running (hlive : g.teamDead n = false) (hstays : t.stopping = false)
    (hslice : s.dt < t.since + 1000 * g.r.slice) :
    exec (.teamSliceExpiry id u) s = .next s := by
  simp [execTeamSliceExpiry, hg, hu, hn, hlive, hstays, hslice]

theorem teamSlice_alone (hnext : g.nextTeam u n = none) : exec (.teamSliceExpiry id u) s = .next s := by
  simp [execTeamSliceExpiry, hg, hu, hn, hnext]

theorem teamSlice_dead {m : Nat} (hdead : g.teamDead n = true) (hnext : g.nextTeam u n = some m) :
    exec (.teamSliceExpiry id u) s = .next (s.bringIn g u m) := by
  simp [execTeamSliceExpiry, hg, hu, hn, hdead, hnext]

end
end

/-! ### Reserved partitions (R349) -/

section
variable {s : State} {i : Fin 4} {p : Partition}

/-- A mark is at least 1 ns away. -/
theorem untilMark_pos (s : State) (t : Word) : 1 ≤ s.untilMark t := by
  unfold State.untilMark State.untilTs
  split
  next h =>
    have hlater : 1 ≤ (t - s.now).toNat := by
      simp only [tsLt, Bool.and_eq_true, decide_eq_true_eq] at h
      exact h.1
    dsimp only
    omega
  · exact le_refl 1

theorem untilMark_congr {s t : State} (h : t.dt = s.dt) (m : Word) : t.untilMark m = s.untilMark m := by
  have hnow : t.now = s.now := congrArg (fun d => BitVec.ofNat 32 (d / 1000)) h
  unfold State.untilMark State.untilTs
  rw [hnow, h]

/-- An event posted for a mark stands on the agenda at that mark. -/
theorem mark_posted {u : State} (h : u.dt = s.dt) (m : Word) (e : Instr) :
    (s.dt + s.untilMark m, e) ∈ (u.post (u.untilMark m) e).agenda := by
  unfold State.post
  rw [untilMark_congr h, h, max_eq_left (untilMark_pos ..)]
  exact List.mem_append_right _ (List.mem_singleton_self _)

/-- What a partition's period does to one of its cores: it is halted for pre-emption, and receives its tick. -/
def State.periodAt (i : Fin 4) (a : Quad) (s : State) (c : CoreId) : State :=
  ((s.updCore c (fun (y : Core) => { y with preempt := true })).postOnce 10 (.preemptionSave c)).sendPacket c (.slotTimer i) a []

theorem periodAt_sends (i : Fin 4) (a : Quad) (s : State) (c : CoreId) :
    (s.updCore c (fun (y : Core) => { y with preempt := true })).Sends (s.periodAt i a c) :=
  (State.Sends.postOnce ..).trans (.sendPacket ..)

theorem periodAt_dt (i : Fin 4) (a : Quad) (s : State) (c : CoreId) : (s.periodAt i a c).dt = s.dt :=
  (periodAt_sends i a s c).keeps (p := State.dt) fun _ _ => rfl

theorem periodAt_parts (i : Fin 4) (a : Quad) (s : State) (c : CoreId) : (s.periodAt i a c).parts = s.parts :=
  (periodAt_sends i a s c).keeps (p := State.parts) fun _ _ => rfl

theorem periodAt_preempt (i : Fin 4) (a : Quad) (s : State) (c e : CoreId) :
    ((s.periodAt i a c).core e).preempt = true ↔ e = c ∨ (s.core e).preempt = true := by
  have h : (s.periodAt i a c).core e = (s.updCore c (fun (y : Core) => { y with preempt := true })).core e :=
    (periodAt_sends i a s c).keeps (p := fun s => s.core e) fun _ _ => rfl
  rw [h]
  by_cases he : e = c
  · subst he
    simp
  · simp [updCore_core_ne _ _ he, he]

/-- Every core of the list is halted for pre-emption. -/
theorem periods_preempt (i : Fin 4) (a : Quad) (l : List CoreId) (s : State) (e : CoreId) :
    ((l.foldl (State.periodAt i a) s).core e).preempt = true ↔ e ∈ l ∨ (s.core e).preempt = true := by
  induction l generalizing s with
  | nil => simp
  | cons c l ih =>
    rw [List.foldl_cons, ih, periodAt_preempt, List.mem_cons]
    tauto

/-- The tick of a partition's period. -/
def Partition.tick (p : Partition) (i : Fin 4) : Quad :=
  mkAep p.rch.val 3 (0x10C0 + i.val) 0 (p.rt0 + BitVec.ofNat 32 (p.k * p.rper)) (BitVec.ofNat 32 p.k) 0

/-- The state in which the cores of a partition have heard of its period. -/
def State.periodTold (s : State) (i : Fin 4) (p : Partition) : State :=
  p.cores.foldl (State.periodAt i (p.tick i))
    { s with parts := wr s.parts i (some { p with k := p.k + 1, active := true }) }

theorem periodTold_dt (s : State) (i : Fin 4) (p : Partition) : (s.periodTold i p).dt = s.dt :=
  foldl_keeps State.dt (fun _ _ => periodAt_dt ..) ..

theorem periodTold_parts (s : State) (i : Fin 4) (p : Partition) :
    rd (s.periodTold i p).parts i = some { p with k := p.k + 1, active := true } := by
  have h : (s.periodTold i p).parts = wr s.parts i (some { p with k := p.k + 1, active := true }) :=
    foldl_keeps State.parts (fun _ _ => periodAt_parts ..) ..
  rw [h, rd_wr_same]

/-- A period's start: its cores are told, and the budget and the next period stand at their marks. -/
theorem partitionPeriodStart_next (h : rd s.parts i = some p) :
    let u := s.periodTold i p
    let at' := p.rt0 + BitVec.ofNat 32 (p.k * p.rper)
    exec (.partitionPeriodStart i) s = .next ((u.post (u.untilMark (at' + 10)) (.partitionBudgetStart i)).post
      (u.untilMark (at' + BitVec.ofNat 32 p.rper)) (.partitionPeriodStart i)) := by
  intro u at'
  rw [untilMark_congr (periodTold_dt s i p), untilMark_congr (periodTold_dt s i p), exec_partitionPeriodStart,
    execPartitionPeriodStart]
  simp only [State.updPart, h]
  rfl

/-- The mark at which a partition's budget ends: RBUD µs from 10 µs after its period's own mark. -/
def Partition.budgetMark (p : Partition) : Word := p.rt0 + BitVec.ofNat 32 ((p.k - 1) * p.rper) + 10 + BitVec.ofNat 32 p.rbud

/-- Saved and waiting work of some cores looked at again. -/
def State.resumeOn (s : State) (l : List CoreId) : State :=
  l.foldl (fun s c => ((s.core c).saved.foldl (fun s (v : Saved) => s.postOnce 1 (.strandRestore c v.slot)) s).offer c) s

theorem resumeOn_sends (s : State) (l : List CoreId) : s.Sends (s.resumeOn l) :=
  .foldl (fun _ _ => (State.Sends.foldl (fun _ _ => .postOnce ..) ..).trans (.offer ..)) l s

section
variable (h : rd s.parts i = some p)
include h

theorem partitionBudgetStart_next :
    exec (.partitionBudgetStart i) s = .next (s.post (s.untilMark p.budgetMark) (.partitionBudgetEnd i)) := by
  simp only [exec_partitionBudgetStart, execPartitionBudgetStart, h]
  rfl

theorem partitionBudgetEnd_next : exec (.partitionBudgetEnd i) s = if tsLt s.now p.budgetMark then .next s
    else .next ((s.updPart i (fun (x : Partition) => { x with active := false })).resumeOn p.cores) := by
  simp only [exec_partitionBudgetEnd, execPartitionBudgetEnd, h]
  rfl

theorem partitionBudgetEnd_early (hearly : tsLt s.now p.budgetMark = true) : exec (.partitionBudgetEnd i) s = .next s := by
  rw [partitionBudgetEnd_next h, if_pos hearly]

/-- What the end of a budget lets go on changes no partition. -/
theorem partitionBudgetEnd_due (hdue : tsLt s.now p.budgetMark = false) :
    ∃ t, exec (.partitionBudgetEnd i) s = .next t ∧ rd t.parts i = some { p with active := false } := by
  refine ⟨_, (partitionBudgetEnd_next h).trans (if_neg (by simp [hdue])), ?_⟩
  rw [(resumeOn_sends ..).keeps (p := State.parts) fun _ _ => rfl]
  simp [State.updPart, h]

end
end

/-! ### Pre-emption: strands saved (21 R384, R385) -/

/-- The core as its pre-emption halts it. -/
def State.preempted (s : State) (c : CoreId) : State := s.updCore c (fun (x : Core) => { x with preempt := true })

/-- The slots whose work a pre-emption of their core takes. -/
def State.yielding (s : State) (c : CoreId) : List SlotId :=
  (List.finRange 16).filter (fun k =>
    decide ((s.strand c k).work.kind ≠ .none) && decide ((s.strand c k).st ≠ .dormant) && s.mustYield c (s.strand c k).work)

section
variable {s : State} {c : CoreId} {k : SlotId}

theorem preemptionSave_waits
    (h : s.house.frozen = true ∨ ∃ k ∈ (s.preempted c).yielding c, (s.preempted c).canSave c k = false) :
    exec (.preemptionSave c) s = .next ((s.preempted c).post 100 (.preemptionSave c)) := by
  rw [exec_preemptionSave, execPreemptionSave]
  refine if_pos (h.imp id fun ⟨k, hk, hbusy⟩ => List.any_eq_true.mpr ⟨k, hk, ?_⟩)
  rw [show (s.updCore c _).canSave c k = false from hbusy]
  rfl

theorem preemptionSave_saves (hlive : s.house.frozen = false)
    (hsave : ∀ k ∈ (s.preempted c).yielding c, (s.preempted c).canSave c k = true) :
    let ks := (s.preempted c).yielding c
    exec (.preemptionSave c) s = .next (ks.foldl (fun (s : State) k => s.postOnce 1000 (.strandRestore c k))
      (((ks.foldl (fun (s : State) k => s.saveStrand c k ((s.core c).saveAt k) false) (s.preempted c)).updCore c
        (fun (x : Core) => { x with preempt := false })).offer c)) := by
  rw [exec_preemptionSave, execPreemptionSave]
  refine if_neg (not_or.mpr ⟨?_, ?_⟩)
  · rw [updCore_house, hlive]
    exact Bool.false_ne_true
  · rw [List.any_eq_true]
    rintro ⟨k, hk, hbusy⟩
    rw [show (s.updCore c _).canSave c k = true from hsave k hk] at hbusy
    cases hbusy

theorem saveAt_area (htag : (s.core c).psave.tag = true)
    (hperms : (s.core c).psave.hasAll [.ld, .st, .ldcap, .stcap, .eng] = true)
    (hin : (s.core c).psave.inBounds (s.core c).psave.addr.toNat 786432 = true) :
    (s.core c).saveAt k = (s.core c).psave.setAddr ((s.core c).psave.addr + BitVec.ofNat 64 (49152 * k.val)) :=
  if_pos ⟨htag, hperms, hin⟩

/-- A capability that a strand's image can be written through. -/
theorem image_serves {img : CVal} (htag : img.tag = true) (hperms : img.hasAll [.ld, .st, .ldcap, .stcap, .eng] = true)
    (hin : img.inBounds img.addr.toNat 49152 = true) :
    ¬ ((!img.tag) = true ∨ (!img.hasAll [.ld, .st, .ldcap, .stcap, .eng]) = true ∨
      (!img.inBounds img.addr.toNat imageSize) = true) := by
  have hin : img.inBounds img.addr.toNat imageSize = true := hin
  simp [htag, hperms, hin]

/-! ### Pre-emption: strands restored (21 R382, R384, R385) -/

theorem strandRestore_none (h : (s.core c).saved = []) : exec (.strandRestore c k) s = .next s := by
  simp [execStrandRestore, h]

theorem strandRestore_own {v : Saved} (hv : (s.core c).saved.find? (fun (v : Saved) => v.slot == k && s.mayReturn c v) = some v)
    (hfree : (s.strand c k).st = .dormant) : exec (.strandRestore c k) s = .next (s.restoreStrand c k v) := by
  have hslot : v.slot = k := by
    have h := List.find?_some hv
    simp only [Bool.and_eq_true, beq_iff_eq] at h
    exact h.1
  have hreturn : s.returnSlot c v = some k := by
    rw [State.returnSlot, hslot]
    exact if_pos hfree
  simp only [exec_strandRestore, execStrandRestore, hv, hreturn]

/-- A strand comes back with the registers and tokens of its image, and the flags and engine results that have come since. -/
theorem restoreStrand_strand {s1 s2 : State} {v : Saved} {img : List RByte} (hlost : v.lost = false)
    (htiles : v.tiles = []) (hheld : v.strand.held = [])
    (hread : (s.updCore c (fun (x : Core) => { x with saved := x.saved.erase v })).homeRead (imageWho c v.strand)
      (v.image.has .local) v.image.addr 10720 = .ok (img, s1))
    (hwrite : s1.homeWrite (imageWho c v.strand) (v.image.has .local) [(v.image.addr + 3, [0])] [] = .ok s2) :
    let y := v.strand.fromImage img
    (s.restoreStrand c k v).strand c k = { y with
      readyAt := s2.dt, fflags := y.fflags ||| v.strand.fflags, qstat := y.qstat ||| v.strand.qstat
      engq := y.engq ++ v.strand.engq
      tok := vofFn (fun i => Token.ofWord (ofBytes (((img.drop (10592 + 16 * i.val)).take 16).map (fun (b : RByte) => b.1)))) } := by
  have hread : (s.updCore c (fun (x : Core) => { x with saved := x.saved.erase v })).homeRead (imageWho c v.strand)
      (v.image.has .local) v.image.addr imageRegs = .ok (img, s1) := hread
  have hnone : (v.strand.fromImage img).held = [] := hheld
  simp only [State.restoreStrand, hlost, hread, htiles, List.foldl_nil, hwrite]
  rw [if_neg Bool.false_ne_true, (State.Sends.foldl (fun _ _ => .post ..) ..).keeps (p := fun s => s.strand c k) fun _ _ => rfl,
    setStrand_strand_same]
  simp only [hnone, List.map_nil]
  rfl

end

/-! ### Errors and reports (R351-R353) -/

section
variable {s : State} {d : Fin 2}

theorem popGerr_oldest {e : Dbl} {l : List Dbl} (h : rd s.gerr d = e :: l) :
    s.popGerr d = { s with gerr := wr s.gerr d l, gerrOvf := wr s.gerrOvf d false } := by rw [State.popGerr, h]

theorem popGerr_none (h : rd s.gerr d = []) : s.popGerr d = s := by rw [State.popGerr, h]

variable (grid : Word) (core slot cause retry : Nat)

/-- A report that finds room is queued, and interrupts the application cores. -/
theorem report_queued (h : (rd s.gerr d).length < 16) :
    rd (s.report d grid core slot cause retry).gerr d = rd s.gerr d ++ [BitVec.ofNat 64
      (grid.toNat + 2 ^ 32 * core + 2 ^ 41 * slot + 2 ^ 45 * cause + 2 ^ 48 * min retry 3 + 2 ^ 63)] ∧
    (s.report d grid core slot cause retry).host.interrupts = s.host.interrupts + 1 := by
  unfold State.report
  dsimp only
  rw [if_pos h, (State.Sends.notice ..).keeps (p := State.gerr) fun _ _ => rfl, notice_host]
  exact ⟨rd_wr_same .., rfl⟩

/-- A report that finds none is lost, and its loss shows. -/
theorem report_lost (h : 16 ≤ (rd s.gerr d).length) :
    rd (s.report d grid core slot cause retry).gerr d = rd s.gerr d ∧
    rd (s.report d grid core slot cause retry).gerrOvf d = true := by
  unfold State.report
  dsimp only
  rw [if_neg (Nat.not_lt.mpr h)]
  exact ⟨rfl, rd_wr_same ..⟩

end

/-! ### The statement -/

/-- Settles O45: each event by the case of what it finds; what a partition's period and a report send leaves the rest of the
state. -/
theorem workIsPreemptedAndErrorsReported : Obligations.WorkIsPreemptedAndErrorsReported := by
  unfold Obligations.WorkIsPreemptedAndErrorsReported
  refine ⟨fun s id u g t n i p c k v => ⟨teamSlice_noGrid, fun hg hu hn => ?team, fun hp => ?partition,
    ⟨preemptionSave_waits, preemptionSave_saves, ?idle⟩, saveAt_area, ?saved, strandRestore_none, strandRestore_own,
    fun img s1 s2 => restoreStrand_strand⟩, fun s c d e l => ⟨rfl, rfl, fun h => congrArg Host.Outcome.next (popGerr_oldest h),
    fun h => congrArg Host.Outcome.next (popGerr_none h), report_queued, report_lost⟩⟩
  case team =>
    exact ⟨teamSlice_running hg hu hn, teamSlice_alone hg hu hn, fun m => teamSlice_dead hg hu hn⟩
  case partition =>
    refine ⟨⟨_, partitionPeriodStart_next hp, periodTold_parts s i p, fun c hc => ?_, ?_, ?_⟩, partitionPeriodStart_next hp,
      partitionBudgetStart_next hp, partitionBudgetEnd_early hp, partitionBudgetEnd_due hp⟩
    · exact (periods_preempt ..).mpr (.inl hc)
    · exact List.mem_append_left _ (mark_posted (periodTold_dt ..) ..)
    · exact mark_posted (u := (s.periodTold i p).post _ _) (periodTold_dt ..) ..
  case idle =>
    intro hlive hnone
    have hks : (s.preempted c).yielding c = [] := hnone
    rw [preemptionSave_saves hlive (by simp [hks]), hks]
    rfl
  case saved =>
    intro img s2 htag hperms hin x who seen live tiles tokens parts hwrite
    refine (if_neg (image_serves htag hperms hin)).trans ?_
    split
    next herror => cases hwrite.symm.trans herror
    next hok =>
      cases hwrite.symm.trans hok
      rfl

end Sys2Proof.Machine
end

section
/-! PROOF. Bring-up and service, power and temperature, device time (22 R391, R392, R403, R406, R407). -/

namespace Sys2Proof.Machine

/-! ### Reset (R391, R406) -/

theorem reset_next (s : State) (img : FirmwareImage) :
    exec (.reset img) s = .next (s.warm.updHouse (fun (h : House) =>
      if imageOk img && ofBytes (part img.header 4 4) == 0 then
        { h with inReset := false, fault := false, images := wr h.images 0 (some (Config.shake256 img.body)) }
      else { h with inReset := true, fault := true })) := by
  rw [exec_reset, execReset]
  by_cases hgood : imageOk img ∧ ofBytes (part img.header 4 4) = 0
  · simp [hgood, State.updHouse]
  · have hbad : (imageOk img && ofBytes (part img.header 4 4) == 0) = false := by
      rw [← Bool.not_eq_true]
      simpa using hgood
    simp [hgood, hbad]

/-! ### Functions ready (R391, R392) -/

theorem bitOf_getLsbD {b : Nat} (hb : b < 128) (i : Nat) : (bitOf b).getLsbD i = decide (i = b) := by
  have h : (bitOf b).getLsbD i = (BitVec.twoPow 128 b).getLsbD i := rfl
  rw [h, BitVec.getLsbD_twoPow]
  by_cases hi : i = b
  · simp [hi, hb]
  · simp [hi, Ne.symm hi]

theorem clusterUp_sends (s : State) (q : ClusterId) : s.Sends (s.clusterUp q) := by
  have hcore (s : State) (c : CoreId) : s.Sends (State.offer ((s.core c).closeWait.foldl (fun s p => s.postOnce 50 (.closePacketDelivery c p))
      ((s.core c).refused.foldl (fun s r => s.postOnce 50 (.refusalCallback c r.chan)) s)) c) :=
    ((State.Sends.foldl (fun _ _ => .postOnce ..) ..).trans (.foldl (fun _ _ => .postOnce ..) ..)).trans (.offer ..)
  exact ((State.Sends.foldl hcore ..).trans (.postOnce ..)).trans (.postOnce ..)

theorem portUpAgain_sends (s : State) : s.Sends s.portUpAgain := by
  refine (State.Sends.foldl (fun s p => ?_) ..).trans (.foldl (fun s c => ?_) ..)
  · split
    · exact .refl s
    · exact .postOnce ..
  · split
    · exact .refl s
    · exact .foldl (fun _ _ => .postOnce ..) ..

theorem startGpio_house (s : State) (i : Fin 32) : (s.startGpio i).house = s.house := by
  have h : (if gpOn (rd s.gpcfg i) then s.postOnce 10000 (.gpioWatermarkPeriod i) else s).house = s.house := by
    split
    · exact (State.Sends.postOnce ..).keeps (p := State.house) fun _ _ => rfl
    · rfl
  unfold State.startGpio
  dsimp only
  split <;> exact h

section
variable {s : State} {b : Fin 78}

theorem functionReady_stays (h : s.house.inReset = true ∨ s.house.oos.getLsbD b.val = true ∨ s.house.ready.getLsbD b.val = true) :
    exec (.functionReady b) s = .next s := by
  rw [exec_functionReady, execFunctionReady, if_pos h]

/-- What waited for a function goes on once its bit is set, and leaves the rest of the housekeeping registers. -/
theorem functionReady_sets (hreset : s.house.inReset = false) (hoos : s.house.oos.getLsbD b.val = false)
    (hready : s.house.ready.getLsbD b.val = false) :
    ∃ t, exec (.functionReady b) s = .next t ∧ t.house = { s.house with ready := s.house.ready ||| bitOf b.val } := by
  have hport (u : State) (p : Fin 8) : (if (rd u.epcfg p).cfg.getLsbD 0 then u.startPort p else u).house = u.house := by
    split
    · exact (State.Sends.postOnce ..).keeps (p := State.house) fun _ _ => rfl
    · rfl
  have hcan (u : State) (c : Fin 4) :
      (if (rd u.canev c).getLsbD 0 then u.postOnce 10000 (.canWatermarkPeriod c) else u).house = u.house := by
    split
    · exact (State.Sends.postOnce ..).keeps (p := State.house) fun _ _ => rfl
    · rfl
  rw [exec_functionReady]
  fun_cases execFunctionReady b s
  case case1 h => simp [hreset, hoos, hready] at h
  case case2 => exact ⟨_, rfl, (clusterUp_sends ..).keeps (p := State.house) fun _ _ => rfl⟩
  case case3 => exact ⟨_, rfl, (portUpAgain_sends ..).keeps (p := State.house) fun _ _ => rfl⟩
  case case4 | case5 => exact ⟨_, rfl, hport ..⟩
  case case6 => exact ⟨_, rfl, hcan ..⟩
  case case7 => exact ⟨_, rfl, foldl_keeps State.house startGpio_house ..⟩
  case case8 => exact ⟨_, rfl, rfl⟩

end

/-! ### Functions out of service (R391, R392) -/

/-- The state in which a function has left READY for OOS, and the cores of its dies have had notice. -/
def State.withdrawn (s : State) (b : Fin 78) : State :=
  (functionDies b.val).foldl (fun (s : State) d => s.notice d 4 (BitVec.ofNat 32 b.val)) (s.updHouse (fun (h : House) =>
    { h with ready := h.ready &&& ~~~((1 : Quad) <<< b.val), oos := h.oos ||| ((1 : Quad) <<< b.val) }))

section
variable {s : State} {b : Fin 78}

theorem outOfService_again (h : s.house.oos.getLsbD b.val = true) : s.outOfService b = s := by
  rw [State.outOfService, if_pos h]

section
variable (hoos : s.house.oos.getLsbD b.val = false)
include hoos

/-- What follows the notice, by the kind of the function. -/
theorem outOfService_next : s.outOfService b = if h : b.val < 24 then
      State.dropHeads (State.dropHeads (((coresOf ⟨b.val, h⟩).foldl State.coreOut (s.withdrawn b)).queueOut ⟨b.val, h⟩) 0 256) 1 256
    else if 40 ≤ b.val ∧ b.val < 52 then
      (if (List.range 12).all (fun i => !(s.withdrawn b).house.ready.getLsbD (40 + i)) then (s.withdrawn b).diesPart
      else (s.withdrawn b).postOnce 100 (.bridgeResend (Fin.ofNat 12 (b.val - 40))))
    else if b.val = 77 then (s.withdrawn b).windowsOff else s.withdrawn b := by
  rw [State.outOfService, hoos]
  rfl

theorem outOfService_other (hcluster : 24 ≤ b.val) (hport : ¬ (40 ≤ b.val ∧ b.val < 52)) (hwin : b.val ≠ 77) :
    s.outOfService b = s.withdrawn b := by
  rw [outOfService_next hoos, dif_neg (Nat.not_lt.mpr hcluster), if_neg hport, if_neg hwin]

theorem outOfService_cluster (h : b.val < 24) : s.outOfService b =
    State.dropHeads (State.dropHeads (((coresOf ⟨b.val, h⟩).foldl State.coreOut (s.withdrawn b)).queueOut ⟨b.val, h⟩) 0 256) 1 256 := by
  rw [outOfService_next hoos, dif_pos h]

theorem outOfService_windows (h : b.val = 77) : s.outOfService b = (s.withdrawn b).windowsOff := by
  rw [outOfService_next hoos, dif_neg (by omega), if_neg (by omega), if_pos h]

section
variable (hlow : 40 ≤ b.val) (hhigh : b.val < 52)
include hlow hhigh

theorem outOfService_port (h : ∃ i, i < 12 ∧ (s.withdrawn b).house.ready.getLsbD (40 + i) = true) :
    s.outOfService b = (s.withdrawn b).postOnce 100 (.bridgeResend (Fin.ofNat 12 (b.val - 40))) := by
  rw [outOfService_next hoos, dif_neg (by omega), if_pos ⟨hlow, hhigh⟩, if_neg]
  simpa using h

theorem outOfService_lastPort (h : ∀ i, i < 12 → (s.withdrawn b).house.ready.getLsbD (40 + i) = false) :
    s.outOfService b = (s.withdrawn b).diesPart := by
  rw [outOfService_next hoos, dif_neg (by omega), if_pos ⟨hlow, hhigh⟩, if_pos]
  simpa using h

end
end
end

/-- The queue of a cluster out of service stands in line at its heir's. -/
theorem queueOut_clusters {s : State} {q p : ClusterId} (hheir : s.heirOf q = some p) (hne : p ≠ q) :
    (s.queueOut q).cluster q = { s.cluster q with tq := [], tqWait := [] } ∧
    (s.queueOut q).cluster p =
      { s.cluster p with tqWait := (s.cluster p).tqWait ++ ((s.cluster q).tq ++ (s.cluster q).tqWait) } := by
  have hout (r : ClusterId) : (s.queueOut q).cluster r = State.cluster (State.updCluster
      (s.updCluster q (fun (x : Cluster) => { x with tq := [], tqWait := [] })) p
      (fun (x : Cluster) => { x with tqWait := x.tqWait ++ ((s.cluster q).tq ++ (s.cluster q).tqWait) })) r := by
    simp only [State.queueOut, hheir]
    exact ((State.Sends.postOnce ..).trans (.offerCluster ..)).keeps (p := fun s => s.cluster r) fun _ _ => rfl
  refine ⟨?_, ?_⟩
  · rw [hout, updCluster_cluster_ne _ _ hne.symm, updCluster_cluster_same]
  · rw [hout, updCluster_cluster_same, updCluster_cluster_ne _ _ hne]

/-! ### Power and temperature (R407) -/

/-- A throttle level that is to be set only on a condition: it is set, with its notice, where it differs. -/
theorem setLevel_if (s : State) (n : Nat) (c : Prop) [Decidable c] : (if c then s.setLevel n else s) =
    if c ∧ s.house.level ≠ n then
      ((s.updHouse (fun (h : House) => { h with level := n })).notice 0 1 (BitVec.ofNat 32 n)).notice 1 1 (BitVec.ofNat 32 n)
    else s := by
  unfold State.setLevel
  by_cases hc : c
  · by_cases hn : s.house.level = n
    · simp [hn]
    · simp only [hc, hn, if_true, if_false, ne_eq, not_false_eq_true, and_self]
      rfl
  · simp [hc]

/-- The level that a measured power moves the throttle to. -/
def State.throttleTo (s : State) (power : Nat) : Nat :=
  if 105 ≤ celsius s.house.temp then 15 else if 10 * s.house.pwrlim < power then min 15 (s.house.level + 1)
  else if power < 10 * s.house.pwrlim then s.house.level - 1 else s.house.level

/-- The state in which a power has been measured. -/
def State.measured (s : State) (power : BitVec 16) : State := s.updHouse (fun (h : House) => { h with power := power.toNat })

theorem throttleTick_next (s : State) (power : BitVec 16) :
    exec (.throttleTick power) s = .next ((s.measured power).setLevel (s.throttleTo power.toNat)) := by
  have hto {n : Nat} (h : s.throttleTo power.toNat = n) :
      (.next ((s.measured power).setLevel n) : Out) = .next ((s.measured power).setLevel (s.throttleTo power.toNat)) := by rw [h]
  rw [exec_throttleTick]
  fun_cases execThrottleTick power s
  case case1 hhot => exact hto (if_pos hhot)
  case case2 hhot hover => exact hto ((if_neg hhot).trans (if_pos hover))
  case case3 hhot hover hunder => exact hto ((if_neg hhot).trans ((if_neg hover).trans (if_pos hunder)))
  case case4 hhot hover hunder =>
    refine Eq.trans ?_ (hto ((if_neg hhot).trans ((if_neg hover).trans (if_neg hunder))))
    exact congrArg Host.Outcome.next (if_pos rfl).symm

/-- The notice of a temperature of `t` °C, past its upper or below its lower mark. -/
def State.warned (s : State) (t : Int) (b : Bool) : State :=
  ((s.updHouse (fun (h : House) => { h with hot := b })).notice 0 2 (BitVec.ofInt 32 t)).notice 1 2 (BitVec.ofInt 32 t)

theorem overtemperature_next (s : State) (temp : BitVec 8) :
    let s1 := s.updHouse (fun (h : House) => { h with temp := temp.toNat })
    let t := celsius temp.toNat
    let s2 := if 100 < t ∧ s.house.hot = false then s1.warned t true else if t < 95 ∧ s.house.hot = true then s1.warned t false else s1
    let s3 := if 105 ≤ t then s2.setLevel 15 else s2
    exec (.overtemperature temp) s = .next (if 115 ≤ t then (s3.dieFault 0).dieFault 1 else s3) := by
  rw [exec_overtemperature, execOvertemperature]
  simp only [Bool.not_eq_true']
  rfl

/-! ### Device time (R403) -/

/-- What a lock writes, with DTEPOCH `e`. -/
def State.locked (s : State) (grand e : Dbl) : State :=
  let off := (BitVec.ofNat 64 s.dt + e - grand).toInt
  { s.updHouse (fun (h : House) => { h with
    dtepoch := e
    dtstat := BitVec.ofNat 64 (5 + (if 1000000 < off ∨ off < -1000000 then 2 else 0) +
      2 ^ 32 * (BitVec.ofInt 32 (max (-(2 ^ 31)) (min (2 ^ 31 - 1) off))).toNat) }) with
    freshN := s.freshN + 1, dtSlew := slewFor off (Config.freeValue s.freshN) }

/-- DTSTAT's SLEW, VALID and LOCK added up. -/
theorem dtstat_slew (off : Int) (n : Nat) :
    1 + (if (decide (1000000 < off) || decide (off < -1000000)) = true then 2 else 0) + 4 + n =
      5 + (if 1000000 < off ∨ off < -1000000 then 2 else 0) + n := by
  simp only [Bool.or_eq_true, decide_eq_true_eq]
  omega

theorem gptpSync_next (s : State) (grand : BitVec 64) : exec (.gptpSync grand) s = .next (s.locked grand
    (if s.house.dtstat.getLsbD 2 then s.house.dtepoch else grand - BitVec.ofNat 64 s.dt)) := by
  rw [exec_gptpSync, execGptpSync]
  simp only [dtstat_slew]
  rfl

/-! ### The statement -/

/-- Settles O46: each event by the case of what it finds. -/
theorem bringUpPowerAndTime : Obligations.BringUpPowerAndTime := by
  unfold Obligations.BringUpPowerAndTime
  intro s img b power temp grand
  refine ⟨reset_next s img, functionReady_stays, ?ready, fun h => congrArg Host.Outcome.next (outOfService_again h), ?other, ?out,
    fun q p => queueOut_clusters, throttleTick_next s power, ?hot, ⟨?first, ?later⟩, rfl⟩
  case ready =>
    intro hreset hoos hready
    obtain ⟨t, ht, hhouse⟩ := functionReady_sets hreset hoos hready
    have hbits (i : Nat) : t.house.ready.getLsbD i = (s.house.ready.getLsbD i || decide (i = b.val)) := by
      rw [hhouse, BitVec.getLsbD_or, bitOf_getLsbD (by omega)]
    exact ⟨t, ht, by simp [hbits], fun i hi => by simp [hbits, hi]⟩
  case other =>
    exact fun hoos hcluster hport hwin => congrArg Host.Outcome.next (outOfService_other hoos hcluster hport hwin)
  case out =>
    exact fun hoos => ⟨fun h => congrArg Host.Outcome.next (outOfService_cluster hoos h), fun hlow hhigh =>
      ⟨fun h => congrArg Host.Outcome.next (outOfService_port hoos hlow hhigh h),
        fun h => congrArg Host.Outcome.next (outOfService_lastPort hoos hlow hhigh h)⟩,
      fun h => congrArg Host.Outcome.next (outOfService_windows hoos h)⟩
  case hot =>
    intro s1 t warn s2 s3
    rw [overtemperature_next]
    simp only [setLevel_if]
    rfl
  case first =>
    intro h
    rw [gptpSync_next, if_neg (Bool.eq_false_iff.mp h)]
    rfl
  case later =>
    intro h
    rw [gptpSync_next, if_pos h]
    rfl

end Sys2Proof.Machine
end

section
/-! PROOF. What the event ports, the GPIO units and the CAN FD controllers send (22 R397, R399, R401, R402). -/

namespace Sys2Proof.Machine

/-- A fold in which one element alone acts. -/
theorem foldl_eq_of_alone {α β : Type} {f : β → α → β} {j : α} (h : ∀ i, i ≠ j → ∀ b, f b i = b) {l : List α} (hl : l.Nodup)
    (hj : j ∈ l) (b : β) : l.foldl f b = f b j := by
  induction l generalizing b with
  | nil => cases hj
  | cons a l ih =>
    obtain ⟨ha, hl⟩ := List.nodup_cons.mp hl
    rw [List.foldl_cons]
    by_cases haj : a = j
    · subst haj
      refine List.foldlRecOn (motive := fun c => c = f b a) l f rfl fun c hc i hi => ?_
      rw [h i (fun e => ha (e ▸ hi)), hc]
    · rw [h a haj, ih hl ((List.mem_cons.mp hj).resolve_left (Ne.symm haj))]

/-- What an event does of a unit whose function is not ready, or that is off. -/
theorem ite_unready {α : Type} (a b : Bool) (x y : α) :
    (if (!a) = true ∨ b = false then x else y) = if (a && b) = true then y else x := by
  cases a <;> cases b <;> rfl

theorem df_bit (x : Dbl) (i : Nat) : (df x i 1 == 1) = x.getLsbD i := fld_bit x.toNat i

/-! ### Event ports (R397, R399) -/

section
variable {s : State} {p : Fin 8} {dtype : BitVec 6} {ok : Bool} {words : List Dbl}

theorem csi2Packet_off (h : (s.portUp p && (rd s.epcfg p).cfg.getLsbD 0) = false ∨ df (rd s.epcfg p).cfg 2 6 ≠ dtype.toNat) :
    exec (.csi2Packet p dtype ok words) s = .next s := by
  rw [exec_csi2Packet, execCsi2Packet]
  refine if_pos ?_
  rcases h with h | h
  · rcases Bool.and_eq_false_iff.mp h with h | h
    · exact .inl (by simp [h])
    · exact .inr (.inl h)
  · exact .inr (.inr h)

theorem csi2Packet_on (hup : (s.portUp p && (rd s.epcfg p).cfg.getLsbD 0) = true) (htype : df (rd s.epcfg p).cfg 2 6 = dtype.toNat) :
    exec (.csi2Packet p dtype ok words) s =
      .next (if ok then words.foldl (fun (s : State) w => s.eventWord p w) s else s.countCrc p) := by
  obtain ⟨hport, hon⟩ := (Bool.and_eq_true ..).mp hup
  rw [exec_csi2Packet, execCsi2Packet]
  cases ok <;> simp [hport, hon, htype]

/-- A sub-source's watermark, where it is valid and `w` is past its last one. -/
def State.portMark (x : EvPort) (p : Fin 8) (w : Word) (s : State) (j : Fin 8) : State :=
  if (rd x.src j).getLsbD 31 = false ∨ (rd x.sub j).wm.any (fun l => !tsLt l w) then s
  else (s.updPort p (fun (x : EvPort) => { x with sub := wr x.sub j { rd x.sub j with wm := some w } })).routeMark (.port p)
    (BitVec.ofNat 16 (df (rd x.src j) 0 16)) w

/-- LAG behind now. -/
def State.portFloor (s : State) (p : Fin 8) : Word := s.now - BitVec.ofNat 32 (df (rd s.epcfg p).cfg 22 16)

theorem portWatermark_off (h : (rd s.epcfg p).cfg.getLsbD 0 = false) : exec (.portWatermarkPeriod p) s = .next s := by
  rw [exec_portWatermarkPeriod, execPortWatermarkPeriod]
  exact if_pos h

theorem portWatermark_unready (hon : (rd s.epcfg p).cfg.getLsbD 0 = true) (hport : s.portUp p = false) :
    exec (.portWatermarkPeriod p) s = .next (s.startPort p) := by
  rw [exec_portWatermarkPeriod, execPortWatermarkPeriod]
  exact (if_neg (by simp [hon])).trans (if_pos (by simp [hport]))

section
variable (hup : (s.portUp p && (rd s.epcfg p).cfg.getLsbD 0) = true)
include hup

theorem portWatermark_up : exec (.portWatermarkPeriod p) s =
    .next (((List.finRange 8).foldl (State.portMark (rd s.epcfg p) p (s.portFloor p)) s).startPort p) := by
  obtain ⟨hport, hon⟩ := (Bool.and_eq_true ..).mp hup
  rw [exec_portWatermarkPeriod, execPortWatermarkPeriod]
  exact (if_neg (by simp [hon])).trans (if_neg (by simp [hport]))

theorem portWatermark_none (h : ∀ j, (rd (rd s.epcfg p).src j).getLsbD 31 = false) :
    exec (.portWatermarkPeriod p) s = .next (s.startPort p) := by
  have hsilent (j : Fin 8) : State.portMark (rd s.epcfg p) p (s.portFloor p) s j = s := if_pos (.inl (h j))
  rw [portWatermark_up hup, List.foldl_fixed' hsilent]

/-- With one valid sub-source its watermark alone is sent. -/
theorem portWatermark_one {j : Fin 8} (hsrc : ∀ i, (rd (rd s.epcfg p).src i).getLsbD 31 = decide (i = j))
    (hpast : ∀ l, (rd (rd s.epcfg p).sub j).wm = some l → tsLt l (s.portFloor p) = true) :
    exec (.portWatermarkPeriod p) s = .next (((s.updPort p (fun (x : EvPort) =>
      { x with sub := wr x.sub j { rd x.sub j with wm := some (s.portFloor p) } })).routeMark (.port p)
        (BitVec.ofNat 16 (df (rd (rd s.epcfg p).src j) 0 16)) (s.portFloor p)).startPort p) := by
  have hsilent (i : Fin 8) (hi : i ≠ j) (t : State) : State.portMark (rd s.epcfg p) p (s.portFloor p) t i = t :=
    if_pos (.inl (by rw [hsrc, decide_eq_false hi]))
  have hsends : ¬ ((rd (rd s.epcfg p).src j).getLsbD 31 = false ∨
      (rd (rd s.epcfg p).sub j).wm.any (fun l => !tsLt l (s.portFloor p)) = true) := by
    rintro (h | h)
    · exact absurd ((hsrc j).symm.trans h) (by simp)
    · cases hwm : (rd (rd s.epcfg p).sub j).wm with
      | none => simp [hwm] at h
      | some l => simp [hwm, hpast l hwm] at h
  rw [portWatermark_up hup, foldl_eq_of_alone hsilent (List.nodup_finRange 8) (List.mem_finRange j), State.portMark, if_neg hsends]

end
end

/-! ### GPIO units and timers (R401) -/

section
variable {s : State} {i : Fin 32} {level : Bool} {edge held : Nat}

/-- Whether a unit's mode captures an edge to a level. -/
def gpCaptures (x : Dbl) (level : Bool) : Bool := if level then x.getLsbD 0 else x.getLsbD 1

theorem gpioEdge_next : exec (.gpioEdge i level edge held) s =
    if s.house.ready.getLsbD 76 = false ∨ (rd s.gpcfg i).getLsbD 2 = true ∨ gpCaptures (rd s.gpcfg i) level = false ∨
      held < 10 * df (rd s.gpcfg i) 18 10 then .next s
    else .next (s.gpioEmit i (BitVec.ofNat 32 (edge / 1000)) (if level then 1 else 0)) := by
  rw [exec_gpioEdge, execGpioEdge]
  simp only [df_bit, Bool.not_eq_true']
  rfl

theorem gpioEmit_gpNext (s : State) (i : Fin 32) (ts val : Word) : (s.gpioEmit i ts val).gpNext = s.gpNext :=
  (State.Sends.sendPacket ..).keeps (p := State.gpNext) fun _ _ => rfl

theorem gpioTimer_off (h : s.house.ready.getLsbD 76 = false ∨ df (rd s.gpcfg i) 0 3 ≠ 7) :
    exec (.gpioTimerPeriod i) s = .next s := by
  rw [exec_gpioTimerPeriod, execGpioTimerPeriod]
  refine if_pos (h.imp (fun h => by rw [h]; rfl) fun h => ?_)
  simpa [gpTimer] using h

theorem gpioTimer_due (hready : s.house.ready.getLsbD 76 = true) (hmode : df (rd s.gpcfg i) 0 3 = 7)
    (hdue : 1000 * rd s.gpNext i * df (rd s.gpcfg i) 28 32 ≤ s.dt) :
    exec (.gpioTimerPeriod i) s = .next (State.postOnce
      { s.gpioEmit i (BitVec.ofNat 32 (rd s.gpNext i * df (rd s.gpcfg i) 28 32)) (BitVec.ofNat 32 (rd s.gpNext i)) with
        gpNext := wr s.gpNext i (rd s.gpNext i + 1) }
      (1000 * (rd s.gpNext i + 1) * df (rd s.gpcfg i) 28 32 - s.dt) (.gpioTimerPeriod i)) := by
  rw [exec_gpioTimerPeriod, execGpioTimerPeriod]
  refine (if_neg (by simp [hready, gpTimer, hmode])).trans ((if_neg (Nat.not_lt.mpr hdue)).trans ?_)
  dsimp only
  rw [gpioEmit_gpNext]
  rfl

theorem gpioWatermark_on (hready : s.house.ready.getLsbD 76 = true) (hmode : df (rd s.gpcfg i) 0 2 ≠ 0) :
    exec (.gpioWatermarkPeriod i) s = .next ((s.routeMark (.gpio i) (BitVec.ofNat 16 (0x1000 + i.val))
      (BitVec.ofNat 32 ((s.dt - 10 * df (rd s.gpcfg i) 18 10) / 1000))).postOnce 10000 (.gpioWatermarkPeriod i)) := by
  rw [exec_gpioWatermarkPeriod, execGpioWatermarkPeriod]
  exact if_neg (by simp [hready, gpOn, hmode])

end

/-! ### CAN FD (R402) -/

section
variable {s : State} {c : Fin 4} {f : CanFrame}

/-- Whether a controller's filter wants a frame. -/
def canWanted (ev flt : Dbl) (f : CanFrame) : Bool :=
  !f.bad && (df ev 1 2 == 2 || (df ev 1 2 == 1) == f.ext) && (!f.remote || ev.getLsbD 3) &&
    Nat.land (Nat.xor f.ident.toNat (df flt 0 29)) (df flt 32 29) == 0

theorem canMatches_eq (ev flt : Dbl) (f : CanFrame) : canMatches ev flt f = (ev.getLsbD 0 && canWanted ev flt f) := by
  simp only [canMatches, canWanted, Bool.and_assoc]

theorem canFrame_next : exec (.canFrameEvent c f) s =
    if (s.house.ready.getLsbD (72 + c.val) && (rd s.canev c).getLsbD 0 && canWanted (rd s.canev c) (rd s.canflt c) f) = true then
      .next (State.sendPacket { s with canSof := wr s.canSof c none } (Fin.ofNat 384 (df (rd s.canev c) 10 9)) (.can c)
        (mkAep (df (rd s.canev c) 4 6) 0 (0x1040 + c.val) 0 (BitVec.ofNat 32 (f.sof / 1000))
          (BitVec.ofNat 32 (f.ident.toNat + (if f.ext then 2 ^ 31 else 0))) (BitVec.ofNat 32 (ofBytes (f.data.take 4)))) [])
    else .next { s with canSof := wr s.canSof c none } := by
  rw [exec_canFrameEvent, execCanFrameEvent, Bool.and_assoc, ← canMatches_eq]
  exact ite_unready ..

theorem canWatermark_next : exec (.canWatermarkPeriod c) s =
    if (s.house.ready.getLsbD (72 + c.val) && (rd s.canev c).getLsbD 0) = true then
      .next ((s.routeMark (.can c) (BitVec.ofNat 16 (0x1040 + c.val)) (s.canFloor c)).postOnce 10000 (.canWatermarkPeriod c))
    else .next s := by
  rw [exec_canWatermarkPeriod, execCanWatermarkPeriod]
  exact ite_unready ..

end

/-! ### The statement -/

/-- Settles O47: each source by whether its unit is up, and what its mode or filter wants. -/
theorem edgeSourcesEmitEvents : Obligations.EdgeSourcesEmitEvents := by
  unfold Obligations.EdgeSourcesEmitEvents
  intro s p dtype ok words i level edge held c f
  refine ⟨?port, ?gpio, ?can⟩
  case port =>
    refine ⟨csi2Packet_off, csi2Packet_on, portWatermark_off, fun hon hdown => portWatermark_unready hon ?_, portWatermark_none,
      fun j hup => portWatermark_one hup⟩
    have hport : (s.portUp p && (rd s.epcfg p).cfg.getLsbD 0) = false := hdown
    rwa [hon, Bool.and_true] at hport
  case gpio =>
    refine ⟨fun hready hedge hmode hheld => ?_, fun h => ?_, ⟨gpioTimer_off, gpioTimer_due⟩, gpioWatermark_on⟩
    · rw [gpioEdge_next]
      refine if_neg ?_
      have hcaptures : gpCaptures (rd s.gpcfg i) level = true := hmode
      rw [hready, hedge, hcaptures]
      simpa using hheld
    · rw [gpioEdge_next]
      exact if_pos h
  case can =>
    refine ⟨fun hup hwanted => ?_, fun h => ?_, fun hup => ?_, fun hdown => ?_⟩
    · rw [canFrame_next]
      exact if_pos ((Bool.and_eq_true ..).mpr ⟨hup, hwanted⟩)
    · rw [canFrame_next]
      exact if_neg (Bool.eq_false_iff.mp (Bool.and_eq_false_iff.mpr h))
    · rw [canWatermark_next]
      exact if_pos hup
    · rw [canWatermark_next]
      exact if_neg (Bool.eq_false_iff.mp hdown)

end Sys2Proof.Machine
end
